-- ==== Sys2Proof/Word.lean ====
section
/-!
DEFINITION. The plainest types of the model: bytes, byte strings, and sparse tables held as lists.

Every multi-byte format of the module is a string of bytes (R5 of spec/00_scope.md); quantities that software
never sees as a word are natural numbers or integers.
-/

namespace Sys2Proof

/-- One byte of a register, a payload, a record or a frame. -/
abbrev Byte := BitVec 8

/-- A string of bytes, lowest offset first. -/
abbrev Bytes := List Byte

/-- A sparse table: entries by number, numbers strictly rising, absent numbers not listed. -/
abbrev Table (α : Type) := List (Nat × α)

/-- A 32-bit register of the host interface. -/
abbrev Reg32 := BitVec 32

/-- A 64-bit register of the host interface. -/
abbrev Reg64 := BitVec 64

end Sys2Proof
end

