-- ==== Sys2Proof/Inputs.lean ====
section
/-!
DEFINITION. What the commands of the block carry from outside: host requests, frames, measured values and results.
The operand types of `Syntax.lean`.
-/

namespace Sys2Proof

/-- How a request reached Folset: a mailbox of BAR0, or a UDP datagram of a session with its seq (R117, R147 of 05). -/
inductive Via
  | mailbox (k : Nat)
  | udp (seq : Nat)
  deriving DecidableEq, Repr

/-- A command request: the 16 B header of R120 (opcode apart) and the payload bytes that follow it. -/
structure Request where
  via : Via
  tag : Nat
  length : Nat
  flags : Nat
  session : Nat
  reserved : Nat
  payload : Bytes
  deriving DecidableEq, Repr

/-- A key handle (R516 of 15): a stored key by its purpose and index, or a derivation with its context fields (R518).
Serials, nonces and card numbers are bytes; the derivation of the meter root key is part of the link key's. -/
inductive KeyHandle
  | stored (purpose index : Nat)
  | meterLink (serial generation : Nat)
  | group (bridge group generation : Nat)
  | bridgeLong (bridge serial admission : Nat)
  | bridgeEpoch (bridge serial admission epoch : Nat) (bridgeNonce moduleNonce : Bytes)
  | token (account : Nat)
  | card (issuer : Nat) (number : Bytes)
  | mirror (epoch dutySerial standbySerial : Nat)
  deriving DecidableEq, Repr

/-- The raw samples of one local channel in a window: the 32 values that the decimation filter gives (R233 of 08). -/
structure RawWindow where
  channel : Nat
  samples : List Int
  deriving DecidableEq, Repr

/-- What is measured around a tick start: window n−1 of the local channels, temperatures, supplies (R20, R31, R237). -/
structure TickInputs where
  windows : List RawWindow := []
  /-- temperatures of the four local groups in 0.01 °C (R237) -/
  groupTemps : List Int := [2500, 2500, 2500, 2500]
  /-- junction temperatures in °C of GL-C and GL-F (R31) -/
  tempC : Int := 25
  tempF : Int := 25
  /-- MAIN, BATT, VBUS in 0.1 V, input power in 0.1 W, Keep reserve in mV (R79) -/
  mainDv : Nat := 480
  battDv : Nat := 0
  vbusDv : Nat := 480
  inputDw : Nat := 0
  keepReserveMv : Nat := 0
  /-- FIELD_24V in 0.1 V and 0.1 A (R474, R495) -/
  field24Dv : Nat := 240
  field24Da : Nat := 0
  /-- what the servo has slewed in the tick that ends, in ns: at most 100, as ±100 ppm of 1 ms (R85) -/
  slewedNs : Int := 0
  /-- positive-going zero crossings of MSNS0 to MSNS2 in µs of Gliris time (R232 of 08, R388 of 11) -/
  crossings : List (List Nat) := []
  /-- frequency readings of MSNS0 to MSNS2 in mHz (R232 of 08) -/
  frequencies : List Nat := []
  /-- receive samples of the tick that ends, 75,000 of 12 bits each, by charge point (R441) -/
  gphy : List (Nat × Bytes) := []
  /-- measures of the round that has just ended (R192): occupancy, DRAM, Folset, latencies, slack, stream rate -/
  load : List Nat := []
  deriving DecidableEq, Repr

/-- What a cold start finds: the comb of R54 reads wet; the RTC's count in ms since Keep entry (R84); copies A and B of the
power-down and frontier records read back with a valid CRC (R73, R102); the Folset images of banks A and B pass their check (R596
of 18); Folset becomes ready (R608 of 18); safety outputs whose power-up test fails (R489 of 14). -/
structure StartInputs where
  wet : Bool := false
  rtcElapsed : Nat := 0
  downGood : List Bool := [true, true]
  frontierGood : List Bool := [true, true]
  imageGood : List Bool := [true, true]
  folsetUp : Bool := true
  failedOutputs : List Nat := []
  deriving DecidableEq, Repr

/-- One position found by an enumeration: serial number, firmware hash, answering port, hop delay (R256 of 08). -/
structure RingFound where
  position : Nat
  serial : Nat
  firmware : Bytes
  hopDelayNs : Nat
  deriving DecidableEq, Repr

/-- A request that reaches an arbiter: its requester, its length in beats, and the umbel and fence epoch it carries, if an
umbel sent it (R215, R216 of 07). -/
structure ArbAsk where
  requester : Nat
  beats : Nat
  umbel : Option (Nat × Nat) := none
  deriving DecidableEq, Repr

/-- One sample of the tamper inputs: each input reads open (R547 of 16). -/
abbrev TamperSample := List Bool

/-- A HELLO of the peer (R553 of 16). -/
structure Hello where
  serial : Nat
  slot : Nat
  role : Nat
  epoch : Nat
  frontier : Nat
  lastRoleDuty : Bool
  sync : Nat
  deriving DecidableEq, Repr

/-- A PTP Announce message as the slave reads it (R80, R81, R93 of 04). -/
structure Announce where
  clockClass : Nat
  port : Nat
  domain : Nat
  accuracy : Nat
  variance : Nat
  priority2 : Nat
  identity : Nat
  steps : Nat
  utcOffset : Nat
  utcValid : Bool
  leap59 : Bool
  leap61 : Bool
  deriving DecidableEq, Repr

/-- What a message of a vehicle protocol says (R443 of 13). The message formats are those of the standards the spec names, so the
command carries the decoded content: powers in 0.1 kW, voltages in 0.1 V, currents in 0.1 A. -/
inductive V2gMessage
  /-- the energy service and control mode chosen: bidirectional DC, scheduled -/
  | service (bpt scheduled : Bool)
  /-- the vehicle's limits: power, discharge power, voltage -/
  | limits (maxDkw maxDischargeDkw maxVoltageDv : Nat)
  /-- payment option Contract: certificate chain, leaf first, and EMAID -/
  | contract (chain emaid : Bytes)
  /-- AuthorizationReq: the challenge it repeats, the bytes signed, the signature -/
  | authorization (challenge signed signature : Bytes)
  /-- cable check at a voltage -/
  | cableCheck (voltageDv : Nat)
  /-- precharge: the vehicle's present voltage, and the voltage reached -/
  | precharge (targetDv presentDv : Nat)
  /-- a current-demand or charge-loop request: target voltage, present voltage, target current -/
  | demand (targetDv presentDv : Nat) (currentDa : Int)
  /-- CertificateInstallation or CertificateUpdate -/
  | certificate
  /-- the vehicle ends the session -/
  | stop
  deriving DecidableEq, Repr

end Sys2Proof
end

