-- ==== Sys2Proof/Syntax.lean ====
section
/-!
DEFINITION. The commands of the block: one constructor per row of spec/opcode_table.json, in its order, with what each
carries from outside. Host requests carry the request of R120; events carry what happened.
-/

namespace Sys2Proof

/-- A command to the block: a host request, an access of the host, or an event on its pins, links and parts. -/
inductive Instr
  /-- SYS_IDENTIFY (R152) Command that returns the module's identity, served in every life-cycle state and during a live update. -/
  | sysIdentify (rq : Request)
  /-- SYS_SESSION_OPEN (R153) Command that opens a pending session for a role and principal and returns a challenge. -/
  | sysSessionOpen (rq : Request)
  /-- SYS_SESSION_AUTH (R154) Command that verifies the signature over the authentication message and binds the role to the pending session. -/
  | sysSessionAuth (rq : Request)
  /-- SYS_SESSION_CLOSE (R155) Command that closes the requesting session, or another session for a WARDEN. -/
  | sysSessionClose (rq : Request)
  /-- SYS_STREAM_CONFIG (R156) Command that sets a stream channel's mode, autoack and target from its next page boundary. -/
  | sysStreamConfig (rq : Request)
  /-- SYS_LIFECYCLE (R157) Command that performs a permitted life-cycle transition and destroys the slots that transition names. -/
  | sysLifecycle (rq : Request)
  /-- SYS_POWER_MODE (R78) Command that sets the command demand and the battery policy together. -/
  | sysPowerMode (rq : Request)
  /-- SYS_POWER_STATUS (R79) Command that returns the power mode, the hand-over state, the voltages and the latest power-down record. -/
  | sysPowerStatus (rq : Request)
  /-- TIME_STATUS (R106) Command that returns the clock trust, the selected source, the offset and the pending step. -/
  | timeStatus (rq : Request)
  /-- TIME_CONFIG (R107) Command that sets the source priority, the PTP domain and ports, the PPS delay and the step limit. -/
  | timeConfig (rq : Request)
  /-- TIME_STEP (R108) Command that accepts or rejects a pending step, or sets the time while the clock is untrusted. -/
  | timeStep (rq : Request)
  /-- TIME_CIVIL (R109) Command that arms the civil-time table to activate at a round start. -/
  | timeCivil (rq : Request)
  /-- TIME_TICKS (R110) Command that returns the frontier, the open ticks and the tick counters. -/
  | timeTicks (rq : Request)
  /-- YRW_STATUS (R188) Command that returns the umbel states and the generation of the active workload table. -/
  | yrwStatus (rq : Request)
  /-- YRW_CATALOGUE (R194) Command that returns one entry of the kernel catalogue. -/
  | yrwCatalogue (rq : Request)
  /-- YRW_WORKLOAD_ARM (R195) Command that receives a workload table over a stream channel, validates it and arms it for a round start. -/
  | yrwWorkloadArm (rq : Request)
  /-- YRW_PARAM_SET (R196) Command that arms a raw kernel parameter block. -/
  | yrwParamSet (rq : Request)
  /-- YRW_SPARES (R197) Command that sets the spare-umbel count and auto-reinstatement from a round start. -/
  | yrwSpares (rq : Request)
  /-- YRW_UMBEL (R198) Command that queries, retires, reinstates or tests one umbel under the umbel state machine. -/
  | yrwUmbel (rq : Request)
  /-- YRW_KERNEL_ROLL (R199) Command that starts, pauses, resumes or reverts a rolling kernel update. -/
  | yrwKernelRoll (rq : Request)
  /-- YRW_LOAD (R192) Command that returns the load and latency measures of the previous round. -/
  | yrwLoad (rq : Request)
  /-- YRW_WORKLOAD_STATS (R200) Command that returns the statistics of one workload of the active table. -/
  | yrwWorkloadStats (rq : Request)
  /-- YRW_WORKLOAD_READ (R201) Command that returns one descriptor of the active or the pending workload table. -/
  | yrwWorkloadRead (rq : Request)
  /-- MEM_STATUS (R224) Command that returns the memory error counts, the retired pages and the boot-bank states. -/
  | memStatus (rq : Request)
  /-- MEM_ARB_READ (R225) Command that returns the active or the pending table of one arbiter. -/
  | memArbRead (rq : Request)
  /-- MEM_ARB_SET (R226) Command that arms an arbiter slot table to take effect at a table-period boundary. -/
  | memArbSet (rq : Request)
  /-- MEM_ARB_STATS (R227) Command that returns the grant statistics of one requester of an arbiter. -/
  | memArbStats (rq : Request)
  /-- MET_STATUS (R275) Command that returns the calibration, the seals, the audit sequence and the self-test state. -/
  | metStatus (rq : Request)
  /-- MET_SET_READ (R276) Command that returns the powers, the flags and the demand registers of one channel set. -/
  | metSetRead (rq : Request)
  /-- MET_CHANNEL_READ (R277) Command that returns the measured values and the corrections in use for one channel. -/
  | metChannelRead (rq : Request)
  /-- MET_RING_STATUS (R278) Command that returns the state of a sensor ring and of its satellite positions. -/
  | metRingStatus (rq : Request)
  /-- MET_CAL_ARM (R279) Command that receives a calibration record, validates it and arms it while MS1 is open. -/
  | metCalArm (rq : Request)
  /-- MET_CAL_CAPTURE (R280) Command that requests a raw capture of up to 8 channels against a reference channel. -/
  | metCalCapture (rq : Request)
  /-- MET_DEMAND_SET (R281) Command that configures or removes one demand register from its next aligned boundary. -/
  | metDemandSet (rq : Request)
  /-- MET_DEMAND_RESET (R282) Command that moves the maximum of the demand registers to their previous maximum and zeroes it. -/
  | metDemandReset (rq : Request)
  /-- MET_AUDIT_READ (R283) Command that returns committed metrology audit entries. -/
  | metAuditRead (rq : Request)
  /-- LED_STATUS (R22) Command that returns the account counts, the tariff generation and the journal sequence. -/
  | ledStatus (rq : Request)
  /-- LED_ACCOUNT_READ (R316) Command that returns part of the committed live half of one account record. -/
  | ledAccountRead (rq : Request)
  /-- LED_ACCOUNT_SET (R317) Command that creates, modifies, closes or purges an account, or records a meter exchange, in step 4 of a tick. -/
  | ledAccountSet (rq : Request)
  /-- LED_TOKEN_SUBMIT (R318) Command that submits a 20-digit token for checking and application. -/
  | ledTokenSubmit (rq : Request)
  /-- LED_ADJUST (R319) Command that posts a signed host adjustment to an account. -/
  | ledAdjust (rq : Request)
  /-- LED_SUPPLY (R320) Command that holds or releases supply, grants emergency credit, or clears the keypad lock. -/
  | ledSupply (rq : Request)
  /-- LED_ACCOUNT_RESTORE (R321) Command that restores a damaged account from a host image. -/
  | ledAccountRestore (rq : Request)
  /-- LED_TARIFF_ARM (R322) Command that receives a tariff table, validates it and arms it for a round start. -/
  | ledTariffArm (rq : Request)
  /-- LED_LOCAL_READ (R323) Command that returns part of the committed half of a local register set. -/
  | ledLocalRead (rq : Request)
  /-- LED_JOURNAL_READ (R324) Command that streams committed journal entries in jseq order. -/
  | ledJournalRead (rq : Request)
  /-- BAL_STATUS (R345) Command that returns the balance publication state and the suspicion counts. -/
  | balStatus (rq : Request)
  /-- BAL_MODEL_ARM (R353) Command that receives a balance model table, validates it and arms it. -/
  | balModelArm (rq : Request)
  /-- BAL_RULES_SET (R354) Command that sets one suspicion rule profile from a round start. -/
  | balRulesSet (rq : Request)
  /-- BAL_ATTRIBUTE (R355) Command that pins or clears the balance phase of a node from a window start. -/
  | balAttribute (rq : Request)
  /-- BAL_NETWORK_READ (R356) Command that returns the latest round or window record of a network or a feeder. -/
  | balNetworkRead (rq : Request)
  /-- BAL_HISTORY_READ (R357) Command that streams balance history or suspicion records. -/
  | balHistoryRead (rq : Request)
  /-- BAL_SUSPICION_READ (R358) Command that returns one suspicion record. -/
  | balSuspicionRead (rq : Request)
  /-- BAL_SUSPICION_CLOSE (R359) Command that closes a suspicion record with a disposition. -/
  | balSuspicionClose (rq : Request)
  /-- STEM_STATUS (R390) Command that returns the bridge counts and the Stem ingress statistics. -/
  | stemStatus (rq : Request)
  /-- STEM_BRIDGE_SET (R391) Command that admits, modifies, removes or fences a bridge under the bridge state machine. -/
  | stemBridgeSet (rq : Request)
  /-- STEM_TX_SET (R392) Command that arms or merges into the bridge transmit plan table. -/
  | stemTxSet (rq : Request)
  /-- STEM_BRIDGE_READ (R393) Command that returns the state and the statistics of one bridge. -/
  | stemBridgeRead (rq : Request)
  /-- PLC_POLL_SET (R394) Command that arms a power-line polling profile. -/
  | plcPollSet (rq : Request)
  /-- PLC_NETWORK_READ (R395) Command that returns the power-line state of one network. -/
  | plcNetworkRead (rq : Request)
  /-- PLC_NODE_READ (R396) Command that returns the route, the phase and the counters of one power-line node. -/
  | plcNodeRead (rq : Request)
  /-- RF_NETWORK_SET (R426) Command that arms the radio configuration of a network or binds an on-module transceiver. -/
  | rfNetworkSet (rq : Request)
  /-- RF_NETWORK_READ (R427) Command that returns the radio state of one network. -/
  | rfNetworkRead (rq : Request)
  /-- RF_CONN_READ (R428) Command that returns the state of one radio connection. -/
  | rfConnRead (rq : Request)
  /-- MTR_BIND (R429) Command that binds or unbinds a meter serial to an account. -/
  | mtrBind (rq : Request)
  /-- MTR_READ (R430) Command that returns the identity and the latest contact of an account's meter. -/
  | mtrRead (rq : Request)
  /-- MTR_REQUEST (R431) Command that queues a read, identify, link key change or time message to a meter. -/
  | mtrRequest (rq : Request)
  /-- MTR_FW_STAGE (R432) Command that stores a meter firmware image in a slot and checks its hash. -/
  | mtrFwStage (rq : Request)
  /-- MTR_FW_CAMPAIGN (R433) Command that starts, pauses, resumes or aborts a meter firmware campaign. -/
  | mtrFwCampaign (rq : Request)
  /-- MTR_FW_STATUS (R434) Command that returns the progress of a firmware campaign. -/
  | mtrFwStatus (rq : Request)
  /-- CHG_STATUS (R464) Command that returns the charge-point availability, the session bits and the armed groups. -/
  | chgStatus (rq : Request)
  /-- CHG_POINT_SET (R465) Command that configures a charge point or clears its lock-out. -/
  | chgPointSet (rq : Request)
  /-- CHG_PATH_SET (R466) Command that configures or removes a supply path. -/
  | chgPathSet (rq : Request)
  /-- CHG_BUS_SET (R467) Command that sets the rates, the sample points and the termination of a CAN FD bus. -/
  | chgBusSet (rq : Request)
  /-- CHG_ID_SET (R468) Command that adds, replaces or removes card and contract identification entries. -/
  | chgIdSet (rq : Request)
  /-- CHG_AUTHORISE (R469) Command that grants or refuses a charge point for an account. -/
  | chgAuthorise (rq : Request)
  /-- CHG_STOP (R470) Command that stops the session or the held grant at a charge point. -/
  | chgStop (rq : Request)
  /-- CHG_POINT_READ (R471) Command that returns the state, the measurements and the session of one charge point. -/
  | chgPointRead (rq : Request)
  /-- FIO_LS_CONFIG (R497) Command that arms the configuration of one load-switch channel. -/
  | fioLsConfig (rq : Request)
  /-- FIO_LS_SET (R498) Command that switches host-use channels off or on, or clears latched trips. -/
  | fioLsSet (rq : Request)
  /-- FIO_LS_READ (R499) Command that returns a load-switch channel's flags, and its current on the GL1024-S. -/
  | fioLsRead (rq : Request)
  /-- FIO_PANEL_SET (R500) Command that stores or removes the profile of an e-paper panel. -/
  | fioPanelSet (rq : Request)
  /-- FIO_PANEL_DRAW (R501) Command that queues a partial or full draw on a panel. -/
  | fioPanelDraw (rq : Request)
  /-- FIO_PANEL_READ (R502) Command that returns the state of a panel. -/
  | fioPanelRead (rq : Request)
  /-- SAF_STATUS (R503) Command that returns the safety inputs and outputs, the seals and FIELD_24V. -/
  | safStatus (rq : Request)
  /-- SAF_INPUT_SET (R504) Command that configures a safety input or resets its fault. -/
  | safInputSet (rq : Request)
  /-- SAF_OUTPUT_SET (R505) Command that commands a general safety output or runs its reset test. -/
  | safOutputSet (rq : Request)
  /-- VLT_STATUS (R506) Command that returns the slot counts and the engines in service. -/
  | vltStatus (rq : Request)
  /-- VLT_SLOT_WRITE (R531) Command that writes or generates the key of a vault slot at an activation tick. -/
  | vltSlotWrite (rq : Request)
  /-- VLT_SLOT_READ (R532) Command that returns the attribute, the check value and the public point of a slot. -/
  | vltSlotRead (rq : Request)
  /-- VLT_SLOT_DESTROY (R533) Command that destroys a vault slot at an activation tick. -/
  | vltSlotDestroy (rq : Request)
  /-- VLT_CERT_SET (R534) Command that installs or removes an entry of the certificate store. -/
  | vltCertSet (rq : Request)
  /-- VLT_ATTEST (R535) Command that returns the state of the module under a MAC keyed by the attestation secret. -/
  | vltAttest (rq : Request)
  /-- VLT_ENGINE (R536) Command that queries, self-tests or retests one cipher engine. -/
  | vltEngine (rq : Request)
  /-- FLT_STATUS (R563) Command that returns the fault summary and the safe-state flag. -/
  | fltStatus (rq : Request)
  /-- FLT_READ (R564) Command that returns the record of one fault source. -/
  | fltRead (rq : Request)
  /-- FLT_CLEAR (R565) Command that returns ENDED fault records to IDLE. -/
  | fltClear (rq : Request)
  /-- FLT_SAFE (R566) Command that enters or leaves the commanded safe state. -/
  | fltSafe (rq : Request)
  /-- FLT_INJECT (R567) Command that arms a fault injection on a checker. -/
  | fltInject (rq : Request)
  /-- FLT_TAMPER (R568) Command that reads or clears the tamper latches, or sets the tamper enable mask. -/
  | fltTamper (rq : Request)
  /-- DUTY_STATUS (R569) Command that returns the role, the baton, the synchronisation state and the epochs. -/
  | dutyStatus (rq : Request)
  /-- DUTY_YIELD (R570) Command that sends YIELD and releases the baton to the standby. -/
  | dutyYield (rq : Request)
  /-- DUTY_TAKEOVER (R571) Command that claims duty without the eligibility test. -/
  | dutyTakeover (rq : Request)
  /-- DUTY_RESYNC (R572) Command that resynchronises an out-of-sync or split standby from the duty. -/
  | dutyResync (rq : Request)
  /-- LNK_STATUS (R587) Command that returns the grouping and the port summary. -/
  | lnkStatus (rq : Request)
  /-- LNK_GROUPING (R588) Command that records the lane grouping for the next cold start. -/
  | lnkGrouping (rq : Request)
  /-- LNK_PORT_SET (R589) Command that enables or disables a port and sets its medium, MTU, router and asymmetry. -/
  | lnkPortSet (rq : Request)
  /-- LNK_ADDR_SET (R590) Command that sets or clears an address entry of a port. -/
  | lnkAddrSet (rq : Request)
  /-- LNK_MACSEC_SET (R591) Command that configures MACsec for a port group at an activation tick. -/
  | lnkMacsecSet (rq : Request)
  /-- LNK_PORT_READ (R592) Command that returns the state and the counters of one port. -/
  | lnkPortRead (rq : Request)
  /-- SVC_STATUS (R613) Command that returns the boot, update and trace state. -/
  | svcStatus (rq : Request)
  /-- SVC_STAGE (R614) Command that receives a signed image and writes it into the build bank. -/
  | svcStage (rq : Request)
  /-- SVC_UPDATE (R615) Command that starts a Folset or GL-F live update, or reverts a Folset update in probation. -/
  | svcUpdate (rq : Request)
  /-- SVC_BANK (R616) Command that queries, commits or discards the build bank, or makes a valid bank active. -/
  | svcBank (rq : Request)
  /-- SVC_TRACE_CONFIG (R617) Command that configures the trace ring or unfreezes it. -/
  | svcTraceConfig (rq : Request)
  /-- SVC_TRACE_EXPORT (R618) Command that streams trace records from the ring or from a tail slot. -/
  | svcTraceExport (rq : Request)
  /-- SVC_TRACE_MARK (R619) Command that writes a MARK record, optionally as a freeze trigger. -/
  | svcTraceMark (rq : Request)
  /-- JORNY_HELP (R609) Jorny line command that lists the commands. -/
  | jornyHelp
  /-- JORNY_ID (R609) Jorny line command that returns the identity as SYS_IDENTIFY does. -/
  | jornyId
  /-- JORNY_STATUS (R609) Jorny line command that returns GSTAT, the frontier and the power state. -/
  | jornyStatus
  /-- JORNY_FAULTS (R609) Jorny line command that returns the fault records that are not IDLE, or one record. -/
  | jornyFaults (source : Option Nat)
  /-- JORNY_AUTH (R609) Jorny line command that opens an authentication challenge for a role and principal. -/
  | jornyAuth (role principal : Nat)
  /-- JORNY_SIG (R609) Jorny line command that supplies the signature and binds the role. -/
  | jornySig (signature : Bytes)
  /-- JORNY_LOGOUT (R609) Jorny line command that ends the authenticated role. -/
  | jornyLogout
  /-- JORNY_TRACE (R609) Jorny line command that prints the newest trace records. -/
  | jornyTrace (count : Option Nat)
  /-- JORNY_TAIL (R609) Jorny line command that prints the records of a valid tail slot. -/
  | jornyTail (slot : Nat)
  /-- JORNY_BANK (R609) Jorny line command that returns the bank states and versions. -/
  | jornyBank
  /-- JORNY_BANK_COMMIT (R609) Jorny line command that commits the build bank as SVC_BANK action 1. -/
  | jornyBankCommit
  /-- JORNY_BANK_USE (R609) Jorny line command that makes bank A or B active as SVC_BANK action 3. -/
  | jornyBankUse (bankB : Bool)
  /-- JORNY_LOAD (R610) Jorny line command that begins a binary image load into the build bank in standalone. -/
  | jornyLoad (target len : Nat)
  /-- JORNY_LOAD_BLOCK (R610) A block of offset, data and CRC received during LOAD, accepted with 0x06 or refused with 0x15. -/
  | jornyLoadBlock (offset : Nat) (data : Bytes) (crc : Nat)
  /-- JORNY_LOAD_TIMEOUT (R610) LOAD gives up after 10 s without a byte. -/
  | jornyLoadTimeout
  /-- JORNY_RESTART (R609) Jorny line command that restarts Folset from the active bank and ends standalone. -/
  | jornyRestart
  /-- JORNY_ROLE_TIMEOUT (R609) An authenticated Jorny role ends after 900 s without a command. -/
  | jornyRoleTimeout
  /-- JORNY_BREAK (R608) SVC_RXD held low for 200 ms early after VIGIL power-up puts Jorny into standalone. -/
  | jornyBreak
  /-- MBOX_REQUEST_WRITE (R118) Host write to the request area of a mailbox, accepted or discarded with host error 1 by mailbox state. -/
  | mboxRequestWrite (k offset : Nat) (data : Bytes)
  /-- MBOX_RING (R118) Host doorbell write that queues each rung mailbox's request to Folset in ascending order. -/
  | mboxRing (mask : Nat)
  /-- MBOX_DONE_CLEAR (R118) Host write of 1 to a MBOX_DONE bit that returns the mailbox to FREE. -/
  | mboxDoneClear (mask setNow : Nat)
  /-- INT_STATUS_CLEAR (R115) Host W1C write to INT_STATUS clearing latched interrupt causes. -/
  | intStatusClear (mask setNow : Nat)
  /-- HOST_ERR_INFO_READ (R116) Host read of HOST_ERR_INFO that returns and clears the latest host access error. -/
  | hostErrInfoRead (setNow : Bool)
  /-- GSTAT_FRONTIER_READ (R114) Host 4-byte read of 0x0048 that latches the upper half of the frontier for the next read of 0x004C. -/
  | gstatFrontierRead (upper : Bool)
  /-- STRM_TAIL_WRITE (R139) Host write of STRM_TAIL that acknowledges to-host pages or commits from-host pages. -/
  | strmTailWrite (channel value : Nat)
  /-- STRM_DATA_ACCESS (R138) Host 8-byte access to STRM_DATA that moves 8 bytes of the current page and advances the cursor. -/
  | strmDataAccess (channel : Nat) (write : Option Nat)
  /-- STREAM_FRAME_ACCESS (R139) Host burst access to a page frame in BAR2, which pins the page. -/
  | streamFrameAccess (channel frame offset len : Nat) (write : Option Bytes)
  /-- RESERVED_BAR_ACCESS (R116) Host access to a reserved BAR0 address or of the wrong size, recorded as a host access error. -/
  | reservedBarAccess (offset : Nat) (wrongSize : Bool)
  /-- REGISTER_WRITE (R8) Host write to a register without behaviour of its own, such as INT_ENABLE, INT_HOLDOFF, INT_MAP or the MSI-X table. -/
  | registerWrite (offset value : Nat)
  /-- PCIE_RESET (R150) PCI Express link loss, PCIE_PERST_N assertion or function level reset returns the host interface registers to reset. -/
  | pcieReset (perst : Bool)
  /-- INT_HOLDOFF_EXPIRY (R115) The holdoff of a vector ends and a held-back MSI-X message is sent. -/
  | intHoldoffExpiry (vector : Nat)
  /-- SESSION_IDLE_TIMEOUT (R132) A session ends after its idle timeout with no command. -/
  | sessionIdleTimeout (session : Nat)
  /-- SESSION_PENDING_TIMEOUT (R132) A pending session not authenticated within 5 s ends. -/
  | sessionPendingTimeout (session : Nat)
  /-- PRINCIPAL_LOCKOUT_EXPIRY (R134) A principal's 300 s authentication lock-out ends. -/
  | principalLockoutExpiry (principal : Nat)
  /-- UDP_REQUEST_RX (R148) A Folset request datagram received over UDP, authenticated and checked against the replay window. -/
  | udpRequestRx (peer datagram : Bytes)
  /-- UDP_EVENT_ACK_RX (R149) A type 3 datagram that acknowledges an event datagram. -/
  | udpEventAckRx (datagram : Bytes)
  /-- UDP_EVENT_RESEND (R149) An unacknowledged event datagram is resent every 50 ms, ending the session after 20 sends. -/
  | udpEventResend (session seq : Nat)
  /-- STREAM_PAGE_ABANDON (R139) A pinned oldest to-host page unaccessed for 100 ms is abandoned and re-queued. -/
  | streamPageAbandon (channel : Nat)
  /-- STREAM_PAGE_STALL (R140) A from-host frame written in part and uncommitted for 100 ms is discarded. -/
  | streamPageStall (channel : Nat)
  /-- STREAM_PUSH_STALL (R141) A PUSH page whose writes cannot complete for 100 ms is abandoned and re-queued. -/
  | streamPushStall (channel : Nat)
  /-- STREAM_RECEIVE_TIMEOUT (R195) The pages of a stream transfer not all received within 10 s of ACCEPTED end the command with NOT_READY. -/
  | streamReceiveTimeout (channel : Nat)
  /-- EVENT_PLACEMENT (R144) A ready queued event entry is placed into a page once a frame is free. -/
  | eventPlacement
  /-- FOLSET_LOCKSTEP_MISMATCH (R10) A lockstep mismatch in Folset raises a class-B fault and restarts Folset from the active bank. -/
  | folsetLockstepMismatch
  /-- FOLSET_RESTART_COMPLETE (R10) Folset serves commands again after a restart and reports the commands lost as INTERNAL. -/
  | folsetRestartComplete
  /-- MOD_EN_N_FALL (R76) MOD_EN_N falls at insertion, enabling the paths after 50 ms and starting the module. -/
  | modEnNFall
  /-- MOD_EN_N_RISE (R77) MOD_EN_N high for 20 µs holds both paths off and starts the removal power-down sequence. -/
  | modEnNRise
  /-- MAIN_LOST (R57) MAIN meets the source-lost condition and the hand-over state machine reacts. -/
  | mainLost (overVoltage : Bool)
  /-- MAIN_PRESENT (R57) MAIN reaches 41.0 V before qualification and the hand-over state machine reacts. -/
  | mainPresent
  /-- MAIN_QUALIFIED (R57) MAIN's qualification timer expires and the MAIN path is turned on with a 1 ms overlap. -/
  | mainQualified
  /-- BATT_LOST (R57) BATT meets the source-lost condition and the hand-over state machine reacts. -/
  | battLost (overVoltage : Bool)
  /-- BATT_PRESENT (R57) BATT has been at 41.0 V for its qualification time and the hand-over state machine reacts. -/
  | battPresent
  /-- SWITCH_COMPLETE (R57) A path hand-over or the 1 ms overlap completes and the other path is held off. -/
  | switchComplete
  /-- MAIN_UNSTABLE_CLEAR (R58) The unstable mark clears after 10 minutes with no MAIN loss. -/
  | mainUnstableClear
  /-- BATT_POLICY_DELAY (R61) After batt_delay_s on BATT the battery demand becomes the policy mode. -/
  | battPolicyDelay
  /-- LOW_BATTERY (R61) BATT below batt_low_dv for 10 s makes the battery demand Vigil. -/
  | lowBattery
  /-- POWER_FAIL_DETECTION (R68) VBUS below 38.0 V for 20 µs starts the power-down sequence. -/
  | powerFailDetection (vbusDv offsetNs : Nat)
  /-- RAIL_FAIL_POWER_DOWN (R74) A rail leaving its regulation window for 5 µs during the power-down sequence. -/
  | railFailPowerDown (rail step : Nat)
  /-- KEEP_ENTRY_DELAY (R78) Keep is entered 100 ms after the response to a demand of Keep. -/
  | keepEntryDelay
  /-- WAKE_TIME (R63) The RTC reaching wake_time wakes the module from a commanded Keep. -/
  | wakeTime
  /-- KEEP_RESERVE_EXHAUSTED (R64) The Keep reserve falls below 1.8 V and KEEP stops. -/
  | keepReserveExhausted
  /-- COLD_START (R65) The module starts its rails, checks Folset, loads the ledger and runs the cold-start timeline. -/
  | coldStart (inputs : StartInputs)
  /-- RAIL_START_TIMEOUT (R67) A rail not in regulation 10 ms after enable switches its domain and later ones off. -/
  | railStartTimeout (domain : Nat)
  /-- VIGIL_RAIL_RETRY (R67) A failed VIGIL rail is retried after 1 s, twice. -/
  | vigilRailRetry
  /-- MOISTURE_HOLD_END (R54) The comb reads dry for 60 s and start-up proceeds. -/
  | moistureHoldEnd
  /-- THERMAL_CANCEL (R31) A thermal reaction is cancelled after 60 s at least 5 K below its threshold. -/
  | thermalCancel (reaction : Nat)
  /-- PTP_SYNC_RX (R81) A Sync message updates the filtered PTP offset, qualification and lock. -/
  | ptpSyncRx (port : Nat) (offset : Int)
  /-- PTP_ANNOUNCE_RX (R81) An Announce message updates the grandmaster's clockClass and UTC offset. -/
  | ptpAnnounceRx (announce : Announce)
  /-- ANNOUNCE_TIMEOUT (R81) The announce receipt timeout drops PTP qualification. -/
  | announceTimeout (port : Nat)
  /-- PPS_EDGE (R82) A PPS rising edge is timestamped and updates PPS qualification and lock. -/
  | ppsEdge (offset : Int)
  /-- PPS_LOSS (R82) No PPS edge for 2 s drops PPS qualification. -/
  | ppsLoss
  /-- SOURCE_DISAGREE_TIMEOUT (R83) Both sources differing by over 1 µs for 16 s raise a class-C fault. -/
  | sourceDisagreeTimeout
  /-- PENDING_STEP_RECOMPUTE (R85) A pending step is recomputed once per second from the source. -/
  | pendingStepRecompute (offset : Int)
  /-- HOLDOVER_EXPIRY (R87) Holdover reaching 24 h or a modelled error of 1 s makes the clock UNTRUSTED. -/
  | holdoverExpiry
  /-- TICK_START (R95) A tick starts; Yarrow opens it, GL-F latches the previous window and the ledger or field-only kind is decided. -/
  | tickStart (inputs : TickInputs)
  /-- BACKLOG_TIMEOUT (R100) A backlog not cleared by tick m + 64 aborts both older ticks. -/
  | backlogTimeout
  /-- UPLINK_FRAME (R20) The uplink frame of window n−1 arrives in GL-C with energies, pilot, RCM and safety-input states. -/
  | uplinkFrame
  /-- DOWNLINK_FRAME (R21) A downlink frame with limits, output states and mutes reaches GL-F. -/
  | downlinkFrame
  /-- DOWNLINK_DEADLINE_MISS (R21) No valid downlink frame by 400 µs after a tick start raises a class-A fault in GL-F. -/
  | downlinkDeadlineMiss
  /-- TICK_CLOSE (R99) The last Critical or Tick task of a ledger tick finishes and the tick closes. -/
  | tickClose (closeUs : Nat)
  /-- TICK_OVERRUN (R99) A tick's 1 ms ends unclosed; its work is promoted to Critical and an overrun counted. -/
  | tickOverrun
  /-- TICK_COMMIT (R101) The frontier record write of the oldest closed tick completes and the tick is committed. -/
  | tickCommit
  /-- FRONTIER_WRITE_FAILED (R99) A frontier write failing after 2 retries aborts the tick with a class-B fault. -/
  | frontierWriteFailed
  /-- ABORT_SCRUB_COMPLETE (R103) The scrub has cleared every stamp of an aborted tick and removes its abort-list entry. -/
  | abortScrubComplete (tick : Nat)
  /-- INVOCATION_DISPATCH (R172) A free floret takes the next ready invocation in dispatch order and runs its kernel. -/
  | invocationDispatch (floret : Nat)
  /-- SLICE_BOUNDARY (R173) A running invocation reaches a slice boundary where a waiting earlier task may take its floret. -/
  | sliceBoundary (floret us : Nat)
  /-- INVOCATION_COMPLETE (R182) An invocation retires and its write-backs and writes are acknowledged. -/
  | invocationComplete (floret : Nat)
  /-- PAGE_FETCH_COMPLETE (R181) A page fetched on demand after a miss arrives and the stalled invocation resumes. -/
  | pageFetchComplete (floret : Nat)
  /-- WATCHDOG_EXPIRY (R162) An invocation executing twice its cost ends as a task fault. -/
  | watchdogExpiry (floret : Nat)
  /-- DEADLINE_MISS (R177) A task still incomplete at its deadline raises a class-C fault and DEADLINE_MISS. -/
  | deadlineMiss (workload : Nat)
  /-- FLORET_SRAM_ERROR (R158) An uncorrectable floret-SRAM error ends the running invocation; a second in a round kills the umbel. -/
  | floretSramError (floret kind : Nat)
  /-- UMBEL_HEARTBEAT (R184) An umbel agent's heartbeat is checked for its epoch and sequence. -/
  | umbelHeartbeat (umbel epoch seq : Nat)
  /-- HEARTBEAT_LOSS (R184) Four consecutive missed heartbeats are a death condition. -/
  | heartbeatLoss (umbel : Nat)
  /-- FENCE_DRAIN_COMPLETE (R185) Every endpoint confirms no request of the fenced umbel is in flight and its invocations are redispatched. -/
  | fenceDrainComplete (umbel : Nat)
  /-- UMBEL_TEST_RESULT (R188) An umbel's reinstatement test or FLORET_TEST passes or fails. -/
  | umbelTestResult (umbel : Nat) (passed : Bool)
  /-- STALE_EPOCH_REQUEST (R185) A request carrying a fenced umbel's former epoch reaches an endpoint and is dropped or poisoned. -/
  | staleEpochRequest (umbel epoch : Nat) (write : Bool)
  /-- ARBITER_DECISION (R217) At a slot start or when the port falls free, an arbiter grants the owner or a background requester. -/
  | arbiterDecision (arbiter : Nat) (asks : List ArbAsk) (beats : Nat) (newSlot : Bool)
  /-- ARB_WAIT (R219) A request waiting beyond wait_report_us raises ARB_WAIT. -/
  | arbWait (arbiter requester : Nat)
  /-- DRAM_ECC_ERROR (R205) A DRAM read finds a corrected or uncorrectable error, with the region's effect. -/
  | dramEccError (addr : Nat) (uncorrectable : Bool) (floret : Option Nat)
  /-- PATROL_SCRUB_PASS (R204) The patrol scrub completes a pass over all DRAM. -/
  | patrolScrubPass
  /-- LSTORE_READ_ERROR (R211) An uncorrectable ledger-store read marks the account damaged or the copy invalid. -/
  | lstoreReadError (addr : Nat) (uncorrectable : Bool)
  /-- ACCOUNT_RESTORE_STANDBY (R313) A damaged account is restored from the standby's copy over the mirror link. -/
  | accountRestoreStandby (account : Nat) (image : Bytes)
  /-- DEMAND_BOUNDARY (R251) At a sub-interval boundary demand is computed and the maximum replaced if exceeded. -/
  | demandBoundary (set reg : Nat)
  /-- COIL_SETTLED (R231) 20 s after FIELD power-up a coil channel's settling flag clears. -/
  | coilSettled
  /-- RING_RECORD_RX (R259) A satellite RECORD frame with a window record arrives at a ring port. -/
  | ringRecordRx (ring port : Nat) (frame : Bytes)
  /-- RING_STATUS_RX (R263) A satellite STATUS frame reports loss of signal, restoration or power failing. -/
  | ringStatusRx (ring kind hop : Nat)
  /-- RING_LOSS_OF_SIGNAL (R262) Loss of signal on a hop reverses the sweep and changes the ring state. -/
  | ringLossOfSignal (ring hop : Nat)
  /-- RING_LINK_RESTORED (R262) A link coming up on a ring that is not INTACT restarts enumeration. -/
  | ringLinkRestored (ring hop : Nat)
  /-- ENUMERATION_COMPLETE (R256) Ring enumeration ends with positions, bindings and hop delays known. -/
  | enumerationComplete (ring : Nat) (found : List RingFound) (breaks : List Nat)
  /-- RECORD_MISSING (R262) A record missing for 3 consecutive sweeps marks the satellite faulted. -/
  | recordMissing (ring position : Nat)
  /-- SATELLITE_UNREACHABLE (R262) A bound satellite unreachable for 60 s raises a class-B fault for its sets. -/
  | satelliteUnreachable (ring position : Nat)
  /-- TICK_MARK_MISSING (R235) A satellite without a tick mark for over 2 ticks samples on its own clock and flags its windows unaligned. -/
  | tickMarkMissing (ring position : Nat)
  /-- SELFTEST_STEP_START (R267) Every 256 ticks a group's spare moves to the next channel to match. -/
  | selftestStepStart (group : Nat)
  /-- SELFTEST_PHASE_END (R266) A match or rematch phase ends and the swap is made if spare and primary agree. -/
  | selftestPhaseEnd (group : Nat) (agree : Bool)
  /-- SELFTEST_PRIMARY_RESULT (R267) The primary modulator passes or fails its test. -/
  | selftestPrimaryResult (group : Nat) (passed : Bool)
  /-- SELFTEST_SPARE_RESULT (R267) The spare passes or fails when tested alone. -/
  | selftestSpareResult (group : Nat) (passed : Bool)
  /-- CAPTURE_START (R280) A capture starts at the first window in which every named channel is on its primary. -/
  | captureStart
  /-- CAPTURE_COMPLETE (R280) A capture's ticks end and its completion is sent. -/
  | captureComplete
  /-- SEAL_CHANGE (R490) A seal-bank position changes while running, raising a class-B fault and the position's effect. -/
  | sealChange (position : Nat) (closed : Bool)
  /-- WINDOW_SETTLE_DEADLINE (R337) A 15-minute window settles by deadline settle_min after its end. -/
  | windowSettleDeadline (bridge window : Nat)
  /-- STEM_PLC_SAMPLES (R364) A PLC_SAMPLES frame is checked and written to its sample buffer. -/
  | stemPlcSamples (frame : Bytes)
  /-- STEM_RF_SAMPLES (R364) An RF_SAMPLES frame is checked and written to its sample buffer. -/
  | stemRfSamples (frame : Bytes)
  /-- STEM_LV_SAMPLES (R364) An LV_SAMPLES frame is checked and written to its sample buffer. -/
  | stemLvSamples (frame : Bytes)
  /-- STEM_JOIN (R370) A JOIN frame is accepted, issuing a new epoch and JOIN_ACCEPT, or dropped. -/
  | stemJoin (port : Nat) (source dest frame : Bytes)
  /-- STEM_STALE_RX (R373) A STALE frame from a bridge names the epoch it holds. -/
  | stemStaleRx (frame : Bytes)
  /-- HOLE_REPAIR_RETRY (R367) A hole still open after its retry interval is requested again, at most three times. -/
  | holeRepairRetry (bridge stream : Nat)
  /-- HOLE_WAIT_EXPIRY (R367) After hole_wait ticks demodulation skips the hole as zeros. -/
  | holeWaitExpiry (bridge stream : Nat)
  /-- BRIDGE_SILENCE (R371) silence_ticks without a valid frame makes the bridge SILENT and suspends its polls. -/
  | bridgeSilence (bridge : Nat)
  /-- BRIDGE_LOST (R371) 256 ticks without a valid frame revoke the bridge's epoch. -/
  | bridgeLost (bridge : Nat)
  /-- REKEY_DUE (R370) A Stem seq reaching 2^31 sends EPOCH with cause 1. -/
  | rekeyDue (bridge : Nat)
  /-- KEEPALIVE_DUE (R372) An ONLINE bridge without downlink for 64 ticks is sent KEEPALIVE. -/
  | keepaliveDue (bridge : Nat)
  /-- PLC_RESPONSE_RX (R381) A demodulated RESPONSE with valid MIC completes a power-line transaction. -/
  | plcResponseRx (bridge startUs modulation snr : Nat) (frame : Bytes)
  /-- PLC_ALERT_RX (R383) A power-line ALERT is demodulated and the sender queued for polling. -/
  | plcAlertRx (bridge startUs modulation snr : Nat) (frame : Bytes)
  /-- PLC_DISCOVER_REPLY_RX (R384) A DISCOVER_REPLY with a serial is demodulated and the meter given a node or reported unknown. -/
  | plcDiscoverReplyRx (bridge serial through : Nat)
  /-- PLC_TRANSACTION_FAIL (R381) A transaction without a valid answer fails and is retried. -/
  | plcTransactionFail (bridge txid heard : Nat)
  /-- DISCOVER_PERIOD (R384) Every discover_period_s a network with unrouted meters sends DISCOVER. -/
  | discoverPeriod (bridge : Nat)
  /-- BEACON_DUE (R404) Every beacon_ticks a BEACON is sent followed by an advert window. -/
  | beaconDue (bridge : Nat)
  /-- RF_ADVERT_RX (R409) An ADVERT is demodulated and a CONNECT planned, refused or dropped. -/
  | rfAdvertRx (bridge channel endTick snr : Nat) (frame : Bytes)
  /-- RF_CONNECTION_EVENT (R405) A connection event's anchor comes and the bridge frame is sent. -/
  | rfConnectionEvent (bridge node : Nat)
  /-- RF_ANSWER_RX (R409) A valid meter answer in a connection event is accepted. -/
  | rfAnswerRx (bridge snr : Nat) (frame : Bytes)
  /-- RF_EVENT_MISSED (R409) An event without a valid answer is counted and retransmission applies. -/
  | rfEventMissed (bridge node : Nat)
  /-- RF_SUPERVISION_EXPIRY (R409) Supervision expires without a valid frame and the connection is released. -/
  | rfSupervisionExpiry (bridge node : Nat)
  /-- RF_ALERT_RX (R418) A radio ALERT is demodulated and the sender polled. -/
  | rfAlertRx (bridge snr : Nat) (frame : Bytes)
  /-- SEPAL_READING (R414) A READING message is queued on the account's working page. -/
  | sepalReading (account : Nat)
  /-- SEPAL_CREDIT_ACK (R415) A CREDIT_ACK reports the allowance_seq in force and the relay state. -/
  | sepalCreditAck (account : Nat)
  /-- SEPAL_EVENT (R419) A meter EVENT message is accepted by event_seq and acted on by kind. -/
  | sepalEvent (account : Nat)
  /-- SEPAL_TOKEN (R416) A keypad TOKEN message is passed to the token engine. -/
  | sepalToken (account : Nat)
  /-- SEPAL_EMERGENCY_REQ (R300) An EMERGENCY_REQ message requests emergency credit for the account. -/
  | sepalEmergencyReq (account : Nat)
  /-- SEPAL_IDENTITY (R409) An IDENTITY message records the meter's identity or reveals a mismatch. -/
  | sepalIdentity (account : Nat)
  /-- SEPAL_KEY_ACK (R420) A KEY_ACK completes a link or group key change. -/
  | sepalKeyAck (account : Nat)
  /-- SEPAL_FW_STATUS (R423) An FW_STATUS message reports a meter's campaign progress. -/
  | sepalFwStatus (account : Nat)
  /-- SEPAL_SEND_GIVEUP (R413) A down message other than CREDIT is given up after 8 sends. -/
  | sepalSendGiveup (account : Nat)
  /-- FW_CAMPAIGN_ACTIVATE (R423) At the activation time complete targets are sent FW_ACTIVATE. -/
  | fwCampaignActivate (campaign : Nat)
  /-- PILOT_CHANGE (R436) GL-F recognises a new pilot state after 2 consistent samples. -/
  | pilotChange (point pilot : Nat)
  /-- PP_CHANGE (R438) A proximity reading changes band, tripping if the contactor is closed. -/
  | ppChange (point ohm : Nat)
  /-- CHG_LINK_ESTABLISHED (R440) SLAC matching and protocol set-up complete and the point goes to AUTH. -/
  | chgLinkEstablished (point : Nat) (offered : List Nat) (tls : Bool)
  /-- CHG_LINK_LOST (R445) A vehicle link is lost or a protocol times out. -/
  | chgLinkLost (point : Nat)
  /-- LINK_RETRY_END (R440) The 4 s of state F after a failed LINK end and the pilot returns to 5 %. -/
  | linkRetryEnd (point : Nat)
  /-- V2G_MESSAGE_RX (R443) A vehicle protocol message is handled by the SECC. -/
  | v2gMessageRx (point : Nat) (message : V2gMessage)
  /-- AUTH_TIMEOUT (R445) auth_timeout_s passes without a grant, or a held grant expires. -/
  | authTimeout (point : Nat)
  /-- PREPARATION_COMPLETE (R446) Contactor feedback shows closed after preparation. -/
  | preparationComplete (point : Nat)
  /-- STOPPING_COMPLETE (R446) Contactor feedback shows open after stopping and the session closes. -/
  | stoppingComplete (point : Nat)
  /-- STOPPING_OPEN_TIMEOUT (R446) 2 s after stopping began the contactor is opened. -/
  | stoppingOpenTimeout (point : Nat)
  /-- PAUSE_CONTACTOR_TIMEOUT (R445) 6 s into an AC pause the contactor is opened. -/
  | pauseContactorTimeout (point : Nat)
  /-- PAUSE_LIMIT (R445) A point PAUSED for 600 s is stopped. -/
  | pauseLimit (point : Nat)
  /-- CARD_POLL_DWELL (R449) A reader front-end's dwell ends and it polls its next antenna. -/
  | cardPollDwell (reader : Nat)
  /-- CARD_DETECTED (R449) A card answers WUPA and is activated by anticollision and SELECT. -/
  | cardDetected (reader cards : Nat)
  /-- CARD_RESPONSE (R450) A card answers IDENT, SPEED or AUTH in the card exchange. -/
  | cardResponse (reader : Nat) (payload : Bytes)
  /-- CARD_TIMEOUT (R450) A card that does not answer within 5 ms fails the exchange. -/
  | cardTimeout (reader : Nat)
  /-- CONVERTER_FEEDBACK_RX (R453) A converter FEEDBACK frame arrives on CAN FD. -/
  | converterFeedbackRx (bus identifier : Nat) (data : Bytes)
  /-- CONVERTER_LOST (R454) No valid FEEDBACK for 10 ticks trips the charge point. -/
  | converterLost (bus node : Nat)
  /-- STALE_LIMITS (R458) The 4th and 64th consecutive stale tick ramp limits down and then stop sessions. -/
  | staleLimits
  /-- METERING_STALE (R462) 1,024 ticks without a set record set the limit to 0, and 60 s more stop the session. -/
  | meteringStale (point : Nat)
  /-- AC_OVERCURRENT (R437) A vehicle drawing above its limit beyond the follow time plus 5 s is tripped. -/
  | acOvercurrent (point currentDa : Nat)
  /-- RCM_TRIP (R459) GL-F hardware removes the contactor output on residual current above its setting. -/
  | rcmTrip (point : Nat) (ac : Bool) (value : Nat)
  /-- RCM_SELFTEST_RESULT (R459) The residual-current self-test before a close passes or fails. -/
  | rcmSelftestResult (point : Nat) (passed : Bool)
  /-- INSULATION_VALUE (R460) A new insulation value is judged valid, warning or fault. -/
  | insulationValue (point kohm : Nat)
  /-- CONTACTOR_CLOSE_TIMEOUT (R461) A contactor not closed within 100 ms of command is a protective trip. -/
  | contactorCloseTimeout (point : Nat)
  /-- CONTACTOR_WELDED (R461) A contactor still closed 100 ms after opening locks the point out. -/
  | contactorWelded (point : Nat)
  /-- TRIP_PILOT_F_END (R461) 4 s of state F after a trip end and the pilot goes to steady +12 V. -/
  | tripPilotFEnd (point : Nat)
  /-- OUTPUT_EVALUATION (R472) Every 50 µs GL-F sets each field output from the output state table. -/
  | outputEvaluation
  /-- DIRECT_PIN_EDGE (R478) An edge on a DIRECT pin is followed by its channel within 20 µs. -/
  | directPinEdge (pin : Nat) (level : Bool)
  /-- FIELD_24V_UNDERVOLTAGE (R474) FIELD_24V below 16.0 V for 100 µs turns field outputs off. -/
  | field24vUndervoltage (dv da : Nat)
  /-- FIELD_24V_OVERVOLTAGE (R474) FIELD_24V above 34.0 V for 1 ms turns field outputs off with a class-B fault. -/
  | field24vOvervoltage (dv da : Nat)
  /-- FIELD_24V_RESTORED (R474) FIELD_24V back in range for 100 ms returns outputs through their ramps. -/
  | field24vRestored (dv da : Nat)
  /-- FIELD_24V_TOTAL_HIGH (R46) Total FIELD_24V current above 40 A for 10 ms raises a class-C fault. -/
  | field24vTotalHigh (dv da : Nat)
  /-- LS_ACCUMULATOR_UPDATE (R475) Every 100 µs each channel's wire and channel accumulators are updated and an overload latched at K. -/
  | lsAccumulatorUpdate (currents : List Nat) (hot : Nat)
  /-- LS_SHORT_CIRCUIT (R476) A channel 2 ms in current limit is switched off and short circuit latched. -/
  | lsShortCircuit (channel : Nat)
  /-- LS_OVER_TEMPERATURE (R476) A switch junction at 150 °C switches the channel off. -/
  | lsOverTemperature (channel : Nat)
  /-- LS_RAMP_TIMEOUT (R477) A turn-on ramp not complete in twice its time plus 10 ms latches turn-on failed. -/
  | lsRampTimeout (channel : Nat)
  /-- LS_OPEN_LOAD (R480) An on channel below 20 mA for 100 ms sets the open-load flag. -/
  | lsOpenLoad (channel : Nat)
  /-- TEST_PULSE_GAP (R481) A test-pulse source starts its 250 µs gap. -/
  | testPulseGap (source : Nat)
  /-- TEST_PULSE_OVERLOAD (R481) A source above 100 mA for 1 ms is switched off with a class-B fault. -/
  | testPulseOverload (source : Nat)
  /-- TEST_PULSE_RETRY (R481) An overloaded source is retried after 1 s. -/
  | testPulseRetry (source : Nat)
  /-- SAFETY_INPUT_SAMPLE (R482) Every 50 µs each safety-input channel is sampled and checked against the pulses and for demand. -/
  | safetyInputSample (sub a b : Nat)
  /-- SAFETY_INPUT_RELEASE (R483) Both channels clear for release_ms return an input to CLEAR. -/
  | safetyInputRelease (input : Nat)
  /-- SAFETY_INPUT_DISCREPANCY (R483) Channels disagreeing beyond discrepancy_ms put the input in FAULT. -/
  | safetyInputDiscrepancy (input : Nat)
  /-- SO_OFF_PULSE (R488) Every 500 ms one switch of an on safety output is pulsed off and read back. -/
  | soOffPulse (output : Nat) (fell : Bool)
  /-- SO_FAILED_OPEN (R489) An on output low or above 3 A for 1 ms latches an output fault. -/
  | soFailedOpen (output : Nat)
  /-- SO_EXTERNALLY_FED (R489) An off output above 5 V for 10 ms raises a class-B fault. -/
  | soExternallyFed (output : Nat)
  /-- SO_FEED_CLEARED (R489) An externally fed output below 2 V for 1 s clears. -/
  | soFeedCleared (output : Nat)
  /-- PANEL_BUSY_RELEASED (R494) BUSY released lets the next panel command be issued. -/
  | panelBusyReleased (panel : Nat)
  /-- PANEL_BUSY_TIMEOUT (R491) BUSY held beyond busy_timeout_ms is a panel fault. -/
  | panelBusyTimeout (panel : Nat)
  /-- PANEL_RAIL_FAULT (R491) A panel rail failing to reach its value is a panel fault. -/
  | panelRailFault (panel : Nat)
  /-- PANEL_DRAW_COMPLETE (R494) A draw's refresh time ends and it completes. -/
  | panelDrawComplete (panel : Nat)
  /-- PANEL_OFF_DELAY (R492) After off_delay_ms idle the panel sleeps and its rails discharge. -/
  | panelOffDelay (panel : Nat)
  /-- TAMPER_SAMPLE (R547) Every 250 ms each enabled tamper input is sensed and latched when open. -/
  | tamperSample (sample : TamperSample) (rtcElapsed : Nat)
  /-- FAULT_N_PULSE_END (R541) The 1 ms FAULT_N pulse ends and Folset's level applies. -/
  | faultNPulseEnd
  /-- SAFE_LINE_TIMEOUT (R542) GL-C's safe line not toggled for 100 µs raises source 0x02 in GL-F. -/
  | safeLineTimeout
  /-- SAFETY_COMPARATOR_MISMATCH (R542) GL-F's two safety-logic paths disagreeing for 2 µs raise source 0x04. -/
  | safetyComparatorMismatch
  /-- BATON_PEER_LINE (R550) The peer baton line changes level. -/
  | batonPeerLine (low : Bool)
  /-- BATON_CLAIM (R550) With the peer line high for 2 ms and eligibility met, the module drives its own line low. -/
  | batonClaim
  /-- BATON_CLAIM_CONFIRM (R550) 20 µs after a claim the peer line is read and the baton kept or released. -/
  | batonClaimConfirm
  /-- BATON_OWN_LINE_STUCK (R549) The own line high for 5 µs while driven low raises source 0x05. -/
  | batonOwnLineStuck
  /-- ROLE_DECISION_TIMEOUT (R552) No mirror contact for 5 s since start decides the role from last_role. -/
  | roleDecisionTimeout
  /-- MIRROR_HELLO (R553) A HELLO message from the peer with its role, epoch and frontier. -/
  | mirrorHello (frame : Bytes)
  /-- MIRROR_RECORD (R553) A RECORD message written by the standby into its ledger store. -/
  | mirrorRecord (frame : Bytes)
  /-- MIRROR_CLOSE (R553) A CLOSE message naming a tick and its RECORD count and CRC. -/
  | mirrorClose (frame : Bytes)
  /-- MIRROR_ACK (R554) An ACK from the standby that lets the duty commit a tick. -/
  | mirrorAck (frame : Bytes)
  /-- MIRROR_COMMIT (R553) A COMMIT message that becomes the standby's frontier record. -/
  | mirrorCommit (frame : Bytes)
  /-- MIRROR_ABORT (R553) An ABORT message entered in the standby's abort list. -/
  | mirrorAbort (frame : Bytes)
  /-- MIRROR_CONFIG (R553) A CONFIG message that arms the same generation on the standby. -/
  | mirrorConfig (frame : Bytes)
  /-- MIRROR_COPY (R560) A COPY message of resynchronisation data. -/
  | mirrorCopy (frame : Bytes)
  /-- MIRROR_DECOUPLED (R555) A DECOUPLED message takes the standby out of IN_SYNC. -/
  | mirrorDecoupled (frame : Bytes)
  /-- MIRROR_YIELD (R553) A YIELD message announcing the duty's release. -/
  | mirrorYield (frame : Bytes)
  /-- MIRROR_ACK_TIMEOUT (R554) No ACK 600 µs after CLOSE makes the duty decouple and commit alone. -/
  | mirrorAckTimeout
  /-- MIRROR_SILENCE (R555) No valid mirror message for 500 µs takes the standby out of IN_SYNC. -/
  | mirrorSilence
  /-- RESYNC_COMPLETE (R560) The resynchronisation copy completes and the standby enters IN_SYNC. -/
  | resyncComplete (tick : Nat)
  /-- YIELD_TIMEOUT (R570) A peer not claiming within 100 ms of a yield makes this module claim again. -/
  | yieldTimeout
  /-- KEY_REQUEST (R516) An engine asks Tansy for a key by handle and receives it or a refusal. -/
  | keyRequest (cls engine : Nat) (handle : KeyHandle)
  /-- CRYPTO_REQUEST (R526) A cryptographic operation request is steered, held or served against engine self-tests. -/
  | cryptoRequest (cls engine : Nat) (critical : Bool)
  /-- ENGINE_SELFTEST_START (R525) An engine's turn for self-test comes and it starts once its operation ends. -/
  | engineSelftestStart (cls engine : Nat)
  /-- ENGINE_SELFTEST_RESULT (R527) An engine's known-answer tests pass or fail. -/
  | engineSelftestResult (cls engine : Nat) (passed : Bool)
  /-- ETHERNET_FRAME_RX (R576) A received Ethernet frame is filtered and steered by type. -/
  | ethernetFrameRx (port : Nat) (frame : Bytes)
  /-- PORT_LINK_UP (R581) A port completes training and alignment and goes UP. -/
  | portLinkUp (port : Nat)
  /-- PORT_LINK_FAULT (R579) A link fault for 10 µs takes an UP port to TRAINING or HOLD. -/
  | portLinkFault (port : Nat)
  /-- PORT_TRAINING_TIMEOUT (R579) No link 3 s after training began restarts training. -/
  | portTrainingTimeout (port : Nat)
  /-- PORT_HOLD_EXPIRY (R579) A port's 30 s hold ends and training begins. -/
  | portHoldExpiry (port : Nat)
  /-- FEC_RATIO_CHECK (R581) Each second the FEC symbol error ratio is compared with the threshold. -/
  | fecRatioCheck (port errors symbols corrected uncorrected : Nat)
  /-- LANE0_VIGIL_TIMEOUT (R580) Port 0 not up at 10 Gbit/s within 3 s in Vigil raises source 0xE4. -/
  | lane0VigilTimeout
  /-- PTP_HOLD_EXPIRY (R583) The PTP hold during a lane-0 retrain ends after 1,000 ms. -/
  | ptpHoldExpiry
  /-- NEIGHBOUR_REFRESH (R577) A neighbour cache entry in use is refreshed every 30 s. -/
  | neighbourRefresh (port : Nat) (address : Bytes)
  /-- UPDATE_QUIESCE_TIMEOUT (R599) A command still running 1 s after quiesce abandons the Folset update. -/
  | updateQuiesceTimeout
  /-- FOLSET_UPDATE_READY (R599) The new Folset image takes rung mailboxes and sends the update completion. -/
  | folsetUpdateReady
  /-- FOLSET_SWITCH_TIMEOUT (R599) A new image not ready 2 s after the switch makes Folset restart from the old image. -/
  | folsetSwitchTimeout
  /-- PROBATION_END (R600) Probation ends and the build bank is committed if auto_commit is set. -/
  | probationEnd
  /-- GLF_SWITCH_COMPLETE (R601) GL-F finishes switching its firmware and its post-switch self-test passes or reverts. -/
  | glfSwitchComplete (passed : Bool)
  /-- TRACE_FREEZE (R605) post_blocks after a trigger record, the trace ring freezes. -/
  | traceFreeze
  /-- STEM_STATUS_FRAME (R363) An uplink Stem STATUS frame from a bridge updates its time state, supply state, dl_delay_max_us and plan counters. -/
  | stemStatusFrame (frame : Bytes)
  /-- MTR_REQUEST_TIMEOUT (R431) An MTR_REQUEST with no answer within 600 s completes with NOT_READY. -/
  | mtrRequestTimeout (account : Nat)
  /-- PCIE_PERST_RELEASE (R65) Release of PCIE_PERST_N starts link training, with configuration requests answered by Configuration Request Retry Status until Folset is ready. -/
  | pciePerstRelease
  /-- VIGIL_EXIT_COMPLETE (R62) After the effective mode rises from Vigil, the COMPUTE domain is powered, the first tick is opened for the data path within 1.5 s, and the SYS_POWER_MODE completion follows. -/
  | vigilExitComplete
  /-- FOLSET_SRAM_ERROR (R207) An uncorrectable error in Folset SRAM raises a class-B fault under source 0x11 and restarts Folset under R10. -/
  | folsetSramError (record : Option Nat)
  deriving DecidableEq, Repr

end Sys2Proof
end

