-- ==== Sys2Proof/Decode.lean ====
section
/-!
DEFINITION. The command that a word of the opcode table spells. No row of spec/opcode_table.json gives a word's bits.
-/

namespace Sys2Proof

/-- The command that a word of `nbits` bits spells by the table: none, since the table gives no row its bits (log 1). The
commands arrive as requests, frames and events (R120, R148), which `Machine` parses. -/
def decodeTableWord (_nbits _w : Nat) : Option Instr := none

end Sys2Proof
end

