-- ==== Sys2Proof/Config.lean ====
section
/-!
DEFINITION. What an implementation fixes and the spec leaves open: opaque constants, so that nothing can be proved
that rests on a value of theirs. Every one is named in the assumption log (notes/assumptions/12.md and 13.md).
-/

namespace Sys2Proof.Config

/-- A fresh free value: `what` names the use (see `Machine/Ops.lean`), `draw` is the count of the draws before it. -/
opaque free : Nat → Nat → Nat

/-- How many requests Folset's command queue can hold (R124 step 9 of 05 names the queue, not its depth). -/
opaque queueDepth : Nat

/-- Sample values of a delay line shifted by a fraction of a sample (R236 step 4 of 08: the interpolation filter is not
given). Arguments: the samples before and in the window, oldest first, and the delay in units of 1/4,096 sample. -/
opaque delayFilter : List Int → Int → List Int

/-- The coil integrator behind its DC blocker, normalised so that the full scale holds at the nominal frequency (R231 of 08 gives the
blocker's corner and the accuracy, not the coefficients): nominal frequency in Hz, history and offset-corrected sample to the new history
and the integrated sample. -/
opaque coilStep : Nat → Int → Int → Int × Int

/-- The fundamental of a window (R248 of 08: the estimator is not given): amplitude and phase in 2^−31 turn. -/
opaque fundamental : List Int → Nat × Int

/-- Frequency in mHz, and a quarter of the fundamental period in units of 1/4,096 sample, measured on a voltage channel's samples of the
last 200 ms, oldest first (R242 of 08: the estimator is not given). -/
opaque frequency : List Int → Nat
opaque quarterPeriod : List Int → Int

/-- The rounding of a root-mean-square or mean value to the whole unit a response reports (not given; R248, *MET_CHANNEL_READ*
of 08): numerator and denominator of the exact square, or of the exact value. -/
opaque roundRoot : Nat → Nat → Nat
opaque roundValue : Int → Nat → Int

/-- Whether another block owns a kernel's parameters, and the formats and bodies a kernel's block may have (R164, R196 of 06:
the spec names neither). -/
opaque paramsOwned : Nat → Bool
opaque paramFormat : Nat → Nat → Bool
opaque paramBody : Nat → Bytes → Bool

/-- Samples of one tick of a transmission (R374, R377 of 11, R397 of 12: the preamble, the coding's generators and the pulse
shapes are not given): MAC frame, modulation, tone mask or channel, tick within the transmission. -/
opaque plcSamples : Bytes → Nat → Nat → Nat → Bytes
opaque rfSamples : Bytes → Nat → Nat → Nat → Bytes

/-- The ramp field of a SETPOINT in 0.1 A/ms (R453 of 13: how it follows from the point's ramps is not given): ramp up and ramp
down in 0.1 kW, voltage in 0.1 V. -/
opaque setpointRamp : Nat → Nat → Nat → Nat

/-- The Green PHY modem and its frame encryption (R441, R442 of 13 name the standards and give no forms): frames in ciphertext that a
tick's receive samples hold; transmit samples of a frame; a frame encrypted under a network key, and decrypted, absent where it is none. -/
opaque gphyFrames : Bytes → List Bytes
opaque gphySamples : Bytes → Bytes
opaque gphySeal : Bytes → Bytes → Bytes
opaque gphyOpen : Bytes → Bytes → Option Bytes

/-- Bytes of a message to a vehicle (R443 of 13 names the standards that encode it): protocol, kind of message. -/
opaque v2gBytes : Nat → Nat → Bytes

/-- The 40 B blob of a group key wrapped under a link key (R421 of 12: the wrapping is not given): link key, group key. -/
opaque wrapKey : Bytes → Bytes → Bytes

/-- The module identity key's scalar and the provisioning credential's public point, byte by byte: made at manufacture
(R506 of 15). -/
opaque identityByte : Nat → Byte
opaque provisioningByte : Nat → Byte

/-- The Wenbohus image key's public point, held in boot ROM (R593 of 18). -/
opaque imageKeyByte : Nat → Byte

/-- Serial of the module in the other slot of the pair, under which the first mirror frame is checked (R529 of 15, R585 of 17: the key
needs it before any HELLO has told it). -/
opaque peerSerial : Nat

/-- Which entry of a localisation series stands at an offset of its region (R350 of 10 gives the region no layout): its bridge, meter
account and window sequence. -/
opaque seriesEntry : Nat → Nat × Nat × Nat

/-- A byte of an entry marked lost, as it reads (R205, R207, R211 of 07 give the lost marker no form): the entry's own number (jseq,
trace_seq, round or record_id), the byte's offset. -/
opaque lostEntryByte : Nat → Nat → Byte

/-- Code of a Jorny command in its COMMAND trace record (R604 of 18 gives none): commands in the order of *Jorny commands*. -/
opaque jornyCode : Nat → Nat

/-- Values a cryptographic key or random source gives (R132, R133 of 05, chapter 15): 32 bytes each, by use and draw. -/
opaque randomByte : Nat → Nat → Nat → Byte

/-- Kind and payload of the events that the spec names and no event table lists: 1 ride-through (R57), 2 unrecorded power-down, 3
journal entries lost, 4 energy record lost (R75), 5 the VIGIL failure of R67, 6 a pending step that has changed (R85), 7 the clearance of a
backlog while another condition of the ledger fault lasts (R100) (log 39). -/
opaque unlistedKind : Nat → Nat
opaque unlistedPayload : Nat → Nat → Nat → Bytes

end Sys2Proof.Config
end

