-- ==== Sys2Proof/Machine/Bytes.lean ====
section
/-!
DEFINITION. Byte-string helpers: little-endian fields (R5 of 00), signed fields, checksums, and list helpers for the
tables of the state.
-/

namespace Sys2Proof.Machine

/-- `n` bytes of `v`, little-endian (R5 of 00); higher bits are dropped. -/
def le : Nat → Nat → Bytes
  | 0, _ => []
  | n + 1, v => BitVec.ofNat 8 v :: le n (v / 256)

/-- `n` bytes of a signed value in two's complement, little-endian. -/
def leS (n : Nat) (v : Int) : Bytes :=
  le n (Int.toNat (v % (2 : Int) ^ (8 * n)))

/-- The number a byte string spells, little-endian. -/
def ofLe : Bytes → Nat
  | [] => 0
  | b :: bs => b.toNat + 256 * ofLe bs

/-- The number a byte string spells, big-endian. -/
def ofBe (bs : Bytes) : Nat := bs.foldl (fun a b => 256 * a + b.toNat) 0

/-- `n` bytes of `v`, big-endian. -/
def be (n v : Nat) : Bytes := (le n v).reverse

/-- The bytes from `off`, `n` of them, zero-filled past the end. -/
def slice (bs : Bytes) (off n : Nat) : Bytes :=
  let part := (bs.drop off).take n
  part ++ List.replicate (n - part.length) 0

/-- The little-endian field of `n` bytes at `off`; bytes past the end read zero. -/
def rd (bs : Bytes) (off n : Nat) : Nat := ofLe ((bs.drop off).take n)

/-- A two's-complement value of `bits` bits. -/
def signed (bits v : Nat) : Int :=
  if v < 2 ^ (bits - 1) then (v : Int) else (v : Int) - 2 ^ bits

/-- The signed little-endian field of `n` bytes at `off`. -/
def rdS (bs : Bytes) (off n : Nat) : Int := signed (8 * n) (rd bs off n)

/-- `n` zero bytes: a reserved field. -/
def zeros (n : Nat) : Bytes := List.replicate n 0

/-- The bytes padded with zeros to `n`, or cut to `n`. -/
def pad (n : Nat) (bs : Bytes) : Bytes := slice bs 0 n

/-- One bit of a number. -/
def bit (v i : Nat) : Bool := v.testBit i

/-- The number with the bits of a list of Booleans, bit 0 first. -/
def ofBits : List Bool → Nat
  | [] => 0
  | b :: bs => b.toNat + 2 * ofBits bs

/-- Number of set bits among the low `n`. -/
def popcount (v n : Nat) : Nat := (List.range n).countP (fun i => v.testBit i)

/-- The ASCII bytes of a string. -/
def ascii (t : String) : Bytes := t.toList.map (fun c => BitVec.ofNat 8 c.toNat)

/-- One bit step of the reflected CRC-32 with the IEEE 802.3 polynomial. -/
def crcBit (c : Nat) : Nat :=
  if c % 2 = 1 then (c / 2) ^^^ 0xEDB88320 else c / 2

/-- One byte step of CRC-32. -/
def crcByte (c : Nat) (b : Byte) : Nat :=
  let x := c ^^^ b.toNat
  crcBit (crcBit (crcBit (crcBit (crcBit (crcBit (crcBit (crcBit x)))))))

/-- CRC-32 with the IEEE 802.3 polynomial, as the spec's records use it. -/
def crc32 (bs : Bytes) : Nat := (bs.foldl crcByte 0xFFFFFFFF) ^^^ 0xFFFFFFFF

/-- Reads a number capped at `m` (a saturating counter or field). -/
def cap (m v : Nat) : Nat := if v ≤ m then v else m

/-- Clamps an integer between two limits. -/
def clamp (lo hi v : Int) : Int := if v < lo then lo else if hi < v then hi else v

/-- Integer division rounded towards zero. -/
def truncDiv (a : Int) (b : Int) : Int := Int.tdiv a b

/-- Rounds `num / den` to the nearest whole number, halves away from zero. -/
def roundHalfAway (num : Int) (den : Nat) : Int :=
  if 0 ≤ num then (((2 * num.toNat + den) / (2 * den) : Nat) : Int)
  else -(((2 * (-num).toNat + den) / (2 * den) : Nat) : Int)

/-- Bit-by-bit integer square root: `n` further bits of the root `r` of `v`. -/
def sqrtBits (v : Nat) : Nat → Nat → Nat
  | 0, r => r
  | n + 1, r =>
    let r' := r + 2 ^ n
    if r' * r' ≤ v then sqrtBits v n r' else sqrtBits v n r

/-- Integer square root, rounded down. -/
def isqrt (v : Nat) : Nat := sqrtBits v (Nat.log2 v / 2 + 1) 0

/-- Ceiling of a division. -/
def ceilDiv (a b : Nat) : Nat := (a + b - 1) / b

namespace Tab

/-- The entry of a table under `k`, if one is listed. -/
def get {α : Type} : Table α → Nat → Option α
  | [], _ => none
  | (i, v) :: t, k => if i = k then some v else if k < i then none else get t k

/-- Puts an entry under `k`, keeping the order. -/
def put {α : Type} : Table α → Nat → α → Table α
  | [], k, v => [(k, v)]
  | (i, w) :: t, k, v =>
    if i = k then (k, v) :: t else if k < i then (k, v) :: (i, w) :: t else (i, w) :: put t k v

/-- Removes the entry under `k`. -/
def del {α : Type} : Table α → Nat → Table α
  | [], _ => []
  | (i, w) :: t, k => if i = k then t else if k < i then (i, w) :: t else (i, w) :: del t k

/-- The entry under `k`, or a value for entries not listed. -/
def getD {α : Type} (t : Table α) (k : Nat) (d : α) : α := (get t k).getD d

/-- Changes the entry under `k`, taken from `d` where it is not listed. -/
def upd {α : Type} (t : Table α) (k : Nat) (d : α) (f : α → α) : Table α := put t k (f (getD t k d))

end Tab

/-- Changes entry `i` of a list; nothing past the end. -/
def modAt {α : Type} (l : List α) (i : Nat) (f : α → α) : List α := l.modify i f

/-! ## Fields of tables and records sent as pages -/

/-- The failed check at the lowest offset of an entry (R125: the first offending byte). -/
def firstBad (cs : List (Nat × Bool)) : Option Nat :=
  match cs.filter (fun c => !c.2) with
  | [] => none
  | c :: rest => some (rest.foldl (fun m x => min m x.1) c.1)

/-- `n` reserved bytes of an entry, each of which must be 0 (R4 of 00). -/
def reservedBytes (b : Bytes) (off n : Nat) : List (Nat × Bool) :=
  (List.range n).map (fun i => (off + i, rd b (off + i) 1 == 0))

end Sys2Proof.Machine
end

