-- ==== Sys2Proof/Machine/Sha.lean ====
section
/-!
DEFINITION. SHA-256, SHA-384 and HMAC-SHA256, which the spec's records, images, signatures and protocols name (FIPS 180-4, FIPS 198-1).
One walk serves both hashes: it holds the sixteen message words ahead beside the eight working words.
-/

namespace Sys2Proof.Machine

/-- Fractional parts of the cube roots of the first eighty primes, 64 bits each, four to a number, the first on top. The constants of
SHA-256 are the top halves of the first sixty-four. -/
def cubeRoots : List Nat :=
  [0x428a2f98d728ae227137449123ef65cdb5c0fbcfec4d3b2fe9b5dba58189dbbc,
   0x3956c25bf348b53859f111f1b605d019923f82a4af194f9bab1c5ed5da6d8118,
   0xd807aa98a303024212835b0145706fbe243185be4ee4b28c550c7dc3d5ffb4e2,
   0x72be5d74f27b896f80deb1fe3b1696b19bdc06a725c71235c19bf174cf692694,
   0xe49b69c19ef14ad2efbe4786384f25e30fc19dc68b8cd5b5240ca1cc77ac9c65,
   0x2de92c6f592b02754a7484aa6ea6e4835cb0a9dcbd41fbd476f988da831153b5,
   0x983e5152ee66dfaba831c66d2db43210b00327c898fb213fbf597fc7beef0ee4,
   0xc6e00bf33da88fc2d5a79147930aa72506ca6351e003826f142929670a0e6e70,
   0x27b70a8546d22ffc2e1b21385c26c9264d2c6dfc5ac42aed53380d139d95b3df,
   0x650a73548baf63de766a0abb3c77b2a881c2c92e47edaee692722c851482353b,
   0xa2bfe8a14cf10364a81a664bbc423001c24b8b70d0f89791c76c51a30654be30,
   0xd192e819d6ef5218d69906245565a910f40e35855771202a106aa07032bbd1b8,
   0x19a4c116b8d2d0c81e376c085141ab532748774cdf8eeb9934b0bcb5e19b48a8,
   0x391c0cb3c5c95a634ed8aa4ae3418acb5b9cca4f7763e373682e6ff3d6b2b8a3,
   0x748f82ee5defb2fc78a5636f43172f6084c87814a1f0ab728cc702081a6439ec,
   0x90befffa23631e28a4506cebde82bde9bef9a3f7b2c67915c67178f2e372532b,
   0xca273eceea26619cd186b8c721c0c207eada7dd6cde0eb1ef57d4f7fee6ed178,
   0x06f067aa72176fba0a637dc5a2c898a6113f9804bef90dae1b710b35131c471b,
   0x28db77f523047d8432caab7b40c724933c9ebe0a15c9bebc431d67c49c100d4c,
   0x4cc5d4becb3e42b6597f299cfc657e2a5fcb6fab3ad6faec6c44198c4a475817]

/-- A hash of the family: bits of a word, number of rounds, the three distances of each of its four mixing functions (the third of the
last two shifts instead of turning), and its first eight words as one number. -/
structure HashKind where
  bits : Nat
  rounds : Nat
  turns : List (Nat × Nat × Nat)
  start : Nat

/-- SHA-256. -/
def hash256 : HashKind :=
  { bits := 32, rounds := 64, turns := [(2, 13, 22), (6, 11, 25), (7, 18, 3), (17, 19, 10)]
    start := 0x6a09e667bb67ae853c6ef372a54ff53a510e527f9b05688c1f83d9ab5be0cd19 }

/-- SHA-384, before its last two words are dropped. -/
def hash384 : HashKind :=
  { bits := 64, rounds := 80, turns := [(28, 34, 39), (14, 18, 41), (1, 8, 7), (19, 61, 6)]
    start := 0xcbbb9d5dc1059ed8629a292a367cd5079159015a3070dd17152fecd8f70e593967332667ffc00b318eb44a8768581511db0c2e0d64f98fa747b5481dbefa4fa4 }

/-- The constant of a round. -/
def HashKind.const (h : HashKind) (round : Nat) : Nat :=
  cubeRoots.getD (round / 4) 0 / 2 ^ (64 * (3 - round % 4)) % 2 ^ 64 / 2 ^ (64 - h.bits)

/-- A word turned right by a distance. -/
def HashKind.turn (h : HashKind) (x n : Nat) : Nat := x / 2 ^ n + x % 2 ^ n * 2 ^ (h.bits - n)

/-- Mixing function `f` of a word: 0 and 1 turn three times, 2 and 3 twice and shift. -/
def HashKind.mix (h : HashKind) (f x : Nat) : Nat :=
  let n := h.turns.getD f (0, 0, 0)
  h.turn x n.1 ^^^ h.turn x n.2.1 ^^^ (if f < 2 then h.turn x n.2.2 else x / 2 ^ n.2.2)

/-- One round: `work` are the eight words, `ahead` the sixteen message words not used yet. -/
def HashKind.round (h : HashKind) (state : List Nat × List Nat) (r : Nat) : List Nat × List Nat :=
  let m := 2 ^ h.bits
  let at' (i : Nat) : Nat := state.1.getD i 0
  let word (i : Nat) : Nat := state.2.getD i 0
  let chosen := (at' 4 &&& at' 5) + (at' 6 - (at' 4 &&& at' 6))
  let agreed := (at' 0 &&& (at' 1 ||| at' 2)) ||| (at' 1 &&& at' 2)
  let next := at' 7 + h.mix 1 (at' 4) + chosen + h.const r + word 0
  ([(next + h.mix 0 (at' 0) + agreed) % m, at' 0, at' 1, at' 2, (next + at' 3) % m, at' 4, at' 5, at' 6],
    state.2.drop 1 ++ [(word 0 + h.mix 2 (word 1) + word 9 + h.mix 3 (word 14)) % m])

/-- Words of a byte string, big-endian. -/
def HashKind.words (h : HashKind) (b : Bytes) : List Nat :=
  (List.range (8 * b.length / h.bits)).map (fun i => ofBe (slice b (h.bits / 8 * i) (h.bits / 8)))

/-- Takes one block into the running hash. -/
def HashKind.absorb (h : HashKind) (acc : List Nat) (block : Bytes) : List Nat :=
  let out := ((List.range h.rounds).foldl h.round (acc, h.words block)).1
  List.zipWith (fun a b => (a + b) % 2 ^ h.bits) acc out

/-- A message with its end mark, zeros and its length in bits, in whole blocks of sixteen words. -/
def HashKind.padded (h : HashKind) (m : Bytes) : Bytes :=
  let block := 2 * h.bits
  let whole := ceilDiv (m.length + 1 + block / 8) block * block
  pad (whole - block / 8) (m ++ [0x80#8]) ++ be (block / 8) (8 * m.length)

/-- Digest of a message, all eight words. -/
def HashKind.digest (h : HashKind) (m : Bytes) : Bytes :=
  let p := h.padded m
  let block := 2 * h.bits
  ((List.range (p.length / block)).foldl (fun acc i => h.absorb acc (slice p (block * i) block)) (h.words (be h.bits h.start))).flatMap
    (be (h.bits / 8))

/-- SHA-256 of a message. -/
def sha256 (m : Bytes) : Bytes := hash256.digest m

/-- SHA-384 of a message. -/
def sha384 (m : Bytes) : Bytes := (hash384.digest m).take 48

/-- HMAC-SHA256 of a message under a key of at most one block (R442, R444 of 13: the record protection of TLS 1.2). -/
def hmac256 (key m : Bytes) : Bytes :=
  let under (x : Byte) : Bytes := (pad 64 key).map (· ^^^ x)
  sha256 (under 0x5c#8 ++ sha256 (under 0x36#8 ++ m))

end Sys2Proof.Machine
end

