-- ==== Sys2Proof/Machine/Crypto.lean ====
section
/-!
DEFINITION. The ciphers the spec names: AES (FIPS 197), CMAC, GCM and CCM over it, and the key derivation of R517 of 15.
A block is a list of 16 numbers below 256.
-/

namespace Sys2Proof.Machine

/-- The AES substitution box: sixteen rows of sixteen bytes, byte `j` of row `i` in bits 8j+7..8j. -/
def aesBox : List Nat :=
  [0x76abd7fe2b670130c56f6bf27b777c63, 0xc072a49cafa2d4adf04759fa7dc982ca, 0x1531d871f1e5a534ccf73f362693fdb7,
   0x75b227ebe28012079a059618c323c704, 0x842fe329b3d63b52a05a6e1b1a2c8309, 0xcf584c4a39becb6a5bb1fc20ed00d153,
   0xa89f3c507f02f94585334d43fbaaefd0, 0xd2f3ff1021dab6bcf5389d928f40a351, 0x73195d643d7ea7c41744975fec130ccd,
   0xdb0b5ede14b8ee4688902a22dc4f8160, 0x79e4959162acd3c25c2406490a3a32e0, 0x08ae7a65eaf4566ca94ed58d6d37c8e7,
   0x8a8bbd4b1f74dde8c6b4a61c2e2578ba, 0x9e1dc186b95735610ef6034866b53e70, 0xdf2855cee9871e9b948ed9691198f8e1,
   0x16bb54b00f2d99416842e6bf0d89a18c]

/-- Substitution of one byte. -/
def aesSub (x : Nat) : Nat := (aesBox.getD (x / 16) 0 >>> (8 * (x % 16))) % 256

/-- Doubling in the field of AES. -/
def aesDouble (x : Nat) : Nat := if x < 128 then 2 * x else (2 * x) ^^^ 0x11b

/-- Byte-wise exclusive or. -/
def xorList (a b : List Nat) : List Nat := List.zipWith (· ^^^ ·) a b

/-- The next four-byte word of the key schedule; `i` is its number, `nk` the key length in words, words latest first. -/
def aesKeyWord (nk i rcon : Nat) (ws : List (List Nat)) : List Nat :=
  let prev := ws.headD []
  let back := ws.getD (nk - 1) []
  let t :=
    if i % nk = 0 then
      match (prev.drop 1 ++ prev.take 1).map aesSub with
      | a :: r => (a ^^^ rcon) :: r
      | [] => []
    else if 6 < nk ∧ i % nk = 4 then prev.map aesSub else prev
  xorList back t

/-- Expands the key schedule by `n` words. -/
def aesExpand (nk : Nat) : Nat → Nat → Nat → List (List Nat) → List (List Nat)
  | 0, _, _, ws => ws
  | n + 1, i, rcon, ws =>
    aesExpand nk n (i + 1) (if i % nk = 0 then aesDouble rcon else rcon) (aesKeyWord nk i rcon ws :: ws)

/-- Splits a list into pieces of `k`, at most `n` of them. -/
def pieces {α : Type} (k : Nat) : Nat → List α → List (List α)
  | 0, _ => []
  | n + 1, l => l.take k :: pieces k n (l.drop k)

/-- The round keys of a 16-byte or 32-byte key. -/
def aesRoundKeys (key : Bytes) : List (List Nat) :=
  let nk := key.length / 4
  let ws := ((pieces 4 nk key).map (fun w => w.map BitVec.toNat)).reverse
  let all := (aesExpand nk (4 * (nk + 7) - nk) nk 1 ws).reverse
  (pieces 4 (nk + 7) all).map List.flatten

/-- Row shift of a block held column by column. -/
def aesShift (b : List Nat) : List Nat :=
  [0, 5, 10, 15, 4, 9, 14, 3, 8, 13, 2, 7, 12, 1, 6, 11].map (fun i => b.getD i 0)

/-- Mixing of one column. -/
def aesMixCol (c : List Nat) : List Nat :=
  match c with
  | [a, b, d, e] =>
    let t := a ^^^ b ^^^ d ^^^ e
    [a ^^^ t ^^^ aesDouble (a ^^^ b), b ^^^ t ^^^ aesDouble (b ^^^ d), d ^^^ t ^^^ aesDouble (d ^^^ e),
      e ^^^ t ^^^ aesDouble (e ^^^ a)]
  | _ => c

/-- The rounds after the first key addition. -/
def aesRounds : List (List Nat) → List Nat → List Nat
  | [], b => b
  | [k], b => xorList (aesShift (b.map aesSub)) k
  | k :: ks, b => aesRounds ks (xorList ((pieces 4 4 (aesShift (b.map aesSub))).map aesMixCol).flatten k)

/-- Encrypts one block under round keys. -/
def aesBlock (ks : List (List Nat)) (b : List Nat) : List Nat :=
  match ks with
  | [] => b
  | k :: r => aesRounds r (xorList b k)

/-- Bytes as numbers. -/
def nats (b : Bytes) : List Nat := b.map BitVec.toNat

/-- Numbers as bytes. -/
def toBytes (l : List Nat) : Bytes := l.map (BitVec.ofNat 8)

/-- Encrypts one 16-byte block under a key. -/
def aesEncrypt (key block : Bytes) : Bytes := toBytes (aesBlock (aesRoundKeys key) (nats (pad 16 block)))

/-- Substitution undone. -/
def aesUnsub (x : Nat) : Nat := ((List.range 256).find? (fun y => aesSub y == x)).getD 0

/-- Shift and substitution undone: four shifts are none. -/
def aesUnshift (b : List Nat) : List Nat := (aesShift (aesShift (aesShift b))).map aesUnsub

/-- The mixing of all columns undone: four mixings are none. -/
def aesUnmix (b : List Nat) : List Nat := ((pieces 4 4 b).map (fun c => aesMixCol (aesMixCol (aesMixCol c)))).flatten

/-- The rounds of decryption, under the round keys latest first. -/
def aesUnrounds : List (List Nat) → List Nat → List Nat
  | [], b => b
  | [k], b => xorList b k
  | k :: ks, b => aesUnrounds ks (aesUnshift (aesUnmix (xorList b k)))

/-- Decrypts one block under round keys. -/
def aesUnblock (ks : List (List Nat)) (b : List Nat) : List Nat :=
  match ks.reverse with
  | [] => b
  | k :: r => aesUnrounds r (aesUnshift (xorList b k))

/-- Doubling of a 128-bit subkey of CMAC. -/
def cmacDouble (x : Nat) : Nat :=
  let y := (2 * x) % 2 ^ 128
  if x.testBit 127 then y ^^^ 0x87 else y

/-- The blocks of a message, 16 bytes each, the last one shorter or absent. -/
def blocksOf (m : Bytes) : List Bytes := pieces 16 (ceilDiv m.length 16) m

/-- The CBC chain of whole blocks. -/
def cbcMac (ks : List (List Nat)) (iv : List Nat) (m : Bytes) : List Nat :=
  (blocksOf m).foldl (fun x b => aesBlock ks (xorList x (nats (pad 16 b)))) iv

/-- AES-CBC over whole blocks from an initial vector (R442 of 13). -/
def cbcSeal (key iv m : Bytes) : Bytes :=
  let ks := aesRoundKeys key
  toBytes ((blocksOf m).foldl (fun (acc : List Nat × List Nat) b =>
    let c := aesBlock ks (xorList acc.1 (nats b))
    (c, acc.2 ++ c)) (nats iv, [])).2

/-- AES-CBC undone. -/
def cbcOpen (key iv c : Bytes) : Bytes :=
  let ks := aesRoundKeys key
  (List.zipWith (fun before b => toBytes (xorList (nats before) (aesUnblock ks (nats b)))) (iv :: blocksOf c) (blocksOf c)).flatten

/-- AES-CMAC (R508, R517, R523 of 15), 16 bytes. -/
def aesCmac (key m : Bytes) : Bytes :=
  let ks := aesRoundKeys key
  let l := ofBe (toBytes (aesBlock ks (nats (zeros 16))))
  let k1 := cmacDouble l
  let whole := m.length != 0 && m.length % 16 == 0
  let head := 16 * (ceilDiv m.length 16 - 1)
  let last := if whole then m.drop head else pad 16 (m.drop head ++ [0x80#8])
  let sub := if whole then k1 else cmacDouble k1
  let x := cbcMac ks (nats (zeros 16)) (m.take head)
  toBytes (aesBlock ks (xorList x (xorList (nats last) (nats (be 16 sub)))))

/-- The counter-mode key derivation of R517 of 15: label of four characters, context, length in bits. -/
def kdf (key : Bytes) (label : String) (context : Bytes) (bits : Nat) : Bytes :=
  (List.range (bits / 128)).flatMap (fun i =>
    aesCmac key (BitVec.ofNat 8 (i + 1) :: (ascii label ++ [0x00#8] ++ context ++ be 4 bits)))

/-- One step of the product of GCM: the accumulated product and the shifted factor. -/
def ghashStep (x : Nat) (zv : Nat × Nat) (i : Nat) : Nat × Nat :=
  let z := if x.testBit (127 - i) then zv.1 ^^^ zv.2 else zv.1
  let v := if zv.2 % 2 = 1 then (zv.2 / 2) ^^^ 0xE1000000000000000000000000000000 else zv.2 / 2
  (z, v)

/-- Product of two blocks in the field of GCM. -/
def ghashMul (x y : Nat) : Nat := ((List.range 128).foldl (ghashStep x) (0, y)).1

/-- The hash of GCM over whole blocks. -/
def ghash (h : Nat) (m : Bytes) : Nat :=
  (blocksOf m).foldl (fun y b => ghashMul (y ^^^ ofBe (pad 16 b)) h) 0

/-- Pads to whole blocks with zeros. -/
def padBlocks (m : Bytes) : Bytes := pad (16 * ceilDiv m.length 16) m

/-- Counter-mode encryption from a counter block given as a number; the last `w` bytes count. -/
def ctrCrypt (ks : List (List Nat)) (w : Nat) (ctr : Nat) (m : Bytes) : Bytes :=
  let top := ctr - ctr % 2 ^ (8 * w)
  let stream := (List.range (ceilDiv m.length 16)).flatMap (fun i =>
    toBytes (aesBlock ks (nats (be 16 (top + (ctr + i) % 2 ^ (8 * w))))))
  List.zipWith (· ^^^ ·) m stream

/-- AES-GCM with a 12-byte nonce and a 16-byte tag: the tag over additional data and ciphertext. -/
def gcmTag (key nonce aad ct : Bytes) : Bytes :=
  let ks := aesRoundKeys key
  let h := ofBe (toBytes (aesBlock ks (nats (zeros 16))))
  let y := ghash h (padBlocks aad ++ padBlocks ct ++ be 8 (8 * aad.length) ++ be 8 (8 * ct.length))
  be 16 (y ^^^ ofBe (toBytes (aesBlock ks (nats (nonce ++ be 4 1)))))

/-- The keystream direction of AES-GCM, the same for both ways. -/
def gcmCrypt (key nonce m : Bytes) : Bytes := ctrCrypt (aesRoundKeys key) 4 (ofBe (nonce ++ be 4 2)) m

/-- Encrypts and authenticates: ciphertext, then the 16-byte tag. -/
def gcmSeal (key nonce aad m : Bytes) : Bytes :=
  let ct := gcmCrypt key nonce m
  ct ++ gcmTag key nonce aad ct

/-- Checks the tag and decrypts. -/
def gcmOpen (key nonce aad sealed : Bytes) : Option Bytes :=
  let ct := sealed.take (sealed.length - 16)
  if 16 ≤ sealed.length ∧ sealed.drop (sealed.length - 16) = gcmTag key nonce aad ct then some (gcmCrypt key nonce ct)
  else none

/-- The CBC-MAC of CCM before its encryption; the tag is `t` bytes, the length field 15 − nonce bytes. -/
def ccmMac (ks : List (List Nat)) (t : Nat) (nonce aad m : Bytes) : List Nat :=
  let lf := 15 - nonce.length
  let flags := (if aad.isEmpty then 0 else 64) + 8 * ((t - 2) / 2) + (lf - 1)
  let b0 := BitVec.ofNat 8 flags :: (nonce ++ be lf m.length)
  let a := if aad.isEmpty then [] else padBlocks (be 2 aad.length ++ aad)
  cbcMac ks (nats (zeros 16)) (b0 ++ a ++ padBlocks m)

/-- The first counter block of CCM. -/
def ccmCounter (nonce : Bytes) : Nat :=
  let lf := 15 - nonce.length
  ofBe (BitVec.ofNat 8 (lf - 1) :: (nonce ++ zeros lf))

/-- The `t`-byte tag of CCM over additional data and plaintext. -/
def ccmTag (key : Bytes) (t : Nat) (nonce aad m : Bytes) : Bytes :=
  let ks := aesRoundKeys key
  ((xorList (ccmMac ks t nonce aad m) (aesBlock ks (nats (be 16 (ccmCounter nonce))))).take t).map (BitVec.ofNat 8)

/-- The keystream direction of CCM. -/
def ccmCrypt (key nonce m : Bytes) : Bytes :=
  ctrCrypt (aesRoundKeys key) (15 - nonce.length) (ccmCounter nonce + 1) m

/-- Encrypts and authenticates under CCM: ciphertext, then the tag of `t` bytes (R379 of 11, R403 of 12). -/
def ccmSeal (key : Bytes) (t : Nat) (nonce aad m : Bytes) : Bytes := ccmCrypt key nonce m ++ ccmTag key t nonce aad m

/-- Decrypts and checks under CCM. -/
def ccmOpen (key : Bytes) (t : Nat) (nonce aad sealed : Bytes) : Option Bytes :=
  let m := ccmCrypt key nonce (sealed.take (sealed.length - t))
  if t ≤ sealed.length ∧ sealed.drop (sealed.length - t) = ccmTag key t nonce aad m then some m else none

end Sys2Proof.Machine
end

