-- ==== Sys2Proof/Machine/State/Faults.lean ====
section
/-!
DEFINITION. The fault, tamper and duty part of the state: Teasel's records, FAULT_N, the safe state, injections,
tamper latches, the baton, roles, the mirror link. Chapter 16 of the spec (R537 to R572).
-/

namespace Sys2Proof.Machine

/-- Record states in the order of their codes (R539). -/
inductive RecordPhase
  | idle | active | ended
  deriving DecidableEq, Repr

/-- A fault record (R539). -/
structure FaultRecord where
  phase : RecordPhase := .idle
  injected : Bool := false
  count : Nat := 0
  firstTick : Nat := 0
  lastTick : Nat := 0
  detail : Nat := 0
  deriving DecidableEq, Repr

/-- An injection armed by FLT_INJECT (R545, R546). -/
structure Injection where
  mode : Nat
  count : Nat
  place : Nat
  addr : Nat
  session : Nat
  deriving DecidableEq, Repr

/-- One tamper input of the KEEP domain (R547). -/
structure Tamper where
  enabled : Bool := true
  latched : Bool := false
  /-- consecutive samples that read open; it reads open now -/
  run : Nat := 0
  openNow : Bool := false
  opens : Nat := 0
  firstOpen : Nat := 0
  lastOpen : Nat := 0
  firstTrust : Nat := 0
  lastTrust : Nat := 0
  /-- latched in Keep and not reported yet -/
  unreported : Bool := false
  deriving DecidableEq, Repr

/-- Teasel state (chapter 16). -/
structure FaultState where
  /-- the fault records by source ID, sources with a record that differs from a fresh one
  (256 × 32 B; R539 of 16_faults_redundancy.md; reset: IDLE, count 0) -/
  records : Table FaultRecord := []
  /-- FAULT_N is driven low by Folset's level (1 bit; R541 of 16; reset: low, held until Folset is ready) -/
  faultnLow : Bool := true
  /-- a FAULT_N pulse runs (1 bit; R541 of 16; reset: none) -/
  faultnPulse : Bool := false
  /-- the safe state is applied, and the Gliris time of its entry (R542 of 16; reset: not applied, 0) -/
  safe : Bool := false
  safeSince : Nat := 0
  /-- source 0x01's condition holds (R566 of 16; reset: false) -/
  commanded : Bool := false
  /-- ENDED records that FLT_CLEAR returns to IDLE at the next tick (R565 of 16; reset: none) -/
  clearing : List Nat := []
  /-- injections pending by checker 0 to 7 (R545 of 16; reset: none) -/
  injections : Table Injection := []
  /-- the five tamper inputs (R547 of 16; reset: enabled, clear) -/
  tamper : List Tamper := List.replicate 5 {}
  deriving DecidableEq, Repr

/-- Roles of a module in a pair, codes 0 to 3 (R552). -/
inductive PairRole
  | single | duty | standby | undecided
  deriving DecidableEq, Repr

/-- Synchronisation states, codes 0 to 4 (R555, R562). -/
inductive SyncPhase
  | none | copying | inSync | outOfSync | split
  deriving DecidableEq, Repr

/-- One ledger-store write as the mirror link carries it (R553). -/
structure MirrorRecord where
  tick : Nat
  addr : Nat
  stamp : Nat
  data : Bytes
  deriving DecidableEq, Repr

/-- Pair state (chapter 16, R548 to R561). -/
structure DutyState where
  /-- role (2 bits; R552 of 16; reset: UNDECIDED, GSTAT.PAIR_ROLE resets to 3 in R114) -/
  role : PairRole := .undecided
  /-- synchronisation state of the standby of the pair (R555 of 16; reset: NONE) -/
  sync : SyncPhase := .none
  /-- own baton line driven low by this module (R549 of 16; reset: released) -/
  ownLow : Bool := false
  /-- peer baton line reads low (R549 of 16; reset: high, no peer) -/
  peerLow : Bool := false
  /-- the module holds the baton (R549 of 16; reset: false) -/
  holding : Bool := false
  /-- a claim waits for its confirmation (R550 of 16; reset: false) -/
  claiming : Bool := false
  /-- eligibility fixed when the peer line rose (R550, R555 of 16; reset: false) -/
  eligible : Bool := false
  /-- the claim in progress was ordered by DUTY_TAKEOVER (R571 of 16; reset: false) -/
  forced : Bool := false
  /-- current duty epoch and the highest stored or learned (32 bits; R558 of 16; reset: 0) -/
  epoch : Nat := 0
  epochHighest : Nat := 0
  /-- last_role of the configuration region is duty (R552 of 16; reset: none) -/
  lastRoleDuty : Bool := false
  /-- mirror contact, and what the latest HELLO of the peer said (R553 of 16; reset: none) -/
  contact : Bool := false
  peerEpoch : Nat := 0
  peerSerial : Nat := 0
  peerSlot : Nat := 0
  peerFrontier : Nat := 0
  peerRole : Nat := 0
  peerSync : Nat := 0
  /-- latest tick the standby acknowledged, or this standby acknowledged (R553 of 16; reset: 0) -/
  lastAcked : Nat := 0
  /-- commits are coupled to the peer's ACK (R554 of 16; reset: false) -/
  coupled : Bool := false
  /-- coupling is lost until a resync completes (R554 of 16; reset: false) -/
  alone : Bool := false
  /-- resync progress in permille, its reference if DUTY_RESYNC ordered it, and ticks discarded (R560, R561 of 16; reset: none) -/
  copyPermille : Nat := 0
  resyncRef : Option Nat := none
  resyncDiscarded : Nat := 0
  /-- takeovers and decouples since cold start (32 bits each; DUTY_STATUS of 16; reset: 0) -/
  takeovers : Nat := 0
  decouples : Nat := 0
  /-- a DUTY_YIELD in progress: its reference (R570 of 16; reset: none) -/
  yieldRef : Option Nat := none
  /-- SS7 was opened on the holder: it becomes SINGLE at its next release (R551, R552 of 16; reset: false) -/
  singleNext : Bool := false
  /-- on the standby: RECORDs received and not yet committed, ticks closed and acknowledged (R553, R556 of 16; reset: none) -/
  records : List MirrorRecord := []
  acked : List Nat := []
  /-- highest tick label the former duty shipped (R556 of 16; reset: 0) -/
  shipped : Nat := 0
  /-- a takeover's first ledger tick is still to do its actions (R556 of 16; reset: false) -/
  takeoverDue : Bool := false
  /-- on the standby: own GL-F counter epoch and counters at the window the last COMMIT consumed, by set (R557 of 16; reset:
  none) -/
  ownAtCommit : Table (Nat × List Nat) := []
  /-- those of them a takeover has made the sets' consumed values, until a committed tick has taken them (R557 of 16; reset:
  none) -/
  ownBase : Table (Nat × List Nat) := []
  /-- latest tick committed that the peer does not hold: no acknowledgement, no resync since (R561 of 16; reset: 0) -/
  unshared : Nat := 0
  /-- DUTY_CHANGE due with the first tick committed after a takeover: new role, old role, cause (R556 of 16; reset: none) -/
  changeDue : Option (Nat × Nat × Nat) := none
  /-- epoch under which the mirror link runs, highest seq received under it, frames dropped (R585 of 17; reset: 0) -/
  linkEpoch : Nat := 0
  rxSeq : Nat := 0
  rxDropped : Nat := 0
  /-- payload bytes of a message whose last frame has not come (R585 of 17; reset: none) -/
  rxPartial : Bytes := []
  /-- bytes of the configuration region received from the duty whose meaning the spec gives no layout for, by offset
  (R553, R560 of 16; reset: none) -/
  regionImage : Table Bytes := []
  /-- entries of the journal received for ticks not yet committed (R553 of 16; reset: none) -/
  journalHeld : List (Nat × Nat × Bytes) := []
  /-- messages sent over the mirror link, latest first: kind and tick (output of the block; R553 of 16; reset: none) -/
  sent : List (Nat × Nat) := []
  deriving DecidableEq, Repr

end Sys2Proof.Machine
end

