-- ==== Sys2Proof/Machine/State/FieldIo.lean ====
section
/-!
DEFINITION. The field input and output part of the state: seal bank, load switches, safety I/O, FIELD_24V, panels.
Chapters 02 (R42, R46) and 14 of the spec (R472 to R505).
-/

namespace Sys2Proof.Machine

/-- The seal bank and what it arms (R42, R490). -/
structure SealState where
  /-- positions 1 to 16 as sensed: closed (16 bits; R42 of 02; reset: open, DESIGN CHOICE log 15) -/
  sensed : List Bool := List.replicate 16 false
  /-- positions in force, sampled at FIELD power-up for SS1 to SS8 (R490 of 14; reset: open) -/
  inForce : List Bool := List.replicate 16 false
  /-- MS1 and MS2 as last audited: closed (2 bits; R273 of 08; reset: open, DESIGN CHOICE log 15) -/
  audited : List Bool := [false, false]
  deriving DecidableEq, Repr

/-- Use of a load switch, codes 0 to 4 of FIO_LS_CONFIG. -/
inductive LsUse
  | unused | host | direct | lock | fan
  deriving DecidableEq, Repr

/-- What FIO_LS_CONFIG gives a channel (R497). -/
structure LsConfig where
  use : LsUse := .unused
  param : Nat := 0
  wire : Nat := 0
  slewDv : Nat := 1
  initial : Bool := false
  safeGroup : Bool := false
  safeOn : Bool := false
  fanRunOnS : Nat := 0
  deriving DecidableEq, Repr

/-- A load-switch channel (R472, R475 to R480). Heats are in mA² × 100 µs, the ramp voltage in 0.01 V. -/
structure LsChannel where
  config : LsConfig := {}
  /-- commanded state of a host channel (GL-C), and the source state of the latest downlink frame (GL-F) -/
  commanded : Bool := false
  source : Bool := false
  on : Bool := false
  ramp : Bool := false
  rampCv : Nat := 0
  /-- a DIRECT channel has had its first turn-on since configuration, clear or restore -/
  followed : Bool := false
  overload : Bool := false
  short : Bool := false
  turnOnFailed : Bool := false
  overTemp : Bool := false
  openLoad : Bool := false
  wireHeat : Nat := 0
  chanHeat : Nat := 0
  /-- the switch junction is at or above 120 °C -/
  hot : Bool := false
  /-- uptime until which a fan runs on -/
  fanUntil : Option Nat := none
  trips : Nat := 0
  /-- measured current in mA: the latest sample; sum and count of the samples in this tick; mean of the latest tick; highest tick mean
  of this round and of the round before -/
  current : Nat := 0
  tickSum : Nat := 0
  tickCount : Nat := 0
  mean : Nat := 0
  peak : Nat := 0
  peakPrev : Nat := 0
  deriving DecidableEq, Repr

/-- States of a safety input, codes 0 to 5 of SAFETY_INPUT; a feedback input that reads neither pattern is `inconsistent` (R483). -/
inductive InputPhase
  | clear | demand | fault | opened | closed | unknown | inconsistent
  deriving DecidableEq, Repr

/-- What SAF_INPUT_SET gives an input (R484, R504). -/
structure InputConfig where
  function : Nat := 0
  antivalent : Bool := false
  srcA : Nat := 0
  srcB : Nat := 1
  mask : Nat := 0
  releaseMs : Nat := 100
  discrepancyMs : Nat := 100
  point : Nat := 0
  deriving DecidableEq, Repr

/-- One channel of a safety input (R482, R483): demand recognised, consecutive counted samples in demand; a checked sample of its
own source's gap read on, consecutive such gaps; by other source, whether every checked sample of its gap read off, and consecutive
gaps of which that held; whether a counted sample has read off since the last gap of each source. -/
structure InputChannel where
  demand : Bool := true
  run : Nat := 0
  gapBad : Bool := false
  badGaps : Nat := 0
  crossOff : List Bool := [true, true, true, true]
  crossGaps : List Nat := [0, 0, 0, 0]
  offSince : List Bool := [true, true, true, true]
  deriving DecidableEq, Repr

/-- A safety input (R481 to R486). -/
structure SafetyInput where
  config : InputConfig := {}
  phase : InputPhase := .demand
  a : InputChannel := {}
  b : InputChannel := {}
  /-- uptime since which it has been in DEMAND, from GL-F's release on, and both channels in demand since (R486) -/
  since : Option Nat := none
  both : Bool := false
  deriving DecidableEq, Repr

/-- A safety output (R487 to R489). -/
structure SafetyOutput where
  /-- commanded by SAF_OUTPUT_SET or by charging (GL-C), and as the latest downlink frame gave it (GL-F) -/
  commanded : Bool := false
  source : Bool := false
  on : Bool := false
  fault : Bool := false
  fed : Bool := false
  /-- the next off-pulse turns off switch B -/
  nextB : Bool := false
  deriving DecidableEq, Repr

/-- A test-pulse source (R481). -/
structure TestSource where
  running : Bool := false
  overloaded : Bool := false
  deriving DecidableEq, Repr

/-- A panel profile (FIO_PANEL_SET, R491 to R494, R500). -/
structure PanelProfile where
  width : Nat
  height : Nat
  bpp : Nat
  maxInFlight : Nat
  sckKhz : Nat
  vcomMv : Nat
  refreshMs : Nat
  fullMs : Nat
  busyTimeoutMs : Nat
  offDelayMs : Nat
  flags : Nat
  commands : Bytes
  script : Bytes
  deriving DecidableEq, Repr

/-- A panel draw (R494, R501): its command's reference, rectangle, and pixel data. -/
structure PanelDraw where
  ref : Nat
  full : Bool
  x : Nat
  y : Nat
  w : Nat
  h : Nat
  data : Bytes
  deriving DecidableEq, Repr

/-- Panel states, codes 1 to 5 of FIO_PANEL_READ; code 0 is an unpowered panel without a profile. -/
inductive PanelPhase
  | off | poweringUp | on | poweringOff | fault
  deriving DecidableEq, Repr

/-- A panel port (R491 to R494, R502). -/
structure Panel where
  phase : PanelPhase := .off
  /-- profile in force since the panel's last power-up; profile kept for its next (none removes) -/
  profile : Option PanelProfile := none
  kept : Option PanelProfile := none
  /-- the module waits for BUSY to be released before its next command -/
  busy : Bool := false
  /-- what is left of the initialisation script -/
  init : Bytes := []
  /-- the draw being issued, and the commands of it sent: 1 window, 2 pixels -/
  issuing : Option (PanelDraw × Nat) := none
  /-- draws queued, oldest first; draws whose transfer from the host still runs are not among them -/
  queue : List PanelDraw := []
  /-- draws in flight, with the uptime at which their time in flight ends -/
  inFlight : List (PanelDraw × Nat) := []
  /-- uptime since which queue and flight have been empty -/
  idleSince : Option Nat := none
  imageValid : Bool := false
  abrupt : Bool := false
  draws : Nat := 0
  faults : Nat := 0
  /-- bytes clocked out, latest last: DC level with the byte (output of the block) -/
  sent : List (Bool × Byte) := []
  deriving DecidableEq, Repr

/-- Field I/O and safety (chapter 14). -/
structure FieldState where
  /-- GL-F has released its outputs since FIELD power-up (1 bit; R65 of 03, R472 of 14; reset: false) -/
  released : Bool := false
  /-- the load-switch channels, 48 on the GL1024-L and 16 on the GL1024-S (R475 to R480 of 14; reset: unused, cold, flags 0) -/
  switches : List LsChannel := List.replicate 48 {}
  /-- DIRECT pins 0 to 7 as they read (8 bits; R478 of 14; reset: off, DESIGN CHOICE log 30) -/
  pins : List Bool := List.replicate 8 false
  /-- FIELD_24V under-voltage and over-voltage in force, total current above 40 A (3 bits; R46 of 02, R474 of 14; reset: false) -/
  underVoltage : Bool := false
  overVoltage : Bool := false
  totalHigh : Bool := false
  /-- FIELD_24V in 0.1 V and its total current in 0.1 A as measured (16 bits each; R474, R503 of 14; reset: 0, DESIGN CHOICE log 30) -/
  fieldDv : Nat := 0
  fieldDa : Nat := 0
  /-- uptime until which input checks stay suspended after test pulses resume (R474 of 14; reset: none) -/
  resumeAt : Option Nat := none
  /-- the four test-pulse sources (R481 of 14; reset: off) -/
  sources : List TestSource := List.replicate 4 {}
  /-- the sixteen safety inputs (R482 to R486 of 14; reset: unused, DEMAND) -/
  inputs : List SafetyInput := List.replicate 16 {}
  /-- configurations that reduce coverage and wait for the next FIELD power-up, by input (R504 of 14; reset: none) -/
  reductions : Table InputConfig := []
  /-- input resets accepted for the next tick (R483, R504 of 14; reset: none) -/
  resets : List Nat := []
  /-- the sixteen safety outputs (R487 to R489 of 14; reset: off) -/
  outputs : List SafetyOutput := List.replicate 16 {}
  /-- start-up tests passed since FIELD power-up, by charge point (16 bits; R486 of 14; reset: none) -/
  passed : List Bool := List.replicate 16 false
  /-- commands of FIO_LS_SET (mask, action) and SAF_OUTPUT_SET (output, on) accepted for the next tick (R498, R505 of 14; reset: none) -/
  lsNext : List (Nat × Nat) := []
  soNext : List (Nat × Bool) := []
  /-- the two panel ports (R491 to R494 of 14; reset: no profile) -/
  panels : List Panel := List.replicate 2 {}
  /-- a valid downlink frame has reached GL-F in this tick; an injected fault has discarded it (R21 of 01, R545 of 16; reset: false) -/
  downlinked : Bool := false
  downlinkInjected : Bool := false
  deriving DecidableEq, Repr

end Sys2Proof.Machine
end

