-- ==== Sys2Proof/Machine/State/Balance.lean ====
section
/-!
DEFINITION. Energy balance, loss and theft detection: the model table, rule profiles, pins, accumulators, history and
suspicion records. Chapter 10 of the spec (R325 to R359).
-/

namespace Sys2Proof.Machine

/-- A network entry of the balance model (R329). -/
structure NetModel where
  bridge : Nat
  feeder : Nat := 0xFF
  profile : Nat := 0
  rPhase : List Nat := [0, 0, 0]
  rNeutral : Nat := 0
  fixedW : List Nat := [0, 0, 0]
  txFixedW : Nat := 0
  txR : Nat := 0
  deriving DecidableEq, Repr

/-- A feeder entry of the balance model (R329). -/
structure FeederModel where
  feeder : Nat
  headSet : Nat
  profile : Nat
  enabled : Bool
  members : Nat
  rLine : Nat
  deriving DecidableEq, Repr

/-- A balance model table (R329, R330). -/
structure BalanceModel where
  gen : Nat := 0
  nets : List NetModel := []
  feeders : List FeederModel := []
  deriving DecidableEq, Repr

/-- A rule profile (R354), at its defaults. -/
structure RuleProfile where
  enables : Nat := 0x7F
  persistN : Nat := 8
  clearN : Nat := 16
  hourK : Nat := 6
  hourN : Nat := 24
  posRatio : Nat := 20000
  posAbs : Nat := 100
  negRatio : Nat := 20000
  negAbs : Nat := 100
  dayRatio : Nat := 10000
  dayAbs : Nat := 1000
  fastRatio : Nat := 100000
  fastRounds : Nat := 64
  locMinScore : Nat := 700
  stepRatio : Nat := 30000
  settleMin : Nat := 360
  fillMaxRound : Nat := 8
  feederPersist : Nat := 4
  feederRatio : Nat := 10000
  feederAbs : Nat := 2000
  substMaxPct : Nat := 2
  deriving DecidableEq, Repr

/-- Sums of LV ticks over a round or a window (R331, R335): ticks; by phase energies and their magnitudes (numerators over
`Machine.whDen`, µWh); mean squares of the currents L1 to L3 and N (numerators over `Machine.powerDen`, mA²); RMS voltages in mV. -/
structure LvSum where
  count : Nat := 0
  energy : List Int := [0, 0, 0]
  through : List Nat := [0, 0, 0]
  squares : List Nat := [0, 0, 0, 0]
  volts : List Nat := [0, 0, 0]
  deriving DecidableEq, Repr

/-- A round record (R332): bits of `flags` as in *Round record*. -/
structure RoundRec where
  round : Nat
  bridge : Nat
  flags : Nat := 0
  missing : Nat := 0
  supply : List Int := [0, 0, 0]
  meter : List Int := [0, 0, 0]
  loss : List Int := [0, 0, 0]
  residual : List Int := [0, 0, 0]
  through : List Nat := [0, 0, 0]
  unattributed : Int := 0
  meters : Nat := 0
  stale : Nat := 0
  /-- the entry is marked lost (R205 of 07) -/
  lost : Bool := false
  deriving DecidableEq, Repr

/-- A window record of a network (R338). `unattributed` is the energy of R339 in Wh. `squares`, `volts` and `count` are the sums
over its present ticks. -/
structure WindowRec where
  start : Nat
  seq : Nat
  bridge : Nat
  kind : Nat := 0
  flags : Nat := 0
  flags2 : Nat := 0
  supply : List Int := [0, 0, 0]
  meter : List Int := [0, 0, 0]
  loss : List Int := [0, 0, 0]
  residual : List Int := [0, 0, 0]
  through : List Nat := [0, 0, 0]
  estimated : Nat := 0
  unattributedMeters : Nat := 0
  unattributed : Int := 0
  squares : List Nat := [0, 0, 0, 0]
  volts : List Nat := [0, 0, 0]
  count : Nat := 0
  deriving DecidableEq, Repr

/-- A feeder window record (R341). -/
structure FeederRec where
  start : Nat
  seq : Nat
  feeder : Nat
  kind : Nat := 0
  flags : Nat := 0
  head : Int := 0
  bridges : Int := 0
  localWh : Int := 0
  line : Int := 0
  tx : Int := 0
  residual : Int := 0
  bridgeResidual : Int := 0
  complete : Nat := 0
  members : Nat := 0
  /-- import of the head, the throughput of the feeder rules (R343; MODEL'S OWN, no field of the record) -/
  headImport : Nat := 0
  deriving DecidableEq, Repr

/-- States of a suspicion record, codes 0 to 3 (R345). -/
inductive SuspicionPhase
  | opened | localised | cleared | closed
  deriving DecidableEq, Repr

/-- A candidate of a suspicion record (R345). -/
structure Candidate where
  account : Nat
  score : Int
  method : Nat
  phase : Nat := 0xFF
  deriving DecidableEq, Repr

/-- A suspicion record (R345); `clearCount` counts towards clearance (R344). The sums of a FAST record are in mWh. -/
structure Suspicion where
  id : Nat
  subject : Nat
  kind : Nat
  phase : Nat
  state : SuspicionPhase := .opened
  disposition : Nat := 0
  windowsOver : Nat := 0
  openedWindow : Nat
  lastWindow : Nat
  residual : Int := 0
  through : Nat := 0
  peakRatio : Int := 0
  candidates : List Candidate := []
  localisedTick : Nat := 0
  closedTick : Nat := 0
  meanDaily : Int := 0
  clearCount : Nat := 0
  /-- place among the 65,536 records of DRAM (R350), and whether the entry there is marked lost (R205 of 07) -/
  slot : Nat := 0
  lost : Bool := false
  deriving DecidableEq, Repr

/-- Persistence counts of a phase of a network, or of a feeder (R343): consecutive windows over the positive and under the
negative threshold, and the latest counting 1-hour windows' verdicts, newest first. -/
structure RuleCount where
  pos : Nat := 0
  neg : Nat := 0
  hours : List Bool := []
  deriving DecidableEq, Repr

/-- Localisation data of a meter in one window: its net energy (numerator over 18, µWh) and the mean voltages in 0.1 V that
its intervals in the window report (R347). -/
structure MeterWindow where
  account : Nat
  seq : Nat
  energy : Int
  volts : List Nat := []
  deriving DecidableEq, Repr

/-- Balance state of one network (R331 to R339). -/
structure NetBalance where
  /-- round and window accumulators, by round and by window sequence -/
  rounds : Table LvSum := []
  windows : Table LvSum := []
  /-- rounds and windows in which the bridge was silent (R342) -/
  silentRounds : List Nat := []
  silentWindows : List Nat := []
  /-- complete rounds' residual and throughput, newest first, at most 1,024 (R343 FAST) -/
  fast : List (List Int × List Nat) := []
  counts : List RuleCount := [{}, {}, {}]
  /-- localisation series (R347) -/
  series : List MeterWindow := []
  /-- the round in which a window settled since LOCALISE last ran -/
  localiseDue : Option Nat := none
  /-- window sequences at which a pin of the network changed, latest first -/
  pinAt : List Nat := []
  rFit : List Nat := [0xFFFFFFFF, 0xFFFFFFFF, 0xFFFFFFFF]
  deriving DecidableEq, Repr

/-- Counters of a feeder's sets at the start of a window (R340), in µWh: the head's net counter and its import, the net counters of
the member sets, and the epochs of all of them. -/
structure FeederMark where
  head : Int := 0
  headImport : Nat := 0
  own : Int := 0
  epochs : List Nat := []
  deriving DecidableEq, Repr

/-- Balance state of a feeder (R340): by window sequence the counters at its start, and the sum of the elements' mean squares
(numerators over `Machine.powerDen`, mA²). -/
structure FeederBalance where
  marks : Table FeederMark := []
  squares : Table Nat := []
  counts : RuleCount := {}
  deriving DecidableEq, Repr

/-- A pin or clearance (R355): bridge, node, phase (none clears), first window that uses it. -/
structure PinChange where
  bridge : Nat
  node : Nat
  phase : Option Nat
  from' : Nat
  deriving DecidableEq, Repr

/-- Energy balance (chapter 10). -/
structure BalanceState where
  /-- active balance model and the previous generation with its last round (R329, R330 of 10; reset: empty, no generation) -/
  model : BalanceModel := {}
  modelPrev : Option (BalanceModel × Nat) := none
  /-- rule profiles 0 to 15 (R354 of 10; reset: the defaults) -/
  rules : List RuleProfile := List.replicate 16 {}
  /-- pins and clearances accepted, oldest first: the latest of a node whose window has come is in force (R355 of 10; reset: none) -/
  pins : List PinChange := []
  /-- balance of each network and feeder (R331, R340 of 10; reset: none) -/
  nets : Table NetBalance := []
  feeders : Table FeederBalance := []
  /-- history rings: rounds (256), network windows (672, 720, 366), feeder windows (R350 of 10; reset: empty) -/
  rounds : List RoundRec := []
  windows : List WindowRec := []
  feederWindows : List FeederRec := []
  /-- suspicion records (65,536 × 128 B; R345 of 10; reset: none) and the next record_id -/
  suspicions : List Suspicion := []
  nextRecord : Nat := 1
  /-- dropped firings and late rounds since cold start (R345, BAL_STATUS of 10; reset: 0) -/
  dropped : Nat := 0
  lateRounds : Nat := 0
  /-- latest round published for every network; networks incomplete in it (BAL_STATUS of 10; reset: 0) -/
  lastRound : Nat := 0
  incomplete : Nat := 0
  lastWindow : Nat := 0
  /-- Gliris times at which a model generation has activated, latest first (R330 of 10; reset: none) -/
  modelAt : List Nat := []
  /-- labels that windows gained or lost by steps, by window sequence (R334 of 10; reset: none) -/
  labelAdjust : Table Int := []
  /-- rounds whose labels were carried by a ledger tick, and those carried twice (R332 of 10; reset: none) -/
  ledgerRounds : List Nat := []
  irregularRounds : List Nat := []
  /-- first committed tick since the cold start (R351 of 10; reset: none) -/
  firstTick : Option Nat := none
  deriving DecidableEq, Repr

end Sys2Proof.Machine
end

