-- ==== Sys2Proof/Machine/State/Charging.lean ====
section
/-!
DEFINITION. Charge points: configuration, pilot, sessions, identification, converters, supply paths. Chapter 13 of the spec
(R435 to R471).
-/

namespace Sys2Proof.Machine

/-- Pilot states, codes 0 to 7 of POINT_STATE (R436, R463). -/
inductive Pilot
  | a | b | c | d | e | f | invalid | diodeMissing
  deriving DecidableEq, Repr

/-- What CPk is driven to: 0 V, steady +12 V, steady −12 V (state F), PWM with a duty in 0.1 % (R48, R435). -/
inductive PilotDrive
  | off | steady | stateF | pwm (duty : Nat)
  deriving DecidableEq, Repr

/-- States of the session state machine, codes 0 to 8 (R445, R463). -/
inductive PointPhase
  | unavailable | idle | link | auth | prepare | energy | paused | stopping | ended
  deriving DecidableEq, Repr

/-- What CHG_POINT_SET gives a point (R465); `dc` is kind 2. Powers in 0.1 kW. -/
structure PointConfig where
  dc : Bool
  phases : Nat := 3
  ppMode : Nat := 2
  protocols : Nat := 0
  tlsPolicy : Nat := 0
  priority : Nat := 0
  acRatingA : Nat := 0
  dcRatingDkw : Nat := 0
  cableA : Nat := 0
  minDkw : Nat := 0
  rampUpDkw : Nat := 1
  rampDownDkw : Nat := 1
  supplyFactor : Nat := 1000
  exportFactor : Nat := 1000
  dischargeDkw : Nat := 0
  antenna : Nat := 0xFF
  bus : Nat := 0
  /-- converter nodes, without unused places -/
  nodes : List Nat := []
  converterDkw : Nat := 0
  authTimeoutS : Nat := 10
  rcmTurns : Nat := 500
  stopMargin : Nat := 0
  insScale : Nat := 0
  deriving DecidableEq, Repr

/-- A supply path (R455, R466). -/
structure PathConfig where
  headSet : Nat
  members : Nat
  limitKva : Nat
  reserveKva : Nat
  exportOk : Bool
  deriving DecidableEq, Repr

/-- A CAN FD bus (R49, R467): rate codes, sample points, termination. -/
structure BusConfig where
  arbRate : Nat := 0
  dataRate : Nat := 0
  arbSample : Nat := 0
  dataSample : Nat := 0
  termination : Bool := false
  deriving DecidableEq, Repr

/-- A grant held or in force (R448, R452): how it was identified (codes of SESSION_START), the card that gave it, caps, the waiting
command, and the uptime of its arrival. -/
structure Grant where
  account : Nat
  ident : Nat
  card : Option (Nat × Bytes) := none
  energyCapWh : Nat := 0
  moneyCap : Nat := 0
  ref : Option Nat := none
  at' : Nat
  deriving DecidableEq, Repr

/-- Steps of preparation (R446). -/
inductive PrepStep
  | none | selfTest | cableCheck | precharge | waitC | closing
  deriving DecidableEq, Repr

/-- What the vehicle has said (R443, R456, R457): protocol offered, DC_BPT, its limits in 0.1 kW, 0.1 V and 0.1 A, and its target. -/
structure VehicleData where
  bpt : Bool := false
  scheduled : Bool := false
  maxDkw : Nat := 50000
  maxDischargeDkw : Nat := 0
  maxVoltageDv : Nat := 0
  checkVoltageDv : Nat := 0
  presentVoltageDv : Nat := 0
  targetVoltageDv : Nat := 0
  targetCurrentDa : Int := 0
  deriving DecidableEq, Repr

/-- A former limit of an AC point that still counts: kVA, uptime of its end (R456). -/
structure FormerLimit where
  kva : Rat
  until' : Nat
  deriving DecidableEq, Repr

/-- The Green PHY line of a point (R441, R442): samples its front-end has taken in the latest tick and samples it is to send; payloads
of the frames received and frames to send, in ciphertext; application data received and to send. -/
structure VehicleLine where
  rx : Bytes := []
  tx : Bytes := []
  inbound : List Bytes := []
  outbound : List Bytes := []
  received : List Bytes := []
  toSend : List Bytes := []
  deriving DecidableEq, Repr

/-- One charge point (R435 to R462). -/
structure ChargePoint where
  config : Option PointConfig := none
  phase : PointPhase := .unavailable
  pilot : Pilot := .a
  drive : PilotDrive := .off
  /-- PP reading in Ω, and the band it lies in as a rating in A (R438) -/
  ppOhm : Nat := 0
  ppBand : Option Nat := none
  protocol : Nat := 0
  /-- failed LINK attempts; state F of 4 s runs after a failure, or after a trip (R440, R461) -/
  linkFailures : Nat := 0
  linkRetry : Bool := false
  tripHold : Bool := false
  grant : Option Grant := none
  session : Nat := 0
  account : Nat := 0
  ident : Nat := 0
  card : Option (Nat × Bytes) := none
  energyCapWh : Nat := 0
  moneyCap : Nat := 0
  /-- end reason the session is stopping with; reason of the last session end -/
  endReason : Nat := 0
  lastEnd : Nat := 0
  /-- CHG_STOP commands that wait for the close -/
  stops : List Nat := []
  prep : PrepStep := .none
  /-- contactor commanded closed; a measured opening condition is awaited until this uptime (R461) -/
  contactor : Bool := false
  offBy : Option Nat := none
  /-- a self-test before a close has been started, and one has passed since the last opening (R459) -/
  testing : Bool := false
  tested : Bool := false
  rcmFailed : Bool := false
  locked : Bool := false
  welded : Bool := false
  /-- uptimes of residual-current trips within 24 h (R461) -/
  rcmTrips : List Nat := []
  /-- allotted target and the target before, in 0.1 kW, negative while exporting (R456, R457) -/
  targetDkw : Int := 0
  credit : Bool := false
  /-- ticks without a set record; uptime at which the limit fell to 0 for it (R462) -/
  missing : Nat := 0
  missingSince : Option Nat := none
  formers : List FormerLimit := []
  /-- PMaxSchedule in force, 0.1 kW, and the uptime since which the target has differed from it by more than 10 % (*Limit paths*) -/
  scheduleDkw : Int := 0
  differSince : Option Nat := none
  vehicle : VehicleData := {}
  rcmDc : Nat := 0
  rcmAc : Nat := 0
  risoKohm : Option Nat := none
  /-- round at which the caps were last checked -/
  checked : Nat := 0
  /-- contract certificate chain and EMAID received, and the random challenge of a Contract authorisation (R451) -/
  contractChain : Bytes := []
  emaid : Bytes := []
  challenge : Bytes := []
  /-- Green PHY line of the point's front-end (R441) -/
  line : VehicleLine := {}
  deriving DecidableEq, Repr

/-- A converter's latest FEEDBACK (R453, R454): state, fault code, 0.1 V, 0.1 A, 0.1 A available, 0.1 °C, tick it arrived in. -/
structure Converter where
  state : Nat := 0
  fault : Nat := 0
  voltage : Nat := 0
  current : Int := 0
  available : Nat := 0
  temperature : Int := 0
  tick : Nat := 0
  lost : Bool := false
  deriving DecidableEq, Repr

/-- Steps of the card exchange of a reader front-end (R449, R450): IDENT sent with Rr; SPEED sent; AUTH sent with the card's
issuer and number and Rr2. -/
inductive CardStep
  | idle
  | ident (nonce : Bytes)
  | speed (rate issuer : Nat) (number : Bytes)
  | auth (issuer : Nat) (number challenge : Bytes)
  deriving DecidableEq, Repr

/-- A reader front-end: the antenna polled, 0 to 3, and the exchange on it (R449). -/
structure Reader where
  antenna : Nat := 0
  step : CardStep := .idle
  deriving DecidableEq, Repr

/-- A card entry of CHG_ID_SET (R468). -/
structure CardEntry where
  issuer : Nat
  number : Bytes
  blocked : Bool
  points : Nat
  account : Nat
  deriving DecidableEq, Repr

/-- A contract entry of CHG_ID_SET (R468). -/
structure ContractEntry where
  emaid : Bytes
  blocked : Bool
  points : Nat
  account : Nat
  deriving DecidableEq, Repr

/-- An identification that ID_SEEN reported and nothing has decided yet (R448, R469): number, point, how, card, uptime. -/
structure Seen where
  id : Nat
  point : Nat
  method : Nat
  card : Option (Nat × Bytes) := none
  at' : Nat
  deriving DecidableEq, Repr

/-- What ALLOT has computed for a path in a tick (R455 to R457): headroom in kVA, targets in 0.1 kW by point. -/
structure PathShare where
  /-- the tick that `headroom` belongs to -/
  tick : Option Nat := none
  headroom : Rat := 0
  targets : List (Nat × Int) := []
  /-- the tick that `targets` belongs to -/
  sharedAt : Option Nat := none
  /-- round in which ALLOT_SHORT was last raised -/
  shortRound : Option Nat := none
  deriving DecidableEq, Repr

/-- Charge points (chapter 13). -/
structure ChargeState where
  /-- the sixteen charge points (R435 to R462 of 13; reset: not configured, UNAVAILABLE, pilot 0 V) -/
  points : List ChargePoint := List.replicate 16 {}
  /-- supply paths 0 to 15 that are configured (R455, R466 of 13; reset: none) -/
  paths : Table PathConfig := []
  /-- CAN FD buses 0 to 3 (R49 of 02, R467 of 13; reset: codes 0, DESIGN CHOICE log 31) -/
  buses : List BusConfig := List.replicate 4 {}
  /-- converters by bus × 32 + node that have sent FEEDBACK (R453 of 13; reset: none) -/
  converters : Table Converter := []
  /-- SETPOINT frames of the latest tick: bus, identifier, data (output of the block; R453 of 13; reset: none) -/
  setpoints : List (Nat × Nat × Bytes) := []
  /-- the four reader front-ends (R449 of 13; reset: antenna 0, no exchange) -/
  readers : List Reader := List.replicate 4 {}
  /-- commands sent to cards, latest first: front-end, command byte, data (output of the block; R450 of 13; reset: none) -/
  cardSent : List (Nat × Nat × Bytes) := []
  /-- card and contract entries in force (at most 65,536 each; R468 of 13; reset: none) -/
  cards : List CardEntry := []
  contracts : List ContractEntry := []
  /-- entry changes accepted for the next tick (R468 of 13; reset: none) -/
  idNext : List Bytes := []
  /-- identifications not decided yet, and the next seen_id (R463, R469 of 13; reset: none, 1) -/
  seen : List Seen := []
  nextSeen : Nat := 1
  /-- session_id of the last session opened (32 bits; R445 of 13; reset: 0) -/
  lastSession : Nat := 0
  /-- sessions and trips since cold start (32 bits each; CHG_STATUS of 13; reset: 0) -/
  sessionsTotal : Nat := 0
  trips : Nat := 0
  /-- consecutive stale ticks (R458 of 13; reset: 0); the limits of the running tick are stale; it carried a HEADROOM, ALLOT or
  CAN_SETPOINT skip -/
  stale : Nat := 0
  staleNow : Bool := false
  skipped : Bool := false
  /-- targets in 0.1 kW that ALLOT has computed in this tick, which the downlink frame brings into force (R20, R21 of 01; reset: none) -/
  allotted : List (Nat × Int) := []
  /-- what ALLOT has computed, by path (16 for points of no path; R455 to R457 of 13; reset: none) -/
  shares : Table PathShare := []
  /-- protocol messages sent to vehicles, latest first: point and kind (output of the block; R443 of 13; reset: none) -/
  messages : List (Nat × Nat) := []
  deriving DecidableEq, Repr

end Sys2Proof.Machine
end

