-- ==== Sys2Proof/Machine/State/Metrology.lean ====
section
/-!
DEFINITION. The metrology part of the state: calibration, channels, sets, counters, demand, rings, self-test, audit.
Chapter 08 of the spec (R228 to R283).
-/

namespace Sys2Proof.Machine

/-- A channel entry of the calibration record (R269); `points` holds temperature, gain and delay of the 16 points. -/
structure CalChannel where
  channel : Nat
  sensor : Nat
  range : Nat := 0
  compensated : Bool := false
  voltage : Bool := false
  fsPrimary : Nat := 1
  offset : Int := 0
  gain : Nat := 0x40000000
  delay : Int := 0
  points : List (Int × Int × Int) := []
  deriving DecidableEq, Repr

/-- A set entry of the calibration record (R269). -/
structure CalSet where
  set : Nat
  kind : Nat
  location : Nat := 0
  slot : Nat := 0
  current : List Nat := []
  neutral : Nat := 0xFF
  voltage : List Nat := []
  reverse : Bool := false
  noloadMw : Nat := 0
  noloadMvar : Nat := 0
  deriving DecidableEq, Repr

/-- A satellite binding entry of the calibration record (R269). -/
structure CalBinding where
  ring : Nat
  position : Nat
  serial : Nat
  deriving DecidableEq, Repr

/-- A calibration record (R269). -/
structure CalRecord where
  calibId : Nat := 0
  sha256 : Bytes := List.replicate 32 0
  fNom : Nat := 50
  bindings : List CalBinding := []
  channels : List CalChannel := []
  sets : List CalSet := []
  deriving DecidableEq, Repr

/-- A window of one channel: its tick, its exact corrected samples (units of 2^−38 × 10^−7 LSB), its clips and the
largest magnitude sampled (R230, R233, R236). -/
structure ChanWindow where
  window : Nat
  samples : List Int
  clips : Nat := 0
  largest : Nat := 0
  deriving DecidableEq, Repr

/-- Live state of one channel (R236 to R239, R248). -/
structure MetChannel where
  /-- the last 16 samples corrected in offset, integration and gain, oldest first: the delay line of R236 step 4 -/
  line : List Int := []
  /-- integrator and DC-blocker history of a coil channel (R231) -/
  coil : Int := 0
  /-- latest window as corrected at the counting point, and the one delivered to GL-C -/
  latest : Option ChanWindow := none
  delivered : Option ChanWindow := none
  /-- corrected windows, latest first: of a local voltage channel the last 200, over which the period is measured (R242); of a satellite's
  channel those that its buffer could hold and 200 before them (R255, R264) -/
  recent : List ChanWindow := []
  /-- windows received from a satellite that MET_CHANNEL has not processed yet, and the latest one it has (R248, R264) -/
  arrived : List Nat := []
  processed : Option Nat := none
  /-- values MET_CHANNEL produced from the window delivered (R248) -/
  rms : Nat := 0
  mean : Int := 0
  peak : Nat := 0
  fundAmplitude : Nat := 0
  fundPhase : Int := 0
  clips : Nat := 0
  temperature : Int := 0
  delayTotal : Int := 0
  gainTc : Int := 0
  /-- the spare serves the channel (R265) -/
  onSpare : Bool := false
  /-- temperature outside the table; total delay clamped (R237, R238) -/
  tempFlag : Bool := false
  clamped : Bool := false
  deriving DecidableEq, Repr

/-- A boundary of a satellite set that waits for a record (R251): the window awaited, the boundary tick, the sub-interval that begins at
it, and the ticks counted up to it. -/
structure DemandWait where
  window : Nat
  tick : Nat
  index : Nat
  ticks : Nat
  deriving DecidableEq, Repr

/-- One maximum-demand register (R250 to R254). -/
structure DemandReg where
  quantity : Nat
  intervalMin : Nat
  subCount : Nat
  maximum : Nat := 0
  previous : Nat := 0
  maxEndTick : Nat := 0
  partialFlag : Bool := false
  irregular : Bool := false
  current : Nat := 0
  /-- counter value (µWh) at the start, and ticks, of the completed sub-intervals, latest first, at most 15; the same of
  the one running -/
  history : List (Int × Nat) := []
  runStart : Int := 0
  runStartTick : Nat := 0
  runTicks : Nat := 0
  /-- flags of the completed sub-intervals, as their history: partial, irregular -/
  marks : List (Bool × Bool) := []
  runPartial : Bool := false
  runIrregular : Bool := false
  /-- index of the running sub-interval: its start label in units of the sub-interval length after 00:00 UTC -/
  index : Option Nat := none
  /-- a satellite set's boundary waits for its record (R251) -/
  waits : Option DemandWait := none
  deriving DecidableEq, Repr

/-- A demand configuration waiting for its boundary (R281): register, new configuration (none removes), tick. -/
structure DemandPending where
  set : Nat
  reg : Nat
  quantity : Nat
  intervalMin : Nat
  subCount : Nat
  tick : Nat
  principal : Nat
  role : Nat
  deriving DecidableEq, Repr

/-- Live state of one channel set (R240 to R249). -/
structure MetSet where
  /-- the five counters in µWh and their fractions, numerators over `Machine.whDen` (R243) -/
  counters : List Nat := [0, 0, 0, 0, 0]
  fractions : List Nat := [0, 0, 0, 0, 0]
  /-- counter epoch of the source and the window the counters stand at the end of (R244) -/
  epoch : Nat := 0
  window : Nat := 0
  /-- counters delivered to GL-C: epoch, window, counters; and those of the window before (R244, R249) -/
  delivered : Option (Nat × Nat × List Nat) := none
  deliveredBefore : Option (Nat × Nat × List Nat) := none
  /-- counters of a satellite set's records, latest first: window, epoch, counters (R249, R251, R264) -/
  received : List (Nat × Nat × List Nat) := []
  /-- P, Q, S (µW, µvar, µVA: numerators over `powerDen`) and frequency (mHz) that MET_CHANNEL produced (R248) -/
  p : Int := 0
  q : Int := 0
  sva : Nat := 0
  freq : Nat := 0
  /-- activation window of the last change of location, at which the new source's counters are the new baseline (R246) -/
  rebase : Option Nat := none
  /-- check flag, consecutive mismatches and matches (R249) -/
  check : Bool := false
  mismatches : Nat := 0
  matches' : Nat := 0
  suspect : Bool := false
  gap : Bool := false
  missing : Bool := false
  unsealed : Bool := false
  clip : Bool := false
  temperature : Bool := false
  unaligned : Bool := false
  settling : Bool := false
  /-- demand registers 0 to 3 (R250) -/
  demand : Table DemandReg := []
  deriving DecidableEq, Repr

/-- Ring states in the order of their codes (R274). -/
inductive RingPhase
  | down | enumerating | intact | wrapped | segmented
  deriving DecidableEq, Repr

/-- One position of a ring (R256, R262, R264). -/
structure RingPos where
  /-- 0 absent, 1 bound, 2 unbound, 3 serial mismatch, 4 firmware mismatch, 5 faulted, 6 unreachable -/
  status : Nat := 0
  serial : Nat := 0
  firmware : Bytes := []
  port : Nat := 1
  hopDelayNs : Nat := 0
  /-- consecutive sweeps without a record; the window the latest record stands for; missing windows, oldest first -/
  missed : Nat := 0
  lastWindow : Option Nat := none
  lacking : List Nat := []
  epoch : Nat := 0
  /-- aligned windows in a row since the last unaligned one (R235) -/
  alignedRun : Nat := 16
  /-- uptime since which the satellite is unreachable, and whether the 60 s fault has been raised -/
  unreachableAt : Option Nat := none
  /-- its tick mark is missing and it runs on its own clock (R235) -/
  markMissing : Bool := false
  /-- power failing reported; last window before, for the gap marker (R245) -/
  powerFailing : Bool := false
  deriving DecidableEq, Repr

/-- One sensor ring (R256 to R264). -/
structure Ring where
  phase : RingPhase := .down
  /-- hops with a recognised loss of signal, first found first -/
  broken : List Nat := []
  recovered : Nat := 0
  lost : Nat := 0
  positions : List RingPos := List.replicate 16 {}
  /-- ring frames sent by GL-F this tick: port and bytes from header to CRC (output of the block) -/
  sent : List (Nat × Bytes) := []
  /-- seq of the last CONFIG or FW frame (32 bits; R258) -/
  seq : Nat := 0
  deriving DecidableEq, Repr

/-- Self-test states (R267); `pinned` and `retired` are also kept as flags of the group. -/
inductive SelftestPhase
  | idle | matching | test | rematch | spareCheck | pinned
  deriving DecidableEq, Repr

/-- One self-test group: local groups 0 to 3, then satellite groups 4 to 35 (R265 to R267). -/
structure SelftestGroup where
  phase : SelftestPhase := .idle
  /-- channel in rotation, an index within the group -/
  index : Nat := 0
  started : Bool := false
  /-- the spare is retired and the rotation stopped; held for a capture -/
  retired : Bool := false
  held : Bool := false
  /-- in SPARE_CHECK: the primary stays out after a failed rematch -/
  primaryOut : Bool := false
  /-- a failed match swapped the spare in without match terms: the primary is being tested as suspect -/
  suspect : Bool := false
  deriving DecidableEq, Repr

/-- A capture (R280): request fields and progress. -/
structure Capture where
  ref : Nat
  channels : List Nat
  reference : Nat
  stream : Nat
  ticks : Nat
  transferId : Nat
  running : Bool := false
  firstTick : Nat := 0
  done : Nat := 0
  /-- per channel over the windows captured: sum, sum of squares, samples, clipped, served by the spare -/
  acc : Table (Int × Nat × Nat × Bool × Bool) := []
  deriving DecidableEq, Repr

/-- An audit entry of R273. -/
structure AuditEntry where
  seq : Nat
  kind : Nat
  principal : Nat
  role : Nat
  tick : Nat
  calibId : Nat
  kernelSetId : Nat
  data : Bytes
  deriving DecidableEq, Repr

/-- Metrology state (chapter 08). -/
structure MetState where
  /-- active calibration record (R269 of 08_metrology.md; reset: none, no calibration, DESIGN CHOICE log 10) -/
  calib : CalRecord := {}
  /-- calibration areas of boot banks A and B (R269 of 08; reset: none, DESIGN CHOICE log 10) -/
  calibA : Option CalRecord := none
  calibB : Option CalRecord := none
  /-- the calibrations that activations have replaced, oldest first: activation tick, record in force before it (R239 of 08; reset:
  none) -/
  calibOld : List (Nat × CalRecord) := []
  /-- highest calib_id seen (32 bits; R269 of 08; reset: 0, DESIGN CHOICE log 10) -/
  calibHighest : Nat := 0
  /-- the 192 channels (R228 of 08; reset: no window yet) -/
  channels : List MetChannel := List.replicate 192 {}
  /-- the 32 channel sets (R240 of 08; reset: counters 0) -/
  sets : List MetSet := List.replicate 32 {}
  /-- GL-F counter epoch (16 bits; R244 of 08; reset: 0, incremented at FIELD power-up) -/
  fieldEpoch : Nat := 0
  /-- Gliris times at which uptime of FIELD power-up for coil settling: uptime ms of FIELD power-up, and settled
  (R231 of 08; reset: 0, not settled) -/
  fieldUpAt : Nat := 0
  coilSettled : Bool := false
  /-- demand configurations waiting for their boundary (R281 of 08; reset: none) -/
  demandPending : List DemandPending := []
  /-- the two sensor rings (R256, R262 of 08; reset: DOWN) -/
  rings : List Ring := [{}, {}]
  /-- self-test groups: 4 local, 32 satellite (R265, R267 of 08; reset: IDLE) -/
  groups : List SelftestGroup := List.replicate 36 {}
  /-- self-test failures since cold start (32 bits; MET_STATUS of 08; reset: 0) -/
  selftestFailures : Nat := 0
  /-- capture requested or running (R280 of 08; reset: none) -/
  capture : Option Capture := none
  /-- demand resets waiting for the next tick: set, mask, tick, principal, role (R282 of 08; reset: none) -/
  demandResets : List (Nat × Nat × Nat × Nat × Nat) := []
  /-- next audit_seq and audit entries committed, oldest first (R273 of 08; reset: 0, none) -/
  auditSeq : Nat := 0
  audit : List AuditEntry := []
  /-- ms1_openings and ms2_openings (32 bits each; R273 of 08; reset: 0) -/
  ms1Openings : Nat := 0
  ms2Openings : Nat := 0
  /-- gap markers: set, first and last Gliris time without measurement (R72 of 03, R245 of 08; reset: none) -/
  gaps : List (Nat × Nat × Nat) := []
  deriving DecidableEq, Repr

end Sys2Proof.Machine
end

