-- ==== Sys2Proof/Machine/State/Time.lean ====
section
/-!
DEFINITION. The timebase part of the state: sources, trust, steps, civil time, and the frontier record.
Chapter 04 of the spec (R80 to R110, R625). The open ticks themselves stand in State/Ledger.lean.
-/

namespace Sys2Proof.Machine

/-- Clock trust, in the order of its codes 0 to 2 (R86). -/
inductive Trust
  | traceable | holdover | untrusted
  deriving DecidableEq, Repr

/-- The selected source, in the order of the codes of TIME_STATUS: 0 none, 1 PTP, 2 PPS, 3 RTC seed, 4 host set. -/
inductive TimeSource
  | none | ptp | pps | rtc | host
  deriving DecidableEq, Repr

/-- One time source as R81, R82 and R625 judge it. Offsets are in ns, latest first, each with the corrections applied
until then added, so that later steps and slews leave them comparable; `run` holds those received since the last loss of
qualification, at most twice the window of 16 (PTP) or 4 (PPS). -/
structure SourceState where
  run : List Int := []
  qualified : Bool := false
  /-- filtered offset in the same frame -/
  offset : Int := 0
  deriving DecidableEq, Repr

/-- The fields of TIME_CONFIG (R107). -/
structure TimeConfig where
  srcPriority : Nat
  ptpDomain : Nat
  ptpPorts : Nat
  localPriority : List Nat
  ppsDelayNs : Nat
  stepLimitMs : Nat
  deriving DecidableEq, Repr

/-- The civil-time table of TIME_CIVIL (R94, R109), fields as its request names them. -/
structure CivilTable where
  utcOffsetS : Nat := 37
  leapKind : Nat := 0
  leapEnd : Nat := 0
  stdOffsetMin : Int := 0
  dstDeltaMin : Nat := 0
  startMonth : Nat := 0
  startWeek : Nat := 0
  startWeekday : Nat := 0
  startMinute : Nat := 0
  endMonth : Nat := 0
  endWeek : Nat := 0
  endWeekday : Nat := 0
  endMinute : Nat := 0
  deriving DecidableEq, Repr

/-- One copy of the 64 B frontier record of R102. `valid` says that its CRC is good. -/
structure FrontierRecord where
  valid : Bool := false
  frontier : Nat := 0
  commitSeq : Nat := 0
  journalHead : Nat := 0
  journalLaps : Nat := 0
  trust : Trust := .untrusted
  abortList : List Nat := []
  deriving DecidableEq, Repr

/-- Timebase state (chapter 04). -/
structure TimeState where
  /-- ms since VIGIL power-up, counted by ticks and untouched by time steps; the windows of seconds and minutes of
  the spec are measured by it (MODEL'S OWN field; reset: 0, DESIGN CHOICE log 5) -/
  uptime : Nat := 0
  /-- Gliris time of the current tick (64 bits; R6, R92 of 04; reset: 0, DESIGN CHOICE log 4) -/
  gliris : Nat := 0
  /-- clock trust state (2 bits; R86 of 04; reset: UNTRUSTED, R84: no seed exists) -/
  trust : Trust := .untrusted
  /-- trust state in force at the current tick's start (2 bits; R87 of 04; reset: UNTRUSTED) -/
  tickTrust : Trust := .untrusted
  /-- what the time rests on while neither PTP nor PPS is selected: none, RTC seed or host set (R84, R106, R108 of 04;
  reset: none) -/
  base : TimeSource := .none
  /-- total correction applied to the timebase by steps and slews, ns (MODEL'S OWN field; reset: 0, DESIGN CHOICE log 5) -/
  corr : Int := 0
  /-- TIME_CONFIG accepted, in effect at the next tick (R107 of 04; reset: none) -/
  configNext : Option TimeConfig := none
  /-- filtered offset of the selected source when it was last locked, magnitude in ns (R86 of 04; reset: 0) -/
  lastErrNs : Nat := 0
  /-- src_priority (8 bits; R107 of 04; reset: 0, DESIGN CHOICE log 4) -/
  srcPriority : Nat := 0
  /-- ptp_domain (8 bits; R107 of 04; reset: 24, DESIGN CHOICE log 4) -/
  ptpDomain : Nat := 24
  /-- ptp_ports (4 bits; R107 of 04; reset: 0, DESIGN CHOICE log 4) -/
  ptpPorts : Nat := 0
  /-- local_priority of port groups 0 to 3 (8 bits each; R107 of 04; reset: 128 each, DESIGN CHOICE log 4) -/
  localPriority : List Nat := [128, 128, 128, 128]
  /-- pps_delay_ns (32 bits; R107 of 04; reset: 0, DESIGN CHOICE log 4) -/
  ppsDelayNs : Nat := 0
  /-- step_limit_ms (16 bits; R107 of 04; reset: 1,000, stated) -/
  stepLimitMs : Nat := 1000
  /-- PTP source (R81, R625 of 04; reset: not qualified) -/
  ptp : SourceState := {}
  /-- clockClass of the announced grandmaster (8 bits; R106 of 04; reset: 255, none) -/
  gmClass : Nat := 255
  /-- port group carrying the grandmaster (8 bits; R106 of 04; reset: 0xFF, none) -/
  gmPort : Nat := 255
  /-- currentUtcOffset and whether it is valid (16 bits + 1; R93 of 04; reset: 0, not valid) -/
  gmUtcOffset : Nat := 0
  gmUtcValid : Bool := false
  /-- announced leap flags (2 bits; R93 of 04; reset: 0) -/
  gmLeap59 : Bool := false
  gmLeap61 : Bool := false
  /-- Gliris time of the UTC midnight that ends the announced leap, reckoned with the offset after it (R93 of 04; reset: 0, no leap) -/
  gmLeapEnd : Nat := 0
  /-- latest Announce of each port group that has not timed out (R80 of 04; reset: none) -/
  announces : Table Announce := []
  /-- PPS source (R82, R625 of 04; reset: not qualified) -/
  pps : SourceState := {}
  /-- both sources qualified and more than 1 µs apart (R83 of 04; reset: false) -/
  disagree : Bool := false
  /-- oscillator adjustment in ppb (32 bits signed; R85, R106 of 04; reset: 0) -/
  freqAdjPpb : Int := 0
  /-- pending step in ticks (R85 of 04; reset: none) -/
  pendingStep : Option Int := none
  /-- pending step last reported (R85 of 04; reset: 0) -/
  pendingReported : Int := 0
  /-- step rejected by TIME_STEP, in ns with the corrections until then added (R87 of 04; reset: none) -/
  rejectedStep : Option Int := none
  /-- step to be applied at the next tick boundary (R85, R88, R89 of 04; reset: none) -/
  stepDue : Option Int := none
  /-- time set by TIME_STEP action 2: ticks still to run and the label to give (R108 of 04; reset: none) -/
  hostSet : Option (Nat × Nat) := none
  /-- uptime of the last loss of lock or, after a cold start, of that start, and the holdover milliseconds before it
  (R86 of 04; reset: none, 0) -/
  lostAt : Option Nat := none
  holdoverCarryMs : Nat := 0
  /-- modelled error in ns at that uptime, none while no model exists (R86, R106 of 04; reset: none) -/
  modelBaseNs : Option Nat := none
  /-- the PTP and the civil-table UTC offsets differ (R93 of 04; reset: false) -/
  utcDisagree : Bool := false
  /-- the PTP hold of a lane-0 retrain runs (R583 of 17; reset: false) -/
  ptpHold : Bool := false
  /-- H, the highest Gliris time opened as a ledger tick (64 bits; R89, R90 of 04; reset: 0) -/
  highest : Nat := 0
  /-- Gliris time that the latest start was seeded with: the last label that passed in Keep or unpowered (R17 of 01, R84 of 04; reset: 0) -/
  startLabel : Nat := 0
  /-- field-only ticks of a backward-step hold still to run (32 bits; R89, R110 of 04; reset: 0) -/
  holdRemaining : Nat := 0
  /-- active civil-time table (R94, R109 of 04; reset: UTC with TAI−UTC 37 s, DESIGN CHOICE log 4) -/
  civil : CivilTable := {}
  /-- RTC capture of Gliris time at Keep entry, trust, holdover ms and modelled error then (R84, R87 of 04; reset: none) -/
  rtcCapture : Option Nat := none
  rtcTrust : Trust := .untrusted
  rtcHoldoverMs : Nat := 0
  rtcModelNs : Option Nat := none
  deriving DecidableEq, Repr

end Sys2Proof.Machine
end

