-- ==== Sys2Proof/Machine/State/Ledger.lean ====
section
/-!
DEFINITION. The ledger part of the state: account and register pairs, open ticks, tokens, tariff tables, journal.
Chapters 04 (R96 to R105) and 09 (R284 to R324, R623, R624) of the spec.
-/

namespace Sys2Proof.Machine

/-- Account states of R284, codes 0 to 2. -/
inductive AccountPhase
  | unused | active | closed
  deriving DecidableEq, Repr

/-- Supply orders, codes 0 to 2 (R285, R299). -/
inductive Supply
  | on | offCredit | offHost
  deriving DecidableEq, Repr

/-- One half of an account record without stamp and CRC (R285); money in milli-cu, energy in Wh. -/
structure AccountRec where
  number : Nat := 0
  phase : AccountPhase := .unused
  prepay : Bool := false
  planPending : Bool := false
  plan : Nat := 0
  supply : Supply := .on
  emergency : Bool := false
  deferral : Bool := false
  lowWarned : Bool := false
  hostHold : Bool := false
  overdue : Bool := false
  rejected : Bool := false
  outage : Bool := false
  keypadLocked : Bool := false
  defaultRated : Bool := false
  balance : Int := 0
  tokenHigh : Nat := 0
  tokenMap : Nat := 0
  provisional : Int := 0
  tokenFails : Nat := 0
  pendingPlan : Nat := 0
  readingWh : Nat := 0
  exportWh : Nat := 0
  readingTick : Nat := 0
  provThrough : Nat := 0
  rateW : Int := 0
  meter : Nat := 0
  allowanceWh : Nat := 0
  allowanceSeq : Nat := 0
  cfrac : Nat := 0
  /-- confirmed energy by rate index 0 to 8: import and export -/
  totals : List (Nat × Nat) := List.replicate 9 (0, 0)
  lastChange : Nat := 0
  pfrac : Nat := 0
  deriving DecidableEq, Repr

/-- One half of an account pair: stamp, whether its CRC is good, and the record (R285, R286). -/
structure AccountHalf where
  stamp : Nat := 0
  good : Bool := true
  record : AccountRec := {}
  deriving DecidableEq, Repr

/-- An account record pair (R208, R285). -/
structure AccountPair where
  a : AccountHalf := {}
  b : AccountHalf := {}
  damaged : Bool := false
  deriving DecidableEq, Repr

/-- One half of a local register set without stamp and CRC (R309). -/
structure LocalRec where
  set : Nat := 0
  unsealed : Bool := false
  gapOpen : Bool := false
  check : Bool := false
  suspect : Bool := false
  missing : Bool := false
  newEpoch : Bool := false
  epoch : Nat := 0
  plan : Nat := 0
  rateIndex : Nat := 0
  consumed : List Nat := [0, 0, 0, 0, 0]
  /-- activation window of the change of location that the consumed values stand for (R246 of 08; MODEL'S OWN) -/
  rebasedAt : Nat := 0
  totals : List Nat := [0, 0, 0, 0, 0]
  tariff : List (Nat × Nat) := List.replicate 9 (0, 0)
  /-- demand registers 0 to 3 as committed (R253) -/
  demand : List (Option DemandReg) := [none, none, none, none]
  gapFrom : Nat := 0
  gapTo : Nat := 0
  gapCount : Nat := 0
  unsealedImport : Nat := 0
  unsealedExport : Nat := 0
  unsealedLast : Nat := 0
  sessionId : Nat := 0
  sessionAccount : Nat := 0
  sessionPlan : Nat := 0
  sessionOpen : Bool := false
  finalDue : Bool := false
  postingHeld : Bool := false
  roundCost : Int := 0
  sessionFrac : Nat := 0
  sessionImport : Nat := 0
  sessionExport : Nat := 0
  sessionDebited : Int := 0
  sessionStart : Nat := 0
  deriving DecidableEq, Repr

/-- One half of a local register set pair (R209, R309). -/
structure LocalHalf where
  stamp : Nat := 0
  good : Bool := true
  record : LocalRec := {}
  deriving DecidableEq, Repr

/-- A local register set pair. -/
structure LocalPair where
  a : LocalHalf := {}
  b : LocalHalf := {}
  deriving DecidableEq, Repr

/-- What a tick's commit lets out: nothing of it is seen before the commit (R22, R312, R315). -/
inductive Consequence
  | journal (kind : Nat) (data : Bytes)
  /-- an entry that carries a tick of its own: written during a power-down (R311, R312) -/
  | journalAt (tick kind : Nat) (data : Bytes)
  | event (kind source : Nat) (coalesces : Bool) (payload : Bytes)
  | completion (ref status detail : Nat) (payload : Bytes)
  | tokenCount (accepted : Bool)
  | keypadAnswer (account : Nat) (value : Nat) (result : Nat) (balance : Int)
  | audit (kind principal role : Nat) (data : Bytes)
  | removeToken (id : Nat)
  | removeOrder (ref : Nat)
  | removeSessionOp (id : Nat)
  /-- a CREDIT message is due to the account's meter (R415 of 12) -/
  | credit (account : Nat)
  /-- the visit has used what its working page held: the reading, the first reports, the last-gasp tick left, the
  emergency request (R287) -/
  | pageDone (account : Nat) (reading : Option Nat) (reports : Nat) (gasp : Option Nat) (emergency : Option Nat)
  /-- interval-history entries to be written: interval number and what is added (R287, R294) -/
  | history (account interval importWh exportWh : Nat) (fromMeter : Bool)
  /-- a damaged account has been restored (R313) -/
  | restored (account : Nat)
  /-- a set has taken its energies of the energy record, its gap of a power-down and its base of a takeover, or a satellite's
  gap (R72, R245, R557) -/
  | foldTaken (set : Nat) (rest : List Nat)
  | setGapTaken (set : Nat)
  deriving DecidableEq, Repr

/-- States of an open ledger tick (R99). -/
inductive TickPhase
  | opened | closed | committing
  deriving DecidableEq, Repr

/-- An open ledger tick and the writes and consequences it holds (R98 to R101). -/
structure OpenTick where
  label : Nat
  phase : TickPhase := .opened
  trust : Trust
  /-- it takes the round-start actions of R24 (R97) -/
  firstOfRound : Bool := false
  /-- uptime at its start, and in Vigil-entry allowance -/
  startedAt : Nat := 0
  /-- accounts touched in this tick with their new records; register sets written (R101) -/
  accounts : Table AccountRec := []
  locals : Table LocalRec := []
  /-- consequences with the unit that staged each: `unitAccount`, `unitLocal`, or 0 for none -/
  out : List (Nat × Consequence) := []
  /-- accounts whose supply decision is still to be taken, and whose steps of R23 ran -/
  promoted : Bool := false
  /-- MS1 or MS2 has been open during it (R272 of 08) -/
  unsealed : Bool := false
  overrun : Bool := false
  /-- CLOSE shipped to the standby and not yet acknowledged: uptime (R554) -/
  awaitingAck : Bool := false
  deriving DecidableEq, Repr

/-- A queued meter reading (R287, R294): reading tick, registers, interval energies (interval number, import, export). -/
structure Reading where
  tick : Nat
  importWh : Nat
  exportWh : Nat
  intervals : List (Nat × Nat × Nat) := []
  deriving DecidableEq, Repr

/-- An interval-history entry (R287). -/
structure HistoryEntry where
  importWh : Nat := 0
  exportWh : Nat := 0
  fromMeter : Bool := false
  spread : Bool := false
  lost : Bool := false
  deriving DecidableEq, Repr

/-- The working page of one account (R287). -/
structure WorkPage where
  reading : Option Reading := none
  /-- last-gasp tick while an outage is reported, and reports queued since the last visit, oldest first: a last gasp
  with its tick, or a power-restored report -/
  lastGasp : Option Nat := none
  reports : List (Option Nat) := []
  /-- an emergency credit request is queued: its place in the order of arrival among the tokens (R23) -/
  emergency : Option Nat := none
  history : Table HistoryEntry := []
  deriving DecidableEq, Repr

/-- A token, or a keypad MAC failure, waiting for step 1 of R23 (R305, R306). -/
structure WaitingToken where
  id : Nat
  account : Nat
  value : Nat
  keypad : Bool
  macFail : Bool := false
  ref : Nat := 0
  checkedAt : Nat
  deriving DecidableEq, Repr

/-- A host order on an account waiting for step 4 of R23 (R308, R315). -/
structure WaitingOrder where
  ref : Nat
  opcode : Nat
  account : Nat
  acceptedAt : Nat
  body : Bytes
  deriving DecidableEq, Repr

/-- A charge session opened or closed on a charge-point set, waiting for LEDGER_LOCAL (R307, R445 of 13). -/
structure SessionOp where
  id : Nat
  set : Nat
  opens : Bool
  session : Nat := 0
  account : Nat := 0
  plan : Nat := 0
  start : Nat := 0
  queuedAt : Nat
  deriving DecidableEq, Repr

/-- A day profile's switch point (R290). -/
structure SwitchPoint where
  minute : Nat
  rate : Nat
  friendly : Bool
  deriving DecidableEq, Repr

/-- A tariff plan (R290). -/
structure Plan where
  id : Nat := 0
  emergencyPermitted : Bool := false
  exportCredited : Bool := false
  ratesUsed : Nat := 1
  seasonWeek : List Nat := List.replicate 8 0
  /-- prices of rate index 0 to 8 -/
  importPrice : List Nat := List.replicate 9 0
  exportPrice : List Nat := List.replicate 9 0
  emergencyLimit : Nat := 0
  friendlyCap : Nat := 0
  reconnectMin : Nat := 0
  lowWarn : Nat := 0
  allowanceCap : Nat := 1000000
  deriving DecidableEq, Repr

/-- A tariff table (R290). The default value is the factory table of R623. -/
structure Tariff where
  gen : Nat := 0
  activated : Nat := 0
  billingMin : Nat := 15
  localPlan : List Nat := List.replicate 32 0
  /-- used switch points of each day profile -/
  days : List (List SwitchPoint) := [[{ minute := 0, rate := 1, friendly := false }]]
  /-- day profiles Monday to Sunday, then special -/
  weeks : List (List Nat) := [List.replicate 8 0]
  seasons : List (Nat × Nat) := [(1, 1)]
  specials : List (Nat × Nat × Nat) := []
  plans : List Plan := [{}]
  hash : Bytes := []
  deriving DecidableEq, Repr

/-- A run of Gliris times with one trust state, tariff generation and civil table (R293): first and last label. -/
structure TimeRun where
  first : Nat
  last : Nat
  trust : Trust
  gen : Nat
  civil : CivilTable
  deriving DecidableEq, Repr

/-- A journal entry (R311): its offset counts bytes from the first lap. -/
structure JournalEntry where
  seq : Nat
  kind : Nat
  len : Nat
  tick : Nat
  offset : Nat
  data : Bytes
  /-- a beat of it could not be corrected: it reads as lost (R211 of 07) -/
  lost : Bool := false
  deriving DecidableEq, Repr

/-- Tick and ledger state (chapters 04 and 09). -/
structure LedgerState where
  /-- frontier record copies A and B; the copy in use has the higher commit_seq (64 B each; R102 of 04; reset: never written) -/
  recordA : FrontierRecord := {}
  recordB : FrontierRecord := {}
  /-- the frontier record in force: frontier, commit_seq, head, laps, trust, abort list (R101, R102 of 04; reset: 0) -/
  record : FrontierRecord := {}
  /-- ticks aborted and not yet in the abort list (R103 of 04; reset: none) -/
  abortsPending : List Nat := []
  /-- open ledger ticks, oldest first (at most 2; R98 of 04; reset: none) -/
  ticks : List OpenTick := []
  /-- the current tick opened for the data path as field-only (R96 of 04; reset: false) -/
  fieldOnly : Bool := false
  /-- the ledger is frozen since tick m (R100 of 04; reset: none) -/
  frozenAt : Option Nat := none
  /-- round number of the ledger tick that last took the round-start actions (R97 of 04; reset: none) -/
  lastRound : Option Nat := none
  /-- overruns, aborted, runahead_discards, field_only (32 bits each; TIME_TICKS of 04; reset: 0) -/
  overruns : Nat := 0
  aborted : Nat := 0
  runaheadDiscards : Nat := 0
  fieldOnlyCount : Nat := 0
  /-- closure times in µs of this round: latest, sum, count; those of the previous round: latest, mean (TIME_TICKS of 04; reset: 0) -/
  closeMax : Nat := 0
  closeSum : Nat := 0
  closeCount : Nat := 0
  closeMaxPrev : Nat := 0
  closeMeanPrev : Nat := 0
  /-- account record pairs by number, pairs ever written (1,048,576 × 512 B; R208, R285 of 07 and 09; reset: none written) -/
  accounts : Table AccountPair := []
  /-- local register set pairs (32 × 2 KiB; R209, R309 of 07 and 09; reset: none written) -/
  locals : Table LocalPair := []
  /-- working pages that differ from an empty one (4 KiB each; R202, R287 of 07 and 09; reset: empty) -/
  pages : Table WorkPage := []
  /-- tokens and keypad MAC failures waiting for application, in the order checked (at most 4,096; R305 of 09; reset: none) -/
  tokens : List WaitingToken := []
  nextToken : Nat := 0
  /-- host orders on accounts waiting, in order of acceptance (R308, R315 of 09; reset: none) -/
  orders : List WaitingOrder := []
  /-- charge sessions opened or closed and not yet written, in order (R307 of 09, R445 of 13; reset: none) -/
  sessionOps : List SessionOp := []
  nextSessionOp : Nat := 0
  /-- active tariff table (R290 of 09; reset: the factory table of R623) -/
  tariff : Tariff := {}
  /-- retained activated generations, latest first (8; R322 of 09; reset: the factory table) -/
  retained : List Tariff := [{}]
  /-- billing interval in force, and one waiting for UTC midnight: minutes, Gliris time (R293 of 09; reset: 15, none) -/
  billingMin : Nat := 15
  billingNext : Option (Nat × Nat) := none
  /-- runs of Gliris times of the last seven days, oldest first (R293 of 09; reset: none) -/
  runs : List TimeRun := []
  /-- tokens_accepted and tokens_rejected since cold start (64 bits each; LED_STATUS of 09; reset: 0) -/
  tokensAccepted : Nat := 0
  tokensRejected : Nat := 0
  /-- journal entries in the ring, oldest first (256 MiB; R311 of 09; reset: empty) -/
  journal : List JournalEntry := []
  /-- next jseq (32 bits; R311 of 09; reset: 0, DESIGN CHOICE log 14) -/
  jseq : Nat := 0
  /-- event, audit and other entries waiting for the next ledger tick (R312 of 09; reset: none) -/
  journalWaiting : List Consequence := []
  /-- valid entries that a power-down has written beyond the committed head (R312 of 09; reset: none) -/
  journalBeyond : List Consequence := []
  /-- torn entries lost at the last power-down (R75, R312; reset: 0) -/
  journalTorn : Nat := 0
  deriving DecidableEq, Repr

end Sys2Proof.Machine
end

