-- ==== Sys2Proof/Machine/State/Meters.lean ====
section
/-!
DEFINITION. Radio networks, meter sessions and firmware campaigns. Chapter 12 of the spec (R397 to R434).
-/

namespace Sys2Proof.Machine

/-- A radio network's configuration (R426); kind 0 an admitted bridge's stream, 1 and 2 transceivers RF0 and RF1. -/
structure RfConfig where
  kind : Nat := 0
  band : Nat := 0
  block : Nat := 0
  mode : Nat := 0
  map : Nat := 1
  atten : Nat := 0
  interval : Nat := 1024
  beacon : Nat := 1024
  supervision : Nat := 6144
  advSlots : Nat := 1
  dutyPermille : Nat := 1000
  deriving DecidableEq, Repr

/-- Connection states, codes 0 to 2 of RF_CONN (R409). -/
inductive ConnPhase
  | unconnected | connecting | connected
  deriving DecidableEq, Repr

/-- A frame sent and not yet acknowledged: its bytes and counter (R407). -/
structure SentFrame where
  frame : Bytes
  counter : Nat
  deriving DecidableEq, Repr

/-- The connection of one node (R404 to R409). `slot` is its place within the interval. -/
structure RfConn where
  phase : ConnPhase := .unconnected
  account : Nat
  /-- Gliris time of event 0, by the interval in force -/
  anchor : Int := 0
  interval : Nat := 1024
  supervision : Nat := 6144
  map : Nat := 1
  mode : Nat := 0
  /-- latest event planned -/
  event : Nat := 0
  unacked : Option SentFrame := none
  /-- low 16 bits of the last counter accepted, to be acknowledged -/
  ackDue : Bool := false
  missedRun : Nat := 0
  missed : Nat := 0
  retransmissions : Nat := 0
  snr : Option Nat := none
  lastValid : Nat := 0
  lastValidUp : Nat := 0
  /-- TERMINATE to be sent in the next event, with its reason -/
  terminate : Option Nat := none
  /-- an UPDATE sent: the event at which it takes effect, interval and supervision (R426) -/
  update : Option (Nat × Nat × Nat) := none
  /-- serial, key generation and send counter of a meter that has been unbound, for its TERMINATE (R409) -/
  unbound : Option (Nat × Nat × Nat) := none
  deriving DecidableEq, Repr

/-- One radio network (R398 to R409, R427). -/
structure RfNet where
  config : RfConfig
  mismatch : Bool := false
  /-- tick at which the reported index matched again (R400) -/
  matchedAt : Option Nat := none
  conns : Table RfConn := []
  slotsExhausted : Bool := false
  refusedThisRound : Bool := false
  adverts : Nat := 0
  advertsPrev : Nat := 0
  refused : Nat := 0
  micFailures : Nat := 0
  replays : Nat := 0
  lastBeacon : Nat := 0
  beaconChannel : Nat := 0
  beaconCounter : Nat := 0
  /-- transmissions of the last 3,600 s: start tick and µs on air (R426) -/
  onAir : List (Nat × Nat) := []
  deriving DecidableEq, Repr

/-- A down message of Sepal (R412, R413): type, body, whether it asks for an acknowledgement, its ref once sent, sends made,
level of work and when it was queued, and the MTR_REQUEST it belongs to. -/
structure OutMsg where
  type : Nat
  body : Bytes
  level : Nat
  since : Nat
  ref : Nat := 0
  sends : Nat := 0
  request : Option Nat := none
  deriving DecidableEq, Repr

/-- An MTR_REQUEST that waits for its answer (R431). -/
structure MeterRequest where
  ref : Nat
  action : Nat
  at' : Nat
  deriving DecidableEq, Repr

/-- What the module keeps of one bound meter, by account (R408 to R431). -/
structure Meter where
  serial : Nat
  /-- send and receive counters and the link key generation, and their values in the topology snapshot (R379, R422) -/
  down : Nat := 0
  up : Nat := 0
  keyGen : Nat := 0
  downSnap : Nat := 0
  upSnap : Nat := 0
  keyGenSnap : Nat := 0
  /-- a key change announced: new generation and switch counter (R420) -/
  keyChange : Option (Nat × Nat) := none
  model : Nat := 0
  fw : Nat := 0
  phases : Nat := 0
  capabilities : Nat := 0
  creditAcked : Option Nat := none
  relay : Nat := 0
  lastEventKind : Nat := 0
  lastEventSeq : Option Nat := none
  lastContact : Nat := 0
  lastReading : Nat := 0
  /-- last ref processed of the meter's messages, and the ref to acknowledge in the next down message (R413) -/
  upRef : Nat := 0
  ackRef : Nat := 0
  nextRef : Nat := 1
  /-- down messages waiting and in flight, oldest first -/
  queue : List OutMsg := []
  lastRead : Nat := 0
  request : Option MeterRequest := none
  /-- groups whose current key the meter has acknowledged: bridge, group, generation (R421) -/
  groupKeys : List (Nat × Nat × Nat) := []
  deriving DecidableEq, Repr

/-- A received Sepal message that waits for SEPAL: bridge, node, account and payload (R412). -/
structure InMsg where
  bridge : Nat
  account : Nat
  radio : Bool
  payload : Bytes
  deriving DecidableEq, Repr

/-- Phases of a firmware campaign, codes 0 to 5 of FW_CAMPAIGN (R425). -/
inductive CampaignPhase
  | announce | pass | repair | activated | paused | aborted
  deriving DecidableEq, Repr

/-- What a campaign knows of one target (R423): announced, state of FW_STATUS, first missing segment and bitmap. -/
structure FwTarget where
  bridge : Nat
  radio : Bool
  announced : Bool := false
  state : Option Nat := none
  firstMissing : Nat := 0
  bitmap : Bytes := []
  activateSent : Bool := false
  activated : Bool := false
  deriving DecidableEq, Repr

/-- A firmware campaign (R423, R424, R433). -/
structure Campaign where
  ref : Option Nat
  slot : Nat
  first : Nat
  count : Nat
  activateTime : Nat
  repairRounds : Nat
  repairMcMin : Nat
  group : Nat
  phase : CampaignPhase := .announce
  resumeTo : CampaignPhase := .announce
  ended : Bool := false
  repairRound : Nat := 0
  targets : Table FwTarget := []
  /-- next segment of the pass by network; frames still to be multicast by network: segment, radio, relays -/
  cursor : Table Nat := []
  copies : Table (List (Nat × Bool × List Nat)) := []
  /-- FW_QUERYs of the repair round have been sent; its repairs have been queued -/
  asked : Bool := false
  repaired : Bool := false
  /-- targets that answered state 0 or 3, or were left behind -/
  failed : Nat := 0
  deriving DecidableEq, Repr

/-- A staged meter image (R432). -/
structure MeterImage where
  len : Nat
  model : Nat
  sha : Bytes
  data : Bytes
  verified : Bool := false
  deriving DecidableEq, Repr

/-- Radio networks and meter sessions (chapter 12). -/
structure MeterState where
  /-- radio networks by bridge ID (R401, R426 of 12; reset: none) -/
  rf : Table RfNet := []
  /-- meters bound to accounts, by account (1,048,576 bindings; R410, R429 of 12; reset: none) -/
  meters : Table Meter := []
  /-- of accounts unbound: the last serial with its key generation and receive counter, and the send counter, which runs on per account (R408 of 12; reset: none) -/
  kept : Table (Nat × Nat × Nat × Nat) := []
  /-- bindings accepted for the next tick: bind or unbind, serial, account (R429 of 12; reset: none) -/
  changes : List (Bool × Nat × Nat) := []
  /-- Sepal messages received and not yet processed, oldest first (R412 of 12; reset: none) -/
  inbox : List InMsg := []
  /-- messages of reserved types or wrong length discarded (R413 of 12; reset: 0) -/
  discarded : Nat := 0
  /-- group key generations by network and group (bridge × 64 + group), and the snapshot's; send counters of MULTICAST and BEACON (R408, R421 of 12; R518 of 15; reset: none) -/
  groupGen : Table Nat := []
  groupCounter : Table Nat := []
  groupSnap : Table Nat := []
  /-- staged meter images by slot (16 × 8 MiB; R202 of 07, R432 of 12; reset: none) -/
  images : Table MeterImage := []
  /-- campaigns by number, running and ended (R423, R434 of 12; reset: none) -/
  campaigns : Table Campaign := []
  /-- campaigns ended, latest first, at most 16 kept (R434 of 12; reset: none) -/
  ended : List Nat := []
  deriving DecidableEq, Repr

end Sys2Proof.Machine
end

