-- ==== Sys2Proof/Machine/State/Stem.lean ====
section
/-!
DEFINITION. Sample bridges and power-line networks: the Stem registry, sessions, sample buffers, plans, the power-line MAC.
Chapter 11 of the spec (R360 to R396).
-/

namespace Sys2Proof.Machine

/-- Bridge states, codes 0 to 5 of R389 (R371). -/
inductive BridgePhase
  | absent | waiting | online | silent | lost | fenced
  deriving DecidableEq, Repr

/-- What STEM_BRIDGE_SET gives a bridge (R391). -/
structure BridgeConfig where
  kind : Nat := 0
  serial : Nat := 0
  profile : Nat := 0
  lvSet : Nat := 0xFF
  streams : Nat := 7
  holeWait : Nat := 8
  silenceTicks : Nat := 64
  deriving DecidableEq, Repr

/-- The latest STATUS of a bridge (R363). -/
structure BridgeStatus where
  timeState : Nat := 2
  supply : Nat := 1
  temperature : Int := 0
  timeErrorNs : Int := 0
  dlDelayMaxUs : Nat := 0
  plansExecuted : Nat := 0
  plansRefused : Nat := 0
  txAborted : Nat := 0
  bufferOldest : Nat := 0
  deriving DecidableEq, Repr

/-- A session under one epoch: the nonces that set it up, uplink seqs accepted, the next downlink seq (R361, R364, R369). -/
structure StemEpoch where
  epoch : Nat
  bridgeNonce : Bytes := []
  moduleNonce : Bytes := []
  highest : Nat := 0
  seen : List Nat := []
  downSeq : Nat := 1
  accepted : Nat := 0
  deriving DecidableEq, Repr

/-- An open hole of one sample tick of a stream (R367): when it was found, the length of its run then, the repair requests
made, and whether the kernels have skipped it. -/
structure Hole where
  tick : Nat
  foundAt : Nat
  run : Nat
  asked : Nat := 0
  lastAsked : Nat := 0
  skipped : Bool := false
  /-- uptime at which it was found, against which the ingestion cut holds it (R18) -/
  foundUp : Nat := 0
  deriving DecidableEq, Repr

/-- One sample stream of a bridge: the latest sample tick accepted, and its open holes, oldest first. -/
structure SampleStream where
  latest : Option Nat := none
  holes : List Hole := []
  deriving DecidableEq, Repr

/-- A sample buffer (R366). -/
structure SampleBuf where
  sampleTick : Nat
  present : Nat := 0
  info : List Nat := [0, 0, 0]
  epoch : Nat := 0
  arrival : List Nat := [0, 0, 0]
  plc : Bytes := []
  rf : Bytes := []
  lv : Bytes := []
  deriving DecidableEq, Repr

/-- A plan entry sent (R363, R374): first transmit tick, offset in 4 µs steps, ticks, medium, attenuation, plan ID, and the
MAC frame whose samples the TX frames carry with the channel it is sent on. -/
structure PlanEntry where
  first : Nat
  offset : Nat
  ticks : Nat
  medium : Nat
  atten : Nat
  planId : Nat
  frame : Bytes
  channel : Nat := 0
  deriving DecidableEq, Repr

/-- One bridge of the Stem registry with its session (R362 to R376, R391, R393). -/
structure Bridge where
  phase : BridgePhase := .absent
  config : BridgeConfig := {}
  /-- port of its latest accepted JOIN, its source address, and the module's address the JOIN was sent to (R578) -/
  path : Option (Nat × Bytes × Bytes) := none
  /-- admission count and number of the last session issued (R369; R518 of 15) -/
  admission : Nat := 0
  session : Nat := 0
  current : Option StemEpoch := none
  /-- a rekey announced, with its switch stamp; the epoch before the last switch, with its switch stamp (R370) -/
  next : Option (StemEpoch × Nat) := none
  previous : Option (StemEpoch × Nat) := none
  /-- a takeover EPOCH has been sent (R371) -/
  takeover : Bool := false
  rekeyDue : Bool := false
  clockFault : Bool := false
  /-- uptimes of the frames outside the window of the last 64 ticks (R365) -/
  outside : List Nat := []
  lastValid : Nat := 0
  lastSample : Nat := 0
  timeLocked : Bool := false
  status : BridgeStatus := {}
  /-- fs_primary and delay of LV channels 0 to 6 (R363, R368) -/
  lvCal : List (Nat × Int) := []
  /-- bridge nonces of JOINs seen, with uptimes; uptimes of the JOINs refused (R370, R371) -/
  nonces : List (Bytes × Nat) := []
  refused : List Nat := []
  staleAt : Option Nat := none
  lastDown : Nat := 0
  /-- frames dropped since cold start, by reason code (R364) -/
  drops : Table Nat := []
  holes : Nat := 0
  samplesLost : Nat := 0
  plc : SampleStream := {}
  rf : SampleStream := {}
  lv : SampleStream := {}
  /-- sample buffers by sample tick modulo 256 (R366) -/
  buffers : Table SampleBuf := []
  /-- LV sample ticks accepted and not yet processed by LV_METER, in order of arrival, each with the uptime of its arrival (R18, R368) -/
  lvFresh : List (Nat × Nat) := []
  /-- s − c of the frames that arrived in this tick and in the previous one (R365) -/
  offsets : List Int := []
  plans : List PlanEntry := []
  nextPlan : Nat := 0
  /-- positive-going zero crossings of L1 to L3 in µs of Gliris time, over the last 256 sample ticks, newest first (R368) -/
  crossings : List (List Nat) := [[], [], []]
  /-- a local equivalent's frequency readings in mHz (R232 of 08) -/
  mains : List Nat := []
  deriving DecidableEq, Repr

/-- The transmit plan table's entry of a bridge (R375): media and minimum attenuation of L1 to L3. -/
structure TxPermit where
  media : Nat := 15
  minAtten : List Nat := [0, 0, 0]
  deriving DecidableEq, Repr

/-- A power-line profile (R394). -/
structure PlcProfile where
  maxHops : Nat := 6
  retries : Nat := 2
  modMax : Nat := 3
  readPeriodS : Nat := 900
  contactPeriodS : Nat := 60
  discoverPeriodS : Nat := 900
  alertSlots : Nat := 4
  toneMask : Nat := 2 ^ 36 - 1
  deriving DecidableEq, Repr

/-- A directed link (R385): success ratio as an exact fraction, the latest SNRs in 0.25 dB, newest first. -/
structure PlcLink where
  num : Nat := 1
  den : Nat := 2
  snrs : List Nat := []
  deriving DecidableEq, Repr

/-- A relay of a route: node, modulation onward, modulation back (R378). -/
structure Relay where
  node : Nat
  on : Nat
  back : Nat
  deriving DecidableEq, Repr

/-- Route state of a node, codes 0 to 2 of PLC_NODE_READ. -/
inductive RoutePhase
  | unrouted | routed | unreachable
  deriving DecidableEq, Repr

/-- One node of a power-line network (R386, R387, R396). -/
structure PlcNode where
  phase : RoutePhase := .unrouted
  relays : List Relay := []
  cost : Nat := 0
  /-- identified phase code, and the phases named by the last 10 observations, newest first (R387) -/
  ident : Option Nat := none
  observed : List (Option Nat) := []
  snr : Option Nat := none
  lastContact : Nat := 0
  lastTried : Nat := 0
  /-- time of an alert that waits for its follow-up poll (R383) -/
  alerted : Option Nat := none
  deriving DecidableEq, Repr

/-- A transaction planned on a network (R381). -/
structure Transaction where
  txid : Nat
  node : Nat
  account : Option Nat
  phases : Nat
  relays : List Relay
  first : Nat
  durationUs : Nat
  frame : Bytes
  retriesLeft : Nat
  /-- Sepal message the frame carries: its ref, or 0 -/
  ref : Nat := 0
  answerMod : Nat := 3
  /-- links excluded from a retry's route (R381) -/
  avoid : List Nat := []
  deriving DecidableEq, Repr

/-- One power-line network (R377 to R387, R395). -/
structure PlcNet where
  /-- first tick at which each phase is free -/
  free : List Nat := [0, 0, 0]
  transactions : List Transaction := []
  nextTx : Nat := 0
  /-- failed transactions to be retried: account, retries left, links to avoid (R381) -/
  retry : List (Nat × Nat × List Nat) := []
  links : Table PlcLink := []
  nodes : Table PlcNode := []
  lastDiscover : Nat := 0
  /-- end tick of the discovery in progress; replies heard and not yet answered: serial, node heard through (R384) -/
  discovering : Option Nat := none
  /-- routes a DISCOVER is still to be sent through; none is the bridge itself (R384) -/
  discoverQueue : List (Option Nat) := []
  replies : List (Nat × Nat) := []
  /-- this round and the previous one: airtime in µs, transactions and failures by phase; alerts -/
  air : List Nat := [0, 0, 0]
  count : List Nat := [0, 0, 0]
  failed : List Nat := [0, 0, 0]
  airPrev : List Nat := [0, 0, 0]
  countPrev : List Nat := [0, 0, 0]
  failedPrev : List Nat := [0, 0, 0]
  alerts : Nat := 0
  alertsPrev : Nat := 0
  unknownMeters : Nat := 0
  /-- the network's page is being rebuilt until this uptime, and its polls are suspended (R205 of 07) -/
  rebuiltAt : Nat := 0
  deriving DecidableEq, Repr

/-- A STEM_BRIDGE_SET that takes effect at the next tick (R391): bridge, action, configuration. -/
structure StemChange where
  bridge : Nat
  action : Nat
  config : BridgeConfig
  deriving DecidableEq, Repr

/-- Bridges and power-line networks (chapter 11). -/
structure StemState where
  /-- the Stem registry with the bridges' sessions, those not ABSENT listed (8,192 bridges; R371, R391 of 11; reset: all ABSENT) -/
  bridges : Table Bridge := []
  /-- STEM_BRIDGE_SETs accepted for the next tick, in order (R391 of 11; reset: none) -/
  changes : List StemChange := []
  /-- Stem offset o (16 bits; R365 of 11; reset: 0) -/
  offset : Int := 0
  /-- frames accepted and dropped, REPAIR ranges, sample ticks lost since cold start (R390 of 11; reset: 0) -/
  accepted : Nat := 0
  dropped : Nat := 0
  repairs : Nat := 0
  samplesLost : Nat := 0
  /-- uplink bytes of this round and the previous one (R390 of 11; reset: 0) -/
  bytes : Nat := 0
  bytesPrev : Nat := 0
  /-- active transmit plan table, bridges not listed permitted everything at 0 dB (R375, R392 of 11; reset: none listed) -/
  permits : Table TxPermit := []
  /-- power-line profiles 0 to 15 (R394 of 11; reset: the defaults) -/
  profiles : List PlcProfile := List.replicate 16 {}
  /-- power-line networks by bridge (4 KiB pages; R202 of 07, R395 of 11; reset: none) -/
  nets : Table PlcNet := []
  /-- downlink Stem frames sent, latest first: bridge and bytes (output of the block; R361 of 11; reset: none) -/
  sent : List (Nat × Bytes) := []
  /-- downlink frames dropped because their destination could not be resolved (R577 of 17; reset: 0) -/
  unresolved : Nat := 0
  /-- frames handed to local transmitters, latest first: bridge, tick, MAC frame (output of the block; R388 of 11; reset: none) -/
  localTx : List (Nat × Nat × Bytes) := []
  deriving DecidableEq, Repr

end Sys2Proof.Machine
end

