-- ==== Sys2Proof/Machine/State/Yarrow.lean ====
section
/-!
DEFINITION. The floret array and Yarrow: umbels, catalogue, workloads, tasks, invocations, rolls.
Chapter 06 of the spec (R158 to R201).
-/

namespace Sys2Proof.Machine

/-- Umbel states, in the order of the codes of UMBEL_STATE (R193). -/
inductive UmbelPhase
  | active | spare | fenced | testing | retired
  deriving DecidableEq, Repr

/-- One umbel (R158, R184 to R188). -/
structure Umbel where
  phase : UmbelPhase := .active
  epoch : Nat := 0
  /-- sequence number the next heartbeat must carry, and heartbeats missed in a row (R184) -/
  hbNext : Nat := 0
  missed : Nat := 0
  /-- uptimes of deaths in the last 24 h, cause of the last, its tick (R188, R198) -/
  deaths : List Nat := []
  lastCause : Nat := 0
  lastDeathTick : Nat := 0
  /-- 0 none, 1 passed, 2 failed, 3 running (R198) -/
  testResult : Nat := 0
  /-- stale writes dropped since the last fence; stale heartbeats counted (R185, R186) -/
  staleWrites : Nat := 0
  staleBeats : Nat := 0
  /-- uncorrectable floret-SRAM errors in this round; corrected errors counted (R158) -/
  sramErrors : Nat := 0
  sramCorrected : Nat := 0
  /-- power-gated in Lean (R170); draining towards retirement (R188); held in reset by a fence not yet drained (R185) -/
  gated : Bool := false
  draining : Bool := false
  inReset : Bool := false
  deriving DecidableEq, Repr

/-- Classes of R164, in the order of their codes. -/
inductive KClass
  | critical | tick | background | idle
  deriving DecidableEq, Repr

/-- A workload descriptor, fields of R165. -/
structure Workload where
  id : Nat
  cls : KClass
  kernel : Nat
  paramBlock : Nat := 0xFFFF
  cadence : Nat := 0
  rank : Nat
  units : Nat
  minFlorets : Nat := 0
  maxFlorets : Nat := 0
  deadlineUs : Nat
  wiltMarginUs : Nat := 0
  wiltWidth : Nat := 64
  sliceUs : Nat := 50
  runahead : Bool := false
  prefetch : Bool := false
  pageKind : Nat := 0
  after : Nat := 0xFF
  deriving DecidableEq, Repr

/-- Statistics of one workload since its table activated (R200). -/
structure WorkloadStats where
  invocations : Nat := 0
  cycles : Nat := 0
  wilts : Nat := 0
  deadlineMisses : Nat := 0
  pageMisses : Nat := 0
  taskFaults : Nat := 0
  skipped : Nat := 0
  deriving DecidableEq, Repr

/-- A task: one workload's invocations for one cadence period (R166, R175, R176). -/
structure Task where
  id : Nat
  work : Workload
  eff : KClass
  /-- Gliris time of the tick it belongs to or was released in; uptimes in µs of its release and of its deadline -/
  label : Nat
  releasedUs : Nat
  deadlineUs : Nat
  /-- units still to dispatch, in order, and number of invocations running -/
  todo : List Nat
  running : Nat := 0
  /-- units that have completed: those of run-ahead work take effect when their tick opens (R104) -/
  ran : List Nat := []
  /-- units that faulted once in this period, with the umbel they ran on (R183) -/
  faulted : List (Nat × Nat) := []
  wilted : Bool := false
  /-- promoted by an overrun (R98) -/
  promoted : Bool := false
  missed : Bool := false
  /-- released under run-ahead for a tick that has not started (R104) -/
  ahead : Bool := false
  deriving DecidableEq, Repr

/-- What the run-ahead work of a tick assumed: its label, the trust state, the rate index of each plan (R105). -/
structure RunAhead where
  label : Nat
  trust : Trust
  rates : List (Nat × Nat)
  deriving DecidableEq, Repr

/-- A running invocation, by floret (R172 to R182). -/
structure Invocation where
  task : Nat
  workload : Nat
  kernel : Nat
  label : Nat
  unit : Nat
  epoch : Nat
  /-- the page it holds: page_kind, index (R180) -/
  page : Option (Nat × Nat) := none
  /-- it runs the new version of a kernel being rolled (R190) -/
  newVersion : Bool := false
  stalled : Bool := false
  deriving DecidableEq, Repr

/-- A floret's grant and resident kernels for the round (R168), and the invocations pre-empted on it (R173). -/
structure Floret where
  grant : Option Nat := none
  /-- kernels loaded on demand since the round start, most recently used first; evicted resident kernels -/
  loaded : List Nat := []
  evicted : List Nat := []
  preempted : List Invocation := []
  deriving DecidableEq, Repr

/-- Version and image hash of one kernel of the active catalogue (R160, R194). -/
structure KernelVersion where
  version : Nat := 0x0100
  hash : Bytes := []
  deriving DecidableEq, Repr

/-- A kernel roll in progress (R189 to R191, R199). -/
structure Roll where
  kernel : Nat
  slot : Nat
  version : Nat
  hash : Bytes
  perRound : Nat
  faultLimit : Nat
  canary : Nat
  /-- rounds still to wait after the first umbel; the first umbel has been taken -/
  canaryLeft : Nat := 0
  started : Bool := false
  rolled : List Nat := []
  draining : List Nat := []
  faults : Nat := 0
  paused : Bool := false
  reverting : Bool := false
  ref : Nat
  /-- the request to revert, which completes with the reverting (R199) -/
  revertRef : Option Nat := none
  deriving DecidableEq, Repr

/-- Load and latency measures of a round (R192, YRW_LOAD). -/
structure LoadMeasures where
  floretOccupancy : Nat := 0
  dramUtilisation : Nat := 0
  folsetBusy : Nat := 0
  tickDispatchNs : Nat := 0
  criticalDispatchNs : Nat := 0
  dramReadNs : Nat := 0
  mailboxMedianUs : Nat := 0
  slackP1Us : Nat := 0
  streamMbps : Nat := 0
  deriving DecidableEq, Repr

/-- Yarrow state (chapter 06). -/
structure YarrowState where
  /-- the 64 umbels (R158, R188 of 06; reset: ACTIVE, epoch 0; COLD_START makes the spares) -/
  umbels : List Umbel := List.replicate 64 {}
  /-- spare count (4 bits; R188 of 06; reset: 2, R156 headline of 00) -/
  spares : Nat := 2
  /-- auto_reinstate (1 bit; R197 of 06; reset: 1, stated) -/
  autoReinstate : Bool := true
  /-- spares and auto_reinstate waiting for a round start: values, first round start tick, reference (R197 of 06; reset: none) -/
  pendingSpares : Option (Nat × Bool × Nat × Nat) := none
  /-- the spare count is short (R188 of 06; reset: false) -/
  spareShort : Bool := false
  /-- catalogue versions and hashes by kernel ID (R161, R194 of 06; reset: version 1.0, hash of zeros, DESIGN CHOICE log 8) -/
  catalogue : Table KernelVersion := []
  /-- kernel_set_id (32 bits; R163 of 06; reset: 0, DESIGN CHOICE log 8) -/
  kernelSetId : Nat := 0
  /-- active workload table and its generation (R165, R167 of 06; reset: empty until COLD_START loads the default) -/
  workloads : List Workload := []
  workloadGen : Nat := 0
  /-- statistics by workload_id (R200 of 06; reset: zero) -/
  stats : Table WorkloadStats := []
  /-- active kernel parameter blocks, 192 B each (R164, R196 of 06; reset: none) -/
  params : Table Bytes := []
  /-- released tasks not yet complete, in order of release, and the number of the next (R166 of 06; reset: none, 0) -/
  tasks : List Task := []
  nextTask : Nat := 0
  /-- assumptions of the run-ahead work of the next tick (R104, R105 of 04; reset: none) -/
  ahead : Option RunAhead := none
  /-- kernels resident on every active floret since the round start (R168 of 06; reset: none) -/
  resident : List Nat := []
  /-- running invocations by floret 0 to 1,023 (R172 of 06; reset: none) -/
  running : Table Invocation := []
  /-- florets that differ from an idle pool floret (R168 of 06; reset: none) -/
  florets : Table Floret := []
  /-- pages held: page_kind, index, holder's floret and its tick (R180 of 06; reset: none) -/
  heldPages : List (Nat × Nat × Nat × Nat) := []
  /-- pages staged for the tick now running: page_kind, index (R179 of 06; reset: none) -/
  staged : List (Nat × Nat) := []
  /-- grants reduced, thermal limit, Lean gating (3 bits; R169, R170, YRW_STATUS of 06; reset: 0) -/
  grantsReduced : Bool := false
  thermalLimit : Bool := false
  leanGating : Bool := false
  /-- dispatching stopped by a power-down (R70 step 0 of 03; reset: true until COMPUTE is up) -/
  stopped : Bool := true
  /-- dispatch of workloads waits for tables being reloaded (R205 of 07; reset: false) -/
  reloading : Bool := false
  /-- kernel roll in progress (R189 of 06; reset: none) -/
  roll : Option Roll := none
  /-- floret-cycles used this tick, highest in this round, highest in the previous (R170 of 06; reset: 0) -/
  tickCycles : Nat := 0
  peakCycles : Nat := 0
  prevPeakCycles : Nat := 0
  /-- floret-cycles by kernel this round and the previous (R168 of 06; reset: 0) -/
  kernelCycles : Table Nat := []
  prevKernelCycles : Table Nat := []
  /-- measures of the previous round (R192 of 06; reset: 0) -/
  load : LoadMeasures := {}
  /-- wilts, deadline misses, background cycles: this round and the previous (R192 of 06; reset: 0) -/
  wilts : Nat := 0
  misses : Nat := 0
  backgroundCycles : Nat := 0
  prevWilts : Nat := 0
  prevMisses : Nat := 0
  prevBackground : Nat := 0
  deriving DecidableEq, Repr

end Sys2Proof.Machine
end

