-- ==== Sys2Proof/Machine/State/Gens.lean ====
section
/-!
DEFINITION. Descriptor generations that are armed and wait for their activation (R12 to R17, R621, R622 of 01).
-/

namespace Sys2Proof.Machine

/-- The content of a descriptor table's pending generation, by table. -/
inductive GenTable
  | workload (table : List Workload)
  | param (block : Nat) (data : Bytes)
  | civil (table : CivilTable)
  | tariff (table : Tariff)
  | calib (record : CalRecord)
  /-- the whole bridge transmit plan table, with the changes that were merged into it (R375, R392 of 11) -/
  | txPlan (permits : Table TxPermit)
  | plcProfile (index : Nat) (profile : PlcProfile)
  /-- a network's radio configuration; none unbinds a local transceiver (R426 of 12) -/
  | rfNet (bridge : Nat) (config : Option RfConfig)
  | balModel (model : BalanceModel)
  | rules (index : Nat) (profile : RuleProfile)
  /-- a charge point's configuration; none for kind 0 (R465 of 13) -/
  | chgPoint (point : Nat) (config : Option PointConfig)
  /-- a supply path; none removes it (R466 of 13) -/
  | chgPath (path : Nat) (config : Option PathConfig)
  | chgBus (bus : Nat) (config : BusConfig)
  | lsConfig (channel : Nat) (config : LsConfig)
  | safInput (input : Nat) (config : InputConfig)
  deriving DecidableEq, Repr

/-- A pending generation: its table, its activation tick (for a round-bound table the first tick of its round), its
group, the asynchronous command that armed it, and the number it will carry. -/
structure PendingGen where
  table : GenTable
  opcode : Nat
  tick : Nat
  groupId : Nat := 0
  groupMembers : Nat := 0
  ref : Option Nat := none
  /-- further commands whose changes were merged into it (R392 of 11) -/
  refs : List Nat := []
  gen : Nat := 0
  principal : Nat := 0xFF
  role : Nat := 0
  deriving DecidableEq, Repr

/-- Generations of the configuration region (R17 of 01). -/
structure GenState where
  /-- pending generations, in the order of arming (at most one per table; R12, R17 of 01; reset: none) -/
  waiting : List PendingGen := []
  /-- generation numbers given so far, by table kind (R195 of 06, R322 of 09, R353 of 10; reset: 0) -/
  numbers : Table Nat := []
  /-- what tables held before they were switched, by the label of each older tick that still has work (R13 of 01; reset: none) -/
  kept : Table (List GenTable) := []
  deriving DecidableEq, Repr

end Sys2Proof.Machine
end

