-- ==== Sys2Proof/Machine/State/Host.lean ====
section
/-!
DEFINITION. The host interface part of the state: registers, mailboxes, sessions, stream port, event queue.
Chapter 05 of the spec (R111 to R157).
-/

namespace Sys2Proof.Machine

/-- Life-cycle states, in the order of GSTAT.LIFECYCLE (R114, R131). -/
inductive Lifecycle
  | blank | provisioned | sealed | service | scrapped
  deriving DecidableEq, Repr

/-- Roles, codes 1 to 5 of R125 and R153. -/
inductive Role
  | reader | operator | warden | metrologist | service
  deriving DecidableEq, Repr

/-- A request waiting to be taken by Folset (R119). `orphan` says that its mailbox was lost to a link loss (R150). -/
structure Waiting where
  opcode : Nat
  request : Request
  orphan : Bool := false
  /-- it was the fifth URGENT request, or found the queue full, when it was rung (R122, R124) -/
  overUrgent : Bool := false
  overQueue : Bool := false
  /-- it came in clear, in a datagram of session 0, from this address and port (R147, R148) -/
  inClear : Bool := false
  peer : Bytes := []
  deriving DecidableEq, Repr

/-- One mailbox: its request and response areas (R117). Its OWNER and DONE bits stand in the doorbell registers. -/
structure Mailbox where
  request : Bytes := []
  response : Bytes := []
  deriving DecidableEq, Repr

/-- A UDP session's transport: peer, keys and replay state (R147, R148). -/
structure UdpTransport where
  peer : Bytes := []
  keyToModule : Bytes := []
  keyToHost : Bytes := []
  /-- highest request seq seen and the seqs seen within the window of 64 -/
  highest : Nat := 0
  seen : List Nat := []
  /-- cached responses by seq, newest first, at most 64 -/
  cache : List (Nat × Bytes) := []
  /-- seq of the next datagram to the host -/
  nextSeq : Nat := 1
  /-- event datagrams not acknowledged: seq, record, sends, uptime of the last send; records that wait for room among the
  64 of R149 -/
  unacked : List (Nat × Bytes × Nat × Nat) := []
  unsent : List Bytes := []
  deriving DecidableEq, Repr

/-- A session (R132, R133). `pending` holds while it is not authenticated. -/
structure Session where
  handle : Nat
  role : Role
  principal : Nat
  pending : Bool
  challenge : Bytes
  hostEph : Bytes
  moduleEph : Bytes
  idleS : Nat
  lastUsed : Nat
  udp : Option UdpTransport := none
  deriving DecidableEq, Repr

/-- What an outstanding asynchronous command waits for; the owning chapter's state holds the rest under its reference. -/
structure Outstanding where
  ref : Nat
  session : Nat
  tag : Nat
  opcode : Nat
  deriving DecidableEq, Repr

/-- One entry of the event queue (R143, R144). `completion` entries use the reserved part of R145. -/
structure EventEntry where
  kind : Nat
  source : Nat
  count : Nat
  firstTick : Nat
  lastTick : Nat
  firstUptime : Nat
  coalesces : Bool
  completion : Bool
  /-- its kind is journalled when the record is placed (R312) -/
  journalled : Bool := false
  payload : Bytes
  /-- bytes journalled behind the record (R359 of 10) -/
  tail : Bytes := []
  deriving DecidableEq, Repr

/-- A page of a stream channel: its sequence number, body, last flag, and the original it repeats (R137). -/
structure Page where
  seq : Nat
  body : Bytes
  last : Bool := false
  requeueOf : Option Nat := none
  /-- the host has accessed its frame (R139); uptime of the last access -/
  pinned : Bool := false
  lastAccess : Nat := 0
  acked : Bool := false
  deriving DecidableEq, Repr

/-- PUSH ring of a to-host channel (R141). -/
structure PushRing where
  base : Nat
  pages : Nat
  headAddr : Nat
  deriving DecidableEq, Repr

/-- The direction of a stream channel (STRM_CFG.DIR, R138). -/
inductive StreamDir
  | closed | toHost | fromHost
  deriving DecidableEq, Repr

/-- A transfer in progress on a stream channel: the command that opened it and the data collected so far. -/
structure Transfer where
  ref : Nat
  opcode : Nat
  transferId : Nat
  request : Request
  dryrun : Bool
  expected : Nat
  crc : Nat
  /-- offsets of the length and CRC fields in the 256 B request (R125) -/
  lenOff : Nat := 0
  crcOff : Nat := 0
  data : Bytes := []
  /-- pages accepted -/
  pages : Nat := 0
  /-- a page with the last-page flag has been accepted (R137) -/
  ended : Bool := false
  startedAt : Nat := 0
  deriving DecidableEq, Repr

/-- A from-host frame that the host has written and that has not been accepted yet (R140): its content, which of its bytes have been
written (bit `i` for byte `i`), and the uptime of the last write. -/
structure FrameFill where
  data : Bytes := []
  written : Nat := 0
  lastWrite : Nat := 0
  deriving DecidableEq, Repr

/-- A datagram sent to the host: the address and port it goes to, and its bytes (R147). -/
structure Datagram where
  peer : Bytes
  bytes : Bytes
  deriving DecidableEq, Repr

/-- One stream channel (R136 to R142). -/
structure Channel where
  dir : StreamDir := .closed
  push : Option PushRing := none
  autoack : Bool := false
  /-- channel 0 only: events go to this UDP session (R149) -/
  udp : Option Nat := none
  suspended : Bool := false
  abandoned : Nat := 0
  head : Nat := 0
  tail : Nat := 0
  /-- next page sequence number to produce -/
  nextSeq : Nat := 0
  cursorOffset : Nat := 0
  cursorFrame : Nat := 0
  /-- to-host pages not yet acknowledged, oldest first; bodies waiting for a free frame -/
  pages : List Page := []
  waiting : List Page := []
  /-- from-host frames written and not yet accepted, by frame (R140) -/
  frames : Table FrameFill := []
  /-- pages not acknowledged when the endpoint was reset, re-queued when the channel is next read (R150) -/
  held : List Page := []
  /-- the endpoint was reset while the channel was open: its registers read as closed until it is read (R150; log 40) -/
  down : Bool := false
  transfer : Option Transfer := none
  deriving DecidableEq, Repr

/-- One entry of the MSI-X table: message address, data and mask (R111, R115). -/
structure MsixEntry where
  addr : Nat := 0
  data : Nat := 0
  masked : Bool := true
  pending : Bool := false
  /-- the holdoff of the vector runs, and a message is held back (R115) -/
  holdoff : Bool := false
  heldBack : Bool := false
  deriving DecidableEq, Repr

/-- Host interface state (chapter 05). -/
structure HostState where
  /-- VARIANT: true for GL1024-S (R1 of 00, R113 of 05; reset: GL1024-L, DESIGN CHOICE log 6) -/
  variantS : Bool := false
  /-- SERIAL (64 bits; R113 of 05; reset: per module, 0 chosen, DESIGN CHOICE log 6) -/
  serial : Nat := 0
  /-- SLOT strap (2 bits; R35 of 02, R113 of 05; reset: strap, 0 chosen, DESIGN CHOICE log 6) -/
  slot : Nat := 0
  /-- INT_STATUS (22 bits used; R115 of 05; reset: 0) -/
  intStatus : Reg32 := 0
  /-- INT_ENABLE (22 bits used; R115 of 05; reset: 0) -/
  intEnable : Reg32 := 0
  /-- INT_HOLDOFF.HOLDOFF_US (16 bits; R115 of 05; reset: 0) -/
  holdoffUs : Nat := 0
  /-- INT_MAP, one vector per cause (5 bits each, 22 causes; R115 of 05; reset: i) -/
  intMap : List Nat := List.range 22
  /-- MSI-X table and pending bits, 32 vectors (R111, R115 of 05; reset: masked, PRESUMED log 7) -/
  msix : List MsixEntry := List.replicate 32 {}
  /-- interrupt messages sent, latest first: vectors (output of the block; R115 of 05; reset: none) -/
  msiSent : List Nat := []
  /-- HOST_ERR_INFO offset, code and count (32 bits; R116 of 05; reset: 0) -/
  errOffset : Nat := 0
  errCode : Nat := 0
  errCount : Nat := 0
  /-- upper half of the frontier latched by a read of 0x0048 (32 bits; R114 of 05; reset: none) -/
  frontierLatch : Option Nat := none
  /-- value the latest host read returned (output of the block; reset: 0) -/
  readData : Nat := 0
  /-- GSTAT_HEARTBEAT (32 bits; R114 of 05; reset: 0) -/
  heartbeat : Nat := 0
  /-- MBOX_OWNER (32 bits; R117 of 05; reset: 0) -/
  owner : Reg32 := 0
  /-- MBOX_DONE (32 bits; R117 of 05; reset: 0) -/
  done : Reg32 := 0
  /-- the 32 mailbox slots (512 B each; R117 of 05; reset: empty) -/
  mailboxes : List Mailbox := List.replicate 32 {}
  /-- stream channels 0 to 7 (R136, R138 of 05; reset: closed, channel 0 to-host) -/
  channels : List Channel := { dir := .toHost } :: List.replicate 7 {}
  /-- pages written to a PUSH ring by bus master: channel, bus address, page_seq (output of the block; reset: none) -/
  busWrites : List (Nat × Nat × Nat) := []
  /-- HEAD written to a head address once a page is whole: channel, bus address, HEAD (output of the block; R141 of 05; reset: none) -/
  headWrites : List (Nat × Nat × Nat) := []
  /-- configuration requests are answered with Configuration Request Retry Status (R65 of 03; reset: true) -/
  configRetry : Bool := true
  /-- link training enabled since PCIE_PERST_N was released (R65 of 03; reset: false) -/
  linkTraining : Bool := false
  deriving DecidableEq, Repr

/-- Folset state: life-cycle, sessions, waiting requests, outstanding commands, events (chapter 05, R10). -/
structure FolsetState where
  /-- FOLSET_READY (1 bit; R114 of 05; reset: 0) -/
  ready : Bool := false
  /-- FOLSET_UPDATING (1 bit; R114 of 05; reset: 0) -/
  updating : Bool := false
  /-- restarting after a lockstep mismatch (R10 of 01; reset: false) -/
  restarting : Bool := false
  /-- LIFECYCLE (3 bits; R114, R131 of 05; reset: BLANK, DESIGN CHOICE log 6) -/
  lifecycle : Lifecycle := .blank
  /-- requests rung or received and not yet taken, in order of receipt (R119 of 05; reset: none) -/
  waiting : List Waiting := []
  /-- sessions (at most 16; R132 of 05; reset: none) -/
  sessions : List Session := []
  /-- failed authentications: principal and uptime (R134 of 05; reset: none) -/
  failures : List (Nat × Nat) := []
  /-- locked principals (R134 of 05; reset: none) -/
  locked : List Nat := []
  /-- asynchronous commands outstanding (R122, R123 of 05; reset: none) -/
  outstanding : List Outstanding := []
  /-- reference of the next asynchronous command (MODEL'S OWN field; reset: 0, DESIGN CHOICE log 5) -/
  nextRef : Nat := 0
  /-- requests and commands lost to a restart, to be reported INTERNAL when Folset is back (R10 of 01; reset: none) -/
  lostRequests : List Waiting := []
  lostCommands : List Outstanding := []
  /-- event queue, oldest first occurrence first (4,096 entries; R144, R145 of 05; reset: empty) -/
  events : List EventEntry := []
  /-- overflow entry: 16 dropped counts, count, first and last tick (R146 of 05; reset: empty) -/
  overflow : List Nat := List.replicate 16 0
  overflowCount : Nat := 0
  overflowFirst : Nat := 0
  overflowLast : Nat := 0
  /-- event_seq of the next record placed (32 bits; R143 of 05; reset: 1) -/
  eventSeq : Nat := 1
  /-- datagrams sent to the host, latest first (output of the block; R147 of 05; reset: none) -/
  datagrams : List Datagram := []
  /-- datagrams dropped for failed authentication (R148 of 05; reset: 0) -/
  udpDropped : Nat := 0
  /-- version of the running Folset image: major, minor, build (32 bits; R113 of 05; reset: per image, 0 chosen, DESIGN CHOICE log 6) -/
  version : Nat := 0
  deriving DecidableEq, Repr

end Sys2Proof.Machine
end

