-- ==== Sys2Proof/Machine/State/Links.lean ====
section
/-!
DEFINITION. The links part of the state: lane grouping, ports, addresses, MACsec, neighbour cache. Chapter 17 of the spec
(R573 to R592).
-/

namespace Sys2Proof.Machine

/-- Port states in the order of their codes (R579, R586). -/
inductive PortPhase
  | disabled | training | up | hold | poweredOff
  deriving DecidableEq, Repr

/-- One address entry of a port (R577, R590). -/
structure AddrEntry where
  prefixLen : Nat
  roles : Nat
  vlan : Nat
  address : Bytes
  deriving DecidableEq, Repr

/-- One neighbour-cache entry (R577): IPv6 address, MAC address, uptime of the last refresh. -/
structure Neighbour where
  address : Bytes
  mac : Bytes
  refreshed : Nat
  deriving DecidableEq, Repr

/-- What LNK_PORT_SET sets (R589). -/
structure PortConfig where
  medium : Nat := 0
  fecExp : Nat := 5
  mtu : Nat := 1700
  router : Bytes := List.replicate 16 0
  asymmetryNs : Int := 0
  deriving DecidableEq, Repr

/-- One port (R573 to R592). -/
structure Port where
  phase : PortPhase := .poweredOff
  enabled : Bool := true
  config : PortConfig := {}
  addrs : List (Option AddrEntry) := [none, none, none, none]
  neighbours : List Neighbour := []
  downs : Nat := 0
  /-- uptimes of the link faults of the last 60 s (R579) -/
  downTimes : List Nat := []
  rxBytes : Nat := 0
  rxDropped : Nat := 0
  fecCorrected : Nat := 0
  fecUncorrected : Nat := 0
  macsecDrops : Nat := 0
  /-- authentication failures of the second that began at this uptime (R584) -/
  authSecond : Nat := 0
  authFails : Nat := 0
  lastChange : Nat := 0
  /-- the FEC symbol error ratio is above its threshold, and seconds below it since (R581) -/
  degraded : Bool := false
  goodSeconds : Nat := 0
  /-- it has raised source 0xE0 and is not up again (R579) -/
  failed : Bool := false
  /-- it has raised source 0xE2 by authentication failures in the current second (R584) -/
  authFlood : Bool := false
  /-- next PN expected under each association number on receive (R584) -/
  nextPn : Table Nat := []
  deriving DecidableEq, Repr

/-- MACsec configuration of a port group (R584, R591). -/
structure MacsecConfig where
  enable : Bool := false
  confidentiality : Bool := false
  txAn : Nat := 0
  ptpBypass : Bool := true
  replayWindow : Nat := 0
  deriving DecidableEq, Repr

/-- Links (chapter 17). -/
structure LinkState where
  /-- grouping in force (2 bits; R574 of 17_backhaul_links.md; reset: 0, stated for the first start) -/
  grouping : Nat := 0
  /-- grouping for the next cold start (2 bits; R574 of 17; reset: 0) -/
  pendingGrouping : Nat := 0
  /-- ports by number of their lowest lane (16 ports; R573, R579 of 17; reset: POWERED_OFF, enabled with medium KR,
  fec_degrade_exp 5, MTU 1,700, no router, no address, as at first start) -/
  ports : List Port := List.replicate 16 {}
  /-- the mirror link's enable was set by LNK_PORT_SET: otherwise it follows SS7 in force (R579 of 17; reset: none) -/
  mirrorSet : Bool := false
  /-- lane 0 runs 10GBASE-KR alone (1 bit; R580 of 17; reset: false) -/
  laneZeroOnly : Bool := false
  /-- MACsec configuration of the four groups (R584, R591 of 17; reset: off with ptp_bypass set; confidentiality, tx_an and
  replay_window 0, DESIGN CHOICE log 33) -/
  macsec : List MacsecConfig := List.replicate 4 {}
  /-- LNK_MACSEC_SET accepted: activation tick, group, configuration (R591 of 17; reset: none) -/
  macsecNext : List (Nat × Nat × MacsecConfig) := []
  /-- the module's base MAC address (48 bits; R576 of 17; reset: assigned at manufacture, 0 chosen, DESIGN CHOICE log 6) -/
  baseMac : Nat := 0
  /-- ICMPv6 messages sent by Folset: port, destination, message (output of the block; R576, R577 of 17; reset: none) -/
  icmpSent : List (Nat × Bytes × Bytes) := []
  deriving DecidableEq, Repr

end Sys2Proof.Machine
end

