-- ==== Sys2Proof/Machine/State/Memory.lean ====
section
/-!
DEFINITION. DRAM error records, the ledger store's raw configuration bytes, boot banks and time-slot arbiters.
Chapter 07 of the spec (R202 to R227).
-/

namespace Sys2Proof.Machine

/-- An arbiter slot table: 256 slot owners (15 open), burst limits of the 16 requesters, background ranking, report
threshold and activation tick (R216, R225). -/
structure ArbTable where
  slots : List Nat
  burst : List Nat
  ranking : List Nat
  waitUs : Nat := 0
  activation : Nat := 0
  deriving DecidableEq, Repr

/-- A request waiting at an arbiter or holding its port (R217 to R219): the umbel it came from with the fence epoch it carried
(R215), beats of the transfer and of those the beats done, beats of the present grant, time it has waited in all. -/
structure ArbRequest where
  requester : Nat
  umbel : Option (Nat × Nat) := none
  beats : Nat
  done : Nat := 0
  granted : Nat := 0
  waitNs : Nat := 0
  preempted : Nat := 0
  reported : Bool := false
  deriving DecidableEq, Repr

/-- Statistics of one requester (R227). -/
structure ArbStats where
  grants : Nat := 0
  beats : Nat := 0
  discarded : Nat := 0
  preemptions : Nat := 0
  maxWaitNs : Nat := 0
  deriving DecidableEq, Repr

/-- One time-slot arbiter (R216 to R222). -/
structure Arbiter where
  table : ArbTable := { slots := [], burst := [], ranking := [] }
  pending : Option ArbTable := none
  slot : Nat := 0
  holder : Option ArbRequest := none
  waiting : List ArbRequest := []
  stats : Table ArbStats := []
  deriving DecidableEq, Repr

/-- One 4 KiB DRAM page's errors of the last 24 h: uptimes of corrected and uncorrectable errors (R206). -/
structure PageErrors where
  corrected : List Nat := []
  uncorrected : List Nat := []
  deriving DecidableEq, Repr

/-- Component versions of one boot bank (R213, R593, R594): Folset version and security, kernel images, GL-F parts. -/
structure BankImage where
  version : Nat := 0
  build : Nat := 0
  security : Nat := 0
  /-- SHA-256 of the image; whether it passes R593 -/
  hash : Bytes := []
  good : Bool := true
  /-- the image as it was staged, from which satellite firmware goes out over a ring (R256) -/
  body : Bytes := []
  deriving DecidableEq, Repr

/-- A staged kernel image slot (R213, R594). -/
structure StagedImage where
  kernel : Nat
  version : Nat
  security : Nat
  hash : Bytes
  /-- the SHA-256 of what the slot holds is the image's hash (R160) -/
  hashGood : Bool := true
  deriving DecidableEq, Repr

/-- One boot bank of 64 MiB (R213). -/
structure Bank where
  seq : Nat := 0
  valid : Bool := false
  /-- Folset image; absent if the bank holds none -/
  folset : Option BankImage := none
  /-- kernel images by kernel ID -/
  kernels : Table BankImage := []
  /-- staged image slots 0 to 7 -/
  staged : Table StagedImage := []
  /-- GL-F field part, metrology part, satellite firmware (targets 2, 3, 4) -/
  glf : Table BankImage := []
  /-- calibration copy: calib_id, or none if its CRC fails -/
  calib : Option Nat := none
  deriving DecidableEq, Repr

/-- Memory, boot store and arbiters (chapter 07). -/
structure MemState where
  /-- corrected DRAM errors, by pseudo-channel 0 to 63 (R204 of 07; reset: 0) -/
  dramCorrected : Table Nat := []
  /-- uncorrectable DRAM errors (32 bits; R224 of 07; reset: 0) -/
  dramUncorrected : Nat := 0
  /-- errors by page address, last 24 h (R206 of 07; reset: none) -/
  pages : Table PageErrors := []
  /-- retired pages, by pseudo-channel (R206 of 07; reset: 0) -/
  retired : Table Nat := []
  /-- page address remapped to spare page number (R206 of 07; reset: none) -/
  remap : Table Nat := []
  /-- spare pool pages free (R202, R224 of 07; reset: 262,144) -/
  spareFree : Nat := 262144
  /-- ledger-store errors corrected and uncorrectable (32 bits each; R224 of 07; reset: 0) -/
  lstoreCorrected : Nat := 0
  lstoreUncorrected : Nat := 0
  /-- uptime of the last complete patrol pass (R204, R224 of 07; reset: 0) -/
  patrolAt : Nat := 0
  /-- the two boot banks A and B (R213 of 07; reset: bank A valid with seq 1, DESIGN CHOICE log 8) -/
  bankA : Bank := { seq := 1, valid := true, folset := some {} }
  bankB : Bank := {}
  /-- a boot-store write is in progress (R224 of 07; reset: false) -/
  bootWriting : Bool := false
  /-- arbiters 0 to 4 (R216 of 07; reset: empty until COLD_START loads the default tables) -/
  arbiters : List Arbiter := List.replicate 5 {}
  /-- ledger-store arbiter on the fixed power-down schedule (R68, R222; reset: false) -/
  pdSchedule : Bool := false
  deriving DecidableEq, Repr

end Sys2Proof.Machine
end

