-- ==== Sys2Proof/Machine/State/Power.lean ====
section
/-!
DEFINITION. The power part of the state: inputs, hand-over, modes, rails and the power-down records.
Chapters 02 and 03 of the spec (R31 to R79).
-/

namespace Sys2Proof.Machine

/-- The state of one path switch of R55. -/
inductive PathSwitch
  | heldOff | conducting | idealDiode
  deriving DecidableEq, Repr

/-- The hand-over states of R57, in the order of their codes 0 to 6. -/
inductive Handover
  | mainOn | toBatt | battOn | mainQual | toMain | bank | powerDown
  deriving DecidableEq, Repr

/-- A demand of R60, in falling order Full, Lean, Vigil, Keep (codes 0 to 3). -/
inductive Demand
  | full | lean | vigil | keep
  deriving DecidableEq, Repr

/-- The states of the mode state machine of R63. -/
inductive Mode
  | starting | full | lean | vigil | keep | hold | powerDown
  deriving DecidableEq, Repr

/-- The thermal reactions of R31: the die and the threshold in degrees Celsius. -/
inductive Thermal
  | glc100 | glc103 | glc105 | glf115 | glf125
  deriving DecidableEq, Repr

/-- The battery policy codes of SYS_POWER_MODE: none, Lean on BATT, Vigil on BATT (R78). -/
inductive BattPolicy
  | none | lean | vigil
  deriving DecidableEq, Repr

/-- One copy of the 64 B power-down record of R73. `valid` says that its CRC is good. -/
structure PowerDownRecord where
  valid : Bool := false
  recordId : Nat := 0
  cause : Nat := 0
  handover : Nat := 0
  vbusDv : Nat := 0
  detectTime : Nat := 0
  detectOffsetNs : Nat := 0
  progress : Nat := 0
  lastCommitted : Nat := 0
  abortedCount : Nat := 0
  queueDepth : Nat := 0
  energyCrc : Nat := 0
  traceSlot : Nat := 0
  deriving DecidableEq, Repr

/-- The energy record GL-F writes at step 4 of the power-down sequence (R72): for each local register set the
increase of its five energies (µWh) since the last window a committed tick consumed, the time accounted for, and
the demand of the sub-intervals in progress (R253). -/
structure EnergyRecord where
  valid : Bool := false
  /-- Gliris time at which it was written -/
  label : Nat := 0
  sets : Table (List Nat) := []
  demand : Table (Table DemandReg) := []
  deriving DecidableEq, Repr

/-- Power inputs, hand-over, modes, rails, thermal reactions and power-down records (chapters 02 and 03). -/
structure PowerState where
  /-- MOD_EN_N is held low by the carrier (1 bit; R33, R76 of 03_power_holdup.md; reset: held low, DESIGN CHOICE log 3) -/
  modEnLow : Bool := true
  /-- mode of the mode state machine (7 states; R63 of 03; reset: STARTING, the state a cold start begins in) -/
  mode : Mode := .starting
  /-- command demand (2 bits; R60 of 03; reset: Full, as after every cold start) -/
  demandCommand : Demand := .full
  /-- thermal demand (2 bits; R60 of 03; reset: Full) -/
  demandThermal : Demand := .full
  /-- battery demand (2 bits; R60, R61 of 03; reset: Full) -/
  demandBattery : Demand := .full
  /-- batt_policy (8 bits; R61, R78 of 03; reset: none, DESIGN CHOICE log 2) -/
  battPolicy : BattPolicy := .none
  /-- batt_delay_s (16 bits; R61 of 03; reset: 0, DESIGN CHOICE log 2) -/
  battDelayS : Nat := 0
  /-- batt_low_dv (16 bits; R61 of 03; reset: 0, DESIGN CHOICE log 2) -/
  battLowDv : Nat := 0
  /-- wake_time for a commanded Keep, 0 none (64 bits; R63, R78 of 03; reset: 0, DESIGN CHOICE log 2) -/
  wakeTime : Nat := 0
  /-- hand-over state code (3 bits; R57 of 03; reset: MAIN_ON, DESIGN CHOICE log 3) -/
  handover : Handover := .mainOn
  /-- MAIN path switch (3 positions; R55 of 03; reset: conducting, DESIGN CHOICE log 3) -/
  mainPath : PathSwitch := .conducting
  /-- BATT path switch (3 positions; R55 of 03; reset: held off, DESIGN CHOICE log 3) -/
  battPath : PathSwitch := .heldOff
  /-- MAIN stands at 41.0 V or more and is not lost (1 bit; R56 of 03; reset: true, DESIGN CHOICE log 3) -/
  mainPresent : Bool := true
  /-- BATT is present under R56 (1 bit; R56 of 03; reset: false, DESIGN CHOICE log 3) -/
  battPresent : Bool := false
  /-- MAIN, BATT is lost for over-voltage, so that its path is held off (1 bit each; R56 of 03; reset: false) -/
  mainOver : Bool := false
  battOver : Bool := false
  /-- MAIN marked unstable (1 bit; R58 of 03; reset: false) -/
  mainUnstable : Bool := false
  /-- uptimes in ms of the MAIN losses counted within the last 60 s (R58 of 03; reset: none) -/
  mainLosses : List Nat := []
  /-- MAIN, BATT and VBUS readings in 0.1 V and input power in 0.1 W (16 bits each; R79 of 03; reset: 0, DESIGN CHOICE log 2) -/
  mainDv : Nat := 0
  battDv : Nat := 0
  vbusDv : Nat := 0
  inputDw : Nat := 0
  /-- uptime in ms of the last hand-over to BATT (R79 of 03; reset: 0) -/
  battSince : Nat := 0
  /-- Keep reserve voltage in mV (32 bits; R64, R79 of 03; reset: 0, DESIGN CHOICE log 2) -/
  keepReserveMv : Nat := 0
  /-- the Keep reserve ran out: KEEP stopped until the next start (1 bit; R64 of 03; reset: false) -/
  keepStopped : Bool := false
  /-- Keep domain was lost before this start (1 bit; R64 of 03; reset: false) -/
  keepLost : Bool := false
  /-- a moisture hold has happened since this start (1 bit; R54 of 02, R79 of 03; reset: false) -/
  moistureSinceStart : Bool := false
  /-- COMPUTE domain powered (1 bit; R25 of 01, R65 of 03; reset: false) -/
  computeOn : Bool := false
  /-- FIELD domain powered (1 bit; R25 of 01, R65 of 03; reset: false) -/
  fieldOn : Bool := false
  /-- VIGIL domain powered (1 bit; R25 of 01, R65 of 03; reset: false) -/
  vigilOn : Bool := false
  /-- VIGIL rail retries used since MOD_EN_N was last cycled, and whether the start has been given up (R67 of 03; reset: 0, false) -/
  vigilRetries : Nat := 0
  vigilFailed : Bool := false
  /-- a VIGIL rail has failed and its retry comes 1 s later (1 bit; R67 of 03; reset: false) -/
  vigilRetryDue : Bool := false
  /-- a VIGIL failure held in KEEP to be reported at the next successful start (1 bit; R67 of 03; reset: false) -/
  vigilFailReport : Bool := false
  /-- thermal reactions in force (5 bits; R31 of 02; reset: none) -/
  thermal : List Thermal := []
  /-- GL-C and GL-F junction temperatures measured this tick, in degrees Celsius (R31 of 02; reset: 0, DESIGN CHOICE log 2) -/
  tempC : Int := 0
  tempF : Int := 0
  /-- tick at which a change between Full and Lean takes effect, if one waits (R62 of 03; reset: none) -/
  leanChangeAt : Option Nat := none
  /-- entry to Vigil is in progress: open ticks have up to 10 ms, ended at this uptime (R62 of 03; reset: none) -/
  vigilEntryBy : Option Nat := none
  /-- exit from Vigil is in progress (1 bit; R62 of 03; reset: false) -/
  vigilExiting : Bool := false
  /-- a demand of Keep has been answered and Keep is to be entered (1 bit; R78 of 03; reset: false) -/
  keepDue : Bool := false
  /-- Keep was commanded, not entered by a power-down or removal (1 bit; R63 of 03; reset: false) -/
  keepCommanded : Bool := false
  /-- MAIN, BATT was lost when Keep was entered or has been lost since, so that its qualifying ends a commanded Keep (1 bit each; R63 of
  03; reset: false) -/
  mainLostInKeep : Bool := false
  battLostInKeep : Bool := false
  /-- MOD_EN_N has risen while in Keep (1 bit; R63 of 03; reset: false) -/
  roseInKeep : Bool := false
  /-- the two copies of the power-down record (64 B each; R73 of 03; reset: invalid, never written) -/
  recordA : PowerDownRecord := {}
  recordB : PowerDownRecord := {}
  /-- GL-F energy record (R72 of 03; reset: invalid) -/
  energyRecord : EnergyRecord := {}
  /-- time of detection latched by KEEP (64 bits; R70 of 03; reset: 0) -/
  latchedDetect : Nat := 0
  /-- the last power-down left no record (1 bit; R74 of 03; reset: false) -/
  unrecorded : Bool := false
  /-- the energy record of the last power-down is lost (1 bit; R74, R75 of 03; reset: false) -/
  energyLost : Bool := false
  /-- step of the coming power-down sequence at which the FIELD rail, the VIGIL rail fails (R74 of 03; reset: none) -/
  pdFieldFailed : Option Nat := none
  pdVigilFailed : Option Nat := none
  /-- the KEEP rail fails during the coming power-down sequence (1 bit; R74 of 03; reset: false) -/
  pdKeepFailed : Bool := false
  /-- PCIE_PERST_N stands released at the pin, whether VIGIL is powered or not (1 bit; R65 of 03; reset: false, DESIGN CHOICE log 3) -/
  perstReleased : Bool := false
  /-- rails that will not reach regulation at the coming start: 0 VIGIL, 1 FIELD, 2 COMPUTE (R67 of 03; reset: none) -/
  railFails : List Nat := []
  /-- FIELD or COMPUTE did not start, so that the module runs as in Vigil (1 bit; R67 of 03; reset: false) -/
  computeFailed : Bool := false
  /-- what the start in progress finds; needed again where a rail retry or a moisture hold interrupts it (R54 of 02, R67 of 03;
  reset: as the defaults of `StartInputs`) -/
  startInputs : StartInputs := {}
  /-- SYS_POWER_MODE commands that wait for the effective mode to be reached: references (R78 of 03; reset: none) -/
  powerRefs : List Nat := []
  /-- conditions of the supply fault: BATT lost in MAIN_ON, low battery (R57, R61 of 03; reset: false) -/
  battLostReported : Bool := false
  lowBattery : Bool := false
  /-- by local register set, the Gliris time at which the last power-down's or Keep's gap began, until a committed tick has
  taken the marker (R72 of 03; reset: none) -/
  gapFrom : Table Nat := []
  deriving DecidableEq, Repr

end Sys2Proof.Machine
end

