-- ==== Sys2Proof/Machine/State/Service.lean ====
section
/-!
DEFINITION. The service part of the state: live update, trace ring and tails, Jorny. The boot banks themselves stand
in State/Memory.lean. Chapter 18 of the spec (R593 to R619).
-/

namespace Sys2Proof.Machine

/-- A trace record (R604). `offset` is the time into the tick. -/
structure TraceRecord where
  kind : Nat
  source : Nat
  seq : Nat
  tick : Nat
  offset : Nat
  payload : Bytes
  /-- block of the ring it lies in, counted from the cold start -/
  block : Nat
  /-- the record is marked lost after an error of the ring's SRAM (R207 of 07) -/
  lost : Bool := false
  deriving DecidableEq, Repr

/-- Steps of a Folset or GL-F update (R599, R601; `update` of SVC_STATUS). -/
inductive UpdatePhase
  | idle | loading | quiescing | switched | probation | glf
  deriving DecidableEq, Repr

/-- What is in the build bank since the last commit or discard (`build` of SVC_STATUS, codes 0 to 3). -/
inductive BuildPhase
  | none | copying | valid | invalid
  deriving DecidableEq, Repr

/-- Jorny's state (R608 to R610). -/
structure JornyState where
  standalone : Bool := false
  /-- pending challenge: role, principal, challenge -/
  challenge : Option (Role × Nat × Bytes) := none
  /-- role bound: role, principal, uptime of the last command -/
  bound : Option (Role × Nat × Nat) := none
  /-- a LOAD in progress: target, length of header and image, bytes received -/
  load : Option (Nat × Nat × Bytes) := none
  /-- answer of the latest command: lines as bytes, then OK (0) or the ERR status -/
  answer : List Bytes := []
  result : Nat := 0
  deriving DecidableEq, Repr

/-- Service state (chapter 18). -/
structure SvcState where
  /-- update in progress (R599 to R601 of 18_service_update_trace.md; reset: idle) -/
  phase : UpdatePhase := .idle
  /-- its reference, auto_commit and probation_s (R615 of 18; reset: none) -/
  updateRef : Option Nat := none
  autoCommit : Bool := false
  probationS : Nat := 0
  /-- uptime at which probation ends, quiesce gives up (R599, R600 of 18; reset: 0) -/
  probationEnd : Nat := 0
  quiesceEnd : Nat := 0
  /-- Gliris time of the switch in progress or done (64 bits; R615 of 18; reset: 0) -/
  switchTick : Nat := 0
  /-- what has been staged since the last commit (2 bits; R594 of 18; reset: none) -/
  build : BuildPhase := .none
  /-- the bank the running Folset image came from is B (R113, R600 of 18; reset: bank A, DESIGN CHOICE log 8) -/
  runningB : Bool := false
  /-- GL-F firmware running, by target: 2 field part, 3 metrology part, 4 satellite (R601 of 18; reset: none named, DESIGN CHOICE log 8) -/
  glf : Table BankImage := []
  /-- security floor (32 bits; R593, R594 of 18; reset: 0, DESIGN CHOICE log 8) -/
  securityFloor : Nat := 0
  /-- cold starts in a row in which Folset did not become ready (R608 of 18; reset: 0) -/
  failedStarts : Nat := 0
  /-- Gliris time of the last bank commit since cold start (64 bits; SVC_STATUS of 18; reset: 0) -/
  lastCommitTick : Nat := 0
  /-- trace records in the ring, oldest first (R604 of 18; reset: empty) -/
  trace : List TraceRecord := []
  /-- block being written, counted from the cold start, and bytes used in it (R604 of 18; reset: 0) -/
  block : Nat := 0
  blockUsed : Nat := 0
  /-- next trace_seq (32 bits; R604, R606 of 18; reset: 0) -/
  traceSeq : Nat := 0
  /-- records lost and not yet reported, cause mask, and total since cold start (R604 of 18; reset: 0) -/
  lost : Nat := 0
  lostMask : Nat := 0
  lostTotal : Nat := 0
  /-- trace enables EVENT, COMMAND, TICKS (3 bits; R617 of 18; reset: 7 at first start, stated) -/
  enable : Nat := 7
  /-- freeze_classes (3 bits; R617 of 18; reset: 0 at first start, stated) -/
  freezeClasses : Nat := 0
  /-- post_blocks (10 bits; R617 of 18; reset: 0, DESIGN CHOICE log 11) -/
  postBlocks : Nat := 0
  /-- the ring is frozen; trigger armed: block at which to freeze, its trace_seq and type (R605 of 18; reset: not frozen) -/
  frozen : Bool := false
  trigger : Option (Nat × Nat × Nat) := none
  /-- tail slots 0 and 1: record_id they belong to and their records (R606, R607 of 18; reset: none) -/
  tails : List (Option (Nat × List TraceRecord)) := [none, none]
  /-- Jorny (R608 to R610 of 18; reset: resident, no role) -/
  jorny : JornyState := {}
  deriving DecidableEq, Repr

end Sys2Proof.Machine
end

