-- ==== Sys2Proof/Machine/State/Vault.lean ====
section
/-!
DEFINITION. The key vault and the cipher engines: slots, certificates, engine contexts. Chapter 15 of the spec
(R506 to R536).
-/

namespace Sys2Proof.Machine

/-- One copy of a slot record (R507): material (64 B; empty for all zeros), attribute word (64 bits), and whether its tag
is the one the tag unit computes over it. The tag's value is never readable (R508, R532). -/
structure SlotCopy where
  material : Bytes := []
  attr : Nat := 0
  tagGood : Bool := true
  deriving DecidableEq, Repr

/-- A change of a slot that waits for its activation tick (R513): 1 written, 2 generated, 3 destroyed, as in VAULT_SLOT. -/
structure SlotChange where
  kind : Nat
  tick : Nat
  material : Bytes := []
  attr : Nat := 0
  principal : Nat
  deriving DecidableEq, Repr

/-- One slot: two copies and the change that waits. `reported` says that its unusability has been reported (R508). -/
structure Slot where
  a : SlotCopy := {}
  b : SlotCopy := {}
  change : Option SlotChange := none
  reported : Bool := false
  deriving DecidableEq, Repr

/-- One certificate entry (R521): the certificates in force, and a change that waits with the command that armed it. -/
structure CertEntry where
  certs : List Bytes := []
  change : Option (Nat × List Bytes × Option Nat) := none
  deriving DecidableEq, Repr

/-- One engine (R519, R524 to R527, R536). -/
structure Engine where
  inService : Bool := true
  testing : Bool := false
  /-- the running test is a retest of an engine out of service (R527) -/
  retest : Bool := false
  lastResult : Nat := 0xFF
  aborts : Nat := 0
  /-- handles of the keys held, most recently used first (R519) -/
  keys : List KeyHandle := []
  operations : Nat := 0
  lastTest : Nat := 0
  /-- requests held until the test ends (R526) -/
  held : Nat := 0
  /-- VLT_ENGINE requests whose response is formed when the test ends, with their references (R536) -/
  waiters : List (Request × Nat) := []
  deriving DecidableEq, Repr

/-- Record protection of a TLS connection (R442, R444 of 13): TLS 1.3 rather than 1.2; keys, MAC keys and nonces of the module's and of
the vehicle's side, those of the other version unused; records protected and opened so far. -/
structure TlsKeys where
  v13 : Bool
  writeKey : Bytes
  readKey : Bytes
  writeMac : Bytes
  readMac : Bytes
  writeIv : Bytes
  readIv : Bytes
  sent : Nat := 0
  opened : Nat := 0
  deriving DecidableEq, Repr

/-- Keys that an AEAD engine has generated for the match of a charge point and holds until the match ends (R442 of 13, R516): the
engine, the network membership key, the network encryption key, and those of the TLS connection. -/
structure LinkKeys where
  engine : Nat := 0
  nmk : Bytes
  nek : Bytes
  tls : Option TlsKeys := none
  deriving DecidableEq, Repr

/-- The eight engine classes' engines at a start: AEAD, public-key, KDF, token, MACsec, mirror-link cipher, attestation. -/
def newEngines : List (List Engine) :=
  [List.replicate 32 {}, List.replicate 8 {}, [{}], [{}], List.replicate 4 {}, [{}], [{}]]

/-- Slot 64 as written at manufacture: category device, TYPE 2, DEST public-key and attestation, PURPOSE 12 (R506, R510). -/
def identityCopy : SlotCopy := {
  material := (List.range 64).map (fun i => if i < 32 then Config.identityByte i else 0)
  attr := 1 + 2 * 2 ^ 4 + 0x42 * 2 ^ 8 + 12 * 2 ^ 16 + 1 * 2 ^ 48 }

/-- Slot 0 as written at manufacture: category provisioning, TYPE 4, PURPOSE 13, ROLES WARDEN (R506, R510; R133 of 05). -/
def provisioningCopy : SlotCopy := {
  material := (List.range 64).map (fun i => Config.provisioningByte i)
  attr := 2 + 4 * 2 ^ 4 + 0x42 * 2 ^ 8 + 13 * 2 ^ 16 + 4 * 2 ^ 32 + 1 * 2 ^ 48 }

/-- Key vault and cipher engines (chapter 15). -/
structure VaultState where
  /-- the 4,096 slots, those not listed empty (two copies of 80 B each; R506, R507 of 15; reset: slots 0 and 64 as manufactured, the rest empty, DESIGN CHOICE log 24) -/
  slots : Table Slot := [(0, { a := provisioningCopy }), (64, { a := identityCopy })]
  /-- the device-unique key has been zeroised (1 bit; R508, R520 of 15; reset: false) -/
  zeroised : Bool := false
  /-- certificate store: entries 0, 1 and 16 to 31 (at most 4,800 B each; R521 of 15; reset: empty) -/
  certs : Table CertEntry := []
  /-- engines by class: 32 AEAD, 8 public-key, KDF, token, 4 MACsec, mirror-link cipher, attestation (R524 of 15; reset: in service, never tested, no key held) -/
  engines : List (List Engine) := newEngines
  /-- keys of the matches in progress, by charge point 0 to 15, each in the context of one AEAD engine (R442 of 13, R516 of 15; reset: none) -/
  links : Table LinkKeys := []
  /-- derivations since cold start (64 bits; R536 of 15; reset: 0) -/
  derivations : Nat := 0
  /-- KEY_REFUSED occurrences since cold start (32 bits; R516 of 15; reset: 0) -/
  refusals : Nat := 0
  /-- failed self-tests since cold start (32 bits; R527 of 15; reset: 0) -/
  testFailures : Nat := 0
  /-- uptimes in ms of the attestations served within the last second (R523 of 15; reset: none) -/
  attests : List Nat := []
  deriving DecidableEq, Repr

end Sys2Proof.Machine
end

