-- ==== Sys2Proof/Machine/State.lean ====
section
/-!
DEFINITION. The state of the block: one structure per chapter, the queue of waiting commands, and the reset state.
-/

namespace Sys2Proof.Machine

/-- Why the block stops with a fault. No command of this block does: every condition the spec names has an effect. -/
inductive Fault
  deriving DecidableEq, Repr

/-- Why a command has no meaning. -/
inductive Refusal
  /-- The command is not modelled yet; raised by an arm of `exec` only. Safe: nothing can be proved about its effect. -/
  | notModelled (mnemonic : String)
  deriving DecidableEq, Repr

/-- The state of the block. -/
structure State where
  /-- commands waiting, first in, first out (MODEL'S OWN field; reset: empty) -/
  pending : List Instr := []
  /-- free values drawn so far (MODEL'S OWN field; reset: 0, DESIGN CHOICE log 12) -/
  draws : Nat := 0
  host : HostState := {}
  fol : FolsetState := {}
  pwr : PowerState := {}
  time : TimeState := {}
  led : LedgerState := {}
  gens : GenState := {}
  yrw : YarrowState := {}
  mem : MemState := {}
  met : MetState := {}
  seals : SealState := {}
  flt : FaultState := {}
  duty : DutyState := {}
  svc : SvcState := {}
  vlt : VaultState := {}
  stem : StemState := {}
  mtr : MeterState := {}
  bal : BalanceState := {}
  fio : FieldState := {}
  chg : ChargeState := {}
  lnk : LinkState := {}
  deriving DecidableEq, Repr

/-- The block right after reset: the KEEP domain is powered and nothing else; the start of R65 comes next. -/
def State.reset : State := {}

end Sys2Proof.Machine
end

