-- ==== Sys2Proof/Machine/Flags.lean ====
section
/-!
DEFINITION. Status words and flags: interrupt causes and their messages, FAULT_N's level, and the codes that the
status registers and responses give to the states of the model. Chapters 03, 04, 05 and 16.
-/

namespace Sys2Proof.Machine

/-- GSTAT.LIFECYCLE code (R114). -/
def Lifecycle.code : Lifecycle → Nat
  | .blank => 0 | .provisioned => 1 | .sealed => 2 | .service => 3 | .scrapped => 4

/-- Life-cycle state of a code (R157). -/
def lifecycleOf : Nat → Option Lifecycle
  | 0 => some .blank | 1 => some .provisioned | 2 => some .sealed | 3 => some .service | 4 => some .scrapped
  | _ => none

/-- Role code (R125). -/
def Role.code : Role → Nat
  | .reader => 1 | .operator => 2 | .warden => 3 | .metrologist => 4 | .service => 5

/-- Role of a code (R153). -/
def roleOf : Nat → Option Role
  | 1 => some .reader | 2 => some .operator | 3 => some .warden | 4 => some .metrologist | 5 => some .service
  | _ => none

/-- Trust code (R114). -/
def Trust.code : Trust → Nat
  | .traceable => 0 | .holdover => 1 | .untrusted => 2

/-- Trust state of a code, UNTRUSTED for the code that has none (R102). -/
def trustOf : Nat → Trust
  | 0 => .traceable | 1 => .holdover | _ => .untrusted

/-- Source code of TIME_STATUS (R106). -/
def TimeSource.code : TimeSource → Nat
  | .none => 0 | .ptp => 1 | .pps => 2 | .rtc => 3 | .host => 4

/-- GSTAT.MODE code (R114); KEEP and POWER_DOWN have none, since no register can be read there. -/
def Mode.code : Mode → Nat
  | .starting => 0 | .full => 1 | .lean => 2 | .vigil => 3 | .hold => 4 | .keep => 0 | .powerDown => 0

/-- Hand-over state code (R57). -/
def Handover.code : Handover → Nat
  | .mainOn => 0 | .toBatt => 1 | .battOn => 2 | .mainQual => 3 | .toMain => 4 | .bank => 5 | .powerDown => 6

/-- Demand code (R60). -/
def Demand.code : Demand → Nat
  | .full => 0 | .lean => 1 | .vigil => 2 | .keep => 3

/-- GSTAT.PAIR_ROLE code (R552). -/
def PairRole.code : PairRole → Nat
  | .single => 0 | .duty => 1 | .standby => 2 | .undecided => 3

/-- Synchronisation state code (R562). -/
def SyncPhase.code : SyncPhase → Nat
  | .none => 0 | .copying => 1 | .inSync => 2 | .outOfSync => 3 | .split => 4

/-- Record state code (R539). -/
def RecordPhase.code : RecordPhase → Nat
  | .idle => 0 | .active => 1 | .ended => 2

/-- Ring state code (R274). -/
def RingPhase.code : RingPhase → Nat
  | .down => 0 | .enumerating => 1 | .intact => 2 | .wrapped => 3 | .segmented => 4

/-- Supply order code (R285). -/
def Supply.code : Supply → Nat
  | .on => 0 | .offCredit => 1 | .offHost => 2

/-- Causes of INT_STATUS above the mailbox and stream groups (R115). -/
def causeFault : Nat := 16
def causePower : Nat := 17
def causeTime : Nat := 18
def causeLink : Nat := 19
def causeHostErr : Nat := 20
def causeSession : Nat := 21

/-- Sends the message of a vector, or holds it back while the vector's holdoff runs (R115). A masked vector's message
is kept in its pending bit (log 7). -/
def sendMessage (v : Nat) (h : HostState) : HostState :=
  match h.msix[v]? with
  | none => h
  | some e =>
    if e.masked then { h with msix := modAt h.msix v (fun e => { e with pending := true }) }
    else if e.holdoff then { h with msix := modAt h.msix v (fun e => { e with heldBack := true }) }
    else
      { h with
        msiSent := v :: h.msiSent
        msix := modAt h.msix v (fun e => { e with holdoff := decide (0 < h.holdoffUs) }) }

/-- Latches cause `i` of INT_STATUS; the message goes out when the bit goes from 0 to 1 and is enabled (R115). -/
def setCause (i : Nat) (h : HostState) : HostState :=
  if h.intStatus.getLsbD i then h
  else
    let h' := { h with intStatus := h.intStatus ||| BitVec.ofNat 32 (2 ^ i) }
    if h.intEnable.getLsbD i then sendMessage (h.intMap.getD i i) h' else h'

/-- Latches a cause in the state. -/
def interrupt (i : Nat) (s : State) : State := { s with host := setCause i s.host }

/-- Class of a fault source: 0 A, 1 B, 2 C, 3 D; none for a reserved ID (R537, R585 of 17, R611 of 18). -/
def sourceClass (src : Nat) : Option Nat :=
  if src = 0 then none
  else if src ≤ 0x06 then some 0
  else if src ≤ 0x0F then none
  else if src ≤ 0x1C then
    some (if src = 0x10 || src = 0x11 || src = 0x13 || src = 0x15 || src = 0x19 then 1 else 2)
  else if src = 0x20 then some 2
  else if src = 0x30 || src = 0x31 then some 1
  else if src = 0x32 || src = 0x33 then some 2
  else if src = 0x34 then some 3
  else if src = 0x40 then some 2
  else if src = 0x41 || src = 0x42 then some 1
  else if src = 0x43 then some 3
  else if src = 0x50 then some 2
  else if src = 0x51 then some 1
  else if src = 0x70 || src = 0x80 || src = 0x90 then some 2
  else if src = 0xA0 then some 1
  else if src = 0xA1 || src = 0xB0 then some 2
  else if src = 0xB1 || src = 0xC0 then some 1
  else if src = 0xC1 then some 2
  else if src = 0xD0 then some 1
  else if src = 0xD1 then some 2
  else if src = 0xD2 || src = 0xD3 || src = 0xD4 then some 1
  else if src = 0xE0 || src = 0xE1 || src = 0xE2 || src = 0xE3 || src = 0xE4 then some 2
  else if src = 0xF6 || src = 0xF7 then some 1
  else if src = 0xF4 then some 3
  else if 0xF0 ≤ src && src ≤ 0xF5 then some 2
  else none

/-- Sources that point to a failure of this module and yield the baton (R544). -/
def sourceYields (src : Nat) : Bool :=
  src = 0x02 || src = 0x03 || src = 0x04 || src = 0x06

/-- The record of a source. -/
def faultRecord (s : State) (src : Nat) : FaultRecord := Tab.getD s.flt.records src {}

/-- Records of class `c` in the given states (R563). -/
def countRecords (s : State) (c : Nat) (p : RecordPhase → Bool) : Nat :=
  s.flt.records.countP (fun (i, r) => sourceClass i == some c && p r.phase)

/-- A class-A record is not IDLE. -/
def classAHeld (s : State) : Bool := 0 < countRecords s 0 (fun p => p != .idle)

/-- Folset's level of FAULT_N (R541): low while a class-A or class-B record is not IDLE; it follows only while Folset runs. -/
def faultLevel (s : State) : State :=
  if s.fol.ready then
    { s with flt := { s.flt with faultnLow := decide (0 < countRecords s 0 (· != .idle) + countRecords s 1 (· != .idle)) } }
  else s

/-- FAULT_N reads low (R541): Folset's level or a pulse, and released in Keep and while unpowered. -/
def faultnReadsLow (s : State) : Bool := s.pwr.vigilOn && (s.flt.faultnLow || s.flt.faultnPulse)

/-- A seal-bank position (1 to 16) is closed now (R42). -/
def sealClosed (s : State) (p : Nat) : Bool := s.seals.sensed.getD (p - 1) false

/-- A seal-bank position is in force (R490). -/
def sealInForce (s : State) (p : Nat) : Bool := s.seals.inForce.getD (p - 1) false

/-- The data path runs: COMPUTE is powered, in Full, in Lean or at a start (R26, R60, R63). -/
def dataPathUp (s : State) : Bool := s.pwr.computeOn && (s.pwr.mode == .full || s.pwr.mode == .lean || s.pwr.mode == .starting)

/-- The module drives the field: it holds the baton (R549); a single module too must hold it. -/
def drivesField (s : State) : Bool := s.duty.holding

end Sys2Proof.Machine
end

