-- ==== Sys2Proof/Machine/Ops.lean ====
section
/-!
DEFINITION. Shared operations: free values, trace records, events, completions, journal entries, fault records.
Chapters 05 (R143 to R146), 09 (R311, R312), 16 (R538 to R541) and 18 (R604, R605) of the spec.
-/

namespace Sys2Proof.Machine

/-! ## Free values (log 12)

The uses of `Config.free`: 1 a trace record's time into the tick; 2 a command's duration in µs; 3 a session handle;
further uses are named where they are drawn. -/

/-- What a command of the block answers. -/
abbrev Result := Host.Outcome State Fault Refusal

/-- A fresh free value below `bound` for a use (log 12): nothing constrains it but the bound. -/
def draw (use bound : Nat) (s : State) : Nat × State :=
  (Config.free use s.draws % bound, { s with draws := s.draws + 1 })

/-- `n` fresh random bytes for a use (R132, R133 of 05). -/
def drawBytes (use n : Nat) (s : State) : Bytes × State :=
  ((List.range n).map (Config.randomByte use s.draws), { s with draws := s.draws + 1 })

/-- The Gliris time of the current tick (R92 of 04). -/
def now (s : State) : Nat := s.time.gliris

/-- The Gliris time of the last committed tick (R101 of 04). -/
def frontier (s : State) : Nat := s.led.record.frontier

/-- The duty epoch a response carries: 0 on a single module (R114, R121, R558). -/
def epochNow (s : State) : Nat := if s.duty.role = .single then 0 else s.duty.epoch

/-! ## Trace (R604, R605 of 18) -/

/-- Bytes of an entry marked lost, as they read: nothing gives them (R205, R207, R211 of 07; log 13). -/
def lostBytes (number len : Nat) : Bytes := (List.range len).map (Config.lostEntryByte number)

/-- Length of a trace record in 16 B units: at least 2 (R604). -/
def traceUnits (payload : Bytes) : Nat := max 2 (ceilDiv (24 + payload.length) 16)

/-- Appends one record to the ring: a record never crosses a block, and the oldest block is overwritten (R604). When the
post-trigger blocks are full the ring freezes instead (R605). -/
def traceAppend (kind source : Nat) (payload : Bytes) (s : State) : State :=
  let size := 16 * traceUnits payload
  let fits := s.svc.blockUsed + size ≤ 4096
  let block := if fits then s.svc.block else s.svc.block + 1
  let used := if fits then s.svc.blockUsed + size else size
  let full := match s.svc.trigger with
    | some (b, _, _) => decide (b + s.svc.postBlocks < block)
    | none => false
  if full then
    { s with svc := { s.svc with frozen := true, lost := s.svc.lost + 1, lostTotal := s.svc.lostTotal + 1,
                                  lostMask := s.svc.lostMask ||| 2 } }
  else
    let d := draw 1 1000000 s
    let r : TraceRecord := { kind := kind, source := source, seq := s.svc.traceSeq, tick := now s, offset := d.1,
                             payload := payload, block := block }
    let s := d.2
    { s with svc := { s.svc with
        trace := (s.svc.trace.filter (fun t => block < t.block + 1024)) ++ [r]
        block := block, blockUsed := used, traceSeq := (s.svc.traceSeq + 1) % 2 ^ 32 } }

/-- An error that SECDED cannot correct in a record of the ring: it is marked lost and counted (R604; R207 of 07). -/
def loseTrace (seq : Nat) (s : State) : State :=
  if s.pwr.vigilOn && s.svc.trace.any (fun r => r.seq == seq && !r.lost) then
    { s with svc := { s.svc with
        trace := s.svc.trace.map (fun r => if r.seq = seq then { r with lost := true } else r)
        lost := s.svc.lost + 1, lostTotal := s.svc.lostTotal + 1, lostMask := s.svc.lostMask ||| 1 } }
  else s

/-- Writes a trace record: not while the VIGIL domain is off; counted as lost while the ring is frozen; preceded by a
LOST record when records were lost before (R604, R605). -/
def traceWrite (kind source : Nat) (payload : Bytes) (s : State) : State :=
  if !s.pwr.vigilOn then s
  else if s.svc.frozen then
    { s with svc := { s.svc with lost := s.svc.lost + 1, lostTotal := s.svc.lostTotal + 1,
                                  lostMask := s.svc.lostMask ||| 2 } }
  else
    let s := if s.svc.lost = 0 then s
      else
        let p := le 4 s.svc.lost ++ le 4 s.svc.lostMask
        { (traceAppend 10 0 p s) with svc := { (traceAppend 10 0 p s).svc with lost := 0, lostMask := 0 } }
    traceAppend kind source payload s

/-- Arms the freeze when the record just written is a trigger of `freeze_classes` bit `b` (R605). -/
def traceTrigger (b kind : Nat) (s : State) : State :=
  if s.svc.freezeClasses.testBit b && s.svc.trigger.isNone && !s.svc.frozen then
    { s with svc := { s.svc with trigger := some (s.svc.block, (s.svc.traceSeq + 2 ^ 32 - 1) % 2 ^ 32, kind) } }
  else s

/-- The lower of two demands in the order Full > Lean > Vigil > Keep (R60 of 03). -/
def Demand.lower (a b : Demand) : Demand := if a.code < b.code then b else a

/-- The effective mode: the lowest of the three demands (R60 of 03). -/
def effective (s : State) : Demand := s.pwr.demandCommand.lower (s.pwr.demandThermal.lower s.pwr.demandBattery)

/-- The MODE trace record, at a change of mode, of hand-over state or of role (R604; log 39). No code is given for its cause, a free
value (log 12: use 62). -/
def traceMode (s : State) : State :=
  let d := draw 62 256 s
  traceWrite 5 0 (le 1 (effective s).code ++ le 1 s.pwr.handover.code ++ le 1 s.duty.role.code ++ le 1 d.1) d.2

/-- The TIME trace record, at a change of trust and at a step (R604). -/
def traceTime (after before : Trust) (step : Int) (s : State) : State :=
  traceWrite 6 0 (le 1 after.code ++ le 1 before.code ++ zeros 2 ++ leS 8 step) s

/-! ## Journal (R311, R312 of 09) -/

/-- The latest open tick that is still OPEN, as the ledger tick that takes new journal entries. -/
def currentLedgerTick (s : State) : Option OpenTick :=
  match s.led.ticks.getLast? with
  | some t => if t.phase = .opened then some t else none
  | none => none

/-- Adds a consequence to the current ledger tick; without one it waits for the next ledger tick (R312). -/
def stage (c : Consequence) (s : State) : State :=
  match currentLedgerTick s with
  | some t =>
    { s with led := { s.led with ticks := s.led.ticks.dropLast ++ [{ t with out := t.out ++ [(0, c)] }] } }
  | none => { s with led := { s.led with journalWaiting := s.led.journalWaiting ++ [c] } }

/-- A journal entry of the current or next ledger tick (R312). -/
def journal (kind : Nat) (data : Bytes) (s : State) : State := stage (.journal kind data) s

/-- A metrology audit entry (R273 of 08): never coalesced, committed with its audit_seq. -/
def audit (kind principal role : Nat) (data : Bytes) (s : State) : State :=
  stage (.audit kind principal role (pad 8 data)) s

/-! ## Events (R143 to R146 of 05) -/

/-- Event kinds that are ledger events or that their chapter declares journalled (R312): ledger events (R314), SUSPICION (R352),
LAST_GASP to METER_MISMATCH (R425), SESSION_END and PROTECTIVE_TRIP (R463), SAFETY_INPUT, SAFETY_OUTPUT and STARTUP_TEST (R496),
VAULT_SLOT (R530), DUTY_CHANGE and TAMPER (R562), UPDATE_STEP (R612). FAULT depends on its class. -/
def journalledKind (kind : Nat) : Bool :=
  (0x0600 ≤ kind && kind ≤ 0x0606) || (0x0900 ≤ kind && kind ≤ 0x0903) ||
  [0x0700, 0x0A02, 0x0A04, 0x0B01, 0x0B02, 0x0B04, 0x0C00, 0x0D01, 0x0D03, 0x0F00].contains kind

/-- Counts a dropped event in the overflow entry (R146). -/
def countDropped (kind : Nat) (s : State) : State :=
  let b := kind / 256 % 16
  { s with fol := { s.fol with
      overflow := modAt s.fol.overflow b (fun n => cap 0xFFFFFFFF (n + 1))
      overflowFirst := if s.fol.overflowCount = 0 then now s else s.fol.overflowFirst
      overflowLast := now s
      overflowCount := s.fol.overflowCount + 1 } }

/-- Entries of the general part of the queue: 3,839 of the 4,096 (R145). -/
def generalEntries : Nat := 3839

/-- Whether an entry takes a coalescing event of this kind and source (R144). -/
def EventEntry.takes (e : EventEntry) (kind source : Nat) : Bool :=
  e.coalesces && !e.completion && e.kind == kind && e.source == source

/-- Merges a coalescing event into an entry (R144). -/
def EventEntry.merge (e : EventEntry) (tick : Nat) (payload : Bytes) : EventEntry :=
  { e with count := cap 0xFFFFFFFF (e.count + 1), lastTick := tick, payload := payload }

/-- Queues an event: merged, queued, or counted as dropped (R144, R146). -/
def raiseEventJ (kind source : Nat) (coalesces journalled : Bool) (payload : Bytes) (s : State) : State :=
  if coalesces && s.fol.events.any (fun e => e.takes kind source) then
    { s with fol := { s.fol with
        events := s.fol.events.map (fun e => if e.takes kind source then e.merge (now s) payload else e) } }
  else if s.fol.events.countP (fun e => !e.completion) < generalEntries then
    { s with fol := { s.fol with
        events := s.fol.events ++ [{
          kind := kind, source := source, count := 1, firstTick := now s, lastTick := now s
          firstUptime := s.time.uptime, coalesces := coalesces, completion := false
          journalled := journalled, payload := payload }] } }
  else countDropped kind s

/-- Queues an event of a kind whose journalling does not depend on its content. -/
def raiseEvent (kind source : Nat) (coalesces : Bool) (payload : Bytes) (s : State) : State :=
  raiseEventJ kind source coalesces (journalledKind kind) payload s

/-- An event of a kind that no table lists, reporting `value` in a payload whose layout is not given (log 39). -/
def unlistedEvent (n value : Nat) (s : State) : State :=
  raiseEventJ (Config.unlistedKind n % 65536) 0 false false ((Config.unlistedPayload n value s.draws).take 16) { s with draws := s.draws + 1 }

/-- Queues a completion, for which an entry was reserved (R145): it is never dropped. -/
def queueCompletion (kind session : Nat) (payload : Bytes) (s : State) : State :=
  { s with fol := { s.fol with
      events := s.fol.events ++ [{
        kind := kind, source := session, count := 1, firstTick := now s, lastTick := now s
        firstUptime := s.time.uptime, coalesces := false, completion := true, payload := payload }] } }

/-- The header of a response followed by its payload (R121). -/
def responseBytes (opcode tag status detail : Nat) (payload : Bytes) (s : State) : Bytes :=
  le 2 opcode ++ le 2 tag ++ le 1 status ++ le 1 detail ++ le 2 payload.length ++
    le 4 (epochNow s) ++ le 4 (frontier s) ++ payload

/-- The record of an event as channel 0 carries it (R143); the length is a multiple of 8. -/
def eventRecord (e : EventEntry) (seq : Nat) : Bytes :=
  let len := 8 * ceilDiv (32 + e.payload.length) 8
  le 2 len ++ le 2 e.kind ++ le 4 e.source ++ le 4 (cap 0xFFFFFFFF e.count) ++ le 4 seq ++
    le 8 e.firstTick ++ le 8 e.lastTick ++ pad (len - 32) e.payload

/-- A datagram's bytes (R147): its 24 B header, then the body in clear, or sealed under the key of its direction with the nonce
session ‖ seq and the header as additional data (R148; log 34). -/
def datagramBytes (key : Option Bytes) (session type seq : Nat) (body : Bytes) : Bytes :=
  let head := le 2 0x4653 ++ le 1 1 ++ le 1 type ++ le 4 session ++ le 8 seq ++ le 2 body.length ++ zeros 6
  head ++ (match key with
    | some k => gcmSeal k (slice head 4 12) head body
    | none => body)

/-- A session's datagram, sealed under its module-to-host key and sent to the address its host uses (R147, R148). -/
def sealedDatagram (u : UdpTransport) (session type seq : Nat) (body : Bytes) : Datagram :=
  { peer := u.peer, bytes := datagramBytes (some u.keyToHost) session type seq body }

/-- A datagram to a UDP session: its type, the session's next seq, its body (R147). An event waits while 64 are not
acknowledged (R149). -/
def sendDatagram (handle type : Nat) (body : Bytes) (s : State) : State :=
  match s.fol.sessions.find? (fun x => x.handle == handle) with
  | some x =>
    match x.udp with
    | some u =>
      if type = 2 && 64 ≤ u.unacked.length then
        { s with fol := { s.fol with sessions := s.fol.sessions.map (fun y =>
            if y.handle == handle then { y with udp := some { u with unsent := u.unsent ++ [body] } } else y) } }
      else
      { s with fol := { s.fol with
          datagrams := sealedDatagram u handle type u.nextSeq body :: s.fol.datagrams
          sessions := s.fol.sessions.map (fun y =>
            if y.handle == handle then
              { y with udp := some { u with
                  nextSeq := u.nextSeq + 1
                  unacked := if type = 2 then u.unacked ++ [(u.nextSeq, body, 1, s.time.uptime)] else u.unacked } }
            else y) } }
    | none => s
  | none => s

/-- The overflow entry as a record (R143, R146): its payload is the 16 counts by block. -/
def overflowRecord (s : State) (seq : Nat) : Bytes :=
  eventRecord { kind := 0x0101, source := 0, count := s.fol.overflowCount, firstTick := s.fol.overflowFirst
                lastTick := s.fol.overflowLast, firstUptime := 0, coalesces := false, completion := false
                payload := s.fol.overflow.flatMap (fun n => le 4 n) } seq

/-- Completes the asynchronous command with reference `ref`: the completion goes to channel 0, and to its own UDP session
as a datagram (R122, R143, R149). Nothing happens for a reference that is not outstanding. -/
def complete (ref status detail : Nat) (payload : Bytes) (s : State) : State :=
  match s.fol.outstanding.find? (fun o => o.ref == ref) with
  | none => s
  | some o =>
    let body := responseBytes o.opcode o.tag status detail payload s
    let s := { s with fol := { s.fol with outstanding := s.fol.outstanding.filter (fun x => x.ref != ref) } }
    let s := queueCompletion 0x0100 o.session body s
    let e : EventEntry := { kind := 0x0100, source := o.session, count := 1, firstTick := now s, lastTick := now s
                            firstUptime := 0, coalesces := false, completion := true, payload := body }
    sendDatagram o.session 2 (eventRecord e 0) s

/-! ## Fault records (R538 to R541 of 16) -/

/-- The 32 B fault record of a source (R539). -/
def faultRecordBytes (src : Nat) (r : FaultRecord) : Bytes :=
  le 1 src ++ le 1 ((sourceClass src).getD 0) ++ le 1 r.phase.code ++
    le 1 (r.injected.toNat + 2 * (sourceYields src).toNat) ++ le 4 (cap 0xFFFFFFFF r.count) ++
    le 8 r.firstTick ++ le 8 r.lastTick ++ le 4 r.detail ++ zeros 4

/-- The FAULT event of a change of a record's state (R562). -/
def faultEvent (src : Nat) (r : FaultRecord) (s : State) : State :=
  let cls := (sourceClass src).getD 0
  raiseEventJ 0x0D00 src (cls = 2) (cls ≤ 1)
    (le 1 cls ++ le 1 r.phase.code ++ le 1 (r.injected.toNat + 2 * (sourceYields src).toNat) ++ zeros 1 ++
      le 4 r.detail ++ le 4 (cap 0xFFFFFFFF r.count) ++ zeros 4) s

/-- Raises a fault source with a condition of its row (R537, R539) and gives the reaction of its class (R538), the safe
state of class A apart (`Machine/Safe.lean`). `injected` marks the record (R546). -/
def raiseWith (src detail : Nat) (injected : Bool) (s : State) : State :=
  match sourceClass src with
  | none => s
  | some cls =>
    let old := faultRecord s src
    let new : FaultRecord := {
      phase := if cls = 3 then .idle else .active
      injected := injected
      count := cap 0xFFFFFFFF (old.count + 1)
      firstTick := if old.phase = .idle then now s else old.firstTick
      lastTick := now s
      detail := detail }
    let s := { s with flt := { s.flt with records := Tab.put s.flt.records src new } }
    let s := traceWrite 2 src (faultRecordBytes src new) s
    let s := if cls = 3 then s
      else
        let s := if old.phase = .active then s else interrupt causeFault s
        faultEvent src new s
    if cls ≤ 1 then
      let s := traceTrigger cls 2 s
      faultLevel { s with flt := { s.flt with faultnPulse := true } }
    else s

/-- Raises a fault source. -/
def raiseFault (src detail : Nat) (s : State) : State := raiseWith src detail false s

/-- Ends the condition of a source: class C returns to IDLE, classes A and B latch as ENDED (R538, R539). -/
def endFault (src : Nat) (s : State) : State :=
  let old := faultRecord s src
  if old.phase = .active then
    let new := { old with phase := if sourceClass src = some 2 then RecordPhase.idle else .ended }
    let s := { s with flt := { s.flt with records := Tab.put s.flt.records src new } }
    faultLevel (faultEvent src new s)
  else s

/-- A class-B report whose condition is over as soon as it is made: the record latches as ENDED. -/
def reportFault (src detail : Nat) (s : State) : State := endFault src (raiseFault src detail s)

/-- A class-B report that may be injected (R546). -/
def reportWith (src detail : Nat) (injected : Bool) (s : State) : State := endFault src (raiseWith src detail injected s)

/-! ## Injections (R545, R546 of 16) -/

/-- Takes one check of the injection pending on a checker, if it names this place; it is spent after its count (R545). -/
def takeInjection (checker : Nat) (here : Injection → Bool) (s : State) : Option Injection × State :=
  match Tab.get s.flt.injections checker with
  | none => (none, s)
  | some i =>
    if here i then
      (some i, { s with flt := { s.flt with
        injections := if i.count ≤ 1 then Tab.del s.flt.injections checker
          else Tab.put s.flt.injections checker { i with count := i.count - 1 } } })
    else (none, s)

/-! ## Sessions -/

/-- The session with a handle. -/
def findSession (s : State) (h : Nat) : Option Session := s.fol.sessions.find? (fun x => x.handle == h)

/-- Principal and role code of a session for an audit entry: 0xFF and 0 if there is none (R273). -/
def auditActor (s : State) (h : Nat) : Nat × Nat :=
  match findSession s h with
  | some x => (x.principal, x.role.code)
  | none => (0xFF, 0)

end Sys2Proof.Machine
end

