-- ==== Sys2Proof/Machine/Operands.lean ====
section
/-!
DEFINITION. Operand forms of the commands: the request header and payload, field checks in offset order, statuses and
replies, and the command descriptions of each chapter's command tables. Chapter 05 (R120 to R127) of the spec.
-/

namespace Sys2Proof

/-! ## Header flags and payload (R120, R122) -/

/-- ASYNC flag. -/
def Request.isAsync (rq : Request) : Bool := rq.flags.testBit 0
/-- URGENT flag. -/
def Request.isUrgent (rq : Request) : Bool := rq.flags.testBit 1
/-- DRYRUN flag. -/
def Request.isDry (rq : Request) : Bool := rq.flags.testBit 2
/-- The payload bytes the header's length names; bytes beyond it are ignored, bytes never written are zero (R120). -/
def Request.args (rq : Request) : Bytes := Machine.pad rq.length rq.payload
/-- The request came over UDP. -/
def Request.isUdp (rq : Request) : Bool :=
  match rq.via with
  | .udp _ => true
  | .mailbox _ => false

/-- The request as the 256 B request area holds it (R117, R120). -/
def Request.bytes (opcode : Nat) (rq : Request) : Bytes :=
  Machine.le 2 opcode ++ Machine.le 2 rq.tag ++ Machine.le 2 rq.length ++ Machine.le 2 rq.flags ++ Machine.le 4 rq.session ++ Machine.le 4 rq.reserved ++
    Machine.pad 240 rq.payload

end Sys2Proof

namespace Sys2Proof.Machine

/-- Reads a request from the bytes of a request area: opcode and request (R120). -/
def parseRequest (via : Via) (b : Bytes) : Nat × Request :=
  (rd b 0 2, { via := via, tag := rd b 2 2, length := rd b 4 2, flags := rd b 6 2, session := rd b 8 4,
               reserved := rd b 12 4, payload := slice b 16 240 })

/-! ## Status codes (R126) -/

def stOk : Nat := 0x00
def stAccepted : Nat := 0x01
def stBusy : Nat := 0x02
def stBusyUpdate : Nat := 0x03
def stBadOpcode : Nat := 0x10
def stBadLength : Nat := 0x11
def stBadField : Nat := 0x12
def stOutOfRange : Nat := 0x13
def stDeniedRole : Nat := 0x20
def stDeniedSeal : Nat := 0x21
def stDeniedLifecycle : Nat := 0x22
def stDeniedEpoch : Nat := 0x23
def stNotReady : Nat := 0x30
def stInSelfTest : Nat := 0x31
def stResourceExhausted : Nat := 0x32
def stFaulted : Nat := 0x40
def stStandby : Nat := 0x41
def stInternal : Nat := 0x7F

/-! ## Checks -/

/-- A payload check: offset in the payload, status where it fails, and whether it holds. -/
abbrev Check := Nat × Nat × Bool

/-- Of two failed checks the one at the lower offset, the first on a tie. -/
def earlier (a b : Check) : Check := if b.1 < a.1 then b else a

/-- The failed check whose field stands first in the payload (step 12 of R124), as status and detail: the field's offset from the
start of the request (R125). -/
def firstFail (cs : List Check) : Option (Nat × Nat) :=
  match cs.filter (fun c => !c.2.2) with
  | [] => none
  | c :: rest =>
    let x := rest.foldl earlier c
    some (x.2.1, x.1 + 16)

/-- A reserved field of `n` bytes reads zero, or BAD_FIELD (R4 of 00). -/
def resv (p : Bytes) (off n : Nat) : Check := (off, stBadField, rd p off n == 0)

/-- A field value lies in its range, or OUT_OF_RANGE (R620 of 00). -/
def inRange (off : Nat) (ok : Bool) : Check := (off, stOutOfRange, ok)

/-- A field is consistent, or BAD_FIELD. -/
def field (off : Nat) (ok : Bool) : Check := (off, stBadField, ok)

/-! ## Replies and command descriptions -/

/-- A final reply: status, detail, payload. `post` is what happens once the response has been sent. -/
structure Reply where
  status : Nat
  detail : Nat := 0
  payload : Bytes := []
  post : State → State := id

/-- What a command's body answers. -/
inductive Answer
  /-- a final status at once -/
  | final (r : Reply) (s : State)
  /-- ACCEPTED: the completion follows as an event; `dry` is the payload a DRYRUN request is answered with (R122) -/
  | accepted (dry : Bytes) (s : State)
  /-- no response yet: the module forms it when what the command started has ended (R536 of 15) -/
  | later (s : State)

/-- What a body is given besides the state: the request, its session, its reference, and whether it is a dry run. -/
structure Ctx where
  rq : Request
  sess : Option Session
  ref : Nat
  dry : Bool

/-- Payload of a context's request. -/
def Ctx.p (c : Ctx) : Bytes := c.rq.args
/-- Role of a context's session. -/
def Ctx.role (c : Ctx) : Option Role := c.sess.map (·.role)
/-- The session is a WARDEN session. -/
def Ctx.warden (c : Ctx) : Bool := c.role == some .warden
/-- Principal and role code for an audit entry (R273). -/
def Ctx.actor (c : Ctx) : Nat × Nat :=
  match c.sess with
  | some x => (x.principal, x.role.code)
  | none => (0xFF, 0)

/-- Answers OK with a payload. -/
def okWith (payload : Bytes) (s : State) : Answer := .final { status := stOk, payload := payload } s
/-- Answers a status that names a failure. -/
def fail (status detail : Nat) (s : State) : Answer := .final { status := status, detail := detail } s
/-- Runs the checks; the first failure in offset order is the answer. -/
def checked (cs : List Check) (s : State) (k : Answer) : Answer :=
  match firstFail cs with
  | some (st, d) => fail st d s
  | none => k

/-- Role columns (R130). -/
inductive RoleColumn
  | none | reader | operator | warden | metrologist | service | wardenOrService
  deriving DecidableEq, Repr

/-- The roles that satisfy a Role column (R130). -/
def RoleColumn.satisfied : RoleColumn → Role → Bool
  | .none, _ => true
  | .reader, _ => true
  | .operator, r => r == .operator || r == .warden
  | .warden, r => r == .warden
  | .metrologist, r => r == .metrologist
  | .service, r => r == .service
  | .wardenOrService, r => r == .warden || r == .service

/-- DENIED_ROLE detail of a Role column (R125). -/
def RoleColumn.code : RoleColumn → Nat
  | .none => 0 | .reader => 1 | .operator => 2 | .warden => 3 | .metrologist => 4 | .service => 5
  | .wardenOrService => 3

/-- A command's description: the columns of its table and the conditions of R124's steps. -/
structure Cmd where
  opcode : Nat
  /-- Role column, which for some commands depends on the payload -/
  role : Bytes → RoleColumn
  async : Bool := false
  /-- payload sizes the command takes -/
  size : Nat
  sizeOk : Nat → Bytes → Bool := fun n _ => n == size
  dryrun : Bool := false
  /-- it takes or checks data over a stream channel, so that DRYRUN still receives the pages (R122) -/
  stream : Bool := false
  /-- life-cycle states in which it is served -/
  lifecycle : Lifecycle → Bool := fun l => l != .scrapped
  /-- its subsystem is being live-updated (R124 step 7) -/
  updating : State → Bytes → Bool := fun _ _ => false
  /-- accepted over UDP in clear, with session 0 (R148) -/
  clear : Bool := false
  /-- a standby refuses it (R127) -/
  standby : Bool := false
  /-- the safe state blocks it (R127) -/
  faulted : Bytes → Bool := fun _ => false
  /-- payload checks and effect (R124 step 12) -/
  body : Ctx → State → Answer

/-! ## Validation (R124) -/

/-- A session is valid for the transport of the request and authenticated (R124 step 4, R132). -/
def sessionFor (s : State) (rq : Request) : Option Session :=
  match findSession s rq.session with
  | some x => if x.udp.isSome == rq.isUdp && !x.pending then some x else none
  | none => none

/-- Completion entries held or reserved: 256 of the queue's entries (R145). -/
def completionsHeld (s : State) : Nat :=
  s.fol.outstanding.length + s.fol.events.countP (fun e => e.completion)

/-- Requests of a session not answered yet (R148): its asynchronous commands outstanding, its requests that wait to be taken, and
its synchronous requests that wait for an engine's test (R536 of 15). -/
def sessionOutstanding (s : State) (h : Nat) : Nat :=
  s.fol.outstanding.countP (fun o => o.session == h) + s.fol.waiting.countP (fun w => w.request.session == h) +
    (s.vlt.engines.flatten.flatMap (·.waiters)).countP (fun w => w.1.session == h && !w.1.isAsync)

/-- MET_, FIO_, SAF_ and CHG_ commands are refused while GL-F switches (R598 of 18). -/
def glfUpdating (s : State) (_ : Bytes) : Bool := s.svc.phase == .glf

/-- Steps 1 to 11 of R124: the first failing status with its detail. -/
def validate (c : Cmd) (w : Waiting) (s : State) : Option (Nat × Nat) :=
  let rq := w.request
  let p := rq.args
  let isAsync := c.async || rq.isAsync
  if 240 < rq.length then some (stBadLength, 4)
  else if 8 ≤ rq.flags then some (stBadField, 6)
  else if rq.reserved ≠ 0 then some (stBadField, 12)
  else if (c.role p ≠ .none || (rq.isUdp && !c.clear)) && (sessionFor s rq).isNone then some (stDeniedRole, 0)
  else if !c.lifecycle s.fol.lifecycle then some (stDeniedLifecycle, s.fol.lifecycle.code)
  else if !(match sessionFor s rq with
            | some x => (c.role p).satisfied x.role
            | none => c.role p == .none) then some (stDeniedRole, (c.role p).code)
  else if c.updating s p then some (stBusyUpdate, 0)
  else if !c.sizeOk rq.length p then some (stBadLength, 4)
  else if rq.isDry && !c.dryrun then some (stBadField, 6)
  else if isAsync && s.fol.outstanding.any (fun o => o.session == rq.session && o.tag == rq.tag) then some (stBadField, 2)
  else if w.overUrgent then some (stBusy, 4)
  else if w.overQueue || (rq.isUdp && 16 ≤ sessionOutstanding s rq.session) then some (stBusy, 2)
  else if isAsync && 256 ≤ completionsHeld s then some (stBusy, 3)
  else if c.standby && s.duty.role == .standby then some (stStandby, 0)
  else if s.flt.safe && c.faulted p then some (stFaulted, 0)
  else none

/-- Lexicographic order of dispatch places. -/
def keyBefore : List Nat → List Nat → Bool
  | a :: as, b :: bs => if a < b then true else if b < a then false else keyBefore as bs
  | _, _ => false

/-- The calibration that window `w` is corrected and counted with: the one active at tick `w` (R239 of 08). -/
def calibAt (s : State) (w : Nat) : CalRecord :=
  match s.met.calibOld.find? (fun e => decide (w < e.1)) with
  | some e => e.2
  | none => s.met.calib

end Sys2Proof.Machine
end

