-- ==== Sys2Proof/Machine/Streams.lean ====
section
/-!
DEFINITION. The stream port: pages to the host and from the host, transfers, abandonment. Chapter 05 (R136 to R142).
-/

namespace Sys2Proof.Machine

/-- Channel `c` of the stream port. -/
def chan (s : State) (c : Nat) : Channel := s.host.channels.getD c {}

/-- Changes channel `c`. -/
def setChan (c : Nat) (f : Channel → Channel) (s : State) : State :=
  { s with host := { s.host with channels := modAt s.host.channels c f } }

/-- Bytes of a page: the 32 B header of R137 and the body, as a frame of 4,096 B holds them. -/
def pageBytes (c transferId : Nat) (p : Page) : Bytes :=
  let head := le 4 p.seq ++ le 1 c ++ le 1 (p.last.toNat + 2 * p.requeueOf.isSome.toNat) ++ le 2 p.body.length ++
    le 4 transferId ++ le 4 (p.requeueOf.getD 0) ++ zeros 8
  pad 4096 (head ++ le 4 (crc32 (head ++ p.body)) ++ zeros 4 ++ p.body)

/-- transfer_id of a channel's pages: 0 on channel 0 (R137). -/
def transferIdOf (ch : Channel) : Nat :=
  match ch.transfer with
  | some t => t.transferId
  | none => 0

/-- Frames a channel's producer may fill: 32 frames in PULL, the ring's buffers in PUSH (R136, R141). -/
def frameCount (ch : Channel) : Nat :=
  match ch.push with
  | some r => r.pages
  | none => 32

/-- The frame of the next page is free: no page not yet acknowledged lies in it (R136). -/
def frameFree (ch : Channel) : Bool :=
  ch.pages.all (fun p => p.seq % frameCount ch != ch.nextSeq % frameCount ch)

/-- Whether a channel may produce now: channels 1 to 7 are suspended in Vigil (R142). -/
def mayProduce (ch : Channel) : Bool := !ch.suspended && !ch.down && frameFree ch

/-- Puts one page into its frame, or into the host's ring by bus master; the new HEAD goes to the ring's head address once the page
is whole (R136, R141); then the STREAM cause is set. -/
def placePage (c : Nat) (p : Page) (s : State) : State :=
  let ch := chan s c
  let p := { p with seq := ch.nextSeq }
  let s := setChan c (fun ch => { ch with pages := ch.pages ++ [p], nextSeq := (ch.nextSeq + 1) % 2 ^ 32,
                                          head := (ch.head + 1) % 2 ^ 32 }) s
  let s := match ch.push with
    | some r =>
      { s with host := { s.host with
          busWrites := (c, r.base + 4096 * (p.seq % r.pages), p.seq) :: s.host.busWrites
          headWrites := (c, r.headAddr, (ch.head + 1) % 2 ^ 32) :: s.host.headWrites } }
    | none => s
  interrupt (8 + c) s

/-- Moves waiting pages into free frames, oldest first. -/
def pumpPages (c : Nat) : List Page → State → State
  | [], s => s
  | p :: ps, s =>
    if mayProduce (chan s c) then
      pumpPages c ps (placePage c p (setChan c (fun ch => { ch with waiting := ch.waiting.drop 1 }) s))
    else s

/-- Fills free frames of channel `c` from its waiting pages. -/
def pump (c : Nat) (s : State) : State := pumpPages c (chan s c).waiting s

/-- Produces a page of a to-host channel, in order behind those that wait for a frame. -/
def producePage (c : Nat) (p : Page) (s : State) : State :=
  pump c (setChan c (fun ch => { ch with waiting := ch.waiting ++ [p] }) s)

/-- Splits bytes into page bodies of at most 4,064 B (R137), keeping the given records whole: a record that does not fit
the open body starts the next one (R324 of 09, R618 of 18). -/
def packRecords : List Bytes → Bytes → List Bytes
  | [], cur => if cur.isEmpty then [] else [cur]
  | r :: rs, cur =>
    if cur.length + r.length ≤ 4064 then packRecords rs (cur ++ r)
    else if cur.isEmpty then r :: packRecords rs []
    else cur :: packRecords rs r

/-- Produces all bodies on a channel, the last one flagged (R137). -/
def produceAll (c : Nat) : List Bytes → State → State
  | [], s => s
  | [b], s => producePage c { seq := 0, body := b, last := true } s
  | b :: bs, s => produceAll c bs (producePage c { seq := 0, body := b } s)

/-- A channel from 1 to 7 is closed, with no transfer on it, so that a command may open it (R136). -/
def channelIdle (s : State) (c : Nat) : Bool := (chan s c).dir == .closed

/-- The direction a channel's registers and frames have now: closed after a reset of the endpoint until it is read (R150). -/
def dirNow (ch : Channel) : StreamDir := if ch.down then .closed else ch.dir

/-- Opens a channel for the transfer of a command (R136): counts start again at 0. -/
def openChannel (c : Nat) (dir : StreamDir) (t : Transfer) (s : State) : State :=
  setChan c (fun ch => { ({} : Channel) with
    dir := dir
    transfer := some t
    autoack := ch.autoack
    push := ch.push
    suspended := s.pwr.mode == .vigil && 0 < c }) s

/-- Closes a channel at the end of its transfer. -/
def closeChannel (c : Nat) (s : State) : State :=
  setChan c (fun ch => { ch with dir := .closed, transfer := none, frames := [], waiting := [], held := [], down := false }) s

/-- A to-host transfer: opens the channel and produces its bodies; an empty transfer is one empty last page. -/
def sendTransfer (c : Nat) (t : Transfer) (bodies : List Bytes) (s : State) : State :=
  produceAll c (if bodies.isEmpty then [[]] else bodies) (openChannel c .toHost t s)

/-- Records a host access error (R116). -/
def hostError (code offset : Nat) (s : State) : State :=
  interrupt causeHostErr { s with host := { s.host with
    errCode := code, errOffset := offset % 2 ^ 16, errCount := cap 255 (s.host.errCount + 1) } }

/-- Re-queues a page whole as a new page that names its original (R139, R141). -/
def requeuePage (c : Nat) (p : Page) (s : State) : State :=
  producePage c { p with requeueOf := some p.seq, pinned := false, acked := false } s

/-- Abandons a page: counted as not delivered, its frame freed, ABANDONED incremented, the body re-queued whole, and
STREAM_ABANDON queued (R139, R141, R143). -/
def abandonPage (c : Nat) (p : Page) (s : State) : State :=
  let ch := chan s c
  let s := setChan c (fun ch => { ch with
    pages := ch.pages.filter (fun q => q.seq != p.seq), abandoned := cap 0xFFFF (ch.abandoned + 1) }) s
  let s := interrupt (8 + c) s
  let s := raiseEvent 0x0105 c true (le 4 p.seq ++ le 4 (transferIdOf ch)) s
  requeuePage c p s

/-- Counts from `a` up to `b`; they wrap at 2^32 (R138). -/
def countTo (a b : Nat) : Nat := (b + 2 ^ 32 - a) % 2 ^ 32

/-- Acknowledges every page below `t` of a to-host channel (R139); a transfer ends once no page of it, re-queued copies among them, is
left to acknowledge. -/
def acknowledge (c t : Nat) (s : State) : State :=
  let ch := chan s c
  let below := fun (p : Page) => decide (countTo ch.tail p.seq < countTo ch.tail t)
  let s := setChan c (fun ch => { ch with pages := ch.pages.filter (fun p => !below p), tail := t }) s
  let s := if 0 < c && ch.waiting.isEmpty && ch.pages.all below then closeChannel c s else pump c s
  interrupt (8 + c) s

/-- One page of a from-host channel as its frame holds it is good: CRC and page_seq (R140). -/
def pageGood (seq : Nat) (b : Bytes) : Bool :=
  let len := rd b 6 2
  rd b 0 4 == seq && len ≤ 4064 && rd b 24 4 == crc32 (slice b 0 24 ++ slice b 32 len)

/-- Accepts the committed page `head` of a from-host channel, or rejects it whole (R140). Answers whether it was good. -/
def acceptPage (c : Nat) (s : State) : Bool × State :=
  let ch := chan s c
  let b := (Tab.getD ch.frames (ch.head % 32) {}).data
  if pageGood ch.head b then
    (true, setChan c (fun ch => { ch with
      head := (ch.head + 1) % 2 ^ 32
      frames := Tab.del ch.frames (ch.head % 32)
      transfer := ch.transfer.map (fun t => { t with
        data := t.data ++ slice b 32 (rd b 6 2), pages := t.pages + 1, ended := t.ended || (rd b 5 1).testBit 0 }) }) s)
  else
    (false, setChan c (fun ch => { ch with tail := ch.head, frames := Tab.del ch.frames (ch.head % 32) }) s)

/-- Accepts up to `n` committed pages in order, stopping at a bad one. -/
def acceptPages (c : Nat) : Nat → State → State
  | 0, s => s
  | n + 1, s =>
    match acceptPage c s with
    | (true, s) => acceptPages c n s
    | (false, s) => s

/-- Pages a transfer of `len` bytes takes: ⌈len ÷ 4,064⌉ (R279 of 08 and alike). -/
def pagesOf (len : Nat) : Nat := ceilDiv len 4064

/-- A from-host transfer is complete: all its pages, or one flagged as the last, have been accepted. -/
def transferComplete (ch : Channel) : Bool :=
  match ch.transfer with
  | some t => ch.dir == .fromHost && (t.ended || pagesOf t.expected ≤ t.pages)
  | none => false

/-- A channel is read again after a reset of the endpoint: its unacknowledged pages are re-queued whole (R150; log 40). -/
def resumeChannel (c : Nat) (s : State) : State :=
  let held := (chan s c).held
  let s := setChan c (fun ch => { ch with held := [], down := false }) s
  held.foldl (fun s p => producePage c p s) s

end Sys2Proof.Machine
end

