-- ==== Sys2Proof/Machine/Envelope.lean ====
section
/-!
DEFINITION. Serving a request: taking it, validating it, running its body, answering it; arming a descriptor generation.
Chapters 05 (R118 to R126, R148 to R150) and 01 (R12 to R17, R621) of the spec.
-/

namespace Sys2Proof.Machine

/-! ## Responses -/

/-- A request of a datagram is answered in clear: it came in clear and failed, or its session is not authenticated (R148, R154). -/
def answersInClear (w : Waiting) (status : Nat) (s : State) : Bool :=
  (w.inClear && status != stOk) ||
    (match findSession s w.request.session with
     | some x => x.pending
     | none => true)

/-- Writes a response: into the mailbox, whose DONE bit and cause follow, or as a datagram that is kept for repeats
(R118, R119, R148). A request whose mailbox was lost is answered by ORPHAN_COMPLETION (R150). -/
def respond (opcode : Nat) (w : Waiting) (status detail : Nat) (payload : Bytes) (s : State) : State :=
  let rq := w.request
  let body := responseBytes opcode rq.tag status detail payload s
  match rq.via with
  | .mailbox k =>
    if w.orphan || 32 ≤ k then raiseEvent 0x0104 rq.session false body s
    else
      interrupt (k / 4) { s with host := { s.host with
        mailboxes := modAt s.host.mailboxes k (fun m => { m with response := body })
        owner := s.host.owner &&& ~~~ (BitVec.ofNat 32 (2 ^ k))
        done := s.host.done ||| BitVec.ofNat 32 (2 ^ k) } }
  | .udp seq =>
    if answersInClear w status s then
      { s with fol := { s.fol with
          datagrams := { peer := w.peer, bytes := datagramBytes none 0 1 seq body } :: s.fol.datagrams } }
    else
      let s := sendDatagram rq.session 1 body s
      { s with fol := { s.fol with
          sessions := s.fol.sessions.map (fun x =>
            if x.handle == rq.session then
              { x with udp := x.udp.map (fun u => { u with cache := ((seq, body) :: u.cache).take 64 }) }
            else x) } }

/-- Transport code of a COMMAND trace record (R604). -/
def transportCode (rq : Request) : Nat := if rq.isUdp then 1 else 0

/-- The COMMAND trace record of an answered request, where enabled (R604); its duration is a free value. -/
def traceCommand (opcode : Nat) (rq : Request) (sess : Option Session) (status detail : Nat) (s : State) : State :=
  if s.svc.enable.testBit 1 then
    let d := draw 2 (2 ^ 32) s
    let who := match sess with
      | some x => (x.principal, x.role.code)
      | none => (0xFF, 0)
    traceWrite 4 opcode (le 2 rq.tag ++ le 1 status ++ le 1 detail ++ le 1 (transportCode rq) ++ le 1 who.1 ++
      le 1 who.2 ++ zeros 1 ++ le 4 d.1 ++ le 4 rq.session) d.2
  else s

/-- Answers a request and traces it. -/
def answer (opcode : Nat) (w : Waiting) (status detail : Nat) (payload : Bytes) (s : State) : State :=
  let sess := findSession s w.request.session
  traceCommand opcode w.request sess status detail (respond opcode w status detail payload s)

/-! ## Serving -/

/-- Notes a command of a session: its idle time starts again (R132). -/
def touchSession (h : Nat) (s : State) : State :=
  { s with fol := { s.fol with
      sessions := s.fol.sessions.map (fun x => if x.handle == h then { x with lastUsed := s.time.uptime } else x) } }

/-- Registers an asynchronous command under the next reference. -/
def registerCommand (opcode : Nat) (rq : Request) (s : State) : State :=
  { s with fol := { s.fol with
      nextRef := s.fol.nextRef + 1
      outstanding := s.fol.outstanding ++ [{ ref := s.fol.nextRef, session := rq.session, tag := rq.tag, opcode := opcode }] } }

/-- Withdraws a registration, as when the command ends at once with a final status. -/
def dropCommand (ref : Nat) (s : State) : State :=
  { s with fol := { s.fol with outstanding := s.fol.outstanding.filter (fun o => o.ref != ref) } }

/-- A response's payload goes only with OK and ACCEPTED (R121). -/
def payloadFor (status : Nat) (payload : Bytes) : Bytes := if status ≤ stAccepted then payload else []

/-- Runs a validated request: its body, then its response; ASYNC on a synchronous command that step 12 of R124 does not reject
answers ACCEPTED and completes by event; DRYRUN has no effect (R122, R124). -/
def runCommand (c : Cmd) (w : Waiting) (s : State) : State :=
  let rq := w.request
  let s := if w.inClear then s else touchSession rq.session s
  let ref := s.fol.nextRef
  let ctx : Ctx := { rq := rq, sess := findSession s rq.session, ref := ref, dry := rq.isDry }
  match c.body ctx (registerCommand c.opcode rq s) with
  | .final r t =>
    let t := if rq.isDry then s else t
    if rq.isAsync && !c.async && !rq.isDry && (r.status = stOk || r.status = stInternal) then
      let t := answer c.opcode w stAccepted 0 [] t
      r.post (complete ref r.status r.detail (payloadFor r.status r.payload) t)
    else
      let t := answer c.opcode w r.status r.detail (payloadFor r.status r.payload) (dropCommand ref t)
      if rq.isDry then t else r.post t
  | .accepted dry t =>
    if rq.isDry && !c.stream then answer c.opcode w stOk 0 dry s
    else answer c.opcode w stAccepted 0 [] t
  | .later t => if rq.isAsync then answer c.opcode w stAccepted 0 [] t else dropCommand ref t

/-- Gives the response of a synchronous command that was held back: by event if it was asked for so (R122). -/
def answerLater (opcode : Nat) (rq : Request) (ref status detail : Nat) (payload : Bytes) (s : State) : State :=
  if rq.isAsync then complete ref status detail (payloadFor status payload) s
  else answer opcode { opcode := opcode, request := rq } status detail (payloadFor status payload) s

/-- Serves a request that Folset has taken: the first failing status of R124, or the command. -/
def serve (c : Cmd) (w : Waiting) (s : State) : State :=
  match validate c w s with
  | some (st, d) => answer c.opcode w st d [] s
  | none => runCommand c w s

/-- Folset takes requests now (R114, R151): it is ready and not quiescing for an update. -/
def taking (s : State) : Bool :=
  s.fol.ready && !s.fol.restarting && s.svc.phase != .quiescing && s.svc.phase != .switched

/-- URGENT requests that wait (R122). -/
def urgentWaiting (s : State) : Nat := s.fol.waiting.countP (fun w => w.request.isUrgent)

/-- Queues a request in the order of receipt, URGENT ones ahead of the others (R119, R122). -/
def enqueue (w : Waiting) (s : State) : State :=
  let w := { w with overUrgent := w.request.isUrgent && decide (4 ≤ urgentWaiting s)
                    overQueue := !s.fol.waiting.isEmpty && decide (Config.queueDepth ≤ s.fol.waiting.length) }
  let urgent := s.fol.waiting.filter (fun x => x.request.isUrgent)
  let others := s.fol.waiting.filter (fun x => !x.request.isUrgent)
  { s with fol := { s.fol with
      waiting := if w.request.isUrgent then urgent ++ [w] ++ others else urgent ++ others ++ [w] } }

/-- A request of this opcode is served now: Folset takes requests, or it is SYS_IDENTIFY, which is served throughout a live update
too (R152). -/
def serves (opcode : Nat) (s : State) : Bool :=
  taking s || (opcode == 0x0100 && !s.fol.restarting && (s.fol.ready || s.fol.updating))

/-- A request of this command arrives at Folset: served at once or queued. -/
def arrive (c : Cmd) (w : Waiting) (s : State) : State :=
  if serves c.opcode s then serve c w s else enqueue w s

/-! ## Mailboxes -/

/-- State of a mailbox (R118). -/
inductive MailboxPhase
  | free | busy | done
  deriving DecidableEq, Repr

/-- FREE is OWNER 0 with DONE 0, BUSY is OWNER 1, DONE is OWNER 0 with DONE 1 (R118). -/
def mailboxPhase (s : State) (k : Nat) : MailboxPhase :=
  if s.host.owner.getLsbD k then .busy else if s.host.done.getLsbD k then .done else .free

/-- BAR0 offset of mailbox `k` (R117). -/
def mailboxBase (k : Nat) : Nat := 0x1000 + 0x200 * k

/-- Writes bytes into the request area of a mailbox, or records host error 1 while Folset owns it (R118). -/
def writeRequest (k off : Nat) (data : Bytes) (s : State) : State :=
  if mailboxPhase s k = .busy then hostError 1 (mailboxBase k + off) s
  else
    { s with host := { s.host with
        mailboxes := modAt s.host.mailboxes k (fun m =>
          let area := pad 256 m.request
          { m with request := (area.take off ++ data ++ area.drop (off + data.length)).take 256 }) } }

/-- Takes a mailbox for Folset: DONE cleared, OWNER set (R118). -/
def takeMailbox (k : Nat) (s : State) : State :=
  { s with host := { s.host with
      owner := s.host.owner ||| BitVec.ofNat 32 (2 ^ k)
      done := s.host.done &&& ~~~ (BitVec.ofNat 32 (2 ^ k)) } }

/-- The host reaches BAR0: the endpoint is powered, its link is up, and it has been configured (R65 of 03, R111). -/
def pcieUp (s : State) : Bool := s.pwr.vigilOn && s.host.linkTraining && !s.host.configRetry

/-- A datagram of an authenticated UDP session is executed once within the replay window; a repeat gets its cached response
(R148). Before authentication a request comes in clear; SYS_SESSION_AUTH finds there that the session it names is gone (R154). -/
def udpArrive (opcode seq : Nat) (rq : Request) (arrives : Waiting → State → State) (s : State) : State :=
  let w : Waiting := { opcode := opcode, request := rq }
  match findSession s rq.session with
  | none => if rq.session = 0 || opcode = 0x0102 then arrives { w with inClear := true } s else s
  | some x =>
    match x.udp with
    | none => s
    | some u =>
      if x.pending then arrives { w with inClear := true, peer := u.peer } s
      else if u.seen.contains seq || seq + 64 ≤ u.highest then
        match u.cache.find? (fun e => e.1 == seq) with
        | some e => sendDatagram rq.session 1 e.2 s
        | none => s
      else
        let hi := max u.highest seq
        arrives w { s with fol := { s.fol with
          sessions := s.fol.sessions.map (fun y =>
            if y.handle == rq.session then
              { y with udp := some { u with highest := hi, seen := (seq :: u.seen).filter (fun q => hi < q + 64) } }
            else y) } }

/-- The host sends a command: through a mailbox it writes the request and rings; over UDP the datagram is received and
authenticated as one of its session (R118, R119, R148). While the VIGIL domain is off the host reaches nothing. -/
def submit (c : Cmd) (rq : Request) (s : State) : State :=
  if !s.pwr.vigilOn then s
  else
    match rq.via with
    | .mailbox k =>
      if 32 ≤ k || !pcieUp s then s
      else if mailboxPhase s k = .busy then hostError 2 0x8000 (hostError 1 (mailboxBase k) s)
      else arrive c { opcode := c.opcode, request := rq } (takeMailbox k (writeRequest k 0 (rq.bytes c.opcode) s))
    | .udp seq => udpArrive c.opcode seq rq (arrive c) s

/-! ## Arming a generation (R12 to R17, R621 of 01) -/

/-- The table a generation belongs to: kind and place within the kind. -/
def GenTable.key : GenTable → Nat × Nat
  | .workload _ => (0, 0)
  | .param b _ => (1, b)
  | .civil _ => (2, 0)
  | .tariff _ => (3, 0)
  | .calib _ => (4, 0)
  | .txPlan _ => (5, 0)
  | .plcProfile i _ => (6, i)
  | .rfNet b _ => (7, b)
  | .balModel _ => (8, 0)
  | .rules i _ => (9, i)
  | .chgPoint i _ => (10, i)
  | .chgPath i _ => (11, i)
  | .chgBus i _ => (12, i)
  | .lsConfig i _ => (13, i)
  | .safInput i _ => (14, i)

/-- Table kinds that activate at a round start (R14, R622). -/
def GenTable.roundBound : GenTable → Bool
  | .workload _ => true
  | .civil _ => true
  | .tariff _ => true
  | .balModel _ => true
  | .rules _ _ => true
  | _ => false

/-- Field configuration, which activates on its tick in Vigil too (R17). -/
def GenTable.fieldConfig : GenTable → Bool
  | .chgPoint _ _ => true
  | .chgPath _ _ => true
  | .chgBus _ _ => true
  | .lsConfig _ _ => true
  | .safInput _ _ => true
  | _ => false

/-- Ticks between acceptance and the earliest activation (R14). -/
def GenTable.margin : GenTable → Nat
  | .txPlan _ => 5
  | _ => 3

/-- First tick of a round at or after `t` (R7 of 00). -/
def roundStart (t : Nat) : Nat := 1024 * ceilDiv t 1024

/-- Activation tick that an activate_round field asks for; 0 for the earliest. -/
def roundTick (round : Nat) : Nat := 1024 * round

/-- Earliest activation tick of a table armed now (R14). -/
def earliest (t : GenTable) (s : State) : Nat :=
  if t.roundBound then roundStart (now s + t.margin) else now s + t.margin

/-- The activation tick a request names: 0 selects the earliest (R14). Answers none where R14 rejects it. -/
def activationTick (t : GenTable) (asked : Nat) (s : State) : Option Nat :=
  if asked = 0 then some (earliest t s)
  else if asked < earliest t s then none
  else if t.roundBound && asked % 1024 ≠ 0 then none
  else some asked

/-- A pending generation of the same table that can no longer be replaced (R15). -/
def armBusy (t : GenTable) (s : State) : Bool :=
  s.gens.waiting.any (fun g => g.table.key == t.key && decide (g.tick ≤ earliest t s))

/-- Arms a generation: a replaced one is finished, its asynchronous arm with NOT_READY, detail 1 (R15). -/
def armGen (g : PendingGen) (s : State) : State :=
  let old := s.gens.waiting.filter (fun x => x.table.key == g.table.key)
  let s := { s with gens := { s.gens with
    waiting := s.gens.waiting.filter (fun x => x.table.key != g.table.key) ++ [g] } }
  old.foldl (fun s x => match x.ref with
    | some r => complete r stNotReady 1 [] s
    | none => s) s

/-- The next generation number of a table kind. -/
def nextGenNumber (kind : Nat) (s : State) : Nat × State :=
  let n := Tab.getD s.gens.numbers kind 0 + 1
  (n, { s with gens := { s.gens with numbers := Tab.put s.gens.numbers kind n } })

/-- Opens the stream transfer of a command that takes data from the host (R136, R195 of 06). -/
def receiveTransfer (ctx : Ctx) (opcode channel transferId expected crc lenOff crcOff : Nat) (s : State) : State :=
  openChannel channel .fromHost {
    ref := ctx.ref, opcode := opcode, transferId := transferId, request := ctx.rq, dryrun := ctx.dry
    expected := expected, crc := crc, lenOff := lenOff + 16, crcOff := crcOff + 16, startedAt := s.time.uptime } s

/-- Fault found in a table received: offset within its entry and from the start (R125). -/
def tableFault (ref entryOff tableOff : Nat) (s : State) : State :=
  complete ref stBadField (cap 255 (entryOff + 16)) (le 4 tableOff ++ zeros 4) s

end Sys2Proof.Machine
end

