-- ==== Sys2Proof/Machine/Civil.lean ====
section
/-!
DEFINITION. Gliris time, UTC and local civil time. Chapter 04 of the spec (R92 to R94).
-/

namespace Sys2Proof.Machine

/-- End of a leap second announced now: the coming UTC midnight, reckoned with the offset in force after the leap (R93, R109). -/
def announcedLeapEnd (t : Nat) (off : Nat) (leap61 : Bool) : Nat :=
  let utc : Int := (t : Int) - 1000 * off
  let midnight : Int := 86400000 * (utc / 86400000 + 1) + 1000 * off
  (if leap61 then midnight + 1000 else midnight - 1000).toNat

/-- The civil table with the UTC offset and leap that apply now: the grandmaster's while valid, else the table's (R93). -/
def effectiveCivil (s : State) : CivilTable :=
  if s.time.gmUtcValid then
    let off := s.time.gmUtcOffset
    if s.time.gmLeap61 then { s.time.civil with utcOffsetS := off, leapKind := 1, leapEnd := s.time.gmLeapEnd }
    else if s.time.gmLeap59 then { s.time.civil with utcOffsetS := off, leapKind := 2, leapEnd := s.time.gmLeapEnd }
    else { s.time.civil with utcOffsetS := off, leapKind := 0, leapEnd := 0 }
  else s.time.civil

/-- TAI−UTC in seconds at a Gliris time. The ticks of a positive leap second count as 23:59:59, whose rate they take;
a negative leap leaves 23:59:59 out (R93). -/
def taiUtc (c : CivilTable) (t : Nat) : Nat :=
  if c.leapKind = 1 then if c.leapEnd ≤ t + 1000 then c.utcOffsetS + 1 else c.utcOffsetS
  else if c.leapKind = 2 then if c.leapEnd ≤ t then c.utcOffsetS - 1 else c.utcOffsetS
  else c.utcOffsetS

/-- UTC milliseconds since 2020-01-01T00:00:00 UTC at a Gliris time (R92, R93). -/
def utcMs (c : CivilTable) (t : Nat) : Int := (t : Int) - 1000 * (taiUtc c t : Int)

/-- A calendar date. -/
structure Date where
  year : Int
  month : Nat
  day : Nat
  deriving DecidableEq, Repr

/-- The date of a day counted from 2020-01-01. -/
def dateOf (days : Int) : Date :=
  let z := days + 737730
  let era := z / 146097
  let doe := (z - era * 146097).toNat
  let yoe := (doe - doe / 1460 + doe / 36524 - doe / 146096) / 365
  let doy := doe - (365 * yoe + yoe / 4 - yoe / 100)
  let mp := (5 * doy + 2) / 153
  let m := if mp < 10 then mp + 3 else mp - 9
  { year := (yoe : Int) + era * 400 + (if m ≤ 2 then 1 else 0), month := m, day := doy - (153 * mp + 2) / 5 + 1 }

/-- The day counted from 2020-01-01 of a date. -/
def dayOf (d : Date) : Int :=
  let y := if d.month ≤ 2 then d.year - 1 else d.year
  let era := y / 400
  let yoe := (y - era * 400).toNat
  let mp := if 2 < d.month then d.month - 3 else d.month + 9
  let doy := (153 * mp + 2) / 5 + d.day - 1
  let doe := yoe * 365 + yoe / 4 - yoe / 100 + doy
  era * 146097 + (doe : Int) - 737730

/-- Weekday of a day counted from 2020-01-01, a Wednesday: 0 Sunday to 6 Saturday. -/
def weekdayOf (days : Int) : Nat := ((days + 3) % 7).toNat

/-- A year of 366 days. -/
def leapYear (y : Int) : Bool := y % 4 = 0 && (y % 100 ≠ 0 || y % 400 = 0)

/-- Days of a month. -/
def monthDays (y : Int) (m : Nat) : Nat :=
  if m = 2 then (if leapYear y then 29 else 28) else if m = 4 || m = 6 || m = 9 || m = 11 then 30 else 31

/-- The day a daylight rule names in a year: week 1 to 4 of the weekday in the month, or 5 for the last (R109). -/
def ruleDay (y : Int) (month week weekday : Nat) : Int :=
  let first := dayOf { year := y, month := month, day := 1 }
  let shift := (weekday + 7 - weekdayOf first) % 7
  let last := first + monthDays y month - 1
  let back := (weekdayOf last + 7 - weekday) % 7
  if week = 5 then last - back else first + shift + 7 * ((week : Int) - 1)

/-- UTC instant at which daylight time starts in a year (R94). -/
def dstStart (c : CivilTable) (y : Int) : Int :=
  86400000 * ruleDay y c.startMonth c.startWeek c.startWeekday + 60000 * c.startMinute - 60000 * c.stdOffsetMin

/-- UTC instant at which daylight time ends in a year (R94). -/
def dstEnd (c : CivilTable) (y : Int) : Int :=
  86400000 * ruleDay y c.endMonth c.endWeek c.endWeekday + 60000 * c.endMinute - 60000 * c.stdOffsetMin -
    60000 * (c.dstDeltaMin : Int)

/-- The latest of some instants at or before `u`. -/
def latestBefore (u : Int) (l : List Int) : Option Int :=
  l.foldl (fun best x => if x ≤ u then
    match best with
    | some b => some (max b x)
    | none => some x
    else best) none

/-- Daylight time is in force at a UTC instant: the latest start or end instant of this year and the previous one is a
start (R94). -/
def dstInForce (c : CivilTable) (u : Int) : Bool :=
  if c.dstDeltaMin = 0 then false
  else
    let y := (dateOf ((u + 60000 * c.stdOffsetMin) / 86400000)).year
    match latestBefore u [dstStart c y, dstStart c (y - 1)], latestBefore u [dstEnd c y, dstEnd c (y - 1)] with
    | some a, some b => decide (b < a)
    | some _, none => true
    | none, _ => false

/-- Offset of local civil time from UTC in minutes at a UTC instant (R94). -/
def civilOffset (c : CivilTable) (u : Int) : Int :=
  c.stdOffsetMin + (if dstInForce c u then (c.dstDeltaMin : Int) else 0)

/-- Local civil milliseconds since 2020-01-01T00:00:00 local at a Gliris time (R94). -/
def civilMs (c : CivilTable) (t : Nat) : Int := utcMs c t + 60000 * civilOffset c (utcMs c t)

/-- Day, and minute of the day, of local civil time at a Gliris time (R94). -/
def civilOf (c : CivilTable) (t : Nat) : Int × Nat :=
  let m := civilMs c t
  (m / 86400000, ((m % 86400000) / 60000).toNat)

end Sys2Proof.Machine
end

