-- ==== Sys2Proof/Machine/LedgerStore.lean ====
section
/-!
DEFINITION. The ledger store: live halves, writes of open ticks, record layouts, and the frontier record.
Chapters 04 (R99 to R103) and 09 (R285, R286, R309) of the spec.
-/

namespace Sys2Proof.Machine

/-! ## Stamps and live halves (R101, R286) -/

/-- A stamp names a committed tick: not 0, not beyond the frontier, not in the abort list (R101). -/
def stampLive (r : FrontierRecord) (stamp : Nat) : Bool :=
  1 ≤ stamp && stamp ≤ r.frontier && !r.abortList.contains stamp

/-- An account half is valid (R286): its stamp, its CRC, its own account number. -/
def accountHalfValid (r : FrontierRecord) (a : Nat) (h : AccountHalf) : Bool :=
  stampLive r h.stamp && h.good && h.record.number == a

/-- The live half of a pair: the valid half with the larger stamp; true is half A (R101). -/
def liveSide (va vb : Bool) (sa sb : Nat) : Option Bool :=
  if va && vb then some (decide (sb < sa)) else if va then some true else if vb then some false else none

/-- Side of an account's live half. -/
def accountSide (r : FrontierRecord) (a : Nat) (p : AccountPair) : Option Bool :=
  liveSide (accountHalfValid r a p.a) (accountHalfValid r a p.b) p.a.stamp p.b.stamp

/-- The committed record of an account; one never written is UNUSED (R286). -/
def committedAccount (s : State) (a : Nat) : AccountRec :=
  match Tab.get s.led.accounts a with
  | none => { number := a }
  | some p =>
    match accountSide s.led.record a p with
    | some true => p.a.record
    | some false => p.b.record
    | none => { number := a }

/-- The account is marked damaged (R211, R313). -/
def accountDamaged (s : State) (a : Nat) : Bool :=
  match Tab.get s.led.accounts a with
  | some p => p.damaged
  | none => false

/-- A register set half is valid. -/
def localHalfValid (r : FrontierRecord) (h : LocalHalf) : Bool := stampLive r h.stamp && h.good

/-- The committed register set, if one was ever written (R323). -/
def committedLocal (s : State) (set : Nat) : Option LocalRec :=
  match Tab.get s.led.locals set with
  | none => none
  | some p =>
    match liveSide (localHalfValid s.led.record p.a) (localHalfValid s.led.record p.b) p.a.stamp p.b.stamp with
    | some true => some p.a.record
    | some false => some p.b.record
    | none => none

/-- Writes of the open ticks up to `label`, latest tick first. -/
def ticksUpTo (s : State) (label : Nat) : List OpenTick := (s.led.ticks.filter (fun t => t.label ≤ label)).reverse

/-- The first entry under `k` in a list of tables. -/
def firstIn {α : Type} (k : Nat) : List (Table α) → Option α
  | [] => none
  | t :: ts => match Tab.get t k with
    | some v => some v
    | none => firstIn k ts

/-- The account as tick `label` sees it: committed state, overlaid with the writes of open ticks up to it (R104). -/
def accountAt (s : State) (label a : Nat) : AccountRec :=
  (firstIn a ((ticksUpTo s label).map (·.accounts))).getD (committedAccount s a)

/-- The register set as tick `label` sees it. -/
def localAt (s : State) (label set : Nat) : LocalRec :=
  (firstIn set ((ticksUpTo s label).map (·.locals))).getD ((committedLocal s set).getD { set := set })

/-- Notes a message this module sends over the mirror link: type and tick (R553 of 16; log 35). -/
def mirrorSend (kind tick : Nat) (s : State) : State := { s with duty := { s.duty with sent := (kind, tick) :: s.duty.sent } }

/-! ## Faults of the ledger (source 0x42) -/

/-- An open ledger tick by its label. -/
def openTick (s : State) (label : Nat) : Option OpenTick := s.led.ticks.find? (fun t => t.label == label)

/-- RECORD: the duty ships each ledger-store write of its oldest uncommitted tick over the mirror link (R22; R553 of 16; log 35). -/
def shipRecord (label : Nat) (s : State) : State :=
  if s.duty.role = .duty && s.duty.contact then mirrorSend 2 label s else s

/-- Writes an account record into the inactive half of its pair, stamped with the tick (R101). -/
def storeAccount (label a : Nat) (rec : AccountRec) (s : State) : State :=
  let p := Tab.getD s.led.accounts a {}
  let h : AccountHalf := { stamp := label, good := true, record := rec }
  let p := match accountSide s.led.record a p with
    | some true => { p with b := h }
    | _ => { p with a := h }
  { s with led := { s.led with accounts := Tab.put s.led.accounts a p } }

/-- Writes a register set into the inactive half of its pair, stamped with the tick (R101). -/
def storeLocal (label set : Nat) (rec : LocalRec) (s : State) : State :=
  let p := Tab.getD s.led.locals set {}
  let h : LocalHalf := { stamp := label, good := true, record := rec }
  let p := match liveSide (localHalfValid s.led.record p.a) (localHalfValid s.led.record p.b) p.a.stamp p.b.stamp with
    | some true => { p with b := h }
    | _ => { p with a := h }
  { s with led := { s.led with locals := Tab.put s.led.locals set p } }

/-- The tick is the oldest uncommitted one, which writes the store directly (R101). -/
def isOldest (s : State) (label : Nat) : Bool :=
  match s.led.ticks with
  | t :: _ => t.label == label
  | [] => false

/-- Changes an open tick. -/
def setTick (label : Nat) (f : OpenTick → OpenTick) (s : State) : State :=
  { s with led := { s.led with ticks := s.led.ticks.map (fun t => if t.label == label then f t else t) } }

/-- A write of tick `label` to an account: to the store for the oldest tick, otherwise to the shadow (R101). -/
def writeAccount (label a : Nat) (rec : AccountRec) (s : State) : State :=
  let s := setTick label (fun t => { t with accounts := Tab.put t.accounts a rec }) s
  if isOldest s label then shipRecord label (storeAccount label a rec s) else s

/-- A write of tick `label` to a register set (R101). -/
def writeLocal (label set : Nat) (rec : LocalRec) (s : State) : State :=
  let s := setTick label (fun t => { t with locals := Tab.put t.locals set rec }) s
  if isOldest s label then shipRecord label (storeLocal label set rec s) else s

/-- Adds a consequence of a unit to an open tick. -/
def stageFor (label unit : Nat) (c : Consequence) (s : State) : State :=
  setTick label (fun t => { t with out := t.out ++ [(unit, c)] }) s

/-- The unit that stands for an account's and a register set's task among a tick's consequences. -/
def unitAccount (a : Nat) : Nat := 1 + a
def unitLocal (set : Nat) : Nat := 2 ^ 20 + 1 + set

/-- Clears the stamps of a pair's halves that a tick wrote. -/
def AccountPair.clear (label : Nat) (p : AccountPair) : AccountPair :=
  { p with a := { p.a with stamp := if p.a.stamp = label then 0 else p.a.stamp }
           b := { p.b with stamp := if p.b.stamp = label then 0 else p.b.stamp } }
def LocalPair.clear (label : Nat) (p : LocalPair) : LocalPair :=
  { a := { p.a with stamp := if p.a.stamp = label then 0 else p.a.stamp }
    b := { p.b with stamp := if p.b.stamp = label then 0 else p.b.stamp } }

/-- Drops what an unfinished or faulted run of an account's task left in its tick (R183, R185 of 06). -/
def undoAccount (label a : Nat) (s : State) : State :=
  let s := setTick label (fun t => { t with accounts := Tab.del t.accounts a, out := t.out.filter (fun x => x.1 != unitAccount a) }) s
  { s with led := { s.led with accounts := s.led.accounts.map (fun (i, p) => (i, if i = a then p.clear label else p)) } }

/-- Drops what an unfinished or faulted run of a register set's task left in its tick (R183, R185 of 06). -/
def undoLocal (label set : Nat) (s : State) : State :=
  let s := setTick label (fun t => { t with locals := Tab.del t.locals set, out := t.out.filter (fun x => x.1 != unitLocal set) }) s
  { s with led := { s.led with locals := s.led.locals.map (fun (i, p) => (i, if i = set then p.clear label else p)) } }

/-- Drains the shadow of the tick that has become the oldest (R99, R101). -/
def drainOldest (s : State) : State :=
  match s.led.ticks with
  | [] => s
  | t :: _ =>
    let s := t.accounts.foldl (fun s (a, r) => shipRecord t.label (storeAccount t.label a r s)) s
    t.locals.foldl (fun s (k, r) => shipRecord t.label (storeLocal t.label k r s)) s

/-! ## Layouts (R285, R309) -/

/-- The supply byte of an account record (R285). -/
def supplyByte (r : AccountRec) : Nat :=
  r.supply.code + 4 * r.emergency.toNat + 8 * r.deferral.toNat + 16 * r.lowWarned.toNat + 32 * r.hostHold.toNat

/-- State code of an account record. -/
def AccountPhase.code : AccountPhase → Nat
  | .unused => 0 | .active => 1 | .closed => 2

/-- Bytes 0x08 to 0xFB of an account record half (R285). -/
def accountBytes (r : AccountRec) : Bytes :=
  le 4 (r.number + 2 ^ 20) ++
  le 1 (r.phase.code + 4 * r.prepay.toNat + 8 * r.planPending.toNat) ++ le 1 r.plan ++ le 1 (supplyByte r) ++
  le 1 (r.overdue.toNat + 2 * r.rejected.toNat + 4 * r.outage.toNat + 8 * r.keypadLocked.toNat + 16 * r.defaultRated.toNat) ++
  leS 6 r.balance ++ le 2 r.tokenHigh ++ le 8 r.tokenMap ++ leS 6 r.provisional ++ le 1 r.tokenFails ++
  le 1 r.pendingPlan ++ le 8 r.readingWh ++ le 8 r.exportWh ++ le 8 r.readingTick ++ le 8 r.provThrough ++
  leS 4 r.rateW ++ le 4 r.meter ++ le 8 r.allowanceWh ++ le 4 r.allowanceSeq ++ le 4 r.cfrac ++
  pad 144 (r.totals.flatMap (fun (i, e) => le 8 i ++ le 8 e)) ++ le 8 r.lastChange ++ le 4 r.pfrac

/-- Reads an account record from bytes 0x08 onwards of a half (R285); used for restored and copied records. -/
def accountOfBytes (b : Bytes) : AccountRec :=
  let st := rd b 4 1
  let su := rd b 6 1
  let fl := rd b 7 1
  { number := rd b 0 4 % 2 ^ 20
    phase := if st % 4 = 1 then .active else if st % 4 = 2 then .closed else .unused
    prepay := st.testBit 2, planPending := st.testBit 3, plan := rd b 5 1
    supply := if su % 4 = 1 then .offCredit else if su % 4 = 2 then .offHost else .on
    emergency := su.testBit 2, deferral := su.testBit 3, lowWarned := su.testBit 4, hostHold := su.testBit 5
    overdue := fl.testBit 0, rejected := fl.testBit 1, outage := fl.testBit 2, keypadLocked := fl.testBit 3
    defaultRated := fl.testBit 4
    balance := rdS b 8 6, tokenHigh := rd b 14 2, tokenMap := rd b 16 8, provisional := rdS b 24 6
    tokenFails := rd b 30 1, pendingPlan := rd b 31 1, readingWh := rd b 32 8, exportWh := rd b 40 8
    readingTick := rd b 48 8, provThrough := rd b 56 8, rateW := rdS b 64 4, meter := rd b 68 4
    allowanceWh := rd b 72 8, allowanceSeq := rd b 80 4, cfrac := rd b 84 4
    totals := (List.range 9).map (fun i => (rd b (88 + 16 * i) 8, rd b (96 + 16 * i) 8))
    lastChange := rd b 232 8, pfrac := rd b 240 4 }

/-- The 24 B of a demand register as MET_SET_READ gives them; an unconfigured register reads zero. -/
def demandBytes24 : Option DemandReg → Bytes
  | none => zeros 24
  | some d => le 4 d.maximum ++ le 4 d.previous ++ le 8 d.maxEndTick ++ le 1 d.quantity ++ le 1 d.intervalMin ++
    le 1 d.subCount ++ le 1 (d.partialFlag.toNat + 2 * d.irregular.toNat + 4) ++ le 4 d.current

/-- Counter value at the start of the sub-interval that lies at place `m` of the 16 (R309): sub-interval `j` at place
`j` modulo 16. -/
def demandStart (d : DemandReg) (m : Nat) : Int :=
  let k := (d.index.getD 0 + 16 - m) % 16
  if k = 0 then d.runStart else (d.history.getD (k - 1) (0, 0)).1

/-- The 160 B of a demand register in a register set half (R309). -/
def demandBytes160 : Option DemandReg → Bytes
  | none => zeros 160
  | some d => demandBytes24 (some d) ++ le 8 d.runStartTick ++ (List.range 16).flatMap (fun m => leS 8 (demandStart d m))

/-- Bytes 0x000 to 0x3FB of a register set half (R309). -/
def localBytes (stamp : Nat) (r : LocalRec) : Bytes :=
  le 8 stamp ++ le 1 r.set ++
  le 1 (r.unsealed.toNat + 2 * r.gapOpen.toNat + 4 * r.check.toNat + 8 * r.suspect.toNat + 16 * r.missing.toNat +
    32 * r.newEpoch.toNat) ++ le 2 r.epoch ++ le 1 r.plan ++ le 1 r.rateIndex ++ zeros 2 ++
  pad 40 (r.consumed.flatMap (le 8)) ++ pad 40 (r.totals.flatMap (le 8)) ++ zeros 16 ++
  pad 144 (r.tariff.flatMap (fun (i, e) => le 8 i ++ le 8 e)) ++
  pad 640 (r.demand.flatMap demandBytes160) ++
  le 8 r.gapFrom ++ le 8 r.gapTo ++ le 4 r.gapCount ++ zeros 4 ++ le 8 r.unsealedImport ++ le 8 r.unsealedExport ++
  le 8 r.unsealedLast ++ le 4 r.sessionId ++ le 4 r.sessionAccount ++ le 1 r.sessionPlan ++
  le 1 (r.sessionOpen.toNat + 2 * r.finalDue.toNat + 4 * r.postingHeld.toNat) ++ leS 6 r.roundCost ++
  le 4 r.sessionFrac ++ zeros 4 ++ le 8 r.sessionImport ++ le 8 r.sessionExport ++ leS 6 r.sessionDebited ++ zeros 2 ++
  le 8 r.sessionStart ++ zeros 20

/-- Stamp of the live half of a register set. -/
def localStamp (s : State) (set : Nat) : Nat :=
  match Tab.get s.led.locals set with
  | none => 0
  | some p =>
    match liveSide (localHalfValid s.led.record p.a) (localHalfValid s.led.record p.b) p.a.stamp p.b.stamp with
    | some true => p.a.stamp
    | some false => p.b.stamp
    | none => 0

/-- The first 60 B of a frontier record (R102). -/
def frontierBytes (r : FrontierRecord) : Bytes :=
  le 8 r.frontier ++ le 4 r.commitSeq ++ le 4 r.journalHead ++ le 4 r.journalLaps ++ le 1 r.abortList.length ++
    le 1 r.trust.code ++ zeros 2 ++ pad 32 (r.abortList.flatMap (le 8)) ++ zeros 4

/-- Reads a frontier record (R102); valid if its CRC is good. -/
def frontierOfBytes (b : Bytes) : FrontierRecord :=
  { valid := rd b 60 4 == crc32 (slice b 0 60), frontier := rd b 0 8, commitSeq := rd b 8 4, journalHead := rd b 12 4
    journalLaps := rd b 16 4, trust := trustOf (rd b 21 1)
    abortList := ((List.range (rd b 20 1)).map (fun i => rd b (24 + 8 * i) 8)).take 4 }

/-- Of two copies, the one with a valid CRC and the higher commit_seq (R102). -/
def betterRecord (a b : FrontierRecord) : Option FrontierRecord :=
  if a.valid && b.valid then some (if a.commitSeq < b.commitSeq then b else a)
  else if a.valid then some a else if b.valid then some b else none

end Sys2Proof.Machine
end

