-- ==== Sys2Proof/Machine/Tariff.lean ====
section
/-!
DEFINITION. Tariff tables, rate resolution, rate mixes and money arithmetic. Chapter 09 of the spec (R288 to R293, R623).
-/

namespace Sys2Proof.Machine

/-! ## Largest-remainder rounding (R289) -/

/-- How many parts come before part `i` in the order of larger remainders, ties to the lower index. -/
def remainderRank (rems : List Nat) (i : Nat) : Nat :=
  let r := rems.getD i 0
  (List.range rems.length).countP (fun j => r < rems.getD j 0 || (rems.getD j 0 == r && j < i))

/-- Splits a whole number in proportion to weights by largest remainders (R289). Without any weight the whole lies in part
0 (log 18). -/
def splitWhole (total : Nat) (weights : List Nat) : List Nat :=
  let w := weights.foldl (· + ·) 0
  if w = 0 then (List.range weights.length).map (fun i => if i = 0 then total else 0)
  else
    let shares := weights.map (fun x => total * x / w)
    let rems := weights.map (fun x => total * x % w)
    let left := total - shares.foldl (· + ·) 0
    (List.range weights.length).map (fun i =>
      shares.getD i 0 + (if remainderRank rems i < left then 1 else 0))

/-! ## Money (R288) -/

/-- Adds pico-cu to a fraction: whole milli-cu that pass to the balance, and the remainder (R288). -/
def takeMoney (frac : Nat) (pico : Int) : Int × Nat :=
  let x := (frac : Int) + pico
  (x / 10 ^ 9, (x % 10 ^ 9).toNat)

/-! ## Rate resolution (R292) -/

/-- Season starts that apply in a year (R290): one on 29 February starts on 1 March in a common year, unless another season
starts then. -/
def seasonsOf (t : Tariff) (year : Int) : List (Nat × Nat × Nat) :=
  ((List.range t.seasons.length).map (fun i =>
    let (m, d) := t.seasons.getD i (1, 1)
    if m = 2 && d = 29 && !leapYear year then
      if t.seasons.contains (3, 1) then (i, 0, 0) else (i, 3, 1)
    else (i, m, d))).filter (fun (_, m, _) => m != 0)

/-- The season with the largest start in a list. -/
def latestSeason (l : List (Nat × Nat × Nat)) : Option Nat :=
  (l.foldl (fun (best : Option (Nat × Nat)) (i, m, d) =>
    match best with
    | some (_, v) => if v ≤ 32 * m + d then some (i, 32 * m + d) else best
    | none => some (i, 32 * m + d)) none).map (·.1)

/-- The season in force on a date: the latest start on or before it, wrapping to the latest of the year (R292). -/
def seasonOn (t : Tariff) (d : Date) : Nat :=
  let l := seasonsOf t d.year
  match latestSeason (l.filter (fun (_, m, dd) => 32 * m + dd ≤ 32 * d.month + d.day)) with
  | some i => i
  | none => (latestSeason l).getD 0

/-- The date is a special day (R290). -/
def specialDay (t : Tariff) (d : Date) : Bool :=
  t.specials.any (fun (y, m, dd) => (y == 0 || (y : Int) == d.year) && m == d.month && dd == d.day)

/-- The last used switch point at or before a minute. -/
def switchAt (points : List SwitchPoint) (minute : Nat) : Option SwitchPoint :=
  (points.filter (fun p => p.minute ≤ minute)).getLast?

/-- Plan of a tariff table. -/
def planOf (t : Tariff) (id : Nat) : Option Plan := t.plans.find? (fun p => p.id == id)

/-- Rate index and friendliness of a Gliris time under a plan (R292). A plan the table does not hold resolves to rate
index 0 (R293). -/
def resolve (t : Tariff) (c : CivilTable) (trust : Trust) (id : Nat) (time : Nat) : Nat × Bool :=
  if trust = .untrusted then (0, true)
  else
    match planOf t id with
    | none => (0, false)
    | some p =>
      let (day, minute) := civilOf c time
      let d := dateOf day
      let w := t.weeks.getD (p.seasonWeek.getD (seasonOn t d) 0) []
      let k := if specialDay t d then w.getD 7 0 else w.getD ((weekdayOf day + 6) % 7) 0
      match switchAt (t.days.getD k []) minute with
      | some x => (x.rate, x.friendly)
      | none => (0, false)

/-- Resolution under the active table in a tick of the given trust (R292). -/
def resolveNow (s : State) (trust : Trust) (id time : Nat) : Nat × Bool :=
  resolve s.led.tariff (effectiveCivil s) trust id time

/-- Plan of the active table, or the empty plan. -/
def activePlan (s : State) (id : Nat) : Plan := (planOf s.led.tariff id).getD {}

/-! ## Rate mixes (R293) -/

/-- A retained tariff generation. -/
def retainedTariff (s : State) (gen : Nat) : Option Tariff := s.led.retained.find? (fun t => t.gen == gen)

/-- Adds a number of Gliris times to a rate index. -/
def addCount (l : List Nat) (i n : Nat) : List Nat := modAt l i (· + n)

/-- Counts Gliris times by rate index over [a, b) within one run, minute by minute of UTC: the resolution does not change
within one. The first argument bounds the minutes. -/
def countSpan (t : Option Tariff) (r : TimeRun) (plan : Nat) : Nat → Nat → Nat → List Nat → List Nat
  | 0, _, _, acc => acc
  | n + 1, a, b, acc =>
    if b ≤ a then acc
    else
      let stop := min b (a + (60000 - (utcMs r.civil a % 60000).toNat))
      let i := match t with
        | some t => (resolve t r.civil r.trust plan a).1
        | none => 0
      countSpan t r plan n stop b (addCount acc i (stop - a))

/-- Gliris times of [a, b) at each rate index 0 to 8 under a plan, as the recorded runs give them (R293). -/
def mixCounts (s : State) (plan a b : Nat) : List Nat :=
  s.led.runs.foldl (fun acc r =>
    let x := max a r.first
    let y := min b (r.last + 1)
    countSpan (retainedTariff s r.gen) r plan ((y - x) / 60000 + 4) x y acc) (List.replicate 9 0)

/-- The tariff generation active at the last counted Gliris time of [a, b). -/
def genAt (s : State) (a b : Nat) : Option Nat :=
  ((s.led.runs.filter (fun r => r.first < b && a ≤ r.last)).getLast?).map (·.gen)

/-- Import and export prices of a mix: those of the generation active at the interval's last Gliris time, or of the
generation active now where that one lacks the plan (R293). -/
def mixPlan (s : State) (plan a b : Nat) : Plan :=
  match (genAt s a b).bind (retainedTariff s) with
  | some t => (planOf t plan).getD (activePlan s plan)
  | none => activePlan s plan

/-- End of the interval of `len` ms that holds a Gliris time: the next boundary counted from UTC midnight (R293). -/
def intervalEnd (c : CivilTable) (len t : Nat) : Nat :=
  let e := t + (len - (utcMs c t % (len : Int)).toNat)
  let r := (utcMs c e % (len : Int)).toNat
  if r = 0 then e else e + (len - r)

/-- Start of the interval that holds a Gliris time. -/
def intervalStart (c : CivilTable) (len t : Nat) : Nat := t - (utcMs c t % (len : Int)).toNat

/-- The billing intervals that [a, b) touches, as spans; the first argument bounds their number. -/
def intervalsOf (c : CivilTable) (len : Nat) : Nat → Nat → Nat → List (Nat × Nat)
  | 0, _, _ => []
  | n + 1, a, b => if b ≤ a then [] else
      let e := min b (intervalEnd c len a)
      (a, e) :: intervalsOf c len n e b

/-- Number of the billing interval that holds a Gliris time, counted from 2020-01-01T00:00:00 UTC. -/
def intervalNumber (c : CivilTable) (len t : Nat) : Nat := (utcMs c t / (len : Int)).toNat

/-- The record of Gliris times grows by the times up to `label`: times that no tick carried take this tick's trust, and a
time carried before is not counted again (R293). Runs older than eight days go. -/
def recordTime (label : Nat) (s : State) : State :=
  let civil := effectiveCivil s
  let trust := s.time.tickTrust
  let gen := s.led.tariff.gen
  let new (a : Nat) : TimeRun := { first := a, last := label, trust := trust, gen := gen, civil := civil }
  let runs : List TimeRun := match s.led.runs.getLast? with
    | none => [new label]
    | some r =>
      if label ≤ r.last then s.led.runs
      else if r.trust = trust && r.gen = gen && r.civil = civil then s.led.runs.dropLast ++ [{ r with last := label }]
      else s.led.runs ++ [new (r.last + 1)]
  { s with led := { s.led with runs := runs.filter (fun r => label < r.last + 691200000) } }

/-! ## Tariff tables (R290, R291) -/

/-- Sizes of the parts of a table, in header order. -/
def tariffSize (b : Bytes) : Nat :=
  64 + 48 * rd b 9 1 + 8 * rd b 10 1 + 4 * rd b 11 1 + 4 * rd b 12 1 + 128 * rd b 6 2

/-- Header fields (R290). -/
def tariffHeaderChecks (b : Bytes) : List (Nat × Bool) :=
  ([ (0, rd b 0 4 == 0x46544C47), (4, rd b 4 2 == 1), (6, 1 ≤ rd b 6 2 && rd b 6 2 ≤ 256),
    (8, [5, 10, 15, 30, 60].contains (rd b 8 1)), (9, 1 ≤ rd b 9 1 && rd b 9 1 ≤ 16),
    (10, 1 ≤ rd b 10 1 && rd b 10 1 ≤ 8), (11, 1 ≤ rd b 11 1 && rd b 11 1 ≤ 8), (12, rd b 12 1 ≤ 128),
    (6, b.length == tariffSize b) ] : List (Nat × Bool)) ++ reservedBytes b 13 3 ++ reservedBytes b 48 16

/-- Raw switch point k of a day profile: minute, rate, flags. -/
def rawPoint (b : Bytes) (k : Nat) : Nat × Nat × Nat := (rd b (4 * k) 2, rd b (4 * k + 2) 1, rd b (4 * k + 3) 1)

/-- Day-profile fields (R290, R291): switch point 0 at minute 0 where a plan reaches the profile, used points ascending
and before unused ones. -/
def dayChecks (reached : Bool) (b : Bytes) : List (Nat × Bool) :=
  (List.range 12).flatMap (fun k =>
    let (m, r, f) := rawPoint b k
    let before := (rawPoint b (k - 1)).1
    let used := m != 0xFFFF
    ([ (4 * k, (m ≤ 1439 || m == 0xFFFF) &&
          (if k = 0 then m == 0 || !reached else !used || (before != 0xFFFF && decide (before < m)))),
       (4 * k + 2, !used || (1 ≤ r && r ≤ 8)), (4 * k + 3, !used || f < 2) ] : List (Nat × Bool)))

/-- Reads a day profile's used switch points. -/
def dayOfBytes (b : Bytes) : List SwitchPoint :=
  ((List.range 12).filter (fun k => (rawPoint b k).1 != 0xFFFF)).map (fun k =>
    let (m, r, f) := rawPoint b k
    { minute := m, rate := r, friendly := f.testBit 0 })

/-- Week-profile fields: day references within the count. -/
def weekChecks (days : Nat) (b : Bytes) : List (Nat × Bool) :=
  (List.range 8).map (fun k => (k, decide (rd b k 1 < days)))

/-- A date that exists in some year. -/
def monthDayOk (m d : Nat) : Bool := 1 ≤ m && m ≤ 12 && 1 ≤ d && d ≤ monthDays 2024 m

/-- Season fields, given the seasons before it (R290, R291). -/
def seasonChecks (before : List (Nat × Nat)) (b : Bytes) : List (Nat × Bool) :=
  ([ (0, 1 ≤ rd b 0 1 && rd b 0 1 ≤ 12 && !before.contains (rd b 0 1, rd b 1 1)),
    (1, 1 ≤ rd b 1 1 && rd b 1 1 ≤ 31) ] : List (Nat × Bool)) ++ reservedBytes b 2 2

/-- Special-day fields, given those before it. -/
def specialChecks (before : List (Nat × Nat × Nat)) (b : Bytes) : List (Nat × Bool) :=
  [ (0, (rd b 0 2 == 0 || (2020 ≤ rd b 0 2 && rd b 0 2 ≤ 2199)) && !before.contains (rd b 0 2, rd b 2 1, rd b 3 1)),
    (2, 1 ≤ rd b 2 1 && rd b 2 1 ≤ 12), (3, 1 ≤ rd b 3 1 && rd b 3 1 ≤ 31) ]

/-- Reads a plan (R290). -/
def planOfBytes (b : Bytes) : Plan := {
  id := rd b 0 1, emergencyPermitted := (rd b 1 1).testBit 0, exportCredited := (rd b 1 1).testBit 1
  ratesUsed := rd b 2 1, seasonWeek := (List.range 8).map (fun i => rd b (4 + i) 1)
  importPrice := rd b 12 4 :: (List.range 8).map (fun i => rd b (20 + 4 * i) 4)
  exportPrice := rd b 16 4 :: (List.range 8).map (fun i => rd b (52 + 4 * i) 4)
  emergencyLimit := rd b 84 6, friendlyCap := rd b 90 6, reconnectMin := rd b 96 6, lowWarn := rd b 102 6
  allowanceCap := rd b 108 4 }

/-- Rate indexes a week profile can reach. -/
def weekRates (days : List (List SwitchPoint)) (week : List Nat) : List Nat :=
  week.flatMap (fun d => (days.getD d []).map (·.rate))

/-- Plan fields (R290, R291): ranges, week references within the count, reachable rates within rates_used. -/
def planChecks (days : List (List SwitchPoint)) (weeks : List (List Nat)) (seasons : Nat) (before : List Plan) (b : Bytes) :
    List (Nat × Bool) :=
  let p := planOfBytes b
  let money (off v : Nat) : Nat × Bool := (off, decide (v ≤ 1000000000))
  ([ (0, !before.any (fun x => x.id == p.id)), (1, rd b 1 1 < 4), (2, 1 ≤ p.ratesUsed && p.ratesUsed ≤ 8),
     (3, rd b 3 1 == 0) ] : List (Nat × Bool)) ++
  (List.range seasons).map (fun i =>
    let w := p.seasonWeek.getD i 0
    (4 + i, decide (w < weeks.length) && (weekRates days (weeks.getD w [])).all (fun r => r ≤ p.ratesUsed))) ++
  ([ money 84 p.emergencyLimit, money 90 p.friendlyCap, money 96 p.reconnectMin, money 102 p.lowWarn,
     (108, 1 ≤ p.allowanceCap && p.allowanceCap ≤ 1000000) ] : List (Nat × Bool)) ++ reservedBytes b 112 16

/-- The first failing field of a list of entries, each checked against those before it: offsets in the entry and in the
table. -/
def checkSeq {α : Type} (check : List α → Bytes → List (Nat × Bool)) (read : Bytes → α) (size : Nat) :
    Nat → List Bytes → List α → Option (Nat × Nat)
  | _, [], _ => none
  | base, b :: bs, before =>
    match firstBad (check before b) with
    | some off => some (off, base + off)
    | none => checkSeq check read size (base + size) bs (before ++ [read b])

/-- Entries of `n` × `size` bytes at `base`. -/
def entriesAt (b : Bytes) (base size n : Nat) : List Bytes := (List.range n).map (fun i => slice b (base + size * i) size)

/-- Plans that accounts use or await (R291). -/
def plansInUse (s : State) : List Nat :=
  (s.led.accounts.flatMap (fun (a, _) =>
    let r := committedAccount s a
    if r.phase = .unused then [] else if r.planPending then [r.plan, r.pendingPlan] else [r.plan])).eraseDups

/-- Reads a tariff table, or names the offending byte (R125, R290, R291): the first of the header, which also carries the plans
that are still in use and the plans of the local sets, then the first of the entries. -/
def decodeTariff (s : State) (b : Bytes) : Except (Nat × Nat) Tariff :=
  let nd := rd b 9 1
  let nw := rd b 10 1
  let ns := rd b 11 1
  let nx := rd b 12 1
  let np := rd b 6 2
  let d0 := 64
  let w0 := d0 + 48 * nd
  let s0 := w0 + 8 * nw
  let x0 := s0 + 4 * ns
  let p0 := x0 + 4 * nx
  let days := (entriesAt b d0 48 nd).map dayOfBytes
  let weeks := (entriesAt b w0 8 nw).map (fun e => (List.range 8).map (fun i => rd e i 1))
  let season (e : Bytes) : Nat × Nat := (rd e 0 1, rd e 1 1)
  let special (e : Bytes) : Nat × Nat × Nat := (rd e 0 2, rd e 2 1, rd e 3 1)
  let plans := (entriesAt b p0 128 np).map planOfBytes
  let reached := plans.flatMap (fun p => (p.seasonWeek.take ns).flatMap (fun w => weeks.getD w []))
  let held (id : Nat) : Bool := plans.any (fun p => p.id == id)
  if b.length != tariffSize b then
    let off := (firstBad (tariffHeaderChecks b)).getD 6
    .error (off, off)
  else
    match firstBad (tariffHeaderChecks b ++ [(6, (plansInUse s).all held)] ++
        (List.range 32).map (fun i => (16 + i, held (rd b (16 + i) 1)))) with
    | some off => .error (off, off)
    | none =>
      match (checkSeq (fun (l : List Unit) => dayChecks (reached.contains l.length)) (fun _ => ()) 48 d0 (entriesAt b d0 48 nd) []).orElse fun _ =>
          (checkSeq (fun _ => weekChecks nd) (fun _ => ()) 8 w0 (entriesAt b w0 8 nw) []).orElse fun _ =>
          (checkSeq seasonChecks season 4 s0 (entriesAt b s0 4 ns) []).orElse fun _ =>
          (checkSeq specialChecks special 4 x0 (entriesAt b x0 4 nx) []).orElse fun _ =>
          (checkSeq (planChecks days weeks ns) planOfBytes 128 p0 (entriesAt b p0 128 np) []) with
      | some e => .error e
      | none => .ok {
          billingMin := rd b 8 1, localPlan := (List.range 32).map (fun i => rd b (16 + i) 1), days := days, weeks := weeks
          seasons := (entriesAt b s0 4 ns).map season, specials := (entriesAt b x0 4 nx).map special, plans := plans
          hash := [] }

end Sys2Proof.Machine
end

