-- ==== Sys2Proof/Machine/Ledger.lean ====
section
/-!
DEFINITION. LEDGER_ACCOUNT and LEDGER_LOCAL: tokens, the sweep visit, session postings, host orders, the supply decision,
the credit allowance, and the fold into the local register sets. Chapters 01 (R23) and 09 (R294 to R310) of the spec.
-/

namespace Sys2Proof.Machine

/-- A consequence is staged in some open tick: what it stands for has been done and waits for its commit. -/
def staged (s : State) (c : Consequence) : Bool := s.led.ticks.any (fun t => t.out.any (fun x => x.2 == c))

/-- The account counts as damaged in a tick: marked, and not restored by an open tick (R211, R313). -/
def damagedNow (s : State) (a : Nat) : Bool := accountDamaged s a && !staged s (.restored a)

/-- Working page of an account (R287). -/
def pageOf (s : State) (a : Nat) : WorkPage := Tab.getD s.led.pages a {}

/-- Changes a working page. -/
def setPage (a : Nat) (f : WorkPage → WorkPage) (s : State) : State :=
  { s with led := { s.led with pages := Tab.upd s.led.pages a {} f } }

/-- Bounds of a 48-bit balance (R303). -/
def balanceMax : Int := 140737488355327
def balanceMin : Int := -140737488355328

/-- What a task on one account builds: the record, what its commit lets out, and answers that carry the state after the
tick. -/
structure Work where
  acc : AccountRec
  out : List Consequence := []
  answers : List (AccountRec → Consequence) := []
  /-- the keypad lock was set in this tick's step 1 (R306) -/
  lockedNow : Bool := false

/-- What a task on one account is given: the state, its tick, and whether the account is damaged. -/
structure TickCtx where
  s : State
  t : OpenTick
  damaged : Bool

/-- Adds a consequence. -/
def Work.say (w : Work) (c : Consequence) : Work := { w with out := w.out ++ [c] }

/-- Data of an ACCOUNT journal entry (R311). -/
def accountEntry (a cause result seq : Nat) (amount balance : Int) (tail : Bytes) : Consequence :=
  .journal 1 (le 4 a ++ le 1 cause ++ le 1 result ++ le 2 seq ++ leS 6 amount ++ leS 6 balance ++ pad 9 tail)

/-! ## Supply (R298 to R300) -/

/-- floor, cap and reconnect level of an account under its plan (R298). -/
def levels (p : Plan) (r : AccountRec) : Int × Int × Int :=
  let floor : Int := if r.emergency then -(p.emergencyLimit : Int) else 0
  (floor, floor - p.friendlyCap, floor + p.reconnectMin)

/-- Changes the supply order: last_change_tick, SUPPLY_CHANGE and its journal entry (R299, R314). -/
def setSupply (label : Nat) (new : Supply) (w : Work) : Work :=
  if w.acc.supply = new then w
  else
    let r := w.acc
    let w := { w with acc := { r with supply := new, lastChange := label, deferral := r.deferral && new == Supply.on } }
    (w.say (.event 0x0600 r.number false
      (le 1 new.code ++ le 1 r.supply.code ++ zeros 2 ++ leS 6 r.balance ++ zeros 6))).say
      (accountEntry r.number 3 new.code 0 0 r.balance [])

/-- Grants or refuses emergency credit under the conditions of R300, and journals which. -/
def grantEmergency (p : Plan) (w : Work) : Bool × Work :=
  let r := w.acc
  let ok := r.phase == .active && r.prepay && p.emergencyPermitted && !r.emergency &&
    decide (r.balance < (levels p r).1 + p.lowWarn)
  let w := { w with acc := { r with emergency := r.emergency || ok } }
  (ok, w.say (accountEntry r.number 5 (if ok then 0 else 10) 0 0 r.balance []))

/-- Emergency credit is released at the first decision at which the balance is not negative (R300). -/
def releaseEmergency (r : AccountRec) : AccountRec :=
  { r with emergency := r.emergency && decide (r.balance < 0) }

/-- LOW_CREDIT as the margin over floor falls below low_warn, and its flag (R300). -/
def warnLow (p : Plan) (w : Work) : Work :=
  let r := w.acc
  let floor := (levels p r).1
  let low := decide (r.balance - floor < p.lowWarn)
  if !r.prepay || r.phase ≠ .active then w
  else
    let w' := { w with acc := { r with lowWarned := low } }
    if low && !r.lowWarned then
      w'.say (.event 0x0601 r.number true (leS 6 r.balance ++ leS 6 floor ++ zeros 4))
    else w'

/-- The supply order state machine at a decision, host hold apart (R299). -/
def decideMachine (p : Plan) (friendly : Bool) (label : Nat) (w : Work) : Work :=
  let (floor, cap, reconnect) := levels p w.acc
  let b := w.acc.balance
  match w.acc.supply with
  | .on =>
    if floor ≤ b then { w with acc := { w.acc with deferral := false } }
    else if cap ≤ b && friendly then { w with acc := { w.acc with deferral := true } }
    else setSupply label .offCredit w
  | .offCredit => if reconnect ≤ b then setSupply label .on w else w
  | .offHost => w

/-- The disconnect and reconnect decision of a tick (R298 to R300). -/
def decideSupply (c : TickCtx) (w : Work) : Work :=
  let p := activePlan c.s w.acc.plan
  let w := { w with acc := releaseEmergency w.acc }
  let w := if w.acc.hostHold then setSupply c.t.label .offHost w
    else if !w.acc.prepay then setSupply c.t.label .on w
    else decideMachine p (resolveNow c.s c.t.trust w.acc.plan c.t.label).2 c.t.label w
  warnLow p w

/-- The outage stop of R295, while an outage is reported: the last-gasp tick, or prov_through where it is not known. -/
def outageStop (r : AccountRec) (gasp : Option Nat) : Option Nat :=
  if r.outage then some (gasp.getD r.provThrough) else none

/-- 48 h in ticks (R295). -/
def provisionalCap : Nat := 172800000

/-- allowance_wh of an account (R301). -/
def allowance (p : Plan) (r : AccountRec) (gasp : Option Nat) : Nat :=
  if !r.prepay then 0xFFFFFFFFFFFFFFFF
  else
    let stop := min r.provThrough (r.readingTick + provisionalCap)
    let stop := match outageStop r gasp with
      | some g => min stop g
      | none => stop
    let prov := r.rateW.toNat * (stop - r.readingTick) / 3600000
    let top := (p.importPrice.take (p.ratesUsed + 1)).foldl max 0
    let buy := (r.balance - (levels p r).1).toNat * 1000000 / top
    let more := if r.supply ≠ .on then 0 else if top = 0 then p.allowanceCap else min buy p.allowanceCap
    r.readingWh + prov + more

/-- Recomputes the credit allowance after a decision; a CREDIT message is due when it or the order changed (R301, R415). -/
def setAllowance (c : TickCtx) (before : Supply) (gasp : Option Nat) (w : Work) : Work :=
  let r := w.acc
  let v := allowance (activePlan c.s r.plan) r gasp
  let changed := decide (v ≠ r.allowanceWh)
  let w := if changed then
      { w with acc := { r with allowanceWh := v, allowanceSeq := (r.allowanceSeq + 1) % 2 ^ 32 } }
    else w
  if changed || before ≠ r.supply then w.say (.credit r.number) else w

/-! ## Tokens (R302 to R306, R624) -/

/-- Class, sequence and amount field of a token value (R302). -/
def tokenClass (v : Nat) : Nat := v / 2 ^ 62 % 16
def tokenSeq (v : Nat) : Nat := v / 2 ^ 46 % 65536
def tokenAmountField (v : Nat) : Nat := v / 2 ^ 30 % 65536
/-- Amount in milli-cu: m × 10^e cu (R302). -/
def tokenMilli (v : Nat) : Nat := (tokenAmountField v % 4096) * 10 ^ (tokenAmountField v / 4096) * 1000

/-- The acceptance window (R303): result, and token_high and token_map after acceptance. -/
def tokenWindow (r : AccountRec) (seq : Nat) : Nat × Nat × Nat :=
  let d := (seq + 65536 - r.tokenHigh) % 65536
  if 1 ≤ d && d ≤ 4096 then (0, seq, (r.tokenMap * 2 ^ d + 1) % 2 ^ 64)
  else if d = 0 || 65473 ≤ d then
    let bit := (65536 - d) % 65536
    if r.tokenMap.testBit bit then (5, r.tokenHigh, r.tokenMap)
    else (0, r.tokenHigh, r.tokenMap + 2 ^ bit)
  else if d ≤ 32768 then (6, r.tokenHigh, r.tokenMap)
  else (5, r.tokenHigh, r.tokenMap)

/-- Signed amount a token moves: a credit adds, a refund subtracts (R302). -/
def tokenDelta (v : Nat) : Int :=
  if tokenClass v = 0 then (tokenMilli v : Int) else if tokenClass v = 1 then -(tokenMilli v : Int) else 0

/-- The checks of a token at application and its effect (R303, R306, R624): result and the account after it. -/
def judgeToken (c : TickCtx) (x : WaitingToken) (w : Work) : Nat × Work :=
  let r := w.acc
  let d := tokenDelta x.value
  let win := tokenWindow r (tokenSeq x.value)
  if x.keypad && w.lockedNow then (11, w)
  else if r.phase ≠ .active then (7, w)
  else if c.damaged then (8, w)
  else if win.1 ≠ 0 then (win.1, w)
  else if balanceMax < r.balance + d || r.balance + d < balanceMin then (9, w)
  else
    let g := if tokenClass x.value = 3 then grantEmergency (activePlan c.s r.plan) w else (true, w)
    if !g.1 then (10, g.2)
    else
      let r := g.2.acc
      (0, { g.2 with acc := { r with
        tokenHigh := win.2.1, tokenMap := win.2.2, balance := r.balance + d, tokenFails := 0
        keypadLocked := r.keypadLocked && x.keypad } })

/-- The sequence of a token as its records show it: 0 where the number is not a token's (R302, R318; DEDUCED, log 46). -/
def seqShown (value : Nat) : Nat := if value < 2 ^ 66 then tokenSeq value else 0

/-- Journal entry of a token result; bits above bit 65 are zero (R305, R311). -/
def tokenEntry (a value result : Nat) (amount balance : Int) : Consequence :=
  accountEntry a 1 result (seqShown value) amount balance (le 9 (value % 2 ^ 66))

/-- TOKEN_REJECTED (R314). -/
def tokenRejected (a value result : Nat) (keypad : Bool) : Consequence :=
  .event 0x0602 a true (le 1 result ++ le 1 (!keypad).toNat ++ le 2 (seqShown value) ++ zeros 12)

/-- Completion payload of LED_TOKEN_SUBMIT (R318). -/
def tokenPayload (cls seq result : Nat) (amount balance : Int) (tick : Nat) : Bytes :=
  le 1 result ++ le 1 cls ++ le 2 seq ++ leS 6 amount ++ leS 6 balance ++ le 8 tick ++ zeros 8

/-- The answer to a token's submitter: the completion of LED_TOKEN_SUBMIT or TOKEN_RESULT to the meter (R318, R416). -/
def tokenAnswer (x : WaitingToken) (result : Nat) (amount : Int) (tick : Nat) (r : AccountRec) : Consequence :=
  if x.keypad then .keypadAnswer x.account x.value result r.balance
  else .completion x.ref stOk 0 (tokenPayload (tokenClass x.value) (tokenSeq x.value) result amount r.balance tick)

/-- Applies a token, or counts a keypad MAC failure, in step 1 of R23. -/
def applyToken (c : TickCtx) (x : WaitingToken) (w : Work) : Work :=
  if x.macFail then
    let w := w.say (.removeToken x.id)
    if c.damaged || w.acc.phase == .unused then w
    else
      let n := cap 5 (w.acc.tokenFails + 1)
      let lock := decide (n = 5)
      { w with acc := { w.acc with tokenFails := n, keypadLocked := w.acc.keypadLocked || lock }
               lockedNow := w.lockedNow || lock }
  else
    let j := judgeToken c x w
    let ok := j.1 == 0
    let d := if ok then tokenDelta x.value else 0
    let w := ((j.2.say (.removeToken x.id)).say (.tokenCount ok)).say (tokenEntry x.account x.value j.1 d j.2.acc.balance)
    let w := if ok then w else w.say (tokenRejected x.account x.value j.1 x.keypad)
    { w with answers := w.answers ++ [tokenAnswer x j.1 d (if ok then c.t.label else 0)] }

/-- The tokens a tick applies to an account: checked at least 1 tick before its start, in the order checked (R305). -/
def tokensDue (s : State) (t : OpenTick) (a : Nat) : List WaitingToken :=
  s.led.tokens.filter (fun x => x.account == a && decide (x.checkedAt < t.startedAt) && !staged s (.removeToken x.id))

/-- The tick sweeps the account (R19). -/
def sweeps (t : OpenTick) (a : Nat) : Bool := a % 1024 == t.label % 1024

/-- The working page as the tick's visit finds it: empty while a visit of an open tick has taken it. -/
def pageDue (s : State) (a : Nat) : WorkPage :=
  if s.led.ticks.any (fun t => t.out.any (fun x => match x.2 with
      | .pageDone b _ _ _ _ => b == a
      | _ => false)) then
    { pageOf s a with reading := none, reports := [], emergency := none }
  else pageOf s a

/-- Step 1 of R23: tokens, MAC failures and, at the account's sweep visit, a keypad emergency request, in the order in
which they arrived. -/
def stepTokens (c : TickCtx) (a : Nat) (emergency : Option Nat) (w : Work) : Work :=
  let due := tokensDue c.s c.t a
  let ask (w : Work) : Work :=
    if w.acc.phase == .active && !c.damaged then (grantEmergency (activePlan c.s w.acc.plan) w).2 else w
  match emergency with
  | none => due.foldl (fun w x => applyToken c x w) w
  | some e =>
    let w := (due.filter (fun x => x.id < e)).foldl (fun w x => applyToken c x w) w
    (due.filter (fun x => e ≤ x.id)).foldl (fun w x => applyToken c x w) (ask w)

/-! ## The sweep visit (R294 to R297) -/

/-- Why a reading is not confirmed: 1 not later, 2 register lower, 3 power over 2,000 kW; none confirms it (R294). -/
def readingFault (r : AccountRec) (x : Reading) (t : Nat) : Option Nat :=
  if x.tick ≤ r.readingTick || t < x.tick then some 1
  else if x.importWh < r.readingWh || x.exportWh < r.exportWh then some 2
  else if 2000000 * (x.tick - r.readingTick) < (x.importWh - r.readingWh) * 3600000 then some 3
  else none

/-- One billing interval touched by a confirmed span: its start and end, and the Gliris times of the span in it. -/
structure SpanPart where
  start : Nat
  stop : Nat
  weight : Nat
  number : Nat

/-- The billing intervals a span touches (R293, R294). -/
def spanParts (s : State) (a b : Nat) : List SpanPart :=
  let c := effectiveCivil s
  let len := 60000 * s.led.billingMin
  (intervalsOf c len ((b - a) / len + 3) a b).map (fun (x, e) =>
    { start := intervalStart c len x, stop := intervalEnd c len x, weight := e - x, number := intervalNumber c len x })

/-- Adjusts the last entry so that the sum is `total`: none if the sum differs by more than `n` (R294). -/
def placeMeter (xs : List Nat) (total : Nat) : Option (List Nat) :=
  let sum := xs.foldl (· + ·) 0
  if total + xs.length < sum || sum + xs.length < total then none
  else
    let last := xs.getLast?.getD 0
    if last + total < sum then none
    else some (xs.dropLast ++ [last + total - sum])

/-- Energies of a confirmed span by interval: from the meter's interval data where they serve, otherwise spread
(R294). Import, export, and whether they come from the meter. -/
def placeEnergy (parts : List SpanPart) (x : Reading) (dImp dExp : Nat) : List Nat × List Nat × Bool :=
  let found := parts.filterMap (fun p => x.intervals.find? (fun i => i.1 == p.number))
  let fromMeter := if found.length = parts.length then
      match placeMeter (found.map (·.2.1)) dImp, placeMeter (found.map (·.2.2)) dExp with
      | some i, some e => some (i, e)
      | _, _ => none
    else none
  match fromMeter with
  | some (i, e) => (i, e, true)
  | none => (splitWhole dImp (parts.map (·.weight)), splitWhole dExp (parts.map (·.weight)), false)

/-- Start of the horizon of the rate mixes for a visit: seven days before the start of the visit's interval (R294). -/
def mixHorizon (s : State) (t : Nat) : Nat :=
  intervalStart (effectiveCivil s) (60000 * s.led.billingMin) t - 604800000

/-- Adds energies by rate index to the totals. -/
def addTotals (totals : List (Nat × Nat)) (imp exp : List Nat) : List (Nat × Nat) :=
  (List.range 9).map (fun i =>
    let x := totals.getD i (0, 0)
    (x.1 + imp.getD i 0, x.2 + exp.getD i 0))

/-- Prices one interval's energy: split over its rate mix, or at rate index 0 before the horizon (R294). Answers the cost in
pico-cu and the energies by rate index. -/
def priceInterval (s : State) (plan horizon : Nat) (part : SpanPart) (imp exp : Nat) : Int × List Nat × List Nat :=
  let old := decide (part.start < horizon)
  let p := if old then activePlan s plan else mixPlan s plan part.start part.stop
  let counts := if old then 1 :: List.replicate 8 0 else mixCounts s plan part.start part.stop
  let is := splitWhole imp counts
  let es := splitWhole exp counts
  let money (e prices : List Nat) : Nat := (List.zipWith (fun w p => w * 1000 * p) e prices).foldl (· + ·) 0
  let credited := (activePlan s plan).exportCredited
  ((money is p.importPrice : Int) - (if credited then (money es p.exportPrice : Int) else 0), is, es)

/-- Prices the intervals of a confirmed span through the confirmed fraction and the totals. -/
def priceSpan (s : State) (plan horizon : Nat) : List SpanPart → List Nat → List Nat → Int × List (Nat × Nat) →
    Int × List (Nat × Nat)
  | p :: ps, i :: is, e :: es, (cost, totals) =>
    let x := priceInterval s plan horizon p i e
    priceSpan s plan horizon ps is es (cost + x.1, addTotals totals x.2.1 x.2.2)
  | _, _, _, acc => acc

/-- Confirms a reading: reversal of provisional debit, confirmed cost, totals, history, rate, baselines, flags, pending
plan (R294 to R297). -/
def confirmReading (c : TickCtx) (x : Reading) (gasp : Option Nat) (w : Work) : Work :=
  let r := w.acc
  let dImp := x.importWh - r.readingWh
  let dExp := x.exportWh - r.exportWh
  let span := x.tick - r.readingTick
  let parts := spanParts c.s r.readingTick x.tick
  let placed := placeEnergy parts x dImp dExp
  let horizon := mixHorizon c.s c.t.label
  let priced := priceSpan c.s r.plan horizon parts placed.1 placed.2.1 (0, r.totals)
  let taken := takeMoney r.cfrac priced.1
  let clear := match gasp with
    | some g => decide (g < x.tick)
    | none => true
  let hist := (List.zip parts (List.zip placed.1 placed.2.1)).filterMap (fun (p, i, e) =>
    if horizon ≤ p.start then some (Consequence.history r.number p.number i e placed.2.2) else none)
  { w with
    out := w.out ++ hist
    acc := { r with
      balance := r.balance + r.provisional - taken.1, cfrac := taken.2, provisional := 0, pfrac := 0
      totals := priced.2
      rateW := truncDiv (((dImp : Int) - dExp) * 3600000) span
      readingWh := x.importWh, exportWh := x.exportWh, readingTick := x.tick, provThrough := x.tick
      overdue := false, rejected := false, outage := r.outage && !clear
      plan := if r.planPending then r.pendingPlan else r.plan
      planPending := false, pendingPlan := 0 } }

/-- Provisional debit of the span not yet covered, up to 48 h after the reading and up to an outage (R295, R296). -/
def provisionalDebit (c : TickCtx) (gasp : Option Nat) (w : Work) : Work :=
  let r := w.acc
  let t := c.t.label
  let stop := min t (r.readingTick + provisionalCap)
  let stop := match outageStop r gasp with
    | some g => min stop g
    | none => stop
  let r := { r with overdue := r.overdue || decide (r.readingTick + provisionalCap < t) }
  if r.provThrough < stop then
    let e := truncDiv (r.rateW * ((stop - r.provThrough : Nat) : Int)) 3600
    let p := activePlan c.s r.plan
    let i := (resolveNow c.s c.t.trust r.plan t).1
    let price : Nat := if 0 < e then p.importPrice.getD i 0
      else if e < 0 && p.exportCredited then p.exportPrice.getD i 0 else 0
    let taken := takeMoney r.pfrac (e * (price : Int))
    { w with acc := { r with
      provisional := r.provisional + taken.1, balance := r.balance - taken.1, pfrac := taken.2
      provThrough := max r.provThrough t, defaultRated := i == 0 } }
  else { w with acc := { r with provThrough := max r.provThrough t } }

/-- Applies the outage reports queued, in order: outage flag and last-gasp tick (R296). -/
def takeReports : List (Option Nat) → Bool × Option Nat → Bool × Option Nat
  | [], x => x
  | some g :: rs, _ => takeReports rs (true, some g)
  | none :: rs, _ => takeReports rs (false, none)

/-- READING_REJECTED (R314). -/
def readingRejected (a reason tick : Nat) : Consequence :=
  .event 0x0603 a true (le 1 reason ++ zeros 7 ++ le 8 tick)

/-- Step 2 of R23: the sweep visit of an ACTIVE account (R295). Answers the work and the last-gasp tick after it. -/
def sweepVisit (c : TickCtx) (page : WorkPage) (w : Work) : Work × Option Nat :=
  let rep := takeReports page.reports (w.acc.outage, page.lastGasp)
  let w := { w with acc := { w.acc with outage := rep.1 } }
  let w := match page.reading with
    | none => w
    | some x =>
      match readingFault w.acc x c.t.label with
      | some reason => ({ w with acc := { w.acc with rejected := true } }).say (readingRejected w.acc.number reason x.tick)
      | none => confirmReading c x rep.2 w
  let gasp := if w.acc.outage then rep.2 else none
  let w := provisionalDebit c gasp w
  (w.say (.pageDone w.acc.number (page.reading.map (·.tick)) page.reports.length gasp page.emergency), gasp)

/-! ## Charge-session debits (R307) -/

/-- A register set is due to post to its account at a round start (R307). -/
def postingDue (h : LocalRec) : Bool := h.sessionOpen || h.finalDue || h.postingHeld

/-- The paying account can take a posting (R307). -/
def postable (s : State) (label a : Nat) : Bool :=
  (accountAt s (label - 1) a).phase == .active && !damagedNow s a

/-- Step 3 of R23: what the sets of charge points post to the account at the first ledger tick of a round, or hold
(R307). -/
def stepSessions (c : TickCtx) (a : Nat) (w : Work) : Work :=
  if !c.t.firstOfRound then w
  else
    ((List.range 16).map (· + 16)).foldl (fun w set =>
      let h := localAt c.s (c.t.label - 1) set
      if !postingDue h || h.sessionAccount ≠ a then w
      else if postable c.s c.t.label a then
        let w := { w with acc := { w.acc with balance := w.acc.balance - h.roundCost } }
        w.say (.journal 8 (le 4 h.sessionId ++ le 1 (set - 16) ++ zeros 3 ++ le 8 (c.t.label / 1024 - 1) ++
          leS 6 h.roundCost ++ leS 6 (h.sessionDebited + h.roundCost) ++ le 8 h.sessionImport ++ le 8 h.sessionExport))
      else w.say (.event 0x0606 (set - 16) true
        (le 4 h.sessionId ++ le 4 a ++ leS 6 h.roundCost ++ zeros 2))) w

/-! ## Host orders (R308, R313, R315 to R321) -/

/-- Answers an order once the tick has committed. -/
def Work.reply (w : Work) (ref status detail : Nat) (payload : Bytes) : Work :=
  { w with answers := w.answers ++ [fun _ => .completion ref status detail payload] }

/-- NOT_READY conditions of LED_ACCOUNT_SET (R317). -/
def accountSetReady (r : AccountRec) (damaged : Bool) (action : Nat) : Bool :=
  !damaged && ((action == 0) == (r.phase == .unused)) &&
    (action != 3 || (r.phase == .closed && r.balance == 0))

/-- A new account (R317). -/
def newAccount (a : Nat) (b : Bytes) (label : Nat) : AccountRec := {
  number := a, phase := .active, prepay := rd b 6 1 == 1, plan := rd b 5 1, meter := rd b 8 4, balance := rdS b 12 6
  tokenHigh := 0, tokenMap := 2 ^ 64 - 1, readingWh := rd b 24 8, exportWh := rd b 32 8, readingTick := label
  provThrough := label }

/-- A modify's plan: held until the next confirmed reading, replaced, or cancelled (R297). -/
def orderPlan (plan : Nat) (r : AccountRec) : AccountRec :=
  if plan = r.plan then { r with planPending := false, pendingPlan := 0 }
  else { r with planPending := true, pendingPlan := plan }

/-- LED_ACCOUNT_SET applied (R297, R299, R317). -/
def applySet (label : Nat) (b : Bytes) (w : Work) : Work :=
  let r := w.acc
  match rd b 4 1 with
  | 0 => { w with acc := newAccount r.number b label }
  | 1 =>
    let w := { w with acc := orderPlan (rd b 5 1) { r with prepay := rd b 6 1 == 1, meter := rd b 8 4 } }
    if r.prepay && !w.acc.prepay && r.supply == .offCredit then setSupply label .on w else w
  | 2 => setSupply label .offHost { w with acc := { r with phase := .closed, hostHold := true } }
  | 3 => { w with acc := { number := r.number } }
  | _ => { w with acc := { r with
      provisional := 0, pfrac := 0, readingWh := rd b 24 8, exportWh := rd b 32 8, readingTick := label
      provThrough := label, meter := rd b 8 4 } }

/-- LED_SUPPLY applied (R299, R300, R306, R320): whether it took effect. -/
def applySupply (c : TickCtx) (action : Nat) (w : Work) : Bool × Work :=
  let r := w.acc
  match action with
  | 0 => (true, setSupply c.t.label .offHost { w with acc := { r with hostHold := true } })
  | 1 =>
    if r.hostHold then
      let low := r.prepay && decide (r.balance < (levels (activePlan c.s r.plan) r).1)
      (true, setSupply c.t.label (if low then .offCredit else .on) { w with acc := { r with hostHold := false } })
    else (true, w)
  | 2 => grantEmergency (activePlan c.s r.plan) w
  | _ => (true, { w with acc := { r with keypadLocked := false, tokenFails := 0 } })

/-- Applies one host order in step 4 of R23. Conditions are tested again as the account then stands (R315). -/
def applyOrder (c : TickCtx) (o : WaitingOrder) (w : Work) : Work :=
  let b := o.body
  let label := c.t.label
  let w := w.say (.removeOrder o.ref)
  let restored := w.out.contains (.restored o.account)
  let damaged := c.damaged && !restored
  if o.opcode = 0x0602 then
    if accountSetReady w.acc damaged (rd b 4 1) then
      let w := applySet label b w
      let amount := if rd b 4 1 = 0 then rdS b 12 6 else 0
      (w.say (accountEntry o.account 4 0 (rd b 4 1) amount w.acc.balance [])).reply o.ref stOk 0 (le 8 label)
    else w.reply o.ref stNotReady 0 []
  else if o.opcode = 0x0606 then
    if damaged then
      let r := accountOfBytes b
      let w := { w with acc := { r with pfrac := 0 } }
      (((w.say (.restored o.account)).say (accountEntry o.account 6 0 0 0 r.balance [])).say
        (.event 0x0604 o.account false (le 1 1 ++ zeros 15))).reply o.ref stOk 0 (le 8 label)
    else w.reply o.ref stNotReady 0 []
  else if w.acc.phase ≠ .active || damaged then w.reply o.ref stNotReady 0 []
  else if o.opcode = 0x0604 then
    let d := rdS b 4 6
    let after := w.acc.balance + d
    if balanceMax < after || after < balanceMin then w.reply o.ref stOutOfRange 20 []
    else
      let w := { w with acc := { w.acc with balance := after } }
      (w.say (accountEntry o.account 2 0 (rd b 10 2) d after (slice b 12 8))).reply o.ref stOk 0
        (leS 6 after ++ zeros 2 ++ le 8 label)
  else
    let x := applySupply c (rd b 4 1) w
    if x.1 then { x.2 with answers := x.2.answers ++
        [fun r => .completion o.ref stOk 0 (le 1 (supplyByte r) ++ zeros 7)] }
    else x.2.reply o.ref stNotReady 0 []

/-- The orders a tick applies to an account: accepted before its start, in order of acceptance (R308). -/
def ordersDue (s : State) (t : OpenTick) (a : Nat) : List WaitingOrder :=
  s.led.orders.filter (fun o => o.account == a && decide (o.acceptedAt < t.startedAt) && !staged s (.removeOrder o.ref))

/-! ## LEDGER_ACCOUNT (R23) -/

/-- The account is touched in a tick: swept, or named by a token, an order or a posting due (R23). -/
def touched (s : State) (t : OpenTick) (a : Nat) : Bool :=
  sweeps t a || !(tokensDue s t a).isEmpty || !(ordersDue s t a).isEmpty ||
    (t.firstOfRound && ((List.range 16).map (· + 16)).any (fun set =>
      postingDue (localAt s (t.label - 1) set) && (localAt s (t.label - 1) set).sessionAccount == a))

/-- Accounts a tick touches: those ever written, with what waits for any account. -/
def touchedAccounts (s : State) (t : OpenTick) : List Nat :=
  ((s.led.accounts.map (·.1) ++ (s.led.ticks.flatMap (fun u => u.accounts.map (·.1))) ++ s.led.tokens.map (·.account) ++
    s.led.orders.map (·.account) ++
    ((List.range 16).map (fun i => (localAt s (t.label - 1) (16 + i)).sessionAccount))).eraseDups).filter (touched s t)

/-- The four steps of R23 on one account, the supply decision and the allowance, as tick `t` makes them. -/
def workAccount (c : TickCtx) (a : Nat) : Work :=
  let r0 := accountAt c.s (c.t.label - 1) a
  let sweep := sweeps c.t a
  let page := if sweep then pageDue c.s a else { lastGasp := (pageDue c.s a).lastGasp }
  let w : Work := { acc := r0 }
  let w := stepTokens c a page.emergency w
  let v := if sweep && !c.damaged && w.acc.phase == .active then sweepVisit c page w
    else (w, page.lastGasp)
  let w := stepSessions c a v.1
  let w := (ordersDue c.s c.t a).foldl (fun w o => applyOrder c o w) w
  let frozen := c.damaged && !w.out.contains (.restored a)
  let w := if frozen || w.acc.phase == .unused then w
    else setAllowance c r0.supply v.2 (decideSupply c w)
  { w with out := w.out ++ w.answers.map (fun f => f w.acc) }

/-- Cycles that LEDGER_ACCOUNT adds on an account in a tick: 300 for each token credit, 200 for each charge debit, 200 for each host
adjustment (R161 of 06). -/
def accountExtra (label a : Nat) (s : State) : Nat :=
  match openTick s label with
  | none => 0
  | some t =>
    let posts := if t.firstOfRound then ((List.range 16).map (· + 16)).countP (fun set =>
        postingDue (localAt s (label - 1) set) && (localAt s (label - 1) set).sessionAccount == a) else 0
    300 * (tokensDue s t a).length + 200 * posts + 200 * (ordersDue s t a).countP (fun o => o.opcode == 0x0604)

/-- LEDGER_ACCOUNT on one account in an open tick (R23): the record is written where it changed or the sweep visited it. -/
def runAccount (label a : Nat) (s : State) : State :=
  let s := undoAccount label a s
  match openTick s label with
  | none => s
  | some t =>
    if !touched s t a then s
    else
      let c : TickCtx := { s := s, t := t, damaged := damagedNow s a }
      let w := workAccount c a
      let s := w.out.foldl (fun s x => stageFor label (unitAccount a) x s) s
      let frozen := c.damaged && !w.out.contains (.restored a)
      if frozen || (w.acc.phase == .unused && (accountAt s (label - 1) a).phase == .unused) then s
      else writeAccount label a w.acc s

/-! ## LEDGER_LOCAL (R244, R307, R309, R310) -/

/-- The difference of a counter and its consumed value, modulo 2^64. -/
def counterDiff (counter consumed : Nat) : Nat := (counter + 2 ^ 64 - consumed % 2 ^ 64) % 2 ^ 64

/-- What an open tick has left of a set's recorded energies, if one has taken them (R72). -/
def foldLeft (s : State) (set : Nat) : Option (List Nat) :=
  (s.led.ticks.flatMap (fun t => t.out.filterMap (fun x => match x.2 with
    | .foldTaken k rest => if k = set then some rest else none
    | _ => none))).getLast?

/-- The recorded energies of a set that are still to be folded in (R72). -/
def toFold (s : State) (set : Nat) : List Nat :=
  (foldLeft s set).getD (if s.pwr.energyRecord.valid then Tab.getD s.pwr.energyRecord.sets set [] else [])

/-- Consumed values at a new counter epoch: counters count from zero, and the energy record's increases are still to come
(R72, R244). -/
def newBaseline (s : State) (set : Nat) : List Nat :=
  let extra := toFold s set
  (List.range 5).map (fun i => (2 ^ 64 - extra.getD i 0) % 2 ^ 64)

/-- Folds the counters into a register set (R244): whole mWh move, the remainder stays in the difference. Answers the set
and the mWh folded, by counter. -/
def foldCounters (counters : List Nat) (h : LocalRec) : LocalRec × List Nat :=
  let mwh := (List.range 5).map (fun i => counterDiff (counters.getD i 0) (h.consumed.getD i 0) / 1000)
  ({ h with
      consumed := (List.range 5).map (fun i => (h.consumed.getD i 0 + 1000 * mwh.getD i 0) % 2 ^ 64)
      totals := (List.range 5).map (fun i => h.totals.getD i 0 + mwh.getD i 0) }, mwh)

/-- Folds a set's recorded energies where no window of it has been delivered since the start: whole mWh move as increases of its
counters, the rest stays recorded (R72). -/
def foldRecorded (s : State) (set : Nat) (h : LocalRec) : LocalRec × List Nat :=
  let e := toFold s set
  foldCounters ((List.range 5).map (fun i => (h.consumed.getD i 0 + e.getD i 0) % 2 ^ 64)) h

/-- What stays recorded of a set's energies once a tick has folded them: the part below 1 mWh where no window takes it up (R72). -/
def foldRest (s : State) (set : Nat) : List Nat :=
  let rest := (toFold s set).map (· % 1000)
  if (s.met.sets.getD set {}).delivered.isSome || rest.all (· == 0) then [] else rest

/-- A tick takes a set's recorded energies, its gap and the base of a takeover where one of them is left to take (R72). -/
def foldDue (s : State) (set : Nat) : Bool :=
  (((Tab.get s.pwr.gapFrom set).isSome || (Tab.get s.duty.ownBase set).isSome) && (foldLeft s set).isNone) ||
    toFold s set != foldRest s set

/-- Clears the session fields after the final posting (R307). -/
def clearSession (h : LocalRec) : LocalRec := { h with
  sessionId := 0, sessionAccount := 0, sessionPlan := 0, sessionOpen := false, finalDue := false, postingHeld := false
  roundCost := 0, sessionFrac := 0, sessionImport := 0, sessionExport := 0, sessionDebited := 0, sessionStart := 0 }

/-- The posting of a set at the first ledger tick of a round: posted, and cleared after the last one, or held (R307). -/
def postSession (s : State) (t : OpenTick) (h : LocalRec) : LocalRec :=
  if !t.firstOfRound || !postingDue h then h
  else if postable s t.label h.sessionAccount then
    if h.finalDue then clearSession h
    else { h with sessionDebited := h.sessionDebited + h.roundCost, roundCost := 0, postingHeld := false }
  else { h with postingHeld := true }

/-- The session orders of a set that a tick takes: an opening queued before its start once the earlier session is cleared,
a closing (R307, R445 of 13). -/
def sessionOpsDue (s : State) (t : OpenTick) (set : Nat) : List SessionOp :=
  s.led.sessionOps.filter (fun o => o.set == set && decide (o.queuedAt < t.startedAt) && !staged s (.removeSessionOp o.id))

/-- Writes the fields of an opened session. -/
def openSession (o : SessionOp) (h : LocalRec) : LocalRec :=
  { clearSession h with sessionId := o.session, sessionAccount := o.account, sessionPlan := o.plan, sessionOpen := true
                        sessionStart := o.start }

/-- Prices the energy folded while a session is open (R307). -/
def priceSession (s : State) (t : OpenTick) (mwh : List Nat) (h : LocalRec) : LocalRec :=
  if !h.sessionOpen then h
  else
    let p := activePlan s h.sessionPlan
    let i := (resolveNow s t.trust h.sessionPlan t.label).1
    let imp := mwh.getD 0 0
    let exp := mwh.getD 1 0
    let cost : Int := ((imp * p.importPrice.getD i 0 : Nat) : Int) -
      (if p.exportCredited then ((exp * p.exportPrice.getD i 0 : Nat) : Int) else 0)
    let taken := takeMoney h.sessionFrac cost
    { h with roundCost := h.roundCost + taken.1, sessionFrac := taken.2
             sessionImport := h.sessionImport + imp, sessionExport := h.sessionExport + exp }

/-- The satellite set's position reports power failing, so that a gap is open (R245): its last window. -/
def openGap (s : State) (e : CalSet) : Option Nat :=
  if e.location = 0 then none
  else
    let p := ((s.met.rings.getD (e.location - 1) {}).positions.getD (e.slot % 16) {})
    if p.powerFailing then p.lastWindow else none

/-- Gap markers of a set taken in a tick (R72, R245): a power-down's, then a satellite's. -/
def takeGaps (s : State) (label set : Nat) (sat : Option Nat) (h : LocalRec) : LocalRec :=
  let h := match Tab.get s.pwr.gapFrom set with
    | some g => if (foldLeft s set).isSome then h
      else { h with gapFrom := g, gapTo := label, gapCount := h.gapCount + 1, gapOpen := false }
    | none => h
  let h := match (s.met.gaps.filter (fun g => g.1 == set)).getLast? with
    | some (_, a, b) => if staged s (.setGapTaken set) then h
      else { h with gapFrom := a, gapTo := b, gapCount := h.gapCount + (!h.gapOpen).toNat, gapOpen := false }
    | none => h
  match sat with
  | some a => if h.gapOpen then h else { h with gapFrom := a, gapTo := 0, gapCount := h.gapCount + 1, gapOpen := true }
  | none => h

/-- The window delivered is the first of a new location's that a register set takes (R246). -/
def rebaseDue (m : MetSet) (h : LocalRec) (window : Nat) : Bool :=
  match m.rebase with
  | some a => decide (a ≤ window) && h.rebasedAt != a
  | none => false

/-- The register set that LEDGER_LOCAL writes for a set in a tick, and the consequences (R310). -/
def workLocal (s : State) (t : OpenTick) (set : Nat) : LocalRec × List Consequence :=
  let h := { localAt s (t.label - 1) set with set := set }
  let m := s.met.sets.getD set {}
  let ops := sessionOpsDue s t set
  let h := postSession s t h
  let opened := if h.sessionOpen || h.finalDue then none else ops.head?.filter (·.opens)
  let h := match opened with
    | some o => openSession o h
    | none => h
  let rest := if opened.isSome then ops.drop 1 else ops
  let closed := rest.head?.filter (fun o => !o.opens)
  let plan := s.led.tariff.localPlan.getD set 0
  let rate := (resolveNow s t.trust plan t.label).1
  let f := match (calibAt s (t.label - 1)).sets.find? (fun e => e.set == set && e.kind != 0), m.delivered with
    | some e, some (epoch, window, counters) =>
      let h := match Tab.get s.duty.ownBase set with
        | some (ep, c) => if e.location = 0 && (foldLeft s set).isNone then { h with epoch := ep, consumed := c } else h
        | none => h
      let h := if rebaseDue m h window then
          { h with consumed := counters, epoch := epoch, newEpoch := false, rebasedAt := m.rebase.getD 0 }
        else if epoch ≠ h.epoch then { h with consumed := newBaseline s set, epoch := epoch, newEpoch := true }
        else { h with newEpoch := false }
      let x := foldCounters counters h
      (takeGaps s t.label set (openGap s e) { x.1 with missing := e.location != 0 && window + 1 != t.label }, x.2)
    | some e, none =>
      let x := foldRecorded s set { h with newEpoch := false, missing := e.location != 0 }
      (takeGaps s t.label set (openGap s e) x.1, x.2)
    | none, _ => (h, [])
  let mwh := f.2
  let imp := mwh.getD 0 0
  let exp := mwh.getD 1 0
  let unsealed := t.unsealed
  let h := f.1
  let h := { h with
    plan := plan, rateIndex := rate, check := m.check, suspect := m.suspect, unsealed := unsealed
    tariff := modAt h.tariff rate (fun (a, b) => (a + imp, b + exp))
    unsealedImport := h.unsealedImport + (if unsealed then imp else 0)
    unsealedExport := h.unsealedExport + (if unsealed then exp else 0)
    unsealedLast := if unsealed then t.label else h.unsealedLast
    demand := (List.range 4).map (fun i => Tab.get m.demand i) }
  let h := priceSession s t mwh h
  let h := match closed with
    | some _ => { h with sessionOpen := false, finalDue := h.sessionOpen }
    | none => h
  let used := opened.toList ++ closed.toList
  (h, used.map (fun o => .removeSessionOp o.id) ++
    (if s.met.gaps.any (fun g => g.1 == set) && !staged s (.setGapTaken set) then [.setGapTaken set] else []) ++
    (if foldDue s set then [.foldTaken set (foldRest s set)] else []))

/-- Register sets LEDGER_LOCAL writes in a tick: configured sets, and those with a session or a session order. -/
def localsDue (s : State) (t : OpenTick) : List Nat :=
  (List.range 32).filter (fun set =>
    (calibAt s (t.label - 1)).sets.any (fun e => e.set == set && e.kind != 0) || postingDue (localAt s (t.label - 1) set) ||
      !(sessionOpsDue s t set).isEmpty)

/-- LEDGER_LOCAL on one set in an open tick (R310). The set's own flags follow what the fold finds (R246, R264). -/
def runLocal (label set : Nat) (s : State) : State :=
  let s := undoLocal label set s
  match openTick s label with
  | none => s
  | some t =>
    if !(localsDue s t).contains set then s
    else
      let w := workLocal s t set
      let s := w.2.foldl (fun s c => stageFor label (unitLocal set) c s) s
      writeLocal label set w.1 s

end Sys2Proof.Machine
end

