-- ==== Sys2Proof/Machine/LedCommands.lean ====
section
/-!
DEFINITION. The LED_ commands, LED_TOKEN_SUBMIT apart (`Machine/Tokens.lean`), and the activation of a tariff table.
Chapter 09 of the spec (R315 to R324).
-/

namespace Sys2Proof.Machine

/-- Activation-group fields of an arm: group_members is 0 without a group, otherwise 2 to 8 (R195 of 06, R621 of 01). -/
def groupCheck (p : Bytes) (idOff membersOff : Nat) : Check :=
  let g := rd p idOff 1
  let n := rd p membersOff 1
  inRange membersOff (if g = 0 then n == 0 else decide (2 ≤ n) && decide (n ≤ 8))

/-- Bits [31:20] of an account field are reserved (R4 of 00). -/
def accountCheck (p : Bytes) (off : Nat) : Check := field off (decide (rd p off 4 < 2 ^ 20))

/-- LED_STATUS (R315). -/
def cmdLedStatus : Cmd := {
  opcode := 0x0600, role := fun _ => .reader, size := 0
  body := fun _ s =>
    let recs := s.led.accounts.map (fun (a, _) => committedAccount s a)
    let count (f : AccountRec → Bool) : Nat := recs.countP f
    let pend := s.gens.waiting.find? (fun g => g.table.key == (3, 0))
    okWith (le 4 (count (fun r => r.phase == .active)) ++ le 4 (count (fun r => r.phase == .active && r.prepay)) ++
      le 4 (count (fun r => r.supply == .offCredit)) ++ le 4 (count (fun r => r.supply == .offHost)) ++
      le 4 (s.led.accounts.countP (fun (_, p) => p.damaged)) ++ le 4 (s.led.tokens.countP (fun t => !t.macFail)) ++
      le 4 s.led.tariff.gen ++ le 1 s.led.billingMin ++ zeros 3 ++ le 8 ((pend.map (·.tick / 1024)).getD 0) ++
      le 4 s.led.jseq ++ le 4 (((s.led.journal.head?).map (·.seq)).getD s.led.jseq) ++
      le 8 s.led.tokensAccepted ++ le 8 s.led.tokensRejected) s }

/-- LED_ACCOUNT_READ (R316). -/
def cmdLedAccountRead : Cmd := {
  opcode := 0x0601, role := fun _ => .reader, size := 8
  body := fun c s =>
    let a := rd c.p 0 4
    let part := rd c.p 4 1
    checked [accountCheck c.p 0, inRange 4 (part ≤ 2), resv c.p 5 3] s
      (if accountDamaged s a then fail stNotReady 0 s
       else
         let stamp := match Tab.get s.led.accounts a with
           | some p => match accountSide s.led.record a p with
             | some true => p.a.stamp
             | some false => p.b.stamp
             | none => 0
           | none => 0
         let b := le 8 stamp ++ accountBytes (committedAccount s a)
         let data := if part = 0 then slice b 0 0x60 else if part = 1 then slice b 0x60 0x90 else slice b 0xF0 12
         okWith (le 1 part ++ zeros 7 ++ data) s) }

/-- Puts a host order on the list of those that wait (R308, R315). -/
def queueOrder (c : Ctx) (opcode account : Nat) (s : State) : State :=
  { s with led := { s.led with orders := s.led.orders ++
      [{ ref := c.ref, opcode := opcode, account := account, acceptedAt := s.time.uptime, body := c.p }] } }

/-- The active tariff table holds a plan. -/
def planExists (s : State) (id : Nat) : Bool := (planOf s.led.tariff id).isSome

/-- Field checks of LED_ACCOUNT_SET (R317). -/
def accountSetChecks (p : Bytes) (s : State) : List Check :=
  let act := rd p 4 1
  let cm := act == 0 || act == 1
  let zeroUnless (ok : Bool) (off n : Nat) : Check := field off (ok || rd p off n == 0)
  [accountCheck p 0, inRange 4 (act ≤ 4), field 5 (if cm then planExists s (rd p 5 1) else rd p 5 1 == 0),
   (6, if cm then stOutOfRange else stBadField, decide (rd p 6 1 ≤ cm.toNat)), resv p 7 1,
   field 8 (if act ≤ 1 || act == 4 then decide (rd p 8 4 < 2 ^ 23) else rd p 8 4 == 0),
   zeroUnless (act == 0) 12 6, resv p 18 6, zeroUnless (act == 0 || act == 4) 24 8, zeroUnless (act == 0 || act == 4) 32 8]

/-- LED_ACCOUNT_SET (R317). -/
def cmdLedAccountSet : Cmd := {
  opcode := 0x0602, role := fun _ => .operator, async := true, size := 40, dryrun := true, standby := true
  body := fun c s =>
    checked (accountSetChecks c.p s) s
      (let a := rd c.p 0 4
       if accountSetReady (committedAccount s a) (accountDamaged s a) (rd c.p 4 1) then
         .accepted (zeros 8) (queueOrder c 0x0602 a s)
       else fail stNotReady 0 s) }

/-- The account takes LED_ADJUST and LED_SUPPLY: ACTIVE and not damaged (R319, R320). -/
def accountReady (s : State) (a : Nat) : Bool := (committedAccount s a).phase == .active && !accountDamaged s a

/-- LED_ADJUST (R308, R319). -/
def cmdLedAdjust : Cmd := {
  opcode := 0x0604, role := fun _ => .operator, async := true, size := 20, standby := true
  body := fun c s =>
    checked [accountCheck c.p 0, inRange 4 (rd c.p 4 6 != 0)] s
      (if accountReady s (rd c.p 0 4) then .accepted [] (queueOrder c 0x0604 (rd c.p 0 4) s) else fail stNotReady 0 s) }

/-- LED_SUPPLY (R299, R300, R306, R320). -/
def cmdLedSupply : Cmd := {
  opcode := 0x0605, role := fun _ => .operator, async := true, size := 8, standby := true
  body := fun c s =>
    checked [accountCheck c.p 0, inRange 4 (rd c.p 4 1 ≤ 3), resv c.p 5 3] s
      (if accountReady s (rd c.p 0 4) then .accepted [] (queueOrder c 0x0605 (rd c.p 0 4) s) else fail stNotReady 0 s) }

/-- Field checks of an account image: reserved bits, reserved codes, plans of the active table (R4, R285, R321). -/
def imageChecks (p : Bytes) (s : State) : List Check :=
  [field 0 (decide (rd p 0 4 / 2 ^ 20 = 1)), field 4 (decide (rd p 4 1 < 16) && rd p 4 1 % 4 != 3),
   field 5 (planExists s (rd p 5 1)), field 6 (decide (rd p 6 1 < 64) && rd p 6 1 % 4 != 3), field 7 (decide (rd p 7 1 < 32)),
   field 31 (!(rd p 4 1).testBit 3 || planExists s (rd p 31 1)), field 68 (decide (rd p 68 4 < 2 ^ 23))]

/-- LED_ACCOUNT_RESTORE (R313, R321). -/
def cmdLedAccountRestore : Cmd := {
  opcode := 0x0606, role := fun _ => .warden, async := true, size := 240, standby := true
  body := fun c s =>
    checked (imageChecks c.p s) s
      (let a := rd c.p 0 4 % 2 ^ 20
       if accountDamaged s a then .accepted [] (queueOrder c 0x0606 a s) else fail stNotReady 0 s) }

/-- LED_TARIFF_ARM: the table follows as pages (R322). -/
def cmdLedTariffArm : Cmd := {
  opcode := 0x0610, role := fun _ => .operator, async := true, size := 24, dryrun := true, stream := true, standby := true
  body := fun c s =>
    let ch := rd c.p 0 1
    let len := rd c.p 16 4
    checked [inRange 0 (1 ≤ ch && ch ≤ 7), groupCheck c.p 1 2, resv c.p 3 1, inRange 4 (rd c.p 4 4 != 0),
        inRange 8 (activationTick (.tariff {}) (roundTick (rd c.p 8 8)) s).isSome, inRange 16 (64 ≤ len && len ≤ 34208)] s
      (if armBusy (.tariff {}) s then fail stBusy 1 s
       else if !channelIdle s ch then fail stBusy 0 s
       else .accepted [] (receiveTransfer c 0x0610 ch (rd c.p 4 4) len (rd c.p 20 4) 16 20 s)) }

/-- Completes a received LED_TARIFF_ARM transfer: validates the table and arms it (R14, R15, R291, R322). -/
def tariffReceived (t : Transfer) (s : State) : State :=
  match decodeTariff s t.data with
  | .error (e, o) => tableFault t.ref e o s
  | .ok x =>
    let p := t.request.args
    let table := { x with hash := sha256 t.data }
    match activationTick (.tariff table) (roundTick (rd p 8 8)) s with
    | none => complete t.ref stOutOfRange 24 [] s
    | some tick =>
      if armBusy (.tariff table) s then complete t.ref stBusy 1 [] s
      else if t.dryrun then complete t.ref stOk 0 (le 8 (tick / 1024) ++ zeros 8) s
      else armGen { table := .tariff table, opcode := 0x0610, tick := tick, groupId := rd p 1 1
                    groupMembers := rd p 2 1, ref := some t.ref } s

/-- A tariff table activates: generation, TARIFF entry, TARIFF_ACTIVATED, completion; the eight latest are kept; a changed
billing interval waits for UTC midnight (R293, R322). -/
def applyTariff (g : PendingGen) (x : Tariff) (s : State) : State :=
  let n := nextGenNumber 3 s
  let s := n.2
  let t := { x with gen := n.1, activated := now s }
  let midnight := now s + ((-(utcMs (effectiveCivil s) (now s))) % 86400000).toNat
  let s := { s with led := { s.led with
    tariff := t, retained := (t :: s.led.retained).take 8
    billingNext := if t.billingMin = s.led.billingMin then none else some (t.billingMin, midnight) } }
  let s := journal 2 (le 4 n.1 ++ le 8 g.tick ++ pad 32 t.hash) s
  let s := raiseEvent 0x0605 n.1 false (le 8 (g.tick / 1024) ++ zeros 8) s
  match g.ref with
  | some r => complete r stOk 0 (le 8 (g.tick / 1024) ++ le 4 n.1 ++ zeros 4) s
  | none => s

/-- A waiting billing interval takes effect at its UTC midnight (R293). -/
def billingStep (s : State) : State :=
  match s.led.billingNext with
  | some (m, at') => if at' ≤ now s then { s with led := { s.led with billingMin := m, billingNext := none } } else s
  | none => s

/-- LED_LOCAL_READ (R323). -/
def cmdLedLocalRead : Cmd := {
  opcode := 0x0620, role := fun _ => .reader, size := 4
  body := fun c s =>
    let k := rd c.p 0 1
    let part := rd c.p 1 1
    checked [inRange 0 (k ≤ 31), inRange 1 (part ≤ 5), resv c.p 2 2] s
      (match committedLocal s k with
       | none => fail stNotReady 0 s
       | some r =>
         let b := localBytes (localStamp s k) r
         let b := b ++ le 4 (crc32 (b.drop 8))
         okWith (le 1 k ++ le 1 part ++ zeros 6 ++ slice b (192 * part) (if part = 5 then 64 else 192)) s) }

/-- A journal entry as the ring holds it (R311); what a lost one reads as is a free value (R211 of 07; log 41). -/
def journalBytes (e : JournalEntry) : Bytes :=
  if e.lost then lostBytes e.seq e.len
  else
  let b := le 2 e.len ++ le 2 e.kind ++ le 4 e.seq ++ le 8 e.tick ++ pad (e.len - 20) e.data
  b ++ le 4 (crc32 b)

/-- LED_JOURNAL_READ: entries from a jseq on, PAD entries left out, each whole in one page (R324). -/
def cmdLedJournalRead : Cmd := {
  opcode := 0x0630, role := fun _ => .reader, async := true, size := 16
  body := fun c s =>
    let ch := rd c.p 0 1
    let from' := rd c.p 8 4
    let n := rd c.p 12 4
    checked [inRange 0 (1 ≤ ch && ch ≤ 7), resv c.p 1 3, inRange 4 (rd c.p 4 4 != 0), inRange 12 (1 ≤ n && n ≤ 4194304)] s
      (match s.led.journal.find? (fun e => e.seq == from') with
       | none => fail stNotReady 0 s
       | some _ =>
         if !channelIdle s ch then fail stBusy 0 s
         else
           let es := ((s.led.journal.dropWhile (fun e => e.seq != from')).filter (fun e => e.kind != 0)).take n
           let s := sendTransfer ch { ref := c.ref, opcode := 0x0630, transferId := rd c.p 4 4, request := c.rq
                                      dryrun := false, expected := 0, crc := 0 } (packRecords (es.map journalBytes) []) s
           let next := ((es.getLast?).map (fun e => (e.seq + 1) % 2 ^ 32)).getD from'
           .accepted [] (complete c.ref stOk 0 (le 4 es.length ++ le 4 next) s)) }

def execLedStatus (rq : Request) (s : State) : Result := .next (submit cmdLedStatus rq s)
def execLedAccountRead (rq : Request) (s : State) : Result := .next (submit cmdLedAccountRead rq s)
def execLedAccountSet (rq : Request) (s : State) : Result := .next (submit cmdLedAccountSet rq s)
def execLedAdjust (rq : Request) (s : State) : Result := .next (submit cmdLedAdjust rq s)
def execLedSupply (rq : Request) (s : State) : Result := .next (submit cmdLedSupply rq s)
def execLedAccountRestore (rq : Request) (s : State) : Result := .next (submit cmdLedAccountRestore rq s)
def execLedTariffArm (rq : Request) (s : State) : Result := .next (submit cmdLedTariffArm rq s)
def execLedLocalRead (rq : Request) (s : State) : Result := .next (submit cmdLedLocalRead rq s)
def execLedJournalRead (rq : Request) (s : State) : Result := .next (submit cmdLedJournalRead rq s)

end Sys2Proof.Machine
end

