-- ==== Sys2Proof/Machine/Metrology.lean ====
section
/-!
DEFINITION. Metrology: corrections, channel sets and energy, the floret checks, maximum demand. Chapter 08 of the spec
(R228 to R254).
-/

namespace Sys2Proof.Machine

/-! ## Units

A corrected sample is held exactly, in units of 1 ÷ `sampleUnit` LSB: offset counts 2^−8 LSB, gain 2^−30, and the
temperature gain 10^−7 (R236, R237). -/

/-- Units of a corrected sample in one LSB. -/
def sampleUnit : Nat := 2 ^ 38 * 10 ^ 7
/-- LSB at the peak of a channel's range (R230). -/
def fullScale : Nat := 8000000
/-- Denominator of a window's power in µW, µvar or µVA (R236 step 5, R242): 32 samples, two samples' units, two scales. -/
def powerDen : Nat := 32 * (sampleUnit * sampleUnit) * (fullScale * fullScale)
/-- Denominator of a window's energy in µWh: a window is 1 ms (R243). -/
def whDen : Nat := powerDen * 3600000

/-- The exact quotient where it is whole, otherwise the whole number below or above it: which of the two the spec does not say
(log 17). -/
def exactOr (num : Int) (den : Nat) : Int :=
  if den ≠ 0 && num % (den : Int) = 0 then num / (den : Int) else num / (den : Int) + Config.roundValue num den % 2

/-- The exact square root where it is whole, otherwise the whole number below or above it (log 17). -/
def rootOr (num den : Nat) : Nat :=
  if den ≠ 0 && num % den = 0 && isqrt (num / den) * isqrt (num / den) = num / den then isqrt (num / den)
  else isqrt (num / den) + Config.roundRoot num den % 2

/-! ## Accessors -/

/-- Channel state. -/
def metChan (s : State) (c : Nat) : MetChannel := s.met.channels.getD c {}
/-- Set state. -/
def metSet (s : State) (k : Nat) : MetSet := s.met.sets.getD k {}
/-- Changes metrology state. -/
def setMet (f : MetState → MetState) (s : State) : State := { s with met := f s.met }
/-- Changes a channel. -/
def setMetChan (c : Nat) (f : MetChannel → MetChannel) (s : State) : State :=
  setMet (fun m => { m with channels := modAt m.channels c f }) s
/-- Changes a set. -/
def setMetSet (k : Nat) (f : MetSet → MetSet) (s : State) : State :=
  setMet (fun m => { m with sets := modAt m.sets k f }) s

/-- Samples of a channel in a window; none where the window is not held. -/
def windowSamples (s : State) (c window : Nat) : List Int :=
  match (metChan s c).recent.find? (fun x => x.window == window) with
  | some x => x.samples
  | none => []

/-- Windows of a channel over the last 200 ms up to a window, latest first (R242). -/
def lastWindows (s : State) (c window : Nat) : List ChanWindow :=
  (metChan s c).recent.filter (fun x => decide (window < x.window + 200) && decide (x.window ≤ window))

/-- Samples of a channel over the last 200 ms up to a window, oldest first (R242). -/
def pastSamples (s : State) (c window : Nat) : List Int := (lastWindows s c window).reverse.flatMap (·.samples)

/-- Channel entry of the active calibration (R269); a channel without an entry is unused (R270). -/
def calChannel (r : CalRecord) (c : Nat) : Option CalChannel :=
  match r.channels.find? (fun e => e.channel == c) with
  | some e => if e.sensor = 0 then none else some e
  | none => none

/-- Set entry of a calibration record, if the set is in use (R240). -/
def calSet (r : CalRecord) (k : Nat) : Option CalSet :=
  match r.sets.find? (fun e => e.set == k) with
  | some e => if e.kind = 0 then none else some e
  | none => none

/-- First channel of a satellite: ring `i`, position `p` (R228). -/
def satChannel (i p : Nat) : Nat := 64 + 64 * i + 4 * p

/-- A channel is a current channel by R228, or by its entry for satellite channels. -/
def isCurrentChannel (e : CalChannel) : Bool :=
  if e.channel < 40 then true else if e.channel < 64 then false else !e.voltage

/-- Elements of a set: current channel with voltage channel (R240). -/
def setElements (e : CalSet) : List (Nat × Nat) :=
  ((List.zip e.current e.voltage).filter (fun (i, v) => i != 0xFF && v != 0xFF))

/-- All channels a set uses, the neutral among them. -/
def setChannels (e : CalSet) : List Nat :=
  ((e.current ++ e.voltage ++ [e.neutral]).filter (· != 0xFF)).eraseDups

/-! ## Corrections (R230, R236 to R238) -/

/-- A modulator sample saturates at ±8,388,607 (R230). -/
def saturate (x : Int) : Int := clamp (-8388607) 8388607 x

/-- A saturated sample is a clip (R230). -/
def isClip (x : Int) : Bool := x.natAbs ≥ 8388607

/-- Linear interpolation of a table column at temperature `t` (R237): the value, and whether `t` lies outside. The
points are temperature and value, ascending. -/
def interpolate (t : Int) : List (Int × Int) → Int × Bool
  | [] => (0, false)
  | [(t0, v0)] => (v0, decide (t ≠ t0))
  | (t0, v0) :: (t1, v1) :: ps =>
    if t < t0 then (v0, true)
    else if t ≤ t1 then (roundHalfAway (v0 * (t1 - t0) + (v1 - v0) * (t - t0)) (t1 - t0).toNat, false)
    else interpolate t ((t1, v1) :: ps)

/-- g(T) in 0.1 ppm and d(T) in units of 1/4,096 sample, and whether T lies outside the table; 0 with compensation
off (R237). -/
def tempCorrection (e : CalChannel) (t : Int) : Int × Int × Bool :=
  if !e.compensated then (0, 0, false)
  else
    let g := interpolate t (e.points.map (fun (a, b, _) => (a, b)))
    let d := interpolate t (e.points.map (fun (a, _, c) => (a, c)))
    (g.1, d.1, g.2)

/-- Total delay, clamped to ±8 samples, and whether it had to be clamped (R238). -/
def totalDelay (e : CalChannel) (d : Int) : Int × Bool :=
  let x := e.delay + d
  (clamp (-32768) 32767 x, decide (x < -32768 || 32767 < x))

/-- Steps 1 to 3 of R236 on one sample: offset, integration for a coil at the record's nominal frequency (R231), gain with g(T). Answers the integrator's history
and the corrected sample. -/
def correctSample (fNom : Nat) (e : CalChannel) (g : Int) (coil : Int) (x : Int) : Int × Int :=
  let a := 256 * saturate x - e.offset
  let b := if e.sensor = 3 then Config.coilStep fNom coil a else (coil, a)
  (b.1, b.2 * (e.gain : Int) * (10 ^ 7 + g))

/-- Steps 1 to 3 of R236 over a window, in order. -/
def correctAll (fNom : Nat) (e : CalChannel) (g : Int) : Int → List Int → Int × List Int
  | coil, [] => (coil, [])
  | coil, x :: xs =>
    let r := correctSample fNom e g coil x
    let rs := correctAll fNom e g r.1 xs
    (rs.1, r.2 :: rs.2)

/-- Step 4 of R236: 32 samples out of 48 (16 before the window), delayed by 8 samples of pipeline and `d` units. A whole
number of samples is a shift; between samples the filter is not given (log 17). -/
def delayWindow (line48 : List Int) (d : Int) : List Int :=
  if d % 4096 = 0 then (line48.drop (8 - d / 4096).toNat).take 32
  else Config.delayFilter line48 d

/-- Corrects one window of a local channel (R236 to R239). -/
def correctWindow (fNom : Nat) (e : CalChannel) (temp : Int) (window : Nat) (raw : List Int) (c : MetChannel) : MetChannel :=
  let (g, d, outside) := tempCorrection e temp
  let (dt, clamped) := totalDelay e d
  let (coil, ys) := correctAll fNom e g c.coil raw
  let line := List.replicate (16 - c.line.length) 0 ++ c.line ++ ys
  let w : ChanWindow := { window := window, samples := delayWindow line dt, clips := raw.countP isClip,
                          largest := (raw.map Int.natAbs).foldl max 0 }
  { c with
    line := line.drop (line.length - 16)
    coil := coil
    latest := some w
    recent := (w :: c.recent).take (if isCurrentChannel e then 1 else 200)
    temperature := temp, delayTotal := dt, gainTc := g, tempFlag := outside, clamped := clamped }

/-! ## Power and energy of a window (R242, R243, R247) -/

/-- Sum of products of two windows. -/
def dot (a b : List Int) : Int := (List.zipWith (· * ·) a b).foldl (· + ·) 0

/-- Primary full scale of a channel (R236 step 5). -/
def fsOf (r : CalRecord) (c : Nat) : Nat := ((calChannel r c).map (·.fsPrimary)).getD 0

/-- The window at the end of some samples, oldest first, delayed by `d` units of 1/4,096 sample: a whole number of samples is a shift,
between samples the fractional-delay filter is not given (log 17). -/
def delayed (past : List Int) (d : Int) : List Int :=
  if d % 4096 = 0 then
    let n := 32 + (d / 4096).toNat
    ((List.replicate (n - past.length) 0 ++ past).drop (past.length - n)).take 32
  else Config.delayFilter past d

/-- P, Q and S of a set from its windows, as numerators over `powerDen` (R242). `w` gives a channel's samples in the window, `past` those
of the last 200 ms: the period is measured on the set's first voltage channel. -/
def setPower (r : CalRecord) (e : CalSet) (w past : Nat → List Int) : Int × Int × Nat :=
  let es := setElements e
  let scale (i v : Nat) : Int := (fsOf r i : Int) * (fsOf r v : Int)
  let quarter := Config.quarterPeriod (past ((e.voltage.head?).getD 0xFF))
  let p := (es.map (fun (i, v) => dot (w v) (w i) * scale i v)).foldl (· + ·) 0
  let q := if e.kind = 4 then 0
    else (es.map (fun (i, v) => dot (delayed (past v) quarter) (w i) * scale i v)).foldl (· + ·) 0
  let p := if e.reverse then -p else p
  let q := if e.reverse then -q else q
  let sva := if e.kind = 4 then p.natAbs
    else (es.map (fun (i, v) => isqrt ((dot (w v) (w v) * dot (w i) (w i)).toNat) * (scale i v).natAbs)).foldl (· + ·) 0
  (p, q, sva)

/-- Frequency of a set in mHz: 0 for DC, before 200 ms of measurement exist, and with no voltage on the channel (R248, *MET_SET_READ*). -/
def setFrequency (s : State) (e : CalSet) (window : Nat) : Nat :=
  let c := (e.voltage.head?).getD 0xFF
  if e.kind = 4 || (lastWindows s c window).length < 200 || (pastSamples s c window).all (· == 0) then 0
  else Config.frequency (pastSamples s c window)

/-- A power magnitude lies below a threshold in mW, mvar or mVA; 0 disables it (R247). -/
def belowNoload (x : Nat) (mw : Nat) : Bool := mw ≠ 0 && x < mw * 1000 * powerDen

/-- What a window adds to the five counters, as numerators over `whDen` (R243, R247): a window's power over 1 ms. -/
def windowEnergies (e : CalSet) (p q : Int) (sva : Nat) : List Nat :=
  let pa := belowNoload p.natAbs e.noloadMw
  let qa := belowNoload q.natAbs e.noloadMvar
  let sa := belowNoload sva e.noloadMw
  [ if 0 < p && !pa then p.natAbs else 0, if p < 0 && !pa then p.natAbs else 0,
    if 0 < q && !qa then q.natAbs else 0, if q < 0 && !qa then q.natAbs else 0, if sa then 0 else sva ]

/-- Adds numerators to counters that keep their fractions (R243): whole µWh and remainders. -/
def addEnergies (counters fractions adds : List Nat) : List Nat × List Nat :=
  let f := List.zipWith (· + ·) fractions adds
  (List.zipWith (fun c x => (c + x / whDen) % 2 ^ 64) counters f, f.map (· % whDen))

/-- Advances a local set by one window from the corrected samples at the counting point (R242, R243). -/
def countSet (r : CalRecord) (e : CalSet) (window : Nat) (s : State) : State :=
  let (p, q, sva) := setPower r e (windowSamples s · window) (pastSamples s · window)
  let cs := setChannels e
  setMetSet e.set (fun m =>
    let (c, f) := addEnergies m.counters m.fractions (windowEnergies e p q sva)
    { m with
      counters := c, fractions := f, epoch := s.met.fieldEpoch, window := window
      clip := cs.any (fun x => match (metChan s x).latest with
        | some y => 0 < y.clips
        | none => false)
      temperature := cs.any (fun x => (metChan s x).tempFlag)
      settling := !s.met.coilSettled && cs.any (fun x => match calChannel r x with
        | some y => y.sensor == 3
        | none => false) }) s

/-- Captures raw samples while a capture runs (R280): sum, sum of squares, count, clipped, served by the spare. -/
def captureWindow (raw : RawWindow) (s : State) : State :=
  match s.met.capture with
  | some c =>
    if c.running && c.channels.contains raw.channel && c.done < c.ticks then
      let old := Tab.getD c.acc raw.channel (0, 0, 0, false, false)
      let new := (old.1 + raw.samples.foldl (· + ·) 0,
        old.2.1 + (raw.samples.map (fun x => x.natAbs * x.natAbs)).foldl (· + ·) 0,
        old.2.2.1 + raw.samples.length, old.2.2.2.1 || raw.samples.any isClip,
        old.2.2.2.2 || (metChan s raw.channel).onSpare)
      setMet (fun m => { m with capture := some { c with acc := Tab.put c.acc raw.channel new } }) s
    else s
  | none => s

/-- One local channel's window at the counting point: correction, CLIP event, delay-clamp fault (R230, R236, R238). -/
def meterChannel (temps : List Int) (window : Nat) (s : State) (raw : RawWindow) : State :=
  let r := calibAt s window
  match calChannel r raw.channel with
  | none => s
  | some e =>
    if 64 ≤ raw.channel then s
    else
      let s := captureWindow raw s
      let s := setMetChan raw.channel (correctWindow r.fNom e (temps.getD (raw.channel / 16) 0) window raw.samples) s
      let c := metChan s raw.channel
      let clips := raw.samples.countP isClip
      let s := if 0 < clips then
          raiseEvent 0x0503 raw.channel true (le 4 clips ++ le 4 8388607 ++ le 8 window) s
        else s
      if c.clamped then raiseFault 0x50 1 s else s

/-- A demand configuration changes nothing: neither quantity nor interval nor sub_count (R254). -/
def demandSame (old : Option DemandReg) (d : DemandPending) : Bool :=
  match old with
  | some o => o.quantity == d.quantity && o.intervalMin == d.intervalMin && o.subCount == d.subCount
  | none => d.quantity == 0xFF

/-- Applies the demand resets and configurations whose tick has come; a configuration that changes nothing leaves its register as it is
(R254, R281, R282). -/
def applyDemandPending (s : State) : State :=
  let resets := s.met.demandResets.filter (fun (_, _, t, _, _) => t ≤ now s)
  let s := setMet (fun m => { m with demandResets := m.demandResets.filter (fun (_, _, t, _, _) => now s < t) }) s
  let s := resets.foldl (fun s (k, mask, _, pr, ro) =>
    let s := setMetSet k (fun m => { m with demand := m.demand.map (fun (i, d) =>
      if mask.testBit i then (i, { d with previous := d.maximum, maximum := 0 }) else (i, d)) }) s
    audit 11 pr ro (le 1 k ++ le 1 mask) s) s
  let due := s.met.demandPending.filter (fun d => d.tick ≤ now s)
  let s := setMet (fun m => { m with demandPending := m.demandPending.filter (fun d => now s < d.tick) }) s
  due.foldl (fun s d =>
    let old := Tab.get (metSet s d.set).demand d.reg
    if demandSame old d then s
    else
      let s := setMetSet d.set (fun m =>
        if d.quantity = 0xFF then { m with demand := Tab.del m.demand d.reg }
        else { m with demand := Tab.put m.demand d.reg {
            quantity := d.quantity, intervalMin := d.intervalMin, subCount := d.subCount
            previous := (old.map (·.maximum)).getD 0, maximum := 0, maxEndTick := 0
            runStart := (m.counters.getD d.quantity 0 : Nat), runStartTick := now s
            index := some ((utcMs (effectiveCivil s) (now s) / (60000 * d.intervalMin / d.subCount : Nat)).toNat) } }) s
      audit 10 d.principal d.role (le 1 d.set ++ le 1 d.reg) s) s

/-- The counting point at a tick start: GL-F latches and counts window n−1 of every local set, demand registers count a
tick, and a running capture counts a window (R18, R242 to R244, R250). Only while FIELD is powered. -/
def meterTick (inp : TickInputs) (s : State) : State :=
  if !s.pwr.fieldOn then s
  else
    let window := now s - 1
    let s := inp.windows.foldl (meterChannel inp.groupTemps window) s
    let r := calibAt s window
    let s := r.sets.foldl (fun s e => if e.kind ≠ 0 && e.location = 0 then countSet r e window s else s) s
    let s := setMet (fun m => { m with
      sets := m.sets.map (fun k => { k with demand := k.demand.map (fun (i, d) => (i, { d with runTicks := d.runTicks + 1 })) })
      capture := m.capture.map (fun c => if c.running && c.done < c.ticks then { c with done := c.done + 1 } else c) }) s
    applyDemandPending s

/-- The uplink frame of window n−1: local counters and samples reach GL-C (R20, R244, R248). -/
def uplinkMetrology (s : State) : State :=
  let r := calibAt s (now s - 1)
  setMet (fun m => { m with
    channels := (List.range m.channels.length).map (fun c =>
      let x := m.channels.getD c {}
      if c < 64 then { x with delivered := x.latest } else x)
    sets := (List.range m.sets.length).map (fun k =>
      let x := m.sets.getD k {}
      match calSet r k with
      | some e =>
        if e.location = 0 then
          { x with deliveredBefore := x.delivered, delivered := some (x.epoch, x.window, x.counters) }
        else x
      | none => x) }) s

/-! ## MET_CHANNEL (R248, R249) -/

/-- The set whose check and power MET_CHANNEL computes at a channel: the first current channel of the set. -/
def setOfChannel (r : CalRecord) (c : Nat) : List CalSet :=
  r.sets.filter (fun e => e.kind != 0 && e.current.head? == some c)

/-- Raises or clears the check flag of a set by one comparison (R249). `diff` is counted less recomputed, over `whDen`. -/
def checkSet (e : CalSet) (window : Nat) (num : Int) (inc : Int) (s : State) : State :=
  let diff := inc * (whDen : Int) - num
  let mismatch := decide (100000 * diff.natAbs > 100000 * whDen + num.natAbs)
  let k := metSet s e.set
  if mismatch then
    let s := raiseEvent 0x0502 e.set true (le 8 window ++ leS 4 (exactOr diff whDen) ++ zeros 4) s
    let s := setMetSet e.set (fun m => { m with mismatches := m.mismatches + 1, matches' := 0 }) s
    if k.mismatches + 1 = 4 && !k.check then
      audit 13 0xFF 0 (le 1 e.set ++ le 1 1)
        (raiseFault 0x51 1 (setMetSet e.set (fun m => { m with check := true }) s))
    else s
  else
    let s := setMetSet e.set (fun m => { m with mismatches := 0, matches' := m.matches' + 1 }) s
    if k.check && k.matches' + 1 = 1024 then
      let s := audit 13 0xFF 0 (le 1 e.set ++ le 1 0) (setMetSet e.set (fun m => { m with check := false }) s)
      if s.met.sets.any (·.check) then s else endFault 0x51 s
    else s

/-- Counters of a set as they came with a window, with their epoch: a local set's latest two windows, a satellite set's records (R244,
R249). -/
def countersAt (m : MetSet) (window : Nat) : Option (Nat × List Nat) :=
  match (m.delivered.toList ++ m.deliveredBefore.toList).find? (fun e => e.2.1 == window) with
  | some e => some (e.1, e.2.2)
  | none => (m.received.find? (fun e => e.1 == window)).map (·.2)

/-- P, Q, S, frequency and check of a set for a window that has reached GL-C; the values of a window older than the latest one processed
are not kept (R248, R249, R264). -/
def runSet (r : CalRecord) (window : Nat) (newest : Bool) (s : State) (e : CalSet) : State :=
  let (p, q, sva) := setPower r e (windowSamples s · window) (pastSamples s · window)
  let f := setFrequency s e window
  let k := metSet s e.set
  let s := if newest then setMetSet e.set (fun m => { m with p := p, q := q, sva := sva, freq := f }) s else s
  match countersAt k (window - 1), countersAt k window with
  | some (before, old), some (epoch, counters) =>
    if before = epoch && !belowNoload p.natAbs e.noloadMw then
      let inc : Int := ((counters.getD 0 0 : Nat) : Int) - (old.getD 0 0 : Nat) - ((counters.getD 1 0 : Nat) - (old.getD 1 0 : Nat) : Int)
      checkSet e window p inc s
    else s
  | _, _ => s

/-- MET_CHANNEL on one window of a channel: RMS, mean, peak, fundamental, and the checks of the sets it leads (R248, R249). -/
def runWindow (c : Nat) (w : ChanWindow) (s : State) : State :=
  let r := calibAt s w.window
  match calChannel r c with
  | some e =>
    let newest := match (metChan s c).processed with
      | some x => decide (x < w.window)
      | none => true
    let n := w.samples.length
    let unit := sampleUnit * fullScale
    let sq := (dot w.samples w.samples).toNat * (e.fsPrimary * e.fsPrimary)
    let fund := Config.fundamental w.samples
    let s := if newest then setMetChan c (fun m => { m with
        rms := rootOr sq (n * unit * unit)
        mean := exactOr (w.samples.foldl (· + ·) 0 * (e.fsPrimary : Int)) (n * unit)
        peak := (exactOr (((w.samples.map Int.natAbs).foldl max 0 * e.fsPrimary : Nat) : Int) unit).toNat
        fundAmplitude := fund.1, fundPhase := fund.2, clips := w.clips, processed := some w.window }) s
      else s
    (setOfChannel r c).foldl (runSet r w.window newest) s
  | none => s

/-- MET_CHANNEL for one channel in a tick: a local channel's window n−1, every window of a satellite's channel received since it last ran,
oldest first (R248, R264). -/
def runMetChannel (c label : Nat) (s : State) : State :=
  if c < 64 then
    match (metChan s c).delivered with
    | some w => if w.window + 1 = label then runWindow c w s else s
    | none => s
  else
    let m := metChan s c
    let due := m.recent.reverse.filter (fun w => m.arrived.contains w.window)
    due.foldl (fun s w => runWindow c w s) (setMetChan c (fun m => { m with arrived := [] }) s)

/-! ## Maximum demand (R250 to R254) -/

/-- Length of a sub-interval in ticks (R250). -/
def subLength (d : DemandReg) : Nat := 60000 * d.intervalMin / d.subCount

/-- Sub-interval a Gliris time lies in, counted from 2020-01-01T00:00:00 UTC (R250: boundaries at whole multiples of the
sub-interval after midnight UTC). -/
def subIndex (s : State) (d : DemandReg) (t : Nat) : Nat :=
  (utcMs (effectiveCivil s) t / ((subLength d : Nat) : Int)).toNat

/-- A boundary is due: a later sub-interval has begun, or the running one has reached twice its nominal length (R252). -/
def boundaryDue (s : State) (d : DemandReg) : Bool :=
  match d.index with
  | some i => decide (i < subIndex s d (now s)) || decide (2 * subLength d ≤ d.runTicks)
  | none => false

/-- Demand in W, var or VA of some energy over some ticks: 3.6 × µWh ÷ ticks (R251). -/
def demandOf (energy ticks : Nat) : Nat := (exactOr ((36 * energy : Nat) : Int) (10 * ticks)).toNat

/-- First boundary of a sub-interval length (ms) at a Gliris time of at least `from'` (R250, R281). -/
def boundaryFrom (s : State) (len from' : Nat) : Nat :=
  let u := utcMs (effectiveCivil s) from'
  from' + ((-u) % (len : Int)).toNat

/-- Closes a sub-interval at a counter value: demand of the last `sub_count` sub-intervals, flags, maximum (R251, R252). Its ticks count
up to the boundary `b`; those counted since belong to the next one. Answers the register, and whether the maximum was replaced. -/
def closeSub (d : DemandReg) (counter : Nat) (b : DemandWait) (irregular : Bool) : DemandReg × Bool :=
  let hist := ((d.runStart, b.ticks) :: d.history).take 15
  let marks := ((d.runPartial, d.runIrregular || irregular) :: d.marks).take 15
  let part := hist.take d.subCount
  let full := decide (part.length = d.subCount)
  let start := ((part.getLast?).map (·.1)).getD 0
  let ticks := (part.map (·.2)).foldl (· + ·) 0
  let nominal := 60000 * d.intervalMin
  let off := decide (ticks + 1000 < nominal || nominal + 1000 < ticks)
  let irr := off || (marks.take d.subCount).any (·.2)
  let par := (marks.take d.subCount).any (·.1)
  let w := demandOf ((counter : Int) - start).toNat ticks
  let eligible := full && (decide (nominal ≤ 2 * ticks) || !irr)
  let better := eligible && decide (d.maximum < w)
  ({ d with
      history := hist, marks := marks, runStart := counter, runStartTick := b.tick, runTicks := d.runTicks - b.ticks
      runPartial := false, runIrregular := false, index := some b.index, waits := none
      current := if full then w else d.current, partialFlag := par, irregular := irr
      maximum := if better then w else d.maximum
      maxEndTick := if better then b.tick else d.maxEndTick }, better)

/-- The boundary at the tick that runs (R251). -/
def boundaryNow (s : State) (d : DemandReg) : DemandWait :=
  { window := now s - 1, tick := now s, index := subIndex s d (now s), ticks := d.runTicks }

/-- Stores a register's close and reports a new maximum (R251, DEMAND_MAX of R274). -/
def storeDemand (k reg : Nat) (r : DemandReg × Bool) (s : State) : State :=
  let s := setMetSet k (fun m => { m with demand := Tab.put m.demand reg r.1 }) s
  if r.2 then raiseEvent 0x0504 (4 * k + reg) true (le 4 r.1.maximum ++ zeros 4 ++ le 8 r.1.maxEndTick) s else s

/-- The boundaries of a satellite set that wait close with the record of the window awaited. Once that record is lost, which is when the
window has left the satellite's buffer, they close with the nearest later record, and the interval is irregular: its length is then
measured up to that record's window (R251, R252). `lost` says which windows are. -/
def closeWaiting (k : Nat) (lost : Nat → Bool) (s : State) : State :=
  let m := metSet s k
  m.demand.foldl (fun s (reg, d) =>
    match d.waits with
    | none => s
    | some b =>
      match m.received.find? (fun e => e.1 == b.window) with
      | some e => storeDemand k reg (closeSub d (e.2.2.getD d.quantity 0) b false) s
      | none =>
        if !lost b.window then s
        else
          match (m.received.filter (fun e => decide (b.window < e.1))).getLast? with
          | some e =>
            storeDemand k reg (closeSub d (e.2.2.getD d.quantity 0) { b with ticks := b.ticks + (e.1 - b.window) } true) s
          | none => s) s

/-- A sub-interval boundary of a register (R251). A satellite set's closes once the record of the window before the boundary has been
received. -/
def demandBoundary (k reg : Nat) (s : State) : State :=
  match calSet s.met.calib k, Tab.get (metSet s k).demand reg with
  | some e, some d =>
    if !s.pwr.fieldOn || !boundaryDue s d || d.waits.isSome then s
    else if e.location = 0 then
      storeDemand k reg (closeSub d ((metSet s k).counters.getD d.quantity 0) (boundaryNow s d) false) s
    else
      closeWaiting k (fun _ => false)
        (setMetSet k (fun m => { m with demand := Tab.put m.demand reg { d with waits := some (boundaryNow s d) } }) s)
  | _, _ => s

/-- Time without power, from one Gliris time to now, counts at zero energy (R252): the boundaries passed meanwhile close at an unchanged
counter. Sixteen empty sub-intervals empty every window, so that later ones add nothing. -/
def unpoweredTime (s : State) (from' counter : Nat) (d : DemandReg) : DemandReg × Bool :=
  let len := subLength d
  let close (x : (DemandReg × Bool) × Nat) (_ : Nat) : (DemandReg × Bool) × Nat :=
    let (r, at') := x
    let b := boundaryFrom s len (at' + 1)
    if len = 0 || now s < b then x
    else
      let c := closeSub { r.1 with runTicks := r.1.runTicks + (b - at'), runPartial := true } counter
        { window := b - 1, tick := b, index := subIndex s d b, ticks := r.1.runTicks + (b - at') } false
      ((c.1, r.2 || c.2), b)
  let x := (List.range 16).foldl close ((d, false), from')
  ({ x.1.1 with runTicks := x.1.1.runTicks + (now s - x.2), runPartial := true, index := some (subIndex s d (now s)) }, x.1.2)

/-- A set's registers take in the time that FIELD was unpowered (R252, R253). -/
def demandUnpowered (from' : Nat) (counters : List Nat) (s : State) (k : Nat) : State :=
  (metSet s k).demand.foldl (fun s (reg, d) =>
    storeDemand k reg (unpoweredTime s from' (counters.getD d.quantity 0) d) s) s

/-- A counter source starts anew from zero: its set's registers count on from there, and the interval that runs is partial (R244,
R252). -/
def demandRestart (m : MetSet) (old : List Nat) : Table DemandReg :=
  m.demand.map (fun (i, d) =>
    let c : Int := (old.getD d.quantity 0 : Nat)
    (i, { d with runStart := d.runStart - c, history := d.history.map (fun (a, t) => (a - c, t)), runPartial := true }))

/-- A time step falls inside the intervals that run: they are irregular (R252). -/
def demandStepped (s : State) : State :=
  setMet (fun m => { m with sets := m.sets.map (fun k =>
    { k with demand := k.demand.map (fun (i, d) => (i, { d with runIrregular := true })) }) }) s

/-- FIELD power is lost: counters' fractions go, intervals in progress are partial, and the primaries serve, but where a channel is pinned
to its spare (R245, R252, R267). -/
def metFieldDown (s : State) : State :=
  let pinned (c : Nat) : Bool := ((s.met.groups.getD (c / 16) {}).phase == .pinned) && (s.met.groups.getD (c / 16) {}).index == c % 16
  setMet (fun m => { m with
    sets := m.sets.map (fun k => { k with
      demand := k.demand.map (fun (i, d) => (i, { d with runPartial := true })) })
    groups := (List.range m.groups.length).map (fun g =>
      let x := m.groups.getD g {}
      if 4 ≤ g || x.phase == .pinned then x
      else { x with phase := .idle, index := 0, started := false, primaryOut := false, suspect := false })
    channels := (List.range m.channels.length).map (fun c =>
      let x := m.channels.getD c {}
      { x with line := [], coil := 0, latest := none, delivered := none, recent := [], arrived := []
               onSpare := x.onSpare && (64 ≤ c || pinned c) })
    coilSettled := false }) s

/-- FIELD power comes up: the GL-F epoch increments, counters start from zero, coils settle in 20 s (R231, R244). -/
def metFieldUp (s : State) : State :=
  setMet (fun m => { m with
    fieldEpoch := (m.fieldEpoch + 1) % 2 ^ 16
    fieldUpAt := s.time.uptime
    coilSettled := false
    sets := (List.range m.sets.length).map (fun k =>
      let x := m.sets.getD k {}
      match calSet m.calib k with
      | some e =>
        if e.location = 0 then
          { x with counters := [0, 0, 0, 0, 0], fractions := [0, 0, 0, 0, 0], demand := demandRestart x x.counters }
        else x
      | none => x) }) s

end Sys2Proof.Machine
end

