-- ==== Sys2Proof/Machine/Ecc.lean ====
section
/-!
DEFINITION. The elliptic curves the spec names, P-256 and P-384 (R509, R511 of 15): points, scalar products, public
points, Diffie-Hellman and the verification of signatures.
-/

namespace Sys2Proof.Machine

/-- A curve y² = x³ − 3x + b over a prime field. -/
structure Curve where
  size : Nat
  p : Nat
  n : Nat
  b : Nat
  gx : Nat
  gy : Nat

/-- P-256. -/
def p256 : Curve := {
  size := 32
  p := 0xffffffff00000001000000000000000000000000ffffffffffffffffffffffff
  n := 0xffffffff00000000ffffffffffffffffbce6faada7179e84f3b9cac2fc632551
  b := 0x5ac635d8aa3a93e7b3ebbd55769886bc651d06b0cc53b0f63bce3c3e27d2604b
  gx := 0x6b17d1f2e12c4247f8bce6e563a440f277037d812deb33a0f4a13945d898c296
  gy := 0x4fe342e2fe1a7f9b8ee7eb4a7c0f9e162bce33576b315ececbb6406837bf51f5 }

/-- P-384. -/
def p384 : Curve := {
  size := 48
  p := 0xfffffffffffffffffffffffffffffffffffffffffffffffffffffffffffffffeffffffff0000000000000000ffffffff
  n := 0xffffffffffffffffffffffffffffffffffffffffffffffffc7634d81f4372ddf581a0db248b0a77aecec196accc52973
  b := 0xb3312fa7e23ee7e4988e056be3f82d19181d9c6efe8141120314088f5013875ac656398d8a2ed19d2a85c8edd3ec2aef
  gx := 0xaa87ca22be8b05378eb1c71ef320ad746e1d3b628ba79b9859f741e082542a385502f25dbf55296c3a545e3872760ab7
  gy := 0x3617de4a96262c6f5d9e98bf9292dc29f8f41dbd289a147ce9da3113b5f0b8c00a60b1ce1d7e819d7a431d7c90ea0e5f }

/-- Power modulo `m`, over the low `k` bits of the exponent. -/
def powMod (m : Nat) : Nat → Nat → Nat → Nat
  | 0, _, _ => 1 % m
  | k + 1, b, e =>
    let h := powMod m k ((b * b) % m) (e / 2)
    if e % 2 = 1 then (h * b) % m else h

/-- Inverse modulo a prime. -/
def invMod (p a : Nat) : Nat := powMod p (Nat.log2 p + 1) (a % p) (p - 2)

/-- A point in Jacobian coordinates; z = 0 is the point at infinity. -/
abbrev Jac := Nat × Nat × Nat

/-- Difference modulo `p`. -/
def subMod (p a b : Nat) : Nat := (a + (p - b % p)) % p

/-- Doubling. -/
def ecDouble (c : Curve) (q : Jac) : Jac :=
  let p := c.p
  let (x, y, z) := q
  let delta := (z * z) % p
  let gamma := (y * y) % p
  let beta := (x * gamma) % p
  let alpha := (3 * subMod p x delta * (x + delta)) % p
  let x3 := subMod p (alpha * alpha) (8 * beta)
  let z3 := (2 * y * z) % p
  let y3 := subMod p (alpha * subMod p (4 * beta) x3) (8 * gamma * gamma)
  (x3, y3, z3)

/-- Addition. -/
def ecAdd (c : Curve) (q r : Jac) : Jac :=
  let p := c.p
  let (x1, y1, z1) := q
  let (x2, y2, z2) := r
  if z1 % p = 0 then r else if z2 % p = 0 then q else
  let zz1 := (z1 * z1) % p
  let zz2 := (z2 * z2) % p
  let u1 := (x1 * zz2) % p
  let u2 := (x2 * zz1) % p
  let s1 := (y1 * z2 * zz2) % p
  let s2 := (y2 * z1 * zz1) % p
  let h := subMod p u2 u1
  let rr := subMod p s2 s1
  if h = 0 then (if rr = 0 then ecDouble c q else (1, 1, 0)) else
  let hh := (h * h) % p
  let hhh := (h * hh) % p
  let v := (u1 * hh) % p
  let x3 := subMod p (rr * rr) (hhh + 2 * v)
  (x3, subMod p (rr * subMod p v x3) (s1 * hhh), (z1 * z2 * h) % p)

/-- Scalar product over the low `k` bits of the scalar. -/
def ecMulBits (c : Curve) : Nat → Nat → Jac → Jac
  | 0, _, _ => (1, 1, 0)
  | k + 1, e, q =>
    let h := ecMulBits c k (e / 2) (ecDouble c q)
    if e % 2 = 1 then ecAdd c h q else h

/-- Scalar product. -/
def ecMul (c : Curve) (e : Nat) (q : Nat × Nat) : Jac := ecMulBits c (8 * c.size) e (q.1, q.2, 1)

/-- Affine coordinates; none at infinity. -/
def ecAffine (c : Curve) (q : Jac) : Option (Nat × Nat) :=
  if q.2.2 % c.p = 0 then none else
  let zi := invMod c.p q.2.2
  some ((q.1 * zi * zi) % c.p, (q.2.1 * zi * zi * zi) % c.p)

/-- Whether a pair of coordinates is a point of the curve. -/
def onCurve (c : Curve) (q : Nat × Nat) : Bool :=
  q.1 < c.p && q.2 < c.p && (q.2 * q.2) % c.p == (q.1 * q.1 * q.1 + (c.p - 3) * q.1 + c.b) % c.p

/-- The point a byte string spells: x then y, big-endian. -/
def pointOf (c : Curve) (b : Bytes) : Nat × Nat := (ofBe (slice b 0 c.size), ofBe (slice b c.size c.size))

/-- The byte string of a point. -/
def pointBytes (c : Curve) (q : Nat × Nat) : Bytes := be c.size q.1 ++ be c.size q.2

/-- The public point of a private scalar. -/
def publicPoint (c : Curve) (d : Nat) : Bytes :=
  match ecAffine c (ecMul c d (c.gx, c.gy)) with
  | some q => pointBytes c q
  | none => zeros (2 * c.size)

/-- The x coordinate of a Diffie-Hellman product; none at infinity or off the curve. -/
def ecdh (c : Curve) (d : Nat) (peer : Bytes) : Option Bytes :=
  let q := pointOf c peer
  if onCurve c q then (ecAffine c (ecMul c d q)).map (fun r => be c.size r.1) else none

/-- The number a digest gives to a signature: its leftmost bits, as many as the order has. -/
def digestNumber (c : Curve) (h : Bytes) : Nat := ofBe (h.take c.size)

/-- Verifies an ECDSA signature r, s over a digest under a public point. -/
def ecdsaVerify (c : Curve) (pub digest : Bytes) (r s : Nat) : Bool :=
  let q := pointOf c pub
  if !(onCurve c q) || r == 0 || s == 0 || c.n ≤ r || c.n ≤ s then false else
  let w := powMod c.n (8 * c.size) s (c.n - 2)
  let u1 := (digestNumber c digest * w) % c.n
  let u2 := (r * w) % c.n
  match ecAffine c (ecAdd c (ecMul c u1 (c.gx, c.gy)) (ecMul c u2 q)) with
  | some x => x.1 % c.n == r
  | none => false

/-- An ECDSA signature r, s over a digest with a private scalar and a nonce. -/
def ecdsaSign (c : Curve) (d nonce : Nat) (digest : Bytes) : Bytes :=
  let k := nonce % (c.n - 1) + 1
  let r := match ecAffine c (ecMul c k (c.gx, c.gy)) with
    | some x => x.1 % c.n
    | none => 0
  let w := powMod c.n (8 * c.size) k (c.n - 2)
  be c.size r ++ be c.size ((w * (digestNumber c digest + r * d)) % c.n)

end Sys2Proof.Machine
end

