-- ==== Sys2Proof/Machine/X509.lean ====
section
/-!
DEFINITION. DER-encoded X.509 certificates, as far as the spec checks them: signature, key and validity
(R521, R522 of 15; R451 of 13).
-/

namespace Sys2Proof.Machine

/-- One DER element: its tag, the bytes of the whole element, its content, and the bytes after it. -/
structure Der where
  tag : Nat
  whole : Bytes
  body : Bytes
  rest : Bytes

/-- Reads one element; none where the length does not fit. -/
def derRead (b : Bytes) : Option Der :=
  match b with
  | t :: l :: r =>
    let n := l.toNat
    let hd := if n < 128 then 0 else n - 128
    if n = 128 || 3 < hd || r.length < hd then none else
    let len := if n < 128 then n else ofBe (r.take hd)
    if (r.drop hd).length < len then none
    else some { tag := t.toNat, whole := b.take (2 + hd + len), body := (r.drop hd).take len, rest := r.drop (hd + len) }
  | _ => none

/-- Reads an element of a given tag. -/
def derTag (tag : Nat) (b : Bytes) : Option Der := (derRead b).bind (fun d => if d.tag = tag then some d else none)

/-- A certificate's fields. -/
structure Certificate where
  tbs : Bytes
  /-- 256 or 384 for an ECDSA signature with that hash, else 0 -/
  hash : Nat
  r : Nat
  s : Nat
  /-- seconds since 2020-01-01T00:00:00 UTC -/
  notBefore : Int
  notAfter : Int
  issuer : Bytes
  subject : Bytes
  /-- true for P-384; none where the key is of another kind -/
  curve : Option Bool
  pub : Bytes
  deriving DecidableEq, Repr

/-- Two decimal digits. -/
def digits2 (b : Bytes) (i : Nat) : Nat := 10 * ((b.getD i 0).toNat - 48) + ((b.getD (i + 1) 0).toNat - 48)

/-- A UTCTime or GeneralizedTime, in seconds since 2020-01-01T00:00:00 UTC. -/
def derTime (d : Der) : Option Int :=
  let body : Option (Nat × Bytes) :=
    if d.tag = 0x17 && d.body.length == 13 then
      some ((if digits2 d.body 0 < 50 then 2000 else 1900) + digits2 d.body 0, d.body.drop 2)
    else if d.tag = 0x18 && d.body.length == 15 then some (100 * digits2 d.body 0 + digits2 d.body 2, d.body.drop 4)
    else none
  body.map (fun y =>
    86400 * dayOf { year := (y.1 : Int), month := digits2 y.2 0, day := digits2 y.2 2 } +
      (3600 * digits2 y.2 4 + 60 * digits2 y.2 6 + digits2 y.2 8 : Nat))

/-- The signature hash an algorithm identifier names: ecdsa-with-SHA256 or ecdsa-with-SHA384. -/
def derHash (alg : Bytes) : Nat :=
  if alg.take 10 = (be 10 0x06082A8648CE3D040302) then 256
  else if alg.take 10 = (be 10 0x06082A8648CE3D040303) then 384 else 0

/-- The curve and point of a subject public key. -/
def derKey (spki : Bytes) : Option (Bool × Bytes) := do
  let alg ← derTag 0x30 spki
  let bits ← derTag 0x03 alg.rest
  let pt := bits.body.drop 2
  if alg.body = be 19 0x06072A8648CE3D020106082A8648CE3D030107 ∧ bits.body.take 2 = be 2 0x0004 ∧ pt.length = 64 then
    some (false, pt)
  else if alg.body = be 16 0x06072A8648CE3D020106052B81040022 ∧ bits.body.take 2 = be 2 0x0004 ∧ pt.length = 96 then
    some (true, pt)
  else none

/-- Parses one certificate; answers it and the bytes after it. -/
def parseCertificate (b : Bytes) : Option (Certificate × Bytes) := do
  let cert ← derTag 0x30 b
  let tbs ← derTag 0x30 cert.body
  let sigAlg ← derTag 0x30 tbs.rest
  let sigBits ← derTag 0x03 sigAlg.rest
  let afterVersion := match derTag 0xA0 tbs.body with
    | some v => v.rest
    | none => tbs.body
  let serial ← derTag 0x02 afterVersion
  let inner ← derTag 0x30 serial.rest
  let issuer ← derTag 0x30 inner.rest
  let validity ← derTag 0x30 issuer.rest
  let t1 ← derRead validity.body
  let t2 ← derRead t1.rest
  let nb ← derTime t1
  let na ← derTime t2
  let subject ← derTag 0x30 validity.rest
  let spki ← derTag 0x30 subject.rest
  let key := derKey spki.body
  let rs := (do
    let sq ← derTag 0x30 (sigBits.body.drop 1)
    let r ← derTag 0x02 sq.body
    let s ← derTag 0x02 r.rest
    some (ofBe r.body, ofBe s.body) : Option (Nat × Nat))
  some ({ tbs := tbs.whole, hash := if rs.isSome then derHash sigAlg.body else 0, r := (rs.getD (0, 0)).1
          s := (rs.getD (0, 0)).2, notBefore := nb, notAfter := na, issuer := issuer.whole, subject := subject.whole
          curve := key.map (·.1), pub := (key.map (·.2)).getD [] }, cert.rest)

/-- Parses a chain of at most `n` certificates, whole: the certificates and their bytes. -/
def parseChain : Nat → Bytes → Option (List (Certificate × Bytes))
  | 0, b => if b.isEmpty then some [] else none
  | n + 1, b =>
    if b.isEmpty then some [] else
    match parseCertificate b with
    | some (c, rest) => (parseChain n rest).map (fun l => (c, b.take (b.length - rest.length)) :: l)
    | none => none

/-- Verifies a digest made with SHA-256 or SHA-384 under the key of a curve. -/
def verifyHashed (hash : Nat) (p384Key : Bool) (pub message : Bytes) (r s : Nat) : Bool :=
  let digest := if hash = 384 then sha384 message else sha256 message
  ecdsaVerify (if p384Key then p384 else p256) pub digest r s

/-- A certificate is signed by the key of another. -/
def signedBy (c issuer : Certificate) : Bool :=
  match issuer.curve with
  | some k => c.hash != 0 && c.issuer == issuer.subject && verifyHashed c.hash k issuer.pub c.tbs c.r c.s
  | none => false

/-- Each certificate of a chain is signed by the next (R522). -/
def chainVerifies : List Certificate → Bool
  | a :: b :: r => signedBy a b && chainVerifies (b :: r)
  | _ => true

/-- The validity period takes in a Gliris time converted to UTC (R451 of 13). -/
def certValidAt (s : State) (c : Certificate) : Bool :=
  let t := utcMs (effectiveCivil s) (now s) / 1000
  decide (c.notBefore ≤ t) && decide (t ≤ c.notAfter)

end Sys2Proof.Machine
end

