-- ==== Sys2Proof/Machine/Vault.lean ====
section
/-!
DEFINITION. Tansy: slots, their writing, key handles and their delivery to engines, self-tests. Chapter 15 of the spec
(R506 to R530). The commands are in `Machine/VltCommands.lean`.
-/

namespace Sys2Proof.Machine

/-- Changes the vault. -/
def setVlt (f : VaultState → VaultState) (s : State) : State := { s with vlt := f s.vlt }

/-! ## Attribute word (R509) -/

def attrCategory (a : Nat) : Nat := a % 16
def attrType (a : Nat) : Nat := a / 2 ^ 4 % 16
def attrDest (a : Nat) : Nat := a / 2 ^ 8 % 256
def attrPurpose (a : Nat) : Nat := a / 2 ^ 16 % 256
def attrIndex (a : Nat) : Nat := a / 2 ^ 24 % 256
def attrRoles (a : Nat) : Nat := a / 2 ^ 32 % 64
def attrUdp (a : Nat) : Bool := a.testBit 38
def attrGeneration (a : Nat) : Nat := a / 2 ^ 48 % 65536

/-- The attribute word a write stores: the RW fields given, the category and the generation set by the vault (R509). -/
def attrStored (rw category generation : Nat) : Nat := category + (rw % 2 ^ 39 - rw % 16) + generation * 2 ^ 48

/-- One row of *Slot purposes* (R510): types, category code, destination mask, slots, class of engine for derived keys. -/
structure Purpose where
  code : Nat
  types : List Nat
  dest : Nat
  category : Nat
  low : Nat := 128
  high : Nat := 4095
  derived : Option Nat := none
  deriving DecidableEq, Repr

/-- *Slot purposes* (R510). -/
def purposes : List Purpose := [
  { code := 1, types := [6], dest := 4, category := 5, derived := some 0 },
  { code := 2, types := [6], dest := 4, category := 5, derived := some 0 },
  { code := 3, types := [6], dest := 4, category := 5, derived := some 0 },
  { code := 4, types := [6], dest := 4, category := 4, derived := some 3 },
  { code := 5, types := [6], dest := 4, category := 4, derived := some 0 },
  { code := 6, types := [0], dest := 1, category := 4 },
  { code := 7, types := [2, 3], dest := 2, category := 4 },
  { code := 8, types := [7], dest := 16, category := 4 },
  { code := 9, types := [6], dest := 4, category := 4, derived := some 5 },
  { code := 10, types := [1], dest := 64, category := 4 },
  { code := 11, types := [4, 5], dest := 66, category := 3, low := 1, high := 63 },
  { code := 12, types := [2], dest := 66, category := 1, low := 64, high := 64 },
  { code := 13, types := [4, 5], dest := 66, category := 2, low := 0, high := 0 }]

/-- The row of a purpose. -/
def findPurpose (code : Nat) : Option Purpose := purposes.find? (fun p => p.code == code)

/-- Indexes a purpose permits (R510). -/
def indexPermitted (purpose index slot : Nat) : Bool :=
  match purpose with
  | 5 => index ≤ 15
  | 6 => index ≤ 15
  | 7 => index ≤ 1
  | 8 => index ≤ 31
  | 11 => index == slot
  | _ => index == 0

/-! ## Slots (R506 to R508) -/

/-- A slot. -/
def slotAt (s : State) (n : Nat) : Slot := Tab.getD s.vlt.slots n {}

/-- Generation `g` is later than `h` by serial arithmetic on 16 bits (R507). -/
def laterGen (g h : Nat) : Bool := g != h && (g + 65536 - h) % 65536 < 32768

/-- The tags validate only while the device-unique key stands (R520). -/
def copyGood (s : State) (c : SlotCopy) : Bool := c.tagGood && !s.vlt.zeroised

/-- The copy in force: valid tag and higher generation; none for an unusable slot (R507, R508). -/
def slotInForce (s : State) (n : Nat) : Option SlotCopy :=
  let x := slotAt s n
  if copyGood s x.a && copyGood s x.b then
    some (if laterGen (attrGeneration x.b.attr) (attrGeneration x.a.attr) then x.b else x.a)
  else if copyGood s x.a then some x.a
  else if copyGood s x.b then some x.b
  else none

/-- A slot is empty: usable, with attribute zero (R508). -/
def slotEmpty (s : State) (n : Nat) : Bool :=
  match slotInForce s n with
  | some c => attrCategory c.attr == 0
  | none => false

/-- The slots that are listed, those that hold anything among them. -/
def slotNumbers (s : State) : List Nat := s.vlt.slots.map (·.1)

/-- The module finds each key by its purpose and index, never by its slot number (R510). -/
def findSlot (s : State) (purpose index : Nat) : Option Nat :=
  (slotNumbers s).find? (fun n => match slotInForce s n with
    | some c => attrCategory c.attr != 0 && attrPurpose c.attr == purpose && attrIndex c.attr == index
    | none => let c := (slotAt s n).a
              attrCategory c.attr != 0 && attrPurpose c.attr == purpose && attrIndex c.attr == index)

/-- Key bytes that a type's material holds (R511). -/
def keyBytes (c : SlotCopy) : Bytes :=
  match attrType c.attr with
  | 0 => slice c.material 0 16
  | 1 => slice c.material 0 32
  | 2 => slice c.material 0 32
  | 3 => slice c.material 0 48
  | 4 => slice c.material 0 64
  | 5 => slice c.material 0 96
  | 6 => slice c.material 0 32
  | _ => slice c.material 0 48

/-- Material of a type, made whole: 64 B in a record of which P-384 points need 96 (R507, R511). -/
def materialLen (type : Nat) : Nat := if type = 5 then 96 else 64

/-- The first bytes of AES-CMAC of the empty message under a key, for types 0, 1, 6 and 7 (*VLT_SLOT_WRITE response*). -/
def checkValue (type : Nat) (material : Bytes) : Bytes :=
  match type with
  | 0 => (aesCmac (slice material 0 16) []).take 4
  | 1 => (aesCmac (slice material 0 32) []).take 4
  | 6 => (aesCmac (slice material 0 32) []).take 4
  | 7 => (aesCmac (slice material 0 32) []).take 4
  | _ => zeros 4

/-- The public point of types 2 to 5, zero-filled to 96 B. -/
def publicOf (type : Nat) (material : Bytes) : Bytes :=
  match type with
  | 2 => pad 96 (publicPoint p256 (ofBe (slice material 0 32)))
  | 3 => pad 96 (publicPoint p384 (ofBe (slice material 0 48)))
  | 4 => pad 96 (slice material 0 64)
  | 5 => slice material 0 96
  | _ => zeros 96

/-- The material fits its layout: scalars in range, points on their curve, bytes beyond the layout zero (R511). -/
def materialFits (type : Nat) (m : Bytes) : Bool :=
  let clean := fun n => (m.drop n).all (· == 0#8)
  match type with
  | 0 => clean 16
  | 1 => clean 32
  | 2 => clean 32 && decide (1 ≤ ofBe (slice m 0 32)) && decide (ofBe (slice m 0 32) < p256.n)
  | 3 => clean 48 && decide (1 ≤ ofBe (slice m 0 48)) && decide (ofBe (slice m 0 48) < p384.n)
  | 4 => onCurve p256 (pointOf p256 m)
  | 5 => onCurve p384 (pointOf p384 m)
  | 6 => clean 32
  | 7 => clean 48
  | _ => false

/-! ## Events (R530) -/

/-- VAULT_SLOT. -/
def vaultSlotEvent (slot cause attr principal generation tick : Nat) (s : State) : State :=
  raiseEvent 0x0C00 slot false (le 1 cause ++ le 1 (attrPurpose attr) ++ le 1 (attrIndex attr) ++ le 1 principal ++
    le 2 generation ++ zeros 2 ++ le 8 tick) s

/-- Some engine is out of service, so that the condition of source 0xC1 stands (R527). -/
def engineOut (s : State) : Bool := s.vlt.engines.any (fun l => l.any (fun e => !e.inService))

/-- Some class has no engine in service, so that the condition of source 0xC0 stands (R527). -/
def classLost (s : State) : Bool := s.vlt.engines.any (fun l => l.all (fun e => !e.inService))

/-- Raises source 0xC1 with a condition of its row; it stays while an engine is out of service. -/
def engineFault (detail : Nat) (s : State) : State :=
  if engineOut s then raiseFault 0xC1 detail s else reportFault 0xC1 detail s

/-- Raises source 0xC0; it stays while a class is lost or a slot unusable. -/
def vaultFault (detail : Nat) (s : State) : State := raiseFault 0xC0 detail s

/-- A slot's both tags fail: VAULT_SLOT each time it is refused, the class-B fault once (R508). -/
def slotUnusable (n : Nat) (s : State) : State :=
  let x := slotAt s n
  let attr := if laterGen (attrGeneration x.b.attr) (attrGeneration x.a.attr) then x.b.attr else x.a.attr
  let s := vaultSlotEvent n 4 attr 0xFF (attrGeneration attr) (now s) s
  if x.reported then s
  else vaultFault 1 (setVlt (fun v => { v with slots := Tab.put v.slots n { x with reported := true } }) s)

/-- The tags of all slots are checked within 5 ms of VIGIL power-up (R508). -/
def checkTags (s : State) : State :=
  (slotNumbers s).foldl (fun s n => if (slotInForce s n).isNone then slotUnusable n s else s) s

/-! ## Handles (R516 to R518) -/

/-- The purpose and index of the key a handle rests on: itself, or its master (R518). -/
def handleMaster : KeyHandle → Nat × Nat
  | .stored p i => (p, i)
  | .meterLink _ _ => (1, 0)
  | .group _ _ _ => (3, 0)
  | .bridgeLong _ _ _ => (2, 0)
  | .bridgeEpoch _ _ _ _ _ _ => (2, 0)
  | .token _ => (4, 0)
  | .card i _ => (5, i)
  | .mirror _ _ _ => (9, 0)

/-- A handle names a derivation, not a stored key. -/
def handleDerived : KeyHandle → Bool
  | .stored _ _ => false
  | _ => true

/-- The derivations of *Derivations* from the key material a handle rests on (R518). -/
def deriveKey (m : Bytes) : KeyHandle → Bytes
  | .stored _ _ => m
  | .meterLink serial g => kdf (kdf m "GLMR" (le 8 serial) 128) "GLML" (le 8 serial ++ le 1 g) 128
  | .group b g n => kdf m "GLMG" (le 2 b ++ le 1 g ++ le 1 n) 128
  | .bridgeLong b serial n => kdf m "GLBL" (le 2 b ++ le 8 serial ++ le 2 n) 128
  | .bridgeEpoch b serial n e bn mn =>
    kdf (kdf m "GLBL" (le 2 b ++ le 8 serial ++ le 2 n) 128) "GLBE" (le 2 b ++ le 4 e ++ pad 16 bn ++ pad 16 mn) 128
  | .token a => kdf m "GLTN" (le 4 a) 128
  | .card i n => kdf m "GLCK" (le 1 i ++ pad 8 n) 128
  | .mirror e d t => kdf m "GLMI" (le 4 e ++ le 8 d ++ le 8 t) 256

/-- The session keys of a UDP session: host to module, module to host (R518; R148 of 05). -/
def udpKeys (z challenge : Bytes) (handle : Nat) : Bytes × Bytes :=
  let k := kdf z "GLUD" (le 4 handle ++ pad 32 challenge) 512
  (k.take 32, k.drop 32)

/-- An engine. -/
def engineAt (s : State) (cls i : Nat) : Engine := (s.vlt.engines.getD cls []).getD i {}

/-- Changes an engine. -/
def setEngine (cls i : Nat) (f : Engine → Engine) (s : State) : State :=
  setVlt (fun v => { v with engines := modAt v.engines cls (fun l => modAt l i f) }) s

/-- The domain of an engine is powered: VIGIL for the attestation responder and MACsec group 0, else COMPUTE (R524). -/
def enginePowered (s : State) (cls i : Nat) : Bool :=
  if cls = 6 || (cls = 4 && i = 0) then s.pwr.vigilOn else s.pwr.computeOn

/-- An engine serves requests. -/
def engineUp (s : State) (cls i : Nat) : Bool := (engineAt s cls i).inService && enginePowered s cls i

/-- Engines of a class that serve requests. -/
def enginesUp (s : State) (cls : Nat) : List Nat :=
  (List.range (s.vlt.engines.getD cls []).length).filter (engineUp s cls)

/-- The engine a request of a class is given to: one in service and not in test, where there is one; the spec names the
least loaded, and in the model none is loaded, so the lowest-numbered (R526; DESIGN CHOICE log 24). -/
def engineFor (s : State) (cls : Nat) : Option Nat :=
  let up := enginesUp s cls
  match up.find? (fun i => !(engineAt s cls i).testing) with
  | some i => some i
  | none => up.head?

/-- Key contexts an engine of a class holds at most (R519). -/
def contextLimit (cls : Nat) : Nat := if cls = 0 then 2048 else if cls = 3 then 65536 else 4096

/-- A refusal: KEY_REFUSED, counted; of the last two kinds also a class-C fault (R516). -/
def refuseKey (cls i reason : Nat) (m : Nat × Nat) (slot : Nat) (s : State) : State :=
  let s := setVlt (fun v => { v with refusals := cap 0xFFFFFFFF (v.refusals + 1) }) s
  let s := raiseEvent 0x0C02 (64 * cls + i) true
    (le 1 reason ++ le 1 m.1 ++ le 1 m.2 ++ zeros 1 ++ le 4 slot ++ le 8 (now s)) s
  if 3 ≤ reason then engineFault 3 s else s

/-- An engine asks Tansy for the key of a handle (R516, R519): held already, delivered, or refused. -/
def requestKey (cls i : Nat) (h : KeyHandle) (s : State) : Option Bytes × State :=
  let m := handleMaster h
  match findSlot s m.1 m.2 with
  | none => (none, refuseKey cls i 1 m 0xFFFFFFFF s)
  | some n =>
    let x := slotAt s n
    if (engineAt s cls i).keys.contains h then
      let c := (slotInForce s n).getD x.a
      (some (deriveKey (keyBytes c) h), setEngine cls i (fun e => { e with keys := h :: e.keys.erase h }) s)
    else
      match slotInForce s n with
      | none => (none, refuseKey cls i 2 m n (slotUnusable n s))
      | some c =>
        if !handleDerived h && !(attrDest c.attr).testBit cls then (none, refuseKey cls i 3 m n s)
        else if handleDerived h && ((findPurpose m.1).bind (·.derived)) != some cls then (none, refuseKey cls i 4 m n s)
        else
          let s := setEngine cls i (fun e => { e with keys := (h :: e.keys).take (contextLimit cls) }) s
          let s := if handleDerived h then setVlt (fun v => { v with derivations := v.derivations + 1 }) s else s
          (some (deriveKey (keyBytes c) h), s)

/-- A cryptographic operation of a class under the key of a handle (R516, R526): the key, or none where the request is
refused or no engine of the class is in service. -/
def keyFor (cls : Nat) (h : KeyHandle) (s : State) : Option Bytes × State :=
  match engineFor s cls with
  | none => (none, s)
  | some i =>
    let r := requestKey cls i h s
    (r.1, if r.1.isSome then setEngine cls i (fun e => { e with operations := e.operations + 1 }) r.2 else r.2)

/-- An operation without a vault key, such as a hash or a check of a signature under a given key. -/
def engineWork (cls : Nat) (s : State) : Bool × State :=
  match engineFor s cls with
  | none => (false, s)
  | some i => (true, setEngine cls i (fun e => { e with operations := e.operations + 1 }) s)

/-- The class that does Folset's public-key and AEAD work: while COMPUTE is unpowered, the attestation responder (R523). -/
def folsetClass (cls : Nat) (s : State) : Nat := if s.pwr.computeOn then cls else 6

/-- Every held copy of a key, and of keys derived from it, is cleared (R513, R515). -/
def forgetKeys (purpose index : Nat) (s : State) : State :=
  setVlt (fun v => { v with engines := v.engines.map (fun l => l.map (fun e =>
    { e with keys := e.keys.filter (fun h => handleMaster h != (purpose, index)) })) }) s

/-- Engines start empty and with fresh counts at a cold start (R519, R536). -/
def coldEngines (s : State) : State :=
  setVlt (fun v => { v with engines := newEngines, links := [], derivations := 0, refusals := 0, testFailures := 0, attests := [] }) s

/-! ## Sessions that end (R135 of 05) -/

/-- Splits the bytes of event records: `n` records at most. -/
def splitRecords : Nat → Bytes → List Bytes
  | 0, _ => []
  | n + 1, b =>
    let len := rd b 0 2
    if len < 32 || b.length < len then [] else b.take len :: splitRecords n (b.drop len)

/-- Channel 0 reverts to PCI Express: the records of its UDP session that were not acknowledged, and were placed on the channel, go
into pages (R149, R156). -/
def revertChannel0 (u : UdpTransport) (s : State) : State :=
  let records := ((u.unacked.map (fun e => e.2.1)) ++ u.unsent).filter (fun b => rd b 12 4 != 0)
  let s := setChan 0 (fun c => { c with udp := none }) s
  (packRecords records []).foldl (fun s b => producePage 0 { seq := 0, body := b } s) s

/-- Removes a session: its injections are discarded (R546), and channel 0 comes back from it to PCI Express. -/
def removeSession (h : Nat) (s : State) : State :=
  match findSession s h with
  | none => s
  | some x =>
    let s := { s with fol := { s.fol with sessions := s.fol.sessions.filter (fun y => y.handle != h) }
                      flt := { s.flt with injections := s.flt.injections.filter (fun e => e.2.session != h) } }
    match x.udp with
    | some u => if (chan s 0).udp == some h then revertChannel0 u s else s
    | none => s

/-- Ends a session, authenticated or pending: SESSION_ENDED and its interrupt cause (R115, R135). -/
def endSession (h cause : Nat) (s : State) : State :=
  match findSession s h with
  | none => s
  | some _ => interrupt causeSession (raiseEvent 0x0102 h false (le 1 cause ++ zeros 7) (removeSession h s))

/-- Ends every session for which a condition holds. -/
def endSessions (p : Session → Bool) (cause : Nat) (s : State) : State :=
  ((s.fol.sessions.filter p).map (·.handle)).foldl (fun s h => endSession h cause s) s

/-! ## Changes of slots (R513 to R515, R520) -/

/-- Stores a record in the copy that does not hold the higher generation (R507). -/
def storeSlot (n : Nat) (material : Bytes) (attr : Nat) (s : State) : State :=
  let x := slotAt s n
  let c : SlotCopy := { material := material, attr := attr }
  let toA := !copyGood s x.a || (copyGood s x.b && laterGen (attrGeneration x.b.attr) (attrGeneration x.a.attr))
  let y := if toA then { x with a := c } else { x with b := c }
  setVlt (fun v => { v with slots := Tab.put v.slots n { y with change := none, reported := false } }) s

/-- Both copies overwritten with the empty record and valid tags (R515). -/
def emptySlot (n : Nat) (s : State) : State :=
  let old := (slotInForce s n).getD (slotAt s n).a
  let s := setVlt (fun v => { v with slots := Tab.del v.slots n }) s
  forgetKeys (attrPurpose old.attr) (attrIndex old.attr) s

/-- The generation a slot takes at its next change (R509). -/
def nextSlotGen (s : State) (n : Nat) : Nat :=
  let x := slotAt s n
  let g := match slotInForce s n with
    | some c => attrGeneration c.attr
    | none => if laterGen (attrGeneration x.b.attr) (attrGeneration x.a.attr) then attrGeneration x.b.attr else attrGeneration x.a.attr
  (g + 1) % 65536

/-- No slot is unusable any longer and no class is lost: the condition of source 0xC0 ends. -/
def settleVaultFault (s : State) : State :=
  if (slotNumbers s).any (fun n => (slotInForce s n).isNone) || classLost s then s else endFault 0xC0 s

/-- A change takes effect at the boundary of its activation tick (R513). -/
def applySlotChange (n : Nat) (c : SlotChange) (s : State) : State :=
  let old := (slotInForce s n).getD (slotAt s n).a
  let gen := nextSlotGen s n
  let s := forgetKeys (attrPurpose old.attr) (attrIndex old.attr) s
  let s := if c.kind = 3 then emptySlot n s
    else storeSlot n c.material (attrStored c.attr (attrCategory c.attr) gen) s
  let s := if c.kind = 3 then s else forgetKeys (attrPurpose c.attr) (attrIndex c.attr) s
  let s := vaultSlotEvent n c.kind (if c.kind = 3 then old.attr else c.attr) c.principal gen c.tick s
  let s := if 1 ≤ n ∧ n ≤ 63 then endSessions (fun x => x.principal == n) 4 s else s
  settleVaultFault s

/-- A certificate entry's change takes effect at its activation tick (R522). -/
def applyCertChange (n : Nat) (s : State) : State :=
  match Tab.get s.vlt.certs n with
  | some { change := some (tick, certs, ref), .. } =>
    let next := if certs.isEmpty then Tab.del s.vlt.certs n else Tab.put s.vlt.certs n { certs := certs }
    let s := setVlt (fun v => { v with certs := next }) s
    match ref with
    | some r => complete r stOk 0 (le 8 tick) s
    | none => s
  | _ => s

/-- Changes due by the boundary of tick `t` take effect (R513, R522). -/
def vaultBoundary (t : Nat) (s : State) : State :=
  let due := s.vlt.slots.filterMap (fun e => match e.2.change with
    | some c => if c.tick ≤ t then some (e.1, c) else none
    | none => none)
  let s := due.foldl (fun s e => applySlotChange e.1 e.2 s) s
  let certs := s.vlt.certs.filterMap (fun e => match e.2.change with
    | some c => if c.1 ≤ t then some e.1 else none
    | none => none)
  certs.foldl (fun s n => applyCertChange n s) s

/-- The slots a life-cycle transition destroys (R520): from and to, as codes of GSTAT.LIFECYCLE. -/
def destroyedBy (from' to' : Lifecycle) (s : State) : List Nat :=
  let of := fun (p : Nat → Bool) => (slotNumbers s).filter (fun n =>
    match slotInForce s n with
    | some c => p (attrCategory c.attr)
    | none => p (attrCategory (slotAt s n).a.attr))
  match from', to' with
  | _, .scrapped => slotNumbers s
  | .provisioned, .sealed => (slotNumbers s).filter (· == 0)
  | .sealed, .service => of (fun c => c == 4 || c == 5)
  | _, _ => []

/-- Destroys the slots of a transition before its response is formed; changes that wait for them are dropped (R520). -/
def destroyForTransition (from' to' : Lifecycle) (principal : Nat) (s : State) : State :=
  let hit := destroyedBy from' to' s
  let s := hit.foldl (fun s n =>
    let old := (slotInForce s n).getD (slotAt s n).a
    let gen := nextSlotGen s n
    let s := emptySlot n s
    if attrCategory old.attr = 0 then s else vaultSlotEvent n 5 old.attr principal gen (now s) s) s
  let s := match from', to' with
    | .sealed, .service => setVlt (fun v => { v with
        engines := v.engines.map (fun l => l.map (fun e => { e with keys := [] }))
        links := []
        slots := v.slots.map (fun e => (e.1, match e.2.change with
          | some c => if attrCategory c.attr = 3 || c.kind = 3 then e.2 else { e.2 with change := none }
          | none => e.2)) }) s
    | _, .scrapped => setVlt (fun v => { v with zeroised := true, slots := [], links := [] }) s
    | _, _ => s
  settleVaultFault s

/-! ## Self-tests (R525 to R527) -/

/-- ENGINE_TEST. -/
def engineTestEvent (cls i result : Nat) (s : State) : State :=
  raiseEvent 0x0C01 (64 * cls + i) true
    (le 1 result ++ zeros 3 ++ le 4 (engineAt s cls i).aborts ++ le 8 (now s)) s

/-- The engine exists. -/
def engineExists (cls i : Nat) : Bool := decide (i < (newEngines.getD cls []).length)

/-- Starts a self-test: no other engine of a rotating class is in test (R525). -/
def startTest (cls i : Nat) (retest : Bool) (s : State) : State :=
  setEngine cls i (fun e => { e with testing := true, retest := retest }) s

/-- The *VLT_ENGINE response* of an engine. -/
def engineBytes (e : Engine) : Bytes :=
  le 1 (if e.testing then 1 else if e.inService then 0 else 2) ++ le 1 e.lastResult ++ le 2 (cap 0xFFFF e.aborts) ++
    le 4 e.keys.length ++ le 8 e.operations ++ le 8 e.lastTest

/-- Ends a test: held requests are served, waiting VLT_ENGINE requests are answered (R526, R536). -/
def endTest (cls i result : Nat) (s : State) : State :=
  let e := engineAt s cls i
  let s := setEngine cls i (fun e => { e with
    testing := false, retest := false, lastResult := result, lastTest := now s, held := 0, waiters := []
    operations := if e.inService then e.operations + e.held else e.operations
    aborts := if result = 2 then e.aborts else 0 }) s
  e.waiters.foldl (fun s w => answerLater 0x0C30 w.1 w.2 stOk 0 (engineBytes (engineAt s cls i)) s) s

/-- The known-answer tests of an engine pass or fail; one that fails loses its keys and contexts (R527). -/
def testDone (cls i : Nat) (passed : Bool) (s : State) : State :=
  let e := engineAt s cls i
  if !e.testing then s
  else if passed then
    let s := setEngine cls i (fun e => { e with inService := true }) s
    let s := endTest cls i (if e.retest then 3 else 0) s
    let s := engineTestEvent cls i (if e.retest then 3 else 0) s
    let s := if engineOut s then s else endFault 0xC1 s
    settleVaultFault s
  else
    let s := setEngine cls i (fun e => { e with inService := false, keys := [] }) s
    let s := setVlt (fun v => { v with
      links := if cls = 0 then v.links.filter (fun e => e.2.engine != i) else v.links
      testFailures := cap 0xFFFFFFFF (v.testFailures + 1) }) s
    let s := engineTestEvent cls i 1 (endTest cls i 1 s)
    if e.retest then s
    else if (s.vlt.engines.getD cls []).any (fun x => x.inService) then engineFault 1 s else vaultFault 2 s

/-- A Critical request aborts the test of a single engine: it runs again in the same tick of the next round; sixteen
consecutive aborts raise a class-C fault (R526). -/
def abortTest (cls i : Nat) (s : State) : State :=
  let s := setEngine cls i (fun e => { e with aborts := e.aborts + 1 }) s
  let s := engineTestEvent cls i 2 (endTest cls i 2 s)
  if (engineAt s cls i).aborts = 16 then engineFault 2 s else s

/-- A request that names an engine, against its self-test (R526): steered, held, or served after an abort. -/
def requestEngine (cls i : Nat) (critical : Bool) (s : State) : State :=
  let serve := fun (j : Nat) (s : State) => setEngine cls j (fun e => { e with operations := e.operations + 1 }) s
  let e := engineAt s cls i
  if cls = 0 || cls = 1 then
    if engineUp s cls i && !e.testing then serve i s
    else match engineFor s cls with
      | some j => serve j s
      | none => s
  else if !engineUp s cls i then s
  else if cls = 4 || cls = 5 || !e.testing then serve i s
  else if critical then serve i (abortTest cls i s)
  else setEngine cls i (fun e => { e with held := e.held + 1 }) s

/-! ## Meanings -/

/-- KEY_REQUEST (R516): an engine asks for a key by handle. -/
def execKeyRequest (cls engine : Nat) (handle : KeyHandle) (s : State) : Result :=
  .next (if engineExists cls engine && engineUp s cls engine then (requestKey cls engine handle s).2 else s)

/-- CRYPTO_REQUEST (R526): a request is steered, held or served. -/
def execCryptoRequest (cls engine : Nat) (critical : Bool) (s : State) : Result :=
  .next (if engineExists cls engine then requestEngine cls engine critical s else s)

/-- ENGINE_SELFTEST_START (R525): an engine's turn comes; one engine of a rotating class is in test at a time. -/
def execEngineSelftestStart (cls engine : Nat) (s : State) : Result :=
  let free := !(s.vlt.engines.getD cls []).any (fun e => e.testing)
  .next (if engineExists cls engine && engineUp s cls engine && free then startTest cls engine false s else s)

/-- ENGINE_SELFTEST_RESULT (R527): the known-answer tests of the engine in test pass or fail. -/
def execEngineSelftestResult (cls engine : Nat) (passed : Bool) (s : State) : Result :=
  .next (testDone cls engine passed s)

end Sys2Proof.Machine
end

