-- ==== Sys2Proof/Machine/Stem.lean ====
section
/-!
DEFINITION. Stem: frames, checks, holes, sessions and epochs of the bridges. Chapter 11 of the spec (R361 to R373).
-/

namespace Sys2Proof.Machine

/-- A bridge. -/
def bridgeAt (s : State) (b : Nat) : Bridge := Tab.getD s.stem.bridges b {}

/-- Changes a bridge. -/
def setBridge (b : Nat) (f : Bridge → Bridge) (s : State) : State :=
  { s with stem := { s.stem with bridges := Tab.upd s.stem.bridges b {} f } }

/-- Changes the Stem state. -/
def setStem (f : StemState → StemState) (s : State) : State := { s with stem := f s.stem }

/-- Code of a bridge state (R389). -/
def BridgePhase.code : BridgePhase → Nat
  | .absent => 0 | .waiting => 1 | .online => 2 | .silent => 3 | .lost => 4 | .fenced => 5

/-- BRIDGE_STATE (R371, R389). -/
def bridgeEvent (b : Nat) (old new : BridgePhase) (cause : Nat) (s : State) : State :=
  let x := bridgeAt s b
  let e := (x.current.map (·.epoch)).getD 0
  raiseEvent 0x0800 b true (le 1 new.code ++ le 1 old.code ++ le 1 cause ++ zeros 1 ++ le 4 e ++ le 8 x.lastSample) s

/-- Takes a bridge to a state; every change raises BRIDGE_STATE (R371). -/
def bridgeTo (b : Nat) (new : BridgePhase) (cause : Nat) (s : State) : State :=
  let old := (bridgeAt s b).phase
  let s := setBridge b (fun x => { x with phase := new }) s
  if old = new then s else bridgeEvent b old new cause s

/-! ## Frames out (R361 to R363) -/

/-- The handle of a bridge's long-term key, and of the key of an epoch (R518 of 15). -/
def longHandle (b : Nat) (x : Bridge) : KeyHandle := .bridgeLong b x.config.serial x.admission
def epochHandle (b : Nat) (x : Bridge) (e : StemEpoch) : KeyHandle :=
  .bridgeEpoch b x.config.serial x.admission e.epoch e.bridgeNonce e.moduleNonce

/-- The nonce of a frame: direction, type, bridge, seq, stamp (R361). -/
def stemNonce (dir type b seq stamp : Nat) : Bytes := le 1 dir ++ le 1 type ++ le 2 b ++ le 4 seq ++ le 4 stamp

/-- Header of a downlink frame (R362). -/
def stemHeader (type b len info epoch seq stamp : Nat) : Bytes :=
  le 1 1 ++ le 1 type ++ le 2 b ++ le 2 len ++ zeros 1 ++ le 1 info ++ le 4 epoch ++ le 4 seq ++ le 4 stamp

/-- The current time in the bridges' frame of reference, c + o (R365). -/
def stemNow (s : State) : Nat := ((now s : Int) + s.stem.offset).toNat

/-- The epoch that a downlink frame of a stamp uses: the announced one from its switch stamp on (R370). -/
def epochForStamp (x : Bridge) (stamp : Nat) : Option StemEpoch :=
  match x.next with
  | some (e, switch) => if switch ≤ stamp then some e else x.current
  | none => x.current

/-- Counts a frame sent under an epoch. -/
def bumpSeq (b : Nat) (epoch : Nat) (s : State) : State :=
  let bump := fun (e : StemEpoch) => if e.epoch = epoch then { e with downSeq := e.downSeq + 1 } else e
  setBridge b (fun x => { x with
    current := x.current.map bump, next := x.next.map (fun n => (bump n.1, n.2)), lastDown := s.time.uptime }) s

/-- A bridge is reached: its port is up, and the address its JOIN was sent to still has the Stem role there (R578, R582, R590). -/
def bridgeReached (s : State) (x : Bridge) : Bool :=
  match x.path with
  | none => true
  | some (p, _, own) =>
    let port := s.lnk.ports.getD p {}
    port.phase == .up && port.addrs.any (fun e => match e with
      | some a => a.address == own && a.roles.testBit 1
      | none => false)

/-- A port has a next hop to a destination: an entry's prefix covers it, where its neighbour answers, or the port has a router (R577; the
answer of a neighbour is DESIGN CHOICE log 62). -/
def hasNextHop (port : Port) (dest : Bytes) : Bool :=
  port.config.router.any (· != 0#8) || port.addrs.any (fun e => match e with
    | some a => ofBe a.address / 2 ^ (128 - a.prefixLen) == ofBe dest / 2 ^ (128 - a.prefixLen)
    | none => false)

/-- The destination of a bridge's downlink can be resolved (R577). -/
def bridgeResolved (s : State) (x : Bridge) : Bool :=
  match x.path with
  | none => true
  | some (p, dest, _) => hasNextHop (s.lnk.ports.getD p {}) dest

/-- Sends a frame under an epoch, tagged with the key of a handle; nothing is sent where the key is refused or the bridge is
not reached. -/
def sendUnder (b type info : Nat) (payload : Bytes) (stamp : Nat) (e : StemEpoch) (h : KeyHandle) (s : State) : State :=
  let k := keyFor 0 h s
  match k.1 with
  | none => k.2
  | some key =>
    let head := stemHeader type b payload.length info e.epoch e.downSeq (stamp % 2 ^ 32)
    let tag := gcmTag key (stemNonce 1 type b e.downSeq (stamp % 2 ^ 32)) (head ++ payload) []
    let out := bridgeReached s (bridgeAt s b)
    let found := bridgeResolved s (bridgeAt s b)
    bumpSeq b e.epoch (setStem (fun t => { t with
      sent := if out && found then (b, head ++ payload ++ tag) :: t.sent else t.sent
      unresolved := t.unresolved + (out && !found).toNat }) k.2)

/-- Sends a downlink frame under the bridge's epoch for its stamp; nothing where no epoch is current. -/
def sendDown (b type info : Nat) (payload : Bytes) (stamp : Nat) (s : State) : State :=
  let x := bridgeAt s b
  match epochForStamp x stamp with
  | none => s
  | some e => sendUnder b type info payload stamp e (epochHandle b x e) s

/-- CANCEL (R363): first transmit tick affected, 0 for at once; plans, streaming. -/
def sendCancel (b first : Nat) (plans suspend : Bool) (s : State) : State :=
  sendDown b 0x86 (plans.toNat + 2 * suspend.toNat) (le 4 (first % 2 ^ 32)) (stemNow s) s

/-- Answers STALE, at most once per bridge per 64 ticks (R371): under the current epoch key, or the long-term key where no
epoch is current (log 25). -/
def answerStale (b : Nat) (s : State) : State :=
  let x := bridgeAt s b
  let due := match x.staleAt with
    | some t => decide (t + 64 ≤ s.time.uptime)
    | none => true
  if !due then s
  else
    let s := setBridge b (fun x => { x with staleAt := some s.time.uptime }) s
    match x.current with
    | some e => sendDown b 0x89 0 (le 4 e.epoch) (stemNow s) s
    | none => sendUnder b 0x89 0 (le 4 0) (stemNow s) { epoch := 0 } (longHandle b x) s

/-! ## Epochs (R369, R370) -/

/-- The next epoch of a bridge: none when its session number is used up (R369). -/
def nextEpoch (b : Nat) (bridgeNonce : Bytes) (s : State) : Option StemEpoch × State :=
  let x := bridgeAt s b
  let n := x.session + 1
  if 65535 < n then (none, s)
  else
    let r := drawBytes 31 16 s
    let e : StemEpoch := { epoch := (epochNow s % 65536) * 65536 + n, bridgeNonce := bridgeNonce, moduleNonce := r.1 }
    (some e, setBridge b (fun x => { x with session := n }) r.2)

/-- Revokes a bridge's epoch: it is never current again (R371). -/
def revoke (b : Nat) (s : State) : State :=
  setBridge b (fun x => { x with current := none, next := none, previous := none, plans := [] }) s

/-- EPOCH for a rekey, under the current epoch key, naming a switch stamp 16 ticks ahead (R370). -/
def sendRekey (b : Nat) (s : State) : State :=
  let x := bridgeAt s b
  if x.next.isSome then s
  else
    match nextEpoch b (zeros 16) s with
    | (none, s) => s
    | (some e, s) =>
      let switch := stemNow s + 16
      let s := sendDown b 0x87 0 (le 4 e.epoch ++ le 4 (switch % 2 ^ 32) ++ e.moduleNonce ++ le 1 1 ++ zeros 3) (stemNow s) s
      setBridge b (fun x => { x with next := some (e, switch), rekeyDue := false }) s

/-- A bridge's path from this module: its own Stem address on the port with the same number, if the path names an address it does not hold
(R578 of 17). -/
def ownPath (s : State) (x : Nat × Bytes × Bytes) : Nat × Bytes × Bytes :=
  let own := ((s.lnk.ports.getD x.1 {}).addrs.filterMap id).filter (fun a => a.roles.testBit 1)
  if own.any (fun a => a.address == x.2.2) then x else (x.1, x.2.1, (own.head?.map (·.address)).getD x.2.2)

/-- EPOCH for a takeover, under the long-term key (R370, R371). -/
def sendTakeover (b : Nat) (s : State) : State :=
  match nextEpoch b (zeros 16) s with
  | (none, s) => s
  | (some e, s) =>
    let s := setBridge b (fun x => { x with
      current := some e, next := none, previous := none, takeover := true, plans := [], path := x.path.map (ownPath s) }) s
    let x := bridgeAt s b
    sendUnder b 0x87 0 (le 4 e.epoch ++ le 4 (stemNow s % 2 ^ 32) ++ e.moduleNonce ++ le 1 2 ++ zeros 3) (stemNow s) e
      (longHandle b x) s

/-- The switch stamp has come: the announced epoch is current, the old one stays for 16 ticks (R370). -/
def rotateEpoch (b : Nat) (s : State) : State :=
  let c := stemNow s
  let x := bridgeAt s b
  let x := match x.previous with
    | some (_, t) => if t + 16 < c then { x with previous := none } else x
    | none => x
  let x := match x.next, x.current with
    | some (e, t), some old => if t ≤ c then { x with current := some e, next := none, previous := some (old, t) } else x
    | _, _ => x
  setBridge b (fun _ => x) s

/-! ## Checks of a frame (R364, R365) -/

/-- Counts and reports a dropped frame (R364, R389). -/
def dropFrame (b reason stamp : Nat) (s : State) : State :=
  let s := setBridge b (fun x => { x with drops := Tab.upd x.drops reason 0 (fun n => cap 0xFFFFFFFF (n + 1)) }) s
  let s := setStem (fun t => { t with dropped := t.dropped + 1 }) s
  raiseEvent 0x0801 b true (le 1 reason ++ zeros 3 ++ le 4 stamp ++ zeros 8) s

/-- A stamp widened to the Gliris time nearest to c + o (R365). -/
def widen (s : State) (stamp : Nat) : Int :=
  let r := (now s : Int) + s.stem.offset
  r + signed 32 (((stamp : Int) - r) % (2 ^ 32 : Int)).toNat

/-- Payload length of an uplink type; none for an unknown type (R363). -/
def uplinkLength (type : Nat) : Option Nat :=
  match type with
  | 1 => some 1500 | 2 => some 1600 | 3 => some 168 | 4 => some 32 | 5 => some 88 | 6 => some 4 | _ => none

/-- Reserved bits of an uplink frame are zero (R363, R399). -/
def reservedClear (type : Nat) (f : Bytes) : Bool :=
  let info := rd f 7 1
  rd f 2 2 < 8192 && rd f 6 1 < 16 &&
    (match type with
     | 1 => decide (info < 64)
     | 2 => decide (info < 128)
     | 3 => decide (info < 128)
     | 4 => info == 0 && decide (rd f 21 1 < 8) && rd f 48 4 == 0
     | 5 => info == 0 && decide (rd f 48 1 < 32) && rd f 50 2 == 0 &&
         (List.range 7).all (fun c => rd f (58 + 8 * c) 2 == 0)
     | _ => info == 0)

/-- Step 1 of R364. -/
def frameFormed (type : Nat) (f : Bytes) : Bool :=
  rd f 0 1 == 1 && rd f 1 1 == type &&
    (match uplinkLength type with
     | some n => rd f 4 2 == n && f.length == n + 36
     | none => false) && reservedClear type f

/-- The epoch among current, announced and previous under which a frame of an epoch and stamp may come (R364, R370). -/
def epochMatch (s : State) (x : Bridge) (epoch : Nat) (at' : Int) : Option StemEpoch :=
  let cur := x.current.filter (fun e => e.epoch == epoch && (match x.next with
    | some (_, t) => decide (at' < (t : Int))
    | none => true))
  let nxt := x.next.filter (fun n => n.1.epoch == epoch && decide ((n.2 : Int) ≤ at'))
  let old := x.previous.filter (fun n => n.1.epoch == epoch && decide (at' < (n.2 : Int)) && decide (stemNow s ≤ n.2 + 16))
  match cur, nxt, old with
  | some e, _, _ => some e
  | none, some n, _ => some n.1
  | none, none, some n => some n.1
  | none, none, none => none

/-- Step 5 of R364. -/
def seqFresh (e : StemEpoch) (seq : Nat) : Bool :=
  decide (e.highest < seq + 1024) && decide (seq ≤ e.highest + 1048576) && !e.seen.contains seq

/-- Notes an accepted frame under its epoch. -/
def noteSeq (epoch seq : Nat) (b : Nat) (s : State) : State :=
  let f := fun (e : StemEpoch) => if e.epoch = epoch then
      let hi := max e.highest seq
      { e with highest := hi, seen := (seq :: e.seen).filter (fun q => hi < q + 1024), accepted := e.accepted + 1 }
    else e
  setBridge b (fun x => { x with
    current := x.current.map f, next := x.next.map (fun n => (f n.1, n.2)), previous := x.previous.map (fun n => (f n.1, n.2)) }) s

/-- The tag of an uplink frame verifies under the key of a handle (R361, step 4 of R364). -/
def tagGood (b : Nat) (h : KeyHandle) (f : Bytes) (s : State) : Bool × State :=
  let k := keyFor 0 h s
  match k.1 with
  | none => (false, k.2)
  | some key =>
    let body := f.take (f.length - 16)
    (f.drop (f.length - 16) == gcmTag key (stemNonce 0 (rd f 1 1) b (rd f 12 4) (rd f 16 4)) body [], k.2)

/-- A frame outside the window is counted towards a clock fault: 16 or more within 64 ticks (R365). -/
def outsideWindow (b : Nat) (s : State) : State :=
  let t := s.time.uptime
  let s := setBridge b (fun x => { x with outside := t :: x.outside.filter (fun u => t < u + 64) }) s
  let x := bridgeAt s b
  if 16 ≤ x.outside.length && !x.clockFault then
    let s := raiseFault 0x80 1 (setBridge b (fun x => { x with clockFault := true }) s)
    if x.phase = .online then bridgeTo b .silent 4 s else s
  else s

/-- The stream a sample type belongs to. -/
def Bridge.stream (x : Bridge) (type : Nat) : SampleStream :=
  if type = 1 then x.plc else if type = 2 then x.rf else x.lv

/-- Changes the stream of a sample type. -/
def Bridge.withStream (x : Bridge) (type : Nat) (v : SampleStream) : Bridge :=
  if type = 1 then { x with plc := v } else if type = 2 then { x with rf := v } else { x with lv := v }

/-- The buffer of a sample tick, fresh where its slot holds an older one (R366). -/
def bufferFor (x : Bridge) (t : Nat) : SampleBuf :=
  match Tab.get x.buffers (t % 256) with
  | some b => if b.sampleTick = t then b else { sampleTick := t }
  | none => { sampleTick := t }

/-- Step 7 of R364: a frame of this type is held for this sample tick. -/
def heldAlready (x : Bridge) (type t : Nat) : Bool := (bufferFor x t).present.testBit (type - 1)

/-- Sets one bit of a number. -/
def setBit (v i : Nat) : Nat := v ||| 2 ^ i

/-- A valid uplink frame: silence starts again, a SILENT bridge returns to ONLINE, and so does a WAITING one after a
takeover EPOCH (R371). -/
def bridgeHeard (b : Nat) (locked : Bool) (s : State) : State :=
  let x := bridgeAt s b
  let s := setBridge b (fun x => { x with lastValid := s.time.uptime, timeLocked := locked }) s
  match x.phase with
  | .silent =>
    let s := bridgeTo b .online 2 s
    if x.rekeyDue then sendRekey b s else s
  | .waiting => if x.takeover then bridgeTo b .online 5 (setBridge b (fun x => { x with takeover := false }) s) else s
  | _ => s

/-- Writes an accepted sample frame into its buffer and notes holes (R366, R367). -/
def ingest (b type t : Nat) (f : Bytes) (s : State) : State :=
  let x := bridgeAt s b
  let buf := bufferFor x t
  let data := (f.drop 20).take (f.length - 36)
  let flags := rd f 6 1
  let p := setBit buf.present (type - 1)
  let p := if flags.testBit 1 then setBit p 4 else p
  let p := if flags.testBit 0 then setBit p 5 else p
  let buf := { buf with
    present := p, info := buf.info.set (type - 1) (rd f 7 1), epoch := rd f 8 4
    arrival := buf.arrival.set (type - 1) (now s % 2 ^ 32)
    plc := if type = 1 then data else buf.plc
    rf := if type = 2 then data else buf.rf
    lv := if type = 3 then data else buf.lv }
  let st := x.stream type
  let fresh := match st.latest with
    | some l => if l + 1 < t then
        let run := t - l - 1
        (List.range run).map (fun i => ({ tick := l + 1 + i, foundAt := now s, run := run, foundUp := s.time.uptime } : Hole))
      else []
    | none => []
  let later := match st.latest with
    | some l => decide (l < t)
    | none => true
  let st := { latest := if later then some t else st.latest
              holes := st.holes.filter (fun h => h.tick != t) ++ fresh : SampleStream }
  setBridge b (fun x =>
    let y := x.withStream type st
    { y with
      buffers := Tab.put y.buffers (t % 256) buf
      holes := cap 0xFFFFFFFF (y.holes + fresh.length)
      lastSample := max y.lastSample t
      lvFresh := if type = 3 then y.lvFresh ++ [(t, s.time.uptime)] else y.lvFresh
      offsets := (if x.phase = .online && flags.testBit 0 then y.offsets ++ [(t : Int) - now s] else y.offsets) }) s

/-- A sample frame that has passed steps 1 to 5 (R364, R365): window, duplicate, ingest. -/
def takeSamples (b type : Nat) (f : Bytes) (e : StemEpoch) (s : State) : State :=
  let at' := widen s (rd f 16 4)
  let c : Int := (now s : Int) + s.stem.offset
  let inside := decide (c - 240 ≤ at') && decide (at' ≤ c + 2)
  let s := if inside then s else outsideWindow b s
  let x := bridgeAt s b
  if x.clockFault then dropFrame b 8 (rd f 16 4) s
  else if !inside then dropFrame b 6 (rd f 16 4) s
  else if heldAlready x type at'.toNat then dropFrame b 7 (rd f 16 4) s
  else
    let s := noteSeq e.epoch (rd f 12 4) b s
    let s := setStem (fun t => { t with accepted := t.accepted + 1 }) s
    ingest b type at'.toNat f (bridgeHeard b ((rd f 6 1).testBit 0) s)

/-- A STATUS frame (R363): the bridge's state, and TX_ABORT for entries it stopped (R374). Which entry STATUS does not say:
its fields are free values. -/
def takeStatus (b : Nat) (f : Bytes) (e : StemEpoch) (s : State) : State :=
  let s := noteSeq e.epoch (rd f 12 4) b s
  let s := setStem (fun t => { t with accepted := t.accepted + 1 }) s
  let s := bridgeHeard b ((rd f 6 1).testBit 0) s
  let old := (bridgeAt s b).status
  let st : BridgeStatus := {
    timeState := rd f 20 1, supply := rd f 21 1, temperature := rdS f 22 2, timeErrorNs := rdS f 24 4
    dlDelayMaxUs := rd f 28 4, plansExecuted := rd f 32 4, plansRefused := rd f 36 4, txAborted := rd f 40 4
    bufferOldest := rd f 44 4 }
  let s := setBridge b (fun x => { x with status := st }) s
  if old.txAborted < st.txAborted then
    let d := draw 26 (2 ^ 32) s
    let p := draw 27 65536 d.2
    let m := draw 28 16 p.2
    raiseEvent 0x0805 b true (le 4 d.1 ++ le 2 p.1 ++ le 1 m.1 ++ zeros 9) m.2
  else s

/-- A STALE that names an epoch with a higher D (R373): the module stops sending to that bridge and learns the epoch (R558
of 16). D is compared by 16-bit serial arithmetic. -/
def staleNamed (b : Nat) (f : Bytes) (s : State) : State :=
  let d := rd f 22 2
  let own := epochNow s % 65536
  if laterGen d own then
    let s := bridgeTo b .lost 3 (revoke b s)
    let h := s.duty.epochHighest
    let base := h - h % 65536
    let learned := if d < h % 65536 then base + 65536 + d else base + d
    { s with duty := { s.duty with epochHighest := max h learned } }
  else s

/-- A valid STALE under the bridge's current epoch (R364, R371). -/
def staleHeard (b : Nat) (f : Bytes) (e : StemEpoch) (s : State) : State :=
  let s := noteSeq e.epoch (rd f 12 4) b s
  let s := setStem (fun t => { t with accepted := t.accepted + 1 }) s
  staleNamed b f (bridgeHeard b ((rd f 6 1).testBit 0) s)

/-- A frame of a session: steps 3 to 5 of R364, then its type. -/
def takeSession (b type : Nat) (f : Bytes) (s : State) : State :=
  let x := bridgeAt s b
  let stamp := rd f 16 4
  match epochMatch s x (rd f 8 4) (widen s stamp) with
  | none => answerStale b (dropFrame b 3 stamp s)
  | some e =>
    let t := tagGood b (epochHandle b x e) f s
    if !t.1 then dropFrame b 4 stamp t.2
    else if !seqFresh e (rd f 12 4) then dropFrame b 5 stamp t.2
    else if type = 4 then takeStatus b f e t.2
    else if type = 6 then staleHeard b f e t.2
    else takeSamples b type f e t.2

/-- This module serves bridges: not while it is a standby or undecided (R371). -/
def servesBridges (s : State) : Bool := s.duty.role == .single || s.duty.role == .duty

/-- Stem frames reach the sample buffers: COMPUTE runs (R62 of 03, R524 of 15). -/
def stemUp (s : State) : Bool := dataPathUp s

/-- A JOIN meets R370: serial, tag, nonce, stamp, and a session number left. -/
def joinGood (b : Nat) (f : Bytes) (s : State) : Bool × State :=
  let x := bridgeAt s b
  let nonce := slice f 32 16
  let seen := x.nonces.any (fun n => n.1 == nonce && decide (s.time.uptime < n.2 + 10000))
  let c : Int := now s
  let at' := widen s (rd f 16 4)
  let timely := (s.time.tickTrust != .traceable && s.time.tickTrust != .holdover) ||
    (decide (c - 1000 ≤ at') && decide (at' ≤ c + 1000))
  if rd f 20 8 ≠ x.config.serial || rd f 8 4 ≠ 0 || seen || !timely || 65535 ≤ x.session then (false, s)
  else tagGood b (longHandle b x) f s

/-- A JOIN that is refused: reason 9; three within 60 s raise a class-C fault (R371). -/
def joinRefused (b : Nat) (f : Bytes) (s : State) : State :=
  let t := s.time.uptime
  let s := setBridge b (fun x => { x with refused := t :: x.refused.filter (fun u => t < u + 60000) }) (dropFrame b 9 (rd f 16 4) s)
  if 3 ≤ (bridgeAt s b).refused.length then
    (if s.stem.bridges.any (fun e => e.2.clockFault) then raiseFault 0x80 2 s else reportFault 0x80 2 s)
  else s

/-- TAI−UTC in force. -/
def taiNow (s : State) : Nat := taiUtc (effectiveCivil s) (now s)

/-- A valid JOIN (R370, R371): the next epoch is issued, JOIN_ACCEPT sent, and the bridge is ONLINE. -/
def joinAccepted (b : Nat) (f : Bytes) (s : State) : State :=
  let x := bridgeAt s b
  let nonce := slice f 32 16
  let s := revoke b s
  match nextEpoch b nonce s with
  | (none, s) => s
  | (some e, s) =>
    let cal := (List.range 7).map (fun c => (rd f (52 + 8 * c) 4, rdS f (56 + 8 * c) 2))
    let keep := x.phase == .online
    let s := setBridge b (fun y => { y with
      current := some e, takeover := false, rekeyDue := false, lvCal := cal
      nonces := (nonce, s.time.uptime) :: y.nonces.filter (fun n => s.time.uptime < n.2 + 10000)
      refused := [], lastValid := s.time.uptime, timeLocked := (rd f 6 1).testBit 0
      status := { y.status with timeState := rd f 49 1, plansExecuted := 0, plansRefused := 0, txAborted := 0 }
      plc := if keep then y.plc else {}, rf := if keep then y.rf else {}, lv := if keep then y.lv else {} }) s
    let s := sendUnder b 0x81 0 (nonce ++ e.moduleNonce ++ le 1 x.config.streams ++ zeros 1 ++ le 2 (taiNow s) ++ zeros 4)
      (stemNow s) e (longHandle b (bridgeAt s b)) s
    let s := setStem (fun t => { t with accepted := t.accepted + 1 }) s
    if keep then bridgeEvent b .online .online 7 s else bridgeTo b .online 1 s

/-- STALE from a bridge under an epoch other than its current one (R371, R373). Naming a higher D it acts, though its tag is
under an epoch this module does not hold and cannot be checked (log 25); else it is a frame under another epoch. -/
def takeStale (b : Nat) (f : Bytes) (s : State) : State :=
  if laterGen (rd f 22 2) (epochNow s % 65536) then staleNamed b f s
  else answerStale b (dropFrame b 3 (rd f 16 4) s)

/-- A Stem frame of a type arrives (R364). -/
def stemReceiveOn (via : Option (Nat × Bytes × Bytes)) (type : Nat) (f : Bytes) (s : State) : State :=
  if !stemUp s then s
  else
    let s := setStem (fun t => { t with bytes := t.bytes + f.length }) s
    let b := rd f 2 2 % 8192
    let x := bridgeAt s b
    if !frameFormed type f then dropFrame b 1 (rd f 16 4) s
    else if x.phase = .absent || x.phase = .fenced || x.config.kind ≠ 0 || !servesBridges s ||
        (type ≤ 3 && !x.config.streams.testBit (type - 1)) then dropFrame b 2 (rd f 16 4) s
    else if type = 5 then
      let j := joinGood b f s
      if j.1 then joinAccepted b f (setBridge b (fun y => { y with path := via }) j.2) else joinRefused b f j.2
    else if type = 6 && rd f 8 4 ≠ ((x.current.map (·.epoch)).getD 0) then takeStale b f s
    else takeSession b type f s

/-- A Stem frame other than JOIN arrives (R364). -/
def stemReceive (type : Nat) (f : Bytes) (s : State) : State := stemReceiveOn none type f s

/-! ## Holes and repairs (R367) -/

/-- The ranges a list of sample ticks makes: first tick and length, ticks rising. -/
def tickRuns : List Nat → List (Nat × Nat)
  | [] => []
  | t :: ts => match tickRuns ts with
    | (a, n) :: r => if a = t + 1 && n < 255 then (t, n + 1) :: r else (t, 1) :: (a, n) :: r
    | [] => [(t, 1)]

/-- REPAIR frames for ticks of a stream (bit `k` of types), at most 16 ranges each. -/
def sendRepairs (b k : Nat) (ticks : List Nat) (s : State) : State :=
  let runs := tickRuns ticks
  (pieces 16 (ceilDiv runs.length 16) runs).foldl (fun s l =>
    let s := setStem (fun t => { t with repairs := cap 0xFFFFFFFF (t.repairs + l.length) }) s
    sendDown b 0x85 0 (le 1 l.length ++ zeros 3 ++
      l.flatMap (fun r => le 4 (r.1 % 2 ^ 32) ++ le 2 r.2 ++ le 1 (2 ^ k) ++ zeros 1)) (stemNow s) s) s

/-- Asks for holes of a stream (0 power-line, 1 radio, 2 LV) that meet a condition (R367). -/
def askRepairs (b k : Nat) (p : Hole → Bool) (s : State) : State :=
  let st := (bridgeAt s b).stream (k + 1)
  let due := (st.holes.filter p).map (·.tick)
  if due.isEmpty then s
  else
    let s := sendRepairs b k due s
    setBridge b (fun x => x.withStream (k + 1) { st with holes := st.holes.map (fun h =>
      if p h then { h with asked := h.asked + 1, lastAsked := now s } else h) }) s

/-- Ticks after which a repair is asked for again (R367). -/
def repairGap (x : Bridge) : Nat := 2 * ceilDiv x.status.dlDelayMaxUs 1000 + 2

/-- Uptime at the start of a tick that has work, against which its ingestion cut is taken (R18). -/
def startOf (s : State) (label : Nat) : Nat :=
  match openTick s label with
  | some t => t.startedAt
  | none => s.time.uptime - (now s - label)

/-- STEM_INGEST on one bridge in a tick (R18, R367): requests for the holes found by frames that arrived before the tick's start, not for
power-line and radio holes longer than hole_wait. -/
def runIngest (label b : Nat) (s : State) : State :=
  let x := bridgeAt s b
  if x.phase ≠ .online then s
  else
    let first := fun (h : Hole) => h.asked == 0 && decide (h.foundUp < startOf s label)
    let short := fun (h : Hole) => first h && decide (h.run ≤ x.config.holeWait)
    askRepairs b 2 first (askRepairs b 1 short (askRepairs b 0 short s))

/-- A repair request is made again: at most three times in all, LV holes without limit (R367). -/
def retryRepair (b k : Nat) (s : State) : State :=
  let x := bridgeAt s b
  if x.phase ≠ .online || 2 < k then s
  else askRepairs b k (fun h => decide (1 ≤ h.asked) && (k == 2 || decide (h.asked < 3)) &&
      decide (h.lastAsked + repairGap x ≤ now s)) s

/-- The kernels stop waiting at holes of a stream: the samples are treated as zeros and present bit 3 is set (R367). -/
def skipHoles (b k : Nat) (s : State) : State :=
  let x := bridgeAt s b
  let st := x.stream (k + 1)
  let due := fun (h : Hole) => !h.skipped && decide (h.foundAt + x.config.holeWait ≤ now s)
  let ticks := (st.holes.filter due).map (·.tick)
  setBridge b (fun x =>
    let y := x.withStream (k + 1) { st with holes := st.holes.map (fun h => if due h then { h with skipped := true } else h) }
    { y with buffers := ticks.foldl (fun bs t =>
        let buf := bufferFor x t
        Tab.put bs (t % 256) { buf with present := setBit buf.present 3 }) y.buffers }) s

/-- Sample ticks that leave the acceptance window unreceived are lost (R365, R367). -/
def dropHoles (b : Nat) (s : State) : State :=
  let x := bridgeAt s b
  let floor : Int := (now s : Int) + s.stem.offset - 240
  let gone := fun (st : SampleStream) => st.holes.countP (fun h => decide ((h.tick : Int) < floor))
  let keep := fun (st : SampleStream) => { st with holes := st.holes.filter (fun h => decide (floor ≤ (h.tick : Int))) }
  let n := gone x.plc + gone x.rf + gone x.lv
  if n = 0 then s
  else
    let s := setBridge b (fun x => { x with
      plc := keep x.plc, rf := keep x.rf, lv := keep x.lv, samplesLost := cap 0xFFFFFFFF (x.samplesLost + n) }) s
    setStem (fun t => { t with samplesLost := cap 0xFFFFFFFF (t.samplesLost + n) }) s

/-! ## Registry (R371, R391) -/

/-- What makes a bridge leave a session by command: CANCEL with suspend, and the epoch is revoked (R371). -/
def leaveSession (b : Nat) (s : State) : State :=
  let p := (bridgeAt s b).phase
  if (p = .online || p = .silent) && (bridgeAt s b).config.kind = 0 then revoke b (sendCancel b 0 true true s) else revoke b s

/-- A STEM_BRIDGE_SET by the state machine: none where it is refused (R371, R391, R401). -/
def bridgeChange (c : StemChange) (s : State) : Option State :=
  let b := c.bridge
  let x := bridgeAt s b
  let localRadio := match Tab.get s.mtr.rf b with
    | some r => r.config.kind != 0
    | none => false
  let home := if c.config.kind ≠ 0 && s.pwr.fieldOn then BridgePhase.online else .waiting
  match c.action with
  | 0 =>
    if (x.phase = .absent || x.phase = .fenced) && !localRadio then
      some (bridgeTo b home 0 (setBridge b (fun y => { phase := y.phase, config := c.config, admission := y.admission + 1 }) s))
    else none
  | 1 =>
    if x.phase = .absent then none
    else
      let moved := c.config.serial ≠ x.config.serial || c.config.streams ≠ x.config.streams || c.config.kind ≠ x.config.kind
      if moved && x.phase ≠ .fenced then
        some (bridgeTo b home 0 (setBridge b (fun y => { y with config := c.config }) (leaveSession b s)))
      else some (setBridge b (fun y => { y with config := c.config }) s)
  | 2 =>
    if x.phase = .absent then none
    else
      let s := bridgeTo b .absent 0 (leaveSession b s)
      let s := setBridge b (fun y => { admission := y.admission }) s
      some (setStem (fun t => { t with nets := Tab.del t.nets b }) s)
  | _ =>
    if x.phase = .absent then none
    else if x.phase = .fenced then some s
    else some (bridgeTo b .fenced 0 (leaveSession b s))

/-- Changes accepted and not yet in effect, applied (R391). -/
def bridgesAhead (s : State) : State := s.stem.changes.foldl (fun s c => (bridgeChange c s).getD s) s

/-- Bridges that are not ABSENT. -/
def admitted (s : State) : List Nat := (s.stem.bridges.filter (fun e => e.2.phase != .absent)).map (·.1)

/-- The median of a list, rounded; none of an empty one (R365). -/
def medianOf (l : List Int) : Option Int :=
  let m := l.mergeSort (fun a b => decide (a ≤ b))
  let n := m.length
  if n = 0 then none
  else if n % 2 = 1 then m[n / 2]?
  else some (roundHalfAway (m.getD (n / 2 - 1) 0 + m.getD (n / 2) 0) 2)

/-- What Stem does at a tick start: changes of the registry, the Stem offset, switches of epochs, lost sample ticks, clock
faults that are over (R365, R367, R370, R391). -/
def stemTick (s : State) : State :=
  let s := setStem (fun t => { t with changes := [] }) (bridgesAhead s)
  let bs := admitted s
  let steady := (s.time.tickTrust == .traceable || s.time.tickTrust == .holdover) && s.time.pendingStep.isNone
  let arrived := bs.flatMap (fun b => (bridgeAt s b).offsets)
  let o := if steady then 0 else (medianOf arrived).getD s.stem.offset
  let s := setStem (fun t => { t with offset := o }) s
  let s := bs.foldl (fun s b =>
    let s := dropHoles b (rotateEpoch b s)
    setBridge b (fun x =>
      let out := x.outside.filter (fun u => s.time.uptime < u + 64)
      { x with offsets := [], outside := out, clockFault := x.clockFault && decide (16 ≤ out.length) }) s) s
  let s := if s.stem.bridges.any (fun e => e.2.clockFault) then s else endFault 0x80 s
  if now s % 1024 = 0 then setStem (fun t => { t with bytesPrev := t.bytes, bytes := 0 }) s else s

/-- Every admitted bridge with a session leaves it, as at the entry to Vigil (R371): CANCEL with suspend, LOST. -/
def stemVigil (s : State) : State :=
  (admitted s).foldl (fun s b =>
    let x := bridgeAt s b
    if (x.phase = .online || x.phase = .silent) && x.config.kind = 0 then bridgeTo b .lost 6 (leaveSession b s) else s) s

/-- CANCEL, first transmit tick 0, to every bridge ONLINE or SILENT after a class-A fault (R376). -/
def stemCancelAll (s : State) : State :=
  (admitted s).foldl (fun s b =>
    let x := bridgeAt s b
    if (x.phase = .online || x.phase = .silent) && x.config.kind = 0 then
      setBridge b (fun y => { y with plans := [] }) (sendCancel b 0 true false s)
    else s) s

/-- This module becomes duty: a takeover EPOCH to every bridge WAITING or LOST (R371). -/
def stemTakeover (s : State) : State :=
  (admitted s).foldl (fun s b =>
    let x := bridgeAt s b
    if (x.phase = .waiting || x.phase = .lost) && x.config.kind = 0 then sendTakeover b s else s) s

/-- After a cold start every admitted bridge that is not FENCED is WAITING and no epoch is current (R371). What is counted
since cold start starts again, DRAM contents are gone. -/
def coldStem (s : State) : State :=
  let s := setStem (fun t => { t with
    offset := 0, accepted := 0, dropped := 0, repairs := 0, samplesLost := 0, bytes := 0, bytesPrev := 0, nets := [], unresolved := 0 }) s
  setStem (fun t => { t with bridges := t.bridges.map (fun e =>
    (e.1, { config := e.2.config, admission := e.2.admission, session := e.2.session, path := e.2.path
            phase := if e.2.phase = .absent || e.2.phase = .fenced then e.2.phase else .waiting })) }) s

/-- A local bridge equivalent is ONLINE from FIELD power-up (R388), and without FIELD it is WAITING. -/
def stemField (up : Bool) (s : State) : State :=
  (admitted s).foldl (fun s b =>
    let x := bridgeAt s b
    if x.config.kind = 0 || x.phase = .fenced then s
    else if up then bridgeTo b .online 1 s else bridgeTo b .waiting 3 s) s

/-! ## Meanings -/

/-- STEM_PLC_SAMPLES (R364). -/
def execStemPlcSamples (frame : Bytes) (s : State) : Result := .next (stemReceive 1 frame s)
/-- STEM_RF_SAMPLES (R364): the block index reported is compared by the radio MAC (R400 of 12). -/
def stemRfSamples (frame : Bytes) (s : State) : State := stemReceive 2 frame s
/-- STEM_LV_SAMPLES (R364). -/
def execStemLvSamples (frame : Bytes) (s : State) : Result := .next (stemReceive 3 frame s)
/-- STEM_STATUS_FRAME (R363). -/
def execStemStatusFrame (frame : Bytes) (s : State) : Result := .next (stemReceive 4 frame s)
/-- STEM_JOIN (R370). -/
def execStemJoin (port : Nat) (source dest frame : Bytes) (s : State) : Result :=
  .next (stemReceiveOn (some (port, source, dest)) 5 frame s)

/-- HOLE_REPAIR_RETRY (R367): the time of the next request has come. -/
def execHoleRepairRetry (bridge stream : Nat) (s : State) : Result := .next (if stemUp s then retryRepair bridge stream s else s)

/-- HOLE_WAIT_EXPIRY (R367): hole_wait ticks have passed at a power-line or radio hole. -/
def execHoleWaitExpiry (bridge stream : Nat) (s : State) : Result :=
  .next (if stemUp s && stream ≤ 1 then skipHoles bridge stream s else s)

/-- BRIDGE_SILENCE (R371): silence_ticks without a valid frame. -/
def execBridgeSilence (bridge : Nat) (s : State) : Result :=
  let x := bridgeAt s bridge
  .next (if stemUp s && x.phase = .online && x.config.kind = 0 then bridgeTo bridge .silent 2 s else s)

/-- BRIDGE_LOST (R371): 256 ticks without a valid frame. -/
def execBridgeLost (bridge : Nat) (s : State) : Result :=
  .next (if stemUp s && (bridgeAt s bridge).phase = .silent then bridgeTo bridge .lost 3 (revoke bridge s) else s)

/-- REKEY_DUE (R370, R371): a seq has reached 2^31. -/
def execRekeyDue (bridge : Nat) (s : State) : Result :=
  let x := bridgeAt s bridge
  .next (if !stemUp s || x.config.kind ≠ 0 then s
    else if x.phase = .online then sendRekey bridge s
    else if x.phase = .silent then setBridge bridge (fun y => { y with rekeyDue := true }) s
    else s)

/-- KEEPALIVE_DUE (R372): 64 ticks without another downlink frame to an ONLINE bridge. -/
def execKeepaliveDue (bridge : Nat) (s : State) : Result :=
  let x := bridgeAt s bridge
  .next (if stemUp s && x.phase = .online && x.config.kind = 0 then sendDown bridge 0x88 0 [] (stemNow s) s else s)

end Sys2Proof.Machine
end

