-- ==== Sys2Proof/Machine/Sepal.lean ====
section
/-!
DEFINITION. Sepal: bindings, down messages and their acknowledgement, up messages and what they do.
Chapter 12 of the spec (R410 to R421).
-/

namespace Sys2Proof.Machine

/-- Changes the meter state. -/
def setMtr (f : MeterState → MeterState) (s : State) : State := { s with mtr := f s.mtr }

/-- The fields of an account's meter field (R285 of 09): bridge, node, medium. -/
def AccountRec.bridge (r : AccountRec) : Nat := r.meter % 8192
def AccountRec.node (r : AccountRec) : Nat := r.meter / 8192 % 512
def AccountRec.radio (r : AccountRec) : Bool := r.meter.testBit 22

/-- The meter bound to an account (R410). -/
def meterOf (s : State) (a : Nat) : Option Meter := Tab.get s.mtr.meters a

/-- Changes the meter bound to an account. -/
def setMeter (a : Nat) (f : Meter → Meter) (s : State) : State :=
  match meterOf s a with
  | some m => setMtr (fun t => { t with meters := Tab.put t.meters a (f m) }) s
  | none => s

/-- Accounts with a bound meter that name a bridge and a medium. -/
def accountsOn (s : State) (b : Nat) (radio : Bool) : List Nat :=
  (s.mtr.meters.map (·.1)).filter (fun a =>
    let r := committedAccount s a
    r.phase != .unused && r.bridge == b && r.radio == radio)

/-- The account whose meter field names a node of a network on a medium (R410). -/
def accountAtNode (s : State) (b node : Nat) (radio : Bool) : Option Nat :=
  (accountsOn s b radio).find? (fun a => (committedAccount s a).node == node)

/-- The account whose meter field names a node of a network on a medium, bound to a meter or not (R396, R428). -/
def accountNaming (s : State) (b node : Nat) (radio : Bool) : Option Nat :=
  (s.led.accounts.find? (fun e =>
    let r := committedAccount s e.1
    r.phase != .unused && r.bridge == b && r.radio == radio && r.node == node)).map (·.1)

/-- The account a serial is bound to. -/
def accountOfSerial (s : State) (serial : Nat) : Option Nat :=
  (s.mtr.meters.find? (fun e => e.2.serial == serial)).map (·.1)

/-- A class-C report of source 0x90, whose standing condition is a block mismatch (R400, R406, R409, R420). -/
def meterFault (detail : Nat) (s : State) : State :=
  if s.mtr.rf.any (fun e => e.2.mismatch) then raiseFault 0x90 detail s else reportFault 0x90 detail s

/-! ## Down messages (R412, R413) -/

/-- Message types of *Sepal messages* that the module sends. -/
def msgReadReq : Nat := 0x01
def msgCredit : Nat := 0x02
def msgTokenResult : Nat := 0x03
def msgTime : Nat := 0x04
def msgIdentify : Nat := 0x05
def msgKeyChange : Nat := 0x06
def msgGroupKey : Nat := 0x07
def msgFwAnnounce : Nat := 0x08
def msgFwBlock : Nat := 0x09
def msgFwQuery : Nat := 0x0A
def msgFwActivate : Nat := 0x0B
def msgNodeAssign : Nat := 0x0C

/-- Queues a down message; a READ_REQ, CREDIT, TIME or IDENTIFY_REQ that waits already is not queued twice, and one that has
been sent is sent afresh (R415). -/
def queueMsg (a : Nat) (m : OutMsg) (s : State) : State :=
  setMeter a (fun x =>
    let single := [msgReadReq, msgCredit, msgTime, msgIdentify, msgNodeAssign].contains m.type
    let rest := if single then x.queue.filter (fun y => y.type != m.type || y.request.isSome) else x.queue
    { x with queue := rest ++ [m] }) s

/-- Queues a message of a level now. -/
def queueNow (a type level : Nat) (body : Bytes) (s : State) : State :=
  queueMsg a { type := type, body := body, level := level, since := now s } s

/-- A CREDIT is due to the account's meter (R415). -/
def queueCredit (a : Nat) (s : State) : State := queueNow a msgCredit 1 [] s

/-- Emergency credit is available to an account (R300 of 09). -/
def emergencyAvailable (s : State) (r : AccountRec) : Bool :=
  let p := activePlan s r.plan
  r.phase == .active && r.prepay && p.emergencyPermitted && !r.emergency && decide (r.balance < (levels p r).1 + p.lowWarn)

/-- *CREDIT body* from the committed account (R22 of 01, R415). -/
def creditBody (s : State) (a : Nat) : Bytes :=
  let r := committedAccount s a
  le 1 r.supply.code ++
    le 1 (r.emergency.toNat + 2 * r.lowWarned.toNat + 4 * r.deferral.toNat + 8 * (emergencyAvailable s r).toNat) ++ zeros 2 ++
    le 8 r.allowanceWh ++ le 4 r.allowanceSeq ++ leS 6 r.balance ++ zeros 2

/-- The body of TIME for a frame that starts in a tick. -/
def timeBody (s : State) (t : Nat) : Bytes :=
  le 8 t ++ le 2 (taiNow s) ++ leS 2 (civilOffset (effectiveCivil s) t) ++ le 1 s.led.billingMin ++
    le 1 s.time.tickTrust.code ++ zeros 2

/-- The body of READ_REQ: the interval that begins at the account's reading_tick, and up to 7 complete intervals (R414). -/
def readBody (s : State) (a : Nat) : Bytes :=
  let r := committedAccount s a
  let len := 60000 * s.led.billingMin
  le 8 r.readingTick ++ le 1 (cap 7 ((now s - r.readingTick) / len)) ++ zeros 3

/-- The body a message carries when it is sent in a frame that starts in tick `t`. -/
def bodyNow (s : State) (a : Nat) (m : OutMsg) (t : Nat) : Bytes :=
  if m.type = msgCredit then creditBody s a
  else if m.type = msgTime then timeBody s t
  else if m.type = msgReadReq then readBody s a
  else m.body

/-- The message to be sent next: one in flight until it is acknowledged, else the lowest level, oldest first (R382 of 11,
R413). -/
def nextMsg (m : Meter) : Option OutMsg :=
  match m.queue.find? (fun x => 0 < x.sends) with
  | some x => some x
  | none =>
    m.queue.foldl (fun best x => match best with
      | none => some x
      | some y => if x.level < y.level || (x.level = y.level && x.since < y.since) then some x else best) none

/-- Sepal bytes of a message with its ref; the ack field names what the meter's last message asked for (R412). -/
def msgBytes (x : OutMsg) (body : Bytes) (ack : Nat) (more : Bool) : Bytes :=
  le 1 x.type ++ le 1 x.ref ++ le 1 ack ++ le 1 ((0 < x.ref : Bool).toNat + 2 * more.toNat) ++ body

/-- Takes the next message of an account for a frame that starts in tick `t`: its bytes, and the count of its sends. A
message asks for acknowledgement unless it is a FW_BLOCK (R413). -/
def takeMsg (a t : Nat) (s : State) : Option (OutMsg × Bytes) × State :=
  match meterOf s a with
  | none => (none, s)
  | some m =>
    match nextMsg m with
    | none => (none, s)
    | some x =>
      let ref := if x.ref ≠ 0 then x.ref else m.nextRef
      let y := { x with ref := ref, sends := x.sends + 1 }
      let bytes := msgBytes y (bodyNow s a x t) m.ackRef (decide (1 < m.queue.length))
      let fresh := x.ref = 0
      let s := setMeter a (fun m => { m with
        queue := m.queue.map (fun z => if z = x then y else z)
        nextRef := if fresh then m.nextRef % 255 + 1 else m.nextRef }) s
      (some (y, bytes), s)

/-- Completes the MTR_REQUEST of an account with the Gliris time of the answer (R431). -/
def answerRequest (a action : Nat) (s : State) : State :=
  match (meterOf s a).bind (·.request) with
  | some q =>
    if q.action = action then
      complete q.ref stOk 0 (le 8 (now s)) (setMeter a (fun m => { m with request := none }) s)
    else s
  | none => s

/-- The meter's reference to a sent message: it is acknowledged and leaves the queue, a CREDIT apart, which stays until
CREDIT_ACK reports the current allowance_seq (R413, R415). -/
def ackDown (a ref : Nat) (s : State) : State :=
  match meterOf s a with
  | none => s
  | some m =>
    match m.queue.find? (fun x => 0 < x.sends && x.ref == ref && ref != 0) with
    | none => s
    | some x =>
      if x.type = msgCredit then s
      else
        let s := setMeter a (fun m => { m with queue := m.queue.filter (fun y => y != x) }) s
        if x.type = msgTime then answerRequest a 3 s else s

/-- What giving a message up does besides (R413, R420): the request that caused it completes with NOT_READY, and a key change
that fails takes the meter off its medium and is reported. -/
def giveUp (a : Nat) (x : OutMsg) (s : State) : State :=
  let s := setMeter a (fun m => { m with queue := m.queue.filter (fun y => y != x) }) s
  let s := match x.request, (meterOf s a).bind (·.request) with
    | some r, some q => if q.ref = r then
        complete r stNotReady 0 [] (setMeter a (fun m => { m with request := none }) s) else s
    | _, _ => s
  if x.type ≠ msgKeyChange then s
  else
    let r := committedAccount s a
    let s := setMeter a (fun m => { m with keyChange := none }) s
    let s := if r.radio then
        setMtr (fun t => { t with rf := t.rf.map (fun e => (e.1,
          if e.1 = r.bridge then { e.2 with conns := e.2.conns.map (fun c => (c.1,
            if c.2.account = a && c.2.phase = .connected then { c.2 with terminate := some 4 } else c.2)) } else e.2)) }) s
      else
        setStem (fun t => { t with nets := t.nets.map (fun e => (e.1,
          if e.1 = r.bridge then { e.2 with nodes := Tab.upd e.2.nodes r.node {} (fun n => { n with phase := .unrouted, relays := [] }) }
          else e.2)) }) s
    meterFault 4 s

/-! ## Up messages: arrival (R412, R413) -/

/-- Body length of an up message; none for a reserved type. -/
def upLength (p : Bytes) : Option Nat :=
  match rd p 0 1 with
  | 0x81 => some (36 + 8 * cap 7 (rd p 37 1))
  | 0x82 => some 16
  | 0x83 => some 16
  | 0x84 => some 12
  | 0x85 => some 0
  | 0x86 => some 36
  | 0x87 => some 4
  | 0x88 => some 72
  | _ => none

/-- A Sepal message has arrived in a valid frame: its ack is honoured; a reserved type or a wrong body length is discarded and
counted; a ref equal to the last processed is not processed again (R412, R413). -/
def sepalArrive (b a : Nat) (radio : Bool) (p : Bytes) (s : State) : State :=
  if p.length < 4 then s
  else
    let s := ackDown a (rd p 2 1) s
    let ref := rd p 1 1
    if upLength p ≠ some (p.length - 4) || (rd p 0 1 == 0x81 && 7 < rd p 37 1) then
      setMtr (fun t => { t with discarded := t.discarded + 1 }) s
    else
      let again := match meterOf s a with
        | some m => ref != 0 && m.upRef == ref
        | none => false
      if again then s
      else
        let s := if ref ≠ 0 then setMeter a (fun m => { m with upRef := ref, ackRef := ref }) s else s
        setMtr (fun t => { t with inbox := t.inbox ++ [{ bridge := b, account := a, radio := radio, payload := p }] }) s

/-- The oldest waiting message of a type for an account, and the state without it. -/
def takeInbox (a type : Nat) (s : State) : Option InMsg × State :=
  match s.mtr.inbox.find? (fun m => m.account == a && rd m.payload 0 1 == type) with
  | none => (none, s)
  | some m => (some m, setMtr (fun t => { t with inbox := t.inbox.erase m }) s)

/-- Runs a handler on the oldest waiting message of a type: its bridge, medium and body. -/
def onMessage (a type : Nat) (f : InMsg → Bytes → State → State) (s : State) : State :=
  match takeInbox a type s with
  | (none, s) => s
  | (some m, s) => f m (m.payload.drop 4) s

/-! ## Readings and credit (R414, R415) -/

/-- Adds the interval voltages of a reading to the network's localisation series (R347 of 10, R414): by 15-minute window
sequence, the mean voltage in 0.1 V. -/
def addVoltages (b a : Nat) (l : List (Nat × Nat)) (s : State) : State :=
  let e := Tab.getD s.bal.nets b {}
  let series := l.foldl (fun (acc : List MeterWindow) v =>
    if acc.any (fun w => w.account == a && w.seq == v.1) then
      acc.map (fun w => if w.account == a && w.seq == v.1 then { w with volts := w.volts ++ [v.2] } else w)
    else acc ++ [{ account := a, seq := v.1, energy := 0, volts := [v.2] }]) e.series
  { s with bal := { s.bal with nets := Tab.put s.bal.nets b { e with series := series } } }

/-- A READING (R414): queued on the account's working page; without its intervals where its clock was not synchronised or
its interval length is not the billing interval's. A meter that gave seven intervals and is not current is asked again. -/
def takeReading (m : InMsg) (body : Bytes) (s : State) : State :=
  let a := m.account
  let tick := rd body 0 8
  let start := rd body 24 8
  let len := 60000 * s.led.billingMin
  let count := rd body 33 1
  let usable := !(rd body 34 2).testBit 0 && rd body 32 1 == s.led.billingMin
  let c := effectiveCivil s
  let parts := (List.range count).map (fun i =>
    (intervalNumber c len (start + i * len), rd body (36 + 8 * i) 3, rd body (39 + 8 * i) 3))
  let x : Reading := { tick := tick, importWh := rd body 8 8, exportWh := rd body 16 8
                       intervals := if usable then parts else [] }
  let s := setPage a (fun p => { p with reading := some x }) s
  let s := setMeter a (fun y => { y with lastReading := tick, lastRead := now s
                                         queue := y.queue.filter (fun z => z.type != msgReadReq) }) s
  let volts := (List.range count).flatMap (fun i =>
    let u := (utcMs c (start + i * len)).toNat
    let seqs := if len ≤ 900000 then (if u / 900000 = (u + len - 1) / 900000 then [u / 900000] else [])
      else (List.range (len / 900000)).map (u / 900000 + ·)
    seqs.map (fun q => (q, rd body (42 + 8 * i) 2)))
  let s := if usable then addVoltages m.bridge a volts s else s
  let s := if count = 7 && decide (tick + len ≤ now s) then queueNow a msgReadReq 3 [] s else s
  answerRequest a 0 s

/-- A CREDIT_ACK (R415): the push is complete when it reports the current allowance_seq. -/
def takeCreditAck (m : InMsg) (body : Bytes) (s : State) : State :=
  let seq := rd body 0 4
  let s := setMeter m.account (fun y => { y with creditAcked := some seq, relay := rd body 4 1 }) s
  if seq = (committedAccount s m.account).allowanceSeq then
    setMeter m.account (fun y => { y with queue := y.queue.filter (fun z => z.type != msgCredit) }) s
  else s

/-- An EMERGENCY_REQ is queued for step 1 of R23 of 01, in the order of arrival (R300 of 09, R416). -/
def takeEmergency (m : InMsg) (_body : Bytes) (s : State) : State :=
  let s := setPage m.account (fun p => { p with emergency := some (p.emergency.getD s.led.nextToken) }) s
  { s with led := { s.led with nextToken := s.led.nextToken + 1 } }

/-! ## Events (R417 to R419) -/

/-- `a` is higher than `b` by serial arithmetic on 16 bits. -/
def higher16 (a b : Nat) : Bool := laterGen a b

/-- A meter event is accepted if its event_seq is higher than the last accepted, and acted on (R417, R419). -/
def meterEvent (b a : Nat) (radio : Bool) (kind seq time data : Nat) (s : State) : State :=
  match meterOf s a with
  | none => s
  | some m =>
    let fresh := match m.lastEventSeq with
      | some l => higher16 seq l
      | none => true
    if !fresh || kind = 0 || 12 < kind then s
    else
      let s := setMeter a (fun y => { y with lastEventSeq := some seq, lastEventKind := kind }) s
      if kind = 1 then
        let s := setPage a (fun p => { p with reports := p.reports ++ [some time] }) s
        raiseEvent 0x0900 b true (le 4 a ++ le 1 radio.toNat ++ zeros 11) s
      else if kind = 2 then
        let s := setPage a (fun p => { p with reports := p.reports ++ [none] }) s
        raiseEvent 0x0901 b true (le 4 a ++ le 1 radio.toNat ++ zeros 3 ++ le 4 data ++ zeros 4) s
      else if kind = 9 || kind = 12 then s
      else raiseEvent 0x0902 a true (le 1 kind ++ zeros 1 ++ le 2 seq ++ le 4 data ++ le 8 time) s

/-- An EVENT message. -/
def takeEvent (m : InMsg) (body : Bytes) (s : State) : State :=
  meterEvent m.bridge m.account m.radio (rd body 0 1) (rd body 2 2) (rd body 4 8) (rd body 12 4) s

/-- An ALERT's payload: kind, event_seq, reserved. It carries no time; the time of its arrival stands for it (R418). -/
def takeAlert (b a : Nat) (radio : Bool) (p : Bytes) (s : State) : State :=
  meterEvent b a radio (rd p 0 1) (rd p 1 2) (now s) 0 s

/-! ## Identity and keys (R409, R420, R421) -/

/-- The connection of an account's node. -/
def connOf (s : State) (b node : Nat) : Option RfConn := (Tab.get s.mtr.rf b).bind (fun r => Tab.get r.conns node)

/-- Changes the connection of a node. -/
def setConn (b node : Nat) (f : RfConn → RfConn) (s : State) : State :=
  match Tab.get s.mtr.rf b with
  | some r =>
    match Tab.get r.conns node with
    | some c => setMtr (fun t => { t with rf := Tab.put t.rf b { r with conns := Tab.put r.conns node (f c) } }) s
    | none => s
  | none => s

/-- RF_CONN (R425). -/
def connEvent (b node state cause : Nat) (s : State) : State :=
  raiseEvent 0x0905 b true (le 2 node ++ le 1 state ++ le 1 cause ++ zeros 12) s

/-- An IDENTITY that names another serial: METER_MISMATCH, a class-C fault, TERMINATE reason 3 on the radio (R409). -/
def identityMismatch (m : InMsg) (reported bound : Nat) (s : State) : State :=
  let r := committedAccount s m.account
  let s := raiseEvent 0x0903 m.account false (le 8 reported ++ le 8 bound) s
  let s := meterFault 3 s
  if m.radio then
    connEvent m.bridge r.node 0 4 (setConn m.bridge r.node (fun c => { c with terminate := some 3, phase := .unconnected }) s)
  else
    setStem (fun t => { t with nets := Tab.upd t.nets m.bridge {} (fun n => { n with
      nodes := Tab.upd n.nodes r.node {} (fun x => { x with phase := .unrouted, relays := [] }) }) }) s

/-- A campaign target whose next IDENTITY shows the new version counts as activated (R423). -/
def fwIdentity (a fw : Nat) (s : State) : State :=
  setMtr (fun t => { t with campaigns := t.campaigns.map (fun e => (e.1,
    { e.2 with targets := e.2.targets.map (fun x => (x.1,
        if x.1 = a && x.2.state == some 4 && fw ≠ ((Tab.get t.meters a).map (·.fw)).getD 0 then
          { x.2 with activated := true } else x.2)) })) }) s

/-- An IDENTITY. -/
def takeIdentity (m : InMsg) (body : Bytes) (s : State) : State :=
  let a := m.account
  match meterOf s a with
  | none => s
  | some y =>
    if rd body 0 8 ≠ y.serial then identityMismatch m (rd body 0 8) y.serial s
    else
      let s := fwIdentity a (rd body 12 4) s
      let s := setMeter a (fun y => { y with
        model := rd body 8 4, fw := rd body 12 4, phases := rd body 16 1, capabilities := rd body 17 1
        queue := y.queue.filter (fun z => z.type != msgIdentify && z.type != msgNodeAssign) }) s
      answerRequest a 1 s

/-- A KEY_ACK: the link key's switch, or a group key acknowledged (R420, R421). -/
def takeKeyAck (m : InMsg) (body : Bytes) (s : State) : State :=
  let a := m.account
  let g := rd body 0 1
  let gen := rd body 1 1
  if g = 0xFF then
    match (meterOf s a).bind (·.keyChange) with
    | some (n, _) =>
      if gen = n then
        let s := setMeter a (fun y => { y with
          keyGen := n, keyChange := none, down := 0, up := 0
          queue := y.queue.filter (fun z => z.type != msgKeyChange) }) s
        answerRequest a 2 s
      else s
    | none => s
  else
    setMeter a (fun y => { y with
      groupKeys := (m.bridge, g, gen) :: y.groupKeys.filter (fun k => k.1 != m.bridge || k.2.1 != g)
      queue := y.queue.filter (fun z => z.type != msgGroupKey || rd z.body 0 1 != g) }) s

/-- KEY_CHANGE to the next generation: frames from the switch counter on use it. The switch lies 16 frames ahead, beyond the
message's eight sends (R420; DESIGN CHOICE log 26). -/
def startKeyChange (a : Nat) (request : Option Nat) (s : State) : State :=
  match meterOf s a with
  | none => s
  | some m =>
    if m.keyChange.isSome then s
    else
      let gen := (m.keyGen + 1) % 256
      let switch := m.down + 16
      let s := setMeter a (fun y => { y with keyChange := some (gen, switch) }) s
      queueMsg a { type := msgKeyChange, body := le 1 gen ++ zeros 3 ++ le 4 switch, level := 1, since := now s, request := request } s

/-- The link key of a meter for a counter (R420). -/
def linkHandle (m : Meter) (counter : Nat) : KeyHandle :=
  match m.keyChange with
  | some (g, switch) => if switch ≤ counter then .meterLink m.serial g else .meterLink m.serial m.keyGen
  | none => .meterLink m.serial m.keyGen

/-- The nonce of R379 and R403: network, source, destination, counter, type, two zero bytes. -/
def macNonce (network src dst counter type : Nat) : Bytes :=
  le 2 network ++ le 2 src ++ le 2 dst ++ le 4 counter ++ le 1 type ++ zeros 2

/-- The next send counter of an account's meter; a key change is started when a counter reaches 0xFF00_0000 (R408, R420). -/
def nextCounter (a : Nat) (s : State) : Nat × State :=
  match meterOf s a with
  | none => (0, s)
  | some m =>
    let s := setMeter a (fun y => { y with down := y.down + 1 }) s
    (m.down + 1, if 0xFF000000 ≤ m.down + 1 || 0xFF000000 ≤ m.up then startKeyChange a none s else s)

/-- Notes contact with a meter. -/
def noteContact (a : Nat) (s : State) : State := setMeter a (fun y => { y with lastContact := now s }) s

/-! ## Bindings (R410, R429) -/

/-- A binding or unbinding takes effect at its tick: an unbound meter's connection is ended with TERMINATE reason 1, its route
dropped (R409, R429). -/
def bindChange (c : Bool × Nat × Nat) (s : State) : State :=
  let (bind, serial, a) := c
  if bind then
    let k := Tab.getD s.mtr.kept a (0, 0, 0, 0)
    let same := k.1 = serial
    let m : Meter := { serial := serial, down := k.2.2.2, keyGen := if same then k.2.1 else 0, up := if same then k.2.2.1 else 0 }
    setMtr (fun t => { t with meters := Tab.put t.meters a { m with downSnap := m.down, upSnap := m.up, keyGenSnap := m.keyGen } }) s
  else
    match meterOf s a with
    | none => s
    | some m =>
      let r := committedAccount s a
      let s := match m.request with
        | some q => complete q.ref stNotReady 0 [] s
        | none => s
      let s := setConn r.bridge r.node (fun x =>
        if x.account ≠ a then x
        else if x.phase = .connected then { x with terminate := some 1, unbound := some (m.serial, m.keyGen, m.down) }
        else { x with phase := .unconnected }) s
      let s := match Tab.get s.stem.nets r.bridge with
        | some n => if r.radio then s else setStem (fun t => { t with nets := Tab.put t.nets r.bridge { n with
            nodes := Tab.upd n.nodes r.node {} (fun x => { x with phase := .unrouted, relays := [] }) } }) s
        | none => s
      setMtr (fun t => { t with meters := Tab.del t.meters a, kept := Tab.put t.kept a (m.serial, m.keyGen, m.up, m.down) }) s

/-- Bindings accepted, applied at the next tick; counters go to the topology snapshot once per round (R379, R422, R429). -/
def metersTick (s : State) : State :=
  let s := s.mtr.changes.foldl (fun s c => bindChange c s) (setMtr (fun t => { t with changes := [] }) s)
  if now s % 1024 = 0 then
    setMtr (fun t => { t with
      meters := t.meters.map (fun e => (e.1, { e.2 with downSnap := e.2.down, upSnap := e.2.up, keyGenSnap := e.2.keyGen }))
      groupSnap := t.groupCounter }) s
  else s

/-- Counters after a cold start or a takeover: the snapshot's plus 1,048,576 (R379, R422). -/
def resumeCounters (s : State) : State :=
  setMtr (fun t => { t with
    meters := t.meters.map (fun e => (e.1, { e.2 with down := e.2.downSnap + 1048576, up := e.2.upSnap, keyGen := e.2.keyGenSnap }))
    groupCounter := t.groupSnap.map (fun e => (e.1, e.2 + 1048576))
    kept := t.kept.map (fun e => (e.1, e.2.1, e.2.2.1, e.2.2.2.1, e.2.2.2.2 + 1048576)) }) s

/-! ## Meanings -/

/-- SEPAL runs: COMPUTE is up. -/
def sepalUp (s : State) : Bool := dataPathUp s

/-- SEPAL_READING (R414). -/
def execSepalReading (account : Nat) (s : State) : Result :=
  .next (if sepalUp s then onMessage account 0x81 takeReading s else s)
/-- SEPAL_CREDIT_ACK (R415). -/
def execSepalCreditAck (account : Nat) (s : State) : Result :=
  .next (if sepalUp s then onMessage account 0x82 takeCreditAck s else s)
/-- SEPAL_EVENT (R417, R419). -/
def execSepalEvent (account : Nat) (s : State) : Result :=
  .next (if sepalUp s then onMessage account 0x83 takeEvent s else s)
/-- SEPAL_EMERGENCY_REQ (R416). -/
def execSepalEmergencyReq (account : Nat) (s : State) : Result :=
  .next (if sepalUp s then onMessage account 0x85 takeEmergency s else s)
/-- SEPAL_IDENTITY (R409). -/
def execSepalIdentity (account : Nat) (s : State) : Result :=
  .next (if sepalUp s then onMessage account 0x86 takeIdentity s else s)
/-- SEPAL_KEY_ACK (R420, R421). -/
def execSepalKeyAck (account : Nat) (s : State) : Result :=
  .next (if sepalUp s then onMessage account 0x87 takeKeyAck s else s)

/-- SEPAL_SEND_GIVEUP (R413): eight sends without an answer; CREDIT is never given up. -/
def execSepalSendGiveup (account : Nat) (s : State) : Result :=
  .next (match (meterOf s account).bind (fun m => m.queue.find? (fun x => 8 ≤ x.sends && x.type != msgCredit)) with
    | some x => if sepalUp s then giveUp account x s else s
    | none => s)

/-- MTR_REQUEST_TIMEOUT (R431): no answer within 600 s. -/
def execMtrRequestTimeout (account : Nat) (s : State) : Result :=
  .next (match (meterOf s account).bind (·.request) with
    | some q =>
      let s := setMeter account (fun m => { m with request := none, queue := m.queue.filter (fun x => x.request != some q.ref) }) s
      complete q.ref stNotReady 0 [] s
    | none => s)

end Sys2Proof.Machine
end

