-- ==== Sys2Proof/Machine/PlcMac.lean ====
section
/-!
DEFINITION. Transmit plans and the power-line MAC: frames, transactions, routing, alerts, discovery, phase identification.
Chapter 11 of the spec (R374 to R388).
-/

namespace Sys2Proof.Machine

/-! ## Plans (R374, R375) -/

/-- L_b of a bridge (R374, R388, R401 of 12). -/
def leadTicks (s : State) (b : Nat) : Nat :=
  let x := bridgeAt s b
  if x.phase = .absent || x.config.kind ≠ 0 then 5
  else min 16 (5 + ceilDiv x.status.dlDelayMaxUs 1000 + 1)

/-- The transmit tick that is planned in the current tick: c + o + L_b (R365, R374). -/
def planTick (s : State) (b : Nat) : Nat := stemNow s + leadTicks s b

/-- The transmit permission of a bridge at a transmit tick: of the generation that will be active then (R375). -/
def permitAt (s : State) (b t : Nat) : TxPermit :=
  let active := Tab.getD s.stem.permits b {}
  s.gens.waiting.foldl (fun p g => match g.table with
    | .txPlan l => if g.tick ≤ t then Tab.getD l b {} else p
    | _ => p) active

/-- The power-line profile of a network that is active at a transmit tick (R394). -/
def profileAt (s : State) (b t : Nat) : PlcProfile :=
  let i := (bridgeAt s b).config.profile
  s.gens.waiting.foldl (fun p g => match g.table with
    | .plcProfile j q => if j = i && decide (g.tick ≤ t) then q else p
    | _ => p) (s.stem.profiles.getD i {})

/-- The module may build plans: it holds the field, the data path runs, no safe state is applied (R376). -/
def mayPlan (s : State) : Bool := dataPathUp s && drivesField s && !s.flt.safe

/-- A bridge takes power-line plans: ONLINE and time locked, its network's page whole (R205 of 07, R371, R372, R388). -/
def bridgeReady (s : State) (b : Nat) : Bool :=
  let x := bridgeAt s b
  x.phase == .online && (x.timeLocked || x.config.kind != 0) && decide ((Tab.getD s.stem.nets b {}).rebuiltAt ≤ s.time.uptime)

/-- Bytes of a plan entry (R363). -/
def planBytes (e : PlanEntry) : Bytes :=
  le 4 (e.first % 2 ^ 32) ++ le 2 e.offset ++ le 2 e.ticks ++ le 1 e.medium ++ le 1 e.atten ++ le 2 e.planId

/-- Adds a plan entry and sends it as a PLAN frame; a local transmitter takes it over the field link (R374, R388). -/
def sendPlan (b : Nat) (e : PlanEntry) (s : State) : State :=
  let x := bridgeAt s b
  let e := { e with planId := x.nextPlan }
  let s := setBridge b (fun y => { y with plans := y.plans ++ [e], nextPlan := (y.nextPlan + 1) % 65536 }) s
  if x.phase = .absent || x.config.kind ≠ 0 then
    setStem (fun t => { t with localTx := (b, e.first, e.frame) :: t.localTx }) s
  else sendDown b 0x82 0 (le 1 1 ++ zeros 3 ++ planBytes e) (stemNow s) s

/-- PLC_TX and the transmit side of RF_TRX: the TX frames of the transmit tick planned in this tick (R374). -/
def sendSamples (b : Nat) (radio : Bool) (s : State) : State :=
  let t := planTick s b
  let x := bridgeAt s b
  let due := x.plans.filter (fun e => decide (e.first ≤ t) && decide (t < e.first + e.ticks) && (e.medium == 8) == radio)
  let s := setBridge b (fun y => { y with plans := y.plans.filter (fun e => stemNow s < e.first + e.ticks + 64) }) s
  if x.phase = .absent || x.config.kind ≠ 0 then s
  else due.foldl (fun s e =>
    if radio then sendDown b 0x84 0 (pad 1600 (Config.rfSamples e.frame e.channel e.atten (t - e.first))) t s
    else
      let n := popcount e.medium 3
      sendDown b 0x83 e.medium (pad (500 * n) (((List.range n).map (fun _ =>
        pad 500 (Config.plcSamples e.frame e.channel (profileAt s b t).toneMask (t - e.first)))).flatten)) t s) s

/-- An armed transmit plan withdraws the entries already sent for ticks at or after its activation tick (R375). -/
def withdrawPlans (tick : Nat) (s : State) : State :=
  (admitted s).foldl (fun s b =>
    let late := fun (e : PlanEntry) => decide (tick < e.first + e.ticks)
    if (bridgeAt s b).plans.any late then
      setBridge b (fun y => { y with plans := y.plans.filter (fun e => !late e) }) (sendCancel b tick true false s)
    else s) s

/-! ## Frames (R377, R378) -/

/-- Coded bits that fit in one symbol with the carriers of a tone mask (R377). -/
def symbolBits (mod mask : Nat) : Nat :=
  let c := popcount mask 36
  match mod with
  | 0 => c / 4 | 1 => c | 2 => 2 * c | _ => 3 * c

/-- Duration in µs of a frame of `n` bytes (R377). -/
def plcAirtime (n mod mask : Nat) : Nat := (ceilDiv (((n + 16) * 8 + 6) * 2) (symbolBits mod mask) + 20) * 728

/-- Node address of the bridge, of broadcast, and of a meter without a node (R378, R410 of 12). -/
def addrBridge : Nat := 0x3FF
def addrAll : Nat := 0x3FE
def addrNone : Nat := 0x3FD

/-- Bytes of a relay entry (R378). -/
def relayBytes (r : Relay) : Bytes := le 2 (r.node + 1024 * r.on + 4096 * r.back)

/-- A relay entry read. -/
def relayOf (v : Nat) : Relay := { node := v % 1024, on := v / 1024 % 4, back := v / 4096 % 4 }

/-- The header of a MAC frame up to zc_lag_us (R378). -/
def plcHeader (type b dst src : Nat) (answerMod : Nat) (report : Bool) (relays : List Relay) (hop counter txid zc : Nat) : Bytes :=
  le 1 (type + 16 * report.toNat + 64 * answerMod) ++ le 2 b ++ le 2 dst ++ le 2 src ++ le 1 (relays.length + 16 * hop) ++
    relays.flatMap relayBytes ++ le 4 counter ++ le 1 txid ++ le 2 zc

/-- A protected MAC frame of the bridge (R379): the header with hop index 0 is authenticated, the payload encrypted. -/
def plcSeal (key header payload : Bytes) (b src dst counter type : Nat) : Bytes :=
  header ++ ccmSeal key 8 (macNonce b src dst counter type) header payload

/-- What a received MAC frame says (R378). -/
structure PlcFrame where
  type : Nat
  report : Bool
  network : Nat
  dst : Nat
  src : Nat
  relays : List Relay
  hop : Nat
  counter : Nat
  txid : Nat
  zcLag : Nat
  header : Bytes
  sealedPart : Bytes
  deriving DecidableEq, Repr

/-- Reads a MAC frame; none where it is malformed (R378). -/
def plcParse (f : Bytes) : Option PlcFrame :=
  let h := rd f 7 1 % 16
  let len := 15 + 2 * h
  if f.length < len + 8 || 8 < h || 5 < rd f 0 1 % 16 || (rd f 0 1).testBit 5 || 8192 ≤ rd f 1 2 then none
  else
    let hdr := f.take len
    some {
      type := rd f 0 1 % 16, report := (rd f 0 1).testBit 4, network := rd f 1 2, dst := rd f 3 2 % 1024, src := rd f 5 2 % 1024
      relays := (List.range h).map (fun i => relayOf (rd f (8 + 2 * i) 2)), hop := rd f 7 1 / 16
      counter := rd f (8 + 2 * h) 4, txid := rd f (12 + 2 * h) 1, zcLag := rd f (13 + 2 * h) 2
      header := hdr.take 7 ++ [BitVec.ofNat 8 h] ++ hdr.drop 8, sealedPart := f.drop len }

/-- Changes a power-line network. -/
def setNet (b : Nat) (f : PlcNet → PlcNet) (s : State) : State :=
  setStem (fun t => { t with nets := Tab.upd t.nets b {} f }) s

/-- A power-line network. -/
def netAt (s : State) (b : Nat) : PlcNet := Tab.getD s.stem.nets b {}

/-- A node of a network. -/
def nodeAt (s : State) (b n : Nat) : PlcNode := Tab.getD (netAt s b).nodes n {}

/-- Changes a node. -/
def setNode (b n : Nat) (f : PlcNode → PlcNode) (s : State) : State :=
  setNet b (fun x => { x with nodes := Tab.upd x.nodes n {} f }) s

/-! ## Links and routes (R385, R386) -/

/-- Key of a directed link. -/
def linkKey (from' to' : Nat) : Nat := 1024 * from' + to'

/-- The highest modulation, up to `top`, whose threshold the SNRs of the last 4 frames have met (R385). -/
def linkMod (l : PlcLink) (top : Nat) : Nat :=
  let ok := fun (q : Nat) => !l.snrs.isEmpty && (l.snrs.take 4).all (fun x => decide (q ≤ x))
  let m := if ok 36 then 3 else if ok 20 then 2 else if ok 8 then 1 else 0
  min m top

/-- Reference airtime in 0.1 ms (R385). -/
def referenceAirtime (mod : Nat) : Nat := match mod with
  | 0 => 2044 | 1 => 639 | 2 => 406 | _ => 326

/-- Cost of a link in 0.1 ms, rounded up (R385). -/
def linkCost (l : PlcLink) (top : Nat) : Nat := ceilDiv (referenceAirtime (linkMod l top) * l.den) l.num

/-- p := p + (x − p) ÷ 8, never below 0.05 (R385). -/
def linkTry (ok : Bool) (l : PlcLink) : PlcLink :=
  let n := 7 * l.num + (if ok then l.den else 0)
  let d := 8 * l.den
  if 20 * n < d then { l with num := 1, den := 20 } else { l with num := n, den := d }

/-- An SNR in 0.25 dB on a link; a link first heard of starts at p = 0.5 (R385). -/
def noteSnr (b from' to' snr : Nat) (s : State) : State :=
  setNet b (fun x => { x with links := Tab.upd x.links (linkKey from' to') {} (fun l => { l with snrs := (snr :: l.snrs).take 4 }) }) s

/-- Routes found so far: by node, cost and the nodes crossed, nearest the bridge first. -/
abbrev Reach := Table (Nat × List Nat)

/-- One more hop over every link that is not avoided (R386). -/
def widenReach (x : PlcNet) (top : Nat) (avoid : List Nat) (known : Reach) : Reach :=
  x.links.foldl (fun acc e =>
    let from' := e.1 / 1024
    let to' := e.1 % 1024
    let base : Option (Nat × List Nat) :=
      if from' = addrBridge then some (0, []) else (Tab.get known from').map (fun r => (r.1, r.2 ++ [from']))
    match base with
    | none => acc
    | some (c, path) =>
      let cost := c + linkCost e.2 top
      if to' = addrBridge || 511 < to' || avoid.contains e.1 || path.contains to' then acc
      else match Tab.get acc to' with
        | some r => if cost < r.1 then Tab.put acc to' (cost, path) else acc
        | none => Tab.put acc to' (cost, path)) known

/-- Least-cost routes from the bridge over at most `hops` relays (R386). -/
def reachable (x : PlcNet) (top : Nat) (avoid : List Nat) : Nat → Reach
  | 0 => widenReach x top avoid []
  | h + 1 => widenReach x top avoid (reachable x top avoid h)

/-- The links of a path from the bridge to a node. -/
def pathLinks (path : List Nat) (node : Nat) : List (Nat × Nat) :=
  List.zip (addrBridge :: path) (path ++ [node])

/-- Relay entries of a path (R378): the modulation onward and back of each relay. -/
def relaysOf (x : PlcNet) (top : Nat) (path : List Nat) (node : Nat) : List Relay :=
  let m := fun (a b : Nat) => linkMod (Tab.getD x.links (linkKey a b) {}) top
  (List.range path.length).map (fun i =>
    let r := path.getD i 0
    let next := (path ++ [node]).getD (i + 1) node
    let prev := (addrBridge :: path).getD i addrBridge
    { node := r, on := m r next, back := m r prev })

/-- Hops of a route as PLC_ROUTE reports them: 0xFF without one. -/
def hopsCode (n : PlcNode) : Nat := if n.phase = .routed then n.relays.length else 0xFF

/-- PLC_ROUTE (R389). -/
def routeEvent (b node : Nat) (old new : PlcNode) (s : State) : State :=
  raiseEvent 0x0802 b true (le 2 node ++ le 1 (hopsCode new) ++ le 1 (hopsCode old) ++ le 4 new.cost ++ le 4 old.cost ++ zeros 4) s

/-- ROUTE_SOLVE for one node: the new route replaces the current one at 0.8 of its cost, or where a link's p is below 0.2
(R386). -/
def solveNode (b top : Nat) (found : Reach) (node : Nat) (s : State) : State :=
  let x := netAt s b
  let old := nodeAt s b node
  let path := old.relays.map (·.node)
  let links := (pathLinks path node).map (fun l => Tab.getD x.links (linkKey l.1 l.2) {})
  let cost := (links.map (fun l => linkCost l top)).foldl (· + ·) 0
  let weak := links.any (fun l => decide (5 * l.num < l.den))
  let new : PlcNode := match Tab.get found node with
    | none => { old with phase := .unreachable, relays := [], cost := 0 }
    | some (c, p) =>
      if old.phase ≠ .routed || 10 * c ≤ 8 * cost || weak then
        { old with phase := .routed, relays := relaysOf x top p node, cost := c }
      else { old with cost := cost }
  let s := setNode b node (fun _ => new) s
  if (old.phase != new.phase || old.relays.map (·.node) != new.relays.map (·.node)) && !(old.phase == .unrouted && new.phase == .unreachable) then
    routeEvent b node old new s
  else s

/-- ROUTE_SOLVE on one network (R386). -/
def runRoutes (b : Nat) (s : State) : State :=
  let p := s.stem.profiles.getD (bridgeAt s b).config.profile {}
  let found := reachable (netAt s b) p.modMax [] p.maxHops
  let nodes := ((netAt s b).nodes.filter (fun e => e.2.phase != .unrouted || (Tab.get found e.1).isSome)).map (·.1)
  nodes.foldl (fun s n => solveNode b p.modMax found n s) s

/-! ## Phase identification (R387) -/

/-- The phase an observation names, from θ = 360° × d ÷ T for each phase, against the latest crossing that is not after Z and the period
before it (R387): none if none, or if excluded. -/
def namedPhase (x : Bridge) (z : Int) : Option Nat :=
  let offs := (List.range 3).map (fun p =>
    match (x.crossings.getD p []).dropWhile (fun (c : Nat) => decide (z < (c : Int))) with
    | a :: b :: _ => if b < a then
        let t : Int := (a : Int) - b
        let d := (z - a) % t
        some (t, if t < 2 * d then d - t else d)
      else none
    | _ => none)
  if offs.any (·.isNone) then none
  else
    let l := offs.filterMap id
    let near := (List.range 3).filter (fun p => let o := l.getD p (1, 1); 12 * o.2.natAbs ≤ o.1.natAbs)
    match near with
    | [p] => if (List.range 3).all (fun q => q == p || (let o := l.getD q (1, 1); decide (o.1.natAbs < 6 * o.2.natAbs))) then some p else none
    | _ => none

/-- One observation of a node (R387); none is taken from a bridge that is not time locked or without a phase's voltage. -/
def observe (b node : Nat) (startUs zcLag : Nat) (s : State) : State :=
  let x := bridgeAt s b
  if (!x.timeLocked && x.config.kind = 0) || x.crossings.any (fun l => l.length < 2) || 20000 < zcLag then s
  else
    let v := namedPhase x ((startUs : Int) - zcLag)
    setNode b node (fun n => { n with observed := (v :: n.observed).take 10 }) s

/-- PHASE_ID on one network (R387): 8 of the last 10 observations; a meter declared three-phase is three-phase. -/
def runPhases (b : Nat) (s : State) : State :=
  (netAt s b).nodes.foldl (fun s e =>
    let n := e.2
    let three : Bool := match accountAtNode s b e.1 false with
      | some a => ((meterOf s a).map (·.phases)).getD 0 == 3
      | none => false
    let found : Option Nat := match three with
      | true => some 3
      | false => (List.range 3).find? (fun p => decide (8 ≤ n.observed.countP (fun o => o == some p)))
    match found with
    | some p =>
      if n.ident = some p then s
      else
        let s := setNode b e.1 (fun x => { x with ident := some p }) s
        raiseEvent 0x0803 b true (le 2 e.1 ++ le 1 p ++ le 1 (n.ident.getD 0xFF) ++ zeros 12) s
    | none => s) s

/-! ## MAC_POLL (R381 to R384) -/

/-- Phases a node's frames are sent on: its identified phase, or all of them (log 26). -/
def nodePhases (s : State) (b n : Nat) : Nat :=
  match (nodeAt s b n).ident with
  | some 0 => 1 | some 1 => 2 | some 2 => 4 | _ => 7

/-- Phases a route touches (R381). -/
def routePhases (s : State) (b : Nat) (path : List Nat) (node : Nat) : Nat :=
  (path ++ [node]).foldl (fun m n => m ||| nodePhases s b n) 0

/-- Bytes of the Sepal message that answers a type (*Sepal messages* of 12): what a transaction is planned for. -/
def answerLength (type : Nat) (body : Bytes) : Nat :=
  match type with
  | 0x01 => 40 + 8 * rd body 8 1
  | 0x02 => 20
  | 0x05 => 40
  | 0x0C => 40
  | 0x06 => 8
  | 0x07 => 8
  | 0x08 => 76
  | 0x0A => 76
  | 0x0B => 76
  | _ => 20

/-- Duration in µs of a transaction (R381): the bridge frame and its relays, the answer and its relays, each 2 ms after the
one before, and a closing gap of 2 ms. -/
def transactionUs (mask : Nat) (first : Nat) (relays : List Relay) (answerMod down up : Nat) : Nat :=
  let out := plcAirtime down first mask + (relays.map (fun r => 2000 + plcAirtime down r.on mask)).foldl (· + ·) 0
  let back := 2000 + plcAirtime up answerMod mask + (relays.map (fun r => 2000 + plcAirtime up r.back mask)).foldl (· + ·) 0
  out + back + 2000

/-- An alert window of a channel touches the ticks from `t` over `n` ticks (R383). -/
def alertWindow (p : PlcProfile) (b t n : Nat) : Bool :=
  let start := (b * 37) % 1024
  let len := 32 * p.alertSlots
  let at' := (t + 1024 - start) % 1024
  p.alertSlots != 0 && (decide (at' < len) || decide (1024 < at' + n))

/-- One piece of work: level, since when, account, whether it is a bare contact poll (R382). -/
structure PollWork where
  level : Nat
  since : Nat
  account : Nat
  type : Nat
  retries : Nat
  avoid : List Nat := []

/-- The work of an account's meter on a network, if it has any (R382). -/
def workOf (s : State) (b : Nat) (p : PlcProfile) (a : Nat) : Option PollWork :=
  let r := committedAccount s a
  let n := nodeAt s b r.node
  match meterOf s a with
  | none => none
  | some m =>
    if n.phase ≠ .routed || (netAt s b).transactions.any (fun t => t.account == some a) then none
    else
      match (netAt s b).retry.find? (fun x => x.1 == a) with
      | some x => some { level := 1, since := 0, account := a, type := 0, retries := x.2.1, avoid := x.2.2 }
      | none =>
        let queued := nextMsg m
        let contact := max n.lastContact n.lastTried
        let read := max m.lastRead n.lastTried
        match queued with
        | some x => if x.level = 1 then some { level := 1, since := x.since, account := a, type := x.type, retries := p.retries }
          else if n.alerted.isSome then some { level := 2, since := n.alerted.getD 0, account := a, type := 0, retries := p.retries }
          else if contact + 1000 * p.contactPeriodS ≤ now s then
            some { level := 2, since := contact, account := a, type := 0, retries := p.retries }
          else if read + 1000 * p.readPeriodS ≤ now s then
            some { level := 3, since := read, account := a, type := msgReadReq, retries := p.retries }
          else some { level := x.level, since := x.since, account := a, type := x.type, retries := p.retries }
        | none =>
          if n.alerted.isSome then some { level := 2, since := n.alerted.getD 0, account := a, type := msgReadReq, retries := p.retries }
          else if contact + 1000 * p.contactPeriodS ≤ now s then
            some { level := 2, since := contact, account := a, type := msgReadReq, retries := p.retries }
          else if read + 1000 * p.readPeriodS ≤ now s then
            some { level := 3, since := read, account := a, type := msgReadReq, retries := p.retries }
          else none

/-- The work of a network in order: level, then oldest first (R382). -/
def workList (s : State) (b : Nat) (p : PlcProfile) : List PollWork :=
  ((accountsOn s b false).filterMap (workOf s b p)).mergeSort (fun x y =>
    x.level < y.level || (x.level == y.level && x.since ≤ y.since))

/-- Every phase of a mask is free at a tick, for `n` ticks clear of the alert window, and permitted. -/
def channelsFree (s : State) (b phases t n : Nat) : Bool :=
  let x := netAt s b
  let p := profileAt s b t
  phases != 0 && (phases &&& (permitAt s b t).media) == phases &&
    (List.range 3).all (fun i => !phases.testBit i || decide (x.free.getD i 0 ≤ t)) && !alertWindow p b t n

/-- Occupies the phases of a transaction and counts it (R381, R395). -/
def occupy (b phases t us : Nat) (s : State) : State :=
  setNet b (fun x => { x with
    free := (List.range 3).map (fun i => if phases.testBit i then t + ceilDiv us 1000 else x.free.getD i 0)
    air := (List.range 3).map (fun i => x.air.getD i 0 + (if phases.testBit i then us else 0))
    count := (List.range 3).map (fun i => x.count.getD i 0 + (if phases.testBit i then 1 else 0)) }) s

/-- Attenuation of an entry: the greatest minimum of its phases (R375). -/
def planAtten (p : TxPermit) (phases : Nat) : Nat :=
  (List.range 3).foldl (fun m i => if phases.testBit i then max m (p.minAtten.getD i 0) else m) 0

/-- Builds a transaction to an account's meter over a path: the frame, its plan, the channel occupied (R374, R381). -/
def buildPoll (b a dst : Nat) (path : List Nat) (retries : Nat) (avoid : List Nat) (msg : Option (OutMsg × Bytes)) (s : State) : State :=
  match meterOf s a with
  | none => s
  | some m =>
    let t := planTick s b
    let x := netAt s b
    let p := profileAt s b t
    let node := (committedAccount s a).node
    let relays := relaysOf x p.modMax path node
    let hop1 := path.head?.getD node
    let last := path.getLast?.getD addrBridge
    let first := linkMod (Tab.getD x.links (linkKey addrBridge hop1) {}) p.modMax
    let ans := linkMod (Tab.getD x.links (linkKey node last) {}) p.modMax
    let payload := (msg.map (·.2)).getD []
    let type := (msg.map (fun y => y.1.type)).getD 0
    let c := nextCounter a s
    let k := keyFor 0 (linkHandle m c.1) c.2
    match k.1 with
    | none => k.2
    | some key =>
      let head := plcHeader 0 b dst addrBridge ans false relays 0 c.1 x.nextTx 0xFFFF
      let frame := plcSeal key head payload b addrBridge dst c.1 0
      let down := frame.length
      let up := 15 + 2 * relays.length + answerLength type (payload.drop 4) + 8
      let us := transactionUs p.toneMask first relays ans down up
      let phases := routePhases k.2 b path node
      let s := setNet b (fun y => { y with
        nextTx := (y.nextTx + 1) % 256
        retry := y.retry.filter (fun r => r.1 != a)
        transactions := y.transactions ++ [{
          txid := y.nextTx, node := node, account := some a, phases := phases, relays := relays, first := t, durationUs := us
          frame := frame, retriesLeft := retries, ref := (msg.map (fun y => y.1.ref)).getD 0, answerMod := ans, avoid := avoid }] }) k.2
      let s := setNode b node (fun n => { n with lastTried := now s, alerted := none }) s
      sendPlan b { first := t, offset := 0, ticks := ceilDiv (plcAirtime down first p.toneMask) 1000, medium := phases
                   atten := planAtten (permitAt s b t) phases, planId := 0, frame := frame, channel := first } (occupy b phases t us s)

/-- Length bound of a transaction in ticks, for the check against the alert window. -/
def pollTicks (s : State) (b : Nat) (path : List Nat) (node : Nat) : Nat :=
  let t := planTick s b
  let p := profileAt s b t
  let x := netAt s b
  let relays := relaysOf x p.modMax path node
  let hop1 := path.head?.getD node
  let last := path.getLast?.getD addrBridge
  ceilDiv (transactionUs p.toneMask (linkMod (Tab.getD x.links (linkKey addrBridge hop1) {}) p.modMax) relays
    (linkMod (Tab.getD x.links (linkKey node last) {}) p.modMax) 123 (123 + 12)) 1000

/-- Plans one piece of work where its channels are free: a queued message, or a READ_REQ (R382). -/
def planWork (b : Nat) (w : PollWork) (s : State) : State :=
  let r := committedAccount s w.account
  let p := s.stem.profiles.getD (bridgeAt s b).config.profile {}
  let n := nodeAt s b r.node
  let own := n.relays.map (·.node)
  let path := if w.avoid.isEmpty then own else
    match Tab.get (reachable (netAt s b) p.modMax w.avoid p.maxHops) r.node with
    | some x => x.2
    | none => own
  let t := planTick s b
  if !channelsFree s b (routePhases s b path r.node) t (pollTicks s b path r.node) then s
  else
    let waits := ((meterOf s w.account).bind nextMsg).isSome
    let s := if !waits || w.type = msgReadReq then
        (if waits && w.level = 1 then s
         else queueMsg w.account { type := msgReadReq, body := [], level := w.level, since := w.since } s)
      else s
    let m := takeMsg w.account t s
    buildPoll b w.account r.node path w.retries w.avoid m.1 m.2

/-- NODE_ASSIGN to a meter whose DISCOVER_REPLY was heard through a node (R410 of 12). -/
def planAssign (b : Nat) (reply : Nat × Nat) (s : State) : State :=
  match accountOfSerial s reply.1 with
  | none => setNet b (fun x => { x with replies := x.replies.filter (fun y => y != reply) }) s
  | some a =>
    let node := (committedAccount s a).node
    let path := if reply.2 = addrBridge then [] else (nodeAt s b reply.2).relays.map (·.node) ++ [reply.2]
    let t := planTick s b
    if !channelsFree s b (routePhases s b path node) t (pollTicks s b path node) then s
    else
      let s := setNet b (fun x => { x with replies := x.replies.filter (fun y => y != reply) }) s
      let s := queueMsg a { type := msgNodeAssign, body := le 8 reply.1 ++ le 2 node ++ zeros 2, level := 0, since := now s } s
      let m := takeMsg a t s
      let from' := path.getLast?.getD addrBridge
      let s := setNet b (fun x => { x with links := Tab.upd x.links (linkKey from' node) {} id }) m.2
      let s := setNode b node (fun n => { n with relays := relaysOf (netAt s b) (profileAt s b t).modMax path node }) s
      buildPoll b a addrNone path (profileAt s b t).retries [] m.1 s

/-- Key of a network's DISCOVER counter among the group counters, above those of every group. -/
def discoverCounter (b : Nat) : Nat := 64 * 8192 + b

/-- A DISCOVER through one route: broadcast in DBPSK, then 16 slots of 34 ms (R384). The spec names no key for it; its MIC
is a free value. -/
def planDiscover (b : Nat) (through : Option Nat) (s : State) : State :=
  let t := planTick s b
  let p := profileAt s b t
  let path := match through with
    | some n => (nodeAt s b n).relays.map (·.node) ++ [n]
    | none => []
  let x := netAt s b
  let relays := (relaysOf x p.modMax path addrAll).map (fun r => { r with on := 1 })
  let d := drawBytes 32 8 s
  let c := Tab.getD s.mtr.groupCounter (discoverCounter b) 0 + 1
  let frame := plcHeader 3 b addrAll addrBridge 1 false relays 0 c x.nextTx 0xFFFF ++ le 1 16 ++ zeros 1 ++ le 2 34 ++ d.1
  let us := plcAirtime frame.length 1 p.toneMask * (relays.length + 1) + 2000 * relays.length + 16 * 34000 + 2000
  let phases := if path.isEmpty then (permitAt s b t).media % 8 else routePhases s b path (path.getLast?.getD 0)
  if !channelsFree s b phases t (ceilDiv us 1000) then s
  else
    let s := setMtr (fun m => { m with groupCounter := Tab.put m.groupCounter (discoverCounter b) c }) d.2
    let s := setNet b (fun y => { y with
      nextTx := (y.nextTx + 1) % 256, discoverQueue := y.discoverQueue.erase through, discovering := some (t + ceilDiv us 1000) }) s
    sendPlan b { first := t, offset := 0, ticks := ceilDiv (plcAirtime frame.length 1 p.toneMask) 1000, medium := phases
                 atten := planAtten (permitAt s b t) phases, planId := 0, frame := frame, channel := 1 } (occupy b phases t us s)

/-- MAC_POLL on one network (R381, R382): the first work whose channels are free, for each channel; work level 4 last. -/
def runPoll (b : Nat) (s : State) : State :=
  let x := bridgeAt s b
  if !mayPlan s || !bridgeReady s b || !x.config.streams.testBit 0 then s
  else
    let p := s.stem.profiles.getD x.config.profile {}
    let s := (netAt s b).replies.foldl (fun s r => planAssign b r s) s
    let s := (workList s b p).foldl (fun s w => planWork b w s) s
    (netAt s b).discoverQueue.foldl (fun s t => planDiscover b t s) s

/-! ## Reception (R379, R381, R383, R385) -/

/-- A frame of a bridge whose samples overlap a skipped hole counts as not received (R367). -/
def overlapsHole (s : State) (b k startUs durUs : Nat) : Bool :=
  ((bridgeAt s b).stream (k + 1)).holes.any (fun h => h.skipped && decide (startUs / 1000 ≤ h.tick) && decide (h.tick ≤ (startUs + durUs) / 1000))

/-- Links a transaction crosses, in order: out along the relays, and back (R385). -/
def transactionLinks (t : Transaction) : List (Nat × Nat) :=
  let out := pathLinks (t.relays.map (·.node)) t.node
  out ++ (out.map (fun l => (l.2, l.1))).reverse

/-- Updates success ratios: `ok` links succeeded, the next one failed where there is one (R385). -/
def creditLinks (b : Nat) (links : List (Nat × Nat)) (ok : Nat) (s : State) : State :=
  (List.range links.length).foldl (fun s i =>
    let l := links.getD i (0, 0)
    if i < ok then setNet b (fun x => { x with links := Tab.upd x.links (linkKey l.1 l.2) {} (linkTry true) }) s
    else if i = ok then setNet b (fun x => { x with links := Tab.upd x.links (linkKey l.1 l.2) {} (linkTry false) }) s
    else s) s

/-- The link report of a frame: SNRs on the links into its sender, and alerts heard (R378, R383, R385). -/
def takeReport (b src : Nat) (r : Bytes) (s : State) : State :=
  (List.range 4).foldl (fun s i =>
    let v := rd r (3 * i) 2
    let node := v % 1024
    let kind := v / 1024 % 16
    if node = 0 && rd r (3 * i + 2) 1 = 0 then s
    else
      let s := noteSnr b node src (rd r (3 * i + 2) 1) s
      if kind = 0 || 511 < node then s else setNode b node (fun n => { n with alerted := some (n.alerted.getD (now s)) }) s) s

/-- A frame from a meter whose MIC verifies: counters, contact, links, phase (R379, R385, R387). Answers the payload. -/
def openPlc (b a : Nat) (f : PlcFrame) (s : State) : Option Bytes × State :=
  match meterOf s a with
  | none => (none, s)
  | some m =>
    let k := keyFor 0 (linkHandle m f.counter) s
    match k.1 with
    | none => (none, k.2)
    | some key =>
      match ccmOpen key 8 (macNonce b f.src f.dst f.counter f.type) f.header f.sealedPart with
      | none => (none, k.2)
      | some p => if f.counter ≤ m.up then (none, k.2) else (some p, setMeter a (fun y => { y with up := f.counter }) k.2)

/-- Evidence of a received meter frame: the SNR on the last link, the link report, the phase observation (R385, R387). -/
def frameEvidence (b : Nat) (f : PlcFrame) (node startUs snr : Nat) (payload : Bytes) (s : State) : Bytes × State :=
  let heard := if f.hop = 0 then node else (f.relays.getD (f.hop - 1) { node := node, on := 0, back := 0 }).node
  let s := noteSnr b heard addrBridge snr s
  let s := if f.hop = 0 then setNode b node (fun n => { n with snr := some snr }) s else s
  let n := payload.length - 12
  let s := if f.report && 12 ≤ payload.length then takeReport b node (payload.drop n) s else s
  (if f.report && 12 ≤ payload.length then payload.take n else payload, observe b node startUs f.zcLag s)

/-- A meter frame's start: measured where the bridge heard it, else predicted back along its relays (R380, R387): each
relay started 2,000 µs after the last symbol it received. -/
def senderStart (p : PlcProfile) (f : PlcFrame) (len startUs mod answerMod : Nat) : Nat :=
  let air := fun (i : Nat) => if i = 0 then plcAirtime len answerMod p.toneMask
    else plcAirtime len ((f.relays.getD (i - 1) { node := 0, on := 0, back := mod }).back) p.toneMask
  startUs - ((List.range f.hop).map (fun i => air i + 2000)).foldl (· + ·) 0

/-- The network's bridge hears: it is ONLINE or SILENT (R373). -/
def netHears (s : State) (b : Nat) : Bool :=
  dataPathUp s && ((bridgeAt s b).phase == .online || (bridgeAt s b).phase == .silent)

/-- A RESPONSE (R381, R385, R387): with a valid MIC its transaction succeeds. -/
def plcResponse (b startUs mod snr : Nat) (bytes : Bytes) (s : State) : State :=
  let p := s.stem.profiles.getD (bridgeAt s b).config.profile {}
  if !netHears s b || overlapsHole s b 0 startUs (plcAirtime bytes.length mod p.toneMask) then s
  else
    match plcParse bytes with
    | none => s
    | some f =>
      if f.type ≠ 1 || f.network ≠ b || f.dst ≠ addrBridge || 8 < f.hop then s
      else
        let t := (netAt s b).transactions.find? (fun t => t.txid == f.txid && (t.node == f.src || f.src == addrNone))
        let account := match t with
          | some t => t.account
          | none => accountAtNode s b f.src false
        match account with
        | none => s
        | some a =>
          match openPlc b a f s with
          | (none, s) => s
          | (some payload, s) =>
            let node := (committedAccount s a).node
            let ansMod := match t with
              | some t => t.answerMod
              | none => mod
            let e := frameEvidence b f node (senderStart p f bytes.length startUs mod ansMod) snr payload s
            let s := noteContact a e.2
            let s := setNode b node (fun n => { n with
              lastContact := now s, phase := if n.phase = .routed then n.phase else .routed }) s
            let s := match t with
              | some t =>
                let links := transactionLinks t
                let s := if t.account = some a && f.src == addrNone then queueCredit a s else s
                let s := creditLinks b links links.length s
                setNet b (fun x => { x with transactions := x.transactions.filter (fun y => y != t) }) s
              | none => s
            sepalArrive b a false e.1 s

/-- An ALERT (R383, R418 of 12): its event is taken, and the meter is polled as level-2 work. -/
def plcAlert (b startUs mod snr : Nat) (bytes : Bytes) (s : State) : State :=
  let p := s.stem.profiles.getD (bridgeAt s b).config.profile {}
  if !netHears s b || overlapsHole s b 0 startUs (plcAirtime bytes.length mod p.toneMask) then s
  else
    match plcParse bytes with
    | none => s
    | some f =>
      if f.type ≠ 2 || f.network ≠ b || 8 < f.hop then s
      else
        match accountAtNode s b f.src false with
        | none => s
        | some a =>
          match openPlc b a f s with
          | (none, s) => s
          | (some payload, s) =>
            let e := frameEvidence b f f.src startUs snr payload s
            let s := setNode b f.src (fun n => { n with alerted := some (n.alerted.getD (now s)) }) e.2
            takeAlert b a false e.1 (setNet b (fun x => { x with alerts := x.alerts + 1 }) s)

/-- A DISCOVER_REPLY (R384): a meter bound to an account of this network gets NODE_ASSIGN, an unknown one is reported and given
no node. `through` is the node that heard it, or the bridge's address. -/
def plcReply (b serial through : Nat) (s : State) : State :=
  if !netHears s b then s
  else
    match accountOfSerial s serial with
    | none =>
      let s := setNet b (fun x => { x with unknownMeters := cap 0xFFFFFFFF (x.unknownMeters + 1) }) s
      raiseEvent 0x0804 b true (le 8 serial ++ le 2 through ++ zeros 6) s
    | some a =>
      let r := committedAccount s a
      if r.bridge ≠ b || r.radio then s
      else setNet b (fun x => { x with replies := x.replies.filter (fun y => y.1 != serial) ++ [(serial, through)] }) s

/-- A transaction has no valid answer (R381, R385): counted, its links tried up to the last one heard, retried on the best other
route. Transactions that overlap a hole or a SILENT period are not counted against links. -/
def plcFail (b txid heard : Nat) (s : State) : State :=
  match (netAt s b).transactions.find? (fun t => t.txid == txid) with
  | none => s
  | some t =>
    let links := transactionLinks t
    let excused := (bridgeAt s b).phase == .silent || overlapsHole s b 0 (1000 * t.first) t.durationUs
    let s := if excused then s else creditLinks b links (min heard links.length) s
    let bad := (links.drop heard).head?.map (fun l => linkKey l.1 l.2)
    setNet b (fun x => { x with
      transactions := x.transactions.filter (fun y => y != t)
      failed := (List.range 3).map (fun i => x.failed.getD i 0 + (if t.phases.testBit i then 1 else 0))
      retry := match t.account with
        | some a => if 0 < t.retriesLeft then x.retry ++ [(a, t.retriesLeft - 1, bad.toList ++ t.avoid)] else x.retry
        | none => x.retry }) s

/-- Meters of a network without a route whose account is ACTIVE or CLOSED (R384). -/
def unrouted (s : State) (b : Nat) : List Nat :=
  (accountsOn s b false).filter (fun a => (nodeAt s b (committedAccount s a).node).phase != .routed)

/-- A discovery period has passed (R384): DISCOVER by the bridge, then through each routed meter in turn. -/
def startDiscovery (b : Nat) (s : State) : State :=
  if !netHears s b || (unrouted s b).isEmpty then s
  else
    let routed := ((netAt s b).nodes.filter (fun e => e.2.phase == .routed)).map (fun e => some e.1)
    setNet b (fun x => { x with lastDiscover := now s, discoverQueue := none :: routed }) s

/-- The counts of a round become those of the previous round. -/
def plcRound (s : State) : State :=
  if now s % 1024 ≠ 0 then s
  else setStem (fun t => { t with nets := t.nets.map (fun e => (e.1, { e.2 with
    airPrev := e.2.air, countPrev := e.2.count, failedPrev := e.2.failed, alertsPrev := e.2.alerts
    air := [0, 0, 0], count := [0, 0, 0], failed := [0, 0, 0], alerts := 0 })) }) s

/-! ## Meanings -/

/-- PLC_RESPONSE_RX (R381): an answer demodulated, with the start and SNR the bridge's samples show. -/
def execPlcResponseRx (bridge startUs modulation snr : Nat) (frame : Bytes) (s : State) : Result :=
  .next (plcResponse bridge startUs modulation snr frame s)
/-- PLC_ALERT_RX (R383). -/
def execPlcAlertRx (bridge startUs modulation snr : Nat) (frame : Bytes) (s : State) : Result :=
  .next (plcAlert bridge startUs modulation snr frame s)
/-- PLC_DISCOVER_REPLY_RX (R384). -/
def execPlcDiscoverReplyRx (bridge serial through : Nat) (s : State) : Result := .next (plcReply bridge serial through s)
/-- PLC_TRANSACTION_FAIL (R381, R385): `heard` links of the transaction were crossed. -/
def execPlcTransactionFail (bridge txid heard : Nat) (s : State) : Result :=
  .next (if dataPathUp s then plcFail bridge txid heard s else s)
/-- DISCOVER_PERIOD (R384). -/
def execDiscoverPeriod (bridge : Nat) (s : State) : Result := .next (startDiscovery bridge s)

end Sys2Proof.Machine
end

