-- ==== Sys2Proof/Machine/LvMeter.lean ====
section
/-!
DEFINITION. LV_METER: what the LV samples of a bridge give, and the accumulators of balance. Chapters 11 (R368, R388) and 10
(R334, R335) of the spec.
-/

namespace Sys2Proof.Machine

/-- Changes the balance state. -/
def setBal (f : BalanceState → BalanceState) (s : State) : State := { s with bal := f s.bal }

/-- Changes the balance state of a network. -/
def setNetBal (b : Nat) (f : NetBalance → NetBalance) (s : State) : State :=
  setBal (fun x => { x with nets := Tab.upd x.nets b {} f }) s

/-- The balance state of a network. -/
def netBal (s : State) (b : Nat) : NetBalance := Tab.getD s.bal.nets b {}

/-! ## Windows (R334) -/

/-- Sequence of the 15-minute window of a Gliris time, counted from 2020-01-01 00:00 UTC (R350). -/
def windowSeq (s : State) (t : Nat) : Nat := (utcMs (effectiveCivil s) t / 900000).toNat

/-- Gliris time of the first label of a 15-minute window. -/
def windowStart (s : State) (seq : Nat) : Nat :=
  let c := effectiveCivil s
  900000 * seq + 1000 * taiUtc c (900000 * seq + 1000 * c.utcOffsetS)

/-- Labels of a 15-minute window: its Gliris times, less those a step left out, more those it repeated (R334). -/
def windowLabels (s : State) (seq : Nat) : Nat :=
  ((windowStart s (seq + 1) : Int) - windowStart s seq + Tab.getD s.bal.labelAdjust seq 0).toNat

/-- A window holds more or fewer labels than 900,000 (R334). -/
def windowIrregular (s : State) (seq : Nat) : Bool :=
  windowLabels s seq != 900000 || (Tab.get s.bal.labelAdjust seq).isSome

/-! ## One tick of LV metering (R368) -/

/-- What one tick of LV metering gives: by phase the energy, the mean squares of the currents L1 to L3 and N, the RMS voltages in
mV, and the positive-going zero crossings in µs of Gliris time. -/
structure LvTick where
  tick : Nat
  energy : List Int
  squares : List Nat
  volts : List Nat
  crossings : List (List Nat)

/-- Sample j of an LV channel in a payload. -/
def lvSample (lv : Bytes) (c j : Nat) : Int := rdS lv (24 * c + 3 * j) 3

/-- The eight delayed samples of a channel, with the last one of the tick before in front: by the fractional-delay filter of the
metrology chain over the samples before and in the tick (R368 step 2). -/
def lvChannel (before lv : Bytes) (c : Nat) (delay : Int) : List Int :=
  let raw := (List.range 8).map (lvSample before c) ++ (List.range 8).map (lvSample lv c)
  let out := if delay = 0 then raw else Config.delayFilter raw delay
  (out.drop (out.length - 9)).take 9

/-- Positive-going zero crossings of a voltage in µs, by linear interpolation, to 1 µs (R368). Sample 0 lies 125 µs before `t0`. -/
def crossingsOf (t0 : Nat) : Nat → List Int → List Nat
  | k, a :: b :: rest =>
    if a < 0 && 0 ≤ b then ((t0 : Int) + 125 * ((k : Int) - 1) + roundHalfAway (-125 * a) (b - a).toNat).toNat :: crossingsOf t0 (k + 1) (b :: rest)
    else crossingsOf t0 (k + 1) (b :: rest)
  | _, _ => []

/-- The factor that takes a product of raw remote values to numerators over `whDen`, and one that takes squares to numerators over
`powerDen`. -/
def lvEnergyFactor : Nat := 4 * (sampleUnit * sampleUnit)
def lvSquareFactor : Nat := 4 * (sampleUnit * sampleUnit)

/-- A sample tick of a remote bridge (R368). E_p = Σ v i × 125 µs in µWh is Σ raw products × fs_v fs_i ÷ 1.8432 × 10^21. -/
def remoteTick (x : Bridge) (t : Nat) : LvTick :=
  let buf := bufferFor x t
  let before := match Tab.get x.buffers ((t + 255) % 256) with
    | some y => if y.sampleTick + 1 = t then y.lv else []
    | none => []
  let cal := fun (c : Nat) => x.lvCal.getD c (1, 0)
  let chan := fun (c : Nat) => lvChannel before buf.lv c (cal c).2
  let here := fun (c : Nat) => (chan c).drop 1
  let fs := fun (c : Nat) => (cal c).1
  let locked := buf.present.testBit 5
  { tick := t
    energy := (List.range 3).map (fun p => (fs p * fs (3 + p) * lvEnergyFactor : Nat) * dot (here p) (here (3 + p)))
    squares := (List.range 4).map (fun k => fs (3 + k) * fs (3 + k) * lvSquareFactor * (dot (here (3 + k)) (here (3 + k))).toNat)
    volts := (List.range 3).map (fun p => rootOr (fs p * fs p * (dot (here p) (here p)).toNat) (8 * (fullScale * fullScale)))
    crossings := if locked then (List.range 3).map (fun p => crossingsOf (1000 * t) 0 (chan p)) else [[], [], []] }

/-- A tick of a local bridge equivalent: the window of its metrology set delivered to GL-C (R388). Its zero crossings come with the
tick's inputs. -/
def localTick (s : State) (set : Nat) : Option LvTick :=
  match calSet s.met.calib set with
  | none => none
  | some e =>
    let win := fun (c : Nat) => (metChan s c).delivered
    let xs := fun (c : Nat) => ((win c).map (·.samples)).getD []
    let fs := fun (c : Nat) => fsOf s.met.calib c
    let v := fun (p : Nat) => e.voltage.getD p 0
    let i := fun (p : Nat) => e.current.getD p 0
    match win (v 0) with
    | none => none
    | some w => some {
        tick := w.window
        energy := (List.range 3).map (fun p =>
          (if e.reverse then -1 else 1) * ((fs (v p) * fs (i p) : Nat) * dot (xs (v p)) (xs (i p))))
        squares := (List.range 4).map (fun k =>
          let c := if k = 3 then e.neutral else i k
          if c = 0xFF then 0 else fs c * fs c * (dot (xs c) (xs c)).toNat)
        volts := (List.range 3).map (fun p => rootOr (fs (v p) * fs (v p) * (dot (xs (v p)) (xs (v p))).toNat) powerDen)
        crossings := [[], [], []] }

/-! ## Accumulators (R331, R335, R368 steps 4 and 5) -/

/-- Adds a tick to a sum. -/
def LvSum.add (a : LvSum) (t : LvTick) : LvSum := {
  count := a.count + 1
  energy := List.zipWith (· + ·) a.energy t.energy
  through := List.zipWith (fun x (e : Int) => x + e.natAbs) a.through t.energy
  squares := List.zipWith (· + ·) a.squares t.squares
  volts := List.zipWith (· + ·) a.volts t.volts }

/-- Keeps the crossings of the last 256 sample ticks, newest first. -/
def mergeCrossings (old new : List Nat) (t : Nat) : List Nat :=
  ((new ++ old).filter (fun z => 1000 * t ≤ z + 256000)).mergeSort (fun a b => decide (b ≤ a))

/-- One tick reaches its round and its window, whenever it is ingested (R335), unless that window has settled (R337). -/
def addLvTick (b : Nat) (t : LvTick) (s : State) : State :=
  let seq := windowSeq s t.tick
  let settled := s.bal.windows.any (fun w => w.bridge == b && w.kind == 0 && w.seq == seq)
  let s := setNetBal b (fun n => { n with
    rounds := Tab.upd n.rounds (t.tick / 1024) {} (fun a => a.add t)
    windows := if settled then n.windows else Tab.upd n.windows seq {} (fun a => a.add t) }) s
  setBridge b (fun x => { x with crossings := (List.range 3).map (fun p =>
    mergeCrossings (x.crossings.getD p []) (t.crossings.getD p []) t.tick) }) s

/-- LV_METER on one bridge in a tick (R18, R368): every LV sample tick that arrived before the tick's start and is not processed yet, or
the set of a local bridge equivalent. -/
def runLvMeter (label b : Nat) (s : State) : State :=
  let x := bridgeAt s b
  if x.phase = .absent then s
  else if x.config.kind = 0 then
    let cut := startOf s label
    let s := (x.lvFresh.filter (fun e => e.2 < cut)).foldl (fun s e =>
      let y := bridgeAt s b
      if (bufferFor y e.1).present.testBit 2 then addLvTick b (remoteTick y e.1) s else s) s
    setBridge b (fun y => { y with lvFresh := y.lvFresh.filter (fun e => cut ≤ e.2) }) s
  else
    match localTick s x.config.lvSet with
    | some t => if x.lvFresh.any (fun e => e.1 == t.tick) then s
        else setBridge b (fun y => { y with lvFresh := [(t.tick, s.time.uptime)] }) (addLvTick b t s)
    | none => s

/-- Zero crossings and frequency readings of MSNS0 to MSNS2 reach the local bridge equivalents (R232 of 08, R388). -/
def localCrossings (l : List (List Nat)) (mains : List Nat) (s : State) : State :=
  (admitted s).foldl (fun s b =>
    if (bridgeAt s b).config.kind = 0 then s
    else setBridge b (fun x => { x with crossings := (List.range 3).map (fun p =>
      mergeCrossings (x.crossings.getD p []) (l.getD p []) (now s)), mains := mains }) s) s

end Sys2Proof.Machine
end

