-- ==== Sys2Proof/Machine/Balance.lean ====
section
/-!
DEFINITION. BALANCE: round records, windows and their settlement, feeder balance, suspicion rules. Chapter 10 of the spec
(R325 to R346).
-/

namespace Sys2Proof.Machine

/-! ## The network model (R326 to R330) -/

/-- The model that governs a round: the previous generation up to its last round (R330). -/
def modelFor (s : State) (r : Nat) : BalanceModel :=
  match s.bal.modelPrev with
  | some (m, last) => if r ≤ last then m else s.bal.model
  | none => s.bal.model

/-- A network's entry, or the default of a bridge without one (R329). -/
def netModel (m : BalanceModel) (b : Nat) : NetModel := (m.nets.find? (fun e => e.bridge == b)).getD { bridge := b }

/-- The rule profile of a network, and of a feeder (R343). -/
def profileOf (s : State) (i : Nat) : RuleProfile := s.bal.rules.getD i {}

/-- Accounts whose meter field names a bridge: its meters (R326, R327). -/
def netAccounts (s : State) (b : Nat) : List Nat :=
  (s.led.accounts.map (·.1)).filter (fun a => let r := committedAccount s a; r.phase != .unused && r.bridge == b)

/-- The pin of a node in force for a window (R355). -/
def pinFor (s : State) (b node seq : Nat) : Option Nat :=
  ((s.bal.pins.filter (fun p => p.bridge == b && p.node == node && decide (p.from' ≤ seq))).getLast?).bind (·.phase)

/-- The balance phase of a node: its pin, else what PHASE_ID has identified (R326). -/
def balancePhase (s : State) (b node seq : Nat) : Option Nat :=
  match pinFor s b node seq with
  | some p => some p
  | none => (nodeAt s b node).ident

/-- A meter's contribution: its phase, its energy (numerator over 18, µWh), and the unit in µWh in which a three-phase energy is
split. -/
structure MeterPart where
  account : Nat
  phase : Option Nat
  energy : Int
  unit : Nat := 1
  estimated : Bool := false
  lost : Bool := false

/-- A three-phase energy split equally under R289: in whole units. -/
def threeWay (e : Int) (unit : Nat) : List Int :=
  let whole := roundHalfAway e (18 * unit)
  (splitWhole whole.natAbs [1, 1, 1]).map (fun x => (if whole < 0 then -1 else 1) * (x * (18 * unit) : Nat))

/-- Adds contributions up: by phase, and those of unknown phase (R326). -/
def sumParts (l : List MeterPart) : List Int × Int :=
  l.foldl (fun acc m => match m.phase with
    | some 3 => (List.zipWith (· + ·) acc.1 (threeWay m.energy m.unit), acc.2)
    | some p => (modAt acc.1 p (fun x => x + m.energy), acc.2)
    | none => (acc.1, acc.2 + m.energy)) ([0, 0, 0], 0)

/-- The ticks of a span that precede an account's last gasp (R331, R296). -/
def ticksBefore (s : State) (a : Nat) (r : AccountRec) (start len : Nat) : Nat :=
  if !r.outage then len
  else match (pageOf s a).lastGasp with
    | some g => min len (g - start)
    | none => 0

/-- Energy at the provisional rate (numerator over 18, µWh): rate_w × ticks. A CLOSED account contributes what it reports and
nothing else (R327). -/
def rateEnergy (s : State) (a : Nat) (r : AccountRec) (start len : Nat) : Int :=
  if r.phase = .active then 5 * r.rateW * ticksBefore s a r start len else 0

/-! ## Terms of the supply side (R331, R338) -/

/-- Supply of each phase over `labels` ticks, by the mean of those present, in units of `u` µWh. -/
def supplyTerms (a : LvSum) (labels u : Nat) : List Int :=
  a.energy.map (fun e => if a.count = 0 then 0 else roundHalfAway (e * labels) (whDen * a.count * u))

/-- Throughput of each phase. -/
def throughTerms (a : LvSum) (labels u : Nat) : List Nat :=
  a.through.map (fun e => if a.count = 0 then 0 else (roundHalfAway ((e * labels : Nat) : Int) (whDen * a.count * u)).toNat)

/-- Denominator of Σ r I² over a sum: µΩ × mA² × 1 ms is 10^−15 J, and 1 µWh is 3.6 × 10^−3 J. -/
def lossDen (a : LvSum) : Nat := powerDen * 3600000000000 * a.count

/-- Loss of each phase (R331): the phase's own, the neutral's split over the three in whole µWh, and the fixed loss over `fixed`
ticks. -/
def lossTerms (m : NetModel) (a : LvSum) (labels fixed u : Nat) : List Int :=
  if a.count = 0 then [0, 0, 0]
  else
    let d := lossDen a
    let neutral := splitWhole (roundHalfAway ((m.rNeutral * a.squares.getD 3 0 * labels : Nat) : Int) d).toNat [1, 1, 1]
    (List.range 3).map (fun p =>
      let own := m.rPhase.getD p 0 * a.squares.getD p 0 * labels
      let always := m.fixedW.getD p 0 * fixed * 5 * (d / 18)
      roundHalfAway ((own + always + neutral.getD p 0 * d : Nat) : Int) (d * u))

/-- Unattributed energy above 1 % of the total throughput (R339), from terms of one unit. -/
def partialAttribution (un : Int) (through : List Nat) : Bool := decide (through.foldl (· + ·) 0 < 100 * un.natAbs)

/-! ## Round records (R331 to R333, R342) -/

/-- The round record of a network (R331, R332). Labels carried twice count in both passes (R332). -/
def roundRecord (s : State) (b r : Nat) (late : Bool) : RoundRec :=
  let m := netModel (modelFor s r) b
  let n := netBal s b
  let a := Tab.getD n.rounds r {}
  let missing := 1024 - a.count
  let silent := n.silentRounds.contains r
  let rules := profileOf s m.profile
  let accounts := netAccounts s b
  let stale := accounts.countP (fun x => let y := committedAccount s x; y.overdue || accountDamaged s x)
  let irregular := s.bal.irregularRounds.contains r
  let base : RoundRec := { round := r, bridge := b, missing := cap 255 missing, meters := accounts.length, stale := stale }
  let incomplete := silent || decide (rules.fillMaxRound < missing) || decide (a.count = 0)
  let flag := fun (filled part : Bool) =>
    ofBits [incomplete, filled, decide (0 < stale), part, silent, late, silent, irregular]
  if incomplete then { base with flags := flag false false }
  else
    let seq := windowSeq s (1024 * r)
    let parts := accounts.map (fun x =>
      let y := committedAccount s x
      ({ account := x, phase := balancePhase s b y.node seq, energy := rateEnergy s x y (1024 * r) 1024 } : MeterPart))
    let sums := sumParts parts
    let labels := max 1024 a.count
    let supply := supplyTerms a labels 1000
    let meter := sums.1.map (fun e => roundHalfAway e 18000)
    let loss := lossTerms m a labels 1024 1000
    let through := throughTerms a labels 1000
    let un := roundHalfAway sums.2 18000
    { base with
      flags := flag (decide (0 < missing)) (partialAttribution un through)
      supply := supply, meter := meter, loss := loss, through := through, unattributed := un
      residual := (List.range 3).map (fun p => supply.getD p 0 - meter.getD p 0 - loss.getD p 0) }

/-- A round record is complete. -/
def RoundRec.isComplete (r : RoundRec) : Bool := !r.flags.testBit 0

/-! ## Suspicion records (R344 to R346, R352) -/

/-- Code of a suspicion state (R345). -/
def SuspicionPhase.code : SuspicionPhase → Nat
  | .opened => 0 | .localised => 1 | .cleared => 2 | .closed => 3

/-- A record that is OPEN or LOCALISED. -/
def Suspicion.live (x : Suspicion) : Bool := x.state == .opened || x.state == .localised

/-- SUSPICION (R352): `old` is the state before, 0xFF for a new record. -/
def suspicionEvent (x : Suspicion) (old : Nat) (s : State) : State :=
  let top := x.candidates.head?
  raiseEvent 0x0700 (if 8 ≤ x.kind then 0x8000 + x.subject else x.subject) false
    (le 4 x.id ++ le 1 x.kind ++ le 1 x.phase ++ le 1 x.state.code ++ le 1 old ++
      le 4 ((top.map (·.account)).getD 0xFFFFFFFF) ++ leS 2 ((top.map (·.score)).getD 0) ++ le 2 x.disposition) s

/-- Changes the record with a number. -/
def setSuspicion (id : Nat) (f : Suspicion → Suspicion) (s : State) : State :=
  setBal (fun b => { b with suspicions := b.suspicions.map (fun x => if x.id = id then f x else x) }) s

/-- The live record of a subject, phase and kind (R344). -/
def liveRecord (s : State) (subject phase kind : Nat) : Option Suspicion :=
  s.bal.suspicions.find? (fun x => x.live && x.subject == subject && x.phase == phase && x.kind == kind)

/-- The next record number, never 0. -/
def afterRecord (n : Nat) : Nat := if n = 2 ^ 32 - 1 then 1 else n + 1

/-- A ratio in ppm, rounded towards zero; 0 without throughput. -/
def ratioPpm (res : Int) (through : Nat) : Int :=
  if through = 0 then 0 else clamp (-2147483648) 2147483647 (truncDiv (res * 1000000) through)

/-- Opens a record; where none can be reused the firing is dropped, counted and reported (R345). -/
def openRecord (x : Suspicion) (s : State) : State :=
  let x := { x with id := s.bal.nextRecord, slot := s.bal.suspicions.length }
  let room := decide (s.bal.suspicions.length < 65536)
  let old := s.bal.suspicions.find? (fun y => !y.live)
  match room, old with
  | false, none => reportFault 0x70 1 (setBal (fun b => { b with dropped := cap 0xFFFFFFFF (b.dropped + 1) }) s)
  | false, some y =>
    let x := { x with slot := y.slot }
    suspicionEvent x 0xFF (setBal (fun b => { b with
      suspicions := b.suspicions.erase y ++ [x], nextRecord := afterRecord b.nextRecord }) s)
  | true, _ =>
    suspicionEvent x 0xFF (setBal (fun b => { b with suspicions := b.suspicions ++ [x], nextRecord := afterRecord b.nextRecord }) s)

/-- What a counting window says to a rule: its start (or round), residual and throughput, whether it lies beyond the threshold and
on the safe side of half of it. -/
structure Verdict where
  start : Nat
  residual : Int
  through : Nat
  isOver : Bool
  safe : Bool

/-- A counting window reaches the live record of a subject, phase and kind: sums, clearance after clear_n (R344, R346). -/
def countWindow (subject phase kind clearN : Nat) (v : Verdict) (s : State) : State :=
  match liveRecord s subject phase kind with
  | none => s
  | some x =>
    let ratio := ratioPpm v.residual v.through
    let more := if kind = 4 || kind = 9 then decide (ratio < x.peakRatio) else decide (x.peakRatio < ratio)
    let n := if v.safe then x.clearCount + 1 else 0
    let y := { x with
      windowsOver := cap 65535 (x.windowsOver + v.isOver.toNat), lastWindow := v.start, residual := x.residual + v.residual
      through := x.through + v.through, peakRatio := if more then ratio else x.peakRatio, clearCount := n }
    if clearN ≤ n then
      let z := { y with state := .cleared, closedTick := now s }
      suspicionEvent z x.state.code (setSuspicion x.id (fun _ => z) s)
    else setSuspicion x.id (fun _ => y) s

/-- A rule fires (R344, R346): a live record is kept, otherwise a new one opens with this window. -/
def fireRule (subject phase kind : Nat) (v : Verdict) (s : State) : State :=
  match liveRecord s subject phase kind with
  | some _ => s
  | none => openRecord { id := 0, subject := subject, kind := kind, phase := phase, openedWindow := v.start, lastWindow := v.start
                         windowsOver := v.isOver.toNat, residual := v.residual, through := v.through
                         peakRatio := ratioPpm v.residual v.through } s

/-- Counts a window and fires the rule where it holds. A window that opens a record counts in it once. -/
def judge (subject phase kind clearN : Nat) (v : Verdict) (fires : Bool) (s : State) : State :=
  match liveRecord s subject phase kind with
  | some _ => countWindow subject phase kind clearN v s
  | none => if fires then fireRule subject phase kind v s else s

/-- The verdict of a residual against T = max(abs, ratio × throughput ÷ 10^6); `sign` −1 for negative kinds (R343, R344). -/
def verdictOf (start : Nat) (residual : Int) (through abs' ratio : Nat) (negative : Bool) : Verdict :=
  let r := (if negative then -residual else residual) * 1000000
  let t : Int := max (abs' * 1000000) (ratio * through)
  { start := start, residual := residual, through := through, isOver := decide (t < r), safe := decide (2 * r < t) }

/-! ## FAST (R343, R344) -/

/-- FAST on one phase: the sums over the last fast_rounds complete rounds. -/
def fastRule (b p : Nat) (rules : RuleProfile) (r : Nat) (s : State) : State :=
  let n := netBal s b
  let last := n.fast.take rules.fastRounds
  let res := (last.map (fun x => x.1.getD p 0)).foldl (· + ·) 0
  let through := (last.map (fun x => x.2.getD p 0)).foldl (· + ·) 0
  let v := verdictOf r res through 0 rules.fastRatio false
  let here := (n.fast.head?).map (fun x => ({ v with residual := x.1.getD p 0, through := x.2.getD p 0 } : Verdict))
  if !rules.enables.testBit 4 || last.length < rules.fastRounds then s
  else judge b p 5 rules.fastRounds (here.getD v) v.isOver s

/-- Publishes a round record: history, counts, FAST (R332, R343). -/
def publishRound (x : RoundRec) (s : State) : State :=
  let b := x.bridge
  let s := setBal (fun y => { y with
    rounds := y.rounds.filter (fun r => r.bridge != b || (r.round != x.round && decide (x.round < r.round + 256))) ++ [x]
    lateRounds := if x.flags.testBit 5 then cap 0xFFFFFFFF (y.lateRounds + 1) else y.lateRounds }) s
  let s := setNetBal b (fun n => { n with
    rounds := n.rounds.filter (fun e => x.round < e.1 + 256), silentRounds := n.silentRounds.filter (fun r => x.round < r + 256)
    fast := if x.isComplete then ((x.residual, x.through) :: n.fast).take 1024 else n.fast }) s
  let held := s.bal.rounds.filter (fun r => r.round == x.round)
  let s := if (admitted s).all (fun c => held.any (fun r => r.bridge == c)) && s.bal.lastRound ≤ x.round then
      setBal (fun y => { y with lastRound := x.round, incomplete := held.countP (fun r => !r.isComplete) }) s
    else s
  if x.isComplete then
    let rules := profileOf s (netModel (modelFor s x.round) b).profile
    (List.range 3).foldl (fun s p => fastRule b p rules x.round s) s
  else s

/-! ## Windows (R335 to R339, R342) -/

/-- History entries inside a 15-minute window, with the weight each has: interval numbers whole, or the share of the enclosing
entry (R336). Answers the numbers, and whether the window takes a part of one. -/
def windowIntervals (s : State) (seq : Nat) : List Nat × Bool :=
  let len := 60000 * s.led.billingMin
  if len ≤ 900000 then
    let k := ceilDiv (900000 * seq) len
    ((List.range 3).map (k + ·) |>.filter (fun i => decide ((i + 1) * len ≤ 900000 * (seq + 1))), false)
  else ([900000 * seq / len], true)

/-- The part of an entry's energy that lies in a window of its interval, in proportion to Gliris times (R289, R336). -/
def partOf (s : State) (seq interval wh : Nat) : Nat :=
  let n := 60000 * s.led.billingMin / 900000
  let first := interval * n
  (splitWhole wh ((List.range n).map (fun i => windowStart s (first + i + 1) - windowStart s (first + i)))).getD (seq - first) 0

/-- A meter's contribution to a 15-minute window (R336, R337). An interval that has no entry adds nothing (DEDUCED, log 55). -/
def windowPart (s : State) (b seq a : Nat) : MeterPart :=
  let r := committedAccount s a
  let phase := balancePhase s b r.node seq
  let start := windowStart s seq
  let stop := windowStart s (seq + 1)
  let w := windowIntervals s seq
  let entries := w.1.map (fun k => Tab.get (pageOf s a).history k)
  let lost := entries.any (fun e => (e.map (·.lost)).getD false)
  let estimate : MeterPart := { account := a, phase := phase, energy := rateEnergy s a r start (windowLabels s seq), estimated := true }
  if r.readingTick < stop then estimate
  else if lost then { estimate with lost := true }
  else
    let wh := fun (x : HistoryEntry) => if w.2 then
        ((partOf s seq (w.1.headD 0) x.importWh : Nat) : Int) - (partOf s seq (w.1.headD 0) x.exportWh : Nat)
      else (x.importWh : Int) - x.exportWh
    { account := a, phase := phase, unit := 1000000
      energy := 18000000 * (((entries.filterMap id).map wh).foldl (· + ·) 0) }

/-- A model generation has activated within a window: after its first label (R330). -/
def modelChanged (s : State) (seq : Nat) : Bool :=
  s.bal.modelAt.any (fun t => decide (windowStart s seq < t) && decide (t < windowStart s (seq + 1)))

/-- The record of a 15-minute window at its settlement, under the model then active (R338; DESIGN CHOICE, log 55). -/
def windowRecord (s : State) (b seq : Nat) : WindowRec × List MeterPart :=
  let n := netBal s b
  let a := Tab.getD n.windows seq {}
  let m := netModel s.bal.model b
  let labels := windowLabels s seq
  let missing := labels - a.count
  let incomplete := decide (labels < 100 * missing) || decide (a.count = 0)
  let spread := if incomplete then a.count else labels
  let parts := (netAccounts s b).map (windowPart s b seq)
  let sums := sumParts parts
  let supply := supplyTerms a spread 1000000
  let meter := sums.1.map (fun e => roundHalfAway e 18000000)
  let loss := lossTerms m a spread spread 1000000
  let through := throughTerms a spread 1000000
  let un := roundHalfAway sums.2 18000000
  let est := parts.countP (·.estimated)
  ({ start := windowStart s seq, seq := seq, bridge := b
     flags := ofBits [incomplete, !incomplete && decide (0 < missing), decide (0 < est), partialAttribution un through,
       parts.any (·.lost), true, (windowIntervals s seq).2, windowIrregular s seq]
     flags2 := ofBits [modelChanged s seq, n.pinAt.contains seq]
     supply := supply, meter := meter, loss := loss, through := through
     residual := (List.range 3).map (fun p => supply.getD p 0 - meter.getD p 0 - loss.getD p 0)
     estimated := est, unattributedMeters := parts.countP (fun x => x.phase.isNone), unattributed := un
     squares := a.squares, volts := a.volts, count := a.count }, parts)

/-- A counting window: settled, complete, without partial attribution (R338). -/
def WindowRec.counts (w : WindowRec) : Bool := !w.flags.testBit 0 && !w.flags.testBit 3

/-- The record of a window that is held. -/
def windowHeld (s : State) (b kind seq : Nat) : Option WindowRec :=
  s.bal.windows.find? (fun w => w.bridge == b && w.kind == kind && w.seq == seq)

/-- The sum of windows: terms and counts are sums, flags the union (R338). -/
def sumWindows (kind seq : Nat) (l : List WindowRec) : WindowRec :=
  let add := fun (f : WindowRec → List Int) => l.foldl (fun acc w => List.zipWith (· + ·) acc (f w)) [0, 0, 0]
  let addN := fun (n : Nat) (f : WindowRec → List Nat) => l.foldl (fun acc w => List.zipWith (· + ·) acc (f w)) (List.replicate n 0)
  { start := (l.head?.map (·.start)).getD 0, seq := seq, bridge := (l.head?.map (·.bridge)).getD 0, kind := kind
    flags := l.foldl (fun f w => f ||| w.flags) 0, flags2 := l.foldl (fun f w => f ||| w.flags2) 0
    supply := add (·.supply), meter := add (·.meter), loss := add (·.loss), residual := add (·.residual)
    through := addN 3 (·.through), estimated := cap 65535 ((l.map (·.estimated)).foldl (· + ·) 0)
    unattributedMeters := (l.map (·.unattributedMeters)).foldl max 0
    unattributed := (l.map (·.unattributed)).foldl (· + ·) 0
    squares := addN 4 (·.squares), volts := addN 3 (·.volts), count := (l.map (·.count)).foldl (· + ·) 0 }

/-- Ring length of a window kind (R350). -/
def windowRing (kind : Nat) : Nat := match kind with
  | 0 => 672 | 1 => 720 | _ => 366

/-- Keeps a window record in its ring. -/
def keepWindow (w : WindowRec) (s : State) : State :=
  setBal (fun y => { y with windows := y.windows.filter (fun v => v.bridge != w.bridge || v.kind != w.kind ||
    (v.seq != w.seq && decide (w.seq < v.seq + windowRing w.kind))) ++ [w] }) s

/-! ## Rules of windows (R343) -/

/-- Changes the persistence counts of a phase. -/
def setCount (b p : Nat) (f : RuleCount → RuleCount) (s : State) : State :=
  setNetBal b (fun n => { n with counts := modAt n.counts p f }) s

/-- POS_PERSIST, NEG and PHASE_MISMATCH on a phase of a counting 15-minute window. -/
def quarterRules (w : WindowRec) (rules : RuleProfile) (p : Nat) (s : State) : State :=
  let b := w.bridge
  let res := w.residual.getD p 0
  let through := w.through.getD p 0
  let pos := verdictOf w.start res through rules.posAbs rules.posRatio false
  let neg := verdictOf w.start res through rules.negAbs rules.negRatio true
  let s := setCount b p (fun c => { c with pos := if pos.isOver then c.pos + 1 else 0, neg := if neg.isOver then c.neg + 1 else 0 }) s
  let c := (netBal s b).counts.getD p {}
  let s := if rules.enables.testBit 0 then judge b p 1 rules.clearN pos (decide (rules.persistN ≤ c.pos)) s else s
  let s := if rules.enables.testBit 1 then judge b p 4 rules.clearN neg (decide (rules.persistN ≤ c.neg)) s else s
  countWindow b p 7 rules.clearN pos s

/-- The median of ratios, exact. -/
def medianRat (l : List Rat) : Rat :=
  let m := l.mergeSort (fun a b => decide (a ≤ b))
  let n := m.length
  if n % 2 = 1 then m.getD (n / 2) 0 else (m.getD (n / 2 - 1) 0 + m.getD (n / 2) 0) / 2

/-- Residual ÷ throughput of a phase of a window. -/
def ratioOf (w : WindowRec) (p : Nat) : Rat :=
  if w.through.getD p 0 = 0 then 0 else (w.residual.getD p 0 : Rat) / (w.through.getD p 0 : Rat)

/-- POS_HOUR and STEP on a phase of a counting 1-hour window. -/
def hourRules (w : WindowRec) (rules : RuleProfile) (p : Nat) (s : State) : State :=
  let b := w.bridge
  let res := w.residual.getD p 0
  let through := w.through.getD p 0
  let pos := verdictOf w.start res through rules.posAbs rules.posRatio false
  let s := setCount b p (fun c => { c with hours := (pos.isOver :: c.hours).take 24 }) s
  let hours := (((netBal s b).counts.getD p {}).hours).take rules.hourN
  let s := if rules.enables.testBit 2 then judge b p 2 rules.clearN pos (decide (rules.hourK ≤ hours.countP id)) s else s
  let past := ((List.range 7).filterMap (fun d => windowHeld s b 1 (w.seq - 24 * (d + 1)))).filter (·.counts)
  if !rules.enables.testBit 5 || past.length < 5 then s
  else
    let excess := ratioOf w p - medianRat (past.map (fun x => ratioOf x p))
    let step : Rat := (rules.stepRatio : Rat) / 1000000
    let v : Verdict := { start := w.start, residual := res, through := through, isOver := decide (step < excess)
                         safe := decide (2 * excess < step) }
    judge b p 6 rules.clearN v v.isOver s

/-- POS_DAY (R343): by phase, or once on the network's total under partial attribution. -/
def dayRules (w : WindowRec) (rules : RuleProfile) (s : State) : State :=
  if w.flags.testBit 0 || !rules.enables.testBit 3 then s
  else if w.flags.testBit 3 then
    let res := w.residual.foldl (· + ·) 0 - w.unattributed
    let v := verdictOf w.start res (w.through.foldl (· + ·) 0) rules.dayAbs rules.dayRatio false
    judge w.bridge 3 3 rules.clearN v v.isOver s
  else
    (List.range 3).foldl (fun s p =>
      let v := verdictOf w.start (w.residual.getD p 0) (w.through.getD p 0) rules.dayAbs rules.dayRatio false
      judge w.bridge p 3 rules.clearN v v.isOver s) s

/-! ## Feeder balance (R340, R341) -/

/-- A Wh value of Σ r I² over numerators of mean squares: µΩ × mA² × 1 ms. -/
def squaresWh (r sq : Nat) : Rat := ((r * sq : Nat) : Rat) / ((powerDen * 3600000000000 * 1000000 : Nat) : Rat)

/-- Σ r I² of some currents over a network's window in Wh, its missing ticks filled with the mean (R340, R342). -/
def windowSquares (s : State) (w : WindowRec) (r : Nat) (l : List Nat) : Rat :=
  if w.count = 0 then 0
  else squaresWh r (l.foldl (· + ·) 0) * (if w.flags.testBit 0 then 1 else (windowLabels s w.seq : Rat) / (w.count : Rat))

/-- Member networks of a feeder. -/
def feederMembers (m : BalanceModel) (f : Nat) : List NetModel := m.nets.filter (fun e => e.feeder == f)


/-- A rational rounded to the nearest whole number, halves away from zero. -/
def roundRat (q : Rat) : Int := roundHalfAway q.num q.den

/-- A feeder's window from its members' settled windows (R340, R341). Answers none until every member has settled. Without the
counters at both of its boundaries, or with an epoch of a set that ended between them, it is incomplete (DEDUCED, log 55). -/
def feederRecord (s : State) (e : FeederModel) (seq : Nat) : Option FeederRec :=
  let m := s.bal.model
  let members := feederMembers m e.feeder
  let wins := members.map (fun n => (n, windowHeld s n.bridge 0 seq))
  let fb := Tab.getD s.bal.feeders e.feeder {}
  if wins.any (fun w => w.2.isNone) then none
  else
    let held := wins.filterMap (fun w => w.2.map (fun x => (w.1, x)))
    let broken := held.filter (fun w => w.2.flags.testBit 0)
    let total := fun (l : List Int) => l.foldl (· + ·) 0
    let supply := fun (w : WindowRec) => if w.flags.testBit 0 then total w.meter + total w.loss else total w.supply
    let res := fun (w : WindowRec) => if w.flags.testBit 0 then 0 else total w.residual
    let ends := match Tab.get fb.marks seq, Tab.get fb.marks (seq + 1) with
      | some a, some b => if a.epochs = b.epochs then some (b.head - a.head, b.own - a.own, b.headImport - a.headImport) else none
      | _, _ => none
    let head := roundHalfAway ((ends.map (·.1)).getD 0) 1000000
    let own := roundHalfAway ((ends.map (·.2.1)).getD 0) 1000000
    let seconds : Rat := (windowLabels s seq : Rat) / 1000
    let line := roundRat (squaresWh e.rLine (Tab.getD fb.squares seq 0))
    let tx := roundRat ((held.map (fun w => (w.1.txFixedW : Rat) * seconds / 3600 +
      windowSquares s w.2 w.1.txR (w.2.squares.take 3))).foldl (· + ·) 0)
    let bridges := total (held.map (fun w => supply w.2))
    let incomplete := decide ((profileOf s e.profile).substMaxPct * members.length < 100 * broken.length) || ends.isNone
    some {
      start := windowStart s seq, seq := seq, feeder := e.feeder
      flags := ofBits [incomplete, !broken.isEmpty, true, held.any (fun w => w.2.flags.testBit 4), windowIrregular s seq,
        modelChanged s seq]
      headImport := (roundHalfAway ((ends.map (·.2.2)).getD 0) 1000000).toNat
      head := head, bridges := bridges, localWh := own, line := line, tx := tx
      residual := head - bridges - own - line - tx, bridgeResidual := total (held.map (fun w => res w.2))
      complete := held.length - broken.length, members := members.length }

/-- The sum of feeder windows. -/
def sumFeeders (kind seq : Nat) (l : List FeederRec) : FeederRec :=
  let add := fun (f : FeederRec → Int) => (l.map f).foldl (· + ·) 0
  { start := (l.head?.map (·.start)).getD 0, seq := seq, feeder := (l.head?.map (·.feeder)).getD 0, kind := kind
    headImport := (l.map (·.headImport)).foldl (· + ·) 0
    flags := l.foldl (fun f w => f ||| w.flags) 0, head := add (·.head), bridges := add (·.bridges), localWh := add (·.localWh)
    line := add (·.line), tx := add (·.tx), residual := add (·.residual), bridgeResidual := add (·.bridgeResidual)
    complete := (l.map (·.complete)).foldl min 65535, members := (l.map (·.members)).foldl max 0 }

/-- A feeder window that is held. -/
def feederHeld (s : State) (f kind seq : Nat) : Option FeederRec :=
  s.bal.feederWindows.find? (fun w => w.feeder == f && w.kind == kind && w.seq == seq)

/-- Keeps a feeder window in its ring. -/
def keepFeeder (w : FeederRec) (s : State) : State :=
  setBal (fun y => { y with feederWindows := y.feederWindows.filter (fun v => v.feeder != w.feeder || v.kind != w.kind ||
    (v.seq != w.seq && decide (w.seq < v.seq + windowRing w.kind))) ++ [w] }) s

/-- FEEDER_POS and FEEDER_NEG on a complete 1-hour feeder window; throughput is the head's import (R343). -/
def feederRules (w : FeederRec) (rules : RuleProfile) (s : State) : State :=
  if w.flags.testBit 0 || !rules.enables.testBit 6 then s
  else
    let f := w.feeder
    let pos := verdictOf w.start w.residual w.headImport rules.feederAbs rules.feederRatio false
    let neg := verdictOf w.start w.residual w.headImport rules.feederAbs rules.feederRatio true
    let s := setBal (fun y => { y with feeders := Tab.upd y.feeders f {} (fun b => { b with counts := { b.counts with
      pos := if pos.isOver then b.counts.pos + 1 else 0, neg := if neg.isOver then b.counts.neg + 1 else 0 } }) }) s
    let c := (Tab.getD s.bal.feeders f {}).counts
    judge f 3 9 rules.clearN neg (decide (rules.feederPersist ≤ c.neg))
      (judge f 3 8 rules.clearN pos (decide (rules.feederPersist ≤ c.pos)) s)

/-- A feeder's windows that a settled 15-minute window of all its members completes, and their rules (R341, R343). -/
def settleFeederWindow (e : FeederModel) (seq : Nat) (s : State) : State :=
  match feederRecord s e seq, feederHeld s e.feeder 0 seq with
  | some w, none =>
    let s := keepFeeder w s
    let hour := (List.range 4).filterMap (fun i => feederHeld s e.feeder 0 (4 * (seq / 4) + i))
    let s := if hour.length = 4 then
        let h := sumFeeders 1 (seq / 4) hour
        feederRules h (profileOf s e.profile) (keepFeeder h s)
      else s
    let day := (List.range 96).filterMap (fun i => feederHeld s e.feeder 0 (96 * (seq / 96) + i))
    if day.length = 96 then keepFeeder (sumFeeders 2 (seq / 96) day) s else s
  | _, _ => s

/-- The feeder of a network whose window has settled: its windows, and their rules. -/
def settleFeeder (b seq : Nat) (s : State) : State :=
  match s.bal.model.feeders.find? (fun e => e.enabled && (netModel s.bal.model b).feeder == e.feeder) with
  | none => s
  | some e => settleFeederWindow e seq s

/-! ## Settlement (R337, R338) -/

/-- Windows of an open or localised record on a phase, which r_fit leaves out (R349). -/
def underSuspicion (s : State) (b p start : Nat) : Bool :=
  s.bal.suspicions.any (fun x => x.live && decide (x.kind < 8) && x.kind != 5 && x.subject == b && (x.phase == p || x.phase == 3) &&
    decide (x.openedWindow ≤ start))

/-- r_fit of a phase (R349): the coefficient r that makes the sum of the squares of supply − meter − fixed loss − r × I² term least.
Fewer than 96 counting windows give none; without current in all of them it is a free value, and its rounding is free (log 13). -/
def fitLoss (s : State) (b p : Nat) : Nat :=
  let m := netModel s.bal.model b
  let l := (s.bal.windows.filter (fun w => w.bridge == b && w.kind == 0 && w.counts && !underSuspicion s b p w.start)).reverse.take 672
  let fixed := fun (w : WindowRec) => ((m.fixedW.getD p 0 * windowLabels s w.seq : Nat) : Rat) / 3600000
  let points := l.map (fun w => (windowSquares s w 1 [w.squares.getD p 0], (w.supply.getD p 0 - w.meter.getD p 0 : Rat) - fixed w))
  let xx := (points.map (fun q => q.1 * q.1)).foldl (· + ·) 0
  let r := (points.map (fun q => q.1 * q.2)).foldl (· + ·) 0 / xx
  if l.length < 96 then 0xFFFFFFFF
  else ((if xx = 0 then Config.roundValue 0 0 else exactOr r.num r.den) % 2 ^ 32).toNat

/-- PHASE_CONFLICT for each pin that disagrees with PHASE_ID, once per settled window (R328, R352). -/
def phaseConflicts (b seq start : Nat) (s : State) : State :=
  let nodes := ((s.bal.pins.filter (fun p => p.bridge == b)).map (·.node)).eraseDups
  nodes.foldl (fun s n =>
    match pinFor s b n seq, (nodeAt s b n).ident with
    | some p, some q =>
      if p = q then s
      else
        let a := (netAccounts s b).find? (fun x => (committedAccount s x).node == n)
        raiseEvent 0x0702 b true (le 4 (a.getD 0xFFFFFFFF) ++ le 2 n ++ le 1 p ++ le 1 q ++ le 8 start) s
    | _, _ => s) s

/-- BALANCE_INCOMPLETE (R342, R352). -/
def incompleteEvent (w : WindowRec) (silent : Bool) (s : State) : State :=
  let cause := if w.flags.testBit 0 then (if silent then 2 else 1) else 4
  if w.flags.testBit 0 || w.flags.testBit 3 then
    raiseEvent 0x0701 w.bridge true (le 8 w.start ++ le 1 cause ++ zeros 7) s
  else s

/-- Longer windows that a settled 15-minute window completes (R338), with their rules. -/
def settleLonger (b seq : Nat) (rules : RuleProfile) (s : State) : State :=
  let hour := (List.range 4).filterMap (fun i => windowHeld s b 0 (4 * (seq / 4) + i))
  let s := if hour.length = 4 && (windowHeld s b 1 (seq / 4)).isNone then
      let h := sumWindows 1 (seq / 4) hour
      let s := keepWindow h s
      if h.counts then (List.range 3).foldl (fun s p => hourRules h rules p s) s else s
    else s
  let day := (List.range 96).filterMap (fun i => windowHeld s b 0 (96 * (seq / 96) + i))
  if day.length = 96 && (windowHeld s b 2 (seq / 96)).isNone then
    let d := sumWindows 2 (seq / 96) day
    let s := dayRules d rules (keepWindow d s)
    setNetBal b (fun n => { n with rFit := (List.range 3).map (fun p => fitLoss s b p) }) s
  else s

/-- Settles a 15-minute window of a network; a settled window is final (R337). -/
def settleWindow (b seq : Nat) (s : State) : State :=
  if (windowHeld s b 0 seq).isSome then s
  else
    let silent := (netBal s b).silentWindows.contains seq
    let x := windowRecord s b seq
    let w := x.1
    let s := keepWindow w s
    let s := setNetBal b (fun n => { n with
      windows := Tab.del n.windows seq, silentWindows := n.silentWindows.filter (fun q => q != seq), localiseDue := some (now s / 1024)
      series := (x.2.foldl (fun (l : List MeterWindow) (m : MeterPart) =>
        if l.any (fun y => y.account == m.account && y.seq == seq) then
          l.map (fun y => if y.account == m.account && y.seq == seq then { y with energy := m.energy } else y)
        else l ++ [{ account := m.account, seq := seq, energy := m.energy }]) n.series).filter (fun y => decide (seq < y.seq + 97)) }) s
    let s := incompleteEvent w silent (phaseConflicts b seq w.start s)
    let s := if (admitted s).all (fun c => (windowHeld s c 0 seq).isSome) then
        setBal (fun y => { y with lastWindow := max y.lastWindow w.start }) s
      else s
    let rules := profileOf s (netModel s.bal.model b).profile
    let s := if w.counts then (List.range 3).foldl (fun s p => quarterRules w rules p s) s else s
    settleFeeder b seq (settleLonger b seq rules s)

/-- A window has ended, and its 15 minutes lie after the first committed tick (R337, R351). -/
def windowOver (s : State) (seq : Nat) : Bool :=
  decide (windowStart s (seq + 1) ≤ now s) && (match s.bal.firstTick with
    | some t => decide (t ≤ windowStart s seq)
    | none => false)

/-- Every meter of the network is confirmed past a window's end (R337). -/
def windowConfirmed (s : State) (b seq : Nat) : Bool :=
  (netAccounts s b).all (fun a => decide (windowStart s (seq + 1) ≤ (committedAccount s a).readingTick))

/-- Windows of a network that have ended and not settled, oldest first, within the longest settlement time. -/
def windowsOpen (s : State) (b : Nat) : List Nat :=
  let current := windowSeq s (now s)
  ((List.range 100).map (fun i => current - (100 - i))).filter (fun q => decide (q < current) && windowOver s q && (windowHeld s b 0 q).isNone)

/-- A round published before its labels came a second time: its record then covers both passes (R332). -/
def republish (b r : Nat) (s : State) : State :=
  let twice := s.bal.rounds.filter (fun x => x.bridge == b && decide (x.round < r) && !x.flags.testBit 7 &&
    s.bal.irregularRounds.contains x.round && (Tab.get (netBal s b).rounds x.round).isSome)
  setBal (fun y => { y with rounds := y.rounds.map (fun x =>
    if twice.contains x then roundRecord s b x.round (x.flags.testBit 5) else x) }) s

/-- BALANCE on one network for the round before the tick's (R24 of 01, R331, R337). -/
def runBalance (b label : Nat) (s : State) : State :=
  let r := label / 1024 - 1
  let s := republish b r s
  let s := if (bridgeAt s b).phase = .absent || !s.bal.ledgerRounds.contains r || s.bal.rounds.any (fun x => x.bridge == b && x.round == r)
    then s else publishRound (roundRecord s b r (decide (r + 1 < now s / 1024))) s
  let settle := (profileOf s (netModel s.bal.model b).profile).settleMin
  (windowsOpen s b).foldl (fun s q =>
    if windowConfirmed s b q || decide (windowStart s (q + 1) + 60000 * settle ≤ now s) then settleWindow b q s else s) s

/-- A network whose unit BALANCE skipped: an incomplete record without terms (R333). -/
def skippedRound (b r : Nat) (s : State) : State :=
  publishRound { round := r, bridge := b, flags := 1, missing := cap 255 (1024 - (Tab.getD (netBal s b).rounds r {}).count)
                 meters := (netAccounts s b).length } s

/-! ## Hooks of the tick -/

/-- The label of a ledger tick belongs to its round (R332). -/
def noteLedgerLabel (label : Nat) (s : State) : State :=
  let r := label / 1024
  if s.bal.ledgerRounds.contains r then s else setBal (fun y => { y with ledgerRounds := (r :: y.ledgerRounds).take 16 }) s

/-- A step from one label to another (R88, R89 of 04): rounds carried twice, labels gained or lost by each window (R332, R334). -/
def balanceStep (from' to' : Nat) (s : State) : State :=
  let lo := min from' to'
  let hi := max from' to'
  let seqs := (List.range (min 200 (windowSeq s hi + 1 - windowSeq s lo))).map (windowSeq s lo + ·)
  let s := seqs.foldl (fun s q =>
    let a := max lo (windowStart s q)
    let b := min hi (windowStart s (q + 1))
    let d : Int := (b - a : Nat)
    setBal (fun y => { y with labelAdjust := Tab.upd y.labelAdjust q 0 (fun x => if to' < from' then x + d else x - d) }) s) s
  if to' < from' then
    setBal (fun y => { y with irregularRounds :=
      (((List.range (min 4000 ((from' - 1) / 1024 + 1 - to' / 1024))).map (to' / 1024 + ·)) ++ y.irregularRounds).take 4096 }) s
  else s

/-- Net active counter of a set as delivered to GL-C, in µWh (R243 of 08). -/
def netCounter (s : State) (set : Nat) : Int :=
  match (metSet s set).delivered with
  | some (_, _, l) => (l.getD 0 0 : Int) - (l.getD 1 0 : Int)
  | none => 0

/-- The counters of a feeder's sets as delivered to GL-C (R340). -/
def feederMark (s : State) (e : FeederModel) : FeederMark :=
  let own := (List.range 32).filter (fun k => e.members.testBit k)
  { head := netCounter s e.headSet, own := (own.map (netCounter s)).foldl (· + ·) 0
    headImport := ((metSet s e.headSet).delivered.map (fun d => d.2.2.getD 0 0)).getD 0
    epochs := (e.headSet :: own).map (fun k => ((metSet s k).delivered.map (·.1)).getD 0) }

/-- Mean squares of a set's current channels in the window delivered (numerators over `powerDen`, mA²). -/
def currentSquares (s : State) (set : Nat) : Nat :=
  match calSet s.met.calib set with
  | none => 0
  | some e => (e.current.map (fun c =>
      let xs := (((metChan s c).delivered).map (·.samples)).getD []
      let fs := fsOf s.met.calib c
      fs * fs * (dot xs xs).toNat)).foldl (· + ·) 0

/-- Feeder marks and line currents of a tick; a feeder without member networks settles the window that has ended (R340, R341). -/
def feederTick (s : State) : State :=
  let seq := windowSeq s (now s)
  s.bal.model.feeders.foldl (fun s e =>
    if !e.enabled then s
    else
      let first := (Tab.get (Tab.getD s.bal.feeders e.feeder {}).marks seq).isNone
      let mark := feederMark s e
      let sq := currentSquares s e.headSet
      let s := setBal (fun y => { y with feeders := Tab.upd y.feeders e.feeder {} (fun f => { f with
        marks := (if first then Tab.put f.marks seq mark else f.marks).filter (fun m => decide (seq < m.1 + 110))
        squares := (Tab.upd f.squares seq 0 (fun x => x + sq)).filter (fun m => decide (seq < m.1 + 110)) }) }) s
      if first && (feederMembers s.bal.model e.feeder).isEmpty && windowOver s (seq - 1) then settleFeederWindow e (seq - 1) s else s) s

/-- What balance does at a tick start: bridges that are silent, feeders, networks whose unit was skipped (R333, R340, R342). -/
def balanceTick (s : State) : State :=
  let r := now s / 1024
  let seq := windowSeq s (now s)
  let s := (admitted s).foldl (fun s b =>
    if (bridgeAt s b).phase = .online then s
    else setNetBal b (fun n => { n with
      silentRounds := if n.silentRounds.contains r then n.silentRounds else (r :: n.silentRounds).take 256
      silentWindows := if n.silentWindows.contains seq then n.silentWindows else (seq :: n.silentWindows).take 110 }) s) s
  let s := feederTick s
  if now s % 1024 ≠ 0 || r < 2 then s
  else
    let old := r - 2
    let pending := s.yrw.tasks.any (fun t => t.work.kernel == 0x0301 && t.label / 1024 == old + 1)
    if pending || !s.bal.ledgerRounds.contains old || !s.yrw.workloads.any (fun w => w.kernel == 0x0301) then s
    else (admitted s).foldl (fun s b =>
      if s.bal.rounds.any (fun x => x.bridge == b && x.round == old) then s else skippedRound b old s) s

/-- A commit makes its tick the first committed one since the cold start (R351). -/
def balanceCommit (label : Nat) (s : State) : State :=
  if s.bal.firstTick.isSome then s else setBal (fun y => { y with firstTick := some label }) s

/-- Balance history and suspicion records are lost at a cold start; model, profiles and pins stay (R351). -/
def coldBalance (s : State) : State :=
  setBal (fun y => { model := y.model, rules := y.rules, pins := y.pins }) s

/-- WINDOW_SETTLE_DEADLINE (R337): settle_min has passed since the window's end. -/
def execWindowSettleDeadline (bridge window : Nat) (s : State) : Result :=
  .next (if dataPathUp s && (bridgeAt s bridge).phase ≠ .absent && windowOver s window then settleWindow bridge window s else s)

end Sys2Proof.Machine
end

