-- ==== Sys2Proof/Machine/Localise.lean ====
section
/-!
DEFINITION. LOCALISE: the localisation series, its three scores, and the candidates of suspicion records. Chapter 10 of the spec
(R347, R348).
-/

namespace Sys2Proof.Machine

/-- The localisation series of a network: the counting windows among its last 96 that no model or pin change precedes (R347). -/
def localisationSeries (s : State) (b : Nat) : List WindowRec :=
  let held := s.bal.windows.filter (fun w => w.bridge == b && w.kind == 0)
  let last := (held.map (·.seq)).foldl max 0
  let change := max (((s.bal.modelAt.head?).map (windowSeq s)).getD 0) (((netBal s b).pinAt.head?).getD 0)
  held.filter (fun w => w.counts && decide (last < w.seq + 96) && decide (change ≤ w.seq))

/-! ## Scores (R347) -/

/-- Sum of a list of ratios. -/
def ratSum (l : List Rat) : Rat := l.foldl (· + ·) 0

/-- The Pearson correlation of pairs in permille. It is exact or rounded in a way the spec does not give; without variation in one
of the two it has no value, and a free one stands for it (log 29). -/
def pearson (l : List (Rat × Rat)) : Int :=
  let n : Rat := (l.length : Nat)
  let sx := ratSum (l.map (·.1))
  let sy := ratSum (l.map (·.2))
  let cov := n * ratSum (l.map (fun p => p.1 * p.2)) - sx * sy
  let vx := n * ratSum (l.map (fun p => p.1 * p.1)) - sx * sx
  let vy := n * ratSum (l.map (fun p => p.2 * p.2)) - sy * sy
  if vx = 0 || vy = 0 then clamp (-1000) 1000 (Config.roundValue 0 0)
  else
    let q := 1000000 * (cov * cov / (vx * vy))
    let root := isqrt (q.num.toNat / q.den)
    let exact := root * root * q.den = q.num.toNat
    let r := if exact then root else root + Config.roundRoot q.num.toNat q.den % 2
    if cov < 0 then -(r : Int) else r

/-- The residual a record is about in a window: its phase's, or the network's total (R343). -/
def recordResidual (phase : Nat) (w : WindowRec) : Int :=
  if phase < 3 then w.residual.getD phase 0 else w.residual.foldl (· + ·) 0 - w.unattributed

/-- The series entry of a meter in a window. -/
def meterWindow (s : State) (b a seq : Nat) : Option MeterWindow :=
  (netBal s b).series.find? (fun y => y.account == a && y.seq == seq)

/-- The mean voltage of a bridge's phase in a window, in 0.1 V; of its three phases for a three-phase meter. -/
def bridgeVolts (w : WindowRec) (phase : Nat) : Rat :=
  let mean := fun (p : Nat) => ((w.volts.getD p 0 : Nat) : Rat) / ((100 * w.count : Nat) : Rat)
  if phase < 3 then mean phase else (mean 0 + mean 1 + mean 2) / 3

/-- ΔV of a meter of some phase in a window, where it reported (R347). -/
def deltaV (s : State) (b a phase : Nat) (w : WindowRec) : Option Rat :=
  match meterWindow s b a w.seq with
  | some y =>
    if y.volts.isEmpty || w.count = 0 then none
    else some (((y.volts.foldl (· + ·) 0 : Nat) : Rat) / ((y.volts.length : Nat) : Rat) - bridgeVolts w phase)
  | none => none

/-- Voltage score: −ΔV against the residual; 0 with reports in fewer than 75 % of the windows, or without a balance phase. -/
def voltageScore (s : State) (b a : Nat) (phase : Option Nat) (ws : List WindowRec) (r : WindowRec → Int) : Int :=
  match phase with
  | none => 0
  | some p =>
    let l := ws.filterMap (fun w => (deltaV s b a p w).map (fun d => (-d, (r w : Rat))))
    if 4 * l.length < 3 * ws.length then 0 else pearson l

/-- Consumption score: the meter's net window energy against a residual. -/
def consumptionScore (s : State) (b a : Nat) (ws : List WindowRec) (r : WindowRec → Int) : Int :=
  pearson (ws.filterMap (fun w => (meterWindow s b a w.seq).map (fun y => ((y.energy : Rat), (r w : Rat)))))

/-! ## Candidates (R348) -/

/-- A network's meters with their balance phase as of a window. -/
def metersWithPhase (s : State) (b seq : Nat) : List (Nat × Option Nat) :=
  (netAccounts s b).map (fun a => (a, balancePhase s b (committedAccount s a).node seq))

/-- The four best candidates, best first, ties to the lower account. -/
def bestFour (l : List Candidate) : List Candidate :=
  (l.mergeSort (fun x y => decide (y.score < x.score) || (x.score == y.score && decide (x.account ≤ y.account)))).take 4

/-- Candidates of a record of kind 1 to 6. -/
def recordCandidates (s : State) (x : Suspicion) (ws : List WindowRec) (seq : Nat) : List Candidate :=
  let r := recordResidual x.phase
  bestFour ((metersWithPhase s x.subject seq).map (fun m =>
    let c := consumptionScore s x.subject m.1 ws r
    if x.kind = 4 then { account := m.1, score := c, method := 2 }
    else
      let v := voltageScore s x.subject m.1 m.2 ws r
      if c ≤ v then { account := m.1, score := v, method := 1 } else { account := m.1, score := c, method := 2 }))

/-- Candidates of a phase pair: meters of phase `p` whose phase score reaches the least score. -/
def pairCandidates (s : State) (b p q least seq : Nat) (ws : List WindowRec) : List Candidate :=
  let meters := (metersWithPhase s b seq).filter (fun m => m.2 == some p)
  bestFour (((meters.map (fun m =>
    let neg := consumptionScore s b m.1 ws (fun w => -recordResidual p w)
    let pos := consumptionScore s b m.1 ws (recordResidual q)
    ({ account := m.1, score := min neg pos, method := 3, phase := q } : Candidate))).filter (fun c => decide ((least : Int) ≤ c.score))))

/-- A localisation result reaches a record (R346). -/
def localised (x : Suspicion) (l : List Candidate) (least : Nat) (daily : Int) (s : State) : State :=
  let top := match l.head? with
    | some c => decide ((least : Int) ≤ c.score)
    | none => false
  let next := if top then SuspicionPhase.localised else .opened
  let y := { x with candidates := l, state := next, localisedTick := now s, meanDaily := daily }
  let s := setSuspicion x.id (fun _ => y) s
  if next = x.state then s else suspicionEvent y x.state.code s

/-- Mean residual of 24 hours over the series. -/
def meanDailyOf (phase : Nat) (ws : List WindowRec) : Int :=
  clamp (-2147483648) 2147483647 (exactOr (96 * (ws.map (recordResidual phase)).foldl (· + ·) 0) ws.length)

/-- Opens the PHASE_MISMATCH record of a pair where none is live, with the latest window of the series (R348). -/
def openMismatch (b q : Nat) (l : List Candidate) (w : WindowRec) (s : State) : State :=
  match liveRecord s b q 7 with
  | some _ => s
  | none =>
    let rules := profileOf s (netModel s.bal.model b).profile
    let v := verdictOf w.start (w.residual.getD q 0) (w.through.getD q 0) rules.posAbs rules.posRatio false
    openRecord { id := 0, subject := b, kind := 7, phase := q, openedWindow := w.start, lastWindow := w.start, candidates := l
                 windowsOver := v.isOver.toNat, residual := v.residual, through := v.through
                 peakRatio := ratioPpm v.residual v.through } s

/-- One phase pair: the mismatch record, and the candidates of it and of the two records it rests on. Answers the records done. -/
def localisePair (b p q least seq : Nat) (ws : List WindowRec) (acc : List Nat × State) : List Nat × State :=
  match liveRecord acc.2 b p 4, liveRecord acc.2 b q 1 with
  | some x, some y =>
    let l := pairCandidates acc.2 b p q least seq ws
    match l, ws.getLast? with
    | _ :: _, some w =>
      let s := openMismatch b q l w acc.2
      let ids := [x.id, y.id] ++ ((liveRecord s b q 7).map (·.id)).toList
      (acc.1 ++ ids, (s.bal.suspicions.filter (fun z => ids.contains z.id)).foldl (fun s z =>
        localised z l least (meanDailyOf z.phase ws) s) s)
    | _, _ => acc
  | _, _ => acc

/-- LOCALISE on one network, in the round after a window of it has settled (R347). -/
def runLocalise (b : Nat) (s : State) : State :=
  let due := match (netBal s b).localiseDue with
    | some r => decide (r < now s / 1024)
    | none => false
  if !due then s
  else
    let s := setNetBal b (fun n => { n with localiseDue := none }) s
    let live := s.bal.suspicions.filter (fun x => x.live && x.subject == b && decide (x.kind < 8))
    let ws := localisationSeries s b
    if live.isEmpty || ws.length < 16 then s
    else
      let least := (profileOf s (netModel s.bal.model b).profile).locMinScore
      let seq := (ws.map (·.seq)).foldl max 0
      let pairs := (List.range 3).flatMap (fun p => ((List.range 3).filter (· != p)).map (fun q => (p, q)))
      let done := pairs.foldl (fun acc pq => localisePair b pq.1 pq.2 least seq ws acc) (([] : List Nat), s)
      (live.filter (fun x => decide (x.kind < 7) && !done.1.contains x.id)).foldl (fun s x =>
        localised x (recordCandidates s x ws seq) least (meanDailyOf x.phase ws) s) done.2

end Sys2Proof.Machine
end

