-- ==== Sys2Proof/Machine/Catalogue.lean ====
section
/-!
DEFINITION. The kernel catalogue and the default workload table. Chapter 06 of the spec (R161 to R167).
-/

namespace Sys2Proof.Machine

/-- One kernel of the catalogue (R161): ID, class, cadence (0 tick, 1 round, 2 event), cycles per invocation, code KiB,
sealed; the page kind its unit uses (log 20) and the units of the reference configuration (R28 of 01). -/
structure Kernel where
  id : Nat
  cls : KClass
  cadence : Nat
  cycles : Nat
  kib : Nat
  isSealed : Bool := false
  page : Nat := 0
  units : Nat
  deriving DecidableEq, Repr

/-- The kernels of *Kernel catalogue*, in its order (R161). -/
def kernelsA : List Kernel := [
  { id := 0x0101, cls := .tick, cadence := 0, cycles := 1000, kib := 8, units := 8192 },
  { id := 0x0102, cls := .tick, cadence := 0, cycles := 6000, kib := 40, units := 24576 },
  { id := 0x0103, cls := .tick, cadence := 0, cycles := 6000, kib := 16, units := 24576 },
  { id := 0x0104, cls := .tick, cadence := 0, cycles := 6400, kib := 36, units := 8192 },
  { id := 0x0105, cls := .tick, cadence := 0, cycles := 400, kib := 8, units := 8192 },
  { id := 0x0106, cls := .tick, cadence := 0, cycles := 1000, kib := 24, page := 2, units := 8192 },
  { id := 0x0107, cls := .background, cadence := 1, cycles := 307200, kib := 20, page := 2, units := 8192 },
  { id := 0x0108, cls := .background, cadence := 1, cycles := 204800, kib := 12, page := 2, units := 8192 },
  { id := 0x0109, cls := .tick, cadence := 0, cycles := 1000, kib := 32, page := 2, units := 8192 },
  { id := 0x0201, cls := .tick, cadence := 0, cycles := 20000, kib := 28, isSealed := true, page := 1, units := 1024 },
  { id := 0x0202, cls := .tick, cadence := 0, cycles := 1500, kib := 12, isSealed := true, page := 4, units := 32 },
  { id := 0x0301, cls := .background, cadence := 1, cycles := 819200, kib := 24, page := 2, units := 8192 },
  { id := 0x0302, cls := .background, cadence := 1, cycles := 409600, kib := 28, page := 2, units := 8192 }]

/-- The rest of *Kernel catalogue* (R161). -/
def kernelsB : List Kernel := [
  { id := 0x0401, cls := .tick, cadence := 0, cycles := 2000, kib := 16, isSealed := true, units := 192 },
  { id := 0x0501, cls := .critical, cadence := 0, cycles := 500, kib := 6, units := 16 },
  { id := 0x0502, cls := .critical, cadence := 0, cycles := 2000, kib := 10, page := 3, units := 16 },
  { id := 0x0503, cls := .critical, cadence := 0, cycles := 500, kib := 6, page := 3, units := 16 },
  { id := 0x0504, cls := .tick, cadence := 0, cycles := 300000, kib := 40, page := 3, units := 16 },
  { id := 0x0505, cls := .tick, cadence := 0, cycles := 60000, kib := 36, page := 3, units := 16 },
  { id := 0x0506, cls := .tick, cadence := 0, cycles := 40000, kib := 20, page := 3, units := 16 },
  { id := 0x0507, cls := .tick, cadence := 0, cycles := 100000, kib := 24, units := 4 },
  { id := 0x0601, cls := .background, cadence := 0, cycles := 1000000, kib := 12, units := 8 },
  { id := 0x0602, cls := .background, cadence := 0, cycles := 1000000, kib := 16, units := 8 },
  { id := 0x0603, cls := .background, cadence := 0, cycles := 1000000, kib := 10, units := 4 },
  { id := 0x06FF, cls := .idle, cadence := 2, cycles := 50000, kib := 8, units := 1 }]

/-- The kernel catalogue (R161). -/
def kernels : List Kernel := kernelsA ++ kernelsB

/-- A kernel of the catalogue. -/
def findKernel (id : Nat) : Option Kernel := kernels.find? (fun k => k.id == id)

/-- Kernels of which every workload table holds exactly one workload (R164). -/
def mandatoryKernels : List Nat := [0x0501, 0x0502, 0x0503, 0x0101, 0x0201, 0x0202, 0x0401]

/-- Version and hash of a kernel of the active catalogue (R160, R194). -/
def kernelVersion (s : State) (id : Nat) : KernelVersion := Tab.getD s.yrw.catalogue id {}

/-- Code of a class (R165). -/
def KClass.code : KClass → Nat
  | .critical => 0 | .tick => 1 | .background => 2 | .idle => 3

/-- Class of a code (R165). -/
def classOf : Nat → KClass
  | 0 => .critical | 1 => .tick | 2 => .background | _ => .idle

/-- The class one above (R175). -/
def KClass.above : KClass → KClass
  | .idle => .background | .background => .tick | _ => .critical

/-- Default deadline in µs of a kernel (R167). -/
def defaultDeadline (k : Kernel) : Nat :=
  if k.id = 0x0501 then 120 else if k.id = 0x0502 then 200 else if k.id = 0x0503 then 250
  else match k.cls with
    | .critical => 1000 | .tick => 1000 | .background => 1024000 | .idle => 67108864

/-- The default workload of a kernel at position `i` of the catalogue (R167). -/
def defaultWorkload (i : Nat) (k : Kernel) : Workload := {
  id := i, cls := k.cls, kernel := k.id, cadence := k.cadence, rank := i, units := k.units
  deadlineUs := defaultDeadline k
  wiltMarginUs := if k.cls = .background then 100000 else 0
  runahead := k.cls == .tick && k.cadence == 0
  prefetch := k.page != 0
  pageKind := k.page
  after := if k.id = 0x0502 then 14 else if k.id = 0x0503 then 15 else 0xFF }

/-- The default workload table (R167). -/
def defaultWorkloads : List Workload := kernels.zipIdx.map (fun (k, i) => defaultWorkload i k)

/-- Σ min_florets of a table (R168). -/
def sumMin (ws : List Workload) : Nat := (ws.map (·.minFlorets)).foldl (· + ·) 0

/-- The 32 B descriptor of a workload (R165). -/
def workloadBytes (w : Workload) : Bytes :=
  le 1 w.id ++ le 1 w.cls.code ++ le 2 w.kernel ++ le 2 w.paramBlock ++ le 1 w.cadence ++ le 1 w.rank ++ le 4 w.units ++
    le 2 w.minFlorets ++ le 2 w.maxFlorets ++ le 4 w.deadlineUs ++ le 4 w.wiltMarginUs ++ le 2 w.wiltWidth ++
    le 1 w.sliceUs ++ le 1 (w.runahead.toNat + 2 * w.prefetch.toNat) ++ le 1 w.pageKind ++ le 1 w.after ++ zeros 2

/-- Reads a descriptor (R165). -/
def workloadOfBytes (b : Bytes) : Workload := {
  id := rd b 0 1, cls := classOf (rd b 1 1), kernel := rd b 2 2, paramBlock := rd b 4 2, cadence := rd b 6 1
  rank := rd b 7 1, units := rd b 8 4, minFlorets := rd b 0x0C 2, maxFlorets := rd b 0x0E 2, deadlineUs := rd b 0x10 4
  wiltMarginUs := rd b 0x14 4, wiltWidth := rd b 0x18 2, sliceUs := rd b 0x1A 1
  runahead := bit (rd b 0x1B 1) 0, prefetch := bit (rd b 0x1B 1) 1, pageKind := rd b 0x1C 1, after := rd b 0x1D 1 }

/-- Follows the `after` links of a table for `n` steps; true where they come back to `id` (an inconsistent chain). -/
def afterLoops (ws : List Workload) (id : Nat) : Nat → Nat → Bool
  | 0, _ => false
  | n + 1, a =>
    if a = 0xFF then false
    else if a = id then true
    else match ws.find? (fun w => w.id == a) with
      | some w => afterLoops ws id n w.after
      | none => false

/-- The checks of one entry of a table, by offset in the entry (R164 to R166, R195). -/
def workloadChecks (all before : List Workload) (b : Bytes) : List (Nat × Bool) :=
  let w := workloadOfBytes b
  let k := findKernel w.kernel
  let known (f : Kernel → Bool) : Bool := match k with
    | some k => f k
    | none => true
  let dl := if w.cls = .critical || w.cls = .tick then 1000 else 67108864
  [(0, !before.any (fun x => x.id == w.id)),
   (1, rd b 1 1 ≤ 3 && known (fun k => k.cls == w.cls || (k.cls == .background && w.cls == .idle))),
   (2, k.isSome && !(mandatoryKernels.contains w.kernel && before.any (fun x => x.kernel == w.kernel))),
   (4, w.paramBlock ≤ 1023 || w.paramBlock == 0xFFFF),
   (6, known (fun k => k.cadence == w.cadence)),
   (8, 1 ≤ w.units && w.units ≤ 1048576),
   (0x0C, w.minFlorets ≤ 1008),
   (0x0E, w.maxFlorets == 0 || w.minFlorets ≤ w.maxFlorets),
   (0x10, 1 ≤ w.deadlineUs && w.deadlineUs ≤ dl),
   (0x14, w.wiltMarginUs == 0 || (w.cls != .critical && w.wiltMarginUs < w.deadlineUs)),
   (0x18, 1 ≤ w.wiltWidth && w.wiltWidth ≤ 1008),
   (0x1A, 10 ≤ w.sliceUs),
   (0x1B, rd b 0x1B 1 < 4),
   (0x1C, w.pageKind ≤ 4),
   (0x1D, w.after == 0xFF || (w.cadence == 0 && all.any (fun x => x.id == w.after && x.cadence == 0) &&
     !afterLoops all w.id 256 w.after)),
   (0x1E, rd b 0x1E 2 == 0)]

/-- The first failing check: its offset. -/
def firstFalse : List (Nat × Bool) → Option Nat
  | [] => none
  | (o, ok) :: cs => if ok then firstFalse cs else some o

/-- Checks the entries of a table in order: offset in the entry, offset in the table. -/
def checkWorkloads (all : List Workload) : List Bytes → List Workload → Option (Nat × Nat)
  | [], _ => none
  | b :: bs, before =>
    match firstFalse (workloadChecks all before b) with
    | some o => some (o, 32 * before.length + o)
    | none => checkWorkloads all bs (before ++ [workloadOfBytes b])

/-- A received workload table: its entries, or the first offending byte. A missing mandatory kernel is reported at the
kernel_id of the first entry (R195; log 20). -/
def decodeWorkloads (data : Bytes) : Except (Nat × Nat) (List Workload) :=
  let bs := (List.range (data.length / 32)).map (fun i => slice data (32 * i) 32)
  let all := bs.map workloadOfBytes
  match checkWorkloads all bs [] with
  | some e => .error e
  | none => if mandatoryKernels.all (fun k => all.any (fun w => w.kernel == k)) then .ok all else .error (2, 2)

end Sys2Proof.Machine
end

