-- ==== Sys2Proof/Machine/Tables.lean ====
section
/-!
DEFINITION. Descriptor tables as the tasks of a tick see them. Chapter 01 of the spec (R13): tables are switched at a tick boundary, and a
task of a tick that was opened before the switch goes on with the old contents.
-/

namespace Sys2Proof.Machine

/-- The contents in force of the table that a generation would replace. What no florets' task reads stands as it is. -/
def readTable (s : State) (g : GenTable) : GenTable :=
  match g with
  | .workload t => .workload t
  | .param b _ => .param b (Tab.getD s.yrw.params b [])
  | .civil _ => .civil s.time.civil
  | .tariff _ => .tariff s.led.tariff
  | .calib _ => .calib s.met.calib
  | .txPlan _ => .txPlan s.stem.permits
  | .plcProfile i p => .plcProfile i (s.stem.profiles.getD i p)
  | .rfNet b _ => .rfNet b ((Tab.get s.mtr.rf b).map (·.config))
  | .balModel _ => .balModel s.bal.model
  | .rules i r => .rules i (s.bal.rules.getD i r)
  | .chgPoint k _ => .chgPoint k (s.chg.points.getD k {}).config
  | .chgPath p _ => .chgPath p (Tab.get s.chg.paths p)
  | .chgBus b c => .chgBus b (s.chg.buses.getD b c)
  | .lsConfig k c => .lsConfig k c
  | .safInput j c => .safInput j c

/-- Puts the contents of a table in place, and nothing else. -/
def writeTable (s : State) (g : GenTable) : State :=
  match g with
  | .workload _ => s
  | .param b d => { s with yrw := { s.yrw with params := Tab.put s.yrw.params b d } }
  | .civil t => { s with time := { s.time with civil := t } }
  | .tariff t => { s with led := { s.led with tariff := t } }
  | .calib r => { s with met := { s.met with calib := r } }
  | .txPlan p => { s with stem := { s.stem with permits := p } }
  | .plcProfile i p => { s with stem := { s.stem with profiles := modAt s.stem.profiles i (fun _ => p) } }
  | .rfNet b c =>
    match Tab.get s.mtr.rf b, c with
    | some n, some c => { s with mtr := { s.mtr with rf := Tab.put s.mtr.rf b { n with config := c } } }
    | _, _ => s
  | .balModel m => { s with bal := { s.bal with model := m } }
  | .rules i r => { s with bal := { s.bal with rules := modAt s.bal.rules i (fun _ => r) } }
  | .chgPoint k c => { s with chg := { s.chg with points := modAt s.chg.points k (fun x => { x with config := c }) } }
  | .chgPath p c => { s with chg := { s.chg with paths := match c with
      | some x => Tab.put s.chg.paths p x
      | none => Tab.del s.chg.paths p } }
  | .chgBus b c => { s with chg := { s.chg with buses := modAt s.chg.buses b (fun _ => c) } }
  | .lsConfig _ _ => s
  | .safInput _ _ => s

/-- Ticks that have opened before this one and still have work: open ledger ticks, and ticks with tasks left. -/
def olderTicks (s : State) : List Nat :=
  (((s.led.ticks.map (·.label)) ++ (s.yrw.tasks.filter (fun t => !t.ahead)).map (·.label)).filter (· != now s)).eraseDups

/-- Notes for the older ticks what a table held before it is switched now; what a tick has kept already stays (R13). -/
def keepTable (g : GenTable) (s : State) : State :=
  let old := readTable s g
  let add (l : List GenTable) : List GenTable := if l.any (fun t => t.key == g.key) then l else l ++ [old]
  let kept := s.gens.kept.filter (fun e => (olderTicks s).contains e.1)
  { s with gens := { s.gens with kept := (olderTicks s).foldl (fun t k => Tab.upd t k [] add) kept } }

/-- Runs an operation of a tick's task with the tables as that tick sees them (R13). -/
def withTables (label : Nat) (f : State → State) (s : State) : State :=
  let old := Tab.getD s.gens.kept label []
  if old.isEmpty then f s
  else
    let new := old.map (readTable s)
    new.foldl writeTable (f (old.foldl writeTable s))

end Sys2Proof.Machine
end

