-- ==== Sys2Proof/Machine/Yarrow.lean ====
section
/-!
DEFINITION. Yarrow's scheduler: tasks, dispatch order, pre-emption, wilting, pages, task faults, the allocation of a round.
Chapter 06 of the spec (R165 to R183) and run-ahead (R104, R105 of 04). What a kernel does to a unit is given by the
runner that `Machine/Kernels.lean` passes in.
-/

namespace Sys2Proof.Machine

/-- What a kernel does: kernel, Gliris time of the tick, unit. -/
abbrev Runner := Nat → Nat → Nat → State → State
/-- The units of a kernel in a tick (R166). -/
abbrev UnitsOf := Nat → Nat → State → List Nat

/-- Changes Yarrow's state. -/
def setYrw (f : YarrowState → YarrowState) (s : State) : State := { s with yrw := f s.yrw }

/-- Umbel `u`. -/
def umbel (s : State) (u : Nat) : Umbel := s.yrw.umbels.getD u {}

/-- Changes umbel `u`. -/
def setUmbel (u : Nat) (f : Umbel → Umbel) (s : State) : State := setYrw (fun y => { y with umbels := modAt y.umbels u f }) s

/-- Umbels in a phase, ascending. -/
def umbelsIn (s : State) (p : UmbelPhase) : List Nat := (List.range 64).filter (fun u => (umbel s u).phase == p)

/-- Changes the statistics of a workload (R200). -/
def countWork (id : Nat) (f : WorkloadStats → WorkloadStats) (s : State) : State :=
  setYrw (fun y => { y with stats := Tab.upd y.stats id {} f }) s

/-- Changes a task. -/
def setTask (id : Nat) (f : Task → Task) (s : State) : State :=
  setYrw (fun y => { y with tasks := y.tasks.map (fun t => if t.id = id then f t else t) }) s

/-- A task with nothing left to run (R182). -/
def Task.done (t : Task) : Bool := t.todo.isEmpty && t.running == 0

/-- Drops tasks that are complete; run-ahead work is kept until its tick opens (R104). -/
def sweepTasks (s : State) : State := setYrw (fun y => { y with tasks := y.tasks.filter (fun t => t.ahead || !t.done) }) s

/-! ## Dispatch order (R172) -/

/-- Place of a task in dispatch order, most significant first (R172). -/
def Task.key (t : Task) : List Nat :=
  match t.eff with
  | .critical =>
    if t.work.cls = .critical then [0, 0, t.work.rank, t.label]
    else if t.promoted then [0, 1, t.label, t.work.rank]
    else [0, 2, t.deadlineUs, t.work.rank]
  | .tick =>
    if t.ahead then [1, 2, t.work.rank, t.label]
    else if t.work.cls = .tick then [1, 0, t.label, t.work.rank]
    else [1, 1, t.deadlineUs, t.work.rank]
  | .background => if t.work.cls = .idle then [2, 0, t.deadlineUs, t.work.rank] else [2, 1, t.work.rank, t.releasedUs]
  | .idle => [3, 0, t.work.rank, t.releasedUs]

/-- Inserts a task in dispatch order, behind those of the same place. -/
def insertTask (t : Task) : List Task → List Task
  | [] => [t]
  | u :: us => if keyBefore t.key u.key then t :: u :: us else u :: insertTask t us

/-- The tasks in dispatch order (R172). -/
def dispatchOrder (ts : List Task) : List Task := ts.foldl (fun acc t => insertTask t acc) []

/-- The order of a set of tasks as the given fixed list shows it; used on concrete tables. -/
def taskById (s : State) (id : Nat) : Option Task := s.yrw.tasks.find? (fun t => t.id == id)

/-! ## Readiness -/

/-- The florets that a workload's invocations run on at once, pre-empted ones apart (R165 *max_florets*). -/
def runningOf (s : State) (workload : Nat) : Nat := s.yrw.running.countP (fun (_, i) => i.workload == workload)

/-- The task waits for the same tick's invocations of another workload (R165 *after*). -/
def afterPending (s : State) (t : Task) : Bool :=
  t.work.after != 0xFF && s.yrw.tasks.any (fun x => x.work.id == t.work.after && x.label == t.label && !x.done)

/-- The workload is at its cap (R165). -/
def atCap (s : State) (w : Workload) : Bool := w.maxFlorets != 0 && decide (w.maxFlorets ≤ runningOf s w.id)

/-- The page of a unit: page_kind and index (R178). A network's page has its bridge's number, also for the three phase streams that
PLC_RX and PLC_TX count to a bridge. -/
def unitPage (w : Workload) (unit : Nat) : Nat × Nat :=
  (w.pageKind, if w.pageKind = 2 && (w.kernel = 0x0102 || w.kernel = 0x0103) then unit / 3 else unit)

/-- The page of a unit is held by an invocation of the same or a younger tick (R180). -/
def pageWaits (s : State) (t : Task) (unit : Nat) : Bool :=
  let p := unitPage t.work unit
  t.work.pageKind != 0 && s.yrw.heldPages.any (fun (k, i, _, l) => k == p.1 && i == p.2 && decide (t.label ≤ l))

/-- No page frame of floret `f` is free: it has 32 (R158). -/
def framesFull (s : State) (f : Nat) : Bool := decide (32 ≤ s.yrw.heldPages.countP (fun h => h.2.2.1 == f))

/-- Kernel `k` is being drained from umbel `u` by a roll (R189). -/
def rollDrains (s : State) (k u : Nat) : Bool :=
  match s.yrw.roll with
  | some r => r.kernel == k && r.draining.contains u
  | none => false

/-- The unit a task offers to floret `f` now: the first one that is ready (R172 to R183). FLORET_TEST tests the floret it names (R161). -/
def readyUnit (s : State) (f : Nat) (t : Task) : Option Nat :=
  if afterPending s t || rollDrains s t.work.kernel (f / 16) || atCap s t.work || t.work.pageKind != 0 && framesFull s f then none
  else t.todo.find? (fun u => (t.work.kernel != 0x06FF || u == f) && !pageWaits s t u && !t.faulted.contains (u, f / 16))

/-- Under the thermal limit no pool floret takes a Background or Idle task that has not wilted (R170). -/
def thermalBars (s : State) (t : Task) : Bool :=
  s.yrw.thermalLimit && !t.wilted && (t.eff == .background || t.eff == .idle)

/-- The first task in order that has a ready unit for floret `f`, with that unit. -/
def firstReady (s : State) (f : Nat) : List Task → Option (Task × Nat)
  | [] => none
  | t :: ts =>
    match readyUnit s f t with
    | some u => if thermalBars s t then firstReady s f ts else some (t, u)
    | none => firstReady s f ts

/-- An umbel runs its reinstatement test, or FLORET_TEST as a spare (R188). -/
def underTest (u : Umbel) : Bool := u.testResult == 3 && (u.phase == .spare || u.phase == .testing)

/-- The floret's grant first, then the pool order (R168, R172); an umbel under test runs its test and nothing else (R188). -/
def chooseTask (s : State) (f : Nat) : Option (Task × Nat) :=
  let order := dispatchOrder s.yrw.tasks
  if underTest (umbel s (f / 16)) then firstReady s f (order.filter (fun t => t.work.kernel == 0x06FF))
  else
    let own := match (Tab.getD s.yrw.florets f {}).grant with
      | some w => (order.filter (fun t => t.work.id == w)).findSome? (fun t => (readyUnit s f t).map (fun u => (t, u)))
      | none => none
    match own with
    | some x => some x
    | none => firstReady s f order

/-- The floret serves the workloads: its umbel is active, powered and not draining, and Yarrow dispatches (R170, R186). -/
def floretServes (s : State) (f : Nat) : Bool :=
  let u := umbel s (f / 16)
  decide (f < 1024) && dataPathUp s && !s.yrw.stopped && !s.yrw.reloading && u.phase == .active && !u.gated &&
    !u.draining && !u.inReset

/-- The floret may take work: the workloads', or its umbel's test (R188). -/
def floretOpen (s : State) (f : Nat) : Bool :=
  floretServes s f ||
    (decide (f < 1024) && s.pwr.computeOn && !s.yrw.stopped && underTest (umbel s (f / 16)) && !(umbel s (f / 16)).inReset)

/-- The floret is open and runs nothing. -/
def floretFree (s : State) (f : Nat) : Bool := floretOpen s f && (Tab.get s.yrw.running f).isNone

/-! ## Pages (R178 to R181) -/

/-- The page of a unit is staged for a task: a prefetched per-tick task's if it was copied in the tick before and has not moved to a
floret since, a per-round or per-event task's among those of its next 16 invocations (R179). -/
def pageStaged (s : State) (t : Task) (unit : Nat) : Bool :=
  t.work.prefetch &&
    (if t.work.cadence = 0 then s.yrw.staged.contains (unitPage t.work unit) else (t.todo.take 16).contains unit)

/-! ## Dispatch and completion -/

/-- A kernel not resident on a floret is loaded from the image cache: the least recently used unpinned kernels make room
(R168). `room` is what is left to give up. -/
def evictFor (s : State) (base : List Nat) (need : Nat) : List Nat → List Nat
  | [] => []
  | k :: ks =>
    let used := ((base ++ (k :: ks)).map (fun i => ((findKernel i).map (·.kib)).getD 0)).foldl (· + ·) 0
    if used + need ≤ 64 then k :: ks else evictFor s base need ks

/-- Residency of a floret after it runs kernel `k` (R168): the three Critical kernels stay pinned. -/
def loadKernel (f k : Nat) (s : State) : State :=
  let x := Tab.getD s.yrw.florets f {}
  let pinned := [0x0501, 0x0502, 0x0503]
  let now' := x.loaded ++ s.yrw.resident.filter (fun i => !pinned.contains i && !x.evicted.contains i && !x.loaded.contains i)
  if pinned.contains k then s
  else
    let others := now'.filter (· != k)
    let kept := (evictFor s pinned ((((findKernel k).map (·.kib)).getD 0)) others.reverse).reverse
    setYrw (fun y => { y with florets := Tab.put y.florets f { x with
      loaded := k :: kept, evicted := s.yrw.resident.filter (fun i => !pinned.contains i && i != k && !kept.contains i) } }) s

/-- A unit's kernel has its effect, with the tables as its tick sees them; run-ahead work takes effect when its tick opens (R13, R104;
log 21). -/
def runUnit (run : Runner) (id unit : Nat) (s : State) : State :=
  match taskById s id with
  | none => s
  | some t =>
    let s := setTask id (fun t => { t with ran := t.ran ++ [unit] }) s
    if t.ahead then s else withTables t.label (run t.work.kernel t.label unit) s

/-- Starts an invocation on floret `f` (R172, R178 to R181): its page moves from staging to a frame; one that is not staged is fetched
first and the invocation stalls. -/
def startInvocation (f : Nat) (t : Task) (unit : Nat) (s : State) : State :=
  let page := unitPage t.work unit
  let stalls := t.work.pageKind != 0 && !pageStaged s t unit
  let newer := match s.yrw.roll with
    | some r => r.kernel == t.work.kernel && r.rolled.contains (f / 16)
    | none => false
  let inv : Invocation := { task := t.id, workload := t.work.id, kernel := t.work.kernel, label := t.label, unit := unit
                            epoch := (umbel s (f / 16)).epoch, newVersion := newer, stalled := stalls
                            page := if t.work.pageKind = 0 then none else some page }
  let s := setTask t.id (fun t => { t with todo := t.todo.erase unit, running := t.running + 1 }) s
  let s := setYrw (fun y => { y with
    running := Tab.put y.running f inv
    staged := if t.work.pageKind = 0 then y.staged else y.staged.erase page
    heldPages := if t.work.pageKind = 0 then y.heldPages else y.heldPages ++ [(page.1, page.2, f, t.label)] }) s
  countWork t.work.id (fun w => { w with
    invocations := w.invocations + 1, pageMisses := w.pageMisses + stalls.toNat }) (loadKernel f t.work.kernel s)

/-- A pre-empted invocation resumes on its floret from the saved point (R173). -/
def resumePreempted (f : Nat) (inv : Invocation) (s : State) : State :=
  setYrw (fun y => { y with
    running := Tab.put y.running f inv
    florets := Tab.upd y.florets f {} (fun x => { x with preempted := x.preempted.drop 1 }) }) s

/-- Place of a running invocation in dispatch order. -/
def invocationKey (s : State) (i : Invocation) : List Nat :=
  match taskById s i.task with
  | some t => t.key
  | none => [4, 0, 0, 0]

/-- A pre-empted invocation may resume: its workload is not at its cap (R165, R173). -/
def mayResume (s : State) (i : Invocation) : Bool := match taskById s i.task with
  | some t => !atCap s t.work
  | none => true

/-- A free floret takes its next work: the pre-empted invocation waiting on it or the first ready one, whichever comes
first in dispatch order (R172, R173). -/
def takeWork (f : Nat) (s : State) : State :=
  match (Tab.getD s.yrw.florets f {}).preempted.head?.filter (mayResume s), chooseTask s f with
  | none, none => s
  | none, some (t, u) => startInvocation f t u s
  | some i, none => resumePreempted f i s
  | some i, some (t, u) =>
    if keyBefore t.key (invocationKey s i) then startInvocation f t u s else resumePreempted f i s

/-- The floret that serves the workloads and whose running invocation is last in dispatch order (R173). -/
def lastRunning (s : State) : Option (Nat × Invocation) :=
  s.yrw.running.foldl (fun best (f, i) =>
    if !floretServes s f then best
    else match best with
      | some (_, j) => if keyBefore (invocationKey s j) (invocationKey s i) then some (f, i) else best
      | none => some (f, i)) none

/-- Takes the running invocation off floret `f` and keeps its saved state there (R173). -/
def saveInvocation (f : Nat) (i : Invocation) (s : State) : State :=
  setYrw (fun y => { y with
    running := Tab.del y.running f
    florets := Tab.upd y.florets f {} (fun x => { x with preempted := i :: x.preempted }) }) s

/-- Places in dispatch order of the Critical invocations that are ready now, in that order (R173). -/
def criticalReady (s : State) : List (List Nat) :=
  (dispatchOrder (s.yrw.tasks.filter (fun t => t.eff == .critical && !afterPending s t))).flatMap (fun t =>
    let n := t.todo.countP (fun u => !pageWaits s t u)
    List.replicate (if t.work.maxFlorets = 0 then n else min n (t.work.maxFlorets - runningOf s t.work.id)) t.key)

/-- Florets that are free for the workloads. -/
def freeFlorets (s : State) : Nat := (List.range 1024).countP (fun f => floretServes s f && (Tab.get s.yrw.running f).isNone)

/-- For each of the Critical invocations, in order, the one that runs last in dispatch order gives way, if it comes later (R173). -/
def preemptMany : List (List Nat) → State → State
  | [], s => s
  | k :: ks, s =>
    match lastRunning s with
    | some (f, i) => if keyBefore k (invocationKey s i) then preemptMany ks (saveInvocation f i s) else s
    | none => s

/-- Ready Critical invocations that find no free floret pre-empt (R173). -/
def preemptForCritical (s : State) : State := preemptMany ((criticalReady s).drop (freeFlorets s)) s

/-- An invocation releases the page it holds on floret `f` (R180). -/
def releasePage (f : Nat) (i : Invocation) (s : State) : State :=
  match i.page with
  | some p => setYrw (fun y => { y with heldPages := y.heldPages.filter (fun (k, n, g, _) => !(g == f && (k, n) == p)) }) s
  | none => s

/-- Ends the run of an invocation on floret `f`: its page is released; those of pre-empted invocations stay (R180). -/
def clearFloret (f : Nat) (s : State) : State :=
  match Tab.get s.yrw.running f with
  | some i => releasePage f i (setYrw (fun y => { y with running := Tab.del y.running f }) s)
  | none => s

/-- What an invocation costs at most: the kernel's cycles, with what LEDGER_ACCOUNT adds for credits, debits and adjustments (R161).
`extra` gives that. -/
abbrev Extra := Nat → Nat → Nat → State → Nat

/-- Cycles an invocation took: a free value up to its cost (R161, R162; log 12: use 20). -/
def drawCycles (extra : Extra) (i : Invocation) (s : State) : Nat × State :=
  draw 20 ((((findKernel i.kernel).map (·.cycles)).getD 0) + extra i.kernel i.label i.unit s + 1) s

/-- The invocation on floret `f` belongs to the umbel's present epoch, and the umbel is not held in reset: only then can it go on or
complete (R186). -/
def liveOn (s : State) (f : Nat) (i : Invocation) : Bool := !(umbel s (f / 16)).inReset && i.epoch == (umbel s (f / 16)).epoch

/-- The invocation on floret `f` completes: last instruction retired, write-backs and writes acknowledged, so that its work stands
(R182). -/
def completeInvocation (run : Runner) (extra : Extra) (f : Nat) (s : State) : State :=
  match Tab.get s.yrw.running f with
  | none => s
  | some i =>
    if i.stalled || !liveOn s f i then s
    else
      let d := drawCycles extra i s
      let back : Bool := match taskById d.2 i.task with
        | some t => t.work.cls == .background || t.work.cls == .idle
        | none => false
      let s := runUnit run i.task i.unit (clearFloret f d.2)
      let s := countWork i.workload (fun w => { w with cycles := w.cycles + d.1 }) s
      let s := setYrw (fun y => { y with
        tickCycles := y.tickCycles + d.1
        backgroundCycles := if back then y.backgroundCycles + d.1 else y.backgroundCycles
        kernelCycles := Tab.upd y.kernelCycles i.kernel 0 (· + d.1) }) s
      sweepTasks (setTask i.task (fun t => { t with running := t.running - 1 }) s)

/-- The invocation goes back to the dispatch order, to start again (R185). -/
def returnInvocation (i : Invocation) (s : State) : State :=
  setTask i.task (fun t => { t with todo := i.unit :: t.todo, running := t.running - 1 }) s

/-- Everything floret `f` holds goes back to the dispatch order, and its pages are released (R185 step 4, R188). -/
def returnHeld (f : Nat) (s : State) : State :=
  let s := match Tab.get s.yrw.running f with
    | some i => returnInvocation i (clearFloret f s)
    | none => s
  let s := (Tab.getD s.yrw.florets f {}).preempted.foldl (fun s i => returnInvocation i s) s
  setYrw (fun y => { y with
    florets := if (Tab.get y.florets f).isSome then Tab.upd y.florets f {} (fun x => { x with preempted := [] }) else y.florets
    heldPages := y.heldPages.filter (fun (_, _, g, _) => g != f) }) s

/-- Everything an umbel holds goes back to the dispatch order. -/
def returnUmbel (u : Nat) (s : State) : State := (List.range 16).foldl (fun s i => returnHeld (16 * u + i) s) s

/-- A page fetched on demand has arrived: the stalled invocation goes on (R181). -/
def pageArrived (f : Nat) (s : State) : State :=
  match Tab.get s.yrw.running f with
  | some i =>
    if i.stalled && liveOn s f i then setYrw (fun y => { y with running := Tab.put y.running f { i with stalled := false } }) s
    else s
  | none => s

/-! ## Task faults (R183, R190) -/

/-- What a skipped unit leaves (R183): HEADROOM, ALLOT and CAN_SETPOINT make the tick's limits stale, GPHY_MODEM, V2G_STACK and
TLS_RECORD lose that tick's samples or records, NFC_READER restarts the card transaction (R458 of 13). An invocation has its effect when it completes, so that a skipped unit has had none. -/
def skipEffect (kernel unit : Nat) (s : State) : State :=
  if kernel = 0x0501 || kernel = 0x0502 || kernel = 0x0503 then { s with chg := { s.chg with skipped := true } }
  else if kernel = 0x0504 || kernel = 0x0505 || kernel = 0x0506 then
    let lose (l : VehicleLine) : VehicleLine :=
      if kernel = 0x0504 then { l with rx := [] } else if kernel = 0x0505 then { l with received := [] } else { l with inbound := [] }
    { s with chg := { s.chg with points := modAt s.chg.points unit (fun x => { x with line := lose x.line }) } }
  else if kernel = 0x0507 then
    { s with chg := { s.chg with readers := modAt s.chg.readers unit (fun r => { r with step := .idle }) } }
  else s

/-- A second fault on a unit in one period skips it: a class-C report (R183). -/
def skipUnit (t : Task) (unit : Nat) (s : State) : State :=
  let s := countWork t.work.id (fun w => { w with skipped := w.skipped + 1 }) s
  reportFault 0x33 3 (skipEffect t.work.kernel unit s)

/-- The new version's task faults reaching fault_limit stop the roll (R190). -/
def rollFault (s : State) : State :=
  match s.yrw.roll with
  | some r =>
    let r := { r with faults := r.faults + 1 }
    setYrw (fun y => { y with roll := some { r with reverting := r.reverting || decide (r.faultLimit ≤ r.faults) } }) s
  | none => s

/-- The invocation on floret `f` ends as a task fault, by its watchdog, an access outside what is its own, or an uncorrectable error; what it
wrote is dropped, its unit runs again once on another umbel, a second fault skips it
(R183). -/
def taskFault (f : Nat) (s : State) : State :=
  match Tab.get s.yrw.running f with
  | none => s
  | some i =>
    let s := clearFloret f s
    let s := countWork i.workload (fun w => { w with taskFaults := w.taskFaults + 1 }) s
    let s := if i.newVersion then rollFault s else s
    match taskById s i.task with
    | none => s
    | some t =>
      if t.faulted.any (fun x => x.1 == i.unit) then
        sweepTasks (setTask t.id (fun t => { t with running := t.running - 1 }) (skipUnit t i.unit s))
      else
        setTask t.id (fun t => { t with
          todo := i.unit :: t.todo, running := t.running - 1, faulted := t.faulted ++ [(i.unit, f / 16)] }) s

/-! ## Release (R166, R104) -/

/-- Microseconds of uptime at the start of the current tick. -/
def nowUs (s : State) : Nat := 1000 * s.time.uptime

/-- Releases a task of a workload with the given units, and reports an undersized workload (R166). -/
def releaseTask (w : Workload) (label : Nat) (units : List Nat) (ahead : Bool) (s : State) : State :=
  if units.isEmpty then s
  else
    let start := nowUs s + (if ahead then 1000 else 0)
    let t : Task := { id := s.yrw.nextTask, work := w, eff := w.cls, label := label, releasedUs := nowUs s
                      deadlineUs := start + w.deadlineUs, todo := units, ahead := ahead }
    let s := setYrw (fun y => { y with tasks := y.tasks ++ [t], nextTask := y.nextTask + 1 }) s
    if w.units < units.length then
      raiseEvent 0x0303 w.id true (le 4 w.units ++ le 4 units.length ++ zeros 8) (reportFault 0x33 2 s)
    else s

/-- Kernels that write ledger state, which no field-only tick runs (R96 of 04). -/
def ledgerKernel (k : Nat) : Bool := k = 0x0201 || k = 0x0202

/-- Releases the per-tick task of a workload; units already taken by run-ahead work that became the tick's own are not
released again (R104, R166). -/
def releaseTickTask (unitsOf : UnitsOf) (label : Nat) (s : State) (w : Workload) : State :=
  let units := unitsOf w.kernel label s
  match s.yrw.tasks.find? (fun t => t.work.id == w.id && t.label == label) with
  | some t => setTask t.id (fun t => { t with todo := t.todo ++ (units.filter (fun u => !t.ran.contains u && !t.todo.contains u)) }) s
  | none => releaseTask w label units false s

/-- Releases the per-tick tasks of a tick, those of the ledger kernels only in a ledger tick (R96, R166). -/
def releaseTick (unitsOf : UnitsOf) (label : Nat) (ledger : Bool) (s : State) : State :=
  (s.yrw.workloads.filter (fun w => w.cadence == 0 && (ledger || !ledgerKernel w.kernel))).foldl
    (releaseTickTask unitsOf label) s

/-- Releases the per-round tasks at the first tick of a round (R166). -/
def releaseRound (unitsOf : UnitsOf) (label : Nat) (s : State) : State :=
  (s.yrw.workloads.filter (fun w => w.cadence == 1)).foldl
    (fun s w => releaseTask w label (unitsOf w.kernel label s) false s) s

/-- Page frames of staging: 256 for every umbel that is active and powered (R158, R179). -/
def stagingRoom (s : State) : Nat := 256 * ((umbelsIn s .active).filter (fun u => !(umbel s u).gated)).length

/-- The pages of tick `label`'s invocations, which the tick before stages as far as there is room (R179). -/
def stagePages (unitsOf : UnitsOf) (label : Nat) (s : State) : State :=
  let pages := (s.yrw.workloads.filter (fun w => w.cadence == 0 && w.prefetch && w.pageKind != 0)).flatMap
    (fun w => ((unitsOf w.kernel label s).map (unitPage w)).eraseDups)
  setYrw (fun y => { y with staged := pages.take (stagingRoom s) }) s

/-- The rate index of every plan at a Gliris time (R105 item 4). -/
def rateIndexes (trust : Trust) (label : Nat) (s : State) : List (Nat × Nat) :=
  s.led.tariff.plans.map (fun p => (p.id, (resolveNow s trust p.id label).1))

/-- Run-ahead is permitted now: the current tick was a ledger tick and has closed, and the next lies at most 2 beyond the
oldest uncommitted tick (R104). -/
def aheadPermitted (s : State) : Bool :=
  let m := now s + 1
  !s.led.fieldOnly && s.led.frozenAt.isNone && s.time.holdRemaining ≤ 1 && s.yrw.ahead.isNone &&
    !s.led.ticks.any (fun t => t.label == now s && t.phase == .opened) &&
    (match s.led.ticks with
     | t :: _ => decide (m ≤ t.label + 2)
     | [] => frontier s == now s)

/-- Releases run-ahead work for the next tick: the sweep slice, whose inputs are the records (R104; R19 of 01; log 21). -/
def releaseAhead (unitsOf : UnitsOf) (s : State) : State :=
  if aheadPermitted s then
    let m := now s + 1
    let ws := s.yrw.workloads.filter (fun w => w.cadence == 0 && w.runahead && w.cls == .tick && w.kernel == 0x0201)
    let s := setYrw (fun y => { y with ahead := some {
      label := m, trust := s.time.tickTrust, rates := rateIndexes s.time.tickTrust m s } }) s
    ws.foldl (fun s w => releaseTask w m (unitsOf w.kernel m s) true s) s
  else s

/-- Drops tasks and what of them runs, as for an aborted tick or discarded run-ahead (R99, R105). -/
def dropTasks (p : Task → Bool) (s : State) : State :=
  let gone := (s.yrw.tasks.filter p).map (·.id)
  setYrw (fun y => { y with
    tasks := y.tasks.filter (fun t => !p t)
    heldPages := y.heldPages.filter (fun (_, _, f, _) => match Tab.get y.running f with
      | some i => !gone.contains i.task
      | none => true)
    running := y.running.filter (fun (_, i) => !gone.contains i.task)
    florets := y.florets.map (fun (f, x) => (f, { x with preempted := x.preempted.filter (fun i => !gone.contains i.task) })) }) s

/-- Tick `label` opens: the run-ahead work done for it is discarded if a test of R105 fails, and otherwise becomes its
own. `aborted` says that an older tick was aborted since; `ledger` that the tick is a ledger tick. -/
def settleAhead (run : Runner) (label : Nat) (ledger aborted : Bool) (s : State) : State :=
  match s.yrw.ahead with
  | none => s
  | some a =>
    let s := setYrw (fun y => { y with ahead := none }) s
    let keep := ledger && !aborted && a.label == label && a.trust == s.time.tickTrust &&
      a.rates == rateIndexes s.time.tickTrust label s
    let mine := s.yrw.tasks.filter (·.ahead)
    if keep then
      let s := setYrw (fun y => { y with tasks := y.tasks.map (fun t => { t with ahead := false }) }) s
      mine.foldl (fun s t => t.ran.foldl (fun s u => run t.work.kernel label u s) s) s
    else
      let s := dropTasks (·.ahead) s
      if mine.isEmpty then s else { s with led := { s.led with runaheadDiscards := (s.led.runaheadDiscards + 1) % 2 ^ 32 } }

/-! ## Dispatch -/

/-- INVOCATION_DISPATCH: the floret takes the next ready invocation; a busy floret is freed first where a Critical one
finds none free (R172, R173). -/
def dispatch (unitsOf : UnitsOf) (f : Nat) (s : State) : State :=
  if !floretOpen s f then s
  else
    let s := preemptForCritical s
    if !floretFree s f then s
    else
      let s := if (chooseTask s f).isNone && floretServes s f then releaseAhead unitsOf s else s
      takeWork f s

/-! ## Wilting and deadlines (R175 to R177) -/

/-- The slack of a task lies below its margin at `us` microseconds into the tick (R175), in exact arithmetic: 1562.5 cycles a µs. -/
def wiltDue (s : State) (us : Nat) (t : Task) : Bool :=
  let n := t.todo.length + t.running
  let cost := ((findKernel t.work.kernel).map (·.cycles)).getD 0
  let room : Int := (t.deadlineUs : Int) - ((nowUs s + us : Nat) : Int) - (t.work.wiltMarginUs : Int)
  t.work.wiltMarginUs != 0 && !t.wilted && decide (room * (3125 * (t.work.wiltWidth : Int)) < ((2 * n * cost : Nat) : Int))

/-- A task wilts: one class up, once (R175, R176). -/
def wiltTask (t : Task) (s : State) : State :=
  let s := setTask t.id (fun t => { t with eff := t.work.cls.above, wilted := true }) s
  countWork t.work.id (fun w => { w with wilts := w.wilts + 1 }) (setYrw (fun y => { y with wilts := y.wilts + 1 }) s)

/-- Evaluates every uncompleted task at a tick start (R175). -/
def wiltAll (s : State) : State := (s.yrw.tasks.filter (wiltDue s 0)).foldl (fun s t => wiltTask t s) s

/-- A task still incomplete at its deadline: a class-C report and DEADLINE_MISS; it goes on (R177). The overrun is a free
value (log 12: use 21). -/
def deadlineMiss (workload : Nat) (s : State) : State :=
  match s.yrw.tasks.find? (fun t => t.work.id == workload && !t.missed && !t.done && decide (t.deadlineUs ≤ nowUs s + 1000)) with
  | none => s
  | some t =>
    let s := setTask t.id (fun t => { t with missed := true }) s
    let s := countWork workload (fun w => { w with deadlineMisses := w.deadlineMisses + 1 }) s
    let s := setYrw (fun y => { y with misses := y.misses + 1 }) s
    let d := draw 21 (2 ^ 32) s
    raiseEvent 0x0301 workload true (le 1 t.work.cls.code ++ le 1 t.eff.code ++ zeros 2 ++ le 4 d.1 ++ le 8 t.label)
      (reportFault 0x33 1 d.2)

/-- A slice boundary of the invocation on floret `f`, `us` microseconds into the tick: its task's slack is evaluated; on a draining umbel
what the floret holds goes back to the order; otherwise an earlier waiting task takes the floret (R172, R173, R175, R188). -/
def sliceBoundary (f us : Nat) (s : State) : State :=
  match Tab.get s.yrw.running f with
  | none => s
  | some i =>
    if !liveOn s f i then s
    else
      let s := match taskById s i.task with
        | some t => if wiltDue s us t then wiltTask t s else s
        | none => s
      if (umbel s (f / 16)).draining then returnHeld f s
      else if !floretOpen s f then s
      else
        match chooseTask s f with
        | some (t, u) =>
          if keyBefore t.key (invocationKey s i) then startInvocation f t u (saveInvocation f i s) else s
        | none => s

/-! ## Allocation of a round (R168 to R171) -/

/-- Florets of the active umbels that are powered, spread across umbels. -/
def activeFlorets (s : State) : List Nat :=
  let us := (umbelsIn s .active).filter (fun u => !(umbel s u).gated)
  (List.range 16).flatMap (fun i => us.map (fun u => 16 * u + i))

/-- Workloads in order of class, then rank (R168). -/
def byClassRank (ws : List Workload) : List Workload :=
  ws.foldl (fun acc w => acc.takeWhile (fun x => !keyBefore [w.cls.code, w.rank] [x.cls.code, x.rank]) ++ [w] ++
    acc.dropWhile (fun x => !keyBefore [w.cls.code, w.rank] [x.cls.code, x.rank])) []

/-- Grants of the workloads of a class reduced in proportion to what is left (R169; log 20: rounded down). -/
def scaled (part whole n : Nat) : Nat := if whole = 0 then 0 else n * part / whole

/-- The grant of each workload this round, and the reductions of R169: 0 none, 1 reduced, 2 Critical above all florets. -/
def roundGrants (ws : List Workload) (active : Nat) : List (Nat × Nat) × Nat :=
  let total (c : KClass) := sumMin (ws.filter (fun w => w.cls == c))
  if sumMin ws ≤ active then (ws.map (fun w => (w.id, w.minFlorets)), 0)
  else if active < total .critical then
    (ws.map (fun w => (w.id, if w.cls = .critical then w.minFlorets else 0)), 2)
  else
    let c := total .critical
    let t := total .tick
    let b := total .background
    let tick := min t (active - c)
    let back := min b (active - c - tick)
    (ws.map (fun w => (w.id, match w.cls with
      | .critical => w.minFlorets
      | .tick => scaled tick t w.minFlorets
      | .background => scaled back b w.minFlorets
      | .idle => 0)), 1)

/-- Takes up to `n` florets from a list, at most `lim` of any one umbel: taken and left (R168). -/
def takeSpread (lim : Nat) : Nat → List Nat → List Nat → List Nat → List Nat × List Nat
  | 0, fs, got, left => (got, left ++ fs)
  | _ + 1, [], got, left => (got, left)
  | n + 1, f :: fs, got, left =>
    if got.countP (fun g => g / 16 == f / 16) < lim then takeSpread lim n fs (got ++ [f]) left
    else takeSpread lim (n + 1) fs got (left ++ [f])

/-- Grants florets to workloads in order (R168). -/
def grantAll (umbels : Nat) (grants : List (Nat × Nat)) : List Workload → List Nat → Table Floret → Table Floret
  | [], _, t => t
  | w :: ws, fs, t =>
    let n := ((grants.find? (fun g => g.1 == w.id)).map (·.2)).getD 0
    let r := takeSpread (ceilDiv n (max umbels 1) + 1) n fs [] []
    grantAll umbels grants ws r.2 (r.1.foldl (fun t f => Tab.upd t f {} (fun x => { x with grant := some w.id })) t)

/-- Adds kernels in order beside those resident, as long as the total stays within 64 KiB (R168). -/
def fillResident (used : Nat) : List Nat → List Nat
  | [] => []
  | k :: ks =>
    let n := used + ((findKernel k).map (·.kib)).getD 64
    if 64 < n then [] else k :: fillResident n ks

/-- The pinned Critical kernels, of 22 KiB, and the others by descending cycles of the previous round while the total is at most 64 KiB
(R168). -/
def residentKernels (cycles : Table Nat) : List Nat :=
  let pinned := [0x0501, 0x0502, 0x0503]
  let sorted := cycles.foldl (fun acc (k, c) => acc.takeWhile (fun (_, d) => c ≤ d) ++ [(k, c)] ++ acc.dropWhile (fun (_, d) => c ≤ d)) []
  pinned ++ fillResident 22 ((sorted.map (·.1)).filter (fun k => !pinned.contains k))

/-- Umbels that Lean powers (R170). -/
def leanUmbels (s : State) : Nat :=
  max (max (ceilDiv (sumMin s.yrw.workloads) 16) (ceilDiv (3 * s.yrw.prevPeakCycles) 50000000)) 4

/-- Power-gates the umbels that Lean does not need, and all spares; Full gates none (R170). -/
def gateUmbels (s : State) : State :=
  let lean := s.pwr.mode == .lean
  let act := umbelsIn s .active
  let on := if lean then act.take (leanUmbels s) else act
  setYrw (fun y => { y with
    leanGating := lean
    umbels := y.umbels.zipIdx.map (fun (u, i) => match u.phase with
      | .active => { u with gated := !on.contains i }
      | .spare => { u with gated := lean }
      | _ => u) }) s

/-- The allocation of a round (R168 to R170), after the round's measures are closed. -/
def allocateRound (s : State) : State :=
  let s := setYrw (fun y => { y with
    prevPeakCycles := y.peakCycles, peakCycles := 0
    prevKernelCycles := y.kernelCycles, kernelCycles := []
    prevWilts := y.wilts, wilts := 0, prevMisses := y.misses, misses := 0
    prevBackground := y.backgroundCycles, backgroundCycles := 0
    umbels := y.umbels.map (fun u => { u with sramErrors := 0 }) }) s
  let s := gateUmbels s
  let ws := byClassRank s.yrw.workloads
  let fs := activeFlorets s
  let umbels := ((umbelsIn s .active).filter (fun u => !(umbel s u).gated)).length
  let g := roundGrants ws fs.length
  let before := s.yrw.grantsReduced
  let kept := (s.yrw.florets.filter (fun (_, x) => !x.preempted.isEmpty)).map
    (fun (f, x) => (f, { preempted := x.preempted : Floret }))
  let s := setYrw (fun y => { y with
    florets := grantAll umbels g.1 ws fs kept
    resident := residentKernels y.prevKernelCycles
    grantsReduced := g.2 != 0
    thermalLimit := s.pwr.thermal.contains .glc103 }) s
  if g.2 = 2 then reportFault 0x31 1 s
  else if g.2 = 1 then raiseFault 0x32 1 s
  else if before && !s.yrw.spareShort then endFault 0x32 s
  else s

/-- In Lean a Tick overrun ungates the gated ACTIVE umbels until the next round start (R171). -/
def ungateUmbels (s : State) : State :=
  if s.pwr.mode = .lean then
    setYrw (fun y => { y with umbels := y.umbels.map (fun u => if u.phase = .active then { u with gated := false } else u) }) s
  else s

/-! ## Ticks -/

/-- The closure set of a tick has finished: its Critical and Tick tasks (R98, R176). -/
def closureDone (s : State) (label : Nat) : Bool :=
  s.yrw.tasks.all (fun t => !(t.label == label && (t.work.cls == .critical || t.work.cls == .tick) && !t.done))

/-- The remaining work of a tick unclosed at its end is promoted to Critical (R98). -/
def promoteTick (label : Nat) (s : State) : State :=
  setYrw (fun y => { y with tasks := y.tasks.map (fun t =>
    if t.label = label && t.work.cls = .tick && t.work.cadence = 0 then { t with eff := .critical, promoted := true } else t) }) s

/-- A tick starts: the peak of the tick before is kept (R170). -/
def closeTickCycles (s : State) : State :=
  setYrw (fun y => { y with peakCycles := max y.peakCycles y.tickCycles, tickCycles := 0 }) s

end Sys2Proof.Machine
end

