-- ==== Sys2Proof/Machine/Umbels.lean ====
section
/-!
DEFINITION. Umbel health, fencing, spares, and the rolling kernel update. Chapter 06 of the spec (R184 to R191, R193).
-/

namespace Sys2Proof.Machine

/-- Code of an umbel state (R193). -/
def UmbelPhase.code : UmbelPhase → Nat
  | .active => 0 | .spare => 1 | .fenced => 2 | .testing => 3 | .retired => 4

/-- UMBEL_STATE (R193). Causes: 0 command, 1 heartbeat, 2 stale epoch, 3 SRAM error, 4 test failure, 5 spare restore. -/
def umbelGoto (u : Nat) (p : UmbelPhase) (cause : Nat) (s : State) : State :=
  let old := (umbel s u).phase
  let s := setUmbel u (fun x => { x with phase := p }) s
  raiseEvent 0x0300 u false (le 1 p.code ++ le 1 old.code ++ le 1 cause ++ zeros 1 ++ le 4 (umbel s u).epoch ++
    le 8 (umbel s u).staleWrites) s

/-! ## The test of an umbel (R188) -/

/-- A test starts: FLORET_TEST on each of the umbel's 16 florets, an event each (R161, R166, R188). -/
def startUmbelTest (u : Nat) (s : State) : State :=
  let s := setUmbel u (fun x => { x with testResult := 3 }) s
  match s.yrw.workloads.find? (fun w => w.kernel == 0x06FF) with
  | some w => (List.range 16).foldl (fun s i => releaseTask w (now s) [16 * u + i] false s) s
  | none => s

/-- A test ends, whatever of it still runs. -/
def endUmbelTest (u : Nat) (s : State) : State :=
  let of (t : Task) : Bool := t.work.kernel == 0x06FF &&
    (t.todo.any (fun f => f / 16 == u) || s.yrw.running.any (fun e => e.2.task == t.id && e.1 / 16 == u))
  dropTasks of s

/-- Deaths of an umbel in the last 24 h (R188). -/
def deaths24 (s : State) (u : Nat) : Nat :=
  (umbel s u).deaths.countP (fun d => s.time.uptime < d + 86400000)

/-- The dead umbel's grants and residency go to the spare that replaces it (R188). -/
def moveGrants (u v : Nat) (s : State) : State :=
  (List.range 16).foldl (fun s i =>
    let x := Tab.getD s.yrw.florets (16 * u + i) {}
    setYrw (fun y => { y with
      florets := Tab.put (Tab.put y.florets (16 * v + i) { grant := x.grant, loaded := x.loaded, evicted := x.evicted })
        (16 * u + i) { x with grant := none } }) s) s

/-- The lowest-numbered SPARE umbel becomes ACTIVE at once (R188). -/
def insertSpare (dead : Nat) (s : State) : State :=
  match umbelsIn s .spare with
  | [] => s
  | v :: _ => moveGrants dead v (umbelGoto v .active 5 (setUmbel v (fun x => { x with gated := false }) s))

/-- A death condition (R184, R185, R188): a class-B fault; the fence epoch is raised everywhere, the umbel is held in reset
and a spare takes its place; an umbel under test is retired. An injected one does not count among the deaths (R546 of 16). -/
def umbelDeathBy (injected : Bool) (u cause : Nat) (s : State) : State :=
  let x := umbel s u
  match x.phase with
  | .fenced => s
  | .retired => s
  | .testing =>
    umbelGoto u .retired cause (setUmbel u (fun x => { x with testResult := 2 }) (endUmbelTest u (reportWith 0x30 1 injected s)))
  | _ =>
    let s := endUmbelTest u (reportWith 0x30 1 injected s)
    let s := setUmbel u (fun x => { x with
      epoch := (x.epoch + 1) % 2 ^ 32, inReset := true, staleWrites := 0, draining := false
      deaths := x.deaths.filter (fun d => s.time.uptime < d + 86400000) ++ (if injected then [] else [s.time.uptime])
      lastCause := cause, lastDeathTick := now s
      testResult := if x.testResult = 3 then 2 else x.testResult }) s
    let s := umbelGoto u .fenced cause s
    if x.phase = .active then insertSpare u s else s

/-- A death condition that was not injected. -/
def umbelDeath (u cause : Nat) (s : State) : State := umbelDeathBy false u cause s

/-- A heartbeat arrives (R184, R186): on an ACTIVE or SPARE umbel it must carry the epoch and the next sequence number;
elsewhere it is counted and reported only. -/
def heartbeat (u epoch seq : Nat) (s : State) : State :=
  let x := umbel s u
  if 64 ≤ u then s
  else match x.phase with
  | .active =>
    if epoch ≠ x.epoch then umbelDeath u 2 s
    else if seq ≠ x.hbNext then umbelDeath u 1 s
    else setUmbel u (fun x => { x with hbNext := seq + 1, missed := 0 }) s
  | .spare =>
    if epoch ≠ x.epoch then umbelDeath u 2 s
    else if seq ≠ x.hbNext then umbelDeath u 1 s
    else setUmbel u (fun x => { x with hbNext := seq + 1, missed := 0 }) s
  | _ => raiseFault 0x34 1 (setUmbel u (fun x => { x with staleBeats := x.staleBeats + 1 }) s)

/-- Every endpoint confirms that no request of a fenced umbel is in flight: its invocations return to the dispatch order, in whatever state
the umbel is by then (R185 steps 3 and 4). -/
def fenceDrained (u : Nat) (s : State) : State :=
  if (umbel s u).inReset then setUmbel u (fun x => { x with inReset := false }) (returnUmbel u s) else s

/-- A request with an umbel's former epoch reaches an endpoint: a death condition on a live umbel; otherwise a write is
dropped and counted and a read is poisoned (R185, R186, R188). -/
def staleRequest (u epoch : Nat) (write : Bool) (s : State) : State :=
  let x := umbel s u
  if 64 ≤ u || epoch = x.epoch then s
  else if x.phase = .active || x.phase = .spare then umbelDeath u 2 s
  else if write then setUmbel u (fun x => { x with staleWrites := x.staleWrites + 1 }) s
  else s

/-- An uncorrectable floret-SRAM error: the invocation ends as a task fault; the second in the umbel in one round kills it
(R158). -/
def floretErrorBy (injected : Bool) (f : Nat) (s : State) : State :=
  let s := setUmbel (f / 16) (fun x => { x with sramErrors := x.sramErrors + 1 }) (taskFault f s)
  if 2 ≤ (umbel s (f / 16)).sramErrors then umbelDeathBy injected (f / 16) 3 s else s

/-- A parity error of floret `f`'s code: the kernel is loaded anew and the invocation restarts on the same floret, which leaves its place
as it is, for it has had no effect yet (R207 of 07). -/
def codeError (f : Nat) (s : State) : State :=
  match Tab.get s.yrw.running f with
  | some i => loadKernel f i.kernel s
  | none => s

/-- An error found in the SRAM of floret `f`, or of its umbel: 0 an uncorrectable one of the floret's data, 1 a corrected one, 2 a parity
error of its code, 3 an uncorrectable one of umbel SRAM or agent state, which is a death condition. One that an injection makes is of the
injection's kind (R158, R184; R207 of 07, R545 of 16). -/
def floretError (f kind : Nat) (s : State) : State :=
  let corrected := setUmbel (f / 16) (fun x => { x with sramCorrected := x.sramCorrected + 1 })
  if 1024 ≤ f then s
  else if kind = 2 then codeError f s
  else if kind = 3 then umbelDeath (f / 16) 3 s
  else
    match takeInjection 1 (fun i => i.place == f) s with
    | (some i, s) => if i.mode = 0 then corrected s else floretErrorBy true f s
    | (none, s) => if kind = 1 then corrected s else floretErrorBy false f s

/-- An umbel that drains towards retirement is retired once nothing runs on it; what is pre-empted on a floret that runs nothing goes back
to the dispatch order (R188). -/
def retireDrained (u : Nat) (s : State) : State :=
  if !(umbel s u).draining then s
  else
    let s := (List.range 16).foldl (fun s i =>
      if (Tab.get s.yrw.running (16 * u + i)).isNone then returnHeld (16 * u + i) s else s) s
    if (List.range 16).any (fun i => (Tab.get s.yrw.running (16 * u + i)).isSome) then s
    else umbelGoto u .retired 0 (setUmbel u (fun x => { x with draining := false }) s)

/-! ## Rolling update (R189 to R191) -/

/-- Umbels a roll may take: not FENCED, TESTING or RETIRED, the spares last (R189). -/
def rollOrder (s : State) : List Nat := umbelsIn s .active ++ umbelsIn s .spare

/-- ROLL_STEP (R193). -/
def rollEvent (r : Roll) (phase u : Nat) (s : State) : State :=
  raiseEvent 0x0302 r.kernel true (le 1 phase ++ le 1 u ++ le 2 r.version ++ le 4 r.faults ++ zeros 8) s

/-- Completion payload of a roll (R199). -/
def rollPayload (r : Roll) : Bytes := le 2 r.version ++ le 2 r.rolled.length ++ le 4 r.faults

/-- Ends a roll with its completion, and that of the request to revert it (R199). -/
def rollEnd (r : Roll) (s : State) : State :=
  let s := complete r.ref stOk 0 (rollPayload r) (setYrw (fun y => { y with roll := none }) s)
  match r.revertRef with
  | some q => complete q stOk 0 (rollPayload r) s
  | none => s

/-- Bank B is the active bank: valid with the higher bank_seq (R213 of 07). -/
def activeB (s : State) : Bool := s.mem.bankB.valid && (!s.mem.bankA.valid || decide (s.mem.bankA.seq < s.mem.bankB.seq))
/-- The active and the build bank (R213 of 07, R594 of 18). -/
def activeBank (s : State) : Bank := if activeB s then s.mem.bankB else s.mem.bankA
def buildBank (s : State) : Bank := if activeB s then s.mem.bankA else s.mem.bankB

/-- Changes the build bank. -/
def setBuildBank (f : Bank → Bank) (s : State) : State :=
  { s with mem := if activeB s then { s.mem with bankA := f s.mem.bankA } else { s.mem with bankB := f s.mem.bankB } }

/-- kernel_set_id: the first 4 bytes of the SHA-256 over the image hashes of MET_CHANNEL, LEDGER_ACCOUNT, LEDGER_LOCAL, the
metrology firmware and the satellite firmware (R271 of 08). -/
def kernelSetOf (s : State) : Nat :=
  ofLe ((sha256 ([0x0401, 0x0201, 0x0202].flatMap (fun k => pad 32 (kernelVersion s k).hash) ++
    [3, 4].flatMap (fun t => pad 32 (Tab.getD s.svc.glf t {}).hash))).take 4)

/-- A change of the sealed kernel set is audited (R273 of 08). -/
def settleKernelSet (s : State) : State :=
  let id := kernelSetOf s
  if id = s.yrw.kernelSetId then s
  else audit 9 0xFF 0 (le 4 id) (setYrw (fun y => { y with kernelSetId := id }) s)

/-- Every umbel runs the new image: the catalogue names it, and it is written into the build bank's kernel catalogue area
(R189; R595 of 18). -/
def rollFinish (r : Roll) (s : State) : State :=
  let security := ((Tab.get (buildBank s).staged r.slot).map (·.security)).getD 0
  let s := setBuildBank (fun b => { b with
    kernels := Tab.put b.kernels r.kernel { version := r.version, security := security, hash := r.hash } }) s
  let s := setYrw (fun y => { y with catalogue := Tab.put y.catalogue r.kernel { version := r.version, hash := r.hash } }) s
  let s := if ((findKernel r.kernel).map (·.isSealed)).getD false then settleKernelSet s else s
  rollEnd r (rollEvent r 3 0xFF s)

/-- The image that a roll writes into an image cache is the one it was started with, and its SHA-256 is right: otherwise it is not loaded,
and an umbel keeps the version it had (R160). -/
def rollImageGood (r : Roll) (s : State) : Bool := match Tab.get (buildBank s).staged r.slot with
  | some i => i.hashGood && i.kernel == r.kernel && i.hash == r.hash
  | none => false

/-- Umbels whose invocations of the kernel have drained are loaded and dispatched at the new version (R189); none is once the roll is to be
reverted (R190). -/
def rollLoad (s : State) : State :=
  match s.yrw.roll with
  | none => s
  | some r =>
    if r.reverting then s
    else
      let clear (u : Nat) : Bool := (List.range 16).all (fun i =>
        (match Tab.get s.yrw.running (16 * u + i) with
         | some inv => inv.kernel != r.kernel
         | none => true) &&
        (Tab.getD s.yrw.florets (16 * u + i) {}).preempted.all (fun inv => inv.kernel != r.kernel))
      let ready := r.draining.filter clear
      let left := r.draining.filter (fun u => !ready.contains u)
      if ready.isEmpty then s
      else if !rollImageGood r s then setYrw (fun y => { y with roll := some { r with draining := left } }) s
      else
        let r := { r with rolled := r.rolled ++ ready, draining := left }
        let s := ready.foldl (fun s u => rollEvent r 0 u s) (setYrw (fun y => { y with roll := some r }) s)
        if r.draining.isEmpty && (rollOrder s).all (fun u => r.rolled.contains u) then rollFinish r s else s

/-- A roll at a round start (R189 to R191): it is reverted, or the next umbels drain; with canary rounds the first umbel goes alone. -/
def rollRound (s : State) : State :=
  match s.yrw.roll with
  | none => s
  | some r =>
    if r.reverting then
      let s := if r.faultLimit ≤ r.faults then reportFault 0x32 3 s else s
      rollEnd r (rollEvent r 2 0xFF s)
    else if r.paused then s
    else if ((findKernel r.kernel).map (·.isSealed)).getD false then
      if sealClosed s 2 then complete r.ref stDeniedSeal 2 [] (setYrw (fun y => { y with roll := none }) s)
      else if rollImageGood r s then rollFinish { r with rolled := rollOrder s } s
      else s
    else if r.started && 0 < r.canary && r.rolled.isEmpty && !r.draining.isEmpty then s
    else if 0 < r.canaryLeft then setYrw (fun y => { y with roll := some { r with canaryLeft := r.canaryLeft - 1 } }) s
    else
      let n := if r.rolled.isEmpty && 0 < r.canary then 1 else r.perRound
      let next := ((rollOrder s).filter (fun u => !r.rolled.contains u && !r.draining.contains u)).take n
      if next.isEmpty then (if r.draining.isEmpty then rollFinish r s else s)
      else
        let r := { r with draining := r.draining ++ next, started := true, canaryLeft := if r.started then 0 else r.canary }
        rollLoad (setYrw (fun y => { y with roll := some r }) s)

/-- A reinstated umbel receives the version its number has reached in a roll (R190). -/
def rollReinstate (u : Nat) (s : State) : State :=
  match s.yrw.roll with
  | some r =>
    if r.rolled.any (fun v => u ≤ v) && !r.rolled.contains u then
      setYrw (fun y => { y with roll := some { r with rolled := r.rolled ++ [u] } }) s
    else s
  | none => s

/-! ## Tests and spares (R188) -/

/-- The reinstatement test or FLORET_TEST of an umbel ends (R188). A reinstated umbel has a new epoch, and nothing that it held before its
fence is used (R186). -/
def testResult (u : Nat) (passed : Bool) (s : State) : State :=
  let x := umbel s u
  match x.phase with
  | .testing =>
    let s := endUmbelTest u s
    if passed then
      let s := if x.inReset then returnUmbel u s else s
      let s := setUmbel u (fun x => { x with epoch := (x.epoch + 1) % 2 ^ 32, testResult := 1, hbNext := 0, missed := 0
                                             sramErrors := 0, inReset := false }) s
      rollReinstate u (umbelGoto u .spare 5 s)
    else umbelGoto u .retired 4 (setUmbel u (fun x => { x with testResult := 2 }) s)
  | .spare =>
    if x.testResult = 3 then
      if passed then setUmbel u (fun x => { x with testResult := 1 }) (endUmbelTest u s) else umbelDeath u 4 s
    else s
  | _ => s

/-- Fenced umbels at a round start: tested again, or retired (R188). -/
def reinstateFenced (s : State) : State :=
  (umbelsIn s .fenced).foldl (fun s u =>
    if s.yrw.autoReinstate && deaths24 s u < 3 then
      startUmbelTest u (umbelGoto u .testing 5 s)
    else umbelGoto u .retired 5 s) s

/-- Makes the highest-numbered ACTIVE umbels spares while the count is short and Σ min_florets fits (R188). -/
def makeSpares : List Nat → State → State
  | [], s => s
  | u :: us, s =>
    let act := umbelsIn s .active
    if (umbelsIn s .spare).length < s.yrw.spares && sumMin s.yrw.workloads ≤ 16 * (act.length - 1) then
      makeSpares us (umbelGoto u .spare 5 s)
    else s

/-- Makes spares ACTIVE while Σ min_florets needs them (R188). -/
def useSpares : List Nat → State → State
  | [], s => s
  | u :: us, s =>
    if 16 * (umbelsIn s .active).length < sumMin s.yrw.workloads then useSpares us (umbelGoto u .active 5 s) else s

/-- Restores the spare count at a round start; a short count is a class-C fault while it lasts (R188). -/
def restoreSpares (s : State) : State :=
  let s := reinstateFenced s
  let s := useSpares (umbelsIn s .spare) s
  let s := makeSpares (umbelsIn s .active).reverse s
  let short : Bool := decide ((umbelsIn s .spare).length < s.yrw.spares)
  let was := s.yrw.spareShort
  let s := setYrw (fun y => { y with spareShort := short }) s
  if short then (if was then s else raiseFault 0x32 2 s)
  else if was && !s.yrw.grantsReduced then endFault 0x32 s
  else s

/-- YRW_SPARES takes effect at its round start (R197). -/
def applySpares (s : State) : State :=
  match s.yrw.pendingSpares with
  | some (n, auto, tick, ref) =>
    if tick ≤ now s then
      complete ref stOk 0 (le 8 (tick / 1024)) (setYrw (fun y => { y with spares := n, autoReinstate := auto, pendingSpares := none }) s)
    else s
  | none => s

/-- Umbels, catalogue and workloads after a cold start (R167, R188): the highest-numbered umbels are the spares. -/
def coldYarrow (s : State) : State :=
  setYrw (fun y => { y with
    umbels := (List.range 64).map (fun u => { ({} : Umbel) with
      epoch := (y.umbels.getD u {}).epoch, phase := if 64 - y.spares ≤ u then .spare else .active })
    tasks := [], running := [], florets := [], heldPages := [], staged := [], ahead := none, resident := []
    stats := [], roll := none, grantsReduced := false, spareShort := false, stopped := false, reloading := false
    tickCycles := 0, peakCycles := 0, prevPeakCycles := 0, kernelCycles := [], prevKernelCycles := []
    load := {}, wilts := 0, misses := 0, backgroundCycles := 0, prevWilts := 0, prevMisses := 0, prevBackground := 0 }) s

end Sys2Proof.Machine
end

