-- ==== Sys2Proof/Machine/YrwCommands.lean ====
section
/-!
DEFINITION. The YRW_ commands and the activation of workload tables and parameter blocks. Chapter 06 of the spec
(R193 to R201).
-/

namespace Sys2Proof.Machine

/-- Bit mask of a list of numbers. -/
def maskOf (l : List Nat) : Nat := l.foldl (fun m i => m ||| 2 ^ i) 0

/-- The pending generation of a table. -/
def pendingGen (s : State) (key : Nat × Nat) : Option PendingGen := s.gens.waiting.find? (fun g => g.table.key == key)

/-- YRW_STATUS (R193). -/
def cmdYrwStatus : Cmd := {
  opcode := 0x0300, role := fun _ => .reader, size := 0
  body := fun _ s =>
    let a := umbelsIn s .active
    let p := umbelsIn s .spare
    let r := umbelsIn s .retired
    let flags := ofBits [s.yrw.grantsReduced, s.yrw.thermalLimit, s.yrw.roll.isSome, s.yrw.leanGating]
    okWith (le 8 (now s / 1024) ++ le 1 a.length ++ le 1 p.length ++ le 1 s.yrw.spares ++
      le 1 ((umbelsIn s .fenced).length + (umbelsIn s .testing).length) ++ le 1 r.length ++ le 1 flags ++ zeros 2 ++
      le 4 s.yrw.workloadGen ++ zeros 4 ++ le 8 (((pendingGen s (0, 0)).map (fun g => g.tick / 1024)).getD 0) ++
      le 8 (maskOf a) ++ le 8 (maskOf p) ++ le 8 (maskOf r)) s }

/-- YRW_CATALOGUE (R194). Which kernels' parameters another block owns is not given (log 20). -/
def cmdYrwCatalogue : Cmd := {
  opcode := 0x0301, role := fun _ => .reader, size := 4
  body := fun c s =>
    checked [inRange 0 (rd c.p 0 1 < kernels.length), resv c.p 1 3] s
      (match kernels[rd c.p 0 1]? with
       | none => fail stOutOfRange 16 s
       | some k =>
         let v := kernelVersion s k.id
         okWith (le 1 kernels.length ++ le 1 k.cls.code ++ le 2 k.id ++ le 2 v.version ++ le 1 k.kib ++
           le 1 (ofBits [k.isSealed, mandatoryKernels.contains k.id, Config.paramsOwned k.id]) ++ le 4 k.cycles ++ zeros 4 ++
           pad 32 v.hash) s) }

/-- Florets a table may reserve: 16 × (64 − spares − retired umbels) (R195, R197). -/
def floretRoom (s : State) (spares : Nat) : Nat := 16 * (64 - spares - (umbelsIn s .retired).length)

/-- YRW_WORKLOAD_ARM: the table follows as pages (R195). -/
def cmdYrwWorkloadArm : Cmd := {
  opcode := 0x0302, role := fun _ => .operator, async := true, size := 24, dryrun := true, stream := true, standby := true
  body := fun c s =>
    let ch := rd c.p 0 1
    let n := rd c.p 2 2
    checked [inRange 0 (1 ≤ ch && ch ≤ 7), inRange 2 (1 ≤ n && n ≤ 256), inRange 4 (rd c.p 4 4 != 0),
        inRange 8 (activationTick (.workload []) (roundTick (rd c.p 8 8)) s).isSome, groupCheck c.p 1 20, resv c.p 21 3] s
      (if armBusy (.workload []) s then fail stBusy 1 s
       else if !channelIdle s ch then fail stBusy 0 s
       else .accepted [] (receiveTransfer c 0x0302 ch (rd c.p 4 4) (32 * n) (rd c.p 16 4) 2 16 s)) }

/-- Completion payload of YRW_WORKLOAD_ARM. -/
def workloadPayload (tick gen : Nat) (ws : List Workload) : Bytes :=
  le 8 (tick / 1024) ++ le 4 gen ++ le 2 (sumMin ws) ++ zeros 2

/-- Completes a received YRW_WORKLOAD_ARM transfer (R195): validates every entry and arms the table. -/
def workloadReceived (t : Transfer) (s : State) : State :=
  match decodeWorkloads t.data with
  | .error (e, o) => tableFault t.ref e o s
  | .ok ws =>
    let p := t.request.args
    match activationTick (.workload ws) (roundTick (rd p 8 8)) s with
    | none => complete t.ref stOutOfRange 24 [] s
    | some tick =>
      if floretRoom s s.yrw.spares < sumMin ws then complete t.ref stResourceExhausted 0 [] s
      else if armBusy (.workload ws) s then complete t.ref stBusy 1 [] s
      else if t.dryrun then complete t.ref stOk 0 (workloadPayload tick 0 ws) s
      else armGen { table := .workload ws, opcode := 0x0302, tick := tick, groupId := rd p 1 1
                    groupMembers := rd p 20 1, ref := some t.ref } s

/-- A workload table activates at a round start; its statistics start again (R165, R200). -/
def applyWorkload (g : PendingGen) (ws : List Workload) (s : State) : State :=
  let n := nextGenNumber 0 s
  let s := setYrw (fun y => { y with workloads := ws, workloadGen := n.1, stats := [] }) n.2
  match g.ref with
  | some r => complete r stOk 0 (workloadPayload g.tick n.1 ws) s
  | none => s

/-- YRW_PARAM_SET (R196). What bodies a kernel takes is not given (log 20). -/
def cmdYrwParamSet : Cmd := {
  opcode := 0x0303, role := fun _ => .operator, size := 208, dryrun := true, standby := true
  body := fun c s =>
    let b := rd c.p 0 2
    let param := slice c.p 16 192
    let k := rd param 0 2
    let len := rd param 3 1
    let t : GenTable := .param b param
    checked [inRange 0 (b ≤ 1023), groupCheck c.p 2 3, resv c.p 4 4, inRange 8 (activationTick t (rd c.p 8 8) s).isSome,
        field 16 ((findKernel k).isSome && !Config.paramsOwned k), field 18 (Config.paramFormat k (rd param 2 1)),
        inRange 19 (1 ≤ len && len ≤ 184), resv c.p 20 4,
        field 24 (Config.paramBody k (slice param 8 len) && (param.drop (8 + len)).all (· == 0))] s
      (if armBusy t s then fail stBusy 1 s
       else
         match activationTick t (rd c.p 8 8) s with
         | none => fail stOutOfRange 24 s
         | some tick =>
           okWith (le 8 tick) (armGen { table := t, opcode := 0x0303, tick := tick, groupId := rd c.p 2 1
                                        groupMembers := rd c.p 3 1 } s)) }

/-- A parameter block activates (R14, R196). -/
def applyParam (block : Nat) (data : Bytes) (s : State) : State :=
  setYrw (fun y => { y with params := Tab.put y.params block data }) s

/-- YRW_SPARES (R197). -/
def cmdYrwSpares : Cmd := {
  opcode := 0x0304, role := fun _ => .operator, async := true, size := 8, dryrun := true
  body := fun c s =>
    let n := rd c.p 0 1
    let tick := roundStart (now s + 3)
    checked [inRange 0 (n ≤ 8), inRange 1 (rd c.p 1 1 ≤ 1), resv c.p 2 6] s
      (if floretRoom s n < sumMin s.yrw.workloads then fail stResourceExhausted 0 s
       else
         let old := s.yrw.pendingSpares
         let s := setYrw (fun y => { y with pendingSpares := some (n, rd c.p 1 1 == 1, tick, c.ref) }) s
         .accepted (le 8 (tick / 1024)) (match old with
           | some (_, _, _, r) => complete r stNotReady 0 [] s
           | none => s)) }

/-- Response of YRW_UMBEL (R198). -/
def umbelBytes (s : State) (u : Nat) : Bytes :=
  let x := umbel s u
  le 1 x.phase.code ++ le 1 (cap 255 (deaths24 s u)) ++ le 1 x.lastCause ++ le 1 x.testResult ++ le 4 x.epoch ++
    le 8 x.lastDeathTick ++ le 8 x.staleWrites

/-- YRW_UMBEL (R198), by the umbel state machine (R188). The remaining test time is a free value (log 12: use 22). -/
def cmdYrwUmbel : Cmd := {
  opcode := 0x0305, role := fun p => if rd p 1 1 = 0 then .reader else .operator, size := 8
  body := fun c s =>
    let u := rd c.p 0 1
    let a := rd c.p 1 1
    let x := umbel s u
    let ok (s : State) : Answer := okWith (umbelBytes s u) s
    let testing := x.testResult == 3 && x.phase == .spare
    checked [inRange 0 (u ≤ 63), inRange 1 (a ≤ 3), resv c.p 2 6] s
      (if a = 0 then ok s
       else if a = 1 then
         if testing then
           let d := draw 22 256 s
           fail stInSelfTest d.1 d.2
         else match x.phase with
         | .active =>
           let staying := (umbelsIn s .active).filter (fun v => v != u && !(umbel s v).draining)
           if 16 * staying.length < sumMin s.yrw.workloads then fail stResourceExhausted 0 s
           else ok (retireDrained u (setUmbel u (fun x => { x with draining := true }) s))
         | .retired => ok s
         | .testing => ok (umbelGoto u .retired 0 (setUmbel u (fun x => { x with testResult := 0 }) (endUmbelTest u s)))
         | _ => ok (umbelGoto u .retired 0 s)
       else if a = 2 then
         match x.phase with
         | .fenced => ok (startUmbelTest u (umbelGoto u .testing 0 s))
         | .retired => ok (startUmbelTest u (umbelGoto u .testing 0 s))
         | _ => fail stNotReady 0 s
       else if testing then
         let d := draw 22 256 s
         fail stInSelfTest d.1 d.2
       else match x.phase with
         | .spare => ok (startUmbelTest u s)
         | _ => fail stNotReady 0 s) }

/-- YRW_KERNEL_ROLL (R189 to R191, R199). The ranges and the seal are judged for every action, since neither R199 nor R620 exempts one
(DEDUCED; log 50). A request to revert completes once the roll is reverted; a second one meanwhile is BUSY (DEDUCED; log 50). -/
def cmdYrwKernelRoll : Cmd := {
  opcode := 0x0306, role := fun _ => .operator, async := true, size := 8
  updating := fun s p => rd p 2 1 == 0 && (match s.yrw.roll with
    | some r => r.kernel == rd p 0 2
    | none => false)
  body := fun c s =>
    let k := rd c.p 0 2
    let a := rd c.p 2 1
    let start := a == 0
    let slot := rd c.p 3 1
    checked [inRange 0 (findKernel k).isSome, inRange 2 (a ≤ 3), inRange 3 (slot ≤ 7),
        inRange 4 (1 ≤ rd c.p 4 1 && rd c.p 4 1 ≤ 16), inRange 5 (1 ≤ rd c.p 5 1),
        inRange 6 (rd c.p 6 2 ≤ 1024)] s
      (if ((findKernel k).map (·.isSealed)).getD false && sealClosed s 2 then fail stDeniedSeal 2 s
       else if start then
         if s.yrw.roll.isSome then fail stBusy 0 s
         else match Tab.get (buildBank s).staged slot with
           | none => fail stNotReady 0 s
           | some img =>
             if img.kernel ≠ k || !img.hashGood then fail stBadField 16 s
             else if img.version / 256 ≠ (kernelVersion s k).version / 256 then fail stBadField 19 s
             else .accepted [] (setYrw (fun y => { y with roll := some {
               kernel := k, slot := slot, version := img.version, hash := img.hash, perRound := rd c.p 4 1
               faultLimit := rd c.p 5 1, canary := rd c.p 6 2, ref := c.ref } }) s)
       else match s.yrw.roll with
         | none => fail stNotReady 0 s
         | some r =>
           if r.kernel ≠ k then fail stNotReady 0 s
           else if a = 3 then
             if r.revertRef.isSome then fail stBusy 0 s
             else .accepted [] (setYrw (fun y => { y with roll := some { r with reverting := true, revertRef := some c.ref } }) s)
           else
             let r' := { r with paused := a == 1 }
             let s := setYrw (fun y => { y with roll := some r' }) s
             let s := if a = 1 then rollEvent r' 1 0xFF s else s
             .accepted [] (complete c.ref stOk 0 (rollPayload r') s)) }

/-- YRW_LOAD: measures of the previous round (R192). -/
def cmdYrwLoad : Cmd := {
  opcode := 0x0307, role := fun _ => .reader, size := 0
  body := fun _ s =>
    let m := s.yrw.load
    okWith (le 2 m.floretOccupancy ++ le 2 m.dramUtilisation ++ le 2 m.folsetBusy ++ zeros 2 ++ le 4 m.tickDispatchNs ++
      le 4 m.criticalDispatchNs ++ le 4 m.dramReadNs ++ le 4 m.mailboxMedianUs ++ le 4 m.slackP1Us ++ le 4 m.streamMbps ++
      le 4 s.yrw.prevWilts ++ le 4 s.yrw.prevMisses ++ le 8 s.yrw.prevBackground) s }

/-- YRW_WORKLOAD_STATS (R200). -/
def cmdYrwWorkloadStats : Cmd := {
  opcode := 0x0308, role := fun _ => .reader, size := 4
  body := fun c s =>
    let w := rd c.p 0 1
    let x := Tab.getD s.yrw.stats w {}
    checked [resv c.p 1 3] s
      (if !s.yrw.workloads.any (fun y => y.id == w) then fail stNotReady 0 s
       else okWith (le 8 x.invocations ++ le 8 x.cycles ++ le 4 x.wilts ++ le 4 x.deadlineMisses ++ le 4 x.pageMisses ++
         le 4 x.taskFaults ++ le 4 x.skipped ++ zeros 4) s) }

/-- YRW_WORKLOAD_READ (R201). The pending table's number is the one it will take (log 20). -/
def cmdYrwWorkloadRead : Cmd := {
  opcode := 0x0309, role := fun _ => .reader, size := 4
  body := fun c s =>
    let pick : Option (List Workload × Nat) :=
      if rd c.p 1 1 = 0 then some (s.yrw.workloads, s.yrw.workloadGen)
      else match pendingGen s (0, 0) with
        | some g => match g.table with
          | .workload ws => some (ws, (nextGenNumber 0 s).1)
          | _ => none
        | none => none
    checked [field 1 (rd c.p 1 1 ≤ 1), resv c.p 2 2] s
      (match pick with
       | none => fail stNotReady 0 s
       | some (ws, n) => match ws.find? (fun w => w.id == rd c.p 0 1) with
         | some w => okWith (workloadBytes w ++ le 4 n) s
         | none => fail stNotReady 0 s) }

def execYrwStatus (rq : Request) (s : State) : Result := .next (submit cmdYrwStatus rq s)
def execYrwCatalogue (rq : Request) (s : State) : Result := .next (submit cmdYrwCatalogue rq s)
def execYrwWorkloadArm (rq : Request) (s : State) : Result := .next (submit cmdYrwWorkloadArm rq s)
def execYrwParamSet (rq : Request) (s : State) : Result := .next (submit cmdYrwParamSet rq s)
def execYrwSpares (rq : Request) (s : State) : Result := .next (submit cmdYrwSpares rq s)
def execYrwUmbel (rq : Request) (s : State) : Result := .next (submit cmdYrwUmbel rq s)
def execYrwKernelRoll (rq : Request) (s : State) : Result := .next (submit cmdYrwKernelRoll rq s)
def execYrwLoad (rq : Request) (s : State) : Result := .next (submit cmdYrwLoad rq s)
def execYrwWorkloadStats (rq : Request) (s : State) : Result := .next (submit cmdYrwWorkloadStats rq s)
def execYrwWorkloadRead (rq : Request) (s : State) : Result := .next (submit cmdYrwWorkloadRead rq s)

def execWatchdogExpiry (floret : Nat) (s : State) : Result :=
  .next (if ((Tab.get s.yrw.running floret).map (·.stalled)).getD false then s
    else retireDrained (floret / 16) (rollLoad (taskFault floret s)))
def execDeadlineMiss (workload : Nat) (s : State) : Result := .next (deadlineMiss workload s)
def execFloretSramError (floret kind : Nat) (s : State) : Result :=
  .next (retireDrained (floret / 16) (rollLoad (floretError floret kind s)))
def execUmbelHeartbeat (umbel epoch seq : Nat) (s : State) : Result := .next (heartbeat umbel epoch seq s)
def execHeartbeatLoss (umbel : Nat) (s : State) : Result := .next (if umbel < 64 then umbelDeath umbel 1 s else s)
def execFenceDrainComplete (umbel : Nat) (s : State) : Result := .next (rollLoad (fenceDrained umbel s))
def execUmbelTestResult (umbel : Nat) (passed : Bool) (s : State) : Result :=
  .next (if umbel < 64 then testResult umbel passed s else s)
def execStaleEpochRequest (umbel epoch : Nat) (write : Bool) (s : State) : Result := .next (staleRequest umbel epoch write s)

end Sys2Proof.Machine
end

