-- ==== Sys2Proof/Machine/BalCommands.lean ====
section
/-!
DEFINITION. The BAL_ commands, the balance model table and the records that they report. Chapter 10 of the spec (R329, R330,
R352 to R359).
-/

namespace Sys2Proof.Machine

/-! ## Records (R332, R338, R341, R345) -/

/-- Three signed 4-byte terms. -/
def terms (l : List Int) : Bytes := leS 4 (l.getD 0 0) ++ leS 4 (l.getD 1 0) ++ leS 4 (l.getD 2 0)

/-- Three unsigned 4-byte terms. -/
def termsN (l : List Nat) : Bytes := le 4 (l.getD 0 0) ++ le 4 (l.getD 1 0) ++ le 4 (l.getD 2 0)

/-- Round record (80 B). -/
def roundBytes (r : RoundRec) : Bytes :=
  if r.lost then lostBytes r.round 80 else le 8 r.round ++ le 2 r.bridge ++ le 1 r.flags ++ le 1 r.missing ++ terms r.supply ++ terms r.meter ++ terms r.loss ++
    terms r.residual ++ termsN r.through ++ leS 4 r.unattributed ++ le 2 r.meters ++ le 2 r.stale

/-- Window record (80 B). -/
def windowBytes (w : WindowRec) : Bytes :=
  le 8 w.start ++ le 2 w.bridge ++ le 1 w.kind ++ le 1 w.flags ++ terms w.supply ++ terms w.meter ++ terms w.loss ++
    terms w.residual ++ termsN w.through ++ le 2 w.estimated ++ le 2 w.unattributedMeters ++ le 1 w.flags2 ++ zeros 3

/-- Feeder window record (64 B). -/
def feederBytes (w : FeederRec) : Bytes :=
  le 8 w.start ++ le 1 w.feeder ++ le 1 w.kind ++ le 1 w.flags ++ zeros 1 ++ leS 4 w.head ++ leS 4 w.bridges ++
    leS 4 w.localWh ++ leS 4 w.line ++ leS 4 w.tx ++ leS 4 w.residual ++ leS 4 w.bridgeResidual ++ le 2 w.complete ++
    le 2 w.members ++ zeros 20

/-- A sum of a record in Wh: FAST's are kept in mWh. -/
def suspicionWh (x : Suspicion) (v : Int) : Int := if x.kind = 5 then roundHalfAway v 1000 else v

/-- Suspicion record (128 B). -/
def suspicionBytes (x : Suspicion) : Bytes :=
  if x.lost then lostBytes x.id 128 else le 4 x.id ++ le 2 x.subject ++ le 1 x.kind ++ le 1 x.phase ++ le 1 x.state.code ++ le 1 x.disposition ++ le 2 x.windowsOver ++
    zeros 4 ++ le 8 x.openedWindow ++ le 8 x.lastWindow ++ leS 4 (suspicionWh x x.residual) ++
    leS 4 (suspicionWh x x.through) ++ leS 4 x.peakRatio ++ zeros 4 ++
    (List.range 4).flatMap (fun i => match x.candidates[i]? with
      | some c => le 4 c.account ++ leS 2 c.score ++ le 1 c.method ++ le 1 c.phase
      | none => le 4 0xFFFFFFFF ++ zeros 4) ++
    le 8 x.localisedTick ++ le 8 x.closedTick ++ leS 4 x.meanDaily ++ zeros 28

/-! ## The balance model table (R329) -/

/-- Network model entry fields, given the entries before it and the feeders of the table. -/
def netModelChecks (feeders : List Nat) (before : List Nat) (b : Bytes) : List (Nat × Bool) :=
  [ (0, rd b 0 2 ≤ 8191 && !before.contains (rd b 0 2)), (2, rd b 2 1 == 0xFF || feeders.contains (rd b 2 1)),
    (3, rd b 3 1 ≤ 15) ]

/-- Reads a network model entry. -/
def netModelOf (b : Bytes) : NetModel := {
  bridge := rd b 0 2, feeder := rd b 2 1, profile := rd b 3 1, rPhase := (List.range 3).map (fun i => rd b (4 + 4 * i) 4)
  rNeutral := rd b 16 4, fixedW := (List.range 3).map (fun i => rd b (20 + 2 * i) 2), txFixedW := rd b 26 2, txR := rd b 28 4 }

/-- Feeder model entry fields, given the entries before it. -/
def feederModelChecks (before : List FeederModel) (b : Bytes) : List (Nat × Bool) :=
  ([ (0, rd b 0 1 ≤ 15 && !before.any (fun e => e.feeder == rd b 0 1)),
    (1, rd b 1 1 ≤ 15 && !before.any (fun e => e.headSet == rd b 1 1)), (2, rd b 2 1 ≤ 15), (3, decide (rd b 3 1 < 2)),
    (4, rd b 4 2 == 0 && before.all (fun e => e.members &&& rd b 4 4 == 0)) ] : List (Nat × Bool)) ++ reservedBytes b 12 20

/-- Reads a feeder model entry. -/
def feederModelOf (b : Bytes) : FeederModel := {
  feeder := rd b 0 1, headSet := rd b 1 1, profile := rd b 2 1, enabled := (rd b 3 1).testBit 0, members := rd b 4 4
  rLine := rd b 8 4 }

/-- Reads a balance model table, or names the offending byte within its entry and the table (R125, R329). -/
def decodeModel (b : Bytes) : Except (Nat × Nat) BalanceModel :=
  let nets := rd b 6 2
  let feeders := rd b 8 1
  let head : List (Nat × Bool) := ([ (0, rd b 0 4 == 0x4C424C47), (4, rd b 4 2 == 1), (6, nets ≤ 8192), (8, feeders ≤ 16),
    (6, b.length == 16 + 32 * (nets + feeders)) ] : List (Nat × Bool)) ++ reservedBytes b 9 7
  match firstBad head with
  | some off => .error (off, off)
  | none =>
    let fs := entriesAt b (16 + 32 * nets) 32 feeders
    let names := fs.map (fun e => rd e 0 1)
    match (checkSeq (netModelChecks names) (fun e => rd e 0 2) 32 16 (entriesAt b 16 32 nets) []).orElse (fun _ =>
        checkSeq feederModelChecks feederModelOf 32 (16 + 32 * nets) fs []) with
    | some e => .error e
    | none => .ok { nets := (entriesAt b 16 32 nets).map netModelOf, feeders := fs.map feederModelOf }

/-! ## Commands -/

/-- BAL_STATUS (R352). -/
def cmdBalStatus : Cmd := {
  opcode := 0x0700, role := fun _ => .reader, size := 0
  body := fun _ s =>
    let y := s.bal
    let count := fun (p : SuspicionPhase) => y.suspicions.countP (fun x => x.state == p)
    let nodes := (y.pins.map (fun p => (p.bridge, p.node))).eraseDups
    let pins := nodes.countP (fun n => (pinFor s n.1 n.2 (windowSeq s (now s))).isSome)
    okWith (le 8 y.lastRound ++ le 8 y.lastWindow ++ le 4 y.model.nets.length ++ le 4 y.incomplete ++ le 4 (count .opened) ++
      le 4 (count .localised) ++ le 4 y.dropped ++ le 4 y.model.gen ++ le 4 pins ++ le 4 y.lateRounds ++
      le 8 (((pendingGen s (8, 0)).map (·.tick / 1024)).getD 0)) s }

/-- BAL_MODEL_ARM: the table follows as pages (R353). -/
def cmdBalModelArm : Cmd := {
  opcode := 0x0701, role := fun _ => .operator, async := true, size := 24, dryrun := true, stream := true, standby := true
  body := fun c s =>
    let ch := rd c.p 0 1
    let len := rd c.p 16 4
    checked [inRange 0 (1 ≤ ch && ch ≤ 7), groupCheck c.p 1 2, resv c.p 3 1, inRange 4 (rd c.p 4 4 != 0),
        inRange 8 (activationTick (.balModel {}) (roundTick (rd c.p 8 8)) s).isSome, inRange 16 (16 ≤ len && len ≤ 262672)] s
      (if armBusy (.balModel {}) s then fail stBusy 1 s
       else if !channelIdle s ch then fail stBusy 0 s
       else .accepted [] (receiveTransfer c 0x0701 ch (rd c.p 4 4) len (rd c.p 20 4) 16 20 s)) }

/-- Completes a received BAL_MODEL_ARM transfer: validates the table and arms it (R329, R353). -/
def modelReceived (t : Transfer) (s : State) : State :=
  match decodeModel t.data with
  | .error (e, o) => tableFault t.ref e o s
  | .ok m =>
    let p := t.request.args
    match activationTick (.balModel m) (roundTick (rd p 8 8)) s with
    | none => complete t.ref stOutOfRange 24 [] s
    | some tick =>
      if armBusy (.balModel m) s then complete t.ref stBusy 1 [] s
      else if t.dryrun then complete t.ref stOk 0 (le 8 (tick / 1024) ++ zeros 8) s
      else armGen { table := .balModel m, opcode := 0x0701, tick := tick, groupId := rd p 1 1, groupMembers := rd p 2 1
                    ref := some t.ref } s

/-- A balance model activates: rounds before this one keep the one before it; windows it cuts are marked (R330, R353). -/
def applyBalModel (g : PendingGen) (m : BalanceModel) (s : State) : State :=
  let n := nextGenNumber 8 s
  let s := n.2
  let s := setBal (fun y => { y with model := { m with gen := n.1 }, modelPrev := some (y.model, now s / 1024 - 1)
                                     modelAt := (now s :: y.modelAt).take 64 }) s
  match g.ref with
  | some r => complete r stOk 0 (le 8 (now s / 1024) ++ le 4 n.1 ++ zeros 4) s
  | none => s

/-- Reads a rule profile (R354). -/
def rulesOf (p : Bytes) : RuleProfile := {
  enables := rd p 1 1, persistN := rd p 2 2, clearN := rd p 4 2, hourK := rd p 6 1, hourN := rd p 7 1, posRatio := rd p 8 4
  posAbs := rd p 12 4, negRatio := rd p 16 4, negAbs := rd p 20 4, dayRatio := rd p 24 4, dayAbs := rd p 28 4
  fastRatio := rd p 32 4, fastRounds := rd p 36 2, locMinScore := rd p 38 2, stepRatio := rd p 40 4, settleMin := rd p 44 2
  fillMaxRound := rd p 46 1, feederPersist := rd p 47 1, feederRatio := rd p 48 4, feederAbs := rd p 52 4, substMaxPct := rd p 56 1 }

/-- Field checks of BAL_RULES_SET. -/
def rulesChecks (p : Bytes) : List Check :=
  let r := rulesOf p
  [inRange 0 (rd p 0 1 ≤ 15), field 1 (decide (r.enables < 128)), inRange 2 (2 ≤ r.persistN && r.persistN ≤ 96),
   inRange 4 (1 ≤ r.clearN && r.clearN ≤ 672), inRange 6 (1 ≤ r.hourK && r.hourK ≤ r.hourN), inRange 7 (1 ≤ r.hourN && r.hourN ≤ 24),
   inRange 8 (r.posRatio ≤ 1000000), inRange 16 (r.negRatio ≤ 1000000), inRange 24 (r.dayRatio ≤ 1000000),
   inRange 32 (r.fastRatio ≤ 1000000), inRange 36 (16 ≤ r.fastRounds && r.fastRounds ≤ 1024),
   inRange 38 (500 ≤ r.locMinScore && r.locMinScore ≤ 1000), inRange 40 (r.stepRatio ≤ 1000000),
   inRange 44 (15 ≤ r.settleMin && r.settleMin ≤ 1440), inRange 46 (r.fillMaxRound ≤ 64),
   inRange 47 (1 ≤ r.feederPersist && r.feederPersist ≤ 24), inRange 48 (r.feederRatio ≤ 1000000), inRange 56 (r.substMaxPct ≤ 10),
   resv p 57 7]

/-- BAL_RULES_SET (R354). -/
def cmdBalRulesSet : Cmd := {
  opcode := 0x0702, role := fun _ => .operator, size := 64, dryrun := true, standby := true
  body := fun c s =>
    checked (rulesChecks c.p) s
      (let g := GenTable.rules (rd c.p 0 1) (rulesOf c.p)
       if armBusy g s then fail stBusy 1 s
       else
         let tick := earliest g s
         okWith (le 8 (tick / 1024)) (armGen { table := g, opcode := 0x0702, tick := tick } s)) }

/-- A rule profile takes effect (R354). -/
def applyRules (i : Nat) (r : RuleProfile) (s : State) : State := setBal (fun y => { y with rules := modAt y.rules i (fun _ => r) }) s

/-- The pin of a node after every change accepted. -/
def lastPin (s : State) (b node : Nat) : Option Nat :=
  ((s.bal.pins.filter (fun p => p.bridge == b && p.node == node)).getLast?).bind (·.phase)

/-- Nodes that are pinned after every change accepted. -/
def pinCount (s : State) : Nat :=
  ((s.bal.pins.map (fun p => (p.bridge, p.node))).eraseDups).countP (fun n => (lastPin s n.1 n.2).isSome)

/-- BAL_ATTRIBUTE (R355). -/
def cmdBalAttribute : Cmd := {
  opcode := 0x0703, role := fun _ => .operator, size := 8, dryrun := true, standby := true
  body := fun c s =>
    let b := rd c.p 0 2
    let node := rd c.p 2 2
    let clear := rd c.p 4 1 == 1
    let phase := rd c.p 5 1
    checked [inRange 0 (b ≤ 8191), inRange 2 (node ≤ 511), inRange 4 (rd c.p 4 1 ≤ 1),
        field 5 (if clear then phase == 0 else phase ≤ 3), resv c.p 6 2] s
      (if clear && (lastPin s b node).isNone then fail stNotReady 0 s
       else if !clear && (lastPin s b node).isNone && 16384 ≤ pinCount s then fail stResourceExhausted 0 s
       else
         let seq := windowSeq s (now s + 2) + 1
         okWith (le 8 (windowStart s seq)) (setNetBal b (fun n => { n with pinAt := (seq :: n.pinAt.filter (· != seq)).take 128 })
           (setBal (fun y => { y with pins := y.pins ++
             [{ bridge := b, node := node, phase := if clear then none else some phase, from' := seq }] }) s))) }

/-- The newest of some records. -/
def newest {α : Type} (f : α → Nat) (l : List α) : Option α :=
  l.foldl (fun best x => match best with
    | some y => if f y ≤ f x then some x else best
    | none => some x) none

/-- The record that BAL_NETWORK_READ names, as 80 bytes. -/
def latestRecord (s : State) (subject which : Nat) (feeder : Bool) : Option Bytes :=
  if feeder then (newest (·.seq) (s.bal.feederWindows.filter (fun w => w.feeder == subject && w.kind + 1 == which))).map
    (fun w => feederBytes w ++ zeros 16)
  else if which = 0 then (newest (·.round) (s.bal.rounds.filter (fun r => r.bridge == subject))).map roundBytes
  else (newest (·.seq) (s.bal.windows.filter (fun w => w.bridge == subject && w.kind + 1 == which))).map windowBytes

/-- A bridge is silent: configured, without samples (R371). -/
def bridgeSilent (s : State) (b : Nat) : Bool :=
  let p := (bridgeAt s b).phase
  p == .silent || p == .lost

/-- BAL_NETWORK_READ (R356). -/
def cmdBalNetworkRead : Cmd := {
  opcode := 0x0710, role := fun _ => .reader, size := 4
  body := fun c s =>
    let subject := rd c.p 0 2
    let which := rd c.p 2 1
    let feeder := rd c.p 3 1 == 1
    checked [inRange 0 (if feeder then subject ≤ 15 else subject ≤ 8191), field 2 (which ≤ 3 && (!feeder || which != 0)),
        field 3 (rd c.p 3 1 ≤ 1)] s
      (match latestRecord s subject which feeder with
       | none => fail stNotReady 0 s
       | some r =>
         let silent := !feeder && bridgeSilent s subject
         let modelled := if feeder then s.bal.model.feeders.any (fun e => e.feeder == subject)
           else s.bal.model.nets.any (fun e => e.bridge == subject)
         let live := s.bal.suspicions.countP (fun x => x.live && x.subject == subject && decide (8 ≤ x.kind) == feeder)
         okWith (r ++ termsN (if feeder then [0xFFFFFFFF, 0xFFFFFFFF, 0xFFFFFFFF] else (netBal s subject).rFit) ++
           le 1 (ofBits [modelled, silent, silent]) ++ zeros 3 ++ le 4 live) s) }

/-- Records that BAL_HISTORY_READ sends, with their order: time or record number, then subject (R357). -/
def historyRecords (s : State) (kind first count from' : Nat) : List (Nat × Nat × Bytes) :=
  let here := fun (x : Nat) => decide (first ≤ x) && decide (x < first + count)
  if kind = 0 then (s.bal.rounds.filter (fun r => here r.bridge && decide (from' ≤ r.round))).map (fun r => (r.round, r.bridge, roundBytes r))
  else if kind ≤ 3 then (s.bal.windows.filter (fun w => here w.bridge && w.kind + 1 == kind && decide (from' ≤ w.start))).map
    (fun w => (w.start, w.bridge, windowBytes w))
  else if kind ≤ 6 then (s.bal.feederWindows.filter (fun w => here w.feeder && w.kind + 4 == kind && decide (from' ≤ w.start))).map
    (fun w => (w.start, w.feeder, feederBytes w))
  else (s.bal.suspicions.filter (fun x => decide (from' ≤ x.id))).map (fun x => (x.id, 0, suspicionBytes x))

/-- BAL_HISTORY_READ (R357). The records are sent as they are held when the command is accepted. -/
def cmdBalHistoryRead : Cmd := {
  opcode := 0x0711, role := fun _ => .reader, async := true, size := 24
  body := fun c s =>
    let ch := rd c.p 0 1
    let kind := rd c.p 1 1
    let first := rd c.p 2 2
    let count := rd c.p 16 2
    let limit := if kind ≤ 3 then 8192 else if kind ≤ 6 then 16 else 1
    checked [inRange 0 (1 ≤ ch && ch ≤ 7), field 1 (kind ≤ 7), field 2 (decide (first < limit)), inRange 4 (rd c.p 4 4 != 0),
        inRange 16 (1 ≤ count && count ≤ 8192), field 16 (first + count ≤ limit), resv c.p 18 2,
        inRange 20 (1 ≤ rd c.p 20 4 && rd c.p 20 4 ≤ 16777216)] s
      (if !channelIdle s ch then fail stBusy 0 s
       else
         let l := (historyRecords s kind first count (rd c.p 8 8)).mergeSort (fun a b =>
           decide (a.1 < b.1) || (a.1 == b.1 && decide (a.2.1 ≤ b.2.1)))
         let sent := l.take (rd c.p 20 4)
         let t : Transfer := { ref := c.ref, opcode := 0x0711, transferId := rd c.p 4 4, request := c.rq, dryrun := false
                               expected := 0, crc := 0 }
         .accepted [] (complete c.ref stOk 0 (le 4 sent.length ++ zeros 4)
           (sendTransfer ch t (packRecords (sent.map (·.2.2)) []) s))) }

/-- The suspicion record with a number. -/
def findSuspicion (s : State) (id : Nat) : Option Suspicion := s.bal.suspicions.find? (fun x => x.id == id)

/-- BAL_SUSPICION_READ (R358). -/
def cmdBalSuspicionRead : Cmd := {
  opcode := 0x0720, role := fun _ => .reader, size := 4
  body := fun c s =>
    match findSuspicion s (rd c.p 0 4) with
    | some x => okWith (suspicionBytes x) s
    | none => fail stNotReady 0 s }

/-- Journals the reference of a closure with the SUSPICION event just queued (R359). -/
def withReference (reference : Bytes) (before s : State) : State :=
  if before.fol.events.length < s.fol.events.length then
    { s with fol := { s.fol with events := modAt s.fol.events (s.fol.events.length - 1) (fun e => { e with tail := reference }) } }
  else s

/-- BAL_SUSPICION_CLOSE (R346, R359). -/
def cmdBalSuspicionClose : Cmd := {
  opcode := 0x0721, role := fun _ => .operator, size := 16, dryrun := true
  body := fun c s =>
    let d := rd c.p 4 1
    checked [field 4 (1 ≤ d && d ≤ 4), resv c.p 5 3] s
      (match findSuspicion s (rd c.p 0 4) with
       | none => fail stNotReady 0 s
       | some x =>
         if x.state = .closed then fail stNotReady 0 s
         else
           let y := { x with state := .closed, disposition := d, closedTick := now s }
           let s := setSuspicion x.id (fun _ => y) s
           okWith [] (withReference (slice c.p 8 8) s (suspicionEvent y x.state.code s))) }

/-! ## Meanings -/

def execBalStatus (rq : Request) (s : State) : Result := .next (submit cmdBalStatus rq s)
def execBalModelArm (rq : Request) (s : State) : Result := .next (submit cmdBalModelArm rq s)
def execBalRulesSet (rq : Request) (s : State) : Result := .next (submit cmdBalRulesSet rq s)
def execBalAttribute (rq : Request) (s : State) : Result := .next (submit cmdBalAttribute rq s)
def execBalNetworkRead (rq : Request) (s : State) : Result := .next (submit cmdBalNetworkRead rq s)
def execBalHistoryRead (rq : Request) (s : State) : Result := .next (submit cmdBalHistoryRead rq s)
def execBalSuspicionRead (rq : Request) (s : State) : Result := .next (submit cmdBalSuspicionRead rq s)
def execBalSuspicionClose (rq : Request) (s : State) : Result := .next (submit cmdBalSuspicionClose rq s)

end Sys2Proof.Machine
end

