-- ==== Sys2Proof/Machine/FieldIo.lean ====
section
/-!
DEFINITION. Field I/O and safety on GL-F: who decides an output, FIELD_24V supervision, load switches, safety inputs and
outputs, start-up tests. Chapter 14 of the spec (R472 to R490).
-/

namespace Sys2Proof.Machine

/-- Changes the field state. -/
def setFio (f : FieldState → FieldState) (s : State) : State := { s with fio := f s.fio }

/-- Load-switch channels of the variant: 16 or 48 (R497). -/
def lsCount (s : State) : Nat := if s.host.variantS then 16 else 48

/-- Changes load-switch channel `k`. -/
def setLs (k : Nat) (f : LsChannel → LsChannel) (s : State) : State :=
  setFio (fun x => { x with switches := modAt x.switches k f }) s

/-- Load-switch channel `k`. -/
def lsAt (s : State) (k : Nat) : LsChannel := s.fio.switches.getD k {}

/-- Changes safety input `j`. -/
def setInput (j : Nat) (f : SafetyInput → SafetyInput) (s : State) : State :=
  setFio (fun x => { x with inputs := modAt x.inputs j f }) s

/-- Safety input `j`. -/
def inputAt (s : State) (j : Nat) : SafetyInput := s.fio.inputs.getD j {}

/-- Changes safety output `k`. -/
def setOutput (k : Nat) (f : SafetyOutput → SafetyOutput) (s : State) : State :=
  setFio (fun x => { x with outputs := modAt x.outputs k f }) s

/-- Safety output `k`. -/
def outputAt (s : State) (k : Nat) : SafetyOutput := s.fio.outputs.getD k {}

/-- Charge point `k`. -/
def pointAt (s : State) (k : Nat) : ChargePoint := s.chg.points.getD k {}

/-- Charge point `k` is configured (R465). -/
def pointConfigured (s : State) (k : Nat) : Bool := (pointAt s k).config.isSome

/-- The states between PREPARE and STOPPING (R479, R504). -/
def PointPhase.live : PointPhase → Bool
  | .prepare => true
  | .energy => true
  | .paused => true
  | .stopping => true
  | _ => false

/-! ## FIELD_24V and faults (R46, R474) -/

/-- GL-F is powered and its outputs are released (R472). -/
def fieldReleased (s : State) : Bool := s.pwr.fieldOn && s.fio.released

/-- FIELD_24V is in under-voltage or over-voltage (R474). -/
def supplyBad (s : State) : Bool := s.fio.underVoltage || s.fio.overVoltage

/-- The safety inputs are evaluated as in demand and their checks are suspended: before release, while FIELD_24V is bad, and for
100 ms after the test pulses resume (R474). -/
def checksSuspended (s : State) : Bool :=
  !fieldReleased s || supplyBad s ||
    match s.fio.resumeAt with
    | some t => decide (s.time.uptime < t)
    | none => false

/-- A latched trip holds the channel off (R476). -/
def LsChannel.latched (c : LsChannel) : Bool := c.overload || c.short || c.turnOnFailed || c.overTemp

/-- A condition of the class-C source 0xB0 holds (R46, R474, R476). -/
def supplyCondition (s : State) : Bool :=
  s.fio.underVoltage || s.fio.totalHigh || s.fio.switches.any (fun c => c.latched)

/-- A condition of the class-B source 0xB1 holds (R474, R481, R483, R489). -/
def safetyCondition (s : State) : Bool :=
  s.fio.overVoltage || s.fio.inputs.any (fun i => i.config.function != 0 && i.phase == .fault) ||
    s.fio.outputs.any (fun o => o.fault || o.fed) || s.fio.sources.any (fun t => t.overloaded)

/-- A source's record is ACTIVE. -/
def faultActive (s : State) (src : Nat) : Bool := (faultRecord s src).phase == .active

/-- Ends the field sources whose conditions are all over. -/
def syncField (s : State) : State :=
  let s := if faultActive s 0xB0 && !supplyCondition s then endFault 0xB0 s else s
  if faultActive s 0xB1 && !safetyCondition s then endFault 0xB1 s else s

/-- FIELD_SUPPLY (R496). -/
def fieldSupplyEvent (cause : Nat) (s : State) : State :=
  raiseEvent 0x0B03 0 true (le 1 cause ++ zeros 1 ++ le 2 (cap 0xFFFF s.fio.fieldDv) ++ le 2 (cap 0xFFFF s.fio.fieldDa) ++
    zeros 10) s

/-- Notes a measurement of FIELD_24V. -/
def measureField (dv da : Nat) (s : State) : State := setFio (fun x => { x with fieldDv := dv, fieldDa := da }) s

/-! ## Load switches (R475 to R480) -/

/-- In in mA and K in mA² × 100 µs of a wire code (R475). -/
def wireCurve : Nat → Nat × Nat
  | 0 => (3000, 54 * 10 ^ 10)
  | 1 => (4000, 96 * 10 ^ 10)
  | 2 => (5000, 150 * 10 ^ 10)
  | 3 => (6000, 216 * 10 ^ 10)
  | _ => (8000, 384 * 10 ^ 10)

/-- In and K of the channel curve (R475). -/
def channelCurve (s : State) : Nat × Nat := if s.host.variantS then (6000, 216 * 10 ^ 10) else (2000, 24 * 10 ^ 10)

/-- Hard current limit in mA (R476). -/
def hardLimit (s : State) : Nat := if s.host.variantS then 15000 else 5000

/-- One update of an accumulator over 100 µs (R475). -/
def heatStep (curve : Nat × Nat) (w i : Nat) : Nat := w + i * i - curve.1 * curve.1

/-- LS_TRIP (R496): the current is reported on the GL1024-S alone. -/
def lsTripEvent (k cause : Nat) (s : State) : State :=
  let ma := if s.host.variantS then cap 0xFFFF (lsAt s k).current else 0
  raiseEvent 0x0B00 k true (le 1 cause ++ zeros 1 ++ le 2 ma ++ zeros 4 ++ le 8 (now s)) s

/-- A protection latches on channel `k`: off, class-C fault, LS_TRIP (R476). -/
def lsTrip (k cause : Nat) (latch : LsChannel → LsChannel) (s : State) : State :=
  lsTripEvent k cause (raiseFault 0xB0 3
    (setLs k (fun c => { latch c with on := false, ramp := false, rampCv := 0, openLoad := false, followed := false,
                                      trips := cap 0xFFFF (c.trips + 1) }) s))

/-- The source state of a channel, from its use (R472, R478, R479). -/
def lsSource (s : State) (c : LsChannel) : Bool :=
  match c.config.use with
  | .unused => false
  | .direct => s.fio.pins.getD c.config.param false
  | _ => c.source

/-- A row of the output table above the use of the channel holds it off (R472). -/
def lsHeldOff (s : State) (c : LsChannel) : Bool :=
  !fieldReleased s || !drivesField s || c.latched || supplyBad s

/-- The state the output table gives a channel (R472). -/
def lsTarget (s : State) (c : LsChannel) : Bool :=
  if lsHeldOff s c then false
  else if s.flt.safe && c.config.safeGroup then c.config.safeOn
  else lsSource s c

/-- A channel brought to its state by the output table: through the ramp, but for edges of a DIRECT pin after the first (R477,
R478). A row that holds it off makes the next turn-on a ramp again. -/
def lsApply (s : State) (c : LsChannel) : LsChannel :=
  let c := if lsHeldOff s c then { c with followed := false } else c
  if lsTarget s c then
    if c.on then c
    else if c.config.use == .direct && c.followed then { c with on := true }
    else { c with on := true, ramp := true, rampCv := 0, followed := true }
  else { c with on := false, ramp := false, rampCv := 0, openLoad := false }

/-- Flags of a channel (*Load-switch flags*, R480). -/
def lsFlags (s : State) (c : LsChannel) : Nat :=
  ofBits [lsSource s c, c.on, c.ramp, c.overload, c.short, c.turnOnFailed, c.overTemp, supplyBad s, c.openLoad,
    s.flt.safe && c.config.safeGroup, !drivesField s, c.config.use == .direct && s.fio.pins.getD c.config.param false]

/-- A clear of the channel is permitted (R476). -/
def lsClearable (s : State) (c : LsChannel) : Bool :=
  c.latched && decide (2 * c.wireHeat ≤ (wireCurve c.config.wire).2) && decide (2 * c.chanHeat ≤ (channelCurve s).2) && !c.hot

/-- Clears the latched trips of a channel (R476). -/
def lsClear (k : Nat) (s : State) : State :=
  lsTripEvent k 6 (setLs k (fun c => { c with overload := false, short := false, turnOnFailed := false, overTemp := false,
                                              followed := false }) s)

/-- The ramp of a channel over 100 µs: paused at the hard limit, complete at FIELD_24V (R477). -/
def rampStep (s : State) (c : LsChannel) : LsChannel :=
  if c.ramp && decide (c.current < hardLimit s) then
    let v := c.rampCv + c.config.slewDv
    if 10 * s.fio.fieldDv ≤ v then { c with ramp := false, rampCv := 0 } else { c with rampCv := v }
  else c

/-- One channel over 100 µs at a measured current: heats, ramp, open load, and the sums of the tick (R475, R477, R480). -/
def lsSample (s : State) (i : Nat) (hot : Bool) (c : LsChannel) : LsChannel :=
  rampStep s { c with
    current := i
    wireHeat := heatStep (wireCurve c.config.wire) c.wireHeat i
    chanHeat := heatStep (channelCurve s) c.chanHeat i
    hot := hot
    openLoad := c.openLoad && decide (i < 20)
    tickSum := c.tickSum + i
    tickCount := c.tickCount + 1 }

/-- An accumulator has reached its K on a channel not latched for it yet (R475). -/
def lsOverloaded (s : State) (c : LsChannel) : Bool :=
  !c.overload && (decide ((wireCurve c.config.wire).2 ≤ c.wireHeat) || decide ((channelCurve s).2 ≤ c.chanHeat))

/-! ## Safety gating and evaluation (R472, R487) -/

/-- An emergency-stop or guard input covering output `k` is not CLEAR (R487). -/
def heldBySafety (s : State) (k : Nat) : Bool :=
  s.fio.inputs.any (fun i => (i.config.function == 1 || i.config.function == 2) && i.config.mask.testBit k && i.phase != .clear)

/-- The group of four of output `k` is armed by SS1 to SS4 as in force (R487). -/
def groupArmed (s : State) (k : Nat) : Bool := sealInForce s (3 + k / 4)

/-- The state the output table gives safety output `k` (R472, R487). -/
def outputTarget (s : State) (k : Nat) : Bool :=
  let o := outputAt s k
  fieldReleased s && drivesField s && !o.fault && !supplyBad s && !s.flt.safe && o.source && !heldBySafety s k &&
    groupArmed s k && (!pointConfigured s k || s.fio.passed.getD k false)

/-- Test-pulse source runs (R472, R481). -/
def sourceTarget (s : State) (t : TestSource) : Bool := fieldReleased s && drivesField s && !supplyBad s && !t.overloaded

/-- GL-F sets every output from the first row that applies (R472). -/
def evalOutputs (s : State) : State :=
  setFio (fun x => { x with
    switches := x.switches.map (lsApply s)
    outputs := x.outputs.zipIdx.map (fun (o, k) => { o with on := outputTarget s k })
    sources := x.sources.map (fun t => { t with running := sourceTarget s t }) }) s

/-- Contactor feedback of charge point `k`, none where no feedback input names it (R483, R484). -/
def feedbackOf (s : State) (k : Nat) : Option InputPhase :=
  (s.fio.inputs.find? (fun i => i.config.function == 4 && i.config.point == k)).map (·.phase)

/-- The start-up condition of charge point `k` holds (R484). -/
def startupOk (s : State) (k : Nat) : Bool :=
  s.fio.passed.getD k false && !heldBySafety s k && !(outputAt s k).fault && !supplyBad s &&
    match feedbackOf s k with
    | some p => p != .fault
    | none => false

/-! ## The downlink frame (R20, R472, R473, R479) -/

/-- The source state of a channel as a downlink frame gives it: the commanded state, or what the charge point's state gives. -/
def lsFromDownlink (s : State) (c : LsChannel) : LsChannel :=
  match c.config.use with
  | .host => { c with source := c.commanded }
  | .lock =>
    let live := (pointAt s c.config.param).phase.live
    { c with source := live || (c.source && feedbackOf s c.config.param != some .opened) }
  | .fan =>
    if (pointAt s c.config.param).phase.live then { c with source := true, fanUntil := none }
    else if c.source && c.fanUntil.isNone then
      let t := s.time.uptime + 1000 * c.config.fanRunOnS
      { c with source := decide (s.time.uptime < t), fanUntil := some t }
    else
      { c with source := match c.fanUntil with
          | some t => c.source && decide (s.time.uptime < t)
          | none => c.source }
  | _ => c

/-- A downlink frame reaches GL-F: commanded states and charge-point states take effect (R20, R472). -/
def latchDownlink (s : State) : State :=
  evalOutputs (setFio (fun x => { x with
    switches := x.switches.map (lsFromDownlink s)
    outputs := x.outputs.zipIdx.map (fun (o, k) =>
      { o with source := if pointConfigured s k then (pointAt s k).contactor else o.commanded }) }) s)

/-- GL-F removes the contactor output of point `k` itself (R459, R461). -/
def removeContactor (k : Nat) (s : State) : State := evalOutputs (setOutput k (fun o => { o with source := false }) s)

/-! ## Safety inputs (R481 to R486) -/

/-- Code of an input state in SAFETY_INPUT (R496). -/
def InputPhase.code : InputPhase → Nat
  | .clear => 0 | .demand => 1 | .fault => 2 | .opened => 3 | .closed => 4 | .unknown => 5 | .inconsistent => 5

/-- Code of an input state in SAF_STATUS. -/
def InputPhase.status : InputPhase → Nat
  | .clear => 0 | .opened => 0 | .demand => 1 | .closed => 1 | .fault => 2 | .unknown => 3 | .inconsistent => 3

/-- SAFETY_INPUT (R496). -/
def inputEvent (j : Nat) (new old : InputPhase) (cause source : Nat) (s : State) : State :=
  raiseEvent 0x0B01 j false (le 1 new.code ++ le 1 old.code ++ le 1 cause ++ le 1 source ++ zeros 12) s

/-- Input `j` goes to a state, with its event and, on FAULT, its class-B fault (R483). -/
def toInput (j : Nat) (new : InputPhase) (cause source : Nat) (s : State) : State :=
  let old := (inputAt s j).phase
  if old == new then s
  else
    let s := inputEvent j new old cause source (setInput j (fun i => { i with phase := new }) s)
    syncField (if new == .fault then raiseFault 0xB1 2 s else s)

/-- Position of a sample in the 5 ms cycle of the test pulses, in µs (R481). -/
def gapPosition (s : State) (sub : Nat) : Nat := 1000 * (now s % 5) + 50 * sub

/-- Start of source `t`'s gap in the cycle, in µs (R481). -/
def gapStart (t : Nat) : Nat := 500 + 1250 * t

/-- A sample at a position counts for demand recognition (R482). -/
def counted (pos : Nat) : Bool := (List.range 4).all (fun t => pos < gapStart t || gapStart t + 450 ≤ pos)

/-- A sample at a position is checked against source `t`'s gap (R482); the last checked sample of the gap. -/
def checkedIn (t pos : Nat) : Bool := pos == gapStart t + 150 || pos == gapStart t + 200
def lastChecked (t pos : Nat) : Bool := pos == gapStart t + 200

/-- A sample's effect on demand: recognised after 2 consecutive counted samples, ended by one (R483). -/
def sampleDemand (pos : Nat) (inDemand on : Bool) (c : InputChannel) : InputChannel :=
  if counted pos then
    let run := if inDemand then cap 2 (c.run + 1) else 0
    { c with run := run, demand := inDemand && (c.demand || decide (2 ≤ run)), offSince := if on then c.offSince else [true, true, true, true] }
  else c

/-- A sample's effect on the check against the channel's own source (R482). -/
def sampleOwn (own pos : Nat) (on : Bool) (c : InputChannel) : InputChannel :=
  if checkedIn own pos then
    let bad := c.gapBad || on
    if lastChecked own pos then { c with gapBad := false, badGaps := if bad then c.badGaps + 1 else 0 }
    else { c with gapBad := bad }
  else c

/-- A sample's effect on the check against another source (R482). -/
def sampleCross (t pos : Nat) (on : Bool) (c : InputChannel) : InputChannel :=
  if checkedIn t pos then
    let off := c.crossOff.getD t true && !on
    if lastChecked t pos then
      { c with
        crossOff := modAt c.crossOff t (fun _ => true)
        crossGaps := modAt c.crossGaps t (fun n => if off && !c.offSince.getD t true then n + 1 else 0)
        offSince := modAt c.offSince t (fun _ => false) }
    else { c with crossOff := modAt c.crossOff t (fun _ => off) }
  else c

/-- One sample of a channel: demand and pulse checks. -/
def sampleChannel (own pos : Nat) (inDemand on : Bool) (c : InputChannel) : InputChannel :=
  let c := sampleOwn own pos on (sampleDemand pos inDemand on c)
  ((List.range 4).filter (· != own)).foldl (fun c t => sampleCross t pos on c) c

/-- A pulse error of a channel: cause and source involved (R482, R496). -/
def pulseError (own : Nat) (c : InputChannel) : Option (Nat × Nat) :=
  if 2 ≤ c.badGaps then some (4, own)
  else match (List.range 4).find? (fun t => t != own && decide (2 ≤ c.crossGaps.getD t 0)) with
    | some t => some (5, t)
    | none => none

/-- A channel evaluated as in demand, with its checks suspended (R474). -/
def suspendedChannel : InputChannel := {}

/-- Channels A and B of an input after a sample of the pins, given as on (R482, R483). -/
def sampleInput (pos : Nat) (a b : Bool) (i : SafetyInput) : SafetyInput :=
  { i with
    a := sampleChannel i.config.srcA pos (!a) a i.a
    b := sampleChannel i.config.srcB pos (if i.config.antivalent then b else !b) b i.b }

/-- A channel has been judged by counted samples since its checks began. -/
def InputChannel.judged (c : InputChannel) : Bool := !c.demand || decide (2 ≤ c.run)

/-- Both channels have been recognised in demand by counted samples (R486). -/
def SafetyInput.bothOpen (i : SafetyInput) : Bool := i.a.demand && i.b.demand && i.a.judged && i.b.judged

/-- What the channels of input `j` now give its state (R474, R483). A feedback input reads unknown until both channels have been judged. -/
def evalInput (j : Nat) (s : State) : State :=
  let i := inputAt s j
  let susp := checksSuspended s
  if i.config.function == 0 || i.phase == .fault then s
  else if i.config.function == 4 then
    if susp then toInput j .unknown 7 0xFF s
    else if !(i.a.judged && i.b.judged) then s
    else if i.a.demand != i.b.demand then toInput j .inconsistent 3 0xFF s
    else if i.a.demand then toInput j .closed 1 0xFF s
    else toInput j .opened 2 0xFF s
  else if i.phase == .clear then
    if i.a.demand || i.b.demand then
      toInput j .demand (if susp then 7 else 1) 0xFF (setInput j (fun i => { i with
        since := some s.time.uptime, both := i.bothOpen && !susp }) s)
    else s
  else if susp then s
  else setInput j (fun i => { i with both := i.both || i.bothOpen }) s

/-- Input `j` over a sample of its two pins (R482 to R484). -/
def sampleOne (sub a b j : Nat) (s : State) : State :=
  let i := inputAt s j
  if i.config.function == 0 then s
  else if checksSuspended s then
    evalInput j (setInput j (fun i => { i with a := suspendedChannel, b := suspendedChannel }) s)
  else
    let s := setInput j (sampleInput (gapPosition s sub) (a.testBit j) (b.testBit j)) s
    let i := inputAt s j
    let err := match pulseError i.config.srcA i.a with
      | some e => some e
      | none => pulseError i.config.srcB i.b
    match err with
    | some (cause, t) => if i.phase == .fault then s else toInput j .fault cause t s
    | none => evalInput j s

/-- All inputs go to their demand while FIELD_24V is bad (R474). -/
def suspendInputs (s : State) : State :=
  (List.range 16).foldl (fun s j => sampleOne 0 0 0 j s) s

/-- STARTUP_TEST of a charge point (R486, R496). -/
def passTest (method input k : Nat) (s : State) : State :=
  if pointConfigured s k && !s.fio.passed.getD k false then
    raiseEvent 0x0B04 k false (le 1 method ++ le 1 input ++ zeros 14)
      (setFio (fun x => { x with passed := modAt x.passed k (fun _ => true) }) s)
  else s

/-- The function whose cycle is the start-up test: guard with SS8 in force, key switch otherwise (R486). -/
def testFunction (s : State) : Nat := if sealInForce s 10 then 2 else 3

/-- Input `j` returns to CLEAR: release_ms after both channels clear, with the start-up tests its cycle completes (R483, R486). -/
def releaseInput (j : Nat) (s : State) : State :=
  let i := inputAt s j
  if [1, 2, 3, 5].contains i.config.function && i.phase == .demand && !i.a.demand && !i.b.demand && !checksSuspended s then
    let cycle := match i.since with
      | some t => i.both && decide (t + 200 ≤ s.time.uptime)
      | none => false
    let s := toInput j .clear 2 0xFF s
    let s := if cycle && i.config.function == testFunction s then
        ((List.range 16).filter (fun k => i.config.mask.testBit k)).foldl
          (fun s k => passTest (i.config.function - 1) j k s) s
      else s
    setInput j (fun i => { i with since := none, both := false }) s
  else s

/-- Input `j` has disagreed for longer than discrepancy_ms (R483). -/
def discrepancyInput (j : Nat) (s : State) : State :=
  let i := inputAt s j
  let open' := if i.config.function == 4 then i.phase == .inconsistent else i.phase == .demand
  if i.config.function != 0 && open' && i.a.demand != i.b.demand && !checksSuspended s then toInput j .fault 3 0xFF s else s

/-- State in which an input starts: DEMAND, or unknown for a feedback input (R483). -/
def startPhase (c : InputConfig) : InputPhase := if c.function == 4 then .unknown else .demand

/-- A reset of input `j` takes effect (R483). -/
def resetInput (j : Nat) (s : State) : State :=
  let i := inputAt s j
  if i.phase == .fault && i.a.demand && i.b.demand then
    setInput j (fun i => { i with since := some s.time.uptime, both := false, a := suspendedChannel, b := suspendedChannel })
      (toInput j (startPhase i.config) 6 0xFF s)
  else s

/-! ## Configuration generations (R497, R504) -/

/-- The load-switch configuration of a channel activates: a change of use restarts it (R497). -/
def applyLsConfig (k : Nat) (cfg : LsConfig) (s : State) : State :=
  let c := lsAt s k
  if c.config.use == cfg.use && c.config.param == cfg.param then setLs k (fun c => { c with config := cfg }) s
  else
    setLs k (fun c => { c with config := cfg, on := false, ramp := false, rampCv := 0, followed := false, openLoad := false,
                               commanded := cfg.initial, source := cfg.initial, fanUntil := none }) s

/-- The configuration of an input takes effect: it starts in DEMAND (R483). -/
def applySafInput (j : Nat) (cfg : InputConfig) (s : State) : State :=
  syncField (setInput j (fun _ => { config := cfg, phase := startPhase cfg,
                                    since := if fieldReleased s then some s.time.uptime else none }) s)

/-! ## FIELD power and ticks (R65, R476, R483, R490) -/

/-- FIELD power-up: the seals sensed come into force, reductions of coverage apply, tests and latches start again. -/
def fieldUp (s : State) : State :=
  let reductions := s.fio.reductions
  let s := { s with seals := { s.seals with inForce := s.seals.sensed } }
  let s := setFio (fun x => { x with
    released := false
    underVoltage := false, overVoltage := false, totalHigh := false, resumeAt := none
    reductions := [], resets := [], lsNext := [], soNext := []
    passed := List.replicate 16 false
    sources := List.replicate 4 {}
    switches := x.switches.map (fun c => { c with
      commanded := c.config.initial, source := c.config.initial, on := false, ramp := false, rampCv := 0, followed := false
      overload := false, short := false, turnOnFailed := false, overTemp := false, openLoad := false
      wireHeat := 0, chanHeat := 0, hot := false, current := 0, tickSum := 0, tickCount := 0 })
    inputs := x.inputs.zipIdx.map (fun (i, j) =>
      let cfg := Tab.getD reductions j i.config
      { config := cfg, phase := startPhase cfg })
    outputs := x.outputs.map (fun _ => {})
    panels := x.panels.map (fun p => { p with imageValid := false }) }) s
  syncField s

/-- FIELD loses power: every output off (R472). -/
def fieldDown (s : State) : State :=
  evalOutputs (setFio (fun x => { x with released := false, underVoltage := false, overVoltage := false, totalHigh := false,
                                         resumeAt := none }) s)

/-- GL-F releases its outputs after its self-test; an output whose power-up test failed latches its fault (R65, R489). An input in DEMAND
may complete a cycle from then on (R486). -/
def fieldRelease (failed : List Nat) (s : State) : State :=
  let s := failed.foldl (fun s k =>
    raiseFault 0xB1 3 (raiseEvent 0x0B02 k false (le 1 7 ++ zeros 15) (setOutput k (fun o => { o with fault := true }) s))) s
  evalOutputs (setFio (fun x => { x with
    released := true
    inputs := x.inputs.map (fun i => if i.phase == .demand then { i with since := some s.time.uptime, both := false } else i) }) s)

/-- FIO_LS_SET takes effect: a mask and an action (R498). -/
def applyLsSet (mask action : Nat) (s : State) : State :=
  ((List.range (lsCount s)).filter (fun k => mask.testBit k)).foldl (fun s k =>
    if action == 2 then lsClear k s else setLs k (fun c => { c with commanded := action == 1 }) s) s

/-- The means of the tick that ends, and the peaks of its round (R480, FIO_LS_READ). -/
def lsTick (roundStarts : Bool) (c : LsChannel) : LsChannel :=
  let mean := if c.tickCount = 0 then c.current else c.tickSum / c.tickCount
  let peak := max c.peak mean
  { c with mean := mean, tickSum := 0, tickCount := 0
           peak := if roundStarts then 0 else peak
           peakPrev := if roundStarts then peak else c.peakPrev }

/-- What a tick start does on the field: commands accepted for it, channel means, the end of the total-current report. -/
def fieldTick (dv da : Nat) (roundStarts : Bool) (s : State) : State :=
  if !s.pwr.fieldOn then s
  else
    let sets := s.fio.lsNext
    let outs := s.fio.soNext
    let resets := s.fio.resets
    let s := setFio (fun x => { x with lsNext := [], soNext := [], resets := [], fieldDv := dv, fieldDa := da
                                       totalHigh := x.totalHigh && decide (400 < da)
                                       switches := x.switches.map (lsTick roundStarts) }) s
    let s := sets.foldl (fun s e => applyLsSet e.1 e.2 s) s
    let s := outs.foldl (fun s e => setOutput e.1 (fun o => { o with commanded := e.2 }) s) s
    let s := resets.foldl (fun s j => resetInput j s) s
    syncField s

end Sys2Proof.Machine
end

