-- ==== Sys2Proof/Machine/Charging.lean ====
section
/-!
DEFINITION. Charge points: availability, pilot, link, the session state machine, authorisation, preparation and stopping,
protective trips, credit and caps. Chapter 13 of the spec (R435 to R448, R452, R459 to R462).
-/

namespace Sys2Proof.Machine

/-- Changes the charging state. -/
def setChg (f : ChargeState → ChargeState) (s : State) : State := { s with chg := f s.chg }

/-- Changes charge point `k`. -/
def setPoint (k : Nat) (f : ChargePoint → ChargePoint) (s : State) : State :=
  setChg (fun c => { c with points := modAt c.points k f }) s

/-- Codes of POINT_STATE (R463). -/
def PointPhase.code : PointPhase → Nat
  | .unavailable => 0 | .idle => 1 | .link => 2 | .auth => 3 | .prepare => 4 | .energy => 5 | .paused => 6 | .stopping => 7 | .ended => 8

/-- Pilot codes of POINT_STATE (R463). -/
def Pilot.code : Pilot → Nat
  | .a => 0 | .b => 1 | .c => 2 | .d => 3 | .e => 4 | .f => 5 | .invalid => 6 | .diodeMissing => 7

/-- Pilot state of a code. -/
def pilotOf : Nat → Pilot
  | 0 => .a | 1 => .b | 2 => .c | 3 => .d | 4 => .e | 5 => .f | 6 => .invalid | _ => .diodeMissing

/-- The point is an AC point. -/
def ChargePoint.isAc (x : ChargePoint) : Bool := match x.config with
  | some c => !c.dc
  | none => false

/-- The point's configuration, or that of an unused point. -/
def ChargePoint.cfg (x : ChargePoint) : PointConfig := x.config.getD { dc := false }

/-- High-level protocols enabled (R440). -/
def PointConfig.highLevel (c : PointConfig) : Bool := c.protocols.testBit 1 || c.protocols.testBit 2 || c.protocols.testBit 3

/-- Watts per ampere of an AC point: 230 V in each phase (DEDUCED from R456's example, log 31). -/
def acWatts (c : PointConfig) : Nat := 230 * max 1 c.phases

/-! ## Metering (R455, R461, R471) -/

/-- P in kW and S in kVA of set `k` in the latest window delivered, from its samples (R242 of 08, R455). -/
def setKw (s : State) (k : Nat) : Rat × Rat :=
  match calSet s.met.calib k, (metSet s k).delivered with
  | some e, some (_, window, _) =>
    let (p, _, sva) := setPower (calibAt s window) e (windowSamples s · window) (pastSamples s · window)
    ((p : Rat) / ((powerDen * 10 ^ 9 : Nat) : Rat), (sva : Rat) / ((powerDen * 10 ^ 9 : Nat) : Rat))
  | _, _ => (0, 0)

/-- Set `k` is a satellite's. -/
def satelliteSet (s : State) (k : Nat) : Bool := match calSet s.met.calib k with
  | some e => e.location != 0
  | none => false

/-- Latest FEEDBACK of the converters of a point that have sent one. -/
def convertersOf (s : State) (x : ChargePoint) : List Converter :=
  match x.config with
  | some c => c.nodes.filterMap (fun n => Tab.get s.chg.converters (32 * c.bus + n))
  | none => []

/-- Power of a point in kW in window n−1: its local set, or the sum of its converters' voltage times current (R455). -/
def pointKw (s : State) (k : Nat) : Rat :=
  let x := pointAt s k
  if satelliteSet s (16 + k) || (metSet s (16 + k)).missing then
    (((convertersOf s x).map (fun v => (v.voltage : Int) * v.current)).foldl (· + ·) 0 : Int) / (100000 : Rat)
  else (setKw s (16 + k)).1

/-- Magnitude of the measured current of a point in mA: its converters', or the highest of its set's current channels. -/
def pointMa (s : State) (k : Nat) : Nat :=
  let x := pointAt s k
  if !x.isAc then 100 * (((convertersOf s x).map (fun v : Converter => v.current)).foldl (· + ·) 0).natAbs
  else match calSet s.met.calib (16 + k) with
    | some e => ((e.current.filter (· != 0xFF)).map (fun c => (metChan s c).rms)).foldl max 0
    | none => 0

/-! ## Availability and events (R435, R463) -/

/-- Reasons for which point `k` is unavailable, as bits of CHG_POINT_READ (R435, R484). -/
def pointWhy (s : State) (k : Nat) : Nat :=
  let x := pointAt s k
  ofBits [x.config.isNone, !groupArmed s k, !startupOk s k, x.rcmFailed, x.locked, s.flt.safe,
    !(s.pwr.mode == .full || s.pwr.mode == .lean) || !drivesField s, !s.pwr.fieldOn]

/-- POINT_STATE (R463). -/
def pointStateEvent (k : Nat) (old : PointPhase) (s : State) : State :=
  let x := pointAt s k
  raiseEvent 0x0A00 k true (le 1 x.phase.code ++ le 1 old.code ++ le 1 x.pilot.code ++ le 1 (pointWhy s k) ++ le 4 x.session ++
    zeros 8) s

/-- The match of a point, or the session on it, ends: the engine erases its keys (R442; R516 of 15). -/
def endMatch (k : Nat) (s : State) : State :=
  setVlt (fun v => { v with links := Tab.del v.links k }) (setPoint k (fun x => { x with line := {} }) s)

/-- Point `k` goes to a state. -/
def goTo (k : Nat) (new : PointPhase) (s : State) : State :=
  let old := (pointAt s k).phase
  let ends := new == .idle || new == .unavailable || new == .ended
  if old == new then s
  else
    let s := pointStateEvent k old (setPoint k (fun x => { x with phase := new }) s)
    if ends then endMatch k s else s

/-- Drives the pilot of point `k`. -/
def drivePilot (k : Nat) (d : PilotDrive) (s : State) : State := setPoint k (fun x => { x with drive := d }) s

/-- A condition of source 0xA0 holds: self-test failed, contactor welded, limits stale for 64 ticks (R458, R459, R461). -/
def chargeConditionB (s : State) : Bool :=
  s.chg.points.any (fun x => x.rcmFailed || x.welded) || decide (64 ≤ s.chg.stale)

/-- Ends the charging sources whose conditions are over: trips are reports, stale limits a condition. -/
def syncCharge (s : State) : State :=
  let s := if faultActive s 0xA0 && !chargeConditionB s then endFault 0xA0 s else s
  if faultActive s 0xA1 && decide (s.chg.stale < 4) then endFault 0xA1 s else s

/-- Opens the contactor of point `k`: GL-F's output goes off (R446, R461). -/
def contactorOff (k : Nat) (s : State) : State :=
  removeContactor k (setPoint k (fun x => { x with contactor := false, offBy := none, tested := false }) s)

/-- A held grant ends unused: its command completes with NOT_READY (R469). -/
def dropGrant (k : Nat) (s : State) : State :=
  match (pointAt s k).grant with
  | none => s
  | some g =>
    let s := setPoint k (fun x => { x with grant := none }) s
    match g.ref with
    | some r => complete r stNotReady 0 [] s
    | none => s

/-! ## Sessions (R445, R462) -/

/-- The committed register set of point `k`'s open session (R471). -/
def sessionRec (s : State) (k : Nat) : Option LocalRec :=
  let x := pointAt s k
  match committedLocal s (16 + k) with
  | some r => if x.session ≠ 0 && r.sessionId = x.session then some r else none
  | none => none

/-- SESSION_END (R463). -/
def sessionEndEvent (k session reason imported : Nat) (s : State) : State :=
  raiseEvent 0x0A02 k false (le 4 session ++ le 1 reason ++ zeros 3 ++ le 8 imported) s

/-- Orders the register set of point `k` to close its session in the next ledger tick (R445, R307 of 09). -/
def closeRegister (k : Nat) (s : State) : State :=
  { s with led := { s.led with
      sessionOps := s.led.sessionOps ++ [{ id := s.led.nextSessionOp, set := 16 + k, opens := false, queuedAt := s.time.uptime }]
      nextSessionOp := s.led.nextSessionOp + 1 } }

/-- Closes the session of point `k` with an end reason: energy stops, the final posting falls due, SESSION_END is raised, and
CHG_STOP commands complete (R445, R470). `off` opens the contactor too. -/
def closeSession (k reason : Nat) (off : Bool) (s : State) : State :=
  let x := pointAt s k
  let imported := ((sessionRec s k).map (·.sessionImport)).getD 0
  let s := if off then contactorOff k s else s
  let s := setPoint k (fun x => { x with
    targetDkw := 0, prep := .none, testing := false, formers := [], credit := false, missing := 0, missingSince := none
    differSince := none, scheduleDkw := 0, lastEnd := reason, session := 0, account := 0, ident := 0, card := none, energyCapWh := 0, moneyCap := 0
    stops := [], contractChain := [], emaid := [], challenge := [], vehicle := {} }) s
  if x.session = 0 then s
  else
    let s := sessionEndEvent k x.session reason imported (closeRegister k s)
    x.stops.foldl (fun s r => complete r stOk 0 (le 4 x.session ++ le 1 reason ++ zeros 3) s) s

/-- The point goes to ENDED with an end reason: session closed, held grant dropped, steady +12 V (R445). -/
def endPoint (k reason : Nat) (s : State) : State :=
  drivePilot k .steady (goTo k .ended (dropGrant k (closeSession k reason true s)))

/-- Brings point `k` into line with its availability (R435, R445): loss closes a session with reason 11, or 10 in the safe
state; while unavailable the pilot shows the reason, and a module of a pair without the baton drives none (R548). Where Vigil is a reason
beside another, Vigil's steady +12 V stands, except in the safe state, whose state F holds in every mode (R48 of 02, R542 of 16; DEDUCED,
log 47). -/
def reviewPoint (k : Nat) (s : State) : State :=
  let x := pointAt s k
  let why := pointWhy s k
  let s :=
    if why ≠ 0 && x.phase != .unavailable then
      let s := if x.session ≠ 0 then closeSession k (if s.flt.safe then 10 else 11) true s else contactorOff k s
      goTo k .unavailable (dropGrant k (setPoint k (fun x => { x with linkRetry := false }) s))
    else if why = 0 && x.phase == .unavailable then
      drivePilot k .steady (goTo k (if x.pilot == .a then .idle else .ended) s)
    else s
  if (pointAt s k).phase == .unavailable then
    let released := !drivesField s && s.duty.role != .single
    drivePilot k (if !s.pwr.fieldOn || released then .off
      else if s.pwr.mode == .vigil && !s.flt.safe then .steady else .stateF) s
  else s

/-- Brings every point into line. -/
def reviewPoints (s : State) : State := (List.range 16).foldl (fun s k => reviewPoint k s) s

/-! ## Protective trips (R461) -/

/-- A protective trip at point `k`: PROTECTIVE_TRIP, the fault of its cause, a lock-out, the contactor, and the session's end
with state F for 4 s. -/
def trip (k cause value : Nat) (s : State) : State :=
  let x := pointAt s k
  let recent := (x.rcmTrips.filter (fun t => s.time.uptime < t + 86400000)) ++ [s.time.uptime]
  let rcm := cause == 1 || cause == 2
  let lock := cause == 8 || (rcm && decide (3 ≤ recent.length))
  let s := setChg (fun c => { c with trips := cap 0xFFFFFFFF (c.trips + 1) }) s
  let s := setPoint k (fun x => { x with
    rcmTrips := if rcm then recent else x.rcmTrips, locked := x.locked || lock, welded := x.welded || cause == 8 }) s
  let s := raiseEvent 0x0A04 k false (le 1 cause ++ le 1 (pointAt s k).locked.toNat ++ zeros 2 ++ le 4 value ++ zeros 8) s
  let s := syncCharge (if cause == 8 then raiseFault 0xA0 2 s else raiseFault 0xA1 1 s)
  let s :=
    if x.phase == .link || x.phase == .auth || x.phase.live then
      let s := closeSession k 10 (cause != 6) s
      let s := if cause == 6 then setPoint k (fun x => { x with offBy := some (s.time.uptime + 100) }) s else s
      let s := setPoint k (fun x => { x with tripHold := true, linkRetry := false }) (goTo k .ended (dropGrant k s))
      drivePilot k .stateF s
    else if cause == 7 || cause == 8 then contactorOff k s
    else s
  reviewPoint k s

/-! ## Limits (R437, R445, R456) -/

/-- A target that lets energy flow: not 0, and for basic PWM at least 6 A (R437, R445). -/
def limitPositive (x : ChargePoint) (t : Int) : Bool :=
  if x.isAc && decide (x.protocol ≤ 1) then decide (6 * (acWatts x.cfg : Int) ≤ 100 * t) else t != 0

/-- The duty in 0.1 % that signals a target by PWM (R437), none below 6 A. -/
def dutyOf (x : ChargePoint) (t : Int) : Option Nat :=
  let w := 100 * t.toNat
  let v := acWatts x.cfg
  if w < 6 * v then none
  else if w ≤ 51 * v then some (w * 100 / (6 * v))
  else some (min w (80 * v) * 4 / v + 640)

/-- The pilot of an AC point in PREPARE or ENERGY: 5 % with high-level communication, else the duty of its limit (R437). -/
def driveLimit (k : Nat) (s : State) : State :=
  let x := pointAt s k
  if x.isAc && (x.phase == .prepare || x.phase == .energy) then
    if 1 < x.protocol then drivePilot k (.pwm 50) s
    else match dutyOf x x.targetDkw with
      | some d => drivePilot k (.pwm d) s
      | none => drivePilot k .steady s
  else s

/-- PAUSED: a DC point holds 0 A, an AC point's pilot goes to steady +12 V (R445). -/
def pausePoint (k : Nat) (s : State) : State :=
  let s := goTo k .paused (setPoint k (fun x => { x with prep := .none }) s)
  if (pointAt s k).isAc then drivePilot k .steady s else s

/-- The residual-current self-test before a contactor close begins (R459). -/
def startSelfTest (k : Nat) (s : State) : State := setPoint k (fun x => { x with testing := true, tested := false }) s

/-- Closes the contactor of a point whose self-test has passed (R446). -/
def contactorOn (k : Nat) (s : State) : State := setPoint k (fun x => { x with contactor := true, prep := .closing }) s

/-- An AC point in ENERGY whose contactor is open and whose vehicle shows C closes it again, after a self-test (R445, R459). -/
def recloseContactor (k : Nat) (s : State) : State :=
  let x := pointAt s k
  if x.isAc && x.phase == .energy && x.pilot == .c && !x.contactor && !x.testing then startSelfTest k s else s

/-- A point has a new target: ENERGY and PAUSED follow it, and it goes out by the pilot (R445, R456). -/
def limitChanged (k : Nat) (old : Int) (s : State) : State :=
  let x := pointAt s k
  let pos := limitPositive x x.targetDkw
  let s :=
    if x.phase == .energy && !pos then pausePoint k s
    else if x.phase == .paused && pos && !limitPositive x old then recloseContactor k (goTo k .energy s)
    else s
  driveLimit k s

/-! ## Stopping and preparation (R445, R446) -/

/-- A stop in the session state machine (R445). -/
def stopPoint (k reason : Nat) (s : State) : State :=
  match (pointAt s k).phase with
  | .idle => dropGrant k s
  | .link => endPoint k reason s
  | .auth => endPoint k reason s
  | .prepare => goTo k .stopping (setPoint k (fun x => { x with endReason := reason, prep := .none, testing := false }) s)
  | .energy => goTo k .stopping (setPoint k (fun x => { x with endReason := reason, prep := .none, testing := false }) s)
  | .paused => goTo k .stopping (setPoint k (fun x => { x with endReason := reason, prep := .none, testing := false }) s)
  | _ => s

/-- Whether an account may pay (R452): ACTIVE, not damaged, and for prepayment a committed balance of at least floor +
stop_margin. -/
def grantValid (s : State) (account stopMargin : Nat) : Bool :=
  let a := committedAccount s account
  a.phase == .active && !accountDamaged s account &&
    (!a.prepay || decide ((levels (activePlan s a.plan) a).1 + stopMargin ≤ a.balance))

/-- ID_SEEN (R463): method 1 card, 2 contract. -/
def idSeenEvent (k id method cause issuer : Nat) (number : Bytes) (s : State) : State :=
  raiseEvent 0x0A03 k false (le 4 id ++ le 1 method ++ le 1 cause ++ le 2 issuer ++ pad 8 number) s

/-- A grant in AUTH: the session opens and preparation starts, or it is a refusal (R445, R452). -/
def applyGrant (k : Nat) (g : Grant) (s : State) : State :=
  let x := pointAt s k
  if !grantValid s g.account x.cfg.stopMargin then
    let s := match g.ref with
      | some r => complete r stNotReady 0 [] s
      | none => idSeenEvent k 0 g.ident 4 ((g.card.map (·.1)).getD 0) (match g.card with
          | some c => c.2
          | none => x.emaid) s
    endPoint k 14 s
  else
    let id := if s.chg.lastSession + 1 < 2 ^ 32 then s.chg.lastSession + 1 else 1
    let a := committedAccount s g.account
    let s := setChg (fun c => { c with lastSession := id, sessionsTotal := cap 0xFFFFFFFF (c.sessionsTotal + 1) }) s
    let s := setPoint k (fun x => { x with
      session := id, account := g.account, ident := g.ident, card := g.card, energyCapWh := g.energyCapWh, moneyCap := g.moneyCap
      grant := none, checked := now s / 1024, credit := false, missing := 0, missingSince := none, prep := .selfTest, endReason := 0 }) s
    let s := { s with led := { s.led with
      sessionOps := s.led.sessionOps ++ [{ id := s.led.nextSessionOp, set := 16 + k, opens := true, session := id, account := g.account
                                           plan := a.plan, start := now s, queuedAt := s.time.uptime }]
      nextSessionOp := s.led.nextSessionOp + 1 } }
    let s := raiseEvent 0x0A01 k false (le 4 id ++ le 4 g.account ++ le 1 x.protocol ++ le 1 g.ident ++ zeros 6) s
    let s := match g.ref with
      | some r => complete r stOk 0 (le 4 id ++ zeros 4 ++ le 8 (now s)) s
      | none => s
    driveLimit k (startSelfTest k (goTo k .prepare s))

/-- A grant in the session state machine (R445): held in IDLE and LINK, applied in AUTH, ignored or refused elsewhere. -/
def takeGrant (k : Nat) (g : Grant) (s : State) : State :=
  match (pointAt s k).phase with
  | .idle => setPoint k (fun x => { x with grant := some g }) (dropGrant k s)
  | .link => setPoint k (fun x => { x with grant := some g }) (dropGrant k s)
  | .auth => applyGrant k g s
  | _ => match g.ref with
    | some r => complete r stNotReady 0 [] s
    | none => s

/-- AUTH is entered: a held grant takes effect (R445). -/
def enterAuth (k : Nat) (s : State) : State :=
  let s := goTo k .auth s
  match (pointAt s k).grant with
  | some g => applyGrant k g (setPoint k (fun x => { x with grant := none }) s)
  | none => s

/-- A refusal in the session state machine (R445). -/
def refusePoint (k : Nat) (s : State) : State :=
  match (pointAt s k).phase with
  | .idle => dropGrant k s
  | .link => dropGrant k s
  | .auth => endPoint k 14 s
  | _ => s

/-! ## Pilot and link (R436, R440, R443) -/

/-- The high-level link starts: 5 %, a fresh network key (R440). An AEAD engine generates it and the encryption key of the network and
holds both (R442; random, log 12: use 41); with no engine of the class in service the request is refused (R527 of 15). -/
def startLink (k : Nat) (s : State) : State :=
  let s := drivePilot k (.pwm 50) (setPoint k (fun x => { x with linkRetry := false }) (endMatch k s))
  match engineFor s 0 with
  | none => s
  | some i =>
    let d := drawBytes 41 32 (engineWork 0 s).2
    let keys : LinkKeys := { engine := i, nmk := d.1.take 16, nek := d.1.drop 16 }
    setVlt (fun v => { v with links := Tab.put v.links k keys }) d.2

/-- LINK ends without a protocol: AC with basic PWM goes on by PWM, otherwise ENDED (R443, R445). -/
def linkFallback (k : Nat) (s : State) : State :=
  let s := endMatch k s
  let x := pointAt s k
  if x.isAc && x.cfg.protocols.testBit 0 then
    enterAuth k (drivePilot k .steady (setPoint k (fun x => { x with protocol := 1, linkRetry := false }) s))
  else endPoint k 8 (setPoint k (fun x => { x with linkRetry := false }) s)

/-- Pilot A at a point (R445). -/
def pilotGone (k : Nat) (s : State) : State :=
  let x := pointAt s k
  match x.phase with
  | .unavailable => s
  | .idle => s
  | .ended => if x.tripHold then s else drivePilot k .steady (goTo k .idle s)
  | _ =>
    let s := if x.session ≠ 0 then closeSession k 9 true s else s
    drivePilot k .steady (goTo k .idle (setPoint k (fun x => { x with linkRetry := false, linkFailures := 0, protocol := 0 }) s))

/-- A coded cable is recognised where the point needs one: without it no PWM is started (R438). -/
def ChargePoint.cableKnown (x : ChargePoint) : Bool := x.cfg.ppMode != 0 || x.ppBand.isSome

/-- Pilot B or C at a point (R445). In IDLE the 5 % of a link waits until a coded cable is recognised (R438). -/
def pilotConnected (k : Nat) (old : Pilot) (s : State) : State :=
  let x := pointAt s k
  let plugged := old == .a
  match x.phase with
  | .unavailable => if plugged && x.rcmFailed then startSelfTest k s else s
  | .idle =>
    if x.cfg.highLevel && !x.cableKnown then s
    else if x.cfg.highLevel then startLink k (goTo k .link (setPoint k (fun x => { x with linkFailures := 0, protocol := 0 }) s))
    else enterAuth k (drivePilot k .steady (setPoint k (fun x => { x with protocol := if x.isAc then 1 else 0 }) s))
  | .prepare => if x.isAc && x.pilot == .c && x.prep == .waitC then contactorOn k s else s
  | .energy =>
    if x.pilot == .b then
      if x.isAc then pausePoint k (contactorOff k s) else stopPoint k 1 s
    else recloseContactor k s
  | .paused =>
    if !x.isAc then s
    else if x.pilot == .b then contactorOff k s
    else if limitPositive x x.targetDkw then driveLimit k (recloseContactor k (goTo k .energy s))
    else s
  | _ => s

/-- A pilot state is recognised (R436, R439): D, E and invalid levels are protective trips. -/
def pilotChange (k : Nat) (p : Pilot) (s : State) : State :=
  let old := (pointAt s k).pilot
  let s := setPoint k (fun x => { x with pilot := p }) s
  if !pointConfigured s k || old == p then s
  else match p with
    | .a => pilotGone k s
    | .b => pilotConnected k old s
    | .c => pilotConnected k old s
    | .f => s
    | _ => trip k 4 0 s

/-- The protocol chosen among those offered: ISO 15118-20, ISO 15118-2, DIN SPEC 70121 (R443); the first only over TLS, the last never, the
second as tls_policy has it (R444). -/
def chooseProtocol (c : PointConfig) (offered : List Nat) (tls : Bool) : Option Nat :=
  let served (p : Nat) : Bool := if p = 4 then tls else if p = 3 then tls || c.tlsPolicy == 0 else !tls
  [4, 3, 2].find? (fun p => offered.contains p && c.protocols.testBit (p - 1) && served p)

/-- The engine that holds the keys of a point's match holds those of its TLS connection. -/
def setTls (k : Nat) (t : TlsKeys) (s : State) : State :=
  setVlt (fun v => { v with links := v.links.map (fun e => if e.1 = k then (e.1, { e.2 with tls := some t }) else e) }) s

/-- The handshake of a TLS connection has ended: the engine holds its traffic keys (R442, R444; how they follow from the handshake is the
standard's, so they are free, log 12: use 45). -/
def startTls (k : Nat) (v13 : Bool) (s : State) : State :=
  let d := drawBytes 45 152 (engineWork 0 (engineWork 1 s).2).2
  let size := if v13 then 32 else 16
  let keys : TlsKeys := {
    v13 := v13, writeKey := slice d.1 0 size, readKey := slice d.1 32 size, writeMac := slice d.1 64 32, readMac := slice d.1 96 32
    writeIv := slice d.1 128 12, readIv := slice d.1 140 12 }
  setTls k keys d.2

/-- The vehicle link is established, over TLS or not (R440, R443 to R445). -/
def linkUp (k : Nat) (offered : List Nat) (tls : Bool) (s : State) : State :=
  let x := pointAt s k
  if x.phase == .link && !x.linkRetry then
    match chooseProtocol x.cfg offered tls with
    | some p =>
      let s := if tls then startTls k (p == 4) s else s
      enterAuth k (setPoint k (fun x => { x with protocol := p }) s)
    | none => linkFallback k s
  else s

/-- The vehicle link is lost, or a protocol times out (R440, R445). -/
def linkDown (k : Nat) (s : State) : State :=
  let s := endMatch k s
  let x := pointAt s k
  match x.phase with
  | .link =>
    if x.linkRetry then s
    else if x.linkFailures < 2 then
      drivePilot k .stateF (setPoint k (fun x => { x with linkFailures := x.linkFailures + 1, linkRetry := true }) s)
    else linkFallback k s
  | .auth => if 1 < x.protocol then endPoint k 8 s else s
  | .prepare => stopPoint k 8 s
  | .energy => stopPoint k 8 s
  | .paused => stopPoint k 8 s
  | _ => s

/-! ## Self-test, insulation, preparation (R446, R459, R460) -/

/-- The residual-current self-test of a point ends (R459). -/
def selfTestDone (k : Nat) (passed : Bool) (s : State) : State :=
  let x := pointAt s k
  if !x.testing then s
  else
    let s := setPoint k (fun x => { x with testing := false, tested := passed, rcmFailed := !passed }) s
    if !passed then reviewPoint k (raiseFault 0xA0 1 s)
    else
      let s := syncCharge s
      let s := match x.phase with
        | .prepare =>
          if !x.isAc then setPoint k (fun x => { x with prep := .cableCheck }) s
          else if x.pilot == .c then contactorOn k s
          else setPoint k (fun x => { x with prep := .waitC }) s
        | .energy => if x.isAc && x.pilot == .c && !x.contactor then contactorOn k s else s
        | _ => s
      reviewPoint k s

/-- An insulation value of a DC point (R460): a valid one completes the cable check, one below 100 Ω/V trips. -/
def insulationValue (k kohm : Nat) (s : State) : State :=
  let x := pointAt s k
  let s := setPoint k (fun x => { x with risoKohm := some kohm }) s
  let v := x.vehicle.maxVoltageDv
  if x.isAc || x.session = 0 || v = 0 then s
  else if 10000 * kohm < 100 * v then trip k 3 kohm s
  else if x.phase == .prepare && x.prep == .cableCheck && decide (500 * v ≤ 10000 * kohm) then
    setPoint k (fun x => { x with prep := .precharge }) s
  else s

/-- Precharge has come within 20 V of the vehicle's voltage: the contactor is closed (R446). -/
def prechargeReached (k targetDv presentDv : Nat) (s : State) : State :=
  let x := pointAt s k
  let near := decide (targetDv ≤ presentDv + 200) && decide (presentDv ≤ targetDv + 200)
  let s := setPoint k (fun x => { x with vehicle := { x.vehicle with presentVoltageDv := targetDv } }) s
  if x.phase == .prepare && x.prep == .precharge && near && x.tested then contactorOn k s else s

/-- Preparation is complete: feedback shows closed (R446). -/
def preparationDone (k : Nat) (s : State) : State :=
  let x := pointAt s k
  if x.phase == .prepare && x.prep == .closing && feedbackOf s k == some .closed then
    let s := setPoint k (fun x => { x with prep := .none }) s
    if limitPositive x x.targetDkw then driveLimit k (goTo k .energy s) else pausePoint k s
  else s

/-- Stopping is complete: feedback shows open (R446). -/
def stoppingDone (k : Nat) (s : State) : State :=
  let x := pointAt s k
  if x.phase == .stopping && !x.contactor && feedbackOf s k == some .opened then endPoint k x.endReason s else s

/-! ## Ticks (R445, R446, R461, R462) -/

/-- Credit pause in a ledger tick, and the caps at the posting of a round (R462). -/
def creditTick (k : Nat) (s : State) : State :=
  let x := pointAt s k
  if x.session = 0 then s
  else
    let a := committedAccount s x.account
    let h := sessionRec s k
    let cost := (h.map (·.roundCost)).getD 0
    let short := a.prepay && decide (a.balance - cost < (levels (activePlan s a.plan) a).1 + x.cfg.stopMargin)
    let s := setPoint k (fun x => { x with credit := short }) s
    let round := now s / 1024
    match h with
    | none => s
    | some h =>
      if x.checked < round && localStamp s (16 + k) / 1024 = round then
        let s := setPoint k (fun x => { x with checked := round }) s
        if x.energyCapWh ≠ 0 && x.energyCapWh * 1000 ≤ h.sessionImport then stopPoint k 4 s
        else if x.moneyCap ≠ 0 && (x.moneyCap : Int) ≤ h.sessionDebited then stopPoint k 5 s
        else if short then stopPoint k 6 s
        else s
      else s

/-- Ticks without a record of the set of an open session (R462). -/
def meteringTick (k : Nat) (s : State) : State :=
  let x := pointAt s k
  if x.session ≠ 0 && satelliteSet s (16 + k) && (metSet s (16 + k)).missing then
    setPoint k (fun x => { x with missing := x.missing + 1 }) s
  else setPoint k (fun x => { x with missing := 0, missingSince := none }) s

/-- The ramp of a stopping point: its setpoint falls by ramp_down; below 5 A the contactor opens (R446). -/
def stoppingTick (k : Nat) (s : State) : State :=
  let x := pointAt s k
  if x.phase != .stopping then s
  else
    let r : Int := x.cfg.rampDownDkw
    let t := if 0 < x.targetDkw then max 0 (x.targetDkw - r) else min 0 (x.targetDkw + r)
    let s := setPoint k (fun x => { x with targetDkw := t }) s
    if x.contactor && decide (pointMa s k < 5000) then contactorOff k s else s

/-- A contactor that a converter trip leaves closed for at most 100 ms (R461). -/
def offTick (k : Nat) (s : State) : State :=
  match (pointAt s k).offBy with
  | some t => if t ≤ s.time.uptime || pointMa s k < 5000 then contactorOff k s else s
  | none => s

/-- What a tick start does at every charge point. `ledger` says that the tick is a ledger tick. -/
def chargeTick (ledger : Bool) (s : State) : State :=
  let s := (List.range 16).foldl (fun s k =>
    let s := reviewPoint k s
    let s := meteringTick k (if ledger then creditTick k s else s)
    offTick k (stoppingTick k s)) s
  syncCharge s

/-! ## Takeover (R447) -/

/-- A new duty module closes the sessions of the previous one with reason 12 and starts every point from its pilot state. -/
def takeoverPoints (s : State) : State :=
  (List.range 16).foldl (fun s k =>
    let s := match committedLocal s (16 + k) with
      | some r =>
        if r.sessionOpen then sessionEndEvent k r.sessionId 12 r.sessionImport (closeRegister k (setPoint k (fun x => { x with lastEnd := 12 }) s))
        else s
      | none => s
    let s := reviewPoint k s
    let x := pointAt s k
    if x.phase == .ended then
      let s := drivePilot k .steady (goTo k .idle s)
      if x.pilot == .b || x.pilot == .c then pilotConnected k .a s else s
    else s) s

end Sys2Proof.Machine
end

