-- ==== Sys2Proof/Machine/VehicleLink.lean ====
section
/-!
DEFINITION. The vehicle line of a charge point: its Green PHY front-end, the modem and record kernels, and the frame and record
protection that the AEAD engines give. Chapter 13 of the spec (R441 to R444).
-/

namespace Sys2Proof.Machine

/-! ## Record protection (R442, R444) -/

/-- Header of a TLS record: type, version 3.3, length. -/
def tlsHeader (kind len : Nat) : Bytes := be 1 kind ++ [0x03#8, 0x03#8] ++ be 2 len

/-- The MAC of a TLS 1.2 record. -/
def tlsMac (key : Bytes) (seq kind : Nat) (content : Bytes) : Bytes :=
  hmac256 key (be 8 seq ++ tlsHeader kind content.length ++ content)

/-- The nonce of a TLS 1.3 record: the static one with the record's number on its last eight bytes. -/
def tlsNonce (iv : Bytes) (seq : Nat) : Bytes := List.zipWith (· ^^^ ·) iv (be 12 seq)

/-- Application data in one record (type 23): AES-128-CBC with HMAC-SHA256 under TLS 1.2, AES-256-GCM under TLS 1.3. -/
def tlsSeal (t : TlsKeys) (iv content : Bytes) : Bytes :=
  if t.v13 then
    let head := tlsHeader 23 (content.length + 17)
    head ++ gcmSeal t.writeKey (tlsNonce t.writeIv t.sent) head (content ++ be 1 23)
  else
    let m := content ++ tlsMac t.writeMac t.sent 23 content
    let fill := 15 - m.length % 16
    let body := iv ++ cbcSeal t.writeKey iv (m ++ List.replicate (fill + 1) (BitVec.ofNat 8 fill))
    tlsHeader 23 body.length ++ body

/-- The content of a TLS 1.2 record's fragment; absent where its padding or its MAC is wrong. -/
def tlsOpen12 (t : TlsKeys) (kind : Nat) (body : Bytes) : Option Bytes :=
  let m := cbcOpen t.readKey (body.take 16) (body.drop 16)
  let fill := rd m (m.length - 1) 1
  let content := m.take (m.length - 33 - fill)
  if 64 ≤ body.length ∧ body.length % 16 = 0 ∧ fill + 33 ≤ m.length ∧
      m.drop (m.length - 1 - fill) = List.replicate (fill + 1) (BitVec.ofNat 8 fill) ∧
      slice m content.length 32 = tlsMac t.readMac t.opened kind content then some content
  else none

/-- The content of a TLS 1.3 record without its type and padding; absent where its tag is wrong or it is no application data. -/
def tlsOpen13 (t : TlsKeys) (head body : Bytes) : Option Bytes :=
  (gcmOpen t.readKey (tlsNonce t.readIv t.opened) head body).bind (fun m =>
    match m.reverse.dropWhile (· == 0) with
    | kind :: content => if kind = 23 then some content.reverse else none
    | [] => none)

/-- The application data of a record. -/
def tlsOpen (t : TlsKeys) (record : Bytes) : Option Bytes :=
  let head := record.take 5
  let body := record.drop 5
  if head ≠ tlsHeader 23 body.length then none
  else if t.v13 then tlsOpen13 t head body else tlsOpen12 t 23 body

/-! ## Front-end (R441) -/

/-- Changes the line of a point. -/
def setLine (k : Nat) (f : VehicleLine → VehicleLine) (s : State) : State := setPoint k (fun x => { x with line := f x.line }) s

/-- A front-end samples only while its point is in LINK or a later state with high-level communication. -/
def frontEndOn (x : ChargePoint) : Bool :=
  (x.phase == .link && !x.linkRetry) || (1 < x.protocol && (x.phase == .auth || x.phase.live))

/-- Bytes of a tick's receive samples: 75,000 of 12 bits. -/
def gphyTickBytes : Nat := 112500

/-- A tick of the front-ends: the samples of the tick that ends are carried under GPHY_RX, and those of GPHY_TX have gone out. -/
def frontEndTick (samples : List (Nat × Bytes)) (s : State) : State :=
  (List.range 16).foldl (fun s k =>
    let on := s.pwr.fieldOn && frontEndOn (pointAt s k)
    setLine k (fun l => { l with tx := [], rx := if on then (((samples.find? (fun e => e.1 == k)).map (·.2)).getD []).take gphyTickBytes else [] }) s) s

/-! ## Messages and kernels (R441 to R444) -/

/-- A message of the module to the vehicle of a point: 1 renegotiation, 2 challenge, 3 FAILED_NoCertificateAvailable, 4 refusal. -/
def sayVehicle (k kind : Nat) (s : State) : State :=
  let bytes := Config.v2gBytes (pointAt s k).protocol kind
  setChg (fun c => { c with messages := (k, kind) :: c.messages }) (setLine k (fun l => { l with toSend := l.toSend ++ [bytes] }) s)

/-- An operation of an AEAD engine under the keys of a point's match. -/
def withLink (k : Nat) (f : LinkKeys → State → State) (s : State) : State :=
  match Tab.get s.vlt.links k with
  | none => s
  | some keys =>
    let r := engineWork 0 s
    if r.1 then f keys r.2 else r.2

/-- GPHY_MODEM: the frames of the tick's samples are decrypted by the engine; frames to send become samples, unless the transmitter is
muted or not driven (R441, R442; R48 of 02; R548 of 16). -/
def runGphyModem (k : Nat) (s : State) : State :=
  let x := pointAt s k
  if !frontEndOn x then s
  else
    let frames := Config.gphyFrames x.line.rx
    let out := if s.flt.safe || !drivesField s then [] else x.line.outbound.flatMap Config.gphySamples
    let s := setLine k (fun l => { l with rx := [], outbound := [], tx := out }) s
    if frames.isEmpty then s
    else withLink k (fun keys s =>
      setLine k (fun l => { l with inbound := l.inbound ++ frames.filterMap (Config.gphyOpen keys.nek) }) s) s

/-- V2G_STACK takes the application data received; what they say comes as V2G_MESSAGE_RX (R443; log 54). -/
def runV2gStack (k : Nat) (s : State) : State := setLine k (fun l => { l with received := [] }) s

/-- One record received over TLS is opened; a record that does not verify is dropped. -/
def recordReceived (k : Nat) (record : Bytes) (s : State) : State :=
  match (Tab.get s.vlt.links k).bind (·.tls) with
  | none => setLine k (fun l => { l with received := l.received ++ [record] }) s
  | some t =>
    match tlsOpen t record with
    | none => s
    | some content =>
      setTls k { t with opened := t.opened + 1 }
        (setLine k (fun l => { l with received := l.received ++ [content] }) s)

/-- One message to send: protected where the connection has TLS, then encrypted into a frame (the initial vector is random, log 12: use
46). -/
def recordSent (k : Nat) (content : Bytes) (s : State) : State :=
  match Tab.get s.vlt.links k with
  | none => s
  | some keys =>
    match keys.tls with
    | none => setLine k (fun l => { l with outbound := l.outbound ++ [Config.gphySeal keys.nek content] }) s
    | some t =>
      let d := drawBytes 46 16 s
      setTls k { t with sent := t.sent + 1 }
        (setLine k (fun l => { l with outbound := l.outbound ++ [Config.gphySeal keys.nek (tlsSeal t d.1 content)] }) d.2)

/-- TLS_RECORD: records received are opened and messages to send protected by the engine, in their order (R442, R444). -/
def runTlsRecord (k : Nat) (s : State) : State :=
  let line := (pointAt s k).line
  if line.inbound.isEmpty && line.toSend.isEmpty then s
  else withLink k (fun _ s =>
    let s := setLine k (fun l => { l with inbound := [], toSend := [] }) s
    line.toSend.foldl (fun s m => recordSent k m s) (line.inbound.foldl (fun s r => recordReceived k r s) s)) s

end Sys2Proof.Machine
end

