-- ==== Sys2Proof/Machine/Allot.lean ====
section
/-!
DEFINITION. HEADROOM, ALLOT and CAN_SETPOINT: headroom of a supply path, sharing, export, converter frames, stale limits.
Chapter 13 of the spec (R453 to R458).
-/

namespace Sys2Proof.Machine

/-- Changes what ALLOT has computed for a path; 16 stands for the points of no path. -/
def setShare (p : Nat) (f : PathShare → PathShare) (s : State) : State :=
  setChg (fun c => { c with shares := Tab.upd c.shares p {} f }) s

/-- What ALLOT has computed for a path. -/
def shareAt (s : State) (p : Nat) : PathShare := Tab.getD s.chg.shares p {}

/-- The supply path of a point (R455). -/
def pathOf (s : State) (k : Nat) : Option Nat := (s.chg.paths.find? (fun e => e.2.members.testBit k)).map (·.1)

/-- A point takes part in sharing (R456). -/
def PointPhase.active (p : PointPhase) : Bool := p == .prepare || p == .energy || p == .paused

/-- Active points of a path, or of no path. -/
def activePoints (s : State) (path : Option Nat) : List Nat :=
  (List.range 16).filter (fun k => (pointAt s k).phase.active && pathOf s k == path)

/-- kVA of a power in kW at a point (R455). -/
def kva (c : PointConfig) (kw : Rat) : Rat := kw * c.supplyFactor / 1000

/-- A target in 0.1 kW as kW. -/
def kwOf (t : Int) : Rat := (t : Rat) / 10

/-! ## Caps (R438, R452, R456, R462) -/

/-- Rating of a point in kW. -/
def ratingKw (c : PointConfig) : Rat :=
  if c.dc then (c.dcRatingDkw : Rat) / 10 else ((c.acRatingA * acWatts c : Nat) : Rat) / 1000

/-- Cable of an AC point in kW (R438): 0 where no coded cable is recognised. -/
def cableKw (x : ChargePoint) : List Rat :=
  let c := x.cfg
  if c.dc then []
  else if c.ppMode = 0 then [(((x.ppBand.getD 0) * acWatts c : Nat) : Rat) / 1000]
  else if c.ppMode = 1 then [((c.cableA * acWatts c : Nat) : Rat) / 1000]
  else []

/-- Voltage a DC point's power is reckoned at, in 0.1 V: the vehicle's present voltage, before precharge its target. -/
def pointDv (x : ChargePoint) : Nat :=
  if x.vehicle.presentVoltageDv ≠ 0 then x.vehicle.presentVoltageDv else x.vehicle.targetVoltageDv

/-- Converters available at a DC point, in kW. -/
def convertersKw (s : State) (x : ChargePoint) : List Rat :=
  let c := x.cfg
  if !c.dc then []
  else
    let da := ((convertersOf s x).map (fun v => v.available)).sum
    (((da * pointDv x : Nat) : Rat) / 100000) ::
      (if c.converterDkw = 0 then [] else [((c.nodes.length * c.converterDkw : Nat) : Rat) / 10])

/-- cap_k in kW (R456): 0 during a credit pause and while metering is stale (R462). -/
def capKw (s : State) (k : Nat) : Rat :=
  let x := pointAt s k
  if x.credit || x.missingSince.isSome then 0
  else
    (cableKw x ++ convertersKw s x ++ [kwOf x.vehicle.maxDkw]).foldl min (ratingKw x.cfg)

/-! ## The follow time of AC limits (*Limit paths*) -/

/-- Follow time of an AC point's limit in ms. -/
def followMs (x : ChargePoint) : Nat :=
  if x.protocol = 3 then 10000
  else if x.protocol = 4 then (if x.vehicle.scheduled then 10000 else 2000)
  else 5000

/-- What a held AC point is counted at, in kVA: its former limit, unless its measured draw is lower; never below its limit in force. -/
def countedKva (s : State) (k : Nat) : Option Rat :=
  let x := pointAt s k
  match (x.formers.filter (fun f => s.time.uptime < f.until')).map (fun f => f.kva) with
  | [] => none
  | f :: fs => some (max (kva x.cfg (kwOf x.targetDkw)) (min (fs.foldl max f) (kva x.cfg (pointKw s k))))

/-- What point `k` draws, in kVA (R455). -/
def drawKva (s : State) (k : Nat) : Rat := (countedKva s k).getD (kva (pointAt s k).cfg (pointKw s k))

/-- HEADROOM of a path (R455). -/
def runHeadroom (path : Nat) (s : State) : State :=
  match Tab.get s.chg.paths path with
  | none => s
  | some c =>
    let points := (List.range 16).filter (fun k => c.members.testBit k && pointConfigured s k)
    let draws := (points.map (drawKva s)).foldl (· + ·) 0
    let h : Rat := (c.limitKva : Rat) - c.reserveKva - ((setKw s c.headSet).2 - draws)
    setShare path (fun x => { x with tick := some (now s), headroom := h }) s

/-! ## Sharing (R456) -/

/-- A point in the sharing of a path: number, priority, need and minimum in kVA. -/
structure Claim where
  point : Nat
  priority : Nat
  need : Rat
  give : Rat

/-- Claim of a point. -/
def claimOf (s : State) (k : Nat) : Claim :=
  let c := (pointAt s k).cfg
  let need := kva c (max 0 (capKw s k))
  { point := k, priority := c.priority, need := need, give := min (kva c (kwOf c.minDkw)) need }

/-- Minimums in order, while the headroom lasts: the claims that get theirs, and what is left. -/
def grantMinimums : List Claim → Rat → List Claim × Rat
  | [], h => ([], h)
  | c :: cs, h =>
    if c.give ≤ h then
      let r := grantMinimums cs (h - c.give)
      (c :: r.1, r.2)
    else ([], h)

/-- Shares what is left among the claims of one level in proportion to what they still need. -/
def shareLevel (cs : List Claim) (left : Rat) : List (Nat × Rat) × Rat :=
  let extra := (cs.map (fun c => c.need - c.give)).foldl (· + ·) 0
  let part : Rat := if extra ≤ 0 || left ≤ 0 then 0 else min 1 (left / extra)
  (cs.map (fun c => (c.point, c.give + (c.need - c.give) * part)), left - extra * part)

/-- Shares by priority level, 0 first. -/
def shareLevels (cs : List Claim) : List Nat → Rat → List (Nat × Rat)
  | [], _ => []
  | p :: ps, left =>
    let r := shareLevel (cs.filter (fun c => c.priority == p)) left
    r.1 ++ shareLevels cs ps r.2

/-- Shares a headroom among points: kVA by point; those whose minimum is not granted get nothing (R456). -/
def shareHeadroom (s : State) (points : List Nat) (h : Rat) : List (Nat × Rat) :=
  let cs := (List.range 8).flatMap (fun p => (points.map (claimOf s)).filter (fun c => c.priority == p))
  let r := grantMinimums cs h
  shareLevels r.1 (List.range 8) r.2

/-- The share of a point in a list. -/
def shareOf (l : List (Nat × Rat)) (k : Nat) : Rat := ((l.find? (fun e => e.1 == k)).map (·.2)).getD 0

/-- A power in kW as a target, rounded down to 0.1 kW. -/
def targetOf (kw : Rat) : Int := (kw * 10).floor

/-- The ramp limits of a point about its target in force (R456). -/
def rampTo (x : ChargePoint) (t : Int) : Int :=
  clamp (x.targetDkw - x.cfg.rampDownDkw) (x.targetDkw + x.cfg.rampUpDkw) t

/-- Charging targets of a path's active points at a headroom: held AC points are counted first (R456). -/
def chargeTargets (s : State) (c : PathConfig) (points : List Nat) (h : Rat) : List (Nat × Int) :=
  let held := points.filter (fun k => (countedKva s k).isSome)
  let free := points.filter (fun k => (countedKva s k).isNone)
  let reserved := (held.map (drawKva s)).foldl (· + ·) 0
  let sharesFree := shareHeadroom s free (h - reserved)
  let whole := shareHeadroom s points h
  let within := decide ((setKw s c.headSet).2 ≤ c.limitKva)
  points.map (fun k =>
    let x := pointAt s k
    let v := if held.contains k then min (shareOf whole k) (drawKva s k) else shareOf sharesFree k
    let t := targetOf (v * 1000 / x.cfg.supplyFactor)
    (k, if within then rampTo x t else t))

/-! ## Export (R457) -/

/-- A session may export. -/
def mayExport (s : State) (k : Nat) : Bool :=
  let x := pointAt s k
  x.cfg.dc && x.protocol == 4 && x.cfg.protocols.testBit 5 && x.vehicle.bpt && (x.phase == .energy || x.phase == .paused)

/-- Discharge a session may give, in 0.1 kW. -/
def dischargeCap (x : ChargePoint) : Nat := min x.cfg.dischargeDkw x.vehicle.maxDischargeDkw

/-- Relief of one kW of discharge. -/
def relief (x : ChargePoint) : Rat := (x.cfg.exportFactor : Rat) / 1000

/-- Sessions of one priority share a deficit equally, the smallest first; the discharges in 0.1 kW and what stays uncovered. The
rounding of a share to 0.1 kW is not given (log 17). -/
def exportLevel (s : State) : List Nat → Rat → List (Nat × Int) × Rat
  | [], left => ([], left)
  | k :: ks, left =>
    if left ≤ 0 then ([], left)
    else
      let x := pointAt s k
      let share := left / ((ks.length + 1 : Nat) : Rat)
      let want := 10 * share / relief x
      let d := min (exactOr want.num want.den) (dischargeCap x)
      let r := exportLevel s ks (left - kwOf d * relief x)
      ((k, -d) :: r.1, r.2)

/-- Points sorted by the relief they can give. -/
def insertByRelief (s : State) (k : Nat) : List Nat → List Nat
  | [] => [k]
  | j :: js =>
    if kwOf (dischargeCap (pointAt s k)) * relief (pointAt s k) ≤ kwOf (dischargeCap (pointAt s j)) * relief (pointAt s j) then k :: j :: js
    else j :: insertByRelief s k js

/-- Export by priority, lowest priority first. -/
def exportLevels (s : State) (points : List Nat) : List Nat → Rat → List (Nat × Int) × Rat
  | [], left => ([], left)
  | p :: ps, left =>
    let level := (points.filter (fun k => (pointAt s k).cfg.priority == p)).foldr (insertByRelief s) []
    let r := exportLevel s level left
    let q := exportLevels s points ps r.2
    (r.1 ++ q.1, q.2)

/-- ALLOT for a path, once in a tick: targets of its active points, with export where every charging target is 0 and the headroom
still does not suffice (R456, R457). -/
def allotPath (path : Nat) (c : PathConfig) (s : State) : State :=
  let h := (shareAt s path).headroom
  let points := activePoints s (some path)
  let targets := chargeTargets s c points h
  let assumed := (targets.map (fun e => (countedKva s e.1).getD (kva (pointAt s e.1).cfg (kwOf e.2)))).foldl (· + ·) 0
  let deficit := assumed - h
  if 0 < deficit && targets.all (fun e => e.2 ≤ 0) then
    let allowed := sealInForce s 8 && c.exportOk
    let r := if allowed then exportLevels s (points.filter (mayExport s)) [7, 6, 5, 4, 3, 2, 1, 0] deficit else ([], deficit)
    let targets := targets.map (fun e => match r.1.find? (fun x => x.1 == e.1) with
      | some x => x
      | none => e)
    let exported := ((targets.filter (fun e => e.2 < 0)).map (fun e => -e.2)).foldl (· + ·) 0
    let round := now s / 1024
    let s := setShare path (fun x => { x with targets := targets, sharedAt := some (now s) }) s
    if 0 < r.2 && (shareAt s path).shortRound ≠ some round then
      let short := 10 * r.2
      raiseEvent 0x0A05 path true (leS 4 (exactOr short.num short.den) ++ leS 4 exported ++ zeros 8)
        (setShare path (fun x => { x with shortRound := some round }) s)
    else s
  else setShare path (fun x => { x with targets := targets, sharedAt := some (now s) }) s

/-! ## Targets in force -/

/-- A renegotiation of the schedule: the target has differed by more than 10 % for 1 s (*Limit paths*). -/
def renegotiate (k : Nat) (s : State) : State :=
  let x := pointAt s k
  let byschedule := x.isAc && (x.protocol == 3 || (x.protocol == 4 && x.vehicle.scheduled))
  if !byschedule || x.phase != .energy then s
  else if 10 * (x.targetDkw - x.scheduleDkw).natAbs ≤ x.scheduleDkw.natAbs then setPoint k (fun x => { x with differSince := none }) s
  else match x.differSince with
    | none => setPoint k (fun x => { x with differSince := some s.time.uptime }) s
    | some t =>
      if t + 1000 ≤ s.time.uptime then
        sayVehicle k 1 (setPoint k (fun x => { x with scheduleDkw := x.targetDkw, differSince := none }) s)
      else s

/-- ALLOT's target of a point for this tick: the downlink frame carries it (R20, R21). -/
def allot (k : Nat) (t : Int) (s : State) : State :=
  setChg (fun c => { c with allotted := c.allotted.filter (fun e => e.1 != k) ++ [(k, t)] }) s

/-- A point with the target that ALLOT has computed for it in this tick, as its converters' frames carry it (R453). -/
def allottedPoint (s : State) (k : Nat) : ChargePoint :=
  let x := pointAt s k
  match s.chg.allotted.find? (fun e => e.1 == k) with
  | some e => { x with targetDkw := e.2 }
  | none => x

/-- A target of ALLOT comes into force at a point; an AC limit that falls leaves its former value counted for the follow time. -/
def setTarget (k : Nat) (t : Int) (s : State) : State :=
  let x := pointAt s k
  let old := x.targetDkw
  let live := x.formers.filter (fun f => decide (s.time.uptime < f.until'))
  let formers :=
    if x.isAc && decide (t < old) then live ++ [{ kva := kva x.cfg (kwOf old), until' := s.time.uptime + followMs x }]
    else live.filter (fun f => decide (kva x.cfg (kwOf t) < f.kva))
  renegotiate k (limitChanged k old (setPoint k (fun x => { x with targetDkw := t, formers := formers }) s))

/-- ALLOT for a charge point (R456): its path is shared once in a tick, then its own target goes with the downlink frame. A point of no
path is limited by its caps and ramps alone. -/
def runAllot (k : Nat) (s : State) : State :=
  if !(pointAt s k).phase.active then s
  else match pathOf s k with
    | none => allot k (rampTo (pointAt s k) (targetOf (max 0 (capKw s k)))) s
    | some p =>
      match Tab.get s.chg.paths p with
      | none => s
      | some c =>
        if (shareAt s p).tick ≠ some (now s) then s
        else
          let s := if (shareAt s p).sharedAt = some (now s) then s else allotPath p c s
          match (shareAt s p).targets.find? (fun e => e.1 == k) with
          | some e => allot k e.2 s
          | none => s

/-! ## Converters (R453, R454) -/

/-- Mode of a SETPOINT (R453): off, charge, discharge, precharge, cable check. -/
def setpointMode (x : ChargePoint) : Nat :=
  match x.phase with
  | .prepare => match x.prep with
    | .cableCheck => 4
    | .precharge => 3
    | .closing => 3
    | _ => 0
  | .energy => if x.targetDkw < 0 then 2 else 1
  | .paused => 1
  | .stopping => if x.targetDkw < 0 then 2 else 1
  | _ => 0

/-- The point's current in 0.1 A, into the vehicle: its target at the present voltage, at most the vehicle's own target current; 2 A
in precharge; 0 in PAUSED (R445, R446, *Limit paths*). Answers a numerator and a denominator. -/
def pointCurrent (x : ChargePoint) : Int × Nat :=
  let v := x.vehicle.presentVoltageDv
  if x.phase == .prepare then (if x.prep == .precharge then (20, 1) else (0, 1))
  else if x.phase == .energy || x.phase == .stopping then
    if v = 0 then (0, 1)
    else
      let w := 10000 * x.targetDkw
      let lim := x.vehicle.targetCurrentDa * v
      (if 0 ≤ w then max 0 (min w lim) else min 0 (max w lim), v)
  else (0, 1)

/-- A converter's share in 0.1 A: an equal part rounded down, capped at its current available (R453). -/
def converterShare (x : ChargePoint) (available : Nat) : Int :=
  let (num, den) := pointCurrent x
  let part := num.natAbs / (den * max 1 x.cfg.nodes.length)
  let amount : Int := min part available
  if num < 0 then -amount else amount

/-- Voltage target of a SETPOINT in 0.1 V. -/
def setpointVoltage (x : ChargePoint) : Nat :=
  match x.phase, x.prep with
  | .prepare, .cableCheck => x.vehicle.checkVoltageDv
  | .prepare, _ => x.vehicle.presentVoltageDv
  | _, _ => x.vehicle.targetVoltageDv

/-- The SETPOINT frames of point `k` (R453). -/
def setpointFrames (s : State) (k : Nat) (stale : Bool) : List (Nat × Nat × Bytes) :=
  let x := if stale then pointAt s k else allottedPoint s k
  match x.config with
  | none => []
  | some c =>
    if !c.dc then []
    else c.nodes.map (fun n =>
      let available := ((Tab.get s.chg.converters (32 * c.bus + n)).map (·.available)).getD 0
      let mode := setpointMode x
      (c.bus, 0x100 + n, le 4 (now s) ++ le 1 mode ++ le 1 stale.toNat ++ le 2 (setpointVoltage x) ++ le 2 x.vehicle.maxVoltageDv ++
        leS 2 (if mode = 0 then 0 else converterShare x available) ++
        le 2 (Config.setpointRamp c.rampUpDkw c.rampDownDkw x.vehicle.presentVoltageDv) ++ zeros 2))

/-- The frames of a point as they go out: none where CAN transmit is at high impedance (R453; R548 of 16). -/
def sentSetpoints (s : State) (k : Nat) (stale : Bool) : List (Nat × Nat × Bytes) :=
  if drivesField s then setpointFrames s k stale else []

/-- CAN_SETPOINT for a charge point (R453): this tick's frames to its converters. -/
def runCanSetpoint (k : Nat) (s : State) : State :=
  let frames := sentSetpoints s k false
  setChg (fun c => { c with setpoints := c.setpoints.filter (fun e => !frames.any (fun f => f.1 == e.1 && f.2.1 == e.2.1)) ++ frames }) s

/-- The point whose converter is `node` of a bus. -/
def pointOfConverter (s : State) (bus node : Nat) : Option Nat :=
  (List.range 16).find? (fun k => match (pointAt s k).config with
    | some c => c.dc && c.bus == bus && c.nodes.contains node
    | none => false)

/-- A FEEDBACK frame arrives (R453, R454): a converter that reports a fault trips its point. -/
def converterFeedback (bus identifier : Nat) (data : Bytes) (s : State) : State :=
  let node := identifier - 0x140
  match pointOfConverter s bus node with
  | none => s
  | some k =>
    if identifier ≤ 0x140 || data.length ≠ 16 || 3 < rd data 4 1 then s
    else
      let i := 32 * bus + node
      let old := Tab.getD s.chg.converters i {}
      let new : Converter := { state := rd data 4 1, fault := rd data 5 1, voltage := rd data 6 2, current := rdS data 8 2
                               available := rd data 10 2, temperature := rdS data 12 2, tick := now s, lost := false }
      let s := setChg (fun c => { c with converters := Tab.put c.converters i new }) s
      if new.state = old.state && new.fault = old.fault then s
      else
        let s := raiseEvent 0x0A06 i true (le 1 new.state ++ le 1 new.fault ++ zeros 14) s
        if new.state = 3 && old.state ≠ 3 then trip k 6 (pointMa s k / 100) s else s

/-- No valid FEEDBACK has come from a converter for 10 ticks (R454). -/
def converterLost (bus node : Nat) (s : State) : State :=
  match pointOfConverter s bus node with
  | none => s
  | some k =>
    let i := 32 * bus + node
    let c := Tab.getD s.chg.converters i {}
    if c.lost || now s < c.tick + 10 then s
    else
      trip k 6 (pointMa s k / 100) (setChg (fun x => { x with converters := Tab.put x.converters i { c with lost := true, available := 0 } }) s)

/-! ## Stale limits (R458) -/

/-- The limits of a point in a stale tick from the 4th: DC setpoints fall by ramp_down, AC duty to the 6 A duty. -/
def staleLimit (x : ChargePoint) : Int :=
  if x.isAc then min x.targetDkw ((6 * acWatts x.cfg : Nat) / 100 + (if (6 * acWatts x.cfg) % 100 = 0 then 0 else 1) : Nat)
  else
    let r : Int := x.cfg.rampDownDkw
    if 0 < x.targetDkw then max 0 (x.targetDkw - r) else min 0 (x.targetDkw + r)

/-- The pilot of a basic-PWM point goes down to the 6 A duty, 10.0 % (R437, R458). -/
def sixAmpDuty (x : ChargePoint) : ChargePoint :=
  match x.drive with
  | .pwm d => if x.isAc && decide (x.protocol ≤ 1) then { x with drive := .pwm (min d 100) } else x
  | _ => x

/-- A stale tick (R458): limits held, from the 4th falling; the converters get their frames with the stale flag. -/
def staleTick (s : State) : State :=
  let s := setChg (fun c => { c with stale := c.stale + 1, staleNow := true, allotted := [] }) s
  let s := if s.chg.stale < 4 then s
    else (List.range 16).foldl (fun s k =>
      let x := pointAt s k
      if x.phase.active then
        setPoint k sixAmpDuty (limitChanged k x.targetDkw (setPoint k (fun x => { x with targetDkw := staleLimit x }) s))
      else s) s
  let frames := (List.range 16).flatMap (fun k => sentSetpoints s k true)
  setChg (fun c => { c with setpoints := frames }) s

/-- A tick whose limits are fresh ends a run of stale ticks: the limits that the downlink frame carries come into force (R20, R21). -/
def freshTick (s : State) : State :=
  let new := s.chg.allotted
  let s := setChg (fun c => { c with stale := 0, staleNow := false, allotted := [] }) s
  syncCharge (new.foldl (fun s e => setTarget e.1 e.2 s) s)

/-- STALE_LIMITS: from the 4th stale tick a class-C fault, at the 64th a class-B fault and every session to STOPPING; the end
reason is not named (log 31). -/
def staleLimits (s : State) : State :=
  if s.chg.stale < 4 then s
  else
    let s := if faultActive s 0xA1 then s else raiseFault 0xA1 2 s
    if s.chg.stale < 64 || faultActive s 0xA0 && (faultRecord s 0xA0).detail == 3 then s
    else (List.range 16).foldl (fun s k => if (pointAt s k).session ≠ 0 then stopPoint k 8 s else s) (raiseFault 0xA0 3 s)

end Sys2Proof.Machine
end

