-- ==== Sys2Proof/Machine/FieldCommands.lean ====
section
/-!
DEFINITION. The FIO_LS_ and SAF_ commands. Chapter 14 of the spec (R497 to R499, R503 to R505).
-/

namespace Sys2Proof.Machine

/-- Use of a code (FIO_LS_CONFIG). -/
def lsUseOf : Nat → LsUse
  | 1 => .host | 2 => .direct | 3 => .lock | 4 => .fan | _ => .unused

/-- Code of a use. -/
def LsUse.code : LsUse → Nat
  | .unused => 0 | .host => 1 | .direct => 2 | .lock => 3 | .fan => 4

/-- Reads the configuration of FIO_LS_CONFIG. -/
def readLsConfig (p : Bytes) : LsConfig := {
  use := lsUseOf (rd p 1 1), param := rd p 2 1, wire := rd p 3 1, slewDv := rd p 4 1, initial := rd p 5 1 == 1
  safeGroup := (rd p 6 1).testBit 0, safeOn := (rd p 6 1).testBit 1, fanRunOnS := rd p 8 2 }

/-- The configuration of channel `k` that a pending generation will put in force. -/
def pendingLs (s : State) (k : Nat) : Option LsConfig :=
  match ((pendingGen s (13, k)).map (fun g => g.table) : Option GenTable) with
  | some (.lsConfig _ c) => some c
  | _ => none

/-- A channel other than `k` has, or will have, a lock or fan use for a point (R497). -/
def lsPointTaken (s : State) (k : Nat) (use : LsUse) (point : Nat) : Bool :=
  (List.range (lsCount s)).any (fun j =>
    j != k && (((lsAt s j).config :: (pendingLs s j).toList).any (fun c => c.use == use && c.param == point)))

/-- param suits use: a DIRECT pin, a charge point, or 0 (R497). -/
def lsParamOk (use param : Nat) : Bool :=
  if use == 2 then decide (param ≤ 7) else if use == 3 || use == 4 then decide (param ≤ 15) else param == 0

/-- FIO_LS_CONFIG (R497): the response is the activation tick. -/
def cmdFioLsConfig : Cmd := {
  opcode := 0x0B01, role := fun _ => .operator, size := 16, updating := glfUpdating, dryrun := true, standby := true
  body := fun c s =>
    let k := rd c.p 0 1
    let use := rd c.p 1 1
    let cfg := readLsConfig c.p
    checked [inRange 0 (k < lsCount s), inRange 1 (use ≤ 4), field 2 (lsParamOk use (rd c.p 2 1)),
        field 2 (!(use == 3 || use == 4) || !lsPointTaken s k cfg.use cfg.param), inRange 3 (rd c.p 3 1 ≤ 4),
        inRange 4 (1 ≤ rd c.p 4 1 && rd c.p 4 1 ≤ 100), inRange 5 (use != 1 || decide (rd c.p 5 1 ≤ 1)),
        field 5 (use == 1 || rd c.p 5 1 == 0), field 6 (decide (rd c.p 6 1 < 4)), resv c.p 7 1,
        inRange 8 (use != 4 || decide (rd c.p 8 2 ≤ 600)), field 8 (use == 4 || rd c.p 8 2 == 0), resv c.p 10 6] s
      (let g : GenTable := .lsConfig k cfg
       if armBusy g s then fail stBusy 1 s
       else
         let tick := earliest g s
         okWith (le 8 tick) (armGen { table := g, opcode := 0x0B01, tick := tick } s)) }

/-- FIO_LS_SET (R498): in effect at the next tick. -/
def cmdFioLsSet : Cmd := {
  opcode := 0x0B02, role := fun _ => .operator, size := 16, updating := glfUpdating, standby := true, faulted := fun p => rd p 8 1 == 1
  body := fun c s =>
    let mask := rd c.p 0 8
    let action := rd c.p 8 1
    let named := (List.range (lsCount s)).filter (fun k => mask.testBit k)
    checked [field 0 (decide (mask < 2 ^ lsCount s)),
        field 0 (decide (2 ≤ action) || named.all (fun k => (lsAt s k).config.use == .host)), inRange 8 (action ≤ 2), resv c.p 9 7] s
      (if action == 2 && !named.all (fun k => lsClearable s (lsAt s k)) then fail stNotReady 0 s
       else okWith (le 8 (now s + 1)) (setFio (fun x => { x with lsNext := x.lsNext ++ [(mask, action)] }) s)) }

/-- The higher accumulator of a channel as a percentage of its K (FIO_LS_READ). -/
def heatPct (s : State) (c : LsChannel) : Nat :=
  cap 100 (max (100 * c.wireHeat / (wireCurve c.config.wire).2) (100 * c.chanHeat / (channelCurve s).2))

/-- FIO_LS_READ (R499). -/
def cmdFioLsRead : Cmd := {
  opcode := 0x0B03, role := fun _ => .reader, size := 4, updating := glfUpdating
  body := fun c s =>
    let k := rd c.p 0 1
    let detail := rd c.p 1 1
    let x := lsAt s k
    checked [inRange 0 (k < lsCount s), field 1 (detail == 0 || (detail == 1 && s.host.variantS)), resv c.p 2 2] s
      (okWith (le 2 (lsFlags s x) ++ le 1 x.config.use.code ++ le 1 x.config.wire ++ le 1 (heatPct s x) ++ zeros 1 ++
        le 2 x.trips ++ le 2 (if detail = 1 then cap 0xFFFF x.mean else 0) ++
        le 2 (if detail = 1 then cap 0xFFFF x.peakPrev else 0) ++ zeros 4) s) }

/-! ## Safety (R503 to R505) -/

/-- Bits of a property of 0 to n−1. -/
def bitsOf (n : Nat) (f : Nat → Bool) : Nat := ofBits ((List.range n).map f)

/-- The state of an input in SAF_STATUS, two bits. -/
def inputStatus (i : SafetyInput) : Nat := if i.config.function = 0 then 3 else i.phase.status

/-- SAF_STATUS (R503). -/
def cmdSafStatus : Cmd := {
  opcode := 0x0B40, role := fun _ => .reader, size := 0, updating := glfUpdating
  body := fun _ s =>
    let inputs := ((List.range 16).map (fun j => inputStatus (inputAt s j) * 4 ^ j)).sum
    okWith (le 4 inputs ++ le 2 (bitsOf 16 (fun k => (outputAt s k).on)) ++ le 2 (bitsOf 16 (fun k => (outputAt s k).fault)) ++
      le 2 (bitsOf 16 (fun k => if pointConfigured s k then (pointAt s k).contactor else (outputAt s k).commanded)) ++
      le 2 (bitsOf 16 (startupOk s)) ++
      le 1 (bitsOf 4 (fun t => (s.fio.sources.getD t {}).running) + 16 * bitsOf 4 (fun t => (s.fio.sources.getD t {}).overloaded)) ++
      le 1 (bitsOf 8 (fun i => sealInForce s (i + 3))) ++ le 1 (bitsOf 8 (fun i => sealClosed s (i + 3))) ++
      le 1 (ofBits [s.fio.underVoltage, s.fio.overVoltage, drivesField s, s.flt.safe, !s.fio.reductions.isEmpty]) ++
      le 2 (cap 0xFFFF s.fio.fieldDv) ++ le 2 (cap 0xFFFF s.fio.fieldDa)) s }

/-- Reads the configuration of SAF_INPUT_SET. -/
def readInputConfig (p : Bytes) : InputConfig := {
  function := rd p 2 1, antivalent := rd p 3 1 == 1, srcA := rd p 4 1, srcB := rd p 5 1, mask := rd p 6 2
  releaseMs := rd p 8 2, discrepancyMs := rd p 10 2, point := rd p 12 1 }

/-- A configuration reduces coverage (R504). -/
def reducesCoverage (old new : InputConfig) : Bool :=
  let covers := fun c : InputConfig => c.function == 1 || c.function == 2
  covers old && (!covers new || (List.range 16).any (fun k => old.mask.testBit k && !new.mask.testBit k))

/-- Charge points that an input's configuration covers. -/
def coverage (c : InputConfig) : List Nat :=
  if 1 ≤ c.function && c.function ≤ 3 then (List.range 16).filter (fun k => c.mask.testBit k)
  else if c.function = 4 then [c.point] else []

/-- Configurations of input `j` in force, pending, or waiting for the next FIELD power-up. -/
def inputConfigs (s : State) (j : Nat) : List InputConfig :=
  (inputAt s j).config ::
    ((match ((pendingGen s (14, j)).map (fun g => g.table) : Option GenTable) with
      | some (.safInput _ c) => [c]
      | _ => []) ++ (Tab.get s.fio.reductions j).toList)

/-- Checks of action 0 of SAF_INPUT_SET (R504). -/
def safInputChecks (p : Bytes) (s : State) : List Check :=
  let j := rd p 0 1
  let f := rd p 2 1
  let release := rd p 8 2
  let disc := rd p 10 2
  [inRange 2 (f ≤ 5), inRange 3 (rd p 3 1 ≤ 1), field 3 (f != 4 || rd p 3 1 == 1), inRange 4 (rd p 4 1 ≤ 3),
    inRange 5 (rd p 5 1 ≤ 3), field 5 (rd p 5 1 != rd p 4 1), field 6 ((1 ≤ f && f ≤ 3) || rd p 6 2 == 0),
    inRange 8 (10 ≤ release && release ≤ 5000), inRange 10 (10 ≤ disc && disc ≤ 1000),
    inRange 12 (f != 4 || decide (rd p 12 1 ≤ 15)), field 12 (f == 4 || rd p 12 1 == 0),
    field 12 (f != 4 || !(List.range 16).any (fun x =>
      x != j && (inputConfigs s x).any (fun c => c.function == 4 && c.point == rd p 12 1))), resv p 13 3]

/-- SAF_INPUT_SET (R504). A reduction of coverage has no activation tick before the next FIELD power-up and answers 0. -/
def cmdSafInputSet : Cmd := {
  opcode := 0x0B41, role := fun _ => .operator, size := 16, updating := glfUpdating, dryrun := true, standby := true
  body := fun c s =>
    let j := rd c.p 0 1
    let action := rd c.p 1 1
    let old := (inputAt s j).config
    let new := readInputConfig c.p
    if action == 0 && decide (j ≤ 15) && reducesCoverage old new && !c.warden then fail stDeniedRole 3 s
    else
      checked ([inRange 0 (j ≤ 15), inRange 1 (action ≤ 1)] ++
          (if action = 1 then [field 2 (rd c.p 2 1 == 0), field 3 (rd c.p 3 1 == 0), field 4 (rd c.p 4 1 == 0),
              field 5 (rd c.p 5 1 == 0), field 6 (rd c.p 6 2 == 0), field 8 (rd c.p 8 2 == 0), field 10 (rd c.p 10 2 == 0),
              field 12 (rd c.p 12 1 == 0), resv c.p 13 3]
           else safInputChecks c.p s)) s
        (if action = 1 then
          let i := inputAt s j
          if i.phase == .fault && i.a.demand && i.b.demand then
            okWith (le 8 (now s + 1)) (setFio (fun x => { x with resets := x.resets ++ [j] }) s)
          else fail stNotReady 0 s
        else if (coverage old ++ coverage new).any (fun k => (pointAt s k).phase.live) then fail stNotReady 0 s
        else if reducesCoverage old new then
          let code := (inputAt s j).phase
          okWith (zeros 8) (inputEvent j code code 8 0xFF (setFio (fun x => { x with reductions := Tab.put x.reductions j new }) s))
        else
          let g : GenTable := .safInput j new
          if armBusy g s then fail stBusy 1 s
          else
            let tick := earliest g s
            okWith (le 8 tick) (armGen { table := g, opcode := 0x0B41, tick := tick }
              (setFio (fun x => { x with reductions := Tab.del x.reductions j }) s))) }

/-- SAFETY_OUTPUT (R496). -/
def outputEvent (k cause : Nat) (s : State) : State := raiseEvent 0x0B02 k false (le 1 cause ++ zeros 15) s

/-- SAF_OUTPUT_SET (R505). The reset test of R489 measures the wiring: its result is a free value (log 12: use 40). -/
def cmdSafOutputSet : Cmd := {
  opcode := 0x0B42, role := fun _ => .operator, size := 4, updating := glfUpdating, standby := true, faulted := fun p => rd p 1 1 == 1
  body := fun c s =>
    let k := rd c.p 0 1
    let action := rd c.p 1 1
    checked [inRange 0 (k ≤ 15), field 0 (decide (2 ≤ action) || !pointConfigured s k), inRange 1 (action ≤ 2), resv c.p 2 2] s
      (let o := outputAt s k
       if action ≤ 1 then
         okWith (le 8 (now s + 1)) (setFio (fun x => { x with soNext := x.soNext ++ [(k, action == 1)] }) s)
       else
         let on := if pointConfigured s k then (pointAt s k).contactor else o.commanded
         if !o.fault || on || s.fio.soNext.any (fun e => e.1 == k && e.2) then fail stNotReady 0 s
         else
           let d := draw 40 2 s
           if d.1 = 1 then
             okWith (le 8 (now s + 1)) (evalOutputs (syncField (outputEvent k 6 (setOutput k (fun o => { o with fault := false }) d.2))))
           else fail stNotReady 0 (outputEvent k 7 d.2)) }

/-- FIO_LS_CONFIG (R497): arms the configuration of one load-switch channel. -/
def execFioLsConfig (rq : Request) (s : State) : Result := .next (submit cmdFioLsConfig rq s)

/-- FIO_LS_SET (R498): switches host-use channels, or clears latched trips. -/
def execFioLsSet (rq : Request) (s : State) : Result := .next (submit cmdFioLsSet rq s)

/-- FIO_LS_READ (R499): a channel's flags, and its current on the GL1024-S. -/
def execFioLsRead (rq : Request) (s : State) : Result := .next (submit cmdFioLsRead rq s)

/-- SAF_STATUS (R503): inputs, outputs, sources, seals and supply. -/
def execSafStatus (rq : Request) (s : State) : Result := .next (submit cmdSafStatus rq s)

/-- SAF_INPUT_SET (R504): configures a safety input or resets its fault. -/
def execSafInputSet (rq : Request) (s : State) : Result := .next (submit cmdSafInputSet rq s)

/-- SAF_OUTPUT_SET (R505): commands a general safety output or resets its fault. -/
def execSafOutputSet (rq : Request) (s : State) : Result := .next (submit cmdSafOutputSet rq s)

end Sys2Proof.Machine
end

