-- ==== Sys2Proof/Machine/Ident.lean ====
section
/-!
DEFINITION. Identification at charge points: cards, Plug & Charge, and the messages of the vehicle protocols. Chapter 13 of the
spec (R443, R448 to R451).
-/

namespace Sys2Proof.Machine

/-- Raises ID_SEEN for an identification that no list resolves and keeps it for the host's decision (R448). -/
def seeIdentification (k method cause : Nat) (card : Option (Nat × Bytes)) (number : Bytes) (s : State) : State :=
  let id := s.chg.nextSeen
  let s := setChg (fun c => { c with
    nextSeen := if id + 1 < 2 ^ 32 then id + 1 else 1
    seen := c.seen.filter (fun x => x.point != k) ++ [{ id := id, point := k, method := method, card := card, at' := s.time.uptime }] }) s
  idSeenEvent k id method cause ((card.map (·.1)).getD 0) number s

/-- The card entry of an issuer and number. -/
def cardEntry (s : State) (issuer : Nat) (number : Bytes) : Option CardEntry :=
  s.chg.cards.find? (fun e => e.issuer == issuer && e.number == number)

/-- A card has proved itself at point `k` (R448, R450): in PREPARE to PAUSED it is a stop if it opened the session; elsewhere the
lists resolve it to a grant, or ID_SEEN asks the host. -/
def cardProven (k issuer : Nat) (number : Bytes) (s : State) : State :=
  let x := pointAt s k
  let entry := cardEntry s issuer number
  let cause := match entry with
    | some e => if e.blocked then 1 else 0
    | none => 0
  if x.phase == .prepare || x.phase == .energy || x.phase == .paused then
    if x.card == some (issuer, number) then stopPoint k 3 s else idSeenEvent k 0 1 cause issuer number s
  else match entry with
    | some e =>
      if e.blocked || !e.points.testBit k then seeIdentification k 1 cause (some (issuer, number)) number s
      else takeGrant k { account := e.account, ident := 1, card := some (issuer, number), at' := s.time.uptime } s
    | none => seeIdentification k 1 0 (some (issuer, number)) number s

/-! ## Readers (R449, R450) -/

/-- Reader front-end `f`. -/
def readerAt (s : State) (f : Nat) : Reader := s.chg.readers.getD f {}

/-- Changes a reader front-end. -/
def setReader (f : Nat) (g : Reader → Reader) (s : State) : State :=
  setChg (fun c => { c with readers := modAt c.readers f g }) s

/-- The charge point whose antenna front-end `f` polls. -/
def readerPoint (s : State) (f : Nat) : Option Nat :=
  (List.range 16).find? (fun k => match (pointAt s k).config with
    | some c => c.antenna == 4 * f + (readerAt s f).antenna
    | none => false)

/-- Sends a command of the card exchange. -/
def sendCard (f cmd : Nat) (data : Bytes) (step : CardStep) (s : State) : State :=
  setReader f (fun r => { r with step := step }) (setChg (fun c => { c with cardSent := (f, cmd, data) :: c.cardSent }) s)

/-- A card failed its exchange: ID_SEEN with cause "card failed", and it is not used (R450). -/
def cardFailed (f : Nat) (s : State) : State :=
  let s := setReader f (fun r => { r with step := .idle }) s
  match readerPoint s f with
  | some k => idSeenEvent k 0 1 3 0 [] s
  | none => s

/-- Asks a card to prove itself: AUTH with a fresh challenge (R450; random, log 12: use 44). -/
def sendAuth (f issuer : Nat) (number : Bytes) (s : State) : State :=
  let d := drawBytes 44 16 s
  sendCard f 0xD1 d.1 (.auth issuer number d.1) d.2

/-- A card's answer to IDENT (R450): its number, decrypted under the issuer transport key; then SPEED where it offers a higher rate. -/
def cardIdent (f : Nat) (nonce payload : Bytes) (s : State) : State :=
  let issuer := rd payload 0 4
  let rates := rd payload 4 1
  if payload.length ≠ 24 || 15 < issuer then cardFailed f s
  else
    let r := keyFor 0 (.stored 6 issuer) s
    match r.1 with
    | none => cardFailed f r.2
    | some key =>
      match ccmOpen key 8 (nonce.take 12) (payload.take 4) (payload.drop 8) with
      | none => cardFailed f r.2
      | some number =>
        if rates.testBit 1 then sendCard f 0xD2 [2] (.speed 2 issuer number) r.2
        else if rates.testBit 0 then sendCard f 0xD2 [1] (.speed 1 issuer number) r.2
        else sendAuth f issuer number r.2

/-- A card's answer to AUTH (R450): its tag under the card key. -/
def cardAuth (f issuer : Nat) (number challenge payload : Bytes) (s : State) : State :=
  if payload.length ≠ 16 then cardFailed f s
  else
    let r := keyFor 0 (.card issuer number) s
    match r.1 with
    | none => cardFailed f r.2
    | some key =>
      let nonce := payload.take 8 ++ challenge.take 4
      match ccmOpen key 8 nonce (ascii "GLCA" ++ number ++ challenge) (payload.drop 8) with
      | none => cardFailed f r.2
      | some _ =>
        let s := setReader f (fun x => { x with step := .idle }) r.2
        match readerPoint s f with
        | some k => cardProven k issuer number s
        | none => s

/-- A card answers on a front-end (R450). -/
def cardResponse (f : Nat) (payload : Bytes) (s : State) : State :=
  match (readerAt s f).step with
  | .idle => s
  | .ident nonce => cardIdent f nonce payload s
  | .speed rate issuer number => if payload = le 1 rate then sendAuth f issuer number s else cardFailed f s
  | .auth issuer number challenge => cardAuth f issuer number challenge payload s

/-- A card has been activated, or several have answered (R449; the nonce is random, log 12: use 43). -/
def cardDetected (f cards : Nat) (s : State) : State :=
  match readerPoint s f with
  | none => s
  | some k =>
    if cards = 0 then s
    else if 1 < cards then setReader f (fun r => { r with step := .idle }) (idSeenEvent k 0 1 2 0 [] s)
    else
      let d := drawBytes 43 16 s
      sendCard f 0xD0 d.1 (.ident d.1) d.2

/-- The dwell of a front-end ends: the next antenna is polled (R449). -/
def cardDwell (f : Nat) (s : State) : State := setReader f (fun r => { antenna := (r.antenna + 1) % 4, step := .idle }) s

/-! ## Plug & Charge (R451) -/

/-- Mobility-operator roots held: certificate entries 16 to 31 (R521 of 15). -/
def operatorRoots (s : State) : List Certificate :=
  (s.vlt.certs.filter (fun e => 16 ≤ e.1)).flatMap (fun e => e.2.certs.filterMap (fun b => (parseCertificate b).map (·.1)))

/-- The contract chain verifies up to a root held, and every certificate is valid now (R451). -/
def contractValid (s : State) (chain : Bytes) : Option Certificate :=
  match parseChain 3 chain with
  | some ((leaf, b) :: rest) =>
    let certs := ((leaf, b) :: rest).map (·.1)
    let last := (certs.getLast?).getD leaf
    let root := (operatorRoots s).any (fun r => signedBy last r && certValidAt s r)
    if chainVerifies certs && certs.all (certValidAt s) && root then some leaf else none
  | _ => none

/-- Payment option Contract is offered: ISO 15118-2 over TLS, Plug & Charge enabled, a clock that can judge validity, and the SECC key that
TLS needs (R443, R444; R520 of 15). -/
def contractOffered (k : Nat) (s : State) : Bool × State :=
  let x := pointAt s k
  let tls := ((Tab.get s.vlt.links k).bind (·.tls)).isSome
  if x.protocol == 3 && tls && x.cfg.protocols.testBit 4 && s.time.tickTrust != .untrusted then
    let r := keyFor 1 (.stored 7 0) s
    (r.1.isSome, r.2)
  else (false, s)

/-- The vehicle chooses Contract and sends its chain: the module checks it and sends a challenge (R451; random, log 12: use 42). -/
def contractReceived (k : Nat) (chain emaid : Bytes) (s : State) : State :=
  let r := contractOffered k s
  if (pointAt s k).phase != .auth || !r.1 then r.2
  else match contractValid r.2 chain with
    | none => refusePoint k (sayVehicle k 4 r.2)
    | some _ =>
      let d := drawBytes 42 16 (engineWork 1 r.2).2
      sayVehicle k 2 (setPoint k (fun x => { x with contractChain := chain, emaid := emaid, challenge := d.1 }) d.2)

/-- The contract entry of an EMAID. -/
def contractEntry (s : State) (emaid : Bytes) : Option ContractEntry := s.chg.contracts.find? (fun e => e.emaid == emaid)

/-- AuthorizationReq: the signature over the challenge sent proves the contract, and the EMAID resolves to an account (R448, R451). -/
def contractAuthorised (k : Nat) (challenge signed signature : Bytes) (s : State) : State :=
  let x := pointAt s k
  if x.phase != .auth || x.challenge.isEmpty then s
  else
    let s := (engineWork 1 s).2
    let good := match contractValid s x.contractChain with
      | some leaf =>
        challenge == x.challenge && leaf.curve == some false &&
          verifyHashed 256 false leaf.pub signed (ofBe (signature.take 32)) (ofBe (slice signature 32 32))
      | none => false
    let s := setPoint k (fun x => { x with challenge := [] }) s
    if !good then refusePoint k (sayVehicle k 4 s)
    else match contractEntry s x.emaid with
      | some e =>
        if e.blocked || !e.points.testBit k then
          seeIdentification k 2 (if e.blocked then 1 else 0) none x.emaid s
        else takeGrant k { account := e.account, ident := 2, at' := s.time.uptime } s
      | none => seeIdentification k 2 0 none x.emaid s

/-! ## Messages of the vehicle protocols (R443) -/

/-- Changes what the vehicle of a point has said. -/
def setVehicle (k : Nat) (f : VehicleData → VehicleData) (s : State) : State := setPoint k (fun x => { x with vehicle := f x.vehicle }) s

/-- A message of the protocol of point `k` (R443, R446, R451, R456). -/
def vehicleMessage (k : Nat) (m : V2gMessage) (s : State) : State :=
  let x := pointAt s k
  if x.protocol ≤ 1 || !(x.phase == .auth || x.phase.live) then s
  else match m with
    | .service bpt scheduled =>
      setVehicle k (fun v => { v with bpt := bpt && x.protocol == 4 && x.cfg.protocols.testBit 5, scheduled := scheduled && x.protocol == 4 }) s
    | .limits maxDkw maxDischargeDkw maxVoltageDv =>
      setVehicle k (fun v => { v with maxDkw := maxDkw, maxDischargeDkw := maxDischargeDkw, maxVoltageDv := maxVoltageDv }) s
    | .contract chain emaid => contractReceived k chain emaid s
    | .authorization challenge signed signature => contractAuthorised k challenge signed signature s
    | .cableCheck dv => setVehicle k (fun v => { v with checkVoltageDv := dv }) s
    | .precharge targetDv presentDv => prechargeReached k targetDv presentDv s
    | .demand targetDv presentDv currentDa =>
      setVehicle k (fun v => { v with targetVoltageDv := targetDv, presentVoltageDv := presentDv, targetCurrentDa := currentDa }) s
    | .certificate => sayVehicle k 3 s
    | .stop => stopPoint k 1 s

end Sys2Proof.Machine
end

