-- ==== Sys2Proof/Machine/Rings.lean ====
section
/-!
DEFINITION. Satellites, sensor rings, spare-swap self-test and captures. Chapter 08 of the spec (R255 to R268, R280).
-/

namespace Sys2Proof.Machine

/-! ## Rings (R256 to R264) -/

/-- Ring state. -/
def ringOf (s : State) (i : Nat) : Ring := s.met.rings.getD i {}
/-- Changes a ring. -/
def setRing (i : Nat) (f : Ring → Ring) (s : State) : State :=
  setMet (fun m => { m with rings := modAt m.rings i f }) s
/-- Position of a ring. -/
def ringPos (s : State) (i p : Nat) : RingPos := (ringOf s i).positions.getD p {}
/-- Changes a position of a ring. -/
def setRingPos (i p : Nat) (f : RingPos → RingPos) (s : State) : State :=
  setRing i (fun r => { r with positions := modAt r.positions p f }) s

/-- Sets that a satellite serves, with their set slots (R240, R269). -/
def satSets (r : CalRecord) (i p : Nat) : List (CalSet × Nat) :=
  (r.sets.filter (fun e => e.kind != 0 && e.location == i + 1 && e.slot % 16 == p)).map (fun e => (e, e.slot / 16 % 2))

/-! ## Frames (R258, R259) -/

/-- The bytes of a ring frame between its delimiters: header, payload, CRC-32 over both (R258). -/
def ringFrame (type position seq : Nat) (payload : Bytes) : Bytes :=
  let b := le 1 type ++ le 1 position ++ le 2 payload.length ++ le 4 seq ++ payload
  b ++ le 4 (crc32 b)

/-- A SWEEP frame: the window, and the positions that answer on the opposite lane. -/
def sweepFrame (window mask : Nat) : Bytes := ringFrame 1 0x10 0 (le 8 window ++ le 2 mask ++ zeros 6)
/-- A RECOVER frame to one position. -/
def recoverFrame (p window : Nat) : Bytes := ringFrame 3 p 0 (le 8 window ++ zeros 8)
/-- The ENUM frame that starts an enumeration: hop count, serial and firmware hash are each satellite's to fill in (DEDUCED; log 53). -/
def enumFrame : Bytes := ringFrame 4 0x10 0 (zeros 41)

/-- Sends frames of a ring; a CONFIG or FW frame takes the ring's next seq. -/
def sendRing (i : Nat) (l : List (Nat × Bytes)) (s : State) : State := setRing i (fun r => { r with sent := r.sent ++ l }) s

/-- Sends a CONFIG or FW frame to a position, from the port it answers at. -/
def sendNumbered (i p type : Nat) (payload : Bytes) (s : State) : State :=
  setRing i (fun r =>
    let n := (r.seq + 1) % 2 ^ 32
    { r with seq := n, sent := r.sent ++ [((r.positions.getD p {}).port, ringFrame type p n payload)] }) s

/-- A window record of a satellite (R259). -/
structure RingRecord where
  position : Nat
  flags : Nat
  counterEpoch : Nat
  window : Nat
  /-- 32 corrected samples of each of the four channels -/
  samples : List (List Int)
  /-- five counters in µWh of set slots 0 and 1 -/
  counters : List (List Nat)
  temperature : Int
  clips : Nat
  selftest : Nat
  deriving DecidableEq, Repr

/-- Reads the 488 B of a window record (R259). -/
def recordOf (b : Bytes) : RingRecord := {
  position := rd b 0 1, flags := rd b 1 1, counterEpoch := rd b 2 2, window := rd b 8 8
  samples := (List.range 4).map (fun k => (List.range 32).map (fun j => rdS b (0x10 + 96 * k + 3 * j) 3))
  counters := (List.range 2).map (fun i => (List.range 5).map (fun q => rd b (0x190 + 40 * i + 8 * q) 8))
  temperature := rdS b 0x1E0 2, clips := rd b 0x1E2 1, selftest := rd b 0x1E3 1 }

/-- The window record that a frame received at a port carries: a RECORD frame of the right length with a good CRC; a torn or damaged one
is discarded (R258, R261, R263). -/
def recordFrame (f : Bytes) : Option RingRecord :=
  if f.length = 500 && rd f 0 1 == 2 && rd f 2 2 == 488 && rd f 496 4 == crc32 (f.take 496) then some (recordOf (slice f 8 488)) else none

/-! ## State of a ring (R260, R262) -/

/-- Positions that answer, as a mask (RING_STATE). -/
def reachableMask (r : Ring) : Nat :=
  ofBits (r.positions.map (fun p => p.status != 0 && p.status != 6))

/-- The lowest broken hop, 0xFF if none (log 16: hop h joins positions h − 1 and h; hop 0 is at port 1). -/
def brokenHop (r : Ring) : Nat := (r.broken.head?).getD 0xFF

/-- RING_STATE event of a change of a ring's state (R274). -/
def ringEvent (i : Nat) (old : RingPhase) (s : State) : State :=
  let r := ringOf s i
  raiseEvent 0x0500 i false (le 1 r.phase.code ++ le 1 old.code ++ le 1 (brokenHop r) ++ zeros 1 ++
    le 2 (reachableMask r) ++ zeros 2 ++ le 4 r.recovered ++ le 4 r.lost) s

/-- Moves a ring to a state, with its event if the state changes. -/
def ringGoto (i : Nat) (ph : RingPhase) (s : State) : State :=
  let old := (ringOf s i).phase
  let s := setRing i (fun r => { r with phase := ph }) s
  if old = ph then s else ringEvent i old s

/-- Port towards which a position answers: by the split of an INTACT ring of its bound satellites, or by the first break
(R260). -/
def answerPort (r : Ring) (p : Nat) : Nat :=
  match r.broken with
  | [] => if p < ceilDiv (r.positions.countP (fun x => x.status == 1 || x.status == 5)) 2 then 1 else 2
  | h :: _ => if p < h then 1 else 2

/-- Sets every position's answering port anew. -/
def resplit (i : Nat) (s : State) : State :=
  setRing i (fun r => { r with positions := (List.range 16).map (fun p =>
    { r.positions.getD p {} with port := answerPort r p }) }) s

/-- Positions between two breaks can be reached from neither port (R262). -/
def cutOff (r : Ring) (p : Nat) : Bool :=
  r.broken.any (fun h => h ≤ p) && r.broken.any (fun h => p < h)

/-- A position whose satellite is bound, whether it answers or not. -/
def RingPos.isBound (p : RingPos) : Bool := p.status == 1 || p.status == 5 || p.status == 6

/-- Inserts a window lacking at a position in a list ordered oldest first. -/
def insertLacking (x : Nat × Nat) : List (Nat × Nat) → List (Nat × Nat)
  | [] => [x]
  | y :: ys => if x.1 < y.1 then x :: y :: ys else y :: insertLacking x ys

/-- Windows, with their positions, that a port asks to recover in a tick: oldest first over its positions, as many as its lane has room
for (R261). -/
def recovery (r : Ring) (window port : Nat) : List (Nat × Nat) :=
  let l := (List.range 16).flatMap (fun p =>
    let x := r.positions.getD p {}
    if x.isBound && x.status != 6 && x.port == port then (x.lacking.filter (fun w => decide (window < w + 256))).map (·, p) else [])
  (l.foldr insertLacking []).take (if r.phase = .intact then 13 else 2)

/-- Positions that answer a sweep towards a port, as a mask (R260). -/
def answerMask (r : Ring) (port : Nat) : Nat :=
  ofBits (r.positions.map (fun x => x.isBound && x.status != 6 && x.port == port))

/-- The sweep of window n−1 at a tick start: SWEEP from both ports, RECOVER for windows still lacking; windows out of the buffer of 256
are counted lost (R260, R261, R264). -/
def sweepRing (s : State) (i : Nat) : State :=
  let r := ringOf s i
  if r.phase = .down || r.phase = .enumerating && r.positions.all (fun p => p.status == 0) then s
  else
    let window := now s - 1
    let gone (p : RingPos) : Nat := p.lacking.countP (fun w => w + 256 ≤ window)
    let lost := (r.positions.map gone).foldl (· + ·) 0
    let ask (port : Nat) := (port, sweepFrame window (answerMask r port)) ::
      (recovery r window port).map (fun e => (port, recoverFrame e.2 e.1))
    setRing i (fun r => { r with
      lost := r.lost + lost
      positions := r.positions.map (fun p =>
        if p.isBound then
          { p with lacking := p.lacking.filter (fun w => window < w + 256) ++ [window], missed := p.missed + 1 }
        else p)
      sent := ask 1 ++ ask 2 }) s

/-- Boundaries of a satellite's sets that wait for a record close if they can (R251). -/
def closeSatellite (i p : Nat) (s : State) : State :=
  (satSets s.met.calib i p).foldl (fun s e => closeWaiting e.1.set (fun w => !(ringPos s i p).lacking.contains w) s) s

/-- Rings at a tick start while FIELD is powered. -/
def ringsTick (s : State) : State :=
  if s.pwr.fieldOn then
    [0, 1].foldl (fun s i => (List.range 16).foldl (fun s p => closeSatellite i p s) (sweepRing s i)) s
  else s

/-- The window as a satellite's record gives it for one of its channels; the samples are whole LSB. -/
def recordWindow (rec : RingRecord) (k : Nat) : ChanWindow := {
  window := rec.window, clips := (rec.clips.testBit k).toNat
  samples := (rec.samples.getD k []).map (fun x => x * (sampleUnit : Int))
  largest := ((rec.samples.getD k []).map Int.natAbs).foldl max 0 }

/-- Inserts a window among those of a channel, latest first; a window already there stays. -/
def insertWindow (w : ChanWindow) : List ChanWindow → List ChanWindow
  | [] => [w]
  | x :: xs => if x.window = w.window then x :: xs else if x.window < w.window then w :: x :: xs else x :: insertWindow w xs

/-- One channel of a window record: samples, corrections in use, CLIP event, class-C fault of a clamped delay (R230, R237, R238). -/
def recordChannel (i : Nat) (rec : RingRecord) (newest : Bool) (s : State) (k : Nat) : State :=
  let c := satChannel i rec.position + k
  match calChannel (calibAt s rec.window) c with
  | none => s
  | some e =>
    let (g, d, _) := tempCorrection e rec.temperature
    let (dt, clamped) := totalDelay e d
    let w := recordWindow rec k
    let s := setMetChan c (fun m => { m with
      recent := (insertWindow w m.recent).take 456, arrived := rec.window :: m.arrived
      delivered := if newest then some w else m.delivered
      temperature := if newest then rec.temperature else m.temperature
      gainTc := if newest then g else m.gainTc, delayTotal := if newest then dt else m.delayTotal
      clamped := if newest then clamped else m.clamped }) s
    let s := if clamped then raiseFault 0x50 1 s else s
    if rec.clips.testBit k then
      raiseEvent 0x0503 c true (le 4 ((rec.samples.getD k []).countP isClip) ++ le 4 w.largest ++ le 8 rec.window) s
    else s

/-- The self-test state that a satellite's latest record tells (R259): channel in rotation, phase, spare in service, pinned. A record has
no code for a spare check: a group in one stays there while the record reads idle (DEDUCED; log 53). -/
def recordSelftest (i : Nat) (rec : RingRecord) (s : State) : State :=
  let g := 4 + 16 * i + rec.position
  let b := rec.selftest
  let told : SelftestPhase :=
    if b.testBit 5 then .pinned
    else match b / 4 % 4 with
      | 0 => .idle
      | 1 => .matching
      | 2 => .test
      | _ => .rematch
  let s := setMet (fun m => { m with
    groups := modAt m.groups g (fun x => { x with
      index := b % 4, started := x.started || told != .idle
      phase := if x.phase = .spareCheck && told = .idle then x.phase else told }) }) s
  (List.range 4).foldl (fun s k =>
    setMetChan (satChannel i rec.position + k) (fun c => { c with onSpare := b.testBit 4 && decide (k = b % 4) }) s) s

/-- A satellite has restarted: its counters start anew from zero, its sets have a gap, and its self-test starts again with the first
channel, but where a channel is pinned (R244, R245, R252, R267). -/
def satelliteRestart (i p last first : Nat) (s : State) : State :=
  let s := (satSets s.met.calib i p).foldl (fun s e =>
    let s := setMetSet e.1.set (fun m => { m with gap := true, demand := demandRestart m m.counters }) s
    setMet (fun m => { m with gaps := m.gaps ++ [(e.1.set, last, first)] }) s) s
  setMet (fun m => { m with
    groups := modAt m.groups (4 + 16 * i + p) (fun x =>
      if x.phase == .pinned then x
      else { x with phase := .idle, index := 0, started := false, primaryOut := false, suspect := false }) }) s

/-- What a window record brings to one set: counters, and, if no later window of the set has been delivered, its values and flags (R230,
R235, R244, R246, R264). -/
def recordSet (i : Nat) (rec : RingRecord) (unaligned : Bool) (s : State) (x : CalSet × Nat) : State :=
  let (e, slot) := x
  let counters := rec.counters.getD slot []
  setMetSet e.set (fun m =>
    let m := { m with
      received := (((rec.window, rec.counterEpoch, counters) :: m.received.filter (fun r => r.1 != rec.window)).filter
        (fun r => decide (rec.window < r.1 + 512))).foldr (fun r l => (l.takeWhile (fun y => decide (r.1 < y.1))) ++ r ::
          l.dropWhile (fun y => decide (r.1 < y.1))) [] }
    let later : Bool := match m.delivered with
      | some (_, w, _) => decide (rec.window ≤ w)
      | none => false
    if later then m
    else { m with
      deliveredBefore := m.delivered
      delivered := some (rec.counterEpoch, rec.window, counters)
      counters := counters, epoch := rec.counterEpoch, window := rec.window
      unaligned := unaligned
      temperature := rec.flags.testBit 2, settling := rec.flags.testBit 3
      clip := (setChannels e).any (fun c => rec.clips.testBit (c - satChannel i rec.position))
      missing := false }) s

/-- A window record of a bound satellite: its samples, counters and flags are taken, and boundaries that waited for it close (R235, R244,
R259, R261, R264). -/
def ringRecord (i port : Nat) (rec : RingRecord) (s : State) : State :=
  let pos := ringPos s i rec.position
  if !pos.isBound || 16 ≤ rec.position then s
  else
    let unaligned := rec.flags.testBit 0
    let newest := match pos.lastWindow with
      | some w => decide (w < rec.window)
      | none => true
    let newEpoch := newest && pos.lastWindow.isSome && pos.epoch ≠ rec.counterEpoch
    let alignedRun := if unaligned then 0 else cap 16 (pos.alignedRun + 1)
    let s := setRingPos i rec.position (fun p => { p with
      status := 1, port := port
      missed := 0
      unreachableAt := none
      lacking := p.lacking.filter (· != rec.window)
      lastWindow := if newest then some rec.window else p.lastWindow
      epoch := if newest then rec.counterEpoch else p.epoch
      alignedRun := alignedRun, markMissing := p.markMissing && unaligned
      powerFailing := p.powerFailing && !newest }) s
    let s := if rec.flags.testBit 1 then setRing i (fun r => { r with recovered := r.recovered + 1 }) s else s
    let s := (List.range 4).foldl (recordChannel i rec newest) s
    let s := if newEpoch then satelliteRestart i rec.position (pos.lastWindow.getD 0) rec.window s else s
    let s := if newest then recordSelftest i rec s else s
    let s := (satSets (calibAt s rec.window) i rec.position).foldl (recordSet i rec (decide (alignedRun < 16))) s
    closeSatellite i rec.position s

/-- Starts an enumeration, or starts it anew: ENUM from both ports (R256). The position of a frame that goes to all has bit 4 set. -/
def enumerate (i : Nat) (s : State) : State := ringGoto i .enumerating (sendRing i [(1, enumFrame), (2, enumFrame)] s)

/-- A further break: the satellites between two breaks are unreachable (R262). -/
def recordBreak (i hop : Nat) (s : State) : State :=
  setRing i (fun r =>
    let r := { r with broken := (r.broken ++ [hop]).eraseDups }
    { r with positions := (List.range 16).map (fun p =>
        let x := r.positions.getD p {}
        if cutOff r p && (x.status == 1 || x.status == 5) then { x with status := 6, unreachableAt := some s.time.uptime }
        else x) }) s

/-- Loss of signal on a hop (R262, R263): an INTACT ring reverses the sweep for the positions cut off from their port, a second break
cuts positions off for good; a further report of the break of a WRAPPED ring is no second break. -/
def lossOfSignal (i hop : Nat) (s : State) : State :=
  let r := ringOf s i
  match r.phase with
  | .down => s
  | .enumerating => enumerate i (setRing i (fun r => { r with broken := (r.broken ++ [hop]).eraseDups }) s)
  | .intact =>
    let before := r.positions.map (·.port)
    let s := resplit i (setRing i (fun r => { r with broken := [hop] }) s)
    let window := now s - 1
    let s := setRing i (fun r => { r with sent := r.sent ++ (List.range 16).flatMap (fun p =>
      let x := r.positions.getD p {}
      if before.getD p 0 != x.port && x.lacking.contains window then [(x.port, recoverFrame p window)] else []) }) s
    ringGoto i .wrapped (raiseFault 0x50 2 s)
  | .wrapped => if r.broken.contains hop then s else ringGoto i .segmented (raiseFault 0x50 2 (recordBreak i hop s))
  | .segmented => recordBreak i hop s

/-- A link comes up on a hop (R262): enumeration starts unless the ring is down or INTACT. -/
def linkRestored (i hop : Nat) (s : State) : State :=
  match (ringOf s i).phase with
  | .down => s
  | .intact => s
  | .enumerating => enumerate i (setRing i (fun r => { r with broken := r.broken.filter (· != hop) }) s)
  | .wrapped => enumerate i (setRing i (fun r => { r with broken := r.broken.filter (· != hop) }) s)
  | .segmented => enumerate i (setRing i (fun r => { r with broken := r.broken.filter (· != hop) }) s)

/-- The satellite firmware of the sealed kernel set, as GL-F runs it (R256, R271; R601 of 18). -/
def satelliteFirmware (s : State) : BankImage := Tab.getD s.svc.glf 4 {}

/-- What an enumeration makes of a satellite with a serial number and a firmware hash (R256): bound, unbound, serial mismatch, firmware
mismatch. With MS2 open a differing firmware is updated over the ring, and the satellite is bound. -/
def judgeFound (s : State) (i p serial : Nat) (firmware : Bytes) : Nat :=
  match s.met.calib.bindings.find? (fun b => b.ring == i && b.position == p) with
  | none => 2
  | some b =>
    if b.serial ≠ serial then 3
    else if firmware ≠ (satelliteFirmware s).hash && sealClosed s 2 then 4
    else 1

/-- Class-B faults for a mismatch that is found, and the audit entry of a serial number's (R256, R273). -/
def reportMismatch (i p status : Nat) (s : State) : State :=
  let s := if status = 3 || status = 4 then raiseFault 0x51 2 s else s
  if status = 3 then audit 14 0xFF 0 (le 1 i ++ le 1 p) s else s

/-- The bytes of a channel entry (R269). -/
def calChannelBytes (e : CalChannel) : Bytes :=
  le 1 e.channel ++ le 1 e.sensor ++ le 1 e.range ++ le 1 (e.compensated.toNat + 2 * e.voltage.toNat) ++ le 4 e.fsPrimary ++
    leS 4 e.offset ++ le 4 e.gain ++ leS 4 e.delay ++ zeros 12 ++
    (List.range 16).flatMap (fun i => let p := e.points.getD i (0, 0, 0); leS 2 p.1 ++ leS 2 p.2.1 ++ leS 2 p.2.2)

/-- The bytes of a set entry (R269). -/
def calSetBytes (e : CalSet) : Bytes :=
  le 1 e.set ++ le 1 e.kind ++ le 1 e.location ++ le 1 e.slot ++ (List.range 3).flatMap (fun i => le 1 (e.current.getD i 0xFF)) ++
    le 1 e.neutral ++ (List.range 3).flatMap (fun i => le 1 (e.voltage.getD i 0xFF)) ++ le 1 e.reverse.toNat ++ le 4 e.noloadMw ++
    le 4 e.noloadMvar ++ zeros 12

/-- Payload of a CONFIG frame: a record's entries for a satellite's channels and sets, then the demand registers of its sets, four bytes
each: quantity, interval, sub_count, 0; quantity 0xFF where none is configured. The place and form of the demand configuration are not
given (DESIGN CHOICE; log 53). -/
def configPayload (s : State) (r : CalRecord) (i p : Nat) : Bytes :=
  let sets := (satSets r i p).map (·.1)
  (List.range 4).flatMap (fun k => match calChannel r (satChannel i p + k) with
    | some e => calChannelBytes e
    | none => []) ++
  sets.flatMap calSetBytes ++
  sets.flatMap (fun e => (List.range 4).flatMap (fun j => match Tab.get (metSet s e.set).demand j with
    | some d => le 1 d.quantity ++ le 1 d.intervalMin ++ le 1 d.subCount ++ zeros 1
    | none => le 1 0xFF ++ zeros 3))

/-- Sends a record's constants to every satellite found that the record binds (R239). -/
def sendConfig (r : CalRecord) (s : State) : State :=
  [0, 1].foldl (fun s i =>
    if (ringOf s i).phase = .down then s
    else (List.range 16).foldl (fun s p =>
      let x := ringPos s i p
      if x.status != 0 && x.status != 6 && r.bindings.any (fun b => b.ring == i && b.position == p && b.serial == x.serial) then
        sendNumbered i p 6 (configPayload s r i p) s
      else s) s) s

/-- Sends the sealed set's satellite firmware to a position, in segments of at most 1,024 B (R256, R258). -/
def sendFirmware (i p : Nat) (s : State) : State :=
  let b := (satelliteFirmware s).body
  (List.range (ceilDiv b.length 1024)).foldl (fun s k => sendNumbered i p 9 ((b.drop (1024 * k)).take 1024) s) s

/-- Updates a satellite over the ring (R256). -/
def updateFirmware (i p : Nat) (s : State) : State :=
  setRingPos i p (fun x => { x with firmware := (satelliteFirmware s).hash }) (sendFirmware i p s)

/-- What enumeration sends to a satellite found: the round trips that measure its hop; for a bound one its firmware where it differs, and
its constants (R239, R256). The time stamp of an ECHO is the Gliris time (DESIGN CHOICE; log 53). -/
def greetFound (i : Nat) (s : State) (f : RingFound) : State :=
  let port := (ringPos s i f.position).port
  let s := sendRing i (List.replicate 16 (port, ringFrame 5 f.position 0 (le 8 (now s)))) s
  if (ringPos s i f.position).status = 1 then
    let s := if f.firmware = (satelliteFirmware s).hash then s
      else updateFirmware i f.position s
    sendNumbered i f.position 6 (configPayload s s.met.calib i f.position) s
  else s

/-- Enumeration ends (R256, R262): positions, bindings, hop delays, the ring's state, and faults for mismatches. -/
def enumerationComplete (i : Nat) (found : List RingFound) (breaks : List Nat) (s : State) : State :=
  if (ringOf s i).phase ≠ .enumerating then s
  else
    let s := setRing i (fun r => { r with
      broken := breaks
      positions := (List.range 16).map (fun p =>
        let x := r.positions.getD p {}
        match found.find? (fun f => f.position == p) with
        | some f =>
          { x with status := judgeFound s i p f.serial f.firmware, serial := f.serial, firmware := f.firmware
                   hopDelayNs := f.hopDelayNs, missed := 0, unreachableAt := none }
        | none =>
          if s.met.calib.bindings.any (fun b => b.ring == i && b.position == p) then
            { x with status := 6, unreachableAt := some (x.unreachableAt.getD s.time.uptime) }
          else { x with status := 0 }) }) s
    let s := resplit i s
    let s := found.foldl (fun s f => reportMismatch i f.position (ringPos s i f.position).status s) s
    let s := found.foldl (greetFound i) s
    match breaks with
    | [] => ringGoto i .intact (endFault 0x50 s)
    | [_] => ringGoto i .wrapped s
    | _ => ringGoto i .segmented s

/-- A calibration that activates judges the satellites found anew: it may bind a serial number, or no longer bind it (R256). -/
def rejudge (s : State) : State :=
  [0, 1].foldl (fun s i => resplit i ((List.range 16).foldl (fun s p =>
    let x := ringPos s i p
    if x.status = 0 || x.status = 6 then s
    else
      let j := judgeFound s i p x.serial x.firmware
      let j := if j = 1 && x.status = 5 then 5 else j
      if j = x.status then s else reportMismatch i p j (setRingPos i p (fun x => { x with status := j }) s)) s)) s

/-- FIELD power is lost: the rings are DOWN (R262). -/
def ringsDown (s : State) : State := [0, 1].foldl (fun s i => ringGoto i .down s) s

/-- FIELD power comes up: the rings enumerate (R256, R262). -/
def ringsUp (s : State) : State :=
  [0, 1].foldl (fun s i => enumerate i (setRing i (fun r => { r with broken := [], sent := [] }) s)) s

/-- A record missing for 3 consecutive sweeps without loss of signal (R262): the satellite is marked faulted. -/
def recordMissing (i p : Nat) (s : State) : State :=
  let r := ringOf s i
  let x := ringPos s i p
  if (r.phase == .intact || r.phase == .wrapped || r.phase == .segmented) && x.status == 1 && 3 ≤ x.missed then
    setRingPos i p (fun x => { x with status := 5 }) (raiseFault 0x50 3 s)
  else s

/-- A bound satellite unreachable for 60 s (R262): a class-B fault for each of its sets. -/
def satelliteUnreachable (i p : Nat) (s : State) : State :=
  let x := ringPos s i p
  match x.unreachableAt with
  | some t =>
    if (ringOf s i).phase = .segmented && x.status = 6 && t + 60000 ≤ s.time.uptime then
      (satSets s.met.calib i p).foldl (fun s _ => raiseFault 0x51 3 s) s
    else s
  | none => s

/-- A satellite without its tick mark for more than 2 ticks samples on its own clock (R235). -/
def tickMarkMissing (i p : Nat) (s : State) : State :=
  let s := setRingPos i p (fun x => { x with markMissing := true, alignedRun := 0 }) s
  (satSets s.met.calib i p).foldl (fun s (e, _) => setMetSet e.set (fun m => { m with unaligned := true }) s) s

/-- A STATUS frame of a satellite (R258): 1 loss of signal, 2 signal restored, 3 power failing at that position. -/
def ringStatus (i kind hop : Nat) (s : State) : State :=
  if kind = 1 then lossOfSignal i hop s
  else if kind = 2 then linkRestored i hop s
  else if kind = 3 then
    setMet (fun m => { m with
      groups := modAt m.groups (4 + 16 * i + hop) (fun x =>
        if x.phase == .pinned then x
        else { x with phase := .idle, index := 0, started := false, primaryOut := false, suspect := false }) })
      (setRingPos i hop (fun x => { x with powerFailing := true }) s)
  else s

/-! ## Spare-swap self-test (R265 to R268) -/

/-- Self-test group state. -/
def groupOf (s : State) (g : Nat) : SelftestGroup := s.met.groups.getD g {}
/-- Changes a group. -/
def setGroup (g : Nat) (f : SelftestGroup → SelftestGroup) (s : State) : State :=
  setMet (fun m => { m with groups := modAt m.groups g f }) s
/-- Channels in a group: 16 local, or 4 of a satellite (R265). -/
def groupSize (g : Nat) : Nat := if g < 4 then 16 else 4
/-- First channel of a group: 16g, or those of satellite group 4 + 16i + p. -/
def groupBase (g : Nat) : Nat := if g < 4 then 16 * g else satChannel ((g - 4) / 16) ((g - 4) % 16)
/-- Group of a channel. -/
def groupOfChannel (c : Nat) : Nat := if c < 64 then c / 16 else 4 + (c - 64) / 4
/-- Channel in rotation. -/
def rotationChannel (s : State) (g : Nat) : Nat := groupBase g + (groupOf s g).index

/-- SELFTEST event of the channel in rotation (R274). -/
def selftestEvent (g result : Nat) (s : State) : State :=
  raiseEvent 0x0501 (rotationChannel s g) true (le 1 result ++ zeros 3 ++ le 8 (now s) ++ zeros 4) s

/-- Puts the spare, or the primary, on the channel in rotation. -/
def swapTo (g : Nat) (spare : Bool) (s : State) : State :=
  setMetChan (rotationChannel s g) (fun c => { c with onSpare := spare }) s

/-- Counts a self-test failure (MET_STATUS). -/
def countSelftest (s : State) : State := setMet (fun m => { m with selftestFailures := m.selftestFailures + 1 }) s

/-- Sets that use a channel. -/
def setsUsing (s : State) (c : Nat) : List Nat :=
  (s.met.calib.sets.filter (fun e => e.kind != 0 && (setChannels e).contains c)).map (·.set)

/-- The counting point of a group is powered (R268). -/
def groupPowered (s : State) (g : Nat) : Bool :=
  if g < 4 then s.pwr.fieldOn else !(ringPos s ((g - 4) / 16) ((g - 4) % 16)).powerFailing

/-- Every 256 ticks a group's spare moves to the next channel while the counting point is powered (R265, R267); held while a capture runs
(R268). -/
def selftestStep (g : Nat) (s : State) : State :=
  let x := groupOf s g
  if groupPowered s g && x.phase = .idle && !x.retired && !x.held then
    setGroup g (fun x => { x with
      index := if x.started then (x.index + 1) % groupSize g else 0, started := true, phase := .matching }) s
  else s

/-- A match or rematch phase ends (R266, R267). A group that a capture holds makes no swap out of its match and rests in IDLE, whatever the
match found (R268; DEDUCED, log 53). -/
def selftestPhaseEnd (g : Nat) (agree : Bool) (s : State) : State :=
  match (groupOf s g).phase with
  | .matching =>
    if (groupOf s g).held then setGroup g (fun x => { x with phase := .idle }) s
    else if agree then swapTo g true (setGroup g (fun x => { x with phase := .test }) s)
    else countSelftest (selftestEvent g 1 (setGroup g (fun x => { x with phase := .spareCheck, primaryOut := false, suspect := false }) s))
  | .rematch =>
    if agree then selftestEvent g 0 (swapTo g false (setGroup g (fun x => { x with phase := .idle }) s))
    else countSelftest (selftestEvent g 1 (setGroup g (fun x => { x with phase := .spareCheck, primaryOut := true, suspect := false }) s))
  | _ => s

/-- The primary fails its test: the channel stays on the spare and the group is PINNED (R267). -/
def pinChannel (g : Nat) (s : State) : State :=
  let s := selftestEvent g 4 (selftestEvent g 2 (countSelftest (raiseFault 0x50 4 s)))
  let s := audit 12 0xFF 0 (le 1 (rotationChannel s g)) s
  swapTo g true (setGroup g (fun x => { x with phase := .pinned }) s)

/-- The primary passes or fails its test (R267). -/
def selftestPrimary (g : Nat) (passed : Bool) (s : State) : State :=
  match (groupOf s g).phase with
  | .test => if passed then setGroup g (fun x => { x with phase := .rematch }) s else pinChannel g s
  | .spareCheck =>
    if passed then
      selftestEvent g 5 (swapTo g false (setGroup g (fun x => { x with phase := .idle, primaryOut := false, suspect := false })
        (countSelftest (raiseFault 0x50 4 s))))
    else pinChannel g s
  | _ => s

/-- The spare passes or fails when tested alone (R267). -/
def selftestSpare (g : Nat) (passed : Bool) (s : State) : State :=
  let x := groupOf s g
  if passed then
    if x.phase = .spareCheck && !x.primaryOut then
      let cs := setsUsing s (rotationChannel s g)
      let s := cs.foldl (fun s k => setMetSet k (fun m => { m with suspect := true }) s) s
      swapTo g true (setGroup g (fun x => { x with suspect := true }) s)
    else s
  else
    let s := selftestEvent g 3 (countSelftest s)
    if x.phase = .pinned then raiseFault 0x51 4 s
    else
      swapTo g false (setGroup g (fun x => { x with phase := .idle, retired := true, primaryOut := false, suspect := false })
        (raiseFault 0x50 4 s))

/-! ## Captures (R268, R280) -/

/-- A capture requested on a channel in rotation (R267): a running test is aborted into REMATCH, and the rotation of the
groups concerned is held. -/
def captureHold (cs : List Nat) (s : State) : State :=
  cs.foldl (fun s c =>
    let g := groupOfChannel c
    let s := setGroup g (fun x => { x with held := true }) s
    if (groupOf s g).phase = .test && rotationChannel s g = c then setGroup g (fun x => { x with phase := .rematch }) s else s) s

/-- Releases the groups a capture held. -/
def captureRelease (cs : List Nat) (s : State) : State :=
  cs.foldl (fun s c => setGroup (groupOfChannel c) (fun x => { x with held := false }) s) s

/-- A channel is ready for capture: served by its primary, or pinned to its spare; a channel whose spare is being checked waits until that
phase ends (R267, R280). -/
def captureReady (s : State) (c : Nat) : Bool :=
  let g := groupOfChannel c
  let turn := rotationChannel s g == c
  if (groupOf s g).phase = .pinned && turn then true
  else !(metChan s c).onSpare && !((groupOf s g).phase == .spareCheck && turn)

/-- The capture starts at the first window in which every named channel is ready (R280). -/
def captureStart (s : State) : State :=
  match s.met.capture with
  | some c =>
    if !c.running && s.pwr.fieldOn && c.channels.all (captureReady s) then
      setMet (fun m => { m with capture := some { c with running := true, firstTick := now s } }) s
    else s
  | none => s

/-- Result of one captured channel (R280). The fundamental's estimator is not given: its values are free (use 10). -/
def captureResult (c : Capture) (ch : Nat) (s : State) : Bytes × State :=
  let a := Tab.getD c.acc ch (0, 0, 0, false, false)
  let f := draw 10 (2 ^ 32) s
  let p := draw 10 (2 ^ 32) f.2
  (le 1 ch ++ le 1 (a.2.2.2.1.toNat + 2 * a.2.2.2.2.toNat) ++ leS 2 (metChan s ch).temperature ++
    leS 4 (exactOr (256 * a.1) a.2.2.1) ++ le 4 (rootOr (65536 * a.2.1) a.2.2.1) ++ le 4 f.1 ++ le 4 p.1 ++ zeros 4, p.2)

/-- Results of all captured channels, in the order requested. -/
def captureResults (c : Capture) : List Nat → State → Bytes × State
  | [], s => ([], s)
  | ch :: cs, s =>
    let r := captureResult c ch s
    let rs := captureResults c cs r.2
    (r.1 ++ rs.1, rs.2)

/-- A capture's ticks end: its raw samples have gone to its stream, and its completion is sent (R280). The form in which
raw samples are streamed is not given: one page of free bytes stands for them (use 11). -/
def captureComplete (s : State) : State :=
  match s.met.capture with
  | some c =>
    if c.running && c.ticks ≤ c.done then
      let r := captureResults c c.channels s
      let s := if c.stream = 0 then r.2
        else
          let b := drawBytes 11 4064 r.2
          produceAll c.stream [b.1] b.2
      let s := captureRelease c.channels (setMet (fun m => { m with capture := none }) s)
      complete c.ref stOk 0 (le 8 c.firstTick ++ pad 192 r.1) s
    else s
  | none => s

/-- MS1 closes: a running capture is ended and a pending calibration discarded, both with DENIED_SEAL (R271). -/
def sealMs1Closed (s : State) : State :=
  let s := match s.met.capture with
    | some c =>
      complete c.ref stDeniedSeal 1 [] (captureRelease c.channels (setMet (fun m => { m with capture := none }) s))
    | none => s
  let gone := s.gens.waiting.filter (fun g => g.table.key == (4, 0))
  let s := { s with gens := { s.gens with waiting := s.gens.waiting.filter (fun g => g.table.key != (4, 0)) } }
  gone.foldl (fun s g =>
    let s := audit 7 g.principal g.role (le 1 1) s
    match g.ref with
    | some r => complete r stDeniedSeal 1 [] s
    | none => s) s

/-- MS1 (1) or MS2 (2) changes, while running or as found at power-up: its audit entry, with whose commit an opening is
counted (R271, R273). -/
def sealAudit (p : Nat) (closed atPowerUp : Bool) (s : State) : State :=
  let s := audit (2 * p - 1 + closed.toNat) 0xFF 0 (le 1 atPowerUp.toNat) s
  { s with seals := { s.seals with audited := modAt s.seals.audited (p - 1) (fun _ => closed) } }

/-! ## Commands of the tables: events -/

def execDemandBoundary (set reg : Nat) (s : State) : Result := .next (demandBoundary set reg s)
def execCoilSettled (s : State) : Result :=
  .next (if s.pwr.fieldOn && s.met.fieldUpAt + 20000 ≤ s.time.uptime then
    setMet (fun m => { m with coilSettled := true, sets := m.sets.map (fun k => { k with settling := false }) }) s else s)
def execRingRecordRx (ring port : Nat) (frame : Bytes) (s : State) : Result :=
  .next (match recordFrame frame with
    | some r => ringRecord ring port r s
    | none => s)
def execRingStatusRx (ring kind hop : Nat) (s : State) : Result := .next (ringStatus ring kind hop s)
def execRingLossOfSignal (ring hop : Nat) (s : State) : Result := .next (lossOfSignal ring hop s)
def execRingLinkRestored (ring hop : Nat) (s : State) : Result := .next (linkRestored ring hop s)
def execEnumerationComplete (ring : Nat) (found : List RingFound) (breaks : List Nat) (s : State) : Result :=
  .next (enumerationComplete ring found breaks s)
def execRecordMissing (ring position : Nat) (s : State) : Result := .next (recordMissing ring position s)
def execSatelliteUnreachable (ring position : Nat) (s : State) : Result := .next (satelliteUnreachable ring position s)
def execTickMarkMissing (ring position : Nat) (s : State) : Result := .next (tickMarkMissing ring position s)
def execSelftestStepStart (group : Nat) (s : State) : Result := .next (selftestStep group s)
def execSelftestPhaseEnd (group : Nat) (agree : Bool) (s : State) : Result := .next (selftestPhaseEnd group agree s)
def execSelftestPrimaryResult (group : Nat) (passed : Bool) (s : State) : Result := .next (selftestPrimary group passed s)
def execSelftestSpareResult (group : Nat) (passed : Bool) (s : State) : Result := .next (selftestSpare group passed s)
def execCaptureStart (s : State) : Result := .next (captureStart s)
def execCaptureComplete (s : State) : Result := .next (captureComplete s)

end Sys2Proof.Machine
end

