-- ==== Sys2Proof/Machine/MetCommands.lean ====
section
/-!
DEFINITION. The MET_ commands and the activation of a calibration. Chapter 08 of the spec (R269 to R283).
-/

namespace Sys2Proof.Machine

/-! ## The calibration record (R269, R270) -/

/-- Fields of the record header (R269). -/
def calHeaderChecks (b : Bytes) : List (Nat × Bool) :=
  ([ (0, rd b 0 4 == 0x41434C47), (4, rd b 4 2 == 1), (6, rd b 6 1 == 50 || rd b 6 1 == 60), (7, rd b 7 1 ≤ 32),
    (8, rd b 8 1 ≤ 192), (9, rd b 9 1 ≤ 32), (7, b.length == 64 + 16 * rd b 7 1 + 128 * rd b 8 1 + 32 * rd b 9 1) ] : List (Nat × Bool)) ++
  reservedBytes b 10 54

/-- Fields of a satellite binding entry (R269). -/
def bindingChecks (b : Bytes) : List (Nat × Bool) :=
  ([ (0, rd b 0 1 ≤ 1), (1, rd b 1 1 ≤ 15) ] : List (Nat × Bool)) ++ reservedBytes b 2 6

/-- Reads a satellite binding entry. -/
def bindingOf (b : Bytes) : CalBinding := { ring := rd b 0 1, position := rd b 1 1, serial := rd b 8 8 }

/-- Reads a channel entry (R269). -/
def calChannelOf (b : Bytes) : CalChannel := {
  channel := rd b 0 1, sensor := rd b 1 1, range := rd b 2 1, compensated := (rd b 3 1).testBit 0
  voltage := (rd b 3 1).testBit 1, fsPrimary := rd b 4 4, offset := rdS b 8 4, gain := rd b 12 4, delay := rdS b 16 4
  points := (List.range 16).map (fun i => (rdS b (32 + 6 * i) 2, rdS b (34 + 6 * i) 2, rdS b (36 + 6 * i) 2)) }

/-- A sensor kind is permitted on a channel (R229): shunt, transformer, coil on current channels; divider and voltage
transformer on voltage channels; a satellite channel is a voltage channel as its flag says. -/
def sensorPermitted (e : CalChannel) : Bool :=
  e.sensor == 0 ||
    (if isCurrentChannel e then 1 ≤ e.sensor && e.sensor ≤ 3 else e.sensor == 4 || e.sensor == 5)

/-- A range is one the sensor kind permits (R229). -/
def rangePermitted (e : CalChannel) : Bool :=
  if e.sensor = 1 then e.range == 0 else if e.sensor = 4 || e.sensor = 5 then e.range == 1 else e.range ≤ 1

/-- Fields of a channel entry (R269). -/
def calChannelChecks (b : Bytes) : List (Nat × Bool) :=
  let e := calChannelOf b
  let f := rd b 3 1
  ([ (0, e.channel ≤ 191), (1, e.sensor ≤ 5 && sensorPermitted e), (2, e.range ≤ 1 && rangePermitted e),
    (3, f < 4 && (!e.voltage || (64 ≤ e.channel && (e.sensor == 4 || e.sensor == 5)))),
    (4, 1 ≤ e.fsPrimary), (12, 0x30000000 ≤ e.gain && e.gain ≤ 0x50000000),
    (16, -32768 ≤ e.delay && e.delay ≤ 32767) ] : List (Nat × Bool)) ++ reservedBytes b 20 12 ++
  (List.range 15).map (fun i => (38 + 6 * i, decide (rdS b (32 + 6 * i) 2 < rdS b (38 + 6 * i) 2)))

/-- Reads a set entry (R269). -/
def calSetOf (b : Bytes) : CalSet := {
  set := rd b 0 1, kind := rd b 1 1, location := rd b 2 1, slot := rd b 3 1
  current := [rd b 4 1, rd b 5 1, rd b 6 1], neutral := rd b 7 1, voltage := [rd b 8 1, rd b 9 1, rd b 10 1]
  reverse := (rd b 11 1).testBit 0, noloadMw := rd b 12 4, noloadMvar := rd b 16 4 }

/-- Elements of a set kind (R240). -/
def kindElements : Nat → Nat
  | 1 => 1 | 2 => 2 | 3 => 3 | 4 => 1 | _ => 0

/-- A channel may serve a set (R241, R270): it has an entry, it is of the right type, it lies where the set is, and a DC
set takes no sensor kind that passes no DC. -/
def channelServes (chs : List CalChannel) (e : CalSet) (current : Bool) (c : Nat) : Bool :=
  match chs.find? (fun x => x.channel == c) with
  | none => false
  | some x =>
    x.sensor != 0 && isCurrentChannel x == current &&
      (if e.location = 0 then decide (c < 64)
       else decide (satChannel (e.location - 1) (e.slot % 16) ≤ c && c < satChannel (e.location - 1) (e.slot % 16) + 4)) &&
      !(e.kind == 4 && (x.sensor == 2 || x.sensor == 3 || x.sensor == 5))

/-- Fields of a set entry, given the channel entries and the sets before it; a satellite has two set slots, each for one set (R241,
R269). -/
def calSetChecks (chs : List CalChannel) (before : List CalSet) (b : Bytes) : List (Nat × Bool) :=
  let e := calSetOf b
  let n := kindElements e.kind
  let taken (c : Nat) : Bool := before.any (fun x => x.kind != 0 && (x.current ++ [x.neutral]).contains c)
  ([ (0, e.set ≤ 31), (1, e.kind ≤ 4), (2, e.location ≤ 2 && !(e.set ≤ 15 && e.location != 0 && e.kind != 0)),
    (3, if e.location = 0 then e.slot == 0
        else e.slot < 32 && !(e.kind != 0 && before.any (fun x => x.kind != 0 && x.location == e.location && x.slot == e.slot))) ]
      : List (Nat × Bool)) ++
  (List.range 3).map (fun i =>
    let c := e.current.getD i 0xFF
    (4 + i, if i < n then channelServes chs e true c && !taken c && !(e.current.take i).contains c else c == 0xFF || e.kind == 0)) ++
  ([ (7, e.neutral == 0xFF || e.kind == 0 ||
        (e.kind == 3 && channelServes chs e true e.neutral && !taken e.neutral && !e.current.contains e.neutral)) ] : List (Nat × Bool)) ++
  (List.range 3).map (fun i =>
    let c := e.voltage.getD i 0xFF
    (8 + i, if i < n then channelServes chs e false c else c == 0xFF || e.kind == 0)) ++
  ([ (11, rd b 11 1 < 2), (12, e.noloadMw ≤ 1000000), (16, e.noloadMvar ≤ 1000000) ] : List (Nat × Bool)) ++
  reservedBytes b 20 12

/-- Checks set entries in order. -/
def checkSets (chs : List CalChannel) (base : Nat) : List Bytes → List CalSet → Option (Nat × Nat)
  | [], _ => none
  | b :: bs, before =>
    match firstBad (calSetChecks chs before b) with
    | some off => some (off, base + off)
    | none => checkSets chs (base + 32) bs (before ++ [calSetOf b])

/-- Checks entries that stand for themselves. -/
def checkEntries (checks : Bytes → List (Nat × Bool)) (base size : Nat) : List Bytes → Option (Nat × Nat)
  | [] => none
  | b :: bs =>
    match firstBad (checks b) with
    | some off => some (off, base + off)
    | none => checkEntries checks (base + size) size bs

/-- Reads a calibration record, or names the offending byte: its offset in its entry and in the record (R125, R270). -/
def decodeCal (b : Bytes) : Except (Nat × Nat) CalRecord :=
  match firstBad (calHeaderChecks b) with
  | some off => .error (off, off)
  | none =>
    let ns := rd b 7 1
    let nc := rd b 8 1
    let nt := rd b 9 1
    let c0 := 64 + 16 * ns
    let t0 := c0 + 128 * nc
    let bs := (List.range ns).map (fun i => slice b (64 + 16 * i) 16)
    let cs := (List.range nc).map (fun i => slice b (c0 + 128 * i) 128)
    let ts := (List.range nt).map (fun i => slice b (t0 + 32 * i) 32)
    let chs := cs.map calChannelOf
    match checkEntries bindingChecks 64 16 bs with
    | some e => .error e
    | none =>
      match checkEntries calChannelChecks c0 128 cs with
      | some e => .error e
      | none =>
        match checkSets chs t0 ts [] with
        | some e => .error e
        | none => .ok { fNom := rd b 6 1, bindings := bs.map bindingOf, channels := chs, sets := ts.map calSetOf
                        sha256 := sha256 b }

/-- Completes a received MET_CAL_ARM transfer: validates the record and arms it (R14, R15, R271, R279). -/
def calReceived (t : Transfer) (s : State) : State :=
  match decodeCal t.data with
  | .error (e, o) => tableFault t.ref e o s
  | .ok r =>
    if sealClosed s 1 then complete t.ref stDeniedSeal 1 [] s
    else
      let g := GenTable.calib r
      match activationTick g (rd t.request.args 8 8) s with
      | none => complete t.ref stOutOfRange 24 [] s
      | some tick =>
        if armBusy g s then complete t.ref stBusy 1 [] s
        else if t.dryrun then complete t.ref stOk 0 (le 8 tick ++ zeros 8) s
        else
          let who := auditActor s t.request.session
          let s := if s.gens.waiting.any (fun x => x.table.key == g.key) then audit 7 who.1 who.2 (le 1 2) s else s
          let s := armGen { table := g, opcode := 0x0510, tick := tick, ref := some t.ref, principal := who.1, role := who.2 } s
          audit 5 who.1 who.2 (le 8 tick) (sendConfig r s)

/-- A calibration activates (R239, R246, R256, R269): the one before is kept for the windows before it, calib_id assigned, written to the inactive boot bank and then the active one,
audited, and sets that changed their location start a new baseline. -/
def applyCalib (g : PendingGen) (r : CalRecord) (s : State) : State :=
  let id := s.met.calibHighest + 1
  let old := s.met.calib
  let r := { r with calibId := id }
  let moved := r.sets.filter (fun e => match calSet old e.set with
    | some x => x.location != e.location || x.slot != e.slot
    | none => false)
  let s := setMet (fun m => { m with
    calib := r, calibHighest := id, calibA := some r, calibB := some r
    calibOld := m.calibOld.filter (fun e => decide (now s < e.1 + 512)) ++ [(now s, old)]
    sets := moved.foldl (fun l e => modAt l e.set (fun x => { x with rebase := some (now s) })) m.sets }) s
  let active : Nat := if s.mem.bankB.valid && decide (s.mem.bankA.seq < s.mem.bankB.seq) then 1 else 0
  let s := audit 8 g.principal g.role (le 1 (1 - active) ++ le 1 0) s
  let s := audit 8 g.principal g.role (le 1 active ++ le 1 0) s
  let s := rejudge (audit 6 g.principal g.role (le 4 id ++ le 4 old.calibId) s)
  match g.ref with
  | some ref => complete ref stOk 0 (le 8 (now s) ++ le 4 id ++ zeros 4) s
  | none => s

/-! ## Commands -/

/-- Oldest audit_seq still in the journal ring (R273). -/
def auditOldest (s : State) : Nat := ((s.met.audit.head?).map (·.seq)).getD s.met.auditSeq

/-- MET_STATUS (R275). -/
def cmdMetStatus : Cmd := {
  opcode := 0x0500, role := fun _ => .reader, size := 0, updating := glfUpdating
  body := fun _ s =>
    let pend := s.gens.waiting.find? (fun g => g.table.key == (4, 0))
    let flags := ofBits [pend.isSome, (s.met.capture.map (·.running)).getD false, s.met.sets.any (·.check),
      s.met.groups.any (fun g => g.phase == .pinned), s.met.rings.any (fun r => r.positions.any (fun p => p.status == 6))]
    okWith (le 4 s.met.calib.calibId ++ le 4 s.yrw.kernelSetId ++
      le 1 ((sealClosed s 1).toNat + 2 * (sealClosed s 2).toNat) ++ le 1 flags ++ le 2 s.met.fieldEpoch ++
      le 4 s.met.auditSeq ++ le 4 (auditOldest s) ++ le 4 s.met.ms1Openings ++ le 4 s.met.ms2Openings ++
      le 4 (ofBits ((List.range 32).map (fun k => (calSet s.met.calib k).isSome))) ++
      le 8 ((pend.map (·.tick)).getD 0) ++
      (List.range 4).flatMap (fun g =>
        let x := groupOf s g
        le 1 (if x.retired || x.phase == .pinned || !x.started then 0xFF else rotationChannel s g)) ++
      le 4 s.met.selftestFailures ++ pad 32 s.met.calib.sha256) s }

/-- The flags of a set as MET_SET_READ gives them. -/
def setFlags (s : State) (k : Nat) : Nat :=
  let m := metSet s k
  let untested := match calSet s.met.calib k with
    | some e => (setChannels e).any (fun c => (groupOf s (groupOfChannel c)).retired)
    | none => false
  ofBits [m.check, m.suspect, m.gap, m.missing, m.unsealed, m.clip, m.temperature, m.unaligned, untested, m.settling]

/-- Power in whole W, var or VA from its numerator (log 17). -/
def powerW (x : Int) : Int := exactOr x (powerDen * 1000000)

/-- MET_SET_READ (R276). -/
def cmdMetSetRead : Cmd := {
  opcode := 0x0501, role := fun _ => .reader, size := 4, updating := glfUpdating
  body := fun c s =>
    let k := rd c.p 0 1
    checked [inRange 0 (k ≤ 31), resv c.p 1 3] s
      (match calSet s.met.calib k with
       | none => fail stNotReady 0 s
       | some e =>
         let m := metSet s k
         let d := match committedLocal s k with
           | some r => r.demand
           | none => [none, none, none, none]
         okWith (le 1 k ++ le 1 e.kind ++ le 2 (setFlags s k) ++ leS 4 (powerW m.p) ++ leS 4 (powerW m.q) ++
           leS 4 (powerW m.sva) ++ le 4 m.freq ++ zeros 4 ++ pad 96 (d.flatMap demandBytes24)) s) }

/-- A satellite channel's satellite answers, be it bound or not: it is neither absent nor unreachable (R277, R278). -/
def channelReachable (s : State) (ch : Nat) : Bool :=
  ch < 64 || (let p := ringPos s ((ch - 64) / 64) ((ch - 64) % 64 / 4)
              p.status != 0 && p.status != 6)

/-- Self-test phase code of a channel (MET_CHANNEL_READ). -/
def selftestCode (s : State) (ch : Nat) : Nat :=
  let g := groupOf s (groupOfChannel ch)
  if rotationChannel s (groupOfChannel ch) ≠ ch then 0
  else match g.phase with
    | .idle => 0 | .matching => 1 | .test => 2 | .rematch => 3 | .spareCheck => 4 | .pinned => 5

/-- MET_CHANNEL_READ (R277). -/
def cmdMetChannelRead : Cmd := {
  opcode := 0x0502, role := fun _ => .reader, size := 4, updating := glfUpdating
  body := fun c s =>
    let ch := rd c.p 0 1
    checked [inRange 0 (ch ≤ 191), resv c.p 1 3] s
      (match calChannel s.met.calib ch with
       | none => fail stNotReady 0 s
       | some _ =>
         if !channelReachable s ch then fail stNotReady 0 s
         else
           let m := metChan s ch
           okWith (le 1 ch ++ le 1 m.onSpare.toNat ++ le 1 (selftestCode s ch) ++ zeros 1 ++ le 4 m.rms ++
             leS 4 m.mean ++ le 4 m.peak ++ leS 4 m.fundPhase ++ leS 2 m.temperature ++ le 2 m.clips ++
             leS 4 m.delayTotal ++ leS 4 m.gainTc) s) }

/-- MET_RING_STATUS (R278). -/
def cmdMetRingStatus : Cmd := {
  opcode := 0x0503, role := fun _ => .reader, size := 4, updating := glfUpdating
  body := fun c s =>
    let i := rd c.p 0 1
    checked [inRange 0 (i ≤ 1), resv c.p 1 3] s
      (let r := ringOf s i
       let d := draw 74 (2 ^ 32) s
       let s := d.2
       okWith (le 1 r.phase.code ++ le 1 (brokenHop r) ++ le 2 (reachableMask r) ++ le 4 r.recovered ++ le 4 r.lost ++
         le 4 d.1 ++
         r.positions.flatMap (fun p => le 1 p.status ++ le 1 p.port ++ le 2 p.hopDelayNs)) s) }

/-- MET_CAL_ARM (R279): the record follows as pages. -/
def cmdMetCalArm : Cmd := {
  opcode := 0x0510, role := fun _ => .metrologist, async := true, size := 24, dryrun := true, stream := true
  standby := true, updating := glfUpdating
  body := fun c s =>
    let ch := rd c.p 0 1
    let len := rd c.p 16 4
    checked [inRange 0 (1 ≤ ch && ch ≤ 7), resv c.p 1 3, inRange 4 (rd c.p 4 4 != 0),
        inRange 8 (activationTick (.calib {}) (rd c.p 8 8) s).isSome, inRange 16 (64 ≤ len && len ≤ 26176)] s
      (if sealClosed s 1 then fail stDeniedSeal 1 s
       else if armBusy (.calib {}) s then fail stBusy 1 s
       else if !channelIdle s ch then fail stBusy 0 s
       else .accepted [] (receiveTransfer c 0x0510 ch (rd c.p 4 4) len (rd c.p 20 4) 16 20 s)) }

/-- MET_CAL_CAPTURE (R280). -/
def cmdMetCalCapture : Cmd := {
  opcode := 0x0512, role := fun _ => .metrologist, async := true, size := 16, updating := glfUpdating
  body := fun c s =>
    let places := (List.range 8).map (fun i => rd c.p i 1)
    let chs := places.filter (· != 0xFF)
    let stream := rd c.p 9 1
    checked ((List.range 8).flatMap (fun i =>
          [inRange i (places.getD i 0 ≤ 191 || places.getD i 0 == 0xFF),
           field i (places.getD i 0 == 0xFF || !(places.take i).contains (places.getD i 0))]) ++
        [field 8 (chs.contains (rd c.p 8 1)), inRange 9 (stream ≤ 7), inRange 10 (1 ≤ rd c.p 10 2 && rd c.p 10 2 ≤ 1024),
         field 12 (stream == 0 || rd c.p 12 4 != 0)]) s
      (if sealClosed s 1 then fail stDeniedSeal 1 s
       else if !chs.all (fun x => (calChannel s.met.calib x).isSome && channelReachable s x) then fail stNotReady 0 s
       else if s.met.capture.isSome then fail stBusy 0 s
       else if stream ≠ 0 && !channelIdle s stream then fail stBusy 0 s
       else
         let s := captureHold chs (setMet (fun m => { m with capture := some {
           ref := c.ref, channels := chs, reference := rd c.p 8 1, stream := stream, ticks := rd c.p 10 2
           transferId := rd c.p 12 4 } }) s)
         .accepted [] (if stream = 0 then s
           else openChannel stream .toHost {
             ref := c.ref, opcode := 0x0512, transferId := rd c.p 12 4, request := c.rq, dryrun := false, expected := 0, crc := 0 } s)) }

/-- Intervals a demand register may have (R250). -/
def demandIntervals : List Nat := [1, 2, 3, 4, 5, 6, 10, 12, 15, 20, 30, 60]

/-- MET_DEMAND_SET (R281). A removal (quantity 0xFF) has no interval of its own: its interval and sub_count are not judged, and it takes
effect 3 ticks on (DESIGN CHOICE; log 53). -/
def cmdMetDemandSet : Cmd := {
  opcode := 0x0520, role := fun _ => .operator, size := 8, dryrun := true, updating := glfUpdating, standby := true
  body := fun c s =>
    let k := rd c.p 0 1
    let q := rd c.p 2 1
    let iv := rd c.p 3 1
    let sub := rd c.p 4 1
    let dc := match calSet s.met.calib k with
      | some e => e.kind == 4
      | none => false
    checked [inRange 0 (k ≤ 31), inRange 1 (rd c.p 1 1 ≤ 3), inRange 2 (q ≤ 4 || q == 0xFF),
        field 2 (!(dc && (q == 2 || q == 3))), inRange 3 (demandIntervals.contains iv || q == 0xFF),
        inRange 4 ((1 ≤ sub && sub ≤ 15) || q == 0xFF),
        field 4 (q == 0xFF || (60 * iv) % sub == 0), resv c.p 5 3] s
      (if (calSet s.met.calib k).isNone then fail stNotReady 0 s
       else
         let len := if q = 0xFF then 1 else 60000 * iv / sub
         let tick := boundaryFrom s len (now s + 3)
         okWith (le 8 tick) (setMet (fun m => { m with
           demandPending := m.demandPending.filter (fun d => !(d.set == k && d.reg == rd c.p 1 1)) ++
             [{ set := k, reg := rd c.p 1 1, quantity := q, intervalMin := iv, subCount := sub, tick := tick
                principal := c.actor.1, role := c.actor.2 }] }) s)) }

/-- MET_DEMAND_RESET (R282). -/
def cmdMetDemandReset : Cmd := {
  opcode := 0x0521, role := fun _ => .operator, size := 4, updating := glfUpdating, standby := true
  body := fun c s =>
    let k := rd c.p 0 1
    let mask := rd c.p 1 1
    let named := (List.range 4).filter (fun i => mask.testBit i)
    checked [inRange 0 (k ≤ 31), field 1 (mask < 16 && mask != 0), resv c.p 2 2] s
      (if (calSet s.met.calib k).isNone then fail stNotReady 0 s
       else if !named.all (fun i => (Tab.get (metSet s k).demand i).isSome) then fail stBadField 17 s
       else okWith (le 8 (now s + 1)) (setMet (fun m => { m with
         demandResets := m.demandResets ++ [(k, mask, now s + 1, c.actor.1, c.actor.2)] }) s)) }

/-- The 32 B of an audit entry (R273). -/
def auditBytes (a : AuditEntry) : Bytes :=
  le 4 a.seq ++ le 1 a.kind ++ le 1 a.principal ++ le 1 a.role ++ zeros 1 ++ le 8 a.tick ++ le 4 a.calibId ++
    le 4 a.kernelSetId ++ pad 8 a.data

/-- MET_AUDIT_READ (R283). -/
def cmdMetAuditRead : Cmd := {
  opcode := 0x0530, role := fun _ => .reader, size := 8, updating := glfUpdating
  body := fun c s =>
    let from' := rd c.p 0 4
    let n := rd c.p 4 1
    checked [inRange 0 (from' < s.met.auditSeq), inRange 4 (1 ≤ n && n ≤ 7), resv c.p 5 3] s
      (if from' < auditOldest s then fail stNotReady 0 s
       else
         let es := (s.met.audit.filter (fun a => from' ≤ a.seq)).take n
         okWith (le 1 es.length ++ zeros 3 ++ le 4 (from' + es.length) ++ pad 224 (es.flatMap auditBytes)) s) }

def execMetStatus (rq : Request) (s : State) : Result := .next (submit cmdMetStatus rq s)
def execMetSetRead (rq : Request) (s : State) : Result := .next (submit cmdMetSetRead rq s)
def execMetChannelRead (rq : Request) (s : State) : Result := .next (submit cmdMetChannelRead rq s)
def execMetRingStatus (rq : Request) (s : State) : Result := .next (submit cmdMetRingStatus rq s)
def execMetCalArm (rq : Request) (s : State) : Result := .next (submit cmdMetCalArm rq s)
def execMetCalCapture (rq : Request) (s : State) : Result := .next (submit cmdMetCalCapture rq s)
def execMetDemandSet (rq : Request) (s : State) : Result := .next (submit cmdMetDemandSet rq s)
def execMetDemandReset (rq : Request) (s : State) : Result := .next (submit cmdMetDemandReset rq s)
def execMetAuditRead (rq : Request) (s : State) : Result := .next (submit cmdMetAuditRead rq s)

end Sys2Proof.Machine
end

