-- ==== Sys2Proof/Machine/ChgCommands.lean ====
section
/-!
DEFINITION. The CHG_ commands and the activation of charging configuration. Chapter 13 of the spec (R464 to R471).
-/

namespace Sys2Proof.Machine

/-- CHG_STATUS (R464). -/
def cmdChgStatus : Cmd := {
  opcode := 0x0A00, role := fun _ => .reader, size := 0, updating := glfUpdating
  body := fun _ s =>
    okWith (le 2 (bitsOf 16 (fun k => pointWhy s k == 0)) ++ le 2 (bitsOf 16 (fun k => (pointAt s k).session != 0)) ++
      le 2 (bitsOf 16 (fun k => decide ((pointAt s k).targetDkw < 0))) ++ le 1 (bitsOf 6 (fun i => sealInForce s (i + 3))) ++
      le 1 (cap 255 s.chg.stale) ++ le 4 s.chg.sessionsTotal ++ le 4 s.chg.trips ++ le 4 s.chg.cards.length ++
      le 4 s.chg.contracts.length) s }

/-! ## CHG_POINT_SET (R465) -/

/-- Converters a bus carries at its rates (*Converters per bus*, R454). -/
def busCapacity (b : BusConfig) : Nat :=
  match b.arbRate, b.dataRate with
  | 1, 1 => 6
  | 1, _ => 3
  | _, 1 => 3
  | _, _ => 2

/-- The configuration a point has, or will have once its pending generation activates. -/
def nextPoint (s : State) (k : Nat) : Option PointConfig :=
  match ((pendingGen s (10, k)).map (fun g => g.table) : Option GenTable) with
  | some (.chgPoint _ c) => c
  | _ => (pointAt s k).config

/-- A bus as it is or will be. -/
def nextBus (s : State) (b : Nat) : BusConfig :=
  match ((pendingGen s (12, b)).map (fun g => g.table) : Option GenTable) with
  | some (.chgBus _ c) => c
  | _ => s.chg.buses.getD b {}

/-- Nodes on bus `b` of points other than `skip`. -/
def busNodes (s : State) (b skip : Nat) : List Nat :=
  ((List.range 16).filter (· != skip)).flatMap (fun k => match nextPoint s k with
    | some c => if c.dc && c.bus == b then c.nodes else []
    | none => [])

/-- Reads the configuration of CHG_POINT_SET; none for kind 0. -/
def readPoint (p : Bytes) : Option PointConfig :=
  let dc := rd p 2 1 == 2
  if rd p 2 1 = 0 then none
  else some {
    dc := dc, phases := rd p 3 1, ppMode := rd p 4 1, protocols := rd p 5 1, tlsPolicy := rd p 6 1, priority := rd p 7 1
    acRatingA := rd p 8 2, dcRatingDkw := rd p 10 2, cableA := rd p 12 2, minDkw := rd p 14 2, rampUpDkw := rd p 16 2
    rampDownDkw := rd p 18 2, supplyFactor := rd p 20 2, exportFactor := rd p 22 2, dischargeDkw := rd p 24 2, antenna := rd p 26 1
    bus := rd p 27 1, nodes := (List.range (min 8 (rd p 28 1))).map (fun i => rd p (29 + i) 1), converterDkw := rd p 38 2
    authTimeoutS := rd p 40 2, rcmTurns := rd p 42 2, stopMargin := rd p 44 4, insScale := rd p 48 2 }

/-- A field that one kind ranges and the other holds at 0. -/
def sized (off v : Nat) (applies : Bool) (lo hi : Nat) : List Check :=
  [inRange off (!applies || (decide (lo ≤ v) && decide (v ≤ hi))), field off (applies || v == 0)]

/-- No node of a list occurs twice. -/
def distinct : List Nat → Bool
  | [] => true
  | n :: ns => !ns.contains n && distinct ns

/-- Protocol bits that suit the kind and each other (R465). -/
def protocolsOk (dc : Bool) (pr : Nat) : Bool :=
  decide (pr < 64) && !(pr.testBit 0 && dc) && !(pr.testBit 1 && !dc) && !(pr.testBit 5 && (!dc || !pr.testBit 3)) &&
    !(pr.testBit 4 && !pr.testBit 2)

/-- Checks that no kind exempts from: the reserved fields and the fields whose ranges do not name a kind (R4, R620 of 00; log 50). -/
def unusedChecks (p : Bytes) : List Check :=
  let ant := rd p 26 1
  [inRange 4 (rd p 4 1 ≤ 2), field 5 (rd p 5 1 < 64), inRange 6 (rd p 6 1 ≤ 1), inRange 7 (rd p 7 1 ≤ 7)] ++
    sized 12 (rd p 12 2) (rd p 4 1 == 1) 6 80 ++
    [inRange 16 (1 ≤ rd p 16 2 && rd p 16 2 ≤ 1000), inRange 18 (1 ≤ rd p 18 2 && rd p 18 2 ≤ 1000),
      inRange 20 (1000 ≤ rd p 20 2 && rd p 20 2 ≤ 1300), inRange 22 (800 ≤ rd p 22 2 && rd p 22 2 ≤ 1000),
      inRange 26 (ant ≤ 15 || ant = 0xFF), resv p 37 1, inRange 40 (10 ≤ rd p 40 2 && rd p 40 2 ≤ 600),
      inRange 42 (500 ≤ rd p 42 2 && rd p 42 2 ≤ 2000), resv p 50 6]

/-- Checks of a configuration of kind AC or DC (R465). -/
def pointChecks (k : Nat) (p : Bytes) (s : State) : List Check :=
  let dc := rd p 2 1 == 2
  let pr := rd p 5 1
  let ant := rd p 26 1
  let n := rd p 28 1
  let nodes := (List.range 8).map (fun i => rd p (29 + i) 1)
  let used := nodes.take n
  let others := busNodes s (rd p 27 1) k
  let rating := if dc then rd p 10 2 else rd p 8 2 * 230 * rd p 3 1 / 100
  [inRange 3 (dc || rd p 3 1 == 1 || rd p 3 1 == 3), field 3 (!dc || rd p 3 1 == 0), inRange 4 (rd p 4 1 ≤ 2), field 5 (protocolsOk dc pr),
    inRange 6 (rd p 6 1 ≤ 1), inRange 7 (rd p 7 1 ≤ 7)] ++ sized 8 (rd p 8 2) (!dc) 6 80 ++ sized 10 (rd p 10 2) dc 10 5000 ++
    sized 12 (rd p 12 2) (rd p 4 1 == 1) 6 80 ++
    [inRange 14 (rd p 14 2 ≤ rating), inRange 16 (1 ≤ rd p 16 2 && rd p 16 2 ≤ 1000), inRange 18 (1 ≤ rd p 18 2 && rd p 18 2 ≤ 1000),
      inRange 20 (1000 ≤ rd p 20 2 && rd p 20 2 ≤ 1300), inRange 22 (800 ≤ rd p 22 2 && rd p 22 2 ≤ 1000)] ++
    sized 24 (rd p 24 2) (pr.testBit 5) 0 (rd p 10 2) ++
    [inRange 26 (ant ≤ 15 || ant = 0xFF), field 26 (ant == 0xFF || (List.range 16).all (fun j => j == k || (match nextPoint s j with
        | some c => c.antenna != ant
        | none => true)))] ++
    sized 27 (rd p 27 1) dc 0 3 ++ sized 28 n dc 1 8 ++
    [field 28 (!dc || decide (others.length + n ≤ busCapacity (nextBus s (rd p 27 1)))),
      inRange 29 (used.all (fun x => 1 ≤ x && x ≤ 31)), field 29 ((nodes.drop n).all (· == 0)),
      field 29 (distinct used && used.all (fun x => !others.contains x)), resv p 37 1, field 38 (dc || rd p 38 2 == 0),
      inRange 40 (10 ≤ rd p 40 2 && rd p 40 2 ≤ 600), inRange 42 (500 ≤ rd p 42 2 && rd p 42 2 ≤ 2000)] ++
    sized 48 (rd p 48 2) dc 1 1000 ++ [resv p 50 6]

/-- Only fields that may change during a session differ (R465). -/
def sessionChangeOk (old : PointConfig) (new : Option PointConfig) : Bool :=
  match new with
  | none => false
  | some n =>
    { n with priority := old.priority, minDkw := old.minDkw, rampUpDkw := old.rampUpDkw, rampDownDkw := old.rampDownDkw
             antenna := old.antenna, authTimeoutS := old.authTimeoutS, stopMargin := old.stopMargin } == old

/-- CHG_POINT_SET (R465): action 1 clears a lock-out at once (log 31). -/
def cmdChgPointSet : Cmd := {
  opcode := 0x0A01, role := fun _ => .operator, size := 56, updating := glfUpdating, dryrun := true, standby := true
  body := fun c s =>
    let k := rd c.p 0 1
    let action := rd c.p 1 1
    checked ([inRange 0 (k ≤ 15), inRange 1 (action ≤ 1)] ++
        (if action = 1 then [field 5 (rd c.p 5 1 < 64), resv c.p 37 1, resv c.p 50 6]
         else [inRange 2 (rd c.p 2 1 ≤ 2)] ++ (if rd c.p 2 1 = 0 then unusedChecks c.p else pointChecks k c.p s))) s
      (let x := pointAt s k
       if action = 1 then
         if !x.locked || feedbackOf s k == some .closed then fail stNotReady 0 s
         else okWith (le 8 (now s)) (reviewPoint k (syncCharge (setPoint k (fun x => { x with
           locked := false, welded := false, rcmTrips := [] }) s)))
       else
         let cfg := readPoint c.p
         let held := match x.config with
           | some old => x.phase.live && !sessionChangeOk old cfg
           | none => false
         if held then fail stNotReady 0 s
         else
           let g : GenTable := .chgPoint k cfg
           if armBusy g s then fail stBusy 1 s
           else
             let tick := earliest g s
             okWith (le 8 tick) (armGen { table := g, opcode := 0x0A01, tick := tick } s)) }

/-- A point's configuration activates (R14, R465). -/
def applyChgPoint (k : Nat) (cfg : Option PointConfig) (s : State) : State :=
  evalOutputs (reviewPoint k (setPoint k (fun x => { x with config := cfg }) s))

/-! ## CHG_PATH_SET, CHG_BUS_SET (R466, R467) -/

/-- Members of a path as it is or will be. -/
def nextMembers (s : State) (p : Nat) : Nat :=
  match ((pendingGen s (11, p)).map (fun g => g.table) : Option GenTable) with
  | some (.chgPath _ c) => (c.map (·.members)).getD 0
  | _ => ((Tab.get s.chg.paths p).map (·.members)).getD 0

/-- CHG_PATH_SET (R466). A removal is judged by the same ranges, which exempt it nowhere (R620 of 00; log 50). -/
def cmdChgPathSet : Cmd := {
  opcode := 0x0A02, role := fun _ => .operator, size := 16, updating := glfUpdating, dryrun := true, standby := true
  body := fun c s =>
    let p := rd c.p 0 1
    let head := rd c.p 1 1
    let members := rd c.p 2 2
    let others := ((List.range 16).filter (· != p)).map (nextMembers s)
    let isLocal := match calSet s.met.calib head with
      | some e => e.location == 0
      | none => false
    checked ([inRange 0 (p ≤ 15), inRange 1 (head ≤ 15 || head = 0xFF)] ++
        (if head = 0xFF then [] else
          [field 1 isLocal, field 2 ((List.range 16).all (fun k => !members.testBit k || others.all (fun o => !o.testBit k)))]) ++
        [inRange 4 (1 ≤ rd c.p 4 4 && rd c.p 4 4 ≤ 100000), inRange 8 (rd c.p 8 4 < rd c.p 4 4), field 12 (decide (rd c.p 12 1 < 2)),
          resv c.p 13 3]) s
      (let cfg : Option PathConfig := if head = 0xFF then none else some {
         headSet := head, members := members, limitKva := rd c.p 4 4, reserveKva := rd c.p 8 4, exportOk := (rd c.p 12 1).testBit 0 }
       let g : GenTable := .chgPath p cfg
       if armBusy g s then fail stBusy 1 s
       else
         let tick := earliest g s
         okWith (le 8 tick) (armGen { table := g, opcode := 0x0A02, tick := tick } s)) }

/-- A path activates (R14, R466). -/
def applyChgPath (p : Nat) (cfg : Option PathConfig) (s : State) : State :=
  setChg (fun c => { c with paths := match cfg with
    | some x => Tab.put c.paths p x
    | none => Tab.del c.paths p }) s

/-- CHG_BUS_SET (R467). -/
def cmdChgBusSet : Cmd := {
  opcode := 0x0A03, role := fun _ => .operator, size := 8, updating := glfUpdating, dryrun := true, standby := true
  body := fun c s =>
    let b := rd c.p 0 1
    let cfg : BusConfig := { arbRate := rd c.p 1 1, dataRate := rd c.p 2 1, arbSample := rd c.p 3 1, dataSample := rd c.p 4 1
                             termination := rd c.p 5 1 == 1 }
    checked [inRange 0 (b ≤ 3), inRange 1 (cfg.arbRate ≤ 1), field 1 (decide ((busNodes s b 16).length ≤ busCapacity cfg)),
        inRange 2 (cfg.dataRate ≤ 1), inRange 3 (cfg.arbSample ≤ 12), inRange 4 (cfg.dataSample ≤ 12), inRange 5 (rd c.p 5 1 ≤ 1), resv c.p 6 2] s
      (let busy := (List.range 16).any (fun k => (pointAt s k).session != 0 && (match (pointAt s k).config with
          | some x => x.dc && x.bus == b
          | none => false))
       if busy then fail stNotReady 0 s
       else
         let g : GenTable := .chgBus b cfg
         if armBusy g s then fail stBusy 1 s
         else
           let tick := earliest g s
           okWith (le 8 tick) (armGen { table := g, opcode := 0x0A03, tick := tick } s)) }

/-- A bus's parameters activate (R49 of 02, R467). -/
def applyChgBus (b : Nat) (cfg : BusConfig) (s : State) : State := setChg (fun c => { c with buses := modAt c.buses b (fun _ => cfg) }) s

/-! ## CHG_ID_SET (R468) -/

/-- Applies one change of CHG_ID_SET to the entries in force. -/
def applyId (p : Bytes) (c : ChargeState) : ChargeState :=
  let issuer := rd p 2 1
  let number := slice p 8 8
  let emaid := slice p 24 (rd p 20 1)
  let account := rd p 16 4
  let blocked := (rd p 3 1).testBit 0
  if rd p 0 1 = 0 then
    let rest := c.cards.filter (fun e => !(e.issuer == issuer && e.number == number))
    { c with cards := if rd p 1 1 = 2 then [] else if rd p 1 1 = 1 then rest
                      else rest ++ [{ issuer := issuer, number := number, blocked := blocked, points := rd p 4 2, account := account }] }
  else
    let rest := c.contracts.filter (fun e => e.emaid != emaid)
    { c with contracts := if rd p 1 1 = 2 then [] else if rd p 1 1 = 1 then rest
                          else rest ++ [{ emaid := emaid, blocked := blocked, points := rd p 4 2, account := account }] }

/-- The entries once the changes accepted have been applied. -/
def idAhead (s : State) : ChargeState := s.chg.idNext.foldl (fun c p => applyId p c) s.chg

/-- The changes of CHG_ID_SET take effect at the next tick (R468). -/
def idTick (s : State) : State := setChg (fun _ => { (idAhead s) with idNext := [] }) s

/-- The entry a request names exists. -/
def idExists (p : Bytes) (c : ChargeState) : Bool :=
  if rd p 0 1 = 0 then c.cards.any (fun e => e.issuer == rd p 2 1 && e.number == slice p 8 8)
  else c.contracts.any (fun e => e.emaid == slice p 24 (rd p 20 1))

/-- CHG_ID_SET (R468). Action 2 names no entry: its entry fields are not judged (log 31). -/
def cmdChgIdSet : Cmd := {
  opcode := 0x0A10, role := fun _ => .operator, size := 40, updating := glfUpdating, dryrun := true, standby := true
  body := fun c s =>
    let kind := rd c.p 0 1
    let action := rd c.p 1 1
    let n := rd c.p 20 1
    let emaid := slice c.p 24 15
    let entry : List Check :=
      if action = 2 then []
      else if kind = 0 then [inRange 2 (rd c.p 2 1 ≤ 15), field 20 (n == 0), field 24 (emaid.all (· == 0))]
      else [field 2 (rd c.p 2 1 == 0), field 8 (rd c.p 8 8 == 0), inRange 20 (1 ≤ n && n ≤ 15),
        field 24 ((emaid.take n).all (fun b => 0x20 ≤ b.toNat && b.toNat ≤ 0x7E) && (emaid.drop n).all (· == 0))]
    checked ([inRange 0 (kind ≤ 1), inRange 1 (action ≤ 2), field 3 (decide (rd c.p 3 1 < 2)), resv c.p 6 2,
        field 16 (decide (rd c.p 16 4 < 2 ^ 20)), resv c.p 21 3, resv c.p 39 1] ++ entry) s
      (let ahead := idAhead s
       let full := if kind = 0 then 65536 ≤ ahead.cards.length else 65536 ≤ ahead.contracts.length
       if action = 1 && !idExists c.p ahead then fail stNotReady 0 s
       else if action = 0 && !idExists c.p ahead && full then fail stResourceExhausted 0 s
       else okWith [] (setChg (fun x => { x with idNext := x.idNext ++ [c.p] }) s)) }

/-! ## CHG_AUTHORISE, CHG_STOP (R469, R470) -/

/-- CHG_AUTHORISE (R469). The unarmed group is reported before the UNAVAILABLE state it causes (log 31). -/
def cmdChgAuthorise : Cmd := {
  opcode := 0x0A11, role := fun _ => .operator, async := true, size := 20, updating := glfUpdating, standby := true, faulted := fun p => rd p 1 1 == 0
  body := fun c s =>
    let k := rd c.p 0 1
    let grant := rd c.p 1 1 == 0
    let seenId := rd c.p 8 4
    let seen := s.chg.seen.find? (fun x => x.id == seenId)
    let elsewhere := match seen with
      | some x => x.point != k
      | none => false
    checked [inRange 0 (k ≤ 15), inRange 1 (rd c.p 1 1 ≤ 1), resv c.p 2 2, field 4 (!grant || decide (rd c.p 4 4 < 2 ^ 20)),
        field 8 (seenId == 0 || !elsewhere)] s
      (let x := pointAt s k
       if !groupArmed s k then fail stDeniedSeal (3 + k / 4) s
       else if x.phase == .unavailable || x.phase == .ended || (seenId != 0 && seen.isNone) then fail stNotReady 0 s
       else
         let s := setChg (fun x => { x with seen := x.seen.filter (fun y => y.id != seenId) }) s
         if grant then
           .accepted [] (takeGrant k {
             account := rd c.p 4 4, ident := (seen.map (·.method)).getD 3, card := seen.bind (·.card), energyCapWh := rd c.p 12 4
             moneyCap := rd c.p 16 4, ref := some c.ref, at' := s.time.uptime } s)
         else .accepted [] (complete c.ref stOk 0 (zeros 8 ++ le 8 (now s)) (refusePoint k s))) }

/-- CHG_STOP (R470): completes when the session has closed; a held grant is dropped at once. -/
def cmdChgStop : Cmd := {
  opcode := 0x0A12, role := fun _ => .operator, async := true, size := 4, updating := glfUpdating, standby := true
  body := fun c s =>
    let k := rd c.p 0 1
    checked [inRange 0 (k ≤ 15), resv c.p 1 3] s
      (let x := pointAt s k
       if x.session ≠ 0 then .accepted [] (stopPoint k 2 (setPoint k (fun x => { x with stops := x.stops ++ [c.ref] }) s))
       else if x.grant.isSome then
         .accepted [] (complete c.ref stOk 0 (zeros 4 ++ le 1 2 ++ zeros 3) (stopPoint k 2 (dropGrant k s)))
       else fail stNotReady 0 s) }

/-! ## CHG_POINT_READ (R471) -/

/-- Signed watts of a set in the latest window. -/
def pointW (s : State) (k : Nat) : Int :=
  let w := 1000 * pointKw s k
  clamp (-(2 ^ 31)) (2 ^ 31 - 1) (exactOr w.num w.den)

/-- CHG_POINT_READ (R471). -/
def cmdChgPointRead : Cmd := {
  opcode := 0x0A20, role := fun _ => .reader, size := 4, updating := glfUpdating
  body := fun c s =>
    let k := rd c.p 0 1
    checked [inRange 0 (k ≤ 15), resv c.p 1 3] s
      (let x := pointAt s k
       match x.config with
       | none => fail stNotReady 0 s
       | some cfg =>
         let h := (sessionRec s k).getD {}
         let duty := match x.drive with
           | .pwm d => d
           | _ => 0
         okWith (le 1 x.phase.code ++ le 1 x.pilot.code ++ le 1 (pointWhy s k) ++ le 1 x.protocol ++ le 2 duty ++
           le 2 (if cfg.ppMode = 0 then cap 0xFFFF x.ppOhm else 0) ++ leS 4 (100 * x.targetDkw) ++ leS 4 (pointW s k) ++
           le 2 (cap 0xFFFF x.rcmDc) ++ le 2 (cap 0xFFFF x.rcmAc) ++ le 4 (x.risoKohm.getD 0xFFFFFFFF) ++
           le 1 (ofBits [s.chg.staleNow, 0 < x.missing, x.formers.any (fun f => s.time.uptime < f.until'), x.targetDkw < 0,
             feedbackOf s k == some .closed, x.grant.isSome]) ++
           le 1 x.ident ++ le 1 x.lastEnd ++ zeros 1 ++ le 4 x.session ++ le 4 x.account ++ le 8 h.sessionStart ++
           le 8 h.sessionImport ++ le 8 h.sessionExport ++ leS 6 h.sessionDebited ++ zeros 2) s) }

/-- CHG_STATUS (R464): points available, in session and exporting. -/
def execChgStatus (rq : Request) (s : State) : Result := .next (submit cmdChgStatus rq s)

/-- CHG_POINT_SET (R465): configures a charge point or clears its lock-out. -/
def execChgPointSet (rq : Request) (s : State) : Result := .next (submit cmdChgPointSet rq s)

/-- CHG_PATH_SET (R466): configures a supply path. -/
def execChgPathSet (rq : Request) (s : State) : Result := .next (submit cmdChgPathSet rq s)

/-- CHG_BUS_SET (R467): configures a CAN FD bus. -/
def execChgBusSet (rq : Request) (s : State) : Result := .next (submit cmdChgBusSet rq s)

/-- CHG_ID_SET (R468): changes the card and contract lists. -/
def execChgIdSet (rq : Request) (s : State) : Result := .next (submit cmdChgIdSet rq s)

/-- CHG_AUTHORISE (R469): grants or refuses a charge point. -/
def execChgAuthorise (rq : Request) (s : State) : Result := .next (submit cmdChgAuthorise rq s)

/-- CHG_STOP (R470): stops a session or drops a held grant. -/
def execChgStop (rq : Request) (s : State) : Result := .next (submit cmdChgStop rq s)

/-- CHG_POINT_READ (R471): a point's state, measurements and session. -/
def execChgPointRead (rq : Request) (s : State) : Result := .next (submit cmdChgPointRead rq s)

end Sys2Proof.Machine
end

