-- ==== Sys2Proof/Machine/Tokens.lean ====
section
/-!
DEFINITION. Tokens at arrival: the token engine's checks, LED_TOKEN_SUBMIT and the keypad. Chapter 09 of the spec (R302 to R306,
R318, R624).
-/

namespace Sys2Proof.Machine

/-- The block that a token's MAC is taken over (R302). -/
def tokenBlock (account value : Nat) : Bytes :=
  ascii "GLTK" ++ le 4 account ++ le 1 (tokenClass value) ++ le 2 (tokenSeq value) ++ le 2 (tokenAmountField value) ++ zeros 3

/-- Bits [29:0] of the CMAC under a token key (R302). -/
def tokenMac (key : Bytes) (account value : Nat) : Nat := rd (aesCmac key (tokenBlock account value)) 0 4 % 2 ^ 30

/-- Tokens wait up to the limit of R305. -/
def tokensFull (s : State) : Bool := decide (4096 ≤ s.led.tokens.countP (fun t => !t.macFail))

/-- The token engine's checks at arrival, in the order of R624, the waiting limit last and apart: 0 or the result. -/
def tokenArrival (account value : Nat) (keypad : Bool) (s : State) : Nat × State :=
  if keypad && (committedAccount s account).keypadLocked then (11, s)
  else if 2 ^ 66 ≤ value then (1, s)
  else if 4 ≤ tokenClass value then (2, s)
  else if 8 ≤ tokenAmountField value / 4096 then (3, s)
  else
    match keyFor 3 (.token account) s with
    | (none, s) => (13, s)
    | (some key, s) =>
      if value % 2 ^ 30 ≠ tokenMac key account value then (4, s)
      else if tokenClass value = 3 && tokenAmountField value ≠ 0 then (14, s)
      else (0, s)

/-- Queues a token or a keypad MAC failure for step 1 of R23 (R305, R306). -/
def queueToken (x : WaitingToken) (s : State) : State :=
  { s with led := { s.led with nextToken := s.led.nextToken + 1, tokens := s.led.tokens ++ [{ x with id := s.led.nextToken }] } }

/-- A token rejected at arrival: counted, journalled, reported (R305). -/
def rejectToken (account value result : Nat) (keypad : Bool) (s : State) : State :=
  let s := { s with led := { s.led with tokensRejected := s.led.tokensRejected + 1 } }
  let s := stage (tokenEntry account value result 0 (committedAccount s account).balance) s
  raiseEvent 0x0602 account true (le 1 result ++ le 1 (!keypad).toNat ++ le 2 (seqShown value) ++ zeros 12) s

/-- TOKEN_RESULT to the account's meter (R416 of 12). -/
def tokenResult (account value result : Nat) (balance : Int) (s : State) : State :=
  queueNow account msgTokenResult 1
    (le 1 result ++ le 1 (if value < 2 ^ 66 then tokenClass value else 0xFF) ++ le 2 (seqShown value) ++ leS 6 balance ++ zeros 2) s

/-- The value that 20 ASCII digits spell (R302). -/
def digitsValue (d : Bytes) : Nat := d.foldl (fun n b => 10 * n + (b.toNat - 0x30)) 0

/-- An ASCII digit. -/
def isDigit (b : Byte) : Bool := decide (0x30 ≤ b.toNat) && decide (b.toNat ≤ 0x39)

/-- LED_TOKEN_SUBMIT (R318). A token that fails at arrival completes at once with its result. -/
def cmdLedTokenSubmit : Cmd := {
  opcode := 0x0603, role := fun _ => .operator, async := true, size := 32, standby := true
  body := fun c s =>
    let a := rd c.p 0 4
    let digits := slice c.p 4 20
    checked [accountCheck c.p 0, field 4 (digits.all isDigit), resv c.p 24 8] s
      (let v := digitsValue digits
       match tokenArrival a v false s with
       | (0, s) =>
         if tokensFull s then fail stResourceExhausted 0 s
         else .accepted [] (queueToken { id := 0, account := a, value := v, keypad := false, ref := c.ref, checkedAt := s.time.uptime } s)
       | (r, s) =>
         let cls := if r = 1 then 0xFF else tokenClass v
         let seq := if r = 1 then 0 else tokenSeq v
         let s := rejectToken a v r false s
         .accepted [] (complete c.ref stOk 0 (tokenPayload cls seq r 0 (committedAccount s a).balance 0) s)) }

/-- LED_TOKEN_SUBMIT. -/
def execLedTokenSubmit (rq : Request) (s : State) : Result := .next (submit cmdLedTokenSubmit rq s)

/-- A keypad TOKEN (R305, R306, R416 of 12): a MAC failure also waits to be counted against the account. -/
def takeToken (m : InMsg) (body : Bytes) (s : State) : State :=
  let a := m.account
  let v := rd body 0 9
  let r := tokenArrival a v true s
  let result := if r.1 = 0 && tokensFull r.2 then 13 else r.1
  let s := r.2
  if result = 0 then
    queueToken { id := 0, account := a, value := v, keypad := true, checkedAt := s.time.uptime } s
  else
    let s := if result = 4 then
        queueToken { id := 0, account := a, value := v, keypad := true, macFail := true, checkedAt := s.time.uptime } s
      else s
    tokenResult a v result (committedAccount s a).balance (rejectToken a v result true s)

/-- SEPAL_TOKEN (R416). -/
def execSepalToken (account : Nat) (s : State) : Result :=
  .next (if sepalUp s then onMessage account 0x84 takeToken s else s)

end Sys2Proof.Machine
end

