-- ==== Sys2Proof/Machine/Commit.lean ====
section
/-!
DEFINITION. The end of a ledger tick: closure, commit, abort, backlog, scrub, the journal ring, and a damaged account's
restoration. Chapters 04 (R98 to R103), 09 (R311 to R313) and 01 (R22) of the spec.
-/

namespace Sys2Proof.Machine

/-- Changes the ledger part. -/
def setLed (f : LedgerState → LedgerState) (s : State) : State := { s with led := f s.led }

/-- Fewer than two entries of the abort list are free (R103). -/
def abortShort (s : State) : Bool := decide (2 < s.led.record.abortList.length + s.led.abortsPending.length)

/-- A condition of source 0x42 that lasts: a backlog, a short abort list, a damaged account (R100, R103, R211). -/
def ledgerCondition (s : State) : Bool := s.led.frozenAt.isSome || abortShort s || s.led.accounts.any (fun e => e.2.damaged)

/-- A backlog has cleared: the clearance is reported by the end of source 0x42, and where another of its conditions lasts by an event that
no table lists (R100; log 39). -/
def backlogCleared (s : State) : State :=
  let s := { s with led := { s.led with frozenAt := none } }
  if ledgerCondition s then unlistedEvent 7 0 s else endFault 0x42 s

/-- Ends source 0x42 when none of its conditions holds any more. -/
def settleLedgerFault (s : State) : State := if ledgerCondition s then s else endFault 0x42 s

/-- The abort list has run short with an abort: detail 3 (R103). -/
def reportShort (before : Bool) (s : State) : State := if abortShort s && !before then raiseFault 0x42 3 s else s

/-! ## The journal ring (R311) -/

/-- Bytes of the journal ring (R208 of 07). -/
def ringBytes : Nat := 2 ^ 28

/-- Length of an entry: 128 B for a power-down or overflow entry, else the multiple of 64 B that holds its data (R311). -/
def entryLen (kind : Nat) (data : Bytes) : Nat :=
  if kind = 4 || kind = 7 then 128 else 64 * ceilDiv (data.length + 20) 64

/-- Offset of the head from the first lap on. -/
def headOffset (r : FrontierRecord) : Nat := r.journalLaps * ringBytes + r.journalHead

/-- Appends an entry at an offset; the oldest entries it overwrites are gone, and with them their audit entries (R273, R311). -/
def putEntry (kind len tick : Nat) (data : Bytes) (at' : Nat) (s : State) : State :=
  let e : JournalEntry := { seq := s.led.jseq, kind := kind, len := len, tick := tick, offset := at', data := data }
  let kept := (s.led.journal ++ [e]).filter (fun x => decide (at' + len ≤ x.offset + ringBytes))
  let audits := kept.countP (fun x => x.kind == 5)
  let s := setLed (fun l => { l with journal := kept, jseq := (l.jseq + 1) % 2 ^ 32 }) s
  { s with met := { s.met with audit := s.met.audit.drop (s.met.audit.length - audits) } }

/-- Writes an entry at the head, answering the new head: a PAD entry fills the end of the ring where it would cross (R311). -/
def writeEntry (kind tick : Nat) (data : Bytes) (hs : Nat × State) : Nat × State :=
  let len := entryLen kind data
  let left := ringBytes - hs.1 % ringBytes
  let hs := if left < len then (hs.1 + left, putEntry 0 left tick [] hs.1 hs.2) else hs
  (hs.1 + len, putEntry kind len tick data hs.1 hs.2)

/-- An audit entry takes its audit_seq with its commit, which counts an opening of MS1 or MS2 too (R273). -/
def writeAudit (label kind principal role : Nat) (data : Bytes) (hs : Nat × State) : Nat × State :=
  let s := hs.2
  let e : AuditEntry := { seq := s.met.auditSeq, kind := kind, principal := principal, role := role, tick := label
                          calibId := s.met.calib.calibId, kernelSetId := s.yrw.kernelSetId, data := data }
  let s := { s with met := { s.met with
    auditSeq := (s.met.auditSeq + 1) % 2 ^ 32, audit := s.met.audit ++ [e]
    ms1Openings := s.met.ms1Openings + (kind == 1).toNat, ms2Openings := s.met.ms2Openings + (kind == 3).toNat } }
  writeEntry 5 label (le 4 e.seq ++ le 1 kind ++ le 1 principal ++ le 1 role ++ zeros 1 ++ le 8 label ++ le 4 e.calibId ++
    le 4 e.kernelSetId ++ pad 8 data) (hs.1, s)

/-- Writes what a consequence journals. -/
def journalOne (label : Nat) (c : Consequence) (hs : Nat × State) : Nat × State :=
  match c with
  | .journal kind data => writeEntry kind label data hs
  | .journalAt tick kind data => writeEntry kind tick data hs
  | .audit kind principal role data => writeAudit label kind principal role data hs
  | _ => hs

/-! ## What a commit lets out (R22, R315) -/

/-- Adds energies to an interval-history entry (R287, R294): a ring of seven days. -/
def addHistory (a interval importWh exportWh : Nat) (fromMeter : Bool) (s : State) : State :=
  let keep := 10080 / s.led.billingMin
  let add : HistoryEntry → HistoryEntry := fun h => { h with
    importWh := h.importWh + importWh, exportWh := h.exportWh + exportWh
    fromMeter := h.fromMeter || fromMeter, spread := h.spread || !fromMeter }
  setPage a (fun p => { p with
    history := Tab.upd (p.history.filter (fun e => decide (interval < e.1 + keep))) interval {} add }) s

/-- The visit's page, without what the visit used; what has arrived since stays (R287). -/
def takePage (a : Nat) (reading : Option Nat) (reports : Nat) (gasp emergency : Option Nat) (s : State) : State :=
  setPage a (fun p => { p with
    reading := if reading.isSome && p.reading.map (·.tick) == reading then none else p.reading
    reports := p.reports.drop reports
    lastGasp := gasp
    emergency := if emergency.isSome then none else p.emergency }) s

/-- A register set has taken what a power-down or a takeover left for it (R72, R557). -/
def takeFold (set : Nat) (rest : List Nat) (s : State) : State :=
  let e := s.pwr.energyRecord
  let left := if rest.isEmpty then Tab.del e.sets set else Tab.put e.sets set rest
  let s := { s with pwr := { s.pwr with
    gapFrom := Tab.del s.pwr.gapFrom set
    energyRecord := { e with sets := left, valid := e.valid && !left.isEmpty } } }
  { s with duty := { s.duty with ownBase := Tab.del s.duty.ownBase set } }

/-- Lets out one consequence of the tick just committed. -/
def release (c : Consequence) (s : State) : State :=
  match c with
  | .journal _ _ => s
  | .journalAt _ _ _ => s
  | .audit _ _ _ _ => s
  | .event kind source coalesces payload => raiseEvent kind source coalesces payload s
  | .completion ref status detail payload => complete ref status detail payload s
  | .tokenCount true => setLed (fun l => { l with tokensAccepted := l.tokensAccepted + 1 }) s
  | .tokenCount false => setLed (fun l => { l with tokensRejected := l.tokensRejected + 1 }) s
  | .keypadAnswer account value result balance => tokenResult account value result balance s
  | .removeToken id => setLed (fun l => { l with tokens := l.tokens.filter (fun x => x.id != id) }) s
  | .removeOrder ref => setLed (fun l => { l with orders := l.orders.filter (fun x => x.ref != ref) }) s
  | .removeSessionOp id => setLed (fun l => { l with sessionOps := l.sessionOps.filter (fun x => x.id != id) }) s
  | .credit account => queueCredit account s
  | .pageDone account reading reports gasp emergency => takePage account reading reports gasp emergency s
  | .history account interval importWh exportWh fromMeter => addHistory account interval importWh exportWh fromMeter s
  | .restored account =>
    settleLedgerFault (setLed (fun l => { l with accounts := l.accounts.map (fun e =>
      (e.1, if e.1 = account then { e.2 with damaged := false } else e.2)) }) s)
  | .foldTaken set rest => takeFold set rest s
  | .setGapTaken set => { s with met := { s.met with gaps := s.met.gaps.filter (fun g => g.1 != set) } }

/-! ## Commit (R99, R101, R102) -/

/-- Writes the frontier record: into the copy that commit_seq names (R101, R102). -/
def writeFrontier (r : FrontierRecord) (s : State) : State :=
  setLed (fun l => { l with
    record := r
    recordA := if r.commitSeq % 2 = 0 then r else l.recordA
    recordB := if r.commitSeq % 2 = 0 then l.recordB else r }) s

/-- The frontier record of the commit of a tick: aborted ticks enter the abort list (R101, R103). -/
def nextFrontier (label : Nat) (trust : Trust) (head : Nat) (s : State) : FrontierRecord :=
  let r := s.led.record
  { valid := true, frontier := label, commitSeq := (r.commitSeq + 1) % 2 ^ 32
    journalHead := head % ringBytes, journalLaps := head / ringBytes, trust := trust
    abortList := r.abortList ++ s.led.abortsPending.take (4 - r.abortList.length) }

/-- The oldest open tick after a commit or an abort: its shadow drains, and if it is closed it starts committing (R99). -/
def advanceOldest (s : State) : State :=
  match s.led.ticks with
  | [] =>
    if s.led.frozenAt.isSome then backlogCleared s else s
  | t :: _ =>
    let s := drainOldest s
    if t.phase = .closed then setTick t.label (fun t => { t with phase := .committing }) s else s

/-- What a commit tells the pair: a tick the peer has not acknowledged is this module's alone (R553, R561; log 35). -/
def commitPair (label : Nat) (s : State) : State :=
  let s := if s.duty.role = .duty && s.duty.contact then mirrorSend 5 label s else s
  let shared := decide (label ≤ s.duty.lastAcked) && s.duty.role == .duty
  let s := if shared then s else { s with duty := { s.duty with unshared := label } }
  match s.duty.changeDue with
  | none => s
  | some (new, old, cause) =>
    raiseEvent 0x0D01 s.host.slot false
      (le 1 new ++ le 1 old ++ le 1 cause ++ le 1 s.duty.sync.code ++ le 4 (epochNow s) ++ le 8 (frontier s))
      { s with duty := { s.duty with changeDue := none } }

/-- The flags of a set follow its committed register set (R22, R277 of 08). -/
def noteFlags (set : Nat) (r : LocalRec) (s : State) : State :=
  { s with met := { s.met with sets := modAt s.met.sets set (fun m =>
      { m with missing := r.missing, unsealed := r.unsealed, gap := m.gap || decide (0 < r.gapCount) }) } }

/-- Commits the oldest open tick: one write of the frontier record flips all its records, then its consequences come out
(R22, R101). -/
def commitOldest (s : State) : State :=
  match s.led.ticks with
  | [] => s
  | t :: _ =>
    let out := t.out.map (·.2)
    let j := out.foldl (fun hs c => journalOne t.label c hs) (headOffset s.led.record, s)
    let r := nextFrontier t.label t.trust j.1 j.2
    let s := writeFrontier r j.2
    let s := setLed (fun l => { l with
      ticks := l.ticks.drop 1, abortsPending := l.abortsPending.filter (fun x => !r.abortList.contains x) }) s
    let s := t.locals.foldl (fun s e => noteFlags e.1 e.2 s) s
    let s := out.foldl (fun s c => release c s) s
    advanceOldest (commitPair t.label (balanceCommit t.label s))

/-! ## Abort (R99, R103, R304, R312, R315) -/

/-- A token applied only in an aborted tick is unused: result 12 (R304, R624). MAC failures wait on. -/
def refuseToken (x : WaitingToken) (s : State) : State :=
  if x.macFail then s
  else
    let s := setLed (fun l => { l with tokens := l.tokens.filter (fun y => y.id != x.id) }) s
    let b := (committedAccount s x.account).balance
    let s := rejectToken x.account x.value 12 x.keypad s
    if x.keypad then tokenResult x.account x.value 12 b s
    else complete x.ref stOk 0 (tokenPayload (tokenClass x.value) (tokenSeq x.value) 12 0 b 0) s

/-- Tokens that an aborted tick had applied. -/
def tokensOf (s : State) (t : OpenTick) : List WaitingToken :=
  s.led.tokens.filter (fun x => t.out.any (fun c => c.2 == .removeToken x.id))

/-- One tick is aborted: its writes and consequences are discarded. Entries that it only carried, of events placed and of
audits, wait for the next ledger tick (R312; log 35). -/
def dropTick (powerDown : Bool) (t : OpenTick) (s : State) : State :=
  let carried := (t.out.filter (fun c => c.1 == 0)).map (·.2)
  let toks := tokensOf s t
  let s := setLed (fun l => { l with
    ticks := l.ticks.filter (fun u => u.label != t.label)
    aborted := (l.aborted + 1) % 2 ^ 32
    abortsPending := if powerDown then l.abortsPending else l.abortsPending ++ [t.label]
    journalWaiting := carried ++ l.journalWaiting }) s
  let s := dropTasks (fun x => x.label == t.label && ledgerKernel x.work.kernel) s
  let s := if s.duty.role = .duty && s.duty.contact then mirrorSend 6 t.label s else s
  toks.foldl (fun s x => refuseToken x s) s

/-- The ticks from the first one that satisfies `p` on. -/
def ticksFrom (p : OpenTick → Bool) (s : State) : List OpenTick := s.led.ticks.dropWhile (fun t => !p t)

/-- Aborts the first open tick that satisfies `p` and every younger one; run-ahead work goes with them (R99, R105). -/
def abortFrom (powerDown : Bool) (p : OpenTick → Bool) (s : State) : State :=
  let gone := ticksFrom p s
  if gone.isEmpty then s
  else
    let before := abortShort s
    let s := gone.reverse.foldl (fun s t => dropTick powerDown t s) s
    let s := settleAhead (fun _ _ _ s => s) 0 false true s
    advanceOldest (reportShort before s)

/-- A class-A fault aborts the ticks that have not closed (R99, R542 of 16). -/
def abortUnclosed (s : State) : State := abortFrom false (fun t => t.phase == .opened) s

/-- Commits the closed ticks at the front, oldest first, as many as `n` (R71 of 03, R551 of 16). -/
def commitClosed (ok : OpenTick → Bool) : Nat → State → State
  | 0, s => s
  | n + 1, s =>
    match s.led.ticks with
    | [] => s
    | t :: _ => if t.phase != .opened && ok t then commitClosed ok n (commitOldest s) else s

/-! ## Meanings -/

/-- The open tick that closes now: the oldest still OPEN whose closure set has finished (R98). -/
def closingTick (s : State) : Option OpenTick := s.led.ticks.find? (fun t => t.phase == .opened && closureDone s t.label)

/-- TICK_CLOSE (R98, R99): the tick closes; the oldest goes straight on to its frontier write. -/
def execTickClose (closeUs : Nat) (s : State) : Result :=
  match closingTick s with
  | none => .next s
  | some t =>
    let oldest := isOldest s t.label
    let s := setTick t.label (fun t => { t with
      phase := if oldest then .committing else .closed, awaitingAck := s.duty.coupled }) s
    let s := setLed (fun l => { l with
      closeMax := max l.closeMax closeUs, closeSum := l.closeSum + closeUs, closeCount := l.closeCount + 1 }) s
    .next (if s.duty.role = .duty && s.duty.contact then mirrorSend 3 t.label s else s)

/-- The ticks unclosed at their end: overruns, their work promoted to Critical (R98, R99 of 04; R171 of 06). -/
def countOverruns (s : State) : State :=
  (s.led.ticks.filter (fun t => t.phase == .opened && !t.overrun)).foldl (fun s t =>
    let s := setTick t.label (fun t => { t with overrun := true, promoted := true }) s
    let s := setLed (fun l => { l with overruns := (l.overruns + 1) % 2 ^ 32 }) s
    ungateUmbels (promoteTick t.label s)) s

/-- TICK_OVERRUN (R98, R99). -/
def execTickOverrun (s : State) : Result := .next (countOverruns s)

/-- The oldest tick may commit: its frontier write is under way and, while coupled, the peer has acknowledged it (R554). -/
def commitReady (s : State) : Bool :=
  match s.led.ticks with
  | [] => false
  | t :: _ => t.phase == .committing && !t.awaitingAck

/-- The backlog has not cleared in 64 ticks: both older ticks are aborted, one that is COMMITTING apart, and the next tick is a
ledger tick (R99, R100). -/
def backlogTimeout (s : State) : State :=
  if s.led.frozenAt.isSome then
    let s := abortFrom false (fun t => t.phase != .committing) s
    if s.led.frozenAt.isSome then backlogCleared s else s
  else s

/-- BACKLOG_TIMEOUT (R100). -/
def execBacklogTimeout (s : State) : Result := .next (backlogTimeout s)

/-- The scrub clears every stamp of a tick (R103). -/
def scrubStamps (tick : Nat) (s : State) : State :=
  setLed (fun l => { l with
    accounts := l.accounts.map (fun e => (e.1, e.2.clear tick)), locals := l.locals.map (fun e => (e.1, e.2.clear tick)) }) s

/-- ABORT_SCRUB_COMPLETE (R103). -/
def execAbortScrubComplete (tick : Nat) (s : State) : Result :=
  .next (if s.pwr.vigilOn && s.led.record.abortList.contains tick then
    settleLedgerFault (setLed (fun l => { l with record := { l.record with abortList := l.record.abortList.filter (· != tick) } })
      (scrubStamps tick s))
  else s)

/-- Reference that no host command carries, for a restoration from the standby. -/
def restoreRef (account : Nat) : Nat := 2 ^ 32 + account

/-- ACCOUNT_RESTORE_STANDBY (R211 of 07, R313): bytes 0x08 to 0xFB of the standby's live half are applied by LEDGER_ACCOUNT in
a tick, as a host's restoration is. -/
def execAccountRestoreStandby (account : Nat) (image : Bytes) (s : State) : Result :=
  .next (if accountDamaged s account && s.duty.contact && s.duty.sync == .inSync &&
      !s.led.orders.any (fun o => o.ref == restoreRef account) then
    setLed (fun l => { l with orders := l.orders ++ [{
      ref := restoreRef account, opcode := 0x0606, account := account, acceptedAt := s.time.uptime, body := image }] }) s
  else s)

end Sys2Proof.Machine
end

