-- ==== Sys2Proof/Machine/FieldRows.lean ====
section
/-!
DEFINITION. What happens at GL-F's field outputs, FIELD_24V, load switches and safety inputs, and what charging makes of it.
Chapter 14 of the spec (R472 to R489).
-/

namespace Sys2Proof.Machine

/-- An effect on the field while the FIELD domain is powered: outputs are evaluated again at once, and charge points follow their
availability (R435, R472). -/
def onField (f : State → State) (s : State) : Result :=
  .next (if s.pwr.fieldOn then reviewPoints (evalOutputs (f s)) else s)

/-- OUTPUT_EVALUATION (R472): GL-F evaluates the output table. -/
def execOutputEvaluation (s : State) : Result := onField id s

/-- DIRECT_PIN_EDGE (R478): a DIRECT channel follows its pin. -/
def execDirectPinEdge (pin : Nat) (level : Bool) (s : State) : Result :=
  onField (setFio (fun x => { x with pins := modAt x.pins pin (fun _ => level) })) s

/-! ## FIELD_24V (R46, R474) -/

/-- FIELD_24V_UNDERVOLTAGE (R474). -/
def execField24vUndervoltage (dv da : Nat) (s : State) : Result :=
  onField (fun s =>
    let s := measureField dv da s
    if s.fio.underVoltage || 160 ≤ dv then s
    else suspendInputs (raiseFault 0xB0 1 (fieldSupplyEvent 1 (setFio (fun x => { x with underVoltage := true, resumeAt := none }) s)))) s

/-- FIELD_24V_OVERVOLTAGE (R474). -/
def execField24vOvervoltage (dv da : Nat) (s : State) : Result :=
  onField (fun s =>
    let s := measureField dv da s
    if s.fio.overVoltage || dv ≤ 340 then s
    else suspendInputs (raiseFault 0xB1 1 (fieldSupplyEvent 2 (setFio (fun x => { x with overVoltage := true, resumeAt := none }) s)))) s

/-- FIELD_24V_RESTORED (R474): test pulses resume at once, the input checks 100 ms later. -/
def execField24vRestored (dv da : Nat) (s : State) : Result :=
  onField (fun s =>
    let s := measureField dv da s
    let bad := supplyBad s
    let s := setFio (fun x => { x with underVoltage := x.underVoltage && decide (dv < 180)
                                       overVoltage := x.overVoltage && decide (320 < dv) }) s
    if bad && !supplyBad s then
      syncField (fieldSupplyEvent 3 (setFio (fun x => { x with resumeAt := some (s.time.uptime + 100) }) s))
    else syncField s) s

/-- FIELD_24V_TOTAL_HIGH (R46): a report; nothing is switched off. -/
def execField24vTotalHigh (dv da : Nat) (s : State) : Result :=
  onField (fun s =>
    let s := measureField dv da s
    if s.fio.totalHigh || da ≤ 400 then s
    else raiseFault 0xB0 2 (fieldSupplyEvent 4 (setFio (fun x => { x with totalHigh := true }) s))) s

/-! ## Load switches (R475 to R477, R480) -/

/-- LS_ACCUMULATOR_UPDATE (R475): every 100 µs both accumulators of every channel, its ramp and its open-load flag. -/
def execLsAccumulatorUpdate (currents : List Nat) (hot : Nat) (s : State) : Result :=
  onField (fun s =>
    let s := setFio (fun x => { x with
      switches := x.switches.zipIdx.map (fun (c, k) => lsSample s (currents.getD k 0) (hot.testBit k) c) }) s
    (List.range (lsCount s)).foldl (fun s k =>
      if lsOverloaded s (lsAt s k) then lsTrip k 1 (fun c => { c with overload := true }) s else s) s) s

/-- LS_SHORT_CIRCUIT (R476): a channel in current limit for 2 ms, not during a ramp. -/
def execLsShortCircuit (channel : Nat) (s : State) : Result :=
  onField (fun s =>
    let c := lsAt s channel
    if channel < lsCount s && c.on && !c.ramp then lsTrip channel 2 (fun c => { c with short := true }) s else s) s

/-- LS_OVER_TEMPERATURE (R476): a switch junction reaches 150 °C. -/
def execLsOverTemperature (channel : Nat) (s : State) : Result :=
  onField (fun s =>
    if channel < lsCount s && !(lsAt s channel).overTemp then
      lsTrip channel 4 (fun c => { c with overTemp := true, hot := true }) s
    else s) s

/-- LS_RAMP_TIMEOUT (R477): a ramp has not completed within twice its nominal time plus 10 ms. -/
def execLsRampTimeout (channel : Nat) (s : State) : Result :=
  onField (fun s =>
    let c := lsAt s channel
    if channel < lsCount s && c.on && c.ramp then lsTrip channel 3 (fun c => { c with turnOnFailed := true }) s else s) s

/-- LS_OPEN_LOAD (R480): a channel that is on has drawn less than 20 mA for 100 ms. -/
def execLsOpenLoad (channel : Nat) (s : State) : Result :=
  onField (fun s =>
    let c := lsAt s channel
    if channel < lsCount s && c.on && !c.openLoad && decide (c.current < 20) then
      lsTripEvent channel 5 (setLs channel (fun c => { c with openLoad := true }) s)
    else s) s

/-! ## Test pulses and safety inputs (R481 to R486) -/

/-- Source `t`'s gap begins: its checks on the channels that follow it, and on those that must not (R482). -/
def beginGap (t : Nat) (i : SafetyInput) : SafetyInput :=
  let start := fun (own : Nat) (c : InputChannel) =>
    if own = t then { c with gapBad := false } else { c with crossOff := modAt c.crossOff t (fun _ => true) }
  { i with a := start i.config.srcA i.a, b := start i.config.srcB i.b }

/-- TEST_PULSE_GAP (R481): a source goes low for 250 µs. -/
def execTestPulseGap (source : Nat) (s : State) : Result :=
  .next (if s.pwr.fieldOn && source < 4 then setFio (fun x => { x with inputs := x.inputs.map (beginGap source) }) s else s)

/-- TEST_PULSE_OVERLOAD (R481): a source above 100 mA for 1 ms is switched off. -/
def execTestPulseOverload (source : Nat) (s : State) : Result :=
  onField (fun s =>
    if (s.fio.sources.getD source {}).running then
      raiseFault 0xB1 4 (setFio (fun x => { x with sources := modAt x.sources source (fun t => { t with overloaded := true }) }) s)
    else s) s

/-- TEST_PULSE_RETRY (R481): 1 s later the source is tried again. -/
def execTestPulseRetry (source : Nat) (s : State) : Result :=
  onField (fun s =>
    if (s.fio.sources.getD source {}).overloaded then
      syncField (setFio (fun x => { x with sources := modAt x.sources source (fun t => { t with overloaded := false }) }) s)
    else s) s

/-- SAFETY_INPUT_SAMPLE (R482 to R484): both channels of every input, sampled at 50 µs × `sub` of the tick. -/
def execSafetyInputSample (sub a b : Nat) (s : State) : Result :=
  onField (fun s => (List.range 16).foldl (fun s j => sampleOne sub a b j s) s) s

/-- SAFETY_INPUT_RELEASE (R483, R486): release_ms after both channels clear. -/
def execSafetyInputRelease (input : Nat) (s : State) : Result := onField (releaseInput input) s

/-- SAFETY_INPUT_DISCREPANCY (R483): the channels have disagreed for longer than discrepancy_ms. -/
def execSafetyInputDiscrepancy (input : Nat) (s : State) : Result := onField (discrepancyInput input) s

/-! ## Safety outputs (R488, R489) -/

/-- An output fault latches: class-B fault and SAFETY_OUTPUT (R489). -/
def outputFault (k cause : Nat) (s : State) : State :=
  raiseFault 0xB1 3 (raiseEvent 0x0B02 k false (le 1 cause ++ zeros 15) (setOutput k (fun o => { o with fault := true }) s))

/-- SO_OFF_PULSE (R488, R489): one switch of an output that is on is turned off for a moment; no fall means it failed closed. -/
def execSoOffPulse (output : Nat) (fell : Bool) (s : State) : Result :=
  onField (fun s =>
    let o := outputAt s output
    if output < 16 && o.on then
      let s := setOutput output (fun o => { o with nextB := !o.nextB }) s
      if fell then s else outputFault output (if o.nextB then 2 else 1) s
    else s) s

/-- SO_FAILED_OPEN (R489): failed open or overloaded while on. -/
def execSoFailedOpen (output : Nat) (s : State) : Result :=
  onField (fun s => if output < 16 && (outputAt s output).on then outputFault output 3 s else s) s

/-- SO_EXTERNALLY_FED (R489): above 5 V for 10 ms while off; a module without the baton does not check (R488). -/
def execSoExternallyFed (output : Nat) (s : State) : Result :=
  onField (fun s =>
    let o := outputAt s output
    if output < 16 && !o.on && !o.fed && drivesField s then
      raiseFault 0xB1 3 (raiseEvent 0x0B02 output false (le 1 4 ++ zeros 15) (setOutput output (fun o => { o with fed := true }) s))
    else s) s

/-- SO_FEED_CLEARED (R489): below 2 V for 1 s. -/
def execSoFeedCleared (output : Nat) (s : State) : Result :=
  onField (fun s =>
    if output < 16 && (outputAt s output).fed then
      syncField (raiseEvent 0x0B02 output false (le 1 5 ++ zeros 15) (setOutput output (fun o => { o with fed := false }) s))
    else s) s

end Sys2Proof.Machine
end

