-- ==== Sys2Proof/Machine/Baton.lean ====
section
/-!
DEFINITION. The baton and the roles of a pair, the class-A safe state. Chapter 16 of the spec (R542 to R544, R548 to R552, R555,
R556, R558).
-/

namespace Sys2Proof.Machine

/-- Changes the pair part. -/
def setDuty (f : DutyState → DutyState) (s : State) : State := { s with duty := f s.duty }

/-- A 32-bit epoch is later than another by serial arithmetic (R369 of 11, R558). -/
def laterEpoch (a b : Nat) : Bool := a % 2 ^ 32 != b % 2 ^ 32 && decide ((a + 2 ^ 32 - b % 2 ^ 32) % 2 ^ 32 < 2 ^ 31)

/-- The later of two epochs. -/
def maxEpoch (a b : Nat) : Nat := if laterEpoch a b then a else b

/-- The module sits in an odd slot (R549). -/
def oddSlot (s : State) : Bool := s.host.slot % 2 == 1

/-! ## Events and roles (R552, R562) -/

/-- DUTY_CHANGE (R562). Causes: 1 claim, 2 yield, 3 yielding fault, 4 Vigil, 5 superseded, 6 takeover command, 7 SS7; 0 for a
change with no listed cause (log 36). -/
def dutyEvent (old : PairRole) (cause : Nat) (s : State) : State :=
  raiseEvent 0x0D01 s.host.slot false
    (le 1 s.duty.role.code ++ le 1 old.code ++ le 1 cause ++ le 1 s.duty.sync.code ++ le 4 (epochNow s) ++ le 8 (frontier s)) s

/-- The role changes (R552). -/
def toRole (new : PairRole) (cause : Nat) (s : State) : State :=
  if s.duty.role = new then s else traceMode (dutyEvent s.duty.role cause (setDuty (fun d => { d with role := new }) s))

/-- MIRROR_STATE and the new synchronisation state (R555, R562). Causes: 1 decoupled, 2 silence, 3 store error, 4 resync done,
5 split; 0 for another cause (log 36). -/
def setSync (new : SyncPhase) (cause : Nat) (s : State) : State :=
  let old := s.duty.sync
  if old = new then s
  else raiseEvent 0x0D02 s.host.slot true
    (le 1 new.code ++ le 1 old.code ++ le 1 cause ++ zeros 5 ++ le 8 s.duty.lastAcked) (setDuty (fun d => { d with sync := new }) s)

/-- A standby leaves IN_SYNC (R555). -/
def loseSync (cause : Nat) (s : State) : State :=
  if s.duty.role = .standby && s.duty.sync = .inSync then setSync .outOfSync cause s else s

/-- FRONTIER_WRITE_FAILED: after 2 retries the tick is aborted (R99 of 04); a standby that cannot write its own ledger store leaves
IN_SYNC (R555). -/
def execFrontierWriteFailed (s : State) : Result :=
  .next (if commitReady s then settleLedgerFault (abortFrom false (fun _ => true) (raiseFault 0x42 2 s)) else loseSync 3 s)

/-- What follows from the field drivers being enabled or disabled (R548, R549). -/
def driversChanged (s : State) : State := reviewPoints (evalOutputs s)

/-! ## Release (R551) -/

/-- A module that is no longer duty has no bridge ONLINE: admitted bridges are WAITING (R371 of 11). -/
def stemRelease (s : State) : State :=
  (admitted s).foldl (fun s b =>
    let p := (bridgeAt s b).phase
    if p = .absent || p = .fenced || p = .waiting then s else bridgeTo b .waiting 5 (revoke b s)) s

/-- The ledger at a release: closed ticks the standby has acknowledged are committed, every other open tick is aborted
(R551). -/
def releaseLedger (s : State) : State :=
  abortFrom false (fun _ => true) (commitClosed (fun t => decide (t.label ≤ s.duty.lastAcked)) 2 s)

/-- The holder releases the baton: outputs off and drivers at high impedance, then the own line rises; last_role is none
(R551, R552). Before the power-down disposes of the ticks (R71 of 03), a duty module coupled to a standby goes by R551, and an uncoupled one
leaves them to R71, which commits what has closed (DESIGN CHOICE; log 51). -/
def releaseBaton (cause : Nat) (s : State) : State :=
  if !s.duty.ownLow then s
  else
    let wasDuty := s.duty.role == .duty
    let s := driversChanged (setDuty (fun d => { d with holding := false }) s)
    let s := if wasDuty && !(s.pwr.mode == .powerDown && !s.duty.coupled) then releaseLedger s else s
    let s := setDuty (fun d => { d with ownLow := false, claiming := false, forced := false, lastRoleDuty := false
                                        eligible := false, coupled := false, takeoverDue := false, changeDue := none }) s
    let s := endFault 0x05 s
    if wasDuty then
      let next := if s.duty.singleNext then PairRole.single else .undecided
      let s := stemRelease (setSync .none 0 s)
      reviewPoints (toRole next cause (setDuty (fun d => { d with singleNext := false }) s))
    else s

/-! ## Epochs (R558) -/

/-- An epoch is learned: the highest is kept; a duty module that learns a higher one is superseded (R552, R558). -/
def learnEpoch (e : Nat) (s : State) : State :=
  if s.duty.role = .single then s
  else
    let s := setDuty (fun d => { d with epochHighest := maxEpoch e d.epochHighest }) s
    if s.duty.role = .duty && laterEpoch e s.duty.epoch then releaseBaton 5 (reportFault 0xD2 1 s) else s

/-- A higher epoch learned from a bridge's STALE supersedes the duty module (R552, R558). -/
def settleEpoch (s : State) : State := learnEpoch s.duty.epochHighest s

/-- The epoch of a new claim: one more than the highest stored or learned, at least 1 (R558). -/
def claimEpoch (s : State) : Nat :=
  max 1 ((maxEpoch (maxEpoch s.duty.epochHighest s.duty.epoch) s.duty.linkEpoch + 1) % 2 ^ 32)

/-! ## Claims (R550) -/

/-- The mode allows a claim: Full or Lean, or Vigil on a single module (R550). -/
def claimMode (s : State) : Bool :=
  s.pwr.mode == .full || s.pwr.mode == .lean || (s.pwr.mode == .vigil && s.duty.role == .single)

/-- The role makes the module eligible (R550, R552). -/
def eligible (s : State) : Bool :=
  match s.duty.role with
  | .single => true
  | .duty => false
  | _ => s.duty.eligible || s.duty.forced

/-- Every condition of a claim holds (R549, R550). -/
def mayClaim (s : State) : Bool :=
  !s.duty.ownLow && !s.duty.peerLow && claimMode s && !classAHeld s && eligible s && s.pwr.vigilOn && s.pwr.fieldOn

/-- The own line is driven low; the confirmation follows 20 µs later (R550). -/
def claimBaton (s : State) : State := setDuty (fun d => { d with ownLow := true, claiming := true }) s

/-! ## The safe state (R542 to R544) -/

/-- The safe state is applied: open ticks abort, outputs off, charge points unavailable, transmitters muted, CANCEL to remote
bridges (R376 of 11, R542, R543). A standby leaves IN_SYNC (R555). -/
def enterSafe (s : State) : State :=
  let s := loseSync 0 s
  if s.flt.safe then s
  else
    let s := { s with flt := { s.flt with safe := true, safeSince := now s } }
    stemCancelAll (reviewPoints (evalOutputs (abortUnclosed s)))

/-- The safe state is released once every class-A record is IDLE (R540, R543). -/
def settleSafe (s : State) : State :=
  if s.flt.safe && !classAHeld s then
    reviewPoints (evalOutputs { s with flt := { s.flt with safe := false, safeSince := 0 } })
  else s

/-- A class-A source is raised: its record, the safe state, and the baton where it yields (R538, R542, R544). -/
def raiseAWith (src detail : Nat) (injected : Bool) (s : State) : State :=
  let s := enterSafe (raiseWith src detail injected s)
  if sourceYields src then releaseBaton 3 s else s

/-- A class-A source that was not injected. -/
def raiseA (src detail : Nat) (s : State) : State := raiseAWith src detail false s

/-! ## Meanings -/

/-- STEM_STALE_RX (R373 of 11, R558). -/
def execStemStaleRx (frame : Bytes) (s : State) : Result := .next (settleEpoch (stemReceive 6 frame s))

/-- SAFE_LINE_TIMEOUT (R542): GL-F raises source 0x02. -/
def execSafeLineTimeout (s : State) : Result := .next (if s.pwr.fieldOn then raiseA 0x02 1 s else s)

/-- SAFETY_COMPARATOR_MISMATCH (R542): GL-F raises source 0x04; one that an injection makes is marked (R546). -/
def execSafetyComparatorMismatch (s : State) : Result :=
  .next (if s.pwr.fieldOn then
    match takeInjection 7 (fun _ => true) s with
    | (i, s) => endFault 0x04 (raiseAWith 0x04 1 i.isSome s)
  else s)

/-- FAULT_N_PULSE_END (R541). -/
def execFaultNPulseEnd (s : State) : Result := .next { s with flt := { s.flt with faultnPulse := false } }

/-- BATON_OWN_LINE_STUCK (R549): holding ends, for the own line does not read low. -/
def execBatonOwnLineStuck (s : State) : Result :=
  .next (if s.duty.ownLow then raiseA 0x05 1 (driversChanged (setDuty (fun d => { d with holding := false }) s)) else s)

/-- BATON_CLAIM (R550). -/
def execBatonClaim (s : State) : Result := .next (if mayClaim s then claimBaton s else s)

/-- The peer line rises (R550, R552): eligibility is fixed at this instant; a holder kept from holding by contention holds. -/
def peerReleases (s : State) : State :=
  let s := setDuty (fun d => { d with peerLow := false, eligible := if d.role = .standby then d.sync == .inSync else d.eligible }) s
  let s := if s.duty.role = .single then endFault 0xD0 s else s
  if s.duty.ownLow && !s.duty.claiming then driversChanged (setDuty (fun d => { d with holding := true }) s) else s

/-- The peer line falls (R549, R550, R552): holding ends; of two drivers the odd slot gives way; an undecided module becomes
standby, and a single one reports its peer. -/
def peerClaims (s : State) : State :=
  let s := setDuty (fun d => { d with peerLow := true }) s
  let s := if s.duty.ownLow && !s.duty.claiming then
      if oddSlot s then releaseBaton 0 s else driversChanged (setDuty (fun d => { d with holding := false }) s)
    else s
  if s.duty.ownLow then s
  else
    match s.duty.role with
    | .single => raiseFault 0xD0 1 s
    | .undecided => toRole .standby 0 s
    | _ => s

/-- BATON_PEER_LINE (R549, R550, R552). -/
def execBatonPeerLine (low : Bool) (s : State) : Result :=
  .next (if !s.pwr.vigilOn || low = s.duty.peerLow then setDuty (fun d => { d with peerLow := low }) s
    else if low then peerClaims s else peerReleases s)

/-- SS7 opens on a pair module (R551, R552): an undecided one is SINGLE and reports it, a standby is SINGLE, the duty is
decoupled and becomes SINGLE at its next release. Source 0xE3 ends, for no pair is configured any more (R582 of 17). -/
def seal7Opened (s : State) : State :=
  let s := endFault 0xE3 s
  match s.duty.role with
  | .single => s
  | .duty =>
    let s := setDuty (fun d => { d with singleNext := true, coupled := false, alone := true, decouples := d.decouples + 1 }) s
    let s := { s with led := { s.led with ticks := s.led.ticks.map (fun t => { t with awaitingAck := false }) } }
    raiseFault 0xD1 1 (setSync .none 0 s)
  | _ => reviewPoints (toRole .single 7 (setSync .none 0 (setDuty (fun d => { d with contact := false }) s)))

end Sys2Proof.Machine
end

