-- ==== Sys2Proof/Machine/ChgRows.lean ====
section
/-!
DEFINITION. What reaches a charge point from the vehicle, its cards, its converters and its protection. Chapter 13 of the spec
(R436 to R462).
-/

namespace Sys2Proof.Machine

/-- An effect at a configured charge point, while the FIELD domain is powered. -/
def atPoint (k : Nat) (f : State → State) (s : State) : Result :=
  .next (if k < 16 && s.pwr.fieldOn && pointConfigured s k then f s else s)

/-- PILOT_CHANGE (R436, R439, R445): GL-F recognises a new pilot state. -/
def execPilotChange (point pilot : Nat) (s : State) : Result := atPoint point (pilotChange point (pilotOf pilot)) s

/-- Rating of a coded cable by its resistance (*Cable coding*, R438). -/
def cableBand (ohm : Nat) : Option Nat :=
  if 1100 ≤ ohm && ohm ≤ 2460 then some 13
  else if 400 ≤ ohm && ohm ≤ 936 then some 20
  else if 164 ≤ ohm && ohm ≤ 308 then some 32
  else if 50 ≤ ohm && ohm ≤ 140 then some 63
  else none

/-- PP_CHANGE (R438): a change of band while the contactor is closed is a protective trip. A cable recognised lets a waiting plug-in go on. -/
def execPpChange (point ohm : Nat) (s : State) : Result :=
  atPoint point (fun s =>
    let x := pointAt s point
    if x.cfg.ppMode ≠ 0 then s
    else
      let band := cableBand ohm
      let s := setPoint point (fun x => { x with ppOhm := ohm, ppBand := band }) s
      if band ≠ x.ppBand && (x.contactor || feedbackOf s point == some .closed) then trip point 9 0 s
      else if x.phase == .idle && x.ppBand.isNone && band.isSome && (x.pilot == .b || x.pilot == .c) then pilotConnected point .b s
      else s) s

/-- CHG_LINK_ESTABLISHED (R440, R443 to R445): matching and protocol set-up are complete, over TLS or not, as the vehicle asked. -/
def execChgLinkEstablished (point : Nat) (offered : List Nat) (tls : Bool) (s : State) : Result :=
  atPoint point (linkUp point offered tls) s

/-- CHG_LINK_LOST (R440, R445): the vehicle link is lost, or a protocol times out. -/
def execChgLinkLost (point : Nat) (s : State) : Result := atPoint point (linkDown point) s

/-- LINK_RETRY_END (R440): state F after a failed LINK ends and matching begins again. -/
def execLinkRetryEnd (point : Nat) (s : State) : Result :=
  atPoint point (fun s => let x := pointAt s point
                          if x.phase == .link && x.linkRetry then startLink point s else s) s

/-- V2G_MESSAGE_RX (R443, R446, R451): a message of the vehicle protocol. -/
def execV2gMessageRx (point : Nat) (message : V2gMessage) (s : State) : Result := atPoint point (vehicleMessage point message) s

/-- AUTH_TIMEOUT (R445, R448): auth_timeout_s has passed: identifications not decided are refused, a held grant expires, and AUTH
ends without one. -/
def execAuthTimeout (point : Nat) (s : State) : Result :=
  atPoint point (fun s => refusePoint point (setChg (fun c => { c with seen := c.seen.filter (fun x => x.point != point) }) s)) s

/-- PREPARATION_COMPLETE (R446): contactor feedback shows closed. -/
def execPreparationComplete (point : Nat) (s : State) : Result := atPoint point (preparationDone point) s

/-- STOPPING_COMPLETE (R446): contactor feedback shows open, and the session closes. -/
def execStoppingComplete (point : Nat) (s : State) : Result := atPoint point (stoppingDone point) s

/-- STOPPING_OPEN_TIMEOUT (R446): 2 s after stopping began the contactor is opened. -/
def execStoppingOpenTimeout (point : Nat) (s : State) : Result :=
  atPoint point (fun s => if (pointAt s point).phase == .stopping then contactorOff point s else s) s

/-- PAUSE_CONTACTOR_TIMEOUT (R445): 6 s into an AC pause the contactor is opened. -/
def execPauseContactorTimeout (point : Nat) (s : State) : Result :=
  atPoint point (fun s => let x := pointAt s point
                          if x.phase == .paused && x.isAc then contactorOff point s else s) s

/-- PAUSE_LIMIT (R445): a point PAUSED for 600 s is stopped with reason 13. -/
def execPauseLimit (point : Nat) (s : State) : Result :=
  atPoint point (fun s => if (pointAt s point).phase == .paused then stopPoint point 13 s else s) s

/-! ## Cards (R449, R450) -/

/-- The contactless transmitters work: FIELD is powered, the antenna outputs are driven, and they are not muted (R542, R548 of 16). -/
def cardsPolled (s : State) : Bool := s.pwr.fieldOn && drivesField s && !s.flt.safe

/-- CARD_POLL_DWELL (R449): the front-end polls its next antenna. -/
def execCardPollDwell (reader : Nat) (s : State) : Result := .next (if cardsPolled s then cardDwell reader s else s)

/-- CARD_DETECTED (R449): a card has been activated, or several answered. -/
def execCardDetected (reader cards : Nat) (s : State) : Result := .next (if cardsPolled s then cardDetected reader cards s else s)

/-- CARD_RESPONSE (R450): a card answers in the card exchange. -/
def execCardResponse (reader : Nat) (payload : Bytes) (s : State) : Result :=
  .next (if cardsPolled s then cardResponse reader payload s else s)

/-- CARD_TIMEOUT (R450): a card has not answered within 5 ms. -/
def execCardTimeout (reader : Nat) (s : State) : Result :=
  .next (if s.pwr.fieldOn && (readerAt s reader).step != .idle then cardFailed reader s else s)

/-! ## Converters and limits (R453, R454, R458, R462) -/

/-- CONVERTER_FEEDBACK_RX (R453, R454). -/
def execConverterFeedbackRx (bus identifier : Nat) (data : Bytes) (s : State) : Result :=
  .next (if s.pwr.fieldOn then converterFeedback bus identifier data s else s)

/-- CONVERTER_LOST (R454): no valid FEEDBACK for 10 ticks. -/
def execConverterLost (bus node : Nat) (s : State) : Result := .next (if s.pwr.fieldOn then converterLost bus node s else s)

/-- STALE_LIMITS (R458). -/
def execStaleLimits (s : State) : Result := .next (staleLimits s)

/-- METERING_STALE (R462): after 1,024 ticks without a record the limit is 0, and 60 s later the session stops with reason 7. -/
def execMeteringStale (point : Nat) (s : State) : Result :=
  atPoint point (fun s =>
    let x := pointAt s point
    if x.session = 0 || x.missing < 1024 then s
    else match x.missingSince with
      | none => setPoint point (fun x => { x with missingSince := some s.time.uptime }) s
      | some t => if t + 60000 ≤ s.time.uptime then stopPoint point 7 s else s) s

/-! ## Protection (R437, R459 to R461) -/

/-- AC_OVERCURRENT (R437): a draw above 1.1 × the limit + 2 A beyond the follow time plus 5 s. -/
def execAcOvercurrent (point currentDa : Nat) (s : State) : Result :=
  atPoint point (fun s =>
    let x := pointAt s point
    let v := acWatts x.cfg
    if x.isAc && x.phase == .energy && decide (1100 * x.targetDkw + 20 * v < (currentDa * v : Nat)) then trip point 5 currentDa s
    else s) s

/-- RCM_TRIP (R459, R461): GL-F hardware removes the contactor output on residual current, never below the no-trip level. -/
def execRcmTrip (point : Nat) (ac : Bool) (value : Nat) (s : State) : Result :=
  atPoint point (fun s =>
    let s := setPoint point (fun x => if ac then { x with rcmAc := value } else { x with rcmDc := value }) s
    let floor := if ac then 150 else if sealInForce s 7 then 100 else 30
    if value < floor then s else trip point (if ac then 2 else 1) value (contactorOff point s)) s

/-- RCM_SELFTEST_RESULT (R459): the self-test before a contactor close, or at the next plug-in, ends. -/
def execRcmSelftestResult (point : Nat) (passed : Bool) (s : State) : Result := atPoint point (selfTestDone point passed) s

/-- INSULATION_VALUE (R460). -/
def execInsulationValue (point kohm : Nat) (s : State) : Result := atPoint point (insulationValue point kohm) s

/-- CONTACTOR_CLOSE_TIMEOUT (R461): a contactor commanded closed has not closed within 100 ms. -/
def execContactorCloseTimeout (point : Nat) (s : State) : Result :=
  atPoint point (fun s =>
    if (pointAt s point).contactor && feedbackOf s point != some .closed then trip point 7 0 s else s) s

/-- CONTACTOR_WELDED (R461): a contactor is still closed 100 ms after its output went off. -/
def execContactorWelded (point : Nat) (s : State) : Result :=
  atPoint point (fun s =>
    if !(outputAt s point).on && feedbackOf s point == some .closed && !(pointAt s point).welded then trip point 8 0 s else s) s

/-- TRIP_PILOT_F_END (R461): 4 s of state F end; the pilot goes to steady +12 V, and a point whose pilot shows A to IDLE. -/
def execTripPilotFEnd (point : Nat) (s : State) : Result :=
  atPoint point (fun s =>
    let x := pointAt s point
    if !x.tripHold then s
    else
      let s := setPoint point (fun x => { x with tripHold := false }) s
      if x.phase == .ended then drivePilot point .steady (if x.pilot == .a then goTo point .idle s else s) else s) s

end Sys2Proof.Machine
end

