-- ==== Sys2Proof/Machine/FltCommands.lean ====
section
/-!
DEFINITION. The FLT_ commands apart from injection, tamper sensing, and seal-bank changes. Chapters 16 (R539, R540, R547,
R563 to R568), 02 (R42), 08 (R271) and 14 (R490) of the spec.
-/

namespace Sys2Proof.Machine

/-! ## FLT_STATUS to FLT_SAFE -/

/-- FLT_STATUS (R563). -/
def cmdFltStatus : Cmd := {
  opcode := 0x0D00, role := fun _ => .reader, size := 0
  body := fun _ s =>
    let bits := (List.range 256).map (fun i => (faultRecord s i).phase != .idle)
    okWith (le 1 (cap 255 (countRecords s 0 (· != .idle))) ++ le 1 (cap 255 (countRecords s 1 (· != .idle))) ++
      le 1 (cap 255 (countRecords s 2 (· == .active))) ++
      le 1 (ofBits [s.flt.safe, faultnReadsLow s, !s.flt.injections.isEmpty]) ++ zeros 4 ++ le 8 s.flt.safeSince ++
      le 32 (ofBits bits)) s }

/-- FLT_READ (R564). -/
def cmdFltRead : Cmd := {
  opcode := 0x0D01, role := fun _ => .reader, size := 4
  body := fun c s =>
    let src := rd c.p 0 1
    checked [resv c.p 1 3] s
      (if (sourceClass src).isNone then fail stNotReady 0 s
       else okWith (faultRecordBytes src (faultRecord s src)) s) }

/-- Records that FLT_CLEAR names and that are ENDED (R540, R565). -/
def clearable (s : State) (source : Nat) : List Nat :=
  (s.flt.records.filter (fun e => e.2.phase == .ended && (source == 0xFFFF || e.1 == source))).map (·.1)

/-- FLT_CLEAR (R540, R565): at the next tick. The response tells what stands then. -/
def cmdFltClear : Cmd := {
  opcode := 0x0D02, role := fun _ => .operator, size := 4
  body := fun c s =>
    let src := rd c.p 0 2
    checked [inRange 0 (src ≤ 255 || src == 0xFFFF), resv c.p 2 2] s
      (let l := clearable s src
       let held := s.flt.records.any (fun e => sourceClass e.1 == some 0 && e.2.phase != .idle && !l.contains e.1)
       if l.isEmpty then fail stNotReady 0 s
       else okWith (le 2 l.length ++ le 1 (s.flt.safe && held).toNat ++ zeros 1)
         { s with flt := { s.flt with clearing := s.flt.clearing ++ l } }) }

/-- Returns one ENDED record to IDLE (R540). -/
def clearRecord (src : Nat) (s : State) : State :=
  let r := faultRecord s src
  if r.phase = .ended then
    let r := { r with phase := RecordPhase.idle }
    faultEvent src r { s with flt := { s.flt with records := Tab.put s.flt.records src r } }
  else s

/-- What FLT_CLEAR ordered takes effect at a tick start (R540, R565). -/
def applyClear (s : State) : State :=
  if s.flt.clearing.isEmpty then s
  else
    let s := s.flt.clearing.foldl (fun s src => clearRecord src s) s
    faultLevel (settleSafe { s with flt := { s.flt with clearing := [] } })

/-- FLT_SAFE (R566). -/
def cmdFltSafe : Cmd := {
  opcode := 0x0D03, role := fun _ => .operator, size := 4
  body := fun c s =>
    let a := rd c.p 0 1
    checked [inRange 0 (a ≤ 1), resv c.p 1 3] s
      (if a = 0 then
        okWith (le 8 (now s)) (raiseA 0x01 1 { s with flt := { s.flt with commanded := true } })
       else if (faultRecord s 0x01).phase = .idle then fail stNotReady 0 s
       else
         let s := endFault 0x01 { s with flt := { s.flt with commanded := false } }
         okWith (le 8 (now s)) (faultLevel (settleSafe (clearRecord 0x01 s)))) }

/-! ## Tamper (R547, R568) -/

/-- TAMPER (R562): cause, trust code of the time, open count, the time. -/
def tamperEvent (i cause : Nat) (trust opens time : Nat) (s : State) : State :=
  raiseEvent 0x0D03 i false (le 1 cause ++ le 1 trust ++ le 1 opens ++ zeros 5 ++ le 8 time) s

/-- The trust state that the module would start with after `elapsed` ms in Keep (R86, R87 of 04). -/
def startTrust (elapsed : Nat) (s : State) : Trust :=
  let model := (s.time.rtcModelNs.getD 1000000000) + 50 * elapsed
  if s.time.rtcCapture.isSome && s.time.rtcTrust != .untrusted && s.time.rtcHoldoverMs + elapsed < 86400000 &&
      model < 1000000000 then .holdover
  else .untrusted

/-- The module runs, so that times are those of the current tick (R547). -/
def tamperRuns (s : State) : Bool := s.pwr.vigilOn

/-- The time and the trust code of a sample taken now (R547): in Keep as the KEEP domain reckons it. -/
def tamperTime (elapsed : Nat) (s : State) : Nat × Nat :=
  if tamperRuns s then (now s, s.time.trust.code)
  else (s.time.rtcCapture.getD 0 + elapsed, (startTrust elapsed s).code)

/-- One sample of an input: open after two in a row, and latched when it opens (R547). -/
def sampleTamper (isOpen : Bool) (at' : Nat × Nat) (t : Tamper) : Tamper :=
  if !t.enabled then t
  else
    let run := if isOpen then t.run + 1 else 0
    let now' := decide (2 ≤ run)
    if now' && !t.openNow then
      { t with run := run, openNow := true, latched := true, opens := cap 255 (t.opens + 1)
               firstOpen := if t.latched then t.firstOpen else at'.1, firstTrust := if t.latched then t.firstTrust else at'.2
               lastOpen := at'.1, lastTrust := at'.2, unreported := t.unreported || !t.latched }
    else { t with run := run, openNow := now' }

/-- Reports the latches newly set: source 0x1C with their mask, and TAMPER for each (R547). -/
def reportTamper (s : State) : State :=
  let due := (s.flt.tamper.zipIdx).filter (fun e => e.1.unreported)
  if due.isEmpty then s
  else
    let s := { s with flt := { s.flt with tamper := s.flt.tamper.map (fun t => { t with unreported := false }) } }
    let mask := due.foldl (fun m e => m + 2 ^ e.2) 0
    due.foldl (fun s e => tamperEvent e.2 1 e.1.firstTrust e.1.opens e.1.firstOpen s) (raiseFault 0x1C (1 + 256 * mask) s)

/-- TAMPER_SAMPLE (R547): `rtcElapsed` is the RTC's count in ms since Keep entry. Sensing stops with the KEEP domain. -/
def execTamperSample (sample : TamperSample) (rtcElapsed : Nat) (s : State) : Result :=
  if s.pwr.keepStopped then .next s
  else
    let at' := tamperTime rtcElapsed s
    let s := { s with flt := { s.flt with
      tamper := (List.zip s.flt.tamper (sample ++ List.replicate 5 false)).map (fun e => sampleTamper e.2 at' e.1) } }
    .next (if tamperRuns s then reportTamper s else s)

/-- The 96 B response of FLT_TAMPER (R568). -/
def tamperBytes (s : State) : Bytes :=
  let t := s.flt.tamper
  le 1 (ofBits (t.map (·.latched))) ++ le 1 (ofBits (t.map (·.openNow))) ++ le 1 (ofBits (t.map (·.enabled))) ++
    le 1 s.pwr.keepLost.toNat ++ pad 5 (t.flatMap (fun x => le 1 x.opens)) ++ zeros 3 ++
    le 4 ((t.zipIdx.map (fun e => (e.1.firstTrust + 4 * e.1.lastTrust) * 16 ^ e.2)).foldl (· + ·) 0) ++
    pad 80 (t.flatMap (fun x => le 8 x.firstOpen ++ le 8 x.lastOpen))

/-- Clears the latches of a mask (R568). -/
def clearTamper (mask : Nat) (s : State) : State :=
  let s := (s.flt.tamper.zipIdx.filter (fun e => mask.testBit e.2)).foldl (fun s e =>
    tamperEvent e.2 2 s.time.trust.code e.1.opens (now s) s) s
  let s := { s with flt := { s.flt with
    tamper := s.flt.tamper.zipIdx.map (fun e => if mask.testBit e.2 then { e.1 with latched := false } else e.1) } }
  if s.flt.tamper.any (·.latched) then s else endFault 0x1C s

/-- Sets tamper_enable (R568): an input that is not sensed reads closed. -/
def enableTamper (mask : Nat) (s : State) : State :=
  let s := (s.flt.tamper.zipIdx.filter (fun e => mask.testBit e.2 != e.1.enabled)).foldl (fun s e =>
    tamperEvent e.2 3 s.time.trust.code e.1.opens (now s) s) s
  { s with flt := { s.flt with tamper := s.flt.tamper.zipIdx.map (fun e =>
      if mask.testBit e.2 then { e.1 with enabled := true } else { e.1 with enabled := false, run := 0, openNow := false }) } }

/-- FLT_TAMPER (R547, R568). -/
def cmdFltTamper : Cmd := {
  opcode := 0x0D05, role := fun p => if rd p 0 1 = 0 then .reader else .warden, size := 4
  body := fun c s =>
    let a := rd c.p 0 1
    let m := rd c.p 1 1
    checked [inRange 0 (a ≤ 2), field 1 (m < 32 && (a != 1 || m != 0) && (a != 0 || m == 0)), resv c.p 2 2] s
      (if a = 0 then okWith (tamperBytes s) s
       else if a = 1 then
         if s.flt.tamper.zipIdx.all (fun e => !m.testBit e.2 || (e.1.latched && !e.1.openNow)) then
           let s := clearTamper m s
           okWith (tamperBytes s) s
         else fail stNotReady 0 s
       else
         let s := enableTamper m s
         okWith (tamperBytes s) s) }

/-! ## Seal bank (R42, R271, R490) -/

/-- Reserved positions closed are a class-C condition (R42). One more position found closed while source 0x16 is active is the same
condition and is not counted again (R539 of 16; DEDUCED, log 48). -/
def settleReserved (found : Bool) (s : State) : State :=
  let bad : Bool := (s.seals.sensed.drop 10).any id
  if bad && found then raiseFault 0x16 1 s
  else if !bad then endFault 0x16 s
  else s

/-- A metrology seal changes while running; the ledger tick of this moment has had it open (R271 to R273). -/
def metSealChanged (p : Nat) (closed : Bool) (s : State) : State :=
  let s := sealAudit p closed false (setLed (fun l => { l with
    ticks := l.ticks.map (fun t => if t.label = now s then { t with unsealed := true } else t) }) s)
  if p = 1 && closed then sealMs1Closed s else s

/-- A safety seal opens while running: towards less protection at once where R490 says so. -/
def safSealOpened (p : Nat) (s : State) : State :=
  if p = 10 then s
  else
    let s := { s with seals := { s.seals with inForce := modAt s.seals.inForce (p - 1) (fun _ => false) } }
    driversChanged (if p = 9 then seal7Opened s else s)

/-- SEAL_CHANGE (R42, R271, R490): positions 1 and 2 are MS1 and MS2, 3 to 10 are SS1 to SS8, 11 to 16 are reserved. -/
def execSealChange (position : Nat) (closed : Bool) (s : State) : Result :=
  if position = 0 || 16 < position || sealClosed s position = closed then .next s
  else
    let s := { s with seals := { s.seals with sensed := modAt s.seals.sensed (position - 1) (fun _ => closed) } }
    if !s.pwr.vigilOn then .next s
    else if 11 ≤ position then .next (settleReserved closed s)
    else
      let s := if position ≤ 2 || s.pwr.fieldOn then reportFault 0x15 1 s else s
      if position ≤ 2 then .next (metSealChanged position closed s)
      else .next (if s.pwr.fieldOn && !closed then safSealOpened position s else s)

def execFltStatus (rq : Request) (s : State) : Result := .next (submit cmdFltStatus rq s)
def execFltRead (rq : Request) (s : State) : Result := .next (submit cmdFltRead rq s)
def execFltClear (rq : Request) (s : State) : Result := .next (submit cmdFltClear rq s)
def execFltSafe (rq : Request) (s : State) : Result := .next (submit cmdFltSafe rq s)
def execFltTamper (rq : Request) (s : State) : Result := .next (submit cmdFltTamper rq s)

end Sys2Proof.Machine
end

