-- ==== Sys2Proof/Machine/Time.lean ====
section
/-!
DEFINITION. The timebase: sources, selection, corrections, clock trust, civil time, and the TIME_ commands.
Chapter 04 of the spec (R80 to R94, R106 to R110, R625). Tick starts stand in Machine/Tick.lean.
-/

namespace Sys2Proof.Machine

/-- Changes the timebase part. -/
def setTime (f : TimeState → TimeState) (s : State) : State := { s with time := f s.time }

/-! ## Sources (R81 to R83, R625) -/

/-- The offset of a source now: true time minus timebase, in ns. -/
def srcOffset (s : State) (x : SourceState) : Int := x.offset - s.time.corr

/-- Offsets lie within 1 µs of their own mean (R81, R82). -/
def steadyRun (l : List Int) : Bool :=
  let sum := l.foldl (· + ·) 0
  l.all (fun x => decide ((x * l.length - sum).natAbs ≤ 1000 * l.length))

/-- The latest `w` offsets each lie 1 µs or more from the mean of the `w` before them (R81, R82). -/
def strayRun (w : Nat) (l : List Int) : Bool :=
  let before := (l.drop w).take w
  let sum := before.foldl (· + ·) 0
  before.length == w && (l.take w).all (fun x => decide (1000 * w ≤ (x * w - sum).natAbs))

/-- A source takes one offset (R81, R82, R625): `w` is its window, `filtered` its filtered offset after this one. -/
def feedSource (w : Nat) (x : Int) (filtered : List Int → Int) (src : SourceState) : SourceState :=
  let run := (x :: src.run).take (2 * w)
  let src := { src with run := run, offset := filtered run }
  if src.qualified then
    if strayRun w run then { src with run := [], qualified := false } else src
  else
    let ok := decide (w ≤ run.length) && steadyRun (run.take w)
    { src with qualified := ok }

/-- A source is locked: qualified, and its offset below 1 µs in magnitude (R81, R82). -/
def srcLocked (s : State) (x : SourceState) : Bool := x.qualified && decide ((srcOffset s x).natAbs < 1000)

/-- The selected source (R83): of the qualified ones the one of higher priority. With none qualified it reads as what the time rests on:
the RTC seed or the time the host has set, also after PTP or PPS was selected and lost (DESIGN CHOICE; log 52). -/
def selectedSource (s : State) : TimeSource :=
  let p := s.time.ptp.qualified
  let q := s.time.pps.qualified
  match s.time.srcPriority with
  | 0 => if p then .ptp else if q then .pps else s.time.base
  | 1 => if q then .pps else if p then .ptp else s.time.base
  | 2 => if p then .ptp else s.time.base
  | _ => if q then .pps else s.time.base

/-- The selected source's record, if PTP or PPS is selected. -/
def selectedRecord (s : State) : Option SourceState :=
  match selectedSource s with
  | .ptp => some s.time.ptp
  | .pps => some s.time.pps
  | _ => none

/-- Window of the selected source. -/
def selectedWindow (s : State) : Nat := if selectedSource s = .ptp then 16 else 4

/-- The timebase knows the second that a PPS edge marks: the clock is trusted, or the host has set it (R82). -/
def secondKnown (s : State) : Bool := s.time.trust != .untrusted || s.time.base == .host

/-- PPS is locked (R82). -/
def ppsLocked (s : State) : Bool := srcLocked s s.time.pps && secondKnown s

/-- The selected source is locked. -/
def selectedLocked (s : State) : Bool :=
  match selectedSource s with
  | .ptp => srcLocked s s.time.ptp
  | .pps => ppsLocked s
  | _ => false

/-- An offset within 1 ms of the rejected step is ignored (R87). -/
def offsetIgnored (s : State) (e : Int) : Bool :=
  match s.time.rejectedStep with
  | some r => decide ((e + s.time.corr - r).natAbs ≤ 1000000)
  | none => false

/-- The selected source's offset is ignored (R87). -/
def selectedIgnored (s : State) : Bool :=
  match selectedRecord s with
  | some x => offsetIgnored s (srcOffset s x)
  | none => false

/-! ## Trust (R86, R87) -/

/-- Milliseconds of holdover since the last loss of lock (R86). -/
def holdoverMs (s : State) : Option Nat := s.time.lostAt.map (fun a => s.time.holdoverCarryMs + (s.time.uptime - a))

/-- Modelled error in ns: 0.1 ppm of the time under VIGIL power on top of its base (R86). -/
def modelErrorNs (s : State) : Option Nat :=
  match s.time.modelBaseNs, s.time.lostAt with
  | some b, some a => some (b + (s.time.uptime - a) / 10)
  | _, _ => none

/-- Enters a trust state: TIME cause, and its journal entry (R87, R115 of 05, R311 of 09). -/
def setTrust (t : Trust) (s : State) : State :=
  if s.time.trust = t then s
  else
    let entry := le 1 2 ++ le 1 s.time.trust.code ++ le 1 t.code ++ zeros 5 ++ zeros 8
    traceTime t s.time.trust 0 (journal 3 entry (interrupt causeTime (setTime (fun x => { x with trust := t }) s)))

/-- Evaluates the trust state after a change of a source, its selection or a pending step (R86, R87). 'The error at loss of lock' is taken
as the magnitude of the offset when the source was last locked (DESIGN CHOICE; log 52). -/
def evaluateTrust (s : State) : State :=
  if s.time.pendingStep.isSome then setTrust .untrusted s
  else if selectedLocked s && !selectedIgnored s then
    let e := match selectedRecord s with
      | some x => (srcOffset s x).natAbs
      | none => 0
    setTrust .traceable (setTime (fun x => { x with lastErrNs := e }) s)
  else if s.time.trust = .traceable then
    setTrust .holdover (setTime (fun x => { x with
      lostAt := some x.uptime, holdoverCarryMs := 0, modelBaseNs := some x.lastErrNs, rejectedStep := none }) s)
  else s

/-! ## Corrections (R85) -/

/-- What the selected source's offset calls for (R85): nothing below 1 ms, an automatic step up to step_limit_ms, a pending
step beyond it. An unsteady source is not stepped: it steps once it has qualified again (R87). -/
def correctTime (s : State) : State :=
  match selectedRecord s with
  | none => s
  | some x =>
    let e := srcOffset s x
    let d := truncDiv e 1000000
    if s.time.pendingStep.isSome || s.time.stepDue.isSome || s.time.hostSet.isSome then s
    else if e.natAbs < 1000000 || offsetIgnored s e || !steadyRun (x.run.take (selectedWindow s)) then s
    else if d.natAbs ≤ s.time.stepLimitMs then setTime (fun t => { t with stepDue := some d }) s
    else
      evaluateTrust (interrupt causeTime
        (setTime (fun t => { t with pendingStep := some d, pendingReported := d }) s))

/-- Source 0x20 of chapter 16: both sources disagree (detail 1), or the UTC offsets differ (detail 2) (R83, R93). -/
def timeFault (disagree utc : Bool) (s : State) : State :=
  let was := s.time.disagree || s.time.utcDisagree
  let fresh := (disagree && !s.time.disagree) || (utc && !s.time.utcDisagree)
  let detail := if disagree && !s.time.disagree then 1 else 2
  let s := setTime (fun t => { t with disagree := disagree, utcDisagree := utc }) s
  if fresh then raiseFault 0x20 detail s
  else if was && !disagree && !utc then endFault 0x20 s
  else s

/-- Both sources are qualified and more than 1 µs apart (R83). -/
def sourcesApart (s : State) : Bool :=
  s.time.ptp.qualified && s.time.pps.qualified && decide (1000 < (s.time.ptp.offset - s.time.pps.offset).natAbs)

/-- The grandmaster's UTC offset differs from the civil table's (R93). -/
def utcDiffers (s : State) : Bool := s.time.gmUtcValid && s.time.gmUtcOffset != taiUtc s.time.civil (now s)

/-- Judges everything that follows from a change of a source: disagreement, UTC, trust and correction. -/
def afterSource (s : State) : State :=
  let s := timeFault (s.time.disagree && sourcesApart s) (utcDiffers s) s
  correctTime (evaluateTrust s)

/-- PTP loses qualification and lock (R81, R625). -/
def losePtp (s : State) : State :=
  afterSource (setTime (fun t => { t with ptp := { t.ptp with run := [], qualified := false }
                                          rejectedStep := if selectedSource s = .ptp then none else t.rejectedStep }) s)

/-- PPS loses qualification and lock (R82, R625). -/
def losePps (s : State) : State :=
  afterSource (setTime (fun t => { t with pps := { t.pps with run := [], qualified := false }
                                          rejectedStep := if selectedSource s = .pps then none else t.rejectedStep }) s)

/-- Clock classes of a traceable grandmaster (R81). -/
def goodClass (c : Nat) : Bool := c == 6 || c == 7 || c == 135

/-- Port groups on which PTP is enabled: in grouping 2 never on group 3, the mirror link (R583); without COMPUTE, as in Vigil, only
lane 0 runs (R80). -/
def ptpGroups (s : State) : Nat :=
  let groups := if s.lnk.grouping = 2 then s.time.ptpPorts % 8 else s.time.ptpPorts
  if s.pwr.computeOn then groups else groups % 2

/-- PTP is received: lane 0's timestamp unit runs with the VIGIL domain, and some port is enabled (R80, R583). -/
def ptpRuns (s : State) : Bool := s.pwr.vigilOn && ptpGroups s != 0

/-- Port 0 is up. -/
def portZeroUp (s : State) : Bool := (s.lnk.ports.getD 0 {}).phase == .up

/-- A Sync message makes `e` the filtered offset of PTP (R81, R85). -/
def takeSync (e : Int) (s : State) : State :=
  let x := e + s.time.corr
  let src := feedSource 16 x (fun _ => x) s.time.ptp
  if s.time.ptp.qualified && !src.qualified then losePtp s
  else afterSource (setTime (fun t => { t with ptp := src }) s)

/-- PTP_SYNC_RX (R81, R85): a Sync message of the selected grandmaster. The first offset after the link comes up ends the hold of a
lane-0 retrain: lock is kept if it is below 1 µs, and lost otherwise (R583). -/
def execPtpSyncRx (port : Nat) (e : Int) (s : State) : Result :=
  if !ptpRuns s || port ≠ s.time.gmPort || !goodClass s.time.gmClass then .next s
  else if s.time.ptpHold then
    if !portZeroUp s then .next s
    else
      let s := setTime (fun t => { t with ptpHold := false }) s
      if e.natAbs < 1000 then .next (takeSync e s) else .next (losePtp s)
  else .next (takeSync e s)

/-! ## The grandmaster (R80, R81, R93) -/

/-- What the alternate best master clock algorithm compares, in its order, the lower being better (R80; PRESUMED: the order of the
profile G.8275.1, log 52). -/
def announceKey (s : State) (a : Announce) : List Nat :=
  [a.clockClass, a.accuracy, a.variance, a.priority2, s.time.localPriority.getD a.port 255,
    if a.clockClass ≤ 127 then 0 else a.identity, a.steps, a.identity, a.port]

/-- The best grandmaster of those announced on the enabled port groups (R80). -/
def bestAnnounce (s : State) : Option Announce :=
  (s.time.announces.filter (fun e => (ptpGroups s).testBit e.1)).foldl (fun best e => match best with
    | some b => if keyBefore (announceKey s e.2) (announceKey s b) then some e.2 else some b
    | none => some e.2) none

/-- The end of the leap that a grandmaster announces; a leap that has begun keeps its end (R93). -/
def followLeap (a : Announce) (s : State) : Nat :=
  let t := s.time
  let same := t.gmUtcValid && t.gmUtcOffset == a.utcOffset && t.gmLeap61 == a.leap61 && t.gmLeap59 == a.leap59
  if !a.leap61 && !a.leap59 then 0
  else if same && t.gmLeapEnd ≤ now s + 1000 then t.gmLeapEnd
  else announcedLeapEnd (now s) a.utcOffset a.leap61

/-- No Announce is in force any more: the grandmaster is lost (R80, R81). -/
def noGrandmaster (s : State) : State :=
  losePtp (setTime (fun t => { t with
    gmClass := 255, gmPort := 255, gmUtcValid := false, gmLeap59 := false, gmLeap61 := false, gmLeapEnd := 0, ptpHold := false }) s)

/-- The grandmaster is selected anew; a clockClass other than 6, 7 and 135 loses qualification and lock (R80, R81). -/
def selectGrandmaster (s : State) : State :=
  match bestAnnounce s with
  | none => noGrandmaster s
  | some a =>
    let leapEnd := followLeap a s
    let s := setTime (fun t => { t with
      gmClass := a.clockClass, gmPort := a.port, gmUtcOffset := a.utcOffset, gmUtcValid := a.utcValid
      gmLeap59 := a.leap59, gmLeap61 := a.leap61, gmLeapEnd := leapEnd, ptpHold := t.ptpHold && a.port == 0 }) s
    if goodClass a.clockClass then afterSource s else losePtp s

/-- The Announce of a port group is in force no more. Where it was the selected grandmaster's, qualification and lock are lost (R81). -/
def dropAnnounce (port : Nat) (s : State) : State :=
  let t := setTime (fun t => { t with announces := Tab.del t.announces port, ptpHold := t.ptpHold && t.gmPort != port }) s
  if s.time.gmPort ≠ port then t else selectGrandmaster (losePtp t)

/-- PTP_ANNOUNCE_RX (R80, R81, R93): an Announce of the configured domain on an enabled port group. -/
def execPtpAnnounceRx (a : Announce) (s : State) : Result :=
  if !ptpRuns s || !(ptpGroups s).testBit a.port || a.domain ≠ s.time.ptpDomain then .next s
  else .next (selectGrandmaster (setTime (fun t => { t with announces := Tab.put t.announces a.port a }) s))

/-- ANNOUNCE_TIMEOUT (R80, R81): 3 intervals without Announce on a port group. A hold of a lane-0 retrain stays it (R583). -/
def execAnnounceTimeout (port : Nat) (s : State) : Result :=
  .next (if (s.time.ptpHold && port == 0) || (Tab.get s.time.announces port).isNone then s else dropAnnounce port s)

/-- PPS_EDGE (R82): `offset` is the timebase's second nearest the edge less the edge's timestamp. Edges qualify PPS whether or not the
timebase knows their second; lock asks for that. The filtered offset is the mean of the latest four, rounded towards zero (log 23). -/
def execPpsEdge (offset : Int) (s : State) : Result :=
  let e := offset + s.time.ppsDelayNs
  if !s.pwr.vigilOn then .next s
  else
    let mean := fun (l : List Int) => truncDiv ((l.take 4).foldl (· + ·) 0) ((l.take 4).length : Int)
    let src := feedSource 4 (e + s.time.corr) mean s.time.pps
    if s.time.pps.qualified && !src.qualified then .next (losePps s)
    else .next (afterSource (setTime (fun t => { t with pps := src }) s))

/-- PPS_LOSS (R82): no edge for 2 s. -/
def execPpsLoss (s : State) : Result := .next (losePps s)

/-- SOURCE_DISAGREE_TIMEOUT (R83): the sources have differed for 16 s. -/
def execSourceDisagreeTimeout (s : State) : Result :=
  .next (if sourcesApart s then timeFault true s.time.utcDisagree s else s)

/-- PENDING_STEP_RECOMPUTE (R85): the pending step follows the source's offset; a change of more than 1 ms is
reported on the event stream, by an event that no table lists, with the new value modulo 2^64 (log 39). -/
def execPendingStepRecompute (e : Int) (s : State) : Result :=
  match s.time.pendingStep with
  | none => .next s
  | some _ =>
    if (selectedRecord s).isNone then .next s
    else
      let d := truncDiv e 1000000
      let far := decide (1 < (d - s.time.pendingReported).natAbs)
      let s := setTime (fun t => { t with pendingStep := some d
                                          pendingReported := if far then d else t.pendingReported }) s
      .next (if far then unlistedEvent 6 (d % 2 ^ 64).toNat (interrupt causeTime s) else s)

/-- HOLDOVER_EXPIRY (R86, R87): holdover has reached 24 h or the model 1 s. -/
def execHoldoverExpiry (s : State) : Result :=
  .next (if s.time.trust = .holdover then setTrust .untrusted s else s)

/-! ## TIME_STATUS (R106) -/

/-- A leap second is announced and lies ahead (R93). -/
def leapPending (s : State) : Bool :=
  let c := effectiveCivil s
  c.leapKind != 0 && decide (now s < c.leapEnd)

/-- Response of TIME_STATUS. Where no lock was ever lost the holdover time is a free value (log 23). -/
def timeStatusBytes (s : State) : Bytes × State :=
  let traceable := s.time.tickTrust == .traceable
  let src := selectedSource s
  let off := match selectedRecord s with
    | some x => clamp (-2147483647) 2147483647 (srcOffset s x)
    | none => 0
  let slewing := s.time.freqAdjPpb != 0 && (selectedRecord s).isSome && s.time.pendingStep.isNone
  let flags := ofBits [s.time.pendingStep.isSome, slewing, srcLocked s s.time.ptp, ppsLocked s,
                       s.time.gmUtcValid, leapPending s, s.time.disagree]
  let model := if traceable then 0 else match modelErrorNs s with
    | some m => cap 0xFFFFFFFF m
    | none => 0xFFFFFFFF
  let hold : Nat × State := if traceable then (0, s) else match holdoverMs s with
    | some h => (cap 0xFFFFFFFF (h / 1000), s)
    | none => draw 23 (2 ^ 32) s
  let c := effectiveCivil s
  let t := s.time
  (le 1 t.tickTrust.code ++ le 1 src.code ++ le 1 flags ++ zeros 1 ++ leS 4 off ++ le 4 model ++ le 4 hold.1 ++
    le 8 (now s) ++ leS 8 (t.pendingStep.getD 0) ++ le 1 t.gmClass ++ le 1 t.gmPort ++ le 2 (taiUtc c (now s)) ++
    leS 2 (civilOffset c (utcMs c (now s))) ++ zeros 2 ++ leS 4 t.freqAdjPpb, hold.2)

/-- TIME_STATUS (R106). -/
def cmdTimeStatus : Cmd := {
  opcode := 0x0200, role := fun _ => .reader, size := 0
  body := fun _ s => let r := timeStatusBytes s; okWith r.1 r.2 }

/-! ## TIME_CONFIG (R107) -/

/-- The configuration a TIME_CONFIG payload names. -/
def readTimeConfig (p : Bytes) : TimeConfig := {
  srcPriority := rd p 0 1, ptpDomain := rd p 1 1, ptpPorts := rd p 2 1
  localPriority := (List.range 4).map (fun g => rd p (4 + g) 1), ppsDelayNs := rd p 8 4, stepLimitMs := rd p 12 2 }

/-- TIME_CONFIG (R107): all fields take effect together at the next tick. -/
def cmdTimeConfig : Cmd := {
  opcode := 0x0201, role := fun _ => .operator, size := 16
  body := fun c s =>
    let t := readTimeConfig c.p
    checked [inRange 0 (t.srcPriority ≤ 3), inRange 1 (24 ≤ t.ptpDomain && t.ptpDomain ≤ 43),
        field 2 (t.ptpPorts < 16), inRange 2 (t.ptpPorts != 0 || t.srcPriority != 2), resv c.p 3 1,
        inRange 4 (t.localPriority.all (· != 0)), inRange 8 (t.ppsDelayNs ≤ 1000000),
        inRange 12 (1 ≤ t.stepLimitMs && t.stepLimitMs ≤ 1000), resv c.p 14 2] s
      (okWith [] (setTime (fun x => { x with configNext := some t }) s)) }

/-- Puts a waiting TIME_CONFIG into effect (R107): a change of domain or ports drops PTP at once. -/
def applyTimeConfig (s : State) : State :=
  match s.time.configNext with
  | none => s
  | some c =>
    let drop := c.ptpDomain != s.time.ptpDomain || c.ptpPorts != s.time.ptpPorts
    let s := setTime (fun t => { t with
      configNext := none, srcPriority := c.srcPriority, ptpDomain := c.ptpDomain, ptpPorts := c.ptpPorts
      localPriority := c.localPriority, ppsDelayNs := c.ppsDelayNs, stepLimitMs := c.stepLimitMs }) s
    if drop then selectGrandmaster (losePtp (setTime (fun t => { t with announces := [] }) s))
    else if s.time.announces.isEmpty then afterSource s else selectGrandmaster s

/-! ## TIME_STEP (R87, R90, R108) -/

/-- Backward steps beyond this many ticks need force (R90). -/
def backwardLimit : Nat := 3600000

/-- Accepts the pending step (R85, R87): a step of 0 only ends the pending state. -/
def acceptStep (d : Int) (s : State) : State :=
  evaluateTrust (setTime (fun t => { t with
    pendingStep := none, rejectedStep := none, stepDue := if d = 0 then t.stepDue else some d }) s)

/-- Rejects the pending step (R87). -/
def rejectStep (d : Int) (s : State) : State :=
  evaluateTrust (setTime (fun t => { t with pendingStep := none, rejectedStep := some (1000000 * d + t.corr) }) s)

/-- Sets the time (R108): the tick that starts 10 ticks from now carries the given label. -/
def hostSetTime (label : Nat) (s : State) : State :=
  setTime (fun t => { t with hostSet := some (10, label), base := .host, stepDue := none }) s

/-- TIME_STEP (R108). -/
def cmdTimeStep : Cmd := {
  opcode := 0x0202, role := fun p => if rd p 1 1 = 1 then .warden else .operator, size := 16
  body := fun c s =>
    let action := rd c.p 0 1
    let force := rd c.p 1 1 == 1
    let value := rd c.p 8 8
    let step := rdS c.p 8 8
    let pend := s.time.pendingStep
    checked [inRange 0 (action ≤ 2), inRange 1 (rd c.p 1 1 ≤ 1), resv c.p 2 6,
        inRange 8 (action != 2 || decide (value < 2 ^ 63))] s
      (if action = 2 then
        let d : Int := (value : Int) - ((now s : Int) + 10)
        if s.time.ptp.qualified || s.time.pps.qualified || s.time.trust != .untrusted then fail stNotReady 0 s
        else if decide (d < -(backwardLimit : Int)) && !force then fail stOutOfRange 24 s
        else okWith (leS 8 d ++ le 8 value) (hostSetTime value s)
      else
        match pend with
        | none => fail stNotReady 0 s
        | some d =>
          if step ≠ d then fail stBadField 24 s
          else if action = 1 then okWith (zeros 16) (rejectStep d s)
          else if decide (d < -(backwardLimit : Int)) && !force then fail stOutOfRange 24 s
          else okWith (leS 8 d ++ leS 8 ((now s : Int) + 1 + d)) (acceptStep d s)) }

/-! ## TIME_CIVIL (R94, R109) -/

/-- The civil table a TIME_CIVIL payload names. -/
def readCivil (p : Bytes) : CivilTable := {
  utcOffsetS := rd p 8 2, leapKind := rd p 10 1, dstDeltaMin := rd p 11 1, leapEnd := rd p 12 8
  stdOffsetMin := rdS p 20 2
  startMonth := rd p 22 1, startWeek := rd p 23 1, startWeekday := rd p 24 1, startMinute := rd p 26 2
  endMonth := rd p 28 1, endWeek := rd p 29 1, endWeekday := rd p 30 1, endMinute := rd p 32 2 }

/-- leap_end_tick is a UTC midnight reckoned with the offset after the leap, or 0 without a leap (R109). -/
def leapEndOk (c : CivilTable) : Bool :=
  if c.leapKind = 0 then c.leapEnd == 0
  else
    let after : Int := if c.leapKind = 1 then (c.utcOffsetS : Int) + 1 else (c.utcOffsetS : Int) - 1
    ((c.leapEnd : Int) - 1000 * after) % 86400000 == 0

/-- A daylight rule at the offset of its month: zero where there is no daylight time, else in range (R109). -/
def dstRuleChecks (dst : Bool) (p : Bytes) (off minuteOff : Nat) : List Check :=
  let m := rd p off 1
  let w := rd p (off + 1) 1
  let d := rd p (off + 2) 1
  let t := rd p minuteOff 2
  if dst then
    [inRange off (1 ≤ m && m ≤ 12), inRange (off + 1) (1 ≤ w && w ≤ 5), inRange (off + 2) (d ≤ 6), resv p (off + 3) 1,
     inRange minuteOff (t ≤ 1439)]
  else
    [field off (m == 0), field (off + 1) (w == 0), field (off + 2) (d == 0), resv p (off + 3) 1, field minuteOff (t == 0)]

/-- TIME_CIVIL (R109). -/
def cmdTimeCivil : Cmd := {
  opcode := 0x0203, role := fun _ => .operator, async := true, size := 36, dryrun := true, standby := true
  body := fun c s =>
    let t := readCivil c.p
    let g : GenTable := .civil t
    let dst := t.dstDeltaMin != 0
    checked ([inRange 0 (activationTick g (roundTick (rd c.p 0 8)) s).isSome, inRange 8 (t.utcOffsetS ≤ 255),
        inRange 10 (t.leapKind ≤ 2),
        inRange 11 (t.dstDeltaMin == 0 || t.dstDeltaMin == 30 || t.dstDeltaMin == 60 || t.dstDeltaMin == 120),
        field 12 (leapEndOk t), inRange 20 (decide (-720 ≤ t.stdOffsetMin) && decide (t.stdOffsetMin ≤ 840))] ++
        dstRuleChecks dst c.p 22 26 ++ dstRuleChecks dst c.p 28 32 ++ [resv c.p 34 2]) s
      (if armBusy g s then fail stBusy 1 s
       else
         match activationTick g (roundTick (rd c.p 0 8)) s with
         | none => fail stOutOfRange 16 s
         | some tick =>
           .accepted (le 8 (tick / 1024))
             (armGen { table := g, opcode := 0x0203, tick := tick, ref := some c.ref } s)) }

/-- The civil table activates (R109). -/
def applyCivil (g : PendingGen) (t : CivilTable) (s : State) : State :=
  let s := afterSource (setTime (fun x => { x with civil := t }) s)
  match g.ref with
  | some r => complete r stOk 0 (le 8 (g.tick / 1024)) s
  | none => s

/-! ## TIME_TICKS (R110) -/

/-- Entries of the abort list in use (R102). -/
def abortCount (s : State) : Nat := s.led.record.abortList.length

/-- Response of TIME_TICKS. -/
def timeTicksBytes (s : State) : Bytes :=
  let l := s.led
  let flags := ofBits [l.frozenAt.isSome, decide (0 < s.time.holdRemaining),
    decide (2 < abortCount s + l.abortsPending.length), l.fieldOnly && dataPathUp s,
    s.pwr.mode == .vigil]
  le 8 (frontier s) ++ le 8 (now s) ++ le 1 l.ticks.length ++ le 1 flags ++ le 1 (abortCount s) ++ zeros 1 ++
    le 4 s.time.holdRemaining ++ le 4 l.overruns ++ le 4 l.aborted ++ le 4 l.runaheadDiscards ++ le 4 l.fieldOnlyCount ++
    le 4 l.closeMaxPrev ++ le 4 l.closeMeanPrev

/-- TIME_TICKS (R110). -/
def cmdTimeTicks : Cmd := {
  opcode := 0x0204, role := fun _ => .reader, size := 0, body := fun _ s => okWith (timeTicksBytes s) s }

/-- TIME_STATUS. -/
def execTimeStatus (rq : Request) (s : State) : Result := .next (submit cmdTimeStatus rq s)
/-- TIME_CONFIG. -/
def execTimeConfig (rq : Request) (s : State) : Result := .next (submit cmdTimeConfig rq s)
/-- TIME_STEP. -/
def execTimeStep (rq : Request) (s : State) : Result := .next (submit cmdTimeStep rq s)
/-- TIME_CIVIL. -/
def execTimeCivil (rq : Request) (s : State) : Result := .next (submit cmdTimeCivil rq s)
/-- TIME_TICKS. -/
def execTimeTicks (rq : Request) (s : State) : Result := .next (submit cmdTimeTicks rq s)

end Sys2Proof.Machine
end

