-- ==== Sys2Proof/Machine/Links.lean ====
section
/-!
DEFINITION. Ports and their states, lane 0 in Vigil, MACsec, and the LNK_ commands. Chapter 17 of the spec (R573 to R592).
-/

namespace Sys2Proof.Machine

/-- Changes the links part. -/
def setLnk (f : LinkState → LinkState) (s : State) : State := { s with lnk := f s.lnk }

/-- Port `p`. -/
def portAt (s : State) (p : Nat) : Port := s.lnk.ports.getD p {}

/-- Changes port `p`. -/
def setPort (p : Nat) (f : Port → Port) (s : State) : State :=
  setLnk (fun l => { l with ports := modAt l.ports p f }) s

/-- Ports of a grouping, by their lowest lane (R573). -/
def portsOf (grouping : Nat) : List Nat := if grouping = 1 then List.range 16 else [0, 4, 8, 12]

/-- A port exists in the grouping in force. -/
def portExists (s : State) (p : Nat) : Bool := (portsOf s.lnk.grouping).contains p

/-- Port 12 is the mirror link in grouping 2 (R573). -/
def isMirror (s : State) (p : Nat) : Bool := s.lnk.grouping == 2 && p == 12

/-- Port group of a port (R573). -/
def portGroup (p : Nat) : Nat := p / 4

/-- Code of a port state (R586). -/
def PortPhase.code : PortPhase → Nat
  | .disabled => 0 | .training => 1 | .up => 2 | .hold => 3 | .poweredOff => 4

/-- Rate code of a port: 10G on lane 0 alone, 100G, 400G, mirror (R586). -/
def rateOf (s : State) (p : Nat) : Nat :=
  if isMirror s p then 3 else if s.lnk.laneZeroOnly && p = 0 then 0 else if s.lnk.grouping = 1 then 1 else 2

/-- The enable of a port: the mirror link's follows SS7 in force until LNK_PORT_SET has set it (R579). -/
def portEnabled (s : State) (p : Nat) : Bool :=
  if isMirror s p && !s.lnk.mirrorSet then sealInForce s 9 else (portAt s p).enabled

/-! ## Faults of the links (R586) -/

/-- Source 0xE0 ends when no port that raised it is still without its link. -/
def settlePortFault (s : State) : State := if s.lnk.ports.any (·.failed) then s else endFault 0xE0 s

/-- Source 0xE1 ends when no port is degraded. -/
def settleFecFault (s : State) : State := if s.lnk.ports.any (·.degraded) then s else endFault 0xE1 s

/-- Source 0xE2 ends when no port has had a flood of authentication failures in its current second. -/
def settleMacsecFault (s : State) : State := if s.lnk.ports.any (·.authFlood) then s else endFault 0xE2 s

/-! ## Port states (R579, R582) -/

/-- A change of state raises PORT_STATE and sets INT_STATUS.LINK (R579). -/
def portEvent (p : Nat) (old new : PortPhase) (cause : Nat) (s : State) : State :=
  let payload := le 1 new.code ++ le 1 old.code ++ le 1 cause ++ le 1 (rateOf s p) ++ le 4 (portAt s p).downs ++ le 8 (now s)
  interrupt causeLink (raiseEvent 0x0E00 p true payload s)

/-- Effects of a port that leaves UP (R582): PTP of the selected grandmaster is lost at once, the hold of R583 apart, and a mirror
link that goes down is reported while the pair is configured. -/
def portLeftUp (p : Nat) (s : State) : State :=
  let s := if !isMirror s p && s.time.gmPort != 255 && p = 4 * s.time.gmPort && !s.time.ptpHold then dropAnnounce s.time.gmPort s else s
  if isMirror s p && sealInForce s 9 then raiseFault 0xE3 1 s else s

/-- Takes a port to a state. -/
def portTo (p : Nat) (new : PortPhase) (cause : Nat) (s : State) : State :=
  let old := (portAt s p).phase
  if old = new then s
  else
    let s := setPort p (fun x => { x with
      phase := new, lastChange := now s
      failed := x.failed && (new == .training || new == .hold)
      degraded := x.degraded && new == .up, goodSeconds := 0, authFlood := x.authFlood && new == .up }) s
    let s := portEvent p old new cause s
    let s := if old = .up then portLeftUp p s else s
    settleMacsecFault (settleFecFault (settlePortFault s))

/-- Entry of the Vigil mode of lane 0, or return from it: a hold of PTP begins if the selected grandmaster is on port group 0
(R580, R583). -/
def laneZeroRetrain (alone : Bool) (s : State) : State :=
  let s := if s.time.gmPort = 0 && s.time.ptp.qualified then setTime (fun t => { t with ptpHold := true }) s else s
  setLnk (fun l => { l with laneZeroOnly := alone }) s

/-- State a powered port begins in (R579). -/
def portBegin (s : State) (p : Nat) : PortPhase := if portEnabled s p then .training else .disabled

/-- The domain of the ports is unpowered: in Vigil port 0 goes on alone with lane 0 (R579, R580). -/
def portsDown (vigil : Bool) (s : State) : State :=
  let s := if vigil then laneZeroRetrain true s else s
  let s := ((portsOf s.lnk.grouping).filter (fun p => !(vigil && p = 0))).foldl (fun s p => portTo p .poweredOff 4 s) s
  if vigil then portTo 0 (portBegin s 0) 4 s else endFault 0xE4 (setLnk (fun l => { l with laneZeroOnly := false }) s)

/-- The domain of the ports is powered (R579, R580). -/
def portsUp (s : State) : State :=
  let s := if s.lnk.laneZeroOnly then
      let s := endFault 0xE4 (laneZeroRetrain false s)
      portTo 0 (portBegin s 0) 4 s
    else s
  (portsOf s.lnk.grouping).foldl (fun s p =>
    if (portAt s p).phase = .poweredOff then portTo p (portBegin s p) 4 s else s) s

/-- A cold start: the pending grouping takes effect, and counts start again (R574). -/
def coldLinks (s : State) : State :=
  setLnk (fun l => { l with
    grouping := l.pendingGrouping, laneZeroOnly := false
    ports := l.ports.map (fun x => { x with
      phase := .poweredOff, downs := 0, downTimes := [], neighbours := [], rxBytes := 0, rxDropped := 0, fecCorrected := 0
      fecUncorrected := 0, macsecDrops := 0, authFails := 0, authFlood := false, lastChange := 0, degraded := false
      goodSeconds := 0, failed := false, nextPn := [] }) }) s

/-- Puts a change before those of later activation ticks. -/
def macsecInsert (e : Nat × Nat × MacsecConfig) (l : List (Nat × Nat × MacsecConfig)) : List (Nat × Nat × MacsecConfig) :=
  l.takeWhile (fun x => decide (x.1 < e.1)) ++ e :: l.dropWhile (fun x => decide (x.1 < e.1))

/-- What the links do at a tick: MACsec configurations whose activation tick has come (R591). -/
def linksTick (s : State) : State :=
  let due := s.lnk.macsecNext.filter (fun e => e.1 ≤ now s)
  let s := setLnk (fun l => { l with macsecNext := l.macsecNext.filter (fun e => now s < e.1) }) s
  (due.foldr macsecInsert []).foldl (fun s e => setLnk (fun l => { l with macsec := modAt l.macsec e.2.1 (fun _ => e.2.2) }) s) s

/-! ## Commands -/

/-- An IPv6 address is multicast, link-local, unspecified. -/
def ipMulticast (a : Bytes) : Bool := rd a 0 1 == 0xFF
def ipLinkLocal (a : Bytes) : Bool := rd a 0 1 == 0xFE && rd a 1 1 / 64 == 2
def ipUnspecified (a : Bytes) : Bool := a.all (· == 0#8)

/-- Bit mask of the ports of the grouping in force that satisfy a condition. -/
def portMask (s : State) (f : Nat → Bool) : Nat := ofBits ((List.range 16).map (fun p => portExists s p && f p))

/-- LNK_STATUS (R587). -/
def cmdLnkStatus : Cmd := {
  opcode := 0x0E00, role := fun _ => .reader, size := 0
  body := fun _ s =>
    okWith (le 1 s.lnk.grouping ++ le 1 s.lnk.pendingGrouping ++ le 2 (portMask s (fun p => (portAt s p).phase == .up)) ++
      le 2 (portMask s (portEnabled s)) ++ le 1 (ofBits (s.lnk.macsec.map (·.enable))) ++
      le 1 (ofBits [s.lnk.laneZeroOnly, s.time.ptpHold]) ++
      le 8 (s.lnk.ports.foldl (fun n p => n + p.rxDropped) 0)) s }

/-- LNK_GROUPING (R588): recorded for the next cold start (R574). -/
def cmdLnkGrouping : Cmd := {
  opcode := 0x0E01, role := fun _ => .operator, size := 4, dryrun := true
  body := fun c s =>
    let g := rd c.p 0 1
    checked [inRange 0 (g ≤ 2), resv c.p 1 3] s
      (okWith (le 1 s.lnk.grouping ++ le 1 g) (setLnk (fun l => { l with pendingGrouping := g }) s)) }

/-- LNK_PORT_SET's enable or disable by the port state machine (R579). -/
def portCommand (p : Nat) (disable : Bool) (s : State) : State :=
  match disable, (portAt s p).phase with
  | false, .disabled => portTo p .training 0 s
  | false, .up => portTo p .training 0 s
  | true, .training => portTo p .disabled 0 s
  | true, .up => portTo p .disabled 0 s
  | true, .hold => portTo p .disabled 0 s
  | _, _ => s

/-- LNK_PORT_SET (R589). -/
def cmdLnkPortSet : Cmd := {
  opcode := 0x0E02, role := fun _ => .operator, size := 32, dryrun := true
  body := fun c s =>
    let p := rd c.p 0 1
    let mirror := isMirror s p
    let cfg : PortConfig := { medium := rd c.p 2 1, fecExp := rd c.p 3 1, mtu := rd c.p 4 2, router := slice c.p 8 16,
                              asymmetryNs := rdS c.p 24 4 }
    checked [inRange 0 (portExists s p), inRange 1 (rd c.p 1 1 ≤ 1), inRange 2 (cfg.medium ≤ 1), field 2 (!mirror || cfg.medium == 0),
        inRange 3 (4 ≤ cfg.fecExp && cfg.fecExp ≤ 7),
        (if mirror then field 4 (cfg.mtu == 0) else inRange 4 (1700 ≤ cfg.mtu && cfg.mtu ≤ 9216)), resv c.p 6 2,
        field 8 (!ipMulticast cfg.router), inRange 24 (cfg.asymmetryNs.natAbs ≤ 100000), resv c.p 28 4] s
      (let off := rd c.p 1 1 == 1
       let s := setPort p (fun x => { x with enabled := !off, config := cfg }) s
       let s := setLnk (fun l => { l with mirrorSet := l.mirrorSet || mirror }) s
       let s := portCommand p off s
       okWith (le 1 (portAt s p).phase.code ++ zeros 3) s) }

/-- An address is used by another entry of the module (R577, R590). -/
def addrUsed (s : State) (port entry : Nat) (a : Bytes) : Bool :=
  (List.range 16).any (fun p => (List.range 4).any (fun i => !(p == port && i == entry) &&
    (match (portAt s p).addrs.getD i none with
      | some e => e.address == a
      | none => false)))

/-- LNK_ADDR_SET (R590). -/
def cmdLnkAddrSet : Cmd := {
  opcode := 0x0E03, role := fun _ => .operator, size := 24, dryrun := true
  body := fun c s =>
    let p := rd c.p 0 1
    let i := rd c.p 1 1
    let e : AddrEntry := { prefixLen := rd c.p 3 1, roles := rd c.p 4 1, vlan := rd c.p 6 2, address := slice c.p 8 16 }
    let head : List Check := [inRange 0 (portExists s p && !isMirror s p), inRange 1 (i ≤ 3), inRange 2 (rd c.p 2 1 ≤ 1)]
    if rd c.p 2 1 = 1 then
      checked (head ++ [resv c.p 3 1, resv c.p 4 1, resv c.p 5 1, resv c.p 6 2, resv c.p 8 16]) s
        (if ((portAt s p).addrs.getD i none).isNone then fail stNotReady 0 s
         else okWith [] (setPort p (fun x => { x with addrs := modAt x.addrs i (fun _ => none) }) s))
    else
      checked (head ++ [inRange 3 (1 ≤ e.prefixLen && e.prefixLen ≤ 128), field 4 (e.roles != 0 && decide (e.roles < 4)), resv c.p 5 1,
          inRange 6 (e.vlan ≤ 4094),
          field 8 (!ipMulticast e.address && !ipLinkLocal e.address && !ipUnspecified e.address && !addrUsed s p i e.address)] ) s
        (okWith [] (setPort p (fun x => { x with addrs := modAt x.addrs i (fun _ => some e) }) s)) }

/-- Slot index of an association: port group, association number, direction (R510 of 15). -/
def assocIndex (group an : Nat) (receive : Bool) : Nat := group + 4 * an + 16 * receive.toNat

/-- An association in force in the vault (R528 of 15). -/
def assocSlot (s : State) (group an : Nat) (receive : Bool) : Option SlotCopy :=
  (findSlot s 8 (assocIndex group an receive)).bind (slotInForce s)

/-- LNK_MACSEC_SET (R591). -/
def cmdLnkMacsecSet : Cmd := {
  opcode := 0x0E04, role := fun _ => .operator, size := 24, dryrun := true
  body := fun c s =>
    let g := rd c.p 0 1
    let m : MacsecConfig := { enable := rd c.p 1 1 == 1, confidentiality := rd c.p 2 1 == 1, txAn := rd c.p 3 1,
                              ptpBypass := rd c.p 4 1 == 1, replayWindow := rd c.p 8 4 }
    let asked := rd c.p 16 8
    let tick := if asked = 0 then now s + 3 else asked
    checked [inRange 0 (g ≤ 3), field 0 (!(s.lnk.grouping == 2 && g == 3)), inRange 1 (rd c.p 1 1 ≤ 1), inRange 2 (rd c.p 2 1 ≤ 1),
        inRange 3 (m.txAn ≤ 3), inRange 4 (rd c.p 4 1 ≤ 1), resv c.p 5 3, inRange 8 (m.replayWindow ≤ 1073741824), resv c.p 12 4,
        inRange 16 (now s + 3 ≤ tick)] s
      (if m.enable && (assocSlot s g m.txAn false).isNone then fail stNotReady 0 s
       else okWith (le 8 tick) (setLnk (fun l => { l with macsecNext := l.macsecNext ++ [(tick, g, m)] }) s)) }

/-- MAC address of a port: the base address plus the port number (R576). -/
def macOf (s : State) (p : Nat) : Bytes := be 6 (s.lnk.baseMac + p)

/-- LNK_PORT_READ (R592). What the port has sent is counted by its lower layers, which the model leaves out: tx_bytes is a free
value (log 33). -/
def cmdLnkPortRead : Cmd := {
  opcode := 0x0E10, role := fun _ => .reader, size := 4
  body := fun c s =>
    let p := rd c.p 0 1
    let x := portAt s p
    checked [inRange 0 (portExists s p), resv c.p 1 3] s
      (let d := draw 50 (2 ^ 64) s
       let ptp := !isMirror s p && p % 4 == 0 && (ptpGroups s).testBit (portGroup p)
       let sec := !isMirror s p && (s.lnk.macsec.getD (portGroup p) {}).enable
       okWith (le 1 x.phase.code ++ le 1 (rateOf s p) ++ le 1 x.config.medium ++ le 1 (ofBits [x.degraded, sec, ptp]) ++
         macOf s p ++ zeros 2 ++ le 4 x.downs ++ le 8 x.rxBytes ++ le 8 d.1 ++ le 8 x.rxDropped ++ le 8 x.fecCorrected ++
         le 8 x.fecUncorrected ++ le 4 (cap 0xFFFFFFFF x.macsecDrops) ++ zeros 4 ++ le 8 x.lastChange) d.2) }

/-- LNK_STATUS. -/
def execLnkStatus (rq : Request) (s : State) : Result := .next (submit cmdLnkStatus rq s)
/-- LNK_GROUPING. -/
def execLnkGrouping (rq : Request) (s : State) : Result := .next (submit cmdLnkGrouping rq s)
/-- LNK_PORT_SET. -/
def execLnkPortSet (rq : Request) (s : State) : Result := .next (submit cmdLnkPortSet rq s)
/-- LNK_ADDR_SET. -/
def execLnkAddrSet (rq : Request) (s : State) : Result := .next (submit cmdLnkAddrSet rq s)
/-- LNK_MACSEC_SET. -/
def execLnkMacsecSet (rq : Request) (s : State) : Result := .next (submit cmdLnkMacsecSet rq s)
/-- LNK_PORT_READ. -/
def execLnkPortRead (rq : Request) (s : State) : Result := .next (submit cmdLnkPortRead rq s)

/-! ## Rows -/

/-- PORT_LINK_UP (R579, R581): a port in TRAINING has its link. -/
def execPortLinkUp (port : Nat) (s : State) : Result :=
  if !portExists s port || (portAt s port).phase ≠ .training then .next s
  else
    let s := portTo port .up 1 s
    let s := if isMirror s port then endFault 0xE3 s else s
    .next (if s.lnk.laneZeroOnly && port = 0 then endFault 0xE4 s else s)

/-- PORT_LINK_FAULT (R579): source 0xE0, condition 1. The fifth fault within 60 s puts the port on HOLD. -/
def execPortLinkFault (port : Nat) (s : State) : Result :=
  if !portExists s port || (portAt s port).phase ≠ .up then .next s
  else
    let s := setPort port (fun x => { x with
      downs := x.downs + 1, failed := true
      downTimes := (s.time.uptime :: x.downTimes).filter (fun u => s.time.uptime < u + 60000) }) s
    let s := raiseFault 0xE0 1 s
    let flap := decide (5 ≤ (portAt s port).downTimes.length)
    let s := if flap then setPort port (fun x => { x with downTimes := [] }) s else s
    .next (portTo port (if flap then .hold else .training) (if flap then 3 else 2) s)

/-- PORT_TRAINING_TIMEOUT (R579): source 0xE0, condition 2; training begins again, which PORT_STATE reports with its cause 5 (DEDUCED,
log 62). -/
def execPortTrainingTimeout (port : Nat) (s : State) : Result :=
  if !portExists s port || (portAt s port).phase ≠ .training then .next s
  else .next (portEvent port .training .training 5 (raiseFault 0xE0 2 (setPort port (fun x => { x with failed := true }) s)))

/-- PORT_HOLD_EXPIRY (R579). -/
def execPortHoldExpiry (port : Nat) (s : State) : Result :=
  .next (if portExists s port && (portAt s port).phase = .hold then portTo port .training 3 s else s)

/-- FEC_RATIO_CHECK (R581): the symbol errors among the symbols of one second, symbols corrected, codewords not corrected. The
second of R584's authentication failures ends with it. -/
def execFecRatioCheck (port errors symbols corrected uncorrected : Nat) (s : State) : Result :=
  let x := portAt s port
  if !portExists s port || x.phase ≠ .up then .next s
  else
    let s := settleMacsecFault (setPort port (fun x => { x with
      fecCorrected := x.fecCorrected + corrected, fecUncorrected := x.fecUncorrected + uncorrected
      authFails := 0, authSecond := s.time.uptime, authFlood := false }) s)
    if symbols < errors * 10 ^ x.config.fecExp then
      let s := if x.degraded then s else raiseFault 0xE1 1 s
      .next (setPort port (fun x => { x with degraded := true, goodSeconds := 0 }) s)
    else if x.degraded && errors * 10 ^ x.config.fecExp < symbols then
      if 10 ≤ x.goodSeconds + 1 then .next (settleFecFault (setPort port (fun x => { x with degraded := false, goodSeconds := 0 }) s))
      else .next (setPort port (fun x => { x with goodSeconds := x.goodSeconds + 1 }) s)
    else .next (setPort port (fun x => { x with goodSeconds := 0 }) s)

/-- LANE0_VIGIL_TIMEOUT (R580): port 0 has not come up at 10 Gbit/s. -/
def execLane0VigilTimeout (s : State) : Result :=
  .next (if s.lnk.laneZeroOnly && !portZeroUp s then raiseFault 0xE4 1 s else s)

/-- PTP_HOLD_EXPIRY (R583): lock is lost. -/
def execPtpHoldExpiry (s : State) : Result := .next (if s.time.ptpHold then dropAnnounce 0 s else s)

/-- NEIGHBOUR_REFRESH (R577): an entry in use is refreshed by a neighbour solicitation. -/
def execNeighbourRefresh (port : Nat) (address : Bytes) (s : State) : Result :=
  if !(portAt s port).neighbours.any (fun n => n.address == address) then .next s
  else
    let s := setPort port (fun x => { x with neighbours := x.neighbours.map (fun n =>
      if n.address == address then { n with refreshed := s.time.uptime } else n) }) s
    .next (setLnk (fun l => { l with icmpSent := (port, address, le 1 135 ++ zeros 7 ++ address) :: l.icmpSent }) s)

end Sys2Proof.Machine
end

