-- ==== Sys2Proof/Machine/Radio.lean ====
section
/-!
DEFINITION. Radio networks: frames, beacons, adverts, connections and their events. Chapter 12 of the spec (R397 to R409,
R418).
-/

namespace Sys2Proof.Machine

/-! ## Channels and airtime (R397, R398, R406) -/

/-- Data rate of a mode in kbit/s (R397). -/
def radioRate (mode : Nat) : Nat := match mode with
  | 0 => 50 | 1 => 100 | 2 => 100 | _ => 150

/-- Airtime in µs of a MAC frame of `n` bytes: with its FCS a PSDU, and 12 octets more on air (R397). -/
def radioAirtime (mode n : Nat) : Nat := ceilDiv (8 * (12 + n + 4) * 1000) (radioRate mode)

/-- slot_ticks of a mode: two frames of 127 octets and 2 ms (R406). -/
def slotTicks (mode : Nat) : Nat := ceilDiv (2 * radioAirtime mode 123 + 2000) 1000

/-- Channels of a map, rising (R398). -/
def mapChannels (map : Nat) : List Nat := (List.range 2).filter (fun c => map.testBit c)

/-- Ticks from a beacon's start to the end of its advert window (R404): 35 bytes, 2 ms, slots of 10 ms. -/
def beaconTicks (c : RfConfig) : Nat := ceilDiv (radioAirtime c.mode 35 + 2000 + 10000 * c.advSlots) 1000

/-- A radio network. -/
def rfAt (s : State) (b : Nat) : Option RfNet := Tab.get s.mtr.rf b

/-- Changes a radio network that is configured. -/
def setRf (b : Nat) (f : RfNet → RfNet) (s : State) : State :=
  match rfAt s b with
  | some r => setMtr (fun t => { t with rf := Tab.put t.rf b (f r) }) s
  | none => s

/-- The network's samples reach the module: its bridge hears and streams radio, or the local transceiver runs (R373 of 11,
R401); radio samples with another block index are discarded (R400). -/
def radioHears (s : State) (b : Nat) : Bool :=
  match rfAt s b with
  | none => false
  | some r =>
    !r.mismatch && dataPathUp s &&
      (if r.config.kind = 0 then netHears s b && (bridgeAt s b).config.kind == 0 && (bridgeAt s b).config.streams.testBit 1
       else s.pwr.fieldOn)

/-- The module plans radio frames for a network at a transmit tick (R372, R375, R376 of 11, R400). -/
def radioPlans (s : State) (b t : Nat) : Bool :=
  match rfAt s b with
  | none => false
  | some r => mayPlan s && radioHears s b && (permitAt s b t).media.testBit 3 && (r.config.kind != 0 || bridgeReady s b)

/-! ## Reservations (R404, R406) -/

/-- Two periodic uses of a stream meet: `a` every `p` ticks for `la`, `b` every `q` ticks for `lb`. -/
def periodicClash (a : Int) (la p : Nat) (b : Int) (lb q : Nat) : Bool :=
  let g : Int := (Nat.gcd p q : Nat)
  decide ((a - b) % g < (lb : Int)) || decide ((b - a) % g < (la : Int))

/-- A use of `n` ticks from `t` meets a periodic one: `a` every `p` ticks for `la`, from `a` on. -/
def onceClash (t : Int) (n : Nat) (a : Int) (la p : Nat) : Bool :=
  decide (a < t + n) && decide ((t + n - 1 - a) % (p : Int) < ((n + la - 1 : Nat) : Int))

/-- A connection occupies its slot: until it is released, and until its TERMINATE is sent. -/
def RfConn.live (c : RfConn) : Bool := c.phase != .unconnected || c.terminate.isSome

/-- Anchor of event 0 from an event on, with a new interval from it. -/
def movedAnchor (c : RfConn) (e interval : Nat) : Int := c.anchor + (e : Int) * c.interval - (e : Int) * interval

/-- Anchors and intervals of a connection: in force, and of an UPDATE that has been sent. -/
def RfConn.places (c : RfConn) : List (Int × Nat) :=
  (c.anchor, c.interval) :: (match c.update with
    | some (e, i, _) => [(movedAnchor c e i, i)]
    | none => [])

/-- An anchor is free for events of an interval, besides the connection of `node` (R406). -/
def anchorFree (r : RfNet) (node : Nat) (anchor : Int) (interval : Nat) : Bool :=
  let n := slotTicks r.config.mode
  r.conns.all (fun e => e.1 == node || !e.2.live || e.2.places.all (fun p => !periodicClash anchor n interval p.1 n p.2)) &&
    !periodicClash anchor n interval r.lastBeacon (beaconTicks r.config) r.config.beacon

/-- Nothing is placed on the stream for `n` ticks from `t`: no event, beacon, advert window, or frame planned. -/
def streamFree (s : State) (b : Nat) (r : RfNet) (t n : Nat) : Bool :=
  let slot := slotTicks r.config.mode
  r.conns.all (fun e => !e.2.live || e.2.places.all (fun p => !onceClash t n p.1 slot p.2)) &&
    !onceClash t n r.lastBeacon (beaconTicks r.config) r.config.beacon &&
    (bridgeAt s b).plans.all (fun p => p.medium != 8 || decide (p.first + p.ticks ≤ t) || decide (t + n ≤ p.first))

/-- The first free anchor from a tick on, at the network's interval (R406). -/
def findAnchor (r : RfNet) (node from' : Nat) : Option Nat :=
  ((List.range r.config.interval).map (from' + ·)).find? (fun a => anchorFree r node a r.config.interval)

/-- Slots still free at the network's interval, taken one after the other (R427). -/
def freeSlots (r : RfNet) : Nat :=
  let n := slotTicks r.config.mode
  let used := (List.range r.config.interval).foldl (fun (acc : Nat × Nat) a =>
    if acc.2 ≤ a && a + n ≤ acc.2 + r.config.interval && anchorFree r 1024 a r.config.interval then (acc.1 + 1, a + n) else acc) (0, 0)
  used.1

/-! ## Sending (R402, R403, R426) -/

/-- Transmit time of the last 3,600 s in µs. -/
def onAirUs (s : State) (r : RfNet) : Nat :=
  ((r.onAir.filter (fun x => now s < x.1 + 3600000)).map (·.2)).foldl (· + ·) 0

/-- The duty limit leaves room for `us` more (R426). -/
def dutyRoom (s : State) (r : RfNet) (us : Nat) : Bool := decide (onAirUs s r + us ≤ r.config.dutyPermille * 3600000)

/-- Header of a radio frame (R402). -/
def radioHeader (type : Nat) (more ack uplink : Bool) (b node counter ackOf event : Nat) : Bytes :=
  le 1 (type + 16 * more.toNat + 32 * ack.toNat + 64 * uplink.toNat) ++ le 2 b ++ le 2 node ++ le 4 counter ++
    le 2 ackOf ++ le 2 event

/-- An encrypted frame of the bridge to a node field (R403). -/
def radioSeal (key header payload : Bytes) (b node counter type : Nat) : Bytes :=
  header ++ ccmSeal key 8 (macNonce b addrBridge node counter type) header payload

/-- Plans a radio frame on a channel and counts its time on air (R374 of 11, R399). -/
def sendRadio (b first channel : Nat) (frame : Bytes) (s : State) : State :=
  match rfAt s b with
  | none => s
  | some r =>
    let us := radioAirtime r.config.mode frame.length
    let s := setRf b (fun x => { x with onAir := (first, us) :: x.onAir.filter (fun y => now s < y.1 + 3600000) }) s
    sendPlan b { first := first, offset := 0, ticks := ceilDiv us 1000, medium := 8, atten := r.config.atten, planId := 0
                 frame := frame, channel := channel } s

/-- The next send counter of a network's group (R408). -/
def groupNext (b g : Nat) (s : State) : Nat × State :=
  let c := Tab.getD s.mtr.groupCounter (64 * b + g) 0 + 1
  (c, setMtr (fun m => { m with groupCounter := Tab.put m.groupCounter (64 * b + g) c }) s)

/-- The handle of a group key of the current generation (R421; R518 of 15). -/
def groupHandle (s : State) (b g : Nat) : KeyHandle := .group b g (Tab.getD s.mtr.groupGen (64 * b + g) 0)

/-- BEACON (R403, R404): planned for the transmit tick of this tick, clear, its MIC under the key of group 63. -/
def sendBeacon (b : Nat) (s : State) : State :=
  match rfAt s b with
  | none => s
  | some r =>
    let t := planTick s b
    let chans := mapChannels r.config.map
    let i := r.beaconChannel % max 1 chans.length
    if !radioPlans s b t || !dutyRoom s r (radioAirtime r.config.mode 35) then s
    else
      let c := groupNext b 63 s
      let k := keyFor 0 (groupHandle s b 63) c.2
      match k.1 with
      | none => k.2
      | some key =>
        let body := radioHeader 1 false false false b addrAll c.1 0 0 ++ le 8 t ++ le 2 (taiNow s) ++ le 1 r.config.mode ++
          le 1 r.config.map ++ le 1 r.config.advSlots ++ zeros 1
        let frame := body ++ ccmSeal key 8 (macNonce b addrBridge addrAll c.1 1) body []
        let s := setRf b (fun x => { x with lastBeacon := t, beaconChannel := i + 1, beaconCounter := c.1 }) k.2
        sendRadio b t (chans.getD i 0) frame s

/-! ## Connections (R404, R405, R409) -/

/-- Releases a connection's slot: UNCONNECTED, with RF_CONN (R409, R425). -/
def releaseConn (b node cause : Nat) (s : State) : State :=
  connEvent b node 0 cause (setConn b node (fun c => { c with
    phase := .unconnected, terminate := none, unacked := none, update := none, unbound := none }) s)

/-- Payload of CONNECT, and of UPDATE with the event count in place of the anchor (R404). -/
def connectBody (node interval : Nat) (anchor : Nat) (map mode supervision : Nat) : Bytes :=
  le 2 node ++ le 2 interval ++ le 4 (anchor % 2 ^ 32) ++ le 1 map ++ le 1 mode ++ le 4 supervision ++ zeros 2

/-- No slot is free: no CONNECT, counted, a class-C fault once per round (R406). -/
def refuseConnect (b node : Nat) (s : State) : State :=
  let told := ((rfAt s b).map (·.refusedThisRound)).getD false
  let s := setRf b (fun r => { r with refused := cap 0xFFFFFFFF (r.refused + 1), slotsExhausted := true, refusedThisRound := true }) s
  connEvent b node 0 5 (if told then s else meterFault 2 s)

/-- A valid ADVERT of an UNCONNECTED meter (R404, R406, R409): a slot is reserved and CONNECT planned to start 30 ms to 60 ms
after the ADVERT's end. -/
def planConnect (b a node channel endTick : Nat) (to' : Nat) (s : State) : State :=
  match rfAt s b, meterOf s a with
  | some r, some m =>
    let n := ceilDiv (radioAirtime r.config.mode 37) 1000
    let first := ((List.range 30).map (endTick + 31 + ·)).find? (fun t => decide (planTick s b ≤ t) && streamFree s b r t n)
    match first with
    | none => s
    | some t =>
      if !radioPlans s b t || !dutyRoom s r (radioAirtime r.config.mode 37) then s
      else
        match findAnchor r node (t + 40) with
        | none => refuseConnect b node s
        | some anchor =>
          let c := nextCounter a s
          let k := keyFor 0 (linkHandle m c.1) c.2
          match k.1 with
          | none => k.2
          | some key =>
            let head := radioHeader 3 false false false b to' c.1 0 0
            let frame := radioSeal key head
              (connectBody node r.config.interval anchor r.config.map r.config.mode r.config.supervision) b to' c.1 3
            let s := setRf b (fun x => { x with slotsExhausted := false, conns := Tab.put x.conns node {
              phase := .connecting, account := a, anchor := anchor, interval := r.config.interval
              supervision := r.config.supervision, map := r.config.map, mode := r.config.mode } }) k.2
            sendRadio b t channel frame (connEvent b node 1 0 s)
  | _, _ => s

/-- A received radio frame's fields (R402). -/
structure RadioFrame where
  type : Nat
  ackValid : Bool
  node : Nat
  counter : Nat
  ack : Nat
  header : Bytes
  rest : Bytes
  deriving DecidableEq, Repr

/-- Reads an uplink radio frame of a network; none where it is malformed (R402). -/
def radioParse (b : Nat) (f : Bytes) : Option RadioFrame :=
  let c := rd f 0 1
  if f.length < 21 || 123 < f.length || 7 < c % 16 || !c.testBit 6 || c.testBit 7 || rd f 1 2 ≠ b then none
  else some {
    type := c % 16, ackValid := c.testBit 5, node := rd f 3 2 % 1024, counter := rd f 5 4, ack := rd f 9 2
    header := f.take 13, rest := f.drop 13 }

/-- Counts a frame whose MIC fails, or a replay (R408, R427). -/
def countBad (b : Nat) (replay : Bool) (s : State) : State :=
  setRf b (fun r => if replay then { r with replays := cap 0xFFFFFFFF (r.replays + 1) }
    else { r with micFailures := cap 0xFFFFFFFF (r.micFailures + 1) }) s

/-- An ADVERT (R404, R409). -/
def radioAdvert (b channel endTick snr : Nat) (bytes : Bytes) (s : State) : State :=
  if !radioHears s b then s
  else
    let s := setRf b (fun r => { r with adverts := cap 0xFFFFFFFF (r.adverts + 1) }) s
    match radioParse b bytes with
    | none => s
    | some f =>
      if f.type ≠ 2 || f.rest.length ≠ 18 then s
      else
        match accountOfSerial s (rd f.rest 0 8) with
        | none => raiseEvent 0x0904 b true (le 8 (rd f.rest 0 8) ++ le 1 1 ++ zeros 7) s
        | some a =>
          let r := committedAccount s a
          match meterOf s a with
          | none => s
          | some m =>
            let k := keyFor 0 (linkHandle m f.counter) s
            match k.1 with
            | none => k.2
            | some key =>
              let s := k.2
              if (ccmOpen key 8 (macNonce b f.node addrBridge f.counter 2) (f.header ++ f.rest.take 10) (f.rest.drop 10)).isNone then
                countBad b false s
              else if f.counter ≤ m.up then countBad b true s
              else if r.bridge ≠ b || !r.radio || r.phase = .unused then s
              else
                let s := noteContact a (setMeter a (fun y => { y with up := f.counter }) s)
                let s := match connOf s b r.node with
                  | some c => if c.phase = .connected then releaseConn b r.node 2 s else s
                  | none => s
                let waiting : Bool := match connOf s b r.node with
                  | some c => c.phase == .connecting
                  | none => false
                let s := if waiting then s else planConnect b a r.node channel endTick f.node s
                setConn b r.node (fun c => { c with snr := some snr }) s

/-- The number of the first event whose anchor lies at or after a tick, above those planned. -/
def nextEvent (c : RfConn) (t : Nat) : Nat :=
  let d := (t : Int) - c.anchor
  let k := if d ≤ 0 then 0 else ceilDiv d.toNat c.interval
  if c.event = 0 then k else max k (c.event + 1)

/-- Tick of an event's anchor (R405). -/
def eventTick (c : RfConn) (k : Nat) : Nat := (c.anchor + k * c.interval).toNat

/-- Channel of an event (R405). -/
def eventChannel (c : RfConn) (node k : Nat) : Nat :=
  let l := mapChannels c.map
  l.getD ((k + node) % max 1 l.length) 0

/-- The payload and type of an event's bridge frame: TERMINATE, UPDATE or DATA (R405, R426). An UPDATE takes effect six events
later, and is sent where its events stay clear of all others (R406; log 27). A reading that is due is asked for (R382 of 11, R414). -/
def eventFrame (b a node k t : Nat) (c : RfConn) (s : State) : Nat × Bytes × State :=
  match c.terminate with
  | some reason => (7, le 1 reason ++ zeros 3, s)
  | none =>
    let clear := match c.update, rfAt s b with
      | none, some r =>
        let i := r.config.interval
        let v := r.config.supervision
        if (c.interval ≠ i || c.supervision ≠ v) && anchorFree r node (movedAnchor c (k + 6) i) i then some (i, v) else none
      | _, _ => none
    match clear with
    | some (i, v) =>
      (4, connectBody node i (k + 6) c.map c.mode v, setConn b node (fun x => { x with update := some (k + 6, i, v) }) s)
    | none =>
      let p := s.stem.profiles.getD (bridgeAt s b).config.profile {}
      let due := match meterOf s a with
        | some m => m.queue.isEmpty && decide (m.lastRead + 1000 * p.readPeriodS ≤ now s)
        | none => false
      let s := if due then queueNow a msgReadReq 3 [] s else s
      let m := takeMsg a t s
      (0, (m.1.map (·.2)).getD [], m.2)

/-- An UPDATE's values are in force from its event on. The events before keep their ticks (R404). -/
def takeUpdate (k : Nat) (c : RfConn) : RfConn :=
  match c.update with
  | some (e, i, v) =>
    if e ≤ k then
      { c with anchor := movedAnchor c e i, interval := i, supervision := v, update := none }
    else c
  | none => c

/-- Plans the bridge frame of a connection's next event (R405 to R407): a frame that is not acknowledged is sent again, byte for
byte. TERMINATE releases the connection. -/
def planEvent (b node : Nat) (s : State) : State :=
  match rfAt s b, connOf s b node with
  | some r, some c0 =>
    let c := takeUpdate (nextEvent c0 (planTick s b)) c0
    let k := nextEvent c (planTick s b)
    let t := eventTick c k
    let a := c.account
    if !c.live || !radioPlans s b t || !dutyRoom s r (radioAirtime r.config.mode 123) then s
    else
      let s := setConn b node (fun _ => { c with event := k }) s
      match c.unacked, c.terminate with
      | some u, none =>
        sendRadio b t (eventChannel c node k) u.frame (setConn b node (fun x => { x with retransmissions := x.retransmissions + 1 }) s)
      | _, _ =>
        let p := eventFrame b a node k t c s
        let s := p.2.2
        let more := decide (1 < ((meterOf s a).map (·.queue.length)).getD 0)
        let up := ((meterOf s a).map (·.up)).getD 0
        let (counter, handle, s) := match c.unbound with
          | some (serial, gen, down) => (down + 1, KeyHandle.meterLink serial gen, s)
          | none =>
            let n := nextCounter a s
            (n.1, ((meterOf n.2 a).map (fun m => linkHandle m n.1)).getD (.meterLink 0 0), n.2)
        let q := keyFor 0 handle s
        match q.1 with
        | none => q.2
        | some key =>
          let head := radioHeader p.1 more c.ackDue false b node counter (up % 65536) (k % 65536)
          let frame := radioSeal key head p.2.1 b node counter p.1
          let s := sendRadio b t (eventChannel c node k) frame q.2
          match c.terminate with
          | some 3 => setConn b node (fun x => { x with terminate := none, phase := .unconnected, unacked := none }) s
          | some _ => releaseConn b node 3 s
          | none => setConn b node (fun x => { x with unacked := some { frame := frame, counter := counter } }) s
  | _, _ => s

/-- A frame of a meter under its link key: the payload with the counter's order, none where the MIC fails or it is a replay. -/
def openRadio (b a : Nat) (f : RadioFrame) (s : State) : Option (Bytes × Bool) × State :=
  match meterOf s a with
  | none => (none, s)
  | some m =>
    let k := keyFor 0 (linkHandle m f.counter) s
    match k.1 with
    | none => (none, k.2)
    | some key =>
      match ccmOpen key 8 (macNonce b f.node addrBridge f.counter f.type) f.header f.rest with
      | none => (none, countBad b false k.2)
      | some p =>
        if f.counter < m.up then (none, countBad b true k.2)
        else (some (p, f.counter != m.up), setMeter a (fun y => { y with up := f.counter }) k.2)

/-- GROUP_KEY of a network's group, wrapped under the member's link key (R421). -/
def queueGroupKey (b a g level : Nat) (s : State) : State :=
  match meterOf s a with
  | none => s
  | some m =>
    let gen := Tab.getD s.mtr.groupGen (64 * b + g) 0
    if m.groupKeys.contains (b, g, gen) then s
    else
      let k := keyFor 0 (linkHandle m (m.down + 1)) s
      let w := keyFor 0 (groupHandle s b g) k.2
      match k.1, w.1 with
      | some key, some group =>
        queueNow a msgGroupKey level (le 1 g ++ le 1 gen ++ zeros 2 ++ pad 40 (Config.wrapKey key group)) w.2
      | _, _ => w.2

/-- A valid answer takes a CONNECTING meter to CONNECTED: TIME, IDENTIFY_REQ and CREDIT are queued (R409, R415), with the key of
the beacon group where the meter lacks it (R421). -/
def connected (b a node : Nat) (s : State) : State :=
  let s := connEvent b node 2 0 (setConn b node (fun c => { c with phase := .connected }) s)
  queueGroupKey b a 63 1 (queueCredit a (queueNow a msgIdentify 1 [] (queueNow a msgTime 1 [] s)))

/-- An answer in a connection event (R405, R407 to R409). -/
def radioAnswer (b snr : Nat) (bytes : Bytes) (s : State) : State :=
  if !radioHears s b then s
  else
    match radioParse b bytes with
    | none => s
    | some f =>
      match connOf s b f.node with
      | none => s
      | some c =>
        if f.type ≠ 0 || c.phase = .unconnected then s
        else
          match openRadio b c.account f s with
          | (none, s) => s
          | (some (payload, new), s) =>
            let s := noteContact c.account s
            let s := setConn b f.node (fun x => { x with
              ackDue := true, missedRun := 0, snr := some snr, lastValid := now s, lastValidUp := s.time.uptime
              unacked := if f.ackValid && x.unacked.any (fun u => u.counter % 65536 == f.ack) then none else x.unacked }) s
            let s := if c.phase = .connecting then connected b c.account f.node s else s
            if new && !payload.isEmpty then sepalArrive b c.account true payload s else s

/-- An event without a valid answer (R409): six in CONNECTING release the slot. -/
def radioMissed (b node : Nat) (s : State) : State :=
  match connOf s b node with
  | none => s
  | some c =>
    if c.phase = .unconnected then s
    else
      let s := setConn b node (fun x => { x with missed := cap 0xFFFFFFFF (x.missed + 1), missedRun := x.missedRun + 1 }) s
      if c.phase = .connecting && 6 ≤ c.missedRun + 1 then releaseConn b node 1 s else s

/-- Supervision expires (R409). -/
def radioSupervision (b node : Nat) (s : State) : State :=
  match connOf s b node with
  | none => s
  | some c => if c.phase = .unconnected then s else releaseConn b node 1 s

/-- A radio ALERT (R418): its event is taken and the sender polled as level-2 work. -/
def radioAlert (b : Nat) (bytes : Bytes) (s : State) : State :=
  if !radioHears s b then s
  else
    match radioParse b bytes with
    | none => s
    | some f =>
      match accountAtNode s b f.node true with
      | none => s
      | some a =>
        if f.type ≠ 6 then s
        else
          match openRadio b a f s with
          | (some (payload, true), s) =>
            if payload.length ≠ 4 then s
            else takeAlert b a true payload (queueNow a msgReadReq 2 [] (noteContact a s))
          | (_, s) => s

/-! ## Configuration and rounds (R400, R409, R426) -/

/-- A network's configuration activates (R426): a change of band, block, mode or map ends every connection. A new interval or
supervision goes to each connection by UPDATE. -/
def applyRfNet (b : Nat) (config : Option RfConfig) (s : State) : State :=
  match config with
  | none => setMtr (fun t => { t with rf := Tab.del t.rf b }) s
  | some c =>
    match rfAt s b with
    | none => setMtr (fun t => { t with rf := Tab.put t.rf b { config := c, lastBeacon := now s } }) s
    | some r =>
      if r.config.band ≠ c.band || r.config.block ≠ c.block || r.config.mode ≠ c.mode || r.config.map ≠ c.map ||
          r.config.kind ≠ c.kind then
        setRf b (fun x => { x with config := c, conns := [], mismatch := false, matchedAt := none, beaconChannel := 0 }) s
      else
        setRf b (fun x => { x with config := c }) s

/-- The account's meter field no longer names a connection's place (R409). -/
def connMoved (s : State) (b node : Nat) (c : RfConn) : Bool :=
  let r := committedAccount s c.account
  c.unbound.isNone && (r.bridge != b || !r.radio || r.node != node || r.phase == .unused)

/-- What the radio MAC does for one network at a tick start: moved meters, CONNECTING meters of a network that cannot plan, the
end of a block mismatch, the counts of a round (R400, R409, R427). -/
def radioNetTick (b : Nat) (s : State) : State :=
  match rfAt s b with
  | none => s
  | some r =>
    let online := mayPlan s && (if r.config.kind = 0 then bridgeReady s b else s.pwr.fieldOn)
    let s := r.conns.foldl (fun s e =>
      if e.2.phase = .connecting && (!online || connMoved s b e.1 e.2) then releaseConn b e.1 (if online then 3 else 1) s
      else if e.2.phase = .connected && e.2.terminate.isNone && connMoved s b e.1 e.2 then
        setConn b e.1 (fun c => { c with terminate := some 2 }) s
      else s) s
    let s := match r.matchedAt with
      | some t => if r.mismatch && t + 64 ≤ now s then setRf b (fun x => { x with mismatch := false, matchedAt := none }) s else s
      | none => s
    if now s % 1024 = 0 then
      setRf b (fun x => { x with advertsPrev := x.adverts, adverts := 0, refusedThisRound := false }) s
    else s

/-- On entry to Vigil, or while the data path is down, a CONNECTING meter is UNCONNECTED (R409). -/
def dropConnecting (s : State) : State :=
  s.mtr.rf.foldl (fun s e => e.2.conns.foldl (fun s c =>
    if c.2.phase = .connecting then releaseConn e.1 c.1 1 s else s) s) s

/-- The radio MAC at a tick start. -/
def radioTick (s : State) : State :=
  let s := (s.mtr.rf.map (·.1)).foldl (fun s b => radioNetTick b s) s
  if s.mtr.rf.any (fun e => e.2.mismatch) then s else endFault 0x90 s

/-- After a cold start or a takeover every meter is UNCONNECTED and counts since cold start are 0; of the messages queued only
CREDITs remain due (R409, R415). -/
def coldRadio (s : State) : State :=
  setMtr (fun t => { t with
    rf := t.rf.map (fun e => (e.1, { config := e.2.config, lastBeacon := e.2.lastBeacon }))
    inbox := []
    discarded := 0
    meters := t.meters.map (fun e => (e.1, { e.2 with
      request := none, queue := (e.2.queue.filter (fun x => x.type == msgCredit)).map (fun x => { x with sends := 0, ref := 0 }) })) }) s

/-- Every event frame and beacon of this tick: RF_TRX synthesises the samples of the transmit tick (R374 of 11). -/
def runRadio (b : Nat) (s : State) : State := sendSamples b true s

/-! ## Meanings -/

/-- STEM_RF_SAMPLES (R364 of 11, R400): the block index reported is held against the one configured. -/
def execStemRfSamples (frame : Bytes) (s : State) : Result :=
  let t := stemRfSamples frame s
  let b := rd frame 2 2 % 8192
  .next (if t.stem.accepted = s.stem.accepted then t
    else match rfAt t b with
      | none => t
      | some r =>
        if r.config.kind ≠ 0 then t
        else if rd frame 7 1 % 64 ≠ r.config.block then
          let u := setRf b (fun x => { x with mismatch := true, matchedAt := none }) t
          if r.mismatch then u else meterFault 1 u
        else if r.mismatch && r.matchedAt.isNone then setRf b (fun x => { x with matchedAt := some (now t) }) t
        else t)

/-- BEACON_DUE (R404): the tick in which a beacon is planned. -/
def execBeaconDue (bridge : Nat) (s : State) : Result := .next (sendBeacon bridge s)
/-- RF_ADVERT_RX (R404, R409). -/
def execRfAdvertRx (bridge channel endTick snr : Nat) (frame : Bytes) (s : State) : Result :=
  .next (radioAdvert bridge channel endTick snr frame s)
/-- RF_CONNECTION_EVENT (R405, R407): the tick in which an event's bridge frame is built. -/
def execRfConnectionEvent (bridge node : Nat) (s : State) : Result := .next (planEvent bridge node s)
/-- RF_ANSWER_RX (R409). -/
def execRfAnswerRx (bridge snr : Nat) (frame : Bytes) (s : State) : Result := .next (radioAnswer bridge snr frame s)
/-- RF_EVENT_MISSED (R409). -/
def execRfEventMissed (bridge node : Nat) (s : State) : Result :=
  .next (if dataPathUp s then radioMissed bridge node s else s)
/-- RF_SUPERVISION_EXPIRY (R409). -/
def execRfSupervisionExpiry (bridge node : Nat) (s : State) : Result :=
  .next (if dataPathUp s then radioSupervision bridge node s else s)
/-- RF_ALERT_RX (R418). -/
def execRfAlertRx (bridge snr : Nat) (frame : Bytes) (s : State) : Result :=
  .next (radioAlert bridge frame (match radioParse bridge frame with
    | some f => if radioHears s bridge then setConn bridge f.node (fun c => { c with snr := some snr }) s else s
    | none => s))

end Sys2Proof.Machine
end

