-- ==== Sys2Proof/Machine/Mirror.lean ====
section
/-!
DEFINITION. The mirror link, takeover and resynchronisation, and the DUTY_ commands. Chapters 16 (R548 to R561, R569 to R572) and 17
(R585) of the spec. Only what arrives is read from the wire; of what is sent, the type and the tick are noted (log 35).
-/

namespace Sys2Proof.Config

/-- The descriptor generation that bytes written at an offset of the configuration region stand for, if any (R17 of 01, R209 of 07:
the region's layout is not given). -/
opaque generationOf : Nat → Bytes → Option Machine.PendingGen

end Sys2Proof.Config

namespace Sys2Proof.Machine

/-! ## Frames (R585, R529) -/

/-- The mirror link is up and this module is one of a pair (R548, R573 of 17). -/
def mirrorUp (s : State) : Bool := (portAt s 12).phase == .up && isMirror s 12 && s.duty.role != .single

/-- A frame dropped and counted. -/
def mirrorDrop (s : State) : State := setDuty (fun d => { d with rxDropped := d.rxDropped + 1 }) s

/-- The peer's serial as far as it is known. -/
def peerSerialOf (s : State) : Nat := if s.duty.peerSerial = 0 then Config.peerSerial else s.duty.peerSerial

/-- The key handles a frame under an epoch may be protected with: duty serial first; between two undecided modules either may be
meant (R518 of 15; log 36). -/
def mirrorHandles (s : State) (e : Nat) : List KeyHandle :=
  let own := s.host.serial
  let peer := peerSerialOf s
  if s.duty.role = .duty && e = s.duty.epoch then [.mirror e own peer]
  else if s.duty.role = .undecided then [.mirror e peer own, .mirror e own peer]
  else [.mirror e peer own]

/-- Opens a frame under the first handle whose tag verifies. -/
def openUnder (frame : Bytes) : List KeyHandle → State → Option Bytes × State
  | [], s => (none, s)
  | h :: hs, s =>
    match keyFor 5 h s with
    | (none, s) => openUnder frame hs s
    | (some key, s) =>
      match gcmOpen key (slice frame 4 12) (slice frame 0 16) (slice frame 16 (rd frame 2 2 + 16)) with
      | some p => (some p, s)
      | none => openUnder frame hs s

/-- The header of a frame of a type is in order: length, reserved bits, direction, an epoch not lower, a seq not repeated (R585). -/
def frameInOrder (type : Nat) (f : Bytes) (s : State) : Bool :=
  let e := rd f 4 4
  rd f 0 1 == type && decide (rd f 1 1 < 2) && decide (rd f 2 2 ≤ 8192) && decide (32 + rd f 2 2 ≤ f.length) &&
    rd f 8 1 == (!oddSlot s).toNat &&
    (laterEpoch e s.duty.linkEpoch || (e == s.duty.linkEpoch && decide (s.duty.rxSeq < rd f 9 7)))

/-- Masters that differ: a peer holds the baton and its frames do not verify (R529 of 15). -/
def masterFault (s : State) : State :=
  if s.duty.peerLow && !s.duty.contact && (faultRecord s 0xD4).phase = .idle then raiseFault 0xD4 1 s else s

/-- Receives one frame: the message it completes, if it does. A valid frame is mirror contact and teaches its epoch (R558, R585). -/
def mirrorFrame (type : Nat) (f : Bytes) (s : State) : Option Bytes × State :=
  if !mirrorUp s then (none, s)
  else if !frameInOrder type f s then (none, mirrorDrop s)
  else
    let e := rd f 4 4
    match openUnder f (mirrorHandles s e) s with
    | (none, s) => (none, masterFault (mirrorDrop s))
    | (some p, s) =>
      let s := endFault 0xD4 (setDuty (fun d => { d with linkEpoch := e, rxSeq := rd f 9 7, contact := true }) s)
      let s := learnEpoch e s
      let body := s.duty.rxPartial ++ p
      if rd f 1 1 = 1 then (some body, setDuty (fun d => { d with rxPartial := [] }) s)
      else (none, setDuty (fun d => { d with rxPartial := body }) s)

/-- Handles a frame with what its message does. -/
def onMirror (type : Nat) (f : Bytes) (k : Bytes → State → State) (s : State) : State :=
  match mirrorFrame type f s with
  | (some p, s) => k p s
  | (none, s) => s

/-! ## The standby's store (R553, R560) -/

/-- An account half from its 256 B (R285 of 09). -/
def accountHalfOfBytes (b : Bytes) : AccountHalf :=
  { stamp := rd b 0 8, good := rd b 252 4 == crc32 (slice b 8 244), record := accountOfBytes (slice b 8 244) }

/-- A demand register from its 160 B (R309 of 09): what the half does not hold of a sub-interval counts as its nominal length. -/
def demandOfBytes (s : State) (b : Bytes) : Option DemandReg :=
  if rd b 18 1 = 0 then none
  else
    let d : DemandReg := {
      maximum := rd b 0 4, previous := rd b 4 4, maxEndTick := rd b 8 8, quantity := rd b 16 1, intervalMin := rd b 17 1
      subCount := rd b 18 1, partialFlag := (rd b 19 1).testBit 0, irregular := (rd b 19 1).testBit 1, current := rd b 20 4
      runStartTick := rd b 24 8 }
    let i := subIndex s d d.runStartTick
    let start := fun k => rdS b (32 + 8 * ((i + 16 - k) % 16)) 8
    some { d with index := some i, runStart := start 0, history := (List.range 15).map (fun k => (start (k + 1), subLength d)) }

/-- A local register set half from its 1,024 B (R309 of 09). -/
def localHalfOfBytes (s : State) (b : Bytes) : LocalHalf :=
  let fl := rd b 9 1
  let sf := rd b 953 1
  { stamp := rd b 0 8, good := rd b 1020 4 == crc32 (slice b 8 1012)
    record := {
      set := rd b 8 1, unsealed := fl.testBit 0, gapOpen := fl.testBit 1, check := fl.testBit 2, suspect := fl.testBit 3
      missing := fl.testBit 4, newEpoch := fl.testBit 5, epoch := rd b 10 2, plan := rd b 12 1, rateIndex := rd b 13 1
      consumed := (List.range 5).map (fun i => rd b (16 + 8 * i) 8), totals := (List.range 5).map (fun i => rd b (56 + 8 * i) 8)
      tariff := (List.range 9).map (fun i => (rd b (112 + 16 * i) 8, rd b (120 + 16 * i) 8))
      demand := (List.range 4).map (fun i => demandOfBytes s (slice b (256 + 160 * i) 160))
      gapFrom := rd b 896 8, gapTo := rd b 904 8, gapCount := rd b 912 4
      unsealedImport := rd b 920 8, unsealedExport := rd b 928 8, unsealedLast := rd b 936 8
      sessionId := rd b 944 4, sessionAccount := rd b 948 4, sessionPlan := rd b 952 1
      sessionOpen := sf.testBit 0, finalDue := sf.testBit 1, postingHeld := sf.testBit 2
      roundCost := rdS b 954 6, sessionFrac := rd b 960 4, sessionImport := rd b 968 8, sessionExport := rd b 976 8
      sessionDebited := rdS b 984 6, sessionStart := rd b 992 8 } }

/-- Writes an account half; `keep` keeps a half of a later tick (R560). -/
def putAccountHalf (keep sideB : Bool) (a : Nat) (h : AccountHalf) (s : State) : State :=
  let p := Tab.getD s.led.accounts a {}
  let old := if sideB then p.b else p.a
  if keep && decide (h.stamp < old.stamp) then s
  else setLed (fun l => { l with accounts := Tab.put l.accounts a (if sideB then { p with b := h } else { p with a := h }) }) s

/-- Writes a register set half. -/
def putLocalHalf (keep sideB : Bool) (k : Nat) (h : LocalHalf) (s : State) : State :=
  let p := Tab.getD s.led.locals k {}
  let old := if sideB then p.b else p.a
  if keep && decide (h.stamp < old.stamp) then s
  else setLed (fun l => { l with locals := Tab.put l.locals k (if sideB then { p with b := h } else { p with a := h }) }) s

/-- Bytes at an offset of the configuration region: register set halves are read, a descriptor generation is armed with its
activation tick, anything else is kept as it came (R209 of 07, R553; log 35). -/
def putRegion (keep : Bool) (off : Nat) (data : Bytes) (s : State) : State :=
  if 0x100000 ≤ off && off < 0x110000 then
    (pieces 1024 (data.length / 1024) data).zipIdx.foldl (fun s (b, i) =>
      let h := (off - 0x100000) / 1024 + i
      putLocalHalf keep (h % 2 == 1) (h / 2) (localHalfOfBytes s b) s) s
  else
    match Config.generationOf off data with
    | some g =>
      { s with gens := { s.gens with
        waiting := s.gens.waiting.filter (fun x => x.table.key != g.table.key) ++ [{ g with ref := none, refs := [] }] } }
    | none => setDuty (fun d => { d with regionImage := Tab.put d.regionImage off data }) s

/-- One ledger-store write at an address of the store's map (R208 of 07, R553). -/
def storeWrite (addr stamp : Nat) (data : Bytes) (s : State) : State :=
  if addr < 0x20000000 then
    putAccountHalf false (addr / 256 % 2 == 1) (addr / 512) (accountHalfOfBytes data) s
  else if addr < 0x30000000 then
    setDuty (fun d => { d with journalHeld := d.journalHeld ++ [(stamp, addr - 0x20000000, data)] }) s
  else putRegion false (addr - 0x30000000) data s

/-- The bytes of a write as a RECORD carries it (R585). -/
def recordBytes (r : MirrorRecord) : Bytes := le 4 r.addr ++ le 4 r.data.length ++ le 8 r.stamp ++ r.data

/-- The writes of a RECORD payload (R585), at most `n`. -/
def recordWrites : Nat → Bytes → List MirrorRecord
  | 0, _ => []
  | n + 1, b =>
    if b.length < 16 then []
    else
      let len := rd b 4 4
      let r : MirrorRecord := { tick := rd b 8 8, addr := rd b 0 4, stamp := rd b 8 8, data := slice b 16 len }
      r :: recordWrites n (b.drop (16 + len))

/-- The standby mirrors: IN_SYNC, or copying, when new ticks are shipped alongside (R560). -/
def mirroring (s : State) : Bool := s.duty.role == .standby && (s.duty.sync == .inSync || s.duty.sync == .copying)

/-- RECORD: the standby writes into its own store (R553). -/
def takeRecord (p : Bytes) (s : State) : State :=
  if !mirroring s then s
  else
    (recordWrites p.length p).foldl (fun s r =>
      setDuty (fun d => { d with records := d.records ++ [r], shipped := max d.shipped r.tick })
        (storeWrite r.addr r.stamp r.data s)) s

/-- CLOSE: the standby acknowledges the tick once every RECORD of it is written (R553). -/
def takeClose (p : Bytes) (s : State) : State :=
  let tick := rd p 0 8
  let rs := s.duty.records.filter (fun r => r.tick == tick)
  if mirroring s && rs.length == rd p 8 4 && crc32 (rs.flatMap recordBytes) == rd p 12 4 then
    mirrorSend 4 tick (setDuty (fun d => { d with
      acked := d.acked.filter (· != tick) ++ [tick], lastAcked := max d.lastAcked tick, shipped := max d.shipped tick }) s)
  else s

/-- Puts a journal entry received for a tick into the ring, with the jseq it carries (R311 of 09). -/
def mirrorEntry (e : Nat × Nat × Bytes) (s : State) : State :=
  let base := headOffset s.led.record
  let at' := base + (e.2.1 + ringBytes - base % ringBytes) % ringBytes
  let b := e.2.2
  let len := rd b 0 2
  putEntry (rd b 2 2) len (rd b 8 8) (slice b 16 (len - 20)) at' (setLed (fun l => { l with jseq := rd b 4 4 }) s)

/-- The entries of ticks up to `label` enter the ring, in the order received. -/
def mirrorJournal (label : Nat) (s : State) : State :=
  let s := (s.duty.journalHeld.filter (fun e => e.1 ≤ label)).foldl (fun s e => mirrorEntry e s) s
  setDuty (fun d => { d with
    journalHeld := d.journalHeld.filter (fun e => decide (label < e.1)), records := d.records.filter (fun r => decide (label < r.tick))
    acked := d.acked.filter (fun t => decide (label < t)) }) s

/-- The module's own counters of a set at the window that a tick consumed; where that window is not held any more, those that came last
(R557). -/
def ownCounters (m : MetSet) (tick : Nat) : Option (Nat × List Nat) :=
  (countersAt m (tick - 1)).orElse (fun _ => m.delivered.map (fun x => (x.1, x.2.2)))

/-- The standby's own counters at the window a committed tick consumed (R557). -/
def noteCounters (tick : Nat) (s : State) : State :=
  setDuty (fun d => { d with
    ownAtCommit := (s.met.sets.zipIdx).filterMap (fun (m, k) => (ownCounters m tick).map (fun x => (k, x))) }) s

/-- COMMIT: the duty's frontier record becomes the standby's (R553). -/
def takeCommit (p : Bytes) (s : State) : State :=
  let r := frontierOfBytes p
  if !mirroring s || !r.valid || (decide (r.frontier < frontier s) && s.duty.sync == .inSync) then s
  else
    let s := writeFrontier r (mirrorJournal r.frontier s)
    noteCounters r.frontier (setLed (fun l => { l with abortsPending := l.abortsPending.filter (fun t => !r.abortList.contains t) }) s)

/-- ABORT: the tick enters the standby's abort list, what was received of it is dropped (R103 of 04, R553). -/
def takeAbort (p : Bytes) (s : State) : State :=
  let tick := rd p 0 8
  if !mirroring s then s
  else
    setDuty (fun d => { d with
      records := d.records.filter (fun r => r.tick != tick), journalHeld := d.journalHeld.filter (fun e => e.1 != tick)
      acked := d.acked.filter (· != tick), shipped := max d.shipped tick })
      (setLed (fun l => { l with abortsPending := l.abortsPending.filter (· != tick) ++ [tick] }) s)

/-- CONFIG: what the duty writes to its configuration region (R553). -/
def takeConfig (p : Bytes) (s : State) : State :=
  if mirroring s then putRegion false (rd p 0 4) (slice p 8 (rd p 4 4)) s else s

/-- COPY: resynchronisation data; a copied half never replaces one of a later tick (R560). Progress is a free value (log 36: use
60). -/
def takeCopy (p : Bytes) (s : State) : State :=
  if s.duty.role = .standby && s.duty.sync = .copying then
    let off := rd p 4 4
    let data := p.drop 8
    let s := if rd p 0 1 = 0 then putRegion true off data s
      else (pieces 256 (data.length / 256) data).zipIdx.foldl (fun s (b, i) =>
        let h := off / 256 + i
        putAccountHalf true (h % 2 == 1) (h / 2) (accountHalfOfBytes b) s) s
    let d := draw 60 1001 s
    setDuty (fun x => { x with copyPermille := d.1 }) d.2
  else s

/-! ## Contact (R552, R560, R561) -/

/-- This module holds a higher epoch than the duty, or a committed tick that the duty's history lacks (R561; log 36). -/
def splitFrom (s : State) : Bool :=
  laterEpoch s.duty.epoch s.duty.peerEpoch || decide (s.duty.peerFrontier < frontier s) || s.duty.unshared != 0

/-- The resynchronisation starts to copy (R560). -/
def startCopy (s : State) : State :=
  setSync .copying 0 (setDuty (fun d => { d with copyPermille := 0, records := [], journalHeld := [], acked := [] }) s)

/-- A standby meets its duty: it resynchronises, or its history is split (R560, R561). -/
def meetDuty (s : State) : State :=
  if s.duty.sync = .split then s
  else if splitFrom s then raiseFault 0xD3 1 (setSync .split 5 s)
  else startCopy s

/-- This module's (epoch, frontier) is the higher, the even slot winning a tie (R552). -/
def outranks (s : State) : Bool :=
  let e := s.duty.epoch
  let p := s.duty.peerEpoch
  laterEpoch e p || (e == p && (decide (s.duty.peerFrontier < frontier s) || (frontier s == s.duty.peerFrontier && !oddSlot s)))

/-- The standby's state as the duty learns it: a resync ends where it was seen to copy before (R554, R560). -/
def dutyHears (sync : Nat) (s : State) : State :=
  if sync = 2 then
    if s.duty.sync = .copying then
      endFault 0xD1 (setSync .inSync 4 (setDuty (fun d => { d with alone := false, unshared := 0 }) s))
    else s
  else if sync = 1 then setSync .copying 0 s
  else if sync = 3 then (if s.duty.sync = .none then setSync .outOfSync 0 s else s)
  else if sync = 4 then setSync .split 5 s
  else s

/-- A DUTY_YIELD completes when the peer holds the baton at a higher epoch (R570). -/
def finishYield (s : State) : State :=
  match s.duty.yieldRef with
  | some r =>
    if laterEpoch s.duty.peerEpoch s.duty.epoch then
      complete r stOk 0 (le 4 s.duty.peerEpoch) (setDuty (fun d => { d with yieldRef := none }) s)
    else s
  | none => s

/-- HELLO (R552, R553). `fresh` says that contact has just been made. -/
def takeHello (fresh : Bool) (p : Bytes) (s : State) : State :=
  let s := setDuty (fun d => { d with
    peerSerial := rd p 0 8, peerSlot := rd p 8 1, peerRole := rd p 9 1, peerSync := rd p 10 1
    peerEpoch := rd p 12 4, peerFrontier := rd p 16 8 }) s
  let s := learnEpoch (rd p 12 4) s
  match s.duty.role with
  | .single => s
  | .duty => dutyHears (rd p 10 1) s
  | .undecided =>
    if rd p 9 1 = 1 then meetDuty (toRole .standby 0 (finishYield s))
    else if rd p 9 1 = 3 && !s.duty.peerLow then setDuty (fun d => { d with eligible := outranks s }) s
    else s
  | .standby =>
    if rd p 9 1 ≠ 1 then s
    else
      let s := finishYield s
      if s.duty.sync = .none || (fresh && s.duty.sync = .outOfSync) then meetDuty s else s

/-- ACK: the duty may commit the tick (R554). -/
def takeAck (p : Bytes) (s : State) : State :=
  let tick := rd p 0 8
  if s.duty.role = .duty then
    setLed (fun l => { l with ticks := l.ticks.map (fun t => if t.label ≤ tick then { t with awaitingAck := false } else t) })
      (setDuty (fun d => { d with lastAcked := max d.lastAcked tick }) s)
  else s

/-! ## Takeover (R556, R557) -/

/-- Commits, in order, every tick acknowledged and not yet committed (R556 step 2). -/
def commitAcked (s : State) : State :=
  (s.duty.acked.filter (fun t => decide (frontier s < t))).foldl (fun s t =>
    let mine := s.duty.journalHeld.filter (fun e => e.1 ≤ t)
    let head := mine.foldl (fun h e => h + rd e.2.2 0 2) (headOffset s.led.record)
    let r := nextFrontier t s.time.tickTrust head s
    noteCounters t (writeFrontier r (mirrorJournal t s))) s

/-- The RECORDs of ticks never acknowledged are discarded (R556 step 2). -/
def discardRecords (s : State) : State :=
  let gone := (s.duty.records.map (·.tick)).eraseDups
  setDuty (fun d => { d with records := [], journalHeld := [], acked := [] }) (gone.foldl (fun s t => scrubStamps t s) s)

/-- A claim of a pair module is confirmed: the takeover (R556). Its ledger actions and DUTY_CHANGE follow with its first ledger
tick. -/
def takeOver (s : State) : State :=
  let old := s.duty.role
  let e := claimEpoch s
  let s := setDuty (fun d => { d with epoch := e, epochHighest := e, linkEpoch := e, rxSeq := 0, rxPartial := [] }) s
  let s := discardRecords (commitAcked s)
  let s := setTime (fun t => { t with highest := max (max t.highest s.duty.shipped) (frontier s) }) s
  let s := setLed (fun l => { l with lastRound := some (frontier s / 1024) }) s
  let cause := if s.duty.forced then 6 else 1
  traceMode <| setSync .none 0 (setDuty (fun d => { d with
    role := .duty, takeoverDue := true, changeDue := some (1, old.code, cause), eligible := false, forced := false
    alone := false, coupled := false }) s)

/-- What a takeover's first ledger tick does: the former sessions close, EPOCH to every bridge, meter counters resume, radio
connections end, the local sets start from this module's own counters (R556 step 4, R557). -/
def takeoverActions (s : State) : State :=
  if !s.duty.takeoverDue then s
  else
    let s := setDuty (fun d => { d with takeoverDue := false, ownBase := d.ownAtCommit, ownAtCommit := [] }) s
    coldRadio (resumeCounters (stemTakeover (takeoverPoints s)))

/-- BATON_CLAIM_CONFIRM (R550): of two claimants the odd slot gives way. -/
def execBatonClaimConfirm (s : State) : Result :=
  if !s.duty.claiming then .next s
  else if s.duty.peerLow && oddSlot s then
    .next (setDuty (fun d => { d with ownLow := false, claiming := false }) s)
  else
    let s := setDuty (fun d => { d with
      claiming := false, holding := !d.peerLow, lastRoleDuty := true, takeovers := (d.takeovers + 1) % 2 ^ 32 }) s
    .next (driversChanged (if s.duty.role = .single then s else takeOver s))

/-! ## Meanings -/

def execMirrorHello (frame : Bytes) (s : State) : Result :=
  .next (onMirror 1 frame (takeHello (!s.duty.contact)) s)
def execMirrorRecord (frame : Bytes) (s : State) : Result := .next (onMirror 2 frame takeRecord s)
def execMirrorClose (frame : Bytes) (s : State) : Result := .next (onMirror 3 frame takeClose s)
def execMirrorAck (frame : Bytes) (s : State) : Result := .next (onMirror 4 frame takeAck s)
def execMirrorCommit (frame : Bytes) (s : State) : Result := .next (onMirror 5 frame takeCommit s)
def execMirrorAbort (frame : Bytes) (s : State) : Result := .next (onMirror 6 frame takeAbort s)
def execMirrorConfig (frame : Bytes) (s : State) : Result := .next (onMirror 7 frame takeConfig s)
def execMirrorCopy (frame : Bytes) (s : State) : Result := .next (onMirror 8 frame takeCopy s)
def execMirrorDecoupled (frame : Bytes) (s : State) : Result := .next (onMirror 9 frame (fun _ s => loseSync 1 s) s)
/-- MIRROR_YIELD (R553): the duty announces its release; what follows from the line's rise is R550. -/
def execMirrorYield (frame : Bytes) (s : State) : Result := .next (onMirror 10 frame (fun _ s => s) s)

/-- MIRROR_ACK_TIMEOUT (R554): DECOUPLED is sent, and the duty commits alone until a resync completes. -/
def execMirrorAckTimeout (s : State) : Result :=
  match s.led.ticks.find? (·.awaitingAck) with
  | none => .next s
  | some t =>
    let s := mirrorSend 9 t.label s
    let s := setDuty (fun d => { d with coupled := false, alone := true, decouples := (d.decouples + 1) % 2 ^ 32 }) s
    let s := setLed (fun l => { l with ticks := l.ticks.map (fun t => { t with awaitingAck := false }) }) s
    .next (raiseFault 0xD1 1 (setSync .outOfSync 1 s))

/-- MIRROR_SILENCE (R555). -/
def execMirrorSilence (s : State) : Result :=
  .next (loseSync 2 (setDuty (fun d => { d with contact := false, rxPartial := [] }) s))

/-- RESYNC_COMPLETE (R560, R572): the copy is complete and the latest CLOSE, of `tick`, has been acknowledged. -/
def execResyncComplete (tick : Nat) (s : State) : Result :=
  .next (match s.duty.role with
  | .standby =>
    if s.duty.sync ≠ .copying then s
    else
      let s := setDuty (fun d => { d with
        copyPermille := 1000, epoch := d.peerEpoch, unshared := 0, lastAcked := max d.lastAcked tick }) s
      let s := endFault 0xD3 (setSync .inSync 4 s)
      match s.duty.resyncRef with
      | some r =>
        complete r stOk 0 (le 8 (now s + 1) ++ le 4 s.duty.resyncDiscarded)
          (setDuty (fun d => { d with resyncRef := none, resyncDiscarded := 0 }) s)
      | none => s
  | .duty => dutyHears 2 s
  | _ => s)

/-- YIELD_TIMEOUT (R570): the peer has not claimed, so this module claims again. -/
def execYieldTimeout (s : State) : Result :=
  match s.duty.yieldRef with
  | none => .next s
  | some r =>
    if s.duty.peerLow then .next s
    else .next (complete r stNotReady 0 [] (setDuty (fun d => { d with yieldRef := none, eligible := true }) s))

/-- ROLE_DECISION_TIMEOUT (R552): both lines high and no mirror contact for 5 s. -/
def execRoleDecisionTimeout (s : State) : Result :=
  if s.duty.contact || s.duty.peerLow || s.duty.ownLow then .next s
  else
    match s.duty.role with
    | .undecided => .next (setDuty (fun d => { d with eligible := d.eligible || d.lastRoleDuty }) s)
    | .standby => .next (if s.duty.eligible then s else reportFault 0xD1 1 (toRole .undecided 0 (setSync .none 0 s)))
    | _ => .next s

/-! ## Commands (R569 to R572) -/

/-- DUTY_STATUS (R569). -/
def cmdDutyStatus : Cmd := {
  opcode := 0x0D40, role := fun _ => .reader, size := 0
  body := fun _ s =>
    let d := s.duty
    okWith (le 1 d.role.code ++ le 1 d.sync.code ++ le 1 (ofBits [d.ownLow, d.peerLow, d.holding]) ++
      le 1 (ofBits [d.contact, d.coupled, eligible s, d.lastRoleDuty]) ++ le 4 (epochNow s) ++ le 4 d.peerEpoch ++ zeros 4 ++
      le 8 d.peerSerial ++ le 8 d.peerFrontier ++ le 8 d.lastAcked ++ le 2 d.copyPermille ++ zeros 2 ++ le 4 d.takeovers ++
      le 4 d.decouples) s }

/-- DUTY_YIELD (R570). -/
def cmdDutyYield : Cmd := {
  opcode := 0x0D41, role := fun _ => .operator, async := true, size := 8
  body := fun c s =>
    checked [resv c.p 4 4] s
      (if rd c.p 0 4 ≠ epochNow s then fail stDeniedEpoch 0 s
       else if s.duty.role != .duty || s.duty.sync != .inSync then fail stNotReady 0 s
       else
         let s := mirrorSend 10 s.duty.epoch s
         .accepted [] (setDuty (fun d => { d with yieldRef := some c.ref }) (releaseBaton 2 s))) }

/-- DUTY_TAKEOVER (R571): the response names what the claim takes. -/
def cmdDutyTakeover : Cmd := {
  opcode := 0x0D42, role := fun _ => .warden, size := 8
  body := fun c s =>
    let t := setDuty (fun d => { d with forced := true }) s
    checked [resv c.p 4 4] s
      (if rd c.p 0 4 ≠ s.duty.peerEpoch then fail stDeniedEpoch 0 s
       else if s.duty.role == .duty || s.duty.role == .single || !mayClaim t then fail stNotReady 0 s
       else okWith (le 4 (claimEpoch s) ++ le 8 (frontier s)) (claimBaton t)) }

/-- DUTY_RESYNC (R561, R572): with force, the ticks of a split history are discarded and their count journalled. -/
def cmdDutyResync : Cmd := {
  opcode := 0x0D43, role := fun p => if rd p 0 1 = 1 then .warden else .operator, async := true, size := 8
  body := fun c s =>
    let force := rd c.p 0 1 == 1
    checked [inRange 0 (rd c.p 0 1 ≤ 1), resv c.p 1 3] s
      (if rd c.p 4 4 ≠ s.duty.peerEpoch then fail stDeniedEpoch 0 s
       else if s.duty.role != .standby || !s.duty.contact || (s.duty.sync == .split && !force) || s.duty.sync == .inSync ||
          s.duty.sync == .none then fail stNotReady 0 s
       else if s.duty.sync == .copying then fail stBusy 0 s
       else
         let n := if s.duty.sync = .split then frontier s - s.duty.lastAcked else 0
         let s := setDuty (fun d => { d with resyncRef := some c.ref, resyncDiscarded := n, unshared := 0 }) s
         let s := if n = 0 then s
           else
             let e : EventEntry := { kind := 0x0D02, source := s.host.slot, count := 1, firstTick := now s, lastTick := now s
                                     firstUptime := 0, coalesces := false, completion := false
                                     payload := le 1 1 ++ le 1 4 ++ zeros 6 ++ le 8 s.duty.lastAcked }
             journal 6 (eventRecord e 0 ++ le 4 n) s
         .accepted [] (startCopy s)) }

def execDutyStatus (rq : Request) (s : State) : Result := .next (submit cmdDutyStatus rq s)
def execDutyYield (rq : Request) (s : State) : Result := .next (submit cmdDutyYield rq s)
def execDutyTakeover (rq : Request) (s : State) : Result := .next (submit cmdDutyTakeover rq s)
def execDutyResync (rq : Request) (s : State) : Result := .next (submit cmdDutyResync rq s)

end Sys2Proof.Machine
end

