-- ==== Sys2Proof/Machine/FwCampaign.lean ====
section
/-!
DEFINITION. Firmware campaigns of the meters: announce, pass, repair, activation. Chapter 12 of the spec (R421, R423, R424).
-/

namespace Sys2Proof.Machine

/-- Changes a campaign. -/
def setCampaign (n : Nat) (f : Campaign → Campaign) (s : State) : State :=
  match Tab.get s.mtr.campaigns n with
  | some c => setMtr (fun t => { t with campaigns := Tab.put t.campaigns n (f c) }) s
  | none => s

/-- Code of a campaign phase (R425). -/
def CampaignPhase.code : CampaignPhase → Nat
  | .announce => 0 | .pass => 1 | .repair => 2 | .activated => 3 | .paused => 4 | .aborted => 5

/-- Targets that hold the whole image: state 2, or 4 after it. -/
def Campaign.complete (c : Campaign) : Nat := c.targets.countP (fun e => e.2.state == some 2 || e.2.state == some 4 || e.2.activated)
/-- Targets counted as activated (R423). -/
def Campaign.activated (c : Campaign) : Nat := c.targets.countP (fun e => e.2.activated)
/-- Targets that failed so far: a failed hash or activation, and once activated those left behind or given up. -/
def Campaign.failures (c : Campaign) : Nat :=
  c.failed + c.targets.countP (fun e => e.2.state == some 3 || e.2.state == some 5)

/-- FW_CAMPAIGN (R425). -/
def campaignEvent (n : Nat) (s : State) : State :=
  match Tab.get s.mtr.campaigns n with
  | some c => raiseEvent 0x0906 n true (le 1 c.phase.code ++ zeros 3 ++ le 4 c.targets.length ++ le 4 c.complete ++ le 4 c.activated) s
  | none => s

/-- Takes a campaign to a phase, and reports it. -/
def campaignTo (n : Nat) (p : CampaignPhase) (s : State) : State :=
  campaignEvent n (setCampaign n (fun c => { c with phase := p, asked := false, repaired := false }) s)

/-- The staged image of a campaign, none while it is damaged (R205 of 07). -/
def campaignImage (s : State) (c : Campaign) : Option MeterImage := (Tab.get s.mtr.images c.slot).filter (·.verified)
/-- The segments of 80 B of an image. -/
def segmentsOf (x : MeterImage) : Nat := ceilDiv x.len 80

/-- The body of FW_BLOCK. -/
def blockBody (n seg : Nat) (x : MeterImage) : Bytes := le 2 n ++ zeros 2 ++ le 4 seg ++ pad 80 ((x.data.drop (80 * seg)).take 80)

/-- Messages of a type for a campaign that wait at an account. -/
def campaignWaits (s : State) (n a type : Nat) : Bool :=
  match meterOf s a with
  | some m => m.queue.any (fun x => x.type == type && rd x.body 0 2 == n)
  | none => false

/-- Takes a campaign's waiting messages from a meter's queue. -/
def dropCampaignMsgs (n a : Nat) (types : List Nat) (s : State) : State :=
  setMeter a (fun m => { m with queue := m.queue.filter (fun x => !(types.contains x.type && rd x.body 0 2 == n)) }) s

/-- Segments a target lacks, as its latest FW_STATUS shows them: those whose bit equals the bit of the first missing segment
(R423; DEDUCED log 28). -/
def missingOf (t : FwTarget) (total : Nat) : List Nat :=
  let v := rd t.bitmap 0 64
  ((List.range 512).filter (fun i => v.testBit i == v.testBit 0 && decide (t.firstMissing + i < total))).map (t.firstMissing + ·)

/-- Routes whose members hear every copy: those of the power-line targets that are no beginning of another (R423). -/
def coverRoutes (s : State) (b : Nat) (c : Campaign) : List (List Nat) :=
  let l := ((c.targets.filter (fun e => e.2.bridge == b && !e.2.radio)).map (fun e =>
    (nodeAt s b (committedAccount s e.1).node).relays.map (·.node))).eraseDups
  l.filter (fun p => !l.any (fun q => q != p && q.take p.length == p))

/-- Copies of one segment for a network: one per route, one for its radio targets. -/
def copiesOf (s : State) (b seg : Nat) (c : Campaign) : List (Nat × Bool × List Nat) :=
  (coverRoutes s b c).map (fun p => (seg, false, p)) ++
    (if c.targets.any (fun e => e.2.bridge == b && e.2.radio) then [(seg, true, [])] else [])

/-- A FW_BLOCK multicast on the power line along a route (R379 of 11, R421, R423). -/
def multicastPlc (b n : Nat) (c : Campaign) (x : MeterImage) (seg : Nat) (path : List Nat) (s : State) : Option State :=
  let t := planTick s b
  let p := profileAt s b t
  let y := netAt s b
  let node := path.getLast?.getD addrBridge
  let direct := (c.targets.filter (fun e => e.2.bridge == b && !e.2.radio)).map (fun e => (committedAccount s e.1).node)
  let first := match path with
    | [] => (direct.map (fun d => linkMod (Tab.getD y.links (linkKey addrBridge d) {}) p.modMax)).foldl min p.modMax
    | h :: _ => linkMod (Tab.getD y.links (linkKey addrBridge h) {}) p.modMax
  let relays := relaysOf y p.modMax path node
  let dst := 0x200 + c.group
  let phases := if path.isEmpty then (direct.map (nodePhases s b)).foldl (· ||| ·) 0 else routePhases s b path node
  let len := 15 + 2 * relays.length + 92 + 8
  let us := plcAirtime len first p.toneMask + (relays.map (fun r => 2000 + plcAirtime len r.on p.toneMask)).foldl (· + ·) 0 + 2000
  if !mayPlan s || !bridgeReady s b || !channelsFree s b phases t (ceilDiv us 1000) then none
  else
    let k := groupNext b c.group s
    let key := keyFor 0 (groupHandle s b c.group) k.2
    match key.1 with
    | none => none
    | some g =>
      let head := plcHeader 5 b dst addrBridge 0 false relays 0 k.1 y.nextTx 0xFFFF
      let frame := plcSeal g head (le 1 msgFwBlock ++ zeros 3 ++ blockBody n seg x) b addrBridge dst k.1 5
      let s := setNet b (fun z => { z with nextTx := (z.nextTx + 1) % 256 }) key.2
      some (sendPlan b { first := t, offset := 0, ticks := ceilDiv (plcAirtime len first p.toneMask) 1000, medium := phases
                         atten := planAtten (permitAt s b t) phases, planId := 0, frame := frame, channel := first }
        (occupy b phases t us s))

/-- A FW_BLOCK multicast on the radio: on channel 0 between connection events (R423). -/
def multicastRadio (b n : Nat) (c : Campaign) (x : MeterImage) (seg : Nat) (s : State) : Option State :=
  match rfAt s b with
  | none => none
  | some r =>
    let t := planTick s b
    let us := radioAirtime r.config.mode 113
    if !radioPlans s b t || !dutyRoom s r us || !streamFree s b r t (ceilDiv us 1000) then none
    else
      let dst := 0x200 + c.group
      let k := groupNext b c.group s
      let key := keyFor 0 (groupHandle s b c.group) k.2
      match key.1 with
      | none => none
      | some g =>
        let head := radioHeader 5 false false false b dst k.1 0 0
        some (sendRadio b t 0 (radioSeal g head (le 1 msgFwBlock ++ zeros 3 ++ blockBody n seg x) b dst k.1 5) key.2)

/-- One copy of a network's list is sent, where its channel is free. -/
def sendCopy (b n : Nat) (x : MeterImage) (s : State) : State :=
  match Tab.get s.mtr.campaigns n with
  | none => s
  | some c =>
    match Tab.getD c.copies b [] with
    | [] => s
    | (seg, radio, path) :: rest =>
      match (if radio then multicastRadio b n c x seg s else multicastPlc b n c x seg path s) with
      | none => s
      | some s => setCampaign n (fun c => { c with copies := Tab.put c.copies b rest }) s

/-- FW_ANNOUNCE to each target, and the group's key where it lacks it (R421, R423). -/
def announce (n : Nat) (c : Campaign) (x : MeterImage) (s : State) : State :=
  (c.targets.filter (fun e => !e.2.announced)).foldl (fun s e =>
    let s := queueGroupKey e.2.bridge e.1 c.group 4 s
    let s := queueNow e.1 msgFwAnnounce 4 (le 2 n ++ le 1 c.group ++ zeros 1 ++ le 4 x.len ++ le 4 (segmentsOf x) ++ le 4 x.model ++
      pad 32 x.sha) s
    setCampaign n (fun c => { c with targets := Tab.upd c.targets e.1 e.2 (fun t => { t with announced := true }) }) s) s

/-- The pass on every network: the next segment's copies, until the last segment (R423). -/
def passStep (n : Nat) (c : Campaign) (x : MeterImage) (nets : List Nat) (s : State) : State :=
  let s := nets.foldl (fun s b =>
    let i := Tab.getD c.cursor b 0
    if (Tab.getD c.copies b []).isEmpty && i < segmentsOf x then
      setCampaign n (fun c => { c with copies := Tab.put c.copies b (copiesOf s b i c), cursor := Tab.put c.cursor b (i + 1) }) s
    else s) s
  nets.foldl (fun s b => sendCopy b n x s) s

/-- Targets a repair round is for. -/
def incomplete (c : Campaign) : List (Nat × FwTarget) :=
  c.targets.filter (fun e => !(e.2.state == some 2 || e.2.state == some 3 || e.2.state == some 4 || e.2.state == some 5))

/-- The member has acknowledged the key of the group's current generation (R421). -/
def hasGroupKey (s : State) (b a g : Nat) : Bool :=
  match meterOf s a with
  | some m => m.groupKeys.contains (b, g, Tab.getD s.mtr.groupGen (64 * b + g) 0)
  | none => false

/-- A repair round (R423): FW_QUERY to each incomplete target. A segment missing at repair_mc_min targets of a network is
multicast again. Other missing segments are sent unicast, and so is every one that a target lacks which no multicast of the group counts
as reaching (R421). -/
def repairStep (n : Nat) (c : Campaign) (x : MeterImage) (nets : List Nat) (s : State) : State :=
  let todo := incomplete c
  if !c.asked then
    let s := todo.foldl (fun s e => queueNow e.1 msgFwQuery 4 (le 2 n ++ zeros 2 ++ le 4 e.2.firstMissing) s) s
    setCampaign n (fun c => { c with asked := true, repairRound := c.repairRound + 1 }) s
  else if todo.any (fun e => campaignWaits s n e.1 msgFwQuery) then s
  else if !c.repaired then
    let s := nets.foldl (fun s b =>
      let here := todo.filter (fun e => e.2.bridge == b && e.2.state == some 1)
      let lacks := here.map (fun e => (e.1, missingOf e.2 (segmentsOf x)))
      let segs := (lacks.flatMap (·.2)).eraseDups
      let multi := segs.filter (fun g => decide (c.repairMcMin ≤ lacks.countP (fun l => l.2.contains g)))
      let s := setCampaign n (fun c => { c with copies := Tab.put c.copies b (multi.flatMap (fun g => copiesOf s b g c)) }) s
      lacks.foldl (fun s l => (l.2.filter (fun g => !multi.contains g || !hasGroupKey s b l.1 c.group)).foldl (fun s g =>
        queueNow l.1 msgFwBlock 4 (blockBody n g x) s) s) s) s
    setCampaign n (fun c => { c with repaired := true }) s
  else
    let s := nets.foldl (fun s b => sendCopy b n x s) s
    let busy := nets.any (fun b => !(Tab.getD c.copies b []).isEmpty) || todo.any (fun e => campaignWaits s n e.1 msgFwBlock)
    if busy || c.repairRounds ≤ c.repairRound || todo.isEmpty then s
    else setCampaign n (fun c => { c with asked := false, repaired := false }) s

/-- Networks of a campaign that has targets on them and whose polls are not suspended (R424). -/
def campaignNets (s : State) (c : Campaign) : List Nat :=
  ((c.targets.map (·.2.bridge)).eraseDups).filter (fun b =>
    bridgeReady s b || (match rfAt s b with
      | some r => r.config.kind != 0 && radioHears s b
      | none => false))

/-- One batch of FW_PUSH for one campaign (R423, R424). -/
def campaignStep (n : Nat) (s : State) : State :=
  match Tab.get s.mtr.campaigns n with
  | none => s
  | some c =>
    match campaignImage s c with
    | none => s
    | some x =>
      if c.ended then s
      else
        let nets := campaignNets s c
        match c.phase with
        | .announce =>
          let s := announce n c x s
          let waits := c.targets.any (fun e => !e.2.announced || campaignWaits s n e.1 msgFwAnnounce)
          if waits then s else campaignTo n .pass s
        | .pass =>
          let s := passStep n c x nets s
          let all := (c.targets.map (·.2.bridge)).eraseDups
          if all.all (fun b => decide (segmentsOf x ≤ Tab.getD c.cursor b 0) && (Tab.getD c.copies b []).isEmpty) then
            campaignTo n .repair s
          else s
        | .repair => repairStep n c x nets s
        | _ => s

/-- FW_PUSH: one batch (R424). -/
def runFwPush (s : State) : State := (s.mtr.campaigns.map (·.1)).foldl (fun s n => campaignStep n s) s

/-- Ends a campaign; the sixteen latest stay readable (R434). -/
def endCampaign (n : Nat) (s : State) : State :=
  let s := setCampaign n (fun c => { c with ended := true }) s
  let l := (n :: s.mtr.ended.filter (fun m => m != n))
  setMtr (fun t => { t with ended := l.take 16, campaigns := (l.drop 16).foldl (fun c m => Tab.del c m) t.campaigns }) s

/-- A campaign's completion payload (R433). -/
def campaignResult (c : Campaign) : Bytes :=
  le 4 c.targets.length ++ le 4 c.activated ++ le 4 (c.targets.length - c.activated) ++ zeros 4

/-- A campaign whose activations have all been answered or given up is over: its command completes (R433). -/
def campaignOver (n : Nat) (s : State) : State :=
  match Tab.get s.mtr.campaigns n with
  | none => s
  | some c =>
    let open' := c.targets.any (fun e => e.2.activateSent && !e.2.activated && e.2.state != some 5 &&
      (e.2.state == some 4 || campaignWaits s n e.1 msgFwActivate) &&
      (campaignWaits s n e.1 msgFwActivate || ((meterOf s e.1).map (fun m => m.queue.any (fun x => x.type == msgIdentify))).getD false))
    if c.phase ≠ .activated || c.ended || open' then s
    else
      let s := match c.ref with
        | some r => complete r stOk 0 (campaignResult c) s
        | none => s
      endCampaign n (campaignEvent n s)

/-- Campaigns at a tick start. -/
def campaignsTick (s : State) : State := (s.mtr.campaigns.map (·.1)).foldl (fun s n => campaignOver n s) s

/-- The activation time of a campaign (R423, R424): every target in state 2 is sent FW_ACTIVATE, the others count as failed. -/
def activateCampaign (n : Nat) (s : State) : State :=
  match Tab.get s.mtr.campaigns n with
  | none => s
  | some c =>
    if c.ended || c.phase = .activated || c.phase = .paused || c.phase = .aborted then s
    else
      let ready := c.targets.filter (fun e => e.2.state == some 2)
      let s := c.targets.foldl (fun s e => dropCampaignMsgs n e.1 [msgFwAnnounce, msgFwBlock, msgFwQuery] s) s
      let s := ready.foldl (fun s e => queueNow e.1 msgFwActivate 4 (le 2 n ++ zeros 6 ++ le 8 c.activateTime) s) s
      let s := setCampaign n (fun c => { c with
        copies := []
        failed := c.targets.countP (fun e => !(e.2.state == some 2 || e.2.state == some 3 || e.2.state == some 5))
        targets := c.targets.map (fun e => (e.1, { e.2 with activateSent := e.2.activateSent || e.2.state == some 2 })) }) s
      campaignTo n .activated s

/-- A FW_STATUS (R423): state 0 leaves the target out. After state 4 the meter is asked for its IDENTITY (log 28). -/
def takeFwStatus (m : InMsg) (body : Bytes) (s : State) : State :=
  let n := rd body 0 2
  let a := m.account
  let st := rd body 2 1
  match Tab.get s.mtr.campaigns n with
  | none => s
  | some c =>
    match Tab.get c.targets a with
    | none => s
    | some t =>
      if c.ended || 5 < st then s
      else
        let s := dropCampaignMsgs n a [msgFwAnnounce, msgFwQuery, msgFwActivate] s
        let s := if st = 0 then setCampaign n (fun c => { c with targets := Tab.del c.targets a }) s
          else setCampaign n (fun c => { c with targets := Tab.put c.targets a { t with
            state := some st, firstMissing := rd body 4 4, bitmap := slice body 8 64 } }) s
        let s := if st = 4 && !t.activated then queueNow a msgIdentify 4 [] s else s
        campaignEvent n s

/-- After a cold start a running campaign continues at the repair phase (R424). -/
def coldCampaigns (s : State) : State :=
  setMtr (fun t => { t with campaigns := t.campaigns.map (fun e => (e.1,
    if e.2.ended then e.2
    else if e.2.phase = .announce || e.2.phase = .pass || e.2.phase = .repair then
      { e.2 with phase := .repair, asked := false, repaired := false, copies := [] }
    else if e.2.phase = .paused then { e.2 with resumeTo := .repair, asked := false, repaired := false, copies := [] }
    else e.2)) }) s

/-! ## Meanings -/

/-- SEPAL_FW_STATUS (R423). -/
def execSepalFwStatus (account : Nat) (s : State) : Result :=
  .next (if sepalUp s then onMessage account 0x88 takeFwStatus s else s)

/-- FW_CAMPAIGN_ACTIVATE (R423). -/
def execFwCampaignActivate (campaign : Nat) (s : State) : Result :=
  .next (if sepalUp s then activateCampaign campaign s else s)

end Sys2Proof.Machine
end

