-- ==== Sys2Proof/Machine/StemCommands.lean ====
section
/-!
DEFINITION. The STEM_ and PLC_ commands, and the activation of transmit plans and power-line profiles. Chapter 11 of the
spec (R390 to R396).
-/

namespace Sys2Proof.Machine

/-- Number of bridges in a phase. -/
def bridgesIn (s : State) (p : BridgePhase) : Nat := s.stem.bridges.countP (fun e => e.2.phase == p)

/-- STEM_STATUS (R390). -/
def cmdStemStatus : Cmd := {
  opcode := 0x0800, role := fun _ => .reader, size := 0
  body := fun _ s =>
    okWith (le 2 (admitted s).length ++ le 2 (bridgesIn s .online) ++ le 2 (bridgesIn s .silent) ++ le 2 (bridgesIn s .lost) ++
      le 2 (bridgesIn s .fenced) ++ leS 2 s.stem.offset ++ le 4 (8 * s.stem.bytesPrev / 1024000) ++ le 8 s.stem.accepted ++
      le 8 s.stem.dropped ++ le 4 s.stem.repairs ++ le 4 s.stem.samplesLost) s }

/-- A set of the active calibration record is local and three-phase four-wire (R240 of 08, R391). -/
def localThreePhase (s : State) (set : Nat) : Bool :=
  s.met.calib.sets.any (fun x => x.set == set && x.kind == 3 && x.location == 0)

/-- The local bridge equivalent of a kind is assigned to another bridge. -/
def equivalentTaken (s : State) (b kind : Nat) : Bool :=
  s.stem.bridges.any (fun e => e.1 != b && e.2.phase != .absent && e.2.config.kind == kind)

/-- Checks of an admit or modify of STEM_BRIDGE_SET (R391). -/
def bridgeConfigChecks (p : Bytes) (s : State) : List Check :=
  let kind := rd p 3 1
  let away := kind == 0
  let silence := rd p 16 2
  [inRange 3 (kind ≤ 2), field 3 (away || !equivalentTaken (bridgesAhead s) (rd p 0 2) kind),
    field 4 ((rd p 4 8 != 0) == away), inRange 12 (rd p 12 1 ≤ 15),
    inRange 13 (if away then rd p 13 1 == 0xFF else decide (rd p 13 1 ≤ 15)), field 13 (away || localThreePhase s (rd p 13 1)),
    field 14 (decide (rd p 14 1 < 8)), field 14 (away || !(rd p 14 1).testBit 1), inRange 15 (rd p 15 1 ≤ 32),
    inRange 16 (silence == 0 || (decide (16 ≤ silence) && decide (silence ≤ 255))), resv p 18 2]

/-- Reads the configuration of STEM_BRIDGE_SET. -/
def readBridgeConfig (p : Bytes) : BridgeConfig := {
  kind := rd p 3 1, serial := rd p 4 8, profile := rd p 12 1, lvSet := rd p 13 1, streams := rd p 14 1, holeWait := rd p 15 1
  silenceTicks := if rd p 16 2 = 0 then 64 else rd p 16 2 }

/-- STEM_BRIDGE_SET (R371, R391): accepted where the state machine takes it, in effect at the next tick. -/
def cmdStemBridgeSet : Cmd := {
  opcode := 0x0801, role := fun _ => .operator, size := 20, dryrun := true, standby := true
  body := fun c s =>
    let b := rd c.p 0 2
    let action := rd c.p 2 1
    let rest : List Check :=
      if action ≤ 1 then bridgeConfigChecks c.p s
      else [field 3 (rd c.p 3 1 == 0), field 4 (rd c.p 4 8 == 0), field 12 (rd c.p 12 1 == 0), field 13 (rd c.p 13 1 == 0),
        field 14 (rd c.p 14 1 == 0), field 15 (rd c.p 15 1 == 0), field 16 (rd c.p 16 2 == 0), resv c.p 18 2]
    checked ([inRange 0 (b ≤ 8191), inRange 2 (action ≤ 3)] ++ rest) s
      (let change : StemChange := { bridge := b, action := action, config := readBridgeConfig c.p }
       match bridgeChange change (bridgesAhead s) with
       | none => fail stNotReady 0 s
       | some after =>
         let x := bridgeAt after b
         okWith (le 1 x.phase.code ++ zeros 3 ++ le 4 ((x.current.map (·.epoch)).getD 0))
           (setStem (fun t => { t with changes := t.changes ++ [change] }) s)) }

/-- The pending transmit plan generation, if there is one. -/
def pendingPlan (s : State) : Option PendingGen := pendingGen s (5, 0)

/-- A table of permits with one entry for `count` bridges. -/
def permitRange (l : Table TxPermit) (first count : Nat) (p : TxPermit) : Table TxPermit :=
  l.filter (fun e => e.1 < first) ++ (List.range count).map (fun i => (first + i, p)) ++ l.filter (fun e => first + count ≤ e.1)

/-- STEM_TX_SET (R375, R392): a change is added to a pending generation, whose tick becomes the later of the two. -/
def cmdStemTxSet : Cmd := {
  opcode := 0x0802, role := fun _ => .operator, async := true, size := 24, dryrun := true, standby := true
  body := fun c s =>
    let first := rd c.p 0 2
    let count := rd c.p 2 2
    checked [inRange 0 (first ≤ 8191), inRange 2 (1 ≤ count && first + count ≤ 8192), field 4 (decide (rd c.p 4 1 < 16)),
        inRange 5 (rd c.p 5 1 ≤ 31), inRange 6 (rd c.p 6 1 ≤ 31), inRange 7 (rd c.p 7 1 ≤ 31),
        inRange 8 (activationTick (.txPlan []) (rd c.p 8 8) s).isSome, groupCheck c.p 16 17, resv c.p 18 6] s
      (if armBusy (.txPlan []) s then fail stBusy 1 s
       else match activationTick (.txPlan []) (rd c.p 8 8) s with
         | none => fail stOutOfRange 24 s
         | some tick =>
           let old := pendingPlan s
           let at' := max tick ((old.map (·.tick)).getD 0)
           let base := match old.map (·.table) with
             | some (.txPlan l) => l
             | _ => s.stem.permits
           let permits := permitRange base first count
             { media := rd c.p 4 1, minAtten := [rd c.p 5 1, rd c.p 6 1, rd c.p 7 1] }
           let refs := match old with
             | some g => g.ref.toList ++ g.refs
             | none => []
           let s := { s with gens := { s.gens with waiting := s.gens.waiting.filter (fun g => g.table.key != (5, 0)) } }
           .accepted (le 8 at') (withdrawPlans at' (armGen {
             table := .txPlan permits, opcode := 0x0802, tick := at', groupId := rd c.p 16 1, groupMembers := rd c.p 17 1
             ref := some c.ref, refs := refs } s))) }

/-- A transmit plan generation activates (R14, R392). -/
def applyTxPlan (g : PendingGen) (permits : Table TxPermit) (s : State) : State :=
  (g.ref.toList ++ g.refs).foldl (fun s r => complete r stOk 0 (le 8 g.tick) s)
    (setStem (fun t => { t with permits := permits }) s)

/-- Polls of a bridge's networks are suspended: it is not ONLINE, or has no time lock (R371, R376). -/
def pollsSuspended (s : State) (b : Nat) : Bool := !bridgeReady s b

/-- STEM_BRIDGE_READ (R393). The 99.9th percentile of the uplink delay is a free value (log 12: use 33). -/
def cmdStemBridgeRead : Cmd := {
  opcode := 0x0810, role := fun _ => .reader, size := 4
  body := fun c s =>
    let b := rd c.p 0 2
    let x := bridgeAt s b
    checked [inRange 0 (b ≤ 8191), resv c.p 2 2] s
      (if x.phase = .absent then fail stNotReady 0 s
       else
         let d := draw 33 (2 ^ 32) s
         let st := x.status
         okWith (le 1 x.phase.code ++ le 1 x.config.kind ++
           le 1 (ofBits [x.timeLocked || x.config.kind != 0, pollsSuspended s b, x.clockFault, st.supply.testBit 1]) ++
           le 1 (leadTicks s b) ++ le 4 ((x.current.map (·.epoch)).getD 0) ++ le 8 x.lastSample ++ le 4 st.dlDelayMaxUs ++
           le 4 d.1 ++ le 8 ((x.current.map (·.accepted)).getD 0) ++
           le 4 (cap 0xFFFFFFFF ((x.drops.map (·.2)).foldl (· + ·) 0)) ++ le 4 x.holes ++ le 4 x.samplesLost ++
           le 4 st.txAborted ++ le 4 st.plansRefused ++ leS 4 st.timeErrorNs ++ leS 2 st.temperature ++ zeros 2) d.2) }

/-- PLC_POLL_SET (R394): the profile is armed as a generation. -/
def cmdPlcPollSet : Cmd := {
  opcode := 0x0840, role := fun _ => .operator, size := 24, dryrun := true, standby := true
  body := fun c s =>
    let p := c.p
    let i := rd p 0 1
    let mask := rd p 16 5
    let prof : PlcProfile := {
      maxHops := rd p 1 1, retries := rd p 2 1, modMax := rd p 3 1, readPeriodS := rd p 4 2, contactPeriodS := rd p 6 2
      discoverPeriodS := rd p 8 4, alertSlots := rd p 12 1, toneMask := mask }
    let t : GenTable := .plcProfile i prof
    checked [inRange 0 (i ≤ 15), inRange 1 (1 ≤ rd p 1 1 && rd p 1 1 ≤ 8), inRange 2 (rd p 2 1 ≤ 3), inRange 3 (rd p 3 1 ≤ 3),
        inRange 4 (300 ≤ rd p 4 2 && rd p 4 2 ≤ 3600), inRange 6 (10 ≤ rd p 6 2 && rd p 6 2 ≤ 600),
        inRange 8 (60 ≤ rd p 8 4 && rd p 8 4 ≤ 86400), inRange 12 (rd p 12 1 ≤ 8), resv p 13 3,
        field 16 (decide (mask < 2 ^ 36) && decide (18 ≤ popcount mask 36)), resv p 21 3] s
      (if armBusy t s then fail stBusy 1 s
       else match activationTick t 0 s with
         | none => fail stOutOfRange 16 s
         | some tick => okWith (le 8 tick) (armGen { table := t, opcode := 0x0840, tick := tick } s)) }

/-- A power-line profile activates (R14, R394). -/
def applyPlcProfile (i : Nat) (p : PlcProfile) (s : State) : State :=
  setStem (fun t => { t with profiles := modAt t.profiles i (fun _ => p) }) s

/-- PLC_NETWORK_READ (R395). A three-phase node counts under each phase (log 26). -/
def cmdPlcNetworkRead : Cmd := {
  opcode := 0x0850, role := fun _ => .reader, size := 4
  body := fun c s =>
    let b := rd c.p 0 2
    let x := bridgeAt s b
    checked [inRange 0 (b ≤ 8191), resv c.p 2 2] s
      (if x.phase = .absent || !x.config.streams.testBit 0 then fail stNotReady 0 s
       else
         let n := netAt s b
         let nodes := (accountsOn s b false).map (fun a => nodeAt s b (committedAccount s a).node)
         let running := n.discovering.isSome || !n.discoverQueue.isEmpty
         let unknown := nodes.countP (fun y => y.ident.isNone)
         okWith (le 2 b ++ le 1 x.phase.code ++ le 1 (ofBits [pollsSuspended s b, running]) ++ le 2 nodes.length ++
           le 2 unknown ++ le 4 (cap 0xFFFFFFFF n.alertsPrev) ++ le 4 n.unknownMeters ++
           (List.range 3).flatMap (fun i =>
             let on := nodes.filter (fun y => y.ident == some i || y.ident == some 3)
             le 2 on.length ++ le 2 (on.countP (fun y => y.phase == .routed)) ++
               le 2 (on.countP (fun y => y.phase == .unreachable)) ++ le 2 (n.airPrev.getD i 0 / 1024) ++
               le 4 (n.countPrev.getD i 0) ++ le 4 (n.failedPrev.getD i 0))) s) }

/-- PLC_NODE_READ (R396). A node not heard of yet is undiscovered (log 26). -/
def cmdPlcNodeRead : Cmd := {
  opcode := 0x0851, role := fun _ => .reader, size := 4
  body := fun c s =>
    let b := rd c.p 0 2
    let i := rd c.p 2 2
    checked [inRange 0 (b ≤ 8191), inRange 2 (i ≤ 511)] s
      (if (bridgeAt s b).phase = .absent then fail stNotReady 0 s
       else
         let n := nodeAt s b i
         let a := accountNaming s b i false
         let m := a.bind (meterOf s)
         let known := n.phase != .unrouted || n.lastContact != 0
         let code : Nat := match n.phase with
           | .unrouted => 0 | .routed => 1 | .unreachable => 2
         okWith (le 8 (if known then (m.map (·.serial)).getD 0 else 0) ++ le 4 (a.getD 0xFFFFFFFF) ++ le 1 code ++
           le 1 (n.ident.getD 0xFF) ++ le 1 (n.observed.countP (fun o => o.isSome && o == n.ident)) ++ le 1 n.relays.length ++
           pad 16 (n.relays.flatMap relayBytes) ++ le 4 n.cost ++ le 4 ((m.map (·.up)).getD 0) ++ le 4 ((m.map (·.down)).getD 0) ++
           le 1 (n.snr.getD 0xFF) ++ zeros 3 ++ le 8 n.lastContact) s) }

/-- STEM_STATUS. -/
def execStemStatus (rq : Request) (s : State) : Result := .next (submit cmdStemStatus rq s)
/-- STEM_BRIDGE_SET. -/
def execStemBridgeSet (rq : Request) (s : State) : Result := .next (submit cmdStemBridgeSet rq s)
/-- STEM_TX_SET. -/
def execStemTxSet (rq : Request) (s : State) : Result := .next (submit cmdStemTxSet rq s)
/-- STEM_BRIDGE_READ. -/
def execStemBridgeRead (rq : Request) (s : State) : Result := .next (submit cmdStemBridgeRead rq s)
/-- PLC_POLL_SET. -/
def execPlcPollSet (rq : Request) (s : State) : Result := .next (submit cmdPlcPollSet rq s)
/-- PLC_NETWORK_READ. -/
def execPlcNetworkRead (rq : Request) (s : State) : Result := .next (submit cmdPlcNetworkRead rq s)
/-- PLC_NODE_READ. -/
def execPlcNodeRead (rq : Request) (s : State) : Result := .next (submit cmdPlcNodeRead rq s)

end Sys2Proof.Machine
end

