-- ==== Sys2Proof/Machine/MtrCommands.lean ====
section
/-!
DEFINITION. The RF_ and MTR_ commands. Chapter 12 of the spec (R426 to R434).
-/

namespace Sys2Proof.Machine

/-- The first block number past a band (R398). -/
def bandBlocks (band : Nat) : Nat := match band with
  | 0 => 32 | 1 => 64 | _ => 12

/-- Checks of a network's radio configuration (R426). -/
def rfChecks (p : Bytes) : List Check :=
  let mode := rd p 5 1
  let map := rd p 6 1
  let interval := if rd p 8 2 = 0 then 1024 else rd p 8 2
  let sup := rd p 12 4
  [inRange 3 (rd p 3 1 ≤ 2), inRange 4 (rd p 4 1 < bandBlocks (rd p 3 1)), inRange 5 (mode ≤ 4),
    field 6 (decide (1 ≤ map) && decide (map ≤ 3) && (decide (mode ≤ 2) || map == 1)), inRange 7 (rd p 7 1 ≤ 31),
    inRange 8 (50 ≤ interval && interval ≤ 16384), inRange 10 (1024 ≤ rd p 10 2 && rd p 10 2 ≤ 16384),
    inRange 12 (500 ≤ sup && sup ≤ 120000 && 6 * interval ≤ sup), inRange 16 (1 ≤ rd p 16 1 && rd p 16 1 ≤ 16), resv p 17 1,
    inRange 18 (1 ≤ rd p 18 2 && rd p 18 2 ≤ 1000), resv p 20 4]

/-- Reads the configuration of RF_NETWORK_SET. -/
def readRf (p : Bytes) : RfConfig := {
  kind := rd p 2 1, band := rd p 3 1, block := rd p 4 1, mode := rd p 5 1, map := rd p 6 1, atten := rd p 7 1
  interval := if rd p 8 2 = 0 then 1024 else rd p 8 2
  beacon := rd p 10 2, supervision := rd p 12 4, advSlots := rd p 16 1, dutyPermille := rd p 18 2 }

/-- The transceiver of a kind is bound, or about to be, to another bridge ID (R426). -/
def transceiverTaken (s : State) (b kind : Nat) : Bool :=
  s.mtr.rf.any (fun e => e.1 != b && e.2.config.kind == kind && kind != 0) ||
    s.gens.waiting.any (fun g => match g.table with
      | .rfNet c (some x) => c != b && x.kind == kind && kind != 0
      | _ => false)

/-- RF_NETWORK_SET (R401, R426): armed as a generation of the network. -/
def cmdRfNetworkSet : Cmd := {
  opcode := 0x0901, role := fun _ => .operator, size := 24, dryrun := true, standby := true
  body := fun c s =>
    let p := c.p
    let b := rd p 0 2
    let kind := rd p 2 1
    let x := bridgeAt (bridgesAhead s) b
    let t : GenTable := .rfNet b (if kind = 3 then none else some (readRf p))
    let rest : List Check :=
      if kind ≤ 2 then rfChecks p
      else (List.range 21).map (fun i => field (3 + i) (rd p (3 + i) 1 == 0))
    checked ([inRange 0 (b ≤ 8191), inRange 2 (kind ≤ 3)] ++ rest) s
      (if kind = 0 && (x.phase = .absent || !x.config.streams.testBit 1) then fail stNotReady 0 s
       else if (kind = 1 || kind = 2) && (x.phase ≠ .absent || transceiverTaken s b kind) then fail stNotReady 0 s
       else if armBusy t s then fail stBusy 1 s
       else match activationTick t 0 s with
         | none => fail stOutOfRange 16 s
         | some tick => okWith (le 8 tick) (armGen { table := t, opcode := 0x0901, tick := tick } s)) }

/-- RF_NETWORK_READ (R427). -/
def cmdRfNetworkRead : Cmd := {
  opcode := 0x0910, role := fun _ => .reader, size := 4
  body := fun c s =>
    let b := rd c.p 0 2
    checked [inRange 0 (b ≤ 8191), resv c.p 2 2] s
      (match rfAt s b with
       | none => fail stNotReady 0 s
       | some r =>
         let count := fun (ph : ConnPhase) => r.conns.countP (fun e => e.2.phase == ph)
         let holding := !dutyRoom s r (radioAirtime r.config.mode 123)
         okWith (le 1 r.config.kind ++ le 1 r.config.band ++ le 1 r.config.block ++ le 1 r.config.mode ++ le 1 r.config.map ++
           le 1 (ofBits [r.mismatch, holding, r.slotsExhausted]) ++ le 2 (count .connected) ++ le 2 (count .connecting) ++
           le 2 (freeSlots r) ++ le 4 r.advertsPrev ++ le 4 r.refused ++ le 4 r.micFailures ++ le 4 r.replays ++
           le 2 (onAirUs s r / 3600000) ++ zeros 2 ++ le 8 r.lastBeacon) s) }

/-- Ticks of supervision left on a connection. -/
def supervisionLeft (s : State) (c : RfConn) : Nat :=
  let from' : Int := if c.lastValid = 0 then c.anchor else c.lastValid
  ((c.supervision : Int) - ((now s : Int) - from')).toNat

/-- RF_CONN_READ (R428). -/
def cmdRfConnRead : Cmd := {
  opcode := 0x0911, role := fun _ => .reader, size := 4
  body := fun c s =>
    let b := rd c.p 0 2
    let n := rd c.p 2 2
    checked [inRange 0 (b ≤ 8191), inRange 2 (n ≤ 511)] s
      (match accountNaming s b n true with
       | none => fail stNotReady 0 s
       | some a =>
         let x := (connOf s b n).getD { account := a }
         let m := (meterOf s a).getD { serial := 0 }
         let code : Nat := match x.phase with
           | .unconnected => 0 | .connecting => 1 | .connected => 2
         let on := x.phase != .unconnected
         okWith (le 1 code ++ le 1 (if on then x.map else 0) ++ le 2 (if on then x.interval else 0) ++ le 4 x.event ++
           leS 8 (if on then x.anchor else 0) ++ le 4 m.up ++ le 4 m.down ++ le 4 x.retransmissions ++ le 4 x.missed ++
           le 1 (x.snr.getD 0xFF) ++ le 1 m.keyGen ++ zeros 2 ++ le 4 (if on then supervisionLeft s x else 0) ++ le 8 x.lastValid) s) }

/-- Bindings with the changes accepted for the next tick: serial by account. -/
def bindingsAhead (s : State) : Table Nat :=
  s.mtr.changes.foldl (fun l c => if c.1 then Tab.put l c.2.2 c.2.1 else Tab.del l c.2.2) (s.mtr.meters.map (fun e => (e.1, e.2.serial)))

/-- MTR_BIND (R410, R429): in effect at the next tick. -/
def cmdMtrBind : Cmd := {
  opcode := 0x0940, role := fun _ => .operator, size := 16, dryrun := true, standby := true
  body := fun c s =>
    let serial := rd c.p 0 8
    let a := rd c.p 8 4
    let bind := rd c.p 12 1 == 0
    let l := bindingsAhead s
    checked [field 0 (serial != 0), accountCheck c.p 8, inRange 12 (rd c.p 12 1 ≤ 1), resv c.p 13 3] s
      (if bind && 1048576 ≤ l.length then fail stResourceExhausted 0 s
       else if bind && (l.any (fun e => e.2 == serial) || (Tab.get l a).isSome) then fail stNotReady 0 s
       else if !bind && Tab.get l a ≠ some serial then fail stNotReady 0 s
       else okWith [] (setMtr (fun t => { t with changes := t.changes ++ [(bind, serial, a)] }) s)) }

/-- The meter is routed on the power line, or connected on the radio. -/
def meterReached (s : State) (a : Nat) : Bool :=
  let r := committedAccount s a
  if r.phase = .unused then false
  else if r.radio then ((connOf s r.bridge r.node).map (fun c => c.phase == .connected && c.account == a)).getD false
  else (nodeAt s r.bridge r.node).phase == .routed

/-- MTR_READ (R430). -/
def cmdMtrRead : Cmd := {
  opcode := 0x0941, role := fun _ => .reader, size := 4
  body := fun c s =>
    let a := rd c.p 0 4
    checked [inRange 0 (a < 2 ^ 20)] s
      (match meterOf s a with
       | none => fail stNotReady 0 s
       | some m =>
         okWith (le 8 m.serial ++ le 4 m.model ++ le 4 m.fw ++ le 1 m.phases ++ le 1 m.capabilities ++
           le 1 (committedAccount s a).radio.toNat ++ le 1 (meterReached s a).toNat ++ le 4 (m.creditAcked.getD 0) ++ le 1 m.relay ++
           le 1 m.lastEventKind ++ le 2 (m.lastEventSeq.getD 0) ++ zeros 4 ++ le 8 m.lastContact ++ le 8 m.lastReading) s) }

/-- MTR_REQUEST (R431). -/
def cmdMtrRequest : Cmd := {
  opcode := 0x0942, role := fun _ => .operator, async := true, size := 8
  body := fun c s =>
    let a := rd c.p 0 4
    let action := rd c.p 4 1
    checked [accountCheck c.p 0, inRange 4 (action ≤ 3), resv c.p 5 3] s
      (match meterOf s a with
       | none => fail stNotReady 0 s
       | some m =>
         if !meterReached s a then fail stNotReady 0 s
         else if m.request.isSome then fail stBusy 0 s
         else
           let s := setMeter a (fun m => { m with request := some { ref := c.ref, action := action, at' := s.time.uptime } }) s
           let send := fun (type : Nat) => queueMsg a { type := type, body := [], level := 1, since := now s, request := some c.ref } s
           .accepted [] (if action = 0 then send msgReadReq
             else if action = 1 then send msgIdentify
             else if action = 2 then startKeyChange a (some c.ref) s
             else send msgTime)) }

/-- A campaign that runs. -/
def Campaign.running (c : Campaign) : Bool := !c.ended

/-- A slot is used by a running campaign (R432). -/
def slotUsed (s : State) (slot : Nat) : Bool :=
  s.mtr.campaigns.any (fun e => e.2.running && e.2.slot == slot) && ((Tab.get s.mtr.images slot).map (·.verified)).getD false

/-- MTR_FW_STAGE (R432): the image follows as pages; the request names no CRC for it. -/
def cmdMtrFwStage : Cmd := {
  opcode := 0x0950, role := fun _ => .operator, async := true, size := 48, stream := true
  body := fun c s =>
    let ch := rd c.p 0 1
    let slot := rd c.p 1 1
    let len := rd c.p 8 4
    checked [inRange 0 (1 ≤ ch && ch ≤ 7), inRange 1 (slot ≤ 15), resv c.p 2 2, inRange 4 (rd c.p 4 4 != 0),
        inRange 8 (1 ≤ len && len ≤ 8388608)] s
      (if slotUsed s slot || !channelIdle s ch then fail stBusy 0 s
       else .accepted [] (openChannel ch .fromHost {
         ref := c.ref, opcode := 0x0950, transferId := rd c.p 4 4, request := c.rq, dryrun := c.dry, expected := len, crc := 0
         lenOff := 24, crcOff := 0, startedAt := s.time.uptime } s)) }

/-- The pages of MTR_FW_STAGE have arrived whole (R432). -/
def imageReceived (t : Transfer) (s : State) : State :=
  let p := t.request.args
  let slot := rd p 1 1
  if slotUsed s slot then complete t.ref stBusy 0 [] s
  else if sha256 t.data ≠ slice p 16 32 then complete t.ref stBadField 32 [] s
  else
    complete t.ref stOk 0 [] (setMtr (fun m => { m with images := Tab.put m.images slot {
      len := rd p 8 4, model := rd p 12 4, sha := slice p 16 32, data := t.data, verified := true } }) s)

/-- The lowest group that no running campaign uses on a network of a range (R421, R433). -/
def freeGroup (s : State) (first count : Nat) : Option Nat :=
  (List.range 63).find? (fun g => !s.mtr.campaigns.any (fun e =>
    e.2.running && e.2.group == g && decide (e.2.first < first + count) && decide (first < e.2.first + e.2.count)))

/-- Meters that a campaign is for (R423). -/
def campaignTargets (s : State) (first count model : Nat) : Table FwTarget :=
  s.mtr.meters.filterMap (fun e =>
    let r := committedAccount s e.1
    if e.2.model = model && r.phase ≠ .unused && first ≤ r.bridge && r.bridge < first + count then
      some (e.1, { bridge := r.bridge, radio := r.radio }) else none)

/-- Starts a campaign; its group takes the next generation on each network of its targets (R421; log 28). -/
def startCampaign (n g : Nat) (c : Ctx) (s : State) : State :=
  let p := c.p
  let first := rd p 4 2
  let count := rd p 6 2
  let model := ((Tab.get s.mtr.images (rd p 3 1)).map (·.model)).getD 0
  let targets := campaignTargets s first count model
  let nets := (targets.map (·.2.bridge)).eraseDups
  campaignEvent n (setMtr (fun t => { t with
    groupGen := nets.foldl (fun l b => Tab.upd l (64 * b + g) 0 (fun x => (x + 1) % 256)) t.groupGen
    ended := t.ended.filter (fun m => m != n)
    campaigns := Tab.put t.campaigns n {
      ref := some c.ref, slot := rd p 3 1, first := first, count := count, activateTime := rd p 8 8, repairRounds := rd p 16 1
      repairMcMin := rd p 17 1, group := g, targets := targets } }) s)

/-- Actions 1 to 3 of MTR_FW_CAMPAIGN on a running campaign (R433). -/
def campaignAction (n action : Nat) (s : State) : State :=
  match Tab.get s.mtr.campaigns n with
  | none => s
  | some c =>
    if action = 1 then
      if c.phase = .paused then s
      else campaignEvent n (setCampaign n (fun c => { c with phase := .paused, resumeTo := c.phase }) s)
    else if action = 2 then
      if c.phase = .paused then
        let s := campaignEvent n (setCampaign n (fun c => { c with phase := c.resumeTo }) s)
        if c.activateTime ≤ now s then activateCampaign n s else s
      else s
    else
      let s := c.targets.foldl (fun s e => dropCampaignMsgs n e.1 [msgFwAnnounce, msgFwBlock, msgFwQuery, msgFwActivate] s) s
      let s := setCampaign n (fun c => { c with copies := [] }) s
      let s := match c.ref with
        | some r => complete r stOk 0 (campaignResult c) s
        | none => s
      endCampaign n (campaignTo n .aborted s)

/-- MTR_FW_CAMPAIGN (R423, R424, R433). It raises group-key generations, which the topology snapshot keeps (R518 of 15), so a standby
refuses it (R127 of 05). -/
def cmdMtrFwCampaign : Cmd := {
  opcode := 0x0951, role := fun _ => .operator, async := true, size := 24, standby := true
  body := fun c s =>
    let p := c.p
    let n := rd p 0 2
    let action := rd p 2 1
    let old := (Tab.get s.mtr.campaigns n).filter (·.running)
    let rest : List Check :=
      if action = 0 then [field 0 old.isNone, inRange 3 (rd p 3 1 ≤ 15), inRange 4 (rd p 4 2 ≤ 8191),
        inRange 6 (1 ≤ rd p 6 2 && rd p 4 2 + rd p 6 2 ≤ 8192), inRange 8 (now s + 10000 ≤ rd p 8 8),
        inRange 16 (1 ≤ rd p 16 1 && rd p 16 1 ≤ 16), inRange 17 (1 ≤ rd p 17 1), resv p 18 6]
      else (List.range 21).map (fun i => field (3 + i) (rd p (3 + i) 1 == 0))
    checked ([inRange 0 (1 ≤ n), inRange 2 (action ≤ 3)] ++ rest) s
      (if action = 0 then
         if !((Tab.get s.mtr.images (rd p 3 1)).map (·.verified)).getD false then fail stNotReady 0 s
         else if 4 ≤ s.mtr.campaigns.countP (fun e => e.2.running) then fail stResourceExhausted 0 s
         else match freeGroup s (rd p 4 2) (rd p 6 2) with
           | none => fail stResourceExhausted 0 s
           | some g => .accepted [] (startCampaign n g c s)
       else match old with
         | none => fail stNotReady 0 s
         | some x => .accepted [] (complete c.ref stOk 0 (campaignResult x) (campaignAction n action s))) }

/-- MTR_FW_STATUS (R434). -/
def cmdMtrFwStatus : Cmd := {
  opcode := 0x0952, role := fun _ => .reader, size := 4
  body := fun c s =>
    checked [resv c.p 2 2] s
      (match Tab.get s.mtr.campaigns (rd c.p 0 2) with
       | none => fail stNotReady 0 s
       | some x =>
         okWith (le 1 x.phase.code ++ le 1 x.repairRound ++ zeros 2 ++ le 4 x.targets.length ++ le 4 x.complete ++ le 4 x.activated ++
           le 4 x.failures ++ le 4 (((campaignImage s x).map segmentsOf).getD 0) ++ le 8 x.activateTime) s) }

/-- RF_NETWORK_SET. -/
def execRfNetworkSet (rq : Request) (s : State) : Result := .next (submit cmdRfNetworkSet rq s)
/-- RF_NETWORK_READ. -/
def execRfNetworkRead (rq : Request) (s : State) : Result := .next (submit cmdRfNetworkRead rq s)
/-- RF_CONN_READ. -/
def execRfConnRead (rq : Request) (s : State) : Result := .next (submit cmdRfConnRead rq s)
/-- MTR_BIND. -/
def execMtrBind (rq : Request) (s : State) : Result := .next (submit cmdMtrBind rq s)
/-- MTR_READ. -/
def execMtrRead (rq : Request) (s : State) : Result := .next (submit cmdMtrRead rq s)
/-- MTR_REQUEST. -/
def execMtrRequest (rq : Request) (s : State) : Result := .next (submit cmdMtrRequest rq s)
/-- MTR_FW_STAGE. -/
def execMtrFwStage (rq : Request) (s : State) : Result := .next (submit cmdMtrFwStage rq s)
/-- MTR_FW_CAMPAIGN. -/
def execMtrFwCampaign (rq : Request) (s : State) : Result := .next (submit cmdMtrFwCampaign rq s)
/-- MTR_FW_STATUS. -/
def execMtrFwStatus (rq : Request) (s : State) : Result := .next (submit cmdMtrFwStatus rq s)

end Sys2Proof.Machine
end

