-- ==== Sys2Proof/Machine/Service.lean ====
section
/-!
DEFINITION. Images, boot banks, the live update of GL-F and the trace: the SVC_ commands. Chapter 18 of the spec (R593 to R605,
R611 to R619). The Folset restart stands in Machine/Folset.lean.
-/

namespace Sys2Proof.Machine

/-- Changes the service part. -/
def setSvc (f : SvcState → SvcState) (s : State) : State := { s with svc := f s.svc }

/-! ## Images (R593) -/

/-- The image key's public point (R593): held in boot ROM, its value is not in the spec. -/
def imageKey : Bytes := (List.range 96).map Config.imageKeyByte

/-- Longest image of a target (R593). -/
def imageLimit (target : Nat) : Nat := if target = 0 then 2097152 else if target = 1 then 2096896 else 1048576

/-- An image, header first, is accepted under R593 against a security floor. -/
def imageGood (floor : Nat) (b : Bytes) : Bool :=
  let body := b.drop 256
  rd b 0 4 == 0x49474C47 && rd b 4 2 == 1 && rd b 6 1 ≤ 4 && rd b 7 1 < 2 && (rd b 6 1 == 1 || rd b 8 2 == 0) &&
  decide (rd b 0x14 4 = body.length ∧ body.length ≤ imageLimit (rd b 6 1)) && slice b 0x20 32 == sha256 body &&
  rd b 0x18 4 == 0x42 && decide (floor ≤ rd b 0x10 4) &&
  verifyHashed 384 true imageKey (slice b 0 128) (ofBe (slice b 0x80 48)) (ofBe (slice b 0xB0 48))

/-- What a bank keeps of an image. -/
def imageOf (b : Bytes) : BankImage := {
  version := rd b 10 2, build := rd b 12 4, security := rd b 0x10 4, hash := slice b 0x20 32, body := b }

/-- Folset version of an image, as IDENT_FOLSET has it (R113 of 05). -/
def BankImage.ident (i : BankImage) : Nat := i.version * 65536 + i.build % 65536

/-! ## Banks (R213 of 07, R594) -/

/-- Folset version of a bank; 0 where it holds none. -/
def folsetOf (b : Bank) : Nat := (b.folset.map BankImage.ident).getD 0

/-- Every security version of a bank's components. -/
def securities (b : Bank) : List Nat :=
  (b.folset.toList.map (·.security)) ++ b.kernels.map (·.2.security) ++ b.staged.map (·.2.security) ++ b.glf.map (·.2.security)

/-- Code of the build bank's state (SVC_STATUS). -/
def BuildPhase.code : BuildPhase → Nat
  | .none => 0 | .copying => 1 | .valid => 2 | .invalid => 3

/-- Code of the update in progress (SVC_STATUS). -/
def UpdatePhase.code : UpdatePhase → Nat
  | .idle => 0 | .loading => 1 | .quiescing => 2 | .switched => 2 | .probation => 3 | .glf => 4

/-- UPDATE_STEP and its trace record (R604, R612): target, step, bank, kernel, version. -/
def updateStep (target step : Nat) (bankB : Bool) (kernel version : Nat) (s : State) : State :=
  let s := raiseEvent 0x0F00 target false (le 1 step ++ le 1 bankB.toNat ++ le 2 kernel ++ le 4 version ++ le 8 (now s)) s
  traceWrite 8 target (le 1 step ++ zeros 3 ++ le 4 version ++ zeros 8) s

/-- A stage receives its data now. -/
def staging (s : State) : Bool := s.host.channels.any (fun ch => match ch.transfer with
  | some t => t.opcode == 0x0F01
  | none => false)

/-- The first staging after a commit copies the active bank into the build bank; a later one writes to the bank that stands. Either way
the build bank is not valid until the write is complete (R594). -/
def beginStage (s : State) : State :=
  if s.svc.build = .valid || s.svc.build = .copying then
    let s := setBuildBank (fun b => { b with valid := false }) s
    { s with mem := { s.mem with bootWriting := true } }
  else
    let a := activeBank s
    let low := (buildBank s).seq
    let s := setBuildBank (fun _ => { a with seq := if low < a.seq then low else a.seq - 1, valid := false }) s
    { s with svc := { s.svc with build := .copying }, mem := { s.mem with bootWriting := true } }

/-- A stage has ended: the copy is complete and its CRC checked, so that the build bank is valid but not active (R594). -/
def endStage (s : State) : State :=
  let writing := s.mem.bootWriting
  let s := { s with mem := { s.mem with bootWriting := false } }
  if writing then setSvc (fun v => { v with build := .valid }) (setBuildBank (fun b => { b with valid := true }) s)
  else s

/-- Writes a component of the build bank (R594). -/
def writeImage (slot : Nat) (b : Bytes) (s : State) : State :=
  let img := imageOf b
  let staged : StagedImage := { kernel := rd b 8 2, version := img.version, security := img.security, hash := img.hash }
  setBuildBank (fun k =>
    match rd b 6 1 with
    | 0 => { k with folset := some img }
    | 1 => { k with staged := Tab.put k.staged slot staged }
    | t => { k with glf := Tab.put k.glf t img }) s

/-- Why an image received is not staged (R593, R597, R614), if it is not: status and detail. The fields are those of the
command that named target and slot. -/
def stageRefused (target : Nat) (b : Bytes) (s : State) : Option (Nat × Nat) :=
  if rd b 6 1 ≠ target then some (stBadField, 17)
  else if !imageGood s.svc.securityFloor b then some (stBadField, 0)
  else if target = 1 && (findKernel (rd b 8 2)).isNone then some (stBadField, 0)
  else if bit (rd b 7 1) 0 && sealClosed s 2 then some (stDeniedSeal, 2)
  else none

/-- A component has been staged (R612). -/
def stageDone (slot : Nat) (b : Bytes) (s : State) : State :=
  let s := endStage (writeImage slot b s)
  let t := rd b 6 1
  updateStep (if t = 0 then 0 else if t = 1 then 2 else 1) 1 (!activeB s) (rd b 8 2) (imageOf b).ident s

/-- An image that fails R593 is a class-C report (R611). -/
def imageReport (r : Nat × Nat) (s : State) : State := if r.1 = stBadField then reportFault 0xF3 1 s else s

/-- Completes a received SVC_STAGE transfer (R594, R614). -/
def imageStaged (t : Transfer) (s : State) : State :=
  let p := t.request.args
  match stageRefused (rd p 1 1) t.data s with
  | some r =>
    let s := if t.dryrun then s else imageReport r (endStage s)
    complete t.ref r.1 r.2 [] s
  | none =>
    let s := if t.dryrun then s else stageDone (rd p 2 1) t.data s
    complete t.ref stOk 0 (slice t.data 10 2 ++ slice t.data 8 2 ++ slice t.data 0x10 4 ++ zeros 8) s

/-- A staged image slot is in use by a roll (R614). -/
def slotRolling (s : State) (slot : Nat) : Bool := match s.yrw.roll with
  | some r => r.slot == slot
  | none => false

/-- SVC_STAGE (R594, R614). An update runs from its acceptance to the end of its probation (log 37). -/
def cmdSvcStage : Cmd := {
  opcode := 0x0F01, role := fun _ => .operator, async := true, size := 16, dryrun := true, stream := true
  body := fun c s =>
    let ch := rd c.p 0 1
    let target := rd c.p 1 1
    let slot := rd c.p 2 1
    let len := rd c.p 8 4
    checked [inRange 0 (1 ≤ ch && ch ≤ 7), inRange 1 (target ≤ 4), inRange 2 (if target = 1 then slot ≤ 7 else slot == 0),
        resv c.p 3 1, inRange 4 (rd c.p 4 4 != 0), inRange 8 (decide (257 ≤ len ∧ len ≤ imageLimit target + 256))] s
      (if !channelIdle s ch || s.svc.phase != .idle || (target == 1 && slotRolling s slot) then fail stBusy 0 s
       else
         let s := if c.dry then s else beginStage s
         .accepted [] (receiveTransfer c 0x0F01 ch (rd c.p 4 4) len (rd c.p 12 4) 8 12 s)) }

/-- The build bank is committed: it becomes the active bank, and the security floor follows its components (R594, R616). -/
def commitBank (s : State) : State :=
  let seq := (activeBank s).seq + 1
  let floor := (securities (buildBank s)).foldl max s.svc.securityFloor
  let version := folsetOf (buildBank s)
  let s := setBuildBank (fun b => { b with seq := seq }) s
  let s := setSvc (fun v => { v with
    build := .none, securityFloor := floor, lastCommitTick := now s
    phase := if v.phase = .probation then .idle else v.phase }) s
  updateStep 2 5 (activeB s) 0 version s

/-- A bank of SVC_BANK. -/
def bankAt (s : State) (b : Nat) : Bank := if b = 1 then s.mem.bankB else s.mem.bankA

/-- SVC_BANK response (R616). -/
def bankBytes (s : State) : Bytes :=
  let seqOf (b : Bank) := if b.valid then b.seq else 0
  le 1 (activeB s).toNat ++ le 1 s.svc.build.code ++ zeros 2 ++ le 4 (seqOf s.mem.bankA) ++ le 4 (seqOf s.mem.bankB) ++
    le 4 (folsetOf s.mem.bankA) ++ le 4 (folsetOf s.mem.bankB)

/-- Makes the inactive bank active (R616, action 3). -/
def useBank (s : State) : State :=
  let seq := (activeBank s).seq + 1
  let s := setSvc (fun v => { v with build := .none }) (setBuildBank (fun b => { b with seq := seq }) s)
  updateStep 2 5 (activeB s) 0 (folsetOf (activeBank s)) s

/-- Discards the build bank (R616, action 2). -/
def discardBank (s : State) : State :=
  let version := folsetOf (buildBank s)
  let s := setSvc (fun v => { v with build := .none }) (setBuildBank (fun b => { b with valid := false }) s)
  updateStep 2 7 (!activeB s) 0 version s

/-- A stage, an update before its probation, or a roll is running (R616). -/
def bankBusy (s : State) : Bool :=
  staging s || !(s.svc.phase == .idle || s.svc.phase == .probation) || s.yrw.roll.isSome

/-- Why an action of SVC_BANK is refused: status and detail. -/
def bankRefused (action bank : Nat) (s : State) : Option (Nat × Nat) :=
  let named := bankAt s bank
  if action = 3 && named.valid && (securities named).any (fun v => decide (v < s.svc.securityFloor)) then some (stBadField, 17)
  else if action ≠ 0 && bankBusy s then some (stBusy, 0)
  else if action = 1 && s.svc.build ≠ .valid then some (stNotReady, 0)
  else if action = 2 && s.svc.build = .none then some (stNotReady, 0)
  else if action = 3 && (!named.valid || (bank == 1) == activeB s) then some (stNotReady, 0)
  else none

/-- Carries out an action of SVC_BANK. -/
def bankAction (action : Nat) (s : State) : State :=
  if action = 1 then commitBank s else if action = 2 then discardBank s else if action = 3 then useBank s else s

/-- SVC_BANK (R616). -/
def cmdSvcBank : Cmd := {
  opcode := 0x0F03, role := fun p => if rd p 0 1 = 0 then .reader else if rd p 0 1 = 3 then .warden else .operator
  size := 4, dryrun := true
  body := fun c s =>
    let a := rd c.p 0 1
    let b := rd c.p 1 1
    checked [inRange 0 (a ≤ 3), inRange 1 (if a = 3 then b ≤ 1 else b == 0), resv c.p 2 2] s
      (match bankRefused a b s with
       | some (st, d) => fail st d s
       | none =>
         let s := bankAction a s
         okWith (bankBytes s) s) }

/-! ## SVC_STATUS (R613) -/

/-- Seconds of probation left, a part of a second counting as one (log 37). -/
def probationLeft (s : State) : Nat :=
  if s.svc.phase = .probation then cap 0xFFFFFFFF (ceilDiv (s.svc.probationEnd - s.time.uptime) 1000) else 0

/-- A tail slot is valid (R607): the power-down record of its record_id has progress bit 7 set. -/
def tailValid (s : State) (k : Nat) : Bool :=
  match s.svc.tails.getD k none with
  | none => false
  | some (id, _) => [s.pwr.recordA, s.pwr.recordB].any (fun r => r.valid && r.recordId == id && r.progress.testBit 7)

/-- SVC_STATUS (R613). -/
def cmdSvcStatus : Cmd := {
  opcode := 0x0F00, role := fun _ => .reader, size := 0
  body := fun _ s =>
    let v := s.svc
    okWith (le 1 (activeB s).toNat ++ le 1 v.build.code ++ le 1 v.phase.code ++
      le 1 (ofBits [v.frozen, tailValid s 0, tailValid s 1, v.runningB != activeB s]) ++ le 4 s.fol.version ++
      le 4 (if v.build = .none then 0 else folsetOf (buildBank s)) ++ le 4 v.securityFloor ++ le 4 (probationLeft s) ++
      le 4 v.traceSeq ++ le 4 (cap 0xFFFFFFFF v.lostTotal) ++ le 1 (maskOf ((buildBank s).staged.map (·.1))) ++ zeros 3 ++
      le 8 v.lastCommitTick) s }

/-! ## GL-F firmware (R601) -/

/-- GL-F drives no field output: the safe state is applied, or a pair member does not hold the baton (R601). -/
def glfIdle (s : State) : Bool := s.flt.safe || (s.duty.role != .single && !s.duty.holding)

/-- A sealed GL-F part of the build bank differs from the running one (R615). -/
def sealedGlfDiffers (s : State) : Bool :=
  [3, 4].any (fun t => match Tab.get (buildBank s).glf t with
    | some i => i.hash != (Tab.getD s.svc.glf t {}).hash
    | none => false)

/-- Version of the GL-F field part that runs (log 37). -/
def glfVersion (s : State) : Nat := (Tab.getD s.svc.glf 2 {}).ident

/-- Completion payload of SVC_UPDATE. -/
def updatePayload (version : Nat) (s : State) : Bytes := le 4 version ++ zeros 4 ++ le 8 s.svc.switchTick

/-- Satellites whose firmware differs from the sealed set's new member are updated over the ring, and those shut out for it are bound
(R256, R601). -/
def updateSatellites (s : State) : State :=
  [0, 1].foldl (fun s i => (List.range 16).foldl (fun s p =>
    let x := ringPos s i p
    if (x.status = 1 || x.status = 4 || x.status = 5) && x.firmware != (satelliteFirmware s).hash then
      updateFirmware i p (setRingPos i p (fun x => { x with status := if x.status = 4 then 1 else x.status }) s)
    else s) s) s

/-- GLF_SWITCH_COMPLETE (R601): a failed post-switch self-test reverts to the firmware GL-F still holds. -/
def execGlfSwitchComplete (passed : Bool) (s : State) : Result :=
  if s.svc.phase ≠ .glf then .next s
  else
    let ref := s.svc.updateRef
    let s := setSvc (fun v => { v with phase := .idle, updateRef := none }) s
    if passed then
      let s := setSvc (fun v => { v with glf := (buildBank s).glf.foldl (fun t e => Tab.put t e.1 e.2) v.glf }) s
      let s := settleKernelSet (updateSatellites s)
      let s := updateStep 1 3 (!activeB s) 0 (glfVersion s) s
      .next (match ref with
        | some r => complete r stOk 0 (updatePayload (glfVersion s) s) s
        | none => s)
    else
      let s := updateStep 1 4 (!activeB s) 0 (glfVersion s) (reportFault 0xF6 1 s)
      .next (match ref with
        | some r => complete r stInternal 2 [] s
        | none => s)

/-! ## Trace (R604, R605, R617 to R619) -/

/-- Bytes of a trace record (R604). -/
def traceBytes (r : TraceRecord) : Bytes :=
  let len := 16 * traceUnits r.payload
  let b := le 1 r.kind ++ le 1 (len / 16) ++ le 2 r.source ++ le 4 r.seq ++ le 8 r.tick ++ le 4 r.offset ++
    pad (len - 24) r.payload
  if r.lost then lostBytes r.seq len else b ++ le 4 (crc32 b)

/-- SVC_TRACE_CONFIG (R605, R617). A count of lost records is reported when writing resumes. -/
def cmdSvcTraceConfig : Cmd := {
  opcode := 0x0F10, role := fun _ => .operator, size := 8
  body := fun c s =>
    let unfreeze := rd c.p 0 1 == 1
    let post := rd c.p 4 2
    checked [inRange 0 (rd c.p 0 1 ≤ 1), field 1 (rd c.p 1 1 < 8), inRange 1 (!unfreeze || rd c.p 1 1 == 0), field 2 (rd c.p 2 1 < 8),
        inRange 2 (!unfreeze || rd c.p 2 1 == 0), resv c.p 3 1,
        inRange 4 (if unfreeze then post == 0 else post ≤ 1023), resv c.p 6 2] s
      (if unfreeze then
         if !s.svc.frozen then fail stNotReady 0 s
         else
           let lost := s.svc.lost
           let s := setSvc (fun v => { v with frozen := false, trigger := none }) s
           okWith [] (if 0 < lost then raiseFault 0xF4 1 s else s)
       else okWith [] (setSvc (fun v => { v with enable := rd c.p 1 1, freezeClasses := rd c.p 2 1, postBlocks := post }) s)) }

/-- Records held of a source: the ring, or a valid tail slot. -/
def traceSource (s : State) (source : Nat) : Option (List TraceRecord) :=
  if source = 0 then some s.svc.trace
  else if tailValid s (source - 1) then (s.svc.tails.getD (source - 1) none).map (·.2)
  else none

/-- Records from a trace_seq on; none where it is not held (R618). -/
def traceFrom (rs : List TraceRecord) (seq : Nat) : Option (List TraceRecord) :=
  if seq = 0xFFFFFFFF then some rs
  else if rs.any (fun r => r.seq == seq) then some (rs.dropWhile (fun r => r.seq != seq))
  else none

/-- SVC_TRACE_EXPORT (R618). -/
def cmdSvcTraceExport : Cmd := {
  opcode := 0x0F11, role := fun _ => .reader, async := true, size := 16
  body := fun c s =>
    let ch := rd c.p 0 1
    let n := rd c.p 12 4
    checked [inRange 0 (1 ≤ ch && ch ≤ 7), inRange 1 (rd c.p 1 1 ≤ 2), resv c.p 2 2, inRange 4 (rd c.p 4 4 != 0),
        inRange 12 (1 ≤ n && n ≤ 1048576)] s
      (match (traceSource s (rd c.p 1 1)).bind (fun rs => traceFrom rs (rd c.p 8 4)) with
       | none => fail stNotReady 0 s
       | some rs =>
         if !channelIdle s ch then fail stBusy 0 s
         else
           let sent := rs.take n
           let t : Transfer := { ref := c.ref, opcode := 0x0F11, transferId := rd c.p 4 4, request := c.rq, dryrun := false
                                 expected := 0, crc := 0 }
           .accepted [] (complete c.ref stOk 0 (le 4 sent.length ++ zeros 4)
             (sendTransfer ch t (packRecords (sent.map traceBytes) []) s))) }

/-- SVC_TRACE_MARK (R605, R619). -/
def cmdSvcTraceMark : Cmd := {
  opcode := 0x0F12, role := fun _ => .operator, size := 20
  body := fun c s =>
    checked [field 16 (rd c.p 16 1 ≤ 1), resv c.p 17 3] s
      (if s.svc.frozen then fail stNotReady 0 s
       else
         let s := traceWrite 11 0 (slice c.p 0 16) s
         if s.svc.frozen then fail stNotReady 0 s
         else
         let seq := (s.svc.traceSeq + 2 ^ 32 - 1) % 2 ^ 32
         okWith (le 4 seq) (if rd c.p 16 1 = 1 then traceTrigger 2 11 s else s)) }

/-- TRACE_FREEZE (R605): the blocks after the trigger have been written, and TRACE_FROZEN is raised. -/
def execTraceFreeze (s : State) : Result :=
  match s.svc.trigger with
  | none => .next s
  | some (b, seq, kind) =>
    if !s.svc.frozen && s.svc.block < b + s.svc.postBlocks then .next s
    else
      let s := setSvc (fun v => { v with frozen := true, trigger := none }) s
      .next (raiseEvent 0x0F01 0 false (le 4 seq ++ le 1 kind ++ zeros 11) s)

def execSvcStatus (rq : Request) (s : State) : Result := .next (submit cmdSvcStatus rq s)
def execSvcStage (rq : Request) (s : State) : Result := .next (submit cmdSvcStage rq s)
def execSvcBank (rq : Request) (s : State) : Result := .next (submit cmdSvcBank rq s)
def execSvcTraceConfig (rq : Request) (s : State) : Result := .next (submit cmdSvcTraceConfig rq s)
def execSvcTraceExport (rq : Request) (s : State) : Result := .next (submit cmdSvcTraceExport rq s)
def execSvcTraceMark (rq : Request) (s : State) : Result := .next (submit cmdSvcTraceMark rq s)

end Sys2Proof.Machine
end

