-- ==== Sys2Proof/Machine/Sessions.lean ====
section
/-!
DEFINITION. The SYS_ commands of identity, sessions, the stream port and the life-cycle. Chapter 05 of the spec (R130 to R135,
R152 to R157).
-/

namespace Sys2Proof.Machine

/-! ## SYS_IDENTIFY (R152) -/

/-- SHA-256 of the module's identity public key, which manufacture fixes (R506 of 15). -/
def identityHash : Bytes := sha256 (publicPoint p256 (ofBe ((List.range 32).map Config.identityByte)))

/-- SYS_IDENTIFY, served in every life-cycle state; in SCRAPPED the key's hash reads zero (R520 of 15). -/
def cmdSysIdentify : Cmd := {
  opcode := 0x0100, role := fun _ => .none, size := 0, lifecycle := fun _ => true, clear := true
  body := fun _ s =>
    okWith (le 2 0x1024 ++ le 1 s.host.variantS.toNat ++ le 1 0x42 ++ le 1 1 ++ le 1 0 ++ le 1 s.svc.runningB.toNat ++
      le 1 s.fol.lifecycle.code ++ le 8 s.host.serial ++ le 4 s.fol.version ++ le 4 s.yrw.kernelSetId ++
      le 4 s.met.calib.calibId ++ le 1 s.host.slot ++ le 1 s.duty.role.code ++ le 1 s.yrw.spares ++ zeros 1 ++
      (if s.fol.lifecycle = .scrapped then zeros 32 else identityHash)) s }

/-! ## Sessions -/

/-- Roles that may open in a life-cycle state (R131). -/
def roleOpens : Lifecycle → Role → Bool
  | .blank, r => r == .reader || r == .warden
  | .provisioned, r => r != .service
  | .sealed, r => r != .service
  | .service, r => r == .reader || r == .warden || r == .service
  | .scrapped, _ => false

/-- The credential of a principal: the slot of its number, of purpose 11, or 13 for principal 0 (R133; R510 of 15). -/
def credential (s : State) (p : Nat) : Option SlotCopy :=
  match slotInForce s p with
  | some c => if attrCategory c.attr != 0 && attrPurpose c.attr == (if p = 0 then 13 else 11) then some c else none
  | none => none

/-- A principal may open a role now (R133, R134, R148): none where it is refused. -/
def principalFor (s : State) (p : Nat) (r : Role) (udp : Bool) : Option SlotCopy :=
  match credential s p with
  | some c =>
    if (attrRoles c.attr).testBit (r.code - 1) && !s.fol.locked.contains p && !(udp && (r == .service || !attrUdp c.attr)) then
      some c
    else none
  | none => none

/-- A handle that no session holds, from a free value (R132). -/
def freshHandle (s : State) (v : Nat) : Nat :=
  ((List.range 17).map (fun i => (v + i) % (2 ^ 32 - 1) + 1)).find? (fun h => (findSession s h).isNone) |>.getD 1

/-- The limits of R132 on the number of sessions are reached. -/
def sessionsFull (s : State) (udp : Bool) : Bool :=
  decide (16 ≤ s.fol.sessions.length) || (udp && decide (8 ≤ s.fol.sessions.countP (fun x => x.udp.isSome)))

/-- The identity key signs a message (R153): none where no engine is in service or the key is refused. -/
def identitySign (message : Bytes) (s : State) : Option Bytes × State :=
  let k := keyFor (folsetClass 1 s) (.stored 12 0) s
  match k.1 with
  | none => (none, k.2)
  | some d =>
    let r := drawBytes 51 32 k.2
    (some (ecdsaSign p256 (ofBe (d.take 32)) (ofBe r.1) (sha256 message)), r.2)

/-- Opens a pending session (R132, R133): the UDP transport's keys follow from the ephemeral keys (R148). -/
def openHostSession (role : Role) (principal idle : Nat) (hostEph : Bytes) (curve : Nat) (udp : Bool) (s : State) : Answer :=
  let h := draw 3 (2 ^ 32 - 1) s
  let handle := freshHandle s h.1
  let ch := drawBytes 52 32 h.2
  let e := drawBytes 53 32 ch.2
  let scalar := ofBe e.1 % (p256.n - 1) + 1
  let eph := if udp then publicPoint p256 scalar else zeros 64
  let sig := identitySign (ch.1 ++ hostEph ++ eph) e.2
  match sig.1 with
  | none => fail stInternal 2 sig.2
  | some g =>
    let keys := udpKeys ((ecdh p256 scalar hostEph).getD []) ch.1 handle
    let x : Session := {
      handle := handle, role := role, principal := principal, pending := true, challenge := ch.1, hostEph := hostEph
      moduleEph := eph, idleS := idle, lastUsed := s.time.uptime
      udp := if udp then some { keyToModule := keys.1, keyToHost := keys.2 } else none }
    okWith (le 4 handle ++ le 1 curve ++ zeros 3 ++ ch.1 ++ eph ++ g)
      { sig.2 with fol := { sig.2.fol with sessions := s.fol.sessions ++ [x] } }

/-- SYS_SESSION_OPEN (R153). -/
def cmdSysSessionOpen : Cmd := {
  opcode := 0x0101, role := fun _ => .none, size := 72, clear := true
  body := fun c s =>
    let udp := c.rq.isUdp
    let idle := rd c.p 4 4
    let eph := slice c.p 8 64
    let ephOk := if udp then onCurve p256 (pointOf p256 eph) else eph.all (· == 0#8)
    checked [inRange 0 (roleOf (rd c.p 0 1)).isSome, inRange 1 (rd c.p 1 1 ≤ 63), resv c.p 2 2,
        inRange 4 (idle == 0 || (60 ≤ idle && idle ≤ 86400)), field 8 ephOk] s
      (match roleOf (rd c.p 0 1) with
       | none => fail stOutOfRange 16 s
       | some role =>
         if !roleOpens s.fol.lifecycle role then fail stDeniedLifecycle s.fol.lifecycle.code s
         else match principalFor s (rd c.p 1 1) role udp with
           | none => fail stDeniedRole role.code s
           | some cred =>
             if sessionsFull s udp then fail stResourceExhausted 0 s
             else openHostSession role (rd c.p 1 1) (if idle = 0 then 900 else idle) eph (attrType cred.attr - 4) udp s) }

/-- The authentication message of R133. -/
def authMessage (s : State) (handle role principal : Nat) (challenge hostEph moduleEph : Bytes) : Bytes :=
  ascii "FOLSET-AUTH" ++ le 8 s.host.serial ++ le 4 handle ++ le 1 role ++ le 1 principal ++ challenge ++ hostEph ++ moduleEph

/-- A signature of a principal over the authentication message is good (R133). -/
def authGood (c : SlotCopy) (message signature : Bytes) : Bool :=
  let p384Key := attrType c.attr == 5
  let n := if p384Key then 48 else 32
  verifyHashed (if p384Key then 384 else 256) p384Key (keyBytes c) message (ofBe (slice signature 0 n)) (ofBe (slice signature n n))

/-- A failed authentication (R134): the third of a principal within 60 s locks it and reports source 0x1B, or 0xF5 where the third
came over Jorny's line (R609, R611 of 18). -/
def authFailed (src principal : Nat) (s : State) : State :=
  let recent := (principal, s.time.uptime) :: s.fol.failures.filter (fun f => s.time.uptime < f.2 + 60000)
  if 3 ≤ recent.countP (fun f => f.1 == principal) then
    raiseFault src 1 { s with fol := { s.fol with
      failures := recent.filter (fun f => f.1 != principal), locked := principal :: s.fol.locked.filter (· != principal) } }
  else { s with fol := { s.fol with failures := recent } }

/-- A pending session is authenticated (R154). -/
def bindSession (x : Session) (s : State) : State :=
  { s with fol := { s.fol with sessions := s.fol.sessions.map (fun y =>
      if y.handle == x.handle then { y with pending := false, lastUsed := s.time.uptime } else y) } }

/-- SYS_SESSION_AUTH (R154). A principal whose credential has gone cannot be verified: the failure counts too. -/
def cmdSysSessionAuth : Cmd := {
  opcode := 0x0102, role := fun _ => .none, size := 100, clear := true
  body := fun c s =>
    match (findSession s c.rq.session).filter (fun x => x.pending && x.udp.isSome == c.rq.isUdp) with
    | none => fail stNotReady 0 s
    | some x =>
      match credential s x.principal with
      | none => fail stDeniedRole x.role.code (removeSession x.handle (authFailed 0x1B x.principal s))
      | some cred =>
        let wide := attrType cred.attr == 5
        checked [field 0 (rd c.p 0 1 == (if wide then 96 else 64)), resv c.p 1 3, field 68 (wide || (c.p.drop 68).all (· == 0#8))] s
          (let m := authMessage s x.handle x.role.code x.principal x.challenge x.hostEph x.moduleEph
           let work := engineWork (folsetClass 1 s) s
           if !work.1 then fail stInternal 2 s
           else if authGood cred m (slice c.p 4 96) then
             okWith (le 1 x.role.code ++ le 1 x.principal ++ zeros 2 ++ le 4 x.idleS) (bindSession x work.2)
           else fail stDeniedRole x.role.code (removeSession x.handle (authFailed 0x1B x.principal work.2))) }

/-- SYS_SESSION_CLOSE (R155). -/
def cmdSysSessionClose : Cmd := {
  opcode := 0x0103, role := fun _ => .reader, size := 4
  body := fun c s =>
    let target := if rd c.p 0 4 = 0 then c.rq.session else rd c.p 0 4
    if target = c.rq.session then .final { status := stOk, post := removeSession target } s
    else if !c.warden then fail stDeniedRole 3 s
    else if (findSession s target).isNone then fail stNotReady 0 s
    else okWith [] (endSession target 5 s) }

/-! ## SYS_STREAM_CONFIG (R156) -/

/-- A UDP session that is authenticated. -/
def udpSession (s : State) (h : Nat) : Bool :=
  match findSession s h with
  | some x => x.udp.isSome && !x.pending
  | none => false

/-- The pages of a to-host channel not acknowledged yet are re-queued whole (R150, R156). -/
def requeueAll (c : Nat) (s : State) : State :=
  let old := (chan s c).pages
  let waiting := (chan s c).waiting
  let s := setChan c (fun ch => { ch with pages := [], waiting := [] }) s
  let s := old.foldl (fun s p => requeuePage c p s) s
  waiting.foldl (fun s p => producePage c p s) s

/-- Sends channel 0 to a UDP session, or back into pages, with what is not acknowledged (R149, R156). -/
def directChannel0 (target : Option Nat) (s : State) : State :=
  match target with
  | some h =>
    let bodies := ((chan s 0).pages ++ (chan s 0).waiting).map (·.body)
    let s := setChan 0 (fun ch => { ch with udp := some h, pages := [], waiting := [] }) s
    (bodies.flatMap (splitRecords 128)).foldl (fun s b => sendDatagram h 2 b s) s
  | none =>
    match (chan s 0).udp with
    | none => s
    | some h =>
      match (findSession s h).bind (·.udp) with
      | some u => revertChannel0 u s
      | none => setChan 0 (fun ch => { ch with udp := none }) s

/-- SYS_STREAM_CONFIG (R156): mode, autoack and target list their values (R620 of 00). -/
def cmdSysStreamConfig : Cmd := {
  opcode := 0x0110, role := fun _ => .operator, size := 32, dryrun := true
  body := fun c s =>
    let k := rd c.p 0 1
    let push := rd c.p 1 1 == 1
    let udp := rd c.p 3 1 == 1
    let ring : PushRing := { base := rd c.p 8 8, pages := rd c.p 16 2, headAddr := rd c.p 24 8 }
    checked [inRange 0 (k ≤ 7), inRange 1 (rd c.p 1 1 ≤ 1), field 1 (!(push && (chan s k).dir == .fromHost)), inRange 2 (rd c.p 2 1 ≤ 1),
        inRange 3 (rd c.p 3 1 ≤ 1), field 3 (!(udp && k != 0)), field 4 (udp || rd c.p 4 4 == 0),
        field 8 (if push then ring.base % 4096 == 0 else ring.base == 0),
        (if push then inRange 16 (32 ≤ ring.pages && ring.pages ≤ 4096 && popcount ring.pages 16 == 1) else field 16 (ring.pages == 0)),
        resv c.p 18 6, field 24 (if push then ring.headAddr % 8 == 0 else ring.headAddr == 0)] s
      (if k ≠ 0 && !channelIdle s k then fail stBusy 0 s
       else if udp && !udpSession s (rd c.p 4 4) then fail stNotReady 0 s
       else
         let s := if k = 0 then directChannel0 none s else s
         let s := setChan k (fun ch => { ch with autoack := rd c.p 2 1 == 1, push := if push then some ring else none }) s
         okWith [] (if k = 0 then
             (if udp then directChannel0 (some (rd c.p 4 4)) s else requeueAll 0 s)
           else s)) }

/-! ## SYS_LIFECYCLE (R157) -/

/-- The transitions of R157. -/
def lifecycleMove : Lifecycle → Lifecycle → Bool
  | .blank, .provisioned => true
  | .provisioned, .sealed => true
  | .sealed, .service => true
  | .service, .sealed => true
  | .scrapped, _ => false
  | _, .scrapped => true
  | _, _ => false

/-- Slots of a transition that hold something (R157). -/
def slotsDestroyed (a b : Lifecycle) (s : State) : Nat :=
  (destroyedBy a b s).countP (fun n => !slotEmpty s n)

/-- SYS_LIFECYCLE (R157): every session ends once the response has been sent (R135). Injections are discarded (R546 of 16). -/
def cmdSysLifecycle : Cmd := {
  opcode := 0x0120, role := fun _ => .warden, size := 16, dryrun := true
  body := fun c s =>
    let a := s.fol.lifecycle
    checked [field 0 (rd c.p 0 1 == a.code), inRange 1 (match lifecycleOf (rd c.p 1 1) with
          | some b => lifecycleMove a b
          | none => false), resv c.p 2 6, field 8 (rd c.p 8 8 == s.host.serial)] s
      (match lifecycleOf (rd c.p 1 1) with
       | none => fail stOutOfRange 17 s
       | some b =>
         if s.duty.holding && (b == .service || b == .scrapped) then fail stNotReady 0 s
         else
           let n := slotsDestroyed a b s
           let s := destroyForTransition a b c.actor.1 s
           let s := { s with fol := { s.fol with lifecycle := b }, flt := { s.flt with injections := [] } }
           .final { status := stOk, payload := le 1 b.code ++ zeros 3 ++ le 4 n, post := endSessions (fun _ => true) 2 } s) }

/-- SYS_IDENTIFY. -/
def execSysIdentify (rq : Request) (s : State) : Result := .next (submit cmdSysIdentify rq s)
/-- SYS_SESSION_OPEN. -/
def execSysSessionOpen (rq : Request) (s : State) : Result := .next (submit cmdSysSessionOpen rq s)
/-- SYS_SESSION_AUTH. -/
def execSysSessionAuth (rq : Request) (s : State) : Result := .next (submit cmdSysSessionAuth rq s)
/-- SYS_SESSION_CLOSE. -/
def execSysSessionClose (rq : Request) (s : State) : Result := .next (submit cmdSysSessionClose rq s)
/-- SYS_STREAM_CONFIG. -/
def execSysStreamConfig (rq : Request) (s : State) : Result := .next (submit cmdSysStreamConfig rq s)
/-- SYS_LIFECYCLE. -/
def execSysLifecycle (rq : Request) (s : State) : Result := .next (submit cmdSysLifecycle rq s)

/-! ## Timers -/

/-- SESSION_IDLE_TIMEOUT (R132, R135). -/
def execSessionIdleTimeout (session : Nat) (s : State) : Result :=
  .next (match findSession s session with
    | some x => if x.pending then s else endSession session 1 s
    | none => s)

/-- SESSION_PENDING_TIMEOUT (R132): a pending session not authenticated ends; it held no role, so no event follows (log 34). -/
def execSessionPendingTimeout (session : Nat) (s : State) : Result :=
  .next (match findSession s session with
    | some x => if x.pending then removeSession session s else s
    | none => s)

/-- PRINCIPAL_LOCKOUT_EXPIRY (R134). -/
def execPrincipalLockoutExpiry (principal : Nat) (s : State) : Result :=
  let s := { s with fol := { s.fol with locked := s.fol.locked.filter (· != principal) } }
  .next (if s.fol.locked.isEmpty then endFault 0xF5 (endFault 0x1B s) else s)

end Sys2Proof.Machine
end

