-- ==== Sys2Proof/Machine/Folset.lean ====
section
/-!
DEFINITION. The Folset restart, the live update of Folset, and FLT_INJECT, whose injections may restart it. Chapters 01 (R10, R12),
16 (R545, R546, R567) and 18 (R599, R600, R615) of the spec. The rows that let the waiting requests in again stand in
Machine/HostRows.lean.
-/

namespace Sys2Proof.Machine

/-! ## Restart (R10) -/

/-- A campaign that a lost MTR_FW_CAMPAIGN started is aborted, without a completion of its own (R10; R433 of 12). -/
def cancelCampaign (refs : List Nat) (s : State) (n : Nat) : State :=
  match Tab.get s.mtr.campaigns n with
  | some c =>
    if c.running && c.ref.any (fun r => refs.contains r) then campaignAction n 3 (setCampaign n (fun c => { c with ref := none }) s) else s
  | none => s

/-- A lost DUTY_YIELD no longer holds the baton back from this module, and the copy that a lost DUTY_RESYNC started stops (R10; R560,
R570 of 16). -/
def cancelDuty (refs : List Nat) (s : State) : State :=
  let s := if s.duty.yieldRef.any (fun r => refs.contains r) then
    setDuty (fun d => { d with yieldRef := none, eligible := true }) s else s
  if s.duty.resyncRef.any (fun r => refs.contains r) then
    setSync (if s.duty.sync = .copying then .outOfSync else s.duty.sync) 0
      (setDuty (fun d => { d with resyncRef := none, resyncDiscarded := 0 }) s)
  else s

/-- A command of these references is not executed (R10): what still waits for it in Folset's queues goes, a transfer from the host
ends, a campaign, a yield and a resync stop. Generations already armed still activate (R12). -/
def cancelCommands (refs : List Nat) (s : State) : State :=
  let lost (r : Nat) : Bool := refs.contains r
  let s := (List.range 8).foldl (fun s c =>
    match (chan s c).transfer with
    | some t => if (chan s c).dir == .fromHost && lost t.ref then (if t.opcode = 0x0F01 then endStage else id) (closeChannel c s) else s
    | none => s) s
  let s := { s with led := { s.led with
    tokens := s.led.tokens.filter (fun t => t.keypad || !lost t.ref), orders := s.led.orders.filter (fun o => !lost o.ref) } }
  let s := setYrw (fun y => { y with
    pendingSpares := y.pendingSpares.filter (fun e => !lost e.2.2.2), roll := y.roll.filter (fun r => !lost r.ref) }) s
  let s := match s.met.capture with
    | some c => if lost c.ref then captureRelease c.channels (setMet (fun m => { m with capture := none }) s) else s
    | none => s
  let s := (List.range 16).foldl (fun s k =>
    setPoint k (fun x => { x with grant := x.grant.filter (fun g => match g.ref with
      | some r => !lost r
      | none => true) }) s) s
  let cutMeter (m : Meter) : Meter := { m with
    request := m.request.filter (fun q => !lost q.ref)
    queue := m.queue.filter (fun q => match q.request with
      | some r => !lost r
      | none => true) }
  let s := { s with mtr := { s.mtr with meters := s.mtr.meters.map (fun (e : Nat × Meter) => (e.1, cutMeter e.2)) } }
  let s := cancelDuty refs ((s.mtr.campaigns.map (·.1)).foldl (cancelCampaign refs) s)
  let cutPanel (p : Panel) : Panel := { p with queue := p.queue.filter (fun d => !lost d.ref) }
  { s with fio := { s.fio with panels := s.fio.panels.map cutPanel } }

/-- Folset stops for a restart (R10, R150): the requests and commands it had taken are lost, to be reported when it is back. -/
def folsetStop (s : State) : State :=
  let refs := s.fol.outstanding.map (·.ref)
  let s := cancelCommands refs s
  { s with
    fol := { s.fol with
      ready := false, updating := false, restarting := true, waiting := []
      lostRequests := s.fol.lostRequests ++ s.fol.waiting ++ (s.vlt.engines.flatten.flatMap (·.waiters)).map (fun w =>
        { opcode := 0x0C30, request := w.1 })
      lostCommands := s.fol.lostCommands ++ s.fol.outstanding, outstanding := [] }
    vlt := { s.vlt with engines := s.vlt.engines.map (fun c => c.map (fun e => { e with waiters := [] })) } }

/-- Folset runs the image of the active bank (R10, R113 of 05). -/
def fromActiveBank (s : State) : State :=
  { s with fol := { s.fol with version := folsetOf (activeBank s) }, svc := { s.svc with runningB := activeB s } }

/-- Folset restarts from the active bank (R10): an update in progress is lost with it, and probation ends (R600). `report` says
that source 0xF0 is raised then. -/
def folsetRestart (report : Bool) (s : State) : State :=
  let updating := s.svc.phase == .switched || s.svc.phase == .probation
  let s := fromActiveBank (folsetStop s)
  if s.svc.phase = .glf then s
  else
    let s := setSvc (fun v => { v with phase := .idle, updateRef := none }) s
    if updating then
      let s := updateStep 0 4 (activeB s) 0 s.fol.version s
      if report then reportFault 0xF0 1 s else s
    else s

/-- A class-B source of Folset restarts it (R10; R207 of 07). -/
def folsetFault (src : Nat) (injected : Bool) (s : State) : State :=
  if s.fol.restarting || s.svc.jorny.standalone || !s.fol.ready && s.svc.phase != .switched then s
  else folsetRestart true (raiseWith src 1 injected s)

/-- FOLSET_LOCKSTEP_MISMATCH (R10). -/
def execFolsetLockstepMismatch (s : State) : Result := .next (folsetFault 0x10 false s)
/-- FOLSET_SRAM_ERROR (R207 of 07): Folset's own SRAM restarts it (R10); the same event of the trace ring's SRAM, in the record with a
trace_seq, loses that record (R604; log 41). -/
def execFolsetSramError (record : Option Nat) (s : State) : Result :=
  .next (match record with
    | none => folsetFault 0x11 false s
    | some n => loseTrace n s)

/-! ## Live update (R599, R600, R615) -/

/-- The build bank holds a verified image of Folset, or of a part of GL-F (R615). -/
def updateReady (s : State) (target : Nat) : Bool :=
  let b := buildBank s
  s.svc.build == .valid &&
  (if target = 0 then (match b.folset with
     | some i => i.good && decide (s.svc.securityFloor ≤ i.security)
     | none => false)
   else !b.glf.isEmpty && b.glf.all (fun e => e.2.good && decide (s.svc.securityFloor ≤ e.2.security)))

/-- The running image quiesces, and the new one takes over once no command runs (R599): in the model those are the VLT_ENGINE
requests that wait for their test. -/
def beginFolsetUpdate (ref : Nat) (auto : Bool) (probation : Nat) (s : State) : State :=
  let version := folsetOf (buildBank s)
  let busy := s.vlt.engines.any (fun c => c.any (fun e => !e.waiters.isEmpty))
  let s := updateStep 0 2 (!activeB s) 0 version s
  let s := setSvc (fun v => { v with
    phase := if busy then .quiescing else .switched, updateRef := some ref, autoCommit := auto, probationS := probation
    quiesceEnd := s.time.uptime + 1000, switchTick := now s }) s
  { s with fol := { s.fol with updating := true, ready := s.fol.ready && busy } }

/-- GL-F switches to the firmware of the build bank (R601). -/
def beginGlfUpdate (ref : Nat) (s : State) : State :=
  setSvc (fun v => { v with phase := .glf, updateRef := some ref, switchTick := now s })
    (updateStep 1 2 (!activeB s) 0 ((Tab.getD (buildBank s).glf 2 {}).ident) s)

/-- SVC_UPDATE (R599 to R601, R615). A revert restarts Folset without a fault once its response has been sent. -/
def cmdSvcUpdate : Cmd := {
  opcode := 0x0F02, role := fun _ => .operator, async := true, size := 8
  body := fun c s =>
    let target := rd c.p 0 1
    let revert := rd c.p 1 1 == 1
    let auto := rd c.p 2 1
    let prob := rd c.p 4 4
    checked [inRange 0 (target ≤ 1), inRange 1 (rd c.p 1 1 ≤ 1 && !(revert && target == 1)),
        inRange 2 (auto ≤ 1 && (target == 0 || auto == 0)), resv c.p 3 1,
        inRange 4 (if target = 0 then 10 ≤ prob && prob ≤ 86400 else prob == 0)] s
      (if revert then
         if s.svc.phase ≠ .probation then fail stNotReady 0 s
         else .accepted [] (folsetRestart false (complete c.ref stOk 0
           (le 4 (folsetOf (activeBank s)) ++ zeros 4 ++ le 8 (now s)) s))
       else if s.svc.phase ≠ .idle || staging s then fail stBusy 0 s
       else if target = 1 && sealedGlfDiffers s && sealClosed s 2 then fail stDeniedSeal 2 s
       else if !updateReady s target || (target == 1 && !glfIdle s) then fail stNotReady 0 s
       else .accepted [] (if target = 0 then beginFolsetUpdate c.ref (auto == 1) prob s else beginGlfUpdate c.ref s)) }

/-- The completion of an update ends it. -/
def endUpdate (status detail : Nat) (payload : Bytes) (s : State) : State :=
  match s.svc.updateRef with
  | some r => complete r status detail payload (setSvc (fun v => { v with updateRef := none }) s)
  | none => s

/-- FOLSET_SWITCH_TIMEOUT (R599): the complex restarts from the old image, which is still in its region. -/
def execFolsetSwitchTimeout (s : State) : Result :=
  if s.svc.phase ≠ .switched then .next s
  else
    let version := s.fol.version
    let bank := s.svc.runningB
    let s := endUpdate stInternal 2 [] (setSvc (fun v => { v with phase := .idle }) s)
    let s := folsetStop (updateStep 0 6 (!activeB s) 0 version (reportFault 0xF0 1 s))
    .next { s with fol := { s.fol with version := version }, svc := { s.svc with runningB := bank } }

/-- PROBATION_END (R600). -/
def execProbationEnd (s : State) : Result :=
  if s.svc.phase ≠ .probation then .next s
  else
    let s := setSvc (fun v => { v with phase := .idle }) s
    .next (if s.svc.autoCommit && s.svc.build = .valid then commitBank s else s)

/-! ## FLT_INJECT (R545, R546, R567 of 16) -/

/-- A charge point stands in PREPARE, ENERGY, PAUSED or STOPPING (R546). -/
def pointsWorking (s : State) : Bool :=
  s.chg.points.any (fun x => x.phase == .prepare || x.phase == .energy || x.phase == .paused || x.phase == .stopping)

/-- The reaction of a check that comes at once: an umbel's SRAM, the lockstep comparator, Yarrow's table parity, the
safety-logic comparator (R545). -/
def injectNow (checker mode place : Nat) (s : State) : State :=
  if checker = 2 then (if mode = 1 then umbelDeathBy true place 3 s else s)
  else if checker = 5 then folsetFault 0x10 true s
  else if checker = 6 then setYrw (fun y => { y with reloading := true }) s
  else if checker = 7 then endFault 0x04 (raiseAWith 0x04 1 true s)
  else s

/-- Instances of a checker (R545). -/
def injectPlaces (checker : Nat) : Nat := if checker = 0 || checker = 2 then 64 else if checker = 1 then 1024 else 1

/-- FLT_INJECT (R545, R546, R567). -/
def cmdFltInject : Cmd := {
  opcode := 0x0D04, role := fun _ => .wardenOrService, size := 16, dryrun := true
  body := fun c s =>
    let k := rd c.p 0 1
    let mode := rd c.p 1 1
    let n := rd c.p 2 2
    let place := rd c.p 4 4
    let atOnce := k == 2 || k == 5 || k == 6 || k == 7
    checked [inRange 0 (k ≤ 7), inRange 1 (mode ≤ 1), field 1 (decide (k ≤ 3) || mode == 0), inRange 2 (1 ≤ n && n ≤ 16),
        inRange 4 (decide (place < injectPlaces k)), field 8 (k == 0 || k == 3 || rd c.p 8 8 == 0)] s
      (if (k == 7 || (k == 4 && 2 ≤ n)) && pointsWorking s then fail stNotReady 0 s
       else if (Tab.get s.flt.injections k).isSome then fail stBusy 0 s
       else
         let i : Injection := { mode := mode, count := n, place := place, addr := rd c.p 8 8, session := c.rq.session }
         let armed := { s with flt := { s.flt with injections := Tab.put s.flt.injections k i } }
         .final { status := stOk, payload := le 4 n, post := if atOnce then injectNow k mode place else id }
           (if atOnce then s else armed)) }

def execSvcUpdate (rq : Request) (s : State) : Result := .next (submit cmdSvcUpdate rq s)
def execFltInject (rq : Request) (s : State) : Result := .next (submit cmdFltInject rq s)

end Sys2Proof.Machine
end

