-- ==== Sys2Proof/Machine/Memory.lean ====
section
/-!
DEFINITION. The time-slot arbiters and the MEM_ commands. Chapter 07 of the spec (R215 to R227).
-/

namespace Sys2Proof.Machine

/-- Power domains of the endpoints that request (R46 of 02). -/
inductive Domain
  | vigil | field | compute
  deriving DecidableEq, Repr

/-- The domain is powered. -/
def Domain.powered (s : State) : Domain → Bool
  | .vigil => s.pwr.vigilOn
  | .field => s.pwr.fieldOn
  | .compute => dataPathUp s

/-- One requester of an arbiter: its mandatory maximum gap (0 for none), default slots, default burst, and the domain it lies in
(R220 to R222; log 22). -/
structure Requester where
  gap : Nat := 0
  slots : Nat
  burst : Nat
  domain : Domain := .vigil
  deriving DecidableEq, Repr

/-- The requesters of each arbiter (R220). -/
def requesters : Nat → List Requester
  | 0 => [{ gap := 64, slots := 8, burst := 1 }, { slots := 80, burst := 4, domain := .compute },
          { slots := 8, burst := 16 }, { slots := 8, burst := 64 }, { slots := 16, burst := 64 },
          { slots := 4, burst := 1 }, { slots := 12, burst := 64 }]
  | 1 => [{ slots := 64, burst := 64 }, { slots := 32, burst := 64 }, { slots := 64, burst := 64, domain := .compute },
          { slots := 8, burst := 16 }]
  | 2 => [{ gap := 16, slots := 32, burst := 64, domain := .field }, { slots := 32, burst := 64, domain := .field },
          { slots := 16, burst := 32, domain := .field }, { slots := 64, burst := 64, domain := .field }]
  | 3 => [{ gap := 16, slots := 32, burst := 64 }, { slots := 16, burst := 32, domain := .compute },
          { slots := 64, burst := 64, domain := .compute }, { slots := 8, burst := 16 }, { slots := 0, burst := 16 }]
  | 4 => [{ gap := 32, slots := 128, burst := 16 }, { slots := 64, burst := 64 }]
  | _ => []

/-- Nanoseconds of a beat of each arbiter (R216). -/
def beatNs : Nat → Nat
  | 0 => 10 | 1 => 40 | 2 => 2 | 3 => 2 | _ => 20

/-- Slot `i` of `n` spread over the table from slot `d`. -/
def spreadSlot (n d i : Nat) : Nat := (256 * i / n + d) % 256

/-- Places `n` slots of owner `o`, spread over the whole table from the first slot at which all of them are open (R220; log 22). Every
default table has such a slot for each of its owners. -/
def placeSlots (o n : Nat) (slots : List Nat) : List Nat :=
  match (List.range 256).find? (fun d => (List.range n).all (fun i => slots.getD (spreadSlot n d i) 0 == 15)) with
  | some d => (List.range n).foldl (fun sl i => modAt sl (spreadSlot n d i) (fun _ => o)) slots
  | none => slots

/-- The default table of an arbiter (R220): owners placed largest share first. -/
def defaultArbTable (a : Nat) : ArbTable :=
  let rs := (requesters a).zipIdx
  let order := rs.foldl (fun acc (r, i) => acc.takeWhile (fun (x, _) => r.slots ≤ x.slots) ++ [(r, i)] ++
    acc.dropWhile (fun (x, _) => r.slots ≤ x.slots)) ([] : List (Requester × Nat))
  { slots := order.foldl (fun sl (r, i) => placeSlots i r.slots sl) (List.replicate 256 15)
    burst := (List.range 16).map (fun i => (((requesters a)[i]?).map (·.burst)).getD 0)
    ranking := List.range (requesters a).length }

/-- Loads the default tables at a cold start (R220). -/
def coldArbiters (s : State) : State :=
  { s with mem := { s.mem with
    arbiters := (List.range 5).map (fun a => { table := defaultArbTable a }), pdSchedule := false } }

/-- Arbiter `a`. -/
def arbiter (s : State) (a : Nat) : Arbiter := s.mem.arbiters.getD a {}

/-- Changes arbiter `a`. -/
def setArbiter (a : Nat) (f : Arbiter → Arbiter) (s : State) : State :=
  { s with mem := { s.mem with arbiters := modAt s.mem.arbiters a f } }

/-- Changes the statistics of a requester (R227). -/
def Arbiter.count (x : Arbiter) (r : Nat) (f : ArbStats → ArbStats) : Arbiter := { x with stats := Tab.upd x.stats r {} f }

/-- The owner of the current slot, if it has one (R216, R217). While the power-down sequence runs, the ledger-store port
serves its fixed order, lowest requester first (R68 of 03, R222; log 22). -/
def slotOwner (s : State) (a : Nat) : Option Nat :=
  if a = 0 && s.mem.pdSchedule then none
  else match (arbiter s a).table.slots[(arbiter s a).slot]? with
    | some 15 => none
    | o => o

/-- The background ranking in force. -/
def ranking (s : State) (a : Nat) : List Nat :=
  if a = 0 && s.mem.pdSchedule then List.range 16 else (arbiter s a).table.ranking

/-- The port has carried `beats` more beats for the holder: its transfer may finish, or its burst limit end the grant
(R217); then what is left of it stands before its requester's later transfers. The others have waited. -/
def carryBeats (a beats : Nat) (s : State) : State :=
  let x := arbiter s a
  let waited := x.waiting.map (fun q => { q with waitNs := q.waitNs + beats * beatNs a })
  match x.holder with
  | none => setArbiter a (fun x => { x with waiting := waited }) s
  | some h =>
    let limit := x.table.burst.getD h.requester 64
    let n := min beats (min (h.beats - h.done) (limit - h.granted))
    let h := { h with done := h.done + n, granted := h.granted + n }
    if h.beats ≤ h.done then
      setArbiter a (fun x => { (x.count h.requester (fun t => { t with beats := t.beats + h.beats })) with
        holder := none, waiting := waited }) s
    else if limit ≤ h.granted then
      setArbiter a (fun x => { x with holder := none, waiting := { h with granted := 0 } :: waited }) s
    else setArbiter a (fun x => { x with holder := some h, waiting := waited }) s

/-- The next slot starts; at the table-period boundary a pending table whose tick has come takes effect (R216, R226). -/
def nextSlot (a : Nat) (s : State) : State :=
  let x := arbiter s a
  let k := (x.slot + 1) % 256
  match x.pending with
  | some p =>
    if k = 0 && p.activation ≤ now s then setArbiter a (fun x => { x with slot := k, table := p, pending := none }) s
    else setArbiter a (fun x => { x with slot := k }) s
  | none => setArbiter a (fun x => { x with slot := k }) s

/-- A request passes to the arbiter and stays with it while its requester exists in a powered domain and its umbel's epoch is current
(R215, R222; R185 of 06). -/
def askPasses (s : State) (a requester : Nat) (sender : Option (Nat × Nat)) : Bool :=
  (match (requesters a)[requester]? with
   | some r => r.domain.powered s
   | none => false) &&
  (match sender with
   | some (u, e) => (umbel s u).epoch == e && (umbel s u).phase != .fenced && (umbel s u).phase != .retired
   | none => true)

/-- Adds the requests that have arrived. -/
def addAsks (a : Nat) (asks : List ArbAsk) (s : State) : State :=
  let ok := (asks.filter (fun q => askPasses s a q.requester q.umbel && q.beats != 0)).map (fun q =>
    ({ requester := q.requester, umbel := q.umbel, beats := q.beats } : ArbRequest))
  setArbiter a (fun x => { x with waiting := x.waiting ++ ok }) s

/-- Requests whose umbel has been fenced since, or whose domain has lost its power, are gone: none of them occupies a grant (R215, R222;
R185 of 06). -/
def dropStale (a : Nat) (s : State) : State :=
  let live (q : ArbRequest) : Bool := askPasses s a q.requester q.umbel
  setArbiter a (fun x => { x with holder := x.holder.filter live, waiting := x.waiting.filter live }) s

/-- The slot's owner pre-empts a background holder, whose transfer is discarded and starts again whole at its requester's next grant
(R218). -/
def arbPreempt (a : Nat) (s : State) : State :=
  let x := arbiter s a
  match x.holder, slotOwner s a with
  | some h, some o =>
    if h.requester ≠ o && x.waiting.any (fun q => q.requester == o) then
      setArbiter a (fun x => { (x.count h.requester (fun t => { t with
          discarded := t.discarded + h.done, preemptions := (t.preemptions + 1) % 2 ^ 32 })) with
        holder := none
        waiting := { h with done := 0, granted := 0, preempted := h.preempted + 1 } :: x.waiting }) s
    else s
  | _, _ => s

/-- Grants the free port to a waiting request (R217): the first of the owner's, else of the first ranked requester's. -/
def arbGrant (a : Nat) (s : State) : State :=
  let x := arbiter s a
  if x.holder.isSome then s
  else
    let asks (r : Nat) : Bool := x.waiting.any (fun q => q.requester == r)
    let pick := match slotOwner s a with
      | some o => if asks o then some o else (ranking s a).find? asks
      | none => (ranking s a).find? asks
    match pick with
    | none => s
    | some r =>
      match x.waiting.find? (fun q => q.requester == r) with
      | none => s
      | some q =>
        setArbiter a (fun x => { (x.count r (fun t => { t with
            grants := t.grants + 1, maxWaitNs := cap 0xFFFFFFFF (max t.maxWaitNs q.waitNs) })) with
          holder := some { q with granted := 0 }
          waiting := x.waiting.erase q }) s

/-- ARBITER_DECISION: `beats` carried since the last decision, a slot start or a port fallen free, and the requests that
have come (R217, R218). -/
def arbDecide (a : Nat) (asks : List ArbAsk) (beats : Nat) (newSlot : Bool) (s : State) : State :=
  if 5 ≤ a then s
  else
    let s := dropStale a (carryBeats a beats s)
    let s := if newSlot then nextSlot a s else s
    arbGrant a (arbPreempt a (addAsks a asks s))

/-- A request has waited longer than wait_report_us: ARB_WAIT, a report only (R219, R223). -/
def arbWait (a r : Nat) (s : State) : State :=
  let x := arbiter s a
  let late (q : ArbRequest) : Bool := q.requester == r && !q.reported && decide (1000 * x.table.waitUs < q.waitNs)
  if x.table.waitUs = 0 then s
  else match x.waiting.find? late with
    | none => s
    | some q =>
      let s := setArbiter a (fun x => { x with waiting := x.waiting.map (fun p => if p = q then { p with reported := true } else p) }) s
      raiseEvent 0x0403 (256 * a + r) true (le 4 (q.waitNs / 1000) ++ le 4 q.preempted ++ zeros 8) s

/-! ## Commands -/

/-- MEM_STATUS (R224). -/
def cmdMemStatus : Cmd := {
  opcode := 0x0400, role := fun _ => .reader, size := 0
  body := fun _ s =>
    let m := s.mem
    let sum (t : Table Nat) : Nat := (t.map (·.2)).foldl (· + ·) 0
    okWith (le 8 (sum m.dramCorrected) ++ le 4 m.dramUncorrected ++ le 4 (sum m.retired) ++ le 4 m.spareFree ++
      le 4 m.lstoreCorrected ++ le 4 m.lstoreUncorrected ++ le 4 (s.led.accounts.countP (fun (_, p) => p.damaged)) ++
      le 1 (activeB s).toNat ++ le 1 (ofBits [m.bankA.valid, m.bankB.valid, m.bootWriting]) ++ zeros 2 ++
      le 4 ((s.time.uptime - m.patrolAt) / 1000) ++
      le 8 (maskOf ((m.retired.filter (fun (_, n) => 64 < n)).map (·.1)))) s }

/-- The slot-table bytes of MEM_ARB_READ: two slots a byte. -/
def slotBytes (slots : List Nat) : Bytes :=
  (List.range 128).flatMap (fun k => le 1 (slots.getD (2 * k) 15 + 16 * slots.getD (2 * k + 1) 15))

/-- The ranking bytes: nibble j names the requester at position j, 15 ends the list. -/
def rankingBytes (r : List Nat) : Bytes :=
  (List.range 8).flatMap (fun k => le 1 (r.getD (2 * k) 15 + 16 * r.getD (2 * k + 1) 15))

/-- The n-th nibble of a byte string. -/
def nibble (b : Bytes) (n : Nat) : Nat := rd b (n / 2) 1 / (if n % 2 = 0 then 1 else 16) % 16

/-- MEM_ARB_READ (R225). -/
def cmdMemArbRead : Cmd := {
  opcode := 0x0401, role := fun _ => .reader, size := 4
  body := fun c s =>
    let a := rd c.p 0 1
    let t := if rd c.p 1 1 = 0 then some (arbiter s a).table else (arbiter s a).pending
    checked [inRange 0 (a ≤ 4), field 1 (rd c.p 1 1 ≤ 1), resv c.p 2 2] s
      (match t with
       | none => fail stNotReady 0 s
       | some t => okWith (le 1 a ++ zeros 3 ++ le 4 t.waitUs ++ le 8 t.activation ++ slotBytes t.slots ++
           (List.range 16).flatMap (fun i => le 1 (t.burst.getD i 0)) ++ rankingBytes t.ranking) s) }

/-- A requester owns a slot in every run of `gap` consecutive slots, counted cyclically (R221). -/
def gapKept (slots : List Nat) (r gap : Nat) : Bool :=
  (List.range 256).all (fun k => (List.range gap).any (fun i => slots.getD ((k + i) % 256) 15 == r))

/-- A table as MEM_ARB_SET carries it. -/
def arbTableOf (p : Bytes) (tick : Nat) : ArbTable := {
  slots := (List.range 256).map (nibble (slice p 16 128))
  burst := (List.range 16).map (fun i => rd p (144 + i) 1)
  ranking := ((List.range 16).map (nibble (slice p 160 8))).takeWhile (· != 15)
  waitUs := rd p 4 4, activation := tick }

/-- MEM_ARB_SET (R221, R226). -/
def cmdMemArbSet : Cmd := {
  opcode := 0x0402, role := fun _ => .operator, size := 168, dryrun := true
  body := fun c s =>
    let a := rd c.p 0 1
    let n := (requesters a).length
    let asked := rd c.p 8 8
    let tick := if asked = 0 then now s + 3 else asked
    let t := arbTableOf c.p tick
    let w := rd c.p 4 4
    let known (r : Nat) : Bool := decide (r < n) || r == 15
    let gaps := (requesters a).zipIdx.all (fun (r, i) => r.gap == 0 || gapKept t.slots i r.gap)
    checked ([inRange 0 (a ≤ 4), resv c.p 1 3, inRange 4 (w == 0 || (10 ≤ w && w ≤ 1000000)),
        inRange 8 (decide (now s + 3 ≤ tick))] ++
        (List.range 128).map (fun k => field (16 + k) (known (t.slots.getD (2 * k) 15) && known (t.slots.getD (2 * k + 1) 15))) ++
        [field 16 gaps] ++
        (List.range 16).flatMap (fun i => [field (144 + i) (if i < n then t.burst.getD i 0 != 0 else t.burst.getD i 0 == 0),
          inRange (144 + i) (t.burst.getD i 0 ≤ 64)]) ++
        (List.range t.ranking.length).map (fun j => field (160 + j / 2) (decide (t.ranking.getD j 15 < n) &&
          !(t.ranking.take j).contains (t.ranking.getD j 15)))) s
      (match (arbiter s a).pending with
       | some p => if p.activation ≤ now s + 3 then fail stBusy 1 s
         else okWith (le 8 tick) (setArbiter a (fun x => { x with pending := some t }) s)
       | none => okWith (le 8 tick) (setArbiter a (fun x => { x with pending := some t }) s)) }

/-- MEM_ARB_STATS (R227). -/
def cmdMemArbStats : Cmd := {
  opcode := 0x0403, role := fun _ => .reader, size := 4
  body := fun c s =>
    let a := rd c.p 0 1
    let r := rd c.p 1 1
    let x := arbiter s a
    let t := Tab.getD x.stats r {}
    checked [inRange 0 (a ≤ 4), inRange 1 (r ≤ 14), resv c.p 2 2] s
      (if (requesters a).length ≤ r then fail stNotReady 0 s
       else okWith (le 8 t.grants ++ le 8 t.beats ++ le 8 t.discarded ++ le 4 t.preemptions ++ le 4 t.maxWaitNs ++
         le 4 (cap 0xFFFFFFFF (((x.waiting.find? (fun q => q.requester == r)).map (·.waitNs)).getD 0)) ++
         le 2 (x.table.slots.countP (· == r)) ++ zeros 2) s) }

def execMemStatus (rq : Request) (s : State) : Result := .next (submit cmdMemStatus rq s)
def execMemArbRead (rq : Request) (s : State) : Result := .next (submit cmdMemArbRead rq s)
def execMemArbSet (rq : Request) (s : State) : Result := .next (submit cmdMemArbSet rq s)
def execMemArbStats (rq : Request) (s : State) : Result := .next (submit cmdMemArbStats rq s)
def execArbiterDecision (arbiter : Nat) (asks : List ArbAsk) (beats : Nat) (newSlot : Bool) (s : State) : Result :=
  .next (arbDecide arbiter asks beats newSlot s)
def execArbWait (arbiter requester : Nat) (s : State) : Result := .next (arbWait arbiter requester s)
def execPatrolScrubPass (s : State) : Result :=
  .next (if s.pwr.computeOn then { s with mem := { s.mem with patrolAt := s.time.uptime } } else s)

end Sys2Proof.Machine
end

