-- ==== Sys2Proof/Machine/Panels.lean ====
section
/-!
DEFINITION. The e-paper panels and the FIO_PANEL_ commands. Chapter 14 of the spec (R491 to R495, R500 to R502).
-/

namespace Sys2Proof.Machine

/-- Panel port `p`. -/
def panelAt (s : State) (p : Nat) : Panel := s.fio.panels.getD p {}

/-- Changes panel port `p`. -/
def setPanel (p : Nat) (f : Panel → Panel) (s : State) : State := setFio (fun x => { x with panels := modAt x.panels p f }) s

/-- PANEL (R496): 1 BUSY timeout, 2 rail fault, 3 abrupt power-off. -/
def panelEvent (p cause : Nat) (s : State) : State := raiseEvent 0x0B05 p true (le 1 cause ++ zeros 15) s

/-- Two rectangles share a pixel (R494). -/
def PanelDraw.overlaps (a b : PanelDraw) : Bool :=
  decide (a.x < b.x + b.w) && decide (b.x < a.x + a.w) && decide (a.y < b.y + b.h) && decide (b.y < a.y + a.h)

/-- Command `i` of a profile: 0 window, 1 write, 2 partial, 3 full, 4 sleep. -/
def PanelProfile.command (f : PanelProfile) (i : Nat) : Byte := f.commands.getD i 0

/-- The bytes of cmd_window: the command with DC low, then x0, x1, y0 and y1, inclusive, 16 bits each (R494). -/
def panelWindowBytes (f : PanelProfile) (d : PanelDraw) : List (Bool × Byte) :=
  let word := fun v : Nat => if f.flags.testBit 1 then be 2 v else le 2 v
  (false, f.command 0) ::
    (word d.x ++ word (d.x + d.w - 1) ++ word d.y ++ word (d.y + d.h - 1)).map (fun b => (true, b))

/-- Sends bytes, after which the module waits for BUSY before its next command. -/
def Panel.send (x : Panel) (bs : List (Bool × Byte)) : Panel := { x with sent := x.sent ++ bs, busy := true }

/-- Runs the initialisation script up to its next wait for BUSY or its end (FIO_PANEL_SET); `n` bounds the elements. -/
def runScript : Nat → Panel → Panel
  | 0, x => { x with init := [] }
  | n + 1, x =>
    match x.init with
    | [] => x
    | h :: rest =>
      if h = 0 then { x with init := [] }
      else if h = 0x80 then { x with init := rest, busy := true }
      else
        let len := h.toNat % 128
        let bytes := rest.take len
        let sent := bytes.zipIdx.map (fun (b, i) => (!(h.toNat.testBit 7 && i == 0), b))
        runScript n { x with init := rest.drop len, sent := x.sent ++ sent }

/-- The first queued draw that may start: it overlaps no earlier queued draw, and nothing in flight forbids it (R494). -/
def nextDraw (f : PanelProfile) (flight : List PanelDraw) : List PanelDraw → List PanelDraw → Option PanelDraw
  | _, [] => none
  | before, d :: rest =>
    let free := before.all (fun b => !b.overlaps d)
    let ok := if d.full then flight.isEmpty && before.isEmpty
      else decide (flight.length < f.maxInFlight) && flight.all (fun b => !b.full && !b.overlaps d)
    if free && ok then some d else if d.full then none else nextDraw f flight (before ++ [d]) rest

/-- Notes whether the panel has nothing queued and nothing in flight (R492). -/
def noteIdle (t : Nat) (x : Panel) : Panel :=
  if x.queue.isEmpty && x.inFlight.isEmpty && x.issuing.isNone then
    { x with idleSince := some (x.idleSince.getD t) }
  else { x with idleSince := none }

/-- Issues the next command of a panel that is on (R494). -/
def issueCommand (t : Nat) (x : Panel) : Panel :=
  match x.profile with
  | none => x
  | some f =>
    match x.issuing with
    | some (d, 1) =>
      { x.send ((false, f.command 1) :: d.data.map (fun b => (true, b))) with issuing := some (d, 2) }
    | some (d, _) =>
      let ends := t + (if d.full then f.fullMs else f.refreshMs)
      { x.send [(false, f.command (if d.full then 3 else 2))] with
        issuing := none, inFlight := x.inFlight ++ [(d, ends)] }
    | none =>
      match nextDraw f (x.inFlight.map (·.1)) [] x.queue with
      | none => x
      | some d =>
        { x.send (panelWindowBytes f d) with
          issuing := some (d, 1), queue := x.queue.filter (fun q => q.ref != d.ref) }

/-- Powers a panel up: rails in order, reset, then a wait for BUSY (R491). -/
def startPanel (x : Panel) : Panel :=
  match x.kept with
  | none => x
  | some f => { x with phase := .poweringUp, profile := some f, init := f.script, busy := true, issuing := none, sent := [] }

/-- What a panel does as soon as it can: power up for a draw, run its script, issue a command (R491 to R494). -/
def panelAdvance (p : Nat) (s : State) : State :=
  if !s.pwr.fieldOn then s
  else setPanel p (fun x =>
    let x :=
      if x.phase == .off || x.phase == .fault then (if x.queue.isEmpty then x else startPanel x)
      else if x.busy then x
      else match x.phase with
        | .poweringUp =>
          let x := runScript 192 x
          if x.busy then x else issueCommand s.time.uptime { x with phase := .on }
        | .on => issueCommand s.time.uptime x
        | .poweringOff =>
          let x := { x with phase := .off, abrupt := false, profile := none }
          if x.queue.isEmpty then x else startPanel x
        | _ => x
    noteIdle s.time.uptime x) s

/-- The profile a draw is judged by: that in force while the panel is powered, else that kept for its next power-up. -/
def drawProfile (x : Panel) : Option PanelProfile := if x.profile.isSome then x.profile else x.kept

/-- All draws of a panel end with FAULTED (R491, R501). -/
def dropDraws (p : Nat) (s : State) : State :=
  let x := panelAt s p
  let draws := x.inFlight.map (·.1) ++ (x.issuing.map (·.1)).toList ++ x.queue
  draws.foldl (fun s d => complete d.ref stFaulted 0 [] s)
    (setPanel p (fun x => { x with queue := [], issuing := none, inFlight := [], idleSince := none }) s)

/-- A panel fault: rails discharged, PANEL raised, its draws end with FAULTED (R491). -/
def panelFault (p cause : Nat) (s : State) : State :=
  let x := panelAt s p
  dropDraws p (panelEvent p cause (setPanel p (fun x => { x with
    phase := .fault, busy := false, init := [], profile := none, faults := cap 0xFFFFFFFF (x.faults + 1), abrupt := false }) s)
    |> setPanel p (fun y => { y with imageValid := y.imageValid && x.inFlight.isEmpty }))

/-- A panel's rails discharge from the local store (R493). -/
def panelAbrupt (p : Nat) (s : State) : State :=
  let x := panelAt s p
  if x.phase == .poweringUp || x.phase == .on || x.phase == .poweringOff then
    dropDraws p (panelEvent p 3 (setPanel p (fun y => { y with
      phase := .off, busy := false, init := [], profile := none, abrupt := true
      imageValid := y.imageValid && x.inFlight.isEmpty }) s))
  else s

/-- R493 on both ports. -/
def panelsAbrupt (s : State) : State := panelAbrupt 1 (panelAbrupt 0 s)

/-! ## Commands (R500 to R502) -/

/-- A script's elements lie within its bytes (R500); `n` bounds the elements. -/
def scriptOk : Nat → Bytes → Bool
  | _, [] => true
  | 0, _ => true
  | n + 1, h :: rest =>
    if h = 0 || rest.length < h.toNat % 128 then h = 0
    else scriptOk n (rest.drop (h.toNat % 128))

/-- Reads the profile of FIO_PANEL_SET. -/
def readPanelProfile (p : Bytes) : PanelProfile := {
  width := rd p 2 2, height := rd p 4 2, bpp := rd p 6 1, maxInFlight := rd p 7 1, sckKhz := rd p 8 2, vcomMv := rd p 10 2
  refreshMs := rd p 12 2, fullMs := rd p 14 2, busyTimeoutMs := rd p 16 2, offDelayMs := rd p 18 2, flags := rd p 20 1
  commands := slice p 21 5, script := slice p 28 (min 192 (rd p 26 1)) }

/-- Checks of action 0 of FIO_PANEL_SET (R500). -/
def panelChecks (p : Bytes) : List Check :=
  let f := readPanelProfile p
  [inRange 2 (8 ≤ f.width && f.width ≤ 2048 && f.width % 8 == 0), inRange 4 (1 ≤ f.height && f.height ≤ 2048),
    inRange 6 (1 ≤ f.bpp && f.bpp ≤ 2), inRange 7 (1 ≤ f.maxInFlight && f.maxInFlight ≤ 8),
    inRange 8 (500 ≤ f.sckKhz && f.sckKhz ≤ 20000), inRange 10 (500 ≤ f.vcomMv && f.vcomMv ≤ 3000 && f.vcomMv % 10 == 0),
    inRange 12 (10 ≤ f.refreshMs && f.refreshMs ≤ 10000), inRange 14 (100 ≤ f.fullMs && f.fullMs ≤ 30000),
    inRange 16 (100 ≤ f.busyTimeoutMs && f.busyTimeoutMs ≤ 60000), inRange 18 (f.offDelayMs ≤ 60000), field 20 (decide (f.flags < 4)),
    inRange 26 (rd p 26 1 ≤ 192), resv p 27 1, field 28 (scriptOk 192 f.script)]

/-- Draws of a panel queued, being issued or in flight. -/
def drawsWaiting (x : Panel) : Nat := x.queue.length + x.issuing.isSome.toNat + x.inFlight.length

/-- FIO_PANEL_SET (R500): kept for the panel's next power-up. -/
def cmdFioPanelSet : Cmd := {
  opcode := 0x0B10, role := fun _ => .operator, size := 220, updating := glfUpdating, dryrun := true
  body := fun c s =>
    let p := rd c.p 0 1
    let action := rd c.p 1 1
    checked ([inRange 0 (p ≤ 1), inRange 1 (action ≤ 1)] ++
        (if action = 1 then
          ((List.range 26).map (fun i => field (i + 2) (rd c.p (i + 2) 1 == 0))) ++ [field 28 ((slice c.p 28 192).all (· == 0))]
         else panelChecks c.p)) s
      (if action = 1 then
        if drawsWaiting (panelAt s p) ≠ 0 then fail stBusy 0 s
        else okWith [] (setPanel p (fun x => { x with kept := none }) s)
      else okWith [] (setPanel p (fun x => { x with kept := some (readPanelProfile c.p) }) s)) }

/-- The rectangle of FIO_PANEL_DRAW with given data. -/
def readDraw (ref : Nat) (p data : Bytes) : PanelDraw := {
  ref := ref, full := rd p 1 1 == 1, x := rd p 8 2, y := rd p 10 2, w := rd p 12 2, h := rd p 14 2, data := data }

/-- Queues a draw whose data is whole (R494). -/
def queueDraw (p : Nat) (d : PanelDraw) (s : State) : State :=
  panelAdvance p (setPanel p (fun x => { x with queue := x.queue ++ [d], idleSince := none }) s)

/-- Draws of panel `p` whose pages are still arriving. -/
def drawsArriving (s : State) (p : Nat) : Nat :=
  s.host.channels.countP (fun ch => match ch.transfer with
    | some t => t.opcode == 0x0B11 && rd t.request.args 0 1 == p
    | none => false)

/-- Checks of a draw's rectangle and length against the panel (R501). -/
def drawChecks (f : PanelProfile) (p : Bytes) : List Check :=
  let x := rd p 8 2
  let y := rd p 10 2
  let w := rd p 12 2
  let h := rd p 14 2
  let len := rd p 16 4
  [field 8 (x % 8 == 0), field 12 (w % 8 == 0 && w != 0), field 14 (h != 0), inRange 8 (x + w ≤ f.width), inRange 10 (y + h ≤ f.height),
    field 8 (rd p 1 1 == 0 || (x == 0 && y == 0 && w == f.width && h == f.height)),
    field 16 (len == w * h * f.bpp / 8), inRange 16 (rd p 2 1 != 0 || decide (len ≤ 192)),
    field 24 (rd p 2 1 != 0 || (slice p (24 + len) (192 - len)).all (· == 0))]

/-- FIO_PANEL_DRAW (R501). -/
def cmdFioPanelDraw : Cmd := {
  opcode := 0x0B11, role := fun _ => .operator, async := true, size := 216, updating := glfUpdating
  body := fun c s =>
    let p := rd c.p 0 1
    let src := rd c.p 2 1
    let tid := rd c.p 4 4
    checked [inRange 0 (p ≤ 1), inRange 1 (rd c.p 1 1 ≤ 1), inRange 2 (src ≤ 7), resv c.p 3 1,
        inRange 4 (src == 0 || tid != 0), field 4 (src != 0 || tid == 0)] s
      (match drawProfile (panelAt s p) with
       | none => fail stNotReady 0 s
       | some f =>
         checked (drawChecks f c.p) s
           (if src ≠ 0 && s.pwr.mode == .vigil then fail stNotReady 0 s
            else if src ≠ 0 && !channelIdle s src then fail stBusy 0 s
            else if 32 ≤ (panelAt s p).queue.length + (panelAt s p).issuing.isSome.toNat + drawsArriving s p then fail stResourceExhausted 0 s
            else if src ≠ 0 then .accepted [] (receiveTransfer c 0x0B11 src tid (rd c.p 16 4) (rd c.p 20 4) 16 20 s)
            else
              let data := slice c.p 24 (rd c.p 16 4)
              if crc32 data = rd c.p 20 4 then .accepted [] (queueDraw p (readDraw c.ref c.p data) s)
              else .accepted [] (complete c.ref stBadField 36 [] s))) }

/-- The pages of FIO_PANEL_DRAW have arrived whole (R501). -/
def drawReceived (t : Transfer) (s : State) : State :=
  queueDraw (rd t.request.args 0 1) (readDraw t.ref t.request.args t.data) s

/-- State code of FIO_PANEL_READ. -/
def panelCode (x : Panel) : Nat :=
  match x.phase with
  | .off => if x.kept.isNone then 0 else 1
  | .poweringUp => 2
  | .on => 3
  | .poweringOff => 4
  | .fault => 5

/-- FIO_PANEL_READ (R502). -/
def cmdFioPanelRead : Cmd := {
  opcode := 0x0B12, role := fun _ => .reader, size := 4, updating := glfUpdating
  body := fun c s =>
    let p := rd c.p 0 1
    let x := panelAt s p
    checked [inRange 0 (p ≤ 1), resv c.p 1 3] s
      (okWith (le 1 (panelCode x) ++ le 1 x.inFlight.length ++ le 1 (x.queue.length + x.issuing.isSome.toNat) ++
        le 1 (ofBits [x.imageValid, x.abrupt]) ++ le 4 x.draws ++ le 4 x.faults) s) }

/-- FIO_PANEL_SET (R500): configures or removes a panel's profile. -/
def execFioPanelSet (rq : Request) (s : State) : Result := .next (submit cmdFioPanelSet rq s)

/-- FIO_PANEL_DRAW (R501): queues a draw, its pixels inline or by stream. -/
def execFioPanelDraw (rq : Request) (s : State) : Result := .next (submit cmdFioPanelDraw rq s)

/-- FIO_PANEL_READ (R502): a panel's state and counts. -/
def execFioPanelRead (rq : Request) (s : State) : Result := .next (submit cmdFioPanelRead rq s)

/-- PANEL_BUSY_RELEASED (R491, R492, R494): the next panel command may be issued. -/
def execPanelBusyReleased (panel : Nat) (s : State) : Result :=
  .next (panelAdvance panel (setPanel panel (fun x => { x with busy := false }) s))

/-- PANEL_BUSY_TIMEOUT (R491): BUSY held beyond busy_timeout_ms is a panel fault. -/
def execPanelBusyTimeout (panel : Nat) (s : State) : Result :=
  .next (if s.pwr.fieldOn && (panelAt s panel).busy then panelFault panel 1 s else s)

/-- PANEL_RAIL_FAULT (R491): a rail that does not reach its value at power-up is a panel fault. -/
def execPanelRailFault (panel : Nat) (s : State) : Result :=
  .next (if s.pwr.fieldOn && (panelAt s panel).phase == .poweringUp then panelFault panel 2 s else s)

/-- PANEL_DRAW_COMPLETE (R494): the time in flight of the panel's oldest draw ends. -/
def execPanelDrawComplete (panel : Nat) (s : State) : Result :=
  .next (match (panelAt s panel).inFlight with
    | [] => s
    | (d, _) :: rest =>
      panelAdvance panel (complete d.ref stOk 0 (le 8 (now s)) (setPanel panel (fun x => { x with
        inFlight := rest, draws := cap 0xFFFFFFFF (x.draws + 1), imageValid := x.imageValid || d.full }) s)))

/-- PANEL_OFF_DELAY (R492): an idle panel is sent cmd_sleep and then powered off. -/
def execPanelOffDelay (panel : Nat) (s : State) : Result :=
  let x := panelAt s panel
  .next (if s.pwr.fieldOn && x.phase == .on && drawsWaiting x = 0 then
    setPanel panel (fun x => { x.send [(false, (x.profile.map (fun f => f.command 4)).getD 0)] with phase := .poweringOff }) s
  else s)

end Sys2Proof.Machine
end

