-- ==== Sys2Proof/Machine/Power.lean ====
section
/-!
DEFINITION. Power inputs, hand-over, modes, the entry into Vigil, thermal reactions and the SYS_POWER_ commands. Chapters 02 (R31),
03 (R55 to R63, R78, R79) and 01 (R26) of the spec. The power-down sequence stands in Machine/PowerDown.lean, the start in
Machine/Start.lean.
-/

namespace Sys2Proof.Config

/-- Energy in µWh that counter `i` of a register set has taken in the window open at a power-down (R72 of 03; log 39). -/
opaque partialEnergy : Nat → Nat → Nat → Nat

end Sys2Proof.Config

namespace Sys2Proof.Machine

/-- Changes the power part. -/
def setPwr (f : PowerState → PowerState) (s : State) : State := { s with pwr := f s.pwr }

/-! ## The supply fault (source 0x1A; R57, R58, R61) -/

/-- A condition of source 0x1A lasts: BATT lost in MAIN_ON, MAIN unstable, low battery. -/
def supplyFaultLasts (s : State) : Bool := s.pwr.battLostReported || s.pwr.mainUnstable || s.pwr.lowBattery

/-- Ends source 0x1A when none of its conditions lasts. -/
def settleSupply (s : State) : State := if supplyFaultLasts s then s else endFault 0x1A s

/-! ## Modes (R60 to R63) -/

/-- Which demand limits the effective mode: 0 command, 1 thermal, 2 battery (R78). -/
def limiting (s : State) : Nat :=
  let e := effective s
  if s.pwr.demandCommand = e then 0 else if s.pwr.demandThermal = e then 1 else 2

/-- Enters a mode, with its MODE trace record (R604 of 18). -/
def enterMode (m : Mode) (s : State) : State :=
  if s.pwr.mode = m then s else traceMode (setPwr (fun p => { p with mode := m }) s)

/-- Changes a demand: POWER is raised where the effective mode, the lowest of the three, changes by it (R60; R115 of 05). -/
def changeDemand (f : PowerState → PowerState) (s : State) : State :=
  let t := setPwr f s
  if effective t = effective s then t else interrupt causePower t

/-- The SYS_POWER_MODE response (R78). -/
def powerModeBytes (s : State) : Bytes := le 1 (effective s).code ++ le 1 (limiting s) ++ zeros 2

/-- The effective mode is reached: what waits for it completes (R78). -/
def modeReached (s : State) : State :=
  let refs := s.pwr.powerRefs
  let s := setPwr (fun p => { p with powerRefs := [] }) s
  refs.foldl (fun s r => complete r stOk 0 (powerModeBytes s) s) s

/-- First tick of the first round that starts at least 3 ticks from now (R62). -/
def leanTick (s : State) : Nat := roundStart (now s + 3)

/-- Channels 1 to 7 are suspended in Vigil and go on afterwards (R142 of 05). -/
def suspendChannels (on : Bool) (s : State) : State :=
  ((List.range 8).drop 1).foldl (fun s c =>
    let s := setChan c (fun ch => { ch with suspended := on && ch.dir != .closed }) s
    if on then s else pump c s) s

/-- COMPUTE is unpowered: Yarrow stops, what runs is gone, lanes 1 to 15 are off (R25, R26). -/
def computeDown (s : State) : State :=
  let s := dropTasks (fun _ => true) s
  let s := setYrw (fun y => { y with running := [], tasks := [], heldPages := [], staged := [], ahead := none, stopped := true }) s
  setPwr (fun p => { p with computeOn := false }) s

/-- The oldest tick's frontier write is under way, so that it still commits when the allowance ends (R62, R99 of 04). -/
def commitUnderWay (t : OpenTick) : Bool := t.phase == .committing && !t.awaitingAck

/-- The entry into Vigil ends: ticks still open abort, a module of a pair releases the baton, COMPUTE goes off (R26, R62). -/
def finishVigil (s : State) : State :=
  let s := setPwr (fun p => { p with vigilEntryBy := none }) s
  let s := abortFrom false (fun _ => true) (commitClosed commitUnderWay 1 s)
  let s := if s.duty.role = .single then s else releaseBaton 4 s
  let s := portsDown true (computeDown (stemVigil s))
  let s := suspendChannels true (reviewPoints s)
  if effective s = .vigil then modeReached s else s

/-- The module goes to Vigil: no tick is opened for the data path, open ticks get up to 10 ms, CANCEL goes out to the bridges; a standby leaves
IN_SYNC (R26, R62; R376 of 11; R555 of 16). -/
def vigilEntry (s : State) : State :=
  let s := enterMode .vigil (stemCancelAll (loseSync 0 s))
  let s := reviewPoints (setPwr (fun p => { p with leanChangeAt := none, vigilExiting := false }) s)
  if s.led.ticks.isEmpty then finishVigil s
  else setPwr (fun p => { p with vigilEntryBy := some (s.time.uptime + 10) }) s

/-- The mode follows the effective mode (R60, R62, R63). In STARTING and HOLD the demands are only recorded. Without COMPUTE the
module stays as in Vigil (R67). -/
def settleMode (s : State) : State :=
  match s.pwr.mode with
  | .full =>
    match effective s with
    | .full => modeReached (setPwr (fun p => { p with leanChangeAt := none }) s)
    | .lean => setPwr (fun p => { p with leanChangeAt := p.leanChangeAt.orElse (fun _ => some (leanTick s)) }) s
    | _ => vigilEntry s
  | .lean =>
    match effective s with
    | .full => setPwr (fun p => { p with leanChangeAt := p.leanChangeAt.orElse (fun _ => some (leanTick s)) }) s
    | .lean => modeReached (setPwr (fun p => { p with leanChangeAt := none }) s)
    | _ => vigilEntry s
  | .vigil =>
    match effective s with
    | .full => if s.pwr.computeFailed then s else setPwr (fun p => { p with vigilExiting := true }) s
    | .lean => if s.pwr.computeFailed then s else setPwr (fun p => { p with vigilExiting := true }) s
    | _ =>
      let s := setPwr (fun p => { p with vigilExiting := false }) s
      if s.pwr.vigilEntryBy.isNone && effective s = .vigil then modeReached s else s
  | _ => s

/-- A change between Full and Lean takes effect at its tick (R62). -/
def leanChange (s : State) : State :=
  match s.pwr.leanChangeAt with
  | none => s
  | some t =>
    if now s < t then s
    else
      let s := setPwr (fun p => { p with leanChangeAt := none }) s
      match effective s with
      | .full => modeReached (gateUmbels (enterMode .full s))
      | .lean => modeReached (gateUmbels (enterMode .lean s))
      | _ => s

/-- The mode of a demand. -/
def Demand.mode : Demand → Mode
  | .full => .full | .lean => .lean | .vigil => .vigil | .keep => .vigil

/-- Start complete: the module goes to the effective mode (R63). -/
def startComplete (s : State) : State :=
  if s.pwr.mode ≠ .starting then s
  else
    match effective s with
    | .full => reviewPoints (modeReached (enterMode .full s))
    | .lean => reviewPoints (modeReached (enterMode .lean s))
    | _ => vigilEntry s

/-- VIGIL_EXIT_COMPLETE (R62, R78): COMPUTE is powered and the data path runs again; channels, ports and points go on. -/
def execVigilExitComplete (s : State) : Result :=
  if s.pwr.mode ≠ .vigil || !s.pwr.vigilExiting || s.pwr.vigilEntryBy.isSome then .next s
  else
    let s := setPwr (fun p => { p with vigilExiting := false, computeOn := true }) s
    let s := gateUmbels (enterMode (effective s).mode (setYrw (fun y => { y with stopped := false }) s))
    .next (modeReached (evalOutputs (reviewPoints (suspendChannels false (portsUp s)))))

/-! ## Thermal reactions (R31) -/

/-- Demand of the thermal reactions in force (R31, R60). -/
def thermalDemand (l : List Thermal) : Demand :=
  if l.contains .glc105 then .vigil else if l.contains .glc103 then .lean else .full

/-- Threshold in degrees Celsius, and fault source, of a reaction (R31, R537 of 16). -/
def Thermal.limit : Thermal → Int
  | .glc100 => 100 | .glc103 => 103 | .glc105 => 105 | .glf115 => 115 | .glf125 => 125
def Thermal.source : Thermal → Nat
  | .glc100 => 0x12 | .glc103 => 0 | .glc105 => 0x13 | .glf115 => 0x14 | .glf125 => 0x06
/-- The reaction is one of GL-C. -/
def Thermal.onGlc : Thermal → Bool
  | .glc100 => true | .glc103 => true | .glc105 => true | .glf115 => false | .glf125 => false

/-- The temperature of a reaction's die. -/
def dieTemp (r : Thermal) (s : State) : Int := if r.onGlc then s.pwr.tempC else s.pwr.tempF

/-- The thermal demand follows the reactions in force; Yarrow's allocation is limited from 103 °C on (R31). -/
def settleThermal (s : State) : State :=
  let l := s.pwr.thermal
  let s := setYrw (fun y => { y with thermalLimit := l.contains .glc103 }) s
  let d := thermalDemand l
  if s.pwr.demandThermal = d then s else settleMode (changeDemand (fun p => { p with demandThermal := d }) s)

/-- One reaction begins when its threshold is reached (R31). -/
def thermalOne (s : State) (r : Thermal) : State :=
  if dieTemp r s < r.limit || s.pwr.thermal.contains r then s
  else
    let s := setPwr (fun p => { p with thermal := p.thermal ++ [r] }) s
    if r = .glf125 then raiseA 0x06 1 s
    else if r.source = 0 then s
    else raiseFault r.source 1 s

/-- Each die's temperature is measured every tick (R31). -/
def thermalCheck (tempC tempF : Int) (s : State) : State :=
  let s := setPwr (fun p => { p with tempC := tempC, tempF := tempF }) s
  let glc := if s.pwr.computeOn then [Thermal.glc100, .glc103, .glc105] else []
  let glf := if s.pwr.fieldOn then [Thermal.glf115, .glf125] else []
  settleThermal ((glc ++ glf).foldl thermalOne s)

/-- Reaction of an index 0 to 4, in the order of *Thermal thresholds* (R31). -/
def thermalOf : Nat → Option Thermal
  | 0 => some .glc100 | 1 => some .glc103 | 2 => some .glc105 | 3 => some .glf115 | 4 => some .glf125
  | _ => none

/-- THERMAL_CANCEL (R31): the temperature has been at least 5 K below the threshold for 60 s. -/
def execThermalCancel (reaction : Nat) (s : State) : Result :=
  match thermalOf reaction with
  | none => .next s
  | some r =>
    if s.pwr.thermal.contains r && decide (dieTemp r s + 5 ≤ r.limit) then
      let s := setPwr (fun p => { p with thermal := p.thermal.filter (· != r) }) s
      .next (settleThermal (if r.source = 0 then s else endFault r.source s))
    else .next s

/-! ## Hand-over (R55 to R58) -/

/-- Position of a path switch: a source lost for over-voltage has its path held off, whatever the hand-over state asks for (R56). -/
def pathFor (overVoltage : Bool) (p : PathSwitch) : PathSwitch := if overVoltage then .heldOff else p

/-- Enters a hand-over state; every transition updates the code that SYS_POWER_STATUS reports (R57). -/
def toHandover (h : Handover) (main batt : PathSwitch) (s : State) : State :=
  traceMode (interrupt causePower (setPwr (fun p => { p with
    handover := h, mainPath := pathFor p.mainOver main, battPath := pathFor p.battOver batt }) s))

/-- MAIN_ON is reached: the battery demand returns to Full (R61). -/
def toMainOn (s : State) : State :=
  let s := toHandover .mainOn .conducting .heldOff s
  settleMode (settleSupply (changeDemand (fun p => { p with demandBattery := .full, lowBattery := false }) s))

/-- BATT_ON is reached; a MAIN that is present already starts to qualify (R57). -/
def toBattOn (s : State) : State :=
  let s := toHandover .battOn .heldOff .conducting s
  if s.pwr.mainPresent then toHandover .mainQual .heldOff .conducting s else s

/-- The module has come onto BATT now (R61, R79). -/
def onBatt (s : State) : State := setPwr (fun p => { p with battSince := s.time.uptime }) s

/-- BANK: no source, both paths in ideal-diode mode (R57). -/
def toBank (s : State) : State := toHandover .bank .idealDiode .idealDiode s

/-- Counts one MAIN loss; the third within 60 s marks MAIN unstable (R58). -/
def countMainLoss (s : State) : State :=
  let l := s.pwr.mainLosses.filter (fun t => decide (s.time.uptime < t + 60000)) ++ [s.time.uptime]
  let s := setPwr (fun p => { p with mainLosses := l }) s
  if 3 ≤ l.length && !s.pwr.mainUnstable then raiseFault 0x1A 2 (setPwr (fun p => { p with mainUnstable := true }) s) else s

/-- MAIN, BATT is lost: not present, and for over-voltage its path is held off at once; in Keep the loss is noted (R56, R63). -/
def mainGone (overVoltage : Bool) (s : State) : State :=
  setPwr (fun p => { p with
    mainPresent := false, mainOver := overVoltage, mainPath := pathFor overVoltage p.mainPath
    mainLostInKeep := p.mainLostInKeep || p.mode == .keep }) s
def battGone (overVoltage : Bool) (s : State) : State :=
  setPwr (fun p => { p with
    battPresent := false, battOver := overVoltage, battPath := pathFor overVoltage p.battPath
    battLostInKeep := p.battLostInKeep || p.mode == .keep }) s

/-- A wake event takes the module from Keep to STARTING (R63). -/
def wake (s : State) : State := if s.pwr.mode = .keep then setPwr (fun p => { p with mode := .starting }) s else s

/-- An input has qualified: from Keep after a power-down or a removal it wakes while MOD_EN_N is low, from a commanded Keep where that
input has been lost before (R63). An input that was absent already when Keep was entered counts as lost (DEDUCED; log 51). -/
def inputQualified (wasLost : Bool) (s : State) : State :=
  if s.pwr.mode = .keep && s.pwr.modEnLow && !s.pwr.vigilFailed && (!s.pwr.keepCommanded || wasLost) then wake s else s

/-- MAIN_LOST (R56, R57, R58), below 39.0 V or for over-voltage. -/
def execMainLost (overVoltage : Bool) (s : State) : Result :=
  let s := mainGone overVoltage s
  .next (match s.pwr.handover with
  | .mainOn =>
    let s := countMainLoss s
    if s.pwr.battPresent then toHandover .toBatt .conducting .conducting s else toBank s
  | .mainQual => toBattOn (countMainLoss s)
  | .toMain => toBattOn (countMainLoss s)
  | _ => s)

/-- The path of an input that is back takes the position that the hand-over state gives it (R56, R57). -/
def pathBack (h : Handover) (held main : PathSwitch) (overVoltage : Bool) (p : PathSwitch) : PathSwitch :=
  if !overVoltage then p else match h with
    | .bank => .idealDiode
    | .powerDown => held
    | .mainOn => main
    | _ => p

/-- MAIN_PRESENT (R56, R57): at least 41.0 V, after an over-voltage 60.0 V or less for 100 ms, before qualification. -/
def execMainPresent (s : State) : Result :=
  let s := setPwr (fun p => { p with
    mainPresent := true, mainOver := false
    mainPath := pathBack p.handover (if p.modEnLow then .idealDiode else .heldOff) .conducting p.mainOver p.mainPath }) s
  .next (match s.pwr.handover with
  | .battOn => toHandover .mainQual .heldOff .conducting s
  | .bank => unlistedEvent 1 0 (toMainOn s)
  | _ => s)

/-- MAIN_QUALIFIED (R57): the overlap begins; in Keep it is the wake event. -/
def execMainQualified (s : State) : Result :=
  .next (match s.pwr.handover with
  | .mainQual => toHandover .toMain .conducting .conducting s
  | .powerDown => inputQualified s.pwr.mainLostInKeep (setPwr (fun p => { p with mainPresent := true, mainOver := false }) s)
  | _ => s)

/-- BATT_LOST (R56, R57), below 39.0 V or for over-voltage. -/
def execBattLost (overVoltage : Bool) (s : State) : Result :=
  let s := battGone overVoltage s
  .next (match s.pwr.handover with
  | .mainOn => raiseFault 0x1A 1 (setPwr (fun p => { p with battLostReported := true }) s)
  | .toBatt => toBank s
  | .battOn => toBank s
  | .mainQual => toMainOn (raiseFault 0x1A 4 s)
  | .toMain => toMainOn s
  | _ => s)

/-- BATT_PRESENT (R56, R57): for the BATT qualification time. -/
def execBattPresent (s : State) : Result :=
  let s := settleSupply (setPwr (fun p => { p with
    battPresent := true, battLostReported := false, battOver := false
    battPath := pathBack p.handover (if p.modEnLow then .idealDiode else .heldOff) .heldOff p.battOver p.battPath }) s)
  .next (match s.pwr.handover with
  | .bank => if s.pwr.mainPresent then toMainOn s else toBattOn (onBatt s)
  | .powerDown => inputQualified s.pwr.battLostInKeep s
  | _ => s)

/-- SWITCH_COMPLETE (R57): a hand-over or the 1 ms overlap completes. -/
def execSwitchComplete (s : State) : Result :=
  .next (match s.pwr.handover with
  | .toBatt => toBattOn (onBatt s)
  | .toMain => toMainOn s
  | _ => s)

/-- MAIN_UNSTABLE_CLEAR (R58): 10 minutes with no MAIN loss. -/
def execMainUnstableClear (s : State) : Result :=
  .next (if s.pwr.mainUnstable then settleSupply (setPwr (fun p => { p with mainUnstable := false, mainLosses := [] }) s) else s)

/-! ## Battery policy (R61) -/

/-- The battery policy applies (R61). -/
def onBattery (s : State) : Bool := s.pwr.handover == .battOn || s.pwr.handover == .mainQual

/-- The mode that batt_policy names. -/
def BattPolicy.demand : BattPolicy → Demand
  | .none => .full | .lean => .lean | .vigil => .vigil

/-- BATT_POLICY_DELAY (R61): batt_delay_s on BATT has passed. A low battery asks for Vigil whatever the policy says. -/
def execBattPolicyDelay (s : State) : Result :=
  .next (if onBattery s && s.pwr.battPolicy != .none then
    settleMode (changeDemand (fun p => { p with demandBattery := if p.lowBattery then .vigil else p.battPolicy.demand }) s)
  else s)

/-- LOW_BATTERY (R61): BATT below batt_low_dv for 10 s. -/
def execLowBattery (s : State) : Result :=
  .next (if onBattery s && s.pwr.battLowDv != 0 then
    let s := if s.pwr.lowBattery then s else raiseFault 0x1A 3 (setPwr (fun p => { p with lowBattery := true }) s)
    settleMode (changeDemand (fun p => { p with demandBattery := .vigil }) s)
  else s)

/-! ## SYS_POWER_MODE and SYS_POWER_STATUS (R78, R79) -/

/-- Demand of a code (R78). -/
def demandOfCode : Nat → Demand
  | 0 => .full | 1 => .lean | 2 => .vigil | _ => .keep

/-- Battery policy of a code (R78). -/
def policyOf : Nat → BattPolicy
  | 0 => .none | 1 => .lean | _ => .vigil

/-- Sets the command demand and the battery policy together (R78). -/
def setDemand (p : Bytes) (s : State) : State :=
  let d := demandOfCode (rd p 0 1)
  changeDemand (fun x => { x with
    demandCommand := d, battPolicy := policyOf (rd p 1 1), battDelayS := rd p 2 2, battLowDv := rd p 4 2
    wakeTime := if d = .keep then rd p 8 8 else x.wakeTime, keepDue := decide (d = .keep) }) s

/-- SYS_POWER_MODE (R78). A demand of Keep is answered OK and Keep is entered 100 ms later. -/
def cmdSysPowerMode : Cmd := {
  opcode := 0x0140, role := fun _ => .operator, async := true, size := 16
  body := fun c s =>
    let low := rd c.p 4 2
    let wakeAt := rd c.p 8 8
    checked [field 0 (rd c.p 0 1 ≤ 3), field 1 (rd c.p 1 1 ≤ 2), inRange 2 (rd c.p 2 2 ≤ 3600),
        inRange 4 (low == 0 || (400 ≤ low && low ≤ 520)), resv c.p 6 2, inRange 8 (wakeAt == 0 || decide (now s + 10000 ≤ wakeAt))] s
      (if rd c.p 0 1 = 3 then
         if s.pwr.mode = .starting then fail stNotReady 0 s
         else
           let t := setDemand c.p s
           okWith (powerModeBytes t) (settleMode t)
       else
         let t := setPwr (fun p => { p with powerRefs := p.powerRefs ++ [c.ref] }) (setDemand c.p s)
         .accepted (powerModeBytes t) (settleMode t)) }

/-- The latest power-down record: the copy with a valid CRC and the higher record_id (R73). -/
def latestDown (s : State) : Option PowerDownRecord :=
  let a := s.pwr.recordA
  let b := s.pwr.recordB
  if a.valid && b.valid then some (if a.recordId < b.recordId then b else a)
  else if a.valid then some a else if b.valid then some b else none

/-- SYS_POWER_STATUS (R79). batt_seconds counts from the last hand-over to BATT; in a state other than MAIN_ON that no hand-over to
BATT led to (BANK, TO_BATT, a start on BATT) it counts from the power-up of VIGIL (DESIGN CHOICE; log 51). -/
def cmdSysPowerStatus : Cmd := {
  opcode := 0x0141, role := fun _ => .reader, size := 0
  body := fun _ s =>
    let p := s.pwr
    let r := (latestDown s).getD {}
    let since := if p.handover = .mainOn then 0 else (s.time.uptime - p.battSince) / 1000
    okWith (le 1 (effective s).code ++ le 1 p.handover.code ++
      le 1 (p.demandCommand.code + 4 * p.demandThermal.code + 16 * p.demandBattery.code) ++
      le 1 (ofBits [p.mainUnstable, decide (p.keepReserveMv < 3000), p.keepLost, p.moistureSinceStart]) ++
      le 2 p.mainDv ++ le 2 p.battDv ++ le 2 p.vbusDv ++ le 2 p.inputDw ++ le 4 since ++ le 8 r.detectTime ++ le 1 r.cause ++
      le 1 r.progress ++ zeros 2 ++ le 4 p.keepReserveMv) s }

def execSysPowerMode (rq : Request) (s : State) : Result := .next (submit cmdSysPowerMode rq s)
def execSysPowerStatus (rq : Request) (s : State) : Result := .next (submit cmdSysPowerStatus rq s)

end Sys2Proof.Machine
end

