-- ==== Sys2Proof/Machine/VltCommands.lean ====
section
/-!
DEFINITION. The commands of Tansy: VLT_. Chapter 15 of the spec (R531 to R536).
-/

namespace Sys2Proof.Machine

/-- Categories that may be written or destroyed by command in a life-cycle state (R512). -/
def categoryWritable (l : Lifecycle) (category : Nat) : Bool :=
  match l with
  | .blank => category == 3
  | .provisioned => category == 3 || category == 4 || category == 5
  | .sealed => category == 3 || category == 4 || category == 5
  | .service => category == 3
  | .scrapped => false

/-- VLT_STATUS. -/
def cmdVltStatus : Cmd := {
  opcode := 0x0C00, role := fun _ => .reader, size := 0
  body := fun _ s =>
    let v := s.vlt
    let ns := slotNumbers s
    let used := ns.countP (fun n => match slotInForce s n with
      | some c => attrCategory c.attr != 0
      | none => false)
    let serving := fun (cls : Nat) => (v.engines.getD cls []).map (fun e => e.inService)
    let unusable := if v.zeroised then 4096 else ns.countP (fun n => (slotInForce s n).isNone)
    okWith (le 2 used ++ le 2 unusable ++
      le 2 (v.slots.countP (fun e => e.2.change.isSome)) ++ zeros 2 ++
      le 4 (ofBits (serving 0)) ++ le 1 (ofBits (serving 1)) ++
      le 1 (ofBits (serving 2 ++ serving 3 ++ serving 6 ++ serving 5 ++ serving 4)) ++ zeros 2 ++
      le 8 v.derivations ++ le 4 v.refusals ++ le 4 v.testFailures) s }

/-- Another slot holds, or is about to hold, a purpose and index (R510, R531). -/
def heldElsewhere (s : State) (slot purpose index : Nat) : Bool :=
  s.vlt.slots.any (fun e =>
    let c := (slotInForce s e.1).getD e.2.a
    let now' := attrCategory c.attr != 0 && attrPurpose c.attr == purpose && attrIndex c.attr == index
    let then' := match e.2.change with
      | some d => d.kind != 3 && attrPurpose d.attr == purpose && attrIndex d.attr == index
      | none => false
    e.1 != slot && (now' || then'))

/-- A key that the vault makes from its random generator (R514): as many bytes as the layout holds; a scalar in range. -/
def generatedMaterial (type : Nat) (s : State) : Bytes × State :=
  let r := drawBytes 30 64 s
  let m := match type with
    | 0 => pad 64 (r.1.take 16)
    | 2 => pad 64 (be 32 (1 + ofBe (r.1.take 40) % (p256.n - 1)))
    | 3 => pad 64 (be 48 (1 + ofBe r.1 % (p384.n - 1)))
    | 7 => pad 64 (r.1.take 48)
    | _ => pad 64 (r.1.take 32)
  (m, r.2)

/-- VLT_SLOT_WRITE (R531). A dry run answers check and public, and generation 0 (R122 of 05). -/
def cmdVltSlotWrite : Cmd := {
  opcode := 0x0C01, role := fun _ => .warden, size := 88, dryrun := true
  body := fun c s =>
    let p := c.p
    let slot := rd p 0 2
    let action := rd p 2 1
    let a := rd p 4 8
    let type := attrType a
    let asked := rd p 16 8
    let given := slice p 24 64
    let row := findPurpose (attrPurpose a)
    let cred := attrPurpose a == 11
    let category := (row.map (·.category)).getD 0
    checked [
      inRange 0 (slot ≤ 4095),
      field 0 (slot != 0 && !(64 ≤ slot && slot ≤ 127) &&
        (match row with
         | some r => decide (r.low ≤ slot) && decide (slot ≤ r.high)
         | none => true)),
      inRange 2 (action ≤ 1),
      field 2 (action == 0 || [0, 1, 2, 3, 6, 7].contains type),
      resv p 3 1,
      field 4 (a % 16 == 0 && a / 2 ^ 39 == 0),
      field 4 (match row with
        | some r => r.types.contains type && attrDest a == r.dest && indexPermitted r.code (attrIndex a) slot &&
            decide (attrRoles a < 32) && (cred || (attrRoles a == 0 && !attrUdp a))
        | none => false),
      field 4 (!heldElsewhere s slot (attrPurpose a) (attrIndex a)),
      resv p 12 4,
      inRange 16 (asked == 0 || decide (now s + 3 ≤ asked)),
      field 24 (if action = 0 then materialFits type (pad (materialLen type) given) else given.all (· == 0#8))] s
      (if !categoryWritable s.fol.lifecycle category then fail stDeniedLifecycle s.fol.lifecycle.code s
       else if (slotAt s slot).change.isSome then fail stBusy 0 s
       else
         let m := if action = 0 then (given, s) else generatedMaterial type s
         let tick := if asked = 0 then now s + 3 else asked
         let gen := nextSlotGen s slot
         let change : SlotChange := {
           kind := 1 + action, tick := tick, material := m.1, attr := a + category, principal := c.actor.1 }
         let t := setVlt (fun v => { v with slots := Tab.upd v.slots slot {} (fun x => { x with change := some change }) }) m.2
         okWith (le 2 (if c.dry then 0 else gen) ++ zeros 2 ++ pad 4 (checkValue type m.1) ++ le 8 tick ++ publicOf type m.1) t) }

/-- VLT_SLOT_READ (R532). -/
def cmdVltSlotRead : Cmd := {
  opcode := 0x0C02, role := fun _ => .reader, size := 4
  body := fun c s =>
    let n := rd c.p 0 2
    checked [inRange 0 (n ≤ 4095), resv c.p 2 2] s
      (let x := slotAt s n
       let pendingBit := if x.change.isSome then 2 ^ 39 else 0
       match slotInForce s n with
       | none =>
         let a := if laterGen (attrGeneration x.b.attr) (attrGeneration x.a.attr) then x.b.attr else x.a.attr
         okWith (le 1 2 ++ zeros 3 ++ le 8 (a + pendingBit) ++ zeros 100) s
       | some k =>
         let state := if x.change.isSome then 3 else if attrCategory k.attr = 0 then 0 else 1
         let empty := attrCategory k.attr == 0
         okWith (le 1 state ++ zeros 3 ++ le 8 (k.attr + pendingBit) ++
           (if empty then zeros 100
            else pad 4 (checkValue (attrType k.attr) k.material) ++ publicOf (attrType k.attr) k.material)) s) }

/-- VLT_SLOT_DESTROY (R533). -/
def cmdVltSlotDestroy : Cmd := {
  opcode := 0x0C03, role := fun _ => .warden, size := 16, dryrun := true
  body := fun c s =>
    let n := rd c.p 0 2
    let asked := rd c.p 8 8
    checked [inRange 0 (n ≤ 4095), field 0 (n != 0 && !(64 ≤ n && n ≤ 127)), resv c.p 2 6,
        inRange 8 (asked == 0 || decide (now s + 3 ≤ asked))] s
      (let x := slotAt s n
       let k := (slotInForce s n).getD x.a
       let category := attrCategory k.attr
       let held := if category = 0 then (if n ≤ 63 then 3 else 4) else category
       if !categoryWritable s.fol.lifecycle held then fail stDeniedLifecycle s.fol.lifecycle.code s
       else if slotEmpty s n then fail stNotReady 0 s
       else if x.change.isSome then fail stBusy 0 s
       else
         let tick := if asked = 0 then now s + 3 else asked
         okWith (le 8 tick) (setVlt (fun v => { v with slots := Tab.upd v.slots n {} (fun x =>
           { x with change := some { kind := 3, tick := tick, principal := c.actor.1 } }) }) s)) }

/-- VLT_CERT_SET (R534): the certificates follow as pages. -/
def cmdVltCertSet : Cmd := {
  opcode := 0x0C10, role := fun _ => .warden, async := true, size := 24, dryrun := true, stream := true
  body := fun c s =>
    let entry := rd c.p 0 1
    let action := rd c.p 1 1
    let ch := rd c.p 2 1
    let tid := rd c.p 4 4
    let asked := rd c.p 8 8
    let len := rd c.p 16 4
    let install := action == 0
    checked [
      inRange 0 (entry ≤ 1 || (16 ≤ entry && entry ≤ 31)), inRange 1 (action ≤ 1),
      inRange 2 (if install then 1 ≤ ch && ch ≤ 7 else ch == 0), resv c.p 3 1,
      inRange 4 (if install then tid != 0 else tid == 0),
      inRange 8 (asked == 0 || decide (now s + 3 ≤ asked)),
      inRange 16 (if install then 1 ≤ len && len ≤ 4800 else len == 0),
      inRange 20 (install || rd c.p 20 4 == 0)] s
      (let e := Tab.getD s.vlt.certs entry {}
       if (entry ≤ 1 && (findSlot s 7 entry).isNone) || (!install && e.certs.isEmpty) then fail stNotReady 0 s
       else if e.change.isSome || (install && !channelIdle s ch) then fail stBusy 0 s
       else if install then .accepted [] (receiveTransfer c 0x0C10 ch tid len (rd c.p 20 4) 16 20 s)
       else
         let tick := if asked = 0 then now s + 3 else asked
         if c.dry then okWith (le 8 tick) s
         else .accepted (le 8 tick) (setVlt (fun v => { v with
           certs := Tab.put v.certs entry { e with change := some (tick, [], some c.ref) } }) s)) }

/-- The certificates of an entry stand up to R522: they parse, the chain verifies, the leaf's key is the SECC key's. -/
def certsGood (s : State) (entry : Nat) (data : Bytes) : Option (List Bytes) :=
  let most := if entry ≤ 1 then 3 else 1
  match parseChain most data with
  | none => none
  | some l =>
    let certs := l.map (·.1)
    let leafGood := if entry ≤ 1 then
        match (findSlot s 7 entry).bind (slotInForce s), certs.head? with
        | some k, some leaf =>
          let wide := attrType k.attr == 3
          leaf.curve == some wide && (entry == 1 || !wide) &&
            leaf.pub == (publicOf (attrType k.attr) k.material).take (if wide then 96 else 64)
        | _, _ => false
      else true
    if !l.isEmpty && l.all (fun c => c.2.length ≤ 1600) && chainVerifies certs && leafGood then some (l.map (·.2)) else none

/-- The pages of VLT_CERT_SET have arrived whole (R522, R534). -/
def certReceived (t : Transfer) (s : State) : State :=
  let entry := rd t.request.args 0 1
  let asked := rd t.request.args 8 8
  match certsGood s entry t.data with
  | none => tableFault t.ref 0 0 s
  | some certs =>
    let tick := if asked = 0 then now s + 3 else asked
    let e := Tab.getD s.vlt.certs entry {}
    if tick < now s + 3 then complete t.ref stOutOfRange 24 [] s
    else if e.change.isSome then complete t.ref stBusy 0 [] s
    else if t.dryrun then complete t.ref stOk 0 (le 8 tick) s
    else setVlt (fun v => { v with certs := Tab.put v.certs entry { e with change := some (tick, certs, some t.ref) } }) s

/-- VLT_ATTEST (R523, R535). -/
def cmdVltAttest : Cmd := {
  opcode := 0x0C20, role := fun _ => .none, size := 16
  body := fun c s =>
    let seals := ofBits ((List.range 8).map (fun i => sealClosed s (i + 1)))
    let recent := s.vlt.attests.filter (fun t => s.time.uptime < t + 1000)
    if 100 ≤ recent.length then fail stBusy 0 s
    else
      let key := keyFor 6 (.stored 10 0) s
      match key.1 with
      | none => fail stNotReady 0 (if (findSlot s 10 0).isSome then key.2 else s)
      | some k =>
        let head := le 8 s.host.serial
        let tail := le 4 s.yrw.kernelSetId ++ le 4 s.met.calib.calibId ++ le 4 s.fol.version ++ le 8 (frontier s)
        let m := ascii "GLAT" ++ head ++ slice c.p 0 16 ++ le 1 s.fol.lifecycle.code ++ le 1 seals ++ tail
        okWith (head ++ le 1 s.fol.lifecycle.code ++ le 1 seals ++ zeros 2 ++ tail ++ aesCmac k m)
          (setVlt (fun v => { v with attests := s.time.uptime :: recent }) key.2) }

/-- VLT_ENGINE (R536): the response to a test is formed when the test ends. -/
def cmdVltEngine : Cmd := {
  opcode := 0x0C30, role := fun p => if rd p 2 1 = 0 then .reader else .operator, size := 4
  body := fun c s =>
    let cls := rd c.p 0 1
    let i := rd c.p 1 1
    let action := rd c.p 2 1
    checked [inRange 0 (cls ≤ 6), inRange 1 (engineExists cls i), inRange 2 (action ≤ 2), resv c.p 3 1] s
      (let e := engineAt s cls i
       if action = 0 then okWith (engineBytes e) s
       else if action = 1 && e.testing then
         let d := draw 22 256 s
         fail stInSelfTest d.1 d.2
       else if (action = 1 && !engineUp s cls i) || (action = 2 && (e.inService || !enginePowered s cls i || e.testing)) then
         fail stNotReady 0 s
       else .later (setEngine cls i (fun e => { e with testing := true, retest := action = 2, waiters := e.waiters ++ [(c.rq, c.ref)] }) s)) }

/-- VLT_STATUS. -/
def execVltStatus (rq : Request) (s : State) : Result := .next (submit cmdVltStatus rq s)
/-- VLT_SLOT_WRITE. -/
def execVltSlotWrite (rq : Request) (s : State) : Result := .next (submit cmdVltSlotWrite rq s)
/-- VLT_SLOT_READ. -/
def execVltSlotRead (rq : Request) (s : State) : Result := .next (submit cmdVltSlotRead rq s)
/-- VLT_SLOT_DESTROY. -/
def execVltSlotDestroy (rq : Request) (s : State) : Result := .next (submit cmdVltSlotDestroy rq s)
/-- VLT_CERT_SET. -/
def execVltCertSet (rq : Request) (s : State) : Result := .next (submit cmdVltCertSet rq s)
/-- VLT_ATTEST. -/
def execVltAttest (rq : Request) (s : State) : Result := .next (submit cmdVltAttest rq s)
/-- VLT_ENGINE. -/
def execVltEngine (rq : Request) (s : State) : Result := .next (submit cmdVltEngine rq s)

end Sys2Proof.Machine
end

