-- ==== Sys2Proof/Machine/Commands.lean ====
section
/-!
DEFINITION. The table of all host commands by opcode, and the service of a request whose opcode comes out of a mailbox or a datagram.
Chapter 05 of the spec (R119, R124).
-/

namespace Sys2Proof.Machine

/-- Commands of opcode block 0x01. -/
def commands01 : List Cmd := [
  cmdSysIdentify, cmdSysSessionOpen, cmdSysSessionAuth, cmdSysSessionClose, cmdSysStreamConfig, cmdSysLifecycle,
  cmdSysPowerMode, cmdSysPowerStatus]

/-- Commands of opcode block 0x02. -/
def commands02 : List Cmd := [
  cmdTimeStatus, cmdTimeConfig, cmdTimeStep, cmdTimeCivil, cmdTimeTicks]

/-- Commands of opcode block 0x03. -/
def commands03 : List Cmd := [
  cmdYrwStatus, cmdYrwCatalogue, cmdYrwWorkloadArm, cmdYrwParamSet, cmdYrwSpares, cmdYrwUmbel, cmdYrwKernelRoll,
  cmdYrwLoad, cmdYrwWorkloadStats, cmdYrwWorkloadRead]

/-- Commands of opcode block 0x04. -/
def commands04 : List Cmd := [
  cmdMemStatus, cmdMemArbRead, cmdMemArbSet, cmdMemArbStats]

/-- Commands of opcode block 0x05. -/
def commands05 : List Cmd := [
  cmdMetStatus, cmdMetSetRead, cmdMetChannelRead, cmdMetRingStatus, cmdMetCalArm, cmdMetCalCapture, cmdMetDemandSet,
  cmdMetDemandReset, cmdMetAuditRead]

/-- Commands of opcode block 0x06. -/
def commands06 : List Cmd := [
  cmdLedStatus, cmdLedAccountRead, cmdLedAccountSet, cmdLedTokenSubmit, cmdLedAdjust, cmdLedSupply,
  cmdLedAccountRestore, cmdLedTariffArm, cmdLedLocalRead, cmdLedJournalRead]

/-- Commands of opcode block 0x07. -/
def commands07 : List Cmd := [
  cmdBalStatus, cmdBalModelArm, cmdBalRulesSet, cmdBalAttribute, cmdBalNetworkRead, cmdBalHistoryRead,
  cmdBalSuspicionRead, cmdBalSuspicionClose]

/-- Commands of opcode block 0x08. -/
def commands08 : List Cmd := [
  cmdStemStatus, cmdStemBridgeSet, cmdStemTxSet, cmdStemBridgeRead, cmdPlcPollSet, cmdPlcNetworkRead, cmdPlcNodeRead]

/-- Commands of opcode block 0x09. -/
def commands09 : List Cmd := [
  cmdRfNetworkSet, cmdRfNetworkRead, cmdRfConnRead, cmdMtrBind, cmdMtrRead, cmdMtrRequest, cmdMtrFwStage,
  cmdMtrFwCampaign, cmdMtrFwStatus]

/-- Commands of opcode block 0x0A. -/
def commands0A : List Cmd := [
  cmdChgStatus, cmdChgPointSet, cmdChgPathSet, cmdChgBusSet, cmdChgIdSet, cmdChgAuthorise, cmdChgStop,
  cmdChgPointRead]

/-- Commands of opcode block 0x0B. -/
def commands0B : List Cmd := [
  cmdFioLsConfig, cmdFioLsSet, cmdFioLsRead, cmdFioPanelSet, cmdFioPanelDraw, cmdFioPanelRead, cmdSafStatus,
  cmdSafInputSet, cmdSafOutputSet]

/-- Commands of opcode block 0x0C. -/
def commands0C : List Cmd := [
  cmdVltStatus, cmdVltSlotWrite, cmdVltSlotRead, cmdVltSlotDestroy, cmdVltCertSet, cmdVltAttest, cmdVltEngine]

/-- Commands of opcode block 0x0D. -/
def commands0D : List Cmd := [
  cmdFltStatus, cmdFltRead, cmdFltClear, cmdFltSafe, cmdFltInject, cmdFltTamper, cmdDutyStatus, cmdDutyYield,
  cmdDutyTakeover, cmdDutyResync]

/-- Commands of opcode block 0x0E. -/
def commands0E : List Cmd := [
  cmdLnkStatus, cmdLnkGrouping, cmdLnkPortSet, cmdLnkAddrSet, cmdLnkMacsecSet, cmdLnkPortRead]

/-- Commands of opcode block 0x0F. -/
def commands0F : List Cmd := [
  cmdSvcStatus, cmdSvcStage, cmdSvcUpdate, cmdSvcBank, cmdSvcTraceConfig, cmdSvcTraceExport, cmdSvcTraceMark]

/-- Every allocated command (R124 step 2). -/
def commands : List Cmd :=
  commands01 ++ commands02 ++ commands03 ++ commands04 ++ commands05 ++ commands06 ++ commands07 ++ commands08 ++
  commands09 ++ commands0A ++ commands0B ++ commands0C ++ commands0D ++ commands0E ++ commands0F

/-- The command of an opcode. -/
def commandOf (opcode : Nat) : Option Cmd := commands.find? (fun c => c.opcode == opcode)

/-- Serves a taken request by its opcode: one that is not allocated answers BAD_LENGTH before BAD_OPCODE (R124 steps 1 and 2). -/
def serveCode (w : Waiting) (s : State) : State :=
  match commandOf w.opcode with
  | some c => serve c w s
  | none => answer w.opcode w (if 240 < w.request.length then stBadLength else stBadOpcode)
      (if 240 < w.request.length then 4 else 0) [] s

/-- Takes the waiting requests in their order, those that Folset serves now (R119, R152). -/
def drainWaiting : List Waiting → State → State
  | [], s => s
  | w :: ws, s =>
    drainWaiting ws (if serves w.opcode s then
      serveCode w { s with fol := { s.fol with waiting := s.fol.waiting.erase w } } else s)

/-- Takes what waits. -/
def drain (s : State) : State := drainWaiting s.fol.waiting s

/-- A request of any opcode arrives. -/
def arriveCode (w : Waiting) (s : State) : State :=
  match commandOf w.opcode with
  | some c => arrive c w s
  | none => if serves w.opcode s then serveCode w s else enqueue w s

end Sys2Proof.Machine
end

