-- ==== Sys2Proof/Machine/Registers.lean ====
section
/-!
DEFINITION. What the host reads: the configuration of the endpoint and the Read column of every register of BAR0. Chapters 00 (R4, R8) and
05 (R111 to R117, R138) of the spec. Writes stand in Machine/HostRows.lean.
-/

namespace Sys2Proof.Machine

/-! ## Endpoint configuration (R111) -/

/-- The configuration that the endpoint presents; BAR sizes in bytes, the link's rate in GT/s. -/
structure EndpointConfig where
  vendorId : Nat
  deviceId : Nat
  subsystemVendorId : Nat
  subsystemId : Nat
  revisionId : Nat
  classCode : Nat
  functions : Nat
  bar0Bytes : Nat
  bar0Prefetchable : Bool
  bar2Bytes : Nat
  bar2Prefetchable : Bool
  bars64Bit : Bool
  linkGts : Nat
  linkWidth : Nat
  maxPayloadBytes : Nat
  maxReadRequestBytes : Nat
  msixVectors : Nat
  msixTable : Nat
  msixPending : Nat
  intx : Bool
  msi : Bool
  advancedErrorReporting : Bool
  functionLevelReset : Bool
  surpriseRemoval : Bool
  deriving DecidableEq, Repr

/-- *Endpoint configuration*: the subsystem tells the variants apart (R111). -/
def endpointConfig (s : State) : EndpointConfig := {
  vendorId := 0x1E7A, deviceId := 0x1024, subsystemVendorId := 0x1E7A, subsystemId := if s.host.variantS then 2 else 1
  revisionId := 0x02, classCode := 0x0B4000, functions := 1
  bar0Bytes := 0x10000, bar0Prefetchable := false, bar2Bytes := 0x100000, bar2Prefetchable := true, bars64Bit := true
  linkGts := 32, linkWidth := 4, maxPayloadBytes := 512, maxReadRequestBytes := 4096
  msixVectors := 32, msixTable := 0xC000, msixPending := 0xD000, intx := false, msi := false
  advancedErrorReporting := true, functionLevelReset := true, surpriseRemoval := true }

/-! ## Global status (R114) -/

/-- Active class-B faults (R114, R538 of 16). -/
def activeBFaults (s : State) : Nat :=
  s.flt.records.countP (fun e => e.2.phase == .active && sourceClass e.1 == some 1)

/-- GSTAT (R114). -/
def gstat (s : State) : Nat :=
  s.fol.lifecycle.code + 16 * s.pwr.mode.code + 256 * s.time.tickTrust.code + 1024 * s.fol.ready.toNat +
    2048 * s.fol.updating.toNat + 4096 * s.flt.safe.toNat + 8192 * s.led.fieldOnly.toNat + 16384 * s.duty.role.code +
    65536 * min 255 (activeBFaults s)

/-! ## Registers -/

/-- Code of STRM_CFG.DIR (R138). -/
def StreamDir.code : StreamDir → Nat
  | .closed => 0 | .toHost => 1 | .fromHost => 2

/-- No frame is free for the producer: the module on a to-host channel, the host on a from-host one (STRM_STATUS.FULL, R138). -/
def producerFull (ch : Channel) : Bool :=
  match dirNow ch with
  | .toHost => !frameFree ch
  | .fromHost => decide (32 ≤ countTo ch.head ch.tail)
  | .closed => false

/-- The registers of a stream channel, by their offset (R138); STRM_DATA is no 4-byte register. -/
def streamRegister (ch : Channel) (reg : Nat) : Nat :=
  if reg = 0x00 then (dirNow ch).code + 4 * ch.push.isSome.toNat + 8 * ch.autoack.toNat + 16 * ch.udp.isSome.toNat
  else if reg = 0x04 then
    (ch.pages.any (·.pinned)).toNat + 2 * (producerFull ch).toNat + 4 * ch.suspended.toNat + 65536 * ch.abandoned
  else if reg = 0x08 then ch.head
  else if reg = 0x0C then ch.tail
  else if reg = 0x10 then ch.cursorOffset + 4096 * ch.cursorFrame
  else 0

/-- One dword of the MSI-X table (R111; log 7). -/
def msixDword (e : MsixEntry) (part : Nat) : Nat :=
  if part = 0 then e.addr % 2 ^ 32 else if part = 1 then e.addr / 2 ^ 32 % 2 ^ 32 else if part = 2 then e.data else e.masked.toNat

/-- Four bytes of the mailbox slots (R117): the request area, then the response area. -/
def mailboxDword (h : HostState) (offset : Nat) : Nat :=
  let m := h.mailboxes.getD ((offset - 0x1000) / 0x200) {}
  rd (pad 256 m.request ++ pad 256 m.response) (offset % 0x200) 4

/-- The current value of the 4-byte register at an offset of BAR0 (R8 of 00, R113 to R117, R138): a WO register, a reserved bit and a
reserved offset read as zero. -/
def registerValue (offset : Nat) (s : State) : Nat :=
  let h := s.host
  if offset = 0x00 then 0x474C3130
  else if offset = 0x04 then h.variantS.toNat + 256 * 0x42 + 65536 * 0x1024
  else if offset = 0x08 then 0x00010000
  else if offset = 0x0C then s.fol.version
  else if offset = 0x10 then h.serial % 2 ^ 32
  else if offset = 0x14 then h.serial / 2 ^ 32 % 2 ^ 32
  else if offset = 0x18 then h.slot
  else if offset = 0x40 then gstat s
  else if offset = 0x44 then epochNow s
  else if offset = 0x48 then frontier s % 2 ^ 32
  else if offset = 0x4C then h.frontierLatch.getD (frontier s / 2 ^ 32 % 2 ^ 32)
  else if offset = 0x50 then h.heartbeat
  else if offset = 0x100 then h.intStatus.toNat
  else if offset = 0x104 then h.intEnable.toNat
  else if offset = 0x10C then h.holdoffUs
  else if 0x120 ≤ offset && offset < 0x138 then ofLe ((List.range 4).map (fun j => BitVec.ofNat 8 (h.intMap.getD (offset - 0x120 + j) 0)))
  else if offset = 0x140 then h.errOffset + 65536 * h.errCode + 16777216 * h.errCount
  else if 0x1000 ≤ offset && offset < 0x5000 then mailboxDword h offset
  else if offset = 0x8004 then h.owner.toNat
  else if offset = 0x8008 then h.done.toNat
  else if 0xA000 ≤ offset && offset < 0xA200 then streamRegister (chan s ((offset - 0xA000) / 0x40)) (offset % 0x40)
  else if 0xC000 ≤ offset && offset < 0xC200 then msixDword (h.msix.getD ((offset - 0xC000) / 16) {}) (offset % 16 / 4)
  else if offset = 0xD000 then ofBits (h.msix.map (·.pending))
  else 0

/-- An offset of BAR0 that *BAR0 map* gives no register (R112). -/
def reservedOffset (offset : Nat) : Bool :=
  !(offset ≤ 0x18 || (0x40 ≤ offset && offset ≤ 0x50) || offset == 0x100 || offset == 0x104 || offset == 0x10C ||
    (0x120 ≤ offset && offset < 0x138) || offset == 0x140 || (0x1000 ≤ offset && offset < 0x5000) ||
    offset == 0x8000 || offset == 0x8004 || offset == 0x8008 ||
    (0xA000 ≤ offset && offset < 0xA200 && [0x00, 0x04, 0x08, 0x0C, 0x10, 0x18, 0x1C].contains (offset % 0x40)) ||
    (0xC000 ≤ offset && offset < 0xC200) || offset == 0xD000 || offset == 0xD004)

/-- A 4-byte read of BAR0: what it returns and what it does (R8, R9 of 00; R112, R114, R116). HOST_ERR_INFO is cleared with the read; a
read of 0x0048 latches the upper half of the frontier, and the next read of 0x004C returns and drops it. -/
def readRegister (offset : Nat) (s : State) : Nat × State :=
  if 0x1000 ≤ offset && offset < 0x5000 then (registerValue offset s, s)
  else if offset % 4 ≠ 0 || (0xA000 ≤ offset && offset < 0xA200 && (offset % 0x40 = 0x18 || offset % 0x40 = 0x1C)) then
    (0, hostError 6 offset s)
  else if reservedOffset offset then (0, hostError 3 offset s)
  else
    let v := registerValue offset s
    if offset = 0x140 then (v, { s with host := { s.host with errOffset := 0, errCode := 0, errCount := 0 } })
    else if offset = 0x48 then (v, { s with host := { s.host with frontierLatch := some (frontier s / 2 ^ 32 % 2 ^ 32) } })
    else if offset = 0x4C then (v, { s with host := { s.host with frontierLatch := none } })
    else (v, s)

end Sys2Proof.Machine
end

