-- ==== Sys2Proof/Machine/PowerDown.lean ====
section
/-!
DEFINITION. The power-down sequence, what is lost with the VIGIL domain, Keep and the wake from it. Chapters 03 (R63, R64, R66, R68
to R78), 09 (R312) and 18 (R606) of the spec. A rail that fails during a sequence is announced by RAIL_FAIL_POWER_DOWN before the
command that starts the sequence, for a command's effect is not divided (log 39).
-/

namespace Sys2Proof.Machine

/-! ## Steps 0 to 7 of R70 -/

/-- Step 0: Yarrow stops, KEEP latches the time, the boot-store write in progress is abandoned and its bank marked invalid, and the
ledger-store port takes its fixed schedule (R68, R70). Both paths go to ideal-diode mode, or are held off after MOD_EN_N (R57); so they
do for a commanded Keep, which runs the same sequence and after which an input waits as after a power-down (DESIGN CHOICE; log 51). -/
def stopForPowerDown (cause : Nat) (s : State) : State :=
  let path : PathSwitch := if cause = 2 then .heldOff else .idealDiode
  let s := setYrw (fun y => { y with stopped := true }) (setPwr (fun p => { p with latchedDetect := now s }) s)
  let writing := s.mem.bootWriting
  let s := { s with mem := { s.mem with pdSchedule := true, bootWriting := false } }
  let s := if writing then
      let slots := s.host.channels.filterMap (fun ch => match ch.transfer with
        | some t => if t.opcode = 0x0F01 && rd t.request.args 1 1 = 1 then some (rd t.request.args 2 1) else none
        | none => none)
      setSvc (fun v => { v with build := .invalid }) (setBuildBank (fun b => { b with
        valid := false
        staged := b.staged.map (fun e => if slots.contains e.1 then (e.1, { e.2 with hashGood := false }) else e) }) s)
    else s
  enterMode .powerDown (toHandover .powerDown path path (loseSync 0 s))

/-- Step 2: umbels, DRAM and every lane but lane 0 are shed (R70). -/
def shedLoad (s : State) : State :=
  let s := computeDown s
  ((portsOf s.lnk.grouping).filter (· != 0)).foldl (fun s p => portTo p .poweredOff 4 s) s

/-- Step 3: closed ticks are committed, every other open tick is aborted without entering the abort list (R71; R103 of 04). -/
def disposeTicks (s : State) : State := abortFrom true (fun _ => true) (commitClosed (fun _ => true) 2 s)

/-- Counters from which the energy record counts a set's increases: the window that a committed tick last consumed (R72; R557 of 16
after a takeover or on a module that is not duty). -/
def recordBase (s : State) (set epoch : Nat) (isLocal : Bool) : List Nat :=
  let own := if isLocal then
      (Tab.get s.duty.ownBase set).orElse (fun _ =>
        if s.duty.role = .standby || s.duty.role = .undecided then Tab.get s.duty.ownAtCommit set else none)
    else none
  match own, committedLocal s set with
  | some (e, c), _ => if e = epoch then c else newBaseline s set
  | none, some r => if r.epoch = epoch then r.consumed else newBaseline s set
  | none, none => newBaseline s set

/-- Increases of one set for the energy record: up to detection for a local set, as far as collected for a satellite's (R72). -/
def recordedEnergy (s : State) (e : CalSet) : Option (Nat × List Nat) :=
  let m := s.met.sets.getD e.set {}
  if e.location = 0 then
    let base := recordBase s e.set s.met.fieldEpoch true
    some (e.set, (List.range 5).map (fun i =>
      counterDiff (m.counters.getD i 0) (base.getD i 0) + Config.partialEnergy s.draws e.set i))
  else
    match m.delivered with
    | some (epoch, _, c) =>
      let base := recordBase s e.set epoch false
      some (e.set, (List.range 5).map (fun i => counterDiff (c.getD i 0) (base.getD i 0)))
    | none => (Tab.get s.pwr.energyRecord.sets e.set).map (fun x => (e.set, x))

/-- Demand registers of a set for the energy record: a local set's count from zero at the next FIELD power-up (R253 of 08). -/
def recordedDemand (m : MetSet) (isLocal : Bool) : Table DemandReg :=
  if isLocal then
    m.demand.map (fun e =>
      let c : Int := (m.counters.getD e.2.quantity 0 : Nat)
      (e.1, { e.2 with runStart := e.2.runStart - c, history := e.2.history.map (fun x => (x.1 - c, x.2)) }))
  else m.demand

/-- Sets that a calibration record configures. -/
def configuredSets (s : State) : List CalSet := s.met.calib.sets.filter (fun e => e.kind != 0)

/-- Step 4: GL-F writes the energy record, and every register set gets its gap marker (R72). `ok` says that the record is whole; a
torn or skipped one leaves the gap from the last committed window (R74). -/
def writeEnergy (ok torn : Bool) (s : State) : State :=
  let start := if ok then now s else frontier s - 1
  let gaps := (configuredSets s).foldl (fun t e => if (Tab.get t e.set).isSome then t else Tab.put t e.set start) s.pwr.gapFrom
  let r : EnergyRecord := {
    valid := true, label := now s, sets := (configuredSets s).filterMap (recordedEnergy s)
    demand := (configuredSets s).map (fun e => (e.set, recordedDemand (s.met.sets.getD e.set {}) (e.location == 0))) }
  let s := { s with draws := s.draws + 1 }
  setPwr (fun p => { p with
    gapFrom := gaps, energyLost := !ok
    energyRecord := if ok then r else if torn then {} else p.energyRecord }) s

/-- Step 5, or a failing FIELD rail: every GL-F output off, CP at 0 V, panels discharged (R70, R74; R493 of 14). -/
def fieldOff (s : State) : State :=
  if !s.pwr.fieldOn then s
  else
    let s := panelsAbrupt s
    let s := setPwr (fun p => { p with fieldOn := false }) s
    reviewPoints (fieldDown (ringsDown (metFieldDown (stemField false s))))

/-- What step 6 writes: every entry of the event queue, and the overflow entry if it counts anything; none was placed on channel 0,
so each carries event_seq 0 (R312). -/
def flushEntries (s : State) : List Consequence :=
  s.fol.events.map (fun e => Consequence.journalAt (now s) 6 (eventRecord e 0 ++ e.tail)) ++
    (if s.fol.overflowCount = 0 then [] else [.journalAt (now s) 7 (overflowRecord s 0)])

/-- Entries of an earlier power-down that no commit has taken in yet. -/
def stillBeyond (s : State) : List Consequence :=
  s.led.journalWaiting.filter (fun c => match c with
    | .journalAt _ _ _ => true
    | _ => false)

/-- Step 6: the flush; of a torn one the first `found` entries are in the journal (R74, R312). -/
def flushQueue (found : Nat) (s : State) : State :=
  { s with led := { s.led with
      journalBeyond := stillBeyond s ++ (flushEntries s).take found, journalTorn := (flushEntries s).length - found } }

/-- Step 7: the last 16 blocks of the trace go to the tail slot of the record (R606); a torn slot is ignored (R74). -/
def writeTail (slot id : Nat) (torn : Bool) (s : State) : State :=
  let rs := s.svc.trace.filter (fun t => decide (s.svc.block < t.block + 16))
  setSvc (fun v => { v with tails := modAt v.tails slot (fun _ => if torn then none else some (id, rs)) }) s

/-! ## What is lost with VIGIL -/

/-- State of the host interface and of Folset that VIGIL loses: registers return to reset, sessions, commands and the event queue go
(R25 of 01). The straps, the serial number, the life-cycle state and what has been sent out stay. -/
def loseHost (s : State) : State :=
  { s with
    host := { ({} : HostState) with
      variantS := s.host.variantS, serial := s.host.serial, slot := s.host.slot, msiSent := s.host.msiSent
      busWrites := s.host.busWrites, headWrites := s.host.headWrites, readData := s.host.readData }
    fol := { ({} : FolsetState) with
      lifecycle := s.fol.lifecycle, nextRef := s.fol.nextRef, version := s.fol.version, datagrams := s.fol.datagrams } }

/-- State of the timebase and the ledger outside the ledger store (R84, R90 of 04). A session order that no tick has taken is kept
with its point's register set (log 39). -/
def loseLedger (s : State) : State :=
  { s with
    time := { ({} : TimeState) with
      gliris := s.time.gliris, civil := s.time.civil, rtcCapture := s.time.rtcCapture, rtcTrust := s.time.rtcTrust
      rtcHoldoverMs := s.time.rtcHoldoverMs, rtcModelNs := s.time.rtcModelNs }
    led := { ({} : LedgerState) with
      recordA := s.led.recordA, recordB := s.led.recordB, record := s.led.record, accounts := s.led.accounts, locals := s.led.locals
      sessionOps := s.led.sessionOps.map (fun o => { o with queuedAt := 0 }), nextSessionOp := s.led.nextSessionOp
      tariff := s.led.tariff, retained := s.led.retained, billingMin := s.led.billingMin, billingNext := s.led.billingNext
      runs := s.led.runs, journal := s.led.journal, jseq := s.led.jseq, journalBeyond := s.led.journalBeyond, journalTorn := s.led.journalTorn } }

/-- State of Teasel, the pair and service: tamper latches are in KEEP, epochs, last_role, the tail slots, banks and the trace
configuration are stored (R547, R552, R558 of 16; R209 of 07; R606, R617 of 18). -/
def loseTeasel (s : State) : State :=
  { s with
    flt := { ({} : FaultState) with tamper := s.flt.tamper }
    duty := { ({} : DutyState) with
      peerLow := s.duty.peerLow, epoch := s.duty.epoch, epochHighest := s.duty.epochHighest, lastRoleDuty := s.duty.lastRoleDuty
      unshared := s.duty.unshared, lastAcked := s.duty.lastAcked, regionImage := s.duty.regionImage, sent := s.duty.sent }
    svc := { ({} : SvcState) with
      build := s.svc.build, runningB := s.svc.runningB, glf := s.svc.glf, securityFloor := s.svc.securityFloor
      failedStarts := s.svc.failedStarts, enable := s.svc.enable, freezeClasses := s.svc.freezeClasses
      postBlocks := s.svc.postBlocks, tails := s.svc.tails } }

/-- State of the data path and of the field side: configurations and what DRAM or the dies held apart (R25 of 01, R287 of 09, R351 of
10, R371 of 11, R435 of 13). -/
def loseField (s : State) : State :=
  let m := s.met
  { s with
    mem := { s.mem with
      dramCorrected := [], dramUncorrected := 0, pages := [], lstoreCorrected := 0, lstoreUncorrected := 0, patrolAt := 0
      bootWriting := false, pdSchedule := false, arbiters := List.replicate 5 {} }
    met := { m with
      capture := none, demandPending := [], demandResets := [], selftestFailures := 0
      sets := m.sets.map (fun k => { k with delivered := none, deliveredBefore := none })
      rings := m.rings.map (fun r => { r with recovered := 0, lost := 0, sent := [] }) }
    fio := { s.fio with
      switches := s.fio.switches.map (fun c => { c with trips := 0 })
      panels := s.fio.panels.map (fun p => { ({} : Panel) with kept := p.kept, sent := p.sent }) }
    chg := { ({} : ChargeState) with
      points := s.chg.points.map (fun x => { ({} : ChargePoint) with config := x.config, locked := x.locked, rcmFailed := x.rcmFailed })
      paths := s.chg.paths, buses := s.chg.buses, cards := s.chg.cards, contracts := s.chg.contracts, idNext := s.chg.idNext, nextSeen := s.chg.nextSeen
      lastSession := s.chg.lastSession, cardSent := s.chg.cardSent, setpoints := s.chg.setpoints, messages := s.chg.messages } }

/-- VIGIL goes down, and with it FIELD and COMPUTE (R66): only KEEP is powered. -/
def vigilDown (s : State) : State :=
  let s := fieldOff s
  let s := loseField (loseTeasel (loseLedger (loseHost (coldLinks (coldEngines s)))))
  let s := coldBalance (coldRadio (coldStem (coldYarrow s)))
  let s := setYrw (fun y => { y with stopped := true, pendingSpares := none, autoReinstate := true }) s
  setPwr (fun p => { p with
    vigilOn := false, computeOn := false, fieldOn := false, demandThermal := .full, thermal := [], leanChangeAt := none
    vigilEntryBy := none, vigilExiting := false, vigilRetryDue := false, keepDue := false, powerRefs := [], battLostReported := false, mainLosses := []
    battSince := 0, pdFieldFailed := none, pdVigilFailed := none, pdKeepFailed := false, computeFailed := false }) s

/-- KEEP has stopped: the RTC and the latched tamper state are lost, which the next start reports (R64, R74; R547 of 16). -/
def keepGone (s : State) : State :=
  let s := setPwr (fun p => { p with keepStopped := true, keepCommanded := false, vigilFailReport := false, mainUnstable := false }) s
  let s := setTime (fun t => { t with rtcCapture := none }) s
  { s with flt := { s.flt with tamper := List.replicate 5 {} } }

/-- The module enters Keep: the RTC captures the timebase (R84), the trust and what its holdover has used up (R87). -/
def enterKeep (cause : Nat) (s : State) : State :=
  let s := if s.pwr.vigilOn then
      setTime (fun t => { t with
        rtcCapture := some t.gliris, rtcTrust := t.trust
        rtcHoldoverMs := if t.trust = .traceable then 0 else (holdoverMs s).getD 0
        rtcModelNs := if t.trust = .traceable then some t.lastErrNs else modelErrorNs s }) s
    else s
  let failed := s.pwr.pdKeepFailed
  let s := setPwr (fun p => { p with
    mode := .keep, keepCommanded := decide (cause = 3), mainLostInKeep := !p.mainPresent, battLostInKeep := !p.battPresent
    roseInKeep := decide (cause = 2) }) (vigilDown s)
  if failed then keepGone s else s

/-! ## The sequence (R68 to R74) -/

/-- The sequence of R70: its steps run until a VIGIL failure at step `v` (9: none), and what the step needs is powered. In STARTING and
HOLD only the steps whose blocks are powered run (R63). The first record_id is 1, and the copies alternate by its parity, even A and odd
B (R73 says 'incremented once per power-down' and 'alternately'; DESIGN CHOICE, log 51). -/
def powerDown (cause vbusDv offset : Nat) (s : State) : State :=
  let v := s.pwr.pdVigilFailed.getD 9
  let f := s.pwr.pdFieldFailed.getD 9
  let abbreviated := s.pwr.mode == .starting || s.pwr.mode == .hold
  let field := s.pwr.fieldOn
  let compute := s.pwr.computeOn
  let vigil := s.pwr.vigilOn
  let runs (k : Nat) : Bool :=
    decide (k < v) &&
      (if k = 1 || k = 4 || k = 5 then field || !abbreviated else if k = 2 || k = 3 then compute || !abbreviated
       else if k = 6 || k = 7 then vigil else true)
  let id := (((latestDown s).map (·.recordId)).getD 0 + 1) % 2 ^ 32
  let state := s.pwr.handover.code
  let aborted := s.led.aborted
  let s := stopForPowerDown cause s
  let s := if f ≤ 2 then fieldOff s else s
  let s := if runs 1 then releaseBaton 0 s else s
  let s := if runs 2 then shedLoad s else s
  let s := if f = 3 then fieldOff s else s
  let torn := draw 64 2 s
  let s := if runs 3 then disposeTicks s
    else if v = 3 then (if torn.1 = 1 then commitClosed (fun _ => true) 1 torn.2 else torn.2)
    else s
  let count := (s.led.aborted + 2 ^ 32 - aborted) % 2 ^ 32
  let committed := frontier s
  let whole := runs 4 && field && decide (4 < f)
  let s := if field then writeEnergy whole (decide (v = 4) || decide (f = 4)) s else s
  let s := if runs 5 then fieldOff s else s
  let depth := (flushEntries s).length
  let part := draw 63 (depth + 1) s
  let s := if runs 6 then flushQueue depth s else if !vigil then s else if v = 6 then flushQueue part.1 part.2
    else { s with led := { s.led with journalBeyond := stillBeyond s, journalTorn := 0 } }
  let s := if runs 7 then writeTail (id % 2) id false s else if vigil && v = 7 then writeTail (id % 2) id true s else s
  let crc := draw 61 (2 ^ 32) s
  let done (k : Nat) : Bool := runs k && (k != 4 || whole)
  let r : PowerDownRecord := {
    valid := true, recordId := id, cause := cause, handover := state, vbusDv := vbusDv, detectTime := now s
    detectOffsetNs := offset, progress := ofBits ((List.range 9).map done), lastCommitted := committed
    abortedCount := if 3 < v then count else 0, queueDepth := if 6 ≤ v then depth else 0
    energyCrc := if whole then crc.1 else 0, traceSlot := id % 2 }
  let s := if v ≤ 2 then setPwr (fun p => { p with unrecorded := true }) crc.2
    else setPwr (fun p => { p with
      unrecorded := false
      recordA := if id % 2 = 0 then r else p.recordA, recordB := if id % 2 = 0 then p.recordB else r }) crc.2
  enterKeep cause s

/-! ## Meanings -/

/-- POWER_FAIL_DETECTION (R56, R68): in any mode except Keep. -/
def execPowerFailDetection (vbusDv offsetNs : Nat) (s : State) : Result :=
  .next (if s.pwr.mode = .keep then s else powerDown 1 vbusDv offsetNs (setPwr (fun p => { p with vbusDv := vbusDv }) s))

/-- A detection time into the tick, for a sequence that carries none from outside (log 12: use 65). -/
def detectOffset (s : State) : Nat × State := draw 65 1000000 s

/-- MOD_EN_N_RISE (R63, R77): removal; in Keep the paths are held off and the reserve carries it. -/
def execModEnNRise (s : State) : Result :=
  let s := setPwr (fun p => { p with modEnLow := false }) s
  .next (if s.pwr.mode = .keep then
    setPwr (fun p => { p with mainPath := .heldOff, battPath := .heldOff, roseInKeep := true }) s
  else
    let d := detectOffset s
    powerDown 2 d.2.pwr.vbusDv d.1 d.2)

/-- An input is present (R56). -/
def inputPresent (s : State) : Bool := s.pwr.mainPresent || s.pwr.battPresent

/-- MOD_EN_N_FALL (R63, R67, R76): the paths are enabled; from Keep with an input present, or from a commanded Keep after a rise, the
module wakes. -/
def execModEnNFall (s : State) : Result :=
  let s := setPwr (fun p => { p with modEnLow := true, vigilRetries := 0, vigilFailed := false }) s
  .next (if s.pwr.mode = .keep && (s.pwr.roseInKeep || !s.pwr.keepCommanded) && inputPresent s then wake s
    else setPwr (fun p => { p with roseInKeep := false }) s)

/-- RAIL_FAIL_POWER_DOWN (R74; log 39): a rail (0 KEEP, 1 VIGIL, 2 FIELD, 3 COMPUTE) fails at a step of the sequence that comes next.
A COMPUTE failure before step 2 only completes the shedding early, and after it the rail is off. -/
def execRailFailPowerDown (rail step : Nat) (s : State) : Result :=
  .next (if s.pwr.mode = .keep then s
    else if rail = 0 then setPwr (fun p => { p with pdKeepFailed := true }) s
    else if rail = 1 then setPwr (fun p => { p with pdVigilFailed := some step }) s
    else if rail = 2 then setPwr (fun p => { p with pdFieldFailed := some step }) s
    else s)

/-- KEEP_ENTRY_DELAY (R62, R78): an entry into Vigil still in progress ends first. -/
def execKeepEntryDelay (s : State) : Result :=
  if !s.pwr.keepDue || s.pwr.mode = .keep then .next s
  else
    let s := if s.pwr.vigilEntryBy.isSome then finishVigil s else s
    let d := detectOffset s
    .next (powerDown 3 d.2.pwr.vbusDv d.1 d.2)

/-- WAKE_TIME (R63): the RTC reaches wake_time in a commanded Keep. -/
def execWakeTime (s : State) : Result :=
  .next (if s.pwr.keepCommanded && s.pwr.wakeTime != 0 && !s.pwr.keepStopped then wake s else s)

/-- KEEP_RESERVE_EXHAUSTED (R64; R547 of 16): with no input KEEP stops, and the RTC and the tamper state are lost. -/
def execKeepReserveExhausted (s : State) : Result :=
  .next (if s.pwr.mode ≠ .keep || inputPresent s then s else keepGone s)

end Sys2Proof.Machine
end

