-- ==== Sys2Proof/Machine/Start.lean ====
section
/-!
DEFINITION. The cold start: rails, seed of Gliris time, recovery of what a power-down left, Folset's image, field and data path. Chapters
03 (R65, R67, R75), 02 (R54), 04 (R84, R87, R90, R102, R103), 16 (R552) and 18 (R595, R596, R606, R608) of the spec. One row stands
for the whole timeline; where a rail retry or a moisture hold interrupts it, the rest follows with the row that ends that (log 39).
-/

namespace Sys2Proof.Machine

/-! ## Seed and recovery -/

/-- Gliris time starts from the RTC's capture and count, or at the frontier plus 1 (R84); a seed below that is raised to it, and the
clock starts UNTRUSTED (R90). Where a lock was lost before, or at, the entry into Keep, its holdover and model go on with the time in Keep
at 50 ppm (R86). H is the frontier (R90). -/
def seedTime (elapsed : Nat) (s : State) : State :=
  let least := frontier s + 1
  let seed := match s.time.rtcCapture with
    | some t => t + elapsed
    | none => least
  let trust := if seed < least then .untrusted else startTrust elapsed s
  let known := s.time.rtcCapture.isSome && s.time.rtcModelNs.isSome
  setTime (fun t => { t with
    gliris := max seed least - 1, startLabel := max seed least - 1, highest := least - 1, trust := trust, tickTrust := trust
    base := if t.rtcCapture.isSome && !decide (seed < least) then .rtc else .none
    lostAt := if known then some 0 else none
    holdoverCarryMs := if known then t.rtcHoldoverMs + elapsed else 0
    modelBaseNs := if known then t.rtcModelNs.map (fun m => m + 50 * elapsed) else none }) s

/-- The frontier record in force: the copy with a valid CRC and the higher commit_seq (R102). -/
def loadFrontier (good : List Bool) (s : State) : State :=
  let a := { s.led.recordA with valid := s.led.recordA.valid && good.getD 0 true }
  let b := { s.led.recordB with valid := s.led.recordB.valid && good.getD 1 true }
  setLed (fun l => { l with recordA := a, recordB := b, record := (betterRecord a b).getD {} }) s

/-- The copies of the power-down record as they read back (R73). -/
def loadDown (good : List Bool) (s : State) : State :=
  setPwr (fun p => { p with
    recordA := { p.recordA with valid := p.recordA.valid && good.getD 0 true }
    recordB := { p.recordB with valid := p.recordB.valid && good.getD 1 true } }) s

/-- An account pair, a register set pair with every stamp above the frontier at 0 (R103). -/
def AccountPair.clearAbove (frontier : Nat) (p : AccountPair) : AccountPair :=
  { p with a := if frontier < p.a.stamp then { p.a with stamp := 0 } else p.a
           b := if frontier < p.b.stamp then { p.b with stamp := 0 } else p.b }
def LocalPair.clearAbove (frontier : Nat) (p : LocalPair) : LocalPair :=
  { p with a := if frontier < p.a.stamp then { p.a with stamp := 0 } else p.a
           b := if frontier < p.b.stamp then { p.b with stamp := 0 } else p.b }

/-- The scrub of the load (R103). -/
def coldScrub (s : State) : State :=
  let f := frontier s
  setLed (fun l => { l with
    accounts := l.accounts.map (fun e => (e.1, e.2.clearAbove f)), locals := l.locals.map (fun e => (e.1, e.2.clearAbove f)) }) s

/-- The 64 B power-down record (R73). -/
def downBytes (r : PowerDownRecord) : Bytes :=
  let b := le 4 r.recordId ++ le 1 r.cause ++ le 1 r.handover ++ le 2 r.vbusDv ++ le 8 r.detectTime ++ le 4 r.detectOffsetNs ++
    le 4 r.progress ++ le 8 r.lastCommitted ++ le 1 r.abortedCount ++ zeros 3 ++ le 4 r.queueDepth ++ le 4 r.energyCrc ++
    le 4 r.traceSlot ++ zeros 12
  b ++ le 4 (crc32 b)

/-- What the power-down left is journalled and reported (R75, R312 of 09): the entries beyond the head, the POWER_DOWN entry with the
entries lost, and the losses on the event stream. -/
def recover (s : State) : State :=
  let lost := s.led.journalTorn
  let down := match latestDown s with
    | some r => if s.pwr.unrecorded then [] else [Consequence.journal 4 (downBytes r ++ le 4 lost ++ zeros 40)]
    | none => []
  let s := setLed (fun l => { l with journalWaiting := l.journalBeyond ++ down, journalBeyond := [], journalTorn := 0 }) s
  let s := if lost = 0 then s else unlistedEvent 3 lost s
  let s := if s.pwr.energyLost then unlistedEvent 4 0 s else s
  let s := if s.pwr.unrecorded then unlistedEvent 2 s.pwr.latchedDetect s else s
  let s := if s.pwr.vigilFailReport then unlistedEvent 5 0 s else s
  let s := if s.pwr.keepLost then reportFault 0x18 2 (reportFault 0x18 1 s) else s
  setPwr (fun p => { p with energyLost := false, unrecorded := false, vigilFailReport := false }) s

/-- The trace starts empty behind the highest trace_seq of a valid tail slot, and START is its first record (R604, R606). -/
def startTrace (s : State) : State :=
  let rs := [0, 1].flatMap (fun k => if tailValid s k then ((s.svc.tails.getD k none).map (·.2)).getD [] else [])
  let next := rs.foldl (fun m r => max m (r.seq + 1)) 0
  let s := setSvc (fun v => { v with trace := [], block := 0, blockUsed := 0, traceSeq := next % 2 ^ 32 }) s
  let b := activeBank s
  traceWrite 1 0 (le 4 (((latestDown s).map (·.recordId)).getD 0) ++ le 1 (ofBits [tailValid s 0, tailValid s 1]) ++
    le 1 (activeB s).toNat ++ zeros 2 ++ le 4 (folsetOf b)) s

/-- Seal positions found changed at power-up: MS1 and MS2 are audited, a reserved position is reported (R42, R271, R273). -/
def sealsFound (s : State) : State :=
  let s := [1, 2].foldl (fun s p =>
    if sealClosed s p = s.seals.audited.getD (p - 1) false then s
    else
      let s := sealAudit p (sealClosed s p) true s
      if p = 1 && sealClosed s 1 then sealMs1Closed s else s) s
  settleReserved true s

/-- Conditions of the ledger fault that outlast a power-down (R103, R211). -/
def ledgerFound (s : State) : State :=
  let s := if abortShort s then raiseFault 0x42 3 s else s
  if s.led.accounts.any (fun e => e.2.damaged) then raiseFault 0x42 4 s else s

/-! ## Folset (R595, R596, R608) -/

/-- A bank holds a Folset image that passes R593. -/
def folsetGood (b : Bank) (s : State) : Bool :=
  b.valid && match b.folset with
    | some i => i.good && decide (s.svc.securityFloor ≤ i.security)
    | none => false

/-- A bank whose CRC fails is not valid; source 0xF1 (R596, R611). -/
def bankCheck (good : List Bool) (s : State) : State :=
  let badA := s.mem.bankA.valid && !good.getD 0 true
  let badB := s.mem.bankB.valid && !good.getD 1 true
  let s := { s with mem := { s.mem with
    bankA := { s.mem.bankA with valid := s.mem.bankA.valid && !badA }, bankB := { s.mem.bankB with valid := s.mem.bankB.valid && !badB } } }
  if badA || badB then reportFault 0xF1 1 s else s

/-- Kernels whose rolled version was not committed run the active bank's again (R595). -/
def coldCatalogue (s : State) : State :=
  let b := activeBank s
  let of (k : Nat) : KernelVersion := match Tab.get b.kernels k with
    | some i => { version := i.version, hash := i.hash }
    | none => {}
  let back := s.yrw.catalogue.filter (fun e => e.2 != of e.1)
  let s := setYrw (fun y => { y with catalogue := (b.kernels.filter (·.2.good)).map (fun e => (e.1, { version := e.2.version, hash := e.2.hash })) }) s
  let s := back.foldl (fun s e => updateStep 3 4 (activeB s) e.1 ((of e.1).version * 65536) s) s
  let s := setSvc (fun v => { v with glf := b.glf }) s
  setYrw (fun y => { y with kernelSetId := kernelSetOf s }) s

/-- Jorny runs alone (R608): FIELD and COMPUTE off, FOLSET_READY 0. -/
def standalone (s : State) : State := setSvc (fun v => { v with jorny := { v.jorny with standalone := true } }) s

/-- The Folset image is checked: the active bank's, else the other's, else Jorny (R596). -/
def folsetCheck (s : State) : State :=
  let s := bankCheck s.pwr.startInputs.imageGood s
  let first := activeBank s
  let other := buildBank s
  let s := if first.valid && !folsetGood first s then reportFault 0xF3 1 s else s
  if folsetGood first s then fromActiveBank s
  else if folsetGood other s then
    let s := { s with fol := { s.fol with version := folsetOf other }, svc := { s.svc with runningB := !activeB s } }
    reportFault 0xF2 1 s
  else standalone (raiseFault 0xF7 1 s)

/-- Folset becomes ready, or it is one more start in a row in which it did not: the third leaves Jorny alone (R608). -/
def folsetStart (s : State) : State :=
  if s.svc.jorny.standalone then s
  else if s.pwr.startInputs.folsetUp then
    faultLevel { s with
      fol := { s.fol with ready := true }, host := { s.host with configRetry := false }, svc := { s.svc with failedStarts := 0 } }
  else
    let s := setSvc (fun v => { v with failedStarts := v.failedStarts + 1 }) s
    if 3 ≤ s.svc.failedStarts then standalone s else s

/-! ## FIELD and COMPUTE (R65, R67) -/

/-- Demand registers come back from the energy record, or from the last committed tick; the interval in progress is partial (R253 of
08). -/
def restoredDemand (s : State) (k : Nat) : Table DemandReg :=
  let part (e : Nat × DemandReg) : Nat × DemandReg := (e.1, { e.2 with runPartial := true, waits := none })
  let isLocal := s.met.calib.sets.any (fun e => e.set == k && e.location == 0)
  let fromRecord := if s.pwr.energyRecord.valid then Tab.get s.pwr.energyRecord.demand k else none
  match fromRecord with
  | some t => t.map part
  | none =>
    match committedLocal s k with
    | none => []
    | some r => (r.demand.zipIdx).filterMap (fun e => e.1.map (fun d =>
        let c : Int := if isLocal then (r.consumed.getD d.quantity 0 : Nat) else 0
        part (e.2, { d with runStart := d.runStart - c, history := d.history.map (fun x => (x.1 - c, x.2)) })))

/-- The time that FIELD was unpowered, from the energy record or from the last committed tick on, enters a set's demand registers: a local
set's counters start from zero, a satellite set's stand where the last committed tick left them (R252, R253 of 08). -/
def unpoweredSet (s : State) (k : Nat) : State :=
  let e := s.pwr.energyRecord
  let counters := if s.met.calib.sets.any (fun e => e.set == k && e.location == 0) then [] else
    ((committedLocal s k).map (·.consumed)).getD []
  demandUnpowered (if e.valid && (Tab.get e.demand k).isSome then e.label else frontier s) counters s k

/-- GL-F comes up: metrology, the seal positions, the local bridges; outputs are released after its self-test (R65). -/
def fieldStart (s : State) : State :=
  let m := s.met
  let calib := match m.calibA, m.calibB with
    | some a, some b => if a.calibId < b.calibId then b else a
    | some a, none => a
    | none, some b => b
    | none, none => m.calib
  let sets := (List.range m.sets.length).map (fun k =>
    { (m.sets.getD k {}) with demand := restoredDemand s k, counters := [0, 0, 0, 0, 0] })
  let s := setMet (fun m => { m with calib := calib, calibOld := [], sets := sets }) s
  let s := (List.range 32).foldl unpoweredSet s
  let s := setPwr (fun p => { p with fieldOn := true }) s
  let s := stemField true (fieldUp (ringsUp (metFieldUp s)))
  fieldRelease s.pwr.startInputs.failedOutputs s

/-- A session whose register set is still open without a charge point behind it closes: its power-down left no time to (R445; log
39). -/
def closeLeftovers (s : State) : State :=
  (List.range 16).foldl (fun s k =>
    match committedLocal s (16 + k) with
    | some r =>
      if r.sessionOpen && !s.led.sessionOps.any (fun o => o.set == 16 + k) then
        sessionEndEvent k r.sessionId 11 r.sessionImport (closeRegister k (setPoint k (fun x => { x with lastEnd := 11 }) s))
      else s
    | none => s) s

/-- COMPUTE comes up: the default workloads of a first start, the working state loaded from the ledger store, the ports (R65; R167 of
06, R422 and R424 of 12). -/
def computeStart (s : State) : State :=
  let s := coldYarrow (setPwr (fun p => { p with computeOn := true }) s)
  let s := setYrw (fun y => { y with workloads := if y.workloads.isEmpty then defaultWorkloads else y.workloads }) s
  portsUp (closeLeftovers (coldCampaigns (resumeCounters s)))

/-- FIELD or COMPUTE has not started: the later domains stay off and the module runs as in Vigil (R67). -/
def startedPart (domain : Nat) (s : State) : State :=
  let s := raiseFault 0x19 domain s
  let s := portsDown true (setPwr (fun p => { p with computeFailed := true }) s)
  enterMode .vigil (suspendChannels true s)

/-- A rail that is announced to fail at this start, taken once (R67). -/
def takeRail (domain : Nat) (s : State) : Bool × State :=
  (s.pwr.railFails.contains domain, setPwr (fun p => { p with railFails := p.railFails.erase domain }) s)

/-- The role at a start (R552): SINGLE with SS7 open, else UNDECIDED; a peer line that is low at start makes STANDBY, or source 0xD0. -/
def startRole (s : State) : State :=
  let single := !sealInForce s 9
  let s := traceMode (setDuty (fun d => { d with role := if single then .single else .undecided }) s)
  if !s.duty.peerLow then s
  else if single then raiseFault 0xD0 1 s else toRole .standby 0 s

/-- FIELD, the role, COMPUTE: each only where the one before started (R65, R67, R552). -/
def startDomains (s : State) : State :=
  let r := takeRail 1 s
  if r.1 then startRole (startedPart 1 r.2)
  else
    let s := startRole (fieldStart r.2)
    let c := takeRail 2 s
    if c.1 then reviewPoints (startedPart 2 c.2) else reviewPoints (computeStart c.2)

/-- The Folset image check, link training where PCIE_PERST_N is released, and Folset's start: no later than 1.0 s after the VIGIL rails,
in a moisture hold too, where the endpoint and the UART answer (R54, R65, R114 of 05). That R54's hold suspends the image check and with
it Folset is the other reading (DEDUCED; log 51). -/
def startFolset (s : State) : State :=
  let s := { s with host := { s.host with linkTraining := s.pwr.perstReleased } }
  if s.svc.jorny.standalone then s else folsetStart (folsetCheck s)

/-- The rest of the timeline, from the FIELD rails on (R54, R65). -/
def startRest (s : State) : State :=
  let s := enterMode .starting s
  if s.svc.jorny.standalone then s else startDomains (coldCatalogue s)

/-- VIGIL is up: the time seed and the ledger's frontier, what the power-down left, the vault's tags, the default arbiter tables, the
comb (R54, R65, R75; R220 of 07, R508 of 15). -/
def vigilUp (s : State) : State :=
  let i := s.pwr.startInputs
  let s := setPwr (fun p => { p with vigilOn := true, vigilRetries := 0, vigilRetryDue := false }) s
  let s := coldScrub (seedTime i.rtcElapsed (loadFrontier i.frontierGood (loadDown i.downGood s)))
  let s := startTrace (coldArbiters s)
  let s := startFolset (ledgerFound (sealsFound (reportTamper (checkTags (recover s)))))
  if i.wet then
    enterMode .hold (raiseFault 0x17 1 (setPwr (fun p => { p with moistureSinceStart := true }) s))
  else startRest s

/-- The VIGIL rails are enabled (R67): one that fails is retried twice at 1 s intervals; then the module stays in Keep until MOD_EN_N is
cycled, with the cause held. -/
def startVigil (s : State) : State :=
  let r := takeRail 0 s
  let s := r.2
  if !r.1 then vigilUp s
  else if s.pwr.vigilRetries < 2 then setPwr (fun p => { p with vigilRetryDue := true }) s
  else
    setPwr (fun p => { p with
      mode := .keep, handover := .powerDown, vigilRetryDue := false, vigilFailed := true, vigilFailReport := true
      keepCommanded := false, mainLostInKeep := false, battLostInKeep := false }) s

/-! ## Meanings -/

/-- A cold start may begin: in STARTING before VIGIL, or from a Keep that an input present ends (R63, R65). -/
def mayStart (s : State) : Bool :=
  s.pwr.modEnLow && inputPresent s && !s.pwr.vigilOn && !s.pwr.vigilRetryDue &&
    (s.pwr.mode == .starting || (s.pwr.mode == .keep && !s.pwr.keepCommanded && !s.pwr.vigilFailed))

/-- COLD_START (R60, R64, R65). -/
def execColdStart (inputs : StartInputs) (s : State) : Result :=
  if !mayStart s then .next s
  else
    let s := setSvc (fun v => { v with jorny := {} }) s
    .next (startVigil (setPwr (fun p => { p with
      startInputs := inputs, mode := .starting, demandCommand := .full, demandBattery := .full, lowBattery := false, wakeTime := 0
      keepLost := p.keepStopped, keepStopped := false, keepCommanded := false, moistureSinceStart := false
      handover := if p.mainPresent then .mainOn else .battOn
      mainPath := if p.mainPresent then .conducting else .heldOff
      battPath := if p.mainPresent then .heldOff else .conducting, vigilRetries := 0 }) s))

/-- VIGIL_RAIL_RETRY (R67). -/
def execVigilRailRetry (s : State) : Result :=
  .next (if s.pwr.vigilRetryDue then
    startVigil (setPwr (fun p => { p with vigilRetryDue := false, vigilRetries := p.vigilRetries + 1 }) s)
  else s)

/-- A rail of FIELD or COMPUTE that fails while the start is still in progress switches its domain and the later ones off (R67). -/
def railFails (domain : Nat) (s : State) : State :=
  let s := computeDown s
  startedPart domain (reviewPoints (if domain = 1 then fieldOff s else s))

/-- RAIL_START_TIMEOUT (R67; log 39): before the start it is noted for the domain (0 VIGIL, 1 FIELD, 2 COMPUTE); during a start
that has not completed it takes effect at once. -/
def execRailStartTimeout (domain : Nat) (s : State) : Result :=
  .next (if 2 < domain then s
    else if !s.pwr.vigilOn || s.pwr.mode = .hold then setPwr (fun p => { p with railFails := p.railFails ++ [domain] }) s
    else if s.pwr.mode = .starting && domain != 0 && s.pwr.fieldOn && s.pwr.computeOn then railFails domain s
    else s)

/-- MOISTURE_HOLD_END (R54): the comb has read dry for 60 s. -/
def execMoistureHoldEnd (s : State) : Result :=
  .next (if s.pwr.mode = .hold then startRest (endFault 0x17 s) else s)

/-- PCIE_PERST_RELEASE (R65): link training begins; configuration requests are retried until Folset is ready. -/
def execPciePerstRelease (s : State) : Result :=
  let s := setPwr (fun p => { p with perstReleased := true }) s
  .next (if s.pwr.vigilOn then { s with host := { s.host with linkTraining := true, configRetry := !s.fol.ready } } else s)

end Sys2Proof.Machine
end

