-- ==== Sys2Proof/Machine/HostRows.lean ====
section
/-!
DEFINITION. What the host does besides sending whole commands: mailboxes, doorbells, registers, stream frames, datagrams; what the module
does in answer: event placement, holdoffs, stream stalls; and the Folset restart's and update's end. Chapters 05 (R111 to R119, R136
to R151), 01 (R10) and 18 (R599) of the spec.
-/

namespace Sys2Proof.Machine

/-! ## Mailboxes (R117 to R119) -/

/-- MBOX_REQUEST_WRITE. -/
def execMboxRequestWrite (k offset : Nat) (data : Bytes) (s : State) : Result :=
  .next (if !pcieUp s || 32 ≤ k || 256 < offset + data.length then s else writeRequest k offset data s)

/-- One rung mailbox: its request is queued, or host error 2 (R118). -/
def ringMailbox (s : State) (k : Nat) : State :=
  if mailboxPhase s k = .busy then hostError 2 0x8000 s
  else
    let s := takeMailbox k s
    let r := parseRequest (.mailbox k) (pad 256 (s.host.mailboxes.getD k {}).request)
    enqueue { opcode := r.1, request := r.2 } s

/-- MBOX_RING: bits in ascending order; then Folset takes what waits (R117, R119). -/
def execMboxRing (mask : Nat) (s : State) : Result :=
  .next (if !pcieUp s then s
    else drain (((List.range 32).filter (fun k => mask.testBit k)).foldl ringMailbox s))

/-- A W1C register after a write of `mask`: a bit that a hardware event sets in the same cycle, one of `setNow`, stays set (R8, R9 of
00). -/
def w1c (old : Reg32) (mask setNow : Nat) : Reg32 := old &&& ~~~ (BitVec.ofNat 32 mask &&& ~~~ (BitVec.ofNat 32 setNow))

/-- MBOX_DONE_CLEAR: write 1 to clear; `setNow` are the bits whose responses came in the same cycle (R9 of 00). -/
def execMboxDoneClear (mask setNow : Nat) (s : State) : Result :=
  .next (if !pcieUp s then s else { s with host := { s.host with done := w1c s.host.done mask setNow } })

/-! ## Registers (R111 to R116) -/

/-- INT_STATUS_CLEAR: write 1 to clear; `setNow` are the bits whose events came in the same cycle (R9 of 00). -/
def execIntStatusClear (mask setNow : Nat) (s : State) : Result :=
  .next (if !pcieUp s then s else { s with host := { s.host with intStatus := w1c s.host.intStatus mask setNow } })

/-- The host reads four bytes of BAR0 at an offset (R8 of 00, R112). -/
def hostReads (offset : Nat) (s : State) : State :=
  let r := readRegister offset s
  { r.2 with host := { r.2.host with readData := r.1 } }

/-- HOST_ERR_INFO_READ: returned and cleared (R116). An error recorded in the same cycle, `setNow`, stays (R9 of 00). -/
def execHostErrInfoRead (setNow : Bool) (s : State) : Result :=
  .next (if !pcieUp s then s
    else if setNow then
      { s with host := { s.host with readData := registerValue 0x140 s, errCount := min 1 s.host.errCount } }
    else hostReads 0x140 s)

/-- GSTAT_FRONTIER_READ: a 4-byte read of the lower half, which latches the upper half, or of the upper half (R114). -/
def execGstatFrontierRead (upper : Bool) (s : State) : Result :=
  .next (if !pcieUp s then s else hostReads (if upper then 0x4C else 0x48) s)

/-- RESERVED_BAR_ACCESS: a read returns zero, a write is discarded (R112, R116). -/
def execReservedBarAccess (offset : Nat) (wrongSize : Bool) (s : State) : Result :=
  .next (if !pcieUp s then s
    else hostError (if wrongSize then 6 else 3) offset { s with host := { s.host with readData := 0 } })

/-- The holdoff of a vector ends (R115): a message held back goes out. -/
def holdoffEnd (v : Nat) (h : HostState) : HostState :=
  match h.msix[v]? with
  | none => h
  | some e =>
    if !e.holdoff then h
    else
      let h1 := { h with msix := modAt h.msix v (fun e => { e with holdoff := false, heldBack := false }) }
      if e.heldBack then sendMessage v h1 else h1

/-- INT_HOLDOFF_EXPIRY. -/
def execIntHoldoffExpiry (vector : Nat) (s : State) : Result := .next { s with host := holdoffEnd vector s.host }

/-- Sets byte `i` of INT_MAP (R115). -/
def setIntMap (base value : Nat) (h : HostState) : HostState :=
  { h with intMap := (List.range 4).foldl (fun m j => modAt m (base + j) (fun _ => value / 256 ^ j % 32)) h.intMap }

/-- Writes one dword of the MSI-X table; a vector unmasked sends the message its pending bit holds (R111, R115; log 7). -/
def writeMsix (v part value : Nat) (h : HostState) : HostState :=
  let set (f : MsixEntry → MsixEntry) : HostState := { h with msix := modAt h.msix v f }
  match part with
  | 0 => set (fun e => { e with addr := e.addr / 2 ^ 32 * 2 ^ 32 + value })
  | 1 => set (fun e => { e with addr := e.addr % 2 ^ 32 + 2 ^ 32 * value })
  | 2 => set (fun e => { e with data := value })
  | _ =>
    let masked := value.testBit 0
    let due := !masked && (h.msix.getD v {}).pending
    let h1 := set (fun e => { e with masked := masked, pending := e.pending && masked })
    if due then sendMessage v h1 else h1

/-- BAR0 offsets of registers that a write leaves as they are (R113, R114, R117, R138): identity, global status, HOST_ERR_INFO,
MBOX_OWNER, the read-only stream registers, the pending-bit array. -/
def readOnlyOffset (offset : Nat) : Bool :=
  offset ≤ 0x18 || (0x40 ≤ offset && offset ≤ 0x50) || offset == 0x140 || offset == 0x8004 ||
    (0xA000 ≤ offset && offset < 0xA200 && [0x00, 0x04, 0x08, 0x10].contains (offset % 0x40)) ||
    offset == 0xD000 || offset == 0xD004

/-! ## Stream port (R136 to R142) -/

/-- What becomes of the data a transfer from the host has brought, by its command. -/
def received (t : Transfer) (s : State) : State :=
  match t.opcode with
  | 0x0302 => workloadReceived t s
  | 0x0510 => calReceived t s
  | 0x0610 => tariffReceived t s
  | 0x0701 => modelReceived t s
  | 0x0950 => imageReceived t s
  | 0x0B11 => drawReceived t s
  | 0x0C10 => certReceived t s
  | 0x0F01 => imageStaged t s
  | _ => s

/-- A transfer ends without its data being used: a stage leaves the build bank as it is (R594 of 18), and a calibration not received is
audited as discarded (R273 of 08). -/
def transferFailed (t : Transfer) (status detail : Nat) (s : State) : State :=
  let s := if t.opcode = 0x0510 && !t.dryrun && status = stNotReady then
      let who := auditActor s t.request.session
      audit 7 who.1 who.2 (le 1 3) s
    else s
  complete t.ref status detail [] (if t.opcode = 0x0F01 && !t.dryrun then endStage s else s)

/-- All data are there: the length is checked before the CRC, then the data themselves (R125). -/
def finishTransfer (c : Nat) (t : Transfer) (s : State) : State :=
  let s := closeChannel c s
  if t.data.length ≠ t.expected then transferFailed t stBadField t.lenOff s
  else if t.crcOff ≠ 0 && crc32 t.data ≠ t.crc then transferFailed t stBadField t.crcOff s
  else received t s

/-- Accepts the committed pages of a from-host channel, unless it is suspended (R140, R142). What the last page brings may arm a
generation, so none is accepted from the quiesce of an update to its end, nor while Folset is away (R12 of 01, R598 of 18). -/
def settleReceived (c : Nat) (s : State) : State :=
  let ch := chan s c
  if dirNow ch ≠ .fromHost || ch.suspended || !taking s || ch.head = ch.tail then s
  else
    let s := interrupt (8 + c) (acceptPages c (countTo ch.head ch.tail) s)
    if transferComplete (chan s c) then
      match (chan s c).transfer with
      | some t => finishTransfer c t s
      | none => s
    else s

/-- The stream port goes on where it waited: pages into frames or rings that have become free, committed pages accepted (R140 to R142). -/
def streamUpkeep (s : State) : State := (List.range 8).foldl (fun s c => settleReceived c (pump c s)) s

/-- BAR0 offset of a channel's register. -/
def strmOffset (c reg : Nat) : Nat := 0xA000 + 0x40 * c + reg

/-- STRM_TAIL is written: pages acknowledged, or committed; beyond what the channel permits it is ignored, host error 4 (R116,
R139, R140). -/
def writeTailReg (c value : Nat) (s : State) : State :=
  let ch := chan s c
  match dirNow ch with
  | .toHost =>
    if countTo ch.tail ch.head < countTo ch.tail value then hostError 4 (strmOffset c 0x0C) s
    else if value = ch.tail then s
    else acknowledge c value s
  | .fromHost =>
    if 32 < countTo ch.head value || countTo ch.head value < countTo ch.head ch.tail then hostError 4 (strmOffset c 0x0C) s
    else settleReceived c (setChan c (fun ch => { ch with tail := value }) s)
  | .closed => if value = ch.tail then s else hostError 4 (strmOffset c 0x0C) s

/-- STRM_TAIL_WRITE. -/
def execStrmTailWrite (channel value : Nat) (s : State) : Result :=
  .next (if !pcieUp s || 8 ≤ channel then s else writeTailReg channel (value % 2 ^ 32) s)

/-- The page that lies in a frame of a to-host channel in PULL mode. -/
def pageInFrame (ch : Channel) (frame : Nat) : Option Page :=
  if ch.push.isSome then none else ch.pages.find? (fun p => p.seq % 32 == frame)

/-- Content of a frame that holds no page now, a free value (log 12: use 70). -/
def unknownFrame (n : Nat) (s : State) : Bytes × State := drawBytes 70 n s

/-- The host reads bytes of a to-host frame, which pins its page (R139). -/
def readFrame (c frame off n : Nat) (s : State) : State :=
  let ch := chan s c
  match pageInFrame ch frame with
  | some p =>
    let s := setChan c (fun ch => { ch with pages := ch.pages.map (fun q =>
      if q.seq == p.seq then { q with pinned := true, lastAccess := s.time.uptime } else q) }) s
    { s with host := { s.host with readData := ofLe (slice (pageBytes c (transferIdOf ch) p) off n) } }
  | none =>
    let r := unknownFrame n s
    { r.2 with host := { r.2.host with readData := ofLe r.1 } }

/-- A frame with bytes written into it at an offset, at an uptime (R140). -/
def FrameFill.put (f : FrameFill) (off : Nat) (data : Bytes) (uptime : Nat) : FrameFill :=
  let old := pad 4096 f.data
  { data := old.take off ++ data ++ old.drop (off + data.length)
    written := f.written ||| (2 ^ data.length - 1) <<< off
    lastWrite := uptime }

/-- The host has written every byte of the frame. -/
def FrameFill.whole (f : FrameFill) : Bool := f.written == 2 ^ 4096 - 1

/-- The host writes bytes of a from-host frame (R140). -/
def writeFrame (c frame off : Nat) (data : Bytes) (s : State) : State :=
  setChan c (fun ch => { ch with frames := Tab.put ch.frames frame ((Tab.getD ch.frames frame {}).put off data s.time.uptime) }) s

/-- All ones, `n` bytes, as a read from a from-host frame returns (R116). -/
def readOnes (n : Nat) (s : State) : State := { s with host := { s.host with readData := 256 ^ n - 1 } }

/-- An access to `n` bytes of a frame, at a BAR offset that a host error would name (R116, R139, R140). A read finds the pages again
that a reset of the endpoint held back (R150). -/
def frameAccess (c frame off n : Nat) (write : Option Bytes) (barOffset : Nat) (s : State) : State :=
  let s := if write.isNone then resumeChannel c s else s
  match dirNow (chan s c), write with
  | .toHost, none => readFrame c frame off n s
  | .toHost, some _ => hostError 5 barOffset s
  | .fromHost, none => hostError 5 barOffset (readOnes n s)
  | .fromHost, some d => writeFrame c frame off (d.take n) s
  | .closed, none => readFrame c frame off n s
  | .closed, some _ => s

/-- STREAM_FRAME_ACCESS: a burst within one frame of BAR2 (R136). -/
def execStreamFrameAccess (channel frame offset len : Nat) (write : Option Bytes) (s : State) : Result :=
  .next (if !pcieUp s || 8 ≤ channel || 32 ≤ frame || 4096 < offset + len then s
    else frameAccess channel frame offset len write (channel * 0x20000 + frame * 0x1000 + offset) s)

/-- The cursor moves on by 8 bytes; behind the last ones the next frame is current (R138). -/
def advanceCursor (c : Nat) (s : State) : State :=
  setChan c (fun ch =>
    if ch.cursorOffset + 8 < 4096 then { ch with cursorOffset := ch.cursorOffset + 8 }
    else { ch with cursorOffset := 0, cursorFrame := (ch.cursorFrame + 1) % 32 }) s

/-- The end of a page through STRM_DATA acknowledges or commits it where AUTOACK is set (R139, R140). -/
def autoack (c frame : Nat) (s : State) : State :=
  let ch := chan s c
  match dirNow ch with
  | .toHost =>
    match pageInFrame ch frame with
    | some p => writeTailReg c ((p.seq + 1) % 2 ^ 32) s
    | none => s
  | .fromHost => writeTailReg c ((ch.tail + 1) % 2 ^ 32) s
  | .closed => s

/-- STRM_DATA_ACCESS: 8 bytes of the current page (R138). An access of the wrong direction moves nothing. -/
def execStrmDataAccess (channel : Nat) (write : Option Nat) (s : State) : Result :=
  .next (if !pcieUp s || 8 ≤ channel then s
    else
      let s := if write.isNone then resumeChannel channel s else s
      let ch := chan s channel
      let off := ch.cursorOffset
      let frame := ch.cursorFrame
      let right : Bool := match dirNow ch with
        | .toHost => write.isNone
        | .fromHost => write.isSome
        | .closed => false
      let s := frameAccess channel frame off 8 (write.map (fun v => le 8 v)) (strmOffset channel 0x18) s
      if !right then s
      else
        let s := advanceCursor channel s
        if ch.autoack && off + 8 = 4096 then autoack channel frame s else s)

/-- REGISTER_WRITE: a 4-byte write of BAR0 (R112 to R117). -/
def execRegisterWrite (offset value : Nat) (s : State) : Result :=
  let v := value % 2 ^ 32
  if !pcieUp s then .next s
  else if 0x1000 ≤ offset && offset < 0x5000 then
    if offset % 0x200 < 0x100 then
      execMboxRequestWrite ((offset - 0x1000) / 0x200) (offset % 0x200) (le (min 4 (256 - offset % 0x200)) v) s
    else .next s
  else if offset % 4 ≠ 0 then .next (hostError 6 offset s)
  else if offset = 0x100 then execIntStatusClear v 0 s
  else if offset = 0x104 then .next { s with host := { s.host with intEnable := BitVec.ofNat 32 (v % 2 ^ 22) } }
  else if offset = 0x10C then .next { s with host := { s.host with holdoffUs := v % 65536 } }
  else if 0x120 ≤ offset && offset < 0x138 then .next { s with host := setIntMap (offset - 0x120) v s.host }
  else if offset = 0x8000 then execMboxRing v s
  else if offset = 0x8008 then execMboxDoneClear v 0 s
  else if 0xA000 ≤ offset && offset < 0xA200 && offset % 0x40 = 0x0C then execStrmTailWrite ((offset - 0xA000) / 0x40) v s
  else if 0xA000 ≤ offset && offset < 0xA200 && (offset % 0x40 = 0x18 || offset % 0x40 = 0x1C) then .next (hostError 6 offset s)
  else if 0xC000 ≤ offset && offset < 0xC200 then
    .next { s with host := writeMsix ((offset - 0xC000) / 16) (offset % 16 / 4) v s.host }
  else if readOnlyOffset offset then .next s
  else .next (hostError 3 offset s)

/-- STREAM_PAGE_ABANDON: the oldest page of a to-host channel is pinned and has not been accessed for 100 ms (R139). -/
def execStreamPageAbandon (channel : Nat) (s : State) : Result :=
  let ch := chan s channel
  .next (if ch.dir ≠ .toHost || ch.push.isSome then s
    else match ch.pages.head? with
      | some p => if p.pinned then abandonPage channel p s else s
      | none => s)

/-- Frames of a from-host channel that are written in part and not committed (R140). -/
def partFrames (ch : Channel) : List (Nat × FrameFill) :=
  ch.frames.filter (fun e => !e.2.whole && !decide (countTo (ch.head % 32) e.1 % 32 < countTo ch.head ch.tail))

/-- Of two frames, the one written last the longer ago. -/
def staler (a b : Nat × FrameFill) : Nat × FrameFill := if b.2.lastWrite < a.2.lastWrite then b else a

/-- STREAM_PAGE_STALL: of the frames written in part and not committed, the one not written for longest is discarded whole (R140). -/
def execStreamPageStall (channel : Nat) (s : State) : Result :=
  let ch := chan s channel
  .next (match dirNow ch, partFrames ch with
    | .fromHost, e :: es =>
      let frame := (es.foldl staler e).1
      interrupt (8 + channel) (setChan channel (fun ch => { ch with
        frames := Tab.del ch.frames frame
        cursorOffset := if ch.cursorFrame = frame then 0 else ch.cursorOffset
        abandoned := cap 0xFFFF (ch.abandoned + 1) }) s)
    | _, _ => s)

/-- A PUSH page whose writes could not complete is abandoned: HEAD stays before it, and its copy waits to be written in its place
(R141; log 40). -/
def abandonPush (c : Nat) (p : Page) (s : State) : State :=
  let ch := chan s c
  let s := { s with host := { s.host with
    busWrites := s.host.busWrites.filter (fun w => !(w.1 == c && w.2.2 == p.seq))
    headWrites := s.host.headWrites.filter (fun w => !(w.1 == c && w.2.2 == ch.head)) } }
  let s := setChan c (fun ch => { ch with
    pages := ch.pages.filter (fun q => q.seq != p.seq), head := p.seq, nextSeq := p.seq, abandoned := cap 0xFFFF (ch.abandoned + 1)
    waiting := { p with requeueOf := some p.seq, pinned := false, acked := false } :: ch.waiting }) s
  raiseEvent 0x0105 c true (le 4 p.seq ++ le 4 (transferIdOf ch)) (interrupt (8 + c) s)

/-- STREAM_PUSH_STALL: the page being written, the latest, is abandoned and re-queued whole (R141). -/
def execStreamPushStall (channel : Nat) (s : State) : Result :=
  let ch := chan s channel
  .next (if dirNow ch ≠ .toHost || ch.push.isNone then s
    else match ch.pages.getLast? with
      | some p => abandonPush channel p s
      | none => s)

/-- STREAM_RECEIVE_TIMEOUT: the pages did not all come within 10 s of ACCEPTED (R195 of 06). -/
def execStreamReceiveTimeout (channel : Nat) (s : State) : Result :=
  .next (match (chan s channel).transfer with
    | some t =>
      if (chan s channel).dir = .fromHost then transferFailed t stNotReady 0 (closeChannel channel s) else s
    | none => s)

/-! ## Link loss (R150) -/

/-- Requests of mailboxes go on without them (R150). -/
def orphanRequests (s : State) : State :=
  let orphan (w : Waiting) : Waiting := if w.request.isUdp then w else { w with orphan := true }
  let cut (e : Request × Nat) : Request × Nat := if e.1.isUdp then e else ({ e.1 with via := .mailbox 32 }, e.2)
  { s with
    fol := { s.fol with waiting := s.fol.waiting.map orphan, lostRequests := s.fol.lostRequests.map orphan }
    vlt := { s.vlt with engines := s.vlt.engines.map (fun c => c.map (fun e => { e with waiters := e.waiters.map cut })) } }

/-- The registers of one channel return to reset, so that channels 1 to 7 read as closed. What its transfer still has to send is held
until the channel is next read, the unacknowledged pages as re-queued copies, and goes on in PULL (R150; log 40). -/
def resetChannel (s : State) (c : Nat) : State :=
  setChan c (fun ch => { ch with
    push := none, autoack := false, udp := none, abandoned := 0, head := 0, tail := 0, nextSeq := 0, cursorOffset := 0
    cursorFrame := 0, pages := [], waiting := [], frames := []
    held := ch.held ++ ch.pages.map (fun p => { p with requeueOf := some p.seq, pinned := false, acked := false }) ++ ch.waiting
    down := decide (0 < c) && ch.dir != .closed }) s

/-- The response areas once the mailboxes are reset: that of a mailbox in DONE is lost (R118). -/
def lostResponses (h : HostState) : List Mailbox :=
  h.mailboxes.mapIdx (fun k m => if h.done.getLsbD k then { m with response := [] } else m)

/-- PCIE_RESET: link loss, PCIE_PERST_N or function level reset (R118, R150). Channel 0 leaves its UDP session for pages (R149). -/
def execPcieReset (perst : Bool) (s : State) : Result :=
  let s := directChannel0 none (orphanRequests s)
  let s := { s with host := { s.host with
    mailboxes := lostResponses s.host, owner := 0, done := 0, linkTraining := s.host.linkTraining && !perst } }
  let s := { s with pwr := { s.pwr with perstReleased := s.pwr.perstReleased && !perst } }
  let s := (List.range 8).foldl resetChannel s
  .next { s with host := { s.host with
    intStatus := 0, intEnable := 0, holdoffUs := 0, intMap := List.range 22, msix := List.replicate 32 {}
    errOffset := 0, errCode := 0, errCount := 0, frontierLatch := none } }

/-! ## Event placement (R143 to R146, R149) -/

/-- An entry may be placed: at once, or 10 ms after its first occurrence where its kind coalesces (R144). -/
def entryReady (s : State) (e : EventEntry) : Bool := !e.coalesces || decide (e.firstUptime + 10 ≤ s.time.uptime)

/-- The next event_seq, going from 0xFFFF_FFFF to 1 (R143). -/
def nextEventSeq (n : Nat) : Nat := if n ≥ 0xFFFFFFFF then 1 else n + 1

/-- Numbers the record placed last: its EVENT trace record and its journal entry (R312 of 09, R604 of 18). -/
def placed (kind source count : Nat) (journalKind : Option Nat) (record tail : Bytes) (s : State) : State :=
  let seq := s.fol.eventSeq
  let s := { s with fol := { s.fol with eventSeq := nextEventSeq seq } }
  let s := if s.svc.enable.testBit 0 then
      traceWrite 3 kind (le 4 source ++ le 4 (cap 0xFFFFFFFF count) ++ le 4 seq ++ le 2 record.length ++ zeros 2) s
    else s
  match journalKind with
  | some k => journal k (record ++ tail) s
  | none => s

/-- Takes one entry out of the queue and numbers it. -/
def placeEntry (e : EventEntry) (s : State) : Bytes × State :=
  let r := eventRecord e s.fol.eventSeq
  let s := { s with fol := { s.fol with events := s.fol.events.erase e } }
  (r, placed e.kind e.source e.count (if e.journalled then some 6 else none) r e.tail s)

/-- Takes the overflow entry, which then starts afresh (R146). -/
def placeOverflow (s : State) : Bytes × State :=
  let r := overflowRecord s s.fol.eventSeq
  let count := s.fol.overflowCount
  let s := { s with fol := { s.fol with
    overflow := List.replicate 16 0, overflowCount := 0, overflowFirst := 0, overflowLast := 0 } }
  (r, placed 0x0101 0 count (some 7) r [] s)

/-- Packs ready entries in order into `room` bytes, until one does not fit (R143, R144). -/
def packEntries (room : Nat) : List EventEntry → Bytes → State → Bytes × State
  | [], body, s => (body, s)
  | e :: es, body, s =>
    if room < body.length + 8 * ceilDiv (32 + e.payload.length) 8 then (body, s)
    else
      let r := placeEntry e s
      packEntries room es (body ++ r.1) r.2

/-- Sends ready entries to the UDP session of channel 0 while it has fewer than `room` unacknowledged (R149). -/
def sendEntries (room h : Nat) : List EventEntry → State → State
  | [], s => s
  | e :: es, s =>
    match (findSession s h).bind (·.udp) with
    | none => s
    | some u =>
      if room ≤ u.unacked.length then s
      else
        let r := placeEntry e s
        sendEntries room h es (sendDatagram h 2 r.1 r.2)

/-- Places what is ready: into one page, if a frame is free, or as datagrams. An overflow entry that counts anything always goes with
them: its place is kept free behind the entries (R146). -/
def placeEvents (s : State) : State :=
  let ready := s.fol.events.filter (entryReady s)
  match (chan s 0).udp with
  | some h =>
    let s := sendEntries (if s.fol.overflowCount = 0 then 64 else 63) h ready s
    let room := match (findSession s h).bind (·.udp) with
      | some u => decide (u.unacked.length < 64)
      | none => false
    if 0 < s.fol.overflowCount && room then
      let r := placeOverflow s
      sendDatagram h 2 r.1 r.2
    else s
  | none =>
    if !mayProduce (chan s 0) || !(chan s 0).waiting.isEmpty then s
    else
      let p := packEntries (if s.fol.overflowCount = 0 then 4064 else 4064 - 96) ready [] s
      let q := if 0 < p.2.fol.overflowCount then placeOverflow p.2 else ([], p.2)
      let body := p.1 ++ q.1
      if body.isEmpty then q.2 else producePage 0 { seq := 0, body := body } q.2

/-- EVENT_PLACEMENT: Folset places events while it runs (R10, R12; R599 of 18). -/
def execEventPlacement (s : State) : Result :=
  .next (if s.pwr.vigilOn && s.fol.ready && !s.fol.restarting && s.svc.phase != .switched then placeEvents s else s)

/-! ## UDP (R147 to R149) -/

/-- A Folset datagram is well formed and of a type (R147). -/
def datagramFormed (type : Nat) (d : Bytes) : Bool :=
  rd d 0 2 == 0x4653 && rd d 2 1 == 1 && rd d 3 1 == type && (d.drop 18).take 6 == zeros 6 &&
    d.length == 24 + rd d 16 2 + (if rd d 4 4 = 0 then 0 else 16)

/-- Counts a datagram that failed authentication (R148). -/
def dropDatagram (s : State) : State := { s with fol := { s.fol with udpDropped := s.fol.udpDropped + 1 } }

/-- The body of a session's datagram, if its tag is good under the key of host to module; its header is the additional data
(R148; log 34). -/
def openDatagram (d : Bytes) (s : State) : Option Bytes × State :=
  match (findSession s (rd d 4 4)).bind (fun x => if x.pending then none else x.udp) with
  | none => (none, dropDatagram s)
  | some u =>
    let w := engineWork (folsetClass 0 s) s
    if !w.1 then (none, dropDatagram w.2)
    else match gcmOpen u.keyToModule (slice d 4 12) (d.take 24) (d.drop 24) with
      | some b => (some b, w.2)
      | none => (none, dropDatagram w.2)

/-- A request in clear names no authenticated session (R148). -/
def clearRequest (rq : Request) (s : State) : Bool :=
  match findSession s rq.session with
  | some x => x.pending && x.udp.isSome
  | none => true

/-- The session answers to the address that sent (R147). -/
def notePeer (h : Nat) (peer : Bytes) (s : State) : State :=
  { s with fol := { s.fol with sessions := s.fol.sessions.map (fun x =>
      if x.handle == h then { x with udp := x.udp.map (fun u => { u with peer := peer }) } else x) } }

/-- A request datagram has come to a host-interface address (R147, R148). In clear it may not name an authenticated session; only
SYS_SESSION_AUTH is answered there, since the session it names is not pending (R154). -/
def udpRequest (peer d : Bytes) (s : State) : State :=
  if !s.pwr.vigilOn || !datagramFormed 0 d then s
  else if rd d 4 4 = 0 then
    let r := parseRequest (.udp (rd d 8 8)) (pad 256 (slice d 24 (rd d 16 2)))
    if clearRequest r.2 s then
      arriveCode { opcode := r.1, request := r.2, inClear := true, peer := peer } (notePeer r.2.session peer s)
    else if r.1 = 0x0102 then arriveCode { opcode := r.1, request := r.2, inClear := true, peer := peer } s
    else s
  else
    let o := openDatagram d s
    match o.1 with
    | none => o.2
    | some b =>
      let r := parseRequest (.udp (rd d 8 8)) (pad 256 b)
      if r.2.session = rd d 4 4 then udpArrive r.1 (rd d 8 8) r.2 arriveCode (notePeer r.2.session peer o.2) else o.2

/-- UDP_REQUEST_RX. -/
def execUdpRequestRx (peer datagram : Bytes) (s : State) : Result := .next (udpRequest peer datagram s)

/-- Changes the UDP transport of a session. -/
def setUdp (h : Nat) (f : UdpTransport → UdpTransport) (s : State) : State :=
  { s with fol := { s.fol with sessions := s.fol.sessions.map (fun x =>
      if x.handle == h then { x with udp := x.udp.map f } else x) } }

/-- An event datagram is acknowledged; one that waited takes its place (R149). -/
def eventAcked (h seq : Nat) (s : State) : State :=
  let s := setUdp h (fun u => { u with unacked := u.unacked.filter (fun e => e.1 != seq) }) s
  match (findSession s h).bind (·.udp) with
  | some u =>
    match u.unsent with
    | b :: _ => if u.unacked.length < 64 then sendDatagram h 2 b (setUdp h (fun u => { u with unsent := u.unsent.drop 1 }) s) else s
    | [] => s
  | none => s

/-- An acknowledgement datagram has come (R149). -/
def udpEventAck (d : Bytes) (s : State) : State :=
  if !s.pwr.vigilOn || !datagramFormed 3 d || rd d 4 4 = 0 then s
  else
    let o := openDatagram d s
    match o.1 with
    | none => o.2
    | some b => if b.length = 8 then eventAcked (rd d 4 4) (ofLe b) o.2 else o.2

/-- UDP_EVENT_ACK_RX. -/
def execUdpEventAckRx (datagram : Bytes) (s : State) : Result := .next (udpEventAck datagram s)

/-- UDP_EVENT_RESEND: sent again as it was; after 20 sends the session ends (R149). -/
def execUdpEventResend (session seq : Nat) (s : State) : Result :=
  .next (match (findSession s session).bind (·.udp) with
    | none => s
    | some u =>
      match u.unacked.find? (fun e => e.1 == seq) with
      | none => s
      | some e =>
        if 20 ≤ e.2.2.1 then endSession session 6 s
        else
          let s := setUdp session (fun u => { u with unacked := u.unacked.map (fun x =>
            if x.1 == seq then (x.1, x.2.1, x.2.2.1 + 1, s.time.uptime) else x) }) s
          { s with fol := { s.fol with datagrams := sealedDatagram u session 2 seq e.2.1 :: s.fol.datagrams } })

/-! ## Folset is back (R10 of 01, R599 of 18) -/

/-- UPDATE_QUIESCE_TIMEOUT: a command still runs; the update is abandoned and taking resumes (R599). -/
def execUpdateQuiesceTimeout (s : State) : Result :=
  .next (if s.svc.phase ≠ .quiescing then s
    else
      let s := setSvc (fun v => { v with phase := .idle }) { s with fol := { s.fol with updating := false } }
      drain (updateStep 0 6 (!activeB s) 0 (folsetOf (buildBank s)) (endUpdate stBusy 0 [] s)))

/-- The commands that were running when the update quiesced have ended, or the switch has been made (R599). -/
def switchedNow (s : State) : Bool :=
  s.svc.phase == .switched ||
    (s.svc.phase == .quiescing && s.vlt.engines.all (fun c => c.all (fun e => e.waiters.isEmpty)))

/-- FOLSET_UPDATE_READY: the new image serves, its probation begins, and it sends the completion (R599, R600). -/
def execFolsetUpdateReady (s : State) : Result :=
  .next (if !switchedNow s then s
    else
      let version := folsetOf (buildBank s)
      let s := setSvc (fun v => { v with
        phase := .probation, probationEnd := s.time.uptime + 1000 * v.probationS, runningB := !activeB s }) s
      let s := { s with fol := { s.fol with version := version, updating := false, ready := true } }
      let s := updateStep 0 3 s.svc.runningB 0 version s
      drain (faultLevel (endUpdate stOk 0 (updatePayload version s) s)))

/-- Reports what a restart lost: requests answered INTERNAL, commands completed INTERNAL (R10, R118). -/
def reportLost (s : State) : State :=
  let requests := s.fol.lostRequests
  let commands := s.fol.lostCommands
  let s := { s with fol := { s.fol with
    lostRequests := [], lostCommands := [], outstanding := s.fol.outstanding ++ commands } }
  let s := requests.foldl (fun s w => answer w.opcode w stInternal 1 [] s) s
  commands.foldl (fun s o => complete o.ref stInternal 1 [] s) s

/-- A start that standalone interrupted goes on with FIELD and COMPUTE (R65 of 03, R608 of 18). -/
def resumeStart (s : State) : State :=
  if s.pwr.mode = .starting && !s.pwr.fieldOn && !s.pwr.computeFailed then startDomains (coldCatalogue s) else s

/-- FOLSET_RESTART_COMPLETE (R10, R135 of 05): failures reported, sessions ended, requests taken again. -/
def execFolsetRestartComplete (s : State) : Result :=
  .next (if !s.fol.restarting || s.svc.jorny.standalone || !s.pwr.vigilOn then s
    else
      let failed := s.fol.lostRequests.length + s.fol.lostCommands.length
      let s := endSessions (fun _ => true) 3 (reportLost s)
      let s := raiseEvent 0x0103 0 true (le 4 s.fol.version ++ le 4 failed) s
      let s := { s with fol := { s.fol with restarting := false, ready := true }, host := { s.host with configRetry := false } }
      drain (resumeStart (endFault 0x10 (endFault 0x11 (faultLevel s)))))

end Sys2Proof.Machine
end

