-- ==== Sys2Proof/Machine/Jorny.lean ====
section
/-!
DEFINITION. The Jorny monitor and its line commands. Chapter 18 of the spec (R608 to R610). A row carries the parsed line; the answer is the
bytes its lines stand for, and the status of its last line (log 38).
-/

namespace Sys2Proof.Machine

/-! ## The monitor -/

/-- Changes Jorny's state. -/
def setJorny (f : JornyState → JornyState) (s : State) : State := setSvc (fun v => { v with jorny := f v.jorny }) s

/-- Jorny answers: served by the running image, alone, or in a moisture hold (R54 of 02, R608). -/
def jornyUp (s : State) : Bool :=
  s.pwr.vigilOn && ((s.fol.ready && !s.fol.restarting) || s.svc.jorny.standalone || s.pwr.mode == .hold)

/-- Role and principal of the line, 0 and 0xFF without one. -/
def jornyActor (s : State) : Nat × Nat :=
  match s.svc.jorny.bound with
  | some (r, p, _) => (r.code, p)
  | none => (0, 0xFF)

/-- Ends an answer with OK or ERR and its status, and writes the JORNY trace record (R604, R609). -/
def jornyAnswer (cmd status : Nat) (lines : List Bytes) (s : State) : State :=
  let s := setJorny (fun j => { j with answer := if status = stOk then lines else [], result := status }) s
  let who := jornyActor s
  traceWrite 9 (Config.jornyCode cmd % 65536) (le 1 status ++ le 1 who.1 ++ le 1 who.2 ++ zeros 1) s

/-- What a Jorny command needs (R609). -/
inductive JornyNeed
  | nothing | anyRole | warden
  deriving DecidableEq, Repr

/-- The line's role satisfies a need. -/
def jornyMay (need : JornyNeed) (s : State) : Bool :=
  match need, s.svc.jorny.bound with
  | .nothing, _ => true
  | .anyRole, b => b.isSome
  | .warden, some (r, _, _) => r == .warden || r == .service
  | .warden, none => false

/-- Each command puts off the end of the role (R609). -/
def jornyTouch (s : State) : State :=
  setJorny (fun j => { j with bound := j.bound.map (fun b => (b.1, b.2.1, s.time.uptime)) }) s

/-- Serves a line: in SCRAPPED only ID; its role and its mode; then its body (R609). -/
def jornyRun (cmd : Nat) (need : JornyNeed) (alone : Bool) (body : State → Nat × List Bytes × State) (s : State) : State :=
  if !jornyUp s then s
  else
    let s := jornyTouch s
    if s.fol.lifecycle = .scrapped && cmd ≠ 1 then jornyAnswer cmd stDeniedLifecycle [] s
    else if !jornyMay need s then jornyAnswer cmd stDeniedRole [] s
    else if alone && !s.svc.jorny.standalone then jornyAnswer cmd stNotReady [] s
    else
      let r := body s
      jornyAnswer cmd r.1 r.2.1 r.2.2

/-- Binds no role and asks nothing any more: at LOGOUT, after 900 s, at a change of mode (R609). -/
def jornyUnbind (s : State) : State := setJorny (fun j => { j with bound := none, challenge := none }) s

/-! ## Commands open to all -/

/-- The commands HELP lists (R609). -/
def jornyCommands : List Bytes :=
  [ascii "HELP", ascii "ID", ascii "STATUS", ascii "FAULTS", ascii "AUTH", ascii "SIG", ascii "LOGOUT", ascii "TRACE", ascii "TAIL",
   ascii "BANK", ascii "BANK COMMIT", ascii "BANK USE", ascii "LOAD", ascii "RESTART"]

/-- JORNY_HELP. -/
def execJornyHelp (s : State) : Result := .next (jornyRun 0 .nothing false (fun s => (stOk, jornyCommands, s)) s)

/-- The identity as SYS_IDENTIFY answers it. -/
def identityBytes (s : State) : Bytes :=
  match cmdSysIdentify.body { rq := { via := .mailbox 0, tag := 0, length := 0, flags := 0, session := 0, reserved := 0,
                                      payload := [] }, sess := none, ref := 0, dry := true } s with
  | .final r _ => r.payload
  | .accepted b _ => b
  | .later _ => []

/-- JORNY_ID, in every life-cycle state. -/
def execJornyId (s : State) : Result := .next (jornyRun 1 .nothing false (fun s => (stOk, [identityBytes s], s)) s)

/-- JORNY_STATUS. -/
def execJornyStatus (s : State) : Result :=
  .next (jornyRun 2 .nothing false (fun s =>
    (stOk, [le 4 (gstat s), le 8 (frontier s), le 1 s.pwr.mode.code ++ le 1 (effective s).code, le 1 s.pwr.handover.code], s)) s)

/-- JORNY_FAULTS: the records not IDLE, or one. -/
def execJornyFaults (source : Option Nat) (s : State) : Result :=
  .next (jornyRun 3 .nothing false (fun s =>
    match source with
    | none => (stOk, (s.flt.records.filter (fun e => e.2.phase != .idle)).map (fun e => faultRecordBytes e.1 e.2), s)
    | some k =>
      if (sourceClass k).isNone then (stOutOfRange, [], s)
      else (stOk, [faultRecordBytes k (faultRecord s k)], s)) s)

/-! ## Roles (R131 to R134 of 05) -/

/-- JORNY_AUTH: a challenge for a role and a principal. -/
def execJornyAuth (role principal : Nat) (s : State) : Result :=
  .next (jornyRun 4 .nothing false (fun s =>
    match roleOf role with
    | none => (stOutOfRange, [], s)
    | some r =>
      if 63 < principal then (stOutOfRange, [], s)
      else if !roleOpens s.fol.lifecycle r then (stDeniedLifecycle, [], s)
      else if (principalFor s principal r false).isNone then (stDeniedRole, [], s)
      else
        let d := drawBytes 54 32 s
        (stOk, [d.1], setJorny (fun j => { j with challenge := some (r, principal, d.1) }) d.2)) s)

/-- The message a Jorny signature covers (R609). -/
def jornyMessage (s : State) (role principal : Nat) (challenge : Bytes) : Bytes :=
  ascii "JORNY-AUTH" ++ le 8 s.host.serial ++ le 1 role ++ le 1 principal ++ challenge

/-- JORNY_SIG: a good signature binds the role; a failure counts against the principal (R134). -/
def execJornySig (signature : Bytes) (s : State) : Result :=
  .next (jornyRun 5 .nothing false (fun s =>
    match s.svc.jorny.challenge with
    | none => (stNotReady, [], s)
    | some (r, p, ch) =>
      let s := setJorny (fun j => { j with challenge := none }) s
      match principalFor s p r false with
      | none => (stDeniedRole, [], s)
      | some cred =>
        let w := engineWork (folsetClass 1 s) s
        if !w.1 then (stInternal, [], w.2)
        else if signature.length = (if attrType cred.attr = 5 then 96 else 64) &&
            authGood cred (jornyMessage s r.code p ch) signature then
          (stOk, [], setJorny (fun j => { j with bound := some (r, p, s.time.uptime) }) w.2)
        else (stDeniedRole, [], authFailed 0xF5 p w.2)) s)

/-- JORNY_LOGOUT. -/
def execJornyLogout (s : State) : Result := .next (jornyRun 6 .nothing false (fun s => (stOk, [], jornyUnbind s)) s)

/-- JORNY_ROLE_TIMEOUT: 900 s without a command. -/
def execJornyRoleTimeout (s : State) : Result := .next (jornyUnbind s)

/-! ## Trace, tails, banks -/

/-- JORNY_TRACE: the newest n records, 16 where none is named. -/
def execJornyTrace (count : Option Nat) (s : State) : Result :=
  .next (jornyRun 7 .anyRole false (fun s =>
    let n := count.getD 16
    (stOk, (s.svc.trace.drop (s.svc.trace.length - n)).map traceBytes, s)) s)

/-- JORNY_TAIL: the records of a valid tail slot (R607). -/
def execJornyTail (slot : Nat) (s : State) : Result :=
  .next (jornyRun 8 .anyRole false (fun s =>
    if 1 < slot then (stOutOfRange, [], s)
    else match traceSource s (slot + 1) with
      | none => (stNotReady, [], s)
      | some rs => (stOk, rs.map traceBytes, s)) s)

/-- JORNY_BANK: bank states and versions. -/
def execJornyBank (s : State) : Result := .next (jornyRun 9 .nothing false (fun s => (stOk, [bankBytes s], s)) s)

/-- An action of SVC_BANK from the line (R609, R616). -/
def jornyBankAction (action bank : Nat) (s : State) : Nat × List Bytes × State :=
  if s.svc.jorny.load.isSome then (stBusy, [], s)
  else match bankRefused action bank s with
    | some (st, _) => (st, [], s)
    | none => (stOk, [], bankAction action s)

/-- JORNY_BANK_COMMIT: action 1 of SVC_BANK. -/
def execJornyBankCommit (s : State) : Result := .next (jornyRun 10 .warden false (jornyBankAction 1 0) s)

/-- JORNY_BANK_USE: action 3 of SVC_BANK. -/
def execJornyBankUse (bankB : Bool) (s : State) : Result := .next (jornyRun 11 .warden false (jornyBankAction 3 bankB.toNat) s)

/-! ## LOAD (R610) -/

/-- JORNY_LOAD begins a binary load into the build bank; the first answer is READY. -/
def execJornyLoad (target len : Nat) (s : State) : Result :=
  .next (jornyRun 12 .warden true (fun s =>
    if 4 < target || len < 257 || imageLimit target + 256 < len then (stOutOfRange, [], s)
    else if s.svc.jorny.load.isSome then (stBusy, [], s)
    else (stOk, [ascii "READY"], setJorny (fun j => { j with load := some (target, len, []) }) (beginStage s))) s)

/-- The CRC-32 a block of LOAD carries, over its offset and data (R610; log 38). -/
def blockCrc (offset : Nat) (data : Bytes) : Nat := crc32 (le 4 offset ++ data)

/-- The whole image has come: it is checked and staged, or refused (R593, R610). -/
def loadEnd (target len : Nat) (got : Bytes) (s : State) : State :=
  let s := setJorny (fun j => { j with load := none, answer := [[0x06#8]] }) s
  let img := got.take len
  match stageRefused target img s with
  | none => jornyAnswer 12 stOk [[0x06#8]] (stageDone 0 img s)
  | some r => jornyAnswer 12 r.1 [] (imageReport r (endStage s))

/-- JORNY_LOAD_BLOCK: a block in order is accepted with 0x06, any other refused with 0x15. -/
def execJornyLoadBlock (offset : Nat) (data : Bytes) (crc : Nat) (s : State) : Result :=
  match s.svc.jorny.load with
  | none => .next s
  | some (target, len, got) =>
    if !jornyUp s then .next s
    else if data.length ≠ 1024 || crc ≠ blockCrc offset data || offset % 1024 ≠ 0 || got.length < offset then
      .next (setJorny (fun j => { j with answer := [[0x15#8]] }) s)
    else
      let new := got.take offset ++ data ++ got.drop (offset + 1024)
      if new.length < len then .next (setJorny (fun j => { j with load := some (target, len, new), answer := [[0x06#8]] }) s)
      else .next (loadEnd target len new s)

/-- JORNY_LOAD_TIMEOUT: 10 s without a byte. -/
def execJornyLoadTimeout (s : State) : Result :=
  .next (if s.svc.jorny.load.isNone then s
    else jornyAnswer 12 stNotReady [] (endStage (setJorny (fun j => { j with load := none }) s)))

/-! ## Modes -/

/-- Folset restarts from the active bank, and standalone ends (R609). -/
def jornyRestart (s : State) : State :=
  if s.svc.jorny.standalone then
    let s := if s.svc.jorny.load.isSome then endStage s else s
    let s := setJorny (fun j => { j with standalone := false, load := none }) (endFault 0xF7 s)
    let s := fromActiveBank (jornyUnbind s)
    { s with fol := { s.fol with ready := false, restarting := true } }
  else folsetRestart false s

/-- JORNY_RESTART. The answer goes out before the restart. -/
def execJornyRestart (s : State) : Result :=
  let up := jornyUp s && s.fol.lifecycle != .scrapped && jornyMay .warden s
  let t := jornyRun 13 .warden false (fun s => (stOk, [], s)) s
  .next (if up then jornyRestart t else t)

/-- JORNY_BREAK: early after the VIGIL rails, while BLANK or SERVICE, Jorny goes to standalone (R608). -/
def execJornyBreak (s : State) : Result :=
  if !s.pwr.vigilOn || !(s.pwr.mode == .starting || s.pwr.mode == .hold) ||
      !(s.fol.lifecycle == .blank || s.fol.lifecycle == .service) then .next s
  else
    let s := portsDown false (computeDown (fieldOff (jornyUnbind s)))
    .next (standalone { s with fol := { s.fol with ready := false }, host := { s.host with configRetry := true } })

end Sys2Proof.Machine
end

