-- ==== Sys2Proof/Machine/Kernels.lean ====
section
/-!
DEFINITION. What each kernel of the catalogue does to a unit, which units a tick or round has, and the three rows of dispatch. Chapters
06 (R161, R166, R172 to R181), 01 (R18, R20, R24) of the spec. Kernels whose work the rows of their chapters carry (receive and
protocol kernels, HISTORY, COMPACT) have no effect of their own here (log 20).
-/

namespace Sys2Proof.Machine

/-- Phases of a network on which a transmit tick planned now carries power-line samples (R374 of 11). -/
def txPhases (s : State) (b : Nat) : List Nat :=
  let t := planTick s b
  let due := (bridgeAt s b).plans.filter (fun e => decide (e.first ≤ t) && decide (t < e.first + e.ticks) && e.medium != 8)
  (List.range 3).filter (fun p => due.any (fun e => e.medium.testBit p))

/-- A network has a radio configuration (R401 of 12). -/
def hasRadio (s : State) (b : Nat) : Bool := (Tab.get s.mtr.rf b).isSome

/-- The kernels, by ID: kernel, Gliris time of the tick, unit (R161). PLC_RX and PLC_TX count phase streams, three to a bridge; the
samples of one bridge leave together, with its first transmitting phase (log 20). -/
def runKernel (kernel label unit : Nat) (s : State) : State :=
  match kernel with
  | 0x0101 => runIngest label unit s
  | 0x0103 => if (txPhases s (unit / 3)).head? = some (unit % 3) then sendSamples (unit / 3) false s else s
  | 0x0104 => runRadio unit s
  | 0x0105 => runLvMeter label unit s
  | 0x0106 => runPoll unit s
  | 0x0107 => runRoutes unit s
  | 0x0108 => runPhases unit s
  | 0x0201 => runAccount label unit s
  | 0x0202 => runLocal label unit s
  | 0x0301 => runBalance unit label s
  | 0x0302 => runLocalise unit s
  | 0x0401 => runMetChannel unit label s
  | 0x0501 => runHeadroom unit s
  | 0x0502 => runAllot unit s
  | 0x0503 => runCanSetpoint unit s
  | 0x0504 => runGphyModem unit s
  | 0x0505 => runV2gStack unit s
  | 0x0506 => runTlsRecord unit s
  | 0x0602 => runFwPush s
  | _ => s

/-- Configured charge points. -/
def configuredPoints (s : State) : List Nat := (List.range 16).filter (pointConfigured s)

/-- The actual invocations of a kernel: what the configuration in force gives (R166). -/
def unitsOf (kernel label : Nat) (s : State) : List Nat :=
  let nets := admitted s
  match kernel with
  | 0x0101 => nets
  | 0x0102 => nets.flatMap (fun b => [3 * b, 3 * b + 1, 3 * b + 2])
  | 0x0103 => nets.flatMap (fun b => (txPhases s b).map (fun p => 3 * b + p))
  | 0x0104 => nets.filter (hasRadio s)
  | 0x0105 => nets
  | 0x0106 => nets
  | 0x0107 => nets
  | 0x0108 => nets
  | 0x0109 => nets
  | 0x0201 => match openTick s label with
    | some t => touchedAccounts s t
    | none => touchedAccounts s { label := label, trust := s.time.tickTrust, startedAt := s.time.uptime }
  | 0x0202 => match openTick s label with
    | some t => localsDue s t
    | none => []
  | 0x0301 => nets
  | 0x0302 => nets
  | 0x0401 => ((calibAt s (label - 1)).channels.map (·.channel)).eraseDups
  | 0x0501 => s.chg.paths.map (·.1)
  | 0x0502 => configuredPoints s
  | 0x0503 => configuredPoints s
  | 0x0504 => configuredPoints s
  | 0x0505 => configuredPoints s
  | 0x0506 => configuredPoints s
  | 0x0601 => List.range 8
  | 0x0603 => List.range 4
  | 0x0507 => (List.range 4).filter (fun k => (s.chg.readers.getD k {}).antenna != 0)
  | 0x0602 => if s.mtr.campaigns.any (fun e => e.2.running) then [0] else []
  | _ => []

/-- The entry into Vigil is in progress: open ticks still get their work done (R62 of 03). -/
def enteringVigil (s : State) : Bool := s.pwr.vigilEntryBy.isSome

/-- Runs a scheduler operation; during the entry into Vigil florets work on, though the mode is Vigil already (R62 of 03). -/
def withFlorets (f : State → State) (s : State) : State :=
  if enteringVigil s then
    let m := s.pwr.mode
    let t := f (setPwr (fun p => { p with mode := .lean }) s)
    if t.pwr.mode = .lean then setPwr (fun p => { p with mode := m }) t else t
  else f s

/-- Cycles that an invocation may take beyond its kernel's own (R161). -/
def extraCycles (kernel label unit : Nat) (s : State) : Nat := if kernel = 0x0201 then accountExtra label unit s else 0

/-- INVOCATION_DISPATCH (R172 to R181). -/
def execInvocationDispatch (floret : Nat) (s : State) : Result := .next (withFlorets (dispatch unitsOf floret) s)

/-- SLICE_BOUNDARY (R173, R175, R188). -/
def execSliceBoundary (floret us : Nat) (s : State) : Result :=
  .next (withFlorets (fun s => retireDrained (floret / 16) (rollLoad (sliceBoundary floret us s))) s)

/-- PAGE_FETCH_COMPLETE (R181). -/
def execPageFetchComplete (floret : Nat) (s : State) : Result := .next (withFlorets (pageArrived floret) s)

/-- INVOCATION_COMPLETE (R182). -/
def execInvocationComplete (floret : Nat) (s : State) : Result :=
  .next (withFlorets (fun s =>
    retireDrained (floret / 16) (rollLoad (completeInvocation runKernel extraCycles floret s))) s)

end Sys2Proof.Machine
end

