-- ==== Sys2Proof/Machine/LinkRows.lean ====
section
/-!
DEFINITION. A received Ethernet frame: MACsec, the receive filter, steering by type, neighbour discovery. Chapters 17 (R576, R577, R584),
11 (R361) and 05 (R147) of the spec. A frame is its bytes from the destination address on, without the frame check sequence (log 33).
-/

namespace Sys2Proof.Machine

/-! ## MACsec (R584; R528 of 15) -/

/-- A SecTAG and what follows it: TCI and AN, short length, low half of the PN, length of the tag with its EtherType. -/
structure SecTag where
  tci : Nat
  sl : Nat
  pn : Nat
  len : Nat

/-- The SecTAG of a frame, if it carries one. -/
def secTag (f : Bytes) : Option SecTag :=
  if ofBe (slice f 12 2) ≠ 0x88E5 then none
  else
    let tci := rd f 14 1
    some { tci := tci, sl := rd f 15 1, pn := ofBe (slice f 16 4), len := if tci.testBit 5 then 16 else 8 }

/-- The 64-bit PN of which a frame carries the low half, near the next one expected (IEEE 802.1AE; PRESUMED log 33). -/
def widenPn (next low : Nat) : Nat :=
  let half := 2 ^ 31
  let up := if half ≤ next % 2 ^ 32 && low < half then 1 else 0
  (next / 2 ^ 32 + up) * 2 ^ 32 + low

/-- Bytes XORed with others of the same length. -/
def xorBytes (a b : Bytes) : Bytes := List.zipWith (· ^^^ ·) a b

/-- Opens a protected frame under an association of 48 B (SAK, salt, SSCI): the frame without its SecTAG, if its ICV is good. Without
confidentiality the whole frame is additional data. -/
def openSecure (assoc : Bytes) (pn : Nat) (t : SecTag) (f : Bytes) : Option Bytes :=
  let body := f.drop (12 + t.len)
  let n := if t.sl = 0 then body.length - 16 else t.sl
  let nonce := xorBytes (slice assoc 44 4 ++ be 8 pn) (slice assoc 32 12)
  let head := f.take (12 + t.len)
  let data := slice body 0 n
  let icv := slice body n 16
  if body.length < n + 16 || t.tci.testBit 7 then none
  else if t.tci.testBit 3 then (gcmOpen (slice assoc 0 32) nonce head (data ++ icv)).map (fun d => f.take 12 ++ d)
  else (gcmOpen (slice assoc 0 32) nonce (head ++ data) icv).map (fun _ => f.take 12 ++ data)

/-- Counts a frame that the receive path drops. -/
def dropRx (p : Nat) (s : State) : State := setPort p (fun x => { x with rxDropped := x.rxDropped + 1 }) s

/-- Counts a frame dropped by MACsec. -/
def macsecDrop (p : Nat) (s : State) : State := setPort p (fun x => { x with macsecDrops := x.macsecDrops + 1 }) s

/-- An authentication failure: more than 1,000 in a second on a port raise source 0xE2 (R584). -/
def authFailure (p : Nat) (s : State) : State :=
  let t := s.time.uptime
  let s := setPort p (fun x => if x.authSecond + 1000 ≤ t then { x with authSecond := t, authFails := 1 }
    else { x with authFails := x.authFails + 1 }) (macsecDrop p s)
  let x := portAt s p
  if 1000 < x.authFails && !x.authFlood then
    raiseFault 0xE2 2 (setPort p (fun x => { x with authFlood := true }) s)
  else s

/-- The count under which an association's next PN is kept: a new key in its slot starts again (R513 of 15, R584). -/
def pnKey (an : Nat) (c : SlotCopy) : Nat := 4 * attrGeneration c.attr + an

/-- A protected frame on a port with MACsec: what it carries, if its association is installed, its engine in service, its ICV good and
its PN not before the replay window (R584). -/
def receiveSecure (p : Nat) (t : SecTag) (f : Bytes) (s : State) : Option Bytes × State :=
  let g := portGroup p
  let an := t.tci % 4
  match assocSlot s g an true with
  | none => (none, macsecDrop p s)
  | some c =>
    if !engineUp s 4 g then (none, dropRx p s)
    else
      match requestKey 4 g (.stored 8 (assocIndex g an true)) s with
      | (none, s) => (none, macsecDrop p s)
      | (some key, s) =>
        let s := setEngine 4 g (fun e => { e with operations := e.operations + 1 }) s
        let next := Tab.getD (portAt s p).nextPn (pnKey an c) 1
        let pn := widenPn next t.pn
        match openSecure key pn t f with
        | none => (none, authFailure p s)
        | some inner =>
          if pn + (s.lnk.macsec.getD g {}).replayWindow < next then (none, macsecDrop p s)
          else (some inner, setPort p (fun x => { x with nextPn := Tab.put x.nextPn (pnKey an c) (max next (pn + 1)) }) s)

/-! ## Filter and steering (R576) -/

/-- Addresses of a port. -/
def portAddrs (s : State) (p : Nat) : List AddrEntry := (portAt s p).addrs.filterMap id

/-- A destination MAC address that the port receives (R80 of 04, R576). -/
def macAccepted (s : State) (p : Nat) (da : Bytes) : Bool :=
  da == macOf s p || da == be 6 0x011B19000000 || da == be 6 0x0180C200000E || da == be 6 0x333300000001 ||
    (portAddrs s p).any (fun e => da == be 3 0x3333FF ++ slice e.address 13 3)

/-- A frame without its VLAN tag, and the VLAN it names; 0 untagged. -/
def untag (f : Bytes) : Nat × Bytes :=
  if ofBe (slice f 12 2) = 0x8100 then (ofBe (slice f 14 2) % 4096, f.take 12 ++ f.drop 16) else (0, f)

/-- The receive path accepts a frame (R576). -/
def rxAccepted (s : State) (p : Nat) (f : Bytes) : Bool :=
  let u := untag f
  decide (14 ≤ u.2.length) && decide (f.length + 4 ≤ (portAt s p).config.mtu + 18) && macAccepted s p (f.take 6) &&
    (ofBe (slice f 12 2) != 0x8100 || (portAddrs s p).any (fun e => e.vlan == u.1))

/-- One's complement sum of big-endian 16-bit words. -/
def wordSum : Bytes → Nat
  | [] => 0
  | [a] => 256 * a.toNat
  | a :: b :: r => 256 * a.toNat + b.toNat + wordSum r

/-- The checksum of an IPv6 packet's upper layer is good (PRESUMED log 33: as IPv6 has it). -/
def checksumGood (src dst : Bytes) (next : Nat) (b : Bytes) : Bool :=
  let n := wordSum (src ++ dst) + b.length + next + wordSum b
  n != 0 && n % 65535 == 0

/-! ## Neighbour discovery (R577) -/

/-- Keeps a neighbour: the entry of its address, or a new one, in place of the one longest not refreshed when 256 are held. -/
def learnNeighbour (p : Nat) (address mac : Bytes) (s : State) : State :=
  let n : Neighbour := { address := address, mac := mac, refreshed := s.time.uptime }
  setPort p (fun x =>
    let others := x.neighbours.filter (fun y => y.address != address)
    let oldest := others.foldl (fun m y => min m y.refreshed) n.refreshed
    let kept := if 256 ≤ others.length then others.eraseP (fun y => y.refreshed == oldest) else others
    { x with neighbours := kept ++ [n] }) s

/-- The link-layer address option of a type, in an ICMPv6 message's options. -/
def llOption (type : Nat) : Nat → Bytes → Option Bytes
  | 0, _ => none
  | n + 1, o =>
    if o.length < 8 || rd o 1 1 = 0 then none
    else if rd o 0 1 = type then some (slice o 2 6)
    else llOption type n (o.drop (8 * rd o 1 1))

/-- Folset sends an ICMPv6 message (its checksum is the sender's lower layer's; log 33). -/
def sendIcmp (p : Nat) (dst message : Bytes) (s : State) : State :=
  setLnk (fun l => { l with icmpSent := (p, dst, message) :: l.icmpSent }) s

/-- An ICMPv6 message that goes to Folset: neighbour solicitation, neighbour advertisement, echo request (R576, R577). -/
def takeIcmp (p : Nat) (src m : Bytes) (s : State) : State :=
  let own (a : Bytes) : Bool := (portAddrs s p).any (fun e => e.address == a)
  if rd m 0 1 = 135 then
    let s := match llOption 1 8 (m.drop 24) with
      | some mac => if ipUnspecified src then s else learnNeighbour p src mac s
      | none => s
    if own (slice m 8 16) then
      let dst := if ipUnspecified src then be 16 0xFF020000000000000000000000000001 else src
      let flags : Nat := if ipUnspecified src then 0x20 else 0x60
      sendIcmp p dst (le 1 136 ++ zeros 3 ++ le 1 flags ++ zeros 3 ++ slice m 8 16 ++ le 1 2 ++ le 1 1 ++ macOf s p) s
    else s
  else if rd m 0 1 = 136 then
    match llOption 2 8 (m.drop 24) with
    | some mac => learnNeighbour p (slice m 8 16) mac s
    | none => s
  else sendIcmp p src (le 1 129 ++ zeros 3 ++ m.drop 4) s

/-! ## Stem frames and Folset datagrams -/

/-- A Stem frame has come to a Stem address: by its type as the rows of the Stem frames give it (R361, R363 of 11). -/
def steerStem (p : Nat) (src dst f : Bytes) (s : State) : State :=
  let after (r : Result) : State := match r with
    | .next t => t
    | _ => s
  match rd f 1 1 with
  | 2 => after (execStemRfSamples f s)
  | 5 => after (execStemJoin p src dst f s)
  | 6 => after (execStemStaleRx f s)
  | type => stemReceive type f s

/-- An IPv6 packet of an accepted frame is steered; what no row of R576 names is dropped. -/
def steerIp (p : Nat) (q : Bytes) (s : State) : State :=
  let len := ofBe (slice q 4 2)
  let next := rd q 6 1
  let src := slice q 8 16
  let dst := slice q 24 16
  let b := slice q 40 len
  let port := ofBe (slice b 2 2)
  let role (i : Nat) : Bool := (portAddrs s p).any (fun e => e.address == dst && e.roles.testBit i)
  if rd q 0 1 / 16 ≠ 6 || q.length < 40 + len || len < 8 || !checksumGood src dst next b then dropRx p s
  else if next = 17 && ofBe (slice b 4 2) = len && port = 49231 && role 1 then steerStem p src dst (b.drop 8) s
  else if next = 17 && ofBe (slice b 4 2) = len && port = 49230 && role 0 then
    if rd b 11 1 = 3 then udpEventAck (b.drop 8) s else udpRequest (src ++ slice b 0 2) (b.drop 8) s
  else if next = 58 && s.fol.ready && !s.fol.restarting && (rd b 0 1 = 135 && 24 ≤ len || rd b 0 1 = 136 && 24 ≤ len || rd b 0 1 = 128) then
    takeIcmp p src b s
  else dropRx p s

/-- An unprotected frame meets the filter and is steered (R576). PTP messages reach the timestamp unit, and what they say comes with the
PTP rows. -/
def steerFrame (p : Nat) (f : Bytes) (s : State) : State :=
  if !rxAccepted s p f then dropRx p s
  else
    let u := (untag f).2
    let type := ofBe (slice u 12 2)
    if type = 0x88F7 then s
    else if type = 0x86DD then steerIp p (u.drop 14) s
    else dropRx p s

/-- ETHERNET_FRAME_RX (R576, R584). -/
def execEthernetFrameRx (port : Nat) (frame : Bytes) (s : State) : Result :=
  .next (if !portExists s port || isMirror s port || (portAt s port).phase ≠ .up then s
  else
    let s := setPort port (fun x => { x with rxBytes := x.rxBytes + frame.length }) s
    let sec := s.lnk.macsec.getD (portGroup port) {}
    if !sec.enable then steerFrame port frame s
    else
      match secTag frame with
      | none => if sec.ptpBypass && ofBe (slice frame 12 2) = 0x88F7 then steerFrame port frame s else dropRx port s
      | some t =>
        let r := receiveSecure port t frame s
        match r.1 with
        | some inner => steerFrame port inner r.2
        | none => r.2)

end Sys2Proof.Machine
end

