-- ==== Sys2Proof/Machine/MemErrors.lean ====
section
/-!
DEFINITION. Errors of DRAM and of the ledger store as they are read, and the retirement of DRAM pages. Chapters 07 (R202 to R211) and
16 (R545, R546) of the spec.
-/

namespace Sys2Proof.Machine

/-! ## DRAM (R202 to R206) -/

/-- Row of the DRAM map that an address lies in, from 0 (R202). -/
def dramRegion (addr : Nat) : Nat :=
  if addr < 0x200000000 then 0
  else if addr < 0x300000000 then 1
  else if addr < 0x700000000 then 2
  else if addr < 0x780000000 then 3
  else if addr < 0x7C0000000 then 4
  else if addr < 0x840000000 then 5
  else if addr < 0x880000000 then 6
  else if addr < 0x8C0000000 then 7
  else if addr < 0x8E0000000 then 8
  else if addr < 0x920000000 then 9
  else 10

/-- Pseudo-channel of an address: units of 256 B go round all 64 (R203; log 41). -/
def pseudoChannel (addr : Nat) : Nat := addr / 256 % 64

/-- Milliseconds of 24 h. -/
def dayMs : Nat := 86400000

/-- Notes an error of a page and forgets those older than 24 h (R206). -/
def noteError (page : Nat) (uncorrectable : Bool) (s : State) : State :=
  let t := s.time.uptime
  let recent (l : List Nat) : List Nat := l.filter (fun u => decide (t < u + dayMs))
  { s with mem := { s.mem with pages := Tab.upd s.mem.pages page {} (fun e => {
      corrected := if uncorrectable then recent e.corrected else t :: recent e.corrected
      uncorrected := if uncorrectable then t :: recent e.uncorrected else recent e.uncorrected }) } }

/-- A page over its limit: 2 uncorrectable or 16 corrected errors within 24 h (R206). -/
def pageOver (e : PageErrors) : Bool := decide (2 ≤ e.uncorrected.length) || decide (16 ≤ e.corrected.length)

/-- Retires a page: remapped to a page of the spare pool; without one it stays, with a class-B fault (R206, R223; log 41). -/
def retirePage (page pc : Nat) (s : State) : State :=
  let free := s.mem.spareFree
  if free = 0 then raiseFault 0x41 2 s
  else
    let n := Tab.getD s.mem.retired pc 0 + 1
    let s := { s with mem := { s.mem with
      remap := Tab.put s.mem.remap page (262144 - free), spareFree := free - 1
      retired := Tab.put s.mem.retired pc n, pages := Tab.del s.mem.pages page } }
    let s := raiseEvent 0x0401 pc false (le 8 page ++ le 4 (free - 1) ++ zeros 4) s
    if n = 65 then raiseFault 0x41 1 s else s

/-- The bridge's samples in a buffer are missing for that sample tick (R202, R205). -/
def loseSamples (addr : Nat) (s : State) : State :=
  if (Tab.get s.stem.bridges (addr / 2 ^ 20)).isSome then
    setBridge (addr / 2 ^ 20) (fun x => { x with buffers := Tab.del x.buffers (addr / 4096 % 256) }) s
  else s

/-- A working page is rebuilt from the committed record and the interval history: what only it held is gone (R205, R287 of 09). -/
def rebuildPage (a : Nat) (s : State) : State :=
  if (Tab.get s.led.pages a).isSome then setPage a (fun p => { p with reading := none, reports := [], emergency := none, lastGasp := none }) s else s

/-- Interval-history entries of the transfer at an offset are marked lost: entry k of a ring of seven days is the interval whose number
leaves k (R205, R287 of 09; log 41). -/
def loseHistory (off : Nat) (s : State) : State :=
  let keep := 10080 / s.led.billingMin
  let first := off % 16384 / 64 * 8
  let hit (i : Nat) : Bool := decide (first ≤ i % keep) && decide (i % keep < first + 8)
  if (Tab.get s.led.pages (off / 16384)).isSome then
    setPage (off / 16384) (fun p => { p with
      history := p.history.map (fun e => if hit e.1 then (e.1, { e.2 with lost := true }) else e) }) s
  else s

/-- Entry `k` of a map of entries of `size` bytes from `base` meets the 64 B transfer at `off`: ECC works on whole transfers (R204). -/
def inTransfer (off base size k : Nat) : Bool :=
  let t := off / 64 * 64
  decide (base + size * k < t + 64) && decide (t < base + size * (k + 1))

/-- Place of a slot in a history ring: all the networks, or feeders, of one sequence stand together (R350 of 10; log 41). -/
def ringPlace (ring subjects seq subject : Nat) : Nat := seq % ring * subjects + subject

/-- Where the ring of a window kind begins in the region of balance history (R350 of 10). -/
def windowBase : Nat → Nat
  | 0 => 0xA000000 | 1 => 0x24400000 | _ => 0x40600000

/-- Feeder windows before those of a kind (R350 of 10; log 41). -/
def feederBase : Nat → Nat
  | 0 => 0 | 1 => 672 | _ => 672 + 720

/-- Balance-history entries of the transfer at an offset are marked lost: windows in their flags, rounds and suspicion records by the
mark; a localisation series has one entry less (R205; R342, R350 of 10; log 41). -/
def loseBalance (off : Nat) (s : State) : State :=
  let e := Config.seriesEntry (off / 64)
  let s := if 0x4F500000 ≤ off && off < 0x60000000 then
      setNetBal e.1 (fun n => { n with series := n.series.filter (fun m => !(m.account == e.2.1 && m.seq == e.2.2)) }) s
    else s
  setBal (fun y => { y with
    rounds := y.rounds.map (fun r =>
      if inTransfer off 0 80 (ringPlace 256 8192 r.round r.bridge) then { r with lost := true } else r)
    windows := y.windows.map (fun w =>
      if inTransfer off (windowBase w.kind) 80 (ringPlace (windowRing w.kind) 8192 w.seq w.bridge) then
        { w with flags := w.flags ||| 16 } else w)
    feederWindows := y.feederWindows.map (fun w =>
      if inTransfer off 0x4EB00000 64 (16 * feederBase w.kind + ringPlace (windowRing w.kind) 16 w.seq w.feeder) then
        { w with flags := w.flags ||| 8 } else w)
    suspicions := y.suspicions.map (fun x => if inTransfer off 0x4ED00000 128 x.slot then { x with lost := true } else x) }) s

/-- A network's page is rebuilt within 2 rounds, its polls suspended meanwhile; how long it takes is a free value (R205; log 12:
use 72). -/
def rebuildNet (b : Nat) (s : State) : State :=
  if (Tab.get s.stem.nets b).isSome then
    let d := draw 72 2049 s
    setNet b (fun n => { n with rebuiltAt := s.time.uptime + d.1 }) d.2
  else s

/-- A meter firmware image is damaged until it is staged again (R205). -/
def damageImage (slot : Nat) (s : State) : State :=
  { s with mtr := { s.mtr with images := s.mtr.images.map (fun e => if e.1 = slot then (e.1, { e.2 with verified := false }) else e) } }

/-- The open tick that owns a shadow entry is aborted: the younger one, or else the run-ahead work is discarded (R101 of 04, R205). -/
def loseShadow (s : State) : State :=
  match s.led.ticks with
  | _ :: t :: _ => abortFrom false (fun u => u.label == t.label) s
  | _ => settleAhead (fun _ _ _ s => s) 0 false true s

/-- An entry of staging or of the mirror queue is re-formed from its source; a mirror entry that cannot be starts a resynchronisation
of the standby. Which it is, is a free value (R205; log 12: use 73). -/
def loseStaging (s : State) : State :=
  if s.duty.role = .duty && s.duty.contact && s.duty.sync = .inSync then
    let d := draw 73 2 s
    if d.1 = 0 then d.2
    else
      let s := setDuty (fun x => { x with coupled := false, alone := true }) (mirrorSend 9 (now s) d.2)
      setSync .outOfSync 0 (setLed (fun l => { l with ticks := l.ticks.map (fun t => { t with awaitingAck := false }) }) s)
  else s

/-- The invocation that read poisoned data ends as a task fault (R183 of 06, R205). -/
def poison (floret : Option Nat) (s : State) : State :=
  match floret with
  | some f => taskFault f s
  | none => s

/-- Effect of an uncorrectable error by region (R205). -/
def dramLost (addr : Nat) (floret : Option Nat) (s : State) : State :=
  match dramRegion addr with
  | 0 => poison floret (loseSamples addr s)
  | 1 => poison floret (rebuildPage ((addr - 0x200000000) / 4096) s)
  | 2 => loseHistory (addr - 0x300000000) s
  | 3 => loseBalance (addr - 0x700000000) s
  | 4 => poison floret (rebuildNet ((addr - 0x780000000) / 4096) s)
  | 5 => damageImage ((addr - 0x7C0000000) / 2 ^ 23) s
  | 6 => loseShadow s
  | 7 => loseStaging s
  | 8 => setYrw (fun y => { y with reloading := true }) s
  | _ => s

/-- A DRAM read finds an error: counted and reported; an uncorrectable one has its region's effect; one that no injection made counts
towards the page's retirement (R204 to R206, R223; R546 of 16). -/
def dramError (addr : Nat) (uncorrectable : Bool) (floret : Option Nat) (injected : Bool) (s : State) : State :=
  let pc := pseudoChannel addr
  let page := addr / 4096 * 4096
  let s := { s with mem := { s.mem with
    dramCorrected := if uncorrectable then s.mem.dramCorrected else Tab.upd s.mem.dramCorrected pc 0 (· + 1)
    dramUncorrected := if uncorrectable then (s.mem.dramUncorrected + 1) % 2 ^ 32 else s.mem.dramUncorrected } }
  let s := raiseEvent 0x0400 pc true (le 1 uncorrectable.toNat ++ le 1 (dramRegion addr) ++ zeros 2 ++ le 8 addr ++ zeros 4) s
  let s := if uncorrectable then reportWith 0x40 1 injected s else reportWith 0x43 1 injected s
  let s := if injected then s else noteError page uncorrectable s
  let s := if uncorrectable then dramLost addr floret s else s
  if !injected && pageOver (Tab.getD s.mem.pages page {}) then retirePage page pc s else s

/-- DRAM_ECC_ERROR (R204 to R206): an injection on this pseudo-channel and transfer makes the error its own kind (R545 of 16). -/
def execDramEccError (addr : Nat) (uncorrectable : Bool) (floret : Option Nat) (s : State) : Result :=
  .next (if !s.pwr.computeOn || 0xC00000000 ≤ addr then s
  else
    match takeInjection 0 (fun i => i.place == pseudoChannel addr && i.addr / 64 == addr / 64) s with
    | (some i, s) => dramError addr (i.mode == 1) floret true s
    | (none, s) => dramError addr uncorrectable floret false s)

/-! ## Ledger store (R208 to R211) -/

/-- Row of the ledger store map, from 0 (R208). -/
def lstoreRow (addr : Nat) : Nat :=
  if addr < 0x20000000 then 0 else if addr < 0x30000000 then 1 else if addr < 0x38000000 then 2 else 3

/-- An account record half that cannot be read marks its account damaged: the other half does not become live (R211). -/
def damageAccount (a : Nat) (injected : Bool) (s : State) : State :=
  if accountDamaged s a then s
  else
    let s := setLed (fun l => { l with accounts := Tab.upd l.accounts a {} (fun p => { p with damaged := true }) }) s
    raiseEvent 0x0604 a false (zeros 16) (raiseWith 0x42 4 injected s)

/-- A journal entry with a beat that cannot be read is read as lost (R211). -/
def loseJournal (off : Nat) (s : State) : State :=
  setLed (fun l => { l with journal := l.journal.map (fun e =>
    if e.offset % ringBytes ≤ off && off < e.offset % ringBytes + e.len then { e with lost := true } else e) }) s

/-- A half of a local register set that cannot be read has no valid CRC (R309 of 09; log 41). -/
def loseLocal (off : Nat) (s : State) : State :=
  let half (b : Bool) (h : LocalHalf) : LocalHalf := if b then { h with good := false } else h
  setLed (fun l => { l with locals := l.locals.map (fun e =>
    if e.1 = off / 2048 then (e.1, { e.2 with a := half (off % 2048 < 1024) e.2.a, b := half (1024 ≤ off % 2048) e.2.b }) else e) }) s

/-- A copy in the configuration region that cannot be read: frontier and power-down copies, and likewise the energy record and the trace
tails, are copies with an invalid CRC (R209, R211; log 41). -/
def loseConfig (addr : Nat) (s : State) : State :=
  let off := addr - 0x30000000
  if off < 0x40 then setLed (fun l => { l with recordA := { l.recordA with valid := false } }) s
  else if off < 0x80 then setLed (fun l => { l with recordB := { l.recordB with valid := false } }) s
  else if off < 0xC0 then { s with pwr := { s.pwr with recordA := { s.pwr.recordA with valid := false } } }
  else if off < 0x100 then { s with pwr := { s.pwr with recordB := { s.pwr.recordB with valid := false } } }
  else if 0x1000 ≤ off && off < 0x5000 then { s with pwr := { s.pwr with energyRecord := { s.pwr.energyRecord with valid := false } } }
  else if 0x10000 ≤ off && off < 0x30000 then
    { s with svc := { s.svc with tails := modAt s.svc.tails (off / 0x10000 - 1) (fun _ => none) } }
  else if 0x100000 ≤ off && off < 0x110000 then loseLocal (off - 0x100000) s
  else s

/-- A ledger-store read finds an error (R210, R211, R223). -/
def lstoreError (addr : Nat) (uncorrectable injected : Bool) (s : State) : State :=
  let row := lstoreRow addr
  let s := { s with mem := { s.mem with
    lstoreCorrected := if uncorrectable then s.mem.lstoreCorrected else (s.mem.lstoreCorrected + 1) % 2 ^ 32
    lstoreUncorrected := if uncorrectable then (s.mem.lstoreUncorrected + 1) % 2 ^ 32 else s.mem.lstoreUncorrected } }
  let s := raiseEvent 0x0402 row true (le 1 uncorrectable.toNat ++ zeros 3 ++ le 4 addr ++
    le 4 (if row = 0 then addr / 512 else 0xFFFFFFFF) ++ zeros 4) s
  if !uncorrectable then reportWith 0x43 2 injected s
  else if row = 0 then damageAccount (addr / 512) injected s
  else if row = 1 then loseJournal (addr - 0x20000000) s
  else if row = 2 then loseConfig addr s
  else s

/-- LSTORE_READ_ERROR (R211): an injection on this address makes the error its own kind (R545 of 16). -/
def execLstoreReadError (addr : Nat) (uncorrectable : Bool) (s : State) : Result :=
  .next (if !s.pwr.vigilOn || 2 ^ 30 ≤ addr then s
  else
    match takeInjection 3 (fun i => i.addr / 64 == addr / 64) s with
    | (some i, s) => lstoreError addr (i.mode == 1) true s
    | (none, s) => lstoreError addr uncorrectable false s)

end Sys2Proof.Machine
end

