-- ==== Sys2Proof/Machine/Tick.lean ====
section
/-!
DEFINITION. The start of a tick: its label, its kind, the round-start actions, generations, the tick's own work; the field link's
frames; the commit. Chapters 01 (R12 to R24, R621, R622), 04 (R85 to R100) and 14 (R473) of the spec.
-/

namespace Sys2Proof.Machine

/-! ## Generations (R13, R16, R17, R621, R622) -/

/-- The members of a pending generation's group: itself alone where it names none (R621). -/
def genGroup (s : State) (g : PendingGen) : List PendingGen :=
  if g.groupId = 0 then [g] else s.gens.waiting.filter (fun x => x.groupId == g.groupId && x.tick == g.tick)

/-- A group with a round-bound member takes the boundary of that member (R14, R622). -/
def groupRoundBound (l : List PendingGen) : Bool := l.any (fun g => g.table.roundBound)

/-- A group of field configuration only, which activates in Vigil too (R17). -/
def groupField (l : List PendingGen) : Bool := l.all (fun g => g.table.fieldConfig)

/-- Puts a table into use. -/
def applyGen (s : State) (g : PendingGen) : State :=
  match g.table with
  | .workload ws => applyWorkload g ws s
  | .param b data => applyParam b data s
  | .civil t => applyCivil g t s
  | .tariff t => applyTariff g t s
  | .calib r => applyCalib g r s
  | .txPlan permits => applyTxPlan g permits s
  | .plcProfile i p => applyPlcProfile i p s
  | .rfNet b c => applyRfNet b c s
  | .balModel m => applyBalModel g m s
  | .rules i r => applyRules i r s
  | .chgPoint k c => applyChgPoint k c s
  | .chgPath p c => applyChgPath p c s
  | .chgBus b c => applyChgBus b c s
  | .lsConfig k c => applyLsConfig k c s
  | .safInput j c => applySafInput j c s

/-- A group is whole: as many arms as each of them says (R621). -/
def groupWhole (l : List PendingGen) : Bool := l.all (fun g => g.groupId == 0 || g.groupMembers == l.length)

/-- The cause GENERATION_DISCARDED gives: 2 for differing sizes, 1 for too few members. For too many none is listed, a free value
(R621; log 12: use 71). -/
def discardCause (l : List PendingGen) (s : State) : Nat × State :=
  let size := (l.head?.map (·.groupMembers)).getD 0
  if l.any (fun g => g.groupMembers != size) then (2, s)
  else if l.length < size then (1, s)
  else draw 71 256 s

/-- Discards one member of an incomplete group (R621). -/
def discardGen (cause : Nat) (s : State) (g : PendingGen) : State :=
  let s := raiseEvent 0x0106 g.groupId false (le 2 g.opcode ++ le 1 cause ++ le 1 g.groupMembers ++ zeros 4 ++ le 8 g.tick) s
  (g.ref.toList ++ g.refs).foldl (fun s r => complete r stNotReady 0 [] s) s

/-- A group reaches its activation: all its members activate, or none (R13, R621). -/
def activateGroup (l : List PendingGen) (s : State) : State :=
  let s := { s with gens := { s.gens with waiting := s.gens.waiting.filter (fun x => !l.contains x) } }
  if groupWhole l then l.foldl (fun s g => applyGen (keepTable g.table s) g) s
  else
    let c := discardCause l s
    l.foldl (discardGen c.1) c.2

/-- The pending generation with the earliest activation tick that has come and whose group may activate now. -/
def dueGen (may : List PendingGen → Bool) (s : State) : Option PendingGen :=
  (s.gens.waiting.filter (fun g => g.tick ≤ now s && may (genGroup s g))).foldl (fun best g => match best with
    | some b => if g.tick < b.tick then some g else some b
    | none => some g) none

/-- Activates what is due, in the order of the activation ticks (R17). -/
def activateDue (may : List PendingGen → Bool) : Nat → State → State
  | 0, s => s
  | n + 1, s =>
    match dueGen may s with
    | none => s
    | some g => activateDue may n (activateGroup (genGroup s g) s)

/-- The tick is opened for the data path (R26, R70 of 03). -/
def dataOpen (s : State) : Bool := dataPathUp s && !s.yrw.stopped

/-- The data path runs in Full or Lean, or starts towards one of them: its first tick is that after the return (R17; R75 of 03). -/
def returned (s : State) : Bool :=
  s.pwr.mode == .full || s.pwr.mode == .lean ||
    (s.pwr.mode == .starting && dataOpen s && (effective s == .full || effective s == .lean))

/-- Generations that are not round-bound: in Full and Lean on their tick or after it, in Vigil field configuration only, and none whose
tick passed in Keep or unpowered (R16, R17). -/
def activateTick (s : State) : State :=
  let field (l : List PendingGen) : Bool :=
    s.pwr.mode == .vigil && groupField l && l.all (fun g => decide (s.time.startLabel < g.tick))
  activateDue (fun l => !groupRoundBound l && (returned s || field l)) s.gens.waiting.length s

/-- Step 1 of a round's start actions (R24, R622). -/
def activateRound (s : State) : State := activateDue groupRoundBound s.gens.waiting.length s

/-! ## The label (R85, R88, R89, R91, R108) -/

/-- The step of the tick that starts: set by the host for this tick, or waiting for this boundary. -/
def stepNow (s : State) : Int :=
  match s.time.hostSet with
  | some (n, label) => if n ≤ 1 then (label : Int) - ((now s : Int) + 1) else 0
  | none => s.time.stepDue.getD 0

/-- The time that the host has set lands in the tick that starts (R108). -/
def hostLands (s : State) : Bool := match s.time.hostSet with
  | some (n, _) => decide (n ≤ 1)
  | none => false

/-- What of a step stays to be applied later. -/
def stepTaken (t : TimeState) : TimeState :=
  match t.hostSet with
  | some (n, label) => if n ≤ 1 then { t with hostSet := none, stepDue := none } else { t with hostSet := some (n - 1, label) }
  | none => { t with stepDue := none }

/-- The trust once a step has landed; a time that the host has set leaves the clock UNTRUSTED (R87, R108). -/
def setLanded (host : Bool) (s : State) : State := evaluateTrust (if host then setTrust .untrusted s else s)

/-- A step is applied: journalled and traced with its size and the trust before and after; the demand intervals and balance windows
that it falls in take note (R88, R89, R91, R252 of 08, R334 of 10). -/
def stepApplied (d : Int) (before : Nat) (host : Bool) (s : State) : State :=
  let t := s.time.trust
  let s := setLanded host s
  let s := journal 3 (le 1 1 ++ le 1 t.code ++ le 1 s.time.trust.code ++ zeros 1 ++ leS 8 d) s
  demandStepped (balanceStep (before + 1) (now s) (traceTime s.time.trust t d s))

/-- The servo's slew of the tick that ends; without a selected source the adjustment stays as it was (R85). How much of the offset is
slewed in a tick the spec leaves open within ±100 ppm: the row carries it (DESIGN CHOICE; log 52). Where nothing is slewed, the adjustment
is 0: while a step is pending, for an offset of 1 ms or more, and for one that is ignored (R85, R87; DEDUCED, log 52). -/
def slew (ns : Int) (s : State) : State :=
  match selectedRecord s with
  | none => s
  | some x =>
    if s.time.pendingStep.isSome || 1000000 ≤ (srcOffset s x).natAbs || selectedIgnored s then
      setTime (fun t => { t with freqAdjPpb := 0 }) s
    else
      let c := clamp (-100) 100 ns
      evaluateTrust (setTime (fun t => { t with corr := t.corr + c, freqAdjPpb := 1000 * c }) s)

/-- The timebase goes on to the next label (R85 to R90). -/
def advanceTime (ns : Int) (s : State) : State :=
  let s := applyTimeConfig s
  let before := now s
  let d := stepNow s
  let host := hostLands s
  let s := setTime (fun t => { stepTaken t with
    gliris := ((before : Int) + 1 + d).toNat, uptime := t.uptime + 1, corr := t.corr + 1000000 * d }) s
  let s := slew ns (if d ≠ 0 then stepApplied d before host s else if host then setLanded true s else s)
  setTime (fun t => { t with
    tickTrust := t.trust
    holdRemaining := if t.gliris ≤ t.highest then t.highest + 1 - t.gliris else 0 }) s

/-! ## Kind of the tick (R96, R97, R100, R103) -/

/-- Two older ledger ticks are uncommitted at the start of a tick that the data path opens: the ledger freezes; after 64 ticks both are
aborted (R100). -/
def settleBacklog (s : State) : State :=
  match s.led.frozenAt with
  | some m => if m + 64 ≤ now s then backlogTimeout s else s
  | none =>
    if 2 ≤ s.led.ticks.length && dataOpen s then
      setLed (fun l => { l with frozenAt := some (now s) }) (raiseFault 0x42 1 s)
    else s

/-- The tick is a ledger tick: none during a backward-step hold, a ledger fault, a short abort list or the safe state, none while two
ledger ticks are uncommitted, and none of a standby or of an undecided module (R96, R98, R100; R549 of 16). -/
def ledgerTick (s : State) : Bool :=
  dataOpen s && (s.duty.role == .single || s.duty.role == .duty) && !s.flt.safe && s.led.frozenAt.isNone && !abortShort s &&
    decide (s.time.highest < now s) && decide (s.led.ticks.length < 2)

/-- Opens a ledger tick: what waited for the journal goes with it (R97, R98, R312 of 09). -/
def openLedger (s : State) : State :=
  let label := now s
  let first := match s.led.lastRound with
    | some r => decide (r < label / 1024)
    | none => true
  let t : OpenTick := { label := label, trust := s.time.tickTrust, firstOfRound := first, startedAt := s.time.uptime
                        unsealed := !sealClosed s 1 || !sealClosed s 2, out := s.led.journalWaiting.map (fun c => (0, c)) }
  let s := setLed (fun l => { l with
    ticks := l.ticks ++ [t], journalWaiting := [], fieldOnly := false
    lastRound := if first then some (label / 1024) else l.lastRound }) s
  noteLedgerLabel label (setTime (fun x => { x with highest := label }) s)

/-- Opens a field-only tick, or no tick at all in Vigil (R96). -/
def openFieldOnly (s : State) : State :=
  let opens := dataOpen s
  setLed (fun l => { l with
    fieldOnly := opens, fieldOnlyCount := if opens then (l.fieldOnlyCount + 1) % 2 ^ 32 else l.fieldOnlyCount }) s

/-! ## Rounds (R24) -/

/-- The measures of the round that has ended, and the TICKS trace record where enabled, in every mode that counts rounds (TIME_TICKS;
R604 of 18). -/
def closeRound (s : State) : State :=
  let s := setLed (fun l => { l with
    closeMaxPrev := l.closeMax, closeMeanPrev := if l.closeCount = 0 then 0 else l.closeSum / l.closeCount
    closeMax := 0, closeSum := 0, closeCount := 0 }) s
  if s.svc.enable.testBit 2 then traceWrite 7 0 (slice (timeTicksBytes s) 24 24) s else s

/-- The measures of R192, in the order of YRW_LOAD. -/
def loadMeasures (l : List Nat) : LoadMeasures := {
  floretOccupancy := l.getD 0 0, dramUtilisation := l.getD 1 0, folsetBusy := l.getD 2 0, tickDispatchNs := l.getD 3 0
  criticalDispatchNs := l.getD 4 0, dramReadNs := l.getD 5 0, mailboxMedianUs := l.getD 6 0, slackP1Us := l.getD 7 0
  streamMbps := l.getD 8 0 }

/-- The actions of a round's first ledger tick, in order: generations, allocation with spares and roll, the balance kernel's task.
LEDGER_ACCOUNT posts the session debits (R24, R168, R188, R189, R332). -/
def roundActions (load : List Nat) (s : State) : State :=
  let s := activateRound s
  let s := setYrw (fun y => { y with load := loadMeasures load }) s
  releaseRound unitsOf (now s) (rollRound (allocateRound (restoreSpares (applySpares s))))

/-! ## The tick -/

/-- What is measured at a tick start (R79 of 03). -/
def takeReadings (i : TickInputs) (s : State) : State :=
  setPwr (fun p => { p with
    mainDv := i.mainDv, battDv := i.battDv, vbusDv := i.vbusDv, inputDw := i.inputDw, keepReserveMv := i.keepReserveMv }) s

/-- Folset's heartbeat counts each millisecond that Folset runs (R114 of 05). -/
def beat (s : State) : State :=
  if s.fol.ready && !s.fol.restarting && s.svc.phase != .switched then
    { s with host := { s.host with heartbeat := (s.host.heartbeat + 1) % 2 ^ 32 } }
  else s

/-- The tick before has ended: overruns and peaks; a reload of Yarrow's tables, which takes at most 1 ms, is over (R205 of 07); while the data path ran and no step comes, it has staged this tick's pages (R98,
R170, R179). -/
def endTick (s : State) : State :=
  let s := closeTickCycles (countOverruns (setYrw (fun y => { y with reloading := false }) s))
  if dataOpen s && stepNow s == 0 then stagePages unitsOf (now s + 1) s else setYrw (fun y => { y with staged := [] }) s

/-- What takes effect at any tick boundary, in every mode (R62 of 03, R142 of 05, R513 of 15, R540 and R554 of 16, R588 of 17). -/
def boundaryActions (s : State) : State :=
  let s := { s with fio := { s.fio with downlinked := false, downlinkInjected := false }
                    chg := { s.chg with skipped := false, allotted := [] } }
  let s := applyClear (endFault 0x02 s)
  let s := setDuty (fun d => { d with coupled := d.role == .duty && d.sync == .inSync && !d.alone && !d.singleNext }) s
  let s := match s.pwr.vigilEntryBy with
    | some t => if t ≤ s.time.uptime || s.led.ticks.isEmpty then finishVigil s else s
    | none => s
  let s := vaultBoundary (now s) (linksTick (leanChange s))
  ((List.range 8).drop 1).foldl (fun s c => settleReceived c s) s

/-- The data path's own work of a tick: bridges, meters, radio, campaigns, balance; then its tasks are released (R18, R20, R166). -/
def dataTick (i : TickInputs) (ledger : Bool) (s : State) : State :=
  if !dataOpen s then dropConnecting s
  else
    let s := campaignsTick (radioTick (plcRound (metersTick (stemTick s))))
    releaseTick unitsOf (now s) ledger (balanceTick (localCrossings i.crossings i.frequencies s))

/-- GL-F's work of a tick: window n−1 is latched and counted, the rings are swept, the Green PHY front-ends hand over their samples, field
commands take effect (R18, R20; R441 of 13). -/
def glfTick (i : TickInputs) (ledger newRound : Bool) (s : State) : State :=
  let s := frontEndTick i.gphy (ringsTick (meterTick i s))
  evalOutputs (chargeTick ledger (idTick (fieldTick i.field24Dv i.field24Da newRound s)))

/-- The tick's place in the billing intervals and in the record of Gliris times, once the tables are in force (R293 of 09). -/
def tariffTick (s : State) : State := if dataOpen s then recordTime (now s) (billingStep s) else s

/-- Opens the tick: its round's actions where it takes them, the generations that activate at it, and then the run-ahead work, which
becomes its own or is discarded, so that every unit of the tick sees the tables after the switch and the debits come last (R13, R24, R96,
R105). -/
def openTickNow (i : TickInputs) (s : State) : State :=
  let s := settleBacklog s
  if ledgerTick s then
    let s := openLedger s
    let s := if (s.led.ticks.getLast?.map (·.firstOfRound)).getD false then roundActions i.load s else s
    takeoverActions (settleAhead runKernel (now s) true false (tariffTick (activateTick s)))
  else settleAhead runKernel (now s) false false (tariffTick (activateTick (openFieldOnly s)))

/-- A tick start. -/
def tickStart (i : TickInputs) (s : State) : State :=
  let s := endTick s
  let round := now s / 1024
  let s := boundaryActions (beat (takeReadings i (advanceTime i.slewedNs s)))
  let newRound := decide (now s / 1024 ≠ round)
  let s := openTickNow i (if newRound then closeRound s else s)
  let ledger := currentLedgerTick s |>.any (fun t => t.label == now s)
  let s := glfTick i ledger newRound (dataTick i ledger s)
  let s := thermalCheck i.tempC i.tempF (wiltAll s)
  if s.led.fieldOnly && (s.duty.role == .standby || s.duty.role == .undecided) then startComplete s else s

/-- TICK_START (R95): tick generation runs in every mode except Keep. The stream port goes on with what waited (R140 to R142 of 05). -/
def execTickStart (inputs : TickInputs) (s : State) : Result :=
  .next (if s.pwr.vigilOn then streamUpkeep (tickStart inputs s) else s)

/-- TICK_COMMIT (R99, R101): the first commit completes a start, the last one an entry into Vigil (R62, R63 of 03). -/
def execTickCommit (s : State) : Result :=
  .next (if s.pwr.vigilOn && commitReady s then
    let s := startComplete (commitOldest s)
    if enteringVigil s && s.led.ticks.isEmpty then finishVigil s else s
  else s)

/-! ## The field link (R20, R21, R473, R545) -/

/-- GL-F runs its images and is powered (R25 of 01, R602 of 18). -/
def glfRuns (s : State) : Bool := s.pwr.fieldOn && s.svc.phase != .glf

/-- UPLINK_FRAME (R20). -/
def execUplinkFrame (s : State) : Result := .next (if glfRuns s then uplinkMetrology s else s)

/-- HEADROOM or ALLOT of the current tick has not finished, or one of its invocations was skipped (R21, R458 of 13). -/
def limitsStale (s : State) : Bool :=
  s.chg.skipped || s.yrw.tasks.any (fun t => t.label == now s && (t.work.kernel == 0x0501 || t.work.kernel == 0x0502) && !t.done)

/-- A valid downlink frame reaches GL-F (R20, R21); in Vigil it carries output states only (R473). -/
def takeDownlink (s : State) : State :=
  let s := { s with fio := { s.fio with downlinked := true } }
  let s := if dataPathUp s then (if limitsStale s then staleTick s else freshTick s) else s
  endFault 0x03 (latchDownlink s)

/-- DOWNLINK_FRAME. An injected check error discards a frame; its repeat is good unless a second error is pending, and then no valid
frame reaches GL-F in this tick (R545; log 41). -/
def execDownlinkFrame (s : State) : Result :=
  .next (if !glfRuns s then s
  else
    let a := takeInjection 4 (fun _ => true) s
    let b := takeInjection 4 (fun _ => true) a.2
    match a.1, b.1 with
    | none, _ => takeDownlink s
    | some _, none => takeDownlink a.2
    | some _, some _ => { b.2 with fio := { b.2.fio with downlinkInjected := true } })

/-- DOWNLINK_DEADLINE_MISS (R21): GL-F raises a class-A fault on its own. -/
def execDownlinkDeadlineMiss (s : State) : Result :=
  .next (if glfRuns s && !s.fio.downlinked then raiseAWith 0x03 1 s.fio.downlinkInjected s else s)

end Sys2Proof.Machine
end

