-- ==== Sys2Proof/Machine/Dispatch.lean ====
section
/-!
DEFINITION. The meaning of each command: one arm for each constructor, each one direct call.
-/

namespace Sys2Proof.Machine

def exec (i : Instr) (s : State) : Host.Outcome State Fault Refusal :=
  match i with
  | .sysIdentify rq => Sys2Proof.Machine.execSysIdentify rq s
  | .sysSessionOpen rq => Sys2Proof.Machine.execSysSessionOpen rq s
  | .sysSessionAuth rq => Sys2Proof.Machine.execSysSessionAuth rq s
  | .sysSessionClose rq => Sys2Proof.Machine.execSysSessionClose rq s
  | .sysStreamConfig rq => Sys2Proof.Machine.execSysStreamConfig rq s
  | .sysLifecycle rq => Sys2Proof.Machine.execSysLifecycle rq s
  | .sysPowerMode rq => Sys2Proof.Machine.execSysPowerMode rq s
  | .sysPowerStatus rq => Sys2Proof.Machine.execSysPowerStatus rq s
  | .timeStatus rq => Sys2Proof.Machine.execTimeStatus rq s
  | .timeConfig rq => Sys2Proof.Machine.execTimeConfig rq s
  | .timeStep rq => Sys2Proof.Machine.execTimeStep rq s
  | .timeCivil rq => Sys2Proof.Machine.execTimeCivil rq s
  | .timeTicks rq => Sys2Proof.Machine.execTimeTicks rq s
  | .yrwStatus rq => Sys2Proof.Machine.execYrwStatus rq s
  | .yrwCatalogue rq => Sys2Proof.Machine.execYrwCatalogue rq s
  | .yrwWorkloadArm rq => Sys2Proof.Machine.execYrwWorkloadArm rq s
  | .yrwParamSet rq => Sys2Proof.Machine.execYrwParamSet rq s
  | .yrwSpares rq => Sys2Proof.Machine.execYrwSpares rq s
  | .yrwUmbel rq => Sys2Proof.Machine.execYrwUmbel rq s
  | .yrwKernelRoll rq => Sys2Proof.Machine.execYrwKernelRoll rq s
  | .yrwLoad rq => Sys2Proof.Machine.execYrwLoad rq s
  | .yrwWorkloadStats rq => Sys2Proof.Machine.execYrwWorkloadStats rq s
  | .yrwWorkloadRead rq => Sys2Proof.Machine.execYrwWorkloadRead rq s
  | .memStatus rq => Sys2Proof.Machine.execMemStatus rq s
  | .memArbRead rq => Sys2Proof.Machine.execMemArbRead rq s
  | .memArbSet rq => Sys2Proof.Machine.execMemArbSet rq s
  | .memArbStats rq => Sys2Proof.Machine.execMemArbStats rq s
  | .metStatus rq => Sys2Proof.Machine.execMetStatus rq s
  | .metSetRead rq => Sys2Proof.Machine.execMetSetRead rq s
  | .metChannelRead rq => Sys2Proof.Machine.execMetChannelRead rq s
  | .metRingStatus rq => Sys2Proof.Machine.execMetRingStatus rq s
  | .metCalArm rq => Sys2Proof.Machine.execMetCalArm rq s
  | .metCalCapture rq => Sys2Proof.Machine.execMetCalCapture rq s
  | .metDemandSet rq => Sys2Proof.Machine.execMetDemandSet rq s
  | .metDemandReset rq => Sys2Proof.Machine.execMetDemandReset rq s
  | .metAuditRead rq => Sys2Proof.Machine.execMetAuditRead rq s
  | .ledStatus rq => Sys2Proof.Machine.execLedStatus rq s
  | .ledAccountRead rq => Sys2Proof.Machine.execLedAccountRead rq s
  | .ledAccountSet rq => Sys2Proof.Machine.execLedAccountSet rq s
  | .ledTokenSubmit rq => Sys2Proof.Machine.execLedTokenSubmit rq s
  | .ledAdjust rq => Sys2Proof.Machine.execLedAdjust rq s
  | .ledSupply rq => Sys2Proof.Machine.execLedSupply rq s
  | .ledAccountRestore rq => Sys2Proof.Machine.execLedAccountRestore rq s
  | .ledTariffArm rq => Sys2Proof.Machine.execLedTariffArm rq s
  | .ledLocalRead rq => Sys2Proof.Machine.execLedLocalRead rq s
  | .ledJournalRead rq => Sys2Proof.Machine.execLedJournalRead rq s
  | .balStatus rq => Sys2Proof.Machine.execBalStatus rq s
  | .balModelArm rq => Sys2Proof.Machine.execBalModelArm rq s
  | .balRulesSet rq => Sys2Proof.Machine.execBalRulesSet rq s
  | .balAttribute rq => Sys2Proof.Machine.execBalAttribute rq s
  | .balNetworkRead rq => Sys2Proof.Machine.execBalNetworkRead rq s
  | .balHistoryRead rq => Sys2Proof.Machine.execBalHistoryRead rq s
  | .balSuspicionRead rq => Sys2Proof.Machine.execBalSuspicionRead rq s
  | .balSuspicionClose rq => Sys2Proof.Machine.execBalSuspicionClose rq s
  | .stemStatus rq => Sys2Proof.Machine.execStemStatus rq s
  | .stemBridgeSet rq => Sys2Proof.Machine.execStemBridgeSet rq s
  | .stemTxSet rq => Sys2Proof.Machine.execStemTxSet rq s
  | .stemBridgeRead rq => Sys2Proof.Machine.execStemBridgeRead rq s
  | .plcPollSet rq => Sys2Proof.Machine.execPlcPollSet rq s
  | .plcNetworkRead rq => Sys2Proof.Machine.execPlcNetworkRead rq s
  | .plcNodeRead rq => Sys2Proof.Machine.execPlcNodeRead rq s
  | .rfNetworkSet rq => Sys2Proof.Machine.execRfNetworkSet rq s
  | .rfNetworkRead rq => Sys2Proof.Machine.execRfNetworkRead rq s
  | .rfConnRead rq => Sys2Proof.Machine.execRfConnRead rq s
  | .mtrBind rq => Sys2Proof.Machine.execMtrBind rq s
  | .mtrRead rq => Sys2Proof.Machine.execMtrRead rq s
  | .mtrRequest rq => Sys2Proof.Machine.execMtrRequest rq s
  | .mtrFwStage rq => Sys2Proof.Machine.execMtrFwStage rq s
  | .mtrFwCampaign rq => Sys2Proof.Machine.execMtrFwCampaign rq s
  | .mtrFwStatus rq => Sys2Proof.Machine.execMtrFwStatus rq s
  | .chgStatus rq => Sys2Proof.Machine.execChgStatus rq s
  | .chgPointSet rq => Sys2Proof.Machine.execChgPointSet rq s
  | .chgPathSet rq => Sys2Proof.Machine.execChgPathSet rq s
  | .chgBusSet rq => Sys2Proof.Machine.execChgBusSet rq s
  | .chgIdSet rq => Sys2Proof.Machine.execChgIdSet rq s
  | .chgAuthorise rq => Sys2Proof.Machine.execChgAuthorise rq s
  | .chgStop rq => Sys2Proof.Machine.execChgStop rq s
  | .chgPointRead rq => Sys2Proof.Machine.execChgPointRead rq s
  | .fioLsConfig rq => Sys2Proof.Machine.execFioLsConfig rq s
  | .fioLsSet rq => Sys2Proof.Machine.execFioLsSet rq s
  | .fioLsRead rq => Sys2Proof.Machine.execFioLsRead rq s
  | .fioPanelSet rq => Sys2Proof.Machine.execFioPanelSet rq s
  | .fioPanelDraw rq => Sys2Proof.Machine.execFioPanelDraw rq s
  | .fioPanelRead rq => Sys2Proof.Machine.execFioPanelRead rq s
  | .safStatus rq => Sys2Proof.Machine.execSafStatus rq s
  | .safInputSet rq => Sys2Proof.Machine.execSafInputSet rq s
  | .safOutputSet rq => Sys2Proof.Machine.execSafOutputSet rq s
  | .vltStatus rq => Sys2Proof.Machine.execVltStatus rq s
  | .vltSlotWrite rq => Sys2Proof.Machine.execVltSlotWrite rq s
  | .vltSlotRead rq => Sys2Proof.Machine.execVltSlotRead rq s
  | .vltSlotDestroy rq => Sys2Proof.Machine.execVltSlotDestroy rq s
  | .vltCertSet rq => Sys2Proof.Machine.execVltCertSet rq s
  | .vltAttest rq => Sys2Proof.Machine.execVltAttest rq s
  | .vltEngine rq => Sys2Proof.Machine.execVltEngine rq s
  | .fltStatus rq => Sys2Proof.Machine.execFltStatus rq s
  | .fltRead rq => Sys2Proof.Machine.execFltRead rq s
  | .fltClear rq => Sys2Proof.Machine.execFltClear rq s
  | .fltSafe rq => Sys2Proof.Machine.execFltSafe rq s
  | .fltInject rq => Sys2Proof.Machine.execFltInject rq s
  | .fltTamper rq => Sys2Proof.Machine.execFltTamper rq s
  | .dutyStatus rq => Sys2Proof.Machine.execDutyStatus rq s
  | .dutyYield rq => Sys2Proof.Machine.execDutyYield rq s
  | .dutyTakeover rq => Sys2Proof.Machine.execDutyTakeover rq s
  | .dutyResync rq => Sys2Proof.Machine.execDutyResync rq s
  | .lnkStatus rq => Sys2Proof.Machine.execLnkStatus rq s
  | .lnkGrouping rq => Sys2Proof.Machine.execLnkGrouping rq s
  | .lnkPortSet rq => Sys2Proof.Machine.execLnkPortSet rq s
  | .lnkAddrSet rq => Sys2Proof.Machine.execLnkAddrSet rq s
  | .lnkMacsecSet rq => Sys2Proof.Machine.execLnkMacsecSet rq s
  | .lnkPortRead rq => Sys2Proof.Machine.execLnkPortRead rq s
  | .svcStatus rq => Sys2Proof.Machine.execSvcStatus rq s
  | .svcStage rq => Sys2Proof.Machine.execSvcStage rq s
  | .svcUpdate rq => Sys2Proof.Machine.execSvcUpdate rq s
  | .svcBank rq => Sys2Proof.Machine.execSvcBank rq s
  | .svcTraceConfig rq => Sys2Proof.Machine.execSvcTraceConfig rq s
  | .svcTraceExport rq => Sys2Proof.Machine.execSvcTraceExport rq s
  | .svcTraceMark rq => Sys2Proof.Machine.execSvcTraceMark rq s
  | .jornyHelp => Sys2Proof.Machine.execJornyHelp s
  | .jornyId => Sys2Proof.Machine.execJornyId s
  | .jornyStatus => Sys2Proof.Machine.execJornyStatus s
  | .jornyFaults source => Sys2Proof.Machine.execJornyFaults source s
  | .jornyAuth role principal => Sys2Proof.Machine.execJornyAuth role principal s
  | .jornySig signature => Sys2Proof.Machine.execJornySig signature s
  | .jornyLogout => Sys2Proof.Machine.execJornyLogout s
  | .jornyTrace count => Sys2Proof.Machine.execJornyTrace count s
  | .jornyTail slot => Sys2Proof.Machine.execJornyTail slot s
  | .jornyBank => Sys2Proof.Machine.execJornyBank s
  | .jornyBankCommit => Sys2Proof.Machine.execJornyBankCommit s
  | .jornyBankUse bankB => Sys2Proof.Machine.execJornyBankUse bankB s
  | .jornyLoad target len => Sys2Proof.Machine.execJornyLoad target len s
  | .jornyLoadBlock offset data crc => Sys2Proof.Machine.execJornyLoadBlock offset data crc s
  | .jornyLoadTimeout => Sys2Proof.Machine.execJornyLoadTimeout s
  | .jornyRestart => Sys2Proof.Machine.execJornyRestart s
  | .jornyRoleTimeout => Sys2Proof.Machine.execJornyRoleTimeout s
  | .jornyBreak => Sys2Proof.Machine.execJornyBreak s
  | .mboxRequestWrite k offset data => Sys2Proof.Machine.execMboxRequestWrite k offset data s
  | .mboxRing mask => Sys2Proof.Machine.execMboxRing mask s
  | .mboxDoneClear mask setNow => Sys2Proof.Machine.execMboxDoneClear mask setNow s
  | .intStatusClear mask setNow => Sys2Proof.Machine.execIntStatusClear mask setNow s
  | .hostErrInfoRead setNow => Sys2Proof.Machine.execHostErrInfoRead setNow s
  | .gstatFrontierRead upper => Sys2Proof.Machine.execGstatFrontierRead upper s
  | .strmTailWrite channel value => Sys2Proof.Machine.execStrmTailWrite channel value s
  | .strmDataAccess channel write => Sys2Proof.Machine.execStrmDataAccess channel write s
  | .streamFrameAccess channel frame offset len write => Sys2Proof.Machine.execStreamFrameAccess channel frame offset len write s
  | .reservedBarAccess offset wrongSize => Sys2Proof.Machine.execReservedBarAccess offset wrongSize s
  | .registerWrite offset value => Sys2Proof.Machine.execRegisterWrite offset value s
  | .pcieReset perst => Sys2Proof.Machine.execPcieReset perst s
  | .intHoldoffExpiry vector => Sys2Proof.Machine.execIntHoldoffExpiry vector s
  | .sessionIdleTimeout session => Sys2Proof.Machine.execSessionIdleTimeout session s
  | .sessionPendingTimeout session => Sys2Proof.Machine.execSessionPendingTimeout session s
  | .principalLockoutExpiry principal => Sys2Proof.Machine.execPrincipalLockoutExpiry principal s
  | .udpRequestRx peer datagram => Sys2Proof.Machine.execUdpRequestRx peer datagram s
  | .udpEventAckRx datagram => Sys2Proof.Machine.execUdpEventAckRx datagram s
  | .udpEventResend session seq => Sys2Proof.Machine.execUdpEventResend session seq s
  | .streamPageAbandon channel => Sys2Proof.Machine.execStreamPageAbandon channel s
  | .streamPageStall channel => Sys2Proof.Machine.execStreamPageStall channel s
  | .streamPushStall channel => Sys2Proof.Machine.execStreamPushStall channel s
  | .streamReceiveTimeout channel => Sys2Proof.Machine.execStreamReceiveTimeout channel s
  | .eventPlacement => Sys2Proof.Machine.execEventPlacement s
  | .folsetLockstepMismatch => Sys2Proof.Machine.execFolsetLockstepMismatch s
  | .folsetRestartComplete => Sys2Proof.Machine.execFolsetRestartComplete s
  | .modEnNFall => Sys2Proof.Machine.execModEnNFall s
  | .modEnNRise => Sys2Proof.Machine.execModEnNRise s
  | .mainLost overVoltage => Sys2Proof.Machine.execMainLost overVoltage s
  | .mainPresent => Sys2Proof.Machine.execMainPresent s
  | .mainQualified => Sys2Proof.Machine.execMainQualified s
  | .battLost overVoltage => Sys2Proof.Machine.execBattLost overVoltage s
  | .battPresent => Sys2Proof.Machine.execBattPresent s
  | .switchComplete => Sys2Proof.Machine.execSwitchComplete s
  | .mainUnstableClear => Sys2Proof.Machine.execMainUnstableClear s
  | .battPolicyDelay => Sys2Proof.Machine.execBattPolicyDelay s
  | .lowBattery => Sys2Proof.Machine.execLowBattery s
  | .powerFailDetection vbusDv offsetNs => Sys2Proof.Machine.execPowerFailDetection vbusDv offsetNs s
  | .railFailPowerDown rail step => Sys2Proof.Machine.execRailFailPowerDown rail step s
  | .keepEntryDelay => Sys2Proof.Machine.execKeepEntryDelay s
  | .wakeTime => Sys2Proof.Machine.execWakeTime s
  | .keepReserveExhausted => Sys2Proof.Machine.execKeepReserveExhausted s
  | .coldStart inputs => Sys2Proof.Machine.execColdStart inputs s
  | .railStartTimeout domain => Sys2Proof.Machine.execRailStartTimeout domain s
  | .vigilRailRetry => Sys2Proof.Machine.execVigilRailRetry s
  | .moistureHoldEnd => Sys2Proof.Machine.execMoistureHoldEnd s
  | .thermalCancel reaction => Sys2Proof.Machine.execThermalCancel reaction s
  | .ptpSyncRx port offset => Sys2Proof.Machine.execPtpSyncRx port offset s
  | .ptpAnnounceRx announce => Sys2Proof.Machine.execPtpAnnounceRx announce s
  | .announceTimeout port => Sys2Proof.Machine.execAnnounceTimeout port s
  | .ppsEdge offset => Sys2Proof.Machine.execPpsEdge offset s
  | .ppsLoss => Sys2Proof.Machine.execPpsLoss s
  | .sourceDisagreeTimeout => Sys2Proof.Machine.execSourceDisagreeTimeout s
  | .pendingStepRecompute offset => Sys2Proof.Machine.execPendingStepRecompute offset s
  | .holdoverExpiry => Sys2Proof.Machine.execHoldoverExpiry s
  | .tickStart inputs => Sys2Proof.Machine.execTickStart inputs s
  | .backlogTimeout => Sys2Proof.Machine.execBacklogTimeout s
  | .uplinkFrame => Sys2Proof.Machine.execUplinkFrame s
  | .downlinkFrame => Sys2Proof.Machine.execDownlinkFrame s
  | .downlinkDeadlineMiss => Sys2Proof.Machine.execDownlinkDeadlineMiss s
  | .tickClose closeUs => Sys2Proof.Machine.execTickClose closeUs s
  | .tickOverrun => Sys2Proof.Machine.execTickOverrun s
  | .tickCommit => Sys2Proof.Machine.execTickCommit s
  | .frontierWriteFailed => Sys2Proof.Machine.execFrontierWriteFailed s
  | .abortScrubComplete tick => Sys2Proof.Machine.execAbortScrubComplete tick s
  | .invocationDispatch floret => Sys2Proof.Machine.execInvocationDispatch floret s
  | .sliceBoundary floret us => Sys2Proof.Machine.execSliceBoundary floret us s
  | .invocationComplete floret => Sys2Proof.Machine.execInvocationComplete floret s
  | .pageFetchComplete floret => Sys2Proof.Machine.execPageFetchComplete floret s
  | .watchdogExpiry floret => Sys2Proof.Machine.execWatchdogExpiry floret s
  | .deadlineMiss workload => Sys2Proof.Machine.execDeadlineMiss workload s
  | .floretSramError floret kind => Sys2Proof.Machine.execFloretSramError floret kind s
  | .umbelHeartbeat umbel epoch seq => Sys2Proof.Machine.execUmbelHeartbeat umbel epoch seq s
  | .heartbeatLoss umbel => Sys2Proof.Machine.execHeartbeatLoss umbel s
  | .fenceDrainComplete umbel => Sys2Proof.Machine.execFenceDrainComplete umbel s
  | .umbelTestResult umbel passed => Sys2Proof.Machine.execUmbelTestResult umbel passed s
  | .staleEpochRequest umbel epoch write => Sys2Proof.Machine.execStaleEpochRequest umbel epoch write s
  | .arbiterDecision arbiter asks beats newSlot => Sys2Proof.Machine.execArbiterDecision arbiter asks beats newSlot s
  | .arbWait arbiter requester => Sys2Proof.Machine.execArbWait arbiter requester s
  | .dramEccError addr uncorrectable floret => Sys2Proof.Machine.execDramEccError addr uncorrectable floret s
  | .patrolScrubPass => Sys2Proof.Machine.execPatrolScrubPass s
  | .lstoreReadError addr uncorrectable => Sys2Proof.Machine.execLstoreReadError addr uncorrectable s
  | .accountRestoreStandby account image => Sys2Proof.Machine.execAccountRestoreStandby account image s
  | .demandBoundary set reg => Sys2Proof.Machine.execDemandBoundary set reg s
  | .coilSettled => Sys2Proof.Machine.execCoilSettled s
  | .ringRecordRx ring port frame => Sys2Proof.Machine.execRingRecordRx ring port frame s
  | .ringStatusRx ring kind hop => Sys2Proof.Machine.execRingStatusRx ring kind hop s
  | .ringLossOfSignal ring hop => Sys2Proof.Machine.execRingLossOfSignal ring hop s
  | .ringLinkRestored ring hop => Sys2Proof.Machine.execRingLinkRestored ring hop s
  | .enumerationComplete ring found breaks => Sys2Proof.Machine.execEnumerationComplete ring found breaks s
  | .recordMissing ring position => Sys2Proof.Machine.execRecordMissing ring position s
  | .satelliteUnreachable ring position => Sys2Proof.Machine.execSatelliteUnreachable ring position s
  | .tickMarkMissing ring position => Sys2Proof.Machine.execTickMarkMissing ring position s
  | .selftestStepStart group => Sys2Proof.Machine.execSelftestStepStart group s
  | .selftestPhaseEnd group agree => Sys2Proof.Machine.execSelftestPhaseEnd group agree s
  | .selftestPrimaryResult group passed => Sys2Proof.Machine.execSelftestPrimaryResult group passed s
  | .selftestSpareResult group passed => Sys2Proof.Machine.execSelftestSpareResult group passed s
  | .captureStart => Sys2Proof.Machine.execCaptureStart s
  | .captureComplete => Sys2Proof.Machine.execCaptureComplete s
  | .sealChange position closed => Sys2Proof.Machine.execSealChange position closed s
  | .windowSettleDeadline bridge window => Sys2Proof.Machine.execWindowSettleDeadline bridge window s
  | .stemPlcSamples frame => Sys2Proof.Machine.execStemPlcSamples frame s
  | .stemRfSamples frame => Sys2Proof.Machine.execStemRfSamples frame s
  | .stemLvSamples frame => Sys2Proof.Machine.execStemLvSamples frame s
  | .stemJoin port source dest frame => Sys2Proof.Machine.execStemJoin port source dest frame s
  | .stemStaleRx frame => Sys2Proof.Machine.execStemStaleRx frame s
  | .holeRepairRetry bridge stream => Sys2Proof.Machine.execHoleRepairRetry bridge stream s
  | .holeWaitExpiry bridge stream => Sys2Proof.Machine.execHoleWaitExpiry bridge stream s
  | .bridgeSilence bridge => Sys2Proof.Machine.execBridgeSilence bridge s
  | .bridgeLost bridge => Sys2Proof.Machine.execBridgeLost bridge s
  | .rekeyDue bridge => Sys2Proof.Machine.execRekeyDue bridge s
  | .keepaliveDue bridge => Sys2Proof.Machine.execKeepaliveDue bridge s
  | .plcResponseRx bridge startUs modulation snr frame => Sys2Proof.Machine.execPlcResponseRx bridge startUs modulation snr frame s
  | .plcAlertRx bridge startUs modulation snr frame => Sys2Proof.Machine.execPlcAlertRx bridge startUs modulation snr frame s
  | .plcDiscoverReplyRx bridge serial through => Sys2Proof.Machine.execPlcDiscoverReplyRx bridge serial through s
  | .plcTransactionFail bridge txid heard => Sys2Proof.Machine.execPlcTransactionFail bridge txid heard s
  | .discoverPeriod bridge => Sys2Proof.Machine.execDiscoverPeriod bridge s
  | .beaconDue bridge => Sys2Proof.Machine.execBeaconDue bridge s
  | .rfAdvertRx bridge channel endTick snr frame => Sys2Proof.Machine.execRfAdvertRx bridge channel endTick snr frame s
  | .rfConnectionEvent bridge node => Sys2Proof.Machine.execRfConnectionEvent bridge node s
  | .rfAnswerRx bridge snr frame => Sys2Proof.Machine.execRfAnswerRx bridge snr frame s
  | .rfEventMissed bridge node => Sys2Proof.Machine.execRfEventMissed bridge node s
  | .rfSupervisionExpiry bridge node => Sys2Proof.Machine.execRfSupervisionExpiry bridge node s
  | .rfAlertRx bridge snr frame => Sys2Proof.Machine.execRfAlertRx bridge snr frame s
  | .sepalReading account => Sys2Proof.Machine.execSepalReading account s
  | .sepalCreditAck account => Sys2Proof.Machine.execSepalCreditAck account s
  | .sepalEvent account => Sys2Proof.Machine.execSepalEvent account s
  | .sepalToken account => Sys2Proof.Machine.execSepalToken account s
  | .sepalEmergencyReq account => Sys2Proof.Machine.execSepalEmergencyReq account s
  | .sepalIdentity account => Sys2Proof.Machine.execSepalIdentity account s
  | .sepalKeyAck account => Sys2Proof.Machine.execSepalKeyAck account s
  | .sepalFwStatus account => Sys2Proof.Machine.execSepalFwStatus account s
  | .sepalSendGiveup account => Sys2Proof.Machine.execSepalSendGiveup account s
  | .fwCampaignActivate campaign => Sys2Proof.Machine.execFwCampaignActivate campaign s
  | .pilotChange point pilot => Sys2Proof.Machine.execPilotChange point pilot s
  | .ppChange point ohm => Sys2Proof.Machine.execPpChange point ohm s
  | .chgLinkEstablished point offered tls => Sys2Proof.Machine.execChgLinkEstablished point offered tls s
  | .chgLinkLost point => Sys2Proof.Machine.execChgLinkLost point s
  | .linkRetryEnd point => Sys2Proof.Machine.execLinkRetryEnd point s
  | .v2gMessageRx point message => Sys2Proof.Machine.execV2gMessageRx point message s
  | .authTimeout point => Sys2Proof.Machine.execAuthTimeout point s
  | .preparationComplete point => Sys2Proof.Machine.execPreparationComplete point s
  | .stoppingComplete point => Sys2Proof.Machine.execStoppingComplete point s
  | .stoppingOpenTimeout point => Sys2Proof.Machine.execStoppingOpenTimeout point s
  | .pauseContactorTimeout point => Sys2Proof.Machine.execPauseContactorTimeout point s
  | .pauseLimit point => Sys2Proof.Machine.execPauseLimit point s
  | .cardPollDwell reader => Sys2Proof.Machine.execCardPollDwell reader s
  | .cardDetected reader cards => Sys2Proof.Machine.execCardDetected reader cards s
  | .cardResponse reader payload => Sys2Proof.Machine.execCardResponse reader payload s
  | .cardTimeout reader => Sys2Proof.Machine.execCardTimeout reader s
  | .converterFeedbackRx bus identifier data => Sys2Proof.Machine.execConverterFeedbackRx bus identifier data s
  | .converterLost bus node => Sys2Proof.Machine.execConverterLost bus node s
  | .staleLimits => Sys2Proof.Machine.execStaleLimits s
  | .meteringStale point => Sys2Proof.Machine.execMeteringStale point s
  | .acOvercurrent point currentDa => Sys2Proof.Machine.execAcOvercurrent point currentDa s
  | .rcmTrip point ac value => Sys2Proof.Machine.execRcmTrip point ac value s
  | .rcmSelftestResult point passed => Sys2Proof.Machine.execRcmSelftestResult point passed s
  | .insulationValue point kohm => Sys2Proof.Machine.execInsulationValue point kohm s
  | .contactorCloseTimeout point => Sys2Proof.Machine.execContactorCloseTimeout point s
  | .contactorWelded point => Sys2Proof.Machine.execContactorWelded point s
  | .tripPilotFEnd point => Sys2Proof.Machine.execTripPilotFEnd point s
  | .outputEvaluation => Sys2Proof.Machine.execOutputEvaluation s
  | .directPinEdge pin level => Sys2Proof.Machine.execDirectPinEdge pin level s
  | .field24vUndervoltage dv da => Sys2Proof.Machine.execField24vUndervoltage dv da s
  | .field24vOvervoltage dv da => Sys2Proof.Machine.execField24vOvervoltage dv da s
  | .field24vRestored dv da => Sys2Proof.Machine.execField24vRestored dv da s
  | .field24vTotalHigh dv da => Sys2Proof.Machine.execField24vTotalHigh dv da s
  | .lsAccumulatorUpdate currents hot => Sys2Proof.Machine.execLsAccumulatorUpdate currents hot s
  | .lsShortCircuit channel => Sys2Proof.Machine.execLsShortCircuit channel s
  | .lsOverTemperature channel => Sys2Proof.Machine.execLsOverTemperature channel s
  | .lsRampTimeout channel => Sys2Proof.Machine.execLsRampTimeout channel s
  | .lsOpenLoad channel => Sys2Proof.Machine.execLsOpenLoad channel s
  | .testPulseGap source => Sys2Proof.Machine.execTestPulseGap source s
  | .testPulseOverload source => Sys2Proof.Machine.execTestPulseOverload source s
  | .testPulseRetry source => Sys2Proof.Machine.execTestPulseRetry source s
  | .safetyInputSample sub a b => Sys2Proof.Machine.execSafetyInputSample sub a b s
  | .safetyInputRelease input => Sys2Proof.Machine.execSafetyInputRelease input s
  | .safetyInputDiscrepancy input => Sys2Proof.Machine.execSafetyInputDiscrepancy input s
  | .soOffPulse output fell => Sys2Proof.Machine.execSoOffPulse output fell s
  | .soFailedOpen output => Sys2Proof.Machine.execSoFailedOpen output s
  | .soExternallyFed output => Sys2Proof.Machine.execSoExternallyFed output s
  | .soFeedCleared output => Sys2Proof.Machine.execSoFeedCleared output s
  | .panelBusyReleased panel => Sys2Proof.Machine.execPanelBusyReleased panel s
  | .panelBusyTimeout panel => Sys2Proof.Machine.execPanelBusyTimeout panel s
  | .panelRailFault panel => Sys2Proof.Machine.execPanelRailFault panel s
  | .panelDrawComplete panel => Sys2Proof.Machine.execPanelDrawComplete panel s
  | .panelOffDelay panel => Sys2Proof.Machine.execPanelOffDelay panel s
  | .tamperSample sample rtcElapsed => Sys2Proof.Machine.execTamperSample sample rtcElapsed s
  | .faultNPulseEnd => Sys2Proof.Machine.execFaultNPulseEnd s
  | .safeLineTimeout => Sys2Proof.Machine.execSafeLineTimeout s
  | .safetyComparatorMismatch => Sys2Proof.Machine.execSafetyComparatorMismatch s
  | .batonPeerLine low => Sys2Proof.Machine.execBatonPeerLine low s
  | .batonClaim => Sys2Proof.Machine.execBatonClaim s
  | .batonClaimConfirm => Sys2Proof.Machine.execBatonClaimConfirm s
  | .batonOwnLineStuck => Sys2Proof.Machine.execBatonOwnLineStuck s
  | .roleDecisionTimeout => Sys2Proof.Machine.execRoleDecisionTimeout s
  | .mirrorHello frame => Sys2Proof.Machine.execMirrorHello frame s
  | .mirrorRecord frame => Sys2Proof.Machine.execMirrorRecord frame s
  | .mirrorClose frame => Sys2Proof.Machine.execMirrorClose frame s
  | .mirrorAck frame => Sys2Proof.Machine.execMirrorAck frame s
  | .mirrorCommit frame => Sys2Proof.Machine.execMirrorCommit frame s
  | .mirrorAbort frame => Sys2Proof.Machine.execMirrorAbort frame s
  | .mirrorConfig frame => Sys2Proof.Machine.execMirrorConfig frame s
  | .mirrorCopy frame => Sys2Proof.Machine.execMirrorCopy frame s
  | .mirrorDecoupled frame => Sys2Proof.Machine.execMirrorDecoupled frame s
  | .mirrorYield frame => Sys2Proof.Machine.execMirrorYield frame s
  | .mirrorAckTimeout => Sys2Proof.Machine.execMirrorAckTimeout s
  | .mirrorSilence => Sys2Proof.Machine.execMirrorSilence s
  | .resyncComplete tick => Sys2Proof.Machine.execResyncComplete tick s
  | .yieldTimeout => Sys2Proof.Machine.execYieldTimeout s
  | .keyRequest cls engine handle => Sys2Proof.Machine.execKeyRequest cls engine handle s
  | .cryptoRequest cls engine critical => Sys2Proof.Machine.execCryptoRequest cls engine critical s
  | .engineSelftestStart cls engine => Sys2Proof.Machine.execEngineSelftestStart cls engine s
  | .engineSelftestResult cls engine passed => Sys2Proof.Machine.execEngineSelftestResult cls engine passed s
  | .ethernetFrameRx port frame => Sys2Proof.Machine.execEthernetFrameRx port frame s
  | .portLinkUp port => Sys2Proof.Machine.execPortLinkUp port s
  | .portLinkFault port => Sys2Proof.Machine.execPortLinkFault port s
  | .portTrainingTimeout port => Sys2Proof.Machine.execPortTrainingTimeout port s
  | .portHoldExpiry port => Sys2Proof.Machine.execPortHoldExpiry port s
  | .fecRatioCheck port errors symbols corrected uncorrected => Sys2Proof.Machine.execFecRatioCheck port errors symbols corrected uncorrected s
  | .lane0VigilTimeout => Sys2Proof.Machine.execLane0VigilTimeout s
  | .ptpHoldExpiry => Sys2Proof.Machine.execPtpHoldExpiry s
  | .neighbourRefresh port address => Sys2Proof.Machine.execNeighbourRefresh port address s
  | .updateQuiesceTimeout => Sys2Proof.Machine.execUpdateQuiesceTimeout s
  | .folsetUpdateReady => Sys2Proof.Machine.execFolsetUpdateReady s
  | .folsetSwitchTimeout => Sys2Proof.Machine.execFolsetSwitchTimeout s
  | .probationEnd => Sys2Proof.Machine.execProbationEnd s
  | .glfSwitchComplete passed => Sys2Proof.Machine.execGlfSwitchComplete passed s
  | .traceFreeze => Sys2Proof.Machine.execTraceFreeze s
  | .stemStatusFrame frame => Sys2Proof.Machine.execStemStatusFrame frame s
  | .mtrRequestTimeout account => Sys2Proof.Machine.execMtrRequestTimeout account s
  | .pciePerstRelease => Sys2Proof.Machine.execPciePerstRelease s
  | .vigilExitComplete => Sys2Proof.Machine.execVigilExitComplete s
  | .folsetSramError record => Sys2Proof.Machine.execFolsetSramError record s

end Sys2Proof.Machine
end

