-- ==== Sys2Proof/Safety.lean ====
section
/-!
DEFINITION. What the statements about the block speak of: its parts and which of them a command may change, the invariant, and
when a request is served and what its mailbox then reports.
-/

namespace Sys2Proof.Machine

/-- From `s` to `t` only the parts change whose bit the mask `m` has: every other part of the block is as it was. -/
def Frame (m : Nat) (s t : State) : Prop :=
  t = State.mk t.pending
    (bif m.testBit 0 then t.draws else s.draws) (bif m.testBit 1 then t.host else s.host)
    (bif m.testBit 2 then t.fol else s.fol) (bif m.testBit 3 then t.pwr else s.pwr)
    (bif m.testBit 4 then t.time else s.time) (bif m.testBit 5 then t.led else s.led)
    (bif m.testBit 6 then t.gens else s.gens) (bif m.testBit 7 then t.yrw else s.yrw)
    (bif m.testBit 8 then t.mem else s.mem) (bif m.testBit 9 then t.met else s.met)
    (bif m.testBit 10 then t.seals else s.seals) (bif m.testBit 11 then t.flt else s.flt)
    (bif m.testBit 12 then t.duty else s.duty) (bif m.testBit 13 then t.svc else s.svc)
    (bif m.testBit 14 then t.vlt else s.vlt) (bif m.testBit 15 then t.stem else s.stem)
    (bif m.testBit 16 then t.mtr else s.mtr) (bif m.testBit 17 then t.bal else s.bal)
    (bif m.testBit 18 then t.fio else s.fio) (bif m.testBit 19 then t.chg else s.chg)
    (bif m.testBit 20 then t.lnk else s.lnk)

/-- The parts of the block's state, in the order of `State`'s fields. -/
inductive Part
  | draws | host | fol | pwr | time | led | gens | yrw | mem | met | seals | flt | duty | svc | vlt | stem | mtr | bal
  | fio | chg | lnk
  deriving DecidableEq, Repr

/-- A part's bit in a `Frame` mask. -/
def Part.bit : Part → Nat
  | .draws => 0x1 | .host => 0x2 | .fol => 0x4 | .pwr => 0x8 | .time => 0x10 | .led => 0x20 | .gens => 0x40
  | .yrw => 0x80 | .mem => 0x100 | .met => 0x200 | .seals => 0x400 | .flt => 0x800 | .duty => 0x1000 | .svc => 0x2000
  | .vlt => 0x4000 | .stem => 0x8000 | .mtr => 0x10000 | .bal => 0x20000 | .fio => 0x40000 | .chg => 0x80000 | .lnk => 0x100000

/-- The mask of a set of parts. -/
def partsMask : List Part → Nat
  | [] => 0
  | p :: ps => p.bit ||| partsMask ps

/-- What every request Folset serves may change beside its own effect: the host interface (mailboxes, causes, events), Folset's
record of it, its trace, and a free value (R118, R119, R125, R143). -/
def enveloped : List Part := [.draws, .host, .fol, .svc]

/-- The parts each command may change: every other part is as it was (`Frame`). A request's parts take in what its effect
may reach through a tick's opening, commit or abort and through the safe state, where it starts one. -/
def touches (i : Instr) : Nat :=
  match i with
  | .sysIdentify .. | .sysStreamConfig .. | .sysPowerStatus .. | .timeStatus .. | .timeTicks .. | .yrwStatus ..
  | .yrwCatalogue .. | .yrwWorkloadArm .. | .yrwLoad .. | .yrwWorkloadStats .. | .yrwWorkloadRead .. | .memStatus ..
  | .memArbRead .. | .memArbStats .. | .metStatus .. | .metSetRead .. | .metChannelRead .. | .metRingStatus ..
  | .metCalArm .. | .metAuditRead .. | .ledStatus .. | .ledAccountRead .. | .ledTariffArm .. | .ledLocalRead ..
  | .ledJournalRead .. | .balStatus .. | .balModelArm .. | .balNetworkRead .. | .balHistoryRead .. | .balSuspicionRead ..
  | .stemStatus .. | .stemBridgeRead .. | .plcNetworkRead .. | .plcNodeRead .. | .rfNetworkRead .. | .rfConnRead ..
  | .mtrRead .. | .mtrFwStage .. | .mtrFwStatus .. | .chgStatus .. | .chgPointRead .. | .fioLsRead .. | .fioPanelRead ..
  | .safStatus .. | .vltStatus .. | .vltSlotRead .. | .fltStatus .. | .fltRead .. | .dutyStatus .. | .lnkStatus ..
  | .lnkPortRead .. | .svcStatus .. | .svcTraceExport .. | .svcTraceMark .. => partsMask enveloped
  | .sysSessionOpen .. | .sysSessionAuth .. | .sysLifecycle .. | .vltAttest .. | .jornySig .. | .keyRequest ..
  | .cryptoRequest .. | .engineSelftestResult .. => partsMask (enveloped ++ [.flt, .vlt])
  | .sysSessionClose .. | .fltClear .. | .fltTamper .. | .svcTraceConfig .. | .satelliteUnreachable .. | .tamperSample ..
  | .lane0VigilTimeout => partsMask (enveloped ++ [.flt])
  | .sysPowerMode .. | .mainPresent | .battLost .. | .battPresent | .switchComplete | .battPolicyDelay | .thermalCancel ..
  | .tickCommit | .lowBattery =>
      partsMask (enveloped ++ [.pwr, .time, .led, .yrw, .met, .flt, .duty, .vlt, .stem, .mtr, .bal, .fio, .chg, .lnk])
  | .timeConfig .. => partsMask (enveloped ++ [.time])
  | .timeStep .. => partsMask (enveloped ++ [.time, .led])
  | .timeCivil .. | .yrwParamSet .. | .balRulesSet .. | .plcPollSet .. | .chgPathSet .. | .chgBusSet .. | .fioLsConfig ..
  | .rfNetworkSet .. => partsMask (enveloped ++ [.gens])
  | .yrwSpares .. | .yrwKernelRoll .. => partsMask (enveloped ++ [.yrw])
  | .yrwUmbel .. | .deadlineMiss .. | .umbelHeartbeat .. | .heartbeatLoss .. | .umbelTestResult .. | .staleEpochRequest .. =>
      partsMask (enveloped ++ [.yrw, .flt])
  | .memArbSet .. | .svcStage .. | .svcBank .. => partsMask (enveloped ++ [.mem])
  | .metCalCapture .. | .metDemandSet .. | .metDemandReset .. => partsMask (enveloped ++ [.met])
  | .ledAccountSet .. | .ledAdjust .. | .ledSupply .. | .ledAccountRestore .. | .eventPlacement =>
      partsMask (enveloped ++ [.led])
  | .ledTokenSubmit .. => partsMask (enveloped ++ [.led, .flt, .vlt])
  | .balAttribute .. | .balSuspicionClose .. => partsMask (enveloped ++ [.bal])
  | .stemBridgeSet .. | .holeRepairRetry .. | .rekeyDue .. | .keepaliveDue .. => partsMask (enveloped ++ [.flt, .vlt, .stem])
  | .stemTxSet .. => partsMask (enveloped ++ [.gens, .flt, .vlt, .stem])
  | .mtrBind .. | .mtrRequest .. | .mtrFwCampaign .. => partsMask (enveloped ++ [.mtr])
  | .chgPointSet .. => partsMask (enveloped ++ [.led, .gens, .flt, .vlt, .fio, .chg])
  | .chgIdSet .. => partsMask (enveloped ++ [.chg])
  | .chgAuthorise .. | .chgStop .. => partsMask (enveloped ++ [.led, .vlt, .fio, .chg])
  | .fioLsSet .. | .fioPanelSet .. | .fioPanelDraw .. => partsMask (enveloped ++ [.fio])
  | .safInputSet .. => partsMask (enveloped ++ [.gens, .fio])
  | .safOutputSet .. => partsMask (enveloped ++ [.flt, .fio])
  | .vltSlotWrite .. | .vltSlotDestroy .. | .vltCertSet .. | .vltEngine .. => partsMask (enveloped ++ [.vlt])
  | .fltSafe .. | .downlinkDeadlineMiss | .stemStaleRx .. | .safeLineTimeout | .batonOwnLineStuck | .mirrorHello ..
  | .mirrorClose .. | .mirrorAck .. | .mirrorCommit .. | .mirrorAbort .. | .mirrorDecoupled .. | .mirrorYield ..
  | .dutyYield .. | .batonPeerLine .. | .safetyComparatorMismatch =>
      partsMask (enveloped ++ [.pwr, .led, .yrw, .met, .flt, .duty, .vlt, .stem, .mtr, .bal, .fio, .chg])
  | .fltInject .. =>
      partsMask (enveloped ++ [.pwr, .led, .yrw, .mem, .met, .flt, .duty, .vlt, .stem, .mtr, .bal, .fio, .chg])
  | .dutyTakeover .. => partsMask (enveloped ++ [.duty])
  | .dutyResync .. => partsMask (enveloped ++ [.led, .duty])
  | .lnkGrouping .. | .lnkAddrSet .. | .lnkMacsecSet .. => partsMask (enveloped ++ [.lnk])
  | .lnkPortSet .. | .portLinkUp .. | .portLinkFault .. | .portHoldExpiry .. =>
      partsMask (enveloped ++ [.time, .led, .flt, .lnk])
  | .svcUpdate .. | .jornyRestart | .folsetLockstepMismatch | .folsetSwitchTimeout | .folsetSramError .. =>
      partsMask (enveloped ++ [.led, .yrw, .mem, .met, .flt, .duty, .vlt, .mtr, .fio, .chg])
  | .jornyHelp | .jornyId | .jornyStatus | .jornyFaults .. | .jornyAuth .. | .jornyLogout | .jornyTrace .. | .jornyTail ..
  | .jornyBank => partsMask [.draws, .svc]
  | .jornyBankCommit | .jornyBankUse .. | .probationEnd => partsMask [.draws, .fol, .mem, .svc]
  | .jornyLoad .. | .jornyLoadTimeout => partsMask [.draws, .mem, .svc]
  | .jornyLoadBlock .. => partsMask (enveloped ++ [.mem, .flt])
  | .jornyRoleTimeout => partsMask [.svc]
  | .jornyBreak | .railStartTimeout .. =>
      partsMask (enveloped ++ [.pwr, .time, .led, .yrw, .met, .flt, .vlt, .stem, .fio, .chg, .lnk])
  | .mboxRequestWrite .. | .mboxDoneClear .. | .intStatusClear .. | .hostErrInfoRead .. | .gstatFrontierRead ..
  | .reservedBarAccess .. | .intHoldoffExpiry .. | .streamPageStall .. => partsMask [.host]
  | .pciePerstRelease => partsMask [.host, .pwr]
  | .mboxRing .. | .registerWrite .. | .udpRequestRx .. | .tickStart .. | .ethernetFrameRx .. | .updateQuiesceTimeout
  | .folsetUpdateReady =>
      partsMask (enveloped ++ [.pwr, .time, .led, .gens, .yrw, .mem, .met, .flt, .duty, .vlt, .stem, .mtr, .bal, .fio,
        .chg, .lnk])
  | .strmTailWrite .. | .strmDataAccess .. => partsMask (enveloped ++ [.led, .gens, .mem, .met, .flt, .vlt, .mtr, .fio])
  | .streamFrameAccess .. => partsMask [.draws, .host]
  | .pcieReset .. => partsMask [.host, .fol, .pwr, .vlt]
  | .sessionIdleTimeout .. | .sessionPendingTimeout .. | .udpEventResend .. => partsMask [.host, .fol, .flt]
  | .principalLockoutExpiry .. => partsMask [.fol, .flt]
  | .udpEventAckRx .. => partsMask [.fol, .vlt]
  | .streamPageAbandon .. | .streamPushStall .. => partsMask [.host, .fol]
  | .streamReceiveTimeout .. => partsMask [.host, .fol, .led, .mem, .svc]
  | .folsetRestartComplete =>
      partsMask (enveloped ++ [.pwr, .time, .led, .gens, .yrw, .mem, .met, .seals, .flt, .duty, .vlt, .stem, .mtr,
        .bal, .fio, .chg, .lnk])
  | .modEnNFall | .railFailPowerDown .. | .wakeTime => partsMask [.pwr]
  | .modEnNRise | .powerFailDetection .. | .keepEntryDelay =>
      partsMask (enveloped ++ [.pwr, .time, .led, .yrw, .mem, .met, .flt, .duty, .vlt, .stem, .mtr, .bal, .fio, .chg,
        .lnk])
  | .mainLost .. => partsMask (enveloped ++ [.pwr, .flt])
  | .mainQualified => partsMask [.draws, .host, .pwr, .svc]
  | .mainUnstableClear => partsMask [.fol, .pwr, .flt]
  | .keepReserveExhausted => partsMask [.pwr, .time, .flt]
  | .coldStart .. | .vigilRailRetry =>
      partsMask (enveloped ++ [.pwr, .time, .led, .gens, .yrw, .mem, .met, .seals, .flt, .duty, .vlt, .stem, .mtr,
        .fio, .chg, .lnk])
  | .moistureHoldEnd =>
      partsMask (enveloped ++ [.pwr, .time, .led, .yrw, .met, .seals, .flt, .duty, .vlt, .stem, .mtr, .fio, .chg,
        .lnk])
  | .ptpSyncRx .. | .ptpAnnounceRx .. | .announceTimeout .. | .ppsEdge .. | .ppsLoss | .ptpHoldExpiry =>
      partsMask (enveloped ++ [.time, .led, .flt])
  | .sourceDisagreeTimeout => partsMask (enveloped ++ [.time, .flt])
  | .pendingStepRecompute .. => partsMask [.draws, .host, .fol, .time]
  | .holdoverExpiry => partsMask [.draws, .host, .time, .led, .svc]
  | .backlogTimeout | .frontierWriteFailed => partsMask (enveloped ++ [.led, .yrw, .flt, .duty, .mtr])
  | .uplinkFrame | .coilSettled | .tickMarkMissing .. | .selftestStepStart .. | .captureStart => partsMask [.met]
  | .downlinkFrame => partsMask [.fol, .flt, .vlt, .fio, .chg]
  | .tickClose .. => partsMask [.led, .duty]
  | .tickOverrun => partsMask [.led, .yrw]
  | .abortScrubComplete .. => partsMask [.fol, .led, .flt]
  | .invocationDispatch .. => partsMask (enveloped ++ [.pwr, .yrw, .flt])
  | .sliceBoundary .. => partsMask [.fol, .pwr, .led, .yrw, .mem]
  | .pageFetchComplete .. => partsMask [.pwr, .yrw]
  | .invocationComplete .. =>
      partsMask (enveloped ++ [.pwr, .time, .led, .yrw, .mem, .met, .flt, .duty, .vlt, .stem, .mtr, .bal, .chg])
  | .watchdogExpiry .. | .floretSramError .. => partsMask (enveloped ++ [.led, .yrw, .mem, .flt, .chg])
  | .fenceDrainComplete .. => partsMask [.fol, .led, .yrw, .mem]
  | .arbiterDecision .. | .patrolScrubPass => partsMask [.mem]
  | .arbWait .. => partsMask [.fol, .mem]
  | .dramEccError .. => partsMask (enveloped ++ [.led, .yrw, .mem, .flt, .duty, .stem, .mtr, .bal, .chg])
  | .lstoreReadError .. => partsMask (enveloped ++ [.pwr, .led, .mem, .flt])
  | .accountRestoreStandby .. => partsMask [.led]
  | .demandBoundary .. | .ringLinkRestored .. | .selftestPhaseEnd .. => partsMask [.fol, .met]
  | .ringRecordRx .. | .ringStatusRx .. | .ringLossOfSignal .. | .recordMissing .. | .selftestSpareResult .. =>
      partsMask (enveloped ++ [.met, .flt])
  | .enumerationComplete .. | .selftestPrimaryResult .. => partsMask (enveloped ++ [.led, .met, .flt])
  | .captureComplete => partsMask [.draws, .host, .fol, .met]
  | .sealChange .. => partsMask (enveloped ++ [.led, .gens, .met, .seals, .flt, .duty, .vlt, .fio, .chg])
  | .windowSettleDeadline .. => partsMask (enveloped ++ [.flt, .bal])
  | .stemPlcSamples .. | .stemLvSamples .. | .stemJoin .. | .stemStatusFrame .. =>
      partsMask (enveloped ++ [.flt, .duty, .vlt, .stem])
  | .stemRfSamples .. => partsMask (enveloped ++ [.flt, .duty, .vlt, .stem, .mtr])
  | .holeWaitExpiry .. | .plcTransactionFail .. | .discoverPeriod .. => partsMask [.stem]
  | .bridgeSilence .. | .bridgeLost .. | .plcDiscoverReplyRx .. => partsMask [.fol, .stem]
  | .plcResponseRx .. | .beaconDue .. | .rfAdvertRx .. | .rfConnectionEvent .. =>
      partsMask (enveloped ++ [.flt, .vlt, .stem, .mtr])
  | .plcAlertRx .. => partsMask (enveloped ++ [.led, .flt, .vlt, .stem, .mtr])
  | .rfAnswerRx .. => partsMask (enveloped ++ [.flt, .vlt, .mtr])
  | .rfEventMissed .. | .rfSupervisionExpiry .. | .sepalKeyAck .. | .sepalFwStatus .. | .fwCampaignActivate ..
  | .mtrRequestTimeout .. => partsMask [.fol, .mtr]
  | .rfAlertRx .. | .sepalToken .. => partsMask (enveloped ++ [.led, .flt, .vlt, .mtr])
  | .sepalReading .. => partsMask [.fol, .led, .mtr, .bal]
  | .sepalCreditAck .. => partsMask [.mtr]
  | .sepalEvent .. => partsMask [.fol, .led, .mtr]
  | .sepalEmergencyReq .. => partsMask [.led, .mtr]
  | .sepalIdentity .. | .sepalSendGiveup .. => partsMask (enveloped ++ [.flt, .stem, .mtr])
  | .pilotChange .. | .ppChange .. | .converterFeedbackRx .. | .converterLost .. | .staleLimits | .acOvercurrent ..
  | .rcmTrip .. | .rcmSelftestResult .. | .insulationValue .. | .contactorCloseTimeout .. | .contactorWelded ..
  | .field24vUndervoltage .. | .field24vOvervoltage .. | .field24vTotalHigh .. | .lsAccumulatorUpdate ..
  | .lsShortCircuit .. | .lsOverTemperature .. | .lsRampTimeout .. | .testPulseOverload .. | .safetyInputSample ..
  | .safetyInputRelease .. | .safetyInputDiscrepancy .. | .soOffPulse .. | .soFailedOpen .. | .soExternallyFed ..
  | .v2gMessageRx .. | .cardResponse .. => partsMask (enveloped ++ [.led, .flt, .vlt, .fio, .chg])
  | .chgLinkEstablished .. => partsMask [.draws, .fol, .led, .vlt, .fio, .chg]
  | .chgLinkLost .. | .authTimeout .. | .stoppingComplete .. | .pauseLimit .. | .meteringStale .. | .directPinEdge ..
  | .lsOpenLoad .. | .outputEvaluation => partsMask [.fol, .led, .vlt, .fio, .chg]
  | .linkRetryEnd .. => partsMask [.draws, .vlt, .chg]
  | .preparationComplete .. | .tripPilotFEnd .. => partsMask [.fol, .vlt, .chg]
  | .cardTimeout .. => partsMask [.fol, .chg]
  | .stoppingOpenTimeout .. | .pauseContactorTimeout .. => partsMask [.fio, .chg]
  | .cardPollDwell .. => partsMask [.chg]
  | .cardDetected .. => partsMask [.draws, .fol, .chg]
  | .field24vRestored .. | .testPulseRetry .. | .soFeedCleared .. => partsMask [.fol, .led, .flt, .vlt, .fio, .chg]
  | .testPulseGap .. | .panelBusyReleased .. | .panelOffDelay .. => partsMask [.fio]
  | .panelBusyTimeout .. | .panelRailFault .. | .panelDrawComplete .. => partsMask [.fol, .fio]
  | .faultNPulseEnd => partsMask [.flt]
  | .batonClaim => partsMask [.duty]
  | .batonClaimConfirm => partsMask [.draws, .fol, .time, .led, .met, .duty, .svc, .vlt, .fio, .chg]
  | .roleDecisionTimeout => partsMask (enveloped ++ [.flt, .duty])
  | .mirrorRecord .. | .mirrorConfig .. | .mirrorCopy .. =>
      partsMask (enveloped ++ [.pwr, .led, .gens, .yrw, .met, .flt, .duty, .vlt, .stem, .mtr, .bal, .fio, .chg])
  | .mirrorAckTimeout => partsMask (enveloped ++ [.led, .flt, .duty])
  | .mirrorSilence | .yieldTimeout => partsMask [.fol, .duty]
  | .resyncComplete .. => partsMask [.fol, .flt, .duty]
  | .engineSelftestStart .. => partsMask [.vlt]
  | .portTrainingTimeout .. | .fecRatioCheck .. => partsMask (enveloped ++ [.flt, .lnk])
  | .neighbourRefresh .. => partsMask [.lnk]
  | .glfSwitchComplete .. => partsMask (enveloped ++ [.led, .yrw, .met, .flt])
  | .traceFreeze => partsMask [.fol, .svc]
  | .vigilExitComplete => partsMask (enveloped ++ [.pwr, .time, .led, .yrw, .flt, .vlt, .fio, .chg, .lnk])

/-- The Folset command and request that a row of the command set carries: none for the rows of the bus, pins, timers and
engines. -/
def requestOf (i : Instr) : Option (Cmd × Request) :=
  match i with
  | .sysIdentify rq => some (cmdSysIdentify, rq)
  | .sysSessionOpen rq => some (cmdSysSessionOpen, rq)
  | .sysSessionAuth rq => some (cmdSysSessionAuth, rq)
  | .sysSessionClose rq => some (cmdSysSessionClose, rq)
  | .sysStreamConfig rq => some (cmdSysStreamConfig, rq)
  | .sysLifecycle rq => some (cmdSysLifecycle, rq)
  | .sysPowerMode rq => some (cmdSysPowerMode, rq)
  | .sysPowerStatus rq => some (cmdSysPowerStatus, rq)
  | .timeStatus rq => some (cmdTimeStatus, rq)
  | .timeConfig rq => some (cmdTimeConfig, rq)
  | .timeStep rq => some (cmdTimeStep, rq)
  | .timeCivil rq => some (cmdTimeCivil, rq)
  | .timeTicks rq => some (cmdTimeTicks, rq)
  | .yrwStatus rq => some (cmdYrwStatus, rq)
  | .yrwCatalogue rq => some (cmdYrwCatalogue, rq)
  | .yrwWorkloadArm rq => some (cmdYrwWorkloadArm, rq)
  | .yrwParamSet rq => some (cmdYrwParamSet, rq)
  | .yrwSpares rq => some (cmdYrwSpares, rq)
  | .yrwUmbel rq => some (cmdYrwUmbel, rq)
  | .yrwKernelRoll rq => some (cmdYrwKernelRoll, rq)
  | .yrwLoad rq => some (cmdYrwLoad, rq)
  | .yrwWorkloadStats rq => some (cmdYrwWorkloadStats, rq)
  | .yrwWorkloadRead rq => some (cmdYrwWorkloadRead, rq)
  | .memStatus rq => some (cmdMemStatus, rq)
  | .memArbRead rq => some (cmdMemArbRead, rq)
  | .memArbSet rq => some (cmdMemArbSet, rq)
  | .memArbStats rq => some (cmdMemArbStats, rq)
  | .metStatus rq => some (cmdMetStatus, rq)
  | .metSetRead rq => some (cmdMetSetRead, rq)
  | .metChannelRead rq => some (cmdMetChannelRead, rq)
  | .metRingStatus rq => some (cmdMetRingStatus, rq)
  | .metCalArm rq => some (cmdMetCalArm, rq)
  | .metCalCapture rq => some (cmdMetCalCapture, rq)
  | .metDemandSet rq => some (cmdMetDemandSet, rq)
  | .metDemandReset rq => some (cmdMetDemandReset, rq)
  | .metAuditRead rq => some (cmdMetAuditRead, rq)
  | .ledStatus rq => some (cmdLedStatus, rq)
  | .ledAccountRead rq => some (cmdLedAccountRead, rq)
  | .ledAccountSet rq => some (cmdLedAccountSet, rq)
  | .ledTokenSubmit rq => some (cmdLedTokenSubmit, rq)
  | .ledAdjust rq => some (cmdLedAdjust, rq)
  | .ledSupply rq => some (cmdLedSupply, rq)
  | .ledAccountRestore rq => some (cmdLedAccountRestore, rq)
  | .ledTariffArm rq => some (cmdLedTariffArm, rq)
  | .ledLocalRead rq => some (cmdLedLocalRead, rq)
  | .ledJournalRead rq => some (cmdLedJournalRead, rq)
  | .balStatus rq => some (cmdBalStatus, rq)
  | .balModelArm rq => some (cmdBalModelArm, rq)
  | .balRulesSet rq => some (cmdBalRulesSet, rq)
  | .balAttribute rq => some (cmdBalAttribute, rq)
  | .balNetworkRead rq => some (cmdBalNetworkRead, rq)
  | .balHistoryRead rq => some (cmdBalHistoryRead, rq)
  | .balSuspicionRead rq => some (cmdBalSuspicionRead, rq)
  | .balSuspicionClose rq => some (cmdBalSuspicionClose, rq)
  | .stemStatus rq => some (cmdStemStatus, rq)
  | .stemBridgeSet rq => some (cmdStemBridgeSet, rq)
  | .stemTxSet rq => some (cmdStemTxSet, rq)
  | .stemBridgeRead rq => some (cmdStemBridgeRead, rq)
  | .plcPollSet rq => some (cmdPlcPollSet, rq)
  | .plcNetworkRead rq => some (cmdPlcNetworkRead, rq)
  | .plcNodeRead rq => some (cmdPlcNodeRead, rq)
  | .rfNetworkSet rq => some (cmdRfNetworkSet, rq)
  | .rfNetworkRead rq => some (cmdRfNetworkRead, rq)
  | .rfConnRead rq => some (cmdRfConnRead, rq)
  | .mtrBind rq => some (cmdMtrBind, rq)
  | .mtrRead rq => some (cmdMtrRead, rq)
  | .mtrRequest rq => some (cmdMtrRequest, rq)
  | .mtrFwStage rq => some (cmdMtrFwStage, rq)
  | .mtrFwCampaign rq => some (cmdMtrFwCampaign, rq)
  | .mtrFwStatus rq => some (cmdMtrFwStatus, rq)
  | .chgStatus rq => some (cmdChgStatus, rq)
  | .chgPointSet rq => some (cmdChgPointSet, rq)
  | .chgPathSet rq => some (cmdChgPathSet, rq)
  | .chgBusSet rq => some (cmdChgBusSet, rq)
  | .chgIdSet rq => some (cmdChgIdSet, rq)
  | .chgAuthorise rq => some (cmdChgAuthorise, rq)
  | .chgStop rq => some (cmdChgStop, rq)
  | .chgPointRead rq => some (cmdChgPointRead, rq)
  | .fioLsConfig rq => some (cmdFioLsConfig, rq)
  | .fioLsSet rq => some (cmdFioLsSet, rq)
  | .fioLsRead rq => some (cmdFioLsRead, rq)
  | .fioPanelSet rq => some (cmdFioPanelSet, rq)
  | .fioPanelDraw rq => some (cmdFioPanelDraw, rq)
  | .fioPanelRead rq => some (cmdFioPanelRead, rq)
  | .safStatus rq => some (cmdSafStatus, rq)
  | .safInputSet rq => some (cmdSafInputSet, rq)
  | .safOutputSet rq => some (cmdSafOutputSet, rq)
  | .vltStatus rq => some (cmdVltStatus, rq)
  | .vltSlotWrite rq => some (cmdVltSlotWrite, rq)
  | .vltSlotRead rq => some (cmdVltSlotRead, rq)
  | .vltSlotDestroy rq => some (cmdVltSlotDestroy, rq)
  | .vltCertSet rq => some (cmdVltCertSet, rq)
  | .vltAttest rq => some (cmdVltAttest, rq)
  | .vltEngine rq => some (cmdVltEngine, rq)
  | .fltStatus rq => some (cmdFltStatus, rq)
  | .fltRead rq => some (cmdFltRead, rq)
  | .fltClear rq => some (cmdFltClear, rq)
  | .fltSafe rq => some (cmdFltSafe, rq)
  | .fltInject rq => some (cmdFltInject, rq)
  | .fltTamper rq => some (cmdFltTamper, rq)
  | .dutyStatus rq => some (cmdDutyStatus, rq)
  | .dutyYield rq => some (cmdDutyYield, rq)
  | .dutyTakeover rq => some (cmdDutyTakeover, rq)
  | .dutyResync rq => some (cmdDutyResync, rq)
  | .lnkStatus rq => some (cmdLnkStatus, rq)
  | .lnkGrouping rq => some (cmdLnkGrouping, rq)
  | .lnkPortSet rq => some (cmdLnkPortSet, rq)
  | .lnkAddrSet rq => some (cmdLnkAddrSet, rq)
  | .lnkMacsecSet rq => some (cmdLnkMacsecSet, rq)
  | .lnkPortRead rq => some (cmdLnkPortRead, rq)
  | .svcStatus rq => some (cmdSvcStatus, rq)
  | .svcStage rq => some (cmdSvcStage, rq)
  | .svcUpdate rq => some (cmdSvcUpdate, rq)
  | .svcBank rq => some (cmdSvcBank, rq)
  | .svcTraceConfig rq => some (cmdSvcTraceConfig, rq)
  | .svcTraceExport rq => some (cmdSvcTraceExport, rq)
  | .svcTraceMark rq => some (cmdSvcTraceMark, rq)
  | .jornyHelp | .jornyId | .jornyStatus | .jornyFaults .. | .jornyAuth .. | .jornySig .. | .jornyLogout | .jornyTrace ..
  | .jornyTail .. | .jornyBank | .jornyBankCommit | .jornyBankUse .. | .jornyLoad .. | .jornyLoadBlock ..
  | .jornyLoadTimeout | .jornyRestart | .jornyRoleTimeout | .jornyBreak | .mboxRequestWrite .. | .mboxRing ..
  | .mboxDoneClear .. | .intStatusClear .. | .hostErrInfoRead .. | .gstatFrontierRead .. | .strmTailWrite .. | .strmDataAccess ..
  | .streamFrameAccess .. | .reservedBarAccess .. | .registerWrite .. | .pcieReset .. | .intHoldoffExpiry ..
  | .sessionIdleTimeout .. | .sessionPendingTimeout .. | .principalLockoutExpiry .. | .udpRequestRx .. | .udpEventAckRx ..
  | .udpEventResend .. | .streamPageAbandon .. | .streamPageStall .. | .streamPushStall .. | .streamReceiveTimeout ..
  | .eventPlacement | .folsetLockstepMismatch | .folsetRestartComplete | .modEnNFall | .modEnNRise | .mainLost ..
  | .mainPresent | .mainQualified | .battLost .. | .battPresent | .switchComplete | .mainUnstableClear | .battPolicyDelay
  | .lowBattery | .powerFailDetection .. | .railFailPowerDown .. | .keepEntryDelay | .wakeTime | .keepReserveExhausted
  | .coldStart .. | .railStartTimeout .. | .vigilRailRetry | .moistureHoldEnd | .thermalCancel .. | .ptpSyncRx ..
  | .ptpAnnounceRx .. | .announceTimeout .. | .ppsEdge .. | .ppsLoss | .sourceDisagreeTimeout | .pendingStepRecompute ..
  | .holdoverExpiry | .tickStart .. | .backlogTimeout | .uplinkFrame | .downlinkFrame | .downlinkDeadlineMiss
  | .tickClose .. | .tickOverrun | .tickCommit | .frontierWriteFailed | .abortScrubComplete .. | .invocationDispatch ..
  | .sliceBoundary .. | .invocationComplete .. | .pageFetchComplete .. | .watchdogExpiry .. | .deadlineMiss ..
  | .floretSramError .. | .umbelHeartbeat .. | .heartbeatLoss .. | .fenceDrainComplete .. | .umbelTestResult ..
  | .staleEpochRequest .. | .arbiterDecision .. | .arbWait .. | .dramEccError .. | .patrolScrubPass | .lstoreReadError ..
  | .accountRestoreStandby .. | .demandBoundary .. | .coilSettled | .ringRecordRx .. | .ringStatusRx ..
  | .ringLossOfSignal .. | .ringLinkRestored .. | .enumerationComplete .. | .recordMissing .. | .satelliteUnreachable ..
  | .tickMarkMissing .. | .selftestStepStart .. | .selftestPhaseEnd .. | .selftestPrimaryResult .. | .selftestSpareResult ..
  | .captureStart | .captureComplete | .sealChange .. | .windowSettleDeadline .. | .stemPlcSamples .. | .stemRfSamples ..
  | .stemLvSamples .. | .stemJoin .. | .stemStaleRx .. | .holeRepairRetry .. | .holeWaitExpiry .. | .bridgeSilence ..
  | .bridgeLost .. | .rekeyDue .. | .keepaliveDue .. | .plcResponseRx .. | .plcAlertRx .. | .plcDiscoverReplyRx ..
  | .plcTransactionFail .. | .discoverPeriod .. | .beaconDue .. | .rfAdvertRx .. | .rfConnectionEvent .. | .rfAnswerRx ..
  | .rfEventMissed .. | .rfSupervisionExpiry .. | .rfAlertRx .. | .sepalReading .. | .sepalCreditAck .. | .sepalEvent ..
  | .sepalToken .. | .sepalEmergencyReq .. | .sepalIdentity .. | .sepalKeyAck .. | .sepalFwStatus .. | .sepalSendGiveup ..
  | .fwCampaignActivate .. | .pilotChange .. | .ppChange .. | .chgLinkEstablished .. | .chgLinkLost .. | .linkRetryEnd ..
  | .v2gMessageRx .. | .authTimeout .. | .preparationComplete .. | .stoppingComplete .. | .stoppingOpenTimeout ..
  | .pauseContactorTimeout .. | .pauseLimit .. | .cardPollDwell .. | .cardDetected .. | .cardResponse .. | .cardTimeout ..
  | .converterFeedbackRx .. | .converterLost .. | .staleLimits | .meteringStale .. | .acOvercurrent .. | .rcmTrip ..
  | .rcmSelftestResult .. | .insulationValue .. | .contactorCloseTimeout .. | .contactorWelded .. | .tripPilotFEnd ..
  | .outputEvaluation | .directPinEdge .. | .field24vUndervoltage .. | .field24vOvervoltage .. | .field24vRestored ..
  | .field24vTotalHigh .. | .lsAccumulatorUpdate .. | .lsShortCircuit .. | .lsOverTemperature .. | .lsRampTimeout ..
  | .lsOpenLoad .. | .testPulseGap .. | .testPulseOverload .. | .testPulseRetry .. | .safetyInputSample ..
  | .safetyInputRelease .. | .safetyInputDiscrepancy .. | .soOffPulse .. | .soFailedOpen .. | .soExternallyFed ..
  | .soFeedCleared .. | .panelBusyReleased .. | .panelBusyTimeout .. | .panelRailFault .. | .panelDrawComplete ..
  | .panelOffDelay .. | .tamperSample .. | .faultNPulseEnd | .safeLineTimeout | .safetyComparatorMismatch
  | .batonPeerLine .. | .batonClaim | .batonClaimConfirm | .batonOwnLineStuck | .roleDecisionTimeout | .mirrorHello ..
  | .mirrorRecord .. | .mirrorClose .. | .mirrorAck .. | .mirrorCommit .. | .mirrorAbort .. | .mirrorConfig ..
  | .mirrorCopy .. | .mirrorDecoupled .. | .mirrorYield .. | .mirrorAckTimeout | .mirrorSilence | .resyncComplete ..
  | .yieldTimeout | .keyRequest .. | .cryptoRequest .. | .engineSelftestStart .. | .engineSelftestResult ..
  | .ethernetFrameRx .. | .portLinkUp .. | .portLinkFault .. | .portTrainingTimeout .. | .portHoldExpiry ..
  | .fecRatioCheck .. | .lane0VigilTimeout | .ptpHoldExpiry | .neighbourRefresh .. | .updateQuiesceTimeout
  | .folsetUpdateReady | .folsetSwitchTimeout | .probationEnd | .glfSwitchComplete .. | .traceFreeze | .stemStatusFrame ..
  | .mtrRequestTimeout .. | .pciePerstRelease | .vigilExitComplete | .folsetSramError .. => none

/-- Events of the general part of the queue (R145 of 05). -/
def generalCount (f : FolsetState) : Nat := f.events.countP (fun e => !e.completion)

/-- What every step keeps: no mailbox is in Folset's hands and done at once (R118 of 05); at most 16 sessions (R132 of 05); at
most 3,839 general entries in the event queue (R145 of 05); at most two open ledger ticks (R100 of 04). -/
def Invariant (s : State) : Prop :=
  s.host.owner &&& s.host.done = 0#32 ∧ s.fol.sessions.length ≤ 16 ∧ generalCount s.fol ≤ 3839 ∧ s.led.ticks.length ≤ 2

/-! ## Requests over a mailbox -/

/-- The request is written to mailbox `k` and its doorbell rung, with the link up and the mailbox not BUSY (R118 of 05). -/
def Rung (rq : Request) (k : Nat) (s : State) : Prop :=
  rq.via = .mailbox k ∧ k < 32 ∧ k < s.host.mailboxes.length ∧ pcieUp s = true ∧ mailboxPhase s k ≠ .busy

/-- The request is served at once and passes validation; it is neither ASYNC nor DRYRUN (R119, R122, R124 of 05). -/
def Served (c : Cmd) (rq : Request) (k : Nat) (s : State) : Prop :=
  rq.via = .mailbox k ∧ k < 32 ∧ k < s.host.mailboxes.length ∧ pcieUp s = true ∧ mailboxPhase s k ≠ .busy ∧ taking s = true ∧
    rq.isAsync = false ∧ rq.isDry = false ∧ validate c { opcode := c.opcode, request := rq } s = none

/-- Mailbox `k` is DONE and holds the response with this status, detail and payload (R118, R121 of 05). -/
def Reports (opcode : Nat) (rq : Request) (k status detail : Nat) (payload : Bytes) (t : State) : Prop :=
  (t.host.mailboxes.getD k {}).response = responseBytes opcode rq.tag status detail payload t ∧
    t.host.done.getLsbD k = true ∧ t.host.owner.getLsbD k = false

/-- `n` bytes of the request's payload, little-endian. -/
def arg (rq : Request) (off n : Nat) : Nat := rd rq.args off n

/-- The response is OK, with a payload of `len` bytes of which `holds` is true. -/
def Answers (c : Cmd) (rq : Request) (k len : Nat) (t : State) (holds : Bytes → Prop) : Prop :=
  ∃ p, Reports c.opcode rq k stOk 0 p t ∧ p.length = len ∧ holds p

/-- The response is ACCEPTED: a completion event follows (R122 of 05). -/
def Accepts (c : Cmd) (rq : Request) (k : Nat) (t : State) : Prop := Reports c.opcode rq k stAccepted 0 [] t

/-- A generation of a table waits for its activation tick (R14, R15 of 01). -/
def Armed (g : GenTable) (tick : Nat) (t : State) : Prop := ∃ x ∈ t.gens.waiting, x.table = g ∧ x.tick = tick

/-- A stream channel has been opened for the transfer of a command (R136 of 05). -/
def Opens (c : Nat) (dir : StreamDir) (opcode transferId : Nat) (t : State) : Prop :=
  (chan t c).dir = dir ∧ (chan t c).transfer.map (fun x => (x.opcode, x.transferId)) = some (opcode, transferId)

/-- Jorny's last answer (R609 of 18). -/
def JornySays (t : State) (status : Nat) (lines : List Bytes) : Prop := t.svc.jorny.result = status ∧ t.svc.jorny.answer = lines

/-! ## Frames and trips -/

/-- A Stem frame of a type, from an ONLINE bridge under session `e`, that passes every check of R364 of 11 before its tag. -/
def Heard (s : State) (b type : Nat) (f : Bytes) (e : StemEpoch) : Prop :=
  stemUp s = true ∧ servesBridges s = true ∧ frameFormed type f = true ∧ rd f 2 2 = b ∧ (bridgeAt s b).phase = .online ∧
    (bridgeAt s b).config.kind = 0 ∧ epochMatch s (bridgeAt s b) (rd f 8 4) (widen s (rd f 16 4)) = some e ∧
    seqFresh e (rd f 12 4) = true

/-- The frame's tag verifies under the session's key (R364 of 11). -/
def TagHolds (s : State) (b : Nat) (f : Bytes) (e : StemEpoch) : Prop :=
  (tagGood b (epochHandle b (bridgeAt s b) e) f s).1 = true

/-- The stamp lies in the acceptance window of R365 of 11. -/
def InWindow (s : State) (f : Bytes) : Prop :=
  (now s : Int) + s.stem.offset - 240 ≤ widen s (rd f 16 4) ∧ widen s (rd f 16 4) ≤ (now s : Int) + s.stem.offset + 2

/-- What a sample frame does on either outcome of its tag (R364, R365 of 11). -/
def SamplesTaken (s : State) (b type : Nat) (f : Bytes) (e : StemEpoch) (t : State) : Prop :=
  t.stem.bytes = s.stem.bytes + f.length ∧
  (TagHolds s b f e → t.stem.accepted = s.stem.accepted + 1 ∧ (bridgeAt t b).lastValid = s.time.uptime ∧
    heldAlready (bridgeAt t b) type (widen s (rd f 16 4)).toNat = true) ∧
  (¬ TagHolds s b f e → t.stem.accepted = s.stem.accepted ∧ t.stem.dropped = s.stem.dropped + 1 ∧
    (bridgeAt t b).plc = (bridgeAt s b).plc ∧ (bridgeAt t b).rf = (bridgeAt s b).rf ∧ (bridgeAt t b).lv = (bridgeAt s b).lv)

/-- A power-line frame of a type heard whole from a network (R377 of 11). -/
def PlcHeard (s : State) (b startUs mod type : Nat) (f : Bytes) (fr : PlcFrame) : Prop :=
  netHears s b = true ∧
    overlapsHole s b 0 startUs (plcAirtime f.length mod (s.stem.profiles.getD (bridgeAt s b).config.profile {}).toneMask) = false ∧
    plcParse f = some fr ∧ fr.type = type ∧ fr.network = b ∧ fr.hop ≤ 8

/-- The oldest message of a type that waits from an account's meter (R412 of 12). -/
def Arrived (s : State) (a type : Nat) (m : InMsg) : Prop :=
  sepalUp s = true ∧ s.mtr.inbox.find? (fun x => x.account == a && rd x.payload 0 1 == type) = some m

/-- Charge point `k` is configured and the FIELD domain powered. -/
def PointUp (s : State) (k : Nat) : Prop := k < 16 ∧ s.pwr.fieldOn = true ∧ pointConfigured s k = true

/-- A protective trip has ended what charge point `k` was doing (R461 of 13). -/
def Tripped (s : State) (k : Nat) (t : State) : Prop :=
  t.chg.trips = cap 0xFFFFFFFF (s.chg.trips + 1) ∧ (pointAt t k).session = 0 ∧ (pointAt t k).lastEnd = 10 ∧
    ((pointAt t k).phase = .ended ∨ (pointAt t k).phase = .unavailable)

/-- A fault source's record is ACTIVE with this detail (R538 of 16). -/
def FaultIs (t : State) (src detail : Nat) : Prop := (faultRecord t src).phase = .active ∧ (faultRecord t src).detail = detail

/-- A frame of a type arrives in order over the mirror link (R553 of 16). -/
def Mirrored (s : State) (type : Nat) (f : Bytes) : Prop := mirrorUp s = true ∧ frameInOrder type f s = true

end Sys2Proof.Machine
end

