-- ==== Sys2Proof/Certificates/Slice0/Obligations.lean ====
section
/-!
DEFINITION. The statements about the block that the provers are asked to prove, in the order of OBLIGATIONS.json.
-/

open Sys2Proof Sys2Proof.Machine

/-- A step runs the command at the front of the queue (the model's own queue, log 1). In every state: where a command c
stands at the front of the queue, step is exec of c on the state with the queue's rest; where the queue is empty, step
answers the state itself; and withFetchWord, for which the table gives no row any bits, leaves what the next step answers.
The queue is the model's, not the spec's (log 1). (05_folset_host_interface.md, 00_scope.md) -/
def Obligations.StepServesTheFront : Prop := ∀ s : State,
  (∀ c rest, s.pending = c :: rest → step s = exec c { s with pending := rest }) ∧
  (s.pending = [] → step s = .next s) ∧
  (∀ nbits w, step (s.withFetchWord nbits w) = step s)

/-- After reset the invariant holds, the queue is empty, and the host registers have their reset values. State.reset meets
Invariant and its queue is empty. GSTAT reads 0xC200: life cycle BLANK and trust UNTRUSTED (values the model names, log 6 and
log 4), MODE STARTING, PAIR_ROLE not yet decided, and every field that the field map resets to 0 at 0. Vigil rails are off,
Folset is not ready, no safe state is applied. INT_STATUS, INT_ENABLE, INT_HOLDOFF and the error count are 0, INT_MAP is i
for cause i, every mailbox is FREE, and of the stream channels 0 is to-host and 1 to 7 are closed, with no PUSH ring and HEAD
and TAIL at 0. (R114, R115, R116, R117, R138, R63) -/
def Obligations.ResetIsInOrder : Prop :=
  Invariant State.reset ∧ State.reset.pending = [] ∧ gstat State.reset = 0xC200 ∧ State.reset.pwr.vigilOn = false ∧
  State.reset.fol.ready = false ∧ State.reset.flt.safe = false ∧ State.reset.host.intStatus = 0 ∧ State.reset.host.intEnable = 0 ∧
  State.reset.host.holdoffUs = 0 ∧ State.reset.host.intMap = List.range 22 ∧ State.reset.host.owner = 0 ∧ State.reset.host.done = 0 ∧
  State.reset.host.errCount = 0 ∧ (∀ c, c < 8 → (chan State.reset c).dir = (if c = 0 then .toHost else .closed) ∧
    (chan State.reset c).push = none ∧ (chan State.reset c).head = 0 ∧ (chan State.reset c).tail = 0)

/-- Every step of every command keeps the mailboxes, sessions, event queue and open ticks within their rules. Invariant: no
mailbox has OWNER and DONE set at once (R118: BUSY is OWNER 1, DONE is OWNER 0 with DONE 1); at most 16 sessions (R132); at
most 3,839 general entries in the event queue (R145); at most two open ledger ticks (R100). From every state that meets it,
every step that answers a next state answers one that meets it, whichever of the 369 commands stands at the front of the
queue. (R98, R100, R118, R132, R145) -/
def Obligations.EveryStepKeepsTheInvariant : Prop := ∀ s t : State, Invariant s → step s = .next t → Invariant t

/-- Every command answers a next state in every state, and leaves the queue alone. For every command and every state, exec
answers a next state (no fault, no refusal) whose queue of waiting commands is the one it had. (05_folset_host_interface.md,
R124, R128) -/
def Obligations.EveryCommandAnswers : Prop := ∀ (i : Instr) (s : State), ∃ t, exec i s = .next t ∧ t.pending = s.pending

/-- A command changes only the parts of the block that touches names for it: the frame of every command. touches gives each
of the 369 commands the set of the 21 parts of the state it may change: host interface, Folset, power, time, ledger, waiting
table generations, Yarrow, memory, metrology, seals, faults, pair, service, vault, Stem, meters, balance, field I/O,
charging, links, and the model's own counter of free values. In every state, when exec of the command answers a next state,
every other part is exactly as it was. (R11, R8, R114, R124) -/
def Obligations.CommandsTouchOnlyTheirParts : Prop := ∀ (i : Instr) (s t : State), exec i s = .next t → Frame (touches i) s t

/-- Requests that are refused, run dry, rung on a busy mailbox, or wait, have no part of their effect. For each of the 117
requests of Folset, over a mailbox. On a mailbox that Folset owns: the write and the doorbell are discarded, host errors 1
and 2 are recorded (HOST_ERR_INFO holds code 2 and offset 0x8000, the count rises by two and saturates at 255), HOST_ERR is
set, and nothing else changes. While Folset takes requests: a request that validation refuses gets that status and detail
with an empty payload, the mailbox is DONE, and only the host interface, the trace and the free-value counter change; a
request with DRYRUN that takes no stream data gets its response and changes neither the commands outstanding, nor the events,
nor any part beyond the host interface, Folset's record of the session, the trace and the free-value counter. While Folset
does not take requests, one other than SYS_IDENTIFY is queued with its mailbox BUSY, and nothing else changes. (R116, R118,
R119, R122, R124) -/
def Obligations.RefusedRequestsHaveNoEffect : Prop := ∀ (i : Instr) (c : Cmd) (rq : Request) (k : Nat) (s : State), requestOf i = some (c, rq) →
  (rq.via = .mailbox k → k < 32 → pcieUp s = true → mailboxPhase s k = .busy →
    ∃ t, exec i s = .next t ∧ t.host.mailboxes = s.host.mailboxes ∧ t.host.owner = s.host.owner ∧ t.host.done = s.host.done ∧
      t.host.errCode = 2 ∧ t.host.errOffset = 0x8000 ∧ t.host.errCount = cap 255 (cap 255 (s.host.errCount + 1) + 1) ∧
      t.host.intStatus.getLsbD causeHostErr = true ∧ Frame (partsMask [.host]) s t) ∧
  (∀ st d, Rung rq k s → taking s = true → validate c { opcode := c.opcode, request := rq } s = some (st, d) →
    ∃ t, exec i s = .next t ∧ Reports c.opcode rq k st d [] t ∧ Frame (partsMask [.draws, .host, .svc]) s t) ∧
  (Rung rq k s → taking s = true → rq.isDry = true → c.stream = false → (∀ o ∈ s.fol.outstanding, o.ref ≠ s.fol.nextRef) →
    ∃ t, exec i s = .next t ∧ Frame (partsMask enveloped) s t ∧ t.fol.outstanding = s.fol.outstanding ∧ t.fol.events = s.fol.events ∧
      t.host.owner.getLsbD k = false ∧ t.host.done.getLsbD k = true) ∧
  (Rung rq k s → taking s = false → c.opcode ≠ 0x0100 →
    ∃ t, exec i s = .next t ∧ Frame (partsMask [.host, .fol]) s t ∧ mailboxPhase t k = .busy ∧
      t.fol.waiting.length = s.fol.waiting.length + 1 ∧
      (∃ w ∈ t.fol.waiting, w.opcode = c.opcode ∧ w.request = rq ∧ w.orphan = false) ∧ t.fol.outstanding = s.fol.outstanding)

/-- Ringing a mailbox that holds a request is the row of that request. For each of the 117 requests of Folset: the opcode
table gives its opcode that command; and when a request is written to a mailbox that is not BUSY, Folset takes requests, none
waits, and its 256 B spell that opcode and request, then ringing the mailbox with MBOX_RING is, as a step on the state, the
same as the row of the request. (R117, R118, R119, R120, R128) -/
def Obligations.DoorbellServesTheRow : Prop := ∀ (i : Instr) (c : Cmd) (rq : Request) (k : Nat) (s : State), requestOf i = some (c, rq) →
  Rung rq k s → taking s = true → s.fol.waiting = [] → parseRequest (.mailbox k) (rq.bytes c.opcode) = (c.opcode, rq) →
  commandOf c.opcode = some c ∧ exec (.mboxRing (2 ^ k)) (writeRequest k 0 (rq.bytes c.opcode) s) = exec i s

/-- Reads of a kernel, workload, fault source or port that does not exist get the status the spec names. For a request served
over a mailbox: YRW_CATALOGUE with an index of count or more answers OUT_OF_RANGE; YRW_WORKLOAD_STATS with a workload_id that
is not in the active table, FLT_READ with a reserved source ID (reserved bytes zero), answer NOT_READY; LNK_PORT_READ of a
port that does not exist in the grouping in force answers OUT_OF_RANGE. Each response has an empty payload and the mailbox is
DONE. (R194, R200, R564, R592) -/
def Obligations.ReadsRefuseWhatDoesNotExist : Prop := ∀ (s : State) (rq : Request) (k : Nat),
  (Served cmdYrwCatalogue rq k s → kernels.length ≤ arg rq 0 1 →
    ∃ t, exec (.yrwCatalogue rq) s = .next t ∧ Reports 0x0301 rq k stOutOfRange 16 [] t) ∧
  (Served cmdYrwWorkloadStats rq k s → arg rq 1 3 = 0 → (∀ w ∈ s.yrw.workloads, w.id ≠ arg rq 0 1) →
    ∃ t, exec (.yrwWorkloadStats rq) s = .next t ∧ Reports 0x0308 rq k stNotReady 0 [] t) ∧
  (Served cmdFltRead rq k s → arg rq 1 3 = 0 → sourceClass (arg rq 0 1) = none →
    ∃ t, exec (.fltRead rq) s = .next t ∧ Reports 0x0D01 rq k stNotReady 0 [] t) ∧
  (Served cmdLnkPortRead rq k s → portExists s (arg rq 0 1) = false →
    ∃ t, exec (.lnkPortRead rq) s = .next t ∧ Reports 0x0E10 rq k stOutOfRange 16 [] t)

/-- No command changes the module's identity, and nothing leaves SCRAPPED. Whatever command runs in whatever state: the
serial number, the variant and the slot, which the identity registers show, are as they were; a module that is SCRAPPED stays
SCRAPPED; and a reset of the PCI Express endpoint also leaves the running Folset version that IDENT_FOLSET shows. (R113,
R131, R157, R150) -/
def Obligations.IdentityAndScrappedAreFinal : Prop := ∀ (i : Instr) (s t : State), exec i s = .next t →
  t.host.serial = s.host.serial ∧ t.host.variantS = s.host.variantS ∧ t.host.slot = s.host.slot ∧
  (s.fol.lifecycle = .scrapped → t.fol.lifecycle = .scrapped) ∧
  (∀ perst, i = .pcieReset perst → t.fol.version = s.fol.version)

/-- SYS_ commands: identity, sessions, stream port, life cycle and power. For a request served over a mailbox (its mailbox
not BUSY, Folset taking requests, neither ASYNC nor DRYRUN, validation passed), with the payload and state each clause names:
SYS_IDENTIFY answers part, variant, revision, life cycle, serial and pair role. SYS_SESSION_OPEN opens a pending session of
the role and principal asked for and answers its handle. SYS_SESSION_AUTH opens the session to use where the proof verifies
and otherwise answers DENIED_ROLE and ends it. SYS_SESSION_CLOSE ends the named session, or the caller's own with OK.
SYS_STREAM_CONFIG sets the PUSH ring and AUTOACK of the channel. SYS_LIFECYCLE takes a permitted move, ends every session and
every injection, and answers the state and the slots destroyed. SYS_POWER_MODE sets the commanded demand and the battery
policy. SYS_POWER_STATUS answers mode, hand-over state and the measured inputs. (R152, R153, R154, R155, R156, R157, R78,
R79) -/
def Obligations.SystemCommandsTakeEffect : Prop := ∀ (s : State) (rq : Request) (k : Nat),
  (Served cmdSysIdentify rq k s →
    ∃ t, exec (.sysIdentify rq) s = .next t ∧ Answers cmdSysIdentify rq k 64 t (fun p =>
      rd p 0 2 = 0x1024 ∧ rd p 2 1 = s.host.variantS.toNat ∧ rd p 3 1 = 0x42 ∧ rd p 4 1 = 1 ∧ rd p 7 1 = s.fol.lifecycle.code % 256 ∧
      rd p 8 8 = s.host.serial % 2 ^ 64 ∧ rd p 29 1 = s.duty.role.code % 256)) ∧
  (∀ role cred, Served cmdSysSessionOpen rq k s → roleOf (arg rq 0 1) = some role → arg rq 1 1 ≤ 63 → arg rq 2 2 = 0 → arg rq 4 4 = 0 →
      (slice rq.args 8 64).all (· == 0) = true → roleOpens s.fol.lifecycle role = true → principalFor s (arg rq 1 1) role false = some cred →
      s.fol.sessions.length < 16 → (keyFor (folsetClass 1 s) (.stored 12 0) s).1.isSome = true →
    ∃ t x, exec (.sysSessionOpen rq) s = .next t ∧ x ∈ t.fol.sessions ∧ x.role = role ∧ x.principal = arg rq 1 1 ∧ x.pending = true ∧
      x.idleS = 900 ∧ x.udp = none ∧ Answers cmdSysSessionOpen rq k 168 t (fun p => rd p 0 4 = x.handle % 2 ^ 32)) ∧
  (∀ x cred, Served cmdSysSessionAuth rq k s → findSession s rq.session = some x → x.pending = true → x.udp = none →
      credential s x.principal = some cred → attrType cred.attr = 4 → arg rq 0 1 = 64 → arg rq 1 3 = 0 →
      (rq.args.drop 68).all (· == 0) = true → (engineWork (folsetClass 1 s) s).1 = true →
    ∃ t, exec (.sysSessionAuth rq) s = .next t ∧
      (if authGood cred (authMessage s x.handle x.role.code x.principal x.challenge x.hostEph x.moduleEph) (slice rq.args 4 96) = true then
        Answers cmdSysSessionAuth rq k 8 t (fun p => rd p 0 1 = x.role.code % 256 ∧ rd p 1 1 = x.principal % 256 ∧ rd p 4 4 = x.idleS % 2 ^ 32) ∧
          (∀ y ∈ t.fol.sessions, y.handle = rq.session → y.pending = false)
       else Reports 0x0102 rq k stDeniedRole x.role.code [] t ∧ ∀ y ∈ t.fol.sessions, y.handle ≠ rq.session)) ∧
  (Served cmdSysSessionClose rq k s → arg rq 0 4 ≠ 0 → arg rq 0 4 ≠ rq.session → (findSession s (arg rq 0 4)).isSome = true →
      (∃ x, findSession s rq.session = some x ∧ x.role = .warden) →
    ∃ t, exec (.sysSessionClose rq) s = .next t ∧ ∀ x ∈ t.fol.sessions, x.handle ≠ arg rq 0 4) ∧
  (Served cmdSysSessionClose rq k s → arg rq 0 4 = 0 →
    ∃ t, exec (.sysSessionClose rq) s = .next t ∧ Reports 0x0103 rq k stOk 0 [] t ∧ ∀ x ∈ t.fol.sessions, x.handle ≠ rq.session) ∧
  (Served cmdSysStreamConfig rq k s → 1 ≤ arg rq 0 1 → arg rq 0 1 ≤ 7 → arg rq 0 1 < s.host.channels.length → arg rq 1 1 = 1 →
      (chan s (arg rq 0 1)).dir ≠ .fromHost → arg rq 2 1 ≤ 1 → arg rq 3 1 = 0 → arg rq 4 4 = 0 → arg rq 8 8 % 4096 = 0 →
      32 ≤ arg rq 16 2 → arg rq 16 2 ≤ 4096 → popcount (arg rq 16 2) 16 = 1 → arg rq 18 6 = 0 → arg rq 24 8 % 8 = 0 →
      channelIdle s (arg rq 0 1) = true →
    ∃ t, exec (.sysStreamConfig rq) s = .next t ∧ Reports 0x0110 rq k stOk 0 [] t ∧
      chan t (arg rq 0 1) = { chan s (arg rq 0 1) with autoack := arg rq 2 1 == 1, push := some { base := arg rq 8 8, pages := arg rq 16 2, headAddr := arg rq 24 8 } }) ∧
  (∀ b, Served cmdSysLifecycle rq k s → arg rq 0 1 = s.fol.lifecycle.code → lifecycleOf (arg rq 1 1) = some b → lifecycleMove s.fol.lifecycle b = true →
      arg rq 2 6 = 0 → arg rq 8 8 = s.host.serial → (s.duty.holding = true → b ≠ .service ∧ b ≠ .scrapped) →
    ∃ t, exec (.sysLifecycle rq) s = .next t ∧ t.fol.lifecycle = b ∧ t.flt.injections = [] ∧ (∀ x ∈ t.fol.sessions, False) ∧
      Answers cmdSysLifecycle rq k 8 t (fun p => rd p 0 1 = b.code % 256 ∧ rd p 4 4 = slotsDestroyed s.fol.lifecycle b s % 2 ^ 32)) ∧
  (Served cmdSysPowerMode rq k s → arg rq 0 1 ≤ 3 → arg rq 1 1 ≤ 2 → arg rq 2 2 ≤ 3600 → (arg rq 4 2 = 0 ∨ (400 ≤ arg rq 4 2 ∧ arg rq 4 2 ≤ 520)) →
      arg rq 6 2 = 0 → (arg rq 8 8 = 0 ∨ now s + 10000 ≤ arg rq 8 8) → (arg rq 0 1 = 3 → s.pwr.mode ≠ .starting) →
    ∃ t, exec (.sysPowerMode rq) s = .next t ∧ t.pwr.demandCommand = demandOfCode (arg rq 0 1) ∧ t.pwr.battPolicy = policyOf (arg rq 1 1) ∧
      t.pwr.battDelayS = arg rq 2 2 ∧ t.pwr.battLowDv = arg rq 4 2) ∧
  (Served cmdSysPowerStatus rq k s →
    ∃ t, exec (.sysPowerStatus rq) s = .next t ∧ Answers cmdSysPowerStatus rq k 32 t (fun p =>
      rd p 0 1 = (effective s).code % 256 ∧ rd p 1 1 = s.pwr.handover.code % 256 ∧ rd p 4 2 = s.pwr.mainDv % 65536 ∧
      rd p 6 2 = s.pwr.battDv % 65536 ∧ rd p 8 2 = s.pwr.vbusDv % 65536 ∧ rd p 10 2 = s.pwr.inputDw % 65536 ∧
      rd p 28 4 = s.pwr.keepReserveMv % 2 ^ 32))

/-- TIME_ commands: status, configuration, steps, civil time and tick counts. For a request served over a mailbox (its
mailbox not BUSY, Folset taking requests, neither ASYNC nor DRYRUN, validation passed), with the payload and state each
clause names: TIME_STATUS answers trust, the tick and the grandmaster; TIME_CONFIG keeps the whole configuration for the next
tick; TIME_STEP accepts, refuses or sets a step and answers the step and the tick it takes; TIME_CIVIL arms the table at its
activation tick; TIME_TICKS answers frontier, tick and the counters. (R106, R107, R108, R109, R110) -/
def Obligations.TimeCommandsTakeEffect : Prop := ∀ (s : State) (rq : Request) (k : Nat),
  (Served cmdTimeStatus rq k s → s.time.tickTrust = .traceable →
    ∃ t, exec (.timeStatus rq) s = .next t ∧ Answers cmdTimeStatus rq k 44 t (fun p =>
      rd p 0 1 = s.time.tickTrust.code % 256 ∧ rd p 8 4 = 0 ∧ rd p 12 4 = 0 ∧ rd p 16 8 = now s % 2 ^ 64 ∧
      rd p 32 1 = s.time.gmClass % 256 ∧ rd p 33 1 = s.time.gmPort % 256)) ∧
  (Served cmdTimeConfig rq k s → arg rq 0 1 ≤ 3 → 24 ≤ arg rq 1 1 → arg rq 1 1 ≤ 43 → arg rq 2 1 < 16 → (arg rq 2 1 = 0 → arg rq 0 1 ≠ 2) →
      arg rq 3 1 = 0 → (readTimeConfig rq.args).localPriority.all (· != 0) = true → arg rq 8 4 ≤ 1000000 → 1 ≤ arg rq 12 2 → arg rq 12 2 ≤ 1000 →
      arg rq 14 2 = 0 →
    ∃ t, exec (.timeConfig rq) s = .next t ∧ Reports 0x0201 rq k stOk 0 [] t ∧
      t.time = { s.time with configNext := some (readTimeConfig rq.args) }) ∧
  (∀ d, Served cmdTimeStep rq k s → arg rq 0 1 = 0 → arg rq 1 1 = 1 → arg rq 2 6 = 0 → s.time.pendingStep = some d → rdS rq.args 8 8 = d →
    ∃ t, exec (.timeStep rq) s = .next t ∧ t.time.pendingStep = none ∧ (d ≠ 0 → t.time.stepDue = some d) ∧
      Answers cmdTimeStep rq k 16 t (fun p => slice p 0 8 = leS 8 d ∧ slice p 8 8 = leS 8 ((now s : Int) + 1 + d))) ∧
  (∀ d, Served cmdTimeStep rq k s → arg rq 0 1 = 1 → arg rq 1 1 ≤ 1 → arg rq 2 6 = 0 → s.time.pendingStep = some d → rdS rq.args 8 8 = d →
    ∃ t, exec (.timeStep rq) s = .next t ∧ t.time.pendingStep = none ∧ t.time.stepDue = s.time.stepDue ∧
      Answers cmdTimeStep rq k 16 t (fun p => rd p 0 8 = 0)) ∧
  (Served cmdTimeStep rq k s → arg rq 0 1 = 2 → arg rq 1 1 = 1 → arg rq 2 6 = 0 → arg rq 8 8 < 2 ^ 63 →
      s.time.ptp.qualified = false → s.time.pps.qualified = false → s.time.trust = .untrusted →
    ∃ t, exec (.timeStep rq) s = .next t ∧ t.time.hostSet = some (10, arg rq 8 8) ∧ t.time.base = .host ∧
      Answers cmdTimeStep rq k 16 t (fun p => rd p 8 8 = arg rq 8 8)) ∧
  (∀ tick, Served cmdTimeCivil rq k s → activationTick (.civil (readCivil rq.args)) (roundTick (arg rq 0 8)) s = some tick →
      (readCivil rq.args).utcOffsetS ≤ 255 → (readCivil rq.args).leapKind = 0 → leapEndOk (readCivil rq.args) = true →
      (readCivil rq.args).dstDeltaMin = 0 → (dstRuleChecks false rq.args 22 26 ++ dstRuleChecks false rq.args 28 32).all (·.2.2) = true →
      -720 ≤ (readCivil rq.args).stdOffsetMin → (readCivil rq.args).stdOffsetMin ≤ 840 → arg rq 34 2 = 0 →
      armBusy (.civil (readCivil rq.args)) s = false →
    ∃ t, exec (.timeCivil rq) s = .next t ∧ Armed (.civil (readCivil rq.args)) tick t ∧ Accepts cmdTimeCivil rq k t) ∧
  (Served cmdTimeTicks rq k s →
    ∃ t, exec (.timeTicks rq) s = .next t ∧ Answers cmdTimeTicks rq k 48 t (fun p =>
      rd p 0 8 = frontier s % 2 ^ 64 ∧ rd p 8 8 = now s % 2 ^ 64 ∧ rd p 16 1 = s.led.ticks.length % 256 ∧
      rd p 20 4 = s.time.holdRemaining % 2 ^ 32 ∧ rd p 24 4 = s.led.overruns % 2 ^ 32 ∧ rd p 28 4 = s.led.aborted % 2 ^ 32 ∧
      rd p 36 4 = s.led.fieldOnlyCount % 2 ^ 32))

/-- YRW_ reads answer the catalogue, loads, workloads and umbels as they stand. For a request served over a mailbox (its
mailbox not BUSY, Folset taking requests, neither ASYNC nor DRYRUN, validation passed), with the payload and state each
clause names: YRW_STATUS answers the round and the umbels by state; YRW_CATALOGUE the kernel at the index; YRW_LOAD the
measured loads; YRW_WORKLOAD_STATS the counters of the workload; YRW_WORKLOAD_READ the entry of the active table; YRW_UMBEL
action 0 the state, test result, fence epoch and stale writes of the umbel. (R192, R194, R198, R200, R201) -/
def Obligations.YarrowReadsAnswer : Prop := ∀ (s : State) (rq : Request) (k : Nat),
  (Served cmdYrwStatus rq k s →
    ∃ t, exec (.yrwStatus rq) s = .next t ∧ Answers cmdYrwStatus rq k 56 t (fun p =>
      rd p 0 8 = now s / 1024 % 2 ^ 64 ∧ rd p 8 1 = (umbelsIn s .active).length % 256 ∧ rd p 9 1 = (umbelsIn s .spare).length % 256 ∧
      rd p 12 1 = (umbelsIn s .retired).length % 256 ∧ rd p 16 4 = s.yrw.workloadGen % 2 ^ 32)) ∧
  (∀ x, Served cmdYrwCatalogue rq k s → arg rq 0 1 < kernels.length → arg rq 1 3 = 0 → kernels[arg rq 0 1]? = some x →
    ∃ t, exec (.yrwCatalogue rq) s = .next t ∧ Answers cmdYrwCatalogue rq k 48 t (fun p =>
      rd p 0 1 = kernels.length % 256 ∧ rd p 1 1 = x.cls.code % 256 ∧ rd p 2 2 = x.id % 65536 ∧
      rd p 4 2 = (kernelVersion s x.id).version % 65536 ∧ rd p 8 4 = x.cycles % 2 ^ 32)) ∧
  (Served cmdYrwLoad rq k s →
    ∃ t, exec (.yrwLoad rq) s = .next t ∧ Answers cmdYrwLoad rq k 48 t (fun p =>
      rd p 0 2 = s.yrw.load.floretOccupancy % 65536 ∧ rd p 2 2 = s.yrw.load.dramUtilisation % 65536 ∧
      rd p 4 2 = s.yrw.load.folsetBusy % 65536 ∧ rd p 32 4 = s.yrw.prevWilts % 2 ^ 32 ∧ rd p 36 4 = s.yrw.prevMisses % 2 ^ 32)) ∧
  (Served cmdYrwWorkloadStats rq k s → arg rq 1 3 = 0 → s.yrw.workloads.any (fun y => y.id == arg rq 0 1) = true →
    ∃ t, exec (.yrwWorkloadStats rq) s = .next t ∧ Answers cmdYrwWorkloadStats rq k 40 t (fun p =>
      rd p 0 8 = (Tab.getD s.yrw.stats (arg rq 0 1) {}).invocations % 2 ^ 64 ∧
      rd p 8 8 = (Tab.getD s.yrw.stats (arg rq 0 1) {}).cycles % 2 ^ 64 ∧
      rd p 16 4 = (Tab.getD s.yrw.stats (arg rq 0 1) {}).wilts % 2 ^ 32 ∧
      rd p 20 4 = (Tab.getD s.yrw.stats (arg rq 0 1) {}).deadlineMisses % 2 ^ 32)) ∧
  (∀ w, Served cmdYrwWorkloadRead rq k s → arg rq 1 1 = 0 → arg rq 2 2 = 0 →
      s.yrw.workloads.find? (fun x => x.id == arg rq 0 1) = some w →
    ∃ t, exec (.yrwWorkloadRead rq) s = .next t ∧ Answers cmdYrwWorkloadRead rq k 36 t (fun p =>
      rd p 0 1 = w.id % 256 ∧ rd p 2 2 = w.kernel % 65536 ∧ rd p 8 4 = w.units % 2 ^ 32 ∧ rd p 12 2 = w.minFlorets % 65536 ∧
      rd p 32 4 = s.yrw.workloadGen % 2 ^ 32)) ∧
  (Served cmdYrwUmbel rq k s → arg rq 0 1 ≤ 63 → arg rq 1 1 = 0 → arg rq 2 6 = 0 →
    ∃ t, exec (.yrwUmbel rq) s = .next t ∧ Answers cmdYrwUmbel rq k 24 t (fun p =>
      rd p 0 1 = (umbel s (arg rq 0 1)).phase.code % 256 ∧ rd p 3 1 = (umbel s (arg rq 0 1)).testResult % 256 ∧
      rd p 4 4 = (umbel s (arg rq 0 1)).epoch % 2 ^ 32 ∧ rd p 16 8 = (umbel s (arg rq 0 1)).staleWrites % 2 ^ 64))

/-- YRW_ commands arm tables and parameters, move spares and umbels, and start a kernel roll. For a request served over a
mailbox (its mailbox not BUSY, Folset taking requests, neither ASYNC nor DRYRUN, validation passed), with the payload and
state each clause names: YRW_WORKLOAD_ARM opens the channel for the table; YRW_PARAM_SET arms the block and answers its
activation tick; YRW_SPARES waits for the first round start at least 3 ticks ahead; YRW_UMBEL retires a fenced umbel, tests a
fenced or retired one, or tests a spare; YRW_KERNEL_ROLL starts the roll of the staged image. (R195, R196, R197, R198, R199) -/
def Obligations.YarrowSettingsTakeEffect : Prop := ∀ (s : State) (rq : Request) (k : Nat),
  (Served cmdYrwWorkloadArm rq k s → 1 ≤ arg rq 0 1 → arg rq 0 1 ≤ 7 → 1 ≤ arg rq 2 2 → arg rq 2 2 ≤ 256 → arg rq 4 4 ≠ 0 →
      (activationTick (.workload []) (roundTick (arg rq 8 8)) s).isSome = true → (groupCheck rq.args 1 20).2.2 = true →
      arg rq 21 3 = 0 → armBusy (.workload []) s = false → channelIdle s (arg rq 0 1) = true →
      arg rq 0 1 < s.host.channels.length →
    ∃ t, exec (.yrwWorkloadArm rq) s = .next t ∧ Accepts cmdYrwWorkloadArm rq k t ∧ Opens (arg rq 0 1) .fromHost 0x0302 (arg rq 4 4) t) ∧
  (∀ tick, Served cmdYrwParamSet rq k s → arg rq 0 2 ≤ 1023 → (groupCheck rq.args 2 3).2.2 = true → arg rq 4 4 = 0 →
      activationTick (.param (arg rq 0 2) (slice rq.args 16 192)) (arg rq 8 8) s = some tick →
      (findKernel (arg rq 16 2)).isSome = true → 1 ≤ arg rq 19 1 → arg rq 19 1 ≤ 184 → arg rq 20 4 = 0 →
      ((slice rq.args 16 192).drop (8 + arg rq 19 1)).all (· == 0) = true →
      armBusy (.param (arg rq 0 2) (slice rq.args 16 192)) s = false →
    ∃ t, exec (.yrwParamSet rq) s = .next t ∧ (Config.paramsOwned (arg rq 16 2) = false → Config.paramFormat (arg rq 16 2) (arg rq 18 1) = true →
      Config.paramBody (arg rq 16 2) (slice (slice rq.args 16 192) 8 (arg rq 19 1)) = true →
        Answers cmdYrwParamSet rq k 8 t (fun p => rd p 0 8 = tick % 2 ^ 64) ∧ Armed (.param (arg rq 0 2) (slice rq.args 16 192)) tick t)) ∧
  (Served cmdYrwSpares rq k s → arg rq 0 1 ≤ 8 → arg rq 1 1 ≤ 1 → arg rq 2 6 = 0 → sumMin s.yrw.workloads ≤ floretRoom s (arg rq 0 1) →
    ∃ t, exec (.yrwSpares rq) s = .next t ∧ Accepts cmdYrwSpares rq k t ∧
      t.yrw = { s.yrw with pendingSpares := some (arg rq 0 1, arg rq 1 1 == 1, roundStart (now s + 3), s.fol.nextRef) }) ∧
  (Served cmdYrwUmbel rq k s → arg rq 0 1 ≤ 63 → arg rq 0 1 < s.yrw.umbels.length → arg rq 1 1 = 1 → arg rq 2 6 = 0 →
      (umbel s (arg rq 0 1)).phase = .fenced →
    ∃ t, exec (.yrwUmbel rq) s = .next t ∧ (umbel t (arg rq 0 1)).phase = .retired ∧ Answers cmdYrwUmbel rq k 24 t (fun p =>
      rd p 0 1 = UmbelPhase.retired.code)) ∧
  (Served cmdYrwUmbel rq k s → arg rq 0 1 ≤ 63 → arg rq 0 1 < s.yrw.umbels.length → arg rq 1 1 = 2 → arg rq 2 6 = 0 →
      (umbel s (arg rq 0 1)).phase = .fenced ∨ (umbel s (arg rq 0 1)).phase = .retired →
    ∃ t, exec (.yrwUmbel rq) s = .next t ∧ (umbel t (arg rq 0 1)).phase = .testing ∧ (umbel t (arg rq 0 1)).testResult = 3) ∧
  (Served cmdYrwUmbel rq k s → arg rq 0 1 ≤ 63 → arg rq 0 1 < s.yrw.umbels.length → arg rq 1 1 = 3 → arg rq 2 6 = 0 →
      (umbel s (arg rq 0 1)).phase = .spare → (umbel s (arg rq 0 1)).testResult ≠ 3 →
    ∃ t, exec (.yrwUmbel rq) s = .next t ∧ (umbel t (arg rq 0 1)).phase = .spare ∧ (umbel t (arg rq 0 1)).testResult = 3) ∧
  (∀ img x, Served cmdYrwKernelRoll rq k s → findKernel (arg rq 0 2) = some x → arg rq 2 1 = 0 → arg rq 3 1 ≤ 7 →
      1 ≤ arg rq 4 1 → arg rq 4 1 ≤ 16 → 1 ≤ arg rq 5 1 → arg rq 6 2 ≤ 1024 → (x.isSealed = true → sealClosed s 2 = false) →
      s.yrw.roll = none → Tab.get (buildBank s).staged (arg rq 3 1) = some img → img.kernel = arg rq 0 2 →
      img.hashGood = true → img.version / 256 = (kernelVersion s (arg rq 0 2)).version / 256 →
    ∃ t, exec (.yrwKernelRoll rq) s = .next t ∧ Accepts cmdYrwKernelRoll rq k t ∧ t.yrw = { s.yrw with roll := some {
      kernel := arg rq 0 2, slot := arg rq 3 1, version := img.version, hash := img.hash, perRound := arg rq 4 1,
      faultLimit := arg rq 5 1, canary := arg rq 6 2, ref := s.fol.nextRef } })

/-- MEM_ and DUTY_ commands: memory state, arbiter tables, pair status, yield, takeover and resync. For a request served over
a mailbox (its mailbox not BUSY, Folset taking requests, neither ASYNC nor DRYRUN, validation passed), with the payload and
state each clause names: MEM_STATUS answers the error counters and the active bank; MEM_ARB_READ the active or pending table;
MEM_ARB_SET makes the table pending for three ticks ahead and changes nothing else in memory; MEM_ARB_STATS the counters of
the requester; DUTY_STATUS the pair's state; DUTY_YIELD releases the baton and waits for the peer; DUTY_TAKEOVER claims and
answers the new epoch and the frontier; DUTY_RESYNC of a standby out of sync starts copying. (R224, R225, R226, R227, R569,
R570, R571, R572) -/
def Obligations.MemoryAndDutyCommandsTakeEffect : Prop := ∀ (s : State) (rq : Request) (k : Nat),
  (Served cmdMemStatus rq k s →
    ∃ t, exec (.memStatus rq) s = .next t ∧ Answers cmdMemStatus rq k 48 t (fun p =>
      rd p 8 4 = s.mem.dramUncorrected % 2 ^ 32 ∧ rd p 16 4 = s.mem.spareFree % 2 ^ 32 ∧ rd p 20 4 = s.mem.lstoreCorrected % 2 ^ 32 ∧
      rd p 24 4 = s.mem.lstoreUncorrected % 2 ^ 32 ∧ rd p 32 1 = (activeB s).toNat)) ∧
  (Served cmdMemArbRead rq k s → arg rq 0 1 ≤ 4 → arg rq 1 1 = 0 → arg rq 2 2 = 0 →
    ∃ t, exec (.memArbRead rq) s = .next t ∧ ∃ p, Reports 0x0401 rq k stOk 0 p t ∧ rd p 0 1 = arg rq 0 1 ∧
      rd p 4 4 = (arbiter s (arg rq 0 1)).table.waitUs % 2 ^ 32 ∧ rd p 8 8 = (arbiter s (arg rq 0 1)).table.activation % 2 ^ 64) ∧
  (∀ x, Served cmdMemArbRead rq k s → arg rq 0 1 ≤ 4 → arg rq 1 1 = 1 → arg rq 2 2 = 0 → (arbiter s (arg rq 0 1)).pending = some x →
    ∃ t, exec (.memArbRead rq) s = .next t ∧ ∃ p, Reports 0x0401 rq k stOk 0 p t ∧ rd p 0 1 = arg rq 0 1 ∧
      rd p 4 4 = x.waitUs % 2 ^ 32 ∧ rd p 8 8 = x.activation % 2 ^ 64) ∧
  (Served cmdMemArbSet rq k s → arg rq 8 8 = 0 → arg rq 0 1 ≤ 4 → arg rq 1 3 = 0 → (arg rq 4 4 = 0 ∨ (10 ≤ arg rq 4 4 ∧ arg rq 4 4 ≤ 1000000)) →
      (∀ r ∈ (arbTableOf rq.args 0).slots, r < (requesters (arg rq 0 1)).length ∨ r = 15) →
      (requesters (arg rq 0 1)).zipIdx.all (fun x => x.1.gap == 0 || gapKept (arbTableOf rq.args 0).slots x.2 x.1.gap) = true →
      (∀ i, i < 16 → (if i < (requesters (arg rq 0 1)).length then 1 ≤ (arbTableOf rq.args 0).burst.getD i 0 ∧ (arbTableOf rq.args 0).burst.getD i 0 ≤ 64
        else (arbTableOf rq.args 0).burst.getD i 0 = 0)) →
      (∀ r ∈ (arbTableOf rq.args 0).ranking, r < (requesters (arg rq 0 1)).length) → (arbTableOf rq.args 0).ranking.Nodup →
      (arbiter s (arg rq 0 1)).pending = none →
    ∃ t, exec (.memArbSet rq) s = .next t ∧ Answers cmdMemArbSet rq k 8 t (fun p => rd p 0 8 = (now s + 3) % 2 ^ 64) ∧
      t.mem = (setArbiter (arg rq 0 1) (fun x => { x with pending := some (arbTableOf rq.args (now s + 3)) }) s).mem) ∧
  (Served cmdMemArbStats rq k s → arg rq 0 1 ≤ 4 → arg rq 1 1 < (requesters (arg rq 0 1)).length → arg rq 1 1 ≤ 14 → arg rq 2 2 = 0 →
    ∃ t, exec (.memArbStats rq) s = .next t ∧ Answers cmdMemArbStats rq k 40 t (fun p =>
      rd p 0 8 = (Tab.getD (arbiter s (arg rq 0 1)).stats (arg rq 1 1) {}).grants % 2 ^ 64 ∧
      rd p 8 8 = (Tab.getD (arbiter s (arg rq 0 1)).stats (arg rq 1 1) {}).beats % 2 ^ 64 ∧
      rd p 16 8 = (Tab.getD (arbiter s (arg rq 0 1)).stats (arg rq 1 1) {}).discarded % 2 ^ 64)) ∧
  (Served cmdDutyStatus rq k s →
    ∃ t, exec (.dutyStatus rq) s = .next t ∧ Answers cmdDutyStatus rq k 52 t (fun p =>
      rd p 0 1 = s.duty.role.code % 256 ∧ rd p 1 1 = s.duty.sync.code % 256 ∧ rd p 4 4 = epochNow s % 2 ^ 32 ∧
      rd p 8 4 = s.duty.peerEpoch % 2 ^ 32 ∧ rd p 16 8 = s.duty.peerSerial % 2 ^ 64 ∧ rd p 24 8 = s.duty.peerFrontier % 2 ^ 64 ∧
      rd p 32 8 = s.duty.lastAcked % 2 ^ 64)) ∧
  (Served cmdDutyYield rq k s → arg rq 4 4 = 0 → arg rq 0 4 = epochNow s → s.duty.role = .duty → s.duty.sync = .inSync → s.duty.ownLow = true → s.duty.singleNext = false →
    ∃ t, exec (.dutyYield rq) s = .next t ∧ Accepts cmdDutyYield rq k t ∧ t.duty.yieldRef = some s.fol.nextRef ∧ t.duty.role = .undecided ∧ t.duty.ownLow = false ∧ t.duty.holding = false) ∧
  (Served cmdDutyTakeover rq k s → arg rq 4 4 = 0 → arg rq 0 4 = s.duty.peerEpoch → s.duty.role = .standby →
      mayClaim (setDuty (fun d => { d with forced := true }) s) = true →
    ∃ t, exec (.dutyTakeover rq) s = .next t ∧ t.duty.ownLow = true ∧ t.duty.claiming = true ∧ t.duty.forced = true ∧
      ∃ p, Reports 0x0D42 rq k stOk 0 p t ∧ rd p 0 4 = claimEpoch s % 2 ^ 32 ∧ rd p 4 8 = frontier s % 2 ^ 64) ∧
  (Served cmdDutyResync rq k s → arg rq 0 1 ≤ 1 → arg rq 1 3 = 0 → arg rq 4 4 = s.duty.peerEpoch → s.duty.role = .standby → s.duty.contact = true →
      s.duty.sync = .outOfSync →
    ∃ t, exec (.dutyResync rq) s = .next t ∧ Accepts cmdDutyResync rq k t ∧ t.duty.resyncRef = some s.fol.nextRef ∧ t.duty.sync = .copying)

/-- MET_ commands: status, sets, channels, rings, calibration, captures, demand and audit. For a request served over a
mailbox (its mailbox not BUSY, Folset taking requests, neither ASYNC nor DRYRUN, validation passed), with the payload and
state each clause names: MET_STATUS, MET_SET_READ, MET_CHANNEL_READ, MET_RING_STATUS and MET_AUDIT_READ answer the values the
state holds; MET_CAL_ARM opens the channel for the record; MET_CAL_CAPTURE waits to start; MET_DEMAND_SET and
MET_DEMAND_RESET are kept for the next tick. (R275, R276, R277, R278, R279, R280, R281, R282, R283) -/
def Obligations.MetrologyCommandsAnswer : Prop := ∀ (s : State) (rq : Request) (k : Nat),
  (Served cmdMetStatus rq k s →
    ∃ t, exec (.metStatus rq) s = .next t ∧ Answers cmdMetStatus rq k 80 t (fun p =>
      rd p 0 4 = s.met.calib.calibId % 2 ^ 32 ∧ rd p 4 4 = s.yrw.kernelSetId % 2 ^ 32 ∧
      rd p 8 1 = (sealClosed s 1).toNat + 2 * (sealClosed s 2).toNat ∧ rd p 10 2 = s.met.fieldEpoch % 65536 ∧
      rd p 12 4 = s.met.auditSeq % 2 ^ 32 ∧ rd p 20 4 = s.met.ms1Openings % 2 ^ 32 ∧ rd p 24 4 = s.met.ms2Openings % 2 ^ 32)) ∧
  (∀ e, Served cmdMetSetRead rq k s → arg rq 0 1 ≤ 31 → arg rq 1 3 = 0 → calSet s.met.calib (arg rq 0 1) = some e →
    ∃ t, exec (.metSetRead rq) s = .next t ∧ Answers cmdMetSetRead rq k 120 t (fun p =>
      rd p 0 1 = arg rq 0 1 ∧ rd p 1 1 = e.kind % 256 ∧ rd p 2 2 = setFlags s (arg rq 0 1) % 65536 ∧
      rd p 16 4 = (metSet s (arg rq 0 1)).freq % 2 ^ 32)) ∧
  (Served cmdMetChannelRead rq k s → arg rq 0 1 ≤ 191 → arg rq 1 3 = 0 → (calChannel s.met.calib (arg rq 0 1)).isSome = true →
      channelReachable s (arg rq 0 1) = true →
    ∃ t, exec (.metChannelRead rq) s = .next t ∧ Answers cmdMetChannelRead rq k 32 t (fun p =>
      rd p 0 1 = arg rq 0 1 ∧ rd p 1 1 = (metChan s (arg rq 0 1)).onSpare.toNat ∧ rd p 4 4 = (metChan s (arg rq 0 1)).rms % 2 ^ 32 ∧
      rd p 12 4 = (metChan s (arg rq 0 1)).peak % 2 ^ 32 ∧ rd p 22 2 = (metChan s (arg rq 0 1)).clips % 65536)) ∧
  (Served cmdMetRingStatus rq k s → arg rq 0 1 ≤ 1 → arg rq 1 3 = 0 →
    ∃ t, exec (.metRingStatus rq) s = .next t ∧ Answers cmdMetRingStatus rq k (16 + 4 * (ringOf s (arg rq 0 1)).positions.length) t (fun p =>
      rd p 0 1 = (ringOf s (arg rq 0 1)).phase.code % 256 ∧ rd p 4 4 = (ringOf s (arg rq 0 1)).recovered % 2 ^ 32 ∧
      rd p 8 4 = (ringOf s (arg rq 0 1)).lost % 2 ^ 32)) ∧
  (Served cmdMetCalArm rq k s → 1 ≤ arg rq 0 1 → arg rq 0 1 ≤ 7 → arg rq 1 3 = 0 → arg rq 4 4 ≠ 0 →
      (activationTick (.calib {}) (arg rq 8 8) s).isSome = true → 64 ≤ arg rq 16 4 → arg rq 16 4 ≤ 26176 → sealClosed s 1 = false →
      armBusy (.calib {}) s = false → channelIdle s (arg rq 0 1) = true → arg rq 0 1 < s.host.channels.length →
    ∃ t, exec (.metCalArm rq) s = .next t ∧ Accepts cmdMetCalArm rq k t ∧ Opens (arg rq 0 1) .fromHost 0x0510 (arg rq 4 4) t) ∧
  (Served cmdMetCalArm rq k s → 1 ≤ arg rq 0 1 → arg rq 0 1 ≤ 7 → arg rq 1 3 = 0 → arg rq 4 4 ≠ 0 →
      (activationTick (.calib {}) (arg rq 8 8) s).isSome = true → 64 ≤ arg rq 16 4 → arg rq 16 4 ≤ 26176 → sealClosed s 1 = true →
    ∃ t, exec (.metCalArm rq) s = .next t ∧ Reports 0x0510 rq k stDeniedSeal 1 [] t ∧ t.met = s.met) ∧
  (Served cmdMetCalCapture rq k s → (∀ i, i < 8 → arg rq i 1 ≤ 191 ∨ arg rq i 1 = 0xFF) →
      (∀ i, i < 8 → ∀ j, j < i → arg rq i 1 = 0xFF ∨ arg rq j 1 ≠ arg rq i 1) → arg rq 8 1 ≠ 0xFF → (∃ i, i < 8 ∧ arg rq i 1 = arg rq 8 1) →
      arg rq 9 1 = 0 → 1 ≤ arg rq 10 2 → arg rq 10 2 ≤ 1024 → sealClosed s 1 = false → s.met.capture = none →
      (∀ i, i < 8 → arg rq i 1 ≠ 0xFF → (calChannel s.met.calib (arg rq i 1)).isSome = true ∧ channelReachable s (arg rq i 1) = true) →
    ∃ t, exec (.metCalCapture rq) s = .next t ∧ Accepts cmdMetCalCapture rq k t ∧
      t.met.capture.map (fun c => (c.reference, c.stream, c.ticks)) = some (arg rq 8 1, 0, arg rq 10 2)) ∧
  (∀ e, Served cmdMetDemandSet rq k s → arg rq 0 1 ≤ 31 → arg rq 1 1 ≤ 3 → arg rq 2 1 ≤ 4 → calSet s.met.calib (arg rq 0 1) = some e →
      (e.kind = 4 → arg rq 2 1 ≠ 2 ∧ arg rq 2 1 ≠ 3) → demandIntervals.contains (arg rq 3 1) = true → 1 ≤ arg rq 4 1 → arg rq 4 1 ≤ 15 →
      60 * arg rq 3 1 % arg rq 4 1 = 0 → arg rq 5 3 = 0 →
    ∃ t, exec (.metDemandSet rq) s = .next t ∧
      Answers cmdMetDemandSet rq k 8 t (fun p => rd p 0 8 = boundaryFrom s (60000 * arg rq 3 1 / arg rq 4 1) (now s + 3) % 2 ^ 64) ∧
      (∃ d, d ∈ t.met.demandPending ∧ d.set = arg rq 0 1 ∧ d.reg = arg rq 1 1 ∧ d.quantity = arg rq 2 1 ∧ d.intervalMin = arg rq 3 1 ∧
        d.subCount = arg rq 4 1 ∧ d.tick = boundaryFrom s (60000 * arg rq 3 1 / arg rq 4 1) (now s + 3))) ∧
  (Served cmdMetDemandReset rq k s → arg rq 0 1 ≤ 31 → arg rq 1 1 < 16 → arg rq 1 1 ≠ 0 → arg rq 2 2 = 0 →
      (calSet s.met.calib (arg rq 0 1)).isSome = true →
      (∀ i, i < 4 → (arg rq 1 1).testBit i = true → (Tab.get (metSet s (arg rq 0 1)).demand i).isSome = true) →
    ∃ t, exec (.metDemandReset rq) s = .next t ∧ Answers cmdMetDemandReset rq k 8 t (fun p => rd p 0 8 = (now s + 1) % 2 ^ 64) ∧
      ∃ a b, t.met.demandResets = s.met.demandResets ++ [(arg rq 0 1, arg rq 1 1, now s + 1, a, b)]) ∧
  (Served cmdMetAuditRead rq k s → arg rq 0 4 < s.met.auditSeq → auditOldest s ≤ arg rq 0 4 → 1 ≤ arg rq 4 1 → arg rq 4 1 ≤ 7 → arg rq 5 3 = 0 →
    ∃ t, exec (.metAuditRead rq) s = .next t ∧ Answers cmdMetAuditRead rq k 232 t (fun p =>
      rd p 0 1 = ((s.met.audit.filter (fun a => arg rq 0 4 ≤ a.seq)).take (arg rq 4 1)).length))

/-- LED_ reads answer committed accounts, local sets and the journal. For a request served over a mailbox (its mailbox not
BUSY, Folset taking requests, neither ASYNC nor DRYRUN, validation passed), with the payload and state each clause names:
LED_STATUS answers the tariff generation, billing minute, journal sequence and token counts; LED_ACCOUNT_READ the committed
account in the asked part's length; LED_LOCAL_READ the committed local set; LED_JOURNAL_READ opens the channel to the host.
(R316, R323, R324) -/
def Obligations.LedgerReadsAnswer : Prop := ∀ (s : State) (rq : Request) (k : Nat),
  (Served cmdLedStatus rq k s →
    ∃ t, exec (.ledStatus rq) s = .next t ∧ Answers cmdLedStatus rq k 64 t (fun p =>
      rd p 24 4 = s.led.tariff.gen % 2 ^ 32 ∧ rd p 28 1 = s.led.billingMin % 256 ∧ rd p 40 4 = s.led.jseq % 2 ^ 32 ∧
      rd p 48 8 = s.led.tokensAccepted % 2 ^ 64 ∧ rd p 56 8 = s.led.tokensRejected % 2 ^ 64)) ∧
  (Served cmdLedAccountRead rq k s → arg rq 0 4 < 2 ^ 20 → arg rq 4 1 = 0 → arg rq 5 3 = 0 → accountDamaged s (arg rq 0 4) = false →
    ∃ t, exec (.ledAccountRead rq) s = .next t ∧ Answers cmdLedAccountRead rq k 104 t (fun p =>
      rd p 0 1 = 0 ∧ rd p 16 4 = ((committedAccount s (arg rq 0 4)).number + 2 ^ 20) % 2 ^ 32 ∧
      rd p 21 1 = (committedAccount s (arg rq 0 4)).plan % 256)) ∧
  (Served cmdLedAccountRead rq k s → arg rq 0 4 < 2 ^ 20 → arg rq 4 1 = 1 ∨ arg rq 4 1 = 2 → arg rq 5 3 = 0 →
      accountDamaged s (arg rq 0 4) = false →
    ∃ t, exec (.ledAccountRead rq) s = .next t ∧
      Answers cmdLedAccountRead rq k (if arg rq 4 1 = 1 then 152 else 20) t (fun p => rd p 0 1 = arg rq 4 1)) ∧
  (∀ r, Served cmdLedLocalRead rq k s → arg rq 0 1 ≤ 31 → arg rq 1 1 ≤ 5 → arg rq 2 2 = 0 → committedLocal s (arg rq 0 1) = some r →
    ∃ t, exec (.ledLocalRead rq) s = .next t ∧ Answers cmdLedLocalRead rq k (if arg rq 1 1 = 5 then 72 else 200) t (fun p =>
      rd p 0 1 = arg rq 0 1 ∧ rd p 1 1 = arg rq 1 1 ∧ (arg rq 1 1 = 0 → rd p 16 1 = r.set % 256 ∧ rd p 18 2 = r.epoch % 65536))) ∧
  (Served cmdLedJournalRead rq k s → 1 ≤ arg rq 0 1 → arg rq 0 1 ≤ 7 → arg rq 1 3 = 0 → arg rq 4 4 ≠ 0 → 1 ≤ arg rq 12 4 →
      arg rq 12 4 ≤ 4194304 → (∃ e ∈ s.led.journal, e.seq = arg rq 8 4) → channelIdle s (arg rq 0 1) = true →
      arg rq 0 1 < s.host.channels.length →
    ∃ t, exec (.ledJournalRead rq) s = .next t ∧ Accepts cmdLedJournalRead rq k t ∧
      (chan t (arg rq 0 1)).dir = .toHost ∧ (chan t (arg rq 0 1)).transfer.map (·.transferId) = some (arg rq 4 4))

/-- LED_ orders and tokens are accepted and wait for a ledger tick. For a request served over a mailbox (its mailbox not
BUSY, Folset taking requests, neither ASYNC nor DRYRUN, validation passed), with the payload and state each clause names:
LED_ACCOUNT_SET, LED_ADJUST, LED_SUPPLY and LED_ACCOUNT_RESTORE are accepted and change nothing in the ledger but the list of
orders, which takes one in at its end; LED_TOKEN_SUBMIT that verifies so far is accepted and joins the tokens that wait;
LED_TARIFF_ARM opens the channel for the table. (R317, R318, R319, R320, R321, R322) -/
def Obligations.LedgerOrdersAreAccepted : Prop := ∀ (s : State) (rq : Request) (k : Nat),
  (Served cmdLedAccountSet rq k s → firstFail (accountSetChecks rq.args s) = none →
      accountSetReady (committedAccount s (arg rq 0 4)) (accountDamaged s (arg rq 0 4)) (arg rq 4 1) = true →
    ∃ t, exec (.ledAccountSet rq) s = .next t ∧ Accepts cmdLedAccountSet rq k t ∧ t.led = { s.led with orders := s.led.orders ++
      [{ ref := s.fol.nextRef, opcode := 0x0602, account := arg rq 0 4, acceptedAt := s.time.uptime, body := rq.args }] }) ∧
  (Served cmdLedAdjust rq k s → arg rq 0 4 < 2 ^ 20 → arg rq 4 6 ≠ 0 → accountReady s (arg rq 0 4) = true →
    ∃ t, exec (.ledAdjust rq) s = .next t ∧ Accepts cmdLedAdjust rq k t ∧ t.led = { s.led with orders := s.led.orders ++
      [{ ref := s.fol.nextRef, opcode := 0x0604, account := arg rq 0 4, acceptedAt := s.time.uptime, body := rq.args }] }) ∧
  (Served cmdLedSupply rq k s → arg rq 0 4 < 2 ^ 20 → arg rq 4 1 ≤ 3 → arg rq 5 3 = 0 → accountReady s (arg rq 0 4) = true →
    ∃ t, exec (.ledSupply rq) s = .next t ∧ Accepts cmdLedSupply rq k t ∧ t.led = { s.led with orders := s.led.orders ++
      [{ ref := s.fol.nextRef, opcode := 0x0605, account := arg rq 0 4, acceptedAt := s.time.uptime, body := rq.args }] }) ∧
  (Served cmdLedAccountRestore rq k s → firstFail (imageChecks rq.args s) = none → accountDamaged s (arg rq 0 4 % 2 ^ 20) = true →
    ∃ t, exec (.ledAccountRestore rq) s = .next t ∧ Accepts cmdLedAccountRestore rq k t ∧ t.led = { s.led with orders := s.led.orders ++
      [{ ref := s.fol.nextRef, opcode := 0x0606, account := arg rq 0 4 % 2 ^ 20, acceptedAt := s.time.uptime, body := rq.args }] }) ∧
  (Served cmdLedTokenSubmit rq k s → arg rq 0 4 < 2 ^ 20 → (slice rq.args 4 20).all isDigit = true → arg rq 24 8 = 0 →
      (tokenArrival (arg rq 0 4) (digitsValue (slice rq.args 4 20)) false s).1 = 0 → tokensFull s = false →
    ∃ t, exec (.ledTokenSubmit rq) s = .next t ∧ Accepts cmdLedTokenSubmit rq k t ∧
      t.led.tokens.map (fun x => (x.account, x.value, x.keypad)) =
        s.led.tokens.map (fun x => (x.account, x.value, x.keypad)) ++ [(arg rq 0 4, digitsValue (slice rq.args 4 20), false)]) ∧
  (Served cmdLedTariffArm rq k s → 1 ≤ arg rq 0 1 → arg rq 0 1 ≤ 7 → (groupCheck rq.args 1 2).2.2 = true → arg rq 3 1 = 0 → arg rq 4 4 ≠ 0 →
      (activationTick (.tariff {}) (roundTick (arg rq 8 8)) s).isSome = true → 64 ≤ arg rq 16 4 → arg rq 16 4 ≤ 34208 →
      armBusy (.tariff {}) s = false → channelIdle s (arg rq 0 1) = true → arg rq 0 1 < s.host.channels.length →
    ∃ t, exec (.ledTariffArm rq) s = .next t ∧ Accepts cmdLedTariffArm rq k t ∧ (chan t (arg rq 0 1)).dir = .fromHost ∧
      (chan t (arg rq 0 1)).transfer.map (fun x => (x.opcode, x.transferId, x.expected)) = some (0x0610, arg rq 4 4, arg rq 16 4))

/-- BAL_ commands: status, model, rules, attribution pins, networks, history and suspicions. For a request served over a
mailbox (its mailbox not BUSY, Folset taking requests, neither ASYNC nor DRYRUN, validation passed), with the payload and
state each clause names: BAL_STATUS answers the counters; BAL_MODEL_ARM opens the channel; BAL_RULES_SET arms the rules at
the earliest round start and answers the round; BAL_ATTRIBUTE adds a pin, or an unpin, from the next window; BAL_NETWORK_READ
answers the latest record; BAL_HISTORY_READ opens the channel; BAL_SUSPICION_READ answers the suspicion; BAL_SUSPICION_CLOSE
closes it with the disposition at this tick. (R345, R353, R354, R355, R356, R357, R358, R359) -/
def Obligations.BalanceCommandsAnswer : Prop := ∀ (s : State) (rq : Request) (k : Nat),
  (Served cmdBalStatus rq k s →
    ∃ t, exec (.balStatus rq) s = .next t ∧ Answers cmdBalStatus rq k 56 t (fun p =>
      rd p 0 8 = s.bal.lastRound % 2 ^ 64 ∧ rd p 8 8 = s.bal.lastWindow % 2 ^ 64 ∧ rd p 16 4 = s.bal.model.nets.length % 2 ^ 32 ∧
      rd p 20 4 = s.bal.incomplete % 2 ^ 32 ∧ rd p 32 4 = s.bal.dropped % 2 ^ 32 ∧ rd p 36 4 = s.bal.model.gen % 2 ^ 32 ∧
      rd p 44 4 = s.bal.lateRounds % 2 ^ 32)) ∧
  (Served cmdBalModelArm rq k s → 1 ≤ arg rq 0 1 → arg rq 0 1 ≤ 7 → (groupCheck rq.args 1 2).2.2 = true → arg rq 3 1 = 0 → arg rq 4 4 ≠ 0 →
      (activationTick (.balModel {}) (roundTick (arg rq 8 8)) s).isSome = true → 16 ≤ arg rq 16 4 → arg rq 16 4 ≤ 262672 →
      armBusy (.balModel {}) s = false → channelIdle s (arg rq 0 1) = true → arg rq 0 1 < s.host.channels.length →
    ∃ t, exec (.balModelArm rq) s = .next t ∧ Accepts cmdBalModelArm rq k t ∧ Opens (arg rq 0 1) .fromHost 0x0701 (arg rq 4 4) t) ∧
  (Served cmdBalRulesSet rq k s → firstFail (rulesChecks rq.args) = none → armBusy (.rules (arg rq 0 1) (rulesOf rq.args)) s = false →
    ∃ t, exec (.balRulesSet rq) s = .next t ∧
      Answers cmdBalRulesSet rq k 8 t (fun p => rd p 0 8 = earliest (.rules (arg rq 0 1) (rulesOf rq.args)) s / 1024 % 2 ^ 64) ∧
      Armed (.rules (arg rq 0 1) (rulesOf rq.args)) (earliest (.rules (arg rq 0 1) (rulesOf rq.args)) s) t) ∧
  (Served cmdBalAttribute rq k s → arg rq 0 2 ≤ 8191 → arg rq 2 2 ≤ 511 → arg rq 4 1 = 0 → arg rq 5 1 ≤ 3 → arg rq 6 2 = 0 →
      (lastPin s (arg rq 0 2) (arg rq 2 2)).isSome = true ∨ pinCount s < 16384 →
    ∃ t, exec (.balAttribute rq) s = .next t ∧
      Answers cmdBalAttribute rq k 8 t (fun p => rd p 0 8 = windowStart s (windowSeq s (now s + 2) + 1) % 2 ^ 64) ∧
      t.bal.pins = s.bal.pins ++ [{ bridge := arg rq 0 2, node := arg rq 2 2, phase := some (arg rq 5 1), from' := windowSeq s (now s + 2) + 1 }]) ∧
  (Served cmdBalAttribute rq k s → arg rq 0 2 ≤ 8191 → arg rq 2 2 ≤ 511 → arg rq 4 1 = 1 → arg rq 5 1 = 0 → arg rq 6 2 = 0 →
      (lastPin s (arg rq 0 2) (arg rq 2 2)).isSome = true →
    ∃ t, exec (.balAttribute rq) s = .next t ∧
      t.bal.pins = s.bal.pins ++ [{ bridge := arg rq 0 2, node := arg rq 2 2, phase := none, from' := windowSeq s (now s + 2) + 1 }]) ∧
  (∀ r, Served cmdBalNetworkRead rq k s → arg rq 0 2 ≤ 8191 → arg rq 2 1 ≤ 3 → arg rq 3 1 = 0 →
      latestRecord s (arg rq 0 2) (arg rq 2 1) false = some r →
    ∃ t, exec (.balNetworkRead rq) s = .next t ∧ Answers cmdBalNetworkRead rq k (r.length + 20) t (fun p => p.take r.length = r)) ∧
  (Served cmdBalHistoryRead rq k s → 1 ≤ arg rq 0 1 → arg rq 0 1 ≤ 7 → arg rq 1 1 ≤ 7 → arg rq 4 4 ≠ 0 → 1 ≤ arg rq 16 2 →
      (arg rq 1 1 ≤ 3 → arg rq 2 2 + arg rq 16 2 ≤ 8192) → (4 ≤ arg rq 1 1 → arg rq 1 1 ≤ 6 → arg rq 2 2 + arg rq 16 2 ≤ 16) →
      (arg rq 1 1 = 7 → arg rq 2 2 + arg rq 16 2 ≤ 1) → arg rq 18 2 = 0 →
      1 ≤ arg rq 20 4 → arg rq 20 4 ≤ 16777216 → channelIdle s (arg rq 0 1) = true → arg rq 0 1 < s.host.channels.length →
    ∃ t, exec (.balHistoryRead rq) s = .next t ∧ Accepts cmdBalHistoryRead rq k t ∧ Opens (arg rq 0 1) .toHost 0x0711 (arg rq 4 4) t) ∧
  (∀ x, Served cmdBalSuspicionRead rq k s → findSuspicion s (arg rq 0 4) = some x →
    ∃ t, exec (.balSuspicionRead rq) s = .next t ∧ Answers cmdBalSuspicionRead rq k 128 t (fun p =>
      rd p 0 4 = x.id % 2 ^ 32 ∧ rd p 4 2 = x.subject % 65536 ∧ rd p 8 1 = x.state.code % 256 ∧ rd p 9 1 = x.disposition % 256)) ∧
  (∀ x, Served cmdBalSuspicionClose rq k s → 1 ≤ arg rq 4 1 → arg rq 4 1 ≤ 4 → arg rq 5 3 = 0 →
      findSuspicion s (arg rq 0 4) = some x → x.state ≠ .closed →
    ∃ t, exec (.balSuspicionClose rq) s = .next t ∧ Answers cmdBalSuspicionClose rq k 0 t (fun _ => True) ∧
      findSuspicion t (arg rq 0 4) = some { x with state := .closed, disposition := arg rq 4 1, closedTick := now s })

/-- STEM_ and PLC_ commands: bridges, transmit permits, power-line profiles and reads. For a request served over a mailbox
(its mailbox not BUSY, Folset taking requests, neither ASYNC nor DRYRUN, validation passed), with the payload and state each
clause names: STEM_STATUS answers the bridges by state and the counters; STEM_BRIDGE_SET adds the change for the next tick
and answers the state the bridge will have; STEM_TX_SET makes the permits wait for the named tick; STEM_BRIDGE_READ,
PLC_NETWORK_READ and PLC_NODE_READ answer what is held; PLC_POLL_SET arms the profile and answers its tick. (R390, R391,
R392, R393, R394, R395, R396) -/
def Obligations.StemCommandsTakeEffect : Prop := ∀ (s : State) (rq : Request) (k : Nat),
  (Served cmdStemStatus rq k s →
    ∃ t, exec (.stemStatus rq) s = .next t ∧ Answers cmdStemStatus rq k 40 t (fun p =>
      rd p 0 2 = (admitted s).length % 65536 ∧ rd p 2 2 = bridgesIn s .online % 65536 ∧ rd p 4 2 = bridgesIn s .silent % 65536 ∧
      rd p 6 2 = bridgesIn s .lost % 65536 ∧ rd p 8 2 = bridgesIn s .fenced % 65536 ∧ rd p 16 8 = s.stem.accepted % 2 ^ 64 ∧
      rd p 24 8 = s.stem.dropped % 2 ^ 64 ∧ rd p 32 4 = s.stem.repairs % 2 ^ 32 ∧ rd p 36 4 = s.stem.samplesLost % 2 ^ 32)) ∧
  (Served cmdStemBridgeSet rq k s → arg rq 0 2 ≤ 8191 → arg rq 2 1 ≤ 1 → firstFail (bridgeConfigChecks rq.args s) = none →
      (bridgeChange { bridge := arg rq 0 2, action := arg rq 2 1, config := readBridgeConfig rq.args } (bridgesAhead s)).isSome = true →
    ∃ t, exec (.stemBridgeSet rq) s = .next t ∧ Answers cmdStemBridgeSet rq k 8 t (fun p => rd p 0 1 =
        (bridgeAt ((bridgeChange { bridge := arg rq 0 2, action := arg rq 2 1, config := readBridgeConfig rq.args } (bridgesAhead s)).getD s) (arg rq 0 2)).phase.code % 256) ∧
      t.stem = { s.stem with changes := s.stem.changes ++ [{ bridge := arg rq 0 2, action := arg rq 2 1, config := readBridgeConfig rq.args }] }) ∧
  (Served cmdStemBridgeSet rq k s → arg rq 0 2 ≤ 8191 → 2 ≤ arg rq 2 1 → arg rq 2 1 ≤ 3 → (∀ i, i < 20 → 3 ≤ i → arg rq i 1 = 0) →
      arg rq 4 8 = 0 → arg rq 16 2 = 0 → arg rq 18 2 = 0 →
      (bridgeChange { bridge := arg rq 0 2, action := arg rq 2 1, config := readBridgeConfig rq.args } (bridgesAhead s)).isSome = true →
    ∃ t, exec (.stemBridgeSet rq) s = .next t ∧ Answers cmdStemBridgeSet rq k 8 t (fun p => rd p 0 1 =
        (bridgeAt ((bridgeChange { bridge := arg rq 0 2, action := arg rq 2 1, config := readBridgeConfig rq.args } (bridgesAhead s)).getD s) (arg rq 0 2)).phase.code % 256) ∧
      t.stem = { s.stem with changes := s.stem.changes ++ [{ bridge := arg rq 0 2, action := arg rq 2 1, config := readBridgeConfig rq.args }] }) ∧
  (∀ tick, Served cmdStemTxSet rq k s → 1 ≤ arg rq 2 2 → arg rq 0 2 + arg rq 2 2 ≤ 8192 → arg rq 4 1 < 16 → arg rq 5 1 ≤ 31 → arg rq 6 1 ≤ 31 →
      arg rq 7 1 ≤ 31 → activationTick (.txPlan []) (arg rq 8 8) s = some tick → (groupCheck rq.args 16 17).2.2 = true → arg rq 18 6 = 0 →
      armBusy (.txPlan []) s = false → pendingPlan s = none →
    ∃ t x, exec (.stemTxSet rq) s = .next t ∧ Accepts cmdStemTxSet rq k t ∧ x ∈ t.gens.waiting ∧ x.tick = tick ∧ x.ref = some s.fol.nextRef ∧
      x.table = .txPlan (permitRange s.stem.permits (arg rq 0 2) (arg rq 2 2) { media := arg rq 4 1, minAtten := [arg rq 5 1, arg rq 6 1, arg rq 7 1] })) ∧
  (Served cmdStemBridgeRead rq k s → arg rq 0 2 ≤ 8191 → arg rq 2 2 = 0 → (bridgeAt s (arg rq 0 2)).phase ≠ .absent →
    ∃ t, exec (.stemBridgeRead rq) s = .next t ∧ Answers cmdStemBridgeRead rq k 60 t (fun p =>
      rd p 0 1 = (bridgeAt s (arg rq 0 2)).phase.code % 256 ∧ rd p 1 1 = (bridgeAt s (arg rq 0 2)).config.kind % 256 ∧
      rd p 8 8 = (bridgeAt s (arg rq 0 2)).lastSample % 2 ^ 64)) ∧
  (∀ tick, Served cmdPlcPollSet rq k s → arg rq 0 1 ≤ 15 → 1 ≤ arg rq 1 1 → arg rq 1 1 ≤ 8 → arg rq 2 1 ≤ 3 → arg rq 3 1 ≤ 3 → 300 ≤ arg rq 4 2 →
      arg rq 4 2 ≤ 3600 → 10 ≤ arg rq 6 2 → arg rq 6 2 ≤ 600 → 60 ≤ arg rq 8 4 → arg rq 8 4 ≤ 86400 → arg rq 12 1 ≤ 8 → arg rq 13 3 = 0 →
      arg rq 16 5 < 2 ^ 36 → 18 ≤ popcount (arg rq 16 5) 36 → arg rq 21 3 = 0 →
      armBusy (.plcProfile (arg rq 0 1) {}) s = false → activationTick (.plcProfile (arg rq 0 1) {}) 0 s = some tick →
    ∃ t prof, exec (.plcPollSet rq) s = .next t ∧ Answers cmdPlcPollSet rq k 8 t (fun p => rd p 0 8 = tick % 2 ^ 64) ∧
      Armed (.plcProfile (arg rq 0 1) prof) tick t ∧ prof.maxHops = arg rq 1 1 ∧ prof.readPeriodS = arg rq 4 2 ∧ prof.toneMask = arg rq 16 5) ∧
  (Served cmdPlcNetworkRead rq k s → arg rq 0 2 ≤ 8191 → arg rq 2 2 = 0 → (bridgeAt s (arg rq 0 2)).phase ≠ .absent →
      (bridgeAt s (arg rq 0 2)).config.streams.testBit 0 = true →
    ∃ t, exec (.plcNetworkRead rq) s = .next t ∧ Answers cmdPlcNetworkRead rq k 64 t (fun p =>
      rd p 0 2 = arg rq 0 2 ∧ rd p 2 1 = (bridgeAt s (arg rq 0 2)).phase.code % 256 ∧
      rd p 4 2 = (accountsOn s (arg rq 0 2) false).length % 65536 ∧ rd p 12 4 = (netAt s (arg rq 0 2)).unknownMeters % 2 ^ 32)) ∧
  (Served cmdPlcNodeRead rq k s → arg rq 0 2 ≤ 8191 → arg rq 2 2 ≤ 511 → (bridgeAt s (arg rq 0 2)).phase ≠ .absent →
    ∃ t, exec (.plcNodeRead rq) s = .next t ∧ Answers cmdPlcNodeRead rq k 56 t (fun p =>
      rd p 8 4 = ((accountNaming s (arg rq 0 2) (arg rq 2 2) false).getD 0xFFFFFFFF) % 2 ^ 32 ∧
      rd p 13 1 = ((nodeAt s (arg rq 0 2) (arg rq 2 2)).ident.getD 0xFF) % 256 ∧
      rd p 48 8 = (nodeAt s (arg rq 0 2) (arg rq 2 2)).lastContact % 2 ^ 64))

/-- RF_ and MTR_ commands: radio networks, bindings, meter requests and firmware campaigns. For a request served over a mailbox
(its mailbox not BUSY, Folset taking requests, neither ASYNC nor DRYRUN, validation passed), with the payload and state each
clause names: RF_NETWORK_SET arms the configuration; RF_NETWORK_READ, RF_CONN_READ, MTR_READ and MTR_FW_STATUS answer what is
held, a connection of the account whose meter field names its node; MTR_BIND adds the binding for the next tick; MTR_REQUEST
queues the message to the meter; MTR_FW_STAGE opens the channel; MTR_FW_CAMPAIGN starts the campaign with its slot, bridges,
time, group and targets. (R426, R427, R428, R429, R430, R431, R432, R433, R434) -/
def Obligations.MeterCommandsTakeEffect : Prop := ∀ (s : State) (rq : Request) (k : Nat),
  (∀ tick, Served cmdRfNetworkSet rq k s → arg rq 0 2 ≤ 8191 → arg rq 2 1 = 0 → firstFail (rfChecks rq.args) = none →
      (bridgeAt (bridgesAhead s) (arg rq 0 2)).phase ≠ .absent → (bridgeAt (bridgesAhead s) (arg rq 0 2)).config.streams.testBit 1 = true →
      armBusy (.rfNet (arg rq 0 2) (some (readRf rq.args))) s = false →
      activationTick (.rfNet (arg rq 0 2) (some (readRf rq.args))) 0 s = some tick →
    ∃ t, exec (.rfNetworkSet rq) s = .next t ∧ Answers cmdRfNetworkSet rq k 8 t (fun p => rd p 0 8 = tick % 2 ^ 64) ∧
      Armed (.rfNet (arg rq 0 2) (some (readRf rq.args))) tick t) ∧
  (∀ r, Served cmdRfNetworkRead rq k s → arg rq 0 2 ≤ 8191 → arg rq 2 2 = 0 → rfAt s (arg rq 0 2) = some r →
    ∃ t, exec (.rfNetworkRead rq) s = .next t ∧ Answers cmdRfNetworkRead rq k 40 t (fun p =>
      rd p 0 1 = r.config.kind % 256 ∧ rd p 1 1 = r.config.band % 256 ∧ rd p 2 1 = r.config.block % 256 ∧ rd p 3 1 = r.config.mode % 256 ∧
      rd p 6 2 = r.conns.countP (fun e => e.2.phase == .connected) % 65536 ∧ rd p 32 8 = r.lastBeacon % 2 ^ 64)) ∧
  (∀ a, Served cmdRfConnRead rq k s → arg rq 0 2 ≤ 8191 → arg rq 2 2 ≤ 511 → accountNaming s (arg rq 0 2) (arg rq 2 2) true = some a →
    ∃ t, exec (.rfConnRead rq) s = .next t ∧ Answers cmdRfConnRead rq k 48 t (fun p =>
      rd p 4 4 = ((connOf s (arg rq 0 2) (arg rq 2 2)).getD { account := a }).event % 2 ^ 32 ∧
      rd p 16 4 = ((meterOf s a).getD { serial := 0 }).up % 2 ^ 32 ∧ rd p 20 4 = ((meterOf s a).getD { serial := 0 }).down % 2 ^ 32)) ∧
  (Served cmdMtrBind rq k s → arg rq 0 8 ≠ 0 → arg rq 8 4 < 2 ^ 20 → arg rq 12 1 = 0 → arg rq 13 3 = 0 → (bindingsAhead s).length < 1048576 →
      (bindingsAhead s).any (fun e => e.2 == arg rq 0 8) = false → Tab.get (bindingsAhead s) (arg rq 8 4) = none →
    ∃ t, exec (.mtrBind rq) s = .next t ∧ Reports 0x0940 rq k stOk 0 [] t ∧
      t.mtr = { s.mtr with changes := s.mtr.changes ++ [(true, arg rq 0 8, arg rq 8 4)] }) ∧
  (∀ m, Served cmdMtrRead rq k s → arg rq 0 4 < 2 ^ 20 → meterOf s (arg rq 0 4) = some m →
    ∃ t, exec (.mtrRead rq) s = .next t ∧ Answers cmdMtrRead rq k 48 t (fun p =>
      rd p 0 8 = m.serial % 2 ^ 64 ∧ rd p 8 4 = m.model % 2 ^ 32 ∧ rd p 12 4 = m.fw % 2 ^ 32 ∧ rd p 16 1 = m.phases % 256 ∧
      rd p 40 8 = m.lastReading % 2 ^ 64)) ∧
  (∀ m, Served cmdMtrRequest rq k s → arg rq 0 4 < 2 ^ 20 → arg rq 4 1 = 0 → arg rq 5 3 = 0 → meterOf s (arg rq 0 4) = some m →
      meterReached s (arg rq 0 4) = true → m.request = none →
    ∃ t x, exec (.mtrRequest rq) s = .next t ∧ Accepts cmdMtrRequest rq k t ∧ meterOf t (arg rq 0 4) = some x ∧
      x.request = some { ref := s.fol.nextRef, action := 0, at' := s.time.uptime } ∧
      x.queue.getLast? = some { type := msgReadReq, body := [], level := 1, since := now s, request := some s.fol.nextRef }) ∧
  (Served cmdMtrFwStage rq k s → 1 ≤ arg rq 0 1 → arg rq 0 1 ≤ 7 → arg rq 0 1 < s.host.channels.length → arg rq 1 1 ≤ 15 → arg rq 2 2 = 0 → arg rq 4 4 ≠ 0 →
      1 ≤ arg rq 8 4 → arg rq 8 4 ≤ 8388608 → slotUsed s (arg rq 1 1) = false → channelIdle s (arg rq 0 1) = true →
    ∃ t, exec (.mtrFwStage rq) s = .next t ∧ Accepts cmdMtrFwStage rq k t ∧ Opens (arg rq 0 1) .fromHost 0x0950 (arg rq 4 4) t) ∧
  (∀ g image, Served cmdMtrFwCampaign rq k s → 1 ≤ arg rq 0 2 → arg rq 2 1 = 0 → Tab.get s.mtr.campaigns (arg rq 0 2) = none → arg rq 3 1 ≤ 15 →
      1 ≤ arg rq 6 2 → arg rq 4 2 + arg rq 6 2 ≤ 8192 → now s + 10000 ≤ arg rq 8 8 → 1 ≤ arg rq 16 1 → arg rq 16 1 ≤ 16 → 1 ≤ arg rq 17 1 →
      arg rq 18 6 = 0 → Tab.get s.mtr.images (arg rq 3 1) = some image → image.verified = true →
      s.mtr.campaigns.countP (fun e => e.2.running) < 4 → freeGroup s (arg rq 4 2) (arg rq 6 2) = some g →
    ∃ t x, exec (.mtrFwCampaign rq) s = .next t ∧ Accepts cmdMtrFwCampaign rq k t ∧ Tab.get t.mtr.campaigns (arg rq 0 2) = some x ∧
      x.ref = some s.fol.nextRef ∧ x.slot = arg rq 3 1 ∧ x.first = arg rq 4 2 ∧ x.count = arg rq 6 2 ∧ x.activateTime = arg rq 8 8 ∧ x.group = g ∧
      x.targets = campaignTargets s (arg rq 4 2) (arg rq 6 2) image.model) ∧
  (∀ x, Served cmdMtrFwStatus rq k s → arg rq 2 2 = 0 → Tab.get s.mtr.campaigns (arg rq 0 2) = some x →
    ∃ t, exec (.mtrFwStatus rq) s = .next t ∧ Answers cmdMtrFwStatus rq k 32 t (fun p =>
      rd p 0 1 = x.phase.code % 256 ∧ rd p 1 1 = x.repairRound % 256 ∧ rd p 4 4 = x.targets.length % 2 ^ 32 ∧
      rd p 8 4 = x.complete % 2 ^ 32 ∧ rd p 12 4 = x.activated % 2 ^ 32 ∧ rd p 24 8 = x.activateTime % 2 ^ 64))

/-- CHG_ commands: status, points, paths, buses, identities, grants and stops. For a request served over a mailbox (its
mailbox not BUSY, Folset taking requests, neither ASYNC nor DRYRUN, validation passed), with the payload and state each
clause names: CHG_STATUS and CHG_POINT_READ answer the state; CHG_POINT_SET, CHG_PATH_SET and CHG_BUS_SET arm what they set;
CHG_ID_SET edits the identities; CHG_AUTHORISE grants or refuses; CHG_STOP brings the named point to its stop. (R464, R465,
R466, R467, R468, R469, R470, R471) -/
def Obligations.ChargingCommandsTakeEffect : Prop := ∀ (s : State) (rq : Request) (k : Nat),
  (Served cmdChgStatus rq k s →
    ∃ t, exec (.chgStatus rq) s = .next t ∧ Answers cmdChgStatus rq k 24 t (fun p =>
      rd p 0 2 = bitsOf 16 (fun j => pointWhy s j == 0) % 65536 ∧ rd p 2 2 = bitsOf 16 (fun j => (pointAt s j).session != 0) % 65536 ∧
      rd p 7 1 = cap 255 s.chg.stale % 256 ∧ rd p 8 4 = s.chg.sessionsTotal % 2 ^ 32 ∧ rd p 12 4 = s.chg.trips % 2 ^ 32 ∧
      rd p 16 4 = s.chg.cards.length % 2 ^ 32 ∧ rd p 20 4 = s.chg.contracts.length % 2 ^ 32)) ∧
  (∀ cfg, Served cmdChgPointRead rq k s → arg rq 0 1 ≤ 15 → arg rq 1 3 = 0 → (pointAt s (arg rq 0 1)).config = some cfg →
    ∃ t, exec (.chgPointRead rq) s = .next t ∧ Answers cmdChgPointRead rq k 68 t (fun p =>
      rd p 0 1 = (pointAt s (arg rq 0 1)).phase.code % 256 ∧ rd p 1 1 = (pointAt s (arg rq 0 1)).pilot.code % 256 ∧
      rd p 2 1 = pointWhy s (arg rq 0 1) % 256 ∧ rd p 16 2 = cap 0xFFFF (pointAt s (arg rq 0 1)).rcmDc % 65536 ∧
      rd p 28 4 = (pointAt s (arg rq 0 1)).session % 2 ^ 32)) ∧
  (Served cmdChgPointSet rq k s → arg rq 0 1 ≤ 15 → arg rq 1 1 = 0 → arg rq 2 1 ≤ 2 →
      (arg rq 2 1 = 0 → firstFail (unusedChecks rq.args) = none) →
      (arg rq 2 1 ≠ 0 → firstFail (pointChecks (arg rq 0 1) rq.args s) = none) →
      (∀ old, (pointAt s (arg rq 0 1)).config = some old → (pointAt s (arg rq 0 1)).phase.live = true →
        sessionChangeOk old (readPoint rq.args) = true) →
      armBusy (.chgPoint (arg rq 0 1) (readPoint rq.args)) s = false →
    ∃ t, exec (.chgPointSet rq) s = .next t ∧ Answers cmdChgPointSet rq k 8 t (fun p => rd p 0 8 = (now s + 3) % 2 ^ 64) ∧
      Armed (.chgPoint (arg rq 0 1) (readPoint rq.args)) (now s + 3) t) ∧
  (Served cmdChgPathSet rq k s → arg rq 0 1 ≤ 15 → arg rq 1 1 = 0xFF → 1 ≤ arg rq 4 4 → arg rq 4 4 ≤ 100000 → arg rq 8 4 < arg rq 4 4 →
      arg rq 12 1 < 2 → arg rq 13 3 = 0 → armBusy (.chgPath (arg rq 0 1) none) s = false →
    ∃ t, exec (.chgPathSet rq) s = .next t ∧ Answers cmdChgPathSet rq k 8 t (fun p => rd p 0 8 = (now s + 3) % 2 ^ 64) ∧
      Armed (.chgPath (arg rq 0 1) none) (now s + 3) t) ∧
  (∀ e, Served cmdChgPathSet rq k s → arg rq 0 1 ≤ 15 → arg rq 1 1 ≤ 15 → calSet s.met.calib (arg rq 1 1) = some e → e.location = 0 →
      (∀ i, i < 16 → ∀ j, j < 16 → j ≠ arg rq 0 1 → (arg rq 2 2).testBit i = true → (nextMembers s j).testBit i = false) →
      1 ≤ arg rq 4 4 → arg rq 4 4 ≤ 100000 → arg rq 8 4 < arg rq 4 4 → arg rq 12 1 < 2 → arg rq 13 3 = 0 →
      armBusy (.chgPath (arg rq 0 1) none) s = false →
    ∃ t, exec (.chgPathSet rq) s = .next t ∧ Answers cmdChgPathSet rq k 8 t (fun p => rd p 0 8 = (now s + 3) % 2 ^ 64) ∧
      Armed (.chgPath (arg rq 0 1) (some { headSet := arg rq 1 1, members := arg rq 2 2, limitKva := arg rq 4 4, reserveKva := arg rq 8 4, exportOk := (arg rq 12 1).testBit 0 })) (now s + 3) t) ∧
  (Served cmdChgBusSet rq k s → arg rq 0 1 ≤ 3 → arg rq 1 1 ≤ 1 → arg rq 2 1 ≤ 1 → arg rq 3 1 ≤ 12 → arg rq 4 1 ≤ 12 → arg rq 5 1 ≤ 1 →
      arg rq 6 2 = 0 → (busNodes s (arg rq 0 1) 16).length ≤ 2 →
      (∀ j, j < 16 → (pointAt s j).session = 0) →
      armBusy (.chgBus (arg rq 0 1) {}) s = false →
    ∃ t, exec (.chgBusSet rq) s = .next t ∧ Answers cmdChgBusSet rq k 8 t (fun p => rd p 0 8 = (now s + 3) % 2 ^ 64) ∧
      Armed (.chgBus (arg rq 0 1) { arbRate := arg rq 1 1, dataRate := arg rq 2 1, arbSample := arg rq 3 1, dataSample := arg rq 4 1, termination := arg rq 5 1 == 1 }) (now s + 3) t) ∧
  (Served cmdChgIdSet rq k s → arg rq 0 1 = 0 → arg rq 1 1 ≤ 1 → arg rq 2 1 ≤ 15 → arg rq 20 1 = 0 →
      (slice rq.args 24 15).all (· == 0) = true → arg rq 3 1 < 2 → arg rq 6 2 = 0 → arg rq 16 4 < 2 ^ 20 → arg rq 21 3 = 0 → arg rq 39 1 = 0 →
      (arg rq 1 1 = 1 → idExists rq.args (idAhead s) = true) →
      (arg rq 1 1 = 0 → idExists rq.args (idAhead s) = true ∨ (idAhead s).cards.length < 65536) →
    ∃ t, exec (.chgIdSet rq) s = .next t ∧ Answers cmdChgIdSet rq k 0 t (fun _ => True) ∧
      t.chg = { s.chg with idNext := s.chg.idNext ++ [rq.args] }) ∧
  (Served cmdChgAuthorise rq k s → arg rq 0 1 ≤ 15 → arg rq 0 1 < s.chg.points.length → arg rq 1 1 = 0 → arg rq 2 2 = 0 → arg rq 4 4 < 2 ^ 20 →
      arg rq 8 4 = 0 → (∀ x ∈ s.chg.seen, x.id ≠ 0) → groupArmed s (arg rq 0 1) = true → (pointAt s (arg rq 0 1)).phase = .idle →
    ∃ t, exec (.chgAuthorise rq) s = .next t ∧ Accepts cmdChgAuthorise rq k t ∧ (pointAt t (arg rq 0 1)).phase = .idle ∧
      (pointAt t (arg rq 0 1)).grant = some { account := arg rq 4 4, ident := 3, card := none, energyCapWh := arg rq 12 4, moneyCap := arg rq 16 4, ref := some s.fol.nextRef, at' := s.time.uptime }) ∧
  (Served cmdChgStop rq k s → arg rq 0 1 ≤ 15 → arg rq 0 1 < s.chg.points.length → arg rq 1 3 = 0 → (pointAt s (arg rq 0 1)).session ≠ 0 →
      (pointAt s (arg rq 0 1)).phase = .prepare ∨ (pointAt s (arg rq 0 1)).phase = .energy ∨ (pointAt s (arg rq 0 1)).phase = .paused →
    ∃ t, exec (.chgStop rq) s = .next t ∧ Accepts cmdChgStop rq k t ∧ (pointAt t (arg rq 0 1)).phase = .stopping ∧
      (pointAt t (arg rq 0 1)).endReason = 2 ∧ s.fol.nextRef ∈ (pointAt t (arg rq 0 1)).stops)

/-- FIO_LS_ and SAF_ commands: switches, safety inputs and safety outputs. For a request served over a mailbox (its mailbox
not BUSY, Folset taking requests, neither ASYNC nor DRYRUN, validation passed), with the payload and state each clause names:
FIO_LS_CONFIG arms the configuration three ticks ahead; FIO_LS_SET keeps on, off or clear for the next tick; FIO_LS_READ and
SAF_STATUS answer what is held; SAF_INPUT_SET arms a configuration that does not reduce coverage three ticks ahead, or keeps
a reset for the next tick; SAF_OUTPUT_SET keeps the command for the next tick. (R497, R498, R499, R503, R504, R505) -/
def Obligations.FieldCommandsTakeEffect : Prop := ∀ (s : State) (rq : Request) (k : Nat),
  (Served cmdFioLsConfig rq k s → arg rq 0 1 < lsCount s → arg rq 1 1 ≤ 4 → lsParamOk (arg rq 1 1) (arg rq 2 1) = true →
      (arg rq 1 1 = 3 ∨ arg rq 1 1 = 4 → lsPointTaken s (arg rq 0 1) (readLsConfig rq.args).use (readLsConfig rq.args).param = false) →
      arg rq 3 1 ≤ 4 → 1 ≤ arg rq 4 1 → arg rq 4 1 ≤ 100 → (arg rq 1 1 = 1 → arg rq 5 1 ≤ 1) → (arg rq 1 1 ≠ 1 → arg rq 5 1 = 0) →
      arg rq 6 1 < 4 → arg rq 7 1 = 0 → (arg rq 1 1 = 4 → arg rq 8 2 ≤ 600) → (arg rq 1 1 ≠ 4 → arg rq 8 2 = 0) → arg rq 10 6 = 0 →
      armBusy (.lsConfig (arg rq 0 1) (readLsConfig rq.args)) s = false →
    ∃ t, exec (.fioLsConfig rq) s = .next t ∧
      Answers cmdFioLsConfig rq k 8 t (fun p => rd p 0 8 = (now s + 3) % 2 ^ 64) ∧
      Armed (.lsConfig (arg rq 0 1) (readLsConfig rq.args)) (now s + 3) t) ∧
  (Served cmdFioLsSet rq k s → arg rq 0 8 < 2 ^ lsCount s → arg rq 8 1 ≤ 1 → arg rq 9 7 = 0 →
      (∀ j, j < lsCount s → (arg rq 0 8).testBit j = true → (lsAt s j).config.use = .host) →
    ∃ t, exec (.fioLsSet rq) s = .next t ∧ Answers cmdFioLsSet rq k 8 t (fun p => rd p 0 8 = (now s + 1) % 2 ^ 64) ∧
      t.fio = { s.fio with lsNext := s.fio.lsNext ++ [(arg rq 0 8, arg rq 8 1)] }) ∧
  (Served cmdFioLsSet rq k s → arg rq 0 8 < 2 ^ lsCount s → arg rq 8 1 = 2 → arg rq 9 7 = 0 →
      (∀ j, j < lsCount s → (arg rq 0 8).testBit j = true → lsClearable s (lsAt s j) = true) →
    ∃ t, exec (.fioLsSet rq) s = .next t ∧ Answers cmdFioLsSet rq k 8 t (fun p => rd p 0 8 = (now s + 1) % 2 ^ 64) ∧
      t.fio = { s.fio with lsNext := s.fio.lsNext ++ [(arg rq 0 8, 2)] }) ∧
  (Served cmdFioLsRead rq k s → arg rq 0 1 < lsCount s → arg rq 1 1 = 0 → arg rq 2 2 = 0 →
    ∃ t, exec (.fioLsRead rq) s = .next t ∧ Answers cmdFioLsRead rq k 16 t (fun p =>
      rd p 2 1 = (lsAt s (arg rq 0 1)).config.use.code % 256 ∧ rd p 3 1 = (lsAt s (arg rq 0 1)).config.wire % 256 ∧
      rd p 6 2 = (lsAt s (arg rq 0 1)).trips % 65536 ∧ rd p 8 2 = 0)) ∧
  (Served cmdSafStatus rq k s →
    ∃ t, exec (.safStatus rq) s = .next t ∧ Answers cmdSafStatus rq k 20 t (fun p =>
      rd p 4 2 = bitsOf 16 (fun j => (outputAt s j).on) % 65536 ∧ rd p 6 2 = bitsOf 16 (fun j => (outputAt s j).fault) % 65536 ∧
      rd p 13 1 = bitsOf 8 (fun i => sealInForce s (i + 3)) % 256 ∧ rd p 14 1 = bitsOf 8 (fun i => sealClosed s (i + 3)) % 256 ∧
      rd p 16 2 = cap 0xFFFF s.fio.fieldDv % 65536 ∧ rd p 18 2 = cap 0xFFFF s.fio.fieldDa % 65536)) ∧
  (Served cmdSafInputSet rq k s → arg rq 0 1 ≤ 15 → arg rq 1 1 = 1 → (∀ i, i < 16 → 2 ≤ i → arg rq i 1 = 0) →
      arg rq 6 2 = 0 → arg rq 8 2 = 0 → arg rq 10 2 = 0 → arg rq 13 3 = 0 →
      (inputAt s (arg rq 0 1)).phase = .fault → (inputAt s (arg rq 0 1)).a.demand = true → (inputAt s (arg rq 0 1)).b.demand = true →
    ∃ t, exec (.safInputSet rq) s = .next t ∧ Answers cmdSafInputSet rq k 8 t (fun p => rd p 0 8 = (now s + 1) % 2 ^ 64) ∧
      t.fio = { s.fio with resets := s.fio.resets ++ [arg rq 0 1] }) ∧
  (Served cmdSafInputSet rq k s → arg rq 0 1 ≤ 15 → arg rq 1 1 = 0 → firstFail (safInputChecks rq.args s) = none →
      reducesCoverage (inputAt s (arg rq 0 1)).config (readInputConfig rq.args) = false →
      (coverage (inputAt s (arg rq 0 1)).config ++ coverage (readInputConfig rq.args)).any (fun j => (pointAt s j).phase.live) = false →
      armBusy (.safInput (arg rq 0 1) (readInputConfig rq.args)) s = false →
    ∃ t, exec (.safInputSet rq) s = .next t ∧ Answers cmdSafInputSet rq k 8 t (fun p => rd p 0 8 = (now s + 3) % 2 ^ 64) ∧
      Armed (.safInput (arg rq 0 1) (readInputConfig rq.args)) (now s + 3) t) ∧
  (Served cmdSafOutputSet rq k s → arg rq 0 1 ≤ 15 → pointConfigured s (arg rq 0 1) = false → arg rq 1 1 ≤ 1 → arg rq 2 2 = 0 →
    ∃ t, exec (.safOutputSet rq) s = .next t ∧ Answers cmdSafOutputSet rq k 8 t (fun p => rd p 0 8 = (now s + 1) % 2 ^ 64) ∧
      t.fio = { s.fio with soNext := s.fio.soNext ++ [(arg rq 0 1, arg rq 1 1 == 1)] })

/-- FIO_PANEL_ commands: profiles, drawings and status. For a request served over a mailbox (its mailbox not BUSY, Folset
taking requests, neither ASYNC nor DRYRUN, validation passed), with the payload and state each clause names: FIO_PANEL_SET
keeps or drops the profile and changes nothing else in field I/O; FIO_PANEL_DRAW opens the channel for the image, or queues a
drawing whose data is in the request and whose CRC holds; FIO_PANEL_READ answers state, drawings under way and counters.
(R500, R501, R502) -/
def Obligations.PanelCommandsTakeEffect : Prop := ∀ (s : State) (rq : Request) (k : Nat),
  (Served cmdFioPanelSet rq k s → arg rq 0 1 ≤ 1 → arg rq 1 1 = 0 → firstFail (panelChecks rq.args) = none →
    ∃ t, exec (.fioPanelSet rq) s = .next t ∧ Reports 0x0B10 rq k stOk 0 [] t ∧
      t.fio = (setPanel (arg rq 0 1) (fun x => { x with kept := some (readPanelProfile rq.args) }) s).fio) ∧
  (Served cmdFioPanelSet rq k s → arg rq 0 1 ≤ 1 → arg rq 1 1 = 1 → (∀ i, i < 28 → 2 ≤ i → arg rq i 1 = 0) →
      (slice rq.args 28 192).all (· == 0) = true → drawsWaiting (panelAt s (arg rq 0 1)) = 0 →
    ∃ t, exec (.fioPanelSet rq) s = .next t ∧ Reports 0x0B10 rq k stOk 0 [] t ∧
      t.fio = (setPanel (arg rq 0 1) (fun x => { x with kept := none }) s).fio) ∧
  (∀ f, Served cmdFioPanelDraw rq k s → arg rq 0 1 ≤ 1 → arg rq 1 1 ≤ 1 → 1 ≤ arg rq 2 1 → arg rq 2 1 ≤ 7 → arg rq 2 1 < s.host.channels.length →
      arg rq 3 1 = 0 → arg rq 4 4 ≠ 0 → drawProfile (panelAt s (arg rq 0 1)) = some f → firstFail (drawChecks f rq.args) = none →
      s.pwr.mode ≠ .vigil → channelIdle s (arg rq 2 1) = true →
      (panelAt s (arg rq 0 1)).queue.length + (panelAt s (arg rq 0 1)).issuing.isSome.toNat + drawsArriving s (arg rq 0 1) < 32 →
    ∃ t, exec (.fioPanelDraw rq) s = .next t ∧ Accepts cmdFioPanelDraw rq k t ∧ Opens (arg rq 2 1) .fromHost 0x0B11 (arg rq 4 4) t) ∧
  (∀ f, Served cmdFioPanelDraw rq k s → arg rq 0 1 ≤ 1 → arg rq 1 1 ≤ 1 → arg rq 2 1 = 0 → arg rq 3 1 = 0 → arg rq 4 4 = 0 →
      drawProfile (panelAt s (arg rq 0 1)) = some f → firstFail (drawChecks f rq.args) = none →
      crc32 (slice rq.args 24 (arg rq 16 4)) = arg rq 20 4 →
      (panelAt s (arg rq 0 1)).queue.length + (panelAt s (arg rq 0 1)).issuing.isSome.toNat + drawsArriving s (arg rq 0 1) < 32 →
    ∃ t, exec (.fioPanelDraw rq) s = .next t ∧ Accepts cmdFioPanelDraw rq k t ∧
      t.fio = (queueDraw (arg rq 0 1) (readDraw s.fol.nextRef rq.args (slice rq.args 24 (arg rq 16 4))) s).fio) ∧
  (Served cmdFioPanelRead rq k s → arg rq 0 1 ≤ 1 → arg rq 1 3 = 0 →
    ∃ t, exec (.fioPanelRead rq) s = .next t ∧ Answers cmdFioPanelRead rq k 12 t (fun p =>
      rd p 0 1 = panelCode (panelAt s (arg rq 0 1)) % 256 ∧ rd p 1 1 = (panelAt s (arg rq 0 1)).inFlight.length % 256 ∧
      rd p 4 4 = (panelAt s (arg rq 0 1)).draws % 2 ^ 32 ∧ rd p 8 4 = (panelAt s (arg rq 0 1)).faults % 2 ^ 32))

/-- VLT_ commands: slots, certificates, attestation and engine tests. For a request served over a mailbox (its mailbox not
BUSY, Folset taking requests, neither ASYNC nor DRYRUN, validation passed), with the payload and state each clause names:
VLT_STATUS, VLT_SLOT_READ and VLT_ENGINE action 0 answer what is held; VLT_SLOT_WRITE and VLT_SLOT_DESTROY make the change
wait three ticks; VLT_CERT_SET opens the channel, or clears an entry three ticks ahead; VLT_ATTEST answers the statement's
fields and counts towards the rate limit; VLT_ENGINE action 1 starts the test and changes nothing else in the vault. (R531,
R532, R533, R534, R535, R536, R506) -/
def Obligations.VaultCommandsTakeEffect : Prop := ∀ (s : State) (rq : Request) (k : Nat),
  (Served cmdVltStatus rq k s →
    ∃ t, exec (.vltStatus rq) s = .next t ∧ Answers cmdVltStatus rq k 32 t (fun p =>
      rd p 2 2 = (if s.vlt.zeroised then 4096 else (slotNumbers s).countP (fun n => (slotInForce s n).isNone)) % 65536 ∧
      rd p 4 2 = s.vlt.slots.countP (fun e => e.2.change.isSome) % 65536 ∧ rd p 16 8 = s.vlt.derivations % 2 ^ 64 ∧
      rd p 24 4 = s.vlt.refusals % 2 ^ 32 ∧ rd p 28 4 = s.vlt.testFailures % 2 ^ 32)) ∧
  (∀ row, Served cmdVltSlotWrite rq k s → arg rq 0 2 ≤ 4095 → arg rq 0 2 ≠ 0 → (arg rq 0 2 < 64 ∨ 127 < arg rq 0 2) →
      findPurpose (attrPurpose (arg rq 4 8)) = some row → row.low ≤ arg rq 0 2 → arg rq 0 2 ≤ row.high → arg rq 2 1 = 0 → arg rq 3 1 = 0 →
      arg rq 4 8 % 16 = 0 → arg rq 4 8 < 2 ^ 39 → row.types.contains (attrType (arg rq 4 8)) = true → attrDest (arg rq 4 8) = row.dest →
      indexPermitted row.code (attrIndex (arg rq 4 8)) (arg rq 0 2) = true → attrRoles (arg rq 4 8) < 32 →
      (attrPurpose (arg rq 4 8) = 11 ∨ (attrRoles (arg rq 4 8) = 0 ∧ attrUdp (arg rq 4 8) = false)) →
      heldElsewhere s (arg rq 0 2) (attrPurpose (arg rq 4 8)) (attrIndex (arg rq 4 8)) = false → arg rq 12 4 = 0 → arg rq 16 8 = 0 →
      materialFits (attrType (arg rq 4 8)) (pad (materialLen (attrType (arg rq 4 8))) (slice rq.args 24 64)) = true →
      categoryWritable s.fol.lifecycle row.category = true → (slotAt s (arg rq 0 2)).change = none →
    ∃ t x p, exec (.vltSlotWrite rq) s = .next t ∧ Reports 0x0C01 rq k stOk 0 p t ∧ rd p 0 2 = nextSlotGen s (arg rq 0 2) % 65536 ∧
      rd p 8 8 = (now s + 3) % 2 ^ 64 ∧ (slotAt t (arg rq 0 2)).change = some x ∧ x.kind = 1 ∧ x.tick = now s + 3 ∧
      x.material = slice rq.args 24 64 ∧ x.attr = arg rq 4 8 + row.category) ∧
  (∀ c, Served cmdVltSlotRead rq k s → arg rq 0 2 ≤ 4095 → arg rq 2 2 = 0 → slotInForce s (arg rq 0 2) = some c → (slotAt s (arg rq 0 2)).change = none →
    ∃ t p, exec (.vltSlotRead rq) s = .next t ∧ Reports 0x0C02 rq k stOk 0 p t ∧
      rd p 0 1 = (if attrCategory c.attr = 0 then 0 else 1) ∧ rd p 4 8 = c.attr % 2 ^ 64) ∧
  (∀ c, Served cmdVltSlotDestroy rq k s → arg rq 0 2 ≤ 4095 → arg rq 0 2 ≠ 0 → (arg rq 0 2 < 64 ∨ 127 < arg rq 0 2) → arg rq 2 6 = 0 → arg rq 8 8 = 0 →
      slotInForce s (arg rq 0 2) = some c → attrCategory c.attr ≠ 0 → categoryWritable s.fol.lifecycle (attrCategory c.attr) = true →
      (slotAt s (arg rq 0 2)).change = none →
    ∃ t x, exec (.vltSlotDestroy rq) s = .next t ∧ Answers cmdVltSlotDestroy rq k 8 t (fun p => rd p 0 8 = (now s + 3) % 2 ^ 64) ∧
      (slotAt t (arg rq 0 2)).change = some x ∧ x.kind = 3 ∧ x.tick = now s + 3) ∧
  (Served cmdVltCertSet rq k s → 16 ≤ arg rq 0 1 → arg rq 0 1 ≤ 31 → arg rq 1 1 = 0 → 1 ≤ arg rq 2 1 → arg rq 2 1 ≤ 7 → arg rq 2 1 < s.host.channels.length →
      arg rq 3 1 = 0 → arg rq 4 4 ≠ 0 → arg rq 8 8 = 0 → 1 ≤ arg rq 16 4 → arg rq 16 4 ≤ 4800 → (Tab.getD s.vlt.certs (arg rq 0 1) {}).change = none →
      channelIdle s (arg rq 2 1) = true →
    ∃ t, exec (.vltCertSet rq) s = .next t ∧ Accepts cmdVltCertSet rq k t ∧ Opens (arg rq 2 1) .fromHost 0x0C10 (arg rq 4 4) t) ∧
  (∀ e, Served cmdVltCertSet rq k s → 16 ≤ arg rq 0 1 → arg rq 0 1 ≤ 31 → arg rq 1 1 = 1 → arg rq 2 1 = 0 → arg rq 3 1 = 0 → arg rq 4 4 = 0 → arg rq 8 8 = 0 →
      arg rq 16 4 = 0 → arg rq 20 4 = 0 → Tab.getD s.vlt.certs (arg rq 0 1) {} = e → e.certs ≠ [] → e.change = none →
    ∃ t, exec (.vltCertSet rq) s = .next t ∧ Accepts cmdVltCertSet rq k t ∧
      Tab.get t.vlt.certs (arg rq 0 1) = some { e with change := some (now s + 3, [], some s.fol.nextRef) }) ∧
  (∀ key, Served cmdVltAttest rq k s → (s.vlt.attests.filter (fun x => s.time.uptime < x + 1000)).length < 100 → (keyFor 6 (.stored 10 0) s).1 = some key →
    ∃ t, exec (.vltAttest rq) s = .next t ∧ Answers cmdVltAttest rq k 48 t (fun p =>
      rd p 0 8 = s.host.serial % 2 ^ 64 ∧ rd p 8 1 = s.fol.lifecycle.code % 256 ∧ rd p 9 1 = ofBits ((List.range 8).map (fun i => sealClosed s (i + 1))) % 256 ∧
      rd p 20 4 = s.fol.version % 2 ^ 32 ∧ rd p 24 8 = frontier s % 2 ^ 64) ∧ s.time.uptime ∈ t.vlt.attests) ∧
  (Served cmdVltEngine rq k s → arg rq 0 1 ≤ 6 → engineExists (arg rq 0 1) (arg rq 1 1) = true → arg rq 2 1 = 0 → arg rq 3 1 = 0 →
    ∃ t, exec (.vltEngine rq) s = .next t ∧ Answers cmdVltEngine rq k 24 t (fun p =>
      rd p 1 1 = (engineAt s (arg rq 0 1) (arg rq 1 1)).lastResult % 256 ∧ rd p 8 8 = (engineAt s (arg rq 0 1) (arg rq 1 1)).operations % 2 ^ 64)) ∧
  (Served cmdVltEngine rq k s → arg rq 0 1 ≤ 6 → engineExists (arg rq 0 1) (arg rq 1 1) = true → arg rq 2 1 = 1 → arg rq 3 1 = 0 →
      (engineAt s (arg rq 0 1) (arg rq 1 1)).testing = false → engineUp s (arg rq 0 1) (arg rq 1 1) = true →
    ∃ t, exec (.vltEngine rq) s = .next t ∧
      t.vlt = (setEngine (arg rq 0 1) (arg rq 1 1) (fun e => { e with testing := true, retest := false, waiters := e.waiters ++ [(rq, s.fol.nextRef)] }) s).vlt)

/-- FLT_ commands: status, records, clearing, the commanded safe state, tamper inputs and injection. For a request served
over a mailbox (its mailbox not BUSY, Folset taking requests, neither ASYNC nor DRYRUN, validation passed), with the payload
and state each clause names: FLT_STATUS and FLT_READ answer the records; FLT_CLEAR answers how many records it takes and
marks them for the next tick, or answers NOT_READY with no effect where there is none; FLT_SAFE answers the tick and, with no
open tick and no bridge, applies the safe state under source 0x01; FLT_TAMPER answers, enables or clears the latches;
FLT_INJECT arms the injection. (R563, R564, R565, R566, R567, R568) -/
def Obligations.FaultCommandsTakeEffect : Prop := ∀ (s : State) (rq : Request) (k : Nat),
  (Served cmdFltStatus rq k s →
    ∃ t, exec (.fltStatus rq) s = .next t ∧ Answers cmdFltStatus rq k 48 t (fun p =>
      rd p 0 1 = cap 255 (countRecords s 0 (· != .idle)) % 256 ∧ rd p 1 1 = cap 255 (countRecords s 1 (· != .idle)) % 256 ∧
      rd p 2 1 = cap 255 (countRecords s 2 (· == .active)) % 256 ∧
      rd p 8 8 = s.flt.safeSince % 2 ^ 64)) ∧
  (∀ c, Served cmdFltRead rq k s → arg rq 1 3 = 0 → sourceClass (arg rq 0 1) = some c →
    ∃ t, exec (.fltRead rq) s = .next t ∧ Answers cmdFltRead rq k 32 t (fun p =>
      rd p 0 1 = arg rq 0 1 ∧ rd p 1 1 = c % 256 ∧ rd p 2 1 = (faultRecord s (arg rq 0 1)).phase.code % 256 ∧
      rd p 4 4 = cap 0xFFFFFFFF (faultRecord s (arg rq 0 1)).count % 2 ^ 32 ∧
      rd p 8 8 = (faultRecord s (arg rq 0 1)).firstTick % 2 ^ 64 ∧ rd p 16 8 = (faultRecord s (arg rq 0 1)).lastTick % 2 ^ 64 ∧
      rd p 24 4 = (faultRecord s (arg rq 0 1)).detail % 2 ^ 32)) ∧
  (Served cmdFltClear rq k s → arg rq 0 2 ≤ 255 ∨ arg rq 0 2 = 0xFFFF → arg rq 2 2 = 0 → clearable s (arg rq 0 2) ≠ [] →
    ∃ t, exec (.fltClear rq) s = .next t ∧
      Answers cmdFltClear rq k 4 t (fun p => rd p 0 2 = (clearable s (arg rq 0 2)).length % 65536) ∧
      t.flt = { s.flt with clearing := s.flt.clearing ++ clearable s (arg rq 0 2) }) ∧
  (Served cmdFltClear rq k s → arg rq 0 2 ≤ 255 ∨ arg rq 0 2 = 0xFFFF → arg rq 2 2 = 0 → clearable s (arg rq 0 2) = [] →
    ∃ t, exec (.fltClear rq) s = .next t ∧ Reports 0x0D02 rq k stNotReady 0 [] t ∧ t.flt = s.flt) ∧
  (Served cmdFltSafe rq k s → arg rq 0 1 = 0 → arg rq 1 3 = 0 →
    ∃ t, exec (.fltSafe rq) s = .next t ∧ Answers cmdFltSafe rq k 8 t (fun p => rd p 0 8 = now s % 2 ^ 64) ∧
      (s.led.ticks = [] → s.stem.bridges = [] → t.flt.safe = true ∧ t.flt.commanded = true ∧
        (faultRecord t 0x01).phase = .active ∧ (faultRecord t 0x01).detail = 1)) ∧
  (Served cmdFltTamper rq k s → arg rq 0 1 = 0 → arg rq 1 1 = 0 → arg rq 2 2 = 0 →
    ∃ t, exec (.fltTamper rq) s = .next t ∧ Answers cmdFltTamper rq k 96 t (fun p => p = tamperBytes s)) ∧
  (Served cmdFltTamper rq k s → arg rq 0 1 = 2 → arg rq 1 1 < 32 → arg rq 2 2 = 0 →
    ∃ t, exec (.fltTamper rq) s = .next t ∧ t.flt.tamper.map (·.enabled) =
      (List.range s.flt.tamper.length).map (fun i => (arg rq 1 1).testBit i)) ∧
  (Served cmdFltTamper rq k s → arg rq 0 1 = 1 → arg rq 1 1 < 32 → arg rq 1 1 ≠ 0 → arg rq 2 2 = 0 →
      s.flt.tamper.zipIdx.all (fun e => !(arg rq 1 1).testBit e.2 || (e.1.latched && !e.1.openNow)) = true →
    ∃ t, exec (.fltTamper rq) s = .next t ∧ ∀ i x, t.flt.tamper[i]? = some x → (arg rq 1 1).testBit i = true → x.latched = false) ∧
  (Served cmdFltInject rq k s → arg rq 0 1 = 0 ∨ arg rq 0 1 = 1 ∨ arg rq 0 1 = 3 → arg rq 1 1 ≤ 1 → 1 ≤ arg rq 2 2 → arg rq 2 2 ≤ 16 →
      arg rq 4 4 < injectPlaces (arg rq 0 1) → (arg rq 0 1 = 1 → arg rq 8 8 = 0) → Tab.get s.flt.injections (arg rq 0 1) = none →
    ∃ t, exec (.fltInject rq) s = .next t ∧ Answers cmdFltInject rq k 4 t (fun p => rd p 0 4 = arg rq 2 2) ∧
      Tab.get t.flt.injections (arg rq 0 1) =
        some { mode := arg rq 1 1, count := arg rq 2 2, place := arg rq 4 4, addr := arg rq 8 8, session := rq.session })

/-- LNK_ commands: status, grouping, ports, addresses and MACsec. For a request served over a mailbox (its mailbox not BUSY,
Folset taking requests, neither ASYNC nor DRYRUN, validation passed), with the payload and state each clause names:
LNK_STATUS and LNK_PORT_READ answer what is held; LNK_GROUPING, LNK_PORT_SET, LNK_ADDR_SET and LNK_MACSEC_SET set what they
name. (R587, R588, R589, R590, R591, R592) -/
def Obligations.LinkCommandsTakeEffect : Prop := ∀ (s : State) (rq : Request) (k : Nat),
  (Served cmdLnkStatus rq k s →
    ∃ t, exec (.lnkStatus rq) s = .next t ∧ Answers cmdLnkStatus rq k 16 t (fun p =>
      rd p 0 1 = s.lnk.grouping % 256 ∧ rd p 1 1 = s.lnk.pendingGrouping % 256 ∧
      rd p 2 2 = portMask s (fun i => (portAt s i).phase == .up) % 65536 ∧ rd p 4 2 = portMask s (portEnabled s) % 65536)) ∧
  (Served cmdLnkGrouping rq k s → arg rq 0 1 ≤ 2 → arg rq 1 3 = 0 →
    ∃ t, exec (.lnkGrouping rq) s = .next t ∧ Answers cmdLnkGrouping rq k 2 t (fun p => rd p 0 1 = s.lnk.grouping % 256 ∧ rd p 1 1 = arg rq 0 1) ∧
      t.lnk = { s.lnk with pendingGrouping := arg rq 0 1 }) ∧
  (Served cmdLnkPortSet rq k s → portExists s (arg rq 0 1) = true → isMirror s (arg rq 0 1) = false → arg rq 0 1 < s.lnk.ports.length →
      arg rq 1 1 = 1 → arg rq 2 1 ≤ 1 → 4 ≤ arg rq 3 1 → arg rq 3 1 ≤ 7 → 1700 ≤ arg rq 4 2 → arg rq 4 2 ≤ 9216 → arg rq 6 2 = 0 →
      ipMulticast (slice rq.args 8 16) = false → (rdS rq.args 24 4).natAbs ≤ 100000 → arg rq 28 4 = 0 →
    ∃ t, exec (.lnkPortSet rq) s = .next t ∧ (portAt t (arg rq 0 1)).enabled = false ∧ (portAt t (arg rq 0 1)).config.medium = arg rq 2 1 ∧
      (portAt t (arg rq 0 1)).config.fecExp = arg rq 3 1 ∧ (portAt t (arg rq 0 1)).config.mtu = arg rq 4 2 ∧
      (portAt t (arg rq 0 1)).config.router = slice rq.args 8 16 ∧
      Answers cmdLnkPortSet rq k 4 t (fun p => rd p 0 1 = (portAt t (arg rq 0 1)).phase.code % 256)) ∧
  (Served cmdLnkAddrSet rq k s → portExists s (arg rq 0 1) = true → isMirror s (arg rq 0 1) = false → arg rq 1 1 ≤ 3 → arg rq 2 1 = 0 →
      1 ≤ arg rq 3 1 → arg rq 3 1 ≤ 128 → 1 ≤ arg rq 4 1 → arg rq 4 1 < 4 → arg rq 5 1 = 0 → arg rq 6 2 ≤ 4094 → ipMulticast (slice rq.args 8 16) = false →
      ipLinkLocal (slice rq.args 8 16) = false → ipUnspecified (slice rq.args 8 16) = false →
      addrUsed s (arg rq 0 1) (arg rq 1 1) (slice rq.args 8 16) = false →
    ∃ t, exec (.lnkAddrSet rq) s = .next t ∧ Reports 0x0E03 rq k stOk 0 [] t ∧
      t.lnk = (setPort (arg rq 0 1) (fun x => { x with addrs := modAt x.addrs (arg rq 1 1) (fun _ => some { prefixLen := arg rq 3 1, roles := arg rq 4 1, vlan := arg rq 6 2, address := slice rq.args 8 16 }) }) s).lnk) ∧
  (Served cmdLnkMacsecSet rq k s → arg rq 0 1 ≤ 3 → (s.lnk.grouping = 2 → arg rq 0 1 ≠ 3) → arg rq 1 1 = 0 → arg rq 2 1 ≤ 1 → arg rq 3 1 ≤ 3 →
      arg rq 4 1 ≤ 1 → arg rq 5 3 = 0 → arg rq 8 4 ≤ 1073741824 → arg rq 12 4 = 0 → now s + 3 ≤ arg rq 16 8 →
    ∃ t m, exec (.lnkMacsecSet rq) s = .next t ∧ Answers cmdLnkMacsecSet rq k 8 t (fun p => rd p 0 8 = arg rq 16 8) ∧
      t.lnk = { s.lnk with macsecNext := s.lnk.macsecNext ++ [(arg rq 16 8, arg rq 0 1, m)] } ∧ m.enable = false ∧
      m.confidentiality = (arg rq 2 1 == 1) ∧ m.txAn = arg rq 3 1 ∧ m.ptpBypass = (arg rq 4 1 == 1) ∧ m.replayWindow = arg rq 8 4) ∧
  (Served cmdLnkPortRead rq k s → portExists s (arg rq 0 1) = true → arg rq 1 3 = 0 → (macOf s (arg rq 0 1)).length = 6 →
    ∃ t, exec (.lnkPortRead rq) s = .next t ∧ Answers cmdLnkPortRead rq k 72 t (fun p =>
      rd p 0 1 = (portAt s (arg rq 0 1)).phase.code % 256 ∧ rd p 1 1 = rateOf s (arg rq 0 1) % 256))

/-- SVC_ commands: status, staging, updates, banks and the trace. For a request served over a mailbox (its mailbox not BUSY,
Folset taking requests, neither ASYNC nor DRYRUN, validation passed), with the payload and state each clause names:
SVC_STATUS answers the update state; SVC_STAGE opens the channel; SVC_UPDATE starts the update; SVC_BANK answers or changes
the banks; SVC_TRACE_CONFIG sets the trace; SVC_TRACE_EXPORT sends the records and completes; SVC_TRACE_MARK writes the mark
and answers its sequence number. (R613, R614, R615, R616, R617, R618, R619) -/
def Obligations.ServiceCommandsTakeEffect : Prop := ∀ (s : State) (rq : Request) (k : Nat),
  (Served cmdSvcStatus rq k s →
    ∃ t, exec (.svcStatus rq) s = .next t ∧ Answers cmdSvcStatus rq k 40 t (fun p =>
      rd p 0 1 = (activeB s).toNat ∧ rd p 1 1 = s.svc.build.code % 256 ∧ rd p 2 1 = s.svc.phase.code % 256 ∧
      rd p 4 4 = s.fol.version % 2 ^ 32 ∧ rd p 12 4 = s.svc.securityFloor % 2 ^ 32 ∧ rd p 20 4 = s.svc.traceSeq % 2 ^ 32 ∧
      rd p 32 8 = s.svc.lastCommitTick % 2 ^ 64)) ∧
  (Served cmdSvcStage rq k s → 1 ≤ arg rq 0 1 → arg rq 0 1 ≤ 7 → arg rq 0 1 < s.host.channels.length → arg rq 1 1 ≤ 4 →
      (arg rq 1 1 = 1 → arg rq 2 1 ≤ 7 ∧ slotRolling s (arg rq 2 1) = false) → (arg rq 1 1 ≠ 1 → arg rq 2 1 = 0) → arg rq 3 1 = 0 →
      arg rq 4 4 ≠ 0 → 257 ≤ arg rq 8 4 → arg rq 8 4 ≤ imageLimit (arg rq 1 1) + 256 → channelIdle s (arg rq 0 1) = true →
      s.svc.phase = .idle →
    ∃ t, exec (.svcStage rq) s = .next t ∧ Accepts cmdSvcStage rq k t ∧ Opens (arg rq 0 1) .fromHost 0x0F01 (arg rq 4 4) t ∧
      (t.svc.build = .copying ∨ t.svc.build = .valid)) ∧
  (Served cmdSvcUpdate rq k s → arg rq 0 1 = 0 → arg rq 1 1 = 0 → arg rq 2 1 ≤ 1 → arg rq 3 1 = 0 → 10 ≤ arg rq 4 4 → arg rq 4 4 ≤ 86400 →
      s.svc.phase = .idle → staging s = false → updateReady s 0 = true →
    ∃ t, exec (.svcUpdate rq) s = .next t ∧ Accepts cmdSvcUpdate rq k t ∧ t.fol.updating = true ∧ t.svc.updateRef = some s.fol.nextRef ∧
      t.svc.probationS = arg rq 4 4 ∧
      t.svc.phase = (if s.vlt.engines.any (fun c => c.any (fun e => !e.waiters.isEmpty)) then .quiescing else .switched)) ∧
  (Served cmdSvcBank rq k s → arg rq 0 1 = 0 → arg rq 1 1 = 0 → arg rq 2 2 = 0 →
    ∃ t, exec (.svcBank rq) s = .next t ∧ Answers cmdSvcBank rq k 20 t (fun p =>
      rd p 0 1 = (activeB s).toNat ∧ rd p 1 1 = s.svc.build.code % 256 ∧ rd p 12 4 = folsetOf s.mem.bankA % 2 ^ 32 ∧
      rd p 16 4 = folsetOf s.mem.bankB % 2 ^ 32)) ∧
  (Served cmdSvcBank rq k s → arg rq 0 1 = 2 → arg rq 1 1 = 0 → arg rq 2 2 = 0 → bankBusy s = false → s.svc.build ≠ .none →
    ∃ t, exec (.svcBank rq) s = .next t ∧ t.svc.build = .none ∧ t.svc.securityFloor = s.svc.securityFloor ∧ (buildBank t).valid = false) ∧
  (Served cmdSvcTraceConfig rq k s → arg rq 0 1 = 0 → arg rq 1 1 < 8 → arg rq 2 1 < 8 → arg rq 3 1 = 0 → arg rq 4 2 ≤ 1023 → arg rq 6 2 = 0 →
    ∃ t, exec (.svcTraceConfig rq) s = .next t ∧ Reports 0x0F10 rq k stOk 0 [] t ∧ t.svc.enable = arg rq 1 1 ∧
      t.svc.freezeClasses = arg rq 2 1 ∧ t.svc.postBlocks = arg rq 4 2) ∧
  (Served cmdSvcTraceExport rq k s → 1 ≤ arg rq 0 1 → arg rq 0 1 ≤ 7 → arg rq 1 1 = 0 → arg rq 2 2 = 0 → arg rq 4 4 ≠ 0 →
      arg rq 8 4 = 0xFFFFFFFF → 1 ≤ arg rq 12 4 → arg rq 12 4 ≤ 1048576 → channelIdle s (arg rq 0 1) = true →
      (∀ o ∈ s.fol.outstanding, o.ref ≠ s.fol.nextRef) →
    ∃ t, exec (.svcTraceExport rq) s = .next t ∧ Accepts cmdSvcTraceExport rq k t ∧
      (∃ e ∈ t.fol.events, e.kind = 0x0100 ∧ e.source = rq.session ∧ rd e.payload 4 1 = stOk ∧
        rd e.payload 16 4 = (s.svc.trace.take (arg rq 12 4)).length % 2 ^ 32)) ∧
  (Served cmdSvcTraceMark rq k s → arg rq 16 1 = 0 → arg rq 17 3 = 0 → s.svc.frozen = false → s.svc.trigger = none → s.svc.lost = 0 →
      s.svc.traceSeq < 2 ^ 32 →
    ∃ t, exec (.svcTraceMark rq) s = .next t ∧ Answers cmdSvcTraceMark rq k 4 t (fun p => rd p 0 4 = s.svc.traceSeq))

/-- The hand-over state machine: losing, gaining and qualifying MAIN and BATT. Each clause names a row and the state and
operands it is for, and says the next state that exec answers. MAIN lost, present and qualified, BATT lost and present, and
the end of a switch move the hand-over state and both path switches as the table gives, with the path of a source lost for
over-voltage held off (pathFor) until that source is back; a source 0x1A record is raised for BATT lost on MAIN; the end of
the hold clears main_unstable and its losses. (R55, R56, R57, R58, R59) -/
def Obligations.HandoverFollowsItsTable : Prop := ∀ s : State,
  (∀ o, s.pwr.handover = .mainOn → s.pwr.battPresent = true →
    ∃ t, exec (.mainLost o) s = .next t ∧ t.pwr.handover = .toBatt ∧ t.pwr.mainPath = pathFor o .conducting ∧
      t.pwr.battPath = pathFor s.pwr.battOver .conducting) ∧
  (∀ o, s.pwr.handover = .mainOn → s.pwr.battPresent = false →
    ∃ t, exec (.mainLost o) s = .next t ∧ t.pwr.handover = .bank ∧ t.pwr.mainPath = pathFor o .idealDiode ∧
      t.pwr.battPath = pathFor s.pwr.battOver .idealDiode) ∧
  (∀ o, s.pwr.handover = .mainQual ∨ s.pwr.handover = .toMain →
    ∃ t, exec (.mainLost o) s = .next t ∧ t.pwr.handover = .battOn ∧ t.pwr.mainPath = .heldOff ∧
      t.pwr.battPath = pathFor s.pwr.battOver .conducting ∧ t.pwr.mainLosses.getLast? = some s.time.uptime) ∧
  (∃ t, exec (.mainLost true) s = .next t ∧ t.pwr.mainPath = .heldOff ∧ t.pwr.mainOver = true ∧ t.pwr.mainPresent = false) ∧
  (s.pwr.handover = .battOn →
    ∃ t, exec .mainPresent s = .next t ∧ t.pwr.handover = .mainQual ∧ t.pwr.mainPath = .heldOff ∧
      t.pwr.battPath = pathFor s.pwr.battOver .conducting ∧ t.pwr.mainOver = false) ∧
  (s.pwr.handover = .bank →
    ∃ t, exec .mainPresent s = .next t ∧ t.pwr.handover = .mainOn ∧ t.pwr.mainPath = .conducting ∧ t.pwr.battPath = .heldOff) ∧
  (s.pwr.handover = .mainQual →
    ∃ t, exec .mainQualified s = .next t ∧ t.pwr.handover = .toMain ∧ t.pwr.mainPath = pathFor s.pwr.mainOver .conducting ∧
      t.pwr.battPath = pathFor s.pwr.battOver .conducting) ∧
  (∀ o, s.pwr.handover = .mainOn →
    ∃ t, exec (.battLost o) s = .next t ∧ t.pwr.handover = .mainOn ∧ t.pwr.battPresent = false ∧
      t.pwr.battPath = pathFor o s.pwr.battPath ∧ (faultRecord t 0x1A).phase = .active) ∧
  (∀ o, s.pwr.handover = .toBatt ∨ s.pwr.handover = .battOn →
    ∃ t, exec (.battLost o) s = .next t ∧ t.pwr.handover = .bank ∧ t.pwr.mainPath = pathFor s.pwr.mainOver .idealDiode ∧
      t.pwr.battPath = pathFor o .idealDiode) ∧
  (∀ o, s.pwr.handover = .mainQual ∨ s.pwr.handover = .toMain →
    ∃ t, exec (.battLost o) s = .next t ∧ t.pwr.handover = .mainOn ∧ t.pwr.mainPath = pathFor s.pwr.mainOver .conducting ∧
      t.pwr.battPath = .heldOff) ∧
  (∃ t, exec (.battLost true) s = .next t ∧ t.pwr.battPath = .heldOff ∧ t.pwr.battOver = true ∧ t.pwr.battPresent = false) ∧
  (s.pwr.handover = .mainOn →
    ∃ t, exec .battPresent s = .next t ∧ t.pwr.handover = .mainOn ∧ t.pwr.battPresent = true ∧ t.pwr.battOver = false) ∧
  (s.pwr.handover = .bank → s.pwr.mainPresent = false →
    ∃ t, exec .battPresent s = .next t ∧ t.pwr.handover = .battOn ∧ t.pwr.mainPath = .heldOff ∧ t.pwr.battPath = .conducting) ∧
  (s.pwr.handover = .bank → s.pwr.mainPresent = true →
    ∃ t, exec .battPresent s = .next t ∧ t.pwr.handover = .mainOn ∧ t.pwr.mainPath = pathFor s.pwr.mainOver .conducting ∧
      t.pwr.battPath = .heldOff) ∧
  (s.pwr.handover = .toBatt → s.pwr.mainPresent = false →
    ∃ t, exec .switchComplete s = .next t ∧ t.pwr.handover = .battOn ∧ t.pwr.mainPath = .heldOff ∧
      t.pwr.battPath = pathFor s.pwr.battOver .conducting) ∧
  (s.pwr.handover = .toMain →
    ∃ t, exec .switchComplete s = .next t ∧ t.pwr.handover = .mainOn ∧ t.pwr.mainPath = pathFor s.pwr.mainOver .conducting ∧
      t.pwr.battPath = .heldOff) ∧
  (s.pwr.mainUnstable = true →
    ∃ t, exec .mainUnstableClear s = .next t ∧ t.pwr.mainUnstable = false ∧ t.pwr.mainLosses = [])

/-- Power-fail detection, MOD_EN_N and the commanded Keep end in the Keep mode with a power-down record. Each clause names a row
and the state and operands it is for, and says the next state that exec answers. After detection the mode is Keep, the
hand-over state POWER_DOWN, every rail but KEEP off, no tick open, no session left, and one of the two records holds the
cause, VBUS, offset and hand-over state; MOD_EN_N rising also holds both paths off; the Keep delay ends in Keep by command; a
rail that fails before the record is written leaves the power-down unrecorded; KEEP failing within it loses the held time and
the latched tampers. (R66, R68, R71, R74, R76, R77, R78) -/
def Obligations.PowerDownEndsInKeep : Prop := ∀ s : State,
  (∀ v o, s.pwr.mode ≠ .keep → s.pwr.pdVigilFailed = none →
    ∃ t, exec (.powerFailDetection v o) s = .next t ∧ t.pwr.mode = .keep ∧ t.pwr.handover = .powerDown ∧
      t.pwr.mainPath = .idealDiode ∧ t.pwr.battPath = .idealDiode ∧
      t.pwr.vigilOn = false ∧ t.pwr.fieldOn = false ∧ t.pwr.computeOn = false ∧ t.pwr.keepCommanded = false ∧
      t.led.ticks = [] ∧ t.fol.sessions = [] ∧ t.pwr.latchedDetect = now s ∧ t.pwr.unrecorded = false ∧
      (t.pwr.recordA.cause = 1 ∧ t.pwr.recordA.vbusDv = v ∧ t.pwr.recordA.detectOffsetNs = o ∧
        t.pwr.recordA.handover = s.pwr.handover.code ∨
       t.pwr.recordB.cause = 1 ∧ t.pwr.recordB.vbusDv = v ∧ t.pwr.recordB.detectOffsetNs = o ∧
        t.pwr.recordB.handover = s.pwr.handover.code)) ∧
  (s.pwr.mode ≠ .keep →
    ∃ t, exec .modEnNRise s = .next t ∧ t.pwr.mode = .keep ∧ t.pwr.handover = .powerDown ∧
      t.pwr.mainPath = .heldOff ∧ t.pwr.battPath = .heldOff ∧ t.pwr.vigilOn = false ∧ t.pwr.roseInKeep = true) ∧
  (s.pwr.mode = .keep →
    ∃ t, exec .modEnNRise s = .next t ∧ t.pwr.mode = .keep ∧ t.pwr.mainPath = .heldOff ∧ t.pwr.battPath = .heldOff ∧
      t.pwr.roseInKeep = true) ∧
  (s.pwr.keepDue = true → s.pwr.mode ≠ .keep → s.pwr.pdKeepFailed = false →
    ∃ t, exec .keepEntryDelay s = .next t ∧ t.pwr.mode = .keep ∧ t.pwr.keepCommanded = true ∧ t.pwr.vigilOn = false ∧
      t.pwr.mainPath = .idealDiode ∧ t.pwr.mainLostInKeep = !s.pwr.mainPresent) ∧
  (∀ step, s.pwr.mode ≠ .keep → ∃ t, exec (.railFailPowerDown 1 step) s = .next t ∧ t.pwr.pdVigilFailed = some step) ∧
  (∀ step, s.pwr.mode ≠ .keep → ∃ t, exec (.railFailPowerDown 2 step) s = .next t ∧ t.pwr.pdFieldFailed = some step) ∧
  (∀ step, s.pwr.mode ≠ .keep → ∃ t, exec (.railFailPowerDown 0 step) s = .next t ∧ t.pwr.pdKeepFailed = true) ∧
  (∀ v o, s.pwr.mode ≠ .keep → s.pwr.pdKeepFailed = true →
    ∃ t, exec (.powerFailDetection v o) s = .next t ∧ t.pwr.mode = .keep ∧ t.pwr.keepStopped = true ∧ t.time.rtcCapture = none ∧
      t.flt.tamper = List.replicate 5 {}) ∧
  (∀ v o k, s.pwr.mode ≠ .keep → s.pwr.pdVigilFailed = some k → k ≤ 2 →
    ∃ t, exec (.powerFailDetection v o) s = .next t ∧ t.pwr.mode = .keep ∧ t.pwr.unrecorded = true ∧ t.pwr.latchedDetect = now s)

/-- Battery policy, low battery, thermal reactions, wakes and PERST move the demands and the mode. Each clause names a row and the
state and operands it is for, and says the next state that exec answers. The policy delay sets the battery demand, a low
battery sets Vigil, the cancel point drops a thermal reaction, Vigil exit reaches the effective mode, a wake time and MOD_EN_N
falling lead from Keep to STARTING, exhaustion of the reserve stops KEEP, and PERST release starts link training, at once
where VIGIL is powered and with the start where it is not. (R31, R60, R61, R62, R63, R64, R65, R76) -/
def Obligations.ModesFollowDemandsAndWakes : Prop := ∀ s : State,
  (onBattery s = true → s.pwr.battPolicy ≠ .none → s.pwr.lowBattery = false →
    ∃ t, exec .battPolicyDelay s = .next t ∧ t.pwr.demandBattery = s.pwr.battPolicy.demand) ∧
  (onBattery s = true → s.pwr.battLowDv ≠ 0 →
    ∃ t, exec .lowBattery s = .next t ∧ t.pwr.demandBattery = .vigil ∧ t.pwr.lowBattery = true) ∧
  (∀ r k, thermalOf k = some r → s.pwr.thermal.contains r = true → dieTemp r s + 5 ≤ r.limit →
    ∃ t, exec (.thermalCancel k) s = .next t ∧ t.pwr.thermal = s.pwr.thermal.filter (· != r)) ∧
  (s.pwr.mode = .vigil → s.pwr.vigilExiting = true → s.pwr.vigilEntryBy = none →
    ∃ t, exec .vigilExitComplete s = .next t ∧ t.pwr.mode = (effective s).mode ∧ t.pwr.computeOn = true ∧ t.pwr.vigilExiting = false) ∧
  (s.pwr.mode = .keep → s.pwr.keepCommanded = true → s.pwr.wakeTime ≠ 0 → s.pwr.keepStopped = false →
    ∃ t, exec .wakeTime s = .next t ∧ t = { s with pwr := { s.pwr with mode := .starting } }) ∧
  (s.pwr.mode = .keep → inputPresent s = true → (s.pwr.roseInKeep = true ∨ s.pwr.keepCommanded = false) →
    ∃ t, exec .modEnNFall s = .next t ∧ t.pwr.mode = .starting ∧ t.pwr.modEnLow = true ∧ t.pwr.vigilRetries = 0) ∧
  (s.pwr.mode = .keep → inputPresent s = false →
    ∃ t, exec .keepReserveExhausted s = .next t ∧ t.pwr.keepStopped = true ∧ t.time.rtcCapture = none ∧
      t.flt.tamper = List.replicate 5 {}) ∧
  (s.pwr.vigilOn = true →
    ∃ t, exec .pciePerstRelease s = .next t ∧
      t = { s with pwr := { s.pwr with perstReleased := true }, host := { s.host with linkTraining := true, configRetry := !s.fol.ready } }) ∧
  (s.pwr.vigilOn = false → exec .pciePerstRelease s = .next { s with pwr := { s.pwr with perstReleased := true } })

/-- Cold start, rail failures and the moisture hold. Each clause names a row and the state and operands it is for, and says
the next state that exec answers. A cold start powers Vigil first; a wet board holds; a dry one goes on to FIELD and COMPUTE;
a Vigil rail that fails is retried, and given up in Keep after the last retry; a FIELD or COMPUTE rail that fails leaves the
module in Vigil; the end of the hold goes on with the start. (R54, R63, R65, R67) -/
def Obligations.ColdStartRunsInItsOrder : Prop := ∀ s : State,
  (∀ i, mayStart s = true → s.pwr.railFails = [] → i.wet = true →
    ∃ t, exec (.coldStart i) s = .next t ∧ t.pwr.mode = .hold ∧ t.pwr.vigilOn = true ∧ t.pwr.moistureSinceStart = true ∧
      t.pwr.fieldOn = s.pwr.fieldOn ∧ t.pwr.computeOn = s.pwr.computeOn) ∧
  (∀ i, mayStart s = true → s.pwr.railFails = [] → i.wet = false → s.pwr.fieldOn = false → s.pwr.computeOn = false →
    ∃ t, exec (.coldStart i) s = .next t ∧ t.pwr.mode = .starting ∧ t.pwr.vigilOn = true ∧ t.pwr.fieldOn = t.pwr.computeOn ∧
      t.pwr.demandCommand = .full ∧ t.pwr.demandBattery = .full) ∧
  (∀ i, mayStart s = true → s.pwr.railFails = [0] →
    ∃ t, exec (.coldStart i) s = .next t ∧ t.pwr.vigilOn = false ∧ t.pwr.vigilRetryDue = true) ∧
  (s.pwr.vigilRetryDue = true → s.pwr.railFails = [0] → s.pwr.vigilRetries = 1 →
    ∃ t, exec .vigilRailRetry s = .next t ∧ t.pwr.mode = .keep ∧ t.pwr.vigilFailed = true ∧ t.pwr.vigilFailReport = true) ∧
  (s.pwr.vigilRetryDue = true → s.pwr.railFails = [] →
    ∃ t, exec .vigilRailRetry s = .next t ∧ t.pwr.vigilOn = true ∧ t.pwr.vigilRetries = 0 ∧ t.pwr.vigilRetryDue = false) ∧
  (∀ d, d ≤ 2 → s.pwr.vigilOn = false →
    ∃ t, exec (.railStartTimeout d) s = .next t ∧ t = { s with pwr := { s.pwr with railFails := s.pwr.railFails ++ [d] } }) ∧
  (∀ d, d = 1 ∨ d = 2 → s.pwr.vigilOn = true → s.pwr.mode = .starting → s.pwr.fieldOn = true → s.pwr.computeOn = true →
    ∃ t, exec (.railStartTimeout d) s = .next t ∧ t.pwr.computeOn = false ∧ t.pwr.fieldOn = decide (d = 2) ∧ t.pwr.vigilOn = true ∧
      t.pwr.mode = .vigil ∧ t.pwr.computeFailed = true) ∧
  (s.pwr.mode = .hold → s.pwr.railFails = [] → s.pwr.fieldOn = false → s.pwr.computeOn = false →
    ∃ t, exec .moistureHoldEnd s = .next t ∧ t.pwr.mode = .starting ∧ t.pwr.fieldOn = t.pwr.computeOn)

/-- PTP, announces, PPS, disagreements and holdover move the time sources and the trust. Each clause names a row and the
state and operands it is for, and says the next state that exec answers. A sync of the grandmaster's port joins its source's
run of measurements (values before the correction the model holds, log 5) and qualifies it on a steady run of 16; a far sync
ends the hold; the best announce of those in force gives the grandmaster (the comparison itself is the model's choice, log
52); a port group whose announces stop loses it; losses disqualify; a lasting disagreement raises source 0x20; a pending step
is recomputed, and reported where it moved by more than 1 ms; holdover expires to UNTRUSTED with INT_STATUS.TIME. (R80, R81,
R82, R83, R85, R86, R87) -/
def Obligations.TimeSourcesSteerTheClock : Prop := ∀ s : State,
  (∀ e : Int, ptpRuns s = true → goodClass s.time.gmClass = true → s.time.ptpHold = false → s.time.ptp.qualified = false →
    ∃ t, exec (.ptpSyncRx s.time.gmPort e) s = .next t ∧ t.time.ptp.run = ((e + s.time.corr) :: s.time.ptp.run).take 32 ∧ t.time.ptp.offset = e + s.time.corr ∧
      t.time.ptp.qualified = (decide (16 ≤ s.time.ptp.run.length + 1) && steadyRun (((e + s.time.corr) :: s.time.ptp.run).take 16))) ∧
  (∀ e : Int, ptpRuns s = true → goodClass s.time.gmClass = true → s.time.ptpHold = true → portZeroUp s = true → 1000 ≤ e.natAbs →
    ∃ t, exec (.ptpSyncRx s.time.gmPort e) s = .next t ∧ t.time.ptpHold = false ∧ t.time.ptp.qualified = false ∧ t.time.ptp.run = []) ∧
  (∀ (p : Nat) (e : Int), p ≠ s.time.gmPort → exec (.ptpSyncRx p e) s = .next s) ∧
  (∀ a b : Announce, ptpRuns s = true → (ptpGroups s).testBit a.port = true → a.domain = s.time.ptpDomain →
      bestAnnounce { s with time := { s.time with announces := Tab.put s.time.announces a.port a } } = some b →
    ∃ t, exec (.ptpAnnounceRx a) s = .next t ∧ t.time.gmClass = b.clockClass ∧ t.time.gmPort = b.port ∧ t.time.gmUtcOffset = b.utcOffset ∧
      t.time.gmUtcValid = b.utcValid ∧ t.time.gmLeap59 = b.leap59 ∧ t.time.gmLeap61 = b.leap61 ∧ (goodClass b.clockClass = false → t.time.ptp.qualified = false)) ∧
  (∀ a : Announce, a.domain ≠ s.time.ptpDomain → exec (.ptpAnnounceRx a) s = .next s) ∧
  (s.time.ptpHold = false → (Tab.get s.time.announces s.time.gmPort).isSome = true →
      (∀ e ∈ s.time.announces, e.1 ≠ s.time.gmPort → (ptpGroups s).testBit e.1 = false) →
    ∃ t, exec (.announceTimeout s.time.gmPort) s = .next t ∧ t.time.gmClass = 255 ∧ t.time.gmPort = 255 ∧ t.time.gmUtcValid = false ∧
      t.time.ptp.qualified = false) ∧
  (∀ p, s.time.ptpHold = false → (Tab.get s.time.announces p).isSome = true → p ≠ s.time.gmPort →
    exec (.announceTimeout p) s = .next { s with time := { s.time with announces := Tab.del s.time.announces p } }) ∧
  (∀ e : Int, s.pwr.vigilOn = true → s.time.pps.qualified = false →
    ∃ t, exec (.ppsEdge e) s = .next t ∧ t.time.pps.run = ((e + s.time.ppsDelayNs + s.time.corr) :: s.time.pps.run).take 8) ∧
  (∃ t, exec .ppsLoss s = .next t ∧ t.time.pps.qualified = false ∧ t.time.pps.run = []) ∧
  (sourcesApart s = true → s.time.disagree = false → s.time.utcDisagree = false →
    ∃ t, exec .sourceDisagreeTimeout s = .next t ∧ t.time.disagree = true ∧ (faultRecord t 0x20).phase = .active ∧ (faultRecord t 0x20).detail = 1) ∧
  (∀ e : Int, s.time.pendingStep.isSome = true → (selectedRecord s).isSome = true →
    ∃ t, exec (.pendingStepRecompute e) s = .next t ∧ t.time.pendingStep = some (truncDiv e 1000000) ∧
      (1 < (truncDiv e 1000000 - s.time.pendingReported).natAbs →
        t.time.pendingReported = truncDiv e 1000000 ∧ t.host.intStatus.getLsbD causeTime = true)) ∧
  (s.time.trust = .holdover → ∃ t, exec .holdoverExpiry s = .next t ∧ t.time.trust = .untrusted ∧ t.host.intStatus.getLsbD causeTime = true)

/-- Ticks start, close, overrun, commit, abort and leave the abort list. Each clause names a row and the state and operands
it is for, and says the next state that exec answers. A tick start advances tick and uptime by one; the backlog limit frees
the freeze; frames are delivered to metrology and outputs, and a missed downlink raises source 0x03 with the safe state; the
oldest tick that closes is committing, another is closed; an overrun marks open ticks; a commit moves the frontier to the
oldest tick and its sequence number by one; a failed frontier write aborts every open tick and leaves the record; a scrubbed
tick leaves the abort list. (R20, R21, R95, R98, R99, R100, R101, R103) -/
def Obligations.TicksOpenCloseAndCommit : Prop := ∀ s : State,
  (∀ i : TickInputs, s.pwr.vigilOn = true → s.time.configNext = none → stepNow s = 0 →
    ∃ t, exec (.tickStart i) s = .next t ∧ now t = now s + 1 ∧ t.time.uptime = s.time.uptime + 1 ∧ t.pwr.mainDv = i.mainDv ∧ t.pwr.inputDw = i.inputDw) ∧
  (s.led.frozenAt.isSome = true → ∃ t, exec .backlogTimeout s = .next t ∧ t.led.frozenAt = none ∧ (∀ x ∈ t.led.ticks, x.phase = .committing)) ∧
  (glfRuns s = true → ∃ t, exec .uplinkFrame s = .next t ∧ ∀ c, c < s.met.channels.length →
      metChan t c = (if c < 64 then { metChan s c with delivered := (metChan s c).latest } else metChan s c)) ∧
  (glfRuns s = true → Tab.get s.flt.injections 4 = none → ∃ t, exec .downlinkFrame s = .next t ∧ t.fio.downlinked = true) ∧
  (glfRuns s = true → s.fio.downlinked = false →
    ∃ t, exec .downlinkDeadlineMiss s = .next t ∧ t.flt.safe = true ∧ (faultRecord t 0x03).phase = .active ∧ (faultRecord t 0x03).lastTick = now s) ∧
  (∀ x us, closingTick s = some x → isOldest s x.label = true →
    ∃ t, exec (.tickClose us) s = .next t ∧ (∃ y ∈ t.led.ticks, y.label = x.label ∧ y.phase = .committing ∧ y.awaitingAck = s.duty.coupled) ∧
      t.led.closeCount = s.led.closeCount + 1 ∧ t.led.closeMax = max s.led.closeMax us) ∧
  (∀ x us, closingTick s = some x → isOldest s x.label = false →
    ∃ t, exec (.tickClose us) s = .next t ∧ (∃ y ∈ t.led.ticks, y.label = x.label ∧ y.phase = .closed) ∧ t.led.closeCount = s.led.closeCount + 1) ∧
  (∃ t, exec .tickOverrun s = .next t ∧ (∀ x ∈ t.led.ticks, x.phase = .opened → x.overrun = true) ∧
      t.led.overruns % 2 ^ 32 = (s.led.overruns + s.led.ticks.countP (fun x => x.phase == .opened && !x.overrun)) % 2 ^ 32) ∧
  (∀ x rest, s.pwr.vigilOn = true → s.led.ticks = x :: rest → x.phase = .committing → x.awaitingAck = false → s.pwr.vigilEntryBy = none →
      s.pwr.mode ≠ .starting →
    ∃ t, exec .tickCommit s = .next t ∧ frontier t = x.label ∧ t.led.record.commitSeq = (s.led.record.commitSeq + 1) % 2 ^ 32 ∧
      t.led.record.trust = x.trust ∧ t.led.ticks.map (·.label) = rest.map (·.label)) ∧
  (∀ x rest, s.led.ticks = x :: rest → x.phase = .committing → x.awaitingAck = false →
    ∃ t, exec .frontierWriteFailed s = .next t ∧ t.led.ticks = [] ∧ t.led.record = s.led.record ∧ x.label ∈ t.led.abortsPending) ∧
  (∀ n, s.pwr.vigilOn = true → s.led.record.abortList.contains n = true →
    ∃ t, exec (.abortScrubComplete n) s = .next t ∧ t.led.record.abortList = s.led.record.abortList.filter (· != n) ∧ frontier t = frontier s)

/-- Florets dispatch, stall, preempt, complete and end invocations. Each clause names a row and the state and operands it is
for, and says the next state that exec answers: dispatch puts the chosen task's unit on the floret, stalled where its page is
not staged, or resumes what was pre-empted there where that comes first; a slice boundary gives the floret to a task that goes
before, keeping the invocation as pre-empted, leaves it where no other is ready, gives back what a draining umbel's floret
holds, and wilts a task whose slack is gone; completion frees the floret and its page; a fetched page resumes; the watchdog
ends the invocation as a task fault, its unit is to run again on another umbel, and a second fault skips it; a missed deadline
is counted. (R162, R172, R173, R175, R177, R180, R181, R182, R183, R188) -/
def Obligations.KernelsRunOnFlorets : Prop := ∀ (s : State) (f : Nat),
  (∀ x u, floretFree s f = true → (criticalReady s).length ≤ freeFlorets s → (Tab.getD s.yrw.florets f {}).preempted = [] →
      chooseTask s f = some (x, u) →
    ∃ t i, exec (.invocationDispatch f) s = .next t ∧ Tab.get t.yrw.running f = some i ∧ i.task = x.id ∧ i.unit = u ∧ i.kernel = x.work.kernel ∧
      i.label = x.label ∧ i.epoch = (umbel s (f / 16)).epoch ∧ i.stalled = (x.work.pageKind != 0 && !pageStaged s x u)) ∧
  (∀ x u i, floretFree s f = true → (criticalReady s).length ≤ freeFlorets s → (Tab.getD s.yrw.florets f {}).preempted.head? = some i →
      mayResume s i = true → chooseTask s f = some (x, u) → keyBefore x.key (invocationKey s i) = false →
    ∃ t, exec (.invocationDispatch f) s = .next t ∧ Tab.get t.yrw.running f = some i ∧
      (Tab.getD t.yrw.florets f {}).preempted = (Tab.getD s.yrw.florets f {}).preempted.drop 1) ∧
  (∀ us i x u, Tab.get s.yrw.running f = some i → liveOn s f i = true → (umbel s (f / 16)).draining = false →
      (∀ y, taskById s i.task = some y → wiltDue s us y = false) → floretOpen s f = true → chooseTask s f = some (x, u) →
      keyBefore x.key (invocationKey s i) = true →
    ∃ t j, exec (.sliceBoundary f us) s = .next t ∧ Tab.get t.yrw.running f = some j ∧ j.task = x.id ∧ j.unit = u ∧
      j.stalled = (x.work.pageKind != 0 && !pageStaged s x u) ∧ (Tab.getD t.yrw.florets f {}).preempted.head? = some i) ∧
  (∀ us i, Tab.get s.yrw.running f = some i → liveOn s f i = true → (umbel s (f / 16)).draining = false →
      (∀ y, taskById s i.task = some y → wiltDue s us y = false) → chooseTask s f = none →
    ∃ t, exec (.sliceBoundary f us) s = .next t ∧ Tab.get t.yrw.running f = some i ∧ t.yrw.florets = s.yrw.florets) ∧
  (∀ us i, Tab.get s.yrw.running f = some i → liveOn s f i = true → (umbel s (f / 16)).draining = true →
    ∃ t, exec (.sliceBoundary f us) s = .next t ∧ Tab.get t.yrw.running f = none ∧
      ∀ y, taskById s i.task = some y → ∃ z, taskById t i.task = some z ∧ i.unit ∈ z.todo) ∧
  (∀ us i y, Tab.get s.yrw.running f = some i → liveOn s f i = true → taskById s i.task = some y → wiltDue s us y = true →
    ∃ t z, exec (.sliceBoundary f us) s = .next t ∧ t.yrw.wilts = s.yrw.wilts + 1 ∧ taskById t i.task = some z ∧ z.wilted = true ∧
      z.eff = y.work.cls.above) ∧
  (∀ i, Tab.get s.yrw.running f = some i → i.stalled = false → liveOn s f i = true →
    ∃ t, exec (.invocationComplete f) s = .next t ∧ Tab.get t.yrw.running f = none ∧
      ∀ p, i.page = some p → ∀ h ∈ t.yrw.heldPages, ¬ (h.2.2.1 = f ∧ (h.1, h.2.1) = p)) ∧
  (∀ i, Tab.get s.yrw.running f = some i → i.stalled = true → liveOn s f i = true →
    ∃ t, exec (.pageFetchComplete f) s = .next t ∧ Tab.get t.yrw.running f = some { i with stalled := false }) ∧
  (∀ i, Tab.get s.yrw.running f = some i → i.stalled = false →
    ∃ t, exec (.watchdogExpiry f) s = .next t ∧ Tab.get t.yrw.running f = none ∧
      (Tab.getD t.yrw.stats i.workload {}).taskFaults = (Tab.getD s.yrw.stats i.workload {}).taskFaults + 1) ∧
  (∀ i x, Tab.get s.yrw.running f = some i → i.stalled = false → taskById s i.task = some x → x.faulted.any (fun e => e.1 == i.unit) = false →
    ∃ t y, exec (.watchdogExpiry f) s = .next t ∧ Tab.get t.yrw.running f = none ∧ taskById t i.task = some y ∧ i.unit ∈ y.todo ∧
      (i.unit, f / 16) ∈ y.faulted) ∧
  (∀ i x, Tab.get s.yrw.running f = some i → i.stalled = false → taskById s i.task = some x → x.faulted.any (fun e => e.1 == i.unit) = true →
    ∃ t, exec (.watchdogExpiry f) s = .next t ∧ Tab.get t.yrw.running f = none ∧
      (Tab.getD t.yrw.stats x.work.id {}).skipped = (Tab.getD s.yrw.stats x.work.id {}).skipped + 1 ∧
      (faultRecord t 0x33).detail = 3 ∧ (faultRecord t 0x33).lastTick = now s) ∧
  (∀ w x, s.yrw.tasks.find? (fun t => t.work.id == w && !t.missed && !t.done && decide (t.deadlineUs ≤ nowUs s + 1000)) = some x →
    ∃ t, exec (.deadlineMiss w) s = .next t ∧ t.yrw.misses = s.yrw.misses + 1 ∧
      (Tab.getD t.yrw.stats w {}).deadlineMisses = (Tab.getD s.yrw.stats w {}).deadlineMisses + 1)

/-- Heartbeats, SRAM errors, fences, tests and stale requests move the umbels. Each clause names a row and the state and
operands it is for, and says the next state that exec answers: a floret's data error ends nothing but is counted, the second
in a round, an error of umbel SRAM, a heartbeat lost and a beat of a wrong epoch fence an umbel, active or spare, with a new
fence epoch; a corrected error is counted; a beat in order keeps its umbel; stale beats and writes are counted; a drain takes
the umbel out of reset with no invocation; a test ends in SPARE under a new epoch or in RETIRED. (R158, R184, R185, R186,
R188) -/
def Obligations.UmbelsAreWatched : Prop := ∀ (s : State) (u : Nat), u < 64 → u < s.yrw.umbels.length →
  (∀ i, i < 16 → Tab.get s.flt.injections 1 = none → Tab.get s.yrw.running (16 * u + i) = none → (umbel s u).sramErrors = 0 →
      (umbel s u).draining = false →
    ∃ t, exec (.floretSramError (16 * u + i) 0) s = .next t ∧ (umbel t u).sramErrors = 1 ∧ (umbel t u).phase = (umbel s u).phase) ∧
  (∀ i, i < 16 → Tab.get s.flt.injections 1 = none → Tab.get s.yrw.running (16 * u + i) = none → (umbel s u).sramErrors = 1 →
      (umbel s u).phase = .active ∨ (umbel s u).phase = .spare →
    ∃ t, exec (.floretSramError (16 * u + i) 0) s = .next t ∧ (umbel t u).phase = .fenced ∧ (umbel t u).lastCause = 3) ∧
  (∀ i, i < 16 → Tab.get s.flt.injections 1 = none → (umbel s u).draining = false →
    ∃ t, exec (.floretSramError (16 * u + i) 1) s = .next t ∧ (umbel t u).sramCorrected = (umbel s u).sramCorrected + 1 ∧
      (umbel t u).sramErrors = (umbel s u).sramErrors ∧ t.yrw.running = s.yrw.running) ∧
  (∀ i x, i < 16 → Tab.get s.yrw.running (16 * u + i) = some x → (umbel s u).draining = false →
    ∃ t, exec (.floretSramError (16 * u + i) 2) s = .next t ∧ Tab.get t.yrw.running (16 * u + i) = some x) ∧
  (∀ i, i < 16 → (umbel s u).phase = .active ∨ (umbel s u).phase = .spare →
    ∃ t, exec (.floretSramError (16 * u + i) 3) s = .next t ∧ (umbel t u).phase = .fenced ∧ (umbel t u).lastCause = 3) ∧
  ((umbel s u).phase = .active ∨ (umbel s u).phase = .spare →
    ∃ t, exec (.umbelHeartbeat u (umbel s u).epoch (umbel s u).hbNext) s = .next t ∧ (umbel t u).hbNext = (umbel s u).hbNext + 1 ∧ (umbel t u).missed = 0 ∧
      (umbel t u).phase = (umbel s u).phase) ∧
  (∀ e q, (umbel s u).phase = .fenced →
    ∃ t, exec (.umbelHeartbeat u e q) s = .next t ∧ (umbel t u).staleBeats = (umbel s u).staleBeats + 1 ∧ (umbel t u).phase = .fenced) ∧
  ((umbel s u).phase = .active ∨ (umbel s u).phase = .spare →
    ∃ t, exec (.heartbeatLoss u) s = .next t ∧ (umbel t u).phase = .fenced ∧ (umbel t u).epoch = ((umbel s u).epoch + 1) % 2 ^ 32 ∧
      (umbel t u).inReset = true ∧ (umbel t u).lastCause = 1 ∧ (umbel t u).lastDeathTick = now s) ∧
  ((umbel s u).phase = .fenced → (umbel s u).inReset = true →
    ∃ t, exec (.fenceDrainComplete u) s = .next t ∧ (umbel t u).inReset = false ∧ ∀ i, i < 16 → Tab.get t.yrw.running (16 * u + i) = none) ∧
  ((umbel s u).phase = .testing →
    ∃ t, exec (.umbelTestResult u true) s = .next t ∧ (umbel t u).phase = .spare ∧ (umbel t u).epoch = ((umbel s u).epoch + 1) % 2 ^ 32 ∧ (umbel t u).testResult = 1) ∧
  ((umbel s u).phase = .testing →
    ∃ t, exec (.umbelTestResult u false) s = .next t ∧ (umbel t u).phase = .retired ∧ (umbel t u).testResult = 2) ∧
  (∀ e, e ≠ (umbel s u).epoch → (umbel s u).phase = .fenced →
    ∃ t, exec (.staleEpochRequest u e true) s = .next t ∧ (umbel t u).staleWrites = (umbel s u).staleWrites + 1) ∧
  (∀ e w, e ≠ (umbel s u).epoch → (umbel s u).phase = .active ∨ (umbel s u).phase = .spare →
    ∃ t, exec (.staleEpochRequest u e w) s = .next t ∧ (umbel t u).phase = .fenced ∧ (umbel t u).lastCause = 2)

/-- Arbiters grant and discard, ECC corrects or retires, and unreadable accounts wait. Each clause names a row and the state and
operands it is for, and says the next state that exec answers. An idle arbiter grants the request alone, and no grant or
waiting request is one the gates of its requester or umbel turn away; a decision and a wait limit are counted for their
requester; DRAM and ledger-store errors are counted and their sources raised as each clause says; a patrol pass leaves what it
must; a damaged account half is restored from the standby. (R204, R205, R211, R217, R219, R313) -/
def Obligations.MemoryFollowsItsArbitersAndCodes : Prop := ∀ s : State,
  (∀ a r u n, a < 5 → a < s.mem.arbiters.length → (arbiter s a).holder = none → (arbiter s a).waiting = [] → askPasses s a r u = true →
      n ≠ 0 → r ∈ ranking s a →
    ∃ t h, exec (.arbiterDecision a [{ requester := r, umbel := u, beats := n }] 0 false) s = .next t ∧ (arbiter t a).holder = some h ∧ h.requester = r ∧ h.beats = n ∧
      (arbiter t a).waiting = [] ∧ (Tab.getD (arbiter t a).stats r {}).grants = (Tab.getD (arbiter s a).stats r {}).grants + 1) ∧
  (∀ a asks b ns, a < 5 → a < s.mem.arbiters.length →
    ∃ t, exec (.arbiterDecision a asks b ns) s = .next t ∧ (∀ h, (arbiter t a).holder = some h → askPasses s a h.requester h.umbel = true) ∧
      ∀ q ∈ (arbiter t a).waiting, askPasses s a q.requester q.umbel = true) ∧
  (∀ a r q, a < s.mem.arbiters.length → (arbiter s a).table.waitUs ≠ 0 →
      (arbiter s a).waiting.find? (fun q => q.requester == r && !q.reported && decide (1000 * (arbiter s a).table.waitUs < q.waitNs)) = some q →
    ∃ t, exec (.arbWait a r) s = .next t ∧ { q with reported := true } ∈ (arbiter t a).waiting ∧ q ∉ (arbiter t a).waiting) ∧
  (∀ addr f, s.pwr.computeOn = true → addr < 0xC00000000 → Tab.get s.flt.injections 0 = none →
    ∃ t, exec (.dramEccError addr false f) s = .next t ∧
      Tab.getD t.mem.dramCorrected (addr / 256 % 64) 0 = Tab.getD s.mem.dramCorrected (addr / 256 % 64) 0 + 1 ∧ t.mem.dramUncorrected = s.mem.dramUncorrected) ∧
  (∀ addr f, s.pwr.computeOn = true → addr < 0xC00000000 → Tab.get s.flt.injections 0 = none →
    ∃ t, exec (.dramEccError addr true f) s = .next t ∧ t.mem.dramUncorrected = (s.mem.dramUncorrected + 1) % 2 ^ 32) ∧
  (s.pwr.computeOn = true → ∃ t, exec .patrolScrubPass s = .next t ∧ t = { s with mem := { s.mem with patrolAt := s.time.uptime } }) ∧
  (∀ addr, s.pwr.vigilOn = true → addr < 2 ^ 30 → Tab.get s.flt.injections 3 = none →
    ∃ t, exec (.lstoreReadError addr false) s = .next t ∧ t.mem.lstoreCorrected = (s.mem.lstoreCorrected + 1) % 2 ^ 32 ∧ t.led = s.led) ∧
  (∀ addr, s.pwr.vigilOn = true → addr < 2 ^ 30 → Tab.get s.flt.injections 3 = none →
    ∃ t, exec (.lstoreReadError addr true) s = .next t ∧ t.mem.lstoreUncorrected = (s.mem.lstoreUncorrected + 1) % 2 ^ 32) ∧
  (∀ a image, accountDamaged s a = true → s.duty.contact = true → s.duty.sync = .inSync → (∀ o ∈ s.led.orders, o.ref ≠ 2 ^ 32 + a) →
    ∃ t o, exec (.accountRestoreStandby a image) s = .next t ∧ t.led.orders = s.led.orders ++ [o] ∧ o.account = a ∧ o.opcode = 0x0606 ∧ o.body = image)

/-- Sensor rings: records, status, losses, enumeration and tick marks. Each clause names a row and the state and operands it is
for, and says the next state that exec answers. A frame of a wrong type, length or check sum has no effect; a second report of
a hop already broken has none, and one of another hop segments the ring. Each record, status record, loss, restored link,
enumeration, missing record, unreachable satellite and missing tick mark changes the ring or its channels as its clause says
and raises the sources named there. (R235, R256, R259, R262, R263) -/
def Obligations.RingsFollowTheirRecords : Prop := ∀ s : State,
  (∀ i p port (f : Bytes), recordFrame f ≠ none → p = rd f 8 1 → p < 16 → i < s.met.rings.length → p < (ringOf s i).positions.length →
      (ringPos s i p).isBound = true → (∀ w, (ringPos s i p).lastWindow = some w → w < rd f 16 8) →
    ∃ t, exec (.ringRecordRx i port f) s = .next t ∧ (ringPos t i p).status = 1 ∧ (ringPos t i p).lastWindow = some (rd f 16 8) ∧ (ringPos t i p).port = port ∧
      (ringPos t i p).epoch = rd f 10 2 ∧ (ringPos t i p).missed = 0 ∧ (ringPos t i p).unreachableAt = none) ∧
  (∀ i port (f : Bytes), f.length ≠ 500 ∨ rd f 0 1 ≠ 2 ∨ rd f 2 2 ≠ 488 ∨ rd f 496 4 ≠ crc32 (f.take 496) →
    exec (.ringRecordRx i port f) s = .next s) ∧
  (∀ i p, i < s.met.rings.length → p < (ringOf s i).positions.length →
    ∃ t, exec (.ringStatusRx i 3 p) s = .next t ∧ (ringPos t i p).powerFailing = true) ∧
  (∀ i h, i < s.met.rings.length → (ringOf s i).phase = .intact →
    ∃ t, exec (.ringLossOfSignal i h) s = .next t ∧ (ringOf t i).phase = .wrapped ∧ (ringOf t i).broken = [h] ∧ (faultRecord t 0x50).phase = .active) ∧
  (∀ i h, (ringOf s i).phase = .wrapped → (ringOf s i).broken.contains h = true → exec (.ringLossOfSignal i h) s = .next s) ∧
  (∀ i h, i < s.met.rings.length → (ringOf s i).phase = .wrapped → (ringOf s i).broken.contains h = false →
    ∃ t, exec (.ringLossOfSignal i h) s = .next t ∧ (ringOf t i).phase = .segmented ∧ h ∈ (ringOf t i).broken) ∧
  (∀ i h, i < s.met.rings.length → ((ringOf s i).phase = .wrapped ∨ (ringOf s i).phase = .segmented) →
    ∃ t, exec (.ringLinkRestored i h) s = .next t ∧ (ringOf t i).phase = .enumerating ∧ h ∉ (ringOf t i).broken) ∧
  (∀ i found breaks, i < s.met.rings.length → (ringOf s i).phase = .enumerating →
    ∃ t, exec (.enumerationComplete i found breaks) s = .next t ∧ (ringOf t i).broken = breaks ∧
      (ringOf t i).phase = (if breaks = [] then .intact else if breaks.length = 1 then .wrapped else .segmented)) ∧
  (∀ i p, i < s.met.rings.length → p < (ringOf s i).positions.length → ((ringOf s i).phase = .intact ∨ (ringOf s i).phase = .wrapped ∨ (ringOf s i).phase = .segmented) →
      (ringPos s i p).status = 1 → 3 ≤ (ringPos s i p).missed →
    ∃ t, exec (.recordMissing i p) s = .next t ∧ (ringPos t i p).status = 5 ∧ (faultRecord t 0x50).phase = .active ∧ (faultRecord t 0x50).detail = 3) ∧
  (∀ i p x, (ringPos s i p).unreachableAt = some x → x + 60000 ≤ s.time.uptime → (ringOf s i).phase = .segmented → (ringPos s i p).status = 6 →
      satSets s.met.calib i p ≠ [] →
    ∃ t, exec (.satelliteUnreachable i p) s = .next t ∧ (faultRecord t 0x51).phase = .active ∧ (faultRecord t 0x51).detail = 3) ∧
  (∀ i p, i < s.met.rings.length → p < (ringOf s i).positions.length →
    ∃ t, exec (.tickMarkMissing i p) s = .next t ∧ (ringPos t i p).markMissing = true ∧ (ringPos t i p).alignedRun = 0 ∧
      ∀ e ∈ satSets s.met.calib i p, e.1.set < s.met.sets.length → (metSet t e.1.set).unaligned = true)

/-- Self-test, demand registers, coils, captures, seals and window settlement. Each clause names a row and the state and operands
it is for, and says the next state that exec answers. The self-test steps mark and judge their channels; a group held for a
capture ends its phase idle; a due boundary rolls its demand register, or waits where a satellite's record of it has not come;
coils settle; a capture starts and completes by event; a seal change is sensed at its position alone; a settled window is held
and its localisation is due in this round. (R231, R251, R266, R267, R280, R337, R490) -/
def Obligations.MetrologyChecksItself : Prop := ∀ s : State,
  (∀ g, g < s.met.groups.length → (groupOf s g).phase = .idle → (groupOf s g).retired = false → (groupOf s g).held = false →
      groupPowered s g = true →
    ∃ t, exec (.selftestStepStart g) s = .next t ∧ (groupOf t g).phase = .matching ∧ (groupOf t g).started = true ∧
      (groupOf t g).index = (if (groupOf s g).started then ((groupOf s g).index + 1) % groupSize g else 0)) ∧
  (∀ g a, g < s.met.groups.length → (groupOf s g).phase = .matching → (groupOf s g).held = true →
    ∃ t, exec (.selftestPhaseEnd g a) s = .next t ∧ (groupOf t g).phase = .idle ∧ t.met.channels = s.met.channels) ∧
  (∀ g, g < s.met.groups.length → (groupOf s g).phase = .matching → (groupOf s g).held = false →
    ∃ t, exec (.selftestPhaseEnd g true) s = .next t ∧ (groupOf t g).phase = .test ∧ (rotationChannel s g < s.met.channels.length → (metChan t (rotationChannel s g)).onSpare = true)) ∧
  (∀ g, g < s.met.groups.length → (groupOf s g).phase = .matching → (groupOf s g).held = false →
    ∃ t, exec (.selftestPhaseEnd g false) s = .next t ∧ (groupOf t g).phase = .spareCheck ∧ t.met.selftestFailures = s.met.selftestFailures + 1) ∧
  (∀ g, g < s.met.groups.length → (groupOf s g).phase = .rematch →
    ∃ t, exec (.selftestPhaseEnd g true) s = .next t ∧ (groupOf t g).phase = .idle ∧ (rotationChannel s g < s.met.channels.length → (metChan t (rotationChannel s g)).onSpare = false)) ∧
  (∀ g, g < s.met.groups.length → (groupOf s g).phase = .test →
    ∃ t, exec (.selftestPrimaryResult g true) s = .next t ∧ (groupOf t g).phase = .rematch) ∧
  (∀ g, g < s.met.groups.length → (groupOf s g).phase = .test →
    ∃ t, exec (.selftestPrimaryResult g false) s = .next t ∧ (groupOf t g).phase = .pinned ∧ (faultRecord t 0x50).detail = 4) ∧
  (∀ g, g < s.met.groups.length → (groupOf s g).phase = .spareCheck → (groupOf s g).primaryOut = false →
    ∃ t, exec (.selftestSpareResult g true) s = .next t ∧ (groupOf t g).suspect = true) ∧
  (∀ g, g < s.met.groups.length → (groupOf s g).phase ≠ .pinned →
    ∃ t, exec (.selftestSpareResult g false) s = .next t ∧ (groupOf t g).phase = .idle ∧ (groupOf t g).retired = true ∧ t.met.selftestFailures = s.met.selftestFailures + 1) ∧
  (∀ k r e d, calSet s.met.calib k = some e → e.location = 0 → Tab.get (metSet s k).demand r = some d → k < s.met.sets.length → s.pwr.fieldOn = true →
      boundaryDue s d = true → d.waits = none →
    ∃ t x, exec (.demandBoundary k r) s = .next t ∧ Tab.get (metSet t k).demand r = some x ∧ x.index = some (subIndex s d (now s)) ∧ x.runStartTick = now s ∧
      x.runTicks = 0 ∧ x.waits = none ∧ x.runStart = (metSet s k).counters.getD d.quantity 0 ∧ d.maximum ≤ x.maximum) ∧
  (∀ k r e d, calSet s.met.calib k = some e → e.location ≠ 0 → Tab.get (metSet s k).demand r = some d → k < s.met.sets.length → s.pwr.fieldOn = true →
      boundaryDue s d = true → d.waits = none → (metSet s k).received = [] →
    ∃ t, exec (.demandBoundary k r) s = .next t ∧ Tab.get (metSet t k).demand r = some { d with waits := some (boundaryNow s d) }) ∧
  (s.pwr.fieldOn = true → s.met.fieldUpAt + 20000 ≤ s.time.uptime →
    ∃ t, exec .coilSettled s = .next t ∧ t.met.coilSettled = true ∧ ∀ x ∈ t.met.sets, x.settling = false) ∧
  (∀ c, s.met.capture = some c → c.running = false → s.pwr.fieldOn = true → c.channels.all (captureReady s) = true →
    ∃ t, exec .captureStart s = .next t ∧ t.met.capture = some { c with running := true, firstTick := now s }) ∧
  (∀ c o, s.met.capture = some c → c.running = true → c.ticks ≤ c.done → s.fol.outstanding.find? (fun x => x.ref == c.ref) = some o →
    ∃ t, exec .captureComplete s = .next t ∧ t.met.capture = none ∧
      ∃ e ∈ t.fol.events, e.kind = 0x0100 ∧ e.source = o.session ∧ rd e.payload 4 1 = stOk ∧ rd e.payload 16 8 = c.firstTick % 2 ^ 64) ∧
  (∀ p c, 1 ≤ p → p ≤ 16 → p ≤ s.seals.sensed.length → sealClosed s p ≠ c →
    ∃ t, exec (.sealChange p c) s = .next t ∧ sealClosed t p = c ∧ ∀ q, q ≠ p → 1 ≤ q → sealClosed t q = sealClosed s q) ∧
  (∀ b w, dataPathUp s = true → (bridgeAt s b).phase ≠ .absent → windowOver s w = true → windowHeld s b 0 w = none →
    ∃ t, exec (.windowSettleDeadline b w) s = .next t ∧ (windowHeld t b 0 w).isSome = true ∧ (netBal t b).localiseDue = some (now s / 1024))

/-- Stem frames from a bridge are accepted on a valid tag and dropped otherwise. Each clause names a row and the state and
operands it is for, and says the next state that exec answers. A sample frame that passes every check before the tag is
accepted, heard and held where the tag holds, and otherwise only counted as dropped; status and JOIN frames likewise; a STALE
of no later generation under the bridge's current epoch keeps it ONLINE, and one of a later generation under another epoch
leaves it LOST (that it acts with its tag unchecked is the model's reading, log 25). (R363, R364, R365, R370, R373) -/
def Obligations.BridgeFramesAreTaken : Prop := ∀ (s : State) (b : Nat) (f : Bytes) (e : StemEpoch),
  (Heard s b 1 f e → (bridgeAt s b).config.streams.testBit 0 = true → (bridgeAt s b).clockFault = false → InWindow s f →
      heldAlready (bridgeAt s b) 1 (widen s (rd f 16 4)).toNat = false →
    ∃ t, exec (.stemPlcSamples f) s = .next t ∧ SamplesTaken s b 1 f e t) ∧
  (Heard s b 2 f e → (bridgeAt s b).config.streams.testBit 1 = true → (bridgeAt s b).clockFault = false → InWindow s f →
      heldAlready (bridgeAt s b) 2 (widen s (rd f 16 4)).toNat = false →
    ∃ t, exec (.stemRfSamples f) s = .next t ∧ SamplesTaken s b 2 f e t) ∧
  (Heard s b 3 f e → (bridgeAt s b).config.streams.testBit 2 = true → (bridgeAt s b).clockFault = false → InWindow s f →
      heldAlready (bridgeAt s b) 3 (widen s (rd f 16 4)).toNat = false →
    ∃ t, exec (.stemLvSamples f) s = .next t ∧ SamplesTaken s b 3 f e t) ∧
  (Heard s b 4 f e →
    ∃ t, exec (.stemStatusFrame f) s = .next t ∧
      (TagHolds s b f e → t.stem.accepted = s.stem.accepted + 1 ∧ (bridgeAt t b).lastValid = s.time.uptime ∧
        (bridgeAt t b).status = { timeState := rd f 20 1, supply := rd f 21 1, temperature := rdS f 22 2, timeErrorNs := rdS f 24 4, dlDelayMaxUs := rd f 28 4, plansExecuted := rd f 32 4, plansRefused := rd f 36 4, txAborted := rd f 40 4, bufferOldest := rd f 44 4 }) ∧
      (¬ TagHolds s b f e → t.stem.dropped = s.stem.dropped + 1 ∧ (bridgeAt t b).status = (bridgeAt s b).status)) ∧
  (∀ port src dst, stemUp s = true → servesBridges s = true → frameFormed 5 f = true → rd f 2 2 = b → (bridgeAt s b).config.kind = 0 →
      (bridgeAt s b).phase ≠ .absent → (bridgeAt s b).phase ≠ .fenced →
    ∃ t, exec (.stemJoin port src dst f) s = .next t ∧
      ((joinGood b f s).1 = true → (bridgeAt t b).phase = .online ∧ (bridgeAt t b).path = some (port, src, dst) ∧
        (bridgeAt t b).session = (bridgeAt s b).session + 1 ∧
        (bridgeAt t b).current.map (·.epoch) = some (epochNow s % 65536 * 65536 + ((bridgeAt s b).session + 1))) ∧
      ((joinGood b f s).1 = false → t.stem.dropped = s.stem.dropped + 1 ∧ (bridgeAt t b).phase = (bridgeAt s b).phase ∧
        (bridgeAt t b).current = (bridgeAt s b).current ∧ (bridgeAt t b).session = (bridgeAt s b).session)) ∧
  (s.duty.role = .single → Heard s b 6 f e → (bridgeAt s b).current = some e → laterGen (rd f 22 2) 0 = false → TagHolds s b f e →
    ∃ t, exec (.stemStaleRx f) s = .next t ∧ t.stem.accepted = s.stem.accepted + 1 ∧ (bridgeAt t b).phase = .online) ∧
  (s.duty.role = .single → Heard s b 6 f e → ((bridgeAt s b).current.map (·.epoch)).getD 0 ≠ rd f 8 4 → laterGen (rd f 22 2) 0 = true →
    ∃ t, exec (.stemStaleRx f) s = .next t ∧ (bridgeAt t b).phase = .lost ∧ (bridgeAt t b).current = none ∧ (bridgeAt t b).plans = [])

/-- Holes, silence, loss, rekeying and keepalives of bridges. Each clause names a row and the state and operands it is for,
and says the next state that exec answers. Hole waits skip, repairs are asked again, a silent bridge becomes SILENT and then
LOST without keys or plans, a rekey makes the next epoch 16 frames ahead (log 25) or waits while the bridge is silent, and a
keepalive goes out under the current key. (R367, R370, R371, R372) -/
def Obligations.BridgesFollowTheirTimers : Prop := ∀ (s : State) (b : Nat), stemUp s = true →
  (∀ k, k ≤ 1 → ∃ t, exec (.holeWaitExpiry b k) s = .next t ∧
      (∀ h ∈ ((bridgeAt t b).stream (k + 1)).holes, h.skipped = false → now s < h.foundAt + (bridgeAt s b).config.holeWait) ∧
      ((bridgeAt t b).stream (k + 1)).holes.map (·.tick) = ((bridgeAt s b).stream (k + 1)).holes.map (·.tick)) ∧
  (∀ k, k ≤ 2 → (bridgeAt s b).phase = .online →
    ∃ t, exec (.holeRepairRetry b k) s = .next t ∧
      ((bridgeAt t b).stream (k + 1)).holes = ((bridgeAt s b).stream (k + 1)).holes.map (fun h =>
        if 1 ≤ h.asked ∧ (k = 2 ∨ h.asked < 3) ∧ h.lastAsked + repairGap (bridgeAt s b) ≤ now s then { h with asked := h.asked + 1, lastAsked := now s }
        else h)) ∧
  ((bridgeAt s b).phase = .online → (bridgeAt s b).config.kind = 0 →
    ∃ t, exec (.bridgeSilence b) s = .next t ∧ bridgeAt t b = { bridgeAt s b with phase := .silent }) ∧
  ((bridgeAt s b).phase = .silent →
    ∃ t, exec (.bridgeLost b) s = .next t ∧ (bridgeAt t b).phase = .lost ∧ (bridgeAt t b).current = none ∧ (bridgeAt t b).next = none ∧
      (bridgeAt t b).previous = none ∧ (bridgeAt t b).plans = []) ∧
  ((bridgeAt s b).phase = .online → (bridgeAt s b).config.kind = 0 → (bridgeAt s b).next = none → (bridgeAt s b).session < 65535 →
    ∃ t e, exec (.rekeyDue b) s = .next t ∧ (bridgeAt t b).next = some (e, stemNow s + 16) ∧
      e.epoch = epochNow s % 65536 * 65536 + ((bridgeAt s b).session + 1) ∧ (bridgeAt t b).session = (bridgeAt s b).session + 1) ∧
  ((bridgeAt s b).phase = .silent → (bridgeAt s b).config.kind = 0 →
    ∃ t, exec (.rekeyDue b) s = .next t ∧ bridgeAt t b = { bridgeAt s b with rekeyDue := true }) ∧
  (∀ e key, (bridgeAt s b).phase = .online → (bridgeAt s b).config.kind = 0 → epochForStamp (bridgeAt s b) (stemNow s) = some e →
      (keyFor 0 (epochHandle b (bridgeAt s b) e) s).1 = some key → bridgeReached s (bridgeAt s b) = true →
      bridgeResolved s (bridgeAt s b) = true →
    ∃ t, exec (.keepaliveDue b) s = .next t ∧ (bridgeAt t b).lastDown = s.time.uptime ∧
      t.stem.sent = (b, stemHeader 0x88 b 0 0 e.epoch e.downSeq (stemNow s % 2 ^ 32) ++
        gcmTag key (stemNonce 1 0x88 b e.downSeq (stemNow s % 2 ^ 32)) (stemHeader 0x88 b 0 0 e.epoch e.downSeq (stemNow s % 2 ^ 32)) []) :: s.stem.sent)

/-- Power-line responses, alerts, discovery replies and failed transactions. Each clause names a row and the state and
operands it is for, and says the next state that exec answers. A frame that opens under its meter's key ends its transaction
and marks the node, and one that does not leaves the network as it was; alerts, discovery replies, failed transactions and
the discovery period act as their clauses say. (R381, R383, R384) -/
def Obligations.PowerLineFramesAreTaken : Prop := ∀ (s : State) (b : Nat),
  (∀ startUs mod snr f fr x a, PlcHeard s b startUs mod 1 f fr → fr.dst = addrBridge →
      (netAt s b).transactions.find? (fun t => t.txid == fr.txid && (t.node == fr.src || fr.src == addrNone)) = some x → x.account = some a →
    ∃ t, exec (.plcResponseRx b startUs mod snr f) s = .next t ∧
      ((openPlc b a fr s).1.isSome = true → x ∉ (netAt t b).transactions ∧
        (nodeAt t b (committedAccount s a).node).phase = .routed ∧ (nodeAt t b (committedAccount s a).node).lastContact = now s) ∧
      ((openPlc b a fr s).1 = none → netAt t b = netAt s b)) ∧
  (∀ startUs mod snr f fr a, PlcHeard s b startUs mod 2 f fr → accountAtNode s b fr.src false = some a →
    ∃ t, exec (.plcAlertRx b startUs mod snr f) s = .next t ∧
      ((openPlc b a fr s).1.isSome = true → (netAt t b).alerts = (netAt s b).alerts + 1 ∧ (nodeAt t b fr.src).alerted.isSome = true) ∧
      ((openPlc b a fr s).1 = none → netAt t b = netAt s b)) ∧
  (∀ serial through, netHears s b = true → accountOfSerial s serial = none →
    ∃ t, exec (.plcDiscoverReplyRx b serial through) s = .next t ∧ netAt t b = { netAt s b with unknownMeters := cap 0xFFFFFFFF ((netAt s b).unknownMeters + 1) }) ∧
  (∀ serial through a, netHears s b = true → accountOfSerial s serial = some a → (committedAccount s a).bridge = b → (committedAccount s a).radio = false →
    ∃ t, exec (.plcDiscoverReplyRx b serial through) s = .next t ∧ (serial, through) ∈ (netAt t b).replies ∧ t.fol = s.fol) ∧
  (∀ txid heard x, dataPathUp s = true → (netAt s b).transactions.find? (fun t => t.txid == txid) = some x →
    ∃ t, exec (.plcTransactionFail b txid heard) s = .next t ∧ x ∉ (netAt t b).transactions ∧
      (netAt t b).failed = (List.range 3).map (fun i => (netAt s b).failed.getD i 0 + (if x.phases.testBit i then 1 else 0)) ∧
      (∀ a, x.account = some a → 0 < x.retriesLeft → ∃ avoid, (a, x.retriesLeft - 1, avoid) ∈ (netAt t b).retry)) ∧
  (netHears s b = true → unrouted s b ≠ [] →
    ∃ t, exec (.discoverPeriod b) s = .next t ∧ (netAt t b).lastDiscover = now s ∧ (netAt t b).discoverQueue.head? = some none)

/-- Radio beacons, adverts, connection events, answers and losses. Each clause names a row and the state and operands it is
for, and says the next state that exec answers. Beacons, adverts, connection events, answers, missed events, supervision and
alerts change their connection and meter as their clauses say; what depends on a tag is said for both outcomes. (R404, R405,
R409, R418) -/
def Obligations.RadioConnectionsFollowTheirFrames : Prop := ∀ (s : State) (b : Nat) (r : RfNet), rfAt s b = some r →
  (radioPlans s b (planTick s b) = true → dutyRoom s r (radioAirtime r.config.mode 35) = true → (keyFor 0 (groupHandle s b 63) s).1.isSome = true →
    ∃ t u, exec (.beaconDue b) s = .next t ∧ rfAt t b = some u ∧ u.lastBeacon = planTick s b ∧
      u.beaconCounter = Tab.getD s.mtr.groupCounter (64 * b + 63) 0 + 1 ∧ Tab.getD t.mtr.groupCounter (64 * b + 63) 0 = u.beaconCounter) ∧
  (∀ channel endTick snr f fr, radioHears s b = true → radioParse b f = some fr → fr.type = 2 → fr.rest.length = 18 → accountOfSerial s (rd fr.rest 0 8) = none →
    ∃ t, exec (.rfAdvertRx b channel endTick snr f) s = .next t ∧ rfAt t b = some { r with adverts := cap 0xFFFFFFFF (r.adverts + 1) }) ∧
  (∀ channel endTick snr f fr a m key, radioHears s b = true → radioParse b f = some fr → fr.type = 2 → fr.rest.length = 18 →
      accountOfSerial s (rd fr.rest 0 8) = some a → meterOf s a = some m → (keyFor 0 (linkHandle m fr.counter) s).1 = some key →
      (committedAccount s a).bridge = b → (committedAccount s a).radio = true → (committedAccount s a).phase ≠ .unused →
    ∃ t, exec (.rfAdvertRx b channel endTick snr f) s = .next t ∧
      (ccmOpen key 8 (macNonce b fr.node addrBridge fr.counter 2) (fr.header ++ fr.rest.take 10) (fr.rest.drop 10) = none →
        rfAt t b = some { r with adverts := cap 0xFFFFFFFF (r.adverts + 1), micFailures := cap 0xFFFFFFFF (r.micFailures + 1) }) ∧
      (ccmOpen key 8 (macNonce b fr.node addrBridge fr.counter 2) (fr.header ++ fr.rest.take 10) (fr.rest.drop 10) ≠ none → m.up < fr.counter →
        (meterOf t a).map (fun y => (y.up, y.lastContact)) = some (fr.counter, now s))) ∧
  (∀ node c u, connOf s b node = some c → c.live = true → c.update = none → c.terminate = none → c.unacked = some u →
      radioPlans s b (eventTick c (nextEvent c (planTick s b))) = true → dutyRoom s r (radioAirtime r.config.mode 123) = true →
    ∃ t, exec (.rfConnectionEvent b node) s = .next t ∧
      connOf t b node = some { c with event := nextEvent c (planTick s b), retransmissions := c.retransmissions + 1 }) ∧
  (∀ snr f fr c, radioHears s b = true → radioParse b f = some fr → fr.type = 0 → connOf s b fr.node = some c → c.phase ≠ .unconnected →
    ∃ t, exec (.rfAnswerRx b snr f) s = .next t ∧
      ((openRadio b c.account fr s).1.isSome = true → ∃ d, connOf t b fr.node = some d ∧ d.phase = .connected ∧ d.missedRun = 0 ∧ d.lastValid = now s ∧
        d.snr = some snr) ∧
      ((openRadio b c.account fr s).1 = none → connOf t b fr.node = some c)) ∧
  (∀ node c, dataPathUp s = true → connOf s b node = some c → c.phase = .connected →
    ∃ t, exec (.rfEventMissed b node) s = .next t ∧ connOf t b node = some { c with missed := cap 0xFFFFFFFF (c.missed + 1), missedRun := c.missedRun + 1 }) ∧
  (∀ node c, dataPathUp s = true → connOf s b node = some c → c.phase = .connecting → 5 ≤ c.missedRun →
    ∃ t d, exec (.rfEventMissed b node) s = .next t ∧ connOf t b node = some d ∧ d.phase = .unconnected) ∧
  (∀ node c, dataPathUp s = true → connOf s b node = some c → c.phase ≠ .unconnected →
    ∃ t, exec (.rfSupervisionExpiry b node) s = .next t ∧
      connOf t b node = some { c with phase := .unconnected, terminate := none, unacked := none, update := none, unbound := none }) ∧
  (∀ snr f fr a, radioHears s b = true → radioParse b f = some fr → fr.type = 6 → accountAtNode s b fr.node true = some a →
    ∃ t, exec (.rfAlertRx b snr f) s = .next t ∧
      (∀ p, (openRadio b a fr s).1 = some (p, true) → p.length = 4 →
        (meterOf t a).map (fun y => (y.up, y.lastContact)) = some (fr.counter, now s) ∧
        (∃ m, meterOf t a = some m ∧ ∃ x ∈ m.queue, x.type = msgReadReq ∧ x.level = 2)))

/-- SEPAL messages from meters: readings, credit, events, tokens, keys, firmware and give-ups. Each clause names a row and
the state and operands it is for, and says the next state that exec answers. For a bound meter and the oldest message of its
type: each message is taken out of the inbox and has the effect its clause names; the request timeout and the campaign's
activation act as theirs say. (R300, R409, R413, R414, R415, R416, R419, R420, R423, R431) -/
def Obligations.MeterMessagesAreProcessed : Prop := ∀ (s : State) (a : Nat) (m : InMsg) (y : Meter), meterOf s a = some y →
  (Arrived s a 0x81 m →
    ∃ t, exec (.sepalReading a) s = .next t ∧ (pageOf t a).reading.map (fun x => (x.tick, x.importWh, x.exportWh)) =
        some (rd (m.payload.drop 4) 0 8, rd (m.payload.drop 4) 8 8, rd (m.payload.drop 4) 16 8) ∧
      (meterOf t a).map (fun z => (z.lastReading, z.lastRead)) = some (rd (m.payload.drop 4) 0 8, now s) ∧
      ((rd (m.payload.drop 4) 34 2).testBit 0 = true → (pageOf t a).reading.map (·.intervals) = some [])) ∧
  (Arrived s a 0x82 m →
    ∃ t, exec (.sepalCreditAck a) s = .next t ∧
      meterOf t a = some { y with
        creditAcked := some (rd (m.payload.drop 4) 0 4), relay := rd (m.payload.drop 4) 4 1
        queue := if rd (m.payload.drop 4) 0 4 = (committedAccount s a).allowanceSeq then y.queue.filter (fun z => z.type != msgCredit) else y.queue }) ∧
  (Arrived s a 0x83 m → rd (m.payload.drop 4) 0 1 = 1 → (∀ l, y.lastEventSeq = some l → laterGen (rd (m.payload.drop 4) 2 2) l = true) →
    ∃ t, exec (.sepalEvent a) s = .next t ∧ (pageOf t a).reports = (pageOf s a).reports ++ [some (rd (m.payload.drop 4) 4 8)] ∧
      (meterOf t a).map (fun z => (z.lastEventKind, z.lastEventSeq)) = some (1, some (rd (m.payload.drop 4) 2 2))) ∧
  (Arrived s a 0x84 m → (tokenArrival a (rd (m.payload.drop 4) 0 9) true s).1 = 0 → tokensFull s = false →
    ∃ t, exec (.sepalToken a) s = .next t ∧ t.led.tokens = s.led.tokens ++
      [{ id := s.led.nextToken, account := a, value := rd (m.payload.drop 4) 0 9, keypad := true, checkedAt := s.time.uptime }]) ∧
  (Arrived s a 0x85 m → (pageOf s a).emergency = none →
    ∃ t, exec (.sepalEmergencyReq a) s = .next t ∧ (pageOf t a).emergency = some s.led.nextToken ∧ t.led.nextToken = s.led.nextToken + 1) ∧
  (Arrived s a 0x86 m → rd (m.payload.drop 4) 0 8 = y.serial →
    ∃ t, exec (.sepalIdentity a) s = .next t ∧ (meterOf t a).map (fun z => (z.model, z.fw, z.phases, z.capabilities)) =
        some (rd (m.payload.drop 4) 8 4, rd (m.payload.drop 4) 12 4, rd (m.payload.drop 4) 16 1, rd (m.payload.drop 4) 17 1)) ∧
  (Arrived s a 0x86 m → rd (m.payload.drop 4) 0 8 ≠ y.serial → m.radio = false →
    ∃ t, exec (.sepalIdentity a) s = .next t ∧ (faultRecord t 0x90).lastTick = now s ∧ (faultRecord t 0x90).detail = 3 ∧
      (nodeAt t m.bridge (committedAccount s a).node).phase = .unrouted) ∧
  (∀ n k, Arrived s a 0x87 m → rd (m.payload.drop 4) 0 1 = 0xFF → y.keyChange = some (n, k) → rd (m.payload.drop 4) 1 1 = n →
    ∃ t, exec (.sepalKeyAck a) s = .next t ∧ (meterOf t a).map (fun z => (z.keyGen, z.keyChange, z.down, z.up)) = some (n, none, 0, 0)) ∧
  (Arrived s a 0x87 m → rd (m.payload.drop 4) 0 1 ≠ 0xFF →
    ∃ t z, exec (.sepalKeyAck a) s = .next t ∧ meterOf t a = some z ∧ (m.bridge, rd (m.payload.drop 4) 0 1, rd (m.payload.drop 4) 1 1) ∈ z.groupKeys) ∧
  (∀ c x, Arrived s a 0x88 m → Tab.get s.mtr.campaigns (rd (m.payload.drop 4) 0 2) = some c → c.ended = false → Tab.get c.targets a = some x →
      1 ≤ rd (m.payload.drop 4) 2 1 → rd (m.payload.drop 4) 2 1 ≤ 5 →
    ∃ t d, exec (.sepalFwStatus a) s = .next t ∧ Tab.get t.mtr.campaigns (rd (m.payload.drop 4) 0 2) = some d ∧
      Tab.get d.targets a = some { x with
        state := some (rd (m.payload.drop 4) 2 1), firstMissing := rd (m.payload.drop 4) 4 4
        bitmap := slice (m.payload.drop 4) 8 64 }) ∧
  (∀ x, sepalUp s = true → y.queue.find? (fun z => 8 ≤ z.sends && z.type != msgCredit) = some x →
    ∃ t, exec (.sepalSendGiveup a) s = .next t ∧ ∀ z, meterOf t a = some z → x ∉ z.queue) ∧
  (∀ q, y.request = some q →
    ∃ t, exec (.mtrRequestTimeout a) s = .next t ∧
      meterOf t a = some { y with request := none, queue := y.queue.filter (fun x => x.request != some q.ref) } ∧
      t.fol.outstanding = s.fol.outstanding.filter (fun o => o.ref != q.ref)) ∧
  (∀ n c, sepalUp s = true → Tab.get s.mtr.campaigns n = some c → c.ended = false → c.phase = .announce ∨ c.phase = .pass ∨ c.phase = .repair →
    ∃ t d, exec (.fwCampaignActivate n) s = .next t ∧ Tab.get t.mtr.campaigns n = some d ∧ d.phase = .activated ∧
      d.failed = c.targets.countP (fun e => !(e.2.state == some 2 || e.2.state == some 3 || e.2.state == some 5)))

/-- Control pilot, proximity and the vehicle link drive a charge point's states. Each clause names a row and the state and
operands it is for, and says the next state that exec answers. For a configured point with FIELD up: pilot and proximity
changes, the link's setting up under a network key of its own (held in the engine, beside the keys of TLS where the link has
it, and generated where an engine of the class is in service), which waits in IDLE for a coded cable, its loss, V2G messages,
and the limits on authorisation, preparation, stopping and pausing move the point as their clauses say. (R436, R438, R440,
R441, R442, R443, R445, R446) -/
def Obligations.PilotsAndLinksDriveSessions : Prop := ∀ (s : State) (k : Nat), PointUp s k →
  ((pointAt s k).phase = .idle → (pointAt s k).pilot = .a → (pointAt s k).cfg.highLevel = true → (pointAt s k).cableKnown = true →
    ∃ t, exec (.pilotChange k 1) s = .next t ∧ (pointAt t k).phase = .link ∧ (pointAt t k).pilot = .b ∧ (pointAt t k).drive = .pwm 50 ∧
      ((engineFor s 0).isSome = true → ∃ l, Tab.get t.vlt.links k = some l ∧ l.nmk.length = 16 ∧ l.nek.length = 16 ∧ l.tls = none)) ∧
  ((pointAt s k).phase = .energy → (pointAt s k).pilot = .c → (pointAt s k).isAc = true →
    ∃ t, exec (.pilotChange k 1) s = .next t ∧ (pointAt t k).phase = .paused ∧ (pointAt t k).pilot = .b ∧ (pointAt t k).contactor = false ∧
      (pointAt t k).drive = .steady) ∧
  ((pointAt s k).phase = .ended → (pointAt s k).tripHold = false → (pointAt s k).pilot ≠ .a →
    ∃ t, exec (.pilotChange k 0) s = .next t ∧ (pointAt t k).phase = .idle ∧ (pointAt t k).drive = .steady) ∧
  (∀ p, p = 3 ∨ p = 4 ∨ p = 6 ∨ p = 7 → (pointAt s k).phase.live = true → (pointAt s k).pilot ≠ pilotOf p →
    ∃ t, exec (.pilotChange k p) s = .next t ∧ Tripped s k t ∧ (pointAt t k).pilot = pilotOf p) ∧
  (∀ ohm, (pointAt s k).cfg.ppMode = 0 → (pointAt s k).ppBand = cableBand ohm →
    ∃ t, exec (.ppChange k ohm) s = .next t ∧ pointAt t k = { pointAt s k with ppOhm := ohm }) ∧
  (∀ ohm, (pointAt s k).cfg.ppMode = 0 → (pointAt s k).ppBand ≠ cableBand ohm → (pointAt s k).contactor = true → (pointAt s k).phase.live = true →
    ∃ t, exec (.ppChange k ohm) s = .next t ∧ Tripped s k t ∧ (pointAt t k).ppBand = cableBand ohm) ∧
  (∀ l w p, (pointAt s k).phase = .link → (pointAt s k).linkRetry = false → (pointAt s k).grant = none → chooseProtocol (pointAt s k).cfg l w = some p →
    ∃ t, exec (.chgLinkEstablished k l w) s = .next t ∧ (pointAt t k).phase = .auth ∧ (pointAt t k).protocol = p ∧
      (w = true → (Tab.get s.vlt.links k).isSome = true → ((Tab.get t.vlt.links k).bind (·.tls)).isSome = true)) ∧
  ((pointAt s k).phase = .link → (pointAt s k).linkRetry = false → (pointAt s k).linkFailures < 2 →
    ∃ t, exec (.chgLinkLost k) s = .next t ∧
      pointAt t k = { pointAt s k with linkFailures := (pointAt s k).linkFailures + 1, linkRetry := true, drive := .stateF, line := {} } ∧
      Tab.get t.vlt.links k = none) ∧
  ((pointAt s k).phase = .energy →
    ∃ t, exec (.chgLinkLost k) s = .next t ∧ (pointAt t k).phase = .stopping ∧ (pointAt t k).endReason = 8) ∧
  ((pointAt s k).phase = .link → (pointAt s k).linkRetry = true →
    ∃ t, exec (.linkRetryEnd k) s = .next t ∧ (pointAt t k).linkRetry = false ∧ (pointAt t k).drive = .pwm 50 ∧ (pointAt t k).phase = .link ∧
      ((engineFor s 0).isSome = true → (Tab.get t.vlt.links k).isSome = true)) ∧
  (∀ target present current, 2 ≤ (pointAt s k).protocol → (pointAt s k).phase.live = true →
    ∃ t, exec (.v2gMessageRx k (.demand target present current)) s = .next t ∧ (pointAt t k).vehicle = { (pointAt s k).vehicle with
      targetVoltageDv := target, presentVoltageDv := present, targetCurrentDa := current }) ∧
  (∀ target present, 2 ≤ (pointAt s k).protocol → (pointAt s k).phase = .prepare → (pointAt s k).prep = .precharge → (pointAt s k).tested = true →
      target ≤ present + 200 → present ≤ target + 200 →
    ∃ t, exec (.v2gMessageRx k (.precharge target present)) s = .next t ∧ (pointAt t k).contactor = true ∧ (pointAt t k).prep = .closing) ∧
  (2 ≤ (pointAt s k).protocol → (pointAt s k).phase = .energy →
    ∃ t, exec (.v2gMessageRx k .stop) s = .next t ∧ (pointAt t k).phase = .stopping ∧ (pointAt t k).endReason = 1) ∧
  ((pointAt s k).phase = .auth →
    ∃ t, exec (.authTimeout k) s = .next t ∧ (pointAt t k).phase = .ended ∧ (pointAt t k).lastEnd = 14 ∧ (pointAt t k).grant = none ∧
      (∀ x ∈ t.chg.seen, x.point ≠ k)) ∧
  ((pointAt s k).phase = .prepare → (pointAt s k).prep = .closing → feedbackOf s k = some .closed →
    ∃ t, exec (.preparationComplete k) s = .next t ∧
      (pointAt t k).phase = (if limitPositive (pointAt s k) (pointAt s k).targetDkw then .energy else .paused) ∧ (pointAt t k).prep = .none) ∧
  ((pointAt s k).phase = .stopping → (pointAt s k).contactor = false → feedbackOf s k = some .opened →
    ∃ t, exec (.stoppingComplete k) s = .next t ∧ (pointAt t k).phase = .ended ∧ (pointAt t k).lastEnd = (pointAt s k).endReason ∧
      (pointAt t k).session = 0 ∧ (pointAt t k).drive = .steady) ∧
  ((pointAt s k).phase = .stopping → ∃ t, exec (.stoppingOpenTimeout k) s = .next t ∧ (pointAt t k).contactor = false ∧ (pointAt t k).phase = .stopping) ∧
  ((pointAt s k).phase = .paused → (pointAt s k).isAc = true →
    ∃ t, exec (.pauseContactorTimeout k) s = .next t ∧ (pointAt t k).contactor = false ∧ (pointAt t k).phase = .paused) ∧
  ((pointAt s k).phase = .paused → ∃ t, exec (.pauseLimit k) s = .next t ∧ (pointAt t k).phase = .stopping ∧ (pointAt t k).endReason = 13) ∧
  ((pointAt s k).phase = .idle → (pointAt s k).pilot = .a → (pointAt s k).cfg.highLevel = true → (pointAt s k).cableKnown = false →
    ∃ t, exec (.pilotChange k 1) s = .next t ∧ (pointAt t k).phase = .idle ∧ (pointAt t k).pilot = .b ∧ (pointAt t k).drive = (pointAt s k).drive)

/-- Protective trips of a charge point. Each clause names a row and the state and operands it is for, and says the next state
that exec answers. For a configured point with FIELD up: stale metering, overcurrent, residual current, insulation and
contactor faults trip or lock the point and raise the sources their clauses name; the end of pilot F releases it. (R437,
R459, R460, R461, R462) -/
def Obligations.PointsTripOnTheirFaults : Prop := ∀ (s : State) (k : Nat), PointUp s k →
  ((pointAt s k).session ≠ 0 → 1024 ≤ (pointAt s k).missing → (pointAt s k).missingSince = none →
    ∃ t, exec (.meteringStale k) s = .next t ∧ pointAt t k = { pointAt s k with missingSince := some s.time.uptime }) ∧
  (∀ u, (pointAt s k).session ≠ 0 → 1024 ≤ (pointAt s k).missing → (pointAt s k).missingSince = some u → u + 60000 ≤ s.time.uptime →
      (pointAt s k).phase = .energy →
    ∃ t, exec (.meteringStale k) s = .next t ∧ (pointAt t k).phase = .stopping ∧ (pointAt t k).endReason = 7) ∧
  (∀ i, (pointAt s k).isAc = true → (pointAt s k).phase = .energy →
      1100 * (pointAt s k).targetDkw + 20 * (acWatts (pointAt s k).cfg : Int) < ((i * acWatts (pointAt s k).cfg : Nat) : Int) →
    ∃ t, exec (.acOvercurrent k i) s = .next t ∧ Tripped s k t) ∧
  (∀ v, v < (if sealInForce s 7 then 100 else 30) → ∃ t, exec (.rcmTrip k false v) s = .next t ∧ pointAt t k = { pointAt s k with rcmDc := v }) ∧
  (∀ v, (if sealInForce s 7 then 100 else 30) ≤ v → (pointAt s k).phase.live = true →
    ∃ t, exec (.rcmTrip k false v) s = .next t ∧ Tripped s k t ∧ (pointAt t k).contactor = false ∧ (pointAt t k).rcmDc = v ∧
      s.time.uptime ∈ (pointAt t k).rcmTrips) ∧
  (∀ v, 150 ≤ v → (pointAt s k).phase.live = true →
    ∃ t, exec (.rcmTrip k true v) s = .next t ∧ Tripped s k t ∧ (pointAt t k).contactor = false ∧ (pointAt t k).rcmAc = v) ∧
  ((pointAt s k).testing = true →
    ∃ t, exec (.rcmSelftestResult k false) s = .next t ∧ (pointAt t k).phase = .unavailable ∧ (pointAt t k).rcmFailed = true ∧ (pointAt t k).testing = false ∧
      (faultRecord t 0xA0).phase = .active ∧ (faultRecord t 0xA0).detail = 1) ∧
  ((pointAt s k).testing = true → pointWhy s k = 0 → (pointAt s k).phase = .prepare → (pointAt s k).isAc = true → (pointAt s k).pilot = .c →
    ∃ t, exec (.rcmSelftestResult k true) s = .next t ∧ (pointAt t k).contactor = true ∧ (pointAt t k).prep = .closing ∧ (pointAt t k).tested = true) ∧
  (∀ r, (pointAt s k).isAc = false → (pointAt s k).session ≠ 0 → (pointAt s k).phase.live = true →
      10000 * r < 100 * (pointAt s k).vehicle.maxVoltageDv →
    ∃ t, exec (.insulationValue k r) s = .next t ∧ Tripped s k t ∧ (pointAt t k).risoKohm = some r) ∧
  (∀ r, (pointAt s k).isAc = false → (pointAt s k).session ≠ 0 → (pointAt s k).vehicle.maxVoltageDv ≠ 0 → (pointAt s k).phase = .prepare →
      (pointAt s k).prep = .cableCheck → 500 * (pointAt s k).vehicle.maxVoltageDv ≤ 10000 * r →
    ∃ t, exec (.insulationValue k r) s = .next t ∧ pointAt t k = { pointAt s k with risoKohm := some r, prep := .precharge }) ∧
  ((pointAt s k).contactor = true → feedbackOf s k ≠ some .closed → (pointAt s k).phase.live = true →
    ∃ t, exec (.contactorCloseTimeout k) s = .next t ∧ Tripped s k t ∧ (pointAt t k).contactor = false) ∧
  ((outputAt s k).on = false → feedbackOf s k = some .closed → (pointAt s k).welded = false →
    ∃ t, exec (.contactorWelded k) s = .next t ∧ (pointAt t k).welded = true ∧ (pointAt t k).locked = true ∧ (pointAt t k).phase = .unavailable ∧
      (faultRecord t 0xA0).phase = .active ∧ (faultRecord t 0xA0).detail = 2) ∧
  ((pointAt s k).tripHold = true → (pointAt s k).phase = .ended →
    ∃ t, exec (.tripPilotFEnd k) s = .next t ∧ (pointAt t k).tripHold = false ∧ (pointAt t k).drive = .steady ∧
      (pointAt t k).phase = (if (pointAt s k).pilot = .a then .idle else .ended))

/-- Card readers, DC converters and stale limits. Each clause names a row and the state and operands it is for, and says the next
state that exec answers. With FIELD up, and for the readers their antennas driven and not muted: readers poll, identify and
authenticate cards and grant where the card is known; without them the card rows change nothing; converter frames are held, a
fault or a loss trips the point; 4 stale ticks raise 0xA1 and 64 raise 0xA0 and stop the sessions. (R449, R450, R453, R454,
R458, R542, R548) -/
def Obligations.CardsConvertersAndStaleLimits : Prop := ∀ s : State, s.pwr.fieldOn = true →
  (∀ f, f < s.chg.readers.length →
    (cardsPolled s = true → ∃ t, exec (.cardPollDwell f) s = .next t ∧ readerAt t f = { antenna := ((readerAt s f).antenna + 1) % 4, step := .idle }) ∧
    (∀ k, cardsPolled s = true → readerPoint s f = some k →
      ∃ t nonce, exec (.cardDetected f 1) s = .next t ∧ nonce.length = 16 ∧ readerAt t f = { readerAt s f with step := .ident nonce } ∧
        t.chg.cardSent = (f, 0xD0, nonce) :: s.chg.cardSent) ∧
    (∀ k n, cardsPolled s = true → readerPoint s f = some k → 2 ≤ n →
      ∃ t, exec (.cardDetected f n) s = .next t ∧ readerAt t f = { readerAt s f with step := .idle } ∧ t.chg.cardSent = s.chg.cardSent) ∧
    (∀ rate issuer number, cardsPolled s = true → (readerAt s f).step = .speed rate issuer number →
      ∃ t nonce, exec (.cardResponse f (le 1 rate)) s = .next t ∧ nonce.length = 16 ∧ (readerAt t f).step = .auth issuer number nonce ∧
        t.chg.cardSent = (f, 0xD1, nonce) :: s.chg.cardSent) ∧
    (∀ p issuer number ch key k e, cardsPolled s = true → (readerAt s f).step = .auth issuer number ch → p.length = 16 → (keyFor 0 (.card issuer number) s).1 = some key →
        (ccmOpen key 8 (p.take 8 ++ ch.take 4) (ascii "GLCA" ++ number ++ ch) (p.drop 8)).isSome = true → readerPoint s f = some k →
        (pointAt s k).phase = .idle → cardEntry s issuer number = some e → e.blocked = false → e.points.testBit k = true →
      ∃ t, exec (.cardResponse f p) s = .next t ∧ (pointAt t k).grant =
        some { account := e.account, ident := 1, card := some (issuer, number), at' := s.time.uptime } ∧ (readerAt t f).step = .idle) ∧
    ((readerAt s f).step ≠ .idle → ∃ t, exec (.cardTimeout f) s = .next t ∧ (readerAt t f).step = .idle)) ∧
  (∀ bus node k data, pointOfConverter s bus node = some k → 1 ≤ node → data.length = 16 → rd data 4 1 ≤ 2 →
    ∃ t, exec (.converterFeedbackRx bus (0x140 + node) data) s = .next t ∧ Tab.get t.chg.converters (32 * bus + node) =
      some { state := rd data 4 1, fault := rd data 5 1, voltage := rd data 6 2, current := rdS data 8 2, available := rd data 10 2,
             temperature := rdS data 12 2, tick := now s, lost := false } ∧ t.chg.trips = s.chg.trips) ∧
  (∀ bus node k data, pointOfConverter s bus node = some k → 1 ≤ node → data.length = 16 → rd data 4 1 = 3 →
      (Tab.getD s.chg.converters (32 * bus + node) {}).state ≠ 3 → (pointAt s k).phase.live = true →
    ∃ t, exec (.converterFeedbackRx bus (0x140 + node) data) s = .next t ∧ Tripped s k t) ∧
  (∀ bus node k, pointOfConverter s bus node = some k → (Tab.getD s.chg.converters (32 * bus + node) {}).lost = false →
      (Tab.getD s.chg.converters (32 * bus + node) {}).tick + 10 ≤ now s → (pointAt s k).phase.live = true →
    ∃ t, exec (.converterLost bus node) s = .next t ∧ Tripped s k t ∧ (Tab.getD t.chg.converters (32 * bus + node) {}).lost = true ∧
      (Tab.getD t.chg.converters (32 * bus + node) {}).available = 0) ∧
  (4 ≤ s.chg.stale → s.chg.stale < 64 → faultActive s 0xA1 = false →
    ∃ t, exec .staleLimits s = .next t ∧ (faultRecord t 0xA1).phase = .active ∧ (faultRecord t 0xA1).detail = 2 ∧ t.chg = s.chg) ∧
  (64 ≤ s.chg.stale → faultActive s 0xA0 = false →
    ∃ t, exec .staleLimits s = .next t ∧ (faultRecord t 0xA0).phase = .active ∧ (faultRecord t 0xA0).detail = 3 ∧
      (∀ k, k < 16 → (pointAt s k).session ≠ 0 → (pointAt s k).phase = .energy → (pointAt t k).phase = .stopping)) ∧
  (∀ f n p, cardsPolled s = false →
    exec (.cardPollDwell f) s = .next s ∧ exec (.cardDetected f n) s = .next s ∧ exec (.cardResponse f p) s = .next s)

/-- The 24 V field supply and the load switches. Each clause names a row and the state and operands it is for, and says the
next state that exec answers. With FIELD up: outputs follow their targets; supply faults raise their sources and switch
everything off, and its return starts the resume delay; heat accumulates and trips at its limit; short circuit,
over-temperature and a failed turn-on trip a switch with 0xB0; an open load is marked only. (R46, R472, R474, R475, R476,
R477, R478, R480) -/
def Obligations.FieldSupplyAndSwitchesAreSupervised : Prop := ∀ s : State, s.pwr.fieldOn = true →
  (∃ t, exec .outputEvaluation s = .next t ∧ (∀ k, (outputAt t k).on = outputTarget t k ∧ (outputTarget s k = false → (outputAt t k).on = false)) ∧
    ∀ k, (lsAt t k).on = lsTarget t (lsAt t k)) ∧
  (∀ pin v, pin < s.fio.pins.length →
    ∃ t, exec (.directPinEdge pin v) s = .next t ∧ t.fio.pins.getD pin false = v ∧
      ∀ k, (lsAt t k).config.use = .direct → (lsAt t k).config.param = pin → (lsAt t k).on = true → (s.flt.safe && (lsAt t k).config.safeGroup) = false → v = true) ∧
  (∀ dv da, s.fio.underVoltage = false → dv < 160 →
    ∃ t, exec (.field24vUndervoltage dv da) s = .next t ∧ t.fio.underVoltage = true ∧ t.fio.fieldDv = dv ∧ FaultIs t 0xB0 1 ∧
      ∀ k, (outputAt t k).on = false ∧ (lsAt t k).on = false) ∧
  (∀ dv da, s.fio.overVoltage = false → 340 < dv →
    ∃ t, exec (.field24vOvervoltage dv da) s = .next t ∧ t.fio.overVoltage = true ∧ FaultIs t 0xB1 1 ∧
      ∀ k, (outputAt t k).on = false ∧ (lsAt t k).on = false) ∧
  (∀ dv da, supplyBad s = true → 180 ≤ dv → dv ≤ 320 →
    ∃ t, exec (.field24vRestored dv da) s = .next t ∧ supplyBad t = false ∧ t.fio.resumeAt = some (s.time.uptime + 100)) ∧
  (∀ dv da, s.fio.totalHigh = false → 400 < da →
    ∃ t, exec (.field24vTotalHigh dv da) s = .next t ∧ t.fio.totalHigh = true ∧ t.fio.fieldDa = da ∧ FaultIs t 0xB0 2) ∧
  (∀ l hot, ∃ t, exec (.lsAccumulatorUpdate l hot) s = .next t ∧ ∀ k, k < lsCount s → k < s.fio.switches.length →
      (lsAt t k).wireHeat = heatStep (wireCurve (lsAt s k).config.wire) (lsAt s k).wireHeat (l.getD k 0) ∧
      (lsAt t k).chanHeat = heatStep (channelCurve s) (lsAt s k).chanHeat (l.getD k 0) ∧ (lsAt t k).current = l.getD k 0 ∧
      ((wireCurve (lsAt s k).config.wire).2 ≤ (lsAt t k).wireHeat ∨ (channelCurve s).2 ≤ (lsAt t k).chanHeat →
        (lsAt t k).overload = true ∧ (lsAt t k).on = false)) ∧
  (∀ k, k < lsCount s → (lsAt s k).on = true → (lsAt s k).ramp = false →
    ∃ t, exec (.lsShortCircuit k) s = .next t ∧ (lsAt t k).short = true ∧ (lsAt t k).on = false ∧
      (lsAt t k).trips = cap 0xFFFF ((lsAt s k).trips + 1) ∧ FaultIs t 0xB0 3) ∧
  (∀ k, k < lsCount s → k < s.fio.switches.length → (lsAt s k).overTemp = false →
    ∃ t, exec (.lsOverTemperature k) s = .next t ∧ (lsAt t k).overTemp = true ∧ (lsAt t k).on = false ∧
      (lsAt t k).trips = cap 0xFFFF ((lsAt s k).trips + 1) ∧ FaultIs t 0xB0 3) ∧
  (∀ k, k < lsCount s → (lsAt s k).on = true → (lsAt s k).ramp = true →
    ∃ t, exec (.lsRampTimeout k) s = .next t ∧ (lsAt t k).turnOnFailed = true ∧ (lsAt t k).on = false ∧
      (lsAt t k).trips = cap 0xFFFF ((lsAt s k).trips + 1) ∧ FaultIs t 0xB0 3) ∧
  (∀ k, k < lsCount s → (lsAt s k).on = true → (lsAt s k).openLoad = false → (lsAt s k).current < 20 → lsTarget s (lsAt s k) = true →
    ∃ t, exec (.lsOpenLoad k) s = .next t ∧ (lsAt t k).openLoad = true ∧ (lsAt t k).on = true ∧ (lsAt t k).trips = (lsAt s k).trips)

/-- Safety inputs, test pulses and safety outputs. Each clause names a row and the state and operands it is for, and says the
next state that exec answers. With FIELD up: test-pulse gaps, overloads and retries, demands, discrepancies and releases of
the inputs, and off pulses, open and externally fed outputs change them and raise 0xB1 as their clauses say. (R481, R482,
R483, R488, R489) -/
def Obligations.SafetyInputsAndOutputsAreSupervised : Prop := ∀ s : State, s.pwr.fieldOn = true →
  (∀ i, i < 4 → ∃ t, exec (.testPulseGap i) s = .next t ∧ t.fio.inputs = s.fio.inputs.map (beginGap i) ∧ t.fio.outputs = s.fio.outputs) ∧
  (∀ i, (s.fio.sources.getD i {}).running = true →
    ∃ t, exec (.testPulseOverload i) s = .next t ∧ t.fio.sources.getD i {} = { running := false, overloaded := true } ∧ FaultIs t 0xB1 4) ∧
  (∀ i, (s.fio.sources.getD i {}).overloaded = true →
    ∃ t, exec (.testPulseRetry i) s = .next t ∧ t.fio.sources.getD i {} =
      { running := fieldReleased s && drivesField s && !supplyBad s, overloaded := false }) ∧
  (∀ sub a b j, j < 16 → (inputAt s j).config.function = 1 → (inputAt s j).phase = .clear → checksSuspended s = false →
      counted (gapPosition s sub) = true → pulseError (inputAt s j).config.srcA (inputAt s j).a = none →
      pulseError (inputAt s j).config.srcB (inputAt s j).b = none → a.testBit j = false → 1 ≤ (inputAt s j).a.run →
    ∃ t, exec (.safetyInputSample sub a b) s = .next t ∧ (inputAt t j).phase = .demand ∧ (inputAt t j).since = some s.time.uptime ∧
      ∀ k, (inputAt s j).config.mask.testBit k = true → (outputAt t k).on = false) ∧
  (∀ sub a b j, j < 16 → (inputAt s j).config.function = 1 → (inputAt s j).phase = .clear → checksSuspended s = false →
      gapPosition s sub = gapStart (inputAt s j).config.srcA + 200 → (inputAt s j).a.badGaps = 1 → a.testBit j = true →
    ∃ t, exec (.safetyInputSample sub a b) s = .next t ∧ (inputAt t j).phase = .fault ∧ FaultIs t 0xB1 2) ∧
  (∀ j, (inputAt s j).config.function = 1 ∨ (inputAt s j).config.function = 2 ∨ (inputAt s j).config.function = 3 ∨ (inputAt s j).config.function = 5 →
      (inputAt s j).phase = .demand → (inputAt s j).a.demand = false → (inputAt s j).b.demand = false → checksSuspended s = false →
    ∃ t, exec (.safetyInputRelease j) s = .next t ∧ (inputAt t j).phase = .clear ∧ (inputAt t j).since = none ∧ (inputAt t j).both = false) ∧
  (∀ j, (inputAt s j).config.function = 1 → (inputAt s j).phase = .demand → (inputAt s j).a.demand ≠ (inputAt s j).b.demand → checksSuspended s = false →
    ∃ t, exec (.safetyInputDiscrepancy j) s = .next t ∧ (inputAt t j).phase = .fault ∧ FaultIs t 0xB1 2) ∧
  (∀ k, k < 16 → (outputAt s k).on = true →
    ∃ t, exec (.soOffPulse k true) s = .next t ∧ (outputAt t k).nextB = !(outputAt s k).nextB ∧ (outputAt t k).fault = (outputAt s k).fault) ∧
  (∀ k, k < 16 → (outputAt s k).on = true →
    ∃ t, exec (.soOffPulse k false) s = .next t ∧ (outputAt t k).fault = true ∧ (outputAt t k).on = false ∧ FaultIs t 0xB1 3) ∧
  (∀ k, k < 16 → (outputAt s k).on = true →
    ∃ t, exec (.soFailedOpen k) s = .next t ∧ (outputAt t k).fault = true ∧ (outputAt t k).on = false ∧ FaultIs t 0xB1 3) ∧
  (∀ k, k < 16 → k < s.fio.outputs.length → (outputAt s k).on = false → (outputAt s k).fed = false → drivesField s = true →
    ∃ t, exec (.soExternallyFed k) s = .next t ∧ (outputAt t k).fed = true ∧ FaultIs t 0xB1 3) ∧
  (∀ k, k < 16 → (outputAt s k).fed = true → ∃ t, exec (.soFeedCleared k) s = .next t ∧ (outputAt t k).fed = false)

/-- Panels issue, draw, time out, fault and power off. Each clause names a row and the state and operands it is for, and says
the next state that exec answers. With FIELD up: released BUSY lines send the next command of the drawing, BUSY and rail
faults end in FAULT with the queue empty, completed drawings complete their command, and the off delay powers an idle panel
off. (R491, R492, R494) -/
def Obligations.PanelsFollowTheirSteps : Prop := ∀ (s : State) (p : Nat), s.pwr.fieldOn = true →
  (∀ f d, (panelAt s p).phase = .on → (panelAt s p).profile = some f → (panelAt s p).issuing = some (d, 1) →
    ∃ t, exec (.panelBusyReleased p) s = .next t ∧ (panelAt t p).issuing = some (d, 2) ∧ (panelAt t p).busy = true ∧
      (panelAt t p).sent = (panelAt s p).sent ++ (false, f.command 1) :: d.data.map (fun b => (true, b))) ∧
  (∀ f d, (panelAt s p).phase = .on → (panelAt s p).profile = some f → (panelAt s p).issuing = some (d, 2) →
    ∃ t, exec (.panelBusyReleased p) s = .next t ∧ (panelAt t p).issuing = none ∧
      (panelAt t p).inFlight = (panelAt s p).inFlight ++ [(d, s.time.uptime + (if d.full then f.fullMs else f.refreshMs))] ∧
      (panelAt t p).sent = (panelAt s p).sent ++ [(false, f.command (if d.full then 3 else 2))]) ∧
  ((panelAt s p).busy = true →
    ∃ t, exec (.panelBusyTimeout p) s = .next t ∧ (panelAt t p).phase = .fault ∧ (panelAt t p).busy = false ∧ (panelAt t p).queue = [] ∧
      (panelAt t p).inFlight = [] ∧ (panelAt t p).issuing = none ∧ (panelAt t p).faults = cap 0xFFFFFFFF ((panelAt s p).faults + 1)) ∧
  ((panelAt s p).phase = .poweringUp →
    ∃ t, exec (.panelRailFault p) s = .next t ∧ (panelAt t p).phase = .fault ∧ (panelAt t p).queue = [] ∧
      (panelAt t p).faults = cap 0xFFFFFFFF ((panelAt s p).faults + 1)) ∧
  (∀ d e rest, (panelAt s p).inFlight = (d, e) :: rest →
    ∃ t, exec (.panelDrawComplete p) s = .next t ∧ (panelAt t p).draws = cap 0xFFFFFFFF ((panelAt s p).draws + 1) ∧
      (∀ o ∈ t.fol.outstanding, o.ref ≠ d.ref) ∧ (d.full = true → (panelAt t p).imageValid = true)) ∧
  ((panelAt s p).phase = .on → drawsWaiting (panelAt s p) = 0 →
    ∃ t, exec (.panelOffDelay p) s = .next t ∧ (panelAt t p).phase = .poweringOff ∧ (panelAt t p).busy = true ∧
      (panelAt t p).sent = (panelAt s p).sent ++ [(false, ((panelAt s p).profile.map (fun f => f.command 4)).getD 0)])

/-- Tamper inputs, the safe line, the comparator and the baton between the modules of a pair. Each clause names a row and the
state and operands it is for, and says the next state that exec answers. A tamper opening latches and raises 0x1C; the safe
line and the comparator apply the safe state; the peer's line, the claim, its confirmation, a stuck own line, the role
decision and the yield timeout move the baton and the role as their clauses say. (R541, R542, R547, R549, R550, R552, R570) -/
def Obligations.TheSafeStateAndTheBatonPass : Prop := ∀ s : State,
  (∀ l i, s.pwr.keepStopped = false → i < 5 → i < s.flt.tamper.length → (s.flt.tamper.getD i {}).enabled = true → (s.flt.tamper.getD i {}).openNow = false →
      1 ≤ (s.flt.tamper.getD i {}).run → l.getD i false = true →
    ∃ t, exec (.tamperSample l 0) s = .next t ∧ (t.flt.tamper.getD i {}).latched = true ∧ (t.flt.tamper.getD i {}).openNow = true ∧
      (t.flt.tamper.getD i {}).opens = cap 255 ((s.flt.tamper.getD i {}).opens + 1) ∧
      (s.pwr.vigilOn = true → (s.flt.tamper.getD i {}).latched = false →
        (t.flt.tamper.getD i {}).firstOpen = now s ∧ (faultRecord t 0x1C).lastTick = now s)) ∧
  (exec .faultNPulseEnd s = .next { s with flt := { s.flt with faultnPulse := false } }) ∧
  (s.pwr.fieldOn = true →
    ∃ t, exec .safeLineTimeout s = .next t ∧ t.flt.safe = true ∧ FaultIs t 0x02 1 ∧ t.duty.ownLow = false ∧
      (s.duty.ownLow = true → t.duty.holding = false ∧ ∀ k, (outputAt t k).on = false)) ∧
  (s.pwr.fieldOn = true →
    ∃ t, exec .safetyComparatorMismatch s = .next t ∧ t.flt.safe = true ∧ (faultRecord t 0x04).phase = .ended ∧ (faultRecord t 0x04).detail = 1 ∧
      (faultRecord t 0x04).injected = (Tab.get s.flt.injections 7).isSome ∧ t.duty.ownLow = false) ∧
  (s.pwr.vigilOn = true → s.duty.peerLow = false → s.duty.ownLow = false → s.duty.role = .undecided →
    ∃ t, exec (.batonPeerLine true) s = .next t ∧ t.duty.peerLow = true ∧ t.duty.role = .standby) ∧
  (s.pwr.vigilOn = true → s.duty.peerLow = false → s.duty.ownLow = false → s.duty.role = .single →
    ∃ t, exec (.batonPeerLine true) s = .next t ∧ t.duty.peerLow = true ∧ t.duty.role = .single ∧ FaultIs t 0xD0 1) ∧
  (s.pwr.vigilOn = true → s.duty.peerLow = true → s.duty.ownLow = false → s.duty.role = .standby →
    exec (.batonPeerLine false) s = .next { s with duty := { s.duty with peerLow := false, eligible := s.duty.sync == .inSync } }) ∧
  (mayClaim s = true → exec .batonClaim s = .next { s with duty := { s.duty with ownLow := true, claiming := true } }) ∧
  (s.duty.claiming = true → s.duty.peerLow = true → oddSlot s = true →
    exec .batonClaimConfirm s = .next { s with duty := { s.duty with ownLow := false, claiming := false } }) ∧
  (s.duty.claiming = true → s.duty.peerLow = false → s.duty.role = .standby →
    ∃ t, exec .batonClaimConfirm s = .next t ∧ t.duty.role = .duty ∧ t.duty.holding = true ∧ t.duty.claiming = false ∧ t.duty.epoch = claimEpoch s ∧
      t.duty.lastRoleDuty = true ∧ t.duty.takeovers = (s.duty.takeovers + 1) % 2 ^ 32 ∧ t.duty.takeoverDue = true ∧ t.duty.sync = .none) ∧
  (s.duty.claiming = true → s.duty.peerLow = false → s.duty.role = .single →
    ∃ t, exec .batonClaimConfirm s = .next t ∧ t.duty.role = .single ∧ t.duty.holding = true ∧ t.duty.claiming = false) ∧
  (s.duty.ownLow = true →
    ∃ t, exec .batonOwnLineStuck s = .next t ∧ t.duty.holding = false ∧ t.flt.safe = true ∧ FaultIs t 0x05 1) ∧
  (s.duty.contact = false → s.duty.peerLow = false → s.duty.ownLow = false → s.duty.role = .undecided →
    exec .roleDecisionTimeout s = .next { s with duty := { s.duty with eligible := s.duty.eligible || s.duty.lastRoleDuty } }) ∧
  (s.duty.contact = false → s.duty.peerLow = false → s.duty.ownLow = false → s.duty.role = .standby → s.duty.eligible = false →
    ∃ t, exec .roleDecisionTimeout s = .next t ∧ t.duty.role = .undecided ∧ t.duty.sync = .none) ∧
  (∀ r, s.duty.yieldRef = some r → s.duty.peerLow = false →
    ∃ t, exec .yieldTimeout s = .next t ∧ t.duty.yieldRef = none ∧ t.duty.eligible = true ∧ ∀ o ∈ t.fol.outstanding, o.ref ≠ r)

/-- Mirror messages, acknowledgements and resynchronisation between duty and standby. Each clause names a row and the state and
operands it is for, and says the next state that exec answers. A message in order whose tag holds (each clause speaks of the
opened payload) has the effect of its type on a standby or duty; an acknowledgement timeout decouples with 0xD1; silence ends
contact; a failed write to its own ledger store takes a standby out of sync; the end of copying ends in sync. (R553, R554,
R555, R560) -/
def Obligations.TheMirrorLinkKeepsTheStandbyInStep : Prop := ∀ (s : State) (f : Bytes),
  (s.duty.role = .standby → Mirrored s 1 f →
    ∃ t, exec (.mirrorHello f) s = .next t ∧ ∀ p, (mirrorFrame 1 f s).1 = some p → t.duty.contact = true ∧ t.duty.peerSerial = rd p 0 8 ∧
      t.duty.peerRole = rd p 9 1 ∧ t.duty.peerEpoch = rd p 12 4 ∧ t.duty.peerFrontier = rd p 16 8) ∧
  (s.duty.role = .standby → s.duty.sync = .inSync → Mirrored s 2 f →
    ∃ t, exec (.mirrorRecord f) s = .next t ∧ ∀ p, (mirrorFrame 2 f s).1 = some p → t.duty.records = s.duty.records ++ recordWrites p.length p) ∧
  (s.duty.role = .standby → s.duty.sync = .inSync → Mirrored s 3 f →
    ∃ t, exec (.mirrorClose f) s = .next t ∧ ∀ p, (mirrorFrame 3 f s).1 = some p →
      (((s.duty.records.filter (fun r => r.tick == rd p 0 8)).length = rd p 8 4 ∧
          crc32 ((s.duty.records.filter (fun r => r.tick == rd p 0 8)).flatMap recordBytes) = rd p 12 4) →
        rd p 0 8 ∈ t.duty.acked ∧ t.duty.lastAcked = max s.duty.lastAcked (rd p 0 8) ∧ t.duty.sent = (4, rd p 0 8) :: s.duty.sent) ∧
      (((s.duty.records.filter (fun r => r.tick == rd p 0 8)).length ≠ rd p 8 4) → t.duty.acked = s.duty.acked ∧ t.duty.sent = s.duty.sent)) ∧
  (s.duty.role = .duty → rd f 4 4 = s.duty.epoch → Mirrored s 4 f →
    ∃ t, exec (.mirrorAck f) s = .next t ∧ ∀ p, (mirrorFrame 4 f s).1 = some p → t.duty.lastAcked = max s.duty.lastAcked (rd p 0 8) ∧
      t.led.ticks = s.led.ticks.map (fun x => if x.label ≤ rd p 0 8 then { x with awaitingAck := false } else x)) ∧
  (s.duty.role = .standby → s.duty.sync = .inSync → Mirrored s 5 f →
    ∃ t, exec (.mirrorCommit f) s = .next t ∧ ∀ p, (mirrorFrame 5 f s).1 = some p → (frontierOfBytes p).valid = true → frontier s ≤ (frontierOfBytes p).frontier →
      t.led.record = frontierOfBytes p ∧ (∀ r ∈ t.duty.records, (frontierOfBytes p).frontier < r.tick)) ∧
  (s.duty.role = .standby → s.duty.sync = .inSync → Mirrored s 6 f →
    ∃ t, exec (.mirrorAbort f) s = .next t ∧ ∀ p, (mirrorFrame 6 f s).1 = some p → rd p 0 8 ∈ t.led.abortsPending ∧ (∀ r ∈ t.duty.records, r.tick ≠ rd p 0 8) ∧
      rd p 0 8 ∉ t.duty.acked) ∧
  (s.duty.role = .standby → s.duty.sync = .inSync → Mirrored s 7 f →
    ∃ t, exec (.mirrorConfig f) s = .next t ∧ ∀ p h, (mirrorFrame 7 f s).1 = some p → h < 32 → rd p 0 4 = 0x100000 + 2048 * h → rd p 4 4 = 1024 →
      p.length = 1032 → (Tab.getD t.led.locals h {}).a.stamp = rd p 8 8 ∧ (Tab.getD t.led.locals h {}).b = (Tab.getD s.led.locals h {}).b) ∧
  (s.duty.role = .standby → s.duty.sync = .copying → Mirrored s 8 f →
    ∃ t, exec (.mirrorCopy f) s = .next t ∧ t.duty.sync = .copying ∧ ∀ p a, (mirrorFrame 8 f s).1 = some p → rd p 0 1 ≠ 0 → rd p 4 4 = 512 * a →
      p.length = 264 → (accountHalfOfBytes (p.drop 8)).stamp ≥ (Tab.getD s.led.accounts a {}).a.stamp →
      (Tab.getD t.led.accounts a {}).a = accountHalfOfBytes (p.drop 8)) ∧
  (s.duty.role = .standby → s.duty.sync = .inSync → Mirrored s 9 f →
    ∃ t, exec (.mirrorDecoupled f) s = .next t ∧ ∀ p, (mirrorFrame 9 f s).1 = some p → t.duty.sync = .outOfSync) ∧
  (s.duty.role = .standby → Mirrored s 10 f →
    ∃ t, exec (.mirrorYield f) s = .next t ∧ t.duty.role = .standby ∧ t.duty.sync = s.duty.sync ∧
      ∀ p, (mirrorFrame 10 f s).1 = some p → t.duty.contact = true ∧ t.duty.linkEpoch = rd f 4 4 ∧ t.duty.rxSeq = rd f 9 7) ∧
  (∀ x, s.led.ticks.find? (·.awaitingAck) = some x →
    ∃ t, exec .mirrorAckTimeout s = .next t ∧ t.duty.coupled = false ∧ t.duty.alone = true ∧ t.duty.sync = .outOfSync ∧
      t.duty.decouples = (s.duty.decouples + 1) % 2 ^ 32 ∧ (∀ y ∈ t.led.ticks, y.awaitingAck = false) ∧ t.duty.sent = (9, x.label) :: s.duty.sent ∧
      FaultIs t 0xD1 1) ∧
  (∃ t, exec .mirrorSilence s = .next t ∧ t.duty.contact = false ∧
      (s.duty.role = .standby → s.duty.sync = .inSync → t.duty.sync = .outOfSync)) ∧
  (∀ n, s.duty.role = .standby → s.duty.sync = .copying →
    ∃ t, exec (.resyncComplete n) s = .next t ∧ t.duty.sync = .inSync ∧ t.duty.epoch = s.duty.peerEpoch ∧ t.duty.copyPermille = 1000 ∧
      t.duty.lastAcked = max s.duty.lastAcked n) ∧
  (∀ n, s.duty.role = .duty → s.duty.sync = .copying →
    ∃ t, exec (.resyncComplete n) s = .next t ∧ t.duty.sync = .inSync ∧ t.duty.alone = false) ∧
  (s.duty.role = .standby → s.duty.sync = .inSync → commitReady s = false →
    ∃ t, exec .frontierWriteFailed s = .next t ∧ t.duty.sync = .outOfSync ∧ t.led = s.led)

/-- Cipher engines: key requests, operations and self-tests. Each clause names a row and the state and operands it is for,
and says the next state that exec answers. For an engine that exists: a permitted key is loaded and a key that is absent is
refused and counted; an operation is counted, waits in a test, or ends it where critical; a test starts alone in its class,
returns the engine to service, or takes it out with 0xC1 or 0xC0. (R516, R525, R526, R527) -/
def Obligations.EnginesServeAndTestThemselves : Prop := ∀ (s : State) (cls i : Nat), engineExists cls i = true → i < (s.vlt.engines.getD cls []).length →
  (∀ h n c, engineUp s cls i = true → findSlot s (handleMaster h).1 (handleMaster h).2 = some n → slotInForce s n = some c → handleDerived h = false →
      (attrDest c.attr).testBit cls = true →
    ∃ t, exec (.keyRequest cls i h) s = .next t ∧ (engineAt t cls i).keys.head? = some h ∧ t.vlt.refusals = s.vlt.refusals) ∧
  (∀ h, engineUp s cls i = true → findSlot s (handleMaster h).1 (handleMaster h).2 = none →
    ∃ t, exec (.keyRequest cls i h) s = .next t ∧ t.vlt.refusals = cap 0xFFFFFFFF (s.vlt.refusals + 1) ∧ engineAt t cls i = engineAt s cls i) ∧
  (∀ crit, engineUp s cls i = true → (engineAt s cls i).testing = false →
    ∃ t, exec (.cryptoRequest cls i crit) s = .next t ∧ engineAt t cls i = { engineAt s cls i with operations := (engineAt s cls i).operations + 1 }) ∧
  (cls = 2 ∨ cls = 3 ∨ cls = 6 → engineUp s cls i = true → (engineAt s cls i).testing = true →
    ∃ t, exec (.cryptoRequest cls i false) s = .next t ∧ engineAt t cls i = { engineAt s cls i with held := (engineAt s cls i).held + 1 }) ∧
  (cls = 2 ∨ cls = 3 ∨ cls = 6 → engineUp s cls i = true → (engineAt s cls i).testing = true →
    ∃ t, exec (.cryptoRequest cls i true) s = .next t ∧ (engineAt t cls i).testing = false ∧ (engineAt t cls i).lastResult = 2 ∧
      (engineAt t cls i).aborts = (engineAt s cls i).aborts + 1 ∧
      (engineAt t cls i).operations = (engineAt s cls i).operations + (engineAt s cls i).held + 1) ∧
  (engineUp s cls i = true → (∀ j, (engineAt s cls j).testing = false) →
    ∃ t, exec (.engineSelftestStart cls i) s = .next t ∧ engineAt t cls i = { engineAt s cls i with testing := true, retest := false }) ∧
  ((engineAt s cls i).testing = true →
    ∃ t, exec (.engineSelftestResult cls i true) s = .next t ∧ (engineAt t cls i).inService = true ∧ (engineAt t cls i).testing = false ∧
      (engineAt t cls i).lastResult = (if (engineAt s cls i).retest then 3 else 0) ∧ (engineAt t cls i).keys = (engineAt s cls i).keys) ∧
  ((engineAt s cls i).testing = true → (engineAt s cls i).retest = false →
    ∃ t, exec (.engineSelftestResult cls i false) s = .next t ∧ (engineAt t cls i).inService = false ∧ (engineAt t cls i).testing = false ∧
      (engineAt t cls i).lastResult = 1 ∧ (engineAt t cls i).keys = [] ∧ t.vlt.testFailures = cap 0xFFFFFFFF (s.vlt.testFailures + 1) ∧
      ((∃ j, j ≠ i ∧ j < (s.vlt.engines.getD cls []).length ∧ (engineAt s cls j).inService = true) → FaultIs t 0xC1 1) ∧
      ((∀ j, j ≠ i → j < (s.vlt.engines.getD cls []).length → (engineAt s cls j).inService = false) → FaultIs t 0xC0 2))

/-- Backhaul ports: frames, link states, FEC, PTP hold and neighbours. Each clause names a row and the state and operands it is
for, and says the next state that exec answers. For a port of the grouping: refused frames are counted as dropped; a sample
frame in UDP to the Stem port is the row of its samples; training, up, fault, hold and FEC ratios move the port and raise 0xE0
or 0xE1; the end of the PTP hold loses a grandmaster that no other port group announces; the Vigil lane and neighbour refresh
act as their clauses say. (R364, R576, R577, R579, R580, R581, R583) -/
def Obligations.PortsFollowTheirLinks : Prop := ∀ (s : State) (p : Nat), portExists s p = true →
  (∀ f, isMirror s p = false → (portAt s p).phase = .up → (s.lnk.macsec.getD (portGroup p) {}).enable = false → rxAccepted s p f = false →
    ∃ t, exec (.ethernetFrameRx p f) s = .next t ∧
      portAt t p = { portAt s p with rxBytes := (portAt s p).rxBytes + f.length, rxDropped := (portAt s p).rxDropped + 1 }) ∧
  (∀ f q len b a, isMirror s p = false → (portAt s p).phase = .up → (s.lnk.macsec.getD (portGroup p) {}).enable = false → rxAccepted s p f = true →
      ofBe (slice (untag f).2 12 2) = 0x86DD → q = (untag f).2.drop 14 → len = ofBe (slice q 4 2) → b = slice q 40 len →
      rd q 0 1 / 16 = 6 → 40 + len ≤ q.length → 8 ≤ len → checksumGood (slice q 8 16) (slice q 24 16) 17 b = true → rd q 6 1 = 17 →
      ofBe (slice b 4 2) = len → ofBe (slice b 2 2) = 49231 → a ∈ portAddrs s p → a.address = slice q 24 16 → a.roles.testBit 1 = true → rd (b.drop 8) 1 1 = 1 →
    exec (.ethernetFrameRx p f) s = exec (.stemPlcSamples (b.drop 8)) (setPort p (fun x => { x with rxBytes := x.rxBytes + f.length }) s)) ∧
  ((portAt s p).phase = .training →
    ∃ t, exec (.portLinkUp p) s = .next t ∧ (portAt t p).phase = .up ∧ (portAt t p).failed = false ∧ (portAt t p).lastChange = now s ∧
      t.host.intStatus.getLsbD causeLink = true) ∧
  ((portAt s p).phase = .up → ((portAt s p).downTimes.filter (fun u => s.time.uptime < u + 60000)).length < 4 →
    ∃ t, exec (.portLinkFault p) s = .next t ∧ (portAt t p).phase = .training ∧ (portAt t p).downs = (portAt s p).downs + 1 ∧ FaultIs t 0xE0 1) ∧
  ((portAt s p).phase = .up → 4 ≤ ((portAt s p).downTimes.filter (fun u => s.time.uptime < u + 60000)).length →
    ∃ t, exec (.portLinkFault p) s = .next t ∧ (portAt t p).phase = .hold ∧ (portAt t p).downs = (portAt s p).downs + 1 ∧ FaultIs t 0xE0 1) ∧
  ((portAt s p).phase = .training →
    ∃ t, exec (.portTrainingTimeout p) s = .next t ∧ (portAt t p).phase = .training ∧ (portAt t p).failed = true ∧ FaultIs t 0xE0 2) ∧
  ((portAt s p).phase = .hold → ∃ t, exec (.portHoldExpiry p) s = .next t ∧ (portAt t p).phase = .training) ∧
  (∀ e n c u, (portAt s p).phase = .up → n < e * 10 ^ (portAt s p).config.fecExp →
    ∃ t, exec (.fecRatioCheck p e n c u) s = .next t ∧ (portAt t p).degraded = true ∧ (portAt t p).goodSeconds = 0 ∧
      (portAt t p).fecCorrected = (portAt s p).fecCorrected + c ∧ (portAt t p).fecUncorrected = (portAt s p).fecUncorrected + u ∧
      ((portAt s p).degraded = false → FaultIs t 0xE1 1)) ∧
  (∀ e n c u, (portAt s p).phase = .up → (portAt s p).degraded = true → e * 10 ^ (portAt s p).config.fecExp < n →
    ∃ t, exec (.fecRatioCheck p e n c u) s = .next t ∧
      (portAt t p).degraded = decide ((portAt s p).goodSeconds + 1 < 10) ∧
      (portAt t p).goodSeconds = (if (portAt s p).goodSeconds + 1 < 10 then (portAt s p).goodSeconds + 1 else 0)) ∧
  (s.lnk.laneZeroOnly = true → portZeroUp s = false → ∃ t, exec .lane0VigilTimeout s = .next t ∧ FaultIs t 0xE4 1) ∧
  (s.time.ptpHold = true → s.time.gmPort = 0 → (∀ e ∈ s.time.announces, e.1 ≠ 0 → (ptpGroups s).testBit e.1 = false) →
    ∃ t, exec .ptpHoldExpiry s = .next t ∧ t.time.ptpHold = false ∧ t.time.gmClass = 255 ∧ t.time.ptp.qualified = false) ∧
  (∀ a, (portAt s p).neighbours.any (fun n => n.address == a) = true →
    ∃ t, exec (.neighbourRefresh p a) s = .next t ∧ (∀ n ∈ (portAt t p).neighbours, n.address = a → n.refreshed = s.time.uptime) ∧
      t.lnk.icmpSent = (p, a, le 1 135 ++ zeros 7 ++ a) :: s.lnk.icmpSent)

/-- Host accesses: mailboxes, doorbells, interrupt registers, streams and reserved addresses. Each clause names a row and the
state and operands it is for, and says the next state that exec answers. With the link up: writes, rings, clears and reads
have the effect the registers' rules give, and what is set in the cycle of a clear stays; the registers read as their rules
give; a tail beyond the channel's limits and a reserved or wrongly sized access have only the effect of their host error. (R2,
R8, R9, R113, R114, R115, R116, R117, R118, R138, R139, R140) -/
def Obligations.HostRegisterAccessesTakeEffect : Prop := ∀ s : State, pcieUp s = true →
  (∀ k off (data : Bytes), k < 32 → k < s.host.mailboxes.length → off + data.length ≤ 256 → mailboxPhase s k ≠ .busy →
    ∃ t, exec (.mboxRequestWrite k off data) s = .next t ∧ slice (t.host.mailboxes.getD k {}).request off data.length = data ∧
      t.host.owner = s.host.owner ∧ t.host.done = s.host.done) ∧
  (∀ k, k < 32 → mailboxPhase s k ≠ .busy → taking s = false →
    ∃ t, exec (.mboxRing (2 ^ k)) s = .next t ∧ t.host.owner.getLsbD k = true ∧ t.host.done.getLsbD k = false ∧
      ∃ w ∈ t.fol.waiting, w.request.via = .mailbox k ∧ w.opcode = rd (s.host.mailboxes.getD k {}).request 0 2 ∧
        w.request.tag = rd (s.host.mailboxes.getD k {}).request 2 2) ∧
  (∀ mask sn, ∃ t, exec (.mboxDoneClear mask sn) s = .next t ∧
      (∀ k, k < 32 → t.host.done.getLsbD k = (s.host.done.getLsbD k && (!mask.testBit k || sn.testBit k))) ∧ t.host.owner = s.host.owner) ∧
  (∀ mask sn, ∃ t, exec (.intStatusClear mask sn) s = .next t ∧
      ∀ k, k < 32 → t.host.intStatus.getLsbD k = (s.host.intStatus.getLsbD k && (!mask.testBit k || sn.testBit k))) ∧
  (∃ t, exec (.hostErrInfoRead false) s = .next t ∧ t.host.readData = s.host.errOffset + 65536 * s.host.errCode + 16777216 * s.host.errCount ∧
      t.host.errOffset = 0 ∧ t.host.errCode = 0 ∧ t.host.errCount = 0) ∧
  (∃ t, exec (.hostErrInfoRead true) s = .next t ∧ t.host.readData = s.host.errOffset + 65536 * s.host.errCode + 16777216 * s.host.errCount ∧
      t.host.errOffset = s.host.errOffset ∧ t.host.errCode = s.host.errCode ∧ t.host.errCount = min 1 s.host.errCount) ∧
  (∃ t, exec (.gstatFrontierRead false) s = .next t ∧ t.host.readData = frontier s % 2 ^ 32 ∧ t.host.frontierLatch = some (frontier s / 2 ^ 32 % 2 ^ 32)) ∧
  (∃ t, exec (.gstatFrontierRead true) s = .next t ∧ t.host.readData = s.host.frontierLatch.getD (frontier s / 2 ^ 32 % 2 ^ 32) ∧
      t.host.frontierLatch = none) ∧
  (∀ c v, c < 8 → c < s.host.channels.length → dirNow (chan s c) = .toHost → v < 2 ^ 32 → v ≠ (chan s c).tail →
      countTo (chan s c).tail v ≤ countTo (chan s c).tail (chan s c).head →
    ∃ t, exec (.strmTailWrite c v) s = .next t ∧ (chan t c).tail = v ∧ t.host.errCount = s.host.errCount) ∧
  (∀ c v, c < 8 → dirNow (chan s c) = .closed → v < 2 ^ 32 → v ≠ (chan s c).tail →
    ∃ t, exec (.strmTailWrite c v) s = .next t ∧ (chan t c).tail = (chan s c).tail ∧ t.host.errCode = 4 ∧ t.host.errOffset = 0xA000 + 0x40 * c + 0x0C ∧
      t.host.errCount = min 255 (s.host.errCount + 1)) ∧
  (∀ c p, c < 8 → c < s.host.channels.length → (chan s c).dir = .toHost → (chan s c).down = false → (chan s c).held = [] → (chan s c).autoack = false →
      (chan s c).cursorOffset + 8 < 4096 → pageInFrame (chan s c) (chan s c).cursorFrame = some p →
    ∃ t, exec (.strmDataAccess c none) s = .next t ∧ (chan t c).cursorOffset = (chan s c).cursorOffset + 8 ∧
      t.host.readData = ofLe (slice (pageBytes c (transferIdOf (chan s c)) p) (chan s c).cursorOffset 8)) ∧
  (∀ c, c < 8 → c < s.host.channels.length → (chan s c).dir = .toHost →
    ∃ t, exec (.strmDataAccess c none) s = .next t ∧ (chan t c).down = false ∧ (chan t c).held = []) ∧
  (∀ c f off len (data : Bytes), c < 8 → c < s.host.channels.length → f < 32 → off + len ≤ 4096 → dirNow (chan s c) = .fromHost → data.length = len →
    ∃ t, exec (.streamFrameAccess c f off len (some data)) s = .next t ∧ slice (Tab.getD (chan t c).frames f {}).data off len = data ∧
      (Tab.getD (chan t c).frames f {}).lastWrite = s.time.uptime) ∧
  (∀ c f off len p, c < 8 → c < s.host.channels.length → f < 32 → off + len ≤ 4096 → (chan s c).dir = .toHost → (chan s c).down = false →
      (chan s c).held = [] → pageInFrame (chan s c) f = some p →
    ∃ t, exec (.streamFrameAccess c f off len none) s = .next t ∧ t.host.readData = ofLe (slice (pageBytes c (transferIdOf (chan s c)) p) off len)) ∧
  (∀ off wrong, off < 2 ^ 16 → ∃ t, exec (.reservedBarAccess off wrong) s = .next t ∧ t.host.readData = 0 ∧ t.host.errOffset = off ∧
      t.host.errCode = (if wrong then 6 else 3) ∧ t.host.errCount = min 255 (s.host.errCount + 1)) ∧
  (∀ v, ∃ t, exec (.registerWrite 0x104 v) s = .next t ∧ t.host.intEnable = BitVec.ofNat 32 (v % 2 ^ 22)) ∧
  (∀ v, ∃ t, exec (.registerWrite 0x10C v) s = .next t ∧ t.host.holdoffUs = v % 65536) ∧
  (∀ v, ∃ t, exec (.registerWrite 0x500 v) s = .next t ∧ t.host.errCode = 3 ∧ t.host.errOffset = 0x500) ∧
  ((readRegister 0x00 s).1 = 0x474C3130 ∧ (readRegister 0x04 s).1 = s.host.variantS.toNat + 0x10244200 ∧ (readRegister 0x08 s).1 = 0x00010000 ∧
  (readRegister 0x40 s).1 = gstat s ∧ (readRegister 0x44 s).1 = epochNow s ∧ (readRegister 0x100 s).1 = s.host.intStatus.toNat ∧
  (readRegister 0x104 s).1 = s.host.intEnable.toNat ∧ (readRegister 0x8000 s).1 = 0 ∧ (readRegister 0x8004 s).1 = s.host.owner.toNat ∧
  (readRegister 0x8008 s).1 = s.host.done.toNat ∧ (∀ o, o % 4 = 0 → reservedOffset o = true → (readRegister o s).1 = 0))

/-- Endpoint reset, interrupt holdoff and event placement. Each clause names a row and the state and operands it is for, and says
the next state that exec answers. A reset returns the interrupt block, the mailboxes and the stream channels to their reset
values, loses the responses that wait, and orphans the requests that wait; a holdoff's end sends the message held back, and
none else; an event goes into the next page of channel 0. (R115, R118, R143, R144, R150) -/
def Obligations.ResetsAndInterruptsOfThePort : Prop := ∀ s : State,
  (∀ perst, ∃ t, exec (.pcieReset perst) s = .next t ∧ t.pwr.perstReleased = (s.pwr.perstReleased && !perst) ∧
      (∀ k m, k < 32 → s.host.done.getLsbD k = true → t.host.mailboxes[k]? = some m → m.response = []) ∧
      (∀ c, c < 8 → c < s.host.channels.length → (chan t c).head = 0 ∧ (chan t c).tail = 0 ∧ (chan t c).pages = [] ∧ (chan t c).push = none ∧
        (chan t c).autoack = false ∧ (0 < c → dirNow (chan t c) = .closed)) ∧ t.host.owner = 0 ∧ t.host.done = 0 ∧ t.host.intStatus = 0 ∧ t.host.intEnable = 0 ∧
      t.host.holdoffUs = 0 ∧ t.host.intMap = List.range 22 ∧ t.host.errCount = 0 ∧ t.host.errCode = 0 ∧ t.host.errOffset = 0 ∧ t.host.frontierLatch = none ∧
      (perst = true → t.host.linkTraining = false) ∧ (∀ w ∈ t.fol.waiting, w.request.isUdp = false → w.orphan = true)) ∧
  (∀ v e, s.host.msix[v]? = some e → e.holdoff = true → e.heldBack = false →
    ∃ t, exec (.intHoldoffExpiry v) s = .next t ∧ t.host.msix[v]? = some { e with holdoff := false, heldBack := false } ∧ t.host.msiSent = s.host.msiSent) ∧
  (∀ v e, s.host.msix[v]? = some e → e.holdoff = true → e.heldBack = true → e.masked = false →
    ∃ t, exec (.intHoldoffExpiry v) s = .next t ∧ t.host.msiSent = v :: s.host.msiSent) ∧
  (∀ e, s.pwr.vigilOn = true → s.fol.ready = true → s.fol.restarting = false → s.svc.phase = .idle → (chan s 0).udp = none → mayProduce (chan s 0) = true →
      (chan s 0).waiting = [] → 0 < s.host.channels.length → s.fol.events = [e] → e.coalesces = false → e.payload.length ≤ 240 → s.fol.overflowCount = 0 →
    ∃ t p, exec .eventPlacement s = .next t ∧ t.fol.events = [] ∧ (chan t 0).pages = (chan s 0).pages ++ [p] ∧ p.body = eventRecord e s.fol.eventSeq ∧
      p.seq = (chan s 0).nextSeq)

/-- Sessions, lockouts, UDP events, stream pages and transfers follow their timers. Each clause names a row and the state and
operands it is for, and says the next state that exec answers. Idle and pending timeouts end sessions; lockouts expire; UDP
events are sent again until the twentieth time; a page that is abandoned is queued again with its requeue mark; a stalled
frame alone is discarded; datagrams of a session are sealed under its keys; a transfer that times out closes its channel and
completes with NOT_READY; a clear SYS_IDENTIFY over UDP is answered; an acknowledged event is not sent again. (R132, R134,
R139, R140, R141, R148, R149, R195) -/
def Obligations.SessionsAndStreamsFollowTheirTimers : Prop := ∀ s : State,
  (∀ h x, findSession s h = some x → x.pending = false →
    ∃ t, exec (.sessionIdleTimeout h) s = .next t ∧ (∀ y ∈ t.fol.sessions, y.handle ≠ h) ∧ t.host.intStatus.getLsbD causeSession = true) ∧
  (∀ h x, findSession s h = some x → x.pending = true →
    ∃ t, exec (.sessionPendingTimeout h) s = .next t ∧ ∀ y ∈ t.fol.sessions, y.handle ≠ h) ∧
  (∀ p, ∃ t, exec (.principalLockoutExpiry p) s = .next t ∧ t.fol.locked = s.fol.locked.filter (· != p)) ∧
  (∀ h q u e, (findSession s h).bind (·.udp) = some u → u.unacked.find? (fun x => x.1 == q) = some e → e.2.2.1 < 20 →
    ∃ t, exec (.udpEventResend h q) s = .next t ∧ t.fol.datagrams = sealedDatagram u h 2 q e.2.1 :: s.fol.datagrams) ∧
  (∀ h q u e, (findSession s h).bind (·.udp) = some u → u.unacked.find? (fun x => x.1 == q) = some e → 20 ≤ e.2.2.1 →
    ∃ t, exec (.udpEventResend h q) s = .next t ∧ ∀ y ∈ t.fol.sessions, y.handle ≠ h) ∧
  (∀ c p, (chan s c).dir = .toHost → (chan s c).push = none → (chan s c).pages.head? = some p → p.pinned = true → c < 8 → c < s.host.channels.length →
    ∃ t, exec (.streamPageAbandon c) s = .next t ∧ (chan t c).abandoned = min 65535 ((chan s c).abandoned + 1) ∧
      (∃ q, (q ∈ (chan t c).pages ∨ q ∈ (chan t c).waiting) ∧ q.body = p.body ∧ q.requeueOf = some p.seq ∧ q.pinned = false) ∧
      t.host.intStatus.getLsbD (8 + c) = true) ∧
  (∀ c e es f, dirNow (chan s c) = .fromHost → partFrames (chan s c) = e :: es → f = (es.foldl staler e).1 → c < 8 → c < s.host.channels.length →
    ∃ t, exec (.streamPageStall c) s = .next t ∧ Tab.get (chan t c).frames f = none ∧
      (∀ g, g ≠ f → Tab.get (chan t c).frames g = Tab.get (chan s c).frames g) ∧
      (chan t c).abandoned = min 65535 ((chan s c).abandoned + 1) ∧ t.host.intStatus.getLsbD (8 + c) = true) ∧
  (∀ c p, dirNow (chan s c) = .toHost → (chan s c).push.isSome = true → (chan s c).pages.getLast? = some p → c < 8 → c < s.host.channels.length →
    ∃ t, exec (.streamPushStall c) s = .next t ∧ (chan t c).abandoned = min 65535 ((chan s c).abandoned + 1) ∧ (chan t c).head = p.seq ∧
      (chan t c).waiting.head? = some { p with requeueOf := some p.seq, pinned := false, acked := false }) ∧
  (∀ c x o, (chan s c).dir = .fromHost → (chan s c).transfer = some x → x.opcode ≠ 0x0F01 → c < s.host.channels.length →
      s.fol.outstanding.find? (fun y => y.ref == x.ref) = some o →
    ∃ t, exec (.streamReceiveTimeout c) s = .next t ∧ (chan t c).dir = .closed ∧ (chan t c).transfer = none ∧
      ∃ e ∈ t.fol.events, e.kind = 0x0100 ∧ e.source = o.session ∧ rd e.payload 2 2 = o.tag % 65536 ∧ rd e.payload 4 1 = stNotReady) ∧
  (∀ peer d, s.pwr.vigilOn = true → taking s = true → datagramFormed 0 d = true → rd d 4 4 = 0 → (parseRequest (.udp (rd d 8 8)) (pad 256 (slice d 24 (rd d 16 2)))).2.session = 0 →
      findSession s 0 = none → (parseRequest (.udp (rd d 8 8)) (pad 256 (slice d 24 (rd d 16 2)))).1 = 0x0100 →
      (parseRequest (.udp (rd d 8 8)) (pad 256 (slice d 24 (rd d 16 2)))).2.isAsync = false →
      validate cmdSysIdentify { opcode := 0x0100, request := (parseRequest (.udp (rd d 8 8)) (pad 256 (slice d 24 (rd d 16 2)))).2 } s = none →
    ∃ t body, exec (.udpRequestRx peer d) s = .next t ∧ { peer := peer, bytes := datagramBytes none 0 1 (rd d 8 8) body } ∈ t.fol.datagrams ∧ rd body 0 2 = 0x0100 ∧ rd body 4 1 = stOk ∧ rd body 16 2 = 0x1024) ∧
  (∀ d u b, s.pwr.vigilOn = true → datagramFormed 3 d = true → rd d 4 4 ≠ 0 → (findSession s (rd d 4 4)).bind (fun x => if x.pending then none else x.udp) = some u →
      (engineWork (folsetClass 0 s) s).1 = true → gcmOpen u.keyToModule (slice d 4 12) (d.take 24) (d.drop 24) = some b → b.length = 8 → u.unsent = [] →
    ∃ t, exec (.udpEventAckRx d) s = .next t ∧ ∀ x ∈ t.fol.sessions, x.handle = rd d 4 4 → ∀ v, x.udp = some v → ∀ e ∈ v.unacked, e.1 ≠ ofLe b)

/-- Folset faults take it out of service, its restart brings it back without sessions, and a break at start-up, or in the moisture
hold, leaves the module to Jorny. Each clause names a row and the state and operands it is for, and says the next state that
exec answers. A lockstep mismatch drops queued and outstanding commands and raises 0x10; an SRAM error raises 0x11, and one
that takes a trace record with it is counted as a record lost; the end of the restart makes Folset ready with no session. A
break in STARTING or HOLD with Vigil powered, BLANK or SERVICE: Jorny stands alone with no bound role, Folset is not ready,
FIELD and COMPUTE are off and the mode stays. (R10, R207, R608) -/
def Obligations.FolsetFaultsAndRestarts : Prop := ∀ s : State,
  (s.pwr.vigilOn = true → s.fol.ready = true → s.fol.restarting = false → s.svc.jorny.standalone = false → s.svc.phase ≠ .glf →
    (∃ t, exec .folsetLockstepMismatch s = .next t ∧ t.fol.ready = false ∧ t.fol.restarting = true ∧ t.fol.waiting = [] ∧ t.fol.outstanding = [] ∧
      (faultRecord t 0x10).phase = .active) ∧
    (∃ t, exec (.folsetSramError none) s = .next t ∧ t.fol.ready = false ∧ t.fol.restarting = true ∧ (faultRecord t 0x11).phase = .active)) ∧
  (∀ n, s.pwr.vigilOn = true → s.svc.trace.any (fun r => r.seq == n && !r.lost) = true →
    ∃ t, exec (.folsetSramError (some n)) s = .next t ∧ (∀ r ∈ t.svc.trace, r.seq = n → r.lost = true) ∧ t.svc.lost = s.svc.lost + 1 ∧
      t.svc.lostMask = s.svc.lostMask ||| 1 ∧ t.fol = s.fol) ∧
  (s.fol.restarting = true → s.svc.jorny.standalone = false → s.pwr.vigilOn = true → s.fol.waiting = [] →
    ∃ t, exec .folsetRestartComplete s = .next t ∧ t.fol.restarting = false ∧ t.fol.ready = true ∧ t.fol.sessions = [] ∧ t.fol.lostRequests = []) ∧
  (s.pwr.vigilOn = true → (s.pwr.mode = .starting ∨ s.pwr.mode = .hold) → (s.fol.lifecycle = .blank ∨ s.fol.lifecycle = .service) →
    ∃ t, exec .jornyBreak s = .next t ∧ t.svc.jorny.standalone = true ∧ t.svc.jorny.bound = none ∧ t.fol.ready = false ∧
      t.pwr.fieldOn = false ∧ t.pwr.computeOn = false ∧ t.pwr.mode = s.pwr.mode)

/-- Live updates: quiesce, switch, probation, revert, GL-F and the trace freeze. Each clause names a row and the state and
operands it is for, and says the next state that exec answers. A quiesce that times out is abandoned; a ready image switches
and starts its probation; a switch that times out reverts; probation ends in the new image; a GL-F switch and the trace
freeze act as their clauses say. (R599, R600, R601, R605) -/
def Obligations.UpdatesSwitchAndRevert : Prop := ∀ s : State,
  (s.svc.phase = .quiescing → s.fol.waiting = [] →
    ∃ t, exec .updateQuiesceTimeout s = .next t ∧ t.svc.phase = .idle ∧ t.svc.updateRef = none ∧ t.fol.updating = false ∧ t.fol.version = s.fol.version ∧
      ∀ r, s.svc.updateRef = some r → ∀ o ∈ t.fol.outstanding, o.ref ≠ r) ∧
  (s.svc.phase = .switched → s.fol.waiting = [] →
    ∃ t, exec .folsetUpdateReady s = .next t ∧ t.svc.phase = .probation ∧ t.svc.probationEnd = s.time.uptime + 1000 * s.svc.probationS ∧
      t.svc.runningB = !activeB s ∧ t.fol.version = folsetOf (buildBank s) ∧ t.fol.ready = true ∧ t.fol.updating = false ∧ t.svc.updateRef = none) ∧
  (s.svc.phase = .switched →
    ∃ t, exec .folsetSwitchTimeout s = .next t ∧ t.svc.phase = .idle ∧ t.fol.ready = false ∧ t.fol.restarting = true ∧ t.fol.version = s.fol.version ∧
      t.svc.runningB = s.svc.runningB ∧ (faultRecord t 0xF0).lastTick = now s ∧ t.fol.outstanding = []) ∧
  (s.svc.phase = .probation → s.svc.autoCommit = true → s.svc.build = .valid →
    ∃ t, exec .probationEnd s = .next t ∧ t.svc.phase = .idle ∧ t.svc.build = .none ∧ t.svc.lastCommitTick = now s ∧
      ((buildBank s).valid = true → activeB t = !activeB s)) ∧
  (s.svc.phase = .probation → s.svc.autoCommit = false → exec .probationEnd s = .next { s with svc := { s.svc with phase := .idle } }) ∧
  (s.svc.phase = .glf →
    ∃ t, exec (.glfSwitchComplete true) s = .next t ∧ t.svc.phase = .idle ∧ t.svc.updateRef = none ∧
      t.svc.glf = (buildBank s).glf.foldl (fun x e => Tab.put x e.1 e.2) s.svc.glf ∧ ∀ r, s.svc.updateRef = some r → ∀ o ∈ t.fol.outstanding, o.ref ≠ r) ∧
  (s.svc.phase = .glf →
    ∃ t, exec (.glfSwitchComplete false) s = .next t ∧ t.svc.phase = .idle ∧ t.svc.updateRef = none ∧ t.svc.glf = s.svc.glf ∧
      (faultRecord t 0xF6).lastTick = now s ∧ (faultRecord t 0xF6).detail = 1) ∧
  (∀ b n k, s.svc.trigger = some (b, n, k) → s.svc.frozen = true ∨ b + s.svc.postBlocks ≤ s.svc.block →
    ∃ t, exec .traceFreeze s = .next t ∧ t.svc.frozen = true ∧ t.svc.trigger = none ∧ t.svc.trace = s.svc.trace)

/-- Jorny's commands over the service UART. Each clause names a row and the state and operands it is for, and says the next
state that exec answers. With Jorny answering and the module not SCRAPPED: each command answers OK with its lines and its
effect, a signature answers OK and binds only where it verifies and DENIED_ROLE otherwise, LOAD takes blocks whose CRC holds
and refuses the others. (R608, R609, R610) -/
def Obligations.JornyCommandsTakeEffect : Prop := ∀ s : State, jornyUp s = true → s.fol.lifecycle ≠ .scrapped →
  (∃ t, exec .jornyHelp s = .next t ∧ JornySays t stOk jornyCommands) ∧
  (∃ t, exec .jornyId s = .next t ∧ JornySays t stOk [identityBytes s]) ∧
  (∃ t, exec .jornyStatus s = .next t ∧ JornySays t stOk [le 4 (gstat s), le 8 (frontier s), le 1 s.pwr.mode.code ++ le 1 (effective s).code, le 1 s.pwr.handover.code]) ∧
  (∃ t, exec (.jornyFaults none) s = .next t ∧
    JornySays t stOk ((s.flt.records.filter (fun e => e.2.phase != .idle)).map (fun e => faultRecordBytes e.1 e.2))) ∧
  (∀ k, (sourceClass k).isSome = true → ∃ t, exec (.jornyFaults (some k)) s = .next t ∧ JornySays t stOk [faultRecordBytes k (faultRecord s k)]) ∧
  (∀ code p r cred, roleOf code = some r → p ≤ 63 → roleOpens s.fol.lifecycle r = true → principalFor s p r false = some cred →
    ∃ t ch, exec (.jornyAuth code p) s = .next t ∧ ch.length = 32 ∧ JornySays t stOk [ch] ∧ t.svc.jorny.challenge = some (r, p, ch)) ∧
  (∀ sig r p ch cred, s.svc.jorny.challenge = some (r, p, ch) → principalFor s p r false = some cred → (engineWork (folsetClass 1 s) s).1 = true →
    ∃ t, exec (.jornySig sig) s = .next t ∧ t.svc.jorny.challenge = none ∧
      (if (decide (sig.length = if attrType cred.attr = 5 then 96 else 64) && authGood cred (jornyMessage s r.code p ch) sig) = true then
        JornySays t stOk [] ∧ t.svc.jorny.bound.map (fun b => (b.1, b.2.1)) = some (r, p)
       else JornySays t stDeniedRole [] ∧ (s.svc.jorny.bound = none → t.svc.jorny.bound = none))) ∧
  (∃ t, exec .jornyLogout s = .next t ∧ JornySays t stOk [] ∧ t.svc.jorny.bound = none ∧ t.svc.jorny.challenge = none) ∧
  (∀ n, s.svc.jorny.bound.isSome = true → ∃ t, exec (.jornyTrace (some n)) s = .next t ∧
    JornySays t stOk ((s.svc.trace.drop (s.svc.trace.length - n)).map traceBytes)) ∧
  (∀ k rs, s.svc.jorny.bound.isSome = true → k ≤ 1 → traceSource s (k + 1) = some rs → ∃ t, exec (.jornyTail k) s = .next t ∧
    JornySays t stOk (rs.map traceBytes)) ∧
  (∃ t, exec .jornyBank s = .next t ∧ JornySays t stOk [bankBytes s]) ∧
  (jornyMay .warden s = true → s.svc.jorny.load = none → bankRefused 1 0 s = none → ∃ t, exec .jornyBankCommit s = .next t ∧ JornySays t stOk [] ∧
    t.svc.build = .none ∧ t.svc.lastCommitTick = now s) ∧
  (∀ b, jornyMay .warden s = true → s.svc.jorny.load = none → bankRefused 3 b.toNat s = none → ∃ t, exec (.jornyBankUse b) s = .next t ∧ JornySays t stOk [] ∧
    activeB t = b) ∧
  (∀ target len, jornyMay .warden s = true → s.svc.jorny.standalone = true → s.svc.jorny.load = none → target ≤ 4 → 257 ≤ len → len ≤ imageLimit target + 256 →
    ∃ t, exec (.jornyLoad target len) s = .next t ∧ JornySays t stOk [ascii "READY"] ∧ t.svc.jorny.load = some (target, len, [])) ∧
  (∀ target len got off data, s.svc.jorny.load = some (target, len, got) → data.length = 1024 → off % 1024 = 0 → off ≤ got.length →
    (got.take off ++ data ++ got.drop (off + 1024)).length < len →
    ∃ t, exec (.jornyLoadBlock off data (blockCrc off data)) s = .next t ∧ t.svc.jorny.load = some (target, len, got.take off ++ data ++ got.drop (off + 1024)) ∧
      t.svc.jorny.answer = [[0x06]]) ∧
  (∀ target len got off data crc, s.svc.jorny.load = some (target, len, got) → crc ≠ blockCrc off data →
    ∃ t, exec (.jornyLoadBlock off data crc) s = .next t ∧ t.svc.jorny.load = some (target, len, got) ∧ t.svc.jorny.answer = [[0x15]]) ∧
  (s.svc.jorny.load.isSome = true → ∃ t, exec .jornyLoadTimeout s = .next t ∧ t.svc.jorny.load = none ∧ t.svc.jorny.result = stNotReady) ∧
  (jornyMay .warden s = true → s.svc.phase ≠ .glf → ∃ t, exec .jornyRestart s = .next t ∧ t.fol.ready = false ∧ t.fol.restarting = true ∧ t.svc.jorny.standalone = false) ∧
  (∃ t, exec .jornyRoleTimeout s = .next t ∧ t.svc.jorny.bound = none ∧ t.svc.jorny.challenge = none)

/-- Reads of a bridge, network, connection or meter that is out of range or absent get the status the spec names. For a
request served over a mailbox (its mailbox not BUSY, Folset taking requests, neither ASYNC nor DRYRUN, validation passed):
STEM_BRIDGE_READ, PLC_NETWORK_READ and RF_NETWORK_READ of a bridge above 8,191, RF_CONN_READ of a bridge above 8,191 or a
node above 511, MTR_READ of an account above 1,048,575 answer OUT_OF_RANGE with the offset of the field; with the fields in
range and the reserved bytes zero, STEM_BRIDGE_READ of an ABSENT bridge, PLC_NETWORK_READ of an ABSENT bridge or one without
the power-line stream, RF_NETWORK_READ of a bridge without a radio configuration, RF_CONN_READ of a node that no radio
account names, MTR_READ of an account without a binding answer NOT_READY. Each response has an empty payload and the mailbox
is DONE. (R393, R395, R427, R428, R430) -/
def Obligations.ReadsRefuseWhatIsAbsent : Prop := ∀ (s : State) (rq : Request) (k : Nat),
  (Served cmdStemBridgeRead rq k s → 8191 < arg rq 0 2 →
    ∃ t, exec (.stemBridgeRead rq) s = .next t ∧ Reports 0x0810 rq k stOutOfRange 16 [] t) ∧
  (Served cmdStemBridgeRead rq k s → arg rq 0 2 ≤ 8191 → arg rq 2 2 = 0 → (bridgeAt s (arg rq 0 2)).phase = .absent →
    ∃ t, exec (.stemBridgeRead rq) s = .next t ∧ Reports 0x0810 rq k stNotReady 0 [] t) ∧
  (Served cmdPlcNetworkRead rq k s → 8191 < arg rq 0 2 →
    ∃ t, exec (.plcNetworkRead rq) s = .next t ∧ Reports 0x0850 rq k stOutOfRange 16 [] t) ∧
  (Served cmdPlcNetworkRead rq k s → arg rq 0 2 ≤ 8191 → arg rq 2 2 = 0 →
      ((bridgeAt s (arg rq 0 2)).phase = .absent ∨ (bridgeAt s (arg rq 0 2)).config.streams.testBit 0 = false) →
    ∃ t, exec (.plcNetworkRead rq) s = .next t ∧ Reports 0x0850 rq k stNotReady 0 [] t) ∧
  (Served cmdRfNetworkRead rq k s → 8191 < arg rq 0 2 →
    ∃ t, exec (.rfNetworkRead rq) s = .next t ∧ Reports 0x0910 rq k stOutOfRange 16 [] t) ∧
  (Served cmdRfNetworkRead rq k s → arg rq 0 2 ≤ 8191 → arg rq 2 2 = 0 → rfAt s (arg rq 0 2) = none →
    ∃ t, exec (.rfNetworkRead rq) s = .next t ∧ Reports 0x0910 rq k stNotReady 0 [] t) ∧
  (Served cmdRfConnRead rq k s → 8191 < arg rq 0 2 →
    ∃ t, exec (.rfConnRead rq) s = .next t ∧ Reports 0x0911 rq k stOutOfRange 16 [] t) ∧
  (Served cmdRfConnRead rq k s → arg rq 0 2 ≤ 8191 → 511 < arg rq 2 2 →
    ∃ t, exec (.rfConnRead rq) s = .next t ∧ Reports 0x0911 rq k stOutOfRange 18 [] t) ∧
  (Served cmdRfConnRead rq k s → arg rq 0 2 ≤ 8191 → arg rq 2 2 ≤ 511 → accountNaming s (arg rq 0 2) (arg rq 2 2) true = none →
    ∃ t, exec (.rfConnRead rq) s = .next t ∧ Reports 0x0911 rq k stNotReady 0 [] t) ∧
  (Served cmdMtrRead rq k s → 2 ^ 20 ≤ arg rq 0 4 →
    ∃ t, exec (.mtrRead rq) s = .next t ∧ Reports 0x0941 rq k stOutOfRange 16 [] t) ∧
  (Served cmdMtrRead rq k s → arg rq 0 4 < 2 ^ 20 → meterOf s (arg rq 0 4) = none →
    ∃ t, exec (.mtrRead rq) s = .next t ∧ Reports 0x0941 rq k stNotReady 0 [] t)
end

