-- ==== Sys2Proof/Laws/Keeps.lean ====
section
/-!
SUPPORT. What every operation of the block keeps: the relation `Keeps` from a state to a later one, and the rules that carry it
through updates, branches, bindings and loops.
-/

namespace Sys2Proof.Machine

/-- What a change of the host part keeps: no mailbox is in Folset's hands and done at once (R118 of 05); the serial number, the
variant and the slot stay (R113 of 05). -/
structure HostKeeps (a b : HostState) : Prop where
  mail : a.owner &&& a.done = 0#32 → b.owner &&& b.done = 0#32
  ident : b.serial = a.serial ∧ b.variantS = a.variantS ∧ b.slot = a.slot

/-- The parts that `HostKeeps` speaks of are equal. -/
structure SameMail (a b : HostState) : Prop where
  owner : b.owner = a.owner
  done : b.done = a.done
  ident : b.serial = a.serial ∧ b.variantS = a.variantS ∧ b.slot = a.slot

theorem HostKeeps.same {a b : HostState} (h : SameMail a b) : HostKeeps a b :=
  ⟨fun m => by rw [h.owner, h.done]; exact m, h.ident⟩

/-- What a change of Folset's part keeps: references rise, SCRAPPED stays, at most 16 sessions, the general part of the event
queue is bounded (R122, R132, R145, R157 of 05). -/
structure FolKeeps (a b : FolsetState) : Prop where
  refs : a.nextRef ≤ b.nextRef
  final : a.lifecycle = .scrapped → b.lifecycle = .scrapped
  sessions : a.sessions.length ≤ 16 → b.sessions.length ≤ 16
  events : generalCount a ≤ 3839 → generalCount b ≤ 3839

/-- What a change of the ledger part keeps: at most two ledger ticks are open (R98 of 04). -/
structure LedKeeps (a b : LedgerState) : Prop where
  ticks : a.ticks.length ≤ 2 → b.ticks.length ≤ 2

/-- The parts of the mask `a` are among those of `m`. -/
def Sub (a m : Nat) : Prop := a ||| m = m

theorem Sub.of {a b m : Nat} (h : Sub b m) (e : a ||| b = b) : Sub a m := by
  unfold Sub at *
  rw [← h, ← Nat.or_assoc, e]

theorem Sub.bit {a m i : Nat} (h : Sub a m) (e : m.testBit i = false) : a.testBit i = false := by
  rw [← h, Nat.testBit_or, Bool.or_eq_false_iff] at e
  exact e.1

theorem bif_eq {α : Type} {b : Bool} {x y : α} (h : b = false → x = y) : x = (bif b then x else y) := by
  cases b
  · exact h rfl
  · rfl

theorem bif_false {α : Type} {b : Bool} {x y : α} (h : x = bif b then x else y) (e : b = false) : x = y := by
  rw [e] at h
  exact h

/-- A frame part by part. -/
theorem frame_iff {m : Nat} {s t : State} : Frame m s t ↔
    ((m.testBit 0 = false → t.draws = s.draws) ∧ (m.testBit 1 = false → t.host = s.host) ∧
     (m.testBit 2 = false → t.fol = s.fol) ∧ (m.testBit 3 = false → t.pwr = s.pwr) ∧
     (m.testBit 4 = false → t.time = s.time) ∧ (m.testBit 5 = false → t.led = s.led) ∧
     (m.testBit 6 = false → t.gens = s.gens) ∧ (m.testBit 7 = false → t.yrw = s.yrw) ∧
     (m.testBit 8 = false → t.mem = s.mem) ∧ (m.testBit 9 = false → t.met = s.met) ∧
     (m.testBit 10 = false → t.seals = s.seals) ∧ (m.testBit 11 = false → t.flt = s.flt) ∧
     (m.testBit 12 = false → t.duty = s.duty) ∧ (m.testBit 13 = false → t.svc = s.svc) ∧
     (m.testBit 14 = false → t.vlt = s.vlt) ∧ (m.testBit 15 = false → t.stem = s.stem) ∧
     (m.testBit 16 = false → t.mtr = s.mtr) ∧ (m.testBit 17 = false → t.bal = s.bal) ∧
     (m.testBit 18 = false → t.fio = s.fio) ∧ (m.testBit 19 = false → t.chg = s.chg) ∧
     (m.testBit 20 = false → t.lnk = s.lnk)) := by
  cases s
  cases t
  simp only [Frame, State.mk.injEq, true_and]
  repeat' apply and_congr
  all_goals exact ⟨bif_false, bif_eq⟩

theorem Frame.refl (m : Nat) (s : State) : Frame m s s :=
  frame_iff.mpr ⟨fun _ => rfl, fun _ => rfl, fun _ => rfl, fun _ => rfl, fun _ => rfl, fun _ => rfl, fun _ => rfl, fun _ => rfl,
    fun _ => rfl, fun _ => rfl, fun _ => rfl, fun _ => rfl, fun _ => rfl, fun _ => rfl, fun _ => rfl, fun _ => rfl, fun _ => rfl,
    fun _ => rfl, fun _ => rfl, fun _ => rfl, fun _ => rfl⟩

theorem Frame.trans {m : Nat} {s t u : State} (a : Frame m s t) (b : Frame m t u) : Frame m s u := by
  rw [frame_iff] at *
  obtain ⟨a0, a1, a2, a3, a4, a5, a6, a7, a8, a9, a10, a11, a12, a13, a14, a15, a16, a17, a18, a19, a20⟩ := a
  obtain ⟨b0, b1, b2, b3, b4, b5, b6, b7, b8, b9, b10, b11, b12, b13, b14, b15, b16, b17, b18, b19, b20⟩ := b
  exact ⟨fun e => (b0 e).trans (a0 e), fun e => (b1 e).trans (a1 e), fun e => (b2 e).trans (a2 e), fun e => (b3 e).trans (a3 e),
    fun e => (b4 e).trans (a4 e), fun e => (b5 e).trans (a5 e), fun e => (b6 e).trans (a6 e), fun e => (b7 e).trans (a7 e),
    fun e => (b8 e).trans (a8 e), fun e => (b9 e).trans (a9 e), fun e => (b10 e).trans (a10 e), fun e => (b11 e).trans (a11 e),
    fun e => (b12 e).trans (a12 e), fun e => (b13 e).trans (a13 e), fun e => (b14 e).trans (a14 e), fun e => (b15 e).trans (a15 e),
    fun e => (b16 e).trans (a16 e), fun e => (b17 e).trans (a17 e), fun e => (b18 e).trans (a18 e), fun e => (b19 e).trans (a19 e),
    fun e => (b20 e).trans (a20 e)⟩

/-- A frame holds for a larger mask. -/
theorem Frame.of_sub {c m : Nat} {s t : State} (h : Sub c m) (f : Frame c s t) : Frame m s t := by
  rw [frame_iff] at *
  obtain ⟨a0, a1, a2, a3, a4, a5, a6, a7, a8, a9, a10, a11, a12, a13, a14, a15, a16, a17, a18, a19, a20⟩ := f
  exact ⟨fun e => a0 (h.bit e), fun e => a1 (h.bit e), fun e => a2 (h.bit e), fun e => a3 (h.bit e), fun e => a4 (h.bit e),
    fun e => a5 (h.bit e), fun e => a6 (h.bit e), fun e => a7 (h.bit e), fun e => a8 (h.bit e), fun e => a9 (h.bit e),
    fun e => a10 (h.bit e), fun e => a11 (h.bit e), fun e => a12 (h.bit e), fun e => a13 (h.bit e), fun e => a14 (h.bit e),
    fun e => a15 (h.bit e), fun e => a16 (h.bit e), fun e => a17 (h.bit e), fun e => a18 (h.bit e), fun e => a19 (h.bit e),
    fun e => a20 (h.bit e)⟩

/-- What an operation of the block keeps from `s` to `t`; it may change the parts of the mask `m`. -/
structure Keeps (m : Nat) (s t : State) : Prop where
  queue : t.pending = s.pending
  draws : s.draws ≤ t.draws
  host : HostKeeps s.host t.host
  fol : FolKeeps s.fol t.fol
  led : LedKeeps s.led t.led
  frame : Frame m s t

theorem Keeps.refl (m : Nat) (s : State) : Keeps m s s :=
  ⟨rfl, Nat.le_refl _, ⟨id, rfl, rfl, rfl⟩, ⟨Nat.le_refl _, id, id, id⟩, ⟨id⟩, Frame.refl m s⟩

theorem Keeps.trans {m : Nat} {s t u : State} (a : Keeps m s t) (b : Keeps m t u) : Keeps m s u :=
  ⟨b.queue.trans a.queue, Nat.le_trans a.draws b.draws, ⟨b.host.mail ∘ a.host.mail, b.host.ident.1.trans a.host.ident.1,
   b.host.ident.2.1.trans a.host.ident.2.1, b.host.ident.2.2.trans a.host.ident.2.2⟩,
   ⟨Nat.le_trans a.fol.refs b.fol.refs, b.fol.final ∘ a.fol.final, b.fol.sessions ∘ a.fol.sessions, b.fol.events ∘ a.fol.events⟩,
   ⟨b.led.ticks ∘ a.led.ticks⟩, a.frame.trans b.frame⟩

/-! ## The parts an operation does not touch -/

theorem Keeps.sameDraws {m : Nat} {s t : State} (k : Keeps m s t) (e : m.testBit 0 = false) : t.draws = s.draws :=
  (frame_iff.mp k.frame).1 e

theorem Keeps.sameHost {m : Nat} {s t : State} (k : Keeps m s t) (e : m.testBit 1 = false) : t.host = s.host :=
  (frame_iff.mp k.frame).2.1 e

theorem Keeps.sameFol {m : Nat} {s t : State} (k : Keeps m s t) (e : m.testBit 2 = false) : t.fol = s.fol :=
  (frame_iff.mp k.frame).2.2.1 e

theorem Keeps.samePwr {m : Nat} {s t : State} (k : Keeps m s t) (e : m.testBit 3 = false) : t.pwr = s.pwr :=
  (frame_iff.mp k.frame).2.2.2.1 e

theorem Keeps.sameTime {m : Nat} {s t : State} (k : Keeps m s t) (e : m.testBit 4 = false) : t.time = s.time :=
  (frame_iff.mp k.frame).2.2.2.2.1 e

theorem Keeps.sameLed {m : Nat} {s t : State} (k : Keeps m s t) (e : m.testBit 5 = false) : t.led = s.led :=
  (frame_iff.mp k.frame).2.2.2.2.2.1 e

theorem Keeps.sameGens {m : Nat} {s t : State} (k : Keeps m s t) (e : m.testBit 6 = false) : t.gens = s.gens :=
  (frame_iff.mp k.frame).2.2.2.2.2.2.1 e

theorem Keeps.sameYrw {m : Nat} {s t : State} (k : Keeps m s t) (e : m.testBit 7 = false) : t.yrw = s.yrw :=
  (frame_iff.mp k.frame).2.2.2.2.2.2.2.1 e

theorem Keeps.sameMem {m : Nat} {s t : State} (k : Keeps m s t) (e : m.testBit 8 = false) : t.mem = s.mem :=
  (frame_iff.mp k.frame).2.2.2.2.2.2.2.2.1 e

theorem Keeps.sameMet {m : Nat} {s t : State} (k : Keeps m s t) (e : m.testBit 9 = false) : t.met = s.met :=
  (frame_iff.mp k.frame).2.2.2.2.2.2.2.2.2.1 e

theorem Keeps.sameSeals {m : Nat} {s t : State} (k : Keeps m s t) (e : m.testBit 10 = false) : t.seals = s.seals :=
  (frame_iff.mp k.frame).2.2.2.2.2.2.2.2.2.2.1 e

theorem Keeps.sameFlt {m : Nat} {s t : State} (k : Keeps m s t) (e : m.testBit 11 = false) : t.flt = s.flt :=
  (frame_iff.mp k.frame).2.2.2.2.2.2.2.2.2.2.2.1 e

theorem Keeps.sameDuty {m : Nat} {s t : State} (k : Keeps m s t) (e : m.testBit 12 = false) : t.duty = s.duty :=
  (frame_iff.mp k.frame).2.2.2.2.2.2.2.2.2.2.2.2.1 e

theorem Keeps.sameSvc {m : Nat} {s t : State} (k : Keeps m s t) (e : m.testBit 13 = false) : t.svc = s.svc :=
  (frame_iff.mp k.frame).2.2.2.2.2.2.2.2.2.2.2.2.2.1 e

theorem Keeps.sameVlt {m : Nat} {s t : State} (k : Keeps m s t) (e : m.testBit 14 = false) : t.vlt = s.vlt :=
  (frame_iff.mp k.frame).2.2.2.2.2.2.2.2.2.2.2.2.2.2.1 e

theorem Keeps.sameStem {m : Nat} {s t : State} (k : Keeps m s t) (e : m.testBit 15 = false) : t.stem = s.stem :=
  (frame_iff.mp k.frame).2.2.2.2.2.2.2.2.2.2.2.2.2.2.2.1 e

theorem Keeps.sameMtr {m : Nat} {s t : State} (k : Keeps m s t) (e : m.testBit 16 = false) : t.mtr = s.mtr :=
  (frame_iff.mp k.frame).2.2.2.2.2.2.2.2.2.2.2.2.2.2.2.2.1 e

theorem Keeps.sameBal {m : Nat} {s t : State} (k : Keeps m s t) (e : m.testBit 17 = false) : t.bal = s.bal :=
  (frame_iff.mp k.frame).2.2.2.2.2.2.2.2.2.2.2.2.2.2.2.2.2.1 e

theorem Keeps.sameFio {m : Nat} {s t : State} (k : Keeps m s t) (e : m.testBit 18 = false) : t.fio = s.fio :=
  (frame_iff.mp k.frame).2.2.2.2.2.2.2.2.2.2.2.2.2.2.2.2.2.2.1 e

theorem Keeps.sameChg {m : Nat} {s t : State} (k : Keeps m s t) (e : m.testBit 19 = false) : t.chg = s.chg :=
  (frame_iff.mp k.frame).2.2.2.2.2.2.2.2.2.2.2.2.2.2.2.2.2.2.2.1 e

theorem Keeps.sameLnk {m : Nat} {s t : State} (k : Keeps m s t) (e : m.testBit 20 = false) : t.lnk = s.lnk :=
  (frame_iff.mp k.frame).2.2.2.2.2.2.2.2.2.2.2.2.2.2.2.2.2.2.2.2 e

/-- An update of any parts: only the parts `Keeps` speaks of have a side to show. -/
theorem Keeps.upd {m : Nat} {s x : State} {d : Nat}
    {host fol pwr time led gens yrw mem met seals flt duty svc vlt stem mtr bal fio chg lnk} (c : Nat) (hm : Sub c m) (k : Keeps m s x) (hd : x.draws ≤ d) (hh : HostKeeps x.host host) (hf : FolKeeps x.fol fol) (hl : LedKeeps x.led led)
    (fr : Frame c x (State.mk x.pending d host fol pwr time led gens yrw mem met seals flt duty svc vlt stem mtr bal fio chg lnk)) :
    Keeps m s (State.mk x.pending d host fol pwr time led gens yrw mem met seals flt duty svc vlt stem mtr bal fio chg lnk) :=
  k.trans ⟨rfl, hd, hh, hf, hl, fr.of_sub hm⟩

/-- An update of the other parts only. -/
theorem Keeps.rest {m : Nat} {s x : State} {pwr time gens yrw mem met seals flt duty svc vlt stem mtr bal fio chg lnk} (c : Nat)
    (hm : Sub c m) (k : Keeps m s x)
    (fr : Frame c x (State.mk x.pending x.draws x.host x.fol pwr time x.led gens yrw mem met seals flt duty svc vlt stem mtr bal fio chg
      lnk)) :
    Keeps m s (State.mk x.pending x.draws x.host x.fol pwr time x.led gens yrw mem met seals flt duty svc vlt stem mtr bal fio chg
      lnk) :=
  k.trans ⟨rfl, Nat.le_refl _, ⟨id, rfl, rfl, rfl⟩, ⟨Nat.le_refl _, id, id, id⟩, ⟨id⟩, fr.of_sub hm⟩

theorem Keeps.foldl {m : Nat} {α : Type} {s i : State} {f : State → α → State} {l : List α} (hf : ∀ x a, Keeps m s x → Keeps m s (f x a))
    (hi : Keeps m s i) : Keeps m s (l.foldl f i) := by
  induction l generalizing i with
  | nil => exact hi
  | cons a l ih => exact ih (hf i a hi)

theorem Keeps.foldlPair {m : Nat} {α β : Type} {s : State} {i : β × State} {f : β × State → α → β × State} {l : List α}
    (hf : ∀ x a, Keeps m s x.2 → Keeps m s (f x a).2) (hi : Keeps m s i.2) : Keeps m s (l.foldl f i).2 := by
  induction l generalizing i with
  | nil => exact hi
  | cons a l ih => exact ih (hf i a hi)

theorem Keeps.ite {m : Nat} {s a b : State} {c : Prop} [Decidable c] (ha : Keeps m s a) (hb : Keeps m s b) : Keeps m s (if c then a else b) := by
  split <;> assumption

theorem zero_mail : (0#32 &&& 0#32) = 0#32 := by decide

theorem Keeps.ofId {m : Nat} {s t : State} (h : Keeps m s t) : Keeps m s (id t) := h

theorem Keeps.sndMk {m : Nat} {α : Type} {s t : State} {a : α} (h : Keeps m s t) : Keeps m s (a, t).2 := h

theorem Keeps.thirdMk {m : Nat} {α β : Type} {s t : State} {a : α} {b : β} (h : Keeps m s t) : Keeps m s (a, b, t).2.2 := h

theorem KeepsP.get {m : Nat} {α : Type} {s t : State} {a : α} {p : α × State} (h : Keeps m s p.2) (e : p = (a, t)) : Keeps m s t := by
  subst e; exact h

theorem KeepsT.get {m : Nat} {α β : Type} {s t : State} {a : α} {b : β} {p : α × β × State} (h : Keeps m s p.2.2) (e : p = (a, b, t)) :
    Keeps m s t := by
  subst e; exact h

/-- Where a state comes out, it is kept. -/
def KeepsO (m : Nat) (s : State) (o : Option State) : Prop := ∀ t, o = some t → Keeps m s t

theorem KeepsO.some {m : Nat} {s t : State} (h : Keeps m s t) : KeepsO m s (some t) := fun _ e => Option.some.inj e ▸ h

theorem KeepsO.none {m : Nat} {s : State} : KeepsO m s none := fun _ e => nomatch e

theorem KeepsO.get {m : Nat} {s t : State} {o : Option State} (h : KeepsO m s o) (e : o = Option.some t) : Keeps m s t := h t e

/-- A command of the block answers a next state, which is kept. -/
def KeepsR (m : Nat) (s : State) (r : Result) : Prop := ∃ t, r = .next t ∧ Keeps m s t

theorem KeepsR.next {m : Nat} {s t : State} (h : Keeps m s t) : KeepsR m s (.next t) := ⟨t, rfl, h⟩

theorem KeepsR.ite {m : Nat} {s : State} {a b : Result} {c : Prop} [Decidable c] (ha : KeepsR m s a) (hb : KeepsR m s b) :
    KeepsR m s (if c then a else b) := by
  split <;> assumption

/-- A body's answer: its state is kept, and what follows its response keeps too. -/
def KeepsA (m : Nat) (s : State) : Answer → Prop
  | .final r t => Keeps m s t ∧ ∀ x, Keeps m s x → Keeps m s (r.post x)
  | .accepted _ t => Keeps m s t
  | .later t => Keeps m s t

theorem KeepsA.final {m : Nat} {s t : State} {r : Reply} (h : Keeps m s t) (hp : ∀ x, Keeps m s x → Keeps m s (r.post x)) : KeepsA m s (.final r t) :=
  ⟨h, hp⟩

theorem KeepsA.accepted {m : Nat} {s t : State} {d : Bytes} (h : Keeps m s t) : KeepsA m s (.accepted d t) := h

theorem KeepsA.later {m : Nat} {s t : State} (h : Keeps m s t) : KeepsA m s (.later t) := h

theorem KeepsA.ite {m : Nat} {s : State} {a b : Answer} {c : Prop} [Decidable c] (ha : KeepsA m s a) (hb : KeepsA m s b) :
    KeepsA m s (if c then a else b) := by
  split <;> assumption

/-- A host command's body keeps. -/
def KeepsCmd (m : Nat) (c : Cmd) : Prop := ∀ s0 ctx s, Keeps m s0 s → KeepsA m s0 (c.body ctx s)

theorem KeepsCmd.mk {m opcode role async size sizeOk dryrun stream lifecycle updating clear standby faulted body}
    (h : ∀ s0 ctx s, Keeps m s0 s → KeepsA m s0 (body ctx s)) :
    KeepsCmd m (Cmd.mk opcode role async size sizeOk dryrun stream lifecycle updating clear standby faulted body) := h

end Sys2Proof.Machine
end

