-- ==== Sys2Proof/Laws/Keeps/Flags.lean ====
section
/-!
SUPPORT. What the operations of Machine/Flags.lean keep.
-/

namespace Sys2Proof.Machine

theorem sendMessage_mail (v : Nat) (h : HostState) : SameMail h (sendMessage v h) := by
  unfold sendMessage
  split
  · exact ⟨rfl, rfl, rfl, rfl, rfl⟩
  · split
    · exact ⟨rfl, rfl, rfl, rfl, rfl⟩
    · split <;> exact ⟨rfl, rfl, rfl, rfl, rfl⟩

theorem setCause_mail (i : Nat) (h : HostState) : SameMail h (setCause i h) := by
  unfold setCause
  split
  · exact ⟨rfl, rfl, rfl, rfl, rfl⟩
  · dsimp only
    split
    · have a := sendMessage_mail (h.intMap.getD i i) { h with intStatus := h.intStatus ||| BitVec.ofNat 32 (2 ^ i) }
      exact ⟨a.owner, a.done, a.ident⟩
    · exact ⟨rfl, rfl, rfl, rfl, rfl⟩

theorem HostKeeps.setCause {i : Nat} {h : HostState} : HostKeeps h (setCause i h) :=
  HostKeeps.same (setCause_mail i h)

theorem interrupt_keeps {m} {s0 : State} {p1} {p2 : State} (hm : Sub 2 m) (k : Keeps m s0 p2) :
    Keeps m s0 (interrupt p1 p2) := by
  unfold interrupt
  exact Keeps.upd 2 (hm.of rfl) k (Nat.le_refl _) HostKeeps.setCause ⟨Nat.le_refl _, id, id, id⟩ ⟨id⟩ rfl

theorem faultLevel_keeps {m} {s0 : State} {p1 : State} (hm : Sub 2048 m) (k : Keeps m s0 p1) :
    Keeps m s0 (faultLevel p1) := by
  unfold faultLevel
  apply Keeps.ite
  · exact Keeps.rest 2048 (hm.of rfl) (by assumption) rfl
  · assumption

end Sys2Proof.Machine
end

