-- ==== Sys2Proof/Laws/Keeps/Ops.lean ====
section
/-!
SUPPORT. What the operations of Machine/Ops.lean keep.
-/

namespace Sys2Proof.Machine

theorem draw_keeps {m} {s0 : State} {p1 p2} {p3 : State} (hm : Sub 1 m) (k : Keeps m s0 p3) :
    Keeps m s0 (draw p1 p2 p3).2 := by
  unfold draw
  apply Keeps.sndMk
  refine Keeps.upd 1 (hm.of rfl) ?_ ?_ ?_ ?_ ?_ rfl
  · assumption
  · exact Nat.le_succ _
  · exact ⟨id, rfl, rfl, rfl⟩
  · exact ⟨Nat.le_refl _, id, id, id⟩
  · exact ⟨id⟩

theorem drawBytes_keeps {m} {s0 : State} {p1 p2} {p3 : State} (hm : Sub 1 m) (k : Keeps m s0 p3) :
    Keeps m s0 (drawBytes p1 p2 p3).2 := by
  unfold drawBytes
  apply Keeps.sndMk
  refine Keeps.upd 1 (hm.of rfl) ?_ ?_ ?_ ?_ ?_ rfl
  · assumption
  · exact Nat.le_succ _
  · exact ⟨id, rfl, rfl, rfl⟩
  · exact ⟨Nat.le_refl _, id, id, id⟩
  · exact ⟨id⟩

theorem traceAppend_keeps {m} {s0 : State} {p1 p2 p3} {p4 : State} (hm : Sub 8193 m) (k : Keeps m s0 p4) :
    Keeps m s0 (traceAppend p1 p2 p3 p4) := by
  unfold traceAppend
  extract_lets +onlyGivenNames x1
  clear_value x1
  extract_lets +onlyGivenNames x2
  extract_lets +onlyGivenNames x3
  clear_value x3
  extract_lets +onlyGivenNames x4
  clear_value x4
  extract_lets +onlyGivenNames x5
  clear_value x5
  apply Keeps.ite
  · exact Keeps.rest 8192 (hm.of rfl) (by assumption) rfl
  · extract_lets +onlyGivenNames x6
    have h7 : Keeps m s0 x6.2 := draw_keeps (hm.of rfl) (by assumption)
    clear_value x6
    extract_lets +onlyGivenNames x8
    clear_value x8
    extract_lets +onlyGivenNames x9
    have h10 : Keeps m s0 x9 := by
      unfold x9
      assumption
    exact Keeps.rest 8192 (hm.of rfl) (by assumption) rfl

theorem loseTrace_keeps {m} {s0 : State} {p1} {p2 : State} (hm : Sub 8192 m) (k : Keeps m s0 p2) :
    Keeps m s0 (loseTrace p1 p2) := by
  unfold loseTrace
  apply Keeps.ite
  · exact Keeps.rest 8192 (hm.of rfl) (by assumption) rfl
  · assumption

theorem traceWrite_keeps {m} {s0 : State} {p1 p2 p3} {p4 : State} (hm : Sub 8193 m) (k : Keeps m s0 p4) :
    Keeps m s0 (traceWrite p1 p2 p3 p4) := by
  unfold traceWrite
  apply Keeps.ite
  · assumption
  · apply Keeps.ite
    · exact Keeps.rest 8192 (hm.of rfl) (by assumption) rfl
    · extract_lets +onlyGivenNames x1
      clear_value x1
      extract_lets +onlyGivenNames x2
      have h3 : Keeps m s0 x2 := traceAppend_keeps (hm.of rfl) (by assumption)
      clear_value x2
      extract_lets +onlyGivenNames x4
      clear_value x4
      extract_lets +onlyGivenNames x5
      have h6 : Keeps m s0 x5 := by
        unfold x5
        apply Keeps.ite
        · assumption
        · exact Keeps.rest 8192 (hm.of rfl) (by assumption) rfl
      clear_value x5
      exact traceAppend_keeps (hm.of rfl) (by assumption)

theorem traceTrigger_keeps {m} {s0 : State} {p1 p2} {p3 : State} (hm : Sub 8192 m) (k : Keeps m s0 p3) :
    Keeps m s0 (traceTrigger p1 p2 p3) := by
  unfold traceTrigger
  apply Keeps.ite
  · exact Keeps.rest 8192 (hm.of rfl) (by assumption) rfl
  · assumption

theorem traceMode_keeps {m} {s0 : State} {p1 : State} (hm : Sub 8193 m) (k : Keeps m s0 p1) :
    Keeps m s0 (traceMode p1) := by
  unfold traceMode
  extract_lets +onlyGivenNames x1
  have h2 : Keeps m s0 x1.2 := draw_keeps (hm.of rfl) (by assumption)
  clear_value x1
  exact traceWrite_keeps (hm.of rfl) (by assumption)

theorem traceTime_keeps {m} {s0 : State} {p1 p2 p3} {p4 : State} (hm : Sub 8193 m) (k : Keeps m s0 p4) :
    Keeps m s0 (traceTime p1 p2 p3 p4) := by
  unfold traceTime
  exact traceWrite_keeps (hm.of rfl) (by assumption)

theorem stage_keeps {m} {s0 : State} {p1} {p2 : State} (hm : Sub 32 m) (k : Keeps m s0 p2) :
    Keeps m s0 (stage p1 p2) := by
  unfold stage
  split
  · exact Keeps.upd 32 (hm.of rfl) k (Nat.le_refl _) ⟨id, rfl, rfl, rfl⟩ ⟨Nat.le_refl _, id, id, id⟩
      ⟨fun h => by
        simp only [List.length_append, List.length_dropLast, List.length_cons, List.length_nil]
        omega⟩ rfl
  · exact Keeps.upd 32 (hm.of rfl) k (Nat.le_refl _) ⟨id, rfl, rfl, rfl⟩ ⟨Nat.le_refl _, id, id, id⟩ ⟨id⟩ rfl

theorem journal_keeps {m} {s0 : State} {p1 p2} {p3 : State} (hm : Sub 32 m) (k : Keeps m s0 p3) :
    Keeps m s0 (journal p1 p2 p3) := by
  unfold journal
  exact stage_keeps (hm.of rfl) (by assumption)

theorem audit_keeps {m} {s0 : State} {p1 p2 p3 p4} {p5 : State} (hm : Sub 32 m) (k : Keeps m s0 p5) :
    Keeps m s0 (audit p1 p2 p3 p4 p5) := by
  unfold audit
  exact stage_keeps (hm.of rfl) (by assumption)

theorem countDropped_keeps {m} {s0 : State} {p1} {p2 : State} (hm : Sub 4 m) (k : Keeps m s0 p2) :
    Keeps m s0 (countDropped p1 p2) := by
  unfold countDropped
  extract_lets +onlyGivenNames x1
  clear_value x1
  exact Keeps.upd 4 (hm.of rfl) (by assumption) (Nat.le_refl _) ⟨id, rfl, rfl, rfl⟩ ⟨Nat.le_refl _, id, id, id⟩ ⟨id⟩ rfl

theorem countP_map_takes (l : List EventEntry) (k s n : Nat) (p : Bytes) :
    (l.map (fun e => if e.takes k s then e.merge n p else e)).countP (fun e => !e.completion) = l.countP (fun e => !e.completion) := by
  induction l with
  | nil => rfl
  | cons e l ih =>
    have : (if e.takes k s then e.merge n p else e).completion = e.completion := by
      split <;> rfl
    simp only [List.map_cons, List.countP_cons, ih, this]

theorem raiseEventJ_keeps {m} {s0 : State} {p1 p2 p3 p4 p5} {p6 : State} (hm : Sub 4 m) (k : Keeps m s0 p6) :
    Keeps m s0 (raiseEventJ p1 p2 p3 p4 p5 p6) := by
  unfold raiseEventJ
  apply Keeps.ite
  · exact Keeps.upd 4 (hm.of rfl) k (Nat.le_refl _) ⟨id, rfl, rfl, rfl⟩
      ⟨Nat.le_refl _, id, id, fun h => by unfold generalCount at h ⊢; dsimp only; rw [countP_map_takes]; exact h⟩ ⟨id⟩ rfl
  · split
    · rename_i h1
      exact Keeps.upd 4 (hm.of rfl) k (Nat.le_refl _) ⟨id, rfl, rfl, rfl⟩
        ⟨Nat.le_refl _, id, id, fun _ => by
          unfold generalCount
          simp only [List.countP_append, List.countP_cons, List.countP_nil]
          unfold generalEntries at h1
          simp only [Bool.not_false, if_true]
          omega⟩ ⟨id⟩ rfl
    · exact countDropped_keeps (hm.of rfl) k

theorem raiseEvent_keeps {m} {s0 : State} {p1 p2 p3 p4} {p5 : State} (hm : Sub 4 m) (k : Keeps m s0 p5) :
    Keeps m s0 (raiseEvent p1 p2 p3 p4 p5) := by
  unfold raiseEvent
  exact raiseEventJ_keeps (hm.of rfl) (by assumption)

theorem unlistedEvent_keeps {m} {s0 : State} {p1 p2} {p3 : State} (hm : Sub 5 m) (k : Keeps m s0 p3) :
    Keeps m s0 (unlistedEvent p1 p2 p3) := by
  unfold unlistedEvent
  with_reducible apply raiseEventJ_keeps (hm.of rfl)
  refine Keeps.upd 1 (hm.of rfl) ?_ ?_ ?_ ?_ ?_ rfl
  · assumption
  · exact Nat.le_succ _
  · exact ⟨id, rfl, rfl, rfl⟩
  · exact ⟨Nat.le_refl _, id, id, id⟩
  · exact ⟨id⟩

theorem queueCompletion_keeps {m} {s0 : State} {p1 p2 p3} {p4 : State} (hm : Sub 4 m) (k : Keeps m s0 p4) :
    Keeps m s0 (queueCompletion p1 p2 p3 p4) := by
  unfold queueCompletion
  exact Keeps.upd 4 (hm.of rfl) k (Nat.le_refl _) ⟨id, rfl, rfl, rfl⟩
    ⟨Nat.le_refl _, id, id, fun h => by
      unfold generalCount at h ⊢
      simp only [List.countP_append, List.countP_cons, List.countP_nil, Bool.not_true]
      exact h⟩ ⟨id⟩ rfl

theorem sendDatagram_keeps {m} {s0 : State} {p1 p2 p3} {p4 : State} (hm : Sub 4 m) (k : Keeps m s0 p4) :
    Keeps m s0 (sendDatagram p1 p2 p3 p4) := by
  unfold sendDatagram
  split
  · rename_i y1 y2 y3
    split
    · rename_i y4 y5 y6
      apply Keeps.ite
      · refine Keeps.upd 4 (hm.of rfl) ?_ ?_ ?_ ?_ ?_ rfl
        · assumption
        · exact Nat.le_refl _
        · exact ⟨id, rfl, rfl, rfl⟩
        · exact ⟨Nat.le_refl _, id, fun h => by simp only [List.length_map]; exact h, id⟩
        · exact ⟨id⟩
      · refine Keeps.upd 4 (hm.of rfl) ?_ ?_ ?_ ?_ ?_ rfl
        · assumption
        · exact Nat.le_refl _
        · exact ⟨id, rfl, rfl, rfl⟩
        · exact ⟨Nat.le_refl _, id, fun h => by simp only [List.length_map]; exact h, id⟩
        · exact ⟨id⟩
    · rename_i y7 y8
      assumption
  · rename_i y9 y10
    assumption

theorem complete_keeps {m} {s0 : State} {p1 p2 p3 p4} {p5 : State} (hm : Sub 4 m) (k : Keeps m s0 p5) :
    Keeps m s0 (complete p1 p2 p3 p4 p5) := by
  unfold complete
  split
  · rename_i y1 y2
    assumption
  · rename_i y3 y4 y5
    extract_lets +onlyGivenNames x6
    clear_value x6
    extract_lets +onlyGivenNames x7
    extract_lets +onlyGivenNames x8
    have h9 : Keeps m s0 x8 := by
      unfold x8
      exact Keeps.upd 4 (hm.of rfl) (by assumption) (Nat.le_refl _) ⟨id, rfl, rfl, rfl⟩ ⟨Nat.le_refl _, id, id, id⟩ ⟨id⟩ rfl
    clear_value x8
    extract_lets +onlyGivenNames x10
    have h11 : Keeps m s0 x10 := queueCompletion_keeps (hm.of rfl) (by assumption)
    clear_value x10
    extract_lets +onlyGivenNames x12
    clear_value x12
    exact sendDatagram_keeps (hm.of rfl) (by assumption)

theorem faultEvent_keeps {m} {s0 : State} {p1 p2} {p3 : State} (hm : Sub 4 m) (k : Keeps m s0 p3) :
    Keeps m s0 (faultEvent p1 p2 p3) := by
  unfold faultEvent
  extract_lets +onlyGivenNames x1
  clear_value x1
  exact raiseEventJ_keeps (hm.of rfl) (by assumption)

theorem raiseWith_keeps {m} {s0 : State} {p1 p2 p3} {p4 : State} (hm : Sub 10247 m) (k : Keeps m s0 p4) :
    Keeps m s0 (raiseWith p1 p2 p3 p4) := by
  unfold raiseWith
  split
  · rename_i y1 y2
    assumption
  · rename_i y3 y4 y5
    extract_lets +onlyGivenNames x6
    clear_value x6
    extract_lets +onlyGivenNames x7
    clear_value x7
    extract_lets +onlyGivenNames x8
    clear_value x8
    extract_lets +onlyGivenNames x9
    have h10 : Keeps m s0 x9 := by
      unfold x9
      exact Keeps.rest 2048 (hm.of rfl) (by assumption) rfl
    clear_value x9
    extract_lets +onlyGivenNames x11
    have h12 : Keeps m s0 x11 := traceWrite_keeps (hm.of rfl) (by assumption)
    clear_value x11
    extract_lets +onlyGivenNames x13
    have h14 : Keeps m s0 x13 := by
      unfold x13
      apply Keeps.ite
      · assumption
      · exact interrupt_keeps (hm.of rfl) (by assumption)
    clear_value x13
    extract_lets +onlyGivenNames x15
    have h16 : Keeps m s0 x15 := by
      unfold x15
      apply Keeps.ite
      · assumption
      · exact faultEvent_keeps (hm.of rfl) (by assumption)
    clear_value x15
    apply Keeps.ite
    · extract_lets +onlyGivenNames x17
      have h18 : Keeps m s0 x17 := traceTrigger_keeps (hm.of rfl) (by assumption)
      clear_value x17
      with_reducible apply faultLevel_keeps (hm.of rfl)
      exact Keeps.rest 2048 (hm.of rfl) (by assumption) rfl
    · assumption

theorem raiseFault_keeps {m} {s0 : State} {p1 p2} {p3 : State} (hm : Sub 10247 m) (k : Keeps m s0 p3) :
    Keeps m s0 (raiseFault p1 p2 p3) := by
  unfold raiseFault
  exact raiseWith_keeps (hm.of rfl) (by assumption)

theorem endFault_keeps {m} {s0 : State} {p1} {p2 : State} (hm : Sub 2052 m) (k : Keeps m s0 p2) :
    Keeps m s0 (endFault p1 p2) := by
  unfold endFault
  extract_lets +onlyGivenNames x1
  clear_value x1
  apply Keeps.ite
  · extract_lets +onlyGivenNames x2
    clear_value x2
    extract_lets +onlyGivenNames x3
    clear_value x3
    extract_lets +onlyGivenNames x4
    have h5 : Keeps m s0 x4 := by
      unfold x4
      exact Keeps.rest 2048 (hm.of rfl) (by assumption) rfl
    clear_value x4
    with_reducible apply faultLevel_keeps (hm.of rfl)
    exact faultEvent_keeps (hm.of rfl) (by assumption)
  · assumption

theorem reportFault_keeps {m} {s0 : State} {p1 p2} {p3 : State} (hm : Sub 10247 m) (k : Keeps m s0 p3) :
    Keeps m s0 (reportFault p1 p2 p3) := by
  unfold reportFault
  with_reducible apply endFault_keeps (hm.of rfl)
  exact raiseFault_keeps (hm.of rfl) (by assumption)

theorem reportWith_keeps {m} {s0 : State} {p1 p2 p3} {p4 : State} (hm : Sub 10247 m) (k : Keeps m s0 p4) :
    Keeps m s0 (reportWith p1 p2 p3 p4) := by
  unfold reportWith
  with_reducible apply endFault_keeps (hm.of rfl)
  exact raiseWith_keeps (hm.of rfl) (by assumption)

theorem takeInjection_keeps {m} {s0 : State} {p1 p2} {p3 : State} (hm : Sub 2048 m) (k : Keeps m s0 p3) :
    Keeps m s0 (takeInjection p1 p2 p3).2 := by
  unfold takeInjection
  split
  · rename_i y1 y2
    assumption
  · rename_i y3 y4 y5
    split
    · rename_i y6
      apply Keeps.sndMk
      exact Keeps.rest 2048 (hm.of rfl) (by assumption) rfl
    · rename_i y7
      assumption

end Sys2Proof.Machine
end

