-- ==== Sys2Proof/Laws/Keeps/Operands.lean ====
section
/-!
SUPPORT. What the operations of Machine/Operands.lean keep.
-/

namespace Sys2Proof.Machine

theorem okWith_keeps {m} {s0 : State} {p1} {p2 : State} (hm : Sub 0 m) (k : Keeps m s0 p2) :
    KeepsA m s0 (okWith p1 p2) := by
  unfold okWith
  apply KeepsA.final
  · assumption
  · intro a1 h4
    dsimp -zeta only
    apply Keeps.ofId
    assumption

theorem fail_keeps {m} {s0 : State} {p1 p2} {p3 : State} (hm : Sub 0 m) (k : Keeps m s0 p3) :
    KeepsA m s0 (fail p1 p2 p3) := by
  unfold fail
  apply KeepsA.final
  · assumption
  · intro a1 h4
    dsimp -zeta only
    apply Keeps.ofId
    assumption

theorem checked_keeps {m} {s0 : State} {p1} {p3} {p2 : State} (hm : Sub 0 m) (k : Keeps m s0 p2) (h3 : KeepsA m s0 p3) :
    KeepsA m s0 (checked p1 p2 p3) := by
  unfold checked
  split
  · exact fail_keeps (hm.of rfl) k
  · exact h3

theorem firstFail_none {cs : List Check} (h : firstFail cs = none) : ∀ c ∈ cs, c.2.2 = true := by
  unfold firstFail at h
  intro c hc
  split at h
  · rename_i e
    have := List.filter_eq_nil_iff.mp e c hc
    simpa using this
  · exact nomatch h

theorem checked_keeps_of {m} {s0 : State} {p1} {p3} {p2 : State} (hm : Sub 0 m) (k : Keeps m s0 p2)
    (h3 : (∀ c ∈ p1, c.2.2 = true) → KeepsA m s0 p3) : KeepsA m s0 (checked p1 p2 p3) := by
  unfold checked
  split
  · exact fail_keeps (hm.of rfl) k
  · rename_i e
    exact h3 (firstFail_none e)

end Sys2Proof.Machine
end

