-- ==== Sys2Proof/Laws/Keeps/Streams.lean ====
section
/-!
SUPPORT. What the operations of Machine/Streams.lean keep.
-/

namespace Sys2Proof.Machine

theorem setChan_keeps {m} {s0 : State} {p1 p2} {p3 : State} (hm : Sub 2 m) (k : Keeps m s0 p3) :
    Keeps m s0 (setChan p1 p2 p3) := by
  unfold setChan
  exact Keeps.upd 2 (hm.of rfl) (by assumption) (Nat.le_refl _) ⟨id, rfl, rfl, rfl⟩ ⟨Nat.le_refl _, id, id, id⟩ ⟨id⟩ rfl

theorem placePage_keeps {m} {s0 : State} {p1 p2} {p3 : State} (hm : Sub 2 m) (k : Keeps m s0 p3) :
    Keeps m s0 (placePage p1 p2 p3) := by
  unfold placePage
  extract_lets +onlyGivenNames x1
  clear_value x1
  extract_lets +onlyGivenNames x2
  clear_value x2
  extract_lets +onlyGivenNames x3
  have h4 : Keeps m s0 x3 := setChan_keeps (hm.of rfl) (by assumption)
  clear_value x3
  extract_lets +onlyGivenNames x5
  extract_lets +onlyGivenNames x6
  have h7 : Keeps m s0 x6 := by
    unfold x6
    split
    · rename_i y8 y9 y10
      exact Keeps.upd 2 (hm.of rfl) (by assumption) (Nat.le_refl _) ⟨id, rfl, rfl, rfl⟩ ⟨Nat.le_refl _, id, id, id⟩ ⟨id⟩ rfl
    · rename_i y11 y12
      assumption
  clear_value x6
  exact interrupt_keeps (hm.of rfl) (by assumption)

theorem pumpPages_keeps {m} {s0 : State} {p1 p2} {p3 : State} (hm : Sub 2 m) (k : Keeps m s0 p3) :
    Keeps m s0 (pumpPages p1 p2 p3) := by
  fun_induction pumpPages
  · rename_i z1
    assumption
  · rename_i z2 z3 z4 z5 z6
    with_reducible apply z6
    with_reducible apply placePage_keeps (hm.of rfl)
    exact setChan_keeps (hm.of rfl) (by assumption)
  · rename_i z7 z8 z9 z10
    assumption

theorem pump_keeps {m} {s0 : State} {p1} {p2 : State} (hm : Sub 2 m) (k : Keeps m s0 p2) :
    Keeps m s0 (pump p1 p2) := by
  unfold pump
  exact pumpPages_keeps (hm.of rfl) (by assumption)

theorem producePage_keeps {m} {s0 : State} {p1 p2} {p3 : State} (hm : Sub 2 m) (k : Keeps m s0 p3) :
    Keeps m s0 (producePage p1 p2 p3) := by
  unfold producePage
  with_reducible apply pump_keeps (hm.of rfl)
  exact setChan_keeps (hm.of rfl) (by assumption)

theorem produceAll_keeps {m} {s0 : State} {p1 p2} {p3 : State} (hm : Sub 2 m) (k : Keeps m s0 p3) :
    Keeps m s0 (produceAll p1 p2 p3) := by
  fun_induction produceAll
  · rename_i z1
    assumption
  · rename_i z2 z3
    exact producePage_keeps (hm.of rfl) (by assumption)
  · rename_i z4 z5 z6 z7 z8
    with_reducible apply z8
    exact producePage_keeps (hm.of rfl) (by assumption)

theorem openChannel_keeps {m} {s0 : State} {p1 p2 p3} {p4 : State} (hm : Sub 2 m) (k : Keeps m s0 p4) :
    Keeps m s0 (openChannel p1 p2 p3 p4) := by
  unfold openChannel
  exact setChan_keeps (hm.of rfl) (by assumption)

theorem closeChannel_keeps {m} {s0 : State} {p1} {p2 : State} (hm : Sub 2 m) (k : Keeps m s0 p2) :
    Keeps m s0 (closeChannel p1 p2) := by
  unfold closeChannel
  exact setChan_keeps (hm.of rfl) (by assumption)

theorem sendTransfer_keeps {m} {s0 : State} {p1 p2 p3} {p4 : State} (hm : Sub 2 m) (k : Keeps m s0 p4) :
    Keeps m s0 (sendTransfer p1 p2 p3 p4) := by
  unfold sendTransfer
  with_reducible apply produceAll_keeps (hm.of rfl)
  exact openChannel_keeps (hm.of rfl) (by assumption)

theorem hostError_keeps {m} {s0 : State} {p1 p2} {p3 : State} (hm : Sub 2 m) (k : Keeps m s0 p3) :
    Keeps m s0 (hostError p1 p2 p3) := by
  unfold hostError
  with_reducible apply interrupt_keeps (hm.of rfl)
  exact Keeps.upd 2 (hm.of rfl) (by assumption) (Nat.le_refl _) ⟨id, rfl, rfl, rfl⟩ ⟨Nat.le_refl _, id, id, id⟩ ⟨id⟩ rfl

theorem requeuePage_keeps {m} {s0 : State} {p1 p2} {p3 : State} (hm : Sub 2 m) (k : Keeps m s0 p3) :
    Keeps m s0 (requeuePage p1 p2 p3) := by
  unfold requeuePage
  exact producePage_keeps (hm.of rfl) (by assumption)

theorem abandonPage_keeps {m} {s0 : State} {p1 p2} {p3 : State} (hm : Sub 6 m) (k : Keeps m s0 p3) :
    Keeps m s0 (abandonPage p1 p2 p3) := by
  unfold abandonPage
  extract_lets +onlyGivenNames x1
  clear_value x1
  extract_lets +onlyGivenNames x2
  have h3 : Keeps m s0 x2 := setChan_keeps (hm.of rfl) (by assumption)
  clear_value x2
  extract_lets +onlyGivenNames x4
  have h5 : Keeps m s0 x4 := interrupt_keeps (hm.of rfl) (by assumption)
  clear_value x4
  extract_lets +onlyGivenNames x6
  have h7 : Keeps m s0 x6 := raiseEvent_keeps (hm.of rfl) (by assumption)
  clear_value x6
  exact requeuePage_keeps (hm.of rfl) (by assumption)

theorem acknowledge_keeps {m} {s0 : State} {p1 p2} {p3 : State} (hm : Sub 2 m) (k : Keeps m s0 p3) :
    Keeps m s0 (acknowledge p1 p2 p3) := by
  unfold acknowledge
  extract_lets +onlyGivenNames x1
  clear_value x1
  extract_lets +onlyGivenNames x2
  clear_value x2
  extract_lets +onlyGivenNames x3
  have h4 : Keeps m s0 x3 := setChan_keeps (hm.of rfl) (by assumption)
  clear_value x3
  extract_lets +onlyGivenNames x5
  have h6 : Keeps m s0 x5 := by
    unfold x5
    apply Keeps.ite
    · exact closeChannel_keeps (hm.of rfl) (by assumption)
    · exact pump_keeps (hm.of rfl) (by assumption)
  clear_value x5
  exact interrupt_keeps (hm.of rfl) (by assumption)

theorem acceptPage_keeps {m} {s0 : State} {p1} {p2 : State} (hm : Sub 2 m) (k : Keeps m s0 p2) :
    Keeps m s0 (acceptPage p1 p2).2 := by
  unfold acceptPage
  extract_lets +onlyGivenNames x1
  clear_value x1
  extract_lets +onlyGivenNames x2
  clear_value x2
  split
  · rename_i y3
    apply Keeps.sndMk
    exact setChan_keeps (hm.of rfl) (by assumption)
  · rename_i y4
    apply Keeps.sndMk
    exact setChan_keeps (hm.of rfl) (by assumption)

theorem acceptPages_keeps {m} {s0 : State} {p1 p2} {p3 : State} (hm : Sub 2 m) (k : Keeps m s0 p3) :
    Keeps m s0 (acceptPages p1 p2 p3) := by
  fun_induction acceptPages
  · rename_i z1
    assumption
  · rename_i z2 z3 z4 z5 z6
    have h7 : Keeps m s0 z4 := by
      refine KeepsP.get ?_ z5
      exact acceptPage_keeps (hm.of rfl) (by assumption)
    with_reducible apply z6
    assumption
  · rename_i z8 z9 z10 z11
    have h12 : Keeps m s0 z10 := by
      refine KeepsP.get ?_ z11
      exact acceptPage_keeps (hm.of rfl) (by assumption)
    assumption

theorem resumeChannel_keeps {m} {s0 : State} {p1} {p2 : State} (hm : Sub 2 m) (k : Keeps m s0 p2) :
    Keeps m s0 (resumeChannel p1 p2) := by
  unfold resumeChannel
  extract_lets +onlyGivenNames x1
  clear_value x1
  extract_lets +onlyGivenNames x2
  have h3 : Keeps m s0 x2 := setChan_keeps (hm.of rfl) (by assumption)
  clear_value x2
  apply Keeps.foldl
  · intro a4 a5 a6
    exact producePage_keeps (hm.of rfl) (by assumption)
  · assumption

end Sys2Proof.Machine
end

