-- ==== Sys2Proof/Laws/Keeps/Envelope.lean ====
section
/-!
SUPPORT. What the operations of Machine/Envelope.lean keep.
-/

namespace Sys2Proof.Machine

theorem mail_respond {o d b : BitVec 32} (h : o &&& d = 0#32) : (o &&& ~~~b) &&& (d ||| b) = 0#32 := by
  ext i hi
  have := congrArg (fun x => x.getLsbD i) h
  simp only [BitVec.getLsbD_and, BitVec.getLsbD_zero] at this
  simp only [BitVec.getElem_and, BitVec.getElem_or, BitVec.getElem_not, BitVec.getElem_zero]
  simp only [← BitVec.getLsbD_eq_getElem]
  cases ho : o.getLsbD i <;> cases hd : d.getLsbD i <;> cases hb : b.getLsbD i <;> simp_all

theorem mail_take {o d b : BitVec 32} (h : o &&& d = 0#32) : (o ||| b) &&& (d &&& ~~~b) = 0#32 := by
  ext i hi
  have := congrArg (fun x => x.getLsbD i) h
  simp only [BitVec.getLsbD_and, BitVec.getLsbD_zero] at this
  simp only [BitVec.getElem_and, BitVec.getElem_or, BitVec.getElem_not, BitVec.getElem_zero]
  simp only [← BitVec.getLsbD_eq_getElem]
  cases ho : o.getLsbD i <;> cases hd : d.getLsbD i <;> cases hb : b.getLsbD i <;> simp_all

theorem mail_clear {o d b : BitVec 32} (h : o &&& d = 0#32) : o &&& (d &&& b) = 0#32 := by
  rw [← BitVec.and_assoc, h, BitVec.zero_and]

theorem respond_keeps {m} {s0 : State} {p1 p2 p3 p4 p5} {p6 : State} (hm : Sub 6 m) (k : Keeps m s0 p6) :
    Keeps m s0 (respond p1 p2 p3 p4 p5 p6) := by
  unfold respond
  extract_lets +onlyGivenNames x1
  clear_value x1
  extract_lets +onlyGivenNames x2
  clear_value x2
  split
  · rename_i y3 y4 y5
    apply Keeps.ite
    · exact raiseEvent_keeps (hm.of rfl) (by assumption)
    · with_reducible apply interrupt_keeps (hm.of rfl)
      refine Keeps.upd 2 (hm.of rfl) ?_ ?_ ?_ ?_ ?_ rfl
      · assumption
      · exact Nat.le_refl _
      · exact ⟨mail_respond, rfl, rfl, rfl⟩
      · exact ⟨Nat.le_refl _, id, id, id⟩
      · exact ⟨id⟩
  · rename_i y6 y7 y8
    apply Keeps.ite
    · exact Keeps.upd 4 (hm.of rfl) (by assumption) (Nat.le_refl _) ⟨id, rfl, rfl, rfl⟩ ⟨Nat.le_refl _, id, id, id⟩ ⟨id⟩ rfl
    · extract_lets +onlyGivenNames x9
      have h10 : Keeps m s0 x9 := sendDatagram_keeps (hm.of rfl) (by assumption)
      clear_value x9
      refine Keeps.upd 4 (hm.of rfl) ?_ ?_ ?_ ?_ ?_ rfl
      · assumption
      · exact Nat.le_refl _
      · exact ⟨id, rfl, rfl, rfl⟩
      · exact ⟨Nat.le_refl _, id, fun h => by simp only [List.length_map]; exact h, id⟩
      · exact ⟨id⟩

theorem traceCommand_keeps {m} {s0 : State} {p1 p2 p3 p4 p5} {p6 : State} (hm : Sub 8193 m) (k : Keeps m s0 p6) :
    Keeps m s0 (traceCommand p1 p2 p3 p4 p5 p6) := by
  unfold traceCommand
  apply Keeps.ite
  · extract_lets +onlyGivenNames x1
    have h2 : Keeps m s0 x1.2 := draw_keeps (hm.of rfl) (by assumption)
    clear_value x1
    extract_lets +onlyGivenNames x3
    clear_value x3
    exact traceWrite_keeps (hm.of rfl) (by assumption)
  · assumption

theorem answer_keeps {m} {s0 : State} {p1 p2 p3 p4 p5} {p6 : State} (hm : Sub 8199 m) (k : Keeps m s0 p6) :
    Keeps m s0 (answer p1 p2 p3 p4 p5 p6) := by
  unfold answer
  extract_lets +onlyGivenNames x1
  clear_value x1
  with_reducible apply traceCommand_keeps (hm.of rfl)
  exact respond_keeps (hm.of rfl) (by assumption)

theorem touchSession_keeps {m} {s0 : State} {p1} {p2 : State} (hm : Sub 4 m) (k : Keeps m s0 p2) :
    Keeps m s0 (touchSession p1 p2) := by
  unfold touchSession
  refine Keeps.upd 4 (hm.of rfl) ?_ ?_ ?_ ?_ ?_ rfl
  · assumption
  · exact Nat.le_refl _
  · exact ⟨id, rfl, rfl, rfl⟩
  · exact ⟨Nat.le_refl _, id, fun h => by simp only [List.length_map]; exact h, id⟩
  · exact ⟨id⟩

theorem registerCommand_keeps {m} {s0 : State} {p1 p2} {p3 : State} (hm : Sub 4 m) (k : Keeps m s0 p3) :
    Keeps m s0 (registerCommand p1 p2 p3) := by
  unfold registerCommand
  exact Keeps.upd 4 (hm.of rfl) k (Nat.le_refl _) ⟨id, rfl, rfl, rfl⟩ ⟨Nat.le_succ _, id, id, id⟩ ⟨id⟩ rfl

theorem dropCommand_keeps {m} {s0 : State} {p1} {p2 : State} (hm : Sub 4 m) (k : Keeps m s0 p2) :
    Keeps m s0 (dropCommand p1 p2) := by
  unfold dropCommand
  exact Keeps.upd 4 (hm.of rfl) (by assumption) (Nat.le_refl _) ⟨id, rfl, rfl, rfl⟩ ⟨Nat.le_refl _, id, id, id⟩ ⟨id⟩ rfl

theorem runCommand_keeps {m} {s0 : State} {p1 p2} {p3 : State} (hm : Sub 8199 m) (k : Keeps m s0 p3) (h1 : KeepsCmd m p1) :
    Keeps m s0 (runCommand p1 p2 p3) := by
  unfold runCommand
  extract_lets +onlyGivenNames rq
  extract_lets +onlyGivenNames s
  have hs : Keeps m s0 s := by
    unfold s
    apply Keeps.ite
    · exact k
    · exact touchSession_keeps (hm.of rfl) k
  clear_value s
  extract_lets +onlyGivenNames ref
  extract_lets +onlyGivenNames ctx
  have ha := h1 s0 ctx _ (registerCommand_keeps (hm.of rfl) (p1 := p1.opcode) (p2 := rq) hs)
  split
  · rename_i r t e
    rw [e] at ha
    extract_lets +onlyGivenNames u
    have hu : Keeps m s0 u := by
      unfold u
      apply Keeps.ite
      · exact hs
      · exact ha.1
    clear_value u
    split
    · extract_lets +onlyGivenNames v
      have hv : Keeps m s0 v := answer_keeps (hm.of rfl) hu
      clear_value v
      exact ha.2 _ (complete_keeps (hm.of rfl) hv)
    · extract_lets +onlyGivenNames v
      have hv : Keeps m s0 v := answer_keeps (hm.of rfl) (dropCommand_keeps (hm.of rfl) hu)
      clear_value v
      apply Keeps.ite
      · exact hv
      · exact ha.2 _ hv
  · rename_i d t e
    rw [e] at ha
    apply Keeps.ite
    · exact answer_keeps (hm.of rfl) hs
    · exact answer_keeps (hm.of rfl) ha
  · rename_i t e
    rw [e] at ha
    apply Keeps.ite
    · exact answer_keeps (hm.of rfl) ha
    · exact dropCommand_keeps (hm.of rfl) ha

theorem answerLater_keeps {m} {s0 : State} {p1 p2 p3 p4 p5 p6} {p7 : State} (hm : Sub 8199 m) (k : Keeps m s0 p7) :
    Keeps m s0 (answerLater p1 p2 p3 p4 p5 p6 p7) := by
  unfold answerLater
  apply Keeps.ite
  · exact complete_keeps (hm.of rfl) (by assumption)
  · exact answer_keeps (hm.of rfl) (by assumption)

theorem serve_keeps {m} {s0 : State} {p1 p2} {p3 : State} (hm : Sub 8199 m) (k : Keeps m s0 p3) (h1 : KeepsCmd m p1) :
    Keeps m s0 (serve p1 p2 p3) := by
  unfold serve
  split
  · rename_i y1 y2 y3 y4
    exact answer_keeps (hm.of rfl) (by assumption)
  · rename_i y5 y6
    with_reducible apply runCommand_keeps (hm.of rfl)
    · assumption
    · assumption

theorem enqueue_keeps {m} {s0 : State} {p1} {p2 : State} (hm : Sub 4 m) (k : Keeps m s0 p2) :
    Keeps m s0 (enqueue p1 p2) := by
  unfold enqueue
  extract_lets +onlyGivenNames x1
  clear_value x1
  extract_lets +onlyGivenNames x2
  clear_value x2
  extract_lets +onlyGivenNames x3
  clear_value x3
  exact Keeps.upd 4 (hm.of rfl) (by assumption) (Nat.le_refl _) ⟨id, rfl, rfl, rfl⟩ ⟨Nat.le_refl _, id, id, id⟩ ⟨id⟩ rfl

theorem arrive_keeps {m} {s0 : State} {p1 p2} {p3 : State} (hm : Sub 8199 m) (k : Keeps m s0 p3) (h1 : KeepsCmd m p1) :
    Keeps m s0 (arrive p1 p2 p3) := by
  unfold arrive
  apply Keeps.ite
  · with_reducible apply serve_keeps (hm.of rfl)
    · assumption
    · assumption
  · exact enqueue_keeps (hm.of rfl) (by assumption)

theorem writeRequest_keeps {m} {s0 : State} {p1 p2 p3} {p4 : State} (hm : Sub 2 m) (k : Keeps m s0 p4) :
    Keeps m s0 (writeRequest p1 p2 p3 p4) := by
  unfold writeRequest
  apply Keeps.ite
  · exact hostError_keeps (hm.of rfl) (by assumption)
  · exact Keeps.upd 2 (hm.of rfl) (by assumption) (Nat.le_refl _) ⟨id, rfl, rfl, rfl⟩ ⟨Nat.le_refl _, id, id, id⟩ ⟨id⟩ rfl

theorem takeMailbox_keeps {m} {s0 : State} {p1} {p2 : State} (hm : Sub 2 m) (k : Keeps m s0 p2) :
    Keeps m s0 (takeMailbox p1 p2) := by
  unfold takeMailbox
  exact Keeps.upd 2 (hm.of rfl) k (Nat.le_refl _) ⟨mail_take, rfl, rfl, rfl⟩ ⟨Nat.le_refl _, id, id, id⟩ ⟨id⟩ rfl

theorem udpArrive_keeps {m} {s0 : State} {p1 p2 p3 p4} {p5 : State} (hm : Sub 4 m) (k : Keeps m s0 p5) (h4 : ∀ v1 v2, Keeps m s0 v2 → Keeps m s0 (p4 v1 v2)) :
    Keeps m s0 (udpArrive p1 p2 p3 p4 p5) := by
  unfold udpArrive
  extract_lets +onlyGivenNames x1
  clear_value x1
  split
  · rename_i y2 y3
    apply Keeps.ite
    · with_reducible apply h4
      assumption
    · assumption
  · rename_i y4 y5 y6
    split
    · rename_i y7 y8
      assumption
    · rename_i y9 y10 y11
      apply Keeps.ite
      · with_reducible apply h4
        assumption
      · apply Keeps.ite
        · split
          · rename_i y12 y13 y14
            exact sendDatagram_keeps (hm.of rfl) (by assumption)
          · rename_i y15 y16
            assumption
        · extract_lets +onlyGivenNames x17
          clear_value x17
          with_reducible apply h4
          refine Keeps.upd 4 (hm.of rfl) ?_ ?_ ?_ ?_ ?_ rfl
          · assumption
          · exact Nat.le_refl _
          · exact ⟨id, rfl, rfl, rfl⟩
          · exact ⟨Nat.le_refl _, id, fun h => by simp only [List.length_map]; exact h, id⟩
          · exact ⟨id⟩

theorem submit_keeps {m} {s0 : State} {p1 p2} {p3 : State} (hm : Sub 8199 m) (k : Keeps m s0 p3) (h1 : KeepsCmd m p1) :
    Keeps m s0 (submit p1 p2 p3) := by
  unfold submit
  apply Keeps.ite
  · assumption
  · split
    · rename_i y1 y2 y3
      apply Keeps.ite
      · assumption
      · apply Keeps.ite
        · with_reducible apply hostError_keeps (hm.of rfl)
          exact hostError_keeps (hm.of rfl) (by assumption)
        · with_reducible apply arrive_keeps (hm.of rfl)
          · with_reducible apply takeMailbox_keeps (hm.of rfl)
            exact writeRequest_keeps (hm.of rfl) (by assumption)
          · assumption
    · rename_i y4 y5 y6
      with_reducible apply udpArrive_keeps (hm.of rfl)
      · assumption
      · intro a7 a9 h12
        with_reducible apply arrive_keeps (hm.of rfl)
        · assumption
        · assumption

theorem armGen_keeps {m} {s0 : State} {p1} {p2 : State} (hm : Sub 68 m) (k : Keeps m s0 p2) :
    Keeps m s0 (armGen p1 p2) := by
  unfold armGen
  extract_lets +onlyGivenNames x1
  clear_value x1
  extract_lets +onlyGivenNames x2
  clear_value x2
  extract_lets +onlyGivenNames x3
  have h4 : Keeps m s0 x3 := by
    unfold x3
    exact Keeps.rest 64 (hm.of rfl) (by assumption) rfl
  clear_value x3
  apply Keeps.foldl
  · intro a5 a7 h10
    split
    · rename_i y11 y12 y13
      exact complete_keeps (hm.of rfl) (by assumption)
    · rename_i y14 y15
      assumption
  · assumption

theorem nextGenNumber_keeps {m} {s0 : State} {p1} {p2 : State} (hm : Sub 64 m) (k : Keeps m s0 p2) :
    Keeps m s0 (nextGenNumber p1 p2).2 := by
  unfold nextGenNumber
  extract_lets +onlyGivenNames x1
  clear_value x1
  apply Keeps.sndMk
  exact Keeps.rest 64 (hm.of rfl) (by assumption) rfl

theorem receiveTransfer_keeps {m} {s0 : State} {p1 p2 p3 p4 p5 p6 p7 p8} {p9 : State} (hm : Sub 2 m) (k : Keeps m s0 p9) :
    Keeps m s0 (receiveTransfer p1 p2 p3 p4 p5 p6 p7 p8 p9) := by
  unfold receiveTransfer
  exact openChannel_keeps (hm.of rfl) (by assumption)

theorem tableFault_keeps {m} {s0 : State} {p1 p2 p3} {p4 : State} (hm : Sub 4 m) (k : Keeps m s0 p4) :
    Keeps m s0 (tableFault p1 p2 p3 p4) := by
  unfold tableFault
  exact complete_keeps (hm.of rfl) (by assumption)

end Sys2Proof.Machine
end

