-- ==== Sys2Proof/Laws/Keeps/FieldIo.lean ====
section
/-!
SUPPORT. What the operations of Machine/FieldIo.lean keep.
-/

namespace Sys2Proof.Machine

theorem setFio_keeps {m} {s0 : State} {p1} {p2 : State} (hm : Sub 262144 m) (k : Keeps m s0 p2) :
    Keeps m s0 (setFio p1 p2) := by
  unfold setFio
  exact Keeps.rest 262144 (hm.of rfl) (by assumption) rfl

theorem setLs_keeps {m} {s0 : State} {p1 p2} {p3 : State} (hm : Sub 262144 m) (k : Keeps m s0 p3) :
    Keeps m s0 (setLs p1 p2 p3) := by
  unfold setLs
  exact setFio_keeps (hm.of rfl) (by assumption)

theorem setInput_keeps {m} {s0 : State} {p1 p2} {p3 : State} (hm : Sub 262144 m) (k : Keeps m s0 p3) :
    Keeps m s0 (setInput p1 p2 p3) := by
  unfold setInput
  exact setFio_keeps (hm.of rfl) (by assumption)

theorem setOutput_keeps {m} {s0 : State} {p1 p2} {p3 : State} (hm : Sub 262144 m) (k : Keeps m s0 p3) :
    Keeps m s0 (setOutput p1 p2 p3) := by
  unfold setOutput
  exact setFio_keeps (hm.of rfl) (by assumption)

theorem syncField_keeps {m} {s0 : State} {p1 : State} (hm : Sub 2052 m) (k : Keeps m s0 p1) :
    Keeps m s0 (syncField p1) := by
  unfold syncField
  extract_lets +onlyGivenNames x1
  have h2 : Keeps m s0 x1 := by
    unfold x1
    apply Keeps.ite
    · exact endFault_keeps (hm.of rfl) (by assumption)
    · assumption
  clear_value x1
  apply Keeps.ite
  · exact endFault_keeps (hm.of rfl) (by assumption)
  · assumption

theorem fieldSupplyEvent_keeps {m} {s0 : State} {p1} {p2 : State} (hm : Sub 4 m) (k : Keeps m s0 p2) :
    Keeps m s0 (fieldSupplyEvent p1 p2) := by
  unfold fieldSupplyEvent
  exact raiseEvent_keeps (hm.of rfl) (by assumption)

theorem measureField_keeps {m} {s0 : State} {p1 p2} {p3 : State} (hm : Sub 262144 m) (k : Keeps m s0 p3) :
    Keeps m s0 (measureField p1 p2 p3) := by
  unfold measureField
  exact setFio_keeps (hm.of rfl) (by assumption)

theorem lsTripEvent_keeps {m} {s0 : State} {p1 p2} {p3 : State} (hm : Sub 4 m) (k : Keeps m s0 p3) :
    Keeps m s0 (lsTripEvent p1 p2 p3) := by
  unfold lsTripEvent
  extract_lets +onlyGivenNames x1
  clear_value x1
  exact raiseEvent_keeps (hm.of rfl) (by assumption)

theorem lsTrip_keeps {m} {s0 : State} {p1 p2 p3} {p4 : State} (hm : Sub 272391 m) (k : Keeps m s0 p4) :
    Keeps m s0 (lsTrip p1 p2 p3 p4) := by
  unfold lsTrip
  with_reducible apply lsTripEvent_keeps (hm.of rfl)
  with_reducible apply raiseFault_keeps (hm.of rfl)
  exact setLs_keeps (hm.of rfl) (by assumption)

theorem lsClear_keeps {m} {s0 : State} {p1} {p2 : State} (hm : Sub 262148 m) (k : Keeps m s0 p2) :
    Keeps m s0 (lsClear p1 p2) := by
  unfold lsClear
  with_reducible apply lsTripEvent_keeps (hm.of rfl)
  exact setLs_keeps (hm.of rfl) (by assumption)

theorem evalOutputs_keeps {m} {s0 : State} {p1 : State} (hm : Sub 262144 m) (k : Keeps m s0 p1) :
    Keeps m s0 (evalOutputs p1) := by
  unfold evalOutputs
  exact setFio_keeps (hm.of rfl) (by assumption)

theorem latchDownlink_keeps {m} {s0 : State} {p1 : State} (hm : Sub 262144 m) (k : Keeps m s0 p1) :
    Keeps m s0 (latchDownlink p1) := by
  unfold latchDownlink
  with_reducible apply evalOutputs_keeps (hm.of rfl)
  exact setFio_keeps (hm.of rfl) (by assumption)

theorem removeContactor_keeps {m} {s0 : State} {p1} {p2 : State} (hm : Sub 262144 m) (k : Keeps m s0 p2) :
    Keeps m s0 (removeContactor p1 p2) := by
  unfold removeContactor
  with_reducible apply evalOutputs_keeps (hm.of rfl)
  exact setOutput_keeps (hm.of rfl) (by assumption)

theorem inputEvent_keeps {m} {s0 : State} {p1 p2 p3 p4 p5} {p6 : State} (hm : Sub 4 m) (k : Keeps m s0 p6) :
    Keeps m s0 (inputEvent p1 p2 p3 p4 p5 p6) := by
  unfold inputEvent
  exact raiseEvent_keeps (hm.of rfl) (by assumption)

theorem toInput_keeps {m} {s0 : State} {p1 p2 p3 p4} {p5 : State} (hm : Sub 272391 m) (k : Keeps m s0 p5) :
    Keeps m s0 (toInput p1 p2 p3 p4 p5) := by
  unfold toInput
  extract_lets +onlyGivenNames x1
  clear_value x1
  apply Keeps.ite
  · assumption
  · extract_lets +onlyGivenNames x2
    have h3 : Keeps m s0 x2 := by
      unfold x2
      with_reducible apply inputEvent_keeps (hm.of rfl)
      exact setInput_keeps (hm.of rfl) (by assumption)
    clear_value x2
    with_reducible apply syncField_keeps (hm.of rfl)
    apply Keeps.ite
    · exact raiseFault_keeps (hm.of rfl) (by assumption)
    · assumption

theorem evalInput_keeps {m} {s0 : State} {p1} {p2 : State} (hm : Sub 272391 m) (k : Keeps m s0 p2) :
    Keeps m s0 (evalInput p1 p2) := by
  unfold evalInput
  extract_lets +onlyGivenNames x1
  clear_value x1
  extract_lets +onlyGivenNames x2
  clear_value x2
  apply Keeps.ite
  · assumption
  · apply Keeps.ite
    · apply Keeps.ite
      · exact toInput_keeps (hm.of rfl) (by assumption)
      · apply Keeps.ite
        · assumption
        · apply Keeps.ite
          · exact toInput_keeps (hm.of rfl) (by assumption)
          · apply Keeps.ite
            · exact toInput_keeps (hm.of rfl) (by assumption)
            · exact toInput_keeps (hm.of rfl) (by assumption)
    · apply Keeps.ite
      · apply Keeps.ite
        · with_reducible apply toInput_keeps (hm.of rfl)
          exact setInput_keeps (hm.of rfl) (by assumption)
        · assumption
      · apply Keeps.ite
        · assumption
        · exact setInput_keeps (hm.of rfl) (by assumption)

theorem sampleOne_keeps {m} {s0 : State} {p1 p2 p3 p4} {p5 : State} (hm : Sub 272391 m) (k : Keeps m s0 p5) :
    Keeps m s0 (sampleOne p1 p2 p3 p4 p5) := by
  unfold sampleOne
  extract_lets +onlyGivenNames x1
  clear_value x1
  apply Keeps.ite
  · assumption
  · apply Keeps.ite
    · with_reducible apply evalInput_keeps (hm.of rfl)
      exact setInput_keeps (hm.of rfl) (by assumption)
    · extract_lets +onlyGivenNames x2
      have h3 : Keeps m s0 x2 := setInput_keeps (hm.of rfl) (by assumption)
      clear_value x2
      extract_lets +onlyGivenNames x4
      clear_value x4
      extract_lets +onlyGivenNames x5
      clear_value x5
      split
      · rename_i y6 y7 y8
        apply Keeps.ite
        · assumption
        · exact toInput_keeps (hm.of rfl) (by assumption)
      · rename_i y9
        exact evalInput_keeps (hm.of rfl) (by assumption)

theorem suspendInputs_keeps {m} {s0 : State} {p1 : State} (hm : Sub 272391 m) (k : Keeps m s0 p1) :
    Keeps m s0 (suspendInputs p1) := by
  unfold suspendInputs
  apply Keeps.foldl
  · intro a1 a3 h6
    exact sampleOne_keeps (hm.of rfl) (by assumption)
  · assumption

theorem passTest_keeps {m} {s0 : State} {p1 p2 p3} {p4 : State} (hm : Sub 262148 m) (k : Keeps m s0 p4) :
    Keeps m s0 (passTest p1 p2 p3 p4) := by
  unfold passTest
  apply Keeps.ite
  · with_reducible apply raiseEvent_keeps (hm.of rfl)
    exact setFio_keeps (hm.of rfl) (by assumption)
  · assumption

theorem releaseInput_keeps {m} {s0 : State} {p1} {p2 : State} (hm : Sub 272391 m) (k : Keeps m s0 p2) :
    Keeps m s0 (releaseInput p1 p2) := by
  unfold releaseInput
  extract_lets +onlyGivenNames x1
  clear_value x1
  apply Keeps.ite
  · extract_lets +onlyGivenNames x2
    clear_value x2
    extract_lets +onlyGivenNames x3
    have h4 : Keeps m s0 x3 := toInput_keeps (hm.of rfl) (by assumption)
    clear_value x3
    extract_lets +onlyGivenNames x5
    have h6 : Keeps m s0 x5 := by
      unfold x5
      apply Keeps.ite
      · apply Keeps.foldl
        · intro a7 a9 h12
          exact passTest_keeps (hm.of rfl) (by assumption)
        · assumption
      · assumption
    clear_value x5
    exact setInput_keeps (hm.of rfl) (by assumption)
  · assumption

theorem discrepancyInput_keeps {m} {s0 : State} {p1} {p2 : State} (hm : Sub 272391 m) (k : Keeps m s0 p2) :
    Keeps m s0 (discrepancyInput p1 p2) := by
  unfold discrepancyInput
  extract_lets +onlyGivenNames x1
  clear_value x1
  extract_lets +onlyGivenNames x2
  clear_value x2
  apply Keeps.ite
  · exact toInput_keeps (hm.of rfl) (by assumption)
  · assumption

theorem resetInput_keeps {m} {s0 : State} {p1} {p2 : State} (hm : Sub 272391 m) (k : Keeps m s0 p2) :
    Keeps m s0 (resetInput p1 p2) := by
  unfold resetInput
  extract_lets +onlyGivenNames x1
  clear_value x1
  apply Keeps.ite
  · with_reducible apply setInput_keeps (hm.of rfl)
    exact toInput_keeps (hm.of rfl) (by assumption)
  · assumption

theorem applyLsConfig_keeps {m} {s0 : State} {p1 p2} {p3 : State} (hm : Sub 262144 m) (k : Keeps m s0 p3) :
    Keeps m s0 (applyLsConfig p1 p2 p3) := by
  unfold applyLsConfig
  extract_lets +onlyGivenNames x1
  clear_value x1
  apply Keeps.ite
  · exact setLs_keeps (hm.of rfl) (by assumption)
  · exact setLs_keeps (hm.of rfl) (by assumption)

theorem applySafInput_keeps {m} {s0 : State} {p1 p2} {p3 : State} (hm : Sub 264196 m) (k : Keeps m s0 p3) :
    Keeps m s0 (applySafInput p1 p2 p3) := by
  unfold applySafInput
  with_reducible apply syncField_keeps (hm.of rfl)
  exact setInput_keeps (hm.of rfl) (by assumption)

theorem fieldUp_keeps {m} {s0 : State} {p1 : State} (hm : Sub 265220 m) (k : Keeps m s0 p1) :
    Keeps m s0 (fieldUp p1) := by
  unfold fieldUp
  extract_lets +onlyGivenNames x1
  clear_value x1
  extract_lets +onlyGivenNames x2
  clear_value x2
  extract_lets +onlyGivenNames x3
  have h4 : Keeps m s0 x3 := by
    unfold x3
    exact Keeps.rest 1024 (hm.of rfl) (by assumption) rfl
  clear_value x3
  extract_lets +onlyGivenNames x5
  have h6 : Keeps m s0 x5 := setFio_keeps (hm.of rfl) (by assumption)
  clear_value x5
  exact syncField_keeps (hm.of rfl) (by assumption)

theorem fieldDown_keeps {m} {s0 : State} {p1 : State} (hm : Sub 262144 m) (k : Keeps m s0 p1) :
    Keeps m s0 (fieldDown p1) := by
  unfold fieldDown
  with_reducible apply evalOutputs_keeps (hm.of rfl)
  exact setFio_keeps (hm.of rfl) (by assumption)

theorem fieldRelease_keeps {m} {s0 : State} {p1} {p2 : State} (hm : Sub 272391 m) (k : Keeps m s0 p2) :
    Keeps m s0 (fieldRelease p1 p2) := by
  unfold fieldRelease
  extract_lets +onlyGivenNames x1
  have h2 : Keeps m s0 x1 := by
    unfold x1
    apply Keeps.foldl
    · intro a3 a5 h8
      with_reducible apply raiseFault_keeps (hm.of rfl)
      with_reducible apply raiseEvent_keeps (hm.of rfl)
      exact setOutput_keeps (hm.of rfl) (by assumption)
    · assumption
  clear_value x1
  with_reducible apply evalOutputs_keeps (hm.of rfl)
  exact setFio_keeps (hm.of rfl) (by assumption)

theorem applyLsSet_keeps {m} {s0 : State} {p1 p2} {p3 : State} (hm : Sub 262148 m) (k : Keeps m s0 p3) :
    Keeps m s0 (applyLsSet p1 p2 p3) := by
  unfold applyLsSet
  apply Keeps.foldl
  · intro a1 a3 h6
    apply Keeps.ite
    · exact lsClear_keeps (hm.of rfl) (by assumption)
    · exact setLs_keeps (hm.of rfl) (by assumption)
  · assumption

theorem fieldTick_keeps {m} {s0 : State} {p1 p2 p3} {p4 : State} (hm : Sub 272391 m) (k : Keeps m s0 p4) :
    Keeps m s0 (fieldTick p1 p2 p3 p4) := by
  unfold fieldTick
  apply Keeps.ite
  · assumption
  · extract_lets +onlyGivenNames x1
    clear_value x1
    extract_lets +onlyGivenNames x2
    clear_value x2
    extract_lets +onlyGivenNames x3
    clear_value x3
    extract_lets +onlyGivenNames x4
    have h5 : Keeps m s0 x4 := setFio_keeps (hm.of rfl) (by assumption)
    clear_value x4
    extract_lets +onlyGivenNames x6
    have h7 : Keeps m s0 x6 := by
      unfold x6
      apply Keeps.foldl
      · intro a8 a10 h13
        exact applyLsSet_keeps (hm.of rfl) (by assumption)
      · assumption
    clear_value x6
    extract_lets +onlyGivenNames x14
    have h15 : Keeps m s0 x14 := by
      unfold x14
      apply Keeps.foldl
      · intro a16 a18 h21
        exact setOutput_keeps (hm.of rfl) (by assumption)
      · assumption
    clear_value x14
    extract_lets +onlyGivenNames x22
    have h23 : Keeps m s0 x22 := by
      unfold x22
      apply Keeps.foldl
      · intro a24 a26 h29
        exact resetInput_keeps (hm.of rfl) (by assumption)
      · assumption
    clear_value x22
    exact syncField_keeps (hm.of rfl) (by assumption)

end Sys2Proof.Machine
end

