-- ==== Sys2Proof/Laws/Keeps/LedgerStore.lean ====
section
/-!
SUPPORT. What the operations of Machine/LedgerStore.lean keep.
-/

namespace Sys2Proof.Machine

theorem mirrorSend_keeps {m} {s0 : State} {p1 p2} {p3 : State} (hm : Sub 4096 m) (k : Keeps m s0 p3) :
    Keeps m s0 (mirrorSend p1 p2 p3) := by
  unfold mirrorSend
  exact Keeps.rest 4096 (hm.of rfl) (by assumption) rfl

theorem shipRecord_keeps {m} {s0 : State} {p1} {p2 : State} (hm : Sub 4096 m) (k : Keeps m s0 p2) :
    Keeps m s0 (shipRecord p1 p2) := by
  unfold shipRecord
  apply Keeps.ite
  · exact mirrorSend_keeps (hm.of rfl) (by assumption)
  · assumption

theorem storeAccount_keeps {m} {s0 : State} {p1 p2 p3} {p4 : State} (hm : Sub 32 m) (k : Keeps m s0 p4) :
    Keeps m s0 (storeAccount p1 p2 p3 p4) := by
  unfold storeAccount
  extract_lets +onlyGivenNames x1
  clear_value x1
  extract_lets +onlyGivenNames x2
  clear_value x2
  extract_lets +onlyGivenNames x3
  clear_value x3
  exact Keeps.upd 32 (hm.of rfl) (by assumption) (Nat.le_refl _) ⟨id, rfl, rfl, rfl⟩ ⟨Nat.le_refl _, id, id, id⟩ ⟨id⟩ rfl

theorem storeLocal_keeps {m} {s0 : State} {p1 p2 p3} {p4 : State} (hm : Sub 32 m) (k : Keeps m s0 p4) :
    Keeps m s0 (storeLocal p1 p2 p3 p4) := by
  unfold storeLocal
  extract_lets +onlyGivenNames x1
  clear_value x1
  extract_lets +onlyGivenNames x2
  clear_value x2
  extract_lets +onlyGivenNames x3
  clear_value x3
  exact Keeps.upd 32 (hm.of rfl) (by assumption) (Nat.le_refl _) ⟨id, rfl, rfl, rfl⟩ ⟨Nat.le_refl _, id, id, id⟩ ⟨id⟩ rfl

theorem setTick_keeps {m} {s0 : State} {p1 p2} {p3 : State} (hm : Sub 32 m) (k : Keeps m s0 p3) :
    Keeps m s0 (setTick p1 p2 p3) := by
  unfold setTick
  refine Keeps.upd 32 (hm.of rfl) ?_ ?_ ?_ ?_ ?_ rfl
  · assumption
  · exact Nat.le_refl _
  · exact ⟨id, rfl, rfl, rfl⟩
  · exact ⟨Nat.le_refl _, id, id, id⟩
  · exact ⟨fun h => by simp only [List.length_map]; exact h⟩

theorem writeAccount_keeps {m} {s0 : State} {p1 p2 p3} {p4 : State} (hm : Sub 4128 m) (k : Keeps m s0 p4) :
    Keeps m s0 (writeAccount p1 p2 p3 p4) := by
  unfold writeAccount
  extract_lets +onlyGivenNames x1
  have h2 : Keeps m s0 x1 := setTick_keeps (hm.of rfl) (by assumption)
  clear_value x1
  apply Keeps.ite
  · with_reducible apply shipRecord_keeps (hm.of rfl)
    exact storeAccount_keeps (hm.of rfl) (by assumption)
  · assumption

theorem writeLocal_keeps {m} {s0 : State} {p1 p2 p3} {p4 : State} (hm : Sub 4128 m) (k : Keeps m s0 p4) :
    Keeps m s0 (writeLocal p1 p2 p3 p4) := by
  unfold writeLocal
  extract_lets +onlyGivenNames x1
  have h2 : Keeps m s0 x1 := setTick_keeps (hm.of rfl) (by assumption)
  clear_value x1
  apply Keeps.ite
  · with_reducible apply shipRecord_keeps (hm.of rfl)
    exact storeLocal_keeps (hm.of rfl) (by assumption)
  · assumption

theorem stageFor_keeps {m} {s0 : State} {p1 p2 p3} {p4 : State} (hm : Sub 32 m) (k : Keeps m s0 p4) :
    Keeps m s0 (stageFor p1 p2 p3 p4) := by
  unfold stageFor
  exact setTick_keeps (hm.of rfl) (by assumption)

theorem undoAccount_keeps {m} {s0 : State} {p1 p2} {p3 : State} (hm : Sub 32 m) (k : Keeps m s0 p3) :
    Keeps m s0 (undoAccount p1 p2 p3) := by
  unfold undoAccount
  extract_lets +onlyGivenNames x1
  have h2 : Keeps m s0 x1 := setTick_keeps (hm.of rfl) (by assumption)
  clear_value x1
  exact Keeps.upd 32 (hm.of rfl) (by assumption) (Nat.le_refl _) ⟨id, rfl, rfl, rfl⟩ ⟨Nat.le_refl _, id, id, id⟩ ⟨id⟩ rfl

theorem undoLocal_keeps {m} {s0 : State} {p1 p2} {p3 : State} (hm : Sub 32 m) (k : Keeps m s0 p3) :
    Keeps m s0 (undoLocal p1 p2 p3) := by
  unfold undoLocal
  extract_lets +onlyGivenNames x1
  have h2 : Keeps m s0 x1 := setTick_keeps (hm.of rfl) (by assumption)
  clear_value x1
  exact Keeps.upd 32 (hm.of rfl) (by assumption) (Nat.le_refl _) ⟨id, rfl, rfl, rfl⟩ ⟨Nat.le_refl _, id, id, id⟩ ⟨id⟩ rfl

theorem drainOldest_keeps {m} {s0 : State} {p1 : State} (hm : Sub 4128 m) (k : Keeps m s0 p1) :
    Keeps m s0 (drainOldest p1) := by
  unfold drainOldest
  split
  · rename_i y1 y2
    assumption
  · rename_i y3 y4 y5 y6
    extract_lets +onlyGivenNames x7
    have h8 : Keeps m s0 x7 := by
      unfold x7
      apply Keeps.foldl
      · intro a9 a10 a11
        split
        · rename_i y12 y13 y14
          with_reducible apply shipRecord_keeps (hm.of rfl)
          exact storeAccount_keeps (hm.of rfl) (by assumption)
      · assumption
    clear_value x7
    apply Keeps.foldl
    · intro a15 a16 a17
      split
      · rename_i y18 y19 y20
        with_reducible apply shipRecord_keeps (hm.of rfl)
        exact storeLocal_keeps (hm.of rfl) (by assumption)
    · assumption

end Sys2Proof.Machine
end

