-- ==== Sys2Proof/Laws/Keeps/Tariff.lean ====
section
/-!
SUPPORT. What the operations of Machine/Tariff.lean keep.
-/

namespace Sys2Proof.Machine

theorem recordTime_keeps {m} {s0 : State} {p1} {p2 : State} (hm : Sub 32 m) (k : Keeps m s0 p2) :
    Keeps m s0 (recordTime p1 p2) := by
  unfold recordTime
  extract_lets +onlyGivenNames x1
  clear_value x1
  extract_lets +onlyGivenNames x2
  clear_value x2
  extract_lets +onlyGivenNames x3
  clear_value x3
  extract_lets +onlyGivenNames x4
  clear_value x4
  extract_lets +onlyGivenNames x5
  clear_value x5
  exact Keeps.upd 32 (hm.of rfl) (by assumption) (Nat.le_refl _) ⟨id, rfl, rfl, rfl⟩ ⟨Nat.le_refl _, id, id, id⟩ ⟨id⟩ rfl

end Sys2Proof.Machine
end

