-- ==== Sys2Proof/Laws/Keeps/Ledger.lean ====
section
/-!
SUPPORT. What the operations of Machine/Ledger.lean keep.
-/

namespace Sys2Proof.Machine

theorem setPage_keeps {m} {s0 : State} {p1 p2} {p3 : State} (hm : Sub 32 m) (k : Keeps m s0 p3) :
    Keeps m s0 (setPage p1 p2 p3) := by
  unfold setPage
  exact Keeps.upd 32 (hm.of rfl) (by assumption) (Nat.le_refl _) ⟨id, rfl, rfl, rfl⟩ ⟨Nat.le_refl _, id, id, id⟩ ⟨id⟩ rfl

theorem runAccount_keeps {m} {s0 : State} {p1 p2} {p3 : State} (hm : Sub 4128 m) (k : Keeps m s0 p3) :
    Keeps m s0 (runAccount p1 p2 p3) := by
  unfold runAccount
  extract_lets +onlyGivenNames x1
  have h2 : Keeps m s0 x1 := undoAccount_keeps (hm.of rfl) (by assumption)
  clear_value x1
  split
  · rename_i y3 y4
    assumption
  · rename_i y5 y6 y7
    apply Keeps.ite
    · assumption
    · extract_lets +onlyGivenNames x8
      clear_value x8
      extract_lets +onlyGivenNames x9
      clear_value x9
      extract_lets +onlyGivenNames x10
      have h11 : Keeps m s0 x10 := by
        unfold x10
        apply Keeps.foldl
        · intro a12 a14 h17
          exact stageFor_keeps (hm.of rfl) (by assumption)
        · assumption
      clear_value x10
      extract_lets +onlyGivenNames x18
      clear_value x18
      apply Keeps.ite
      · assumption
      · exact writeAccount_keeps (hm.of rfl) (by assumption)

theorem runLocal_keeps {m} {s0 : State} {p1 p2} {p3 : State} (hm : Sub 4128 m) (k : Keeps m s0 p3) :
    Keeps m s0 (runLocal p1 p2 p3) := by
  unfold runLocal
  extract_lets +onlyGivenNames x1
  have h2 : Keeps m s0 x1 := undoLocal_keeps (hm.of rfl) (by assumption)
  clear_value x1
  split
  · rename_i y3 y4
    assumption
  · rename_i y5 y6 y7
    apply Keeps.ite
    · assumption
    · extract_lets +onlyGivenNames x8
      clear_value x8
      extract_lets +onlyGivenNames x9
      have h10 : Keeps m s0 x9 := by
        unfold x9
        apply Keeps.foldl
        · intro a11 a12 a13
          exact stageFor_keeps (hm.of rfl) (by assumption)
        · assumption
      clear_value x9
      exact writeLocal_keeps (hm.of rfl) (by assumption)

end Sys2Proof.Machine
end

