-- ==== Sys2Proof/Laws/Keeps/Metrology.lean ====
section
/-!
SUPPORT. What the operations of Machine/Metrology.lean keep.
-/

namespace Sys2Proof.Machine

theorem setMet_keeps {m} {s0 : State} {p1} {p2 : State} (hm : Sub 512 m) (k : Keeps m s0 p2) :
    Keeps m s0 (setMet p1 p2) := by
  unfold setMet
  exact Keeps.rest 512 (hm.of rfl) (by assumption) rfl

theorem setMetChan_keeps {m} {s0 : State} {p1 p2} {p3 : State} (hm : Sub 512 m) (k : Keeps m s0 p3) :
    Keeps m s0 (setMetChan p1 p2 p3) := by
  unfold setMetChan
  exact setMet_keeps (hm.of rfl) (by assumption)

theorem setMetSet_keeps {m} {s0 : State} {p1 p2} {p3 : State} (hm : Sub 512 m) (k : Keeps m s0 p3) :
    Keeps m s0 (setMetSet p1 p2 p3) := by
  unfold setMetSet
  exact setMet_keeps (hm.of rfl) (by assumption)

theorem countSet_keeps {m} {s0 : State} {p1 p2 p3} {p4 : State} (hm : Sub 512 m) (k : Keeps m s0 p4) :
    Keeps m s0 (countSet p1 p2 p3 p4) := by
  unfold countSet
  split
  · rename_i y1 y2 y3 y4 y5
    extract_lets +onlyGivenNames x6
    clear_value x6
    exact setMetSet_keeps (hm.of rfl) (by assumption)

theorem captureWindow_keeps {m} {s0 : State} {p1} {p2 : State} (hm : Sub 512 m) (k : Keeps m s0 p2) :
    Keeps m s0 (captureWindow p1 p2) := by
  unfold captureWindow
  split
  · rename_i y1 y2 y3
    apply Keeps.ite
    · extract_lets +onlyGivenNames x4
      clear_value x4
      extract_lets +onlyGivenNames x5
      clear_value x5
      exact setMet_keeps (hm.of rfl) (by assumption)
    · assumption
  · rename_i y6 y7
    assumption

theorem meterChannel_keeps {m} {s0 : State} {p1 p2 p4} {p3 : State} (hm : Sub 10759 m) (k : Keeps m s0 p3) :
    Keeps m s0 (meterChannel p1 p2 p3 p4) := by
  unfold meterChannel
  extract_lets +onlyGivenNames x1
  clear_value x1
  split
  · rename_i y2 y3
    assumption
  · rename_i y4 y5 y6
    apply Keeps.ite
    · assumption
    · extract_lets +onlyGivenNames x7
      have h8 : Keeps m s0 x7 := captureWindow_keeps (hm.of rfl) (by assumption)
      clear_value x7
      extract_lets +onlyGivenNames x9
      have h10 : Keeps m s0 x9 := setMetChan_keeps (hm.of rfl) (by assumption)
      clear_value x9
      extract_lets +onlyGivenNames x11
      clear_value x11
      extract_lets +onlyGivenNames x12
      clear_value x12
      extract_lets +onlyGivenNames x13
      have h14 : Keeps m s0 x13 := by
        unfold x13
        apply Keeps.ite
        · exact raiseEvent_keeps (hm.of rfl) (by assumption)
        · assumption
      clear_value x13
      apply Keeps.ite
      · exact raiseFault_keeps (hm.of rfl) (by assumption)
      · assumption

theorem applyDemandPending_keeps {m} {s0 : State} {p1 : State} (hm : Sub 544 m) (k : Keeps m s0 p1) :
    Keeps m s0 (applyDemandPending p1) := by
  unfold applyDemandPending
  extract_lets +onlyGivenNames x1
  clear_value x1
  extract_lets +onlyGivenNames x2
  have h3 : Keeps m s0 x2 := setMet_keeps (hm.of rfl) (by assumption)
  clear_value x2
  extract_lets +onlyGivenNames x4
  have h5 : Keeps m s0 x4 := by
    unfold x4
    apply Keeps.foldl
    · intro a6 a7 a8
      split
      · rename_i y9 y10 y11 y12 y13 y14
        extract_lets +onlyGivenNames x15
        have h16 : Keeps m s0 x15 := setMetSet_keeps (hm.of rfl) (by assumption)
        clear_value x15
        exact audit_keeps (hm.of rfl) (by assumption)
    · assumption
  clear_value x4
  extract_lets +onlyGivenNames x17
  clear_value x17
  extract_lets +onlyGivenNames x18
  have h19 : Keeps m s0 x18 := setMet_keeps (hm.of rfl) (by assumption)
  clear_value x18
  apply Keeps.foldl
  · intro a20 a21 a22
    extract_lets +onlyGivenNames x23
    clear_value x23
    apply Keeps.ite
    · assumption
    · extract_lets +onlyGivenNames x24
      have h25 : Keeps m s0 x24 := setMetSet_keeps (hm.of rfl) (by assumption)
      clear_value x24
      exact audit_keeps (hm.of rfl) (by assumption)
  · assumption

theorem meterTick_keeps {m} {s0 : State} {p1} {p2 : State} (hm : Sub 10791 m) (k : Keeps m s0 p2) :
    Keeps m s0 (meterTick p1 p2) := by
  unfold meterTick
  apply Keeps.ite
  · assumption
  · extract_lets +onlyGivenNames x1
    clear_value x1
    extract_lets +onlyGivenNames x2
    have h3 : Keeps m s0 x2 := by
      unfold x2
      apply Keeps.foldl
      · intro a4 a6 h9
        exact meterChannel_keeps (hm.of rfl) (by assumption)
      · assumption
    clear_value x2
    extract_lets +onlyGivenNames x10
    clear_value x10
    extract_lets +onlyGivenNames x11
    have h12 : Keeps m s0 x11 := by
      unfold x11
      apply Keeps.foldl
      · intro a13 a15 h18
        apply Keeps.ite
        · exact countSet_keeps (hm.of rfl) (by assumption)
        · assumption
      · assumption
    clear_value x11
    extract_lets +onlyGivenNames x19
    have h20 : Keeps m s0 x19 := setMet_keeps (hm.of rfl) (by assumption)
    clear_value x19
    exact applyDemandPending_keeps (hm.of rfl) (by assumption)

theorem uplinkMetrology_keeps {m} {s0 : State} {p1 : State} (hm : Sub 512 m) (k : Keeps m s0 p1) :
    Keeps m s0 (uplinkMetrology p1) := by
  unfold uplinkMetrology
  exact setMet_keeps (hm.of rfl) (by assumption)

theorem checkSet_keeps {m} {s0 : State} {p1 p2 p3 p4} {p5 : State} (hm : Sub 10791 m) (k : Keeps m s0 p5) :
    Keeps m s0 (checkSet p1 p2 p3 p4 p5) := by
  unfold checkSet
  extract_lets +onlyGivenNames x1
  clear_value x1
  extract_lets +onlyGivenNames x2
  clear_value x2
  extract_lets +onlyGivenNames x3
  clear_value x3
  apply Keeps.ite
  · extract_lets +onlyGivenNames x4
    have h5 : Keeps m s0 x4 := raiseEvent_keeps (hm.of rfl) (by assumption)
    clear_value x4
    extract_lets +onlyGivenNames x6
    have h7 : Keeps m s0 x6 := setMetSet_keeps (hm.of rfl) (by assumption)
    clear_value x6
    apply Keeps.ite
    · with_reducible apply audit_keeps (hm.of rfl)
      with_reducible apply raiseFault_keeps (hm.of rfl)
      exact setMetSet_keeps (hm.of rfl) (by assumption)
    · assumption
  · extract_lets +onlyGivenNames x8
    have h9 : Keeps m s0 x8 := setMetSet_keeps (hm.of rfl) (by assumption)
    clear_value x8
    apply Keeps.ite
    · extract_lets +onlyGivenNames x10
      have h11 : Keeps m s0 x10 := by
        unfold x10
        with_reducible apply audit_keeps (hm.of rfl)
        exact setMetSet_keeps (hm.of rfl) (by assumption)
      clear_value x10
      apply Keeps.ite
      · assumption
      · exact endFault_keeps (hm.of rfl) (by assumption)
    · assumption

theorem runSet_keeps {m} {s0 : State} {p1 p2 p3 p5} {p4 : State} (hm : Sub 10791 m) (k : Keeps m s0 p4) :
    Keeps m s0 (runSet p1 p2 p3 p4 p5) := by
  unfold runSet
  split
  · rename_i y1 y2 y3 y4 y5
    extract_lets +onlyGivenNames x6
    clear_value x6
    extract_lets +onlyGivenNames x7
    clear_value x7
    extract_lets +onlyGivenNames x8
    have h9 : Keeps m s0 x8 := by
      unfold x8
      apply Keeps.ite
      · exact setMetSet_keeps (hm.of rfl) (by assumption)
      · assumption
    clear_value x8
    split
    · rename_i y10 y11 y12 y13 y14 y15 y16 y17
      apply Keeps.ite
      · extract_lets +onlyGivenNames x18
        clear_value x18
        exact checkSet_keeps (hm.of rfl) (by assumption)
      · assumption
    · rename_i y19 y20 y21
      assumption

theorem runWindow_keeps {m} {s0 : State} {p1 p2} {p3 : State} (hm : Sub 10791 m) (k : Keeps m s0 p3) :
    Keeps m s0 (runWindow p1 p2 p3) := by
  unfold runWindow
  extract_lets +onlyGivenNames x1
  clear_value x1
  split
  · rename_i y2 y3 y4
    extract_lets +onlyGivenNames x5
    clear_value x5
    extract_lets +onlyGivenNames x6
    clear_value x6
    extract_lets +onlyGivenNames x7
    clear_value x7
    extract_lets +onlyGivenNames x8
    clear_value x8
    extract_lets +onlyGivenNames x9
    clear_value x9
    extract_lets +onlyGivenNames x10
    have h11 : Keeps m s0 x10 := by
      unfold x10
      apply Keeps.ite
      · exact setMetChan_keeps (hm.of rfl) (by assumption)
      · assumption
    clear_value x10
    apply Keeps.foldl
    · intro a12 a13 a14
      exact runSet_keeps (hm.of rfl) (by assumption)
    · assumption
  · rename_i y15 y16
    assumption

theorem runMetChannel_keeps {m} {s0 : State} {p1 p2} {p3 : State} (hm : Sub 10791 m) (k : Keeps m s0 p3) :
    Keeps m s0 (runMetChannel p1 p2 p3) := by
  unfold runMetChannel
  apply Keeps.ite
  · split
    · rename_i y1 y2 y3
      apply Keeps.ite
      · exact runWindow_keeps (hm.of rfl) (by assumption)
      · assumption
    · rename_i y4 y5
      assumption
  · extract_lets +onlyGivenNames x6
    clear_value x6
    extract_lets +onlyGivenNames x7
    clear_value x7
    apply Keeps.foldl
    · intro a8 a9 a10
      exact runWindow_keeps (hm.of rfl) (by assumption)
    · exact setMetChan_keeps (hm.of rfl) (by assumption)

theorem storeDemand_keeps {m} {s0 : State} {p1 p2 p3} {p4 : State} (hm : Sub 516 m) (k : Keeps m s0 p4) :
    Keeps m s0 (storeDemand p1 p2 p3 p4) := by
  unfold storeDemand
  extract_lets +onlyGivenNames x1
  have h2 : Keeps m s0 x1 := setMetSet_keeps (hm.of rfl) (by assumption)
  clear_value x1
  apply Keeps.ite
  · exact raiseEvent_keeps (hm.of rfl) (by assumption)
  · assumption

theorem closeWaiting_keeps {m} {s0 : State} {p1 p2} {p3 : State} (hm : Sub 516 m) (k : Keeps m s0 p3) :
    Keeps m s0 (closeWaiting p1 p2 p3) := by
  unfold closeWaiting
  extract_lets +onlyGivenNames x1
  clear_value x1
  apply Keeps.foldl
  · intro a2 a3 a4
    split
    · rename_i y5 y6 y7
      split
      · rename_i y8 y9
        assumption
      · rename_i y10 y11 y12
        split
        · rename_i y13 y14 y15
          exact storeDemand_keeps (hm.of rfl) (by assumption)
        · rename_i y16 y17
          apply Keeps.ite
          · assumption
          · split
            · rename_i y18 y19 y20
              exact storeDemand_keeps (hm.of rfl) (by assumption)
            · rename_i y21 y22
              assumption
  · assumption

theorem demandBoundary_keeps {m} {s0 : State} {p1 p2} {p3 : State} (hm : Sub 516 m) (k : Keeps m s0 p3) :
    Keeps m s0 (demandBoundary p1 p2 p3) := by
  unfold demandBoundary
  split
  · rename_i y1 y2 y3 y4 y5 y6
    apply Keeps.ite
    · assumption
    · apply Keeps.ite
      · exact storeDemand_keeps (hm.of rfl) (by assumption)
      · with_reducible apply closeWaiting_keeps (hm.of rfl)
        exact setMetSet_keeps (hm.of rfl) (by assumption)
  · rename_i y7 y8 y9
    assumption

theorem demandUnpowered_keeps {m} {s0 : State} {p1 p2 p4} {p3 : State} (hm : Sub 516 m) (k : Keeps m s0 p3) :
    Keeps m s0 (demandUnpowered p1 p2 p3 p4) := by
  unfold demandUnpowered
  apply Keeps.foldl
  · intro a1 a2 a3
    split
    · rename_i y4 y5 y6
      exact storeDemand_keeps (hm.of rfl) (by assumption)
  · assumption

theorem demandStepped_keeps {m} {s0 : State} {p1 : State} (hm : Sub 512 m) (k : Keeps m s0 p1) :
    Keeps m s0 (demandStepped p1) := by
  unfold demandStepped
  exact setMet_keeps (hm.of rfl) (by assumption)

theorem metFieldDown_keeps {m} {s0 : State} {p1 : State} (hm : Sub 512 m) (k : Keeps m s0 p1) :
    Keeps m s0 (metFieldDown p1) := by
  unfold metFieldDown
  exact setMet_keeps (hm.of rfl) (by assumption)

theorem metFieldUp_keeps {m} {s0 : State} {p1 : State} (hm : Sub 512 m) (k : Keeps m s0 p1) :
    Keeps m s0 (metFieldUp p1) := by
  unfold metFieldUp
  exact setMet_keeps (hm.of rfl) (by assumption)

end Sys2Proof.Machine
end

