-- ==== Sys2Proof/Laws/Keeps/Vault.lean ====
section
/-!
SUPPORT. What the operations of Machine/Vault.lean keep.
-/

namespace Sys2Proof.Machine

theorem setVlt_keeps {m} {s0 : State} {p1} {p2 : State} (hm : Sub 16384 m) (k : Keeps m s0 p2) :
    Keeps m s0 (setVlt p1 p2) := by
  unfold setVlt
  exact Keeps.rest 16384 (hm.of rfl) (by assumption) rfl

theorem vaultSlotEvent_keeps {m} {s0 : State} {p1 p2 p3 p4 p5 p6} {p7 : State} (hm : Sub 4 m) (k : Keeps m s0 p7) :
    Keeps m s0 (vaultSlotEvent p1 p2 p3 p4 p5 p6 p7) := by
  unfold vaultSlotEvent
  exact raiseEvent_keeps (hm.of rfl) (by assumption)

theorem engineFault_keeps {m} {s0 : State} {p1} {p2 : State} (hm : Sub 10247 m) (k : Keeps m s0 p2) :
    Keeps m s0 (engineFault p1 p2) := by
  unfold engineFault
  apply Keeps.ite
  · exact raiseFault_keeps (hm.of rfl) (by assumption)
  · exact reportFault_keeps (hm.of rfl) (by assumption)

theorem vaultFault_keeps {m} {s0 : State} {p1} {p2 : State} (hm : Sub 10247 m) (k : Keeps m s0 p2) :
    Keeps m s0 (vaultFault p1 p2) := by
  unfold vaultFault
  exact raiseFault_keeps (hm.of rfl) (by assumption)

theorem slotUnusable_keeps {m} {s0 : State} {p1} {p2 : State} (hm : Sub 26631 m) (k : Keeps m s0 p2) :
    Keeps m s0 (slotUnusable p1 p2) := by
  unfold slotUnusable
  extract_lets +onlyGivenNames x1
  clear_value x1
  extract_lets +onlyGivenNames x2
  clear_value x2
  extract_lets +onlyGivenNames x3
  have h4 : Keeps m s0 x3 := vaultSlotEvent_keeps (hm.of rfl) (by assumption)
  clear_value x3
  apply Keeps.ite
  · assumption
  · with_reducible apply vaultFault_keeps (hm.of rfl)
    exact setVlt_keeps (hm.of rfl) (by assumption)

theorem checkTags_keeps {m} {s0 : State} {p1 : State} (hm : Sub 26631 m) (k : Keeps m s0 p1) :
    Keeps m s0 (checkTags p1) := by
  unfold checkTags
  apply Keeps.foldl
  · intro a1 a3 h6
    apply Keeps.ite
    · exact slotUnusable_keeps (hm.of rfl) (by assumption)
    · assumption
  · assumption

theorem setEngine_keeps {m} {s0 : State} {p1 p2 p3} {p4 : State} (hm : Sub 16384 m) (k : Keeps m s0 p4) :
    Keeps m s0 (setEngine p1 p2 p3 p4) := by
  unfold setEngine
  exact setVlt_keeps (hm.of rfl) (by assumption)

theorem refuseKey_keeps {m} {s0 : State} {p1 p2 p3 p4 p5} {p6 : State} (hm : Sub 26631 m) (k : Keeps m s0 p6) :
    Keeps m s0 (refuseKey p1 p2 p3 p4 p5 p6) := by
  unfold refuseKey
  extract_lets +onlyGivenNames x1
  have h2 : Keeps m s0 x1 := setVlt_keeps (hm.of rfl) (by assumption)
  clear_value x1
  extract_lets +onlyGivenNames x3
  have h4 : Keeps m s0 x3 := raiseEvent_keeps (hm.of rfl) (by assumption)
  clear_value x3
  apply Keeps.ite
  · exact engineFault_keeps (hm.of rfl) (by assumption)
  · assumption

theorem requestKey_keeps {m} {s0 : State} {p1 p2 p3} {p4 : State} (hm : Sub 26631 m) (k : Keeps m s0 p4) :
    Keeps m s0 (requestKey p1 p2 p3 p4).2 := by
  unfold requestKey
  extract_lets +onlyGivenNames x1
  clear_value x1
  split
  · rename_i y2 y3
    apply Keeps.sndMk
    exact refuseKey_keeps (hm.of rfl) (by assumption)
  · rename_i y4 y5 y6
    extract_lets +onlyGivenNames x7
    clear_value x7
    split
    · rename_i y8
      extract_lets +onlyGivenNames x9
      clear_value x9
      apply Keeps.sndMk
      exact setEngine_keeps (hm.of rfl) (by assumption)
    · rename_i y10
      split
      · rename_i y11 y12
        apply Keeps.sndMk
        with_reducible apply refuseKey_keeps (hm.of rfl)
        exact slotUnusable_keeps (hm.of rfl) (by assumption)
      · rename_i y13 y14 y15
        split
        · rename_i y16
          apply Keeps.sndMk
          exact refuseKey_keeps (hm.of rfl) (by assumption)
        · rename_i y17
          split
          · rename_i y18
            apply Keeps.sndMk
            exact refuseKey_keeps (hm.of rfl) (by assumption)
          · rename_i y19
            extract_lets +onlyGivenNames x20
            have h21 : Keeps m s0 x20 := setEngine_keeps (hm.of rfl) (by assumption)
            clear_value x20
            extract_lets +onlyGivenNames x22
            have h23 : Keeps m s0 x22 := by
              unfold x22
              apply Keeps.ite
              · exact setVlt_keeps (hm.of rfl) (by assumption)
              · assumption
            clear_value x22
            assumption

theorem keyFor_keeps {m} {s0 : State} {p1 p2} {p3 : State} (hm : Sub 26631 m) (k : Keeps m s0 p3) :
    Keeps m s0 (keyFor p1 p2 p3).2 := by
  unfold keyFor
  split
  · rename_i y1 y2
    assumption
  · rename_i y3 y4 y5
    extract_lets +onlyGivenNames x6
    have h7 : Keeps m s0 x6.2 := requestKey_keeps (hm.of rfl) (by assumption)
    clear_value x6
    apply Keeps.sndMk
    apply Keeps.ite
    · exact setEngine_keeps (hm.of rfl) (by assumption)
    · assumption

theorem engineWork_keeps {m} {s0 : State} {p1} {p2 : State} (hm : Sub 16384 m) (k : Keeps m s0 p2) :
    Keeps m s0 (engineWork p1 p2).2 := by
  unfold engineWork
  split
  · rename_i y1 y2
    assumption
  · rename_i y3 y4 y5
    apply Keeps.sndMk
    exact setEngine_keeps (hm.of rfl) (by assumption)

theorem forgetKeys_keeps {m} {s0 : State} {p1 p2} {p3 : State} (hm : Sub 16384 m) (k : Keeps m s0 p3) :
    Keeps m s0 (forgetKeys p1 p2 p3) := by
  unfold forgetKeys
  exact setVlt_keeps (hm.of rfl) (by assumption)

theorem coldEngines_keeps {m} {s0 : State} {p1 : State} (hm : Sub 16384 m) (k : Keeps m s0 p1) :
    Keeps m s0 (coldEngines p1) := by
  unfold coldEngines
  exact setVlt_keeps (hm.of rfl) (by assumption)

theorem revertChannel0_keeps {m} {s0 : State} {p1} {p2 : State} (hm : Sub 2 m) (k : Keeps m s0 p2) :
    Keeps m s0 (revertChannel0 p1 p2) := by
  unfold revertChannel0
  extract_lets +onlyGivenNames x1
  clear_value x1
  extract_lets +onlyGivenNames x2
  have h3 : Keeps m s0 x2 := setChan_keeps (hm.of rfl) (by assumption)
  clear_value x2
  apply Keeps.foldl
  · intro a4 a6 h9
    exact producePage_keeps (hm.of rfl) (by assumption)
  · assumption

theorem removeSession_keeps {m} {s0 : State} {p1} {p2 : State} (hm : Sub 2054 m) (k : Keeps m s0 p2) :
    Keeps m s0 (removeSession p1 p2) := by
  unfold removeSession
  split
  · rename_i y1 y2
    assumption
  · rename_i y3 y4 y5
    extract_lets +onlyGivenNames x6
    extract_lets +onlyGivenNames x7
    clear_value x7
    extract_lets +onlyGivenNames x8
    have h9 : Keeps m s0 x8 := by
      unfold x8
      refine Keeps.upd 2052 (hm.of rfl) ?_ ?_ ?_ ?_ ?_ rfl
      · assumption
      · exact Nat.le_refl _
      · exact ⟨id, rfl, rfl, rfl⟩
      · exact ⟨Nat.le_refl _, id, fun h => Nat.le_trans (List.length_filter_le _ _) h, id⟩
      · exact ⟨id⟩
    clear_value x8
    split
    · rename_i y10 y11 y12
      apply Keeps.ite
      · exact revertChannel0_keeps (hm.of rfl) (by assumption)
      · assumption
    · rename_i y13 y14
      assumption

theorem endSession_keeps {m} {s0 : State} {p1 p2} {p3 : State} (hm : Sub 2054 m) (k : Keeps m s0 p3) :
    Keeps m s0 (endSession p1 p2 p3) := by
  unfold endSession
  split
  · rename_i y1 y2
    assumption
  · rename_i y3 y4 y5
    with_reducible apply interrupt_keeps (hm.of rfl)
    with_reducible apply raiseEvent_keeps (hm.of rfl)
    exact removeSession_keeps (hm.of rfl) (by assumption)

theorem endSessions_keeps {m} {s0 : State} {p1 p2} {p3 : State} (hm : Sub 2054 m) (k : Keeps m s0 p3) :
    Keeps m s0 (endSessions p1 p2 p3) := by
  unfold endSessions
  apply Keeps.foldl
  · intro a1 a3 h6
    exact endSession_keeps (hm.of rfl) (by assumption)
  · assumption

theorem storeSlot_keeps {m} {s0 : State} {p1 p2 p3} {p4 : State} (hm : Sub 16384 m) (k : Keeps m s0 p4) :
    Keeps m s0 (storeSlot p1 p2 p3 p4) := by
  unfold storeSlot
  extract_lets +onlyGivenNames x1
  clear_value x1
  extract_lets +onlyGivenNames x2
  clear_value x2
  extract_lets +onlyGivenNames x3
  clear_value x3
  extract_lets +onlyGivenNames x4
  clear_value x4
  exact setVlt_keeps (hm.of rfl) (by assumption)

theorem emptySlot_keeps {m} {s0 : State} {p1} {p2 : State} (hm : Sub 16384 m) (k : Keeps m s0 p2) :
    Keeps m s0 (emptySlot p1 p2) := by
  unfold emptySlot
  extract_lets +onlyGivenNames x1
  clear_value x1
  extract_lets +onlyGivenNames x2
  have h3 : Keeps m s0 x2 := setVlt_keeps (hm.of rfl) (by assumption)
  clear_value x2
  exact forgetKeys_keeps (hm.of rfl) (by assumption)

theorem settleVaultFault_keeps {m} {s0 : State} {p1 : State} (hm : Sub 2052 m) (k : Keeps m s0 p1) :
    Keeps m s0 (settleVaultFault p1) := by
  unfold settleVaultFault
  apply Keeps.ite
  · assumption
  · exact endFault_keeps (hm.of rfl) (by assumption)

theorem applySlotChange_keeps {m} {s0 : State} {p1 p2} {p3 : State} (hm : Sub 18438 m) (k : Keeps m s0 p3) :
    Keeps m s0 (applySlotChange p1 p2 p3) := by
  unfold applySlotChange
  extract_lets +onlyGivenNames x1
  clear_value x1
  extract_lets +onlyGivenNames x2
  clear_value x2
  extract_lets +onlyGivenNames x3
  have h4 : Keeps m s0 x3 := forgetKeys_keeps (hm.of rfl) (by assumption)
  clear_value x3
  extract_lets +onlyGivenNames x5
  have h6 : Keeps m s0 x5 := by
    unfold x5
    apply Keeps.ite
    · exact emptySlot_keeps (hm.of rfl) (by assumption)
    · exact storeSlot_keeps (hm.of rfl) (by assumption)
  clear_value x5
  extract_lets +onlyGivenNames x7
  have h8 : Keeps m s0 x7 := by
    unfold x7
    apply Keeps.ite
    · assumption
    · exact forgetKeys_keeps (hm.of rfl) (by assumption)
  clear_value x7
  extract_lets +onlyGivenNames x9
  have h10 : Keeps m s0 x9 := vaultSlotEvent_keeps (hm.of rfl) (by assumption)
  clear_value x9
  extract_lets +onlyGivenNames x11
  have h12 : Keeps m s0 x11 := by
    unfold x11
    apply Keeps.ite
    · exact endSessions_keeps (hm.of rfl) (by assumption)
    · assumption
  clear_value x11
  exact settleVaultFault_keeps (hm.of rfl) (by assumption)

theorem applyCertChange_keeps {m} {s0 : State} {p1} {p2 : State} (hm : Sub 16388 m) (k : Keeps m s0 p2) :
    Keeps m s0 (applyCertChange p1 p2) := by
  unfold applyCertChange
  split
  · rename_i y1 y2 y3 y4 y5 y6
    extract_lets +onlyGivenNames x7
    clear_value x7
    extract_lets +onlyGivenNames x8
    have h9 : Keeps m s0 x8 := setVlt_keeps (hm.of rfl) (by assumption)
    clear_value x8
    split
    · rename_i y10 y11
      exact complete_keeps (hm.of rfl) (by assumption)
    · rename_i y12
      assumption
  · rename_i y13 y14
    assumption

theorem vaultBoundary_keeps {m} {s0 : State} {p1} {p2 : State} (hm : Sub 18438 m) (k : Keeps m s0 p2) :
    Keeps m s0 (vaultBoundary p1 p2) := by
  unfold vaultBoundary
  extract_lets +onlyGivenNames x1
  clear_value x1
  extract_lets +onlyGivenNames x2
  have h3 : Keeps m s0 x2 := by
    unfold x2
    apply Keeps.foldl
    · intro a4 a6 h9
      exact applySlotChange_keeps (hm.of rfl) (by assumption)
    · assumption
  clear_value x2
  extract_lets +onlyGivenNames x10
  clear_value x10
  apply Keeps.foldl
  · intro a11 a13 h16
    exact applyCertChange_keeps (hm.of rfl) (by assumption)
  · assumption

theorem destroyForTransition_keeps {m} {s0 : State} {p1 p2 p3} {p4 : State} (hm : Sub 18436 m) (k : Keeps m s0 p4) :
    Keeps m s0 (destroyForTransition p1 p2 p3 p4) := by
  unfold destroyForTransition
  extract_lets +onlyGivenNames x1
  clear_value x1
  extract_lets +onlyGivenNames x2
  have h3 : Keeps m s0 x2 := by
    unfold x2
    apply Keeps.foldl
    · intro a4 a5 a6
      extract_lets +onlyGivenNames x7
      clear_value x7
      extract_lets +onlyGivenNames x8
      clear_value x8
      extract_lets +onlyGivenNames x9
      have h10 : Keeps m s0 x9 := emptySlot_keeps (hm.of rfl) (by assumption)
      clear_value x9
      apply Keeps.ite
      · assumption
      · exact vaultSlotEvent_keeps (hm.of rfl) (by assumption)
    · assumption
  clear_value x2
  extract_lets +onlyGivenNames x11
  have h12 : Keeps m s0 x11 := by
    unfold x11
    split
    · rename_i y13 y14
      exact setVlt_keeps (hm.of rfl) (by assumption)
    · rename_i y15 y16
      exact setVlt_keeps (hm.of rfl) (by assumption)
    · rename_i y17 y18 y19 y20
      assumption
  clear_value x11
  exact settleVaultFault_keeps (hm.of rfl) (by assumption)

theorem engineTestEvent_keeps {m} {s0 : State} {p1 p2 p3} {p4 : State} (hm : Sub 4 m) (k : Keeps m s0 p4) :
    Keeps m s0 (engineTestEvent p1 p2 p3 p4) := by
  unfold engineTestEvent
  exact raiseEvent_keeps (hm.of rfl) (by assumption)

theorem startTest_keeps {m} {s0 : State} {p1 p2 p3} {p4 : State} (hm : Sub 16384 m) (k : Keeps m s0 p4) :
    Keeps m s0 (startTest p1 p2 p3 p4) := by
  unfold startTest
  exact setEngine_keeps (hm.of rfl) (by assumption)

theorem endTest_keeps {m} {s0 : State} {p1 p2 p3} {p4 : State} (hm : Sub 24583 m) (k : Keeps m s0 p4) :
    Keeps m s0 (endTest p1 p2 p3 p4) := by
  unfold endTest
  extract_lets +onlyGivenNames x1
  clear_value x1
  extract_lets +onlyGivenNames x2
  have h3 : Keeps m s0 x2 := setEngine_keeps (hm.of rfl) (by assumption)
  clear_value x2
  apply Keeps.foldl
  · intro a4 a6 h9
    exact answerLater_keeps (hm.of rfl) (by assumption)
  · assumption

theorem testDone_keeps {m} {s0 : State} {p1 p2 p3} {p4 : State} (hm : Sub 26631 m) (k : Keeps m s0 p4) :
    Keeps m s0 (testDone p1 p2 p3 p4) := by
  unfold testDone
  extract_lets +onlyGivenNames x1
  clear_value x1
  apply Keeps.ite
  · assumption
  · apply Keeps.ite
    · extract_lets +onlyGivenNames x2
      have h3 : Keeps m s0 x2 := setEngine_keeps (hm.of rfl) (by assumption)
      clear_value x2
      extract_lets +onlyGivenNames x4
      have h5 : Keeps m s0 x4 := endTest_keeps (hm.of rfl) (by assumption)
      clear_value x4
      extract_lets +onlyGivenNames x6
      have h7 : Keeps m s0 x6 := engineTestEvent_keeps (hm.of rfl) (by assumption)
      clear_value x6
      extract_lets +onlyGivenNames x8
      have h9 : Keeps m s0 x8 := by
        unfold x8
        apply Keeps.ite
        · assumption
        · exact endFault_keeps (hm.of rfl) (by assumption)
      clear_value x8
      exact settleVaultFault_keeps (hm.of rfl) (by assumption)
    · extract_lets +onlyGivenNames x10
      have h11 : Keeps m s0 x10 := setEngine_keeps (hm.of rfl) (by assumption)
      clear_value x10
      extract_lets +onlyGivenNames x12
      have h13 : Keeps m s0 x12 := setVlt_keeps (hm.of rfl) (by assumption)
      clear_value x12
      extract_lets +onlyGivenNames x14
      have h15 : Keeps m s0 x14 := by
        unfold x14
        with_reducible apply engineTestEvent_keeps (hm.of rfl)
        exact endTest_keeps (hm.of rfl) (by assumption)
      clear_value x14
      apply Keeps.ite
      · assumption
      · apply Keeps.ite
        · exact engineFault_keeps (hm.of rfl) (by assumption)
        · exact vaultFault_keeps (hm.of rfl) (by assumption)

theorem abortTest_keeps {m} {s0 : State} {p1 p2} {p3 : State} (hm : Sub 26631 m) (k : Keeps m s0 p3) :
    Keeps m s0 (abortTest p1 p2 p3) := by
  unfold abortTest
  extract_lets +onlyGivenNames x1
  have h2 : Keeps m s0 x1 := setEngine_keeps (hm.of rfl) (by assumption)
  clear_value x1
  extract_lets +onlyGivenNames x3
  have h4 : Keeps m s0 x3 := by
    unfold x3
    with_reducible apply engineTestEvent_keeps (hm.of rfl)
    exact endTest_keeps (hm.of rfl) (by assumption)
  clear_value x3
  apply Keeps.ite
  · exact engineFault_keeps (hm.of rfl) (by assumption)
  · assumption

theorem requestEngine_keeps {m} {s0 : State} {p1 p2 p3} {p4 : State} (hm : Sub 26631 m) (k : Keeps m s0 p4) :
    Keeps m s0 (requestEngine p1 p2 p3 p4) := by
  unfold requestEngine
  extract_lets +onlyGivenNames x1
  extract_lets +onlyGivenNames x2
  clear_value x2
  apply Keeps.ite
  · apply Keeps.ite
    · unfold x1
      exact setEngine_keeps (hm.of rfl) (by assumption)
    · split
      · rename_i y3 y4 y5
        unfold x1
        exact setEngine_keeps (hm.of rfl) (by assumption)
      · rename_i y6 y7
        assumption
  · apply Keeps.ite
    · assumption
    · apply Keeps.ite
      · unfold x1
        exact setEngine_keeps (hm.of rfl) (by assumption)
      · apply Keeps.ite
        · unfold x1
          with_reducible apply setEngine_keeps (hm.of rfl)
          exact abortTest_keeps (hm.of rfl) (by assumption)
        · exact setEngine_keeps (hm.of rfl) (by assumption)

theorem execKeyRequest_keeps {m} {s0 : State} {p1 p2 p3} {p4 : State} (hm : Sub 26631 m) (k : Keeps m s0 p4) :
    KeepsR m s0 (execKeyRequest p1 p2 p3 p4) := by
  unfold execKeyRequest
  apply KeepsR.next
  apply Keeps.ite
  · exact requestKey_keeps (hm.of rfl) (by assumption)
  · assumption

theorem execCryptoRequest_keeps {m} {s0 : State} {p1 p2 p3} {p4 : State} (hm : Sub 26631 m) (k : Keeps m s0 p4) :
    KeepsR m s0 (execCryptoRequest p1 p2 p3 p4) := by
  unfold execCryptoRequest
  apply KeepsR.next
  apply Keeps.ite
  · exact requestEngine_keeps (hm.of rfl) (by assumption)
  · assumption

theorem execEngineSelftestStart_keeps {m} {s0 : State} {p1 p2} {p3 : State} (hm : Sub 16384 m) (k : Keeps m s0 p3) :
    KeepsR m s0 (execEngineSelftestStart p1 p2 p3) := by
  unfold execEngineSelftestStart
  extract_lets +onlyGivenNames x1
  clear_value x1
  apply KeepsR.next
  apply Keeps.ite
  · exact startTest_keeps (hm.of rfl) (by assumption)
  · assumption

theorem execEngineSelftestResult_keeps {m} {s0 : State} {p1 p2 p3} {p4 : State} (hm : Sub 26631 m) (k : Keeps m s0 p4) :
    KeepsR m s0 (execEngineSelftestResult p1 p2 p3 p4) := by
  unfold execEngineSelftestResult
  apply KeepsR.next
  exact testDone_keeps (hm.of rfl) (by assumption)

end Sys2Proof.Machine
end

