-- ==== Sys2Proof/Laws/Keeps/Charging.lean ====
section
/-!
SUPPORT. What the operations of Machine/Charging.lean keep.
-/

namespace Sys2Proof.Machine

theorem setChg_keeps {m} {s0 : State} {p1} {p2 : State} (hm : Sub 524288 m) (k : Keeps m s0 p2) :
    Keeps m s0 (setChg p1 p2) := by
  unfold setChg
  exact Keeps.rest 524288 (hm.of rfl) (by assumption) rfl

theorem setPoint_keeps {m} {s0 : State} {p1 p2} {p3 : State} (hm : Sub 524288 m) (k : Keeps m s0 p3) :
    Keeps m s0 (setPoint p1 p2 p3) := by
  unfold setPoint
  exact setChg_keeps (hm.of rfl) (by assumption)

theorem pointStateEvent_keeps {m} {s0 : State} {p1 p2} {p3 : State} (hm : Sub 4 m) (k : Keeps m s0 p3) :
    Keeps m s0 (pointStateEvent p1 p2 p3) := by
  unfold pointStateEvent
  extract_lets +onlyGivenNames x1
  clear_value x1
  exact raiseEvent_keeps (hm.of rfl) (by assumption)

theorem endMatch_keeps {m} {s0 : State} {p1} {p2 : State} (hm : Sub 540672 m) (k : Keeps m s0 p2) :
    Keeps m s0 (endMatch p1 p2) := by
  unfold endMatch
  with_reducible apply setVlt_keeps (hm.of rfl)
  exact setPoint_keeps (hm.of rfl) (by assumption)

theorem goTo_keeps {m} {s0 : State} {p1 p2} {p3 : State} (hm : Sub 540676 m) (k : Keeps m s0 p3) :
    Keeps m s0 (goTo p1 p2 p3) := by
  unfold goTo
  extract_lets +onlyGivenNames x1
  clear_value x1
  extract_lets +onlyGivenNames x2
  clear_value x2
  apply Keeps.ite
  · assumption
  · extract_lets +onlyGivenNames x3
    have h4 : Keeps m s0 x3 := by
      unfold x3
      with_reducible apply pointStateEvent_keeps (hm.of rfl)
      exact setPoint_keeps (hm.of rfl) (by assumption)
    clear_value x3
    apply Keeps.ite
    · exact endMatch_keeps (hm.of rfl) (by assumption)
    · assumption

theorem drivePilot_keeps {m} {s0 : State} {p1 p2} {p3 : State} (hm : Sub 524288 m) (k : Keeps m s0 p3) :
    Keeps m s0 (drivePilot p1 p2 p3) := by
  unfold drivePilot
  exact setPoint_keeps (hm.of rfl) (by assumption)

theorem syncCharge_keeps {m} {s0 : State} {p1 : State} (hm : Sub 2052 m) (k : Keeps m s0 p1) :
    Keeps m s0 (syncCharge p1) := by
  unfold syncCharge
  extract_lets +onlyGivenNames x1
  have h2 : Keeps m s0 x1 := by
    unfold x1
    apply Keeps.ite
    · exact endFault_keeps (hm.of rfl) (by assumption)
    · assumption
  clear_value x1
  apply Keeps.ite
  · exact endFault_keeps (hm.of rfl) (by assumption)
  · assumption

theorem contactorOff_keeps {m} {s0 : State} {p1} {p2 : State} (hm : Sub 786432 m) (k : Keeps m s0 p2) :
    Keeps m s0 (contactorOff p1 p2) := by
  unfold contactorOff
  with_reducible apply removeContactor_keeps (hm.of rfl)
  exact setPoint_keeps (hm.of rfl) (by assumption)

theorem dropGrant_keeps {m} {s0 : State} {p1} {p2 : State} (hm : Sub 524292 m) (k : Keeps m s0 p2) :
    Keeps m s0 (dropGrant p1 p2) := by
  unfold dropGrant
  split
  · rename_i y1 y2
    assumption
  · rename_i y3 y4 y5
    extract_lets +onlyGivenNames x6
    have h7 : Keeps m s0 x6 := setPoint_keeps (hm.of rfl) (by assumption)
    clear_value x6
    split
    · rename_i y8 y9 y10
      exact complete_keeps (hm.of rfl) (by assumption)
    · rename_i y11 y12
      assumption

theorem sessionEndEvent_keeps {m} {s0 : State} {p1 p2 p3 p4} {p5 : State} (hm : Sub 4 m) (k : Keeps m s0 p5) :
    Keeps m s0 (sessionEndEvent p1 p2 p3 p4 p5) := by
  unfold sessionEndEvent
  exact raiseEvent_keeps (hm.of rfl) (by assumption)

theorem closeRegister_keeps {m} {s0 : State} {p1} {p2 : State} (hm : Sub 32 m) (k : Keeps m s0 p2) :
    Keeps m s0 (closeRegister p1 p2) := by
  unfold closeRegister
  exact Keeps.upd 32 (hm.of rfl) (by assumption) (Nat.le_refl _) ⟨id, rfl, rfl, rfl⟩ ⟨Nat.le_refl _, id, id, id⟩ ⟨id⟩ rfl

theorem closeSession_keeps {m} {s0 : State} {p1 p2 p3} {p4 : State} (hm : Sub 786468 m) (k : Keeps m s0 p4) :
    Keeps m s0 (closeSession p1 p2 p3 p4) := by
  unfold closeSession
  extract_lets +onlyGivenNames x1
  clear_value x1
  extract_lets +onlyGivenNames x2
  clear_value x2
  extract_lets +onlyGivenNames x3
  have h4 : Keeps m s0 x3 := by
    unfold x3
    apply Keeps.ite
    · exact contactorOff_keeps (hm.of rfl) (by assumption)
    · assumption
  clear_value x3
  extract_lets +onlyGivenNames x5
  have h6 : Keeps m s0 x5 := setPoint_keeps (hm.of rfl) (by assumption)
  clear_value x5
  apply Keeps.ite
  · assumption
  · extract_lets +onlyGivenNames x7
    have h8 : Keeps m s0 x7 := by
      unfold x7
      with_reducible apply sessionEndEvent_keeps (hm.of rfl)
      exact closeRegister_keeps (hm.of rfl) (by assumption)
    clear_value x7
    apply Keeps.foldl
    · intro a9 a11 h14
      exact complete_keeps (hm.of rfl) (by assumption)
    · assumption

theorem endPoint_keeps {m} {s0 : State} {p1 p2} {p3 : State} (hm : Sub 802852 m) (k : Keeps m s0 p3) :
    Keeps m s0 (endPoint p1 p2 p3) := by
  unfold endPoint
  with_reducible apply drivePilot_keeps (hm.of rfl)
  with_reducible apply goTo_keeps (hm.of rfl)
  with_reducible apply dropGrant_keeps (hm.of rfl)
  exact closeSession_keeps (hm.of rfl) (by assumption)

theorem reviewPoint_keeps {m} {s0 : State} {p1} {p2 : State} (hm : Sub 802852 m) (k : Keeps m s0 p2) :
    Keeps m s0 (reviewPoint p1 p2) := by
  unfold reviewPoint
  extract_lets +onlyGivenNames x1
  clear_value x1
  extract_lets +onlyGivenNames x2
  clear_value x2
  extract_lets +onlyGivenNames x3
  have h4 : Keeps m s0 x3 := by
    unfold x3
    apply Keeps.ite
    · exact closeSession_keeps (hm.of rfl) (by assumption)
    · exact contactorOff_keeps (hm.of rfl) (by assumption)
  clear_value x3
  extract_lets +onlyGivenNames x5
  have h6 : Keeps m s0 x5 := by
    unfold x5
    apply Keeps.ite
    · with_reducible apply goTo_keeps (hm.of rfl)
      with_reducible apply dropGrant_keeps (hm.of rfl)
      exact setPoint_keeps (hm.of rfl) (by assumption)
    · apply Keeps.ite
      · with_reducible apply drivePilot_keeps (hm.of rfl)
        exact goTo_keeps (hm.of rfl) (by assumption)
      · assumption
  clear_value x5
  apply Keeps.ite
  · extract_lets +onlyGivenNames x7
    clear_value x7
    exact drivePilot_keeps (hm.of rfl) (by assumption)
  · assumption

theorem reviewPoints_keeps {m} {s0 : State} {p1 : State} (hm : Sub 802852 m) (k : Keeps m s0 p1) :
    Keeps m s0 (reviewPoints p1) := by
  unfold reviewPoints
  apply Keeps.foldl
  · intro a1 a3 h6
    exact reviewPoint_keeps (hm.of rfl) (by assumption)
  · assumption

theorem trip_keeps {m} {s0 : State} {p1 p2 p3} {p4 : State} (hm : Sub 813095 m) (k : Keeps m s0 p4) :
    Keeps m s0 (trip p1 p2 p3 p4) := by
  unfold trip
  extract_lets +onlyGivenNames x1
  clear_value x1
  extract_lets +onlyGivenNames x2
  clear_value x2
  extract_lets +onlyGivenNames x3
  clear_value x3
  extract_lets +onlyGivenNames x4
  clear_value x4
  extract_lets +onlyGivenNames x5
  have h6 : Keeps m s0 x5 := setChg_keeps (hm.of rfl) (by assumption)
  clear_value x5
  extract_lets +onlyGivenNames x7
  have h8 : Keeps m s0 x7 := setPoint_keeps (hm.of rfl) (by assumption)
  clear_value x7
  extract_lets +onlyGivenNames x9
  have h10 : Keeps m s0 x9 := raiseEvent_keeps (hm.of rfl) (by assumption)
  clear_value x9
  extract_lets +onlyGivenNames x11
  have h12 : Keeps m s0 x11 := by
    unfold x11
    with_reducible apply syncCharge_keeps (hm.of rfl)
    apply Keeps.ite
    · exact raiseFault_keeps (hm.of rfl) (by assumption)
    · exact raiseFault_keeps (hm.of rfl) (by assumption)
  clear_value x11
  extract_lets +onlyGivenNames x13
  have h14 : Keeps m s0 x13 := closeSession_keeps (hm.of rfl) (by assumption)
  clear_value x13
  extract_lets +onlyGivenNames x15
  have h16 : Keeps m s0 x15 := by
    unfold x15
    apply Keeps.ite
    · exact setPoint_keeps (hm.of rfl) (by assumption)
    · assumption
  clear_value x15
  extract_lets +onlyGivenNames x17
  have h18 : Keeps m s0 x17 := by
    unfold x17
    with_reducible apply setPoint_keeps (hm.of rfl)
    with_reducible apply goTo_keeps (hm.of rfl)
    exact dropGrant_keeps (hm.of rfl) (by assumption)
  clear_value x17
  extract_lets +onlyGivenNames x19
  have h20 : Keeps m s0 x19 := by
    unfold x19
    apply Keeps.ite
    · exact drivePilot_keeps (hm.of rfl) (by assumption)
    · apply Keeps.ite
      · exact contactorOff_keeps (hm.of rfl) (by assumption)
      · assumption
  clear_value x19
  exact reviewPoint_keeps (hm.of rfl) (by assumption)

theorem driveLimit_keeps {m} {s0 : State} {p1} {p2 : State} (hm : Sub 524288 m) (k : Keeps m s0 p2) :
    Keeps m s0 (driveLimit p1 p2) := by
  unfold driveLimit
  extract_lets +onlyGivenNames x1
  clear_value x1
  apply Keeps.ite
  · apply Keeps.ite
    · exact drivePilot_keeps (hm.of rfl) (by assumption)
    · split
      · rename_i y2 y3 y4
        exact drivePilot_keeps (hm.of rfl) (by assumption)
      · rename_i y5 y6
        exact drivePilot_keeps (hm.of rfl) (by assumption)
  · assumption

theorem pausePoint_keeps {m} {s0 : State} {p1} {p2 : State} (hm : Sub 540676 m) (k : Keeps m s0 p2) :
    Keeps m s0 (pausePoint p1 p2) := by
  unfold pausePoint
  extract_lets +onlyGivenNames x1
  have h2 : Keeps m s0 x1 := by
    unfold x1
    with_reducible apply goTo_keeps (hm.of rfl)
    exact setPoint_keeps (hm.of rfl) (by assumption)
  clear_value x1
  apply Keeps.ite
  · exact drivePilot_keeps (hm.of rfl) (by assumption)
  · assumption

theorem startSelfTest_keeps {m} {s0 : State} {p1} {p2 : State} (hm : Sub 524288 m) (k : Keeps m s0 p2) :
    Keeps m s0 (startSelfTest p1 p2) := by
  unfold startSelfTest
  exact setPoint_keeps (hm.of rfl) (by assumption)

theorem contactorOn_keeps {m} {s0 : State} {p1} {p2 : State} (hm : Sub 524288 m) (k : Keeps m s0 p2) :
    Keeps m s0 (contactorOn p1 p2) := by
  unfold contactorOn
  exact setPoint_keeps (hm.of rfl) (by assumption)

theorem recloseContactor_keeps {m} {s0 : State} {p1} {p2 : State} (hm : Sub 524288 m) (k : Keeps m s0 p2) :
    Keeps m s0 (recloseContactor p1 p2) := by
  unfold recloseContactor
  extract_lets +onlyGivenNames x1
  clear_value x1
  apply Keeps.ite
  · exact startSelfTest_keeps (hm.of rfl) (by assumption)
  · assumption

theorem limitChanged_keeps {m} {s0 : State} {p1 p2} {p3 : State} (hm : Sub 540676 m) (k : Keeps m s0 p3) :
    Keeps m s0 (limitChanged p1 p2 p3) := by
  unfold limitChanged
  extract_lets +onlyGivenNames x1
  clear_value x1
  extract_lets +onlyGivenNames x2
  clear_value x2
  extract_lets +onlyGivenNames x3
  have h4 : Keeps m s0 x3 := by
    unfold x3
    apply Keeps.ite
    · exact pausePoint_keeps (hm.of rfl) (by assumption)
    · apply Keeps.ite
      · with_reducible apply recloseContactor_keeps (hm.of rfl)
        exact goTo_keeps (hm.of rfl) (by assumption)
      · assumption
  clear_value x3
  exact driveLimit_keeps (hm.of rfl) (by assumption)

theorem stopPoint_keeps {m} {s0 : State} {p1 p2} {p3 : State} (hm : Sub 802852 m) (k : Keeps m s0 p3) :
    Keeps m s0 (stopPoint p1 p2 p3) := by
  unfold stopPoint
  split
  · rename_i y1 y2
    exact dropGrant_keeps (hm.of rfl) (by assumption)
  · rename_i y3 y4
    exact endPoint_keeps (hm.of rfl) (by assumption)
  · rename_i y5 y6
    exact endPoint_keeps (hm.of rfl) (by assumption)
  · rename_i y7 y8
    with_reducible apply goTo_keeps (hm.of rfl)
    exact setPoint_keeps (hm.of rfl) (by assumption)
  · rename_i y9 y10
    with_reducible apply goTo_keeps (hm.of rfl)
    exact setPoint_keeps (hm.of rfl) (by assumption)
  · rename_i y11 y12
    with_reducible apply goTo_keeps (hm.of rfl)
    exact setPoint_keeps (hm.of rfl) (by assumption)
  · rename_i y13 y14 y15 y16 y17 y18 y19
    assumption

theorem idSeenEvent_keeps {m} {s0 : State} {p1 p2 p3 p4 p5 p6} {p7 : State} (hm : Sub 4 m) (k : Keeps m s0 p7) :
    Keeps m s0 (idSeenEvent p1 p2 p3 p4 p5 p6 p7) := by
  unfold idSeenEvent
  exact raiseEvent_keeps (hm.of rfl) (by assumption)

theorem applyGrant_keeps {m} {s0 : State} {p1 p2} {p3 : State} (hm : Sub 802852 m) (k : Keeps m s0 p3) :
    Keeps m s0 (applyGrant p1 p2 p3) := by
  unfold applyGrant
  extract_lets +onlyGivenNames x1
  clear_value x1
  apply Keeps.ite
  · extract_lets +onlyGivenNames x2
    have h3 : Keeps m s0 x2 := by
      unfold x2
      split
      · rename_i y4 y5 y6
        exact complete_keeps (hm.of rfl) (by assumption)
      · rename_i y7 y8
        exact idSeenEvent_keeps (hm.of rfl) (by assumption)
    clear_value x2
    exact endPoint_keeps (hm.of rfl) (by assumption)
  · extract_lets +onlyGivenNames x9
    clear_value x9
    extract_lets +onlyGivenNames x10
    clear_value x10
    extract_lets +onlyGivenNames x11
    have h12 : Keeps m s0 x11 := setChg_keeps (hm.of rfl) (by assumption)
    clear_value x11
    extract_lets +onlyGivenNames x13
    have h14 : Keeps m s0 x13 := setPoint_keeps (hm.of rfl) (by assumption)
    clear_value x13
    extract_lets +onlyGivenNames x15
    extract_lets +onlyGivenNames x16
    have h17 : Keeps m s0 x16 := by
      unfold x16
      exact Keeps.upd 32 (hm.of rfl) (by assumption) (Nat.le_refl _) ⟨id, rfl, rfl, rfl⟩ ⟨Nat.le_refl _, id, id, id⟩ ⟨id⟩ rfl
    clear_value x16
    extract_lets +onlyGivenNames x18
    have h19 : Keeps m s0 x18 := raiseEvent_keeps (hm.of rfl) (by assumption)
    clear_value x18
    extract_lets +onlyGivenNames x20
    have h21 : Keeps m s0 x20 := by
      unfold x20
      split
      · rename_i y22 y23 y24
        exact complete_keeps (hm.of rfl) (by assumption)
      · rename_i y25 y26
        assumption
    clear_value x20
    with_reducible apply driveLimit_keeps (hm.of rfl)
    with_reducible apply startSelfTest_keeps (hm.of rfl)
    exact goTo_keeps (hm.of rfl) (by assumption)

theorem takeGrant_keeps {m} {s0 : State} {p1 p2} {p3 : State} (hm : Sub 802852 m) (k : Keeps m s0 p3) :
    Keeps m s0 (takeGrant p1 p2 p3) := by
  unfold takeGrant
  split
  · rename_i y1 y2
    with_reducible apply setPoint_keeps (hm.of rfl)
    exact dropGrant_keeps (hm.of rfl) (by assumption)
  · rename_i y3 y4
    with_reducible apply setPoint_keeps (hm.of rfl)
    exact dropGrant_keeps (hm.of rfl) (by assumption)
  · rename_i y5 y6
    exact applyGrant_keeps (hm.of rfl) (by assumption)
  · rename_i y7 y8 y9 y10
    split
    · rename_i y11 y12 y13
      exact complete_keeps (hm.of rfl) (by assumption)
    · rename_i y14 y15
      assumption

theorem enterAuth_keeps {m} {s0 : State} {p1} {p2 : State} (hm : Sub 802852 m) (k : Keeps m s0 p2) :
    Keeps m s0 (enterAuth p1 p2) := by
  unfold enterAuth
  extract_lets +onlyGivenNames x1
  have h2 : Keeps m s0 x1 := goTo_keeps (hm.of rfl) (by assumption)
  clear_value x1
  split
  · rename_i y3 y4 y5
    with_reducible apply applyGrant_keeps (hm.of rfl)
    exact setPoint_keeps (hm.of rfl) (by assumption)
  · rename_i y6 y7
    assumption

theorem refusePoint_keeps {m} {s0 : State} {p1} {p2 : State} (hm : Sub 802852 m) (k : Keeps m s0 p2) :
    Keeps m s0 (refusePoint p1 p2) := by
  unfold refusePoint
  split
  · rename_i y1 y2
    exact dropGrant_keeps (hm.of rfl) (by assumption)
  · rename_i y3 y4
    exact dropGrant_keeps (hm.of rfl) (by assumption)
  · rename_i y5 y6
    exact endPoint_keeps (hm.of rfl) (by assumption)
  · rename_i y7 y8 y9 y10
    assumption

theorem startLink_keeps {m} {s0 : State} {p1} {p2 : State} (hm : Sub 540673 m) (k : Keeps m s0 p2) :
    Keeps m s0 (startLink p1 p2) := by
  unfold startLink
  extract_lets +onlyGivenNames x1
  have h2 : Keeps m s0 x1 := by
    unfold x1
    with_reducible apply drivePilot_keeps (hm.of rfl)
    with_reducible apply setPoint_keeps (hm.of rfl)
    exact endMatch_keeps (hm.of rfl) (by assumption)
  clear_value x1
  split
  · rename_i y3 y4
    assumption
  · rename_i y5 y6 y7
    extract_lets +onlyGivenNames x8
    have h9 : Keeps m s0 x8.2 := by
      unfold x8
      with_reducible apply drawBytes_keeps (hm.of rfl)
      exact engineWork_keeps (hm.of rfl) (by assumption)
    clear_value x8
    extract_lets +onlyGivenNames x10
    clear_value x10
    with_reducible apply setVlt_keeps (hm.of rfl)
    assumption

theorem linkFallback_keeps {m} {s0 : State} {p1} {p2 : State} (hm : Sub 802852 m) (k : Keeps m s0 p2) :
    Keeps m s0 (linkFallback p1 p2) := by
  unfold linkFallback
  extract_lets +onlyGivenNames x1
  have h2 : Keeps m s0 x1 := endMatch_keeps (hm.of rfl) (by assumption)
  clear_value x1
  extract_lets +onlyGivenNames x3
  clear_value x3
  apply Keeps.ite
  · with_reducible apply enterAuth_keeps (hm.of rfl)
    with_reducible apply drivePilot_keeps (hm.of rfl)
    exact setPoint_keeps (hm.of rfl) (by assumption)
  · with_reducible apply endPoint_keeps (hm.of rfl)
    exact setPoint_keeps (hm.of rfl) (by assumption)

theorem pilotGone_keeps {m} {s0 : State} {p1} {p2 : State} (hm : Sub 802852 m) (k : Keeps m s0 p2) :
    Keeps m s0 (pilotGone p1 p2) := by
  unfold pilotGone
  extract_lets +onlyGivenNames x1
  clear_value x1
  split
  · rename_i y2 y3
    assumption
  · rename_i y4 y5
    assumption
  · rename_i y6 y7
    apply Keeps.ite
    · assumption
    · with_reducible apply drivePilot_keeps (hm.of rfl)
      exact goTo_keeps (hm.of rfl) (by assumption)
  · rename_i y8 y9 y10 y11
    extract_lets +onlyGivenNames x12
    have h13 : Keeps m s0 x12 := by
      unfold x12
      apply Keeps.ite
      · exact closeSession_keeps (hm.of rfl) (by assumption)
      · assumption
    clear_value x12
    with_reducible apply drivePilot_keeps (hm.of rfl)
    with_reducible apply goTo_keeps (hm.of rfl)
    exact setPoint_keeps (hm.of rfl) (by assumption)

theorem pilotConnected_keeps {m} {s0 : State} {p1 p2} {p3 : State} (hm : Sub 802853 m) (k : Keeps m s0 p3) :
    Keeps m s0 (pilotConnected p1 p2 p3) := by
  unfold pilotConnected
  extract_lets +onlyGivenNames x1
  clear_value x1
  extract_lets +onlyGivenNames x2
  clear_value x2
  split
  · rename_i y3 y4
    apply Keeps.ite
    · exact startSelfTest_keeps (hm.of rfl) (by assumption)
    · assumption
  · rename_i y5 y6
    apply Keeps.ite
    · assumption
    · apply Keeps.ite
      · with_reducible apply startLink_keeps (hm.of rfl)
        with_reducible apply goTo_keeps (hm.of rfl)
        exact setPoint_keeps (hm.of rfl) (by assumption)
      · with_reducible apply enterAuth_keeps (hm.of rfl)
        with_reducible apply drivePilot_keeps (hm.of rfl)
        exact setPoint_keeps (hm.of rfl) (by assumption)
  · rename_i y7 y8
    apply Keeps.ite
    · exact contactorOn_keeps (hm.of rfl) (by assumption)
    · assumption
  · rename_i y9 y10
    apply Keeps.ite
    · apply Keeps.ite
      · with_reducible apply pausePoint_keeps (hm.of rfl)
        exact contactorOff_keeps (hm.of rfl) (by assumption)
      · exact stopPoint_keeps (hm.of rfl) (by assumption)
    · exact recloseContactor_keeps (hm.of rfl) (by assumption)
  · rename_i y11 y12
    apply Keeps.ite
    · assumption
    · apply Keeps.ite
      · exact contactorOff_keeps (hm.of rfl) (by assumption)
      · apply Keeps.ite
        · with_reducible apply driveLimit_keeps (hm.of rfl)
          with_reducible apply recloseContactor_keeps (hm.of rfl)
          exact goTo_keeps (hm.of rfl) (by assumption)
        · assumption
  · rename_i y13 y14 y15 y16 y17 y18
    assumption

theorem pilotChange_keeps {m} {s0 : State} {p1 p2} {p3 : State} (hm : Sub 813095 m) (k : Keeps m s0 p3) :
    Keeps m s0 (pilotChange p1 p2 p3) := by
  unfold pilotChange
  extract_lets +onlyGivenNames x1
  clear_value x1
  extract_lets +onlyGivenNames x2
  have h3 : Keeps m s0 x2 := setPoint_keeps (hm.of rfl) (by assumption)
  clear_value x2
  apply Keeps.ite
  · assumption
  · split
    · rename_i y4
      exact pilotGone_keeps (hm.of rfl) (by assumption)
    · rename_i y5
      exact pilotConnected_keeps (hm.of rfl) (by assumption)
    · rename_i y6
      exact pilotConnected_keeps (hm.of rfl) (by assumption)
    · rename_i y7
      assumption
    · rename_i y8 y9 y10 y11 y12
      exact trip_keeps (hm.of rfl) (by assumption)

theorem setTls_keeps {m} {s0 : State} {p1 p2} {p3 : State} (hm : Sub 16384 m) (k : Keeps m s0 p3) :
    Keeps m s0 (setTls p1 p2 p3) := by
  unfold setTls
  exact setVlt_keeps (hm.of rfl) (by assumption)

theorem startTls_keeps {m} {s0 : State} {p1 p2} {p3 : State} (hm : Sub 16385 m) (k : Keeps m s0 p3) :
    Keeps m s0 (startTls p1 p2 p3) := by
  unfold startTls
  extract_lets +onlyGivenNames x1
  have h2 : Keeps m s0 x1.2 := by
    unfold x1
    with_reducible apply drawBytes_keeps (hm.of rfl)
    with_reducible apply engineWork_keeps (hm.of rfl)
    exact engineWork_keeps (hm.of rfl) (by assumption)
  clear_value x1
  extract_lets +onlyGivenNames x3
  clear_value x3
  extract_lets +onlyGivenNames x4
  clear_value x4
  with_reducible apply setTls_keeps (hm.of rfl)
  assumption

theorem linkUp_keeps {m} {s0 : State} {p1 p2 p3} {p4 : State} (hm : Sub 802853 m) (k : Keeps m s0 p4) :
    Keeps m s0 (linkUp p1 p2 p3 p4) := by
  unfold linkUp
  extract_lets +onlyGivenNames x1
  clear_value x1
  apply Keeps.ite
  · split
    · rename_i y2 y3 y4
      extract_lets +onlyGivenNames x5
      have h6 : Keeps m s0 x5 := by
        unfold x5
        apply Keeps.ite
        · exact startTls_keeps (hm.of rfl) (by assumption)
        · assumption
      clear_value x5
      with_reducible apply enterAuth_keeps (hm.of rfl)
      exact setPoint_keeps (hm.of rfl) (by assumption)
    · rename_i y7 y8
      exact linkFallback_keeps (hm.of rfl) (by assumption)
  · assumption

theorem linkDown_keeps {m} {s0 : State} {p1} {p2 : State} (hm : Sub 802852 m) (k : Keeps m s0 p2) :
    Keeps m s0 (linkDown p1 p2) := by
  unfold linkDown
  extract_lets +onlyGivenNames x1
  have h2 : Keeps m s0 x1 := endMatch_keeps (hm.of rfl) (by assumption)
  clear_value x1
  extract_lets +onlyGivenNames x3
  clear_value x3
  split
  · rename_i y4 y5
    apply Keeps.ite
    · assumption
    · apply Keeps.ite
      · with_reducible apply drivePilot_keeps (hm.of rfl)
        exact setPoint_keeps (hm.of rfl) (by assumption)
      · exact linkFallback_keeps (hm.of rfl) (by assumption)
  · rename_i y6 y7
    apply Keeps.ite
    · exact endPoint_keeps (hm.of rfl) (by assumption)
    · assumption
  · rename_i y8 y9
    exact stopPoint_keeps (hm.of rfl) (by assumption)
  · rename_i y10 y11
    exact stopPoint_keeps (hm.of rfl) (by assumption)
  · rename_i y12 y13
    exact stopPoint_keeps (hm.of rfl) (by assumption)
  · rename_i y14 y15 y16 y17 y18 y19
    assumption

theorem selfTestDone_keeps {m} {s0 : State} {p1 p2} {p3 : State} (hm : Sub 813095 m) (k : Keeps m s0 p3) :
    Keeps m s0 (selfTestDone p1 p2 p3) := by
  unfold selfTestDone
  extract_lets +onlyGivenNames x1
  clear_value x1
  apply Keeps.ite
  · assumption
  · extract_lets +onlyGivenNames x2
    have h3 : Keeps m s0 x2 := setPoint_keeps (hm.of rfl) (by assumption)
    clear_value x2
    apply Keeps.ite
    · with_reducible apply reviewPoint_keeps (hm.of rfl)
      exact raiseFault_keeps (hm.of rfl) (by assumption)
    · extract_lets +onlyGivenNames x4
      have h5 : Keeps m s0 x4 := syncCharge_keeps (hm.of rfl) (by assumption)
      clear_value x4
      extract_lets +onlyGivenNames x6
      have h7 : Keeps m s0 x6 := by
        unfold x6
        split
        · rename_i y8 y9
          apply Keeps.ite
          · exact setPoint_keeps (hm.of rfl) (by assumption)
          · apply Keeps.ite
            · exact contactorOn_keeps (hm.of rfl) (by assumption)
            · exact setPoint_keeps (hm.of rfl) (by assumption)
        · rename_i y10 y11
          apply Keeps.ite
          · exact contactorOn_keeps (hm.of rfl) (by assumption)
          · assumption
        · rename_i y12 y13 y14
          assumption
      clear_value x6
      exact reviewPoint_keeps (hm.of rfl) (by assumption)

theorem insulationValue_keeps {m} {s0 : State} {p1 p2} {p3 : State} (hm : Sub 813095 m) (k : Keeps m s0 p3) :
    Keeps m s0 (insulationValue p1 p2 p3) := by
  unfold insulationValue
  extract_lets +onlyGivenNames x1
  clear_value x1
  extract_lets +onlyGivenNames x2
  have h3 : Keeps m s0 x2 := setPoint_keeps (hm.of rfl) (by assumption)
  clear_value x2
  extract_lets +onlyGivenNames x4
  clear_value x4
  apply Keeps.ite
  · assumption
  · apply Keeps.ite
    · exact trip_keeps (hm.of rfl) (by assumption)
    · apply Keeps.ite
      · exact setPoint_keeps (hm.of rfl) (by assumption)
      · assumption

theorem prechargeReached_keeps {m} {s0 : State} {p1 p2 p3} {p4 : State} (hm : Sub 524288 m) (k : Keeps m s0 p4) :
    Keeps m s0 (prechargeReached p1 p2 p3 p4) := by
  unfold prechargeReached
  extract_lets +onlyGivenNames x1
  clear_value x1
  extract_lets +onlyGivenNames x2
  clear_value x2
  extract_lets +onlyGivenNames x3
  have h4 : Keeps m s0 x3 := setPoint_keeps (hm.of rfl) (by assumption)
  clear_value x3
  apply Keeps.ite
  · exact contactorOn_keeps (hm.of rfl) (by assumption)
  · assumption

theorem preparationDone_keeps {m} {s0 : State} {p1} {p2 : State} (hm : Sub 540676 m) (k : Keeps m s0 p2) :
    Keeps m s0 (preparationDone p1 p2) := by
  unfold preparationDone
  extract_lets +onlyGivenNames x1
  clear_value x1
  apply Keeps.ite
  · extract_lets +onlyGivenNames x2
    have h3 : Keeps m s0 x2 := setPoint_keeps (hm.of rfl) (by assumption)
    clear_value x2
    apply Keeps.ite
    · with_reducible apply driveLimit_keeps (hm.of rfl)
      exact goTo_keeps (hm.of rfl) (by assumption)
    · exact pausePoint_keeps (hm.of rfl) (by assumption)
  · assumption

theorem stoppingDone_keeps {m} {s0 : State} {p1} {p2 : State} (hm : Sub 802852 m) (k : Keeps m s0 p2) :
    Keeps m s0 (stoppingDone p1 p2) := by
  unfold stoppingDone
  extract_lets +onlyGivenNames x1
  clear_value x1
  apply Keeps.ite
  · exact endPoint_keeps (hm.of rfl) (by assumption)
  · assumption

theorem creditTick_keeps {m} {s0 : State} {p1} {p2 : State} (hm : Sub 802852 m) (k : Keeps m s0 p2) :
    Keeps m s0 (creditTick p1 p2) := by
  unfold creditTick
  extract_lets +onlyGivenNames x1
  clear_value x1
  apply Keeps.ite
  · assumption
  · extract_lets +onlyGivenNames x2
    clear_value x2
    extract_lets +onlyGivenNames x3
    clear_value x3
    extract_lets +onlyGivenNames x4
    clear_value x4
    extract_lets +onlyGivenNames x5
    clear_value x5
    extract_lets +onlyGivenNames x6
    have h7 : Keeps m s0 x6 := setPoint_keeps (hm.of rfl) (by assumption)
    clear_value x6
    extract_lets +onlyGivenNames x8
    clear_value x8
    split
    · rename_i y9
      assumption
    · rename_i y10 y11
      apply Keeps.ite
      · extract_lets +onlyGivenNames x12
        have h13 : Keeps m s0 x12 := setPoint_keeps (hm.of rfl) (by assumption)
        clear_value x12
        apply Keeps.ite
        · exact stopPoint_keeps (hm.of rfl) (by assumption)
        · apply Keeps.ite
          · exact stopPoint_keeps (hm.of rfl) (by assumption)
          · apply Keeps.ite
            · exact stopPoint_keeps (hm.of rfl) (by assumption)
            · assumption
      · assumption

theorem meteringTick_keeps {m} {s0 : State} {p1} {p2 : State} (hm : Sub 524288 m) (k : Keeps m s0 p2) :
    Keeps m s0 (meteringTick p1 p2) := by
  unfold meteringTick
  extract_lets +onlyGivenNames x1
  clear_value x1
  apply Keeps.ite
  · exact setPoint_keeps (hm.of rfl) (by assumption)
  · exact setPoint_keeps (hm.of rfl) (by assumption)

theorem stoppingTick_keeps {m} {s0 : State} {p1} {p2 : State} (hm : Sub 786432 m) (k : Keeps m s0 p2) :
    Keeps m s0 (stoppingTick p1 p2) := by
  unfold stoppingTick
  extract_lets +onlyGivenNames x1
  clear_value x1
  apply Keeps.ite
  · assumption
  · extract_lets +onlyGivenNames x2
    clear_value x2
    extract_lets +onlyGivenNames x3
    clear_value x3
    extract_lets +onlyGivenNames x4
    have h5 : Keeps m s0 x4 := setPoint_keeps (hm.of rfl) (by assumption)
    clear_value x4
    apply Keeps.ite
    · exact contactorOff_keeps (hm.of rfl) (by assumption)
    · assumption

theorem offTick_keeps {m} {s0 : State} {p1} {p2 : State} (hm : Sub 786432 m) (k : Keeps m s0 p2) :
    Keeps m s0 (offTick p1 p2) := by
  unfold offTick
  split
  · rename_i y1 y2 y3
    apply Keeps.ite
    · exact contactorOff_keeps (hm.of rfl) (by assumption)
    · assumption
  · rename_i y4 y5
    assumption

theorem chargeTick_keeps {m} {s0 : State} {p1} {p2 : State} (hm : Sub 804900 m) (k : Keeps m s0 p2) :
    Keeps m s0 (chargeTick p1 p2) := by
  unfold chargeTick
  extract_lets +onlyGivenNames x1
  have h2 : Keeps m s0 x1 := by
    unfold x1
    apply Keeps.foldl
    · intro a3 a4 a5
      extract_lets +onlyGivenNames x6
      have h7 : Keeps m s0 x6 := reviewPoint_keeps (hm.of rfl) (by assumption)
      clear_value x6
      extract_lets +onlyGivenNames x8
      have h9 : Keeps m s0 x8 := by
        unfold x8
        with_reducible apply meteringTick_keeps (hm.of rfl)
        apply Keeps.ite
        · exact creditTick_keeps (hm.of rfl) (by assumption)
        · assumption
      clear_value x8
      with_reducible apply offTick_keeps (hm.of rfl)
      exact stoppingTick_keeps (hm.of rfl) (by assumption)
    · assumption
  clear_value x1
  exact syncCharge_keeps (hm.of rfl) (by assumption)

theorem takeoverPoints_keeps {m} {s0 : State} {p1 : State} (hm : Sub 802853 m) (k : Keeps m s0 p1) :
    Keeps m s0 (takeoverPoints p1) := by
  unfold takeoverPoints
  apply Keeps.foldl
  · intro a1 a3 h6
    extract_lets +onlyGivenNames x7
    have h8 : Keeps m s0 x7 := by
      unfold x7
      split
      · rename_i y9 y10 y11
        apply Keeps.ite
        · with_reducible apply sessionEndEvent_keeps (hm.of rfl)
          with_reducible apply closeRegister_keeps (hm.of rfl)
          exact setPoint_keeps (hm.of rfl) (by assumption)
        · assumption
      · rename_i y12 y13
        assumption
    clear_value x7
    extract_lets +onlyGivenNames x14
    have h15 : Keeps m s0 x14 := reviewPoint_keeps (hm.of rfl) (by assumption)
    clear_value x14
    extract_lets +onlyGivenNames x16
    clear_value x16
    apply Keeps.ite
    · extract_lets +onlyGivenNames x17
      have h18 : Keeps m s0 x17 := by
        unfold x17
        with_reducible apply drivePilot_keeps (hm.of rfl)
        exact goTo_keeps (hm.of rfl) (by assumption)
      clear_value x17
      apply Keeps.ite
      · exact pilotConnected_keeps (hm.of rfl) (by assumption)
      · assumption
    · assumption
  · assumption

end Sys2Proof.Machine
end

