-- ==== Sys2Proof/Laws/Keeps/VehicleLink.lean ====
section
/-!
SUPPORT. What the operations of Machine/VehicleLink.lean keep.
-/

namespace Sys2Proof.Machine

theorem setLine_keeps {m} {s0 : State} {p1 p2} {p3 : State} (hm : Sub 524288 m) (k : Keeps m s0 p3) :
    Keeps m s0 (setLine p1 p2 p3) := by
  unfold setLine
  exact setPoint_keeps (hm.of rfl) (by assumption)

theorem frontEndTick_keeps {m} {s0 : State} {p1} {p2 : State} (hm : Sub 524288 m) (k : Keeps m s0 p2) :
    Keeps m s0 (frontEndTick p1 p2) := by
  unfold frontEndTick
  apply Keeps.foldl
  · intro a1 a2 a3
    extract_lets +onlyGivenNames x4
    clear_value x4
    exact setLine_keeps (hm.of rfl) (by assumption)
  · assumption

theorem sayVehicle_keeps {m} {s0 : State} {p1 p2} {p3 : State} (hm : Sub 524288 m) (k : Keeps m s0 p3) :
    Keeps m s0 (sayVehicle p1 p2 p3) := by
  unfold sayVehicle
  extract_lets +onlyGivenNames x1
  clear_value x1
  with_reducible apply setChg_keeps (hm.of rfl)
  exact setLine_keeps (hm.of rfl) (by assumption)

theorem withLink_keeps {m} {s0 : State} {p1 p2} {p3 : State} (hm : Sub 16384 m) (k : Keeps m s0 p3) (h1 : ∀ v1 v2, Keeps m s0 v2 → Keeps m s0 (p2 v1 v2)) :
    Keeps m s0 (withLink p1 p2 p3) := by
  unfold withLink
  split
  · rename_i y1 y2
    assumption
  · rename_i y3 y4 y5
    extract_lets +onlyGivenNames x6
    have h7 : Keeps m s0 x6.2 := engineWork_keeps (hm.of rfl) (by assumption)
    clear_value x6
    apply Keeps.ite
    · with_reducible apply h1
      assumption
    · assumption

theorem runGphyModem_keeps {m} {s0 : State} {p1} {p2 : State} (hm : Sub 540672 m) (k : Keeps m s0 p2) :
    Keeps m s0 (runGphyModem p1 p2) := by
  unfold runGphyModem
  extract_lets +onlyGivenNames x1
  clear_value x1
  apply Keeps.ite
  · assumption
  · extract_lets +onlyGivenNames x2
    clear_value x2
    extract_lets +onlyGivenNames x3
    clear_value x3
    extract_lets +onlyGivenNames x4
    have h5 : Keeps m s0 x4 := setLine_keeps (hm.of rfl) (by assumption)
    clear_value x4
    apply Keeps.ite
    · assumption
    · with_reducible apply withLink_keeps (hm.of rfl)
      · assumption
      · intro a6 a7 a8
        exact setLine_keeps (hm.of rfl) (by assumption)

theorem runV2gStack_keeps {m} {s0 : State} {p1} {p2 : State} (hm : Sub 524288 m) (k : Keeps m s0 p2) :
    Keeps m s0 (runV2gStack p1 p2) := by
  unfold runV2gStack
  exact setLine_keeps (hm.of rfl) (by assumption)

theorem recordReceived_keeps {m} {s0 : State} {p1 p2} {p3 : State} (hm : Sub 540672 m) (k : Keeps m s0 p3) :
    Keeps m s0 (recordReceived p1 p2 p3) := by
  unfold recordReceived
  split
  · rename_i y1 y2
    exact setLine_keeps (hm.of rfl) (by assumption)
  · rename_i y3 y4 y5
    split
    · rename_i y6 y7
      assumption
    · rename_i y8 y9 y10
      with_reducible apply setTls_keeps (hm.of rfl)
      exact setLine_keeps (hm.of rfl) (by assumption)

theorem recordSent_keeps {m} {s0 : State} {p1 p2} {p3 : State} (hm : Sub 540673 m) (k : Keeps m s0 p3) :
    Keeps m s0 (recordSent p1 p2 p3) := by
  unfold recordSent
  split
  · rename_i y1 y2
    assumption
  · rename_i y3 y4 y5
    split
    · rename_i y6 y7
      exact setLine_keeps (hm.of rfl) (by assumption)
    · rename_i y8 y9 y10
      extract_lets +onlyGivenNames x11
      have h12 : Keeps m s0 x11.2 := drawBytes_keeps (hm.of rfl) (by assumption)
      clear_value x11
      with_reducible apply setTls_keeps (hm.of rfl)
      with_reducible apply setLine_keeps (hm.of rfl)
      assumption

theorem runTlsRecord_keeps {m} {s0 : State} {p1} {p2 : State} (hm : Sub 540673 m) (k : Keeps m s0 p2) :
    Keeps m s0 (runTlsRecord p1 p2) := by
  unfold runTlsRecord
  extract_lets +onlyGivenNames x1
  clear_value x1
  apply Keeps.ite
  · assumption
  · with_reducible apply withLink_keeps (hm.of rfl)
    · assumption
    · intro a2 a3 a4
      extract_lets +onlyGivenNames x5
      have h6 : Keeps m s0 x5 := setLine_keeps (hm.of rfl) (by assumption)
      clear_value x5
      apply Keeps.foldl
      · intro a7 a8 a9
        exact recordSent_keeps (hm.of rfl) (by assumption)
      · apply Keeps.foldl
        · intro a10 a11 a12
          exact recordReceived_keeps (hm.of rfl) (by assumption)
        · assumption

end Sys2Proof.Machine
end

