-- ==== Sys2Proof/Laws/Keeps/Allot.lean ====
section
/-!
SUPPORT. What the operations of Machine/Allot.lean keep.
-/

namespace Sys2Proof.Machine

theorem setShare_keeps {m} {s0 : State} {p1 p2} {p3 : State} (hm : Sub 524288 m) (k : Keeps m s0 p3) :
    Keeps m s0 (setShare p1 p2 p3) := by
  unfold setShare
  exact setChg_keeps (hm.of rfl) (by assumption)

theorem runHeadroom_keeps {m} {s0 : State} {p1} {p2 : State} (hm : Sub 524288 m) (k : Keeps m s0 p2) :
    Keeps m s0 (runHeadroom p1 p2) := by
  unfold runHeadroom
  split
  · rename_i y1 y2
    assumption
  · rename_i y3 y4 y5
    extract_lets +onlyGivenNames x6
    clear_value x6
    extract_lets +onlyGivenNames x7
    clear_value x7
    extract_lets +onlyGivenNames x8
    clear_value x8
    exact setShare_keeps (hm.of rfl) (by assumption)

theorem allotPath_keeps {m} {s0 : State} {p1 p2} {p3 : State} (hm : Sub 524292 m) (k : Keeps m s0 p3) :
    Keeps m s0 (allotPath p1 p2 p3) := by
  unfold allotPath
  extract_lets +onlyGivenNames x1
  clear_value x1
  extract_lets +onlyGivenNames x2
  clear_value x2
  extract_lets +onlyGivenNames x3
  clear_value x3
  extract_lets +onlyGivenNames x4
  clear_value x4
  extract_lets +onlyGivenNames x5
  clear_value x5
  apply Keeps.ite
  · extract_lets +onlyGivenNames x6
    clear_value x6
    extract_lets +onlyGivenNames x7
    clear_value x7
    extract_lets +onlyGivenNames x8
    clear_value x8
    extract_lets +onlyGivenNames x9
    clear_value x9
    extract_lets +onlyGivenNames x10
    clear_value x10
    extract_lets +onlyGivenNames x11
    have h12 : Keeps m s0 x11 := setShare_keeps (hm.of rfl) (by assumption)
    clear_value x11
    apply Keeps.ite
    · extract_lets +onlyGivenNames x13
      clear_value x13
      with_reducible apply raiseEvent_keeps (hm.of rfl)
      exact setShare_keeps (hm.of rfl) (by assumption)
    · assumption
  · exact setShare_keeps (hm.of rfl) (by assumption)

theorem renegotiate_keeps {m} {s0 : State} {p1} {p2 : State} (hm : Sub 524288 m) (k : Keeps m s0 p2) :
    Keeps m s0 (renegotiate p1 p2) := by
  unfold renegotiate
  extract_lets +onlyGivenNames x1
  clear_value x1
  extract_lets +onlyGivenNames x2
  clear_value x2
  apply Keeps.ite
  · assumption
  · apply Keeps.ite
    · exact setPoint_keeps (hm.of rfl) (by assumption)
    · split
      · rename_i y3 y4
        exact setPoint_keeps (hm.of rfl) (by assumption)
      · rename_i y5 y6 y7
        apply Keeps.ite
        · with_reducible apply sayVehicle_keeps (hm.of rfl)
          exact setPoint_keeps (hm.of rfl) (by assumption)
        · assumption

theorem allot_keeps {m} {s0 : State} {p1 p2} {p3 : State} (hm : Sub 524288 m) (k : Keeps m s0 p3) :
    Keeps m s0 (allot p1 p2 p3) := by
  unfold allot
  exact setChg_keeps (hm.of rfl) (by assumption)

theorem setTarget_keeps {m} {s0 : State} {p1 p2} {p3 : State} (hm : Sub 540676 m) (k : Keeps m s0 p3) :
    Keeps m s0 (setTarget p1 p2 p3) := by
  unfold setTarget
  extract_lets +onlyGivenNames x1
  clear_value x1
  extract_lets +onlyGivenNames x2
  clear_value x2
  extract_lets +onlyGivenNames x3
  clear_value x3
  extract_lets +onlyGivenNames x4
  clear_value x4
  with_reducible apply renegotiate_keeps (hm.of rfl)
  with_reducible apply limitChanged_keeps (hm.of rfl)
  exact setPoint_keeps (hm.of rfl) (by assumption)

theorem runAllot_keeps {m} {s0 : State} {p1} {p2 : State} (hm : Sub 524292 m) (k : Keeps m s0 p2) :
    Keeps m s0 (runAllot p1 p2) := by
  unfold runAllot
  apply Keeps.ite
  · assumption
  · split
    · rename_i y1 y2
      exact allot_keeps (hm.of rfl) (by assumption)
    · rename_i y3 y4 y5
      split
      · rename_i y6 y7
        assumption
      · rename_i y8 y9 y10
        apply Keeps.ite
        · assumption
        · extract_lets +onlyGivenNames x11
          have h12 : Keeps m s0 x11 := by
            unfold x11
            apply Keeps.ite
            · assumption
            · exact allotPath_keeps (hm.of rfl) (by assumption)
          clear_value x11
          split
          · rename_i y13 y14 y15
            exact allot_keeps (hm.of rfl) (by assumption)
          · rename_i y16 y17
            assumption

theorem runCanSetpoint_keeps {m} {s0 : State} {p1} {p2 : State} (hm : Sub 524288 m) (k : Keeps m s0 p2) :
    Keeps m s0 (runCanSetpoint p1 p2) := by
  unfold runCanSetpoint
  extract_lets +onlyGivenNames x1
  clear_value x1
  exact setChg_keeps (hm.of rfl) (by assumption)

theorem converterFeedback_keeps {m} {s0 : State} {p1 p2 p3} {p4 : State} (hm : Sub 813095 m) (k : Keeps m s0 p4) :
    Keeps m s0 (converterFeedback p1 p2 p3 p4) := by
  unfold converterFeedback
  extract_lets +onlyGivenNames x1
  clear_value x1
  split
  · rename_i y2 y3
    assumption
  · rename_i y4 y5 y6
    apply Keeps.ite
    · assumption
    · extract_lets +onlyGivenNames x7
      clear_value x7
      extract_lets +onlyGivenNames x8
      clear_value x8
      extract_lets +onlyGivenNames x9
      clear_value x9
      extract_lets +onlyGivenNames x10
      have h11 : Keeps m s0 x10 := setChg_keeps (hm.of rfl) (by assumption)
      clear_value x10
      apply Keeps.ite
      · assumption
      · extract_lets +onlyGivenNames x12
        have h13 : Keeps m s0 x12 := raiseEvent_keeps (hm.of rfl) (by assumption)
        clear_value x12
        apply Keeps.ite
        · exact trip_keeps (hm.of rfl) (by assumption)
        · assumption

theorem converterLost_keeps {m} {s0 : State} {p1 p2} {p3 : State} (hm : Sub 813095 m) (k : Keeps m s0 p3) :
    Keeps m s0 (converterLost p1 p2 p3) := by
  unfold converterLost
  split
  · rename_i y1 y2
    assumption
  · rename_i y3 y4 y5
    extract_lets +onlyGivenNames x6
    clear_value x6
    extract_lets +onlyGivenNames x7
    clear_value x7
    apply Keeps.ite
    · assumption
    · with_reducible apply trip_keeps (hm.of rfl)
      exact setChg_keeps (hm.of rfl) (by assumption)

theorem staleTick_keeps {m} {s0 : State} {p1 : State} (hm : Sub 540676 m) (k : Keeps m s0 p1) :
    Keeps m s0 (staleTick p1) := by
  unfold staleTick
  extract_lets +onlyGivenNames x1
  have h2 : Keeps m s0 x1 := setChg_keeps (hm.of rfl) (by assumption)
  clear_value x1
  extract_lets +onlyGivenNames x3
  have h4 : Keeps m s0 x3 := by
    unfold x3
    apply Keeps.ite
    · assumption
    · apply Keeps.foldl
      · intro a5 a7 h10
        extract_lets +onlyGivenNames x11
        clear_value x11
        apply Keeps.ite
        · with_reducible apply setPoint_keeps (hm.of rfl)
          with_reducible apply limitChanged_keeps (hm.of rfl)
          exact setPoint_keeps (hm.of rfl) (by assumption)
        · assumption
      · assumption
  clear_value x3
  extract_lets +onlyGivenNames x12
  clear_value x12
  exact setChg_keeps (hm.of rfl) (by assumption)

theorem freshTick_keeps {m} {s0 : State} {p1 : State} (hm : Sub 542724 m) (k : Keeps m s0 p1) :
    Keeps m s0 (freshTick p1) := by
  unfold freshTick
  extract_lets +onlyGivenNames x1
  clear_value x1
  extract_lets +onlyGivenNames x2
  have h3 : Keeps m s0 x2 := setChg_keeps (hm.of rfl) (by assumption)
  clear_value x2
  with_reducible apply syncCharge_keeps (hm.of rfl)
  apply Keeps.foldl
  · intro a4 a5 a6
    exact setTarget_keeps (hm.of rfl) (by assumption)
  · assumption

theorem staleLimits_keeps {m} {s0 : State} {p1 : State} (hm : Sub 813095 m) (k : Keeps m s0 p1) :
    Keeps m s0 (staleLimits p1) := by
  unfold staleLimits
  apply Keeps.ite
  · assumption
  · extract_lets +onlyGivenNames x1
    have h2 : Keeps m s0 x1 := by
      unfold x1
      apply Keeps.ite
      · assumption
      · exact raiseFault_keeps (hm.of rfl) (by assumption)
    clear_value x1
    apply Keeps.ite
    · assumption
    · apply Keeps.foldl
      · intro a3 a5 h8
        apply Keeps.ite
        · exact stopPoint_keeps (hm.of rfl) (by assumption)
        · assumption
      · exact raiseFault_keeps (hm.of rfl) (by assumption)

end Sys2Proof.Machine
end

