-- ==== Sys2Proof/Laws/Keeps/Stem.lean ====
section
/-!
SUPPORT. What the operations of Machine/Stem.lean keep.
-/

namespace Sys2Proof.Machine

theorem setBridge_keeps {m} {s0 : State} {p1 p2} {p3 : State} (hm : Sub 32768 m) (k : Keeps m s0 p3) :
    Keeps m s0 (setBridge p1 p2 p3) := by
  unfold setBridge
  exact Keeps.rest 32768 (hm.of rfl) (by assumption) rfl

theorem setStem_keeps {m} {s0 : State} {p1} {p2 : State} (hm : Sub 32768 m) (k : Keeps m s0 p2) :
    Keeps m s0 (setStem p1 p2) := by
  unfold setStem
  exact Keeps.rest 32768 (hm.of rfl) (by assumption) rfl

theorem bridgeEvent_keeps {m} {s0 : State} {p1 p2 p3 p4} {p5 : State} (hm : Sub 4 m) (k : Keeps m s0 p5) :
    Keeps m s0 (bridgeEvent p1 p2 p3 p4 p5) := by
  unfold bridgeEvent
  extract_lets +onlyGivenNames x1
  clear_value x1
  extract_lets +onlyGivenNames x2
  clear_value x2
  exact raiseEvent_keeps (hm.of rfl) (by assumption)

theorem bridgeTo_keeps {m} {s0 : State} {p1 p2 p3} {p4 : State} (hm : Sub 32772 m) (k : Keeps m s0 p4) :
    Keeps m s0 (bridgeTo p1 p2 p3 p4) := by
  unfold bridgeTo
  extract_lets +onlyGivenNames x1
  clear_value x1
  extract_lets +onlyGivenNames x2
  have h3 : Keeps m s0 x2 := setBridge_keeps (hm.of rfl) (by assumption)
  clear_value x2
  apply Keeps.ite
  · assumption
  · exact bridgeEvent_keeps (hm.of rfl) (by assumption)

theorem bumpSeq_keeps {m} {s0 : State} {p1 p2} {p3 : State} (hm : Sub 32768 m) (k : Keeps m s0 p3) :
    Keeps m s0 (bumpSeq p1 p2 p3) := by
  unfold bumpSeq
  extract_lets +onlyGivenNames x1
  clear_value x1
  exact setBridge_keeps (hm.of rfl) (by assumption)

theorem sendUnder_keeps {m} {s0 : State} {p1 p2 p3 p4 p5 p6 p7} {p8 : State} (hm : Sub 59399 m) (k : Keeps m s0 p8) :
    Keeps m s0 (sendUnder p1 p2 p3 p4 p5 p6 p7 p8) := by
  unfold sendUnder
  extract_lets +onlyGivenNames x1
  have h2 : Keeps m s0 x1.2 := keyFor_keeps (hm.of rfl) (by assumption)
  clear_value x1
  split
  · rename_i y3 y4
    assumption
  · rename_i y5 y6 y7
    extract_lets +onlyGivenNames x8
    clear_value x8
    extract_lets +onlyGivenNames x9
    clear_value x9
    extract_lets +onlyGivenNames x10
    clear_value x10
    with_reducible apply bumpSeq_keeps (hm.of rfl)
    exact setStem_keeps (hm.of rfl) (by assumption)

theorem sendDown_keeps {m} {s0 : State} {p1 p2 p3 p4 p5} {p6 : State} (hm : Sub 59399 m) (k : Keeps m s0 p6) :
    Keeps m s0 (sendDown p1 p2 p3 p4 p5 p6) := by
  unfold sendDown
  extract_lets +onlyGivenNames x1
  clear_value x1
  split
  · rename_i y2 y3
    assumption
  · rename_i y4 y5 y6
    exact sendUnder_keeps (hm.of rfl) (by assumption)

theorem sendCancel_keeps {m} {s0 : State} {p1 p2 p3 p4} {p5 : State} (hm : Sub 59399 m) (k : Keeps m s0 p5) :
    Keeps m s0 (sendCancel p1 p2 p3 p4 p5) := by
  unfold sendCancel
  exact sendDown_keeps (hm.of rfl) (by assumption)

theorem answerStale_keeps {m} {s0 : State} {p1} {p2 : State} (hm : Sub 59399 m) (k : Keeps m s0 p2) :
    Keeps m s0 (answerStale p1 p2) := by
  unfold answerStale
  extract_lets +onlyGivenNames x1
  clear_value x1
  extract_lets +onlyGivenNames x2
  clear_value x2
  apply Keeps.ite
  · assumption
  · extract_lets +onlyGivenNames x3
    have h4 : Keeps m s0 x3 := setBridge_keeps (hm.of rfl) (by assumption)
    clear_value x3
    split
    · rename_i y5 y6 y7
      exact sendDown_keeps (hm.of rfl) (by assumption)
    · rename_i y8 y9
      exact sendUnder_keeps (hm.of rfl) (by assumption)

theorem nextEpoch_keeps {m} {s0 : State} {p1 p2} {p3 : State} (hm : Sub 32769 m) (k : Keeps m s0 p3) :
    Keeps m s0 (nextEpoch p1 p2 p3).2 := by
  unfold nextEpoch
  extract_lets +onlyGivenNames x1
  clear_value x1
  extract_lets +onlyGivenNames x2
  clear_value x2
  split
  · rename_i y3
    assumption
  · rename_i y4
    extract_lets +onlyGivenNames x5
    have h6 : Keeps m s0 x5.2 := drawBytes_keeps (hm.of rfl) (by assumption)
    clear_value x5
    extract_lets +onlyGivenNames x7
    clear_value x7
    apply Keeps.sndMk
    exact setBridge_keeps (hm.of rfl) (by assumption)

theorem revoke_keeps {m} {s0 : State} {p1} {p2 : State} (hm : Sub 32768 m) (k : Keeps m s0 p2) :
    Keeps m s0 (revoke p1 p2) := by
  unfold revoke
  exact setBridge_keeps (hm.of rfl) (by assumption)

theorem sendRekey_keeps {m} {s0 : State} {p1} {p2 : State} (hm : Sub 59399 m) (k : Keeps m s0 p2) :
    Keeps m s0 (sendRekey p1 p2) := by
  unfold sendRekey
  extract_lets +onlyGivenNames x1
  clear_value x1
  apply Keeps.ite
  · assumption
  · split
    · rename_i y2 y3 y4
      have h5 : Keeps m s0 y3 := by
        refine KeepsP.get ?_ y4
        exact nextEpoch_keeps (hm.of rfl) (by assumption)
      assumption
    · rename_i y6 y7 y8 y9
      have h10 : Keeps m s0 y8 := by
        refine KeepsP.get ?_ y9
        exact nextEpoch_keeps (hm.of rfl) (by assumption)
      extract_lets +onlyGivenNames x11
      clear_value x11
      extract_lets +onlyGivenNames x12
      have h13 : Keeps m s0 x12 := sendDown_keeps (hm.of rfl) (by assumption)
      clear_value x12
      exact setBridge_keeps (hm.of rfl) (by assumption)

theorem sendTakeover_keeps {m} {s0 : State} {p1} {p2 : State} (hm : Sub 59399 m) (k : Keeps m s0 p2) :
    Keeps m s0 (sendTakeover p1 p2) := by
  unfold sendTakeover
  split
  · rename_i y1 y2 y3
    have h4 : Keeps m s0 y2 := by
      refine KeepsP.get ?_ y3
      exact nextEpoch_keeps (hm.of rfl) (by assumption)
    assumption
  · rename_i y5 y6 y7 y8
    have h9 : Keeps m s0 y7 := by
      refine KeepsP.get ?_ y8
      exact nextEpoch_keeps (hm.of rfl) (by assumption)
    extract_lets +onlyGivenNames x10
    have h11 : Keeps m s0 x10 := setBridge_keeps (hm.of rfl) (by assumption)
    clear_value x10
    extract_lets +onlyGivenNames x12
    clear_value x12
    exact sendUnder_keeps (hm.of rfl) (by assumption)

theorem rotateEpoch_keeps {m} {s0 : State} {p1} {p2 : State} (hm : Sub 32768 m) (k : Keeps m s0 p2) :
    Keeps m s0 (rotateEpoch p1 p2) := by
  unfold rotateEpoch
  extract_lets +onlyGivenNames x1
  clear_value x1
  extract_lets +onlyGivenNames x2
  clear_value x2
  extract_lets +onlyGivenNames x3
  clear_value x3
  extract_lets +onlyGivenNames x4
  clear_value x4
  exact setBridge_keeps (hm.of rfl) (by assumption)

theorem dropFrame_keeps {m} {s0 : State} {p1 p2 p3} {p4 : State} (hm : Sub 32772 m) (k : Keeps m s0 p4) :
    Keeps m s0 (dropFrame p1 p2 p3 p4) := by
  unfold dropFrame
  extract_lets +onlyGivenNames x1
  have h2 : Keeps m s0 x1 := setBridge_keeps (hm.of rfl) (by assumption)
  clear_value x1
  extract_lets +onlyGivenNames x3
  have h4 : Keeps m s0 x3 := setStem_keeps (hm.of rfl) (by assumption)
  clear_value x3
  exact raiseEvent_keeps (hm.of rfl) (by assumption)

theorem noteSeq_keeps {m} {s0 : State} {p1 p2 p3} {p4 : State} (hm : Sub 32768 m) (k : Keeps m s0 p4) :
    Keeps m s0 (noteSeq p1 p2 p3 p4) := by
  unfold noteSeq
  extract_lets +onlyGivenNames x1
  clear_value x1
  exact setBridge_keeps (hm.of rfl) (by assumption)

theorem tagGood_keeps {m} {s0 : State} {p1 p2 p3} {p4 : State} (hm : Sub 26631 m) (k : Keeps m s0 p4) :
    Keeps m s0 (tagGood p1 p2 p3 p4).2 := by
  unfold tagGood
  extract_lets +onlyGivenNames x1
  have h2 : Keeps m s0 x1.2 := keyFor_keeps (hm.of rfl) (by assumption)
  clear_value x1
  split
  · rename_i y3 y4
    assumption
  · rename_i y5 y6 y7
    assumption

theorem outsideWindow_keeps {m} {s0 : State} {p1} {p2 : State} (hm : Sub 43015 m) (k : Keeps m s0 p2) :
    Keeps m s0 (outsideWindow p1 p2) := by
  unfold outsideWindow
  extract_lets +onlyGivenNames x1
  clear_value x1
  extract_lets +onlyGivenNames x2
  have h3 : Keeps m s0 x2 := setBridge_keeps (hm.of rfl) (by assumption)
  clear_value x2
  extract_lets +onlyGivenNames x4
  clear_value x4
  apply Keeps.ite
  · extract_lets +onlyGivenNames x5
    have h6 : Keeps m s0 x5 := by
      unfold x5
      with_reducible apply raiseFault_keeps (hm.of rfl)
      exact setBridge_keeps (hm.of rfl) (by assumption)
    clear_value x5
    apply Keeps.ite
    · exact bridgeTo_keeps (hm.of rfl) (by assumption)
    · assumption
  · assumption

theorem bridgeHeard_keeps {m} {s0 : State} {p1 p2} {p3 : State} (hm : Sub 59399 m) (k : Keeps m s0 p3) :
    Keeps m s0 (bridgeHeard p1 p2 p3) := by
  unfold bridgeHeard
  extract_lets +onlyGivenNames x1
  clear_value x1
  extract_lets +onlyGivenNames x2
  have h3 : Keeps m s0 x2 := setBridge_keeps (hm.of rfl) (by assumption)
  clear_value x2
  split
  · rename_i y4 y5
    extract_lets +onlyGivenNames x6
    have h7 : Keeps m s0 x6 := bridgeTo_keeps (hm.of rfl) (by assumption)
    clear_value x6
    apply Keeps.ite
    · exact sendRekey_keeps (hm.of rfl) (by assumption)
    · assumption
  · rename_i y8 y9
    apply Keeps.ite
    · with_reducible apply bridgeTo_keeps (hm.of rfl)
      exact setBridge_keeps (hm.of rfl) (by assumption)
    · assumption
  · rename_i y10 y11 y12
    assumption

theorem ingest_keeps {m} {s0 : State} {p1 p2 p3 p4} {p5 : State} (hm : Sub 32768 m) (k : Keeps m s0 p5) :
    Keeps m s0 (ingest p1 p2 p3 p4 p5) := by
  unfold ingest
  extract_lets +onlyGivenNames x1
  clear_value x1
  extract_lets +onlyGivenNames x2
  clear_value x2
  extract_lets +onlyGivenNames x3
  clear_value x3
  extract_lets +onlyGivenNames x4
  clear_value x4
  extract_lets +onlyGivenNames x5
  clear_value x5
  extract_lets +onlyGivenNames x6
  clear_value x6
  extract_lets +onlyGivenNames x7
  clear_value x7
  extract_lets +onlyGivenNames x8
  clear_value x8
  extract_lets +onlyGivenNames x9
  clear_value x9
  extract_lets +onlyGivenNames x10
  clear_value x10
  extract_lets +onlyGivenNames x11
  clear_value x11
  extract_lets +onlyGivenNames x12
  clear_value x12
  exact setBridge_keeps (hm.of rfl) (by assumption)

theorem takeSamples_keeps {m} {s0 : State} {p1 p2 p3 p4} {p5 : State} (hm : Sub 59399 m) (k : Keeps m s0 p5) :
    Keeps m s0 (takeSamples p1 p2 p3 p4 p5) := by
  unfold takeSamples
  extract_lets +onlyGivenNames x1
  clear_value x1
  extract_lets +onlyGivenNames x2
  clear_value x2
  extract_lets +onlyGivenNames x3
  clear_value x3
  extract_lets +onlyGivenNames x4
  have h5 : Keeps m s0 x4 := by
    unfold x4
    apply Keeps.ite
    · assumption
    · exact outsideWindow_keeps (hm.of rfl) (by assumption)
  clear_value x4
  extract_lets +onlyGivenNames x6
  clear_value x6
  apply Keeps.ite
  · exact dropFrame_keeps (hm.of rfl) (by assumption)
  · apply Keeps.ite
    · exact dropFrame_keeps (hm.of rfl) (by assumption)
    · apply Keeps.ite
      · exact dropFrame_keeps (hm.of rfl) (by assumption)
      · extract_lets +onlyGivenNames x7
        have h8 : Keeps m s0 x7 := noteSeq_keeps (hm.of rfl) (by assumption)
        clear_value x7
        extract_lets +onlyGivenNames x9
        have h10 : Keeps m s0 x9 := setStem_keeps (hm.of rfl) (by assumption)
        clear_value x9
        with_reducible apply ingest_keeps (hm.of rfl)
        exact bridgeHeard_keeps (hm.of rfl) (by assumption)

theorem takeStatus_keeps {m} {s0 : State} {p1 p2 p3} {p4 : State} (hm : Sub 59399 m) (k : Keeps m s0 p4) :
    Keeps m s0 (takeStatus p1 p2 p3 p4) := by
  unfold takeStatus
  extract_lets +onlyGivenNames x1
  have h2 : Keeps m s0 x1 := noteSeq_keeps (hm.of rfl) (by assumption)
  clear_value x1
  extract_lets +onlyGivenNames x3
  have h4 : Keeps m s0 x3 := setStem_keeps (hm.of rfl) (by assumption)
  clear_value x3
  extract_lets +onlyGivenNames x5
  have h6 : Keeps m s0 x5 := bridgeHeard_keeps (hm.of rfl) (by assumption)
  clear_value x5
  extract_lets +onlyGivenNames x7
  clear_value x7
  extract_lets +onlyGivenNames x8
  clear_value x8
  extract_lets +onlyGivenNames x9
  have h10 : Keeps m s0 x9 := setBridge_keeps (hm.of rfl) (by assumption)
  clear_value x9
  apply Keeps.ite
  · extract_lets +onlyGivenNames x11
    have h12 : Keeps m s0 x11.2 := draw_keeps (hm.of rfl) (by assumption)
    clear_value x11
    extract_lets +onlyGivenNames x13
    have h14 : Keeps m s0 x13.2 := draw_keeps (hm.of rfl) (by assumption)
    clear_value x13
    extract_lets +onlyGivenNames x15
    have h16 : Keeps m s0 x15.2 := draw_keeps (hm.of rfl) (by assumption)
    clear_value x15
    exact raiseEvent_keeps (hm.of rfl) (by assumption)
  · assumption

theorem staleNamed_keeps {m} {s0 : State} {p1 p2} {p3 : State} (hm : Sub 36868 m) (k : Keeps m s0 p3) :
    Keeps m s0 (staleNamed p1 p2 p3) := by
  unfold staleNamed
  extract_lets +onlyGivenNames x1
  clear_value x1
  extract_lets +onlyGivenNames x2
  clear_value x2
  apply Keeps.ite
  · extract_lets +onlyGivenNames x3
    have h4 : Keeps m s0 x3 := by
      unfold x3
      with_reducible apply bridgeTo_keeps (hm.of rfl)
      exact revoke_keeps (hm.of rfl) (by assumption)
    clear_value x3
    extract_lets +onlyGivenNames x5
    clear_value x5
    extract_lets +onlyGivenNames x6
    clear_value x6
    extract_lets +onlyGivenNames x7
    clear_value x7
    exact Keeps.rest 4096 (hm.of rfl) (by assumption) rfl
  · assumption

theorem staleHeard_keeps {m} {s0 : State} {p1 p2 p3} {p4 : State} (hm : Sub 63495 m) (k : Keeps m s0 p4) :
    Keeps m s0 (staleHeard p1 p2 p3 p4) := by
  unfold staleHeard
  extract_lets +onlyGivenNames x1
  have h2 : Keeps m s0 x1 := noteSeq_keeps (hm.of rfl) (by assumption)
  clear_value x1
  extract_lets +onlyGivenNames x3
  have h4 : Keeps m s0 x3 := setStem_keeps (hm.of rfl) (by assumption)
  clear_value x3
  with_reducible apply staleNamed_keeps (hm.of rfl)
  exact bridgeHeard_keeps (hm.of rfl) (by assumption)

theorem takeSession_keeps {m} {s0 : State} {p1 p2 p3} {p4 : State} (hm : Sub 63495 m) (k : Keeps m s0 p4) :
    Keeps m s0 (takeSession p1 p2 p3 p4) := by
  unfold takeSession
  extract_lets +onlyGivenNames x1
  clear_value x1
  extract_lets +onlyGivenNames x2
  clear_value x2
  split
  · rename_i y3 y4
    with_reducible apply answerStale_keeps (hm.of rfl)
    exact dropFrame_keeps (hm.of rfl) (by assumption)
  · rename_i y5 y6 y7
    extract_lets +onlyGivenNames x8
    have h9 : Keeps m s0 x8.2 := tagGood_keeps (hm.of rfl) (by assumption)
    clear_value x8
    apply Keeps.ite
    · exact dropFrame_keeps (hm.of rfl) (by assumption)
    · apply Keeps.ite
      · exact dropFrame_keeps (hm.of rfl) (by assumption)
      · apply Keeps.ite
        · exact takeStatus_keeps (hm.of rfl) (by assumption)
        · apply Keeps.ite
          · exact staleHeard_keeps (hm.of rfl) (by assumption)
          · exact takeSamples_keeps (hm.of rfl) (by assumption)

theorem joinGood_keeps {m} {s0 : State} {p1 p2} {p3 : State} (hm : Sub 26631 m) (k : Keeps m s0 p3) :
    Keeps m s0 (joinGood p1 p2 p3).2 := by
  unfold joinGood
  extract_lets +onlyGivenNames x1
  clear_value x1
  extract_lets +onlyGivenNames x2
  clear_value x2
  extract_lets +onlyGivenNames x3
  clear_value x3
  extract_lets +onlyGivenNames x4
  clear_value x4
  extract_lets +onlyGivenNames x5
  clear_value x5
  extract_lets +onlyGivenNames x6
  clear_value x6
  split
  · rename_i y7
    assumption
  · rename_i y8
    exact tagGood_keeps (hm.of rfl) (by assumption)

theorem joinRefused_keeps {m} {s0 : State} {p1 p2} {p3 : State} (hm : Sub 43015 m) (k : Keeps m s0 p3) :
    Keeps m s0 (joinRefused p1 p2 p3) := by
  unfold joinRefused
  extract_lets +onlyGivenNames x1
  clear_value x1
  extract_lets +onlyGivenNames x2
  have h3 : Keeps m s0 x2 := by
    unfold x2
    with_reducible apply setBridge_keeps (hm.of rfl)
    exact dropFrame_keeps (hm.of rfl) (by assumption)
  clear_value x2
  apply Keeps.ite
  · apply Keeps.ite
    · exact raiseFault_keeps (hm.of rfl) (by assumption)
    · exact reportFault_keeps (hm.of rfl) (by assumption)
  · assumption

theorem joinAccepted_keeps {m} {s0 : State} {p1 p2} {p3 : State} (hm : Sub 59399 m) (k : Keeps m s0 p3) :
    Keeps m s0 (joinAccepted p1 p2 p3) := by
  unfold joinAccepted
  extract_lets +onlyGivenNames x1
  clear_value x1
  extract_lets +onlyGivenNames x2
  clear_value x2
  extract_lets +onlyGivenNames x3
  have h4 : Keeps m s0 x3 := revoke_keeps (hm.of rfl) (by assumption)
  clear_value x3
  split
  · rename_i y5 y6 y7
    have h8 : Keeps m s0 y6 := by
      refine KeepsP.get ?_ y7
      exact nextEpoch_keeps (hm.of rfl) (by assumption)
    assumption
  · rename_i y9 y10 y11 y12
    have h13 : Keeps m s0 y11 := by
      refine KeepsP.get ?_ y12
      exact nextEpoch_keeps (hm.of rfl) (by assumption)
    extract_lets +onlyGivenNames x14
    clear_value x14
    extract_lets +onlyGivenNames x15
    clear_value x15
    extract_lets +onlyGivenNames x16
    have h17 : Keeps m s0 x16 := setBridge_keeps (hm.of rfl) (by assumption)
    clear_value x16
    extract_lets +onlyGivenNames x18
    have h19 : Keeps m s0 x18 := sendUnder_keeps (hm.of rfl) (by assumption)
    clear_value x18
    extract_lets +onlyGivenNames x20
    have h21 : Keeps m s0 x20 := setStem_keeps (hm.of rfl) (by assumption)
    clear_value x20
    apply Keeps.ite
    · exact bridgeEvent_keeps (hm.of rfl) (by assumption)
    · exact bridgeTo_keeps (hm.of rfl) (by assumption)

theorem takeStale_keeps {m} {s0 : State} {p1 p2} {p3 : State} (hm : Sub 63495 m) (k : Keeps m s0 p3) :
    Keeps m s0 (takeStale p1 p2 p3) := by
  unfold takeStale
  apply Keeps.ite
  · exact staleNamed_keeps (hm.of rfl) (by assumption)
  · with_reducible apply answerStale_keeps (hm.of rfl)
    exact dropFrame_keeps (hm.of rfl) (by assumption)

theorem stemReceiveOn_keeps {m} {s0 : State} {p1 p2 p3} {p4 : State} (hm : Sub 63495 m) (k : Keeps m s0 p4) :
    Keeps m s0 (stemReceiveOn p1 p2 p3 p4) := by
  unfold stemReceiveOn
  apply Keeps.ite
  · assumption
  · extract_lets +onlyGivenNames x1
    have h2 : Keeps m s0 x1 := setStem_keeps (hm.of rfl) (by assumption)
    clear_value x1
    extract_lets +onlyGivenNames x3
    clear_value x3
    extract_lets +onlyGivenNames x4
    clear_value x4
    apply Keeps.ite
    · exact dropFrame_keeps (hm.of rfl) (by assumption)
    · apply Keeps.ite
      · exact dropFrame_keeps (hm.of rfl) (by assumption)
      · apply Keeps.ite
        · extract_lets +onlyGivenNames x5
          have h6 : Keeps m s0 x5.2 := joinGood_keeps (hm.of rfl) (by assumption)
          clear_value x5
          apply Keeps.ite
          · with_reducible apply joinAccepted_keeps (hm.of rfl)
            exact setBridge_keeps (hm.of rfl) (by assumption)
          · exact joinRefused_keeps (hm.of rfl) (by assumption)
        · apply Keeps.ite
          · exact takeStale_keeps (hm.of rfl) (by assumption)
          · exact takeSession_keeps (hm.of rfl) (by assumption)

theorem stemReceive_keeps {m} {s0 : State} {p1 p2} {p3 : State} (hm : Sub 63495 m) (k : Keeps m s0 p3) :
    Keeps m s0 (stemReceive p1 p2 p3) := by
  unfold stemReceive
  exact stemReceiveOn_keeps (hm.of rfl) (by assumption)

theorem sendRepairs_keeps {m} {s0 : State} {p1 p2 p3} {p4 : State} (hm : Sub 59399 m) (k : Keeps m s0 p4) :
    Keeps m s0 (sendRepairs p1 p2 p3 p4) := by
  unfold sendRepairs
  extract_lets +onlyGivenNames x1
  clear_value x1
  apply Keeps.foldl
  · intro a2 a4 h7
    extract_lets +onlyGivenNames x8
    have h9 : Keeps m s0 x8 := setStem_keeps (hm.of rfl) (by assumption)
    clear_value x8
    exact sendDown_keeps (hm.of rfl) (by assumption)
  · assumption

theorem askRepairs_keeps {m} {s0 : State} {p1 p2 p3} {p4 : State} (hm : Sub 59399 m) (k : Keeps m s0 p4) :
    Keeps m s0 (askRepairs p1 p2 p3 p4) := by
  unfold askRepairs
  extract_lets +onlyGivenNames x1
  clear_value x1
  extract_lets +onlyGivenNames x2
  clear_value x2
  apply Keeps.ite
  · assumption
  · extract_lets +onlyGivenNames x3
    have h4 : Keeps m s0 x3 := sendRepairs_keeps (hm.of rfl) (by assumption)
    clear_value x3
    exact setBridge_keeps (hm.of rfl) (by assumption)

theorem runIngest_keeps {m} {s0 : State} {p1 p2} {p3 : State} (hm : Sub 59399 m) (k : Keeps m s0 p3) :
    Keeps m s0 (runIngest p1 p2 p3) := by
  unfold runIngest
  extract_lets +onlyGivenNames x1
  clear_value x1
  apply Keeps.ite
  · assumption
  · extract_lets +onlyGivenNames x2
    clear_value x2
    extract_lets +onlyGivenNames x3
    clear_value x3
    with_reducible apply askRepairs_keeps (hm.of rfl)
    with_reducible apply askRepairs_keeps (hm.of rfl)
    exact askRepairs_keeps (hm.of rfl) (by assumption)

theorem retryRepair_keeps {m} {s0 : State} {p1 p2} {p3 : State} (hm : Sub 59399 m) (k : Keeps m s0 p3) :
    Keeps m s0 (retryRepair p1 p2 p3) := by
  unfold retryRepair
  extract_lets +onlyGivenNames x1
  clear_value x1
  apply Keeps.ite
  · assumption
  · exact askRepairs_keeps (hm.of rfl) (by assumption)

theorem skipHoles_keeps {m} {s0 : State} {p1 p2} {p3 : State} (hm : Sub 32768 m) (k : Keeps m s0 p3) :
    Keeps m s0 (skipHoles p1 p2 p3) := by
  unfold skipHoles
  extract_lets +onlyGivenNames x1
  clear_value x1
  extract_lets +onlyGivenNames x2
  clear_value x2
  extract_lets +onlyGivenNames x3
  clear_value x3
  extract_lets +onlyGivenNames x4
  clear_value x4
  exact setBridge_keeps (hm.of rfl) (by assumption)

theorem dropHoles_keeps {m} {s0 : State} {p1} {p2 : State} (hm : Sub 32768 m) (k : Keeps m s0 p2) :
    Keeps m s0 (dropHoles p1 p2) := by
  unfold dropHoles
  extract_lets +onlyGivenNames x1
  clear_value x1
  extract_lets +onlyGivenNames x2
  clear_value x2
  extract_lets +onlyGivenNames x3
  clear_value x3
  extract_lets +onlyGivenNames x4
  clear_value x4
  extract_lets +onlyGivenNames x5
  clear_value x5
  apply Keeps.ite
  · assumption
  · extract_lets +onlyGivenNames x6
    have h7 : Keeps m s0 x6 := setBridge_keeps (hm.of rfl) (by assumption)
    clear_value x6
    exact setStem_keeps (hm.of rfl) (by assumption)

theorem leaveSession_keeps {m} {s0 : State} {p1} {p2 : State} (hm : Sub 59399 m) (k : Keeps m s0 p2) :
    Keeps m s0 (leaveSession p1 p2) := by
  unfold leaveSession
  extract_lets +onlyGivenNames x1
  clear_value x1
  apply Keeps.ite
  · with_reducible apply revoke_keeps (hm.of rfl)
    exact sendCancel_keeps (hm.of rfl) (by assumption)
  · exact revoke_keeps (hm.of rfl) (by assumption)

theorem bridgeChange_keeps {m} {s0 : State} {p1} {p2 : State} (hm : Sub 59399 m) (k : Keeps m s0 p2) :
    KeepsO m s0 (bridgeChange p1 p2) := by
  unfold bridgeChange
  extract_lets +onlyGivenNames x1
  clear_value x1
  extract_lets +onlyGivenNames x2
  clear_value x2
  extract_lets +onlyGivenNames x3
  clear_value x3
  extract_lets +onlyGivenNames x4
  clear_value x4
  split
  · rename_i y5 y6
    split
    · rename_i y7
      apply KeepsO.some
      with_reducible apply bridgeTo_keeps (hm.of rfl)
      exact setBridge_keeps (hm.of rfl) (by assumption)
    · rename_i y8
      exact KeepsO.none
  · rename_i y9 y10
    split
    · rename_i y11
      exact KeepsO.none
    · rename_i y12
      extract_lets +onlyGivenNames x13
      clear_value x13
      split
      · rename_i y14
        apply KeepsO.some
        with_reducible apply bridgeTo_keeps (hm.of rfl)
        with_reducible apply setBridge_keeps (hm.of rfl)
        exact leaveSession_keeps (hm.of rfl) (by assumption)
      · rename_i y15
        apply KeepsO.some
        exact setBridge_keeps (hm.of rfl) (by assumption)
  · rename_i y16 y17
    split
    · rename_i y18
      exact KeepsO.none
    · rename_i y19
      extract_lets +onlyGivenNames x20
      have h21 : Keeps m s0 x20 := by
        unfold x20
        with_reducible apply bridgeTo_keeps (hm.of rfl)
        exact leaveSession_keeps (hm.of rfl) (by assumption)
      clear_value x20
      extract_lets +onlyGivenNames x22
      have h23 : Keeps m s0 x22 := setBridge_keeps (hm.of rfl) (by assumption)
      clear_value x22
      apply KeepsO.some
      exact setStem_keeps (hm.of rfl) (by assumption)
  · rename_i y24 y25 y26 y27
    split
    · rename_i y28
      exact KeepsO.none
    · rename_i y29
      split
      · rename_i y30
        apply KeepsO.some
        assumption
      · rename_i y31
        apply KeepsO.some
        with_reducible apply bridgeTo_keeps (hm.of rfl)
        exact leaveSession_keeps (hm.of rfl) (by assumption)

theorem bridgesAhead_keeps {m} {s0 : State} {p1 : State} (hm : Sub 59399 m) (k : Keeps m s0 p1) :
    Keeps m s0 (bridgesAhead p1) := by
  unfold bridgesAhead
  apply Keeps.foldl
  · intro x c h
    cases e : bridgeChange c x with
    | none => exact h
    | some t => exact bridgeChange_keeps (hm.of rfl) h t e
  · exact k

theorem stemTick_keeps {m} {s0 : State} {p1 : State} (hm : Sub 59399 m) (k : Keeps m s0 p1) :
    Keeps m s0 (stemTick p1) := by
  unfold stemTick
  extract_lets +onlyGivenNames x1
  have h2 : Keeps m s0 x1 := by
    unfold x1
    with_reducible apply setStem_keeps (hm.of rfl)
    exact bridgesAhead_keeps (hm.of rfl) (by assumption)
  clear_value x1
  extract_lets +onlyGivenNames x3
  clear_value x3
  extract_lets +onlyGivenNames x4
  clear_value x4
  extract_lets +onlyGivenNames x5
  clear_value x5
  extract_lets +onlyGivenNames x6
  clear_value x6
  extract_lets +onlyGivenNames x7
  have h8 : Keeps m s0 x7 := setStem_keeps (hm.of rfl) (by assumption)
  clear_value x7
  extract_lets +onlyGivenNames x9
  have h10 : Keeps m s0 x9 := by
    unfold x9
    apply Keeps.foldl
    · intro a11 a13 h16
      extract_lets +onlyGivenNames x17
      have h18 : Keeps m s0 x17 := by
        unfold x17
        with_reducible apply dropHoles_keeps (hm.of rfl)
        exact rotateEpoch_keeps (hm.of rfl) (by assumption)
      clear_value x17
      exact setBridge_keeps (hm.of rfl) (by assumption)
    · assumption
  clear_value x9
  extract_lets +onlyGivenNames x19
  have h20 : Keeps m s0 x19 := by
    unfold x19
    apply Keeps.ite
    · assumption
    · exact endFault_keeps (hm.of rfl) (by assumption)
  clear_value x19
  apply Keeps.ite
  · exact setStem_keeps (hm.of rfl) (by assumption)
  · assumption

theorem stemVigil_keeps {m} {s0 : State} {p1 : State} (hm : Sub 59399 m) (k : Keeps m s0 p1) :
    Keeps m s0 (stemVigil p1) := by
  unfold stemVigil
  apply Keeps.foldl
  · intro a1 a3 h6
    extract_lets +onlyGivenNames x7
    clear_value x7
    apply Keeps.ite
    · with_reducible apply bridgeTo_keeps (hm.of rfl)
      exact leaveSession_keeps (hm.of rfl) (by assumption)
    · assumption
  · assumption

theorem stemCancelAll_keeps {m} {s0 : State} {p1 : State} (hm : Sub 59399 m) (k : Keeps m s0 p1) :
    Keeps m s0 (stemCancelAll p1) := by
  unfold stemCancelAll
  apply Keeps.foldl
  · intro a1 a3 h6
    extract_lets +onlyGivenNames x7
    clear_value x7
    apply Keeps.ite
    · with_reducible apply setBridge_keeps (hm.of rfl)
      exact sendCancel_keeps (hm.of rfl) (by assumption)
    · assumption
  · assumption

theorem stemTakeover_keeps {m} {s0 : State} {p1 : State} (hm : Sub 59399 m) (k : Keeps m s0 p1) :
    Keeps m s0 (stemTakeover p1) := by
  unfold stemTakeover
  apply Keeps.foldl
  · intro a1 a3 h6
    extract_lets +onlyGivenNames x7
    clear_value x7
    apply Keeps.ite
    · exact sendTakeover_keeps (hm.of rfl) (by assumption)
    · assumption
  · assumption

theorem coldStem_keeps {m} {s0 : State} {p1 : State} (hm : Sub 32768 m) (k : Keeps m s0 p1) :
    Keeps m s0 (coldStem p1) := by
  unfold coldStem
  extract_lets +onlyGivenNames x1
  have h2 : Keeps m s0 x1 := setStem_keeps (hm.of rfl) (by assumption)
  clear_value x1
  exact setStem_keeps (hm.of rfl) (by assumption)

theorem stemField_keeps {m} {s0 : State} {p1} {p2 : State} (hm : Sub 32772 m) (k : Keeps m s0 p2) :
    Keeps m s0 (stemField p1 p2) := by
  unfold stemField
  apply Keeps.foldl
  · intro a1 a3 h6
    extract_lets +onlyGivenNames x7
    clear_value x7
    apply Keeps.ite
    · assumption
    · apply Keeps.ite
      · exact bridgeTo_keeps (hm.of rfl) (by assumption)
      · exact bridgeTo_keeps (hm.of rfl) (by assumption)
  · assumption

theorem execStemPlcSamples_keeps {m} {s0 : State} {p1} {p2 : State} (hm : Sub 63495 m) (k : Keeps m s0 p2) :
    KeepsR m s0 (execStemPlcSamples p1 p2) := by
  unfold execStemPlcSamples
  apply KeepsR.next
  exact stemReceive_keeps (hm.of rfl) (by assumption)

theorem stemRfSamples_keeps {m} {s0 : State} {p1} {p2 : State} (hm : Sub 63495 m) (k : Keeps m s0 p2) :
    Keeps m s0 (stemRfSamples p1 p2) := by
  unfold stemRfSamples
  exact stemReceive_keeps (hm.of rfl) (by assumption)

theorem execStemLvSamples_keeps {m} {s0 : State} {p1} {p2 : State} (hm : Sub 63495 m) (k : Keeps m s0 p2) :
    KeepsR m s0 (execStemLvSamples p1 p2) := by
  unfold execStemLvSamples
  apply KeepsR.next
  exact stemReceive_keeps (hm.of rfl) (by assumption)

theorem execStemStatusFrame_keeps {m} {s0 : State} {p1} {p2 : State} (hm : Sub 63495 m) (k : Keeps m s0 p2) :
    KeepsR m s0 (execStemStatusFrame p1 p2) := by
  unfold execStemStatusFrame
  apply KeepsR.next
  exact stemReceive_keeps (hm.of rfl) (by assumption)

theorem execStemJoin_keeps {m} {s0 : State} {p1 p2 p3 p4} {p5 : State} (hm : Sub 63495 m) (k : Keeps m s0 p5) :
    KeepsR m s0 (execStemJoin p1 p2 p3 p4 p5) := by
  unfold execStemJoin
  apply KeepsR.next
  exact stemReceiveOn_keeps (hm.of rfl) (by assumption)

theorem execHoleRepairRetry_keeps {m} {s0 : State} {p1 p2} {p3 : State} (hm : Sub 59399 m) (k : Keeps m s0 p3) :
    KeepsR m s0 (execHoleRepairRetry p1 p2 p3) := by
  unfold execHoleRepairRetry
  apply KeepsR.next
  apply Keeps.ite
  · exact retryRepair_keeps (hm.of rfl) (by assumption)
  · assumption

theorem execHoleWaitExpiry_keeps {m} {s0 : State} {p1 p2} {p3 : State} (hm : Sub 32768 m) (k : Keeps m s0 p3) :
    KeepsR m s0 (execHoleWaitExpiry p1 p2 p3) := by
  unfold execHoleWaitExpiry
  apply KeepsR.next
  apply Keeps.ite
  · exact skipHoles_keeps (hm.of rfl) (by assumption)
  · assumption

theorem execBridgeSilence_keeps {m} {s0 : State} {p1} {p2 : State} (hm : Sub 32772 m) (k : Keeps m s0 p2) :
    KeepsR m s0 (execBridgeSilence p1 p2) := by
  unfold execBridgeSilence
  extract_lets +onlyGivenNames x1
  clear_value x1
  apply KeepsR.next
  apply Keeps.ite
  · exact bridgeTo_keeps (hm.of rfl) (by assumption)
  · assumption

theorem execBridgeLost_keeps {m} {s0 : State} {p1} {p2 : State} (hm : Sub 32772 m) (k : Keeps m s0 p2) :
    KeepsR m s0 (execBridgeLost p1 p2) := by
  unfold execBridgeLost
  apply KeepsR.next
  apply Keeps.ite
  · with_reducible apply bridgeTo_keeps (hm.of rfl)
    exact revoke_keeps (hm.of rfl) (by assumption)
  · assumption

theorem execRekeyDue_keeps {m} {s0 : State} {p1} {p2 : State} (hm : Sub 59399 m) (k : Keeps m s0 p2) :
    KeepsR m s0 (execRekeyDue p1 p2) := by
  unfold execRekeyDue
  extract_lets +onlyGivenNames x1
  clear_value x1
  apply KeepsR.next
  apply Keeps.ite
  · assumption
  · apply Keeps.ite
    · exact sendRekey_keeps (hm.of rfl) (by assumption)
    · apply Keeps.ite
      · exact setBridge_keeps (hm.of rfl) (by assumption)
      · assumption

theorem execKeepaliveDue_keeps {m} {s0 : State} {p1} {p2 : State} (hm : Sub 59399 m) (k : Keeps m s0 p2) :
    KeepsR m s0 (execKeepaliveDue p1 p2) := by
  unfold execKeepaliveDue
  extract_lets +onlyGivenNames x1
  clear_value x1
  apply KeepsR.next
  apply Keeps.ite
  · exact sendDown_keeps (hm.of rfl) (by assumption)
  · assumption

end Sys2Proof.Machine
end

