-- ==== Sys2Proof/Laws/Keeps/Sepal.lean ====
section
/-!
SUPPORT. What the operations of Machine/Sepal.lean keep.
-/

namespace Sys2Proof.Machine

theorem setMtr_keeps {m} {s0 : State} {p1} {p2 : State} (hm : Sub 65536 m) (k : Keeps m s0 p2) :
    Keeps m s0 (setMtr p1 p2) := by
  unfold setMtr
  exact Keeps.rest 65536 (hm.of rfl) (by assumption) rfl

theorem setMeter_keeps {m} {s0 : State} {p1 p2} {p3 : State} (hm : Sub 65536 m) (k : Keeps m s0 p3) :
    Keeps m s0 (setMeter p1 p2 p3) := by
  unfold setMeter
  split
  · rename_i y1 y2 y3
    exact setMtr_keeps (hm.of rfl) (by assumption)
  · rename_i y4 y5
    assumption

theorem meterFault_keeps {m} {s0 : State} {p1} {p2 : State} (hm : Sub 10247 m) (k : Keeps m s0 p2) :
    Keeps m s0 (meterFault p1 p2) := by
  unfold meterFault
  apply Keeps.ite
  · exact raiseFault_keeps (hm.of rfl) (by assumption)
  · exact reportFault_keeps (hm.of rfl) (by assumption)

theorem queueMsg_keeps {m} {s0 : State} {p1 p2} {p3 : State} (hm : Sub 65536 m) (k : Keeps m s0 p3) :
    Keeps m s0 (queueMsg p1 p2 p3) := by
  unfold queueMsg
  exact setMeter_keeps (hm.of rfl) (by assumption)

theorem queueNow_keeps {m} {s0 : State} {p1 p2 p3 p4} {p5 : State} (hm : Sub 65536 m) (k : Keeps m s0 p5) :
    Keeps m s0 (queueNow p1 p2 p3 p4 p5) := by
  unfold queueNow
  exact queueMsg_keeps (hm.of rfl) (by assumption)

theorem queueCredit_keeps {m} {s0 : State} {p1} {p2 : State} (hm : Sub 65536 m) (k : Keeps m s0 p2) :
    Keeps m s0 (queueCredit p1 p2) := by
  unfold queueCredit
  exact queueNow_keeps (hm.of rfl) (by assumption)

theorem takeMsg_keeps {m} {s0 : State} {p1 p2} {p3 : State} (hm : Sub 65536 m) (k : Keeps m s0 p3) :
    Keeps m s0 (takeMsg p1 p2 p3).2 := by
  unfold takeMsg
  split
  · rename_i y1 y2
    assumption
  · rename_i y3 y4 y5
    split
    · rename_i y6 y7
      assumption
    · rename_i y8 y9 y10
      extract_lets +onlyGivenNames x11
      clear_value x11
      extract_lets +onlyGivenNames x12
      clear_value x12
      extract_lets +onlyGivenNames x13
      clear_value x13
      extract_lets +onlyGivenNames x14
      extract_lets +onlyGivenNames x15
      have h16 : Keeps m s0 x15 := setMeter_keeps (hm.of rfl) (by assumption)
      clear_value x15
      assumption

theorem answerRequest_keeps {m} {s0 : State} {p1 p2} {p3 : State} (hm : Sub 65540 m) (k : Keeps m s0 p3) :
    Keeps m s0 (answerRequest p1 p2 p3) := by
  unfold answerRequest
  split
  · rename_i y1 y2 y3
    apply Keeps.ite
    · with_reducible apply complete_keeps (hm.of rfl)
      exact setMeter_keeps (hm.of rfl) (by assumption)
    · assumption
  · rename_i y4 y5
    assumption

theorem ackDown_keeps {m} {s0 : State} {p1 p2} {p3 : State} (hm : Sub 65540 m) (k : Keeps m s0 p3) :
    Keeps m s0 (ackDown p1 p2 p3) := by
  unfold ackDown
  split
  · rename_i y1 y2
    assumption
  · rename_i y3 y4 y5
    split
    · rename_i y6 y7
      assumption
    · rename_i y8 y9 y10
      apply Keeps.ite
      · assumption
      · extract_lets +onlyGivenNames x11
        have h12 : Keeps m s0 x11 := setMeter_keeps (hm.of rfl) (by assumption)
        clear_value x11
        apply Keeps.ite
        · exact answerRequest_keeps (hm.of rfl) (by assumption)
        · assumption

theorem giveUp_keeps {m} {s0 : State} {p1 p2} {p3 : State} (hm : Sub 108551 m) (k : Keeps m s0 p3) :
    Keeps m s0 (giveUp p1 p2 p3) := by
  unfold giveUp
  extract_lets +onlyGivenNames x1
  have h2 : Keeps m s0 x1 := setMeter_keeps (hm.of rfl) (by assumption)
  clear_value x1
  extract_lets +onlyGivenNames x3
  have h4 : Keeps m s0 x3 := by
    unfold x3
    split
    · rename_i y5 y6 y7 y8 y9 y10
      apply Keeps.ite
      · with_reducible apply complete_keeps (hm.of rfl)
        exact setMeter_keeps (hm.of rfl) (by assumption)
      · assumption
    · rename_i y11 y12 y13
      assumption
  clear_value x3
  apply Keeps.ite
  · assumption
  · extract_lets +onlyGivenNames x14
    clear_value x14
    extract_lets +onlyGivenNames x15
    have h16 : Keeps m s0 x15 := setMeter_keeps (hm.of rfl) (by assumption)
    clear_value x15
    extract_lets +onlyGivenNames x17
    have h18 : Keeps m s0 x17 := by
      unfold x17
      apply Keeps.ite
      · exact setMtr_keeps (hm.of rfl) (by assumption)
      · exact setStem_keeps (hm.of rfl) (by assumption)
    clear_value x17
    exact meterFault_keeps (hm.of rfl) (by assumption)

theorem sepalArrive_keeps {m} {s0 : State} {p1 p2 p3 p4} {p5 : State} (hm : Sub 65540 m) (k : Keeps m s0 p5) :
    Keeps m s0 (sepalArrive p1 p2 p3 p4 p5) := by
  unfold sepalArrive
  apply Keeps.ite
  · assumption
  · extract_lets +onlyGivenNames x1
    have h2 : Keeps m s0 x1 := ackDown_keeps (hm.of rfl) (by assumption)
    clear_value x1
    extract_lets +onlyGivenNames x3
    clear_value x3
    apply Keeps.ite
    · exact setMtr_keeps (hm.of rfl) (by assumption)
    · extract_lets +onlyGivenNames x4
      clear_value x4
      apply Keeps.ite
      · assumption
      · extract_lets +onlyGivenNames x5
        have h6 : Keeps m s0 x5 := by
          unfold x5
          apply Keeps.ite
          · exact setMeter_keeps (hm.of rfl) (by assumption)
          · assumption
        clear_value x5
        exact setMtr_keeps (hm.of rfl) (by assumption)

theorem takeInbox_keeps {m} {s0 : State} {p1 p2} {p3 : State} (hm : Sub 65536 m) (k : Keeps m s0 p3) :
    Keeps m s0 (takeInbox p1 p2 p3).2 := by
  unfold takeInbox
  split
  · rename_i y1 y2
    assumption
  · rename_i y3 y4 y5
    apply Keeps.sndMk
    exact setMtr_keeps (hm.of rfl) (by assumption)

theorem onMessage_keeps {m} {s0 : State} {p1 p2 p3} {p4 : State} (hm : Sub 65536 m) (k : Keeps m s0 p4) (h3 : ∀ v1 v2 v3, Keeps m s0 v3 → Keeps m s0 (p3 v1 v2 v3)) :
    Keeps m s0 (onMessage p1 p2 p3 p4) := by
  unfold onMessage
  split
  · rename_i y1 y2 y3
    have h4 : Keeps m s0 y2 := by
      refine KeepsP.get ?_ y3
      exact takeInbox_keeps (hm.of rfl) (by assumption)
    assumption
  · rename_i y5 y6 y7 y8
    have h9 : Keeps m s0 y7 := by
      refine KeepsP.get ?_ y8
      exact takeInbox_keeps (hm.of rfl) (by assumption)
    with_reducible apply h3
    assumption

theorem addVoltages_keeps {m} {s0 : State} {p1 p2 p3} {p4 : State} (hm : Sub 131072 m) (k : Keeps m s0 p4) :
    Keeps m s0 (addVoltages p1 p2 p3 p4) := by
  unfold addVoltages
  extract_lets +onlyGivenNames x1
  clear_value x1
  extract_lets +onlyGivenNames x2
  clear_value x2
  exact Keeps.rest 131072 (hm.of rfl) (by assumption) rfl

theorem takeReading_keeps {m} {s0 : State} {p1 p2} {p3 : State} (hm : Sub 196644 m) (k : Keeps m s0 p3) :
    Keeps m s0 (takeReading p1 p2 p3) := by
  unfold takeReading
  extract_lets +onlyGivenNames x1
  clear_value x1
  extract_lets +onlyGivenNames x2
  clear_value x2
  extract_lets +onlyGivenNames x3
  clear_value x3
  extract_lets +onlyGivenNames x4
  clear_value x4
  extract_lets +onlyGivenNames x5
  clear_value x5
  extract_lets +onlyGivenNames x6
  clear_value x6
  extract_lets +onlyGivenNames x7
  clear_value x7
  extract_lets +onlyGivenNames x8
  clear_value x8
  extract_lets +onlyGivenNames x9
  clear_value x9
  extract_lets +onlyGivenNames x10
  have h11 : Keeps m s0 x10 := setPage_keeps (hm.of rfl) (by assumption)
  clear_value x10
  extract_lets +onlyGivenNames x12
  have h13 : Keeps m s0 x12 := setMeter_keeps (hm.of rfl) (by assumption)
  clear_value x12
  extract_lets +onlyGivenNames x14
  clear_value x14
  extract_lets +onlyGivenNames x15
  have h16 : Keeps m s0 x15 := by
    unfold x15
    apply Keeps.ite
    · exact addVoltages_keeps (hm.of rfl) (by assumption)
    · assumption
  clear_value x15
  extract_lets +onlyGivenNames x17
  have h18 : Keeps m s0 x17 := by
    unfold x17
    apply Keeps.ite
    · exact queueNow_keeps (hm.of rfl) (by assumption)
    · assumption
  clear_value x17
  exact answerRequest_keeps (hm.of rfl) (by assumption)

theorem takeCreditAck_keeps {m} {s0 : State} {p1 p2} {p3 : State} (hm : Sub 65536 m) (k : Keeps m s0 p3) :
    Keeps m s0 (takeCreditAck p1 p2 p3) := by
  unfold takeCreditAck
  extract_lets +onlyGivenNames x1
  clear_value x1
  extract_lets +onlyGivenNames x2
  have h3 : Keeps m s0 x2 := setMeter_keeps (hm.of rfl) (by assumption)
  clear_value x2
  apply Keeps.ite
  · exact setMeter_keeps (hm.of rfl) (by assumption)
  · assumption

theorem takeEmergency_keeps {m} {s0 : State} {p1 p2} {p3 : State} (hm : Sub 32 m) (k : Keeps m s0 p3) :
    Keeps m s0 (takeEmergency p1 p2 p3) := by
  unfold takeEmergency
  extract_lets +onlyGivenNames x1
  have h2 : Keeps m s0 x1 := setPage_keeps (hm.of rfl) (by assumption)
  clear_value x1
  exact Keeps.upd 32 (hm.of rfl) (by assumption) (Nat.le_refl _) ⟨id, rfl, rfl, rfl⟩ ⟨Nat.le_refl _, id, id, id⟩ ⟨id⟩ rfl

theorem meterEvent_keeps {m} {s0 : State} {p1 p2 p3 p4 p5 p6 p7} {p8 : State} (hm : Sub 65572 m) (k : Keeps m s0 p8) :
    Keeps m s0 (meterEvent p1 p2 p3 p4 p5 p6 p7 p8) := by
  unfold meterEvent
  split
  · rename_i y1 y2
    assumption
  · rename_i y3 y4 y5
    extract_lets +onlyGivenNames x6
    clear_value x6
    apply Keeps.ite
    · assumption
    · extract_lets +onlyGivenNames x7
      have h8 : Keeps m s0 x7 := setMeter_keeps (hm.of rfl) (by assumption)
      clear_value x7
      apply Keeps.ite
      · extract_lets +onlyGivenNames x9
        have h10 : Keeps m s0 x9 := setPage_keeps (hm.of rfl) (by assumption)
        clear_value x9
        exact raiseEvent_keeps (hm.of rfl) (by assumption)
      · apply Keeps.ite
        · extract_lets +onlyGivenNames x11
          have h12 : Keeps m s0 x11 := setPage_keeps (hm.of rfl) (by assumption)
          clear_value x11
          exact raiseEvent_keeps (hm.of rfl) (by assumption)
        · apply Keeps.ite
          · assumption
          · exact raiseEvent_keeps (hm.of rfl) (by assumption)

theorem takeEvent_keeps {m} {s0 : State} {p1 p2} {p3 : State} (hm : Sub 65572 m) (k : Keeps m s0 p3) :
    Keeps m s0 (takeEvent p1 p2 p3) := by
  unfold takeEvent
  exact meterEvent_keeps (hm.of rfl) (by assumption)

theorem takeAlert_keeps {m} {s0 : State} {p1 p2 p3 p4} {p5 : State} (hm : Sub 65572 m) (k : Keeps m s0 p5) :
    Keeps m s0 (takeAlert p1 p2 p3 p4 p5) := by
  unfold takeAlert
  exact meterEvent_keeps (hm.of rfl) (by assumption)

theorem setConn_keeps {m} {s0 : State} {p1 p2 p3} {p4 : State} (hm : Sub 65536 m) (k : Keeps m s0 p4) :
    Keeps m s0 (setConn p1 p2 p3 p4) := by
  unfold setConn
  split
  · rename_i y1 y2 y3
    split
    · rename_i y4 y5 y6
      exact setMtr_keeps (hm.of rfl) (by assumption)
    · rename_i y7 y8
      assumption
  · rename_i y9 y10
    assumption

theorem connEvent_keeps {m} {s0 : State} {p1 p2 p3 p4} {p5 : State} (hm : Sub 4 m) (k : Keeps m s0 p5) :
    Keeps m s0 (connEvent p1 p2 p3 p4 p5) := by
  unfold connEvent
  exact raiseEvent_keeps (hm.of rfl) (by assumption)

theorem identityMismatch_keeps {m} {s0 : State} {p1 p2 p3} {p4 : State} (hm : Sub 108551 m) (k : Keeps m s0 p4) :
    Keeps m s0 (identityMismatch p1 p2 p3 p4) := by
  unfold identityMismatch
  extract_lets +onlyGivenNames x1
  clear_value x1
  extract_lets +onlyGivenNames x2
  have h3 : Keeps m s0 x2 := raiseEvent_keeps (hm.of rfl) (by assumption)
  clear_value x2
  extract_lets +onlyGivenNames x4
  have h5 : Keeps m s0 x4 := meterFault_keeps (hm.of rfl) (by assumption)
  clear_value x4
  apply Keeps.ite
  · with_reducible apply connEvent_keeps (hm.of rfl)
    exact setConn_keeps (hm.of rfl) (by assumption)
  · exact setStem_keeps (hm.of rfl) (by assumption)

theorem fwIdentity_keeps {m} {s0 : State} {p1 p2} {p3 : State} (hm : Sub 65536 m) (k : Keeps m s0 p3) :
    Keeps m s0 (fwIdentity p1 p2 p3) := by
  unfold fwIdentity
  exact setMtr_keeps (hm.of rfl) (by assumption)

theorem takeIdentity_keeps {m} {s0 : State} {p1 p2} {p3 : State} (hm : Sub 108551 m) (k : Keeps m s0 p3) :
    Keeps m s0 (takeIdentity p1 p2 p3) := by
  unfold takeIdentity
  extract_lets +onlyGivenNames x1
  clear_value x1
  split
  · rename_i y2 y3
    assumption
  · rename_i y4 y5 y6
    apply Keeps.ite
    · exact identityMismatch_keeps (hm.of rfl) (by assumption)
    · extract_lets +onlyGivenNames x7
      have h8 : Keeps m s0 x7 := fwIdentity_keeps (hm.of rfl) (by assumption)
      clear_value x7
      extract_lets +onlyGivenNames x9
      have h10 : Keeps m s0 x9 := setMeter_keeps (hm.of rfl) (by assumption)
      clear_value x9
      exact answerRequest_keeps (hm.of rfl) (by assumption)

theorem takeKeyAck_keeps {m} {s0 : State} {p1 p2} {p3 : State} (hm : Sub 65540 m) (k : Keeps m s0 p3) :
    Keeps m s0 (takeKeyAck p1 p2 p3) := by
  unfold takeKeyAck
  extract_lets +onlyGivenNames x1
  clear_value x1
  extract_lets +onlyGivenNames x2
  clear_value x2
  extract_lets +onlyGivenNames x3
  clear_value x3
  apply Keeps.ite
  · split
    · rename_i y4 y5 y6 y7
      apply Keeps.ite
      · extract_lets +onlyGivenNames x8
        have h9 : Keeps m s0 x8 := setMeter_keeps (hm.of rfl) (by assumption)
        clear_value x8
        exact answerRequest_keeps (hm.of rfl) (by assumption)
      · assumption
    · rename_i y10 y11
      assumption
  · exact setMeter_keeps (hm.of rfl) (by assumption)

theorem startKeyChange_keeps {m} {s0 : State} {p1 p2} {p3 : State} (hm : Sub 65536 m) (k : Keeps m s0 p3) :
    Keeps m s0 (startKeyChange p1 p2 p3) := by
  unfold startKeyChange
  split
  · rename_i y1 y2
    assumption
  · rename_i y3 y4 y5
    apply Keeps.ite
    · assumption
    · extract_lets +onlyGivenNames x6
      clear_value x6
      extract_lets +onlyGivenNames x7
      clear_value x7
      extract_lets +onlyGivenNames x8
      have h9 : Keeps m s0 x8 := setMeter_keeps (hm.of rfl) (by assumption)
      clear_value x8
      exact queueMsg_keeps (hm.of rfl) (by assumption)

theorem nextCounter_keeps {m} {s0 : State} {p1} {p2 : State} (hm : Sub 65536 m) (k : Keeps m s0 p2) :
    Keeps m s0 (nextCounter p1 p2).2 := by
  unfold nextCounter
  split
  · rename_i y1 y2
    assumption
  · rename_i y3 y4 y5
    extract_lets +onlyGivenNames x6
    have h7 : Keeps m s0 x6 := setMeter_keeps (hm.of rfl) (by assumption)
    clear_value x6
    apply Keeps.sndMk
    apply Keeps.ite
    · exact startKeyChange_keeps (hm.of rfl) (by assumption)
    · assumption

theorem noteContact_keeps {m} {s0 : State} {p1} {p2 : State} (hm : Sub 65536 m) (k : Keeps m s0 p2) :
    Keeps m s0 (noteContact p1 p2) := by
  unfold noteContact
  exact setMeter_keeps (hm.of rfl) (by assumption)

theorem bindChange_keeps {m} {s0 : State} {p1} {p2 : State} (hm : Sub 98308 m) (k : Keeps m s0 p2) :
    Keeps m s0 (bindChange p1 p2) := by
  unfold bindChange
  split
  · rename_i y1 y2 y3 y4
    apply Keeps.ite
    · extract_lets +onlyGivenNames x5
      clear_value x5
      extract_lets +onlyGivenNames x6
      extract_lets +onlyGivenNames x7
      clear_value x7
      exact setMtr_keeps (hm.of rfl) (by assumption)
    · split
      · rename_i y8 y9
        assumption
      · rename_i y10 y11 y12
        extract_lets +onlyGivenNames x13
        clear_value x13
        extract_lets +onlyGivenNames x14
        have h15 : Keeps m s0 x14 := by
          unfold x14
          split
          · rename_i y16 y17 y18
            exact complete_keeps (hm.of rfl) (by assumption)
          · rename_i y19 y20
            assumption
        clear_value x14
        extract_lets +onlyGivenNames x21
        have h22 : Keeps m s0 x21 := setConn_keeps (hm.of rfl) (by assumption)
        clear_value x21
        extract_lets +onlyGivenNames x23
        have h24 : Keeps m s0 x23 := by
          unfold x23
          split
          · rename_i y25 y26 y27
            apply Keeps.ite
            · assumption
            · exact setStem_keeps (hm.of rfl) (by assumption)
          · rename_i y28 y29
            assumption
        clear_value x23
        exact setMtr_keeps (hm.of rfl) (by assumption)

theorem metersTick_keeps {m} {s0 : State} {p1 : State} (hm : Sub 98308 m) (k : Keeps m s0 p1) :
    Keeps m s0 (metersTick p1) := by
  unfold metersTick
  extract_lets +onlyGivenNames x1
  have h2 : Keeps m s0 x1 := by
    unfold x1
    apply Keeps.foldl
    · intro a3 a5 h8
      exact bindChange_keeps (hm.of rfl) (by assumption)
    · exact setMtr_keeps (hm.of rfl) (by assumption)
  clear_value x1
  apply Keeps.ite
  · exact setMtr_keeps (hm.of rfl) (by assumption)
  · assumption

theorem resumeCounters_keeps {m} {s0 : State} {p1 : State} (hm : Sub 65536 m) (k : Keeps m s0 p1) :
    Keeps m s0 (resumeCounters p1) := by
  unfold resumeCounters
  exact setMtr_keeps (hm.of rfl) (by assumption)

theorem execSepalReading_keeps {m} {s0 : State} {p1} {p2 : State} (hm : Sub 196644 m) (k : Keeps m s0 p2) :
    KeepsR m s0 (execSepalReading p1 p2) := by
  unfold execSepalReading
  apply KeepsR.next
  apply Keeps.ite
  · with_reducible apply onMessage_keeps (hm.of rfl)
    · assumption
    · intro a1 a3 a5 h8
      exact takeReading_keeps (hm.of rfl) (by assumption)
  · assumption

theorem execSepalCreditAck_keeps {m} {s0 : State} {p1} {p2 : State} (hm : Sub 65536 m) (k : Keeps m s0 p2) :
    KeepsR m s0 (execSepalCreditAck p1 p2) := by
  unfold execSepalCreditAck
  apply KeepsR.next
  apply Keeps.ite
  · with_reducible apply onMessage_keeps (hm.of rfl)
    · assumption
    · intro a1 a3 a5 h8
      exact takeCreditAck_keeps (hm.of rfl) (by assumption)
  · assumption

theorem execSepalEvent_keeps {m} {s0 : State} {p1} {p2 : State} (hm : Sub 65572 m) (k : Keeps m s0 p2) :
    KeepsR m s0 (execSepalEvent p1 p2) := by
  unfold execSepalEvent
  apply KeepsR.next
  apply Keeps.ite
  · with_reducible apply onMessage_keeps (hm.of rfl)
    · assumption
    · intro a1 a3 a5 h8
      exact takeEvent_keeps (hm.of rfl) (by assumption)
  · assumption

theorem execSepalEmergencyReq_keeps {m} {s0 : State} {p1} {p2 : State} (hm : Sub 65568 m) (k : Keeps m s0 p2) :
    KeepsR m s0 (execSepalEmergencyReq p1 p2) := by
  unfold execSepalEmergencyReq
  apply KeepsR.next
  apply Keeps.ite
  · with_reducible apply onMessage_keeps (hm.of rfl)
    · assumption
    · intro a1 a3 a5 h8
      exact takeEmergency_keeps (hm.of rfl) (by assumption)
  · assumption

theorem execSepalIdentity_keeps {m} {s0 : State} {p1} {p2 : State} (hm : Sub 108551 m) (k : Keeps m s0 p2) :
    KeepsR m s0 (execSepalIdentity p1 p2) := by
  unfold execSepalIdentity
  apply KeepsR.next
  apply Keeps.ite
  · with_reducible apply onMessage_keeps (hm.of rfl)
    · assumption
    · intro a1 a3 a5 h8
      exact takeIdentity_keeps (hm.of rfl) (by assumption)
  · assumption

theorem execSepalKeyAck_keeps {m} {s0 : State} {p1} {p2 : State} (hm : Sub 65540 m) (k : Keeps m s0 p2) :
    KeepsR m s0 (execSepalKeyAck p1 p2) := by
  unfold execSepalKeyAck
  apply KeepsR.next
  apply Keeps.ite
  · with_reducible apply onMessage_keeps (hm.of rfl)
    · assumption
    · intro a1 a3 a5 h8
      exact takeKeyAck_keeps (hm.of rfl) (by assumption)
  · assumption

theorem execSepalSendGiveup_keeps {m} {s0 : State} {p1} {p2 : State} (hm : Sub 108551 m) (k : Keeps m s0 p2) :
    KeepsR m s0 (execSepalSendGiveup p1 p2) := by
  unfold execSepalSendGiveup
  apply KeepsR.next
  split
  · rename_i y1 y2 y3
    apply Keeps.ite
    · exact giveUp_keeps (hm.of rfl) (by assumption)
    · assumption
  · rename_i y4 y5
    assumption

theorem execMtrRequestTimeout_keeps {m} {s0 : State} {p1} {p2 : State} (hm : Sub 65540 m) (k : Keeps m s0 p2) :
    KeepsR m s0 (execMtrRequestTimeout p1 p2) := by
  unfold execMtrRequestTimeout
  apply KeepsR.next
  split
  · rename_i y1 y2 y3
    extract_lets +onlyGivenNames x4
    have h5 : Keeps m s0 x4 := setMeter_keeps (hm.of rfl) (by assumption)
    clear_value x4
    exact complete_keeps (hm.of rfl) (by assumption)
  · rename_i y6 y7
    assumption

end Sys2Proof.Machine
end

