-- ==== Sys2Proof/Laws/Keeps/PlcMac.lean ====
section
/-!
SUPPORT. What the operations of Machine/PlcMac.lean keep.
-/

namespace Sys2Proof.Machine

theorem sendPlan_keeps {m} {s0 : State} {p1 p2} {p3 : State} (hm : Sub 59399 m) (k : Keeps m s0 p3) :
    Keeps m s0 (sendPlan p1 p2 p3) := by
  unfold sendPlan
  extract_lets +onlyGivenNames x1
  clear_value x1
  extract_lets +onlyGivenNames x2
  clear_value x2
  extract_lets +onlyGivenNames x3
  have h4 : Keeps m s0 x3 := setBridge_keeps (hm.of rfl) (by assumption)
  clear_value x3
  apply Keeps.ite
  · exact setStem_keeps (hm.of rfl) (by assumption)
  · exact sendDown_keeps (hm.of rfl) (by assumption)

theorem sendSamples_keeps {m} {s0 : State} {p1 p2} {p3 : State} (hm : Sub 59399 m) (k : Keeps m s0 p3) :
    Keeps m s0 (sendSamples p1 p2 p3) := by
  unfold sendSamples
  extract_lets +onlyGivenNames x1
  clear_value x1
  extract_lets +onlyGivenNames x2
  clear_value x2
  extract_lets +onlyGivenNames x3
  clear_value x3
  extract_lets +onlyGivenNames x4
  have h5 : Keeps m s0 x4 := setBridge_keeps (hm.of rfl) (by assumption)
  clear_value x4
  apply Keeps.ite
  · assumption
  · apply Keeps.foldl
    · intro a6 a8 h11
      apply Keeps.ite
      · exact sendDown_keeps (hm.of rfl) (by assumption)
      · extract_lets +onlyGivenNames x12
        clear_value x12
        exact sendDown_keeps (hm.of rfl) (by assumption)
    · assumption

theorem withdrawPlans_keeps {m} {s0 : State} {p1} {p2 : State} (hm : Sub 59399 m) (k : Keeps m s0 p2) :
    Keeps m s0 (withdrawPlans p1 p2) := by
  unfold withdrawPlans
  apply Keeps.foldl
  · intro a1 a2 a3
    extract_lets +onlyGivenNames x4
    clear_value x4
    apply Keeps.ite
    · with_reducible apply setBridge_keeps (hm.of rfl)
      exact sendCancel_keeps (hm.of rfl) (by assumption)
    · assumption
  · assumption

theorem setNet_keeps {m} {s0 : State} {p1 p2} {p3 : State} (hm : Sub 32768 m) (k : Keeps m s0 p3) :
    Keeps m s0 (setNet p1 p2 p3) := by
  unfold setNet
  exact setStem_keeps (hm.of rfl) (by assumption)

theorem setNode_keeps {m} {s0 : State} {p1 p2 p3} {p4 : State} (hm : Sub 32768 m) (k : Keeps m s0 p4) :
    Keeps m s0 (setNode p1 p2 p3 p4) := by
  unfold setNode
  exact setNet_keeps (hm.of rfl) (by assumption)

theorem noteSnr_keeps {m} {s0 : State} {p1 p2 p3 p4} {p5 : State} (hm : Sub 32768 m) (k : Keeps m s0 p5) :
    Keeps m s0 (noteSnr p1 p2 p3 p4 p5) := by
  unfold noteSnr
  exact setNet_keeps (hm.of rfl) (by assumption)

theorem routeEvent_keeps {m} {s0 : State} {p1 p2 p3 p4} {p5 : State} (hm : Sub 4 m) (k : Keeps m s0 p5) :
    Keeps m s0 (routeEvent p1 p2 p3 p4 p5) := by
  unfold routeEvent
  exact raiseEvent_keeps (hm.of rfl) (by assumption)

theorem solveNode_keeps {m} {s0 : State} {p1 p2 p3 p4} {p5 : State} (hm : Sub 32772 m) (k : Keeps m s0 p5) :
    Keeps m s0 (solveNode p1 p2 p3 p4 p5) := by
  unfold solveNode
  extract_lets +onlyGivenNames x1
  clear_value x1
  extract_lets +onlyGivenNames x2
  clear_value x2
  extract_lets +onlyGivenNames x3
  clear_value x3
  extract_lets +onlyGivenNames x4
  clear_value x4
  extract_lets +onlyGivenNames x5
  clear_value x5
  extract_lets +onlyGivenNames x6
  clear_value x6
  extract_lets +onlyGivenNames x7
  clear_value x7
  extract_lets +onlyGivenNames x8
  have h9 : Keeps m s0 x8 := setNode_keeps (hm.of rfl) (by assumption)
  clear_value x8
  apply Keeps.ite
  · exact routeEvent_keeps (hm.of rfl) (by assumption)
  · assumption

theorem runRoutes_keeps {m} {s0 : State} {p1} {p2 : State} (hm : Sub 32772 m) (k : Keeps m s0 p2) :
    Keeps m s0 (runRoutes p1 p2) := by
  unfold runRoutes
  extract_lets +onlyGivenNames x1
  clear_value x1
  extract_lets +onlyGivenNames x2
  clear_value x2
  extract_lets +onlyGivenNames x3
  clear_value x3
  apply Keeps.foldl
  · intro a4 a6 h9
    exact solveNode_keeps (hm.of rfl) (by assumption)
  · assumption

theorem observe_keeps {m} {s0 : State} {p1 p2 p3 p4} {p5 : State} (hm : Sub 32768 m) (k : Keeps m s0 p5) :
    Keeps m s0 (observe p1 p2 p3 p4 p5) := by
  unfold observe
  extract_lets +onlyGivenNames x1
  clear_value x1
  apply Keeps.ite
  · assumption
  · extract_lets +onlyGivenNames x2
    clear_value x2
    exact setNode_keeps (hm.of rfl) (by assumption)

theorem runPhases_keeps {m} {s0 : State} {p1} {p2 : State} (hm : Sub 32772 m) (k : Keeps m s0 p2) :
    Keeps m s0 (runPhases p1 p2) := by
  unfold runPhases
  apply Keeps.foldl
  · intro a1 a3 h6
    extract_lets +onlyGivenNames x7
    extract_lets +onlyGivenNames x8
    clear_value x8
    extract_lets +onlyGivenNames x9
    clear_value x9
    split
    · rename_i y10 y11
      apply Keeps.ite
      · assumption
      · extract_lets +onlyGivenNames x12
        have h13 : Keeps m s0 x12 := setNode_keeps (hm.of rfl) (by assumption)
        clear_value x12
        exact raiseEvent_keeps (hm.of rfl) (by assumption)
    · rename_i y14
      assumption
  · assumption

theorem occupy_keeps {m} {s0 : State} {p1 p2 p3 p4} {p5 : State} (hm : Sub 32768 m) (k : Keeps m s0 p5) :
    Keeps m s0 (occupy p1 p2 p3 p4 p5) := by
  unfold occupy
  exact setNet_keeps (hm.of rfl) (by assumption)

theorem buildPoll_keeps {m} {s0 : State} {p1 p2 p3 p4 p5 p6 p7} {p8 : State} (hm : Sub 124935 m) (k : Keeps m s0 p8) :
    Keeps m s0 (buildPoll p1 p2 p3 p4 p5 p6 p7 p8) := by
  unfold buildPoll
  split
  · rename_i y1 y2
    assumption
  · rename_i y3 y4 y5
    extract_lets +onlyGivenNames x6
    clear_value x6
    extract_lets +onlyGivenNames x7
    clear_value x7
    extract_lets +onlyGivenNames x8
    clear_value x8
    extract_lets +onlyGivenNames x9
    clear_value x9
    extract_lets +onlyGivenNames x10
    clear_value x10
    extract_lets +onlyGivenNames x11
    clear_value x11
    extract_lets +onlyGivenNames x12
    clear_value x12
    extract_lets +onlyGivenNames x13
    clear_value x13
    extract_lets +onlyGivenNames x14
    clear_value x14
    extract_lets +onlyGivenNames x15
    clear_value x15
    extract_lets +onlyGivenNames x16
    clear_value x16
    extract_lets +onlyGivenNames x17
    have h18 : Keeps m s0 x17.2 := nextCounter_keeps (hm.of rfl) (by assumption)
    clear_value x17
    extract_lets +onlyGivenNames x19
    have h20 : Keeps m s0 x19.2 := keyFor_keeps (hm.of rfl) (by assumption)
    clear_value x19
    split
    · rename_i y21 y22
      assumption
    · rename_i y23 y24 y25
      extract_lets +onlyGivenNames x26
      clear_value x26
      extract_lets +onlyGivenNames x27
      clear_value x27
      extract_lets +onlyGivenNames x28
      clear_value x28
      extract_lets +onlyGivenNames x29
      clear_value x29
      extract_lets +onlyGivenNames x30
      clear_value x30
      extract_lets +onlyGivenNames x31
      clear_value x31
      extract_lets +onlyGivenNames x32
      have h33 : Keeps m s0 x32 := setNet_keeps (hm.of rfl) (by assumption)
      clear_value x32
      extract_lets +onlyGivenNames x34
      have h35 : Keeps m s0 x34 := setNode_keeps (hm.of rfl) (by assumption)
      clear_value x34
      with_reducible apply sendPlan_keeps (hm.of rfl)
      exact occupy_keeps (hm.of rfl) (by assumption)

theorem planWork_keeps {m} {s0 : State} {p1 p2} {p3 : State} (hm : Sub 124935 m) (k : Keeps m s0 p3) :
    Keeps m s0 (planWork p1 p2 p3) := by
  unfold planWork
  extract_lets +onlyGivenNames x1
  clear_value x1
  extract_lets +onlyGivenNames x2
  clear_value x2
  extract_lets +onlyGivenNames x3
  clear_value x3
  extract_lets +onlyGivenNames x4
  clear_value x4
  extract_lets +onlyGivenNames x5
  clear_value x5
  extract_lets +onlyGivenNames x6
  clear_value x6
  apply Keeps.ite
  · assumption
  · extract_lets +onlyGivenNames x7
    clear_value x7
    extract_lets +onlyGivenNames x8
    have h9 : Keeps m s0 x8 := by
      unfold x8
      apply Keeps.ite
      · apply Keeps.ite
        · assumption
        · exact queueMsg_keeps (hm.of rfl) (by assumption)
      · assumption
    clear_value x8
    extract_lets +onlyGivenNames x10
    have h11 : Keeps m s0 x10.2 := takeMsg_keeps (hm.of rfl) (by assumption)
    clear_value x10
    exact buildPoll_keeps (hm.of rfl) (by assumption)

theorem planAssign_keeps {m} {s0 : State} {p1 p2} {p3 : State} (hm : Sub 124935 m) (k : Keeps m s0 p3) :
    Keeps m s0 (planAssign p1 p2 p3) := by
  unfold planAssign
  split
  · rename_i y1 y2
    exact setNet_keeps (hm.of rfl) (by assumption)
  · rename_i y3 y4 y5
    extract_lets +onlyGivenNames x6
    clear_value x6
    extract_lets +onlyGivenNames x7
    clear_value x7
    extract_lets +onlyGivenNames x8
    clear_value x8
    apply Keeps.ite
    · assumption
    · extract_lets +onlyGivenNames x9
      have h10 : Keeps m s0 x9 := setNet_keeps (hm.of rfl) (by assumption)
      clear_value x9
      extract_lets +onlyGivenNames x11
      have h12 : Keeps m s0 x11 := queueMsg_keeps (hm.of rfl) (by assumption)
      clear_value x11
      extract_lets +onlyGivenNames x13
      have h14 : Keeps m s0 x13.2 := takeMsg_keeps (hm.of rfl) (by assumption)
      clear_value x13
      extract_lets +onlyGivenNames x15
      clear_value x15
      extract_lets +onlyGivenNames x16
      have h17 : Keeps m s0 x16 := setNet_keeps (hm.of rfl) (by assumption)
      clear_value x16
      extract_lets +onlyGivenNames x18
      have h19 : Keeps m s0 x18 := setNode_keeps (hm.of rfl) (by assumption)
      clear_value x18
      exact buildPoll_keeps (hm.of rfl) (by assumption)

theorem planDiscover_keeps {m} {s0 : State} {p1 p2} {p3 : State} (hm : Sub 124935 m) (k : Keeps m s0 p3) :
    Keeps m s0 (planDiscover p1 p2 p3) := by
  unfold planDiscover
  extract_lets +onlyGivenNames x1
  clear_value x1
  extract_lets +onlyGivenNames x2
  clear_value x2
  extract_lets +onlyGivenNames x3
  clear_value x3
  extract_lets +onlyGivenNames x4
  clear_value x4
  extract_lets +onlyGivenNames x5
  clear_value x5
  extract_lets +onlyGivenNames x6
  have h7 : Keeps m s0 x6.2 := drawBytes_keeps (hm.of rfl) (by assumption)
  clear_value x6
  extract_lets +onlyGivenNames x8
  clear_value x8
  extract_lets +onlyGivenNames x9
  clear_value x9
  extract_lets +onlyGivenNames x10
  clear_value x10
  extract_lets +onlyGivenNames x11
  clear_value x11
  apply Keeps.ite
  · assumption
  · extract_lets +onlyGivenNames x12
    have h13 : Keeps m s0 x12 := setMtr_keeps (hm.of rfl) (by assumption)
    clear_value x12
    extract_lets +onlyGivenNames x14
    have h15 : Keeps m s0 x14 := setNet_keeps (hm.of rfl) (by assumption)
    clear_value x14
    with_reducible apply sendPlan_keeps (hm.of rfl)
    exact occupy_keeps (hm.of rfl) (by assumption)

theorem runPoll_keeps {m} {s0 : State} {p1} {p2 : State} (hm : Sub 124935 m) (k : Keeps m s0 p2) :
    Keeps m s0 (runPoll p1 p2) := by
  unfold runPoll
  extract_lets +onlyGivenNames x1
  clear_value x1
  apply Keeps.ite
  · assumption
  · extract_lets +onlyGivenNames x2
    clear_value x2
    extract_lets +onlyGivenNames x3
    have h4 : Keeps m s0 x3 := by
      unfold x3
      apply Keeps.foldl
      · intro a5 a7 h10
        exact planAssign_keeps (hm.of rfl) (by assumption)
      · assumption
    clear_value x3
    extract_lets +onlyGivenNames x11
    have h12 : Keeps m s0 x11 := by
      unfold x11
      apply Keeps.foldl
      · intro a13 a15 h18
        exact planWork_keeps (hm.of rfl) (by assumption)
      · assumption
    clear_value x11
    apply Keeps.foldl
    · intro a19 a21 h24
      exact planDiscover_keeps (hm.of rfl) (by assumption)
    · assumption

theorem creditLinks_keeps {m} {s0 : State} {p1 p2 p3} {p4 : State} (hm : Sub 32768 m) (k : Keeps m s0 p4) :
    Keeps m s0 (creditLinks p1 p2 p3 p4) := by
  unfold creditLinks
  apply Keeps.foldl
  · intro a1 a3 h6
    extract_lets +onlyGivenNames x7
    clear_value x7
    apply Keeps.ite
    · exact setNet_keeps (hm.of rfl) (by assumption)
    · apply Keeps.ite
      · exact setNet_keeps (hm.of rfl) (by assumption)
      · assumption
  · assumption

theorem takeReport_keeps {m} {s0 : State} {p1 p2 p3} {p4 : State} (hm : Sub 32768 m) (k : Keeps m s0 p4) :
    Keeps m s0 (takeReport p1 p2 p3 p4) := by
  unfold takeReport
  apply Keeps.foldl
  · intro a1 a3 h6
    extract_lets +onlyGivenNames x7
    clear_value x7
    extract_lets +onlyGivenNames x8
    clear_value x8
    extract_lets +onlyGivenNames x9
    clear_value x9
    apply Keeps.ite
    · assumption
    · extract_lets +onlyGivenNames x10
      have h11 : Keeps m s0 x10 := noteSnr_keeps (hm.of rfl) (by assumption)
      clear_value x10
      apply Keeps.ite
      · assumption
      · exact setNode_keeps (hm.of rfl) (by assumption)
  · assumption

theorem openPlc_keeps {m} {s0 : State} {p1 p2 p3} {p4 : State} (hm : Sub 92167 m) (k : Keeps m s0 p4) :
    Keeps m s0 (openPlc p1 p2 p3 p4).2 := by
  unfold openPlc
  split
  · rename_i y1 y2
    assumption
  · rename_i y3 y4 y5
    extract_lets +onlyGivenNames x6
    have h7 : Keeps m s0 x6.2 := keyFor_keeps (hm.of rfl) (by assumption)
    clear_value x6
    split
    · rename_i y8 y9
      assumption
    · rename_i y10 y11 y12
      split
      · rename_i y13 y14
        assumption
      · rename_i y15 y16 y17
        split
        · rename_i y18
          assumption
        · rename_i y19
          apply Keeps.sndMk
          exact setMeter_keeps (hm.of rfl) (by assumption)

theorem frameEvidence_keeps {m} {s0 : State} {p1 p2 p3 p4 p5 p6} {p7 : State} (hm : Sub 32768 m) (k : Keeps m s0 p7) :
    Keeps m s0 (frameEvidence p1 p2 p3 p4 p5 p6 p7).2 := by
  unfold frameEvidence
  extract_lets +onlyGivenNames x1
  clear_value x1
  extract_lets +onlyGivenNames x2
  have h3 : Keeps m s0 x2 := noteSnr_keeps (hm.of rfl) (by assumption)
  clear_value x2
  extract_lets +onlyGivenNames x4
  have h5 : Keeps m s0 x4 := by
    unfold x4
    apply Keeps.ite
    · exact setNode_keeps (hm.of rfl) (by assumption)
    · assumption
  clear_value x4
  extract_lets +onlyGivenNames x6
  clear_value x6
  extract_lets +onlyGivenNames x7
  have h8 : Keeps m s0 x7 := by
    unfold x7
    apply Keeps.ite
    · exact takeReport_keeps (hm.of rfl) (by assumption)
    · assumption
  clear_value x7
  apply Keeps.sndMk
  exact observe_keeps (hm.of rfl) (by assumption)

theorem plcResponse_keeps {m} {s0 : State} {p1 p2 p3 p4 p5} {p6 : State} (hm : Sub 124935 m) (k : Keeps m s0 p6) :
    Keeps m s0 (plcResponse p1 p2 p3 p4 p5 p6) := by
  unfold plcResponse
  extract_lets +onlyGivenNames x1
  clear_value x1
  apply Keeps.ite
  · assumption
  · split
    · rename_i y2 y3
      assumption
    · rename_i y4 y5 y6
      apply Keeps.ite
      · assumption
      · extract_lets +onlyGivenNames x7
        clear_value x7
        extract_lets +onlyGivenNames x8
        clear_value x8
        split
        · rename_i y9
          assumption
        · rename_i y10 y11
          split
          · rename_i y12 y13 y14
            have h15 : Keeps m s0 y13 := by
              refine KeepsP.get ?_ y14
              exact openPlc_keeps (hm.of rfl) (by assumption)
            assumption
          · rename_i y16 y17 y18 y19
            have h20 : Keeps m s0 y18 := by
              refine KeepsP.get ?_ y19
              exact openPlc_keeps (hm.of rfl) (by assumption)
            extract_lets +onlyGivenNames x21
            clear_value x21
            extract_lets +onlyGivenNames x22
            clear_value x22
            extract_lets +onlyGivenNames x23
            have h24 : Keeps m s0 x23.2 := frameEvidence_keeps (hm.of rfl) (by assumption)
            clear_value x23
            extract_lets +onlyGivenNames x25
            have h26 : Keeps m s0 x25 := noteContact_keeps (hm.of rfl) (by assumption)
            clear_value x25
            extract_lets +onlyGivenNames x27
            have h28 : Keeps m s0 x27 := setNode_keeps (hm.of rfl) (by assumption)
            clear_value x27
            extract_lets +onlyGivenNames x29
            have h30 : Keeps m s0 x29 := by
              unfold x29
              split
              · rename_i y31 y32
                extract_lets +onlyGivenNames x33
                clear_value x33
                extract_lets +onlyGivenNames x34
                have h35 : Keeps m s0 x34 := by
                  unfold x34
                  apply Keeps.ite
                  · exact queueCredit_keeps (hm.of rfl) (by assumption)
                  · assumption
                clear_value x34
                extract_lets +onlyGivenNames x36
                have h37 : Keeps m s0 x36 := creditLinks_keeps (hm.of rfl) (by assumption)
                clear_value x36
                exact setNet_keeps (hm.of rfl) (by assumption)
              · rename_i y38
                assumption
            clear_value x29
            exact sepalArrive_keeps (hm.of rfl) (by assumption)

theorem plcAlert_keeps {m} {s0 : State} {p1 p2 p3 p4 p5} {p6 : State} (hm : Sub 124967 m) (k : Keeps m s0 p6) :
    Keeps m s0 (plcAlert p1 p2 p3 p4 p5 p6) := by
  unfold plcAlert
  extract_lets +onlyGivenNames x1
  clear_value x1
  apply Keeps.ite
  · assumption
  · split
    · rename_i y2 y3
      assumption
    · rename_i y4 y5 y6
      apply Keeps.ite
      · assumption
      · split
        · rename_i y7 y8
          assumption
        · rename_i y9 y10 y11
          split
          · rename_i y12 y13 y14
            have h15 : Keeps m s0 y13 := by
              refine KeepsP.get ?_ y14
              exact openPlc_keeps (hm.of rfl) (by assumption)
            assumption
          · rename_i y16 y17 y18 y19
            have h20 : Keeps m s0 y18 := by
              refine KeepsP.get ?_ y19
              exact openPlc_keeps (hm.of rfl) (by assumption)
            extract_lets +onlyGivenNames x21
            have h22 : Keeps m s0 x21.2 := frameEvidence_keeps (hm.of rfl) (by assumption)
            clear_value x21
            extract_lets +onlyGivenNames x23
            have h24 : Keeps m s0 x23 := setNode_keeps (hm.of rfl) (by assumption)
            clear_value x23
            with_reducible apply takeAlert_keeps (hm.of rfl)
            exact setNet_keeps (hm.of rfl) (by assumption)

theorem plcReply_keeps {m} {s0 : State} {p1 p2 p3} {p4 : State} (hm : Sub 32772 m) (k : Keeps m s0 p4) :
    Keeps m s0 (plcReply p1 p2 p3 p4) := by
  unfold plcReply
  apply Keeps.ite
  · assumption
  · split
    · rename_i y1 y2
      extract_lets +onlyGivenNames x3
      have h4 : Keeps m s0 x3 := setNet_keeps (hm.of rfl) (by assumption)
      clear_value x3
      exact raiseEvent_keeps (hm.of rfl) (by assumption)
    · rename_i y5 y6 y7
      extract_lets +onlyGivenNames x8
      clear_value x8
      apply Keeps.ite
      · assumption
      · exact setNet_keeps (hm.of rfl) (by assumption)

theorem plcFail_keeps {m} {s0 : State} {p1 p2 p3} {p4 : State} (hm : Sub 32768 m) (k : Keeps m s0 p4) :
    Keeps m s0 (plcFail p1 p2 p3 p4) := by
  unfold plcFail
  split
  · rename_i y1 y2
    assumption
  · rename_i y3 y4 y5
    extract_lets +onlyGivenNames x6
    clear_value x6
    extract_lets +onlyGivenNames x7
    clear_value x7
    extract_lets +onlyGivenNames x8
    have h9 : Keeps m s0 x8 := by
      unfold x8
      apply Keeps.ite
      · assumption
      · exact creditLinks_keeps (hm.of rfl) (by assumption)
    clear_value x8
    extract_lets +onlyGivenNames x10
    clear_value x10
    exact setNet_keeps (hm.of rfl) (by assumption)

theorem startDiscovery_keeps {m} {s0 : State} {p1} {p2 : State} (hm : Sub 32768 m) (k : Keeps m s0 p2) :
    Keeps m s0 (startDiscovery p1 p2) := by
  unfold startDiscovery
  apply Keeps.ite
  · assumption
  · extract_lets +onlyGivenNames x1
    clear_value x1
    exact setNet_keeps (hm.of rfl) (by assumption)

theorem plcRound_keeps {m} {s0 : State} {p1 : State} (hm : Sub 32768 m) (k : Keeps m s0 p1) :
    Keeps m s0 (plcRound p1) := by
  unfold plcRound
  apply Keeps.ite
  · assumption
  · exact setStem_keeps (hm.of rfl) (by assumption)

theorem execPlcResponseRx_keeps {m} {s0 : State} {p1 p2 p3 p4 p5} {p6 : State} (hm : Sub 124935 m) (k : Keeps m s0 p6) :
    KeepsR m s0 (execPlcResponseRx p1 p2 p3 p4 p5 p6) := by
  unfold execPlcResponseRx
  apply KeepsR.next
  exact plcResponse_keeps (hm.of rfl) (by assumption)

theorem execPlcAlertRx_keeps {m} {s0 : State} {p1 p2 p3 p4 p5} {p6 : State} (hm : Sub 124967 m) (k : Keeps m s0 p6) :
    KeepsR m s0 (execPlcAlertRx p1 p2 p3 p4 p5 p6) := by
  unfold execPlcAlertRx
  apply KeepsR.next
  exact plcAlert_keeps (hm.of rfl) (by assumption)

theorem execPlcDiscoverReplyRx_keeps {m} {s0 : State} {p1 p2 p3} {p4 : State} (hm : Sub 32772 m) (k : Keeps m s0 p4) :
    KeepsR m s0 (execPlcDiscoverReplyRx p1 p2 p3 p4) := by
  unfold execPlcDiscoverReplyRx
  apply KeepsR.next
  exact plcReply_keeps (hm.of rfl) (by assumption)

theorem execPlcTransactionFail_keeps {m} {s0 : State} {p1 p2 p3} {p4 : State} (hm : Sub 32768 m) (k : Keeps m s0 p4) :
    KeepsR m s0 (execPlcTransactionFail p1 p2 p3 p4) := by
  unfold execPlcTransactionFail
  apply KeepsR.next
  apply Keeps.ite
  · exact plcFail_keeps (hm.of rfl) (by assumption)
  · assumption

theorem execDiscoverPeriod_keeps {m} {s0 : State} {p1} {p2 : State} (hm : Sub 32768 m) (k : Keeps m s0 p2) :
    KeepsR m s0 (execDiscoverPeriod p1 p2) := by
  unfold execDiscoverPeriod
  apply KeepsR.next
  exact startDiscovery_keeps (hm.of rfl) (by assumption)

end Sys2Proof.Machine
end

