-- ==== Sys2Proof/Laws/Keeps/LvMeter.lean ====
section
/-!
SUPPORT. What the operations of Machine/LvMeter.lean keep.
-/

namespace Sys2Proof.Machine

theorem setBal_keeps {m} {s0 : State} {p1} {p2 : State} (hm : Sub 131072 m) (k : Keeps m s0 p2) :
    Keeps m s0 (setBal p1 p2) := by
  unfold setBal
  exact Keeps.rest 131072 (hm.of rfl) (by assumption) rfl

theorem setNetBal_keeps {m} {s0 : State} {p1 p2} {p3 : State} (hm : Sub 131072 m) (k : Keeps m s0 p3) :
    Keeps m s0 (setNetBal p1 p2 p3) := by
  unfold setNetBal
  exact setBal_keeps (hm.of rfl) (by assumption)

theorem addLvTick_keeps {m} {s0 : State} {p1 p2} {p3 : State} (hm : Sub 163840 m) (k : Keeps m s0 p3) :
    Keeps m s0 (addLvTick p1 p2 p3) := by
  unfold addLvTick
  extract_lets +onlyGivenNames x1
  clear_value x1
  extract_lets +onlyGivenNames x2
  clear_value x2
  extract_lets +onlyGivenNames x3
  have h4 : Keeps m s0 x3 := setNetBal_keeps (hm.of rfl) (by assumption)
  clear_value x3
  exact setBridge_keeps (hm.of rfl) (by assumption)

theorem runLvMeter_keeps {m} {s0 : State} {p1 p2} {p3 : State} (hm : Sub 163840 m) (k : Keeps m s0 p3) :
    Keeps m s0 (runLvMeter p1 p2 p3) := by
  unfold runLvMeter
  extract_lets +onlyGivenNames x1
  clear_value x1
  apply Keeps.ite
  · assumption
  · apply Keeps.ite
    · extract_lets +onlyGivenNames x2
      clear_value x2
      extract_lets +onlyGivenNames x3
      have h4 : Keeps m s0 x3 := by
        unfold x3
        apply Keeps.foldl
        · intro a5 a6 a7
          extract_lets +onlyGivenNames x8
          clear_value x8
          apply Keeps.ite
          · exact addLvTick_keeps (hm.of rfl) (by assumption)
          · assumption
        · assumption
      clear_value x3
      exact setBridge_keeps (hm.of rfl) (by assumption)
    · split
      · rename_i y9 y10 y11
        apply Keeps.ite
        · assumption
        · with_reducible apply setBridge_keeps (hm.of rfl)
          exact addLvTick_keeps (hm.of rfl) (by assumption)
      · rename_i y12 y13
        assumption

theorem localCrossings_keeps {m} {s0 : State} {p1 p2} {p3 : State} (hm : Sub 32768 m) (k : Keeps m s0 p3) :
    Keeps m s0 (localCrossings p1 p2 p3) := by
  unfold localCrossings
  apply Keeps.foldl
  · intro a1 a2 a3
    apply Keeps.ite
    · assumption
    · exact setBridge_keeps (hm.of rfl) (by assumption)
  · assumption

end Sys2Proof.Machine
end

