-- ==== Sys2Proof/Laws/Keeps/Balance.lean ====
section
/-!
SUPPORT. What the operations of Machine/Balance.lean keep.
-/

namespace Sys2Proof.Machine

theorem suspicionEvent_keeps {m} {s0 : State} {p1 p2} {p3 : State} (hm : Sub 4 m) (k : Keeps m s0 p3) :
    Keeps m s0 (suspicionEvent p1 p2 p3) := by
  unfold suspicionEvent
  extract_lets +onlyGivenNames x1
  clear_value x1
  exact raiseEvent_keeps (hm.of rfl) (by assumption)

theorem setSuspicion_keeps {m} {s0 : State} {p1 p2} {p3 : State} (hm : Sub 131072 m) (k : Keeps m s0 p3) :
    Keeps m s0 (setSuspicion p1 p2 p3) := by
  unfold setSuspicion
  exact setBal_keeps (hm.of rfl) (by assumption)

theorem openRecord_keeps {m} {s0 : State} {p1} {p2 : State} (hm : Sub 141319 m) (k : Keeps m s0 p2) :
    Keeps m s0 (openRecord p1 p2) := by
  unfold openRecord
  extract_lets +onlyGivenNames x1
  clear_value x1
  extract_lets +onlyGivenNames x2
  clear_value x2
  extract_lets +onlyGivenNames x3
  clear_value x3
  split
  · rename_i y4 y5
    with_reducible apply reportFault_keeps (hm.of rfl)
    exact setBal_keeps (hm.of rfl) (by assumption)
  · rename_i y6 y7 y8
    with_reducible apply suspicionEvent_keeps (hm.of rfl)
    exact setBal_keeps (hm.of rfl) (by assumption)
  · rename_i y9 y10
    with_reducible apply suspicionEvent_keeps (hm.of rfl)
    exact setBal_keeps (hm.of rfl) (by assumption)

theorem countWindow_keeps {m} {s0 : State} {p1 p2 p3 p4 p5} {p6 : State} (hm : Sub 131076 m) (k : Keeps m s0 p6) :
    Keeps m s0 (countWindow p1 p2 p3 p4 p5 p6) := by
  unfold countWindow
  split
  · rename_i y1 y2
    assumption
  · rename_i y3 y4 y5
    extract_lets +onlyGivenNames x6
    clear_value x6
    extract_lets +onlyGivenNames x7
    clear_value x7
    extract_lets +onlyGivenNames x8
    clear_value x8
    extract_lets +onlyGivenNames x9
    clear_value x9
    apply Keeps.ite
    · extract_lets +onlyGivenNames x10
      clear_value x10
      with_reducible apply suspicionEvent_keeps (hm.of rfl)
      exact setSuspicion_keeps (hm.of rfl) (by assumption)
    · exact setSuspicion_keeps (hm.of rfl) (by assumption)

theorem fireRule_keeps {m} {s0 : State} {p1 p2 p3 p4} {p5 : State} (hm : Sub 141319 m) (k : Keeps m s0 p5) :
    Keeps m s0 (fireRule p1 p2 p3 p4 p5) := by
  unfold fireRule
  split
  · rename_i y1 y2 y3
    assumption
  · rename_i y4 y5
    exact openRecord_keeps (hm.of rfl) (by assumption)

theorem judge_keeps {m} {s0 : State} {p1 p2 p3 p4 p5 p6} {p7 : State} (hm : Sub 141319 m) (k : Keeps m s0 p7) :
    Keeps m s0 (judge p1 p2 p3 p4 p5 p6 p7) := by
  unfold judge
  split
  · rename_i y1 y2 y3
    exact countWindow_keeps (hm.of rfl) (by assumption)
  · rename_i y4 y5
    apply Keeps.ite
    · exact fireRule_keeps (hm.of rfl) (by assumption)
    · assumption

theorem fastRule_keeps {m} {s0 : State} {p1 p2 p3 p4} {p5 : State} (hm : Sub 141319 m) (k : Keeps m s0 p5) :
    Keeps m s0 (fastRule p1 p2 p3 p4 p5) := by
  unfold fastRule
  extract_lets +onlyGivenNames x1
  clear_value x1
  extract_lets +onlyGivenNames x2
  clear_value x2
  extract_lets +onlyGivenNames x3
  clear_value x3
  extract_lets +onlyGivenNames x4
  clear_value x4
  extract_lets +onlyGivenNames x5
  clear_value x5
  extract_lets +onlyGivenNames x6
  clear_value x6
  apply Keeps.ite
  · assumption
  · exact judge_keeps (hm.of rfl) (by assumption)

theorem publishRound_keeps {m} {s0 : State} {p1} {p2 : State} (hm : Sub 141319 m) (k : Keeps m s0 p2) :
    Keeps m s0 (publishRound p1 p2) := by
  unfold publishRound
  extract_lets +onlyGivenNames x1
  clear_value x1
  extract_lets +onlyGivenNames x2
  have h3 : Keeps m s0 x2 := setBal_keeps (hm.of rfl) (by assumption)
  clear_value x2
  extract_lets +onlyGivenNames x4
  have h5 : Keeps m s0 x4 := setNetBal_keeps (hm.of rfl) (by assumption)
  clear_value x4
  extract_lets +onlyGivenNames x6
  clear_value x6
  extract_lets +onlyGivenNames x7
  have h8 : Keeps m s0 x7 := by
    unfold x7
    apply Keeps.ite
    · exact setBal_keeps (hm.of rfl) (by assumption)
    · assumption
  clear_value x7
  apply Keeps.ite
  · extract_lets +onlyGivenNames x9
    clear_value x9
    apply Keeps.foldl
    · intro a10 a12 h15
      exact fastRule_keeps (hm.of rfl) (by assumption)
    · assumption
  · assumption

theorem keepWindow_keeps {m} {s0 : State} {p1} {p2 : State} (hm : Sub 131072 m) (k : Keeps m s0 p2) :
    Keeps m s0 (keepWindow p1 p2) := by
  unfold keepWindow
  exact setBal_keeps (hm.of rfl) (by assumption)

theorem setCount_keeps {m} {s0 : State} {p1 p2 p3} {p4 : State} (hm : Sub 131072 m) (k : Keeps m s0 p4) :
    Keeps m s0 (setCount p1 p2 p3 p4) := by
  unfold setCount
  exact setNetBal_keeps (hm.of rfl) (by assumption)

theorem quarterRules_keeps {m} {s0 : State} {p1 p2 p3} {p4 : State} (hm : Sub 141319 m) (k : Keeps m s0 p4) :
    Keeps m s0 (quarterRules p1 p2 p3 p4) := by
  unfold quarterRules
  extract_lets +onlyGivenNames x1
  clear_value x1
  extract_lets +onlyGivenNames x2
  clear_value x2
  extract_lets +onlyGivenNames x3
  clear_value x3
  extract_lets +onlyGivenNames x4
  clear_value x4
  extract_lets +onlyGivenNames x5
  clear_value x5
  extract_lets +onlyGivenNames x6
  have h7 : Keeps m s0 x6 := setCount_keeps (hm.of rfl) (by assumption)
  clear_value x6
  extract_lets +onlyGivenNames x8
  clear_value x8
  extract_lets +onlyGivenNames x9
  have h10 : Keeps m s0 x9 := by
    unfold x9
    apply Keeps.ite
    · exact judge_keeps (hm.of rfl) (by assumption)
    · assumption
  clear_value x9
  extract_lets +onlyGivenNames x11
  have h12 : Keeps m s0 x11 := by
    unfold x11
    apply Keeps.ite
    · exact judge_keeps (hm.of rfl) (by assumption)
    · assumption
  clear_value x11
  exact countWindow_keeps (hm.of rfl) (by assumption)

theorem hourRules_keeps {m} {s0 : State} {p1 p2 p3} {p4 : State} (hm : Sub 141319 m) (k : Keeps m s0 p4) :
    Keeps m s0 (hourRules p1 p2 p3 p4) := by
  unfold hourRules
  extract_lets +onlyGivenNames x1
  clear_value x1
  extract_lets +onlyGivenNames x2
  clear_value x2
  extract_lets +onlyGivenNames x3
  clear_value x3
  extract_lets +onlyGivenNames x4
  clear_value x4
  extract_lets +onlyGivenNames x5
  have h6 : Keeps m s0 x5 := setCount_keeps (hm.of rfl) (by assumption)
  clear_value x5
  extract_lets +onlyGivenNames x7
  clear_value x7
  extract_lets +onlyGivenNames x8
  have h9 : Keeps m s0 x8 := by
    unfold x8
    apply Keeps.ite
    · exact judge_keeps (hm.of rfl) (by assumption)
    · assumption
  clear_value x8
  extract_lets +onlyGivenNames x10
  clear_value x10
  apply Keeps.ite
  · assumption
  · extract_lets +onlyGivenNames x11
    clear_value x11
    extract_lets +onlyGivenNames x12
    clear_value x12
    extract_lets +onlyGivenNames x13
    clear_value x13
    exact judge_keeps (hm.of rfl) (by assumption)

theorem dayRules_keeps {m} {s0 : State} {p1 p2} {p3 : State} (hm : Sub 141319 m) (k : Keeps m s0 p3) :
    Keeps m s0 (dayRules p1 p2 p3) := by
  unfold dayRules
  apply Keeps.ite
  · assumption
  · apply Keeps.ite
    · extract_lets +onlyGivenNames x1
      clear_value x1
      extract_lets +onlyGivenNames x2
      clear_value x2
      exact judge_keeps (hm.of rfl) (by assumption)
    · apply Keeps.foldl
      · intro a3 a5 h8
        extract_lets +onlyGivenNames x9
        clear_value x9
        exact judge_keeps (hm.of rfl) (by assumption)
      · assumption

theorem keepFeeder_keeps {m} {s0 : State} {p1} {p2 : State} (hm : Sub 131072 m) (k : Keeps m s0 p2) :
    Keeps m s0 (keepFeeder p1 p2) := by
  unfold keepFeeder
  exact setBal_keeps (hm.of rfl) (by assumption)

theorem feederRules_keeps {m} {s0 : State} {p1 p2} {p3 : State} (hm : Sub 141319 m) (k : Keeps m s0 p3) :
    Keeps m s0 (feederRules p1 p2 p3) := by
  unfold feederRules
  apply Keeps.ite
  · assumption
  · extract_lets +onlyGivenNames x1
    clear_value x1
    extract_lets +onlyGivenNames x2
    clear_value x2
    extract_lets +onlyGivenNames x3
    clear_value x3
    extract_lets +onlyGivenNames x4
    have h5 : Keeps m s0 x4 := setBal_keeps (hm.of rfl) (by assumption)
    clear_value x4
    extract_lets +onlyGivenNames x6
    clear_value x6
    with_reducible apply judge_keeps (hm.of rfl)
    exact judge_keeps (hm.of rfl) (by assumption)

theorem settleFeederWindow_keeps {m} {s0 : State} {p1 p2} {p3 : State} (hm : Sub 141319 m) (k : Keeps m s0 p3) :
    Keeps m s0 (settleFeederWindow p1 p2 p3) := by
  unfold settleFeederWindow
  split
  · rename_i y1 y2 y3 y4 y5
    extract_lets +onlyGivenNames x6
    have h7 : Keeps m s0 x6 := keepFeeder_keeps (hm.of rfl) (by assumption)
    clear_value x6
    extract_lets +onlyGivenNames x8
    clear_value x8
    extract_lets +onlyGivenNames x9
    clear_value x9
    extract_lets +onlyGivenNames x10
    have h11 : Keeps m s0 x10 := by
      unfold x10
      apply Keeps.ite
      · with_reducible apply feederRules_keeps (hm.of rfl)
        exact keepFeeder_keeps (hm.of rfl) (by assumption)
      · assumption
    clear_value x10
    extract_lets +onlyGivenNames x12
    clear_value x12
    apply Keeps.ite
    · exact keepFeeder_keeps (hm.of rfl) (by assumption)
    · assumption
  · rename_i y13 y14 y15
    assumption

theorem settleFeeder_keeps {m} {s0 : State} {p1 p2} {p3 : State} (hm : Sub 141319 m) (k : Keeps m s0 p3) :
    Keeps m s0 (settleFeeder p1 p2 p3) := by
  unfold settleFeeder
  split
  · rename_i y1 y2
    assumption
  · rename_i y3 y4 y5
    exact settleFeederWindow_keeps (hm.of rfl) (by assumption)

theorem phaseConflicts_keeps {m} {s0 : State} {p1 p2 p3} {p4 : State} (hm : Sub 4 m) (k : Keeps m s0 p4) :
    Keeps m s0 (phaseConflicts p1 p2 p3 p4) := by
  unfold phaseConflicts
  extract_lets +onlyGivenNames x1
  clear_value x1
  apply Keeps.foldl
  · intro a2 a4 h7
    split
    · rename_i y8 y9 y10 y11 y12 y13
      apply Keeps.ite
      · assumption
      · extract_lets +onlyGivenNames x14
        clear_value x14
        exact raiseEvent_keeps (hm.of rfl) (by assumption)
    · rename_i y15 y16 y17
      assumption
  · assumption

theorem incompleteEvent_keeps {m} {s0 : State} {p1 p2} {p3 : State} (hm : Sub 4 m) (k : Keeps m s0 p3) :
    Keeps m s0 (incompleteEvent p1 p2 p3) := by
  unfold incompleteEvent
  extract_lets +onlyGivenNames x1
  clear_value x1
  apply Keeps.ite
  · exact raiseEvent_keeps (hm.of rfl) (by assumption)
  · assumption

theorem settleLonger_keeps {m} {s0 : State} {p1 p2 p3} {p4 : State} (hm : Sub 141319 m) (k : Keeps m s0 p4) :
    Keeps m s0 (settleLonger p1 p2 p3 p4) := by
  unfold settleLonger
  extract_lets +onlyGivenNames x1
  clear_value x1
  extract_lets +onlyGivenNames x2
  clear_value x2
  extract_lets +onlyGivenNames x3
  have h4 : Keeps m s0 x3 := keepWindow_keeps (hm.of rfl) (by assumption)
  clear_value x3
  extract_lets +onlyGivenNames x5
  have h6 : Keeps m s0 x5 := by
    unfold x5
    apply Keeps.ite
    · apply Keeps.ite
      · apply Keeps.foldl
        · intro a7 a9 h12
          exact hourRules_keeps (hm.of rfl) (by assumption)
        · assumption
      · assumption
    · assumption
  clear_value x5
  extract_lets +onlyGivenNames x13
  clear_value x13
  apply Keeps.ite
  · extract_lets +onlyGivenNames x14
    clear_value x14
    extract_lets +onlyGivenNames x15
    have h16 : Keeps m s0 x15 := by
      unfold x15
      with_reducible apply dayRules_keeps (hm.of rfl)
      exact keepWindow_keeps (hm.of rfl) (by assumption)
    clear_value x15
    exact setNetBal_keeps (hm.of rfl) (by assumption)
  · assumption

theorem settleWindow_keeps {m} {s0 : State} {p1 p2} {p3 : State} (hm : Sub 141319 m) (k : Keeps m s0 p3) :
    Keeps m s0 (settleWindow p1 p2 p3) := by
  unfold settleWindow
  apply Keeps.ite
  · assumption
  · extract_lets +onlyGivenNames x1
    clear_value x1
    extract_lets +onlyGivenNames x2
    clear_value x2
    extract_lets +onlyGivenNames x3
    clear_value x3
    extract_lets +onlyGivenNames x4
    have h5 : Keeps m s0 x4 := keepWindow_keeps (hm.of rfl) (by assumption)
    clear_value x4
    extract_lets +onlyGivenNames x6
    have h7 : Keeps m s0 x6 := setNetBal_keeps (hm.of rfl) (by assumption)
    clear_value x6
    extract_lets +onlyGivenNames x8
    have h9 : Keeps m s0 x8 := by
      unfold x8
      with_reducible apply incompleteEvent_keeps (hm.of rfl)
      exact phaseConflicts_keeps (hm.of rfl) (by assumption)
    clear_value x8
    extract_lets +onlyGivenNames x10
    have h11 : Keeps m s0 x10 := by
      unfold x10
      apply Keeps.ite
      · exact setBal_keeps (hm.of rfl) (by assumption)
      · assumption
    clear_value x10
    extract_lets +onlyGivenNames x12
    clear_value x12
    extract_lets +onlyGivenNames x13
    have h14 : Keeps m s0 x13 := by
      unfold x13
      apply Keeps.ite
      · apply Keeps.foldl
        · intro a15 a17 h20
          exact quarterRules_keeps (hm.of rfl) (by assumption)
        · assumption
      · assumption
    clear_value x13
    with_reducible apply settleFeeder_keeps (hm.of rfl)
    exact settleLonger_keeps (hm.of rfl) (by assumption)

theorem republish_keeps {m} {s0 : State} {p1 p2} {p3 : State} (hm : Sub 131072 m) (k : Keeps m s0 p3) :
    Keeps m s0 (republish p1 p2 p3) := by
  unfold republish
  extract_lets +onlyGivenNames x1
  clear_value x1
  exact setBal_keeps (hm.of rfl) (by assumption)

theorem runBalance_keeps {m} {s0 : State} {p1 p2} {p3 : State} (hm : Sub 141319 m) (k : Keeps m s0 p3) :
    Keeps m s0 (runBalance p1 p2 p3) := by
  unfold runBalance
  extract_lets +onlyGivenNames x1
  clear_value x1
  extract_lets +onlyGivenNames x2
  have h3 : Keeps m s0 x2 := republish_keeps (hm.of rfl) (by assumption)
  clear_value x2
  extract_lets +onlyGivenNames x4
  have h5 : Keeps m s0 x4 := by
    unfold x4
    apply Keeps.ite
    · assumption
    · exact publishRound_keeps (hm.of rfl) (by assumption)
  clear_value x4
  extract_lets +onlyGivenNames x6
  clear_value x6
  apply Keeps.foldl
  · intro a7 a8 a9
    apply Keeps.ite
    · exact settleWindow_keeps (hm.of rfl) (by assumption)
    · assumption
  · assumption

theorem skippedRound_keeps {m} {s0 : State} {p1 p2} {p3 : State} (hm : Sub 141319 m) (k : Keeps m s0 p3) :
    Keeps m s0 (skippedRound p1 p2 p3) := by
  unfold skippedRound
  exact publishRound_keeps (hm.of rfl) (by assumption)

theorem noteLedgerLabel_keeps {m} {s0 : State} {p1} {p2 : State} (hm : Sub 131072 m) (k : Keeps m s0 p2) :
    Keeps m s0 (noteLedgerLabel p1 p2) := by
  unfold noteLedgerLabel
  extract_lets +onlyGivenNames x1
  clear_value x1
  apply Keeps.ite
  · assumption
  · exact setBal_keeps (hm.of rfl) (by assumption)

theorem balanceStep_keeps {m} {s0 : State} {p1 p2} {p3 : State} (hm : Sub 131072 m) (k : Keeps m s0 p3) :
    Keeps m s0 (balanceStep p1 p2 p3) := by
  unfold balanceStep
  extract_lets +onlyGivenNames x1
  clear_value x1
  extract_lets +onlyGivenNames x2
  clear_value x2
  extract_lets +onlyGivenNames x3
  clear_value x3
  extract_lets +onlyGivenNames x4
  have h5 : Keeps m s0 x4 := by
    unfold x4
    apply Keeps.foldl
    · intro a6 a8 h11
      extract_lets +onlyGivenNames x12
      clear_value x12
      extract_lets +onlyGivenNames x13
      clear_value x13
      extract_lets +onlyGivenNames x14
      clear_value x14
      exact setBal_keeps (hm.of rfl) (by assumption)
    · assumption
  clear_value x4
  apply Keeps.ite
  · exact setBal_keeps (hm.of rfl) (by assumption)
  · assumption

theorem feederTick_keeps {m} {s0 : State} {p1 : State} (hm : Sub 141319 m) (k : Keeps m s0 p1) :
    Keeps m s0 (feederTick p1) := by
  unfold feederTick
  extract_lets +onlyGivenNames x1
  clear_value x1
  apply Keeps.foldl
  · intro a2 a3 a4
    apply Keeps.ite
    · assumption
    · extract_lets +onlyGivenNames x5
      clear_value x5
      extract_lets +onlyGivenNames x6
      clear_value x6
      extract_lets +onlyGivenNames x7
      clear_value x7
      extract_lets +onlyGivenNames x8
      have h9 : Keeps m s0 x8 := setBal_keeps (hm.of rfl) (by assumption)
      clear_value x8
      apply Keeps.ite
      · exact settleFeederWindow_keeps (hm.of rfl) (by assumption)
      · assumption
  · assumption

theorem balanceTick_keeps {m} {s0 : State} {p1 : State} (hm : Sub 141319 m) (k : Keeps m s0 p1) :
    Keeps m s0 (balanceTick p1) := by
  unfold balanceTick
  extract_lets +onlyGivenNames x1
  clear_value x1
  extract_lets +onlyGivenNames x2
  clear_value x2
  extract_lets +onlyGivenNames x3
  have h4 : Keeps m s0 x3 := by
    unfold x3
    apply Keeps.foldl
    · intro a5 a7 h10
      apply Keeps.ite
      · assumption
      · exact setNetBal_keeps (hm.of rfl) (by assumption)
    · assumption
  clear_value x3
  extract_lets +onlyGivenNames x11
  have h12 : Keeps m s0 x11 := feederTick_keeps (hm.of rfl) (by assumption)
  clear_value x11
  apply Keeps.ite
  · assumption
  · extract_lets +onlyGivenNames x13
    clear_value x13
    extract_lets +onlyGivenNames x14
    clear_value x14
    apply Keeps.ite
    · assumption
    · apply Keeps.foldl
      · intro a15 a17 h20
        apply Keeps.ite
        · assumption
        · exact skippedRound_keeps (hm.of rfl) (by assumption)
      · assumption

theorem balanceCommit_keeps {m} {s0 : State} {p1} {p2 : State} (hm : Sub 131072 m) (k : Keeps m s0 p2) :
    Keeps m s0 (balanceCommit p1 p2) := by
  unfold balanceCommit
  apply Keeps.ite
  · assumption
  · exact setBal_keeps (hm.of rfl) (by assumption)

theorem coldBalance_keeps {m} {s0 : State} {p1 : State} (hm : Sub 131072 m) (k : Keeps m s0 p1) :
    Keeps m s0 (coldBalance p1) := by
  unfold coldBalance
  exact setBal_keeps (hm.of rfl) (by assumption)

theorem execWindowSettleDeadline_keeps {m} {s0 : State} {p1 p2} {p3 : State} (hm : Sub 141319 m) (k : Keeps m s0 p3) :
    KeepsR m s0 (execWindowSettleDeadline p1 p2 p3) := by
  unfold execWindowSettleDeadline
  apply KeepsR.next
  apply Keeps.ite
  · exact settleWindow_keeps (hm.of rfl) (by assumption)
  · assumption

end Sys2Proof.Machine
end

