-- ==== Sys2Proof/Laws/Keeps/Localise.lean ====
section
/-!
SUPPORT. What the operations of Machine/Localise.lean keep.
-/

namespace Sys2Proof.Machine

theorem localised_keeps {m} {s0 : State} {p1 p2 p3 p4} {p5 : State} (hm : Sub 131076 m) (k : Keeps m s0 p5) :
    Keeps m s0 (localised p1 p2 p3 p4 p5) := by
  unfold localised
  extract_lets +onlyGivenNames x1
  clear_value x1
  extract_lets +onlyGivenNames x2
  clear_value x2
  extract_lets +onlyGivenNames x3
  clear_value x3
  extract_lets +onlyGivenNames x4
  have h5 : Keeps m s0 x4 := setSuspicion_keeps (hm.of rfl) (by assumption)
  clear_value x4
  apply Keeps.ite
  · assumption
  · exact suspicionEvent_keeps (hm.of rfl) (by assumption)

theorem openMismatch_keeps {m} {s0 : State} {p1 p2 p3 p4} {p5 : State} (hm : Sub 141319 m) (k : Keeps m s0 p5) :
    Keeps m s0 (openMismatch p1 p2 p3 p4 p5) := by
  unfold openMismatch
  split
  · rename_i y1 y2 y3
    assumption
  · rename_i y4 y5
    extract_lets +onlyGivenNames x6
    clear_value x6
    extract_lets +onlyGivenNames x7
    clear_value x7
    exact openRecord_keeps (hm.of rfl) (by assumption)

theorem localisePair_keeps {m} {s0 : State} {p1 p2 p3 p4 p5 p6} {p7} (hm : Sub 141319 m) (k : Keeps m s0 p7.2) :
    Keeps m s0 (localisePair p1 p2 p3 p4 p5 p6 p7).2 := by
  unfold localisePair
  split
  · rename_i y1 y2 y3 y4 y5 y6
    extract_lets +onlyGivenNames x7
    clear_value x7
    split
    · rename_i y8 y9 y10 y11 y12 y13
      extract_lets +onlyGivenNames x14
      have h15 : Keeps m s0 x14 := openMismatch_keeps (hm.of rfl) (by assumption)
      clear_value x14
      extract_lets +onlyGivenNames x16
      clear_value x16
      apply Keeps.sndMk
      apply Keeps.foldl
      · intro a17 a19 h22
        exact localised_keeps (hm.of rfl) (by assumption)
      · assumption
    · rename_i y23 y24 y25 y26
      assumption
  · rename_i y27 y28 y29
    assumption

theorem runLocalise_keeps {m} {s0 : State} {p1} {p2 : State} (hm : Sub 141319 m) (k : Keeps m s0 p2) :
    Keeps m s0 (runLocalise p1 p2) := by
  unfold runLocalise
  extract_lets +onlyGivenNames x1
  clear_value x1
  apply Keeps.ite
  · assumption
  · extract_lets +onlyGivenNames x2
    have h3 : Keeps m s0 x2 := setNetBal_keeps (hm.of rfl) (by assumption)
    clear_value x2
    extract_lets +onlyGivenNames x4
    clear_value x4
    extract_lets +onlyGivenNames x5
    clear_value x5
    apply Keeps.ite
    · assumption
    · extract_lets +onlyGivenNames x6
      clear_value x6
      extract_lets +onlyGivenNames x7
      clear_value x7
      extract_lets +onlyGivenNames x8
      clear_value x8
      extract_lets +onlyGivenNames x9
      have h10 : Keeps m s0 x9.2 := by
        unfold x9
        apply Keeps.foldlPair
        · intro a11 a13 h16
          exact localisePair_keeps (hm.of rfl) (by assumption)
        · assumption
      clear_value x9
      apply Keeps.foldl
      · intro a17 a19 h22
        exact localised_keeps (hm.of rfl) (by assumption)
      · assumption

end Sys2Proof.Machine
end

