-- ==== Sys2Proof/Laws/Keeps/LedCommands.lean ====
section
/-!
SUPPORT. What the operations of Machine/LedCommands.lean keep.
-/

namespace Sys2Proof.Machine

theorem cmdLedStatus_keeps {m} (hm : Sub 0 m) : KeepsCmd m cmdLedStatus := by
  unfold cmdLedStatus
  apply KeepsCmd.mk
  intro s0 ctx s k
  extract_lets +onlyGivenNames x1
  clear_value x1
  extract_lets +onlyGivenNames x2
  clear_value x2
  extract_lets +onlyGivenNames x3
  clear_value x3
  exact okWith_keeps (hm.of rfl) (by assumption)

theorem cmdLedAccountRead_keeps {m} (hm : Sub 0 m) : KeepsCmd m cmdLedAccountRead := by
  unfold cmdLedAccountRead
  apply KeepsCmd.mk
  intro s0 ctx s k
  extract_lets +onlyGivenNames x1
  clear_value x1
  extract_lets +onlyGivenNames x2
  clear_value x2
  with_reducible apply checked_keeps (hm.of rfl)
  · assumption
  · apply KeepsA.ite
    · exact fail_keeps (hm.of rfl) (by assumption)
    · extract_lets +onlyGivenNames x3
      clear_value x3
      extract_lets +onlyGivenNames x4
      clear_value x4
      extract_lets +onlyGivenNames x5
      clear_value x5
      exact okWith_keeps (hm.of rfl) (by assumption)

theorem queueOrder_keeps {m} {s0 : State} {p1 p2 p3} {p4 : State} (hm : Sub 32 m) (k : Keeps m s0 p4) :
    Keeps m s0 (queueOrder p1 p2 p3 p4) := by
  unfold queueOrder
  exact Keeps.upd 32 (hm.of rfl) (by assumption) (Nat.le_refl _) ⟨id, rfl, rfl, rfl⟩ ⟨Nat.le_refl _, id, id, id⟩ ⟨id⟩ rfl

theorem cmdLedAccountSet_keeps {m} (hm : Sub 32 m) : KeepsCmd m cmdLedAccountSet := by
  unfold cmdLedAccountSet
  apply KeepsCmd.mk
  intro s0 ctx s k
  with_reducible apply checked_keeps (hm.of rfl)
  · assumption
  · extract_lets +onlyGivenNames x1
    clear_value x1
    apply KeepsA.ite
    · apply KeepsA.accepted
      exact queueOrder_keeps (hm.of rfl) (by assumption)
    · exact fail_keeps (hm.of rfl) (by assumption)

theorem cmdLedAdjust_keeps {m} (hm : Sub 32 m) : KeepsCmd m cmdLedAdjust := by
  unfold cmdLedAdjust
  apply KeepsCmd.mk
  intro s0 ctx s k
  with_reducible apply checked_keeps (hm.of rfl)
  · assumption
  · apply KeepsA.ite
    · apply KeepsA.accepted
      exact queueOrder_keeps (hm.of rfl) (by assumption)
    · exact fail_keeps (hm.of rfl) (by assumption)

theorem cmdLedSupply_keeps {m} (hm : Sub 32 m) : KeepsCmd m cmdLedSupply := by
  unfold cmdLedSupply
  apply KeepsCmd.mk
  intro s0 ctx s k
  with_reducible apply checked_keeps (hm.of rfl)
  · assumption
  · apply KeepsA.ite
    · apply KeepsA.accepted
      exact queueOrder_keeps (hm.of rfl) (by assumption)
    · exact fail_keeps (hm.of rfl) (by assumption)

theorem cmdLedAccountRestore_keeps {m} (hm : Sub 32 m) : KeepsCmd m cmdLedAccountRestore := by
  unfold cmdLedAccountRestore
  apply KeepsCmd.mk
  intro s0 ctx s k
  with_reducible apply checked_keeps (hm.of rfl)
  · assumption
  · extract_lets +onlyGivenNames x1
    clear_value x1
    apply KeepsA.ite
    · apply KeepsA.accepted
      exact queueOrder_keeps (hm.of rfl) (by assumption)
    · exact fail_keeps (hm.of rfl) (by assumption)

theorem cmdLedTariffArm_keeps {m} (hm : Sub 2 m) : KeepsCmd m cmdLedTariffArm := by
  unfold cmdLedTariffArm
  apply KeepsCmd.mk
  intro s0 ctx s k
  extract_lets +onlyGivenNames x1
  clear_value x1
  extract_lets +onlyGivenNames x2
  clear_value x2
  with_reducible apply checked_keeps (hm.of rfl)
  · assumption
  · apply KeepsA.ite
    · exact fail_keeps (hm.of rfl) (by assumption)
    · apply KeepsA.ite
      · exact fail_keeps (hm.of rfl) (by assumption)
      · apply KeepsA.accepted
        exact receiveTransfer_keeps (hm.of rfl) (by assumption)

theorem tariffReceived_keeps {m} {s0 : State} {p1} {p2 : State} (hm : Sub 68 m) (k : Keeps m s0 p2) :
    Keeps m s0 (tariffReceived p1 p2) := by
  unfold tariffReceived
  split
  · rename_i y1 y2 y3 y4
    exact tableFault_keeps (hm.of rfl) (by assumption)
  · rename_i y5 y6 y7
    extract_lets +onlyGivenNames x8
    clear_value x8
    extract_lets +onlyGivenNames x9
    clear_value x9
    split
    · rename_i y10 y11
      exact complete_keeps (hm.of rfl) (by assumption)
    · rename_i y12 y13 y14
      apply Keeps.ite
      · exact complete_keeps (hm.of rfl) (by assumption)
      · apply Keeps.ite
        · exact complete_keeps (hm.of rfl) (by assumption)
        · exact armGen_keeps (hm.of rfl) (by assumption)

theorem applyTariff_keeps {m} {s0 : State} {p1 p2} {p3 : State} (hm : Sub 100 m) (k : Keeps m s0 p3) :
    Keeps m s0 (applyTariff p1 p2 p3) := by
  unfold applyTariff
  extract_lets +onlyGivenNames x1
  have h2 : Keeps m s0 x1.2 := nextGenNumber_keeps (hm.of rfl) (by assumption)
  clear_value x1
  extract_lets +onlyGivenNames x3
  have h4 : Keeps m s0 x3 := by
    unfold x3
    assumption
  extract_lets +onlyGivenNames x5
  clear_value x5
  extract_lets +onlyGivenNames x6
  clear_value x6
  extract_lets +onlyGivenNames x7
  extract_lets +onlyGivenNames x8
  have h9 : Keeps m s0 x8 := by
    unfold x8
    exact Keeps.upd 32 (hm.of rfl) (by assumption) (Nat.le_refl _) ⟨id, rfl, rfl, rfl⟩ ⟨Nat.le_refl _, id, id, id⟩ ⟨id⟩ rfl
  clear_value x8
  extract_lets +onlyGivenNames x10
  have h11 : Keeps m s0 x10 := journal_keeps (hm.of rfl) (by assumption)
  clear_value x10
  extract_lets +onlyGivenNames x12
  have h13 : Keeps m s0 x12 := raiseEvent_keeps (hm.of rfl) (by assumption)
  clear_value x12
  split
  · rename_i y14 y15 y16
    exact complete_keeps (hm.of rfl) (by assumption)
  · rename_i y17 y18
    assumption

theorem billingStep_keeps {m} {s0 : State} {p1 : State} (hm : Sub 32 m) (k : Keeps m s0 p1) :
    Keeps m s0 (billingStep p1) := by
  unfold billingStep
  split
  · rename_i y1 y2 y3 y4
    apply Keeps.ite
    · exact Keeps.upd 32 (hm.of rfl) (by assumption) (Nat.le_refl _) ⟨id, rfl, rfl, rfl⟩ ⟨Nat.le_refl _, id, id, id⟩ ⟨id⟩ rfl
    · assumption
  · rename_i y5 y6
    assumption

theorem cmdLedLocalRead_keeps {m} (hm : Sub 0 m) : KeepsCmd m cmdLedLocalRead := by
  unfold cmdLedLocalRead
  apply KeepsCmd.mk
  intro s0 ctx s k
  extract_lets +onlyGivenNames x1
  clear_value x1
  extract_lets +onlyGivenNames x2
  clear_value x2
  with_reducible apply checked_keeps (hm.of rfl)
  · assumption
  · split
    · rename_i y3 y4
      exact fail_keeps (hm.of rfl) (by assumption)
    · rename_i y5 y6 y7
      extract_lets +onlyGivenNames x8
      clear_value x8
      extract_lets +onlyGivenNames x9
      clear_value x9
      exact okWith_keeps (hm.of rfl) (by assumption)

theorem cmdLedJournalRead_keeps {m} (hm : Sub 6 m) : KeepsCmd m cmdLedJournalRead := by
  unfold cmdLedJournalRead
  apply KeepsCmd.mk
  intro s0 ctx s k
  extract_lets +onlyGivenNames x1
  clear_value x1
  extract_lets +onlyGivenNames x2
  clear_value x2
  extract_lets +onlyGivenNames x3
  clear_value x3
  with_reducible apply checked_keeps (hm.of rfl)
  · assumption
  · split
    · rename_i y4 y5
      exact fail_keeps (hm.of rfl) (by assumption)
    · rename_i y6 y7 y8
      apply KeepsA.ite
      · exact fail_keeps (hm.of rfl) (by assumption)
      · extract_lets +onlyGivenNames x9
        clear_value x9
        extract_lets +onlyGivenNames x10
        have h11 : Keeps m s0 x10 := sendTransfer_keeps (hm.of rfl) (by assumption)
        clear_value x10
        extract_lets +onlyGivenNames x12
        clear_value x12
        apply KeepsA.accepted
        exact complete_keeps (hm.of rfl) (by assumption)

theorem execLedStatus_keeps {m} {s0 : State} {p1} {p2 : State} (hm : Sub 8199 m) (k : Keeps m s0 p2) :
    KeepsR m s0 (execLedStatus p1 p2) := by
  unfold execLedStatus
  apply KeepsR.next
  with_reducible apply submit_keeps (hm.of rfl)
  · assumption
  · exact cmdLedStatus_keeps (hm.of rfl)

theorem execLedAccountRead_keeps {m} {s0 : State} {p1} {p2 : State} (hm : Sub 8199 m) (k : Keeps m s0 p2) :
    KeepsR m s0 (execLedAccountRead p1 p2) := by
  unfold execLedAccountRead
  apply KeepsR.next
  with_reducible apply submit_keeps (hm.of rfl)
  · assumption
  · exact cmdLedAccountRead_keeps (hm.of rfl)

theorem execLedAccountSet_keeps {m} {s0 : State} {p1} {p2 : State} (hm : Sub 8231 m) (k : Keeps m s0 p2) :
    KeepsR m s0 (execLedAccountSet p1 p2) := by
  unfold execLedAccountSet
  apply KeepsR.next
  with_reducible apply submit_keeps (hm.of rfl)
  · assumption
  · exact cmdLedAccountSet_keeps (hm.of rfl)

theorem execLedAdjust_keeps {m} {s0 : State} {p1} {p2 : State} (hm : Sub 8231 m) (k : Keeps m s0 p2) :
    KeepsR m s0 (execLedAdjust p1 p2) := by
  unfold execLedAdjust
  apply KeepsR.next
  with_reducible apply submit_keeps (hm.of rfl)
  · assumption
  · exact cmdLedAdjust_keeps (hm.of rfl)

theorem execLedSupply_keeps {m} {s0 : State} {p1} {p2 : State} (hm : Sub 8231 m) (k : Keeps m s0 p2) :
    KeepsR m s0 (execLedSupply p1 p2) := by
  unfold execLedSupply
  apply KeepsR.next
  with_reducible apply submit_keeps (hm.of rfl)
  · assumption
  · exact cmdLedSupply_keeps (hm.of rfl)

theorem execLedAccountRestore_keeps {m} {s0 : State} {p1} {p2 : State} (hm : Sub 8231 m) (k : Keeps m s0 p2) :
    KeepsR m s0 (execLedAccountRestore p1 p2) := by
  unfold execLedAccountRestore
  apply KeepsR.next
  with_reducible apply submit_keeps (hm.of rfl)
  · assumption
  · exact cmdLedAccountRestore_keeps (hm.of rfl)

theorem execLedTariffArm_keeps {m} {s0 : State} {p1} {p2 : State} (hm : Sub 8199 m) (k : Keeps m s0 p2) :
    KeepsR m s0 (execLedTariffArm p1 p2) := by
  unfold execLedTariffArm
  apply KeepsR.next
  with_reducible apply submit_keeps (hm.of rfl)
  · assumption
  · exact cmdLedTariffArm_keeps (hm.of rfl)

theorem execLedLocalRead_keeps {m} {s0 : State} {p1} {p2 : State} (hm : Sub 8199 m) (k : Keeps m s0 p2) :
    KeepsR m s0 (execLedLocalRead p1 p2) := by
  unfold execLedLocalRead
  apply KeepsR.next
  with_reducible apply submit_keeps (hm.of rfl)
  · assumption
  · exact cmdLedLocalRead_keeps (hm.of rfl)

theorem execLedJournalRead_keeps {m} {s0 : State} {p1} {p2 : State} (hm : Sub 8199 m) (k : Keeps m s0 p2) :
    KeepsR m s0 (execLedJournalRead p1 p2) := by
  unfold execLedJournalRead
  apply KeepsR.next
  with_reducible apply submit_keeps (hm.of rfl)
  · assumption
  · exact cmdLedJournalRead_keeps (hm.of rfl)

end Sys2Proof.Machine
end

