-- ==== Sys2Proof/Laws/Keeps/Tables.lean ====
section
/-!
SUPPORT. What the operations of Machine/Tables.lean keep.
-/

namespace Sys2Proof.Machine

theorem writeTable_keeps {m} {s0 : State} {p2} {p1 : State} (hm : Sub 754352 m) (k : Keeps m s0 p1) :
    Keeps m s0 (writeTable p1 p2) := by
  unfold writeTable
  split
  · rename_i y1 y2
    assumption
  · rename_i y3 y4 y5
    exact Keeps.rest 128 (hm.of rfl) (by assumption) rfl
  · rename_i y6 y7
    exact Keeps.rest 16 (hm.of rfl) (by assumption) rfl
  · rename_i y8 y9
    exact Keeps.upd 32 (hm.of rfl) (by assumption) (Nat.le_refl _) ⟨id, rfl, rfl, rfl⟩ ⟨Nat.le_refl _, id, id, id⟩ ⟨id⟩ rfl
  · rename_i y10 y11
    exact Keeps.rest 512 (hm.of rfl) (by assumption) rfl
  · rename_i y12 y13
    exact Keeps.rest 32768 (hm.of rfl) (by assumption) rfl
  · rename_i y14 y15 y16
    exact Keeps.rest 32768 (hm.of rfl) (by assumption) rfl
  · rename_i y17 y18 y19
    split
    · rename_i y20 y21 y22 y23 y24
      exact Keeps.rest 65536 (hm.of rfl) (by assumption) rfl
    · rename_i y25 y26 y27 y28
      assumption
  · rename_i y29 y30
    exact Keeps.rest 131072 (hm.of rfl) (by assumption) rfl
  · rename_i y31 y32 y33
    exact Keeps.rest 131072 (hm.of rfl) (by assumption) rfl
  · rename_i y34 y35 y36
    exact Keeps.rest 524288 (hm.of rfl) (by assumption) rfl
  · rename_i y37 y38 y39
    exact Keeps.rest 524288 (hm.of rfl) (by assumption) rfl
  · rename_i y40 y41 y42
    exact Keeps.rest 524288 (hm.of rfl) (by assumption) rfl
  · rename_i y43 y44 y45
    assumption
  · rename_i y46 y47 y48
    assumption

theorem keepTable_keeps {m} {s0 : State} {p1} {p2 : State} (hm : Sub 64 m) (k : Keeps m s0 p2) :
    Keeps m s0 (keepTable p1 p2) := by
  unfold keepTable
  extract_lets +onlyGivenNames x1
  clear_value x1
  extract_lets +onlyGivenNames x2
  clear_value x2
  extract_lets +onlyGivenNames x3
  clear_value x3
  exact Keeps.rest 64 (hm.of rfl) (by assumption) rfl

theorem withTables_keeps {m} {s0 : State} {p1 p2} {p3 : State} (hm : Sub 754352 m) (k : Keeps m s0 p3) (h1 : ∀ v1, Keeps m s0 v1 → Keeps m s0 (p2 v1)) :
    Keeps m s0 (withTables p1 p2 p3) := by
  unfold withTables
  extract_lets +onlyGivenNames x1
  clear_value x1
  apply Keeps.ite
  · with_reducible apply h1
    assumption
  · extract_lets +onlyGivenNames x2
    clear_value x2
    apply Keeps.foldl
    · intro a3 a4 a5
      exact writeTable_keeps (hm.of rfl) (by assumption)
    · with_reducible apply h1
      apply Keeps.foldl
      · intro a6 a7 a8
        exact writeTable_keeps (hm.of rfl) (by assumption)
      · assumption

end Sys2Proof.Machine
end

