-- ==== Sys2Proof/Laws/Keeps/Yarrow.lean ====
section
/-!
SUPPORT. What the operations of Machine/Yarrow.lean keep.
-/

namespace Sys2Proof.Machine

theorem setYrw_keeps {m} {s0 : State} {p1} {p2 : State} (hm : Sub 128 m) (k : Keeps m s0 p2) :
    Keeps m s0 (setYrw p1 p2) := by
  unfold setYrw
  exact Keeps.rest 128 (hm.of rfl) (by assumption) rfl

theorem setUmbel_keeps {m} {s0 : State} {p1 p2} {p3 : State} (hm : Sub 128 m) (k : Keeps m s0 p3) :
    Keeps m s0 (setUmbel p1 p2 p3) := by
  unfold setUmbel
  exact setYrw_keeps (hm.of rfl) (by assumption)

theorem countWork_keeps {m} {s0 : State} {p1 p2} {p3 : State} (hm : Sub 128 m) (k : Keeps m s0 p3) :
    Keeps m s0 (countWork p1 p2 p3) := by
  unfold countWork
  exact setYrw_keeps (hm.of rfl) (by assumption)

theorem setTask_keeps {m} {s0 : State} {p1 p2} {p3 : State} (hm : Sub 128 m) (k : Keeps m s0 p3) :
    Keeps m s0 (setTask p1 p2 p3) := by
  unfold setTask
  exact setYrw_keeps (hm.of rfl) (by assumption)

theorem sweepTasks_keeps {m} {s0 : State} {p1 : State} (hm : Sub 128 m) (k : Keeps m s0 p1) :
    Keeps m s0 (sweepTasks p1) := by
  unfold sweepTasks
  exact setYrw_keeps (hm.of rfl) (by assumption)

theorem loadKernel_keeps {m} {s0 : State} {p1 p2} {p3 : State} (hm : Sub 128 m) (k : Keeps m s0 p3) :
    Keeps m s0 (loadKernel p1 p2 p3) := by
  unfold loadKernel
  extract_lets +onlyGivenNames x1
  clear_value x1
  extract_lets +onlyGivenNames x2
  clear_value x2
  extract_lets +onlyGivenNames x3
  clear_value x3
  apply Keeps.ite
  · assumption
  · extract_lets +onlyGivenNames x4
    clear_value x4
    extract_lets +onlyGivenNames x5
    clear_value x5
    exact setYrw_keeps (hm.of rfl) (by assumption)

theorem runUnit_keeps {m} {s0 : State} {p1 p2 p3} {p4 : State} (hm : Sub 754352 m) (k : Keeps m s0 p4) (h1 : ∀ v1 v2 v3 v4, Keeps m s0 v4 → Keeps m s0 (p1 v1 v2 v3 v4)) :
    Keeps m s0 (runUnit p1 p2 p3 p4) := by
  unfold runUnit
  split
  · rename_i y1 y2
    assumption
  · rename_i y3 y4 y5
    extract_lets +onlyGivenNames x6
    have h7 : Keeps m s0 x6 := setTask_keeps (hm.of rfl) (by assumption)
    clear_value x6
    apply Keeps.ite
    · assumption
    · with_reducible apply withTables_keeps (hm.of rfl)
      · assumption
      · intro a8 a9
        with_reducible apply h1
        assumption

theorem startInvocation_keeps {m} {s0 : State} {p1 p2 p3} {p4 : State} (hm : Sub 128 m) (k : Keeps m s0 p4) :
    Keeps m s0 (startInvocation p1 p2 p3 p4) := by
  unfold startInvocation
  extract_lets +onlyGivenNames x1
  clear_value x1
  extract_lets +onlyGivenNames x2
  clear_value x2
  extract_lets +onlyGivenNames x3
  clear_value x3
  extract_lets +onlyGivenNames x4
  clear_value x4
  extract_lets +onlyGivenNames x5
  have h6 : Keeps m s0 x5 := setTask_keeps (hm.of rfl) (by assumption)
  clear_value x5
  extract_lets +onlyGivenNames x7
  have h8 : Keeps m s0 x7 := setYrw_keeps (hm.of rfl) (by assumption)
  clear_value x7
  with_reducible apply countWork_keeps (hm.of rfl)
  exact loadKernel_keeps (hm.of rfl) (by assumption)

theorem resumePreempted_keeps {m} {s0 : State} {p1 p2} {p3 : State} (hm : Sub 128 m) (k : Keeps m s0 p3) :
    Keeps m s0 (resumePreempted p1 p2 p3) := by
  unfold resumePreempted
  exact setYrw_keeps (hm.of rfl) (by assumption)

theorem takeWork_keeps {m} {s0 : State} {p1} {p2 : State} (hm : Sub 128 m) (k : Keeps m s0 p2) :
    Keeps m s0 (takeWork p1 p2) := by
  unfold takeWork
  split
  · rename_i y1 y2 y3 y4
    assumption
  · rename_i y5 y6 y7 y8 y9 y10
    exact startInvocation_keeps (hm.of rfl) (by assumption)
  · rename_i y11 y12 y13 y14 y15
    exact resumePreempted_keeps (hm.of rfl) (by assumption)
  · rename_i y16 y17 y18 y19 y20 y21 y22
    apply Keeps.ite
    · exact startInvocation_keeps (hm.of rfl) (by assumption)
    · exact resumePreempted_keeps (hm.of rfl) (by assumption)

theorem saveInvocation_keeps {m} {s0 : State} {p1 p2} {p3 : State} (hm : Sub 128 m) (k : Keeps m s0 p3) :
    Keeps m s0 (saveInvocation p1 p2 p3) := by
  unfold saveInvocation
  exact setYrw_keeps (hm.of rfl) (by assumption)

theorem preemptMany_keeps {m} {s0 : State} {p1} {p2 : State} (hm : Sub 128 m) (k : Keeps m s0 p2) :
    Keeps m s0 (preemptMany p1 p2) := by
  fun_induction preemptMany
  · rename_i y1
    assumption
  · rename_i y2 y3 y4 y5 y6 y7 y8 y9
    with_reducible apply y9
    exact saveInvocation_keeps (hm.of rfl) (by assumption)
  · rename_i y10 y11 y12 y13 y14 y15 y16
    assumption
  · rename_i y17 y18 y19 y20
    assumption

theorem preemptForCritical_keeps {m} {s0 : State} {p1 : State} (hm : Sub 128 m) (k : Keeps m s0 p1) :
    Keeps m s0 (preemptForCritical p1) := by
  unfold preemptForCritical
  exact preemptMany_keeps (hm.of rfl) (by assumption)

theorem releasePage_keeps {m} {s0 : State} {p1 p2} {p3 : State} (hm : Sub 128 m) (k : Keeps m s0 p3) :
    Keeps m s0 (releasePage p1 p2 p3) := by
  unfold releasePage
  split
  · rename_i y1 y2 y3
    exact setYrw_keeps (hm.of rfl) (by assumption)
  · rename_i y4 y5
    assumption

theorem clearFloret_keeps {m} {s0 : State} {p1} {p2 : State} (hm : Sub 128 m) (k : Keeps m s0 p2) :
    Keeps m s0 (clearFloret p1 p2) := by
  unfold clearFloret
  split
  · rename_i y1 y2 y3
    with_reducible apply releasePage_keeps (hm.of rfl)
    exact setYrw_keeps (hm.of rfl) (by assumption)
  · rename_i y4 y5
    assumption

theorem drawCycles_keeps {m} {s0 : State} {p1 p2} {p3 : State} (hm : Sub 1 m) (k : Keeps m s0 p3) :
    Keeps m s0 (drawCycles p1 p2 p3).2 := by
  unfold drawCycles
  exact draw_keeps (hm.of rfl) (by assumption)

theorem completeInvocation_keeps {m} {s0 : State} {p1 p2 p3} {p4 : State} (hm : Sub 754353 m) (k : Keeps m s0 p4) (h1 : ∀ v1 v2 v3 v4, Keeps m s0 v4 → Keeps m s0 (p1 v1 v2 v3 v4)) :
    Keeps m s0 (completeInvocation p1 p2 p3 p4) := by
  unfold completeInvocation
  split
  · rename_i y1 y2
    assumption
  · rename_i y3 y4 y5
    apply Keeps.ite
    · assumption
    · extract_lets +onlyGivenNames x6
      have h7 : Keeps m s0 x6.2 := drawCycles_keeps (hm.of rfl) (by assumption)
      clear_value x6
      extract_lets +onlyGivenNames x8
      clear_value x8
      extract_lets +onlyGivenNames x9
      have h10 : Keeps m s0 x9 := by
        unfold x9
        with_reducible apply runUnit_keeps (hm.of rfl)
        · with_reducible apply clearFloret_keeps (hm.of rfl)
          assumption
        · intro a11 a12 a13 a14 a15
          with_reducible apply h1
          assumption
      clear_value x9
      extract_lets +onlyGivenNames x16
      have h17 : Keeps m s0 x16 := countWork_keeps (hm.of rfl) (by assumption)
      clear_value x16
      extract_lets +onlyGivenNames x18
      have h19 : Keeps m s0 x18 := setYrw_keeps (hm.of rfl) (by assumption)
      clear_value x18
      with_reducible apply sweepTasks_keeps (hm.of rfl)
      exact setTask_keeps (hm.of rfl) (by assumption)

theorem returnInvocation_keeps {m} {s0 : State} {p1} {p2 : State} (hm : Sub 128 m) (k : Keeps m s0 p2) :
    Keeps m s0 (returnInvocation p1 p2) := by
  unfold returnInvocation
  exact setTask_keeps (hm.of rfl) (by assumption)

theorem returnHeld_keeps {m} {s0 : State} {p1} {p2 : State} (hm : Sub 128 m) (k : Keeps m s0 p2) :
    Keeps m s0 (returnHeld p1 p2) := by
  unfold returnHeld
  extract_lets +onlyGivenNames x1
  have h2 : Keeps m s0 x1 := by
    unfold x1
    split
    · rename_i y3 y4 y5
      with_reducible apply returnInvocation_keeps (hm.of rfl)
      exact clearFloret_keeps (hm.of rfl) (by assumption)
    · rename_i y6 y7
      assumption
  clear_value x1
  extract_lets +onlyGivenNames x8
  have h9 : Keeps m s0 x8 := by
    unfold x8
    apply Keeps.foldl
    · intro a10 a11 a12
      exact returnInvocation_keeps (hm.of rfl) (by assumption)
    · assumption
  clear_value x8
  exact setYrw_keeps (hm.of rfl) (by assumption)

theorem returnUmbel_keeps {m} {s0 : State} {p1} {p2 : State} (hm : Sub 128 m) (k : Keeps m s0 p2) :
    Keeps m s0 (returnUmbel p1 p2) := by
  unfold returnUmbel
  apply Keeps.foldl
  · intro a1 a2 a3
    exact returnHeld_keeps (hm.of rfl) (by assumption)
  · assumption

theorem pageArrived_keeps {m} {s0 : State} {p1} {p2 : State} (hm : Sub 128 m) (k : Keeps m s0 p2) :
    Keeps m s0 (pageArrived p1 p2) := by
  unfold pageArrived
  split
  · rename_i y1 y2 y3
    apply Keeps.ite
    · exact setYrw_keeps (hm.of rfl) (by assumption)
    · assumption
  · rename_i y4 y5
    assumption

theorem skipEffect_keeps {m} {s0 : State} {p1 p2} {p3 : State} (hm : Sub 524288 m) (k : Keeps m s0 p3) :
    Keeps m s0 (skipEffect p1 p2 p3) := by
  unfold skipEffect
  apply Keeps.ite
  · exact Keeps.rest 524288 (hm.of rfl) (by assumption) rfl
  · apply Keeps.ite
    · extract_lets +onlyGivenNames x1
      clear_value x1
      exact Keeps.rest 524288 (hm.of rfl) (by assumption) rfl
    · apply Keeps.ite
      · exact Keeps.rest 524288 (hm.of rfl) (by assumption) rfl
      · assumption

theorem skipUnit_keeps {m} {s0 : State} {p1 p2} {p3 : State} (hm : Sub 534663 m) (k : Keeps m s0 p3) :
    Keeps m s0 (skipUnit p1 p2 p3) := by
  unfold skipUnit
  extract_lets +onlyGivenNames x1
  have h2 : Keeps m s0 x1 := countWork_keeps (hm.of rfl) (by assumption)
  clear_value x1
  with_reducible apply reportFault_keeps (hm.of rfl)
  exact skipEffect_keeps (hm.of rfl) (by assumption)

theorem rollFault_keeps {m} {s0 : State} {p1 : State} (hm : Sub 128 m) (k : Keeps m s0 p1) :
    Keeps m s0 (rollFault p1) := by
  unfold rollFault
  split
  · rename_i y1 y2 y3
    extract_lets +onlyGivenNames x4
    clear_value x4
    exact setYrw_keeps (hm.of rfl) (by assumption)
  · rename_i y5 y6
    assumption

theorem taskFault_keeps {m} {s0 : State} {p1} {p2 : State} (hm : Sub 534663 m) (k : Keeps m s0 p2) :
    Keeps m s0 (taskFault p1 p2) := by
  unfold taskFault
  split
  · rename_i y1 y2
    assumption
  · rename_i y3 y4 y5
    extract_lets +onlyGivenNames x6
    have h7 : Keeps m s0 x6 := clearFloret_keeps (hm.of rfl) (by assumption)
    clear_value x6
    extract_lets +onlyGivenNames x8
    have h9 : Keeps m s0 x8 := countWork_keeps (hm.of rfl) (by assumption)
    clear_value x8
    extract_lets +onlyGivenNames x10
    have h11 : Keeps m s0 x10 := by
      unfold x10
      apply Keeps.ite
      · exact rollFault_keeps (hm.of rfl) (by assumption)
      · assumption
    clear_value x10
    split
    · rename_i y12 y13
      assumption
    · rename_i y14 y15 y16
      apply Keeps.ite
      · with_reducible apply sweepTasks_keeps (hm.of rfl)
        with_reducible apply setTask_keeps (hm.of rfl)
        exact skipUnit_keeps (hm.of rfl) (by assumption)
      · exact setTask_keeps (hm.of rfl) (by assumption)

theorem releaseTask_keeps {m} {s0 : State} {p1 p2 p3 p4} {p5 : State} (hm : Sub 10375 m) (k : Keeps m s0 p5) :
    Keeps m s0 (releaseTask p1 p2 p3 p4 p5) := by
  unfold releaseTask
  apply Keeps.ite
  · assumption
  · extract_lets +onlyGivenNames x1
    clear_value x1
    extract_lets +onlyGivenNames x2
    clear_value x2
    extract_lets +onlyGivenNames x3
    have h4 : Keeps m s0 x3 := setYrw_keeps (hm.of rfl) (by assumption)
    clear_value x3
    apply Keeps.ite
    · with_reducible apply raiseEvent_keeps (hm.of rfl)
      exact reportFault_keeps (hm.of rfl) (by assumption)
    · assumption

theorem releaseTickTask_keeps {m} {s0 : State} {p1 p2 p4} {p3 : State} (hm : Sub 10375 m) (k : Keeps m s0 p3) :
    Keeps m s0 (releaseTickTask p1 p2 p3 p4) := by
  unfold releaseTickTask
  extract_lets +onlyGivenNames x1
  clear_value x1
  split
  · rename_i y2 y3 y4
    exact setTask_keeps (hm.of rfl) (by assumption)
  · rename_i y5 y6
    exact releaseTask_keeps (hm.of rfl) (by assumption)

theorem releaseTick_keeps {m} {s0 : State} {p1 p2 p3} {p4 : State} (hm : Sub 10375 m) (k : Keeps m s0 p4) :
    Keeps m s0 (releaseTick p1 p2 p3 p4) := by
  unfold releaseTick
  apply Keeps.foldl
  · intro a1 a3 h6
    exact releaseTickTask_keeps (hm.of rfl) (by assumption)
  · assumption

theorem releaseRound_keeps {m} {s0 : State} {p1 p2} {p3 : State} (hm : Sub 10375 m) (k : Keeps m s0 p3) :
    Keeps m s0 (releaseRound p1 p2 p3) := by
  unfold releaseRound
  apply Keeps.foldl
  · intro a1 a3 h6
    exact releaseTask_keeps (hm.of rfl) (by assumption)
  · assumption

theorem stagePages_keeps {m} {s0 : State} {p1 p2} {p3 : State} (hm : Sub 128 m) (k : Keeps m s0 p3) :
    Keeps m s0 (stagePages p1 p2 p3) := by
  unfold stagePages
  extract_lets +onlyGivenNames x1
  clear_value x1
  exact setYrw_keeps (hm.of rfl) (by assumption)

theorem releaseAhead_keeps {m} {s0 : State} {p1} {p2 : State} (hm : Sub 10375 m) (k : Keeps m s0 p2) :
    Keeps m s0 (releaseAhead p1 p2) := by
  unfold releaseAhead
  apply Keeps.ite
  · extract_lets +onlyGivenNames x1
    clear_value x1
    extract_lets +onlyGivenNames x2
    clear_value x2
    extract_lets +onlyGivenNames x3
    have h4 : Keeps m s0 x3 := setYrw_keeps (hm.of rfl) (by assumption)
    clear_value x3
    apply Keeps.foldl
    · intro a5 a7 h10
      exact releaseTask_keeps (hm.of rfl) (by assumption)
    · assumption
  · assumption

theorem dropTasks_keeps {m} {s0 : State} {p1} {p2 : State} (hm : Sub 128 m) (k : Keeps m s0 p2) :
    Keeps m s0 (dropTasks p1 p2) := by
  unfold dropTasks
  extract_lets +onlyGivenNames x1
  clear_value x1
  exact setYrw_keeps (hm.of rfl) (by assumption)

theorem settleAhead_keeps {m} {s0 : State} {p1 p2 p3 p4} {p5 : State} (hm : Sub 160 m) (k : Keeps m s0 p5) (h1 : ∀ v1 v2 v3 v4, Keeps m s0 v4 → Keeps m s0 (p1 v1 v2 v3 v4)) :
    Keeps m s0 (settleAhead p1 p2 p3 p4 p5) := by
  unfold settleAhead
  split
  · rename_i y1 y2
    assumption
  · rename_i y3 y4 y5
    extract_lets +onlyGivenNames x6
    have h7 : Keeps m s0 x6 := setYrw_keeps (hm.of rfl) (by assumption)
    clear_value x6
    extract_lets +onlyGivenNames x8
    clear_value x8
    extract_lets +onlyGivenNames x9
    clear_value x9
    apply Keeps.ite
    · extract_lets +onlyGivenNames x10
      have h11 : Keeps m s0 x10 := setYrw_keeps (hm.of rfl) (by assumption)
      clear_value x10
      apply Keeps.foldl
      · intro a12 a14 h17
        apply Keeps.foldl
        · intro a18 a20 h23
          with_reducible apply h1
          assumption
        · assumption
      · assumption
    · extract_lets +onlyGivenNames x24
      have h25 : Keeps m s0 x24 := dropTasks_keeps (hm.of rfl) (by assumption)
      clear_value x24
      apply Keeps.ite
      · assumption
      · exact Keeps.upd 32 (hm.of rfl) (by assumption) (Nat.le_refl _) ⟨id, rfl, rfl, rfl⟩ ⟨Nat.le_refl _, id, id, id⟩ ⟨id⟩ rfl

theorem dispatch_keeps {m} {s0 : State} {p1 p2} {p3 : State} (hm : Sub 10375 m) (k : Keeps m s0 p3) :
    Keeps m s0 (dispatch p1 p2 p3) := by
  unfold dispatch
  apply Keeps.ite
  · assumption
  · extract_lets +onlyGivenNames x1
    have h2 : Keeps m s0 x1 := preemptForCritical_keeps (hm.of rfl) (by assumption)
    clear_value x1
    apply Keeps.ite
    · assumption
    · extract_lets +onlyGivenNames x3
      have h4 : Keeps m s0 x3 := by
        unfold x3
        apply Keeps.ite
        · exact releaseAhead_keeps (hm.of rfl) (by assumption)
        · assumption
      clear_value x3
      exact takeWork_keeps (hm.of rfl) (by assumption)

theorem wiltTask_keeps {m} {s0 : State} {p1} {p2 : State} (hm : Sub 128 m) (k : Keeps m s0 p2) :
    Keeps m s0 (wiltTask p1 p2) := by
  unfold wiltTask
  extract_lets +onlyGivenNames x1
  have h2 : Keeps m s0 x1 := setTask_keeps (hm.of rfl) (by assumption)
  clear_value x1
  with_reducible apply countWork_keeps (hm.of rfl)
  exact setYrw_keeps (hm.of rfl) (by assumption)

theorem wiltAll_keeps {m} {s0 : State} {p1 : State} (hm : Sub 128 m) (k : Keeps m s0 p1) :
    Keeps m s0 (wiltAll p1) := by
  unfold wiltAll
  apply Keeps.foldl
  · intro a1 a3 h6
    exact wiltTask_keeps (hm.of rfl) (by assumption)
  · assumption

theorem deadlineMiss_keeps {m} {s0 : State} {p1} {p2 : State} (hm : Sub 10375 m) (k : Keeps m s0 p2) :
    Keeps m s0 (deadlineMiss p1 p2) := by
  unfold deadlineMiss
  split
  · rename_i y1 y2
    assumption
  · rename_i y3 y4 y5
    extract_lets +onlyGivenNames x6
    have h7 : Keeps m s0 x6 := setTask_keeps (hm.of rfl) (by assumption)
    clear_value x6
    extract_lets +onlyGivenNames x8
    have h9 : Keeps m s0 x8 := countWork_keeps (hm.of rfl) (by assumption)
    clear_value x8
    extract_lets +onlyGivenNames x10
    have h11 : Keeps m s0 x10 := setYrw_keeps (hm.of rfl) (by assumption)
    clear_value x10
    extract_lets +onlyGivenNames x12
    have h13 : Keeps m s0 x12.2 := draw_keeps (hm.of rfl) (by assumption)
    clear_value x12
    with_reducible apply raiseEvent_keeps (hm.of rfl)
    exact reportFault_keeps (hm.of rfl) (by assumption)

theorem sliceBoundary_keeps {m} {s0 : State} {p1 p2} {p3 : State} (hm : Sub 128 m) (k : Keeps m s0 p3) :
    Keeps m s0 (sliceBoundary p1 p2 p3) := by
  unfold sliceBoundary
  split
  · rename_i y1 y2
    assumption
  · rename_i y3 y4 y5
    apply Keeps.ite
    · assumption
    · extract_lets +onlyGivenNames x6
      have h7 : Keeps m s0 x6 := by
        unfold x6
        split
        · rename_i y8 y9 y10
          apply Keeps.ite
          · exact wiltTask_keeps (hm.of rfl) (by assumption)
          · assumption
        · rename_i y11 y12
          assumption
      clear_value x6
      apply Keeps.ite
      · exact returnHeld_keeps (hm.of rfl) (by assumption)
      · apply Keeps.ite
        · assumption
        · split
          · rename_i y13 y14 y15 y16
            apply Keeps.ite
            · with_reducible apply startInvocation_keeps (hm.of rfl)
              exact saveInvocation_keeps (hm.of rfl) (by assumption)
            · assumption
          · rename_i y17 y18
            assumption

theorem gateUmbels_keeps {m} {s0 : State} {p1 : State} (hm : Sub 128 m) (k : Keeps m s0 p1) :
    Keeps m s0 (gateUmbels p1) := by
  unfold gateUmbels
  extract_lets +onlyGivenNames x1
  clear_value x1
  extract_lets +onlyGivenNames x2
  clear_value x2
  extract_lets +onlyGivenNames x3
  clear_value x3
  exact setYrw_keeps (hm.of rfl) (by assumption)

theorem allocateRound_keeps {m} {s0 : State} {p1 : State} (hm : Sub 10375 m) (k : Keeps m s0 p1) :
    Keeps m s0 (allocateRound p1) := by
  unfold allocateRound
  extract_lets +onlyGivenNames x1
  have h2 : Keeps m s0 x1 := setYrw_keeps (hm.of rfl) (by assumption)
  clear_value x1
  extract_lets +onlyGivenNames x3
  have h4 : Keeps m s0 x3 := gateUmbels_keeps (hm.of rfl) (by assumption)
  clear_value x3
  extract_lets +onlyGivenNames x5
  clear_value x5
  extract_lets +onlyGivenNames x6
  clear_value x6
  extract_lets +onlyGivenNames x7
  clear_value x7
  extract_lets +onlyGivenNames x8
  clear_value x8
  extract_lets +onlyGivenNames x9
  clear_value x9
  extract_lets +onlyGivenNames x10
  clear_value x10
  extract_lets +onlyGivenNames x11
  have h12 : Keeps m s0 x11 := setYrw_keeps (hm.of rfl) (by assumption)
  clear_value x11
  apply Keeps.ite
  · exact reportFault_keeps (hm.of rfl) (by assumption)
  · apply Keeps.ite
    · exact raiseFault_keeps (hm.of rfl) (by assumption)
    · apply Keeps.ite
      · exact endFault_keeps (hm.of rfl) (by assumption)
      · assumption

theorem ungateUmbels_keeps {m} {s0 : State} {p1 : State} (hm : Sub 128 m) (k : Keeps m s0 p1) :
    Keeps m s0 (ungateUmbels p1) := by
  unfold ungateUmbels
  apply Keeps.ite
  · exact setYrw_keeps (hm.of rfl) (by assumption)
  · assumption

theorem promoteTick_keeps {m} {s0 : State} {p1} {p2 : State} (hm : Sub 128 m) (k : Keeps m s0 p2) :
    Keeps m s0 (promoteTick p1 p2) := by
  unfold promoteTick
  exact setYrw_keeps (hm.of rfl) (by assumption)

theorem closeTickCycles_keeps {m} {s0 : State} {p1 : State} (hm : Sub 128 m) (k : Keeps m s0 p1) :
    Keeps m s0 (closeTickCycles p1) := by
  unfold closeTickCycles
  exact setYrw_keeps (hm.of rfl) (by assumption)

end Sys2Proof.Machine
end

