-- ==== Sys2Proof/Laws/Keeps/Umbels.lean ====
section
/-!
SUPPORT. What the operations of Machine/Umbels.lean keep.
-/

namespace Sys2Proof.Machine

theorem umbelGoto_keeps {m} {s0 : State} {p1 p2 p3} {p4 : State} (hm : Sub 132 m) (k : Keeps m s0 p4) :
    Keeps m s0 (umbelGoto p1 p2 p3 p4) := by
  unfold umbelGoto
  extract_lets +onlyGivenNames x1
  clear_value x1
  extract_lets +onlyGivenNames x2
  have h3 : Keeps m s0 x2 := setUmbel_keeps (hm.of rfl) (by assumption)
  clear_value x2
  exact raiseEvent_keeps (hm.of rfl) (by assumption)

theorem startUmbelTest_keeps {m} {s0 : State} {p1} {p2 : State} (hm : Sub 10375 m) (k : Keeps m s0 p2) :
    Keeps m s0 (startUmbelTest p1 p2) := by
  unfold startUmbelTest
  extract_lets +onlyGivenNames x1
  have h2 : Keeps m s0 x1 := setUmbel_keeps (hm.of rfl) (by assumption)
  clear_value x1
  split
  · rename_i y3 y4 y5
    apply Keeps.foldl
    · intro a6 a7 a8
      exact releaseTask_keeps (hm.of rfl) (by assumption)
    · assumption
  · rename_i y9 y10
    assumption

theorem endUmbelTest_keeps {m} {s0 : State} {p1} {p2 : State} (hm : Sub 128 m) (k : Keeps m s0 p2) :
    Keeps m s0 (endUmbelTest p1 p2) := by
  unfold endUmbelTest
  extract_lets +onlyGivenNames x1
  clear_value x1
  exact dropTasks_keeps (hm.of rfl) (by assumption)

theorem moveGrants_keeps {m} {s0 : State} {p1 p2} {p3 : State} (hm : Sub 128 m) (k : Keeps m s0 p3) :
    Keeps m s0 (moveGrants p1 p2 p3) := by
  unfold moveGrants
  apply Keeps.foldl
  · intro a1 a3 h6
    extract_lets +onlyGivenNames x7
    clear_value x7
    exact setYrw_keeps (hm.of rfl) (by assumption)
  · assumption

theorem insertSpare_keeps {m} {s0 : State} {p1} {p2 : State} (hm : Sub 132 m) (k : Keeps m s0 p2) :
    Keeps m s0 (insertSpare p1 p2) := by
  unfold insertSpare
  split
  · rename_i y1 y2
    assumption
  · rename_i y3 y4 y5 y6
    with_reducible apply moveGrants_keeps (hm.of rfl)
    with_reducible apply umbelGoto_keeps (hm.of rfl)
    exact setUmbel_keeps (hm.of rfl) (by assumption)

theorem umbelDeathBy_keeps {m} {s0 : State} {p1 p2 p3} {p4 : State} (hm : Sub 10375 m) (k : Keeps m s0 p4) :
    Keeps m s0 (umbelDeathBy p1 p2 p3 p4) := by
  unfold umbelDeathBy
  extract_lets +onlyGivenNames x1
  clear_value x1
  split
  · rename_i y2 y3
    assumption
  · rename_i y4 y5
    assumption
  · rename_i y6 y7
    with_reducible apply umbelGoto_keeps (hm.of rfl)
    with_reducible apply setUmbel_keeps (hm.of rfl)
    with_reducible apply endUmbelTest_keeps (hm.of rfl)
    exact reportWith_keeps (hm.of rfl) (by assumption)
  · rename_i y8 y9 y10 y11
    extract_lets +onlyGivenNames x12
    have h13 : Keeps m s0 x12 := by
      unfold x12
      with_reducible apply endUmbelTest_keeps (hm.of rfl)
      exact reportWith_keeps (hm.of rfl) (by assumption)
    clear_value x12
    extract_lets +onlyGivenNames x14
    have h15 : Keeps m s0 x14 := setUmbel_keeps (hm.of rfl) (by assumption)
    clear_value x14
    extract_lets +onlyGivenNames x16
    have h17 : Keeps m s0 x16 := umbelGoto_keeps (hm.of rfl) (by assumption)
    clear_value x16
    apply Keeps.ite
    · exact insertSpare_keeps (hm.of rfl) (by assumption)
    · assumption

theorem umbelDeath_keeps {m} {s0 : State} {p1 p2} {p3 : State} (hm : Sub 10375 m) (k : Keeps m s0 p3) :
    Keeps m s0 (umbelDeath p1 p2 p3) := by
  unfold umbelDeath
  exact umbelDeathBy_keeps (hm.of rfl) (by assumption)

theorem heartbeat_keeps {m} {s0 : State} {p1 p2 p3} {p4 : State} (hm : Sub 10375 m) (k : Keeps m s0 p4) :
    Keeps m s0 (heartbeat p1 p2 p3 p4) := by
  unfold heartbeat
  extract_lets +onlyGivenNames x1
  clear_value x1
  apply Keeps.ite
  · assumption
  · split
    · rename_i y2 y3
      apply Keeps.ite
      · exact umbelDeath_keeps (hm.of rfl) (by assumption)
      · apply Keeps.ite
        · exact umbelDeath_keeps (hm.of rfl) (by assumption)
        · exact setUmbel_keeps (hm.of rfl) (by assumption)
    · rename_i y4 y5
      apply Keeps.ite
      · exact umbelDeath_keeps (hm.of rfl) (by assumption)
      · apply Keeps.ite
        · exact umbelDeath_keeps (hm.of rfl) (by assumption)
        · exact setUmbel_keeps (hm.of rfl) (by assumption)
    · rename_i y6 y7 y8
      with_reducible apply raiseFault_keeps (hm.of rfl)
      exact setUmbel_keeps (hm.of rfl) (by assumption)

theorem fenceDrained_keeps {m} {s0 : State} {p1} {p2 : State} (hm : Sub 128 m) (k : Keeps m s0 p2) :
    Keeps m s0 (fenceDrained p1 p2) := by
  unfold fenceDrained
  apply Keeps.ite
  · with_reducible apply setUmbel_keeps (hm.of rfl)
    exact returnUmbel_keeps (hm.of rfl) (by assumption)
  · assumption

theorem staleRequest_keeps {m} {s0 : State} {p1 p2 p3} {p4 : State} (hm : Sub 10375 m) (k : Keeps m s0 p4) :
    Keeps m s0 (staleRequest p1 p2 p3 p4) := by
  unfold staleRequest
  extract_lets +onlyGivenNames x1
  clear_value x1
  apply Keeps.ite
  · assumption
  · apply Keeps.ite
    · exact umbelDeath_keeps (hm.of rfl) (by assumption)
    · apply Keeps.ite
      · exact setUmbel_keeps (hm.of rfl) (by assumption)
      · assumption

theorem floretErrorBy_keeps {m} {s0 : State} {p1 p2} {p3 : State} (hm : Sub 534663 m) (k : Keeps m s0 p3) :
    Keeps m s0 (floretErrorBy p1 p2 p3) := by
  unfold floretErrorBy
  extract_lets +onlyGivenNames x1
  have h2 : Keeps m s0 x1 := by
    unfold x1
    with_reducible apply setUmbel_keeps (hm.of rfl)
    exact taskFault_keeps (hm.of rfl) (by assumption)
  clear_value x1
  apply Keeps.ite
  · exact umbelDeathBy_keeps (hm.of rfl) (by assumption)
  · assumption

theorem codeError_keeps {m} {s0 : State} {p1} {p2 : State} (hm : Sub 128 m) (k : Keeps m s0 p2) :
    Keeps m s0 (codeError p1 p2) := by
  unfold codeError
  split
  · rename_i y1 y2 y3
    exact loadKernel_keeps (hm.of rfl) (by assumption)
  · rename_i y4 y5
    assumption

theorem floretError_keeps {m} {s0 : State} {p1 p2} {p3 : State} (hm : Sub 534663 m) (k : Keeps m s0 p3) :
    Keeps m s0 (floretError p1 p2 p3) := by
  unfold floretError
  extract_lets +onlyGivenNames x1
  have h2 : ∀ v1, Keeps m s0 v1 → Keeps m s0 (x1 v1) := by
    intro a3 a4
    unfold x1
    exact setUmbel_keeps (hm.of rfl) (by assumption)
  clear_value x1
  apply Keeps.ite
  · assumption
  · apply Keeps.ite
    · exact codeError_keeps (hm.of rfl) (by assumption)
    · apply Keeps.ite
      · exact umbelDeath_keeps (hm.of rfl) (by assumption)
      · split
        · rename_i y5 y6 y7 y8
          have h9 : Keeps m s0 y7 := by
            refine KeepsP.get ?_ y8
            exact takeInjection_keeps (hm.of rfl) (by assumption)
          apply Keeps.ite
          · with_reducible apply h2
            assumption
          · exact floretErrorBy_keeps (hm.of rfl) (by assumption)
        · rename_i y10 y11 y12
          have h13 : Keeps m s0 y11 := by
            refine KeepsP.get ?_ y12
            exact takeInjection_keeps (hm.of rfl) (by assumption)
          apply Keeps.ite
          · with_reducible apply h2
            assumption
          · exact floretErrorBy_keeps (hm.of rfl) (by assumption)

theorem retireDrained_keeps {m} {s0 : State} {p1} {p2 : State} (hm : Sub 132 m) (k : Keeps m s0 p2) :
    Keeps m s0 (retireDrained p1 p2) := by
  unfold retireDrained
  apply Keeps.ite
  · assumption
  · extract_lets +onlyGivenNames x1
    have h2 : Keeps m s0 x1 := by
      unfold x1
      apply Keeps.foldl
      · intro a3 a4 a5
        apply Keeps.ite
        · exact returnHeld_keeps (hm.of rfl) (by assumption)
        · assumption
      · assumption
    clear_value x1
    apply Keeps.ite
    · assumption
    · with_reducible apply umbelGoto_keeps (hm.of rfl)
      exact setUmbel_keeps (hm.of rfl) (by assumption)

theorem rollEvent_keeps {m} {s0 : State} {p1 p2 p3} {p4 : State} (hm : Sub 4 m) (k : Keeps m s0 p4) :
    Keeps m s0 (rollEvent p1 p2 p3 p4) := by
  unfold rollEvent
  exact raiseEvent_keeps (hm.of rfl) (by assumption)

theorem rollEnd_keeps {m} {s0 : State} {p1} {p2 : State} (hm : Sub 132 m) (k : Keeps m s0 p2) :
    Keeps m s0 (rollEnd p1 p2) := by
  unfold rollEnd
  extract_lets +onlyGivenNames x1
  have h2 : Keeps m s0 x1 := by
    unfold x1
    with_reducible apply complete_keeps (hm.of rfl)
    exact setYrw_keeps (hm.of rfl) (by assumption)
  clear_value x1
  split
  · rename_i y3 y4 y5
    exact complete_keeps (hm.of rfl) (by assumption)
  · rename_i y6 y7
    assumption

theorem setBuildBank_keeps {m} {s0 : State} {p1} {p2 : State} (hm : Sub 256 m) (k : Keeps m s0 p2) :
    Keeps m s0 (setBuildBank p1 p2) := by
  unfold setBuildBank
  exact Keeps.rest 256 (hm.of rfl) (by assumption) rfl

theorem settleKernelSet_keeps {m} {s0 : State} {p1 : State} (hm : Sub 160 m) (k : Keeps m s0 p1) :
    Keeps m s0 (settleKernelSet p1) := by
  unfold settleKernelSet
  extract_lets +onlyGivenNames x1
  clear_value x1
  apply Keeps.ite
  · assumption
  · with_reducible apply audit_keeps (hm.of rfl)
    exact setYrw_keeps (hm.of rfl) (by assumption)

theorem rollFinish_keeps {m} {s0 : State} {p1} {p2 : State} (hm : Sub 420 m) (k : Keeps m s0 p2) :
    Keeps m s0 (rollFinish p1 p2) := by
  unfold rollFinish
  extract_lets +onlyGivenNames x1
  clear_value x1
  extract_lets +onlyGivenNames x2
  have h3 : Keeps m s0 x2 := setBuildBank_keeps (hm.of rfl) (by assumption)
  clear_value x2
  extract_lets +onlyGivenNames x4
  have h5 : Keeps m s0 x4 := setYrw_keeps (hm.of rfl) (by assumption)
  clear_value x4
  extract_lets +onlyGivenNames x6
  have h7 : Keeps m s0 x6 := by
    unfold x6
    apply Keeps.ite
    · exact settleKernelSet_keeps (hm.of rfl) (by assumption)
    · assumption
  clear_value x6
  with_reducible apply rollEnd_keeps (hm.of rfl)
  exact rollEvent_keeps (hm.of rfl) (by assumption)

theorem rollLoad_keeps {m} {s0 : State} {p1 : State} (hm : Sub 420 m) (k : Keeps m s0 p1) :
    Keeps m s0 (rollLoad p1) := by
  unfold rollLoad
  split
  · rename_i y1 y2
    assumption
  · rename_i y3 y4 y5
    apply Keeps.ite
    · assumption
    · extract_lets +onlyGivenNames x6
      clear_value x6
      extract_lets +onlyGivenNames x7
      clear_value x7
      extract_lets +onlyGivenNames x8
      clear_value x8
      apply Keeps.ite
      · assumption
      · apply Keeps.ite
        · exact setYrw_keeps (hm.of rfl) (by assumption)
        · extract_lets +onlyGivenNames x9
          clear_value x9
          extract_lets +onlyGivenNames x10
          have h11 : Keeps m s0 x10 := by
            unfold x10
            apply Keeps.foldl
            · intro a12 a13 a14
              exact rollEvent_keeps (hm.of rfl) (by assumption)
            · exact setYrw_keeps (hm.of rfl) (by assumption)
          clear_value x10
          apply Keeps.ite
          · exact rollFinish_keeps (hm.of rfl) (by assumption)
          · assumption

theorem rollRound_keeps {m} {s0 : State} {p1 : State} (hm : Sub 10663 m) (k : Keeps m s0 p1) :
    Keeps m s0 (rollRound p1) := by
  unfold rollRound
  split
  · rename_i y1 y2
    assumption
  · rename_i y3 y4 y5
    apply Keeps.ite
    · extract_lets +onlyGivenNames x6
      have h7 : Keeps m s0 x6 := by
        unfold x6
        apply Keeps.ite
        · exact reportFault_keeps (hm.of rfl) (by assumption)
        · assumption
      clear_value x6
      with_reducible apply rollEnd_keeps (hm.of rfl)
      exact rollEvent_keeps (hm.of rfl) (by assumption)
    · apply Keeps.ite
      · assumption
      · apply Keeps.ite
        · apply Keeps.ite
          · with_reducible apply complete_keeps (hm.of rfl)
            exact setYrw_keeps (hm.of rfl) (by assumption)
          · apply Keeps.ite
            · exact rollFinish_keeps (hm.of rfl) (by assumption)
            · assumption
        · apply Keeps.ite
          · assumption
          · apply Keeps.ite
            · exact setYrw_keeps (hm.of rfl) (by assumption)
            · extract_lets +onlyGivenNames x8
              clear_value x8
              extract_lets +onlyGivenNames x9
              clear_value x9
              apply Keeps.ite
              · apply Keeps.ite
                · exact rollFinish_keeps (hm.of rfl) (by assumption)
                · assumption
              · extract_lets +onlyGivenNames x10
                clear_value x10
                with_reducible apply rollLoad_keeps (hm.of rfl)
                exact setYrw_keeps (hm.of rfl) (by assumption)

theorem rollReinstate_keeps {m} {s0 : State} {p1} {p2 : State} (hm : Sub 128 m) (k : Keeps m s0 p2) :
    Keeps m s0 (rollReinstate p1 p2) := by
  unfold rollReinstate
  split
  · rename_i y1 y2 y3
    apply Keeps.ite
    · exact setYrw_keeps (hm.of rfl) (by assumption)
    · assumption
  · rename_i y4 y5
    assumption

theorem testResult_keeps {m} {s0 : State} {p1 p2} {p3 : State} (hm : Sub 10375 m) (k : Keeps m s0 p3) :
    Keeps m s0 (testResult p1 p2 p3) := by
  unfold testResult
  extract_lets +onlyGivenNames x1
  clear_value x1
  split
  · rename_i y2 y3
    extract_lets +onlyGivenNames x4
    have h5 : Keeps m s0 x4 := endUmbelTest_keeps (hm.of rfl) (by assumption)
    clear_value x4
    apply Keeps.ite
    · extract_lets +onlyGivenNames x6
      have h7 : Keeps m s0 x6 := by
        unfold x6
        apply Keeps.ite
        · exact returnUmbel_keeps (hm.of rfl) (by assumption)
        · assumption
      clear_value x6
      extract_lets +onlyGivenNames x8
      have h9 : Keeps m s0 x8 := setUmbel_keeps (hm.of rfl) (by assumption)
      clear_value x8
      with_reducible apply rollReinstate_keeps (hm.of rfl)
      exact umbelGoto_keeps (hm.of rfl) (by assumption)
    · with_reducible apply umbelGoto_keeps (hm.of rfl)
      exact setUmbel_keeps (hm.of rfl) (by assumption)
  · rename_i y10 y11
    apply Keeps.ite
    · apply Keeps.ite
      · with_reducible apply setUmbel_keeps (hm.of rfl)
        exact endUmbelTest_keeps (hm.of rfl) (by assumption)
      · exact umbelDeath_keeps (hm.of rfl) (by assumption)
    · assumption
  · rename_i y12 y13 y14
    assumption

theorem reinstateFenced_keeps {m} {s0 : State} {p1 : State} (hm : Sub 10375 m) (k : Keeps m s0 p1) :
    Keeps m s0 (reinstateFenced p1) := by
  unfold reinstateFenced
  apply Keeps.foldl
  · intro a1 a2 a3
    apply Keeps.ite
    · with_reducible apply startUmbelTest_keeps (hm.of rfl)
      exact umbelGoto_keeps (hm.of rfl) (by assumption)
    · exact umbelGoto_keeps (hm.of rfl) (by assumption)
  · assumption

theorem makeSpares_keeps {m} {s0 : State} {p1} {p2 : State} (hm : Sub 132 m) (k : Keeps m s0 p2) :
    Keeps m s0 (makeSpares p1 p2) := by
  fun_induction makeSpares
  · rename_i z1
    assumption
  · rename_i z2 z3 z4 z5 z6 z7
    with_reducible apply z7
    exact umbelGoto_keeps (hm.of rfl) (by assumption)
  · rename_i z8 z9 z10 z11 z12
    assumption

theorem useSpares_keeps {m} {s0 : State} {p1} {p2 : State} (hm : Sub 132 m) (k : Keeps m s0 p2) :
    Keeps m s0 (useSpares p1 p2) := by
  fun_induction useSpares
  · rename_i z1
    assumption
  · rename_i z2 z3 z4 z5 z6
    with_reducible apply z6
    exact umbelGoto_keeps (hm.of rfl) (by assumption)
  · rename_i z7 z8 z9 z10
    assumption

theorem restoreSpares_keeps {m} {s0 : State} {p1 : State} (hm : Sub 10375 m) (k : Keeps m s0 p1) :
    Keeps m s0 (restoreSpares p1) := by
  unfold restoreSpares
  extract_lets +onlyGivenNames x1
  have h2 : Keeps m s0 x1 := reinstateFenced_keeps (hm.of rfl) (by assumption)
  clear_value x1
  extract_lets +onlyGivenNames x3
  have h4 : Keeps m s0 x3 := useSpares_keeps (hm.of rfl) (by assumption)
  clear_value x3
  extract_lets +onlyGivenNames x5
  have h6 : Keeps m s0 x5 := makeSpares_keeps (hm.of rfl) (by assumption)
  clear_value x5
  extract_lets +onlyGivenNames x7
  clear_value x7
  extract_lets +onlyGivenNames x8
  clear_value x8
  extract_lets +onlyGivenNames x9
  have h10 : Keeps m s0 x9 := setYrw_keeps (hm.of rfl) (by assumption)
  clear_value x9
  apply Keeps.ite
  · apply Keeps.ite
    · assumption
    · exact raiseFault_keeps (hm.of rfl) (by assumption)
  · apply Keeps.ite
    · exact endFault_keeps (hm.of rfl) (by assumption)
    · assumption

theorem applySpares_keeps {m} {s0 : State} {p1 : State} (hm : Sub 132 m) (k : Keeps m s0 p1) :
    Keeps m s0 (applySpares p1) := by
  unfold applySpares
  split
  · rename_i y1 y2 y3 y4 y5 y6
    apply Keeps.ite
    · with_reducible apply complete_keeps (hm.of rfl)
      exact setYrw_keeps (hm.of rfl) (by assumption)
    · assumption
  · rename_i y7 y8
    assumption

theorem coldYarrow_keeps {m} {s0 : State} {p1 : State} (hm : Sub 128 m) (k : Keeps m s0 p1) :
    Keeps m s0 (coldYarrow p1) := by
  unfold coldYarrow
  exact setYrw_keeps (hm.of rfl) (by assumption)

end Sys2Proof.Machine
end

