-- ==== Sys2Proof/Laws/Keeps/YrwCommands.lean ====
section
/-!
SUPPORT. What the operations of Machine/YrwCommands.lean keep.
-/

namespace Sys2Proof.Machine

theorem cmdYrwStatus_keeps {m} (hm : Sub 0 m) : KeepsCmd m cmdYrwStatus := by
  unfold cmdYrwStatus
  apply KeepsCmd.mk
  intro s0 ctx s k
  extract_lets +onlyGivenNames x1
  clear_value x1
  extract_lets +onlyGivenNames x2
  clear_value x2
  extract_lets +onlyGivenNames x3
  clear_value x3
  extract_lets +onlyGivenNames x4
  clear_value x4
  exact okWith_keeps (hm.of rfl) (by assumption)

theorem cmdYrwCatalogue_keeps {m} (hm : Sub 0 m) : KeepsCmd m cmdYrwCatalogue := by
  unfold cmdYrwCatalogue
  apply KeepsCmd.mk
  intro s0 ctx s k
  with_reducible apply checked_keeps (hm.of rfl)
  · assumption
  · split
    · rename_i y1 y2
      exact fail_keeps (hm.of rfl) (by assumption)
    · rename_i y3 y4 y5
      extract_lets +onlyGivenNames x6
      clear_value x6
      exact okWith_keeps (hm.of rfl) (by assumption)

theorem cmdYrwWorkloadArm_keeps {m} (hm : Sub 2 m) : KeepsCmd m cmdYrwWorkloadArm := by
  unfold cmdYrwWorkloadArm
  apply KeepsCmd.mk
  intro s0 ctx s k
  extract_lets +onlyGivenNames x1
  clear_value x1
  extract_lets +onlyGivenNames x2
  clear_value x2
  with_reducible apply checked_keeps (hm.of rfl)
  · assumption
  · apply KeepsA.ite
    · exact fail_keeps (hm.of rfl) (by assumption)
    · apply KeepsA.ite
      · exact fail_keeps (hm.of rfl) (by assumption)
      · apply KeepsA.accepted
        exact receiveTransfer_keeps (hm.of rfl) (by assumption)

theorem workloadReceived_keeps {m} {s0 : State} {p1} {p2 : State} (hm : Sub 68 m) (k : Keeps m s0 p2) :
    Keeps m s0 (workloadReceived p1 p2) := by
  unfold workloadReceived
  split
  · rename_i y1 y2 y3 y4
    exact tableFault_keeps (hm.of rfl) (by assumption)
  · rename_i y5 y6 y7
    extract_lets +onlyGivenNames x8
    clear_value x8
    split
    · rename_i y9 y10
      exact complete_keeps (hm.of rfl) (by assumption)
    · rename_i y11 y12 y13
      apply Keeps.ite
      · exact complete_keeps (hm.of rfl) (by assumption)
      · apply Keeps.ite
        · exact complete_keeps (hm.of rfl) (by assumption)
        · apply Keeps.ite
          · exact complete_keeps (hm.of rfl) (by assumption)
          · exact armGen_keeps (hm.of rfl) (by assumption)

theorem applyWorkload_keeps {m} {s0 : State} {p1 p2} {p3 : State} (hm : Sub 196 m) (k : Keeps m s0 p3) :
    Keeps m s0 (applyWorkload p1 p2 p3) := by
  unfold applyWorkload
  extract_lets +onlyGivenNames x1
  have h2 : Keeps m s0 x1.2 := nextGenNumber_keeps (hm.of rfl) (by assumption)
  clear_value x1
  extract_lets +onlyGivenNames x3
  have h4 : Keeps m s0 x3 := setYrw_keeps (hm.of rfl) (by assumption)
  clear_value x3
  split
  · rename_i y5 y6 y7
    exact complete_keeps (hm.of rfl) (by assumption)
  · rename_i y8 y9
    assumption

theorem cmdYrwParamSet_keeps {m} (hm : Sub 68 m) : KeepsCmd m cmdYrwParamSet := by
  unfold cmdYrwParamSet
  apply KeepsCmd.mk
  intro s0 ctx s k
  extract_lets +onlyGivenNames x1
  clear_value x1
  extract_lets +onlyGivenNames x2
  clear_value x2
  extract_lets +onlyGivenNames x3
  clear_value x3
  extract_lets +onlyGivenNames x4
  clear_value x4
  extract_lets +onlyGivenNames x5
  clear_value x5
  with_reducible apply checked_keeps (hm.of rfl)
  · assumption
  · apply KeepsA.ite
    · exact fail_keeps (hm.of rfl) (by assumption)
    · split
      · rename_i y6 y7
        exact fail_keeps (hm.of rfl) (by assumption)
      · rename_i y8 y9 y10
        with_reducible apply okWith_keeps (hm.of rfl)
        exact armGen_keeps (hm.of rfl) (by assumption)

theorem applyParam_keeps {m} {s0 : State} {p1 p2} {p3 : State} (hm : Sub 128 m) (k : Keeps m s0 p3) :
    Keeps m s0 (applyParam p1 p2 p3) := by
  unfold applyParam
  exact setYrw_keeps (hm.of rfl) (by assumption)

theorem cmdYrwSpares_keeps {m} (hm : Sub 132 m) : KeepsCmd m cmdYrwSpares := by
  unfold cmdYrwSpares
  apply KeepsCmd.mk
  intro s0 ctx s k
  extract_lets +onlyGivenNames x1
  clear_value x1
  extract_lets +onlyGivenNames x2
  clear_value x2
  with_reducible apply checked_keeps (hm.of rfl)
  · assumption
  · apply KeepsA.ite
    · exact fail_keeps (hm.of rfl) (by assumption)
    · extract_lets +onlyGivenNames x3
      clear_value x3
      extract_lets +onlyGivenNames x4
      have h5 : Keeps m s0 x4 := setYrw_keeps (hm.of rfl) (by assumption)
      clear_value x4
      apply KeepsA.accepted
      split
      · rename_i y6 y7 y8 y9 y10
        exact complete_keeps (hm.of rfl) (by assumption)
      · rename_i y11
        assumption

theorem cmdYrwUmbel_keeps {m} (hm : Sub 10375 m) : KeepsCmd m cmdYrwUmbel := by
  unfold cmdYrwUmbel
  apply KeepsCmd.mk
  intro s0 ctx s k
  extract_lets +onlyGivenNames x1
  clear_value x1
  extract_lets +onlyGivenNames x2
  clear_value x2
  extract_lets +onlyGivenNames x3
  clear_value x3
  extract_lets +onlyGivenNames x4
  have h5 : ∀ v1, Keeps m s0 v1 → KeepsA m s0 (x4 v1) := by
    intro a6 a7
    unfold x4
    exact okWith_keeps (hm.of rfl) (by assumption)
  clear_value x4
  extract_lets +onlyGivenNames x8
  clear_value x8
  with_reducible apply checked_keeps (hm.of rfl)
  · assumption
  · apply KeepsA.ite
    · with_reducible apply h5
      assumption
    · apply KeepsA.ite
      · apply KeepsA.ite
        · extract_lets +onlyGivenNames x9
          have h10 : Keeps m s0 x9.2 := draw_keeps (hm.of rfl) (by assumption)
          clear_value x9
          with_reducible apply fail_keeps (hm.of rfl)
          assumption
        · split
          · rename_i y11 y12
            extract_lets +onlyGivenNames x13
            clear_value x13
            apply KeepsA.ite
            · exact fail_keeps (hm.of rfl) (by assumption)
            · with_reducible apply h5
              with_reducible apply retireDrained_keeps (hm.of rfl)
              exact setUmbel_keeps (hm.of rfl) (by assumption)
          · rename_i y14 y15
            with_reducible apply h5
            assumption
          · rename_i y16 y17
            with_reducible apply h5
            with_reducible apply umbelGoto_keeps (hm.of rfl)
            with_reducible apply setUmbel_keeps (hm.of rfl)
            exact endUmbelTest_keeps (hm.of rfl) (by assumption)
          · rename_i y18 y19 y20 y21
            with_reducible apply h5
            exact umbelGoto_keeps (hm.of rfl) (by assumption)
      · apply KeepsA.ite
        · split
          · rename_i y22 y23
            with_reducible apply h5
            with_reducible apply startUmbelTest_keeps (hm.of rfl)
            exact umbelGoto_keeps (hm.of rfl) (by assumption)
          · rename_i y24 y25
            with_reducible apply h5
            with_reducible apply startUmbelTest_keeps (hm.of rfl)
            exact umbelGoto_keeps (hm.of rfl) (by assumption)
          · rename_i y26 y27 y28
            exact fail_keeps (hm.of rfl) (by assumption)
        · apply KeepsA.ite
          · extract_lets +onlyGivenNames x29
            have h30 : Keeps m s0 x29.2 := draw_keeps (hm.of rfl) (by assumption)
            clear_value x29
            with_reducible apply fail_keeps (hm.of rfl)
            assumption
          · split
            · rename_i y31 y32
              with_reducible apply h5
              exact startUmbelTest_keeps (hm.of rfl) (by assumption)
            · rename_i y33 y34
              exact fail_keeps (hm.of rfl) (by assumption)

theorem cmdYrwKernelRoll_keeps {m} (hm : Sub 132 m) : KeepsCmd m cmdYrwKernelRoll := by
  unfold cmdYrwKernelRoll
  apply KeepsCmd.mk
  intro s0 ctx s k
  extract_lets +onlyGivenNames x1
  clear_value x1
  extract_lets +onlyGivenNames x2
  clear_value x2
  extract_lets +onlyGivenNames x3
  clear_value x3
  extract_lets +onlyGivenNames x4
  clear_value x4
  with_reducible apply checked_keeps (hm.of rfl)
  · assumption
  · apply KeepsA.ite
    · exact fail_keeps (hm.of rfl) (by assumption)
    · apply KeepsA.ite
      · apply KeepsA.ite
        · exact fail_keeps (hm.of rfl) (by assumption)
        · split
          · rename_i y5 y6
            exact fail_keeps (hm.of rfl) (by assumption)
          · rename_i y7 y8 y9
            apply KeepsA.ite
            · exact fail_keeps (hm.of rfl) (by assumption)
            · apply KeepsA.ite
              · exact fail_keeps (hm.of rfl) (by assumption)
              · apply KeepsA.accepted
                exact setYrw_keeps (hm.of rfl) (by assumption)
      · split
        · rename_i y10 y11
          exact fail_keeps (hm.of rfl) (by assumption)
        · rename_i y12 y13 y14
          apply KeepsA.ite
          · exact fail_keeps (hm.of rfl) (by assumption)
          · apply KeepsA.ite
            · apply KeepsA.ite
              · exact fail_keeps (hm.of rfl) (by assumption)
              · apply KeepsA.accepted
                exact setYrw_keeps (hm.of rfl) (by assumption)
            · extract_lets +onlyGivenNames x15
              clear_value x15
              extract_lets +onlyGivenNames x16
              have h17 : Keeps m s0 x16 := setYrw_keeps (hm.of rfl) (by assumption)
              clear_value x16
              extract_lets +onlyGivenNames x18
              have h19 : Keeps m s0 x18 := by
                unfold x18
                apply Keeps.ite
                · exact rollEvent_keeps (hm.of rfl) (by assumption)
                · assumption
              clear_value x18
              apply KeepsA.accepted
              exact complete_keeps (hm.of rfl) (by assumption)

theorem cmdYrwLoad_keeps {m} (hm : Sub 0 m) : KeepsCmd m cmdYrwLoad := by
  unfold cmdYrwLoad
  apply KeepsCmd.mk
  intro s0 ctx s k
  extract_lets +onlyGivenNames x1
  clear_value x1
  exact okWith_keeps (hm.of rfl) (by assumption)

theorem cmdYrwWorkloadStats_keeps {m} (hm : Sub 0 m) : KeepsCmd m cmdYrwWorkloadStats := by
  unfold cmdYrwWorkloadStats
  apply KeepsCmd.mk
  intro s0 ctx s k
  extract_lets +onlyGivenNames x1
  clear_value x1
  extract_lets +onlyGivenNames x2
  clear_value x2
  with_reducible apply checked_keeps (hm.of rfl)
  · assumption
  · apply KeepsA.ite
    · exact fail_keeps (hm.of rfl) (by assumption)
    · exact okWith_keeps (hm.of rfl) (by assumption)

theorem cmdYrwWorkloadRead_keeps {m} (hm : Sub 0 m) : KeepsCmd m cmdYrwWorkloadRead := by
  unfold cmdYrwWorkloadRead
  apply KeepsCmd.mk
  intro s0 ctx s k
  extract_lets +onlyGivenNames x1
  clear_value x1
  with_reducible apply checked_keeps (hm.of rfl)
  · assumption
  · split
    · rename_i y2
      exact fail_keeps (hm.of rfl) (by assumption)
    · rename_i y3 y4 y5
      split
      · rename_i y6 y7 y8
        exact okWith_keeps (hm.of rfl) (by assumption)
      · rename_i y9 y10
        exact fail_keeps (hm.of rfl) (by assumption)

theorem execYrwStatus_keeps {m} {s0 : State} {p1} {p2 : State} (hm : Sub 8199 m) (k : Keeps m s0 p2) :
    KeepsR m s0 (execYrwStatus p1 p2) := by
  unfold execYrwStatus
  apply KeepsR.next
  with_reducible apply submit_keeps (hm.of rfl)
  · assumption
  · exact cmdYrwStatus_keeps (hm.of rfl)

theorem execYrwCatalogue_keeps {m} {s0 : State} {p1} {p2 : State} (hm : Sub 8199 m) (k : Keeps m s0 p2) :
    KeepsR m s0 (execYrwCatalogue p1 p2) := by
  unfold execYrwCatalogue
  apply KeepsR.next
  with_reducible apply submit_keeps (hm.of rfl)
  · assumption
  · exact cmdYrwCatalogue_keeps (hm.of rfl)

theorem execYrwWorkloadArm_keeps {m} {s0 : State} {p1} {p2 : State} (hm : Sub 8199 m) (k : Keeps m s0 p2) :
    KeepsR m s0 (execYrwWorkloadArm p1 p2) := by
  unfold execYrwWorkloadArm
  apply KeepsR.next
  with_reducible apply submit_keeps (hm.of rfl)
  · assumption
  · exact cmdYrwWorkloadArm_keeps (hm.of rfl)

theorem execYrwParamSet_keeps {m} {s0 : State} {p1} {p2 : State} (hm : Sub 8263 m) (k : Keeps m s0 p2) :
    KeepsR m s0 (execYrwParamSet p1 p2) := by
  unfold execYrwParamSet
  apply KeepsR.next
  with_reducible apply submit_keeps (hm.of rfl)
  · assumption
  · exact cmdYrwParamSet_keeps (hm.of rfl)

theorem execYrwSpares_keeps {m} {s0 : State} {p1} {p2 : State} (hm : Sub 8327 m) (k : Keeps m s0 p2) :
    KeepsR m s0 (execYrwSpares p1 p2) := by
  unfold execYrwSpares
  apply KeepsR.next
  with_reducible apply submit_keeps (hm.of rfl)
  · assumption
  · exact cmdYrwSpares_keeps (hm.of rfl)

theorem execYrwUmbel_keeps {m} {s0 : State} {p1} {p2 : State} (hm : Sub 10375 m) (k : Keeps m s0 p2) :
    KeepsR m s0 (execYrwUmbel p1 p2) := by
  unfold execYrwUmbel
  apply KeepsR.next
  with_reducible apply submit_keeps (hm.of rfl)
  · assumption
  · exact cmdYrwUmbel_keeps (hm.of rfl)

theorem execYrwKernelRoll_keeps {m} {s0 : State} {p1} {p2 : State} (hm : Sub 8327 m) (k : Keeps m s0 p2) :
    KeepsR m s0 (execYrwKernelRoll p1 p2) := by
  unfold execYrwKernelRoll
  apply KeepsR.next
  with_reducible apply submit_keeps (hm.of rfl)
  · assumption
  · exact cmdYrwKernelRoll_keeps (hm.of rfl)

theorem execYrwLoad_keeps {m} {s0 : State} {p1} {p2 : State} (hm : Sub 8199 m) (k : Keeps m s0 p2) :
    KeepsR m s0 (execYrwLoad p1 p2) := by
  unfold execYrwLoad
  apply KeepsR.next
  with_reducible apply submit_keeps (hm.of rfl)
  · assumption
  · exact cmdYrwLoad_keeps (hm.of rfl)

theorem execYrwWorkloadStats_keeps {m} {s0 : State} {p1} {p2 : State} (hm : Sub 8199 m) (k : Keeps m s0 p2) :
    KeepsR m s0 (execYrwWorkloadStats p1 p2) := by
  unfold execYrwWorkloadStats
  apply KeepsR.next
  with_reducible apply submit_keeps (hm.of rfl)
  · assumption
  · exact cmdYrwWorkloadStats_keeps (hm.of rfl)

theorem execYrwWorkloadRead_keeps {m} {s0 : State} {p1} {p2 : State} (hm : Sub 8199 m) (k : Keeps m s0 p2) :
    KeepsR m s0 (execYrwWorkloadRead p1 p2) := by
  unfold execYrwWorkloadRead
  apply KeepsR.next
  with_reducible apply submit_keeps (hm.of rfl)
  · assumption
  · exact cmdYrwWorkloadRead_keeps (hm.of rfl)

theorem execWatchdogExpiry_keeps {m} {s0 : State} {p1} {p2 : State} (hm : Sub 534951 m) (k : Keeps m s0 p2) :
    KeepsR m s0 (execWatchdogExpiry p1 p2) := by
  unfold execWatchdogExpiry
  apply KeepsR.next
  apply Keeps.ite
  · assumption
  · with_reducible apply retireDrained_keeps (hm.of rfl)
    with_reducible apply rollLoad_keeps (hm.of rfl)
    exact taskFault_keeps (hm.of rfl) (by assumption)

theorem execDeadlineMiss_keeps {m} {s0 : State} {p1} {p2 : State} (hm : Sub 10375 m) (k : Keeps m s0 p2) :
    KeepsR m s0 (execDeadlineMiss p1 p2) := by
  unfold execDeadlineMiss
  apply KeepsR.next
  exact deadlineMiss_keeps (hm.of rfl) (by assumption)

theorem execFloretSramError_keeps {m} {s0 : State} {p1 p2} {p3 : State} (hm : Sub 534951 m) (k : Keeps m s0 p3) :
    KeepsR m s0 (execFloretSramError p1 p2 p3) := by
  unfold execFloretSramError
  apply KeepsR.next
  with_reducible apply retireDrained_keeps (hm.of rfl)
  with_reducible apply rollLoad_keeps (hm.of rfl)
  exact floretError_keeps (hm.of rfl) (by assumption)

theorem execUmbelHeartbeat_keeps {m} {s0 : State} {p1 p2 p3} {p4 : State} (hm : Sub 10375 m) (k : Keeps m s0 p4) :
    KeepsR m s0 (execUmbelHeartbeat p1 p2 p3 p4) := by
  unfold execUmbelHeartbeat
  apply KeepsR.next
  exact heartbeat_keeps (hm.of rfl) (by assumption)

theorem execHeartbeatLoss_keeps {m} {s0 : State} {p1} {p2 : State} (hm : Sub 10375 m) (k : Keeps m s0 p2) :
    KeepsR m s0 (execHeartbeatLoss p1 p2) := by
  unfold execHeartbeatLoss
  apply KeepsR.next
  apply Keeps.ite
  · exact umbelDeath_keeps (hm.of rfl) (by assumption)
  · assumption

theorem execFenceDrainComplete_keeps {m} {s0 : State} {p1} {p2 : State} (hm : Sub 420 m) (k : Keeps m s0 p2) :
    KeepsR m s0 (execFenceDrainComplete p1 p2) := by
  unfold execFenceDrainComplete
  apply KeepsR.next
  with_reducible apply rollLoad_keeps (hm.of rfl)
  exact fenceDrained_keeps (hm.of rfl) (by assumption)

theorem execUmbelTestResult_keeps {m} {s0 : State} {p1 p2} {p3 : State} (hm : Sub 10375 m) (k : Keeps m s0 p3) :
    KeepsR m s0 (execUmbelTestResult p1 p2 p3) := by
  unfold execUmbelTestResult
  apply KeepsR.next
  apply Keeps.ite
  · exact testResult_keeps (hm.of rfl) (by assumption)
  · assumption

theorem execStaleEpochRequest_keeps {m} {s0 : State} {p1 p2 p3} {p4 : State} (hm : Sub 10375 m) (k : Keeps m s0 p4) :
    KeepsR m s0 (execStaleEpochRequest p1 p2 p3 p4) := by
  unfold execStaleEpochRequest
  apply KeepsR.next
  exact staleRequest_keeps (hm.of rfl) (by assumption)

end Sys2Proof.Machine
end

