-- ==== Sys2Proof/Laws/Keeps/BalCommands.lean ====
section
/-!
SUPPORT. What the operations of Machine/BalCommands.lean keep.
-/

namespace Sys2Proof.Machine

theorem cmdBalStatus_keeps {m} (hm : Sub 0 m) : KeepsCmd m cmdBalStatus := by
  unfold cmdBalStatus
  apply KeepsCmd.mk
  intro s0 ctx s k
  extract_lets +onlyGivenNames x1
  clear_value x1
  extract_lets +onlyGivenNames x2
  clear_value x2
  extract_lets +onlyGivenNames x3
  clear_value x3
  extract_lets +onlyGivenNames x4
  clear_value x4
  exact okWith_keeps (hm.of rfl) (by assumption)

theorem cmdBalModelArm_keeps {m} (hm : Sub 2 m) : KeepsCmd m cmdBalModelArm := by
  unfold cmdBalModelArm
  apply KeepsCmd.mk
  intro s0 ctx s k
  extract_lets +onlyGivenNames x1
  clear_value x1
  extract_lets +onlyGivenNames x2
  clear_value x2
  with_reducible apply checked_keeps (hm.of rfl)
  · assumption
  · apply KeepsA.ite
    · exact fail_keeps (hm.of rfl) (by assumption)
    · apply KeepsA.ite
      · exact fail_keeps (hm.of rfl) (by assumption)
      · apply KeepsA.accepted
        exact receiveTransfer_keeps (hm.of rfl) (by assumption)

theorem modelReceived_keeps {m} {s0 : State} {p1} {p2 : State} (hm : Sub 68 m) (k : Keeps m s0 p2) :
    Keeps m s0 (modelReceived p1 p2) := by
  unfold modelReceived
  split
  · rename_i y1 y2 y3 y4
    exact tableFault_keeps (hm.of rfl) (by assumption)
  · rename_i y5 y6 y7
    extract_lets +onlyGivenNames x8
    clear_value x8
    split
    · rename_i y9 y10
      exact complete_keeps (hm.of rfl) (by assumption)
    · rename_i y11 y12 y13
      apply Keeps.ite
      · exact complete_keeps (hm.of rfl) (by assumption)
      · apply Keeps.ite
        · exact complete_keeps (hm.of rfl) (by assumption)
        · exact armGen_keeps (hm.of rfl) (by assumption)

theorem applyBalModel_keeps {m} {s0 : State} {p1 p2} {p3 : State} (hm : Sub 131140 m) (k : Keeps m s0 p3) :
    Keeps m s0 (applyBalModel p1 p2 p3) := by
  unfold applyBalModel
  extract_lets +onlyGivenNames x1
  have h2 : Keeps m s0 x1.2 := nextGenNumber_keeps (hm.of rfl) (by assumption)
  clear_value x1
  extract_lets +onlyGivenNames x3
  have h4 : Keeps m s0 x3 := by
    unfold x3
    assumption
  clear_value x3
  extract_lets +onlyGivenNames x5
  have h6 : Keeps m s0 x5 := setBal_keeps (hm.of rfl) (by assumption)
  clear_value x5
  split
  · rename_i y7 y8 y9
    exact complete_keeps (hm.of rfl) (by assumption)
  · rename_i y10 y11
    assumption

theorem cmdBalRulesSet_keeps {m} (hm : Sub 68 m) : KeepsCmd m cmdBalRulesSet := by
  unfold cmdBalRulesSet
  apply KeepsCmd.mk
  intro s0 ctx s k
  with_reducible apply checked_keeps (hm.of rfl)
  · assumption
  · extract_lets +onlyGivenNames x1
    clear_value x1
    apply KeepsA.ite
    · exact fail_keeps (hm.of rfl) (by assumption)
    · extract_lets +onlyGivenNames x2
      clear_value x2
      with_reducible apply okWith_keeps (hm.of rfl)
      exact armGen_keeps (hm.of rfl) (by assumption)

theorem applyRules_keeps {m} {s0 : State} {p1 p2} {p3 : State} (hm : Sub 131072 m) (k : Keeps m s0 p3) :
    Keeps m s0 (applyRules p1 p2 p3) := by
  unfold applyRules
  exact setBal_keeps (hm.of rfl) (by assumption)

theorem cmdBalAttribute_keeps {m} (hm : Sub 131072 m) : KeepsCmd m cmdBalAttribute := by
  unfold cmdBalAttribute
  apply KeepsCmd.mk
  intro s0 ctx s k
  extract_lets +onlyGivenNames x1
  clear_value x1
  extract_lets +onlyGivenNames x2
  clear_value x2
  extract_lets +onlyGivenNames x3
  clear_value x3
  extract_lets +onlyGivenNames x4
  clear_value x4
  with_reducible apply checked_keeps (hm.of rfl)
  · assumption
  · apply KeepsA.ite
    · exact fail_keeps (hm.of rfl) (by assumption)
    · apply KeepsA.ite
      · exact fail_keeps (hm.of rfl) (by assumption)
      · extract_lets +onlyGivenNames x5
        clear_value x5
        with_reducible apply okWith_keeps (hm.of rfl)
        with_reducible apply setNetBal_keeps (hm.of rfl)
        exact setBal_keeps (hm.of rfl) (by assumption)

theorem cmdBalNetworkRead_keeps {m} (hm : Sub 0 m) : KeepsCmd m cmdBalNetworkRead := by
  unfold cmdBalNetworkRead
  apply KeepsCmd.mk
  intro s0 ctx s k
  extract_lets +onlyGivenNames x1
  clear_value x1
  extract_lets +onlyGivenNames x2
  clear_value x2
  extract_lets +onlyGivenNames x3
  clear_value x3
  with_reducible apply checked_keeps (hm.of rfl)
  · assumption
  · split
    · rename_i y4 y5
      exact fail_keeps (hm.of rfl) (by assumption)
    · rename_i y6 y7 y8
      extract_lets +onlyGivenNames x9
      clear_value x9
      extract_lets +onlyGivenNames x10
      clear_value x10
      extract_lets +onlyGivenNames x11
      clear_value x11
      exact okWith_keeps (hm.of rfl) (by assumption)

theorem cmdBalHistoryRead_keeps {m} (hm : Sub 6 m) : KeepsCmd m cmdBalHistoryRead := by
  unfold cmdBalHistoryRead
  apply KeepsCmd.mk
  intro s0 ctx s k
  extract_lets +onlyGivenNames x1
  clear_value x1
  extract_lets +onlyGivenNames x2
  clear_value x2
  extract_lets +onlyGivenNames x3
  clear_value x3
  extract_lets +onlyGivenNames x4
  clear_value x4
  extract_lets +onlyGivenNames x5
  clear_value x5
  with_reducible apply checked_keeps (hm.of rfl)
  · assumption
  · apply KeepsA.ite
    · exact fail_keeps (hm.of rfl) (by assumption)
    · extract_lets +onlyGivenNames x6
      clear_value x6
      extract_lets +onlyGivenNames x7
      clear_value x7
      extract_lets +onlyGivenNames x8
      clear_value x8
      apply KeepsA.accepted
      with_reducible apply complete_keeps (hm.of rfl)
      exact sendTransfer_keeps (hm.of rfl) (by assumption)

theorem cmdBalSuspicionRead_keeps {m} (hm : Sub 0 m) : KeepsCmd m cmdBalSuspicionRead := by
  unfold cmdBalSuspicionRead
  apply KeepsCmd.mk
  intro s0 ctx s k
  split
  · rename_i y1 y2 y3
    exact okWith_keeps (hm.of rfl) (by assumption)
  · rename_i y4 y5
    exact fail_keeps (hm.of rfl) (by assumption)

theorem countP_modAt {α : Type} (l : List α) (i : Nat) (f : α → α) (p : α → Bool) (h : ∀ a, p (f a) = p a) :
    (modAt l i f).countP p = l.countP p := by
  unfold modAt
  induction l generalizing i with
  | nil => simp
  | cons a l ih =>
    cases i with
    | zero => simp [List.modify_zero_cons, List.countP_cons, h]
    | succ i => simp [List.modify_succ_cons, List.countP_cons, ih]

theorem withReference_keeps {m} {s0 : State} {p1 p2} {p3 : State} (hm : Sub 4 m) (k : Keeps m s0 p3) :
    Keeps m s0 (withReference p1 p2 p3) := by
  unfold withReference
  apply Keeps.ite
  · exact Keeps.upd 4 (hm.of rfl) k (Nat.le_refl _) ⟨id, rfl, rfl, rfl⟩
      ⟨Nat.le_refl _, id, id, fun h => by unfold generalCount at h ⊢; rw [countP_modAt]; exact h; intro a; rfl⟩ ⟨id⟩ rfl
  · exact k

theorem cmdBalSuspicionClose_keeps {m} (hm : Sub 131076 m) : KeepsCmd m cmdBalSuspicionClose := by
  unfold cmdBalSuspicionClose
  apply KeepsCmd.mk
  intro s0 ctx s k
  extract_lets +onlyGivenNames x1
  clear_value x1
  with_reducible apply checked_keeps (hm.of rfl)
  · assumption
  · split
    · rename_i y2 y3
      exact fail_keeps (hm.of rfl) (by assumption)
    · rename_i y4 y5 y6
      apply KeepsA.ite
      · exact fail_keeps (hm.of rfl) (by assumption)
      · extract_lets +onlyGivenNames x7
        clear_value x7
        extract_lets +onlyGivenNames x8
        have h9 : Keeps m s0 x8 := setSuspicion_keeps (hm.of rfl) (by assumption)
        clear_value x8
        with_reducible apply okWith_keeps (hm.of rfl)
        with_reducible apply withReference_keeps (hm.of rfl)
        exact suspicionEvent_keeps (hm.of rfl) (by assumption)

theorem execBalStatus_keeps {m} {s0 : State} {p1} {p2 : State} (hm : Sub 8199 m) (k : Keeps m s0 p2) :
    KeepsR m s0 (execBalStatus p1 p2) := by
  unfold execBalStatus
  apply KeepsR.next
  with_reducible apply submit_keeps (hm.of rfl)
  · assumption
  · exact cmdBalStatus_keeps (hm.of rfl)

theorem execBalModelArm_keeps {m} {s0 : State} {p1} {p2 : State} (hm : Sub 8199 m) (k : Keeps m s0 p2) :
    KeepsR m s0 (execBalModelArm p1 p2) := by
  unfold execBalModelArm
  apply KeepsR.next
  with_reducible apply submit_keeps (hm.of rfl)
  · assumption
  · exact cmdBalModelArm_keeps (hm.of rfl)

theorem execBalRulesSet_keeps {m} {s0 : State} {p1} {p2 : State} (hm : Sub 8263 m) (k : Keeps m s0 p2) :
    KeepsR m s0 (execBalRulesSet p1 p2) := by
  unfold execBalRulesSet
  apply KeepsR.next
  with_reducible apply submit_keeps (hm.of rfl)
  · assumption
  · exact cmdBalRulesSet_keeps (hm.of rfl)

theorem execBalAttribute_keeps {m} {s0 : State} {p1} {p2 : State} (hm : Sub 139271 m) (k : Keeps m s0 p2) :
    KeepsR m s0 (execBalAttribute p1 p2) := by
  unfold execBalAttribute
  apply KeepsR.next
  with_reducible apply submit_keeps (hm.of rfl)
  · assumption
  · exact cmdBalAttribute_keeps (hm.of rfl)

theorem execBalNetworkRead_keeps {m} {s0 : State} {p1} {p2 : State} (hm : Sub 8199 m) (k : Keeps m s0 p2) :
    KeepsR m s0 (execBalNetworkRead p1 p2) := by
  unfold execBalNetworkRead
  apply KeepsR.next
  with_reducible apply submit_keeps (hm.of rfl)
  · assumption
  · exact cmdBalNetworkRead_keeps (hm.of rfl)

theorem execBalHistoryRead_keeps {m} {s0 : State} {p1} {p2 : State} (hm : Sub 8199 m) (k : Keeps m s0 p2) :
    KeepsR m s0 (execBalHistoryRead p1 p2) := by
  unfold execBalHistoryRead
  apply KeepsR.next
  with_reducible apply submit_keeps (hm.of rfl)
  · assumption
  · exact cmdBalHistoryRead_keeps (hm.of rfl)

theorem execBalSuspicionRead_keeps {m} {s0 : State} {p1} {p2 : State} (hm : Sub 8199 m) (k : Keeps m s0 p2) :
    KeepsR m s0 (execBalSuspicionRead p1 p2) := by
  unfold execBalSuspicionRead
  apply KeepsR.next
  with_reducible apply submit_keeps (hm.of rfl)
  · assumption
  · exact cmdBalSuspicionRead_keeps (hm.of rfl)

theorem execBalSuspicionClose_keeps {m} {s0 : State} {p1} {p2 : State} (hm : Sub 139271 m) (k : Keeps m s0 p2) :
    KeepsR m s0 (execBalSuspicionClose p1 p2) := by
  unfold execBalSuspicionClose
  apply KeepsR.next
  with_reducible apply submit_keeps (hm.of rfl)
  · assumption
  · exact cmdBalSuspicionClose_keeps (hm.of rfl)

end Sys2Proof.Machine
end

