-- ==== Sys2Proof/Laws/Keeps/FieldCommands.lean ====
section
/-!
SUPPORT. What the operations of Machine/FieldCommands.lean keep.
-/

namespace Sys2Proof.Machine

theorem cmdFioLsConfig_keeps {m} (hm : Sub 68 m) : KeepsCmd m cmdFioLsConfig := by
  unfold cmdFioLsConfig
  apply KeepsCmd.mk
  intro s0 ctx s k
  extract_lets +onlyGivenNames x1
  clear_value x1
  extract_lets +onlyGivenNames x2
  clear_value x2
  extract_lets +onlyGivenNames x3
  clear_value x3
  with_reducible apply checked_keeps (hm.of rfl)
  · assumption
  · extract_lets +onlyGivenNames x4
    clear_value x4
    apply KeepsA.ite
    · exact fail_keeps (hm.of rfl) (by assumption)
    · extract_lets +onlyGivenNames x5
      clear_value x5
      with_reducible apply okWith_keeps (hm.of rfl)
      exact armGen_keeps (hm.of rfl) (by assumption)

theorem cmdFioLsSet_keeps {m} (hm : Sub 262144 m) : KeepsCmd m cmdFioLsSet := by
  unfold cmdFioLsSet
  apply KeepsCmd.mk
  intro s0 ctx s k
  extract_lets +onlyGivenNames x1
  clear_value x1
  extract_lets +onlyGivenNames x2
  clear_value x2
  extract_lets +onlyGivenNames x3
  clear_value x3
  with_reducible apply checked_keeps (hm.of rfl)
  · assumption
  · apply KeepsA.ite
    · exact fail_keeps (hm.of rfl) (by assumption)
    · with_reducible apply okWith_keeps (hm.of rfl)
      exact setFio_keeps (hm.of rfl) (by assumption)

theorem cmdFioLsRead_keeps {m} (hm : Sub 0 m) : KeepsCmd m cmdFioLsRead := by
  unfold cmdFioLsRead
  apply KeepsCmd.mk
  intro s0 ctx s k
  extract_lets +onlyGivenNames x1
  clear_value x1
  extract_lets +onlyGivenNames x2
  clear_value x2
  extract_lets +onlyGivenNames x3
  clear_value x3
  with_reducible apply checked_keeps (hm.of rfl)
  · assumption
  · exact okWith_keeps (hm.of rfl) (by assumption)

theorem cmdSafStatus_keeps {m} (hm : Sub 0 m) : KeepsCmd m cmdSafStatus := by
  unfold cmdSafStatus
  apply KeepsCmd.mk
  intro s0 ctx s k
  extract_lets +onlyGivenNames x1
  clear_value x1
  exact okWith_keeps (hm.of rfl) (by assumption)

theorem cmdSafInputSet_keeps {m} (hm : Sub 262212 m) : KeepsCmd m cmdSafInputSet := by
  unfold cmdSafInputSet
  apply KeepsCmd.mk
  intro s0 ctx s k
  extract_lets +onlyGivenNames x1
  clear_value x1
  extract_lets +onlyGivenNames x2
  clear_value x2
  extract_lets +onlyGivenNames x3
  clear_value x3
  extract_lets +onlyGivenNames x4
  clear_value x4
  apply KeepsA.ite
  · exact fail_keeps (hm.of rfl) (by assumption)
  · with_reducible apply checked_keeps (hm.of rfl)
    · assumption
    · apply KeepsA.ite
      · extract_lets +onlyGivenNames x5
        clear_value x5
        apply KeepsA.ite
        · with_reducible apply okWith_keeps (hm.of rfl)
          exact setFio_keeps (hm.of rfl) (by assumption)
        · exact fail_keeps (hm.of rfl) (by assumption)
      · apply KeepsA.ite
        · exact fail_keeps (hm.of rfl) (by assumption)
        · apply KeepsA.ite
          · extract_lets +onlyGivenNames x6
            clear_value x6
            with_reducible apply okWith_keeps (hm.of rfl)
            with_reducible apply inputEvent_keeps (hm.of rfl)
            exact setFio_keeps (hm.of rfl) (by assumption)
          · extract_lets +onlyGivenNames x7
            clear_value x7
            apply KeepsA.ite
            · exact fail_keeps (hm.of rfl) (by assumption)
            · extract_lets +onlyGivenNames x8
              clear_value x8
              with_reducible apply okWith_keeps (hm.of rfl)
              with_reducible apply armGen_keeps (hm.of rfl)
              exact setFio_keeps (hm.of rfl) (by assumption)

theorem outputEvent_keeps {m} {s0 : State} {p1 p2} {p3 : State} (hm : Sub 4 m) (k : Keeps m s0 p3) :
    Keeps m s0 (outputEvent p1 p2 p3) := by
  unfold outputEvent
  exact raiseEvent_keeps (hm.of rfl) (by assumption)

theorem cmdSafOutputSet_keeps {m} (hm : Sub 264197 m) : KeepsCmd m cmdSafOutputSet := by
  unfold cmdSafOutputSet
  apply KeepsCmd.mk
  intro s0 ctx s k
  extract_lets +onlyGivenNames x1
  clear_value x1
  extract_lets +onlyGivenNames x2
  clear_value x2
  with_reducible apply checked_keeps (hm.of rfl)
  · assumption
  · extract_lets +onlyGivenNames x3
    clear_value x3
    apply KeepsA.ite
    · with_reducible apply okWith_keeps (hm.of rfl)
      exact setFio_keeps (hm.of rfl) (by assumption)
    · extract_lets +onlyGivenNames x4
      clear_value x4
      apply KeepsA.ite
      · exact fail_keeps (hm.of rfl) (by assumption)
      · extract_lets +onlyGivenNames x5
        have h6 : Keeps m s0 x5.2 := draw_keeps (hm.of rfl) (by assumption)
        clear_value x5
        apply KeepsA.ite
        · with_reducible apply okWith_keeps (hm.of rfl)
          with_reducible apply evalOutputs_keeps (hm.of rfl)
          with_reducible apply syncField_keeps (hm.of rfl)
          with_reducible apply outputEvent_keeps (hm.of rfl)
          exact setOutput_keeps (hm.of rfl) (by assumption)
        · with_reducible apply fail_keeps (hm.of rfl)
          exact outputEvent_keeps (hm.of rfl) (by assumption)

theorem execFioLsConfig_keeps {m} {s0 : State} {p1} {p2 : State} (hm : Sub 8263 m) (k : Keeps m s0 p2) :
    KeepsR m s0 (execFioLsConfig p1 p2) := by
  unfold execFioLsConfig
  apply KeepsR.next
  with_reducible apply submit_keeps (hm.of rfl)
  · assumption
  · exact cmdFioLsConfig_keeps (hm.of rfl)

theorem execFioLsSet_keeps {m} {s0 : State} {p1} {p2 : State} (hm : Sub 270343 m) (k : Keeps m s0 p2) :
    KeepsR m s0 (execFioLsSet p1 p2) := by
  unfold execFioLsSet
  apply KeepsR.next
  with_reducible apply submit_keeps (hm.of rfl)
  · assumption
  · exact cmdFioLsSet_keeps (hm.of rfl)

theorem execFioLsRead_keeps {m} {s0 : State} {p1} {p2 : State} (hm : Sub 8199 m) (k : Keeps m s0 p2) :
    KeepsR m s0 (execFioLsRead p1 p2) := by
  unfold execFioLsRead
  apply KeepsR.next
  with_reducible apply submit_keeps (hm.of rfl)
  · assumption
  · exact cmdFioLsRead_keeps (hm.of rfl)

theorem execSafStatus_keeps {m} {s0 : State} {p1} {p2 : State} (hm : Sub 8199 m) (k : Keeps m s0 p2) :
    KeepsR m s0 (execSafStatus p1 p2) := by
  unfold execSafStatus
  apply KeepsR.next
  with_reducible apply submit_keeps (hm.of rfl)
  · assumption
  · exact cmdSafStatus_keeps (hm.of rfl)

theorem execSafInputSet_keeps {m} {s0 : State} {p1} {p2 : State} (hm : Sub 270407 m) (k : Keeps m s0 p2) :
    KeepsR m s0 (execSafInputSet p1 p2) := by
  unfold execSafInputSet
  apply KeepsR.next
  with_reducible apply submit_keeps (hm.of rfl)
  · assumption
  · exact cmdSafInputSet_keeps (hm.of rfl)

theorem execSafOutputSet_keeps {m} {s0 : State} {p1} {p2 : State} (hm : Sub 272391 m) (k : Keeps m s0 p2) :
    KeepsR m s0 (execSafOutputSet p1 p2) := by
  unfold execSafOutputSet
  apply KeepsR.next
  with_reducible apply submit_keeps (hm.of rfl)
  · assumption
  · exact cmdSafOutputSet_keeps (hm.of rfl)

end Sys2Proof.Machine
end

