-- ==== Sys2Proof/Laws/Keeps/Ident.lean ====
section
/-!
SUPPORT. What the operations of Machine/Ident.lean keep.
-/

namespace Sys2Proof.Machine

theorem seeIdentification_keeps {m} {s0 : State} {p1 p2 p3 p4 p5} {p6 : State} (hm : Sub 524292 m) (k : Keeps m s0 p6) :
    Keeps m s0 (seeIdentification p1 p2 p3 p4 p5 p6) := by
  unfold seeIdentification
  extract_lets +onlyGivenNames x1
  clear_value x1
  extract_lets +onlyGivenNames x2
  have h3 : Keeps m s0 x2 := setChg_keeps (hm.of rfl) (by assumption)
  clear_value x2
  exact idSeenEvent_keeps (hm.of rfl) (by assumption)

theorem cardProven_keeps {m} {s0 : State} {p1 p2 p3} {p4 : State} (hm : Sub 802852 m) (k : Keeps m s0 p4) :
    Keeps m s0 (cardProven p1 p2 p3 p4) := by
  unfold cardProven
  extract_lets +onlyGivenNames x1
  clear_value x1
  extract_lets +onlyGivenNames x2
  clear_value x2
  extract_lets +onlyGivenNames x3
  clear_value x3
  apply Keeps.ite
  · apply Keeps.ite
    · exact stopPoint_keeps (hm.of rfl) (by assumption)
    · exact idSeenEvent_keeps (hm.of rfl) (by assumption)
  · split
    · rename_i y4 y5
      apply Keeps.ite
      · exact seeIdentification_keeps (hm.of rfl) (by assumption)
      · exact takeGrant_keeps (hm.of rfl) (by assumption)
    · rename_i y6
      exact seeIdentification_keeps (hm.of rfl) (by assumption)

theorem setReader_keeps {m} {s0 : State} {p1 p2} {p3 : State} (hm : Sub 524288 m) (k : Keeps m s0 p3) :
    Keeps m s0 (setReader p1 p2 p3) := by
  unfold setReader
  exact setChg_keeps (hm.of rfl) (by assumption)

theorem sendCard_keeps {m} {s0 : State} {p1 p2 p3 p4} {p5 : State} (hm : Sub 524288 m) (k : Keeps m s0 p5) :
    Keeps m s0 (sendCard p1 p2 p3 p4 p5) := by
  unfold sendCard
  with_reducible apply setReader_keeps (hm.of rfl)
  exact setChg_keeps (hm.of rfl) (by assumption)

theorem cardFailed_keeps {m} {s0 : State} {p1} {p2 : State} (hm : Sub 524292 m) (k : Keeps m s0 p2) :
    Keeps m s0 (cardFailed p1 p2) := by
  unfold cardFailed
  extract_lets +onlyGivenNames x1
  have h2 : Keeps m s0 x1 := setReader_keeps (hm.of rfl) (by assumption)
  clear_value x1
  split
  · rename_i y3 y4 y5
    exact idSeenEvent_keeps (hm.of rfl) (by assumption)
  · rename_i y6 y7
    assumption

theorem sendAuth_keeps {m} {s0 : State} {p1 p2 p3} {p4 : State} (hm : Sub 524289 m) (k : Keeps m s0 p4) :
    Keeps m s0 (sendAuth p1 p2 p3 p4) := by
  unfold sendAuth
  extract_lets +onlyGivenNames x1
  have h2 : Keeps m s0 x1.2 := drawBytes_keeps (hm.of rfl) (by assumption)
  clear_value x1
  exact sendCard_keeps (hm.of rfl) (by assumption)

theorem cardIdent_keeps {m} {s0 : State} {p1 p2 p3} {p4 : State} (hm : Sub 550919 m) (k : Keeps m s0 p4) :
    Keeps m s0 (cardIdent p1 p2 p3 p4) := by
  unfold cardIdent
  extract_lets +onlyGivenNames x1
  clear_value x1
  extract_lets +onlyGivenNames x2
  clear_value x2
  apply Keeps.ite
  · exact cardFailed_keeps (hm.of rfl) (by assumption)
  · extract_lets +onlyGivenNames x3
    have h4 : Keeps m s0 x3.2 := keyFor_keeps (hm.of rfl) (by assumption)
    clear_value x3
    split
    · rename_i y5 y6
      exact cardFailed_keeps (hm.of rfl) (by assumption)
    · rename_i y7 y8 y9
      split
      · rename_i y10 y11
        exact cardFailed_keeps (hm.of rfl) (by assumption)
      · rename_i y12 y13 y14
        apply Keeps.ite
        · exact sendCard_keeps (hm.of rfl) (by assumption)
        · apply Keeps.ite
          · exact sendCard_keeps (hm.of rfl) (by assumption)
          · exact sendAuth_keeps (hm.of rfl) (by assumption)

theorem cardAuth_keeps {m} {s0 : State} {p1 p2 p3 p4 p5} {p6 : State} (hm : Sub 813095 m) (k : Keeps m s0 p6) :
    Keeps m s0 (cardAuth p1 p2 p3 p4 p5 p6) := by
  unfold cardAuth
  apply Keeps.ite
  · exact cardFailed_keeps (hm.of rfl) (by assumption)
  · extract_lets +onlyGivenNames x1
    have h2 : Keeps m s0 x1.2 := keyFor_keeps (hm.of rfl) (by assumption)
    clear_value x1
    split
    · rename_i y3 y4
      exact cardFailed_keeps (hm.of rfl) (by assumption)
    · rename_i y5 y6 y7
      extract_lets +onlyGivenNames x8
      clear_value x8
      split
      · rename_i y9 y10
        exact cardFailed_keeps (hm.of rfl) (by assumption)
      · rename_i y11 y12 y13
        extract_lets +onlyGivenNames x14
        have h15 : Keeps m s0 x14 := setReader_keeps (hm.of rfl) (by assumption)
        clear_value x14
        split
        · rename_i y16 y17 y18
          exact cardProven_keeps (hm.of rfl) (by assumption)
        · rename_i y19 y20
          assumption

theorem cardResponse_keeps {m} {s0 : State} {p1 p2} {p3 : State} (hm : Sub 813095 m) (k : Keeps m s0 p3) :
    Keeps m s0 (cardResponse p1 p2 p3) := by
  unfold cardResponse
  split
  · rename_i y1 y2
    assumption
  · rename_i y3 y4 y5
    exact cardIdent_keeps (hm.of rfl) (by assumption)
  · rename_i y6 y7 y8 y9 y10
    apply Keeps.ite
    · exact sendAuth_keeps (hm.of rfl) (by assumption)
    · exact cardFailed_keeps (hm.of rfl) (by assumption)
  · rename_i y11 y12 y13 y14 y15
    exact cardAuth_keeps (hm.of rfl) (by assumption)

theorem cardDetected_keeps {m} {s0 : State} {p1 p2} {p3 : State} (hm : Sub 524293 m) (k : Keeps m s0 p3) :
    Keeps m s0 (cardDetected p1 p2 p3) := by
  unfold cardDetected
  split
  · rename_i y1 y2
    assumption
  · rename_i y3 y4 y5
    apply Keeps.ite
    · assumption
    · apply Keeps.ite
      · with_reducible apply setReader_keeps (hm.of rfl)
        exact idSeenEvent_keeps (hm.of rfl) (by assumption)
      · extract_lets +onlyGivenNames x6
        have h7 : Keeps m s0 x6.2 := drawBytes_keeps (hm.of rfl) (by assumption)
        clear_value x6
        exact sendCard_keeps (hm.of rfl) (by assumption)

theorem cardDwell_keeps {m} {s0 : State} {p1} {p2 : State} (hm : Sub 524288 m) (k : Keeps m s0 p2) :
    Keeps m s0 (cardDwell p1 p2) := by
  unfold cardDwell
  exact setReader_keeps (hm.of rfl) (by assumption)

theorem contractOffered_keeps {m} {s0 : State} {p1} {p2 : State} (hm : Sub 26631 m) (k : Keeps m s0 p2) :
    Keeps m s0 (contractOffered p1 p2).2 := by
  unfold contractOffered
  extract_lets +onlyGivenNames x1
  clear_value x1
  extract_lets +onlyGivenNames x2
  clear_value x2
  split
  · rename_i y3
    extract_lets +onlyGivenNames x4
    have h5 : Keeps m s0 x4.2 := keyFor_keeps (hm.of rfl) (by assumption)
    clear_value x4
    apply Keeps.sndMk
    assumption
  · rename_i y6
    apply Keeps.sndMk
    assumption

theorem contractReceived_keeps {m} {s0 : State} {p1 p2 p3} {p4 : State} (hm : Sub 813095 m) (k : Keeps m s0 p4) :
    Keeps m s0 (contractReceived p1 p2 p3 p4) := by
  unfold contractReceived
  extract_lets +onlyGivenNames x1
  have h2 : Keeps m s0 x1.2 := contractOffered_keeps (hm.of rfl) (by assumption)
  clear_value x1
  apply Keeps.ite
  · assumption
  · split
    · rename_i y3 y4
      with_reducible apply refusePoint_keeps (hm.of rfl)
      exact sayVehicle_keeps (hm.of rfl) (by assumption)
    · rename_i y5 y6 y7
      extract_lets +onlyGivenNames x8
      have h9 : Keeps m s0 x8.2 := by
        unfold x8
        with_reducible apply drawBytes_keeps (hm.of rfl)
        exact engineWork_keeps (hm.of rfl) (by assumption)
      clear_value x8
      with_reducible apply sayVehicle_keeps (hm.of rfl)
      exact setPoint_keeps (hm.of rfl) (by assumption)

theorem contractAuthorised_keeps {m} {s0 : State} {p1 p2 p3 p4} {p5 : State} (hm : Sub 802852 m) (k : Keeps m s0 p5) :
    Keeps m s0 (contractAuthorised p1 p2 p3 p4 p5) := by
  unfold contractAuthorised
  extract_lets +onlyGivenNames x1
  clear_value x1
  apply Keeps.ite
  · assumption
  · extract_lets +onlyGivenNames x2
    have h3 : Keeps m s0 x2 := engineWork_keeps (hm.of rfl) (by assumption)
    clear_value x2
    extract_lets +onlyGivenNames x4
    clear_value x4
    extract_lets +onlyGivenNames x5
    have h6 : Keeps m s0 x5 := setPoint_keeps (hm.of rfl) (by assumption)
    clear_value x5
    apply Keeps.ite
    · with_reducible apply refusePoint_keeps (hm.of rfl)
      exact sayVehicle_keeps (hm.of rfl) (by assumption)
    · split
      · rename_i y7 y8 y9
        apply Keeps.ite
        · exact seeIdentification_keeps (hm.of rfl) (by assumption)
        · exact takeGrant_keeps (hm.of rfl) (by assumption)
      · rename_i y10 y11
        exact seeIdentification_keeps (hm.of rfl) (by assumption)

theorem setVehicle_keeps {m} {s0 : State} {p1 p2} {p3 : State} (hm : Sub 524288 m) (k : Keeps m s0 p3) :
    Keeps m s0 (setVehicle p1 p2 p3) := by
  unfold setVehicle
  exact setPoint_keeps (hm.of rfl) (by assumption)

theorem vehicleMessage_keeps {m} {s0 : State} {p1 p2} {p3 : State} (hm : Sub 813095 m) (k : Keeps m s0 p3) :
    Keeps m s0 (vehicleMessage p1 p2 p3) := by
  unfold vehicleMessage
  extract_lets +onlyGivenNames x1
  clear_value x1
  apply Keeps.ite
  · assumption
  · split
    · rename_i y2 y3 y4
      exact setVehicle_keeps (hm.of rfl) (by assumption)
    · rename_i y5 y6 y7 y8
      exact setVehicle_keeps (hm.of rfl) (by assumption)
    · rename_i y9 y10 y11
      exact contractReceived_keeps (hm.of rfl) (by assumption)
    · rename_i y12 y13 y14 y15
      exact contractAuthorised_keeps (hm.of rfl) (by assumption)
    · rename_i y16 y17
      exact setVehicle_keeps (hm.of rfl) (by assumption)
    · rename_i y18 y19 y20
      exact prechargeReached_keeps (hm.of rfl) (by assumption)
    · rename_i y21 y22 y23 y24
      exact setVehicle_keeps (hm.of rfl) (by assumption)
    · rename_i y25
      exact sayVehicle_keeps (hm.of rfl) (by assumption)
    · rename_i y26
      exact stopPoint_keeps (hm.of rfl) (by assumption)

end Sys2Proof.Machine
end

