-- ==== Sys2Proof/Laws/Keeps/Rings.lean ====
section
/-!
SUPPORT. What the operations of Machine/Rings.lean keep.
-/

namespace Sys2Proof.Machine

theorem setRing_keeps {m} {s0 : State} {p1 p2} {p3 : State} (hm : Sub 512 m) (k : Keeps m s0 p3) :
    Keeps m s0 (setRing p1 p2 p3) := by
  unfold setRing
  exact setMet_keeps (hm.of rfl) (by assumption)

theorem setRingPos_keeps {m} {s0 : State} {p1 p2 p3} {p4 : State} (hm : Sub 512 m) (k : Keeps m s0 p4) :
    Keeps m s0 (setRingPos p1 p2 p3 p4) := by
  unfold setRingPos
  exact setRing_keeps (hm.of rfl) (by assumption)

theorem sendRing_keeps {m} {s0 : State} {p1 p2} {p3 : State} (hm : Sub 512 m) (k : Keeps m s0 p3) :
    Keeps m s0 (sendRing p1 p2 p3) := by
  unfold sendRing
  exact setRing_keeps (hm.of rfl) (by assumption)

theorem sendNumbered_keeps {m} {s0 : State} {p1 p2 p3 p4} {p5 : State} (hm : Sub 512 m) (k : Keeps m s0 p5) :
    Keeps m s0 (sendNumbered p1 p2 p3 p4 p5) := by
  unfold sendNumbered
  exact setRing_keeps (hm.of rfl) (by assumption)

theorem ringEvent_keeps {m} {s0 : State} {p1 p2} {p3 : State} (hm : Sub 4 m) (k : Keeps m s0 p3) :
    Keeps m s0 (ringEvent p1 p2 p3) := by
  unfold ringEvent
  extract_lets +onlyGivenNames x1
  clear_value x1
  exact raiseEvent_keeps (hm.of rfl) (by assumption)

theorem ringGoto_keeps {m} {s0 : State} {p1 p2} {p3 : State} (hm : Sub 516 m) (k : Keeps m s0 p3) :
    Keeps m s0 (ringGoto p1 p2 p3) := by
  unfold ringGoto
  extract_lets +onlyGivenNames x1
  clear_value x1
  extract_lets +onlyGivenNames x2
  have h3 : Keeps m s0 x2 := setRing_keeps (hm.of rfl) (by assumption)
  clear_value x2
  apply Keeps.ite
  · assumption
  · exact ringEvent_keeps (hm.of rfl) (by assumption)

theorem resplit_keeps {m} {s0 : State} {p1} {p2 : State} (hm : Sub 512 m) (k : Keeps m s0 p2) :
    Keeps m s0 (resplit p1 p2) := by
  unfold resplit
  exact setRing_keeps (hm.of rfl) (by assumption)

theorem sweepRing_keeps {m} {s0 : State} {p2} {p1 : State} (hm : Sub 512 m) (k : Keeps m s0 p1) :
    Keeps m s0 (sweepRing p1 p2) := by
  unfold sweepRing
  extract_lets +onlyGivenNames x1
  clear_value x1
  apply Keeps.ite
  · assumption
  · extract_lets +onlyGivenNames x2
    clear_value x2
    extract_lets +onlyGivenNames x3
    clear_value x3
    extract_lets +onlyGivenNames x4
    clear_value x4
    extract_lets +onlyGivenNames x5
    clear_value x5
    exact setRing_keeps (hm.of rfl) (by assumption)

theorem closeSatellite_keeps {m} {s0 : State} {p1 p2} {p3 : State} (hm : Sub 516 m) (k : Keeps m s0 p3) :
    Keeps m s0 (closeSatellite p1 p2 p3) := by
  unfold closeSatellite
  apply Keeps.foldl
  · intro a1 a2 a3
    exact closeWaiting_keeps (hm.of rfl) (by assumption)
  · assumption

theorem ringsTick_keeps {m} {s0 : State} {p1 : State} (hm : Sub 516 m) (k : Keeps m s0 p1) :
    Keeps m s0 (ringsTick p1) := by
  unfold ringsTick
  apply Keeps.ite
  · apply Keeps.foldl
    · intro a1 a2 a3
      apply Keeps.foldl
      · intro a4 a5 a6
        exact closeSatellite_keeps (hm.of rfl) (by assumption)
      · exact sweepRing_keeps (hm.of rfl) (by assumption)
    · assumption
  · assumption

theorem recordChannel_keeps {m} {s0 : State} {p1 p2 p3 p5} {p4 : State} (hm : Sub 10759 m) (k : Keeps m s0 p4) :
    Keeps m s0 (recordChannel p1 p2 p3 p4 p5) := by
  unfold recordChannel
  extract_lets +onlyGivenNames x1
  clear_value x1
  split
  · rename_i y2 y3
    assumption
  · rename_i y4 y5 y6
    split
    · rename_i y7 y8 y9 y10 y11
      split
      · rename_i y12 y13 y14 y15
        extract_lets +onlyGivenNames x16
        clear_value x16
        extract_lets +onlyGivenNames x17
        have h18 : Keeps m s0 x17 := setMetChan_keeps (hm.of rfl) (by assumption)
        clear_value x17
        extract_lets +onlyGivenNames x19
        have h20 : Keeps m s0 x19 := by
          unfold x19
          apply Keeps.ite
          · exact raiseFault_keeps (hm.of rfl) (by assumption)
          · assumption
        clear_value x19
        apply Keeps.ite
        · exact raiseEvent_keeps (hm.of rfl) (by assumption)
        · assumption

theorem recordSelftest_keeps {m} {s0 : State} {p1 p2} {p3 : State} (hm : Sub 512 m) (k : Keeps m s0 p3) :
    Keeps m s0 (recordSelftest p1 p2 p3) := by
  unfold recordSelftest
  extract_lets +onlyGivenNames x1
  clear_value x1
  extract_lets +onlyGivenNames x2
  clear_value x2
  extract_lets +onlyGivenNames x3
  clear_value x3
  extract_lets +onlyGivenNames x4
  have h5 : Keeps m s0 x4 := setMet_keeps (hm.of rfl) (by assumption)
  clear_value x4
  apply Keeps.foldl
  · intro a6 a7 a8
    exact setMetChan_keeps (hm.of rfl) (by assumption)
  · assumption

theorem satelliteRestart_keeps {m} {s0 : State} {p1 p2 p3 p4} {p5 : State} (hm : Sub 512 m) (k : Keeps m s0 p5) :
    Keeps m s0 (satelliteRestart p1 p2 p3 p4 p5) := by
  unfold satelliteRestart
  extract_lets +onlyGivenNames x1
  have h2 : Keeps m s0 x1 := by
    unfold x1
    apply Keeps.foldl
    · intro a3 a4 a5
      extract_lets +onlyGivenNames x6
      have h7 : Keeps m s0 x6 := setMetSet_keeps (hm.of rfl) (by assumption)
      clear_value x6
      exact setMet_keeps (hm.of rfl) (by assumption)
    · assumption
  clear_value x1
  exact setMet_keeps (hm.of rfl) (by assumption)

theorem recordSet_keeps {m} {s0 : State} {p1 p2 p3 p5} {p4 : State} (hm : Sub 512 m) (k : Keeps m s0 p4) :
    Keeps m s0 (recordSet p1 p2 p3 p4 p5) := by
  unfold recordSet
  split
  · rename_i y1 y2 y3
    extract_lets +onlyGivenNames x4
    clear_value x4
    exact setMetSet_keeps (hm.of rfl) (by assumption)

theorem ringRecord_keeps {m} {s0 : State} {p1 p2 p3} {p4 : State} (hm : Sub 10759 m) (k : Keeps m s0 p4) :
    Keeps m s0 (ringRecord p1 p2 p3 p4) := by
  unfold ringRecord
  extract_lets +onlyGivenNames x1
  clear_value x1
  apply Keeps.ite
  · assumption
  · extract_lets +onlyGivenNames x2
    clear_value x2
    extract_lets +onlyGivenNames x3
    clear_value x3
    extract_lets +onlyGivenNames x4
    clear_value x4
    extract_lets +onlyGivenNames x5
    clear_value x5
    extract_lets +onlyGivenNames x6
    have h7 : Keeps m s0 x6 := setRingPos_keeps (hm.of rfl) (by assumption)
    clear_value x6
    extract_lets +onlyGivenNames x8
    have h9 : Keeps m s0 x8 := by
      unfold x8
      apply Keeps.ite
      · exact setRing_keeps (hm.of rfl) (by assumption)
      · assumption
    clear_value x8
    extract_lets +onlyGivenNames x10
    have h11 : Keeps m s0 x10 := by
      unfold x10
      apply Keeps.foldl
      · intro a12 a13 a14
        exact recordChannel_keeps (hm.of rfl) (by assumption)
      · assumption
    clear_value x10
    extract_lets +onlyGivenNames x15
    have h16 : Keeps m s0 x15 := by
      unfold x15
      apply Keeps.ite
      · exact satelliteRestart_keeps (hm.of rfl) (by assumption)
      · assumption
    clear_value x15
    extract_lets +onlyGivenNames x17
    have h18 : Keeps m s0 x17 := by
      unfold x17
      apply Keeps.ite
      · exact recordSelftest_keeps (hm.of rfl) (by assumption)
      · assumption
    clear_value x17
    extract_lets +onlyGivenNames x19
    have h20 : Keeps m s0 x19 := by
      unfold x19
      apply Keeps.foldl
      · intro a21 a22 a23
        exact recordSet_keeps (hm.of rfl) (by assumption)
      · assumption
    clear_value x19
    exact closeSatellite_keeps (hm.of rfl) (by assumption)

theorem enumerate_keeps {m} {s0 : State} {p1} {p2 : State} (hm : Sub 516 m) (k : Keeps m s0 p2) :
    Keeps m s0 (enumerate p1 p2) := by
  unfold enumerate
  with_reducible apply ringGoto_keeps (hm.of rfl)
  exact sendRing_keeps (hm.of rfl) (by assumption)

theorem recordBreak_keeps {m} {s0 : State} {p1 p2} {p3 : State} (hm : Sub 512 m) (k : Keeps m s0 p3) :
    Keeps m s0 (recordBreak p1 p2 p3) := by
  unfold recordBreak
  exact setRing_keeps (hm.of rfl) (by assumption)

theorem lossOfSignal_keeps {m} {s0 : State} {p1 p2} {p3 : State} (hm : Sub 10759 m) (k : Keeps m s0 p3) :
    Keeps m s0 (lossOfSignal p1 p2 p3) := by
  unfold lossOfSignal
  extract_lets +onlyGivenNames x1
  clear_value x1
  split
  · rename_i y2 y3
    assumption
  · rename_i y4 y5
    with_reducible apply enumerate_keeps (hm.of rfl)
    exact setRing_keeps (hm.of rfl) (by assumption)
  · rename_i y6 y7
    extract_lets +onlyGivenNames x8
    clear_value x8
    extract_lets +onlyGivenNames x9
    have h10 : Keeps m s0 x9 := by
      unfold x9
      with_reducible apply resplit_keeps (hm.of rfl)
      exact setRing_keeps (hm.of rfl) (by assumption)
    clear_value x9
    extract_lets +onlyGivenNames x11
    clear_value x11
    extract_lets +onlyGivenNames x12
    have h13 : Keeps m s0 x12 := setRing_keeps (hm.of rfl) (by assumption)
    clear_value x12
    with_reducible apply ringGoto_keeps (hm.of rfl)
    exact raiseFault_keeps (hm.of rfl) (by assumption)
  · rename_i y14 y15
    apply Keeps.ite
    · assumption
    · with_reducible apply ringGoto_keeps (hm.of rfl)
      with_reducible apply raiseFault_keeps (hm.of rfl)
      exact recordBreak_keeps (hm.of rfl) (by assumption)
  · rename_i y16 y17
    exact recordBreak_keeps (hm.of rfl) (by assumption)

theorem linkRestored_keeps {m} {s0 : State} {p1 p2} {p3 : State} (hm : Sub 516 m) (k : Keeps m s0 p3) :
    Keeps m s0 (linkRestored p1 p2 p3) := by
  unfold linkRestored
  split
  · rename_i y1 y2
    assumption
  · rename_i y3 y4
    assumption
  · rename_i y5 y6
    with_reducible apply enumerate_keeps (hm.of rfl)
    exact setRing_keeps (hm.of rfl) (by assumption)
  · rename_i y7 y8
    with_reducible apply enumerate_keeps (hm.of rfl)
    exact setRing_keeps (hm.of rfl) (by assumption)
  · rename_i y9 y10
    with_reducible apply enumerate_keeps (hm.of rfl)
    exact setRing_keeps (hm.of rfl) (by assumption)

theorem reportMismatch_keeps {m} {s0 : State} {p1 p2 p3} {p4 : State} (hm : Sub 10279 m) (k : Keeps m s0 p4) :
    Keeps m s0 (reportMismatch p1 p2 p3 p4) := by
  unfold reportMismatch
  extract_lets +onlyGivenNames x1
  have h2 : Keeps m s0 x1 := by
    unfold x1
    apply Keeps.ite
    · exact raiseFault_keeps (hm.of rfl) (by assumption)
    · assumption
  clear_value x1
  apply Keeps.ite
  · exact audit_keeps (hm.of rfl) (by assumption)
  · assumption

theorem sendConfig_keeps {m} {s0 : State} {p1} {p2 : State} (hm : Sub 512 m) (k : Keeps m s0 p2) :
    Keeps m s0 (sendConfig p1 p2) := by
  unfold sendConfig
  apply Keeps.foldl
  · intro a1 a2 a3
    apply Keeps.ite
    · assumption
    · apply Keeps.foldl
      · intro a4 a5 a6
        extract_lets +onlyGivenNames x7
        clear_value x7
        apply Keeps.ite
        · exact sendNumbered_keeps (hm.of rfl) (by assumption)
        · assumption
      · assumption
  · assumption

theorem sendFirmware_keeps {m} {s0 : State} {p1 p2} {p3 : State} (hm : Sub 512 m) (k : Keeps m s0 p3) :
    Keeps m s0 (sendFirmware p1 p2 p3) := by
  unfold sendFirmware
  extract_lets +onlyGivenNames x1
  clear_value x1
  apply Keeps.foldl
  · intro a2 a3 a4
    exact sendNumbered_keeps (hm.of rfl) (by assumption)
  · assumption

theorem updateFirmware_keeps {m} {s0 : State} {p1 p2} {p3 : State} (hm : Sub 512 m) (k : Keeps m s0 p3) :
    Keeps m s0 (updateFirmware p1 p2 p3) := by
  unfold updateFirmware
  with_reducible apply setRingPos_keeps (hm.of rfl)
  exact sendFirmware_keeps (hm.of rfl) (by assumption)

theorem greetFound_keeps {m} {s0 : State} {p1 p3} {p2 : State} (hm : Sub 512 m) (k : Keeps m s0 p2) :
    Keeps m s0 (greetFound p1 p2 p3) := by
  unfold greetFound
  extract_lets +onlyGivenNames x1
  clear_value x1
  extract_lets +onlyGivenNames x2
  have h3 : Keeps m s0 x2 := sendRing_keeps (hm.of rfl) (by assumption)
  clear_value x2
  apply Keeps.ite
  · extract_lets +onlyGivenNames x4
    have h5 : Keeps m s0 x4 := by
      unfold x4
      apply Keeps.ite
      · assumption
      · exact updateFirmware_keeps (hm.of rfl) (by assumption)
    clear_value x4
    exact sendNumbered_keeps (hm.of rfl) (by assumption)
  · assumption

theorem enumerationComplete_keeps {m} {s0 : State} {p1 p2 p3} {p4 : State} (hm : Sub 10791 m) (k : Keeps m s0 p4) :
    Keeps m s0 (enumerationComplete p1 p2 p3 p4) := by
  unfold enumerationComplete
  apply Keeps.ite
  · assumption
  · extract_lets +onlyGivenNames x1
    have h2 : Keeps m s0 x1 := setRing_keeps (hm.of rfl) (by assumption)
    clear_value x1
    extract_lets +onlyGivenNames x3
    have h4 : Keeps m s0 x3 := resplit_keeps (hm.of rfl) (by assumption)
    clear_value x3
    extract_lets +onlyGivenNames x5
    have h6 : Keeps m s0 x5 := by
      unfold x5
      apply Keeps.foldl
      · intro a7 a8 a9
        exact reportMismatch_keeps (hm.of rfl) (by assumption)
      · assumption
    clear_value x5
    extract_lets +onlyGivenNames x10
    have h11 : Keeps m s0 x10 := by
      unfold x10
      apply Keeps.foldl
      · intro a12 a13 a14
        exact greetFound_keeps (hm.of rfl) (by assumption)
      · assumption
    clear_value x10
    split
    · rename_i y15
      with_reducible apply ringGoto_keeps (hm.of rfl)
      exact endFault_keeps (hm.of rfl) (by assumption)
    · rename_i y16 y17
      exact ringGoto_keeps (hm.of rfl) (by assumption)
    · rename_i y18 y19 y20
      exact ringGoto_keeps (hm.of rfl) (by assumption)

theorem rejudge_keeps {m} {s0 : State} {p1 : State} (hm : Sub 10791 m) (k : Keeps m s0 p1) :
    Keeps m s0 (rejudge p1) := by
  unfold rejudge
  apply Keeps.foldl
  · intro a1 a2 a3
    with_reducible apply resplit_keeps (hm.of rfl)
    apply Keeps.foldl
    · intro a4 a5 a6
      extract_lets +onlyGivenNames x7
      clear_value x7
      apply Keeps.ite
      · assumption
      · extract_lets +onlyGivenNames x8
        clear_value x8
        extract_lets +onlyGivenNames x9
        clear_value x9
        apply Keeps.ite
        · assumption
        · with_reducible apply reportMismatch_keeps (hm.of rfl)
          exact setRingPos_keeps (hm.of rfl) (by assumption)
    · assumption
  · assumption

theorem ringsDown_keeps {m} {s0 : State} {p1 : State} (hm : Sub 516 m) (k : Keeps m s0 p1) :
    Keeps m s0 (ringsDown p1) := by
  unfold ringsDown
  apply Keeps.foldl
  · intro a1 a2 a3
    exact ringGoto_keeps (hm.of rfl) (by assumption)
  · assumption

theorem ringsUp_keeps {m} {s0 : State} {p1 : State} (hm : Sub 516 m) (k : Keeps m s0 p1) :
    Keeps m s0 (ringsUp p1) := by
  unfold ringsUp
  apply Keeps.foldl
  · intro a1 a2 a3
    with_reducible apply enumerate_keeps (hm.of rfl)
    exact setRing_keeps (hm.of rfl) (by assumption)
  · assumption

theorem recordMissing_keeps {m} {s0 : State} {p1 p2} {p3 : State} (hm : Sub 10759 m) (k : Keeps m s0 p3) :
    Keeps m s0 (recordMissing p1 p2 p3) := by
  unfold recordMissing
  extract_lets +onlyGivenNames x1
  clear_value x1
  extract_lets +onlyGivenNames x2
  clear_value x2
  apply Keeps.ite
  · with_reducible apply setRingPos_keeps (hm.of rfl)
    exact raiseFault_keeps (hm.of rfl) (by assumption)
  · assumption

theorem satelliteUnreachable_keeps {m} {s0 : State} {p1 p2} {p3 : State} (hm : Sub 10247 m) (k : Keeps m s0 p3) :
    Keeps m s0 (satelliteUnreachable p1 p2 p3) := by
  unfold satelliteUnreachable
  extract_lets +onlyGivenNames x1
  clear_value x1
  split
  · rename_i y2 y3 y4
    apply Keeps.ite
    · apply Keeps.foldl
      · intro a5 a7 h10
        exact raiseFault_keeps (hm.of rfl) (by assumption)
      · assumption
    · assumption
  · rename_i y11 y12
    assumption

theorem tickMarkMissing_keeps {m} {s0 : State} {p1 p2} {p3 : State} (hm : Sub 512 m) (k : Keeps m s0 p3) :
    Keeps m s0 (tickMarkMissing p1 p2 p3) := by
  unfold tickMarkMissing
  extract_lets +onlyGivenNames x1
  have h2 : Keeps m s0 x1 := setRingPos_keeps (hm.of rfl) (by assumption)
  clear_value x1
  apply Keeps.foldl
  · intro a3 a5 h8
    split
    · rename_i y9 y10 y11
      exact setMetSet_keeps (hm.of rfl) (by assumption)
  · assumption

theorem ringStatus_keeps {m} {s0 : State} {p1 p2 p3} {p4 : State} (hm : Sub 10759 m) (k : Keeps m s0 p4) :
    Keeps m s0 (ringStatus p1 p2 p3 p4) := by
  unfold ringStatus
  apply Keeps.ite
  · exact lossOfSignal_keeps (hm.of rfl) (by assumption)
  · apply Keeps.ite
    · exact linkRestored_keeps (hm.of rfl) (by assumption)
    · apply Keeps.ite
      · with_reducible apply setMet_keeps (hm.of rfl)
        exact setRingPos_keeps (hm.of rfl) (by assumption)
      · assumption

theorem setGroup_keeps {m} {s0 : State} {p1 p2} {p3 : State} (hm : Sub 512 m) (k : Keeps m s0 p3) :
    Keeps m s0 (setGroup p1 p2 p3) := by
  unfold setGroup
  exact setMet_keeps (hm.of rfl) (by assumption)

theorem selftestEvent_keeps {m} {s0 : State} {p1 p2} {p3 : State} (hm : Sub 4 m) (k : Keeps m s0 p3) :
    Keeps m s0 (selftestEvent p1 p2 p3) := by
  unfold selftestEvent
  exact raiseEvent_keeps (hm.of rfl) (by assumption)

theorem swapTo_keeps {m} {s0 : State} {p1 p2} {p3 : State} (hm : Sub 512 m) (k : Keeps m s0 p3) :
    Keeps m s0 (swapTo p1 p2 p3) := by
  unfold swapTo
  exact setMetChan_keeps (hm.of rfl) (by assumption)

theorem countSelftest_keeps {m} {s0 : State} {p1 : State} (hm : Sub 512 m) (k : Keeps m s0 p1) :
    Keeps m s0 (countSelftest p1) := by
  unfold countSelftest
  exact setMet_keeps (hm.of rfl) (by assumption)

theorem selftestStep_keeps {m} {s0 : State} {p1} {p2 : State} (hm : Sub 512 m) (k : Keeps m s0 p2) :
    Keeps m s0 (selftestStep p1 p2) := by
  unfold selftestStep
  extract_lets +onlyGivenNames x1
  clear_value x1
  apply Keeps.ite
  · exact setGroup_keeps (hm.of rfl) (by assumption)
  · assumption

theorem selftestPhaseEnd_keeps {m} {s0 : State} {p1 p2} {p3 : State} (hm : Sub 516 m) (k : Keeps m s0 p3) :
    Keeps m s0 (selftestPhaseEnd p1 p2 p3) := by
  unfold selftestPhaseEnd
  split
  · rename_i y1 y2
    apply Keeps.ite
    · exact setGroup_keeps (hm.of rfl) (by assumption)
    · apply Keeps.ite
      · with_reducible apply swapTo_keeps (hm.of rfl)
        exact setGroup_keeps (hm.of rfl) (by assumption)
      · with_reducible apply countSelftest_keeps (hm.of rfl)
        with_reducible apply selftestEvent_keeps (hm.of rfl)
        exact setGroup_keeps (hm.of rfl) (by assumption)
  · rename_i y3 y4
    apply Keeps.ite
    · with_reducible apply selftestEvent_keeps (hm.of rfl)
      with_reducible apply swapTo_keeps (hm.of rfl)
      exact setGroup_keeps (hm.of rfl) (by assumption)
    · with_reducible apply countSelftest_keeps (hm.of rfl)
      with_reducible apply selftestEvent_keeps (hm.of rfl)
      exact setGroup_keeps (hm.of rfl) (by assumption)
  · rename_i y5 y6 y7
    assumption

theorem pinChannel_keeps {m} {s0 : State} {p1} {p2 : State} (hm : Sub 10791 m) (k : Keeps m s0 p2) :
    Keeps m s0 (pinChannel p1 p2) := by
  unfold pinChannel
  extract_lets +onlyGivenNames x1
  have h2 : Keeps m s0 x1 := by
    unfold x1
    with_reducible apply selftestEvent_keeps (hm.of rfl)
    with_reducible apply selftestEvent_keeps (hm.of rfl)
    with_reducible apply countSelftest_keeps (hm.of rfl)
    exact raiseFault_keeps (hm.of rfl) (by assumption)
  clear_value x1
  extract_lets +onlyGivenNames x3
  have h4 : Keeps m s0 x3 := audit_keeps (hm.of rfl) (by assumption)
  clear_value x3
  with_reducible apply swapTo_keeps (hm.of rfl)
  exact setGroup_keeps (hm.of rfl) (by assumption)

theorem selftestPrimary_keeps {m} {s0 : State} {p1 p2} {p3 : State} (hm : Sub 10791 m) (k : Keeps m s0 p3) :
    Keeps m s0 (selftestPrimary p1 p2 p3) := by
  unfold selftestPrimary
  split
  · rename_i y1 y2
    apply Keeps.ite
    · exact setGroup_keeps (hm.of rfl) (by assumption)
    · exact pinChannel_keeps (hm.of rfl) (by assumption)
  · rename_i y3 y4
    apply Keeps.ite
    · with_reducible apply selftestEvent_keeps (hm.of rfl)
      with_reducible apply swapTo_keeps (hm.of rfl)
      with_reducible apply setGroup_keeps (hm.of rfl)
      with_reducible apply countSelftest_keeps (hm.of rfl)
      exact raiseFault_keeps (hm.of rfl) (by assumption)
    · exact pinChannel_keeps (hm.of rfl) (by assumption)
  · rename_i y5 y6 y7
    assumption

theorem selftestSpare_keeps {m} {s0 : State} {p1 p2} {p3 : State} (hm : Sub 10759 m) (k : Keeps m s0 p3) :
    Keeps m s0 (selftestSpare p1 p2 p3) := by
  unfold selftestSpare
  extract_lets +onlyGivenNames x1
  clear_value x1
  apply Keeps.ite
  · apply Keeps.ite
    · extract_lets +onlyGivenNames x2
      clear_value x2
      extract_lets +onlyGivenNames x3
      have h4 : Keeps m s0 x3 := by
        unfold x3
        apply Keeps.foldl
        · intro a5 a7 h10
          exact setMetSet_keeps (hm.of rfl) (by assumption)
        · assumption
      clear_value x3
      with_reducible apply swapTo_keeps (hm.of rfl)
      exact setGroup_keeps (hm.of rfl) (by assumption)
    · assumption
  · extract_lets +onlyGivenNames x11
    have h12 : Keeps m s0 x11 := by
      unfold x11
      with_reducible apply selftestEvent_keeps (hm.of rfl)
      exact countSelftest_keeps (hm.of rfl) (by assumption)
    clear_value x11
    apply Keeps.ite
    · exact raiseFault_keeps (hm.of rfl) (by assumption)
    · with_reducible apply swapTo_keeps (hm.of rfl)
      with_reducible apply setGroup_keeps (hm.of rfl)
      exact raiseFault_keeps (hm.of rfl) (by assumption)

theorem captureHold_keeps {m} {s0 : State} {p1} {p2 : State} (hm : Sub 512 m) (k : Keeps m s0 p2) :
    Keeps m s0 (captureHold p1 p2) := by
  unfold captureHold
  apply Keeps.foldl
  · intro a1 a3 h6
    extract_lets +onlyGivenNames x7
    clear_value x7
    extract_lets +onlyGivenNames x8
    have h9 : Keeps m s0 x8 := setGroup_keeps (hm.of rfl) (by assumption)
    clear_value x8
    apply Keeps.ite
    · exact setGroup_keeps (hm.of rfl) (by assumption)
    · assumption
  · assumption

theorem captureRelease_keeps {m} {s0 : State} {p1} {p2 : State} (hm : Sub 512 m) (k : Keeps m s0 p2) :
    Keeps m s0 (captureRelease p1 p2) := by
  unfold captureRelease
  apply Keeps.foldl
  · intro a1 a3 h6
    exact setGroup_keeps (hm.of rfl) (by assumption)
  · assumption

theorem captureStart_keeps {m} {s0 : State} {p1 : State} (hm : Sub 512 m) (k : Keeps m s0 p1) :
    Keeps m s0 (captureStart p1) := by
  unfold captureStart
  split
  · rename_i y1 y2 y3
    apply Keeps.ite
    · exact setMet_keeps (hm.of rfl) (by assumption)
    · assumption
  · rename_i y4 y5
    assumption

theorem captureResult_keeps {m} {s0 : State} {p1 p2} {p3 : State} (hm : Sub 1 m) (k : Keeps m s0 p3) :
    Keeps m s0 (captureResult p1 p2 p3).2 := by
  unfold captureResult
  extract_lets +onlyGivenNames x1
  clear_value x1
  extract_lets +onlyGivenNames x2
  have h3 : Keeps m s0 x2.2 := draw_keeps (hm.of rfl) (by assumption)
  clear_value x2
  extract_lets +onlyGivenNames x4
  have h5 : Keeps m s0 x4.2 := draw_keeps (hm.of rfl) (by assumption)
  clear_value x4
  assumption

theorem captureResults_keeps {m} {s0 : State} {p1 p2} {p3 : State} (hm : Sub 1 m) (k : Keeps m s0 p3) :
    Keeps m s0 (captureResults p1 p2 p3).2 := by
  induction p2 generalizing p3 with
  | nil => exact k
  | cons ch cs ih => exact ih (captureResult_keeps (hm.of rfl) k)

theorem captureComplete_keeps {m} {s0 : State} {p1 : State} (hm : Sub 519 m) (k : Keeps m s0 p1) :
    Keeps m s0 (captureComplete p1) := by
  unfold captureComplete
  split
  · rename_i y1 y2 y3
    apply Keeps.ite
    · extract_lets +onlyGivenNames x4
      have h5 : Keeps m s0 x4.2 := captureResults_keeps (hm.of rfl) (by assumption)
      clear_value x4
      extract_lets +onlyGivenNames x6
      have h7 : Keeps m s0 x6.2 := drawBytes_keeps (hm.of rfl) (by assumption)
      clear_value x6
      extract_lets +onlyGivenNames x8
      have h9 : Keeps m s0 x8 := by
        unfold x8
        apply Keeps.ite
        · assumption
        · exact produceAll_keeps (hm.of rfl) (by assumption)
      clear_value x8
      extract_lets +onlyGivenNames x10
      have h11 : Keeps m s0 x10 := by
        unfold x10
        with_reducible apply captureRelease_keeps (hm.of rfl)
        exact setMet_keeps (hm.of rfl) (by assumption)
      clear_value x10
      exact complete_keeps (hm.of rfl) (by assumption)
    · assumption
  · rename_i y12 y13
    assumption

theorem sealMs1Closed_keeps {m} {s0 : State} {p1 : State} (hm : Sub 612 m) (k : Keeps m s0 p1) :
    Keeps m s0 (sealMs1Closed p1) := by
  unfold sealMs1Closed
  extract_lets +onlyGivenNames x1
  have h2 : Keeps m s0 x1 := by
    unfold x1
    split
    · rename_i y3 y4 y5
      with_reducible apply complete_keeps (hm.of rfl)
      with_reducible apply captureRelease_keeps (hm.of rfl)
      exact setMet_keeps (hm.of rfl) (by assumption)
    · rename_i y6 y7
      assumption
  clear_value x1
  extract_lets +onlyGivenNames x8
  clear_value x8
  extract_lets +onlyGivenNames x9
  clear_value x9
  extract_lets +onlyGivenNames x10
  have h11 : Keeps m s0 x10 := by
    unfold x10
    exact Keeps.rest 64 (hm.of rfl) (by assumption) rfl
  clear_value x10
  apply Keeps.foldl
  · intro a12 a14 h17
    extract_lets +onlyGivenNames x18
    have h19 : Keeps m s0 x18 := audit_keeps (hm.of rfl) (by assumption)
    clear_value x18
    split
    · rename_i y20 y21 y22
      exact complete_keeps (hm.of rfl) (by assumption)
    · rename_i y23 y24
      assumption
  · assumption

theorem sealAudit_keeps {m} {s0 : State} {p1 p2 p3} {p4 : State} (hm : Sub 1056 m) (k : Keeps m s0 p4) :
    Keeps m s0 (sealAudit p1 p2 p3 p4) := by
  unfold sealAudit
  extract_lets +onlyGivenNames x1
  have h2 : Keeps m s0 x1 := audit_keeps (hm.of rfl) (by assumption)
  clear_value x1
  exact Keeps.rest 1024 (hm.of rfl) (by assumption) rfl

theorem execDemandBoundary_keeps {m} {s0 : State} {p1 p2} {p3 : State} (hm : Sub 516 m) (k : Keeps m s0 p3) :
    KeepsR m s0 (execDemandBoundary p1 p2 p3) := by
  unfold execDemandBoundary
  apply KeepsR.next
  exact demandBoundary_keeps (hm.of rfl) (by assumption)

theorem execCoilSettled_keeps {m} {s0 : State} {p1 : State} (hm : Sub 512 m) (k : Keeps m s0 p1) :
    KeepsR m s0 (execCoilSettled p1) := by
  unfold execCoilSettled
  apply KeepsR.next
  apply Keeps.ite
  · exact setMet_keeps (hm.of rfl) (by assumption)
  · assumption

theorem execRingRecordRx_keeps {m} {s0 : State} {p1 p2 p3} {p4 : State} (hm : Sub 10759 m) (k : Keeps m s0 p4) :
    KeepsR m s0 (execRingRecordRx p1 p2 p3 p4) := by
  unfold execRingRecordRx
  apply KeepsR.next
  split
  · rename_i y1 y2 y3
    exact ringRecord_keeps (hm.of rfl) (by assumption)
  · rename_i y4 y5
    assumption

theorem execRingStatusRx_keeps {m} {s0 : State} {p1 p2 p3} {p4 : State} (hm : Sub 10759 m) (k : Keeps m s0 p4) :
    KeepsR m s0 (execRingStatusRx p1 p2 p3 p4) := by
  unfold execRingStatusRx
  apply KeepsR.next
  exact ringStatus_keeps (hm.of rfl) (by assumption)

theorem execRingLossOfSignal_keeps {m} {s0 : State} {p1 p2} {p3 : State} (hm : Sub 10759 m) (k : Keeps m s0 p3) :
    KeepsR m s0 (execRingLossOfSignal p1 p2 p3) := by
  unfold execRingLossOfSignal
  apply KeepsR.next
  exact lossOfSignal_keeps (hm.of rfl) (by assumption)

theorem execRingLinkRestored_keeps {m} {s0 : State} {p1 p2} {p3 : State} (hm : Sub 516 m) (k : Keeps m s0 p3) :
    KeepsR m s0 (execRingLinkRestored p1 p2 p3) := by
  unfold execRingLinkRestored
  apply KeepsR.next
  exact linkRestored_keeps (hm.of rfl) (by assumption)

theorem execEnumerationComplete_keeps {m} {s0 : State} {p1 p2 p3} {p4 : State} (hm : Sub 10791 m) (k : Keeps m s0 p4) :
    KeepsR m s0 (execEnumerationComplete p1 p2 p3 p4) := by
  unfold execEnumerationComplete
  apply KeepsR.next
  exact enumerationComplete_keeps (hm.of rfl) (by assumption)

theorem execRecordMissing_keeps {m} {s0 : State} {p1 p2} {p3 : State} (hm : Sub 10759 m) (k : Keeps m s0 p3) :
    KeepsR m s0 (execRecordMissing p1 p2 p3) := by
  unfold execRecordMissing
  apply KeepsR.next
  exact recordMissing_keeps (hm.of rfl) (by assumption)

theorem execSatelliteUnreachable_keeps {m} {s0 : State} {p1 p2} {p3 : State} (hm : Sub 10247 m) (k : Keeps m s0 p3) :
    KeepsR m s0 (execSatelliteUnreachable p1 p2 p3) := by
  unfold execSatelliteUnreachable
  apply KeepsR.next
  exact satelliteUnreachable_keeps (hm.of rfl) (by assumption)

theorem execTickMarkMissing_keeps {m} {s0 : State} {p1 p2} {p3 : State} (hm : Sub 512 m) (k : Keeps m s0 p3) :
    KeepsR m s0 (execTickMarkMissing p1 p2 p3) := by
  unfold execTickMarkMissing
  apply KeepsR.next
  exact tickMarkMissing_keeps (hm.of rfl) (by assumption)

theorem execSelftestStepStart_keeps {m} {s0 : State} {p1} {p2 : State} (hm : Sub 512 m) (k : Keeps m s0 p2) :
    KeepsR m s0 (execSelftestStepStart p1 p2) := by
  unfold execSelftestStepStart
  apply KeepsR.next
  exact selftestStep_keeps (hm.of rfl) (by assumption)

theorem execSelftestPhaseEnd_keeps {m} {s0 : State} {p1 p2} {p3 : State} (hm : Sub 516 m) (k : Keeps m s0 p3) :
    KeepsR m s0 (execSelftestPhaseEnd p1 p2 p3) := by
  unfold execSelftestPhaseEnd
  apply KeepsR.next
  exact selftestPhaseEnd_keeps (hm.of rfl) (by assumption)

theorem execSelftestPrimaryResult_keeps {m} {s0 : State} {p1 p2} {p3 : State} (hm : Sub 10791 m) (k : Keeps m s0 p3) :
    KeepsR m s0 (execSelftestPrimaryResult p1 p2 p3) := by
  unfold execSelftestPrimaryResult
  apply KeepsR.next
  exact selftestPrimary_keeps (hm.of rfl) (by assumption)

theorem execSelftestSpareResult_keeps {m} {s0 : State} {p1 p2} {p3 : State} (hm : Sub 10759 m) (k : Keeps m s0 p3) :
    KeepsR m s0 (execSelftestSpareResult p1 p2 p3) := by
  unfold execSelftestSpareResult
  apply KeepsR.next
  exact selftestSpare_keeps (hm.of rfl) (by assumption)

theorem execCaptureStart_keeps {m} {s0 : State} {p1 : State} (hm : Sub 512 m) (k : Keeps m s0 p1) :
    KeepsR m s0 (execCaptureStart p1) := by
  unfold execCaptureStart
  apply KeepsR.next
  exact captureStart_keeps (hm.of rfl) (by assumption)

theorem execCaptureComplete_keeps {m} {s0 : State} {p1 : State} (hm : Sub 519 m) (k : Keeps m s0 p1) :
    KeepsR m s0 (execCaptureComplete p1) := by
  unfold execCaptureComplete
  apply KeepsR.next
  exact captureComplete_keeps (hm.of rfl) (by assumption)

end Sys2Proof.Machine
end

