-- ==== Sys2Proof/Laws/Keeps/MetCommands.lean ====
section
/-!
SUPPORT. What the operations of Machine/MetCommands.lean keep.
-/

namespace Sys2Proof.Machine

theorem calReceived_keeps {m} {s0 : State} {p1} {p2 : State} (hm : Sub 612 m) (k : Keeps m s0 p2) :
    Keeps m s0 (calReceived p1 p2) := by
  unfold calReceived
  split
  · rename_i y1 y2 y3 y4
    exact tableFault_keeps (hm.of rfl) (by assumption)
  · rename_i y5 y6 y7
    apply Keeps.ite
    · exact complete_keeps (hm.of rfl) (by assumption)
    · extract_lets +onlyGivenNames x8
      clear_value x8
      split
      · rename_i y9 y10
        exact complete_keeps (hm.of rfl) (by assumption)
      · rename_i y11 y12 y13
        apply Keeps.ite
        · exact complete_keeps (hm.of rfl) (by assumption)
        · apply Keeps.ite
          · exact complete_keeps (hm.of rfl) (by assumption)
          · extract_lets +onlyGivenNames x14
            clear_value x14
            extract_lets +onlyGivenNames x15
            have h16 : Keeps m s0 x15 := by
              unfold x15
              apply Keeps.ite
              · exact audit_keeps (hm.of rfl) (by assumption)
              · assumption
            clear_value x15
            extract_lets +onlyGivenNames x17
            have h18 : Keeps m s0 x17 := armGen_keeps (hm.of rfl) (by assumption)
            clear_value x17
            with_reducible apply audit_keeps (hm.of rfl)
            exact sendConfig_keeps (hm.of rfl) (by assumption)

theorem applyCalib_keeps {m} {s0 : State} {p1 p2} {p3 : State} (hm : Sub 10791 m) (k : Keeps m s0 p3) :
    Keeps m s0 (applyCalib p1 p2 p3) := by
  unfold applyCalib
  extract_lets +onlyGivenNames x1
  clear_value x1
  extract_lets +onlyGivenNames x2
  clear_value x2
  extract_lets +onlyGivenNames x3
  clear_value x3
  extract_lets +onlyGivenNames x4
  clear_value x4
  extract_lets +onlyGivenNames x5
  have h6 : Keeps m s0 x5 := setMet_keeps (hm.of rfl) (by assumption)
  clear_value x5
  extract_lets +onlyGivenNames x7
  clear_value x7
  extract_lets +onlyGivenNames x8
  have h9 : Keeps m s0 x8 := audit_keeps (hm.of rfl) (by assumption)
  clear_value x8
  extract_lets +onlyGivenNames x10
  have h11 : Keeps m s0 x10 := audit_keeps (hm.of rfl) (by assumption)
  clear_value x10
  extract_lets +onlyGivenNames x12
  have h13 : Keeps m s0 x12 := by
    unfold x12
    with_reducible apply rejudge_keeps (hm.of rfl)
    exact audit_keeps (hm.of rfl) (by assumption)
  clear_value x12
  split
  · rename_i y14 y15 y16
    exact complete_keeps (hm.of rfl) (by assumption)
  · rename_i y17 y18
    assumption

theorem cmdMetStatus_keeps {m} (hm : Sub 0 m) : KeepsCmd m cmdMetStatus := by
  unfold cmdMetStatus
  apply KeepsCmd.mk
  intro s0 ctx s k
  extract_lets +onlyGivenNames x1
  clear_value x1
  extract_lets +onlyGivenNames x2
  clear_value x2
  exact okWith_keeps (hm.of rfl) (by assumption)

theorem cmdMetSetRead_keeps {m} (hm : Sub 0 m) : KeepsCmd m cmdMetSetRead := by
  unfold cmdMetSetRead
  apply KeepsCmd.mk
  intro s0 ctx s k
  extract_lets +onlyGivenNames x1
  clear_value x1
  with_reducible apply checked_keeps (hm.of rfl)
  · assumption
  · split
    · rename_i y2 y3
      exact fail_keeps (hm.of rfl) (by assumption)
    · rename_i y4 y5 y6
      extract_lets +onlyGivenNames x7
      clear_value x7
      extract_lets +onlyGivenNames x8
      clear_value x8
      exact okWith_keeps (hm.of rfl) (by assumption)

theorem cmdMetChannelRead_keeps {m} (hm : Sub 0 m) : KeepsCmd m cmdMetChannelRead := by
  unfold cmdMetChannelRead
  apply KeepsCmd.mk
  intro s0 ctx s k
  extract_lets +onlyGivenNames x1
  clear_value x1
  with_reducible apply checked_keeps (hm.of rfl)
  · assumption
  · split
    · rename_i y2 y3
      exact fail_keeps (hm.of rfl) (by assumption)
    · rename_i y4 y5 y6
      apply KeepsA.ite
      · exact fail_keeps (hm.of rfl) (by assumption)
      · extract_lets +onlyGivenNames x7
        clear_value x7
        exact okWith_keeps (hm.of rfl) (by assumption)

theorem cmdMetRingStatus_keeps {m} (hm : Sub 1 m) : KeepsCmd m cmdMetRingStatus := by
  unfold cmdMetRingStatus
  apply KeepsCmd.mk
  intro s0 ctx s k
  extract_lets +onlyGivenNames x1
  clear_value x1
  with_reducible apply checked_keeps (hm.of rfl)
  · assumption
  · extract_lets +onlyGivenNames x2
    clear_value x2
    extract_lets +onlyGivenNames x3
    have h4 : Keeps m s0 x3.2 := draw_keeps (hm.of rfl) (by assumption)
    clear_value x3
    extract_lets +onlyGivenNames x5
    have h6 : Keeps m s0 x5 := by
      unfold x5
      assumption
    exact okWith_keeps (hm.of rfl) (by assumption)

theorem cmdMetCalArm_keeps {m} (hm : Sub 2 m) : KeepsCmd m cmdMetCalArm := by
  unfold cmdMetCalArm
  apply KeepsCmd.mk
  intro s0 ctx s k
  extract_lets +onlyGivenNames x1
  clear_value x1
  extract_lets +onlyGivenNames x2
  clear_value x2
  with_reducible apply checked_keeps (hm.of rfl)
  · assumption
  · apply KeepsA.ite
    · exact fail_keeps (hm.of rfl) (by assumption)
    · apply KeepsA.ite
      · exact fail_keeps (hm.of rfl) (by assumption)
      · apply KeepsA.ite
        · exact fail_keeps (hm.of rfl) (by assumption)
        · apply KeepsA.accepted
          exact receiveTransfer_keeps (hm.of rfl) (by assumption)

theorem cmdMetCalCapture_keeps {m} (hm : Sub 514 m) : KeepsCmd m cmdMetCalCapture := by
  unfold cmdMetCalCapture
  apply KeepsCmd.mk
  intro s0 ctx s k
  extract_lets +onlyGivenNames x1
  clear_value x1
  extract_lets +onlyGivenNames x2
  clear_value x2
  extract_lets +onlyGivenNames x3
  clear_value x3
  with_reducible apply checked_keeps (hm.of rfl)
  · assumption
  · apply KeepsA.ite
    · exact fail_keeps (hm.of rfl) (by assumption)
    · apply KeepsA.ite
      · exact fail_keeps (hm.of rfl) (by assumption)
      · apply KeepsA.ite
        · exact fail_keeps (hm.of rfl) (by assumption)
        · apply KeepsA.ite
          · exact fail_keeps (hm.of rfl) (by assumption)
          · extract_lets +onlyGivenNames x4
            have h5 : Keeps m s0 x4 := by
              unfold x4
              with_reducible apply captureHold_keeps (hm.of rfl)
              exact setMet_keeps (hm.of rfl) (by assumption)
            clear_value x4
            apply KeepsA.accepted
            apply Keeps.ite
            · assumption
            · exact openChannel_keeps (hm.of rfl) (by assumption)

theorem cmdMetDemandSet_keeps {m} (hm : Sub 512 m) : KeepsCmd m cmdMetDemandSet := by
  unfold cmdMetDemandSet
  apply KeepsCmd.mk
  intro s0 ctx s k
  extract_lets +onlyGivenNames x1
  clear_value x1
  extract_lets +onlyGivenNames x2
  clear_value x2
  extract_lets +onlyGivenNames x3
  clear_value x3
  extract_lets +onlyGivenNames x4
  clear_value x4
  extract_lets +onlyGivenNames x5
  clear_value x5
  with_reducible apply checked_keeps (hm.of rfl)
  · assumption
  · apply KeepsA.ite
    · exact fail_keeps (hm.of rfl) (by assumption)
    · extract_lets +onlyGivenNames x6
      clear_value x6
      extract_lets +onlyGivenNames x7
      clear_value x7
      with_reducible apply okWith_keeps (hm.of rfl)
      exact setMet_keeps (hm.of rfl) (by assumption)

theorem cmdMetDemandReset_keeps {m} (hm : Sub 512 m) : KeepsCmd m cmdMetDemandReset := by
  unfold cmdMetDemandReset
  apply KeepsCmd.mk
  intro s0 ctx s k
  extract_lets +onlyGivenNames x1
  clear_value x1
  extract_lets +onlyGivenNames x2
  clear_value x2
  extract_lets +onlyGivenNames x3
  clear_value x3
  with_reducible apply checked_keeps (hm.of rfl)
  · assumption
  · apply KeepsA.ite
    · exact fail_keeps (hm.of rfl) (by assumption)
    · apply KeepsA.ite
      · exact fail_keeps (hm.of rfl) (by assumption)
      · with_reducible apply okWith_keeps (hm.of rfl)
        exact setMet_keeps (hm.of rfl) (by assumption)

theorem cmdMetAuditRead_keeps {m} (hm : Sub 0 m) : KeepsCmd m cmdMetAuditRead := by
  unfold cmdMetAuditRead
  apply KeepsCmd.mk
  intro s0 ctx s k
  extract_lets +onlyGivenNames x1
  clear_value x1
  extract_lets +onlyGivenNames x2
  clear_value x2
  with_reducible apply checked_keeps (hm.of rfl)
  · assumption
  · apply KeepsA.ite
    · exact fail_keeps (hm.of rfl) (by assumption)
    · extract_lets +onlyGivenNames x3
      clear_value x3
      exact okWith_keeps (hm.of rfl) (by assumption)

theorem execMetStatus_keeps {m} {s0 : State} {p1} {p2 : State} (hm : Sub 8199 m) (k : Keeps m s0 p2) :
    KeepsR m s0 (execMetStatus p1 p2) := by
  unfold execMetStatus
  apply KeepsR.next
  with_reducible apply submit_keeps (hm.of rfl)
  · assumption
  · exact cmdMetStatus_keeps (hm.of rfl)

theorem execMetSetRead_keeps {m} {s0 : State} {p1} {p2 : State} (hm : Sub 8199 m) (k : Keeps m s0 p2) :
    KeepsR m s0 (execMetSetRead p1 p2) := by
  unfold execMetSetRead
  apply KeepsR.next
  with_reducible apply submit_keeps (hm.of rfl)
  · assumption
  · exact cmdMetSetRead_keeps (hm.of rfl)

theorem execMetChannelRead_keeps {m} {s0 : State} {p1} {p2 : State} (hm : Sub 8199 m) (k : Keeps m s0 p2) :
    KeepsR m s0 (execMetChannelRead p1 p2) := by
  unfold execMetChannelRead
  apply KeepsR.next
  with_reducible apply submit_keeps (hm.of rfl)
  · assumption
  · exact cmdMetChannelRead_keeps (hm.of rfl)

theorem execMetRingStatus_keeps {m} {s0 : State} {p1} {p2 : State} (hm : Sub 8199 m) (k : Keeps m s0 p2) :
    KeepsR m s0 (execMetRingStatus p1 p2) := by
  unfold execMetRingStatus
  apply KeepsR.next
  with_reducible apply submit_keeps (hm.of rfl)
  · assumption
  · exact cmdMetRingStatus_keeps (hm.of rfl)

theorem execMetCalArm_keeps {m} {s0 : State} {p1} {p2 : State} (hm : Sub 8199 m) (k : Keeps m s0 p2) :
    KeepsR m s0 (execMetCalArm p1 p2) := by
  unfold execMetCalArm
  apply KeepsR.next
  with_reducible apply submit_keeps (hm.of rfl)
  · assumption
  · exact cmdMetCalArm_keeps (hm.of rfl)

theorem execMetCalCapture_keeps {m} {s0 : State} {p1} {p2 : State} (hm : Sub 8711 m) (k : Keeps m s0 p2) :
    KeepsR m s0 (execMetCalCapture p1 p2) := by
  unfold execMetCalCapture
  apply KeepsR.next
  with_reducible apply submit_keeps (hm.of rfl)
  · assumption
  · exact cmdMetCalCapture_keeps (hm.of rfl)

theorem execMetDemandSet_keeps {m} {s0 : State} {p1} {p2 : State} (hm : Sub 8711 m) (k : Keeps m s0 p2) :
    KeepsR m s0 (execMetDemandSet p1 p2) := by
  unfold execMetDemandSet
  apply KeepsR.next
  with_reducible apply submit_keeps (hm.of rfl)
  · assumption
  · exact cmdMetDemandSet_keeps (hm.of rfl)

theorem execMetDemandReset_keeps {m} {s0 : State} {p1} {p2 : State} (hm : Sub 8711 m) (k : Keeps m s0 p2) :
    KeepsR m s0 (execMetDemandReset p1 p2) := by
  unfold execMetDemandReset
  apply KeepsR.next
  with_reducible apply submit_keeps (hm.of rfl)
  · assumption
  · exact cmdMetDemandReset_keeps (hm.of rfl)

theorem execMetAuditRead_keeps {m} {s0 : State} {p1} {p2 : State} (hm : Sub 8199 m) (k : Keeps m s0 p2) :
    KeepsR m s0 (execMetAuditRead p1 p2) := by
  unfold execMetAuditRead
  apply KeepsR.next
  with_reducible apply submit_keeps (hm.of rfl)
  · assumption
  · exact cmdMetAuditRead_keeps (hm.of rfl)

end Sys2Proof.Machine
end

