-- ==== Sys2Proof/Laws/Keeps/ChgCommands.lean ====
section
/-!
SUPPORT. What the operations of Machine/ChgCommands.lean keep.
-/

namespace Sys2Proof.Machine

theorem cmdChgStatus_keeps {m} (hm : Sub 0 m) : KeepsCmd m cmdChgStatus := by
  unfold cmdChgStatus
  apply KeepsCmd.mk
  intro s0 ctx s k
  exact okWith_keeps (hm.of rfl) (by assumption)

theorem cmdChgPointSet_keeps {m} (hm : Sub 804964 m) : KeepsCmd m cmdChgPointSet := by
  unfold cmdChgPointSet
  apply KeepsCmd.mk
  intro s0 ctx s k
  extract_lets +onlyGivenNames x1
  clear_value x1
  extract_lets +onlyGivenNames x2
  clear_value x2
  with_reducible apply checked_keeps (hm.of rfl)
  · assumption
  · extract_lets +onlyGivenNames x3
    clear_value x3
    apply KeepsA.ite
    · apply KeepsA.ite
      · exact fail_keeps (hm.of rfl) (by assumption)
      · with_reducible apply okWith_keeps (hm.of rfl)
        with_reducible apply reviewPoint_keeps (hm.of rfl)
        with_reducible apply syncCharge_keeps (hm.of rfl)
        exact setPoint_keeps (hm.of rfl) (by assumption)
    · extract_lets +onlyGivenNames x4
      clear_value x4
      extract_lets +onlyGivenNames x5
      clear_value x5
      apply KeepsA.ite
      · exact fail_keeps (hm.of rfl) (by assumption)
      · extract_lets +onlyGivenNames x6
        clear_value x6
        apply KeepsA.ite
        · exact fail_keeps (hm.of rfl) (by assumption)
        · extract_lets +onlyGivenNames x7
          clear_value x7
          with_reducible apply okWith_keeps (hm.of rfl)
          exact armGen_keeps (hm.of rfl) (by assumption)

theorem applyChgPoint_keeps {m} {s0 : State} {p1 p2} {p3 : State} (hm : Sub 802852 m) (k : Keeps m s0 p3) :
    Keeps m s0 (applyChgPoint p1 p2 p3) := by
  unfold applyChgPoint
  with_reducible apply evalOutputs_keeps (hm.of rfl)
  with_reducible apply reviewPoint_keeps (hm.of rfl)
  exact setPoint_keeps (hm.of rfl) (by assumption)

theorem cmdChgPathSet_keeps {m} (hm : Sub 68 m) : KeepsCmd m cmdChgPathSet := by
  unfold cmdChgPathSet
  apply KeepsCmd.mk
  intro s0 ctx s k
  extract_lets +onlyGivenNames x1
  clear_value x1
  extract_lets +onlyGivenNames x2
  clear_value x2
  extract_lets +onlyGivenNames x3
  clear_value x3
  extract_lets +onlyGivenNames x4
  clear_value x4
  extract_lets +onlyGivenNames x5
  clear_value x5
  with_reducible apply checked_keeps (hm.of rfl)
  · assumption
  · extract_lets +onlyGivenNames x6
    clear_value x6
    extract_lets +onlyGivenNames x7
    clear_value x7
    apply KeepsA.ite
    · exact fail_keeps (hm.of rfl) (by assumption)
    · extract_lets +onlyGivenNames x8
      clear_value x8
      with_reducible apply okWith_keeps (hm.of rfl)
      exact armGen_keeps (hm.of rfl) (by assumption)

theorem applyChgPath_keeps {m} {s0 : State} {p1 p2} {p3 : State} (hm : Sub 524288 m) (k : Keeps m s0 p3) :
    Keeps m s0 (applyChgPath p1 p2 p3) := by
  unfold applyChgPath
  exact setChg_keeps (hm.of rfl) (by assumption)

theorem cmdChgBusSet_keeps {m} (hm : Sub 68 m) : KeepsCmd m cmdChgBusSet := by
  unfold cmdChgBusSet
  apply KeepsCmd.mk
  intro s0 ctx s k
  extract_lets +onlyGivenNames x1
  clear_value x1
  extract_lets +onlyGivenNames x2
  clear_value x2
  with_reducible apply checked_keeps (hm.of rfl)
  · assumption
  · extract_lets +onlyGivenNames x3
    clear_value x3
    apply KeepsA.ite
    · exact fail_keeps (hm.of rfl) (by assumption)
    · extract_lets +onlyGivenNames x4
      clear_value x4
      apply KeepsA.ite
      · exact fail_keeps (hm.of rfl) (by assumption)
      · extract_lets +onlyGivenNames x5
        clear_value x5
        with_reducible apply okWith_keeps (hm.of rfl)
        exact armGen_keeps (hm.of rfl) (by assumption)

theorem applyChgBus_keeps {m} {s0 : State} {p1 p2} {p3 : State} (hm : Sub 524288 m) (k : Keeps m s0 p3) :
    Keeps m s0 (applyChgBus p1 p2 p3) := by
  unfold applyChgBus
  exact setChg_keeps (hm.of rfl) (by assumption)

theorem idTick_keeps {m} {s0 : State} {p1 : State} (hm : Sub 524288 m) (k : Keeps m s0 p1) :
    Keeps m s0 (idTick p1) := by
  unfold idTick
  exact setChg_keeps (hm.of rfl) (by assumption)

theorem cmdChgIdSet_keeps {m} (hm : Sub 524288 m) : KeepsCmd m cmdChgIdSet := by
  unfold cmdChgIdSet
  apply KeepsCmd.mk
  intro s0 ctx s k
  extract_lets +onlyGivenNames x1
  clear_value x1
  extract_lets +onlyGivenNames x2
  clear_value x2
  extract_lets +onlyGivenNames x3
  clear_value x3
  extract_lets +onlyGivenNames x4
  clear_value x4
  extract_lets +onlyGivenNames x5
  clear_value x5
  with_reducible apply checked_keeps (hm.of rfl)
  · assumption
  · extract_lets +onlyGivenNames x6
    clear_value x6
    extract_lets +onlyGivenNames x7
    apply KeepsA.ite
    · exact fail_keeps (hm.of rfl) (by assumption)
    · apply KeepsA.ite
      · exact fail_keeps (hm.of rfl) (by assumption)
      · with_reducible apply okWith_keeps (hm.of rfl)
        exact setChg_keeps (hm.of rfl) (by assumption)

theorem cmdChgAuthorise_keeps {m} (hm : Sub 802852 m) : KeepsCmd m cmdChgAuthorise := by
  unfold cmdChgAuthorise
  apply KeepsCmd.mk
  intro s0 ctx s k
  extract_lets +onlyGivenNames x1
  clear_value x1
  extract_lets +onlyGivenNames x2
  clear_value x2
  extract_lets +onlyGivenNames x3
  clear_value x3
  extract_lets +onlyGivenNames x4
  clear_value x4
  extract_lets +onlyGivenNames x5
  clear_value x5
  with_reducible apply checked_keeps (hm.of rfl)
  · assumption
  · extract_lets +onlyGivenNames x6
    clear_value x6
    apply KeepsA.ite
    · exact fail_keeps (hm.of rfl) (by assumption)
    · apply KeepsA.ite
      · exact fail_keeps (hm.of rfl) (by assumption)
      · extract_lets +onlyGivenNames x7
        have h8 : Keeps m s0 x7 := setChg_keeps (hm.of rfl) (by assumption)
        clear_value x7
        apply KeepsA.ite
        · apply KeepsA.accepted
          exact takeGrant_keeps (hm.of rfl) (by assumption)
        · apply KeepsA.accepted
          with_reducible apply complete_keeps (hm.of rfl)
          exact refusePoint_keeps (hm.of rfl) (by assumption)

theorem cmdChgStop_keeps {m} (hm : Sub 802852 m) : KeepsCmd m cmdChgStop := by
  unfold cmdChgStop
  apply KeepsCmd.mk
  intro s0 ctx s k
  extract_lets +onlyGivenNames x1
  clear_value x1
  with_reducible apply checked_keeps (hm.of rfl)
  · assumption
  · extract_lets +onlyGivenNames x2
    clear_value x2
    apply KeepsA.ite
    · apply KeepsA.accepted
      with_reducible apply stopPoint_keeps (hm.of rfl)
      exact setPoint_keeps (hm.of rfl) (by assumption)
    · apply KeepsA.ite
      · apply KeepsA.accepted
        with_reducible apply complete_keeps (hm.of rfl)
        with_reducible apply stopPoint_keeps (hm.of rfl)
        exact dropGrant_keeps (hm.of rfl) (by assumption)
      · exact fail_keeps (hm.of rfl) (by assumption)

theorem cmdChgPointRead_keeps {m} (hm : Sub 0 m) : KeepsCmd m cmdChgPointRead := by
  unfold cmdChgPointRead
  apply KeepsCmd.mk
  intro s0 ctx s k
  extract_lets +onlyGivenNames x1
  clear_value x1
  with_reducible apply checked_keeps (hm.of rfl)
  · assumption
  · extract_lets +onlyGivenNames x2
    clear_value x2
    split
    · rename_i y3 y4
      exact fail_keeps (hm.of rfl) (by assumption)
    · rename_i y5 y6 y7
      extract_lets +onlyGivenNames x8
      clear_value x8
      extract_lets +onlyGivenNames x9
      clear_value x9
      exact okWith_keeps (hm.of rfl) (by assumption)

theorem execChgStatus_keeps {m} {s0 : State} {p1} {p2 : State} (hm : Sub 8199 m) (k : Keeps m s0 p2) :
    KeepsR m s0 (execChgStatus p1 p2) := by
  unfold execChgStatus
  apply KeepsR.next
  with_reducible apply submit_keeps (hm.of rfl)
  · assumption
  · exact cmdChgStatus_keeps (hm.of rfl)

theorem execChgPointSet_keeps {m} {s0 : State} {p1} {p2 : State} (hm : Sub 813159 m) (k : Keeps m s0 p2) :
    KeepsR m s0 (execChgPointSet p1 p2) := by
  unfold execChgPointSet
  apply KeepsR.next
  with_reducible apply submit_keeps (hm.of rfl)
  · assumption
  · exact cmdChgPointSet_keeps (hm.of rfl)

theorem execChgPathSet_keeps {m} {s0 : State} {p1} {p2 : State} (hm : Sub 8263 m) (k : Keeps m s0 p2) :
    KeepsR m s0 (execChgPathSet p1 p2) := by
  unfold execChgPathSet
  apply KeepsR.next
  with_reducible apply submit_keeps (hm.of rfl)
  · assumption
  · exact cmdChgPathSet_keeps (hm.of rfl)

theorem execChgBusSet_keeps {m} {s0 : State} {p1} {p2 : State} (hm : Sub 8263 m) (k : Keeps m s0 p2) :
    KeepsR m s0 (execChgBusSet p1 p2) := by
  unfold execChgBusSet
  apply KeepsR.next
  with_reducible apply submit_keeps (hm.of rfl)
  · assumption
  · exact cmdChgBusSet_keeps (hm.of rfl)

theorem execChgIdSet_keeps {m} {s0 : State} {p1} {p2 : State} (hm : Sub 532487 m) (k : Keeps m s0 p2) :
    KeepsR m s0 (execChgIdSet p1 p2) := by
  unfold execChgIdSet
  apply KeepsR.next
  with_reducible apply submit_keeps (hm.of rfl)
  · assumption
  · exact cmdChgIdSet_keeps (hm.of rfl)

theorem execChgAuthorise_keeps {m} {s0 : State} {p1} {p2 : State} (hm : Sub 811047 m) (k : Keeps m s0 p2) :
    KeepsR m s0 (execChgAuthorise p1 p2) := by
  unfold execChgAuthorise
  apply KeepsR.next
  with_reducible apply submit_keeps (hm.of rfl)
  · assumption
  · exact cmdChgAuthorise_keeps (hm.of rfl)

theorem execChgStop_keeps {m} {s0 : State} {p1} {p2 : State} (hm : Sub 811047 m) (k : Keeps m s0 p2) :
    KeepsR m s0 (execChgStop p1 p2) := by
  unfold execChgStop
  apply KeepsR.next
  with_reducible apply submit_keeps (hm.of rfl)
  · assumption
  · exact cmdChgStop_keeps (hm.of rfl)

theorem execChgPointRead_keeps {m} {s0 : State} {p1} {p2 : State} (hm : Sub 8199 m) (k : Keeps m s0 p2) :
    KeepsR m s0 (execChgPointRead p1 p2) := by
  unfold execChgPointRead
  apply KeepsR.next
  with_reducible apply submit_keeps (hm.of rfl)
  · assumption
  · exact cmdChgPointRead_keeps (hm.of rfl)

end Sys2Proof.Machine
end

