-- ==== Sys2Proof/Laws/Keeps/Tokens.lean ====
section
/-!
SUPPORT. What the operations of Machine/Tokens.lean keep.
-/

namespace Sys2Proof.Machine

theorem tokenArrival_keeps {m} {s0 : State} {p1 p2 p3} {p4 : State} (hm : Sub 26631 m) (k : Keeps m s0 p4) :
    Keeps m s0 (tokenArrival p1 p2 p3 p4).2 := by
  unfold tokenArrival
  split
  · rename_i y1
    assumption
  · rename_i y2
    split
    · rename_i y3
      assumption
    · rename_i y4
      split
      · rename_i y5
        assumption
      · rename_i y6
        split
        · rename_i y7
          assumption
        · rename_i y8
          split
          · rename_i y9 y10 y11
            have h12 : Keeps m s0 y10 := by
              refine KeepsP.get ?_ y11
              exact keyFor_keeps (hm.of rfl) (by assumption)
            assumption
          · rename_i y13 y14 y15 y16
            have h17 : Keeps m s0 y15 := by
              refine KeepsP.get ?_ y16
              exact keyFor_keeps (hm.of rfl) (by assumption)
            split
            · rename_i y18
              assumption
            · rename_i y19
              split
              · rename_i y20
                assumption
              · rename_i y21
                assumption

theorem queueToken_keeps {m} {s0 : State} {p1} {p2 : State} (hm : Sub 32 m) (k : Keeps m s0 p2) :
    Keeps m s0 (queueToken p1 p2) := by
  unfold queueToken
  exact Keeps.upd 32 (hm.of rfl) (by assumption) (Nat.le_refl _) ⟨id, rfl, rfl, rfl⟩ ⟨Nat.le_refl _, id, id, id⟩ ⟨id⟩ rfl

theorem rejectToken_keeps {m} {s0 : State} {p1 p2 p3 p4} {p5 : State} (hm : Sub 36 m) (k : Keeps m s0 p5) :
    Keeps m s0 (rejectToken p1 p2 p3 p4 p5) := by
  unfold rejectToken
  extract_lets +onlyGivenNames x1
  extract_lets +onlyGivenNames x2
  have h3 : Keeps m s0 x2 := by
    unfold x2
    exact Keeps.upd 32 (hm.of rfl) (by assumption) (Nat.le_refl _) ⟨id, rfl, rfl, rfl⟩ ⟨Nat.le_refl _, id, id, id⟩ ⟨id⟩ rfl
  clear_value x2
  extract_lets +onlyGivenNames x4
  have h5 : Keeps m s0 x4 := stage_keeps (hm.of rfl) (by assumption)
  clear_value x4
  exact raiseEvent_keeps (hm.of rfl) (by assumption)

theorem tokenResult_keeps {m} {s0 : State} {p1 p2 p3 p4} {p5 : State} (hm : Sub 65536 m) (k : Keeps m s0 p5) :
    Keeps m s0 (tokenResult p1 p2 p3 p4 p5) := by
  unfold tokenResult
  exact queueNow_keeps (hm.of rfl) (by assumption)

theorem cmdLedTokenSubmit_keeps {m} (hm : Sub 26663 m) : KeepsCmd m cmdLedTokenSubmit := by
  unfold cmdLedTokenSubmit
  apply KeepsCmd.mk
  intro s0 ctx s k
  extract_lets +onlyGivenNames x1
  clear_value x1
  extract_lets +onlyGivenNames x2
  clear_value x2
  with_reducible apply checked_keeps (hm.of rfl)
  · assumption
  · extract_lets +onlyGivenNames x3
    clear_value x3
    split
    · rename_i y4 y5 y6
      have h7 : Keeps m s0 y5 := by
        refine KeepsP.get ?_ y6
        exact tokenArrival_keeps (hm.of rfl) (by assumption)
      apply KeepsA.ite
      · exact fail_keeps (hm.of rfl) (by assumption)
      · apply KeepsA.accepted
        exact queueToken_keeps (hm.of rfl) (by assumption)
    · rename_i y8 y9 y10 y11 y12
      have h13 : Keeps m s0 y10 := by
        refine KeepsP.get ?_ y12
        exact tokenArrival_keeps (hm.of rfl) (by assumption)
      extract_lets +onlyGivenNames x14
      clear_value x14
      extract_lets +onlyGivenNames x15
      clear_value x15
      extract_lets +onlyGivenNames x16
      have h17 : Keeps m s0 x16 := rejectToken_keeps (hm.of rfl) (by assumption)
      clear_value x16
      apply KeepsA.accepted
      exact complete_keeps (hm.of rfl) (by assumption)

theorem execLedTokenSubmit_keeps {m} {s0 : State} {p1} {p2 : State} (hm : Sub 26663 m) (k : Keeps m s0 p2) :
    KeepsR m s0 (execLedTokenSubmit p1 p2) := by
  unfold execLedTokenSubmit
  apply KeepsR.next
  with_reducible apply submit_keeps (hm.of rfl)
  · assumption
  · exact cmdLedTokenSubmit_keeps (hm.of rfl)

theorem takeToken_keeps {m} {s0 : State} {p1 p2} {p3 : State} (hm : Sub 92199 m) (k : Keeps m s0 p3) :
    Keeps m s0 (takeToken p1 p2 p3) := by
  unfold takeToken
  extract_lets +onlyGivenNames x1
  clear_value x1
  extract_lets +onlyGivenNames x2
  clear_value x2
  extract_lets +onlyGivenNames x3
  have h4 : Keeps m s0 x3.2 := tokenArrival_keeps (hm.of rfl) (by assumption)
  clear_value x3
  extract_lets +onlyGivenNames x5
  clear_value x5
  extract_lets +onlyGivenNames x6
  have h7 : Keeps m s0 x6 := by
    unfold x6
    assumption
  apply Keeps.ite
  · exact queueToken_keeps (hm.of rfl) (by assumption)
  · extract_lets +onlyGivenNames x8
    have h9 : Keeps m s0 x8 := by
      unfold x8
      apply Keeps.ite
      · exact queueToken_keeps (hm.of rfl) (by assumption)
      · assumption
    clear_value x8
    with_reducible apply tokenResult_keeps (hm.of rfl)
    exact rejectToken_keeps (hm.of rfl) (by assumption)

theorem execSepalToken_keeps {m} {s0 : State} {p1} {p2 : State} (hm : Sub 92199 m) (k : Keeps m s0 p2) :
    KeepsR m s0 (execSepalToken p1 p2) := by
  unfold execSepalToken
  apply KeepsR.next
  apply Keeps.ite
  · with_reducible apply onMessage_keeps (hm.of rfl)
    · assumption
    · intro a1 a3 a5 h8
      exact takeToken_keeps (hm.of rfl) (by assumption)
  · assumption

end Sys2Proof.Machine
end

