-- ==== Sys2Proof/Laws/Keeps/Commit.lean ====
section
/-!
SUPPORT. What the operations of Machine/Commit.lean keep.
-/

namespace Sys2Proof.Machine

theorem setLed_keeps {m} {s0 : State} {p1} {p2 : State} (hm : Sub 32 m) (k : Keeps m s0 p2) (h1 : LedKeeps p2.led (p1 p2.led)) :
    Keeps m s0 (setLed p1 p2) := by
  unfold setLed
  exact Keeps.upd 32 (hm.of rfl) k (Nat.le_refl _) ⟨id, rfl, rfl, rfl⟩ ⟨Nat.le_refl _, id, id, id⟩ h1 rfl

theorem backlogCleared_keeps {m} {s0 : State} {p1 : State} (hm : Sub 2085 m) (k : Keeps m s0 p1) :
    Keeps m s0 (backlogCleared p1) := by
  unfold backlogCleared
  extract_lets +onlyGivenNames x1
  extract_lets +onlyGivenNames x2
  have h3 : Keeps m s0 x2 := by
    unfold x2
    exact Keeps.upd 32 (hm.of rfl) (by assumption) (Nat.le_refl _) ⟨id, rfl, rfl, rfl⟩ ⟨Nat.le_refl _, id, id, id⟩ ⟨id⟩ rfl
  clear_value x2
  apply Keeps.ite
  · exact unlistedEvent_keeps (hm.of rfl) (by assumption)
  · exact endFault_keeps (hm.of rfl) (by assumption)

theorem settleLedgerFault_keeps {m} {s0 : State} {p1 : State} (hm : Sub 2052 m) (k : Keeps m s0 p1) :
    Keeps m s0 (settleLedgerFault p1) := by
  unfold settleLedgerFault
  apply Keeps.ite
  · assumption
  · exact endFault_keeps (hm.of rfl) (by assumption)

theorem reportShort_keeps {m} {s0 : State} {p1} {p2 : State} (hm : Sub 10247 m) (k : Keeps m s0 p2) :
    Keeps m s0 (reportShort p1 p2) := by
  unfold reportShort
  apply Keeps.ite
  · exact raiseFault_keeps (hm.of rfl) (by assumption)
  · assumption

theorem putEntry_keeps {m} {s0 : State} {p1 p2 p3 p4 p5} {p6 : State} (hm : Sub 544 m) (k : Keeps m s0 p6) :
    Keeps m s0 (putEntry p1 p2 p3 p4 p5 p6) := by
  unfold putEntry
  extract_lets +onlyGivenNames x1
  clear_value x1
  extract_lets +onlyGivenNames x2
  clear_value x2
  extract_lets +onlyGivenNames x3
  clear_value x3
  extract_lets +onlyGivenNames x4
  have h5 : Keeps m s0 x4 := by
    unfold x4
    with_reducible apply setLed_keeps (hm.of rfl)
    · assumption
    · exact ⟨id⟩
  clear_value x4
  exact Keeps.rest 512 (hm.of rfl) (by assumption) rfl

theorem writeEntry_keeps {m} {s0 : State} {p1 p2 p3} {p4} (hm : Sub 544 m) (k : Keeps m s0 p4.2) :
    Keeps m s0 (writeEntry p1 p2 p3 p4).2 := by
  unfold writeEntry
  extract_lets +onlyGivenNames x1
  clear_value x1
  extract_lets +onlyGivenNames x2
  clear_value x2
  extract_lets +onlyGivenNames x3
  have h4 : Keeps m s0 x3.2 := by
    unfold x3
    split
    · rename_i y5
      apply Keeps.sndMk
      exact putEntry_keeps (hm.of rfl) (by assumption)
    · rename_i y6
      assumption
  clear_value x3
  apply Keeps.sndMk
  exact putEntry_keeps (hm.of rfl) (by assumption)

theorem writeAudit_keeps {m} {s0 : State} {p1 p2 p3 p4 p5} {p6} (hm : Sub 544 m) (k : Keeps m s0 p6.2) :
    Keeps m s0 (writeAudit p1 p2 p3 p4 p5 p6).2 := by
  unfold writeAudit
  extract_lets +onlyGivenNames x1
  have h2 : Keeps m s0 x1 := by
    unfold x1
    assumption
  extract_lets +onlyGivenNames x3
  clear_value x3
  extract_lets +onlyGivenNames x4
  clear_value x4
  extract_lets +onlyGivenNames x5
  have h6 : Keeps m s0 x5 := by
    unfold x5
    exact Keeps.rest 512 (hm.of rfl) (by assumption) rfl
  clear_value x5
  exact writeEntry_keeps (hm.of rfl) (by assumption)

theorem journalOne_keeps {m} {s0 : State} {p1 p2} {p3} (hm : Sub 544 m) (k : Keeps m s0 p3.2) :
    Keeps m s0 (journalOne p1 p2 p3).2 := by
  unfold journalOne
  split
  · rename_i y1 y2 y3
    exact writeEntry_keeps (hm.of rfl) (by assumption)
  · rename_i y4 y5 y6 y7
    exact writeEntry_keeps (hm.of rfl) (by assumption)
  · rename_i y8 y9 y10 y11 y12
    exact writeAudit_keeps (hm.of rfl) (by assumption)
  · rename_i y13 y14 y15 y16
    assumption

theorem addHistory_keeps {m} {s0 : State} {p1 p2 p3 p4 p5} {p6 : State} (hm : Sub 32 m) (k : Keeps m s0 p6) :
    Keeps m s0 (addHistory p1 p2 p3 p4 p5 p6) := by
  unfold addHistory
  extract_lets +onlyGivenNames x1
  clear_value x1
  extract_lets +onlyGivenNames x2
  clear_value x2
  exact setPage_keeps (hm.of rfl) (by assumption)

theorem takePage_keeps {m} {s0 : State} {p1 p2 p3 p4 p5} {p6 : State} (hm : Sub 32 m) (k : Keeps m s0 p6) :
    Keeps m s0 (takePage p1 p2 p3 p4 p5 p6) := by
  unfold takePage
  exact setPage_keeps (hm.of rfl) (by assumption)

theorem takeFold_keeps {m} {s0 : State} {p1 p2} {p3 : State} (hm : Sub 4104 m) (k : Keeps m s0 p3) :
    Keeps m s0 (takeFold p1 p2 p3) := by
  unfold takeFold
  extract_lets +onlyGivenNames x1
  clear_value x1
  extract_lets +onlyGivenNames x2
  clear_value x2
  extract_lets +onlyGivenNames x3
  clear_value x3
  extract_lets +onlyGivenNames x4
  have h5 : Keeps m s0 x4 := by
    unfold x4
    exact Keeps.rest 8 (hm.of rfl) (by assumption) rfl
  clear_value x4
  exact Keeps.rest 4096 (hm.of rfl) (by assumption) rfl

theorem release_keeps {m} {s0 : State} {p1} {p2 : State} (hm : Sub 72236 m) (k : Keeps m s0 p2) :
    Keeps m s0 (release p1 p2) := by
  unfold release
  split
  · rename_i y1 y2 y3
    assumption
  · rename_i y4 y5 y6 y7
    assumption
  · rename_i y8 y9 y10 y11 y12
    assumption
  · rename_i y13 y14 y15 y16 y17
    exact raiseEvent_keeps (hm.of rfl) (by assumption)
  · rename_i y18 y19 y20 y21 y22
    exact complete_keeps (hm.of rfl) (by assumption)
  · rename_i y23
    with_reducible apply setLed_keeps (hm.of rfl)
    · assumption
    · exact ⟨id⟩
  · rename_i y24
    with_reducible apply setLed_keeps (hm.of rfl)
    · assumption
    · exact ⟨id⟩
  · rename_i y25 y26 y27 y28 y29
    exact tokenResult_keeps (hm.of rfl) (by assumption)
  · rename_i y30 y31
    with_reducible apply setLed_keeps (hm.of rfl)
    · assumption
    · exact ⟨id⟩
  · rename_i y32 y33
    with_reducible apply setLed_keeps (hm.of rfl)
    · assumption
    · exact ⟨id⟩
  · rename_i y34 y35
    with_reducible apply setLed_keeps (hm.of rfl)
    · assumption
    · exact ⟨id⟩
  · rename_i y36 y37
    exact queueCredit_keeps (hm.of rfl) (by assumption)
  · rename_i y38 y39 y40 y41 y42 y43
    exact takePage_keeps (hm.of rfl) (by assumption)
  · rename_i y44 y45 y46 y47 y48 y49
    exact addHistory_keeps (hm.of rfl) (by assumption)
  · rename_i y50 y51
    with_reducible apply settleLedgerFault_keeps (hm.of rfl)
    with_reducible apply setLed_keeps (hm.of rfl)
    · assumption
    · exact ⟨id⟩
  · rename_i y52 y53
    exact takeFold_keeps (hm.of rfl) (by assumption)
  · rename_i y54 y55
    exact Keeps.rest 512 (hm.of rfl) (by assumption) rfl

theorem writeFrontier_keeps {m} {s0 : State} {p1} {p2 : State} (hm : Sub 32 m) (k : Keeps m s0 p2) :
    Keeps m s0 (writeFrontier p1 p2) := by
  unfold writeFrontier
  with_reducible apply setLed_keeps (hm.of rfl)
  · assumption
  · exact ⟨id⟩

theorem advanceOldest_keeps {m} {s0 : State} {p1 : State} (hm : Sub 6181 m) (k : Keeps m s0 p1) :
    Keeps m s0 (advanceOldest p1) := by
  unfold advanceOldest
  split
  · rename_i y1 y2
    apply Keeps.ite
    · exact backlogCleared_keeps (hm.of rfl) (by assumption)
    · assumption
  · rename_i y3 y4 y5 y6
    extract_lets +onlyGivenNames x7
    have h8 : Keeps m s0 x7 := drainOldest_keeps (hm.of rfl) (by assumption)
    clear_value x7
    apply Keeps.ite
    · exact setTick_keeps (hm.of rfl) (by assumption)
    · assumption

theorem commitPair_keeps {m} {s0 : State} {p1} {p2 : State} (hm : Sub 4100 m) (k : Keeps m s0 p2) :
    Keeps m s0 (commitPair p1 p2) := by
  unfold commitPair
  extract_lets +onlyGivenNames x1
  have h2 : Keeps m s0 x1 := by
    unfold x1
    apply Keeps.ite
    · exact mirrorSend_keeps (hm.of rfl) (by assumption)
    · assumption
  clear_value x1
  extract_lets +onlyGivenNames x3
  clear_value x3
  extract_lets +onlyGivenNames x4
  clear_value x4
  extract_lets +onlyGivenNames x5
  have h6 : Keeps m s0 x5 := by
    unfold x5
    apply Keeps.ite
    · assumption
    · exact Keeps.rest 4096 (hm.of rfl) (by assumption) rfl
  clear_value x5
  split
  · rename_i y7 y8
    assumption
  · rename_i y9 y10 y11 y12 y13
    with_reducible apply raiseEvent_keeps (hm.of rfl)
    exact Keeps.rest 4096 (hm.of rfl) (by assumption) rfl

theorem noteFlags_keeps {m} {s0 : State} {p1 p2} {p3 : State} (hm : Sub 512 m) (k : Keeps m s0 p3) :
    Keeps m s0 (noteFlags p1 p2 p3) := by
  unfold noteFlags
  exact Keeps.rest 512 (hm.of rfl) (by assumption) rfl

theorem commitOldest_keeps {m} {s0 : State} {p1 : State} (hm : Sub 203309 m) (k : Keeps m s0 p1) :
    Keeps m s0 (commitOldest p1) := by
  unfold commitOldest
  split
  · rename_i y1 y2
    assumption
  · rename_i y3 y4 y5 y6
    extract_lets +onlyGivenNames x7
    clear_value x7
    extract_lets +onlyGivenNames x8
    have h9 : Keeps m s0 x8.2 := by
      unfold x8
      apply Keeps.foldlPair
      · intro a10 a11 a12
        exact journalOne_keeps (hm.of rfl) (by assumption)
      · apply Keeps.sndMk
        assumption
    clear_value x8
    extract_lets +onlyGivenNames x13
    clear_value x13
    extract_lets +onlyGivenNames x14
    have h15 : Keeps m s0 x14 := by
      unfold x14
      with_reducible apply writeFrontier_keeps (hm.of rfl)
      assumption
    clear_value x14
    extract_lets +onlyGivenNames x16
    have h17 : Keeps m s0 x16 := by
      unfold x16
      with_reducible apply setLed_keeps (hm.of rfl)
      · assumption
      · exact ⟨fun h => by simp only [List.length_drop]; omega⟩
    clear_value x16
    extract_lets +onlyGivenNames x18
    have h19 : Keeps m s0 x18 := by
      unfold x18
      apply Keeps.foldl
      · intro a20 a21 a22
        exact noteFlags_keeps (hm.of rfl) (by assumption)
      · assumption
    clear_value x18
    extract_lets +onlyGivenNames x23
    have h24 : Keeps m s0 x23 := by
      unfold x23
      apply Keeps.foldl
      · intro a25 a26 a27
        exact release_keeps (hm.of rfl) (by assumption)
      · assumption
    clear_value x23
    with_reducible apply advanceOldest_keeps (hm.of rfl)
    with_reducible apply commitPair_keeps (hm.of rfl)
    exact balanceCommit_keeps (hm.of rfl) (by assumption)

theorem refuseToken_keeps {m} {s0 : State} {p1} {p2 : State} (hm : Sub 65572 m) (k : Keeps m s0 p2) :
    Keeps m s0 (refuseToken p1 p2) := by
  unfold refuseToken
  apply Keeps.ite
  · assumption
  · extract_lets +onlyGivenNames x1
    have h2 : Keeps m s0 x1 := by
      unfold x1
      with_reducible apply setLed_keeps (hm.of rfl)
      · assumption
      · exact ⟨id⟩
    clear_value x1
    extract_lets +onlyGivenNames x3
    clear_value x3
    extract_lets +onlyGivenNames x4
    have h5 : Keeps m s0 x4 := rejectToken_keeps (hm.of rfl) (by assumption)
    clear_value x4
    apply Keeps.ite
    · exact tokenResult_keeps (hm.of rfl) (by assumption)
    · exact complete_keeps (hm.of rfl) (by assumption)

theorem dropTick_keeps {m} {s0 : State} {p1 p2} {p3 : State} (hm : Sub 69796 m) (k : Keeps m s0 p3) :
    Keeps m s0 (dropTick p1 p2 p3) := by
  unfold dropTick
  extract_lets +onlyGivenNames x1
  clear_value x1
  extract_lets +onlyGivenNames x2
  clear_value x2
  extract_lets +onlyGivenNames x3
  have h4 : Keeps m s0 x3 := by
    unfold x3
    with_reducible apply setLed_keeps (hm.of rfl)
    · assumption
    · exact ⟨fun h => Nat.le_trans (List.length_filter_le _ _) h⟩
  clear_value x3
  extract_lets +onlyGivenNames x5
  have h6 : Keeps m s0 x5 := dropTasks_keeps (hm.of rfl) (by assumption)
  clear_value x5
  extract_lets +onlyGivenNames x7
  have h8 : Keeps m s0 x7 := by
    unfold x7
    apply Keeps.ite
    · exact mirrorSend_keeps (hm.of rfl) (by assumption)
    · assumption
  clear_value x7
  apply Keeps.foldl
  · intro a9 a11 h14
    exact refuseToken_keeps (hm.of rfl) (by assumption)
  · assumption

theorem abortFrom_keeps {m} {s0 : State} {p1 p2} {p3 : State} (hm : Sub 80039 m) (k : Keeps m s0 p3) :
    Keeps m s0 (abortFrom p1 p2 p3) := by
  unfold abortFrom
  extract_lets +onlyGivenNames x1
  clear_value x1
  apply Keeps.ite
  · assumption
  · extract_lets +onlyGivenNames x2
    clear_value x2
    extract_lets +onlyGivenNames x3
    have h4 : Keeps m s0 x3 := by
      unfold x3
      apply Keeps.foldl
      · intro a5 a7 h10
        exact dropTick_keeps (hm.of rfl) (by assumption)
      · assumption
    clear_value x3
    extract_lets +onlyGivenNames x11
    have h12 : Keeps m s0 x11 := by
      unfold x11
      with_reducible apply settleAhead_keeps (hm.of rfl)
      · assumption
      · intro a13 a15 a17 a19 h22
        assumption
    clear_value x11
    with_reducible apply advanceOldest_keeps (hm.of rfl)
    exact reportShort_keeps (hm.of rfl) (by assumption)

theorem abortUnclosed_keeps {m} {s0 : State} {p1 : State} (hm : Sub 80039 m) (k : Keeps m s0 p1) :
    Keeps m s0 (abortUnclosed p1) := by
  unfold abortUnclosed
  exact abortFrom_keeps (hm.of rfl) (by assumption)

theorem commitClosed_keeps {m} {s0 : State} {p1 p2} {p3 : State} (hm : Sub 203309 m) (k : Keeps m s0 p3) :
    Keeps m s0 (commitClosed p1 p2 p3) := by
  fun_induction commitClosed
  · rename_i z1
    assumption
  · rename_i z2 z3 z4
    assumption
  · rename_i z5 z6 z7 z8 z9 z10 z11
    with_reducible apply z11
    exact commitOldest_keeps (hm.of rfl) (by assumption)
  · rename_i z12 z13 z14 z15 z16 z17
    assumption

theorem execTickClose_keeps {m} {s0 : State} {p1} {p2 : State} (hm : Sub 4128 m) (k : Keeps m s0 p2) :
    KeepsR m s0 (execTickClose p1 p2) := by
  unfold execTickClose
  split
  · rename_i y1 y2
    apply KeepsR.next
    assumption
  · rename_i y3 y4 y5
    extract_lets +onlyGivenNames x6
    clear_value x6
    extract_lets +onlyGivenNames x7
    have h8 : Keeps m s0 x7 := setTick_keeps (hm.of rfl) (by assumption)
    clear_value x7
    extract_lets +onlyGivenNames x9
    have h10 : Keeps m s0 x9 := by
      unfold x9
      with_reducible apply setLed_keeps (hm.of rfl)
      · assumption
      · exact ⟨id⟩
    clear_value x9
    apply KeepsR.next
    apply Keeps.ite
    · exact mirrorSend_keeps (hm.of rfl) (by assumption)
    · assumption

theorem countOverruns_keeps {m} {s0 : State} {p1 : State} (hm : Sub 160 m) (k : Keeps m s0 p1) :
    Keeps m s0 (countOverruns p1) := by
  unfold countOverruns
  apply Keeps.foldl
  · intro a1 a3 h6
    extract_lets +onlyGivenNames x7
    have h8 : Keeps m s0 x7 := setTick_keeps (hm.of rfl) (by assumption)
    clear_value x7
    extract_lets +onlyGivenNames x9
    have h10 : Keeps m s0 x9 := by
      unfold x9
      with_reducible apply setLed_keeps (hm.of rfl)
      · assumption
      · exact ⟨id⟩
    clear_value x9
    with_reducible apply ungateUmbels_keeps (hm.of rfl)
    exact promoteTick_keeps (hm.of rfl) (by assumption)
  · assumption

theorem execTickOverrun_keeps {m} {s0 : State} {p1 : State} (hm : Sub 160 m) (k : Keeps m s0 p1) :
    KeepsR m s0 (execTickOverrun p1) := by
  unfold execTickOverrun
  apply KeepsR.next
  exact countOverruns_keeps (hm.of rfl) (by assumption)

theorem backlogTimeout_keeps {m} {s0 : State} {p1 : State} (hm : Sub 80039 m) (k : Keeps m s0 p1) :
    Keeps m s0 (backlogTimeout p1) := by
  unfold backlogTimeout
  apply Keeps.ite
  · extract_lets +onlyGivenNames x1
    have h2 : Keeps m s0 x1 := abortFrom_keeps (hm.of rfl) (by assumption)
    clear_value x1
    apply Keeps.ite
    · exact backlogCleared_keeps (hm.of rfl) (by assumption)
    · assumption
  · assumption

theorem execBacklogTimeout_keeps {m} {s0 : State} {p1 : State} (hm : Sub 80039 m) (k : Keeps m s0 p1) :
    KeepsR m s0 (execBacklogTimeout p1) := by
  unfold execBacklogTimeout
  apply KeepsR.next
  exact backlogTimeout_keeps (hm.of rfl) (by assumption)

theorem scrubStamps_keeps {m} {s0 : State} {p1} {p2 : State} (hm : Sub 32 m) (k : Keeps m s0 p2) :
    Keeps m s0 (scrubStamps p1 p2) := by
  unfold scrubStamps
  with_reducible apply setLed_keeps (hm.of rfl)
  · assumption
  · exact ⟨id⟩

theorem execAbortScrubComplete_keeps {m} {s0 : State} {p1} {p2 : State} (hm : Sub 2084 m) (k : Keeps m s0 p2) :
    KeepsR m s0 (execAbortScrubComplete p1 p2) := by
  unfold execAbortScrubComplete
  apply KeepsR.next
  apply Keeps.ite
  · with_reducible apply settleLedgerFault_keeps (hm.of rfl)
    with_reducible apply setLed_keeps (hm.of rfl)
    · exact scrubStamps_keeps (hm.of rfl) (by assumption)
    · exact ⟨id⟩
  · assumption

theorem execAccountRestoreStandby_keeps {m} {s0 : State} {p1 p2} {p3 : State} (hm : Sub 32 m) (k : Keeps m s0 p3) :
    KeepsR m s0 (execAccountRestoreStandby p1 p2 p3) := by
  unfold execAccountRestoreStandby
  apply KeepsR.next
  apply Keeps.ite
  · with_reducible apply setLed_keeps (hm.of rfl)
    · assumption
    · exact ⟨id⟩
  · assumption

end Sys2Proof.Machine
end

