-- ==== Sys2Proof/Laws/Keeps/FieldRows.lean ====
section
/-!
SUPPORT. What the operations of Machine/FieldRows.lean keep.
-/

namespace Sys2Proof.Machine

theorem onField_keeps {m} {s0 : State} {p1} {p2 : State} (hm : Sub 802852 m) (k : Keeps m s0 p2) (h1 : ∀ v1, Keeps m s0 v1 → Keeps m s0 (p1 v1)) :
    KeepsR m s0 (onField p1 p2) := by
  unfold onField
  apply KeepsR.next
  apply Keeps.ite
  · with_reducible apply reviewPoints_keeps (hm.of rfl)
    with_reducible apply evalOutputs_keeps (hm.of rfl)
    with_reducible apply h1
    assumption
  · assumption

theorem execOutputEvaluation_keeps {m} {s0 : State} {p1 : State} (hm : Sub 802852 m) (k : Keeps m s0 p1) :
    KeepsR m s0 (execOutputEvaluation p1) := by
  unfold execOutputEvaluation
  with_reducible apply onField_keeps (hm.of rfl)
  · assumption
  · intro a1 h4
    apply Keeps.ofId
    assumption

theorem execDirectPinEdge_keeps {m} {s0 : State} {p1 p2} {p3 : State} (hm : Sub 802852 m) (k : Keeps m s0 p3) :
    KeepsR m s0 (execDirectPinEdge p1 p2 p3) := by
  unfold execDirectPinEdge
  with_reducible apply onField_keeps (hm.of rfl)
  · assumption
  · intro a1 h4
    exact setFio_keeps (hm.of rfl) (by assumption)

theorem execField24vUndervoltage_keeps {m} {s0 : State} {p1 p2} {p3 : State} (hm : Sub 813095 m) (k : Keeps m s0 p3) :
    KeepsR m s0 (execField24vUndervoltage p1 p2 p3) := by
  unfold execField24vUndervoltage
  with_reducible apply onField_keeps (hm.of rfl)
  · assumption
  · intro a1 h4
    extract_lets +onlyGivenNames x5
    have h6 : Keeps m s0 x5 := measureField_keeps (hm.of rfl) (by assumption)
    clear_value x5
    apply Keeps.ite
    · assumption
    · with_reducible apply suspendInputs_keeps (hm.of rfl)
      with_reducible apply raiseFault_keeps (hm.of rfl)
      with_reducible apply fieldSupplyEvent_keeps (hm.of rfl)
      exact setFio_keeps (hm.of rfl) (by assumption)

theorem execField24vOvervoltage_keeps {m} {s0 : State} {p1 p2} {p3 : State} (hm : Sub 813095 m) (k : Keeps m s0 p3) :
    KeepsR m s0 (execField24vOvervoltage p1 p2 p3) := by
  unfold execField24vOvervoltage
  with_reducible apply onField_keeps (hm.of rfl)
  · assumption
  · intro a1 h4
    extract_lets +onlyGivenNames x5
    have h6 : Keeps m s0 x5 := measureField_keeps (hm.of rfl) (by assumption)
    clear_value x5
    apply Keeps.ite
    · assumption
    · with_reducible apply suspendInputs_keeps (hm.of rfl)
      with_reducible apply raiseFault_keeps (hm.of rfl)
      with_reducible apply fieldSupplyEvent_keeps (hm.of rfl)
      exact setFio_keeps (hm.of rfl) (by assumption)

theorem execField24vRestored_keeps {m} {s0 : State} {p1 p2} {p3 : State} (hm : Sub 804900 m) (k : Keeps m s0 p3) :
    KeepsR m s0 (execField24vRestored p1 p2 p3) := by
  unfold execField24vRestored
  with_reducible apply onField_keeps (hm.of rfl)
  · assumption
  · intro a1 h4
    extract_lets +onlyGivenNames x5
    have h6 : Keeps m s0 x5 := measureField_keeps (hm.of rfl) (by assumption)
    clear_value x5
    extract_lets +onlyGivenNames x7
    clear_value x7
    extract_lets +onlyGivenNames x8
    have h9 : Keeps m s0 x8 := setFio_keeps (hm.of rfl) (by assumption)
    clear_value x8
    apply Keeps.ite
    · with_reducible apply syncField_keeps (hm.of rfl)
      with_reducible apply fieldSupplyEvent_keeps (hm.of rfl)
      exact setFio_keeps (hm.of rfl) (by assumption)
    · exact syncField_keeps (hm.of rfl) (by assumption)

theorem execField24vTotalHigh_keeps {m} {s0 : State} {p1 p2} {p3 : State} (hm : Sub 813095 m) (k : Keeps m s0 p3) :
    KeepsR m s0 (execField24vTotalHigh p1 p2 p3) := by
  unfold execField24vTotalHigh
  with_reducible apply onField_keeps (hm.of rfl)
  · assumption
  · intro a1 h4
    extract_lets +onlyGivenNames x5
    have h6 : Keeps m s0 x5 := measureField_keeps (hm.of rfl) (by assumption)
    clear_value x5
    apply Keeps.ite
    · assumption
    · with_reducible apply raiseFault_keeps (hm.of rfl)
      with_reducible apply fieldSupplyEvent_keeps (hm.of rfl)
      exact setFio_keeps (hm.of rfl) (by assumption)

theorem execLsAccumulatorUpdate_keeps {m} {s0 : State} {p1 p2} {p3 : State} (hm : Sub 813095 m) (k : Keeps m s0 p3) :
    KeepsR m s0 (execLsAccumulatorUpdate p1 p2 p3) := by
  unfold execLsAccumulatorUpdate
  with_reducible apply onField_keeps (hm.of rfl)
  · assumption
  · intro a1 h4
    extract_lets +onlyGivenNames x5
    have h6 : Keeps m s0 x5 := setFio_keeps (hm.of rfl) (by assumption)
    clear_value x5
    apply Keeps.foldl
    · intro a7 a9 h12
      apply Keeps.ite
      · exact lsTrip_keeps (hm.of rfl) (by assumption)
      · assumption
    · assumption

theorem execLsShortCircuit_keeps {m} {s0 : State} {p1} {p2 : State} (hm : Sub 813095 m) (k : Keeps m s0 p2) :
    KeepsR m s0 (execLsShortCircuit p1 p2) := by
  unfold execLsShortCircuit
  with_reducible apply onField_keeps (hm.of rfl)
  · assumption
  · intro a1 h4
    extract_lets +onlyGivenNames x5
    clear_value x5
    apply Keeps.ite
    · exact lsTrip_keeps (hm.of rfl) (by assumption)
    · assumption

theorem execLsOverTemperature_keeps {m} {s0 : State} {p1} {p2 : State} (hm : Sub 813095 m) (k : Keeps m s0 p2) :
    KeepsR m s0 (execLsOverTemperature p1 p2) := by
  unfold execLsOverTemperature
  with_reducible apply onField_keeps (hm.of rfl)
  · assumption
  · intro a1 h4
    apply Keeps.ite
    · exact lsTrip_keeps (hm.of rfl) (by assumption)
    · assumption

theorem execLsRampTimeout_keeps {m} {s0 : State} {p1} {p2 : State} (hm : Sub 813095 m) (k : Keeps m s0 p2) :
    KeepsR m s0 (execLsRampTimeout p1 p2) := by
  unfold execLsRampTimeout
  with_reducible apply onField_keeps (hm.of rfl)
  · assumption
  · intro a1 h4
    extract_lets +onlyGivenNames x5
    clear_value x5
    apply Keeps.ite
    · exact lsTrip_keeps (hm.of rfl) (by assumption)
    · assumption

theorem execLsOpenLoad_keeps {m} {s0 : State} {p1} {p2 : State} (hm : Sub 802852 m) (k : Keeps m s0 p2) :
    KeepsR m s0 (execLsOpenLoad p1 p2) := by
  unfold execLsOpenLoad
  with_reducible apply onField_keeps (hm.of rfl)
  · assumption
  · intro a1 h4
    extract_lets +onlyGivenNames x5
    clear_value x5
    apply Keeps.ite
    · with_reducible apply lsTripEvent_keeps (hm.of rfl)
      exact setLs_keeps (hm.of rfl) (by assumption)
    · assumption

theorem execTestPulseGap_keeps {m} {s0 : State} {p1} {p2 : State} (hm : Sub 262144 m) (k : Keeps m s0 p2) :
    KeepsR m s0 (execTestPulseGap p1 p2) := by
  unfold execTestPulseGap
  apply KeepsR.next
  apply Keeps.ite
  · exact setFio_keeps (hm.of rfl) (by assumption)
  · assumption

theorem execTestPulseOverload_keeps {m} {s0 : State} {p1} {p2 : State} (hm : Sub 813095 m) (k : Keeps m s0 p2) :
    KeepsR m s0 (execTestPulseOverload p1 p2) := by
  unfold execTestPulseOverload
  with_reducible apply onField_keeps (hm.of rfl)
  · assumption
  · intro a1 h4
    apply Keeps.ite
    · with_reducible apply raiseFault_keeps (hm.of rfl)
      exact setFio_keeps (hm.of rfl) (by assumption)
    · assumption

theorem execTestPulseRetry_keeps {m} {s0 : State} {p1} {p2 : State} (hm : Sub 804900 m) (k : Keeps m s0 p2) :
    KeepsR m s0 (execTestPulseRetry p1 p2) := by
  unfold execTestPulseRetry
  with_reducible apply onField_keeps (hm.of rfl)
  · assumption
  · intro a1 h4
    apply Keeps.ite
    · with_reducible apply syncField_keeps (hm.of rfl)
      exact setFio_keeps (hm.of rfl) (by assumption)
    · assumption

theorem execSafetyInputSample_keeps {m} {s0 : State} {p1 p2 p3} {p4 : State} (hm : Sub 813095 m) (k : Keeps m s0 p4) :
    KeepsR m s0 (execSafetyInputSample p1 p2 p3 p4) := by
  unfold execSafetyInputSample
  with_reducible apply onField_keeps (hm.of rfl)
  · assumption
  · intro a1 h4
    apply Keeps.foldl
    · intro a5 a7 h10
      exact sampleOne_keeps (hm.of rfl) (by assumption)
    · assumption

theorem execSafetyInputRelease_keeps {m} {s0 : State} {p1} {p2 : State} (hm : Sub 813095 m) (k : Keeps m s0 p2) :
    KeepsR m s0 (execSafetyInputRelease p1 p2) := by
  unfold execSafetyInputRelease
  with_reducible apply onField_keeps (hm.of rfl)
  · assumption
  · intro a1 h4
    exact releaseInput_keeps (hm.of rfl) (by assumption)

theorem execSafetyInputDiscrepancy_keeps {m} {s0 : State} {p1} {p2 : State} (hm : Sub 813095 m) (k : Keeps m s0 p2) :
    KeepsR m s0 (execSafetyInputDiscrepancy p1 p2) := by
  unfold execSafetyInputDiscrepancy
  with_reducible apply onField_keeps (hm.of rfl)
  · assumption
  · intro a1 h4
    exact discrepancyInput_keeps (hm.of rfl) (by assumption)

theorem outputFault_keeps {m} {s0 : State} {p1 p2} {p3 : State} (hm : Sub 272391 m) (k : Keeps m s0 p3) :
    Keeps m s0 (outputFault p1 p2 p3) := by
  unfold outputFault
  with_reducible apply raiseFault_keeps (hm.of rfl)
  with_reducible apply raiseEvent_keeps (hm.of rfl)
  exact setOutput_keeps (hm.of rfl) (by assumption)

theorem execSoOffPulse_keeps {m} {s0 : State} {p1 p2} {p3 : State} (hm : Sub 813095 m) (k : Keeps m s0 p3) :
    KeepsR m s0 (execSoOffPulse p1 p2 p3) := by
  unfold execSoOffPulse
  with_reducible apply onField_keeps (hm.of rfl)
  · assumption
  · intro a1 h4
    extract_lets +onlyGivenNames x5
    clear_value x5
    apply Keeps.ite
    · extract_lets +onlyGivenNames x6
      have h7 : Keeps m s0 x6 := setOutput_keeps (hm.of rfl) (by assumption)
      clear_value x6
      apply Keeps.ite
      · assumption
      · exact outputFault_keeps (hm.of rfl) (by assumption)
    · assumption

theorem execSoFailedOpen_keeps {m} {s0 : State} {p1} {p2 : State} (hm : Sub 813095 m) (k : Keeps m s0 p2) :
    KeepsR m s0 (execSoFailedOpen p1 p2) := by
  unfold execSoFailedOpen
  with_reducible apply onField_keeps (hm.of rfl)
  · assumption
  · intro a1 h4
    apply Keeps.ite
    · exact outputFault_keeps (hm.of rfl) (by assumption)
    · assumption

theorem execSoExternallyFed_keeps {m} {s0 : State} {p1} {p2 : State} (hm : Sub 813095 m) (k : Keeps m s0 p2) :
    KeepsR m s0 (execSoExternallyFed p1 p2) := by
  unfold execSoExternallyFed
  with_reducible apply onField_keeps (hm.of rfl)
  · assumption
  · intro a1 h4
    extract_lets +onlyGivenNames x5
    clear_value x5
    apply Keeps.ite
    · with_reducible apply raiseFault_keeps (hm.of rfl)
      with_reducible apply raiseEvent_keeps (hm.of rfl)
      exact setOutput_keeps (hm.of rfl) (by assumption)
    · assumption

theorem execSoFeedCleared_keeps {m} {s0 : State} {p1} {p2 : State} (hm : Sub 804900 m) (k : Keeps m s0 p2) :
    KeepsR m s0 (execSoFeedCleared p1 p2) := by
  unfold execSoFeedCleared
  with_reducible apply onField_keeps (hm.of rfl)
  · assumption
  · intro a1 h4
    apply Keeps.ite
    · with_reducible apply syncField_keeps (hm.of rfl)
      with_reducible apply raiseEvent_keeps (hm.of rfl)
      exact setOutput_keeps (hm.of rfl) (by assumption)
    · assumption

end Sys2Proof.Machine
end

