-- ==== Sys2Proof/Laws/Keeps/Baton.lean ====
section
/-!
SUPPORT. What the operations of Machine/Baton.lean keep.
-/

namespace Sys2Proof.Machine

theorem setDuty_keeps {m} {s0 : State} {p1} {p2 : State} (hm : Sub 4096 m) (k : Keeps m s0 p2) :
    Keeps m s0 (setDuty p1 p2) := by
  unfold setDuty
  exact Keeps.rest 4096 (hm.of rfl) (by assumption) rfl

theorem dutyEvent_keeps {m} {s0 : State} {p1 p2} {p3 : State} (hm : Sub 4 m) (k : Keeps m s0 p3) :
    Keeps m s0 (dutyEvent p1 p2 p3) := by
  unfold dutyEvent
  exact raiseEvent_keeps (hm.of rfl) (by assumption)

theorem toRole_keeps {m} {s0 : State} {p1 p2} {p3 : State} (hm : Sub 12293 m) (k : Keeps m s0 p3) :
    Keeps m s0 (toRole p1 p2 p3) := by
  unfold toRole
  apply Keeps.ite
  · assumption
  · with_reducible apply traceMode_keeps (hm.of rfl)
    with_reducible apply dutyEvent_keeps (hm.of rfl)
    exact setDuty_keeps (hm.of rfl) (by assumption)

theorem setSync_keeps {m} {s0 : State} {p1 p2} {p3 : State} (hm : Sub 4100 m) (k : Keeps m s0 p3) :
    Keeps m s0 (setSync p1 p2 p3) := by
  unfold setSync
  extract_lets +onlyGivenNames x1
  clear_value x1
  apply Keeps.ite
  · assumption
  · with_reducible apply raiseEvent_keeps (hm.of rfl)
    exact setDuty_keeps (hm.of rfl) (by assumption)

theorem loseSync_keeps {m} {s0 : State} {p1} {p2 : State} (hm : Sub 4100 m) (k : Keeps m s0 p2) :
    Keeps m s0 (loseSync p1 p2) := by
  unfold loseSync
  apply Keeps.ite
  · exact setSync_keeps (hm.of rfl) (by assumption)
  · assumption

theorem execFrontierWriteFailed_keeps {m} {s0 : State} {p1 : State} (hm : Sub 80039 m) (k : Keeps m s0 p1) :
    KeepsR m s0 (execFrontierWriteFailed p1) := by
  unfold execFrontierWriteFailed
  apply KeepsR.next
  apply Keeps.ite
  · with_reducible apply settleLedgerFault_keeps (hm.of rfl)
    with_reducible apply abortFrom_keeps (hm.of rfl)
    exact raiseFault_keeps (hm.of rfl) (by assumption)
  · exact loseSync_keeps (hm.of rfl) (by assumption)

theorem driversChanged_keeps {m} {s0 : State} {p1 : State} (hm : Sub 802852 m) (k : Keeps m s0 p1) :
    Keeps m s0 (driversChanged p1) := by
  unfold driversChanged
  with_reducible apply reviewPoints_keeps (hm.of rfl)
  exact evalOutputs_keeps (hm.of rfl) (by assumption)

theorem stemRelease_keeps {m} {s0 : State} {p1 : State} (hm : Sub 32772 m) (k : Keeps m s0 p1) :
    Keeps m s0 (stemRelease p1) := by
  unfold stemRelease
  apply Keeps.foldl
  · intro a1 a3 h6
    extract_lets +onlyGivenNames x7
    clear_value x7
    apply Keeps.ite
    · assumption
    · with_reducible apply bridgeTo_keeps (hm.of rfl)
      exact revoke_keeps (hm.of rfl) (by assumption)
  · assumption

theorem releaseLedger_keeps {m} {s0 : State} {p1 : State} (hm : Sub 211631 m) (k : Keeps m s0 p1) :
    Keeps m s0 (releaseLedger p1) := by
  unfold releaseLedger
  with_reducible apply abortFrom_keeps (hm.of rfl)
  exact commitClosed_keeps (hm.of rfl) (by assumption)

theorem releaseBaton_keeps {m} {s0 : State} {p1} {p2 : State} (hm : Sub 1047215 m) (k : Keeps m s0 p2) :
    Keeps m s0 (releaseBaton p1 p2) := by
  unfold releaseBaton
  apply Keeps.ite
  · assumption
  · extract_lets +onlyGivenNames x1
    clear_value x1
    extract_lets +onlyGivenNames x2
    have h3 : Keeps m s0 x2 := by
      unfold x2
      with_reducible apply driversChanged_keeps (hm.of rfl)
      exact setDuty_keeps (hm.of rfl) (by assumption)
    clear_value x2
    extract_lets +onlyGivenNames x4
    have h5 : Keeps m s0 x4 := by
      unfold x4
      apply Keeps.ite
      · exact releaseLedger_keeps (hm.of rfl) (by assumption)
      · assumption
    clear_value x4
    extract_lets +onlyGivenNames x6
    have h7 : Keeps m s0 x6 := setDuty_keeps (hm.of rfl) (by assumption)
    clear_value x6
    extract_lets +onlyGivenNames x8
    have h9 : Keeps m s0 x8 := endFault_keeps (hm.of rfl) (by assumption)
    clear_value x8
    apply Keeps.ite
    · extract_lets +onlyGivenNames x10
      clear_value x10
      extract_lets +onlyGivenNames x11
      have h12 : Keeps m s0 x11 := by
        unfold x11
        with_reducible apply stemRelease_keeps (hm.of rfl)
        exact setSync_keeps (hm.of rfl) (by assumption)
      clear_value x11
      with_reducible apply reviewPoints_keeps (hm.of rfl)
      with_reducible apply toRole_keeps (hm.of rfl)
      exact setDuty_keeps (hm.of rfl) (by assumption)
    · assumption

theorem learnEpoch_keeps {m} {s0 : State} {p1} {p2 : State} (hm : Sub 1047215 m) (k : Keeps m s0 p2) :
    Keeps m s0 (learnEpoch p1 p2) := by
  unfold learnEpoch
  apply Keeps.ite
  · assumption
  · extract_lets +onlyGivenNames x1
    have h2 : Keeps m s0 x1 := setDuty_keeps (hm.of rfl) (by assumption)
    clear_value x1
    apply Keeps.ite
    · with_reducible apply releaseBaton_keeps (hm.of rfl)
      exact reportFault_keeps (hm.of rfl) (by assumption)
    · assumption

theorem settleEpoch_keeps {m} {s0 : State} {p1 : State} (hm : Sub 1047215 m) (k : Keeps m s0 p1) :
    Keeps m s0 (settleEpoch p1) := by
  unfold settleEpoch
  exact learnEpoch_keeps (hm.of rfl) (by assumption)

theorem claimBaton_keeps {m} {s0 : State} {p1 : State} (hm : Sub 4096 m) (k : Keeps m s0 p1) :
    Keeps m s0 (claimBaton p1) := by
  unfold claimBaton
  exact setDuty_keeps (hm.of rfl) (by assumption)

theorem enterSafe_keeps {m} {s0 : State} {p1 : State} (hm : Sub 915623 m) (k : Keeps m s0 p1) :
    Keeps m s0 (enterSafe p1) := by
  unfold enterSafe
  extract_lets +onlyGivenNames x1
  have h2 : Keeps m s0 x1 := loseSync_keeps (hm.of rfl) (by assumption)
  clear_value x1
  apply Keeps.ite
  · assumption
  · extract_lets +onlyGivenNames x3
    clear_value x3
    extract_lets +onlyGivenNames x4
    have h5 : Keeps m s0 x4 := by
      unfold x4
      exact Keeps.rest 2048 (hm.of rfl) (by assumption) rfl
    clear_value x4
    with_reducible apply stemCancelAll_keeps (hm.of rfl)
    with_reducible apply reviewPoints_keeps (hm.of rfl)
    with_reducible apply evalOutputs_keeps (hm.of rfl)
    exact abortUnclosed_keeps (hm.of rfl) (by assumption)

theorem settleSafe_keeps {m} {s0 : State} {p1 : State} (hm : Sub 804900 m) (k : Keeps m s0 p1) :
    Keeps m s0 (settleSafe p1) := by
  unfold settleSafe
  apply Keeps.ite
  · with_reducible apply reviewPoints_keeps (hm.of rfl)
    with_reducible apply evalOutputs_keeps (hm.of rfl)
    exact Keeps.rest 2048 (hm.of rfl) (by assumption) rfl
  · assumption

theorem raiseAWith_keeps {m} {s0 : State} {p1 p2 p3} {p4 : State} (hm : Sub 1047215 m) (k : Keeps m s0 p4) :
    Keeps m s0 (raiseAWith p1 p2 p3 p4) := by
  unfold raiseAWith
  extract_lets +onlyGivenNames x1
  have h2 : Keeps m s0 x1 := by
    unfold x1
    with_reducible apply enterSafe_keeps (hm.of rfl)
    exact raiseWith_keeps (hm.of rfl) (by assumption)
  clear_value x1
  apply Keeps.ite
  · exact releaseBaton_keeps (hm.of rfl) (by assumption)
  · assumption

theorem raiseA_keeps {m} {s0 : State} {p1 p2} {p3 : State} (hm : Sub 1047215 m) (k : Keeps m s0 p3) :
    Keeps m s0 (raiseA p1 p2 p3) := by
  unfold raiseA
  exact raiseAWith_keeps (hm.of rfl) (by assumption)

theorem execStemStaleRx_keeps {m} {s0 : State} {p1} {p2 : State} (hm : Sub 1047215 m) (k : Keeps m s0 p2) :
    KeepsR m s0 (execStemStaleRx p1 p2) := by
  unfold execStemStaleRx
  apply KeepsR.next
  with_reducible apply settleEpoch_keeps (hm.of rfl)
  exact stemReceive_keeps (hm.of rfl) (by assumption)

theorem execSafeLineTimeout_keeps {m} {s0 : State} {p1 : State} (hm : Sub 1047215 m) (k : Keeps m s0 p1) :
    KeepsR m s0 (execSafeLineTimeout p1) := by
  unfold execSafeLineTimeout
  apply KeepsR.next
  apply Keeps.ite
  · exact raiseA_keeps (hm.of rfl) (by assumption)
  · assumption

theorem execSafetyComparatorMismatch_keeps {m} {s0 : State} {p1 : State} (hm : Sub 1047215 m) (k : Keeps m s0 p1) :
    KeepsR m s0 (execSafetyComparatorMismatch p1) := by
  unfold execSafetyComparatorMismatch
  apply KeepsR.next
  apply Keeps.ite
  · split
    · rename_i y1 y2 y3 y4
      have h5 : Keeps m s0 y3 := by
        refine KeepsP.get ?_ y4
        exact takeInjection_keeps (hm.of rfl) (by assumption)
      with_reducible apply endFault_keeps (hm.of rfl)
      exact raiseAWith_keeps (hm.of rfl) (by assumption)
  · assumption

theorem execFaultNPulseEnd_keeps {m} {s0 : State} {p1 : State} (hm : Sub 2048 m) (k : Keeps m s0 p1) :
    KeepsR m s0 (execFaultNPulseEnd p1) := by
  unfold execFaultNPulseEnd
  apply KeepsR.next
  exact Keeps.rest 2048 (hm.of rfl) (by assumption) rfl

theorem execBatonOwnLineStuck_keeps {m} {s0 : State} {p1 : State} (hm : Sub 1047215 m) (k : Keeps m s0 p1) :
    KeepsR m s0 (execBatonOwnLineStuck p1) := by
  unfold execBatonOwnLineStuck
  apply KeepsR.next
  apply Keeps.ite
  · with_reducible apply raiseA_keeps (hm.of rfl)
    with_reducible apply driversChanged_keeps (hm.of rfl)
    exact setDuty_keeps (hm.of rfl) (by assumption)
  · assumption

theorem execBatonClaim_keeps {m} {s0 : State} {p1 : State} (hm : Sub 4096 m) (k : Keeps m s0 p1) :
    KeepsR m s0 (execBatonClaim p1) := by
  unfold execBatonClaim
  apply KeepsR.next
  apply Keeps.ite
  · exact claimBaton_keeps (hm.of rfl) (by assumption)
  · assumption

theorem peerReleases_keeps {m} {s0 : State} {p1 : State} (hm : Sub 808996 m) (k : Keeps m s0 p1) :
    Keeps m s0 (peerReleases p1) := by
  unfold peerReleases
  extract_lets +onlyGivenNames x1
  have h2 : Keeps m s0 x1 := setDuty_keeps (hm.of rfl) (by assumption)
  clear_value x1
  extract_lets +onlyGivenNames x3
  have h4 : Keeps m s0 x3 := by
    unfold x3
    apply Keeps.ite
    · exact endFault_keeps (hm.of rfl) (by assumption)
    · assumption
  clear_value x3
  apply Keeps.ite
  · with_reducible apply driversChanged_keeps (hm.of rfl)
    exact setDuty_keeps (hm.of rfl) (by assumption)
  · assumption

theorem peerClaims_keeps {m} {s0 : State} {p1 : State} (hm : Sub 1047215 m) (k : Keeps m s0 p1) :
    Keeps m s0 (peerClaims p1) := by
  unfold peerClaims
  extract_lets +onlyGivenNames x1
  have h2 : Keeps m s0 x1 := setDuty_keeps (hm.of rfl) (by assumption)
  clear_value x1
  extract_lets +onlyGivenNames x3
  have h4 : Keeps m s0 x3 := by
    unfold x3
    apply Keeps.ite
    · apply Keeps.ite
      · exact releaseBaton_keeps (hm.of rfl) (by assumption)
      · with_reducible apply driversChanged_keeps (hm.of rfl)
        exact setDuty_keeps (hm.of rfl) (by assumption)
    · assumption
  clear_value x3
  apply Keeps.ite
  · assumption
  · split
    · rename_i y5 y6
      exact raiseFault_keeps (hm.of rfl) (by assumption)
    · rename_i y7 y8
      exact toRole_keeps (hm.of rfl) (by assumption)
    · rename_i y9 y10 y11
      assumption

theorem execBatonPeerLine_keeps {m} {s0 : State} {p1} {p2 : State} (hm : Sub 1047215 m) (k : Keeps m s0 p2) :
    KeepsR m s0 (execBatonPeerLine p1 p2) := by
  unfold execBatonPeerLine
  apply KeepsR.next
  apply Keeps.ite
  · exact setDuty_keeps (hm.of rfl) (by assumption)
  · apply Keeps.ite
    · exact peerClaims_keeps (hm.of rfl) (by assumption)
    · exact peerReleases_keeps (hm.of rfl) (by assumption)

theorem seal7Opened_keeps {m} {s0 : State} {p1 : State} (hm : Sub 817191 m) (k : Keeps m s0 p1) :
    Keeps m s0 (seal7Opened p1) := by
  unfold seal7Opened
  extract_lets +onlyGivenNames x1
  have h2 : Keeps m s0 x1 := endFault_keeps (hm.of rfl) (by assumption)
  clear_value x1
  split
  · rename_i y3 y4
    assumption
  · rename_i y5 y6
    extract_lets +onlyGivenNames x7
    have h8 : Keeps m s0 x7 := setDuty_keeps (hm.of rfl) (by assumption)
    clear_value x7
    extract_lets +onlyGivenNames x9
    extract_lets +onlyGivenNames x10
    have h11 : Keeps m s0 x10 := by
      unfold x10
      refine Keeps.upd 32 (hm.of rfl) ?_ ?_ ?_ ?_ ?_ rfl
      · assumption
      · exact Nat.le_refl _
      · exact ⟨id, rfl, rfl, rfl⟩
      · exact ⟨Nat.le_refl _, id, id, id⟩
      · exact ⟨fun h => by simp only [List.length_map]; exact h⟩
    clear_value x10
    with_reducible apply raiseFault_keeps (hm.of rfl)
    exact setSync_keeps (hm.of rfl) (by assumption)
  · rename_i y12 y13 y14
    with_reducible apply reviewPoints_keeps (hm.of rfl)
    with_reducible apply toRole_keeps (hm.of rfl)
    with_reducible apply setSync_keeps (hm.of rfl)
    exact setDuty_keeps (hm.of rfl) (by assumption)

end Sys2Proof.Machine
end

