-- ==== Sys2Proof/Laws/Keeps/ChgRows.lean ====
section
/-!
SUPPORT. What the operations of Machine/ChgRows.lean keep.
-/

namespace Sys2Proof.Machine

theorem atPoint_keeps {m} {s0 : State} {p1 p2} {p3 : State} (hm : Sub 0 m) (k : Keeps m s0 p3) (h2 : ∀ v1, Keeps m s0 v1 → Keeps m s0 (p2 v1)) :
    KeepsR m s0 (atPoint p1 p2 p3) := by
  unfold atPoint
  apply KeepsR.next
  apply Keeps.ite
  · with_reducible apply h2
    assumption
  · assumption

theorem execPilotChange_keeps {m} {s0 : State} {p1 p2} {p3 : State} (hm : Sub 813095 m) (k : Keeps m s0 p3) :
    KeepsR m s0 (execPilotChange p1 p2 p3) := by
  unfold execPilotChange
  with_reducible apply atPoint_keeps (hm.of rfl)
  · assumption
  · intro a1 h4
    exact pilotChange_keeps (hm.of rfl) (by assumption)

theorem execPpChange_keeps {m} {s0 : State} {p1 p2} {p3 : State} (hm : Sub 813095 m) (k : Keeps m s0 p3) :
    KeepsR m s0 (execPpChange p1 p2 p3) := by
  unfold execPpChange
  with_reducible apply atPoint_keeps (hm.of rfl)
  · assumption
  · intro a1 a2
    extract_lets +onlyGivenNames x3
    clear_value x3
    apply Keeps.ite
    · assumption
    · extract_lets +onlyGivenNames x4
      clear_value x4
      extract_lets +onlyGivenNames x5
      have h6 : Keeps m s0 x5 := setPoint_keeps (hm.of rfl) (by assumption)
      clear_value x5
      apply Keeps.ite
      · exact trip_keeps (hm.of rfl) (by assumption)
      · apply Keeps.ite
        · exact pilotConnected_keeps (hm.of rfl) (by assumption)
        · assumption

theorem execChgLinkEstablished_keeps {m} {s0 : State} {p1 p2 p3} {p4 : State} (hm : Sub 802853 m) (k : Keeps m s0 p4) :
    KeepsR m s0 (execChgLinkEstablished p1 p2 p3 p4) := by
  unfold execChgLinkEstablished
  with_reducible apply atPoint_keeps (hm.of rfl)
  · assumption
  · intro a1 a2
    exact linkUp_keeps (hm.of rfl) (by assumption)

theorem execChgLinkLost_keeps {m} {s0 : State} {p1} {p2 : State} (hm : Sub 802852 m) (k : Keeps m s0 p2) :
    KeepsR m s0 (execChgLinkLost p1 p2) := by
  unfold execChgLinkLost
  with_reducible apply atPoint_keeps (hm.of rfl)
  · assumption
  · intro a1 h4
    exact linkDown_keeps (hm.of rfl) (by assumption)

theorem execLinkRetryEnd_keeps {m} {s0 : State} {p1} {p2 : State} (hm : Sub 540673 m) (k : Keeps m s0 p2) :
    KeepsR m s0 (execLinkRetryEnd p1 p2) := by
  unfold execLinkRetryEnd
  with_reducible apply atPoint_keeps (hm.of rfl)
  · assumption
  · intro a1 h4
    extract_lets +onlyGivenNames x5
    clear_value x5
    apply Keeps.ite
    · exact startLink_keeps (hm.of rfl) (by assumption)
    · assumption

theorem execV2gMessageRx_keeps {m} {s0 : State} {p1 p2} {p3 : State} (hm : Sub 813095 m) (k : Keeps m s0 p3) :
    KeepsR m s0 (execV2gMessageRx p1 p2 p3) := by
  unfold execV2gMessageRx
  with_reducible apply atPoint_keeps (hm.of rfl)
  · assumption
  · intro a1 h4
    exact vehicleMessage_keeps (hm.of rfl) (by assumption)

theorem execAuthTimeout_keeps {m} {s0 : State} {p1} {p2 : State} (hm : Sub 802852 m) (k : Keeps m s0 p2) :
    KeepsR m s0 (execAuthTimeout p1 p2) := by
  unfold execAuthTimeout
  with_reducible apply atPoint_keeps (hm.of rfl)
  · assumption
  · intro a1 h4
    with_reducible apply refusePoint_keeps (hm.of rfl)
    exact setChg_keeps (hm.of rfl) (by assumption)

theorem execPreparationComplete_keeps {m} {s0 : State} {p1} {p2 : State} (hm : Sub 540676 m) (k : Keeps m s0 p2) :
    KeepsR m s0 (execPreparationComplete p1 p2) := by
  unfold execPreparationComplete
  with_reducible apply atPoint_keeps (hm.of rfl)
  · assumption
  · intro a1 h4
    exact preparationDone_keeps (hm.of rfl) (by assumption)

theorem execStoppingComplete_keeps {m} {s0 : State} {p1} {p2 : State} (hm : Sub 802852 m) (k : Keeps m s0 p2) :
    KeepsR m s0 (execStoppingComplete p1 p2) := by
  unfold execStoppingComplete
  with_reducible apply atPoint_keeps (hm.of rfl)
  · assumption
  · intro a1 h4
    exact stoppingDone_keeps (hm.of rfl) (by assumption)

theorem execStoppingOpenTimeout_keeps {m} {s0 : State} {p1} {p2 : State} (hm : Sub 786432 m) (k : Keeps m s0 p2) :
    KeepsR m s0 (execStoppingOpenTimeout p1 p2) := by
  unfold execStoppingOpenTimeout
  with_reducible apply atPoint_keeps (hm.of rfl)
  · assumption
  · intro a1 h4
    apply Keeps.ite
    · exact contactorOff_keeps (hm.of rfl) (by assumption)
    · assumption

theorem execPauseContactorTimeout_keeps {m} {s0 : State} {p1} {p2 : State} (hm : Sub 786432 m) (k : Keeps m s0 p2) :
    KeepsR m s0 (execPauseContactorTimeout p1 p2) := by
  unfold execPauseContactorTimeout
  with_reducible apply atPoint_keeps (hm.of rfl)
  · assumption
  · intro a1 h4
    extract_lets +onlyGivenNames x5
    clear_value x5
    apply Keeps.ite
    · exact contactorOff_keeps (hm.of rfl) (by assumption)
    · assumption

theorem execPauseLimit_keeps {m} {s0 : State} {p1} {p2 : State} (hm : Sub 802852 m) (k : Keeps m s0 p2) :
    KeepsR m s0 (execPauseLimit p1 p2) := by
  unfold execPauseLimit
  with_reducible apply atPoint_keeps (hm.of rfl)
  · assumption
  · intro a1 h4
    apply Keeps.ite
    · exact stopPoint_keeps (hm.of rfl) (by assumption)
    · assumption

theorem execCardPollDwell_keeps {m} {s0 : State} {p1} {p2 : State} (hm : Sub 524288 m) (k : Keeps m s0 p2) :
    KeepsR m s0 (execCardPollDwell p1 p2) := by
  unfold execCardPollDwell
  apply KeepsR.next
  apply Keeps.ite
  · exact cardDwell_keeps (hm.of rfl) (by assumption)
  · assumption

theorem execCardDetected_keeps {m} {s0 : State} {p1 p2} {p3 : State} (hm : Sub 524293 m) (k : Keeps m s0 p3) :
    KeepsR m s0 (execCardDetected p1 p2 p3) := by
  unfold execCardDetected
  apply KeepsR.next
  apply Keeps.ite
  · exact cardDetected_keeps (hm.of rfl) (by assumption)
  · assumption

theorem execCardResponse_keeps {m} {s0 : State} {p1 p2} {p3 : State} (hm : Sub 813095 m) (k : Keeps m s0 p3) :
    KeepsR m s0 (execCardResponse p1 p2 p3) := by
  unfold execCardResponse
  apply KeepsR.next
  apply Keeps.ite
  · exact cardResponse_keeps (hm.of rfl) (by assumption)
  · assumption

theorem execCardTimeout_keeps {m} {s0 : State} {p1} {p2 : State} (hm : Sub 524292 m) (k : Keeps m s0 p2) :
    KeepsR m s0 (execCardTimeout p1 p2) := by
  unfold execCardTimeout
  apply KeepsR.next
  apply Keeps.ite
  · exact cardFailed_keeps (hm.of rfl) (by assumption)
  · assumption

theorem execConverterFeedbackRx_keeps {m} {s0 : State} {p1 p2 p3} {p4 : State} (hm : Sub 813095 m) (k : Keeps m s0 p4) :
    KeepsR m s0 (execConverterFeedbackRx p1 p2 p3 p4) := by
  unfold execConverterFeedbackRx
  apply KeepsR.next
  apply Keeps.ite
  · exact converterFeedback_keeps (hm.of rfl) (by assumption)
  · assumption

theorem execConverterLost_keeps {m} {s0 : State} {p1 p2} {p3 : State} (hm : Sub 813095 m) (k : Keeps m s0 p3) :
    KeepsR m s0 (execConverterLost p1 p2 p3) := by
  unfold execConverterLost
  apply KeepsR.next
  apply Keeps.ite
  · exact converterLost_keeps (hm.of rfl) (by assumption)
  · assumption

theorem execStaleLimits_keeps {m} {s0 : State} {p1 : State} (hm : Sub 813095 m) (k : Keeps m s0 p1) :
    KeepsR m s0 (execStaleLimits p1) := by
  unfold execStaleLimits
  apply KeepsR.next
  exact staleLimits_keeps (hm.of rfl) (by assumption)

theorem execMeteringStale_keeps {m} {s0 : State} {p1} {p2 : State} (hm : Sub 802852 m) (k : Keeps m s0 p2) :
    KeepsR m s0 (execMeteringStale p1 p2) := by
  unfold execMeteringStale
  with_reducible apply atPoint_keeps (hm.of rfl)
  · assumption
  · intro a1 h4
    extract_lets +onlyGivenNames x5
    clear_value x5
    apply Keeps.ite
    · assumption
    · split
      · rename_i y6 y7
        exact setPoint_keeps (hm.of rfl) (by assumption)
      · rename_i y8 y9 y10
        apply Keeps.ite
        · exact stopPoint_keeps (hm.of rfl) (by assumption)
        · assumption

theorem execAcOvercurrent_keeps {m} {s0 : State} {p1 p2} {p3 : State} (hm : Sub 813095 m) (k : Keeps m s0 p3) :
    KeepsR m s0 (execAcOvercurrent p1 p2 p3) := by
  unfold execAcOvercurrent
  with_reducible apply atPoint_keeps (hm.of rfl)
  · assumption
  · intro a1 h4
    extract_lets +onlyGivenNames x5
    clear_value x5
    extract_lets +onlyGivenNames x6
    clear_value x6
    apply Keeps.ite
    · exact trip_keeps (hm.of rfl) (by assumption)
    · assumption

theorem execRcmTrip_keeps {m} {s0 : State} {p1 p2 p3} {p4 : State} (hm : Sub 813095 m) (k : Keeps m s0 p4) :
    KeepsR m s0 (execRcmTrip p1 p2 p3 p4) := by
  unfold execRcmTrip
  with_reducible apply atPoint_keeps (hm.of rfl)
  · assumption
  · intro a1 h4
    extract_lets +onlyGivenNames x5
    have h6 : Keeps m s0 x5 := setPoint_keeps (hm.of rfl) (by assumption)
    clear_value x5
    extract_lets +onlyGivenNames x7
    clear_value x7
    apply Keeps.ite
    · assumption
    · with_reducible apply trip_keeps (hm.of rfl)
      exact contactorOff_keeps (hm.of rfl) (by assumption)

theorem execRcmSelftestResult_keeps {m} {s0 : State} {p1 p2} {p3 : State} (hm : Sub 813095 m) (k : Keeps m s0 p3) :
    KeepsR m s0 (execRcmSelftestResult p1 p2 p3) := by
  unfold execRcmSelftestResult
  with_reducible apply atPoint_keeps (hm.of rfl)
  · assumption
  · intro a1 h4
    exact selfTestDone_keeps (hm.of rfl) (by assumption)

theorem execInsulationValue_keeps {m} {s0 : State} {p1 p2} {p3 : State} (hm : Sub 813095 m) (k : Keeps m s0 p3) :
    KeepsR m s0 (execInsulationValue p1 p2 p3) := by
  unfold execInsulationValue
  with_reducible apply atPoint_keeps (hm.of rfl)
  · assumption
  · intro a1 h4
    exact insulationValue_keeps (hm.of rfl) (by assumption)

theorem execContactorCloseTimeout_keeps {m} {s0 : State} {p1} {p2 : State} (hm : Sub 813095 m) (k : Keeps m s0 p2) :
    KeepsR m s0 (execContactorCloseTimeout p1 p2) := by
  unfold execContactorCloseTimeout
  with_reducible apply atPoint_keeps (hm.of rfl)
  · assumption
  · intro a1 h4
    apply Keeps.ite
    · exact trip_keeps (hm.of rfl) (by assumption)
    · assumption

theorem execContactorWelded_keeps {m} {s0 : State} {p1} {p2 : State} (hm : Sub 813095 m) (k : Keeps m s0 p2) :
    KeepsR m s0 (execContactorWelded p1 p2) := by
  unfold execContactorWelded
  with_reducible apply atPoint_keeps (hm.of rfl)
  · assumption
  · intro a1 h4
    apply Keeps.ite
    · exact trip_keeps (hm.of rfl) (by assumption)
    · assumption

theorem execTripPilotFEnd_keeps {m} {s0 : State} {p1} {p2 : State} (hm : Sub 540676 m) (k : Keeps m s0 p2) :
    KeepsR m s0 (execTripPilotFEnd p1 p2) := by
  unfold execTripPilotFEnd
  with_reducible apply atPoint_keeps (hm.of rfl)
  · assumption
  · intro a1 h4
    extract_lets +onlyGivenNames x5
    clear_value x5
    apply Keeps.ite
    · assumption
    · extract_lets +onlyGivenNames x6
      have h7 : Keeps m s0 x6 := setPoint_keeps (hm.of rfl) (by assumption)
      clear_value x6
      apply Keeps.ite
      · with_reducible apply drivePilot_keeps (hm.of rfl)
        apply Keeps.ite
        · exact goTo_keeps (hm.of rfl) (by assumption)
        · assumption
      · assumption

end Sys2Proof.Machine
end

