-- ==== Sys2Proof/Laws/Keeps/Memory.lean ====
section
/-!
SUPPORT. What the operations of Machine/Memory.lean keep.
-/

namespace Sys2Proof.Machine

theorem coldArbiters_keeps {m} {s0 : State} {p1 : State} (hm : Sub 256 m) (k : Keeps m s0 p1) :
    Keeps m s0 (coldArbiters p1) := by
  unfold coldArbiters
  exact Keeps.rest 256 (hm.of rfl) (by assumption) rfl

theorem setArbiter_keeps {m} {s0 : State} {p1 p2} {p3 : State} (hm : Sub 256 m) (k : Keeps m s0 p3) :
    Keeps m s0 (setArbiter p1 p2 p3) := by
  unfold setArbiter
  exact Keeps.rest 256 (hm.of rfl) (by assumption) rfl

theorem carryBeats_keeps {m} {s0 : State} {p1 p2} {p3 : State} (hm : Sub 256 m) (k : Keeps m s0 p3) :
    Keeps m s0 (carryBeats p1 p2 p3) := by
  unfold carryBeats
  extract_lets +onlyGivenNames x1
  clear_value x1
  extract_lets +onlyGivenNames x2
  clear_value x2
  split
  · rename_i y3 y4
    exact setArbiter_keeps (hm.of rfl) (by assumption)
  · rename_i y5 y6 y7
    extract_lets +onlyGivenNames x8
    extract_lets +onlyGivenNames x9
    extract_lets +onlyGivenNames x10
    apply Keeps.ite
    · exact setArbiter_keeps (hm.of rfl) (by assumption)
    · apply Keeps.ite
      · exact setArbiter_keeps (hm.of rfl) (by assumption)
      · exact setArbiter_keeps (hm.of rfl) (by assumption)

theorem nextSlot_keeps {m} {s0 : State} {p1} {p2 : State} (hm : Sub 256 m) (k : Keeps m s0 p2) :
    Keeps m s0 (nextSlot p1 p2) := by
  unfold nextSlot
  extract_lets +onlyGivenNames x1
  clear_value x1
  extract_lets +onlyGivenNames x2
  clear_value x2
  split
  · rename_i y3 y4 y5
    apply Keeps.ite
    · exact setArbiter_keeps (hm.of rfl) (by assumption)
    · exact setArbiter_keeps (hm.of rfl) (by assumption)
  · rename_i y6 y7
    exact setArbiter_keeps (hm.of rfl) (by assumption)

theorem addAsks_keeps {m} {s0 : State} {p1 p2} {p3 : State} (hm : Sub 256 m) (k : Keeps m s0 p3) :
    Keeps m s0 (addAsks p1 p2 p3) := by
  unfold addAsks
  extract_lets +onlyGivenNames x1
  clear_value x1
  exact setArbiter_keeps (hm.of rfl) (by assumption)

theorem dropStale_keeps {m} {s0 : State} {p1} {p2 : State} (hm : Sub 256 m) (k : Keeps m s0 p2) :
    Keeps m s0 (dropStale p1 p2) := by
  unfold dropStale
  extract_lets +onlyGivenNames x1
  clear_value x1
  exact setArbiter_keeps (hm.of rfl) (by assumption)

theorem arbPreempt_keeps {m} {s0 : State} {p1} {p2 : State} (hm : Sub 256 m) (k : Keeps m s0 p2) :
    Keeps m s0 (arbPreempt p1 p2) := by
  unfold arbPreempt
  extract_lets +onlyGivenNames x1
  clear_value x1
  split
  · rename_i y2 y3 y4 y5 y6 y7
    apply Keeps.ite
    · exact setArbiter_keeps (hm.of rfl) (by assumption)
    · assumption
  · rename_i y8 y9 y10
    assumption

theorem arbGrant_keeps {m} {s0 : State} {p1} {p2 : State} (hm : Sub 256 m) (k : Keeps m s0 p2) :
    Keeps m s0 (arbGrant p1 p2) := by
  unfold arbGrant
  extract_lets +onlyGivenNames x1
  clear_value x1
  apply Keeps.ite
  · assumption
  · extract_lets +onlyGivenNames x2
    clear_value x2
    extract_lets +onlyGivenNames x3
    clear_value x3
    split
    · rename_i y4
      assumption
    · rename_i y5 y6
      split
      · rename_i y7 y8
        assumption
      · rename_i y9 y10 y11
        exact setArbiter_keeps (hm.of rfl) (by assumption)

theorem arbDecide_keeps {m} {s0 : State} {p1 p2 p3 p4} {p5 : State} (hm : Sub 256 m) (k : Keeps m s0 p5) :
    Keeps m s0 (arbDecide p1 p2 p3 p4 p5) := by
  unfold arbDecide
  apply Keeps.ite
  · assumption
  · extract_lets +onlyGivenNames x1
    have h2 : Keeps m s0 x1 := by
      unfold x1
      with_reducible apply dropStale_keeps (hm.of rfl)
      exact carryBeats_keeps (hm.of rfl) (by assumption)
    clear_value x1
    extract_lets +onlyGivenNames x3
    have h4 : Keeps m s0 x3 := by
      unfold x3
      apply Keeps.ite
      · exact nextSlot_keeps (hm.of rfl) (by assumption)
      · assumption
    clear_value x3
    with_reducible apply arbGrant_keeps (hm.of rfl)
    with_reducible apply arbPreempt_keeps (hm.of rfl)
    exact addAsks_keeps (hm.of rfl) (by assumption)

theorem arbWait_keeps {m} {s0 : State} {p1 p2} {p3 : State} (hm : Sub 260 m) (k : Keeps m s0 p3) :
    Keeps m s0 (arbWait p1 p2 p3) := by
  unfold arbWait
  extract_lets +onlyGivenNames x1
  clear_value x1
  extract_lets +onlyGivenNames x2
  clear_value x2
  apply Keeps.ite
  · assumption
  · split
    · rename_i y3 y4
      assumption
    · rename_i y5 y6 y7
      extract_lets +onlyGivenNames x8
      have h9 : Keeps m s0 x8 := setArbiter_keeps (hm.of rfl) (by assumption)
      clear_value x8
      exact raiseEvent_keeps (hm.of rfl) (by assumption)

theorem cmdMemStatus_keeps {m} (hm : Sub 0 m) : KeepsCmd m cmdMemStatus := by
  unfold cmdMemStatus
  apply KeepsCmd.mk
  intro s0 ctx s k
  extract_lets +onlyGivenNames x1
  clear_value x1
  extract_lets +onlyGivenNames x2
  clear_value x2
  exact okWith_keeps (hm.of rfl) (by assumption)

theorem cmdMemArbRead_keeps {m} (hm : Sub 0 m) : KeepsCmd m cmdMemArbRead := by
  unfold cmdMemArbRead
  apply KeepsCmd.mk
  intro s0 ctx s k
  extract_lets +onlyGivenNames x1
  clear_value x1
  extract_lets +onlyGivenNames x2
  clear_value x2
  with_reducible apply checked_keeps (hm.of rfl)
  · assumption
  · split
    · rename_i y3
      exact fail_keeps (hm.of rfl) (by assumption)
    · rename_i y4 y5
      exact okWith_keeps (hm.of rfl) (by assumption)

theorem cmdMemArbSet_keeps {m} (hm : Sub 256 m) : KeepsCmd m cmdMemArbSet := by
  unfold cmdMemArbSet
  apply KeepsCmd.mk
  intro s0 ctx s k
  extract_lets +onlyGivenNames x1
  clear_value x1
  extract_lets +onlyGivenNames x2
  clear_value x2
  extract_lets +onlyGivenNames x3
  clear_value x3
  extract_lets +onlyGivenNames x4
  clear_value x4
  extract_lets +onlyGivenNames x5
  clear_value x5
  extract_lets +onlyGivenNames x6
  clear_value x6
  extract_lets +onlyGivenNames x7
  clear_value x7
  extract_lets +onlyGivenNames x8
  clear_value x8
  with_reducible apply checked_keeps (hm.of rfl)
  · assumption
  · split
    · rename_i y9 y10 y11
      apply KeepsA.ite
      · exact fail_keeps (hm.of rfl) (by assumption)
      · with_reducible apply okWith_keeps (hm.of rfl)
        exact setArbiter_keeps (hm.of rfl) (by assumption)
    · rename_i y12 y13
      with_reducible apply okWith_keeps (hm.of rfl)
      exact setArbiter_keeps (hm.of rfl) (by assumption)

theorem cmdMemArbStats_keeps {m} (hm : Sub 0 m) : KeepsCmd m cmdMemArbStats := by
  unfold cmdMemArbStats
  apply KeepsCmd.mk
  intro s0 ctx s k
  extract_lets +onlyGivenNames x1
  clear_value x1
  extract_lets +onlyGivenNames x2
  clear_value x2
  extract_lets +onlyGivenNames x3
  clear_value x3
  extract_lets +onlyGivenNames x4
  clear_value x4
  with_reducible apply checked_keeps (hm.of rfl)
  · assumption
  · apply KeepsA.ite
    · exact fail_keeps (hm.of rfl) (by assumption)
    · exact okWith_keeps (hm.of rfl) (by assumption)

theorem execMemStatus_keeps {m} {s0 : State} {p1} {p2 : State} (hm : Sub 8199 m) (k : Keeps m s0 p2) :
    KeepsR m s0 (execMemStatus p1 p2) := by
  unfold execMemStatus
  apply KeepsR.next
  with_reducible apply submit_keeps (hm.of rfl)
  · assumption
  · exact cmdMemStatus_keeps (hm.of rfl)

theorem execMemArbRead_keeps {m} {s0 : State} {p1} {p2 : State} (hm : Sub 8199 m) (k : Keeps m s0 p2) :
    KeepsR m s0 (execMemArbRead p1 p2) := by
  unfold execMemArbRead
  apply KeepsR.next
  with_reducible apply submit_keeps (hm.of rfl)
  · assumption
  · exact cmdMemArbRead_keeps (hm.of rfl)

theorem execMemArbSet_keeps {m} {s0 : State} {p1} {p2 : State} (hm : Sub 8455 m) (k : Keeps m s0 p2) :
    KeepsR m s0 (execMemArbSet p1 p2) := by
  unfold execMemArbSet
  apply KeepsR.next
  with_reducible apply submit_keeps (hm.of rfl)
  · assumption
  · exact cmdMemArbSet_keeps (hm.of rfl)

theorem execMemArbStats_keeps {m} {s0 : State} {p1} {p2 : State} (hm : Sub 8199 m) (k : Keeps m s0 p2) :
    KeepsR m s0 (execMemArbStats p1 p2) := by
  unfold execMemArbStats
  apply KeepsR.next
  with_reducible apply submit_keeps (hm.of rfl)
  · assumption
  · exact cmdMemArbStats_keeps (hm.of rfl)

theorem execArbiterDecision_keeps {m} {s0 : State} {p1 p2 p3 p4} {p5 : State} (hm : Sub 256 m) (k : Keeps m s0 p5) :
    KeepsR m s0 (execArbiterDecision p1 p2 p3 p4 p5) := by
  unfold execArbiterDecision
  apply KeepsR.next
  exact arbDecide_keeps (hm.of rfl) (by assumption)

theorem execArbWait_keeps {m} {s0 : State} {p1 p2} {p3 : State} (hm : Sub 260 m) (k : Keeps m s0 p3) :
    KeepsR m s0 (execArbWait p1 p2 p3) := by
  unfold execArbWait
  apply KeepsR.next
  exact arbWait_keeps (hm.of rfl) (by assumption)

theorem execPatrolScrubPass_keeps {m} {s0 : State} {p1 : State} (hm : Sub 256 m) (k : Keeps m s0 p1) :
    KeepsR m s0 (execPatrolScrubPass p1) := by
  unfold execPatrolScrubPass
  apply KeepsR.next
  apply Keeps.ite
  · exact Keeps.rest 256 (hm.of rfl) (by assumption) rfl
  · assumption

end Sys2Proof.Machine
end

