-- ==== Sys2Proof/Laws/Keeps/FltCommands.lean ====
section
/-!
SUPPORT. What the operations of Machine/FltCommands.lean keep.
-/

namespace Sys2Proof.Machine

theorem cmdFltStatus_keeps {m} (hm : Sub 0 m) : KeepsCmd m cmdFltStatus := by
  unfold cmdFltStatus
  apply KeepsCmd.mk
  intro s0 ctx s k
  extract_lets +onlyGivenNames x1
  clear_value x1
  exact okWith_keeps (hm.of rfl) (by assumption)

theorem cmdFltRead_keeps {m} (hm : Sub 0 m) : KeepsCmd m cmdFltRead := by
  unfold cmdFltRead
  apply KeepsCmd.mk
  intro s0 ctx s k
  extract_lets +onlyGivenNames x1
  clear_value x1
  with_reducible apply checked_keeps (hm.of rfl)
  · assumption
  · apply KeepsA.ite
    · exact fail_keeps (hm.of rfl) (by assumption)
    · exact okWith_keeps (hm.of rfl) (by assumption)

theorem cmdFltClear_keeps {m} (hm : Sub 2048 m) : KeepsCmd m cmdFltClear := by
  unfold cmdFltClear
  apply KeepsCmd.mk
  intro s0 ctx s k
  extract_lets +onlyGivenNames x1
  clear_value x1
  with_reducible apply checked_keeps (hm.of rfl)
  · assumption
  · extract_lets +onlyGivenNames x2
    clear_value x2
    extract_lets +onlyGivenNames x3
    clear_value x3
    apply KeepsA.ite
    · exact fail_keeps (hm.of rfl) (by assumption)
    · with_reducible apply okWith_keeps (hm.of rfl)
      exact Keeps.rest 2048 (hm.of rfl) (by assumption) rfl

theorem clearRecord_keeps {m} {s0 : State} {p1} {p2 : State} (hm : Sub 2052 m) (k : Keeps m s0 p2) :
    Keeps m s0 (clearRecord p1 p2) := by
  unfold clearRecord
  extract_lets +onlyGivenNames x1
  clear_value x1
  apply Keeps.ite
  · extract_lets +onlyGivenNames x2
    clear_value x2
    with_reducible apply faultEvent_keeps (hm.of rfl)
    exact Keeps.rest 2048 (hm.of rfl) (by assumption) rfl
  · assumption

theorem applyClear_keeps {m} {s0 : State} {p1 : State} (hm : Sub 804900 m) (k : Keeps m s0 p1) :
    Keeps m s0 (applyClear p1) := by
  unfold applyClear
  apply Keeps.ite
  · assumption
  · extract_lets +onlyGivenNames x1
    have h2 : Keeps m s0 x1 := by
      unfold x1
      apply Keeps.foldl
      · intro a3 a5 h8
        exact clearRecord_keeps (hm.of rfl) (by assumption)
      · assumption
    clear_value x1
    with_reducible apply faultLevel_keeps (hm.of rfl)
    with_reducible apply settleSafe_keeps (hm.of rfl)
    exact Keeps.rest 2048 (hm.of rfl) (by assumption) rfl

theorem cmdFltSafe_keeps {m} (hm : Sub 1047215 m) : KeepsCmd m cmdFltSafe := by
  unfold cmdFltSafe
  apply KeepsCmd.mk
  intro s0 ctx s k
  extract_lets +onlyGivenNames x1
  clear_value x1
  with_reducible apply checked_keeps (hm.of rfl)
  · assumption
  · apply KeepsA.ite
    · with_reducible apply okWith_keeps (hm.of rfl)
      with_reducible apply raiseA_keeps (hm.of rfl)
      exact Keeps.rest 2048 (hm.of rfl) (by assumption) rfl
    · apply KeepsA.ite
      · exact fail_keeps (hm.of rfl) (by assumption)
      · extract_lets +onlyGivenNames x2
        clear_value x2
        extract_lets +onlyGivenNames x3
        have h4 : Keeps m s0 x3 := by
          unfold x3
          with_reducible apply endFault_keeps (hm.of rfl)
          exact Keeps.rest 2048 (hm.of rfl) (by assumption) rfl
        clear_value x3
        with_reducible apply okWith_keeps (hm.of rfl)
        with_reducible apply faultLevel_keeps (hm.of rfl)
        with_reducible apply settleSafe_keeps (hm.of rfl)
        exact clearRecord_keeps (hm.of rfl) (by assumption)

theorem tamperEvent_keeps {m} {s0 : State} {p1 p2 p3 p4 p5} {p6 : State} (hm : Sub 4 m) (k : Keeps m s0 p6) :
    Keeps m s0 (tamperEvent p1 p2 p3 p4 p5 p6) := by
  unfold tamperEvent
  exact raiseEvent_keeps (hm.of rfl) (by assumption)

theorem reportTamper_keeps {m} {s0 : State} {p1 : State} (hm : Sub 10247 m) (k : Keeps m s0 p1) :
    Keeps m s0 (reportTamper p1) := by
  unfold reportTamper
  extract_lets +onlyGivenNames x1
  clear_value x1
  apply Keeps.ite
  · assumption
  · extract_lets +onlyGivenNames x2
    clear_value x2
    extract_lets +onlyGivenNames x3
    have h4 : Keeps m s0 x3 := by
      unfold x3
      exact Keeps.rest 2048 (hm.of rfl) (by assumption) rfl
    clear_value x3
    extract_lets +onlyGivenNames x5
    clear_value x5
    apply Keeps.foldl
    · intro a6 a8 h11
      exact tamperEvent_keeps (hm.of rfl) (by assumption)
    · exact raiseFault_keeps (hm.of rfl) (by assumption)

theorem execTamperSample_keeps {m} {s0 : State} {p1 p2} {p3 : State} (hm : Sub 10247 m) (k : Keeps m s0 p3) :
    KeepsR m s0 (execTamperSample p1 p2 p3) := by
  unfold execTamperSample
  apply KeepsR.ite
  · apply KeepsR.next
    assumption
  · extract_lets +onlyGivenNames x1
    clear_value x1
    extract_lets +onlyGivenNames x2
    clear_value x2
    extract_lets +onlyGivenNames x3
    have h4 : Keeps m s0 x3 := by
      unfold x3
      exact Keeps.rest 2048 (hm.of rfl) (by assumption) rfl
    clear_value x3
    apply KeepsR.next
    apply Keeps.ite
    · exact reportTamper_keeps (hm.of rfl) (by assumption)
    · assumption

theorem clearTamper_keeps {m} {s0 : State} {p1} {p2 : State} (hm : Sub 2052 m) (k : Keeps m s0 p2) :
    Keeps m s0 (clearTamper p1 p2) := by
  unfold clearTamper
  extract_lets +onlyGivenNames x1
  have h2 : Keeps m s0 x1 := by
    unfold x1
    apply Keeps.foldl
    · intro a3 a5 h8
      exact tamperEvent_keeps (hm.of rfl) (by assumption)
    · assumption
  clear_value x1
  extract_lets +onlyGivenNames x9
  clear_value x9
  extract_lets +onlyGivenNames x10
  have h11 : Keeps m s0 x10 := by
    unfold x10
    exact Keeps.rest 2048 (hm.of rfl) (by assumption) rfl
  clear_value x10
  apply Keeps.ite
  · assumption
  · exact endFault_keeps (hm.of rfl) (by assumption)

theorem enableTamper_keeps {m} {s0 : State} {p1} {p2 : State} (hm : Sub 2052 m) (k : Keeps m s0 p2) :
    Keeps m s0 (enableTamper p1 p2) := by
  unfold enableTamper
  extract_lets +onlyGivenNames x1
  have h2 : Keeps m s0 x1 := by
    unfold x1
    apply Keeps.foldl
    · intro a3 a5 h8
      exact tamperEvent_keeps (hm.of rfl) (by assumption)
    · assumption
  clear_value x1
  exact Keeps.rest 2048 (hm.of rfl) (by assumption) rfl

theorem cmdFltTamper_keeps {m} (hm : Sub 2052 m) : KeepsCmd m cmdFltTamper := by
  unfold cmdFltTamper
  apply KeepsCmd.mk
  intro s0 ctx s k
  extract_lets +onlyGivenNames x1
  clear_value x1
  extract_lets +onlyGivenNames x2
  clear_value x2
  with_reducible apply checked_keeps (hm.of rfl)
  · assumption
  · apply KeepsA.ite
    · exact okWith_keeps (hm.of rfl) (by assumption)
    · apply KeepsA.ite
      · apply KeepsA.ite
        · extract_lets +onlyGivenNames x3
          have h4 : Keeps m s0 x3 := clearTamper_keeps (hm.of rfl) (by assumption)
          clear_value x3
          exact okWith_keeps (hm.of rfl) (by assumption)
        · exact fail_keeps (hm.of rfl) (by assumption)
      · extract_lets +onlyGivenNames x5
        have h6 : Keeps m s0 x5 := enableTamper_keeps (hm.of rfl) (by assumption)
        clear_value x5
        exact okWith_keeps (hm.of rfl) (by assumption)

theorem settleReserved_keeps {m} {s0 : State} {p1} {p2 : State} (hm : Sub 10247 m) (k : Keeps m s0 p2) :
    Keeps m s0 (settleReserved p1 p2) := by
  unfold settleReserved
  extract_lets +onlyGivenNames x1
  clear_value x1
  apply Keeps.ite
  · exact raiseFault_keeps (hm.of rfl) (by assumption)
  · apply Keeps.ite
    · exact endFault_keeps (hm.of rfl) (by assumption)
    · assumption

theorem metSealChanged_keeps {m} {s0 : State} {p1 p2} {p3 : State} (hm : Sub 1636 m) (k : Keeps m s0 p3) :
    Keeps m s0 (metSealChanged p1 p2 p3) := by
  unfold metSealChanged
  extract_lets +onlyGivenNames x1
  have h2 : Keeps m s0 x1 := by
    unfold x1
    with_reducible apply sealAudit_keeps (hm.of rfl)
    with_reducible apply setLed_keeps (hm.of rfl)
    · assumption
    · exact ⟨fun h => by simp only [List.length_map]; exact h⟩
  clear_value x1
  apply Keeps.ite
  · exact sealMs1Closed_keeps (hm.of rfl) (by assumption)
  · assumption

theorem safSealOpened_keeps {m} {s0 : State} {p1} {p2 : State} (hm : Sub 818215 m) (k : Keeps m s0 p2) :
    Keeps m s0 (safSealOpened p1 p2) := by
  unfold safSealOpened
  apply Keeps.ite
  · assumption
  · extract_lets +onlyGivenNames x1
    clear_value x1
    extract_lets +onlyGivenNames x2
    have h3 : Keeps m s0 x2 := by
      unfold x2
      exact Keeps.rest 1024 (hm.of rfl) (by assumption) rfl
    clear_value x2
    with_reducible apply driversChanged_keeps (hm.of rfl)
    apply Keeps.ite
    · exact seal7Opened_keeps (hm.of rfl) (by assumption)
    · assumption

theorem execSealChange_keeps {m} {s0 : State} {p1 p2} {p3 : State} (hm : Sub 818791 m) (k : Keeps m s0 p3) :
    KeepsR m s0 (execSealChange p1 p2 p3) := by
  unfold execSealChange
  apply KeepsR.ite
  · apply KeepsR.next
    assumption
  · extract_lets +onlyGivenNames x1
    clear_value x1
    extract_lets +onlyGivenNames x2
    have h3 : Keeps m s0 x2 := by
      unfold x2
      exact Keeps.rest 1024 (hm.of rfl) (by assumption) rfl
    clear_value x2
    apply KeepsR.ite
    · apply KeepsR.next
      assumption
    · apply KeepsR.ite
      · apply KeepsR.next
        exact settleReserved_keeps (hm.of rfl) (by assumption)
      · extract_lets +onlyGivenNames x4
        have h5 : Keeps m s0 x4 := by
          unfold x4
          apply Keeps.ite
          · exact reportFault_keeps (hm.of rfl) (by assumption)
          · assumption
        clear_value x4
        apply KeepsR.ite
        · apply KeepsR.next
          exact metSealChanged_keeps (hm.of rfl) (by assumption)
        · apply KeepsR.next
          apply Keeps.ite
          · exact safSealOpened_keeps (hm.of rfl) (by assumption)
          · assumption

theorem execFltStatus_keeps {m} {s0 : State} {p1} {p2 : State} (hm : Sub 8199 m) (k : Keeps m s0 p2) :
    KeepsR m s0 (execFltStatus p1 p2) := by
  unfold execFltStatus
  apply KeepsR.next
  with_reducible apply submit_keeps (hm.of rfl)
  · assumption
  · exact cmdFltStatus_keeps (hm.of rfl)

theorem execFltRead_keeps {m} {s0 : State} {p1} {p2 : State} (hm : Sub 8199 m) (k : Keeps m s0 p2) :
    KeepsR m s0 (execFltRead p1 p2) := by
  unfold execFltRead
  apply KeepsR.next
  with_reducible apply submit_keeps (hm.of rfl)
  · assumption
  · exact cmdFltRead_keeps (hm.of rfl)

theorem execFltClear_keeps {m} {s0 : State} {p1} {p2 : State} (hm : Sub 10247 m) (k : Keeps m s0 p2) :
    KeepsR m s0 (execFltClear p1 p2) := by
  unfold execFltClear
  apply KeepsR.next
  with_reducible apply submit_keeps (hm.of rfl)
  · assumption
  · exact cmdFltClear_keeps (hm.of rfl)

theorem execFltSafe_keeps {m} {s0 : State} {p1} {p2 : State} (hm : Sub 1047215 m) (k : Keeps m s0 p2) :
    KeepsR m s0 (execFltSafe p1 p2) := by
  unfold execFltSafe
  apply KeepsR.next
  with_reducible apply submit_keeps (hm.of rfl)
  · assumption
  · exact cmdFltSafe_keeps (hm.of rfl)

theorem execFltTamper_keeps {m} {s0 : State} {p1} {p2 : State} (hm : Sub 10247 m) (k : Keeps m s0 p2) :
    KeepsR m s0 (execFltTamper p1 p2) := by
  unfold execFltTamper
  apply KeepsR.next
  with_reducible apply submit_keeps (hm.of rfl)
  · assumption
  · exact cmdFltTamper_keeps (hm.of rfl)

end Sys2Proof.Machine
end

