-- ==== Sys2Proof/Laws/Keeps/Time.lean ====
section
/-!
SUPPORT. What the operations of Machine/Time.lean keep.
-/

namespace Sys2Proof.Machine

theorem setTime_keeps {m} {s0 : State} {p1} {p2 : State} (hm : Sub 16 m) (k : Keeps m s0 p2) :
    Keeps m s0 (setTime p1 p2) := by
  unfold setTime
  exact Keeps.rest 16 (hm.of rfl) (by assumption) rfl

theorem setTrust_keeps {m} {s0 : State} {p1} {p2 : State} (hm : Sub 8243 m) (k : Keeps m s0 p2) :
    Keeps m s0 (setTrust p1 p2) := by
  unfold setTrust
  apply Keeps.ite
  · assumption
  · extract_lets +onlyGivenNames x1
    clear_value x1
    with_reducible apply traceTime_keeps (hm.of rfl)
    with_reducible apply journal_keeps (hm.of rfl)
    with_reducible apply interrupt_keeps (hm.of rfl)
    exact setTime_keeps (hm.of rfl) (by assumption)

theorem evaluateTrust_keeps {m} {s0 : State} {p1 : State} (hm : Sub 8243 m) (k : Keeps m s0 p1) :
    Keeps m s0 (evaluateTrust p1) := by
  unfold evaluateTrust
  apply Keeps.ite
  · exact setTrust_keeps (hm.of rfl) (by assumption)
  · apply Keeps.ite
    · extract_lets +onlyGivenNames x1
      clear_value x1
      with_reducible apply setTrust_keeps (hm.of rfl)
      exact setTime_keeps (hm.of rfl) (by assumption)
    · apply Keeps.ite
      · with_reducible apply setTrust_keeps (hm.of rfl)
        exact setTime_keeps (hm.of rfl) (by assumption)
      · assumption

theorem correctTime_keeps {m} {s0 : State} {p1 : State} (hm : Sub 8243 m) (k : Keeps m s0 p1) :
    Keeps m s0 (correctTime p1) := by
  unfold correctTime
  split
  · rename_i y1 y2
    assumption
  · rename_i y3 y4 y5
    extract_lets +onlyGivenNames x6
    clear_value x6
    extract_lets +onlyGivenNames x7
    clear_value x7
    apply Keeps.ite
    · assumption
    · apply Keeps.ite
      · assumption
      · apply Keeps.ite
        · exact setTime_keeps (hm.of rfl) (by assumption)
        · with_reducible apply evaluateTrust_keeps (hm.of rfl)
          with_reducible apply interrupt_keeps (hm.of rfl)
          exact setTime_keeps (hm.of rfl) (by assumption)

theorem timeFault_keeps {m} {s0 : State} {p1 p2} {p3 : State} (hm : Sub 10263 m) (k : Keeps m s0 p3) :
    Keeps m s0 (timeFault p1 p2 p3) := by
  unfold timeFault
  extract_lets +onlyGivenNames x1
  clear_value x1
  extract_lets +onlyGivenNames x2
  clear_value x2
  extract_lets +onlyGivenNames x3
  clear_value x3
  extract_lets +onlyGivenNames x4
  have h5 : Keeps m s0 x4 := setTime_keeps (hm.of rfl) (by assumption)
  clear_value x4
  apply Keeps.ite
  · exact raiseFault_keeps (hm.of rfl) (by assumption)
  · apply Keeps.ite
    · exact endFault_keeps (hm.of rfl) (by assumption)
    · assumption

theorem afterSource_keeps {m} {s0 : State} {p1 : State} (hm : Sub 10295 m) (k : Keeps m s0 p1) :
    Keeps m s0 (afterSource p1) := by
  unfold afterSource
  extract_lets +onlyGivenNames x1
  have h2 : Keeps m s0 x1 := timeFault_keeps (hm.of rfl) (by assumption)
  clear_value x1
  with_reducible apply correctTime_keeps (hm.of rfl)
  exact evaluateTrust_keeps (hm.of rfl) (by assumption)

theorem losePtp_keeps {m} {s0 : State} {p1 : State} (hm : Sub 10295 m) (k : Keeps m s0 p1) :
    Keeps m s0 (losePtp p1) := by
  unfold losePtp
  with_reducible apply afterSource_keeps (hm.of rfl)
  exact setTime_keeps (hm.of rfl) (by assumption)

theorem losePps_keeps {m} {s0 : State} {p1 : State} (hm : Sub 10295 m) (k : Keeps m s0 p1) :
    Keeps m s0 (losePps p1) := by
  unfold losePps
  with_reducible apply afterSource_keeps (hm.of rfl)
  exact setTime_keeps (hm.of rfl) (by assumption)

theorem takeSync_keeps {m} {s0 : State} {p1} {p2 : State} (hm : Sub 10295 m) (k : Keeps m s0 p2) :
    Keeps m s0 (takeSync p1 p2) := by
  unfold takeSync
  extract_lets +onlyGivenNames x1
  clear_value x1
  extract_lets +onlyGivenNames x2
  clear_value x2
  apply Keeps.ite
  · exact losePtp_keeps (hm.of rfl) (by assumption)
  · with_reducible apply afterSource_keeps (hm.of rfl)
    exact setTime_keeps (hm.of rfl) (by assumption)

theorem execPtpSyncRx_keeps {m} {s0 : State} {p1 p2} {p3 : State} (hm : Sub 10295 m) (k : Keeps m s0 p3) :
    KeepsR m s0 (execPtpSyncRx p1 p2 p3) := by
  unfold execPtpSyncRx
  apply KeepsR.ite
  · apply KeepsR.next
    assumption
  · apply KeepsR.ite
    · apply KeepsR.ite
      · apply KeepsR.next
        assumption
      · extract_lets +onlyGivenNames x1
        have h2 : Keeps m s0 x1 := setTime_keeps (hm.of rfl) (by assumption)
        clear_value x1
        apply KeepsR.ite
        · apply KeepsR.next
          exact takeSync_keeps (hm.of rfl) (by assumption)
        · apply KeepsR.next
          exact losePtp_keeps (hm.of rfl) (by assumption)
    · apply KeepsR.next
      exact takeSync_keeps (hm.of rfl) (by assumption)

theorem noGrandmaster_keeps {m} {s0 : State} {p1 : State} (hm : Sub 10295 m) (k : Keeps m s0 p1) :
    Keeps m s0 (noGrandmaster p1) := by
  unfold noGrandmaster
  with_reducible apply losePtp_keeps (hm.of rfl)
  exact setTime_keeps (hm.of rfl) (by assumption)

theorem selectGrandmaster_keeps {m} {s0 : State} {p1 : State} (hm : Sub 10295 m) (k : Keeps m s0 p1) :
    Keeps m s0 (selectGrandmaster p1) := by
  unfold selectGrandmaster
  split
  · rename_i y1 y2
    exact noGrandmaster_keeps (hm.of rfl) (by assumption)
  · rename_i y3 y4 y5
    extract_lets +onlyGivenNames x6
    clear_value x6
    extract_lets +onlyGivenNames x7
    have h8 : Keeps m s0 x7 := setTime_keeps (hm.of rfl) (by assumption)
    clear_value x7
    apply Keeps.ite
    · exact afterSource_keeps (hm.of rfl) (by assumption)
    · exact losePtp_keeps (hm.of rfl) (by assumption)

theorem dropAnnounce_keeps {m} {s0 : State} {p1} {p2 : State} (hm : Sub 10295 m) (k : Keeps m s0 p2) :
    Keeps m s0 (dropAnnounce p1 p2) := by
  unfold dropAnnounce
  extract_lets +onlyGivenNames x1
  have h2 : Keeps m s0 x1 := setTime_keeps (hm.of rfl) (by assumption)
  clear_value x1
  apply Keeps.ite
  · assumption
  · with_reducible apply selectGrandmaster_keeps (hm.of rfl)
    exact losePtp_keeps (hm.of rfl) (by assumption)

theorem execPtpAnnounceRx_keeps {m} {s0 : State} {p1} {p2 : State} (hm : Sub 10295 m) (k : Keeps m s0 p2) :
    KeepsR m s0 (execPtpAnnounceRx p1 p2) := by
  unfold execPtpAnnounceRx
  apply KeepsR.ite
  · apply KeepsR.next
    assumption
  · apply KeepsR.next
    with_reducible apply selectGrandmaster_keeps (hm.of rfl)
    exact setTime_keeps (hm.of rfl) (by assumption)

theorem execAnnounceTimeout_keeps {m} {s0 : State} {p1} {p2 : State} (hm : Sub 10295 m) (k : Keeps m s0 p2) :
    KeepsR m s0 (execAnnounceTimeout p1 p2) := by
  unfold execAnnounceTimeout
  apply KeepsR.next
  apply Keeps.ite
  · assumption
  · exact dropAnnounce_keeps (hm.of rfl) (by assumption)

theorem execPpsEdge_keeps {m} {s0 : State} {p1} {p2 : State} (hm : Sub 10295 m) (k : Keeps m s0 p2) :
    KeepsR m s0 (execPpsEdge p1 p2) := by
  unfold execPpsEdge
  extract_lets +onlyGivenNames x1
  clear_value x1
  apply KeepsR.ite
  · apply KeepsR.next
    assumption
  · extract_lets +onlyGivenNames x2
    clear_value x2
    extract_lets +onlyGivenNames x3
    clear_value x3
    apply KeepsR.ite
    · apply KeepsR.next
      exact losePps_keeps (hm.of rfl) (by assumption)
    · apply KeepsR.next
      with_reducible apply afterSource_keeps (hm.of rfl)
      exact setTime_keeps (hm.of rfl) (by assumption)

theorem execPpsLoss_keeps {m} {s0 : State} {p1 : State} (hm : Sub 10295 m) (k : Keeps m s0 p1) :
    KeepsR m s0 (execPpsLoss p1) := by
  unfold execPpsLoss
  apply KeepsR.next
  exact losePps_keeps (hm.of rfl) (by assumption)

theorem execSourceDisagreeTimeout_keeps {m} {s0 : State} {p1 : State} (hm : Sub 10263 m) (k : Keeps m s0 p1) :
    KeepsR m s0 (execSourceDisagreeTimeout p1) := by
  unfold execSourceDisagreeTimeout
  apply KeepsR.next
  apply Keeps.ite
  · exact timeFault_keeps (hm.of rfl) (by assumption)
  · assumption

theorem execPendingStepRecompute_keeps {m} {s0 : State} {p1} {p2 : State} (hm : Sub 23 m) (k : Keeps m s0 p2) :
    KeepsR m s0 (execPendingStepRecompute p1 p2) := by
  unfold execPendingStepRecompute
  split
  · rename_i y1 y2
    apply KeepsR.next
    assumption
  · rename_i y3 y4 y5
    apply KeepsR.ite
    · apply KeepsR.next
      assumption
    · extract_lets +onlyGivenNames x6
      clear_value x6
      extract_lets +onlyGivenNames x7
      clear_value x7
      extract_lets +onlyGivenNames x8
      have h9 : Keeps m s0 x8 := setTime_keeps (hm.of rfl) (by assumption)
      clear_value x8
      apply KeepsR.next
      apply Keeps.ite
      · with_reducible apply unlistedEvent_keeps (hm.of rfl)
        exact interrupt_keeps (hm.of rfl) (by assumption)
      · assumption

theorem execHoldoverExpiry_keeps {m} {s0 : State} {p1 : State} (hm : Sub 8243 m) (k : Keeps m s0 p1) :
    KeepsR m s0 (execHoldoverExpiry p1) := by
  unfold execHoldoverExpiry
  apply KeepsR.next
  apply Keeps.ite
  · exact setTrust_keeps (hm.of rfl) (by assumption)
  · assumption

theorem timeStatusBytes_keeps {m} {s0 : State} {p1 : State} (hm : Sub 1 m) (k : Keeps m s0 p1) :
    Keeps m s0 (timeStatusBytes p1).2 := by
  unfold timeStatusBytes
  extract_lets +onlyGivenNames x1
  clear_value x1
  extract_lets +onlyGivenNames x2
  clear_value x2
  extract_lets +onlyGivenNames x3
  clear_value x3
  extract_lets +onlyGivenNames x4
  clear_value x4
  extract_lets +onlyGivenNames x5
  clear_value x5
  extract_lets +onlyGivenNames x6
  clear_value x6
  extract_lets +onlyGivenNames x7
  have h8 : Keeps m s0 x7.2 := by
    unfold x7
    split
    · rename_i y9
      assumption
    · rename_i y10
      split
      · rename_i y11 y12 y13
        assumption
      · rename_i y14 y15
        exact draw_keeps (hm.of rfl) (by assumption)
  clear_value x7
  assumption

theorem cmdTimeStatus_keeps {m} (hm : Sub 1 m) : KeepsCmd m cmdTimeStatus := by
  unfold cmdTimeStatus
  apply KeepsCmd.mk
  intro s0 ctx s k
  extract_lets +onlyGivenNames x1
  have h2 : Keeps m s0 x1.2 := timeStatusBytes_keeps (hm.of rfl) (by assumption)
  clear_value x1
  exact okWith_keeps (hm.of rfl) (by assumption)

theorem cmdTimeConfig_keeps {m} (hm : Sub 16 m) : KeepsCmd m cmdTimeConfig := by
  unfold cmdTimeConfig
  apply KeepsCmd.mk
  intro s0 ctx s k
  extract_lets +onlyGivenNames x1
  clear_value x1
  with_reducible apply checked_keeps (hm.of rfl)
  · assumption
  · with_reducible apply okWith_keeps (hm.of rfl)
    exact setTime_keeps (hm.of rfl) (by assumption)

theorem applyTimeConfig_keeps {m} {s0 : State} {p1 : State} (hm : Sub 10295 m) (k : Keeps m s0 p1) :
    Keeps m s0 (applyTimeConfig p1) := by
  unfold applyTimeConfig
  split
  · rename_i y1 y2
    assumption
  · rename_i y3 y4 y5
    extract_lets +onlyGivenNames x6
    clear_value x6
    extract_lets +onlyGivenNames x7
    have h8 : Keeps m s0 x7 := setTime_keeps (hm.of rfl) (by assumption)
    clear_value x7
    apply Keeps.ite
    · with_reducible apply selectGrandmaster_keeps (hm.of rfl)
      with_reducible apply losePtp_keeps (hm.of rfl)
      exact setTime_keeps (hm.of rfl) (by assumption)
    · apply Keeps.ite
      · exact afterSource_keeps (hm.of rfl) (by assumption)
      · exact selectGrandmaster_keeps (hm.of rfl) (by assumption)

theorem acceptStep_keeps {m} {s0 : State} {p1} {p2 : State} (hm : Sub 8243 m) (k : Keeps m s0 p2) :
    Keeps m s0 (acceptStep p1 p2) := by
  unfold acceptStep
  with_reducible apply evaluateTrust_keeps (hm.of rfl)
  exact setTime_keeps (hm.of rfl) (by assumption)

theorem rejectStep_keeps {m} {s0 : State} {p1} {p2 : State} (hm : Sub 8243 m) (k : Keeps m s0 p2) :
    Keeps m s0 (rejectStep p1 p2) := by
  unfold rejectStep
  with_reducible apply evaluateTrust_keeps (hm.of rfl)
  exact setTime_keeps (hm.of rfl) (by assumption)

theorem hostSetTime_keeps {m} {s0 : State} {p1} {p2 : State} (hm : Sub 16 m) (k : Keeps m s0 p2) :
    Keeps m s0 (hostSetTime p1 p2) := by
  unfold hostSetTime
  exact setTime_keeps (hm.of rfl) (by assumption)

theorem cmdTimeStep_keeps {m} (hm : Sub 8243 m) : KeepsCmd m cmdTimeStep := by
  unfold cmdTimeStep
  apply KeepsCmd.mk
  intro s0 ctx s k
  extract_lets +onlyGivenNames x1
  clear_value x1
  extract_lets +onlyGivenNames x2
  clear_value x2
  extract_lets +onlyGivenNames x3
  clear_value x3
  extract_lets +onlyGivenNames x4
  clear_value x4
  extract_lets +onlyGivenNames x5
  clear_value x5
  with_reducible apply checked_keeps (hm.of rfl)
  · assumption
  · apply KeepsA.ite
    · extract_lets +onlyGivenNames x6
      clear_value x6
      apply KeepsA.ite
      · exact fail_keeps (hm.of rfl) (by assumption)
      · apply KeepsA.ite
        · exact fail_keeps (hm.of rfl) (by assumption)
        · with_reducible apply okWith_keeps (hm.of rfl)
          exact hostSetTime_keeps (hm.of rfl) (by assumption)
    · split
      · rename_i y7
        exact fail_keeps (hm.of rfl) (by assumption)
      · rename_i y8 y9
        apply KeepsA.ite
        · exact fail_keeps (hm.of rfl) (by assumption)
        · apply KeepsA.ite
          · with_reducible apply okWith_keeps (hm.of rfl)
            exact rejectStep_keeps (hm.of rfl) (by assumption)
          · apply KeepsA.ite
            · exact fail_keeps (hm.of rfl) (by assumption)
            · with_reducible apply okWith_keeps (hm.of rfl)
              exact acceptStep_keeps (hm.of rfl) (by assumption)

theorem cmdTimeCivil_keeps {m} (hm : Sub 68 m) : KeepsCmd m cmdTimeCivil := by
  unfold cmdTimeCivil
  apply KeepsCmd.mk
  intro s0 ctx s k
  extract_lets +onlyGivenNames x1
  clear_value x1
  extract_lets +onlyGivenNames x2
  clear_value x2
  extract_lets +onlyGivenNames x3
  clear_value x3
  with_reducible apply checked_keeps (hm.of rfl)
  · assumption
  · apply KeepsA.ite
    · exact fail_keeps (hm.of rfl) (by assumption)
    · split
      · rename_i y4 y5
        exact fail_keeps (hm.of rfl) (by assumption)
      · rename_i y6 y7 y8
        apply KeepsA.accepted
        exact armGen_keeps (hm.of rfl) (by assumption)

theorem applyCivil_keeps {m} {s0 : State} {p1 p2} {p3 : State} (hm : Sub 10295 m) (k : Keeps m s0 p3) :
    Keeps m s0 (applyCivil p1 p2 p3) := by
  unfold applyCivil
  extract_lets +onlyGivenNames x1
  have h2 : Keeps m s0 x1 := by
    unfold x1
    with_reducible apply afterSource_keeps (hm.of rfl)
    exact setTime_keeps (hm.of rfl) (by assumption)
  clear_value x1
  split
  · rename_i y3 y4 y5
    exact complete_keeps (hm.of rfl) (by assumption)
  · rename_i y6 y7
    assumption

theorem cmdTimeTicks_keeps {m} (hm : Sub 0 m) : KeepsCmd m cmdTimeTicks := by
  unfold cmdTimeTicks
  apply KeepsCmd.mk
  intro s0 ctx s k
  exact okWith_keeps (hm.of rfl) (by assumption)

theorem execTimeStatus_keeps {m} {s0 : State} {p1} {p2 : State} (hm : Sub 8199 m) (k : Keeps m s0 p2) :
    KeepsR m s0 (execTimeStatus p1 p2) := by
  unfold execTimeStatus
  apply KeepsR.next
  with_reducible apply submit_keeps (hm.of rfl)
  · assumption
  · exact cmdTimeStatus_keeps (hm.of rfl)

theorem execTimeConfig_keeps {m} {s0 : State} {p1} {p2 : State} (hm : Sub 8215 m) (k : Keeps m s0 p2) :
    KeepsR m s0 (execTimeConfig p1 p2) := by
  unfold execTimeConfig
  apply KeepsR.next
  with_reducible apply submit_keeps (hm.of rfl)
  · assumption
  · exact cmdTimeConfig_keeps (hm.of rfl)

theorem execTimeStep_keeps {m} {s0 : State} {p1} {p2 : State} (hm : Sub 8247 m) (k : Keeps m s0 p2) :
    KeepsR m s0 (execTimeStep p1 p2) := by
  unfold execTimeStep
  apply KeepsR.next
  with_reducible apply submit_keeps (hm.of rfl)
  · assumption
  · exact cmdTimeStep_keeps (hm.of rfl)

theorem execTimeCivil_keeps {m} {s0 : State} {p1} {p2 : State} (hm : Sub 8263 m) (k : Keeps m s0 p2) :
    KeepsR m s0 (execTimeCivil p1 p2) := by
  unfold execTimeCivil
  apply KeepsR.next
  with_reducible apply submit_keeps (hm.of rfl)
  · assumption
  · exact cmdTimeCivil_keeps (hm.of rfl)

theorem execTimeTicks_keeps {m} {s0 : State} {p1} {p2 : State} (hm : Sub 8199 m) (k : Keeps m s0 p2) :
    KeepsR m s0 (execTimeTicks p1 p2) := by
  unfold execTimeTicks
  apply KeepsR.next
  with_reducible apply submit_keeps (hm.of rfl)
  · assumption
  · exact cmdTimeTicks_keeps (hm.of rfl)

end Sys2Proof.Machine
end

