-- ==== Sys2Proof/Laws/Keeps/Links.lean ====
section
/-!
SUPPORT. What the operations of Machine/Links.lean keep.
-/

namespace Sys2Proof.Machine

theorem setLnk_keeps {m} {s0 : State} {p1} {p2 : State} (hm : Sub 1048576 m) (k : Keeps m s0 p2) :
    Keeps m s0 (setLnk p1 p2) := by
  unfold setLnk
  exact Keeps.rest 1048576 (hm.of rfl) (by assumption) rfl

theorem setPort_keeps {m} {s0 : State} {p1 p2} {p3 : State} (hm : Sub 1048576 m) (k : Keeps m s0 p3) :
    Keeps m s0 (setPort p1 p2 p3) := by
  unfold setPort
  exact setLnk_keeps (hm.of rfl) (by assumption)

theorem settlePortFault_keeps {m} {s0 : State} {p1 : State} (hm : Sub 2052 m) (k : Keeps m s0 p1) :
    Keeps m s0 (settlePortFault p1) := by
  unfold settlePortFault
  apply Keeps.ite
  · assumption
  · exact endFault_keeps (hm.of rfl) (by assumption)

theorem settleFecFault_keeps {m} {s0 : State} {p1 : State} (hm : Sub 2052 m) (k : Keeps m s0 p1) :
    Keeps m s0 (settleFecFault p1) := by
  unfold settleFecFault
  apply Keeps.ite
  · assumption
  · exact endFault_keeps (hm.of rfl) (by assumption)

theorem settleMacsecFault_keeps {m} {s0 : State} {p1 : State} (hm : Sub 2052 m) (k : Keeps m s0 p1) :
    Keeps m s0 (settleMacsecFault p1) := by
  unfold settleMacsecFault
  apply Keeps.ite
  · assumption
  · exact endFault_keeps (hm.of rfl) (by assumption)

theorem portEvent_keeps {m} {s0 : State} {p1 p2 p3 p4} {p5 : State} (hm : Sub 6 m) (k : Keeps m s0 p5) :
    Keeps m s0 (portEvent p1 p2 p3 p4 p5) := by
  unfold portEvent
  extract_lets +onlyGivenNames x1
  clear_value x1
  with_reducible apply interrupt_keeps (hm.of rfl)
  exact raiseEvent_keeps (hm.of rfl) (by assumption)

theorem portLeftUp_keeps {m} {s0 : State} {p1} {p2 : State} (hm : Sub 10295 m) (k : Keeps m s0 p2) :
    Keeps m s0 (portLeftUp p1 p2) := by
  unfold portLeftUp
  extract_lets +onlyGivenNames x1
  have h2 : Keeps m s0 x1 := by
    unfold x1
    apply Keeps.ite
    · exact dropAnnounce_keeps (hm.of rfl) (by assumption)
    · assumption
  clear_value x1
  apply Keeps.ite
  · exact raiseFault_keeps (hm.of rfl) (by assumption)
  · assumption

theorem portTo_keeps {m} {s0 : State} {p1 p2 p3} {p4 : State} (hm : Sub 1058871 m) (k : Keeps m s0 p4) :
    Keeps m s0 (portTo p1 p2 p3 p4) := by
  unfold portTo
  extract_lets +onlyGivenNames x1
  clear_value x1
  apply Keeps.ite
  · assumption
  · extract_lets +onlyGivenNames x2
    have h3 : Keeps m s0 x2 := setPort_keeps (hm.of rfl) (by assumption)
    clear_value x2
    extract_lets +onlyGivenNames x4
    have h5 : Keeps m s0 x4 := portEvent_keeps (hm.of rfl) (by assumption)
    clear_value x4
    extract_lets +onlyGivenNames x6
    have h7 : Keeps m s0 x6 := by
      unfold x6
      apply Keeps.ite
      · exact portLeftUp_keeps (hm.of rfl) (by assumption)
      · assumption
    clear_value x6
    with_reducible apply settleMacsecFault_keeps (hm.of rfl)
    with_reducible apply settleFecFault_keeps (hm.of rfl)
    exact settlePortFault_keeps (hm.of rfl) (by assumption)

theorem laneZeroRetrain_keeps {m} {s0 : State} {p1} {p2 : State} (hm : Sub 1048592 m) (k : Keeps m s0 p2) :
    Keeps m s0 (laneZeroRetrain p1 p2) := by
  unfold laneZeroRetrain
  extract_lets +onlyGivenNames x1
  have h2 : Keeps m s0 x1 := by
    unfold x1
    apply Keeps.ite
    · exact setTime_keeps (hm.of rfl) (by assumption)
    · assumption
  clear_value x1
  exact setLnk_keeps (hm.of rfl) (by assumption)

theorem portsDown_keeps {m} {s0 : State} {p1} {p2 : State} (hm : Sub 1058871 m) (k : Keeps m s0 p2) :
    Keeps m s0 (portsDown p1 p2) := by
  unfold portsDown
  extract_lets +onlyGivenNames x1
  have h2 : Keeps m s0 x1 := by
    unfold x1
    apply Keeps.ite
    · exact laneZeroRetrain_keeps (hm.of rfl) (by assumption)
    · assumption
  clear_value x1
  extract_lets +onlyGivenNames x3
  have h4 : Keeps m s0 x3 := by
    unfold x3
    apply Keeps.foldl
    · intro a5 a7 h10
      exact portTo_keeps (hm.of rfl) (by assumption)
    · assumption
  clear_value x3
  apply Keeps.ite
  · exact portTo_keeps (hm.of rfl) (by assumption)
  · with_reducible apply endFault_keeps (hm.of rfl)
    exact setLnk_keeps (hm.of rfl) (by assumption)

theorem portsUp_keeps {m} {s0 : State} {p1 : State} (hm : Sub 1058871 m) (k : Keeps m s0 p1) :
    Keeps m s0 (portsUp p1) := by
  unfold portsUp
  extract_lets +onlyGivenNames x1
  have h2 : Keeps m s0 x1 := by
    unfold x1
    with_reducible apply endFault_keeps (hm.of rfl)
    exact laneZeroRetrain_keeps (hm.of rfl) (by assumption)
  clear_value x1
  extract_lets +onlyGivenNames x3
  have h4 : Keeps m s0 x3 := by
    unfold x3
    apply Keeps.ite
    · exact portTo_keeps (hm.of rfl) (by assumption)
    · assumption
  clear_value x3
  apply Keeps.foldl
  · intro a5 a7 h10
    apply Keeps.ite
    · exact portTo_keeps (hm.of rfl) (by assumption)
    · assumption
  · assumption

theorem coldLinks_keeps {m} {s0 : State} {p1 : State} (hm : Sub 1048576 m) (k : Keeps m s0 p1) :
    Keeps m s0 (coldLinks p1) := by
  unfold coldLinks
  exact setLnk_keeps (hm.of rfl) (by assumption)

theorem linksTick_keeps {m} {s0 : State} {p1 : State} (hm : Sub 1048576 m) (k : Keeps m s0 p1) :
    Keeps m s0 (linksTick p1) := by
  unfold linksTick
  extract_lets +onlyGivenNames x1
  clear_value x1
  extract_lets +onlyGivenNames x2
  have h3 : Keeps m s0 x2 := setLnk_keeps (hm.of rfl) (by assumption)
  clear_value x2
  apply Keeps.foldl
  · intro a4 a6 h9
    exact setLnk_keeps (hm.of rfl) (by assumption)
  · assumption

theorem cmdLnkStatus_keeps {m} (hm : Sub 0 m) : KeepsCmd m cmdLnkStatus := by
  unfold cmdLnkStatus
  apply KeepsCmd.mk
  intro s0 ctx s k
  exact okWith_keeps (hm.of rfl) (by assumption)

theorem cmdLnkGrouping_keeps {m} (hm : Sub 1048576 m) : KeepsCmd m cmdLnkGrouping := by
  unfold cmdLnkGrouping
  apply KeepsCmd.mk
  intro s0 ctx s k
  extract_lets +onlyGivenNames x1
  clear_value x1
  with_reducible apply checked_keeps (hm.of rfl)
  · assumption
  · with_reducible apply okWith_keeps (hm.of rfl)
    exact setLnk_keeps (hm.of rfl) (by assumption)

theorem portCommand_keeps {m} {s0 : State} {p1 p2} {p3 : State} (hm : Sub 1058871 m) (k : Keeps m s0 p3) :
    Keeps m s0 (portCommand p1 p2 p3) := by
  unfold portCommand
  split
  · rename_i y1 y2 y3
    exact portTo_keeps (hm.of rfl) (by assumption)
  · rename_i y4 y5 y6
    exact portTo_keeps (hm.of rfl) (by assumption)
  · rename_i y7 y8 y9
    exact portTo_keeps (hm.of rfl) (by assumption)
  · rename_i y10 y11 y12
    exact portTo_keeps (hm.of rfl) (by assumption)
  · rename_i y13 y14 y15
    exact portTo_keeps (hm.of rfl) (by assumption)
  · rename_i y16 y17 y18 y19 y20 y21 y22 y23
    assumption

theorem cmdLnkPortSet_keeps {m} (hm : Sub 1058871 m) : KeepsCmd m cmdLnkPortSet := by
  unfold cmdLnkPortSet
  apply KeepsCmd.mk
  intro s0 ctx s k
  extract_lets +onlyGivenNames x1
  clear_value x1
  extract_lets +onlyGivenNames x2
  clear_value x2
  extract_lets +onlyGivenNames x3
  clear_value x3
  with_reducible apply checked_keeps (hm.of rfl)
  · assumption
  · extract_lets +onlyGivenNames x4
    clear_value x4
    extract_lets +onlyGivenNames x5
    have h6 : Keeps m s0 x5 := setPort_keeps (hm.of rfl) (by assumption)
    clear_value x5
    extract_lets +onlyGivenNames x7
    have h8 : Keeps m s0 x7 := setLnk_keeps (hm.of rfl) (by assumption)
    clear_value x7
    extract_lets +onlyGivenNames x9
    have h10 : Keeps m s0 x9 := portCommand_keeps (hm.of rfl) (by assumption)
    clear_value x9
    exact okWith_keeps (hm.of rfl) (by assumption)

theorem cmdLnkAddrSet_keeps {m} (hm : Sub 1048576 m) : KeepsCmd m cmdLnkAddrSet := by
  unfold cmdLnkAddrSet
  apply KeepsCmd.mk
  intro s0 ctx s k
  extract_lets +onlyGivenNames x1
  clear_value x1
  extract_lets +onlyGivenNames x2
  clear_value x2
  extract_lets +onlyGivenNames x3
  clear_value x3
  extract_lets +onlyGivenNames x4
  clear_value x4
  apply KeepsA.ite
  · with_reducible apply checked_keeps (hm.of rfl)
    · assumption
    · apply KeepsA.ite
      · exact fail_keeps (hm.of rfl) (by assumption)
      · with_reducible apply okWith_keeps (hm.of rfl)
        exact setPort_keeps (hm.of rfl) (by assumption)
  · with_reducible apply checked_keeps (hm.of rfl)
    · assumption
    · with_reducible apply okWith_keeps (hm.of rfl)
      exact setPort_keeps (hm.of rfl) (by assumption)

theorem cmdLnkMacsecSet_keeps {m} (hm : Sub 1048576 m) : KeepsCmd m cmdLnkMacsecSet := by
  unfold cmdLnkMacsecSet
  apply KeepsCmd.mk
  intro s0 ctx s k
  extract_lets +onlyGivenNames x1
  clear_value x1
  extract_lets +onlyGivenNames x2
  clear_value x2
  extract_lets +onlyGivenNames x3
  clear_value x3
  extract_lets +onlyGivenNames x4
  clear_value x4
  with_reducible apply checked_keeps (hm.of rfl)
  · assumption
  · apply KeepsA.ite
    · exact fail_keeps (hm.of rfl) (by assumption)
    · with_reducible apply okWith_keeps (hm.of rfl)
      exact setLnk_keeps (hm.of rfl) (by assumption)

theorem cmdLnkPortRead_keeps {m} (hm : Sub 1 m) : KeepsCmd m cmdLnkPortRead := by
  unfold cmdLnkPortRead
  apply KeepsCmd.mk
  intro s0 ctx s k
  extract_lets +onlyGivenNames x1
  clear_value x1
  extract_lets +onlyGivenNames x2
  clear_value x2
  with_reducible apply checked_keeps (hm.of rfl)
  · assumption
  · extract_lets +onlyGivenNames x3
    have h4 : Keeps m s0 x3.2 := draw_keeps (hm.of rfl) (by assumption)
    clear_value x3
    extract_lets +onlyGivenNames x5
    clear_value x5
    extract_lets +onlyGivenNames x6
    clear_value x6
    exact okWith_keeps (hm.of rfl) (by assumption)

theorem execLnkStatus_keeps {m} {s0 : State} {p1} {p2 : State} (hm : Sub 8199 m) (k : Keeps m s0 p2) :
    KeepsR m s0 (execLnkStatus p1 p2) := by
  unfold execLnkStatus
  apply KeepsR.next
  with_reducible apply submit_keeps (hm.of rfl)
  · assumption
  · exact cmdLnkStatus_keeps (hm.of rfl)

theorem execLnkGrouping_keeps {m} {s0 : State} {p1} {p2 : State} (hm : Sub 1056775 m) (k : Keeps m s0 p2) :
    KeepsR m s0 (execLnkGrouping p1 p2) := by
  unfold execLnkGrouping
  apply KeepsR.next
  with_reducible apply submit_keeps (hm.of rfl)
  · assumption
  · exact cmdLnkGrouping_keeps (hm.of rfl)

theorem execLnkPortSet_keeps {m} {s0 : State} {p1} {p2 : State} (hm : Sub 1058871 m) (k : Keeps m s0 p2) :
    KeepsR m s0 (execLnkPortSet p1 p2) := by
  unfold execLnkPortSet
  apply KeepsR.next
  with_reducible apply submit_keeps (hm.of rfl)
  · assumption
  · exact cmdLnkPortSet_keeps (hm.of rfl)

theorem execLnkAddrSet_keeps {m} {s0 : State} {p1} {p2 : State} (hm : Sub 1056775 m) (k : Keeps m s0 p2) :
    KeepsR m s0 (execLnkAddrSet p1 p2) := by
  unfold execLnkAddrSet
  apply KeepsR.next
  with_reducible apply submit_keeps (hm.of rfl)
  · assumption
  · exact cmdLnkAddrSet_keeps (hm.of rfl)

theorem execLnkMacsecSet_keeps {m} {s0 : State} {p1} {p2 : State} (hm : Sub 1056775 m) (k : Keeps m s0 p2) :
    KeepsR m s0 (execLnkMacsecSet p1 p2) := by
  unfold execLnkMacsecSet
  apply KeepsR.next
  with_reducible apply submit_keeps (hm.of rfl)
  · assumption
  · exact cmdLnkMacsecSet_keeps (hm.of rfl)

theorem execLnkPortRead_keeps {m} {s0 : State} {p1} {p2 : State} (hm : Sub 8199 m) (k : Keeps m s0 p2) :
    KeepsR m s0 (execLnkPortRead p1 p2) := by
  unfold execLnkPortRead
  apply KeepsR.next
  with_reducible apply submit_keeps (hm.of rfl)
  · assumption
  · exact cmdLnkPortRead_keeps (hm.of rfl)

theorem execPortLinkUp_keeps {m} {s0 : State} {p1} {p2 : State} (hm : Sub 1058871 m) (k : Keeps m s0 p2) :
    KeepsR m s0 (execPortLinkUp p1 p2) := by
  unfold execPortLinkUp
  apply KeepsR.ite
  · apply KeepsR.next
    assumption
  · extract_lets +onlyGivenNames x1
    have h2 : Keeps m s0 x1 := portTo_keeps (hm.of rfl) (by assumption)
    clear_value x1
    extract_lets +onlyGivenNames x3
    have h4 : Keeps m s0 x3 := by
      unfold x3
      apply Keeps.ite
      · exact endFault_keeps (hm.of rfl) (by assumption)
      · assumption
    clear_value x3
    apply KeepsR.next
    apply Keeps.ite
    · exact endFault_keeps (hm.of rfl) (by assumption)
    · assumption

theorem execPortLinkFault_keeps {m} {s0 : State} {p1} {p2 : State} (hm : Sub 1058871 m) (k : Keeps m s0 p2) :
    KeepsR m s0 (execPortLinkFault p1 p2) := by
  unfold execPortLinkFault
  apply KeepsR.ite
  · apply KeepsR.next
    assumption
  · extract_lets +onlyGivenNames x1
    have h2 : Keeps m s0 x1 := setPort_keeps (hm.of rfl) (by assumption)
    clear_value x1
    extract_lets +onlyGivenNames x3
    have h4 : Keeps m s0 x3 := raiseFault_keeps (hm.of rfl) (by assumption)
    clear_value x3
    extract_lets +onlyGivenNames x5
    clear_value x5
    extract_lets +onlyGivenNames x6
    have h7 : Keeps m s0 x6 := by
      unfold x6
      apply Keeps.ite
      · exact setPort_keeps (hm.of rfl) (by assumption)
      · assumption
    clear_value x6
    apply KeepsR.next
    exact portTo_keeps (hm.of rfl) (by assumption)

theorem execPortTrainingTimeout_keeps {m} {s0 : State} {p1} {p2 : State} (hm : Sub 1058823 m) (k : Keeps m s0 p2) :
    KeepsR m s0 (execPortTrainingTimeout p1 p2) := by
  unfold execPortTrainingTimeout
  apply KeepsR.ite
  · apply KeepsR.next
    assumption
  · apply KeepsR.next
    with_reducible apply portEvent_keeps (hm.of rfl)
    with_reducible apply raiseFault_keeps (hm.of rfl)
    exact setPort_keeps (hm.of rfl) (by assumption)

theorem execPortHoldExpiry_keeps {m} {s0 : State} {p1} {p2 : State} (hm : Sub 1058871 m) (k : Keeps m s0 p2) :
    KeepsR m s0 (execPortHoldExpiry p1 p2) := by
  unfold execPortHoldExpiry
  apply KeepsR.next
  apply Keeps.ite
  · exact portTo_keeps (hm.of rfl) (by assumption)
  · assumption

theorem execFecRatioCheck_keeps {m} {s0 : State} {p1 p2 p3 p4 p5} {p6 : State} (hm : Sub 1058823 m) (k : Keeps m s0 p6) :
    KeepsR m s0 (execFecRatioCheck p1 p2 p3 p4 p5 p6) := by
  unfold execFecRatioCheck
  extract_lets +onlyGivenNames x1
  clear_value x1
  apply KeepsR.ite
  · apply KeepsR.next
    assumption
  · extract_lets +onlyGivenNames x2
    have h3 : Keeps m s0 x2 := by
      unfold x2
      with_reducible apply settleMacsecFault_keeps (hm.of rfl)
      exact setPort_keeps (hm.of rfl) (by assumption)
    clear_value x2
    apply KeepsR.ite
    · extract_lets +onlyGivenNames x4
      have h5 : Keeps m s0 x4 := by
        unfold x4
        apply Keeps.ite
        · assumption
        · exact raiseFault_keeps (hm.of rfl) (by assumption)
      clear_value x4
      apply KeepsR.next
      exact setPort_keeps (hm.of rfl) (by assumption)
    · apply KeepsR.ite
      · apply KeepsR.ite
        · apply KeepsR.next
          with_reducible apply settleFecFault_keeps (hm.of rfl)
          exact setPort_keeps (hm.of rfl) (by assumption)
        · apply KeepsR.next
          exact setPort_keeps (hm.of rfl) (by assumption)
      · apply KeepsR.next
        exact setPort_keeps (hm.of rfl) (by assumption)

theorem execLane0VigilTimeout_keeps {m} {s0 : State} {p1 : State} (hm : Sub 10247 m) (k : Keeps m s0 p1) :
    KeepsR m s0 (execLane0VigilTimeout p1) := by
  unfold execLane0VigilTimeout
  apply KeepsR.next
  apply Keeps.ite
  · exact raiseFault_keeps (hm.of rfl) (by assumption)
  · assumption

theorem execPtpHoldExpiry_keeps {m} {s0 : State} {p1 : State} (hm : Sub 10295 m) (k : Keeps m s0 p1) :
    KeepsR m s0 (execPtpHoldExpiry p1) := by
  unfold execPtpHoldExpiry
  apply KeepsR.next
  apply Keeps.ite
  · exact dropAnnounce_keeps (hm.of rfl) (by assumption)
  · assumption

theorem execNeighbourRefresh_keeps {m} {s0 : State} {p1 p2} {p3 : State} (hm : Sub 1048576 m) (k : Keeps m s0 p3) :
    KeepsR m s0 (execNeighbourRefresh p1 p2 p3) := by
  unfold execNeighbourRefresh
  apply KeepsR.ite
  · apply KeepsR.next
    assumption
  · extract_lets +onlyGivenNames x1
    have h2 : Keeps m s0 x1 := setPort_keeps (hm.of rfl) (by assumption)
    clear_value x1
    apply KeepsR.next
    exact setLnk_keeps (hm.of rfl) (by assumption)

end Sys2Proof.Machine
end

