-- ==== Sys2Proof/Laws/Keeps/Radio.lean ====
section
/-!
SUPPORT. What the operations of Machine/Radio.lean keep.
-/

namespace Sys2Proof.Machine

theorem setRf_keeps {m} {s0 : State} {p1 p2} {p3 : State} (hm : Sub 65536 m) (k : Keeps m s0 p3) :
    Keeps m s0 (setRf p1 p2 p3) := by
  unfold setRf
  split
  · rename_i y1 y2 y3
    exact setMtr_keeps (hm.of rfl) (by assumption)
  · rename_i y4 y5
    assumption

theorem sendRadio_keeps {m} {s0 : State} {p1 p2 p3 p4} {p5 : State} (hm : Sub 124935 m) (k : Keeps m s0 p5) :
    Keeps m s0 (sendRadio p1 p2 p3 p4 p5) := by
  unfold sendRadio
  split
  · rename_i y1 y2
    assumption
  · rename_i y3 y4 y5
    extract_lets +onlyGivenNames x6
    clear_value x6
    extract_lets +onlyGivenNames x7
    have h8 : Keeps m s0 x7 := setRf_keeps (hm.of rfl) (by assumption)
    clear_value x7
    exact sendPlan_keeps (hm.of rfl) (by assumption)

theorem groupNext_keeps {m} {s0 : State} {p1 p2} {p3 : State} (hm : Sub 65536 m) (k : Keeps m s0 p3) :
    Keeps m s0 (groupNext p1 p2 p3).2 := by
  unfold groupNext
  extract_lets +onlyGivenNames x1
  clear_value x1
  apply Keeps.sndMk
  exact setMtr_keeps (hm.of rfl) (by assumption)

theorem sendBeacon_keeps {m} {s0 : State} {p1} {p2 : State} (hm : Sub 124935 m) (k : Keeps m s0 p2) :
    Keeps m s0 (sendBeacon p1 p2) := by
  unfold sendBeacon
  split
  · rename_i y1 y2
    assumption
  · rename_i y3 y4 y5
    extract_lets +onlyGivenNames x6
    clear_value x6
    extract_lets +onlyGivenNames x7
    clear_value x7
    extract_lets +onlyGivenNames x8
    clear_value x8
    apply Keeps.ite
    · assumption
    · extract_lets +onlyGivenNames x9
      have h10 : Keeps m s0 x9.2 := groupNext_keeps (hm.of rfl) (by assumption)
      clear_value x9
      extract_lets +onlyGivenNames x11
      have h12 : Keeps m s0 x11.2 := keyFor_keeps (hm.of rfl) (by assumption)
      clear_value x11
      split
      · rename_i y13 y14
        assumption
      · rename_i y15 y16 y17
        extract_lets +onlyGivenNames x18
        clear_value x18
        extract_lets +onlyGivenNames x19
        clear_value x19
        extract_lets +onlyGivenNames x20
        have h21 : Keeps m s0 x20 := setRf_keeps (hm.of rfl) (by assumption)
        clear_value x20
        exact sendRadio_keeps (hm.of rfl) (by assumption)

theorem releaseConn_keeps {m} {s0 : State} {p1 p2 p3} {p4 : State} (hm : Sub 65540 m) (k : Keeps m s0 p4) :
    Keeps m s0 (releaseConn p1 p2 p3 p4) := by
  unfold releaseConn
  with_reducible apply connEvent_keeps (hm.of rfl)
  exact setConn_keeps (hm.of rfl) (by assumption)

theorem refuseConnect_keeps {m} {s0 : State} {p1 p2} {p3 : State} (hm : Sub 75783 m) (k : Keeps m s0 p3) :
    Keeps m s0 (refuseConnect p1 p2 p3) := by
  unfold refuseConnect
  extract_lets +onlyGivenNames x1
  clear_value x1
  extract_lets +onlyGivenNames x2
  have h3 : Keeps m s0 x2 := setRf_keeps (hm.of rfl) (by assumption)
  clear_value x2
  with_reducible apply connEvent_keeps (hm.of rfl)
  apply Keeps.ite
  · assumption
  · exact meterFault_keeps (hm.of rfl) (by assumption)

theorem planConnect_keeps {m} {s0 : State} {p1 p2 p3 p4 p5 p6} {p7 : State} (hm : Sub 124935 m) (k : Keeps m s0 p7) :
    Keeps m s0 (planConnect p1 p2 p3 p4 p5 p6 p7) := by
  unfold planConnect
  split
  · rename_i y1 y2 y3 y4 y5 y6
    extract_lets +onlyGivenNames x7
    clear_value x7
    extract_lets +onlyGivenNames x8
    clear_value x8
    split
    · rename_i y9
      assumption
    · rename_i y10 y11
      apply Keeps.ite
      · assumption
      · split
        · rename_i y12 y13
          exact refuseConnect_keeps (hm.of rfl) (by assumption)
        · rename_i y14 y15 y16
          extract_lets +onlyGivenNames x17
          have h18 : Keeps m s0 x17.2 := nextCounter_keeps (hm.of rfl) (by assumption)
          clear_value x17
          extract_lets +onlyGivenNames x19
          have h20 : Keeps m s0 x19.2 := keyFor_keeps (hm.of rfl) (by assumption)
          clear_value x19
          split
          · rename_i y21 y22
            assumption
          · rename_i y23 y24 y25
            extract_lets +onlyGivenNames x26
            clear_value x26
            extract_lets +onlyGivenNames x27
            clear_value x27
            extract_lets +onlyGivenNames x28
            have h29 : Keeps m s0 x28 := setRf_keeps (hm.of rfl) (by assumption)
            clear_value x28
            with_reducible apply sendRadio_keeps (hm.of rfl)
            exact connEvent_keeps (hm.of rfl) (by assumption)
  · rename_i y30 y31 y32
    assumption

theorem countBad_keeps {m} {s0 : State} {p1 p2} {p3 : State} (hm : Sub 65536 m) (k : Keeps m s0 p3) :
    Keeps m s0 (countBad p1 p2 p3) := by
  unfold countBad
  exact setRf_keeps (hm.of rfl) (by assumption)

theorem radioAdvert_keeps {m} {s0 : State} {p1 p2 p3 p4 p5} {p6 : State} (hm : Sub 124935 m) (k : Keeps m s0 p6) :
    Keeps m s0 (radioAdvert p1 p2 p3 p4 p5 p6) := by
  unfold radioAdvert
  apply Keeps.ite
  · assumption
  · extract_lets +onlyGivenNames x1
    have h2 : Keeps m s0 x1 := setRf_keeps (hm.of rfl) (by assumption)
    clear_value x1
    split
    · rename_i y3 y4
      assumption
    · rename_i y5 y6 y7
      apply Keeps.ite
      · assumption
      · split
        · rename_i y8 y9
          exact raiseEvent_keeps (hm.of rfl) (by assumption)
        · rename_i y10 y11 y12
          extract_lets +onlyGivenNames x13
          clear_value x13
          split
          · rename_i y14 y15
            assumption
          · rename_i y16 y17 y18
            extract_lets +onlyGivenNames x19
            have h20 : Keeps m s0 x19.2 := keyFor_keeps (hm.of rfl) (by assumption)
            clear_value x19
            split
            · rename_i y21 y22
              assumption
            · rename_i y23 y24 y25
              extract_lets +onlyGivenNames x26
              have h27 : Keeps m s0 x26 := by
                unfold x26
                assumption
              apply Keeps.ite
              · exact countBad_keeps (hm.of rfl) (by assumption)
              · apply Keeps.ite
                · exact countBad_keeps (hm.of rfl) (by assumption)
                · apply Keeps.ite
                  · assumption
                  · extract_lets +onlyGivenNames x28
                    have h29 : Keeps m s0 x28 := by
                      unfold x28
                      with_reducible apply noteContact_keeps (hm.of rfl)
                      exact setMeter_keeps (hm.of rfl) (by assumption)
                    clear_value x28
                    extract_lets +onlyGivenNames x30
                    have h31 : Keeps m s0 x30 := by
                      unfold x30
                      split
                      · rename_i y32 y33 y34
                        apply Keeps.ite
                        · exact releaseConn_keeps (hm.of rfl) (by assumption)
                        · assumption
                      · rename_i y35 y36
                        assumption
                    clear_value x30
                    extract_lets +onlyGivenNames x37
                    clear_value x37
                    extract_lets +onlyGivenNames x38
                    have h39 : Keeps m s0 x38 := by
                      unfold x38
                      apply Keeps.ite
                      · assumption
                      · exact planConnect_keeps (hm.of rfl) (by assumption)
                    clear_value x38
                    exact setConn_keeps (hm.of rfl) (by assumption)

theorem eventFrame_keeps {m} {s0 : State} {p1 p2 p3 p4 p5 p6} {p7 : State} (hm : Sub 65536 m) (k : Keeps m s0 p7) :
    Keeps m s0 (eventFrame p1 p2 p3 p4 p5 p6 p7).2.2 := by
  unfold eventFrame
  split
  · rename_i y1 y2 y3
    assumption
  · rename_i y4 y5
    extract_lets +onlyGivenNames x6
    clear_value x6
    split
    · rename_i y7 y8 y9
      apply Keeps.sndMk
      exact setConn_keeps (hm.of rfl) (by assumption)
    · rename_i y10
      extract_lets +onlyGivenNames x11
      clear_value x11
      extract_lets +onlyGivenNames x12
      clear_value x12
      extract_lets +onlyGivenNames x13
      have h14 : Keeps m s0 x13 := by
        unfold x13
        apply Keeps.ite
        · exact queueNow_keeps (hm.of rfl) (by assumption)
        · assumption
      clear_value x13
      extract_lets +onlyGivenNames x15
      have h16 : Keeps m s0 x15.2 := takeMsg_keeps (hm.of rfl) (by assumption)
      clear_value x15
      assumption

theorem planEvent_keeps {m} {s0 : State} {p1 p2} {p3 : State} (hm : Sub 124935 m) (k : Keeps m s0 p3) :
    Keeps m s0 (planEvent p1 p2 p3) := by
  unfold planEvent
  split
  · rename_i y1 y2 y3 y4 y5 y6
    extract_lets +onlyGivenNames x7
    clear_value x7
    extract_lets +onlyGivenNames x8
    clear_value x8
    extract_lets +onlyGivenNames x9
    clear_value x9
    extract_lets +onlyGivenNames x10
    clear_value x10
    apply Keeps.ite
    · assumption
    · extract_lets +onlyGivenNames x11
      have h12 : Keeps m s0 x11 := setConn_keeps (hm.of rfl) (by assumption)
      clear_value x11
      split
      · rename_i y13 y14 y15 y16 y17
        with_reducible apply sendRadio_keeps (hm.of rfl)
        exact setConn_keeps (hm.of rfl) (by assumption)
      · rename_i y18 y19 y20
        extract_lets +onlyGivenNames x21
        have h22 : Keeps m s0 x21.2.2 := eventFrame_keeps (hm.of rfl) (by assumption)
        clear_value x21
        extract_lets +onlyGivenNames x23
        have h24 : Keeps m s0 x23 := by
          unfold x23
          assumption
        extract_lets +onlyGivenNames x25
        clear_value x25
        extract_lets +onlyGivenNames x26
        clear_value x26
        split
        · rename_i y27 y28 y29 y30 y31
          have h32 : Keeps m s0 y30 := by
            refine KeepsT.get ?_ y31
            split
            · rename_i y33 y34 y35 y36 y37
              assumption
            · rename_i y38 y39
              extract_lets +onlyGivenNames x40
              have h41 : Keeps m s0 x40.2 := nextCounter_keeps (hm.of rfl) (by assumption)
              clear_value x40
              assumption
          extract_lets +onlyGivenNames x42
          have h43 : Keeps m s0 x42.2 := keyFor_keeps (hm.of rfl) (by assumption)
          clear_value x42
          split
          · rename_i y44 y45
            assumption
          · rename_i y46 y47 y48
            extract_lets +onlyGivenNames x49
            clear_value x49
            extract_lets +onlyGivenNames x50
            clear_value x50
            extract_lets +onlyGivenNames x51
            have h52 : Keeps m s0 x51 := sendRadio_keeps (hm.of rfl) (by assumption)
            clear_value x51
            split
            · rename_i y53 y54
              exact setConn_keeps (hm.of rfl) (by assumption)
            · rename_i y55 y56 y57 y58
              exact releaseConn_keeps (hm.of rfl) (by assumption)
            · rename_i y59 y60
              exact setConn_keeps (hm.of rfl) (by assumption)
  · rename_i y61 y62 y63
    assumption

theorem openRadio_keeps {m} {s0 : State} {p1 p2 p3} {p4 : State} (hm : Sub 92167 m) (k : Keeps m s0 p4) :
    Keeps m s0 (openRadio p1 p2 p3 p4).2 := by
  unfold openRadio
  split
  · rename_i y1 y2
    assumption
  · rename_i y3 y4 y5
    extract_lets +onlyGivenNames x6
    have h7 : Keeps m s0 x6.2 := keyFor_keeps (hm.of rfl) (by assumption)
    clear_value x6
    split
    · rename_i y8 y9
      assumption
    · rename_i y10 y11 y12
      split
      · rename_i y13 y14
        apply Keeps.sndMk
        exact countBad_keeps (hm.of rfl) (by assumption)
      · rename_i y15 y16 y17
        split
        · rename_i y18
          apply Keeps.sndMk
          exact countBad_keeps (hm.of rfl) (by assumption)
        · rename_i y19
          apply Keeps.sndMk
          exact setMeter_keeps (hm.of rfl) (by assumption)

theorem queueGroupKey_keeps {m} {s0 : State} {p1 p2 p3 p4} {p5 : State} (hm : Sub 92167 m) (k : Keeps m s0 p5) :
    Keeps m s0 (queueGroupKey p1 p2 p3 p4 p5) := by
  unfold queueGroupKey
  split
  · rename_i y1 y2
    assumption
  · rename_i y3 y4 y5
    extract_lets +onlyGivenNames x6
    clear_value x6
    apply Keeps.ite
    · assumption
    · extract_lets +onlyGivenNames x7
      have h8 : Keeps m s0 x7.2 := keyFor_keeps (hm.of rfl) (by assumption)
      clear_value x7
      extract_lets +onlyGivenNames x9
      have h10 : Keeps m s0 x9.2 := keyFor_keeps (hm.of rfl) (by assumption)
      clear_value x9
      split
      · rename_i y11 y12 y13 y14 y15 y16
        exact queueNow_keeps (hm.of rfl) (by assumption)
      · rename_i y17 y18 y19
        assumption

theorem connected_keeps {m} {s0 : State} {p1 p2 p3} {p4 : State} (hm : Sub 92167 m) (k : Keeps m s0 p4) :
    Keeps m s0 (connected p1 p2 p3 p4) := by
  unfold connected
  extract_lets +onlyGivenNames x1
  have h2 : Keeps m s0 x1 := by
    unfold x1
    with_reducible apply connEvent_keeps (hm.of rfl)
    exact setConn_keeps (hm.of rfl) (by assumption)
  clear_value x1
  with_reducible apply queueGroupKey_keeps (hm.of rfl)
  with_reducible apply queueCredit_keeps (hm.of rfl)
  with_reducible apply queueNow_keeps (hm.of rfl)
  exact queueNow_keeps (hm.of rfl) (by assumption)

theorem radioAnswer_keeps {m} {s0 : State} {p1 p2 p3} {p4 : State} (hm : Sub 92167 m) (k : Keeps m s0 p4) :
    Keeps m s0 (radioAnswer p1 p2 p3 p4) := by
  unfold radioAnswer
  apply Keeps.ite
  · assumption
  · split
    · rename_i y1 y2
      assumption
    · rename_i y3 y4 y5
      split
      · rename_i y6 y7
        assumption
      · rename_i y8 y9 y10
        apply Keeps.ite
        · assumption
        · split
          · rename_i y11 y12 y13
            have h14 : Keeps m s0 y12 := by
              refine KeepsP.get ?_ y13
              exact openRadio_keeps (hm.of rfl) (by assumption)
            assumption
          · rename_i y15 y16 y17 y18 y19
            have h20 : Keeps m s0 y18 := by
              refine KeepsP.get ?_ y19
              exact openRadio_keeps (hm.of rfl) (by assumption)
            extract_lets +onlyGivenNames x21
            have h22 : Keeps m s0 x21 := noteContact_keeps (hm.of rfl) (by assumption)
            clear_value x21
            extract_lets +onlyGivenNames x23
            have h24 : Keeps m s0 x23 := setConn_keeps (hm.of rfl) (by assumption)
            clear_value x23
            extract_lets +onlyGivenNames x25
            have h26 : Keeps m s0 x25 := by
              unfold x25
              apply Keeps.ite
              · exact connected_keeps (hm.of rfl) (by assumption)
              · assumption
            clear_value x25
            apply Keeps.ite
            · exact sepalArrive_keeps (hm.of rfl) (by assumption)
            · assumption

theorem radioMissed_keeps {m} {s0 : State} {p1 p2} {p3 : State} (hm : Sub 65540 m) (k : Keeps m s0 p3) :
    Keeps m s0 (radioMissed p1 p2 p3) := by
  unfold radioMissed
  split
  · rename_i y1 y2
    assumption
  · rename_i y3 y4 y5
    apply Keeps.ite
    · assumption
    · extract_lets +onlyGivenNames x6
      have h7 : Keeps m s0 x6 := setConn_keeps (hm.of rfl) (by assumption)
      clear_value x6
      apply Keeps.ite
      · exact releaseConn_keeps (hm.of rfl) (by assumption)
      · assumption

theorem radioSupervision_keeps {m} {s0 : State} {p1 p2} {p3 : State} (hm : Sub 65540 m) (k : Keeps m s0 p3) :
    Keeps m s0 (radioSupervision p1 p2 p3) := by
  unfold radioSupervision
  split
  · rename_i y1 y2
    assumption
  · rename_i y3 y4 y5
    apply Keeps.ite
    · assumption
    · exact releaseConn_keeps (hm.of rfl) (by assumption)

theorem radioAlert_keeps {m} {s0 : State} {p1 p2} {p3 : State} (hm : Sub 92199 m) (k : Keeps m s0 p3) :
    Keeps m s0 (radioAlert p1 p2 p3) := by
  unfold radioAlert
  apply Keeps.ite
  · assumption
  · split
    · rename_i y1 y2
      assumption
    · rename_i y3 y4 y5
      split
      · rename_i y6 y7
        assumption
      · rename_i y8 y9 y10
        apply Keeps.ite
        · assumption
        · split
          · rename_i y11 y12 y13 y14
            have h15 : Keeps m s0 y13 := by
              refine KeepsP.get ?_ y14
              exact openRadio_keeps (hm.of rfl) (by assumption)
            apply Keeps.ite
            · assumption
            · with_reducible apply takeAlert_keeps (hm.of rfl)
              with_reducible apply queueNow_keeps (hm.of rfl)
              exact noteContact_keeps (hm.of rfl) (by assumption)
          · rename_i y16 y17 y18 y19 y20
            have h21 : Keeps m s0 y18 := by
              refine KeepsP.get ?_ y20
              exact openRadio_keeps (hm.of rfl) (by assumption)
            assumption

theorem applyRfNet_keeps {m} {s0 : State} {p1 p2} {p3 : State} (hm : Sub 65536 m) (k : Keeps m s0 p3) :
    Keeps m s0 (applyRfNet p1 p2 p3) := by
  unfold applyRfNet
  split
  · rename_i y1
    exact setMtr_keeps (hm.of rfl) (by assumption)
  · rename_i y2 y3
    split
    · rename_i y4 y5
      exact setMtr_keeps (hm.of rfl) (by assumption)
    · rename_i y6 y7 y8
      apply Keeps.ite
      · exact setRf_keeps (hm.of rfl) (by assumption)
      · exact setRf_keeps (hm.of rfl) (by assumption)

theorem radioNetTick_keeps {m} {s0 : State} {p1} {p2 : State} (hm : Sub 65540 m) (k : Keeps m s0 p2) :
    Keeps m s0 (radioNetTick p1 p2) := by
  unfold radioNetTick
  split
  · rename_i y1 y2
    assumption
  · rename_i y3 y4 y5
    extract_lets +onlyGivenNames x6
    clear_value x6
    extract_lets +onlyGivenNames x7
    have h8 : Keeps m s0 x7 := by
      unfold x7
      apply Keeps.foldl
      · intro a9 a11 h14
        apply Keeps.ite
        · exact releaseConn_keeps (hm.of rfl) (by assumption)
        · apply Keeps.ite
          · exact setConn_keeps (hm.of rfl) (by assumption)
          · assumption
      · assumption
    clear_value x7
    extract_lets +onlyGivenNames x15
    have h16 : Keeps m s0 x15 := by
      unfold x15
      split
      · rename_i y17 y18 y19
        apply Keeps.ite
        · exact setRf_keeps (hm.of rfl) (by assumption)
        · assumption
      · rename_i y20 y21
        assumption
    clear_value x15
    apply Keeps.ite
    · exact setRf_keeps (hm.of rfl) (by assumption)
    · assumption

theorem dropConnecting_keeps {m} {s0 : State} {p1 : State} (hm : Sub 65540 m) (k : Keeps m s0 p1) :
    Keeps m s0 (dropConnecting p1) := by
  unfold dropConnecting
  apply Keeps.foldl
  · intro a1 a2 a3
    apply Keeps.foldl
    · intro a4 a5 a6
      apply Keeps.ite
      · exact releaseConn_keeps (hm.of rfl) (by assumption)
      · assumption
    · assumption
  · assumption

theorem radioTick_keeps {m} {s0 : State} {p1 : State} (hm : Sub 67588 m) (k : Keeps m s0 p1) :
    Keeps m s0 (radioTick p1) := by
  unfold radioTick
  extract_lets +onlyGivenNames x1
  have h2 : Keeps m s0 x1 := by
    unfold x1
    apply Keeps.foldl
    · intro a3 a5 h8
      exact radioNetTick_keeps (hm.of rfl) (by assumption)
    · assumption
  clear_value x1
  apply Keeps.ite
  · assumption
  · exact endFault_keeps (hm.of rfl) (by assumption)

theorem coldRadio_keeps {m} {s0 : State} {p1 : State} (hm : Sub 65536 m) (k : Keeps m s0 p1) :
    Keeps m s0 (coldRadio p1) := by
  unfold coldRadio
  exact setMtr_keeps (hm.of rfl) (by assumption)

theorem runRadio_keeps {m} {s0 : State} {p1} {p2 : State} (hm : Sub 59399 m) (k : Keeps m s0 p2) :
    Keeps m s0 (runRadio p1 p2) := by
  unfold runRadio
  exact sendSamples_keeps (hm.of rfl) (by assumption)

theorem execStemRfSamples_keeps {m} {s0 : State} {p1} {p2 : State} (hm : Sub 129031 m) (k : Keeps m s0 p2) :
    KeepsR m s0 (execStemRfSamples p1 p2) := by
  unfold execStemRfSamples
  extract_lets +onlyGivenNames x1
  have h2 : Keeps m s0 x1 := stemRfSamples_keeps (hm.of rfl) (by assumption)
  clear_value x1
  extract_lets +onlyGivenNames x3
  clear_value x3
  apply KeepsR.next
  apply Keeps.ite
  · assumption
  · split
    · rename_i y4 y5
      assumption
    · rename_i y6 y7 y8
      apply Keeps.ite
      · assumption
      · apply Keeps.ite
        · extract_lets +onlyGivenNames x9
          have h10 : Keeps m s0 x9 := setRf_keeps (hm.of rfl) (by assumption)
          clear_value x9
          apply Keeps.ite
          · assumption
          · exact meterFault_keeps (hm.of rfl) (by assumption)
        · apply Keeps.ite
          · exact setRf_keeps (hm.of rfl) (by assumption)
          · assumption

theorem execBeaconDue_keeps {m} {s0 : State} {p1} {p2 : State} (hm : Sub 124935 m) (k : Keeps m s0 p2) :
    KeepsR m s0 (execBeaconDue p1 p2) := by
  unfold execBeaconDue
  apply KeepsR.next
  exact sendBeacon_keeps (hm.of rfl) (by assumption)

theorem execRfAdvertRx_keeps {m} {s0 : State} {p1 p2 p3 p4 p5} {p6 : State} (hm : Sub 124935 m) (k : Keeps m s0 p6) :
    KeepsR m s0 (execRfAdvertRx p1 p2 p3 p4 p5 p6) := by
  unfold execRfAdvertRx
  apply KeepsR.next
  exact radioAdvert_keeps (hm.of rfl) (by assumption)

theorem execRfConnectionEvent_keeps {m} {s0 : State} {p1 p2} {p3 : State} (hm : Sub 124935 m) (k : Keeps m s0 p3) :
    KeepsR m s0 (execRfConnectionEvent p1 p2 p3) := by
  unfold execRfConnectionEvent
  apply KeepsR.next
  exact planEvent_keeps (hm.of rfl) (by assumption)

theorem execRfAnswerRx_keeps {m} {s0 : State} {p1 p2 p3} {p4 : State} (hm : Sub 92167 m) (k : Keeps m s0 p4) :
    KeepsR m s0 (execRfAnswerRx p1 p2 p3 p4) := by
  unfold execRfAnswerRx
  apply KeepsR.next
  exact radioAnswer_keeps (hm.of rfl) (by assumption)

theorem execRfEventMissed_keeps {m} {s0 : State} {p1 p2} {p3 : State} (hm : Sub 65540 m) (k : Keeps m s0 p3) :
    KeepsR m s0 (execRfEventMissed p1 p2 p3) := by
  unfold execRfEventMissed
  apply KeepsR.next
  apply Keeps.ite
  · exact radioMissed_keeps (hm.of rfl) (by assumption)
  · assumption

theorem execRfSupervisionExpiry_keeps {m} {s0 : State} {p1 p2} {p3 : State} (hm : Sub 65540 m) (k : Keeps m s0 p3) :
    KeepsR m s0 (execRfSupervisionExpiry p1 p2 p3) := by
  unfold execRfSupervisionExpiry
  apply KeepsR.next
  apply Keeps.ite
  · exact radioSupervision_keeps (hm.of rfl) (by assumption)
  · assumption

theorem execRfAlertRx_keeps {m} {s0 : State} {p1 p2 p3} {p4 : State} (hm : Sub 92199 m) (k : Keeps m s0 p4) :
    KeepsR m s0 (execRfAlertRx p1 p2 p3 p4) := by
  unfold execRfAlertRx
  apply KeepsR.next
  with_reducible apply radioAlert_keeps (hm.of rfl)
  split
  · rename_i y1 y2 y3
    apply Keeps.ite
    · exact setConn_keeps (hm.of rfl) (by assumption)
    · assumption
  · rename_i y4 y5
    assumption

end Sys2Proof.Machine
end

