-- ==== Sys2Proof/Laws/Keeps/Mirror.lean ====
section
/-!
SUPPORT. What the operations of Machine/Mirror.lean keep.
-/

namespace Sys2Proof.Machine

theorem mirrorDrop_keeps {m} {s0 : State} {p1 : State} (hm : Sub 4096 m) (k : Keeps m s0 p1) :
    Keeps m s0 (mirrorDrop p1) := by
  unfold mirrorDrop
  exact setDuty_keeps (hm.of rfl) (by assumption)

theorem openUnder_keeps {m} {s0 : State} {p1 p2} {p3 : State} (hm : Sub 26631 m) (k : Keeps m s0 p3) :
    Keeps m s0 (openUnder p1 p2 p3).2 := by
  fun_induction openUnder
  · rename_i z1
    assumption
  · rename_i z2 z3 z4 z5 z6 z7
    have h8 : Keeps m s0 z5 := by
      refine KeepsP.get ?_ z6
      exact keyFor_keeps (hm.of rfl) (by assumption)
    with_reducible apply z7
    assumption
  · rename_i z9 z10 z11 z12 z13 z14 z15 z16
    have h17 : Keeps m s0 z13 := by
      refine KeepsP.get ?_ z14
      exact keyFor_keeps (hm.of rfl) (by assumption)
    assumption
  · rename_i z18 z19 z20 z21 z22 z23 z24 z25
    have h26 : Keeps m s0 z22 := by
      refine KeepsP.get ?_ z23
      exact keyFor_keeps (hm.of rfl) (by assumption)
    with_reducible apply z25
    assumption

theorem masterFault_keeps {m} {s0 : State} {p1 : State} (hm : Sub 10247 m) (k : Keeps m s0 p1) :
    Keeps m s0 (masterFault p1) := by
  unfold masterFault
  apply Keeps.ite
  · exact raiseFault_keeps (hm.of rfl) (by assumption)
  · assumption

theorem mirrorFrame_keeps {m} {s0 : State} {p1 p2} {p3 : State} (hm : Sub 1047215 m) (k : Keeps m s0 p3) :
    Keeps m s0 (mirrorFrame p1 p2 p3).2 := by
  unfold mirrorFrame
  split
  · rename_i y1
    assumption
  · rename_i y2
    split
    · rename_i y3
      apply Keeps.sndMk
      exact mirrorDrop_keeps (hm.of rfl) (by assumption)
    · rename_i y4
      extract_lets +onlyGivenNames x5
      clear_value x5
      split
      · rename_i y6 y7 y8
        have h9 : Keeps m s0 y7 := by
          refine KeepsP.get ?_ y8
          exact openUnder_keeps (hm.of rfl) (by assumption)
        apply Keeps.sndMk
        with_reducible apply masterFault_keeps (hm.of rfl)
        exact mirrorDrop_keeps (hm.of rfl) (by assumption)
      · rename_i y10 y11 y12 y13
        have h14 : Keeps m s0 y12 := by
          refine KeepsP.get ?_ y13
          exact openUnder_keeps (hm.of rfl) (by assumption)
        extract_lets +onlyGivenNames x15
        have h16 : Keeps m s0 x15 := by
          unfold x15
          with_reducible apply endFault_keeps (hm.of rfl)
          exact setDuty_keeps (hm.of rfl) (by assumption)
        clear_value x15
        extract_lets +onlyGivenNames x17
        have h18 : Keeps m s0 x17 := learnEpoch_keeps (hm.of rfl) (by assumption)
        clear_value x17
        extract_lets +onlyGivenNames x19
        clear_value x19
        split
        · rename_i y20
          apply Keeps.sndMk
          exact setDuty_keeps (hm.of rfl) (by assumption)
        · rename_i y21
          apply Keeps.sndMk
          exact setDuty_keeps (hm.of rfl) (by assumption)

theorem onMirror_keeps {m} {s0 : State} {p1 p2 p3} {p4 : State} (hm : Sub 1047215 m) (k : Keeps m s0 p4) (h3 : ∀ v1 v2, Keeps m s0 v2 → Keeps m s0 (p3 v1 v2)) :
    Keeps m s0 (onMirror p1 p2 p3 p4) := by
  unfold onMirror
  split
  · rename_i y1 y2 y3 y4
    have h5 : Keeps m s0 y3 := by
      refine KeepsP.get ?_ y4
      exact mirrorFrame_keeps (hm.of rfl) (by assumption)
    with_reducible apply h3
    assumption
  · rename_i y6 y7 y8
    have h9 : Keeps m s0 y7 := by
      refine KeepsP.get ?_ y8
      exact mirrorFrame_keeps (hm.of rfl) (by assumption)
    assumption

theorem putAccountHalf_keeps {m} {s0 : State} {p1 p2 p3 p4} {p5 : State} (hm : Sub 32 m) (k : Keeps m s0 p5) :
    Keeps m s0 (putAccountHalf p1 p2 p3 p4 p5) := by
  unfold putAccountHalf
  extract_lets +onlyGivenNames x1
  clear_value x1
  extract_lets +onlyGivenNames x2
  clear_value x2
  apply Keeps.ite
  · assumption
  · with_reducible apply setLed_keeps (hm.of rfl)
    · assumption
    · exact ⟨id⟩

theorem putLocalHalf_keeps {m} {s0 : State} {p1 p2 p3 p4} {p5 : State} (hm : Sub 32 m) (k : Keeps m s0 p5) :
    Keeps m s0 (putLocalHalf p1 p2 p3 p4 p5) := by
  unfold putLocalHalf
  extract_lets +onlyGivenNames x1
  clear_value x1
  extract_lets +onlyGivenNames x2
  clear_value x2
  apply Keeps.ite
  · assumption
  · with_reducible apply setLed_keeps (hm.of rfl)
    · assumption
    · exact ⟨id⟩

theorem putRegion_keeps {m} {s0 : State} {p1 p2 p3} {p4 : State} (hm : Sub 4192 m) (k : Keeps m s0 p4) :
    Keeps m s0 (putRegion p1 p2 p3 p4) := by
  unfold putRegion
  apply Keeps.ite
  · apply Keeps.foldl
    · intro a1 a3 h6
      split
      · rename_i y7 y8 y9
        extract_lets +onlyGivenNames x10
        clear_value x10
        exact putLocalHalf_keeps (hm.of rfl) (by assumption)
    · assumption
  · split
    · rename_i y11 y12 y13
      exact Keeps.rest 64 (hm.of rfl) (by assumption) rfl
    · rename_i y14 y15
      exact setDuty_keeps (hm.of rfl) (by assumption)

theorem storeWrite_keeps {m} {s0 : State} {p1 p2 p3} {p4 : State} (hm : Sub 4192 m) (k : Keeps m s0 p4) :
    Keeps m s0 (storeWrite p1 p2 p3 p4) := by
  unfold storeWrite
  apply Keeps.ite
  · exact putAccountHalf_keeps (hm.of rfl) (by assumption)
  · apply Keeps.ite
    · exact setDuty_keeps (hm.of rfl) (by assumption)
    · exact putRegion_keeps (hm.of rfl) (by assumption)

theorem takeRecord_keeps {m} {s0 : State} {p1} {p2 : State} (hm : Sub 4192 m) (k : Keeps m s0 p2) :
    Keeps m s0 (takeRecord p1 p2) := by
  unfold takeRecord
  apply Keeps.ite
  · assumption
  · apply Keeps.foldl
    · intro a1 a3 h6
      with_reducible apply setDuty_keeps (hm.of rfl)
      exact storeWrite_keeps (hm.of rfl) (by assumption)
    · assumption

theorem takeClose_keeps {m} {s0 : State} {p1} {p2 : State} (hm : Sub 4096 m) (k : Keeps m s0 p2) :
    Keeps m s0 (takeClose p1 p2) := by
  unfold takeClose
  extract_lets +onlyGivenNames x1
  clear_value x1
  extract_lets +onlyGivenNames x2
  clear_value x2
  apply Keeps.ite
  · with_reducible apply mirrorSend_keeps (hm.of rfl)
    exact setDuty_keeps (hm.of rfl) (by assumption)
  · assumption

theorem mirrorEntry_keeps {m} {s0 : State} {p1} {p2 : State} (hm : Sub 544 m) (k : Keeps m s0 p2) :
    Keeps m s0 (mirrorEntry p1 p2) := by
  unfold mirrorEntry
  extract_lets +onlyGivenNames x1
  clear_value x1
  extract_lets +onlyGivenNames x2
  clear_value x2
  extract_lets +onlyGivenNames x3
  clear_value x3
  extract_lets +onlyGivenNames x4
  clear_value x4
  with_reducible apply putEntry_keeps (hm.of rfl)
  with_reducible apply setLed_keeps (hm.of rfl)
  · assumption
  · exact ⟨id⟩

theorem mirrorJournal_keeps {m} {s0 : State} {p1} {p2 : State} (hm : Sub 4640 m) (k : Keeps m s0 p2) :
    Keeps m s0 (mirrorJournal p1 p2) := by
  unfold mirrorJournal
  extract_lets +onlyGivenNames x1
  have h2 : Keeps m s0 x1 := by
    unfold x1
    apply Keeps.foldl
    · intro a3 a5 h8
      exact mirrorEntry_keeps (hm.of rfl) (by assumption)
    · assumption
  clear_value x1
  exact setDuty_keeps (hm.of rfl) (by assumption)

theorem noteCounters_keeps {m} {s0 : State} {p1} {p2 : State} (hm : Sub 4096 m) (k : Keeps m s0 p2) :
    Keeps m s0 (noteCounters p1 p2) := by
  unfold noteCounters
  exact setDuty_keeps (hm.of rfl) (by assumption)

theorem takeCommit_keeps {m} {s0 : State} {p1} {p2 : State} (hm : Sub 4640 m) (k : Keeps m s0 p2) :
    Keeps m s0 (takeCommit p1 p2) := by
  unfold takeCommit
  extract_lets +onlyGivenNames x1
  clear_value x1
  apply Keeps.ite
  · assumption
  · extract_lets +onlyGivenNames x2
    have h3 : Keeps m s0 x2 := by
      unfold x2
      with_reducible apply writeFrontier_keeps (hm.of rfl)
      exact mirrorJournal_keeps (hm.of rfl) (by assumption)
    clear_value x2
    with_reducible apply noteCounters_keeps (hm.of rfl)
    with_reducible apply setLed_keeps (hm.of rfl)
    · assumption
    · exact ⟨id⟩

theorem takeAbort_keeps {m} {s0 : State} {p1} {p2 : State} (hm : Sub 4128 m) (k : Keeps m s0 p2) :
    Keeps m s0 (takeAbort p1 p2) := by
  unfold takeAbort
  extract_lets +onlyGivenNames x1
  clear_value x1
  apply Keeps.ite
  · assumption
  · with_reducible apply setDuty_keeps (hm.of rfl)
    with_reducible apply setLed_keeps (hm.of rfl)
    · assumption
    · exact ⟨id⟩

theorem takeConfig_keeps {m} {s0 : State} {p1} {p2 : State} (hm : Sub 4192 m) (k : Keeps m s0 p2) :
    Keeps m s0 (takeConfig p1 p2) := by
  unfold takeConfig
  apply Keeps.ite
  · exact putRegion_keeps (hm.of rfl) (by assumption)
  · assumption

theorem takeCopy_keeps {m} {s0 : State} {p1} {p2 : State} (hm : Sub 4193 m) (k : Keeps m s0 p2) :
    Keeps m s0 (takeCopy p1 p2) := by
  unfold takeCopy
  apply Keeps.ite
  · extract_lets +onlyGivenNames x1
    clear_value x1
    extract_lets +onlyGivenNames x2
    clear_value x2
    extract_lets +onlyGivenNames x3
    have h4 : Keeps m s0 x3 := by
      unfold x3
      apply Keeps.ite
      · exact putRegion_keeps (hm.of rfl) (by assumption)
      · apply Keeps.foldl
        · intro a5 a7 h10
          split
          · rename_i y11 y12 y13
            extract_lets +onlyGivenNames x14
            clear_value x14
            exact putAccountHalf_keeps (hm.of rfl) (by assumption)
        · assumption
    clear_value x3
    extract_lets +onlyGivenNames x15
    have h16 : Keeps m s0 x15.2 := draw_keeps (hm.of rfl) (by assumption)
    clear_value x15
    exact setDuty_keeps (hm.of rfl) (by assumption)
  · assumption

theorem startCopy_keeps {m} {s0 : State} {p1 : State} (hm : Sub 4100 m) (k : Keeps m s0 p1) :
    Keeps m s0 (startCopy p1) := by
  unfold startCopy
  with_reducible apply setSync_keeps (hm.of rfl)
  exact setDuty_keeps (hm.of rfl) (by assumption)

theorem meetDuty_keeps {m} {s0 : State} {p1 : State} (hm : Sub 14343 m) (k : Keeps m s0 p1) :
    Keeps m s0 (meetDuty p1) := by
  unfold meetDuty
  apply Keeps.ite
  · assumption
  · apply Keeps.ite
    · with_reducible apply raiseFault_keeps (hm.of rfl)
      exact setSync_keeps (hm.of rfl) (by assumption)
    · exact startCopy_keeps (hm.of rfl) (by assumption)

theorem dutyHears_keeps {m} {s0 : State} {p1} {p2 : State} (hm : Sub 6148 m) (k : Keeps m s0 p2) :
    Keeps m s0 (dutyHears p1 p2) := by
  unfold dutyHears
  apply Keeps.ite
  · apply Keeps.ite
    · with_reducible apply endFault_keeps (hm.of rfl)
      with_reducible apply setSync_keeps (hm.of rfl)
      exact setDuty_keeps (hm.of rfl) (by assumption)
    · assumption
  · apply Keeps.ite
    · exact setSync_keeps (hm.of rfl) (by assumption)
    · apply Keeps.ite
      · apply Keeps.ite
        · exact setSync_keeps (hm.of rfl) (by assumption)
        · assumption
      · apply Keeps.ite
        · exact setSync_keeps (hm.of rfl) (by assumption)
        · assumption

theorem finishYield_keeps {m} {s0 : State} {p1 : State} (hm : Sub 4100 m) (k : Keeps m s0 p1) :
    Keeps m s0 (finishYield p1) := by
  unfold finishYield
  split
  · rename_i y1 y2 y3
    apply Keeps.ite
    · with_reducible apply complete_keeps (hm.of rfl)
      exact setDuty_keeps (hm.of rfl) (by assumption)
    · assumption
  · rename_i y4 y5
    assumption

theorem takeHello_keeps {m} {s0 : State} {p1 p2} {p3 : State} (hm : Sub 1047215 m) (k : Keeps m s0 p3) :
    Keeps m s0 (takeHello p1 p2 p3) := by
  unfold takeHello
  extract_lets +onlyGivenNames x1
  have h2 : Keeps m s0 x1 := setDuty_keeps (hm.of rfl) (by assumption)
  clear_value x1
  extract_lets +onlyGivenNames x3
  have h4 : Keeps m s0 x3 := learnEpoch_keeps (hm.of rfl) (by assumption)
  clear_value x3
  split
  · rename_i y5 y6
    assumption
  · rename_i y7 y8
    exact dutyHears_keeps (hm.of rfl) (by assumption)
  · rename_i y9 y10
    apply Keeps.ite
    · with_reducible apply meetDuty_keeps (hm.of rfl)
      with_reducible apply toRole_keeps (hm.of rfl)
      exact finishYield_keeps (hm.of rfl) (by assumption)
    · apply Keeps.ite
      · exact setDuty_keeps (hm.of rfl) (by assumption)
      · assumption
  · rename_i y11 y12
    apply Keeps.ite
    · assumption
    · extract_lets +onlyGivenNames x13
      have h14 : Keeps m s0 x13 := finishYield_keeps (hm.of rfl) (by assumption)
      clear_value x13
      apply Keeps.ite
      · exact meetDuty_keeps (hm.of rfl) (by assumption)
      · assumption

theorem takeAck_keeps {m} {s0 : State} {p1} {p2 : State} (hm : Sub 4128 m) (k : Keeps m s0 p2) :
    Keeps m s0 (takeAck p1 p2) := by
  unfold takeAck
  extract_lets +onlyGivenNames x1
  clear_value x1
  apply Keeps.ite
  · with_reducible apply setLed_keeps (hm.of rfl)
    · exact setDuty_keeps (hm.of rfl) (by assumption)
    · exact ⟨fun h => by simp only [List.length_map]; exact h⟩
  · assumption

theorem commitAcked_keeps {m} {s0 : State} {p1 : State} (hm : Sub 4640 m) (k : Keeps m s0 p1) :
    Keeps m s0 (commitAcked p1) := by
  unfold commitAcked
  apply Keeps.foldl
  · intro a1 a3 h6
    extract_lets +onlyGivenNames x7
    clear_value x7
    extract_lets +onlyGivenNames x8
    clear_value x8
    extract_lets +onlyGivenNames x9
    clear_value x9
    with_reducible apply noteCounters_keeps (hm.of rfl)
    with_reducible apply writeFrontier_keeps (hm.of rfl)
    exact mirrorJournal_keeps (hm.of rfl) (by assumption)
  · assumption

theorem discardRecords_keeps {m} {s0 : State} {p1 : State} (hm : Sub 4128 m) (k : Keeps m s0 p1) :
    Keeps m s0 (discardRecords p1) := by
  unfold discardRecords
  extract_lets +onlyGivenNames x1
  clear_value x1
  with_reducible apply setDuty_keeps (hm.of rfl)
  apply Keeps.foldl
  · intro a2 a4 h7
    exact scrubStamps_keeps (hm.of rfl) (by assumption)
  · assumption

theorem takeOver_keeps {m} {s0 : State} {p1 : State} (hm : Sub 12853 m) (k : Keeps m s0 p1) :
    Keeps m s0 (takeOver p1) := by
  unfold takeOver
  extract_lets +onlyGivenNames x1
  clear_value x1
  extract_lets +onlyGivenNames x2
  clear_value x2
  extract_lets +onlyGivenNames x3
  have h4 : Keeps m s0 x3 := setDuty_keeps (hm.of rfl) (by assumption)
  clear_value x3
  extract_lets +onlyGivenNames x5
  have h6 : Keeps m s0 x5 := by
    unfold x5
    with_reducible apply discardRecords_keeps (hm.of rfl)
    exact commitAcked_keeps (hm.of rfl) (by assumption)
  clear_value x5
  extract_lets +onlyGivenNames x7
  have h8 : Keeps m s0 x7 := setTime_keeps (hm.of rfl) (by assumption)
  clear_value x7
  extract_lets +onlyGivenNames x9
  have h10 : Keeps m s0 x9 := by
    unfold x9
    with_reducible apply setLed_keeps (hm.of rfl)
    · assumption
    · exact ⟨id⟩
  clear_value x9
  extract_lets +onlyGivenNames x11
  clear_value x11
  with_reducible apply traceMode_keeps (hm.of rfl)
  with_reducible apply setSync_keeps (hm.of rfl)
  exact setDuty_keeps (hm.of rfl) (by assumption)

theorem takeoverActions_keeps {m} {s0 : State} {p1 : State} (hm : Sub 915495 m) (k : Keeps m s0 p1) :
    Keeps m s0 (takeoverActions p1) := by
  unfold takeoverActions
  apply Keeps.ite
  · assumption
  · extract_lets +onlyGivenNames x1
    have h2 : Keeps m s0 x1 := setDuty_keeps (hm.of rfl) (by assumption)
    clear_value x1
    with_reducible apply coldRadio_keeps (hm.of rfl)
    with_reducible apply resumeCounters_keeps (hm.of rfl)
    with_reducible apply stemTakeover_keeps (hm.of rfl)
    exact takeoverPoints_keeps (hm.of rfl) (by assumption)

theorem execBatonClaimConfirm_keeps {m} {s0 : State} {p1 : State} (hm : Sub 815669 m) (k : Keeps m s0 p1) :
    KeepsR m s0 (execBatonClaimConfirm p1) := by
  unfold execBatonClaimConfirm
  apply KeepsR.ite
  · apply KeepsR.next
    assumption
  · apply KeepsR.ite
    · apply KeepsR.next
      exact setDuty_keeps (hm.of rfl) (by assumption)
    · extract_lets +onlyGivenNames x1
      have h2 : Keeps m s0 x1 := setDuty_keeps (hm.of rfl) (by assumption)
      clear_value x1
      apply KeepsR.next
      with_reducible apply driversChanged_keeps (hm.of rfl)
      apply Keeps.ite
      · assumption
      · exact takeOver_keeps (hm.of rfl) (by assumption)

theorem execMirrorHello_keeps {m} {s0 : State} {p1} {p2 : State} (hm : Sub 1047215 m) (k : Keeps m s0 p2) :
    KeepsR m s0 (execMirrorHello p1 p2) := by
  unfold execMirrorHello
  apply KeepsR.next
  with_reducible apply onMirror_keeps (hm.of rfl)
  · assumption
  · intro a1 a3 h6
    exact takeHello_keeps (hm.of rfl) (by assumption)

theorem execMirrorRecord_keeps {m} {s0 : State} {p1} {p2 : State} (hm : Sub 1047279 m) (k : Keeps m s0 p2) :
    KeepsR m s0 (execMirrorRecord p1 p2) := by
  unfold execMirrorRecord
  apply KeepsR.next
  with_reducible apply onMirror_keeps (hm.of rfl)
  · assumption
  · intro a1 a3 h6
    exact takeRecord_keeps (hm.of rfl) (by assumption)

theorem execMirrorClose_keeps {m} {s0 : State} {p1} {p2 : State} (hm : Sub 1047215 m) (k : Keeps m s0 p2) :
    KeepsR m s0 (execMirrorClose p1 p2) := by
  unfold execMirrorClose
  apply KeepsR.next
  with_reducible apply onMirror_keeps (hm.of rfl)
  · assumption
  · intro a1 a3 h6
    exact takeClose_keeps (hm.of rfl) (by assumption)

theorem execMirrorAck_keeps {m} {s0 : State} {p1} {p2 : State} (hm : Sub 1047215 m) (k : Keeps m s0 p2) :
    KeepsR m s0 (execMirrorAck p1 p2) := by
  unfold execMirrorAck
  apply KeepsR.next
  with_reducible apply onMirror_keeps (hm.of rfl)
  · assumption
  · intro a1 a3 h6
    exact takeAck_keeps (hm.of rfl) (by assumption)

theorem execMirrorCommit_keeps {m} {s0 : State} {p1} {p2 : State} (hm : Sub 1047215 m) (k : Keeps m s0 p2) :
    KeepsR m s0 (execMirrorCommit p1 p2) := by
  unfold execMirrorCommit
  apply KeepsR.next
  with_reducible apply onMirror_keeps (hm.of rfl)
  · assumption
  · intro a1 a3 h6
    exact takeCommit_keeps (hm.of rfl) (by assumption)

theorem execMirrorAbort_keeps {m} {s0 : State} {p1} {p2 : State} (hm : Sub 1047215 m) (k : Keeps m s0 p2) :
    KeepsR m s0 (execMirrorAbort p1 p2) := by
  unfold execMirrorAbort
  apply KeepsR.next
  with_reducible apply onMirror_keeps (hm.of rfl)
  · assumption
  · intro a1 a3 h6
    exact takeAbort_keeps (hm.of rfl) (by assumption)

theorem execMirrorConfig_keeps {m} {s0 : State} {p1} {p2 : State} (hm : Sub 1047279 m) (k : Keeps m s0 p2) :
    KeepsR m s0 (execMirrorConfig p1 p2) := by
  unfold execMirrorConfig
  apply KeepsR.next
  with_reducible apply onMirror_keeps (hm.of rfl)
  · assumption
  · intro a1 a3 h6
    exact takeConfig_keeps (hm.of rfl) (by assumption)

theorem execMirrorCopy_keeps {m} {s0 : State} {p1} {p2 : State} (hm : Sub 1047279 m) (k : Keeps m s0 p2) :
    KeepsR m s0 (execMirrorCopy p1 p2) := by
  unfold execMirrorCopy
  apply KeepsR.next
  with_reducible apply onMirror_keeps (hm.of rfl)
  · assumption
  · intro a1 a3 h6
    exact takeCopy_keeps (hm.of rfl) (by assumption)

theorem execMirrorDecoupled_keeps {m} {s0 : State} {p1} {p2 : State} (hm : Sub 1047215 m) (k : Keeps m s0 p2) :
    KeepsR m s0 (execMirrorDecoupled p1 p2) := by
  unfold execMirrorDecoupled
  apply KeepsR.next
  with_reducible apply onMirror_keeps (hm.of rfl)
  · assumption
  · intro a1 a3 h6
    exact loseSync_keeps (hm.of rfl) (by assumption)

theorem execMirrorYield_keeps {m} {s0 : State} {p1} {p2 : State} (hm : Sub 1047215 m) (k : Keeps m s0 p2) :
    KeepsR m s0 (execMirrorYield p1 p2) := by
  unfold execMirrorYield
  apply KeepsR.next
  with_reducible apply onMirror_keeps (hm.of rfl)
  · assumption
  · intro a1 a3 h6
    assumption

theorem execMirrorAckTimeout_keeps {m} {s0 : State} {p1 : State} (hm : Sub 14375 m) (k : Keeps m s0 p1) :
    KeepsR m s0 (execMirrorAckTimeout p1) := by
  unfold execMirrorAckTimeout
  split
  · rename_i y1 y2
    apply KeepsR.next
    assumption
  · rename_i y3 y4 y5
    extract_lets +onlyGivenNames x6
    have h7 : Keeps m s0 x6 := mirrorSend_keeps (hm.of rfl) (by assumption)
    clear_value x6
    extract_lets +onlyGivenNames x8
    have h9 : Keeps m s0 x8 := setDuty_keeps (hm.of rfl) (by assumption)
    clear_value x8
    extract_lets +onlyGivenNames x10
    have h11 : Keeps m s0 x10 := by
      unfold x10
      with_reducible apply setLed_keeps (hm.of rfl)
      · assumption
      · exact ⟨fun h => by simp only [List.length_map]; exact h⟩
    clear_value x10
    apply KeepsR.next
    with_reducible apply raiseFault_keeps (hm.of rfl)
    exact setSync_keeps (hm.of rfl) (by assumption)

theorem execMirrorSilence_keeps {m} {s0 : State} {p1 : State} (hm : Sub 4100 m) (k : Keeps m s0 p1) :
    KeepsR m s0 (execMirrorSilence p1) := by
  unfold execMirrorSilence
  apply KeepsR.next
  with_reducible apply loseSync_keeps (hm.of rfl)
  exact setDuty_keeps (hm.of rfl) (by assumption)

theorem execResyncComplete_keeps {m} {s0 : State} {p1} {p2 : State} (hm : Sub 6148 m) (k : Keeps m s0 p2) :
    KeepsR m s0 (execResyncComplete p1 p2) := by
  unfold execResyncComplete
  apply KeepsR.next
  split
  · rename_i y1 y2
    apply Keeps.ite
    · assumption
    · extract_lets +onlyGivenNames x3
      have h4 : Keeps m s0 x3 := setDuty_keeps (hm.of rfl) (by assumption)
      clear_value x3
      extract_lets +onlyGivenNames x5
      have h6 : Keeps m s0 x5 := by
        unfold x5
        with_reducible apply endFault_keeps (hm.of rfl)
        exact setSync_keeps (hm.of rfl) (by assumption)
      clear_value x5
      split
      · rename_i y7 y8 y9
        with_reducible apply complete_keeps (hm.of rfl)
        exact setDuty_keeps (hm.of rfl) (by assumption)
      · rename_i y10 y11
        assumption
  · rename_i y12 y13
    exact dutyHears_keeps (hm.of rfl) (by assumption)
  · rename_i y14 y15 y16
    assumption

theorem execYieldTimeout_keeps {m} {s0 : State} {p1 : State} (hm : Sub 4100 m) (k : Keeps m s0 p1) :
    KeepsR m s0 (execYieldTimeout p1) := by
  unfold execYieldTimeout
  split
  · rename_i y1 y2
    apply KeepsR.next
    assumption
  · rename_i y3 y4 y5
    apply KeepsR.ite
    · apply KeepsR.next
      assumption
    · apply KeepsR.next
      with_reducible apply complete_keeps (hm.of rfl)
      exact setDuty_keeps (hm.of rfl) (by assumption)

theorem execRoleDecisionTimeout_keeps {m} {s0 : State} {p1 : State} (hm : Sub 14343 m) (k : Keeps m s0 p1) :
    KeepsR m s0 (execRoleDecisionTimeout p1) := by
  unfold execRoleDecisionTimeout
  apply KeepsR.ite
  · apply KeepsR.next
    assumption
  · split
    · rename_i y1 y2
      apply KeepsR.next
      exact setDuty_keeps (hm.of rfl) (by assumption)
    · rename_i y3 y4
      apply KeepsR.next
      apply Keeps.ite
      · assumption
      · with_reducible apply reportFault_keeps (hm.of rfl)
        with_reducible apply toRole_keeps (hm.of rfl)
        exact setSync_keeps (hm.of rfl) (by assumption)
    · rename_i y5 y6 y7
      apply KeepsR.next
      assumption

theorem cmdDutyStatus_keeps {m} (hm : Sub 0 m) : KeepsCmd m cmdDutyStatus := by
  unfold cmdDutyStatus
  apply KeepsCmd.mk
  intro s0 ctx s k
  extract_lets +onlyGivenNames x1
  clear_value x1
  exact okWith_keeps (hm.of rfl) (by assumption)

theorem cmdDutyYield_keeps {m} (hm : Sub 1047215 m) : KeepsCmd m cmdDutyYield := by
  unfold cmdDutyYield
  apply KeepsCmd.mk
  intro s0 ctx s k
  with_reducible apply checked_keeps (hm.of rfl)
  · assumption
  · apply KeepsA.ite
    · exact fail_keeps (hm.of rfl) (by assumption)
    · apply KeepsA.ite
      · exact fail_keeps (hm.of rfl) (by assumption)
      · extract_lets +onlyGivenNames x1
        have h2 : Keeps m s0 x1 := mirrorSend_keeps (hm.of rfl) (by assumption)
        clear_value x1
        apply KeepsA.accepted
        with_reducible apply setDuty_keeps (hm.of rfl)
        exact releaseBaton_keeps (hm.of rfl) (by assumption)

theorem cmdDutyTakeover_keeps {m} (hm : Sub 4096 m) : KeepsCmd m cmdDutyTakeover := by
  unfold cmdDutyTakeover
  apply KeepsCmd.mk
  intro s0 ctx s k
  extract_lets +onlyGivenNames x1
  have h2 : Keeps m s0 x1 := setDuty_keeps (hm.of rfl) (by assumption)
  clear_value x1
  with_reducible apply checked_keeps (hm.of rfl)
  · assumption
  · apply KeepsA.ite
    · exact fail_keeps (hm.of rfl) (by assumption)
    · apply KeepsA.ite
      · exact fail_keeps (hm.of rfl) (by assumption)
      · with_reducible apply okWith_keeps (hm.of rfl)
        exact claimBaton_keeps (hm.of rfl) (by assumption)

theorem cmdDutyResync_keeps {m} (hm : Sub 4132 m) : KeepsCmd m cmdDutyResync := by
  unfold cmdDutyResync
  apply KeepsCmd.mk
  intro s0 ctx s k
  extract_lets +onlyGivenNames x1
  clear_value x1
  with_reducible apply checked_keeps (hm.of rfl)
  · assumption
  · apply KeepsA.ite
    · exact fail_keeps (hm.of rfl) (by assumption)
    · apply KeepsA.ite
      · exact fail_keeps (hm.of rfl) (by assumption)
      · apply KeepsA.ite
        · exact fail_keeps (hm.of rfl) (by assumption)
        · extract_lets +onlyGivenNames x2
          clear_value x2
          extract_lets +onlyGivenNames x3
          have h4 : Keeps m s0 x3 := setDuty_keeps (hm.of rfl) (by assumption)
          clear_value x3
          extract_lets +onlyGivenNames x5
          clear_value x5
          extract_lets +onlyGivenNames x6
          have h7 : Keeps m s0 x6 := by
            unfold x6
            apply Keeps.ite
            · assumption
            · exact journal_keeps (hm.of rfl) (by assumption)
          clear_value x6
          apply KeepsA.accepted
          exact startCopy_keeps (hm.of rfl) (by assumption)

theorem execDutyStatus_keeps {m} {s0 : State} {p1} {p2 : State} (hm : Sub 8199 m) (k : Keeps m s0 p2) :
    KeepsR m s0 (execDutyStatus p1 p2) := by
  unfold execDutyStatus
  apply KeepsR.next
  with_reducible apply submit_keeps (hm.of rfl)
  · assumption
  · exact cmdDutyStatus_keeps (hm.of rfl)

theorem execDutyYield_keeps {m} {s0 : State} {p1} {p2 : State} (hm : Sub 1047215 m) (k : Keeps m s0 p2) :
    KeepsR m s0 (execDutyYield p1 p2) := by
  unfold execDutyYield
  apply KeepsR.next
  with_reducible apply submit_keeps (hm.of rfl)
  · assumption
  · exact cmdDutyYield_keeps (hm.of rfl)

theorem execDutyTakeover_keeps {m} {s0 : State} {p1} {p2 : State} (hm : Sub 12295 m) (k : Keeps m s0 p2) :
    KeepsR m s0 (execDutyTakeover p1 p2) := by
  unfold execDutyTakeover
  apply KeepsR.next
  with_reducible apply submit_keeps (hm.of rfl)
  · assumption
  · exact cmdDutyTakeover_keeps (hm.of rfl)

theorem execDutyResync_keeps {m} {s0 : State} {p1} {p2 : State} (hm : Sub 12327 m) (k : Keeps m s0 p2) :
    KeepsR m s0 (execDutyResync p1 p2) := by
  unfold execDutyResync
  apply KeepsR.next
  with_reducible apply submit_keeps (hm.of rfl)
  · assumption
  · exact cmdDutyResync_keeps (hm.of rfl)

end Sys2Proof.Machine
end

