-- ==== Sys2Proof/Laws/Keeps/FwCampaign.lean ====
section
/-!
SUPPORT. What the operations of Machine/FwCampaign.lean keep.
-/

namespace Sys2Proof.Machine

theorem setCampaign_keeps {m} {s0 : State} {p1 p2} {p3 : State} (hm : Sub 65536 m) (k : Keeps m s0 p3) :
    Keeps m s0 (setCampaign p1 p2 p3) := by
  unfold setCampaign
  split
  · rename_i y1 y2 y3
    exact setMtr_keeps (hm.of rfl) (by assumption)
  · rename_i y4 y5
    assumption

theorem campaignEvent_keeps {m} {s0 : State} {p1} {p2 : State} (hm : Sub 4 m) (k : Keeps m s0 p2) :
    Keeps m s0 (campaignEvent p1 p2) := by
  unfold campaignEvent
  split
  · rename_i y1 y2 y3
    exact raiseEvent_keeps (hm.of rfl) (by assumption)
  · rename_i y4 y5
    assumption

theorem campaignTo_keeps {m} {s0 : State} {p1 p2} {p3 : State} (hm : Sub 65540 m) (k : Keeps m s0 p3) :
    Keeps m s0 (campaignTo p1 p2 p3) := by
  unfold campaignTo
  with_reducible apply campaignEvent_keeps (hm.of rfl)
  exact setCampaign_keeps (hm.of rfl) (by assumption)

theorem dropCampaignMsgs_keeps {m} {s0 : State} {p1 p2 p3} {p4 : State} (hm : Sub 65536 m) (k : Keeps m s0 p4) :
    Keeps m s0 (dropCampaignMsgs p1 p2 p3 p4) := by
  unfold dropCampaignMsgs
  exact setMeter_keeps (hm.of rfl) (by assumption)

theorem multicastPlc_keeps {m} {s0 : State} {p1 p2 p3 p4 p5 p6} {p7 : State} (hm : Sub 124935 m) (k : Keeps m s0 p7) :
    KeepsO m s0 (multicastPlc p1 p2 p3 p4 p5 p6 p7) := by
  unfold multicastPlc
  extract_lets +onlyGivenNames x1
  clear_value x1
  extract_lets +onlyGivenNames x2
  clear_value x2
  extract_lets +onlyGivenNames x3
  clear_value x3
  extract_lets +onlyGivenNames x4
  clear_value x4
  extract_lets +onlyGivenNames x5
  clear_value x5
  extract_lets +onlyGivenNames x6
  clear_value x6
  extract_lets +onlyGivenNames x7
  clear_value x7
  extract_lets +onlyGivenNames x8
  clear_value x8
  extract_lets +onlyGivenNames x9
  clear_value x9
  extract_lets +onlyGivenNames x10
  clear_value x10
  extract_lets +onlyGivenNames x11
  clear_value x11
  split
  · rename_i y12
    exact KeepsO.none
  · rename_i y13
    extract_lets +onlyGivenNames x14
    have h15 : Keeps m s0 x14.2 := groupNext_keeps (hm.of rfl) (by assumption)
    clear_value x14
    extract_lets +onlyGivenNames x16
    have h17 : Keeps m s0 x16.2 := keyFor_keeps (hm.of rfl) (by assumption)
    clear_value x16
    split
    · rename_i y18 y19
      exact KeepsO.none
    · rename_i y20 y21 y22
      extract_lets +onlyGivenNames x23
      clear_value x23
      extract_lets +onlyGivenNames x24
      clear_value x24
      extract_lets +onlyGivenNames x25
      have h26 : Keeps m s0 x25 := setNet_keeps (hm.of rfl) (by assumption)
      clear_value x25
      apply KeepsO.some
      with_reducible apply sendPlan_keeps (hm.of rfl)
      exact occupy_keeps (hm.of rfl) (by assumption)

theorem multicastRadio_keeps {m} {s0 : State} {p1 p2 p3 p4 p5} {p6 : State} (hm : Sub 124935 m) (k : Keeps m s0 p6) :
    KeepsO m s0 (multicastRadio p1 p2 p3 p4 p5 p6) := by
  unfold multicastRadio
  split
  · rename_i y1 y2
    exact KeepsO.none
  · rename_i y3 y4 y5
    extract_lets +onlyGivenNames x6
    clear_value x6
    extract_lets +onlyGivenNames x7
    clear_value x7
    split
    · rename_i y8
      exact KeepsO.none
    · rename_i y9
      extract_lets +onlyGivenNames x10
      clear_value x10
      extract_lets +onlyGivenNames x11
      have h12 : Keeps m s0 x11.2 := groupNext_keeps (hm.of rfl) (by assumption)
      clear_value x11
      extract_lets +onlyGivenNames x13
      have h14 : Keeps m s0 x13.2 := keyFor_keeps (hm.of rfl) (by assumption)
      clear_value x13
      split
      · rename_i y15 y16
        exact KeepsO.none
      · rename_i y17 y18 y19
        extract_lets +onlyGivenNames x20
        clear_value x20
        apply KeepsO.some
        exact sendRadio_keeps (hm.of rfl) (by assumption)

theorem sendCopy_keeps {m} {s0 : State} {p1 p2 p3} {p4 : State} (hm : Sub 124935 m) (k : Keeps m s0 p4) :
    Keeps m s0 (sendCopy p1 p2 p3 p4) := by
  unfold sendCopy
  split
  · rename_i y1 y2
    assumption
  · rename_i y3 y4 y5
    split
    · rename_i y6 y7
      assumption
    · rename_i y8 y9 y10 y11 y12 y13
      split
      · rename_i y14 y15
        assumption
      · rename_i y16 y17 y18
        have h19 : Keeps m s0 y17 := by
          refine KeepsO.get ?_ y18
          split
          · rename_i y20
            exact multicastRadio_keeps (hm.of rfl) (by assumption)
          · rename_i y21
            exact multicastPlc_keeps (hm.of rfl) (by assumption)
        exact setCampaign_keeps (hm.of rfl) (by assumption)

theorem announce_keeps {m} {s0 : State} {p1 p2 p3} {p4 : State} (hm : Sub 92167 m) (k : Keeps m s0 p4) :
    Keeps m s0 (announce p1 p2 p3 p4) := by
  unfold announce
  apply Keeps.foldl
  · intro a1 a3 h6
    extract_lets +onlyGivenNames x7
    have h8 : Keeps m s0 x7 := queueGroupKey_keeps (hm.of rfl) (by assumption)
    clear_value x7
    extract_lets +onlyGivenNames x9
    have h10 : Keeps m s0 x9 := queueNow_keeps (hm.of rfl) (by assumption)
    clear_value x9
    exact setCampaign_keeps (hm.of rfl) (by assumption)
  · assumption

theorem passStep_keeps {m} {s0 : State} {p1 p2 p3 p4} {p5 : State} (hm : Sub 124935 m) (k : Keeps m s0 p5) :
    Keeps m s0 (passStep p1 p2 p3 p4 p5) := by
  unfold passStep
  extract_lets +onlyGivenNames x1
  have h2 : Keeps m s0 x1 := by
    unfold x1
    apply Keeps.foldl
    · intro a3 a5 h8
      extract_lets +onlyGivenNames x9
      clear_value x9
      apply Keeps.ite
      · exact setCampaign_keeps (hm.of rfl) (by assumption)
      · assumption
    · assumption
  clear_value x1
  apply Keeps.foldl
  · intro a10 a12 h15
    exact sendCopy_keeps (hm.of rfl) (by assumption)
  · assumption

theorem repairStep_keeps {m} {s0 : State} {p1 p2 p3 p4} {p5 : State} (hm : Sub 124935 m) (k : Keeps m s0 p5) :
    Keeps m s0 (repairStep p1 p2 p3 p4 p5) := by
  unfold repairStep
  extract_lets +onlyGivenNames x1
  clear_value x1
  apply Keeps.ite
  · extract_lets +onlyGivenNames x2
    have h3 : Keeps m s0 x2 := by
      unfold x2
      apply Keeps.foldl
      · intro a4 a6 h9
        exact queueNow_keeps (hm.of rfl) (by assumption)
      · assumption
    clear_value x2
    exact setCampaign_keeps (hm.of rfl) (by assumption)
  · apply Keeps.ite
    · assumption
    · apply Keeps.ite
      · extract_lets +onlyGivenNames x10
        have h11 : Keeps m s0 x10 := by
          unfold x10
          apply Keeps.foldl
          · intro a12 a14 h17
            extract_lets +onlyGivenNames x18
            clear_value x18
            extract_lets +onlyGivenNames x19
            clear_value x19
            extract_lets +onlyGivenNames x20
            clear_value x20
            extract_lets +onlyGivenNames x21
            clear_value x21
            extract_lets +onlyGivenNames x22
            have h23 : Keeps m s0 x22 := setCampaign_keeps (hm.of rfl) (by assumption)
            clear_value x22
            apply Keeps.foldl
            · intro a24 a26 h29
              apply Keeps.foldl
              · intro a30 a32 h35
                exact queueNow_keeps (hm.of rfl) (by assumption)
              · assumption
            · assumption
          · assumption
        clear_value x10
        exact setCampaign_keeps (hm.of rfl) (by assumption)
      · extract_lets +onlyGivenNames x36
        have h37 : Keeps m s0 x36 := by
          unfold x36
          apply Keeps.foldl
          · intro a38 a40 h43
            exact sendCopy_keeps (hm.of rfl) (by assumption)
          · assumption
        clear_value x36
        extract_lets +onlyGivenNames x44
        clear_value x44
        apply Keeps.ite
        · assumption
        · exact setCampaign_keeps (hm.of rfl) (by assumption)

theorem campaignStep_keeps {m} {s0 : State} {p1} {p2 : State} (hm : Sub 124935 m) (k : Keeps m s0 p2) :
    Keeps m s0 (campaignStep p1 p2) := by
  unfold campaignStep
  split
  · rename_i y1 y2
    assumption
  · rename_i y3 y4 y5
    split
    · rename_i y6 y7
      assumption
    · rename_i y8 y9 y10
      apply Keeps.ite
      · assumption
      · extract_lets +onlyGivenNames x11
        clear_value x11
        split
        · rename_i y12 y13
          extract_lets +onlyGivenNames x14
          have h15 : Keeps m s0 x14 := announce_keeps (hm.of rfl) (by assumption)
          clear_value x14
          extract_lets +onlyGivenNames x16
          clear_value x16
          apply Keeps.ite
          · assumption
          · exact campaignTo_keeps (hm.of rfl) (by assumption)
        · rename_i y17 y18
          extract_lets +onlyGivenNames x19
          have h20 : Keeps m s0 x19 := passStep_keeps (hm.of rfl) (by assumption)
          clear_value x19
          extract_lets +onlyGivenNames x21
          clear_value x21
          apply Keeps.ite
          · exact campaignTo_keeps (hm.of rfl) (by assumption)
          · assumption
        · rename_i y22 y23
          exact repairStep_keeps (hm.of rfl) (by assumption)
        · rename_i y24 y25 y26 y27
          assumption

theorem runFwPush_keeps {m} {s0 : State} {p1 : State} (hm : Sub 124935 m) (k : Keeps m s0 p1) :
    Keeps m s0 (runFwPush p1) := by
  unfold runFwPush
  apply Keeps.foldl
  · intro a1 a3 h6
    exact campaignStep_keeps (hm.of rfl) (by assumption)
  · assumption

theorem endCampaign_keeps {m} {s0 : State} {p1} {p2 : State} (hm : Sub 65536 m) (k : Keeps m s0 p2) :
    Keeps m s0 (endCampaign p1 p2) := by
  unfold endCampaign
  extract_lets +onlyGivenNames x1
  have h2 : Keeps m s0 x1 := setCampaign_keeps (hm.of rfl) (by assumption)
  clear_value x1
  extract_lets +onlyGivenNames x3
  clear_value x3
  exact setMtr_keeps (hm.of rfl) (by assumption)

theorem campaignOver_keeps {m} {s0 : State} {p1} {p2 : State} (hm : Sub 65540 m) (k : Keeps m s0 p2) :
    Keeps m s0 (campaignOver p1 p2) := by
  unfold campaignOver
  split
  · rename_i y1 y2
    assumption
  · rename_i y3 y4 y5
    extract_lets +onlyGivenNames x6
    clear_value x6
    apply Keeps.ite
    · assumption
    · extract_lets +onlyGivenNames x7
      have h8 : Keeps m s0 x7 := by
        unfold x7
        split
        · rename_i y9 y10 y11
          exact complete_keeps (hm.of rfl) (by assumption)
        · rename_i y12 y13
          assumption
      clear_value x7
      with_reducible apply endCampaign_keeps (hm.of rfl)
      exact campaignEvent_keeps (hm.of rfl) (by assumption)

theorem campaignsTick_keeps {m} {s0 : State} {p1 : State} (hm : Sub 65540 m) (k : Keeps m s0 p1) :
    Keeps m s0 (campaignsTick p1) := by
  unfold campaignsTick
  apply Keeps.foldl
  · intro a1 a3 h6
    exact campaignOver_keeps (hm.of rfl) (by assumption)
  · assumption

theorem activateCampaign_keeps {m} {s0 : State} {p1} {p2 : State} (hm : Sub 65540 m) (k : Keeps m s0 p2) :
    Keeps m s0 (activateCampaign p1 p2) := by
  unfold activateCampaign
  split
  · rename_i y1 y2
    assumption
  · rename_i y3 y4 y5
    apply Keeps.ite
    · assumption
    · extract_lets +onlyGivenNames x6
      clear_value x6
      extract_lets +onlyGivenNames x7
      have h8 : Keeps m s0 x7 := by
        unfold x7
        apply Keeps.foldl
        · intro a9 a11 h14
          exact dropCampaignMsgs_keeps (hm.of rfl) (by assumption)
        · assumption
      clear_value x7
      extract_lets +onlyGivenNames x15
      have h16 : Keeps m s0 x15 := by
        unfold x15
        apply Keeps.foldl
        · intro a17 a19 h22
          exact queueNow_keeps (hm.of rfl) (by assumption)
        · assumption
      clear_value x15
      extract_lets +onlyGivenNames x23
      have h24 : Keeps m s0 x23 := setCampaign_keeps (hm.of rfl) (by assumption)
      clear_value x23
      exact campaignTo_keeps (hm.of rfl) (by assumption)

theorem takeFwStatus_keeps {m} {s0 : State} {p1 p2} {p3 : State} (hm : Sub 65540 m) (k : Keeps m s0 p3) :
    Keeps m s0 (takeFwStatus p1 p2 p3) := by
  unfold takeFwStatus
  extract_lets +onlyGivenNames x1
  clear_value x1
  extract_lets +onlyGivenNames x2
  clear_value x2
  extract_lets +onlyGivenNames x3
  clear_value x3
  split
  · rename_i y4 y5
    assumption
  · rename_i y6 y7 y8
    split
    · rename_i y9 y10
      assumption
    · rename_i y11 y12 y13
      apply Keeps.ite
      · assumption
      · extract_lets +onlyGivenNames x14
        have h15 : Keeps m s0 x14 := dropCampaignMsgs_keeps (hm.of rfl) (by assumption)
        clear_value x14
        extract_lets +onlyGivenNames x16
        have h17 : Keeps m s0 x16 := by
          unfold x16
          apply Keeps.ite
          · exact setCampaign_keeps (hm.of rfl) (by assumption)
          · exact setCampaign_keeps (hm.of rfl) (by assumption)
        clear_value x16
        extract_lets +onlyGivenNames x18
        have h19 : Keeps m s0 x18 := by
          unfold x18
          apply Keeps.ite
          · exact queueNow_keeps (hm.of rfl) (by assumption)
          · assumption
        clear_value x18
        exact campaignEvent_keeps (hm.of rfl) (by assumption)

theorem coldCampaigns_keeps {m} {s0 : State} {p1 : State} (hm : Sub 65536 m) (k : Keeps m s0 p1) :
    Keeps m s0 (coldCampaigns p1) := by
  unfold coldCampaigns
  exact setMtr_keeps (hm.of rfl) (by assumption)

theorem execSepalFwStatus_keeps {m} {s0 : State} {p1} {p2 : State} (hm : Sub 65540 m) (k : Keeps m s0 p2) :
    KeepsR m s0 (execSepalFwStatus p1 p2) := by
  unfold execSepalFwStatus
  apply KeepsR.next
  apply Keeps.ite
  · with_reducible apply onMessage_keeps (hm.of rfl)
    · assumption
    · intro a1 a3 a5 h8
      exact takeFwStatus_keeps (hm.of rfl) (by assumption)
  · assumption

theorem execFwCampaignActivate_keeps {m} {s0 : State} {p1} {p2 : State} (hm : Sub 65540 m) (k : Keeps m s0 p2) :
    KeepsR m s0 (execFwCampaignActivate p1 p2) := by
  unfold execFwCampaignActivate
  apply KeepsR.next
  apply Keeps.ite
  · exact activateCampaign_keeps (hm.of rfl) (by assumption)
  · assumption

end Sys2Proof.Machine
end

