-- ==== Sys2Proof/Laws/Keeps/StemCommands.lean ====
section
/-!
SUPPORT. What the operations of Machine/StemCommands.lean keep.
-/

namespace Sys2Proof.Machine

theorem cmdStemStatus_keeps {m} (hm : Sub 0 m) : KeepsCmd m cmdStemStatus := by
  unfold cmdStemStatus
  apply KeepsCmd.mk
  intro s0 ctx s k
  exact okWith_keeps (hm.of rfl) (by assumption)

theorem cmdStemBridgeSet_keeps {m} (hm : Sub 59399 m) : KeepsCmd m cmdStemBridgeSet := by
  unfold cmdStemBridgeSet
  apply KeepsCmd.mk
  intro s0 ctx s k
  extract_lets +onlyGivenNames x1
  clear_value x1
  extract_lets +onlyGivenNames x2
  clear_value x2
  extract_lets +onlyGivenNames x3
  clear_value x3
  with_reducible apply checked_keeps (hm.of rfl)
  · assumption
  · extract_lets +onlyGivenNames x4
    clear_value x4
    split
    · rename_i y5 y6
      exact fail_keeps (hm.of rfl) (by assumption)
    · rename_i y7 y8 y9
      have h10 : Keeps m s0 y8 := by
        refine KeepsO.get ?_ y9
        with_reducible apply bridgeChange_keeps (hm.of rfl)
        exact bridgesAhead_keeps (hm.of rfl) (by assumption)
      extract_lets +onlyGivenNames x11
      clear_value x11
      with_reducible apply okWith_keeps (hm.of rfl)
      exact setStem_keeps (hm.of rfl) (by assumption)

theorem cmdStemTxSet_keeps {m} (hm : Sub 59463 m) : KeepsCmd m cmdStemTxSet := by
  unfold cmdStemTxSet
  apply KeepsCmd.mk
  intro s0 ctx s k
  extract_lets +onlyGivenNames x1
  clear_value x1
  extract_lets +onlyGivenNames x2
  clear_value x2
  with_reducible apply checked_keeps (hm.of rfl)
  · assumption
  · apply KeepsA.ite
    · exact fail_keeps (hm.of rfl) (by assumption)
    · split
      · rename_i y3 y4
        exact fail_keeps (hm.of rfl) (by assumption)
      · rename_i y5 y6 y7
        extract_lets +onlyGivenNames x8
        clear_value x8
        extract_lets +onlyGivenNames x9
        clear_value x9
        extract_lets +onlyGivenNames x10
        clear_value x10
        extract_lets +onlyGivenNames x11
        clear_value x11
        extract_lets +onlyGivenNames x12
        clear_value x12
        extract_lets +onlyGivenNames x13
        clear_value x13
        extract_lets +onlyGivenNames x14
        have h15 : Keeps m s0 x14 := by
          unfold x14
          exact Keeps.rest 64 (hm.of rfl) (by assumption) rfl
        clear_value x14
        apply KeepsA.accepted
        with_reducible apply withdrawPlans_keeps (hm.of rfl)
        exact armGen_keeps (hm.of rfl) (by assumption)

theorem applyTxPlan_keeps {m} {s0 : State} {p1 p2} {p3 : State} (hm : Sub 32772 m) (k : Keeps m s0 p3) :
    Keeps m s0 (applyTxPlan p1 p2 p3) := by
  unfold applyTxPlan
  apply Keeps.foldl
  · intro a1 a3 h6
    exact complete_keeps (hm.of rfl) (by assumption)
  · exact setStem_keeps (hm.of rfl) (by assumption)

theorem cmdStemBridgeRead_keeps {m} (hm : Sub 1 m) : KeepsCmd m cmdStemBridgeRead := by
  unfold cmdStemBridgeRead
  apply KeepsCmd.mk
  intro s0 ctx s k
  extract_lets +onlyGivenNames x1
  clear_value x1
  extract_lets +onlyGivenNames x2
  clear_value x2
  with_reducible apply checked_keeps (hm.of rfl)
  · assumption
  · apply KeepsA.ite
    · exact fail_keeps (hm.of rfl) (by assumption)
    · extract_lets +onlyGivenNames x3
      have h4 : Keeps m s0 x3.2 := draw_keeps (hm.of rfl) (by assumption)
      clear_value x3
      extract_lets +onlyGivenNames x5
      clear_value x5
      exact okWith_keeps (hm.of rfl) (by assumption)

theorem cmdPlcPollSet_keeps {m} (hm : Sub 68 m) : KeepsCmd m cmdPlcPollSet := by
  unfold cmdPlcPollSet
  apply KeepsCmd.mk
  intro s0 ctx s k
  extract_lets +onlyGivenNames x1
  clear_value x1
  extract_lets +onlyGivenNames x2
  clear_value x2
  extract_lets +onlyGivenNames x3
  clear_value x3
  extract_lets +onlyGivenNames x4
  clear_value x4
  extract_lets +onlyGivenNames x5
  clear_value x5
  with_reducible apply checked_keeps (hm.of rfl)
  · assumption
  · apply KeepsA.ite
    · exact fail_keeps (hm.of rfl) (by assumption)
    · split
      · rename_i y6 y7
        exact fail_keeps (hm.of rfl) (by assumption)
      · rename_i y8 y9 y10
        with_reducible apply okWith_keeps (hm.of rfl)
        exact armGen_keeps (hm.of rfl) (by assumption)

theorem applyPlcProfile_keeps {m} {s0 : State} {p1 p2} {p3 : State} (hm : Sub 32768 m) (k : Keeps m s0 p3) :
    Keeps m s0 (applyPlcProfile p1 p2 p3) := by
  unfold applyPlcProfile
  exact setStem_keeps (hm.of rfl) (by assumption)

theorem cmdPlcNetworkRead_keeps {m} (hm : Sub 0 m) : KeepsCmd m cmdPlcNetworkRead := by
  unfold cmdPlcNetworkRead
  apply KeepsCmd.mk
  intro s0 ctx s k
  extract_lets +onlyGivenNames x1
  clear_value x1
  extract_lets +onlyGivenNames x2
  clear_value x2
  with_reducible apply checked_keeps (hm.of rfl)
  · assumption
  · apply KeepsA.ite
    · exact fail_keeps (hm.of rfl) (by assumption)
    · extract_lets +onlyGivenNames x3
      clear_value x3
      extract_lets +onlyGivenNames x4
      clear_value x4
      extract_lets +onlyGivenNames x5
      clear_value x5
      extract_lets +onlyGivenNames x6
      clear_value x6
      exact okWith_keeps (hm.of rfl) (by assumption)

theorem cmdPlcNodeRead_keeps {m} (hm : Sub 0 m) : KeepsCmd m cmdPlcNodeRead := by
  unfold cmdPlcNodeRead
  apply KeepsCmd.mk
  intro s0 ctx s k
  extract_lets +onlyGivenNames x1
  clear_value x1
  extract_lets +onlyGivenNames x2
  clear_value x2
  with_reducible apply checked_keeps (hm.of rfl)
  · assumption
  · apply KeepsA.ite
    · exact fail_keeps (hm.of rfl) (by assumption)
    · extract_lets +onlyGivenNames x3
      clear_value x3
      extract_lets +onlyGivenNames x4
      clear_value x4
      extract_lets +onlyGivenNames x5
      clear_value x5
      extract_lets +onlyGivenNames x6
      clear_value x6
      extract_lets +onlyGivenNames x7
      clear_value x7
      exact okWith_keeps (hm.of rfl) (by assumption)

theorem execStemStatus_keeps {m} {s0 : State} {p1} {p2 : State} (hm : Sub 8199 m) (k : Keeps m s0 p2) :
    KeepsR m s0 (execStemStatus p1 p2) := by
  unfold execStemStatus
  apply KeepsR.next
  with_reducible apply submit_keeps (hm.of rfl)
  · assumption
  · exact cmdStemStatus_keeps (hm.of rfl)

theorem execStemBridgeSet_keeps {m} {s0 : State} {p1} {p2 : State} (hm : Sub 59399 m) (k : Keeps m s0 p2) :
    KeepsR m s0 (execStemBridgeSet p1 p2) := by
  unfold execStemBridgeSet
  apply KeepsR.next
  with_reducible apply submit_keeps (hm.of rfl)
  · assumption
  · exact cmdStemBridgeSet_keeps (hm.of rfl)

theorem execStemTxSet_keeps {m} {s0 : State} {p1} {p2 : State} (hm : Sub 59463 m) (k : Keeps m s0 p2) :
    KeepsR m s0 (execStemTxSet p1 p2) := by
  unfold execStemTxSet
  apply KeepsR.next
  with_reducible apply submit_keeps (hm.of rfl)
  · assumption
  · exact cmdStemTxSet_keeps (hm.of rfl)

theorem execStemBridgeRead_keeps {m} {s0 : State} {p1} {p2 : State} (hm : Sub 8199 m) (k : Keeps m s0 p2) :
    KeepsR m s0 (execStemBridgeRead p1 p2) := by
  unfold execStemBridgeRead
  apply KeepsR.next
  with_reducible apply submit_keeps (hm.of rfl)
  · assumption
  · exact cmdStemBridgeRead_keeps (hm.of rfl)

theorem execPlcPollSet_keeps {m} {s0 : State} {p1} {p2 : State} (hm : Sub 8263 m) (k : Keeps m s0 p2) :
    KeepsR m s0 (execPlcPollSet p1 p2) := by
  unfold execPlcPollSet
  apply KeepsR.next
  with_reducible apply submit_keeps (hm.of rfl)
  · assumption
  · exact cmdPlcPollSet_keeps (hm.of rfl)

theorem execPlcNetworkRead_keeps {m} {s0 : State} {p1} {p2 : State} (hm : Sub 8199 m) (k : Keeps m s0 p2) :
    KeepsR m s0 (execPlcNetworkRead p1 p2) := by
  unfold execPlcNetworkRead
  apply KeepsR.next
  with_reducible apply submit_keeps (hm.of rfl)
  · assumption
  · exact cmdPlcNetworkRead_keeps (hm.of rfl)

theorem execPlcNodeRead_keeps {m} {s0 : State} {p1} {p2 : State} (hm : Sub 8199 m) (k : Keeps m s0 p2) :
    KeepsR m s0 (execPlcNodeRead p1 p2) := by
  unfold execPlcNodeRead
  apply KeepsR.next
  with_reducible apply submit_keeps (hm.of rfl)
  · assumption
  · exact cmdPlcNodeRead_keeps (hm.of rfl)

end Sys2Proof.Machine
end

