-- ==== Sys2Proof/Laws/Keeps/MtrCommands.lean ====
section
/-!
SUPPORT. What the operations of Machine/MtrCommands.lean keep.
-/

namespace Sys2Proof.Machine

theorem cmdRfNetworkSet_keeps {m} (hm : Sub 68 m) : KeepsCmd m cmdRfNetworkSet := by
  unfold cmdRfNetworkSet
  apply KeepsCmd.mk
  intro s0 ctx s k
  extract_lets +onlyGivenNames x1
  clear_value x1
  extract_lets +onlyGivenNames x2
  clear_value x2
  extract_lets +onlyGivenNames x3
  clear_value x3
  extract_lets +onlyGivenNames x4
  clear_value x4
  extract_lets +onlyGivenNames x5
  clear_value x5
  extract_lets +onlyGivenNames x6
  clear_value x6
  with_reducible apply checked_keeps (hm.of rfl)
  · assumption
  · apply KeepsA.ite
    · exact fail_keeps (hm.of rfl) (by assumption)
    · apply KeepsA.ite
      · exact fail_keeps (hm.of rfl) (by assumption)
      · apply KeepsA.ite
        · exact fail_keeps (hm.of rfl) (by assumption)
        · split
          · rename_i y7 y8
            exact fail_keeps (hm.of rfl) (by assumption)
          · rename_i y9 y10 y11
            with_reducible apply okWith_keeps (hm.of rfl)
            exact armGen_keeps (hm.of rfl) (by assumption)

theorem cmdRfNetworkRead_keeps {m} (hm : Sub 0 m) : KeepsCmd m cmdRfNetworkRead := by
  unfold cmdRfNetworkRead
  apply KeepsCmd.mk
  intro s0 ctx s k
  extract_lets +onlyGivenNames x1
  clear_value x1
  with_reducible apply checked_keeps (hm.of rfl)
  · assumption
  · split
    · rename_i y2 y3
      exact fail_keeps (hm.of rfl) (by assumption)
    · rename_i y4 y5 y6
      extract_lets +onlyGivenNames x7
      clear_value x7
      extract_lets +onlyGivenNames x8
      clear_value x8
      exact okWith_keeps (hm.of rfl) (by assumption)

theorem cmdRfConnRead_keeps {m} (hm : Sub 0 m) : KeepsCmd m cmdRfConnRead := by
  unfold cmdRfConnRead
  apply KeepsCmd.mk
  intro s0 ctx s k
  extract_lets +onlyGivenNames x1
  clear_value x1
  extract_lets +onlyGivenNames x2
  clear_value x2
  with_reducible apply checked_keeps (hm.of rfl)
  · assumption
  · split
    · rename_i y3 y4
      exact fail_keeps (hm.of rfl) (by assumption)
    · rename_i y5 y6 y7
      extract_lets +onlyGivenNames x8
      clear_value x8
      extract_lets +onlyGivenNames x9
      clear_value x9
      extract_lets +onlyGivenNames x10
      clear_value x10
      extract_lets +onlyGivenNames x11
      clear_value x11
      exact okWith_keeps (hm.of rfl) (by assumption)

theorem cmdMtrBind_keeps {m} (hm : Sub 65536 m) : KeepsCmd m cmdMtrBind := by
  unfold cmdMtrBind
  apply KeepsCmd.mk
  intro s0 ctx s k
  extract_lets +onlyGivenNames x1
  clear_value x1
  extract_lets +onlyGivenNames x2
  clear_value x2
  extract_lets +onlyGivenNames x3
  clear_value x3
  extract_lets +onlyGivenNames x4
  clear_value x4
  with_reducible apply checked_keeps (hm.of rfl)
  · assumption
  · apply KeepsA.ite
    · exact fail_keeps (hm.of rfl) (by assumption)
    · apply KeepsA.ite
      · exact fail_keeps (hm.of rfl) (by assumption)
      · apply KeepsA.ite
        · exact fail_keeps (hm.of rfl) (by assumption)
        · with_reducible apply okWith_keeps (hm.of rfl)
          exact setMtr_keeps (hm.of rfl) (by assumption)

theorem cmdMtrRead_keeps {m} (hm : Sub 0 m) : KeepsCmd m cmdMtrRead := by
  unfold cmdMtrRead
  apply KeepsCmd.mk
  intro s0 ctx s k
  extract_lets +onlyGivenNames x1
  clear_value x1
  with_reducible apply checked_keeps (hm.of rfl)
  · assumption
  · split
    · rename_i y2 y3
      exact fail_keeps (hm.of rfl) (by assumption)
    · rename_i y4 y5 y6
      exact okWith_keeps (hm.of rfl) (by assumption)

theorem cmdMtrRequest_keeps {m} (hm : Sub 65536 m) : KeepsCmd m cmdMtrRequest := by
  unfold cmdMtrRequest
  apply KeepsCmd.mk
  intro s0 ctx s k
  extract_lets +onlyGivenNames x1
  clear_value x1
  extract_lets +onlyGivenNames x2
  clear_value x2
  with_reducible apply checked_keeps (hm.of rfl)
  · assumption
  · split
    · rename_i y3 y4
      exact fail_keeps (hm.of rfl) (by assumption)
    · rename_i y5 y6 y7
      apply KeepsA.ite
      · exact fail_keeps (hm.of rfl) (by assumption)
      · apply KeepsA.ite
        · exact fail_keeps (hm.of rfl) (by assumption)
        · extract_lets +onlyGivenNames x8
          have h9 : Keeps m s0 x8 := setMeter_keeps (hm.of rfl) (by assumption)
          clear_value x8
          extract_lets +onlyGivenNames x10
          apply KeepsA.accepted
          apply Keeps.ite
          · unfold x10
            exact queueMsg_keeps (hm.of rfl) (by assumption)
          · apply Keeps.ite
            · unfold x10
              exact queueMsg_keeps (hm.of rfl) (by assumption)
            · apply Keeps.ite
              · exact startKeyChange_keeps (hm.of rfl) (by assumption)
              · unfold x10
                exact queueMsg_keeps (hm.of rfl) (by assumption)

theorem cmdMtrFwStage_keeps {m} (hm : Sub 2 m) : KeepsCmd m cmdMtrFwStage := by
  unfold cmdMtrFwStage
  apply KeepsCmd.mk
  intro s0 ctx s k
  extract_lets +onlyGivenNames x1
  clear_value x1
  extract_lets +onlyGivenNames x2
  clear_value x2
  extract_lets +onlyGivenNames x3
  clear_value x3
  with_reducible apply checked_keeps (hm.of rfl)
  · assumption
  · apply KeepsA.ite
    · exact fail_keeps (hm.of rfl) (by assumption)
    · apply KeepsA.accepted
      exact openChannel_keeps (hm.of rfl) (by assumption)

theorem imageReceived_keeps {m} {s0 : State} {p1} {p2 : State} (hm : Sub 65540 m) (k : Keeps m s0 p2) :
    Keeps m s0 (imageReceived p1 p2) := by
  unfold imageReceived
  extract_lets +onlyGivenNames x1
  clear_value x1
  extract_lets +onlyGivenNames x2
  clear_value x2
  apply Keeps.ite
  · exact complete_keeps (hm.of rfl) (by assumption)
  · apply Keeps.ite
    · exact complete_keeps (hm.of rfl) (by assumption)
    · with_reducible apply complete_keeps (hm.of rfl)
      exact setMtr_keeps (hm.of rfl) (by assumption)

theorem startCampaign_keeps {m} {s0 : State} {p1 p2 p3} {p4 : State} (hm : Sub 65540 m) (k : Keeps m s0 p4) :
    Keeps m s0 (startCampaign p1 p2 p3 p4) := by
  unfold startCampaign
  extract_lets +onlyGivenNames x1
  clear_value x1
  extract_lets +onlyGivenNames x2
  clear_value x2
  extract_lets +onlyGivenNames x3
  clear_value x3
  extract_lets +onlyGivenNames x4
  clear_value x4
  extract_lets +onlyGivenNames x5
  clear_value x5
  extract_lets +onlyGivenNames x6
  clear_value x6
  with_reducible apply campaignEvent_keeps (hm.of rfl)
  exact setMtr_keeps (hm.of rfl) (by assumption)

theorem campaignAction_keeps {m} {s0 : State} {p1 p2} {p3 : State} (hm : Sub 65540 m) (k : Keeps m s0 p3) :
    Keeps m s0 (campaignAction p1 p2 p3) := by
  unfold campaignAction
  split
  · rename_i y1 y2
    assumption
  · rename_i y3 y4 y5
    apply Keeps.ite
    · apply Keeps.ite
      · assumption
      · with_reducible apply campaignEvent_keeps (hm.of rfl)
        exact setCampaign_keeps (hm.of rfl) (by assumption)
    · apply Keeps.ite
      · apply Keeps.ite
        · extract_lets +onlyGivenNames x6
          have h7 : Keeps m s0 x6 := by
            unfold x6
            with_reducible apply campaignEvent_keeps (hm.of rfl)
            exact setCampaign_keeps (hm.of rfl) (by assumption)
          clear_value x6
          apply Keeps.ite
          · exact activateCampaign_keeps (hm.of rfl) (by assumption)
          · assumption
        · assumption
      · extract_lets +onlyGivenNames x8
        have h9 : Keeps m s0 x8 := by
          unfold x8
          apply Keeps.foldl
          · intro a10 a12 h15
            exact dropCampaignMsgs_keeps (hm.of rfl) (by assumption)
          · assumption
        clear_value x8
        extract_lets +onlyGivenNames x16
        have h17 : Keeps m s0 x16 := setCampaign_keeps (hm.of rfl) (by assumption)
        clear_value x16
        extract_lets +onlyGivenNames x18
        have h19 : Keeps m s0 x18 := by
          unfold x18
          split
          · rename_i y20 y21 y22
            exact complete_keeps (hm.of rfl) (by assumption)
          · rename_i y23 y24
            assumption
        clear_value x18
        with_reducible apply endCampaign_keeps (hm.of rfl)
        exact campaignTo_keeps (hm.of rfl) (by assumption)

theorem cmdMtrFwCampaign_keeps {m} (hm : Sub 65540 m) : KeepsCmd m cmdMtrFwCampaign := by
  unfold cmdMtrFwCampaign
  apply KeepsCmd.mk
  intro s0 ctx s k
  extract_lets +onlyGivenNames x1
  clear_value x1
  extract_lets +onlyGivenNames x2
  clear_value x2
  extract_lets +onlyGivenNames x3
  clear_value x3
  extract_lets +onlyGivenNames x4
  clear_value x4
  extract_lets +onlyGivenNames x5
  clear_value x5
  with_reducible apply checked_keeps (hm.of rfl)
  · assumption
  · apply KeepsA.ite
    · apply KeepsA.ite
      · exact fail_keeps (hm.of rfl) (by assumption)
      · apply KeepsA.ite
        · exact fail_keeps (hm.of rfl) (by assumption)
        · split
          · rename_i y6 y7
            exact fail_keeps (hm.of rfl) (by assumption)
          · rename_i y8 y9 y10
            apply KeepsA.accepted
            exact startCampaign_keeps (hm.of rfl) (by assumption)
    · split
      · rename_i y11
        exact fail_keeps (hm.of rfl) (by assumption)
      · rename_i y12 y13
        apply KeepsA.accepted
        with_reducible apply complete_keeps (hm.of rfl)
        exact campaignAction_keeps (hm.of rfl) (by assumption)

theorem cmdMtrFwStatus_keeps {m} (hm : Sub 0 m) : KeepsCmd m cmdMtrFwStatus := by
  unfold cmdMtrFwStatus
  apply KeepsCmd.mk
  intro s0 ctx s k
  with_reducible apply checked_keeps (hm.of rfl)
  · assumption
  · split
    · rename_i y1 y2
      exact fail_keeps (hm.of rfl) (by assumption)
    · rename_i y3 y4 y5
      exact okWith_keeps (hm.of rfl) (by assumption)

theorem execRfNetworkSet_keeps {m} {s0 : State} {p1} {p2 : State} (hm : Sub 8263 m) (k : Keeps m s0 p2) :
    KeepsR m s0 (execRfNetworkSet p1 p2) := by
  unfold execRfNetworkSet
  apply KeepsR.next
  with_reducible apply submit_keeps (hm.of rfl)
  · assumption
  · exact cmdRfNetworkSet_keeps (hm.of rfl)

theorem execRfNetworkRead_keeps {m} {s0 : State} {p1} {p2 : State} (hm : Sub 8199 m) (k : Keeps m s0 p2) :
    KeepsR m s0 (execRfNetworkRead p1 p2) := by
  unfold execRfNetworkRead
  apply KeepsR.next
  with_reducible apply submit_keeps (hm.of rfl)
  · assumption
  · exact cmdRfNetworkRead_keeps (hm.of rfl)

theorem execRfConnRead_keeps {m} {s0 : State} {p1} {p2 : State} (hm : Sub 8199 m) (k : Keeps m s0 p2) :
    KeepsR m s0 (execRfConnRead p1 p2) := by
  unfold execRfConnRead
  apply KeepsR.next
  with_reducible apply submit_keeps (hm.of rfl)
  · assumption
  · exact cmdRfConnRead_keeps (hm.of rfl)

theorem execMtrBind_keeps {m} {s0 : State} {p1} {p2 : State} (hm : Sub 73735 m) (k : Keeps m s0 p2) :
    KeepsR m s0 (execMtrBind p1 p2) := by
  unfold execMtrBind
  apply KeepsR.next
  with_reducible apply submit_keeps (hm.of rfl)
  · assumption
  · exact cmdMtrBind_keeps (hm.of rfl)

theorem execMtrRead_keeps {m} {s0 : State} {p1} {p2 : State} (hm : Sub 8199 m) (k : Keeps m s0 p2) :
    KeepsR m s0 (execMtrRead p1 p2) := by
  unfold execMtrRead
  apply KeepsR.next
  with_reducible apply submit_keeps (hm.of rfl)
  · assumption
  · exact cmdMtrRead_keeps (hm.of rfl)

theorem execMtrRequest_keeps {m} {s0 : State} {p1} {p2 : State} (hm : Sub 73735 m) (k : Keeps m s0 p2) :
    KeepsR m s0 (execMtrRequest p1 p2) := by
  unfold execMtrRequest
  apply KeepsR.next
  with_reducible apply submit_keeps (hm.of rfl)
  · assumption
  · exact cmdMtrRequest_keeps (hm.of rfl)

theorem execMtrFwStage_keeps {m} {s0 : State} {p1} {p2 : State} (hm : Sub 8199 m) (k : Keeps m s0 p2) :
    KeepsR m s0 (execMtrFwStage p1 p2) := by
  unfold execMtrFwStage
  apply KeepsR.next
  with_reducible apply submit_keeps (hm.of rfl)
  · assumption
  · exact cmdMtrFwStage_keeps (hm.of rfl)

theorem execMtrFwCampaign_keeps {m} {s0 : State} {p1} {p2 : State} (hm : Sub 73735 m) (k : Keeps m s0 p2) :
    KeepsR m s0 (execMtrFwCampaign p1 p2) := by
  unfold execMtrFwCampaign
  apply KeepsR.next
  with_reducible apply submit_keeps (hm.of rfl)
  · assumption
  · exact cmdMtrFwCampaign_keeps (hm.of rfl)

theorem execMtrFwStatus_keeps {m} {s0 : State} {p1} {p2 : State} (hm : Sub 8199 m) (k : Keeps m s0 p2) :
    KeepsR m s0 (execMtrFwStatus p1 p2) := by
  unfold execMtrFwStatus
  apply KeepsR.next
  with_reducible apply submit_keeps (hm.of rfl)
  · assumption
  · exact cmdMtrFwStatus_keeps (hm.of rfl)

end Sys2Proof.Machine
end

