-- ==== Sys2Proof/Laws/Keeps/Service.lean ====
section
/-!
SUPPORT. What the operations of Machine/Service.lean keep.
-/

namespace Sys2Proof.Machine

theorem setSvc_keeps {m} {s0 : State} {p1} {p2 : State} (hm : Sub 8192 m) (k : Keeps m s0 p2) :
    Keeps m s0 (setSvc p1 p2) := by
  unfold setSvc
  exact Keeps.rest 8192 (hm.of rfl) (by assumption) rfl

theorem updateStep_keeps {m} {s0 : State} {p1 p2 p3 p4 p5} {p6 : State} (hm : Sub 8197 m) (k : Keeps m s0 p6) :
    Keeps m s0 (updateStep p1 p2 p3 p4 p5 p6) := by
  unfold updateStep
  extract_lets +onlyGivenNames x1
  have h2 : Keeps m s0 x1 := raiseEvent_keeps (hm.of rfl) (by assumption)
  clear_value x1
  exact traceWrite_keeps (hm.of rfl) (by assumption)

theorem beginStage_keeps {m} {s0 : State} {p1 : State} (hm : Sub 8448 m) (k : Keeps m s0 p1) :
    Keeps m s0 (beginStage p1) := by
  unfold beginStage
  apply Keeps.ite
  · extract_lets +onlyGivenNames x1
    have h2 : Keeps m s0 x1 := setBuildBank_keeps (hm.of rfl) (by assumption)
    clear_value x1
    exact Keeps.rest 256 (hm.of rfl) (by assumption) rfl
  · extract_lets +onlyGivenNames x3
    clear_value x3
    extract_lets +onlyGivenNames x4
    clear_value x4
    extract_lets +onlyGivenNames x5
    have h6 : Keeps m s0 x5 := setBuildBank_keeps (hm.of rfl) (by assumption)
    clear_value x5
    exact Keeps.rest 8448 (hm.of rfl) (by assumption) rfl

theorem endStage_keeps {m} {s0 : State} {p1 : State} (hm : Sub 8448 m) (k : Keeps m s0 p1) :
    Keeps m s0 (endStage p1) := by
  unfold endStage
  extract_lets +onlyGivenNames x1
  clear_value x1
  extract_lets +onlyGivenNames x2
  clear_value x2
  extract_lets +onlyGivenNames x3
  have h4 : Keeps m s0 x3 := by
    unfold x3
    exact Keeps.rest 256 (hm.of rfl) (by assumption) rfl
  clear_value x3
  apply Keeps.ite
  · with_reducible apply setSvc_keeps (hm.of rfl)
    exact setBuildBank_keeps (hm.of rfl) (by assumption)
  · assumption

theorem writeImage_keeps {m} {s0 : State} {p1 p2} {p3 : State} (hm : Sub 256 m) (k : Keeps m s0 p3) :
    Keeps m s0 (writeImage p1 p2 p3) := by
  unfold writeImage
  extract_lets +onlyGivenNames x1
  clear_value x1
  extract_lets +onlyGivenNames x2
  clear_value x2
  exact setBuildBank_keeps (hm.of rfl) (by assumption)

theorem stageDone_keeps {m} {s0 : State} {p1 p2} {p3 : State} (hm : Sub 8453 m) (k : Keeps m s0 p3) :
    Keeps m s0 (stageDone p1 p2 p3) := by
  unfold stageDone
  extract_lets +onlyGivenNames x1
  have h2 : Keeps m s0 x1 := by
    unfold x1
    with_reducible apply endStage_keeps (hm.of rfl)
    exact writeImage_keeps (hm.of rfl) (by assumption)
  clear_value x1
  extract_lets +onlyGivenNames x3
  clear_value x3
  exact updateStep_keeps (hm.of rfl) (by assumption)

theorem imageReport_keeps {m} {s0 : State} {p1} {p2 : State} (hm : Sub 10247 m) (k : Keeps m s0 p2) :
    Keeps m s0 (imageReport p1 p2) := by
  unfold imageReport
  apply Keeps.ite
  · exact reportFault_keeps (hm.of rfl) (by assumption)
  · assumption

theorem imageStaged_keeps {m} {s0 : State} {p1} {p2 : State} (hm : Sub 10503 m) (k : Keeps m s0 p2) :
    Keeps m s0 (imageStaged p1 p2) := by
  unfold imageStaged
  extract_lets +onlyGivenNames x1
  clear_value x1
  split
  · rename_i y2 y3 y4
    extract_lets +onlyGivenNames x5
    have h6 : Keeps m s0 x5 := by
      unfold x5
      apply Keeps.ite
      · assumption
      · with_reducible apply imageReport_keeps (hm.of rfl)
        exact endStage_keeps (hm.of rfl) (by assumption)
    clear_value x5
    exact complete_keeps (hm.of rfl) (by assumption)
  · rename_i y7 y8
    extract_lets +onlyGivenNames x9
    have h10 : Keeps m s0 x9 := by
      unfold x9
      apply Keeps.ite
      · assumption
      · exact stageDone_keeps (hm.of rfl) (by assumption)
    clear_value x9
    exact complete_keeps (hm.of rfl) (by assumption)

theorem cmdSvcStage_keeps {m} (hm : Sub 8450 m) : KeepsCmd m cmdSvcStage := by
  unfold cmdSvcStage
  apply KeepsCmd.mk
  intro s0 ctx s k
  extract_lets +onlyGivenNames x1
  clear_value x1
  extract_lets +onlyGivenNames x2
  clear_value x2
  extract_lets +onlyGivenNames x3
  clear_value x3
  extract_lets +onlyGivenNames x4
  clear_value x4
  with_reducible apply checked_keeps (hm.of rfl)
  · assumption
  · apply KeepsA.ite
    · exact fail_keeps (hm.of rfl) (by assumption)
    · extract_lets +onlyGivenNames x5
      have h6 : Keeps m s0 x5 := by
        unfold x5
        apply Keeps.ite
        · assumption
        · exact beginStage_keeps (hm.of rfl) (by assumption)
      clear_value x5
      apply KeepsA.accepted
      exact receiveTransfer_keeps (hm.of rfl) (by assumption)

theorem commitBank_keeps {m} {s0 : State} {p1 : State} (hm : Sub 8453 m) (k : Keeps m s0 p1) :
    Keeps m s0 (commitBank p1) := by
  unfold commitBank
  extract_lets +onlyGivenNames x1
  clear_value x1
  extract_lets +onlyGivenNames x2
  clear_value x2
  extract_lets +onlyGivenNames x3
  clear_value x3
  extract_lets +onlyGivenNames x4
  have h5 : Keeps m s0 x4 := setBuildBank_keeps (hm.of rfl) (by assumption)
  clear_value x4
  extract_lets +onlyGivenNames x6
  have h7 : Keeps m s0 x6 := setSvc_keeps (hm.of rfl) (by assumption)
  clear_value x6
  exact updateStep_keeps (hm.of rfl) (by assumption)

theorem useBank_keeps {m} {s0 : State} {p1 : State} (hm : Sub 8453 m) (k : Keeps m s0 p1) :
    Keeps m s0 (useBank p1) := by
  unfold useBank
  extract_lets +onlyGivenNames x1
  clear_value x1
  extract_lets +onlyGivenNames x2
  have h3 : Keeps m s0 x2 := by
    unfold x2
    with_reducible apply setSvc_keeps (hm.of rfl)
    exact setBuildBank_keeps (hm.of rfl) (by assumption)
  clear_value x2
  exact updateStep_keeps (hm.of rfl) (by assumption)

theorem discardBank_keeps {m} {s0 : State} {p1 : State} (hm : Sub 8453 m) (k : Keeps m s0 p1) :
    Keeps m s0 (discardBank p1) := by
  unfold discardBank
  extract_lets +onlyGivenNames x1
  clear_value x1
  extract_lets +onlyGivenNames x2
  have h3 : Keeps m s0 x2 := by
    unfold x2
    with_reducible apply setSvc_keeps (hm.of rfl)
    exact setBuildBank_keeps (hm.of rfl) (by assumption)
  clear_value x2
  exact updateStep_keeps (hm.of rfl) (by assumption)

theorem bankAction_keeps {m} {s0 : State} {p1} {p2 : State} (hm : Sub 8453 m) (k : Keeps m s0 p2) :
    Keeps m s0 (bankAction p1 p2) := by
  unfold bankAction
  apply Keeps.ite
  · exact commitBank_keeps (hm.of rfl) (by assumption)
  · apply Keeps.ite
    · exact discardBank_keeps (hm.of rfl) (by assumption)
    · apply Keeps.ite
      · exact useBank_keeps (hm.of rfl) (by assumption)
      · assumption

theorem cmdSvcBank_keeps {m} (hm : Sub 8453 m) : KeepsCmd m cmdSvcBank := by
  unfold cmdSvcBank
  apply KeepsCmd.mk
  intro s0 ctx s k
  extract_lets +onlyGivenNames x1
  clear_value x1
  extract_lets +onlyGivenNames x2
  clear_value x2
  with_reducible apply checked_keeps (hm.of rfl)
  · assumption
  · split
    · rename_i y3 y4 y5 y6
      exact fail_keeps (hm.of rfl) (by assumption)
    · rename_i y7 y8
      extract_lets +onlyGivenNames x9
      have h10 : Keeps m s0 x9 := bankAction_keeps (hm.of rfl) (by assumption)
      clear_value x9
      exact okWith_keeps (hm.of rfl) (by assumption)

theorem cmdSvcStatus_keeps {m} (hm : Sub 0 m) : KeepsCmd m cmdSvcStatus := by
  unfold cmdSvcStatus
  apply KeepsCmd.mk
  intro s0 ctx s k
  extract_lets +onlyGivenNames x1
  clear_value x1
  exact okWith_keeps (hm.of rfl) (by assumption)

theorem updateSatellites_keeps {m} {s0 : State} {p1 : State} (hm : Sub 512 m) (k : Keeps m s0 p1) :
    Keeps m s0 (updateSatellites p1) := by
  unfold updateSatellites
  apply Keeps.foldl
  · intro a1 a2 a3
    apply Keeps.foldl
    · intro a4 a5 a6
      extract_lets +onlyGivenNames x7
      clear_value x7
      apply Keeps.ite
      · with_reducible apply updateFirmware_keeps (hm.of rfl)
        exact setRingPos_keeps (hm.of rfl) (by assumption)
      · assumption
    · assumption
  · assumption

theorem execGlfSwitchComplete_keeps {m} {s0 : State} {p1} {p2 : State} (hm : Sub 10919 m) (k : Keeps m s0 p2) :
    KeepsR m s0 (execGlfSwitchComplete p1 p2) := by
  unfold execGlfSwitchComplete
  apply KeepsR.ite
  · apply KeepsR.next
    assumption
  · extract_lets +onlyGivenNames x1
    clear_value x1
    extract_lets +onlyGivenNames x2
    have h3 : Keeps m s0 x2 := setSvc_keeps (hm.of rfl) (by assumption)
    clear_value x2
    apply KeepsR.ite
    · extract_lets +onlyGivenNames x4
      have h5 : Keeps m s0 x4 := setSvc_keeps (hm.of rfl) (by assumption)
      clear_value x4
      extract_lets +onlyGivenNames x6
      have h7 : Keeps m s0 x6 := by
        unfold x6
        with_reducible apply settleKernelSet_keeps (hm.of rfl)
        exact updateSatellites_keeps (hm.of rfl) (by assumption)
      clear_value x6
      extract_lets +onlyGivenNames x8
      have h9 : Keeps m s0 x8 := updateStep_keeps (hm.of rfl) (by assumption)
      clear_value x8
      apply KeepsR.next
      split
      · rename_i y10 y11
        exact complete_keeps (hm.of rfl) (by assumption)
      · rename_i y12
        assumption
    · extract_lets +onlyGivenNames x13
      have h14 : Keeps m s0 x13 := by
        unfold x13
        with_reducible apply updateStep_keeps (hm.of rfl)
        exact reportFault_keeps (hm.of rfl) (by assumption)
      clear_value x13
      apply KeepsR.next
      split
      · rename_i y15 y16
        exact complete_keeps (hm.of rfl) (by assumption)
      · rename_i y17
        assumption

theorem cmdSvcTraceConfig_keeps {m} (hm : Sub 10247 m) : KeepsCmd m cmdSvcTraceConfig := by
  unfold cmdSvcTraceConfig
  apply KeepsCmd.mk
  intro s0 ctx s k
  extract_lets +onlyGivenNames x1
  clear_value x1
  extract_lets +onlyGivenNames x2
  clear_value x2
  with_reducible apply checked_keeps (hm.of rfl)
  · assumption
  · apply KeepsA.ite
    · apply KeepsA.ite
      · exact fail_keeps (hm.of rfl) (by assumption)
      · extract_lets +onlyGivenNames x3
        clear_value x3
        extract_lets +onlyGivenNames x4
        have h5 : Keeps m s0 x4 := setSvc_keeps (hm.of rfl) (by assumption)
        clear_value x4
        with_reducible apply okWith_keeps (hm.of rfl)
        apply Keeps.ite
        · exact raiseFault_keeps (hm.of rfl) (by assumption)
        · assumption
    · with_reducible apply okWith_keeps (hm.of rfl)
      exact setSvc_keeps (hm.of rfl) (by assumption)

theorem cmdSvcTraceExport_keeps {m} (hm : Sub 6 m) : KeepsCmd m cmdSvcTraceExport := by
  unfold cmdSvcTraceExport
  apply KeepsCmd.mk
  intro s0 ctx s k
  extract_lets +onlyGivenNames x1
  clear_value x1
  extract_lets +onlyGivenNames x2
  clear_value x2
  with_reducible apply checked_keeps (hm.of rfl)
  · assumption
  · split
    · rename_i y3 y4
      exact fail_keeps (hm.of rfl) (by assumption)
    · rename_i y5 y6 y7
      apply KeepsA.ite
      · exact fail_keeps (hm.of rfl) (by assumption)
      · extract_lets +onlyGivenNames x8
        clear_value x8
        extract_lets +onlyGivenNames x9
        clear_value x9
        apply KeepsA.accepted
        with_reducible apply complete_keeps (hm.of rfl)
        exact sendTransfer_keeps (hm.of rfl) (by assumption)

theorem cmdSvcTraceMark_keeps {m} (hm : Sub 8193 m) : KeepsCmd m cmdSvcTraceMark := by
  unfold cmdSvcTraceMark
  apply KeepsCmd.mk
  intro s0 ctx s k
  with_reducible apply checked_keeps (hm.of rfl)
  · assumption
  · apply KeepsA.ite
    · exact fail_keeps (hm.of rfl) (by assumption)
    · extract_lets +onlyGivenNames x1
      have h2 : Keeps m s0 x1 := traceWrite_keeps (hm.of rfl) (by assumption)
      clear_value x1
      apply KeepsA.ite
      · exact fail_keeps (hm.of rfl) (by assumption)
      · extract_lets +onlyGivenNames x3
        clear_value x3
        with_reducible apply okWith_keeps (hm.of rfl)
        apply Keeps.ite
        · exact traceTrigger_keeps (hm.of rfl) (by assumption)
        · assumption

theorem execTraceFreeze_keeps {m} {s0 : State} {p1 : State} (hm : Sub 8196 m) (k : Keeps m s0 p1) :
    KeepsR m s0 (execTraceFreeze p1) := by
  unfold execTraceFreeze
  split
  · rename_i y1 y2
    apply KeepsR.next
    assumption
  · rename_i y3 y4 y5 y6 y7
    apply KeepsR.ite
    · apply KeepsR.next
      assumption
    · extract_lets +onlyGivenNames x8
      have h9 : Keeps m s0 x8 := setSvc_keeps (hm.of rfl) (by assumption)
      clear_value x8
      apply KeepsR.next
      exact raiseEvent_keeps (hm.of rfl) (by assumption)

theorem execSvcStatus_keeps {m} {s0 : State} {p1} {p2 : State} (hm : Sub 8199 m) (k : Keeps m s0 p2) :
    KeepsR m s0 (execSvcStatus p1 p2) := by
  unfold execSvcStatus
  apply KeepsR.next
  with_reducible apply submit_keeps (hm.of rfl)
  · assumption
  · exact cmdSvcStatus_keeps (hm.of rfl)

theorem execSvcStage_keeps {m} {s0 : State} {p1} {p2 : State} (hm : Sub 8455 m) (k : Keeps m s0 p2) :
    KeepsR m s0 (execSvcStage p1 p2) := by
  unfold execSvcStage
  apply KeepsR.next
  with_reducible apply submit_keeps (hm.of rfl)
  · assumption
  · exact cmdSvcStage_keeps (hm.of rfl)

theorem execSvcBank_keeps {m} {s0 : State} {p1} {p2 : State} (hm : Sub 8455 m) (k : Keeps m s0 p2) :
    KeepsR m s0 (execSvcBank p1 p2) := by
  unfold execSvcBank
  apply KeepsR.next
  with_reducible apply submit_keeps (hm.of rfl)
  · assumption
  · exact cmdSvcBank_keeps (hm.of rfl)

theorem execSvcTraceConfig_keeps {m} {s0 : State} {p1} {p2 : State} (hm : Sub 10247 m) (k : Keeps m s0 p2) :
    KeepsR m s0 (execSvcTraceConfig p1 p2) := by
  unfold execSvcTraceConfig
  apply KeepsR.next
  with_reducible apply submit_keeps (hm.of rfl)
  · assumption
  · exact cmdSvcTraceConfig_keeps (hm.of rfl)

theorem execSvcTraceExport_keeps {m} {s0 : State} {p1} {p2 : State} (hm : Sub 8199 m) (k : Keeps m s0 p2) :
    KeepsR m s0 (execSvcTraceExport p1 p2) := by
  unfold execSvcTraceExport
  apply KeepsR.next
  with_reducible apply submit_keeps (hm.of rfl)
  · assumption
  · exact cmdSvcTraceExport_keeps (hm.of rfl)

theorem execSvcTraceMark_keeps {m} {s0 : State} {p1} {p2 : State} (hm : Sub 8199 m) (k : Keeps m s0 p2) :
    KeepsR m s0 (execSvcTraceMark p1 p2) := by
  unfold execSvcTraceMark
  apply KeepsR.next
  with_reducible apply submit_keeps (hm.of rfl)
  · assumption
  · exact cmdSvcTraceMark_keeps (hm.of rfl)

end Sys2Proof.Machine
end

