-- ==== Sys2Proof/Laws/Keeps/Sessions.lean ====
section
/-!
SUPPORT. What the operations of Machine/Sessions.lean keep.
-/

namespace Sys2Proof.Machine

theorem cmdSysIdentify_keeps {m} (hm : Sub 0 m) : KeepsCmd m cmdSysIdentify := by
  unfold cmdSysIdentify
  apply KeepsCmd.mk
  intro s0 ctx s k
  exact okWith_keeps (hm.of rfl) (by assumption)

theorem identitySign_keeps {m} {s0 : State} {p1} {p2 : State} (hm : Sub 26631 m) (k : Keeps m s0 p2) :
    Keeps m s0 (identitySign p1 p2).2 := by
  unfold identitySign
  extract_lets +onlyGivenNames x1
  have h2 : Keeps m s0 x1.2 := keyFor_keeps (hm.of rfl) (by assumption)
  clear_value x1
  split
  · rename_i y3 y4
    assumption
  · rename_i y5 y6 y7
    extract_lets +onlyGivenNames x8
    have h9 : Keeps m s0 x8.2 := drawBytes_keeps (hm.of rfl) (by assumption)
    clear_value x8
    assumption

theorem openHostSession_keeps {m} {s0 : State} {p1 p2 p3 p4 p5 p6} {p7 : State} (hm : Sub 26631 m) (k : Keeps m s0 p7)
    (room : p7.fol.sessions.length < 16) :
    KeepsA m s0 (openHostSession p1 p2 p3 p4 p5 p6 p7) := by
  unfold openHostSession
  extract_lets +onlyGivenNames x1
  have h1 : Keeps m s0 x1.2 := draw_keeps (hm.of rfl) k
  clear_value x1
  extract_lets +onlyGivenNames x2
  extract_lets +onlyGivenNames x3
  have h3 : Keeps m s0 x3.2 := drawBytes_keeps (hm.of rfl) h1
  clear_value x2 x3
  extract_lets +onlyGivenNames x4
  have h4 : Keeps m s0 x4.2 := drawBytes_keeps (hm.of rfl) h3
  clear_value x4
  extract_lets +onlyGivenNames x5
  extract_lets +onlyGivenNames x6
  extract_lets +onlyGivenNames x7
  have h7 : Keeps m s0 x7.2 := identitySign_keeps (hm.of rfl) h4
  clear_value x7
  split
  · exact fail_keeps (hm.of rfl) h7
  · extract_lets +onlyGivenNames x8 x9
    apply okWith_keeps (hm.of rfl)
    exact Keeps.upd 4 (hm.of rfl) h7 (Nat.le_refl _) ⟨id, rfl, rfl, rfl⟩
      ⟨Nat.le_refl _, id, fun _ => by simp only [List.length_append, List.length_cons, List.length_nil]; omega, id⟩ ⟨id⟩ rfl

theorem cmdSysSessionOpen_keeps {m} (hm : Sub 26631 m) : KeepsCmd m cmdSysSessionOpen := by
  unfold cmdSysSessionOpen
  apply KeepsCmd.mk
  intro s0 ctx s k
  extract_lets +onlyGivenNames x1 x2 x3 x4
  clear_value x4
  apply checked_keeps (hm.of rfl) k
  split
  · exact fail_keeps (hm.of rfl) k
  · split
    · exact fail_keeps (hm.of rfl) k
    · split
      · exact fail_keeps (hm.of rfl) k
      · split
        · exact fail_keeps (hm.of rfl) k
        · rename_i full
          apply openHostSession_keeps (hm.of rfl) k
          unfold sessionsFull at full
          simp only [Bool.or_eq_true, decide_eq_true_eq] at full
          omega

theorem authFailed_keeps {m} {s0 : State} {p1 p2} {p3 : State} (hm : Sub 10247 m) (k : Keeps m s0 p3) :
    Keeps m s0 (authFailed p1 p2 p3) := by
  unfold authFailed
  extract_lets +onlyGivenNames x1
  clear_value x1
  apply Keeps.ite
  · with_reducible apply raiseFault_keeps (hm.of rfl)
    exact Keeps.upd 4 (hm.of rfl) (by assumption) (Nat.le_refl _) ⟨id, rfl, rfl, rfl⟩ ⟨Nat.le_refl _, id, id, id⟩ ⟨id⟩ rfl
  · exact Keeps.upd 4 (hm.of rfl) (by assumption) (Nat.le_refl _) ⟨id, rfl, rfl, rfl⟩ ⟨Nat.le_refl _, id, id, id⟩ ⟨id⟩ rfl

theorem bindSession_keeps {m} {s0 : State} {p1} {p2 : State} (hm : Sub 4 m) (k : Keeps m s0 p2) :
    Keeps m s0 (bindSession p1 p2) := by
  unfold bindSession
  refine Keeps.upd 4 (hm.of rfl) ?_ ?_ ?_ ?_ ?_ rfl
  · assumption
  · exact Nat.le_refl _
  · exact ⟨id, rfl, rfl, rfl⟩
  · exact ⟨Nat.le_refl _, id, fun h => by simp only [List.length_map]; exact h, id⟩
  · exact ⟨id⟩

theorem cmdSysSessionAuth_keeps {m} (hm : Sub 26631 m) : KeepsCmd m cmdSysSessionAuth := by
  unfold cmdSysSessionAuth
  apply KeepsCmd.mk
  intro s0 ctx s k
  split
  · rename_i y1 y2
    exact fail_keeps (hm.of rfl) (by assumption)
  · rename_i y3 y4 y5
    split
    · rename_i y6 y7
      with_reducible apply fail_keeps (hm.of rfl)
      with_reducible apply removeSession_keeps (hm.of rfl)
      exact authFailed_keeps (hm.of rfl) (by assumption)
    · rename_i y8 y9 y10
      extract_lets +onlyGivenNames x11
      clear_value x11
      with_reducible apply checked_keeps (hm.of rfl)
      · assumption
      · extract_lets +onlyGivenNames x12
        clear_value x12
        extract_lets +onlyGivenNames x13
        have h14 : Keeps m s0 x13.2 := engineWork_keeps (hm.of rfl) (by assumption)
        clear_value x13
        apply KeepsA.ite
        · exact fail_keeps (hm.of rfl) (by assumption)
        · apply KeepsA.ite
          · with_reducible apply okWith_keeps (hm.of rfl)
            with_reducible apply bindSession_keeps (hm.of rfl)
            assumption
          · with_reducible apply fail_keeps (hm.of rfl)
            with_reducible apply removeSession_keeps (hm.of rfl)
            with_reducible apply authFailed_keeps (hm.of rfl)
            assumption

theorem cmdSysSessionClose_keeps {m} (hm : Sub 2054 m) : KeepsCmd m cmdSysSessionClose := by
  unfold cmdSysSessionClose
  apply KeepsCmd.mk
  intro s0 ctx s k
  extract_lets +onlyGivenNames x1
  clear_value x1
  apply KeepsA.ite
  · apply KeepsA.final
    · assumption
    · intro a2 h5
      dsimp -zeta only
      exact removeSession_keeps (hm.of rfl) (by assumption)
  · apply KeepsA.ite
    · exact fail_keeps (hm.of rfl) (by assumption)
    · apply KeepsA.ite
      · exact fail_keeps (hm.of rfl) (by assumption)
      · with_reducible apply okWith_keeps (hm.of rfl)
        exact endSession_keeps (hm.of rfl) (by assumption)

theorem requeueAll_keeps {m} {s0 : State} {p1} {p2 : State} (hm : Sub 2 m) (k : Keeps m s0 p2) :
    Keeps m s0 (requeueAll p1 p2) := by
  unfold requeueAll
  extract_lets +onlyGivenNames x1
  clear_value x1
  extract_lets +onlyGivenNames x2
  clear_value x2
  extract_lets +onlyGivenNames x3
  have h4 : Keeps m s0 x3 := setChan_keeps (hm.of rfl) (by assumption)
  clear_value x3
  extract_lets +onlyGivenNames x5
  have h6 : Keeps m s0 x5 := by
    unfold x5
    apply Keeps.foldl
    · intro a7 a9 h12
      exact requeuePage_keeps (hm.of rfl) (by assumption)
    · assumption
  clear_value x5
  apply Keeps.foldl
  · intro a13 a15 h18
    exact producePage_keeps (hm.of rfl) (by assumption)
  · assumption

theorem directChannel0_keeps {m} {s0 : State} {p1} {p2 : State} (hm : Sub 6 m) (k : Keeps m s0 p2) :
    Keeps m s0 (directChannel0 p1 p2) := by
  unfold directChannel0
  split
  · rename_i y1 y2
    extract_lets +onlyGivenNames x3
    clear_value x3
    extract_lets +onlyGivenNames x4
    have h5 : Keeps m s0 x4 := setChan_keeps (hm.of rfl) (by assumption)
    clear_value x4
    apply Keeps.foldl
    · intro a6 a8 h11
      exact sendDatagram_keeps (hm.of rfl) (by assumption)
    · assumption
  · rename_i y12
    split
    · rename_i y13 y14
      assumption
    · rename_i y15 y16 y17
      split
      · rename_i y18 y19 y20
        exact revertChannel0_keeps (hm.of rfl) (by assumption)
      · rename_i y21 y22
        exact setChan_keeps (hm.of rfl) (by assumption)

theorem cmdSysStreamConfig_keeps {m} (hm : Sub 6 m) : KeepsCmd m cmdSysStreamConfig := by
  unfold cmdSysStreamConfig
  apply KeepsCmd.mk
  intro s0 ctx s k
  extract_lets +onlyGivenNames x1
  clear_value x1
  extract_lets +onlyGivenNames x2
  clear_value x2
  extract_lets +onlyGivenNames x3
  clear_value x3
  extract_lets +onlyGivenNames x4
  clear_value x4
  with_reducible apply checked_keeps (hm.of rfl)
  · assumption
  · apply KeepsA.ite
    · exact fail_keeps (hm.of rfl) (by assumption)
    · apply KeepsA.ite
      · exact fail_keeps (hm.of rfl) (by assumption)
      · extract_lets +onlyGivenNames x5
        have h6 : Keeps m s0 x5 := by
          unfold x5
          apply Keeps.ite
          · exact directChannel0_keeps (hm.of rfl) (by assumption)
          · assumption
        clear_value x5
        extract_lets +onlyGivenNames x7
        have h8 : Keeps m s0 x7 := setChan_keeps (hm.of rfl) (by assumption)
        clear_value x7
        with_reducible apply okWith_keeps (hm.of rfl)
        apply Keeps.ite
        · apply Keeps.ite
          · exact directChannel0_keeps (hm.of rfl) (by assumption)
          · exact requeueAll_keeps (hm.of rfl) (by assumption)
        · assumption

theorem cmdSysLifecycle_keeps {m} (hm : Sub 18438 m) : KeepsCmd m cmdSysLifecycle := by
  unfold cmdSysLifecycle
  apply KeepsCmd.mk
  intro s0 ctx s k
  extract_lets +onlyGivenNames x1
  apply checked_keeps_of (hm.of rfl) k
  intro hc
  split
  · exact fail_keeps (hm.of rfl) k
  · rename_i b e
    apply KeepsA.ite
    · exact fail_keeps (hm.of rfl) k
    · extract_lets +onlyGivenNames x7
      clear_value x7
      extract_lets +onlyGivenNames x8
      have h9 : Keeps m s0 x8 := destroyForTransition_keeps (hm.of rfl) k
      clear_value x8
      have live : s0.fol.lifecycle ≠ .scrapped := by
        intro h
        have hs := k.fol.final h
        have := hc _ (List.mem_cons_of_mem _ (List.mem_cons_self ..))
        unfold inRange at this
        simp only [e] at this
        unfold x1 at this
        rw [hs] at this
        exact nomatch this
      extract_lets +onlyGivenNames x10 x11 x12
      have h13 : Keeps m s0 x12 :=
        ⟨h9.queue, h9.draws, h9.host, ⟨h9.fol.refs, fun h => absurd h live, h9.fol.sessions, h9.fol.events⟩, h9.led,
          h9.frame.trans (Frame.of_sub (c := 2052) (hm.of rfl) rfl)⟩
      apply KeepsA.final h13
      intro a h
      exact endSessions_keeps (hm.of rfl) h

theorem execSysIdentify_keeps {m} {s0 : State} {p1} {p2 : State} (hm : Sub 8199 m) (k : Keeps m s0 p2) :
    KeepsR m s0 (execSysIdentify p1 p2) := by
  unfold execSysIdentify
  apply KeepsR.next
  with_reducible apply submit_keeps (hm.of rfl)
  · assumption
  · exact cmdSysIdentify_keeps (hm.of rfl)

theorem execSysSessionOpen_keeps {m} {s0 : State} {p1} {p2 : State} (hm : Sub 26631 m) (k : Keeps m s0 p2) :
    KeepsR m s0 (execSysSessionOpen p1 p2) := by
  unfold execSysSessionOpen
  apply KeepsR.next
  with_reducible apply submit_keeps (hm.of rfl)
  · assumption
  · exact cmdSysSessionOpen_keeps (hm.of rfl)

theorem execSysSessionAuth_keeps {m} {s0 : State} {p1} {p2 : State} (hm : Sub 26631 m) (k : Keeps m s0 p2) :
    KeepsR m s0 (execSysSessionAuth p1 p2) := by
  unfold execSysSessionAuth
  apply KeepsR.next
  with_reducible apply submit_keeps (hm.of rfl)
  · assumption
  · exact cmdSysSessionAuth_keeps (hm.of rfl)

theorem execSysSessionClose_keeps {m} {s0 : State} {p1} {p2 : State} (hm : Sub 10247 m) (k : Keeps m s0 p2) :
    KeepsR m s0 (execSysSessionClose p1 p2) := by
  unfold execSysSessionClose
  apply KeepsR.next
  with_reducible apply submit_keeps (hm.of rfl)
  · assumption
  · exact cmdSysSessionClose_keeps (hm.of rfl)

theorem execSysStreamConfig_keeps {m} {s0 : State} {p1} {p2 : State} (hm : Sub 8199 m) (k : Keeps m s0 p2) :
    KeepsR m s0 (execSysStreamConfig p1 p2) := by
  unfold execSysStreamConfig
  apply KeepsR.next
  with_reducible apply submit_keeps (hm.of rfl)
  · assumption
  · exact cmdSysStreamConfig_keeps (hm.of rfl)

theorem execSysLifecycle_keeps {m} {s0 : State} {p1} {p2 : State} (hm : Sub 26631 m) (k : Keeps m s0 p2) :
    KeepsR m s0 (execSysLifecycle p1 p2) := by
  unfold execSysLifecycle
  apply KeepsR.next
  with_reducible apply submit_keeps (hm.of rfl)
  · assumption
  · exact cmdSysLifecycle_keeps (hm.of rfl)

theorem execSessionIdleTimeout_keeps {m} {s0 : State} {p1} {p2 : State} (hm : Sub 2054 m) (k : Keeps m s0 p2) :
    KeepsR m s0 (execSessionIdleTimeout p1 p2) := by
  unfold execSessionIdleTimeout
  apply KeepsR.next
  split
  · rename_i y1 y2 y3
    apply Keeps.ite
    · assumption
    · exact endSession_keeps (hm.of rfl) (by assumption)
  · rename_i y4 y5
    assumption

theorem execSessionPendingTimeout_keeps {m} {s0 : State} {p1} {p2 : State} (hm : Sub 2054 m) (k : Keeps m s0 p2) :
    KeepsR m s0 (execSessionPendingTimeout p1 p2) := by
  unfold execSessionPendingTimeout
  apply KeepsR.next
  split
  · rename_i y1 y2 y3
    apply Keeps.ite
    · exact removeSession_keeps (hm.of rfl) (by assumption)
    · assumption
  · rename_i y4 y5
    assumption

theorem execPrincipalLockoutExpiry_keeps {m} {s0 : State} {p1} {p2 : State} (hm : Sub 2052 m) (k : Keeps m s0 p2) :
    KeepsR m s0 (execPrincipalLockoutExpiry p1 p2) := by
  unfold execPrincipalLockoutExpiry
  extract_lets +onlyGivenNames x1
  extract_lets +onlyGivenNames x2
  have h3 : Keeps m s0 x2 := by
    unfold x2
    exact Keeps.upd 4 (hm.of rfl) (by assumption) (Nat.le_refl _) ⟨id, rfl, rfl, rfl⟩ ⟨Nat.le_refl _, id, id, id⟩ ⟨id⟩ rfl
  clear_value x2
  apply KeepsR.next
  apply Keeps.ite
  · with_reducible apply endFault_keeps (hm.of rfl)
    exact endFault_keeps (hm.of rfl) (by assumption)
  · assumption

end Sys2Proof.Machine
end

