-- ==== Sys2Proof/Laws/Keeps/Folset.lean ====
section
/-!
SUPPORT. What the operations of Machine/Folset.lean keep.
-/

namespace Sys2Proof.Machine

theorem cancelCampaign_keeps {m} {s0 : State} {p1 p3} {p2 : State} (hm : Sub 65540 m) (k : Keeps m s0 p2) :
    Keeps m s0 (cancelCampaign p1 p2 p3) := by
  unfold cancelCampaign
  split
  · rename_i y1 y2 y3
    apply Keeps.ite
    · with_reducible apply campaignAction_keeps (hm.of rfl)
      exact setCampaign_keeps (hm.of rfl) (by assumption)
    · assumption
  · rename_i y4 y5
    assumption

theorem cancelDuty_keeps {m} {s0 : State} {p1} {p2 : State} (hm : Sub 4100 m) (k : Keeps m s0 p2) :
    Keeps m s0 (cancelDuty p1 p2) := by
  unfold cancelDuty
  extract_lets +onlyGivenNames x1
  have h2 : Keeps m s0 x1 := by
    unfold x1
    apply Keeps.ite
    · exact setDuty_keeps (hm.of rfl) (by assumption)
    · assumption
  clear_value x1
  apply Keeps.ite
  · with_reducible apply setSync_keeps (hm.of rfl)
    exact setDuty_keeps (hm.of rfl) (by assumption)
  · assumption

theorem cancelCommands_keeps {m} {s0 : State} {p1} {p2 : State} (hm : Sub 865190 m) (k : Keeps m s0 p2) :
    Keeps m s0 (cancelCommands p1 p2) := by
  unfold cancelCommands
  extract_lets +onlyGivenNames x1
  clear_value x1
  extract_lets +onlyGivenNames x2
  have h3 : Keeps m s0 x2 := by
    unfold x2
    apply Keeps.foldl
    · intro a4 a5 a6
      split
      · rename_i y7 y8 y9
        apply Keeps.ite
        · split
          · rename_i y10
            with_reducible apply endStage_keeps (hm.of rfl)
            exact closeChannel_keeps (hm.of rfl) (by assumption)
          · rename_i y11
            apply Keeps.ofId
            exact closeChannel_keeps (hm.of rfl) (by assumption)
        · assumption
      · rename_i y12 y13
        assumption
    · assumption
  clear_value x2
  extract_lets +onlyGivenNames x14
  extract_lets +onlyGivenNames x15
  have h16 : Keeps m s0 x15 := by
    unfold x15
    exact Keeps.upd 32 (hm.of rfl) (by assumption) (Nat.le_refl _) ⟨id, rfl, rfl, rfl⟩ ⟨Nat.le_refl _, id, id, id⟩ ⟨id⟩ rfl
  clear_value x15
  extract_lets +onlyGivenNames x17
  have h18 : Keeps m s0 x17 := setYrw_keeps (hm.of rfl) (by assumption)
  clear_value x17
  extract_lets +onlyGivenNames x19
  have h20 : Keeps m s0 x19 := by
    unfold x19
    split
    · rename_i y21 y22 y23
      apply Keeps.ite
      · with_reducible apply captureRelease_keeps (hm.of rfl)
        exact setMet_keeps (hm.of rfl) (by assumption)
      · assumption
    · rename_i y24 y25
      assumption
  clear_value x19
  extract_lets +onlyGivenNames x26
  have h27 : Keeps m s0 x26 := by
    unfold x26
    apply Keeps.foldl
    · intro a28 a29 a30
      exact setPoint_keeps (hm.of rfl) (by assumption)
    · assumption
  clear_value x26
  extract_lets +onlyGivenNames x31
  clear_value x31
  extract_lets +onlyGivenNames x32
  clear_value x32
  extract_lets +onlyGivenNames x33
  have h34 : Keeps m s0 x33 := by
    unfold x33
    exact Keeps.rest 65536 (hm.of rfl) (by assumption) rfl
  clear_value x33
  extract_lets +onlyGivenNames x35
  have h36 : Keeps m s0 x35 := by
    unfold x35
    with_reducible apply cancelDuty_keeps (hm.of rfl)
    apply Keeps.foldl
    · intro a37 a38 a39
      exact cancelCampaign_keeps (hm.of rfl) (by assumption)
    · assumption
  clear_value x35
  extract_lets +onlyGivenNames x40
  clear_value x40
  exact Keeps.rest 262144 (hm.of rfl) (by assumption) rfl

theorem folsetStop_keeps {m} {s0 : State} {p1 : State} (hm : Sub 881574 m) (k : Keeps m s0 p1) :
    Keeps m s0 (folsetStop p1) := by
  unfold folsetStop
  extract_lets +onlyGivenNames x1
  clear_value x1
  extract_lets +onlyGivenNames x2
  have h3 : Keeps m s0 x2 := cancelCommands_keeps (hm.of rfl) (by assumption)
  clear_value x2
  exact Keeps.upd 16388 (hm.of rfl) (by assumption) (Nat.le_refl _) ⟨id, rfl, rfl, rfl⟩ ⟨Nat.le_refl _, id, id, id⟩ ⟨id⟩ rfl

theorem fromActiveBank_keeps {m} {s0 : State} {p1 : State} (hm : Sub 8196 m) (k : Keeps m s0 p1) :
    Keeps m s0 (fromActiveBank p1) := by
  unfold fromActiveBank
  exact Keeps.upd 8196 (hm.of rfl) (by assumption) (Nat.le_refl _) ⟨id, rfl, rfl, rfl⟩ ⟨Nat.le_refl _, id, id, id⟩ ⟨id⟩ rfl

theorem folsetRestart_keeps {m} {s0 : State} {p1} {p2 : State} (hm : Sub 883623 m) (k : Keeps m s0 p2) :
    Keeps m s0 (folsetRestart p1 p2) := by
  unfold folsetRestart
  extract_lets +onlyGivenNames x1
  clear_value x1
  extract_lets +onlyGivenNames x2
  have h3 : Keeps m s0 x2 := by
    unfold x2
    with_reducible apply fromActiveBank_keeps (hm.of rfl)
    exact folsetStop_keeps (hm.of rfl) (by assumption)
  clear_value x2
  apply Keeps.ite
  · assumption
  · extract_lets +onlyGivenNames x4
    have h5 : Keeps m s0 x4 := setSvc_keeps (hm.of rfl) (by assumption)
    clear_value x4
    apply Keeps.ite
    · extract_lets +onlyGivenNames x6
      have h7 : Keeps m s0 x6 := updateStep_keeps (hm.of rfl) (by assumption)
      clear_value x6
      apply Keeps.ite
      · exact reportFault_keeps (hm.of rfl) (by assumption)
      · assumption
    · assumption

theorem folsetFault_keeps {m} {s0 : State} {p1 p2} {p3 : State} (hm : Sub 883623 m) (k : Keeps m s0 p3) :
    Keeps m s0 (folsetFault p1 p2 p3) := by
  unfold folsetFault
  apply Keeps.ite
  · assumption
  · with_reducible apply folsetRestart_keeps (hm.of rfl)
    exact raiseWith_keeps (hm.of rfl) (by assumption)

theorem execFolsetLockstepMismatch_keeps {m} {s0 : State} {p1 : State} (hm : Sub 883623 m) (k : Keeps m s0 p1) :
    KeepsR m s0 (execFolsetLockstepMismatch p1) := by
  unfold execFolsetLockstepMismatch
  apply KeepsR.next
  exact folsetFault_keeps (hm.of rfl) (by assumption)

theorem execFolsetSramError_keeps {m} {s0 : State} {p1} {p2 : State} (hm : Sub 883623 m) (k : Keeps m s0 p2) :
    KeepsR m s0 (execFolsetSramError p1 p2) := by
  unfold execFolsetSramError
  apply KeepsR.next
  split
  · rename_i y1
    exact folsetFault_keeps (hm.of rfl) (by assumption)
  · rename_i y2 y3
    exact loseTrace_keeps (hm.of rfl) (by assumption)

theorem beginFolsetUpdate_keeps {m} {s0 : State} {p1 p2 p3} {p4 : State} (hm : Sub 8197 m) (k : Keeps m s0 p4) :
    Keeps m s0 (beginFolsetUpdate p1 p2 p3 p4) := by
  unfold beginFolsetUpdate
  extract_lets +onlyGivenNames x1
  clear_value x1
  extract_lets +onlyGivenNames x2
  clear_value x2
  extract_lets +onlyGivenNames x3
  have h4 : Keeps m s0 x3 := updateStep_keeps (hm.of rfl) (by assumption)
  clear_value x3
  extract_lets +onlyGivenNames x5
  have h6 : Keeps m s0 x5 := setSvc_keeps (hm.of rfl) (by assumption)
  clear_value x5
  exact Keeps.upd 4 (hm.of rfl) (by assumption) (Nat.le_refl _) ⟨id, rfl, rfl, rfl⟩ ⟨Nat.le_refl _, id, id, id⟩ ⟨id⟩ rfl

theorem beginGlfUpdate_keeps {m} {s0 : State} {p1} {p2 : State} (hm : Sub 8197 m) (k : Keeps m s0 p2) :
    Keeps m s0 (beginGlfUpdate p1 p2) := by
  unfold beginGlfUpdate
  with_reducible apply setSvc_keeps (hm.of rfl)
  exact updateStep_keeps (hm.of rfl) (by assumption)

theorem cmdSvcUpdate_keeps {m} (hm : Sub 883623 m) : KeepsCmd m cmdSvcUpdate := by
  unfold cmdSvcUpdate
  apply KeepsCmd.mk
  intro s0 ctx s k
  extract_lets +onlyGivenNames x1
  clear_value x1
  extract_lets +onlyGivenNames x2
  clear_value x2
  extract_lets +onlyGivenNames x3
  clear_value x3
  extract_lets +onlyGivenNames x4
  clear_value x4
  with_reducible apply checked_keeps (hm.of rfl)
  · assumption
  · apply KeepsA.ite
    · apply KeepsA.ite
      · exact fail_keeps (hm.of rfl) (by assumption)
      · apply KeepsA.accepted
        with_reducible apply folsetRestart_keeps (hm.of rfl)
        exact complete_keeps (hm.of rfl) (by assumption)
    · apply KeepsA.ite
      · exact fail_keeps (hm.of rfl) (by assumption)
      · apply KeepsA.ite
        · exact fail_keeps (hm.of rfl) (by assumption)
        · apply KeepsA.ite
          · exact fail_keeps (hm.of rfl) (by assumption)
          · apply KeepsA.accepted
            apply Keeps.ite
            · exact beginFolsetUpdate_keeps (hm.of rfl) (by assumption)
            · exact beginGlfUpdate_keeps (hm.of rfl) (by assumption)

theorem endUpdate_keeps {m} {s0 : State} {p1 p2 p3} {p4 : State} (hm : Sub 8196 m) (k : Keeps m s0 p4) :
    Keeps m s0 (endUpdate p1 p2 p3 p4) := by
  unfold endUpdate
  split
  · rename_i y1 y2 y3
    with_reducible apply complete_keeps (hm.of rfl)
    exact setSvc_keeps (hm.of rfl) (by assumption)
  · rename_i y4 y5
    assumption

theorem execFolsetSwitchTimeout_keeps {m} {s0 : State} {p1 : State} (hm : Sub 883623 m) (k : Keeps m s0 p1) :
    KeepsR m s0 (execFolsetSwitchTimeout p1) := by
  unfold execFolsetSwitchTimeout
  apply KeepsR.ite
  · apply KeepsR.next
    assumption
  · extract_lets +onlyGivenNames x1
    clear_value x1
    extract_lets +onlyGivenNames x2
    clear_value x2
    extract_lets +onlyGivenNames x3
    have h4 : Keeps m s0 x3 := by
      unfold x3
      with_reducible apply endUpdate_keeps (hm.of rfl)
      exact setSvc_keeps (hm.of rfl) (by assumption)
    clear_value x3
    extract_lets +onlyGivenNames x5
    have h6 : Keeps m s0 x5 := by
      unfold x5
      with_reducible apply folsetStop_keeps (hm.of rfl)
      with_reducible apply updateStep_keeps (hm.of rfl)
      exact reportFault_keeps (hm.of rfl) (by assumption)
    clear_value x5
    apply KeepsR.next
    exact Keeps.upd 8196 (hm.of rfl) (by assumption) (Nat.le_refl _) ⟨id, rfl, rfl, rfl⟩ ⟨Nat.le_refl _, id, id, id⟩ ⟨id⟩ rfl

theorem execProbationEnd_keeps {m} {s0 : State} {p1 : State} (hm : Sub 8453 m) (k : Keeps m s0 p1) :
    KeepsR m s0 (execProbationEnd p1) := by
  unfold execProbationEnd
  apply KeepsR.ite
  · apply KeepsR.next
    assumption
  · extract_lets +onlyGivenNames x1
    have h2 : Keeps m s0 x1 := setSvc_keeps (hm.of rfl) (by assumption)
    clear_value x1
    apply KeepsR.next
    apply Keeps.ite
    · exact commitBank_keeps (hm.of rfl) (by assumption)
    · assumption

theorem injectNow_keeps {m} {s0 : State} {p1 p2 p3} {p4 : State} (hm : Sub 1047471 m) (k : Keeps m s0 p4) :
    Keeps m s0 (injectNow p1 p2 p3 p4) := by
  unfold injectNow
  apply Keeps.ite
  · apply Keeps.ite
    · exact umbelDeathBy_keeps (hm.of rfl) (by assumption)
    · assumption
  · apply Keeps.ite
    · exact folsetFault_keeps (hm.of rfl) (by assumption)
    · apply Keeps.ite
      · exact setYrw_keeps (hm.of rfl) (by assumption)
      · apply Keeps.ite
        · with_reducible apply endFault_keeps (hm.of rfl)
          exact raiseAWith_keeps (hm.of rfl) (by assumption)
        · assumption

theorem cmdFltInject_keeps {m} (hm : Sub 1047471 m) : KeepsCmd m cmdFltInject := by
  unfold cmdFltInject
  apply KeepsCmd.mk
  intro s0 ctx s k
  extract_lets +onlyGivenNames x1
  clear_value x1
  extract_lets +onlyGivenNames x2
  clear_value x2
  extract_lets +onlyGivenNames x3
  clear_value x3
  extract_lets +onlyGivenNames x4
  clear_value x4
  extract_lets +onlyGivenNames x5
  clear_value x5
  with_reducible apply checked_keeps (hm.of rfl)
  · assumption
  · apply KeepsA.ite
    · exact fail_keeps (hm.of rfl) (by assumption)
    · apply KeepsA.ite
      · exact fail_keeps (hm.of rfl) (by assumption)
      · extract_lets +onlyGivenNames x6
        clear_value x6
        extract_lets +onlyGivenNames x7
        clear_value x7
        extract_lets +onlyGivenNames x8
        have h9 : Keeps m s0 x8 := by
          unfold x8
          exact Keeps.rest 2048 (hm.of rfl) (by assumption) rfl
        clear_value x8
        apply KeepsA.final
        · apply Keeps.ite
          · assumption
          · assumption
        · intro a10 h13
          dsimp -zeta only
          split
          · rename_i y14
            exact injectNow_keeps (hm.of rfl) (by assumption)
          · rename_i y15
            apply Keeps.ofId
            assumption

theorem execSvcUpdate_keeps {m} {s0 : State} {p1} {p2 : State} (hm : Sub 883623 m) (k : Keeps m s0 p2) :
    KeepsR m s0 (execSvcUpdate p1 p2) := by
  unfold execSvcUpdate
  apply KeepsR.next
  with_reducible apply submit_keeps (hm.of rfl)
  · assumption
  · exact cmdSvcUpdate_keeps (hm.of rfl)

theorem execFltInject_keeps {m} {s0 : State} {p1} {p2 : State} (hm : Sub 1047471 m) (k : Keeps m s0 p2) :
    KeepsR m s0 (execFltInject p1 p2) := by
  unfold execFltInject
  apply KeepsR.next
  with_reducible apply submit_keeps (hm.of rfl)
  · assumption
  · exact cmdFltInject_keeps (hm.of rfl)

end Sys2Proof.Machine
end

