-- ==== Sys2Proof/Laws/Keeps/Panels.lean ====
section
/-!
SUPPORT. What the operations of Machine/Panels.lean keep.
-/

namespace Sys2Proof.Machine

theorem setPanel_keeps {m} {s0 : State} {p1 p2} {p3 : State} (hm : Sub 262144 m) (k : Keeps m s0 p3) :
    Keeps m s0 (setPanel p1 p2 p3) := by
  unfold setPanel
  exact setFio_keeps (hm.of rfl) (by assumption)

theorem panelEvent_keeps {m} {s0 : State} {p1 p2} {p3 : State} (hm : Sub 4 m) (k : Keeps m s0 p3) :
    Keeps m s0 (panelEvent p1 p2 p3) := by
  unfold panelEvent
  exact raiseEvent_keeps (hm.of rfl) (by assumption)

theorem panelAdvance_keeps {m} {s0 : State} {p1} {p2 : State} (hm : Sub 262144 m) (k : Keeps m s0 p2) :
    Keeps m s0 (panelAdvance p1 p2) := by
  unfold panelAdvance
  apply Keeps.ite
  · assumption
  · exact setPanel_keeps (hm.of rfl) (by assumption)

theorem dropDraws_keeps {m} {s0 : State} {p1} {p2 : State} (hm : Sub 262148 m) (k : Keeps m s0 p2) :
    Keeps m s0 (dropDraws p1 p2) := by
  unfold dropDraws
  extract_lets +onlyGivenNames x1
  clear_value x1
  extract_lets +onlyGivenNames x2
  clear_value x2
  apply Keeps.foldl
  · intro a3 a5 h8
    exact complete_keeps (hm.of rfl) (by assumption)
  · exact setPanel_keeps (hm.of rfl) (by assumption)

theorem panelFault_keeps {m} {s0 : State} {p1 p2} {p3 : State} (hm : Sub 262148 m) (k : Keeps m s0 p3) :
    Keeps m s0 (panelFault p1 p2 p3) := by
  unfold panelFault
  extract_lets +onlyGivenNames x1
  clear_value x1
  with_reducible apply dropDraws_keeps (hm.of rfl)
  with_reducible apply setPanel_keeps (hm.of rfl)
  with_reducible apply panelEvent_keeps (hm.of rfl)
  exact setPanel_keeps (hm.of rfl) (by assumption)

theorem panelAbrupt_keeps {m} {s0 : State} {p1} {p2 : State} (hm : Sub 262148 m) (k : Keeps m s0 p2) :
    Keeps m s0 (panelAbrupt p1 p2) := by
  unfold panelAbrupt
  extract_lets +onlyGivenNames x1
  clear_value x1
  apply Keeps.ite
  · with_reducible apply dropDraws_keeps (hm.of rfl)
    with_reducible apply panelEvent_keeps (hm.of rfl)
    exact setPanel_keeps (hm.of rfl) (by assumption)
  · assumption

theorem panelsAbrupt_keeps {m} {s0 : State} {p1 : State} (hm : Sub 262148 m) (k : Keeps m s0 p1) :
    Keeps m s0 (panelsAbrupt p1) := by
  unfold panelsAbrupt
  with_reducible apply panelAbrupt_keeps (hm.of rfl)
  exact panelAbrupt_keeps (hm.of rfl) (by assumption)

theorem cmdFioPanelSet_keeps {m} (hm : Sub 262144 m) : KeepsCmd m cmdFioPanelSet := by
  unfold cmdFioPanelSet
  apply KeepsCmd.mk
  intro s0 ctx s k
  extract_lets +onlyGivenNames x1
  clear_value x1
  extract_lets +onlyGivenNames x2
  clear_value x2
  with_reducible apply checked_keeps (hm.of rfl)
  · assumption
  · apply KeepsA.ite
    · apply KeepsA.ite
      · exact fail_keeps (hm.of rfl) (by assumption)
      · with_reducible apply okWith_keeps (hm.of rfl)
        exact setPanel_keeps (hm.of rfl) (by assumption)
    · with_reducible apply okWith_keeps (hm.of rfl)
      exact setPanel_keeps (hm.of rfl) (by assumption)

theorem queueDraw_keeps {m} {s0 : State} {p1 p2} {p3 : State} (hm : Sub 262144 m) (k : Keeps m s0 p3) :
    Keeps m s0 (queueDraw p1 p2 p3) := by
  unfold queueDraw
  with_reducible apply panelAdvance_keeps (hm.of rfl)
  exact setPanel_keeps (hm.of rfl) (by assumption)

theorem cmdFioPanelDraw_keeps {m} (hm : Sub 262150 m) : KeepsCmd m cmdFioPanelDraw := by
  unfold cmdFioPanelDraw
  apply KeepsCmd.mk
  intro s0 ctx s k
  extract_lets +onlyGivenNames x1
  clear_value x1
  extract_lets +onlyGivenNames x2
  clear_value x2
  extract_lets +onlyGivenNames x3
  clear_value x3
  with_reducible apply checked_keeps (hm.of rfl)
  · assumption
  · split
    · rename_i y4 y5
      exact fail_keeps (hm.of rfl) (by assumption)
    · rename_i y6 y7 y8
      with_reducible apply checked_keeps (hm.of rfl)
      · assumption
      · apply KeepsA.ite
        · exact fail_keeps (hm.of rfl) (by assumption)
        · apply KeepsA.ite
          · exact fail_keeps (hm.of rfl) (by assumption)
          · apply KeepsA.ite
            · exact fail_keeps (hm.of rfl) (by assumption)
            · apply KeepsA.ite
              · apply KeepsA.accepted
                exact receiveTransfer_keeps (hm.of rfl) (by assumption)
              · extract_lets +onlyGivenNames x9
                clear_value x9
                apply KeepsA.ite
                · apply KeepsA.accepted
                  exact queueDraw_keeps (hm.of rfl) (by assumption)
                · apply KeepsA.accepted
                  exact complete_keeps (hm.of rfl) (by assumption)

theorem drawReceived_keeps {m} {s0 : State} {p1} {p2 : State} (hm : Sub 262144 m) (k : Keeps m s0 p2) :
    Keeps m s0 (drawReceived p1 p2) := by
  unfold drawReceived
  exact queueDraw_keeps (hm.of rfl) (by assumption)

theorem cmdFioPanelRead_keeps {m} (hm : Sub 0 m) : KeepsCmd m cmdFioPanelRead := by
  unfold cmdFioPanelRead
  apply KeepsCmd.mk
  intro s0 ctx s k
  extract_lets +onlyGivenNames x1
  clear_value x1
  extract_lets +onlyGivenNames x2
  clear_value x2
  with_reducible apply checked_keeps (hm.of rfl)
  · assumption
  · exact okWith_keeps (hm.of rfl) (by assumption)

theorem execFioPanelSet_keeps {m} {s0 : State} {p1} {p2 : State} (hm : Sub 270343 m) (k : Keeps m s0 p2) :
    KeepsR m s0 (execFioPanelSet p1 p2) := by
  unfold execFioPanelSet
  apply KeepsR.next
  with_reducible apply submit_keeps (hm.of rfl)
  · assumption
  · exact cmdFioPanelSet_keeps (hm.of rfl)

theorem execFioPanelDraw_keeps {m} {s0 : State} {p1} {p2 : State} (hm : Sub 270343 m) (k : Keeps m s0 p2) :
    KeepsR m s0 (execFioPanelDraw p1 p2) := by
  unfold execFioPanelDraw
  apply KeepsR.next
  with_reducible apply submit_keeps (hm.of rfl)
  · assumption
  · exact cmdFioPanelDraw_keeps (hm.of rfl)

theorem execFioPanelRead_keeps {m} {s0 : State} {p1} {p2 : State} (hm : Sub 8199 m) (k : Keeps m s0 p2) :
    KeepsR m s0 (execFioPanelRead p1 p2) := by
  unfold execFioPanelRead
  apply KeepsR.next
  with_reducible apply submit_keeps (hm.of rfl)
  · assumption
  · exact cmdFioPanelRead_keeps (hm.of rfl)

theorem execPanelBusyReleased_keeps {m} {s0 : State} {p1} {p2 : State} (hm : Sub 262144 m) (k : Keeps m s0 p2) :
    KeepsR m s0 (execPanelBusyReleased p1 p2) := by
  unfold execPanelBusyReleased
  apply KeepsR.next
  with_reducible apply panelAdvance_keeps (hm.of rfl)
  exact setPanel_keeps (hm.of rfl) (by assumption)

theorem execPanelBusyTimeout_keeps {m} {s0 : State} {p1} {p2 : State} (hm : Sub 262148 m) (k : Keeps m s0 p2) :
    KeepsR m s0 (execPanelBusyTimeout p1 p2) := by
  unfold execPanelBusyTimeout
  apply KeepsR.next
  apply Keeps.ite
  · exact panelFault_keeps (hm.of rfl) (by assumption)
  · assumption

theorem execPanelRailFault_keeps {m} {s0 : State} {p1} {p2 : State} (hm : Sub 262148 m) (k : Keeps m s0 p2) :
    KeepsR m s0 (execPanelRailFault p1 p2) := by
  unfold execPanelRailFault
  apply KeepsR.next
  apply Keeps.ite
  · exact panelFault_keeps (hm.of rfl) (by assumption)
  · assumption

theorem execPanelDrawComplete_keeps {m} {s0 : State} {p1} {p2 : State} (hm : Sub 262148 m) (k : Keeps m s0 p2) :
    KeepsR m s0 (execPanelDrawComplete p1 p2) := by
  unfold execPanelDrawComplete
  apply KeepsR.next
  split
  · rename_i y1 y2
    assumption
  · rename_i y3 y4 y5 y6 y7
    with_reducible apply panelAdvance_keeps (hm.of rfl)
    with_reducible apply complete_keeps (hm.of rfl)
    exact setPanel_keeps (hm.of rfl) (by assumption)

theorem execPanelOffDelay_keeps {m} {s0 : State} {p1} {p2 : State} (hm : Sub 262144 m) (k : Keeps m s0 p2) :
    KeepsR m s0 (execPanelOffDelay p1 p2) := by
  unfold execPanelOffDelay
  extract_lets +onlyGivenNames x1
  clear_value x1
  apply KeepsR.next
  apply Keeps.ite
  · exact setPanel_keeps (hm.of rfl) (by assumption)
  · assumption

end Sys2Proof.Machine
end

