-- ==== Sys2Proof/Laws/Keeps/Power.lean ====
section
/-!
SUPPORT. What the operations of Machine/Power.lean keep.
-/

namespace Sys2Proof.Machine

theorem setPwr_keeps {m} {s0 : State} {p1} {p2 : State} (hm : Sub 8 m) (k : Keeps m s0 p2) :
    Keeps m s0 (setPwr p1 p2) := by
  unfold setPwr
  exact Keeps.rest 8 (hm.of rfl) (by assumption) rfl

theorem settleSupply_keeps {m} {s0 : State} {p1 : State} (hm : Sub 2052 m) (k : Keeps m s0 p1) :
    Keeps m s0 (settleSupply p1) := by
  unfold settleSupply
  apply Keeps.ite
  · assumption
  · exact endFault_keeps (hm.of rfl) (by assumption)

theorem enterMode_keeps {m} {s0 : State} {p1} {p2 : State} (hm : Sub 8201 m) (k : Keeps m s0 p2) :
    Keeps m s0 (enterMode p1 p2) := by
  unfold enterMode
  apply Keeps.ite
  · assumption
  · with_reducible apply traceMode_keeps (hm.of rfl)
    exact setPwr_keeps (hm.of rfl) (by assumption)

theorem changeDemand_keeps {m} {s0 : State} {p1} {p2 : State} (hm : Sub 10 m) (k : Keeps m s0 p2) :
    Keeps m s0 (changeDemand p1 p2) := by
  unfold changeDemand
  extract_lets +onlyGivenNames x1
  have h2 : Keeps m s0 x1 := setPwr_keeps (hm.of rfl) (by assumption)
  clear_value x1
  apply Keeps.ite
  · assumption
  · exact interrupt_keeps (hm.of rfl) (by assumption)

theorem modeReached_keeps {m} {s0 : State} {p1 : State} (hm : Sub 12 m) (k : Keeps m s0 p1) :
    Keeps m s0 (modeReached p1) := by
  unfold modeReached
  extract_lets +onlyGivenNames x1
  clear_value x1
  extract_lets +onlyGivenNames x2
  have h3 : Keeps m s0 x2 := setPwr_keeps (hm.of rfl) (by assumption)
  clear_value x2
  apply Keeps.foldl
  · intro a4 a6 h9
    exact complete_keeps (hm.of rfl) (by assumption)
  · assumption

theorem suspendChannels_keeps {m} {s0 : State} {p1} {p2 : State} (hm : Sub 2 m) (k : Keeps m s0 p2) :
    Keeps m s0 (suspendChannels p1 p2) := by
  unfold suspendChannels
  apply Keeps.foldl
  · intro a1 a3 h6
    extract_lets +onlyGivenNames x7
    have h8 : Keeps m s0 x7 := setChan_keeps (hm.of rfl) (by assumption)
    clear_value x7
    apply Keeps.ite
    · assumption
    · exact pump_keeps (hm.of rfl) (by assumption)
  · assumption

theorem computeDown_keeps {m} {s0 : State} {p1 : State} (hm : Sub 136 m) (k : Keeps m s0 p1) :
    Keeps m s0 (computeDown p1) := by
  unfold computeDown
  extract_lets +onlyGivenNames x1
  have h2 : Keeps m s0 x1 := dropTasks_keeps (hm.of rfl) (by assumption)
  clear_value x1
  extract_lets +onlyGivenNames x3
  have h4 : Keeps m s0 x3 := setYrw_keeps (hm.of rfl) (by assumption)
  clear_value x3
  exact setPwr_keeps (hm.of rfl) (by assumption)

theorem finishVigil_keeps {m} {s0 : State} {p1 : State} (hm : Sub 2095807 m) (k : Keeps m s0 p1) :
    Keeps m s0 (finishVigil p1) := by
  unfold finishVigil
  extract_lets +onlyGivenNames x1
  have h2 : Keeps m s0 x1 := setPwr_keeps (hm.of rfl) (by assumption)
  clear_value x1
  extract_lets +onlyGivenNames x3
  have h4 : Keeps m s0 x3 := by
    unfold x3
    with_reducible apply abortFrom_keeps (hm.of rfl)
    exact commitClosed_keeps (hm.of rfl) (by assumption)
  clear_value x3
  extract_lets +onlyGivenNames x5
  have h6 : Keeps m s0 x5 := by
    unfold x5
    apply Keeps.ite
    · assumption
    · exact releaseBaton_keeps (hm.of rfl) (by assumption)
  clear_value x5
  extract_lets +onlyGivenNames x7
  have h8 : Keeps m s0 x7 := by
    unfold x7
    with_reducible apply portsDown_keeps (hm.of rfl)
    with_reducible apply computeDown_keeps (hm.of rfl)
    exact stemVigil_keeps (hm.of rfl) (by assumption)
  clear_value x7
  extract_lets +onlyGivenNames x9
  have h10 : Keeps m s0 x9 := by
    unfold x9
    with_reducible apply suspendChannels_keeps (hm.of rfl)
    exact reviewPoints_keeps (hm.of rfl) (by assumption)
  clear_value x9
  apply Keeps.ite
  · exact modeReached_keeps (hm.of rfl) (by assumption)
  · assumption

theorem vigilEntry_keeps {m} {s0 : State} {p1 : State} (hm : Sub 2095807 m) (k : Keeps m s0 p1) :
    Keeps m s0 (vigilEntry p1) := by
  unfold vigilEntry
  extract_lets +onlyGivenNames x1
  have h2 : Keeps m s0 x1 := by
    unfold x1
    with_reducible apply enterMode_keeps (hm.of rfl)
    with_reducible apply stemCancelAll_keeps (hm.of rfl)
    exact loseSync_keeps (hm.of rfl) (by assumption)
  clear_value x1
  extract_lets +onlyGivenNames x3
  have h4 : Keeps m s0 x3 := by
    unfold x3
    with_reducible apply reviewPoints_keeps (hm.of rfl)
    exact setPwr_keeps (hm.of rfl) (by assumption)
  clear_value x3
  apply Keeps.ite
  · exact finishVigil_keeps (hm.of rfl) (by assumption)
  · exact setPwr_keeps (hm.of rfl) (by assumption)

theorem settleMode_keeps {m} {s0 : State} {p1 : State} (hm : Sub 2095807 m) (k : Keeps m s0 p1) :
    Keeps m s0 (settleMode p1) := by
  unfold settleMode
  split
  · rename_i y1 y2
    split
    · rename_i y3 y4
      with_reducible apply modeReached_keeps (hm.of rfl)
      exact setPwr_keeps (hm.of rfl) (by assumption)
    · rename_i y5 y6
      exact setPwr_keeps (hm.of rfl) (by assumption)
    · rename_i y7 y8 y9
      exact vigilEntry_keeps (hm.of rfl) (by assumption)
  · rename_i y10 y11
    split
    · rename_i y12 y13
      exact setPwr_keeps (hm.of rfl) (by assumption)
    · rename_i y14 y15
      with_reducible apply modeReached_keeps (hm.of rfl)
      exact setPwr_keeps (hm.of rfl) (by assumption)
    · rename_i y16 y17 y18
      exact vigilEntry_keeps (hm.of rfl) (by assumption)
  · rename_i y19 y20
    split
    · rename_i y21 y22
      apply Keeps.ite
      · assumption
      · exact setPwr_keeps (hm.of rfl) (by assumption)
    · rename_i y23 y24
      apply Keeps.ite
      · assumption
      · exact setPwr_keeps (hm.of rfl) (by assumption)
    · rename_i y25 y26 y27
      extract_lets +onlyGivenNames x28
      have h29 : Keeps m s0 x28 := setPwr_keeps (hm.of rfl) (by assumption)
      clear_value x28
      apply Keeps.ite
      · exact modeReached_keeps (hm.of rfl) (by assumption)
      · assumption
  · rename_i y30 y31 y32 y33
    assumption

theorem leanChange_keeps {m} {s0 : State} {p1 : State} (hm : Sub 8333 m) (k : Keeps m s0 p1) :
    Keeps m s0 (leanChange p1) := by
  unfold leanChange
  split
  · rename_i y1 y2
    assumption
  · rename_i y3 y4 y5
    apply Keeps.ite
    · assumption
    · extract_lets +onlyGivenNames x6
      have h7 : Keeps m s0 x6 := setPwr_keeps (hm.of rfl) (by assumption)
      clear_value x6
      split
      · rename_i y8 y9
        with_reducible apply modeReached_keeps (hm.of rfl)
        with_reducible apply gateUmbels_keeps (hm.of rfl)
        exact enterMode_keeps (hm.of rfl) (by assumption)
      · rename_i y10 y11
        with_reducible apply modeReached_keeps (hm.of rfl)
        with_reducible apply gateUmbels_keeps (hm.of rfl)
        exact enterMode_keeps (hm.of rfl) (by assumption)
      · rename_i y12 y13 y14
        assumption

theorem startComplete_keeps {m} {s0 : State} {p1 : State} (hm : Sub 2095807 m) (k : Keeps m s0 p1) :
    Keeps m s0 (startComplete p1) := by
  unfold startComplete
  apply Keeps.ite
  · assumption
  · split
    · rename_i y1 y2
      with_reducible apply reviewPoints_keeps (hm.of rfl)
      with_reducible apply modeReached_keeps (hm.of rfl)
      exact enterMode_keeps (hm.of rfl) (by assumption)
    · rename_i y3 y4
      with_reducible apply reviewPoints_keeps (hm.of rfl)
      with_reducible apply modeReached_keeps (hm.of rfl)
      exact enterMode_keeps (hm.of rfl) (by assumption)
    · rename_i y5 y6 y7
      exact vigilEntry_keeps (hm.of rfl) (by assumption)

theorem execVigilExitComplete_keeps {m} {s0 : State} {p1 : State} (hm : Sub 1861823 m) (k : Keeps m s0 p1) :
    KeepsR m s0 (execVigilExitComplete p1) := by
  unfold execVigilExitComplete
  apply KeepsR.ite
  · apply KeepsR.next
    assumption
  · extract_lets +onlyGivenNames x1
    have h2 : Keeps m s0 x1 := setPwr_keeps (hm.of rfl) (by assumption)
    clear_value x1
    extract_lets +onlyGivenNames x3
    have h4 : Keeps m s0 x3 := by
      unfold x3
      with_reducible apply gateUmbels_keeps (hm.of rfl)
      with_reducible apply enterMode_keeps (hm.of rfl)
      exact setYrw_keeps (hm.of rfl) (by assumption)
    clear_value x3
    apply KeepsR.next
    with_reducible apply modeReached_keeps (hm.of rfl)
    with_reducible apply evalOutputs_keeps (hm.of rfl)
    with_reducible apply reviewPoints_keeps (hm.of rfl)
    with_reducible apply suspendChannels_keeps (hm.of rfl)
    exact portsUp_keeps (hm.of rfl) (by assumption)

theorem settleThermal_keeps {m} {s0 : State} {p1 : State} (hm : Sub 2095807 m) (k : Keeps m s0 p1) :
    Keeps m s0 (settleThermal p1) := by
  unfold settleThermal
  extract_lets +onlyGivenNames x1
  clear_value x1
  extract_lets +onlyGivenNames x2
  have h3 : Keeps m s0 x2 := setYrw_keeps (hm.of rfl) (by assumption)
  clear_value x2
  extract_lets +onlyGivenNames x4
  clear_value x4
  apply Keeps.ite
  · assumption
  · with_reducible apply settleMode_keeps (hm.of rfl)
    exact changeDemand_keeps (hm.of rfl) (by assumption)

theorem thermalOne_keeps {m} {s0 : State} {p2} {p1 : State} (hm : Sub 1047215 m) (k : Keeps m s0 p1) :
    Keeps m s0 (thermalOne p1 p2) := by
  unfold thermalOne
  apply Keeps.ite
  · assumption
  · extract_lets +onlyGivenNames x1
    have h2 : Keeps m s0 x1 := setPwr_keeps (hm.of rfl) (by assumption)
    clear_value x1
    apply Keeps.ite
    · exact raiseA_keeps (hm.of rfl) (by assumption)
    · apply Keeps.ite
      · assumption
      · exact raiseFault_keeps (hm.of rfl) (by assumption)

theorem thermalCheck_keeps {m} {s0 : State} {p1 p2} {p3 : State} (hm : Sub 2095807 m) (k : Keeps m s0 p3) :
    Keeps m s0 (thermalCheck p1 p2 p3) := by
  unfold thermalCheck
  extract_lets +onlyGivenNames x1
  have h2 : Keeps m s0 x1 := setPwr_keeps (hm.of rfl) (by assumption)
  clear_value x1
  extract_lets +onlyGivenNames x3
  clear_value x3
  extract_lets +onlyGivenNames x4
  clear_value x4
  with_reducible apply settleThermal_keeps (hm.of rfl)
  apply Keeps.foldl
  · intro a5 a7 h10
    exact thermalOne_keeps (hm.of rfl) (by assumption)
  · assumption

theorem execThermalCancel_keeps {m} {s0 : State} {p1} {p2 : State} (hm : Sub 2095807 m) (k : Keeps m s0 p2) :
    KeepsR m s0 (execThermalCancel p1 p2) := by
  unfold execThermalCancel
  split
  · rename_i y1 y2
    apply KeepsR.next
    assumption
  · rename_i y3 y4 y5
    apply KeepsR.ite
    · extract_lets +onlyGivenNames x6
      have h7 : Keeps m s0 x6 := setPwr_keeps (hm.of rfl) (by assumption)
      clear_value x6
      apply KeepsR.next
      with_reducible apply settleThermal_keeps (hm.of rfl)
      apply Keeps.ite
      · assumption
      · exact endFault_keeps (hm.of rfl) (by assumption)
    · apply KeepsR.next
      assumption

theorem toHandover_keeps {m} {s0 : State} {p1 p2 p3} {p4 : State} (hm : Sub 8203 m) (k : Keeps m s0 p4) :
    Keeps m s0 (toHandover p1 p2 p3 p4) := by
  unfold toHandover
  with_reducible apply traceMode_keeps (hm.of rfl)
  with_reducible apply interrupt_keeps (hm.of rfl)
  exact setPwr_keeps (hm.of rfl) (by assumption)

theorem toMainOn_keeps {m} {s0 : State} {p1 : State} (hm : Sub 2095807 m) (k : Keeps m s0 p1) :
    Keeps m s0 (toMainOn p1) := by
  unfold toMainOn
  extract_lets +onlyGivenNames x1
  have h2 : Keeps m s0 x1 := toHandover_keeps (hm.of rfl) (by assumption)
  clear_value x1
  with_reducible apply settleMode_keeps (hm.of rfl)
  with_reducible apply settleSupply_keeps (hm.of rfl)
  exact changeDemand_keeps (hm.of rfl) (by assumption)

theorem toBattOn_keeps {m} {s0 : State} {p1 : State} (hm : Sub 8203 m) (k : Keeps m s0 p1) :
    Keeps m s0 (toBattOn p1) := by
  unfold toBattOn
  extract_lets +onlyGivenNames x1
  have h2 : Keeps m s0 x1 := toHandover_keeps (hm.of rfl) (by assumption)
  clear_value x1
  apply Keeps.ite
  · exact toHandover_keeps (hm.of rfl) (by assumption)
  · assumption

theorem onBatt_keeps {m} {s0 : State} {p1 : State} (hm : Sub 8 m) (k : Keeps m s0 p1) :
    Keeps m s0 (onBatt p1) := by
  unfold onBatt
  exact setPwr_keeps (hm.of rfl) (by assumption)

theorem toBank_keeps {m} {s0 : State} {p1 : State} (hm : Sub 8203 m) (k : Keeps m s0 p1) :
    Keeps m s0 (toBank p1) := by
  unfold toBank
  exact toHandover_keeps (hm.of rfl) (by assumption)

theorem countMainLoss_keeps {m} {s0 : State} {p1 : State} (hm : Sub 10255 m) (k : Keeps m s0 p1) :
    Keeps m s0 (countMainLoss p1) := by
  unfold countMainLoss
  extract_lets +onlyGivenNames x1
  clear_value x1
  extract_lets +onlyGivenNames x2
  have h3 : Keeps m s0 x2 := setPwr_keeps (hm.of rfl) (by assumption)
  clear_value x2
  apply Keeps.ite
  · with_reducible apply raiseFault_keeps (hm.of rfl)
    exact setPwr_keeps (hm.of rfl) (by assumption)
  · assumption

theorem mainGone_keeps {m} {s0 : State} {p1} {p2 : State} (hm : Sub 8 m) (k : Keeps m s0 p2) :
    Keeps m s0 (mainGone p1 p2) := by
  unfold mainGone
  exact setPwr_keeps (hm.of rfl) (by assumption)

theorem battGone_keeps {m} {s0 : State} {p1} {p2 : State} (hm : Sub 8 m) (k : Keeps m s0 p2) :
    Keeps m s0 (battGone p1 p2) := by
  unfold battGone
  exact setPwr_keeps (hm.of rfl) (by assumption)

theorem wake_keeps {m} {s0 : State} {p1 : State} (hm : Sub 8 m) (k : Keeps m s0 p1) :
    Keeps m s0 (wake p1) := by
  unfold wake
  apply Keeps.ite
  · exact setPwr_keeps (hm.of rfl) (by assumption)
  · assumption

theorem inputQualified_keeps {m} {s0 : State} {p1} {p2 : State} (hm : Sub 8 m) (k : Keeps m s0 p2) :
    Keeps m s0 (inputQualified p1 p2) := by
  unfold inputQualified
  apply Keeps.ite
  · exact wake_keeps (hm.of rfl) (by assumption)
  · assumption

theorem execMainLost_keeps {m} {s0 : State} {p1} {p2 : State} (hm : Sub 10255 m) (k : Keeps m s0 p2) :
    KeepsR m s0 (execMainLost p1 p2) := by
  unfold execMainLost
  extract_lets +onlyGivenNames x1
  have h2 : Keeps m s0 x1 := mainGone_keeps (hm.of rfl) (by assumption)
  clear_value x1
  apply KeepsR.next
  split
  · rename_i y3 y4
    extract_lets +onlyGivenNames x5
    have h6 : Keeps m s0 x5 := countMainLoss_keeps (hm.of rfl) (by assumption)
    clear_value x5
    apply Keeps.ite
    · exact toHandover_keeps (hm.of rfl) (by assumption)
    · exact toBank_keeps (hm.of rfl) (by assumption)
  · rename_i y7 y8
    with_reducible apply toBattOn_keeps (hm.of rfl)
    exact countMainLoss_keeps (hm.of rfl) (by assumption)
  · rename_i y9 y10
    with_reducible apply toBattOn_keeps (hm.of rfl)
    exact countMainLoss_keeps (hm.of rfl) (by assumption)
  · rename_i y11 y12 y13 y14
    assumption

theorem execMainPresent_keeps {m} {s0 : State} {p1 : State} (hm : Sub 2095807 m) (k : Keeps m s0 p1) :
    KeepsR m s0 (execMainPresent p1) := by
  unfold execMainPresent
  extract_lets +onlyGivenNames x1
  have h2 : Keeps m s0 x1 := setPwr_keeps (hm.of rfl) (by assumption)
  clear_value x1
  apply KeepsR.next
  split
  · rename_i y3 y4
    exact toHandover_keeps (hm.of rfl) (by assumption)
  · rename_i y5 y6
    with_reducible apply unlistedEvent_keeps (hm.of rfl)
    exact toMainOn_keeps (hm.of rfl) (by assumption)
  · rename_i y7 y8 y9
    assumption

theorem execMainQualified_keeps {m} {s0 : State} {p1 : State} (hm : Sub 8203 m) (k : Keeps m s0 p1) :
    KeepsR m s0 (execMainQualified p1) := by
  unfold execMainQualified
  apply KeepsR.next
  split
  · rename_i y1 y2
    exact toHandover_keeps (hm.of rfl) (by assumption)
  · rename_i y3 y4
    with_reducible apply inputQualified_keeps (hm.of rfl)
    exact setPwr_keeps (hm.of rfl) (by assumption)
  · rename_i y5 y6 y7
    assumption

theorem execBattLost_keeps {m} {s0 : State} {p1} {p2 : State} (hm : Sub 2095807 m) (k : Keeps m s0 p2) :
    KeepsR m s0 (execBattLost p1 p2) := by
  unfold execBattLost
  extract_lets +onlyGivenNames x1
  have h2 : Keeps m s0 x1 := battGone_keeps (hm.of rfl) (by assumption)
  clear_value x1
  apply KeepsR.next
  split
  · rename_i y3 y4
    with_reducible apply raiseFault_keeps (hm.of rfl)
    exact setPwr_keeps (hm.of rfl) (by assumption)
  · rename_i y5 y6
    exact toBank_keeps (hm.of rfl) (by assumption)
  · rename_i y7 y8
    exact toBank_keeps (hm.of rfl) (by assumption)
  · rename_i y9 y10
    with_reducible apply toMainOn_keeps (hm.of rfl)
    exact raiseFault_keeps (hm.of rfl) (by assumption)
  · rename_i y11 y12
    exact toMainOn_keeps (hm.of rfl) (by assumption)
  · rename_i y13 y14 y15 y16 y17 y18
    assumption

theorem execBattPresent_keeps {m} {s0 : State} {p1 : State} (hm : Sub 2095807 m) (k : Keeps m s0 p1) :
    KeepsR m s0 (execBattPresent p1) := by
  unfold execBattPresent
  extract_lets +onlyGivenNames x1
  have h2 : Keeps m s0 x1 := by
    unfold x1
    with_reducible apply settleSupply_keeps (hm.of rfl)
    exact setPwr_keeps (hm.of rfl) (by assumption)
  clear_value x1
  apply KeepsR.next
  split
  · rename_i y3 y4
    apply Keeps.ite
    · exact toMainOn_keeps (hm.of rfl) (by assumption)
    · with_reducible apply toBattOn_keeps (hm.of rfl)
      exact onBatt_keeps (hm.of rfl) (by assumption)
  · rename_i y5 y6
    exact inputQualified_keeps (hm.of rfl) (by assumption)
  · rename_i y7 y8 y9
    assumption

theorem execSwitchComplete_keeps {m} {s0 : State} {p1 : State} (hm : Sub 2095807 m) (k : Keeps m s0 p1) :
    KeepsR m s0 (execSwitchComplete p1) := by
  unfold execSwitchComplete
  apply KeepsR.next
  split
  · rename_i y1 y2
    with_reducible apply toBattOn_keeps (hm.of rfl)
    exact onBatt_keeps (hm.of rfl) (by assumption)
  · rename_i y3 y4
    exact toMainOn_keeps (hm.of rfl) (by assumption)
  · rename_i y5 y6 y7
    assumption

theorem execMainUnstableClear_keeps {m} {s0 : State} {p1 : State} (hm : Sub 2060 m) (k : Keeps m s0 p1) :
    KeepsR m s0 (execMainUnstableClear p1) := by
  unfold execMainUnstableClear
  apply KeepsR.next
  apply Keeps.ite
  · with_reducible apply settleSupply_keeps (hm.of rfl)
    exact setPwr_keeps (hm.of rfl) (by assumption)
  · assumption

theorem execBattPolicyDelay_keeps {m} {s0 : State} {p1 : State} (hm : Sub 2095807 m) (k : Keeps m s0 p1) :
    KeepsR m s0 (execBattPolicyDelay p1) := by
  unfold execBattPolicyDelay
  apply KeepsR.next
  apply Keeps.ite
  · with_reducible apply settleMode_keeps (hm.of rfl)
    exact changeDemand_keeps (hm.of rfl) (by assumption)
  · assumption

theorem execLowBattery_keeps {m} {s0 : State} {p1 : State} (hm : Sub 2095807 m) (k : Keeps m s0 p1) :
    KeepsR m s0 (execLowBattery p1) := by
  unfold execLowBattery
  apply KeepsR.next
  apply Keeps.ite
  · extract_lets +onlyGivenNames x1
    have h2 : Keeps m s0 x1 := by
      unfold x1
      apply Keeps.ite
      · assumption
      · with_reducible apply raiseFault_keeps (hm.of rfl)
        exact setPwr_keeps (hm.of rfl) (by assumption)
    clear_value x1
    with_reducible apply settleMode_keeps (hm.of rfl)
    exact changeDemand_keeps (hm.of rfl) (by assumption)
  · assumption

theorem setDemand_keeps {m} {s0 : State} {p1} {p2 : State} (hm : Sub 10 m) (k : Keeps m s0 p2) :
    Keeps m s0 (setDemand p1 p2) := by
  unfold setDemand
  extract_lets +onlyGivenNames x1
  clear_value x1
  exact changeDemand_keeps (hm.of rfl) (by assumption)

theorem cmdSysPowerMode_keeps {m} (hm : Sub 2095807 m) : KeepsCmd m cmdSysPowerMode := by
  unfold cmdSysPowerMode
  apply KeepsCmd.mk
  intro s0 ctx s k
  extract_lets +onlyGivenNames x1
  clear_value x1
  extract_lets +onlyGivenNames x2
  clear_value x2
  with_reducible apply checked_keeps (hm.of rfl)
  · assumption
  · apply KeepsA.ite
    · apply KeepsA.ite
      · exact fail_keeps (hm.of rfl) (by assumption)
      · extract_lets +onlyGivenNames x3
        have h4 : Keeps m s0 x3 := setDemand_keeps (hm.of rfl) (by assumption)
        clear_value x3
        with_reducible apply okWith_keeps (hm.of rfl)
        exact settleMode_keeps (hm.of rfl) (by assumption)
    · extract_lets +onlyGivenNames x5
      have h6 : Keeps m s0 x5 := by
        unfold x5
        with_reducible apply setPwr_keeps (hm.of rfl)
        exact setDemand_keeps (hm.of rfl) (by assumption)
      clear_value x5
      apply KeepsA.accepted
      exact settleMode_keeps (hm.of rfl) (by assumption)

theorem cmdSysPowerStatus_keeps {m} (hm : Sub 0 m) : KeepsCmd m cmdSysPowerStatus := by
  unfold cmdSysPowerStatus
  apply KeepsCmd.mk
  intro s0 ctx s k
  extract_lets +onlyGivenNames x1
  clear_value x1
  extract_lets +onlyGivenNames x2
  clear_value x2
  extract_lets +onlyGivenNames x3
  clear_value x3
  exact okWith_keeps (hm.of rfl) (by assumption)

theorem execSysPowerMode_keeps {m} {s0 : State} {p1} {p2 : State} (hm : Sub 2095807 m) (k : Keeps m s0 p2) :
    KeepsR m s0 (execSysPowerMode p1 p2) := by
  unfold execSysPowerMode
  apply KeepsR.next
  with_reducible apply submit_keeps (hm.of rfl)
  · assumption
  · exact cmdSysPowerMode_keeps (hm.of rfl)

theorem execSysPowerStatus_keeps {m} {s0 : State} {p1} {p2 : State} (hm : Sub 8199 m) (k : Keeps m s0 p2) :
    KeepsR m s0 (execSysPowerStatus p1 p2) := by
  unfold execSysPowerStatus
  apply KeepsR.next
  with_reducible apply submit_keeps (hm.of rfl)
  · assumption
  · exact cmdSysPowerStatus_keeps (hm.of rfl)

end Sys2Proof.Machine
end

