-- ==== Sys2Proof/Laws/Keeps/VltCommands.lean ====
section
/-!
SUPPORT. What the operations of Machine/VltCommands.lean keep.
-/

namespace Sys2Proof.Machine

theorem cmdVltStatus_keeps {m} (hm : Sub 0 m) : KeepsCmd m cmdVltStatus := by
  unfold cmdVltStatus
  apply KeepsCmd.mk
  intro s0 ctx s k
  extract_lets +onlyGivenNames x1
  clear_value x1
  extract_lets +onlyGivenNames x2
  clear_value x2
  extract_lets +onlyGivenNames x3
  clear_value x3
  extract_lets +onlyGivenNames x4
  clear_value x4
  exact okWith_keeps (hm.of rfl) (by assumption)

theorem generatedMaterial_keeps {m} {s0 : State} {p1} {p2 : State} (hm : Sub 1 m) (k : Keeps m s0 p2) :
    Keeps m s0 (generatedMaterial p1 p2).2 := by
  unfold generatedMaterial
  extract_lets +onlyGivenNames x1
  have h2 : Keeps m s0 x1.2 := drawBytes_keeps (hm.of rfl) (by assumption)
  clear_value x1
  assumption

theorem cmdVltSlotWrite_keeps {m} (hm : Sub 16385 m) : KeepsCmd m cmdVltSlotWrite := by
  unfold cmdVltSlotWrite
  apply KeepsCmd.mk
  intro s0 ctx s k
  extract_lets +onlyGivenNames x1
  clear_value x1
  extract_lets +onlyGivenNames x2
  clear_value x2
  extract_lets +onlyGivenNames x3
  clear_value x3
  extract_lets +onlyGivenNames x4
  clear_value x4
  extract_lets +onlyGivenNames x5
  clear_value x5
  extract_lets +onlyGivenNames x6
  clear_value x6
  extract_lets +onlyGivenNames x7
  clear_value x7
  extract_lets +onlyGivenNames x8
  clear_value x8
  extract_lets +onlyGivenNames x9
  clear_value x9
  extract_lets +onlyGivenNames x10
  clear_value x10
  with_reducible apply checked_keeps (hm.of rfl)
  · assumption
  · apply KeepsA.ite
    · exact fail_keeps (hm.of rfl) (by assumption)
    · apply KeepsA.ite
      · exact fail_keeps (hm.of rfl) (by assumption)
      · extract_lets +onlyGivenNames x11
        have h12 : Keeps m s0 x11.2 := by
          unfold x11
          split
          · rename_i y13
            assumption
          · rename_i y14
            exact generatedMaterial_keeps (hm.of rfl) (by assumption)
        clear_value x11
        extract_lets +onlyGivenNames x15
        clear_value x15
        extract_lets +onlyGivenNames x16
        clear_value x16
        extract_lets +onlyGivenNames x17
        clear_value x17
        extract_lets +onlyGivenNames x18
        have h19 : Keeps m s0 x18 := setVlt_keeps (hm.of rfl) (by assumption)
        clear_value x18
        exact okWith_keeps (hm.of rfl) (by assumption)

theorem cmdVltSlotRead_keeps {m} (hm : Sub 0 m) : KeepsCmd m cmdVltSlotRead := by
  unfold cmdVltSlotRead
  apply KeepsCmd.mk
  intro s0 ctx s k
  extract_lets +onlyGivenNames x1
  clear_value x1
  with_reducible apply checked_keeps (hm.of rfl)
  · assumption
  · extract_lets +onlyGivenNames x2
    clear_value x2
    extract_lets +onlyGivenNames x3
    clear_value x3
    split
    · rename_i y4 y5
      extract_lets +onlyGivenNames x6
      clear_value x6
      exact okWith_keeps (hm.of rfl) (by assumption)
    · rename_i y7 y8 y9
      extract_lets +onlyGivenNames x10
      clear_value x10
      extract_lets +onlyGivenNames x11
      clear_value x11
      exact okWith_keeps (hm.of rfl) (by assumption)

theorem cmdVltSlotDestroy_keeps {m} (hm : Sub 16384 m) : KeepsCmd m cmdVltSlotDestroy := by
  unfold cmdVltSlotDestroy
  apply KeepsCmd.mk
  intro s0 ctx s k
  extract_lets +onlyGivenNames x1
  clear_value x1
  extract_lets +onlyGivenNames x2
  clear_value x2
  with_reducible apply checked_keeps (hm.of rfl)
  · assumption
  · extract_lets +onlyGivenNames x3
    clear_value x3
    extract_lets +onlyGivenNames x4
    clear_value x4
    extract_lets +onlyGivenNames x5
    clear_value x5
    extract_lets +onlyGivenNames x6
    clear_value x6
    apply KeepsA.ite
    · exact fail_keeps (hm.of rfl) (by assumption)
    · apply KeepsA.ite
      · exact fail_keeps (hm.of rfl) (by assumption)
      · apply KeepsA.ite
        · exact fail_keeps (hm.of rfl) (by assumption)
        · extract_lets +onlyGivenNames x7
          clear_value x7
          with_reducible apply okWith_keeps (hm.of rfl)
          exact setVlt_keeps (hm.of rfl) (by assumption)

theorem cmdVltCertSet_keeps {m} (hm : Sub 16386 m) : KeepsCmd m cmdVltCertSet := by
  unfold cmdVltCertSet
  apply KeepsCmd.mk
  intro s0 ctx s k
  extract_lets +onlyGivenNames x1
  clear_value x1
  extract_lets +onlyGivenNames x2
  clear_value x2
  extract_lets +onlyGivenNames x3
  clear_value x3
  extract_lets +onlyGivenNames x4
  clear_value x4
  extract_lets +onlyGivenNames x5
  clear_value x5
  extract_lets +onlyGivenNames x6
  clear_value x6
  extract_lets +onlyGivenNames x7
  clear_value x7
  with_reducible apply checked_keeps (hm.of rfl)
  · assumption
  · extract_lets +onlyGivenNames x8
    clear_value x8
    apply KeepsA.ite
    · exact fail_keeps (hm.of rfl) (by assumption)
    · apply KeepsA.ite
      · exact fail_keeps (hm.of rfl) (by assumption)
      · apply KeepsA.ite
        · apply KeepsA.accepted
          exact receiveTransfer_keeps (hm.of rfl) (by assumption)
        · extract_lets +onlyGivenNames x9
          clear_value x9
          apply KeepsA.ite
          · exact okWith_keeps (hm.of rfl) (by assumption)
          · apply KeepsA.accepted
            exact setVlt_keeps (hm.of rfl) (by assumption)

theorem certReceived_keeps {m} {s0 : State} {p1} {p2 : State} (hm : Sub 16388 m) (k : Keeps m s0 p2) :
    Keeps m s0 (certReceived p1 p2) := by
  unfold certReceived
  extract_lets +onlyGivenNames x1
  clear_value x1
  extract_lets +onlyGivenNames x2
  clear_value x2
  split
  · rename_i y3 y4
    exact tableFault_keeps (hm.of rfl) (by assumption)
  · rename_i y5 y6 y7
    extract_lets +onlyGivenNames x8
    clear_value x8
    extract_lets +onlyGivenNames x9
    clear_value x9
    apply Keeps.ite
    · exact complete_keeps (hm.of rfl) (by assumption)
    · apply Keeps.ite
      · exact complete_keeps (hm.of rfl) (by assumption)
      · apply Keeps.ite
        · exact complete_keeps (hm.of rfl) (by assumption)
        · exact setVlt_keeps (hm.of rfl) (by assumption)

theorem cmdVltAttest_keeps {m} (hm : Sub 26631 m) : KeepsCmd m cmdVltAttest := by
  unfold cmdVltAttest
  apply KeepsCmd.mk
  intro s0 ctx s k
  extract_lets +onlyGivenNames x1
  clear_value x1
  extract_lets +onlyGivenNames x2
  clear_value x2
  apply KeepsA.ite
  · exact fail_keeps (hm.of rfl) (by assumption)
  · extract_lets +onlyGivenNames x3
    have h4 : Keeps m s0 x3.2 := keyFor_keeps (hm.of rfl) (by assumption)
    clear_value x3
    split
    · rename_i y5 y6
      with_reducible apply fail_keeps (hm.of rfl)
      apply Keeps.ite
      · assumption
      · assumption
    · rename_i y7 y8 y9
      extract_lets +onlyGivenNames x10
      clear_value x10
      extract_lets +onlyGivenNames x11
      clear_value x11
      extract_lets +onlyGivenNames x12
      clear_value x12
      with_reducible apply okWith_keeps (hm.of rfl)
      exact setVlt_keeps (hm.of rfl) (by assumption)

theorem cmdVltEngine_keeps {m} (hm : Sub 16385 m) : KeepsCmd m cmdVltEngine := by
  unfold cmdVltEngine
  apply KeepsCmd.mk
  intro s0 ctx s k
  extract_lets +onlyGivenNames x1
  clear_value x1
  extract_lets +onlyGivenNames x2
  clear_value x2
  extract_lets +onlyGivenNames x3
  clear_value x3
  with_reducible apply checked_keeps (hm.of rfl)
  · assumption
  · extract_lets +onlyGivenNames x4
    clear_value x4
    apply KeepsA.ite
    · exact okWith_keeps (hm.of rfl) (by assumption)
    · apply KeepsA.ite
      · extract_lets +onlyGivenNames x5
        have h6 : Keeps m s0 x5.2 := draw_keeps (hm.of rfl) (by assumption)
        clear_value x5
        exact fail_keeps (hm.of rfl) (by assumption)
      · apply KeepsA.ite
        · exact fail_keeps (hm.of rfl) (by assumption)
        · apply KeepsA.later
          exact setEngine_keeps (hm.of rfl) (by assumption)

theorem execVltStatus_keeps {m} {s0 : State} {p1} {p2 : State} (hm : Sub 8199 m) (k : Keeps m s0 p2) :
    KeepsR m s0 (execVltStatus p1 p2) := by
  unfold execVltStatus
  apply KeepsR.next
  with_reducible apply submit_keeps (hm.of rfl)
  · assumption
  · exact cmdVltStatus_keeps (hm.of rfl)

theorem execVltSlotWrite_keeps {m} {s0 : State} {p1} {p2 : State} (hm : Sub 24583 m) (k : Keeps m s0 p2) :
    KeepsR m s0 (execVltSlotWrite p1 p2) := by
  unfold execVltSlotWrite
  apply KeepsR.next
  with_reducible apply submit_keeps (hm.of rfl)
  · assumption
  · exact cmdVltSlotWrite_keeps (hm.of rfl)

theorem execVltSlotRead_keeps {m} {s0 : State} {p1} {p2 : State} (hm : Sub 8199 m) (k : Keeps m s0 p2) :
    KeepsR m s0 (execVltSlotRead p1 p2) := by
  unfold execVltSlotRead
  apply KeepsR.next
  with_reducible apply submit_keeps (hm.of rfl)
  · assumption
  · exact cmdVltSlotRead_keeps (hm.of rfl)

theorem execVltSlotDestroy_keeps {m} {s0 : State} {p1} {p2 : State} (hm : Sub 24583 m) (k : Keeps m s0 p2) :
    KeepsR m s0 (execVltSlotDestroy p1 p2) := by
  unfold execVltSlotDestroy
  apply KeepsR.next
  with_reducible apply submit_keeps (hm.of rfl)
  · assumption
  · exact cmdVltSlotDestroy_keeps (hm.of rfl)

theorem execVltCertSet_keeps {m} {s0 : State} {p1} {p2 : State} (hm : Sub 24583 m) (k : Keeps m s0 p2) :
    KeepsR m s0 (execVltCertSet p1 p2) := by
  unfold execVltCertSet
  apply KeepsR.next
  with_reducible apply submit_keeps (hm.of rfl)
  · assumption
  · exact cmdVltCertSet_keeps (hm.of rfl)

theorem execVltAttest_keeps {m} {s0 : State} {p1} {p2 : State} (hm : Sub 26631 m) (k : Keeps m s0 p2) :
    KeepsR m s0 (execVltAttest p1 p2) := by
  unfold execVltAttest
  apply KeepsR.next
  with_reducible apply submit_keeps (hm.of rfl)
  · assumption
  · exact cmdVltAttest_keeps (hm.of rfl)

theorem execVltEngine_keeps {m} {s0 : State} {p1} {p2 : State} (hm : Sub 24583 m) (k : Keeps m s0 p2) :
    KeepsR m s0 (execVltEngine p1 p2) := by
  unfold execVltEngine
  apply KeepsR.next
  with_reducible apply submit_keeps (hm.of rfl)
  · assumption
  · exact cmdVltEngine_keeps (hm.of rfl)

end Sys2Proof.Machine
end

