-- ==== Sys2Proof/Laws/Keeps/Commands.lean ====
section
/-!
SUPPORT. What the operations of Machine/Commands.lean keep.
-/

namespace Sys2Proof.Machine

theorem commands01_keeps {m} (hm : Sub 2095807 m) : ∀ c ∈ commands01, KeepsCmd m c := by
  simp only [commands01, List.forall_mem_cons, List.not_mem_nil, false_imp_iff, implies_true, and_true]
  exact ⟨cmdSysIdentify_keeps (hm.of rfl), cmdSysSessionOpen_keeps (hm.of rfl), cmdSysSessionAuth_keeps (hm.of rfl), cmdSysSessionClose_keeps (hm.of rfl), cmdSysStreamConfig_keeps (hm.of rfl), cmdSysLifecycle_keeps (hm.of rfl), cmdSysPowerMode_keeps (hm.of rfl), cmdSysPowerStatus_keeps (hm.of rfl)⟩

theorem commands02_keeps {m} (hm : Sub 8311 m) : ∀ c ∈ commands02, KeepsCmd m c := by
  simp only [commands02, List.forall_mem_cons, List.not_mem_nil, false_imp_iff, implies_true, and_true]
  exact ⟨cmdTimeStatus_keeps (hm.of rfl), cmdTimeConfig_keeps (hm.of rfl), cmdTimeStep_keeps (hm.of rfl), cmdTimeCivil_keeps (hm.of rfl), cmdTimeTicks_keeps (hm.of rfl)⟩

theorem commands03_keeps {m} (hm : Sub 10439 m) : ∀ c ∈ commands03, KeepsCmd m c := by
  simp only [commands03, List.forall_mem_cons, List.not_mem_nil, false_imp_iff, implies_true, and_true]
  exact ⟨cmdYrwStatus_keeps (hm.of rfl), cmdYrwCatalogue_keeps (hm.of rfl), cmdYrwWorkloadArm_keeps (hm.of rfl), cmdYrwParamSet_keeps (hm.of rfl), cmdYrwSpares_keeps (hm.of rfl), cmdYrwUmbel_keeps (hm.of rfl), cmdYrwKernelRoll_keeps (hm.of rfl), cmdYrwLoad_keeps (hm.of rfl), cmdYrwWorkloadStats_keeps (hm.of rfl), cmdYrwWorkloadRead_keeps (hm.of rfl)⟩

theorem commands04_keeps {m} (hm : Sub 256 m) : ∀ c ∈ commands04, KeepsCmd m c := by
  simp only [commands04, List.forall_mem_cons, List.not_mem_nil, false_imp_iff, implies_true, and_true]
  exact ⟨cmdMemStatus_keeps (hm.of rfl), cmdMemArbRead_keeps (hm.of rfl), cmdMemArbSet_keeps (hm.of rfl), cmdMemArbStats_keeps (hm.of rfl)⟩

theorem commands05_keeps {m} (hm : Sub 515 m) : ∀ c ∈ commands05, KeepsCmd m c := by
  simp only [commands05, List.forall_mem_cons, List.not_mem_nil, false_imp_iff, implies_true, and_true]
  exact ⟨cmdMetStatus_keeps (hm.of rfl), cmdMetSetRead_keeps (hm.of rfl), cmdMetChannelRead_keeps (hm.of rfl), cmdMetRingStatus_keeps (hm.of rfl), cmdMetCalArm_keeps (hm.of rfl), cmdMetCalCapture_keeps (hm.of rfl), cmdMetDemandSet_keeps (hm.of rfl), cmdMetDemandReset_keeps (hm.of rfl), cmdMetAuditRead_keeps (hm.of rfl)⟩

theorem commands06_keeps {m} (hm : Sub 26663 m) : ∀ c ∈ commands06, KeepsCmd m c := by
  simp only [commands06, List.forall_mem_cons, List.not_mem_nil, false_imp_iff, implies_true, and_true]
  exact ⟨cmdLedStatus_keeps (hm.of rfl), cmdLedAccountRead_keeps (hm.of rfl), cmdLedAccountSet_keeps (hm.of rfl), cmdLedTokenSubmit_keeps (hm.of rfl), cmdLedAdjust_keeps (hm.of rfl), cmdLedSupply_keeps (hm.of rfl), cmdLedAccountRestore_keeps (hm.of rfl), cmdLedTariffArm_keeps (hm.of rfl), cmdLedLocalRead_keeps (hm.of rfl), cmdLedJournalRead_keeps (hm.of rfl)⟩

theorem commands07_keeps {m} (hm : Sub 131142 m) : ∀ c ∈ commands07, KeepsCmd m c := by
  simp only [commands07, List.forall_mem_cons, List.not_mem_nil, false_imp_iff, implies_true, and_true]
  exact ⟨cmdBalStatus_keeps (hm.of rfl), cmdBalModelArm_keeps (hm.of rfl), cmdBalRulesSet_keeps (hm.of rfl), cmdBalAttribute_keeps (hm.of rfl), cmdBalNetworkRead_keeps (hm.of rfl), cmdBalHistoryRead_keeps (hm.of rfl), cmdBalSuspicionRead_keeps (hm.of rfl), cmdBalSuspicionClose_keeps (hm.of rfl)⟩

theorem commands08_keeps {m} (hm : Sub 59463 m) : ∀ c ∈ commands08, KeepsCmd m c := by
  simp only [commands08, List.forall_mem_cons, List.not_mem_nil, false_imp_iff, implies_true, and_true]
  exact ⟨cmdStemStatus_keeps (hm.of rfl), cmdStemBridgeSet_keeps (hm.of rfl), cmdStemTxSet_keeps (hm.of rfl), cmdStemBridgeRead_keeps (hm.of rfl), cmdPlcPollSet_keeps (hm.of rfl), cmdPlcNetworkRead_keeps (hm.of rfl), cmdPlcNodeRead_keeps (hm.of rfl)⟩

theorem commands09_keeps {m} (hm : Sub 65606 m) : ∀ c ∈ commands09, KeepsCmd m c := by
  simp only [commands09, List.forall_mem_cons, List.not_mem_nil, false_imp_iff, implies_true, and_true]
  exact ⟨cmdRfNetworkSet_keeps (hm.of rfl), cmdRfNetworkRead_keeps (hm.of rfl), cmdRfConnRead_keeps (hm.of rfl), cmdMtrBind_keeps (hm.of rfl), cmdMtrRead_keeps (hm.of rfl), cmdMtrRequest_keeps (hm.of rfl), cmdMtrFwStage_keeps (hm.of rfl), cmdMtrFwCampaign_keeps (hm.of rfl), cmdMtrFwStatus_keeps (hm.of rfl)⟩

theorem commands0A_keeps {m} (hm : Sub 804964 m) : ∀ c ∈ commands0A, KeepsCmd m c := by
  simp only [commands0A, List.forall_mem_cons, List.not_mem_nil, false_imp_iff, implies_true, and_true]
  exact ⟨cmdChgStatus_keeps (hm.of rfl), cmdChgPointSet_keeps (hm.of rfl), cmdChgPathSet_keeps (hm.of rfl), cmdChgBusSet_keeps (hm.of rfl), cmdChgIdSet_keeps (hm.of rfl), cmdChgAuthorise_keeps (hm.of rfl), cmdChgStop_keeps (hm.of rfl), cmdChgPointRead_keeps (hm.of rfl)⟩

theorem commands0B_keeps {m} (hm : Sub 264263 m) : ∀ c ∈ commands0B, KeepsCmd m c := by
  simp only [commands0B, List.forall_mem_cons, List.not_mem_nil, false_imp_iff, implies_true, and_true]
  exact ⟨cmdFioLsConfig_keeps (hm.of rfl), cmdFioLsSet_keeps (hm.of rfl), cmdFioLsRead_keeps (hm.of rfl), cmdFioPanelSet_keeps (hm.of rfl), cmdFioPanelDraw_keeps (hm.of rfl), cmdFioPanelRead_keeps (hm.of rfl), cmdSafStatus_keeps (hm.of rfl), cmdSafInputSet_keeps (hm.of rfl), cmdSafOutputSet_keeps (hm.of rfl)⟩

theorem commands0C_keeps {m} (hm : Sub 26631 m) : ∀ c ∈ commands0C, KeepsCmd m c := by
  simp only [commands0C, List.forall_mem_cons, List.not_mem_nil, false_imp_iff, implies_true, and_true]
  exact ⟨cmdVltStatus_keeps (hm.of rfl), cmdVltSlotWrite_keeps (hm.of rfl), cmdVltSlotRead_keeps (hm.of rfl), cmdVltSlotDestroy_keeps (hm.of rfl), cmdVltCertSet_keeps (hm.of rfl), cmdVltAttest_keeps (hm.of rfl), cmdVltEngine_keeps (hm.of rfl)⟩

theorem commands0D_keeps {m} (hm : Sub 1047471 m) : ∀ c ∈ commands0D, KeepsCmd m c := by
  simp only [commands0D, List.forall_mem_cons, List.not_mem_nil, false_imp_iff, implies_true, and_true]
  exact ⟨cmdFltStatus_keeps (hm.of rfl), cmdFltRead_keeps (hm.of rfl), cmdFltClear_keeps (hm.of rfl), cmdFltSafe_keeps (hm.of rfl), cmdFltInject_keeps (hm.of rfl), cmdFltTamper_keeps (hm.of rfl), cmdDutyStatus_keeps (hm.of rfl), cmdDutyYield_keeps (hm.of rfl), cmdDutyTakeover_keeps (hm.of rfl), cmdDutyResync_keeps (hm.of rfl)⟩

theorem commands0E_keeps {m} (hm : Sub 1058871 m) : ∀ c ∈ commands0E, KeepsCmd m c := by
  simp only [commands0E, List.forall_mem_cons, List.not_mem_nil, false_imp_iff, implies_true, and_true]
  exact ⟨cmdLnkStatus_keeps (hm.of rfl), cmdLnkGrouping_keeps (hm.of rfl), cmdLnkPortSet_keeps (hm.of rfl), cmdLnkAddrSet_keeps (hm.of rfl), cmdLnkMacsecSet_keeps (hm.of rfl), cmdLnkPortRead_keeps (hm.of rfl)⟩

theorem commands0F_keeps {m} (hm : Sub 883623 m) : ∀ c ∈ commands0F, KeepsCmd m c := by
  simp only [commands0F, List.forall_mem_cons, List.not_mem_nil, false_imp_iff, implies_true, and_true]
  exact ⟨cmdSvcStatus_keeps (hm.of rfl), cmdSvcStage_keeps (hm.of rfl), cmdSvcUpdate_keeps (hm.of rfl), cmdSvcBank_keeps (hm.of rfl), cmdSvcTraceConfig_keeps (hm.of rfl), cmdSvcTraceExport_keeps (hm.of rfl), cmdSvcTraceMark_keeps (hm.of rfl)⟩

theorem commands_keeps {m} (hm : Sub 2096127 m) : ∀ c ∈ commands, KeepsCmd m c := by
  unfold commands
  simp only [List.forall_mem_append]
  exact ⟨⟨⟨⟨⟨⟨⟨⟨⟨⟨⟨⟨⟨⟨commands01_keeps (hm.of rfl), commands02_keeps (hm.of rfl)⟩, commands03_keeps (hm.of rfl)⟩, commands04_keeps (hm.of rfl)⟩, commands05_keeps (hm.of rfl)⟩, commands06_keeps (hm.of rfl)⟩, commands07_keeps (hm.of rfl)⟩, commands08_keeps (hm.of rfl)⟩, commands09_keeps (hm.of rfl)⟩, commands0A_keeps (hm.of rfl)⟩, commands0B_keeps (hm.of rfl)⟩, commands0C_keeps (hm.of rfl)⟩, commands0D_keeps (hm.of rfl)⟩, commands0E_keeps (hm.of rfl)⟩, commands0F_keeps (hm.of rfl)⟩

theorem commandOf_keeps {m} (hm : Sub 2096127 m) {opcode : Nat} {c : Cmd} (h : commandOf opcode = some c) : KeepsCmd m c :=
  commands_keeps (hm.of rfl) c (List.mem_of_find?_eq_some h)

theorem serveCode_keeps {m} {s0 : State} {p1} {p2 : State} (hm : Sub 2096127 m) (k : Keeps m s0 p2) :
    Keeps m s0 (serveCode p1 p2) := by
  unfold serveCode
  split
  · rename_i c e
    exact serve_keeps (hm.of rfl) k (commandOf_keeps (hm.of rfl) e)
  · exact answer_keeps (hm.of rfl) k

theorem drainWaiting_keeps {m} {s0 : State} {p1} {p2 : State} (hm : Sub 2096127 m) (k : Keeps m s0 p2) :
    Keeps m s0 (drainWaiting p1 p2) := by
  fun_induction drainWaiting
  · rename_i y1
    assumption
  · rename_i y2 y3 y4 y5
    with_reducible apply y5
    apply Keeps.ite
    · with_reducible apply serveCode_keeps (hm.of rfl)
      exact Keeps.upd 4 (hm.of rfl) (by assumption) (Nat.le_refl _) ⟨id, rfl, rfl, rfl⟩ ⟨Nat.le_refl _, id, id, id⟩ ⟨id⟩ rfl
    · assumption

theorem drain_keeps {m} {s0 : State} {p1 : State} (hm : Sub 2096127 m) (k : Keeps m s0 p1) :
    Keeps m s0 (drain p1) := by
  unfold drain
  exact drainWaiting_keeps (hm.of rfl) (by assumption)

theorem arriveCode_keeps {m} {s0 : State} {p1} {p2 : State} (hm : Sub 2096127 m) (k : Keeps m s0 p2) :
    Keeps m s0 (arriveCode p1 p2) := by
  unfold arriveCode
  split
  · rename_i c e
    exact arrive_keeps (hm.of rfl) k (commandOf_keeps (hm.of rfl) e)
  · apply Keeps.ite
    · exact serveCode_keeps (hm.of rfl) k
    · exact enqueue_keeps (hm.of rfl) k

end Sys2Proof.Machine
end

