-- ==== Sys2Proof/Laws/Keeps/Registers.lean ====
section
/-!
SUPPORT. What the operations of Machine/Registers.lean keep.
-/

namespace Sys2Proof.Machine

theorem readRegister_keeps {m} {s0 : State} {p1} {p2 : State} (hm : Sub 2 m) (k : Keeps m s0 p2) :
    Keeps m s0 (readRegister p1 p2).2 := by
  unfold readRegister
  split
  · rename_i y1
    apply Keeps.sndMk
    assumption
  · rename_i y2
    split
    · rename_i y3
      apply Keeps.sndMk
      exact hostError_keeps (hm.of rfl) (by assumption)
    · rename_i y4
      split
      · rename_i y5
        apply Keeps.sndMk
        exact hostError_keeps (hm.of rfl) (by assumption)
      · rename_i y6
        extract_lets +onlyGivenNames x7
        clear_value x7
        split
        · rename_i y8
          apply Keeps.sndMk
          exact Keeps.upd 2 (hm.of rfl) (by assumption) (Nat.le_refl _) ⟨id, rfl, rfl, rfl⟩ ⟨Nat.le_refl _, id, id, id⟩ ⟨id⟩ rfl
        · rename_i y9
          split
          · rename_i y10
            apply Keeps.sndMk
            exact Keeps.upd 2 (hm.of rfl) (by assumption) (Nat.le_refl _) ⟨id, rfl, rfl, rfl⟩ ⟨Nat.le_refl _, id, id, id⟩ ⟨id⟩ rfl
          · rename_i y11
            split
            · rename_i y12
              apply Keeps.sndMk
              exact Keeps.upd 2 (hm.of rfl) (by assumption) (Nat.le_refl _) ⟨id, rfl, rfl, rfl⟩ ⟨Nat.le_refl _, id, id, id⟩ ⟨id⟩ rfl
            · rename_i y13
              apply Keeps.sndMk
              assumption

end Sys2Proof.Machine
end

