-- ==== Sys2Proof/Laws/Keeps/PowerDown.lean ====
section
/-!
SUPPORT. What the operations of Machine/PowerDown.lean keep.
-/

namespace Sys2Proof.Machine

theorem stopForPowerDown_keeps {m} {s0 : State} {p1} {p2 : State} (hm : Sub 12687 m) (k : Keeps m s0 p2) :
    Keeps m s0 (stopForPowerDown p1 p2) := by
  unfold stopForPowerDown
  extract_lets +onlyGivenNames x1
  clear_value x1
  extract_lets +onlyGivenNames x2
  have h3 : Keeps m s0 x2 := by
    unfold x2
    with_reducible apply setYrw_keeps (hm.of rfl)
    exact setPwr_keeps (hm.of rfl) (by assumption)
  clear_value x2
  extract_lets +onlyGivenNames x4
  clear_value x4
  extract_lets +onlyGivenNames x5
  clear_value x5
  extract_lets +onlyGivenNames x6
  have h7 : Keeps m s0 x6 := by
    unfold x6
    exact Keeps.rest 256 (hm.of rfl) (by assumption) rfl
  clear_value x6
  extract_lets +onlyGivenNames x8
  clear_value x8
  extract_lets +onlyGivenNames x9
  have h10 : Keeps m s0 x9 := by
    unfold x9
    apply Keeps.ite
    · with_reducible apply setSvc_keeps (hm.of rfl)
      exact setBuildBank_keeps (hm.of rfl) (by assumption)
    · assumption
  clear_value x9
  with_reducible apply enterMode_keeps (hm.of rfl)
  with_reducible apply toHandover_keeps (hm.of rfl)
  exact loseSync_keeps (hm.of rfl) (by assumption)

theorem shedLoad_keeps {m} {s0 : State} {p1 : State} (hm : Sub 1059007 m) (k : Keeps m s0 p1) :
    Keeps m s0 (shedLoad p1) := by
  unfold shedLoad
  extract_lets +onlyGivenNames x1
  have h2 : Keeps m s0 x1 := computeDown_keeps (hm.of rfl) (by assumption)
  clear_value x1
  apply Keeps.foldl
  · intro a3 a5 h8
    exact portTo_keeps (hm.of rfl) (by assumption)
  · assumption

theorem disposeTicks_keeps {m} {s0 : State} {p1 : State} (hm : Sub 211631 m) (k : Keeps m s0 p1) :
    Keeps m s0 (disposeTicks p1) := by
  unfold disposeTicks
  with_reducible apply abortFrom_keeps (hm.of rfl)
  exact commitClosed_keeps (hm.of rfl) (by assumption)

theorem writeEnergy_keeps {m} {s0 : State} {p1 p2} {p3 : State} (hm : Sub 9 m) (k : Keeps m s0 p3) :
    Keeps m s0 (writeEnergy p1 p2 p3) := by
  unfold writeEnergy
  extract_lets +onlyGivenNames x1
  clear_value x1
  extract_lets +onlyGivenNames x2
  clear_value x2
  extract_lets +onlyGivenNames x3
  clear_value x3
  extract_lets +onlyGivenNames x4
  have h5 : Keeps m s0 x4 := by
    unfold x4
    refine Keeps.upd 1 (hm.of rfl) ?_ ?_ ?_ ?_ ?_ rfl
    · assumption
    · exact Nat.le_succ _
    · exact ⟨id, rfl, rfl, rfl⟩
    · exact ⟨Nat.le_refl _, id, id, id⟩
    · exact ⟨id⟩
  clear_value x4
  exact setPwr_keeps (hm.of rfl) (by assumption)

theorem fieldOff_keeps {m} {s0 : State} {p1 : State} (hm : Sub 836140 m) (k : Keeps m s0 p1) :
    Keeps m s0 (fieldOff p1) := by
  unfold fieldOff
  apply Keeps.ite
  · assumption
  · extract_lets +onlyGivenNames x1
    have h2 : Keeps m s0 x1 := panelsAbrupt_keeps (hm.of rfl) (by assumption)
    clear_value x1
    extract_lets +onlyGivenNames x3
    have h4 : Keeps m s0 x3 := setPwr_keeps (hm.of rfl) (by assumption)
    clear_value x3
    with_reducible apply reviewPoints_keeps (hm.of rfl)
    with_reducible apply fieldDown_keeps (hm.of rfl)
    with_reducible apply ringsDown_keeps (hm.of rfl)
    with_reducible apply metFieldDown_keeps (hm.of rfl)
    exact stemField_keeps (hm.of rfl) (by assumption)

theorem flushQueue_keeps {m} {s0 : State} {p1} {p2 : State} (hm : Sub 32 m) (k : Keeps m s0 p2) :
    Keeps m s0 (flushQueue p1 p2) := by
  unfold flushQueue
  exact Keeps.upd 32 (hm.of rfl) (by assumption) (Nat.le_refl _) ⟨id, rfl, rfl, rfl⟩ ⟨Nat.le_refl _, id, id, id⟩ ⟨id⟩ rfl

theorem writeTail_keeps {m} {s0 : State} {p1 p2 p3} {p4 : State} (hm : Sub 8192 m) (k : Keeps m s0 p4) :
    Keeps m s0 (writeTail p1 p2 p3 p4) := by
  unfold writeTail
  extract_lets +onlyGivenNames x1
  clear_value x1
  exact setSvc_keeps (hm.of rfl) (by assumption)

theorem loseHost_keeps {m} {s0 : State} {p1 : State} (hm : Sub 6 m) (k : Keeps m s0 p1) :
    Keeps m s0 (loseHost p1) := by
  unfold loseHost
  exact Keeps.upd 6 (hm.of rfl) k (Nat.le_refl _) ⟨fun _ => zero_mail, rfl, rfl, rfl⟩
    ⟨Nat.le_refl _, id, fun _ => Nat.zero_le _, fun _ => Nat.zero_le _⟩ ⟨id⟩ rfl

theorem loseLedger_keeps {m} {s0 : State} {p1 : State} (hm : Sub 48 m) (k : Keeps m s0 p1) :
    Keeps m s0 (loseLedger p1) := by
  unfold loseLedger
  exact Keeps.upd 48 (hm.of rfl) k (Nat.le_refl _) ⟨id, rfl, rfl, rfl⟩ ⟨Nat.le_refl _, id, id, id⟩ ⟨fun _ => Nat.zero_le _⟩ rfl

theorem loseTeasel_keeps {m} {s0 : State} {p1 : State} (hm : Sub 14336 m) (k : Keeps m s0 p1) :
    Keeps m s0 (loseTeasel p1) := by
  unfold loseTeasel
  exact Keeps.rest 14336 (hm.of rfl) (by assumption) rfl

theorem loseField_keeps {m} {s0 : State} {p1 : State} (hm : Sub 787200 m) (k : Keeps m s0 p1) :
    Keeps m s0 (loseField p1) := by
  unfold loseField
  extract_lets +onlyGivenNames x1
  clear_value x1
  exact Keeps.rest 787200 (hm.of rfl) (by assumption) rfl

theorem vigilDown_keeps {m} {s0 : State} {p1 : State} (hm : Sub 2096062 m) (k : Keeps m s0 p1) :
    Keeps m s0 (vigilDown p1) := by
  unfold vigilDown
  extract_lets +onlyGivenNames x1
  have h2 : Keeps m s0 x1 := fieldOff_keeps (hm.of rfl) (by assumption)
  clear_value x1
  extract_lets +onlyGivenNames x3
  have h4 : Keeps m s0 x3 := by
    unfold x3
    with_reducible apply loseField_keeps (hm.of rfl)
    with_reducible apply loseTeasel_keeps (hm.of rfl)
    with_reducible apply loseLedger_keeps (hm.of rfl)
    with_reducible apply loseHost_keeps (hm.of rfl)
    with_reducible apply coldLinks_keeps (hm.of rfl)
    exact coldEngines_keeps (hm.of rfl) (by assumption)
  clear_value x3
  extract_lets +onlyGivenNames x5
  have h6 : Keeps m s0 x5 := by
    unfold x5
    with_reducible apply coldBalance_keeps (hm.of rfl)
    with_reducible apply coldRadio_keeps (hm.of rfl)
    with_reducible apply coldStem_keeps (hm.of rfl)
    exact coldYarrow_keeps (hm.of rfl) (by assumption)
  clear_value x5
  extract_lets +onlyGivenNames x7
  have h8 : Keeps m s0 x7 := setYrw_keeps (hm.of rfl) (by assumption)
  clear_value x7
  exact setPwr_keeps (hm.of rfl) (by assumption)

theorem keepGone_keeps {m} {s0 : State} {p1 : State} (hm : Sub 2072 m) (k : Keeps m s0 p1) :
    Keeps m s0 (keepGone p1) := by
  unfold keepGone
  extract_lets +onlyGivenNames x1
  have h2 : Keeps m s0 x1 := setPwr_keeps (hm.of rfl) (by assumption)
  clear_value x1
  extract_lets +onlyGivenNames x3
  have h4 : Keeps m s0 x3 := setTime_keeps (hm.of rfl) (by assumption)
  clear_value x3
  exact Keeps.rest 2048 (hm.of rfl) (by assumption) rfl

theorem enterKeep_keeps {m} {s0 : State} {p1} {p2 : State} (hm : Sub 2096062 m) (k : Keeps m s0 p2) :
    Keeps m s0 (enterKeep p1 p2) := by
  unfold enterKeep
  extract_lets +onlyGivenNames x1
  have h2 : Keeps m s0 x1 := by
    unfold x1
    apply Keeps.ite
    · exact setTime_keeps (hm.of rfl) (by assumption)
    · assumption
  clear_value x1
  extract_lets +onlyGivenNames x3
  clear_value x3
  extract_lets +onlyGivenNames x4
  have h5 : Keeps m s0 x4 := by
    unfold x4
    with_reducible apply setPwr_keeps (hm.of rfl)
    exact vigilDown_keeps (hm.of rfl) (by assumption)
  clear_value x4
  apply Keeps.ite
  · exact keepGone_keeps (hm.of rfl) (by assumption)
  · assumption

theorem powerDown_keeps {m} {s0 : State} {p1 p2 p3} {p4 : State} (hm : Sub 2096063 m) (k : Keeps m s0 p4) :
    Keeps m s0 (powerDown p1 p2 p3 p4) := by
  unfold powerDown
  extract_lets +onlyGivenNames x1
  clear_value x1
  extract_lets +onlyGivenNames x2
  clear_value x2
  extract_lets +onlyGivenNames x3
  clear_value x3
  extract_lets +onlyGivenNames x4
  clear_value x4
  extract_lets +onlyGivenNames x5
  clear_value x5
  extract_lets +onlyGivenNames x6
  clear_value x6
  extract_lets +onlyGivenNames x7
  clear_value x7
  extract_lets +onlyGivenNames x8
  clear_value x8
  extract_lets +onlyGivenNames x9
  clear_value x9
  extract_lets +onlyGivenNames x10
  clear_value x10
  extract_lets +onlyGivenNames x11
  have h12 : Keeps m s0 x11 := stopForPowerDown_keeps (hm.of rfl) (by assumption)
  clear_value x11
  extract_lets +onlyGivenNames x13
  have h14 : Keeps m s0 x13 := by
    unfold x13
    apply Keeps.ite
    · exact fieldOff_keeps (hm.of rfl) (by assumption)
    · assumption
  clear_value x13
  extract_lets +onlyGivenNames x15
  have h16 : Keeps m s0 x15 := by
    unfold x15
    apply Keeps.ite
    · exact releaseBaton_keeps (hm.of rfl) (by assumption)
    · assumption
  clear_value x15
  extract_lets +onlyGivenNames x17
  have h18 : Keeps m s0 x17 := by
    unfold x17
    apply Keeps.ite
    · exact shedLoad_keeps (hm.of rfl) (by assumption)
    · assumption
  clear_value x17
  extract_lets +onlyGivenNames x19
  have h20 : Keeps m s0 x19 := by
    unfold x19
    apply Keeps.ite
    · exact fieldOff_keeps (hm.of rfl) (by assumption)
    · assumption
  clear_value x19
  extract_lets +onlyGivenNames x21
  have h22 : Keeps m s0 x21.2 := draw_keeps (hm.of rfl) (by assumption)
  clear_value x21
  extract_lets +onlyGivenNames x23
  have h24 : Keeps m s0 x23 := by
    unfold x23
    apply Keeps.ite
    · exact disposeTicks_keeps (hm.of rfl) (by assumption)
    · apply Keeps.ite
      · apply Keeps.ite
        · with_reducible apply commitClosed_keeps (hm.of rfl)
          assumption
        · assumption
      · assumption
  clear_value x23
  extract_lets +onlyGivenNames x25
  clear_value x25
  extract_lets +onlyGivenNames x26
  clear_value x26
  extract_lets +onlyGivenNames x27
  clear_value x27
  extract_lets +onlyGivenNames x28
  have h29 : Keeps m s0 x28 := by
    unfold x28
    apply Keeps.ite
    · exact writeEnergy_keeps (hm.of rfl) (by assumption)
    · assumption
  clear_value x28
  extract_lets +onlyGivenNames x30
  have h31 : Keeps m s0 x30 := by
    unfold x30
    apply Keeps.ite
    · exact fieldOff_keeps (hm.of rfl) (by assumption)
    · assumption
  clear_value x30
  extract_lets +onlyGivenNames x32
  clear_value x32
  extract_lets +onlyGivenNames x33
  have h34 : Keeps m s0 x33.2 := draw_keeps (hm.of rfl) (by assumption)
  clear_value x33
  extract_lets +onlyGivenNames x35
  extract_lets +onlyGivenNames x36
  have h37 : Keeps m s0 x36 := by
    unfold x36
    apply Keeps.ite
    · exact flushQueue_keeps (hm.of rfl) (by assumption)
    · apply Keeps.ite
      · assumption
      · apply Keeps.ite
        · with_reducible apply flushQueue_keeps (hm.of rfl)
          assumption
        · exact Keeps.upd 32 (hm.of rfl) (by assumption) (Nat.le_refl _) ⟨id, rfl, rfl, rfl⟩ ⟨Nat.le_refl _, id, id, id⟩ ⟨id⟩ rfl
  clear_value x36
  extract_lets +onlyGivenNames x38
  have h39 : Keeps m s0 x38 := by
    unfold x38
    apply Keeps.ite
    · exact writeTail_keeps (hm.of rfl) (by assumption)
    · apply Keeps.ite
      · exact writeTail_keeps (hm.of rfl) (by assumption)
      · assumption
  clear_value x38
  extract_lets +onlyGivenNames x40
  have h41 : Keeps m s0 x40.2 := draw_keeps (hm.of rfl) (by assumption)
  clear_value x40
  extract_lets +onlyGivenNames x42
  clear_value x42
  extract_lets +onlyGivenNames x43
  clear_value x43
  extract_lets +onlyGivenNames x44
  have h45 : Keeps m s0 x44 := by
    unfold x44
    apply Keeps.ite
    · with_reducible apply setPwr_keeps (hm.of rfl)
      assumption
    · with_reducible apply setPwr_keeps (hm.of rfl)
      assumption
  clear_value x44
  exact enterKeep_keeps (hm.of rfl) (by assumption)

theorem execPowerFailDetection_keeps {m} {s0 : State} {p1 p2} {p3 : State} (hm : Sub 2096063 m) (k : Keeps m s0 p3) :
    KeepsR m s0 (execPowerFailDetection p1 p2 p3) := by
  unfold execPowerFailDetection
  apply KeepsR.next
  apply Keeps.ite
  · assumption
  · with_reducible apply powerDown_keeps (hm.of rfl)
    exact setPwr_keeps (hm.of rfl) (by assumption)

theorem detectOffset_keeps {m} {s0 : State} {p1 : State} (hm : Sub 1 m) (k : Keeps m s0 p1) :
    Keeps m s0 (detectOffset p1).2 := by
  unfold detectOffset
  exact draw_keeps (hm.of rfl) (by assumption)

theorem execModEnNRise_keeps {m} {s0 : State} {p1 : State} (hm : Sub 2096063 m) (k : Keeps m s0 p1) :
    KeepsR m s0 (execModEnNRise p1) := by
  unfold execModEnNRise
  extract_lets +onlyGivenNames x1
  have h2 : Keeps m s0 x1 := setPwr_keeps (hm.of rfl) (by assumption)
  clear_value x1
  apply KeepsR.next
  apply Keeps.ite
  · exact setPwr_keeps (hm.of rfl) (by assumption)
  · extract_lets +onlyGivenNames x3
    have h4 : Keeps m s0 x3.2 := detectOffset_keeps (hm.of rfl) (by assumption)
    clear_value x3
    exact powerDown_keeps (hm.of rfl) (by assumption)

theorem execModEnNFall_keeps {m} {s0 : State} {p1 : State} (hm : Sub 8 m) (k : Keeps m s0 p1) :
    KeepsR m s0 (execModEnNFall p1) := by
  unfold execModEnNFall
  extract_lets +onlyGivenNames x1
  have h2 : Keeps m s0 x1 := setPwr_keeps (hm.of rfl) (by assumption)
  clear_value x1
  apply KeepsR.next
  apply Keeps.ite
  · exact wake_keeps (hm.of rfl) (by assumption)
  · exact setPwr_keeps (hm.of rfl) (by assumption)

theorem execRailFailPowerDown_keeps {m} {s0 : State} {p1 p2} {p3 : State} (hm : Sub 8 m) (k : Keeps m s0 p3) :
    KeepsR m s0 (execRailFailPowerDown p1 p2 p3) := by
  unfold execRailFailPowerDown
  apply KeepsR.next
  apply Keeps.ite
  · assumption
  · apply Keeps.ite
    · exact setPwr_keeps (hm.of rfl) (by assumption)
    · apply Keeps.ite
      · exact setPwr_keeps (hm.of rfl) (by assumption)
      · apply Keeps.ite
        · exact setPwr_keeps (hm.of rfl) (by assumption)
        · assumption

theorem execKeepEntryDelay_keeps {m} {s0 : State} {p1 : State} (hm : Sub 2096063 m) (k : Keeps m s0 p1) :
    KeepsR m s0 (execKeepEntryDelay p1) := by
  unfold execKeepEntryDelay
  apply KeepsR.ite
  · apply KeepsR.next
    assumption
  · extract_lets +onlyGivenNames x1
    have h2 : Keeps m s0 x1 := by
      unfold x1
      apply Keeps.ite
      · exact finishVigil_keeps (hm.of rfl) (by assumption)
      · assumption
    clear_value x1
    extract_lets +onlyGivenNames x3
    have h4 : Keeps m s0 x3.2 := detectOffset_keeps (hm.of rfl) (by assumption)
    clear_value x3
    apply KeepsR.next
    exact powerDown_keeps (hm.of rfl) (by assumption)

theorem execWakeTime_keeps {m} {s0 : State} {p1 : State} (hm : Sub 8 m) (k : Keeps m s0 p1) :
    KeepsR m s0 (execWakeTime p1) := by
  unfold execWakeTime
  apply KeepsR.next
  apply Keeps.ite
  · exact wake_keeps (hm.of rfl) (by assumption)
  · assumption

theorem execKeepReserveExhausted_keeps {m} {s0 : State} {p1 : State} (hm : Sub 2072 m) (k : Keeps m s0 p1) :
    KeepsR m s0 (execKeepReserveExhausted p1) := by
  unfold execKeepReserveExhausted
  apply KeepsR.next
  apply Keeps.ite
  · assumption
  · exact keepGone_keeps (hm.of rfl) (by assumption)

end Sys2Proof.Machine
end

