-- ==== Sys2Proof/Laws/Keeps/Start.lean ====
section
/-!
SUPPORT. What the operations of Machine/Start.lean keep.
-/

namespace Sys2Proof.Machine

theorem seedTime_keeps {m} {s0 : State} {p1} {p2 : State} (hm : Sub 16 m) (k : Keeps m s0 p2) :
    Keeps m s0 (seedTime p1 p2) := by
  unfold seedTime
  extract_lets +onlyGivenNames x1
  clear_value x1
  extract_lets +onlyGivenNames x2
  clear_value x2
  extract_lets +onlyGivenNames x3
  clear_value x3
  extract_lets +onlyGivenNames x4
  clear_value x4
  exact setTime_keeps (hm.of rfl) (by assumption)

theorem loadFrontier_keeps {m} {s0 : State} {p1} {p2 : State} (hm : Sub 32 m) (k : Keeps m s0 p2) :
    Keeps m s0 (loadFrontier p1 p2) := by
  unfold loadFrontier
  extract_lets +onlyGivenNames x1
  clear_value x1
  extract_lets +onlyGivenNames x2
  clear_value x2
  extract_lets +onlyGivenNames x3
  clear_value x3
  extract_lets +onlyGivenNames x4
  clear_value x4
  with_reducible apply setLed_keeps (hm.of rfl)
  · assumption
  · exact ⟨id⟩

theorem loadDown_keeps {m} {s0 : State} {p1} {p2 : State} (hm : Sub 8 m) (k : Keeps m s0 p2) :
    Keeps m s0 (loadDown p1 p2) := by
  unfold loadDown
  exact setPwr_keeps (hm.of rfl) (by assumption)

theorem coldScrub_keeps {m} {s0 : State} {p1 : State} (hm : Sub 32 m) (k : Keeps m s0 p1) :
    Keeps m s0 (coldScrub p1) := by
  unfold coldScrub
  extract_lets +onlyGivenNames x1
  clear_value x1
  with_reducible apply setLed_keeps (hm.of rfl)
  · assumption
  · exact ⟨id⟩

theorem recover_keeps {m} {s0 : State} {p1 : State} (hm : Sub 10287 m) (k : Keeps m s0 p1) :
    Keeps m s0 (recover p1) := by
  unfold recover
  extract_lets +onlyGivenNames x1
  clear_value x1
  extract_lets +onlyGivenNames x2
  clear_value x2
  extract_lets +onlyGivenNames x3
  have h4 : Keeps m s0 x3 := by
    unfold x3
    with_reducible apply setLed_keeps (hm.of rfl)
    · assumption
    · exact ⟨id⟩
  clear_value x3
  extract_lets +onlyGivenNames x5
  have h6 : Keeps m s0 x5 := by
    unfold x5
    apply Keeps.ite
    · assumption
    · exact unlistedEvent_keeps (hm.of rfl) (by assumption)
  clear_value x5
  extract_lets +onlyGivenNames x7
  have h8 : Keeps m s0 x7 := by
    unfold x7
    apply Keeps.ite
    · exact unlistedEvent_keeps (hm.of rfl) (by assumption)
    · assumption
  clear_value x7
  extract_lets +onlyGivenNames x9
  have h10 : Keeps m s0 x9 := by
    unfold x9
    apply Keeps.ite
    · exact unlistedEvent_keeps (hm.of rfl) (by assumption)
    · assumption
  clear_value x9
  extract_lets +onlyGivenNames x11
  have h12 : Keeps m s0 x11 := by
    unfold x11
    apply Keeps.ite
    · exact unlistedEvent_keeps (hm.of rfl) (by assumption)
    · assumption
  clear_value x11
  extract_lets +onlyGivenNames x13
  have h14 : Keeps m s0 x13 := by
    unfold x13
    apply Keeps.ite
    · with_reducible apply reportFault_keeps (hm.of rfl)
      exact reportFault_keeps (hm.of rfl) (by assumption)
    · assumption
  clear_value x13
  exact setPwr_keeps (hm.of rfl) (by assumption)

theorem startTrace_keeps {m} {s0 : State} {p1 : State} (hm : Sub 8193 m) (k : Keeps m s0 p1) :
    Keeps m s0 (startTrace p1) := by
  unfold startTrace
  extract_lets +onlyGivenNames x1
  clear_value x1
  extract_lets +onlyGivenNames x2
  clear_value x2
  extract_lets +onlyGivenNames x3
  have h4 : Keeps m s0 x3 := setSvc_keeps (hm.of rfl) (by assumption)
  clear_value x3
  extract_lets +onlyGivenNames x5
  clear_value x5
  exact traceWrite_keeps (hm.of rfl) (by assumption)

theorem sealsFound_keeps {m} {s0 : State} {p1 : State} (hm : Sub 11879 m) (k : Keeps m s0 p1) :
    Keeps m s0 (sealsFound p1) := by
  unfold sealsFound
  extract_lets +onlyGivenNames x1
  have h2 : Keeps m s0 x1 := by
    unfold x1
    apply Keeps.foldl
    · intro a3 a5 h8
      apply Keeps.ite
      · assumption
      · extract_lets +onlyGivenNames x9
        have h10 : Keeps m s0 x9 := sealAudit_keeps (hm.of rfl) (by assumption)
        clear_value x9
        apply Keeps.ite
        · exact sealMs1Closed_keeps (hm.of rfl) (by assumption)
        · assumption
    · assumption
  clear_value x1
  exact settleReserved_keeps (hm.of rfl) (by assumption)

theorem ledgerFound_keeps {m} {s0 : State} {p1 : State} (hm : Sub 10247 m) (k : Keeps m s0 p1) :
    Keeps m s0 (ledgerFound p1) := by
  unfold ledgerFound
  extract_lets +onlyGivenNames x1
  have h2 : Keeps m s0 x1 := by
    unfold x1
    apply Keeps.ite
    · exact raiseFault_keeps (hm.of rfl) (by assumption)
    · assumption
  clear_value x1
  apply Keeps.ite
  · exact raiseFault_keeps (hm.of rfl) (by assumption)
  · assumption

theorem bankCheck_keeps {m} {s0 : State} {p1} {p2 : State} (hm : Sub 10503 m) (k : Keeps m s0 p2) :
    Keeps m s0 (bankCheck p1 p2) := by
  unfold bankCheck
  extract_lets +onlyGivenNames x1
  clear_value x1
  extract_lets +onlyGivenNames x2
  clear_value x2
  extract_lets +onlyGivenNames x3
  clear_value x3
  extract_lets +onlyGivenNames x4
  clear_value x4
  extract_lets +onlyGivenNames x5
  clear_value x5
  extract_lets +onlyGivenNames x6
  have h7 : Keeps m s0 x6 := by
    unfold x6
    exact Keeps.rest 256 (hm.of rfl) (by assumption) rfl
  clear_value x6
  apply Keeps.ite
  · exact reportFault_keeps (hm.of rfl) (by assumption)
  · assumption

theorem coldCatalogue_keeps {m} {s0 : State} {p1 : State} (hm : Sub 8325 m) (k : Keeps m s0 p1) :
    Keeps m s0 (coldCatalogue p1) := by
  unfold coldCatalogue
  extract_lets +onlyGivenNames x1
  clear_value x1
  extract_lets +onlyGivenNames x2
  clear_value x2
  extract_lets +onlyGivenNames x3
  clear_value x3
  extract_lets +onlyGivenNames x4
  have h5 : Keeps m s0 x4 := setYrw_keeps (hm.of rfl) (by assumption)
  clear_value x4
  extract_lets +onlyGivenNames x6
  have h7 : Keeps m s0 x6 := by
    unfold x6
    apply Keeps.foldl
    · intro a8 a10 h13
      exact updateStep_keeps (hm.of rfl) (by assumption)
    · assumption
  clear_value x6
  extract_lets +onlyGivenNames x14
  have h15 : Keeps m s0 x14 := setSvc_keeps (hm.of rfl) (by assumption)
  clear_value x14
  exact setYrw_keeps (hm.of rfl) (by assumption)

theorem standalone_keeps {m} {s0 : State} {p1 : State} (hm : Sub 8192 m) (k : Keeps m s0 p1) :
    Keeps m s0 (standalone p1) := by
  unfold standalone
  exact setSvc_keeps (hm.of rfl) (by assumption)

theorem folsetCheck_keeps {m} {s0 : State} {p1 : State} (hm : Sub 10503 m) (k : Keeps m s0 p1) :
    Keeps m s0 (folsetCheck p1) := by
  unfold folsetCheck
  extract_lets +onlyGivenNames x1
  have h2 : Keeps m s0 x1 := bankCheck_keeps (hm.of rfl) (by assumption)
  clear_value x1
  extract_lets +onlyGivenNames x3
  clear_value x3
  extract_lets +onlyGivenNames x4
  clear_value x4
  extract_lets +onlyGivenNames x5
  have h6 : Keeps m s0 x5 := by
    unfold x5
    apply Keeps.ite
    · exact reportFault_keeps (hm.of rfl) (by assumption)
    · assumption
  clear_value x5
  apply Keeps.ite
  · exact fromActiveBank_keeps (hm.of rfl) (by assumption)
  · apply Keeps.ite
    · extract_lets +onlyGivenNames x7
      extract_lets +onlyGivenNames x8
      clear_value x8
      extract_lets +onlyGivenNames x9
      have h10 : Keeps m s0 x9 := by
        unfold x9
        exact Keeps.upd 8196 (hm.of rfl) (by assumption) (Nat.le_refl _) ⟨id, rfl, rfl, rfl⟩ ⟨Nat.le_refl _, id, id, id⟩ ⟨id⟩ rfl
      clear_value x9
      exact reportFault_keeps (hm.of rfl) (by assumption)
    · with_reducible apply standalone_keeps (hm.of rfl)
      exact raiseFault_keeps (hm.of rfl) (by assumption)

theorem folsetStart_keeps {m} {s0 : State} {p1 : State} (hm : Sub 10246 m) (k : Keeps m s0 p1) :
    Keeps m s0 (folsetStart p1) := by
  unfold folsetStart
  apply Keeps.ite
  · assumption
  · apply Keeps.ite
    · with_reducible apply faultLevel_keeps (hm.of rfl)
      exact Keeps.upd 8198 (hm.of rfl) (by assumption) (Nat.le_refl _) ⟨id, rfl, rfl, rfl⟩ ⟨Nat.le_refl _, id, id, id⟩ ⟨id⟩ rfl
    · extract_lets +onlyGivenNames x1
      have h2 : Keeps m s0 x1 := setSvc_keeps (hm.of rfl) (by assumption)
      clear_value x1
      apply Keeps.ite
      · exact standalone_keeps (hm.of rfl) (by assumption)
      · assumption

theorem unpoweredSet_keeps {m} {s0 : State} {p2} {p1 : State} (hm : Sub 516 m) (k : Keeps m s0 p1) :
    Keeps m s0 (unpoweredSet p1 p2) := by
  unfold unpoweredSet
  extract_lets +onlyGivenNames x1
  clear_value x1
  extract_lets +onlyGivenNames x2
  clear_value x2
  exact demandUnpowered_keeps (hm.of rfl) (by assumption)

theorem fieldStart_keeps {m} {s0 : State} {p1 : State} (hm : Sub 306703 m) (k : Keeps m s0 p1) :
    Keeps m s0 (fieldStart p1) := by
  unfold fieldStart
  extract_lets +onlyGivenNames x1
  clear_value x1
  extract_lets +onlyGivenNames x2
  clear_value x2
  extract_lets +onlyGivenNames x3
  clear_value x3
  extract_lets +onlyGivenNames x4
  have h5 : Keeps m s0 x4 := setMet_keeps (hm.of rfl) (by assumption)
  clear_value x4
  extract_lets +onlyGivenNames x6
  have h7 : Keeps m s0 x6 := by
    unfold x6
    apply Keeps.foldl
    · intro a8 a9 a10
      exact unpoweredSet_keeps (hm.of rfl) (by assumption)
    · assumption
  clear_value x6
  extract_lets +onlyGivenNames x11
  have h12 : Keeps m s0 x11 := setPwr_keeps (hm.of rfl) (by assumption)
  clear_value x11
  extract_lets +onlyGivenNames x13
  have h14 : Keeps m s0 x13 := by
    unfold x13
    with_reducible apply stemField_keeps (hm.of rfl)
    with_reducible apply fieldUp_keeps (hm.of rfl)
    with_reducible apply ringsUp_keeps (hm.of rfl)
    exact metFieldUp_keeps (hm.of rfl) (by assumption)
  clear_value x13
  exact fieldRelease_keeps (hm.of rfl) (by assumption)

theorem closeLeftovers_keeps {m} {s0 : State} {p1 : State} (hm : Sub 524324 m) (k : Keeps m s0 p1) :
    Keeps m s0 (closeLeftovers p1) := by
  unfold closeLeftovers
  apply Keeps.foldl
  · intro a1 a3 h6
    split
    · rename_i y7 y8 y9
      apply Keeps.ite
      · with_reducible apply sessionEndEvent_keeps (hm.of rfl)
        with_reducible apply closeRegister_keeps (hm.of rfl)
        exact setPoint_keeps (hm.of rfl) (by assumption)
      · assumption
    · rename_i y10 y11
      assumption
  · assumption

theorem computeStart_keeps {m} {s0 : State} {p1 : State} (hm : Sub 1648831 m) (k : Keeps m s0 p1) :
    Keeps m s0 (computeStart p1) := by
  unfold computeStart
  extract_lets +onlyGivenNames x1
  have h2 : Keeps m s0 x1 := by
    unfold x1
    with_reducible apply coldYarrow_keeps (hm.of rfl)
    exact setPwr_keeps (hm.of rfl) (by assumption)
  clear_value x1
  extract_lets +onlyGivenNames x3
  have h4 : Keeps m s0 x3 := setYrw_keeps (hm.of rfl) (by assumption)
  clear_value x3
  with_reducible apply portsUp_keeps (hm.of rfl)
  with_reducible apply closeLeftovers_keeps (hm.of rfl)
  with_reducible apply coldCampaigns_keeps (hm.of rfl)
  exact resumeCounters_keeps (hm.of rfl) (by assumption)

theorem startedPart_keeps {m} {s0 : State} {p1} {p2 : State} (hm : Sub 1058879 m) (k : Keeps m s0 p2) :
    Keeps m s0 (startedPart p1 p2) := by
  unfold startedPart
  extract_lets +onlyGivenNames x1
  have h2 : Keeps m s0 x1 := raiseFault_keeps (hm.of rfl) (by assumption)
  clear_value x1
  extract_lets +onlyGivenNames x3
  have h4 : Keeps m s0 x3 := by
    unfold x3
    with_reducible apply portsDown_keeps (hm.of rfl)
    exact setPwr_keeps (hm.of rfl) (by assumption)
  clear_value x3
  with_reducible apply enterMode_keeps (hm.of rfl)
  exact suspendChannels_keeps (hm.of rfl) (by assumption)

theorem takeRail_keeps {m} {s0 : State} {p1} {p2 : State} (hm : Sub 8 m) (k : Keeps m s0 p2) :
    Keeps m s0 (takeRail p1 p2).2 := by
  unfold takeRail
  apply Keeps.sndMk
  exact setPwr_keeps (hm.of rfl) (by assumption)

theorem startRole_keeps {m} {s0 : State} {p1 : State} (hm : Sub 14343 m) (k : Keeps m s0 p1) :
    Keeps m s0 (startRole p1) := by
  unfold startRole
  extract_lets +onlyGivenNames x1
  clear_value x1
  extract_lets +onlyGivenNames x2
  have h3 : Keeps m s0 x2 := by
    unfold x2
    with_reducible apply traceMode_keeps (hm.of rfl)
    exact setDuty_keeps (hm.of rfl) (by assumption)
  clear_value x2
  apply Keeps.ite
  · assumption
  · apply Keeps.ite
    · exact raiseFault_keeps (hm.of rfl) (by assumption)
    · exact toRole_keeps (hm.of rfl) (by assumption)

theorem startDomains_keeps {m} {s0 : State} {p1 : State} (hm : Sub 1965759 m) (k : Keeps m s0 p1) :
    Keeps m s0 (startDomains p1) := by
  unfold startDomains
  extract_lets +onlyGivenNames x1
  have h2 : Keeps m s0 x1.2 := takeRail_keeps (hm.of rfl) (by assumption)
  clear_value x1
  apply Keeps.ite
  · with_reducible apply startRole_keeps (hm.of rfl)
    exact startedPart_keeps (hm.of rfl) (by assumption)
  · extract_lets +onlyGivenNames x3
    have h4 : Keeps m s0 x3 := by
      unfold x3
      with_reducible apply startRole_keeps (hm.of rfl)
      exact fieldStart_keeps (hm.of rfl) (by assumption)
    clear_value x3
    extract_lets +onlyGivenNames x5
    have h6 : Keeps m s0 x5.2 := takeRail_keeps (hm.of rfl) (by assumption)
    clear_value x5
    apply Keeps.ite
    · with_reducible apply reviewPoints_keeps (hm.of rfl)
      exact startedPart_keeps (hm.of rfl) (by assumption)
    · with_reducible apply reviewPoints_keeps (hm.of rfl)
      exact computeStart_keeps (hm.of rfl) (by assumption)

theorem startFolset_keeps {m} {s0 : State} {p1 : State} (hm : Sub 10503 m) (k : Keeps m s0 p1) :
    Keeps m s0 (startFolset p1) := by
  unfold startFolset
  extract_lets +onlyGivenNames x1
  extract_lets +onlyGivenNames x2
  have h3 : Keeps m s0 x2 := by
    unfold x2
    exact Keeps.upd 2 (hm.of rfl) (by assumption) (Nat.le_refl _) ⟨id, rfl, rfl, rfl⟩ ⟨Nat.le_refl _, id, id, id⟩ ⟨id⟩ rfl
  clear_value x2
  apply Keeps.ite
  · assumption
  · with_reducible apply folsetStart_keeps (hm.of rfl)
    exact folsetCheck_keeps (hm.of rfl) (by assumption)

theorem startRest_keeps {m} {s0 : State} {p1 : State} (hm : Sub 1965759 m) (k : Keeps m s0 p1) :
    Keeps m s0 (startRest p1) := by
  unfold startRest
  extract_lets +onlyGivenNames x1
  have h2 : Keeps m s0 x1 := enterMode_keeps (hm.of rfl) (by assumption)
  clear_value x1
  apply Keeps.ite
  · assumption
  · with_reducible apply startDomains_keeps (hm.of rfl)
    exact coldCatalogue_keeps (hm.of rfl) (by assumption)

theorem vigilUp_keeps {m} {s0 : State} {p1 : State} (hm : Sub 1966079 m) (k : Keeps m s0 p1) :
    Keeps m s0 (vigilUp p1) := by
  unfold vigilUp
  extract_lets +onlyGivenNames x1
  clear_value x1
  extract_lets +onlyGivenNames x2
  have h3 : Keeps m s0 x2 := setPwr_keeps (hm.of rfl) (by assumption)
  clear_value x2
  extract_lets +onlyGivenNames x4
  have h5 : Keeps m s0 x4 := by
    unfold x4
    with_reducible apply coldScrub_keeps (hm.of rfl)
    with_reducible apply seedTime_keeps (hm.of rfl)
    with_reducible apply loadFrontier_keeps (hm.of rfl)
    exact loadDown_keeps (hm.of rfl) (by assumption)
  clear_value x4
  extract_lets +onlyGivenNames x6
  have h7 : Keeps m s0 x6 := by
    unfold x6
    with_reducible apply startTrace_keeps (hm.of rfl)
    exact coldArbiters_keeps (hm.of rfl) (by assumption)
  clear_value x6
  extract_lets +onlyGivenNames x8
  have h9 : Keeps m s0 x8 := by
    unfold x8
    with_reducible apply startFolset_keeps (hm.of rfl)
    with_reducible apply ledgerFound_keeps (hm.of rfl)
    with_reducible apply sealsFound_keeps (hm.of rfl)
    with_reducible apply reportTamper_keeps (hm.of rfl)
    with_reducible apply checkTags_keeps (hm.of rfl)
    exact recover_keeps (hm.of rfl) (by assumption)
  clear_value x8
  apply Keeps.ite
  · with_reducible apply enterMode_keeps (hm.of rfl)
    with_reducible apply raiseFault_keeps (hm.of rfl)
    exact setPwr_keeps (hm.of rfl) (by assumption)
  · exact startRest_keeps (hm.of rfl) (by assumption)

theorem startVigil_keeps {m} {s0 : State} {p1 : State} (hm : Sub 1966079 m) (k : Keeps m s0 p1) :
    Keeps m s0 (startVigil p1) := by
  unfold startVigil
  extract_lets +onlyGivenNames x1
  have h2 : Keeps m s0 x1.2 := takeRail_keeps (hm.of rfl) (by assumption)
  clear_value x1
  extract_lets +onlyGivenNames x3
  have h4 : Keeps m s0 x3 := by
    unfold x3
    assumption
  apply Keeps.ite
  · exact vigilUp_keeps (hm.of rfl) (by assumption)
  · apply Keeps.ite
    · exact setPwr_keeps (hm.of rfl) (by assumption)
    · exact setPwr_keeps (hm.of rfl) (by assumption)

theorem execColdStart_keeps {m} {s0 : State} {p1} {p2 : State} (hm : Sub 1966079 m) (k : Keeps m s0 p2) :
    KeepsR m s0 (execColdStart p1 p2) := by
  unfold execColdStart
  apply KeepsR.ite
  · apply KeepsR.next
    assumption
  · extract_lets +onlyGivenNames x1
    have h2 : Keeps m s0 x1 := setSvc_keeps (hm.of rfl) (by assumption)
    clear_value x1
    apply KeepsR.next
    with_reducible apply startVigil_keeps (hm.of rfl)
    exact setPwr_keeps (hm.of rfl) (by assumption)

theorem execVigilRailRetry_keeps {m} {s0 : State} {p1 : State} (hm : Sub 1966079 m) (k : Keeps m s0 p1) :
    KeepsR m s0 (execVigilRailRetry p1) := by
  unfold execVigilRailRetry
  apply KeepsR.next
  apply Keeps.ite
  · with_reducible apply startVigil_keeps (hm.of rfl)
    exact setPwr_keeps (hm.of rfl) (by assumption)
  · assumption

theorem railFails_keeps {m} {s0 : State} {p1} {p2 : State} (hm : Sub 1895103 m) (k : Keeps m s0 p2) :
    Keeps m s0 (railFails p1 p2) := by
  unfold railFails
  extract_lets +onlyGivenNames x1
  have h2 : Keeps m s0 x1 := computeDown_keeps (hm.of rfl) (by assumption)
  clear_value x1
  with_reducible apply startedPart_keeps (hm.of rfl)
  with_reducible apply reviewPoints_keeps (hm.of rfl)
  apply Keeps.ite
  · exact fieldOff_keeps (hm.of rfl) (by assumption)
  · assumption

theorem execRailStartTimeout_keeps {m} {s0 : State} {p1} {p2 : State} (hm : Sub 1895103 m) (k : Keeps m s0 p2) :
    KeepsR m s0 (execRailStartTimeout p1 p2) := by
  unfold execRailStartTimeout
  apply KeepsR.next
  apply Keeps.ite
  · assumption
  · apply Keeps.ite
    · exact setPwr_keeps (hm.of rfl) (by assumption)
    · apply Keeps.ite
      · exact railFails_keeps (hm.of rfl) (by assumption)
      · assumption

theorem execMoistureHoldEnd_keeps {m} {s0 : State} {p1 : State} (hm : Sub 1965759 m) (k : Keeps m s0 p1) :
    KeepsR m s0 (execMoistureHoldEnd p1) := by
  unfold execMoistureHoldEnd
  apply KeepsR.next
  apply Keeps.ite
  · with_reducible apply startRest_keeps (hm.of rfl)
    exact endFault_keeps (hm.of rfl) (by assumption)
  · assumption

theorem execPciePerstRelease_keeps {m} {s0 : State} {p1 : State} (hm : Sub 10 m) (k : Keeps m s0 p1) :
    KeepsR m s0 (execPciePerstRelease p1) := by
  unfold execPciePerstRelease
  extract_lets +onlyGivenNames x1
  have h2 : Keeps m s0 x1 := setPwr_keeps (hm.of rfl) (by assumption)
  clear_value x1
  apply KeepsR.next
  apply Keeps.ite
  · exact Keeps.upd 2 (hm.of rfl) (by assumption) (Nat.le_refl _) ⟨id, rfl, rfl, rfl⟩ ⟨Nat.le_refl _, id, id, id⟩ ⟨id⟩ rfl
  · assumption

end Sys2Proof.Machine
end

