-- ==== Sys2Proof/Laws/Keeps/Jorny.lean ====
section
/-!
SUPPORT. What the operations of Machine/Jorny.lean keep.
-/

namespace Sys2Proof.Machine

theorem setJorny_keeps {m} {s0 : State} {p1} {p2 : State} (hm : Sub 8192 m) (k : Keeps m s0 p2) :
    Keeps m s0 (setJorny p1 p2) := by
  unfold setJorny
  exact setSvc_keeps (hm.of rfl) (by assumption)

theorem jornyAnswer_keeps {m} {s0 : State} {p1 p2 p3} {p4 : State} (hm : Sub 8193 m) (k : Keeps m s0 p4) :
    Keeps m s0 (jornyAnswer p1 p2 p3 p4) := by
  unfold jornyAnswer
  extract_lets +onlyGivenNames x1
  have h2 : Keeps m s0 x1 := setJorny_keeps (hm.of rfl) (by assumption)
  clear_value x1
  extract_lets +onlyGivenNames x3
  clear_value x3
  exact traceWrite_keeps (hm.of rfl) (by assumption)

theorem jornyTouch_keeps {m} {s0 : State} {p1 : State} (hm : Sub 8192 m) (k : Keeps m s0 p1) :
    Keeps m s0 (jornyTouch p1) := by
  unfold jornyTouch
  exact setJorny_keeps (hm.of rfl) (by assumption)

theorem jornyRun_keeps {m} {s0 : State} {p1 p2 p3 p4} {p5 : State} (hm : Sub 8193 m) (k : Keeps m s0 p5) (h4 : ∀ v1, Keeps m s0 v1 → Keeps m s0 (p4 v1).2.2) :
    Keeps m s0 (jornyRun p1 p2 p3 p4 p5) := by
  unfold jornyRun
  apply Keeps.ite
  · assumption
  · extract_lets +onlyGivenNames x1
    have h2 : Keeps m s0 x1 := jornyTouch_keeps (hm.of rfl) (by assumption)
    clear_value x1
    apply Keeps.ite
    · exact jornyAnswer_keeps (hm.of rfl) (by assumption)
    · apply Keeps.ite
      · exact jornyAnswer_keeps (hm.of rfl) (by assumption)
      · apply Keeps.ite
        · exact jornyAnswer_keeps (hm.of rfl) (by assumption)
        · extract_lets +onlyGivenNames x3
          have h4 : Keeps m s0 x3.2.2 := by
            unfold x3
            with_reducible apply h4
            assumption
          clear_value x3
          exact jornyAnswer_keeps (hm.of rfl) (by assumption)

theorem jornyUnbind_keeps {m} {s0 : State} {p1 : State} (hm : Sub 8192 m) (k : Keeps m s0 p1) :
    Keeps m s0 (jornyUnbind p1) := by
  unfold jornyUnbind
  exact setJorny_keeps (hm.of rfl) (by assumption)

theorem execJornyHelp_keeps {m} {s0 : State} {p1 : State} (hm : Sub 8193 m) (k : Keeps m s0 p1) :
    KeepsR m s0 (execJornyHelp p1) := by
  unfold execJornyHelp
  apply KeepsR.next
  with_reducible apply jornyRun_keeps (hm.of rfl)
  · assumption
  · intro a1 h4
    assumption

theorem execJornyId_keeps {m} {s0 : State} {p1 : State} (hm : Sub 8193 m) (k : Keeps m s0 p1) :
    KeepsR m s0 (execJornyId p1) := by
  unfold execJornyId
  apply KeepsR.next
  with_reducible apply jornyRun_keeps (hm.of rfl)
  · assumption
  · intro a1 h4
    assumption

theorem execJornyStatus_keeps {m} {s0 : State} {p1 : State} (hm : Sub 8193 m) (k : Keeps m s0 p1) :
    KeepsR m s0 (execJornyStatus p1) := by
  unfold execJornyStatus
  apply KeepsR.next
  with_reducible apply jornyRun_keeps (hm.of rfl)
  · assumption
  · intro a1 h4
    assumption

theorem execJornyFaults_keeps {m} {s0 : State} {p1} {p2 : State} (hm : Sub 8193 m) (k : Keeps m s0 p2) :
    KeepsR m s0 (execJornyFaults p1 p2) := by
  unfold execJornyFaults
  apply KeepsR.next
  with_reducible apply jornyRun_keeps (hm.of rfl)
  · assumption
  · intro a1 h4
    split
    · rename_i y5
      assumption
    · rename_i y6 y7
      split
      · rename_i y8
        assumption
      · rename_i y9
        assumption

theorem execJornyAuth_keeps {m} {s0 : State} {p1 p2} {p3 : State} (hm : Sub 8193 m) (k : Keeps m s0 p3) :
    KeepsR m s0 (execJornyAuth p1 p2 p3) := by
  unfold execJornyAuth
  apply KeepsR.next
  with_reducible apply jornyRun_keeps (hm.of rfl)
  · assumption
  · intro a1 h4
    split
    · rename_i y5 y6
      assumption
    · rename_i y7 y8 y9
      split
      · rename_i y10
        assumption
      · rename_i y11
        split
        · rename_i y12
          assumption
        · rename_i y13
          split
          · rename_i y14
            assumption
          · rename_i y15
            extract_lets +onlyGivenNames x16
            have h17 : Keeps m s0 x16.2 := drawBytes_keeps (hm.of rfl) (by assumption)
            clear_value x16
            apply Keeps.sndMk
            exact setJorny_keeps (hm.of rfl) (by assumption)

theorem execJornySig_keeps {m} {s0 : State} {p1} {p2 : State} (hm : Sub 26631 m) (k : Keeps m s0 p2) :
    KeepsR m s0 (execJornySig p1 p2) := by
  unfold execJornySig
  apply KeepsR.next
  with_reducible apply jornyRun_keeps (hm.of rfl)
  · assumption
  · intro a1 h4
    split
    · rename_i y5 y6
      assumption
    · rename_i y7 y8 y9 y10 y11
      extract_lets +onlyGivenNames x12
      have h13 : Keeps m s0 x12 := setJorny_keeps (hm.of rfl) (by assumption)
      clear_value x12
      split
      · rename_i y14 y15
        assumption
      · rename_i y16 y17 y18
        extract_lets +onlyGivenNames x19
        have h20 : Keeps m s0 x19.2 := engineWork_keeps (hm.of rfl) (by assumption)
        clear_value x19
        split
        · rename_i y21
          assumption
        · rename_i y22
          split
          · rename_i y23
            split
            · rename_i y24
              apply Keeps.sndMk
              exact setJorny_keeps (hm.of rfl) (by assumption)
            · rename_i y25
              apply Keeps.sndMk
              exact authFailed_keeps (hm.of rfl) (by assumption)
          · rename_i y26
            split
            · rename_i y27
              apply Keeps.sndMk
              exact setJorny_keeps (hm.of rfl) (by assumption)
            · rename_i y28
              apply Keeps.sndMk
              exact authFailed_keeps (hm.of rfl) (by assumption)

theorem execJornyLogout_keeps {m} {s0 : State} {p1 : State} (hm : Sub 8193 m) (k : Keeps m s0 p1) :
    KeepsR m s0 (execJornyLogout p1) := by
  unfold execJornyLogout
  apply KeepsR.next
  with_reducible apply jornyRun_keeps (hm.of rfl)
  · assumption
  · intro a1 h4
    apply Keeps.sndMk
    exact jornyUnbind_keeps (hm.of rfl) (by assumption)

theorem execJornyRoleTimeout_keeps {m} {s0 : State} {p1 : State} (hm : Sub 8192 m) (k : Keeps m s0 p1) :
    KeepsR m s0 (execJornyRoleTimeout p1) := by
  unfold execJornyRoleTimeout
  apply KeepsR.next
  exact jornyUnbind_keeps (hm.of rfl) (by assumption)

theorem execJornyTrace_keeps {m} {s0 : State} {p1} {p2 : State} (hm : Sub 8193 m) (k : Keeps m s0 p2) :
    KeepsR m s0 (execJornyTrace p1 p2) := by
  unfold execJornyTrace
  apply KeepsR.next
  with_reducible apply jornyRun_keeps (hm.of rfl)
  · assumption
  · intro a1 h4
    assumption

theorem execJornyTail_keeps {m} {s0 : State} {p1} {p2 : State} (hm : Sub 8193 m) (k : Keeps m s0 p2) :
    KeepsR m s0 (execJornyTail p1 p2) := by
  unfold execJornyTail
  apply KeepsR.next
  with_reducible apply jornyRun_keeps (hm.of rfl)
  · assumption
  · intro a1 h4
    split
    · rename_i y5
      assumption
    · rename_i y6
      split
      · rename_i y7 y8
        assumption
      · rename_i y9 y10 y11
        assumption

theorem execJornyBank_keeps {m} {s0 : State} {p1 : State} (hm : Sub 8193 m) (k : Keeps m s0 p1) :
    KeepsR m s0 (execJornyBank p1) := by
  unfold execJornyBank
  apply KeepsR.next
  with_reducible apply jornyRun_keeps (hm.of rfl)
  · assumption
  · intro a1 h4
    assumption

theorem jornyBankAction_keeps {m} {s0 : State} {p1 p2} {p3 : State} (hm : Sub 8453 m) (k : Keeps m s0 p3) :
    Keeps m s0 (jornyBankAction p1 p2 p3).2.2 := by
  unfold jornyBankAction
  split
  · rename_i y1
    assumption
  · rename_i y2
    split
    · rename_i y3 y4 y5 y6
      assumption
    · rename_i y7 y8
      apply Keeps.sndMk
      exact bankAction_keeps (hm.of rfl) (by assumption)

theorem execJornyBankCommit_keeps {m} {s0 : State} {p1 : State} (hm : Sub 8453 m) (k : Keeps m s0 p1) :
    KeepsR m s0 (execJornyBankCommit p1) := by
  unfold execJornyBankCommit
  apply KeepsR.next
  with_reducible apply jornyRun_keeps (hm.of rfl)
  · assumption
  · intro a1 h4
    exact jornyBankAction_keeps (hm.of rfl) (by assumption)

theorem execJornyBankUse_keeps {m} {s0 : State} {p1} {p2 : State} (hm : Sub 8453 m) (k : Keeps m s0 p2) :
    KeepsR m s0 (execJornyBankUse p1 p2) := by
  unfold execJornyBankUse
  apply KeepsR.next
  with_reducible apply jornyRun_keeps (hm.of rfl)
  · assumption
  · intro a1 h4
    exact jornyBankAction_keeps (hm.of rfl) (by assumption)

theorem execJornyLoad_keeps {m} {s0 : State} {p1 p2} {p3 : State} (hm : Sub 8449 m) (k : Keeps m s0 p3) :
    KeepsR m s0 (execJornyLoad p1 p2 p3) := by
  unfold execJornyLoad
  apply KeepsR.next
  with_reducible apply jornyRun_keeps (hm.of rfl)
  · assumption
  · intro a1 h4
    split
    · rename_i y5
      assumption
    · rename_i y6
      split
      · rename_i y7
        assumption
      · rename_i y8
        apply Keeps.sndMk
        with_reducible apply setJorny_keeps (hm.of rfl)
        exact beginStage_keeps (hm.of rfl) (by assumption)

theorem loadEnd_keeps {m} {s0 : State} {p1 p2 p3} {p4 : State} (hm : Sub 10503 m) (k : Keeps m s0 p4) :
    Keeps m s0 (loadEnd p1 p2 p3 p4) := by
  unfold loadEnd
  extract_lets +onlyGivenNames x1
  have h2 : Keeps m s0 x1 := setJorny_keeps (hm.of rfl) (by assumption)
  clear_value x1
  extract_lets +onlyGivenNames x3
  clear_value x3
  split
  · rename_i y4 y5
    with_reducible apply jornyAnswer_keeps (hm.of rfl)
    exact stageDone_keeps (hm.of rfl) (by assumption)
  · rename_i y6 y7 y8
    with_reducible apply jornyAnswer_keeps (hm.of rfl)
    with_reducible apply imageReport_keeps (hm.of rfl)
    exact endStage_keeps (hm.of rfl) (by assumption)

theorem execJornyLoadBlock_keeps {m} {s0 : State} {p1 p2 p3} {p4 : State} (hm : Sub 10503 m) (k : Keeps m s0 p4) :
    KeepsR m s0 (execJornyLoadBlock p1 p2 p3 p4) := by
  unfold execJornyLoadBlock
  split
  · rename_i y1 y2
    apply KeepsR.next
    assumption
  · rename_i y3 y4 y5 y6 y7
    apply KeepsR.ite
    · apply KeepsR.next
      assumption
    · apply KeepsR.ite
      · apply KeepsR.next
        exact setJorny_keeps (hm.of rfl) (by assumption)
      · extract_lets +onlyGivenNames x8
        clear_value x8
        apply KeepsR.ite
        · apply KeepsR.next
          exact setJorny_keeps (hm.of rfl) (by assumption)
        · apply KeepsR.next
          exact loadEnd_keeps (hm.of rfl) (by assumption)

theorem execJornyLoadTimeout_keeps {m} {s0 : State} {p1 : State} (hm : Sub 8449 m) (k : Keeps m s0 p1) :
    KeepsR m s0 (execJornyLoadTimeout p1) := by
  unfold execJornyLoadTimeout
  apply KeepsR.next
  apply Keeps.ite
  · assumption
  · with_reducible apply jornyAnswer_keeps (hm.of rfl)
    with_reducible apply endStage_keeps (hm.of rfl)
    exact setJorny_keeps (hm.of rfl) (by assumption)

theorem jornyRestart_keeps {m} {s0 : State} {p1 : State} (hm : Sub 883623 m) (k : Keeps m s0 p1) :
    Keeps m s0 (jornyRestart p1) := by
  unfold jornyRestart
  apply Keeps.ite
  · extract_lets +onlyGivenNames x1
    have h2 : Keeps m s0 x1 := by
      unfold x1
      apply Keeps.ite
      · exact endStage_keeps (hm.of rfl) (by assumption)
      · assumption
    clear_value x1
    extract_lets +onlyGivenNames x3
    have h4 : Keeps m s0 x3 := by
      unfold x3
      with_reducible apply setJorny_keeps (hm.of rfl)
      exact endFault_keeps (hm.of rfl) (by assumption)
    clear_value x3
    extract_lets +onlyGivenNames x5
    have h6 : Keeps m s0 x5 := by
      unfold x5
      with_reducible apply fromActiveBank_keeps (hm.of rfl)
      exact jornyUnbind_keeps (hm.of rfl) (by assumption)
    clear_value x5
    exact Keeps.upd 4 (hm.of rfl) (by assumption) (Nat.le_refl _) ⟨id, rfl, rfl, rfl⟩ ⟨Nat.le_refl _, id, id, id⟩ ⟨id⟩ rfl
  · exact folsetRestart_keeps (hm.of rfl) (by assumption)

theorem execJornyRestart_keeps {m} {s0 : State} {p1 : State} (hm : Sub 883623 m) (k : Keeps m s0 p1) :
    KeepsR m s0 (execJornyRestart p1) := by
  unfold execJornyRestart
  extract_lets +onlyGivenNames x1
  clear_value x1
  extract_lets +onlyGivenNames x2
  have h3 : Keeps m s0 x2 := by
    unfold x2
    with_reducible apply jornyRun_keeps (hm.of rfl)
    · assumption
    · intro a4 h7
      assumption
  clear_value x2
  apply KeepsR.next
  apply Keeps.ite
  · exact jornyRestart_keeps (hm.of rfl) (by assumption)
  · assumption

theorem execJornyBreak_keeps {m} {s0 : State} {p1 : State} (hm : Sub 1895103 m) (k : Keeps m s0 p1) :
    KeepsR m s0 (execJornyBreak p1) := by
  unfold execJornyBreak
  apply KeepsR.ite
  · apply KeepsR.next
    assumption
  · extract_lets +onlyGivenNames x1
    have h2 : Keeps m s0 x1 := by
      unfold x1
      with_reducible apply portsDown_keeps (hm.of rfl)
      with_reducible apply computeDown_keeps (hm.of rfl)
      with_reducible apply fieldOff_keeps (hm.of rfl)
      exact jornyUnbind_keeps (hm.of rfl) (by assumption)
    clear_value x1
    apply KeepsR.next
    with_reducible apply standalone_keeps (hm.of rfl)
    exact Keeps.upd 6 (hm.of rfl) (by assumption) (Nat.le_refl _) ⟨id, rfl, rfl, rfl⟩ ⟨Nat.le_refl _, id, id, id⟩ ⟨id⟩ rfl

end Sys2Proof.Machine
end

