-- ==== Sys2Proof/Laws/Keeps/HostRows.lean ====
section
/-!
SUPPORT. What the operations of Machine/HostRows.lean keep.
-/

namespace Sys2Proof.Machine

theorem execMboxRequestWrite_keeps {m} {s0 : State} {p1 p2 p3} {p4 : State} (hm : Sub 2 m) (k : Keeps m s0 p4) :
    KeepsR m s0 (execMboxRequestWrite p1 p2 p3 p4) := by
  unfold execMboxRequestWrite
  apply KeepsR.next
  apply Keeps.ite
  · assumption
  · exact writeRequest_keeps (hm.of rfl) (by assumption)

theorem ringMailbox_keeps {m} {s0 : State} {p2} {p1 : State} (hm : Sub 6 m) (k : Keeps m s0 p1) :
    Keeps m s0 (ringMailbox p1 p2) := by
  unfold ringMailbox
  apply Keeps.ite
  · exact hostError_keeps (hm.of rfl) (by assumption)
  · extract_lets +onlyGivenNames x1
    have h2 : Keeps m s0 x1 := takeMailbox_keeps (hm.of rfl) (by assumption)
    clear_value x1
    extract_lets +onlyGivenNames x3
    clear_value x3
    exact enqueue_keeps (hm.of rfl) (by assumption)

theorem execMboxRing_keeps {m} {s0 : State} {p1} {p2 : State} (hm : Sub 2096127 m) (k : Keeps m s0 p2) :
    KeepsR m s0 (execMboxRing p1 p2) := by
  unfold execMboxRing
  apply KeepsR.next
  apply Keeps.ite
  · assumption
  · with_reducible apply drain_keeps (hm.of rfl)
    apply Keeps.foldl
    · intro a1 a3 h6
      exact ringMailbox_keeps (hm.of rfl) (by assumption)
    · assumption

theorem execMboxDoneClear_keeps {m} {s0 : State} {p1 p2} {p3 : State} (hm : Sub 2 m) (k : Keeps m s0 p3) :
    KeepsR m s0 (execMboxDoneClear p1 p2 p3) := by
  unfold execMboxDoneClear
  apply KeepsR.next
  apply Keeps.ite
  · assumption
  · refine Keeps.upd 2 (hm.of rfl) ?_ ?_ ?_ ?_ ?_ rfl
    · assumption
    · exact Nat.le_refl _
    · exact ⟨mail_clear, rfl, rfl, rfl⟩
    · exact ⟨Nat.le_refl _, id, id, id⟩
    · exact ⟨id⟩

theorem execIntStatusClear_keeps {m} {s0 : State} {p1 p2} {p3 : State} (hm : Sub 2 m) (k : Keeps m s0 p3) :
    KeepsR m s0 (execIntStatusClear p1 p2 p3) := by
  unfold execIntStatusClear
  apply KeepsR.next
  apply Keeps.ite
  · assumption
  · exact Keeps.upd 2 (hm.of rfl) (by assumption) (Nat.le_refl _) ⟨id, rfl, rfl, rfl⟩ ⟨Nat.le_refl _, id, id, id⟩ ⟨id⟩ rfl

theorem hostReads_keeps {m} {s0 : State} {p1} {p2 : State} (hm : Sub 2 m) (k : Keeps m s0 p2) :
    Keeps m s0 (hostReads p1 p2) := by
  have h : Keeps m s0 (readRegister p1 p2).2 := readRegister_keeps (hm.of rfl) k
  exact Keeps.upd 2 (hm.of rfl) h (Nat.le_refl _) ⟨id, rfl, rfl, rfl⟩ ⟨Nat.le_refl _, id, id, id⟩ ⟨id⟩ rfl

theorem execHostErrInfoRead_keeps {m} {s0 : State} {p1} {p2 : State} (hm : Sub 2 m) (k : Keeps m s0 p2) :
    KeepsR m s0 (execHostErrInfoRead p1 p2) := by
  unfold execHostErrInfoRead
  apply KeepsR.next
  apply Keeps.ite
  · assumption
  · apply Keeps.ite
    · exact Keeps.upd 2 (hm.of rfl) (by assumption) (Nat.le_refl _) ⟨id, rfl, rfl, rfl⟩ ⟨Nat.le_refl _, id, id, id⟩ ⟨id⟩ rfl
    · exact hostReads_keeps (hm.of rfl) (by assumption)

theorem execGstatFrontierRead_keeps {m} {s0 : State} {p1} {p2 : State} (hm : Sub 2 m) (k : Keeps m s0 p2) :
    KeepsR m s0 (execGstatFrontierRead p1 p2) := by
  unfold execGstatFrontierRead
  apply KeepsR.next
  apply Keeps.ite
  · assumption
  · exact hostReads_keeps (hm.of rfl) (by assumption)

theorem execReservedBarAccess_keeps {m} {s0 : State} {p1 p2} {p3 : State} (hm : Sub 2 m) (k : Keeps m s0 p3) :
    KeepsR m s0 (execReservedBarAccess p1 p2 p3) := by
  unfold execReservedBarAccess
  apply KeepsR.next
  apply Keeps.ite
  · assumption
  · with_reducible apply hostError_keeps (hm.of rfl)
    exact Keeps.upd 2 (hm.of rfl) (by assumption) (Nat.le_refl _) ⟨id, rfl, rfl, rfl⟩ ⟨Nat.le_refl _, id, id, id⟩ ⟨id⟩ rfl

theorem holdoffEnd_mail (v : Nat) (h : HostState) : SameMail h (holdoffEnd v h) := by
  unfold holdoffEnd
  split
  · exact ⟨rfl, rfl, rfl, rfl, rfl⟩
  · split
    · exact ⟨rfl, rfl, rfl, rfl, rfl⟩
    · dsimp only
      split
      · have a := sendMessage_mail v { h with msix := modAt h.msix v (fun e => { e with holdoff := false, heldBack := false }) }
        exact ⟨a.owner, a.done, a.ident⟩
      · exact ⟨rfl, rfl, rfl, rfl, rfl⟩

theorem execIntHoldoffExpiry_keeps {m} {s0 : State} {p1} {p2 : State} (hm : Sub 2 m) (k : Keeps m s0 p2) :
    KeepsR m s0 (execIntHoldoffExpiry p1 p2) := by
  unfold execIntHoldoffExpiry
  apply KeepsR.next
  exact Keeps.upd 2 (hm.of rfl) k (Nat.le_refl _) (HostKeeps.same (holdoffEnd_mail p1 p2.host))
    ⟨Nat.le_refl _, id, id, id⟩ ⟨id⟩ rfl

theorem received_keeps {m} {s0 : State} {p1} {p2 : State} (hm : Sub 355175 m) (k : Keeps m s0 p2) :
    Keeps m s0 (received p1 p2) := by
  unfold received
  split
  · rename_i y1 y2
    exact workloadReceived_keeps (hm.of rfl) (by assumption)
  · rename_i y3 y4
    exact calReceived_keeps (hm.of rfl) (by assumption)
  · rename_i y5 y6
    exact tariffReceived_keeps (hm.of rfl) (by assumption)
  · rename_i y7 y8
    exact modelReceived_keeps (hm.of rfl) (by assumption)
  · rename_i y9 y10
    exact imageReceived_keeps (hm.of rfl) (by assumption)
  · rename_i y11 y12
    exact drawReceived_keeps (hm.of rfl) (by assumption)
  · rename_i y13 y14
    exact certReceived_keeps (hm.of rfl) (by assumption)
  · rename_i y15 y16
    exact imageStaged_keeps (hm.of rfl) (by assumption)
  · rename_i y17 y18 y19 y20 y21 y22 y23 y24 y25
    assumption

theorem transferFailed_keeps {m} {s0 : State} {p1 p2 p3} {p4 : State} (hm : Sub 8484 m) (k : Keeps m s0 p4) :
    Keeps m s0 (transferFailed p1 p2 p3 p4) := by
  unfold transferFailed
  extract_lets +onlyGivenNames x1
  clear_value x1
  extract_lets +onlyGivenNames x2
  have h3 : Keeps m s0 x2 := by
    unfold x2
    apply Keeps.ite
    · exact audit_keeps (hm.of rfl) (by assumption)
    · assumption
  clear_value x2
  with_reducible apply complete_keeps (hm.of rfl)
  apply Keeps.ite
  · exact endStage_keeps (hm.of rfl) (by assumption)
  · assumption

theorem finishTransfer_keeps {m} {s0 : State} {p1 p2} {p3 : State} (hm : Sub 355175 m) (k : Keeps m s0 p3) :
    Keeps m s0 (finishTransfer p1 p2 p3) := by
  unfold finishTransfer
  extract_lets +onlyGivenNames x1
  have h2 : Keeps m s0 x1 := closeChannel_keeps (hm.of rfl) (by assumption)
  clear_value x1
  apply Keeps.ite
  · exact transferFailed_keeps (hm.of rfl) (by assumption)
  · apply Keeps.ite
    · exact transferFailed_keeps (hm.of rfl) (by assumption)
    · exact received_keeps (hm.of rfl) (by assumption)

theorem settleReceived_keeps {m} {s0 : State} {p1} {p2 : State} (hm : Sub 355175 m) (k : Keeps m s0 p2) :
    Keeps m s0 (settleReceived p1 p2) := by
  unfold settleReceived
  extract_lets +onlyGivenNames x1
  clear_value x1
  apply Keeps.ite
  · assumption
  · extract_lets +onlyGivenNames x2
    have h3 : Keeps m s0 x2 := by
      unfold x2
      with_reducible apply interrupt_keeps (hm.of rfl)
      exact acceptPages_keeps (hm.of rfl) (by assumption)
    clear_value x2
    apply Keeps.ite
    · split
      · rename_i y4 y5 y6
        exact finishTransfer_keeps (hm.of rfl) (by assumption)
      · rename_i y7 y8
        assumption
    · assumption

theorem streamUpkeep_keeps {m} {s0 : State} {p1 : State} (hm : Sub 355175 m) (k : Keeps m s0 p1) :
    Keeps m s0 (streamUpkeep p1) := by
  unfold streamUpkeep
  apply Keeps.foldl
  · intro a1 a2 a3
    with_reducible apply settleReceived_keeps (hm.of rfl)
    exact pump_keeps (hm.of rfl) (by assumption)
  · assumption

theorem writeTailReg_keeps {m} {s0 : State} {p1 p2} {p3 : State} (hm : Sub 355175 m) (k : Keeps m s0 p3) :
    Keeps m s0 (writeTailReg p1 p2 p3) := by
  unfold writeTailReg
  extract_lets +onlyGivenNames x1
  clear_value x1
  split
  · rename_i y2 y3
    apply Keeps.ite
    · exact hostError_keeps (hm.of rfl) (by assumption)
    · apply Keeps.ite
      · assumption
      · exact acknowledge_keeps (hm.of rfl) (by assumption)
  · rename_i y4 y5
    apply Keeps.ite
    · exact hostError_keeps (hm.of rfl) (by assumption)
    · with_reducible apply settleReceived_keeps (hm.of rfl)
      exact setChan_keeps (hm.of rfl) (by assumption)
  · rename_i y6 y7
    apply Keeps.ite
    · assumption
    · exact hostError_keeps (hm.of rfl) (by assumption)

theorem execStrmTailWrite_keeps {m} {s0 : State} {p1 p2} {p3 : State} (hm : Sub 355175 m) (k : Keeps m s0 p3) :
    KeepsR m s0 (execStrmTailWrite p1 p2 p3) := by
  unfold execStrmTailWrite
  apply KeepsR.next
  apply Keeps.ite
  · assumption
  · exact writeTailReg_keeps (hm.of rfl) (by assumption)

theorem unknownFrame_keeps {m} {s0 : State} {p1} {p2 : State} (hm : Sub 1 m) (k : Keeps m s0 p2) :
    Keeps m s0 (unknownFrame p1 p2).2 := by
  unfold unknownFrame
  exact drawBytes_keeps (hm.of rfl) (by assumption)

theorem readFrame_keeps {m} {s0 : State} {p1 p2 p3 p4} {p5 : State} (hm : Sub 3 m) (k : Keeps m s0 p5) :
    Keeps m s0 (readFrame p1 p2 p3 p4 p5) := by
  unfold readFrame
  extract_lets +onlyGivenNames x1
  clear_value x1
  split
  · rename_i y2 y3 y4
    extract_lets +onlyGivenNames x5
    have h6 : Keeps m s0 x5 := setChan_keeps (hm.of rfl) (by assumption)
    clear_value x5
    exact Keeps.upd 2 (hm.of rfl) (by assumption) (Nat.le_refl _) ⟨id, rfl, rfl, rfl⟩ ⟨Nat.le_refl _, id, id, id⟩ ⟨id⟩ rfl
  · rename_i y7 y8
    extract_lets +onlyGivenNames x9
    have h10 : Keeps m s0 x9.2 := unknownFrame_keeps (hm.of rfl) (by assumption)
    clear_value x9
    extract_lets +onlyGivenNames x11
    have h12 : Keeps m s0 x11 := by
      unfold x11
      assumption
    exact Keeps.upd 2 (hm.of rfl) (by assumption) (Nat.le_refl _) ⟨id, rfl, rfl, rfl⟩ ⟨Nat.le_refl _, id, id, id⟩ ⟨id⟩ rfl

theorem writeFrame_keeps {m} {s0 : State} {p1 p2 p3 p4} {p5 : State} (hm : Sub 2 m) (k : Keeps m s0 p5) :
    Keeps m s0 (writeFrame p1 p2 p3 p4 p5) := by
  unfold writeFrame
  exact setChan_keeps (hm.of rfl) (by assumption)

theorem readOnes_keeps {m} {s0 : State} {p1} {p2 : State} (hm : Sub 2 m) (k : Keeps m s0 p2) :
    Keeps m s0 (readOnes p1 p2) := by
  unfold readOnes
  exact Keeps.upd 2 (hm.of rfl) (by assumption) (Nat.le_refl _) ⟨id, rfl, rfl, rfl⟩ ⟨Nat.le_refl _, id, id, id⟩ ⟨id⟩ rfl

theorem frameAccess_keeps {m} {s0 : State} {p1 p2 p3 p4 p5 p6} {p7 : State} (hm : Sub 3 m) (k : Keeps m s0 p7) :
    Keeps m s0 (frameAccess p1 p2 p3 p4 p5 p6 p7) := by
  unfold frameAccess
  extract_lets +onlyGivenNames x1
  have h2 : Keeps m s0 x1 := by
    unfold x1
    apply Keeps.ite
    · exact resumeChannel_keeps (hm.of rfl) (by assumption)
    · assumption
  clear_value x1
  split
  · rename_i y3 y4 y5
    exact readFrame_keeps (hm.of rfl) (by assumption)
  · rename_i y6 y7 y8 y9
    exact hostError_keeps (hm.of rfl) (by assumption)
  · rename_i y10 y11 y12
    with_reducible apply hostError_keeps (hm.of rfl)
    exact readOnes_keeps (hm.of rfl) (by assumption)
  · rename_i y13 y14 y15 y16
    exact writeFrame_keeps (hm.of rfl) (by assumption)
  · rename_i y17 y18 y19
    exact readFrame_keeps (hm.of rfl) (by assumption)
  · rename_i y20 y21 y22 y23
    assumption

theorem execStreamFrameAccess_keeps {m} {s0 : State} {p1 p2 p3 p4 p5} {p6 : State} (hm : Sub 3 m) (k : Keeps m s0 p6) :
    KeepsR m s0 (execStreamFrameAccess p1 p2 p3 p4 p5 p6) := by
  unfold execStreamFrameAccess
  apply KeepsR.next
  apply Keeps.ite
  · assumption
  · exact frameAccess_keeps (hm.of rfl) (by assumption)

theorem advanceCursor_keeps {m} {s0 : State} {p1} {p2 : State} (hm : Sub 2 m) (k : Keeps m s0 p2) :
    Keeps m s0 (advanceCursor p1 p2) := by
  unfold advanceCursor
  exact setChan_keeps (hm.of rfl) (by assumption)

theorem autoack_keeps {m} {s0 : State} {p1 p2} {p3 : State} (hm : Sub 355175 m) (k : Keeps m s0 p3) :
    Keeps m s0 (autoack p1 p2 p3) := by
  unfold autoack
  extract_lets +onlyGivenNames x1
  clear_value x1
  split
  · rename_i y2 y3
    split
    · rename_i y4 y5 y6
      exact writeTailReg_keeps (hm.of rfl) (by assumption)
    · rename_i y7 y8
      assumption
  · rename_i y9 y10
    exact writeTailReg_keeps (hm.of rfl) (by assumption)
  · rename_i y11 y12
    assumption

theorem execStrmDataAccess_keeps {m} {s0 : State} {p1 p2} {p3 : State} (hm : Sub 355175 m) (k : Keeps m s0 p3) :
    KeepsR m s0 (execStrmDataAccess p1 p2 p3) := by
  unfold execStrmDataAccess
  apply KeepsR.next
  apply Keeps.ite
  · assumption
  · extract_lets +onlyGivenNames x1
    have h2 : Keeps m s0 x1 := by
      unfold x1
      apply Keeps.ite
      · exact resumeChannel_keeps (hm.of rfl) (by assumption)
      · assumption
    clear_value x1
    extract_lets +onlyGivenNames x3
    clear_value x3
    extract_lets +onlyGivenNames x4
    clear_value x4
    extract_lets +onlyGivenNames x5
    clear_value x5
    extract_lets +onlyGivenNames x6
    clear_value x6
    extract_lets +onlyGivenNames x7
    have h8 : Keeps m s0 x7 := frameAccess_keeps (hm.of rfl) (by assumption)
    clear_value x7
    apply Keeps.ite
    · assumption
    · extract_lets +onlyGivenNames x9
      have h10 : Keeps m s0 x9 := advanceCursor_keeps (hm.of rfl) (by assumption)
      clear_value x9
      apply Keeps.ite
      · exact autoack_keeps (hm.of rfl) (by assumption)
      · assumption

theorem writeMsix_mail (v part value : Nat) (h : HostState) : SameMail h (writeMsix v part value h) := by
  have set (f : MsixEntry → MsixEntry) : SameMail h { h with msix := modAt h.msix v f } := ⟨rfl, rfl, rfl, rfl, rfl⟩
  unfold writeMsix
  split
  · exact set _
  · exact set _
  · exact set _
  · dsimp only
    split
    · have a := sendMessage_mail v { h with msix := modAt h.msix v (fun e =>
        { e with masked := value.testBit 0, pending := e.pending && value.testBit 0 }) }
      exact ⟨a.owner, a.done, a.ident⟩
    · exact set _

theorem setIntMap_mail (i v : Nat) (h : HostState) : SameMail h (setIntMap i v h) := by
  unfold setIntMap
  exact ⟨rfl, rfl, rfl, rfl, rfl⟩

theorem execRegisterWrite_keeps {m} {s0 : State} {p1 p2} {p3 : State} (hm : Sub 2096127 m) (k : Keeps m s0 p3) :
    KeepsR m s0 (execRegisterWrite p1 p2 p3) := by
  unfold execRegisterWrite
  extract_lets +onlyGivenNames v
  clear_value v
  refine KeepsR.ite (KeepsR.next k) ?_
  refine KeepsR.ite (KeepsR.ite (execMboxRequestWrite_keeps (hm.of rfl) k) (KeepsR.next k)) ?_
  refine KeepsR.ite (KeepsR.next (hostError_keeps (hm.of rfl) k)) ?_
  refine KeepsR.ite (execIntStatusClear_keeps (hm.of rfl) k) ?_
  refine KeepsR.ite (KeepsR.next (Keeps.upd 2 (hm.of rfl) k (Nat.le_refl _) ⟨id, rfl, rfl, rfl⟩ ⟨Nat.le_refl _, id, id, id⟩ ⟨id⟩ rfl)) ?_
  refine KeepsR.ite (KeepsR.next (Keeps.upd 2 (hm.of rfl) k (Nat.le_refl _) ⟨id, rfl, rfl, rfl⟩ ⟨Nat.le_refl _, id, id, id⟩ ⟨id⟩ rfl)) ?_
  refine KeepsR.ite (KeepsR.next (Keeps.upd 2 (hm.of rfl) k (Nat.le_refl _) (HostKeeps.same (setIntMap_mail _ _ _)) ⟨Nat.le_refl _, id, id, id⟩ ⟨id⟩ rfl)) ?_
  refine KeepsR.ite (execMboxRing_keeps (hm.of rfl) k) ?_
  refine KeepsR.ite (execMboxDoneClear_keeps (hm.of rfl) k) ?_
  refine KeepsR.ite (execStrmTailWrite_keeps (hm.of rfl) k) ?_
  refine KeepsR.ite (KeepsR.next (hostError_keeps (hm.of rfl) k)) ?_
  refine KeepsR.ite (KeepsR.next (Keeps.upd 2 (hm.of rfl) k (Nat.le_refl _) (HostKeeps.same (writeMsix_mail _ _ _ _)) ⟨Nat.le_refl _, id, id, id⟩ ⟨id⟩ rfl)) ?_
  exact KeepsR.ite (KeepsR.next k) (KeepsR.next (hostError_keeps (hm.of rfl) k))

theorem execStreamPageAbandon_keeps {m} {s0 : State} {p1} {p2 : State} (hm : Sub 6 m) (k : Keeps m s0 p2) :
    KeepsR m s0 (execStreamPageAbandon p1 p2) := by
  unfold execStreamPageAbandon
  extract_lets +onlyGivenNames x1
  clear_value x1
  apply KeepsR.next
  apply Keeps.ite
  · assumption
  · split
    · rename_i y2 y3 y4
      apply Keeps.ite
      · exact abandonPage_keeps (hm.of rfl) (by assumption)
      · assumption
    · rename_i y5 y6
      assumption

theorem execStreamPageStall_keeps {m} {s0 : State} {p1} {p2 : State} (hm : Sub 2 m) (k : Keeps m s0 p2) :
    KeepsR m s0 (execStreamPageStall p1 p2) := by
  unfold execStreamPageStall
  extract_lets +onlyGivenNames x1
  clear_value x1
  apply KeepsR.next
  split
  · rename_i y2 y3 y4 y5 y6 y7
    extract_lets +onlyGivenNames x8
    clear_value x8
    with_reducible apply interrupt_keeps (hm.of rfl)
    exact setChan_keeps (hm.of rfl) (by assumption)
  · rename_i y9 y10 y11
    assumption

theorem abandonPush_keeps {m} {s0 : State} {p1 p2} {p3 : State} (hm : Sub 6 m) (k : Keeps m s0 p3) :
    Keeps m s0 (abandonPush p1 p2 p3) := by
  unfold abandonPush
  extract_lets +onlyGivenNames x1
  clear_value x1
  extract_lets +onlyGivenNames x2
  extract_lets +onlyGivenNames x3
  have h4 : Keeps m s0 x3 := by
    unfold x3
    exact Keeps.upd 2 (hm.of rfl) (by assumption) (Nat.le_refl _) ⟨id, rfl, rfl, rfl⟩ ⟨Nat.le_refl _, id, id, id⟩ ⟨id⟩ rfl
  clear_value x3
  extract_lets +onlyGivenNames x5
  have h6 : Keeps m s0 x5 := setChan_keeps (hm.of rfl) (by assumption)
  clear_value x5
  with_reducible apply raiseEvent_keeps (hm.of rfl)
  exact interrupt_keeps (hm.of rfl) (by assumption)

theorem execStreamPushStall_keeps {m} {s0 : State} {p1} {p2 : State} (hm : Sub 6 m) (k : Keeps m s0 p2) :
    KeepsR m s0 (execStreamPushStall p1 p2) := by
  unfold execStreamPushStall
  extract_lets +onlyGivenNames x1
  clear_value x1
  apply KeepsR.next
  apply Keeps.ite
  · assumption
  · split
    · rename_i y2 y3 y4
      exact abandonPush_keeps (hm.of rfl) (by assumption)
    · rename_i y5 y6
      assumption

theorem execStreamReceiveTimeout_keeps {m} {s0 : State} {p1} {p2 : State} (hm : Sub 8486 m) (k : Keeps m s0 p2) :
    KeepsR m s0 (execStreamReceiveTimeout p1 p2) := by
  unfold execStreamReceiveTimeout
  apply KeepsR.next
  split
  · rename_i y1 y2 y3
    apply Keeps.ite
    · with_reducible apply transferFailed_keeps (hm.of rfl)
      exact closeChannel_keeps (hm.of rfl) (by assumption)
    · assumption
  · rename_i y4 y5
    assumption

theorem orphanRequests_keeps {m} {s0 : State} {p1 : State} (hm : Sub 16388 m) (k : Keeps m s0 p1) :
    Keeps m s0 (orphanRequests p1) := by
  unfold orphanRequests
  extract_lets +onlyGivenNames x1
  clear_value x1
  extract_lets +onlyGivenNames x2
  clear_value x2
  exact Keeps.upd 16388 (hm.of rfl) (by assumption) (Nat.le_refl _) ⟨id, rfl, rfl, rfl⟩ ⟨Nat.le_refl _, id, id, id⟩ ⟨id⟩ rfl

theorem resetChannel_keeps {m} {s0 : State} {p2} {p1 : State} (hm : Sub 2 m) (k : Keeps m s0 p1) :
    Keeps m s0 (resetChannel p1 p2) := by
  unfold resetChannel
  exact setChan_keeps (hm.of rfl) (by assumption)

theorem execPcieReset_keeps {m} {s0 : State} {p1} {p2 : State} (hm : Sub 16398 m) (k : Keeps m s0 p2) :
    KeepsR m s0 (execPcieReset p1 p2) := by
  unfold execPcieReset
  extract_lets +onlyGivenNames x1
  have h2 : Keeps m s0 x1 := by
    unfold x1
    with_reducible apply directChannel0_keeps (hm.of rfl)
    exact orphanRequests_keeps (hm.of rfl) (by assumption)
  clear_value x1
  extract_lets +onlyGivenNames x3
  extract_lets +onlyGivenNames x4
  have h5 : Keeps m s0 x4 := by
    unfold x4
    refine Keeps.upd 2 (hm.of rfl) ?_ ?_ ?_ ?_ ?_ rfl
    · assumption
    · exact Nat.le_refl _
    · exact ⟨fun _ => zero_mail, rfl, rfl, rfl⟩
    · exact ⟨Nat.le_refl _, id, id, id⟩
    · exact ⟨id⟩
  clear_value x4
  extract_lets +onlyGivenNames x6
  clear_value x6
  extract_lets +onlyGivenNames x7
  have h8 : Keeps m s0 x7 := by
    unfold x7
    exact Keeps.rest 8 (hm.of rfl) (by assumption) rfl
  clear_value x7
  extract_lets +onlyGivenNames x9
  have h10 : Keeps m s0 x9 := by
    unfold x9
    apply Keeps.foldl
    · intro a11 a12 a13
      exact resetChannel_keeps (hm.of rfl) (by assumption)
    · assumption
  clear_value x9
  apply KeepsR.next
  exact Keeps.upd 2 (hm.of rfl) (by assumption) (Nat.le_refl _) ⟨id, rfl, rfl, rfl⟩ ⟨Nat.le_refl _, id, id, id⟩ ⟨id⟩ rfl

theorem placed_keeps {m} {s0 : State} {p1 p2 p3 p4 p5 p6} {p7 : State} (hm : Sub 8229 m) (k : Keeps m s0 p7) :
    Keeps m s0 (placed p1 p2 p3 p4 p5 p6 p7) := by
  unfold placed
  extract_lets +onlyGivenNames x1
  clear_value x1
  extract_lets +onlyGivenNames x2
  extract_lets +onlyGivenNames x3
  have h4 : Keeps m s0 x3 := by
    unfold x3
    exact Keeps.upd 4 (hm.of rfl) (by assumption) (Nat.le_refl _) ⟨id, rfl, rfl, rfl⟩ ⟨Nat.le_refl _, id, id, id⟩ ⟨id⟩ rfl
  clear_value x3
  extract_lets +onlyGivenNames x5
  have h6 : Keeps m s0 x5 := by
    unfold x5
    apply Keeps.ite
    · exact traceWrite_keeps (hm.of rfl) (by assumption)
    · assumption
  clear_value x5
  split
  · rename_i y7 y8
    exact journal_keeps (hm.of rfl) (by assumption)
  · rename_i y9
    assumption

theorem placeEntry_keeps {m} {s0 : State} {p1} {p2 : State} (hm : Sub 8229 m) (k : Keeps m s0 p2) :
    Keeps m s0 (placeEntry p1 p2).2 := by
  unfold placeEntry
  extract_lets +onlyGivenNames x1
  clear_value x1
  extract_lets +onlyGivenNames x2
  extract_lets +onlyGivenNames x3
  have h3 : Keeps m s0 x3 :=
    Keeps.upd 4 (hm.of rfl) k (Nat.le_refl _) ⟨id, rfl, rfl, rfl⟩
      ⟨Nat.le_refl _, id, id, fun h => Nat.le_trans (List.Sublist.countP_le List.erase_sublist) h⟩ ⟨id⟩ rfl
  clear_value x3
  exact placed_keeps (hm.of rfl) h3

theorem placeOverflow_keeps {m} {s0 : State} {p1 : State} (hm : Sub 8229 m) (k : Keeps m s0 p1) :
    Keeps m s0 (placeOverflow p1).2 := by
  unfold placeOverflow
  extract_lets +onlyGivenNames x1
  clear_value x1
  extract_lets +onlyGivenNames x2
  clear_value x2
  extract_lets +onlyGivenNames x3
  extract_lets +onlyGivenNames x4
  have h5 : Keeps m s0 x4 := by
    unfold x4
    exact Keeps.upd 4 (hm.of rfl) (by assumption) (Nat.le_refl _) ⟨id, rfl, rfl, rfl⟩ ⟨Nat.le_refl _, id, id, id⟩ ⟨id⟩ rfl
  clear_value x4
  apply Keeps.sndMk
  exact placed_keeps (hm.of rfl) (by assumption)

theorem packEntries_keeps {m} {s0 : State} {p1 p2 p3} {p4 : State} (hm : Sub 8229 m) (k : Keeps m s0 p4) :
    Keeps m s0 (packEntries p1 p2 p3 p4).2 := by
  induction p2 generalizing p3 p4 with
  | nil => exact k
  | cons e es ih =>
    unfold packEntries
    split
    · exact k
    · exact ih (placeEntry_keeps (hm.of rfl) k)

theorem sendEntries_keeps {m} {s0 : State} {p1 p2 p3} {p4 : State} (hm : Sub 8229 m) (k : Keeps m s0 p4) :
    Keeps m s0 (sendEntries p1 p2 p3 p4) := by
  induction p3 generalizing p4 with
  | nil => exact k
  | cons e es ih =>
    unfold sendEntries
    split
    · exact k
    · split
      · exact k
      · exact ih (sendDatagram_keeps (hm.of rfl) (placeEntry_keeps (hm.of rfl) k))

theorem placeEvents_keeps {m} {s0 : State} {p1 : State} (hm : Sub 8231 m) (k : Keeps m s0 p1) :
    Keeps m s0 (placeEvents p1) := by
  unfold placeEvents
  extract_lets +onlyGivenNames x1
  clear_value x1
  split
  · rename_i y2 y3 y4
    extract_lets +onlyGivenNames x5
    have h6 : Keeps m s0 x5 := sendEntries_keeps (hm.of rfl) (by assumption)
    clear_value x5
    extract_lets +onlyGivenNames x7
    clear_value x7
    apply Keeps.ite
    · extract_lets +onlyGivenNames x8
      have h9 : Keeps m s0 x8.2 := placeOverflow_keeps (hm.of rfl) (by assumption)
      clear_value x8
      with_reducible apply sendDatagram_keeps (hm.of rfl)
      assumption
    · assumption
  · rename_i y10 y11
    apply Keeps.ite
    · assumption
    · extract_lets +onlyGivenNames x12
      have h13 : Keeps m s0 x12.2 := packEntries_keeps (hm.of rfl) (by assumption)
      clear_value x12
      extract_lets +onlyGivenNames x14
      have h15 : Keeps m s0 x14.2 := by
        unfold x14
        split
        · rename_i y16
          with_reducible apply placeOverflow_keeps (hm.of rfl)
          assumption
        · rename_i y17
          apply Keeps.sndMk
          assumption
      clear_value x14
      extract_lets +onlyGivenNames x18
      clear_value x18
      apply Keeps.ite
      · assumption
      · with_reducible apply producePage_keeps (hm.of rfl)
        assumption

theorem execEventPlacement_keeps {m} {s0 : State} {p1 : State} (hm : Sub 8231 m) (k : Keeps m s0 p1) :
    KeepsR m s0 (execEventPlacement p1) := by
  unfold execEventPlacement
  apply KeepsR.next
  apply Keeps.ite
  · exact placeEvents_keeps (hm.of rfl) (by assumption)
  · assumption

theorem dropDatagram_keeps {m} {s0 : State} {p1 : State} (hm : Sub 4 m) (k : Keeps m s0 p1) :
    Keeps m s0 (dropDatagram p1) := by
  unfold dropDatagram
  exact Keeps.upd 4 (hm.of rfl) (by assumption) (Nat.le_refl _) ⟨id, rfl, rfl, rfl⟩ ⟨Nat.le_refl _, id, id, id⟩ ⟨id⟩ rfl

theorem openDatagram_keeps {m} {s0 : State} {p1} {p2 : State} (hm : Sub 16388 m) (k : Keeps m s0 p2) :
    Keeps m s0 (openDatagram p1 p2).2 := by
  unfold openDatagram
  split
  · rename_i y1 y2
    apply Keeps.sndMk
    exact dropDatagram_keeps (hm.of rfl) (by assumption)
  · rename_i y3 y4 y5
    extract_lets +onlyGivenNames x6
    have h7 : Keeps m s0 x6.2 := engineWork_keeps (hm.of rfl) (by assumption)
    clear_value x6
    split
    · rename_i y8
      apply Keeps.sndMk
      exact dropDatagram_keeps (hm.of rfl) (by assumption)
    · rename_i y9
      split
      · rename_i y10 y11 y12
        assumption
      · rename_i y13 y14
        apply Keeps.sndMk
        exact dropDatagram_keeps (hm.of rfl) (by assumption)

theorem notePeer_keeps {m} {s0 : State} {p1 p2} {p3 : State} (hm : Sub 4 m) (k : Keeps m s0 p3) :
    Keeps m s0 (notePeer p1 p2 p3) := by
  unfold notePeer
  refine Keeps.upd 4 (hm.of rfl) ?_ ?_ ?_ ?_ ?_ rfl
  · assumption
  · exact Nat.le_refl _
  · exact ⟨id, rfl, rfl, rfl⟩
  · exact ⟨Nat.le_refl _, id, fun h => by simp only [List.length_map]; exact h, id⟩
  · exact ⟨id⟩

theorem udpRequest_keeps {m} {s0 : State} {p1 p2} {p3 : State} (hm : Sub 2096127 m) (k : Keeps m s0 p3) :
    Keeps m s0 (udpRequest p1 p2 p3) := by
  unfold udpRequest
  apply Keeps.ite
  · assumption
  · apply Keeps.ite
    · extract_lets +onlyGivenNames x1
      clear_value x1
      apply Keeps.ite
      · with_reducible apply arriveCode_keeps (hm.of rfl)
        exact notePeer_keeps (hm.of rfl) (by assumption)
      · apply Keeps.ite
        · exact arriveCode_keeps (hm.of rfl) (by assumption)
        · assumption
    · extract_lets +onlyGivenNames x2
      have h3 : Keeps m s0 x2.2 := openDatagram_keeps (hm.of rfl) (by assumption)
      clear_value x2
      split
      · rename_i y4 y5
        assumption
      · rename_i y6 y7 y8
        extract_lets +onlyGivenNames x9
        clear_value x9
        apply Keeps.ite
        · with_reducible apply udpArrive_keeps (hm.of rfl)
          · with_reducible apply notePeer_keeps (hm.of rfl)
            assumption
          · intro a10 a11 a12
            exact arriveCode_keeps (hm.of rfl) (by assumption)
        · assumption

theorem execUdpRequestRx_keeps {m} {s0 : State} {p1 p2} {p3 : State} (hm : Sub 2096127 m) (k : Keeps m s0 p3) :
    KeepsR m s0 (execUdpRequestRx p1 p2 p3) := by
  unfold execUdpRequestRx
  apply KeepsR.next
  exact udpRequest_keeps (hm.of rfl) (by assumption)

theorem setUdp_keeps {m} {s0 : State} {p1 p2} {p3 : State} (hm : Sub 4 m) (k : Keeps m s0 p3) :
    Keeps m s0 (setUdp p1 p2 p3) := by
  unfold setUdp
  refine Keeps.upd 4 (hm.of rfl) ?_ ?_ ?_ ?_ ?_ rfl
  · assumption
  · exact Nat.le_refl _
  · exact ⟨id, rfl, rfl, rfl⟩
  · exact ⟨Nat.le_refl _, id, fun h => by simp only [List.length_map]; exact h, id⟩
  · exact ⟨id⟩

theorem eventAcked_keeps {m} {s0 : State} {p1 p2} {p3 : State} (hm : Sub 4 m) (k : Keeps m s0 p3) :
    Keeps m s0 (eventAcked p1 p2 p3) := by
  unfold eventAcked
  extract_lets +onlyGivenNames x1
  have h2 : Keeps m s0 x1 := setUdp_keeps (hm.of rfl) (by assumption)
  clear_value x1
  split
  · rename_i y3 y4 y5
    split
    · rename_i y6 y7 y8 y9
      apply Keeps.ite
      · with_reducible apply sendDatagram_keeps (hm.of rfl)
        exact setUdp_keeps (hm.of rfl) (by assumption)
      · assumption
    · rename_i y10 y11
      assumption
  · rename_i y12 y13
    assumption

theorem udpEventAck_keeps {m} {s0 : State} {p1} {p2 : State} (hm : Sub 16388 m) (k : Keeps m s0 p2) :
    Keeps m s0 (udpEventAck p1 p2) := by
  unfold udpEventAck
  apply Keeps.ite
  · assumption
  · extract_lets +onlyGivenNames x1
    have h2 : Keeps m s0 x1.2 := openDatagram_keeps (hm.of rfl) (by assumption)
    clear_value x1
    split
    · rename_i y3 y4
      assumption
    · rename_i y5 y6 y7
      apply Keeps.ite
      · exact eventAcked_keeps (hm.of rfl) (by assumption)
      · assumption

theorem execUdpEventAckRx_keeps {m} {s0 : State} {p1} {p2 : State} (hm : Sub 16388 m) (k : Keeps m s0 p2) :
    KeepsR m s0 (execUdpEventAckRx p1 p2) := by
  unfold execUdpEventAckRx
  apply KeepsR.next
  exact udpEventAck_keeps (hm.of rfl) (by assumption)

theorem execUdpEventResend_keeps {m} {s0 : State} {p1 p2} {p3 : State} (hm : Sub 2054 m) (k : Keeps m s0 p3) :
    KeepsR m s0 (execUdpEventResend p1 p2 p3) := by
  unfold execUdpEventResend
  apply KeepsR.next
  split
  · rename_i y1 y2
    assumption
  · rename_i y3 y4 y5
    split
    · rename_i y6 y7
      assumption
    · rename_i y8 y9 y10
      apply Keeps.ite
      · exact endSession_keeps (hm.of rfl) (by assumption)
      · extract_lets +onlyGivenNames x11
        have h12 : Keeps m s0 x11 := setUdp_keeps (hm.of rfl) (by assumption)
        clear_value x11
        exact Keeps.upd 4 (hm.of rfl) (by assumption) (Nat.le_refl _) ⟨id, rfl, rfl, rfl⟩ ⟨Nat.le_refl _, id, id, id⟩ ⟨id⟩ rfl

theorem execUpdateQuiesceTimeout_keeps {m} {s0 : State} {p1 : State} (hm : Sub 2096127 m) (k : Keeps m s0 p1) :
    KeepsR m s0 (execUpdateQuiesceTimeout p1) := by
  unfold execUpdateQuiesceTimeout
  apply KeepsR.next
  apply Keeps.ite
  · assumption
  · extract_lets +onlyGivenNames x1
    extract_lets +onlyGivenNames x2
    have h3 : Keeps m s0 x2 := by
      unfold x2
      with_reducible apply setSvc_keeps (hm.of rfl)
      exact Keeps.upd 4 (hm.of rfl) (by assumption) (Nat.le_refl _) ⟨id, rfl, rfl, rfl⟩ ⟨Nat.le_refl _, id, id, id⟩ ⟨id⟩ rfl
    clear_value x2
    with_reducible apply drain_keeps (hm.of rfl)
    with_reducible apply updateStep_keeps (hm.of rfl)
    exact endUpdate_keeps (hm.of rfl) (by assumption)

theorem execFolsetUpdateReady_keeps {m} {s0 : State} {p1 : State} (hm : Sub 2096127 m) (k : Keeps m s0 p1) :
    KeepsR m s0 (execFolsetUpdateReady p1) := by
  unfold execFolsetUpdateReady
  apply KeepsR.next
  apply Keeps.ite
  · assumption
  · extract_lets +onlyGivenNames x1
    clear_value x1
    extract_lets +onlyGivenNames x2
    have h3 : Keeps m s0 x2 := setSvc_keeps (hm.of rfl) (by assumption)
    clear_value x2
    extract_lets +onlyGivenNames x4
    extract_lets +onlyGivenNames x5
    have h6 : Keeps m s0 x5 := by
      unfold x5
      exact Keeps.upd 4 (hm.of rfl) (by assumption) (Nat.le_refl _) ⟨id, rfl, rfl, rfl⟩ ⟨Nat.le_refl _, id, id, id⟩ ⟨id⟩ rfl
    clear_value x5
    extract_lets +onlyGivenNames x7
    have h8 : Keeps m s0 x7 := updateStep_keeps (hm.of rfl) (by assumption)
    clear_value x7
    with_reducible apply drain_keeps (hm.of rfl)
    with_reducible apply faultLevel_keeps (hm.of rfl)
    exact endUpdate_keeps (hm.of rfl) (by assumption)

theorem reportLost_keeps {m} {s0 : State} {p1 : State} (hm : Sub 8199 m) (k : Keeps m s0 p1) :
    Keeps m s0 (reportLost p1) := by
  unfold reportLost
  extract_lets +onlyGivenNames x1
  clear_value x1
  extract_lets +onlyGivenNames x2
  clear_value x2
  extract_lets +onlyGivenNames x3
  extract_lets +onlyGivenNames x4
  have h5 : Keeps m s0 x4 := by
    unfold x4
    exact Keeps.upd 4 (hm.of rfl) (by assumption) (Nat.le_refl _) ⟨id, rfl, rfl, rfl⟩ ⟨Nat.le_refl _, id, id, id⟩ ⟨id⟩ rfl
  clear_value x4
  extract_lets +onlyGivenNames x6
  have h7 : Keeps m s0 x6 := by
    unfold x6
    apply Keeps.foldl
    · intro a8 a10 h13
      exact answer_keeps (hm.of rfl) (by assumption)
    · assumption
  clear_value x6
  apply Keeps.foldl
  · intro a14 a16 h19
    exact complete_keeps (hm.of rfl) (by assumption)
  · assumption

theorem resumeStart_keeps {m} {s0 : State} {p1 : State} (hm : Sub 1965759 m) (k : Keeps m s0 p1) :
    Keeps m s0 (resumeStart p1) := by
  unfold resumeStart
  apply Keeps.ite
  · with_reducible apply startDomains_keeps (hm.of rfl)
    exact coldCatalogue_keeps (hm.of rfl) (by assumption)
  · assumption

theorem execFolsetRestartComplete_keeps {m} {s0 : State} {p1 : State} (hm : Sub 2097151 m) (k : Keeps m s0 p1) :
    KeepsR m s0 (execFolsetRestartComplete p1) := by
  unfold execFolsetRestartComplete
  apply KeepsR.next
  apply Keeps.ite
  · assumption
  · extract_lets +onlyGivenNames x1
    clear_value x1
    extract_lets +onlyGivenNames x2
    have h3 : Keeps m s0 x2 := by
      unfold x2
      with_reducible apply endSessions_keeps (hm.of rfl)
      exact reportLost_keeps (hm.of rfl) (by assumption)
    clear_value x2
    extract_lets +onlyGivenNames x4
    have h5 : Keeps m s0 x4 := raiseEvent_keeps (hm.of rfl) (by assumption)
    clear_value x4
    extract_lets +onlyGivenNames x6
    extract_lets +onlyGivenNames x7
    extract_lets +onlyGivenNames x8
    have h9 : Keeps m s0 x8 := by
      unfold x8
      exact Keeps.upd 6 (hm.of rfl) (by assumption) (Nat.le_refl _) ⟨id, rfl, rfl, rfl⟩ ⟨Nat.le_refl _, id, id, id⟩ ⟨id⟩ rfl
    clear_value x8
    with_reducible apply drain_keeps (hm.of rfl)
    with_reducible apply resumeStart_keeps (hm.of rfl)
    with_reducible apply endFault_keeps (hm.of rfl)
    with_reducible apply endFault_keeps (hm.of rfl)
    exact faultLevel_keeps (hm.of rfl) (by assumption)

end Sys2Proof.Machine
end

