-- ==== Sys2Proof/Laws/Keeps/LinkRows.lean ====
section
/-!
SUPPORT. What the operations of Machine/LinkRows.lean keep.
-/

namespace Sys2Proof.Machine

theorem dropRx_keeps {m} {s0 : State} {p1} {p2 : State} (hm : Sub 1048576 m) (k : Keeps m s0 p2) :
    Keeps m s0 (dropRx p1 p2) := by
  unfold dropRx
  exact setPort_keeps (hm.of rfl) (by assumption)

theorem macsecDrop_keeps {m} {s0 : State} {p1} {p2 : State} (hm : Sub 1048576 m) (k : Keeps m s0 p2) :
    Keeps m s0 (macsecDrop p1 p2) := by
  unfold macsecDrop
  exact setPort_keeps (hm.of rfl) (by assumption)

theorem authFailure_keeps {m} {s0 : State} {p1} {p2 : State} (hm : Sub 1058823 m) (k : Keeps m s0 p2) :
    Keeps m s0 (authFailure p1 p2) := by
  unfold authFailure
  extract_lets +onlyGivenNames x1
  clear_value x1
  extract_lets +onlyGivenNames x2
  have h3 : Keeps m s0 x2 := by
    unfold x2
    with_reducible apply setPort_keeps (hm.of rfl)
    exact macsecDrop_keeps (hm.of rfl) (by assumption)
  clear_value x2
  extract_lets +onlyGivenNames x4
  clear_value x4
  apply Keeps.ite
  · with_reducible apply raiseFault_keeps (hm.of rfl)
    exact setPort_keeps (hm.of rfl) (by assumption)
  · assumption

theorem receiveSecure_keeps {m} {s0 : State} {p1 p2 p3} {p4 : State} (hm : Sub 1075207 m) (k : Keeps m s0 p4) :
    Keeps m s0 (receiveSecure p1 p2 p3 p4).2 := by
  unfold receiveSecure
  extract_lets +onlyGivenNames x1
  clear_value x1
  extract_lets +onlyGivenNames x2
  clear_value x2
  split
  · rename_i y3 y4
    apply Keeps.sndMk
    exact macsecDrop_keeps (hm.of rfl) (by assumption)
  · rename_i y5 y6 y7
    split
    · rename_i y8
      apply Keeps.sndMk
      exact dropRx_keeps (hm.of rfl) (by assumption)
    · rename_i y9
      split
      · rename_i y10 y11 y12
        have h13 : Keeps m s0 y11 := by
          refine KeepsP.get ?_ y12
          exact requestKey_keeps (hm.of rfl) (by assumption)
        apply Keeps.sndMk
        exact macsecDrop_keeps (hm.of rfl) (by assumption)
      · rename_i y14 y15 y16 y17
        have h18 : Keeps m s0 y16 := by
          refine KeepsP.get ?_ y17
          exact requestKey_keeps (hm.of rfl) (by assumption)
        extract_lets +onlyGivenNames x19
        have h20 : Keeps m s0 x19 := setEngine_keeps (hm.of rfl) (by assumption)
        clear_value x19
        extract_lets +onlyGivenNames x21
        clear_value x21
        extract_lets +onlyGivenNames x22
        clear_value x22
        split
        · rename_i y23 y24
          apply Keeps.sndMk
          exact authFailure_keeps (hm.of rfl) (by assumption)
        · rename_i y25 y26 y27
          split
          · rename_i y28
            apply Keeps.sndMk
            exact macsecDrop_keeps (hm.of rfl) (by assumption)
          · rename_i y29
            apply Keeps.sndMk
            exact setPort_keeps (hm.of rfl) (by assumption)

theorem learnNeighbour_keeps {m} {s0 : State} {p1 p2 p3} {p4 : State} (hm : Sub 1048576 m) (k : Keeps m s0 p4) :
    Keeps m s0 (learnNeighbour p1 p2 p3 p4) := by
  unfold learnNeighbour
  extract_lets +onlyGivenNames x1
  clear_value x1
  exact setPort_keeps (hm.of rfl) (by assumption)

theorem sendIcmp_keeps {m} {s0 : State} {p1 p2 p3} {p4 : State} (hm : Sub 1048576 m) (k : Keeps m s0 p4) :
    Keeps m s0 (sendIcmp p1 p2 p3 p4) := by
  unfold sendIcmp
  exact setLnk_keeps (hm.of rfl) (by assumption)

theorem takeIcmp_keeps {m} {s0 : State} {p1 p2 p3} {p4 : State} (hm : Sub 1048576 m) (k : Keeps m s0 p4) :
    Keeps m s0 (takeIcmp p1 p2 p3 p4) := by
  unfold takeIcmp
  extract_lets +onlyGivenNames x1
  clear_value x1
  apply Keeps.ite
  · extract_lets +onlyGivenNames x2
    have h3 : Keeps m s0 x2 := by
      unfold x2
      split
      · rename_i y4 y5 y6
        apply Keeps.ite
        · assumption
        · exact learnNeighbour_keeps (hm.of rfl) (by assumption)
      · rename_i y7 y8
        assumption
    clear_value x2
    apply Keeps.ite
    · extract_lets +onlyGivenNames x9
      clear_value x9
      extract_lets +onlyGivenNames x10
      clear_value x10
      exact sendIcmp_keeps (hm.of rfl) (by assumption)
    · assumption
  · apply Keeps.ite
    · split
      · rename_i y11 y12 y13
        exact learnNeighbour_keeps (hm.of rfl) (by assumption)
      · rename_i y14 y15
        assumption
    · exact sendIcmp_keeps (hm.of rfl) (by assumption)

theorem KeepsR.after {m} {s u : State} {r : Result} (h : KeepsR m s r) (e : r = .next u) : Keeps m s u := by
  obtain ⟨v, hv, kv⟩ := h
  rw [hv] at e
  exact (Host.Outcome.next.inj e) ▸ kv

theorem steerStem_keeps {m} {s0 : State} {p1 p2 p3 p4} {p5 : State} (hm : Sub 1047215 m) (k : Keeps m s0 p5) :
    Keeps m s0 (steerStem p1 p2 p3 p4 p5) := by
  have go : ∀ r : Result, KeepsR m s0 r → Keeps m s0 (match r with | .next t => t | _ => p5) := by
    rintro _ ⟨t, rfl, kt⟩
    exact kt
  unfold steerStem
  split
  · exact go _ (execStemRfSamples_keeps (hm.of rfl) k)
  · exact go _ (execStemJoin_keeps (hm.of rfl) k)
  · exact go _ (execStemStaleRx_keeps (hm.of rfl) k)
  · exact stemReceive_keeps (hm.of rfl) k

theorem steerIp_keeps {m} {s0 : State} {p1 p2} {p3 : State} (hm : Sub 2096127 m) (k : Keeps m s0 p3) :
    Keeps m s0 (steerIp p1 p2 p3) := by
  unfold steerIp
  extract_lets +onlyGivenNames x1
  clear_value x1
  extract_lets +onlyGivenNames x2
  clear_value x2
  extract_lets +onlyGivenNames x3
  clear_value x3
  extract_lets +onlyGivenNames x4
  clear_value x4
  extract_lets +onlyGivenNames x5
  clear_value x5
  extract_lets +onlyGivenNames x6
  clear_value x6
  extract_lets +onlyGivenNames x7
  clear_value x7
  apply Keeps.ite
  · exact dropRx_keeps (hm.of rfl) (by assumption)
  · apply Keeps.ite
    · exact steerStem_keeps (hm.of rfl) (by assumption)
    · apply Keeps.ite
      · apply Keeps.ite
        · exact udpEventAck_keeps (hm.of rfl) (by assumption)
        · exact udpRequest_keeps (hm.of rfl) (by assumption)
      · apply Keeps.ite
        · exact takeIcmp_keeps (hm.of rfl) (by assumption)
        · exact dropRx_keeps (hm.of rfl) (by assumption)

theorem steerFrame_keeps {m} {s0 : State} {p1 p2} {p3 : State} (hm : Sub 2096127 m) (k : Keeps m s0 p3) :
    Keeps m s0 (steerFrame p1 p2 p3) := by
  unfold steerFrame
  apply Keeps.ite
  · exact dropRx_keeps (hm.of rfl) (by assumption)
  · extract_lets +onlyGivenNames x1
    clear_value x1
    extract_lets +onlyGivenNames x2
    clear_value x2
    apply Keeps.ite
    · assumption
    · apply Keeps.ite
      · exact steerIp_keeps (hm.of rfl) (by assumption)
      · exact dropRx_keeps (hm.of rfl) (by assumption)

theorem execEthernetFrameRx_keeps {m} {s0 : State} {p1 p2} {p3 : State} (hm : Sub 2096127 m) (k : Keeps m s0 p3) :
    KeepsR m s0 (execEthernetFrameRx p1 p2 p3) := by
  unfold execEthernetFrameRx
  apply KeepsR.next
  apply Keeps.ite
  · assumption
  · extract_lets +onlyGivenNames x1
    have h2 : Keeps m s0 x1 := setPort_keeps (hm.of rfl) (by assumption)
    clear_value x1
    extract_lets +onlyGivenNames x3
    clear_value x3
    apply Keeps.ite
    · exact steerFrame_keeps (hm.of rfl) (by assumption)
    · split
      · rename_i y4 y5
        apply Keeps.ite
        · exact steerFrame_keeps (hm.of rfl) (by assumption)
        · exact dropRx_keeps (hm.of rfl) (by assumption)
      · rename_i y6 y7 y8
        extract_lets +onlyGivenNames x9
        have h10 : Keeps m s0 x9.2 := receiveSecure_keeps (hm.of rfl) (by assumption)
        clear_value x9
        split
        · rename_i y11 y12 y13
          exact steerFrame_keeps (hm.of rfl) (by assumption)
        · rename_i y14 y15
          assumption

end Sys2Proof.Machine
end

