-- ==== Sys2Proof/Laws/Keeps/MemErrors.lean ====
section
/-!
SUPPORT. What the operations of Machine/MemErrors.lean keep.
-/

namespace Sys2Proof.Machine

theorem noteError_keeps {m} {s0 : State} {p1 p2} {p3 : State} (hm : Sub 256 m) (k : Keeps m s0 p3) :
    Keeps m s0 (noteError p1 p2 p3) := by
  unfold noteError
  extract_lets +onlyGivenNames x1
  clear_value x1
  extract_lets +onlyGivenNames x2
  clear_value x2
  exact Keeps.rest 256 (hm.of rfl) (by assumption) rfl

theorem retirePage_keeps {m} {s0 : State} {p1 p2} {p3 : State} (hm : Sub 10503 m) (k : Keeps m s0 p3) :
    Keeps m s0 (retirePage p1 p2 p3) := by
  unfold retirePage
  extract_lets +onlyGivenNames x1
  clear_value x1
  apply Keeps.ite
  · exact raiseFault_keeps (hm.of rfl) (by assumption)
  · extract_lets +onlyGivenNames x2
    clear_value x2
    extract_lets +onlyGivenNames x3
    clear_value x3
    extract_lets +onlyGivenNames x4
    have h5 : Keeps m s0 x4 := by
      unfold x4
      exact Keeps.rest 256 (hm.of rfl) (by assumption) rfl
    clear_value x4
    extract_lets +onlyGivenNames x6
    have h7 : Keeps m s0 x6 := raiseEvent_keeps (hm.of rfl) (by assumption)
    clear_value x6
    apply Keeps.ite
    · exact raiseFault_keeps (hm.of rfl) (by assumption)
    · assumption

theorem loseSamples_keeps {m} {s0 : State} {p1} {p2 : State} (hm : Sub 32768 m) (k : Keeps m s0 p2) :
    Keeps m s0 (loseSamples p1 p2) := by
  unfold loseSamples
  apply Keeps.ite
  · exact setBridge_keeps (hm.of rfl) (by assumption)
  · assumption

theorem rebuildPage_keeps {m} {s0 : State} {p1} {p2 : State} (hm : Sub 32 m) (k : Keeps m s0 p2) :
    Keeps m s0 (rebuildPage p1 p2) := by
  unfold rebuildPage
  apply Keeps.ite
  · exact setPage_keeps (hm.of rfl) (by assumption)
  · assumption

theorem loseHistory_keeps {m} {s0 : State} {p1} {p2 : State} (hm : Sub 32 m) (k : Keeps m s0 p2) :
    Keeps m s0 (loseHistory p1 p2) := by
  unfold loseHistory
  extract_lets +onlyGivenNames x1
  clear_value x1
  extract_lets +onlyGivenNames x2
  clear_value x2
  extract_lets +onlyGivenNames x3
  clear_value x3
  apply Keeps.ite
  · exact setPage_keeps (hm.of rfl) (by assumption)
  · assumption

theorem loseBalance_keeps {m} {s0 : State} {p1} {p2 : State} (hm : Sub 131072 m) (k : Keeps m s0 p2) :
    Keeps m s0 (loseBalance p1 p2) := by
  unfold loseBalance
  extract_lets +onlyGivenNames x1
  clear_value x1
  extract_lets +onlyGivenNames x2
  have h3 : Keeps m s0 x2 := by
    unfold x2
    apply Keeps.ite
    · exact setNetBal_keeps (hm.of rfl) (by assumption)
    · assumption
  clear_value x2
  exact setBal_keeps (hm.of rfl) (by assumption)

theorem rebuildNet_keeps {m} {s0 : State} {p1} {p2 : State} (hm : Sub 32769 m) (k : Keeps m s0 p2) :
    Keeps m s0 (rebuildNet p1 p2) := by
  unfold rebuildNet
  apply Keeps.ite
  · extract_lets +onlyGivenNames x1
    have h2 : Keeps m s0 x1.2 := draw_keeps (hm.of rfl) (by assumption)
    clear_value x1
    exact setNet_keeps (hm.of rfl) (by assumption)
  · assumption

theorem damageImage_keeps {m} {s0 : State} {p1} {p2 : State} (hm : Sub 65536 m) (k : Keeps m s0 p2) :
    Keeps m s0 (damageImage p1 p2) := by
  unfold damageImage
  exact Keeps.rest 65536 (hm.of rfl) (by assumption) rfl

theorem loseShadow_keeps {m} {s0 : State} {p1 : State} (hm : Sub 80039 m) (k : Keeps m s0 p1) :
    Keeps m s0 (loseShadow p1) := by
  unfold loseShadow
  split
  · rename_i y1 y2 y3 y4 y5
    exact abortFrom_keeps (hm.of rfl) (by assumption)
  · rename_i y6 y7
    with_reducible apply settleAhead_keeps (hm.of rfl)
    · assumption
    · intro a8 a10 a12 a14 h17
      assumption

theorem loseStaging_keeps {m} {s0 : State} {p1 : State} (hm : Sub 4133 m) (k : Keeps m s0 p1) :
    Keeps m s0 (loseStaging p1) := by
  unfold loseStaging
  apply Keeps.ite
  · extract_lets +onlyGivenNames x1
    have h2 : Keeps m s0 x1.2 := draw_keeps (hm.of rfl) (by assumption)
    clear_value x1
    apply Keeps.ite
    · assumption
    · extract_lets +onlyGivenNames x3
      have h4 : Keeps m s0 x3 := by
        unfold x3
        with_reducible apply setDuty_keeps (hm.of rfl)
        exact mirrorSend_keeps (hm.of rfl) (by assumption)
      clear_value x3
      with_reducible apply setSync_keeps (hm.of rfl)
      with_reducible apply setLed_keeps (hm.of rfl)
      · assumption
      · exact ⟨fun h => by simp only [List.length_map]; exact h⟩
  · assumption

theorem poison_keeps {m} {s0 : State} {p1} {p2 : State} (hm : Sub 534663 m) (k : Keeps m s0 p2) :
    Keeps m s0 (poison p1 p2) := by
  unfold poison
  split
  · rename_i y1 y2
    exact taskFault_keeps (hm.of rfl) (by assumption)
  · rename_i y3
    assumption

theorem dramLost_keeps {m} {s0 : State} {p1 p2} {p3 : State} (hm : Sub 768167 m) (k : Keeps m s0 p3) :
    Keeps m s0 (dramLost p1 p2 p3) := by
  unfold dramLost
  split
  · rename_i y1 y2
    with_reducible apply poison_keeps (hm.of rfl)
    exact loseSamples_keeps (hm.of rfl) (by assumption)
  · rename_i y3 y4
    with_reducible apply poison_keeps (hm.of rfl)
    exact rebuildPage_keeps (hm.of rfl) (by assumption)
  · rename_i y5 y6
    exact loseHistory_keeps (hm.of rfl) (by assumption)
  · rename_i y7 y8
    exact loseBalance_keeps (hm.of rfl) (by assumption)
  · rename_i y9 y10
    with_reducible apply poison_keeps (hm.of rfl)
    exact rebuildNet_keeps (hm.of rfl) (by assumption)
  · rename_i y11 y12
    exact damageImage_keeps (hm.of rfl) (by assumption)
  · rename_i y13 y14
    exact loseShadow_keeps (hm.of rfl) (by assumption)
  · rename_i y15 y16
    exact loseStaging_keeps (hm.of rfl) (by assumption)
  · rename_i y17 y18
    exact setYrw_keeps (hm.of rfl) (by assumption)
  · rename_i y19 y20 y21 y22 y23 y24 y25 y26 y27 y28
    assumption

theorem dramError_keeps {m} {s0 : State} {p1 p2 p3 p4} {p5 : State} (hm : Sub 768423 m) (k : Keeps m s0 p5) :
    Keeps m s0 (dramError p1 p2 p3 p4 p5) := by
  unfold dramError
  extract_lets +onlyGivenNames x1
  clear_value x1
  extract_lets +onlyGivenNames x2
  clear_value x2
  extract_lets +onlyGivenNames x3
  clear_value x3
  extract_lets +onlyGivenNames x4
  have h5 : Keeps m s0 x4 := by
    unfold x4
    exact Keeps.rest 256 (hm.of rfl) (by assumption) rfl
  clear_value x4
  extract_lets +onlyGivenNames x6
  have h7 : Keeps m s0 x6 := raiseEvent_keeps (hm.of rfl) (by assumption)
  clear_value x6
  extract_lets +onlyGivenNames x8
  have h9 : Keeps m s0 x8 := by
    unfold x8
    apply Keeps.ite
    · exact reportWith_keeps (hm.of rfl) (by assumption)
    · exact reportWith_keeps (hm.of rfl) (by assumption)
  clear_value x8
  extract_lets +onlyGivenNames x10
  have h11 : Keeps m s0 x10 := by
    unfold x10
    apply Keeps.ite
    · assumption
    · exact noteError_keeps (hm.of rfl) (by assumption)
  clear_value x10
  extract_lets +onlyGivenNames x12
  have h13 : Keeps m s0 x12 := by
    unfold x12
    apply Keeps.ite
    · exact dramLost_keeps (hm.of rfl) (by assumption)
    · assumption
  clear_value x12
  apply Keeps.ite
  · exact retirePage_keeps (hm.of rfl) (by assumption)
  · assumption

theorem execDramEccError_keeps {m} {s0 : State} {p1 p2 p3} {p4 : State} (hm : Sub 768423 m) (k : Keeps m s0 p4) :
    KeepsR m s0 (execDramEccError p1 p2 p3 p4) := by
  unfold execDramEccError
  apply KeepsR.next
  apply Keeps.ite
  · assumption
  · split
    · rename_i y1 y2 y3 y4
      have h5 : Keeps m s0 y3 := by
        refine KeepsP.get ?_ y4
        exact takeInjection_keeps (hm.of rfl) (by assumption)
      exact dramError_keeps (hm.of rfl) (by assumption)
    · rename_i y6 y7 y8
      have h9 : Keeps m s0 y7 := by
        refine KeepsP.get ?_ y8
        exact takeInjection_keeps (hm.of rfl) (by assumption)
      exact dramError_keeps (hm.of rfl) (by assumption)

theorem damageAccount_keeps {m} {s0 : State} {p1 p2} {p3 : State} (hm : Sub 10279 m) (k : Keeps m s0 p3) :
    Keeps m s0 (damageAccount p1 p2 p3) := by
  unfold damageAccount
  apply Keeps.ite
  · assumption
  · extract_lets +onlyGivenNames x1
    have h2 : Keeps m s0 x1 := by
      unfold x1
      with_reducible apply setLed_keeps (hm.of rfl)
      · assumption
      · exact ⟨id⟩
    clear_value x1
    with_reducible apply raiseEvent_keeps (hm.of rfl)
    exact raiseWith_keeps (hm.of rfl) (by assumption)

theorem loseJournal_keeps {m} {s0 : State} {p1} {p2 : State} (hm : Sub 32 m) (k : Keeps m s0 p2) :
    Keeps m s0 (loseJournal p1 p2) := by
  unfold loseJournal
  with_reducible apply setLed_keeps (hm.of rfl)
  · assumption
  · exact ⟨id⟩

theorem loseLocal_keeps {m} {s0 : State} {p1} {p2 : State} (hm : Sub 32 m) (k : Keeps m s0 p2) :
    Keeps m s0 (loseLocal p1 p2) := by
  unfold loseLocal
  extract_lets +onlyGivenNames x1
  clear_value x1
  with_reducible apply setLed_keeps (hm.of rfl)
  · assumption
  · exact ⟨id⟩

theorem loseConfig_keeps {m} {s0 : State} {p1} {p2 : State} (hm : Sub 8232 m) (k : Keeps m s0 p2) :
    Keeps m s0 (loseConfig p1 p2) := by
  unfold loseConfig
  extract_lets +onlyGivenNames x1
  clear_value x1
  apply Keeps.ite
  · with_reducible apply setLed_keeps (hm.of rfl)
    · assumption
    · exact ⟨id⟩
  · apply Keeps.ite
    · with_reducible apply setLed_keeps (hm.of rfl)
      · assumption
      · exact ⟨id⟩
    · apply Keeps.ite
      · exact Keeps.rest 8 (hm.of rfl) (by assumption) rfl
      · apply Keeps.ite
        · exact Keeps.rest 8 (hm.of rfl) (by assumption) rfl
        · apply Keeps.ite
          · exact Keeps.rest 8 (hm.of rfl) (by assumption) rfl
          · apply Keeps.ite
            · exact Keeps.rest 8192 (hm.of rfl) (by assumption) rfl
            · apply Keeps.ite
              · exact loseLocal_keeps (hm.of rfl) (by assumption)
              · assumption

theorem lstoreError_keeps {m} {s0 : State} {p1 p2 p3} {p4 : State} (hm : Sub 10543 m) (k : Keeps m s0 p4) :
    Keeps m s0 (lstoreError p1 p2 p3 p4) := by
  unfold lstoreError
  extract_lets +onlyGivenNames x1
  clear_value x1
  extract_lets +onlyGivenNames x2
  clear_value x2
  extract_lets +onlyGivenNames x3
  have h4 : Keeps m s0 x3 := by
    unfold x3
    exact Keeps.rest 256 (hm.of rfl) (by assumption) rfl
  clear_value x3
  extract_lets +onlyGivenNames x5
  have h6 : Keeps m s0 x5 := raiseEvent_keeps (hm.of rfl) (by assumption)
  clear_value x5
  apply Keeps.ite
  · exact reportWith_keeps (hm.of rfl) (by assumption)
  · apply Keeps.ite
    · exact damageAccount_keeps (hm.of rfl) (by assumption)
    · apply Keeps.ite
      · exact loseJournal_keeps (hm.of rfl) (by assumption)
      · apply Keeps.ite
        · exact loseConfig_keeps (hm.of rfl) (by assumption)
        · assumption

theorem execLstoreReadError_keeps {m} {s0 : State} {p1 p2} {p3 : State} (hm : Sub 10543 m) (k : Keeps m s0 p3) :
    KeepsR m s0 (execLstoreReadError p1 p2 p3) := by
  unfold execLstoreReadError
  apply KeepsR.next
  apply Keeps.ite
  · assumption
  · split
    · rename_i y1 y2 y3 y4
      have h5 : Keeps m s0 y3 := by
        refine KeepsP.get ?_ y4
        exact takeInjection_keeps (hm.of rfl) (by assumption)
      exact lstoreError_keeps (hm.of rfl) (by assumption)
    · rename_i y6 y7 y8
      have h9 : Keeps m s0 y7 := by
        refine KeepsP.get ?_ y8
        exact takeInjection_keeps (hm.of rfl) (by assumption)
      exact lstoreError_keeps (hm.of rfl) (by assumption)

end Sys2Proof.Machine
end

