-- ==== Sys2Proof/Laws/Keeps/Kernels.lean ====
section
/-!
SUPPORT. What the operations of Machine/Kernels.lean keep.
-/

namespace Sys2Proof.Machine

theorem runKernel_keeps {m} {s0 : State} {p1 p2 p3} {p4 : State} (hm : Sub 784935 m) (k : Keeps m s0 p4) :
    Keeps m s0 (runKernel p1 p2 p3 p4) := by
  unfold runKernel
  split
  · rename_i y1
    exact runIngest_keeps (hm.of rfl) (by assumption)
  · rename_i y2
    apply Keeps.ite
    · exact sendSamples_keeps (hm.of rfl) (by assumption)
    · assumption
  · rename_i y3
    exact runRadio_keeps (hm.of rfl) (by assumption)
  · rename_i y4
    exact runLvMeter_keeps (hm.of rfl) (by assumption)
  · rename_i y5
    exact runPoll_keeps (hm.of rfl) (by assumption)
  · rename_i y6
    exact runRoutes_keeps (hm.of rfl) (by assumption)
  · rename_i y7
    exact runPhases_keeps (hm.of rfl) (by assumption)
  · rename_i y8
    exact runAccount_keeps (hm.of rfl) (by assumption)
  · rename_i y9
    exact runLocal_keeps (hm.of rfl) (by assumption)
  · rename_i y10
    exact runBalance_keeps (hm.of rfl) (by assumption)
  · rename_i y11
    exact runLocalise_keeps (hm.of rfl) (by assumption)
  · rename_i y12
    exact runMetChannel_keeps (hm.of rfl) (by assumption)
  · rename_i y13
    exact runHeadroom_keeps (hm.of rfl) (by assumption)
  · rename_i y14
    exact runAllot_keeps (hm.of rfl) (by assumption)
  · rename_i y15
    exact runCanSetpoint_keeps (hm.of rfl) (by assumption)
  · rename_i y16
    exact runGphyModem_keeps (hm.of rfl) (by assumption)
  · rename_i y17
    exact runV2gStack_keeps (hm.of rfl) (by assumption)
  · rename_i y18
    exact runTlsRecord_keeps (hm.of rfl) (by assumption)
  · rename_i y19
    exact runFwPush_keeps (hm.of rfl) (by assumption)
  · rename_i y20 y21 y22 y23 y24 y25 y26 y27 y28 y29 y30 y31 y32 y33 y34 y35 y36 y37 y38 y39
    assumption

theorem withFlorets_keeps {m} {s0 : State} {p1} {p2 : State} (hm : Sub 8 m) (k : Keeps m s0 p2) (h1 : ∀ v1, Keeps m s0 v1 → Keeps m s0 (p1 v1)) :
    Keeps m s0 (withFlorets p1 p2) := by
  unfold withFlorets
  apply Keeps.ite
  · extract_lets +onlyGivenNames x1
    clear_value x1
    extract_lets +onlyGivenNames x2
    have h3 : Keeps m s0 x2 := by
      unfold x2
      with_reducible apply h1
      exact setPwr_keeps (hm.of rfl) (by assumption)
    clear_value x2
    apply Keeps.ite
    · exact setPwr_keeps (hm.of rfl) (by assumption)
    · assumption
  · with_reducible apply h1
    assumption

theorem execInvocationDispatch_keeps {m} {s0 : State} {p1} {p2 : State} (hm : Sub 10383 m) (k : Keeps m s0 p2) :
    KeepsR m s0 (execInvocationDispatch p1 p2) := by
  unfold execInvocationDispatch
  apply KeepsR.next
  with_reducible apply withFlorets_keeps (hm.of rfl)
  · assumption
  · intro a1 a2
    exact dispatch_keeps (hm.of rfl) (by assumption)

theorem execSliceBoundary_keeps {m} {s0 : State} {p1 p2} {p3 : State} (hm : Sub 428 m) (k : Keeps m s0 p3) :
    KeepsR m s0 (execSliceBoundary p1 p2 p3) := by
  unfold execSliceBoundary
  apply KeepsR.next
  with_reducible apply withFlorets_keeps (hm.of rfl)
  · assumption
  · intro a1 a2
    with_reducible apply retireDrained_keeps (hm.of rfl)
    with_reducible apply rollLoad_keeps (hm.of rfl)
    exact sliceBoundary_keeps (hm.of rfl) (by assumption)

theorem execPageFetchComplete_keeps {m} {s0 : State} {p1} {p2 : State} (hm : Sub 136 m) (k : Keeps m s0 p2) :
    KeepsR m s0 (execPageFetchComplete p1 p2) := by
  unfold execPageFetchComplete
  apply KeepsR.next
  with_reducible apply withFlorets_keeps (hm.of rfl)
  · assumption
  · intro a1 a2
    exact pageArrived_keeps (hm.of rfl) (by assumption)

theorem execInvocationComplete_keeps {m} {s0 : State} {p1} {p2 : State} (hm : Sub 785343 m) (k : Keeps m s0 p2) :
    KeepsR m s0 (execInvocationComplete p1 p2) := by
  unfold execInvocationComplete
  apply KeepsR.next
  with_reducible apply withFlorets_keeps (hm.of rfl)
  · assumption
  · intro a1 a2
    with_reducible apply retireDrained_keeps (hm.of rfl)
    with_reducible apply rollLoad_keeps (hm.of rfl)
    with_reducible apply completeInvocation_keeps (hm.of rfl)
    · assumption
    · intro a3 a4 a5 a6 a7
      exact runKernel_keeps (hm.of rfl) (by assumption)

end Sys2Proof.Machine
end

