-- ==== Sys2Proof/Laws/Keeps/Tick.lean ====
section
/-!
SUPPORT. What the operations of Machine/Tick.lean keep.
-/

namespace Sys2Proof.Machine

theorem applyGen_keeps {m} {s0 : State} {p2} {p1 : State} (hm : Sub 1043191 m) (k : Keeps m s0 p1) :
    Keeps m s0 (applyGen p1 p2) := by
  unfold applyGen
  split
  · rename_i y1 y2 y3
    exact applyWorkload_keeps (hm.of rfl) (by assumption)
  · rename_i y4 y5 y6 y7
    exact applyParam_keeps (hm.of rfl) (by assumption)
  · rename_i y8 y9 y10
    exact applyCivil_keeps (hm.of rfl) (by assumption)
  · rename_i y11 y12 y13
    exact applyTariff_keeps (hm.of rfl) (by assumption)
  · rename_i y14 y15 y16
    exact applyCalib_keeps (hm.of rfl) (by assumption)
  · rename_i y17 y18 y19
    exact applyTxPlan_keeps (hm.of rfl) (by assumption)
  · rename_i y20 y21 y22 y23
    exact applyPlcProfile_keeps (hm.of rfl) (by assumption)
  · rename_i y24 y25 y26 y27
    exact applyRfNet_keeps (hm.of rfl) (by assumption)
  · rename_i y28 y29 y30
    exact applyBalModel_keeps (hm.of rfl) (by assumption)
  · rename_i y31 y32 y33 y34
    exact applyRules_keeps (hm.of rfl) (by assumption)
  · rename_i y35 y36 y37 y38
    exact applyChgPoint_keeps (hm.of rfl) (by assumption)
  · rename_i y39 y40 y41 y42
    exact applyChgPath_keeps (hm.of rfl) (by assumption)
  · rename_i y43 y44 y45 y46
    exact applyChgBus_keeps (hm.of rfl) (by assumption)
  · rename_i y47 y48 y49 y50
    exact applyLsConfig_keeps (hm.of rfl) (by assumption)
  · rename_i y51 y52 y53 y54
    exact applySafInput_keeps (hm.of rfl) (by assumption)

theorem discardCause_keeps {m} {s0 : State} {p1} {p2 : State} (hm : Sub 1 m) (k : Keeps m s0 p2) :
    Keeps m s0 (discardCause p1 p2).2 := by
  unfold discardCause
  extract_lets +onlyGivenNames x1
  clear_value x1
  split
  · rename_i y2
    assumption
  · rename_i y3
    split
    · rename_i y4
      assumption
    · rename_i y5
      exact draw_keeps (hm.of rfl) (by assumption)

theorem discardGen_keeps {m} {s0 : State} {p1 p3} {p2 : State} (hm : Sub 4 m) (k : Keeps m s0 p2) :
    Keeps m s0 (discardGen p1 p2 p3) := by
  unfold discardGen
  extract_lets +onlyGivenNames x1
  have h2 : Keeps m s0 x1 := raiseEvent_keeps (hm.of rfl) (by assumption)
  clear_value x1
  apply Keeps.foldl
  · intro a3 a5 h8
    exact complete_keeps (hm.of rfl) (by assumption)
  · assumption

theorem activateGroup_keeps {m} {s0 : State} {p1} {p2 : State} (hm : Sub 1043191 m) (k : Keeps m s0 p2) :
    Keeps m s0 (activateGroup p1 p2) := by
  unfold activateGroup
  extract_lets +onlyGivenNames x1
  clear_value x1
  extract_lets +onlyGivenNames x2
  have h3 : Keeps m s0 x2 := by
    unfold x2
    exact Keeps.rest 64 (hm.of rfl) (by assumption) rfl
  clear_value x2
  apply Keeps.ite
  · apply Keeps.foldl
    · intro a4 a5 a6
      with_reducible apply applyGen_keeps (hm.of rfl)
      exact keepTable_keeps (hm.of rfl) (by assumption)
    · assumption
  · extract_lets +onlyGivenNames x7
    have h8 : Keeps m s0 x7.2 := discardCause_keeps (hm.of rfl) (by assumption)
    clear_value x7
    apply Keeps.foldl
    · intro a9 a10 a11
      exact discardGen_keeps (hm.of rfl) (by assumption)
    · assumption

theorem activateDue_keeps {m} {s0 : State} {p1 p2} {p3 : State} (hm : Sub 1043191 m) (k : Keeps m s0 p3) :
    Keeps m s0 (activateDue p1 p2 p3) := by
  fun_induction activateDue
  · rename_i z1
    assumption
  · rename_i z2 z3 z4
    assumption
  · rename_i z5 z6 z7 z8 z9
    with_reducible apply z9
    exact activateGroup_keeps (hm.of rfl) (by assumption)

theorem activateTick_keeps {m} {s0 : State} {p1 : State} (hm : Sub 1043191 m) (k : Keeps m s0 p1) :
    Keeps m s0 (activateTick p1) := by
  unfold activateTick
  extract_lets +onlyGivenNames x1
  clear_value x1
  exact activateDue_keeps (hm.of rfl) (by assumption)

theorem activateRound_keeps {m} {s0 : State} {p1 : State} (hm : Sub 1043191 m) (k : Keeps m s0 p1) :
    Keeps m s0 (activateRound p1) := by
  unfold activateRound
  exact activateDue_keeps (hm.of rfl) (by assumption)

theorem setLanded_keeps {m} {s0 : State} {p1} {p2 : State} (hm : Sub 8243 m) (k : Keeps m s0 p2) :
    Keeps m s0 (setLanded p1 p2) := by
  unfold setLanded
  with_reducible apply evaluateTrust_keeps (hm.of rfl)
  apply Keeps.ite
  · exact setTrust_keeps (hm.of rfl) (by assumption)
  · assumption

theorem stepApplied_keeps {m} {s0 : State} {p1 p2 p3} {p4 : State} (hm : Sub 139827 m) (k : Keeps m s0 p4) :
    Keeps m s0 (stepApplied p1 p2 p3 p4) := by
  unfold stepApplied
  extract_lets +onlyGivenNames x1
  clear_value x1
  extract_lets +onlyGivenNames x2
  have h3 : Keeps m s0 x2 := setLanded_keeps (hm.of rfl) (by assumption)
  clear_value x2
  extract_lets +onlyGivenNames x4
  have h5 : Keeps m s0 x4 := journal_keeps (hm.of rfl) (by assumption)
  clear_value x4
  with_reducible apply demandStepped_keeps (hm.of rfl)
  with_reducible apply balanceStep_keeps (hm.of rfl)
  exact traceTime_keeps (hm.of rfl) (by assumption)

theorem slew_keeps {m} {s0 : State} {p1} {p2 : State} (hm : Sub 8243 m) (k : Keeps m s0 p2) :
    Keeps m s0 (slew p1 p2) := by
  unfold slew
  split
  · rename_i y1 y2
    assumption
  · rename_i y3 y4 y5
    apply Keeps.ite
    · exact setTime_keeps (hm.of rfl) (by assumption)
    · extract_lets +onlyGivenNames x6
      clear_value x6
      with_reducible apply evaluateTrust_keeps (hm.of rfl)
      exact setTime_keeps (hm.of rfl) (by assumption)

theorem advanceTime_keeps {m} {s0 : State} {p1} {p2 : State} (hm : Sub 141879 m) (k : Keeps m s0 p2) :
    Keeps m s0 (advanceTime p1 p2) := by
  unfold advanceTime
  extract_lets +onlyGivenNames x1
  have h2 : Keeps m s0 x1 := applyTimeConfig_keeps (hm.of rfl) (by assumption)
  clear_value x1
  extract_lets +onlyGivenNames x3
  clear_value x3
  extract_lets +onlyGivenNames x4
  clear_value x4
  extract_lets +onlyGivenNames x5
  clear_value x5
  extract_lets +onlyGivenNames x6
  have h7 : Keeps m s0 x6 := setTime_keeps (hm.of rfl) (by assumption)
  clear_value x6
  extract_lets +onlyGivenNames x8
  have h9 : Keeps m s0 x8 := by
    unfold x8
    with_reducible apply slew_keeps (hm.of rfl)
    apply Keeps.ite
    · exact stepApplied_keeps (hm.of rfl) (by assumption)
    · apply Keeps.ite
      · exact setLanded_keeps (hm.of rfl) (by assumption)
      · assumption
  clear_value x8
  exact setTime_keeps (hm.of rfl) (by assumption)

theorem settleBacklog_keeps {m} {s0 : State} {p1 : State} (hm : Sub 80039 m) (k : Keeps m s0 p1) :
    Keeps m s0 (settleBacklog p1) := by
  unfold settleBacklog
  split
  · rename_i y1 y2 y3
    apply Keeps.ite
    · exact backlogTimeout_keeps (hm.of rfl) (by assumption)
    · assumption
  · rename_i y4 y5
    apply Keeps.ite
    · with_reducible apply setLed_keeps (hm.of rfl)
      · exact raiseFault_keeps (hm.of rfl) (by assumption)
      · exact ⟨id⟩
    · assumption

theorem openLedger_keeps {m} {s0 : State} {p1 : State} (hm : Sub 131120 m) (k : Keeps m s0 p1) (room : p1.led.ticks.length < 2) :
    Keeps m s0 (openLedger p1) := by
  unfold openLedger
  extract_lets +onlyGivenNames x1 x2 x3 x4
  have h5 : Keeps m s0 x4 :=
    setLed_keeps (hm.of rfl) k ⟨fun _ => by simp only [List.length_append, List.length_cons, List.length_nil]; omega⟩
  clear_value x4
  exact noteLedgerLabel_keeps (hm.of rfl) (setTime_keeps (hm.of rfl) h5)

theorem openFieldOnly_keeps {m} {s0 : State} {p1 : State} (hm : Sub 32 m) (k : Keeps m s0 p1) :
    Keeps m s0 (openFieldOnly p1) := by
  unfold openFieldOnly
  extract_lets +onlyGivenNames x1
  clear_value x1
  with_reducible apply setLed_keeps (hm.of rfl)
  · assumption
  · exact ⟨id⟩

theorem closeRound_keeps {m} {s0 : State} {p1 : State} (hm : Sub 8225 m) (k : Keeps m s0 p1) :
    Keeps m s0 (closeRound p1) := by
  unfold closeRound
  extract_lets +onlyGivenNames x1
  have h2 : Keeps m s0 x1 := by
    unfold x1
    with_reducible apply setLed_keeps (hm.of rfl)
    · assumption
    · exact ⟨id⟩
  clear_value x1
  apply Keeps.ite
  · exact traceWrite_keeps (hm.of rfl) (by assumption)
  · assumption

theorem roundActions_keeps {m} {s0 : State} {p1} {p2 : State} (hm : Sub 1043447 m) (k : Keeps m s0 p2) :
    Keeps m s0 (roundActions p1 p2) := by
  unfold roundActions
  extract_lets +onlyGivenNames x1
  have h2 : Keeps m s0 x1 := activateRound_keeps (hm.of rfl) (by assumption)
  clear_value x1
  extract_lets +onlyGivenNames x3
  have h4 : Keeps m s0 x3 := setYrw_keeps (hm.of rfl) (by assumption)
  clear_value x3
  with_reducible apply releaseRound_keeps (hm.of rfl)
  with_reducible apply rollRound_keeps (hm.of rfl)
  with_reducible apply allocateRound_keeps (hm.of rfl)
  with_reducible apply restoreSpares_keeps (hm.of rfl)
  exact applySpares_keeps (hm.of rfl) (by assumption)

theorem takeReadings_keeps {m} {s0 : State} {p1} {p2 : State} (hm : Sub 8 m) (k : Keeps m s0 p2) :
    Keeps m s0 (takeReadings p1 p2) := by
  unfold takeReadings
  exact setPwr_keeps (hm.of rfl) (by assumption)

theorem beat_keeps {m} {s0 : State} {p1 : State} (hm : Sub 2 m) (k : Keeps m s0 p1) :
    Keeps m s0 (beat p1) := by
  unfold beat
  apply Keeps.ite
  · exact Keeps.upd 2 (hm.of rfl) (by assumption) (Nat.le_refl _) ⟨id, rfl, rfl, rfl⟩ ⟨Nat.le_refl _, id, id, id⟩ ⟨id⟩ rfl
  · assumption

theorem endTick_keeps {m} {s0 : State} {p1 : State} (hm : Sub 160 m) (k : Keeps m s0 p1) :
    Keeps m s0 (endTick p1) := by
  unfold endTick
  extract_lets +onlyGivenNames x1
  have h2 : Keeps m s0 x1 := by
    unfold x1
    with_reducible apply closeTickCycles_keeps (hm.of rfl)
    with_reducible apply countOverruns_keeps (hm.of rfl)
    exact setYrw_keeps (hm.of rfl) (by assumption)
  clear_value x1
  apply Keeps.ite
  · exact stagePages_keeps (hm.of rfl) (by assumption)
  · exact setYrw_keeps (hm.of rfl) (by assumption)

theorem boundaryActions_keeps {m} {s0 : State} {p1 : State} (hm : Sub 2096127 m) (k : Keeps m s0 p1) :
    Keeps m s0 (boundaryActions p1) := by
  unfold boundaryActions
  extract_lets +onlyGivenNames x1
  clear_value x1
  extract_lets +onlyGivenNames x2
  clear_value x2
  extract_lets +onlyGivenNames x3
  have h4 : Keeps m s0 x3 := by
    unfold x3
    exact Keeps.rest 786432 (hm.of rfl) (by assumption) rfl
  clear_value x3
  extract_lets +onlyGivenNames x5
  have h6 : Keeps m s0 x5 := by
    unfold x5
    with_reducible apply applyClear_keeps (hm.of rfl)
    exact endFault_keeps (hm.of rfl) (by assumption)
  clear_value x5
  extract_lets +onlyGivenNames x7
  have h8 : Keeps m s0 x7 := setDuty_keeps (hm.of rfl) (by assumption)
  clear_value x7
  extract_lets +onlyGivenNames x9
  have h10 : Keeps m s0 x9 := by
    unfold x9
    split
    · rename_i y11 y12 y13
      apply Keeps.ite
      · exact finishVigil_keeps (hm.of rfl) (by assumption)
      · assumption
    · rename_i y14 y15
      assumption
  clear_value x9
  extract_lets +onlyGivenNames x16
  have h17 : Keeps m s0 x16 := by
    unfold x16
    with_reducible apply vaultBoundary_keeps (hm.of rfl)
    with_reducible apply linksTick_keeps (hm.of rfl)
    exact leanChange_keeps (hm.of rfl) (by assumption)
  clear_value x16
  apply Keeps.foldl
  · intro a18 a20 h23
    exact settleReceived_keeps (hm.of rfl) (by assumption)
  · assumption

theorem dataTick_keeps {m} {s0 : State} {p1 p2} {p3 : State} (hm : Sub 256135 m) (k : Keeps m s0 p3) :
    Keeps m s0 (dataTick p1 p2 p3) := by
  unfold dataTick
  apply Keeps.ite
  · exact dropConnecting_keeps (hm.of rfl) (by assumption)
  · extract_lets +onlyGivenNames x1
    have h2 : Keeps m s0 x1 := by
      unfold x1
      with_reducible apply campaignsTick_keeps (hm.of rfl)
      with_reducible apply radioTick_keeps (hm.of rfl)
      with_reducible apply plcRound_keeps (hm.of rfl)
      with_reducible apply metersTick_keeps (hm.of rfl)
      exact stemTick_keeps (hm.of rfl) (by assumption)
    clear_value x1
    with_reducible apply releaseTick_keeps (hm.of rfl)
    with_reducible apply balanceTick_keeps (hm.of rfl)
    exact localCrossings_keeps (hm.of rfl) (by assumption)

theorem glfTick_keeps {m} {s0 : State} {p1 p2 p3} {p4 : State} (hm : Sub 813607 m) (k : Keeps m s0 p4) :
    Keeps m s0 (glfTick p1 p2 p3 p4) := by
  unfold glfTick
  extract_lets +onlyGivenNames x1
  have h2 : Keeps m s0 x1 := by
    unfold x1
    with_reducible apply frontEndTick_keeps (hm.of rfl)
    with_reducible apply ringsTick_keeps (hm.of rfl)
    exact meterTick_keeps (hm.of rfl) (by assumption)
  clear_value x1
  with_reducible apply evalOutputs_keeps (hm.of rfl)
  with_reducible apply chargeTick_keeps (hm.of rfl)
  with_reducible apply idTick_keeps (hm.of rfl)
  exact fieldTick_keeps (hm.of rfl) (by assumption)

theorem tariffTick_keeps {m} {s0 : State} {p1 : State} (hm : Sub 32 m) (k : Keeps m s0 p1) :
    Keeps m s0 (tariffTick p1) := by
  unfold tariffTick
  apply Keeps.ite
  · with_reducible apply recordTime_keeps (hm.of rfl)
    exact billingStep_keeps (hm.of rfl) (by assumption)
  · assumption

theorem ledgerTick_room {s : State} (h : ledgerTick s = true) : s.led.ticks.length < 2 := by
  unfold ledgerTick at h
  simp only [Bool.and_eq_true, decide_eq_true_eq] at h
  exact h.2

theorem openTickNow_keeps {m} {s0 : State} {p1} {p2 : State} (hm : Sub 1047543 m) (k : Keeps m s0 p2) :
    Keeps m s0 (openTickNow p1 p2) := by
  have run : ∀ v1 v2 v3 v4, Keeps m s0 v4 → Keeps m s0 (runKernel v1 v2 v3 v4) := fun _ _ _ _ h => runKernel_keeps (hm.of rfl) h
  unfold openTickNow
  extract_lets +onlyGivenNames x1
  have h2 : Keeps m s0 x1 := settleBacklog_keeps (hm.of rfl) k
  clear_value x1
  split
  · rename_i hl
    extract_lets +onlyGivenNames x3
    have h4 : Keeps m s0 x3 := openLedger_keeps (hm.of rfl) h2 (ledgerTick_room hl)
    clear_value x3
    extract_lets +onlyGivenNames x5
    have h6 : Keeps m s0 x5 := by
      unfold x5
      apply Keeps.ite
      · exact roundActions_keeps (hm.of rfl) h4
      · exact h4
    clear_value x5
    exact takeoverActions_keeps (hm.of rfl) (settleAhead_keeps (hm.of rfl) (tariffTick_keeps (hm.of rfl) (activateTick_keeps (hm.of rfl) h6)) run)
  · exact settleAhead_keeps (hm.of rfl) (tariffTick_keeps (hm.of rfl) (activateTick_keeps (hm.of rfl) (openFieldOnly_keeps (hm.of rfl) h2))) run

theorem tickStart_keeps {m} {s0 : State} {p1} {p2 : State} (hm : Sub 2096127 m) (k : Keeps m s0 p2) :
    Keeps m s0 (tickStart p1 p2) := by
  unfold tickStart
  extract_lets +onlyGivenNames x1
  have h2 : Keeps m s0 x1 := endTick_keeps (hm.of rfl) (by assumption)
  clear_value x1
  extract_lets +onlyGivenNames x3
  clear_value x3
  extract_lets +onlyGivenNames x4
  have h5 : Keeps m s0 x4 := by
    unfold x4
    with_reducible apply boundaryActions_keeps (hm.of rfl)
    with_reducible apply beat_keeps (hm.of rfl)
    with_reducible apply takeReadings_keeps (hm.of rfl)
    exact advanceTime_keeps (hm.of rfl) (by assumption)
  clear_value x4
  extract_lets +onlyGivenNames x6
  clear_value x6
  extract_lets +onlyGivenNames x7
  have h8 : Keeps m s0 x7 := by
    unfold x7
    with_reducible apply openTickNow_keeps (hm.of rfl)
    apply Keeps.ite
    · exact closeRound_keeps (hm.of rfl) (by assumption)
    · assumption
  clear_value x7
  extract_lets +onlyGivenNames x9
  clear_value x9
  extract_lets +onlyGivenNames x10
  have h11 : Keeps m s0 x10 := by
    unfold x10
    with_reducible apply glfTick_keeps (hm.of rfl)
    exact dataTick_keeps (hm.of rfl) (by assumption)
  clear_value x10
  extract_lets +onlyGivenNames x12
  have h13 : Keeps m s0 x12 := by
    unfold x12
    with_reducible apply thermalCheck_keeps (hm.of rfl)
    exact wiltAll_keeps (hm.of rfl) (by assumption)
  clear_value x12
  apply Keeps.ite
  · exact startComplete_keeps (hm.of rfl) (by assumption)
  · assumption

theorem execTickStart_keeps {m} {s0 : State} {p1} {p2 : State} (hm : Sub 2096127 m) (k : Keeps m s0 p2) :
    KeepsR m s0 (execTickStart p1 p2) := by
  unfold execTickStart
  apply KeepsR.next
  apply Keeps.ite
  · with_reducible apply streamUpkeep_keeps (hm.of rfl)
    exact tickStart_keeps (hm.of rfl) (by assumption)
  · assumption

theorem execTickCommit_keeps {m} {s0 : State} {p1 : State} (hm : Sub 2095807 m) (k : Keeps m s0 p1) :
    KeepsR m s0 (execTickCommit p1) := by
  unfold execTickCommit
  apply KeepsR.next
  apply Keeps.ite
  · extract_lets +onlyGivenNames x1
    have h2 : Keeps m s0 x1 := by
      unfold x1
      with_reducible apply startComplete_keeps (hm.of rfl)
      exact commitOldest_keeps (hm.of rfl) (by assumption)
    clear_value x1
    apply Keeps.ite
    · exact finishVigil_keeps (hm.of rfl) (by assumption)
    · assumption
  · assumption

theorem execUplinkFrame_keeps {m} {s0 : State} {p1 : State} (hm : Sub 512 m) (k : Keeps m s0 p1) :
    KeepsR m s0 (execUplinkFrame p1) := by
  unfold execUplinkFrame
  apply KeepsR.next
  apply Keeps.ite
  · exact uplinkMetrology_keeps (hm.of rfl) (by assumption)
  · assumption

theorem takeDownlink_keeps {m} {s0 : State} {p1 : State} (hm : Sub 804868 m) (k : Keeps m s0 p1) :
    Keeps m s0 (takeDownlink p1) := by
  unfold takeDownlink
  extract_lets +onlyGivenNames x1
  clear_value x1
  extract_lets +onlyGivenNames x2
  have h3 : Keeps m s0 x2 := by
    unfold x2
    exact Keeps.rest 262144 (hm.of rfl) (by assumption) rfl
  clear_value x2
  extract_lets +onlyGivenNames x4
  have h5 : Keeps m s0 x4 := by
    unfold x4
    apply Keeps.ite
    · apply Keeps.ite
      · exact staleTick_keeps (hm.of rfl) (by assumption)
      · exact freshTick_keeps (hm.of rfl) (by assumption)
    · assumption
  clear_value x4
  with_reducible apply endFault_keeps (hm.of rfl)
  exact latchDownlink_keeps (hm.of rfl) (by assumption)

theorem execDownlinkFrame_keeps {m} {s0 : State} {p1 : State} (hm : Sub 804868 m) (k : Keeps m s0 p1) :
    KeepsR m s0 (execDownlinkFrame p1) := by
  unfold execDownlinkFrame
  apply KeepsR.next
  apply Keeps.ite
  · assumption
  · extract_lets +onlyGivenNames x1
    have h2 : Keeps m s0 x1.2 := takeInjection_keeps (hm.of rfl) (by assumption)
    clear_value x1
    extract_lets +onlyGivenNames x3
    have h4 : Keeps m s0 x3.2 := takeInjection_keeps (hm.of rfl) (by assumption)
    clear_value x3
    split
    · rename_i y5 y6 y7
      exact takeDownlink_keeps (hm.of rfl) (by assumption)
    · rename_i y8 y9 y10 y11 y12
      exact takeDownlink_keeps (hm.of rfl) (by assumption)
    · rename_i y13 y14 y15 y16 y17 y18
      extract_lets +onlyGivenNames x19
      have h20 : Keeps m s0 x19 := by
        unfold x19
        assumption
      exact Keeps.rest 262144 (hm.of rfl) (by assumption) rfl

theorem execDownlinkDeadlineMiss_keeps {m} {s0 : State} {p1 : State} (hm : Sub 1047215 m) (k : Keeps m s0 p1) :
    KeepsR m s0 (execDownlinkDeadlineMiss p1) := by
  unfold execDownlinkDeadlineMiss
  apply KeepsR.next
  apply Keeps.ite
  · exact raiseAWith_keeps (hm.of rfl) (by assumption)
  · assumption

end Sys2Proof.Machine
end

