-- ==== Sys2Proof/Laws/Keeps/Dispatch.lean ====
section
/-!
SUPPORT. What the operations of Machine/Dispatch.lean keep.
-/

namespace Sys2Proof.Machine

theorem exec_keeps {m} {s0 : State} {p1} {p2 : State} (hm : Sub 2097151 m) (k : Keeps m s0 p2) :
    KeepsR m s0 (exec p1 p2) := by
  unfold exec
  split
  · rename_i y1 y2
    exact execSysIdentify_keeps (hm.of rfl) (by assumption)
  · rename_i y3 y4
    exact execSysSessionOpen_keeps (hm.of rfl) (by assumption)
  · rename_i y5 y6
    exact execSysSessionAuth_keeps (hm.of rfl) (by assumption)
  · rename_i y7 y8
    exact execSysSessionClose_keeps (hm.of rfl) (by assumption)
  · rename_i y9 y10
    exact execSysStreamConfig_keeps (hm.of rfl) (by assumption)
  · rename_i y11 y12
    exact execSysLifecycle_keeps (hm.of rfl) (by assumption)
  · rename_i y13 y14
    exact execSysPowerMode_keeps (hm.of rfl) (by assumption)
  · rename_i y15 y16
    exact execSysPowerStatus_keeps (hm.of rfl) (by assumption)
  · rename_i y17 y18
    exact execTimeStatus_keeps (hm.of rfl) (by assumption)
  · rename_i y19 y20
    exact execTimeConfig_keeps (hm.of rfl) (by assumption)
  · rename_i y21 y22
    exact execTimeStep_keeps (hm.of rfl) (by assumption)
  · rename_i y23 y24
    exact execTimeCivil_keeps (hm.of rfl) (by assumption)
  · rename_i y25 y26
    exact execTimeTicks_keeps (hm.of rfl) (by assumption)
  · rename_i y27 y28
    exact execYrwStatus_keeps (hm.of rfl) (by assumption)
  · rename_i y29 y30
    exact execYrwCatalogue_keeps (hm.of rfl) (by assumption)
  · rename_i y31 y32
    exact execYrwWorkloadArm_keeps (hm.of rfl) (by assumption)
  · rename_i y33 y34
    exact execYrwParamSet_keeps (hm.of rfl) (by assumption)
  · rename_i y35 y36
    exact execYrwSpares_keeps (hm.of rfl) (by assumption)
  · rename_i y37 y38
    exact execYrwUmbel_keeps (hm.of rfl) (by assumption)
  · rename_i y39 y40
    exact execYrwKernelRoll_keeps (hm.of rfl) (by assumption)
  · rename_i y41 y42
    exact execYrwLoad_keeps (hm.of rfl) (by assumption)
  · rename_i y43 y44
    exact execYrwWorkloadStats_keeps (hm.of rfl) (by assumption)
  · rename_i y45 y46
    exact execYrwWorkloadRead_keeps (hm.of rfl) (by assumption)
  · rename_i y47 y48
    exact execMemStatus_keeps (hm.of rfl) (by assumption)
  · rename_i y49 y50
    exact execMemArbRead_keeps (hm.of rfl) (by assumption)
  · rename_i y51 y52
    exact execMemArbSet_keeps (hm.of rfl) (by assumption)
  · rename_i y53 y54
    exact execMemArbStats_keeps (hm.of rfl) (by assumption)
  · rename_i y55 y56
    exact execMetStatus_keeps (hm.of rfl) (by assumption)
  · rename_i y57 y58
    exact execMetSetRead_keeps (hm.of rfl) (by assumption)
  · rename_i y59 y60
    exact execMetChannelRead_keeps (hm.of rfl) (by assumption)
  · rename_i y61 y62
    exact execMetRingStatus_keeps (hm.of rfl) (by assumption)
  · rename_i y63 y64
    exact execMetCalArm_keeps (hm.of rfl) (by assumption)
  · rename_i y65 y66
    exact execMetCalCapture_keeps (hm.of rfl) (by assumption)
  · rename_i y67 y68
    exact execMetDemandSet_keeps (hm.of rfl) (by assumption)
  · rename_i y69 y70
    exact execMetDemandReset_keeps (hm.of rfl) (by assumption)
  · rename_i y71 y72
    exact execMetAuditRead_keeps (hm.of rfl) (by assumption)
  · rename_i y73 y74
    exact execLedStatus_keeps (hm.of rfl) (by assumption)
  · rename_i y75 y76
    exact execLedAccountRead_keeps (hm.of rfl) (by assumption)
  · rename_i y77 y78
    exact execLedAccountSet_keeps (hm.of rfl) (by assumption)
  · rename_i y79 y80
    exact execLedTokenSubmit_keeps (hm.of rfl) (by assumption)
  · rename_i y81 y82
    exact execLedAdjust_keeps (hm.of rfl) (by assumption)
  · rename_i y83 y84
    exact execLedSupply_keeps (hm.of rfl) (by assumption)
  · rename_i y85 y86
    exact execLedAccountRestore_keeps (hm.of rfl) (by assumption)
  · rename_i y87 y88
    exact execLedTariffArm_keeps (hm.of rfl) (by assumption)
  · rename_i y89 y90
    exact execLedLocalRead_keeps (hm.of rfl) (by assumption)
  · rename_i y91 y92
    exact execLedJournalRead_keeps (hm.of rfl) (by assumption)
  · rename_i y93 y94
    exact execBalStatus_keeps (hm.of rfl) (by assumption)
  · rename_i y95 y96
    exact execBalModelArm_keeps (hm.of rfl) (by assumption)
  · rename_i y97 y98
    exact execBalRulesSet_keeps (hm.of rfl) (by assumption)
  · rename_i y99 y100
    exact execBalAttribute_keeps (hm.of rfl) (by assumption)
  · rename_i y101 y102
    exact execBalNetworkRead_keeps (hm.of rfl) (by assumption)
  · rename_i y103 y104
    exact execBalHistoryRead_keeps (hm.of rfl) (by assumption)
  · rename_i y105 y106
    exact execBalSuspicionRead_keeps (hm.of rfl) (by assumption)
  · rename_i y107 y108
    exact execBalSuspicionClose_keeps (hm.of rfl) (by assumption)
  · rename_i y109 y110
    exact execStemStatus_keeps (hm.of rfl) (by assumption)
  · rename_i y111 y112
    exact execStemBridgeSet_keeps (hm.of rfl) (by assumption)
  · rename_i y113 y114
    exact execStemTxSet_keeps (hm.of rfl) (by assumption)
  · rename_i y115 y116
    exact execStemBridgeRead_keeps (hm.of rfl) (by assumption)
  · rename_i y117 y118
    exact execPlcPollSet_keeps (hm.of rfl) (by assumption)
  · rename_i y119 y120
    exact execPlcNetworkRead_keeps (hm.of rfl) (by assumption)
  · rename_i y121 y122
    exact execPlcNodeRead_keeps (hm.of rfl) (by assumption)
  · rename_i y123 y124
    exact execRfNetworkSet_keeps (hm.of rfl) (by assumption)
  · rename_i y125 y126
    exact execRfNetworkRead_keeps (hm.of rfl) (by assumption)
  · rename_i y127 y128
    exact execRfConnRead_keeps (hm.of rfl) (by assumption)
  · rename_i y129 y130
    exact execMtrBind_keeps (hm.of rfl) (by assumption)
  · rename_i y131 y132
    exact execMtrRead_keeps (hm.of rfl) (by assumption)
  · rename_i y133 y134
    exact execMtrRequest_keeps (hm.of rfl) (by assumption)
  · rename_i y135 y136
    exact execMtrFwStage_keeps (hm.of rfl) (by assumption)
  · rename_i y137 y138
    exact execMtrFwCampaign_keeps (hm.of rfl) (by assumption)
  · rename_i y139 y140
    exact execMtrFwStatus_keeps (hm.of rfl) (by assumption)
  · rename_i y141 y142
    exact execChgStatus_keeps (hm.of rfl) (by assumption)
  · rename_i y143 y144
    exact execChgPointSet_keeps (hm.of rfl) (by assumption)
  · rename_i y145 y146
    exact execChgPathSet_keeps (hm.of rfl) (by assumption)
  · rename_i y147 y148
    exact execChgBusSet_keeps (hm.of rfl) (by assumption)
  · rename_i y149 y150
    exact execChgIdSet_keeps (hm.of rfl) (by assumption)
  · rename_i y151 y152
    exact execChgAuthorise_keeps (hm.of rfl) (by assumption)
  · rename_i y153 y154
    exact execChgStop_keeps (hm.of rfl) (by assumption)
  · rename_i y155 y156
    exact execChgPointRead_keeps (hm.of rfl) (by assumption)
  · rename_i y157 y158
    exact execFioLsConfig_keeps (hm.of rfl) (by assumption)
  · rename_i y159 y160
    exact execFioLsSet_keeps (hm.of rfl) (by assumption)
  · rename_i y161 y162
    exact execFioLsRead_keeps (hm.of rfl) (by assumption)
  · rename_i y163 y164
    exact execFioPanelSet_keeps (hm.of rfl) (by assumption)
  · rename_i y165 y166
    exact execFioPanelDraw_keeps (hm.of rfl) (by assumption)
  · rename_i y167 y168
    exact execFioPanelRead_keeps (hm.of rfl) (by assumption)
  · rename_i y169 y170
    exact execSafStatus_keeps (hm.of rfl) (by assumption)
  · rename_i y171 y172
    exact execSafInputSet_keeps (hm.of rfl) (by assumption)
  · rename_i y173 y174
    exact execSafOutputSet_keeps (hm.of rfl) (by assumption)
  · rename_i y175 y176
    exact execVltStatus_keeps (hm.of rfl) (by assumption)
  · rename_i y177 y178
    exact execVltSlotWrite_keeps (hm.of rfl) (by assumption)
  · rename_i y179 y180
    exact execVltSlotRead_keeps (hm.of rfl) (by assumption)
  · rename_i y181 y182
    exact execVltSlotDestroy_keeps (hm.of rfl) (by assumption)
  · rename_i y183 y184
    exact execVltCertSet_keeps (hm.of rfl) (by assumption)
  · rename_i y185 y186
    exact execVltAttest_keeps (hm.of rfl) (by assumption)
  · rename_i y187 y188
    exact execVltEngine_keeps (hm.of rfl) (by assumption)
  · rename_i y189 y190
    exact execFltStatus_keeps (hm.of rfl) (by assumption)
  · rename_i y191 y192
    exact execFltRead_keeps (hm.of rfl) (by assumption)
  · rename_i y193 y194
    exact execFltClear_keeps (hm.of rfl) (by assumption)
  · rename_i y195 y196
    exact execFltSafe_keeps (hm.of rfl) (by assumption)
  · rename_i y197 y198
    exact execFltInject_keeps (hm.of rfl) (by assumption)
  · rename_i y199 y200
    exact execFltTamper_keeps (hm.of rfl) (by assumption)
  · rename_i y201 y202
    exact execDutyStatus_keeps (hm.of rfl) (by assumption)
  · rename_i y203 y204
    exact execDutyYield_keeps (hm.of rfl) (by assumption)
  · rename_i y205 y206
    exact execDutyTakeover_keeps (hm.of rfl) (by assumption)
  · rename_i y207 y208
    exact execDutyResync_keeps (hm.of rfl) (by assumption)
  · rename_i y209 y210
    exact execLnkStatus_keeps (hm.of rfl) (by assumption)
  · rename_i y211 y212
    exact execLnkGrouping_keeps (hm.of rfl) (by assumption)
  · rename_i y213 y214
    exact execLnkPortSet_keeps (hm.of rfl) (by assumption)
  · rename_i y215 y216
    exact execLnkAddrSet_keeps (hm.of rfl) (by assumption)
  · rename_i y217 y218
    exact execLnkMacsecSet_keeps (hm.of rfl) (by assumption)
  · rename_i y219 y220
    exact execLnkPortRead_keeps (hm.of rfl) (by assumption)
  · rename_i y221 y222
    exact execSvcStatus_keeps (hm.of rfl) (by assumption)
  · rename_i y223 y224
    exact execSvcStage_keeps (hm.of rfl) (by assumption)
  · rename_i y225 y226
    exact execSvcUpdate_keeps (hm.of rfl) (by assumption)
  · rename_i y227 y228
    exact execSvcBank_keeps (hm.of rfl) (by assumption)
  · rename_i y229 y230
    exact execSvcTraceConfig_keeps (hm.of rfl) (by assumption)
  · rename_i y231 y232
    exact execSvcTraceExport_keeps (hm.of rfl) (by assumption)
  · rename_i y233 y234
    exact execSvcTraceMark_keeps (hm.of rfl) (by assumption)
  · rename_i y235
    exact execJornyHelp_keeps (hm.of rfl) (by assumption)
  · rename_i y236
    exact execJornyId_keeps (hm.of rfl) (by assumption)
  · rename_i y237
    exact execJornyStatus_keeps (hm.of rfl) (by assumption)
  · rename_i y238 y239
    exact execJornyFaults_keeps (hm.of rfl) (by assumption)
  · rename_i y240 y241 y242
    exact execJornyAuth_keeps (hm.of rfl) (by assumption)
  · rename_i y243 y244
    exact execJornySig_keeps (hm.of rfl) (by assumption)
  · rename_i y245
    exact execJornyLogout_keeps (hm.of rfl) (by assumption)
  · rename_i y246 y247
    exact execJornyTrace_keeps (hm.of rfl) (by assumption)
  · rename_i y248 y249
    exact execJornyTail_keeps (hm.of rfl) (by assumption)
  · rename_i y250
    exact execJornyBank_keeps (hm.of rfl) (by assumption)
  · rename_i y251
    exact execJornyBankCommit_keeps (hm.of rfl) (by assumption)
  · rename_i y252 y253
    exact execJornyBankUse_keeps (hm.of rfl) (by assumption)
  · rename_i y254 y255 y256
    exact execJornyLoad_keeps (hm.of rfl) (by assumption)
  · rename_i y257 y258 y259 y260
    exact execJornyLoadBlock_keeps (hm.of rfl) (by assumption)
  · rename_i y261
    exact execJornyLoadTimeout_keeps (hm.of rfl) (by assumption)
  · rename_i y262
    exact execJornyRestart_keeps (hm.of rfl) (by assumption)
  · rename_i y263
    exact execJornyRoleTimeout_keeps (hm.of rfl) (by assumption)
  · rename_i y264
    exact execJornyBreak_keeps (hm.of rfl) (by assumption)
  · rename_i y265 y266 y267 y268
    exact execMboxRequestWrite_keeps (hm.of rfl) (by assumption)
  · rename_i y269 y270
    exact execMboxRing_keeps (hm.of rfl) (by assumption)
  · rename_i y271 y272 y273
    exact execMboxDoneClear_keeps (hm.of rfl) (by assumption)
  · rename_i y274 y275 y276
    exact execIntStatusClear_keeps (hm.of rfl) (by assumption)
  · rename_i y277 y278
    exact execHostErrInfoRead_keeps (hm.of rfl) (by assumption)
  · rename_i y279 y280
    exact execGstatFrontierRead_keeps (hm.of rfl) (by assumption)
  · rename_i y281 y282 y283
    exact execStrmTailWrite_keeps (hm.of rfl) (by assumption)
  · rename_i y284 y285 y286
    exact execStrmDataAccess_keeps (hm.of rfl) (by assumption)
  · rename_i y287 y288 y289 y290 y291 y292
    exact execStreamFrameAccess_keeps (hm.of rfl) (by assumption)
  · rename_i y293 y294 y295
    exact execReservedBarAccess_keeps (hm.of rfl) (by assumption)
  · rename_i y296 y297 y298
    exact execRegisterWrite_keeps (hm.of rfl) (by assumption)
  · rename_i y299 y300
    exact execPcieReset_keeps (hm.of rfl) (by assumption)
  · rename_i y301 y302
    exact execIntHoldoffExpiry_keeps (hm.of rfl) (by assumption)
  · rename_i y303 y304
    exact execSessionIdleTimeout_keeps (hm.of rfl) (by assumption)
  · rename_i y305 y306
    exact execSessionPendingTimeout_keeps (hm.of rfl) (by assumption)
  · rename_i y307 y308
    exact execPrincipalLockoutExpiry_keeps (hm.of rfl) (by assumption)
  · rename_i y309 y310 y311
    exact execUdpRequestRx_keeps (hm.of rfl) (by assumption)
  · rename_i y312 y313
    exact execUdpEventAckRx_keeps (hm.of rfl) (by assumption)
  · rename_i y314 y315 y316
    exact execUdpEventResend_keeps (hm.of rfl) (by assumption)
  · rename_i y317 y318
    exact execStreamPageAbandon_keeps (hm.of rfl) (by assumption)
  · rename_i y319 y320
    exact execStreamPageStall_keeps (hm.of rfl) (by assumption)
  · rename_i y321 y322
    exact execStreamPushStall_keeps (hm.of rfl) (by assumption)
  · rename_i y323 y324
    exact execStreamReceiveTimeout_keeps (hm.of rfl) (by assumption)
  · rename_i y325
    exact execEventPlacement_keeps (hm.of rfl) (by assumption)
  · rename_i y326
    exact execFolsetLockstepMismatch_keeps (hm.of rfl) (by assumption)
  · rename_i y327
    exact execFolsetRestartComplete_keeps (hm.of rfl) (by assumption)
  · rename_i y328
    exact execModEnNFall_keeps (hm.of rfl) (by assumption)
  · rename_i y329
    exact execModEnNRise_keeps (hm.of rfl) (by assumption)
  · rename_i y330 y331
    exact execMainLost_keeps (hm.of rfl) (by assumption)
  · rename_i y332
    exact execMainPresent_keeps (hm.of rfl) (by assumption)
  · rename_i y333
    exact execMainQualified_keeps (hm.of rfl) (by assumption)
  · rename_i y334 y335
    exact execBattLost_keeps (hm.of rfl) (by assumption)
  · rename_i y336
    exact execBattPresent_keeps (hm.of rfl) (by assumption)
  · rename_i y337
    exact execSwitchComplete_keeps (hm.of rfl) (by assumption)
  · rename_i y338
    exact execMainUnstableClear_keeps (hm.of rfl) (by assumption)
  · rename_i y339
    exact execBattPolicyDelay_keeps (hm.of rfl) (by assumption)
  · rename_i y340
    exact execLowBattery_keeps (hm.of rfl) (by assumption)
  · rename_i y341 y342 y343
    exact execPowerFailDetection_keeps (hm.of rfl) (by assumption)
  · rename_i y344 y345 y346
    exact execRailFailPowerDown_keeps (hm.of rfl) (by assumption)
  · rename_i y347
    exact execKeepEntryDelay_keeps (hm.of rfl) (by assumption)
  · rename_i y348
    exact execWakeTime_keeps (hm.of rfl) (by assumption)
  · rename_i y349
    exact execKeepReserveExhausted_keeps (hm.of rfl) (by assumption)
  · rename_i y350 y351
    exact execColdStart_keeps (hm.of rfl) (by assumption)
  · rename_i y352 y353
    exact execRailStartTimeout_keeps (hm.of rfl) (by assumption)
  · rename_i y354
    exact execVigilRailRetry_keeps (hm.of rfl) (by assumption)
  · rename_i y355
    exact execMoistureHoldEnd_keeps (hm.of rfl) (by assumption)
  · rename_i y356 y357
    exact execThermalCancel_keeps (hm.of rfl) (by assumption)
  · rename_i y358 y359 y360
    exact execPtpSyncRx_keeps (hm.of rfl) (by assumption)
  · rename_i y361 y362
    exact execPtpAnnounceRx_keeps (hm.of rfl) (by assumption)
  · rename_i y363 y364
    exact execAnnounceTimeout_keeps (hm.of rfl) (by assumption)
  · rename_i y365 y366
    exact execPpsEdge_keeps (hm.of rfl) (by assumption)
  · rename_i y367
    exact execPpsLoss_keeps (hm.of rfl) (by assumption)
  · rename_i y368
    exact execSourceDisagreeTimeout_keeps (hm.of rfl) (by assumption)
  · rename_i y369 y370
    exact execPendingStepRecompute_keeps (hm.of rfl) (by assumption)
  · rename_i y371
    exact execHoldoverExpiry_keeps (hm.of rfl) (by assumption)
  · rename_i y372 y373
    exact execTickStart_keeps (hm.of rfl) (by assumption)
  · rename_i y374
    exact execBacklogTimeout_keeps (hm.of rfl) (by assumption)
  · rename_i y375
    exact execUplinkFrame_keeps (hm.of rfl) (by assumption)
  · rename_i y376
    exact execDownlinkFrame_keeps (hm.of rfl) (by assumption)
  · rename_i y377
    exact execDownlinkDeadlineMiss_keeps (hm.of rfl) (by assumption)
  · rename_i y378 y379
    exact execTickClose_keeps (hm.of rfl) (by assumption)
  · rename_i y380
    exact execTickOverrun_keeps (hm.of rfl) (by assumption)
  · rename_i y381
    exact execTickCommit_keeps (hm.of rfl) (by assumption)
  · rename_i y382
    exact execFrontierWriteFailed_keeps (hm.of rfl) (by assumption)
  · rename_i y383 y384
    exact execAbortScrubComplete_keeps (hm.of rfl) (by assumption)
  · rename_i y385 y386
    exact execInvocationDispatch_keeps (hm.of rfl) (by assumption)
  · rename_i y387 y388 y389
    exact execSliceBoundary_keeps (hm.of rfl) (by assumption)
  · rename_i y390 y391
    exact execInvocationComplete_keeps (hm.of rfl) (by assumption)
  · rename_i y392 y393
    exact execPageFetchComplete_keeps (hm.of rfl) (by assumption)
  · rename_i y394 y395
    exact execWatchdogExpiry_keeps (hm.of rfl) (by assumption)
  · rename_i y396 y397
    exact execDeadlineMiss_keeps (hm.of rfl) (by assumption)
  · rename_i y398 y399 y400
    exact execFloretSramError_keeps (hm.of rfl) (by assumption)
  · rename_i y401 y402 y403 y404
    exact execUmbelHeartbeat_keeps (hm.of rfl) (by assumption)
  · rename_i y405 y406
    exact execHeartbeatLoss_keeps (hm.of rfl) (by assumption)
  · rename_i y407 y408
    exact execFenceDrainComplete_keeps (hm.of rfl) (by assumption)
  · rename_i y409 y410 y411
    exact execUmbelTestResult_keeps (hm.of rfl) (by assumption)
  · rename_i y412 y413 y414 y415
    exact execStaleEpochRequest_keeps (hm.of rfl) (by assumption)
  · rename_i y416 y417 y418 y419 y420
    exact execArbiterDecision_keeps (hm.of rfl) (by assumption)
  · rename_i y421 y422 y423
    exact execArbWait_keeps (hm.of rfl) (by assumption)
  · rename_i y424 y425 y426 y427
    exact execDramEccError_keeps (hm.of rfl) (by assumption)
  · rename_i y428
    exact execPatrolScrubPass_keeps (hm.of rfl) (by assumption)
  · rename_i y429 y430 y431
    exact execLstoreReadError_keeps (hm.of rfl) (by assumption)
  · rename_i y432 y433 y434
    exact execAccountRestoreStandby_keeps (hm.of rfl) (by assumption)
  · rename_i y435 y436 y437
    exact execDemandBoundary_keeps (hm.of rfl) (by assumption)
  · rename_i y438
    exact execCoilSettled_keeps (hm.of rfl) (by assumption)
  · rename_i y439 y440 y441 y442
    exact execRingRecordRx_keeps (hm.of rfl) (by assumption)
  · rename_i y443 y444 y445 y446
    exact execRingStatusRx_keeps (hm.of rfl) (by assumption)
  · rename_i y447 y448 y449
    exact execRingLossOfSignal_keeps (hm.of rfl) (by assumption)
  · rename_i y450 y451 y452
    exact execRingLinkRestored_keeps (hm.of rfl) (by assumption)
  · rename_i y453 y454 y455 y456
    exact execEnumerationComplete_keeps (hm.of rfl) (by assumption)
  · rename_i y457 y458 y459
    exact execRecordMissing_keeps (hm.of rfl) (by assumption)
  · rename_i y460 y461 y462
    exact execSatelliteUnreachable_keeps (hm.of rfl) (by assumption)
  · rename_i y463 y464 y465
    exact execTickMarkMissing_keeps (hm.of rfl) (by assumption)
  · rename_i y466 y467
    exact execSelftestStepStart_keeps (hm.of rfl) (by assumption)
  · rename_i y468 y469 y470
    exact execSelftestPhaseEnd_keeps (hm.of rfl) (by assumption)
  · rename_i y471 y472 y473
    exact execSelftestPrimaryResult_keeps (hm.of rfl) (by assumption)
  · rename_i y474 y475 y476
    exact execSelftestSpareResult_keeps (hm.of rfl) (by assumption)
  · rename_i y477
    exact execCaptureStart_keeps (hm.of rfl) (by assumption)
  · rename_i y478
    exact execCaptureComplete_keeps (hm.of rfl) (by assumption)
  · rename_i y479 y480 y481
    exact execSealChange_keeps (hm.of rfl) (by assumption)
  · rename_i y482 y483 y484
    exact execWindowSettleDeadline_keeps (hm.of rfl) (by assumption)
  · rename_i y485 y486
    exact execStemPlcSamples_keeps (hm.of rfl) (by assumption)
  · rename_i y487 y488
    exact execStemRfSamples_keeps (hm.of rfl) (by assumption)
  · rename_i y489 y490
    exact execStemLvSamples_keeps (hm.of rfl) (by assumption)
  · rename_i y491 y492 y493 y494 y495
    exact execStemJoin_keeps (hm.of rfl) (by assumption)
  · rename_i y496 y497
    exact execStemStaleRx_keeps (hm.of rfl) (by assumption)
  · rename_i y498 y499 y500
    exact execHoleRepairRetry_keeps (hm.of rfl) (by assumption)
  · rename_i y501 y502 y503
    exact execHoleWaitExpiry_keeps (hm.of rfl) (by assumption)
  · rename_i y504 y505
    exact execBridgeSilence_keeps (hm.of rfl) (by assumption)
  · rename_i y506 y507
    exact execBridgeLost_keeps (hm.of rfl) (by assumption)
  · rename_i y508 y509
    exact execRekeyDue_keeps (hm.of rfl) (by assumption)
  · rename_i y510 y511
    exact execKeepaliveDue_keeps (hm.of rfl) (by assumption)
  · rename_i y512 y513 y514 y515 y516 y517
    exact execPlcResponseRx_keeps (hm.of rfl) (by assumption)
  · rename_i y518 y519 y520 y521 y522 y523
    exact execPlcAlertRx_keeps (hm.of rfl) (by assumption)
  · rename_i y524 y525 y526 y527
    exact execPlcDiscoverReplyRx_keeps (hm.of rfl) (by assumption)
  · rename_i y528 y529 y530 y531
    exact execPlcTransactionFail_keeps (hm.of rfl) (by assumption)
  · rename_i y532 y533
    exact execDiscoverPeriod_keeps (hm.of rfl) (by assumption)
  · rename_i y534 y535
    exact execBeaconDue_keeps (hm.of rfl) (by assumption)
  · rename_i y536 y537 y538 y539 y540 y541
    exact execRfAdvertRx_keeps (hm.of rfl) (by assumption)
  · rename_i y542 y543 y544
    exact execRfConnectionEvent_keeps (hm.of rfl) (by assumption)
  · rename_i y545 y546 y547 y548
    exact execRfAnswerRx_keeps (hm.of rfl) (by assumption)
  · rename_i y549 y550 y551
    exact execRfEventMissed_keeps (hm.of rfl) (by assumption)
  · rename_i y552 y553 y554
    exact execRfSupervisionExpiry_keeps (hm.of rfl) (by assumption)
  · rename_i y555 y556 y557 y558
    exact execRfAlertRx_keeps (hm.of rfl) (by assumption)
  · rename_i y559 y560
    exact execSepalReading_keeps (hm.of rfl) (by assumption)
  · rename_i y561 y562
    exact execSepalCreditAck_keeps (hm.of rfl) (by assumption)
  · rename_i y563 y564
    exact execSepalEvent_keeps (hm.of rfl) (by assumption)
  · rename_i y565 y566
    exact execSepalToken_keeps (hm.of rfl) (by assumption)
  · rename_i y567 y568
    exact execSepalEmergencyReq_keeps (hm.of rfl) (by assumption)
  · rename_i y569 y570
    exact execSepalIdentity_keeps (hm.of rfl) (by assumption)
  · rename_i y571 y572
    exact execSepalKeyAck_keeps (hm.of rfl) (by assumption)
  · rename_i y573 y574
    exact execSepalFwStatus_keeps (hm.of rfl) (by assumption)
  · rename_i y575 y576
    exact execSepalSendGiveup_keeps (hm.of rfl) (by assumption)
  · rename_i y577 y578
    exact execFwCampaignActivate_keeps (hm.of rfl) (by assumption)
  · rename_i y579 y580 y581
    exact execPilotChange_keeps (hm.of rfl) (by assumption)
  · rename_i y582 y583 y584
    exact execPpChange_keeps (hm.of rfl) (by assumption)
  · rename_i y585 y586 y587 y588
    exact execChgLinkEstablished_keeps (hm.of rfl) (by assumption)
  · rename_i y589 y590
    exact execChgLinkLost_keeps (hm.of rfl) (by assumption)
  · rename_i y591 y592
    exact execLinkRetryEnd_keeps (hm.of rfl) (by assumption)
  · rename_i y593 y594 y595
    exact execV2gMessageRx_keeps (hm.of rfl) (by assumption)
  · rename_i y596 y597
    exact execAuthTimeout_keeps (hm.of rfl) (by assumption)
  · rename_i y598 y599
    exact execPreparationComplete_keeps (hm.of rfl) (by assumption)
  · rename_i y600 y601
    exact execStoppingComplete_keeps (hm.of rfl) (by assumption)
  · rename_i y602 y603
    exact execStoppingOpenTimeout_keeps (hm.of rfl) (by assumption)
  · rename_i y604 y605
    exact execPauseContactorTimeout_keeps (hm.of rfl) (by assumption)
  · rename_i y606 y607
    exact execPauseLimit_keeps (hm.of rfl) (by assumption)
  · rename_i y608 y609
    exact execCardPollDwell_keeps (hm.of rfl) (by assumption)
  · rename_i y610 y611 y612
    exact execCardDetected_keeps (hm.of rfl) (by assumption)
  · rename_i y613 y614 y615
    exact execCardResponse_keeps (hm.of rfl) (by assumption)
  · rename_i y616 y617
    exact execCardTimeout_keeps (hm.of rfl) (by assumption)
  · rename_i y618 y619 y620 y621
    exact execConverterFeedbackRx_keeps (hm.of rfl) (by assumption)
  · rename_i y622 y623 y624
    exact execConverterLost_keeps (hm.of rfl) (by assumption)
  · rename_i y625
    exact execStaleLimits_keeps (hm.of rfl) (by assumption)
  · rename_i y626 y627
    exact execMeteringStale_keeps (hm.of rfl) (by assumption)
  · rename_i y628 y629 y630
    exact execAcOvercurrent_keeps (hm.of rfl) (by assumption)
  · rename_i y631 y632 y633 y634
    exact execRcmTrip_keeps (hm.of rfl) (by assumption)
  · rename_i y635 y636 y637
    exact execRcmSelftestResult_keeps (hm.of rfl) (by assumption)
  · rename_i y638 y639 y640
    exact execInsulationValue_keeps (hm.of rfl) (by assumption)
  · rename_i y641 y642
    exact execContactorCloseTimeout_keeps (hm.of rfl) (by assumption)
  · rename_i y643 y644
    exact execContactorWelded_keeps (hm.of rfl) (by assumption)
  · rename_i y645 y646
    exact execTripPilotFEnd_keeps (hm.of rfl) (by assumption)
  · rename_i y647
    exact execOutputEvaluation_keeps (hm.of rfl) (by assumption)
  · rename_i y648 y649 y650
    exact execDirectPinEdge_keeps (hm.of rfl) (by assumption)
  · rename_i y651 y652 y653
    exact execField24vUndervoltage_keeps (hm.of rfl) (by assumption)
  · rename_i y654 y655 y656
    exact execField24vOvervoltage_keeps (hm.of rfl) (by assumption)
  · rename_i y657 y658 y659
    exact execField24vRestored_keeps (hm.of rfl) (by assumption)
  · rename_i y660 y661 y662
    exact execField24vTotalHigh_keeps (hm.of rfl) (by assumption)
  · rename_i y663 y664 y665
    exact execLsAccumulatorUpdate_keeps (hm.of rfl) (by assumption)
  · rename_i y666 y667
    exact execLsShortCircuit_keeps (hm.of rfl) (by assumption)
  · rename_i y668 y669
    exact execLsOverTemperature_keeps (hm.of rfl) (by assumption)
  · rename_i y670 y671
    exact execLsRampTimeout_keeps (hm.of rfl) (by assumption)
  · rename_i y672 y673
    exact execLsOpenLoad_keeps (hm.of rfl) (by assumption)
  · rename_i y674 y675
    exact execTestPulseGap_keeps (hm.of rfl) (by assumption)
  · rename_i y676 y677
    exact execTestPulseOverload_keeps (hm.of rfl) (by assumption)
  · rename_i y678 y679
    exact execTestPulseRetry_keeps (hm.of rfl) (by assumption)
  · rename_i y680 y681 y682 y683
    exact execSafetyInputSample_keeps (hm.of rfl) (by assumption)
  · rename_i y684 y685
    exact execSafetyInputRelease_keeps (hm.of rfl) (by assumption)
  · rename_i y686 y687
    exact execSafetyInputDiscrepancy_keeps (hm.of rfl) (by assumption)
  · rename_i y688 y689 y690
    exact execSoOffPulse_keeps (hm.of rfl) (by assumption)
  · rename_i y691 y692
    exact execSoFailedOpen_keeps (hm.of rfl) (by assumption)
  · rename_i y693 y694
    exact execSoExternallyFed_keeps (hm.of rfl) (by assumption)
  · rename_i y695 y696
    exact execSoFeedCleared_keeps (hm.of rfl) (by assumption)
  · rename_i y697 y698
    exact execPanelBusyReleased_keeps (hm.of rfl) (by assumption)
  · rename_i y699 y700
    exact execPanelBusyTimeout_keeps (hm.of rfl) (by assumption)
  · rename_i y701 y702
    exact execPanelRailFault_keeps (hm.of rfl) (by assumption)
  · rename_i y703 y704
    exact execPanelDrawComplete_keeps (hm.of rfl) (by assumption)
  · rename_i y705 y706
    exact execPanelOffDelay_keeps (hm.of rfl) (by assumption)
  · rename_i y707 y708 y709
    exact execTamperSample_keeps (hm.of rfl) (by assumption)
  · rename_i y710
    exact execFaultNPulseEnd_keeps (hm.of rfl) (by assumption)
  · rename_i y711
    exact execSafeLineTimeout_keeps (hm.of rfl) (by assumption)
  · rename_i y712
    exact execSafetyComparatorMismatch_keeps (hm.of rfl) (by assumption)
  · rename_i y713 y714
    exact execBatonPeerLine_keeps (hm.of rfl) (by assumption)
  · rename_i y715
    exact execBatonClaim_keeps (hm.of rfl) (by assumption)
  · rename_i y716
    exact execBatonClaimConfirm_keeps (hm.of rfl) (by assumption)
  · rename_i y717
    exact execBatonOwnLineStuck_keeps (hm.of rfl) (by assumption)
  · rename_i y718
    exact execRoleDecisionTimeout_keeps (hm.of rfl) (by assumption)
  · rename_i y719 y720
    exact execMirrorHello_keeps (hm.of rfl) (by assumption)
  · rename_i y721 y722
    exact execMirrorRecord_keeps (hm.of rfl) (by assumption)
  · rename_i y723 y724
    exact execMirrorClose_keeps (hm.of rfl) (by assumption)
  · rename_i y725 y726
    exact execMirrorAck_keeps (hm.of rfl) (by assumption)
  · rename_i y727 y728
    exact execMirrorCommit_keeps (hm.of rfl) (by assumption)
  · rename_i y729 y730
    exact execMirrorAbort_keeps (hm.of rfl) (by assumption)
  · rename_i y731 y732
    exact execMirrorConfig_keeps (hm.of rfl) (by assumption)
  · rename_i y733 y734
    exact execMirrorCopy_keeps (hm.of rfl) (by assumption)
  · rename_i y735 y736
    exact execMirrorDecoupled_keeps (hm.of rfl) (by assumption)
  · rename_i y737 y738
    exact execMirrorYield_keeps (hm.of rfl) (by assumption)
  · rename_i y739
    exact execMirrorAckTimeout_keeps (hm.of rfl) (by assumption)
  · rename_i y740
    exact execMirrorSilence_keeps (hm.of rfl) (by assumption)
  · rename_i y741 y742
    exact execResyncComplete_keeps (hm.of rfl) (by assumption)
  · rename_i y743
    exact execYieldTimeout_keeps (hm.of rfl) (by assumption)
  · rename_i y744 y745 y746 y747
    exact execKeyRequest_keeps (hm.of rfl) (by assumption)
  · rename_i y748 y749 y750 y751
    exact execCryptoRequest_keeps (hm.of rfl) (by assumption)
  · rename_i y752 y753 y754
    exact execEngineSelftestStart_keeps (hm.of rfl) (by assumption)
  · rename_i y755 y756 y757 y758
    exact execEngineSelftestResult_keeps (hm.of rfl) (by assumption)
  · rename_i y759 y760 y761
    exact execEthernetFrameRx_keeps (hm.of rfl) (by assumption)
  · rename_i y762 y763
    exact execPortLinkUp_keeps (hm.of rfl) (by assumption)
  · rename_i y764 y765
    exact execPortLinkFault_keeps (hm.of rfl) (by assumption)
  · rename_i y766 y767
    exact execPortTrainingTimeout_keeps (hm.of rfl) (by assumption)
  · rename_i y768 y769
    exact execPortHoldExpiry_keeps (hm.of rfl) (by assumption)
  · rename_i y770 y771 y772 y773 y774 y775
    exact execFecRatioCheck_keeps (hm.of rfl) (by assumption)
  · rename_i y776
    exact execLane0VigilTimeout_keeps (hm.of rfl) (by assumption)
  · rename_i y777
    exact execPtpHoldExpiry_keeps (hm.of rfl) (by assumption)
  · rename_i y778 y779 y780
    exact execNeighbourRefresh_keeps (hm.of rfl) (by assumption)
  · rename_i y781
    exact execUpdateQuiesceTimeout_keeps (hm.of rfl) (by assumption)
  · rename_i y782
    exact execFolsetUpdateReady_keeps (hm.of rfl) (by assumption)
  · rename_i y783
    exact execFolsetSwitchTimeout_keeps (hm.of rfl) (by assumption)
  · rename_i y784
    exact execProbationEnd_keeps (hm.of rfl) (by assumption)
  · rename_i y785 y786
    exact execGlfSwitchComplete_keeps (hm.of rfl) (by assumption)
  · rename_i y787
    exact execTraceFreeze_keeps (hm.of rfl) (by assumption)
  · rename_i y788 y789
    exact execStemStatusFrame_keeps (hm.of rfl) (by assumption)
  · rename_i y790 y791
    exact execMtrRequestTimeout_keeps (hm.of rfl) (by assumption)
  · rename_i y792
    exact execPciePerstRelease_keeps (hm.of rfl) (by assumption)
  · rename_i y793
    exact execVigilExitComplete_keeps (hm.of rfl) (by assumption)
  · rename_i y794 y795
    exact execFolsetSramError_keeps (hm.of rfl) (by assumption)

end Sys2Proof.Machine
end

