-- ==== Sys2Proof/Laws/State.lean ====
section
/-!
SUPPORT. The parts of State after an update of one part: the part updated holds what the update gives it, and each other part is as it was.
-/

namespace Sys2Proof.Machine

/-! ## `setDuty` -/

@[simp] theorem setDuty_pending (f : DutyState → DutyState) (s : State) : (setDuty f s).pending = s.pending := rfl
@[simp] theorem setDuty_draws (f : DutyState → DutyState) (s : State) : (setDuty f s).draws = s.draws := rfl
@[simp] theorem setDuty_host (f : DutyState → DutyState) (s : State) : (setDuty f s).host = s.host := rfl
@[simp] theorem setDuty_fol (f : DutyState → DutyState) (s : State) : (setDuty f s).fol = s.fol := rfl
@[simp] theorem setDuty_pwr (f : DutyState → DutyState) (s : State) : (setDuty f s).pwr = s.pwr := rfl
@[simp] theorem setDuty_time (f : DutyState → DutyState) (s : State) : (setDuty f s).time = s.time := rfl
@[simp] theorem setDuty_led (f : DutyState → DutyState) (s : State) : (setDuty f s).led = s.led := rfl
@[simp] theorem setDuty_gens (f : DutyState → DutyState) (s : State) : (setDuty f s).gens = s.gens := rfl
@[simp] theorem setDuty_yrw (f : DutyState → DutyState) (s : State) : (setDuty f s).yrw = s.yrw := rfl
@[simp] theorem setDuty_mem (f : DutyState → DutyState) (s : State) : (setDuty f s).mem = s.mem := rfl
@[simp] theorem setDuty_met (f : DutyState → DutyState) (s : State) : (setDuty f s).met = s.met := rfl
@[simp] theorem setDuty_seals (f : DutyState → DutyState) (s : State) : (setDuty f s).seals = s.seals := rfl
@[simp] theorem setDuty_flt (f : DutyState → DutyState) (s : State) : (setDuty f s).flt = s.flt := rfl
@[simp] theorem setDuty_duty (f : DutyState → DutyState) (s : State) : (setDuty f s).duty = f s.duty := rfl
@[simp] theorem setDuty_svc (f : DutyState → DutyState) (s : State) : (setDuty f s).svc = s.svc := rfl
@[simp] theorem setDuty_vlt (f : DutyState → DutyState) (s : State) : (setDuty f s).vlt = s.vlt := rfl
@[simp] theorem setDuty_stem (f : DutyState → DutyState) (s : State) : (setDuty f s).stem = s.stem := rfl
@[simp] theorem setDuty_mtr (f : DutyState → DutyState) (s : State) : (setDuty f s).mtr = s.mtr := rfl
@[simp] theorem setDuty_bal (f : DutyState → DutyState) (s : State) : (setDuty f s).bal = s.bal := rfl
@[simp] theorem setDuty_fio (f : DutyState → DutyState) (s : State) : (setDuty f s).fio = s.fio := rfl
@[simp] theorem setDuty_chg (f : DutyState → DutyState) (s : State) : (setDuty f s).chg = s.chg := rfl
@[simp] theorem setDuty_lnk (f : DutyState → DutyState) (s : State) : (setDuty f s).lnk = s.lnk := rfl

/-! ## `setChg` -/

@[simp] theorem setChg_pending (f : ChargeState → ChargeState) (s : State) : (setChg f s).pending = s.pending := rfl
@[simp] theorem setChg_draws (f : ChargeState → ChargeState) (s : State) : (setChg f s).draws = s.draws := rfl
@[simp] theorem setChg_host (f : ChargeState → ChargeState) (s : State) : (setChg f s).host = s.host := rfl
@[simp] theorem setChg_fol (f : ChargeState → ChargeState) (s : State) : (setChg f s).fol = s.fol := rfl
@[simp] theorem setChg_pwr (f : ChargeState → ChargeState) (s : State) : (setChg f s).pwr = s.pwr := rfl
@[simp] theorem setChg_time (f : ChargeState → ChargeState) (s : State) : (setChg f s).time = s.time := rfl
@[simp] theorem setChg_led (f : ChargeState → ChargeState) (s : State) : (setChg f s).led = s.led := rfl
@[simp] theorem setChg_gens (f : ChargeState → ChargeState) (s : State) : (setChg f s).gens = s.gens := rfl
@[simp] theorem setChg_yrw (f : ChargeState → ChargeState) (s : State) : (setChg f s).yrw = s.yrw := rfl
@[simp] theorem setChg_mem (f : ChargeState → ChargeState) (s : State) : (setChg f s).mem = s.mem := rfl
@[simp] theorem setChg_met (f : ChargeState → ChargeState) (s : State) : (setChg f s).met = s.met := rfl
@[simp] theorem setChg_seals (f : ChargeState → ChargeState) (s : State) : (setChg f s).seals = s.seals := rfl
@[simp] theorem setChg_flt (f : ChargeState → ChargeState) (s : State) : (setChg f s).flt = s.flt := rfl
@[simp] theorem setChg_duty (f : ChargeState → ChargeState) (s : State) : (setChg f s).duty = s.duty := rfl
@[simp] theorem setChg_svc (f : ChargeState → ChargeState) (s : State) : (setChg f s).svc = s.svc := rfl
@[simp] theorem setChg_vlt (f : ChargeState → ChargeState) (s : State) : (setChg f s).vlt = s.vlt := rfl
@[simp] theorem setChg_stem (f : ChargeState → ChargeState) (s : State) : (setChg f s).stem = s.stem := rfl
@[simp] theorem setChg_mtr (f : ChargeState → ChargeState) (s : State) : (setChg f s).mtr = s.mtr := rfl
@[simp] theorem setChg_bal (f : ChargeState → ChargeState) (s : State) : (setChg f s).bal = s.bal := rfl
@[simp] theorem setChg_fio (f : ChargeState → ChargeState) (s : State) : (setChg f s).fio = s.fio := rfl
@[simp] theorem setChg_chg (f : ChargeState → ChargeState) (s : State) : (setChg f s).chg = f s.chg := rfl
@[simp] theorem setChg_lnk (f : ChargeState → ChargeState) (s : State) : (setChg f s).lnk = s.lnk := rfl

/-! ## `setLed` -/

@[simp] theorem setLed_pending (f : LedgerState → LedgerState) (s : State) : (setLed f s).pending = s.pending := rfl
@[simp] theorem setLed_draws (f : LedgerState → LedgerState) (s : State) : (setLed f s).draws = s.draws := rfl
@[simp] theorem setLed_host (f : LedgerState → LedgerState) (s : State) : (setLed f s).host = s.host := rfl
@[simp] theorem setLed_fol (f : LedgerState → LedgerState) (s : State) : (setLed f s).fol = s.fol := rfl
@[simp] theorem setLed_pwr (f : LedgerState → LedgerState) (s : State) : (setLed f s).pwr = s.pwr := rfl
@[simp] theorem setLed_time (f : LedgerState → LedgerState) (s : State) : (setLed f s).time = s.time := rfl
@[simp] theorem setLed_led (f : LedgerState → LedgerState) (s : State) : (setLed f s).led = f s.led := rfl
@[simp] theorem setLed_gens (f : LedgerState → LedgerState) (s : State) : (setLed f s).gens = s.gens := rfl
@[simp] theorem setLed_yrw (f : LedgerState → LedgerState) (s : State) : (setLed f s).yrw = s.yrw := rfl
@[simp] theorem setLed_mem (f : LedgerState → LedgerState) (s : State) : (setLed f s).mem = s.mem := rfl
@[simp] theorem setLed_met (f : LedgerState → LedgerState) (s : State) : (setLed f s).met = s.met := rfl
@[simp] theorem setLed_seals (f : LedgerState → LedgerState) (s : State) : (setLed f s).seals = s.seals := rfl
@[simp] theorem setLed_flt (f : LedgerState → LedgerState) (s : State) : (setLed f s).flt = s.flt := rfl
@[simp] theorem setLed_duty (f : LedgerState → LedgerState) (s : State) : (setLed f s).duty = s.duty := rfl
@[simp] theorem setLed_svc (f : LedgerState → LedgerState) (s : State) : (setLed f s).svc = s.svc := rfl
@[simp] theorem setLed_vlt (f : LedgerState → LedgerState) (s : State) : (setLed f s).vlt = s.vlt := rfl
@[simp] theorem setLed_stem (f : LedgerState → LedgerState) (s : State) : (setLed f s).stem = s.stem := rfl
@[simp] theorem setLed_mtr (f : LedgerState → LedgerState) (s : State) : (setLed f s).mtr = s.mtr := rfl
@[simp] theorem setLed_bal (f : LedgerState → LedgerState) (s : State) : (setLed f s).bal = s.bal := rfl
@[simp] theorem setLed_fio (f : LedgerState → LedgerState) (s : State) : (setLed f s).fio = s.fio := rfl
@[simp] theorem setLed_chg (f : LedgerState → LedgerState) (s : State) : (setLed f s).chg = s.chg := rfl
@[simp] theorem setLed_lnk (f : LedgerState → LedgerState) (s : State) : (setLed f s).lnk = s.lnk := rfl

/-! ## `setFio` -/

@[simp] theorem setFio_pending (f : FieldState → FieldState) (s : State) : (setFio f s).pending = s.pending := rfl
@[simp] theorem setFio_draws (f : FieldState → FieldState) (s : State) : (setFio f s).draws = s.draws := rfl
@[simp] theorem setFio_host (f : FieldState → FieldState) (s : State) : (setFio f s).host = s.host := rfl
@[simp] theorem setFio_fol (f : FieldState → FieldState) (s : State) : (setFio f s).fol = s.fol := rfl
@[simp] theorem setFio_pwr (f : FieldState → FieldState) (s : State) : (setFio f s).pwr = s.pwr := rfl
@[simp] theorem setFio_time (f : FieldState → FieldState) (s : State) : (setFio f s).time = s.time := rfl
@[simp] theorem setFio_led (f : FieldState → FieldState) (s : State) : (setFio f s).led = s.led := rfl
@[simp] theorem setFio_gens (f : FieldState → FieldState) (s : State) : (setFio f s).gens = s.gens := rfl
@[simp] theorem setFio_yrw (f : FieldState → FieldState) (s : State) : (setFio f s).yrw = s.yrw := rfl
@[simp] theorem setFio_mem (f : FieldState → FieldState) (s : State) : (setFio f s).mem = s.mem := rfl
@[simp] theorem setFio_met (f : FieldState → FieldState) (s : State) : (setFio f s).met = s.met := rfl
@[simp] theorem setFio_seals (f : FieldState → FieldState) (s : State) : (setFio f s).seals = s.seals := rfl
@[simp] theorem setFio_flt (f : FieldState → FieldState) (s : State) : (setFio f s).flt = s.flt := rfl
@[simp] theorem setFio_duty (f : FieldState → FieldState) (s : State) : (setFio f s).duty = s.duty := rfl
@[simp] theorem setFio_svc (f : FieldState → FieldState) (s : State) : (setFio f s).svc = s.svc := rfl
@[simp] theorem setFio_vlt (f : FieldState → FieldState) (s : State) : (setFio f s).vlt = s.vlt := rfl
@[simp] theorem setFio_stem (f : FieldState → FieldState) (s : State) : (setFio f s).stem = s.stem := rfl
@[simp] theorem setFio_mtr (f : FieldState → FieldState) (s : State) : (setFio f s).mtr = s.mtr := rfl
@[simp] theorem setFio_bal (f : FieldState → FieldState) (s : State) : (setFio f s).bal = s.bal := rfl
@[simp] theorem setFio_fio (f : FieldState → FieldState) (s : State) : (setFio f s).fio = f s.fio := rfl
@[simp] theorem setFio_chg (f : FieldState → FieldState) (s : State) : (setFio f s).chg = s.chg := rfl
@[simp] theorem setFio_lnk (f : FieldState → FieldState) (s : State) : (setFio f s).lnk = s.lnk := rfl

/-! ## `setLnk` -/

@[simp] theorem setLnk_pending (f : LinkState → LinkState) (s : State) : (setLnk f s).pending = s.pending := rfl
@[simp] theorem setLnk_draws (f : LinkState → LinkState) (s : State) : (setLnk f s).draws = s.draws := rfl
@[simp] theorem setLnk_host (f : LinkState → LinkState) (s : State) : (setLnk f s).host = s.host := rfl
@[simp] theorem setLnk_fol (f : LinkState → LinkState) (s : State) : (setLnk f s).fol = s.fol := rfl
@[simp] theorem setLnk_pwr (f : LinkState → LinkState) (s : State) : (setLnk f s).pwr = s.pwr := rfl
@[simp] theorem setLnk_time (f : LinkState → LinkState) (s : State) : (setLnk f s).time = s.time := rfl
@[simp] theorem setLnk_led (f : LinkState → LinkState) (s : State) : (setLnk f s).led = s.led := rfl
@[simp] theorem setLnk_gens (f : LinkState → LinkState) (s : State) : (setLnk f s).gens = s.gens := rfl
@[simp] theorem setLnk_yrw (f : LinkState → LinkState) (s : State) : (setLnk f s).yrw = s.yrw := rfl
@[simp] theorem setLnk_mem (f : LinkState → LinkState) (s : State) : (setLnk f s).mem = s.mem := rfl
@[simp] theorem setLnk_met (f : LinkState → LinkState) (s : State) : (setLnk f s).met = s.met := rfl
@[simp] theorem setLnk_seals (f : LinkState → LinkState) (s : State) : (setLnk f s).seals = s.seals := rfl
@[simp] theorem setLnk_flt (f : LinkState → LinkState) (s : State) : (setLnk f s).flt = s.flt := rfl
@[simp] theorem setLnk_duty (f : LinkState → LinkState) (s : State) : (setLnk f s).duty = s.duty := rfl
@[simp] theorem setLnk_svc (f : LinkState → LinkState) (s : State) : (setLnk f s).svc = s.svc := rfl
@[simp] theorem setLnk_vlt (f : LinkState → LinkState) (s : State) : (setLnk f s).vlt = s.vlt := rfl
@[simp] theorem setLnk_stem (f : LinkState → LinkState) (s : State) : (setLnk f s).stem = s.stem := rfl
@[simp] theorem setLnk_mtr (f : LinkState → LinkState) (s : State) : (setLnk f s).mtr = s.mtr := rfl
@[simp] theorem setLnk_bal (f : LinkState → LinkState) (s : State) : (setLnk f s).bal = s.bal := rfl
@[simp] theorem setLnk_fio (f : LinkState → LinkState) (s : State) : (setLnk f s).fio = s.fio := rfl
@[simp] theorem setLnk_chg (f : LinkState → LinkState) (s : State) : (setLnk f s).chg = s.chg := rfl
@[simp] theorem setLnk_lnk (f : LinkState → LinkState) (s : State) : (setLnk f s).lnk = f s.lnk := rfl

/-! ## `setBal` -/

@[simp] theorem setBal_pending (f : BalanceState → BalanceState) (s : State) : (setBal f s).pending = s.pending := rfl
@[simp] theorem setBal_draws (f : BalanceState → BalanceState) (s : State) : (setBal f s).draws = s.draws := rfl
@[simp] theorem setBal_host (f : BalanceState → BalanceState) (s : State) : (setBal f s).host = s.host := rfl
@[simp] theorem setBal_fol (f : BalanceState → BalanceState) (s : State) : (setBal f s).fol = s.fol := rfl
@[simp] theorem setBal_pwr (f : BalanceState → BalanceState) (s : State) : (setBal f s).pwr = s.pwr := rfl
@[simp] theorem setBal_time (f : BalanceState → BalanceState) (s : State) : (setBal f s).time = s.time := rfl
@[simp] theorem setBal_led (f : BalanceState → BalanceState) (s : State) : (setBal f s).led = s.led := rfl
@[simp] theorem setBal_gens (f : BalanceState → BalanceState) (s : State) : (setBal f s).gens = s.gens := rfl
@[simp] theorem setBal_yrw (f : BalanceState → BalanceState) (s : State) : (setBal f s).yrw = s.yrw := rfl
@[simp] theorem setBal_mem (f : BalanceState → BalanceState) (s : State) : (setBal f s).mem = s.mem := rfl
@[simp] theorem setBal_met (f : BalanceState → BalanceState) (s : State) : (setBal f s).met = s.met := rfl
@[simp] theorem setBal_seals (f : BalanceState → BalanceState) (s : State) : (setBal f s).seals = s.seals := rfl
@[simp] theorem setBal_flt (f : BalanceState → BalanceState) (s : State) : (setBal f s).flt = s.flt := rfl
@[simp] theorem setBal_duty (f : BalanceState → BalanceState) (s : State) : (setBal f s).duty = s.duty := rfl
@[simp] theorem setBal_svc (f : BalanceState → BalanceState) (s : State) : (setBal f s).svc = s.svc := rfl
@[simp] theorem setBal_vlt (f : BalanceState → BalanceState) (s : State) : (setBal f s).vlt = s.vlt := rfl
@[simp] theorem setBal_stem (f : BalanceState → BalanceState) (s : State) : (setBal f s).stem = s.stem := rfl
@[simp] theorem setBal_mtr (f : BalanceState → BalanceState) (s : State) : (setBal f s).mtr = s.mtr := rfl
@[simp] theorem setBal_bal (f : BalanceState → BalanceState) (s : State) : (setBal f s).bal = f s.bal := rfl
@[simp] theorem setBal_fio (f : BalanceState → BalanceState) (s : State) : (setBal f s).fio = s.fio := rfl
@[simp] theorem setBal_chg (f : BalanceState → BalanceState) (s : State) : (setBal f s).chg = s.chg := rfl
@[simp] theorem setBal_lnk (f : BalanceState → BalanceState) (s : State) : (setBal f s).lnk = s.lnk := rfl

/-! ## `setMet` -/

@[simp] theorem setMet_pending (f : MetState → MetState) (s : State) : (setMet f s).pending = s.pending := rfl
@[simp] theorem setMet_draws (f : MetState → MetState) (s : State) : (setMet f s).draws = s.draws := rfl
@[simp] theorem setMet_host (f : MetState → MetState) (s : State) : (setMet f s).host = s.host := rfl
@[simp] theorem setMet_fol (f : MetState → MetState) (s : State) : (setMet f s).fol = s.fol := rfl
@[simp] theorem setMet_pwr (f : MetState → MetState) (s : State) : (setMet f s).pwr = s.pwr := rfl
@[simp] theorem setMet_time (f : MetState → MetState) (s : State) : (setMet f s).time = s.time := rfl
@[simp] theorem setMet_led (f : MetState → MetState) (s : State) : (setMet f s).led = s.led := rfl
@[simp] theorem setMet_gens (f : MetState → MetState) (s : State) : (setMet f s).gens = s.gens := rfl
@[simp] theorem setMet_yrw (f : MetState → MetState) (s : State) : (setMet f s).yrw = s.yrw := rfl
@[simp] theorem setMet_mem (f : MetState → MetState) (s : State) : (setMet f s).mem = s.mem := rfl
@[simp] theorem setMet_met (f : MetState → MetState) (s : State) : (setMet f s).met = f s.met := rfl
@[simp] theorem setMet_seals (f : MetState → MetState) (s : State) : (setMet f s).seals = s.seals := rfl
@[simp] theorem setMet_flt (f : MetState → MetState) (s : State) : (setMet f s).flt = s.flt := rfl
@[simp] theorem setMet_duty (f : MetState → MetState) (s : State) : (setMet f s).duty = s.duty := rfl
@[simp] theorem setMet_svc (f : MetState → MetState) (s : State) : (setMet f s).svc = s.svc := rfl
@[simp] theorem setMet_vlt (f : MetState → MetState) (s : State) : (setMet f s).vlt = s.vlt := rfl
@[simp] theorem setMet_stem (f : MetState → MetState) (s : State) : (setMet f s).stem = s.stem := rfl
@[simp] theorem setMet_mtr (f : MetState → MetState) (s : State) : (setMet f s).mtr = s.mtr := rfl
@[simp] theorem setMet_bal (f : MetState → MetState) (s : State) : (setMet f s).bal = s.bal := rfl
@[simp] theorem setMet_fio (f : MetState → MetState) (s : State) : (setMet f s).fio = s.fio := rfl
@[simp] theorem setMet_chg (f : MetState → MetState) (s : State) : (setMet f s).chg = s.chg := rfl
@[simp] theorem setMet_lnk (f : MetState → MetState) (s : State) : (setMet f s).lnk = s.lnk := rfl

/-! ## `setPwr` -/

@[simp] theorem setPwr_pending (f : PowerState → PowerState) (s : State) : (setPwr f s).pending = s.pending := rfl
@[simp] theorem setPwr_draws (f : PowerState → PowerState) (s : State) : (setPwr f s).draws = s.draws := rfl
@[simp] theorem setPwr_host (f : PowerState → PowerState) (s : State) : (setPwr f s).host = s.host := rfl
@[simp] theorem setPwr_fol (f : PowerState → PowerState) (s : State) : (setPwr f s).fol = s.fol := rfl
@[simp] theorem setPwr_pwr (f : PowerState → PowerState) (s : State) : (setPwr f s).pwr = f s.pwr := rfl
@[simp] theorem setPwr_time (f : PowerState → PowerState) (s : State) : (setPwr f s).time = s.time := rfl
@[simp] theorem setPwr_led (f : PowerState → PowerState) (s : State) : (setPwr f s).led = s.led := rfl
@[simp] theorem setPwr_gens (f : PowerState → PowerState) (s : State) : (setPwr f s).gens = s.gens := rfl
@[simp] theorem setPwr_yrw (f : PowerState → PowerState) (s : State) : (setPwr f s).yrw = s.yrw := rfl
@[simp] theorem setPwr_mem (f : PowerState → PowerState) (s : State) : (setPwr f s).mem = s.mem := rfl
@[simp] theorem setPwr_met (f : PowerState → PowerState) (s : State) : (setPwr f s).met = s.met := rfl
@[simp] theorem setPwr_seals (f : PowerState → PowerState) (s : State) : (setPwr f s).seals = s.seals := rfl
@[simp] theorem setPwr_flt (f : PowerState → PowerState) (s : State) : (setPwr f s).flt = s.flt := rfl
@[simp] theorem setPwr_duty (f : PowerState → PowerState) (s : State) : (setPwr f s).duty = s.duty := rfl
@[simp] theorem setPwr_svc (f : PowerState → PowerState) (s : State) : (setPwr f s).svc = s.svc := rfl
@[simp] theorem setPwr_vlt (f : PowerState → PowerState) (s : State) : (setPwr f s).vlt = s.vlt := rfl
@[simp] theorem setPwr_stem (f : PowerState → PowerState) (s : State) : (setPwr f s).stem = s.stem := rfl
@[simp] theorem setPwr_mtr (f : PowerState → PowerState) (s : State) : (setPwr f s).mtr = s.mtr := rfl
@[simp] theorem setPwr_bal (f : PowerState → PowerState) (s : State) : (setPwr f s).bal = s.bal := rfl
@[simp] theorem setPwr_fio (f : PowerState → PowerState) (s : State) : (setPwr f s).fio = s.fio := rfl
@[simp] theorem setPwr_chg (f : PowerState → PowerState) (s : State) : (setPwr f s).chg = s.chg := rfl
@[simp] theorem setPwr_lnk (f : PowerState → PowerState) (s : State) : (setPwr f s).lnk = s.lnk := rfl

/-! ## `setMtr` -/

@[simp] theorem setMtr_pending (f : MeterState → MeterState) (s : State) : (setMtr f s).pending = s.pending := rfl
@[simp] theorem setMtr_draws (f : MeterState → MeterState) (s : State) : (setMtr f s).draws = s.draws := rfl
@[simp] theorem setMtr_host (f : MeterState → MeterState) (s : State) : (setMtr f s).host = s.host := rfl
@[simp] theorem setMtr_fol (f : MeterState → MeterState) (s : State) : (setMtr f s).fol = s.fol := rfl
@[simp] theorem setMtr_pwr (f : MeterState → MeterState) (s : State) : (setMtr f s).pwr = s.pwr := rfl
@[simp] theorem setMtr_time (f : MeterState → MeterState) (s : State) : (setMtr f s).time = s.time := rfl
@[simp] theorem setMtr_led (f : MeterState → MeterState) (s : State) : (setMtr f s).led = s.led := rfl
@[simp] theorem setMtr_gens (f : MeterState → MeterState) (s : State) : (setMtr f s).gens = s.gens := rfl
@[simp] theorem setMtr_yrw (f : MeterState → MeterState) (s : State) : (setMtr f s).yrw = s.yrw := rfl
@[simp] theorem setMtr_mem (f : MeterState → MeterState) (s : State) : (setMtr f s).mem = s.mem := rfl
@[simp] theorem setMtr_met (f : MeterState → MeterState) (s : State) : (setMtr f s).met = s.met := rfl
@[simp] theorem setMtr_seals (f : MeterState → MeterState) (s : State) : (setMtr f s).seals = s.seals := rfl
@[simp] theorem setMtr_flt (f : MeterState → MeterState) (s : State) : (setMtr f s).flt = s.flt := rfl
@[simp] theorem setMtr_duty (f : MeterState → MeterState) (s : State) : (setMtr f s).duty = s.duty := rfl
@[simp] theorem setMtr_svc (f : MeterState → MeterState) (s : State) : (setMtr f s).svc = s.svc := rfl
@[simp] theorem setMtr_vlt (f : MeterState → MeterState) (s : State) : (setMtr f s).vlt = s.vlt := rfl
@[simp] theorem setMtr_stem (f : MeterState → MeterState) (s : State) : (setMtr f s).stem = s.stem := rfl
@[simp] theorem setMtr_mtr (f : MeterState → MeterState) (s : State) : (setMtr f s).mtr = f s.mtr := rfl
@[simp] theorem setMtr_bal (f : MeterState → MeterState) (s : State) : (setMtr f s).bal = s.bal := rfl
@[simp] theorem setMtr_fio (f : MeterState → MeterState) (s : State) : (setMtr f s).fio = s.fio := rfl
@[simp] theorem setMtr_chg (f : MeterState → MeterState) (s : State) : (setMtr f s).chg = s.chg := rfl
@[simp] theorem setMtr_lnk (f : MeterState → MeterState) (s : State) : (setMtr f s).lnk = s.lnk := rfl

/-! ## `setSvc` -/

@[simp] theorem setSvc_pending (f : SvcState → SvcState) (s : State) : (setSvc f s).pending = s.pending := rfl
@[simp] theorem setSvc_draws (f : SvcState → SvcState) (s : State) : (setSvc f s).draws = s.draws := rfl
@[simp] theorem setSvc_host (f : SvcState → SvcState) (s : State) : (setSvc f s).host = s.host := rfl
@[simp] theorem setSvc_fol (f : SvcState → SvcState) (s : State) : (setSvc f s).fol = s.fol := rfl
@[simp] theorem setSvc_pwr (f : SvcState → SvcState) (s : State) : (setSvc f s).pwr = s.pwr := rfl
@[simp] theorem setSvc_time (f : SvcState → SvcState) (s : State) : (setSvc f s).time = s.time := rfl
@[simp] theorem setSvc_led (f : SvcState → SvcState) (s : State) : (setSvc f s).led = s.led := rfl
@[simp] theorem setSvc_gens (f : SvcState → SvcState) (s : State) : (setSvc f s).gens = s.gens := rfl
@[simp] theorem setSvc_yrw (f : SvcState → SvcState) (s : State) : (setSvc f s).yrw = s.yrw := rfl
@[simp] theorem setSvc_mem (f : SvcState → SvcState) (s : State) : (setSvc f s).mem = s.mem := rfl
@[simp] theorem setSvc_met (f : SvcState → SvcState) (s : State) : (setSvc f s).met = s.met := rfl
@[simp] theorem setSvc_seals (f : SvcState → SvcState) (s : State) : (setSvc f s).seals = s.seals := rfl
@[simp] theorem setSvc_flt (f : SvcState → SvcState) (s : State) : (setSvc f s).flt = s.flt := rfl
@[simp] theorem setSvc_duty (f : SvcState → SvcState) (s : State) : (setSvc f s).duty = s.duty := rfl
@[simp] theorem setSvc_svc (f : SvcState → SvcState) (s : State) : (setSvc f s).svc = f s.svc := rfl
@[simp] theorem setSvc_vlt (f : SvcState → SvcState) (s : State) : (setSvc f s).vlt = s.vlt := rfl
@[simp] theorem setSvc_stem (f : SvcState → SvcState) (s : State) : (setSvc f s).stem = s.stem := rfl
@[simp] theorem setSvc_mtr (f : SvcState → SvcState) (s : State) : (setSvc f s).mtr = s.mtr := rfl
@[simp] theorem setSvc_bal (f : SvcState → SvcState) (s : State) : (setSvc f s).bal = s.bal := rfl
@[simp] theorem setSvc_fio (f : SvcState → SvcState) (s : State) : (setSvc f s).fio = s.fio := rfl
@[simp] theorem setSvc_chg (f : SvcState → SvcState) (s : State) : (setSvc f s).chg = s.chg := rfl
@[simp] theorem setSvc_lnk (f : SvcState → SvcState) (s : State) : (setSvc f s).lnk = s.lnk := rfl

/-! ## `setStem` -/

@[simp] theorem setStem_pending (f : StemState → StemState) (s : State) : (setStem f s).pending = s.pending := rfl
@[simp] theorem setStem_draws (f : StemState → StemState) (s : State) : (setStem f s).draws = s.draws := rfl
@[simp] theorem setStem_host (f : StemState → StemState) (s : State) : (setStem f s).host = s.host := rfl
@[simp] theorem setStem_fol (f : StemState → StemState) (s : State) : (setStem f s).fol = s.fol := rfl
@[simp] theorem setStem_pwr (f : StemState → StemState) (s : State) : (setStem f s).pwr = s.pwr := rfl
@[simp] theorem setStem_time (f : StemState → StemState) (s : State) : (setStem f s).time = s.time := rfl
@[simp] theorem setStem_led (f : StemState → StemState) (s : State) : (setStem f s).led = s.led := rfl
@[simp] theorem setStem_gens (f : StemState → StemState) (s : State) : (setStem f s).gens = s.gens := rfl
@[simp] theorem setStem_yrw (f : StemState → StemState) (s : State) : (setStem f s).yrw = s.yrw := rfl
@[simp] theorem setStem_mem (f : StemState → StemState) (s : State) : (setStem f s).mem = s.mem := rfl
@[simp] theorem setStem_met (f : StemState → StemState) (s : State) : (setStem f s).met = s.met := rfl
@[simp] theorem setStem_seals (f : StemState → StemState) (s : State) : (setStem f s).seals = s.seals := rfl
@[simp] theorem setStem_flt (f : StemState → StemState) (s : State) : (setStem f s).flt = s.flt := rfl
@[simp] theorem setStem_duty (f : StemState → StemState) (s : State) : (setStem f s).duty = s.duty := rfl
@[simp] theorem setStem_svc (f : StemState → StemState) (s : State) : (setStem f s).svc = s.svc := rfl
@[simp] theorem setStem_vlt (f : StemState → StemState) (s : State) : (setStem f s).vlt = s.vlt := rfl
@[simp] theorem setStem_stem (f : StemState → StemState) (s : State) : (setStem f s).stem = f s.stem := rfl
@[simp] theorem setStem_mtr (f : StemState → StemState) (s : State) : (setStem f s).mtr = s.mtr := rfl
@[simp] theorem setStem_bal (f : StemState → StemState) (s : State) : (setStem f s).bal = s.bal := rfl
@[simp] theorem setStem_fio (f : StemState → StemState) (s : State) : (setStem f s).fio = s.fio := rfl
@[simp] theorem setStem_chg (f : StemState → StemState) (s : State) : (setStem f s).chg = s.chg := rfl
@[simp] theorem setStem_lnk (f : StemState → StemState) (s : State) : (setStem f s).lnk = s.lnk := rfl

/-! ## `setTime` -/

@[simp] theorem setTime_pending (f : TimeState → TimeState) (s : State) : (setTime f s).pending = s.pending := rfl
@[simp] theorem setTime_draws (f : TimeState → TimeState) (s : State) : (setTime f s).draws = s.draws := rfl
@[simp] theorem setTime_host (f : TimeState → TimeState) (s : State) : (setTime f s).host = s.host := rfl
@[simp] theorem setTime_fol (f : TimeState → TimeState) (s : State) : (setTime f s).fol = s.fol := rfl
@[simp] theorem setTime_pwr (f : TimeState → TimeState) (s : State) : (setTime f s).pwr = s.pwr := rfl
@[simp] theorem setTime_time (f : TimeState → TimeState) (s : State) : (setTime f s).time = f s.time := rfl
@[simp] theorem setTime_led (f : TimeState → TimeState) (s : State) : (setTime f s).led = s.led := rfl
@[simp] theorem setTime_gens (f : TimeState → TimeState) (s : State) : (setTime f s).gens = s.gens := rfl
@[simp] theorem setTime_yrw (f : TimeState → TimeState) (s : State) : (setTime f s).yrw = s.yrw := rfl
@[simp] theorem setTime_mem (f : TimeState → TimeState) (s : State) : (setTime f s).mem = s.mem := rfl
@[simp] theorem setTime_met (f : TimeState → TimeState) (s : State) : (setTime f s).met = s.met := rfl
@[simp] theorem setTime_seals (f : TimeState → TimeState) (s : State) : (setTime f s).seals = s.seals := rfl
@[simp] theorem setTime_flt (f : TimeState → TimeState) (s : State) : (setTime f s).flt = s.flt := rfl
@[simp] theorem setTime_duty (f : TimeState → TimeState) (s : State) : (setTime f s).duty = s.duty := rfl
@[simp] theorem setTime_svc (f : TimeState → TimeState) (s : State) : (setTime f s).svc = s.svc := rfl
@[simp] theorem setTime_vlt (f : TimeState → TimeState) (s : State) : (setTime f s).vlt = s.vlt := rfl
@[simp] theorem setTime_stem (f : TimeState → TimeState) (s : State) : (setTime f s).stem = s.stem := rfl
@[simp] theorem setTime_mtr (f : TimeState → TimeState) (s : State) : (setTime f s).mtr = s.mtr := rfl
@[simp] theorem setTime_bal (f : TimeState → TimeState) (s : State) : (setTime f s).bal = s.bal := rfl
@[simp] theorem setTime_fio (f : TimeState → TimeState) (s : State) : (setTime f s).fio = s.fio := rfl
@[simp] theorem setTime_chg (f : TimeState → TimeState) (s : State) : (setTime f s).chg = s.chg := rfl
@[simp] theorem setTime_lnk (f : TimeState → TimeState) (s : State) : (setTime f s).lnk = s.lnk := rfl

/-! ## `setVlt` -/

@[simp] theorem setVlt_pending (f : VaultState → VaultState) (s : State) : (setVlt f s).pending = s.pending := rfl
@[simp] theorem setVlt_draws (f : VaultState → VaultState) (s : State) : (setVlt f s).draws = s.draws := rfl
@[simp] theorem setVlt_host (f : VaultState → VaultState) (s : State) : (setVlt f s).host = s.host := rfl
@[simp] theorem setVlt_fol (f : VaultState → VaultState) (s : State) : (setVlt f s).fol = s.fol := rfl
@[simp] theorem setVlt_pwr (f : VaultState → VaultState) (s : State) : (setVlt f s).pwr = s.pwr := rfl
@[simp] theorem setVlt_time (f : VaultState → VaultState) (s : State) : (setVlt f s).time = s.time := rfl
@[simp] theorem setVlt_led (f : VaultState → VaultState) (s : State) : (setVlt f s).led = s.led := rfl
@[simp] theorem setVlt_gens (f : VaultState → VaultState) (s : State) : (setVlt f s).gens = s.gens := rfl
@[simp] theorem setVlt_yrw (f : VaultState → VaultState) (s : State) : (setVlt f s).yrw = s.yrw := rfl
@[simp] theorem setVlt_mem (f : VaultState → VaultState) (s : State) : (setVlt f s).mem = s.mem := rfl
@[simp] theorem setVlt_met (f : VaultState → VaultState) (s : State) : (setVlt f s).met = s.met := rfl
@[simp] theorem setVlt_seals (f : VaultState → VaultState) (s : State) : (setVlt f s).seals = s.seals := rfl
@[simp] theorem setVlt_flt (f : VaultState → VaultState) (s : State) : (setVlt f s).flt = s.flt := rfl
@[simp] theorem setVlt_duty (f : VaultState → VaultState) (s : State) : (setVlt f s).duty = s.duty := rfl
@[simp] theorem setVlt_svc (f : VaultState → VaultState) (s : State) : (setVlt f s).svc = s.svc := rfl
@[simp] theorem setVlt_vlt (f : VaultState → VaultState) (s : State) : (setVlt f s).vlt = f s.vlt := rfl
@[simp] theorem setVlt_stem (f : VaultState → VaultState) (s : State) : (setVlt f s).stem = s.stem := rfl
@[simp] theorem setVlt_mtr (f : VaultState → VaultState) (s : State) : (setVlt f s).mtr = s.mtr := rfl
@[simp] theorem setVlt_bal (f : VaultState → VaultState) (s : State) : (setVlt f s).bal = s.bal := rfl
@[simp] theorem setVlt_fio (f : VaultState → VaultState) (s : State) : (setVlt f s).fio = s.fio := rfl
@[simp] theorem setVlt_chg (f : VaultState → VaultState) (s : State) : (setVlt f s).chg = s.chg := rfl
@[simp] theorem setVlt_lnk (f : VaultState → VaultState) (s : State) : (setVlt f s).lnk = s.lnk := rfl

/-! ## `setYrw` -/

@[simp] theorem setYrw_pending (f : YarrowState → YarrowState) (s : State) : (setYrw f s).pending = s.pending := rfl
@[simp] theorem setYrw_draws (f : YarrowState → YarrowState) (s : State) : (setYrw f s).draws = s.draws := rfl
@[simp] theorem setYrw_host (f : YarrowState → YarrowState) (s : State) : (setYrw f s).host = s.host := rfl
@[simp] theorem setYrw_fol (f : YarrowState → YarrowState) (s : State) : (setYrw f s).fol = s.fol := rfl
@[simp] theorem setYrw_pwr (f : YarrowState → YarrowState) (s : State) : (setYrw f s).pwr = s.pwr := rfl
@[simp] theorem setYrw_time (f : YarrowState → YarrowState) (s : State) : (setYrw f s).time = s.time := rfl
@[simp] theorem setYrw_led (f : YarrowState → YarrowState) (s : State) : (setYrw f s).led = s.led := rfl
@[simp] theorem setYrw_gens (f : YarrowState → YarrowState) (s : State) : (setYrw f s).gens = s.gens := rfl
@[simp] theorem setYrw_yrw (f : YarrowState → YarrowState) (s : State) : (setYrw f s).yrw = f s.yrw := rfl
@[simp] theorem setYrw_mem (f : YarrowState → YarrowState) (s : State) : (setYrw f s).mem = s.mem := rfl
@[simp] theorem setYrw_met (f : YarrowState → YarrowState) (s : State) : (setYrw f s).met = s.met := rfl
@[simp] theorem setYrw_seals (f : YarrowState → YarrowState) (s : State) : (setYrw f s).seals = s.seals := rfl
@[simp] theorem setYrw_flt (f : YarrowState → YarrowState) (s : State) : (setYrw f s).flt = s.flt := rfl
@[simp] theorem setYrw_duty (f : YarrowState → YarrowState) (s : State) : (setYrw f s).duty = s.duty := rfl
@[simp] theorem setYrw_svc (f : YarrowState → YarrowState) (s : State) : (setYrw f s).svc = s.svc := rfl
@[simp] theorem setYrw_vlt (f : YarrowState → YarrowState) (s : State) : (setYrw f s).vlt = s.vlt := rfl
@[simp] theorem setYrw_stem (f : YarrowState → YarrowState) (s : State) : (setYrw f s).stem = s.stem := rfl
@[simp] theorem setYrw_mtr (f : YarrowState → YarrowState) (s : State) : (setYrw f s).mtr = s.mtr := rfl
@[simp] theorem setYrw_bal (f : YarrowState → YarrowState) (s : State) : (setYrw f s).bal = s.bal := rfl
@[simp] theorem setYrw_fio (f : YarrowState → YarrowState) (s : State) : (setYrw f s).fio = s.fio := rfl
@[simp] theorem setYrw_chg (f : YarrowState → YarrowState) (s : State) : (setYrw f s).chg = s.chg := rfl
@[simp] theorem setYrw_lnk (f : YarrowState → YarrowState) (s : State) : (setYrw f s).lnk = s.lnk := rfl

end Sys2Proof.Machine
end

