-- ==== Sys2Proof/WellFormed.lean ====
section
/-!
DEFINITION. Which commands are well formed: every operand names something the spec gives the hardware and fits the field that carries it. A
command that is not well formed is one that no sender of the block can send. Chapters 02 to 18 of the spec give the bounds.
-/

namespace Sys2Proof

/-- A request fits its header and its mailbox or datagram (R117, R120): 32 mailboxes, 16-bit tag, length and flags, 32-bit session and
reserved word, at most 240 B of payload. -/
def Request.wellFormed (rq : Request) : Bool :=
  (match rq.via with
    | .mailbox k => decide (k < 32)
    | .udp seq => decide (seq < 2 ^ 64)) &&
  rq.tag < 65536 && rq.length < 65536 && rq.flags < 65536 && rq.session < 2 ^ 32 && rq.reserved < 2 ^ 32 && rq.payload.length ≤ 240

/-- A command is well formed. -/
def Instr.wellFormed (i : Instr) : Bool :=
  match i with
  | .sysIdentify rq => rq.wellFormed
  | .sysSessionOpen rq => rq.wellFormed
  | .sysSessionAuth rq => rq.wellFormed
  | .sysSessionClose rq => rq.wellFormed
  | .sysStreamConfig rq => rq.wellFormed
  | .sysLifecycle rq => rq.wellFormed
  | .sysPowerMode rq => rq.wellFormed
  | .sysPowerStatus rq => rq.wellFormed
  | .timeStatus rq => rq.wellFormed
  | .timeConfig rq => rq.wellFormed
  | .timeStep rq => rq.wellFormed
  | .timeCivil rq => rq.wellFormed
  | .timeTicks rq => rq.wellFormed
  | .yrwStatus rq => rq.wellFormed
  | .yrwCatalogue rq => rq.wellFormed
  | .yrwWorkloadArm rq => rq.wellFormed
  | .yrwParamSet rq => rq.wellFormed
  | .yrwSpares rq => rq.wellFormed
  | .yrwUmbel rq => rq.wellFormed
  | .yrwKernelRoll rq => rq.wellFormed
  | .yrwLoad rq => rq.wellFormed
  | .yrwWorkloadStats rq => rq.wellFormed
  | .yrwWorkloadRead rq => rq.wellFormed
  | .memStatus rq => rq.wellFormed
  | .memArbRead rq => rq.wellFormed
  | .memArbSet rq => rq.wellFormed
  | .memArbStats rq => rq.wellFormed
  | .metStatus rq => rq.wellFormed
  | .metSetRead rq => rq.wellFormed
  | .metChannelRead rq => rq.wellFormed
  | .metRingStatus rq => rq.wellFormed
  | .metCalArm rq => rq.wellFormed
  | .metCalCapture rq => rq.wellFormed
  | .metDemandSet rq => rq.wellFormed
  | .metDemandReset rq => rq.wellFormed
  | .metAuditRead rq => rq.wellFormed
  | .ledStatus rq => rq.wellFormed
  | .ledAccountRead rq => rq.wellFormed
  | .ledAccountSet rq => rq.wellFormed
  | .ledTokenSubmit rq => rq.wellFormed
  | .ledAdjust rq => rq.wellFormed
  | .ledSupply rq => rq.wellFormed
  | .ledAccountRestore rq => rq.wellFormed
  | .ledTariffArm rq => rq.wellFormed
  | .ledLocalRead rq => rq.wellFormed
  | .ledJournalRead rq => rq.wellFormed
  | .balStatus rq => rq.wellFormed
  | .balModelArm rq => rq.wellFormed
  | .balRulesSet rq => rq.wellFormed
  | .balAttribute rq => rq.wellFormed
  | .balNetworkRead rq => rq.wellFormed
  | .balHistoryRead rq => rq.wellFormed
  | .balSuspicionRead rq => rq.wellFormed
  | .balSuspicionClose rq => rq.wellFormed
  | .stemStatus rq => rq.wellFormed
  | .stemBridgeSet rq => rq.wellFormed
  | .stemTxSet rq => rq.wellFormed
  | .stemBridgeRead rq => rq.wellFormed
  | .plcPollSet rq => rq.wellFormed
  | .plcNetworkRead rq => rq.wellFormed
  | .plcNodeRead rq => rq.wellFormed
  | .rfNetworkSet rq => rq.wellFormed
  | .rfNetworkRead rq => rq.wellFormed
  | .rfConnRead rq => rq.wellFormed
  | .mtrBind rq => rq.wellFormed
  | .mtrRead rq => rq.wellFormed
  | .mtrRequest rq => rq.wellFormed
  | .mtrFwStage rq => rq.wellFormed
  | .mtrFwCampaign rq => rq.wellFormed
  | .mtrFwStatus rq => rq.wellFormed
  | .chgStatus rq => rq.wellFormed
  | .chgPointSet rq => rq.wellFormed
  | .chgPathSet rq => rq.wellFormed
  | .chgBusSet rq => rq.wellFormed
  | .chgIdSet rq => rq.wellFormed
  | .chgAuthorise rq => rq.wellFormed
  | .chgStop rq => rq.wellFormed
  | .chgPointRead rq => rq.wellFormed
  | .fioLsConfig rq => rq.wellFormed
  | .fioLsSet rq => rq.wellFormed
  | .fioLsRead rq => rq.wellFormed
  | .fioPanelSet rq => rq.wellFormed
  | .fioPanelDraw rq => rq.wellFormed
  | .fioPanelRead rq => rq.wellFormed
  | .safStatus rq => rq.wellFormed
  | .safInputSet rq => rq.wellFormed
  | .safOutputSet rq => rq.wellFormed
  | .vltStatus rq => rq.wellFormed
  | .vltSlotWrite rq => rq.wellFormed
  | .vltSlotRead rq => rq.wellFormed
  | .vltSlotDestroy rq => rq.wellFormed
  | .vltCertSet rq => rq.wellFormed
  | .vltAttest rq => rq.wellFormed
  | .vltEngine rq => rq.wellFormed
  | .fltStatus rq => rq.wellFormed
  | .fltRead rq => rq.wellFormed
  | .fltClear rq => rq.wellFormed
  | .fltSafe rq => rq.wellFormed
  | .fltInject rq => rq.wellFormed
  | .fltTamper rq => rq.wellFormed
  | .dutyStatus rq => rq.wellFormed
  | .dutyYield rq => rq.wellFormed
  | .dutyTakeover rq => rq.wellFormed
  | .dutyResync rq => rq.wellFormed
  | .lnkStatus rq => rq.wellFormed
  | .lnkGrouping rq => rq.wellFormed
  | .lnkPortSet rq => rq.wellFormed
  | .lnkAddrSet rq => rq.wellFormed
  | .lnkMacsecSet rq => rq.wellFormed
  | .lnkPortRead rq => rq.wellFormed
  | .svcStatus rq => rq.wellFormed
  | .svcStage rq => rq.wellFormed
  | .svcUpdate rq => rq.wellFormed
  | .svcBank rq => rq.wellFormed
  | .svcTraceConfig rq => rq.wellFormed
  | .svcTraceExport rq => rq.wellFormed
  | .svcTraceMark rq => rq.wellFormed
  | .jornyHelp => true
  | .jornyId => true
  | .jornyStatus => true
  | .jornyFaults _ => true
  | .jornyAuth _ _ => true
  | .jornySig _ => true
  | .jornyLogout => true
  | .jornyTrace _ => true
  | .jornyTail slot => slot < 2
  | .jornyBank => true
  | .jornyBankCommit => true
  | .jornyBankUse _ => true
  | .jornyLoad target len => target < 256 && len < 2 ^ 32
  | .jornyLoadBlock offset _ crc => offset < 2 ^ 32 && crc < 2 ^ 32
  | .jornyLoadTimeout => true
  | .jornyRestart => true
  | .jornyRoleTimeout => true
  | .jornyBreak => true
  | .mboxRequestWrite k offset data => k < 32 && offset + data.length ≤ 256
  | .mboxRing mask => mask < 2 ^ 32
  | .mboxDoneClear mask setNow => mask < 2 ^ 32 && setNow < 2 ^ 32
  | .intStatusClear mask setNow => mask < 2 ^ 32 && setNow < 2 ^ 32
  | .hostErrInfoRead _ => true
  | .gstatFrontierRead _ => true
  | .strmTailWrite channel value => channel < 8 && value < 2 ^ 32
  | .strmDataAccess channel write => channel < 8 && write.all (fun v => v < 2 ^ 64)
  | .streamFrameAccess channel frame offset len write => channel < 8 && frame < 32 && offset + len ≤ 4096 && write.all (fun b => b.length == len)
  | .reservedBarAccess offset _ => offset < 2 ^ 20
  | .registerWrite offset value => offset < 2 ^ 20 && value < 2 ^ 32
  | .pcieReset _ => true
  | .intHoldoffExpiry vector => vector < 32
  | .sessionIdleTimeout session => session < 2 ^ 32
  | .sessionPendingTimeout session => session < 2 ^ 32
  | .principalLockoutExpiry _ => true
  | .udpRequestRx _ _ => true
  | .udpEventAckRx _ => true
  | .udpEventResend session _ => session < 2 ^ 32
  | .streamPageAbandon channel => channel < 8
  | .streamPageStall channel => channel < 8
  | .streamPushStall channel => channel < 8
  | .streamReceiveTimeout channel => channel < 8
  | .eventPlacement => true
  | .folsetLockstepMismatch => true
  | .folsetRestartComplete => true
  | .modEnNFall => true
  | .modEnNRise => true
  | .mainLost _ => true
  | .mainPresent => true
  | .mainQualified => true
  | .battLost _ => true
  | .battPresent => true
  | .switchComplete => true
  | .mainUnstableClear => true
  | .battPolicyDelay => true
  | .lowBattery => true
  | .powerFailDetection _ _ => true
  | .railFailPowerDown rail step => rail ≤ 3 && step ≤ 8
  | .keepEntryDelay => true
  | .wakeTime => true
  | .keepReserveExhausted => true
  | .coldStart _ => true
  | .railStartTimeout domain => domain ≤ 2
  | .vigilRailRetry => true
  | .moistureHoldEnd => true
  | .thermalCancel reaction => reaction ≤ 4
  | .ptpSyncRx port _ => port ≤ 3
  | .ptpAnnounceRx a => a.port ≤ 3
  | .announceTimeout port => port ≤ 3
  | .ppsEdge _ => true
  | .ppsLoss => true
  | .sourceDisagreeTimeout => true
  | .pendingStepRecompute _ => true
  | .holdoverExpiry => true
  | .tickStart inputs => inputs.groupTemps.length == 4 && inputs.windows.all (fun r => r.channel < 64 && r.samples.length == 32)
  | .backlogTimeout => true
  | .uplinkFrame => true
  | .downlinkFrame => true
  | .downlinkDeadlineMiss => true
  | .tickClose _ => true
  | .tickOverrun => true
  | .tickCommit => true
  | .frontierWriteFailed => true
  | .abortScrubComplete _ => true
  | .invocationDispatch floret => floret < 1024
  | .sliceBoundary floret us => floret < 1024 && us < 1000
  | .invocationComplete floret => floret < 1024
  | .pageFetchComplete floret => floret < 1024
  | .watchdogExpiry floret => floret < 1024
  | .deadlineMiss workload => workload < 256
  | .floretSramError floret kind => floret < 1024 && kind ≤ 3
  | .umbelHeartbeat umbel epoch _ => umbel < 64 && epoch < 2 ^ 32
  | .heartbeatLoss umbel => umbel < 64
  | .fenceDrainComplete umbel => umbel < 64
  | .umbelTestResult umbel _ => umbel < 64
  | .staleEpochRequest umbel epoch _ => umbel < 64 && epoch < 2 ^ 32
  | .arbiterDecision arbiter asks _ _ => arbiter ≤ 4 && asks.all (fun a => a.requester < 16)
  | .arbWait arbiter requester => arbiter ≤ 4 && requester < 16
  | .dramEccError addr _ floret => addr < 0xC00000000 && floret.all (fun f => f < 1024)
  | .patrolScrubPass => true
  | .lstoreReadError addr _ => addr < 2 ^ 30
  | .accountRestoreStandby account image => account < 2 ^ 20 && image.length == 244
  | .demandBoundary set reg => set < 32 && reg < 4
  | .coilSettled => true
  | .ringRecordRx ring port frame => ring ≤ 1 && 1 ≤ port && port ≤ 2 && frame.length == 500
  | .ringStatusRx ring kind hop => ring ≤ 1 && kind < 256 && hop ≤ 16
  | .ringLossOfSignal ring hop => ring ≤ 1 && hop ≤ 16
  | .ringLinkRestored ring hop => ring ≤ 1 && hop ≤ 16
  | .enumerationComplete ring found breaks => ring ≤ 1 && found.all (fun x => x.position < 16) && breaks.all (fun h => h ≤ 16)
  | .recordMissing ring position => ring ≤ 1 && position < 16
  | .satelliteUnreachable ring position => ring ≤ 1 && position < 16
  | .tickMarkMissing ring position => ring ≤ 1 && position < 16
  | .selftestStepStart group => group < 36
  | .selftestPhaseEnd group _ => group < 36
  | .selftestPrimaryResult group _ => group < 36
  | .selftestSpareResult group _ => group < 36
  | .captureStart => true
  | .captureComplete => true
  | .sealChange position _ => 1 ≤ position && position ≤ 16
  | .windowSettleDeadline bridge _ => bridge < 8192
  | .stemPlcSamples _ => true
  | .stemRfSamples _ => true
  | .stemLvSamples _ => true
  | .stemJoin port source dest _ => port < 16 && source.length == 16 && dest.length == 16
  | .stemStaleRx _ => true
  | .holeRepairRetry bridge stream => bridge < 8192 && stream ≤ 2
  | .holeWaitExpiry bridge stream => bridge < 8192 && stream ≤ 1
  | .bridgeSilence bridge => bridge < 8192
  | .bridgeLost bridge => bridge < 8192
  | .rekeyDue bridge => bridge < 8192
  | .keepaliveDue bridge => bridge < 8192
  | .plcResponseRx bridge _ modulation _ _ => bridge < 8192 && modulation < 8
  | .plcAlertRx bridge _ modulation _ _ => bridge < 8192 && modulation < 8
  | .plcDiscoverReplyRx bridge _ _ => bridge < 8192
  | .plcTransactionFail bridge _ _ => bridge < 8192
  | .discoverPeriod bridge => bridge < 8192
  | .beaconDue bridge => bridge < 8192
  | .rfAdvertRx bridge channel _ _ _ => bridge < 8192 && channel < 64
  | .rfConnectionEvent bridge _ => bridge < 8192
  | .rfAnswerRx bridge _ _ => bridge < 8192
  | .rfEventMissed bridge _ => bridge < 8192
  | .rfSupervisionExpiry bridge _ => bridge < 8192
  | .rfAlertRx bridge _ _ => bridge < 8192
  | .sepalReading account => account < 2 ^ 20
  | .sepalCreditAck account => account < 2 ^ 20
  | .sepalEvent account => account < 2 ^ 20
  | .sepalToken account => account < 2 ^ 20
  | .sepalEmergencyReq account => account < 2 ^ 20
  | .sepalIdentity account => account < 2 ^ 20
  | .sepalKeyAck account => account < 2 ^ 20
  | .sepalFwStatus account => account < 2 ^ 20
  | .sepalSendGiveup account => account < 2 ^ 20
  | .fwCampaignActivate campaign => campaign < 2 ^ 32
  | .pilotChange point pilot => point < 16 && pilot ≤ 7
  | .ppChange point _ => point < 16
  | .chgLinkEstablished point _ _ => point < 16
  | .chgLinkLost point => point < 16
  | .linkRetryEnd point => point < 16
  | .v2gMessageRx point _ => point < 16
  | .authTimeout point => point < 16
  | .preparationComplete point => point < 16
  | .stoppingComplete point => point < 16
  | .stoppingOpenTimeout point => point < 16
  | .pauseContactorTimeout point => point < 16
  | .pauseLimit point => point < 16
  | .cardPollDwell reader => reader < 4
  | .cardDetected reader _ => reader < 4
  | .cardResponse reader _ => reader < 4
  | .cardTimeout reader => reader < 4
  | .converterFeedbackRx bus identifier data => bus < 4 && identifier < 2048 && data.length ≤ 64
  | .converterLost bus node => bus < 4 && node < 128
  | .staleLimits => true
  | .meteringStale point => point < 16
  | .acOvercurrent point _ => point < 16
  | .rcmTrip point _ _ => point < 16
  | .rcmSelftestResult point _ => point < 16
  | .insulationValue point _ => point < 16
  | .contactorCloseTimeout point => point < 16
  | .contactorWelded point => point < 16
  | .tripPilotFEnd point => point < 16
  | .outputEvaluation => true
  | .directPinEdge pin _ => pin < 8
  | .field24vUndervoltage _ _ => true
  | .field24vOvervoltage _ _ => true
  | .field24vRestored _ _ => true
  | .field24vTotalHigh _ _ => true
  | .lsAccumulatorUpdate currents _ => currents.length ≤ 48
  | .lsShortCircuit channel => channel < 48
  | .lsOverTemperature channel => channel < 48
  | .lsRampTimeout channel => channel < 48
  | .lsOpenLoad channel => channel < 48
  | .testPulseGap source => source < 4
  | .testPulseOverload source => source < 4
  | .testPulseRetry source => source < 4
  | .safetyInputSample sub a b => sub < 16 && a < 65536 && b < 65536
  | .safetyInputRelease input => input < 16
  | .safetyInputDiscrepancy input => input < 16
  | .soOffPulse output _ => output < 16
  | .soFailedOpen output => output < 16
  | .soExternallyFed output => output < 16
  | .soFeedCleared output => output < 16
  | .panelBusyReleased panel => panel ≤ 1
  | .panelBusyTimeout panel => panel ≤ 1
  | .panelRailFault panel => panel ≤ 1
  | .panelDrawComplete panel => panel ≤ 1
  | .panelOffDelay panel => panel ≤ 1
  | .tamperSample sample _ => sample.length == 5
  | .faultNPulseEnd => true
  | .safeLineTimeout => true
  | .safetyComparatorMismatch => true
  | .batonPeerLine _ => true
  | .batonClaim => true
  | .batonClaimConfirm => true
  | .batonOwnLineStuck => true
  | .roleDecisionTimeout => true
  | .mirrorHello _ => true
  | .mirrorRecord _ => true
  | .mirrorClose _ => true
  | .mirrorAck _ => true
  | .mirrorCommit _ => true
  | .mirrorAbort _ => true
  | .mirrorConfig _ => true
  | .mirrorCopy _ => true
  | .mirrorDecoupled _ => true
  | .mirrorYield _ => true
  | .mirrorAckTimeout => true
  | .mirrorSilence => true
  | .resyncComplete _ => true
  | .yieldTimeout => true
  | .keyRequest cls engine _ => cls ≤ 6 && engine < 32
  | .cryptoRequest cls engine _ => cls ≤ 6 && engine < 32
  | .engineSelftestStart cls engine => cls ≤ 6 && engine < 32
  | .engineSelftestResult cls engine _ => cls ≤ 6 && engine < 32
  | .ethernetFrameRx port _ => port < 16
  | .portLinkUp port => port < 16
  | .portLinkFault port => port < 16
  | .portTrainingTimeout port => port < 16
  | .portHoldExpiry port => port < 16
  | .fecRatioCheck port _ _ _ _ => port < 16
  | .lane0VigilTimeout => true
  | .ptpHoldExpiry => true
  | .neighbourRefresh port address => port < 16 && address.length == 16
  | .updateQuiesceTimeout => true
  | .folsetUpdateReady => true
  | .folsetSwitchTimeout => true
  | .probationEnd => true
  | .glfSwitchComplete _ => true
  | .traceFreeze => true
  | .stemStatusFrame _ => true
  | .mtrRequestTimeout account => account < 2 ^ 20
  | .pciePerstRelease => true
  | .vigilExitComplete => true
  | .folsetSramError _ => true

end Sys2Proof
end

