-- ==== Sys2Proof/Tests/Slice0.lean ====
section
/-!
SUPPORT. For each clause of each obligation that has hypotheses, a state and operands that meet them all, at the end of their ranges where
the clause bounds them (`test_o<obligation>_<clause>`); and for each check of WellFormed, commands that it refuses and commands at its bounds.
-/

open Sys2Proof Sys2Proof.Machine
namespace Sys2Proof.Tests
set_option Elab.async false

/-- A WARDEN session of the host, which every column but METROLOGIST and SERVICE takes. -/
def warden : Session :=
  { handle := 1, role := .warden, principal := 1, pending := false, challenge := [], hostEph := [], moduleEph := [], idleS := 900, lastUsed := 0 }

/-- A METROLOGIST session. -/
def metrologist : Session := { warden with handle := 2, role := .metrologist, principal := 2 }

/-- A SERVICE session. -/
def servicer : Session := { warden with handle := 3, role := .service, principal := 3 }

/-- A slot copy of a credential for principal `p` of every role, an Ed25519 key. -/
def cred : SlotCopy := { material := List.replicate 64 1, attr := 2 + 4 * 2 ^ 4 + 0x40 * 2 ^ 8 + 11 * 2 ^ 16 + 31 * 2 ^ 32 + 2 ^ 48 }

/-- A running module in FULL with its link up and Folset ready. -/
def up : State := { State.reset with
  pwr := { vigilOn := true, fieldOn := true, computeOn := true, mode := .full }
  host := { linkTraining := true, configRetry := false }
  fol := { ready := true, lifecycle := .sealed, sessions := [warden, metrologist, servicer] } }

/-- A request of a session over mailbox 0 with this payload. -/
def reqOf (session : Nat) (p : Bytes) : Request :=
  { via := .mailbox 0, tag := 7, length := p.length, flags := 0, session := session, reserved := 0, payload := p }

/-- A request of the WARDEN session. -/
def req (p : Bytes) : Request := reqOf 1 p

/-- The 20 digits of a token of account 9 under a master key of ones. -/
def token : Bytes := [0x30, 0x30, 0x30, 0x30, 0x30, 0x34, 0x39, 0x32, 0x35, 0x38, 0x36, 0x36, 0x35, 0x30, 0x30, 0x35, 0x33, 0x38, 0x30, 0x37]


/-- A master key of this purpose, under the number 128 + purpose. -/
def master (purpose : Nat) : Nat × Slot :=
  (128 + purpose, { a := { material := List.replicate 64 1, attr := 4 + 6 * 2 ^ 4 + 4 * 2 ^ 8 + purpose * 2 ^ 16 + 2 ^ 48 } })

/-- `up` with the master keys of the meters, the bridges, the groups, the tokens, the cards and the mirror. -/
def keyed : State := { up with vlt := { up.vlt with slots := up.vlt.slots ++ [1, 2, 3, 4, 5, 9].map master } }

/-- The key of a handle in `keyed`. -/
def keyOf (h : KeyHandle) : Bytes := ((keyFor 0 h keyed).1).getD []

/-- The first session epoch of a bridge. -/
def epoch1 : StemEpoch := { epoch := 1 }

/-- Bridge 8191, online with a locked clock. -/
def bridge1 : Bridge := { phase := .online, config := { serial := 77 }, current := some epoch1, timeLocked := true }

/-- A single module that serves bridge 8191. -/
def stemmed : State := { keyed with
  stem := { bridges := [(8191, bridge1)] }, duty := { role := .single, holding := true }, time := { gliris := 10000000 } }

/-- An uplink of bridge 8191 with this payload, before its tag. -/
def uplink (type epoch stamp : Nat) (payload : Bytes) : Bytes :=
  le 1 1 ++ le 1 type ++ le 2 8191 ++ le 2 payload.length ++ zeros 2 ++ le 4 epoch ++ le 4 1 ++ le 4 stamp ++ payload

/-- An uplink with a tag of zeros. -/
def untagged (type epoch stamp : Nat) (payload : Bytes) : Bytes := uplink type epoch stamp payload ++ zeros 16

/-- An uplink with the tag of its epoch's key. -/
def tagged (type epoch stamp : Nat) (payload : Bytes) : Bytes :=
  uplink type epoch stamp payload ++ gcmTag (keyOf (epochHandle 8191 bridge1 epoch1)) (stemNonce 0 type 8191 1 stamp) (uplink type epoch stamp payload) []

/-- The ledger with account 9 active at this place. -/
def account9 (bridge node : Nat) (radio : Bool) : LedgerState :=
  { record := { frontier := 1 }
    accounts := [(9, { a := { stamp := 1, record := { number := 9, phase := .active, meter := bridge + 8192 * node + (if radio then 2 ^ 22 else 0) } } })] }

/-- A radio frame of bridge 8191. -/
def radio (type node : Nat) (rest : Bytes) : Bytes :=
  le 1 (64 + type) ++ le 2 8191 ++ le 2 node ++ le 4 5 ++ zeros 4 ++ rest

/-- A power line frame of network 8191 for the bridge. -/
def plc (type src : Nat) : Bytes := le 1 type ++ le 2 8191 ++ le 2 0x3FF ++ le 2 src ++ zeros 1 ++ le 4 1 ++ le 1 3 ++ zeros 2 ++ zeros 8

/-- No engine of class 0 is under test at reset. -/
theorem engines_idle (j : Nat) : (engineAt up 0 j).testing = false := by
  have h : ∀ (n j : Nat), ((List.replicate n ({} : Engine)).getD j {}).testing = false := by
    intro n j; simp [List.getD_eq_getElem?_getD, List.getElem?_replicate]; split <;> rfl
  exact h 32 j

/-- The handle of the mirror link's key in the duty epoch 0 of the peer 8. -/
def mirrorKey : KeyHandle := .mirror 0 8 0

/-- A standby with the mirror port up and in step with its peer 8. -/
def standby : State := { keyed with
  duty := { role := .standby, sync := .inSync, contact := true, peerSerial := 8 }
  lnk := { grouping := 2, ports := List.replicate 12 {} ++ [{ phase := .up }] } }

/-- A sealed mirror frame of this type with this payload, from the odd slot. -/
def mirrored (type : Nat) (p : Bytes) : Bytes :=
  let key := ((keyFor 5 mirrorKey keyed).1).getD []
  let head := le 1 type ++ zeros 1 ++ le 2 p.length ++ zeros 4 ++ le 1 1 ++ le 7 5
  let ct := gcmCrypt key (head.drop 4) p
  head ++ ct ++ gcmTag key (head.drop 4) head ct

/-- The head of a RECORD frame of the satellite at position 15, of window 6 and counter epoch 3. -/
def recordHead15 : Bytes :=
  le 1 2 ++ le 1 0 ++ le 2 488 ++ zeros 4 ++ le 1 15 ++ le 1 0 ++ le 2 3 ++ zeros 4 ++ le 8 6
/-- Its bytes before the check sum, the readings all zero. -/
def recordBytes15 : Bytes :=
  recordHead15 ++ (zeros 59 ++ (zeros 59 ++ (zeros 59 ++ (zeros 59 ++ (zeros 59 ++ (zeros 59 ++ (zeros 59 ++ zeros 59)))))))
/-- The frame. -/
def recordFrame15 : Bytes := recordBytes15 ++ le 4 96150991

theorem crc_head15 : recordHead15.foldl crcByte 0xFFFFFFFF = 2588207075 := by decide +kernel
theorem crc_zeros0 : (zeros 59).foldl crcByte 2588207075 = 1338979073 := by decide +kernel
theorem crc_zeros1 : (zeros 59).foldl crcByte 1338979073 = 1783368021 := by decide +kernel
theorem crc_zeros2 : (zeros 59).foldl crcByte 1783368021 = 763319288 := by decide +kernel
theorem crc_zeros3 : (zeros 59).foldl crcByte 763319288 = 375935193 := by decide +kernel
theorem crc_zeros4 : (zeros 59).foldl crcByte 375935193 = 846740888 := by decide +kernel
theorem crc_zeros5 : (zeros 59).foldl crcByte 846740888 = 2561608754 := by decide +kernel
theorem crc_zeros6 : (zeros 59).foldl crcByte 2561608754 = 1317019551 := by decide +kernel
theorem crc_zeros7 : (zeros 59).foldl crcByte 1317019551 = 4198816304 := by decide +kernel
theorem fold_append {a b c : Nat} {x y : Bytes} (h : x.foldl crcByte a = b) (k : y.foldl crcByte b = c) : (x ++ y).foldl crcByte a = c := by
  rw [List.foldl_append, h, k]
theorem crc_of {a : Nat} {x : Bytes} (h : x.foldl crcByte 0xFFFFFFFF = a) : crc32 x = a ^^^ 0xFFFFFFFF := by rw [crc32, h]
theorem record15_fold : recordBytes15.foldl crcByte 0xFFFFFFFF = 4198816304 :=
  fold_append crc_head15 (fold_append crc_zeros0 (fold_append crc_zeros1 (fold_append crc_zeros2 (fold_append crc_zeros3
    (fold_append crc_zeros4 (fold_append crc_zeros5 (fold_append crc_zeros6 crc_zeros7)))))))
/-- Its check sum, taken a part at a time. -/
theorem crc_record15 : crc32 recordBytes15 = 96150991 := (crc_of record15_fold).trans (by decide +kernel)
theorem record15_take : recordFrame15.take 496 = recordBytes15 := by decide +kernel
theorem record15_good : recordFrame recordFrame15 ≠ none := by
  have c : (rd recordFrame15 496 4 == crc32 (recordFrame15.take 496)) = true := by rw [record15_take, crc_record15]; decide +kernel
  have k : (decide (recordFrame15.length = 500) && rd recordFrame15 0 1 == 2 && rd recordFrame15 2 2 == 488) = true := by decide +kernel
  unfold recordFrame
  rw [c, k]
  exact fun h => nomatch h

/-! ## Well-formed commands -/

/-- An Announce received on a port group. -/
def announce0 (port : Nat) : Announce :=
  { clockClass := 6, port := port, domain := 24, accuracy := 0, variance := 0, priority2 := 0, identity := 0, steps := 0, utcOffset := 37, utcValid := true, leap59 := false, leap61 := false }

/-- One request ill formed in each of its fields. -/
theorem test_ill_formed_requests :
    ([{ reqOf 1 [] with via := .mailbox 32 },
      { reqOf 1 [] with via := .udp (2 ^ 64) },
      { reqOf 1 [] with tag := 65536 },
      { reqOf 1 [] with length := 65536 },
      { reqOf 1 [] with flags := 65536 },
      { reqOf 1 [] with session := 2 ^ 32 },
      { reqOf 1 [] with reserved := 2 ^ 32 },
      { reqOf 1 [] with payload := zeros 241 }] : List Request).all (fun rq => !(Instr.sysIdentify rq).wellFormed) = true := by decide +kernel

/-- A request with every field at the end of its range is well formed. -/
theorem test_well_formed_request :
    (Instr.sysIdentify { via := .mailbox 31, tag := 65535, length := 65535, flags := 65535, session := 2 ^ 32 - 1, reserved := 2 ^ 32 - 1, payload := zeros 240 }).wellFormed = true := by
  decide +kernel

/-- Commands ill formed in one operand, 1: each just outside its bound. -/
theorem test_ill_formed_commands_1 :
    ([.ptpAnnounceRx (announce0 4),
      .jornyTail 2,
      .jornyLoad 256 0,
      .jornyLoad 0 (2 ^ 32),
      .jornyLoadBlock (2 ^ 32) [] 0,
      .jornyLoadBlock 0 [] (2 ^ 32),
      .mboxRequestWrite 32 0 [],
      .mboxRequestWrite 0 241 (zeros 16),
      .mboxRing (2 ^ 32),
      .mboxDoneClear (2 ^ 32) 0,
      .mboxDoneClear 0 (2 ^ 32),
      .intStatusClear (2 ^ 32) 0,
      .intStatusClear 0 (2 ^ 32),
      .strmTailWrite 8 0,
      .strmTailWrite 0 (2 ^ 32),
      .strmDataAccess 8 none,
      .strmDataAccess 0 (some (2 ^ 64)),
      .streamFrameAccess 8 0 0 0 none,
      .streamFrameAccess 0 32 0 0 none,
      .streamFrameAccess 0 0 4095 2 none,
      .streamFrameAccess 0 0 0 8 (some (zeros 7)),
      .reservedBarAccess (2 ^ 20) false,
      .registerWrite (2 ^ 20) 0,
      .registerWrite 0 (2 ^ 32),
      .intHoldoffExpiry 32,
      .sessionIdleTimeout (2 ^ 32),
      .sessionPendingTimeout (2 ^ 32),
      .udpEventResend (2 ^ 32) 0,
      .streamPageAbandon 8,
      .streamPageStall 8,
      .streamPushStall 8,
      .streamReceiveTimeout 8,
      .railFailPowerDown 4 0,
      .railFailPowerDown 0 9,
      .railStartTimeout 3,
      .thermalCancel 5,
      .ptpSyncRx 4 0,
      .announceTimeout 4,
      .tickStart { groupTemps := [0, 0, 0] },
      .tickStart { windows := [{ channel := 64, samples := List.replicate 32 0 }] },
      .tickStart { windows := [{ channel := 63, samples := List.replicate 31 0 }] },
      .invocationDispatch 1024,
      .sliceBoundary 1024 0,
      .sliceBoundary 0 1000,
      .invocationComplete 1024] : List Instr).all (fun i => !i.wellFormed) = true := by decide +kernel

/-- Commands ill formed in one operand, 2: each just outside its bound. -/
theorem test_ill_formed_commands_2 :
    ([.pageFetchComplete 1024,
      .watchdogExpiry 1024,
      .deadlineMiss 256,
      .floretSramError 1024 0,
      .floretSramError 0 4,
      .umbelHeartbeat 64 0 0,
      .umbelHeartbeat 0 (2 ^ 32) 0,
      .heartbeatLoss 64,
      .fenceDrainComplete 64,
      .umbelTestResult 64 false,
      .staleEpochRequest 64 0 false,
      .staleEpochRequest 0 (2 ^ 32) false,
      .arbiterDecision 5 [] 0 false,
      .arbiterDecision 0 [{ requester := 16, beats := 1 }] 0 false,
      .arbWait 5 0,
      .arbWait 0 16,
      .dramEccError (0xC00000000) false none,
      .dramEccError 0 false (some 1024),
      .lstoreReadError (2 ^ 30) false,
      .accountRestoreStandby (2 ^ 20) (zeros 244),
      .accountRestoreStandby 0 (zeros 243),
      .demandBoundary 32 0,
      .demandBoundary 0 4,
      .ringRecordRx 2 1 (zeros 500),
      .ringRecordRx 0 0 (zeros 500),
      .ringRecordRx 0 3 (zeros 500),
      .ringRecordRx 0 1 (zeros 499),
      .ringStatusRx 2 0 0,
      .ringStatusRx 0 256 0,
      .ringStatusRx 0 0 17,
      .ringLossOfSignal 2 0,
      .ringLossOfSignal 0 17,
      .ringLinkRestored 2 0,
      .ringLinkRestored 0 17,
      .enumerationComplete 2 [] [],
      .enumerationComplete 0 [{ position := 16, serial := 0, firmware := [], hopDelayNs := 0 }] [],
      .enumerationComplete 0 [] [17],
      .recordMissing 2 0,
      .recordMissing 0 16,
      .satelliteUnreachable 2 0,
      .satelliteUnreachable 0 16,
      .tickMarkMissing 2 0,
      .tickMarkMissing 0 16,
      .selftestStepStart 36,
      .selftestPhaseEnd 36 false] : List Instr).all (fun i => !i.wellFormed) = true := by decide +kernel

/-- Commands ill formed in one operand, 3: each just outside its bound. -/
theorem test_ill_formed_commands_3 :
    ([.selftestPrimaryResult 36 false,
      .selftestSpareResult 36 false,
      .sealChange 0 false,
      .sealChange 17 false,
      .windowSettleDeadline 8192 0,
      .stemJoin 16 (zeros 16) (zeros 16) [],
      .stemJoin 0 (zeros 15) (zeros 16) [],
      .stemJoin 0 (zeros 16) (zeros 17) [],
      .holeRepairRetry 8192 0,
      .holeRepairRetry 0 3,
      .holeWaitExpiry 8192 0,
      .holeWaitExpiry 0 2,
      .bridgeSilence 8192,
      .bridgeLost 8192,
      .rekeyDue 8192,
      .keepaliveDue 8192,
      .plcResponseRx 8192 0 0 0 [],
      .plcResponseRx 0 0 8 0 [],
      .plcAlertRx 8192 0 0 0 [],
      .plcAlertRx 0 0 8 0 [],
      .plcDiscoverReplyRx 8192 0 0,
      .plcTransactionFail 8192 0 0,
      .discoverPeriod 8192,
      .beaconDue 8192,
      .rfAdvertRx 8192 0 0 0 [],
      .rfAdvertRx 0 64 0 0 [],
      .rfConnectionEvent 8192 0,
      .rfAnswerRx 8192 0 [],
      .rfEventMissed 8192 0,
      .rfSupervisionExpiry 8192 0,
      .rfAlertRx 8192 0 [],
      .sepalReading (2 ^ 20),
      .sepalCreditAck (2 ^ 20),
      .sepalEvent (2 ^ 20),
      .sepalToken (2 ^ 20),
      .sepalEmergencyReq (2 ^ 20),
      .sepalIdentity (2 ^ 20),
      .sepalKeyAck (2 ^ 20),
      .sepalFwStatus (2 ^ 20),
      .sepalSendGiveup (2 ^ 20),
      .fwCampaignActivate (2 ^ 32),
      .pilotChange 16 0,
      .pilotChange 0 8,
      .ppChange 16 0,
      .chgLinkEstablished 16 [] false] : List Instr).all (fun i => !i.wellFormed) = true := by decide +kernel

/-- Commands ill formed in one operand, 4: each just outside its bound. -/
theorem test_ill_formed_commands_4 :
    ([.chgLinkLost 16,
      .linkRetryEnd 16,
      .v2gMessageRx 16 .stop,
      .authTimeout 16,
      .preparationComplete 16,
      .stoppingComplete 16,
      .stoppingOpenTimeout 16,
      .pauseContactorTimeout 16,
      .pauseLimit 16,
      .cardPollDwell 4,
      .cardDetected 4 0,
      .cardResponse 4 [],
      .cardTimeout 4,
      .converterFeedbackRx 4 0 [],
      .converterFeedbackRx 0 2048 [],
      .converterFeedbackRx 0 0 (zeros 65),
      .converterLost 4 0,
      .converterLost 0 128,
      .meteringStale 16,
      .acOvercurrent 16 0,
      .rcmTrip 16 false 0,
      .rcmSelftestResult 16 false,
      .insulationValue 16 0,
      .contactorCloseTimeout 16,
      .contactorWelded 16,
      .tripPilotFEnd 16,
      .directPinEdge 8 false,
      .lsAccumulatorUpdate (List.replicate 49 0) 0,
      .lsShortCircuit 48,
      .lsOverTemperature 48,
      .lsRampTimeout 48,
      .lsOpenLoad 48,
      .testPulseGap 4,
      .testPulseOverload 4,
      .testPulseRetry 4,
      .safetyInputSample 16 0 0,
      .safetyInputSample 0 65536 0,
      .safetyInputSample 0 0 65536,
      .safetyInputRelease 16,
      .safetyInputDiscrepancy 16,
      .soOffPulse 16 false,
      .soFailedOpen 16,
      .soExternallyFed 16,
      .soFeedCleared 16,
      .panelBusyReleased 2] : List Instr).all (fun i => !i.wellFormed) = true := by decide +kernel

/-- Commands ill formed in one operand, 5: each just outside its bound. -/
theorem test_ill_formed_commands_5 :
    ([.panelBusyTimeout 2,
      .panelRailFault 2,
      .panelDrawComplete 2,
      .panelOffDelay 2,
      .tamperSample (List.replicate 4 true) 0,
      .keyRequest 7 0 (.token 0),
      .keyRequest 0 32 (.token 0),
      .cryptoRequest 7 0 false,
      .cryptoRequest 0 32 false,
      .engineSelftestStart 7 0,
      .engineSelftestStart 0 32,
      .engineSelftestResult 7 0 false,
      .engineSelftestResult 0 32 false,
      .ethernetFrameRx 16 [],
      .portLinkUp 16,
      .portLinkFault 16,
      .portTrainingTimeout 16,
      .portHoldExpiry 16,
      .fecRatioCheck 16 0 0 0 0,
      .neighbourRefresh 16 (zeros 16),
      .neighbourRefresh 0 (zeros 15),
      .mtrRequestTimeout (2 ^ 20)] : List Instr).all (fun i => !i.wellFormed) = true := by decide +kernel

/-- Commands with every bounded operand at its bound, 1. -/
theorem test_well_formed_commands_1 :
    ([.jornyTail 1,
      .jornyLoad 255 (2 ^ 32 - 1),
      .jornyLoadBlock (2 ^ 32 - 1) [] (2 ^ 32 - 1),
      .mboxRequestWrite 31 0 [],
      .mboxRing (2 ^ 32 - 1),
      .mboxDoneClear (2 ^ 32 - 1) (2 ^ 32 - 1),
      .intStatusClear (2 ^ 32 - 1) (2 ^ 32 - 1),
      .strmTailWrite 7 (2 ^ 32 - 1),
      .strmDataAccess 7 none,
      .streamFrameAccess 7 31 0 0 none,
      .reservedBarAccess (2 ^ 20 - 1) false,
      .registerWrite (2 ^ 20 - 1) (2 ^ 32 - 1),
      .intHoldoffExpiry 31,
      .sessionIdleTimeout (2 ^ 32 - 1),
      .sessionPendingTimeout (2 ^ 32 - 1),
      .udpEventResend (2 ^ 32 - 1) 0,
      .streamPageAbandon 7,
      .streamPageStall 7,
      .streamPushStall 7,
      .streamReceiveTimeout 7,
      .railFailPowerDown 3 8,
      .railStartTimeout 2,
      .thermalCancel 4,
      .ptpSyncRx 3 0,
      .ptpAnnounceRx (announce0 3),
      .announceTimeout 3,
      .tickStart {},
      .invocationDispatch 1023,
      .sliceBoundary 1023 999,
      .invocationComplete 1023,
      .pageFetchComplete 1023,
      .watchdogExpiry 1023,
      .deadlineMiss 255,
      .floretSramError 1023 3,
      .umbelHeartbeat 63 (2 ^ 32 - 1) 0,
      .heartbeatLoss 63,
      .fenceDrainComplete 63,
      .umbelTestResult 63 false,
      .staleEpochRequest 63 (2 ^ 32 - 1) false,
      .arbiterDecision 4 [] 0 false,
      .arbWait 4 15,
      .dramEccError (0xC00000000 - 1) false none,
      .lstoreReadError (2 ^ 30 - 1) false,
      .accountRestoreStandby (2 ^ 20 - 1) (zeros 244),
      .demandBoundary 31 3] : List Instr).all (fun i => i.wellFormed) = true := by decide +kernel

/-- Commands with every bounded operand at its bound, 2. -/
theorem test_well_formed_commands_2 :
    ([.ringRecordRx 1 2 (zeros 500),
      .ringStatusRx 1 255 16,
      .ringLossOfSignal 1 16,
      .ringLinkRestored 1 16,
      .enumerationComplete 1 [] [],
      .recordMissing 1 15,
      .satelliteUnreachable 1 15,
      .tickMarkMissing 1 15,
      .selftestStepStart 35,
      .selftestPhaseEnd 35 false,
      .selftestPrimaryResult 35 false,
      .selftestSpareResult 35 false,
      .sealChange 16 false,
      .windowSettleDeadline 8191 0,
      .stemJoin 15 (zeros 16) (zeros 16) [],
      .holeRepairRetry 8191 2,
      .holeWaitExpiry 8191 1,
      .bridgeSilence 8191,
      .bridgeLost 8191,
      .rekeyDue 8191,
      .keepaliveDue 8191,
      .plcResponseRx 8191 0 7 0 [],
      .plcAlertRx 8191 0 7 0 [],
      .plcDiscoverReplyRx 8191 0 0,
      .plcTransactionFail 8191 0 0,
      .discoverPeriod 8191,
      .beaconDue 8191,
      .rfAdvertRx 8191 63 0 0 [],
      .rfConnectionEvent 8191 0,
      .rfAnswerRx 8191 0 [],
      .rfEventMissed 8191 0,
      .rfSupervisionExpiry 8191 0,
      .rfAlertRx 8191 0 [],
      .sepalReading (2 ^ 20 - 1),
      .sepalCreditAck (2 ^ 20 - 1),
      .sepalEvent (2 ^ 20 - 1),
      .sepalToken (2 ^ 20 - 1),
      .sepalEmergencyReq (2 ^ 20 - 1),
      .sepalIdentity (2 ^ 20 - 1),
      .sepalKeyAck (2 ^ 20 - 1),
      .sepalFwStatus (2 ^ 20 - 1),
      .sepalSendGiveup (2 ^ 20 - 1),
      .fwCampaignActivate (2 ^ 32 - 1),
      .pilotChange 15 7,
      .ppChange 15 0] : List Instr).all (fun i => i.wellFormed) = true := by decide +kernel

/-- Commands with every bounded operand at its bound, 3. -/
theorem test_well_formed_commands_3 :
    ([.chgLinkEstablished 15 [] false,
      .chgLinkLost 15,
      .linkRetryEnd 15,
      .v2gMessageRx 15 .stop,
      .authTimeout 15,
      .preparationComplete 15,
      .stoppingComplete 15,
      .stoppingOpenTimeout 15,
      .pauseContactorTimeout 15,
      .pauseLimit 15,
      .cardPollDwell 3,
      .cardDetected 3 0,
      .cardResponse 3 [],
      .cardTimeout 3,
      .converterFeedbackRx 3 2047 [],
      .converterLost 3 127,
      .meteringStale 15,
      .acOvercurrent 15 0,
      .rcmTrip 15 false 0,
      .rcmSelftestResult 15 false,
      .insulationValue 15 0,
      .contactorCloseTimeout 15,
      .contactorWelded 15,
      .tripPilotFEnd 15,
      .directPinEdge 7 false,
      .lsAccumulatorUpdate [] 0,
      .lsShortCircuit 47,
      .lsOverTemperature 47,
      .lsRampTimeout 47,
      .lsOpenLoad 47,
      .testPulseGap 3,
      .testPulseOverload 3,
      .testPulseRetry 3,
      .safetyInputSample 15 65535 65535,
      .safetyInputRelease 15,
      .safetyInputDiscrepancy 15,
      .soOffPulse 15 false,
      .soFailedOpen 15,
      .soExternallyFed 15,
      .soFeedCleared 15,
      .panelBusyReleased 1,
      .panelBusyTimeout 1,
      .panelRailFault 1,
      .panelDrawComplete 1,
      .panelOffDelay 1] : List Instr).all (fun i => i.wellFormed) = true := by decide +kernel

/-- Commands with every bounded operand at its bound, 4. -/
theorem test_well_formed_commands_4 :
    ([.tamperSample (List.replicate 5 true) 0,
      .keyRequest 6 31 (.token 0),
      .cryptoRequest 6 31 false,
      .engineSelftestStart 6 31,
      .engineSelftestResult 6 31 false,
      .ethernetFrameRx 15 [],
      .portLinkUp 15,
      .portLinkFault 15,
      .portTrainingTimeout 15,
      .portHoldExpiry 15,
      .fecRatioCheck 15 0 0 0 0,
      .neighbourRefresh 15 (zeros 16),
      .mtrRequestTimeout (2 ^ 20 - 1)] : List Instr).all (fun i => i.wellFormed) = true := by decide +kernel

/-! ## O1, StepServesTheFront -/

theorem test_o1_1 : ∃ (s : State), ∃ (c : Instr), ∃ (rest : List Instr), s.pending = c :: rest :=
  ⟨{ up with pending := [.faultNPulseEnd, .ppsLoss] }, .faultNPulseEnd, [.ppsLoss], rfl⟩

theorem test_o1_2 : ∃ (s : State), s.pending = [] :=
  ⟨up, rfl⟩

/-! ## O3, EveryStepKeepsTheInvariant -/

theorem test_o3_1 : ∃ (s t : State), Invariant s ∧ step s = .next t :=
  ⟨{ up with pending := [.faultNPulseEnd, .ppsLoss] }, { up with pending := [.ppsLoss], flt := { up.flt with faultnPulse := false } }, ⟨by unfold Invariant; decide +kernel, rfl⟩⟩

/-! ## O5, CommandsTouchOnlyTheirParts -/

theorem test_o5_1 : ∃ (i : Instr), ∃ (s t : State), exec i s = .next t :=
  ⟨.faultNPulseEnd, up, { up with flt := { up.flt with faultnPulse := false } }, rfl⟩

/-! ## O6, RefusedRequestsHaveNoEffect -/

theorem test_o6_1 : ∃ (i : Instr), ∃ (c : Cmd), ∃ (rq : Request), ∃ (k : Nat), ∃ (s : State), requestOf i = some (c, rq) ∧ rq.via = .mailbox k ∧ k < 32 ∧ pcieUp s = true ∧ mailboxPhase s k = .busy :=
  ⟨(.yrwStatus (reqOf 1 [])), cmdYrwStatus, reqOf 1 [], 0, { up with host := { up.host with owner := 1 } }, ⟨rfl, by decide +kernel⟩⟩

theorem test_o6_2 : ∃ (i : Instr), ∃ (c : Cmd), ∃ (rq : Request), ∃ (k : Nat), ∃ (s : State), ∃ st d, requestOf i = some (c, rq) ∧ Rung rq k s ∧ taking s = true ∧ validate c { opcode := c.opcode, request := rq } s = some (st, d) :=
  ⟨(.yrwLoad (req [0])), cmdYrwLoad, req [0], 0, up, stBadLength, 4, ⟨rfl, by unfold Rung; decide +kernel⟩⟩

theorem test_o6_3 : ∃ (i : Instr), ∃ (c : Cmd), ∃ (rq : Request), ∃ (k : Nat), ∃ (s : State), requestOf i = some (c, rq) ∧ Rung rq k s ∧ taking s = true ∧ rq.isDry = true ∧ c.stream = false ∧ (∀ o ∈ s.fol.outstanding, o.ref ≠ s.fol.nextRef) :=
  ⟨(.memArbSet { req (zeros 168) with flags := 4 }), cmdMemArbSet, { req (zeros 168) with flags := 4 }, 0, up, ⟨rfl, by unfold Rung; decide +kernel⟩⟩

theorem test_o6_4 : ∃ (i : Instr), ∃ (c : Cmd), ∃ (rq : Request), ∃ (k : Nat), ∃ (s : State), requestOf i = some (c, rq) ∧ Rung rq k s ∧ taking s = false ∧ c.opcode ≠ 0x0100 :=
  ⟨(.yrwStatus (reqOf 1 [])), cmdYrwStatus, reqOf 1 [], 0, { up with fol := { up.fol with ready := false } }, ⟨rfl, by unfold Rung; decide +kernel⟩⟩

/-! ## O7, DoorbellServesTheRow -/

theorem test_o7_1 : ∃ (i : Instr), ∃ (c : Cmd), ∃ (rq : Request), ∃ (k : Nat), ∃ (s : State), requestOf i = some (c, rq) ∧ Rung rq k s ∧ taking s = true ∧ s.fol.waiting = [] ∧ parseRequest (.mailbox k) (rq.bytes c.opcode) = (c.opcode, rq) :=
  ⟨(.fltRead ({ req (le 1 5 ++ zeros 239) with length := 4 })), cmdFltRead, { req (le 1 5 ++ zeros 239) with length := 4 }, 0, up, ⟨rfl, by unfold Rung; decide +kernel⟩⟩

/-! ## O8, ReadsRefuseWhatDoesNotExist -/

theorem test_o8_1 : ∃ (s : State), ∃ (rq : Request), ∃ (k : Nat), Served cmdYrwCatalogue rq k s ∧ kernels.length ≤ arg rq 0 1 :=
  ⟨up, req (le 1 kernels.length ++ zeros 3), 0, by unfold Served; decide +kernel⟩

theorem test_o8_2 : ∃ (s : State), ∃ (rq : Request), ∃ (k : Nat), Served cmdYrwWorkloadStats rq k s ∧ arg rq 1 3 = 0 ∧ (∀ w ∈ s.yrw.workloads, w.id ≠ arg rq 0 1) :=
  ⟨up, req (le 1 255 ++ zeros 3), 0, by unfold Served; decide +kernel⟩

theorem test_o8_3 : ∃ (s : State), ∃ (rq : Request), ∃ (k : Nat), Served cmdFltRead rq k s ∧ arg rq 1 3 = 0 ∧ sourceClass (arg rq 0 1) = none :=
  ⟨up, req (le 1 0x07 ++ zeros 3), 0, by unfold Served; decide +kernel⟩

theorem test_o8_4 : ∃ (s : State), ∃ (rq : Request), ∃ (k : Nat), Served cmdLnkPortRead rq k s ∧ portExists s (arg rq 0 1) = false :=
  ⟨up, req (le 1 16 ++ zeros 3), 0, by unfold Served; decide +kernel⟩

/-! ## O9, IdentityAndScrappedAreFinal -/

theorem test_o9_1 : ∃ (i : Instr), ∃ (s t : State), exec i s = .next t :=
  ⟨.faultNPulseEnd, up, { up with flt := { up.flt with faultnPulse := false } }, rfl⟩

/-! ## O10, SystemCommandsTakeEffect -/

theorem test_o10_1 : ∃ (s : State), ∃ (rq : Request), ∃ (k : Nat), Served cmdSysIdentify rq k s :=
  ⟨up, reqOf 1 [], 0, by unfold Served; decide +kernel⟩

theorem test_o10_2 : ∃ (s : State), ∃ (rq : Request), ∃ (k : Nat), ∃ role cred, Served cmdSysSessionOpen rq k s ∧ roleOf (arg rq 0 1) = some role ∧ arg rq 1 1 ≤ 63 ∧ arg rq 2 2 = 0 ∧ arg rq 4 4 = 0 ∧ (slice rq.args 8 64).all (· == 0) = true ∧ roleOpens s.fol.lifecycle role = true ∧ principalFor s (arg rq 1 1) role false = some cred ∧ s.fol.sessions.length < 16 ∧ (keyFor (folsetClass 1 s) (.stored 12 0) s).1.isSome = true :=
  ⟨{ up with vlt := { up.vlt with slots := (5, { a := cred }) :: up.vlt.slots } }, req (le 1 3 ++ le 1 5 ++ zeros 70), 0, .warden, cred, by unfold Served; decide +kernel⟩

theorem test_o10_3 : ∃ (s : State), ∃ (rq : Request), ∃ (k : Nat), ∃ x cred, Served cmdSysSessionAuth rq k s ∧ findSession s rq.session = some x ∧ x.pending = true ∧ x.udp = none ∧ credential s x.principal = some cred ∧ attrType cred.attr = 4 ∧ arg rq 0 1 = 64 ∧ arg rq 1 3 = 0 ∧ (rq.args.drop 68).all (· == 0) = true ∧ (engineWork (folsetClass 1 s) s).1 = true :=
  ⟨{ up with vlt := { up.vlt with slots := (5, { a := cred }) :: up.vlt.slots }, fol := { up.fol with sessions := [{ warden with handle := 9, principal := 5, pending := true }] } }, reqOf 9 (le 1 64 ++ zeros 99), 0, { warden with handle := 9, principal := 5, pending := true }, cred, by unfold Served; decide +kernel⟩

theorem test_o10_4 : ∃ (s : State), ∃ (rq : Request), ∃ (k : Nat), Served cmdSysSessionClose rq k s ∧ arg rq 0 4 ≠ 0 ∧ arg rq 0 4 ≠ rq.session ∧ (findSession s (arg rq 0 4)).isSome = true ∧ (∃ x, findSession s rq.session = some x ∧ x.role = .warden) :=
  ⟨up, req (le 4 2), 0, ⟨by unfold Served; decide +kernel, by decide +kernel, by decide +kernel, by decide +kernel, warden, by decide +kernel⟩⟩

theorem test_o10_5 : ∃ (s : State), ∃ (rq : Request), ∃ (k : Nat), Served cmdSysSessionClose rq k s ∧ arg rq 0 4 = 0 :=
  ⟨up, req (le 4 0), 0, by unfold Served; decide +kernel⟩

theorem test_o10_6 : ∃ (s : State), ∃ (rq : Request), ∃ (k : Nat), Served cmdSysStreamConfig rq k s ∧ 1 ≤ arg rq 0 1 ∧ arg rq 0 1 ≤ 7 ∧ arg rq 0 1 < s.host.channels.length ∧ arg rq 1 1 = 1 ∧ (chan s (arg rq 0 1)).dir ≠ .fromHost ∧ arg rq 2 1 ≤ 1 ∧ arg rq 3 1 = 0 ∧ arg rq 4 4 = 0 ∧ arg rq 8 8 % 4096 = 0 ∧ 32 ≤ arg rq 16 2 ∧ arg rq 16 2 ≤ 4096 ∧ popcount (arg rq 16 2) 16 = 1 ∧ arg rq 18 6 = 0 ∧ arg rq 24 8 % 8 = 0 ∧ channelIdle s (arg rq 0 1) = true :=
  ⟨up, req (le 1 7 ++ le 1 1 ++ le 1 1 ++ le 1 0 ++ le 4 0 ++ le 8 4096 ++ le 2 32 ++ zeros 6 ++ le 8 8), 0, by unfold Served; decide +kernel⟩

theorem test_o10_7 : ∃ (s : State), ∃ (rq : Request), ∃ (k : Nat), ∃ b, Served cmdSysLifecycle rq k s ∧ arg rq 0 1 = s.fol.lifecycle.code ∧ lifecycleOf (arg rq 1 1) = some b ∧ lifecycleMove s.fol.lifecycle b = true ∧ arg rq 2 6 = 0 ∧ arg rq 8 8 = s.host.serial ∧ (s.duty.holding = true → b ≠ .service ∧ b ≠ .scrapped) :=
  ⟨up, req (le 1 2 ++ le 1 3 ++ zeros 6 ++ le 8 0), 0, .service, by unfold Served; decide +kernel⟩

theorem test_o10_8 : ∃ (s : State), ∃ (rq : Request), ∃ (k : Nat), Served cmdSysPowerMode rq k s ∧ arg rq 0 1 ≤ 3 ∧ arg rq 1 1 ≤ 2 ∧ arg rq 2 2 ≤ 3600 ∧ (arg rq 4 2 = 0 ∨ (400 ≤ arg rq 4 2 ∧ arg rq 4 2 ≤ 520)) ∧ arg rq 6 2 = 0 ∧ (arg rq 8 8 = 0 ∨ now s + 10000 ≤ arg rq 8 8) ∧ (arg rq 0 1 = 3 → s.pwr.mode ≠ .starting) :=
  ⟨up, req (le 1 3 ++ le 1 2 ++ le 2 3600 ++ le 2 520 ++ le 2 0 ++ le 8 10000), 0, by unfold Served; decide +kernel⟩

theorem test_o10_9 : ∃ (s : State), ∃ (rq : Request), ∃ (k : Nat), Served cmdSysPowerStatus rq k s :=
  ⟨up, reqOf 1 [], 0, by unfold Served; decide +kernel⟩

/-! ## O11, TimeCommandsTakeEffect -/

theorem test_o11_1 : ∃ (s : State), ∃ (rq : Request), ∃ (k : Nat), Served cmdTimeStatus rq k s ∧ s.time.tickTrust = .traceable :=
  ⟨{ up with time := { tickTrust := .traceable } }, reqOf 1 [], 0, by unfold Served; decide +kernel⟩

theorem test_o11_2 : ∃ (s : State), ∃ (rq : Request), ∃ (k : Nat), Served cmdTimeConfig rq k s ∧ arg rq 0 1 ≤ 3 ∧ 24 ≤ arg rq 1 1 ∧ arg rq 1 1 ≤ 43 ∧ arg rq 2 1 < 16 ∧ (arg rq 2 1 = 0 → arg rq 0 1 ≠ 2) ∧ arg rq 3 1 = 0 ∧ (readTimeConfig rq.args).localPriority.all (· != 0) = true ∧ arg rq 8 4 ≤ 1000000 ∧ 1 ≤ arg rq 12 2 ∧ arg rq 12 2 ≤ 1000 ∧ arg rq 14 2 = 0 :=
  ⟨up, req (le 1 3 ++ le 1 43 ++ le 1 15 ++ le 1 0 ++ le 4 0x01010101 ++ le 4 1000000 ++ le 2 1000 ++ le 2 0), 0, by unfold Served; decide +kernel⟩

theorem test_o11_3 : ∃ (s : State), ∃ (rq : Request), ∃ (k : Nat), ∃ d, Served cmdTimeStep rq k s ∧ arg rq 0 1 = 0 ∧ arg rq 1 1 = 1 ∧ arg rq 2 6 = 0 ∧ s.time.pendingStep = some d ∧ rdS rq.args 8 8 = d :=
  ⟨{ up with time := { pendingStep := some (-5) } }, req (le 1 0 ++ le 1 1 ++ zeros 6 ++ le 8 (2^64-5)), 0, (-5), by unfold Served; decide +kernel⟩

theorem test_o11_4 : ∃ (s : State), ∃ (rq : Request), ∃ (k : Nat), ∃ d, Served cmdTimeStep rq k s ∧ arg rq 0 1 = 1 ∧ arg rq 1 1 ≤ 1 ∧ arg rq 2 6 = 0 ∧ s.time.pendingStep = some d ∧ rdS rq.args 8 8 = d :=
  ⟨{ up with time := { pendingStep := some 5 } }, req (le 1 1 ++ le 1 0 ++ zeros 6 ++ le 8 5), 0, 5, by unfold Served; decide +kernel⟩

theorem test_o11_5 : ∃ (s : State), ∃ (rq : Request), ∃ (k : Nat), Served cmdTimeStep rq k s ∧ arg rq 0 1 = 2 ∧ arg rq 1 1 = 1 ∧ arg rq 2 6 = 0 ∧ arg rq 8 8 < 2 ^ 63 ∧ s.time.ptp.qualified = false ∧ s.time.pps.qualified = false ∧ s.time.trust = .untrusted :=
  ⟨up, req (le 1 2 ++ le 1 1 ++ zeros 6 ++ le 8 (2^63-1)), 0, by unfold Served; decide +kernel⟩

theorem test_o11_6 : ∃ (s : State), ∃ (rq : Request), ∃ (k : Nat), ∃ tick, Served cmdTimeCivil rq k s ∧ activationTick (.civil (readCivil rq.args)) (roundTick (arg rq 0 8)) s = some tick ∧ (readCivil rq.args).utcOffsetS ≤ 255 ∧ (readCivil rq.args).leapKind = 0 ∧ leapEndOk (readCivil rq.args) = true ∧ (readCivil rq.args).dstDeltaMin = 0 ∧ (dstRuleChecks false rq.args 22 26 ++ dstRuleChecks false rq.args 28 32).all (·.2.2) = true ∧ -720 ≤ (readCivil rq.args).stdOffsetMin ∧ (readCivil rq.args).stdOffsetMin ≤ 840 ∧ arg rq 34 2 = 0 ∧ armBusy (.civil (readCivil rq.args)) s = false :=
  ⟨up, req (le 8 2 ++ le 2 37 ++ zeros 24 ++ zeros 2), 0, 2048, by unfold Served; decide +kernel⟩

theorem test_o11_7 : ∃ (s : State), ∃ (rq : Request), ∃ (k : Nat), Served cmdTimeTicks rq k s :=
  ⟨up, reqOf 1 [], 0, by unfold Served; decide +kernel⟩

/-! ## O12, YarrowReadsAnswer -/

theorem test_o12_1 : ∃ (s : State), ∃ (rq : Request), ∃ (k : Nat), Served cmdYrwStatus rq k s :=
  ⟨up, reqOf 1 [], 0, by unfold Served; decide +kernel⟩

theorem test_o12_2 : ∃ (s : State), ∃ (rq : Request), ∃ (k : Nat), ∃ x, Served cmdYrwCatalogue rq k s ∧ arg rq 0 1 < kernels.length ∧ arg rq 1 3 = 0 ∧ kernels[arg rq 0 1]? = some x :=
  ⟨up, req (le 1 0 ++ zeros 3), 0, kernels[0], by unfold Served; decide +kernel⟩

theorem test_o12_3 : ∃ (s : State), ∃ (rq : Request), ∃ (k : Nat), Served cmdYrwLoad rq k s :=
  ⟨up, reqOf 1 [], 0, by unfold Served; decide +kernel⟩

theorem test_o12_4 : ∃ (s : State), ∃ (rq : Request), ∃ (k : Nat), Served cmdYrwWorkloadStats rq k s ∧ arg rq 1 3 = 0 ∧ s.yrw.workloads.any (fun y => y.id == arg rq 0 1) = true :=
  ⟨{ up with yrw := { workloads := [{ id := 200, cls := .tick, kernel := 0x0101, rank := 1, units := 8192, deadlineUs := 800 }] } }, req (le 1 200 ++ zeros 3), 0, by unfold Served; decide +kernel⟩

theorem test_o12_5 : ∃ (s : State), ∃ (rq : Request), ∃ (k : Nat), ∃ (w : Workload), Served cmdYrwWorkloadRead rq k s ∧ arg rq 1 1 = 0 ∧ arg rq 2 2 = 0 ∧ s.yrw.workloads.find? (fun x => x.id == arg rq 0 1) = some w :=
  ⟨{ up with yrw := { workloads := [{ id := 200, cls := .tick, kernel := 0x0101, rank := 1, units := 8192, deadlineUs := 800 }] } }, req (le 1 200 ++ zeros 3), 0, { id := 200, cls := .tick, kernel := 0x0101, rank := 1, units := 8192, deadlineUs := 800 }, by unfold Served; decide +kernel⟩

theorem test_o12_6 : ∃ (s : State), ∃ (rq : Request), ∃ (k : Nat), Served cmdYrwUmbel rq k s ∧ arg rq 0 1 ≤ 63 ∧ arg rq 1 1 = 0 ∧ arg rq 2 6 = 0 :=
  ⟨up, req (le 1 63 ++ le 1 0 ++ zeros 6), 0, by unfold Served; decide +kernel⟩

/-! ## O13, YarrowSettingsTakeEffect -/

theorem test_o13_1 : ∃ (s : State), ∃ (rq : Request), ∃ (k : Nat), Served cmdYrwWorkloadArm rq k s ∧ 1 ≤ arg rq 0 1 ∧ arg rq 0 1 ≤ 7 ∧ 1 ≤ arg rq 2 2 ∧ arg rq 2 2 ≤ 256 ∧ arg rq 4 4 ≠ 0 ∧ (activationTick (.workload []) (roundTick (arg rq 8 8)) s).isSome = true ∧ (groupCheck rq.args 1 20).2.2 = true ∧ arg rq 21 3 = 0 ∧ armBusy (.workload []) s = false ∧ channelIdle s (arg rq 0 1) = true ∧ arg rq 0 1 < s.host.channels.length :=
  ⟨up, req (le 1 7 ++ le 1 0 ++ le 2 256 ++ le 4 1 ++ le 8 0 ++ zeros 8), 0, by unfold Served; decide +kernel⟩

theorem test_o13_2 : ∃ (s : State), ∃ (rq : Request), ∃ (k : Nat), ∃ tick, Served cmdYrwParamSet rq k s ∧ arg rq 0 2 ≤ 1023 ∧ (groupCheck rq.args 2 3).2.2 = true ∧ arg rq 4 4 = 0 ∧ activationTick (.param (arg rq 0 2) (slice rq.args 16 192)) (arg rq 8 8) s = some tick ∧ (findKernel (arg rq 16 2)).isSome = true ∧ 1 ≤ arg rq 19 1 ∧ arg rq 19 1 ≤ 184 ∧ arg rq 20 4 = 0 ∧ ((slice rq.args 16 192).drop (8 + arg rq 19 1)).all (· == 0) = true ∧ armBusy (.param (arg rq 0 2) (slice rq.args 16 192)) s = false :=
  ⟨up, req (le 2 1023 ++ le 1 0 ++ le 1 0 ++ le 4 0 ++ le 8 0 ++ le 2 0x0101 ++ le 1 0 ++ le 1 184 ++ le 4 0 ++ zeros 184), 0, earliest (.param 1023 (slice (req (le 2 1023 ++ le 1 0 ++ le 1 0 ++ le 4 0 ++ le 8 0 ++ le 2 0x0101 ++ le 1 0 ++ le 1 184 ++ le 4 0 ++ zeros 184)).args 16 192)) up, by unfold Served; decide +kernel⟩

theorem test_o13_3 : ∃ (s : State), ∃ (rq : Request), ∃ (k : Nat), Served cmdYrwSpares rq k s ∧ arg rq 0 1 ≤ 8 ∧ arg rq 1 1 ≤ 1 ∧ arg rq 2 6 = 0 ∧ sumMin s.yrw.workloads ≤ floretRoom s (arg rq 0 1) :=
  ⟨up, req (le 1 8 ++ le 1 1 ++ zeros 6), 0, by unfold Served; decide +kernel⟩

theorem test_o13_4 : ∃ (s : State), ∃ (rq : Request), ∃ (k : Nat), Served cmdYrwUmbel rq k s ∧ arg rq 0 1 ≤ 63 ∧ arg rq 0 1 < s.yrw.umbels.length ∧ arg rq 1 1 = 1 ∧ arg rq 2 6 = 0 ∧ (umbel s (arg rq 0 1)).phase = .fenced :=
  ⟨{ up with yrw := { umbels := List.replicate 63 {} ++ [{ phase := .fenced }] } }, req (le 1 63 ++ le 1 1 ++ zeros 6), 0, by unfold Served; decide +kernel⟩

theorem test_o13_5 : ∃ (s : State), ∃ (rq : Request), ∃ (k : Nat), Served cmdYrwUmbel rq k s ∧ arg rq 0 1 ≤ 63 ∧ arg rq 0 1 < s.yrw.umbels.length ∧ arg rq 1 1 = 2 ∧ arg rq 2 6 = 0 ∧ (umbel s (arg rq 0 1)).phase = .fenced ∨ (umbel s (arg rq 0 1)).phase = .retired :=
  ⟨{ up with yrw := { umbels := List.replicate 63 {} ++ [{ phase := .retired }] } }, req (le 1 63 ++ le 1 2 ++ zeros 6), 0, by unfold Served; decide +kernel⟩

theorem test_o13_6 : ∃ (s : State), ∃ (rq : Request), ∃ (k : Nat), Served cmdYrwUmbel rq k s ∧ arg rq 0 1 ≤ 63 ∧ arg rq 0 1 < s.yrw.umbels.length ∧ arg rq 1 1 = 3 ∧ arg rq 2 6 = 0 ∧ (umbel s (arg rq 0 1)).phase = .spare ∧ (umbel s (arg rq 0 1)).testResult ≠ 3 :=
  ⟨{ up with yrw := { umbels := List.replicate 63 {} ++ [{ phase := .spare }] } }, req (le 1 63 ++ le 1 3 ++ zeros 6), 0, by unfold Served; decide +kernel⟩

theorem test_o13_7 : ∃ (s : State), ∃ (rq : Request), ∃ (k : Nat), ∃ (img : StagedImage), ∃ x, Served cmdYrwKernelRoll rq k s ∧ findKernel (arg rq 0 2) = some x ∧ arg rq 2 1 = 0 ∧ arg rq 3 1 ≤ 7 ∧ 1 ≤ arg rq 4 1 ∧ arg rq 4 1 ≤ 16 ∧ 1 ≤ arg rq 5 1 ∧ arg rq 6 2 ≤ 1024 ∧ (x.isSealed = true → sealClosed s 2 = false) ∧ s.yrw.roll = none ∧ Tab.get (buildBank s).staged (arg rq 3 1) = some img ∧ img.kernel = arg rq 0 2 ∧ img.hashGood = true ∧ img.version / 256 = (kernelVersion s (arg rq 0 2)).version / 256 :=
  ⟨{ up with mem := { bankB := { staged := [(7, { kernel := 0x0101, version := 0x0101, security := 0, hash := [], hashGood := true })] } } }, req (le 2 0x0101 ++ le 1 0 ++ le 1 7 ++ le 1 16 ++ le 1 1 ++ le 2 1024), 0, { kernel := 0x0101, version := 0x0101, security := 0, hash := [], hashGood := true }, kernels[0], by unfold Served; decide +kernel⟩

/-! ## O14, MemoryAndDutyCommandsTakeEffect -/

theorem test_o14_1 : ∃ (s : State), ∃ (rq : Request), ∃ (k : Nat), Served cmdMemStatus rq k s :=
  ⟨up, reqOf 1 [], 0, by unfold Served; decide +kernel⟩

theorem test_o14_2 : ∃ (s : State), ∃ (rq : Request), ∃ (k : Nat), Served cmdMemArbRead rq k s ∧ arg rq 0 1 ≤ 4 ∧ arg rq 1 1 = 0 ∧ arg rq 2 2 = 0 :=
  ⟨up, req (le 1 4 ++ zeros 3), 0, by unfold Served; decide +kernel⟩

theorem test_o14_3 : ∃ (s : State), ∃ (rq : Request), ∃ (k : Nat), ∃ (x : ArbTable), Served cmdMemArbRead rq k s ∧ arg rq 0 1 ≤ 4 ∧ arg rq 1 1 = 1 ∧ arg rq 2 2 = 0 ∧ (arbiter s (arg rq 0 1)).pending = some x :=
  ⟨{ up with mem := { arbiters := [{}, { pending := some { slots := [], burst := [], ranking := [], waitUs := 10 } }] } }, req (le 1 1 ++ le 1 1 ++ le 2 0), 0, { slots := [], burst := [], ranking := [], waitUs := 10 }, by unfold Served; decide +kernel⟩

theorem test_o14_4 : ∃ (s : State), ∃ (rq : Request), ∃ (k : Nat), Served cmdMemArbSet rq k s ∧ arg rq 8 8 = 0 ∧ arg rq 0 1 ≤ 4 ∧ arg rq 1 3 = 0 ∧ (arg rq 4 4 = 0 ∨ (10 ≤ arg rq 4 4 ∧ arg rq 4 4 ≤ 1000000)) ∧ (∀ r ∈ (arbTableOf rq.args 0).slots, r < (requesters (arg rq 0 1)).length ∨ r = 15) ∧ (requesters (arg rq 0 1)).zipIdx.all (fun x => x.1.gap == 0 || gapKept (arbTableOf rq.args 0).slots x.2 x.1.gap) = true ∧ (∀ i, i < 16 → (if i < (requesters (arg rq 0 1)).length then 1 ≤ (arbTableOf rq.args 0).burst.getD i 0 ∧ (arbTableOf rq.args 0).burst.getD i 0 ≤ 64 else (arbTableOf rq.args 0).burst.getD i 0 = 0)) ∧ (∀ r ∈ (arbTableOf rq.args 0).ranking, r < (requesters (arg rq 0 1)).length) ∧ (arbTableOf rq.args 0).ranking.Nodup ∧ (arbiter s (arg rq 0 1)).pending = none :=
  ⟨up, req (le 1 1 ++ zeros 3 ++ le 4 10 ++ le 8 0 ++ zeros 128 ++ le 1 64 ++ le 1 64 ++ le 1 64 ++ le 1 64 ++ zeros 12 ++ le 8 0xFFFFFFFFFFFF3210), 0, by unfold Served; decide +kernel⟩

theorem test_o14_5 : ∃ (s : State), ∃ (rq : Request), ∃ (k : Nat), Served cmdMemArbStats rq k s ∧ arg rq 0 1 ≤ 4 ∧ arg rq 1 1 < (requesters (arg rq 0 1)).length ∧ arg rq 1 1 ≤ 14 ∧ arg rq 2 2 = 0 :=
  ⟨up, req (le 1 4 ++ le 1 1 ++ le 2 0), 0, by unfold Served; decide +kernel⟩

theorem test_o14_6 : ∃ (s : State), ∃ (rq : Request), ∃ (k : Nat), Served cmdDutyStatus rq k s :=
  ⟨up, reqOf 1 [], 0, by unfold Served; decide +kernel⟩

theorem test_o14_7 : ∃ (s : State), ∃ (rq : Request), ∃ (k : Nat), Served cmdDutyYield rq k s ∧ arg rq 4 4 = 0 ∧ arg rq 0 4 = epochNow s ∧ s.duty.role = .duty ∧ s.duty.sync = .inSync ∧ s.duty.ownLow = true ∧ s.duty.singleNext = false :=
  ⟨{ up with duty := { role := .duty, sync := .inSync, ownLow := true, epoch := 3 } }, req (le 4 3 ++ le 4 0), 0, by unfold Served; decide +kernel⟩

theorem test_o14_8 : ∃ (s : State), ∃ (rq : Request), ∃ (k : Nat), Served cmdDutyTakeover rq k s ∧ arg rq 4 4 = 0 ∧ arg rq 0 4 = s.duty.peerEpoch ∧ s.duty.role = .standby ∧ mayClaim (setDuty (fun d => { d with forced := true }) s) = true :=
  ⟨{ up with duty := { role := .standby, peerEpoch := 3 } }, req (le 4 3 ++ le 4 0), 0, by unfold Served; decide +kernel⟩

theorem test_o14_9 : ∃ (s : State), ∃ (rq : Request), ∃ (k : Nat), Served cmdDutyResync rq k s ∧ arg rq 0 1 ≤ 1 ∧ arg rq 1 3 = 0 ∧ arg rq 4 4 = s.duty.peerEpoch ∧ s.duty.role = .standby ∧ s.duty.contact = true ∧ s.duty.sync = .outOfSync :=
  ⟨{ up with duty := { role := .standby, peerEpoch := 3, contact := true, sync := .outOfSync } }, req (le 1 0 ++ zeros 3 ++ le 4 3), 0, by unfold Served; decide +kernel⟩

/-! ## O15, MetrologyCommandsAnswer -/

theorem test_o15_1 : ∃ (s : State), ∃ (rq : Request), ∃ (k : Nat), Served cmdMetStatus rq k s :=
  ⟨up, reqOf 1 [], 0, by unfold Served; decide +kernel⟩

theorem test_o15_2 : ∃ (s : State), ∃ (rq : Request), ∃ (k : Nat), ∃ (e : CalSet), Served cmdMetSetRead rq k s ∧ arg rq 0 1 ≤ 31 ∧ arg rq 1 3 = 0 ∧ calSet s.met.calib (arg rq 0 1) = some e :=
  ⟨{ up with met := { calib := { sets := [{ set := 31, kind := 1 }], channels := [{ channel := 63, sensor := 1 }, { channel := 64, sensor := 1 }] } } }, req (le 1 31 ++ zeros 3), 0, { set := 31, kind := 1 }, by unfold Served; decide +kernel⟩

theorem test_o15_3 : ∃ (s : State), ∃ (rq : Request), ∃ (k : Nat), Served cmdMetChannelRead rq k s ∧ arg rq 0 1 ≤ 191 ∧ arg rq 1 3 = 0 ∧ (calChannel s.met.calib (arg rq 0 1)).isSome = true ∧ channelReachable s (arg rq 0 1) = true :=
  ⟨{ up with met := { calib := { sets := [{ set := 31, kind := 1 }], channels := [{ channel := 63, sensor := 1 }, { channel := 64, sensor := 1 }] } } }, req (le 1 63 ++ zeros 3), 0, by unfold Served; decide +kernel⟩

theorem test_o15_4 : ∃ (s : State), ∃ (rq : Request), ∃ (k : Nat), Served cmdMetRingStatus rq k s ∧ arg rq 0 1 ≤ 1 ∧ arg rq 1 3 = 0 :=
  ⟨up, req (le 1 1 ++ zeros 3), 0, by unfold Served; decide +kernel⟩

theorem test_o15_5 : ∃ (s : State), ∃ (rq : Request), ∃ (k : Nat), Served cmdMetCalArm rq k s ∧ 1 ≤ arg rq 0 1 ∧ arg rq 0 1 ≤ 7 ∧ arg rq 1 3 = 0 ∧ arg rq 4 4 ≠ 0 ∧ (activationTick (.calib {}) (arg rq 8 8) s).isSome = true ∧ 64 ≤ arg rq 16 4 ∧ arg rq 16 4 ≤ 26176 ∧ sealClosed s 1 = false ∧ armBusy (.calib {}) s = false ∧ channelIdle s (arg rq 0 1) = true ∧ arg rq 0 1 < s.host.channels.length :=
  ⟨{ up with met := { calib := { sets := [{ set := 31, kind := 1 }], channels := [{ channel := 63, sensor := 1 }, { channel := 64, sensor := 1 }] } } }, reqOf 2 (le 1 7 ++ zeros 3 ++ le 4 1 ++ le 8 0 ++ le 4 64 ++ le 4 0), 0, by unfold Served; decide +kernel⟩

theorem test_o15_6 : ∃ (s : State), ∃ (rq : Request), ∃ (k : Nat), Served cmdMetCalArm rq k s ∧ 1 ≤ arg rq 0 1 ∧ arg rq 0 1 ≤ 7 ∧ arg rq 1 3 = 0 ∧ arg rq 4 4 ≠ 0 ∧ (activationTick (.calib {}) (arg rq 8 8) s).isSome = true ∧ 64 ≤ arg rq 16 4 ∧ arg rq 16 4 ≤ 26176 ∧ sealClosed s 1 = true :=
  ⟨{ up with met := { calib := { sets := [{ set := 31, kind := 1 }], channels := [{ channel := 63, sensor := 1 }, { channel := 64, sensor := 1 }] } }, seals := { sensed := true :: List.replicate 15 false } }, reqOf 2 (le 1 7 ++ zeros 3 ++ le 4 1 ++ le 8 0 ++ le 4 26176 ++ le 4 0), 0, by unfold Served; decide +kernel⟩

theorem test_o15_7 : ∃ (s : State), ∃ (rq : Request), ∃ (k : Nat), Served cmdMetCalCapture rq k s ∧ (∀ i, i < 8 → arg rq i 1 ≤ 191 ∨ arg rq i 1 = 0xFF) ∧ (∀ i, i < 8 → ∀ j, j < i → arg rq i 1 = 0xFF ∨ arg rq j 1 ≠ arg rq i 1) ∧ arg rq 8 1 ≠ 0xFF ∧ (∃ i, i < 8 ∧ arg rq i 1 = arg rq 8 1) ∧ arg rq 9 1 = 0 ∧ 1 ≤ arg rq 10 2 ∧ arg rq 10 2 ≤ 1024 ∧ sealClosed s 1 = false ∧ s.met.capture = none ∧ (∀ i, i < 8 → arg rq i 1 ≠ 0xFF → (calChannel s.met.calib (arg rq i 1)).isSome = true ∧ channelReachable s (arg rq i 1) = true) :=
  ⟨{ up with met := { calib := { sets := [{ set := 31, kind := 1 }], channels := [{ channel := 63, sensor := 1 }, { channel := 64, sensor := 1 }] } } }, reqOf 2 (le 1 63 ++ le 1 0xFF ++ le 1 0xFF ++ le 1 0xFF ++ le 1 0xFF ++ le 1 0xFF ++ le 1 0xFF ++ le 1 0xFF ++ le 1 63 ++ le 1 0 ++ le 2 1024 ++ le 4 0), 0, by unfold Served; decide +kernel⟩

theorem test_o15_8 : ∃ (s : State), ∃ (rq : Request), ∃ (k : Nat), ∃ (e : CalSet), Served cmdMetDemandSet rq k s ∧ arg rq 0 1 ≤ 31 ∧ arg rq 1 1 ≤ 3 ∧ arg rq 2 1 ≤ 4 ∧ calSet s.met.calib (arg rq 0 1) = some e ∧ (e.kind = 4 → arg rq 2 1 ≠ 2 ∧ arg rq 2 1 ≠ 3) ∧ demandIntervals.contains (arg rq 3 1) = true ∧ 1 ≤ arg rq 4 1 ∧ arg rq 4 1 ≤ 15 ∧ 60 * arg rq 3 1 % arg rq 4 1 = 0 ∧ arg rq 5 3 = 0 :=
  ⟨{ up with met := { calib := { sets := [{ set := 31, kind := 1 }], channels := [{ channel := 63, sensor := 1 }, { channel := 64, sensor := 1 }] } } }, req (le 1 31 ++ le 1 3 ++ le 1 4 ++ le 1 60 ++ le 1 15 ++ zeros 3), 0, { set := 31, kind := 1 }, by unfold Served; decide +kernel⟩

theorem test_o15_9 : ∃ (s : State), ∃ (rq : Request), ∃ (k : Nat), Served cmdMetDemandReset rq k s ∧ arg rq 0 1 ≤ 31 ∧ arg rq 1 1 < 16 ∧ arg rq 1 1 ≠ 0 ∧ arg rq 2 2 = 0 ∧ (calSet s.met.calib (arg rq 0 1)).isSome = true ∧ (∀ i, i < 4 → (arg rq 1 1).testBit i = true → (Tab.get (metSet s (arg rq 0 1)).demand i).isSome = true) :=
  ⟨{ up with met := { calib := { sets := [{ set := 31, kind := 1 }], channels := [{ channel := 63, sensor := 1 }, { channel := 64, sensor := 1 }] }, sets := List.replicate 31 {} ++ [{ demand := [(3, { quantity := 0, intervalMin := 15, subCount := 1 })] }] } }, req (le 1 31 ++ le 1 8 ++ le 2 0), 0, by unfold Served; decide +kernel⟩

theorem test_o15_10 : ∃ (s : State), ∃ (rq : Request), ∃ (k : Nat), Served cmdMetAuditRead rq k s ∧ arg rq 0 4 < s.met.auditSeq ∧ auditOldest s ≤ arg rq 0 4 ∧ 1 ≤ arg rq 4 1 ∧ arg rq 4 1 ≤ 7 ∧ arg rq 5 3 = 0 :=
  ⟨{ up with met := { auditSeq := 1, audit := [{ seq := 0, kind := 1, principal := 1, role := 3, tick := 0, calibId := 0, kernelSetId := 0, data := [] }] } }, req (le 4 0 ++ le 1 7 ++ zeros 3), 0, by unfold Served; decide +kernel⟩

/-! ## O16, LedgerReadsAnswer -/

theorem test_o16_1 : ∃ (s : State), ∃ (rq : Request), ∃ (k : Nat), Served cmdLedStatus rq k s :=
  ⟨up, reqOf 1 [], 0, by unfold Served; decide +kernel⟩

theorem test_o16_2 : ∃ (s : State), ∃ (rq : Request), ∃ (k : Nat), Served cmdLedAccountRead rq k s ∧ arg rq 0 4 < 2 ^ 20 ∧ arg rq 4 1 = 0 ∧ arg rq 5 3 = 0 ∧ accountDamaged s (arg rq 0 4) = false :=
  ⟨up, req (le 4 0xFFFFF ++ le 1 0 ++ zeros 3), 0, by unfold Served; decide +kernel⟩

theorem test_o16_3 : ∃ (s : State), ∃ (rq : Request), ∃ (k : Nat), Served cmdLedAccountRead rq k s ∧ arg rq 0 4 < 2 ^ 20 ∧ (arg rq 4 1 = 1 ∨ arg rq 4 1 = 2) ∧ arg rq 5 3 = 0 ∧ accountDamaged s (arg rq 0 4) = false :=
  ⟨up, req (le 4 0xFFFFF ++ le 1 2 ++ zeros 3), 0, by unfold Served; decide +kernel⟩

theorem test_o16_4 : ∃ (s : State), ∃ (rq : Request), ∃ (k : Nat), ∃ (r : LocalRec), Served cmdLedLocalRead rq k s ∧ arg rq 0 1 ≤ 31 ∧ arg rq 1 1 ≤ 5 ∧ arg rq 2 2 = 0 ∧ committedLocal s (arg rq 0 1) = some r :=
  ⟨{ up with led := { record := { frontier := 1 }, locals := [(31, { a := { stamp := 1 } })] } }, req (le 1 31 ++ le 1 5 ++ le 2 0), 0, {}, by unfold Served; decide +kernel⟩

theorem test_o16_5 : ∃ (s : State), ∃ (rq : Request), ∃ (k : Nat), Served cmdLedJournalRead rq k s ∧ 1 ≤ arg rq 0 1 ∧ arg rq 0 1 ≤ 7 ∧ arg rq 1 3 = 0 ∧ arg rq 4 4 ≠ 0 ∧ 1 ≤ arg rq 12 4 ∧ arg rq 12 4 ≤ 4194304 ∧ (∃ e ∈ s.led.journal, e.seq = arg rq 8 4) ∧ channelIdle s (arg rq 0 1) = true ∧ arg rq 0 1 < s.host.channels.length :=
  ⟨{ up with led := { journal := [{ seq := 4, kind := 1, len := 0, tick := 0, offset := 0, data := [] }], jseq := 5 } }, req (le 1 7 ++ zeros 3 ++ le 4 1 ++ le 4 4 ++ le 4 4194304), 0, by unfold Served; decide +kernel⟩

/-! ## O17, LedgerOrdersAreAccepted -/

theorem test_o17_1 : ∃ (s : State), ∃ (rq : Request), ∃ (k : Nat), Served cmdLedAccountSet rq k s ∧ firstFail (accountSetChecks rq.args s) = none ∧ accountSetReady (committedAccount s (arg rq 0 4)) (accountDamaged s (arg rq 0 4)) (arg rq 4 1) = true :=
  ⟨up, req (le 4 0xFFFFF ++ le 1 0 ++ le 1 0 ++ zeros 34), 0, by unfold Served; decide +kernel⟩

theorem test_o17_2 : ∃ (s : State), ∃ (rq : Request), ∃ (k : Nat), Served cmdLedAdjust rq k s ∧ arg rq 0 4 < 2 ^ 20 ∧ arg rq 4 6 ≠ 0 ∧ accountReady s (arg rq 0 4) = true :=
  ⟨{ up with led := { record := { frontier := 1 }, accounts := [(9, { a := { stamp := 1, record := { number := 9, phase := .active } } })] } }, req (le 4 9 ++ le 6 1 ++ zeros 10), 0, by unfold Served; decide +kernel⟩

theorem test_o17_3 : ∃ (s : State), ∃ (rq : Request), ∃ (k : Nat), Served cmdLedSupply rq k s ∧ arg rq 0 4 < 2 ^ 20 ∧ arg rq 4 1 ≤ 3 ∧ arg rq 5 3 = 0 ∧ accountReady s (arg rq 0 4) = true :=
  ⟨{ up with led := { record := { frontier := 1 }, accounts := [(9, { a := { stamp := 1, record := { number := 9, phase := .active } } })] } }, req (le 4 9 ++ le 1 3 ++ zeros 3), 0, by unfold Served; decide +kernel⟩

theorem test_o17_4 : ∃ (s : State), ∃ (rq : Request), ∃ (k : Nat), Served cmdLedAccountRestore rq k s ∧ firstFail (imageChecks rq.args s) = none ∧ accountDamaged s (arg rq 0 4 % 2 ^ 20) = true :=
  ⟨{ up with led := { accounts := [(9, { damaged := true })] } }, req (le 4 0x100009 ++ zeros 236), 0, by unfold Served; decide +kernel⟩

theorem test_o17_5 : ∃ (s : State), ∃ (rq : Request), ∃ (k : Nat), Served cmdLedTokenSubmit rq k s ∧ arg rq 0 4 < 2 ^ 20 ∧ (slice rq.args 4 20).all isDigit = true ∧ arg rq 24 8 = 0 ∧ (tokenArrival (arg rq 0 4) (digitsValue (slice rq.args 4 20)) false s).1 = 0 ∧ tokensFull s = false :=
  ⟨{ up with vlt := { up.vlt with slots := (200, { a := { material := List.replicate 64 1, attr := 4 + 6 * 2 ^ 4 + 4 * 2 ^ 8 + 4 * 2 ^ 16 + 2 ^ 48 } }) :: up.vlt.slots } }, req (le 4 9 ++ (token) ++ zeros 8), 0, by unfold Served; decide +kernel⟩

theorem test_o17_6 : ∃ (s : State), ∃ (rq : Request), ∃ (k : Nat), Served cmdLedTariffArm rq k s ∧ 1 ≤ arg rq 0 1 ∧ arg rq 0 1 ≤ 7 ∧ (groupCheck rq.args 1 2).2.2 = true ∧ arg rq 3 1 = 0 ∧ arg rq 4 4 ≠ 0 ∧ (activationTick (.tariff {}) (roundTick (arg rq 8 8)) s).isSome = true ∧ 64 ≤ arg rq 16 4 ∧ arg rq 16 4 ≤ 34208 ∧ armBusy (.tariff {}) s = false ∧ channelIdle s (arg rq 0 1) = true ∧ arg rq 0 1 < s.host.channels.length :=
  ⟨up, req (le 1 7 ++ le 1 0 ++ le 1 0 ++ le 1 0 ++ le 4 1 ++ le 8 0 ++ le 4 34208 ++ le 4 0), 0, by unfold Served; decide +kernel⟩

/-! ## O18, BalanceCommandsAnswer -/

theorem test_o18_1 : ∃ (s : State), ∃ (rq : Request), ∃ (k : Nat), Served cmdBalStatus rq k s :=
  ⟨up, reqOf 1 [], 0, by unfold Served; decide +kernel⟩

theorem test_o18_2 : ∃ (s : State), ∃ (rq : Request), ∃ (k : Nat), Served cmdBalModelArm rq k s ∧ 1 ≤ arg rq 0 1 ∧ arg rq 0 1 ≤ 7 ∧ (groupCheck rq.args 1 2).2.2 = true ∧ arg rq 3 1 = 0 ∧ arg rq 4 4 ≠ 0 ∧ (activationTick (.balModel {}) (roundTick (arg rq 8 8)) s).isSome = true ∧ 16 ≤ arg rq 16 4 ∧ arg rq 16 4 ≤ 262672 ∧ armBusy (.balModel {}) s = false ∧ channelIdle s (arg rq 0 1) = true ∧ arg rq 0 1 < s.host.channels.length :=
  ⟨up, req (le 1 7 ++ le 1 0 ++ le 1 0 ++ le 1 0 ++ le 4 1 ++ le 8 0 ++ le 4 262672 ++ le 4 0), 0, by unfold Served; decide +kernel⟩

theorem test_o18_3 : ∃ (s : State), ∃ (rq : Request), ∃ (k : Nat), Served cmdBalRulesSet rq k s ∧ firstFail (rulesChecks rq.args) = none ∧ armBusy (.rules (arg rq 0 1) (rulesOf rq.args)) s = false :=
  ⟨up, req (le 1 15 ++ le 1 127 ++ le 2 96 ++ le 2 672 ++ le 1 24 ++ le 1 24 ++ le 4 1000000 ++ le 4 0 ++ le 4 1000000 ++ le 4 0 ++ le 4 1000000 ++ le 4 0 ++ le 4 1000000 ++ le 2 1024 ++ le 2 1000 ++ le 4 1000000 ++ le 2 1440 ++ le 1 64 ++ le 1 24 ++ le 4 1000000 ++ le 4 0 ++ le 1 10 ++ zeros 7), 0, by unfold Served; decide +kernel⟩

theorem test_o18_4 : ∃ (s : State), ∃ (rq : Request), ∃ (k : Nat), Served cmdBalAttribute rq k s ∧ arg rq 0 2 ≤ 8191 ∧ arg rq 2 2 ≤ 511 ∧ arg rq 4 1 = 0 ∧ arg rq 5 1 ≤ 3 ∧ arg rq 6 2 = 0 ∧ (lastPin s (arg rq 0 2) (arg rq 2 2)).isSome = true ∨ pinCount s < 16384 :=
  ⟨up, req (le 2 8191 ++ le 2 511 ++ le 1 0 ++ le 1 3 ++ le 2 0), 0, by unfold Served; decide +kernel⟩

theorem test_o18_5 : ∃ (s : State), ∃ (rq : Request), ∃ (k : Nat), Served cmdBalAttribute rq k s ∧ arg rq 0 2 ≤ 8191 ∧ arg rq 2 2 ≤ 511 ∧ arg rq 4 1 = 1 ∧ arg rq 5 1 = 0 ∧ arg rq 6 2 = 0 ∧ (lastPin s (arg rq 0 2) (arg rq 2 2)).isSome = true :=
  ⟨{ up with bal := { pins := [{ bridge := 8191, node := 511, phase := some 2, from' := 0 }] } }, req (le 2 8191 ++ le 2 511 ++ le 1 1 ++ le 1 0 ++ le 2 0), 0, by unfold Served; decide +kernel⟩

theorem test_o18_6 : ∃ (s : State), ∃ (rq : Request), ∃ (k : Nat), ∃ r, Served cmdBalNetworkRead rq k s ∧ arg rq 0 2 ≤ 8191 ∧ arg rq 2 1 ≤ 3 ∧ arg rq 3 1 = 0 ∧ latestRecord s (arg rq 0 2) (arg rq 2 1) false = some r :=
  ⟨{ up with bal := { rounds := [{ round := 5, bridge := 8191 }] } }, req (le 2 8191 ++ le 1 0 ++ le 1 0), 0, roundBytes { round := 5, bridge := 8191 }, by unfold Served; decide +kernel⟩

theorem test_o18_7 : ∃ (s : State), ∃ (rq : Request), ∃ (k : Nat), Served cmdBalHistoryRead rq k s ∧ 1 ≤ arg rq 0 1 ∧ arg rq 0 1 ≤ 7 ∧ arg rq 1 1 ≤ 7 ∧ arg rq 4 4 ≠ 0 ∧ 1 ≤ arg rq 16 2 ∧ (arg rq 1 1 ≤ 3 → arg rq 2 2 + arg rq 16 2 ≤ 8192) ∧ (4 ≤ arg rq 1 1 → arg rq 1 1 ≤ 6 → arg rq 2 2 + arg rq 16 2 ≤ 16) ∧ (arg rq 1 1 = 7 → arg rq 2 2 + arg rq 16 2 ≤ 1) ∧ arg rq 18 2 = 0 ∧ 1 ≤ arg rq 20 4 ∧ arg rq 20 4 ≤ 16777216 ∧ channelIdle s (arg rq 0 1) = true ∧ arg rq 0 1 < s.host.channels.length :=
  ⟨up, req (le 1 7 ++ le 1 7 ++ le 2 0 ++ le 4 1 ++ le 8 0 ++ le 2 1 ++ le 2 0 ++ le 4 16777216), 0, by unfold Served; decide +kernel⟩

theorem test_o18_8 : ∃ (s : State), ∃ (rq : Request), ∃ (k : Nat), ∃ (x : Suspicion), Served cmdBalSuspicionRead rq k s ∧ findSuspicion s (arg rq 0 4) = some x :=
  ⟨{ up with bal := { suspicions := [{ id := 7, subject := 3, kind := 1, phase := 0, openedWindow := 1, lastWindow := 2 }] } }, req (le 4 7), 0, { id := 7, subject := 3, kind := 1, phase := 0, openedWindow := 1, lastWindow := 2 }, by unfold Served; decide +kernel⟩

theorem test_o18_9 : ∃ (s : State), ∃ (rq : Request), ∃ (k : Nat), ∃ (x : Suspicion), Served cmdBalSuspicionClose rq k s ∧ 1 ≤ arg rq 4 1 ∧ arg rq 4 1 ≤ 4 ∧ arg rq 5 3 = 0 ∧ findSuspicion s (arg rq 0 4) = some x ∧ x.state ≠ .closed :=
  ⟨{ up with bal := { suspicions := [{ id := 7, subject := 3, kind := 1, phase := 0, openedWindow := 1, lastWindow := 2 }] } }, req (le 4 7 ++ le 1 4 ++ zeros 11), 0, { id := 7, subject := 3, kind := 1, phase := 0, openedWindow := 1, lastWindow := 2 }, by unfold Served; decide +kernel⟩

/-! ## O19, StemCommandsTakeEffect -/

theorem test_o19_1 : ∃ (s : State), ∃ (rq : Request), ∃ (k : Nat), Served cmdStemStatus rq k s :=
  ⟨{ up with stem := { bridges := [(8191, { phase := .online, config := { serial := 77, lvSet := 0xFF } })] } }, reqOf 1 [], 0, by unfold Served; decide +kernel⟩

theorem test_o19_2 : ∃ (s : State), ∃ (rq : Request), ∃ (k : Nat), Served cmdStemBridgeSet rq k s ∧ arg rq 0 2 ≤ 8191 ∧ arg rq 2 1 ≤ 1 ∧ firstFail (bridgeConfigChecks rq.args s) = none ∧ (bridgeChange { bridge := arg rq 0 2, action := arg rq 2 1, config := readBridgeConfig rq.args } (bridgesAhead s)).isSome = true :=
  ⟨up, req (le 2 8191 ++ le 1 0 ++ le 1 0 ++ le 8 77 ++ le 1 15 ++ le 1 0xFF ++ le 1 7 ++ le 1 32 ++ le 2 255 ++ le 2 0), 0, by unfold Served; decide +kernel⟩

theorem test_o19_3 : ∃ (s : State), ∃ (rq : Request), ∃ (k : Nat), Served cmdStemBridgeSet rq k s ∧ arg rq 0 2 ≤ 8191 ∧ 2 ≤ arg rq 2 1 ∧ arg rq 2 1 ≤ 3 ∧ (∀ i, i < 20 → 3 ≤ i → arg rq i 1 = 0) ∧ arg rq 4 8 = 0 ∧ arg rq 16 2 = 0 ∧ arg rq 18 2 = 0 ∧ (bridgeChange { bridge := arg rq 0 2, action := arg rq 2 1, config := readBridgeConfig rq.args } (bridgesAhead s)).isSome = true :=
  ⟨{ up with stem := { bridges := [(8191, { phase := .online, config := { serial := 77, lvSet := 0xFF } })] } }, req (le 2 8191 ++ le 1 3 ++ zeros 17), 0, by unfold Served; decide +kernel⟩

theorem test_o19_4 : ∃ (s : State), ∃ (rq : Request), ∃ (k : Nat), ∃ tick, Served cmdStemTxSet rq k s ∧ 1 ≤ arg rq 2 2 ∧ arg rq 0 2 + arg rq 2 2 ≤ 8192 ∧ arg rq 4 1 < 16 ∧ arg rq 5 1 ≤ 31 ∧ arg rq 6 1 ≤ 31 ∧ arg rq 7 1 ≤ 31 ∧ activationTick (.txPlan []) (arg rq 8 8) s = some tick ∧ (groupCheck rq.args 16 17).2.2 = true ∧ arg rq 18 6 = 0 ∧ armBusy (.txPlan []) s = false ∧ pendingPlan s = none :=
  ⟨up, req (le 2 8191 ++ le 2 1 ++ le 1 15 ++ le 1 31 ++ le 1 31 ++ le 1 31 ++ le 8 0 ++ le 1 0 ++ le 1 0 ++ zeros 6), 0, earliest (.txPlan []) up, by unfold Served; decide +kernel⟩

theorem test_o19_5 : ∃ (s : State), ∃ (rq : Request), ∃ (k : Nat), Served cmdStemBridgeRead rq k s ∧ arg rq 0 2 ≤ 8191 ∧ arg rq 2 2 = 0 ∧ (bridgeAt s (arg rq 0 2)).phase ≠ .absent :=
  ⟨{ up with stem := { bridges := [(8191, { phase := .online, config := { serial := 77, lvSet := 0xFF } })] } }, req (le 2 8191 ++ le 2 0), 0, by unfold Served; decide +kernel⟩

theorem test_o19_6 : ∃ (s : State), ∃ (rq : Request), ∃ (k : Nat), ∃ tick, Served cmdPlcPollSet rq k s ∧ arg rq 0 1 ≤ 15 ∧ 1 ≤ arg rq 1 1 ∧ arg rq 1 1 ≤ 8 ∧ arg rq 2 1 ≤ 3 ∧ arg rq 3 1 ≤ 3 ∧ 300 ≤ arg rq 4 2 ∧ arg rq 4 2 ≤ 3600 ∧ 10 ≤ arg rq 6 2 ∧ arg rq 6 2 ≤ 600 ∧ 60 ≤ arg rq 8 4 ∧ arg rq 8 4 ≤ 86400 ∧ arg rq 12 1 ≤ 8 ∧ arg rq 13 3 = 0 ∧ arg rq 16 5 < 2 ^ 36 ∧ 18 ≤ popcount (arg rq 16 5) 36 ∧ arg rq 21 3 = 0 ∧ armBusy (.plcProfile (arg rq 0 1) {}) s = false ∧ activationTick (.plcProfile (arg rq 0 1) {}) 0 s = some tick :=
  ⟨up, req (le 1 15 ++ le 1 8 ++ le 1 3 ++ le 1 3 ++ le 2 3600 ++ le 2 600 ++ le 4 86400 ++ le 1 8 ++ zeros 3 ++ le 5 0x3FFFF ++ zeros 3), 0, earliest (.plcProfile 15 {}) up, by unfold Served; decide +kernel⟩

theorem test_o19_7 : ∃ (s : State), ∃ (rq : Request), ∃ (k : Nat), Served cmdPlcNetworkRead rq k s ∧ arg rq 0 2 ≤ 8191 ∧ arg rq 2 2 = 0 ∧ (bridgeAt s (arg rq 0 2)).phase ≠ .absent ∧ (bridgeAt s (arg rq 0 2)).config.streams.testBit 0 = true :=
  ⟨{ up with stem := { bridges := [(8191, { phase := .online, config := { serial := 77, lvSet := 0xFF } })] } }, req (le 2 8191 ++ le 2 0), 0, by unfold Served; decide +kernel⟩

theorem test_o19_8 : ∃ (s : State), ∃ (rq : Request), ∃ (k : Nat), Served cmdPlcNodeRead rq k s ∧ arg rq 0 2 ≤ 8191 ∧ arg rq 2 2 ≤ 511 ∧ (bridgeAt s (arg rq 0 2)).phase ≠ .absent :=
  ⟨{ up with stem := { bridges := [(8191, { phase := .online, config := { serial := 77, lvSet := 0xFF } })] } }, req (le 2 8191 ++ le 2 511), 0, by unfold Served; decide +kernel⟩

/-! ## O20, MeterCommandsTakeEffect -/

theorem test_o20_1 : ∃ (s : State), ∃ (rq : Request), ∃ (k : Nat), ∃ tick, Served cmdRfNetworkSet rq k s ∧ arg rq 0 2 ≤ 8191 ∧ arg rq 2 1 = 0 ∧ firstFail (rfChecks rq.args) = none ∧ (bridgeAt (bridgesAhead s) (arg rq 0 2)).phase ≠ .absent ∧ (bridgeAt (bridgesAhead s) (arg rq 0 2)).config.streams.testBit 1 = true ∧ armBusy (.rfNet (arg rq 0 2) (some (readRf rq.args))) s = false ∧ activationTick (.rfNet (arg rq 0 2) (some (readRf rq.args))) 0 s = some tick :=
  ⟨{ up with stem := { bridges := [(8191, { phase := .online, config := { serial := 77, lvSet := 0xFF } })] } }, req (le 2 8191 ++ le 1 0 ++ le 1 0 ++ le 1 0 ++ le 1 4 ++ le 1 1 ++ le 1 31 ++ le 2 0 ++ le 2 16384 ++ le 4 120000 ++ le 1 16 ++ le 1 0 ++ le 2 1000 ++ le 4 0), 0, earliest (.rfNet 8191 none) up, by unfold Served; decide +kernel⟩

theorem test_o20_2 : ∃ (s : State), ∃ (rq : Request), ∃ (k : Nat), ∃ r, Served cmdRfNetworkRead rq k s ∧ arg rq 0 2 ≤ 8191 ∧ arg rq 2 2 = 0 ∧ rfAt s (arg rq 0 2) = some r :=
  ⟨{ up with stem := { bridges := [(8191, { phase := .online, config := { serial := 77, lvSet := 0xFF } })] }, mtr := { rf := [(8191, { config := {} })], meters := [(9, { serial := 55 })] }, led := { record := { frontier := 1 }, accounts := [(9, { a := { stamp := 1, record := { number := 9, phase := .active, meter := 8191 + 8192 * 511 + 2 ^ 22 } } })] } }, req (le 2 8191 ++ le 2 0), 0, ({ config := {} } : RfNet), by unfold Served; decide +kernel⟩

theorem test_o20_3 : ∃ (s : State), ∃ (rq : Request), ∃ (k : Nat), ∃ a, Served cmdRfConnRead rq k s ∧ arg rq 0 2 ≤ 8191 ∧ arg rq 2 2 ≤ 511 ∧ accountNaming s (arg rq 0 2) (arg rq 2 2) true = some a :=
  ⟨{ up with stem := { bridges := [(8191, { phase := .online, config := { serial := 77, lvSet := 0xFF } })] }, mtr := { rf := [(8191, { config := {} })], meters := [(9, { serial := 55 })] }, led := { record := { frontier := 1 }, accounts := [(9, { a := { stamp := 1, record := { number := 9, phase := .active, meter := 8191 + 8192 * 511 + 2 ^ 22 } } })] } }, req (le 2 8191 ++ le 2 511), 0, 9, by unfold Served; decide +kernel⟩

theorem test_o20_4 : ∃ (s : State), ∃ (rq : Request), ∃ (k : Nat), Served cmdMtrBind rq k s ∧ arg rq 0 8 ≠ 0 ∧ arg rq 8 4 < 2 ^ 20 ∧ arg rq 12 1 = 0 ∧ arg rq 13 3 = 0 ∧ (bindingsAhead s).length < 1048576 ∧ (bindingsAhead s).any (fun e => e.2 == arg rq 0 8) = false ∧ Tab.get (bindingsAhead s) (arg rq 8 4) = none :=
  ⟨up, req (le 8 55 ++ le 4 0xFFFFF ++ zeros 4), 0, by unfold Served; decide +kernel⟩

theorem test_o20_5 : ∃ (s : State), ∃ (rq : Request), ∃ (k : Nat), ∃ m, Served cmdMtrRead rq k s ∧ arg rq 0 4 < 2 ^ 20 ∧ meterOf s (arg rq 0 4) = some m :=
  ⟨{ up with stem := { bridges := [(8191, { phase := .online, config := { serial := 77, lvSet := 0xFF } })] }, mtr := { rf := [(8191, { config := {} })], meters := [(9, { serial := 55 })] }, led := { record := { frontier := 1 }, accounts := [(9, { a := { stamp := 1, record := { number := 9, phase := .active, meter := 8191 + 8192 * 511 + 2 ^ 22 } } })] } }, req (le 4 9), 0, ({ serial := 55 } : Meter), by unfold Served; decide +kernel⟩

theorem test_o20_6 : ∃ (s : State), ∃ (rq : Request), ∃ (k : Nat), ∃ m, Served cmdMtrRequest rq k s ∧ arg rq 0 4 < 2 ^ 20 ∧ arg rq 4 1 = 0 ∧ arg rq 5 3 = 0 ∧ meterOf s (arg rq 0 4) = some m ∧ meterReached s (arg rq 0 4) = true ∧ m.request = none :=
  ⟨{ up with mtr := { meters := [(9, { serial := 55 })] }, stem := { nets := [(5, { nodes := [(3, { phase := .routed })] })] }, led := { record := { frontier := 1 }, accounts := [(9, { a := { stamp := 1, record := { number := 9, phase := .active, meter := 5 + 8192 * 3 } } })] } }, req (le 4 9 ++ le 1 0 ++ zeros 3), 0, ({ serial := 55 } : Meter), by unfold Served; decide +kernel⟩

theorem test_o20_7 : ∃ (s : State), ∃ (rq : Request), ∃ (k : Nat), Served cmdMtrFwStage rq k s ∧ 1 ≤ arg rq 0 1 ∧ arg rq 0 1 ≤ 7 ∧ arg rq 0 1 < s.host.channels.length ∧ arg rq 1 1 ≤ 15 ∧ arg rq 2 2 = 0 ∧ arg rq 4 4 ≠ 0 ∧ 1 ≤ arg rq 8 4 ∧ arg rq 8 4 ≤ 8388608 ∧ slotUsed s (arg rq 1 1) = false ∧ channelIdle s (arg rq 0 1) = true :=
  ⟨up, req (le 1 7 ++ le 1 15 ++ le 2 0 ++ le 4 1 ++ le 4 8388608 ++ zeros 36), 0, by unfold Served; decide +kernel⟩

theorem test_o20_8 : ∃ (s : State), ∃ (rq : Request), ∃ (k : Nat), ∃ g image, Served cmdMtrFwCampaign rq k s ∧ 1 ≤ arg rq 0 2 ∧ arg rq 2 1 = 0 ∧ Tab.get s.mtr.campaigns (arg rq 0 2) = none ∧ arg rq 3 1 ≤ 15 ∧ 1 ≤ arg rq 6 2 ∧ arg rq 4 2 + arg rq 6 2 ≤ 8192 ∧ now s + 10000 ≤ arg rq 8 8 ∧ 1 ≤ arg rq 16 1 ∧ arg rq 16 1 ≤ 16 ∧ 1 ≤ arg rq 17 1 ∧ arg rq 18 6 = 0 ∧ Tab.get s.mtr.images (arg rq 3 1) = some image ∧ image.verified = true ∧ s.mtr.campaigns.countP (fun e => e.2.running) < 4 ∧ freeGroup s (arg rq 4 2) (arg rq 6 2) = some g :=
  ⟨{ up with mtr := { images := [(15, { len := 1, model := 2, sha := [], data := [], verified := true })] } }, req (le 2 1 ++ le 1 0 ++ le 1 15 ++ le 2 0 ++ le 2 8192 ++ le 8 10000 ++ le 1 16 ++ le 1 1 ++ zeros 6), 0, 0, ({ len := 1, model := 2, sha := [], data := [], verified := true } : MeterImage), by unfold Served; decide +kernel⟩

theorem test_o20_9 : ∃ (s : State), ∃ (rq : Request), ∃ (k : Nat), ∃ x, Served cmdMtrFwStatus rq k s ∧ arg rq 2 2 = 0 ∧ Tab.get s.mtr.campaigns (arg rq 0 2) = some x :=
  ⟨{ up with mtr := { campaigns := [(1, { ref := none, slot := 15, first := 0, count := 1, activateTime := 10000, repairRounds := 1, repairMcMin := 1, group := 0 })] } }, req (le 2 1 ++ le 2 0), 0, ({ ref := none, slot := 15, first := 0, count := 1, activateTime := 10000, repairRounds := 1, repairMcMin := 1, group := 0 } : Campaign), by unfold Served; decide +kernel⟩

/-! ## O21, ChargingCommandsTakeEffect -/

theorem test_o21_1 : ∃ (s : State), ∃ (rq : Request), ∃ (k : Nat), Served cmdChgStatus rq k s :=
  ⟨up, reqOf 1 [], 0, by unfold Served; decide +kernel⟩

theorem test_o21_2 : ∃ (s : State), ∃ (rq : Request), ∃ (k : Nat), ∃ cfg, Served cmdChgPointRead rq k s ∧ arg rq 0 1 ≤ 15 ∧ arg rq 1 3 = 0 ∧ (pointAt s (arg rq 0 1)).config = some cfg :=
  ⟨{ up with chg := { points := List.replicate 15 {} ++ [{ config := some { dc := false } }] } }, req (le 1 15 ++ zeros 3), 0, ({ dc := false } : PointConfig), by unfold Served; decide +kernel⟩

theorem test_o21_3 : ∃ (s : State), ∃ (rq : Request), ∃ (k : Nat), Served cmdChgPointSet rq k s ∧ arg rq 0 1 ≤ 15 ∧ arg rq 1 1 = 0 ∧ arg rq 2 1 ≤ 2 ∧ (arg rq 2 1 = 0 → firstFail (unusedChecks rq.args) = none) ∧ (arg rq 2 1 ≠ 0 → firstFail (pointChecks (arg rq 0 1) rq.args s) = none) ∧ (∀ old, (pointAt s (arg rq 0 1)).config = some old → (pointAt s (arg rq 0 1)).phase.live = true → sessionChangeOk old (readPoint rq.args) = true) ∧ armBusy (.chgPoint (arg rq 0 1) (readPoint rq.args)) s = false :=
  ⟨up, req (le 1 15 ++ le 1 0 ++ le 1 1 ++ le 1 3 ++ le 1 2 ++ le 1 1 ++ le 1 1 ++ le 1 7 ++ le 2 80 ++ le 2 0 ++ le 2 0 ++ le 2 552 ++ le 2 1000 ++ le 2 1000 ++ le 2 1300 ++ le 2 1000 ++ le 2 0 ++ le 1 0xFF ++ le 1 0 ++ le 1 0 ++ zeros 8 ++ zeros 1 ++ le 2 0 ++ le 2 600 ++ le 2 2000 ++ le 4 0 ++ le 2 0 ++ zeros 6), 0, ⟨by unfold Served; decide +kernel, by decide +kernel, by decide +kernel, by decide +kernel, by decide +kernel, by decide +kernel, fun _ h => absurd (Option.isSome_of_eq_some h) (by decide +kernel), by decide +kernel⟩⟩

theorem test_o21_4 : ∃ (s : State), ∃ (rq : Request), ∃ (k : Nat), Served cmdChgPathSet rq k s ∧ arg rq 0 1 ≤ 15 ∧ arg rq 1 1 = 0xFF ∧ 1 ≤ arg rq 4 4 ∧ arg rq 4 4 ≤ 100000 ∧ arg rq 8 4 < arg rq 4 4 ∧ arg rq 12 1 < 2 ∧ arg rq 13 3 = 0 ∧ armBusy (.chgPath (arg rq 0 1) none) s = false :=
  ⟨up, req (le 1 15 ++ le 1 0xFF ++ le 2 0 ++ le 4 100000 ++ le 4 99999 ++ le 1 1 ++ zeros 3), 0, by unfold Served; decide +kernel⟩

theorem test_o21_5 : ∃ (s : State), ∃ (rq : Request), ∃ (k : Nat), ∃ e, Served cmdChgPathSet rq k s ∧ arg rq 0 1 ≤ 15 ∧ arg rq 1 1 ≤ 15 ∧ calSet s.met.calib (arg rq 1 1) = some e ∧ e.location = 0 ∧ (∀ i, i < 16 → ∀ j, j < 16 → j ≠ arg rq 0 1 → (arg rq 2 2).testBit i = true → (nextMembers s j).testBit i = false) ∧ 1 ≤ arg rq 4 4 ∧ arg rq 4 4 ≤ 100000 ∧ arg rq 8 4 < arg rq 4 4 ∧ arg rq 12 1 < 2 ∧ arg rq 13 3 = 0 ∧ armBusy (.chgPath (arg rq 0 1) none) s = false :=
  ⟨{ up with met := { calib := { sets := [{ set := 15, kind := 1 }] } } }, req (le 1 15 ++ le 1 15 ++ le 2 0xFFFF ++ le 4 100000 ++ le 4 99999 ++ le 1 1 ++ zeros 3), 0, ({ set := 15, kind := 1 } : CalSet), by unfold Served; decide +kernel⟩

theorem test_o21_6 : ∃ (s : State), ∃ (rq : Request), ∃ (k : Nat), Served cmdChgBusSet rq k s ∧ arg rq 0 1 ≤ 3 ∧ arg rq 1 1 ≤ 1 ∧ arg rq 2 1 ≤ 1 ∧ arg rq 3 1 ≤ 12 ∧ arg rq 4 1 ≤ 12 ∧ arg rq 5 1 ≤ 1 ∧ arg rq 6 2 = 0 ∧ (busNodes s (arg rq 0 1) 16).length ≤ 2 ∧ (∀ j, j < 16 → (pointAt s j).session = 0) ∧ armBusy (.chgBus (arg rq 0 1) {}) s = false :=
  ⟨up, req (le 1 3 ++ le 1 1 ++ le 1 1 ++ le 1 12 ++ le 1 12 ++ le 1 1 ++ le 2 0), 0, by unfold Served; decide +kernel⟩

theorem test_o21_7 : ∃ (s : State), ∃ (rq : Request), ∃ (k : Nat), Served cmdChgIdSet rq k s ∧ arg rq 0 1 = 0 ∧ arg rq 1 1 ≤ 1 ∧ arg rq 2 1 ≤ 15 ∧ arg rq 20 1 = 0 ∧ (slice rq.args 24 15).all (· == 0) = true ∧ arg rq 3 1 < 2 ∧ arg rq 6 2 = 0 ∧ arg rq 16 4 < 2 ^ 20 ∧ arg rq 21 3 = 0 ∧ arg rq 39 1 = 0 ∧ (arg rq 1 1 = 1 → idExists rq.args (idAhead s) = true) ∧ (arg rq 1 1 = 0 → idExists rq.args (idAhead s) = true ∨ (idAhead s).cards.length < 65536) :=
  ⟨up, req (le 1 0 ++ le 1 0 ++ le 1 15 ++ le 1 1 ++ le 2 0xFFFF ++ le 2 0 ++ le 8 123 ++ le 4 0xFFFFF ++ zeros 20), 0, by unfold Served; decide +kernel⟩

theorem test_o21_8 : ∃ (s : State), ∃ (rq : Request), ∃ (k : Nat), Served cmdChgAuthorise rq k s ∧ arg rq 0 1 ≤ 15 ∧ arg rq 0 1 < s.chg.points.length ∧ arg rq 1 1 = 0 ∧ arg rq 2 2 = 0 ∧ arg rq 4 4 < 2 ^ 20 ∧ arg rq 8 4 = 0 ∧ (∀ x ∈ s.chg.seen, x.id ≠ 0) ∧ groupArmed s (arg rq 0 1) = true ∧ (pointAt s (arg rq 0 1)).phase = .idle :=
  ⟨{ up with chg := { points := List.replicate 15 {} ++ [{ config := some { dc := false }, phase := .idle }] }, seals := { inForce := List.replicate 16 true } }, req (le 1 15 ++ le 1 0 ++ le 2 0 ++ le 4 0xFFFFF ++ le 4 0 ++ le 4 5 ++ le 4 6), 0, by unfold Served; decide +kernel⟩

theorem test_o21_9 : ∃ (s : State), ∃ (rq : Request), ∃ (k : Nat), Served cmdChgStop rq k s ∧ arg rq 0 1 ≤ 15 ∧ arg rq 0 1 < s.chg.points.length ∧ arg rq 1 3 = 0 ∧ (pointAt s (arg rq 0 1)).session ≠ 0 ∧ (pointAt s (arg rq 0 1)).phase = .prepare ∨ (pointAt s (arg rq 0 1)).phase = .energy ∨ (pointAt s (arg rq 0 1)).phase = .paused :=
  ⟨{ up with chg := { points := List.replicate 15 {} ++ [{ config := some { dc := false }, phase := .energy, session := 4 }] } }, req (le 1 15 ++ zeros 3), 0, by unfold Served; decide +kernel⟩

/-! ## O22, FieldCommandsTakeEffect -/

theorem test_o22_1 : ∃ (s : State), ∃ (rq : Request), ∃ (k : Nat), Served cmdFioLsConfig rq k s ∧ arg rq 0 1 < lsCount s ∧ arg rq 1 1 ≤ 4 ∧ lsParamOk (arg rq 1 1) (arg rq 2 1) = true ∧ (arg rq 1 1 = 3 ∨ arg rq 1 1 = 4 → lsPointTaken s (arg rq 0 1) (readLsConfig rq.args).use (readLsConfig rq.args).param = false) ∧ arg rq 3 1 ≤ 4 ∧ 1 ≤ arg rq 4 1 ∧ arg rq 4 1 ≤ 100 ∧ (arg rq 1 1 = 1 → arg rq 5 1 ≤ 1) ∧ (arg rq 1 1 ≠ 1 → arg rq 5 1 = 0) ∧ arg rq 6 1 < 4 ∧ arg rq 7 1 = 0 ∧ (arg rq 1 1 = 4 → arg rq 8 2 ≤ 600) ∧ (arg rq 1 1 ≠ 4 → arg rq 8 2 = 0) ∧ arg rq 10 6 = 0 ∧ armBusy (.lsConfig (arg rq 0 1) (readLsConfig rq.args)) s = false :=
  ⟨up, req (le 1 47 ++ le 1 4 ++ le 1 15 ++ le 1 4 ++ le 1 100 ++ le 1 0 ++ le 1 3 ++ le 1 0 ++ le 2 600 ++ zeros 6), 0, by unfold Served; decide +kernel⟩

theorem test_o22_2 : ∃ (s : State), ∃ (rq : Request), ∃ (k : Nat), Served cmdFioLsSet rq k s ∧ arg rq 0 8 < 2 ^ lsCount s ∧ arg rq 8 1 ≤ 1 ∧ arg rq 9 7 = 0 ∧ (∀ j, j < lsCount s → (arg rq 0 8).testBit j = true → (lsAt s j).config.use = .host) :=
  ⟨{ up with fio := { switches := List.replicate 47 {} ++ [{ config := { use := .host } }] } }, req (le 8 (2^47) ++ le 1 1 ++ zeros 7), 0, by unfold Served; decide +kernel⟩

theorem test_o22_3 : ∃ (s : State), ∃ (rq : Request), ∃ (k : Nat), Served cmdFioLsSet rq k s ∧ arg rq 0 8 < 2 ^ lsCount s ∧ arg rq 8 1 = 2 ∧ arg rq 9 7 = 0 ∧ (∀ j, j < lsCount s → (arg rq 0 8).testBit j = true → lsClearable s (lsAt s j) = true) :=
  ⟨{ up with fio := { switches := List.replicate 47 {} ++ [{ config := { use := .host }, overload := true }] } }, req (le 8 (2^47) ++ le 1 2 ++ zeros 7), 0, by unfold Served; decide +kernel⟩

theorem test_o22_4 : ∃ (s : State), ∃ (rq : Request), ∃ (k : Nat), Served cmdFioLsRead rq k s ∧ arg rq 0 1 < lsCount s ∧ arg rq 1 1 = 0 ∧ arg rq 2 2 = 0 :=
  ⟨up, req (le 1 47 ++ le 1 0 ++ le 2 0), 0, by unfold Served; decide +kernel⟩

theorem test_o22_5 : ∃ (s : State), ∃ (rq : Request), ∃ (k : Nat), Served cmdSafStatus rq k s :=
  ⟨up, reqOf 1 [], 0, by unfold Served; decide +kernel⟩

theorem test_o22_6 : ∃ (s : State), ∃ (rq : Request), ∃ (k : Nat), Served cmdSafInputSet rq k s ∧ arg rq 0 1 ≤ 15 ∧ arg rq 1 1 = 1 ∧ (∀ i, i < 16 → 2 ≤ i → arg rq i 1 = 0) ∧ arg rq 6 2 = 0 ∧ arg rq 8 2 = 0 ∧ arg rq 10 2 = 0 ∧ arg rq 13 3 = 0 ∧ (inputAt s (arg rq 0 1)).phase = .fault ∧ (inputAt s (arg rq 0 1)).a.demand = true ∧ (inputAt s (arg rq 0 1)).b.demand = true :=
  ⟨{ up with fio := { inputs := List.replicate 15 {} ++ [{ phase := .fault }] } }, req (le 1 15 ++ le 1 1 ++ zeros 14), 0, by unfold Served; decide +kernel⟩

theorem test_o22_7 : ∃ (s : State), ∃ (rq : Request), ∃ (k : Nat), Served cmdSafInputSet rq k s ∧ arg rq 0 1 ≤ 15 ∧ arg rq 1 1 = 0 ∧ firstFail (safInputChecks rq.args s) = none ∧ reducesCoverage (inputAt s (arg rq 0 1)).config (readInputConfig rq.args) = false ∧ (coverage (inputAt s (arg rq 0 1)).config ++ coverage (readInputConfig rq.args)).any (fun j => (pointAt s j).phase.live) = false ∧ armBusy (.safInput (arg rq 0 1) (readInputConfig rq.args)) s = false :=
  ⟨up, req (le 1 15 ++ le 1 0 ++ le 1 3 ++ le 1 1 ++ le 1 3 ++ le 1 2 ++ le 2 0x8000 ++ le 2 5000 ++ le 2 1000 ++ le 1 0 ++ zeros 3), 0, by unfold Served; decide +kernel⟩

theorem test_o22_8 : ∃ (s : State), ∃ (rq : Request), ∃ (k : Nat), Served cmdSafOutputSet rq k s ∧ arg rq 0 1 ≤ 15 ∧ pointConfigured s (arg rq 0 1) = false ∧ arg rq 1 1 ≤ 1 ∧ arg rq 2 2 = 0 :=
  ⟨up, req (le 1 15 ++ le 1 1 ++ le 2 0), 0, by unfold Served; decide +kernel⟩

/-! ## O23, PanelCommandsTakeEffect -/

theorem test_o23_1 : ∃ (s : State), ∃ (rq : Request), ∃ (k : Nat), Served cmdFioPanelSet rq k s ∧ arg rq 0 1 ≤ 1 ∧ arg rq 1 1 = 0 ∧ firstFail (panelChecks rq.args) = none :=
  ⟨up, req (le 1 1 ++ le 1 0 ++ le 2 2048 ++ le 2 2048 ++ le 1 2 ++ le 1 8 ++ le 2 20000 ++ le 2 3000 ++ le 2 10000 ++ le 2 30000 ++ le 2 60000 ++ le 2 60000 ++ le 1 3 ++ zeros 5 ++ le 1 0 ++ zeros 1 ++ zeros 192), 0, by unfold Served; decide +kernel⟩

theorem test_o23_2 : ∃ (s : State), ∃ (rq : Request), ∃ (k : Nat), Served cmdFioPanelSet rq k s ∧ arg rq 0 1 ≤ 1 ∧ arg rq 1 1 = 1 ∧ (∀ i, i < 28 → 2 ≤ i → arg rq i 1 = 0) ∧ (slice rq.args 28 192).all (· == 0) = true ∧ drawsWaiting (panelAt s (arg rq 0 1)) = 0 :=
  ⟨up, req (le 1 1 ++ le 1 1 ++ zeros 218), 0, by unfold Served; decide +kernel⟩

theorem test_o23_3 : ∃ (s : State), ∃ (rq : Request), ∃ (k : Nat), ∃ f, Served cmdFioPanelDraw rq k s ∧ arg rq 0 1 ≤ 1 ∧ arg rq 1 1 ≤ 1 ∧ 1 ≤ arg rq 2 1 ∧ arg rq 2 1 ≤ 7 ∧ arg rq 2 1 < s.host.channels.length ∧ arg rq 3 1 = 0 ∧ arg rq 4 4 ≠ 0 ∧ drawProfile (panelAt s (arg rq 0 1)) = some f ∧ firstFail (drawChecks f rq.args) = none ∧ s.pwr.mode ≠ .vigil ∧ channelIdle s (arg rq 2 1) = true ∧ (panelAt s (arg rq 0 1)).queue.length + (panelAt s (arg rq 0 1)).issuing.isSome.toNat + drawsArriving s (arg rq 0 1) < 32 :=
  ⟨{ up with fio := { panels := [{}, { kept := some { width := 16, height := 4, bpp := 1, maxInFlight := 1, sckKhz := 1000, vcomMv := 500, refreshMs := 10, fullMs := 100, busyTimeoutMs := 100, offDelayMs := 0, flags := 0, commands := [], script := [] } }] } }, req (le 1 1 ++ le 1 1 ++ le 1 7 ++ le 1 0 ++ le 4 1 ++ le 2 0 ++ le 2 0 ++ le 2 16 ++ le 2 4 ++ le 4 8 ++ le 4 0 ++ zeros 192), 0, ({ width := 16, height := 4, bpp := 1, maxInFlight := 1, sckKhz := 1000, vcomMv := 500, refreshMs := 10, fullMs := 100, busyTimeoutMs := 100, offDelayMs := 0, flags := 0, commands := [], script := [] } : PanelProfile), by unfold Served; decide +kernel⟩

theorem test_o23_4 : ∃ (s : State), ∃ (rq : Request), ∃ (k : Nat), ∃ f, Served cmdFioPanelDraw rq k s ∧ arg rq 0 1 ≤ 1 ∧ arg rq 1 1 ≤ 1 ∧ arg rq 2 1 = 0 ∧ arg rq 3 1 = 0 ∧ arg rq 4 4 = 0 ∧ drawProfile (panelAt s (arg rq 0 1)) = some f ∧ firstFail (drawChecks f rq.args) = none ∧ crc32 (slice rq.args 24 (arg rq 16 4)) = arg rq 20 4 ∧ (panelAt s (arg rq 0 1)).queue.length + (panelAt s (arg rq 0 1)).issuing.isSome.toNat + drawsArriving s (arg rq 0 1) < 32 :=
  ⟨{ up with fio := { panels := [{}, { kept := some { width := 16, height := 4, bpp := 1, maxInFlight := 1, sckKhz := 1000, vcomMv := 500, refreshMs := 10, fullMs := 100, busyTimeoutMs := 100, offDelayMs := 0, flags := 0, commands := [], script := [] } }] } }, req (le 1 1 ++ zeros 7 ++ le 2 8 ++ le 2 3 ++ le 2 8 ++ le 2 1 ++ le 4 1 ++ le 4 (crc32 [5]) ++ [5] ++ zeros 191), 0, ({ width := 16, height := 4, bpp := 1, maxInFlight := 1, sckKhz := 1000, vcomMv := 500, refreshMs := 10, fullMs := 100, busyTimeoutMs := 100, offDelayMs := 0, flags := 0, commands := [], script := [] } : PanelProfile), by unfold Served; decide +kernel⟩

theorem test_o23_5 : ∃ (s : State), ∃ (rq : Request), ∃ (k : Nat), Served cmdFioPanelRead rq k s ∧ arg rq 0 1 ≤ 1 ∧ arg rq 1 3 = 0 :=
  ⟨up, req (le 1 1 ++ zeros 3), 0, by unfold Served; decide +kernel⟩

/-! ## O24, VaultCommandsTakeEffect -/

theorem test_o24_1 : ∃ (s : State), ∃ (rq : Request), ∃ (k : Nat), Served cmdVltStatus rq k s :=
  ⟨up, reqOf 1 [], 0, by unfold Served; decide +kernel⟩

theorem test_o24_2 : ∃ (s : State), ∃ (rq : Request), ∃ (k : Nat), ∃ row, Served cmdVltSlotWrite rq k s ∧ arg rq 0 2 ≤ 4095 ∧ arg rq 0 2 ≠ 0 ∧ (arg rq 0 2 < 64 ∨ 127 < arg rq 0 2) ∧ findPurpose (attrPurpose (arg rq 4 8)) = some row ∧ row.low ≤ arg rq 0 2 ∧ arg rq 0 2 ≤ row.high ∧ arg rq 2 1 = 0 ∧ arg rq 3 1 = 0 ∧ arg rq 4 8 % 16 = 0 ∧ arg rq 4 8 < 2 ^ 39 ∧ row.types.contains (attrType (arg rq 4 8)) = true ∧ attrDest (arg rq 4 8) = row.dest ∧ indexPermitted row.code (attrIndex (arg rq 4 8)) (arg rq 0 2) = true ∧ attrRoles (arg rq 4 8) < 32 ∧ (attrPurpose (arg rq 4 8) = 11 ∨ (attrRoles (arg rq 4 8) = 0 ∧ attrUdp (arg rq 4 8) = false)) ∧ heldElsewhere s (arg rq 0 2) (attrPurpose (arg rq 4 8)) (attrIndex (arg rq 4 8)) = false ∧ arg rq 12 4 = 0 ∧ arg rq 16 8 = 0 ∧ materialFits (attrType (arg rq 4 8)) (pad (materialLen (attrType (arg rq 4 8))) (slice rq.args 24 64)) = true ∧ categoryWritable s.fol.lifecycle row.category = true ∧ (slotAt s (arg rq 0 2)).change = none :=
  ⟨up, req (le 2 4095 ++ le 1 0 ++ le 1 0 ++ le 8 (6*2^4+4*2^8+5*2^16+15*2^24) ++ le 4 0 ++ le 8 0 ++ le 8 1 ++ zeros 56), 0, ({ code := 5, types := [6], dest := 4, category := 4, derived := some 0 } : Purpose), by unfold Served; decide +kernel⟩

theorem test_o24_3 : ∃ (s : State), ∃ (rq : Request), ∃ (k : Nat), ∃ c, Served cmdVltSlotRead rq k s ∧ arg rq 0 2 ≤ 4095 ∧ arg rq 2 2 = 0 ∧ slotInForce s (arg rq 0 2) = some c ∧ (slotAt s (arg rq 0 2)).change = none :=
  ⟨{ up with vlt := { up.vlt with slots := up.vlt.slots ++ [(4095, { a := { material := List.replicate 32 1, attr := 4 + 6 * 2 ^ 4 + 4 * 2 ^ 8 + 5 * 2 ^ 16 + 15 * 2 ^ 24 + 2 ^ 48 } })] } }, req (le 2 4095 ++ le 2 0), 0, ({ material := List.replicate 32 1, attr := 4 + 6 * 2 ^ 4 + 4 * 2 ^ 8 + 5 * 2 ^ 16 + 15 * 2 ^ 24 + 2 ^ 48 } : SlotCopy), by unfold Served; decide +kernel⟩

theorem test_o24_4 : ∃ (s : State), ∃ (rq : Request), ∃ (k : Nat), ∃ c, Served cmdVltSlotDestroy rq k s ∧ arg rq 0 2 ≤ 4095 ∧ arg rq 0 2 ≠ 0 ∧ (arg rq 0 2 < 64 ∨ 127 < arg rq 0 2) ∧ arg rq 2 6 = 0 ∧ arg rq 8 8 = 0 ∧ slotInForce s (arg rq 0 2) = some c ∧ attrCategory c.attr ≠ 0 ∧ categoryWritable s.fol.lifecycle (attrCategory c.attr) = true ∧ (slotAt s (arg rq 0 2)).change = none :=
  ⟨{ up with vlt := { up.vlt with slots := up.vlt.slots ++ [(4095, { a := { material := List.replicate 32 1, attr := 4 + 6 * 2 ^ 4 + 4 * 2 ^ 8 + 5 * 2 ^ 16 + 15 * 2 ^ 24 + 2 ^ 48 } })] } }, req (le 2 4095 ++ zeros 6 ++ le 8 0), 0, ({ material := List.replicate 32 1, attr := 4 + 6 * 2 ^ 4 + 4 * 2 ^ 8 + 5 * 2 ^ 16 + 15 * 2 ^ 24 + 2 ^ 48 } : SlotCopy), by unfold Served; decide +kernel⟩

theorem test_o24_5 : ∃ (s : State), ∃ (rq : Request), ∃ (k : Nat), Served cmdVltCertSet rq k s ∧ 16 ≤ arg rq 0 1 ∧ arg rq 0 1 ≤ 31 ∧ arg rq 1 1 = 0 ∧ 1 ≤ arg rq 2 1 ∧ arg rq 2 1 ≤ 7 ∧ arg rq 2 1 < s.host.channels.length ∧ arg rq 3 1 = 0 ∧ arg rq 4 4 ≠ 0 ∧ arg rq 8 8 = 0 ∧ 1 ≤ arg rq 16 4 ∧ arg rq 16 4 ≤ 4800 ∧ (Tab.getD s.vlt.certs (arg rq 0 1) {}).change = none ∧ channelIdle s (arg rq 2 1) = true :=
  ⟨up, req (le 1 31 ++ le 1 0 ++ le 1 7 ++ le 1 0 ++ le 4 1 ++ le 8 0 ++ le 4 4800 ++ le 4 0), 0, by unfold Served; decide +kernel⟩

theorem test_o24_6 : ∃ (s : State), ∃ (rq : Request), ∃ (k : Nat), ∃ e, Served cmdVltCertSet rq k s ∧ 16 ≤ arg rq 0 1 ∧ arg rq 0 1 ≤ 31 ∧ arg rq 1 1 = 1 ∧ arg rq 2 1 = 0 ∧ arg rq 3 1 = 0 ∧ arg rq 4 4 = 0 ∧ arg rq 8 8 = 0 ∧ arg rq 16 4 = 0 ∧ arg rq 20 4 = 0 ∧ Tab.getD s.vlt.certs (arg rq 0 1) {} = e ∧ e.certs ≠ [] ∧ e.change = none :=
  ⟨{ up with vlt := { up.vlt with certs := [(31, { certs := [[1]] })] } }, req (le 1 31 ++ le 1 1 ++ zeros 22), 0, ({ certs := [[1]] } : CertEntry), by unfold Served; decide +kernel⟩

theorem test_o24_7 : ∃ (s : State), ∃ (rq : Request), ∃ (k : Nat), ∃ key, Served cmdVltAttest rq k s ∧ (s.vlt.attests.filter (fun x => s.time.uptime < x + 1000)).length < 100 ∧ (keyFor 6 (.stored 10 0) s).1 = some key :=
  ⟨{ up with vlt := { up.vlt with slots := up.vlt.slots ++ [(200, { a := { material := List.replicate 64 1, attr := 4 + 2 ^ 4 + 64 * 2 ^ 8 + 10 * 2 ^ 16 + 2 ^ 48 } })] } }, req (le 8 1 ++ le 8 2), 0, List.replicate 32 1, by unfold Served; decide +kernel⟩

theorem test_o24_8 : ∃ (s : State), ∃ (rq : Request), ∃ (k : Nat), Served cmdVltEngine rq k s ∧ arg rq 0 1 ≤ 6 ∧ engineExists (arg rq 0 1) (arg rq 1 1) = true ∧ arg rq 2 1 = 0 ∧ arg rq 3 1 = 0 :=
  ⟨up, req (le 1 0 ++ le 1 31 ++ le 1 0 ++ le 1 0), 0, by unfold Served; decide +kernel⟩

theorem test_o24_9 : ∃ (s : State), ∃ (rq : Request), ∃ (k : Nat), Served cmdVltEngine rq k s ∧ arg rq 0 1 ≤ 6 ∧ engineExists (arg rq 0 1) (arg rq 1 1) = true ∧ arg rq 2 1 = 1 ∧ arg rq 3 1 = 0 ∧ (engineAt s (arg rq 0 1) (arg rq 1 1)).testing = false ∧ engineUp s (arg rq 0 1) (arg rq 1 1) = true :=
  ⟨up, req (le 1 4 ++ le 1 3 ++ le 1 1 ++ le 1 0), 0, by unfold Served; decide +kernel⟩

/-! ## O25, FaultCommandsTakeEffect -/

theorem test_o25_1 : ∃ (s : State), ∃ (rq : Request), ∃ (k : Nat), Served cmdFltStatus rq k s :=
  ⟨up, reqOf 1 [], 0, by unfold Served; decide +kernel⟩

theorem test_o25_2 : ∃ (s : State), ∃ (rq : Request), ∃ (k : Nat), ∃ c, Served cmdFltRead rq k s ∧ arg rq 1 3 = 0 ∧ sourceClass (arg rq 0 1) = some c :=
  ⟨up, req (le 1 0xF7 ++ zeros 3), 0, 1, by unfold Served; decide +kernel⟩

theorem test_o25_3 : ∃ (s : State), ∃ (rq : Request), ∃ (k : Nat), Served cmdFltClear rq k s ∧ (arg rq 0 2 ≤ 255 ∨ arg rq 0 2 = 0xFFFF) ∧ arg rq 2 2 = 0 ∧ clearable s (arg rq 0 2) ≠ [] :=
  ⟨{ up with flt := { records := [(0xF6, { phase := .ended })] } }, req (le 2 0xFFFF ++ le 2 0), 0, by unfold Served; decide +kernel⟩

theorem test_o25_4 : ∃ (s : State), ∃ (rq : Request), ∃ (k : Nat), Served cmdFltClear rq k s ∧ (arg rq 0 2 ≤ 255 ∨ arg rq 0 2 = 0xFFFF) ∧ arg rq 2 2 = 0 ∧ clearable s (arg rq 0 2) = [] :=
  ⟨{ up with flt := { records := [(0xF6, { phase := .active })] } }, req (le 2 0xF6 ++ le 2 0), 0, by unfold Served; decide +kernel⟩

theorem test_o25_5 : ∃ (s : State), ∃ (rq : Request), ∃ (k : Nat), Served cmdFltSafe rq k s ∧ arg rq 0 1 = 0 ∧ arg rq 1 3 = 0 :=
  ⟨up, req (le 1 0 ++ zeros 3), 0, by unfold Served; decide +kernel⟩

theorem test_o25_6 : ∃ (s : State), ∃ (rq : Request), ∃ (k : Nat), Served cmdFltTamper rq k s ∧ arg rq 0 1 = 0 ∧ arg rq 1 1 = 0 ∧ arg rq 2 2 = 0 :=
  ⟨up, req (zeros 4), 0, by unfold Served; decide +kernel⟩

theorem test_o25_7 : ∃ (s : State), ∃ (rq : Request), ∃ (k : Nat), Served cmdFltTamper rq k s ∧ arg rq 0 1 = 2 ∧ arg rq 1 1 < 32 ∧ arg rq 2 2 = 0 :=
  ⟨up, req (le 1 2 ++ le 1 31 ++ le 2 0), 0, by unfold Served; decide +kernel⟩

theorem test_o25_8 : ∃ (s : State), ∃ (rq : Request), ∃ (k : Nat), Served cmdFltTamper rq k s ∧ arg rq 0 1 = 1 ∧ arg rq 1 1 < 32 ∧ arg rq 1 1 ≠ 0 ∧ arg rq 2 2 = 0 ∧ s.flt.tamper.zipIdx.all (fun e => !(arg rq 1 1).testBit e.2 || (e.1.latched && !e.1.openNow)) = true :=
  ⟨{ up with flt := { tamper := List.replicate 5 { latched := true } } }, req (le 1 1 ++ le 1 31 ++ le 2 0), 0, by unfold Served; decide +kernel⟩

theorem test_o25_9 : ∃ (s : State), ∃ (rq : Request), ∃ (k : Nat), Served cmdFltInject rq k s ∧ (arg rq 0 1 = 0 ∨ arg rq 0 1 = 1 ∨ arg rq 0 1 = 3) ∧ arg rq 1 1 ≤ 1 ∧ 1 ≤ arg rq 2 2 ∧ arg rq 2 2 ≤ 16 ∧ arg rq 4 4 < injectPlaces (arg rq 0 1) ∧ (arg rq 0 1 = 1 → arg rq 8 8 = 0) ∧ Tab.get s.flt.injections (arg rq 0 1) = none :=
  ⟨up, req (le 1 1 ++ le 1 1 ++ le 2 16 ++ le 4 1023 ++ le 8 0), 0, by unfold Served; decide +kernel⟩

/-! ## O26, LinkCommandsTakeEffect -/

theorem test_o26_1 : ∃ (s : State), ∃ (rq : Request), ∃ (k : Nat), Served cmdLnkStatus rq k s :=
  ⟨up, reqOf 1 [], 0, by unfold Served; decide +kernel⟩

theorem test_o26_2 : ∃ (s : State), ∃ (rq : Request), ∃ (k : Nat), Served cmdLnkGrouping rq k s ∧ arg rq 0 1 ≤ 2 ∧ arg rq 1 3 = 0 :=
  ⟨up, req (le 1 2 ++ zeros 3), 0, by unfold Served; decide +kernel⟩

theorem test_o26_3 : ∃ (s : State), ∃ (rq : Request), ∃ (k : Nat), Served cmdLnkPortSet rq k s ∧ portExists s (arg rq 0 1) = true ∧ isMirror s (arg rq 0 1) = false ∧ arg rq 0 1 < s.lnk.ports.length ∧ arg rq 1 1 = 1 ∧ arg rq 2 1 ≤ 1 ∧ 4 ≤ arg rq 3 1 ∧ arg rq 3 1 ≤ 7 ∧ 1700 ≤ arg rq 4 2 ∧ arg rq 4 2 ≤ 9216 ∧ arg rq 6 2 = 0 ∧ ipMulticast (slice rq.args 8 16) = false ∧ (rdS rq.args 24 4).natAbs ≤ 100000 ∧ arg rq 28 4 = 0 :=
  ⟨up, req (le 1 12 ++ le 1 1 ++ le 1 1 ++ le 1 7 ++ le 2 9216 ++ le 2 0 ++ zeros 16 ++ le 4 100000 ++ le 4 0), 0, by unfold Served; decide +kernel⟩

theorem test_o26_4 : ∃ (s : State), ∃ (rq : Request), ∃ (k : Nat), Served cmdLnkAddrSet rq k s ∧ portExists s (arg rq 0 1) = true ∧ isMirror s (arg rq 0 1) = false ∧ arg rq 1 1 ≤ 3 ∧ arg rq 2 1 = 0 ∧ 1 ≤ arg rq 3 1 ∧ arg rq 3 1 ≤ 128 ∧ 1 ≤ arg rq 4 1 ∧ arg rq 4 1 < 4 ∧ arg rq 5 1 = 0 ∧ arg rq 6 2 ≤ 4094 ∧ ipMulticast (slice rq.args 8 16) = false ∧ ipLinkLocal (slice rq.args 8 16) = false ∧ ipUnspecified (slice rq.args 8 16) = false ∧ addrUsed s (arg rq 0 1) (arg rq 1 1) (slice rq.args 8 16) = false :=
  ⟨up, req (le 1 12 ++ le 1 3 ++ le 1 0 ++ le 1 128 ++ le 1 3 ++ le 1 0 ++ le 2 4094 ++ le 1 0x20 ++ zeros 14 ++ le 1 1), 0, by unfold Served; decide +kernel⟩

theorem test_o26_5 : ∃ (s : State), ∃ (rq : Request), ∃ (k : Nat), Served cmdLnkMacsecSet rq k s ∧ arg rq 0 1 ≤ 3 ∧ (s.lnk.grouping = 2 → arg rq 0 1 ≠ 3) ∧ arg rq 1 1 = 0 ∧ arg rq 2 1 ≤ 1 ∧ arg rq 3 1 ≤ 3 ∧ arg rq 4 1 ≤ 1 ∧ arg rq 5 3 = 0 ∧ arg rq 8 4 ≤ 1073741824 ∧ arg rq 12 4 = 0 ∧ now s + 3 ≤ arg rq 16 8 :=
  ⟨up, req (le 1 3 ++ le 1 0 ++ le 1 1 ++ le 1 3 ++ le 1 1 ++ zeros 3 ++ le 4 1073741824 ++ le 4 0 ++ le 8 3), 0, by unfold Served; decide +kernel⟩

theorem test_o26_6 : ∃ (s : State), ∃ (rq : Request), ∃ (k : Nat), Served cmdLnkPortRead rq k s ∧ portExists s (arg rq 0 1) = true ∧ arg rq 1 3 = 0 ∧ (macOf s (arg rq 0 1)).length = 6 :=
  ⟨up, req (le 1 12 ++ zeros 3), 0, by unfold Served; decide +kernel⟩

/-! ## O27, ServiceCommandsTakeEffect -/

theorem test_o27_1 : ∃ (s : State), ∃ (rq : Request), ∃ (k : Nat), Served cmdSvcStatus rq k s :=
  ⟨up, reqOf 1 [], 0, by unfold Served; decide +kernel⟩

theorem test_o27_2 : ∃ (s : State), ∃ (rq : Request), ∃ (k : Nat), Served cmdSvcStage rq k s ∧ 1 ≤ arg rq 0 1 ∧ arg rq 0 1 ≤ 7 ∧ arg rq 0 1 < s.host.channels.length ∧ arg rq 1 1 ≤ 4 ∧ (arg rq 1 1 = 1 → arg rq 2 1 ≤ 7 ∧ slotRolling s (arg rq 2 1) = false) ∧ (arg rq 1 1 ≠ 1 → arg rq 2 1 = 0) ∧ arg rq 3 1 = 0 ∧ arg rq 4 4 ≠ 0 ∧ 257 ≤ arg rq 8 4 ∧ arg rq 8 4 ≤ imageLimit (arg rq 1 1) + 256 ∧ channelIdle s (arg rq 0 1) = true ∧ s.svc.phase = .idle :=
  ⟨up, req (le 1 7 ++ le 1 1 ++ le 1 7 ++ le 1 0 ++ le 4 1 ++ le 4 2097152 ++ le 4 0), 0, by unfold Served; decide +kernel⟩

theorem test_o27_3 : ∃ (s : State), ∃ (rq : Request), ∃ (k : Nat), Served cmdSvcUpdate rq k s ∧ arg rq 0 1 = 0 ∧ arg rq 1 1 = 0 ∧ arg rq 2 1 ≤ 1 ∧ arg rq 3 1 = 0 ∧ 10 ≤ arg rq 4 4 ∧ arg rq 4 4 ≤ 86400 ∧ s.svc.phase = .idle ∧ staging s = false ∧ updateReady s 0 = true :=
  ⟨{ up with svc := { build := .valid }, mem := { bankB := { folset := some {} } } }, req (le 1 0 ++ le 1 0 ++ le 1 1 ++ le 1 0 ++ le 4 86400), 0, by unfold Served; decide +kernel⟩

theorem test_o27_4 : ∃ (s : State), ∃ (rq : Request), ∃ (k : Nat), Served cmdSvcBank rq k s ∧ arg rq 0 1 = 0 ∧ arg rq 1 1 = 0 ∧ arg rq 2 2 = 0 :=
  ⟨up, req (le 1 0 ++ zeros 3), 0, by unfold Served; decide +kernel⟩

theorem test_o27_5 : ∃ (s : State), ∃ (rq : Request), ∃ (k : Nat), Served cmdSvcBank rq k s ∧ arg rq 0 1 = 2 ∧ arg rq 1 1 = 0 ∧ arg rq 2 2 = 0 ∧ bankBusy s = false ∧ s.svc.build ≠ .none :=
  ⟨{ up with svc := { build := .valid } }, req (le 1 2 ++ zeros 3), 0, by unfold Served; decide +kernel⟩

theorem test_o27_6 : ∃ (s : State), ∃ (rq : Request), ∃ (k : Nat), Served cmdSvcTraceConfig rq k s ∧ arg rq 0 1 = 0 ∧ arg rq 1 1 < 8 ∧ arg rq 2 1 < 8 ∧ arg rq 3 1 = 0 ∧ arg rq 4 2 ≤ 1023 ∧ arg rq 6 2 = 0 :=
  ⟨up, req (le 1 0 ++ le 1 7 ++ le 1 7 ++ le 1 0 ++ le 2 1023 ++ le 2 0), 0, by unfold Served; decide +kernel⟩

theorem test_o27_7 : ∃ (s : State), ∃ (rq : Request), ∃ (k : Nat), Served cmdSvcTraceExport rq k s ∧ 1 ≤ arg rq 0 1 ∧ arg rq 0 1 ≤ 7 ∧ arg rq 1 1 = 0 ∧ arg rq 2 2 = 0 ∧ arg rq 4 4 ≠ 0 ∧ arg rq 8 4 = 0xFFFFFFFF ∧ 1 ≤ arg rq 12 4 ∧ arg rq 12 4 ≤ 1048576 ∧ channelIdle s (arg rq 0 1) = true ∧ (∀ o ∈ s.fol.outstanding, o.ref ≠ s.fol.nextRef) :=
  ⟨up, req (le 1 7 ++ le 1 0 ++ le 2 0 ++ le 4 1 ++ le 4 0xFFFFFFFF ++ le 4 1048576), 0, by unfold Served; decide +kernel⟩

theorem test_o27_8 : ∃ (s : State), ∃ (rq : Request), ∃ (k : Nat), Served cmdSvcTraceMark rq k s ∧ arg rq 16 1 = 0 ∧ arg rq 17 3 = 0 ∧ s.svc.frozen = false ∧ s.svc.trigger = none ∧ s.svc.lost = 0 ∧ s.svc.traceSeq < 2 ^ 32 :=
  ⟨up, req (zeros 16 ++ zeros 4), 0, by unfold Served; decide +kernel⟩

/-! ## O28, HandoverFollowsItsTable -/

theorem test_o28_1 : ∃ (s : State), s.pwr.handover = .mainOn ∧ s.pwr.battPresent = true :=
  ⟨{ up with pwr := { up.pwr with handover := .mainOn, battPresent := true } }, by decide +kernel⟩

theorem test_o28_2 : ∃ (s : State), s.pwr.handover = .mainOn ∧ s.pwr.battPresent = false :=
  ⟨{ up with pwr := { up.pwr with handover := .mainOn, battOver := true, battPresent := false } }, by decide +kernel⟩

theorem test_o28_3 : ∃ (s : State), (s.pwr.handover = .mainQual ∨ s.pwr.handover = .toMain) :=
  ⟨{ up with pwr := { up.pwr with handover := .toMain } }, by decide +kernel⟩

theorem test_o28_5 : ∃ (s : State), s.pwr.handover = .battOn :=
  ⟨{ up with pwr := { up.pwr with handover := .battOn } }, by decide +kernel⟩

theorem test_o28_6 : ∃ (s : State), s.pwr.handover = .bank :=
  ⟨{ up with pwr := { up.pwr with handover := .bank } }, by decide +kernel⟩

theorem test_o28_7 : ∃ (s : State), s.pwr.handover = .mainQual :=
  ⟨{ up with pwr := { up.pwr with handover := .mainQual } }, by decide +kernel⟩

theorem test_o28_8 : ∃ (s : State), s.pwr.handover = .mainOn :=
  ⟨{ up with pwr := { up.pwr with handover := .mainOn, battPresent := true } }, by decide +kernel⟩

theorem test_o28_9 : ∃ (s : State), (s.pwr.handover = .toBatt ∨ s.pwr.handover = .battOn) :=
  ⟨{ up with pwr := { up.pwr with handover := .battOn, battPresent := true } }, by decide +kernel⟩

theorem test_o28_10 : ∃ (s : State), (s.pwr.handover = .mainQual ∨ s.pwr.handover = .toMain) :=
  ⟨{ up with pwr := { up.pwr with handover := .mainQual, battPresent := true } }, by decide +kernel⟩

theorem test_o28_12 : ∃ (s : State), s.pwr.handover = .mainOn :=
  ⟨up, by decide +kernel⟩

theorem test_o28_13 : ∃ (s : State), s.pwr.handover = .bank ∧ s.pwr.mainPresent = false :=
  ⟨{ up with pwr := { up.pwr with handover := .bank, mainPresent := false } }, by decide +kernel⟩

theorem test_o28_14 : ∃ (s : State), s.pwr.handover = .bank ∧ s.pwr.mainPresent = true :=
  ⟨{ up with pwr := { up.pwr with handover := .bank } }, by decide +kernel⟩

theorem test_o28_15 : ∃ (s : State), s.pwr.handover = .toBatt ∧ s.pwr.mainPresent = false :=
  ⟨{ up with pwr := { up.pwr with handover := .toBatt, mainPresent := false } }, by decide +kernel⟩

theorem test_o28_16 : ∃ (s : State), s.pwr.handover = .toMain :=
  ⟨{ up with pwr := { up.pwr with handover := .toMain } }, by decide +kernel⟩

theorem test_o28_17 : ∃ (s : State), s.pwr.mainUnstable = true :=
  ⟨{ up with pwr := { up.pwr with mainUnstable := true, mainLosses := [1, 2, 3] } }, by decide +kernel⟩

/-! ## O29, PowerDownEndsInKeep -/

theorem test_o29_1 : ∃ (s : State), s.pwr.mode ≠ .keep ∧ s.pwr.pdVigilFailed = none :=
  ⟨up, by decide +kernel⟩

theorem test_o29_2 : ∃ (s : State), s.pwr.mode ≠ .keep :=
  ⟨up, by decide +kernel⟩

theorem test_o29_3 : ∃ (s : State), s.pwr.mode = .keep :=
  ⟨{ up with pwr := { up.pwr with mode := .keep, vigilOn := false, fieldOn := false, computeOn := false } }, by decide +kernel⟩

theorem test_o29_4 : ∃ (s : State), s.pwr.keepDue = true ∧ s.pwr.mode ≠ .keep ∧ s.pwr.pdKeepFailed = false :=
  ⟨{ up with pwr := { up.pwr with keepDue := true } }, by decide +kernel⟩

theorem test_o29_5 : ∃ (s : State), s.pwr.mode ≠ .keep :=
  ⟨up, by decide +kernel⟩

theorem test_o29_6 : ∃ (s : State), s.pwr.mode ≠ .keep :=
  ⟨up, by decide +kernel⟩

theorem test_o29_7 : ∃ (s : State), s.pwr.mode ≠ .keep :=
  ⟨up, by decide +kernel⟩

theorem test_o29_8 : ∃ (s : State), s.pwr.mode ≠ .keep ∧ s.pwr.pdKeepFailed = true :=
  ⟨{ up with pwr := { up.pwr with pdKeepFailed := true } }, by decide +kernel⟩

theorem test_o29_9 : ∃ (s : State), ∃ k, s.pwr.mode ≠ .keep ∧ s.pwr.pdVigilFailed = some k ∧ k ≤ 2 :=
  ⟨{ up with pwr := { up.pwr with pdVigilFailed := some 2 } }, 2, by decide +kernel⟩

/-! ## O30, ModesFollowDemandsAndWakes -/

theorem test_o30_1 : ∃ (s : State), onBattery s = true ∧ s.pwr.battPolicy ≠ .none ∧ s.pwr.lowBattery = false :=
  ⟨{ up with pwr := { up.pwr with handover := .battOn, battPolicy := .lean } }, by decide +kernel⟩

theorem test_o30_2 : ∃ (s : State), onBattery s = true ∧ s.pwr.battLowDv ≠ 0 :=
  ⟨{ up with pwr := { up.pwr with handover := .battOn, battLowDv := 400 } }, by decide +kernel⟩

theorem test_o30_3 : ∃ (s : State), ∃ r k, thermalOf k = some r ∧ s.pwr.thermal.contains r = true ∧ dieTemp r s + 5 ≤ r.limit :=
  ⟨{ up with pwr := { up.pwr with thermal := [.glc100], tempC := 20 } }, .glc100, 0, by decide +kernel⟩

theorem test_o30_4 : ∃ (s : State), s.pwr.mode = .vigil ∧ s.pwr.vigilExiting = true ∧ s.pwr.vigilEntryBy = none :=
  ⟨{ up with pwr := { up.pwr with mode := .vigil, computeOn := false, vigilExiting := true } }, by decide +kernel⟩

theorem test_o30_5 : ∃ (s : State), s.pwr.mode = .keep ∧ s.pwr.keepCommanded = true ∧ s.pwr.wakeTime ≠ 0 ∧ s.pwr.keepStopped = false :=
  ⟨{ up with pwr := { up.pwr with mode := .keep, vigilOn := false, fieldOn := false, computeOn := false, keepCommanded := true, wakeTime := 5 } }, by decide +kernel⟩

theorem test_o30_6 : ∃ (s : State), s.pwr.mode = .keep ∧ inputPresent s = true ∧ (s.pwr.roseInKeep = true ∨ s.pwr.keepCommanded = false) :=
  ⟨{ up with pwr := { up.pwr with mode := .keep, vigilOn := false, fieldOn := false, computeOn := false, roseInKeep := true, modEnLow := false } }, by decide +kernel⟩

theorem test_o30_7 : ∃ (s : State), s.pwr.mode = .keep ∧ inputPresent s = false :=
  ⟨{ up with pwr := { up.pwr with mode := .keep, vigilOn := false, fieldOn := false, computeOn := false, mainPresent := false } }, by decide +kernel⟩

theorem test_o30_8 : ∃ (s : State), s.pwr.vigilOn = true :=
  ⟨up, by decide +kernel⟩

theorem test_o30_9 : ∃ (s : State), s.pwr.vigilOn = false :=
  ⟨State.reset, by decide +kernel⟩

/-! ## O31, ColdStartRunsInItsOrder -/

theorem test_o31_1 : ∃ (s : State), ∃ (i : StartInputs), mayStart s = true ∧ s.pwr.railFails = [] ∧ i.wet = true :=
  ⟨State.reset, ({ wet := true } : StartInputs), by decide +kernel⟩

theorem test_o31_2 : ∃ (s : State), ∃ (i : StartInputs), mayStart s = true ∧ s.pwr.railFails = [] ∧ i.wet = false ∧ s.pwr.fieldOn = false ∧ s.pwr.computeOn = false :=
  ⟨State.reset, ({} : StartInputs), by decide +kernel⟩

theorem test_o31_3 : ∃ (s : State), mayStart s = true ∧ s.pwr.railFails = [0] :=
  ⟨{ State.reset with pwr := { railFails := [0] } }, by decide +kernel⟩

theorem test_o31_4 : ∃ (s : State), s.pwr.vigilRetryDue = true ∧ s.pwr.railFails = [0] ∧ s.pwr.vigilRetries = 1 :=
  ⟨{ State.reset with pwr := { railFails := [0], vigilRetryDue := true, vigilRetries := 1 } }, by decide +kernel⟩

theorem test_o31_5 : ∃ (s : State), s.pwr.vigilRetryDue = true ∧ s.pwr.railFails = [] :=
  ⟨{ State.reset with pwr := { vigilRetryDue := true } }, by decide +kernel⟩

theorem test_o31_6 : ∃ (s : State), ∃ d, d ≤ 2 ∧ s.pwr.vigilOn = false :=
  ⟨State.reset, 2, by decide +kernel⟩

theorem test_o31_7 : ∃ (s : State), ∃ d, (d = 1 ∨ d = 2) ∧ s.pwr.vigilOn = true ∧ s.pwr.mode = .starting ∧ s.pwr.fieldOn = true ∧ s.pwr.computeOn = true :=
  ⟨{ up with pwr := { up.pwr with mode := .starting } }, 2, by decide +kernel⟩

theorem test_o31_8 : ∃ (s : State), s.pwr.mode = .hold ∧ s.pwr.railFails = [] ∧ s.pwr.fieldOn = false ∧ s.pwr.computeOn = false :=
  ⟨{ State.reset with pwr := { mode := .hold, vigilOn := true } }, by decide +kernel⟩

/-! ## O32, TimeSourcesSteerTheClock -/

theorem test_o32_1 : ∃ (s : State), ptpRuns s = true ∧ goodClass s.time.gmClass = true ∧ s.time.ptpHold = false ∧ s.time.ptp.qualified = false :=
  ⟨{ up with time := { ptpPorts := 1, gmClass := 6, gmPort := 0 } }, by decide +kernel⟩

theorem test_o32_2 : ∃ (s : State), ∃ (e : Int), ptpRuns s = true ∧ goodClass s.time.gmClass = true ∧ s.time.ptpHold = true ∧ portZeroUp s = true ∧ 1000 ≤ e.natAbs :=
  ⟨{ up with time := { ptpPorts := 1, gmClass := 7, gmPort := 0, ptpHold := true }, lnk := { ports := List.replicate 16 { phase := .up } } }, (-1000), by decide +kernel⟩

theorem test_o32_3 : ∃ (s : State), ∃ (p : Nat), p ≠ s.time.gmPort :=
  ⟨{ up with time := { ptpPorts := 1, gmClass := 7, gmPort := 0 } }, 1, by decide +kernel⟩

theorem test_o32_4 : ∃ (s : State), ∃ (a b : Announce), ptpRuns s = true ∧ (ptpGroups s).testBit a.port = true ∧ a.domain = s.time.ptpDomain ∧ bestAnnounce { s with time := { s.time with announces := Tab.put s.time.announces a.port a } } = some b :=
  ⟨{ up with time := { ptpPorts := 8, ptpDomain := 24 } }, ({ clockClass := 135, port := 3, domain := 24, accuracy := 0, variance := 0, priority2 := 0, identity := 0, steps := 0, utcOffset := 37, utcValid := true, leap59 := false, leap61 := false } : Announce), ({ clockClass := 135, port := 3, domain := 24, accuracy := 0, variance := 0, priority2 := 0, identity := 0, steps := 0, utcOffset := 37, utcValid := true, leap59 := false, leap61 := false } : Announce), by decide +kernel⟩

theorem test_o32_5 : ∃ (s : State), ∃ (a : Announce), a.domain ≠ s.time.ptpDomain :=
  ⟨{ up with time := { ptpDomain := 25 } }, ({ clockClass := 135, port := 3, domain := 24, accuracy := 0, variance := 0, priority2 := 0, identity := 0, steps := 0, utcOffset := 37, utcValid := true, leap59 := false, leap61 := false } : Announce), by decide +kernel⟩

theorem test_o32_6 : ∃ (s : State), s.time.ptpHold = false ∧ (Tab.get s.time.announces s.time.gmPort).isSome = true ∧ (∀ e ∈ s.time.announces, e.1 ≠ s.time.gmPort → (ptpGroups s).testBit e.1 = false) :=
  ⟨{ up with time := { ptpPorts := 1, ptpDomain := 24, gmClass := 6, gmPort := 0, announces := [(0, ({ clockClass := 6, port := 0, domain := 24, accuracy := 0, variance := 0, priority2 := 0, identity := 0, steps := 0, utcOffset := 37, utcValid := true, leap59 := false, leap61 := false } : Announce)), (3, ({ clockClass := 6, port := 3, domain := 24, accuracy := 0, variance := 0, priority2 := 0, identity := 0, steps := 0, utcOffset := 37, utcValid := true, leap59 := false, leap61 := false } : Announce))] } }, by decide +kernel⟩

theorem test_o32_7 : ∃ (s : State), ∃ p, s.time.ptpHold = false ∧ (Tab.get s.time.announces p).isSome = true ∧ p ≠ s.time.gmPort :=
  ⟨{ up with time := { ptpPorts := 1, ptpDomain := 24, gmClass := 6, gmPort := 0, announces := [(0, ({ clockClass := 6, port := 0, domain := 24, accuracy := 0, variance := 0, priority2 := 0, identity := 0, steps := 0, utcOffset := 37, utcValid := true, leap59 := false, leap61 := false } : Announce)), (3, ({ clockClass := 6, port := 3, domain := 24, accuracy := 0, variance := 0, priority2 := 0, identity := 0, steps := 0, utcOffset := 37, utcValid := true, leap59 := false, leap61 := false } : Announce))] } }, 3, by decide +kernel⟩

theorem test_o32_8 : ∃ (s : State), s.pwr.vigilOn = true ∧ s.time.pps.qualified = false :=
  ⟨{ up with time := { trust := .holdover } }, by decide +kernel⟩

theorem test_o32_10 : ∃ (s : State), sourcesApart s = true ∧ s.time.disagree = false ∧ s.time.utcDisagree = false :=
  ⟨{ up with time := { ptp := { qualified := true, offset := 1001 }, pps := { qualified := true, offset := 0 } } }, by decide +kernel⟩

theorem test_o32_11 : ∃ (s : State), s.time.pendingStep.isSome = true ∧ (selectedRecord s).isSome = true :=
  ⟨{ up with time := { pendingStep := some 5, ptp := { qualified := true, offset := 1001 }, base := .ptp } }, by decide +kernel⟩

theorem test_o32_12 : ∃ (s : State), s.time.trust = .holdover :=
  ⟨{ up with time := { trust := .holdover } }, by decide +kernel⟩

/-! ## O33, TicksOpenCloseAndCommit -/

theorem test_o33_1 : ∃ (s : State), s.pwr.vigilOn = true ∧ s.time.configNext = none ∧ stepNow s = 0 :=
  ⟨up, by decide +kernel⟩

theorem test_o33_2 : ∃ (s : State), s.led.frozenAt.isSome = true :=
  ⟨{ up with led := { frozenAt := some 3, ticks := [{ label := 1, phase := .committing, trust := .holdover }] } }, by decide +kernel⟩

theorem test_o33_3 : ∃ (s : State), glfRuns s = true :=
  ⟨{ up with met := { channels := List.replicate 192 { latest := some { window := 5, samples := [1] } } } }, by decide +kernel⟩

theorem test_o33_4 : ∃ (s : State), glfRuns s = true ∧ Tab.get s.flt.injections 4 = none :=
  ⟨up, by decide +kernel⟩

theorem test_o33_5 : ∃ (s : State), glfRuns s = true ∧ s.fio.downlinked = false :=
  ⟨up, by decide +kernel⟩

theorem test_o33_6 : ∃ (s : State), ∃ x, closingTick s = some x ∧ isOldest s x.label = true :=
  ⟨{ up with led := { ticks := [{ label := 5, phase := .opened, trust := .holdover }, { label := 6, phase := .opened, trust := .holdover }] } }, ({ label := 5, phase := .opened, trust := .holdover } : OpenTick), by decide +kernel⟩

theorem test_o33_7 : ∃ (s : State), ∃ x, closingTick s = some x ∧ isOldest s x.label = false :=
  ⟨{ up with led := { ticks := [{ label := 5, phase := .committing, trust := .holdover }, { label := 6, phase := .opened, trust := .holdover }] } }, ({ label := 6, phase := .opened, trust := .holdover } : OpenTick), by decide +kernel⟩

theorem test_o33_9 : ∃ (s : State), ∃ x rest, s.pwr.vigilOn = true ∧ s.led.ticks = x :: rest ∧ x.phase = .committing ∧ x.awaitingAck = false ∧ s.pwr.vigilEntryBy = none ∧ s.pwr.mode ≠ .starting :=
  ⟨{ up with led := { ticks := [{ label := 5, phase := .committing, trust := .holdover }, { label := 6, phase := .opened, trust := .holdover }] } }, ({ label := 5, phase := .committing, trust := .holdover } : OpenTick), ([{ label := 6, phase := .opened, trust := .holdover }] : List OpenTick), by decide +kernel⟩

theorem test_o33_10 : ∃ (s : State), ∃ x rest, s.led.ticks = x :: rest ∧ x.phase = .committing ∧ x.awaitingAck = false :=
  ⟨{ up with led := { ticks := [{ label := 5, phase := .committing, trust := .holdover }, { label := 6, phase := .opened, trust := .holdover }] } }, ({ label := 5, phase := .committing, trust := .holdover } : OpenTick), ([{ label := 6, phase := .opened, trust := .holdover }] : List OpenTick), by decide +kernel⟩

theorem test_o33_11 : ∃ (s : State), ∃ n, s.pwr.vigilOn = true ∧ s.led.record.abortList.contains n = true :=
  ⟨{ up with led := { record := { frontier := 9, abortList := [4, 5] } } }, 5, by decide +kernel⟩

/-! ## O34, KernelsRunOnFlorets -/

theorem test_o34_1 : ∃ (s : State), ∃ (f : Nat), ∃ x u, floretFree s f = true ∧ (criticalReady s).length ≤ freeFlorets s ∧ (Tab.getD s.yrw.florets f {}).preempted = [] ∧ chooseTask s f = some (x, u) :=
  ⟨{ up with yrw := { stopped := false, tasks := [{ id := 1, work := { id := 1, cls := .tick, kernel := 0x0101, rank := 1, units := 4, deadlineUs := 900, pageKind := 1 }, eff := .tick, label := 5, releasedUs := 0, deadlineUs := 900, todo := [0, 1] }] } }, 1023, ({ id := 1, work := { id := 1, cls := .tick, kernel := 0x0101, rank := 1, units := 4, deadlineUs := 900, pageKind := 1 }, eff := .tick, label := 5, releasedUs := 0, deadlineUs := 900, todo := [0, 1] } : Task), 0, by decide +kernel⟩

theorem test_o34_2 : ∃ (s : State), ∃ (f : Nat), ∃ x u i, floretFree s f = true ∧ (criticalReady s).length ≤ freeFlorets s ∧ (Tab.getD s.yrw.florets f {}).preempted.head? = some i ∧ mayResume s i = true ∧ chooseTask s f = some (x, u) ∧ keyBefore x.key (invocationKey s i) = false :=
  ⟨{ up with yrw := { stopped := false, tasks := [{ id := 1, work := { id := 1, cls := .background, kernel := 0x0101, rank := 9, units := 4, deadlineUs := 900, pageKind := 0 }, eff := .background, label := 5, releasedUs := 0, deadlineUs := 900, todo := [0, 1] }, { id := 2, work := { id := 2, cls := .tick, kernel := 0x0101, rank := 1, units := 4, deadlineUs := 900, pageKind := 0 }, eff := .tick, label := 5, releasedUs := 0, deadlineUs := 900, todo := [], running := 1 }], florets := [(1023, { preempted := [{ task := 2, workload := 2, kernel := 0x0102, label := 5, unit := 3, epoch := 0 }] })] } }, 1023, ({ id := 1, work := { id := 1, cls := .background, kernel := 0x0101, rank := 9, units := 4, deadlineUs := 900, pageKind := 0 }, eff := .background, label := 5, releasedUs := 0, deadlineUs := 900, todo := [0, 1] } : Task), 0, ({ task := 2, workload := 2, kernel := 0x0102, label := 5, unit := 3, epoch := 0 } : Invocation), by decide +kernel⟩

theorem test_o34_3 : ∃ (s : State), ∃ (f : Nat), ∃ us i x u, Tab.get s.yrw.running f = some i ∧ liveOn s f i = true ∧ (umbel s (f / 16)).draining = false ∧ (∀ y, taskById s i.task = some y → wiltDue s us y = false) ∧ floretOpen s f = true ∧ chooseTask s f = some (x, u) ∧ keyBefore x.key (invocationKey s i) = true :=
  ⟨{ up with yrw := { stopped := false, tasks := [{ id := 1, work := { id := 1, cls := .tick, kernel := 0x0101, rank := 1, units := 4, deadlineUs := 900, pageKind := 1 }, eff := .tick, label := 5, releasedUs := 0, deadlineUs := 900, todo := [0, 1] }, { id := 2, work := { id := 2, cls := .background, kernel := 0x0101, rank := 9, units := 4, deadlineUs := 900, pageKind := 0 }, eff := .background, label := 5, releasedUs := 0, deadlineUs := 900, todo := [0, 1], running := 1 }], running := [(1023, { task := 2, workload := 2, kernel := 0x0102, label := 5, unit := 3, epoch := 0 })] } }, 1023, 999, ({ task := 2, workload := 2, kernel := 0x0102, label := 5, unit := 3, epoch := 0 } : Invocation), ({ id := 1, work := { id := 1, cls := .tick, kernel := 0x0101, rank := 1, units := 4, deadlineUs := 900, pageKind := 1 }, eff := .tick, label := 5, releasedUs := 0, deadlineUs := 900, todo := [0, 1] } : Task), 0, ⟨by decide +kernel, by decide +kernel, by decide +kernel, fun y h => by cases h; decide +kernel, by decide +kernel, by decide +kernel, by decide +kernel⟩⟩

theorem test_o34_4 : ∃ (s : State), ∃ (f : Nat), ∃ us i, Tab.get s.yrw.running f = some i ∧ liveOn s f i = true ∧ (umbel s (f / 16)).draining = false ∧ (∀ y, taskById s i.task = some y → wiltDue s us y = false) ∧ chooseTask s f = none :=
  ⟨{ up with yrw := { stopped := false, tasks := [{ id := 2, work := { id := 2, cls := .background, kernel := 0x0101, rank := 9, units := 4, deadlineUs := 900, pageKind := 0 }, eff := .background, label := 5, releasedUs := 0, deadlineUs := 900, todo := [], running := 1 }], running := [(1023, { task := 2, workload := 2, kernel := 0x0102, label := 5, unit := 3, epoch := 0 })] } }, 1023, 999, ({ task := 2, workload := 2, kernel := 0x0102, label := 5, unit := 3, epoch := 0 } : Invocation), ⟨by decide +kernel, by decide +kernel, by decide +kernel, fun y h => by cases h; decide +kernel, by decide +kernel⟩⟩

theorem test_o34_5 : ∃ (s : State), ∃ (f : Nat), ∃ i, Tab.get s.yrw.running f = some i ∧ liveOn s f i = true ∧ (umbel s (f / 16)).draining = true :=
  ⟨{ up with yrw := { stopped := false, tasks := [{ id := 2, work := { id := 2, cls := .background, kernel := 0x0101, rank := 9, units := 4, deadlineUs := 900, pageKind := 0 }, eff := .background, label := 5, releasedUs := 0, deadlineUs := 900, todo := [], running := 1 }], running := [(1023, { task := 2, workload := 2, kernel := 0x0102, label := 5, unit := 3, epoch := 0 })], umbels := List.replicate 63 {} ++ [{ phase := .active, draining := true }] } }, 1023, ({ task := 2, workload := 2, kernel := 0x0102, label := 5, unit := 3, epoch := 0 } : Invocation), by decide +kernel⟩

theorem test_o34_6 : ∃ (s : State), ∃ (f : Nat), ∃ us i y, Tab.get s.yrw.running f = some i ∧ liveOn s f i = true ∧ taskById s i.task = some y ∧ wiltDue s us y = true :=
  ⟨{ up with yrw := { stopped := false, tasks := [{ id := 2, work := { id := 2, cls := .background, kernel := 0x0101, rank := 9, units := 4, deadlineUs := 900, wiltMarginUs := 900, wiltWidth := 1, pageKind := 0 }, eff := .background, label := 5, releasedUs := 0, deadlineUs := 900, todo := [], running := 1 }], running := [(1023, { task := 2, workload := 2, kernel := 0x0102, label := 5, unit := 3, epoch := 0 })] } }, 1023, 1, ({ task := 2, workload := 2, kernel := 0x0102, label := 5, unit := 3, epoch := 0 } : Invocation), ({ id := 2, work := { id := 2, cls := .background, kernel := 0x0101, rank := 9, units := 4, deadlineUs := 900, wiltMarginUs := 900, wiltWidth := 1, pageKind := 0 }, eff := .background, label := 5, releasedUs := 0, deadlineUs := 900, todo := [], running := 1 } : Task), by decide +kernel⟩

theorem test_o34_7 : ∃ (s : State), ∃ (f : Nat), ∃ i, Tab.get s.yrw.running f = some i ∧ i.stalled = false ∧ liveOn s f i = true :=
  ⟨{ up with yrw := { stopped := false, tasks := [{ id := 2, work := { id := 2, cls := .background, kernel := 0x0101, rank := 9, units := 4, deadlineUs := 900, pageKind := 0 }, eff := .background, label := 5, releasedUs := 0, deadlineUs := 900, todo := [], running := 1 }], running := [(1023, { task := 2, workload := 2, kernel := 0x0102, label := 5, unit := 3, epoch := 0, page := some (1, 3) })], heldPages := [(1, 3, 1023, 5), (1, 4, 1023, 5)] } }, 1023, ({ task := 2, workload := 2, kernel := 0x0102, label := 5, unit := 3, epoch := 0, page := some (1, 3) } : Invocation), by decide +kernel⟩

theorem test_o34_8 : ∃ (s : State), ∃ (f : Nat), ∃ i, Tab.get s.yrw.running f = some i ∧ i.stalled = true ∧ liveOn s f i = true :=
  ⟨{ up with yrw := { stopped := false, tasks := [{ id := 2, work := { id := 2, cls := .tick, kernel := 0x0101, rank := 9, units := 4, deadlineUs := 900, pageKind := 1 }, eff := .tick, label := 5, releasedUs := 0, deadlineUs := 900, todo := [0, 1], running := 1, ahead := true }], running := [(1023, { task := 2, workload := 2, kernel := 0x0102, label := 5, unit := 3, epoch := 0, stalled := true })] } }, 1023, ({ task := 2, workload := 2, kernel := 0x0102, label := 5, unit := 3, epoch := 0, stalled := true } : Invocation), by decide +kernel⟩

theorem test_o34_9 : ∃ (s : State), ∃ (f : Nat), ∃ i, Tab.get s.yrw.running f = some i ∧ i.stalled = false :=
  ⟨{ up with yrw := { stopped := false, running := [(1023, { task := 2, workload := 2, kernel := 0x0102, label := 5, unit := 3, epoch := 0 })] } }, 1023, ({ task := 2, workload := 2, kernel := 0x0102, label := 5, unit := 3, epoch := 0 } : Invocation), by decide +kernel⟩

theorem test_o34_10 : ∃ (s : State), ∃ (f : Nat), ∃ i x, Tab.get s.yrw.running f = some i ∧ i.stalled = false ∧ taskById s i.task = some x ∧ x.faulted.any (fun e => e.1 == i.unit) = false :=
  ⟨{ up with yrw := { stopped := false, tasks := [{ id := 2, work := { id := 2, cls := .background, kernel := 0x0101, rank := 9, units := 4, deadlineUs := 900, pageKind := 0 }, eff := .background, label := 5, releasedUs := 0, deadlineUs := 900, todo := [], running := 1 }], running := [(1023, { task := 2, workload := 2, kernel := 0x0102, label := 5, unit := 3, epoch := 0 })] } }, 1023, ({ task := 2, workload := 2, kernel := 0x0102, label := 5, unit := 3, epoch := 0 } : Invocation), ({ id := 2, work := { id := 2, cls := .background, kernel := 0x0101, rank := 9, units := 4, deadlineUs := 900, pageKind := 0 }, eff := .background, label := 5, releasedUs := 0, deadlineUs := 900, todo := [], running := 1 } : Task), by decide +kernel⟩

theorem test_o34_11 : ∃ (s : State), ∃ (f : Nat), ∃ i x, Tab.get s.yrw.running f = some i ∧ i.stalled = false ∧ taskById s i.task = some x ∧ x.faulted.any (fun e => e.1 == i.unit) = true :=
  ⟨{ up with yrw := { stopped := false, tasks := [{ id := 2, work := { id := 2, cls := .background, kernel := 0x0101, rank := 9, units := 4, deadlineUs := 900, pageKind := 0 }, eff := .background, label := 5, releasedUs := 0, deadlineUs := 900, todo := [], running := 1, faulted := [(3, 1)] }], running := [(1023, { task := 2, workload := 2, kernel := 0x0102, label := 5, unit := 3, epoch := 0 })] } }, 1023, ({ task := 2, workload := 2, kernel := 0x0102, label := 5, unit := 3, epoch := 0 } : Invocation), ({ id := 2, work := { id := 2, cls := .background, kernel := 0x0101, rank := 9, units := 4, deadlineUs := 900, pageKind := 0 }, eff := .background, label := 5, releasedUs := 0, deadlineUs := 900, todo := [], running := 1, faulted := [(3, 1)] } : Task), by decide +kernel⟩

theorem test_o34_12 : ∃ (s : State), ∃ w x, s.yrw.tasks.find? (fun t => t.work.id == w && !t.missed && !t.done && decide (t.deadlineUs ≤ nowUs s + 1000)) = some x :=
  ⟨{ up with yrw := { stopped := false, tasks := [{ id := 1, work := { id := 1, cls := .tick, kernel := 0x0101, rank := 1, units := 4, deadlineUs := 900, pageKind := 1 }, eff := .tick, label := 5, releasedUs := 0, deadlineUs := 900, todo := [0, 1] }] } }, 1, ({ id := 1, work := { id := 1, cls := .tick, kernel := 0x0101, rank := 1, units := 4, deadlineUs := 900, pageKind := 1 }, eff := .tick, label := 5, releasedUs := 0, deadlineUs := 900, todo := [0, 1] } : Task), by decide +kernel⟩

/-! ## O35, UmbelsAreWatched -/

theorem test_o35_1 : ∃ (s : State), ∃ (u : Nat), ∃ i, u < 64 ∧ u < s.yrw.umbels.length ∧ i < 16 ∧ Tab.get s.flt.injections 1 = none ∧ Tab.get s.yrw.running (16 * u + i) = none ∧ (umbel s u).sramErrors = 0 ∧ (umbel s u).draining = false :=
  ⟨{ up with yrw := { umbels := List.replicate 63 {} ++ [{ phase := .active }] } }, 63, 15, by decide +kernel⟩

theorem test_o35_2 : ∃ (s : State), ∃ (u : Nat), ∃ i, u < 64 ∧ u < s.yrw.umbels.length ∧ i < 16 ∧ Tab.get s.flt.injections 1 = none ∧ Tab.get s.yrw.running (16 * u + i) = none ∧ (umbel s u).sramErrors = 1 ∧ (umbel s u).phase = .active ∨ (umbel s u).phase = .spare :=
  ⟨{ up with yrw := { umbels := List.replicate 63 {} ++ [{ phase := .active, sramErrors := 1 }] } }, 63, 15, by decide +kernel⟩

theorem test_o35_3 : ∃ (s : State), ∃ (u : Nat), ∃ i, u < 64 ∧ u < s.yrw.umbels.length ∧ i < 16 ∧ Tab.get s.flt.injections 1 = none ∧ (umbel s u).draining = false :=
  ⟨{ up with yrw := { umbels := List.replicate 63 {} ++ [{ phase := .active }] } }, 63, 15, by decide +kernel⟩

theorem test_o35_4 : ∃ (s : State), ∃ (u : Nat), ∃ i, ∃ (x : Invocation), u < 64 ∧ u < s.yrw.umbels.length ∧ i < 16 ∧ Tab.get s.yrw.running (16 * u + i) = some x ∧ (umbel s u).draining = false :=
  ⟨{ up with yrw := { umbels := List.replicate 63 {} ++ [{ phase := .active }], running := [(1023, { task := 2, workload := 2, kernel := 0x0102, label := 5, unit := 3, epoch := 0 })] } }, 63, 15, ({ task := 2, workload := 2, kernel := 0x0102, label := 5, unit := 3, epoch := 0 } : Invocation), by decide +kernel⟩

theorem test_o35_5 : ∃ (s : State), ∃ (u : Nat), ∃ i, u < 64 ∧ u < s.yrw.umbels.length ∧ i < 16 ∧ (umbel s u).phase = .active ∨ (umbel s u).phase = .spare :=
  ⟨{ up with yrw := { umbels := List.replicate 63 {} ++ [{ phase := .active }] } }, 63, 15, by decide +kernel⟩

theorem test_o35_6 : ∃ (s : State), ∃ (u : Nat), u < 64 ∧ u < s.yrw.umbels.length ∧ (umbel s u).phase = .active ∨ (umbel s u).phase = .spare :=
  ⟨{ up with yrw := { umbels := List.replicate 63 {} ++ [{ phase := .spare }] } }, 63, by decide +kernel⟩

theorem test_o35_7 : ∃ (s : State), ∃ (u : Nat), u < 64 ∧ u < s.yrw.umbels.length ∧ (umbel s u).phase = .fenced :=
  ⟨{ up with yrw := { umbels := List.replicate 63 {} ++ [{ phase := .fenced }] } }, 63, by decide +kernel⟩

theorem test_o35_8 : ∃ (s : State), ∃ (u : Nat), u < 64 ∧ u < s.yrw.umbels.length ∧ (umbel s u).phase = .active ∨ (umbel s u).phase = .spare :=
  ⟨{ up with yrw := { umbels := List.replicate 63 {} ++ [{ phase := .active }] } }, 63, by decide +kernel⟩

theorem test_o35_9 : ∃ (s : State), ∃ (u : Nat), u < 64 ∧ u < s.yrw.umbels.length ∧ (umbel s u).phase = .fenced ∧ (umbel s u).inReset = true :=
  ⟨{ up with yrw := { umbels := List.replicate 63 {} ++ [{ phase := .fenced, inReset := true }] } }, 63, by decide +kernel⟩

theorem test_o35_10 : ∃ (s : State), ∃ (u : Nat), u < 64 ∧ u < s.yrw.umbels.length ∧ (umbel s u).phase = .testing :=
  ⟨{ up with yrw := { umbels := List.replicate 63 {} ++ [{ phase := .testing }] } }, 63, by decide +kernel⟩

theorem test_o35_11 : ∃ (s : State), ∃ (u : Nat), u < 64 ∧ u < s.yrw.umbels.length ∧ (umbel s u).phase = .testing :=
  ⟨{ up with yrw := { umbels := List.replicate 63 {} ++ [{ phase := .testing }] } }, 63, by decide +kernel⟩

theorem test_o35_12 : ∃ (s : State), ∃ (u : Nat), ∃ e, u < 64 ∧ u < s.yrw.umbels.length ∧ e ≠ (umbel s u).epoch ∧ (umbel s u).phase = .fenced :=
  ⟨{ up with yrw := { umbels := List.replicate 63 {} ++ [{ phase := .fenced }] } }, 63, 1, by decide +kernel⟩

theorem test_o35_13 : ∃ (s : State), ∃ (u : Nat), ∃ e, u < 64 ∧ u < s.yrw.umbels.length ∧ e ≠ (umbel s u).epoch ∧ (umbel s u).phase = .active ∨ (umbel s u).phase = .spare :=
  ⟨{ up with yrw := { umbels := List.replicate 63 {} ++ [{ phase := .active }] } }, 63, 1, by decide +kernel⟩

/-! ## O36, MemoryFollowsItsArbitersAndCodes -/

theorem test_o36_1 : ∃ (s : State), ∃ a r, ∃ (u : Option (Nat × Nat)), ∃ n, a < 5 ∧ a < s.mem.arbiters.length ∧ (arbiter s a).holder = none ∧ (arbiter s a).waiting = [] ∧ askPasses s a r u = true ∧ n ≠ 0 ∧ r ∈ ranking s a :=
  ⟨{ up with mem := { arbiters := List.replicate 4 {} ++ [{ table := { slots := List.replicate 256 15, burst := [16, 64], ranking := [1, 0] } }] } }, 4, 1, none, 64, by decide +kernel⟩

theorem test_o36_2 : ∃ (s : State), ∃ a, a < 5 ∧ a < s.mem.arbiters.length :=
  ⟨up, 4, by decide +kernel⟩

theorem test_o36_3 : ∃ (s : State), ∃ a r q, a < s.mem.arbiters.length ∧ (arbiter s a).table.waitUs ≠ 0 ∧ (arbiter s a).waiting.find? (fun q => q.requester == r && !q.reported && decide (1000 * (arbiter s a).table.waitUs < q.waitNs)) = some q :=
  ⟨{ up with mem := { arbiters := List.replicate 4 {} ++ [{ table := { slots := [], burst := [], ranking := [], waitUs := 10 }, waiting := [{ requester := 1, beats := 8, waitNs := 10001 }] }] } }, 4, 1, ({ requester := 1, beats := 8, waitNs := 10001 } : ArbRequest), by decide +kernel⟩

theorem test_o36_4 : ∃ (s : State), ∃ addr, s.pwr.computeOn = true ∧ addr < 0xC00000000 ∧ Tab.get s.flt.injections 0 = none :=
  ⟨up, 0xBFFFFFFFF, by decide +kernel⟩

theorem test_o36_5 : ∃ (s : State), ∃ addr, s.pwr.computeOn = true ∧ addr < 0xC00000000 ∧ Tab.get s.flt.injections 0 = none :=
  ⟨up, 0xBFFFFFFFF, by decide +kernel⟩

theorem test_o36_6 : ∃ (s : State), s.pwr.computeOn = true :=
  ⟨up, by decide +kernel⟩

theorem test_o36_7 : ∃ (s : State), ∃ addr, s.pwr.vigilOn = true ∧ addr < 2 ^ 30 ∧ Tab.get s.flt.injections 3 = none :=
  ⟨up, (2 ^ 30 - 1), by decide +kernel⟩

theorem test_o36_8 : ∃ (s : State), ∃ addr, s.pwr.vigilOn = true ∧ addr < 2 ^ 30 ∧ Tab.get s.flt.injections 3 = none :=
  ⟨up, 0, by decide +kernel⟩

theorem test_o36_9 : ∃ (s : State), ∃ a, accountDamaged s a = true ∧ s.duty.contact = true ∧ s.duty.sync = .inSync ∧ (∀ o ∈ s.led.orders, o.ref ≠ 2 ^ 32 + a) :=
  ⟨{ up with led := { accounts := [(9, { damaged := true })] }, duty := { role := .duty, contact := true, sync := .inSync } }, 9, by decide +kernel⟩

/-! ## O37, RingsFollowTheirRecords -/

theorem test_o37_1 : ∃ (s : State), ∃ i p, ∃ (f : Bytes), recordFrame f ≠ none ∧ p = rd f 8 1 ∧ p < 16 ∧ i < s.met.rings.length ∧ p < (ringOf s i).positions.length ∧ (ringPos s i p).isBound = true ∧ (∀ w, (ringPos s i p).lastWindow = some w → w < rd f 16 8) :=
  ⟨{ up with met := { rings := [{}, { phase := .intact, positions := List.replicate 15 {} ++ [{ status := 1, lastWindow := some 5 }] }] } }, 1, 15, recordFrame15, ⟨record15_good, by decide +kernel, by decide +kernel, by decide +kernel, by decide +kernel, by decide +kernel, fun w h => by cases h; decide +kernel⟩⟩

theorem test_o37_2 : ∃ (f : Bytes), (f.length ≠ 500 ∨ rd f 0 1 ≠ 2 ∨ rd f 2 2 ≠ 488 ∨ rd f 496 4 ≠ crc32 (f.take 496)) :=
  ⟨(zeros 500), by decide +kernel⟩

theorem test_o37_3 : ∃ (s : State), ∃ i p, i < s.met.rings.length ∧ p < (ringOf s i).positions.length :=
  ⟨{ up with met := { rings := [{}, { phase := .intact, positions := List.replicate 15 {} ++ [{ status := 1 }] }] } }, 1, 15, by decide +kernel⟩

theorem test_o37_4 : ∃ (s : State), ∃ i, i < s.met.rings.length ∧ (ringOf s i).phase = .intact :=
  ⟨{ up with met := { rings := [{}, { phase := .intact, positions := List.replicate 15 {} ++ [{ status := 1 }] }] } }, 1, by decide +kernel⟩

theorem test_o37_5 : ∃ (s : State), ∃ i h, (ringOf s i).phase = .wrapped ∧ (ringOf s i).broken.contains h = true :=
  ⟨{ up with met := { rings := [{}, { phase := .wrapped, broken := [15], positions := List.replicate 15 {} ++ [{ status := 1 }] }] } }, 1, 15, by decide +kernel⟩

theorem test_o37_6 : ∃ (s : State), ∃ i h, i < s.met.rings.length ∧ (ringOf s i).phase = .wrapped ∧ (ringOf s i).broken.contains h = false :=
  ⟨{ up with met := { rings := [{}, { phase := .wrapped, broken := [14], positions := List.replicate 15 {} ++ [{ status := 1 }] }] } }, 1, 15, by decide +kernel⟩

theorem test_o37_7 : ∃ (s : State), ∃ i, i < s.met.rings.length ∧ ((ringOf s i).phase = .wrapped ∨ (ringOf s i).phase = .segmented) :=
  ⟨{ up with met := { rings := [{}, { phase := .segmented, positions := List.replicate 15 {} ++ [{ status := 1 }] }] } }, 1, by decide +kernel⟩

theorem test_o37_8 : ∃ (s : State), ∃ i, i < s.met.rings.length ∧ (ringOf s i).phase = .enumerating :=
  ⟨{ up with met := { rings := [{}, { phase := .enumerating, positions := List.replicate 15 {} ++ [{ status := 1 }] }] } }, 1, by decide +kernel⟩

theorem test_o37_9 : ∃ (s : State), ∃ i p, i < s.met.rings.length ∧ p < (ringOf s i).positions.length ∧ ((ringOf s i).phase = .intact ∨ (ringOf s i).phase = .wrapped ∨ (ringOf s i).phase = .segmented) ∧ (ringPos s i p).status = 1 ∧ 3 ≤ (ringPos s i p).missed :=
  ⟨{ up with met := { rings := [{}, { phase := .intact, positions := List.replicate 15 {} ++ [{ status := 1, missed := 3 }] }] } }, 1, 15, by decide +kernel⟩

theorem test_o37_10 : ∃ (s : State), ∃ i p x, (ringPos s i p).unreachableAt = some x ∧ x + 60000 ≤ s.time.uptime ∧ (ringOf s i).phase = .segmented ∧ (ringPos s i p).status = 6 ∧ satSets s.met.calib i p ≠ [] :=
  ⟨{ up with met := { calib := { sets := [{ set := 1, kind := 1, location := 2, slot := 15 }] }, rings := [{}, { phase := .segmented, positions := List.replicate 15 {} ++ [{ status := 6, unreachableAt := some 1000 }] }] }, time := { uptime := 61000 } }, 1, 15, 1000, by decide +kernel⟩

theorem test_o37_11 : ∃ (s : State), ∃ i p, i < s.met.rings.length ∧ p < (ringOf s i).positions.length :=
  ⟨{ up with met := { rings := [{}, { phase := .intact, positions := List.replicate 15 {} ++ [{ status := 1 }] }] } }, 1, 15, by decide +kernel⟩

/-! ## O38, MetrologyChecksItself -/

theorem test_o38_1 : ∃ (s : State), ∃ g, g < s.met.groups.length ∧ (groupOf s g).phase = .idle ∧ (groupOf s g).retired = false ∧ (groupOf s g).held = false ∧ groupPowered s g = true :=
  ⟨{ up with met := { groups := List.replicate 35 {} ++ [{ index := 0 }] } }, 35, by decide +kernel⟩

theorem test_o38_2 : ∃ (s : State), ∃ g, g < s.met.groups.length ∧ (groupOf s g).phase = .matching ∧ (groupOf s g).held = true :=
  ⟨{ up with met := { groups := List.replicate 35 {} ++ [{ phase := .matching, held := true }] } }, 35, by decide +kernel⟩

theorem test_o38_3 : ∃ (s : State), ∃ g, g < s.met.groups.length ∧ (groupOf s g).phase = .matching ∧ (groupOf s g).held = false :=
  ⟨{ up with met := { groups := List.replicate 35 {} ++ [{ phase := .matching }] } }, 35, by decide +kernel⟩

theorem test_o38_4 : ∃ (s : State), ∃ g, g < s.met.groups.length ∧ (groupOf s g).phase = .matching ∧ (groupOf s g).held = false :=
  ⟨{ up with met := { groups := List.replicate 35 {} ++ [{ phase := .matching }] } }, 35, by decide +kernel⟩

theorem test_o38_5 : ∃ (s : State), ∃ g, g < s.met.groups.length ∧ (groupOf s g).phase = .rematch :=
  ⟨{ up with met := { groups := List.replicate 35 {} ++ [{ phase := .rematch }] } }, 35, by decide +kernel⟩

theorem test_o38_6 : ∃ (s : State), ∃ g, g < s.met.groups.length ∧ (groupOf s g).phase = .test :=
  ⟨{ up with met := { groups := List.replicate 35 {} ++ [{ phase := .test }] } }, 35, by decide +kernel⟩

theorem test_o38_7 : ∃ (s : State), ∃ g, g < s.met.groups.length ∧ (groupOf s g).phase = .test :=
  ⟨{ up with met := { groups := List.replicate 35 {} ++ [{ phase := .test }] } }, 35, by decide +kernel⟩

theorem test_o38_8 : ∃ (s : State), ∃ g, g < s.met.groups.length ∧ (groupOf s g).phase = .spareCheck ∧ (groupOf s g).primaryOut = false :=
  ⟨{ up with met := { groups := List.replicate 35 {} ++ [{ phase := .spareCheck }] } }, 35, by decide +kernel⟩

theorem test_o38_9 : ∃ (s : State), ∃ g, g < s.met.groups.length ∧ (groupOf s g).phase ≠ .pinned :=
  ⟨{ up with met := { groups := List.replicate 35 {} ++ [{ phase := .spareCheck }] } }, 35, by decide +kernel⟩

theorem test_o38_10 : ∃ (s : State), ∃ k r e d, calSet s.met.calib k = some e ∧ e.location = 0 ∧ Tab.get (metSet s k).demand r = some d ∧ k < s.met.sets.length ∧ s.pwr.fieldOn = true ∧ boundaryDue s d = true ∧ d.waits = none :=
  ⟨{ up with met := { calib := { sets := [{ set := 31, kind := 1 }] }, sets := List.replicate 31 {} ++ [{ demand := [(3, { quantity := 0, intervalMin := 15, subCount := 1, index := some 0 })] }] }, time := { gliris := 10000000 } }, 31, 3, ({ set := 31, kind := 1 } : CalSet), ({ quantity := 0, intervalMin := 15, subCount := 1, index := some 0 } : DemandReg), by decide +kernel⟩

theorem test_o38_11 : ∃ (s : State), ∃ k r e d, calSet s.met.calib k = some e ∧ e.location ≠ 0 ∧ Tab.get (metSet s k).demand r = some d ∧ k < s.met.sets.length ∧ s.pwr.fieldOn = true ∧ boundaryDue s d = true ∧ d.waits = none ∧ (metSet s k).received = [] :=
  ⟨{ up with met := { calib := { sets := [{ set := 31, kind := 1, location := 1 }] }, sets := List.replicate 31 {} ++ [{ demand := [(3, { quantity := 0, intervalMin := 15, subCount := 1, index := some 0 })] }] }, time := { gliris := 10000000 } }, 31, 3, ({ set := 31, kind := 1, location := 1 } : CalSet), ({ quantity := 0, intervalMin := 15, subCount := 1, index := some 0 } : DemandReg), by decide +kernel⟩

theorem test_o38_12 : ∃ (s : State), s.pwr.fieldOn = true ∧ s.met.fieldUpAt + 20000 ≤ s.time.uptime :=
  ⟨{ up with time := { uptime := 20000 } }, by decide +kernel⟩

theorem test_o38_13 : ∃ (s : State), ∃ c, s.met.capture = some c ∧ c.running = false ∧ s.pwr.fieldOn = true ∧ c.channels.all (captureReady s) = true :=
  ⟨{ up with met := { capture := some { ref := 3, channels := [0], reference := 0, stream := 0, ticks := 1024, transferId := 0 } } }, ({ ref := 3, channels := [0], reference := 0, stream := 0, ticks := 1024, transferId := 0 } : Capture), by decide +kernel⟩

theorem test_o38_14 : ∃ (s : State), ∃ c o, s.met.capture = some c ∧ c.running = true ∧ c.ticks ≤ c.done ∧ s.fol.outstanding.find? (fun x => x.ref == c.ref) = some o :=
  ⟨{ up with met := { capture := some { ref := 3, channels := [0], reference := 0, stream := 0, ticks := 1024, transferId := 0, running := true, done := 1024 } }, fol := { up.fol with outstanding := [{ ref := 3, session := 2, tag := 7, opcode := 0x0512 }] } }, ({ ref := 3, channels := [0], reference := 0, stream := 0, ticks := 1024, transferId := 0, running := true, done := 1024 } : Capture), ({ ref := 3, session := 2, tag := 7, opcode := 0x0512 } : Outstanding), by decide +kernel⟩

theorem test_o38_15 : ∃ (s : State), ∃ p c, 1 ≤ p ∧ p ≤ 16 ∧ p ≤ s.seals.sensed.length ∧ sealClosed s p ≠ c :=
  ⟨up, 16, true, by decide +kernel⟩

theorem test_o38_16 : ∃ (s : State), ∃ b w, dataPathUp s = true ∧ (bridgeAt s b).phase ≠ .absent ∧ windowOver s w = true ∧ windowHeld s b 0 w = none :=
  ⟨{ up with stem := { bridges := [(8191, { phase := .online })] }, bal := { firstTick := some 0 }, time := { gliris := 10000000 } }, 8191, 1, by decide +kernel⟩

/-! ## O39, BridgeFramesAreTaken -/

theorem test_o39_1 : ∃ (s : State), ∃ (b : Nat), ∃ (f : Bytes), ∃ (e : StemEpoch), Heard s b 1 f e ∧ (bridgeAt s b).config.streams.testBit 0 = true ∧ (bridgeAt s b).clockFault = false ∧ InWindow s f ∧ heldAlready (bridgeAt s b) 1 (widen s (rd f 16 4)).toNat = false :=
  ⟨stemmed, 8191, (untagged 1 1 10000002 (zeros 1500)), epoch1, by unfold Heard InWindow; decide +kernel⟩

theorem test_o39_2 : ∃ (s : State), ∃ (b : Nat), ∃ (f : Bytes), ∃ (e : StemEpoch), Heard s b 2 f e ∧ (bridgeAt s b).config.streams.testBit 1 = true ∧ (bridgeAt s b).clockFault = false ∧ InWindow s f ∧ heldAlready (bridgeAt s b) 2 (widen s (rd f 16 4)).toNat = false :=
  ⟨stemmed, 8191, (untagged 2 1 10000002 (zeros 1600)), epoch1, by unfold Heard InWindow; decide +kernel⟩

theorem test_o39_3 : ∃ (s : State), ∃ (b : Nat), ∃ (f : Bytes), ∃ (e : StemEpoch), Heard s b 3 f e ∧ (bridgeAt s b).config.streams.testBit 2 = true ∧ (bridgeAt s b).clockFault = false ∧ InWindow s f ∧ heldAlready (bridgeAt s b) 3 (widen s (rd f 16 4)).toNat = false :=
  ⟨stemmed, 8191, (untagged 3 1 10000002 (zeros 168)), epoch1, by unfold Heard InWindow; decide +kernel⟩

theorem test_o39_4 : ∃ (s : State), ∃ (b : Nat), ∃ (f : Bytes), ∃ (e : StemEpoch), Heard s b 4 f e :=
  ⟨stemmed, 8191, (untagged 4 1 10000002 (zeros 32)), epoch1, by unfold Heard; decide +kernel⟩

theorem test_o39_5 : ∃ (s : State), ∃ (b : Nat), ∃ (f : Bytes), stemUp s = true ∧ servesBridges s = true ∧ frameFormed 5 f = true ∧ rd f 2 2 = b ∧ (bridgeAt s b).config.kind = 0 ∧ (bridgeAt s b).phase ≠ .absent ∧ (bridgeAt s b).phase ≠ .fenced :=
  ⟨{ stemmed with stem := { bridges := [(8191, { bridge1 with phase := .waiting })] } }, 8191, (untagged 5 0 10000002 (zeros 88)), by decide +kernel⟩

theorem test_o39_6 : ∃ (s : State), ∃ (b : Nat), ∃ (f : Bytes), ∃ (e : StemEpoch), s.duty.role = .single ∧ Heard s b 6 f e ∧ (bridgeAt s b).current = some e ∧ laterGen (rd f 22 2) 0 = false ∧ TagHolds s b f e :=
  ⟨stemmed, 8191, (tagged 6 1 10000002 (zeros 4)), epoch1, by unfold Heard TagHolds; decide +kernel⟩

theorem test_o39_7 : ∃ (s : State), ∃ (b : Nat), ∃ (f : Bytes), ∃ (e : StemEpoch), s.duty.role = .single ∧ Heard s b 6 f e ∧ ((bridgeAt s b).current.map (·.epoch)).getD 0 ≠ rd f 8 4 ∧ laterGen (rd f 22 2) 0 = true :=
  ⟨{ stemmed with stem := { bridges := [(8191, { bridge1 with current := none, previous := some (epoch1, 10000003) })] } }, 8191, (untagged 6 1 10000002 (zeros 2 ++ le 2 32767)), epoch1, by unfold Heard; decide +kernel⟩

/-! ## O40, BridgesFollowTheirTimers -/

theorem test_o40_1 : ∃ (s : State), ∃ k, stemUp s = true ∧ k ≤ 1 :=
  ⟨stemmed, 1, by decide +kernel⟩

theorem test_o40_2 : ∃ (s : State), ∃ (b : Nat), ∃ k, stemUp s = true ∧ k ≤ 2 ∧ (bridgeAt s b).phase = .online :=
  ⟨stemmed, 8191, 2, by decide +kernel⟩

theorem test_o40_3 : ∃ (s : State), ∃ (b : Nat), stemUp s = true ∧ (bridgeAt s b).phase = .online ∧ (bridgeAt s b).config.kind = 0 :=
  ⟨stemmed, 8191, by decide +kernel⟩

theorem test_o40_4 : ∃ (s : State), ∃ (b : Nat), stemUp s = true ∧ (bridgeAt s b).phase = .silent :=
  ⟨{ stemmed with stem := { bridges := [(8191, { bridge1 with phase := .silent })] } }, 8191, by decide +kernel⟩

theorem test_o40_5 : ∃ (s : State), ∃ (b : Nat), stemUp s = true ∧ (bridgeAt s b).phase = .online ∧ (bridgeAt s b).config.kind = 0 ∧ (bridgeAt s b).next = none ∧ (bridgeAt s b).session < 65535 :=
  ⟨{ stemmed with stem := { bridges := [(8191, { bridge1 with session := 65534 })] } }, 8191, by decide +kernel⟩

theorem test_o40_6 : ∃ (s : State), ∃ (b : Nat), stemUp s = true ∧ (bridgeAt s b).phase = .silent ∧ (bridgeAt s b).config.kind = 0 :=
  ⟨{ stemmed with stem := { bridges := [(8191, { bridge1 with phase := .silent })] } }, 8191, by decide +kernel⟩

theorem test_o40_7 : ∃ (s : State), ∃ (b : Nat), ∃ e key, stemUp s = true ∧ (bridgeAt s b).phase = .online ∧ (bridgeAt s b).config.kind = 0 ∧ epochForStamp (bridgeAt s b) (stemNow s) = some e ∧ (keyFor 0 (epochHandle b (bridgeAt s b) e) s).1 = some key ∧ bridgeReached s (bridgeAt s b) = true ∧ bridgeResolved s (bridgeAt s b) = true :=
  ⟨stemmed, 8191, epoch1, (keyOf (epochHandle 8191 bridge1 epoch1)), by decide +kernel⟩

/-! ## O41, PowerLineFramesAreTaken -/

theorem test_o41_1 : ∃ (s : State), ∃ (b : Nat), ∃ startUs mod f fr x a, PlcHeard s b startUs mod 1 f fr ∧ fr.dst = addrBridge ∧ (netAt s b).transactions.find? (fun t => t.txid == fr.txid && (t.node == fr.src || fr.src == addrNone)) = some x ∧ x.account = some a :=
  ⟨{ stemmed with stem := { bridges := [(8191, bridge1)], nets := [(8191, { transactions := [{ txid := 3, node := 511, account := some 9, phases := 1, relays := [], first := 0, durationUs := 0, frame := [], retriesLeft := 1 }] })] } }, 8191, 0, 3, (plc 1 511), ((plcParse (plc 1 511)).get (by decide +kernel)), ({ txid := 3, node := 511, account := some 9, phases := 1, relays := [], first := 0, durationUs := 0, frame := [], retriesLeft := 1 } : Transaction), 9, by unfold PlcHeard; decide +kernel⟩

theorem test_o41_2 : ∃ (s : State), ∃ (b : Nat), ∃ startUs mod f fr a, PlcHeard s b startUs mod 2 f fr ∧ accountAtNode s b fr.src false = some a :=
  ⟨{ stemmed with mtr := { meters := [(9, { serial := 55 })] }, led := account9 8191 511 false }, 8191, 0, 3, (plc 2 511), ((plcParse (plc 2 511)).get (by decide +kernel)), 9, by unfold PlcHeard; decide +kernel⟩

theorem test_o41_3 : ∃ (s : State), ∃ (b : Nat), ∃ serial, netHears s b = true ∧ accountOfSerial s serial = none :=
  ⟨stemmed, 8191, 55, by decide +kernel⟩

theorem test_o41_4 : ∃ (s : State), ∃ (b : Nat), ∃ serial a, netHears s b = true ∧ accountOfSerial s serial = some a ∧ (committedAccount s a).bridge = b ∧ (committedAccount s a).radio = false :=
  ⟨{ stemmed with mtr := { meters := [(9, { serial := 55 })] }, led := account9 8191 511 false }, 8191, 55, 9, by decide +kernel⟩

theorem test_o41_5 : ∃ (s : State), ∃ (b : Nat), ∃ txid x, dataPathUp s = true ∧ (netAt s b).transactions.find? (fun t => t.txid == txid) = some x :=
  ⟨{ stemmed with stem := { bridges := [(8191, bridge1)], nets := [(8191, { transactions := [{ txid := 3, node := 511, account := some 9, phases := 1, relays := [], first := 0, durationUs := 0, frame := [], retriesLeft := 1 }] })] } }, 8191, 3, ({ txid := 3, node := 511, account := some 9, phases := 1, relays := [], first := 0, durationUs := 0, frame := [], retriesLeft := 1 } : Transaction), by decide +kernel⟩

theorem test_o41_6 : ∃ (s : State), ∃ (b : Nat), netHears s b = true ∧ unrouted s b ≠ [] :=
  ⟨{ stemmed with mtr := { meters := [(9, { serial := 55 })] }, led := account9 8191 511 false }, 8191, by decide +kernel⟩

/-! ## O42, RadioConnectionsFollowTheirFrames -/

theorem test_o42_1 : ∃ (s : State), ∃ (b : Nat), ∃ (r : RfNet), rfAt s b = some r ∧ radioPlans s b (planTick s b) = true ∧ dutyRoom s r (radioAirtime r.config.mode 35) = true ∧ (keyFor 0 (groupHandle s b 63) s).1.isSome = true :=
  ⟨{ stemmed with mtr := { rf := [(8191, { config := {} })], meters := [(9, { serial := 55 })] }, led := account9 8191 511 true }, 8191, ({ config := {} } : RfNet), by decide +kernel⟩

theorem test_o42_2 : ∃ (s : State), ∃ (b : Nat), ∃ (r : RfNet), ∃ f fr, rfAt s b = some r ∧ radioHears s b = true ∧ radioParse b f = some fr ∧ fr.type = 2 ∧ fr.rest.length = 18 ∧ accountOfSerial s (rd fr.rest 0 8) = none :=
  ⟨{ stemmed with mtr := { rf := [(8191, { config := {} })], meters := [(9, { serial := 55 })] }, led := account9 8191 511 true }, 8191, ({ config := {} } : RfNet), (radio 2 511 (le 8 56 ++ zeros 10)), ((radioParse 8191 (radio 2 511 (le 8 56 ++ zeros 10))).get (by decide +kernel)), by decide +kernel⟩

theorem test_o42_3 : ∃ (s : State), ∃ (b : Nat), ∃ (r : RfNet), ∃ f fr a m key, rfAt s b = some r ∧ radioHears s b = true ∧ radioParse b f = some fr ∧ fr.type = 2 ∧ fr.rest.length = 18 ∧ accountOfSerial s (rd fr.rest 0 8) = some a ∧ meterOf s a = some m ∧ (keyFor 0 (linkHandle m fr.counter) s).1 = some key ∧ (committedAccount s a).bridge = b ∧ (committedAccount s a).radio = true ∧ (committedAccount s a).phase ≠ .unused :=
  ⟨{ stemmed with mtr := { rf := [(8191, { config := {} })], meters := [(9, { serial := 55 })] }, led := account9 8191 511 true }, 8191, ({ config := {} } : RfNet), (radio 2 511 (le 8 55 ++ zeros 10)), ((radioParse 8191 (radio 2 511 (le 8 55 ++ zeros 10))).get (by decide +kernel)), 9, ({ serial := 55 } : Meter), (keyOf (linkHandle { serial := 55 } 5)), by decide +kernel⟩

theorem test_o42_4 : ∃ (s : State), ∃ (b : Nat), ∃ (r : RfNet), ∃ node c u, rfAt s b = some r ∧ connOf s b node = some c ∧ c.live = true ∧ c.update = none ∧ c.terminate = none ∧ c.unacked = some u ∧ radioPlans s b (eventTick c (nextEvent c (planTick s b))) = true ∧ dutyRoom s r (radioAirtime r.config.mode 123) = true :=
  ⟨{ stemmed with mtr := { rf := [(8191, { config := {}, conns := [(511, { account := 9, phase := .connected, unacked := some { frame := [], counter := 1 } })] })], meters := [(9, { serial := 55 })] }, led := account9 8191 511 true }, 8191, ({ config := {}, conns := [(511, { account := 9, phase := .connected, unacked := some { frame := [], counter := 1 } })] } : RfNet), 511, ({ account := 9, phase := .connected, unacked := some { frame := [], counter := 1 } } : RfConn), ({ frame := [], counter := 1 } : SentFrame), by decide +kernel⟩

theorem test_o42_5 : ∃ (s : State), ∃ (b : Nat), ∃ (r : RfNet), ∃ f fr c, rfAt s b = some r ∧ radioHears s b = true ∧ radioParse b f = some fr ∧ fr.type = 0 ∧ connOf s b fr.node = some c ∧ c.phase ≠ .unconnected :=
  ⟨{ stemmed with mtr := { rf := [(8191, { config := {}, conns := [(511, { account := 9, phase := .connected })] })], meters := [(9, { serial := 55 })] }, led := account9 8191 511 true }, 8191, ({ config := {}, conns := [(511, { account := 9, phase := .connected })] } : RfNet), (radio 0 511 (zeros 8)), ((radioParse 8191 (radio 0 511 (zeros 8))).get (by decide +kernel)), ({ account := 9, phase := .connected } : RfConn), by decide +kernel⟩

theorem test_o42_6 : ∃ (s : State), ∃ (b : Nat), ∃ (r : RfNet), ∃ node c, rfAt s b = some r ∧ dataPathUp s = true ∧ connOf s b node = some c ∧ c.phase = .connected :=
  ⟨{ stemmed with mtr := { rf := [(8191, { config := {}, conns := [(511, { account := 9, phase := .connected })] })], meters := [(9, { serial := 55 })] }, led := account9 8191 511 true }, 8191, ({ config := {}, conns := [(511, { account := 9, phase := .connected })] } : RfNet), 511, ({ account := 9, phase := .connected } : RfConn), by decide +kernel⟩

theorem test_o42_7 : ∃ (s : State), ∃ (b : Nat), ∃ (r : RfNet), ∃ node c, rfAt s b = some r ∧ dataPathUp s = true ∧ connOf s b node = some c ∧ c.phase = .connecting ∧ 5 ≤ c.missedRun :=
  ⟨{ stemmed with mtr := { rf := [(8191, { config := {}, conns := [(511, { account := 9, phase := .connecting, missedRun := 5 })] })], meters := [(9, { serial := 55 })] }, led := account9 8191 511 true }, 8191, ({ config := {}, conns := [(511, { account := 9, phase := .connecting, missedRun := 5 })] } : RfNet), 511, ({ account := 9, phase := .connecting, missedRun := 5 } : RfConn), by decide +kernel⟩

theorem test_o42_8 : ∃ (s : State), ∃ (b : Nat), ∃ (r : RfNet), ∃ node c, rfAt s b = some r ∧ dataPathUp s = true ∧ connOf s b node = some c ∧ c.phase ≠ .unconnected :=
  ⟨{ stemmed with mtr := { rf := [(8191, { config := {}, conns := [(511, { account := 9, phase := .connected })] })], meters := [(9, { serial := 55 })] }, led := account9 8191 511 true }, 8191, ({ config := {}, conns := [(511, { account := 9, phase := .connected })] } : RfNet), 511, ({ account := 9, phase := .connected } : RfConn), by decide +kernel⟩

theorem test_o42_9 : ∃ (s : State), ∃ (b : Nat), ∃ (r : RfNet), ∃ f fr a, rfAt s b = some r ∧ radioHears s b = true ∧ radioParse b f = some fr ∧ fr.type = 6 ∧ accountAtNode s b fr.node true = some a :=
  ⟨{ stemmed with mtr := { rf := [(8191, { config := {} })], meters := [(9, { serial := 55 })] }, led := account9 8191 511 true }, 8191, ({ config := {} } : RfNet), (radio 6 511 (zeros 8)), ((radioParse 8191 (radio 6 511 (zeros 8))).get (by decide +kernel)), 9, by decide +kernel⟩

/-! ## O43, MeterMessagesAreProcessed -/

theorem test_o43_1 : ∃ (s : State), ∃ (a : Nat), ∃ (m : InMsg), ∃ (y : Meter), meterOf s a = some y ∧ Arrived s a 0x81 m :=
  ⟨{ keyed with mtr := { meters := [(9, { serial := 55 })], inbox := [({ bridge := 8191, account := 9, radio := false, payload := le 1 0x81 ++ zeros 3 ++ zeros 40 } : InMsg)] } }, 9, ({ bridge := 8191, account := 9, radio := false, payload := le 1 0x81 ++ zeros 3 ++ zeros 40 } : InMsg), ({ serial := 55 } : Meter), by unfold Arrived; decide +kernel⟩

theorem test_o43_2 : ∃ (s : State), ∃ (a : Nat), ∃ (m : InMsg), ∃ (y : Meter), meterOf s a = some y ∧ Arrived s a 0x82 m :=
  ⟨{ keyed with mtr := { meters := [(9, { serial := 55 })], inbox := [({ bridge := 8191, account := 9, radio := false, payload := le 1 0x82 ++ zeros 3 ++ zeros 40 } : InMsg)] } }, 9, ({ bridge := 8191, account := 9, radio := false, payload := le 1 0x82 ++ zeros 3 ++ zeros 40 } : InMsg), ({ serial := 55 } : Meter), by unfold Arrived; decide +kernel⟩

theorem test_o43_3 : ∃ (s : State), ∃ (a : Nat), ∃ (m : InMsg), ∃ (y : Meter), meterOf s a = some y ∧ Arrived s a 0x83 m ∧ rd (m.payload.drop 4) 0 1 = 1 ∧ (∀ l, y.lastEventSeq = some l → laterGen (rd (m.payload.drop 4) 2 2) l = true) :=
  ⟨{ keyed with mtr := { meters := [(9, { serial := 55, lastEventSeq := some 4 })], inbox := [({ bridge := 8191, account := 9, radio := false, payload := le 1 0x83 ++ zeros 3 ++ (le 1 1 ++ zeros 1 ++ le 2 5 ++ zeros 40) } : InMsg)] } }, 9, ({ bridge := 8191, account := 9, radio := false, payload := le 1 0x83 ++ zeros 3 ++ (le 1 1 ++ zeros 1 ++ le 2 5 ++ zeros 40) } : InMsg), ({ serial := 55, lastEventSeq := some 4 } : Meter), ⟨by decide +kernel, by unfold Arrived; decide +kernel, by decide +kernel, fun l h => by cases h; decide +kernel⟩⟩

theorem test_o43_4 : ∃ (s : State), ∃ (a : Nat), ∃ (m : InMsg), ∃ (y : Meter), meterOf s a = some y ∧ Arrived s a 0x84 m ∧ (tokenArrival a (rd (m.payload.drop 4) 0 9) true s).1 = 0 ∧ tokensFull s = false :=
  ⟨{ keyed with mtr := { meters := [(9, { serial := 55 })], inbox := [({ bridge := 8191, account := 9, radio := false, payload := le 1 0x84 ++ zeros 3 ++ (le 9 492586650053807 ++ zeros 8) } : InMsg)] } }, 9, ({ bridge := 8191, account := 9, radio := false, payload := le 1 0x84 ++ zeros 3 ++ (le 9 492586650053807 ++ zeros 8) } : InMsg), ({ serial := 55 } : Meter), by unfold Arrived; decide +kernel⟩

theorem test_o43_5 : ∃ (s : State), ∃ (a : Nat), ∃ (m : InMsg), ∃ (y : Meter), meterOf s a = some y ∧ Arrived s a 0x85 m ∧ (pageOf s a).emergency = none :=
  ⟨{ keyed with mtr := { meters := [(9, { serial := 55 })], inbox := [({ bridge := 8191, account := 9, radio := false, payload := le 1 0x85 ++ zeros 3 ++ zeros 8 } : InMsg)] } }, 9, ({ bridge := 8191, account := 9, radio := false, payload := le 1 0x85 ++ zeros 3 ++ zeros 8 } : InMsg), ({ serial := 55 } : Meter), by unfold Arrived; decide +kernel⟩

theorem test_o43_6 : ∃ (s : State), ∃ (a : Nat), ∃ (m : InMsg), ∃ (y : Meter), meterOf s a = some y ∧ Arrived s a 0x86 m ∧ rd (m.payload.drop 4) 0 8 = y.serial :=
  ⟨{ keyed with mtr := { meters := [(9, { serial := 55 })], inbox := [({ bridge := 8191, account := 9, radio := false, payload := le 1 0x86 ++ zeros 3 ++ (le 8 55 ++ zeros 40) } : InMsg)] } }, 9, ({ bridge := 8191, account := 9, radio := false, payload := le 1 0x86 ++ zeros 3 ++ (le 8 55 ++ zeros 40) } : InMsg), ({ serial := 55 } : Meter), by unfold Arrived; decide +kernel⟩

theorem test_o43_7 : ∃ (s : State), ∃ (a : Nat), ∃ (m : InMsg), ∃ (y : Meter), meterOf s a = some y ∧ Arrived s a 0x86 m ∧ rd (m.payload.drop 4) 0 8 ≠ y.serial ∧ m.radio = false :=
  ⟨{ keyed with mtr := { meters := [(9, { serial := 55 })], inbox := [({ bridge := 8191, account := 9, radio := false, payload := le 1 0x86 ++ zeros 3 ++ (le 8 56 ++ zeros 40) } : InMsg)] } }, 9, ({ bridge := 8191, account := 9, radio := false, payload := le 1 0x86 ++ zeros 3 ++ (le 8 56 ++ zeros 40) } : InMsg), ({ serial := 55 } : Meter), by unfold Arrived; decide +kernel⟩

theorem test_o43_8 : ∃ (s : State), ∃ (a : Nat), ∃ (m : InMsg), ∃ (y : Meter), ∃ n k, meterOf s a = some y ∧ Arrived s a 0x87 m ∧ rd (m.payload.drop 4) 0 1 = 0xFF ∧ y.keyChange = some (n, k) ∧ rd (m.payload.drop 4) 1 1 = n :=
  ⟨{ keyed with mtr := { meters := [(9, { serial := 55, keyChange := some (7, 100) })], inbox := [({ bridge := 8191, account := 9, radio := false, payload := le 1 0x87 ++ zeros 3 ++ (le 1 0xFF ++ le 1 7 ++ zeros 8) } : InMsg)] } }, 9, ({ bridge := 8191, account := 9, radio := false, payload := le 1 0x87 ++ zeros 3 ++ (le 1 0xFF ++ le 1 7 ++ zeros 8) } : InMsg), ({ serial := 55, keyChange := some (7, 100) } : Meter), 7, 100, by unfold Arrived; decide +kernel⟩

theorem test_o43_9 : ∃ (s : State), ∃ (a : Nat), ∃ (m : InMsg), ∃ (y : Meter), meterOf s a = some y ∧ Arrived s a 0x87 m ∧ rd (m.payload.drop 4) 0 1 ≠ 0xFF :=
  ⟨{ keyed with mtr := { meters := [(9, { serial := 55 })], inbox := [({ bridge := 8191, account := 9, radio := false, payload := le 1 0x87 ++ zeros 3 ++ (le 1 0 ++ zeros 8) } : InMsg)] } }, 9, ({ bridge := 8191, account := 9, radio := false, payload := le 1 0x87 ++ zeros 3 ++ (le 1 0 ++ zeros 8) } : InMsg), ({ serial := 55 } : Meter), by unfold Arrived; decide +kernel⟩

theorem test_o43_10 : ∃ (s : State), ∃ (a : Nat), ∃ (m : InMsg), ∃ (y : Meter), ∃ c x, meterOf s a = some y ∧ Arrived s a 0x88 m ∧ Tab.get s.mtr.campaigns (rd (m.payload.drop 4) 0 2) = some c ∧ c.ended = false ∧ Tab.get c.targets a = some x ∧ 1 ≤ rd (m.payload.drop 4) 2 1 ∧ rd (m.payload.drop 4) 2 1 ≤ 5 :=
  ⟨{ keyed with mtr := { meters := [(9, { serial := 55 })], inbox := [({ bridge := 8191, account := 9, radio := false, payload := le 1 0x88 ++ zeros 3 ++ (le 2 1 ++ le 1 5 ++ zeros 8) } : InMsg)], campaigns := [(1, { ref := none, slot := 15, first := 0, count := 1, activateTime := 10000, repairRounds := 1, repairMcMin := 1, group := 0, targets := [(9, { bridge := 8191, radio := false })] })] } }, 9, ({ bridge := 8191, account := 9, radio := false, payload := le 1 0x88 ++ zeros 3 ++ (le 2 1 ++ le 1 5 ++ zeros 8) } : InMsg), ({ serial := 55 } : Meter), ({ ref := none, slot := 15, first := 0, count := 1, activateTime := 10000, repairRounds := 1, repairMcMin := 1, group := 0, targets := [(9, { bridge := 8191, radio := false })] } : Campaign), ({ bridge := 8191, radio := false } : FwTarget), by unfold Arrived; decide +kernel⟩

theorem test_o43_11 : ∃ (s : State), ∃ (a : Nat), ∃ (y : Meter), ∃ x, meterOf s a = some y ∧ sepalUp s = true ∧ y.queue.find? (fun z => 8 ≤ z.sends && z.type != msgCredit) = some x :=
  ⟨{ keyed with mtr := { meters := [(9, { serial := 55, queue := [{ type := 1, body := [], level := 0, since := 0, sends := 8 }] })], inbox := [({ bridge := 8191, account := 9, radio := false, payload := le 1 0x81 ++ zeros 3 ++ [] } : InMsg)] } }, 9, ({ serial := 55, queue := [{ type := 1, body := [], level := 0, since := 0, sends := 8 }] } : Meter), ({ type := 1, body := [], level := 0, since := 0, sends := 8 } : OutMsg), by decide +kernel⟩

theorem test_o43_12 : ∃ (s : State), ∃ (a : Nat), ∃ (y : Meter), ∃ q, meterOf s a = some y ∧ y.request = some q :=
  ⟨{ keyed with mtr := { meters := [(9, { serial := 55, request := some { ref := 3, action := 0, at' := 0 } })], inbox := [({ bridge := 8191, account := 9, radio := false, payload := le 1 0x81 ++ zeros 3 ++ [] } : InMsg)] } }, 9, ({ serial := 55, request := some { ref := 3, action := 0, at' := 0 } } : Meter), ({ ref := 3, action := 0, at' := 0 } : MeterRequest), by decide +kernel⟩

theorem test_o43_13 : ∃ (s : State), ∃ (a : Nat), ∃ (y : Meter), ∃ n c, meterOf s a = some y ∧ sepalUp s = true ∧ Tab.get s.mtr.campaigns n = some c ∧ c.ended = false ∧ (c.phase = .announce ∨ c.phase = .pass ∨ c.phase = .repair) :=
  ⟨{ keyed with mtr := { meters := [(9, { serial := 55 })], inbox := [({ bridge := 8191, account := 9, radio := false, payload := le 1 0x81 ++ zeros 3 ++ [] } : InMsg)], campaigns := [(1, { ref := none, slot := 15, first := 0, count := 1, activateTime := 10000, repairRounds := 1, repairMcMin := 1, group := 0, phase := .repair })] } }, 9, ({ serial := 55 } : Meter), 1, ({ ref := none, slot := 15, first := 0, count := 1, activateTime := 10000, repairRounds := 1, repairMcMin := 1, group := 0, phase := .repair } : Campaign), by decide +kernel⟩

/-! ## O44, PilotsAndLinksDriveSessions -/

theorem test_o44_1 : ∃ (s : State), ∃ (k : Nat), PointUp s k ∧ (pointAt s k).phase = .idle ∧ (pointAt s k).pilot = .a ∧ (pointAt s k).cfg.highLevel = true ∧ (pointAt s k).cableKnown = true :=
  ⟨{ up with chg := { points := List.replicate 15 {} ++ [{ config := some { dc := false, protocols := 15 }, phase := .idle }] } }, 15, by unfold PointUp; decide +kernel⟩

theorem test_o44_2 : ∃ (s : State), ∃ (k : Nat), PointUp s k ∧ (pointAt s k).phase = .energy ∧ (pointAt s k).pilot = .c ∧ (pointAt s k).isAc = true :=
  ⟨{ up with chg := { points := List.replicate 15 {} ++ [{ config := some { dc := false, protocols := 15 }, phase := .energy, pilot := .c }] } }, 15, by unfold PointUp; decide +kernel⟩

theorem test_o44_3 : ∃ (s : State), ∃ (k : Nat), PointUp s k ∧ (pointAt s k).phase = .ended ∧ (pointAt s k).tripHold = false ∧ (pointAt s k).pilot ≠ .a :=
  ⟨{ up with chg := { points := List.replicate 15 {} ++ [{ config := some { dc := false, protocols := 15 }, phase := .ended, pilot := .b }] } }, 15, by unfold PointUp; decide +kernel⟩

theorem test_o44_4 : ∃ (s : State), ∃ (k : Nat), ∃ p, PointUp s k ∧ (p = 3 ∨ p = 4 ∨ p = 6 ∨ p = 7) ∧ (pointAt s k).phase.live = true ∧ (pointAt s k).pilot ≠ pilotOf p :=
  ⟨{ up with chg := { points := List.replicate 15 {} ++ [{ config := some { dc := false, protocols := 15 }, phase := .stopping }] } }, 15, 7, by unfold PointUp; decide +kernel⟩

theorem test_o44_5 : ∃ (s : State), ∃ (k : Nat), ∃ ohm, PointUp s k ∧ (pointAt s k).cfg.ppMode = 0 ∧ (pointAt s k).ppBand = cableBand ohm :=
  ⟨{ up with chg := { points := List.replicate 15 {} ++ [{ config := some { dc := false, ppMode := 0 }, ppBand := some 32 }] } }, 15, 308, by unfold PointUp; decide +kernel⟩

theorem test_o44_6 : ∃ (s : State), ∃ (k : Nat), ∃ ohm, PointUp s k ∧ (pointAt s k).cfg.ppMode = 0 ∧ (pointAt s k).ppBand ≠ cableBand ohm ∧ (pointAt s k).contactor = true ∧ (pointAt s k).phase.live = true :=
  ⟨{ up with chg := { points := List.replicate 15 {} ++ [{ config := some { dc := false, ppMode := 0 }, ppBand := some 32, phase := .energy, contactor := true }] } }, 15, 309, by unfold PointUp; decide +kernel⟩

theorem test_o44_7 : ∃ (s : State), ∃ (k : Nat), ∃ (l : List Nat), ∃ w p, PointUp s k ∧ (pointAt s k).phase = .link ∧ (pointAt s k).linkRetry = false ∧ (pointAt s k).grant = none ∧ chooseProtocol (pointAt s k).cfg l w = some p :=
  ⟨{ up with chg := { points := List.replicate 15 {} ++ [{ config := some { dc := false, protocols := 15 }, phase := .link }] }, vlt := { links := [(15, { nmk := [], nek := [], tls := none })] } }, 15, [2, 3], true, 3, by unfold PointUp; decide +kernel⟩

theorem test_o44_8 : ∃ (s : State), ∃ (k : Nat), PointUp s k ∧ (pointAt s k).phase = .link ∧ (pointAt s k).linkRetry = false ∧ (pointAt s k).linkFailures < 2 :=
  ⟨{ up with chg := { points := List.replicate 15 {} ++ [{ config := some { dc := false, protocols := 15 }, phase := .link, linkFailures := 1 }] } }, 15, by unfold PointUp; decide +kernel⟩

theorem test_o44_9 : ∃ (s : State), ∃ (k : Nat), PointUp s k ∧ (pointAt s k).phase = .energy :=
  ⟨{ up with chg := { points := List.replicate 15 {} ++ [{ config := some { dc := false, protocols := 15 }, phase := .energy }] } }, 15, by unfold PointUp; decide +kernel⟩

theorem test_o44_10 : ∃ (s : State), ∃ (k : Nat), PointUp s k ∧ (pointAt s k).phase = .link ∧ (pointAt s k).linkRetry = true :=
  ⟨{ up with chg := { points := List.replicate 15 {} ++ [{ config := some { dc := false, protocols := 15 }, phase := .link, linkRetry := true }] } }, 15, by unfold PointUp; decide +kernel⟩

theorem test_o44_11 : ∃ (s : State), ∃ (k : Nat), PointUp s k ∧ 2 ≤ (pointAt s k).protocol ∧ (pointAt s k).phase.live = true :=
  ⟨{ up with chg := { points := List.replicate 15 {} ++ [{ config := some { dc := false, protocols := 15 }, phase := .stopping, protocol := 2 }] } }, 15, by unfold PointUp; decide +kernel⟩

theorem test_o44_12 : ∃ (s : State), ∃ (k : Nat), ∃ target present, PointUp s k ∧ 2 ≤ (pointAt s k).protocol ∧ (pointAt s k).phase = .prepare ∧ (pointAt s k).prep = .precharge ∧ (pointAt s k).tested = true ∧ target ≤ present + 200 ∧ present ≤ target + 200 :=
  ⟨{ up with chg := { points := List.replicate 15 {} ++ [{ config := some { dc := true, protocols := 15 }, phase := .prepare, prep := .precharge, tested := true, protocol := 2 }] } }, 15, 4000, 3800, by unfold PointUp; decide +kernel⟩

theorem test_o44_13 : ∃ (s : State), ∃ (k : Nat), PointUp s k ∧ 2 ≤ (pointAt s k).protocol ∧ (pointAt s k).phase = .energy :=
  ⟨{ up with chg := { points := List.replicate 15 {} ++ [{ config := some { dc := false, protocols := 15 }, phase := .energy, protocol := 2 }] } }, 15, by unfold PointUp; decide +kernel⟩

theorem test_o44_14 : ∃ (s : State), ∃ (k : Nat), PointUp s k ∧ (pointAt s k).phase = .auth :=
  ⟨{ up with chg := { points := List.replicate 15 {} ++ [{ config := some { dc := false, protocols := 15 }, phase := .auth }] } }, 15, by unfold PointUp; decide +kernel⟩

theorem test_o44_15 : ∃ (s : State), ∃ (k : Nat), PointUp s k ∧ (pointAt s k).phase = .prepare ∧ (pointAt s k).prep = .closing ∧ feedbackOf s k = some .closed :=
  ⟨{ up with chg := { points := List.replicate 15 {} ++ [{ config := some { dc := false, protocols := 15 }, phase := .prepare, prep := .closing }] }, fio := { up.fio with inputs := [{ config := { function := 4, point := 15 }, phase := .closed }] } }, 15, by unfold PointUp; decide +kernel⟩

theorem test_o44_16 : ∃ (s : State), ∃ (k : Nat), PointUp s k ∧ (pointAt s k).phase = .stopping ∧ (pointAt s k).contactor = false ∧ feedbackOf s k = some .opened :=
  ⟨{ up with chg := { points := List.replicate 15 {} ++ [{ config := some { dc := false, protocols := 15 }, phase := .stopping }] }, fio := { up.fio with inputs := [{ config := { function := 4, point := 15 }, phase := .opened }] } }, 15, by unfold PointUp; decide +kernel⟩

theorem test_o44_17 : ∃ (s : State), ∃ (k : Nat), PointUp s k ∧ (pointAt s k).phase = .stopping :=
  ⟨{ up with chg := { points := List.replicate 15 {} ++ [{ config := some { dc := false, protocols := 15 }, phase := .stopping }] } }, 15, by unfold PointUp; decide +kernel⟩

theorem test_o44_18 : ∃ (s : State), ∃ (k : Nat), PointUp s k ∧ (pointAt s k).phase = .paused ∧ (pointAt s k).isAc = true :=
  ⟨{ up with chg := { points := List.replicate 15 {} ++ [{ config := some { dc := false, protocols := 15 }, phase := .paused }] } }, 15, by unfold PointUp; decide +kernel⟩

theorem test_o44_19 : ∃ (s : State), ∃ (k : Nat), PointUp s k ∧ (pointAt s k).phase = .paused :=
  ⟨{ up with chg := { points := List.replicate 15 {} ++ [{ config := some { dc := false, protocols := 15 }, phase := .paused }] } }, 15, by unfold PointUp; decide +kernel⟩

theorem test_o44_20 : ∃ (s : State), ∃ (k : Nat), PointUp s k ∧ (pointAt s k).phase = .idle ∧ (pointAt s k).pilot = .a ∧ (pointAt s k).cfg.highLevel = true ∧ (pointAt s k).cableKnown = false :=
  ⟨{ up with chg := { points := List.replicate 15 {} ++ [{ config := some { dc := false, protocols := 15, ppMode := 0 }, phase := .idle }] } }, 15, by unfold PointUp; decide +kernel⟩

/-! ## O45, PointsTripOnTheirFaults -/

theorem test_o45_1 : ∃ (s : State), ∃ (k : Nat), PointUp s k ∧ (pointAt s k).session ≠ 0 ∧ 1024 ≤ (pointAt s k).missing ∧ (pointAt s k).missingSince = none :=
  ⟨{ up with chg := { points := List.replicate 15 {} ++ [{ config := some { dc := false, protocols := 15 }, session := 1, missing := 1024 }] } }, 15, by unfold PointUp; decide +kernel⟩

theorem test_o45_2 : ∃ (s : State), ∃ (k : Nat), ∃ u, PointUp s k ∧ (pointAt s k).session ≠ 0 ∧ 1024 ≤ (pointAt s k).missing ∧ (pointAt s k).missingSince = some u ∧ u + 60000 ≤ s.time.uptime ∧ (pointAt s k).phase = .energy :=
  ⟨{ up with chg := { points := List.replicate 15 {} ++ [{ config := some { dc := false, protocols := 15 }, session := 1, missing := 1024, missingSince := some 5, phase := .energy }] }, time := { uptime := 60005 } }, 15, 5, by unfold PointUp; decide +kernel⟩

theorem test_o45_3 : ∃ (s : State), ∃ (k : Nat), ∃ i, PointUp s k ∧ (pointAt s k).isAc = true ∧ (pointAt s k).phase = .energy ∧ 1100 * (pointAt s k).targetDkw + 20 * (acWatts (pointAt s k).cfg : Int) < ((i * acWatts (pointAt s k).cfg : Nat) : Int) :=
  ⟨{ up with chg := { points := List.replicate 15 {} ++ [{ config := some { dc := false, protocols := 15 }, phase := .energy, targetDkw := 10 }] } }, 15, 37, by unfold PointUp; decide +kernel⟩

theorem test_o45_4 : ∃ (s : State), ∃ (k : Nat), ∃ v, PointUp s k ∧ v < (if sealInForce s 7 then 100 else 30) :=
  ⟨{ up with chg := { points := List.replicate 15 {} ++ [{ config := some { dc := false, protocols := 15 }, phase := .energy }] } }, 15, 29, by unfold PointUp; decide +kernel⟩

theorem test_o45_5 : ∃ (s : State), ∃ (k : Nat), ∃ v, PointUp s k ∧ (if sealInForce s 7 then 100 else 30) ≤ v ∧ (pointAt s k).phase.live = true :=
  ⟨{ up with chg := { points := List.replicate 15 {} ++ [{ config := some { dc := false, protocols := 15 }, phase := .energy }] } }, 15, 30, by unfold PointUp; decide +kernel⟩

theorem test_o45_6 : ∃ (s : State), ∃ (k : Nat), ∃ v, PointUp s k ∧ 150 ≤ v ∧ (pointAt s k).phase.live = true :=
  ⟨{ up with chg := { points := List.replicate 15 {} ++ [{ config := some { dc := false, protocols := 15 }, phase := .energy }] } }, 15, 150, by unfold PointUp; decide +kernel⟩

theorem test_o45_7 : ∃ (s : State), ∃ (k : Nat), PointUp s k ∧ (pointAt s k).testing = true :=
  ⟨{ up with chg := { points := List.replicate 15 {} ++ [{ config := some { dc := false, protocols := 15 }, testing := true }] } }, 15, by unfold PointUp; decide +kernel⟩

theorem test_o45_8 : ∃ (s : State), ∃ (k : Nat), PointUp s k ∧ (pointAt s k).testing = true ∧ pointWhy s k = 0 ∧ (pointAt s k).phase = .prepare ∧ (pointAt s k).isAc = true ∧ (pointAt s k).pilot = .c :=
  ⟨{ up with chg := { points := List.replicate 15 {} ++ [{ config := some { dc := false, protocols := 15 }, testing := true, phase := .prepare, pilot := .c }] }, duty := { role := .single, holding := true }, seals := { up.seals with inForce := List.replicate 16 true }, fio := { up.fio with released := true, passed := List.replicate 16 true, inputs := [{ config := { function := 4, point := 15 }, phase := .opened }] } }, 15, by unfold PointUp; decide +kernel⟩

theorem test_o45_9 : ∃ (s : State), ∃ (k : Nat), ∃ r, PointUp s k ∧ (pointAt s k).isAc = false ∧ (pointAt s k).session ≠ 0 ∧ (pointAt s k).phase.live = true ∧ 10000 * r < 100 * (pointAt s k).vehicle.maxVoltageDv :=
  ⟨{ up with chg := { points := List.replicate 15 {} ++ [{ config := some { dc := true, protocols := 15 }, session := 1, phase := .energy, vehicle := { maxVoltageDv := 5000 } }] } }, 15, 49, by unfold PointUp; decide +kernel⟩

theorem test_o45_10 : ∃ (s : State), ∃ (k : Nat), ∃ r, PointUp s k ∧ (pointAt s k).isAc = false ∧ (pointAt s k).session ≠ 0 ∧ (pointAt s k).vehicle.maxVoltageDv ≠ 0 ∧ (pointAt s k).phase = .prepare ∧ (pointAt s k).prep = .cableCheck ∧ 500 * (pointAt s k).vehicle.maxVoltageDv ≤ 10000 * r :=
  ⟨{ up with chg := { points := List.replicate 15 {} ++ [{ config := some { dc := true, protocols := 15 }, session := 1, phase := .prepare, prep := .cableCheck, vehicle := { maxVoltageDv := 5000 } }] } }, 15, 250, by unfold PointUp; decide +kernel⟩

theorem test_o45_11 : ∃ (s : State), ∃ (k : Nat), PointUp s k ∧ (pointAt s k).contactor = true ∧ feedbackOf s k ≠ some .closed ∧ (pointAt s k).phase.live = true :=
  ⟨{ up with chg := { points := List.replicate 15 {} ++ [{ config := some { dc := false, protocols := 15 }, contactor := true, phase := .energy }] }, fio := { up.fio with inputs := [{ config := { function := 4, point := 15 }, phase := .opened }] } }, 15, by unfold PointUp; decide +kernel⟩

theorem test_o45_12 : ∃ (s : State), ∃ (k : Nat), PointUp s k ∧ (outputAt s k).on = false ∧ feedbackOf s k = some .closed ∧ (pointAt s k).welded = false :=
  ⟨{ up with chg := { points := List.replicate 15 {} ++ [{ config := some { dc := false, protocols := 15 }, phase := .ended }] }, fio := { up.fio with inputs := [{ config := { function := 4, point := 15 }, phase := .closed }] } }, 15, by unfold PointUp; decide +kernel⟩

theorem test_o45_13 : ∃ (s : State), ∃ (k : Nat), PointUp s k ∧ (pointAt s k).tripHold = true ∧ (pointAt s k).phase = .ended :=
  ⟨{ up with chg := { points := List.replicate 15 {} ++ [{ config := some { dc := false, protocols := 15 }, phase := .ended, tripHold := true }] } }, 15, by unfold PointUp; decide +kernel⟩

/-! ## O46, CardsConvertersAndStaleLimits -/

theorem test_o46_1 : ∃ (s : State), ∃ f, s.pwr.fieldOn = true ∧ f < s.chg.readers.length ∧ cardsPolled s = true :=
  ⟨{ up with duty := { role := .single, holding := true } }, 3, by decide +kernel⟩

theorem test_o46_2 : ∃ (s : State), ∃ f k, s.pwr.fieldOn = true ∧ f < s.chg.readers.length ∧ cardsPolled s = true ∧ readerPoint s f = some k :=
  ⟨{ up with chg := { points := List.replicate 15 {} ++ [{ config := some { dc := false, antenna := 12 }, phase := .idle }], readers := List.replicate 3 {} ++ [{ step := .idle }] }, duty := { role := .single, holding := true } }, 3, 15, by decide +kernel⟩

theorem test_o46_3 : ∃ (s : State), ∃ f k n, s.pwr.fieldOn = true ∧ f < s.chg.readers.length ∧ cardsPolled s = true ∧ readerPoint s f = some k ∧ 2 ≤ n :=
  ⟨{ up with chg := { points := List.replicate 15 {} ++ [{ config := some { dc := false, antenna := 12 }, phase := .idle }], readers := List.replicate 3 {} ++ [{ step := .idle }] }, duty := { role := .single, holding := true } }, 3, 15, 2, by decide +kernel⟩

theorem test_o46_4 : ∃ (s : State), ∃ f rate issuer number, s.pwr.fieldOn = true ∧ f < s.chg.readers.length ∧ cardsPolled s = true ∧ (readerAt s f).step = .speed rate issuer number :=
  ⟨{ up with chg := { points := List.replicate 15 {} ++ [{ config := some { dc := false, antenna := 12 }, phase := .idle }], readers := List.replicate 3 {} ++ [{ step := .speed 4 0 [1] }] }, duty := { role := .single, holding := true } }, 3, 4, 0, [1], by decide +kernel⟩

theorem test_o46_5 : ∃ (s : State), ∃ f, ∃ (p : Bytes), ∃ issuer number, ∃ (ch : Bytes), ∃ key k e, s.pwr.fieldOn = true ∧ f < s.chg.readers.length ∧ cardsPolled s = true ∧ (readerAt s f).step = .auth issuer number ch ∧ p.length = 16 ∧ (keyFor 0 (.card issuer number) s).1 = some key ∧ (ccmOpen key 8 (p.take 8 ++ ch.take 4) (ascii "GLCA" ++ number ++ ch) (p.drop 8)).isSome = true ∧ readerPoint s f = some k ∧ (pointAt s k).phase = .idle ∧ cardEntry s issuer number = some e ∧ e.blocked = false ∧ e.points.testBit k = true :=
  ⟨{ keyed with chg := { points := List.replicate 15 {} ++ [{ config := some { dc := false, antenna := 12 }, phase := .idle }], readers := List.replicate 3 {} ++ [{ step := .auth 0 [1] (zeros 16) }], cards := [{ issuer := 0, number := [1], blocked := false, points := 2 ^ 15, account := 9 }] }, duty := { role := .single, holding := true } }, 3, (zeros 8 ++ ccmTag (keyOf (.card 0 [1])) 8 (zeros 12) (ascii "GLCA" ++ [1] ++ zeros 16) []), 0, ([1] : Bytes), (zeros 16), (keyOf (.card 0 [1])), 15, ({ issuer := 0, number := [1], blocked := false, points := 2 ^ 15, account := 9 } : CardEntry), by decide +kernel⟩

theorem test_o46_6 : ∃ (s : State), ∃ f, s.pwr.fieldOn = true ∧ f < s.chg.readers.length ∧ (readerAt s f).step ≠ .idle :=
  ⟨{ up with chg := { points := List.replicate 15 {} ++ [{ config := some { dc := false, antenna := 12 }, phase := .idle }], readers := List.replicate 3 {} ++ [{ step := .auth 0 [1] [] }] }, duty := { role := .single, holding := true } }, 3, by decide +kernel⟩

theorem test_o46_7 : ∃ (s : State), ∃ (bus : Nat), ∃ node k, ∃ (data : Bytes), s.pwr.fieldOn = true ∧ pointOfConverter s bus node = some k ∧ 1 ≤ node ∧ data.length = 16 ∧ rd data 4 1 ≤ 2 :=
  ⟨{ up with chg := { points := List.replicate 15 {} ++ [{ config := some { dc := true, bus := 3, nodes := [31] }, phase := .energy }] } }, 3, 31, 15, (zeros 4 ++ le 1 2 ++ zeros 11), by decide +kernel⟩

theorem test_o46_8 : ∃ (s : State), ∃ (bus : Nat), ∃ node k, ∃ (data : Bytes), s.pwr.fieldOn = true ∧ pointOfConverter s bus node = some k ∧ 1 ≤ node ∧ data.length = 16 ∧ rd data 4 1 = 3 ∧ (Tab.getD s.chg.converters (32 * bus + node) {}).state ≠ 3 ∧ (pointAt s k).phase.live = true :=
  ⟨{ up with chg := { points := List.replicate 15 {} ++ [{ config := some { dc := true, bus := 3, nodes := [31] }, phase := .energy }] } }, 3, 31, 15, (zeros 4 ++ le 1 3 ++ zeros 11), by decide +kernel⟩

theorem test_o46_9 : ∃ (s : State), ∃ (bus : Nat), ∃ node k, s.pwr.fieldOn = true ∧ pointOfConverter s bus node = some k ∧ (Tab.getD s.chg.converters (32 * bus + node) {}).lost = false ∧ (Tab.getD s.chg.converters (32 * bus + node) {}).tick + 10 ≤ now s ∧ (pointAt s k).phase.live = true :=
  ⟨{ up with chg := { points := List.replicate 15 {} ++ [{ config := some { dc := true, bus := 3, nodes := [31] }, phase := .energy }] }, time := { gliris := 10 } }, 3, 31, 15, by decide +kernel⟩

theorem test_o46_10 : ∃ (s : State), s.pwr.fieldOn = true ∧ 4 ≤ s.chg.stale ∧ s.chg.stale < 64 ∧ faultActive s 0xA1 = false :=
  ⟨{ up with chg := { stale := 63 } }, by decide +kernel⟩

theorem test_o46_11 : ∃ (s : State), s.pwr.fieldOn = true ∧ 64 ≤ s.chg.stale ∧ faultActive s 0xA0 = false :=
  ⟨{ up with chg := { stale := 64 } }, by decide +kernel⟩

theorem test_o46_12 : ∃ (s : State), s.pwr.fieldOn = true ∧ cardsPolled s = false :=
  ⟨up, by decide +kernel⟩

/-! ## O47, FieldSupplyAndSwitchesAreSupervised -/

theorem test_o47_1 : ∃ (s : State), s.pwr.fieldOn = true :=
  ⟨up, by decide +kernel⟩

theorem test_o47_2 : ∃ (s : State), ∃ pin, s.pwr.fieldOn = true ∧ pin < s.fio.pins.length :=
  ⟨up, 7, by decide +kernel⟩

theorem test_o47_3 : ∃ (s : State), ∃ dv, s.pwr.fieldOn = true ∧ s.fio.underVoltage = false ∧ dv < 160 :=
  ⟨up, 159, by decide +kernel⟩

theorem test_o47_4 : ∃ (s : State), ∃ dv, s.pwr.fieldOn = true ∧ s.fio.overVoltage = false ∧ 340 < dv :=
  ⟨up, 341, by decide +kernel⟩

theorem test_o47_5 : ∃ (s : State), ∃ dv, s.pwr.fieldOn = true ∧ supplyBad s = true ∧ 180 ≤ dv ∧ dv ≤ 320 :=
  ⟨{ up with fio := { up.fio with underVoltage := true } }, 320, by decide +kernel⟩

theorem test_o47_6 : ∃ (s : State), ∃ da, s.pwr.fieldOn = true ∧ s.fio.totalHigh = false ∧ 400 < da :=
  ⟨up, 401, by decide +kernel⟩

theorem test_o47_7 : ∃ (s : State), s.pwr.fieldOn = true :=
  ⟨up, by decide +kernel⟩

theorem test_o47_8 : ∃ (s : State), ∃ k, s.pwr.fieldOn = true ∧ k < lsCount s ∧ (lsAt s k).on = true ∧ (lsAt s k).ramp = false :=
  ⟨{ up with fio := { up.fio with switches := List.replicate 47 {} ++ [{ on := true }] } }, 47, by decide +kernel⟩

theorem test_o47_9 : ∃ (s : State), ∃ k, s.pwr.fieldOn = true ∧ k < lsCount s ∧ k < s.fio.switches.length ∧ (lsAt s k).overTemp = false :=
  ⟨{ up with fio := { up.fio with switches := List.replicate 47 {} ++ [{ on := true }] } }, 47, by decide +kernel⟩

theorem test_o47_10 : ∃ (s : State), ∃ k, s.pwr.fieldOn = true ∧ k < lsCount s ∧ (lsAt s k).on = true ∧ (lsAt s k).ramp = true :=
  ⟨{ up with fio := { up.fio with switches := List.replicate 47 {} ++ [{ on := true, ramp := true }] } }, 47, by decide +kernel⟩

theorem test_o47_11 : ∃ (s : State), ∃ k, s.pwr.fieldOn = true ∧ k < lsCount s ∧ (lsAt s k).on = true ∧ (lsAt s k).openLoad = false ∧ (lsAt s k).current < 20 ∧ lsTarget s (lsAt s k) = true :=
  ⟨{ up with fio := { up.fio with released := true, switches := List.replicate 47 {} ++ [{ config := { use := .host }, source := true, on := true, current := 19 }] }, duty := { role := .single, holding := true } }, 47, by decide +kernel⟩

/-! ## O48, SafetyInputsAndOutputsAreSupervised -/

theorem test_o48_1 : ∃ (s : State), ∃ i, s.pwr.fieldOn = true ∧ i < 4 :=
  ⟨up, 3, by decide +kernel⟩

theorem test_o48_2 : ∃ (s : State), ∃ i, s.pwr.fieldOn = true ∧ (s.fio.sources.getD i {}).running = true :=
  ⟨{ up with fio := { up.fio with sources := List.replicate 3 {} ++ [{ running := true }] } }, 3, by decide +kernel⟩

theorem test_o48_3 : ∃ (s : State), ∃ i, s.pwr.fieldOn = true ∧ (s.fio.sources.getD i {}).overloaded = true :=
  ⟨{ up with fio := { up.fio with sources := List.replicate 3 {} ++ [{ overloaded := true }] } }, 3, by decide +kernel⟩

theorem test_o48_4 : ∃ (s : State), ∃ (sub a : Nat), ∃ j, s.pwr.fieldOn = true ∧ j < 16 ∧ (inputAt s j).config.function = 1 ∧ (inputAt s j).phase = .clear ∧ checksSuspended s = false ∧ counted (gapPosition s sub) = true ∧ pulseError (inputAt s j).config.srcA (inputAt s j).a = none ∧ pulseError (inputAt s j).config.srcB (inputAt s j).b = none ∧ a.testBit j = false ∧ 1 ≤ (inputAt s j).a.run :=
  ⟨{ up with fio := { up.fio with released := true, inputs := List.replicate 15 {} ++ [{ config := { function := 1 }, phase := .clear, a := { demand := false, run := 1 }, b := { demand := false } }] } }, 0, 0, 15, by decide +kernel⟩

theorem test_o48_5 : ∃ (s : State), ∃ (sub a : Nat), ∃ j, s.pwr.fieldOn = true ∧ j < 16 ∧ (inputAt s j).config.function = 1 ∧ (inputAt s j).phase = .clear ∧ checksSuspended s = false ∧ gapPosition s sub = gapStart (inputAt s j).config.srcA + 200 ∧ (inputAt s j).a.badGaps = 1 ∧ a.testBit j = true :=
  ⟨{ up with fio := { up.fio with released := true, inputs := List.replicate 15 {} ++ [{ config := { function := 1 }, phase := .clear, a := { demand := false, badGaps := 1 }, b := { demand := false } }] } }, 14, 0xFFFF, 15, by decide +kernel⟩

theorem test_o48_6 : ∃ (s : State), ∃ j, s.pwr.fieldOn = true ∧ (inputAt s j).config.function = 1 ∨ (inputAt s j).config.function = 2 ∨ (inputAt s j).config.function = 3 ∨ (inputAt s j).config.function = 5 ∧ (inputAt s j).phase = .demand ∧ (inputAt s j).a.demand = false ∧ (inputAt s j).b.demand = false ∧ checksSuspended s = false :=
  ⟨{ up with fio := { up.fio with released := true, inputs := List.replicate 15 {} ++ [{ config := { function := 5 }, phase := .demand, a := { demand := false }, b := { demand := false } }] } }, 15, by decide +kernel⟩

theorem test_o48_7 : ∃ (s : State), ∃ j, s.pwr.fieldOn = true ∧ (inputAt s j).config.function = 1 ∧ (inputAt s j).phase = .demand ∧ (inputAt s j).a.demand ≠ (inputAt s j).b.demand ∧ checksSuspended s = false :=
  ⟨{ up with fio := { up.fio with released := true, inputs := List.replicate 15 {} ++ [{ config := { function := 1 }, phase := .demand, a := { demand := false }, b := { demand := true } }] } }, 15, by decide +kernel⟩

theorem test_o48_8 : ∃ (s : State), ∃ k, s.pwr.fieldOn = true ∧ k < 16 ∧ (outputAt s k).on = true :=
  ⟨{ up with fio := { up.fio with outputs := List.replicate 15 {} ++ [{ on := true }] } }, 15, by decide +kernel⟩

theorem test_o48_9 : ∃ (s : State), ∃ k, s.pwr.fieldOn = true ∧ k < 16 ∧ (outputAt s k).on = true :=
  ⟨{ up with fio := { up.fio with outputs := List.replicate 15 {} ++ [{ on := true }] } }, 15, by decide +kernel⟩

theorem test_o48_10 : ∃ (s : State), ∃ k, s.pwr.fieldOn = true ∧ k < 16 ∧ (outputAt s k).on = true :=
  ⟨{ up with fio := { up.fio with outputs := List.replicate 15 {} ++ [{ on := true }] } }, 15, by decide +kernel⟩

theorem test_o48_11 : ∃ (s : State), ∃ k, s.pwr.fieldOn = true ∧ k < 16 ∧ k < s.fio.outputs.length ∧ (outputAt s k).on = false ∧ (outputAt s k).fed = false ∧ drivesField s = true :=
  ⟨{ up with fio := { up.fio with outputs := List.replicate 15 {} ++ [{ on := false }] }, duty := { role := .single, holding := true } }, 15, by decide +kernel⟩

theorem test_o48_12 : ∃ (s : State), ∃ k, s.pwr.fieldOn = true ∧ k < 16 ∧ (outputAt s k).fed = true :=
  ⟨{ up with fio := { up.fio with outputs := List.replicate 15 {} ++ [{ fed := true }] } }, 15, by decide +kernel⟩

/-! ## O49, PanelsFollowTheirSteps -/

theorem test_o49_1 : ∃ (s : State), ∃ (p : Nat), ∃ f d, s.pwr.fieldOn = true ∧ (panelAt s p).phase = .on ∧ (panelAt s p).profile = some f ∧ (panelAt s p).issuing = some (d, 1) :=
  ⟨{ up with fio := { up.fio with panels := [{}, { phase := .on, profile := some { width := 8, height := 8, bpp := 1, maxInFlight := 1, sckKhz := 1, vcomMv := 0, refreshMs := 1, fullMs := 1, busyTimeoutMs := 1, offDelayMs := 0, flags := 0, commands := zeros 16, script := [] }, issuing := some ({ ref := 1, full := true, x := 0, y := 0, w := 8, h := 8, data := zeros 8 }, 1) }] } }, 1, ({ width := 8, height := 8, bpp := 1, maxInFlight := 1, sckKhz := 1, vcomMv := 0, refreshMs := 1, fullMs := 1, busyTimeoutMs := 1, offDelayMs := 0, flags := 0, commands := zeros 16, script := [] } : PanelProfile), ({ ref := 1, full := true, x := 0, y := 0, w := 8, h := 8, data := zeros 8 } : PanelDraw), by decide +kernel⟩

theorem test_o49_2 : ∃ (s : State), ∃ (p : Nat), ∃ f d, s.pwr.fieldOn = true ∧ (panelAt s p).phase = .on ∧ (panelAt s p).profile = some f ∧ (panelAt s p).issuing = some (d, 2) :=
  ⟨{ up with fio := { up.fio with panels := [{}, { phase := .on, profile := some { width := 8, height := 8, bpp := 1, maxInFlight := 1, sckKhz := 1, vcomMv := 0, refreshMs := 1, fullMs := 1, busyTimeoutMs := 1, offDelayMs := 0, flags := 0, commands := zeros 16, script := [] }, issuing := some ({ ref := 1, full := true, x := 0, y := 0, w := 8, h := 8, data := zeros 8 }, 2) }] } }, 1, ({ width := 8, height := 8, bpp := 1, maxInFlight := 1, sckKhz := 1, vcomMv := 0, refreshMs := 1, fullMs := 1, busyTimeoutMs := 1, offDelayMs := 0, flags := 0, commands := zeros 16, script := [] } : PanelProfile), ({ ref := 1, full := true, x := 0, y := 0, w := 8, h := 8, data := zeros 8 } : PanelDraw), by decide +kernel⟩

theorem test_o49_3 : ∃ (s : State), ∃ (p : Nat), s.pwr.fieldOn = true ∧ (panelAt s p).busy = true :=
  ⟨{ up with fio := { up.fio with panels := [{}, { phase := .on, busy := true }] } }, 1, by decide +kernel⟩

theorem test_o49_4 : ∃ (s : State), ∃ (p : Nat), s.pwr.fieldOn = true ∧ (panelAt s p).phase = .poweringUp :=
  ⟨{ up with fio := { up.fio with panels := [{}, { phase := .poweringUp }] } }, 1, by decide +kernel⟩

theorem test_o49_5 : ∃ (s : State), ∃ (p : Nat), ∃ d e rest, s.pwr.fieldOn = true ∧ (panelAt s p).inFlight = (d, e) :: rest :=
  ⟨{ up with fio := { up.fio with panels := [{}, { phase := .on, inFlight := [({ ref := 1, full := true, x := 0, y := 0, w := 8, h := 8, data := zeros 8 }, 3)] }] } }, 1, ({ ref := 1, full := true, x := 0, y := 0, w := 8, h := 8, data := zeros 8 } : PanelDraw), 3, ([] : List (PanelDraw × Nat)), by decide +kernel⟩

theorem test_o49_6 : ∃ (s : State), ∃ (p : Nat), s.pwr.fieldOn = true ∧ (panelAt s p).phase = .on ∧ drawsWaiting (panelAt s p) = 0 :=
  ⟨{ up with fio := { up.fio with panels := [{}, { phase := .on }] } }, 1, by decide +kernel⟩

/-! ## O50, TheSafeStateAndTheBatonPass -/

theorem test_o50_1 : ∃ (s : State), ∃ (l : List Bool), ∃ i, s.pwr.keepStopped = false ∧ i < 5 ∧ i < s.flt.tamper.length ∧ (s.flt.tamper.getD i {}).enabled = true ∧ (s.flt.tamper.getD i {}).openNow = false ∧ 1 ≤ (s.flt.tamper.getD i {}).run ∧ l.getD i false = true :=
  ⟨{ up with flt := { tamper := List.replicate 4 {} ++ [{ run := 1 }] } }, (List.replicate 5 true), 4, by decide +kernel⟩

theorem test_o50_3 : ∃ (s : State), s.pwr.fieldOn = true :=
  ⟨up, by decide +kernel⟩

theorem test_o50_4 : ∃ (s : State), s.pwr.fieldOn = true :=
  ⟨up, by decide +kernel⟩

theorem test_o50_5 : ∃ (s : State), s.pwr.vigilOn = true ∧ s.duty.peerLow = false ∧ s.duty.ownLow = false ∧ s.duty.role = .undecided :=
  ⟨{ up with duty := { role := .undecided } }, by decide +kernel⟩

theorem test_o50_6 : ∃ (s : State), s.pwr.vigilOn = true ∧ s.duty.peerLow = false ∧ s.duty.ownLow = false ∧ s.duty.role = .single :=
  ⟨{ up with duty := { role := .single } }, by decide +kernel⟩

theorem test_o50_7 : ∃ (s : State), s.pwr.vigilOn = true ∧ s.duty.peerLow = true ∧ s.duty.ownLow = false ∧ s.duty.role = .standby :=
  ⟨{ up with duty := { role := .standby, peerLow := true } }, by decide +kernel⟩

theorem test_o50_8 : ∃ (s : State), mayClaim s = true :=
  ⟨{ up with duty := { role := .single } }, by decide +kernel⟩

theorem test_o50_9 : ∃ (s : State), s.duty.claiming = true ∧ s.duty.peerLow = true ∧ oddSlot s = true :=
  ⟨{ up with duty := { claiming := true, peerLow := true }, host := { up.host with slot := 1 } }, by decide +kernel⟩

theorem test_o50_10 : ∃ (s : State), s.duty.claiming = true ∧ s.duty.peerLow = false ∧ s.duty.role = .standby :=
  ⟨{ up with duty := { claiming := true, role := .standby } }, by decide +kernel⟩

theorem test_o50_11 : ∃ (s : State), s.duty.claiming = true ∧ s.duty.peerLow = false ∧ s.duty.role = .single :=
  ⟨{ up with duty := { claiming := true, role := .single } }, by decide +kernel⟩

theorem test_o50_12 : ∃ (s : State), s.duty.ownLow = true :=
  ⟨{ up with duty := { ownLow := true } }, by decide +kernel⟩

theorem test_o50_13 : ∃ (s : State), s.duty.contact = false ∧ s.duty.peerLow = false ∧ s.duty.ownLow = false ∧ s.duty.role = .undecided :=
  ⟨{ up with duty := { role := .undecided } }, by decide +kernel⟩

theorem test_o50_14 : ∃ (s : State), s.duty.contact = false ∧ s.duty.peerLow = false ∧ s.duty.ownLow = false ∧ s.duty.role = .standby ∧ s.duty.eligible = false :=
  ⟨{ up with duty := { role := .standby } }, by decide +kernel⟩

theorem test_o50_15 : ∃ (s : State), ∃ r, s.duty.yieldRef = some r ∧ s.duty.peerLow = false :=
  ⟨{ up with duty := { yieldRef := some 3 } }, 3, by decide +kernel⟩

/-! ## O51, TheMirrorLinkKeepsTheStandbyInStep -/

theorem test_o51_1 : ∃ (s : State), ∃ (f : Bytes), s.duty.role = .standby ∧ Mirrored s 1 f :=
  ⟨standby, (mirrored 1 (le 8 8 ++ le 1 1 ++ le 1 1 ++ zeros 2 ++ le 4 0 ++ le 8 7 ++ zeros 8)), by unfold Mirrored; decide +kernel⟩

theorem test_o51_2 : ∃ (s : State), ∃ (f : Bytes), s.duty.role = .standby ∧ s.duty.sync = .inSync ∧ Mirrored s 2 f :=
  ⟨standby, (mirrored 2 (le 4 0 ++ le 4 4 ++ le 8 7 ++ le 4 9)), by unfold Mirrored; decide +kernel⟩

theorem test_o51_3 : ∃ (s : State), ∃ (f : Bytes), s.duty.role = .standby ∧ s.duty.sync = .inSync ∧ Mirrored s 3 f :=
  ⟨standby, (mirrored 3 (le 8 7 ++ le 4 0 ++ le 4 0)), by unfold Mirrored; decide +kernel⟩

theorem test_o51_4 : ∃ (s : State), ∃ (f : Bytes), s.duty.role = .duty ∧ rd f 4 4 = s.duty.epoch ∧ Mirrored s 4 f :=
  ⟨{ standby with duty := { standby.duty with role := .duty } }, (mirrored 4 (le 8 7 ++ zeros 8)), by unfold Mirrored; decide +kernel⟩

theorem test_o51_5 : ∃ (s : State), ∃ (f : Bytes), s.duty.role = .standby ∧ s.duty.sync = .inSync ∧ Mirrored s 5 f :=
  ⟨standby, (mirrored 5 (frontierBytes { valid := true, frontier := 9 })), by unfold Mirrored; decide +kernel⟩

theorem test_o51_6 : ∃ (s : State), ∃ (f : Bytes), s.duty.role = .standby ∧ s.duty.sync = .inSync ∧ Mirrored s 6 f :=
  ⟨standby, (mirrored 6 (le 8 7)), by unfold Mirrored; decide +kernel⟩

theorem test_o51_7 : ∃ (s : State), ∃ (f : Bytes), s.duty.role = .standby ∧ s.duty.sync = .inSync ∧ Mirrored s 7 f :=
  ⟨standby, (mirrored 7 (le 4 (0x100000 + 2048 * 31) ++ le 4 1024 ++ zeros 1024)), by unfold Mirrored; decide +kernel⟩

theorem test_o51_8 : ∃ (s : State), ∃ (f : Bytes), s.duty.role = .standby ∧ s.duty.sync = .copying ∧ Mirrored s 8 f :=
  ⟨{ standby with duty := { standby.duty with sync := .copying } }, (mirrored 8 (le 1 1 ++ zeros 3 ++ le 4 (512 * 9) ++ zeros 256)), by unfold Mirrored; decide +kernel⟩

theorem test_o51_9 : ∃ (s : State), ∃ (f : Bytes), s.duty.role = .standby ∧ s.duty.sync = .inSync ∧ Mirrored s 9 f :=
  ⟨standby, (mirrored 9 (le 8 7)), by unfold Mirrored; decide +kernel⟩

theorem test_o51_10 : ∃ (s : State), ∃ (f : Bytes), s.duty.role = .standby ∧ Mirrored s 10 f :=
  ⟨standby, (mirrored 10 (le 8 7)), by unfold Mirrored; decide +kernel⟩

theorem test_o51_11 : ∃ (s : State), ∃ x, s.led.ticks.find? (·.awaitingAck) = some x :=
  ⟨{ standby with led := { ticks := [{ label := 7, trust := .traceable, awaitingAck := true }] } }, ({ label := 7, trust := .traceable, awaitingAck := true } : OpenTick), by decide +kernel⟩

theorem test_o51_13 : ∃ (s : State), s.duty.role = .standby ∧ s.duty.sync = .copying :=
  ⟨{ standby with duty := { standby.duty with sync := .copying } }, by decide +kernel⟩

theorem test_o51_14 : ∃ (s : State), s.duty.role = .duty ∧ s.duty.sync = .copying :=
  ⟨{ standby with duty := { standby.duty with role := .duty, sync := .copying } }, by decide +kernel⟩

theorem test_o51_15 : ∃ (s : State), s.duty.role = .standby ∧ s.duty.sync = .inSync ∧ commitReady s = false :=
  ⟨standby, by decide +kernel⟩

/-! ## O52, EnginesServeAndTestThemselves -/

theorem test_o52_1 : ∃ (s : State), ∃ (cls i : Nat), ∃ (h : KeyHandle), ∃ n, ∃ (c : SlotCopy), engineExists cls i = true ∧ i < (s.vlt.engines.getD cls []).length ∧ engineUp s cls i = true ∧ findSlot s (handleMaster h).1 (handleMaster h).2 = some n ∧ slotInForce s n = some c ∧ handleDerived h = false ∧ (attrDest c.attr).testBit cls = true :=
  ⟨{ up with vlt := { up.vlt with slots := (5, { a := cred }) :: up.vlt.slots } }, 6, 0, (.stored 11 0), 5, cred, by decide +kernel⟩

theorem test_o52_2 : ∃ (s : State), ∃ (cls i : Nat), ∃ (h : KeyHandle), engineExists cls i = true ∧ i < (s.vlt.engines.getD cls []).length ∧ engineUp s cls i = true ∧ findSlot s (handleMaster h).1 (handleMaster h).2 = none :=
  ⟨up, 0, 31, (.card 255 []), by decide +kernel⟩

theorem test_o52_3 : ∃ (s : State), ∃ (cls i : Nat), engineExists cls i = true ∧ i < (s.vlt.engines.getD cls []).length ∧ engineUp s cls i = true ∧ (engineAt s cls i).testing = false :=
  ⟨up, 0, 31, by decide +kernel⟩

theorem test_o52_4 : ∃ (s : State), ∃ (cls i : Nat), engineExists cls i = true ∧ i < (s.vlt.engines.getD cls []).length ∧ (cls = 2 ∨ cls = 3 ∨ cls = 6) ∧ engineUp s cls i = true ∧ (engineAt s cls i).testing = true :=
  ⟨{ up with vlt := { up.vlt with engines := newEngines.set 6 [{ testing := true }] } }, 6, 0, by decide +kernel⟩

theorem test_o52_5 : ∃ (s : State), ∃ (cls i : Nat), engineExists cls i = true ∧ i < (s.vlt.engines.getD cls []).length ∧ (cls = 2 ∨ cls = 3 ∨ cls = 6) ∧ engineUp s cls i = true ∧ (engineAt s cls i).testing = true :=
  ⟨{ up with vlt := { up.vlt with engines := newEngines.set 6 [{ testing := true }] } }, 6, 0, by decide +kernel⟩

theorem test_o52_6 : ∃ (s : State), ∃ (cls i : Nat), engineExists cls i = true ∧ i < (s.vlt.engines.getD cls []).length ∧ engineUp s cls i = true ∧ (∀ j, (engineAt s cls j).testing = false) :=
  ⟨up, 0, 31, ⟨by decide +kernel, by decide +kernel, by decide +kernel, fun j => engines_idle j⟩⟩

theorem test_o52_7 : ∃ (s : State), ∃ (cls i : Nat), engineExists cls i = true ∧ i < (s.vlt.engines.getD cls []).length ∧ (engineAt s cls i).testing = true :=
  ⟨{ up with vlt := { up.vlt with engines := newEngines.set 6 [{ testing := true }] } }, 6, 0, by decide +kernel⟩

theorem test_o52_8 : ∃ (s : State), ∃ (cls i : Nat), engineExists cls i = true ∧ i < (s.vlt.engines.getD cls []).length ∧ (engineAt s cls i).testing = true ∧ (engineAt s cls i).retest = false :=
  ⟨{ up with vlt := { up.vlt with engines := newEngines.set 6 [{ testing := true }] } }, 6, 0, by decide +kernel⟩

/-! ## O53, PortsFollowTheirLinks -/

theorem test_o53_1 : ∃ (s : State), ∃ (p : Nat), ∃ (f : Bytes), portExists s p = true ∧ isMirror s p = false ∧ (portAt s p).phase = .up ∧ (s.lnk.macsec.getD (portGroup p) {}).enable = false ∧ rxAccepted s p f = false :=
  ⟨{ up with lnk := { ports := List.replicate 12 {} ++ [{ phase := .up }] } }, 12, (zeros 13), by decide +kernel⟩

theorem test_o53_2 : ∃ (s : State), ∃ (p : Nat), ∃ (f q : Bytes), ∃ len, ∃ (b : Bytes), ∃ (a : AddrEntry), portExists s p = true ∧ isMirror s p = false ∧ (portAt s p).phase = .up ∧ (s.lnk.macsec.getD (portGroup p) {}).enable = false ∧ rxAccepted s p f = true ∧ ofBe (slice (untag f).2 12 2) = 0x86DD ∧ q = (untag f).2.drop 14 ∧ len = ofBe (slice q 4 2) ∧ b = slice q 40 len ∧ rd q 0 1 / 16 = 6 ∧ 40 + len ≤ q.length ∧ 8 ≤ len ∧ checksumGood (slice q 8 16) (slice q 24 16) 17 b = true ∧ rd q 6 1 = 17 ∧ ofBe (slice b 4 2) = len ∧ ofBe (slice b 2 2) = 49231 ∧ a ∈ portAddrs s p ∧ a.address = slice q 24 16 ∧ a.roles.testBit 1 = true ∧ rd (b.drop 8) 1 1 = 1 :=
  ⟨{ up with lnk := { ports := List.replicate 12 {} ++ [{ phase := .up, addrs := [some { prefixLen := 64, roles := 2, vlan := 0, address := le 1 0xFD ++ zeros 14 ++ le 1 1 }] }] } }, 12, (be 6 0x011B19000000 ++ zeros 6 ++ be 2 0x86DD ++ be 4 0x60000000 ++ be 2 10 ++ be 1 17 ++ zeros 1 ++ zeros 16 ++ le 1 0xFD ++ zeros 14 ++ le 1 1 ++ be 2 1 ++ be 2 49231 ++ be 2 10 ++ be 2 16775 ++ zeros 0 ++ le 1 1 ++ le 1 1), ((untag (be 6 0x011B19000000 ++ zeros 6 ++ be 2 0x86DD ++ be 4 0x60000000 ++ be 2 10 ++ be 1 17 ++ zeros 1 ++ zeros 16 ++ le 1 0xFD ++ zeros 14 ++ le 1 1 ++ be 2 1 ++ be 2 49231 ++ be 2 10 ++ be 2 16775 ++ zeros 0 ++ le 1 1 ++ le 1 1)).2.drop 14), 10, ((be 6 0x011B19000000 ++ zeros 6 ++ be 2 0x86DD ++ be 4 0x60000000 ++ be 2 10 ++ be 1 17 ++ zeros 1 ++ zeros 16 ++ le 1 0xFD ++ zeros 14 ++ le 1 1 ++ be 2 1 ++ be 2 49231 ++ be 2 10 ++ be 2 16775 ++ zeros 0 ++ le 1 1 ++ le 1 1).drop 54), ({ prefixLen := 64, roles := 2, vlan := 0, address := le 1 0xFD ++ zeros 14 ++ le 1 1 } : AddrEntry), by decide +kernel⟩

theorem test_o53_3 : ∃ (s : State), ∃ (p : Nat), portExists s p = true ∧ (portAt s p).phase = .training :=
  ⟨{ up with lnk := { ports := List.replicate 12 {} ++ [{ phase := .training }] } }, 12, by decide +kernel⟩

theorem test_o53_4 : ∃ (s : State), ∃ (p : Nat), portExists s p = true ∧ (portAt s p).phase = .up ∧ ((portAt s p).downTimes.filter (fun u => s.time.uptime < u + 60000)).length < 4 :=
  ⟨{ up with lnk := { ports := List.replicate 12 {} ++ [{ phase := .up, downTimes := [0, 0, 0] }] } }, 12, by decide +kernel⟩

theorem test_o53_5 : ∃ (s : State), ∃ (p : Nat), portExists s p = true ∧ (portAt s p).phase = .up ∧ 4 ≤ ((portAt s p).downTimes.filter (fun u => s.time.uptime < u + 60000)).length :=
  ⟨{ up with lnk := { ports := List.replicate 12 {} ++ [{ phase := .up, downTimes := [0, 0, 0, 0] }] } }, 12, by decide +kernel⟩

theorem test_o53_6 : ∃ (s : State), ∃ (p : Nat), portExists s p = true ∧ (portAt s p).phase = .training :=
  ⟨{ up with lnk := { ports := List.replicate 12 {} ++ [{ phase := .training }] } }, 12, by decide +kernel⟩

theorem test_o53_7 : ∃ (s : State), ∃ (p : Nat), portExists s p = true ∧ (portAt s p).phase = .hold :=
  ⟨{ up with lnk := { ports := List.replicate 12 {} ++ [{ phase := .hold }] } }, 12, by decide +kernel⟩

theorem test_o53_8 : ∃ (s : State), ∃ (p : Nat), ∃ e n, portExists s p = true ∧ (portAt s p).phase = .up ∧ n < e * 10 ^ (portAt s p).config.fecExp :=
  ⟨{ up with lnk := { ports := List.replicate 12 {} ++ [{ phase := .up }] } }, 12, 1, 99999, by decide +kernel⟩

theorem test_o53_9 : ∃ (s : State), ∃ (p : Nat), ∃ e n, portExists s p = true ∧ (portAt s p).phase = .up ∧ (portAt s p).degraded = true ∧ e * 10 ^ (portAt s p).config.fecExp < n :=
  ⟨{ up with lnk := { ports := List.replicate 12 {} ++ [{ phase := .up, degraded := true, goodSeconds := 9 }] } }, 12, 1, 100001, by decide +kernel⟩

theorem test_o53_10 : ∃ (s : State), ∃ (p : Nat), portExists s p = true ∧ s.lnk.laneZeroOnly = true ∧ portZeroUp s = false :=
  ⟨{ up with lnk := { laneZeroOnly := true } }, 12, by decide +kernel⟩

theorem test_o53_11 : ∃ (s : State), ∃ (p : Nat), portExists s p = true ∧ s.time.ptpHold = true ∧ s.time.gmPort = 0 ∧ (∀ e ∈ s.time.announces, e.1 ≠ 0 → (ptpGroups s).testBit e.1 = false) :=
  ⟨{ up with time := { ptpHold := true, ptpPorts := 1, ptpDomain := 24, gmClass := 6, gmPort := 0, announces := [(0, ({ clockClass := 6, port := 0, domain := 24, accuracy := 0, variance := 0, priority2 := 0, identity := 0, steps := 0, utcOffset := 37, utcValid := true, leap59 := false, leap61 := false } : Announce))] } }, 0, by decide +kernel⟩

theorem test_o53_12 : ∃ (s : State), ∃ (p : Nat), ∃ (a : Bytes), portExists s p = true ∧ (portAt s p).neighbours.any (fun n => n.address == a) = true :=
  ⟨{ up with lnk := { ports := List.replicate 12 {} ++ [{ neighbours := [{ address := [1], mac := [], refreshed := 0 }] }] } }, 12, [1], by decide +kernel⟩

/-! ## O54, HostRegisterAccessesTakeEffect -/

theorem test_o54_1 : ∃ (s : State), ∃ k off, ∃ (data : Bytes), pcieUp s = true ∧ k < 32 ∧ k < s.host.mailboxes.length ∧ off + data.length ≤ 256 ∧ mailboxPhase s k ≠ .busy :=
  ⟨up, 31, 240, (List.replicate 16 1), by decide +kernel⟩

theorem test_o54_2 : ∃ (s : State), ∃ k, pcieUp s = true ∧ k < 32 ∧ mailboxPhase s k ≠ .busy ∧ taking s = false :=
  ⟨{ up with fol := { up.fol with ready := false } }, 31, by decide +kernel⟩

theorem test_o54_3 : ∃ (s : State), pcieUp s = true :=
  ⟨up, by decide +kernel⟩

theorem test_o54_4 : ∃ (s : State), pcieUp s = true :=
  ⟨up, by decide +kernel⟩

theorem test_o54_5 : ∃ (s : State), pcieUp s = true :=
  ⟨up, by decide +kernel⟩

theorem test_o54_6 : ∃ (s : State), pcieUp s = true :=
  ⟨up, by decide +kernel⟩

theorem test_o54_7 : ∃ (s : State), pcieUp s = true :=
  ⟨up, by decide +kernel⟩

theorem test_o54_8 : ∃ (s : State), pcieUp s = true :=
  ⟨up, by decide +kernel⟩

theorem test_o54_9 : ∃ (s : State), ∃ c v, pcieUp s = true ∧ c < 8 ∧ c < s.host.channels.length ∧ dirNow (chan s c) = .toHost ∧ v < 2 ^ 32 ∧ v ≠ (chan s c).tail ∧ countTo (chan s c).tail v ≤ countTo (chan s c).tail (chan s c).head :=
  ⟨{ up with host := { up.host with channels := List.replicate 7 {} ++ [{ dir := .toHost, tail := 0, head := 5 }] } }, 7, 5, by decide +kernel⟩

theorem test_o54_10 : ∃ (s : State), ∃ c v, pcieUp s = true ∧ c < 8 ∧ dirNow (chan s c) = .closed ∧ v < 2 ^ 32 ∧ v ≠ (chan s c).tail :=
  ⟨{ up with host := { up.host with channels := List.replicate 7 {} ++ [{ dir := .closed }] } }, 7, (2 ^ 32 - 1), by decide +kernel⟩

theorem test_o54_11 : ∃ (s : State), ∃ c p, pcieUp s = true ∧ c < 8 ∧ c < s.host.channels.length ∧ (chan s c).dir = .toHost ∧ (chan s c).down = false ∧ (chan s c).held = [] ∧ (chan s c).autoack = false ∧ (chan s c).cursorOffset + 8 < 4096 ∧ pageInFrame (chan s c) (chan s c).cursorFrame = some p :=
  ⟨{ up with host := { up.host with channels := List.replicate 7 {} ++ [{ dir := .toHost, cursorOffset := 4080, cursorFrame := 31, pages := [{ seq := 31, body := [1] }] }] } }, 7, ({ seq := 31, body := [1] } : Page), by decide +kernel⟩

theorem test_o54_12 : ∃ (s : State), ∃ c, pcieUp s = true ∧ c < 8 ∧ c < s.host.channels.length ∧ (chan s c).dir = .toHost :=
  ⟨{ up with host := { up.host with channels := List.replicate 7 {} ++ [{ dir := .toHost, down := true, held := [{ seq := 31, body := [1] }] }] } }, 7, by decide +kernel⟩

theorem test_o54_13 : ∃ (s : State), ∃ c f off len, ∃ (data : Bytes), pcieUp s = true ∧ c < 8 ∧ c < s.host.channels.length ∧ f < 32 ∧ off + len ≤ 4096 ∧ dirNow (chan s c) = .fromHost ∧ data.length = len :=
  ⟨{ up with host := { up.host with channels := List.replicate 7 {} ++ [{ dir := .fromHost }] } }, 7, 31, 4088, 8, (zeros 8), by decide +kernel⟩

theorem test_o54_14 : ∃ (s : State), ∃ c f off len p, pcieUp s = true ∧ c < 8 ∧ c < s.host.channels.length ∧ f < 32 ∧ off + len ≤ 4096 ∧ (chan s c).dir = .toHost ∧ (chan s c).down = false ∧ (chan s c).held = [] ∧ pageInFrame (chan s c) f = some p :=
  ⟨{ up with host := { up.host with channels := List.replicate 7 {} ++ [{ dir := .toHost, pages := [{ seq := 31, body := [1] }] }] } }, 7, 31, 4088, 8, ({ seq := 31, body := [1] } : Page), by decide +kernel⟩

theorem test_o54_15 : ∃ (s : State), ∃ off, pcieUp s = true ∧ off < 2 ^ 16 :=
  ⟨up, 65535, by decide +kernel⟩

theorem test_o54_16 : ∃ (s : State), pcieUp s = true :=
  ⟨up, by decide +kernel⟩

theorem test_o54_17 : ∃ (s : State), pcieUp s = true :=
  ⟨up, by decide +kernel⟩

theorem test_o54_18 : ∃ (s : State), pcieUp s = true :=
  ⟨up, by decide +kernel⟩

theorem test_o54_19 : ∃ (s : State), pcieUp s = true :=
  ⟨up, by decide +kernel⟩

/-! ## O55, ResetsAndInterruptsOfThePort -/

theorem test_o55_2 : ∃ (s : State), ∃ (v : Nat), ∃ (e : MsixEntry), s.host.msix[v]? = some e ∧ e.holdoff = true ∧ e.heldBack = false :=
  ⟨{ up with host := { up.host with msix := List.replicate 31 {} ++ [{ holdoff := true }] } }, 31, ({ holdoff := true } : MsixEntry), by decide +kernel⟩

theorem test_o55_3 : ∃ (s : State), ∃ (v : Nat), ∃ (e : MsixEntry), s.host.msix[v]? = some e ∧ e.holdoff = true ∧ e.heldBack = true ∧ e.masked = false :=
  ⟨{ up with host := { up.host with msix := List.replicate 31 {} ++ [{ holdoff := true, heldBack := true, masked := false }] } }, 31, ({ holdoff := true, heldBack := true, masked := false } : MsixEntry), by decide +kernel⟩

theorem test_o55_4 : ∃ (s : State), ∃ e, s.pwr.vigilOn = true ∧ s.fol.ready = true ∧ s.fol.restarting = false ∧ s.svc.phase = .idle ∧ (chan s 0).udp = none ∧ mayProduce (chan s 0) = true ∧ (chan s 0).waiting = [] ∧ 0 < s.host.channels.length ∧ s.fol.events = [e] ∧ e.coalesces = false ∧ e.payload.length ≤ 240 ∧ s.fol.overflowCount = 0 :=
  ⟨{ up with fol := { up.fol with events := [{ kind := 0x0201, source := 0, count := 1, firstTick := 0, lastTick := 0, firstUptime := 0, coalesces := false, completion := false, payload := zeros 240 }] } }, ({ kind := 0x0201, source := 0, count := 1, firstTick := 0, lastTick := 0, firstUptime := 0, coalesces := false, completion := false, payload := zeros 240 } : EventEntry), by decide +kernel⟩

/-! ## O56, SessionsAndStreamsFollowTheirTimers -/

theorem test_o56_1 : ∃ (s : State), ∃ h x, findSession s h = some x ∧ x.pending = false :=
  ⟨{ up with fol := { up.fol with sessions := [{ warden with handle := 9 }] } }, 9, ({ warden with handle := 9 } : Session), by decide +kernel⟩

theorem test_o56_2 : ∃ (s : State), ∃ h x, findSession s h = some x ∧ x.pending = true :=
  ⟨{ up with fol := { up.fol with sessions := [{ warden with handle := 9, pending := true }] } }, 9, ({ warden with handle := 9, pending := true } : Session), by decide +kernel⟩

theorem test_o56_4 : ∃ (s : State), ∃ h q u e, (findSession s h).bind (·.udp) = some u ∧ u.unacked.find? (fun x => x.1 == q) = some e ∧ e.2.2.1 < 20 :=
  ⟨{ up with fol := { up.fol with sessions := [{ warden with handle := 9, udp := some { unacked := [(3, [1], 19, 0)] } }] } }, 9, 3, ({ unacked := [(3, [1], 19, 0)] } : UdpTransport), ((3, [1], 19, 0) : Nat × Bytes × Nat × Nat), by decide +kernel⟩

theorem test_o56_5 : ∃ (s : State), ∃ h q u e, (findSession s h).bind (·.udp) = some u ∧ u.unacked.find? (fun x => x.1 == q) = some e ∧ 20 ≤ e.2.2.1 :=
  ⟨{ up with fol := { up.fol with sessions := [{ warden with handle := 9, udp := some { unacked := [(3, [1], 20, 0)] } }] } }, 9, 3, ({ unacked := [(3, [1], 20, 0)] } : UdpTransport), ((3, [1], 20, 0) : Nat × Bytes × Nat × Nat), by decide +kernel⟩

theorem test_o56_6 : ∃ (s : State), ∃ c p, (chan s c).dir = .toHost ∧ (chan s c).push = none ∧ (chan s c).pages.head? = some p ∧ p.pinned = true ∧ c < 8 ∧ c < s.host.channels.length :=
  ⟨{ up with host := { up.host with channels := List.replicate 7 {} ++ [{ dir := .toHost, pages := [{ seq := 31, body := [1], pinned := true }] }] } }, 7, ({ seq := 31, body := [1], pinned := true } : Page), by decide +kernel⟩

theorem test_o56_7 : ∃ (s : State), ∃ c e es f, dirNow (chan s c) = .fromHost ∧ partFrames (chan s c) = e :: es ∧ f = (es.foldl staler e).1 ∧ c < 8 ∧ c < s.host.channels.length :=
  ⟨{ up with host := { up.host with channels := List.replicate 7 {} ++ [{ dir := .fromHost, frames := [(1, { data := [1], written := 1, lastWrite := 7 }), (2, { data := [1], written := 1, lastWrite := 6 })] }] } }, 7, ((1, { data := [1], written := 1, lastWrite := 7 }) : Nat × FrameFill), ([(2, { data := [1], written := 1, lastWrite := 6 })] : List (Nat × FrameFill)), 2, by decide +kernel⟩

theorem test_o56_8 : ∃ (s : State), ∃ c p, dirNow (chan s c) = .toHost ∧ (chan s c).push.isSome = true ∧ (chan s c).pages.getLast? = some p ∧ c < 8 ∧ c < s.host.channels.length :=
  ⟨{ up with host := { up.host with channels := List.replicate 7 {} ++ [{ dir := .toHost, push := some { base := 0, pages := 32, headAddr := 8 }, pages := [{ seq := 31, body := [1] }] }] } }, 7, ({ seq := 31, body := [1] } : Page), by decide +kernel⟩

theorem test_o56_9 : ∃ (s : State), ∃ c x o, (chan s c).dir = .fromHost ∧ (chan s c).transfer = some x ∧ x.opcode ≠ 0x0F01 ∧ c < s.host.channels.length ∧ s.fol.outstanding.find? (fun y => y.ref == x.ref) = some o :=
  ⟨{ up with host := { up.host with channels := List.replicate 7 {} ++ [{ dir := .fromHost, transfer := some { ref := 3, opcode := 0x0512, transferId := 0, request := req [], dryrun := false, expected := 8, crc := 0 } }] }, fol := { up.fol with outstanding := [{ ref := 3, session := 2, tag := 7, opcode := 0x0512 }] } }, 7, ({ ref := 3, opcode := 0x0512, transferId := 0, request := req [], dryrun := false, expected := 8, crc := 0 } : Transfer), ({ ref := 3, session := 2, tag := 7, opcode := 0x0512 } : Outstanding), by decide +kernel⟩

theorem test_o56_10 : ∃ (s : State), ∃ (d : Bytes), s.pwr.vigilOn = true ∧ taking s = true ∧ datagramFormed 0 d = true ∧ rd d 4 4 = 0 ∧ (parseRequest (.udp (rd d 8 8)) (pad 256 (slice d 24 (rd d 16 2)))).2.session = 0 ∧ findSession s 0 = none ∧ (parseRequest (.udp (rd d 8 8)) (pad 256 (slice d 24 (rd d 16 2)))).1 = 0x0100 ∧ (parseRequest (.udp (rd d 8 8)) (pad 256 (slice d 24 (rd d 16 2)))).2.isAsync = false ∧ validate cmdSysIdentify { opcode := 0x0100, request := (parseRequest (.udp (rd d 8 8)) (pad 256 (slice d 24 (rd d 16 2)))).2 } s = none :=
  ⟨up, (le 2 0x4653 ++ le 1 1 ++ le 1 0 ++ le 4 0 ++ le 8 1 ++ le 2 16 ++ zeros 6 ++ le 2 0x0100 ++ le 2 7 ++ zeros 12), by decide +kernel⟩

theorem test_o56_11 : ∃ (s : State), ∃ (d : Bytes), ∃ u, ∃ (b : Bytes), s.pwr.vigilOn = true ∧ datagramFormed 3 d = true ∧ rd d 4 4 ≠ 0 ∧ (findSession s (rd d 4 4)).bind (fun x => if x.pending then none else x.udp) = some u ∧ (engineWork (folsetClass 0 s) s).1 = true ∧ gcmOpen u.keyToModule (slice d 4 12) (d.take 24) (d.drop 24) = some b ∧ b.length = 8 ∧ u.unsent = [] :=
  ⟨{ up with fol := { up.fol with sessions := [{ warden with handle := 9, udp := some { keyToModule := zeros 32, unacked := [(3, [1], 0, 0)] } }] } }, ((le 2 0x4653 ++ le 1 1 ++ le 1 3 ++ le 4 9 ++ le 8 1 ++ le 2 8 ++ zeros 6) ++ gcmCrypt (zeros 32) (le 4 9 ++ le 8 1) (le 8 3) ++ gcmTag (zeros 32) (le 4 9 ++ le 8 1) (le 2 0x4653 ++ le 1 1 ++ le 1 3 ++ le 4 9 ++ le 8 1 ++ le 2 8 ++ zeros 6) (gcmCrypt (zeros 32) (le 4 9 ++ le 8 1) (le 8 3))), ({ keyToModule := zeros 32, unacked := [(3, [1], 0, 0)] } : UdpTransport), (le 8 3), by decide +kernel⟩

/-! ## O57, FolsetFaultsAndRestarts -/

theorem test_o57_1 : ∃ (s : State), s.pwr.vigilOn = true ∧ s.fol.ready = true ∧ s.fol.restarting = false ∧ s.svc.jorny.standalone = false ∧ s.svc.phase ≠ .glf :=
  ⟨up, by decide +kernel⟩

theorem test_o57_2 : ∃ (s : State), s.pwr.vigilOn = true ∧ s.fol.ready = true ∧ s.fol.restarting = false ∧ s.svc.jorny.standalone = false ∧ s.svc.phase ≠ .glf :=
  ⟨up, by decide +kernel⟩

theorem test_o57_3 : ∃ (s : State), ∃ n, s.pwr.vigilOn = true ∧ s.svc.trace.any (fun r => r.seq == n && !r.lost) = true :=
  ⟨{ up with svc := { trace := [{ kind := 1, source := 0, seq := 9, tick := 0, offset := 0, payload := [], block := 0 }] } }, 9, by decide +kernel⟩

theorem test_o57_4 : ∃ (s : State), s.fol.restarting = true ∧ s.svc.jorny.standalone = false ∧ s.pwr.vigilOn = true ∧ s.fol.waiting = [] :=
  ⟨{ up with fol := { up.fol with restarting := true } }, by decide +kernel⟩

theorem test_o57_5 : ∃ (s : State), s.pwr.vigilOn = true ∧ (s.pwr.mode = .starting ∨ s.pwr.mode = .hold) ∧ (s.fol.lifecycle = .blank ∨ s.fol.lifecycle = .service) :=
  ⟨{ up with pwr := { up.pwr with mode := .hold }, fol := { up.fol with lifecycle := .service } }, by decide +kernel⟩

/-! ## O58, UpdatesSwitchAndRevert -/

theorem test_o58_1 : ∃ (s : State), s.svc.phase = .quiescing ∧ s.fol.waiting = [] :=
  ⟨{ up with svc := { phase := .quiescing } }, by decide +kernel⟩

theorem test_o58_2 : ∃ (s : State), s.svc.phase = .switched ∧ s.fol.waiting = [] :=
  ⟨{ up with svc := { phase := .switched } }, by decide +kernel⟩

theorem test_o58_3 : ∃ (s : State), s.svc.phase = .switched :=
  ⟨{ up with svc := { phase := .switched } }, by decide +kernel⟩

theorem test_o58_4 : ∃ (s : State), s.svc.phase = .probation ∧ s.svc.autoCommit = true ∧ s.svc.build = .valid :=
  ⟨{ up with svc := { phase := .probation, autoCommit := true, build := .valid } }, by decide +kernel⟩

theorem test_o58_5 : ∃ (s : State), s.svc.phase = .probation ∧ s.svc.autoCommit = false :=
  ⟨{ up with svc := { phase := .probation } }, by decide +kernel⟩

theorem test_o58_6 : ∃ (s : State), s.svc.phase = .glf :=
  ⟨{ up with svc := { phase := .glf } }, by decide +kernel⟩

theorem test_o58_7 : ∃ (s : State), s.svc.phase = .glf :=
  ⟨{ up with svc := { phase := .glf } }, by decide +kernel⟩

theorem test_o58_8 : ∃ (s : State), ∃ b n k, s.svc.trigger = some (b, n, k) ∧ (s.svc.frozen = true ∨ b + s.svc.postBlocks ≤ s.svc.block) :=
  ⟨{ up with svc := { trigger := some (3, 1, 2), block := 5, postBlocks := 2 } }, 3, 1, 2, by decide +kernel⟩

/-! ## O59, JornyCommandsTakeEffect -/

theorem test_o59_1 : ∃ (s : State), jornyUp s = true ∧ s.fol.lifecycle ≠ .scrapped :=
  ⟨up, by decide +kernel⟩

theorem test_o59_2 : ∃ (s : State), jornyUp s = true ∧ s.fol.lifecycle ≠ .scrapped :=
  ⟨up, by decide +kernel⟩

theorem test_o59_3 : ∃ (s : State), jornyUp s = true ∧ s.fol.lifecycle ≠ .scrapped :=
  ⟨up, by decide +kernel⟩

theorem test_o59_4 : ∃ (s : State), jornyUp s = true ∧ s.fol.lifecycle ≠ .scrapped :=
  ⟨up, by decide +kernel⟩

theorem test_o59_5 : ∃ (s : State), ∃ k, jornyUp s = true ∧ s.fol.lifecycle ≠ .scrapped ∧ (sourceClass k).isSome = true :=
  ⟨up, 0xF7, by decide +kernel⟩

theorem test_o59_6 : ∃ (s : State), ∃ code p, ∃ (r : Role), ∃ (cred : SlotCopy), jornyUp s = true ∧ s.fol.lifecycle ≠ .scrapped ∧ roleOf code = some r ∧ p ≤ 63 ∧ roleOpens s.fol.lifecycle r = true ∧ principalFor s p r false = some cred :=
  ⟨{ up with vlt := { up.vlt with slots := (5, { a := cred }) :: up.vlt.slots } }, 3, 5, .warden, cred, by decide +kernel⟩

theorem test_o59_7 : ∃ (s : State), ∃ (r : Role), ∃ p, ∃ (ch : Bytes), ∃ (cred : SlotCopy), jornyUp s = true ∧ s.fol.lifecycle ≠ .scrapped ∧ s.svc.jorny.challenge = some (r, p, ch) ∧ principalFor s p r false = some cred ∧ (engineWork (folsetClass 1 s) s).1 = true :=
  ⟨{ up with svc := { jorny := { challenge := some (.warden, 5, zeros 32) } }, vlt := { up.vlt with slots := (5, { a := cred }) :: up.vlt.slots } }, .warden, 5, (zeros 32), cred, by decide +kernel⟩

theorem test_o59_8 : ∃ (s : State), jornyUp s = true ∧ s.fol.lifecycle ≠ .scrapped :=
  ⟨up, by decide +kernel⟩

theorem test_o59_9 : ∃ (s : State), jornyUp s = true ∧ s.fol.lifecycle ≠ .scrapped ∧ s.svc.jorny.bound.isSome = true :=
  ⟨{ up with svc := { jorny := { bound := some (.warden, 5, 0) } } }, by decide +kernel⟩

theorem test_o59_10 : ∃ (s : State), ∃ k, ∃ (rs : List TraceRecord), jornyUp s = true ∧ s.fol.lifecycle ≠ .scrapped ∧ s.svc.jorny.bound.isSome = true ∧ k ≤ 1 ∧ traceSource s (k + 1) = some rs :=
  ⟨{ up with svc := { jorny := { bound := some (.warden, 5, 0) }, tails := [none, some (4, [])] }, pwr := { up.pwr with recordB := { valid := true, recordId := 4, progress := 128 } } }, 1, ([] : List TraceRecord), by decide +kernel⟩

theorem test_o59_11 : ∃ (s : State), jornyUp s = true ∧ s.fol.lifecycle ≠ .scrapped :=
  ⟨up, by decide +kernel⟩

theorem test_o59_12 : ∃ (s : State), jornyUp s = true ∧ s.fol.lifecycle ≠ .scrapped ∧ jornyMay .warden s = true ∧ s.svc.jorny.load = none ∧ bankRefused 1 0 s = none :=
  ⟨{ up with svc := { jorny := { bound := some (.warden, 5, 0) }, build := .valid } }, by decide +kernel⟩

theorem test_o59_13 : ∃ (s : State), ∃ (b : Bool), jornyUp s = true ∧ s.fol.lifecycle ≠ .scrapped ∧ jornyMay .warden s = true ∧ s.svc.jorny.load = none ∧ bankRefused 3 b.toNat s = none :=
  ⟨{ up with svc := { jorny := { bound := some (.warden, 5, 0) } }, mem := { up.mem with bankB := { valid := true } } }, true, by decide +kernel⟩

theorem test_o59_14 : ∃ (s : State), ∃ target len, jornyUp s = true ∧ s.fol.lifecycle ≠ .scrapped ∧ jornyMay .warden s = true ∧ s.svc.jorny.standalone = true ∧ s.svc.jorny.load = none ∧ target ≤ 4 ∧ 257 ≤ len ∧ len ≤ imageLimit target + 256 :=
  ⟨{ up with svc := { jorny := { bound := some (.warden, 5, 0), standalone := true } } }, 4, (1048576 + 256), by decide +kernel⟩

theorem test_o59_15 : ∃ (s : State), ∃ target len, ∃ (got : Bytes), ∃ off, ∃ (data : Bytes), jornyUp s = true ∧ s.fol.lifecycle ≠ .scrapped ∧ s.svc.jorny.load = some (target, len, got) ∧ data.length = 1024 ∧ off % 1024 = 0 ∧ off ≤ got.length ∧ (got.take off ++ data ++ got.drop (off + 1024)).length < len :=
  ⟨{ up with svc := { jorny := { bound := some (.warden, 5, 0), standalone := true, load := some (4, 2049, List.replicate 1024 1) } } }, 4, 2049, (List.replicate 1024 1), 1024, (zeros 1024), ⟨by decide +kernel, by decide +kernel, rfl, List.length_replicate, by decide +kernel, Nat.le_of_eq List.length_replicate.symm, by simp only [List.length_append, List.length_take, List.length_drop, zeros, List.length_replicate]; omega⟩⟩

theorem test_o59_16 : ∃ (s : State), ∃ target len, ∃ (got : Bytes), ∃ off, ∃ (data : Bytes), ∃ crc, jornyUp s = true ∧ s.fol.lifecycle ≠ .scrapped ∧ s.svc.jorny.load = some (target, len, got) ∧ crc ≠ blockCrc off data :=
  ⟨{ up with svc := { jorny := { bound := some (.warden, 5, 0), standalone := true, load := some (4, 2049, []) } } }, 4, 2049, ([] : Bytes), 0, (zeros 8), 0, by decide +kernel⟩

theorem test_o59_17 : ∃ (s : State), jornyUp s = true ∧ s.fol.lifecycle ≠ .scrapped ∧ s.svc.jorny.load.isSome = true :=
  ⟨{ up with svc := { jorny := { bound := some (.warden, 5, 0), standalone := true, load := some (4, 2049, List.replicate 1024 1) } } }, by decide +kernel⟩

theorem test_o59_18 : ∃ (s : State), jornyUp s = true ∧ s.fol.lifecycle ≠ .scrapped ∧ jornyMay .warden s = true ∧ s.svc.phase ≠ .glf :=
  ⟨{ up with svc := { jorny := { bound := some (.warden, 5, 0) } } }, by decide +kernel⟩

theorem test_o59_19 : ∃ (s : State), jornyUp s = true ∧ s.fol.lifecycle ≠ .scrapped :=
  ⟨up, by decide +kernel⟩

/-! ## O60, ReadsRefuseWhatIsAbsent -/

theorem test_o60_1 : ∃ (s : State), ∃ (rq : Request), ∃ (k : Nat), Served cmdStemBridgeRead rq k s ∧ 8191 < arg rq 0 2 :=
  ⟨up, req (le 2 8192 ++ le 2 0), 0, by unfold Served; decide +kernel⟩

theorem test_o60_2 : ∃ (s : State), ∃ (rq : Request), ∃ (k : Nat), Served cmdStemBridgeRead rq k s ∧ arg rq 0 2 ≤ 8191 ∧ arg rq 2 2 = 0 ∧ (bridgeAt s (arg rq 0 2)).phase = .absent :=
  ⟨up, req (le 2 8191 ++ le 2 0), 0, by unfold Served; decide +kernel⟩

theorem test_o60_3 : ∃ (s : State), ∃ (rq : Request), ∃ (k : Nat), Served cmdPlcNetworkRead rq k s ∧ 8191 < arg rq 0 2 :=
  ⟨up, req (le 2 8192 ++ le 2 0), 0, by unfold Served; decide +kernel⟩

theorem test_o60_4 : ∃ (s : State), ∃ (rq : Request), ∃ (k : Nat), Served cmdPlcNetworkRead rq k s ∧ arg rq 0 2 ≤ 8191 ∧ arg rq 2 2 = 0 ∧ ((bridgeAt s (arg rq 0 2)).phase = .absent ∨ (bridgeAt s (arg rq 0 2)).config.streams.testBit 0 = false) :=
  ⟨up, req (le 2 8191 ++ le 2 0), 0, by unfold Served; decide +kernel⟩

theorem test_o60_5 : ∃ (s : State), ∃ (rq : Request), ∃ (k : Nat), Served cmdRfNetworkRead rq k s ∧ 8191 < arg rq 0 2 :=
  ⟨up, req (le 2 8192 ++ le 2 0), 0, by unfold Served; decide +kernel⟩

theorem test_o60_6 : ∃ (s : State), ∃ (rq : Request), ∃ (k : Nat), Served cmdRfNetworkRead rq k s ∧ arg rq 0 2 ≤ 8191 ∧ arg rq 2 2 = 0 ∧ rfAt s (arg rq 0 2) = none :=
  ⟨up, req (le 2 8191 ++ le 2 0), 0, by unfold Served; decide +kernel⟩

theorem test_o60_7 : ∃ (s : State), ∃ (rq : Request), ∃ (k : Nat), Served cmdRfConnRead rq k s ∧ 8191 < arg rq 0 2 :=
  ⟨up, req (le 2 8192 ++ le 2 0), 0, by unfold Served; decide +kernel⟩

theorem test_o60_8 : ∃ (s : State), ∃ (rq : Request), ∃ (k : Nat), Served cmdRfConnRead rq k s ∧ arg rq 0 2 ≤ 8191 ∧ 511 < arg rq 2 2 :=
  ⟨up, req (le 2 8191 ++ le 2 512), 0, by unfold Served; decide +kernel⟩

theorem test_o60_9 : ∃ (s : State), ∃ (rq : Request), ∃ (k : Nat), Served cmdRfConnRead rq k s ∧ arg rq 0 2 ≤ 8191 ∧ arg rq 2 2 ≤ 511 ∧ accountNaming s (arg rq 0 2) (arg rq 2 2) true = none :=
  ⟨up, req (le 2 8191 ++ le 2 511), 0, by unfold Served; decide +kernel⟩

theorem test_o60_10 : ∃ (s : State), ∃ (rq : Request), ∃ (k : Nat), Served cmdMtrRead rq k s ∧ 2 ^ 20 ≤ arg rq 0 4 :=
  ⟨up, req (le 4 0x100000), 0, by unfold Served; decide +kernel⟩

theorem test_o60_11 : ∃ (s : State), ∃ (rq : Request), ∃ (k : Nat), Served cmdMtrRead rq k s ∧ arg rq 0 4 < 2 ^ 20 ∧ meterOf s (arg rq 0 4) = none :=
  ⟨up, req (le 4 0xFFFFF), 0, by unfold Served; decide +kernel⟩

end Sys2Proof.Tests
end

section
/-!
PROOFS. O54: a host that rings SYS_IDENTIFY during a live update is answered at once (R152 of 05), which the statement's clause about
rings leaves out.
-/

namespace Sys2Proof.Machine

/-! ## Requests of SYS_IDENTIFY are served while no others are taken -/

/-- R152: neither a quiescing update nor a switched image keeps SYS_IDENTIFY from being served. -/
theorem serves_identify_of_ready {s : State} (hready : s.fol.ready = true) (hrun : s.fol.restarting = false) :
    serves 0x0100 s = true := by
  simp [serves, hready, hrun]

theorem commandOf_identify : commandOf 0x0100 = some cmdSysIdentify := rfl

/-- Where SYS_IDENTIFY alone waits and is served, taking what waits is serving it. -/
theorem drain_identify {s : State} {w : Waiting} (hwait : s.fol.waiting = [w]) (hop : w.opcode = 0x0100)
    (hserves : serves 0x0100 s = true) :
    drain s = serve cmdSysIdentify w { s with fol := { s.fol with waiting := [] } } := by
  simp [drain, drainWaiting, serveCode, hwait, hop, hserves, commandOf_identify]

/-- The doorbell of mailbox 0 alone: its request is queued, then Folset takes what waits (R117, R119). -/
theorem exec_mboxRing_zero {s : State} (hup : pcieUp s = true) :
    exec (.mboxRing (2 ^ 0)) s = .next (drain (ringMailbox s 0)) := by
  have hmask : (List.range 32).filter (fun k => (2 ^ 0 : Nat).testBit k) = [0] := by decide
  change execMboxRing (2 ^ 0) s = _
  simp only [execMboxRing, hup, hmask, Bool.not_true, Bool.false_eq_true, if_false, List.foldl_cons, List.foldl_nil]

/-! ## The counterexample -/

/-- A running module that quiesces for a live update of Folset (R598 of 18); in mailbox 0, which is FREE, the host has written a
SYS_IDENTIFY request with tag 7 (R120, R152). -/
def quiescingModule : State := { State.reset with
  pwr := { vigilOn := true, fieldOn := true, computeOn := true, mode := .full }
  host := { linkTraining := true, configRetry := false
            mailboxes := { request := le 2 0x0100 ++ le 2 7 } :: List.replicate 31 {} }
  fol := { ready := true, lifecycle := .sealed }
  svc := { phase := .quiescing } }

/-- The request as the ring queues it. -/
def identifyQueued : Waiting :=
  { opcode := 0x0100
    request := { via := .mailbox 0, tag := 7, length := 0, flags := 0, session := 0, reserved := 0, payload := zeros 240 } }

/-- The module meets every hypothesis that the statement makes about a ring of mailbox 0. -/
theorem quiescingModule_may_ring :
    pcieUp quiescingModule = true ∧ mailboxPhase quiescingModule 0 ≠ .busy ∧ taking quiescingModule = false := by
  decide +kernel

theorem quiescingModule_rung_waiting : (ringMailbox quiescingModule 0).fol.waiting = [identifyQueued] := by
  decide +kernel

/-- The response, which comes at once, gives the mailbox back to the host (R118). -/
theorem quiescingModule_identify_answered :
    (serve cmdSysIdentify identifyQueued
      { ringMailbox quiescingModule 0 with
        fol := { (ringMailbox quiescingModule 0).fol with waiting := [] } }).host.owner.getLsbD 0 = false := by
  decide +kernel

/-- After the ring OWNER of mailbox 0 is clear. -/
theorem quiescingModule_ring_owner : (drain (ringMailbox quiescingModule 0)).host.owner.getLsbD 0 = false := by
  have hserves : serves 0x0100 (ringMailbox quiescingModule 0) = true := serves_identify_of_ready rfl rfl
  rw [drain_identify quiescingModule_rung_waiting rfl hserves]
  exact quiescingModule_identify_answered

/-- Refutes O54: its clause about MBOX_RING says of every opcode that, while Folset takes no requests, the ring leaves OWNER set and the
request waiting; SYS_IDENTIFY is answered at once (R152), as in `quiescingModule`. -/
theorem not_hostRegisterAccessesTakeEffect : ¬ Obligations.HostRegisterAccessesTakeEffect := by
  unfold Obligations.HostRegisterAccessesTakeEffect
  intro h
  obtain ⟨hup, hfree, htaking⟩ := quiescingModule_may_ring
  obtain ⟨-, hring, -⟩ := h quiescingModule hup
  obtain ⟨t, ht, howner, -⟩ := hring 0 (by decide) hfree htaking
  rw [exec_mboxRing_zero hup] at ht
  cases ht
  exact Bool.false_ne_true (quiescingModule_ring_owner.symm.trans howner)

end Sys2Proof.Machine
end

section
/-!
SUPPORT. What leaves the power part alone, and what leaves in it the hand-over state and the paths: the operations behind a change of
mode.
-/

namespace Sys2Proof.Machine

/-! ## Operations that leave the power part alone -/

/-- The mask of every part but one. -/
def allBut (p : Part) : Nat := 2 ^ 21 - 1 - p.bit

theorem pwr_eq_of_keeps {s t : State} (k : Keeps (allBut .pwr) s s → Keeps (allBut .pwr) s t) : t.pwr = s.pwr :=
  (k (Keeps.refl _ s)).samePwr rfl

section

variable (s : State)

@[simp] theorem interrupt_pwr (i : Nat) : (interrupt i s).pwr = s.pwr := rfl
@[simp] theorem traceMode_pwr : (traceMode s).pwr = s.pwr := pwr_eq_of_keeps (traceMode_keeps rfl)
@[simp] theorem unlistedEvent_pwr (n v : Nat) : (unlistedEvent n v s).pwr = s.pwr := pwr_eq_of_keeps (unlistedEvent_keeps rfl)
@[simp] theorem raiseFault_pwr (src d : Nat) : (raiseFault src d s).pwr = s.pwr := pwr_eq_of_keeps (raiseFault_keeps rfl)
@[simp] theorem endFault_pwr (src : Nat) : (endFault src s).pwr = s.pwr := pwr_eq_of_keeps (endFault_keeps rfl)
@[simp] theorem settleSupply_pwr : (settleSupply s).pwr = s.pwr := pwr_eq_of_keeps (settleSupply_keeps rfl)
@[simp] theorem complete_pwr (ref st d : Nat) (p : Bytes) : (complete ref st d p s).pwr = s.pwr :=
  pwr_eq_of_keeps (complete_keeps rfl)
@[simp] theorem loseSync_pwr (cause : Nat) : (loseSync cause s).pwr = s.pwr := pwr_eq_of_keeps (loseSync_keeps rfl)
@[simp] theorem reviewPoints_pwr : (reviewPoints s).pwr = s.pwr := pwr_eq_of_keeps (reviewPoints_keeps rfl)
@[simp] theorem stemCancelAll_pwr : (stemCancelAll s).pwr = s.pwr := pwr_eq_of_keeps (stemCancelAll_keeps rfl)
@[simp] theorem stemVigil_pwr : (stemVigil s).pwr = s.pwr := pwr_eq_of_keeps (stemVigil_keeps rfl)
@[simp] theorem suspendChannels_pwr (on : Bool) : (suspendChannels on s).pwr = s.pwr :=
  pwr_eq_of_keeps (suspendChannels_keeps rfl)
@[simp] theorem portsDown_pwr (b : Bool) : (portsDown b s).pwr = s.pwr := pwr_eq_of_keeps (portsDown_keeps rfl)
@[simp] theorem dropTasks_pwr (p : Task → Bool) : (dropTasks p s).pwr = s.pwr := pwr_eq_of_keeps (dropTasks_keeps rfl)
@[simp] theorem abortFrom_pwr (pd : Bool) (p : OpenTick → Bool) : (abortFrom pd p s).pwr = s.pwr :=
  pwr_eq_of_keeps (abortFrom_keeps rfl)
@[simp] theorem setSync_pwr (new : SyncPhase) (cause : Nat) : (setSync new cause s).pwr = s.pwr :=
  pwr_eq_of_keeps (setSync_keeps rfl)
@[simp] theorem driversChanged_pwr : (driversChanged s).pwr = s.pwr := pwr_eq_of_keeps (driversChanged_keeps rfl)
@[simp] theorem stemRelease_pwr : (stemRelease s).pwr = s.pwr := pwr_eq_of_keeps (stemRelease_keeps rfl)
@[simp] theorem toRole_pwr (new : PairRole) (cause : Nat) : (toRole new cause s).pwr = s.pwr := pwr_eq_of_keeps (toRole_keeps rfl)
@[simp] theorem settleLedgerFault_pwr : (settleLedgerFault s).pwr = s.pwr := pwr_eq_of_keeps (settleLedgerFault_keeps rfl)
@[simp] theorem balanceCommit_pwr (l : Nat) : (balanceCommit l s).pwr = s.pwr := pwr_eq_of_keeps (balanceCommit_keeps rfl)
@[simp] theorem commitPair_pwr (l : Nat) : (commitPair l s).pwr = s.pwr := pwr_eq_of_keeps (commitPair_keeps rfl)
@[simp] theorem advanceOldest_pwr : (advanceOldest s).pwr = s.pwr := pwr_eq_of_keeps (advanceOldest_keeps rfl)
@[simp] theorem writeFrontier_pwr (r : FrontierRecord) : (writeFrontier r s).pwr = s.pwr :=
  pwr_eq_of_keeps (writeFrontier_keeps rfl)

end

/-! ## The hand-over state and the two paths -/

/-- What the hand-over table speaks of: its state, the two path switches, and which inputs are present or lost for over-voltage
(R55, R56, R57). -/
structure PathState where
  handover : Handover
  mainPath : PathSwitch
  battPath : PathSwitch
  mainPresent : Bool
  battPresent : Bool
  mainOver : Bool
  battOver : Bool

/-- That part of a module's state. -/
def pathState (s : State) : PathState where
  handover := s.pwr.handover
  mainPath := s.pwr.mainPath
  battPath := s.pwr.battPath
  mainPresent := s.pwr.mainPresent
  battPresent := s.pwr.battPresent
  mainOver := s.pwr.mainOver
  battOver := s.pwr.battOver

theorem pathState_of_pwr {s t : State} (h : t.pwr = s.pwr) : pathState t = pathState s := by
  simp only [pathState, h]

theorem pathState_ite {c : Prop} [Decidable c] {p : PathState} {a b : State} (ha : pathState a = p) (hb : pathState b = p) :
    pathState (if c then a else b) = p := by
  split <;> assumption

theorem pathState_foldl {α : Type} {f : State → α → State} (hf : ∀ s a, pathState (f s a) = pathState s) (l : List α) (s : State) :
    pathState (l.foldl f s) = pathState s := by
  induction l generalizing s with
  | nil => rfl
  | cons a l ih => rw [List.foldl_cons, ih, hf]

/-- Of what a commit lets out, only a fold that is taken touches the power part: its gap and its energy record (R72). -/
theorem pathState_release (c : Consequence) (s : State) : pathState (release c s) = pathState s := by
  cases c with
  | event => exact pathState_of_pwr (pwr_eq_of_keeps (raiseEvent_keeps rfl))
  | completion => exact pathState_of_pwr (complete_pwr ..)
  | tokenCount accepted => cases accepted <;> rfl
  | keypadAnswer => exact pathState_of_pwr (pwr_eq_of_keeps (tokenResult_keeps rfl))
  | credit => exact pathState_of_pwr (pwr_eq_of_keeps (queueCredit_keeps rfl))
  | pageDone => exact pathState_of_pwr (pwr_eq_of_keeps (takePage_keeps rfl))
  | history => exact pathState_of_pwr (pwr_eq_of_keeps (addHistory_keeps rfl))
  | restored => exact pathState_of_pwr (settleLedgerFault_pwr _)
  | journal | journalAt | audit | removeToken | removeOrder | removeSessionOp | foldTaken | setGapTaken => rfl

theorem journalOnes_pwr (label : Nat) (l : List Consequence) (hs : Nat × State) :
    (l.foldl (fun hs c => journalOne label c hs) hs).2.pwr = hs.2.pwr :=
  pwr_eq_of_keeps (fun k => Keeps.foldlPair (fun _ _ => journalOne_keeps rfl) k)

theorem pathState_commitOldest (s : State) : pathState (commitOldest s) = pathState s := by
  unfold commitOldest
  split
  · rfl
  · next t _ _ =>
    extract_lets out j r s₁ s₂ s₃ s₄
    have h₁ : pathState s₁ = pathState s := pathState_of_pwr (by simp only [s₁, j, writeFrontier_pwr, journalOnes_pwr])
    have h₃ : pathState s₃ = pathState s₂ :=
      pathState_foldl (f := fun s (e : Nat × LocalRec) => noteFlags e.1 e.2 s) (fun _ _ => rfl) ..
    have h₄ : pathState s₄ = pathState s₃ := pathState_foldl (fun s c => pathState_release c s) ..
    calc pathState (advanceOldest (commitPair t.label (balanceCommit t.label s₄)))
        _ = pathState s₄ := pathState_of_pwr (by simp)
        _ = pathState s := h₄.trans (h₃.trans h₁)

theorem pathState_commitClosed (ok : OpenTick → Bool) (n : Nat) (s : State) : pathState (commitClosed ok n s) = pathState s := by
  fun_induction commitClosed with
  | case3 s n t ts hticks hok ih => rw [ih, pathState_commitOldest]
  | case1 | case2 | case4 => rfl

theorem pathState_modeReached (s : State) : pathState (modeReached s) = pathState s :=
  (pathState_foldl (fun s _ => pathState_of_pwr (complete_pwr s ..)) ..).trans rfl

theorem pathState_enterMode (m : Mode) (s : State) : pathState (enterMode m s) = pathState s :=
  pathState_ite rfl ((pathState_of_pwr (traceMode_pwr _)).trans rfl)

theorem pathState_releaseLedger (s : State) : pathState (releaseLedger s) = pathState s :=
  (pathState_of_pwr (abortFrom_pwr ..)).trans (pathState_commitClosed ..)

theorem pathState_releaseBaton (cause : Nat) (s : State) : pathState (releaseBaton cause s) = pathState s := by
  unfold releaseBaton
  split
  · rfl
  · extract_lets wasDuty s₁ s₂ s₃ s₄ next s₅
    have h₁ : pathState s₁ = pathState s := pathState_of_pwr (by simp [s₁])
    have h₂ : pathState s₂ = pathState s₁ := pathState_ite (pathState_releaseLedger s₁) rfl
    have h₄ : pathState s₄ = pathState s := (pathState_of_pwr (by simp [s₄, s₃])).trans (h₂.trans h₁)
    exact pathState_ite ((pathState_of_pwr (by simp [s₅])).trans h₄) h₄

theorem pathState_computeDown (s : State) : pathState (computeDown s) = pathState s := calc
  pathState (computeDown s) = pathState (dropTasks (fun _ => true) s) := rfl
  _ = pathState s := pathState_of_pwr (dropTasks_pwr s _)

theorem pathState_finishVigil (s : State) : pathState (finishVigil s) = pathState s := by
  unfold finishVigil
  extract_lets s₁ s₂ s₃ s₄ s₅
  have h₂ : pathState s₂ = pathState s := (pathState_of_pwr (abortFrom_pwr ..)).trans (pathState_commitClosed ..)
  have h₃ : pathState s₃ = pathState s₂ := pathState_ite rfl (pathState_releaseBaton 4 s₂)
  have h₅ : pathState s₅ = pathState s := calc
    pathState s₅ = pathState (computeDown (stemVigil s₃)) := pathState_of_pwr (by simp [s₅, s₄])
    _ = pathState s₃ := (pathState_computeDown _).trans (pathState_of_pwr (stemVigil_pwr s₃))
    _ = pathState s := h₃.trans h₂
  exact pathState_ite ((pathState_modeReached s₅).trans h₅) h₅

theorem pathState_vigilEntry (s : State) : pathState (vigilEntry s) = pathState s := by
  unfold vigilEntry
  extract_lets s₁ s₂
  have h₁ : pathState s₁ = pathState s :=
    (pathState_enterMode ..).trans (pathState_of_pwr ((stemCancelAll_pwr _).trans (loseSync_pwr s 0)))
  clear_value s₁
  have h₂ : pathState s₂ = pathState s := (pathState_of_pwr (reviewPoints_pwr _)).trans h₁
  clear_value s₂
  exact pathState_ite ((pathState_finishVigil s₂).trans h₂) h₂

/-- However the mode follows the demands, the hand-over state and the paths stay (R55, R60). -/
theorem pathState_settleMode (s : State) : pathState (settleMode s) = pathState s := by
  unfold settleMode
  split
  · split
    · exact pathState_modeReached _
    · rfl
    · exact pathState_vigilEntry s
  · split
    · rfl
    · exact pathState_modeReached _
    · exact pathState_vigilEntry s
  · split
    · exact pathState_ite rfl rfl
    · exact pathState_ite rfl rfl
    · exact pathState_ite (pathState_modeReached _) rfl
  · rfl

end Sys2Proof.Machine
end

section
/-!
PROOFS. O28: the rows of the hand-over table (R55 to R59 of 03).
-/

namespace Sys2Proof.Machine

/-! ## Moves of the hand-over table -/

@[simp] theorem pathFor_heldOff (o : Bool) : pathFor o .heldOff = .heldOff := ite_self _

@[simp] theorem pathFor_true (p : PathSwitch) : pathFor true p = .heldOff := rfl

@[simp] theorem pathFor_false (p : PathSwitch) : pathFor false p = p := rfl

@[simp] theorem changeDemand_pwr (f : PowerState → PowerState) (s : State) : (changeDemand f s).pwr = f s.pwr := by
  unfold changeDemand
  extract_lets t
  split <;> rfl

@[simp] theorem toHandover_pwr (h : Handover) (main batt : PathSwitch) (s : State) : (toHandover h main batt s).pwr =
    { s.pwr with handover := h, mainPath := pathFor s.pwr.mainOver main, battPath := pathFor s.pwr.battOver batt } := by
  unfold toHandover
  rw [traceMode_pwr, interrupt_pwr, setPwr_pwr]

theorem pathState_toMainOn (s : State) : pathState (toMainOn s) =
    { pathState s with handover := .mainOn, mainPath := pathFor s.pwr.mainOver .conducting, battPath := .heldOff } := by
  unfold toMainOn
  extract_lets +onlyGivenNames s₁
  rw [pathState_settleMode, pathState_of_pwr (settleSupply_pwr _)]
  simp [pathState, s₁]

section
variable (s : State)

@[simp] theorem toMainOn_handover : (toMainOn s).pwr.handover = .mainOn := congrArg PathState.handover (pathState_toMainOn s)
@[simp] theorem toMainOn_mainPath : (toMainOn s).pwr.mainPath = pathFor s.pwr.mainOver .conducting :=
  congrArg PathState.mainPath (pathState_toMainOn s)
@[simp] theorem toMainOn_battPath : (toMainOn s).pwr.battPath = .heldOff := congrArg PathState.battPath (pathState_toMainOn s)
@[simp] theorem toMainOn_battPresent : (toMainOn s).pwr.battPresent = s.pwr.battPresent :=
  congrArg PathState.battPresent (pathState_toMainOn s)
@[simp] theorem toMainOn_battOver : (toMainOn s).pwr.battOver = s.pwr.battOver :=
  congrArg PathState.battOver (pathState_toMainOn s)

end

@[simp] theorem toBank_pwr (s : State) : (toBank s).pwr = { s.pwr with
    handover := .bank, mainPath := pathFor s.pwr.mainOver .idealDiode, battPath := pathFor s.pwr.battOver .idealDiode } :=
  toHandover_pwr ..

/-- Without MAIN nothing starts to qualify. -/
theorem toBattOn_pwr {s : State} (hmain : s.pwr.mainPresent = false) : (toBattOn s).pwr =
    { s.pwr with handover := .battOn, mainPath := .heldOff, battPath := pathFor s.pwr.battOver .conducting } := by
  simp [toBattOn, hmain]

@[simp] theorem mainGone_pwr (o : Bool) (s : State) : (mainGone o s).pwr = { s.pwr with
    mainPresent := false, mainOver := o, mainPath := pathFor o s.pwr.mainPath
    mainLostInKeep := s.pwr.mainLostInKeep || s.pwr.mode == .keep } := rfl

@[simp] theorem mainGone_time (o : Bool) (s : State) : (mainGone o s).time = s.time := rfl

@[simp] theorem battGone_pwr (o : Bool) (s : State) : (battGone o s).pwr = { s.pwr with
    battPresent := false, battOver := o, battPath := pathFor o s.pwr.battPath
    battLostInKeep := s.pwr.battLostInKeep || s.pwr.mode == .keep } := rfl

/-- Beside counting the loss, only the mark that MAIN is unstable may change (R58). -/
theorem countMainLoss_pwr (s : State) : ∃ before unstable, (countMainLoss s).pwr =
    { s.pwr with mainLosses := before ++ [s.time.uptime], mainUnstable := unstable } := by
  unfold countMainLoss
  extract_lets l s₁
  split
  · exact ⟨_, true, raiseFault_pwr ..⟩
  · exact ⟨_, s.pwr.mainUnstable, rfl⟩

/-! ## The supply fault's record -/

/-- An entry put into a table is found there. -/
theorem get_put {α : Type} (t : Table α) (k : Nat) (v : α) : Tab.get (Tab.put t k v) k = some v := by
  fun_induction Tab.put with
  | case1 | case2 | case3 => simp [Tab.get]
  | case4 i w t k v hne hlt ih => simp [Tab.get, hne, hlt, ih]

theorem flt_eq_of_keeps {s t : State} (k : Keeps (allBut .flt) s s → Keeps (allBut .flt) s t) : t.flt = s.flt :=
  (k (Keeps.refl _ s)).sameFlt rfl

theorem traceWrite_flt (kind source : Nat) (p : Bytes) (s : State) : (traceWrite kind source p s).flt = s.flt :=
  flt_eq_of_keeps (traceWrite_keeps rfl)

theorem faultEvent_flt (src : Nat) (r : FaultRecord) (s : State) : (faultEvent src r s).flt = s.flt :=
  flt_eq_of_keeps (faultEvent_keeps rfl)

theorem interrupt_flt (i : Nat) (s : State) : (interrupt i s).flt = s.flt := rfl

/-- A source of class C that is raised is ACTIVE (R538, R539). -/
theorem raiseFault_active {src : Nat} (hclass : sourceClass src = some 2) (detail : Nat) (s : State) :
    (faultRecord (raiseFault src detail s) src).phase = .active := by
  simp [raiseFault, raiseWith, hclass, faultRecord, faultEvent_flt, apply_ite State.flt, interrupt_flt, traceWrite_flt, Tab.getD,
    get_put]

/-! ## The rows of the table, by the state they come in -/

/-- MAIN is back: present, not lost for over-voltage, its path where the hand-over state has it (R56, R57). -/
def mainBack (s : State) : State := setPwr (fun p => { p with
  mainPresent := true, mainOver := false
  mainPath := pathBack p.handover (if p.modEnLow then .idealDiode else .heldOff) .conducting p.mainOver p.mainPath }) s

/-- BATT is back, likewise; its report in MAIN_ON ends (R56, R57). -/
def battBack (s : State) : State := settleSupply (setPwr (fun p => { p with
  battPresent := true, battLostReported := false, battOver := false
  battPath := pathBack p.handover (if p.modEnLow then .idealDiode else .heldOff) .heldOff p.battOver p.battPath }) s)

section
variable {s : State} (o : Bool)

theorem exec_mainLost_mainOn (h : s.pwr.handover = .mainOn) : exec (.mainLost o) s = .next
    (if s.pwr.battPresent then toHandover .toBatt .conducting .conducting (countMainLoss (mainGone o s))
      else toBank (countMainLoss (mainGone o s))) := by
  obtain ⟨_, _, hloss⟩ := countMainLoss_pwr (mainGone o s)
  have hbatt : (countMainLoss (mainGone o s)).pwr.battPresent = s.pwr.battPresent := by rw [hloss, mainGone_pwr]
  rw [← hbatt]
  change execMainLost o s = _
  simp only [execMainLost, mainGone_pwr, h]

theorem exec_mainLost_qualifying (h : s.pwr.handover = .mainQual ∨ s.pwr.handover = .toMain) :
    exec (.mainLost o) s = .next (toBattOn (countMainLoss (mainGone o s))) := by
  change execMainLost o s = _
  rcases h with h | h <;> simp only [execMainLost, mainGone_pwr, h]

theorem exec_mainLost_elsewhere (h : s.pwr.handover = .toBatt ∨ s.pwr.handover = .battOn ∨ s.pwr.handover = .bank ∨
    s.pwr.handover = .powerDown) : exec (.mainLost o) s = .next (mainGone o s) := by
  change execMainLost o s = _
  rcases h with h | h | h | h <;> simp only [execMainLost, mainGone_pwr, h]

theorem exec_mainPresent_battOn (h : s.pwr.handover = .battOn) :
    exec .mainPresent s = .next (toHandover .mainQual .heldOff .conducting (mainBack s)) := by
  change execMainPresent s = _
  simp only [execMainPresent, mainBack, setPwr_pwr, h]

theorem exec_mainPresent_bank (h : s.pwr.handover = .bank) :
    exec .mainPresent s = .next (unlistedEvent 1 0 (toMainOn (mainBack s))) := by
  change execMainPresent s = _
  simp only [execMainPresent, mainBack, setPwr_pwr, h]

theorem exec_mainQualified_mainQual (h : s.pwr.handover = .mainQual) :
    exec .mainQualified s = .next (toHandover .toMain .conducting .conducting s) := by
  change execMainQualified s = _
  simp only [execMainQualified, h]

theorem exec_battLost_mainOn (h : s.pwr.handover = .mainOn) : exec (.battLost o) s = .next
    (raiseFault 0x1A 1 (setPwr (fun p => { p with battLostReported := true }) (battGone o s))) := by
  change execBattLost o s = _
  simp only [execBattLost, battGone_pwr, h]

theorem exec_battLost_onBatt (h : s.pwr.handover = .toBatt ∨ s.pwr.handover = .battOn) :
    exec (.battLost o) s = .next (toBank (battGone o s)) := by
  change execBattLost o s = _
  rcases h with h | h <;> simp only [execBattLost, battGone_pwr, h]

/-- MAIN takes over at once; in MAIN_QUAL the fault is raised first. -/
theorem exec_battLost_qualifying (h : s.pwr.handover = .mainQual ∨ s.pwr.handover = .toMain) :
    ∃ t, t.pwr = (battGone o s).pwr ∧ exec (.battLost o) s = .next (toMainOn t) := by
  rcases h with h | h
  · refine ⟨raiseFault 0x1A 4 (battGone o s), raiseFault_pwr .., ?_⟩
    change execBattLost o s = _
    simp only [execBattLost, battGone_pwr, h]
  · refine ⟨battGone o s, rfl, ?_⟩
    change execBattLost o s = _
    simp only [execBattLost, battGone_pwr, h]

theorem exec_battLost_elsewhere (h : s.pwr.handover = .bank ∨ s.pwr.handover = .powerDown) :
    exec (.battLost o) s = .next (battGone o s) := by
  change execBattLost o s = _
  rcases h with h | h <;> simp only [execBattLost, battGone_pwr, h]

theorem exec_battPresent_mainOn (h : s.pwr.handover = .mainOn) : exec .battPresent s = .next (battBack s) := by
  change execBattPresent s = _
  simp only [execBattPresent, battBack, settleSupply_pwr, setPwr_pwr, h]

theorem exec_battPresent_bank (h : s.pwr.handover = .bank) : exec .battPresent s = .next
    (if s.pwr.mainPresent then toMainOn (battBack s) else toBattOn (onBatt (battBack s))) := by
  change execBattPresent s = _
  simp only [execBattPresent, battBack, settleSupply_pwr, setPwr_pwr, h]

theorem exec_switchComplete_toBatt (h : s.pwr.handover = .toBatt) : exec .switchComplete s = .next (toBattOn (onBatt s)) := by
  change execSwitchComplete s = _
  simp only [execSwitchComplete, h]

theorem exec_switchComplete_toMain (h : s.pwr.handover = .toMain) : exec .switchComplete s = .next (toMainOn s) := by
  change execSwitchComplete s = _
  simp only [execSwitchComplete, h]

theorem exec_mainUnstableClear_unstable (h : s.pwr.mainUnstable = true) : exec .mainUnstableClear s = .next
    (settleSupply (setPwr (fun p => { p with mainUnstable := false, mainLosses := [] }) s)) := by
  change execMainUnstableClear s = _
  simp only [execMainUnstableClear, h, if_true]

end

/-- An over-voltage holds the MAIN path off whatever the hand-over state then is (R56). -/
theorem exec_mainLost_over (s : State) : ∃ t, exec (.mainLost true) s = .next t ∧ t.pwr.mainPath = .heldOff ∧
    t.pwr.mainOver = true ∧ t.pwr.mainPresent = false := by
  obtain ⟨_, _, hloss⟩ := countMainLoss_pwr (mainGone true s)
  cases h : s.pwr.handover with
  | mainOn =>
    refine ⟨_, exec_mainLost_mainOn true h, ?_⟩
    split <;> simp [hloss]
  | mainQual | toMain => exact ⟨_, exec_mainLost_qualifying true (by simp [h]), by simp [toBattOn_pwr, hloss]⟩
  | toBatt | battOn | bank | powerDown => exact ⟨_, exec_mainLost_elsewhere true (by simp [h]), by simp⟩

/-- And the BATT path likewise. -/
theorem exec_battLost_over (s : State) : ∃ t, exec (.battLost true) s = .next t ∧ t.pwr.battPath = .heldOff ∧
    t.pwr.battOver = true ∧ t.pwr.battPresent = false := by
  cases h : s.pwr.handover with
  | mainOn => exact ⟨_, exec_battLost_mainOn true h, by simp⟩
  | toBatt | battOn => exact ⟨_, exec_battLost_onBatt true (by simp [h]), by simp⟩
  | mainQual | toMain =>
    obtain ⟨t, ht, hexec⟩ := exec_battLost_qualifying true (s := s) (by simp [h])
    exact ⟨_, hexec, by simp [ht]⟩
  | bank | powerDown => exact ⟨_, exec_battLost_elsewhere true (by simp [h]), by simp⟩

/-- Settles O28, row by row of the hand-over table. -/
theorem handoverFollowsItsTable : Obligations.HandoverFollowsItsTable := by
  unfold Obligations.HandoverFollowsItsTable
  intro s
  refine ⟨fun o h hbatt => ?_, fun o h hbatt => ?_, fun o h => ?_, exec_mainLost_over s, fun h => ?_, fun h => ?_, fun h => ?_,
    fun o h => ?_, fun o h => ?_, fun o h => ?_, exec_battLost_over s, fun h => ?_, fun h hmain => ?_, fun h hmain => ?_,
    fun h hmain => ?_, fun h => ?_, fun h => ?_⟩
  -- MAIN_LOST in MAIN_ON with BATT and without it, and while MAIN qualifies
  · obtain ⟨_, _, hloss⟩ := countMainLoss_pwr (mainGone o s)
    exact ⟨_, exec_mainLost_mainOn o h, by simp [hbatt, hloss]⟩
  · obtain ⟨_, _, hloss⟩ := countMainLoss_pwr (mainGone o s)
    exact ⟨_, exec_mainLost_mainOn o h, by simp [hbatt, hloss]⟩
  · obtain ⟨_, _, hloss⟩ := countMainLoss_pwr (mainGone o s)
    exact ⟨_, exec_mainLost_qualifying o h, by simp [toBattOn_pwr, hloss]⟩
  -- MAIN_PRESENT and MAIN_QUALIFIED
  · exact ⟨_, exec_mainPresent_battOn h, by simp [mainBack]⟩
  · exact ⟨_, exec_mainPresent_bank h, by simp [mainBack]⟩
  · exact ⟨_, exec_mainQualified_mainQual h, by simp⟩
  -- BATT_LOST in MAIN_ON, on BATT, and while MAIN qualifies
  · exact ⟨_, exec_battLost_mainOn o h, by simp [h, raiseFault_active (src := 0x1A) rfl]⟩
  · exact ⟨_, exec_battLost_onBatt o h, by simp⟩
  · obtain ⟨t, ht, hexec⟩ := exec_battLost_qualifying o h
    exact ⟨_, hexec, by simp [ht]⟩
  -- BATT_PRESENT in MAIN_ON, and in BANK without MAIN and with it
  · exact ⟨_, exec_battPresent_mainOn h, by simp [battBack, h]⟩
  · exact ⟨_, exec_battPresent_bank h, by simp [hmain, toBattOn_pwr, onBatt, battBack]⟩
  · exact ⟨_, exec_battPresent_bank h, by simp [hmain, battBack]⟩
  -- SWITCH_COMPLETE and MAIN_UNSTABLE_CLEAR
  · exact ⟨_, exec_switchComplete_toBatt h, by simp [toBattOn_pwr, hmain, onBatt]⟩
  · exact ⟨_, exec_switchComplete_toMain h, by simp⟩
  · exact ⟨_, exec_mainUnstableClear_unstable h, by simp⟩

end Sys2Proof.Machine
end

section
/-!
PROOFS. O29: no power-down moves the path of a source that was lost for over-voltage (R56), which the statement's clause about a
detection leaves out.
-/

namespace Sys2Proof.Machine

/-! ## The power-down sequence -/

section
variable (s : State)

@[simp] theorem setBuildBank_pwr (f : Bank → Bank) : (setBuildBank f s).pwr = s.pwr := pwr_eq_of_keeps (setBuildBank_keeps rfl)
@[simp] theorem portTo_pwr (p : Nat) (new : PortPhase) (cause : Nat) : (portTo p new cause s).pwr = s.pwr :=
  pwr_eq_of_keeps (portTo_keeps rfl)
@[simp] theorem panelsAbrupt_pwr : (panelsAbrupt s).pwr = s.pwr := pwr_eq_of_keeps (panelsAbrupt_keeps rfl)
@[simp] theorem fieldDown_pwr : (fieldDown s).pwr = s.pwr := pwr_eq_of_keeps (fieldDown_keeps rfl)
@[simp] theorem ringsDown_pwr : (ringsDown s).pwr = s.pwr := pwr_eq_of_keeps (ringsDown_keeps rfl)
@[simp] theorem metFieldDown_pwr : (metFieldDown s).pwr = s.pwr := pwr_eq_of_keeps (metFieldDown_keeps rfl)
@[simp] theorem stemField_pwr (on : Bool) : (stemField on s).pwr = s.pwr := pwr_eq_of_keeps (stemField_keeps rfl)
@[simp] theorem loseHost_pwr : (loseHost s).pwr = s.pwr := rfl
@[simp] theorem loseLedger_pwr : (loseLedger s).pwr = s.pwr := rfl
@[simp] theorem loseTeasel_pwr : (loseTeasel s).pwr = s.pwr := rfl
@[simp] theorem loseField_pwr : (loseField s).pwr = s.pwr := rfl
@[simp] theorem coldLinks_pwr : (coldLinks s).pwr = s.pwr := pwr_eq_of_keeps (coldLinks_keeps rfl)
@[simp] theorem coldEngines_pwr : (coldEngines s).pwr = s.pwr := pwr_eq_of_keeps (coldEngines_keeps rfl)
@[simp] theorem coldBalance_pwr : (coldBalance s).pwr = s.pwr := pwr_eq_of_keeps (coldBalance_keeps rfl)
@[simp] theorem coldRadio_pwr : (coldRadio s).pwr = s.pwr := pwr_eq_of_keeps (coldRadio_keeps rfl)
@[simp] theorem coldStem_pwr : (coldStem s).pwr = s.pwr := pwr_eq_of_keeps (coldStem_keeps rfl)
@[simp] theorem coldYarrow_pwr : (coldYarrow s).pwr = s.pwr := pwr_eq_of_keeps (coldYarrow_keeps rfl)

end

/-- Step 0 sets the hand-over state POWER_DOWN; the path of a source lost for over-voltage is held off all the same (R56, R57). -/
theorem pathState_stopForPowerDown (cause : Nat) (s : State) : pathState (stopForPowerDown cause s) = { pathState s with
    handover := .powerDown
    mainPath := pathFor s.pwr.mainOver (if cause = 2 then .heldOff else .idealDiode)
    battPath := pathFor s.pwr.battOver (if cause = 2 then .heldOff else .idealDiode) } := by
  unfold stopForPowerDown
  extract_lets +onlyGivenNames path s₁ writing _ s₂ slots s₃
  have h₃ : s₃.pwr = s₁.pwr := by
    unfold s₃
    split <;> simp [s₂]
  rw [pathState_enterMode]
  simp [pathState, h₃, s₁, path]

theorem pathState_fieldOff (s : State) : pathState (fieldOff s) = pathState s := by
  unfold fieldOff
  split
  · rfl
  · extract_lets s₁ s₂
    have h₁ : pathState s₁ = pathState s := pathState_of_pwr (panelsAbrupt_pwr s)
    clear_value s₁
    have h₂ : pathState s₂ = pathState s₁ := rfl
    exact (pathState_of_pwr (by simp)).trans (h₂.trans h₁)

theorem pathState_shedLoad (s : State) : pathState (shedLoad s) = pathState s :=
  (pathState_foldl (fun s p => pathState_of_pwr (portTo_pwr s p .poweredOff 4)) ..).trans (pathState_computeDown s)

theorem pathState_disposeTicks (s : State) : pathState (disposeTicks s) = pathState s :=
  (pathState_of_pwr (abortFrom_pwr ..)).trans (pathState_commitClosed ..)

theorem pathState_keepGone (s : State) : pathState (keepGone s) = pathState s := rfl

theorem pathState_vigilDown (s : State) : pathState (vigilDown s) = pathState s := by
  unfold vigilDown
  extract_lets s₁ s₂ s₃ s₄
  have h : pathState s₄ = pathState s₁ := pathState_of_pwr (by simp [s₄, s₃, s₂])
  clear_value s₄
  exact h.trans (pathState_fieldOff s)

theorem pathState_enterKeep (cause : Nat) (s : State) : pathState (enterKeep cause s) = pathState s := by
  unfold enterKeep
  extract_lets s₁ failed s₂
  have h₁ : pathState s₁ = pathState s := pathState_ite rfl rfl
  have h₂ : pathState s₂ = pathState s := (pathState_vigilDown s₁).trans h₁
  exact pathState_ite ((pathState_keepGone s₂).trans h₂) h₂

/-- No step after the first moves a path or leaves POWER_DOWN (R55, R57). -/
theorem pathState_powerDown (cause vbusDv offset : Nat) (s : State) :
    pathState (powerDown cause vbusDv offset s) = pathState (stopForPowerDown cause s) := by
  unfold powerDown
  extract_lets +onlyGivenNames v f abbreviated field compute vigil runs id state aborted s₀ s₁ s₂ s₃ s₄ torn s₅ count committed
    whole s₆ s₇ depth part _ s₈ s₉ crc done r s₁₀
  have h₁ : pathState s₁ = pathState s₀ := pathState_ite (pathState_fieldOff s₀) rfl
  have h₂ : pathState s₂ = pathState s₁ := pathState_ite (pathState_releaseBaton 0 s₁) rfl
  have h₃ : pathState s₃ = pathState s₂ := pathState_ite (pathState_shedLoad s₂) rfl
  have h₄ : pathState s₄ = pathState s₃ := pathState_ite (pathState_fieldOff s₃) rfl
  clear_value s₄
  have h₅ : pathState s₅ = pathState s₄ :=
    pathState_ite (pathState_disposeTicks s₄) (pathState_ite (pathState_ite (pathState_commitClosed ..) rfl) rfl)
  have h₆ : pathState s₆ = pathState s₅ := pathState_ite rfl rfl
  have h₇ : pathState s₇ = pathState s₆ := pathState_ite (pathState_fieldOff s₆) rfl
  have h₈ : pathState s₈ = pathState s₇ := pathState_ite rfl (pathState_ite rfl (pathState_ite rfl rfl))
  have h₉ : pathState s₉ = pathState s₈ := pathState_ite rfl (pathState_ite rfl rfl)
  have h₁₀ : pathState s₁₀ = pathState s₉ := pathState_ite rfl rfl
  rw [pathState_enterKeep, h₁₀, h₉, h₈, h₇, h₆, h₅, h₄, h₃, h₂, h₁]

theorem pathState_mainPath (s : State) : (pathState s).mainPath = s.pwr.mainPath := rfl

/-- After a power-down the MAIN path stands as its cause asks, but held off where MAIN was lost for over-voltage (R56, R57). -/
theorem powerDown_mainPath (cause vbusDv offset : Nat) (s : State) : (powerDown cause vbusDv offset s).pwr.mainPath =
    pathFor s.pwr.mainOver (if cause = 2 then .heldOff else .idealDiode) := by
  rw [← pathState_mainPath, pathState_powerDown, pathState_stopForPowerDown]

/-- A detection leaves the MAIN path held off where MAIN was lost for over-voltage (R56, R68). -/
theorem exec_powerFailDetection_over {s t : State} {v o : Nat} (hmode : s.pwr.mode ≠ .keep) (hover : s.pwr.mainOver = true)
    (ht : exec (.powerFailDetection v o) s = .next t) : t.pwr.mainPath = .heldOff := by
  change execPowerFailDetection v o s = _ at ht
  rw [execPowerFailDetection, if_neg hmode, Host.Outcome.next.injEq] at ht
  rw [← ht, powerDown_mainPath, setPwr_pwr, hover, pathFor_true]

/-! ## The counterexample -/

/-- A module that runs on BATT after MAIN rose above its limit: MAIN is lost for over-voltage and its path is held off (R56). -/
def overVoltageModule : State := { State.reset with
  pwr := { mode := .full, vigilOn := true, fieldOn := true, computeOn := true, handover := .battOn
           mainPresent := false, mainOver := true, mainPath := .heldOff, battPresent := true, battPath := .conducting } }

/-- Refutes O29: its first clause says of every state that a detection puts the MAIN path in ideal-diode mode; where MAIN was lost for
over-voltage, as in `overVoltageModule`, the path stays held off (R56). -/
theorem not_powerDownEndsInKeep : ¬ Obligations.PowerDownEndsInKeep := by
  unfold Obligations.PowerDownEndsInKeep
  intro h
  have hmode : overVoltageModule.pwr.mode ≠ .keep := by decide
  obtain ⟨hdetection, -⟩ := h overVoltageModule
  obtain ⟨t, ht, -, -, hmain, -⟩ := hdetection 0 0 hmode rfl
  rw [exec_powerFailDetection_over hmode rfl ht] at hmain
  exact PathSwitch.noConfusion hmain

end Sys2Proof.Machine
end

section
/-!
PROOFS. O3: the invariant of every step follows from what each operation keeps.
-/

namespace Sys2Proof.Machine

/-- What every operation keeps of the host part, Folset's part and the ledger is the invariant (R118, R132, R145 of 05, R100 of 04). -/
theorem Keeps.invariant {m : Nat} {s t : State} (k : Keeps m s t) (h : Invariant s) : Invariant t := by
  obtain ⟨hmail, hsessions, hevents, hticks⟩ := h
  exact ⟨k.host.mail hmail, k.fol.sessions hsessions, k.fol.events hevents, k.led.ticks hticks⟩

/-- Each of the 369 commands, in any state, keeps the invariant. -/
theorem exec_invariant {i : Instr} {s t : State} (h : Invariant s) (hexec : exec i s = .next t) : Invariant t := by
  obtain ⟨u, hu, hkeeps⟩ := exec_keeps (m := 2097151) (p1 := i) rfl (Keeps.refl _ s)
  rw [hu, Host.Outcome.next.injEq] at hexec
  exact hexec ▸ hkeeps.invariant h

/-- The invariant says nothing of the queue of commands. -/
theorem invariant_pending (s : State) (q : List Instr) : Invariant { s with pending := q } ↔ Invariant s := Iff.rfl

/-- Settles O3: a step is no command or the front one, and every command keeps the invariant. -/
theorem everyStepKeepsTheInvariant : Obligations.EveryStepKeepsTheInvariant := by
  unfold Obligations.EveryStepKeepsTheInvariant
  intro s t h hstep
  unfold step at hstep
  split at hstep
  next => cases hstep; exact h
  next c rest _ => exact exec_invariant ((invariant_pending s rest).mpr h) hstep

end Sys2Proof.Machine
end

section
/-!
SUPPORT. What a judgement of the time sources leaves in the timebase (R83, R85 to R87, R93 of 04).
-/

namespace Sys2Proof.Machine

theorem time_eq_of_keeps {s t : State} (k : Keeps (allBut .time) s s → Keeps (allBut .time) s t) : t.time = s.time :=
  (k (Keeps.refl _ s)).sameTime rfl

section
variable (s : State)

@[simp] theorem interrupt_time (i : Nat) : (interrupt i s).time = s.time := rfl
@[simp] theorem journal_time (kind : Nat) (data : Bytes) : (journal kind data s).time = s.time :=
  time_eq_of_keeps (journal_keeps rfl)
@[simp] theorem traceTime_time (after before : Trust) (step : Int) : (traceTime after before step s).time = s.time :=
  time_eq_of_keeps (traceTime_keeps rfl)
@[simp] theorem raiseFault_time (src d : Nat) : (raiseFault src d s).time = s.time := time_eq_of_keeps (raiseFault_keeps rfl)
@[simp] theorem endFault_time (src : Nat) : (endFault src s).time = s.time := time_eq_of_keeps (endFault_keeps rfl)

end

@[simp] theorem setTrust_time (tr : Trust) (s : State) : (setTrust tr s).time = { s.time with trust := tr } := by
  unfold setTrust
  split
  next h => rw [← h]
  next => simp

/-- The timebase but for what a judgement of trust settles: the trust, and the error and time that a loss of lock notes (R86, R87). -/
def besideTrust (x : TimeState) : TimeState := { x with
  trust := .untrusted, lastErrNs := 0, lostAt := none, holdoverCarryMs := 0, modelBaseNs := none, rejectedStep := none }

theorem besideTrust_evaluateTrust (s : State) : besideTrust (evaluateTrust s).time = besideTrust s.time := by
  unfold evaluateTrust
  split
  · rw [setTrust_time]; rfl
  · split
    · rw [setTrust_time]; rfl
    · split
      · rw [setTrust_time]; rfl
      · rfl

section
variable (s : State)

theorem evaluateTrust_pendingStep : (evaluateTrust s).time.pendingStep = s.time.pendingStep :=
  (congrArg TimeState.pendingStep (besideTrust_evaluateTrust s) :)
theorem evaluateTrust_stepDue : (evaluateTrust s).time.stepDue = s.time.stepDue :=
  (congrArg TimeState.stepDue (besideTrust_evaluateTrust s) :)

end

/-- The timebase but for what follows from a change of a source: also the step that is due or pending and the disagreements (R83,
R85, R93). -/
def besideSources (x : TimeState) : TimeState := { besideTrust x with
  stepDue := none, pendingStep := none, pendingReported := 0, disagree := false, utcDisagree := false }

theorem besideSources_of_trust {s t : State} (h : besideTrust t.time = besideTrust s.time) :
    besideSources t.time = besideSources s.time := by
  simp only [besideSources, h]

theorem besideSources_correctTime (s : State) : besideSources (correctTime s).time = besideSources s.time := by
  unfold correctTime
  split
  · rfl
  · extract_lets e d
    split
    · rfl
    · split
      · rfl
      · split
        · rfl
        · exact (besideSources_of_trust (besideTrust_evaluateTrust _)).trans rfl

theorem timeFault_time (disagree utc : Bool) (s : State) :
    (timeFault disagree utc s).time = { s.time with disagree := disagree, utcDisagree := utc } := by
  unfold timeFault
  extract_lets was fresh detail t
  simp only [apply_ite State.time, raiseFault_time, endFault_time, ite_self]
  rfl

theorem besideSources_afterSource (s : State) : besideSources (afterSource s).time = besideSources s.time := by
  unfold afterSource
  extract_lets t
  rw [besideSources_correctTime, besideSources_of_trust (besideTrust_evaluateTrust t)]
  simp only [t, timeFault_time]
  rfl

section
variable (s : State)

theorem afterSource_announces : (afterSource s).time.announces = s.time.announces :=
  (congrArg TimeState.announces (besideSources_afterSource s) :)
theorem afterSource_ptpPorts : (afterSource s).time.ptpPorts = s.time.ptpPorts :=
  (congrArg TimeState.ptpPorts (besideSources_afterSource s) :)
theorem afterSource_gmClass : (afterSource s).time.gmClass = s.time.gmClass :=
  (congrArg TimeState.gmClass (besideSources_afterSource s) :)

end

end Sys2Proof.Machine
end

section
/-!
SUPPORT. Requests served over a mailbox: what a body is run on, and what its answer leaves in the mailbox and in the other parts (R117 to
R124 of 05).
-/

namespace Sys2Proof.Machine

/-! ## Fields of a payload (R5 of 00) -/

@[simp] theorem length_le (n v : Nat) : (le n v).length = n := by
  induction n generalizing v with
  | zero => rfl
  | succ n ih => simp [le, ih]

@[simp] theorem length_leS (n : Nat) (v : Int) : (leS n v).length = n := length_le ..

@[simp] theorem length_zeros (n : Nat) : (zeros n).length = n := List.length_replicate

theorem ofLe_le (n v : Nat) : ofLe (le n v) = v % 256 ^ n := by
  induction n generalizing v with
  | zero => simp [le, ofLe, Nat.mod_one]
  | succ n ih =>
    have hsplit : v % 256 ^ (n + 1) = v % 256 + 256 * (v / 256 % 256 ^ n) := by
      rw [Nat.pow_succ', Nat.mod_mul]
    simp [le, ofLe, ih, hsplit]

/-- A field past the first part of a payload is read in the rest. -/
theorem rd_append_right {a : Bytes} {off : Nat} (h : a.length ≤ off) (b : Bytes) (n : Nat) :
    rd (a ++ b) off n = rd b (off - a.length) n := by
  simp only [rd, List.drop_append, List.drop_eq_nil_of_le h, List.nil_append]

/-- A field that stands first is read back. -/
theorem rd_le_append (n v : Nat) (b : Bytes) : rd (le n v ++ b) 0 n = v % 256 ^ n := by
  rw [rd, List.drop_zero, List.take_left' (length_le n v), ofLe_le]

theorem rd_le (n v : Nat) : rd (le n v) 0 n = v % 256 ^ n := by
  simpa using rd_le_append n v []

theorem slice_self {a : Bytes} {n : Nat} (h : a.length = n) : slice a 0 n = a := by
  simp [slice, List.take_of_length_le (Nat.le_of_eq h), h]

theorem slice_append_left {a : Bytes} {n : Nat} (h : a.length = n) (b : Bytes) : slice (a ++ b) 0 n = a := by
  simp [slice, List.take_left' h, h]

theorem slice_append_right {a : Bytes} {off : Nat} (h : a.length = off) (b : Bytes) (n : Nat) :
    slice (a ++ b) off n = slice b 0 n := by
  simp [slice, List.drop_left' h]

/-! ## Payload checks (R124 step 12) -/

theorem checked_of_all {cs : List Check} (h : cs.all (·.2.2) = true) (s : State) (k : Answer) : checked cs s k = k := by
  have hnone : cs.filter (fun c => !c.2.2) = [] := by
    simpa [List.filter_eq_nil_iff] using h
  simp [checked, firstFail, hnone]

/-! ## Mailboxes -/

theorem sendMessage_mailboxes (v : Nat) (h : HostState) : (sendMessage v h).mailboxes = h.mailboxes := by
  unfold sendMessage
  split
  · rfl
  · simp only [apply_ite HostState.mailboxes, ite_self]

theorem setCause_mailboxes (i : Nat) (h : HostState) : (setCause i h).mailboxes = h.mailboxes := by
  unfold setCause
  extract_lets h'
  have hsent : (sendMessage (h.intMap.getD i i) h').mailboxes = h.mailboxes := sendMessage_mailboxes ..
  split
  · rfl
  · split
    · exact hsent
    · rfl

@[simp] theorem interrupt_mailboxes (i : Nat) (s : State) : (interrupt i s).host.mailboxes = s.host.mailboxes :=
  setCause_mailboxes ..

theorem host_eq_of_keeps {s t : State} (k : Keeps (allBut .host) s s → Keeps (allBut .host) s t) : t.host = s.host :=
  (k (Keeps.refl _ s)).sameHost rfl

/-- The host part once a request is written to mailbox `k` and rung. -/
def rungHost (opcode : Nat) (rq : Request) (k : Nat) (s : State) : HostState :=
  (takeMailbox k (writeRequest k 0 (rq.bytes opcode) s)).host

theorem takeMailbox_writeRequest (opcode : Nat) (rq : Request) (k : Nat) (s : State) :
    takeMailbox k (writeRequest k 0 (rq.bytes opcode) s) = { s with host := rungHost opcode rq k s } := by
  unfold rungHost writeRequest
  split <;> rfl

@[simp] theorem rungHost_mailboxes_length (opcode : Nat) (rq : Request) (k : Nat) (s : State) :
    (rungHost opcode rq k s).mailboxes.length = s.host.mailboxes.length := by
  simp only [rungHost, takeMailbox, writeRequest]
  split
  · simp [hostError]
  · simp [modAt]

/-- Nothing that validation looks at is in the host part, unless the command's own condition of an update is. -/
theorem validate_host {c : Cmd} {s : State} {h : HostState} (hupd : ∀ p, c.updating { s with host := h } p = c.updating s p)
    (w : Waiting) : validate c w { s with host := h } = validate c w s := by
  simp only [validate, hupd]
  rfl

/-! ## The body of a served request and its answer -/

theorem touchSession_nextRef (h : Nat) (s : State) : (touchSession h s).fol.nextRef = s.fol.nextRef := rfl

/-- What a served request's body is run on: its mailbox is taken, its session used, its command registered. -/
def atBody (c : Cmd) (rq : Request) (k : Nat) (s : State) : State :=
  registerCommand c.opcode rq (touchSession rq.session { s with host := rungHost c.opcode rq k s })

/-- What a served request's body is given besides. -/
def bodyCtx (c : Cmd) (rq : Request) (k : Nat) (s : State) : Ctx where
  rq := rq
  sess := findSession (touchSession rq.session { s with host := rungHost c.opcode rq k s }) rq.session
  ref := s.fol.nextRef
  dry := rq.isDry

section
variable (c : Cmd) (rq : Request) (k : Nat) (s : State)

@[simp] theorem bodyCtx_p : (bodyCtx c rq k s).p = rq.args := rfl
@[simp] theorem atBody_time : (atBody c rq k s).time = s.time := rfl
@[simp] theorem atBody_led : (atBody c rq k s).led = s.led := rfl
@[simp] theorem atBody_gens : (atBody c rq k s).gens = s.gens := rfl
@[simp] theorem atBody_now : now (atBody c rq k s) = now s := rfl
@[simp] theorem atBody_frontier : frontier (atBody c rq k s) = frontier s := rfl
@[simp] theorem atBody_mailboxes_length : (atBody c rq k s).host.mailboxes.length = s.host.mailboxes.length :=
  rungHost_mailboxes_length ..

end

/-- The response stands in the mailbox, which is DONE (R118, R121). -/
theorem respond_reports {opcode k st d : Nat} {rq : Request} {p : Bytes} {t : State} (hvia : rq.via = .mailbox k) (hk : k < 32)
    (hlen : k < t.host.mailboxes.length) : Reports opcode rq k st d p (respond opcode { opcode := opcode, request := rq } st d p t) := by
  have hmail := setCause_mail (k / 4) { t.host with
    mailboxes := modAt t.host.mailboxes k (fun m => { m with response := responseBytes opcode rq.tag st d p t })
    owner := t.host.owner &&& ~~~(BitVec.ofNat 32 (2 ^ k))
    done := t.host.done ||| BitVec.ofNat 32 (2 ^ k) }
  have hbit : (BitVec.ofNat 32 (2 ^ k)).getLsbD k = true := by
    rw [BitVec.getLsbD_ofNat, Nat.testBit_two_pow_self, decide_eq_true hk, Bool.and_true]
  have hout : ¬ (32 ≤ k) := by omega
  simp only [respond, hvia, Bool.false_or, hout, decide_false, Bool.false_eq_true, if_false]
  refine ⟨?_, ?_, ?_⟩
  · simp only [interrupt_mailboxes, modAt]
    rw [List.getD_eq_getElem?_getD, List.getElem?_modify_eq, List.getElem?_eq_getElem hlen]
    rfl
  · simp only [interrupt]
    rw [hmail.done, BitVec.getLsbD_or, hbit, Bool.or_true]
  · simp only [interrupt]
    rw [hmail.owner, BitVec.getLsbD_and, BitVec.getLsbD_not, hbit, Bool.not_true, Bool.and_false, Bool.and_false]

/-- A trace record changes no response. -/
theorem Reports.of_keeps {opcode k st d : Nat} {rq : Request} {p : Bytes} {t u : State} (h : Reports opcode rq k st d p t)
    (hkeeps : Keeps (partsMask [.draws, .svc]) t u) : Reports opcode rq k st d p u := by
  unfold Reports responseBytes epochNow frontier at *
  rw [hkeeps.sameHost rfl, hkeeps.sameDuty rfl, hkeeps.sameLed rfl]
  exact h

theorem answer_reports {opcode k st d : Nat} {rq : Request} {p : Bytes} {t : State} (hvia : rq.via = .mailbox k) (hk : k < 32)
    (hlen : k < t.host.mailboxes.length) : Reports opcode rq k st d p (answer opcode { opcode := opcode, request := rq } st d p t) :=
  (respond_reports hvia hk hlen).of_keeps (traceCommand_keeps rfl (Keeps.refl _ _))

section
variable {c : Cmd} {rq : Request} {k : Nat} {s t : State}

/-- A served request is run. -/
theorem submit_served (h : Served c rq k s) (hupd : ∀ h p, c.updating { s with host := h } p = c.updating s p) :
    submit c rq s = runCommand c { opcode := c.opcode, request := rq } { s with host := rungHost c.opcode rq k s } := by
  obtain ⟨hvia, hk, -, hup, hfree, htaking, -, -, hvalid⟩ := h
  have hvigil : s.pwr.vigilOn = true := by
    simp only [pcieUp, Bool.and_eq_true] at hup
    exact hup.1.1
  have hserves : serves c.opcode { s with host := rungHost c.opcode rq k s } = true := by
    change (taking s || _) = true
    rw [htaking, Bool.true_or]
  simp only [submit, hvigil, hvia, hup, hfree, Nat.not_le.mpr hk, Bool.not_true, Bool.false_eq_true, if_false, decide_false,
    Bool.or_false, arrive, takeMailbox_writeRequest, hserves, if_true, serve, validate_host (hupd _), hvalid]

/-- Where the body answers OK, the mailbox holds the answer, and beside the envelope the body's state stands. -/
theorem submit_ok {p : Bytes} (h : Served c rq k s) (hupd : ∀ h p, c.updating { s with host := h } p = c.updating s p)
    (hbody : c.body (bodyCtx c rq k s) (atBody c rq k s) = okWith p t)
    (hboxes : t.host.mailboxes.length = s.host.mailboxes.length) :
    Reports c.opcode rq k stOk 0 p (submit c rq s) ∧ Keeps (partsMask enveloped) t (submit c rq s) := by
  have hrun := submit_served h hupd
  obtain ⟨hvia, hk, hlen, -, -, -, hasync, hdry, -⟩ := h
  have hanswer : submit c rq s = answer c.opcode { opcode := c.opcode, request := rq } stOk 0 p (dropCommand s.fol.nextRef t) := by
    simp only [bodyCtx, atBody, hdry] at hbody
    simp [hrun, runCommand, touchSession_nextRef, hbody, okWith, hasync, hdry, payloadFor, stOk]
  rw [hanswer]
  exact ⟨answer_reports hvia hk (hboxes ▸ hlen), answer_keeps rfl (dropCommand_keeps rfl (Keeps.refl _ t))⟩

/-- Where the body accepts, the mailbox says so, and beside the envelope the body's state stands. -/
theorem submit_accepted {dry : Bytes} (h : Served c rq k s) (hupd : ∀ h p, c.updating { s with host := h } p = c.updating s p)
    (hbody : c.body (bodyCtx c rq k s) (atBody c rq k s) = .accepted dry t)
    (hboxes : t.host.mailboxes.length = s.host.mailboxes.length) :
    Accepts c rq k (submit c rq s) ∧ Keeps (partsMask enveloped) t (submit c rq s) := by
  have hrun := submit_served h hupd
  obtain ⟨hvia, hk, hlen, -, -, -, -, hdry, -⟩ := h
  have hanswer : submit c rq s = answer c.opcode { opcode := c.opcode, request := rq } stAccepted 0 [] t := by
    simp only [bodyCtx, atBody, hdry] at hbody
    simp [hrun, runCommand, touchSession_nextRef, hbody, hdry]
  rw [hanswer]
  exact ⟨answer_reports hvia hk (hboxes ▸ hlen), answer_keeps rfl (Keeps.refl _ t)⟩

end

end Sys2Proof.Machine
end

section
/-!
PROOFS. O11: the TIME_ commands (R106 to R110 of 04).
-/

namespace Sys2Proof.Machine

/-! ## What the judgement of trust and the arming of a generation leave alone -/

@[simp] theorem setTrust_mailboxes (tr : Trust) (s : State) : (setTrust tr s).host.mailboxes = s.host.mailboxes := by
  have htrace (after before : Trust) (d : Int) (t : State) : (traceTime after before d t).host = t.host :=
    host_eq_of_keeps (traceTime_keeps rfl)
  have hjournal (kind : Nat) (data : Bytes) (t : State) : (journal kind data t).host = t.host := host_eq_of_keeps (journal_keeps rfl)
  unfold setTrust
  split
  · rfl
  · simp [htrace, hjournal]

@[simp] theorem evaluateTrust_mailboxes (s : State) : (evaluateTrust s).host.mailboxes = s.host.mailboxes := by
  unfold evaluateTrust
  extract_lets
  simp only [apply_ite State.host, apply_ite HostState.mailboxes, setTrust_mailboxes, setTime_host, ite_self]

theorem armGen_host (g : PendingGen) (s : State) : (armGen g s).host = s.host := host_eq_of_keeps (armGen_keeps rfl)

theorem complete_gens (ref st detail : Nat) (p : Bytes) (s : State) : (complete ref st detail p s).gens = s.gens :=
  (complete_keeps (m := allBut .gens) rfl (Keeps.refl _ s)).sameGens rfl

theorem foldl_gens {α : Type} {f : State → α → State} (hf : ∀ s a, (f s a).gens = s.gens) (l : List α) (s : State) :
    (l.foldl f s).gens = s.gens := by
  induction l generalizing s with
  | nil => rfl
  | cons a l ih => rw [List.foldl_cons, ih, hf]

/-- What an armed generation replaces is finished, which changes no generation (R15 of 01). -/
theorem armGen_waiting (g : PendingGen) (s : State) :
    (armGen g s).gens.waiting = s.gens.waiting.filter (fun x => x.table.key != g.table.key) ++ [g] := by
  unfold armGen
  rw [foldl_gens]
  intro t x
  split
  · exact complete_gens ..
  · rfl

/-- An armed generation waits for its tick (R14 of 01). -/
theorem armed_of_waiting {g : PendingGen} {s t : State} (h : t.gens = (armGen g s).gens) : Armed g.table g.tick t := by
  refine ⟨g, ?_, rfl, rfl⟩
  rw [h, armGen_waiting]
  exact List.mem_append_right _ (List.mem_singleton_self g)

/-! ## TIME_STATUS and TIME_TICKS -/

/-- While the tick is TRACEABLE no holdover time is drawn (R106). -/
theorem timeStatus_body {s : State} (h : s.time.tickTrust = .traceable) (x : Ctx) :
    cmdTimeStatus.body x s = okWith (timeStatusBytes s).1 s := by
  have hstate : (timeStatusBytes s).2 = s := by simp [timeStatusBytes, h]
  simp only [cmdTimeStatus, hstate]

/-- The payload of TIME_STATUS while the tick is TRACEABLE (R106). -/
theorem timeStatusBytes_reads {s : State} (h : s.time.tickTrust = .traceable) :
    (timeStatusBytes s).1.length = 44 ∧ rd (timeStatusBytes s).1 0 1 = s.time.tickTrust.code % 256 ∧
      rd (timeStatusBytes s).1 8 4 = 0 ∧ rd (timeStatusBytes s).1 12 4 = 0 ∧ rd (timeStatusBytes s).1 16 8 = now s % 2 ^ 64 ∧
      rd (timeStatusBytes s).1 32 1 = s.time.gmClass % 256 ∧ rd (timeStatusBytes s).1 33 1 = s.time.gmPort % 256 := by
  simp [timeStatusBytes, h, rd_append_right, rd_le_append]

theorem timeTicksBytes_reads (s : State) :
    (timeTicksBytes s).length = 48 ∧ rd (timeTicksBytes s) 0 8 = frontier s % 2 ^ 64 ∧ rd (timeTicksBytes s) 8 8 = now s % 2 ^ 64 ∧
      rd (timeTicksBytes s) 16 1 = s.led.ticks.length % 256 ∧ rd (timeTicksBytes s) 20 4 = s.time.holdRemaining % 2 ^ 32 ∧
      rd (timeTicksBytes s) 24 4 = s.led.overruns % 2 ^ 32 ∧ rd (timeTicksBytes s) 28 4 = s.led.aborted % 2 ^ 32 ∧
      rd (timeTicksBytes s) 36 4 = s.led.fieldOnlyCount % 2 ^ 32 := by
  simp [timeTicksBytes, rd_append_right, rd_le_append]

/-! ## TIME_CONFIG and TIME_CIVIL -/

section
variable {x : Ctx} {s : State}

theorem timeConfig_body (hpriority : rd x.p 0 1 ≤ 3) (hdomain : 24 ≤ rd x.p 1 1) (hdomain' : rd x.p 1 1 ≤ 43) (hports : rd x.p 2 1 < 16)
    (hptp : rd x.p 2 1 = 0 → rd x.p 0 1 ≠ 2) (hresv : rd x.p 3 1 = 0) (hlocal : (readTimeConfig x.p).localPriority.all (· != 0) = true)
    (hdelay : rd x.p 8 4 ≤ 1000000) (hlimit : 1 ≤ rd x.p 12 2) (hlimit' : rd x.p 12 2 ≤ 1000) (hresv' : rd x.p 14 2 = 0) :
    cmdTimeConfig.body x s = okWith [] (setTime (fun y => { y with configNext := some (readTimeConfig x.p) }) s) := by
  have hsource : (rd x.p 2 1 != 0 || rd x.p 0 1 != 2) = true := by
    simpa only [Bool.or_eq_true, bne_iff_ne] using Decidable.not_or_of_imp hptp
  simp only [cmdTimeConfig]
  rw [checked_of_all]
  simp only [List.all_cons, List.all_nil, inRange, field, resv, hlocal]
  simp only [readTimeConfig, hsource]
  simp [hpriority, hdomain, hdomain', hports, hresv, hdelay, hlimit, hlimit', hresv']

theorem timeCivil_body {tick : Nat} (htick : activationTick (.civil (readCivil x.p)) (roundTick (rd x.p 0 8)) s = some tick)
    (hoffset : (readCivil x.p).utcOffsetS ≤ 255) (hleap : (readCivil x.p).leapKind = 0) (hend : leapEndOk (readCivil x.p) = true)
    (hdst : (readCivil x.p).dstDeltaMin = 0) (hrules : (dstRuleChecks false x.p 22 26 ++ dstRuleChecks false x.p 28 32).all (·.2.2) = true)
    (hstd : -720 ≤ (readCivil x.p).stdOffsetMin) (hstd' : (readCivil x.p).stdOffsetMin ≤ 840) (hresv : rd x.p 34 2 = 0)
    (hfree : armBusy (.civil (readCivil x.p)) s = false) :
    cmdTimeCivil.body x s = .accepted (le 8 (tick / 1024))
      (armGen { table := .civil (readCivil x.p), opcode := 0x0203, tick := tick, ref := some x.ref } s) := by
  rw [List.all_append, Bool.and_eq_true] at hrules
  simp only [cmdTimeCivil]
  rw [checked_of_all]
  · simp [hfree, htick]
  · simp only [List.all_append, List.all_cons, List.all_nil, inRange, field, resv, hdst, bne_self_eq_false, hrules, htick, hleap, hend]
    simp [hoffset, hstd, hstd', hresv]

end

/-! ## TIME_STEP -/

section
variable {x : Ctx} {s : State} {d : Int}

theorem timeStep_accept (haction : rd x.p 0 1 = 0) (hforce : rd x.p 1 1 = 1) (hresv : rd x.p 2 6 = 0)
    (hpending : s.time.pendingStep = some d) (hstep : rdS x.p 8 8 = d) :
    cmdTimeStep.body x s = okWith (leS 8 d ++ leS 8 ((now s : Int) + 1 + d)) (acceptStep d s) := by
  simp only [cmdTimeStep]
  rw [checked_of_all (by simp [inRange, resv, haction, hforce, hresv])]
  simp [haction, hforce, hpending, hstep]

theorem timeStep_reject (haction : rd x.p 0 1 = 1) (hforce : rd x.p 1 1 ≤ 1) (hresv : rd x.p 2 6 = 0)
    (hpending : s.time.pendingStep = some d) (hstep : rdS x.p 8 8 = d) :
    cmdTimeStep.body x s = okWith (zeros 16) (rejectStep d s) := by
  simp only [cmdTimeStep]
  rw [checked_of_all (by simp [inRange, resv, haction, hforce, hresv])]
  simp [haction, hpending, hstep]

theorem timeStep_set (haction : rd x.p 0 1 = 2) (hforce : rd x.p 1 1 = 1) (hresv : rd x.p 2 6 = 0) (hvalue : rd x.p 8 8 < 2 ^ 63)
    (hptp : s.time.ptp.qualified = false) (hpps : s.time.pps.qualified = false) (htrust : s.time.trust = .untrusted) :
    cmdTimeStep.body x s =
      okWith (leS 8 ((rd x.p 8 8 : Int) - ((now s : Int) + 10)) ++ le 8 (rd x.p 8 8)) (hostSetTime (rd x.p 8 8) s) := by
  simp only [cmdTimeStep]
  rw [checked_of_all (by simpa [inRange, resv, haction, hforce, hresv] using hvalue)]
  simp [haction, hforce, hptp, hpps, htrust]

end

/-! ## The obligation -/

/-- Settles O11, clause by clause: what the body answers is what the mailbox holds, and its state stands beside the envelope. -/
theorem timeCommandsTakeEffect : Obligations.TimeCommandsTakeEffect := by
  unfold Obligations.TimeCommandsTakeEffect
  intro s rq k
  refine ⟨fun h htick => ?_, fun h h0 h1 h1' h2 hptp h3 h4 h8 h12 h12' h14 => ?_, fun d h h0 h1 h2 hpending h8 => ?_,
    fun d h h0 h1 h2 hpending h8 => ?_, fun h h0 h1 h2 h8 hptp hpps htrust => ?_,
    fun tick h htick hoffset hleap hend hdst hrules hstd hstd' h34 hfree => ?_, fun h => ?_⟩
  -- TIME_STATUS and TIME_CONFIG
  · obtain ⟨hreports, -⟩ := submit_ok h (fun _ _ => rfl) (timeStatus_body (s := atBody cmdTimeStatus rq k s) htick _)
      (atBody_mailboxes_length ..)
    exact ⟨_, rfl, _, hreports, timeStatusBytes_reads (s := atBody cmdTimeStatus rq k s) htick⟩
  · obtain ⟨hreports, hkeeps⟩ := submit_ok h (fun _ _ => rfl) (timeConfig_body h0 h1 h1' h2 hptp h3 h4 h8 h12 h12' h14)
      (atBody_mailboxes_length ..)
    exact ⟨_, rfl, hreports, hkeeps.sameTime rfl⟩
  -- TIME_STEP accepts, rejects and sets
  · obtain ⟨hreports, hkeeps⟩ := submit_ok h (fun _ _ => rfl) (timeStep_accept (s := atBody cmdTimeStep rq k s) h0 h1 h2 hpending h8)
      (by simp [acceptStep])
    refine ⟨_, rfl, ?_, fun hd => ?_, _, hreports, ?_⟩
    · rw [hkeeps.sameTime rfl]
      exact evaluateTrust_pendingStep _
    · rw [hkeeps.sameTime rfl]
      exact (evaluateTrust_stepDue _).trans (if_neg hd)
    · simp [slice_append_left, slice_append_right, slice_self]
  · obtain ⟨hreports, hkeeps⟩ := submit_ok h (fun _ _ => rfl) (timeStep_reject (s := atBody cmdTimeStep rq k s) h0 h1 h2 hpending h8)
      (by simp [rejectStep])
    refine ⟨_, rfl, ?_, ?_, _, hreports, length_zeros 16, rfl⟩
    · rw [hkeeps.sameTime rfl]
      exact evaluateTrust_pendingStep _
    · rw [hkeeps.sameTime rfl]
      exact evaluateTrust_stepDue _
  · obtain ⟨hreports, hkeeps⟩ := submit_ok h (fun _ _ => rfl)
      (timeStep_set (s := atBody cmdTimeStep rq k s) h0 h1 h2 h8 hptp hpps htrust) (by simp [hostSetTime])
    refine ⟨_, rfl, ?_, ?_, _, hreports, by simp, ?_⟩
    · rw [hkeeps.sameTime rfl]
      rfl
    · rw [hkeeps.sameTime rfl]
      rfl
    · have hfits : arg rq 8 8 < 256 ^ 8 := Nat.lt_trans h8 (by decide)
      have hread := rd_append_right (Nat.le_of_eq (length_leS 8 ((arg rq 8 8 : Int) - ((now s : Int) + 10)))) (le 8 (arg rq 8 8)) 8
      rwa [length_leS, Nat.sub_self, rd_le, Nat.mod_eq_of_lt hfits] at hread
  -- TIME_CIVIL and TIME_TICKS
  · obtain ⟨haccepts, hkeeps⟩ := submit_accepted h (fun _ _ => rfl)
      (timeCivil_body (s := atBody cmdTimeCivil rq k s) htick hoffset hleap hend hdst hrules hstd hstd' h34 hfree)
      (by rw [armGen_host, atBody_mailboxes_length])
    exact ⟨_, rfl, armed_of_waiting (hkeeps.sameGens rfl), haccepts⟩
  · obtain ⟨hreports, -⟩ := submit_ok h (fun _ _ => rfl) rfl (atBody_mailboxes_length ..)
    exact ⟨_, rfl, _, hreports, timeTicksBytes_reads (atBody cmdTimeTicks rq k s)⟩

end Sys2Proof.Machine
end

section
/-!
PROOFS. O32: where a second Announce stands under the grandmaster's port group, the timeout of that port group selects it (R80), which
the statement's clause about a lost grandmaster leaves out.
-/

namespace Sys2Proof.Machine

/-! ## The grandmaster of one Announce -/

theorem losePtp_announces (s : State) : (losePtp s).time.announces = s.time.announces :=
  afterSource_announces _

theorem losePtp_ptpGroups (s : State) : ptpGroups (losePtp s) = ptpGroups s := by
  have hports : (losePtp s).time.ptpPorts = s.time.ptpPorts := afterSource_ptpPorts _
  have hpwr : (losePtp s).pwr = s.pwr := pwr_eq_of_keeps (losePtp_keeps rfl)
  have hlnk : (losePtp s).lnk = s.lnk := (losePtp_keeps (m := allBut .lnk) rfl (Keeps.refl _ s)).sameLnk rfl
  simp only [ptpGroups, hports, hpwr, hlnk]

theorem bestAnnounce_of_single {s : State} {port : Nat} {a : Announce} (hone : s.time.announces = [(port, a)])
    (hport : (ptpGroups s).testBit port = true) : bestAnnounce s = some a := by
  simp [bestAnnounce, hone, hport]

theorem selectGrandmaster_gmClass {s : State} {a : Announce} (hbest : bestAnnounce s = some a) :
    (selectGrandmaster s).time.gmClass = a.clockClass := by
  simp only [selectGrandmaster, hbest]
  split
  · exact afterSource_gmClass _
  · exact afterSource_gmClass _

/-- Where the timeout of the grandmaster's port group leaves one Announce on an enabled port group, that is the new grandmaster's
(R80, R81). -/
theorem dropAnnounce_gmClass {s : State} {port : Nat} {a : Announce} (hleft : Tab.del s.time.announces s.time.gmPort = [(port, a)])
    (hport : (ptpGroups s).testBit port = true) : (dropAnnounce s.time.gmPort s).time.gmClass = a.clockClass := by
  unfold dropAnnounce
  extract_lets t
  rw [if_neg (not_not_intro rfl)]
  have hgroups : ptpGroups (losePtp t) = ptpGroups s := losePtp_ptpGroups t
  exact selectGrandmaster_gmClass (bestAnnounce_of_single ((losePtp_announces t).trans hleft) (hgroups ▸ hport))

theorem exec_announceTimeout_gmPort {s : State} (hhold : s.time.ptpHold = false)
    (hin : (Tab.get s.time.announces s.time.gmPort).isSome = true) :
    exec (.announceTimeout s.time.gmPort) s = .next (dropAnnounce s.time.gmPort s) := by
  change execAnnounceTimeout s.time.gmPort s = _
  simp [execAnnounceTimeout, hhold, ← Option.not_isSome, hin]

/-! ## The counterexample -/

/-- An Announce of a traceable grandmaster (clockClass 6) on port group 0. -/
def primaryAnnounce : Announce where
  clockClass := 6
  port := 0
  domain := 24
  accuracy := 0
  variance := 0
  priority2 := 0
  identity := 0
  steps := 0
  utcOffset := 37
  utcValid := true
  leap59 := false
  leap61 := false

/-- A module with PTP on port group 0, whose table of Announces lists port group 0 twice. No run builds such a table (`Tab.put` keeps
numbers apart), but the statement speaks of every state. -/
def twiceAnnouncedModule : State := { State.reset with
  pwr := { vigilOn := true }
  time := { ptpPorts := 1, gmClass := 6, gmPort := 0, announces := [(0, primaryAnnounce), (0, primaryAnnounce)] } }

/-- Refutes O32: its clause about a timeout on the grandmaster's port group asks only that the other port groups' Announces be out of
force; in `twiceAnnouncedModule` a second Announce stands under the same port group and is selected, with its clockClass 6 (R80). -/
theorem not_timeSourcesSteerTheClock : ¬ Obligations.TimeSourcesSteerTheClock := by
  unfold Obligations.TimeSourcesSteerTheClock
  intro h
  obtain ⟨-, -, -, -, -, hlost, -⟩ := h twiceAnnouncedModule
  have hothers : ∀ e ∈ twiceAnnouncedModule.time.announces, e.1 ≠ twiceAnnouncedModule.time.gmPort →
      (ptpGroups twiceAnnouncedModule).testBit e.1 = false := by decide
  obtain ⟨t, ht, hclass, -⟩ := hlost rfl rfl hothers
  rw [exec_announceTimeout_gmPort rfl rfl] at ht
  cases ht
  have hselected : (dropAnnounce 0 twiceAnnouncedModule).time.gmClass = 6 :=
    dropAnnounce_gmClass (s := twiceAnnouncedModule) (a := primaryAnnounce) (port := 0) rfl rfl
  exact absurd (hselected.symm.trans hclass) (by decide)

end Sys2Proof.Machine
end

section
/-!
SUPPORT. Requests served over a mailbox that fail: a payload whose first field is wrong, and the answer to a body that fails (R121, R124
of 05).
-/

namespace Sys2Proof.Machine

/-! ## The first failed check (R124 step 12) -/

theorem foldl_earlier_of_le {c : Check} {cs : List Check} (h : ∀ b ∈ cs, c.1 ≤ b.1) : cs.foldl earlier c = c := by
  induction cs with
  | nil => rfl
  | cons b cs ih =>
    have hkept : earlier c b = c := if_neg (Nat.not_lt.mpr (h b List.mem_cons_self))
    rw [List.foldl_cons, hkept]
    exact ih fun x hx => h x (List.mem_cons_of_mem b hx)

/-- Where the check of the first field fails, that field is the answer, whatever the others hold. -/
theorem checked_of_first_fails {c : Check} {cs : List Check} (hfails : c.2.2 = false) (hfirst : ∀ b ∈ cs, c.1 ≤ b.1) (s : State)
    (k : Answer) : checked (c :: cs) s k = fail c.2.1 (c.1 + 16) s := by
  have hfailed : (c :: cs).filter (fun b => !b.2.2) = c :: cs.filter (fun b => !b.2.2) :=
    List.filter_cons_of_pos (by simp [hfails])
  have hfold : (cs.filter (fun b => !b.2.2)).foldl earlier c = c :=
    foldl_earlier_of_le fun b hb => hfirst b (List.mem_filter.mp hb).1
  simp only [checked, firstFail, hfailed, hfold]

/-! ## A body that fails -/

section
variable {c : Cmd} {rq : Request} {k : Nat} {s t : State}

/-- Where the body fails, the mailbox holds the status with its detail and no payload (R121). -/
theorem submit_failed {st d : Nat} (h : Served c rq k s) (hupd : ∀ h p, c.updating { s with host := h } p = c.updating s p)
    (hbody : c.body (bodyCtx c rq k s) (atBody c rq k s) = fail st d t)
    (hboxes : t.host.mailboxes.length = s.host.mailboxes.length) : Reports c.opcode rq k st d [] (submit c rq s) := by
  have hrun := submit_served h hupd
  obtain ⟨hvia, hk, hlen, -, -, -, hasync, hdry, -⟩ := h
  have hanswer : submit c rq s = answer c.opcode { opcode := c.opcode, request := rq } st d [] (dropCommand s.fol.nextRef t) := by
    simp only [bodyCtx, atBody, hdry] at hbody
    simp [hrun, runCommand, touchSession_nextRef, hbody, fail, hasync, hdry, payloadFor]
  rw [hanswer]
  exact answer_reports hvia hk (hboxes ▸ hlen)

end

end Sys2Proof.Machine
end

section
/-!
PROOFS. O8: reads of what does not exist (R194, R200 of 06, R564 of 16, R592 of 17).
-/

namespace Sys2Proof.Machine

section
variable {x : Ctx} {s : State}

theorem yrwCatalogue_absent (hindex : kernels.length ≤ rd x.p 0 1) : cmdYrwCatalogue.body x s = fail stOutOfRange 16 s :=
  checked_of_first_fails (decide_eq_false (Nat.not_lt.mpr hindex)) (by simp [inRange, resv]) s _

theorem yrwWorkloadStats_absent (hresv : rd x.p 1 3 = 0) (hid : ∀ w ∈ s.yrw.workloads, w.id ≠ rd x.p 0 1) :
    cmdYrwWorkloadStats.body x s = fail stNotReady 0 s := by
  have hnone : s.yrw.workloads.any (fun y => y.id == rd x.p 0 1) = false := by
    simpa [List.any_eq_false] using hid
  simp only [cmdYrwWorkloadStats]
  rw [checked_of_all (by simp [resv, hresv])]
  simp [hnone]

theorem fltRead_reserved (hresv : rd x.p 1 3 = 0) (hsource : sourceClass (rd x.p 0 1) = none) :
    cmdFltRead.body x s = fail stNotReady 0 s := by
  simp only [cmdFltRead]
  rw [checked_of_all (by simp [resv, hresv])]
  simp [hsource]

theorem lnkPortRead_absent (hport : portExists s (rd x.p 0 1) = false) : cmdLnkPortRead.body x s = fail stOutOfRange 16 s :=
  checked_of_first_fails hport (by simp [inRange, resv]) s _

end

/-- Settles O8: the index and the port number are the first field of their payload, so that whatever the reserved bytes hold they are
what is refused (R124 step 12); a workload and a source are looked for once the payload is in order. -/
theorem readsRefuseWhatDoesNotExist : Obligations.ReadsRefuseWhatDoesNotExist := by
  unfold Obligations.ReadsRefuseWhatDoesNotExist
  intro s rq k
  refine ⟨fun h hindex => ?_, fun h hresv hid => ?_, fun h hresv hsource => ?_, fun h hport => ?_⟩
  · exact ⟨_, rfl, submit_failed h (fun _ _ => rfl) (yrwCatalogue_absent hindex) (atBody_mailboxes_length ..)⟩
  · exact ⟨_, rfl, submit_failed h (fun _ _ => rfl) (yrwWorkloadStats_absent (s := atBody cmdYrwWorkloadStats rq k s) hresv hid)
      (atBody_mailboxes_length ..)⟩
  · exact ⟨_, rfl, submit_failed h (fun _ _ => rfl) (fltRead_reserved hresv hsource) (atBody_mailboxes_length ..)⟩
  · exact ⟨_, rfl, submit_failed h (fun _ _ => rfl) (lnkPortRead_absent (s := atBody cmdLnkPortRead rq k s) hport)
      (atBody_mailboxes_length ..)⟩

end Sys2Proof.Machine
end

section
/-!
PROOFS. O12: the YRW_ reads (R192 to R194, R198, R200, R201 of 06).
-/

namespace Sys2Proof.Machine

@[simp] theorem length_pad (n : Nat) (b : Bytes) : (pad n b).length = n := by
  simp only [pad, slice, List.length_append, List.length_replicate, List.length_take]
  omega

/-- A read that is served leaves its answer in the mailbox. -/
theorem submit_read {c : Cmd} {rq : Request} {k len : Nat} {s : State} {holds : Bytes → Prop} (h : Served c rq k s)
    (hupd : ∀ h p, c.updating { s with host := h } p = c.updating s p)
    (hread : ∃ p, c.body (bodyCtx c rq k s) (atBody c rq k s) = okWith p (atBody c rq k s) ∧ p.length = len ∧ holds p) :
    Answers c rq k len (submit c rq s) holds := by
  obtain ⟨p, hbody, hlen, hholds⟩ := hread
  obtain ⟨hreports, -⟩ := submit_ok h hupd hbody (atBody_mailboxes_length ..)
  exact ⟨p, hreports, hlen, hholds⟩

/-! ## What each read answers -/

/-- The payload of YRW_UMBEL (R198). -/
theorem umbelBytes_reads (s : State) (u : Nat) : (umbelBytes s u).length = 24 ∧ rd (umbelBytes s u) 0 1 = (umbel s u).phase.code % 256 ∧
    rd (umbelBytes s u) 3 1 = (umbel s u).testResult % 256 ∧ rd (umbelBytes s u) 4 4 = (umbel s u).epoch % 2 ^ 32 ∧
    rd (umbelBytes s u) 16 8 = (umbel s u).staleWrites % 2 ^ 64 := by
  simp [umbelBytes, rd_append_right, rd_le_append, rd_le]

/-- A descriptor followed by the number of its table (R165, R201). -/
theorem workloadBytes_reads (w : Workload) (n : Nat) : (workloadBytes w ++ le 4 n).length = 36 ∧
    rd (workloadBytes w ++ le 4 n) 0 1 = w.id % 256 ∧ rd (workloadBytes w ++ le 4 n) 2 2 = w.kernel % 65536 ∧
    rd (workloadBytes w ++ le 4 n) 8 4 = w.units % 2 ^ 32 ∧ rd (workloadBytes w ++ le 4 n) 12 2 = w.minFlorets % 65536 ∧
    rd (workloadBytes w ++ le 4 n) 32 4 = n % 2 ^ 32 := by
  simp [workloadBytes, rd_append_right, rd_le_append, rd_le]

section
variable {x : Ctx} {s : State}

theorem yrwStatus_reads : ∃ p, cmdYrwStatus.body x s = okWith p s ∧ p.length = 56 ∧ rd p 0 8 = now s / 1024 % 2 ^ 64 ∧
    rd p 8 1 = (umbelsIn s .active).length % 256 ∧ rd p 9 1 = (umbelsIn s .spare).length % 256 ∧
    rd p 12 1 = (umbelsIn s .retired).length % 256 ∧ rd p 16 4 = s.yrw.workloadGen % 2 ^ 32 :=
  ⟨_, rfl, by simp [rd_append_right, rd_le_append]⟩

theorem yrwLoad_reads : ∃ p, cmdYrwLoad.body x s = okWith p s ∧ p.length = 48 ∧ rd p 0 2 = s.yrw.load.floretOccupancy % 65536 ∧
    rd p 2 2 = s.yrw.load.dramUtilisation % 65536 ∧ rd p 4 2 = s.yrw.load.folsetBusy % 65536 ∧
    rd p 32 4 = s.yrw.prevWilts % 2 ^ 32 ∧ rd p 36 4 = s.yrw.prevMisses % 2 ^ 32 :=
  ⟨_, rfl, by simp [rd_append_right, rd_le_append]⟩

theorem yrwCatalogue_reads {y : Kernel} (hindex : rd x.p 0 1 < kernels.length) (hresv : rd x.p 1 3 = 0)
    (hkernel : kernels[rd x.p 0 1]? = some y) :
    ∃ p, cmdYrwCatalogue.body x s = okWith p s ∧ p.length = 48 ∧ rd p 0 1 = kernels.length % 256 ∧ rd p 1 1 = y.cls.code % 256 ∧
      rd p 2 2 = y.id % 65536 ∧ rd p 4 2 = (kernelVersion s y.id).version % 65536 ∧ rd p 8 4 = y.cycles % 2 ^ 32 := by
  simp only [cmdYrwCatalogue]
  rw [checked_of_all (by simpa [inRange, resv, hresv] using hindex), hkernel]
  exact ⟨_, rfl, by simp [rd_append_right, rd_le_append]⟩

theorem yrwWorkloadStats_reads (hresv : rd x.p 1 3 = 0) (hid : s.yrw.workloads.any (fun y => y.id == rd x.p 0 1) = true) :
    ∃ p, cmdYrwWorkloadStats.body x s = okWith p s ∧ p.length = 40 ∧
      rd p 0 8 = (Tab.getD s.yrw.stats (rd x.p 0 1) {}).invocations % 2 ^ 64 ∧
      rd p 8 8 = (Tab.getD s.yrw.stats (rd x.p 0 1) {}).cycles % 2 ^ 64 ∧
      rd p 16 4 = (Tab.getD s.yrw.stats (rd x.p 0 1) {}).wilts % 2 ^ 32 ∧
      rd p 20 4 = (Tab.getD s.yrw.stats (rd x.p 0 1) {}).deadlineMisses % 2 ^ 32 := by
  simp only [cmdYrwWorkloadStats, hid, Bool.not_true, Bool.false_eq_true, if_false]
  rw [checked_of_all (by simp [resv, hresv])]
  exact ⟨_, rfl, by simp [rd_append_right, rd_le_append]⟩

theorem yrwWorkloadRead_active {w : Workload} (hactive : rd x.p 1 1 = 0) (hresv : rd x.p 2 2 = 0)
    (hfind : s.yrw.workloads.find? (fun y => y.id == rd x.p 0 1) = some w) :
    cmdYrwWorkloadRead.body x s = okWith (workloadBytes w ++ le 4 s.yrw.workloadGen) s := by
  simp only [cmdYrwWorkloadRead]
  rw [checked_of_all (by simp [field, resv, hactive, hresv])]
  simp [hactive, hfind]

theorem yrwUmbel_read (humbel : rd x.p 0 1 ≤ 63) (haction : rd x.p 1 1 = 0) (hresv : rd x.p 2 6 = 0) :
    cmdYrwUmbel.body x s = okWith (umbelBytes s (rd x.p 0 1)) s := by
  simp only [cmdYrwUmbel]
  rw [checked_of_all (by simp [inRange, resv, humbel, haction, hresv])]
  simp [haction]

end

/-! ## The obligation -/

/-- Settles O12: each body answers OK and leaves the state, and the fields of its payload are read back where the command's section
places them. -/
theorem yarrowReadsAnswer : Obligations.YarrowReadsAnswer := by
  unfold Obligations.YarrowReadsAnswer
  intro s rq k
  refine ⟨fun h => ?_, fun y h hindex hresv hkernel => ?_, fun h => ?_, fun h hresv hid => ?_,
    fun w h hactive hresv hfind => ?_, fun h humbel haction hresv => ?_⟩
  · exact ⟨_, rfl, submit_read h (fun _ _ => rfl) yrwStatus_reads⟩
  · exact ⟨_, rfl, submit_read h (fun _ _ => rfl) (yrwCatalogue_reads hindex hresv hkernel)⟩
  · exact ⟨_, rfl, submit_read h (fun _ _ => rfl) yrwLoad_reads⟩
  · exact ⟨_, rfl, submit_read h (fun _ _ => rfl) (yrwWorkloadStats_reads (s := atBody cmdYrwWorkloadStats rq k s) hresv hid)⟩
  · exact ⟨_, rfl, submit_read h (fun _ _ => rfl)
      ⟨_, yrwWorkloadRead_active (s := atBody cmdYrwWorkloadRead rq k s) hactive hresv hfind, workloadBytes_reads ..⟩⟩
  · exact ⟨_, rfl, submit_read h (fun _ _ => rfl) ⟨_, yrwUmbel_read humbel haction hresv, umbelBytes_reads ..⟩⟩

end Sys2Proof.Machine
end

section
/-!
SUPPORT. What the operations of Yarrow that a command reaches leave in the umbels and in the mailboxes (R161, R166, R188, R193 of 06).
-/

namespace Sys2Proof.Machine

/-! ## The umbels -/

theorem yrw_eq_of_keeps {s t : State} (k : Keeps (allBut .yrw) s s → Keeps (allBut .yrw) s t) : t.yrw = s.yrw :=
  (k (Keeps.refl _ s)).sameYrw rfl

theorem umbel_of_yrw {s t : State} (h : t.yrw = s.yrw) (u : Nat) : umbel t u = umbel s u := by
  simp only [umbel, h]

/-- An umbel that exists, after a change of its entry in the list. -/
theorem umbel_of_modAt {s t : State} {u : Nat} {f : Umbel → Umbel} (h : t.yrw.umbels = modAt s.yrw.umbels u f)
    (hu : u < s.yrw.umbels.length) : umbel t u = f (umbel s u) := by
  simp [umbel, h, modAt, hu]

/-- What every round of a loop leaves alone, the loop leaves alone. -/
theorem foldl_field {α β : Type} {f : State → α → State} {g : State → β} (hf : ∀ s a, g (f s a) = g s) (l : List α) (s : State) :
    g (l.foldl f s) = g s := by
  induction l generalizing s with
  | nil => rfl
  | cons a l ih => rw [List.foldl_cons, ih, hf]

@[simp] theorem raiseEvent_yrw (kind src : Nat) (c : Bool) (p : Bytes) (s : State) : (raiseEvent kind src c p s).yrw = s.yrw :=
  yrw_eq_of_keeps (raiseEvent_keeps rfl)
@[simp] theorem reportFault_yrw (src d : Nat) (s : State) : (reportFault src d s).yrw = s.yrw :=
  yrw_eq_of_keeps (reportFault_keeps rfl)
@[simp] theorem complete_yrw (ref st d : Nat) (p : Bytes) (s : State) : (complete ref st d p s).yrw = s.yrw :=
  yrw_eq_of_keeps (complete_keeps rfl)

theorem umbelGoto_umbels (u : Nat) (p : UmbelPhase) (cause : Nat) (s : State) :
    (umbelGoto u p cause s).yrw.umbels = modAt s.yrw.umbels u (fun x => { x with phase := p }) := by
  simp [umbelGoto, setUmbel]

theorem umbelGoto_umbels_length (u : Nat) (p : UmbelPhase) (cause : Nat) (s : State) :
    (umbelGoto u p cause s).yrw.umbels.length = s.yrw.umbels.length := by
  rw [umbelGoto_umbels, modAt, List.length_modify]

theorem umbel_umbelGoto {u : Nat} {s : State} (hu : u < s.yrw.umbels.length) (p : UmbelPhase) (cause : Nat) :
    umbel (umbelGoto u p cause s) u = { umbel s u with phase := p } :=
  umbel_of_modAt (umbelGoto_umbels ..) hu

@[simp] theorem releaseTask_umbels (w : Workload) (label : Nat) (units : List Nat) (ahead : Bool) (s : State) :
    (releaseTask w label units ahead s).yrw.umbels = s.yrw.umbels := by
  unfold releaseTask
  split
  · rfl
  · extract_lets _ _ s₁
    have hadded : s₁.yrw.umbels = s.yrw.umbels := rfl
    split
    · simp [hadded]
    · exact hadded

theorem startUmbelTest_umbels (u : Nat) (s : State) :
    (startUmbelTest u s).yrw.umbels = modAt s.yrw.umbels u (fun x => { x with testResult := 3 }) := by
  unfold startUmbelTest
  extract_lets s₁
  split
  · exact foldl_field (g := fun t => t.yrw.umbels) (fun _ _ => releaseTask_umbels ..) ..
  · rfl

/-- A test that starts is noted as running; the release of its tasks leaves the umbels (R188, R198). -/
theorem umbel_startUmbelTest {u : Nat} {s : State} (hu : u < s.yrw.umbels.length) :
    umbel (startUmbelTest u s) u = { umbel s u with testResult := 3 } :=
  umbel_of_modAt (startUmbelTest_umbels ..) hu

/-! ## The mailboxes -/

@[simp] theorem raiseEvent_host (kind src : Nat) (c : Bool) (p : Bytes) (s : State) : (raiseEvent kind src c p s).host = s.host :=
  host_eq_of_keeps (raiseEvent_keeps rfl)
@[simp] theorem faultEvent_host (src : Nat) (r : FaultRecord) (s : State) : (faultEvent src r s).host = s.host :=
  host_eq_of_keeps (faultEvent_keeps rfl)
@[simp] theorem traceWrite_host (kind src : Nat) (p : Bytes) (s : State) : (traceWrite kind src p s).host = s.host :=
  host_eq_of_keeps (traceWrite_keeps rfl)
@[simp] theorem traceTrigger_host (b kind : Nat) (s : State) : (traceTrigger b kind s).host = s.host :=
  host_eq_of_keeps (traceTrigger_keeps rfl)
@[simp] theorem faultLevel_host (s : State) : (faultLevel s).host = s.host := host_eq_of_keeps (faultLevel_keeps rfl)
@[simp] theorem endFault_host (src : Nat) (s : State) : (endFault src s).host = s.host := host_eq_of_keeps (endFault_keeps rfl)
@[simp] theorem complete_host (ref st d : Nat) (p : Bytes) (s : State) : (complete ref st d p s).host = s.host :=
  host_eq_of_keeps (complete_keeps rfl)
@[simp] theorem umbelGoto_host (u : Nat) (p : UmbelPhase) (cause : Nat) (s : State) : (umbelGoto u p cause s).host = s.host :=
  host_eq_of_keeps (umbelGoto_keeps rfl)

@[simp] theorem raiseWith_mailboxes (src d : Nat) (injected : Bool) (s : State) :
    (raiseWith src d injected s).host.mailboxes = s.host.mailboxes := by
  unfold raiseWith
  split
  · rfl
  · simp [apply_ite State.host, apply_ite HostState.mailboxes]

@[simp] theorem releaseTask_mailboxes (w : Workload) (label : Nat) (units : List Nat) (ahead : Bool) (s : State) :
    (releaseTask w label units ahead s).host.mailboxes = s.host.mailboxes := by
  unfold releaseTask
  split
  · rfl
  · extract_lets _ _ s₁
    have hadded : s₁.host = s.host := rfl
    split
    · simp [reportFault, raiseFault, hadded]
    · rw [hadded]

@[simp] theorem startUmbelTest_mailboxes (u : Nat) (s : State) : (startUmbelTest u s).host.mailboxes = s.host.mailboxes := by
  unfold startUmbelTest
  extract_lets s₁
  split
  · exact foldl_field (g := fun t => t.host.mailboxes) (fun _ _ => releaseTask_mailboxes ..) ..
  · rfl

end Sys2Proof.Machine
end

section
/-!
PROOFS. O13: the YRW_ commands that change something (R195 to R199 of 06).
-/

namespace Sys2Proof.Machine

/-! ## A field of a slice -/

theorem ofLe_zeros (n : Nat) : ofLe (zeros n) = 0 := by
  induction n with
  | zero => rfl
  | succ n ih =>
    change 0 + 256 * ofLe (zeros n) = 0
    rw [ih]

theorem ofLe_append_zeros (a : Bytes) (n : Nat) : ofLe (a ++ List.replicate n 0) = ofLe a := by
  induction a with
  | nil => exact ofLe_zeros n
  | cons b a ih =>
    change b.toNat + 256 * ofLe (a ++ List.replicate n 0) = b.toNat + 256 * ofLe a
    rw [ih]

/-- A field that lies in a slice is the field of the whole. -/
theorem rd_slice {o n m : Nat} (h : o + n ≤ m) (b : Bytes) (off : Nat) : rd (slice b off m) o n = rd b (off + o) n := by
  have hfield : min n (m - o) = n := by omega
  simp only [rd, slice, List.drop_append, List.take_append, List.drop_replicate, List.take_replicate, ofLe_append_zeros,
    List.drop_take, List.take_take, hfield, List.drop_drop]

/-! ## The channel that an accepted transfer opens -/

@[simp] theorem sendMessage_channels (v : Nat) (h : HostState) : (sendMessage v h).channels = h.channels := by
  unfold sendMessage
  split
  · rfl
  · simp only [apply_ite HostState.channels, ite_self]

@[simp] theorem interrupt_channels (i : Nat) (s : State) : (interrupt i s).host.channels = s.host.channels := by
  simp only [interrupt, setCause, apply_ite HostState.channels, sendMessage_channels, ite_self]

theorem rungHost_channels (opcode : Nat) (rq : Request) (k : Nat) (s : State) :
    (rungHost opcode rq k s).channels = s.host.channels := by
  simp only [rungHost, takeMailbox, writeRequest]
  split
  · simp [hostError]
  · rfl

theorem atBody_channels (c : Cmd) (rq : Request) (k : Nat) (s : State) : (atBody c rq k s).host.channels = s.host.channels :=
  rungHost_channels ..

theorem channelIdle_atBody (c : Cmd) (rq : Request) (k : Nat) (s : State) (i : Nat) :
    channelIdle (atBody c rq k s) i = channelIdle s i := by
  simp only [channelIdle, chan, atBody_channels]

theorem answer_channels {opcode k st d : Nat} {rq : Request} {p : Bytes} {t : State} (hvia : rq.via = .mailbox k) :
    (answer opcode { opcode := opcode, request := rq } st d p t).host.channels = t.host.channels := by
  have htrace (o : Nat) (q : Request) (x : Option Session) (a b : Nat) (u : State) : (traceCommand o q x a b u).host = u.host :=
    host_eq_of_keeps (traceCommand_keeps rfl)
  simp only [answer, htrace, respond, hvia]
  split
  · simp
  · simp

/-- The answer to an accepted request leaves the channels as its body left them. -/
theorem submit_accepted_channels {c : Cmd} {rq : Request} {k : Nat} {s t : State} {dry : Bytes} (h : Served c rq k s)
    (hupd : ∀ h p, c.updating { s with host := h } p = c.updating s p)
    (hbody : c.body (bodyCtx c rq k s) (atBody c rq k s) = .accepted dry t) :
    (submit c rq s).host.channels = t.host.channels := by
  have hrun := submit_served h hupd
  obtain ⟨hvia, -, -, -, -, -, -, hdry, -⟩ := h
  simp only [bodyCtx, atBody, hdry] at hbody
  simp [hrun, runCommand, touchSession_nextRef, hbody, hdry, answer_channels hvia]

/-- The channel that takes a command's pages carries its transfer (R136 of 05). -/
theorem opens_of_receiveTransfer {x : Ctx} {opcode c id expected crc lenOff crcOff : Nat} {s t : State}
    (h : t.host.channels = (receiveTransfer x opcode c id expected crc lenOff crcOff s).host.channels)
    (hc : c < s.host.channels.length) : Opens c .fromHost opcode id t := by
  simp [Opens, chan, h, receiveTransfer, openChannel, setChan, modAt, hc]

/-! ## YRW_WORKLOAD_ARM, YRW_PARAM_SET and YRW_SPARES -/

section
variable {x : Ctx} {s : State}

theorem yrwWorkloadArm_body (hch : 1 ≤ rd x.p 0 1) (hch' : rd x.p 0 1 ≤ 7) (hcount : 1 ≤ rd x.p 2 2) (hcount' : rd x.p 2 2 ≤ 256)
    (hid : rd x.p 4 4 ≠ 0) (hround : (activationTick (.workload []) (roundTick (rd x.p 8 8)) s).isSome = true)
    (hgroup : (groupCheck x.p 1 20).2.2 = true) (hresv : rd x.p 21 3 = 0) (hfree : armBusy (.workload []) s = false)
    (hidle : channelIdle s (rd x.p 0 1) = true) : cmdYrwWorkloadArm.body x s =
      .accepted [] (receiveTransfer x 0x0302 (rd x.p 0 1) (rd x.p 4 4) (32 * rd x.p 2 2) (rd x.p 16 4) 2 16 s) := by
  simp only [cmdYrwWorkloadArm]
  rw [checked_of_all]
  · simp [hfree, hidle]
  · simp [inRange, resv, hch, hch', hcount, hcount', hid, hround, hgroup, hresv]

theorem yrwParamSet_body {tick : Nat} (hblock : rd x.p 0 2 ≤ 1023) (hgroup : (groupCheck x.p 2 3).2.2 = true) (hresv : rd x.p 4 4 = 0)
    (htick : activationTick (.param (rd x.p 0 2) (slice x.p 16 192)) (rd x.p 8 8) s = some tick)
    (hkernel : (findKernel (rd x.p 16 2)).isSome = true) (hlen : 1 ≤ rd x.p 19 1) (hlen' : rd x.p 19 1 ≤ 184) (hresv' : rd x.p 20 4 = 0)
    (hpad : ((slice x.p 16 192).drop (8 + rd x.p 19 1)).all (· == 0) = true)
    (hfree : armBusy (.param (rd x.p 0 2) (slice x.p 16 192)) s = false) (howned : Config.paramsOwned (rd x.p 16 2) = false)
    (hformat : Config.paramFormat (rd x.p 16 2) (rd x.p 18 1) = true)
    (hbody : Config.paramBody (rd x.p 16 2) (slice (slice x.p 16 192) 8 (rd x.p 19 1)) = true) :
    cmdYrwParamSet.body x s = okWith (le 8 tick) (armGen { table := .param (rd x.p 0 2) (slice x.p 16 192), opcode := 0x0303
                                                           tick := tick, groupId := rd x.p 2 1, groupMembers := rd x.p 3 1 } s) := by
  have hfieldK : rd (slice x.p 16 192) 0 2 = rd x.p 16 2 := rd_slice (by decide) ..
  have hfieldF : rd (slice x.p 16 192) 2 1 = rd x.p 18 1 := rd_slice (by decide) ..
  have hfieldL : rd (slice x.p 16 192) 3 1 = rd x.p 19 1 := rd_slice (by decide) ..
  simp only [cmdYrwParamSet, hfieldK, hfieldF, hfieldL]
  rw [checked_of_all]
  · simp [hfree, htick]
  · simp only [List.all_cons, List.all_nil, inRange, field, resv, hgroup, htick, hkernel, howned, hformat, hbody, hpad]
    simp [hblock, hresv, hlen, hlen', hresv']

/-- What it replaces is completed, which changes neither Yarrow nor a mailbox (R197). -/
theorem yrwSpares_body (hspares : rd x.p 0 1 ≤ 8) (hauto : rd x.p 1 1 ≤ 1) (hresv : rd x.p 2 6 = 0)
    (hroom : sumMin s.yrw.workloads ≤ floretRoom s (rd x.p 0 1)) :
    ∃ dry t, cmdYrwSpares.body x s = .accepted dry t ∧ t.host = s.host ∧
      t.yrw = { s.yrw with pendingSpares := some (rd x.p 0 1, rd x.p 1 1 == 1, roundStart (now s + 3), x.ref) } := by
  simp only [cmdYrwSpares]
  rw [checked_of_all (by simp [inRange, resv, hspares, hauto, hresv]), if_neg (Nat.not_lt.mpr hroom)]
  refine ⟨_, _, rfl, ?_⟩
  split
  · exact ⟨complete_host .., complete_yrw ..⟩
  · exact ⟨rfl, rfl⟩

/-! ## YRW_UMBEL -/

theorem yrwUmbel_retire_fenced (humbel : rd x.p 0 1 ≤ 63) (haction : rd x.p 1 1 = 1) (hresv : rd x.p 2 6 = 0)
    (hphase : (umbel s (rd x.p 0 1)).phase = .fenced) : cmdYrwUmbel.body x s =
      okWith (umbelBytes (umbelGoto (rd x.p 0 1) .retired 0 s) (rd x.p 0 1)) (umbelGoto (rd x.p 0 1) .retired 0 s) := by
  simp only [cmdYrwUmbel]
  rw [checked_of_all (by simp [inRange, resv, humbel, haction, hresv])]
  simp [haction, hphase]

theorem yrwUmbel_test (humbel : rd x.p 0 1 ≤ 63) (haction : rd x.p 1 1 = 2) (hresv : rd x.p 2 6 = 0)
    (hphase : (umbel s (rd x.p 0 1)).phase = .fenced ∨ (umbel s (rd x.p 0 1)).phase = .retired) : ∃ p, cmdYrwUmbel.body x s =
      okWith p (startUmbelTest (rd x.p 0 1) (umbelGoto (rd x.p 0 1) .testing 0 s)) := by
  simp only [cmdYrwUmbel]
  rw [checked_of_all (by simp [inRange, resv, humbel, haction, hresv])]
  obtain hfenced | hretired := hphase
  · simp [haction, hfenced, okWith]
  · simp [haction, hretired, okWith]

theorem yrwUmbel_test_spare (humbel : rd x.p 0 1 ≤ 63) (haction : rd x.p 1 1 = 3) (hresv : rd x.p 2 6 = 0)
    (hphase : (umbel s (rd x.p 0 1)).phase = .spare) (hidle : (umbel s (rd x.p 0 1)).testResult ≠ 3) :
    ∃ p, cmdYrwUmbel.body x s = okWith p (startUmbelTest (rd x.p 0 1) s) := by
  simp only [cmdYrwUmbel]
  rw [checked_of_all (by simp [inRange, resv, humbel, haction, hresv])]
  simp [haction, hphase, hidle, okWith]

/-! ## YRW_KERNEL_ROLL -/

theorem yrwKernelRoll_start {y : Kernel} {img : StagedImage} (hkernel : findKernel (rd x.p 0 2) = some y) (haction : rd x.p 2 1 = 0)
    (hslot : rd x.p 3 1 ≤ 7) (hper : 1 ≤ rd x.p 4 1) (hper' : rd x.p 4 1 ≤ 16) (hlimit : 1 ≤ rd x.p 5 1) (hcanary : rd x.p 6 2 ≤ 1024)
    (hseal : y.isSealed = true → sealClosed s 2 = false) (hnone : s.yrw.roll = none)
    (hstaged : Tab.get (buildBank s).staged (rd x.p 3 1) = some img) (himage : img.kernel = rd x.p 0 2) (hgood : img.hashGood = true)
    (hmajor : img.version / 256 = (kernelVersion s (rd x.p 0 2)).version / 256) : cmdYrwKernelRoll.body x s =
      .accepted [] (setYrw (fun z => { z with roll := some {
        kernel := rd x.p 0 2, slot := rd x.p 3 1, version := img.version, hash := img.hash, perRound := rd x.p 4 1
        faultLimit := rd x.p 5 1, canary := rd x.p 6 2, ref := x.ref } }) s) := by
  have hopen : (y.isSealed && sealClosed s 2) = false := by
    simpa using hseal
  simp only [cmdYrwKernelRoll]
  rw [checked_of_all]
  · simp [hkernel, hopen, haction, hnone, hstaged, himage, hgood, hmajor]
  · simp [inRange, hkernel, haction, hslot, hper, hper', hlimit, hcanary]

end

/-! ## The obligation -/

/-- Settles O13, clause by clause: what the body leaves in Yarrow's state, in the waiting generations or in the channel stands beside the
envelope. -/
theorem yarrowSettingsTakeEffect : Obligations.YarrowSettingsTakeEffect := by
  unfold Obligations.YarrowSettingsTakeEffect
  intro s rq k
  refine ⟨fun h hch hch' hcount hcount' hid hround hgroup hresv hfree hidle hexists => ?_,
    fun tick h hblock hgroup hresv htick hkernel hlen hlen' hresv' hpad hfree => ⟨_, rfl, fun howned hformat hparam => ?_⟩,
    fun h hspares hauto hresv hroom => ?_, fun h humbel hexists haction hresv hphase => ?_,
    fun h humbel hexists haction hresv hphase => ?_, fun h humbel hexists haction hresv hphase hnotest => ?_,
    fun img y h hkernel haction hslot hper hper' hlimit hcanary hseal hnone hstaged himage hgood hmajor => ?_⟩
  -- YRW_WORKLOAD_ARM, YRW_PARAM_SET and YRW_SPARES
  · have hbody := yrwWorkloadArm_body (s := atBody cmdYrwWorkloadArm rq k s) (x := bodyCtx cmdYrwWorkloadArm rq k s) hch hch' hcount
      hcount' hid hround hgroup hresv hfree ((channelIdle_atBody ..).trans hidle)
    obtain ⟨haccepts, -⟩ := submit_accepted h (fun _ _ => rfl) hbody (atBody_mailboxes_length ..)
    exact ⟨_, rfl, haccepts, opens_of_receiveTransfer (submit_accepted_channels h (fun _ _ => rfl) hbody)
      (by rwa [atBody_channels])⟩
  · obtain ⟨hreports, hkeeps⟩ := submit_ok h (fun _ _ => rfl) (yrwParamSet_body (s := atBody cmdYrwParamSet rq k s) hblock hgroup hresv
      htick hkernel hlen hlen' hresv' hpad hfree howned hformat hparam) (by rw [armGen_host, atBody_mailboxes_length])
    exact ⟨⟨_, hreports, length_le .., rd_le ..⟩, armed_of_waiting (hkeeps.sameGens rfl)⟩
  · obtain ⟨dry, t, hbody, hhost, hyrw⟩ := yrwSpares_body (s := atBody cmdYrwSpares rq k s) (x := bodyCtx cmdYrwSpares rq k s) hspares
      hauto hresv hroom
    obtain ⟨haccepts, hkeeps⟩ := submit_accepted h (fun _ _ => rfl) hbody (by rw [hhost, atBody_mailboxes_length])
    exact ⟨_, rfl, haccepts, (hkeeps.sameYrw rfl).trans hyrw⟩
  -- YRW_UMBEL retires, tests and tests a spare
  · obtain ⟨hreports, hkeeps⟩ := submit_ok h (fun _ _ => rfl)
      (yrwUmbel_retire_fenced (s := atBody cmdYrwUmbel rq k s) humbel haction hresv hphase)
      (by rw [umbelGoto_host, atBody_mailboxes_length])
    have hretired := umbel_umbelGoto (s := atBody cmdYrwUmbel rq k s) hexists .retired 0
    obtain ⟨hlen, hcode, -⟩ := umbelBytes_reads (umbelGoto (arg rq 0 1) .retired 0 (atBody cmdYrwUmbel rq k s)) (arg rq 0 1)
    refine ⟨_, rfl, ?_, _, hreports, hlen, hcode.trans ?_⟩
    · rw [umbel_of_yrw (hkeeps.sameYrw rfl)]
      exact congrArg Umbel.phase hretired
    · rw [hretired]
      rfl
  · obtain ⟨p, hbody⟩ := yrwUmbel_test (s := atBody cmdYrwUmbel rq k s) (x := bodyCtx cmdYrwUmbel rq k s) humbel haction hresv hphase
    obtain ⟨-, hkeeps⟩ := submit_ok h (fun _ _ => rfl) hbody
      (by rw [startUmbelTest_mailboxes, umbelGoto_host, atBody_mailboxes_length])
    have htests := umbel_startUmbelTest (s := umbelGoto (arg rq 0 1) .testing 0 (atBody cmdYrwUmbel rq k s))
      (by rw [umbelGoto_umbels_length]; exact hexists)
    rw [umbel_umbelGoto (s := atBody cmdYrwUmbel rq k s) hexists] at htests
    refine ⟨_, rfl, ?_, ?_⟩
    · rw [umbel_of_yrw (hkeeps.sameYrw rfl)]
      exact congrArg Umbel.phase htests
    · rw [umbel_of_yrw (hkeeps.sameYrw rfl)]
      exact congrArg Umbel.testResult htests
  · obtain ⟨p, hbody⟩ := yrwUmbel_test_spare (s := atBody cmdYrwUmbel rq k s) (x := bodyCtx cmdYrwUmbel rq k s) humbel haction hresv
      hphase hnotest
    obtain ⟨-, hkeeps⟩ := submit_ok h (fun _ _ => rfl) hbody (by rw [startUmbelTest_mailboxes, atBody_mailboxes_length])
    have htests := umbel_startUmbelTest (s := atBody cmdYrwUmbel rq k s) hexists
    refine ⟨_, rfl, ?_, ?_⟩
    · rw [umbel_of_yrw (hkeeps.sameYrw rfl)]
      exact (congrArg Umbel.phase htests).trans hphase
    · rw [umbel_of_yrw (hkeeps.sameYrw rfl)]
      exact congrArg Umbel.testResult htests
  -- YRW_KERNEL_ROLL
  · obtain ⟨haccepts, hkeeps⟩ := submit_accepted h (fun _ _ => rfl) (yrwKernelRoll_start (s := atBody cmdYrwKernelRoll rq k s) hkernel
      haction hslot hper hper' hlimit hcanary hseal hnone hstaged himage hgood hmajor) (atBody_mailboxes_length ..)
    exact ⟨_, rfl, haccepts, hkeeps.sameYrw rfl⟩

end Sys2Proof.Machine
end

section
/-!
PROOFS. O34 and O35: a table of running invocations that lists a floret twice keeps the second entry when the first is removed, which both
statements leave out.
-/

namespace Sys2Proof.Machine

/-! ## The counterexample -/

/-- An invocation of LEDGER_ACCOUNT that has its page and runs. -/
def listedInvocation : Invocation where
  task := 0
  workload := 0
  kernel := 0x0201
  label := 0
  unit := 0
  epoch := 0

/-- A module whose umbel 0 is FENCED and still held in reset (R185), and whose table of running invocations lists floret 0 twice. No run
builds such a table (`Tab.put` keeps numbers apart), but the statements speak of every state. -/
def twiceListedModule : State := { State.reset with
  yrw := { umbels := [{ phase := .fenced, inReset := true }], running := [(0, listedInvocation), (0, listedInvocation)] } }

/-- The watchdog's task fault takes one entry off the floret (R183); with no roll and no umbel that drains, nothing follows it. -/
theorem twiceListedModule_watchdog :
    Tab.get (retireDrained 0 (rollLoad (taskFault 0 twiceListedModule))).yrw.running 0 = some listedInvocation := by
  decide +kernel

/-- The drain gives back one invocation of each of the umbel's florets (R185 step 4). -/
theorem twiceListedModule_drained :
    Tab.get (rollLoad (fenceDrained 0 twiceListedModule)).yrw.running 0 = some listedInvocation := by
  decide +kernel

theorem exec_watchdogExpiry_running {f : Nat} {i : Invocation} {s : State} (hrun : Tab.get s.yrw.running f = some i)
    (hstalled : i.stalled = false) : exec (.watchdogExpiry f) s = .next (retireDrained (f / 16) (rollLoad (taskFault f s))) := by
  change execWatchdogExpiry f s = _
  simp [execWatchdogExpiry, hrun, hstalled]

/-- Refutes O34: its clauses about the watchdog say of every state that the floret runs nothing afterwards; in `twiceListedModule` the
second entry of floret 0 is left. -/
theorem not_kernelsRunOnFlorets : ¬ Obligations.KernelsRunOnFlorets := by
  unfold Obligations.KernelsRunOnFlorets
  intro h
  obtain ⟨-, -, -, -, -, -, -, -, hwatchdog, -⟩ := h twiceListedModule 0
  obtain ⟨t, ht, hnone, -⟩ := hwatchdog listedInvocation rfl rfl
  rw [exec_watchdogExpiry_running rfl rfl] at ht
  cases ht
  exact Option.some_ne_none _ (twiceListedModule_watchdog.symm.trans hnone)

/-- Refutes O35: its clause about a drain says of every state that none of the umbel's florets runs anything afterwards; in
`twiceListedModule` the second entry of floret 0 is left. -/
theorem not_umbelsAreWatched : ¬ Obligations.UmbelsAreWatched := by
  unfold Obligations.UmbelsAreWatched
  intro h
  obtain ⟨-, -, -, -, -, -, -, -, hdrain, -⟩ := h twiceListedModule 0 (by decide) (by decide)
  obtain ⟨t, ht, -, hnone⟩ := hdrain rfl rfl
  change Host.Outcome.next (rollLoad (fenceDrained 0 twiceListedModule)) = .next t at ht
  cases ht
  exact Option.some_ne_none _ (twiceListedModule_drained.symm.trans (hnone 0 (by decide)))

end Sys2Proof.Machine
end

section
/-!
SUPPORT. What a release of the baton leaves in the pair part and in the mailboxes (R551, R552 of 16).
-/

namespace Sys2Proof.Machine

/-! ## The pair part -/

theorem duty_eq_of_keeps {s t : State} (k : Keeps (allBut .duty) s s → Keeps (allBut .duty) s t) : t.duty = s.duty :=
  (k (Keeps.refl _ s)).sameDuty rfl

/-- The pair part but for what a commit or an abort notes in it: messages sent, a fold taken, a tick that is this module's alone, a change
of role that is reported (R22, R553, R557, R561, R562). -/
def besideLedger (d : DutyState) : DutyState := { d with sent := [], ownBase := [], unshared := 0, changeDue := none }

theorem besideLedger_of_duty {s t : State} (h : t.duty = s.duty) : besideLedger t.duty = besideLedger s.duty :=
  congrArg besideLedger h

theorem besideLedger_ite {c : Prop} [Decidable c] {d : DutyState} {a b : State} (ha : besideLedger a.duty = d)
    (hb : besideLedger b.duty = d) : besideLedger (if c then a else b).duty = d := by
  split <;> assumption

theorem besideLedger_shipRecord (label : Nat) (s : State) : besideLedger (shipRecord label s).duty = besideLedger s.duty :=
  besideLedger_ite rfl rfl

theorem besideLedger_drainOldest (s : State) : besideLedger (drainOldest s).duty = besideLedger s.duty := by
  unfold drainOldest
  split
  · rfl
  · exact (foldl_field (g := fun s => besideLedger s.duty) (by exact fun _ _ => besideLedger_shipRecord ..) ..).trans
      (foldl_field (g := fun s => besideLedger s.duty) (by exact fun _ _ => besideLedger_shipRecord ..) ..)

theorem besideLedger_advanceOldest (s : State) : besideLedger (advanceOldest s).duty = besideLedger s.duty := by
  unfold advanceOldest
  split
  · exact besideLedger_ite (besideLedger_of_duty (duty_eq_of_keeps (backlogCleared_keeps rfl))) rfl
  · exact besideLedger_ite (besideLedger_drainOldest s) (besideLedger_drainOldest s)

theorem besideLedger_release (c : Consequence) (s : State) : besideLedger (release c s).duty = besideLedger s.duty := by
  cases c with
  | event => exact besideLedger_of_duty (duty_eq_of_keeps (raiseEvent_keeps rfl))
  | completion => exact besideLedger_of_duty (duty_eq_of_keeps (complete_keeps rfl))
  | tokenCount accepted => cases accepted <;> rfl
  | keypadAnswer => exact besideLedger_of_duty (duty_eq_of_keeps (tokenResult_keeps rfl))
  | credit => exact besideLedger_of_duty (duty_eq_of_keeps (queueCredit_keeps rfl))
  | pageDone => exact besideLedger_of_duty (duty_eq_of_keeps (takePage_keeps rfl))
  | history => exact besideLedger_of_duty (duty_eq_of_keeps (addHistory_keeps rfl))
  | restored => exact besideLedger_of_duty ((duty_eq_of_keeps (settleLedgerFault_keeps rfl)).trans rfl)
  | journal | journalAt | audit | removeToken | removeOrder | removeSessionOp | foldTaken | setGapTaken => rfl

theorem besideLedger_commitPair (label : Nat) (s : State) : besideLedger (commitPair label s).duty = besideLedger s.duty := by
  unfold commitPair
  extract_lets s₁ shared src s₂
  have h₁ : besideLedger s₁.duty = besideLedger s.duty := besideLedger_ite rfl rfl
  have h₂ : besideLedger s₂.duty = besideLedger s₁.duty := besideLedger_ite rfl rfl
  split
  · exact h₂.trans h₁
  · exact (besideLedger_of_duty (duty_eq_of_keeps (raiseEvent_keeps rfl))).trans (h₂.trans h₁)

theorem journalOnes_duty (label : Nat) (l : List Consequence) (hs : Nat × State) :
    (l.foldl (fun hs c => journalOne label c hs) hs).2.duty = hs.2.duty :=
  duty_eq_of_keeps (fun k => Keeps.foldlPair (fun _ _ => journalOne_keeps rfl) k)

theorem besideLedger_commitOldest (s : State) : besideLedger (commitOldest s).duty = besideLedger s.duty := by
  unfold commitOldest
  split
  · rfl
  · next t _ _ =>
    extract_lets out j r s₁ s₂ s₃ s₄
    have h₂ : s₂.duty = s.duty := journalOnes_duty t.label out (headOffset s.led.record, s)
    have h₃ : s₃.duty = s₂.duty :=
      foldl_field (f := fun s (e : Nat × LocalRec) => noteFlags e.1 e.2 s) (g := State.duty) (fun _ _ => rfl) ..
    have h₄ : besideLedger s₄.duty = besideLedger s₃.duty :=
      foldl_field (g := fun s => besideLedger s.duty) (fun _ _ => besideLedger_release ..) ..
    calc besideLedger (advanceOldest (commitPair t.label (balanceCommit t.label s₄))).duty
        _ = besideLedger (balanceCommit t.label s₄).duty := (besideLedger_advanceOldest _).trans (besideLedger_commitPair ..)
        _ = besideLedger s₄.duty := besideLedger_of_duty (duty_eq_of_keeps (balanceCommit_keeps rfl))
        _ = besideLedger s.duty := h₄.trans (besideLedger_of_duty (h₃.trans h₂))

theorem besideLedger_commitClosed (ok : OpenTick → Bool) (n : Nat) (s : State) :
    besideLedger (commitClosed ok n s).duty = besideLedger s.duty := by
  fun_induction commitClosed with
  | case3 s n t ts hticks hok ih => rw [ih, besideLedger_commitOldest]
  | case1 | case2 | case4 => rfl

theorem besideLedger_dropTick (powerDown : Bool) (t : OpenTick) (s : State) :
    besideLedger (dropTick powerDown t s).duty = besideLedger s.duty := by
  unfold dropTick
  extract_lets carried toks s₁ s₂ s₃
  have h₂ : s₂.duty = s.duty := (duty_eq_of_keeps (dropTasks_keeps rfl)).trans rfl
  have h₃ : besideLedger s₃.duty = besideLedger s₂.duty := besideLedger_ite rfl rfl
  have htokens : (toks.foldl (fun s x => refuseToken x s) s₃).duty = s₃.duty :=
    foldl_field (g := State.duty) (fun _ _ => duty_eq_of_keeps (refuseToken_keeps rfl)) ..
  exact (besideLedger_of_duty htokens).trans (h₃.trans (besideLedger_of_duty h₂))

theorem besideLedger_abortFrom (powerDown : Bool) (p : OpenTick → Bool) (s : State) :
    besideLedger (abortFrom powerDown p s).duty = besideLedger s.duty := by
  unfold abortFrom
  extract_lets gone before s₁ s₂
  have h₁ : besideLedger s₁.duty = besideLedger s.duty :=
    foldl_field (g := fun s => besideLedger s.duty) (fun _ _ => besideLedger_dropTick ..) ..
  have h₂ : s₂.duty = s₁.duty := duty_eq_of_keeps (fun k => settleAhead_keeps rfl k (fun _ _ _ _ h => h))
  have hshort : (reportShort before s₂).duty = s₂.duty := duty_eq_of_keeps (reportShort_keeps rfl)
  exact besideLedger_ite rfl
    ((besideLedger_advanceOldest _).trans ((besideLedger_of_duty (hshort.trans h₂)).trans h₁))

theorem besideLedger_releaseLedger (s : State) : besideLedger (releaseLedger s).duty = besideLedger s.duty :=
  (besideLedger_abortFrom ..).trans (besideLedger_commitClosed ..)

theorem setSync_duty (new : SyncPhase) (cause : Nat) (s : State) : (setSync new cause s).duty = { s.duty with sync := new } := by
  unfold setSync
  extract_lets old
  split
  next h => rw [← h]
  next => exact (duty_eq_of_keeps (raiseEvent_keeps rfl)).trans rfl

theorem toRole_duty (new : PairRole) (cause : Nat) (s : State) : (toRole new cause s).duty = { s.duty with role := new } := by
  unfold toRole
  split
  next h => rw [← h]
  next =>
    have hevent (old : PairRole) (u : State) : (dutyEvent old cause u).duty = u.duty := duty_eq_of_keeps (raiseEvent_keeps rfl)
    exact (duty_eq_of_keeps (traceMode_keeps rfl)).trans (hevent ..)

/-- A duty that releases the baton is without a role, both lines up, unless SS7 has been opened on it (R551, R552). -/
theorem releaseBaton_of_duty {s : State} (hheld : s.duty.ownLow = true) (hduty : s.duty.role = .duty) (hpair : s.duty.singleNext = false)
    (cause : Nat) : (releaseBaton cause s).duty.role = .undecided ∧ (releaseBaton cause s).duty.ownLow = false ∧
      (releaseBaton cause s).duty.holding = false := by
  unfold releaseBaton
  extract_lets wasDuty s₁ s₂ s₃ s₄ next s₅
  have hwas : wasDuty = true := by simp [wasDuty, hduty]
  have h₁ : s₁.duty = { s.duty with holding := false } := (duty_eq_of_keeps (driversChanged_keeps rfl)).trans rfl
  have h₂ : besideLedger s₂.duty = besideLedger s₁.duty := besideLedger_ite (besideLedger_releaseLedger s₁) rfl
  have hholding : s₂.duty.holding = false := (congrArg DutyState.holding h₂ :).trans (by rw [h₁]; rfl)
  have hsingle : s₂.duty.singleNext = false := (congrArg DutyState.singleNext h₂ :).trans (by rw [h₁]; exact hpair)
  have h₄ : s₄.duty = s₃.duty := duty_eq_of_keeps (endFault_keeps rfl)
  have h₅ : s₅.duty = { s₄.duty with sync := .none } := (duty_eq_of_keeps (stemRelease_keeps rfl)).trans (setSync_duty ..)
  have hnext : next = .undecided := if_neg (by simp [h₄, s₃, hsingle])
  rw [if_neg (by simp [hheld]), if_pos hwas, duty_eq_of_keeps (reviewPoints_keeps rfl), toRole_duty, setDuty_duty, h₅, h₄]
  exact ⟨hnext, rfl, hholding⟩

/-! ## The mailboxes -/

@[simp] theorem mirrorSend_host (kind tick : Nat) (s : State) : (mirrorSend kind tick s).host = s.host := rfl

@[simp] theorem reportShort_mailboxes (before : Bool) (s : State) : (reportShort before s).host.mailboxes = s.host.mailboxes := by
  unfold reportShort
  split
  · exact raiseWith_mailboxes ..
  · rfl

@[simp] theorem abortFrom_mailboxes (powerDown : Bool) (p : OpenTick → Bool) (s : State) :
    (abortFrom powerDown p s).host.mailboxes = s.host.mailboxes := by
  unfold abortFrom
  extract_lets gone before s₁ s₂
  have h₁ : s₁.host = s.host := host_eq_of_keeps (fun k => Keeps.foldl (fun _ _ => dropTick_keeps rfl) k)
  have h₂ : s₂.host = s₁.host := host_eq_of_keeps (fun k => settleAhead_keeps rfl k (fun _ _ _ _ h => h))
  split
  · rfl
  · rw [host_eq_of_keeps (advanceOldest_keeps rfl), reportShort_mailboxes, h₂, h₁]

@[simp] theorem releaseLedger_mailboxes (s : State) : (releaseLedger s).host.mailboxes = s.host.mailboxes := by
  unfold releaseLedger
  rw [abortFrom_mailboxes, host_eq_of_keeps (commitClosed_keeps rfl)]

@[simp] theorem releaseBaton_mailboxes (cause : Nat) (s : State) : (releaseBaton cause s).host.mailboxes = s.host.mailboxes := by
  unfold releaseBaton
  extract_lets wasDuty s₁ s₂ s₃ s₄ next s₅
  have h₁ : s₁.host = s.host := (host_eq_of_keeps (driversChanged_keeps rfl)).trans rfl
  have h₂ : s₂.host.mailboxes = s₁.host.mailboxes := by
    unfold s₂
    split
    · exact releaseLedger_mailboxes s₁
    · rfl
  have h₄ : s₄.host = s₂.host := (endFault_host ..).trans rfl
  have h₅ : s₅.host = s₄.host := (host_eq_of_keeps (stemRelease_keeps rfl)).trans (host_eq_of_keeps (setSync_keeps rfl))
  split
  · rfl
  · split
    · rw [host_eq_of_keeps (reviewPoints_keeps rfl), host_eq_of_keeps (toRole_keeps rfl), setDuty_host, h₅, h₄, h₂, h₁]
    · rw [h₄, h₂, h₁]

end Sys2Proof.Machine
end

section
/-!
PROOFS. O14: the MEM_ commands (R224 to R227 of 07) and the DUTY_ commands (R569 to R572 of 16).
-/

namespace Sys2Proof.Machine

/-! ## MEM_STATUS, MEM_ARB_READ and MEM_ARB_STATS -/

section
variable {x : Ctx} {s : State}

theorem memStatus_reads : ∃ p, cmdMemStatus.body x s = okWith p s ∧ p.length = 48 ∧ rd p 8 4 = s.mem.dramUncorrected % 2 ^ 32 ∧
    rd p 16 4 = s.mem.spareFree % 2 ^ 32 ∧ rd p 20 4 = s.mem.lstoreCorrected % 2 ^ 32 ∧
    rd p 24 4 = s.mem.lstoreUncorrected % 2 ^ 32 ∧ rd p 32 1 = (activeB s).toNat :=
  ⟨_, rfl, by
    have hbit : (activeB s).toNat % 256 = (activeB s).toNat := Nat.mod_eq_of_lt (Nat.lt_of_lt_of_le (Bool.toNat_lt _) (by decide))
    simp [rd_append_right, rd_le_append, hbit]⟩

/-- MEM_ARB_READ of the active table, or of the pending one where there is one (R225). -/
theorem memArbRead_reads {t : ArbTable} (harbiter : rd x.p 0 1 ≤ 4) (hwhich : rd x.p 1 1 ≤ 1) (hresv : rd x.p 2 2 = 0)
    (htable : (if rd x.p 1 1 = 0 then some (arbiter s (rd x.p 0 1)).table else (arbiter s (rd x.p 0 1)).pending) = some t) :
    ∃ p, cmdMemArbRead.body x s = okWith p s ∧ rd p 0 1 = rd x.p 0 1 ∧ rd p 4 4 = t.waitUs % 2 ^ 32 ∧
      rd p 8 8 = t.activation % 2 ^ 64 := by
  have hbyte : rd x.p 0 1 % 256 = rd x.p 0 1 := Nat.mod_eq_of_lt (by omega)
  simp only [cmdMemArbRead, htable]
  rw [checked_of_all (by simp [inRange, field, resv, harbiter, hwhich, hresv])]
  exact ⟨_, rfl, by simp [rd_append_right, rd_le_append, hbyte]⟩

theorem memArbStats_reads (harbiter : rd x.p 0 1 ≤ 4) (hrequester : rd x.p 1 1 < (requesters (rd x.p 0 1)).length)
    (hnumber : rd x.p 1 1 ≤ 14) (hresv : rd x.p 2 2 = 0) : ∃ p, cmdMemArbStats.body x s = okWith p s ∧ p.length = 40 ∧
      rd p 0 8 = (Tab.getD (arbiter s (rd x.p 0 1)).stats (rd x.p 1 1) {}).grants % 2 ^ 64 ∧
      rd p 8 8 = (Tab.getD (arbiter s (rd x.p 0 1)).stats (rd x.p 1 1) {}).beats % 2 ^ 64 ∧
      rd p 16 8 = (Tab.getD (arbiter s (rd x.p 0 1)).stats (rd x.p 1 1) {}).discarded % 2 ^ 64 := by
  simp only [cmdMemArbStats, if_neg (Nat.not_le.mpr hrequester)]
  rw [checked_of_all (by simp [inRange, resv, harbiter, hnumber, hresv])]
  exact ⟨_, rfl, by simp [rd_append_right, rd_le_append]⟩

end

/-! ## MEM_ARB_SET -/

/-- What holds of every entry of a list and of the default holds wherever the list is read. -/
theorem getD_of_forall {α : Type} {P : α → Prop} {l : List α} {d : α} (hl : ∀ r ∈ l, P r) (hd : P d) (i : Nat) : P (l.getD i d) := by
  rw [List.getD_eq_getElem?_getD]
  cases hi : l[i]? with
  | none => exact hd
  | some r => exact hl r (List.mem_of_getElem? hi)

/-- A table as an arbiter takes it (R221): its slots, its burst limits and its ranking name the arbiter's requesters, each at most once
in the ranking, and the requesters that must be served in every gap are. -/
structure TableInOrder (a : Nat) (t : ArbTable) : Prop where
  slots : ∀ r ∈ t.slots, r < (requesters a).length ∨ r = 15
  gaps : (requesters a).zipIdx.all (fun x => x.1.gap == 0 || gapKept t.slots x.2 x.1.gap) = true
  burst : ∀ i, i < 16 → (if i < (requesters a).length then 1 ≤ t.burst.getD i 0 ∧ t.burst.getD i 0 ≤ 64 else t.burst.getD i 0 = 0)
  ranking : ∀ r ∈ t.ranking, r < (requesters a).length
  nodup : t.ranking.Nodup

section
variable {a : Nat} {t : ArbTable}

/-- Each byte of the slot table passes its check. -/
theorem TableInOrder.slotChecks (h : TableInOrder a t) :
    ((List.range 128).map (fun k => field (16 + k)
      ((decide (t.slots.getD (2 * k) 15 < (requesters a).length) || t.slots.getD (2 * k) 15 == 15) &&
        (decide (t.slots.getD (2 * k + 1) 15 < (requesters a).length) || t.slots.getD (2 * k + 1) 15 == 15)))).all (·.2.2) = true := by
  have hknown (i : Nat) : t.slots.getD i 15 < (requesters a).length ∨ t.slots.getD i 15 = 15 := getD_of_forall h.slots (Or.inr rfl) i
  simp only [List.all_map, List.all_eq_true, Function.comp_apply, field, Bool.and_eq_true, Bool.or_eq_true, decide_eq_true_eq, beq_iff_eq]
  exact fun k _ => ⟨hknown _, hknown _⟩

/-- Each burst limit passes both of its checks. -/
theorem TableInOrder.burstChecks (h : TableInOrder a t) :
    ((List.range 16).flatMap (fun i =>
      [field (144 + i) (if i < (requesters a).length then t.burst.getD i 0 != 0 else t.burst.getD i 0 == 0),
        inRange (144 + i) (t.burst.getD i 0 ≤ 64)])).all (·.2.2) = true := by
  simp only [List.all_flatMap, List.all_eq_true, List.mem_range]
  intro i hi
  have hburst := h.burst i hi
  generalize t.burst.getD i 0 = limit at hburst ⊢
  split at hburst
  next hreq => simp [field, inRange, hreq, hburst.2, Nat.ne_of_gt hburst.1]
  next hreq => simp [field, inRange, hreq, hburst]

/-- Each place of the ranking passes its check. -/
theorem TableInOrder.rankingChecks (h : TableInOrder a t) :
    ((List.range t.ranking.length).map (fun j => field (160 + j / 2) (decide (t.ranking.getD j 15 < (requesters a).length) &&
      !(t.ranking.take j).contains (t.ranking.getD j 15)))).all (·.2.2) = true := by
  simp only [List.all_map, List.all_eq_true, List.mem_range, Function.comp_apply, field, Bool.and_eq_true, decide_eq_true_eq]
  intro j hj
  rw [List.getD_eq_getElem?_getD, List.getElem?_eq_getElem hj, Option.getD_some]
  refine ⟨h.ranking _ (List.getElem_mem hj), ?_⟩
  have hfresh : t.ranking[j] ∉ t.ranking.take j := by
    intro hmem
    obtain ⟨i, hi, heq⟩ := List.mem_take_iff_getElem.mp hmem
    have hij : i < j := Nat.lt_of_lt_of_le hi (Nat.min_le_left ..)
    exact List.pairwise_iff_getElem.mp h.nodup i j (Nat.lt_trans hij hj) hj hij heq
  simpa using hfresh

end

@[simp] theorem setArbiter_host (a : Nat) (f : Arbiter → Arbiter) (s : State) : (setArbiter a f s).host = s.host := rfl

section
variable {x : Ctx} {s : State}

/-- A table without an activation tick of its own becomes pending for three ticks ahead (R226). -/
theorem memArbSet_body (hask : rd x.p 8 8 = 0) (harbiter : rd x.p 0 1 ≤ 4) (hresv : rd x.p 1 3 = 0)
    (hwait : rd x.p 4 4 = 0 ∨ (10 ≤ rd x.p 4 4 ∧ rd x.p 4 4 ≤ 1000000))
    (htable : TableInOrder (rd x.p 0 1) (arbTableOf x.p (now s + 3))) (hfree : (arbiter s (rd x.p 0 1)).pending = none) :
    cmdMemArbSet.body x s = okWith (le 8 (now s + 3))
      (setArbiter (rd x.p 0 1) (fun y => { y with pending := some (arbTableOf x.p (now s + 3)) }) s) := by
  have hlimit : (rd x.p 4 4 == 0 || (decide (10 ≤ rd x.p 4 4) && decide (rd x.p 4 4 ≤ 1000000))) = true := by simpa using hwait
  simp only [cmdMemArbSet, hask, if_true, hfree]
  rw [checked_of_all]
  simp only [List.all_append, htable.slotChecks, htable.burstChecks, htable.rankingChecks, Bool.and_true]
  simp only [List.all_cons, List.all_nil, inRange, field, resv, htable.gaps, hlimit]
  simp [harbiter, hresv]

end

/-! ## DUTY_STATUS, DUTY_YIELD, DUTY_TAKEOVER and DUTY_RESYNC -/

section
variable {x : Ctx} {s : State}

theorem dutyStatus_reads : ∃ p, cmdDutyStatus.body x s = okWith p s ∧ p.length = 52 ∧ rd p 0 1 = s.duty.role.code % 256 ∧
    rd p 1 1 = s.duty.sync.code % 256 ∧ rd p 4 4 = epochNow s % 2 ^ 32 ∧ rd p 8 4 = s.duty.peerEpoch % 2 ^ 32 ∧
    rd p 16 8 = s.duty.peerSerial % 2 ^ 64 ∧ rd p 24 8 = s.duty.peerFrontier % 2 ^ 64 ∧ rd p 32 8 = s.duty.lastAcked % 2 ^ 64 :=
  ⟨_, rfl, by simp [rd_append_right, rd_le_append]⟩

theorem dutyYield_body (hresv : rd x.p 4 4 = 0) (hepoch : rd x.p 0 4 = epochNow s) (hduty : s.duty.role = .duty)
    (hsync : s.duty.sync = .inSync) : cmdDutyYield.body x s =
      .accepted [] (setDuty (fun d => { d with yieldRef := some x.ref }) (releaseBaton 2 (mirrorSend 10 s.duty.epoch s))) := by
  simp only [cmdDutyYield]
  rw [checked_of_all (by simp [resv, hresv])]
  simp [hepoch, hduty, hsync]

theorem dutyTakeover_body (hresv : rd x.p 4 4 = 0) (hepoch : rd x.p 0 4 = s.duty.peerEpoch) (hstandby : s.duty.role = .standby)
    (hmay : mayClaim (setDuty (fun d => { d with forced := true }) s) = true) : cmdDutyTakeover.body x s =
      okWith (le 4 (claimEpoch s) ++ le 8 (frontier s)) (claimBaton (setDuty (fun d => { d with forced := true }) s)) := by
  simp only [cmdDutyTakeover]
  rw [checked_of_all (by simp [resv, hresv])]
  simp [hepoch, hstandby, hmay]

theorem dutyResync_body (hforce : rd x.p 0 1 ≤ 1) (hresv : rd x.p 1 3 = 0) (hepoch : rd x.p 4 4 = s.duty.peerEpoch)
    (hstandby : s.duty.role = .standby) (hcontact : s.duty.contact = true) (hsync : s.duty.sync = .outOfSync) :
    cmdDutyResync.body x s = .accepted []
      (startCopy (setDuty (fun d => { d with resyncRef := some x.ref, resyncDiscarded := 0, unshared := 0 }) s)) := by
  simp only [cmdDutyResync]
  rw [checked_of_all (by simp [inRange, resv, hforce, hresv])]
  simp [hepoch, hstandby, hcontact, hsync]

theorem startCopy_duty (s : State) :
    (startCopy s).duty = { s.duty with copyPermille := 0, records := [], journalHeld := [], acked := [], sync := .copying } :=
  setSync_duty ..

@[simp] theorem startCopy_host (s : State) : (startCopy s).host = s.host := host_eq_of_keeps (startCopy_keeps rfl)

end

/-! ## The obligation -/

/-- Settles O14, clause by clause: what a body answers is read back from the mailbox, and what it leaves in the memory or in the pair part
stands beside the envelope. -/
theorem memoryAndDutyCommandsTakeEffect : Obligations.MemoryAndDutyCommandsTakeEffect := by
  unfold Obligations.MemoryAndDutyCommandsTakeEffect
  intro s rq k
  refine ⟨fun h => ?_, fun h harbiter hwhich hresv => ?_, fun t h harbiter hwhich hresv hpending => ?_,
    fun h hask harbiter hresv hwait hslots hgaps hburst hranking hnodup hfree => ?_, fun h harbiter hrequester hnumber hresv => ?_,
    fun h => ?_, fun h hresv hepoch hduty hsync hheld hpair => ?_, fun h hresv hepoch hstandby hmay => ?_,
    fun h hforce hresv hepoch hstandby hcontact hsync => ?_⟩
  -- MEM_STATUS
  · exact ⟨_, rfl, submit_read h (fun _ _ => rfl) memStatus_reads⟩
  -- MEM_ARB_READ of the active and of the pending table
  · obtain ⟨p, hbody, hreads⟩ := memArbRead_reads (x := bodyCtx cmdMemArbRead rq k s) (s := atBody cmdMemArbRead rq k s)
      harbiter (Nat.le_trans (Nat.le_of_eq hwhich) (Nat.zero_le 1)) hresv (if_pos hwhich)
    obtain ⟨hreports, -⟩ := submit_ok h (fun _ _ => rfl) hbody (atBody_mailboxes_length ..)
    exact ⟨_, rfl, p, hreports, hreads⟩
  · obtain ⟨p, hbody, hreads⟩ := memArbRead_reads (x := bodyCtx cmdMemArbRead rq k s) (s := atBody cmdMemArbRead rq k s)
      harbiter (Nat.le_of_eq hwhich) hresv ((if_neg fun hactive => Nat.one_ne_zero (hwhich.symm.trans hactive)).trans hpending)
    obtain ⟨hreports, -⟩ := submit_ok h (fun _ _ => rfl) hbody (atBody_mailboxes_length ..)
    exact ⟨_, rfl, p, hreports, hreads⟩
  -- MEM_ARB_SET and MEM_ARB_STATS
  · obtain ⟨hreports, hkeeps⟩ := submit_ok h (fun _ _ => rfl) (memArbSet_body (x := bodyCtx cmdMemArbSet rq k s)
      (s := atBody cmdMemArbSet rq k s) hask harbiter hresv hwait ⟨hslots, hgaps, hburst, hranking, hnodup⟩ hfree) (by simp)
    exact ⟨_, rfl, ⟨_, hreports, length_le .., rd_le ..⟩, hkeeps.sameMem rfl⟩
  · exact ⟨_, rfl, submit_read h (fun _ _ => rfl) (memArbStats_reads (s := atBody cmdMemArbStats rq k s) harbiter hrequester hnumber
      hresv)⟩
  -- DUTY_STATUS and DUTY_YIELD
  · exact ⟨_, rfl, submit_read h (fun _ _ => rfl) (dutyStatus_reads (s := atBody cmdDutyStatus rq k s))⟩
  · obtain ⟨haccepts, hkeeps⟩ := submit_accepted h (fun _ _ => rfl)
      (dutyYield_body (s := atBody cmdDutyYield rq k s) hresv hepoch hduty hsync)
      (by simp)
    obtain ⟨hrole, hup, hloose⟩ :=
      releaseBaton_of_duty (s := mirrorSend 10 s.duty.epoch (atBody cmdDutyYield rq k s)) hheld hduty hpair 2
    refine ⟨_, rfl, haccepts, ?_⟩
    rw [hkeeps.sameDuty rfl]
    exact ⟨rfl, hrole, hup, hloose⟩
  -- DUTY_TAKEOVER and DUTY_RESYNC
  · obtain ⟨hreports, hkeeps⟩ := submit_ok h (fun _ _ => rfl)
      (dutyTakeover_body (s := atBody cmdDutyTakeover rq k s) hresv hepoch hstandby hmay) (by simp [claimBaton])
    have hclaim := hkeeps.sameDuty rfl
    refine ⟨_, rfl, ?_, ?_, ?_, _, hreports, ?_⟩
    · rw [hclaim]; rfl
    · rw [hclaim]; rfl
    · rw [hclaim]; rfl
    · exact ⟨rd_le_append .., by simp [rd_append_right, rd_le]⟩
  · obtain ⟨haccepts, hkeeps⟩ := submit_accepted h (fun _ _ => rfl)
      (dutyResync_body (s := atBody cmdDutyResync rq k s) hforce hresv hepoch hstandby hcontact hsync)
      (by simp)
    refine ⟨_, rfl, haccepts, ?_⟩
    rw [hkeeps.sameDuty rfl, startCopy_duty]
    exact ⟨rfl, rfl⟩

end Sys2Proof.Machine
end

section
/-!
SUPPORT. What an arbiter's decision and its wait limit leave in the arbiter (R215 to R219, R222 of 07).
-/

namespace Sys2Proof.Machine

/-! ## One arbiter after a change -/

theorem mem_eq_of_keeps {s t : State} (k : Keeps (allBut .mem) s s → Keeps (allBut .mem) s t) : t.mem = s.mem :=
  (k (Keeps.refl _ s)).sameMem rfl

section
variable (a : Nat) (f : Arbiter → Arbiter) (s : State)

@[simp] theorem setArbiter_length : (setArbiter a f s).mem.arbiters.length = s.mem.arbiters.length := List.length_modify ..
@[simp] theorem setArbiter_pwr : (setArbiter a f s).pwr = s.pwr := rfl
@[simp] theorem setArbiter_yrw : (setArbiter a f s).yrw = s.yrw := rfl
@[simp] theorem setArbiter_pdSchedule : (setArbiter a f s).mem.pdSchedule = s.mem.pdSchedule := rfl

end

theorem arbiter_of_mem {s t : State} (h : t.mem = s.mem) (a : Nat) : arbiter t a = arbiter s a := by
  simp only [arbiter, h]

theorem arbiter_setArbiter {a : Nat} {s : State} (ha : a < s.mem.arbiters.length) (f : Arbiter → Arbiter) :
    arbiter (setArbiter a f s) a = f (arbiter s a) := by
  simp [arbiter, setArbiter, modAt, ha]

/-- A change that leaves the arbiter as it is changes nothing. -/
theorem setArbiter_of_fixed {a : Nat} {f : Arbiter → Arbiter} {s : State} (hf : f (arbiter s a) = arbiter s a) :
    setArbiter a f s = s := by
  have hmodify : s.mem.arbiters.modify a f = s.mem.arbiters := by
    refine List.ext_getElem (List.length_modify ..) fun i hi hi' => ?_
    rw [List.getElem_modify]
    split
    next hia =>
      subst hia
      simpa [arbiter, hi'] using hf
    next => rfl
  simp [setArbiter, modAt, hmodify]

/-- Who may ask depends on the supply and the umbels alone (R215, R222). -/
theorem askPasses_congr {s t : State} (hpwr : t.pwr = s.pwr) (hyrw : t.yrw = s.yrw) : askPasses t = askPasses s := by
  funext a r u
  have hpowered (d : Domain) : d.powered t = d.powered s := by cases d <;> simp [Domain.powered, dataPathUp, hpwr]
  have humbel (v : Nat) : umbel t v = umbel s v := umbel_of_yrw hyrw v
  simp only [askPasses, hpowered, humbel]

/-! ## What a grant does (R217) -/

/-- The arbiter once request `q` of requester `r` has been granted the port. -/
def granted (r : Nat) (q : ArbRequest) (x : Arbiter) : Arbiter :=
  { (x.count r (fun t => { t with grants := t.grants + 1, maxWaitNs := cap 0xFFFFFFFF (max t.maxWaitNs q.waitNs) })) with
    holder := some { q with granted := 0 }
    waiting := x.waiting.erase q }

/-- A grant goes to a waiting request, or there is none. -/
theorem arbGrant_cases (a : Nat) (s : State) :
    arbGrant a s = s ∨ ∃ r, ∃ q ∈ (arbiter s a).waiting, arbGrant a s = setArbiter a (granted r q) s := by
  unfold arbGrant
  extract_lets x asks pick
  clear_value pick
  split
  · exact .inl rfl
  · split
    · exact .inl rfl
    · next _ r =>
      split
      · exact .inl rfl
      · next q hfind => exact .inr ⟨r, q, List.mem_of_find?_eq_some hfind, rfl⟩

/-- The one request that waits at a free port is granted, in its requester's slot or in the background. -/
theorem arbGrant_sole {a : Nat} {s : State} {q : ArbRequest} (hholder : (arbiter s a).holder = none)
    (hwaiting : (arbiter s a).waiting = [q]) (hranked : q.requester ∈ ranking s a) : arbGrant a s = setArbiter a (granted q.requester q) s := by
  unfold arbGrant
  extract_lets x asks pick
  have hasks (r : Nat) : asks r = (q.requester == r) := by simp [asks, x, hwaiting]
  have hbackground : (ranking s a).find? asks = some q.requester := by
    obtain ⟨r, hr⟩ := Option.isSome_iff_exists.mp (List.find?_isSome.mpr ⟨_, hranked, (hasks _).trans (beq_self_eq_true _)⟩)
    have hown : q.requester = r := by simpa [hasks] using List.find?_some hr
    rw [hr, hown]
  have hpick : pick = some q.requester := by
    unfold pick
    split
    · split
      next hown => rw [eq_of_beq ((hasks _).symm.trans hown)]
      next => exact hbackground
    · exact hbackground
  have hfirst : x.waiting.find? (fun p => p.requester == q.requester) = some q := by simp [x, hwaiting]
  rw [if_neg (by simp [x, hholder]), hpick]
  simp only [hfirst]
  rfl

/-! ## No grant to a request its gates turn away (R215, R217, R218, R222) -/

/-- A state that an arbiter's decision has reached from `s`: its supply and umbels are those of `s`. -/
structure Deciding (s : State) (a : Nat) (t : State) : Prop where
  listed : a < t.mem.arbiters.length
  pwr : t.pwr = s.pwr
  yrw : t.yrw = s.yrw

/-- Neither the holder nor a waiting request is one that the gates turn away. -/
structure Gated (s : State) (a : Nat) (x : Arbiter) : Prop where
  holder : ∀ h, x.holder = some h → askPasses s a h.requester h.umbel = true
  waiting : ∀ q ∈ x.waiting, askPasses s a q.requester q.umbel = true

section
variable {s t : State} {a : Nat}

theorem Deciding.setArbiter (h : Deciding s a t) (f : Arbiter → Arbiter) : Deciding s a (setArbiter a f t) :=
  ⟨by rw [setArbiter_length]; exact h.listed, h.pwr, h.yrw⟩

theorem Deciding.asks (h : Deciding s a t) : askPasses t = askPasses s := askPasses_congr h.pwr h.yrw

theorem carryBeats_deciding (h : Deciding s a t) (beats : Nat) : Deciding s a (carryBeats a beats t) := by
  unfold carryBeats
  extract_lets x waited
  split
  · exact h.setArbiter _
  · extract_lets limit n y
    split
    · exact h.setArbiter _
    · split <;> exact h.setArbiter _

theorem dropStale_gated (h : Deciding s a t) : Deciding s a (dropStale a t) ∧ Gated s a (arbiter (dropStale a t) a) := by
  unfold dropStale
  extract_lets live
  refine ⟨h.setArbiter _, ?_⟩
  have hlive {q : ArbRequest} (hq : live q = true) : askPasses s a q.requester q.umbel = true := by rwa [← h.asks]
  rw [arbiter_setArbiter h.listed]
  refine ⟨fun y hy => ?_, fun q hq => hlive (List.mem_filter.mp hq).2⟩
  obtain ⟨-, hy⟩ := Option.filter_eq_some_iff.mp hy
  exact hlive hy

variable (h : Deciding s a t) (g : Gated s a (arbiter t a))
include h g

theorem nextSlot_gated : Deciding s a (nextSlot a t) ∧ Gated s a (arbiter (nextSlot a t) a) := by
  have hset (f : Arbiter → Arbiter) (hf : Gated s a (f (arbiter t a))) :
      Deciding s a (setArbiter a f t) ∧ Gated s a (arbiter (setArbiter a f t) a) :=
    ⟨h.setArbiter f, by rwa [arbiter_setArbiter h.listed]⟩
  unfold nextSlot
  extract_lets x k
  split
  · split
    · exact hset _ ⟨g.holder, g.waiting⟩
    · exact hset _ ⟨g.holder, g.waiting⟩
  · exact hset _ ⟨g.holder, g.waiting⟩

theorem addAsks_gated (asks : List ArbAsk) : Deciding s a (addAsks a asks t) ∧ Gated s a (arbiter (addAsks a asks t) a) := by
  unfold addAsks
  extract_lets ok
  refine ⟨h.setArbiter _, ?_⟩
  rw [arbiter_setArbiter h.listed]
  refine ⟨g.holder, fun q hq => ?_⟩
  obtain hold | hnew := List.mem_append.mp hq
  · exact g.waiting q hold
  · obtain ⟨ask, hask, rfl⟩ := List.mem_map.mp hnew
    obtain ⟨-, hpasses⟩ := List.mem_filter.mp hask
    rw [h.asks, Bool.and_eq_true] at hpasses
    exact hpasses.1

theorem arbPreempt_gated : Deciding s a (arbPreempt a t) ∧ Gated s a (arbiter (arbPreempt a t) a) := by
  unfold arbPreempt
  extract_lets x
  split
  · next y o hholder _ =>
    split
    · refine ⟨h.setArbiter _, ?_⟩
      rw [arbiter_setArbiter h.listed]
      exact ⟨nofun, List.forall_mem_cons.mpr ⟨g.holder y hholder, g.waiting⟩⟩
    · exact ⟨h, g⟩
  · exact ⟨h, g⟩

theorem arbGrant_gated : Gated s a (arbiter (arbGrant a t) a) := by
  obtain hsame | ⟨r, q, hq, hgrant⟩ := arbGrant_cases a t
  · rwa [hsame]
  · rw [hgrant, arbiter_setArbiter h.listed]
    refine ⟨fun y hy => ?_, fun p hp => g.waiting p (List.mem_of_mem_erase hp)⟩
    obtain rfl := Option.some.inj hy
    exact g.waiting q hq

end

theorem arbDecide_gated {a : Nat} {s : State} (ha : a < s.mem.arbiters.length) (hfive : a < 5) (asks : List ArbAsk) (beats : Nat)
    (newSlot : Bool) : Gated s a (arbiter (arbDecide a asks beats newSlot s) a) := by
  unfold arbDecide
  rw [if_neg (Nat.not_le.mpr hfive)]
  extract_lets t u
  obtain ⟨ht, gt⟩ := dropStale_gated (carryBeats_deciding (s := s) ⟨ha, rfl, rfl⟩ beats)
  have hu : Deciding s a u ∧ Gated s a (arbiter u a) := by
    unfold u
    split
    · exact nextSlot_gated ht gt
    · exact ⟨ht, gt⟩
  obtain ⟨hasked, gasked⟩ := addAsks_gated hu.1 hu.2 asks
  obtain ⟨hpre, gpre⟩ := arbPreempt_gated hasked gasked
  exact arbGrant_gated hpre gpre

/-! ## An idle arbiter grants the request alone (R217) -/

/-- A request as it waits once it has come (R217). -/
def asked (q : ArbAsk) : ArbRequest := { requester := q.requester, umbel := q.umbel, beats := q.beats }

/-- Port free and nobody waiting: written back, either is no change. -/
theorem arbiter_idle_eta {x : Arbiter} (hholder : x.holder = none) (hwaiting : x.waiting = []) :
    { x with waiting := [] } = x ∧ { x with holder := none, waiting := [] } = x := by
  rw [← hwaiting, ← hholder]
  exact ⟨rfl, rfl⟩

section
variable {a : Nat} {s : State}

theorem carryBeats_idle (hholder : (arbiter s a).holder = none) (hwaiting : (arbiter s a).waiting = []) (beats : Nat) :
    carryBeats a beats s = s := by
  simp only [carryBeats, hholder, hwaiting, List.map_nil]
  exact setArbiter_of_fixed (arbiter_idle_eta hholder hwaiting).1

theorem dropStale_idle (hholder : (arbiter s a).holder = none) (hwaiting : (arbiter s a).waiting = []) : dropStale a s = s := by
  refine setArbiter_of_fixed ?_
  rw [hholder, hwaiting, Option.filter_none, List.filter_nil]
  exact (arbiter_idle_eta hholder hwaiting).2

theorem arbPreempt_free (hholder : (arbiter s a).holder = none) : arbPreempt a s = s := by
  simp only [arbPreempt, hholder]

theorem addAsks_one {q : ArbAsk} (hpasses : askPasses s a q.requester q.umbel = true) (hbeats : q.beats ≠ 0) :
    addAsks a [q] s = setArbiter a (fun x => { x with waiting := x.waiting ++ [asked q] }) s := by
  simp [addAsks, hpasses, hbeats, asked]

theorem arbDecide_idle {q : ArbAsk} (hfive : a < 5) (ha : a < s.mem.arbiters.length) (hholder : (arbiter s a).holder = none)
    (hwaiting : (arbiter s a).waiting = []) (hpasses : askPasses s a q.requester q.umbel = true) (hbeats : q.beats ≠ 0)
    (hranked : q.requester ∈ ranking s a) : arbiter (arbDecide a [q] 0 false s) a =
      granted (asked q).requester (asked q) { arbiter s a with waiting := [asked q] } := by
  have hasked := arbiter_setArbiter ha (fun x => { x with waiting := x.waiting ++ [asked q] })
  rw [hwaiting, List.nil_append] at hasked
  have hranking (f : Arbiter → Arbiter) (hf : (f (arbiter s a)).table = (arbiter s a).table) :
      ranking (setArbiter a f s) a = ranking s a := by
    simp only [ranking, setArbiter_pdSchedule, arbiter_setArbiter ha, hf]
  simp only [arbDecide, if_neg (Nat.not_le.mpr hfive), Bool.false_eq_true, if_false]
  rw [carryBeats_idle hholder hwaiting, dropStale_idle hholder hwaiting, addAsks_one hpasses hbeats,
    arbPreempt_free (by rw [hasked]; exact hholder),
    arbGrant_sole (q := asked q) (by rw [hasked]; exact hholder) (by rw [hasked]) (by rwa [hranking _ rfl]),
    arbiter_setArbiter (by rwa [setArbiter_length]), hasked]

end

/-! ## A request that has waited too long is reported once (R219) -/

theorem arbWait_late {a r : Nat} {s : State} {q : ArbRequest} (ha : a < s.mem.arbiters.length) (hlimit : (arbiter s a).table.waitUs ≠ 0)
    (hlate : (arbiter s a).waiting.find? (fun q => q.requester == r && !q.reported &&
      decide (1000 * (arbiter s a).table.waitUs < q.waitNs)) = some q) :
    arbiter (arbWait a r s) a = { arbiter s a with
      waiting := (arbiter s a).waiting.map (fun p => if p = q then { p with reported := true } else p) } := by
  simp only [arbWait, hlimit, if_false, hlate]
  rw [arbiter_of_mem (mem_eq_of_keeps (raiseEvent_keeps rfl)), arbiter_setArbiter ha]

/-- Once an entry that was not reported is marked, the marked one is listed and the old one is not. -/
theorem mem_mark_reported {l : List ArbRequest} {q : ArbRequest} (hq : q ∈ l) (hfresh : q.reported = false) :
    { q with reported := true } ∈ l.map (fun p => if p = q then { p with reported := true } else p) ∧
      q ∉ l.map (fun p => if p = q then { p with reported := true } else p) := by
  refine ⟨List.mem_map.mpr ⟨q, hq, if_pos rfl⟩, fun hmem => ?_⟩
  obtain ⟨p, -, hp⟩ := List.mem_map.mp hmem
  split at hp
  · rw [← hp] at hfresh
    exact Bool.noConfusion hfresh
  · contradiction

end Sys2Proof.Machine
end

section
/-!
PROOFS. O36: the arbiters (R217, R219 of 07), the errors of DRAM and of the ledger store (R203 to R206, R210, R211 of 07) and the
restoration of an account (R313 of 09).
-/

namespace Sys2Proof.Machine

/-! ## Errors of DRAM (R203 to R206) -/

/-- The error counters of the DRAM (R224). -/
def dramCounts (s : State) : Table Nat × Nat := (s.mem.dramCorrected, s.mem.dramUncorrected)

theorem dramCounts_of_mem {s t : State} (h : t.mem = s.mem) : dramCounts t = dramCounts s := by
  simp only [dramCounts, h]

theorem dramCounts_ite {c : Prop} [Decidable c] {d : Table Nat × Nat} {a b : State} (ha : dramCounts a = d) (hb : dramCounts b = d) :
    dramCounts (if c then a else b) = d := by
  split <;> assumption

theorem dramCounts_retirePage (page pc : Nat) (s : State) : dramCounts (retirePage page pc s) = dramCounts s := by
  unfold retirePage
  extract_lets free n mem s₁ s₂
  have hfault (src d : Nat) (u : State) : dramCounts (raiseFault src d u) = dramCounts u :=
    dramCounts_of_mem (mem_eq_of_keeps (raiseFault_keeps rfl))
  have h₂ : dramCounts s₂ = dramCounts s := (dramCounts_of_mem (mem_eq_of_keeps (raiseEvent_keeps rfl))).trans rfl
  split
  · exact hfault ..
  · split
    · exact (hfault ..).trans h₂
    · exact h₂

/-- What follows a DRAM error beside its count leaves the counts (R205, R206). -/
theorem dramCounts_dramError (addr : Nat) (uncorrectable : Bool) (floret : Option Nat) (injected : Bool) (s : State) :
    dramCounts (dramError addr uncorrectable floret injected s) =
      (if uncorrectable then s.mem.dramCorrected else Tab.upd s.mem.dramCorrected (pseudoChannel addr) 0 (· + 1),
        if uncorrectable then (s.mem.dramUncorrected + 1) % 2 ^ 32 else s.mem.dramUncorrected) := by
  unfold dramError
  extract_lets pc page mem s₁ s₂ s₃ s₄ s₅
  have hreport (src : Nat) : dramCounts (reportWith src 1 injected s₂) = dramCounts s₂ :=
    dramCounts_of_mem (mem_eq_of_keeps (reportWith_keeps rfl))
  have h₂ : dramCounts s₂ = dramCounts s₁ := dramCounts_of_mem (mem_eq_of_keeps (raiseEvent_keeps rfl))
  have h₃ : dramCounts s₃ = dramCounts s₂ := dramCounts_ite (hreport 0x40) (hreport 0x43)
  have h₄ : dramCounts s₄ = dramCounts s₃ := dramCounts_ite rfl rfl
  have h₅ : dramCounts s₅ = dramCounts s₄ := dramCounts_ite (dramCounts_of_mem (mem_eq_of_keeps (dramLost_keeps rfl))) rfl
  have hcounted : dramCounts s₅ = dramCounts s₁ := h₅.trans (h₄.trans (h₃.trans h₂))
  exact dramCounts_ite ((dramCounts_retirePage ..).trans hcounted) hcounted

theorem dramError_counts (addr : Nat) (uncorrectable : Bool) (floret : Option Nat) (injected : Bool) (s : State) :
    (dramError addr uncorrectable floret injected s).mem.dramCorrected =
        (if uncorrectable then s.mem.dramCorrected else Tab.upd s.mem.dramCorrected (pseudoChannel addr) 0 (· + 1)) ∧
      (dramError addr uncorrectable floret injected s).mem.dramUncorrected =
        if uncorrectable then (s.mem.dramUncorrected + 1) % 2 ^ 32 else s.mem.dramUncorrected :=
  Prod.mk.inj (dramCounts_dramError addr uncorrectable floret injected s)

theorem exec_dramEccError {addr : Nat} {s : State} (hon : s.pwr.computeOn = true) (haddr : addr < 0xC00000000)
    (hnone : Tab.get s.flt.injections 0 = none) (uncorrectable : Bool) (floret : Option Nat) :
    exec (.dramEccError addr uncorrectable floret) s = .next (dramError addr uncorrectable floret false s) := by
  change execDramEccError addr uncorrectable floret s = _
  simp [execDramEccError, takeInjection, hon, Nat.not_le.mpr haddr, hnone]

/-! ## Errors of the ledger store (R210, R211) -/

theorem exec_lstoreReadError {addr : Nat} {s : State} (hon : s.pwr.vigilOn = true) (haddr : addr < 2 ^ 30)
    (hnone : Tab.get s.flt.injections 3 = none) (uncorrectable : Bool) :
    exec (.lstoreReadError addr uncorrectable) s = .next (lstoreError addr uncorrectable false s) := by
  change execLstoreReadError addr uncorrectable s = _
  have hlow : ¬ 1073741824 ≤ addr := Nat.not_le.mpr haddr
  simp [execLstoreReadError, takeInjection, hon, hlow, hnone]

/-- What follows an error of the ledger store beside its count leaves the memory part (R211). -/
theorem lstoreError_mem (addr : Nat) (uncorrectable injected : Bool) (s : State) :
    (lstoreError addr uncorrectable injected s).mem = { s.mem with
      lstoreCorrected := if uncorrectable then s.mem.lstoreCorrected else (s.mem.lstoreCorrected + 1) % 2 ^ 32
      lstoreUncorrected := if uncorrectable then (s.mem.lstoreUncorrected + 1) % 2 ^ 32 else s.mem.lstoreUncorrected } := by
  unfold lstoreError
  extract_lets row mem s₁ s₂
  have h₂ : s₂.mem = s₁.mem := mem_eq_of_keeps (raiseEvent_keeps rfl)
  have hrest {u : State} (hu : u.mem = s₂.mem) : u.mem = s₁.mem := hu.trans h₂
  split
  · exact hrest (mem_eq_of_keeps (reportWith_keeps rfl))
  · split
    · exact hrest (mem_eq_of_keeps (damageAccount_keeps rfl))
    · split
      · exact hrest (mem_eq_of_keeps (loseJournal_keeps rfl))
      · split
        · exact hrest (mem_eq_of_keeps (loseConfig_keeps rfl))
        · exact h₂

theorem led_eq_of_keeps {s t : State} (k : Keeps (allBut .led) s s → Keeps (allBut .led) s t) : t.led = s.led :=
  (k (Keeps.refl _ s)).sameLed rfl

/-- A corrected error is counted and reported, and the ledger stays (R211). -/
theorem lstoreError_corrected_led (addr : Nat) (injected : Bool) (s : State) : (lstoreError addr false injected s).led = s.led := by
  unfold lstoreError
  extract_lets row mem s₁ s₂
  have h₂ : s₂.led = s₁.led := led_eq_of_keeps (raiseEvent_keeps rfl)
  exact (led_eq_of_keeps (reportWith_keeps rfl)).trans h₂

/-! ## The restoration of an account from the standby (R211, R313) -/

theorem exec_accountRestoreStandby {a : Nat} {s : State} (hdamaged : accountDamaged s a = true) (hcontact : s.duty.contact = true)
    (hsync : s.duty.sync = .inSync) (hfresh : ∀ o ∈ s.led.orders, o.ref ≠ restoreRef a) (image : Bytes) :
    exec (.accountRestoreStandby a image) s = .next (setLed (fun l => { l with orders := l.orders ++ [{
      ref := restoreRef a, opcode := 0x0606, account := a, acceptedAt := s.time.uptime, body := image }] }) s) := by
  have hnone : s.led.orders.any (fun o => o.ref == restoreRef a) = false := by simpa [List.any_eq_false] using hfresh
  change execAccountRestoreStandby a image s = _
  simp [execAccountRestoreStandby, hdamaged, hcontact, hsync, hnone]

/-! ## The obligation -/

/-- Settles O36, row by row: the arbiters' rows by what a decision leaves in its arbiter, the errors by what follows a count and leaves
it. -/
theorem memoryFollowsItsArbitersAndCodes : Obligations.MemoryFollowsItsArbitersAndCodes := by
  unfold Obligations.MemoryFollowsItsArbitersAndCodes
  intro s
  refine ⟨fun a r u n hfive ha hholder hwaiting hpasses hbeats hranked => ?_, fun a asks beats newSlot hfive ha => ?_,
    fun a r q ha hlimit hlate => ?_, fun addr floret hon haddr hnone => ?_, fun addr floret hon haddr hnone => ?_, fun hon => ?_,
    fun addr hon haddr hnone => ?_, fun addr hon haddr hnone => ?_, fun a image hdamaged hcontact hsync hfresh => ?_⟩
  -- ARBITER_DECISION and ARB_WAIT
  · have hgrant := arbDecide_idle (q := { requester := r, umbel := u, beats := n }) hfive ha hholder hwaiting hpasses hbeats hranked
    refine ⟨_, _, rfl, congrArg Arbiter.holder hgrant, rfl, rfl, ?_, ?_⟩
    · rw [hgrant]
      simp [granted]
    · rw [hgrant]
      simp [granted, asked, Arbiter.count, Tab.upd, Tab.getD, get_put]
  · obtain ⟨hheld, hwaits⟩ := arbDecide_gated ha hfive asks beats newSlot
    exact ⟨_, rfl, hheld, hwaits⟩
  · have hfresh : q.reported = false := by
      have hfound := List.find?_some hlate
      simp only [Bool.and_eq_true, Bool.not_eq_true'] at hfound
      exact hfound.1.2
    refine ⟨_, rfl, ?_⟩
    rw [arbWait_late ha hlimit hlate]
    exact mem_mark_reported (List.mem_of_find?_eq_some hlate) hfresh
  -- DRAM_ECC_ERROR, corrected and not, and PATROL_SCRUB_PASS
  · obtain ⟨hcorrected, huncorrected⟩ := dramError_counts addr false floret false s
    refine ⟨_, exec_dramEccError hon haddr hnone false floret, ?_, huncorrected⟩
    rw [hcorrected]
    simp [pseudoChannel, Tab.upd, Tab.getD, get_put]
  · obtain ⟨-, huncorrected⟩ := dramError_counts addr true floret false s
    exact ⟨_, exec_dramEccError hon haddr hnone true floret, huncorrected⟩
  · exact ⟨_, rfl, if_pos hon⟩
  -- LSTORE_READ_ERROR, corrected and not
  · refine ⟨_, exec_lstoreReadError hon haddr hnone false, ?_, lstoreError_corrected_led addr false s⟩
    rw [lstoreError_mem]
    rfl
  · refine ⟨_, exec_lstoreReadError hon haddr hnone true, ?_⟩
    rw [lstoreError_mem]
    rfl
  -- ACCOUNT_RESTORE_STANDBY
  · exact ⟨_, _, exec_accountRestoreStandby hdamaged hcontact hsync hfresh image, rfl, rfl, rfl, rfl⟩

end Sys2Proof.Machine
end

section
/-!
PROOFS. O15: the MET_ commands (R275 to R283 of 08).
-/

namespace Sys2Proof.Machine

/-- Entries of one length follow one another. -/
theorem length_flatMap_of_length {α : Type} {f : α → Bytes} {n : Nat} (hf : ∀ a, (f a).length = n) (l : List α) :
    (l.flatMap f).length = l.length * n := by
  rw [List.length_flatMap, funext hf, List.map_const', List.sum_replicate_nat]

section
variable {x : Ctx} {s : State}

/-! ## MET_STATUS, MET_SET_READ, MET_CHANNEL_READ, MET_RING_STATUS and MET_AUDIT_READ -/

theorem metStatus_reads : ∃ p, cmdMetStatus.body x s = okWith p s ∧ p.length = 80 ∧
    rd p 0 4 = s.met.calib.calibId % 2 ^ 32 ∧ rd p 4 4 = s.yrw.kernelSetId % 2 ^ 32 ∧
    rd p 8 1 = (sealClosed s 1).toNat + 2 * (sealClosed s 2).toNat ∧ rd p 10 2 = s.met.fieldEpoch % 65536 ∧
    rd p 12 4 = s.met.auditSeq % 2 ^ 32 ∧ rd p 20 4 = s.met.ms1Openings % 2 ^ 32 ∧ rd p 24 4 = s.met.ms2Openings % 2 ^ 32 :=
  ⟨_, rfl, by
    have hseals : ((sealClosed s 1).toNat + 2 * (sealClosed s 2).toNat) % 256 = (sealClosed s 1).toNat + 2 * (sealClosed s 2).toNat := by
      have hms1 := Bool.toNat_le (sealClosed s 1)
      have hms2 := Bool.toNat_le (sealClosed s 2)
      omega
    refine ⟨?_, ?_⟩
    · simp [length_flatMap_of_length (n := 1)]
    · simp [rd_append_right, rd_le_append, hseals]⟩

theorem metSetRead_reads {e : CalSet} (hset : rd x.p 0 1 ≤ 31) (hresv : rd x.p 1 3 = 0)
    (hcal : calSet s.met.calib (rd x.p 0 1) = some e) :
    ∃ p, cmdMetSetRead.body x s = okWith p s ∧ p.length = 120 ∧ rd p 0 1 = rd x.p 0 1 ∧ rd p 1 1 = e.kind % 256 ∧
      rd p 2 2 = setFlags s (rd x.p 0 1) % 65536 ∧ rd p 16 4 = (metSet s (rd x.p 0 1)).freq % 2 ^ 32 := by
  have hbyte : rd x.p 0 1 % 256 = rd x.p 0 1 := Nat.mod_eq_of_lt (by omega)
  simp only [cmdMetSetRead, hcal]
  rw [checked_of_all (by simp [inRange, resv, hset, hresv])]
  exact ⟨_, rfl, by simp [rd_append_right, rd_le_append, hbyte]⟩

theorem metChannelRead_reads (hch : rd x.p 0 1 ≤ 191) (hresv : rd x.p 1 3 = 0)
    (hcal : (calChannel s.met.calib (rd x.p 0 1)).isSome = true) (hreach : channelReachable s (rd x.p 0 1) = true) :
    ∃ p, cmdMetChannelRead.body x s = okWith p s ∧ p.length = 32 ∧ rd p 0 1 = rd x.p 0 1 ∧
      rd p 1 1 = (metChan s (rd x.p 0 1)).onSpare.toNat ∧ rd p 4 4 = (metChan s (rd x.p 0 1)).rms % 2 ^ 32 ∧
      rd p 12 4 = (metChan s (rd x.p 0 1)).peak % 2 ^ 32 ∧ rd p 22 2 = (metChan s (rd x.p 0 1)).clips % 65536 := by
  obtain ⟨e, he⟩ := Option.isSome_iff_exists.mp hcal
  have hbyte : rd x.p 0 1 % 256 = rd x.p 0 1 := Nat.mod_eq_of_lt (by omega)
  have hspare : (metChan s (rd x.p 0 1)).onSpare.toNat % 256 = (metChan s (rd x.p 0 1)).onSpare.toNat :=
    Nat.mod_eq_of_lt (Nat.lt_of_lt_of_le (Bool.toNat_lt _) (by decide))
  simp only [cmdMetChannelRead, he]
  rw [checked_of_all (by simp [inRange, resv, hch, hresv])]
  simp only [hreach, Bool.not_true, Bool.false_eq_true, if_false]
  exact ⟨_, rfl, by simp [rd_append_right, rd_le_append, hbyte, hspare]⟩

theorem draw_host (use bound : Nat) (s : State) : (draw use bound s).2.host = s.host := rfl

/-- MET_RING_STATUS draws one free value (R278). -/
theorem metRingStatus_reads (hring : rd x.p 0 1 ≤ 1) (hresv : rd x.p 1 3 = 0) :
    ∃ p, cmdMetRingStatus.body x s = okWith p (draw 74 (2 ^ 32) s).2 ∧
      p.length = 16 + 4 * (ringOf s (rd x.p 0 1)).positions.length ∧ rd p 0 1 = (ringOf s (rd x.p 0 1)).phase.code % 256 ∧
      rd p 4 4 = (ringOf s (rd x.p 0 1)).recovered % 2 ^ 32 ∧ rd p 8 4 = (ringOf s (rd x.p 0 1)).lost % 2 ^ 32 := by
  simp only [cmdMetRingStatus]
  rw [checked_of_all (by simp [inRange, resv, hring, hresv])]
  refine ⟨_, rfl, ?_, by simp [rd_append_right, rd_le_append]⟩
  rw [List.length_append, length_flatMap_of_length (n := 4) (by simp)]
  simp only [List.length_append, length_le]
  omega

theorem metAuditRead_reads (hfrom : rd x.p 0 4 < s.met.auditSeq) (hheld : auditOldest s ≤ rd x.p 0 4) (hcount : 1 ≤ rd x.p 4 1)
    (hcount' : rd x.p 4 1 ≤ 7) (hresv : rd x.p 5 3 = 0) :
    ∃ p, cmdMetAuditRead.body x s = okWith p s ∧ p.length = 232 ∧
      rd p 0 1 = ((s.met.audit.filter (fun a => rd x.p 0 4 ≤ a.seq)).take (rd x.p 4 1)).length := by
  have hbyte : ((s.met.audit.filter (fun a => rd x.p 0 4 ≤ a.seq)).take (rd x.p 4 1)).length % 256 =
      ((s.met.audit.filter (fun a => rd x.p 0 4 ≤ a.seq)).take (rd x.p 4 1)).length :=
    Nat.mod_eq_of_lt (Nat.lt_of_le_of_lt (List.length_take_le ..) (by omega))
  simp only [cmdMetAuditRead]
  rw [checked_of_all (by simp [inRange, resv, hfrom, hcount, hcount', hresv]), if_neg (Nat.not_lt.mpr hheld)]
  exact ⟨_, rfl, by simp, (rd_le_append ..).trans hbyte⟩

/-! ## MET_CAL_ARM -/

theorem receiveTransfer_mailboxes (x : Ctx) (opcode c id expected crc lenOff crcOff : Nat) (s : State) :
    (receiveTransfer x opcode c id expected crc lenOff crcOff s).host.mailboxes = s.host.mailboxes := rfl

section
variable (hch : 1 ≤ rd x.p 0 1) (hch' : rd x.p 0 1 ≤ 7) (hresv : rd x.p 1 3 = 0) (hid : rd x.p 4 4 ≠ 0)
  (htick : (activationTick (.calib {}) (rd x.p 8 8) s).isSome = true) (hlen : 64 ≤ rd x.p 16 4) (hlen' : rd x.p 16 4 ≤ 26176)
include hch hch' hresv hid htick hlen hlen'

theorem metCalArm_opens (hopen : sealClosed s 1 = false) (hfree : armBusy (.calib {}) s = false)
    (hidle : channelIdle s (rd x.p 0 1) = true) : cmdMetCalArm.body x s =
      .accepted [] (receiveTransfer x 0x0510 (rd x.p 0 1) (rd x.p 4 4) (rd x.p 16 4) (rd x.p 20 4) 16 20 s) := by
  simp only [cmdMetCalArm]
  rw [checked_of_all (by simp only [List.all_cons, inRange, htick]; simp [resv, hch, hch', hresv, hid, hlen, hlen'])]
  simp only [hopen, hfree, hidle, Bool.not_true, Bool.false_eq_true, if_false]

theorem metCalArm_sealed (hclosed : sealClosed s 1 = true) : cmdMetCalArm.body x s = fail stDeniedSeal 1 s := by
  simp only [cmdMetCalArm]
  rw [checked_of_all (by simp only [List.all_cons, inRange, htick]; simp [resv, hch, hch', hresv, hid, hlen, hlen'])]
  simp only [hclosed, if_true]

end

/-! ## MET_CAL_CAPTURE -/

theorem captureHold_capture (chs : List Nat) (s : State) : (captureHold chs s).met.capture = s.met.capture := by
  refine foldl_field (g := fun t => t.met.capture) (fun t c => ?_) ..
  dsimp only
  split <;> rfl

/-- The channels that a request to capture names (R280). -/
def namedChannels (p : Bytes) : List Nat := ((List.range 8).map (fun i => rd p i 1)).filter (· != 0xFF)

theorem mem_namedChannels {p : Bytes} {c : Nat} : c ∈ namedChannels p ↔ (∃ i, i < 8 ∧ rd p i 1 = c) ∧ c ≠ 0xFF := by
  simp [namedChannels]

theorem metCalCapture_body (hplaces : ∀ i, i < 8 → rd x.p i 1 ≤ 191 ∨ rd x.p i 1 = 0xFF)
    (hdistinct : ∀ i, i < 8 → ∀ j, j < i → rd x.p i 1 = 0xFF ∨ rd x.p j 1 ≠ rd x.p i 1)
    (href : rd x.p 8 1 ∈ namedChannels x.p) (hstream : rd x.p 9 1 = 0) (hticks : 1 ≤ rd x.p 10 2) (hticks' : rd x.p 10 2 ≤ 1024)
    (hopen : sealClosed s 1 = false)
    (hnone : s.met.capture = none)
    (hready : ∀ c ∈ namedChannels x.p, (calChannel s.met.calib c).isSome = true ∧ channelReachable s c = true) :
    cmdMetCalCapture.body x s = .accepted [] (captureHold (namedChannels x.p) (setMet (fun m => { m with capture := some {
      ref := x.ref, channels := namedChannels x.p, reference := rd x.p 8 1, stream := 0, ticks := rd x.p 10 2
      transferId := rd x.p 12 4 } }) s)) := by
  have hnamed : ((List.range 8).map (fun i => rd x.p i 1)).filter (· != 0xFF) = namedChannels x.p := rfl
  have hall : (namedChannels x.p).all (fun c => (calChannel s.met.calib c).isSome && channelReachable s c) = true := by
    simpa [List.all_eq_true] using hready
  simp only [cmdMetCalCapture, hnamed]
  rw [checked_of_all]
  · simp [hopen, hall, hnone, hstream]
  · simp only [List.all_append, List.all_flatMap, Bool.and_eq_true, List.all_eq_true, List.mem_range]
    refine ⟨fun i hi => ?_, ?_⟩
    · have hfield := hplaces i hi
      have hclash : rd x.p i 1 = 0xFF ∨ ∀ j < i, rd x.p j 1 ≠ rd x.p i 1 :=
        Decidable.or_iff_not_imp_left.mpr fun hused j hj => (hdistinct i hi j hj).resolve_left hused
      simpa [inRange, field, hi, hfield, ← List.map_take, List.take_range, Nat.min_eq_left (Nat.le_of_lt hi)] using hclash
    · simp [inRange, field, href, hstream, hticks, hticks']

/-! ## MET_DEMAND_SET and MET_DEMAND_RESET -/

theorem metDemandSet_body {e : CalSet} (hset : rd x.p 0 1 ≤ 31) (hreg : rd x.p 1 1 ≤ 3) (hquantity : rd x.p 2 1 ≤ 4)
    (hcal : calSet s.met.calib (rd x.p 0 1) = some e) (hdc : e.kind = 4 → rd x.p 2 1 ≠ 2 ∧ rd x.p 2 1 ≠ 3)
    (hinterval : demandIntervals.contains (rd x.p 3 1) = true) (hsub : 1 ≤ rd x.p 4 1) (hsub' : rd x.p 4 1 ≤ 15)
    (hwhole : 60 * rd x.p 3 1 % rd x.p 4 1 = 0) (hresv : rd x.p 5 3 = 0) :
    cmdMetDemandSet.body x s = okWith (le 8 (boundaryFrom s (60000 * rd x.p 3 1 / rd x.p 4 1) (now s + 3))) (setMet (fun m => { m with
      demandPending := m.demandPending.filter (fun d => !(d.set == rd x.p 0 1 && d.reg == rd x.p 1 1)) ++
        [{ set := rd x.p 0 1, reg := rd x.p 1 1, quantity := rd x.p 2 1, intervalMin := rd x.p 3 1, subCount := rd x.p 4 1
           tick := boundaryFrom s (60000 * rd x.p 3 1 / rd x.p 4 1) (now s + 3), principal := x.actor.1, role := x.actor.2 }] }) s) := by
  have hpower : rd x.p 2 1 ≠ 0xFF := by omega
  have hpermitted : (!(e.kind == 4 && (rd x.p 2 1 == 2 || rd x.p 2 1 == 3))) = true := by
    simpa using Decidable.not_or_of_imp hdc
  simp only [cmdMetDemandSet, hcal]
  rw [checked_of_all]
  · simp [hpower]
  · simp only [List.all_cons, List.all_nil, inRange, field, resv, hpermitted, hinterval]
    simp [hset, hreg, hquantity, hsub, hsub', hwhole, hresv]

theorem metDemandReset_body (hset : rd x.p 0 1 ≤ 31) (hmask : rd x.p 1 1 < 16) (hmask' : rd x.p 1 1 ≠ 0) (hresv : rd x.p 2 2 = 0)
    (hcal : (calSet s.met.calib (rd x.p 0 1)).isSome = true)
    (hregs : ∀ i, i < 4 → (rd x.p 1 1).testBit i = true → (Tab.get (metSet s (rd x.p 0 1)).demand i).isSome = true) :
    cmdMetDemandReset.body x s = okWith (le 8 (now s + 1)) (setMet (fun m => { m with
      demandResets := m.demandResets ++ [(rd x.p 0 1, rd x.p 1 1, now s + 1, x.actor.1, x.actor.2)] }) s) := by
  have hnamed : ((List.range 4).filter (fun i => (rd x.p 1 1).testBit i)).all
      (fun i => (Tab.get (metSet s (rd x.p 0 1)).demand i).isSome) = true := by
    refine List.all_eq_true.mpr fun i hi => ?_
    obtain ⟨hrange, hbit⟩ := List.mem_filter.mp hi
    exact hregs i (List.mem_range.mp hrange) hbit
  simp only [cmdMetDemandReset]
  rw [checked_of_all (by simp [inRange, field, resv, hset, hmask, hmask', hresv])]
  simp [← Option.not_isSome, hcal, hnamed]

end

/-! ## The obligation -/

/-- Settles O15, clause by clause: what a body answers is read back from the mailbox, and what it leaves in the metrology part or in the
channel stands beside the envelope. -/
theorem metrologyCommandsAnswer : Obligations.MetrologyCommandsAnswer := by
  unfold Obligations.MetrologyCommandsAnswer
  intro s rq k
  refine ⟨fun h => ?_, fun e h hset hresv hcal => ?_, fun h hch hresv hcal hreach => ?_, fun h hring hresv => ?_,
    fun h hch hch' hresv hid htick hlen hlen' hopen hfree hidle hexists => ?_,
    fun h hch hch' hresv hid htick hlen hlen' hclosed => ?_,
    fun h hplaces hdistinct href hnamed hstream hticks hticks' hopen hnone hready => ?_,
    fun e h hset hreg hquantity hcal hdc hinterval hsub hsub' hwhole hresv => ?_, fun h hset hmask hmask' hresv hcal hregs => ?_,
    fun h hfrom hheld hcount hcount' hresv => ?_⟩
  -- MET_STATUS, MET_SET_READ, MET_CHANNEL_READ and MET_RING_STATUS
  · exact ⟨_, rfl, submit_read h (fun _ _ => rfl) metStatus_reads⟩
  · exact ⟨_, rfl, submit_read h (fun _ _ => rfl) (metSetRead_reads (s := atBody cmdMetSetRead rq k s) hset hresv hcal)⟩
  · exact ⟨_, rfl, submit_read h (fun _ _ => rfl)
      (metChannelRead_reads (s := atBody cmdMetChannelRead rq k s) hch hresv hcal hreach)⟩
  · obtain ⟨p, hbody, hreads⟩ := metRingStatus_reads (x := bodyCtx cmdMetRingStatus rq k s) (s := atBody cmdMetRingStatus rq k s)
      hring hresv
    obtain ⟨hreports, -⟩ := submit_ok h (fun _ _ => rfl) hbody (by rw [draw_host, atBody_mailboxes_length])
    exact ⟨_, rfl, p, hreports, hreads⟩
  -- MET_CAL_ARM with MS1 open and closed
  · have hbody := metCalArm_opens (x := bodyCtx cmdMetCalArm rq k s) (s := atBody cmdMetCalArm rq k s) hch hch' hresv hid htick hlen
      hlen' hopen hfree ((channelIdle_atBody ..).trans hidle)
    obtain ⟨haccepts, -⟩ := submit_accepted h (fun _ _ => rfl) hbody (by rw [receiveTransfer_mailboxes, atBody_mailboxes_length])
    exact ⟨_, rfl, haccepts, opens_of_receiveTransfer (submit_accepted_channels h (fun _ _ => rfl) hbody)
      (by rwa [atBody_channels])⟩
  · have hreports := submit_failed h (fun _ _ => rfl) (metCalArm_sealed (x := bodyCtx cmdMetCalArm rq k s)
      (s := atBody cmdMetCalArm rq k s) hch hch' hresv hid htick hlen hlen' hclosed) (atBody_mailboxes_length ..)
    obtain ⟨t, ht, hkeeps⟩ := execMetCalArm_keeps (p1 := rq) (m := allBut .met) rfl (Keeps.refl _ s)
    obtain rfl := Host.Outcome.next.inj ht
    exact ⟨_, rfl, hreports, hkeeps.sameMet rfl⟩
  -- MET_CAL_CAPTURE
  · have hall : ∀ c ∈ namedChannels rq.args, (calChannel s.met.calib c).isSome = true ∧ channelReachable s c = true := fun c hc => by
      obtain ⟨⟨i, hi, rfl⟩, hused⟩ := mem_namedChannels.mp hc
      exact hready i hi hused
    obtain ⟨haccepts, hkeeps⟩ := submit_accepted h (fun _ _ => rfl) (metCalCapture_body (x := bodyCtx cmdMetCalCapture rq k s)
      (s := atBody cmdMetCalCapture rq k s) hplaces hdistinct (mem_namedChannels.mpr ⟨hnamed, href⟩) hstream hticks hticks'
      hopen hnone hall)
      (by rw [host_eq_of_keeps (captureHold_keeps rfl), setMet_host, atBody_mailboxes_length])
    refine ⟨_, rfl, haccepts, ?_⟩
    rw [hkeeps.sameMet rfl, captureHold_capture]
    rfl
  -- MET_DEMAND_SET and MET_DEMAND_RESET
  · have hbody := metDemandSet_body (x := bodyCtx cmdMetDemandSet rq k s) (s := atBody cmdMetDemandSet rq k s) hset hreg hquantity hcal
      hdc hinterval hsub hsub' hwhole hresv
    obtain ⟨hreports, hkeeps⟩ := submit_ok h (fun _ _ => rfl) hbody (by rw [setMet_host, atBody_mailboxes_length])
    refine ⟨_, rfl, ⟨_, hreports, length_le .., rd_le ..⟩, ?_⟩
    rw [hkeeps.sameMet rfl]
    exact ⟨_, List.mem_append_right _ (List.mem_singleton_self _), rfl, rfl, rfl, rfl, rfl, rfl⟩
  · have hbody := metDemandReset_body (x := bodyCtx cmdMetDemandReset rq k s) (s := atBody cmdMetDemandReset rq k s) hset hmask hmask'
      hresv hcal hregs
    obtain ⟨hreports, hkeeps⟩ := submit_ok h (fun _ _ => rfl) hbody (by rw [setMet_host, atBody_mailboxes_length])
    refine ⟨_, rfl, ⟨_, hreports, length_le .., rd_le ..⟩, ?_⟩
    rw [hkeeps.sameMet rfl]
    exact ⟨_, _, rfl⟩
  -- MET_AUDIT_READ
  · exact ⟨_, rfl, submit_read h (fun _ _ => rfl)
      (metAuditRead_reads (s := atBody cmdMetAuditRead rq k s) hfrom hheld hcount hcount' hresv)⟩

end Sys2Proof.Machine
end

section
/-!
SUPPORT. Rings, groups, channels and sets after a change, and what events, audit entries and faults leave in the metrology part (R228,
R240, R260, R265, R273, R274 of 08).
-/

namespace Sys2Proof.Machine

theorem met_eq_of_keeps {s t : State} (k : Keeps (allBut .met) s s → Keeps (allBut .met) s t) : t.met = s.met :=
  (k (Keeps.refl _ s)).sameMet rfl

/-! ## Events, audit entries and faults -/

section
variable (s : State)

@[simp] theorem raiseEvent_met (kind src : Nat) (c : Bool) (p : Bytes) : (raiseEvent kind src c p s).met = s.met :=
  met_eq_of_keeps (raiseEvent_keeps rfl)
@[simp] theorem audit_met (kind principal role : Nat) (data : Bytes) : (audit kind principal role data s).met = s.met :=
  met_eq_of_keeps (audit_keeps rfl)
@[simp] theorem raiseFault_met (src d : Nat) : (raiseFault src d s).met = s.met := met_eq_of_keeps (raiseFault_keeps rfl)
@[simp] theorem endFault_met (src : Nat) : (endFault src s).met = s.met := met_eq_of_keeps (endFault_keeps rfl)
@[simp] theorem complete_met (ref st d : Nat) (p : Bytes) : (complete ref st d p s).met = s.met :=
  met_eq_of_keeps (complete_keeps rfl)

@[simp] theorem raiseEvent_flt (kind src : Nat) (c : Bool) (p : Bytes) : (raiseEvent kind src c p s).flt = s.flt :=
  flt_eq_of_keeps (raiseEvent_keeps rfl)
@[simp] theorem audit_flt (kind principal role : Nat) (data : Bytes) : (audit kind principal role data s).flt = s.flt :=
  flt_eq_of_keeps (audit_keeps rfl)

end

theorem faultLevel_records (s : State) : (faultLevel s).flt.records = s.flt.records := by
  unfold faultLevel
  split <;> rfl

/-- A source of class A, B or C that is raised is ACTIVE with the detail given (R538, R539). -/
theorem raiseFault_is {src cls : Nat} (hclass : sourceClass src = some cls) (hcls : cls ≠ 3) (detail : Nat) (s : State) :
    FaultIs (raiseFault src detail s) src detail := by
  have htrigger (b kind : Nat) (t : State) : (traceTrigger b kind t).flt = t.flt := flt_eq_of_keeps (traceTrigger_keeps rfl)
  simp [FaultIs, raiseFault, raiseWith, hclass, hcls, faultRecord, apply_ite State.flt, apply_ite FaultState.records, faultLevel_records,
    htrigger, faultEvent_flt, interrupt_flt, traceWrite_flt, Tab.getD, get_put]

theorem faultIs_of_flt {s t : State} (h : t.flt = s.flt) {src detail : Nat} (hs : FaultIs s src detail) : FaultIs t src detail := by
  simpa [FaultIs, faultRecord, h] using hs

/-! ## Rings -/

section
variable {s t : State} {i p : Nat}

theorem ringOf_of_rings (h : t.met.rings = s.met.rings) (i : Nat) : ringOf t i = ringOf s i := by
  simp only [ringOf, h]

theorem ringPos_of_rings (h : t.met.rings = s.met.rings) (i p : Nat) : ringPos t i p = ringPos s i p := by
  simp only [ringPos, ringOf_of_rings h]

@[simp] theorem setRing_rings_length (i : Nat) (f : Ring → Ring) (s : State) : (setRing i f s).met.rings.length = s.met.rings.length :=
  List.length_modify ..

theorem ringOf_setRing (hi : i < s.met.rings.length) (f : Ring → Ring) : ringOf (setRing i f s) i = f (ringOf s i) := by
  simp [ringOf, setRing, modAt, hi]

/-- What a change of rings does not touch is as it was in every ring. -/
theorem ringOf_setRing_field {β : Type} {f : Ring → Ring} {g : Ring → β} (hf : ∀ r, g (f r) = g r) (i j : Nat) (s : State) :
    g (ringOf (setRing i f s) j) = g (ringOf s j) := by
  simp only [ringOf, setRing, setMet_met, modAt, List.getD_eq_getElem?_getD, List.getElem?_modify]
  cases s.met.rings[j]? with
  | none => rfl
  | some r =>
    split
    · exact hf r
    · rfl

theorem ringPos_setRingPos (hi : i < s.met.rings.length) (hp : p < (ringOf s i).positions.length) (f : RingPos → RingPos) :
    ringPos (setRingPos i p f s) i p = f (ringPos s i p) := by
  simp [ringPos, setRingPos, ringOf_setRing hi, modAt, hp]

end

/-! ## Self-test groups -/

section
variable {s t : State} {g : Nat}

theorem groupOf_of_groups (h : t.met.groups = s.met.groups) (g : Nat) : groupOf t g = groupOf s g := by
  simp only [groupOf, h]

theorem groupOf_setGroup (hg : g < s.met.groups.length) (f : SelftestGroup → SelftestGroup) :
    groupOf (setGroup g f s) g = f (groupOf s g) := by
  simp [groupOf, setGroup, modAt, hg]

end

/-! ## Channels and sets -/

section
variable {s : State} {c k : Nat}

theorem metChan_setMetChan (hc : c < s.met.channels.length) (f : MetChannel → MetChannel) :
    metChan (setMetChan c f s) c = f (metChan s c) := by
  simp [metChan, setMetChan, modAt, hc]

@[simp] theorem setMetSet_sets_length (k : Nat) (f : MetSet → MetSet) (s : State) :
    (setMetSet k f s).met.sets.length = s.met.sets.length :=
  List.length_modify ..

theorem metSet_setMetSet (hk : k < s.met.sets.length) (f : MetSet → MetSet) : metSet (setMetSet k f s) k = f (metSet s k) := by
  simp [metSet, setMetSet, modAt, hk]

/-- A set is changed, or as it was. -/
theorem metSet_setMetSet_or (k j : Nat) (f : MetSet → MetSet) (s : State) :
    metSet (setMetSet k f s) j = f (metSet s j) ∨ metSet (setMetSet k f s) j = metSet s j := by
  simp only [metSet, setMetSet, setMet_met, modAt, List.getD_eq_getElem?_getD, List.getElem?_modify]
  cases s.met.sets[j]? with
  | none => exact .inr rfl
  | some m =>
    split
    · exact .inl rfl
    · exact .inr rfl

end

end Sys2Proof.Machine
end

section
/-!
PROOFS. O37: the rows of the sensor rings (R235, R256 to R264 of 08).
-/

namespace Sys2Proof.Machine

/-! ## Window records (R258, R259) -/

/-- A frame of a wrong type, length or check sum carries no record. -/
theorem recordFrame_damaged {f : Bytes}
    (h : f.length ≠ 500 ∨ rd f 0 1 ≠ 2 ∨ rd f 2 2 ≠ 488 ∨ rd f 496 4 ≠ crc32 (f.take 496)) :
    recordFrame f = none := by
  refine if_neg fun hwhole => ?_
  simp only [Bool.and_eq_true, beq_iff_eq, decide_eq_true_eq] at hwhole
  obtain ⟨⟨⟨hlen, htype⟩, hsize⟩, hcrc⟩ := hwhole
  exact h.elim (· hlen) (·.elim (· htype) (·.elim (· hsize) (· hcrc)))

theorem recordFrame_whole {f : Bytes} (h : recordFrame f ≠ none) : recordFrame f = some (recordOf (slice f 8 488)) := by
  simp only [recordFrame] at h ⊢
  split at h
  next hwhole => exact if_pos hwhole
  next => exact absurd rfl h

/-- The head of a window record, as it stands in its frame. -/
theorem recordOf_slice (f : Bytes) : (recordOf (slice f 8 488)).position = rd f 8 1 ∧
    (recordOf (slice f 8 488)).counterEpoch = rd f 10 2 ∧ (recordOf (slice f 8 488)).window = rd f 16 8 :=
  ⟨rd_slice (by decide) .., rd_slice (by decide) .., rd_slice (by decide) ..⟩

/-! ## What a record brings to channels, sets and self-test leaves the rings -/

theorem rings_ite {c : Prop} [Decidable c] {l : List Ring} {a b : State} (ha : a.met.rings = l) (hb : b.met.rings = l) :
    (if c then a else b).met.rings = l := by
  split <;> assumption

theorem recordChannel_rings (i : Nat) (rec : RingRecord) (newest : Bool) (s : State) (k : Nat) :
    (recordChannel i rec newest s k).met.rings = s.met.rings := by
  unfold recordChannel
  extract_lets c
  split
  · rfl
  · next e _ =>
    dsimp only
    split <;> split <;> simp [setMetChan]

theorem recordChannels_rings (i : Nat) (rec : RingRecord) (newest : Bool) (l : List Nat) (s : State) :
    (l.foldl (recordChannel i rec newest) s).met.rings = s.met.rings :=
  foldl_field (g := fun t => t.met.rings) (recordChannel_rings i rec newest) ..

theorem recordSelftest_rings (i : Nat) (rec : RingRecord) (s : State) : (recordSelftest i rec s).met.rings = s.met.rings :=
  (foldl_field (g := fun t => t.met.rings) (by exact fun _ _ => rfl) ..).trans rfl

theorem satelliteRestart_rings (i p last first : Nat) (s : State) : (satelliteRestart i p last first s).met.rings = s.met.rings :=
  foldl_field (g := fun t => t.met.rings) (by exact fun _ _ => rfl) ..

theorem recordSet_rings (i : Nat) (rec : RingRecord) (unaligned : Bool) (s : State) (x : CalSet × Nat) :
    (recordSet i rec unaligned s x).met.rings = s.met.rings := rfl

theorem storeDemand_rings (k reg : Nat) (r : DemandReg × Bool) (s : State) : (storeDemand k reg r s).met.rings = s.met.rings := by
  unfold storeDemand
  extract_lets t
  split
  · rw [raiseEvent_met]
    rfl
  · rfl

theorem closeWaiting_rings (k : Nat) (lost : Nat → Bool) (s : State) : (closeWaiting k lost s).met.rings = s.met.rings := by
  refine foldl_field (g := fun t => t.met.rings) (fun t e => ?_) ..
  dsimp only
  split
  · rfl
  · split
    · exact storeDemand_rings ..
    · split
      · rfl
      · split
        · exact storeDemand_rings ..
        · rfl

theorem closeSatellite_rings (i p : Nat) (s : State) : (closeSatellite i p s).met.rings = s.met.rings :=
  foldl_field (g := fun t => t.met.rings) (fun _ _ => closeWaiting_rings ..) ..

/-- A record of a later window of a bound satellite: what the ring notes of its position (R244, R259, R261). -/
theorem ringPos_ringRecord {i port : Nat} {rec : RingRecord} {s : State} (hi : i < s.met.rings.length)
    (hp : rec.position < (ringOf s i).positions.length) (hposition : rec.position < 16)
    (hbound : (ringPos s i rec.position).isBound = true)
    (hlater : ∀ w, (ringPos s i rec.position).lastWindow = some w → w < rec.window) :
    ∃ x, ringPos (ringRecord i port rec s) i rec.position = x ∧ x.status = 1 ∧ x.lastWindow = some rec.window ∧ x.port = port ∧
      x.epoch = rec.counterEpoch ∧ x.missed = 0 ∧ x.unreachableAt = none := by
  unfold ringRecord
  extract_lets pos unaligned newest newEpoch alignedRun s₁ s₂ s₃ s₄ s₅ s₆
  have hnewest : newest = true := by
    unfold newest
    split
    next w hw => exact decide_eq_true (hlater w hw)
    next => rfl
  have h₁ : ringPos s₁ i rec.position = _ := ringPos_setRingPos hi hp _
  have h₂ : (ringOf s₂ i).positions = (ringOf s₁ i).positions := by
    unfold s₂
    split
    · exact ringOf_setRing_field (g := Ring.positions) (by exact fun _ => rfl) ..
    · rfl
  have h₃ : s₃.met.rings = s₂.met.rings := by
    unfold s₃
    rw [recordChannels_rings]
  have h₄ : s₄.met.rings = s₃.met.rings := rings_ite (satelliteRestart_rings ..) rfl
  have h₅ : s₅.met.rings = s₄.met.rings := rings_ite (recordSelftest_rings ..) rfl
  have h₆ : s₆.met.rings = s₅.met.rings := foldl_field (g := fun t => t.met.rings) (recordSet_rings i rec _) ..
  have hrings := (closeSatellite_rings i rec.position s₆).trans (h₆.trans (h₅.trans (h₄.trans h₃)))
  have hpos : ringPos (closeSatellite i rec.position s₆) i rec.position = ringPos s₁ i rec.position := by
    rw [ringPos_of_rings hrings, ringPos, h₂, ringPos]
  rw [if_neg (by simp [pos, hbound, Nat.not_le.mpr hposition])]
  refine ⟨_, hpos.trans h₁, rfl, ?_, rfl, ?_, rfl, rfl⟩
  · exact if_pos hnewest
  · exact if_pos hnewest

/-! ## The state of a ring (R256, R260, R262) -/

section
variable {s : State} {i : Nat}

theorem ringGoto_rings (i : Nat) (ph : RingPhase) (s : State) :
    (ringGoto i ph s).met.rings = (setRing i (fun r => { r with phase := ph }) s).met.rings := by
  unfold ringGoto
  extract_lets old t
  split
  · rfl
  · exact congrArg MetState.rings (raiseEvent_met ..)

theorem ringOf_ringGoto (hi : i < s.met.rings.length) (ph : RingPhase) :
    ringOf (ringGoto i ph s) i = { ringOf s i with phase := ph } :=
  (ringOf_of_rings (ringGoto_rings ..) i).trans (ringOf_setRing hi _)

theorem ringGoto_flt (i : Nat) (ph : RingPhase) (s : State) : (ringGoto i ph s).flt = s.flt := flt_eq_of_keeps (ringGoto_keeps rfl)

/-- An enumeration starts; the breaks known stay (R256, R262). -/
theorem ringOf_enumerate (hi : i < s.met.rings.length) :
    (ringOf (enumerate i s) i).phase = .enumerating ∧ (ringOf (enumerate i s) i).broken = (ringOf s i).broken := by
  have hsent : (ringOf (sendRing i [(1, enumFrame), (2, enumFrame)] s) i).broken = (ringOf s i).broken :=
    ringOf_setRing_field (g := Ring.broken) (by exact fun _ => rfl) ..
  have hgoto := ringOf_ringGoto (s := sendRing i [(1, enumFrame), (2, enumFrame)] s) (by rwa [sendRing, setRing_rings_length]) .enumerating
  unfold enumerate
  rw [hgoto]
  exact ⟨rfl, hsent⟩

/-- An INTACT ring with a break becomes WRAPPED, and the loss is reported (R262, R263). -/
theorem lossOfSignal_intact (hi : i < s.met.rings.length) (hintact : (ringOf s i).phase = .intact) (hop : Nat) :
    ∃ t, lossOfSignal i hop s = ringGoto i .wrapped (raiseFault 0x50 2 t) ∧ t.met.rings.length = s.met.rings.length ∧
      (ringOf t i).broken = [hop] := by
  simp only [lossOfSignal, hintact]
  refine ⟨_, rfl, ?_, ?_⟩
  · simp [resplit]
  · refine (ringOf_setRing_field (g := Ring.broken) (by exact fun _ => rfl) ..).trans ?_
    refine (ringOf_setRing_field (g := Ring.broken) (by exact fun _ => rfl) ..).trans ?_
    rw [ringOf_setRing hi]

theorem lossOfSignal_known {hop : Nat} (hwrapped : (ringOf s i).phase = .wrapped) (hknown : (ringOf s i).broken.contains hop = true) :
    lossOfSignal i hop s = s := by
  simp only [lossOfSignal, hwrapped, hknown, if_true]

theorem lossOfSignal_second {hop : Nat} (hwrapped : (ringOf s i).phase = .wrapped) (hother : (ringOf s i).broken.contains hop = false) :
    lossOfSignal i hop s = ringGoto i .segmented (raiseFault 0x50 2 (recordBreak i hop s)) := by
  simp only [lossOfSignal, hwrapped, hother, Bool.false_eq_true, if_false]

theorem mem_broken_recordBreak (hi : i < s.met.rings.length) (hop : Nat) : hop ∈ (ringOf (recordBreak i hop s) i).broken := by
  rw [recordBreak, ringOf_setRing hi]
  exact List.mem_eraseDups.mpr (List.mem_append_right _ (List.mem_singleton_self hop))

theorem linkRestored_broken (hphase : (ringOf s i).phase = .wrapped ∨ (ringOf s i).phase = .segmented) (hop : Nat) :
    linkRestored i hop s = enumerate i (setRing i (fun r => { r with broken := r.broken.filter (· != hop) }) s) := by
  obtain hwrapped | hsegmented := hphase
  · simp only [linkRestored, hwrapped]
  · simp only [linkRestored, hsegmented]

end

/-! ## The end of an enumeration (R256, R262) -/

/-- The number of rings, and the breaks of one. -/
def ringBreaks (i : Nat) (s : State) : Nat × List Nat := (s.met.rings.length, (ringOf s i).broken)

theorem ringBreaks_of_met {s t : State} (h : t.met = s.met) (i : Nat) : ringBreaks i t = ringBreaks i s := by
  simp only [ringBreaks, ringOf, h]

theorem ringBreaks_setRing {f : Ring → Ring} (hf : ∀ r, (f r).broken = r.broken) (i j : Nat) (s : State) :
    ringBreaks i (setRing j f s) = ringBreaks i s :=
  Prod.ext (setRing_rings_length ..) (ringOf_setRing_field (g := Ring.broken) hf ..)

theorem ringBreaks_reportMismatch (i j p status : Nat) (s : State) : ringBreaks i (reportMismatch j p status s) = ringBreaks i s := by
  refine ringBreaks_of_met ?_ i
  unfold reportMismatch
  extract_lets t
  have ht : t.met = s.met := by
    unfold t
    split
    · exact raiseFault_met ..
    · rfl
  split
  · exact (audit_met ..).trans ht
  · exact ht

theorem ringBreaks_sendNumbered (i j p type : Nat) (payload : Bytes) (s : State) :
    ringBreaks i (sendNumbered j p type payload s) = ringBreaks i s :=
  ringBreaks_setRing (by exact fun _ => rfl) ..

theorem ringBreaks_updateFirmware (i j p : Nat) (s : State) : ringBreaks i (updateFirmware j p s) = ringBreaks i s :=
  (ringBreaks_setRing (by exact fun _ => rfl) ..).trans (foldl_field (g := ringBreaks i) (fun _ _ => ringBreaks_sendNumbered ..) ..)

theorem ringBreaks_greetFound (i j : Nat) (s : State) (f : RingFound) : ringBreaks i (greetFound j s f) = ringBreaks i s := by
  unfold greetFound
  extract_lets port t u
  have ht : ringBreaks i t = ringBreaks i s := ringBreaks_setRing (by exact fun _ => rfl) ..
  have hu : ringBreaks i u = ringBreaks i t := by
    unfold u
    split
    · rfl
    · exact ringBreaks_updateFirmware ..
  split
  · exact (ringBreaks_sendNumbered ..).trans (hu.trans ht)
  · exact ht

/-- The state of a ring with these breaks (R262). -/
def phaseOfBreaks (breaks : List Nat) : RingPhase := if breaks = [] then .intact else if breaks.length = 1 then .wrapped else .segmented

/-- An enumeration leaves the breaks it found and the state that follows from them. -/
theorem ringOf_enumerationComplete {i : Nat} {s : State} (hi : i < s.met.rings.length) (henum : (ringOf s i).phase = .enumerating)
    (found : List RingFound) (breaks : List Nat) : (ringOf (enumerationComplete i found breaks s) i).broken = breaks ∧
      (ringOf (enumerationComplete i found breaks s) i).phase = phaseOfBreaks breaks := by
  unfold enumerationComplete
  extract_lets s₁ s₂ s₃ s₄
  have h₁ : ringBreaks i s₁ = (s.met.rings.length, breaks) :=
    Prod.ext (setRing_rings_length ..) (by simp only [ringBreaks, s₁, ringOf_setRing hi])
  have h₂ : ringBreaks i s₂ = ringBreaks i s₁ := ringBreaks_setRing (by exact fun _ => rfl) ..
  have h₃ : ringBreaks i s₃ = ringBreaks i s₂ := foldl_field (g := ringBreaks i) (fun _ _ => ringBreaks_reportMismatch ..) ..
  have h₄ : ringBreaks i s₄ = ringBreaks i s₃ := foldl_field (g := ringBreaks i) (fun _ _ => ringBreaks_greetFound ..) ..
  have hend : ringBreaks i (endFault 0x50 s₄) = ringBreaks i s₄ := ringBreaks_of_met (endFault_met ..) i
  have hgoto {t : State} (ht : ringBreaks i t = ringBreaks i s₄) (ph : RingPhase) :
      (ringOf (ringGoto i ph t) i).broken = breaks ∧ (ringOf (ringGoto i ph t) i).phase = ph := by
    obtain ⟨hlen, hbroken⟩ := Prod.mk.inj (ht.trans (h₄.trans (h₃.trans (h₂.trans h₁))))
    rw [ringOf_ringGoto (hlen ▸ hi)]
    exact ⟨hbroken, rfl⟩
  rw [if_neg (not_not_intro henum)]
  match breaks with
  | [] => exact hgoto hend .intact
  | [_] => exact hgoto rfl .wrapped
  | _ :: _ :: _ => exact hgoto rfl .segmented

/-! ## Missing records, unreachable satellites and missing tick marks (R235, R262) -/

theorem recordMissing_third {i p : Nat} {s : State} (hphase : (ringOf s i).phase = .intact ∨ (ringOf s i).phase = .wrapped ∨
      (ringOf s i).phase = .segmented) (hstatus : (ringPos s i p).status = 1) (hmissed : 3 ≤ (ringPos s i p).missed) :
    recordMissing i p s = setRingPos i p (fun x => { x with status := 5 }) (raiseFault 0x50 3 s) := by
  have hserves : ((ringOf s i).phase == .intact || (ringOf s i).phase == .wrapped || (ringOf s i).phase == .segmented) = true := by
    simpa [or_assoc] using hphase
  simp only [recordMissing, hserves, hstatus, hmissed]
  simp

/-- Raised once for each of some sets, a source is ACTIVE with its detail. -/
theorem raiseFault_each_is {α : Type} {src cls : Nat} (hclass : sourceClass src = some cls) (hcls : cls ≠ 3) (detail : Nat) {l : List α}
    (hl : l ≠ []) (s : State) : FaultIs (l.foldl (fun s _ => raiseFault src detail s) s) src detail := by
  rw [← List.dropLast_concat_getLast hl, List.foldl_append]
  exact raiseFault_is hclass hcls ..

theorem satelliteUnreachable_due {i p x : Nat} {s : State} (hsince : (ringPos s i p).unreachableAt = some x)
    (hdue : x + 60000 ≤ s.time.uptime) (hphase : (ringOf s i).phase = .segmented) (hstatus : (ringPos s i p).status = 6) :
    satelliteUnreachable i p s = (satSets s.met.calib i p).foldl (fun s _ => raiseFault 0x51 3 s) s := by
  simp [satelliteUnreachable, hsince, hdue, hphase, hstatus]

/-- Marks each of some sets as not aligned (R235). -/
def markUnaligned (l : List (CalSet × Nat)) (s : State) : State :=
  l.foldl (fun s e => setMetSet e.1.set (fun m => { m with unaligned := true }) s) s

theorem markUnaligned_rings (l : List (CalSet × Nat)) (s : State) : (markUnaligned l s).met.rings = s.met.rings :=
  foldl_field (g := fun t => t.met.rings) (by exact fun _ _ => rfl) ..

theorem markUnaligned_stays {j : Nat} (l : List (CalSet × Nat)) {s : State} (h : (metSet s j).unaligned = true) :
    (metSet (markUnaligned l s) j).unaligned = true := by
  induction l generalizing s with
  | nil => exact h
  | cons e l ih =>
    refine ih ?_
    obtain hset | hset := metSet_setMetSet_or e.1.set j (fun m => { m with unaligned := true }) s
    · rw [hset]
    · rw [hset, h]

theorem markUnaligned_mem {l : List (CalSet × Nat)} {e : CalSet × Nat} {s : State} (he : e ∈ l) (hk : e.1.set < s.met.sets.length) :
    (metSet (markUnaligned l s) e.1.set).unaligned = true := by
  induction l generalizing s with
  | nil => exact absurd he List.not_mem_nil
  | cons a l ih =>
    obtain rfl | he := List.mem_cons.mp he
    · exact markUnaligned_stays l (congrArg MetSet.unaligned (metSet_setMetSet hk _))
    · exact ih he (by rwa [setMetSet_sets_length])

theorem tickMarkMissing_eq (i p : Nat) (s : State) : tickMarkMissing i p s =
    markUnaligned (satSets s.met.calib i p) (setRingPos i p (fun x => { x with markMissing := true, alignedRun := 0 }) s) := rfl

/-! ## The obligation -/

/-- Settles O37, row by row: what each row's change of the ring leaves in it and in its position, and the source it raises. -/
theorem ringsFollowTheirRecords : Obligations.RingsFollowTheirRecords := by
  unfold Obligations.RingsFollowTheirRecords
  intro s
  refine ⟨fun i p port f hframe hposition hp16 hi hp hbound hlater => ?_, fun i port f hdamaged => ?_, fun i p hi hp => ?_,
    fun i h hi hintact => ?_, fun i h hwrapped hknown => ?_, fun i h hi hwrapped hother => ?_, fun i h hi hphase => ?_,
    fun i found breaks hi henum => ?_, fun i p hi hp hphase hstatus hmissed => ?_, fun i p x hsince hdue hphase hstatus hsets => ?_,
    fun i p hi hp => ?_⟩
  -- RING_RECORD_RX of a whole frame and of a damaged one
  · obtain ⟨hpos, hepoch, hwindow⟩ := recordOf_slice f
    rw [← hposition] at hpos
    have hexec : exec (.ringRecordRx i port f) s = .next (ringRecord i port (recordOf (slice f 8 488)) s) := by
      change execRingRecordRx i port f s = _
      rw [execRingRecordRx, recordFrame_whole hframe]
    have hnoted := ringPos_ringRecord (port := port) (rec := recordOf (slice f 8 488)) hi (by rwa [hpos]) (by rwa [hpos])
      (by rwa [hpos]) (by rwa [hpos, hwindow])
    rw [hpos, hepoch, hwindow] at hnoted
    obtain ⟨x, rfl, hx⟩ := hnoted
    exact ⟨_, hexec, hx⟩
  · change execRingRecordRx i port f s = _
    rw [execRingRecordRx, recordFrame_damaged hdamaged]
  -- RING_STATUS_RX of failing power
  · exact ⟨_, rfl, congrArg RingPos.powerFailing (ringPos_setRingPos hi hp _)⟩
  -- RING_LOSS_OF_SIGNAL: the first break, the same again, and a second one
  · obtain ⟨t, hloss, hlen, hbroken⟩ := lossOfSignal_intact hi hintact h
    obtain ⟨hactive, -⟩ := faultIs_of_flt (ringGoto_flt i .wrapped _) (raiseFault_is (src := 0x50) rfl (by decide) 2 t)
    refine ⟨_, congrArg Host.Outcome.next hloss, ?_, ?_, hactive⟩
    · rw [ringOf_ringGoto (by rwa [raiseFault_met, hlen])]
    · rw [ringOf_ringGoto (by rwa [raiseFault_met, hlen])]
      exact (congrArg Ring.broken (ringOf_of_rings (by rw [raiseFault_met]) i)).trans hbroken
  · exact congrArg Host.Outcome.next (lossOfSignal_known hwrapped hknown)
  · refine ⟨_, congrArg Host.Outcome.next (lossOfSignal_second hwrapped hother), ?_⟩
    rw [ringOf_ringGoto (by rwa [raiseFault_met, recordBreak, setRing_rings_length])]
    exact ⟨rfl, (ringOf_of_rings (congrArg MetState.rings (raiseFault_met ..)) i ▸ mem_broken_recordBreak hi h :)⟩
  -- RING_LINK_RESTORED and ENUMERATION_COMPLETE
  · refine ⟨_, congrArg Host.Outcome.next (linkRestored_broken hphase h), ?_⟩
    obtain ⟨henum, hbroken⟩ := ringOf_enumerate (s := setRing i (fun r => { r with broken := r.broken.filter (· != h) }) s)
      (by rwa [setRing_rings_length])
    rw [ringOf_setRing hi] at hbroken
    refine ⟨henum, ?_⟩
    rw [hbroken]
    simp
  · exact ⟨_, rfl, ringOf_enumerationComplete hi henum found breaks⟩
  -- RECORD_MISSING, SATELLITE_UNREACHABLE and TICK_MARK_MISSING
  · refine ⟨_, congrArg Host.Outcome.next (recordMissing_third hphase hstatus hmissed), ?_, raiseFault_is rfl (by decide) 3 s⟩
    have hsame : ringOf (raiseFault 0x50 3 s) i = ringOf s i := ringOf_of_rings (congrArg MetState.rings (raiseFault_met ..)) i
    rw [ringPos_setRingPos (by rwa [raiseFault_met]) (by rwa [hsame])]
  · refine ⟨_, congrArg Host.Outcome.next (satelliteUnreachable_due hsince hdue hphase hstatus), ?_⟩
    exact raiseFault_each_is rfl (by decide) 3 hsets s
  · have hpos := (ringPos_of_rings (markUnaligned_rings (satSets s.met.calib i p) _) i p).trans
      (ringPos_setRingPos hi hp (fun x => { x with markMissing := true, alignedRun := 0 }))
    refine ⟨_, congrArg Host.Outcome.next (tickMarkMissing_eq i p s), ?_, ?_, fun e he hk => markUnaligned_mem he hk⟩
    · rw [hpos]
    · rw [hpos]

end Sys2Proof.Machine
end

section
/-!
SUPPORT. What the rules and sums that follow a settled window leave of it (R337, R338, R343 to R345 of 10).
-/

namespace Sys2Proof.Machine

/-- An entry put under one number leaves the entries under the others. -/
theorem get_put_ne {α : Type} {t : Table α} {k j : Nat} (hne : j ≠ k) (v : α) : Tab.get (Tab.put t k v) j = Tab.get t j := by
  induction t with
  | nil => simp [Tab.put, Tab.get, hne.symm]
  | cons e t ih =>
    obtain ⟨i, w⟩ := e
    simp only [Tab.put]
    split
    next hik => subst hik; simp [Tab.get, hne.symm]
    next hik =>
      split
      next hlt =>
        simp only [Tab.get, hne.symm, if_false]
        split
        next hjk => rw [if_neg (by omega), if_pos (by omega)]
        next => rfl
      next => simp only [Tab.get, ih]

/-! ## A settled window and when its network is localised -/

/-- The record held of a network's 15-minute window, and the round its localisation is due in (R337, R347). -/
def settledView (b q : Nat) (s : State) : Option WindowRec × Option Nat := (windowHeld s b 0 q, (netBal s b).localiseDue)

section
variable {b q : Nat} {s t : State}

theorem settledView_of_bal (hwindows : t.bal.windows = s.bal.windows) (hnets : t.bal.nets = s.bal.nets) :
    settledView b q t = settledView b q s := by
  simp only [settledView, windowHeld, netBal, hwindows, hnets]

theorem settledView_ite {c : Prop} [Decidable c] {v : Option WindowRec × Option Nat} {a a' : State} (ha : settledView b q a = v)
    (ha' : settledView b q a' = v) : settledView b q (if c then a else a') = v := by
  split <;> assumption

theorem netBal_setNetBal (b : Nat) (f : NetBalance → NetBalance) (s : State) : netBal (setNetBal b f s) b = f (netBal s b) := by
  simp [netBal, setNetBal, Tab.upd, Tab.getD, get_put]

/-- A change of a network's balance that leaves its localisation. -/
theorem settledView_setNetBal {f : NetBalance → NetBalance} (hf : ∀ n, (f n).localiseDue = n.localiseDue) (b' : Nat) (s : State) :
    settledView b q (setNetBal b' f s) = settledView b q s := by
  have hdue : (netBal (setNetBal b' f s) b).localiseDue = (netBal s b).localiseDue := by
    by_cases hb : b = b'
    · rw [hb, netBal_setNetBal, hf]
    · simp only [netBal, setNetBal, setBal_bal, Tab.upd, Tab.getD, get_put_ne hb]
  exact Prod.ext rfl hdue

/-- A longer window that is kept leaves the 15-minute windows. -/
theorem settledView_keepWindow {w : WindowRec} (hkind : w.kind ≠ 0) (s : State) :
    settledView b q (keepWindow w s) = settledView b q s := by
  refine Prod.ext ?_ rfl
  have hnew : (w.bridge == b && w.kind == 0 && w.seq == q) = false := by simp [hkind]
  simp only [settledView, windowHeld, keepWindow, setBal_bal, List.find?_append, List.find?_filter, List.find?_cons, hnew,
    List.find?_nil, Option.or_none]
  congr 1
  funext v
  rw [Bool.eq_iff_iff]
  by_cases hv : v.kind = 0
  · have hother : v.kind ≠ w.kind := fun h => hkind (h.symm.trans hv)
    simp [hother]
  · simp [hv]

end

/-! ## Suspicion records -/

section
variable {b q : Nat} {s t : State}

theorem bal_eq_of_keeps {s t : State} (k : Keeps (allBut .bal) s s → Keeps (allBut .bal) s t) : t.bal = s.bal :=
  (k (Keeps.refl _ s)).sameBal rfl

theorem settledView_of_keeps (k : Keeps (allBut .bal) s s → Keeps (allBut .bal) s t) : settledView b q t = settledView b q s := by
  have hbal := bal_eq_of_keeps k
  exact settledView_of_bal (by rw [hbal]) (by rw [hbal])

theorem settledView_suspicionEvent (x : Suspicion) (old : Nat) (s : State) :
    settledView b q (suspicionEvent x old s) = settledView b q s :=
  settledView_of_keeps (raiseEvent_keeps rfl)

theorem settledView_openRecord (x : Suspicion) (s : State) : settledView b q (openRecord x s) = settledView b q s := by
  unfold openRecord
  extract_lets x room old
  clear_value room old
  split
  · exact (settledView_of_keeps (reportFault_keeps rfl)).trans rfl
  · exact (settledView_suspicionEvent ..).trans rfl
  · exact (settledView_suspicionEvent ..).trans rfl

theorem settledView_countWindow (subject phase kind clearN : Nat) (v : Verdict) (s : State) :
    settledView b q (countWindow subject phase kind clearN v s) = settledView b q s := by
  unfold countWindow
  split
  · rfl
  · extract_lets ratio more n y z
    exact settledView_ite ((settledView_suspicionEvent ..).trans rfl) rfl

theorem settledView_fireRule (subject phase kind : Nat) (v : Verdict) (s : State) :
    settledView b q (fireRule subject phase kind v s) = settledView b q s := by
  unfold fireRule
  split
  · rfl
  · exact settledView_openRecord ..

theorem settledView_judge (subject phase kind clearN : Nat) (v : Verdict) (fires : Bool) (s : State) :
    settledView b q (judge subject phase kind clearN v fires s) = settledView b q s := by
  unfold judge
  split
  · exact settledView_countWindow ..
  · exact settledView_ite (settledView_fireRule ..) rfl

/-! ## The rules of windows (R343) -/

theorem settledView_setCount (b' p : Nat) (f : RuleCount → RuleCount) (s : State) :
    settledView b q (setCount b' p f s) = settledView b q s :=
  settledView_setNetBal (by exact fun _ => rfl) ..

theorem settledView_quarterRules (w : WindowRec) (rules : RuleProfile) (p : Nat) (s : State) :
    settledView b q (quarterRules w rules p s) = settledView b q s := by
  unfold quarterRules
  extract_lets b' res through pos neg s₁ c s₂ s₃
  have h₁ : settledView b q s₁ = settledView b q s := settledView_setCount ..
  have h₂ : settledView b q s₂ = settledView b q s₁ := settledView_ite (settledView_judge ..) rfl
  have h₃ : settledView b q s₃ = settledView b q s₂ := settledView_ite (settledView_judge ..) rfl
  exact (settledView_countWindow ..).trans (h₃.trans (h₂.trans h₁))

theorem settledView_hourRules (w : WindowRec) (rules : RuleProfile) (p : Nat) (s : State) :
    settledView b q (hourRules w rules p s) = settledView b q s := by
  unfold hourRules
  extract_lets b' res through pos s₁ hours s₂ past excess step v
  have h₁ : settledView b q s₁ = settledView b q s := settledView_setCount ..
  have h₂ : settledView b q s₂ = settledView b q s₁ := settledView_ite (settledView_judge ..) rfl
  exact settledView_ite (h₂.trans h₁) ((settledView_judge ..).trans (h₂.trans h₁))

theorem settledView_dayRules (w : WindowRec) (rules : RuleProfile) (s : State) :
    settledView b q (dayRules w rules s) = settledView b q s := by
  unfold dayRules
  extract_lets res v
  exact settledView_ite rfl (settledView_ite (settledView_judge ..)
    (foldl_field (g := settledView b q) (by exact fun _ _ => settledView_judge ..) ..))

theorem settledView_feederRules (w : FeederRec) (rules : RuleProfile) (s : State) :
    settledView b q (feederRules w rules s) = settledView b q s := by
  unfold feederRules
  extract_lets f pos neg s₁ c
  exact settledView_ite rfl ((settledView_judge ..).trans ((settledView_judge ..).trans rfl))

/-! ## Longer windows and the feeder (R338, R341) -/

theorem settledView_settleLonger (b' seq : Nat) (rules : RuleProfile) (s : State) :
    settledView b q (settleLonger b' seq rules s) = settledView b q s := by
  unfold settleLonger
  extract_lets hour h s₁ s₂ day d s₃
  have hkeep : settledView b q s₁ = settledView b q s := settledView_keepWindow Nat.one_ne_zero s
  have hrules : settledView b q ((List.range 3).foldl (fun s p => hourRules h rules p s) s₁) = settledView b q s₁ :=
    foldl_field (g := settledView b q) (fun _ _ => settledView_hourRules ..) ..
  have h₂ : settledView b q s₂ = settledView b q s := settledView_ite (settledView_ite (hrules.trans hkeep) hkeep) rfl
  have h₃ : settledView b q s₃ = settledView b q s₂ :=
    (settledView_dayRules ..).trans (settledView_keepWindow (Nat.succ_ne_zero 1) s₂)
  exact settledView_ite ((settledView_setNetBal (by exact fun _ => rfl) ..).trans (h₃.trans h₂)) h₂

theorem settledView_settleFeeder (b' seq : Nat) (s : State) : settledView b q (settleFeeder b' seq s) = settledView b q s := by
  unfold settleFeeder
  split
  · rfl
  · unfold settleFeederWindow
    split
    · next w _ _ _ =>
      extract_lets s₁ hour h s₂ day
      have h₁ : settledView b q s₁ = settledView b q s := rfl
      have h₂ : settledView b q s₂ = settledView b q s₁ := settledView_ite ((settledView_feederRules ..).trans rfl) rfl
      exact settledView_ite (h₂.trans h₁) (h₂.trans h₁)
    · rfl

theorem settledView_phaseConflicts (b' seq start : Nat) (s : State) :
    settledView b q (phaseConflicts b' seq start s) = settledView b q s :=
  settledView_of_keeps (phaseConflicts_keeps rfl)

theorem settledView_incompleteEvent (w : WindowRec) (silent : Bool) (s : State) :
    settledView b q (incompleteEvent w silent s) = settledView b q s :=
  settledView_of_keeps (incompleteEvent_keeps rfl)

end

/-! ## The settlement of a window (R337) -/

/-- The record of a window that is kept is held. -/
theorem windowHeld_keepWindow (w : WindowRec) (hkind : w.kind = 0) (s : State) :
    (windowHeld (keepWindow w s) w.bridge 0 w.seq).isSome = true := by
  simp [windowHeld, keepWindow, hkind]

theorem windowHeld_setNetBal (b' : Nat) (f : NetBalance → NetBalance) (b kind q : Nat) (s : State) :
    windowHeld (setNetBal b' f s) b kind q = windowHeld s b kind q := rfl

theorem windowRecord_names (s : State) (b q : Nat) :
    (windowRecord s b q).1.bridge = b ∧ (windowRecord s b q).1.kind = 0 ∧ (windowRecord s b q).1.seq = q :=
  ⟨rfl, rfl, rfl⟩

/-- A window that settles is held, and its network is to be localised in this round (R337, R347). -/
theorem settleWindow_settles {b q : Nat} {s : State} (hnew : windowHeld s b 0 q = none) :
    (windowHeld (settleWindow b q s) b 0 q).isSome = true ∧ (netBal (settleWindow b q s) b).localiseDue = some (now s / 1024) := by
  unfold settleWindow
  rw [if_neg (by simp [hnew])]
  extract_lets silent x w s₁ s₂ s₃ s₄ rules s₅
  obtain ⟨hbridge, hkind, hseq⟩ : w.bridge = b ∧ w.kind = 0 ∧ w.seq = q := windowRecord_names s b q
  clear_value x w
  have hheld : (windowHeld s₂ b 0 q).isSome = true := by
    have hkept := windowHeld_keepWindow w hkind s
    rwa [hbridge, hseq, ← windowHeld_setNetBal b] at hkept
  have hdue : (netBal s₂ b).localiseDue = some (now s / 1024) := by
    simp only [s₂, netBal_setNetBal]
    rfl
  have h₃ : settledView b q s₃ = settledView b q s₂ :=
    (settledView_incompleteEvent ..).trans (settledView_phaseConflicts ..)
  have h₄ : settledView b q s₄ = settledView b q s₃ := settledView_ite rfl rfl
  have h₅ : settledView b q s₅ = settledView b q s₄ :=
    settledView_ite (foldl_field (g := settledView b q) (fun _ _ => settledView_quarterRules ..) ..) rfl
  have hview : settledView b q (settleFeeder b q (settleLonger b q rules s₅)) = settledView b q s₂ :=
    (settledView_settleFeeder ..).trans ((settledView_settleLonger ..).trans (h₅.trans (h₄.trans h₃)))
  obtain ⟨hheld', hdue'⟩ := Prod.mk.inj hview
  exact ⟨(congrArg Option.isSome hheld').trans hheld, hdue'.trans hdue⟩

end Sys2Proof.Machine
end

section
/-!
PROOFS. O38: self-test, demand registers, captures, seals and the settlement of windows (R231, R251, R266 to R268, R271, R280 of 08, R490
of 14, R337 of 10).
-/

namespace Sys2Proof.Machine

/-! ## Self-test: what each step does to its group (R265 to R268) -/

section
variable (g : Nat) (s : State)

@[simp] theorem selftestEvent_met (result : Nat) : (selftestEvent g result s).met = s.met := raiseEvent_met ..
@[simp] theorem selftestEvent_flt (result : Nat) : (selftestEvent g result s).flt = s.flt := raiseEvent_flt ..
@[simp] theorem countSelftest_met : (countSelftest s).met = { s.met with selftestFailures := s.met.selftestFailures + 1 } := rfl
@[simp] theorem countSelftest_flt : (countSelftest s).flt = s.flt := rfl
@[simp] theorem swapTo_groups (spare : Bool) : (swapTo g spare s).met.groups = s.met.groups := rfl
@[simp] theorem swapTo_selftestFailures (spare : Bool) : (swapTo g spare s).met.selftestFailures = s.met.selftestFailures := rfl
@[simp] theorem swapTo_flt (spare : Bool) : (swapTo g spare s).flt = s.flt := rfl
@[simp] theorem setGroup_selftestFailures (f : SelftestGroup → SelftestGroup) :
    (setGroup g f s).met.selftestFailures = s.met.selftestFailures := rfl
@[simp] theorem setGroup_flt (f : SelftestGroup → SelftestGroup) : (setGroup g f s).flt = s.flt := rfl

end

section
variable {s : State} {g : Nat}

/-- The group after an operation that leaves the groups, on a group that has been changed. -/
theorem groupOf_after {t u : State} {f : SelftestGroup → SelftestGroup} (h : t.met.groups = (setGroup g f u).met.groups)
    (hu : u.met.groups = s.met.groups) (hg : g < s.met.groups.length) : groupOf t g = f (groupOf s g) := by
  rw [groupOf_of_groups h, groupOf_setGroup (hu ▸ hg), groupOf_of_groups hu]

theorem rotationChannel_setGroup {f : SelftestGroup → SelftestGroup} (hg : g < s.met.groups.length)
    (hf : ∀ x, (f x).index = x.index) : rotationChannel (setGroup g f s) g = rotationChannel s g := by
  simp only [rotationChannel, groupOf_setGroup hg, hf]

/-- The channel in rotation is served by what it was swapped to. -/
theorem onSpare_swapTo (hc : rotationChannel s g < s.met.channels.length) (spare : Bool) :
    (metChan (swapTo g spare s) (rotationChannel s g)).onSpare = spare :=
  congrArg MetChannel.onSpare (metChan_setMetChan hc _)

/-- Swapped within a group that has just changed its phase. -/
theorem onSpare_swapTo_setGroup {f : SelftestGroup → SelftestGroup} (hg : g < s.met.groups.length) (hf : ∀ x, (f x).index = x.index)
    (hc : rotationChannel s g < s.met.channels.length) (spare : Bool) :
    (metChan (swapTo g spare (setGroup g f s)) (rotationChannel s g)).onSpare = spare := by
  rw [← rotationChannel_setGroup hg hf] at hc ⊢
  exact onSpare_swapTo hc spare

theorem selftestStep_idle (hidle : (groupOf s g).phase = .idle) (hkept : (groupOf s g).retired = false)
    (hfree : (groupOf s g).held = false) (hpowered : groupPowered s g = true) : selftestStep g s = setGroup g (fun x => { x with
      index := if x.started then (x.index + 1) % groupSize g else 0, started := true, phase := .matching }) s := by
  simp [selftestStep, hidle, hkept, hfree, hpowered]

theorem selftestPhaseEnd_held (hmatch : (groupOf s g).phase = .matching) (hheld : (groupOf s g).held = true) (agree : Bool) :
    selftestPhaseEnd g agree s = setGroup g (fun x => { x with phase := .idle }) s := by
  simp only [selftestPhaseEnd, hmatch, hheld, if_true]

theorem selftestPhaseEnd_agreed (hmatch : (groupOf s g).phase = .matching) (hfree : (groupOf s g).held = false) :
    selftestPhaseEnd g true s = swapTo g true (setGroup g (fun x => { x with phase := .test }) s) := by
  simp only [selftestPhaseEnd, hmatch, hfree, Bool.false_eq_true, if_false, if_true]

theorem selftestPhaseEnd_differed (hmatch : (groupOf s g).phase = .matching) (hfree : (groupOf s g).held = false) :
    selftestPhaseEnd g false s = countSelftest (selftestEvent g 1 (setGroup g (fun x =>
      { x with phase := .spareCheck, primaryOut := false, suspect := false }) s)) := by
  simp only [selftestPhaseEnd, hmatch, hfree, Bool.false_eq_true, if_false]

theorem selftestPhaseEnd_rematched (hrematch : (groupOf s g).phase = .rematch) :
    selftestPhaseEnd g true s = selftestEvent g 0 (swapTo g false (setGroup g (fun x => { x with phase := .idle }) s)) := by
  simp only [selftestPhaseEnd, hrematch, if_true]

theorem selftestPrimary_test (htest : (groupOf s g).phase = .test) (passed : Bool) : selftestPrimary g passed s =
    if passed then setGroup g (fun x => { x with phase := .rematch }) s else pinChannel g s := by
  simp only [selftestPrimary, htest]

/-- A primary that fails pins its channel to the spare and is reported (R267). -/
theorem pinChannel_pins (hg : g < s.met.groups.length) :
    (groupOf (pinChannel g s) g).phase = .pinned ∧ FaultIs (pinChannel g s) 0x50 4 := by
  unfold pinChannel
  extract_lets s₁ s₂
  have hgroups : s₂.met.groups = s.met.groups := by simp [s₂, s₁]
  have hflt : s₂.flt = (raiseFault 0x50 4 s).flt := by simp [s₂, s₁]
  refine ⟨?_, faultIs_of_flt (by rw [swapTo_flt, setGroup_flt, hflt]) (raiseFault_is rfl (by decide) 4 s)⟩
  rw [groupOf_after (swapTo_groups ..) hgroups hg]

/-- A spare that passes alone, its primary not known to be out, makes the group suspect (R267). -/
theorem selftestSpare_passed (hg : g < s.met.groups.length) (hcheck : (groupOf s g).phase = .spareCheck)
    (hin : (groupOf s g).primaryOut = false) : (groupOf (selftestSpare g true s) g).suspect = true := by
  unfold selftestSpare
  extract_lets x cs s₁
  have h₁ : s₁.met.groups = s.met.groups := foldl_field (g := fun t => t.met.groups) (by exact fun _ _ => rfl) ..
  rw [if_pos rfl, if_pos (by simp [x, hcheck, hin]), groupOf_after (swapTo_groups ..) h₁ hg]

theorem selftestSpare_failed (hphase : (groupOf s g).phase ≠ .pinned) : selftestSpare g false s =
    swapTo g false (setGroup g (fun x => { x with phase := .idle, retired := true, primaryOut := false, suspect := false })
      (raiseFault 0x50 4 (selftestEvent g 3 (countSelftest s)))) := by
  simp [selftestSpare, hphase]

end

/-! ## Demand registers (R251) -/

/-- A sub-interval that closes: the next one starts at the counter and the boundary (R251, R252). -/
theorem closeSub_starts (d : DemandReg) (counter : Nat) (w : DemandWait) (irregular : Bool) :
    (closeSub d counter w irregular).1.index = some w.index ∧ (closeSub d counter w irregular).1.runStartTick = w.tick ∧
      (closeSub d counter w irregular).1.runTicks = d.runTicks - w.ticks ∧ (closeSub d counter w irregular).1.waits = none ∧
      (closeSub d counter w irregular).1.runStart = counter :=
  ⟨rfl, rfl, rfl, rfl, rfl⟩

/-- A maximum is only ever replaced by a greater demand (R251). -/
theorem closeSub_maximum (d : DemandReg) (counter : Nat) (w : DemandWait) (irregular : Bool) :
    d.maximum ≤ (closeSub d counter w irregular).1.maximum := by
  unfold closeSub
  extract_lets hist marks part full start ticks nominal off irr par demand eligible better
  change d.maximum ≤ if better then demand else d.maximum
  split
  next hbetter =>
    simp only [better, Bool.and_eq_true, decide_eq_true_eq] at hbetter
    exact Nat.le_of_lt hbetter.2
  next => exact Nat.le_refl _

section
variable {s : State} {k r : Nat} {e : CalSet} {d : DemandReg}

theorem demand_storeDemand (hk : k < s.met.sets.length) (x : DemandReg × Bool) :
    Tab.get (metSet (storeDemand k r x s) k).demand r = some x.1 := by
  unfold storeDemand
  extract_lets t
  have hstored : Tab.get (metSet t k).demand r = some x.1 := by
    rw [metSet_setMetSet hk]
    exact get_put ..
  split
  · rwa [metSet, raiseEvent_met, ← metSet]
  · exact hstored

variable (hcal : calSet s.met.calib k = some e) (hreg : Tab.get (metSet s k).demand r = some d) (hfield : s.pwr.fieldOn = true)
  (hdue : boundaryDue s d = true) (hnone : d.waits = none)
include hcal hreg hfield hdue hnone

theorem demandBoundary_local (hlocal : e.location = 0) : demandBoundary k r s =
    storeDemand k r (closeSub d ((metSet s k).counters.getD d.quantity 0) (boundaryNow s d) false) s := by
  simp [demandBoundary, hcal, hreg, hfield, hdue, hnone, hlocal]

theorem demandBoundary_satellite (hsat : e.location ≠ 0) : demandBoundary k r s = closeWaiting k (fun _ => false)
    (setMetSet k (fun m => { m with demand := Tab.put m.demand r { d with waits := some (boundaryNow s d) } }) s) := by
  simp [demandBoundary, hcal, hreg, hfield, hdue, hnone, hsat]

end

/-- A loop whose rounds change nothing. -/
theorem foldl_of_fixed {α β : Type} {f : α → β → α} {a : α} (hf : ∀ b, f a b = a) (l : List β) : l.foldl f a = a := by
  induction l with
  | nil => rfl
  | cons b l ih => rw [List.foldl_cons, hf, ih]

/-- While no record has come and none is lost, no boundary that waits closes (R251). -/
theorem closeWaiting_unreceived {k : Nat} {s : State} (hnone : (metSet s k).received = []) :
    closeWaiting k (fun _ => false) s = s := by
  refine foldl_of_fixed (fun e => ?_) _
  obtain ⟨reg, d⟩ := e
  cases hwaits : d.waits with
  | none => simp only [hwaits]
  | some b => simp [hwaits, hnone]

/-! ## Captures (R280) -/

theorem captureStart_ready {c : Capture} {s : State} (hcapture : s.met.capture = some c) (hwaits : c.running = false)
    (hfield : s.pwr.fieldOn = true) (hready : c.channels.all (captureReady s) = true) :
    captureStart s = setMet (fun m => { m with capture := some { c with running := true, firstTick := now s } }) s := by
  simp only [captureStart, hcapture, hwaits, hfield, hready, Bool.not_false, Bool.and_self, if_true]

theorem fol_eq_of_keeps {s t : State} (k : Keeps (allBut .fol) s s → Keeps (allBut .fol) s t) : t.fol = s.fol :=
  (k (Keeps.refl _ s)).sameFol rfl

theorem drawBytes_fol (use n : Nat) (s : State) : (drawBytes use n s).2.fol = s.fol := rfl

theorem captureResults_fol (c : Capture) (chs : List Nat) (s : State) : (captureResults c chs s).2.fol = s.fol := by
  induction chs generalizing s with
  | nil => rfl
  | cons ch chs ih => exact (ih _).trans rfl

theorem sendDatagram_events (handle type : Nat) (body : Bytes) (s : State) :
    (sendDatagram handle type body s).fol.events = s.fol.events := by
  unfold sendDatagram
  split
  · split
    · split <;> rfl
    · rfl
  · rfl

/-- The completion of a command that is outstanding is queued (R122, R143). -/
theorem complete_queues {ref : Nat} {o : Outstanding} {s : State} (hout : s.fol.outstanding.find? (fun x => x.ref == ref) = some o)
    (st detail : Nat) (p : Bytes) : ∃ e ∈ (complete ref st detail p s).fol.events, e.kind = 0x0100 ∧ e.source = o.session ∧
      e.payload = responseBytes o.opcode o.tag st detail p s := by
  simp only [complete, hout, sendDatagram_events, queueCompletion]
  exact ⟨_, List.mem_append_right _ (List.mem_singleton_self _), rfl, rfl, rfl⟩

/-- The status of a response, and the first field of its payload (R121). -/
theorem responseBytes_reads (opcode tag st detail n : Nat) (p : Bytes) (s : State) :
    rd (responseBytes opcode tag st detail p s) 4 1 = st % 256 ∧ rd (responseBytes opcode tag st detail p s) 16 n = rd p 0 n := by
  simp [responseBytes, rd_append_right, rd_le_append]

theorem captureRelease_capture (chs : List Nat) (s : State) : (captureRelease chs s).met.capture = s.met.capture :=
  foldl_field (g := fun t => t.met.capture) (by exact fun _ _ => rfl) ..

/-- A capture whose ticks have run ends, and its command completes with the first tick (R280). -/
theorem captureComplete_done {c : Capture} {s : State} (hcapture : s.met.capture = some c) (hruns : c.running = true)
    (hdone : c.ticks ≤ c.done) : ∃ p t, captureComplete s = complete c.ref stOk 0 (le 8 c.firstTick ++ p) t ∧ t.fol = s.fol ∧
      t.met.capture = none := by
  simp only [captureComplete, hcapture, hruns, hdone, decide_true, Bool.and_self, if_true]
  refine ⟨_, _, rfl, ?_, captureRelease_capture ..⟩
  rw [fol_eq_of_keeps (captureRelease_keeps rfl), setMet_fol]
  split
  · exact captureResults_fol ..
  · rw [fol_eq_of_keeps (produceAll_keeps rfl), drawBytes_fol]
    exact captureResults_fol ..

/-! ## Seals (R42, R271, R490) -/

theorem seals_eq_of_keeps {s t : State} (k : Keeps (allBut .seals) s s → Keeps (allBut .seals) s t) : t.seals = s.seals :=
  (k (Keeps.refl _ s)).sameSeals rfl

theorem sealAudit_sensed (p : Nat) (closed atPowerUp : Bool) (s : State) :
    (sealAudit p closed atPowerUp s).seals.sensed = s.seals.sensed := by
  unfold sealAudit
  extract_lets t
  have ht : t.seals = s.seals := seals_eq_of_keeps (audit_keeps rfl)
  change t.seals.sensed = s.seals.sensed
  rw [ht]

theorem metSealChanged_sensed (p : Nat) (closed : Bool) (s : State) : (metSealChanged p closed s).seals.sensed = s.seals.sensed := by
  unfold metSealChanged
  extract_lets t
  have ht : t.seals.sensed = s.seals.sensed := sealAudit_sensed ..
  split
  · rw [seals_eq_of_keeps (sealMs1Closed_keeps rfl), ht]
  · exact ht

theorem safSealOpened_sensed (p : Nat) (s : State) : (safSealOpened p s).seals.sensed = s.seals.sensed := by
  unfold safSealOpened
  extract_lets t
  split
  · rfl
  · rw [seals_eq_of_keeps (driversChanged_keeps rfl)]
    split
    · rw [seals_eq_of_keeps (seal7Opened_keeps rfl)]
    · rfl

/-- A change of a seal is sensed at its position, whatever else follows it. -/
theorem execSealChange_sensed {p : Nat} {c : Bool} {s : State} (hp : 1 ≤ p) (hp16 : p ≤ 16) (hchange : sealClosed s p ≠ c) :
    ∃ t, execSealChange p c s = .next t ∧ t.seals.sensed = modAt s.seals.sensed (p - 1) (fun _ => c) := by
  unfold execSealChange
  extract_lets bank s₁ s₂
  have h₁ : s₁.seals.sensed = modAt s.seals.sensed (p - 1) (fun _ => c) := rfl
  have h₂ : s₂.seals.sensed = s₁.seals.sensed := by
    unfold s₂
    split
    · rw [seals_eq_of_keeps (reportFault_keeps rfl)]
    · rfl
  rw [if_neg (by simp [hchange, Nat.not_lt.mpr hp16]; omega)]
  split
  · exact ⟨_, rfl, h₁⟩
  · split
    · exact ⟨_, rfl, by rw [seals_eq_of_keeps (settleReserved_keeps rfl), h₁]⟩
    · split
      · exact ⟨_, rfl, by rw [metSealChanged_sensed, h₂, h₁]⟩
      · refine ⟨_, rfl, ?_⟩
        split
        · rw [safSealOpened_sensed, h₂, h₁]
        · rw [h₂, h₁]

/-- A seal-bank sensed anew at one position. -/
theorem sealClosed_of_modAt {p : Nat} {c : Bool} {s t : State} (h : t.seals.sensed = modAt s.seals.sensed (p - 1) (fun _ => c))
    (hp : 1 ≤ p) (hlen : p ≤ s.seals.sensed.length) :
    sealClosed t p = c ∧ ∀ q, q ≠ p → 1 ≤ q → sealClosed t q = sealClosed s q := by
  have hin : p - 1 < s.seals.sensed.length := by omega
  refine ⟨?_, fun q hq hq1 => ?_⟩
  · simp [sealClosed, h, modAt, hin]
  · have hother : p - 1 ≠ q - 1 := by omega
    simp [sealClosed, h, modAt, hother]

/-! ## The obligation -/

/-- Settles O38, row by row: the self-test by the change of its group, the demand register by the sub-interval that closes or waits, the
capture by its record and its completion, the seal by the bank, the window by what follows its settlement. -/
theorem metrologyChecksItself : Obligations.MetrologyChecksItself := by
  unfold Obligations.MetrologyChecksItself
  intro s
  refine ⟨fun g hg hidle hkept hfree hpowered => ?_, fun g agree hg hmatch hheld => ?_, fun g hg hmatch hfree => ?_,
    fun g hg hmatch hfree => ?_, fun g hg hrematch => ?_, fun g hg htest => ?_, fun g hg htest => ?_, fun g hg hcheck hin => ?_,
    fun g hg hphase => ?_, fun k r e d hcal hlocal hreg hk hfield hdue hnone => ?_,
    fun k r e d hcal hsat hreg hk hfield hdue hnone hreceived => ?_, fun hfield hsince => ?_,
    fun c hcapture hwaits hfield hready => ?_, fun c o hcapture hruns hdone hout => ?_, fun p c hp hp16 hlen hchange => ?_,
    fun b w hup hpresent hover hnew => ?_⟩
  -- SELFTEST_STEP_START and SELFTEST_PHASE_END
  · refine ⟨_, congrArg Host.Outcome.next (selftestStep_idle hidle hkept hfree hpowered), ?_⟩
    rw [groupOf_setGroup hg]
    exact ⟨rfl, rfl, rfl⟩
  · refine ⟨_, congrArg Host.Outcome.next (selftestPhaseEnd_held hmatch hheld agree), ?_, rfl⟩
    rw [groupOf_setGroup hg]
  · refine ⟨_, congrArg Host.Outcome.next (selftestPhaseEnd_agreed hmatch hfree), ?_, fun hc => ?_⟩
    · rw [groupOf_after (u := s) (swapTo_groups ..) rfl hg]
    · exact onSpare_swapTo_setGroup hg (by exact fun _ => rfl) hc true
  · refine ⟨_, congrArg Host.Outcome.next (selftestPhaseEnd_differed hmatch hfree), ?_, ?_⟩
    · rw [groupOf_after (u := s) (by rw [countSelftest_met, selftestEvent_met]) rfl hg]
    · rw [countSelftest_met, selftestEvent_met, setGroup_selftestFailures]
  · refine ⟨_, congrArg Host.Outcome.next (selftestPhaseEnd_rematched hrematch), ?_, fun hc => ?_⟩
    · rw [groupOf_after (u := s) (by rw [selftestEvent_met, swapTo_groups]) rfl hg]
    · rw [metChan, selftestEvent_met, ← metChan]
      exact onSpare_swapTo_setGroup hg (by exact fun _ => rfl) hc false
  -- SELFTEST_PRIMARY_RESULT and SELFTEST_SPARE_RESULT
  · refine ⟨_, congrArg Host.Outcome.next (selftestPrimary_test htest true), ?_⟩
    rw [if_pos rfl, groupOf_setGroup hg]
  · obtain ⟨hpinned, -, hdetail⟩ := pinChannel_pins hg
    exact ⟨_, congrArg Host.Outcome.next (selftestPrimary_test htest false), hpinned, hdetail⟩
  · exact ⟨_, rfl, selftestSpare_passed hg hcheck hin⟩
  · have hmet : (raiseFault 0x50 4 (selftestEvent g 3 (countSelftest s))).met =
        { s.met with selftestFailures := s.met.selftestFailures + 1 } := by
      rw [raiseFault_met, selftestEvent_met, countSelftest_met]
    refine ⟨_, congrArg Host.Outcome.next (selftestSpare_failed hphase), ?_, ?_, ?_⟩
    · rw [groupOf_after (swapTo_groups ..) (by rw [hmet]) hg]
    · rw [groupOf_after (swapTo_groups ..) (by rw [hmet]) hg]
    · rw [swapTo_selftestFailures, setGroup_selftestFailures, hmet]
  -- DEMAND_BOUNDARY of a set on the module and of a satellite's
  · obtain ⟨hindex, htick, hticks, hwaits, hstart⟩ :=
      closeSub_starts d ((metSet s k).counters.getD d.quantity 0) (boundaryNow s d) false
    exact ⟨_, _, congrArg Host.Outcome.next (demandBoundary_local hcal hreg hfield hdue hnone hlocal), demand_storeDemand hk _, hindex,
      htick, hticks.trans (Nat.sub_self _), hwaits, hstart, closeSub_maximum ..⟩
  · refine ⟨_, congrArg Host.Outcome.next (demandBoundary_satellite hcal hreg hfield hdue hnone hsat), ?_⟩
    rw [closeWaiting_unreceived (by rw [metSet_setMetSet hk]; exact hreceived), metSet_setMetSet hk]
    exact get_put ..
  -- COIL_SETTLED
  · refine ⟨_, congrArg Host.Outcome.next (if_pos (by simp [hfield, hsince])), rfl, fun x hx => ?_⟩
    obtain ⟨y, -, rfl⟩ := List.mem_map.mp hx
    rfl
  -- CAPTURE_START and CAPTURE_COMPLETE
  · exact ⟨_, congrArg Host.Outcome.next (captureStart_ready hcapture hwaits hfield hready), rfl⟩
  · obtain ⟨p, t, hcomplete, hfol, hended⟩ := captureComplete_done hcapture hruns hdone
    obtain ⟨e, he, hkind, hsource, hpayload⟩ := complete_queues (hfol ▸ hout) stOk 0 (le 8 c.firstTick ++ p)
    obtain ⟨hstatus, htick⟩ := responseBytes_reads o.opcode o.tag stOk 0 8 (le 8 c.firstTick ++ p) t
    refine ⟨_, congrArg Host.Outcome.next hcomplete, by rw [complete_met, hended], e, he, hkind, hsource, ?_, ?_⟩
    · rw [hpayload, hstatus]
      rfl
    · rw [hpayload, htick]
      exact rd_le_append ..
  -- SEAL_CHANGE
  · obtain ⟨t, hexec, hsensed⟩ := execSealChange_sensed hp hp16 hchange
    exact ⟨t, hexec, sealClosed_of_modAt hsensed hp hlen⟩
  -- WINDOW_SETTLE_DEADLINE
  · exact ⟨_, congrArg Host.Outcome.next (if_pos (by simp [hup, hpresent, hover])), settleWindow_settles hnew⟩

end Sys2Proof.Machine
end

section
/-!
SUPPORT. The token engine's checks at arrival: what they rest on, and what they leave alone (R302, R624 of 09; R516 of 15).
-/

namespace Sys2Proof.Machine

/-! ## The key that an engine is given (R516) -/

section
variable {s t : State}

theorem slotAt_of_vlt (h : t.vlt = s.vlt) : slotAt t = slotAt s := by
  funext n
  simp only [slotAt, h]

theorem slotInForce_of_vlt (h : t.vlt = s.vlt) : slotInForce t = slotInForce s := by
  have hgood : copyGood t = copyGood s := by
    funext c
    simp only [copyGood, h]
  funext n
  simp only [slotInForce, slotAt_of_vlt h, hgood]

theorem findSlot_of_vlt (h : t.vlt = s.vlt) : findSlot t = findSlot s := by
  funext purpose index
  simp only [findSlot, slotNumbers, slotInForce_of_vlt h, slotAt_of_vlt h, h]

theorem engineFor_of_parts (hvlt : t.vlt = s.vlt) (hpwr : t.pwr = s.pwr) (cls : Nat) : engineFor t cls = engineFor s cls := by
  have hup : engineUp t cls = engineUp s cls := by
    funext i
    simp only [engineUp, engineAt, enginePowered, hvlt, hpwr]
  simp only [engineFor, enginesUp, engineAt, hvlt, hup]

/-- Whether Tansy delivers a key, and which, rests on the vault alone. -/
theorem requestKey_fst_of_vlt (h : t.vlt = s.vlt) (cls i : Nat) (x : KeyHandle) :
    (requestKey cls i x t).1 = (requestKey cls i x s).1 := by
  simp only [requestKey, findSlot_of_vlt h, slotInForce_of_vlt h, slotAt_of_vlt h, engineAt, h]
  cases findSlot s (handleMaster x).1 (handleMaster x).2 with
  | none => rfl
  | some n =>
    cases hforce : slotInForce s n with
    | none => simp only [apply_ite Prod.fst, hforce]
    | some c => simp only [apply_ite Prod.fst, hforce]

theorem keyFor_fst_of_parts (hvlt : t.vlt = s.vlt) (hpwr : t.pwr = s.pwr) (cls : Nat) (x : KeyHandle) :
    (keyFor cls x t).1 = (keyFor cls x s).1 := by
  simp only [keyFor, engineFor_of_parts hvlt hpwr]
  cases engineFor s cls with
  | none => rfl
  | some i => exact requestKey_fst_of_vlt hvlt ..

end

/-! ## What a request for a key leaves of the mailboxes -/

section
variable (s : State)

@[simp] theorem reportFault_mailboxes (src d : Nat) : (reportFault src d s).host.mailboxes = s.host.mailboxes := by
  rw [reportFault, endFault_host, raiseFault, raiseWith_mailboxes]

@[simp] theorem engineFault_mailboxes (d : Nat) : (engineFault d s).host.mailboxes = s.host.mailboxes := by
  unfold engineFault
  split
  · exact raiseWith_mailboxes ..
  · exact reportFault_mailboxes ..

@[simp] theorem refuseKey_mailboxes (cls i reason : Nat) (m : Nat × Nat) (slot : Nat) :
    (refuseKey cls i reason m slot s).host.mailboxes = s.host.mailboxes := by
  simp [refuseKey, apply_ite State.host, apply_ite HostState.mailboxes]

@[simp] theorem slotUnusable_mailboxes (n : Nat) : (slotUnusable n s).host.mailboxes = s.host.mailboxes := by
  simp [slotUnusable, vaultFault, raiseFault, vaultSlotEvent, apply_ite State.host, apply_ite HostState.mailboxes]

theorem requestKey_mailboxes (cls i : Nat) (x : KeyHandle) : (requestKey cls i x s).2.host.mailboxes = s.host.mailboxes := by
  simp only [requestKey]
  cases findSlot s (handleMaster x).1 (handleMaster x).2 with
  | none => simp
  | some n =>
    cases hforce : slotInForce s n with
    | none => simp [apply_ite Prod.snd, apply_ite State.host, apply_ite HostState.mailboxes, setEngine, hforce]
    | some c => simp [apply_ite Prod.snd, apply_ite State.host, apply_ite HostState.mailboxes, setEngine, hforce]

theorem keyFor_mailboxes (cls : Nat) (x : KeyHandle) : (keyFor cls x s).2.host.mailboxes = s.host.mailboxes := by
  simp only [keyFor]
  cases engineFor s cls with
  | none => rfl
  | some i => simp [apply_ite State.host, setEngine, requestKey_mailboxes]

end

/-! ## The checks -/

theorem committedAccount_of_led {s t : State} (h : t.led = s.led) (a : Nat) : committedAccount t a = committedAccount s a := by
  simp only [committedAccount, h]

section
variable (account value : Nat) (keypad : Bool) (s : State)

/-- The result of the checks once the engine has asked for the token key (R624). -/
def tokenResultCode (account value : Nat) : Option Bytes → Nat
  | none => 13
  | some key =>
    if value % 2 ^ 30 ≠ tokenMac key account value then 4
    else if tokenClass value = 3 && tokenAmountField value ≠ 0 then 14
    else 0

theorem tokenArrival_eq : tokenArrival account value keypad s =
    if keypad && (committedAccount s account).keypadLocked then (11, s)
    else if 2 ^ 66 ≤ value then (1, s)
    else if 4 ≤ tokenClass value then (2, s)
    else if 8 ≤ tokenAmountField value / 4096 then (3, s)
    else (tokenResultCode account value (keyFor 3 (.token account) s).1, (keyFor 3 (.token account) s).2) := by
  simp only [tokenArrival]
  obtain ⟨key, t⟩ := keyFor 3 (.token account) s
  cases key with
  | none => rfl
  | some key => simp only [tokenResultCode, apply_ite (Prod.mk · t)]

@[simp] theorem tokenArrival_led : (tokenArrival account value keypad s).2.led = s.led := led_eq_of_keeps (tokenArrival_keeps rfl)
@[simp] theorem tokenArrival_time : (tokenArrival account value keypad s).2.time = s.time := time_eq_of_keeps (tokenArrival_keeps rfl)

@[simp] theorem tokenArrival_mailboxes : (tokenArrival account value keypad s).2.host.mailboxes = s.host.mailboxes := by
  simp only [tokenArrival_eq, apply_ite Prod.snd, apply_ite State.host, apply_ite HostState.mailboxes, keyFor_mailboxes, ite_self]

/-- The result of the checks rests on the ledger, the vault and the power of its engines. -/
theorem tokenArrival_fst_of_parts {t : State} (hled : t.led = s.led) (hvlt : t.vlt = s.vlt) (hpwr : t.pwr = s.pwr) :
    (tokenArrival account value keypad t).1 = (tokenArrival account value keypad s).1 := by
  simp only [tokenArrival_eq, apply_ite Prod.fst, committedAccount_of_led hled, keyFor_fst_of_parts hvlt hpwr]

end

end Sys2Proof.Machine
end

section
/-!
PROOFS. O16: the LED_ reads (R315, R316, R323, R324 of 09).
-/

namespace Sys2Proof.Machine

/-! ## LED_STATUS, LED_ACCOUNT_READ and LED_LOCAL_READ -/

theorem length_slice (b : Bytes) (off n : Nat) : (slice b off n).length = n := by
  simp only [slice, List.length_append, List.length_replicate, List.length_take]
  omega

/-- The first fields of an account record half, as they stand behind its stamp (R285, R286). -/
theorem accountBytes_reads (stamp : Nat) (r : AccountRec) :
    rd (le 8 stamp ++ accountBytes r) 8 4 = (r.number + 2 ^ 20) % 2 ^ 32 ∧ rd (le 8 stamp ++ accountBytes r) 13 1 = r.plan % 256 := by
  unfold accountBytes
  simp [rd_append_right, rd_le_append]

/-- The first fields of a register set half (R309). -/
theorem localBytes_reads (stamp : Nat) (r : LocalRec) (b : Bytes) :
    rd (localBytes stamp r ++ b) 8 1 = r.set % 256 ∧ rd (localBytes stamp r ++ b) 10 2 = r.epoch % 65536 := by
  unfold localBytes
  simp [rd_append_right, rd_le_append]

/-- A field of a part of a record, which stands behind a header of 8 bytes, is the field of the record. -/
theorem rd_part {head : Bytes} (hhead : head.length = 8) {o n m : Nat} (h : o + n ≤ m) (b : Bytes) (off : Nat) :
    rd (head ++ slice b off m) (8 + o) n = rd b (off + o) n := by
  rw [rd_append_right (by omega), hhead, Nat.add_sub_cancel_left, rd_slice h]

section
variable {x : Ctx} {s : State}

theorem ledStatus_reads : ∃ p, cmdLedStatus.body x s = okWith p s ∧ p.length = 64 ∧ rd p 24 4 = s.led.tariff.gen % 2 ^ 32 ∧
    rd p 28 1 = s.led.billingMin % 256 ∧ rd p 40 4 = s.led.jseq % 2 ^ 32 ∧ rd p 48 8 = s.led.tokensAccepted % 2 ^ 64 ∧
    rd p 56 8 = s.led.tokensRejected % 2 ^ 64 :=
  ⟨_, rfl, by simp [rd_append_right, rd_le_append, rd_le]⟩

/-- Where a part of an account record half lies in it, and its length (R316). -/
def accountPart (part : Nat) : Nat × Nat := if part = 0 then (0, 0x60) else if part = 1 then (0x60, 0x90) else (0xF0, 12)

theorem slice_accountPart (b : Bytes) (part : Nat) : slice b (accountPart part).1 (accountPart part).2 =
    if part = 0 then slice b 0 0x60 else if part = 1 then slice b 0x60 0x90 else slice b 0xF0 12 := by
  unfold accountPart
  split
  · rfl
  · split <;> rfl

/-- LED_ACCOUNT_READ answers a part of the committed half (R316). -/
theorem ledAccountRead_body (haccount : rd x.p 0 4 < 2 ^ 20) (hpart : rd x.p 4 1 ≤ 2) (hresv : rd x.p 5 3 = 0)
    (hgood : accountDamaged s (rd x.p 0 4) = false) : ∃ stamp, cmdLedAccountRead.body x s =
      okWith ((le 1 (rd x.p 4 1) ++ zeros 7) ++ slice (le 8 stamp ++ accountBytes (committedAccount s (rd x.p 0 4)))
        (accountPart (rd x.p 4 1)).1 (accountPart (rd x.p 4 1)).2) s := by
  simp only [cmdLedAccountRead, hgood, slice_accountPart, Bool.false_eq_true, if_false]
  rw [checked_of_all (by simpa [accountCheck, inRange, field, resv, hpart, hresv] using haccount)]
  exact ⟨_, rfl⟩

/-- LED_LOCAL_READ answers a part of the committed half (R323). -/
theorem ledLocalRead_body {r : LocalRec} (hset : rd x.p 0 1 ≤ 31) (hpart : rd x.p 1 1 ≤ 5) (hresv : rd x.p 2 2 = 0)
    (hlocal : committedLocal s (rd x.p 0 1) = some r) : ∃ stamp crc, cmdLedLocalRead.body x s =
      okWith ((le 1 (rd x.p 0 1) ++ le 1 (rd x.p 1 1) ++ zeros 6) ++
        slice (localBytes stamp r ++ crc) (192 * rd x.p 1 1) (if rd x.p 1 1 = 5 then 64 else 192)) s := by
  simp only [cmdLedLocalRead, hlocal]
  rw [checked_of_all (by simp [inRange, resv, hset, hpart, hresv])]
  exact ⟨_, _, rfl⟩

theorem ledAccountRead_reads (haccount : rd x.p 0 4 < 2 ^ 20) (hpart : rd x.p 4 1 ≤ 2) (hresv : rd x.p 5 3 = 0)
    (hgood : accountDamaged s (rd x.p 0 4) = false) : ∃ p, cmdLedAccountRead.body x s = okWith p s ∧
      p.length = (if rd x.p 4 1 = 0 then 104 else if rd x.p 4 1 = 1 then 152 else 20) ∧ rd p 0 1 = rd x.p 4 1 ∧
      (rd x.p 4 1 = 0 → rd p 16 4 = ((committedAccount s (rd x.p 0 4)).number + 2 ^ 20) % 2 ^ 32 ∧
        rd p 21 1 = (committedAccount s (rd x.p 0 4)).plan % 256) := by
  obtain ⟨stamp, hbody⟩ := ledAccountRead_body haccount hpart hresv hgood
  have hbyte : rd x.p 4 1 % 256 = rd x.p 4 1 := Nat.mod_eq_of_lt (by omega)
  have hhead : (le 1 (rd x.p 4 1) ++ zeros 7).length = 8 := by simp
  refine ⟨_, hbody, ?_, by simp [rd_le_append, hbyte], fun hzero => ?_⟩
  · rw [List.length_append, hhead, length_slice]
    simp only [accountPart, apply_ite Prod.snd, apply_ite (8 + ·)]
  · have hplace : accountPart (rd x.p 4 1) = (0, 0x60) := if_pos hzero
    obtain ⟨hnumber, hplan⟩ := accountBytes_reads stamp (committedAccount s (rd x.p 0 4))
    rw [hplace]
    exact ⟨(rd_part hhead (o := 8) (by decide) _ 0).trans hnumber, (rd_part hhead (o := 13) (by decide) _ 0).trans hplan⟩

theorem ledLocalRead_reads {r : LocalRec} (hset : rd x.p 0 1 ≤ 31) (hpart : rd x.p 1 1 ≤ 5) (hresv : rd x.p 2 2 = 0)
    (hlocal : committedLocal s (rd x.p 0 1) = some r) :
    ∃ p, cmdLedLocalRead.body x s = okWith p s ∧ p.length = (if rd x.p 1 1 = 5 then 72 else 200) ∧ rd p 0 1 = rd x.p 0 1 ∧
      rd p 1 1 = rd x.p 1 1 ∧ (rd x.p 1 1 = 0 → rd p 16 1 = r.set % 256 ∧ rd p 18 2 = r.epoch % 65536) := by
  obtain ⟨stamp, crc, hbody⟩ := ledLocalRead_body hset hpart hresv hlocal
  have hbyte : rd x.p 0 1 % 256 = rd x.p 0 1 := Nat.mod_eq_of_lt (by omega)
  have hbyte' : rd x.p 1 1 % 256 = rd x.p 1 1 := Nat.mod_eq_of_lt (by omega)
  have hhead : (le 1 (rd x.p 0 1) ++ le 1 (rd x.p 1 1) ++ zeros 6).length = 8 := by simp
  refine ⟨_, hbody, ?_, by simp [rd_le_append, hbyte], by simp [rd_append_right, rd_le_append, hbyte'], fun hzero => ?_⟩
  · rw [List.length_append, hhead, length_slice]
    split <;> rfl
  · obtain ⟨hnumber, hepoch⟩ := localBytes_reads stamp r crc
    rw [hzero]
    exact ⟨(rd_part hhead (o := 8) (by decide) _ 0).trans hnumber, (rd_part hhead (o := 10) (by decide) _ 0).trans hepoch⟩

end

/-! ## The channel that LED_JOURNAL_READ opens (R136 of 05) -/

/-- What a channel's place in a transfer is: its direction and the transfer it carries. -/
def carriage (c : Nat) (s : State) : StreamDir × Option Transfer := ((chan s c).dir, (chan s c).transfer)

theorem carriage_of_channels {s t : State} (h : t.host.channels = s.host.channels) (c : Nat) : carriage c t = carriage c s := by
  simp only [carriage, chan, h]

section
variable (c : Nat) (s : State)

/-- A change of a channel that leaves its direction and its transfer. -/
theorem carriage_setChan {f : Channel → Channel} (hf : ∀ x, ((f x).dir, (f x).transfer) = (x.dir, x.transfer)) (i : Nat) :
    carriage c (setChan i f s) = carriage c s := by
  simp only [carriage, chan, setChan, modAt, List.getD_eq_getElem?_getD, List.getElem?_modify]
  cases s.host.channels[c]? with
  | none => rfl
  | some x =>
    split
    · exact hf x
    · rfl

@[simp] theorem carriage_interrupt (i : Nat) : carriage c (interrupt i s) = carriage c s :=
  carriage_of_channels (interrupt_channels ..) c

@[simp] theorem carriage_placePage (i : Nat) (p : Page) : carriage c (placePage i p s) = carriage c s := by
  simp only [placePage, carriage_interrupt]
  split
  · exact (carriage_of_channels rfl c).trans (carriage_setChan c s (by exact fun _ => rfl) i)
  · exact carriage_setChan c s (by exact fun _ => rfl) i

@[simp] theorem carriage_pumpPages (i : Nat) (ps : List Page) : carriage c (pumpPages i ps s) = carriage c s := by
  induction ps generalizing s with
  | nil => rfl
  | cons p ps ih =>
    simp only [pumpPages]
    split
    · exact (ih _).trans ((carriage_placePage ..).trans (carriage_setChan c s (by exact fun _ => rfl) i))
    · rfl

@[simp] theorem carriage_producePage (i : Nat) (p : Page) : carriage c (producePage i p s) = carriage c s := by
  exact (carriage_pumpPages ..).trans (carriage_setChan c s (by exact fun _ => rfl) i)

@[simp] theorem carriage_produceAll (i : Nat) (bs : List Bytes) : carriage c (produceAll i bs s) = carriage c s := by
  fun_induction produceAll with
  | case1 => rfl
  | case2 => exact carriage_producePage ..
  | case3 s b bs _ ih => rw [ih, carriage_producePage]

end

/-- The pages of a transfer to the host leave its channel open for it. -/
theorem carriage_sendTransfer {c : Nat} {s : State} (hc : c < s.host.channels.length) (t : Transfer) (bs : List Bytes) :
    carriage c (sendTransfer c t bs s) = (.toHost, some t) := by
  rw [sendTransfer, carriage_produceAll]
  simp [carriage, chan, openChannel, setChan, modAt, hc]

section
variable (s : State)

@[simp] theorem placePage_mailboxes (c : Nat) (p : Page) : (placePage c p s).host.mailboxes = s.host.mailboxes := by
  simp only [placePage, interrupt_mailboxes]
  split <;> rfl

@[simp] theorem pumpPages_mailboxes (c : Nat) (ps : List Page) : (pumpPages c ps s).host.mailboxes = s.host.mailboxes := by
  induction ps generalizing s with
  | nil => rfl
  | cons p ps ih =>
    simp only [pumpPages]
    split
    · exact (ih _).trans (placePage_mailboxes ..)
    · rfl

@[simp] theorem produceAll_mailboxes (c : Nat) (bs : List Bytes) : (produceAll c bs s).host.mailboxes = s.host.mailboxes := by
  fun_induction produceAll with
  | case1 => rfl
  | case2 => exact pumpPages_mailboxes ..
  | case3 s b bs _ ih => exact ih.trans (pumpPages_mailboxes ..)

theorem sendTransfer_mailboxes (c : Nat) (t : Transfer) (bs : List Bytes) :
    (sendTransfer c t bs s).host.mailboxes = s.host.mailboxes :=
  produceAll_mailboxes ..

end

/-- LED_JOURNAL_READ sends its entries and completes (R324). -/
theorem ledJournalRead_body {x : Ctx} {s : State} (hch : 1 ≤ rd x.p 0 1) (hch' : rd x.p 0 1 ≤ 7) (hresv : rd x.p 1 3 = 0)
    (hid : rd x.p 4 4 ≠ 0) (hcount : 1 ≤ rd x.p 12 4) (hcount' : rd x.p 12 4 ≤ 4194304)
    (hfrom : ∃ e ∈ s.led.journal, e.seq = rd x.p 8 4) (hidle : channelIdle s (rd x.p 0 1) = true) :
    ∃ t bs q, cmdLedJournalRead.body x s = .accepted [] (complete x.ref stOk 0 q (sendTransfer (rd x.p 0 1) t bs s)) ∧
      t.transferId = rd x.p 4 4 := by
  obtain ⟨e, hfound⟩ : ∃ e, s.led.journal.find? (fun e => e.seq == rd x.p 8 4) = some e := by
    simpa [← Option.isSome_iff_exists] using hfrom
  simp only [cmdLedJournalRead, hfound, hidle, Bool.not_true, Bool.false_eq_true, if_false]
  rw [checked_of_all (by simp [inRange, resv, hch, hch', hresv, hid, hcount, hcount'])]
  exact ⟨_, _, _, rfl, rfl⟩

/-! ## The obligation -/

/-- Settles O16, clause by clause: each read's body leaves the state and its payload is read back from the mailbox; the journal read's
pages and its completion leave its channel open to the host. -/
theorem ledgerReadsAnswer : Obligations.LedgerReadsAnswer := by
  unfold Obligations.LedgerReadsAnswer
  intro s rq k
  refine ⟨fun h => ?_, fun h haccount hpart hresv hgood => ?_, fun h haccount hpart hresv hgood => ?_,
    fun r h hset hpart hresv hlocal => ?_, fun h hch hch' hresv hid hcount hcount' hfrom hidle hexists => ?_⟩
  -- LED_STATUS
  · exact ⟨_, rfl, submit_read h (fun _ _ => rfl) ledStatus_reads⟩
  -- LED_ACCOUNT_READ of part 0 and of parts 1 and 2
  · obtain ⟨p, hbody, hlen, hecho, hfields⟩ := ledAccountRead_reads (x := bodyCtx cmdLedAccountRead rq k s)
      (s := atBody cmdLedAccountRead rq k s) haccount (Nat.le_trans (Nat.le_of_eq hpart) (Nat.zero_le 2)) hresv hgood
    exact ⟨_, rfl, submit_read h (fun _ _ => rfl) ⟨p, hbody, hlen.trans (if_pos hpart), hecho.trans hpart, hfields hpart⟩⟩
  · have hle : arg rq 4 1 ≤ 2 := by omega
    have hne : arg rq 4 1 ≠ 0 := by omega
    obtain ⟨p, hbody, hlen, hecho, -⟩ := ledAccountRead_reads (x := bodyCtx cmdLedAccountRead rq k s)
      (s := atBody cmdLedAccountRead rq k s) haccount hle hresv hgood
    exact ⟨_, rfl, submit_read h (fun _ _ => rfl) ⟨p, hbody, hlen.trans (if_neg hne), hecho⟩⟩
  -- LED_LOCAL_READ
  · exact ⟨_, rfl, submit_read h (fun _ _ => rfl) (ledLocalRead_reads (s := atBody cmdLedLocalRead rq k s) hset hpart hresv hlocal)⟩
  -- LED_JOURNAL_READ
  · obtain ⟨t, bs, q, hbody, hid'⟩ := ledJournalRead_body (x := bodyCtx cmdLedJournalRead rq k s)
      (s := atBody cmdLedJournalRead rq k s) hch hch' hresv hid hcount hcount' hfrom ((channelIdle_atBody ..).trans hidle)
    obtain ⟨haccepts, -⟩ := submit_accepted h (fun _ _ => rfl) hbody
      (by rw [complete_host, sendTransfer_mailboxes, atBody_mailboxes_length])
    have hopen : carriage (arg rq 0 1) (submit cmdLedJournalRead rq s) = (.toHost, some t) := by
      have hchannels := submit_accepted_channels h (fun _ _ => rfl) hbody
      rw [complete_host] at hchannels
      rw [carriage_of_channels hchannels]
      exact carriage_sendTransfer (by rwa [atBody_channels]) t bs
    obtain ⟨hdir, htransfer⟩ := Prod.mk.inj hopen
    exact ⟨_, rfl, haccepts, hdir, by rw [htransfer, Option.map_some, hid']; rfl⟩

end Sys2Proof.Machine
end

section
/-!
PROOFS. O17: the LED_ orders, tokens and the tariff arm (R317 to R322 of 09).
-/

namespace Sys2Proof.Machine

section
variable (c : Cmd) (rq : Request) (k : Nat) (s : State)

@[simp] theorem atBody_pwr : (atBody c rq k s).pwr = s.pwr := rfl
@[simp] theorem atBody_vlt : (atBody c rq k s).vlt = s.vlt := rfl

end

theorem checked_of_firstFail {cs : List Check} (h : firstFail cs = none) (s : State) (k : Answer) : checked cs s k = k := by
  simp only [checked, h]

/-! ## The bodies -/

section
variable {x : Ctx} {s : State}

theorem ledAccountSet_body (hchecks : firstFail (accountSetChecks x.p s) = none)
    (hready : accountSetReady (committedAccount s (rd x.p 0 4)) (accountDamaged s (rd x.p 0 4)) (rd x.p 4 1) = true) :
    cmdLedAccountSet.body x s = .accepted (zeros 8) (queueOrder x 0x0602 (rd x.p 0 4) s) :=
  (checked_of_firstFail hchecks ..).trans (if_pos hready)

theorem ledAdjust_body (haccount : rd x.p 0 4 < 2 ^ 20) (hamount : rd x.p 4 6 ≠ 0) (hready : accountReady s (rd x.p 0 4) = true) :
    cmdLedAdjust.body x s = .accepted [] (queueOrder x 0x0604 (rd x.p 0 4) s) :=
  (checked_of_all (by simpa [accountCheck, inRange, field, hamount] using haccount) ..).trans (if_pos hready)

theorem ledSupply_body (haccount : rd x.p 0 4 < 2 ^ 20) (haction : rd x.p 4 1 ≤ 3) (hresv : rd x.p 5 3 = 0)
    (hready : accountReady s (rd x.p 0 4) = true) :
    cmdLedSupply.body x s = .accepted [] (queueOrder x 0x0605 (rd x.p 0 4) s) :=
  (checked_of_all (by simpa [accountCheck, inRange, field, resv, haction, hresv] using haccount) ..).trans (if_pos hready)

theorem ledAccountRestore_body (hchecks : firstFail (imageChecks x.p s) = none)
    (hdamaged : accountDamaged s (rd x.p 0 4 % 2 ^ 20) = true) :
    cmdLedAccountRestore.body x s = .accepted [] (queueOrder x 0x0606 (rd x.p 0 4 % 2 ^ 20) s) :=
  (checked_of_firstFail hchecks ..).trans (if_pos hdamaged)

theorem ledTokenSubmit_body (haccount : rd x.p 0 4 < 2 ^ 20) (hdigits : (slice x.p 4 20).all isDigit = true) (hresv : rd x.p 24 8 = 0)
    (hgood : (tokenArrival (rd x.p 0 4) (digitsValue (slice x.p 4 20)) false s).1 = 0) (hroom : tokensFull s = false) :
    cmdLedTokenSubmit.body x s = .accepted [] (queueToken { id := 0, account := rd x.p 0 4, value := digitsValue (slice x.p 4 20)
                                                            keypad := false, ref := x.ref, checkedAt := s.time.uptime }
      (tokenArrival (rd x.p 0 4) (digitsValue (slice x.p 4 20)) false s).2) := by
  have heq : tokenArrival (rd x.p 0 4) (digitsValue (slice x.p 4 20)) false s =
      (0, (tokenArrival (rd x.p 0 4) (digitsValue (slice x.p 4 20)) false s).2) := Prod.ext hgood rfl
  have hroom' : tokensFull (tokenArrival (rd x.p 0 4) (digitsValue (slice x.p 4 20)) false s).2 = false := by
    rwa [tokensFull, tokenArrival_led]
  simp only [cmdLedTokenSubmit]
  rw [checked_of_all (by simpa [accountCheck, field, resv, hdigits, hresv] using haccount), heq]
  simp only [hroom', tokenArrival_time, Bool.false_eq_true, if_false]

theorem ledTariffArm_body (hch : 1 ≤ rd x.p 0 1) (hch' : rd x.p 0 1 ≤ 7) (hgroup : (groupCheck x.p 1 2).2.2 = true)
    (hresv : rd x.p 3 1 = 0) (hid : rd x.p 4 4 ≠ 0) (htick : (activationTick (.tariff {}) (roundTick (rd x.p 8 8)) s).isSome = true)
    (hlen : 64 ≤ rd x.p 16 4) (hlen' : rd x.p 16 4 ≤ 34208) (hfree : armBusy (.tariff {}) s = false)
    (hidle : channelIdle s (rd x.p 0 1) = true) : cmdLedTariffArm.body x s =
      .accepted [] (receiveTransfer x 0x0610 (rd x.p 0 1) (rd x.p 4 4) (rd x.p 16 4) (rd x.p 20 4) 16 20 s) := by
  simp only [cmdLedTariffArm]
  rw [checked_of_all (by simp only [List.all_cons, inRange, htick]; simp [resv, hch, hch', hgroup, hresv, hid, hlen, hlen'])]
  simp only [hfree, hidle, Bool.not_true, Bool.false_eq_true, if_false]

/-- The channel that takes a command's pages, with the length it expects (R136 of 05). -/
theorem chan_of_receiveTransfer {opcode c id expected crc lenOff crcOff : Nat} {s t : State}
    (h : t.host.channels = (receiveTransfer x opcode c id expected crc lenOff crcOff s).host.channels)
    (hc : c < s.host.channels.length) : (chan t c).dir = .fromHost ∧
      (chan t c).transfer.map (fun y => (y.opcode, y.transferId, y.expected)) = some (opcode, id, expected) := by
  simp [chan, h, receiveTransfer, openChannel, setChan, modAt, hc]

end

/-! ## The obligation -/

/-- Where the body queues an order, the ledger takes it at the end of its list and is otherwise as it was (R308, R315). -/
theorem submit_queues_order {c : Cmd} {rq : Request} {k opcode account : Nat} {s : State} {dry : Bytes} (h : Served c rq k s)
    (hupd : ∀ h p, c.updating { s with host := h } p = c.updating s p)
    (hbody : c.body (bodyCtx c rq k s) (atBody c rq k s) =
      .accepted dry (queueOrder (bodyCtx c rq k s) opcode account (atBody c rq k s))) :
    Accepts c rq k (submit c rq s) ∧ (submit c rq s).led = { s.led with orders := s.led.orders ++
      [{ ref := s.fol.nextRef, opcode := opcode, account := account, acceptedAt := s.time.uptime, body := rq.args }] } := by
  obtain ⟨haccepts, hkeeps⟩ := submit_accepted h hupd hbody (atBody_mailboxes_length ..)
  exact ⟨haccepts, hkeeps.sameLed rfl⟩

/-- Settles O17, clause by clause: an order stands at the end of the list that its body leaves, a token at the end of those that wait, and
the table's channel is open from the host. -/
theorem ledgerOrdersAreAccepted : Obligations.LedgerOrdersAreAccepted := by
  unfold Obligations.LedgerOrdersAreAccepted
  intro s rq k
  refine ⟨fun h hchecks hready => ?_, fun h haccount hamount hready => ?_, fun h haccount haction hresv hready => ?_,
    fun h hchecks hdamaged => ?_, fun h haccount hdigits hresv hgood hroom => ?_,
    fun h hch hch' hgroup hresv hid htick hlen hlen' hfree hidle hexists => ?_⟩
  -- LED_ACCOUNT_SET, LED_ADJUST, LED_SUPPLY and LED_ACCOUNT_RESTORE
  · exact ⟨_, rfl, submit_queues_order h (fun _ _ => rfl) (ledAccountSet_body (s := atBody cmdLedAccountSet rq k s) hchecks hready)⟩
  · exact ⟨_, rfl, submit_queues_order h (fun _ _ => rfl) (ledAdjust_body (s := atBody cmdLedAdjust rq k s) haccount hamount hready)⟩
  · exact ⟨_, rfl, submit_queues_order h (fun _ _ => rfl)
      (ledSupply_body (s := atBody cmdLedSupply rq k s) haccount haction hresv hready)⟩
  · exact ⟨_, rfl, submit_queues_order h (fun _ _ => rfl)
      (ledAccountRestore_body (s := atBody cmdLedAccountRestore rq k s) hchecks hdamaged)⟩
  -- LED_TOKEN_SUBMIT
  · have hgood' : (tokenArrival (arg rq 0 4) (digitsValue (slice rq.args 4 20)) false (atBody cmdLedTokenSubmit rq k s)).1 = 0 := by
      rw [tokenArrival_fst_of_parts _ _ _ s (atBody_led ..) (atBody_vlt ..) (atBody_pwr ..), hgood]
    obtain ⟨haccepts, hkeeps⟩ := submit_accepted h (fun _ _ => rfl)
      (ledTokenSubmit_body (s := atBody cmdLedTokenSubmit rq k s) haccount hdigits hresv hgood' hroom)
      (by simp [queueToken])
    refine ⟨_, rfl, haccepts, ?_⟩
    rw [hkeeps.sameLed rfl]
    simp [queueToken, arg]
  -- LED_TARIFF_ARM
  · have hbody := ledTariffArm_body (x := bodyCtx cmdLedTariffArm rq k s) (s := atBody cmdLedTariffArm rq k s) hch hch' hgroup hresv hid
      htick hlen hlen' hfree ((channelIdle_atBody ..).trans hidle)
    obtain ⟨haccepts, -⟩ := submit_accepted h (fun _ _ => rfl) hbody (by rw [receiveTransfer_mailboxes, atBody_mailboxes_length])
    exact ⟨_, rfl, haccepts, chan_of_receiveTransfer (submit_accepted_channels h (fun _ _ => rfl) hbody) (by rwa [atBody_channels])⟩

end Sys2Proof.Machine
end

section
/-!
SUPPORT. Meters, campaigns and working pages after a change, and what the operations of Sepal leave alone (R287 of 09; R412, R413, R423 of
12).
-/

namespace Sys2Proof.Machine

theorem mtr_eq_of_keeps {s t : State} (k : Keeps (allBut .mtr) s s → Keeps (allBut .mtr) s t) : t.mtr = s.mtr :=
  (k (Keeps.refl _ s)).sameMtr rfl

/-! ## Events, completions and faults -/

section
variable (s : State)

@[simp] theorem raiseEvent_mtr (kind src : Nat) (c : Bool) (p : Bytes) : (raiseEvent kind src c p s).mtr = s.mtr :=
  mtr_eq_of_keeps (raiseEvent_keeps rfl)
@[simp] theorem raiseEvent_led (kind src : Nat) (c : Bool) (p : Bytes) : (raiseEvent kind src c p s).led = s.led :=
  led_eq_of_keeps (raiseEvent_keeps rfl)
@[simp] theorem raiseEvent_time (kind src : Nat) (c : Bool) (p : Bytes) : (raiseEvent kind src c p s).time = s.time :=
  time_eq_of_keeps (raiseEvent_keeps rfl)
@[simp] theorem complete_mtr (ref st d : Nat) (p : Bytes) : (complete ref st d p s).mtr = s.mtr :=
  mtr_eq_of_keeps (complete_keeps rfl)
@[simp] theorem meterFault_mtr (d : Nat) : (meterFault d s).mtr = s.mtr := mtr_eq_of_keeps (meterFault_keeps rfl)
@[simp] theorem campaignEvent_mtr (n : Nat) : (campaignEvent n s).mtr = s.mtr := mtr_eq_of_keeps (campaignEvent_keeps rfl)

theorem sendDatagram_outstanding (handle type : Nat) (body : Bytes) :
    (sendDatagram handle type body s).fol.outstanding = s.fol.outstanding := by
  unfold sendDatagram
  split
  · split
    · split <;> rfl
    · rfl
  · rfl

/-- A command that completes is no longer outstanding (R122). -/
theorem complete_outstanding (ref st d : Nat) (p : Bytes) :
    (complete ref st d p s).fol.outstanding = s.fol.outstanding.filter (fun o => o.ref != ref) := by
  cases hfind : s.fol.outstanding.find? (fun o => o.ref == ref) with
  | none =>
    have hnone : ∀ o ∈ s.fol.outstanding, o.ref ≠ ref := by simpa using hfind
    simp only [complete, hfind]
    exact (List.filter_eq_self.mpr (by simpa using hnone)).symm
  | some o => simp only [complete, hfind, sendDatagram_outstanding, queueCompletion]

/-- A source of class C that is raised is dated to this tick (R539). -/
theorem raiseFault_lastTick {src : Nat} (hclass : sourceClass src = some 2) (detail : Nat) :
    (faultRecord (raiseFault src detail s) src).lastTick = now s := by
  simp [raiseFault, raiseWith, hclass, faultRecord, apply_ite State.flt, interrupt_flt, faultEvent_flt, traceWrite_flt, Tab.getD, get_put]

/-- The end of a condition leaves when and with what detail it was last raised (R539). -/
theorem endFault_record (src : Nat) : (faultRecord (endFault src s) src).lastTick = (faultRecord s src).lastTick ∧
    (faultRecord (endFault src s) src).detail = (faultRecord s src).detail := by
  simp only [endFault]
  split
  · simp [faultRecord, faultLevel_records, faultEvent_flt, Tab.getD, get_put]
  · exact ⟨rfl, rfl⟩

theorem meterFault_record (detail : Nat) :
    (faultRecord (meterFault detail s) 0x90).lastTick = now s ∧ (faultRecord (meterFault detail s) 0x90).detail = detail := by
  have htick := raiseFault_lastTick s (src := 0x90) rfl detail
  have hdetail := (raiseFault_is (src := 0x90) rfl (by decide) detail s).2
  unfold meterFault
  split
  · exact ⟨htick, hdetail⟩
  · obtain ⟨htick', hdetail'⟩ := endFault_record (raiseFault 0x90 detail s) 0x90
    exact ⟨htick'.trans htick, hdetail'.trans hdetail⟩

end

/-! ## The meter of an account -/

section
variable {s t : State} (a : Nat)

theorem meterOf_of_meters (h : t.mtr.meters = s.mtr.meters) : meterOf t a = meterOf s a := by
  simp only [meterOf, h]

theorem pageOf_of_led (h : t.led = s.led) : pageOf t a = pageOf s a := by
  simp only [pageOf, h]

theorem now_of_time (h : t.time = s.time) : now t = now s := by
  simp only [now, h]

end

section
variable (a : Nat) (f : Meter → Meter) (s : State)

theorem meterOf_setMeter : meterOf (setMeter a f s) a = (meterOf s a).map f := by
  unfold setMeter
  cases hmeter : meterOf s a with
  | none => exact hmeter
  | some y => exact get_put ..

/-- What a change of a meter does not touch is as it was. -/
theorem meterOf_setMeter_field {β : Type} {f : Meter → Meter} {g : Meter → β} (hf : ∀ y, g (f y) = g y) :
    (meterOf (setMeter a f s) a).map g = (meterOf s a).map g := by
  rw [meterOf_setMeter, Option.map_map, show g ∘ f = g from funext hf]

@[simp] theorem setMeter_led : (setMeter a f s).led = s.led := led_eq_of_keeps (setMeter_keeps rfl)
@[simp] theorem setMeter_fol : (setMeter a f s).fol = s.fol := fol_eq_of_keeps (setMeter_keeps rfl)

@[simp] theorem setMeter_campaigns : (setMeter a f s).mtr.campaigns = s.mtr.campaigns := by
  unfold setMeter
  split <;> rfl

end

section
variable (a : Nat) (s : State)

@[simp] theorem queueNow_led (type level : Nat) (b : Bytes) : (queueNow a type level b s).led = s.led :=
  led_eq_of_keeps (queueNow_keeps rfl)
@[simp] theorem queueNow_campaigns (type level : Nat) (b : Bytes) : (queueNow a type level b s).mtr.campaigns = s.mtr.campaigns :=
  setMeter_campaigns ..
@[simp] theorem answerRequest_led (action : Nat) : (answerRequest a action s).led = s.led := led_eq_of_keeps (answerRequest_keeps rfl)
@[simp] theorem addVoltages_led (b : Nat) (l : List (Nat × Nat)) : (addVoltages b a l s).led = s.led := rfl
@[simp] theorem dropCampaignMsgs_campaigns (n : Nat) (types : List Nat) :
    (dropCampaignMsgs n a types s).mtr.campaigns = s.mtr.campaigns :=
  setMeter_campaigns ..

/-- A message that is queued changes the meter's queue alone. -/
theorem meterOf_queueNow_field {β : Type} {g : Meter → β} (hg : ∀ y q, g { y with queue := q } = g y) (type level : Nat) (b : Bytes) :
    (meterOf (queueNow a type level b s) a).map g = (meterOf s a).map g :=
  meterOf_setMeter_field a s fun _ => hg ..

/-- A request that is answered is taken from the meter, and nothing else of it changes. -/
theorem meterOf_answerRequest_field {β : Type} {g : Meter → β} (hg : ∀ y, g { y with request := none } = g y) (action : Nat) :
    (meterOf (answerRequest a action s) a).map g = (meterOf s a).map g := by
  unfold answerRequest
  split
  · split
    · rw [meterOf_of_meters a (congrArg MeterState.meters (complete_mtr ..))]
      exact meterOf_setMeter_field a s hg
    · rfl
  · rfl

theorem meterOf_fwIdentity (fw : Nat) : meterOf (fwIdentity a fw s) a = meterOf s a := rfl

theorem meterOf_setPage (f : WorkPage → WorkPage) : meterOf (setPage a f s) a = meterOf s a := rfl

/-- Working pages are changed one at a time. -/
theorem pageOf_setPage (f : WorkPage → WorkPage) : pageOf (setPage a f s) a = f (pageOf s a) := by
  simp [pageOf, setPage, Tab.upd, Tab.getD, get_put]

end

/-! ## Campaigns -/

section
variable (n : Nat) (s : State)

theorem get_setCampaign (f : Campaign → Campaign) :
    Tab.get (setCampaign n f s).mtr.campaigns n = (Tab.get s.mtr.campaigns n).map f := by
  unfold setCampaign
  cases hget : Tab.get s.mtr.campaigns n with
  | none => exact hget
  | some c => exact get_put ..

theorem get_campaignTo (p : CampaignPhase) : Tab.get (campaignTo n p s).mtr.campaigns n =
    (Tab.get s.mtr.campaigns n).map (fun c => { c with phase := p, asked := false, repaired := false }) := by
  rw [campaignTo, campaignEvent_mtr, get_setCampaign]

end

/-! ## A message taken out of the inbox (R412) -/

/-- The state without a message of the inbox. -/
def withoutMsg (m : InMsg) (s : State) : State := setMtr (fun t => { t with inbox := t.inbox.erase m }) s

section
variable {s : State} {a type : Nat} {m : InMsg}

theorem onMessage_arrived (h : Arrived s a type m) (f : InMsg → Bytes → State → State) :
    onMessage a type f s = f m (m.payload.drop 4) (withoutMsg m s) := by
  simp only [onMessage, takeInbox, h.2]
  rfl

theorem account_of_arrived (h : Arrived s a type m) : m.account = a := by
  have hkey := List.find?_some h.2
  simp only [Bool.and_eq_true, beq_iff_eq] at hkey
  exact hkey.1

/-- The row of a message runs its handler on the message that has arrived. -/
theorem next_arrived (h : Arrived s a type m) (f : InMsg → Bytes → State → State) :
    (Host.Outcome.next (if sepalUp s then onMessage a type f s else s) : Result) =
      .next (f m (m.payload.drop 4) (withoutMsg m s)) := by
  rw [if_pos h.1, onMessage_arrived h]

end

end Sys2Proof.Machine
end

section
/-!
PROOFS. O43: the messages of meters and what follows from their silence (R300 of 09; R409, R413 to R416, R419 to R421, R423, R431 of 12).
-/

namespace Sys2Proof.Machine

/-! ## Readings, credit and events (R414, R415, R417, R419) -/

/-- A reading is put on the page of its account; what follows it changes no page (R414). -/
theorem pageOf_takeReading (m : InMsg) (body : Bytes) (s : State) :
    (pageOf (takeReading m body s) m.account).reading.map (fun x => (x.tick, x.importWh, x.exportWh)) =
        some (rd body 0 8, rd body 8 8, rd body 16 8) ∧
      ((rd body 34 2).testBit 0 = true → (pageOf (takeReading m body s) m.account).reading.map (·.intervals) = some []) := by
  unfold takeReading
  extract_lets a tick start len count usable c parts x s₁ s₂ volts s₃ s₄
  have hled : (answerRequest a 0 s₄).led = s₁.led := by
    simp only [s₄, s₃, s₂, answerRequest_led, apply_ite State.led, queueNow_led, addVoltages_led, setMeter_led, ite_self]
  have hpage : (pageOf (answerRequest a 0 s₄) a).reading = some x := by
    rw [pageOf_of_led a hled, pageOf_setPage]
  rw [hpage]
  exact ⟨rfl, fun hbit => by simp [x, usable, hbit]⟩

theorem meterOf_takeReading {m : InMsg} {y : Meter} {s : State} (hmeter : meterOf s m.account = some y) (body : Bytes) :
    (meterOf (takeReading m body s) m.account).map (fun z => (z.lastReading, z.lastRead)) = some (rd body 0 8, now s) := by
  unfold takeReading
  extract_lets a tick start len count usable c parts x s₁ s₂ volts s₃ s₄
  have hpage : meterOf s₁ a = some y := hmeter
  have hnoted : (meterOf s₂ a).map (fun z => (z.lastReading, z.lastRead)) = some (tick, now s) := by
    rw [meterOf_setMeter, hpage]
    rfl
  have hvolts : meterOf s₃ a = meterOf s₂ a := by
    simp only [s₃]
    split
    · exact meterOf_of_meters a rfl
    · rfl
  have hagain : (meterOf s₄ a).map (fun z => (z.lastReading, z.lastRead)) =
      (meterOf s₃ a).map (fun z => (z.lastReading, z.lastRead)) := by
    simp only [s₄]
    split
    · exact meterOf_queueNow_field a s₃ (by exact fun _ _ => rfl) ..
    · rfl
  exact (meterOf_answerRequest_field a s₄ (by exact fun _ => rfl) 0).trans (hagain.trans (by rw [hvolts, hnoted]))

/-- A CREDIT_ACK is noted, and ends the push where it names the current allowance (R415). -/
theorem meterOf_takeCreditAck {m : InMsg} {y : Meter} {s : State} (hmeter : meterOf s m.account = some y) (body : Bytes) :
    meterOf (takeCreditAck m body s) m.account = some { y with
      creditAcked := some (rd body 0 4), relay := rd body 4 1
      queue := if rd body 0 4 = (committedAccount s m.account).allowanceSeq then y.queue.filter (fun z => z.type != msgCredit)
        else y.queue } := by
  simp only [takeCreditAck, committedAccount_of_led (setMeter_led ..)]
  split
  · rw [meterOf_setMeter, meterOf_setMeter, hmeter]
    rfl
  · rw [meterOf_setMeter, hmeter]
    rfl

/-- A last gasp whose event_seq is higher than the last is accepted, queued on its account's page and reported (R417, R419). -/
theorem meterEvent_lastGasp {b a : Nat} {y : Meter} {s : State} {seq : Nat} (hmeter : meterOf s a = some y)
    (hfresh : ∀ l, y.lastEventSeq = some l → laterGen seq l = true) (radio : Bool) (time data : Nat) :
    meterEvent b a radio 1 seq time data s = raiseEvent 0x0900 b true (le 4 a ++ le 1 radio.toNat ++ zeros 11)
      (setPage a (fun p => { p with reports := p.reports ++ [some time] })
        (setMeter a (fun y => { y with lastEventSeq := some seq, lastEventKind := 1 }) s)) := by
  cases hlast : y.lastEventSeq with
  | none => simp [meterEvent, hmeter, hlast]
  | some l => simp [meterEvent, hmeter, hlast, higher16, hfresh l hlast]

theorem takeEvent_lastGasp {m : InMsg} {body : Bytes} {y : Meter} {s : State} (hmeter : meterOf s m.account = some y)
    (hkind : rd body 0 1 = 1) (hfresh : ∀ l, y.lastEventSeq = some l → laterGen (rd body 2 2) l = true) :
    (pageOf (takeEvent m body s) m.account).reports = (pageOf s m.account).reports ++ [some (rd body 4 8)] ∧
      (meterOf (takeEvent m body s) m.account).map (fun z => (z.lastEventKind, z.lastEventSeq)) = some (1, some (rd body 2 2)) := by
  rw [takeEvent, hkind, meterEvent_lastGasp hmeter hfresh]
  refine ⟨?_, ?_⟩
  · rw [pageOf_of_led _ (raiseEvent_led ..), pageOf_setPage, pageOf_of_led _ (setMeter_led ..)]
  · rw [meterOf_of_meters _ (congrArg MeterState.meters (raiseEvent_mtr ..)), meterOf_setPage, meterOf_setMeter, hmeter]
    rfl

/-! ## Tokens and emergency credit (R300, R416) -/

/-- A keypad token that verifies so far joins those that wait, where they are not too many (R305, R416). -/
theorem takeToken_tokens {m : InMsg} {body : Bytes} {s : State} (hgood : (tokenArrival m.account (rd body 0 9) true s).1 = 0)
    (hroom : tokensFull s = false) : (takeToken m body s).led.tokens = s.led.tokens ++
      [{ id := s.led.nextToken, account := m.account, value := rd body 0 9, keypad := true, checkedAt := s.time.uptime }] := by
  have hroom' : tokensFull (tokenArrival m.account (rd body 0 9) true s).2 = false := by rwa [tokensFull, tokenArrival_led]
  simp [takeToken, hgood, hroom', queueToken]

/-- A request for emergency credit takes the next place among the tokens, unless one waits already (R300). -/
theorem takeEmergency_page {m : InMsg} {s : State} (hnone : (pageOf s m.account).emergency = none) (body : Bytes) :
    (pageOf (takeEmergency m body s) m.account).emergency = some s.led.nextToken ∧
      (takeEmergency m body s).led.nextToken = s.led.nextToken + 1 := by
  have hpage : pageOf (takeEmergency m body s) m.account =
      pageOf (setPage m.account (fun p => { p with emergency := some (p.emergency.getD s.led.nextToken) }) s) m.account := rfl
  rw [hpage, pageOf_setPage, hnone]
  exact ⟨rfl, rfl⟩

/-! ## Identity and keys (R409, R420, R421) -/

/-- An IDENTITY of the bound serial is taken into the meter (R409). -/
theorem meterOf_takeIdentity {m : InMsg} {body : Bytes} {y : Meter} {s : State} (hmeter : meterOf s m.account = some y)
    (hserial : rd body 0 8 = y.serial) :
    (meterOf (takeIdentity m body s) m.account).map (fun z => (z.model, z.fw, z.phases, z.capabilities)) =
      some (rd body 8 4, rd body 12 4, rd body 16 1, rd body 17 1) := by
  simp only [takeIdentity, hmeter, hserial, ne_eq, not_true_eq_false, if_false]
  rw [meterOf_answerRequest_field _ _ (by exact fun _ => rfl), meterOf_setMeter, meterOf_fwIdentity, hmeter]
  rfl

/-- An IDENTITY of another serial over the power line is a fault of source 0x90, and takes the node off its routes (R409). -/
theorem takeIdentity_mismatch {m : InMsg} {body : Bytes} {y : Meter} {s : State} (hmeter : meterOf s m.account = some y)
    (hserial : rd body 0 8 ≠ y.serial) (hline : m.radio = false) : (faultRecord (takeIdentity m body s) 0x90).lastTick = now s ∧
      (faultRecord (takeIdentity m body s) 0x90).detail = 3 ∧
      (nodeAt (takeIdentity m body s) m.bridge (committedAccount s m.account).node).phase = .unrouted := by
  have htime := raiseEvent_time s 0x0903 m.account false (le 8 (rd body 0 8) ++ le 8 y.serial)
  simp only [takeIdentity, hmeter, hserial, ne_eq, not_false_eq_true, if_true, identityMismatch, hline, Bool.false_eq_true, if_false]
  obtain ⟨htick, hdetail⟩ := meterFault_record (raiseEvent 0x0903 m.account false (le 8 (rd body 0 8) ++ le 8 y.serial) s) 3
  exact ⟨htick.trans (now_of_time htime), hdetail, by simp [nodeAt, netAt, Tab.upd, Tab.getD, get_put]⟩

/-- A KEY_ACK of the generation announced makes the meter's link key the new one, with counters from zero (R420). -/
theorem meterOf_takeKeyAck_link {m : InMsg} {body : Bytes} {y : Meter} {n c : Nat} {s : State} (hmeter : meterOf s m.account = some y)
    (hlink : rd body 0 1 = 0xFF) (hchange : y.keyChange = some (n, c)) (hgen : rd body 1 1 = n) :
    (meterOf (takeKeyAck m body s) m.account).map (fun z => (z.keyGen, z.keyChange, z.down, z.up)) = some (n, none, 0, 0) := by
  simp only [takeKeyAck, hlink, hmeter, hgen, Option.bind_some, hchange, if_true]
  rw [meterOf_answerRequest_field _ _ (by exact fun _ => rfl), meterOf_setMeter, hmeter]
  rfl

/-- A KEY_ACK of a group key is noted with its network, group and generation (R421). -/
theorem meterOf_takeKeyAck_group {m : InMsg} {body : Bytes} {y : Meter} {s : State} (hmeter : meterOf s m.account = some y)
    (hgroup : rd body 0 1 ≠ 0xFF) :
    ∃ z, meterOf (takeKeyAck m body s) m.account = some z ∧ (m.bridge, rd body 0 1, rd body 1 1) ∈ z.groupKeys := by
  simp only [takeKeyAck, hgroup, if_false, meterOf_setMeter, hmeter]
  exact ⟨_, rfl, List.mem_cons_self⟩

/-! ## Firmware (R423) -/

/-- A FW_STATUS of states 1 to 5 is noted in its target (R423). -/
theorem takeFwStatus_target {m : InMsg} {body : Bytes} {c : Campaign} {x : FwTarget} {s : State}
    (hcampaign : Tab.get s.mtr.campaigns (rd body 0 2) = some c) (hruns : c.ended = false)
    (htarget : Tab.get c.targets m.account = some x) (hstate : 1 ≤ rd body 2 1) (hstate' : rd body 2 1 ≤ 5) :
    ∃ d, Tab.get (takeFwStatus m body s).mtr.campaigns (rd body 0 2) = some d ∧ Tab.get d.targets m.account = some { x with
      state := some (rd body 2 1), firstMissing := rd body 4 4, bitmap := slice body 8 64 } := by
  have hknown : ¬ 5 < rd body 2 1 := Nat.not_lt.mpr hstate'
  have hnamed : rd body 2 1 ≠ 0 := by omega
  simp only [takeFwStatus, hcampaign, htarget, hruns, hknown, hnamed, decide_false, Bool.or_false, Bool.false_eq_true, if_false,
    campaignEvent_mtr, apply_ite State.mtr, apply_ite MeterState.campaigns, queueNow_campaigns, ite_self]
  rw [get_setCampaign, dropCampaignMsgs_campaigns, hcampaign]
  exact ⟨_, rfl, get_put ..⟩

/-- The activation time of a campaign that runs: the targets left behind count as failed (R423, R424). -/
theorem activateCampaign_counts {n : Nat} {c : Campaign} {s : State} (hcampaign : Tab.get s.mtr.campaigns n = some c)
    (hruns : c.ended = false) (hphase : c.phase = .announce ∨ c.phase = .pass ∨ c.phase = .repair) :
    ∃ d, Tab.get (activateCampaign n s).mtr.campaigns n = some d ∧ d.phase = .activated ∧
      d.failed = c.targets.countP (fun e => !(e.2.state == some 2 || e.2.state == some 3 || e.2.state == some 5)) := by
  have hopen : (c.ended || c.phase = .activated || c.phase = .paused || c.phase = .aborted) = false := by
    obtain h | h | h := hphase <;> simp [hruns, h]
  simp only [activateCampaign, hcampaign, hopen, Bool.false_eq_true, if_false, get_campaignTo, get_setCampaign]
  rw [foldl_field (g := fun t => t.mtr.campaigns) (fun _ _ => queueNow_campaigns ..),
    foldl_field (g := fun t => t.mtr.campaigns) (fun _ _ => dropCampaignMsgs_campaigns ..), hcampaign]
  exact ⟨_, rfl, rfl, rfl⟩

/-! ## Give-ups and timeouts (R413, R431) -/

/-- What waits for the meter of an account. -/
def queueAt (a : Nat) (s : State) : Option (List OutMsg) := (meterOf s a).map (·.queue)

theorem queueAt_of_mtr {s t : State} (h : t.mtr = s.mtr) (a : Nat) : queueAt a t = queueAt a s := by
  simp only [queueAt, meterOf, h]

/-- A message given up is no longer in the meter's queue: what else is done about it queues nothing (R413, R420). -/
theorem queueAt_giveUp (a : Nat) (x : OutMsg) (s : State) :
    queueAt a (giveUp a x s) = (queueAt a s).map (fun q => q.filter (fun y => y != x)) := by
  unfold giveUp
  extract_lets s₁ s₂ r s₃ s₄
  have hdropped : queueAt a s₁ = (queueAt a s).map (fun q => q.filter (fun y => y != x)) := by
    simp only [queueAt, s₁, meterOf_setMeter, Option.map_map]
    rfl
  have hrequest : queueAt a s₂ = queueAt a s₁ := by
    simp only [s₂]
    split
    · split
      · exact (queueAt_of_mtr (complete_mtr ..) a).trans (meterOf_setMeter_field a s₁ (by exact fun _ => rfl))
      · rfl
    · rfl
  have hchange : queueAt a s₃ = queueAt a s₂ := meterOf_setMeter_field a s₂ (by exact fun _ => rfl)
  have hmedium : queueAt a s₄ = queueAt a s₃ := by
    simp only [s₄]
    split <;> rfl
  split
  · rw [hrequest, hdropped]
  · rw [queueAt_of_mtr (meterFault_mtr ..), hmedium, hchange, hrequest, hdropped]

section
variable {a : Nat} {y : Meter} {s : State}

theorem exec_sepalSendGiveup {x : OutMsg} (hup : sepalUp s = true) (hmeter : meterOf s a = some y)
    (hfind : y.queue.find? (fun z => 8 ≤ z.sends && z.type != msgCredit) = some x) :
    exec (.sepalSendGiveup a) s = .next (giveUp a x s) := by
  change execSepalSendGiveup a s = _
  simp only [execSepalSendGiveup, hmeter, Option.bind_some, hfind, hup, if_true]

theorem exec_mtrRequestTimeout {q : MeterRequest} (hmeter : meterOf s a = some y) (hrequest : y.request = some q) :
    exec (.mtrRequestTimeout a) s = .next (complete q.ref stNotReady 0 []
      (setMeter a (fun m => { m with request := none, queue := m.queue.filter (fun x => x.request != some q.ref) }) s)) := by
  change execMtrRequestTimeout a s = _
  simp only [execMtrRequestTimeout, hmeter, Option.bind_some, hrequest]

end

/-! ## The obligation -/

/-- Settles O43, row by row: what each message's handler leaves of the meter, the campaign, the page or the waiting tokens, in the state
that the message has been taken out of. -/
theorem meterMessagesAreProcessed : Obligations.MeterMessagesAreProcessed := by
  unfold Obligations.MeterMessagesAreProcessed
  intro s a m y hmeter
  refine ⟨fun h => ?_, fun h => ?_, fun h hkind hfresh => ?_, fun h hgood hroom => ?_, fun h hnone => ?_, fun h hserial => ?_,
    fun h hserial hline => ?_, fun n c h hlink hchange hgen => ?_, fun h hgroup => ?_,
    fun c x h hcampaign hruns htarget hstate hstate' => ?_, fun x hup hfind => ?_, fun q hrequest => ?_,
    fun n c hup hcampaign hruns hphase => ?_⟩
  -- SEPAL_READING, SEPAL_CREDIT_ACK and SEPAL_EVENT
  · obtain rfl := account_of_arrived h
    obtain ⟨hreading, hintervals⟩ := pageOf_takeReading m (m.payload.drop 4) (withoutMsg m s)
    exact ⟨_, next_arrived h takeReading, hreading,
      meterOf_takeReading (s := withoutMsg m s) hmeter (m.payload.drop 4), hintervals⟩
  · obtain rfl := account_of_arrived h
    exact ⟨_, next_arrived h takeCreditAck, meterOf_takeCreditAck (s := withoutMsg m s) hmeter _⟩
  · obtain rfl := account_of_arrived h
    exact ⟨_, next_arrived h takeEvent, takeEvent_lastGasp (s := withoutMsg m s) hmeter hkind hfresh⟩
  -- SEPAL_TOKEN and SEPAL_EMERGENCY_REQ
  · obtain rfl := account_of_arrived h
    have hgood' : (tokenArrival m.account (rd (m.payload.drop 4) 0 9) true (withoutMsg m s)).1 = 0 :=
      (tokenArrival_fst_of_parts _ _ _ s (t := withoutMsg m s) rfl rfl rfl).trans hgood
    exact ⟨_, next_arrived h takeToken, takeToken_tokens (s := withoutMsg m s) hgood' hroom⟩
  · obtain rfl := account_of_arrived h
    exact ⟨_, next_arrived h takeEmergency, takeEmergency_page (s := withoutMsg m s) hnone _⟩
  -- SEPAL_IDENTITY of the bound serial and of another
  · obtain rfl := account_of_arrived h
    exact ⟨_, next_arrived h takeIdentity, meterOf_takeIdentity (s := withoutMsg m s) hmeter hserial⟩
  · obtain rfl := account_of_arrived h
    exact ⟨_, next_arrived h takeIdentity, takeIdentity_mismatch (s := withoutMsg m s) hmeter hserial hline⟩
  -- SEPAL_KEY_ACK of the link key and of a group key
  · obtain rfl := account_of_arrived h
    exact ⟨_, next_arrived h takeKeyAck, meterOf_takeKeyAck_link (s := withoutMsg m s) hmeter hlink hchange hgen⟩
  · obtain rfl := account_of_arrived h
    obtain ⟨z, hz, hkey⟩ := meterOf_takeKeyAck_group (s := withoutMsg m s) hmeter hgroup
    exact ⟨_, z, next_arrived h takeKeyAck, hz, hkey⟩
  -- SEPAL_FW_STATUS
  · obtain rfl := account_of_arrived h
    obtain ⟨d, hd, htarget'⟩ := takeFwStatus_target (s := withoutMsg m s) hcampaign hruns htarget hstate hstate'
    exact ⟨_, d, next_arrived h takeFwStatus, hd, htarget'⟩
  -- SEPAL_SEND_GIVEUP and MTR_REQUEST_TIMEOUT
  · refine ⟨_, exec_sepalSendGiveup hup hmeter hfind, fun z hz hmem => ?_⟩
    have hqueue := queueAt_giveUp a x s
    rw [queueAt, queueAt, hz, hmeter, Option.map_some, Option.map_some, Option.map_some, Option.some.injEq] at hqueue
    rw [hqueue] at hmem
    simp at hmem
  · refine ⟨_, exec_mtrRequestTimeout hmeter hrequest, ?_, ?_⟩
    · rw [meterOf_of_meters a (congrArg MeterState.meters (complete_mtr ..)), meterOf_setMeter, hmeter]
      rfl
    · rw [complete_outstanding, setMeter_fol]
  -- FW_CAMPAIGN_ACTIVATE
  · obtain ⟨d, hd, hphase', hfailed⟩ := activateCampaign_counts hcampaign hruns hphase
    exact ⟨_, d, congrArg Host.Outcome.next (if_pos hup), hd, hphase', hfailed⟩

end Sys2Proof.Machine
end

section
/-!
PROOFS. O18: a suspicion record whose place in DRAM an uncorrectable error has hit reads as bytes that nothing gives (R205 of 07), which the
statement's clause about BAL_SUSPICION_READ leaves out.
-/

namespace Sys2Proof.Machine

/-! ## The payload of a response -/

/-- A mailbox holds one payload: the header before it has the same length in every response (R121). -/
theorem Reports.payload_unique {opcode k st d : Nat} {rq : Request} {p q : Bytes} {t : State} (hp : Reports opcode rq k st d p t)
    (hq : Reports opcode rq k st d q t) : p = q := by
  obtain ⟨hp, -⟩ := hp
  obtain ⟨hq, -⟩ := hq
  exact List.append_inj_right (hp.symm.trans hq) (by simp)

/-- What is said of a served request's response is said of what its body answers. -/
theorem holds_of_answers {c : Cmd} {rq : Request} {k len : Nat} {s : State} {p : Bytes} {holds : Bytes → Prop} (h : Served c rq k s)
    (hupd : ∀ h p, c.updating { s with host := h } p = c.updating s p)
    (hbody : c.body (bodyCtx c rq k s) (atBody c rq k s) = okWith p (atBody c rq k s))
    (hanswers : Answers c rq k len (submit c rq s) holds) : holds p := by
  obtain ⟨q, hq, -, hholds⟩ := hanswers
  obtain ⟨hp, -⟩ := submit_ok h hupd hbody (atBody_mailboxes_length ..)
  rwa [hp.payload_unique hq]

/-! ## BAL_SUSPICION_READ of a record marked lost -/

theorem balSuspicionRead_lost {x : Ctx} {s : State} {y : Suspicion} (hfind : findSuspicion s (rd x.p 0 4) = some y)
    (hlost : y.lost = true) : cmdBalSuspicionRead.body x s = okWith (lostBytes y.id 128) s := by
  simp only [cmdBalSuspicionRead, hfind, suspicionBytes, hlost, if_true]

/-! ## The counterexample -/

/-- Suspicion record 7 about a network, at place 0 of the map of suspicion records (R345, R350). -/
def suspicionAbout (subject : Nat) : Suspicion where
  id := 7
  subject := subject
  kind := 1
  phase := 0
  openedWindow := 1
  lastWindow := 2

/-- A READER session of the host. -/
def readerSession : Session where
  handle := 1
  role := .reader
  principal := 1
  pending := false
  challenge := []
  hostEph := []
  moduleEph := []
  idleS := 900
  lastUsed := 0

/-- A running module with that record, after an uncorrectable error of the DRAM transfer where the map of suspicion records begins:
the record is marked lost (R205 of 07). -/
def poisonedModule (subject : Nat) : State := loseBalance 0x4ED00000 { State.reset with
  pwr := { vigilOn := true, fieldOn := true, computeOn := true, mode := .full }
  host := { linkTraining := true, configRetry := false }
  fol := { ready := true, lifecycle := .sealed, sessions := [readerSession] }
  bal := { suspicions := [suspicionAbout subject] } }

/-- BAL_SUSPICION_READ of record 7 over mailbox 0. -/
def readRecord : Request where
  via := .mailbox 0
  tag := 7
  length := 4
  flags := 0
  session := 1
  reserved := 0
  payload := le 4 7

theorem poisonedModule_served (subject : Nat) : Served cmdBalSuspicionRead readRecord 0 (poisonedModule subject) := by
  have howner : (poisonedModule subject).host.owner = 0 := rfl
  have hdone : (poisonedModule subject).host.done = 0 := rfl
  have hfree : mailboxPhase (poisonedModule subject) 0 ≠ .busy := by simp [mailboxPhase, howner, hdone]
  exact ⟨rfl, by decide, Nat.succ_pos 31, rfl, hfree, rfl, rfl, rfl, rfl⟩

theorem poisonedModule_suspicions (subject : Nat) :
    (poisonedModule subject).bal.suspicions = [{ suspicionAbout subject with lost := true }] := by
  have hhit : inTransfer 0x4ED00000 0x4ED00000 128 0 = true := by decide
  simp [poisonedModule, loseBalance, setBal, suspicionAbout, hhit]

theorem poisonedModule_findSuspicion (subject : Nat) :
    findSuspicion (poisonedModule subject) (arg readRecord 0 4) = some { suspicionAbout subject with lost := true } := by
  have hid : arg readRecord 0 4 = 7 := by decide
  simp [findSuspicion, poisonedModule_suspicions, hid, suspicionAbout]

/-- If the statement held, the bytes of a record marked lost would name its network. -/
theorem lostBytes_subject_of_obligation (h : Obligations.BalanceCommandsAnswer) (subject : Nat) :
    rd (lostBytes 7 128) 4 2 = subject % 65536 := by
  have hserved := poisonedModule_served subject
  have hfind := poisonedModule_findSuspicion subject
  obtain ⟨-, -, -, -, -, -, -, hread, -⟩ := h (poisonedModule subject) readRecord 0
  obtain ⟨t, ht, hanswers⟩ := hread _ hserved hfind
  obtain rfl : submit cmdBalSuspicionRead readRecord (poisonedModule subject) = t := Host.Outcome.next.inj ht
  obtain ⟨-, hsubject, -⟩ := holds_of_answers hserved (fun _ _ => rfl)
    (balSuspicionRead_lost (s := atBody cmdBalSuspicionRead readRecord 0 (poisonedModule subject)) hfind rfl) hanswers
  exact hsubject

/-- Refutes O18: its clause about BAL_SUSPICION_READ says of every record held that the answer names its subject; a record marked lost, as
in `poisonedModule`, answers bytes that depend on its number alone (R205), so that networks 3 and 4 would be one. -/
theorem not_balanceCommandsAnswer : ¬ Obligations.BalanceCommandsAnswer := by
  intro h
  have hsame : 3 % 65536 = 4 % 65536 := (lostBytes_subject_of_obligation h 3).symm.trans (lostBytes_subject_of_obligation h 4)
  exact absurd hsame (by decide)

end Sys2Proof.Machine
end
